-- ==== Sys2Proof/Word.lean ====
section
/-! DEFINITION. The word types of the module and the sparse table that indexed state is held in. -/

namespace Sys2Proof

/-- One byte of an address space (R24: a transaction carries whole bytes). -/
abbrev Byte := BitVec 8

/-- One 32-bit register of the address map (R8). -/
abbrev Word := BitVec 32

/-- The 64-bit slate, in ticks of 8 ns (R273). -/
abbrev Slate := BitVec 64

/-- Indexed state held sparsely: index and value, indices strictly rising, no entry equal to what an unlisted
index reads as. The reading and writing operations are in Machine/Ops.lean. -/
abbrev Tbl (V : Type) := List (Nat × V)

end Sys2Proof
end

