-- ==== Sys2Proof/Syntax.lean ====
section
/-! DEFINITION. The commands of the block: one constructor per row of spec/opcode_table.json, with the row's operands.
An initiator is its ID of R25; an index is bounded by its type; what an operand stands for is said with each row. -/

namespace Sys2Proof

/-- What a power die's sensors read over one ledger interval (R168): its stage link, the hottest sensor and the
reference sensor T_P, both signed in 1/16 °C. -/
structure DieReading where
  link : Fin 14
  hot : BitVec 16
  tp : BitVec 16
  deriving DecidableEq, Repr

/-- The supply of a die: its stage link and VBAT in mV (R73). -/
structure DieSupply where
  link : Fin 14
  vbat : BitVec 16
  deriving DecidableEq, Repr

/-- The 40 bits that arrive on a stage link (R211), and where: at the LG (0), or at the die beside the frame waiting there (1) or in
its place (2). -/
structure LinkWord where
  place : Fin 3
  bits : BitVec 40
  deriving DecidableEq, Repr

/-- A CAN frame (R294): identifier, extended format, remote frame, FD format, bit-rate switch, data length code and the
payload bytes. -/
structure CanFrame where
  id : BitVec 29 := 0
  ide : Bool := false
  rtr : Bool := false
  fdf : Bool := false
  brs : Bool := false
  dlc : BitVec 4 := 0
  data : List Byte := []
  deriving DecidableEq, Repr

/-- An Ethernet frame at a port (R331 to R335): addresses, the VLAN tag (VID and PCP) if it has one, EtherType, the bytes
after it, the sequence number of its R-TAG, and what MACsec found of it: AN, PN and whether the ICV holds. -/
structure EthFrame where
  dst : BitVec 48 := 0
  src : BitVec 48 := 0
  tag : Option (BitVec 12 × BitVec 3) := none
  etype : BitVec 16 := 0
  data : List Byte := []
  rtag : Option (BitVec 16) := none
  sec : Option (BitVec 2 × BitVec 32 × Bool) := none
  deriving DecidableEq, Repr

/-- An active part of an expansion as its window shows it (R507): the expansion, TYPE, VERSION, and its COMPAT entries (TYPE,
TARGET, MIN, MAX). -/
structure RemotePart where
  module : Fin 4
  type : Fin 8
  version : BitVec 32
  compat : List (BitVec 8 × BitVec 8 × BitVec 32 × BitVec 32)
  deriving DecidableEq, Repr

/-- The content of a REQ frame (R388): original initiator ID, type (0 READ, 1 WRITE, 2 WRITE_POSTED), SPEC, address, the length of a
read, the data of a write. -/
structure TrunkReq where
  orig : BitVec 8
  op : Fin 3
  spec : Bool
  addr : BitVec 32
  len : BitVec 16
  data : List Byte
  deriving DecidableEq, Repr

/-- The content of a gateway frame on the Trunk (R388): GW_LONG or GW_SHORT, the key of R337, the ID word of R351 (GW_LONG alone), the
payload. -/
structure TrunkGw where
  long : Bool
  key : BitVec 48
  idw : BitVec 32
  data : List Byte
  deriving DecidableEq, Repr

/-- A command. -/
inductive Instr where
  /-- REGISTER_WRITE (R11). A write to a register that has no row of its own updates its RW fields and ignores RO, reserved and read-only-range bytes. Operands: initiator, address, 1 to 64 bytes. -/
  | registerWrite (init : Byte) (a : Word) (bytes : List Byte)
  /-- W1C_FLAG_CLEAR (R14). A write of 1 to a W1C flag clears it unless hardware sets it in the same cycle. Operands: initiator, address, the word written, the flags that hardware sets in the same cycle. -/
  | w1cFlagClear (init : Byte) (a w same : Word)
  /-- ABSENT_BLOCK_WRITE (R6). A write to an absent block is ignored, completes normally and increments SYS_ABSENT_WR_CNT. Operands: initiator, address, 1 to 64 bytes. -/
  | absentBlockWrite (init : Byte) (a : Word) (bytes : List Byte)
  /-- STRONGROOM_WRITE_DROP (R12). A write by a non-Strongroom initiator to Strongroom-owned bytes is dropped, counted, stamped and completes REFUSED. Operands: initiator, address, 1 to 64 bytes. -/
  | strongroomWriteDrop (init : Byte) (a : Word) (bytes : List Byte)
  /-- SPECULATIVE_READ_REFUSED (R13). A speculative transaction covering a read-sensitive byte is refused whole with zero data and no side effect. Operands: initiator, address, length 1 to 64. -/
  | speculativeReadRefused (init : Byte) (a : Word) (n : BitVec 7)
  /-- DECODE_ERROR (R29). An access outside the address map or crossing ranges completes DECODE_ERR, counts and may post a BUSERR cue. Operands: initiator, write, address, length 1 to 64. -/
  | decodeError (init : Byte) (write : Bool) (a : Word) (n : BitVec 7)
  /-- SPINE_TRANSACTION_GRANT (R27). A waiting Spine transaction is granted its target port by class and round-robin order and completes. Operands: target port: an island of R93, or 30 for the Larder and the Attic. -/
  | spineTransactionGrant (port : Fin 31)
  /-- ISLAND_ACCESS_RESUME (R100). An access waiting on a stopped island proceeds when that island's clock runs again. Operands: island. -/
  | islandAccessResume (isl : Fin 30)
  /-- POWER_ON_RESET_RELEASE (R113). Power-on reset is released, straps are sampled and the cold boot runs to Run. Operands: TK_ROLE1:0, RECOV_N, crystal valid, cabinet record authentic, VBAT in mV. -/
  | powerOnResetRelease (role : Fin 4) (recovN xtalOk cabinetOk : Bool) (vbat : BitVec 16)
  /-- RESET_PIN_ASSERT (R63). A filtered low level on RESET_N starts a full reset with cause RESET_PIN. -/
  | resetPinAssert
  /-- RESET_PIN_RELEASE (R61). RESET_N going high ends a pin-held full reset. -/
  | resetPinRelease
  /-- FULL_RESET_ENTRY (R110). A full reset records its cause, sends hold commands, flushes the Dailies, clamps MRAM and resets the logic. -/
  | fullResetEntry
  /-- FULL_RESET_RELEASE (R114). Release of a full reset starts the warm boot that re-adopts every die and reaches Run. Operands: crystal valid, cabinet record authentic, VBAT in mV. -/
  | fullResetRelease (xtalOk cabinetOk : Bool) (vbat : BitVec 16)
  /-- STRONGROOM_SELF_TEST (R466). The lockstep self-test completes, releasing the Strongroom or restarting the boot up to three times. Operands: whether the test passes. -/
  | strongroomSelfTest (pass : Bool)
  /-- SCRIPT_LOAD (R495). The essential Script sections are validated and loaded into the units, or the Script is rejected. Operands: VBAT in mV. -/
  | scriptLoad (vbat : BitVec 16)
  /-- LAZY_SECTION_LOAD (R494). A lazy Script section loads after Run, and the last one posts SCRIPT_COMPLETE. -/
  | lazySectionLoad
  /-- DIE_ADOPTION (R115). A die is adopted by reading back its held state into the contexts and resuming keep-alive. Operands: stage link. -/
  | dieAdoption (n : Fin 14)
  /-- CREW_RELEASE (R237). A crew is released with engines in their start state and a START cue queued. Operands: crew. -/
  | crewRelease (c : Fin 6)
  /-- LEDGER_SEED (R175). The ledger seeds its die and wire models from sensors, held values or decay. Operands: 0 cold boot, 1 warm boot, 2 exit from Sleep or Deep sleep; sensor readings; the gap of R175 in µs. -/
  | ledgerSeed (kind : Fin 3) (reads : List DieReading) (gapUs : BitVec 64)
  /-- FEED_GROUP_BLOCK (R65). A feed group falling below the rail, shorted or reversed is blocked by its ideal-diode stage. Operands: feed group 0 A, 1 B. -/
  | feedGroupBlock (g : Fin 2)
  /-- FEED_MEASURE (R69). Every 10 µs the feed voltages and currents are measured and their result slots updated. Operands: voltages of A and B in mV, currents in 10 mA signed, stages conducting. -/
  | feedMeasure (va ia vb ib : BitVec 16) (conduct : BitVec 2)
  /-- BAND_CHANGE (R71). VBAT crossing a band threshold changes the band, sets its flag and writes a band record. Operands: VBAT in mV. -/
  | bandChange (vbat : BitVec 16)
  /-- BROWNOUT_RESET (R74). VBAT below the logic brown-out threshold starts a full reset and sets BROWNOUT. Operands: VBAT in mV. -/
  | brownoutReset (vbat : BitVec 16)
  /-- DIE_UNDERVOLTAGE (R73). A die below its undervoltage threshold turns all off, loses its held state and waits for adoption. Operands: the die's supply. -/
  | dieUndervoltage (x : DieSupply)
  /-- PWR_REQ_RUN (R85). A write of TARGET Run by a permitted initiator ends Idle or completes at once. Operands: writer. -/
  | pwrReqRun (init : Byte)
  /-- PWR_REQ_ENTRY (R86). A write of a low-power TARGET starts the consent round of an entry. Operands: writer; target 0 Idle, 1 Sleep, 2 Deep sleep, 3 Off. -/
  | pwrReqEntry (init : Byte) (t : Fin 4)
  /-- PWR_REQ_RESERVED (R85). A write of TARGET 0b101-0b111 changes nothing and increments PWR_DENIED_CNT. Operands: writer. -/
  | pwrReqReserved (init : Byte)
  /-- PWR_VOTE (R88). A voter's first consent or veto is recorded from its initiator ID. Operands: writer, CONSENT, REASON. -/
  | pwrVote (init : Byte) (consent : Bool) (reason : Byte)
  /-- CONSENT_TIMEOUT (R86). At the end of T_CONSENT the entry is committed or refused. Operands: expansions whose own round refused. -/
  | consentTimeout (refused : BitVec 3)
  /-- ENTRY_STEPS_COMPLETE (R86). Committed entry steps and expansions complete, dies park and crossings are clamped. Operands: expansions that report sealed. -/
  | entryStepsComplete (sealed : BitVec 3)
  /-- SEAL_CONFIRM (R86). The Cellar confirms no wake is latched and the target state is entered. -/
  | sealConfirm
  /-- WAKE_EVENT (R81). An enabled wake source is latched into PWR_WAKE_SRC and starts exit or aborts an entry. Operands: source as in R80. -/
  | wakeEvent (bit : Fin 24)
  /-- SLEEP_EXIT (R75). The module leaves Sleep to Run within 150 µs with state retained. -/
  | sleepExit
  /-- DEEP_SLEEP_EXIT (R76). The module leaves Deep sleep, restores Attic content and reloads the Script. Operands: crystal valid, cabinet record authentic. -/
  | deepSleepExit (xtalOk cabinetOk : Bool)
  /-- CELLAR_WAKE_TIMER (R83). The Cellar wake timer expires and latches a wake. -/
  | cellarWakeTimer
  /-- INPUT_POLL (R82). A polled input is wetted and read each poll interval, waking on two differing reads. Operands: whether each input reads active. -/
  | inputPoll (levels : BitVec 96)
  /-- I2C_ADDRESS_MATCH (R84). The matcher acknowledges a matching address, latches a wake and stretches SCL. Operands: address on the bus. -/
  | i2cAddressMatch (addr : BitVec 7)
  /-- REFUSAL_TABLE_CLEAR (R92). A write of PWR_REF_CLR.CLEAR empties the refusal table and clears PWR_REF_OVF. -/
  | refusalTableClear
  /-- XING_RESYNC_REQ (R98). The reset side of a closed FIFO crossing raises REQ and the running side zeroes its pointer and raises ACK. Operands: writing and reading island, entries pending. -/
  | xingResyncReq (frm dst : Fin 30) (pending : BitVec 16)
  /-- XING_RESYNC_ACK (R98). The reset side sees ACK, zeroes its pointer and drops REQ. Operands: writing and reading island. -/
  | xingResyncAck (frm dst : Fin 30)
  /-- XING_RESYNC_OPEN (R98). ACK drops and the crossing reopens for traffic. Operands: writing and reading island. -/
  | xingResyncOpen (frm dst : Fin 30)
  /-- SPINE_HANG (R102). A transaction outstanding for one supervision period is recorded and starts a full reset. Operands: island of the waiting transaction's target. -/
  | spineHang (isl : Fin 30)
  /-- CREW_HEARTBEAT_MISS (R472). A supervised crew beat missing when due starts a full reset with cause STR_CREW_HEARTBEAT. Operands: crew. -/
  | crewHeartbeatMiss (c : Fin 6)
  /-- DLO_UNLOCK (R106). A DLO out of lock or without output sets DLO_UNLOCK and runs on or stops its island. Operands: island, whether the output is absent. -/
  | dloUnlock (isl : Fin 30) (absent : Bool)
  /-- XTAL_FAIL (R106). A crystal out of range stops all DLOs and starts a full reset. -/
  | xtalFail
  /-- HANG_RECORD_CLEAR (R102). Any write of SYS_HANG_ADDR clears SYS_HANG_INFO.VALID. -/
  | hangRecordClear
  /-- CH_CMD_OFF (R135). A CH_CMD write of MODE OFF ends the channel's phase and turns it off at SLEW_OFF. Operands: channel, initiator, TAG. -/
  | chCmdOff (c : Fin 132) (init tag : Byte)
  /-- CH_CMD_ON (R134). A CH_CMD write of MODE ON makes a command turn-on or a deferral. Operands: channel, initiator, TAG. -/
  | chCmdOn (c : Fin 132) (init tag : Byte)
  /-- CH_CMD_PWM (R134). A CH_CMD write of MODE PWM moves the channel into PWM timing. Operands: channel, initiator, TAG. -/
  | chCmdPwm (c : Fin 132) (init tag : Byte)
  /-- CH_CMD_RESTART (R136). A CH_CMD write with RESTART makes the next on-edge run from point 0. Operands: channel, initiator, MODE, TAG. -/
  | chCmdRestart (c : Fin 132) (init : Byte) (mode : BitVec 2) (tag : Byte)
  /-- CH_PWM_WRITE (R127). A CH_PWM write stages a duty change for the next period or the whole word for the next frame boundary. Operands: channel, initiator, the word's fields. -/
  | chPwmWrite (c : Fin 132) (init : Byte) (duty : BitVec 11) (pdiv : BitVec 2) (phase : BitVec 10)
  /-- PWM_ON_EDGE (R136). A PWM on-edge turns the output on, running the profile from EDGE_START or point 0. Operands: channel. -/
  | pwmOnEdge (c : Fin 132)
  /-- PWM_OFF_EDGE (R136). A PWM off-edge turns the output off and may cut a running profile. Operands: channel. -/
  | pwmOffEdge (c : Fin 132)
  /-- GATE_CLOSE (R129). The Strongroom closes a die's output-enable gate and its channels open to GATED. Operands: stage link of the die. -/
  | gateClose (n : Fin 14)
  /-- GATE_OPEN (R129). The gate opens and channels with MODE not OFF make a command turn-on. Operands: stage link of the die. -/
  | gateOpen (n : Fin 14)
  /-- PROFILE_COMMIT (R131). A COMMIT write checks the profile table and sends it to the die or rejects it. Operands: channel, initiator, CH_PROF_CTL word. -/
  | profileCommit (c : Fin 132) (init : Byte) (ctl : Word)
  /-- PROFILE_TRANSFER_DONE (R132). A committed profile reaches the die and waits for the next on-edge. Operands: channel. -/
  | profileTransferDone (c : Fin 132)
  /-- PROFILE_POINT (R130). Profile time reaches a point and the ceiling in force changes. Operands: channel. -/
  | profilePoint (c : Fin 132)
  /-- PROFILE_END (R130). The profile reaches its END point, the regulator releases and the channel goes ON or PWM. Operands: channel. -/
  | profileEnd (c : Fin 132)
  /-- CAPTURE_END (R141). A 32-bin capture ends and is classed, updating the SIG slot and the envelope. Operands: channel, bin means from bin 0 (a missing bin counts 0), valid bits. -/
  | captureEnd (c : Fin 132) (bins : List (BitVec 12)) (valid : Word)
  /-- ENVELOPE_LEARN (R142). A LEARN write discards the envelope and restarts learning. Operands: channel, initiator, CH_SIG_CFG word. -/
  | envelopeLearn (c : Fin 132) (init : Byte) (cfg : Word)
  /-- ENVELOPE_WRITE (R144). A write to CH_ENVn sets ENV_STATE to MANUAL and resends HI values. Operands: channel, initiator, bin, word. -/
  | envelopeWrite (c : Fin 132) (init : Byte) (n : Fin 32) (w : Word)
  /-- SLOT_TAKE (R147). A read touching byte 0 of a TAKE status word captures the slot and moves READY to TAKEN. Operands: unit code of R5, channel index for unit 0x03, slot number. -/
  | slotTake (unit index slot : Byte)
  /-- CURRENT_WINDOW (R145). A CURRENT window completes, updating the slot and the open-load count. Operands: channel, mean current, on-time in µs. -/
  | currentWindow (c : Fin 132) (mean onUs : BitVec 16)
  /-- FAST_TRIP (R150). Current above ITRIP latches the trip and opens the channel within 120 ns. Operands: channel. -/
  | fastTrip (c : Fin 132)
  /-- DIE_OVERTEMP (R154). A die sensor at 170 °C sets the latch and opens every channel of the die. Operands: stage link. -/
  | dieOvertemp (n : Fin 14)
  /-- DIE_OVERTEMP_CLEAR (R154). All sensors at or below 140 °C clear the die overtemperature latch. Operands: stage link. -/
  | dieOvertempClear (n : Fin 14)
  /-- BUDGET_INTERVAL (R155). At each 10 µs profile interval the die adds the excess over HI to the budget integral. Operands: channel, bin that holds the start of the interval, mean current. -/
  | budgetInterval (c : Fin 132) (bin mean : BitVec 16)
  /-- FDM_EXPIRE (R159). The 20 µs feed-disturbance mark of a die ends. Operands: stage link. -/
  | fdmExpire (n : Fin 14)
  /-- SHORT_BAT_DETECT (R162). An OFF output above half VBAT for 1 ms sets the verdict SHORT_BAT. Operands: channel. -/
  | shortBatDetect (c : Fin 132)
  /-- RETRY_DELAY_EXPIRE (R164). A trip's delay expires and the channel retries from point 0 if the conditions are met. Operands: channel. -/
  | retryDelayExpire (c : Fin 132)
  /-- USED_RESET (R165). A channel in ON or PWM without trip for DELAY seconds has USED returned to 0. Operands: channel. -/
  | usedReset (c : Fin 132)
  /-- LEDGER_STEP (R168). Every 10 µs the ledger updates its models and issues permits, pauses, caps and fuses. Operands: the sensor readings of each die whose report for the interval arrived whole; currents and voltages are those last reported, feed currents those last measured. -/
  | ledgerStep (reads : List DieReading)
  /-- LIMIT_T_EXPIRE (R180). A feed or module limit exceeded for LIMIT_T sheds channels by rank. -/
  | limitTExpire
  /-- PAUSE_MAX_EXPIRE (R178). A channel paused longer than PAUSE_MAX ends its turn-on and goes DEFERRED. Operands: channel. -/
  | pauseMaxExpire (c : Fin 132)
  /-- STALE_THRESHOLD (R181). Three or a hundred consecutive stale steps freeze a die's permits or set STALE. Operands: stage link. -/
  | staleThreshold (n : Fin 14)
  /-- BRIDGE_DIR_CHANGE (R189). A DIR change on a running leg coasts it and waits REV_T before turning on in the new direction. Operands: leg, initiator, CH_B_DRV word. -/
  | bridgeDirChange (c : Fin 132) (init : Byte) (w : Word)
  /-- REVERSAL_WAIT_EXPIRE (R189). REV_T expires and the leg makes its turn-on in the new direction. Operands: leg. -/
  | reversalWaitExpire (c : Fin 132)
  /-- BRAKE_END (R186). BRAKE_T expires and the leg coasts. Operands: leg. -/
  | brakeEnd (c : Fin 132)
  /-- CEILING_CHOP (R191). Leg current reaching the ceiling turns the active FET off for the rest of the carrier period. Operands: leg. -/
  | ceilingChop (c : Fin 132)
  /-- OVERLOAD_TRIP (R193). The overload timer reaching 500 ms opens the leg and sets OVERLOAD. Operands: leg. -/
  | overloadTrip (c : Fin 132)
  /-- STREAM_SAMPLE (R194). A current sample is written into the ring and every CUE_N samples a STREAM cue is posted. Operands: leg, mean signed current of the interval. -/
  | streamSample (c : Fin 132) (v : BitVec 16)
  /-- STALL_DETECT (R196). Current at or above ISTALL for TSTALL sets STALL and may apply STOP. Operands: leg. -/
  | stallDetect (c : Fin 132)
  /-- BOOST_OVERVOLTAGE (R199). V_BST reaching VBST_OV closes the recovery paths and sets BST_OV. Operands: V_BST in 0.1 V. -/
  | boostOvervoltage (v : BitVec 10)
  /-- BOOST_OV_RELEASE (R199). V_BST falling below VBST_SET plus 4 V reopens the recovery paths. Operands: V_BST in 0.1 V. -/
  | boostOvRelease (v : BitVec 10)
  /-- BOOST_UNDERVOLTAGE (R199). V_BST below V_FLOOR sets BST_UV. Operands: V_BST in 0.1 V. -/
  | boostUndervoltage (v : BitVec 10)
  /-- BOOST_FAIL (R199). A rail not READY 50 ms after charging start sets BST_FAIL. -/
  | boostFail
  /-- BOOST_ENERGY_CHECK (R203). Each 10 µs the boost energy check starts waiting solenoid rises in order. Operands: V_BST in 0.1 V at the end of the interval, and the energy in 0.1 mJ that a solenoid channel (by number) has drawn since its rise began. -/
  | boostEnergyCheck (v : BitVec 10) (drawn : List (Fin 16 × BitVec 16))
  /-- OVERLAP_TIMEOUT (R200). T_DEFER expires without a passed check and the solenoid turn-on is refused. Operands: solenoid channel number. -/
  | overlapTimeout (j : Fin 16)
  /-- SOLENOID_PEAK_REACHED (R200). Rise current reaching IPEAK moves the channel to PEAK and releases its reservation. Operands: solenoid channel number. -/
  | solenoidPeakReached (j : Fin 16)
  /-- RISE_TIMEOUT (R200). TRISE_MAX expires and the channel moves to PEAK or QUENCH. Operands: solenoid channel number, current at the timeout. -/
  | riseTimeout (j : Fin 16) (amp : BitVec 12)
  /-- PEAK_TIME_END (R200). TPEAK expires and the channel regulates IHOLD. Operands: solenoid channel number. -/
  | peakTimeEnd (j : Fin 16)
  /-- QUENCH_END (R200). Quench current below 2 units returns the channel to OFF. Operands: solenoid channel number. -/
  | quenchEnd (j : Fin 16)
  /-- DUTY_TRUNCATION (R206). On-time reaching LIMIT % of WIN truncates the solenoid into QUENCH. Operands: solenoid channel number. -/
  | dutyTruncation (j : Fin 16)
  /-- CHOP_SHORT (R208). Sixteen fast switching cycles open the low-side through the trip latch. Operands: solenoid channel number. -/
  | chopShort (j : Fin 16)
  /-- SH_GROUP_TRIP (R209). An SH switch over 24 A trips the group and quenches its members. Operands: group. -/
  | shGroupTrip (k : Fin 4)
  /-- FRAME_CRC_DISCARD (R211). A stage-link frame failing CRC or of undefined KIND is discarded and counted. Operands: stage link, the bits that arrive and where. -/
  | frameCrcDiscard (n : Fin 15) (x : LinkWord)
  /-- DIE_KEEPALIVE (R215). A die accepts a KEEPALIVE with correct EPOCH and SEQ. Operands: stage link, EPOCH and SEQ of the frame. -/
  | dieKeepalive (n : Fin 15) (epoch : Byte) (seq : BitVec 16)
  /-- DIE_KEEPALIVE_LOSS (R215). 100 µs without an accepted KEEPALIVE puts the die into HOLD. Operands: stage link. -/
  | dieKeepaliveLoss (n : Fin 14)
  /-- DIE_CMD_FRAME (R212). A die applies a CMD frame for a channel. Operands: stage link. -/
  | dieCmdFrame (n : Fin 14)
  /-- DIE_PWM_FRAME (R212). A die applies a PWM frame for a channel. Operands: stage link. -/
  | diePwmFrame (n : Fin 14)
  /-- DIE_TABLE_FRAME (R212). A die stores a profile point, envelope bin or fail-safe entry word. Operands: stage link. -/
  | dieTableFrame (n : Fin 14)
  /-- DIE_PARAM_FRAME (R212). A die stores a permit, cap, threshold or configuration word. Operands: stage link. -/
  | dieParamFrame (n : Fin 14)
  /-- DIE_HOLD (R216). A HOLD control frame puts an adopted die into HOLD and starts its window. Operands: stage link. -/
  | dieHold (n : Fin 14)
  /-- DIE_PARK (R79). A PARK control frame parks the die for a low-power state. Operands: stage link. -/
  | diePark (n : Fin 14)
  /-- DIE_ADOPT (R216). An ADOPT frame with new EPOCH adopts the die from NOT_ADOPTED, HOLD or FAILSAFE. Operands: stage link. -/
  | dieAdopt (n : Fin 14)
  /-- DIE_FS_APPLY (R222). An FS_APPLY frame puts an adopted die into FAILSAFE with its stored actions. Operands: stage link. -/
  | dieFsApply (n : Fin 14)
  /-- DIE_FS_RELEASE (R225). An FS_RELEASE frame returns a FAILSAFE die to ADOPTED with its states kept as commands. Operands: stage link. -/
  | dieFsRelease (n : Fin 14)
  /-- DIE_LIMP_ARM (R229). A LIMP_ARM frame sets the die's ARM bit. Operands: stage link. -/
  | dieLimpArm (n : Fin 14)
  /-- DIE_HOLD_WIN (R219). A HOLD_WIN frame sets the die's hold window. Operands: stage link. -/
  | dieHoldWin (n : Fin 14)
  /-- DIE_STATUS_FRAME (R212). The LG receives a die STATUS frame with state, epoch and last SEQ. Operands: stage link; the frame shows the die's own state. -/
  | dieStatusFrame (n : Fin 14)
  /-- DIE_REPORT_FRAME (R212). The LG receives a die REPORT of current and VDS for the last interval. Operands: channel, mean current in its class unit, mean VDS in mV. -/
  | dieReportFrame (c : Fin 132) (i vds : BitVec 16)
  /-- DIE_EVENT_FRAME (R212). The LG receives a die EVENT frame of a trip, latch, energy, phase change or error count. Operands: stage link; 0 the oldest stored event, 1 an energy of v µJ, 2 the die's error count. -/
  | dieEventFrame (n : Fin 14) (what : Fin 3) (v : BitVec 32)
  /-- HOLD_WINDOW_EXPIRE (R216). A die's hold window expires and it enters FAILSAFE. Operands: stage link. -/
  | holdWindowExpire (n : Fin 14)
  /-- FAILSAFE_NEXT_INRUSH (R223). An unadopted FAILSAFE die starts its next pending inrush in ascending channel order. Operands: stage link. -/
  | failsafeNextInrush (n : Fin 14)
  /-- KA_GO_REARM (R214). Strongroom firmware re-arms KA_GO. -/
  | kaGoRearm
  /-- KA_GO_LAPSE (R214). KA_GO falls 1.5 ms after the last re-arm and keep-alives stop on every link. -/
  | kaGoLapse
  /-- KA_LAPSE_RESET (R467). 0.5 ms after KA_GO falls the hardware watchdog starts a full reset with reason KA_LAPSE. -/
  | kaLapseReset
  /-- LOCKSTEP_MISMATCH (R465). A lockstep mismatch drops KA_GO and starts a full reset with reason LOCKSTEP. -/
  | lockstepMismatch
  /-- DIE_LINK_LOST (R220). A die silent for 100 µs or reporting HOLD while adopted is marked lost and retrained. Operands: stage link. -/
  | dieLinkLost (n : Fin 14)
  /-- LINK_RETRAIN (R220). A lost stage link is retrained every 1 ms until it trains. Operands: stage link. -/
  | linkRetrain (n : Fin 14)
  /-- KA_EN_WRITE (R520). A Strongroom write of STR_KA_CTL enables or stops keep-alives per link. Operands: initiator, word. -/
  | kaEnWrite (init : Byte) (w : Word)
  /-- FS_APPLY_WRITE (R224). A Strongroom write of STR_FS_APPLY sends FS_APPLY to the named dies. Operands: initiator, word. -/
  | fsApplyWrite (init : Byte) (w : Word)
  /-- FS_RELEASE_WRITE (R225). A Strongroom write of STR_FS_RELEASE sends FS_RELEASE and FS_RELEASED cues. Operands: initiator, word. -/
  | fsReleaseWrite (init : Byte) (w : Word)
  /-- LIMP_ARM_WRITE (R229). A Strongroom write of STR_LIMP_ARM sends LIMP_ARM frames. Operands: initiator, word. -/
  | limpArmWrite (init : Byte) (w : Word)
  /-- HOLD_WIN_WRITE (R219). A Strongroom write of STR_HOLD_WINn sends the new window to the die. Operands: initiator, stage link, word. -/
  | holdWinWrite (init : Byte) (n : Fin 14) (w : Word)
  /-- PIN_CTL_WRITE (R230). A Strongroom write of STR_PIN_CTL drives or releases ERR_N and SAFE_N. Operands: initiator, word. -/
  | pinCtlWrite (init : Byte) (w : Word)
  /-- FS_TABLE_WRITE (R222). A Strongroom write of STR_FS_TABLEi sends the entry to its die. Operands: initiator, channel, word. -/
  | fsTableWrite (init : Byte) (c : Fin 132) (w : Word)
  /-- LIMP_INPUT_CHANGE (R228). A LIMP or LIMP_EN level stable for 1 ms is accepted and LIGHT channels follow it. Operands: 0 the front end of the IF die, 1 to 10 the die on that link; the levels of LIMP0 to LIMP7 and in bit 8 LIMP_EN. -/
  | limpInputChange (n : Fin 11) (levels : BitVec 9)
  /-- FS_RELEASE_EVAL (R476). Each supervision period the Strongroom releases FAILSAFE dies whose causes are satisfied. -/
  | fsReleaseEval
  /-- ILLEGAL_INSTRUCTION (R241). An unlisted encoding or out-of-range fetch faults the engine. Operands: engine by ID − 0x10. -/
  | illegalInstruction (g : Fin 48)
  /-- NOP (R243). No operation. Operands: engine by ID − 0x10. -/
  | nop (g : Fin 48)
  /-- RETC (R259). Ends the handler and returns the engine to its next state. Operands: engine by ID − 0x10. -/
  | retc (g : Fin 48)
  /-- RET (R243). Returns from a call through the stack. Operands: engine by ID − 0x10. -/
  | ret (g : Fin 48)
  /-- SYNC (R267). Waits until every earlier store of the engine has completed. Operands: engine by ID − 0x10. -/
  | sync (g : Fin 48)
  /-- SYNC_COMPLETE (R267). The stores awaited by SYNC complete and the engine continues. Operands: engine by ID − 0x10, cycles waited. -/
  | syncComplete (g : Fin 48) (w : Byte)
  /-- JMP_PTR (R243). Jumps to the address in a pointer. Operands: engine by ID − 0x10, Pp. -/
  | jmpPtr (g : Fin 48) (p : Fin 8)
  /-- CALL_PTR (R243). Calls the address in a pointer. Operands: engine by ID − 0x10, Pp. -/
  | callPtr (g : Fin 48) (p : Fin 8)
  /-- RPT (R251). Repeats the next instruction 1-16 times without interruption. Operands: engine by ID − 0x10, n − 1. -/
  | rpt (g : Fin 48) (n : Fin 16)
  /-- RPTI_REG (R252). Repeats the next instruction a register count of times, interruptible at NORMAL level. Operands: engine by ID − 0x10, Bs. -/
  | rptiReg (g : Fin 48) (r : Fin 16)
  /-- RPTI_IMM (R252). Repeats the next instruction 1-256 times, interruptible at NORMAL level. Operands: engine by ID − 0x10, n − 1. -/
  | rptiImm (g : Fin 48) (n : Byte)
  /-- LDQ (R243). Loads two pointers from four bytes. Operands: engine by ID − 0x10, q / 2, Pp, cycles waited. -/
  | ldq (g : Fin 48) (q : Fin 4) (p : Fin 8) (w : Byte)
  /-- STQ (R243). Stores two pointers to four bytes. Operands: engine by ID − 0x10, q / 2, Pp, cycles waited. -/
  | stq (g : Fin 48) (q : Fin 4) (p : Fin 8) (w : Byte)
  /-- JMP_ABS (R243). Jumps to an immediate address. Operands: engine by ID − 0x10, address. -/
  | jmpAbs (g : Fin 48) (a : BitVec 16)
  /-- CALL_ABS (R243). Calls an immediate address. Operands: engine by ID − 0x10, address. -/
  | callAbs (g : Fin 48) (a : BitVec 16)
  /-- LDA (R243). Loads a byte from an absolute address. Operands: engine by ID − 0x10, Bd, address, cycles waited. -/
  | lda (g : Fin 48) (d : Fin 16) (a : BitVec 16) (w : Byte)
  /-- STA (R243). Stores a byte to an absolute address. Operands: engine by ID − 0x10, Bs, address, cycles waited. -/
  | sta (g : Fin 48) (r : Fin 16) (a : BitVec 16) (w : Byte)
  /-- LDP (R243). Loads a pointer with an immediate. Operands: engine by ID − 0x10, Pp, value. -/
  | ldp (g : Fin 48) (p : Fin 8) (a : BitVec 16)
  /-- ADDPI (R243). Adds an immediate to a pointer. Operands: engine by ID − 0x10, Pp, value. -/
  | addpi (g : Fin 48) (p : Fin 8) (a : BitVec 16)
  /-- CPY (R246). Copies 4, 8 or 16 bytes from a Spine window into local data in one transaction. Operands: engine by ID − 0x10, n = 4 << k, Pp, Pq, cycles waited. -/
  | cpy (g : Fin 48) (k : Fin 3) (p q : Fin 8) (w : Byte)
  /-- MOV (R243). Copies a byte register. Operands: engine by ID − 0x10, Bd, Bs. -/
  | mov (g : Fin 48) (d r : Fin 16)
  /-- ADD (R243). Adds two byte registers. Operands: engine by ID − 0x10, Bd, Bs. -/
  | add (g : Fin 48) (d r : Fin 16)
  /-- ADC (R243). Adds two byte registers with carry. Operands: engine by ID − 0x10, Bd, Bs. -/
  | adc (g : Fin 48) (d r : Fin 16)
  /-- SUB (R243). Subtracts two byte registers. Operands: engine by ID − 0x10, Bd, Bs. -/
  | sub (g : Fin 48) (d r : Fin 16)
  /-- SBC (R243). Subtracts two byte registers with borrow. Operands: engine by ID − 0x10, Bd, Bs. -/
  | sbc (g : Fin 48) (d r : Fin 16)
  /-- AND (R243). Bitwise AND of two byte registers. Operands: engine by ID − 0x10, Bd, Bs. -/
  | and (g : Fin 48) (d r : Fin 16)
  /-- OR (R243). Bitwise OR of two byte registers. Operands: engine by ID − 0x10, Bd, Bs. -/
  | or (g : Fin 48) (d r : Fin 16)
  /-- XOR (R243). Bitwise XOR of two byte registers. Operands: engine by ID − 0x10, Bd, Bs. -/
  | xor (g : Fin 48) (d r : Fin 16)
  /-- CMP (R243). Compares two byte registers, setting flags. Operands: engine by ID − 0x10, Bd, Bs. -/
  | cmp (g : Fin 48) (d r : Fin 16)
  /-- TST (R243). Tests two byte registers with AND, setting flags. Operands: engine by ID − 0x10, Bd, Bs. -/
  | tst (g : Fin 48) (d r : Fin 16)
  /-- INC (R243). Increments a byte register. Operands: engine by ID − 0x10, Bd. -/
  | inc (g : Fin 48) (d : Fin 16)
  /-- DEC (R243). Decrements a byte register. Operands: engine by ID − 0x10, Bd. -/
  | dec (g : Fin 48) (d : Fin 16)
  /-- NEG (R243). Negates a byte register. Operands: engine by ID − 0x10, Bd. -/
  | neg (g : Fin 48) (d : Fin 16)
  /-- NOT (R243). Inverts a byte register. Operands: engine by ID − 0x10, Bd. -/
  | not (g : Fin 48) (d : Fin 16)
  /-- SHL (R243). Shifts a byte register left. Operands: engine by ID − 0x10, Bd. -/
  | shl (g : Fin 48) (d : Fin 16)
  /-- SHR (R243). Shifts a byte register right logically. Operands: engine by ID − 0x10, Bd. -/
  | shr (g : Fin 48) (d : Fin 16)
  /-- ASR (R243). Shifts a byte register right arithmetically. Operands: engine by ID − 0x10, Bd. -/
  | asr (g : Fin 48) (d : Fin 16)
  /-- ROL (R243). Rotates a byte register left through carry. Operands: engine by ID − 0x10, Bd. -/
  | rol (g : Fin 48) (d : Fin 16)
  /-- ROR (R243). Rotates a byte register right through carry. Operands: engine by ID − 0x10, Bd. -/
  | ror (g : Fin 48) (d : Fin 16)
  /-- SWAP (R243). Exchanges the nibbles of a byte register. Operands: engine by ID − 0x10, Bd. -/
  | swap (g : Fin 48) (d : Fin 16)
  /-- BSET (R243). Sets a bit of a byte register. Operands: engine by ID − 0x10, Bd, bit. -/
  | bset (g : Fin 48) (d : Fin 16) (b : Fin 8)
  /-- BCLR (R243). Clears a bit of a byte register. Operands: engine by ID − 0x10, Bd, bit. -/
  | bclr (g : Fin 48) (d : Fin 16) (b : Fin 8)
  /-- BTST (R243). Tests a bit of a byte register into Z. Operands: engine by ID − 0x10, Bd, bit. -/
  | btst (g : Fin 48) (d : Fin 16) (b : Fin 8)
  /-- BTGL (R243). Inverts a bit of a byte register. Operands: engine by ID − 0x10, Bd, bit. -/
  | btgl (g : Fin 48) (d : Fin 16) (b : Fin 8)
  /-- LDI (R243). Loads an immediate into a byte register. Operands: engine by ID − 0x10, Bd, immediate. -/
  | ldi (g : Fin 48) (d : Fin 16) (i : Byte)
  /-- ADDI (R243). Adds an immediate to a byte register. Operands: engine by ID − 0x10, Bd, immediate. -/
  | addi (g : Fin 48) (d : Fin 16) (i : Byte)
  /-- SUBI (R243). Subtracts an immediate from a byte register. Operands: engine by ID − 0x10, Bd, immediate. -/
  | subi (g : Fin 48) (d : Fin 16) (i : Byte)
  /-- ANDI (R243). ANDs an immediate into a byte register. Operands: engine by ID − 0x10, Bd, immediate. -/
  | andi (g : Fin 48) (d : Fin 16) (i : Byte)
  /-- ORI (R243). ORs an immediate into a byte register. Operands: engine by ID − 0x10, Bd, immediate. -/
  | ori (g : Fin 48) (d : Fin 16) (i : Byte)
  /-- XORI (R243). XORs an immediate into a byte register. Operands: engine by ID − 0x10, Bd, immediate. -/
  | xori (g : Fin 48) (d : Fin 16) (i : Byte)
  /-- CMPI (R243). Compares a byte register with an immediate. Operands: engine by ID − 0x10, Bd, immediate. -/
  | cmpi (g : Fin 48) (d : Fin 16) (i : Byte)
  /-- ST_PTR (R243). Stores a byte at a pointer. Operands: engine by ID − 0x10, Bs, Pp, cycles waited. -/
  | stPtr (g : Fin 48) (r : Fin 16) (p : Fin 8) (w : Byte)
  /-- ST_POSTINC (R243). Stores a byte at a pointer and increments it. Operands: engine by ID − 0x10, Bs, Pp, cycles waited. -/
  | stPostinc (g : Fin 48) (r : Fin 16) (p : Fin 8) (w : Byte)
  /-- ST_PREDEC (R243). Decrements a pointer and stores a byte there (PUSH with P7). Operands: engine by ID − 0x10, Bs, Pp, cycles waited. -/
  | stPredec (g : Fin 48) (r : Fin 16) (p : Fin 8) (w : Byte)
  /-- ST_INDEX (R243). Stores a byte at a pointer plus B0. Operands: engine by ID − 0x10, Bs, Pp, cycles waited. -/
  | stIndex (g : Fin 48) (r : Fin 16) (p : Fin 8) (w : Byte)
  /-- LD_PTR (R243). Loads a byte from a pointer. Operands: engine by ID − 0x10, Bd, Pp, cycles waited. -/
  | ldPtr (g : Fin 48) (d : Fin 16) (p : Fin 8) (w : Byte)
  /-- LD_POSTINC (R243). Loads a byte from a pointer and increments it (POP with P7). Operands: engine by ID − 0x10, Bd, Pp, cycles waited. -/
  | ldPostinc (g : Fin 48) (d : Fin 16) (p : Fin 8) (w : Byte)
  /-- LD_PREDEC (R243). Decrements a pointer and loads a byte from there. Operands: engine by ID − 0x10, Bd, Pp, cycles waited. -/
  | ldPredec (g : Fin 48) (d : Fin 16) (p : Fin 8) (w : Byte)
  /-- LD_INDEX (R243). Loads a byte from a pointer plus B0. Operands: engine by ID − 0x10, Bd, Pp, cycles waited. -/
  | ldIndex (g : Fin 48) (d : Fin 16) (p : Fin 8) (w : Byte)
  /-- LOAD_DATA_ARRIVAL (R249). Data of a parked Spine load arrives and is written to its register. Operands: engine by ID − 0x10, cycles the instruction waited. -/
  | loadDataArrival (g : Fin 48) (w : Byte)
  /-- XCH (R245). Atomically exchanges a register with a memory byte. Operands: engine by ID − 0x10, Bd, Pp, cycles waited. -/
  | xch (g : Fin 48) (d : Fin 16) (p : Fin 8) (w : Byte)
  /-- TAS (R245). Atomically reads a byte and sets its bit 7. Operands: engine by ID − 0x10, Bd, Pp, cycles waited. -/
  | tas (g : Fin 48) (d : Fin 16) (p : Fin 8) (w : Byte)
  /-- STD (R243). Stores a byte at a pointer plus displacement. Operands: engine by ID − 0x10, Bs, Pp, displacement, cycles waited. -/
  | std (g : Fin 48) (r : Fin 16) (p : Fin 8) (u : Fin 16) (w : Byte)
  /-- LDD (R243). Loads a byte from a pointer plus displacement. Operands: engine by ID − 0x10, Bd, Pp, displacement, cycles waited. -/
  | ldd (g : Fin 48) (d : Fin 16) (p : Fin 8) (u : Fin 16) (w : Byte)
  /-- MOVP (R243). Copies a pointer. Operands: engine by ID − 0x10, Pp, Pq. -/
  | movp (g : Fin 48) (p q : Fin 8)
  /-- ADDP (R243). Adds two pointers. Operands: engine by ID − 0x10, Pp, Pq. -/
  | addp (g : Fin 48) (p q : Fin 8)
  /-- SUBP (R243). Subtracts two pointers. Operands: engine by ID − 0x10, Pp, Pq. -/
  | subp (g : Fin 48) (p q : Fin 8)
  /-- CMPP (R243). Compares two pointers. Operands: engine by ID − 0x10, Pp, Pq. -/
  | cmpp (g : Fin 48) (p q : Fin 8)
  /-- ADDPB (R243). Adds a zero-extended byte to a pointer. Operands: engine by ID − 0x10, Pp, Bs. -/
  | addpb (g : Fin 48) (p : Fin 8) (r : Fin 16)
  /-- INCP (R243). Increments a pointer. Operands: engine by ID − 0x10, Pp. -/
  | incp (g : Fin 48) (p : Fin 8)
  /-- DECP (R243). Decrements a pointer. Operands: engine by ID − 0x10, Pp. -/
  | decp (g : Fin 48) (p : Fin 8)
  /-- LDW (R243). Loads a 16-bit word into a pointer. Operands: engine by ID − 0x10, Pp, Pq, cycles waited. -/
  | ldw (g : Fin 48) (p q : Fin 8) (w : Byte)
  /-- STW (R243). Stores a pointer as a 16-bit word. Operands: engine by ID − 0x10, Pp, Pq, cycles waited. -/
  | stw (g : Fin 48) (p q : Fin 8) (w : Byte)
  /-- LDW_POSTINC (R243). Loads a word and advances the address pointer by 2. Operands: engine by ID − 0x10, Pp, Pq, cycles waited. -/
  | ldwPostinc (g : Fin 48) (p q : Fin 8) (w : Byte)
  /-- STW_POSTINC (R243). Stores a word and advances the address pointer by 2. Operands: engine by ID − 0x10, Pp, Pq, cycles waited. -/
  | stwPostinc (g : Fin 48) (p q : Fin 8) (w : Byte)
  /-- PUSHP (R243). Pushes a pointer onto the stack. Operands: engine by ID − 0x10, Pp. -/
  | pushp (g : Fin 48) (p : Fin 8)
  /-- POPP (R243). Pops a pointer from the stack. Operands: engine by ID − 0x10, Pp. -/
  | popp (g : Fin 48) (p : Fin 8)
  /-- MULU (R243). Unsigned 8 by 8 multiply into a pointer. Operands: engine by ID − 0x10, Pp, Bs. -/
  | mulu (g : Fin 48) (p : Fin 8) (r : Fin 16)
  /-- MULS (R243). Signed 8 by 8 multiply into a pointer. Operands: engine by ID − 0x10, Pp, Bs. -/
  | muls (g : Fin 48) (p : Fin 8) (r : Fin 16)
  /-- BCC (R242). Branches relative if the condition holds. Operands: engine by ID − 0x10, condition, offset. -/
  | bcc (g : Fin 48) (c : Fin 15) (rel : Byte)
  /-- BSR (R243). Calls a relative address. Operands: engine by ID − 0x10, offset. -/
  | bsr (g : Fin 48) (rel : Byte)
  /-- EMIT (R262). Passes a CH_CMD or CH_PWM command to the reflex executor. Operands: engine by ID − 0x10, S, Bt, Pp, Pq, cycles waited. -/
  | emit (g : Fin 48) (pwm : Bool) (t : Fin 16) (p q : Fin 8) (w : Byte)
  /-- EXECUTOR_WRITE (R262). The reflex executor writes a queued command as initiator 0x60 or answers BUSERR. Operands: the command at the head of the executor. -/
  | executorWrite
  /-- POST (R261). Posts an ENGINE cue to the engine named in a register. Operands: engine by ID − 0x10, Bt, Pp, Pq, cycles waited. -/
  | post (g : Fin 48) (t : Fin 16) (p q : Fin 8) (w : Byte)
  /-- CUE_POST (R257). A cue offered to an engine queue takes SEQ and is queued, merged or dropped. -/
  | cuePost
  /-- CUE_DISPATCH (R259). A queued cue is dispatched into its level's handler, preempting NORMAL if URGENT. Operands: engine by ID − 0x10. -/
  | cueDispatch (g : Fin 48)
  /-- ENGINE_TIMER_EXPIRE (R240). An engine timer reaches 0, posts a TIMER cue and reloads or stops. Operands: engine by ID − 0x10, timer. -/
  | engineTimerExpire (g : Fin 48) (n : Fin 4)
  /-- TIMER_CTL_WRITE (R240). A write of TMRn_CTL starts or stops an engine timer. Operands: engine by ID − 0x10, timer, byte. -/
  | timerCtlWrite (g : Fin 48) (n : Fin 4) (b : Byte)
  /-- BANK_COMMIT_WRITE (R239). A write of the top byte of BANK_GW or BANK_UNIT makes the staged bank take effect. Operands: engine by ID − 0x10, BANK_UNIT rather than BANK_GW, byte. -/
  | bankCommitWrite (g : Fin 48) (unit : Bool) (b : Byte)
  /-- SLATE_LATCH_READ (R240). A read of ENG_SLATE byte 0 latches the slate. Operands: engine by ID − 0x10. -/
  | slateLatchRead (g : Fin 48)
  /-- ENGINE_BEAT (R271). A write of ENG_HB.BEAT records a beat and may send a crew beat. Operands: engine by ID − 0x10. -/
  | engineBeat (g : Fin 48)
  /-- CREW_CLOCK_GATE (R269). An idle crew with empty queues gates its clock. Operands: crew. -/
  | crewClockGate (c : Fin 6)
  /-- SLATE_CORRECTION (R275). Every 1,024 ticks each island counter is trimmed to the reference slate. Operands: island. -/
  | slateCorrection (isl : Fin 30)
  /-- GPTP_SYNC (R278). A gPTP synchronisation slews the slate rate or recaptures OFS. Operands: gPTP time of the synchronisation in ns. -/
  | gptpSync (ns : BitVec 64)
  /-- GPTP_HOLDOVER (R278). No synchronisation for 3 s moves the servo to HOLDOVER. -/
  | gptpHoldover
  /-- DAILIES_RECORD_WRITE (R281). DLY writes an island record into the ring, overwriting the oldest. Operands: island. -/
  | dailiesRecordWrite (isl : Fin 30)
  /-- DAILIES_LOST_RECORD (R280). When FIFO space returns an island writes a LOST record with its count. Operands: island. -/
  | dailiesLostRecord (isl : Fin 30)
  /-- ARCHIVE_REQUEST (R285). A write of DLY_ARCH_CTL.REQUEST starts or merges into an archive. Operands: initiator. -/
  | archiveRequest (init : Byte)
  /-- ARCHIVE_DONE (R285). An archive of pending records to MRAM completes. Operands: archive slots whose write failed its verify. -/
  | archiveDone (bad : List (BitVec 16))
  /-- FRAME_BOUNDARY_DECIDE (R288). FRM decides a frame boundary and sends its slate value to every die. -/
  | frameBoundaryDecide
  /-- DIE_FRAME_BOUNDARY (R288). A die starts a new frame and applies staged PWM words. Operands: stage link. -/
  | dieFrameBoundary (n : Fin 14)
  /-- FSYNC_EDGE (R289). A counted FSYNC edge is stamped and the targets are recomputed. Operands: the edge falls. -/
  | fsyncEdge (falling : Bool)
  /-- FSYNC_MISSING (R290). No FSYNC edge for 2 × FSYNC_DIV frames returns frame sync to FREE. -/
  | fsyncMissing
  /-- CAN_MODE_OFF (R299). A CANn_CTL write of MODE OFF takes the controller off the bus at the next idle. Operands: CAN controller, initiator. -/
  | canModeOff (n : Fin 8) (init : Byte)
  /-- CAN_MODE_NORMAL (R299). A CANn_CTL write of MODE NORMAL makes the controller take full part. Operands: CAN controller, initiator. -/
  | canModeNormal (n : Fin 8) (init : Byte)
  /-- CAN_MODE_LISTEN (R299). A CANn_CTL write of MODE LISTEN puts the controller in bus monitoring. Operands: CAN controller, initiator. -/
  | canModeListen (n : Fin 8) (init : Byte)
  /-- CAN_RECOVER (R311). A write of RECOVER starts manual bus-off recovery. Operands: CAN controller, initiator. -/
  | canRecover (n : Fin 8) (init : Byte)
  /-- CAN_ENTRY_HANDOVER (R302). An owner's write of STATE 1 hands a queue entry to the controller. Operands: CAN controller, entry, initiator. -/
  | canEntryHandover (n : Fin 8) (k : Fin 32) (init : Byte)
  /-- CAN_ENTRY_EMPTY (R302). An owner's write of STATE 0 returns a finished entry to EMPTY. Operands: CAN controller, entry, initiator. -/
  | canEntryEmpty (n : Fin 8) (k : Fin 32) (init : Byte)
  /-- CAN_ENTRY_CANCEL (R302). A CANCEL write cancels a queued, suspended or sending entry. Operands: CAN controller, entry, initiator. -/
  | canEntryCancel (n : Fin 8) (k : Fin 32) (init : Byte)
  /-- CAN_TX_START (R304). The highest-priority queued entry is selected and its SOF sent. Operands: CAN controller, loop delay measured. -/
  | canTxStart (n : Fin 8) (tdcv : BitVec 12)
  /-- CAN_TX_SUCCESS (R302). A transmitted frame is valid, the entry goes DONE and TEC decrements. Operands: CAN controller. -/
  | canTxSuccess (n : Fin 8)
  /-- CAN_ARB_LOST (R302). The entry loses arbitration and returns to QUEUED. Operands: CAN controller. -/
  | canArbLost (n : Fin 8)
  /-- CAN_TX_ERROR (R308). A transmit error raises TEC and requeues or suspends the entry. Operands: CAN controller, LEC, FIELD, DATA_PHASE, kind of event. -/
  | canTxError (n : Fin 8) (lec field : Fin 8) (dataPhase : Bool) (what : Fin 4)
  /-- TWIN_BACKOFF_EXPIRE (R310). A suspended entry's back-off ends and it returns to QUEUED. Operands: CAN controller, entry. -/
  | twinBackoffExpire (n : Fin 8) (k : Fin 32)
  /-- BUSOFF_HOLDOFF_EXPIRE (R311). HOLDOFF ends and counting of recessive sequences starts. Operands: CAN controller. -/
  | busoffHoldoffExpire (n : Fin 8)
  /-- BUSOFF_RECOVERY_COMPLETE (R311). 128 recessive sequences are counted and the controller is error active again. Operands: CAN controller. -/
  | busoffRecoveryComplete (n : Fin 8)
  /-- CAN_FRAME_RECEIVED (R306). A frame valid for a receiver is handed to the gateway port. Operands: CAN controller, the frame. -/
  | canFrameReceived (n : Fin 8) (f : CanFrame)
  /-- CAN_RX_ERROR (R308). A receiver error raises REC. Operands: CAN controller, LEC, FIELD, DATA_PHASE, kind of event. -/
  | canRxError (n : Fin 8) (lec field : Fin 8) (dataPhase : Bool) (what : Fin 4)
  /-- TRX_REQ_NORMAL (R314). A transceiver REQ NORMAL write enables the CAN transmitter. Operands: CAN controller, initiator. -/
  | trxReqNormal (n : Fin 8) (init : Byte)
  /-- TRX_REQ_LISTEN (R314). A transceiver REQ LISTEN write turns the receiver on and transmitter off. Operands: CAN controller, initiator. -/
  | trxReqListen (n : Fin 8) (init : Byte)
  /-- TRX_REQ_STANDBY (R314). A transceiver REQ STANDBY write arms the wake detector. Operands: CAN controller, initiator. -/
  | trxReqStandby (n : Fin 8) (init : Byte)
  /-- TRX_REQ_SLEEP (R314). A transceiver REQ SLEEP write enters GOING_SLEEP. Operands: CAN controller, initiator. -/
  | trxReqSleep (n : Fin 8) (init : Byte)
  /-- TRX_SLEEP_TIMER (R314). 50 µs in GOING_SLEEP end in SLEEP, releasing INH if all assigned transceivers sleep. Operands: transceiver: 0 to 7 CANn, 8 to 15 LINn. -/
  | trxSleepTimer (t : Fin 16)
  /-- CAN_BUS_WAKE (R316). A wake-up pattern, matching frame or FEC of 32 latches a transceiver wake. Operands: CAN controller, cause 1 pattern 2 frame 3 FEC, the frame of cause 2. -/
  | canBusWake (n : Fin 8) (cause : Fin 4) (f : CanFrame)
  /-- SW_DECODER_DISARM (R316). The selective-wake decoder disarms after 1 s of bus idle. Operands: CAN controller. -/
  | swDecoderDisarm (n : Fin 4)
  /-- CAN_DOM_TIMEOUT (R317). TXD dominant for 2.7 ms releases the transmitter and sets DOM_TIMEOUT. Operands: CAN controller. -/
  | canDomTimeout (n : Fin 4)
  /-- CAN_WAKE_CLEAR (R314). A write of WAKE 1 by the controller engine clears WAKE and CAUSE. Operands: CAN controller, initiator. -/
  | canWakeClear (n : Fin 8) (init : Byte)
  /-- LIN_SCHED_SELECT (R322). A write of SCHED switches the schedule table at the end of the current slot. Operands: LIN controller, initiator, table. -/
  | linSchedSelect (n : Fin 8) (init : Byte) (t : Fin 4)
  /-- LIN_RUN (R322). A write of RUN starts or stops the commander schedule. Operands: LIN controller, initiator, RUN. -/
  | linRun (n : Fin 8) (init : Byte) (v : Bool)
  /-- LIN_GOTO_SLEEP (R325). A write of GOTO_SLEEP sends the go-to-sleep command at slot end. Operands: LIN controller, initiator. -/
  | linGotoSleep (n : Fin 8) (init : Byte)
  /-- LIN_SEND_WAKE (R326). A write of SEND_WAKE drives a 1 ms wake pulse. Operands: LIN controller, initiator. -/
  | linSendWake (n : Fin 8) (init : Byte)
  /-- LIN_TRX_REQ (R327). A write of TRX_REQ moves the LIN transceiver to NORMAL, STANDBY or SLEEP. Operands: LIN controller, initiator, TRX_REQ. -/
  | linTrxReq (n : Fin 8) (init : Byte) (req : Fin 4)
  /-- LIN_WAKE_CLEAR (R327). A write of WAKE 1 by a control initiator clears the LIN wake latch. Operands: LIN controller, initiator. -/
  | linWakeClear (n : Fin 8) (init : Byte)
  /-- LIN_BUFFER_COMMIT (R320). A COMMIT write copies staged data to the publish copy and sets UPDATED. Operands: LIN controller, buffer, initiator. -/
  | linBufferCommit (n : Fin 8) (b : Fin 64) (init : Byte)
  /-- LIN_SLOT_START (R322). A schedule slot starts and the commander sends its header. Operands: LIN controller. -/
  | linSlotStart (n : Fin 8)
  /-- LIN_SLOT_END (R322). A schedule slot ends, judging missing responses and collisions. Operands: LIN controller. -/
  | linSlotEnd (n : Fin 8)
  /-- LIN_HEADER_RECEIVED (R323). A responder receives a header and answers from its publish copy. Operands: LIN controller, protected identifier, whether the sync field is in tolerance. -/
  | linHeaderReceived (n : Fin 8) (pid : Byte) (syncOk : Bool)
  /-- LIN_RESPONSE (R324). A response completes and is stored or flagged with an error. Operands: LIN controller, 0 without error 1 checksum 2 bit 3 framing, data received. -/
  | linResponse (n : Fin 8) (kind : Fin 4) (data : List Byte)
  /-- LIN_GOTO_SLEEP_RX (R325). A responder receives the go-to-sleep command and sets GOTO_SLEEP_RX. Operands: LIN controller. -/
  | linGotoSleepRx (n : Fin 8)
  /-- LIN_BUS_IDLE_TIMEOUT (R325). 4 s of bus idle sets GOTO_SLEEP_RX. Operands: LIN controller. -/
  | linBusIdleTimeout (n : Fin 8)
  /-- LIN_WAKE_SCHEDULE_START (R326). 100 ms after a wake pulse a running commander starts its schedule. Operands: LIN controller. -/
  | linWakeScheduleStart (n : Fin 8)
  /-- LIN_WAKE_RETRY (R326). A responder seeing no header within 200 ms repeats the pulse or sets WAKE_FAIL. Operands: LIN controller. -/
  | linWakeRetry (n : Fin 8)
  /-- LIN_BUS_WAKE (R327). A dominant level over 150 µs followed by a recessive edge latches a LIN wake. Operands: LIN controller. -/
  | linBusWake (n : Fin 8)
  /-- LIN_DOM_TIMEOUT (R324). TXD dominant for 20 ms releases the LIN transmitter. Operands: LIN controller. -/
  | linDomTimeout (n : Fin 8)
  /-- ETH_FRAME_INGRESS (R331). An Ethernet frame passes MACsec, elimination, VLAN and forwarding checks. Operands: port, the frame. -/
  | ethFrameIngress (p : Fin 3) (f : EthFrame)
  /-- QBV_GATE_EVENT (R333). A gate control list entry interval ends and the next gate state applies. -/
  | qbvGateEvent
  /-- QBV_LIST_SWITCH (R333). The shadow gate list takes effect at the first cycle start at or after ETH_QBV_CHANGE. -/
  | qbvListSwitch
  /-- FRER_RESET_TIMER (R334). RESET_MS without frames resets a stream's recovery history. Operands: stream. -/
  | frerResetTimer (r : Fin 32)
  /-- ETH_FRAME_EGRESS (R333). An Ethernet frame starts transmission on an uplink when its gate allows it. Operands: port. -/
  | ethFrameEgress (p : Fin 3)
  /-- GW_LOOKUP (R340). A frame arriving at a port is looked up and its entry's actions run in order. -/
  | gwLookup
  /-- GW_CAN_HANDOVER (R344). A routed frame is handed to a gateway CAN queue entry once no same-identifier entry is busy. Operands: CAN controller. -/
  | gwCanHandover (n : Fin 8)
  /-- GW_FRAME_AGED (R344). A frame waiting longer than AGE on a port is dropped. Operands: port. -/
  | gwFrameAged (p : Fin 21)
  /-- FLOW_CONTEXT_WRITE (R346). A write of flow context bytes takes effect between lookups or is refused whole. Operands: flow, initiator, byte offset, data. -/
  | flowContextWrite (f : Fin 1024) (init : Byte) (off : Fin 64) (bytes : List Byte)
  /-- FLOW_TIMEOUT (R348). No hit for TIMEOUT ms counts a timeout, stamps it and cues ENGINE. Operands: flow. -/
  | flowTimeout (f : Fin 1024)
  /-- GW_RELEASE (R351). A write of GW_RELEASE releases a cued frame buffer. Operands: initiator, buffer. -/
  | gwRelease (init : Byte) (b : BitVec 11)
  /-- GW_BUFFER_RECLAIM (R351). A cued buffer unreleased after HOLD_MS is reclaimed. Operands: buffer. -/
  | gwBufferReclaim (b : Fin 2048)
  /-- GW_SHADOW_WRITE (R356). A write to the shadow bank stages the bucket or sets STAGE_FULL. Operands: initiator, into the shadow stash rather than the shadow bank, byte offset, data. -/
  | gwShadowWrite (init : Byte) (stash : Bool) (off : BitVec 19) (bytes : List Byte)
  /-- GW_SWAP (R357). A write of SWAP makes staged buckets and the shadow stash active between lookups. -/
  | gwSwap
  /-- GW_DISCARD (R358). A write of DISCARD frees staged buckets and reloads the shadow stash. -/
  | gwDiscard
  /-- GW_COPYBACK_DONE (R358). Copy-back of staged buckets to the table completes. -/
  | gwCopybackDone
  /-- ACF_BATCH_TIMEOUT (R360). BATCH_US after its first message an ACF PDU closes and is sent. Operands: port. -/
  | acfBatchTimeout (p : Fin 3)
  /-- ACF_PDU_RECEIVE (R361). A received NTSCF or TSCF PDU is split into ACF CAN messages that are looked up. -/
  | acfPduReceive
  /-- GW_INJECT (R362). A write of GW_INJ_GO submits the initiator's staging area to port 19 as one frame. Operands: initiator. -/
  | gwInject (init : Byte)
  /-- ZRT_REQUEST (R366). A ZRT request frame is checked for epoch and sequence, replayed or accepted. -/
  | zrtRequest
  /-- ZRT_READ (R368). A READ op issues speculative reads and returns their data. Operands: session. -/
  | zrtRead (k : Fin 8)
  /-- ZRT_WRITE (R367). A WRITE op issues writes of up to 64 bytes each in address order. Operands: session. -/
  | zrtWrite (k : Fin 8)
  /-- ZRT_RMW (R368). An RMW op reads speculatively and writes the masked value. Operands: session. -/
  | zrtRmw (k : Fin 8)
  /-- ZRT_TAKE (R368). A TAKE op issues one non-speculative read. Operands: session. -/
  | zrtTake (k : Fin 8)
  /-- ZRT_FENCE (R407). A FENCE op completes when every earlier posted write has completed or been logged. Operands: session. -/
  | zrtFence (k : Fin 8)
  /-- ZRT_RESET (R369). A verified RESET op responds and starts a full reset or requests recovery. Operands: session. -/
  | zrtReset (k : Fin 8)
  /-- ZRT_ACCEPT (R510). A verified ACCEPT op accepts or rejects the master's trial. Operands: session. -/
  | zrtAccept (k : Fin 8)
  /-- ZRT_NOTIFY_ACK (R371). A NOTIFY_ACK cumulatively acknowledges NOTIFY frames. -/
  | zrtNotifyAck
  /-- NOTIFY_BATCH_TIMEOUT (R371). BATCH_US after the oldest queued record a NOTIFY frame is sent. Operands: session. -/
  | notifyBatchTimeout (k : Fin 8)
  /-- NOTIFY_RETRANSMIT (R371). An unacknowledged NOTIFY frame is resent after RETX_MS. Operands: session, NOTIFY SEQ of the frame. -/
  | notifyRetransmit (k : Fin 8) (seq : BitVec 16)
  /-- NM_MESSAGE_RECEIVED (R374). A received NM message updates membership and the ring, and may give the module its turn. Operands: CAN controller, the frame. -/
  | nmMessageReceived (n : Fin 8) (f : CanFrame)
  /-- NM_TURN (R374). T_TYP after its cue the module sends its ring message. Operands: CAN controller. -/
  | nmTurn (n : Fin 8)
  /-- NM_RING_BROKEN (R374). No ring message addressed to the module within T_MAX sends ALIVE and counts a broken ring. Operands: CAN controller. -/
  | nmRingBroken (n : Fin 8)
  /-- NM_MEMBER_EXPIRE (R374). A node silent for 2 × T_MAX leaves the membership. Operands: CAN controller, node. -/
  | nmMemberExpire (n : Fin 8) (node : Fin 64)
  /-- NM_LISTEN_TIMEOUT (R377). LISTEN_T expires and the segment goes to BUS_SLEEP. Operands: CAN controller. -/
  | nmListenTimeout (n : Fin 8)
  /-- NM_READY (R377). The conditions of sleep hold and the segment moves to READY. Operands: segment. -/
  | nmReady (k : Fin 19)
  /-- NM_WAIT_BUS_SLEEP_EXPIRE (R377). T_WAIT_BUS_SLEEP expires and the segment requests transceiver sleep. Operands: segment. -/
  | nmWaitBusSleepExpire (k : Fin 19)
  /-- NM_AWAKE_WRITE (R378). A write of NM_SEGk_CTL.AWAKE wakes or releases the segment. Operands: segment, initiator, AWAKE. -/
  | nmAwakeWrite (k : Fin 19) (init : Byte) (v : Bool)
  /-- NM_INSOMNIA (R384). A member keeping SLEEP_IND 0 for INSOMNIA_MIN records an insomnia event. Operands: segment, member. -/
  | nmInsomnia (k : Fin 19) (node : Fin 64)
  /-- NM_INSOMNIA_CLEAR (R384). A write of NM_INS_CLR empties the insomnia table. -/
  | nmInsomniaClear
  /-- TC10_SLEEP_REQUEST (R383). A link partner's TC10 sleep request is accepted or rejected. Operands: uplink. -/
  | tc10SleepRequest (u : Fin 2)
  /-- TC10_WAKE (R383). A WUP or WUR wakes the uplink segment. Operands: uplink. -/
  | tc10Wake (u : Fin 2)
  /-- TRUNK_TRAIN_ATTEMPT (R391). The master attempts ring training with IDLE and DISCOVER. -/
  | trunkTrainAttempt
  /-- TRUNK_DISCOVER (R391). A DISCOVER frame is appended and forwarded by an expansion or completes training at the master. Operands: the index bytes in ring order, CRC-8 passed. -/
  | trunkDiscover (indices : List (Fin 4)) (crcOk : Bool)
  /-- TRUNK_DISCOVER_TIMEOUT (R391). No DISCOVER returns within 100 µs and the training attempt fails. -/
  | trunkDiscoverTimeout
  /-- TRUNK_GW_FRAME (R397). A GW_SHORT or GW_LONG frame is received and looked up on port 20. Operands: source index, SEQ (of a GW_SHORT), CRC passed, content. -/
  | trunkGwFrame (src : Fin 4) (seq : Byte) (crcOk : Bool) (q : TrunkGw)
  /-- TRUNK_REQ (R389). A REQ frame is checked, acknowledged and executed whole once. Operands: source index, SEQ, TAG, CRC passed, content. -/
  | trunkReq (src : Fin 4) (seq tag : Byte) (crcOk : Bool) (q : TrunkReq)
  /-- TRUNK_CPL (R389). A CPL frame completes its REQ at the master. Operands: source index, SEQ, TAG, status, CRC passed, read data. -/
  | trunkCpl (src : Fin 4) (seq tag status : Byte) (crcOk : Bool) (data : List Byte)
  /-- TRUNK_ACK (R389). An ACK frees a kept sequenced frame. Operands: SEQ of the frame. -/
  | trunkAck (seq : Byte)
  /-- TRUNK_NAK (R389). A NAK resends the sequenced frame. Operands: SEQ of the frame. -/
  | trunkNak (seq : Byte)
  /-- TRUNK_RESEND_TIMEOUT (R389). A sequenced frame unacknowledged for 20 µs is resent. Operands: SEQ of the kept frame. -/
  | trunkResendTimeout (seq : Byte)
  /-- TRUNK_SYNC_FRAME (R393). A SYNC frame gives the slate value of the next TK_SYNC edge. Operands: slate value of the next edge, CRC-8 passed. -/
  | trunkSyncFrame (t : BitVec 64) (crcOk : Bool)
  /-- TK_SYNC_EDGE (R393). An expansion sets its reference slate at a TK_SYNC edge. -/
  | tkSyncEdge
  /-- TRUNK_SYNC_LOST (R393). No TK_SYNC edge for 100 µs makes the expansion run free and set SYNC_LOST. -/
  | trunkSyncLost
  /-- TRUNK_BOUNDARY (R393). A BOUNDARY frame passes a master frame boundary to the expansion FRM. Operands: SEQ, CRC-8 passed, slate value of the boundary. -/
  | trunkBoundary (seq : Byte) (crcOk : Bool) (t : BitVec 64)
  /-- TRUNK_LINK_LOST (R392). Lost symbol lock or exhausted resends make the link lost and untrain every window. -/
  | trunkLinkLost
  /-- TRUNK_COMPLETION_TIMEOUT (R392). A non-posted transaction without completion for 5 ms makes the link lost. Operands: TAG of the transaction. -/
  | trunkCompletionTimeout (tag : Byte)
  /-- TRUNK_WAKE (R409). A WAKE burst recognised after 10 µs latches a Trunk wake and is forwarded. -/
  | trunkWake
  /-- POSTED_WRITE_FAIL (R404). A failed posted write is logged and a PERR cue is posted. -/
  | postedWriteFail
  /-- POSTED_BUFFER_FREE (R404). A posted write waiting for a free entry is accepted and completes to its initiator. -/
  | postedBufferFree
  /-- PEL_POP (R405). A read of BRG_PEL_POP byte 0 returns and removes the oldest log record. -/
  | pelPop
  /-- INPUT_SAMPLE (R410). Every 100 µs each enabled switch input is sampled. Operands: bit n whether input n reads active. -/
  | inputSample (levels : BitVec 96)
  /-- INPUT_CHANGE_ACCEPT (R413). A level stable over DEBOUNCE is accepted, stamped and cued. Operands: input. -/
  | inputChangeAccept (n : Fin 96)
  /-- CLEAN_PULSE_END (R412). A cleaning pulse ends and a waiting pulse starts. Operands: input. -/
  | cleanPulseEnd (n : Fin 96)
  /-- HANDLE_SCAN (R417). A handle scan updates COUNT, baseline, touch state and faults. Operands: counts of the handles, which charge transfers completed. -/
  | handleScan (c0 c1 c2 c3 : BitVec 16) (ok : BitVec 4)
  /-- HANDLE_STUCK (R418). A touch lasting STUCK_S resets the baseline and releases the handle. Operands: handle. -/
  | handleStuck (k : Fin 4)
  /-- MEAS_SCAN (R421). Every SCAN_MS an input conversion scan starts. -/
  | measScan
  /-- MEAS_CONVERSION_END (R421). An input conversion ends and updates its slot and any curve slot. Operands: input, voltage in mV. -/
  | measConversionEnd (n : Fin 96) (mv : BitVec 16)
  /-- MEAS_PERIODIC_UPDATE (R420). Every 1 ms the sensor supply, VLOG and die temperature slots update. Operands: supply voltages and currents, VLOG, die index and hottest sensor in 1/16 °C. -/
  | measPeriodicUpdate (v0 i0 v1 i1 vlog : BitVec 16) (reads : List (Fin 15 × BitVec 16))
  /-- TEMP_WRITE (R422). A granted write of MEAS_TWRt updates its temperature slot. Operands: temperature slot, initiator, value. -/
  | tempWrite (t : Fin 64) (init : Byte) (v : BitVec 16)
  /-- TEMP_STALE (R423). A WRITTEN slot without a write for STALE_S enters fallback. Operands: temperature slot. -/
  | tempStale (t : Fin 64)
  /-- SENS_CTL_WRITE (R427). A granted write of MEAS_SENS_CTL switches the sensor supplies. Operands: initiator, the four bits. -/
  | sensCtlWrite (init : Byte) (v : BitVec 4)
  /-- SENS_OVERCURRENT (R428). A supply in current limit for 10 ms switches off and sets SENS_OC. Operands: supply. -/
  | sensOvercurrent (k : Fin 2)
  /-- SENS_BACKFEED (R428). A supply above 5.6 V for 100 µs opens its switch and sets SENS_BACKFEED. Operands: supply. -/
  | sensBackfeed (k : Fin 2)
  /-- SENS_BACKFEED_RELEASE (R428). An output below 5.3 V for 10 ms with EN 1 closes the switch again. Operands: supply. -/
  | sensBackfeedRelease (k : Fin 2)
  /-- LF_ANTENNA_FAULT (R430). An open or shorted LF antenna is flagged and left out of later masks. Operands: antenna, whether SHORT. -/
  | lfAntennaFault (a : Fin 6) (short : Bool)
  /-- ACC_POLL_REQUEST (R438). A write of ACC_POLL_REQ.GO queues or merges a poll request. Operands: initiator, ANT, TAG. -/
  | accPollRequest (init : Byte) (ant : BitVec 6) (tag : Byte)
  /-- POLL_START (R437). The next queued poll is taken and its first broadcast round begins. -/
  | pollStart
  /-- ACC_ROUND_START (R432). An LF challenge frame starts with a new nonce. -/
  | accRoundStart
  /-- UHF_FRAME (R431). A counted UHF_IRQ edge is stamped and the frame read over SPI. Operands: the 14 bytes read. -/
  | uhfFrame (bytes : List Byte)
  /-- UHF_FRAME_JUDGE (R435). A read frame is judged once the round values are computed. -/
  | uhfFrameJudge
  /-- ACC_ROUND_CLOSE (R436). A round closes with its outcome and the poll advances or ends. -/
  | accRoundClose
  /-- POLL_NONCE_TIMEOUT (R483). A poll waiting over 100 ms for a nonce ends FAILED. -/
  | pollNonceTimeout
  /-- SEARCH_ROUND (R440). Every 1 s a fall-back search round runs if all sources are idle. -/
  | searchRound
  /-- SEARCH_STOP (R441). The park time reaching PARK_DAYS stops the search. -/
  | searchStop
  /-- ACC_LEARN (R444). A LEARN GO write starts a learning event or returns a refusing RESULT. Operands: initiator, INDEX, AUTH. -/
  | accLearn (init : Byte) (idx : Fin 8) (auth : Fin 4)
  /-- ACC_REVOKE (R446). A REVOKE GO write erases a token key and marks the index REVOKED. Operands: initiator, INDEX, AUTH. -/
  | accRevoke (init : Byte) (idx : Fin 8) (auth : Fin 4)
  /-- DEALER_RESPONSE (R444). A write of ACC_LEARN_RESP word 1 submits the dealer response. Operands: initiator, word 1 of the response. -/
  | dealerResponse (init : Byte) (w : Word)
  /-- DEALER_TIMEOUT (R444). 60 s in DEALER_WAIT end the event with TIMEOUT. -/
  | dealerTimeout
  /-- DEALER_LOCK_EXPIRE (R445). A dealer lockout period ends. -/
  | dealerLockExpire
  /-- LEARN_COMMIT_DONE (R444). The learning STORE completes, activating the index and incrementing ENROL_USED. -/
  | learnCommitDone
  /-- ACC_GRANT (R447). A GRANT write binds an authorisation to a recently verified token or is ignored. Operands: initiator. -/
  | accGrant (init : Byte)
  /-- ACC_AUTH_END (R447). An END write ends the authorisation and sends WITHDRAWN messages. Operands: initiator. -/
  | accAuthEnd (init : Byte)
  /-- AUTH_EXPIRE (R447). The authorisation validity reaches 0 and the authorisation ends. -/
  | authExpire
  /-- RELEASE_MESSAGE (R449). Every 100 ms while authorised a release message is built and injected. -/
  | releaseMessage
  /-- BARRIER_FRAME_SEND (R455). Every 50 µs each IX side sends a barrier frame. Operands: whether the field side sends, its input levels, its outputs that limit their current. -/
  | barrierFrameSend (field : Bool) (levels limit : BitVec 16)
  /-- BARRIER_DATA_FRAME (R456). The field side accepts a DATA frame and applies OUT. Operands: the bits that the barrier corrupts, 0 for none. -/
  | barrierDataFrame (err : BitVec 64)
  /-- BARRIER_CONFIG_FRAME (R456). The field side accepts a CONFIG frame and stores SAFE, TIMEOUT and GEN. Operands: the bits that the barrier corrupts, 0 for none. -/
  | barrierConfigFrame (err : BitVec 64)
  /-- BARRIER_FIELD_FRAME (R462). The logic side receives a field frame with inputs, CFG_GEN and status. Operands: the bits that the barrier corrupts, 0 for none. -/
  | barrierFieldFrame (err : BitVec 64)
  /-- FIELD_SAFE_TIMEOUT (R457). No DATA frame for TIMEOUT ms makes the field side apply SAFE. -/
  | fieldSafeTimeout
  /-- ISO_KEEPALIVE_LOSS (R458). 100 µs after the last accepted KEEPALIVE the logic-side IX die stops DATA frames. -/
  | isoKeepaliveLoss
  /-- ISO_ADOPT (R459). IX is adopted by reading back OUT and configuring the field side. -/
  | isoAdopt
  /-- ISO_OUT_WRITE (R463). A permitted write of ISO_OUT is applied at the terminals within 100 µs. Operands: initiator, OUT. -/
  | isoOutWrite (init : Byte) (v : BitVec 16)
  /-- ISO_FORCE_SAFE (R463). A Strongroom write of ISO_CTL.FORCE_SAFE makes DATA frames carry SAFE. Operands: initiator, FORCE_SAFE. -/
  | isoForceSafe (init : Byte) (v : Bool)
  /-- ISO_FIELD_SILENT (R464). No valid field frame for 1 ms raises FAULT and zeroes ISO_IN. -/
  | isoFieldSilent
  /-- BO_THERMAL_SHUTDOWN (R453). A current-limiting output reaching 165 °C opens. Operands: output. -/
  | boThermalShutdown (j : Fin 16)
  /-- BO_THERMAL_RESTART (R453). An output cooled by 20 K restarts by itself. Operands: output. -/
  | boThermalRestart (j : Fin 16)
  /-- BB_SUPPLY_LOSS (R457). Loss of BB_SUPPLY turns every output off and loses the field configuration. -/
  | bbSupplyLoss
  /-- STR_REQUEST (R469). A 16-byte write of SYS_STR_REQ queues a Strongroom request or is counted. Operands: initiator, the bytes of the write to the window. -/
  | strRequest (init : Byte) (bytes : List Byte)
  /-- STR_RANDOM (R471). RANDOM writes DRBG bytes to OUT and completes its result slot. -/
  | strRandom
  /-- STR_SHA256 (R471). SHA256 hashes the input and writes the digest. -/
  | strSha256
  /-- STR_CMAC_GEN (R471). CMAC_GEN computes an AES-CMAC tag under a slot. -/
  | strCmacGen
  /-- STR_CMAC_VERIFY (R471). CMAC_VERIFY compares a computed tag with the one at OUT. -/
  | strCmacVerify
  /-- STR_AES_CTR (R471). AES_CTR encrypts or decrypts the input under a slot. -/
  | strAesCtr
  /-- STR_ECDSA_VERIFY (R471). ECDSA_VERIFY checks a P-256 signature over a digest. -/
  | strEcdsaVerify
  /-- KEY_IMPORT (R480). KEY_IMPORT unwraps a key blob into its cabinet slot or fails. -/
  | keyImport
  /-- KEY_ERASE (R481). KEY_ERASE overwrites a slot and sets it EMPTY. -/
  | keyErase
  /-- HB_DISARM (R474). HB_DISARM disarms the central computer heartbeat. -/
  | hbDisarm
  /-- LIFECYCLE_REQUEST (R487). A LIFECYCLE request writes a permitted transition and starts a full reset. -/
  | lifecycleRequest
  /-- FS_RELEASE_REQ (R476). FS_RELEASE_REQ releases named links from CC_ACT or STALE fail-safe. -/
  | fsReleaseReq
  /-- CC_HEARTBEAT_MISS (R473). No heartbeat request for CC_TIMEOUT sets CC_MISSING and applies CC_ACT. -/
  | ccHeartbeatMiss
  /-- ENTROPY_FAIL (R483). A failed entropy health test sets ENTROPY_FAIL and refuses draws. -/
  | entropyFail
  /-- DRBG_RESEED (R483). Every 1 ms the DRBG is reseeded. -/
  | drbgReseed
  /-- DEBUG_PASSWORD (R486). A shifted-in debug password is compared and opens the port or counts a failure. Operands: the password, first byte in the top bits. -/
  | debugPassword (pw : BitVec 128)
  /-- DEBUG_CHALLENGE (R486). The tool reads a new debug challenge. -/
  | debugChallenge
  /-- DEBUG_RESPONSE (R486). A challenge response is checked and opens the port or counts a failure. Operands: the answer, first byte in the top bits. -/
  | debugResponse (tag : BitVec 128)
  /-- DEBUG_BACKOFF_END (R486). A debug back-off period ends. -/
  | debugBackoffEnd
  /-- TAP_BYPASS (R485). The TAP BYPASS instruction. -/
  | tapBypass
  /-- TAP_IDCODE (R485). The TAP IDCODE instruction returns the device code. -/
  | tapIdcode
  /-- STORE_REQUEST (R498). A 16-byte write of NVM_STORE_REQ queues a STORE or completes BUSY. Operands: writer and the bytes written. -/
  | storeRequest (init : Byte) (bytes : List Byte)
  /-- STORE_EXECUTE (R499). A STORE writes its journal entry and commit word atomically. Operands: whether the write verifies. -/
  | storeExecute (ok : Bool)
  /-- JOURNAL_COPY (R499). The NVM unit copies a journal entry to the home area in the background. -/
  | journalCopy
  /-- UPD_BEGIN (R505). BEGIN marks the inactive slot INCOMPLETE and enters RECEIVING. Operands: writer; SLOT 0 A, 1 B. -/
  | updBegin (init : Byte) (slot : Fin 2)
  /-- UPD_PROGRAM (R505). PROGRAM copies bytes from the Larder or Attic into the inactive slot. Operands: writer. -/
  | updProgram (init : Byte)
  /-- UPD_COPY_PART (R505). COPY_PART copies an active part into the inactive slot. Operands: writer, TYPE, TARGET. -/
  | updCopyPart (init : Byte) (type : Fin 16) (target : Fin 4)
  /-- UPD_CHECK (R506). CHECK verifies the inactive slot and its expansions and writes the verdict CHECKED. Operands: writer; active parts of the expansions; the RESULT of each expansion's remote CHECK. -/
  | updCheck (init : Byte) (remote : List RemotePart) (r1 r2 r3 : Byte)
  /-- UPD_ACTIVATE (R508). ACTIVATE commits the update on expansions and this module and resets into trial. Operands: writer; expansions that report CHECKED with the same GEN; remote ACTIVATEs that succeed. -/
  | updActivate (init : Byte) (ready done : BitVec 3)
  /-- UPD_ABORT (R505). ABORT returns the inactive slot to INCOMPLETE and UPD to IDLE. Operands: writer. -/
  | updAbort (init : Byte)
  /-- TRIAL_TIMEOUT (R509). The trial time expires and the master reverts with cause TIMEOUT. -/
  | trialTimeout
  /-- EXPANSION_TRIAL_DECIDE (R512). An expansion at trial expiry or link retraining accepts, waits or reverts per the master's outcome. Operands: the master's LAST_GEN and LAST_OUTCOME. -/
  | expansionTrialDecide (gen : BitVec 32) (outcome : Fin 4)
  /-- RECOVERY_ENTRY (R513). The boot ROM enters recovery and serves the uplinks, maintenance port and Trunk. -/
  | recoveryEntry
  /-- MNT_WRITE (R514). A maintenance-port write transfer writes up to 256 bytes to the Spine. Operands: address, up to 256 bytes. -/
  | mntWrite (a : Word) (bytes : List Byte)
  /-- MNT_READ (R514). A maintenance-port read transfer returns up to 256 bytes. Operands: address, length up to 256. -/
  | mntRead (a : Word) (n : BitVec 9)
  /-- FEED_GROUP_CONDUCT (R65). A blocked feed group that rises back above the common rail is conducted again by its ideal-diode stage, setting its CONDUCT bit. Operands: feed group 0 A, 1 B. -/
  | feedGroupConduct (g : Fin 2)
  /-- BB_SUPPLY_RESTORE (R457). BB_SUPPLY rising above its undervoltage threshold powers up the field side unconfigured, with outputs off and CFG_GEN 0. -/
  | bbSupplyRestore
  /-- UPLINK_LINK_DOWN (R232). An uplink PHY loses its link, clearing LINK in ETH_PORTp_STAT, and replicated traffic continues on the other uplink. Operands: uplink. -/
  | uplinkLinkDown (u : Fin 2)
  /-- UPLINK_LINK_UP (R232). An uplink PHY gains its link, setting LINK in ETH_PORTp_STAT, and the port carries frames again. Operands: uplink. -/
  | uplinkLinkUp (u : Fin 2)
  /-- SHORT_BAT_CLEAR (R163). An OFF output that stays below 0.3 × VBAT for 1 ms turns the SHORT_BAT verdict back to OK. Operands: channel. -/
  | shortBatClear (c : Fin 132)
  /-- SW_DECODER_ARM (R316). With SW_EN 1, a wake-up pattern in STANDBY or SLEEP arms the selective-wake frame decoder at SW_RATE instead of waking. Operands: CAN controller. -/
  | swDecoderArm (n : Fin 4)
  /-- FEC_FRAME_COUNT (R316). A frame decoded by the transceiver in STANDBY or SLEEP that does not wake raises FEC on a stuff, CRC or form error, or lowers it when correct. Operands: CAN controller, whether the frame had an error, whether it is an FD frame. -/
  | fecFrameCount (n : Fin 4) (err fdf : Bool)
  /-- MATCHER_SCL_RELEASE (R84). 3 ms after an address match in Deep sleep, the I²C matcher releases SCL without acknowledging the first data byte. -/
  | matcherSclRelease
  /-- ENTROPY_RECOVERY (R483). After 1,024 consecutive samples pass the health tests, draws complete normally again and HEALTHY returns to 1. -/
  | entropyRecovery
  /-- LOCAL_HOST_ACCESS (R400). A transfer on the LH_ SPI target issues Spine reads or writes as initiator 0x48, split at 64-byte boundaries, with writes never posted. Operands: write, address, the bytes of a write, the length of a read. -/
  | localHostAccess (write : Bool) (a : Word) (bytes : List Byte) (n : BitVec 16)
  /-- DEBUG_PORT_ACCESS (R485). An open debug TAP issues a Spine access as initiator 0x4A, subject to every writer rule and unable to write SW registers. Operands: write, address, the bytes of a write, the length of a read. -/
  | debugPortAccess (write : Bool) (a : Word) (bytes : List Byte) (n : BitVec 7)
  deriving DecidableEq, Repr

end Sys2Proof
end

