-- ==== Sys2Proof/Decode.lean ====
section
/-! DEFINITION. The command that a word of the opcode table spells. The table gives no row any bits (every row has an
empty list of fields): a command comes from outside as an event, not as a word, so that no word spells one. -/

namespace Sys2Proof

/-- The command spelled by a word of `nbits` bits: none, as no row of the table has bits. -/
def decodeTableWord (_nbits _w : Nat) : Option Instr := none

end Sys2Proof
end

