-- ==== Sys2Proof/Machine/RegMap.lean ====
section
/-! DEFINITION. The register map: the address of every register, the place of every field, and the table of reset
values, access masks and reset kinds, transcribed from the register tables of spec/ (R8 to R11, R32). -/

namespace Sys2Proof.Machine

/-- A field of a register: the Spine byte address of its word, its least significant bit and its width (R8). -/
structure RF where
  addr : Nat
  lo : Nat
  w : Nat
  deriving DecidableEq, Repr

/-- What resets a register (R10): `full` by power-on and full reset, `held` by power-on only, `mram` by neither
because its content comes from MRAM, `const` never changes. -/
inductive ResetKind where
  | full
  | held
  | mram
  | const
  deriving DecidableEq, Repr

/-- One row of the register table: the first address, two strides with their counts, the reset word, and the masks
of the RW, W1C, WO and SW bits (R11); every other bit is read-only or reserved. -/
structure RegDef where
  base : Nat
  s1 : Nat
  n1 : Nat
  s2 : Nat
  n2 : Nat
  reset : Nat
  rw : Nat
  w1c : Nat
  wo : Nat
  sw : Nat
  kind : ResetKind
  deriving DecidableEq, Repr

/-! Registers of spec/00_scope.md -/

/-- SYS_ABSENT_WR_CNT (R7, 00_scope.md). -/
def SYS_ABSENT_WR_CNT : Nat := 0x052D0040
def SYS_ABSENT_WR_CNT_COUNT : RF := ⟨SYS_ABSENT_WR_CNT, 0, 16⟩
def SYS_ABSENT_WR_CNT_LAST_UNIT : RF := ⟨SYS_ABSENT_WR_CNT, 16, 8⟩
def SYS_ABSENT_WR_CNT_LAST_INSTANCE : RF := ⟨SYS_ABSENT_WR_CNT, 24, 8⟩

/-! Registers of spec/01_architecture.md -/

/-- SYS_DECODE_ERR_CNT (R516, 01_architecture.md). -/
def SYS_DECODE_ERR_CNT : Nat := 0x052D0044
def SYS_DECODE_ERR_CNT_COUNT : RF := ⟨SYS_DECODE_ERR_CNT, 0, 16⟩
def SYS_DECODE_ERR_CNT_LAST_INIT : RF := ⟨SYS_DECODE_ERR_CNT, 16, 8⟩
def SYS_DECODE_ERR_CNT_LAST_WRITE : RF := ⟨SYS_DECODE_ERR_CNT, 24, 1⟩

/-- SYS_DECODE_ERR_ADDR (R516, 01_architecture.md). -/
def SYS_DECODE_ERR_ADDR : Nat := 0x052D0048
def SYS_DECODE_ERR_ADDR_ADDR : RF := ⟨SYS_DECODE_ERR_ADDR, 0, 32⟩

/-! Registers of spec/03_supply_power_states.md -/

/-- PWR_STATE (R91, 03_supply_power_states.md). -/
def PWR_STATE : Nat := 0x05010010
def PWR_STATE_STATE : RF := ⟨PWR_STATE, 0, 3⟩
def PWR_STATE_TARGET : RF := ⟨PWR_STATE, 4, 3⟩
def PWR_STATE_PHASE : RF := ⟨PWR_STATE, 8, 2⟩
def PWR_STATE_LAST_STATE : RF := ⟨PWR_STATE, 16, 3⟩

/-- PWR_REQ (R91, 03_supply_power_states.md). -/
def PWR_REQ : Nat := 0x05010014
def PWR_REQ_TARGET : RF := ⟨PWR_REQ, 0, 3⟩
def PWR_REQ_STATUS : RF := ⟨PWR_REQ, 8, 3⟩
def PWR_REQ_REQUESTER : RF := ⟨PWR_REQ, 16, 8⟩

/-- PWR_VOTE (R91, 03_supply_power_states.md). -/
def PWR_VOTE : Nat := 0x05010018
def PWR_VOTE_CONSENT : RF := ⟨PWR_VOTE, 0, 1⟩
def PWR_VOTE_REASON : RF := ⟨PWR_VOTE, 8, 8⟩

/-- PWR_CFG (R91, 03_supply_power_states.md). -/
def PWR_CFG : Nat := 0x05010020
def PWR_CFG_T_CONSENT : RF := ⟨PWR_CFG, 0, 7⟩
def PWR_CFG_SYS24 : RF := ⟨PWR_CFG, 7, 1⟩
def PWR_CFG_DEEP_ALLOWED : RF := ⟨PWR_CFG, 8, 1⟩
def PWR_CFG_OFF_ALLOWED : RF := ⟨PWR_CFG, 9, 1⟩
def PWR_CFG_AUTH_ENGINE : RF := ⟨PWR_CFG, 16, 8⟩
def PWR_CFG_MNT_ADDR : RF := ⟨PWR_CFG, 24, 7⟩

/-- PWR_FEED_STAT (R91, 03_supply_power_states.md). -/
def PWR_FEED_STAT : Nat := 0x05010030
def PWR_FEED_STAT_A_OK : RF := ⟨PWR_FEED_STAT, 0, 1⟩
def PWR_FEED_STAT_B_OK : RF := ⟨PWR_FEED_STAT, 1, 1⟩
def PWR_FEED_STAT_A_CONDUCT : RF := ⟨PWR_FEED_STAT, 2, 1⟩
def PWR_FEED_STAT_B_CONDUCT : RF := ⟨PWR_FEED_STAT, 3, 1⟩
def PWR_FEED_STAT_BAND : RF := ⟨PWR_FEED_STAT, 4, 2⟩

/-- PWR_FEED_FLAG (R91, 03_supply_power_states.md). -/
def PWR_FEED_FLAG : Nat := 0x05010034
def PWR_FEED_FLAG_A_LOSS : RF := ⟨PWR_FEED_FLAG, 0, 1⟩
def PWR_FEED_FLAG_B_LOSS : RF := ⟨PWR_FEED_FLAG, 1, 1⟩
def PWR_FEED_FLAG_LOW : RF := ⟨PWR_FEED_FLAG, 2, 1⟩
def PWR_FEED_FLAG_LOAD_DUMP : RF := ⟨PWR_FEED_FLAG, 3, 1⟩
def PWR_FEED_FLAG_BROWNOUT : RF := ⟨PWR_FEED_FLAG, 4, 1⟩
def PWR_FEED_FLAG_CLASS_MISMATCH : RF := ⟨PWR_FEED_FLAG, 5, 1⟩

/-- PWR_FEED_FLAG_CNT (R91, 03_supply_power_states.md). -/
def PWR_FEED_FLAG_CNT : Nat := 0x05010038
def PWR_FEED_FLAG_CNT_COUNT : RF := ⟨PWR_FEED_FLAG_CNT, 0, 8⟩

/-- PWR_WAKE_EN (R91, 03_supply_power_states.md). -/
def PWR_WAKE_EN : Nat := 0x05010040
def PWR_WAKE_EN_EN : RF := ⟨PWR_WAKE_EN, 0, 24⟩

/-- PWR_WAKE_SRC (R91, 03_supply_power_states.md). -/
def PWR_WAKE_SRC : Nat := 0x05010044
def PWR_WAKE_SRC_SRC : RF := ⟨PWR_WAKE_SRC, 0, 24⟩

/-- PWR_WAKE_CNT (R91, 03_supply_power_states.md). -/
def PWR_WAKE_CNT : Nat := 0x05010048
def PWR_WAKE_CNT_COUNT : RF := ⟨PWR_WAKE_CNT, 0, 8⟩

/-- PWR_WAKE_TIMER (R91, 03_supply_power_states.md). -/
def PWR_WAKE_TIMER : Nat := 0x0501004C
def PWR_WAKE_TIMER_SECONDS : RF := ⟨PWR_WAKE_TIMER, 0, 16⟩

/-- PWR_DENIED_CNT (R91, 03_supply_power_states.md). -/
def PWR_DENIED_CNT : Nat := 0x05010050
def PWR_DENIED_CNT_COUNT : RF := ⟨PWR_DENIED_CNT, 0, 16⟩
def PWR_DENIED_CNT_LAST_INIT : RF := ⟨PWR_DENIED_CNT, 16, 8⟩

/-- PWR_ABORT_CNT0 (R91, 03_supply_power_states.md). -/
def PWR_ABORT_CNT0 : Nat := 0x05010054
def PWR_ABORT_CNT0_IDLE : RF := ⟨PWR_ABORT_CNT0, 0, 16⟩
def PWR_ABORT_CNT0_SLEEP : RF := ⟨PWR_ABORT_CNT0, 16, 16⟩

/-- PWR_ABORT_CNT1 (R91, 03_supply_power_states.md). -/
def PWR_ABORT_CNT1 : Nat := 0x05010058
def PWR_ABORT_CNT1_DEEP : RF := ⟨PWR_ABORT_CNT1, 0, 16⟩
def PWR_ABORT_CNT1_OFF : RF := ⟨PWR_ABORT_CNT1, 16, 16⟩

/-- PWR_ABORT_LAST (R91, 03_supply_power_states.md). -/
def PWR_ABORT_LAST : Nat := 0x0501005C
def PWR_ABORT_LAST_CAUSE : RF := ⟨PWR_ABORT_LAST, 0, 24⟩
def PWR_ABORT_LAST_TARGET : RF := ⟨PWR_ABORT_LAST, 24, 2⟩

/-- PWR_REF_CLR (R91, 03_supply_power_states.md). -/
def PWR_REF_CLR : Nat := 0x05010060
def PWR_REF_CLR_CLEAR : RF := ⟨PWR_REF_CLR, 0, 1⟩

/-- PWR_REF_OVF (R91, 03_supply_power_states.md). -/
def PWR_REF_OVF : Nat := 0x05010064
def PWR_REF_OVF_COUNT : RF := ⟨PWR_REF_OVF, 0, 16⟩

/-! Registers of spec/04_islands_clocks_reset.md -/

/-- PWR_ISLAND_STAT (R105, 04_islands_clocks_reset.md). -/
def PWR_ISLAND_STAT : Nat := 0x05010070
def PWR_ISLAND_STAT_CLOCKED : RF := ⟨PWR_ISLAND_STAT, 0, 30⟩

/-- CLK_OSC_STAT (R107, 04_islands_clocks_reset.md). -/
def CLK_OSC_STAT : Nat := 0x05020010
def CLK_OSC_STAT_XTAL_OK : RF := ⟨CLK_OSC_STAT, 0, 1⟩
def CLK_OSC_STAT_FALLBACK : RF := ⟨CLK_OSC_STAT, 1, 1⟩

/-- CLK_DLO_LOCK (R107, 04_islands_clocks_reset.md). -/
def CLK_DLO_LOCK : Nat := 0x05020014
def CLK_DLO_LOCK_LOCK : RF := ⟨CLK_DLO_LOCK, 0, 30⟩

/-- CLK_OSC_FLAG (R107, 04_islands_clocks_reset.md). -/
def CLK_OSC_FLAG : Nat := 0x05020018
def CLK_OSC_FLAG_XTAL_FAIL : RF := ⟨CLK_OSC_FLAG, 0, 1⟩
def CLK_OSC_FLAG_DLO_UNLOCK : RF := ⟨CLK_OSC_FLAG, 1, 1⟩
def CLK_OSC_FLAG_LAST_ISLAND : RF := ⟨CLK_OSC_FLAG, 8, 5⟩

/-- CLK_OSC_FLAG_CNT (R107, 04_islands_clocks_reset.md). -/
def CLK_OSC_FLAG_CNT : Nat := 0x0502001C
def CLK_OSC_FLAG_CNT_COUNT : RF := ⟨CLK_OSC_FLAG_CNT, 0, 8⟩

/-- CLK_XING_CLOSED (R107, 04_islands_clocks_reset.md). -/
def CLK_XING_CLOSED : Nat := 0x05020020
def CLK_XING_CLOSED_CLOSED : RF := ⟨CLK_XING_CLOSED, 0, 30⟩

/-- CLK_XING_DISCARD (R107, 04_islands_clocks_reset.md). -/
def CLK_XING_DISCARD : Nat := 0x05020024
def CLK_XING_DISCARD_COUNT : RF := ⟨CLK_XING_DISCARD, 0, 16⟩
def CLK_XING_DISCARD_LAST_FROM : RF := ⟨CLK_XING_DISCARD, 16, 5⟩
def CLK_XING_DISCARD_LAST_TO : RF := ⟨CLK_XING_DISCARD, 21, 5⟩

/-- SYS_RESET_CAUSE (R116, 04_islands_clocks_reset.md). -/
def SYS_RESET_CAUSE : Nat := 0x052D0050
def SYS_RESET_CAUSE_CAUSE : RF := ⟨SYS_RESET_CAUSE, 0, 8⟩
def SYS_RESET_CAUSE_DETAIL : RF := ⟨SYS_RESET_CAUSE, 8, 8⟩
def SYS_RESET_CAUSE_INITIATOR : RF := ⟨SYS_RESET_CAUSE, 16, 8⟩

/-- SYS_RESET_STAMP_LO (R116, 04_islands_clocks_reset.md). -/
def SYS_RESET_STAMP_LO : Nat := 0x052D0054
def SYS_RESET_STAMP_LO_STAMP_LO : RF := ⟨SYS_RESET_STAMP_LO, 0, 32⟩

/-- SYS_RESET_STAMP_HI (R116, 04_islands_clocks_reset.md). -/
def SYS_RESET_STAMP_HI : Nat := 0x052D0058
def SYS_RESET_STAMP_HI_STAMP_HI : RF := ⟨SYS_RESET_STAMP_HI, 0, 32⟩

/-- SYS_RESET_CNT0 (R116, 04_islands_clocks_reset.md). -/
def SYS_RESET_CNT0 : Nat := 0x052D005C
def SYS_RESET_CNT0_RESET_PIN : RF := ⟨SYS_RESET_CNT0, 0, 8⟩
def SYS_RESET_CNT0_STR_CREW_HEARTBEAT : RF := ⟨SYS_RESET_CNT0, 8, 8⟩
def SYS_RESET_CNT0_STR_SPINE_HANG : RF := ⟨SYS_RESET_CNT0, 16, 8⟩
def SYS_RESET_CNT0_STR_POLICY : RF := ⟨SYS_RESET_CNT0, 24, 8⟩

/-- SYS_RESET_CNT1 (R116, 04_islands_clocks_reset.md). -/
def SYS_RESET_CNT1 : Nat := 0x052D0060
def SYS_RESET_CNT1_ZRT_RESET : RF := ⟨SYS_RESET_CNT1, 0, 8⟩
def SYS_RESET_CNT1_BROWNOUT : RF := ⟨SYS_RESET_CNT1, 8, 8⟩
def SYS_RESET_CNT1_XTAL_FAIL : RF := ⟨SYS_RESET_CNT1, 16, 8⟩
def SYS_RESET_CNT1_UPDATE : RF := ⟨SYS_RESET_CNT1, 24, 8⟩

/-- SYS_HANG_INFO (R116, 04_islands_clocks_reset.md). -/
def SYS_HANG_INFO : Nat := 0x052D0064
def SYS_HANG_INFO_INITIATOR : RF := ⟨SYS_HANG_INFO, 0, 8⟩
def SYS_HANG_INFO_ISLAND : RF := ⟨SYS_HANG_INFO, 8, 5⟩
def SYS_HANG_INFO_WRITE : RF := ⟨SYS_HANG_INFO, 13, 1⟩
def SYS_HANG_INFO_VALID : RF := ⟨SYS_HANG_INFO, 31, 1⟩

/-- SYS_HANG_ADDR (R116, 04_islands_clocks_reset.md). -/
def SYS_HANG_ADDR : Nat := 0x052D0068
def SYS_HANG_ADDR_ADDR : RF := ⟨SYS_HANG_ADDR, 0, 32⟩

/-! Registers of spec/05_output_channels.md -/

/-- CH_CFG (R125, 05_output_channels.md). -/
def CH_CFG (i : Nat) : Nat := 0x03000004 + i * 0x400
def CH_CFG_CLASS (i : Nat) : RF := ⟨CH_CFG i, 0, 3⟩
def CH_CFG_GANG (i : Nat) : RF := ⟨CH_CFG i, 3, 1⟩
def CH_CFG_ODD (i : Nat) : RF := ⟨CH_CFG i, 4, 1⟩
def CH_CFG_KEPT (i : Nat) : RF := ⟨CH_CFG i, 5, 1⟩
def CH_CFG_CRANK_RUN (i : Nat) : RF := ⟨CH_CFG i, 6, 1⟩
def CH_CFG_REFLEX (i : Nat) : RF := ⟨CH_CFG i, 7, 1⟩
def CH_CFG_OWNER (i : Nat) : RF := ⟨CH_CFG i, 8, 8⟩
def CH_CFG_ZRT_GRANT (i : Nat) : RF := ⟨CH_CFG i, 16, 8⟩
def CH_CFG_LINK (i : Nat) : RF := ⟨CH_CFG i, 24, 4⟩

/-- CH_CMD (R125, 05_output_channels.md). -/
def CH_CMD (i : Nat) : Nat := 0x03000008 + i * 0x400
def CH_CMD_MODE (i : Nat) : RF := ⟨CH_CMD i, 0, 2⟩
def CH_CMD_RESTART (i : Nat) : RF := ⟨CH_CMD i, 2, 1⟩
def CH_CMD_TAG (i : Nat) : RF := ⟨CH_CMD i, 8, 8⟩

/-- CH_PWM (R125, 05_output_channels.md). -/
def CH_PWM (i : Nat) : Nat := 0x0300000C + i * 0x400
def CH_PWM_DUTY (i : Nat) : RF := ⟨CH_PWM i, 0, 11⟩
def CH_PWM_PDIV (i : Nat) : RF := ⟨CH_PWM i, 12, 2⟩
def CH_PWM_PHASE (i : Nat) : RF := ⟨CH_PWM i, 16, 10⟩

/-- CH_SLEW (R125, 05_output_channels.md). -/
def CH_SLEW (i : Nat) : Nat := 0x03000010 + i * 0x400
def CH_SLEW_SLEW_ON (i : Nat) : RF := ⟨CH_SLEW i, 0, 4⟩
def CH_SLEW_SLEW_OFF (i : Nat) : RF := ⟨CH_SLEW i, 4, 4⟩

/-- CH_STATUS (R125, 05_output_channels.md). -/
def CH_STATUS (i : Nat) : Nat := 0x03000014 + i * 0x400
def CH_STATUS_PHASE (i : Nat) : RF := ⟨CH_STATUS i, 0, 4⟩
def CH_STATUS_CONDUCTING (i : Nat) : RF := ⟨CH_STATUS i, 4, 1⟩
def CH_STATUS_CAPPED (i : Nat) : RF := ⟨CH_STATUS i, 5, 1⟩
def CH_STATUS_FDM (i : Nat) : RF := ⟨CH_STATUS i, 6, 1⟩
def CH_STATUS_POINT (i : Nat) : RF := ⟨CH_STATUS i, 8, 4⟩
def CH_STATUS_LAST_TAG (i : Nat) : RF := ⟨CH_STATUS i, 16, 8⟩

/-- CH_FLAG (R125, 05_output_channels.md). -/
def CH_FLAG (i : Nat) : Nat := 0x03000018 + i * 0x400
def CH_FLAG_TRIP (i : Nat) : RF := ⟨CH_FLAG i, 0, 1⟩
def CH_FLAG_OVERTEMP (i : Nat) : RF := ⟨CH_FLAG i, 1, 1⟩
def CH_FLAG_EBUDGET (i : Nat) : RF := ⟨CH_FLAG i, 2, 1⟩
def CH_FLAG_FUSED (i : Nat) : RF := ⟨CH_FLAG i, 3, 1⟩
def CH_FLAG_DEFERRED (i : Nat) : RF := ⟨CH_FLAG i, 4, 1⟩
def CH_FLAG_PAUSED (i : Nat) : RF := ⟨CH_FLAG i, 5, 1⟩
def CH_FLAG_SIG_HIGH (i : Nat) : RF := ⟨CH_FLAG i, 6, 1⟩
def CH_FLAG_SIG_LOW (i : Nat) : RF := ⟨CH_FLAG i, 7, 1⟩
def CH_FLAG_AGEING (i : Nat) : RF := ⟨CH_FLAG i, 8, 1⟩
def CH_FLAG_REFUSED (i : Nat) : RF := ⟨CH_FLAG i, 9, 1⟩
def CH_FLAG_PROFILE_REJECT (i : Nat) : RF := ⟨CH_FLAG i, 10, 1⟩
def CH_FLAG_LOST_STATE (i : Nat) : RF := ⟨CH_FLAG i, 11, 1⟩
def CH_FLAG_GATED (i : Nat) : RF := ⟨CH_FLAG i, 12, 1⟩

/-- CH_FLAG_CNT (R125, 05_output_channels.md). -/
def CH_FLAG_CNT (i : Nat) : Nat := 0x0300001C + i * 0x400
def CH_FLAG_CNT_COUNT (i : Nat) : RF := ⟨CH_FLAG_CNT i, 0, 8⟩

/-- CH_REFUSE (R125, 05_output_channels.md). -/
def CH_REFUSE (i : Nat) : Nat := 0x03000020 + i * 0x400
def CH_REFUSE_COUNT (i : Nat) : RF := ⟨CH_REFUSE i, 0, 16⟩
def CH_REFUSE_LAST_INIT (i : Nat) : RF := ⟨CH_REFUSE i, 16, 8⟩
def CH_REFUSE_LAST_REASON (i : Nat) : RF := ⟨CH_REFUSE i, 24, 8⟩

/-- CH_TRIP_CFG (R125, 05_output_channels.md). -/
def CH_TRIP_CFG (i : Nat) : Nat := 0x03000030 + i * 0x400
def CH_TRIP_CFG_ITRIP (i : Nat) : RF := ⟨CH_TRIP_CFG i, 0, 12⟩
def CH_TRIP_CFG_IOL (i : Nat) : RF := ⟨CH_TRIP_CFG i, 12, 12⟩

/-- CH_EBUDGET (R125, 05_output_channels.md). -/
def CH_EBUDGET (i : Nat) : Nat := 0x03000034 + i * 0x400
def CH_EBUDGET_BUDGET (i : Nat) : RF := ⟨CH_EBUDGET i, 0, 16⟩

/-- CH_RETRY (R125, 05_output_channels.md). -/
def CH_RETRY (i : Nat) : Nat := 0x03000038 + i * 0x400
def CH_RETRY_MAX (i : Nat) : RF := ⟨CH_RETRY i, 0, 8⟩
def CH_RETRY_DELAY (i : Nat) : RF := ⟨CH_RETRY i, 8, 8⟩
def CH_RETRY_USED (i : Nat) : RF := ⟨CH_RETRY i, 16, 8⟩

/-- CH_WIRE (R125, 05_output_channels.md). -/
def CH_WIRE (i : Nat) : Nat := 0x0300003C + i * 0x400
def CH_WIRE_WIRE (i : Nat) : RF := ⟨CH_WIRE i, 0, 8⟩

/-- CH_PROF_CTL (R129, 05_output_channels.md). -/
def CH_PROF_CTL (i : Nat) : Nat := 0x03000040 + i * 0x400
def CH_PROF_CTL_MODE (i : Nat) : RF := ⟨CH_PROF_CTL i, 0, 1⟩
def CH_PROF_CTL_TSCALE (i : Nat) : RF := ⟨CH_PROF_CTL i, 1, 2⟩
def CH_PROF_CTL_EDGE_START (i : Nat) : RF := ⟨CH_PROF_CTL i, 4, 4⟩
def CH_PROF_CTL_REHEAT_T (i : Nat) : RF := ⟨CH_PROF_CTL i, 8, 10⟩
def CH_PROF_CTL_COMMIT (i : Nat) : RF := ⟨CH_PROF_CTL i, 31, 1⟩

/-- CH_PROF (R129, 05_output_channels.md). -/
def CH_PROF (i j : Nat) : Nat := 0x03000080 + i * 0x400 + j * 0x4
def CH_PROF_T (i j : Nat) : RF := ⟨CH_PROF i j, 0, 12⟩
def CH_PROF_ICEIL (i j : Nat) : RF := ⟨CH_PROF i j, 12, 12⟩
def CH_PROF_SHAPE (i j : Nat) : RF := ⟨CH_PROF i j, 24, 2⟩
def CH_PROF_END (i j : Nat) : RF := ⟨CH_PROF i j, 31, 1⟩

/-- CH_PROF_STAT (R133, 05_output_channels.md). -/
def CH_PROF_STAT (i : Nat) : Nat := 0x03000044 + i * 0x400
def CH_PROF_STAT_XFER (i : Nat) : RF := ⟨CH_PROF_STAT i, 0, 2⟩
def CH_PROF_STAT_REJECT (i : Nat) : RF := ⟨CH_PROF_STAT i, 4, 4⟩
def CH_PROF_STAT_ACTIVE_GEN (i : Nat) : RF := ⟨CH_PROF_STAT i, 8, 8⟩
def CH_PROF_STAT_PENDING_GEN (i : Nat) : RF := ⟨CH_PROF_STAT i, 16, 8⟩

/-- CH_PAUSE (R133, 05_output_channels.md). -/
def CH_PAUSE (i : Nat) : Nat := 0x03000048 + i * 0x400
def CH_PAUSE_ICEIL_PAUSE (i : Nat) : RF := ⟨CH_PAUSE i, 0, 12⟩

/-- CH_SIG_CFG (R139, 05_output_channels.md). -/
def CH_SIG_CFG (i : Nat) : Nat := 0x030000C0 + i * 0x400
def CH_SIG_CFG_SIG_BW (i : Nat) : RF := ⟨CH_SIG_CFG i, 0, 4⟩
def CH_SIG_CFG_LEARN_N (i : Nat) : RF := ⟨CH_SIG_CFG i, 4, 6⟩
def CH_SIG_CFG_K (i : Nat) : RF := ⟨CH_SIG_CFG i, 10, 3⟩
def CH_SIG_CFG_ADAPT (i : Nat) : RF := ⟨CH_SIG_CFG i, 13, 1⟩
def CH_SIG_CFG_LEARN (i : Nat) : RF := ⟨CH_SIG_CFG i, 14, 1⟩
def CH_SIG_CFG_FLOOR (i : Nat) : RF := ⟨CH_SIG_CFG i, 16, 8⟩
def CH_SIG_CFG_AGE_LIMIT (i : Nat) : RF := ⟨CH_SIG_CFG i, 24, 8⟩

/-- CH_SIG_CFG2 (R139, 05_output_channels.md). -/
def CH_SIG_CFG2 (i : Nat) : Nat := 0x030000C8 + i * 0x400
def CH_SIG_CFG2_PWM_EVERY (i : Nat) : RF := ⟨CH_SIG_CFG2 i, 0, 8⟩
def CH_SIG_CFG2_MISS_N (i : Nat) : RF := ⟨CH_SIG_CFG2 i, 8, 6⟩

/-- CH_SIG_STAT (R139, 05_output_channels.md). -/
def CH_SIG_STAT (i : Nat) : Nat := 0x030000C4 + i * 0x400
def CH_SIG_STAT_ENV_STATE (i : Nat) : RF := ⟨CH_SIG_STAT i, 0, 2⟩
def CH_SIG_STAT_LEARNED (i : Nat) : RF := ⟨CH_SIG_STAT i, 2, 6⟩
def CH_SIG_STAT_LAST_CLASS (i : Nat) : RF := ⟨CH_SIG_STAT i, 8, 3⟩

/-- CH_ENV (R139, 05_output_channels.md). -/
def CH_ENV (i j : Nat) : Nat := 0x03000100 + i * 0x400 + j * 0x4
def CH_ENV_LO (i j : Nat) : RF := ⟨CH_ENV i j, 0, 12⟩
def CH_ENV_HI (i j : Nat) : RF := ⟨CH_ENV i j, 12, 12⟩

/-- CH_REF (R139, 05_output_channels.md). -/
def CH_REF (i j : Nat) : Nat := 0x03000180 + i * 0x400 + j * 0x4
def CH_REF_CENTRE (i j : Nat) : RF := ⟨CH_REF i j, 0, 12⟩

/-- CH_LAST (R139, 05_output_channels.md). -/
def CH_LAST (i j : Nat) : Nat := 0x03000200 + i * 0x400 + j * 0x4
def CH_LAST_MEAN (i j : Nat) : RF := ⟨CH_LAST i j, 0, 12⟩
def CH_LAST_VALID (i j : Nat) : RF := ⟨CH_LAST i j, 31, 1⟩

/-! Registers of spec/06_protection_ledger.md -/

/-- CH_VERDICT (R163, 06_protection_ledger.md). -/
def CH_VERDICT (i : Nat) : Nat := 0x05030100 + i * 0x4
def CH_VERDICT_VERDICT (i : Nat) : RF := ⟨CH_VERDICT i, 0, 4⟩
def CH_VERDICT_PREV (i : Nat) : RF := ⟨CH_VERDICT i, 4, 4⟩
def CH_VERDICT_OL_RUN (i : Nat) : RF := ⟨CH_VERDICT i, 8, 4⟩
def CH_VERDICT_SEQ (i : Nat) : RF := ⟨CH_VERDICT i, 16, 8⟩

/-- LDG_CFG (R183, 06_protection_ledger.md). -/
def LDG_CFG : Nat := 0x05040010
def LDG_CFG_PAUSE_MAX : RF := ⟨LDG_CFG, 0, 7⟩
def LDG_CFG_COLD_MARGIN : RF := ⟨LDG_CFG, 8, 6⟩
def LDG_CFG_LOGIC_P : RF := ⟨LDG_CFG, 16, 6⟩

/-- LDG_LIMIT (R183, 06_protection_ledger.md). -/
def LDG_LIMIT : Nat := 0x05040014
def LDG_LIMIT_FEED_LIMIT : RF := ⟨LDG_LIMIT, 0, 9⟩
def LDG_LIMIT_MOD_LIMIT : RF := ⟨LDG_LIMIT, 16, 9⟩
def LDG_LIMIT_LIMIT_T : RF := ⟨LDG_LIMIT, 25, 7⟩

/-- LDG_STAT (R183, 06_protection_ledger.md). -/
def LDG_STAT : Nat := 0x05040020
def LDG_STAT_RUNNING : RF := ⟨LDG_STAT, 0, 1⟩
def LDG_STAT_SEEDING : RF := ⟨LDG_STAT, 1, 1⟩
def LDG_STAT_STALE : RF := ⟨LDG_STAT, 17, 13⟩

/-- LDG_SUM (R183, 06_protection_ledger.md). -/
def LDG_SUM : Nat := 0x05040024
def LDG_SUM_FEED_I : RF := ⟨LDG_SUM, 0, 16⟩
def LDG_SUM_MOD_P : RF := ⟨LDG_SUM, 16, 16⟩

/-- LDG_FLAG (R183, 06_protection_ledger.md). -/
def LDG_FLAG : Nat := 0x05040028
def LDG_FLAG_FEED_OVER : RF := ⟨LDG_FLAG, 0, 1⟩
def LDG_FLAG_MOD_OVER : RF := ⟨LDG_FLAG, 1, 1⟩
def LDG_FLAG_STALE : RF := ⟨LDG_FLAG, 2, 1⟩
def LDG_FLAG_FUSE : RF := ⟨LDG_FLAG, 3, 1⟩
def LDG_FLAG_PAUSE_MAX : RF := ⟨LDG_FLAG, 4, 1⟩

/-- LDG_FLAG_CNT (R183, 06_protection_ledger.md). -/
def LDG_FLAG_CNT : Nat := 0x0504002C
def LDG_FLAG_CNT_COUNT : RF := ⟨LDG_FLAG_CNT, 0, 8⟩

/-! Registers of spec/07_motors_solenoids.md -/

/-- CH_B_CFG (R184, 07_motors_solenoids.md). -/
def CH_B_CFG (i : Nat) : Nat := 0x03000300 + i * 0x400
def CH_B_CFG_ROLE (i : Nat) : RF := ⟨CH_B_CFG i, 0, 2⟩
def CH_B_CFG_PARTNER (i : Nat) : RF := ⟨CH_B_CFG i, 4, 7⟩
def CH_B_CFG_DECAY (i : Nat) : RF := ⟨CH_B_CFG i, 11, 1⟩
def CH_B_CFG_DEAD (i : Nat) : RF := ⟨CH_B_CFG i, 12, 4⟩
def CH_B_CFG_CARRIER (i : Nat) : RF := ⟨CH_B_CFG i, 16, 8⟩
def CH_B_CFG_BSLEW (i : Nat) : RF := ⟨CH_B_CFG i, 24, 4⟩

/-- CH_B_DRV (R186, 07_motors_solenoids.md). -/
def CH_B_DRV (i : Nat) : Nat := 0x03000304 + i * 0x400
def CH_B_DRV_DIR (i : Nat) : RF := ⟨CH_B_DRV i, 0, 1⟩
def CH_B_DRV_STOP (i : Nat) : RF := ⟨CH_B_DRV i, 1, 2⟩
def CH_B_DRV_BRAKE_T (i : Nat) : RF := ⟨CH_B_DRV i, 8, 8⟩
def CH_B_DRV_REV_T (i : Nat) : RF := ⟨CH_B_DRV i, 16, 8⟩

/-- CH_STREAM (R195, 07_motors_solenoids.md). -/
def CH_STREAM (i : Nat) : Nat := 0x03000320 + i * 0x400
def CH_STREAM_EN (i : Nat) : RF := ⟨CH_STREAM i, 0, 1⟩
def CH_STREAM_CUE_N (i : Nat) : RF := ⟨CH_STREAM i, 1, 7⟩
def CH_STREAM_RD (i : Nat) : RF := ⟨CH_STREAM i, 8, 6⟩
def CH_STREAM_WR (i : Nat) : RF := ⟨CH_STREAM i, 16, 6⟩

/-- CH_STREAM_SEQ (R195, 07_motors_solenoids.md). -/
def CH_STREAM_SEQ (i : Nat) : Nat := 0x03000324 + i * 0x400
def CH_STREAM_SEQ_SEQ (i : Nat) : RF := ⟨CH_STREAM_SEQ i, 0, 16⟩

/-- CH_B_STALL (R196, 07_motors_solenoids.md). -/
def CH_B_STALL (i : Nat) : Nat := 0x03000308 + i * 0x400
def CH_B_STALL_ISTALL (i : Nat) : RF := ⟨CH_B_STALL i, 0, 12⟩
def CH_B_STALL_TSTALL (i : Nat) : RF := ⟨CH_B_STALL i, 12, 8⟩
def CH_B_STALL_STALL_ACT (i : Nat) : RF := ⟨CH_B_STALL i, 20, 2⟩

/-- CH_B_STAT (R197, 07_motors_solenoids.md). -/
def CH_B_STAT (i : Nat) : Nat := 0x0300030C + i * 0x400
def CH_B_STAT_STALL_NOW (i : Nat) : RF := ⟨CH_B_STAT i, 0, 1⟩
def CH_B_STAT_BRAKING (i : Nat) : RF := ⟨CH_B_STAT i, 1, 1⟩
def CH_B_STAT_REV_WAIT (i : Nat) : RF := ⟨CH_B_STAT i, 2, 1⟩
def CH_B_STAT_CHOPPING (i : Nat) : RF := ⟨CH_B_STAT i, 3, 1⟩
def CH_B_STAT_OVL (i : Nat) : RF := ⟨CH_B_STAT i, 8, 8⟩

/-- CH_B_FLAG (R197, 07_motors_solenoids.md). -/
def CH_B_FLAG (i : Nat) : Nat := 0x03000310 + i * 0x400
def CH_B_FLAG_STALL (i : Nat) : RF := ⟨CH_B_FLAG i, 0, 1⟩
def CH_B_FLAG_OVERLOAD (i : Nat) : RF := ⟨CH_B_FLAG i, 1, 1⟩
def CH_B_FLAG_STREAM_OVF (i : Nat) : RF := ⟨CH_B_FLAG i, 2, 1⟩

/-- CH_B_FLAG_CNT (R197, 07_motors_solenoids.md). -/
def CH_B_FLAG_CNT (i : Nat) : Nat := 0x03000314 + i * 0x400
def CH_B_FLAG_CNT_COUNT (i : Nat) : RF := ⟨CH_B_FLAG_CNT i, 0, 8⟩

/-- MOT_ACTIVE (R197, 07_motors_solenoids.md). -/
def MOT_ACTIVE : Nat := 0x05050010
def MOT_ACTIVE_ACTIVE : RF := ⟨MOT_ACTIVE, 0, 12⟩

/-- SOL_BST_CFG (R199, 07_motors_solenoids.md). -/
def SOL_BST_CFG : Nat := 0x05060010
def SOL_BST_CFG_VBST_SET : RF := ⟨SOL_BST_CFG, 0, 8⟩
def SOL_BST_CFG_V_FLOOR : RF := ⟨SOL_BST_CFG, 8, 8⟩
def SOL_BST_CFG_BST_C : RF := ⟨SOL_BST_CFG, 16, 12⟩

/-- SOL_BST_E (R199, 07_motors_solenoids.md). -/
def SOL_BST_E : Nat := 0x05060014
def SOL_BST_E_E_MARGIN : RF := ⟨SOL_BST_E, 0, 16⟩

/-- SOL_BST_STAT (R199, 07_motors_solenoids.md). -/
def SOL_BST_STAT : Nat := 0x05060020
def SOL_BST_STAT_V_BST : RF := ⟨SOL_BST_STAT, 0, 10⟩
def SOL_BST_STAT_CHARGING : RF := ⟨SOL_BST_STAT, 10, 1⟩
def SOL_BST_STAT_READY : RF := ⟨SOL_BST_STAT, 11, 1⟩
def SOL_BST_STAT_PAUSED : RF := ⟨SOL_BST_STAT, 12, 1⟩
def SOL_BST_STAT_E_FREE : RF := ⟨SOL_BST_STAT, 16, 16⟩

/-- SOL_GRP_STAT (R209, 07_motors_solenoids.md). -/
def SOL_GRP_STAT : Nat := 0x05060024
def SOL_GRP_STAT_GROUP0 : RF := ⟨SOL_GRP_STAT, 0, 2⟩
def SOL_GRP_STAT_GROUP1 : RF := ⟨SOL_GRP_STAT, 2, 2⟩
def SOL_GRP_STAT_GROUP2 : RF := ⟨SOL_GRP_STAT, 4, 2⟩
def SOL_GRP_STAT_GROUP3 : RF := ⟨SOL_GRP_STAT, 6, 2⟩

/-- SOL_FLAG (R209, 07_motors_solenoids.md). -/
def SOL_FLAG : Nat := 0x05060028
def SOL_FLAG_BST_UV : RF := ⟨SOL_FLAG, 0, 1⟩
def SOL_FLAG_BST_OV : RF := ⟨SOL_FLAG, 1, 1⟩
def SOL_FLAG_BST_FAIL : RF := ⟨SOL_FLAG, 2, 1⟩
def SOL_FLAG_SH_TRIP : RF := ⟨SOL_FLAG, 4, 4⟩

/-- SOL_FLAG_CNT (R209, 07_motors_solenoids.md). -/
def SOL_FLAG_CNT : Nat := 0x0506002C
def SOL_FLAG_CNT_COUNT : RF := ⟨SOL_FLAG_CNT, 0, 8⟩

/-- CH_S_CFG (R209, 07_motors_solenoids.md). -/
def CH_S_CFG (i : Nat) : Nat := 0x03000300 + i * 0x400
def CH_S_CFG_IPEAK (i : Nat) : RF := ⟨CH_S_CFG i, 0, 12⟩
def CH_S_CFG_IHOLD (i : Nat) : RF := ⟨CH_S_CFG i, 12, 12⟩

/-- CH_S_TIME (R209, 07_motors_solenoids.md). -/
def CH_S_TIME (i : Nat) : Nat := 0x03000304 + i * 0x400
def CH_S_TIME_TPEAK (i : Nat) : RF := ⟨CH_S_TIME i, 0, 8⟩
def CH_S_TIME_TRISE_MAX (i : Nat) : RF := ⟨CH_S_TIME i, 8, 8⟩
def CH_S_TIME_T_DEFER (i : Nat) : RF := ⟨CH_S_TIME i, 16, 8⟩

/-- CH_S_BUDGET (R209, 07_motors_solenoids.md). -/
def CH_S_BUDGET (i : Nat) : Nat := 0x03000308 + i * 0x400
def CH_S_BUDGET_LIMIT (i : Nat) : RF := ⟨CH_S_BUDGET i, 0, 7⟩
def CH_S_BUDGET_WIN (i : Nat) : RF := ⟨CH_S_BUDGET i, 8, 6⟩
def CH_S_BUDGET_E_RISE (i : Nat) : RF := ⟨CH_S_BUDGET i, 16, 16⟩

/-- CH_S_STAT (R209, 07_motors_solenoids.md). -/
def CH_S_STAT (i : Nat) : Nat := 0x0300030C + i * 0x400
def CH_S_STAT_SPHASE (i : Nat) : RF := ⟨CH_S_STAT i, 0, 3⟩
def CH_S_STAT_DUTY_USED (i : Nat) : RF := ⟨CH_S_STAT i, 4, 7⟩
def CH_S_STAT_E_DRAWN (i : Nat) : RF := ⟨CH_S_STAT i, 16, 16⟩

/-- CH_S_FLAG (R209, 07_motors_solenoids.md). -/
def CH_S_FLAG (i : Nat) : Nat := 0x03000310 + i * 0x400
def CH_S_FLAG_OVERLAP_DEFERRED (i : Nat) : RF := ⟨CH_S_FLAG i, 0, 1⟩
def CH_S_FLAG_OVERLAP_REFUSED (i : Nat) : RF := ⟨CH_S_FLAG i, 1, 1⟩
def CH_S_FLAG_DUTY_TRUNC (i : Nat) : RF := ⟨CH_S_FLAG i, 2, 1⟩
def CH_S_FLAG_RISE_TIMEOUT (i : Nat) : RF := ⟨CH_S_FLAG i, 3, 1⟩
def CH_S_FLAG_CHOP_SHORT (i : Nat) : RF := ⟨CH_S_FLAG i, 4, 1⟩
def CH_S_FLAG_SH_TRIP (i : Nat) : RF := ⟨CH_S_FLAG i, 5, 1⟩
def CH_S_FLAG_LOW_REFUSED (i : Nat) : RF := ⟨CH_S_FLAG i, 6, 1⟩

/-- CH_S_FLAG_CNT (R209, 07_motors_solenoids.md). -/
def CH_S_FLAG_CNT (i : Nat) : Nat := 0x03000314 + i * 0x400
def CH_S_FLAG_CNT_COUNT (i : Nat) : RF := ⟨CH_S_FLAG_CNT i, 0, 8⟩

/-! Registers of spec/08_hold_failsafe_limphome.md -/

/-- SYS_LINK_ERR (R519, 08_hold_failsafe_limphome.md). -/
def SYS_LINK_ERR (i : Nat) : Nat := 0x052D0100 + i * 0x4
def SYS_LINK_ERR_LG_RX (i : Nat) : RF := ⟨SYS_LINK_ERR i, 0, 16⟩
def SYS_LINK_ERR_DIE_RX (i : Nat) : RF := ⟨SYS_LINK_ERR i, 16, 16⟩

/-- STR_HOLD_WIN (R231, 08_hold_failsafe_limphome.md). -/
def STR_HOLD_WIN (i : Nat) : Nat := 0x06000800 + i * 0x4
def STR_HOLD_WIN_WIN_MS (i : Nat) : RF := ⟨STR_HOLD_WIN i, 0, 9⟩

/-- STR_KA_CTL (R231, 08_hold_failsafe_limphome.md). -/
def STR_KA_CTL : Nat := 0x06000840
def STR_KA_CTL_KA_EN : RF := ⟨STR_KA_CTL, 1, 13⟩

/-- STR_LIMP_ARM (R231, 08_hold_failsafe_limphome.md). -/
def STR_LIMP_ARM : Nat := 0x06000844
def STR_LIMP_ARM_ARM : RF := ⟨STR_LIMP_ARM, 1, 10⟩

/-- STR_FS_APPLY (R231, 08_hold_failsafe_limphome.md). -/
def STR_FS_APPLY : Nat := 0x06000848
def STR_FS_APPLY_LINK : RF := ⟨STR_FS_APPLY, 1, 13⟩

/-- STR_FS_RELEASE (R231, 08_hold_failsafe_limphome.md). -/
def STR_FS_RELEASE : Nat := 0x0600084C
def STR_FS_RELEASE_LINK : RF := ⟨STR_FS_RELEASE, 1, 13⟩

/-- STR_DIE_STATE (R231, 08_hold_failsafe_limphome.md). -/
def STR_DIE_STATE : Nat := 0x06000850
def STR_DIE_STATE_DIE1 : RF := ⟨STR_DIE_STATE, 2, 2⟩
def STR_DIE_STATE_DIE2 : RF := ⟨STR_DIE_STATE, 4, 2⟩
def STR_DIE_STATE_DIE3 : RF := ⟨STR_DIE_STATE, 6, 2⟩
def STR_DIE_STATE_DIE4 : RF := ⟨STR_DIE_STATE, 8, 2⟩
def STR_DIE_STATE_DIE5 : RF := ⟨STR_DIE_STATE, 10, 2⟩
def STR_DIE_STATE_DIE6 : RF := ⟨STR_DIE_STATE, 12, 2⟩
def STR_DIE_STATE_DIE7 : RF := ⟨STR_DIE_STATE, 14, 2⟩
def STR_DIE_STATE_DIE8 : RF := ⟨STR_DIE_STATE, 16, 2⟩
def STR_DIE_STATE_DIE9 : RF := ⟨STR_DIE_STATE, 18, 2⟩
def STR_DIE_STATE_DIE10 : RF := ⟨STR_DIE_STATE, 20, 2⟩
def STR_DIE_STATE_DIE11 : RF := ⟨STR_DIE_STATE, 22, 2⟩
def STR_DIE_STATE_DIE12 : RF := ⟨STR_DIE_STATE, 24, 2⟩
def STR_DIE_STATE_DIE13 : RF := ⟨STR_DIE_STATE, 26, 2⟩

/-- STR_LIMP_STAT (R231, 08_hold_failsafe_limphome.md). -/
def STR_LIMP_STAT : Nat := 0x06000854
def STR_LIMP_STAT_LIMP : RF := ⟨STR_LIMP_STAT, 0, 8⟩
def STR_LIMP_STAT_LIMP_EN : RF := ⟨STR_LIMP_STAT, 8, 1⟩
def STR_LIMP_STAT_IN_FORCE : RF := ⟨STR_LIMP_STAT, 11, 10⟩

/-- STR_PIN_CTL (R231, 08_hold_failsafe_limphome.md). -/
def STR_PIN_CTL : Nat := 0x06000858
def STR_PIN_CTL_ERR : RF := ⟨STR_PIN_CTL, 0, 1⟩
def STR_PIN_CTL_SAFE : RF := ⟨STR_PIN_CTL, 1, 1⟩

/-- STR_FS_FLAG (R231, 08_hold_failsafe_limphome.md). -/
def STR_FS_FLAG : Nat := 0x0600085C
def STR_FS_FLAG_HOLD_SEEN : RF := ⟨STR_FS_FLAG, 0, 1⟩
def STR_FS_FLAG_WINDOW_EXPIRED : RF := ⟨STR_FS_FLAG, 1, 1⟩
def STR_FS_FLAG_FS_APPLIED : RF := ⟨STR_FS_FLAG, 2, 1⟩
def STR_FS_FLAG_LIMP_USED : RF := ⟨STR_FS_FLAG, 3, 1⟩
def STR_FS_FLAG_LINK_LOST : RF := ⟨STR_FS_FLAG, 4, 1⟩
def STR_FS_FLAG_LAST_LINK : RF := ⟨STR_FS_FLAG, 8, 4⟩

/-- STR_FS_FLAG_CNT (R231, 08_hold_failsafe_limphome.md). -/
def STR_FS_FLAG_CNT : Nat := 0x06000860
def STR_FS_FLAG_CNT_COUNT : RF := ⟨STR_FS_FLAG_CNT, 0, 8⟩

/-- STR_FS_TABLE (R231, 08_hold_failsafe_limphome.md). -/
def STR_FS_TABLE (i : Nat) : Nat := 0x06000C00 + i * 0x4
def STR_FS_TABLE_DUTY (i : Nat) : RF := ⟨STR_FS_TABLE i, 0, 11⟩
def STR_FS_TABLE_ACTION (i : Nat) : RF := ⟨STR_FS_TABLE i, 12, 3⟩
def STR_FS_TABLE_LIGHT (i : Nat) : RF := ⟨STR_FS_TABLE i, 15, 1⟩
def STR_FS_TABLE_LIMP_SEL (i : Nat) : RF := ⟨STR_FS_TABLE i, 16, 3⟩
def STR_FS_TABLE_PHASE (i : Nat) : RF := ⟨STR_FS_TABLE i, 20, 10⟩

/-! Registers of spec/09_cue_engines.md -/

/-- CUE_CREW_CFG (R272, 09_cue_engines.md). -/
def CUE_CREW_CFG (i : Nat) : Nat := 0x02000004 + i * 0x100000
def CUE_CREW_CFG_PIPE (i : Nat) : RF := ⟨CUE_CREW_CFG i, 0, 1⟩
def CUE_CREW_CFG_GATE (i : Nat) : RF := ⟨CUE_CREW_CFG i, 1, 1⟩
def CUE_CREW_CFG_HB_MASK (i : Nat) : RF := ⟨CUE_CREW_CFG i, 8, 8⟩
def CUE_CREW_CFG_SUP (i : Nat) : RF := ⟨CUE_CREW_CFG i, 16, 8⟩
def CUE_CREW_CFG_USED (i : Nat) : RF := ⟨CUE_CREW_CFG i, 24, 8⟩

/-- CUE_HB_STAT (R272, 09_cue_engines.md). -/
def CUE_HB_STAT (i : Nat) : Nat := 0x0200000C + i * 0x100000
def CUE_HB_STAT_BEATEN (i : Nat) : RF := ⟨CUE_HB_STAT i, 0, 8⟩
def CUE_HB_STAT_BEATS (i : Nat) : RF := ⟨CUE_HB_STAT i, 16, 16⟩

/-- CUE_EXEC_CNT (R272, 09_cue_engines.md). -/
def CUE_EXEC_CNT : Nat := 0x05070010
def CUE_EXEC_CNT_EMITTED : RF := ⟨CUE_EXEC_CNT, 0, 16⟩
def CUE_EXEC_CNT_REJECTED : RF := ⟨CUE_EXEC_CNT, 16, 16⟩

/-! Registers of spec/10_slate_dailies_frames.md -/

/-- FRM_GPTP_OFS_LO (R292, 10_slate_dailies_frames.md). -/
def FRM_GPTP_OFS_LO : Nat := 0x05080018
def FRM_GPTP_OFS_LO_LO : RF := ⟨FRM_GPTP_OFS_LO, 0, 32⟩

/-- FRM_GPTP_OFS_HI (R292, 10_slate_dailies_frames.md). -/
def FRM_GPTP_OFS_HI : Nat := 0x0508001C
def FRM_GPTP_OFS_HI_HI : RF := ⟨FRM_GPTP_OFS_HI, 0, 32⟩

/-- FRM_GPTP_STAT (R292, 10_slate_dailies_frames.md). -/
def FRM_GPTP_STAT : Nat := 0x05080020
def FRM_GPTP_STAT_STATE : RF := ⟨FRM_GPTP_STAT, 0, 2⟩
def FRM_GPTP_STAT_ERR_NS : RF := ⟨FRM_GPTP_STAT, 16, 16⟩

/-- FRM_CFG (R292, 10_slate_dailies_frames.md). -/
def FRM_CFG : Nat := 0x05080030
def FRM_CFG_PERIOD_US : RF := ⟨FRM_CFG, 0, 15⟩
def FRM_CFG_FSYNC_EN : RF := ⟨FRM_CFG, 16, 1⟩
def FRM_CFG_FSYNC_POL : RF := ⟨FRM_CFG, 17, 1⟩
def FRM_CFG_FSYNC_DIV : RF := ⟨FRM_CFG, 20, 4⟩

/-- FRM_FSYNC_OFS (R292, 10_slate_dailies_frames.md). -/
def FRM_FSYNC_OFS : Nat := 0x05080034
def FRM_FSYNC_OFS_OFS_US : RF := ⟨FRM_FSYNC_OFS, 0, 16⟩

/-- FRM_LOCK (R292, 10_slate_dailies_frames.md). -/
def FRM_LOCK : Nat := 0x05080038
def FRM_LOCK_STATE : RF := ⟨FRM_LOCK, 0, 2⟩
def FRM_LOCK_SLIPS : RF := ⟨FRM_LOCK, 2, 4⟩
def FRM_LOCK_ERR_US : RF := ⟨FRM_LOCK, 16, 16⟩

/-- FRM_FLAG (R292, 10_slate_dailies_frames.md). -/
def FRM_FLAG : Nat := 0x0508003C
def FRM_FLAG_SLIP : RF := ⟨FRM_FLAG, 0, 1⟩
def FRM_FLAG_LOCK_LOST : RF := ⟨FRM_FLAG, 1, 1⟩
def FRM_FLAG_FSYNC_MISSING : RF := ⟨FRM_FLAG, 2, 1⟩
def FRM_FLAG_TIMEBASE_STEP : RF := ⟨FRM_FLAG, 3, 1⟩
def FRM_FLAG_GPTP_LOST : RF := ⟨FRM_FLAG, 4, 1⟩

/-- FRM_FLAG_CNT (R292, 10_slate_dailies_frames.md). -/
def FRM_FLAG_CNT : Nat := 0x05080040
def FRM_FLAG_CNT_COUNT : RF := ⟨FRM_FLAG_CNT, 0, 8⟩

/-- FRM_SLIP_CNT (R292, 10_slate_dailies_frames.md). -/
def FRM_SLIP_CNT : Nat := 0x05080044
def FRM_SLIP_CNT_COUNT : RF := ⟨FRM_SLIP_CNT, 0, 32⟩

/-- FRM_FSYNC_LAST_LO (R292, 10_slate_dailies_frames.md). -/
def FRM_FSYNC_LAST_LO : Nat := 0x05080048
def FRM_FSYNC_LAST_LO_LO : RF := ⟨FRM_FSYNC_LAST_LO, 0, 32⟩

/-- FRM_FSYNC_LAST_HI (R292, 10_slate_dailies_frames.md). -/
def FRM_FSYNC_LAST_HI : Nat := 0x0508004C
def FRM_FSYNC_LAST_HI_HI : RF := ⟨FRM_FSYNC_LAST_HI, 0, 32⟩

/-- FRM_FSYNC_INT (R292, 10_slate_dailies_frames.md). -/
def FRM_FSYNC_INT : Nat := 0x05080050
def FRM_FSYNC_INT_INT : RF := ⟨FRM_FSYNC_INT, 0, 32⟩

/-- DLY_WR (R292, 10_slate_dailies_frames.md). -/
def DLY_WR : Nat := 0x08000010
def DLY_WR_INDEX : RF := ⟨DLY_WR, 0, 13⟩
def DLY_WR_WRAPS : RF := ⟨DLY_WR, 13, 19⟩

/-- DLY_ARCH_CTL (R292, 10_slate_dailies_frames.md). -/
def DLY_ARCH_CTL : Nat := 0x08000014
def DLY_ARCH_CTL_REQUEST : RF := ⟨DLY_ARCH_CTL, 0, 1⟩
def DLY_ARCH_CTL_BUSY : RF := ⟨DLY_ARCH_CTL, 1, 1⟩

/-- DLY_ARCH_STAT (R292, 10_slate_dailies_frames.md). -/
def DLY_ARCH_STAT : Nat := 0x08000018
def DLY_ARCH_STAT_ARCH_WR : RF := ⟨DLY_ARCH_STAT, 0, 16⟩
def DLY_ARCH_STAT_PENDING : RF := ⟨DLY_ARCH_STAT, 16, 14⟩

/-- DLY_ARCH_PAGE (R292, 10_slate_dailies_frames.md). -/
def DLY_ARCH_PAGE : Nat := 0x0800001C
def DLY_ARCH_PAGE_PAGE : RF := ⟨DLY_ARCH_PAGE, 0, 9⟩

/-- DLY_BOOT (R292, 10_slate_dailies_frames.md). -/
def DLY_BOOT : Nat := 0x08000020
def DLY_BOOT_BOOT : RF := ⟨DLY_BOOT, 0, 32⟩

/-- DLY_LOST (R292, 10_slate_dailies_frames.md). -/
def DLY_LOST : Nat := 0x08000024
def DLY_LOST_COUNT : RF := ⟨DLY_LOST, 0, 16⟩
def DLY_LOST_LAST_ISLAND : RF := ⟨DLY_LOST, 16, 5⟩

/-- DLY_FLAG (R292, 10_slate_dailies_frames.md). -/
def DLY_FLAG : Nat := 0x08000028
def DLY_FLAG_LOST : RF := ⟨DLY_FLAG, 0, 1⟩
def DLY_FLAG_FLUSH_TRUNC : RF := ⟨DLY_FLAG, 1, 1⟩
def DLY_FLAG_ARCH_ERR : RF := ⟨DLY_FLAG, 2, 1⟩
def DLY_FLAG_UNARCHIVED : RF := ⟨DLY_FLAG, 3, 1⟩

/-- DLY_FLAG_CNT (R292, 10_slate_dailies_frames.md). -/
def DLY_FLAG_CNT : Nat := 0x0800002C
def DLY_FLAG_CNT_COUNT : RF := ⟨DLY_FLAG_CNT, 0, 8⟩

/-- DLY_OVERRUN (R292, 10_slate_dailies_frames.md). -/
def DLY_OVERRUN : Nat := 0x08000030
def DLY_OVERRUN_COUNT : RF := ⟨DLY_OVERRUN, 0, 16⟩

/-! Registers of spec/11_can_lin.md -/

/-- CAN_NBT (R298, 11_can_lin.md). -/
def CAN_NBT (i : Nat) : Nat := 0x05100014 + i * 0x10000
def CAN_NBT_NBRP (i : Nat) : RF := ⟨CAN_NBT i, 0, 5⟩
def CAN_NBT_NTSEG1 (i : Nat) : RF := ⟨CAN_NBT i, 5, 8⟩
def CAN_NBT_NTSEG2 (i : Nat) : RF := ⟨CAN_NBT i, 13, 7⟩
def CAN_NBT_NSJW (i : Nat) : RF := ⟨CAN_NBT i, 20, 7⟩

/-- CAN_DBT (R298, 11_can_lin.md). -/
def CAN_DBT (i : Nat) : Nat := 0x05100018 + i * 0x10000
def CAN_DBT_DBRP (i : Nat) : RF := ⟨CAN_DBT i, 0, 5⟩
def CAN_DBT_DTSEG1 (i : Nat) : RF := ⟨CAN_DBT i, 5, 5⟩
def CAN_DBT_DTSEG2 (i : Nat) : RF := ⟨CAN_DBT i, 10, 4⟩
def CAN_DBT_DSJW (i : Nat) : RF := ⟨CAN_DBT i, 14, 4⟩
def CAN_DBT_TDC_EN (i : Nat) : RF := ⟨CAN_DBT i, 18, 1⟩
def CAN_DBT_TDCO (i : Nat) : RF := ⟨CAN_DBT i, 19, 7⟩

/-- CAN_CFG (R328, 11_can_lin.md). -/
def CAN_CFG (i : Nat) : Nat := 0x05100010 + i * 0x10000
def CAN_CFG_FD_EN (i : Nat) : RF := ⟨CAN_CFG i, 0, 1⟩
def CAN_CFG_AUTO_REC (i : Nat) : RF := ⟨CAN_CFG i, 1, 1⟩
def CAN_CFG_HOLDOFF (i : Nat) : RF := ⟨CAN_CFG i, 2, 10⟩
def CAN_CFG_TWIN_N (i : Nat) : RF := ⟨CAN_CFG i, 12, 4⟩
def CAN_CFG_TWIN_BACKOFF (i : Nat) : RF := ⟨CAN_CFG i, 16, 10⟩
def CAN_CFG_TWIN_GIVEUP (i : Nat) : RF := ⟨CAN_CFG i, 26, 4⟩

/-- CAN_CTL (R328, 11_can_lin.md). -/
def CAN_CTL (i : Nat) : Nat := 0x0510001C + i * 0x10000
def CAN_CTL_MODE (i : Nat) : RF := ⟨CAN_CTL i, 0, 2⟩
def CAN_CTL_RECOVER (i : Nat) : RF := ⟨CAN_CTL i, 2, 1⟩

/-- CAN_STAT (R328, 11_can_lin.md). -/
def CAN_STAT (i : Nat) : Nat := 0x05100020 + i * 0x10000
def CAN_STAT_TEC (i : Nat) : RF := ⟨CAN_STAT i, 0, 9⟩
def CAN_STAT_REC (i : Nat) : RF := ⟨CAN_STAT i, 9, 8⟩
def CAN_STAT_ESTATE (i : Nat) : RF := ⟨CAN_STAT i, 17, 2⟩
def CAN_STAT_RECOVERING (i : Nat) : RF := ⟨CAN_STAT i, 19, 1⟩
def CAN_STAT_HOLDING (i : Nat) : RF := ⟨CAN_STAT i, 20, 1⟩
def CAN_STAT_SEQS (i : Nat) : RF := ⟨CAN_STAT i, 24, 8⟩

/-- CAN_ERR (R328, 11_can_lin.md). -/
def CAN_ERR (i : Nat) : Nat := 0x05100024 + i * 0x10000
def CAN_ERR_LEC (i : Nat) : RF := ⟨CAN_ERR i, 0, 3⟩
def CAN_ERR_DATA_PHASE (i : Nat) : RF := ⟨CAN_ERR i, 3, 1⟩
def CAN_ERR_FIELD (i : Nat) : RF := ⟨CAN_ERR i, 4, 3⟩
def CAN_ERR_COUNT (i : Nat) : RF := ⟨CAN_ERR i, 16, 16⟩

/-- CAN_FLAG (R328, 11_can_lin.md). -/
def CAN_FLAG (i : Nat) : Nat := 0x05100028 + i * 0x10000
def CAN_FLAG_EPASSIVE (i : Nat) : RF := ⟨CAN_FLAG i, 0, 1⟩
def CAN_FLAG_BUSOFF (i : Nat) : RF := ⟨CAN_FLAG i, 1, 1⟩
def CAN_FLAG_TWIN (i : Nat) : RF := ⟨CAN_FLAG i, 2, 1⟩
def CAN_FLAG_RECOVERED (i : Nat) : RF := ⟨CAN_FLAG i, 3, 1⟩
def CAN_FLAG_REROUTED (i : Nat) : RF := ⟨CAN_FLAG i, 4, 1⟩
def CAN_FLAG_RX_OVF (i : Nat) : RF := ⟨CAN_FLAG i, 5, 1⟩
def CAN_FLAG_TDC_FAIL (i : Nat) : RF := ⟨CAN_FLAG i, 6, 1⟩
def CAN_FLAG_DOM_TIMEOUT (i : Nat) : RF := ⟨CAN_FLAG i, 7, 1⟩
def CAN_FLAG_WAKE_AT_SLEEP (i : Nat) : RF := ⟨CAN_FLAG i, 8, 1⟩

/-- CAN_FLAG_CNT (R328, 11_can_lin.md). -/
def CAN_FLAG_CNT (i : Nat) : Nat := 0x0510002C + i * 0x10000
def CAN_FLAG_CNT_COUNT (i : Nat) : RF := ⟨CAN_FLAG_CNT i, 0, 8⟩

/-- CAN_TRX_CFG (R328, 11_can_lin.md). -/
def CAN_TRX_CFG (i : Nat) : Nat := 0x05100080 + i * 0x10000
def CAN_TRX_CFG_INH (i : Nat) : RF := ⟨CAN_TRX_CFG i, 0, 2⟩
def CAN_TRX_CFG_SW_EN (i : Nat) : RF := ⟨CAN_TRX_CFG i, 2, 1⟩
def CAN_TRX_CFG_SW_RATE (i : Nat) : RF := ⟨CAN_TRX_CFG i, 3, 2⟩
def CAN_TRX_CFG_WUF_DLC (i : Nat) : RF := ⟨CAN_TRX_CFG i, 5, 4⟩
def CAN_TRX_CFG_DATA_EN (i : Nat) : RF := ⟨CAN_TRX_CFG i, 9, 1⟩

/-- LIN_CFG0 (R328, 11_can_lin.md). -/
def LIN_CFG0 (i : Nat) : Nat := 0x05180010 + i * 0x10000
def LIN_CFG0_ROLE (i : Nat) : RF := ⟨LIN_CFG0 i, 0, 1⟩
def LIN_CFG0_SLOPE (i : Nat) : RF := ⟨LIN_CFG0 i, 1, 1⟩
def LIN_CFG0_DIV (i : Nat) : RF := ⟨LIN_CFG0 i, 2, 16⟩
def LIN_CFG0_RESP_ERR (i : Nat) : RF := ⟨LIN_CFG0 i, 18, 1⟩
def LIN_CFG0_RESP_ERR_BUF (i : Nat) : RF := ⟨LIN_CFG0 i, 19, 6⟩
def LIN_CFG0_RESP_ERR_BIT (i : Nat) : RF := ⟨LIN_CFG0 i, 25, 3⟩
def LIN_CFG0_INH (i : Nat) : RF := ⟨LIN_CFG0 i, 28, 2⟩

/-- LIN_CFG1 (R328, 11_can_lin.md). -/
def LIN_CFG1 (i : Nat) : Nat := 0x05180014 + i * 0x10000
def LIN_CFG1_CTL_ENGINE (i : Nat) : RF := ⟨LIN_CFG1 i, 0, 8⟩
def LIN_CFG1_ZRT_GRANT (i : Nat) : RF := ⟨LIN_CFG1 i, 8, 8⟩

/-- LIN_CTL (R328, 11_can_lin.md). -/
def LIN_CTL (i : Nat) : Nat := 0x05180018 + i * 0x10000
def LIN_CTL_SCHED (i : Nat) : RF := ⟨LIN_CTL i, 0, 2⟩
def LIN_CTL_RUN (i : Nat) : RF := ⟨LIN_CTL i, 2, 1⟩
def LIN_CTL_GOTO_SLEEP (i : Nat) : RF := ⟨LIN_CTL i, 3, 1⟩
def LIN_CTL_SEND_WAKE (i : Nat) : RF := ⟨LIN_CTL i, 4, 1⟩
def LIN_CTL_TRX_REQ (i : Nat) : RF := ⟨LIN_CTL i, 5, 2⟩

/-- LIN_STAT (R328, 11_can_lin.md). -/
def LIN_STAT (i : Nat) : Nat := 0x0518001C + i * 0x10000
def LIN_STAT_SCHED_ACTIVE (i : Nat) : RF := ⟨LIN_STAT i, 0, 2⟩
def LIN_STAT_SLOT (i : Nat) : RF := ⟨LIN_STAT i, 2, 6⟩
def LIN_STAT_TRX_STATE (i : Nat) : RF := ⟨LIN_STAT i, 8, 3⟩
def LIN_STAT_WAKE (i : Nat) : RF := ⟨LIN_STAT i, 11, 1⟩

/-- LIN_FLAG (R328, 11_can_lin.md). -/
def LIN_FLAG (i : Nat) : Nat := 0x05180020 + i * 0x10000
def LIN_FLAG_CHECKSUM (i : Nat) : RF := ⟨LIN_FLAG i, 0, 1⟩
def LIN_FLAG_NO_RESPONSE (i : Nat) : RF := ⟨LIN_FLAG i, 1, 1⟩
def LIN_FLAG_BIT_ERR (i : Nat) : RF := ⟨LIN_FLAG i, 2, 1⟩
def LIN_FLAG_FRAMING (i : Nat) : RF := ⟨LIN_FLAG i, 3, 1⟩
def LIN_FLAG_PARITY (i : Nat) : RF := ⟨LIN_FLAG i, 4, 1⟩
def LIN_FLAG_SYNC (i : Nat) : RF := ⟨LIN_FLAG i, 5, 1⟩
def LIN_FLAG_COLLISION (i : Nat) : RF := ⟨LIN_FLAG i, 6, 1⟩
def LIN_FLAG_DOM_TIMEOUT (i : Nat) : RF := ⟨LIN_FLAG i, 7, 1⟩
def LIN_FLAG_GOTO_SLEEP_RX (i : Nat) : RF := ⟨LIN_FLAG i, 8, 1⟩
def LIN_FLAG_WAKE_FAIL (i : Nat) : RF := ⟨LIN_FLAG i, 9, 1⟩
def LIN_FLAG_WAKE_AT_SLEEP (i : Nat) : RF := ⟨LIN_FLAG i, 10, 1⟩

/-- LIN_FLAG_CNT (R328, 11_can_lin.md). -/
def LIN_FLAG_CNT (i : Nat) : Nat := 0x05180024 + i * 0x10000
def LIN_FLAG_CNT_COUNT (i : Nat) : RF := ⟨LIN_FLAG_CNT i, 0, 8⟩

/-- LIN_REFUSE (R328, 11_can_lin.md). -/
def LIN_REFUSE (i : Nat) : Nat := 0x05180028 + i * 0x10000
def LIN_REFUSE_COUNT (i : Nat) : RF := ⟨LIN_REFUSE i, 0, 16⟩
def LIN_REFUSE_LAST_INIT (i : Nat) : RF := ⟨LIN_REFUSE i, 16, 8⟩

/-! Registers of spec/12_gateway_ethernet_zrt.md -/

/-- GW_FLAG (R371, 12_gateway_ethernet_zrt.md). -/
def GW_FLAG : Nat := 0x05210030
def GW_FLAG_RX_TWIN : RF := ⟨GW_FLAG, 0, 1⟩
def GW_FLAG_TIMEOUT : RF := ⟨GW_FLAG, 1, 1⟩
def GW_FLAG_EXEC_REFUSED : RF := ⟨GW_FLAG, 2, 1⟩
def GW_FLAG_BUF_RECLAIM : RF := ⟨GW_FLAG, 3, 1⟩
def GW_FLAG_STAGE_FULL : RF := ⟨GW_FLAG, 4, 1⟩
def GW_FLAG_REROUTE_NONE : RF := ⟨GW_FLAG, 5, 1⟩
def GW_FLAG_ACF_ERR : RF := ⟨GW_FLAG, 6, 1⟩
def GW_FLAG_FIELD_SHORT : RF := ⟨GW_FLAG, 7, 1⟩

/-- GW_FLAG_CNT (R371, 12_gateway_ethernet_zrt.md). -/
def GW_FLAG_CNT : Nat := 0x05210034
def GW_FLAG_CNT_COUNT : RF := ⟨GW_FLAG_CNT, 0, 8⟩

/-- ZRT_FLAG (R521, 12_gateway_ethernet_zrt.md). -/
def ZRT_FLAG : Nat := 0x05220020
def ZRT_FLAG_AUTH_FAIL : RF := ⟨ZRT_FLAG, 0, 1⟩
def ZRT_FLAG_BAD_SEQ : RF := ⟨ZRT_FLAG, 1, 1⟩
def ZRT_FLAG_STALE_EPOCH : RF := ⟨ZRT_FLAG, 2, 1⟩
def ZRT_FLAG_AHEAD : RF := ⟨ZRT_FLAG, 3, 1⟩
def ZRT_FLAG_NOTIFY_DROP : RF := ⟨ZRT_FLAG, 4, 1⟩

/-- ZRT_FLAG_CNT (R521, 12_gateway_ethernet_zrt.md). -/
def ZRT_FLAG_CNT : Nat := 0x05220024
def ZRT_FLAG_CNT_COUNT : RF := ⟨ZRT_FLAG_CNT, 0, 8⟩

/-! Registers of spec/13_network_sleep_wake.md -/

/-- NM_CFG (R385, 13_network_sleep_wake.md). -/
def NM_CFG : Nat := 0x05230010
def NM_CFG_INSOMNIA_MIN : RF := ⟨NM_CFG, 0, 8⟩
def NM_CFG_NM_ENGINE : RF := ⟨NM_CFG, 8, 8⟩
def NM_CFG_ZRT_GRANT : RF := ⟨NM_CFG, 16, 8⟩

/-- NM_FLAG (R385, 13_network_sleep_wake.md). -/
def NM_FLAG : Nat := 0x05230020
def NM_FLAG_LATE_WAKE : RF := ⟨NM_FLAG, 0, 1⟩
def NM_FLAG_RING_BROKEN : RF := ⟨NM_FLAG, 1, 1⟩
def NM_FLAG_INSOMNIA : RF := ⟨NM_FLAG, 2, 1⟩

/-- NM_FLAG_CNT (R385, 13_network_sleep_wake.md). -/
def NM_FLAG_CNT : Nat := 0x05230024
def NM_FLAG_CNT_COUNT : RF := ⟨NM_FLAG_CNT, 0, 8⟩

/-- NM_INS_CLR (R385, 13_network_sleep_wake.md). -/
def NM_INS_CLR : Nat := 0x05230028
def NM_INS_CLR_CLEAR : RF := ⟨NM_INS_CLR, 0, 1⟩

/-- NM_INS_OVF (R385, 13_network_sleep_wake.md). -/
def NM_INS_OVF : Nat := 0x0523002C
def NM_INS_OVF_COUNT : RF := ⟨NM_INS_OVF, 0, 16⟩

/-! Registers of spec/14_trunk_bridge.md -/

/-- TRK_CFG (R409, 14_trunk_bridge.md). -/
def TRK_CFG : Nat := 0x05240010
def TRK_CFG_ROLE : RF := ⟨TRK_CFG, 0, 2⟩
def TRK_CFG_EXPECT : RF := ⟨TRK_CFG, 2, 3⟩
def TRK_CFG_UP_PORTS : RF := ⟨TRK_CFG, 12, 20⟩

/-- TRK_STAT (R409, 14_trunk_bridge.md). -/
def TRK_STAT : Nat := 0x05240014
def TRK_STAT_LINK : RF := ⟨TRK_STAT, 0, 2⟩
def TRK_STAT_TRAINED : RF := ⟨TRK_STAT, 2, 3⟩
def TRK_STAT_ORDER : RF := ⟨TRK_STAT, 5, 6⟩
def TRK_STAT_SYNC : RF := ⟨TRK_STAT, 11, 2⟩

/-- TRK_FLAG (R409, 14_trunk_bridge.md). -/
def TRK_FLAG : Nat := 0x05240018
def TRK_FLAG_LINK_LOST : RF := ⟨TRK_FLAG, 0, 1⟩
def TRK_FLAG_DUP_INDEX : RF := ⟨TRK_FLAG, 1, 1⟩
def TRK_FLAG_MISSING : RF := ⟨TRK_FLAG, 2, 1⟩
def TRK_FLAG_SYNC_LOST : RF := ⟨TRK_FLAG, 3, 1⟩
def TRK_FLAG_RESEND : RF := ⟨TRK_FLAG, 4, 1⟩

/-- TRK_FLAG_CNT (R409, 14_trunk_bridge.md). -/
def TRK_FLAG_CNT : Nat := 0x0524001C
def TRK_FLAG_CNT_COUNT : RF := ⟨TRK_FLAG_CNT, 0, 8⟩

/-- TRK_CNT (R409, 14_trunk_bridge.md). -/
def TRK_CNT : Nat := 0x05240020
def TRK_CNT_RESENDS : RF := ⟨TRK_CNT, 0, 16⟩
def TRK_CNT_LOSSES : RF := ⟨TRK_CNT, 16, 8⟩
def TRK_CNT_DISCARDED : RF := ⟨TRK_CNT, 24, 8⟩

/-- TRK_RX_LAST (R409, 14_trunk_bridge.md). -/
def TRK_RX_LAST : Nat := 0x05240024
def TRK_RX_LAST_ORIG_INIT : RF := ⟨TRK_RX_LAST, 0, 8⟩
def TRK_RX_LAST_TRK_INIT : RF := ⟨TRK_RX_LAST, 8, 8⟩
def TRK_RX_LAST_STATUS : RF := ⟨TRK_RX_LAST, 16, 8⟩
def TRK_RX_LAST_VALID : RF := ⟨TRK_RX_LAST, 31, 1⟩

/-- TRK_RX_LAST_ADDR (R409, 14_trunk_bridge.md). -/
def TRK_RX_LAST_ADDR : Nat := 0x05240028
def TRK_RX_LAST_ADDR_ADDR : RF := ⟨TRK_RX_LAST_ADDR, 0, 32⟩

/-! Registers of spec/15_inputs_measurement.md -/

/-- INP_CFG (R419, 15_inputs_measurement.md). -/
def INP_CFG (i : Nat) : Nat := 0x05260100 + i * 0x4
def INP_CFG_MODE (i : Nat) : RF := ⟨INP_CFG i, 0, 2⟩
def INP_CFG_ANA (i : Nat) : RF := ⟨INP_CFG i, 2, 1⟩
def INP_CFG_WET_I (i : Nat) : RF := ⟨INP_CFG i, 3, 5⟩
def INP_CFG_DEBOUNCE (i : Nat) : RF := ⟨INP_CFG i, 8, 10⟩
def INP_CFG_CLEAN (i : Nat) : RF := ⟨INP_CFG i, 18, 1⟩
def INP_CFG_POLL (i : Nat) : RF := ⟨INP_CFG i, 19, 1⟩
def INP_CFG_STAMP (i : Nat) : RF := ⟨INP_CFG i, 20, 1⟩
def INP_CFG_CUE (i : Nat) : RF := ⟨INP_CFG i, 21, 2⟩
def INP_CFG_OWNER (i : Nat) : RF := ⟨INP_CFG i, 24, 8⟩

/-- INP_HC_CFG (R419, 15_inputs_measurement.md). -/
def INP_HC_CFG : Nat := 0x05260060
def INP_HC_CFG_EN : RF := ⟨INP_HC_CFG, 0, 4⟩
def INP_HC_CFG_WAKE : RF := ⟨INP_HC_CFG, 4, 4⟩
def INP_HC_CFG_RUN_MS : RF := ⟨INP_HC_CFG, 8, 6⟩
def INP_HC_CFG_STUCK_S : RF := ⟨INP_HC_CFG, 16, 8⟩
def INP_HC_CFG_OWNER : RF := ⟨INP_HC_CFG, 24, 8⟩

/-- INP_HC_STAT (R419, 15_inputs_measurement.md). -/
def INP_HC_STAT : Nat := 0x05260064
def INP_HC_STAT_TOUCHED : RF := ⟨INP_HC_STAT, 0, 4⟩
def INP_HC_STAT_FAULTED : RF := ⟨INP_HC_STAT, 4, 4⟩
def INP_HC_STAT_WAKE_HC : RF := ⟨INP_HC_STAT, 8, 4⟩
def INP_HC_STAT_TOUCH : RF := ⟨INP_HC_STAT, 12, 4⟩
def INP_HC_STAT_STUCK : RF := ⟨INP_HC_STAT, 16, 4⟩
def INP_HC_STAT_HC_FAULT : RF := ⟨INP_HC_STAT, 20, 4⟩

/-- INP_HC_FLAG_CNT (R419, 15_inputs_measurement.md). -/
def INP_HC_FLAG_CNT : Nat := 0x0526006C
def INP_HC_FLAG_CNT_COUNT : RF := ⟨INP_HC_FLAG_CNT, 0, 8⟩

/-! Registers of spec/18_strongroom_security.md -/

/-- STR_CFG (R487, 18_strongroom_security.md). -/
def STR_CFG : Nat := 0x06000010
def STR_CFG_PERIOD_MS : RF := ⟨STR_CFG, 0, 7⟩
def STR_CFG_FIRST_MS : RF := ⟨STR_CFG, 8, 8⟩
def STR_CFG_CC_TIMEOUT : RF := ⟨STR_CFG, 16, 10⟩
def STR_CFG_CC_ACT : RF := ⟨STR_CFG, 26, 2⟩
def STR_CFG_AUTO_REL : RF := ⟨STR_CFG, 28, 1⟩
def STR_CFG_REL_NEED_CC : RF := ⟨STR_CFG, 29, 1⟩

/-- STR_FS_MASKS (R487, 18_strongroom_security.md). -/
def STR_FS_MASKS : Nat := 0x06000014
def STR_FS_MASKS_CC_FS_MASK : RF := ⟨STR_FS_MASKS, 1, 13⟩
def STR_FS_MASKS_STALE_FS_MASK : RF := ⟨STR_FS_MASKS, 17, 13⟩

/-- STR_HB_STAT (R487, 18_strongroom_security.md). -/
def STR_HB_STAT : Nat := 0x06000020
def STR_HB_STAT_SUPERVISED : RF := ⟨STR_HB_STAT, 0, 6⟩
def STR_HB_STAT_BEATEN : RF := ⟨STR_HB_STAT, 8, 6⟩
def STR_HB_STAT_CC_ARMED : RF := ⟨STR_HB_STAT, 16, 1⟩
def STR_HB_STAT_CC_MISSING : RF := ⟨STR_HB_STAT, 17, 1⟩
def STR_HB_STAT_CC_SEEN : RF := ⟨STR_HB_STAT, 18, 1⟩

/-- STR_FLAG (R487, 18_strongroom_security.md). -/
def STR_FLAG : Nat := 0x06000060
def STR_FLAG_LOCKSTEP : RF := ⟨STR_FLAG, 0, 1⟩
def STR_FLAG_KA_LAPSE : RF := ⟨STR_FLAG, 1, 1⟩
def STR_FLAG_CC_MISSING : RF := ⟨STR_FLAG, 2, 1⟩
def STR_FLAG_CABINET_FAIL : RF := ⟨STR_FLAG, 3, 1⟩
def STR_FLAG_ENTROPY_FAIL : RF := ⟨STR_FLAG, 4, 1⟩
def STR_FLAG_DEBUG_FAIL : RF := ⟨STR_FLAG, 5, 1⟩

/-- STR_FLAG_CNT (R487, 18_strongroom_security.md). -/
def STR_FLAG_CNT : Nat := 0x06000064
def STR_FLAG_CNT_COUNT : RF := ⟨STR_FLAG_CNT, 0, 8⟩

/-! Registers of spec/05_output_channels.md -/

/-- CH_ONCNT (R147, 05_output_channels.md). -/
def CH_ONCNT (i : Nat) : Nat := 0x030002C0 + i * 0x400
def CH_ONCNT_COUNT (i : Nat) : RF := ⟨CH_ONCNT i, 0, 32⟩

/-- CH_EDGECNT (R147, 05_output_channels.md). -/
def CH_EDGECNT (i : Nat) : Nat := 0x030002C4 + i * 0x400
def CH_EDGECNT_COUNT (i : Nat) : RF := ⟨CH_EDGECNT i, 0, 32⟩

/-- CH_TRIPCNT (R147, 05_output_channels.md). -/
def CH_TRIPCNT (i : Nat) : Nat := 0x030002C8 + i * 0x400
def CH_TRIPCNT_FAST (i : Nat) : RF := ⟨CH_TRIPCNT i, 0, 16⟩
def CH_TRIPCNT_BUDGET (i : Nat) : RF := ⟨CH_TRIPCNT i, 16, 16⟩

/-- CH_DEFERCNT (R147, 05_output_channels.md). -/
def CH_DEFERCNT (i : Nat) : Nat := 0x030002CC + i * 0x400
def CH_DEFERCNT_DEFER (i : Nat) : RF := ⟨CH_DEFERCNT i, 0, 16⟩
def CH_DEFERCNT_PAUSE (i : Nat) : RF := ⟨CH_DEFERCNT i, 16, 16⟩

/-- CH_SIGCNT (R147, 05_output_channels.md). -/
def CH_SIGCNT (i : Nat) : Nat := 0x030002D0 + i * 0x400
def CH_SIGCNT_HIGH (i : Nat) : RF := ⟨CH_SIGCNT i, 0, 8⟩
def CH_SIGCNT_LOW (i : Nat) : RF := ⟨CH_SIGCNT i, 8, 8⟩
def CH_SIGCNT_AGEING (i : Nat) : RF := ⟨CH_SIGCNT i, 16, 8⟩
def CH_SIGCNT_SUPPRESSED (i : Nat) : RF := ⟨CH_SIGCNT i, 24, 8⟩

/-- CH_ONTIME (R147, 05_output_channels.md). -/
def CH_ONTIME (i : Nat) : Nat := 0x030002D4 + i * 0x400
def CH_ONTIME_SECONDS (i : Nat) : RF := ⟨CH_ONTIME i, 0, 32⟩

/-! Registers of spec/06_protection_ledger.md -/

/-- LDG_DG0 (R183, 06_protection_ledger.md). -/
def LDG_DG0 (i : Nat) : Nat := 0x05041000 + i * 0x40
def LDG_DG0_G_JD (i : Nat) : RF := ⟨LDG_DG0 i, 0, 16⟩
def LDG_DG0_G_DS (i : Nat) : RF := ⟨LDG_DG0 i, 16, 16⟩

/-- LDG_DG1 (R183, 06_protection_ledger.md). -/
def LDG_DG1 (i : Nat) : Nat := 0x05041004 + i * 0x40
def LDG_DG1_G_SF (i : Nat) : RF := ⟨LDG_DG1 i, 0, 16⟩
def LDG_DG1_G_FP (i : Nat) : RF := ⟨LDG_DG1 i, 16, 16⟩

/-- LDG_DC (R183, 06_protection_ledger.md). -/
def LDG_DC (i j : Nat) : Nat := 0x05041008 + i * 0x40 + j * 0x4
def LDG_DC_C (i j : Nat) : RF := ⟨LDG_DC i j, 0, 24⟩

/-- LDG_DTH (R183, 06_protection_ledger.md). -/
def LDG_DTH (i : Nat) : Nat := 0x05041018 + i * 0x40
def LDG_DTH_TJ_DERATE (i : Nat) : RF := ⟨LDG_DTH i, 0, 8⟩
def LDG_DTH_TJ_CEIL (i : Nat) : RF := ⟨LDG_DTH i, 8, 8⟩
def LDG_DTH_TJ_FUSE (i : Nat) : RF := ⟨LDG_DTH i, 16, 8⟩
def LDG_DTH_TJ_HYST (i : Nat) : RF := ⟨LDG_DTH i, 24, 4⟩

/-- LDG_DZ (R183, 06_protection_ledger.md). -/
def LDG_DZ (i : Nat) : Nat := 0x0504101C + i * 0x40
def LDG_DZ_ZTH (i : Nat) : RF := ⟨LDG_DZ i, 0, 16⟩
def LDG_DZ_CAP_MIN (i : Nat) : RF := ⟨LDG_DZ i, 16, 11⟩

/-- LDG_DT0 (R183, 06_protection_ledger.md). -/
def LDG_DT0 (i : Nat) : Nat := 0x05041020 + i * 0x40
def LDG_DT0_T_J (i : Nat) : RF := ⟨LDG_DT0 i, 0, 16⟩
def LDG_DT0_T_D (i : Nat) : RF := ⟨LDG_DT0 i, 16, 16⟩

/-- LDG_DT1 (R183, 06_protection_ledger.md). -/
def LDG_DT1 (i : Nat) : Nat := 0x05041024 + i * 0x40
def LDG_DT1_T_S (i : Nat) : RF := ⟨LDG_DT1 i, 0, 16⟩
def LDG_DT1_T_F (i : Nat) : RF := ⟨LDG_DT1 i, 16, 16⟩

/-- LDG_DP (R183, 06_protection_ledger.md). -/
def LDG_DP (i : Nat) : Nat := 0x05041028 + i * 0x40
def LDG_DP_T_P (i : Nat) : RF := ⟨LDG_DP i, 0, 16⟩
def LDG_DP_P (i : Nat) : RF := ⟨LDG_DP i, 16, 16⟩

/-- LDG_DX (R183, 06_protection_ledger.md). -/
def LDG_DX (i : Nat) : Nat := 0x0504102C + i * 0x40
def LDG_DX_T_PRED (i : Nat) : RF := ⟨LDG_DX i, 0, 16⟩
def LDG_DX_OT_CNT (i : Nat) : RF := ⟨LDG_DX i, 16, 16⟩

/-- LDG_W0 (R183, 06_protection_ledger.md). -/
def LDG_W0 (i : Nat) : Nat := 0x05044000 + i * 0x20
def LDG_W0_RES20 (i : Nat) : RF := ⟨LDG_W0 i, 0, 24⟩
def LDG_W0_TMAX (i : Nat) : RF := ⟨LDG_W0 i, 24, 8⟩

/-- LDG_W1 (R183, 06_protection_ledger.md). -/
def LDG_W1 (i : Nat) : Nat := 0x05044004 + i * 0x20
def LDG_W1_TCR (i : Nat) : RF := ⟨LDG_W1 i, 0, 12⟩
def LDG_W1_AMB_SRC (i : Nat) : RF := ⟨LDG_W1 i, 12, 8⟩
def LDG_W1_COOL_HALF (i : Nat) : RF := ⟨LDG_W1 i, 20, 8⟩

/-- LDG_W2 (R183, 06_protection_ledger.md). -/
def LDG_W2 (i : Nat) : Nat := 0x05044008 + i * 0x20
def LDG_W2_CC (i : Nat) : RF := ⟨LDG_W2 i, 0, 16⟩
def LDG_W2_CI (i : Nat) : RF := ⟨LDG_W2 i, 16, 16⟩

/-- LDG_W3 (R183, 06_protection_ledger.md). -/
def LDG_W3 (i : Nat) : Nat := 0x0504400C + i * 0x20
def LDG_W3_GCI (i : Nat) : RF := ⟨LDG_W3 i, 0, 16⟩
def LDG_W3_GIA (i : Nat) : RF := ⟨LDG_W3 i, 16, 16⟩

/-- LDG_W4 (R183, 06_protection_ledger.md). -/
def LDG_W4 (i : Nat) : Nat := 0x05044010 + i * 0x20
def LDG_W4_DERATE_M (i : Nat) : RF := ⟨LDG_W4 i, 0, 8⟩
def LDG_W4_RELEASE_M (i : Nat) : RF := ⟨LDG_W4 i, 8, 8⟩
def LDG_W4_AMB_CONST (i : Nat) : RF := ⟨LDG_W4 i, 16, 8⟩

/-- LDG_W5 (R183, 06_protection_ledger.md). -/
def LDG_W5 (i : Nat) : Nat := 0x05044014 + i * 0x20
def LDG_W5_T_C (i : Nat) : RF := ⟨LDG_W5 i, 0, 16⟩
def LDG_W5_T_I (i : Nat) : RF := ⟨LDG_W5 i, 16, 16⟩

/-- LDG_W6 (R183, 06_protection_ledger.md). -/
def LDG_W6 (i : Nat) : Nat := 0x05044018 + i * 0x20
def LDG_W6_T_A (i : Nat) : RF := ⟨LDG_W6 i, 0, 16⟩
def LDG_W6_I_SUM (i : Nat) : RF := ⟨LDG_W6 i, 16, 16⟩

/-- LDG_CHCFG (R183, 06_protection_ledger.md). -/
def LDG_CHCFG (i : Nat) : Nat := 0x05046000 + i * 0x10
def LDG_CHCFG_E_INRUSH (i : Nat) : RF := ⟨LDG_CHCFG i, 0, 16⟩
def LDG_CHCFG_SHED_RANK (i : Nat) : RF := ⟨LDG_CHCFG i, 16, 4⟩
def LDG_CHCFG_CAP_ON (i : Nat) : RF := ⟨LDG_CHCFG i, 20, 1⟩
def LDG_CHCFG_FUSE_OK (i : Nat) : RF := ⟨LDG_CHCFG i, 21, 1⟩

/-- LDG_CHSTAT (R183, 06_protection_ledger.md). -/
def LDG_CHSTAT (i : Nat) : Nat := 0x05046004 + i * 0x10
def LDG_CHSTAT_CAP (i : Nat) : RF := ⟨LDG_CHSTAT i, 0, 11⟩
def LDG_CHSTAT_PERMIT (i : Nat) : RF := ⟨LDG_CHSTAT i, 11, 1⟩
def LDG_CHSTAT_INRUSH (i : Nat) : RF := ⟨LDG_CHSTAT i, 12, 1⟩
def LDG_CHSTAT_LAST_ACTION (i : Nat) : RF := ⟨LDG_CHSTAT i, 16, 8⟩

/-- LDG_CHE (R183, 06_protection_ledger.md). -/
def LDG_CHE (i : Nat) : Nat := 0x05046008 + i * 0x10
def LDG_CHE_E_USED (i : Nat) : RF := ⟨LDG_CHE i, 0, 32⟩

/-! Registers of spec/09_cue_engines.md -/

/-- ENG_CFG (R240, 09_cue_engines.md). -/
def ENG_CFG (i j : Nat) : Nat := 0x02010004 + i * 0x100000 + j * 0x1000
def ENG_CFG_URG_MASK (i j : Nat) : RF := ⟨ENG_CFG i j, 0, 16⟩

/-- ENG_SP (R240, 09_cue_engines.md). -/
def ENG_SP (i j : Nat) : Nat := 0x02010008 + i * 0x100000 + j * 0x1000
def ENG_SP_SP_NORMAL (i j : Nat) : RF := ⟨ENG_SP i j, 0, 16⟩
def ENG_SP_SP_URGENT (i j : Nat) : RF := ⟨ENG_SP i j, 16, 16⟩

/-- ENG_CUE_DROP (R240, 09_cue_engines.md). -/
def ENG_CUE_DROP (i j : Nat) : Nat := 0x02010010 + i * 0x100000 + j * 0x1000
def ENG_CUE_DROP_COUNT (i j : Nat) : RF := ⟨ENG_CUE_DROP i j, 0, 16⟩
def ENG_CUE_DROP_LAST_CLASS (i j : Nat) : RF := ⟨ENG_CUE_DROP i j, 16, 4⟩

/-- ENG_CUE_MISC (R240, 09_cue_engines.md). -/
def ENG_CUE_MISC (i j : Nat) : Nat := 0x02010014 + i * 0x100000 + j * 0x1000
def ENG_CUE_MISC_MERGED (i j : Nat) : RF := ⟨ENG_CUE_MISC i j, 0, 16⟩
def ENG_CUE_MISC_UNHANDLED (i j : Nat) : RF := ⟨ENG_CUE_MISC i j, 16, 16⟩

/-- ENG_FLAG (R240, 09_cue_engines.md). -/
def ENG_FLAG (i j : Nat) : Nat := 0x02010018 + i * 0x100000 + j * 0x1000
def ENG_FLAG_FAULT (i j : Nat) : RF := ⟨ENG_FLAG i j, 0, 1⟩
def ENG_FLAG_DROP (i j : Nat) : RF := ⟨ENG_FLAG i j, 1, 1⟩
def ENG_FLAG_EMIT_ERR (i j : Nat) : RF := ⟨ENG_FLAG i j, 2, 1⟩

/-- ENG_FLAG_CNT (R240, 09_cue_engines.md). -/
def ENG_FLAG_CNT (i j : Nat) : Nat := 0x0201001C + i * 0x100000 + j * 0x1000
def ENG_FLAG_CNT_COUNT (i j : Nat) : RF := ⟨ENG_FLAG_CNT i j, 0, 8⟩

/-! Registers of spec/11_can_lin.md -/

/-- CAN_TDC (R317, 11_can_lin.md). -/
def CAN_TDC (i : Nat) : Nat := 0x05100030 + i * 0x10000
def CAN_TDC_TDCV (i : Nat) : RF := ⟨CAN_TDC i, 0, 7⟩

/-- CAN_QREFUSE (R317, 11_can_lin.md). -/
def CAN_QREFUSE (i : Nat) : Nat := 0x05100034 + i * 0x10000
def CAN_QREFUSE_COUNT (i : Nat) : RF := ⟨CAN_QREFUSE i, 0, 16⟩
def CAN_QREFUSE_LAST_INIT (i : Nat) : RF := ⟨CAN_QREFUSE i, 16, 8⟩
def CAN_QREFUSE_LAST_REASON (i : Nat) : RF := ⟨CAN_QREFUSE i, 24, 8⟩

/-- CAN_COUNT (R317, 11_can_lin.md). -/
def CAN_COUNT (i : Nat) : Nat := 0x05100038 + i * 0x10000
def CAN_COUNT_TX_OK (i : Nat) : RF := ⟨CAN_COUNT i, 0, 16⟩
def CAN_COUNT_RX_OK (i : Nat) : RF := ⟨CAN_COUNT i, 16, 16⟩

/-- CAN_EVCNT (R317, 11_can_lin.md). -/
def CAN_EVCNT (i : Nat) : Nat := 0x0510003C + i * 0x10000
def CAN_EVCNT_BUSOFFS (i : Nat) : RF := ⟨CAN_EVCNT i, 0, 8⟩
def CAN_EVCNT_TWINS (i : Nat) : RF := ⟨CAN_EVCNT i, 8, 8⟩

/-- CAN_QOWN (R317, 11_can_lin.md). -/
def CAN_QOWN (i j : Nat) : Nat := 0x05100040 + i * 0x10000 + j * 0x4
def CAN_QOWN_OWNER0 (i j : Nat) : RF := ⟨CAN_QOWN i j, 0, 8⟩
def CAN_QOWN_OWNER1 (i j : Nat) : RF := ⟨CAN_QOWN i j, 8, 8⟩
def CAN_QOWN_OWNER2 (i j : Nat) : RF := ⟨CAN_QOWN i j, 16, 8⟩
def CAN_QOWN_OWNER3 (i j : Nat) : RF := ⟨CAN_QOWN i j, 24, 8⟩

/-- CAN_ACCESS (R317, 11_can_lin.md). -/
def CAN_ACCESS (i : Nat) : Nat := 0x05100060 + i * 0x10000
def CAN_ACCESS_CTL_ENGINE (i : Nat) : RF := ⟨CAN_ACCESS i, 0, 8⟩
def CAN_ACCESS_ZRT_GRANT (i : Nat) : RF := ⟨CAN_ACCESS i, 8, 8⟩

/-- CAN_WUF_ID (R317, 11_can_lin.md). -/
def CAN_WUF_ID (i : Nat) : Nat := 0x05100084 + i * 0x10000
def CAN_WUF_ID_WUF_ID (i : Nat) : RF := ⟨CAN_WUF_ID i, 0, 29⟩
def CAN_WUF_ID_IDE (i : Nat) : RF := ⟨CAN_WUF_ID i, 29, 1⟩

/-- CAN_WUF_MASK (R317, 11_can_lin.md). -/
def CAN_WUF_MASK (i : Nat) : Nat := 0x05100088 + i * 0x10000
def CAN_WUF_MASK_WUF_MASK (i : Nat) : RF := ⟨CAN_WUF_MASK i, 0, 29⟩

/-- CAN_WUF_DATA (R317, 11_can_lin.md). -/
def CAN_WUF_DATA (i j : Nat) : Nat := 0x0510008C + i * 0x10000 + j * 0x4
def CAN_WUF_DATA_WUF_DATA (i j : Nat) : RF := ⟨CAN_WUF_DATA i j, 0, 32⟩

/-- CAN_TRX_CTL (R317, 11_can_lin.md). -/
def CAN_TRX_CTL (i : Nat) : Nat := 0x05100094 + i * 0x10000
def CAN_TRX_CTL_REQ (i : Nat) : RF := ⟨CAN_TRX_CTL i, 0, 2⟩

/-- CAN_TRX_STAT (R317, 11_can_lin.md). -/
def CAN_TRX_STAT (i : Nat) : Nat := 0x05100098 + i * 0x10000
def CAN_TRX_STAT_STATE (i : Nat) : RF := ⟨CAN_TRX_STAT i, 0, 3⟩
def CAN_TRX_STAT_WAKE (i : Nat) : RF := ⟨CAN_TRX_STAT i, 3, 1⟩
def CAN_TRX_STAT_CAUSE (i : Nat) : RF := ⟨CAN_TRX_STAT i, 4, 2⟩
def CAN_TRX_STAT_FEC (i : Nat) : RF := ⟨CAN_TRX_STAT i, 6, 6⟩

/-! Registers of spec/12_gateway_ethernet_zrt.md -/

/-- GW_CFG (R362, 12_gateway_ethernet_zrt.md). -/
def GW_CFG : Nat := 0x05210010
def GW_CFG_HASH_SEED : RF := ⟨GW_CFG, 0, 16⟩
def GW_CFG_HOLD_MS : RF := ⟨GW_CFG, 16, 7⟩

/-- GW_ACCESS (R362, 12_gateway_ethernet_zrt.md). -/
def GW_ACCESS : Nat := 0x05210014
def GW_ACCESS_OWNER : RF := ⟨GW_ACCESS, 0, 8⟩
def GW_ACCESS_ZRT_GRANT : RF := ⟨GW_ACCESS, 8, 8⟩

/-- GW_ACF_CFG (R362, 12_gateway_ethernet_zrt.md). -/
def GW_ACF_CFG : Nat := 0x05210018
def GW_ACF_CFG_BRIEF : RF := ⟨GW_ACF_CFG, 0, 1⟩
def GW_ACF_CFG_BATCH_US : RF := ⟨GW_ACF_CFG, 1, 10⟩
def GW_ACF_CFG_STREAM_UID : RF := ⟨GW_ACF_CFG, 11, 16⟩

/-- GW_UPD_CTL (R362, 12_gateway_ethernet_zrt.md). -/
def GW_UPD_CTL : Nat := 0x05210020
def GW_UPD_CTL_SWAP : RF := ⟨GW_UPD_CTL, 0, 1⟩
def GW_UPD_CTL_DISCARD : RF := ⟨GW_UPD_CTL, 1, 1⟩

/-- GW_UPD_STAT (R362, 12_gateway_ethernet_zrt.md). -/
def GW_UPD_STAT : Nat := 0x05210024
def GW_UPD_STAT_STAGED : RF := ⟨GW_UPD_STAT, 0, 13⟩
def GW_UPD_STAT_COPYBACK : RF := ⟨GW_UPD_STAT, 13, 1⟩
def GW_UPD_STAT_GEN : RF := ⟨GW_UPD_STAT, 16, 16⟩

/-- GW_RELEASE (R362, 12_gateway_ethernet_zrt.md). -/
def GW_RELEASE : Nat := 0x05210028
def GW_RELEASE_BUF : RF := ⟨GW_RELEASE, 0, 11⟩

/-- GW_INJ_GO (R362, 12_gateway_ethernet_zrt.md). -/
def GW_INJ_GO : Nat := 0x05210240
def GW_INJ_GO_GO : RF := ⟨GW_INJ_GO, 0, 1⟩

/-- GW_HIT_CNT (R362, 12_gateway_ethernet_zrt.md). -/
def GW_HIT_CNT : Nat := 0x05210040
def GW_HIT_CNT_COUNT : RF := ⟨GW_HIT_CNT, 0, 32⟩

/-- GW_MISS_CNT (R362, 12_gateway_ethernet_zrt.md). -/
def GW_MISS_CNT : Nat := 0x05210044
def GW_MISS_CNT_COUNT : RF := ⟨GW_MISS_CNT, 0, 32⟩

/-- GW_DROP_CNT (R362, 12_gateway_ethernet_zrt.md). -/
def GW_DROP_CNT : Nat := 0x05210048
def GW_DROP_CNT_NOBUF : RF := ⟨GW_DROP_CNT, 0, 8⟩
def GW_DROP_CNT_AGED : RF := ⟨GW_DROP_CNT, 8, 8⟩
def GW_DROP_CNT_ASLEEP : RF := ⟨GW_DROP_CNT, 16, 8⟩
def GW_DROP_CNT_FORMAT : RF := ⟨GW_DROP_CNT, 24, 8⟩

/-- GW_RFX_CNT (R362, 12_gateway_ethernet_zrt.md). -/
def GW_RFX_CNT : Nat := 0x0521004C
def GW_RFX_CNT_EXECUTED : RF := ⟨GW_RFX_CNT, 0, 16⟩
def GW_RFX_CNT_REFUSED : RF := ⟨GW_RFX_CNT, 16, 16⟩

/-- GW_REFUSE (R362, 12_gateway_ethernet_zrt.md). -/
def GW_REFUSE : Nat := 0x05210050
def GW_REFUSE_COUNT : RF := ⟨GW_REFUSE, 0, 16⟩
def GW_REFUSE_LAST_INIT : RF := ⟨GW_REFUSE, 16, 8⟩

/-- GW_PORT_CFG (R362, 12_gateway_ethernet_zrt.md). -/
def GW_PORT_CFG (i : Nat) : Nat := 0x05210100 + i * 0x4
def GW_PORT_CFG_RFX_PRIO (i : Nat) : RF := ⟨GW_PORT_CFG i, 1, 1⟩
def GW_PORT_CFG_MISS (i : Nat) : RF := ⟨GW_PORT_CFG i, 2, 2⟩
def GW_PORT_CFG_MISS_ENGINE (i : Nat) : RF := ⟨GW_PORT_CFG i, 8, 8⟩
def GW_PORT_CFG_QUOTA (i : Nat) : RF := ⟨GW_PORT_CFG i, 16, 11⟩
def GW_PORT_CFG_AGE (i : Nat) : RF := ⟨GW_PORT_CFG i, 27, 5⟩

/-- GW_PORT_DEF (R362, 12_gateway_ethernet_zrt.md). -/
def GW_PORT_DEF (i : Nat) : Nat := 0x05210180 + i * 0x4
def GW_PORT_DEF_DEST (i : Nat) : RF := ⟨GW_PORT_DEF i, 0, 21⟩

/-- GW_STASH_ACT (R362, 12_gateway_ethernet_zrt.md). -/
def GW_STASH_ACT (i : Nat) : Nat := 0x05218000 + i * 0x4
def GW_STASH_ACT_ENTRY (i : Nat) : RF := ⟨GW_STASH_ACT i, 0, 32⟩

/-- GW_STASH_SHD (R362, 12_gateway_ethernet_zrt.md). -/
def GW_STASH_SHD (i : Nat) : Nat := 0x05218400 + i * 0x4
def GW_STASH_SHD_ENTRY (i : Nat) : RF := ⟨GW_STASH_SHD i, 0, 32⟩

/-- ZRT_CFG (R371, 12_gateway_ethernet_zrt.md). -/
def ZRT_CFG : Nat := 0x05220010
def ZRT_CFG_UDP_PORT : RF := ⟨ZRT_CFG, 0, 16⟩
def ZRT_CFG_RAW_EN : RF := ⟨ZRT_CFG, 16, 1⟩
def ZRT_CFG_UDP_EN : RF := ⟨ZRT_CFG, 17, 1⟩

/-- ZRT_EPOCH (R371, 12_gateway_ethernet_zrt.md). -/
def ZRT_EPOCH : Nat := 0x05220014
def ZRT_EPOCH_EPOCH : RF := ⟨ZRT_EPOCH, 0, 16⟩

/-- ZRT_NOTIFY_CFG (R371, 12_gateway_ethernet_zrt.md). -/
def ZRT_NOTIFY_CFG : Nat := 0x05220018
def ZRT_NOTIFY_CFG_BATCH_US : RF := ⟨ZRT_NOTIFY_CFG, 0, 14⟩
def ZRT_NOTIFY_CFG_RETX_MS : RF := ⟨ZRT_NOTIFY_CFG, 14, 7⟩
def ZRT_NOTIFY_CFG_BATCH_N : RF := ⟨ZRT_NOTIFY_CFG, 21, 7⟩

/-- ZRT_SES_CFG (R371, 12_gateway_ethernet_zrt.md). -/
def ZRT_SES_CFG (i : Nat) : Nat := 0x05220100 + i * 0x20
def ZRT_SES_CFG_EN (i : Nat) : RF := ⟨ZRT_SES_CFG i, 0, 1⟩
def ZRT_SES_CFG_UDP (i : Nat) : RF := ⟨ZRT_SES_CFG i, 1, 1⟩
def ZRT_SES_CFG_HB (i : Nat) : RF := ⟨ZRT_SES_CFG i, 2, 1⟩
def ZRT_SES_CFG_POWER (i : Nat) : RF := ⟨ZRT_SES_CFG i, 3, 1⟩
def ZRT_SES_CFG_OP_GRANT (i : Nat) : RF := ⟨ZRT_SES_CFG i, 4, 8⟩
def ZRT_SES_CFG_VID (i : Nat) : RF := ⟨ZRT_SES_CFG i, 12, 12⟩
def ZRT_SES_CFG_PCP (i : Nat) : RF := ⟨ZRT_SES_CFG i, 24, 3⟩
def ZRT_SES_CFG_FRER (i : Nat) : RF := ⟨ZRT_SES_CFG i, 27, 1⟩

/-- ZRT_SES_PEER_IP (R371, 12_gateway_ethernet_zrt.md). -/
def ZRT_SES_PEER_IP (i : Nat) : Nat := 0x05220104 + i * 0x20
def ZRT_SES_PEER_IP_IP (i : Nat) : RF := ⟨ZRT_SES_PEER_IP i, 0, 32⟩

/-- ZRT_SES_PEER_MACL (R371, 12_gateway_ethernet_zrt.md). -/
def ZRT_SES_PEER_MACL (i : Nat) : Nat := 0x05220108 + i * 0x20
def ZRT_SES_PEER_MACL_MAC (i : Nat) : RF := ⟨ZRT_SES_PEER_MACL i, 0, 32⟩

/-- ZRT_SES_PEER_MACH (R371, 12_gateway_ethernet_zrt.md). -/
def ZRT_SES_PEER_MACH (i : Nat) : Nat := 0x0522010C + i * 0x20
def ZRT_SES_PEER_MACH_MAC (i : Nat) : RF := ⟨ZRT_SES_PEER_MACH i, 0, 16⟩

/-- ZRT_SES_STAT (R371, 12_gateway_ethernet_zrt.md). -/
def ZRT_SES_STAT (i : Nat) : Nat := 0x05220110 + i * 0x20
def ZRT_SES_STAT_NEXT_SEQ (i : Nat) : RF := ⟨ZRT_SES_STAT i, 0, 16⟩
def ZRT_SES_STAT_OPEN (i : Nat) : RF := ⟨ZRT_SES_STAT i, 16, 1⟩
def ZRT_SES_STAT_LAST_STATUS (i : Nat) : RF := ⟨ZRT_SES_STAT i, 24, 8⟩

/-- ZRT_SES_CNT (R371, 12_gateway_ethernet_zrt.md). -/
def ZRT_SES_CNT (i : Nat) : Nat := 0x05220114 + i * 0x20
def ZRT_SES_CNT_REQUESTS (i : Nat) : RF := ⟨ZRT_SES_CNT i, 0, 16⟩
def ZRT_SES_CNT_REPLAYS (i : Nat) : RF := ⟨ZRT_SES_CNT i, 16, 8⟩
def ZRT_SES_CNT_REJECTED (i : Nat) : RF := ⟨ZRT_SES_CNT i, 24, 8⟩

/-- ZRT_SES_NOTE (R371, 12_gateway_ethernet_zrt.md). -/
def ZRT_SES_NOTE (i : Nat) : Nat := 0x05220118 + i * 0x20
def ZRT_SES_NOTE_QUEUED (i : Nat) : RF := ⟨ZRT_SES_NOTE i, 0, 8⟩
def ZRT_SES_NOTE_UNACKED (i : Nat) : RF := ⟨ZRT_SES_NOTE i, 8, 4⟩
def ZRT_SES_NOTE_DROPPED (i : Nat) : RF := ⟨ZRT_SES_NOTE i, 16, 16⟩

/-- ETH_PORT_STAT (R334, 12_gateway_ethernet_zrt.md). -/
def ETH_PORT_STAT (i : Nat) : Nat := 0x05200010 + i * 0x4
def ETH_PORT_STAT_LINK (i : Nat) : RF := ⟨ETH_PORT_STAT i, 0, 1⟩
def ETH_PORT_STAT_MACSEC_UP (i : Nat) : RF := ⟨ETH_PORT_STAT i, 1, 1⟩
def ETH_PORT_STAT_PN_NEAR (i : Nat) : RF := ⟨ETH_PORT_STAT i, 2, 1⟩
def ETH_PORT_STAT_PLCA_ACTIVE (i : Nat) : RF := ⟨ETH_PORT_STAT i, 3, 1⟩

/-- ETH_FRER_CNT (R334, 12_gateway_ethernet_zrt.md). -/
def ETH_FRER_CNT (i : Nat) : Nat := 0x05200020 + i * 0x8
def ETH_FRER_CNT_PASSED (i : Nat) : RF := ⟨ETH_FRER_CNT i, 0, 16⟩
def ETH_FRER_CNT_DISCARDED (i : Nat) : RF := ⟨ETH_FRER_CNT i, 16, 16⟩

/-- ETH_FRER_CNTB (R334, 12_gateway_ethernet_zrt.md). -/
def ETH_FRER_CNTB (i : Nat) : Nat := 0x05200024 + i * 0x8
def ETH_FRER_CNTB_ROGUE (i : Nat) : RF := ⟨ETH_FRER_CNTB i, 0, 16⟩
def ETH_FRER_CNTB_LOST (i : Nat) : RF := ⟨ETH_FRER_CNTB i, 16, 16⟩

/-- ETH_DROP_CNT (R334, 12_gateway_ethernet_zrt.md). -/
def ETH_DROP_CNT (i : Nat) : Nat := 0x05200040 + i * 0x4
def ETH_DROP_CNT_FDB (i : Nat) : RF := ⟨ETH_DROP_CNT i, 0, 8⟩
def ETH_DROP_CNT_VLAN (i : Nat) : RF := ⟨ETH_DROP_CNT i, 8, 8⟩
def ETH_DROP_CNT_MACSEC (i : Nat) : RF := ⟨ETH_DROP_CNT i, 16, 8⟩
def ETH_DROP_CNT_QBV (i : Nat) : RF := ⟨ETH_DROP_CNT i, 24, 8⟩

/-- ETH_QBV_CHANGE_LO (R334, 12_gateway_ethernet_zrt.md). -/
def ETH_QBV_CHANGE_LO : Nat := 0x05200050
def ETH_QBV_CHANGE_LO_TIME : RF := ⟨ETH_QBV_CHANGE_LO, 0, 32⟩

/-- ETH_QBV_CHANGE_HI (R334, 12_gateway_ethernet_zrt.md). -/
def ETH_QBV_CHANGE_HI : Nat := 0x05200054
def ETH_QBV_CHANGE_HI_TIME : RF := ⟨ETH_QBV_CHANGE_HI, 0, 32⟩

/-! Registers of spec/13_network_sleep_wake.md -/

/-- NM_SEG_CFG0 (R384, 13_network_sleep_wake.md). -/
def NM_SEG_CFG0 (i : Nat) : Nat := 0x05230100 + i * 0x20
def NM_SEG_CFG0_NM_EN (i : Nat) : RF := ⟨NM_SEG_CFG0 i, 0, 1⟩
def NM_SEG_CFG0_POWER_IGNORE (i : Nat) : RF := ⟨NM_SEG_CFG0 i, 1, 1⟩
def NM_SEG_CFG0_START_AWAKE (i : Nat) : RF := ⟨NM_SEG_CFG0 i, 2, 1⟩
def NM_SEG_CFG0_TX_WAKES (i : Nat) : RF := ⟨NM_SEG_CFG0 i, 3, 1⟩
def NM_SEG_CFG0_WAKE_FWD (i : Nat) : RF := ⟨NM_SEG_CFG0 i, 4, 1⟩
def NM_SEG_CFG0_NODE_ID (i : Nat) : RF := ⟨NM_SEG_CFG0 i, 5, 6⟩
def NM_SEG_CFG0_BASE_ID (i : Nat) : RF := ⟨NM_SEG_CFG0 i, 11, 11⟩
def NM_SEG_CFG0_PARK (i : Nat) : RF := ⟨NM_SEG_CFG0 i, 22, 2⟩

/-- NM_SEG_CFG1 (R384, 13_network_sleep_wake.md). -/
def NM_SEG_CFG1 (i : Nat) : Nat := 0x05230104 + i * 0x20
def NM_SEG_CFG1_NEED_MASK (i : Nat) : RF := ⟨NM_SEG_CFG1 i, 0, 19⟩

/-- NM_SEG_TIME (R384, 13_network_sleep_wake.md). -/
def NM_SEG_TIME (i : Nat) : Nat := 0x05230108 + i * 0x20
def NM_SEG_TIME_T_TYP (i : Nat) : RF := ⟨NM_SEG_TIME i, 0, 8⟩
def NM_SEG_TIME_T_MAX (i : Nat) : RF := ⟨NM_SEG_TIME i, 8, 8⟩
def NM_SEG_TIME_T_WAIT_BUS_SLEEP (i : Nat) : RF := ⟨NM_SEG_TIME i, 16, 8⟩
def NM_SEG_TIME_LISTEN_T (i : Nat) : RF := ⟨NM_SEG_TIME i, 24, 8⟩

/-- NM_SEG_CTL (R384, 13_network_sleep_wake.md). -/
def NM_SEG_CTL (i : Nat) : Nat := 0x0523010C + i * 0x20
def NM_SEG_CTL_AWAKE (i : Nat) : RF := ⟨NM_SEG_CTL i, 0, 1⟩

/-- NM_SEG_STAT (R384, 13_network_sleep_wake.md). -/
def NM_SEG_STAT (i : Nat) : Nat := 0x05230110 + i * 0x20
def NM_SEG_STAT_STATE (i : Nat) : RF := ⟨NM_SEG_STAT i, 0, 3⟩
def NM_SEG_STAT_SLEEP_IND (i : Nat) : RF := ⟨NM_SEG_STAT i, 3, 1⟩
def NM_SEG_STAT_SUCCESSOR (i : Nat) : RF := ⟨NM_SEG_STAT i, 4, 6⟩
def NM_SEG_STAT_LAST_CAUSE (i : Nat) : RF := ⟨NM_SEG_STAT i, 16, 8⟩

/-- NM_SEG_MEMBERS_LO (R384, 13_network_sleep_wake.md). -/
def NM_SEG_MEMBERS_LO (i : Nat) : Nat := 0x05230114 + i * 0x20
def NM_SEG_MEMBERS_LO_MEMBERS (i : Nat) : RF := ⟨NM_SEG_MEMBERS_LO i, 0, 32⟩

/-- NM_SEG_MEMBERS_HI (R384, 13_network_sleep_wake.md). -/
def NM_SEG_MEMBERS_HI (i : Nat) : Nat := 0x05230118 + i * 0x20
def NM_SEG_MEMBERS_HI_MEMBERS (i : Nat) : RF := ⟨NM_SEG_MEMBERS_HI i, 0, 32⟩

/-- NM_SEG_CNT (R384, 13_network_sleep_wake.md). -/
def NM_SEG_CNT (i : Nat) : Nat := 0x0523011C + i * 0x20
def NM_SEG_CNT_WAKES (i : Nat) : RF := ⟨NM_SEG_CNT i, 0, 8⟩
def NM_SEG_CNT_LATE_WAKES (i : Nat) : RF := ⟨NM_SEG_CNT i, 8, 8⟩
def NM_SEG_CNT_RING_BROKEN (i : Nat) : RF := ⟨NM_SEG_CNT i, 16, 8⟩
def NM_SEG_CNT_SLEEPS (i : Nat) : RF := ⟨NM_SEG_CNT i, 24, 8⟩

/-- NM_INS_KEY (R384, 13_network_sleep_wake.md). -/
def NM_INS_KEY (i : Nat) : Nat := 0x05231000 + i * 0x10
def NM_INS_KEY_SEGMENT (i : Nat) : RF := ⟨NM_INS_KEY i, 0, 5⟩
def NM_INS_KEY_NODE (i : Nat) : RF := ⟨NM_INS_KEY i, 5, 6⟩
def NM_INS_KEY_VALID (i : Nat) : RF := ⟨NM_INS_KEY i, 31, 1⟩

/-- NM_INS_CNT (R384, 13_network_sleep_wake.md). -/
def NM_INS_CNT (i : Nat) : Nat := 0x05231004 + i * 0x10
def NM_INS_CNT_EVENTS (i : Nat) : RF := ⟨NM_INS_CNT i, 0, 16⟩
def NM_INS_CNT_LONGEST (i : Nat) : RF := ⟨NM_INS_CNT i, 16, 16⟩

/-- NM_INS_STAMP_LO (R384, 13_network_sleep_wake.md). -/
def NM_INS_STAMP_LO (i : Nat) : Nat := 0x05231008 + i * 0x10
def NM_INS_STAMP_LO_STAMP (i : Nat) : RF := ⟨NM_INS_STAMP_LO i, 0, 32⟩

/-- NM_INS_STAMP_HI (R384, 13_network_sleep_wake.md). -/
def NM_INS_STAMP_HI (i : Nat) : Nat := 0x0523100C + i * 0x10
def NM_INS_STAMP_HI_STAMP (i : Nat) : RF := ⟨NM_INS_STAMP_HI i, 0, 32⟩

/-! Registers of spec/14_trunk_bridge.md -/

/-- BRG_CFG (R405, 14_trunk_bridge.md). -/
def BRG_CFG : Nat := 0x05250010
def BRG_CFG_PF_EN : RF := ⟨BRG_CFG, 0, 1⟩
def BRG_CFG_PF_LIFE_US : RF := ⟨BRG_CFG, 8, 8⟩

/-- BRG_STOP0 (R405, 14_trunk_bridge.md). -/
def BRG_STOP0 : Nat := 0x05250014
def BRG_STOP0_ENG : RF := ⟨BRG_STOP0, 0, 32⟩

/-- BRG_STOP1 (R405, 14_trunk_bridge.md). -/
def BRG_STOP1 : Nat := 0x05250018
def BRG_STOP1_ENG : RF := ⟨BRG_STOP1, 0, 16⟩
def BRG_STOP1_SES : RF := ⟨BRG_STOP1, 16, 8⟩

/-- BRG_STOPPED0 (R405, 14_trunk_bridge.md). -/
def BRG_STOPPED0 : Nat := 0x0525001C
def BRG_STOPPED0_STOPPED : RF := ⟨BRG_STOPPED0, 0, 32⟩

/-- BRG_STOPPED1 (R405, 14_trunk_bridge.md). -/
def BRG_STOPPED1 : Nat := 0x05250020
def BRG_STOPPED1_STOPPED : RF := ⟨BRG_STOPPED1, 0, 24⟩

/-- BRG_PEL_STAT (R405, 14_trunk_bridge.md). -/
def BRG_PEL_STAT : Nat := 0x05250030
def BRG_PEL_STAT_COUNT : RF := ⟨BRG_PEL_STAT, 0, 4⟩
def BRG_PEL_STAT_RESET_LOST : RF := ⟨BRG_PEL_STAT, 8, 8⟩
def BRG_PEL_STAT_OVF : RF := ⟨BRG_PEL_STAT, 16, 16⟩

/-- BRG_SPEC_REFUSED_CNT (R405, 14_trunk_bridge.md). -/
def BRG_SPEC_REFUSED_CNT : Nat := 0x05250034
def BRG_SPEC_REFUSED_CNT_COUNT : RF := ⟨BRG_SPEC_REFUSED_CNT, 0, 32⟩

/-- BRG_ACC_CNT0 (R405, 14_trunk_bridge.md). -/
def BRG_ACC_CNT0 : Nat := 0x05250038
def BRG_ACC_CNT0_READS : RF := ⟨BRG_ACC_CNT0, 0, 16⟩
def BRG_ACC_CNT0_SPEC_READS : RF := ⟨BRG_ACC_CNT0, 16, 16⟩

/-- BRG_ACC_CNT1 (R405, 14_trunk_bridge.md). -/
def BRG_ACC_CNT1 : Nat := 0x0525003C
def BRG_ACC_CNT1_WRITES : RF := ⟨BRG_ACC_CNT1, 0, 16⟩
def BRG_ACC_CNT1_POSTED : RF := ⟨BRG_ACC_CNT1, 16, 16⟩

/-- BRG_RANGE_BASE (R405, 14_trunk_bridge.md). -/
def BRG_RANGE_BASE (i : Nat) : Nat := 0x05250100 + i * 0x10
def BRG_RANGE_BASE_BASE (i : Nat) : RF := ⟨BRG_RANGE_BASE i, 12, 20⟩

/-- BRG_RANGE_LIMIT (R405, 14_trunk_bridge.md). -/
def BRG_RANGE_LIMIT (i : Nat) : Nat := 0x05250104 + i * 0x10
def BRG_RANGE_LIMIT_ONES (i : Nat) : RF := ⟨BRG_RANGE_LIMIT i, 0, 12⟩
def BRG_RANGE_LIMIT_LIMIT (i : Nat) : RF := ⟨BRG_RANGE_LIMIT i, 12, 20⟩

/-- BRG_RANGE_ATTR (R405, 14_trunk_bridge.md). -/
def BRG_RANGE_ATTR (i : Nat) : Nat := 0x05250108 + i * 0x10
def BRG_RANGE_ATTR_VALID (i : Nat) : RF := ⟨BRG_RANGE_ATTR i, 0, 1⟩
def BRG_RANGE_ATTR_SEF (i : Nat) : RF := ⟨BRG_RANGE_ATTR i, 1, 1⟩
def BRG_RANGE_ATTR_POSTED (i : Nat) : RF := ⟨BRG_RANGE_ATTR i, 2, 1⟩

/-- BRG_PEL_ADDR (R405, 14_trunk_bridge.md). -/
def BRG_PEL_ADDR (i : Nat) : Nat := 0x05250400 + i * 0x10
def BRG_PEL_ADDR_ADDR (i : Nat) : RF := ⟨BRG_PEL_ADDR i, 0, 32⟩

/-- BRG_PEL_INFO (R405, 14_trunk_bridge.md). -/
def BRG_PEL_INFO (i : Nat) : Nat := 0x05250404 + i * 0x10
def BRG_PEL_INFO_INIT (i : Nat) : RF := ⟨BRG_PEL_INFO i, 0, 8⟩
def BRG_PEL_INFO_SIZE (i : Nat) : RF := ⟨BRG_PEL_INFO i, 8, 7⟩
def BRG_PEL_INFO_STATUS (i : Nat) : RF := ⟨BRG_PEL_INFO i, 16, 8⟩
def BRG_PEL_INFO_BRIDGE (i : Nat) : RF := ⟨BRG_PEL_INFO i, 24, 1⟩
def BRG_PEL_INFO_VALID (i : Nat) : RF := ⟨BRG_PEL_INFO i, 31, 1⟩

/-- BRG_PEL_STAMP_LO (R405, 14_trunk_bridge.md). -/
def BRG_PEL_STAMP_LO (i : Nat) : Nat := 0x05250408 + i * 0x10
def BRG_PEL_STAMP_LO_STAMP (i : Nat) : RF := ⟨BRG_PEL_STAMP_LO i, 0, 32⟩

/-- BRG_PEL_STAMP_HI (R405, 14_trunk_bridge.md). -/
def BRG_PEL_STAMP_HI (i : Nat) : Nat := 0x0525040C + i * 0x10
def BRG_PEL_STAMP_HI_STAMP (i : Nat) : RF := ⟨BRG_PEL_STAMP_HI i, 0, 32⟩

/-- BRG_PEL_POP (R405, 14_trunk_bridge.md). -/
def BRG_PEL_POP (i : Nat) : Nat := 0x05250500 + i * 0x4
def BRG_PEL_POP_RECORD (i : Nat) : RF := ⟨BRG_PEL_POP i, 0, 32⟩

/-! Registers of spec/15_inputs_measurement.md -/

/-- INP_LEVEL (R415, 15_inputs_measurement.md). -/
def INP_LEVEL (i : Nat) : Nat := 0x05260010 + i * 0x4
def INP_LEVEL_LEVEL (i : Nat) : RF := ⟨INP_LEVEL i, 0, 32⟩

/-- INP_CHG (R415, 15_inputs_measurement.md). -/
def INP_CHG (i : Nat) : Nat := 0x05260020 + i * 0x8
def INP_CHG_CHG (i : Nat) : RF := ⟨INP_CHG i, 0, 32⟩

/-- INP_CHG_CNT (R415, 15_inputs_measurement.md). -/
def INP_CHG_CNT (i : Nat) : Nat := 0x05260024 + i * 0x8
def INP_CHG_CNT_COUNT (i : Nat) : RF := ⟨INP_CHG_CNT i, 0, 8⟩

/-- INP_WAKE_SRC (R415, 15_inputs_measurement.md). -/
def INP_WAKE_SRC (i : Nat) : Nat := 0x05260040 + i * 0x4
def INP_WAKE_SRC_SRC (i : Nat) : RF := ⟨INP_WAKE_SRC i, 0, 32⟩

/-- INP_WAKE_SRC_CNT (R415, 15_inputs_measurement.md). -/
def INP_WAKE_SRC_CNT (i : Nat) : Nat := 0x05260054 + i * 0x4
def INP_WAKE_SRC_CNT_COUNT (i : Nat) : RF := ⟨INP_WAKE_SRC_CNT i, 0, 8⟩

/-- INP_STAT (R415, 15_inputs_measurement.md). -/
def INP_STAT : Nat := 0x05260050
def INP_STAT_READY : RF := ⟨INP_STAT, 0, 1⟩

/-- INP_HC_KCFG (R415, 15_inputs_measurement.md). -/
def INP_HC_KCFG (i : Nat) : Nat := 0x05260070 + i * 0x8
def INP_HC_KCFG_TOUCH_TH (i : Nat) : RF := ⟨INP_HC_KCFG i, 0, 16⟩
def INP_HC_KCFG_REL_HYST (i : Nat) : RF := ⟨INP_HC_KCFG i, 16, 8⟩
def INP_HC_KCFG_DRIFT (i : Nat) : RF := ⟨INP_HC_KCFG i, 24, 8⟩

/-- INP_HC_VAL (R415, 15_inputs_measurement.md). -/
def INP_HC_VAL (i : Nat) : Nat := 0x05260074 + i * 0x8
def INP_HC_VAL_COUNT (i : Nat) : RF := ⟨INP_HC_VAL i, 0, 16⟩
def INP_HC_VAL_BASELINE (i : Nat) : RF := ⟨INP_HC_VAL i, 16, 16⟩

/-- MEAS_CFG (R428, 15_inputs_measurement.md). -/
def MEAS_CFG : Nat := 0x05270010
def MEAS_CFG_SCAN_MS : RF := ⟨MEAS_CFG, 0, 7⟩
def MEAS_CFG_AVG : RF := ⟨MEAS_CFG, 7, 2⟩

/-- MEAS_ACCESS (R428, 15_inputs_measurement.md). -/
def MEAS_ACCESS : Nat := 0x05270014
def MEAS_ACCESS_OWNER : RF := ⟨MEAS_ACCESS, 0, 8⟩
def MEAS_ACCESS_ZRT_GRANT : RF := ⟨MEAS_ACCESS, 8, 8⟩

/-- MEAS_SENS_CTL (R428, 15_inputs_measurement.md). -/
def MEAS_SENS_CTL : Nat := 0x05270018
def MEAS_SENS_CTL_EN0 : RF := ⟨MEAS_SENS_CTL, 0, 1⟩
def MEAS_SENS_CTL_EN1 : RF := ⟨MEAS_SENS_CTL, 1, 1⟩
def MEAS_SENS_CTL_SLEEP_KEEP0 : RF := ⟨MEAS_SENS_CTL, 2, 1⟩
def MEAS_SENS_CTL_SLEEP_KEEP1 : RF := ⟨MEAS_SENS_CTL, 3, 1⟩

/-- MEAS_REFUSE (R428, 15_inputs_measurement.md). -/
def MEAS_REFUSE : Nat := 0x0527001C
def MEAS_REFUSE_COUNT : RF := ⟨MEAS_REFUSE, 0, 16⟩
def MEAS_REFUSE_LAST_INIT : RF := ⟨MEAS_REFUSE, 16, 8⟩

/-- MEAS_FLAG (R428, 15_inputs_measurement.md). -/
def MEAS_FLAG : Nat := 0x05270020
def MEAS_FLAG_SENS_OC0 : RF := ⟨MEAS_FLAG, 0, 1⟩
def MEAS_FLAG_SENS_OC1 : RF := ⟨MEAS_FLAG, 1, 1⟩
def MEAS_FLAG_SENS_BACKFEED0 : RF := ⟨MEAS_FLAG, 2, 1⟩
def MEAS_FLAG_SENS_BACKFEED1 : RF := ⟨MEAS_FLAG, 3, 1⟩
def MEAS_FLAG_TEMP_FALLBACK : RF := ⟨MEAS_FLAG, 4, 1⟩

/-- MEAS_FLAG_CNT (R428, 15_inputs_measurement.md). -/
def MEAS_FLAG_CNT : Nat := 0x05270024
def MEAS_FLAG_CNT_COUNT : RF := ⟨MEAS_FLAG_CNT, 0, 8⟩

/-- MEAS_CUE_MAP (R428, 15_inputs_measurement.md). -/
def MEAS_CUE_MAP (i : Nat) : Nat := 0x05270040 + i * 0x4
def MEAS_CUE_MAP_SLOT (i : Nat) : RF := ⟨MEAS_CUE_MAP i, 0, 8⟩
def MEAS_CUE_MAP_RECEIVER (i : Nat) : RF := ⟨MEAS_CUE_MAP i, 8, 8⟩
def MEAS_CUE_MAP_VALID (i : Nat) : RF := ⟨MEAS_CUE_MAP i, 16, 1⟩

/-- MEAS_TCFG (R428, 15_inputs_measurement.md). -/
def MEAS_TCFG (i : Nat) : Nat := 0x05270400 + i * 0x4
def MEAS_TCFG_SRC (i : Nat) : RF := ⟨MEAS_TCFG i, 0, 2⟩
def MEAS_TCFG_INDEX (i : Nat) : RF := ⟨MEAS_TCFG i, 2, 7⟩
def MEAS_TCFG_CURVE (i : Nat) : RF := ⟨MEAS_TCFG i, 9, 2⟩
def MEAS_TCFG_FALLBACK (i : Nat) : RF := ⟨MEAS_TCFG i, 12, 8⟩
def MEAS_TCFG_STALE_S (i : Nat) : RF := ⟨MEAS_TCFG i, 20, 8⟩

/-- MEAS_TWR (R428, 15_inputs_measurement.md). -/
def MEAS_TWR (i : Nat) : Nat := 0x05270600 + i * 0x4
def MEAS_TWR_VALUE (i : Nat) : RF := ⟨MEAS_TWR i, 0, 16⟩

/-- MEAS_CURVE_P (R428, 15_inputs_measurement.md). -/
def MEAS_CURVE_P (i j : Nat) : Nat := 0x05270800 + i * 0x40 + j * 0x4
def MEAS_CURVE_P_MV (i j : Nat) : RF := ⟨MEAS_CURVE_P i j, 0, 16⟩
def MEAS_CURVE_P_TEMP (i j : Nat) : RF := ⟨MEAS_CURVE_P i j, 16, 16⟩

/-! Registers of spec/16_access_immobiliser.md -/

/-- ACC_CFG (R451, 16_access_immobiliser.md). -/
def ACC_CFG : Nat := 0x05280010
def ACC_CFG_VEH_ID : RF := ⟨ACC_CFG, 0, 16⟩
def ACC_CFG_WAKE_B : RF := ⟨ACC_CFG, 16, 8⟩
def ACC_CFG_WAKE_A : RF := ⟨ACC_CFG, 24, 8⟩

/-- ACC_CFG2 (R451, 16_access_immobiliser.md). -/
def ACC_CFG2 : Nat := 0x05280014
def ACC_CFG2_UHF_LAT : RF := ⟨ACC_CFG2, 0, 11⟩
def ACC_CFG2_TOL_US : RF := ⟨ACC_CFG2, 11, 5⟩
def ACC_CFG2_SCK : RF := ⟨ACC_CFG2, 16, 2⟩
def ACC_CFG2_RD_CMD : RF := ⟨ACC_CFG2, 18, 8⟩
def ACC_CFG2_JAM_N : RF := ⟨ACC_CFG2, 26, 3⟩

/-- ACC_CFG3 (R451, 16_access_immobiliser.md). -/
def ACC_CFG3 : Nat := 0x05280018
def ACC_CFG3_OWNER : RF := ⟨ACC_CFG3, 0, 8⟩
def ACC_CFG3_ZRT_GRANT : RF := ⟨ACC_CFG3, 8, 8⟩
def ACC_CFG3_PARK_DAYS : RF := ⟨ACC_CFG3, 16, 6⟩
def ACC_CFG3_SEARCH_EN : RF := ⟨ACC_CFG3, 22, 1⟩
def ACC_CFG3_UHF_WARM : RF := ⟨ACC_CFG3, 23, 8⟩

/-- ACC_LF_CFG (R451, 16_access_immobiliser.md). -/
def ACC_LF_CFG : Nat := 0x0528001C
def ACC_LF_CFG_LF_I : RF := ⟨ACC_LF_CFG, 0, 4⟩
def ACC_LF_CFG_ANT_EN : RF := ⟨ACC_LF_CFG, 4, 6⟩

/-- ACC_HC_MAP (R451, 16_access_immobiliser.md). -/
def ACC_HC_MAP : Nat := 0x05280020
def ACC_HC_MAP_ANT_0 : RF := ⟨ACC_HC_MAP, 0, 6⟩
def ACC_HC_MAP_DOOR_0 : RF := ⟨ACC_HC_MAP, 6, 2⟩
def ACC_HC_MAP_ANT_1 : RF := ⟨ACC_HC_MAP, 8, 6⟩
def ACC_HC_MAP_DOOR_1 : RF := ⟨ACC_HC_MAP, 14, 2⟩
def ACC_HC_MAP_ANT_2 : RF := ⟨ACC_HC_MAP, 16, 6⟩
def ACC_HC_MAP_DOOR_2 : RF := ⟨ACC_HC_MAP, 22, 2⟩
def ACC_HC_MAP_ANT_3 : RF := ⟨ACC_HC_MAP, 24, 6⟩
def ACC_HC_MAP_DOOR_3 : RF := ⟨ACC_HC_MAP, 30, 2⟩

/-- ACC_AUTH_CFG (R451, 16_access_immobiliser.md). -/
def ACC_AUTH_CFG : Nat := 0x05280024
def ACC_AUTH_CFG_AUTH_T : RF := ⟨ACC_AUTH_CFG, 0, 10⟩
def ACC_AUTH_CFG_GRANT_WIN : RF := ⟨ACC_AUTH_CFG, 10, 6⟩
def ACC_AUTH_CFG_REL_ETH : RF := ⟨ACC_AUTH_CFG, 16, 1⟩

/-- ACC_REL_ID (R451, 16_access_immobiliser.md). -/
def ACC_REL_ID : Nat := 0x05280028
def ACC_REL_ID_REL_ID : RF := ⟨ACC_REL_ID, 0, 29⟩
def ACC_REL_ID_IDE : RF := ⟨ACC_REL_ID, 29, 1⟩

/-- ACC_POLL_REQ (R451, 16_access_immobiliser.md). -/
def ACC_POLL_REQ : Nat := 0x05280030
def ACC_POLL_REQ_ANT : RF := ⟨ACC_POLL_REQ, 0, 6⟩
def ACC_POLL_REQ_TAG : RF := ⟨ACC_POLL_REQ, 8, 8⟩
def ACC_POLL_REQ_GO : RF := ⟨ACC_POLL_REQ, 31, 1⟩

/-- ACC_POLL_STAT (R451, 16_access_immobiliser.md). -/
def ACC_POLL_STAT : Nat := 0x05280034
def ACC_POLL_STAT_STATE : RF := ⟨ACC_POLL_STAT, 0, 2⟩
def ACC_POLL_STAT_ROUND : RF := ⟨ACC_POLL_STAT, 2, 3⟩
def ACC_POLL_STAT_POLL_SEQ : RF := ⟨ACC_POLL_STAT, 16, 16⟩

/-- ACC_PRESENT (R451, 16_access_immobiliser.md). -/
def ACC_PRESENT : Nat := 0x05280038
def ACC_PRESENT_PRESENT : RF := ⟨ACC_PRESENT, 0, 8⟩
def ACC_PRESENT_SESSION : RF := ⟨ACC_PRESENT, 8, 3⟩
def ACC_PRESENT_VALID : RF := ⟨ACC_PRESENT, 11, 1⟩
def ACC_PRESENT_OUTCOME : RF := ⟨ACC_PRESENT, 12, 4⟩
def ACC_PRESENT_POLL_SEQ : RF := ⟨ACC_PRESENT, 16, 16⟩

/-- ACC_LF_STAT (R451, 16_access_immobiliser.md). -/
def ACC_LF_STAT : Nat := 0x0528003C
def ACC_LF_STAT_OPEN : RF := ⟨ACC_LF_STAT, 0, 6⟩
def ACC_LF_STAT_SHORT : RF := ⟨ACC_LF_STAT, 6, 6⟩

/-- ACC_AUTH_CTL (R451, 16_access_immobiliser.md). -/
def ACC_AUTH_CTL : Nat := 0x05280040
def ACC_AUTH_CTL_GRANT : RF := ⟨ACC_AUTH_CTL, 0, 1⟩
def ACC_AUTH_CTL_END : RF := ⟨ACC_AUTH_CTL, 1, 1⟩

/-- ACC_AUTH_STAT (R451, 16_access_immobiliser.md). -/
def ACC_AUTH_STAT : Nat := 0x05280044
def ACC_AUTH_STAT_ACTIVE : RF := ⟨ACC_AUTH_STAT, 0, 1⟩
def ACC_AUTH_STAT_WITHDRAWING : RF := ⟨ACC_AUTH_STAT, 1, 1⟩
def ACC_AUTH_STAT_TOKEN : RF := ⟨ACC_AUTH_STAT, 2, 3⟩
def ACC_AUTH_STAT_LEFT : RF := ⟨ACC_AUTH_STAT, 8, 13⟩

/-- ACC_REL_CTR (R451, 16_access_immobiliser.md). -/
def ACC_REL_CTR : Nat := 0x05280048
def ACC_REL_CTR_CTR : RF := ⟨ACC_REL_CTR, 0, 32⟩

/-- ACC_TOKEN_STAT (R451, 16_access_immobiliser.md). -/
def ACC_TOKEN_STAT : Nat := 0x05280050
def ACC_TOKEN_STAT_STATES : RF := ⟨ACC_TOKEN_STAT, 0, 16⟩
def ACC_TOKEN_STAT_ENROL_USED : RF := ⟨ACC_TOKEN_STAT, 16, 8⟩
def ACC_TOKEN_STAT_LOCK_H : RF := ⟨ACC_TOKEN_STAT, 24, 8⟩

/-- ACC_LEARN_CTL (R451, 16_access_immobiliser.md). -/
def ACC_LEARN_CTL : Nat := 0x05280054
def ACC_LEARN_CTL_INDEX : RF := ⟨ACC_LEARN_CTL, 0, 3⟩
def ACC_LEARN_CTL_AUTH : RF := ⟨ACC_LEARN_CTL, 3, 2⟩
def ACC_LEARN_CTL_OP : RF := ⟨ACC_LEARN_CTL, 5, 2⟩
def ACC_LEARN_CTL_GO : RF := ⟨ACC_LEARN_CTL, 7, 1⟩

/-- ACC_LEARN_STAT (R451, 16_access_immobiliser.md). -/
def ACC_LEARN_STAT : Nat := 0x05280058
def ACC_LEARN_STAT_STATE : RF := ⟨ACC_LEARN_STAT, 0, 3⟩
def ACC_LEARN_STAT_RESULT : RF := ⟨ACC_LEARN_STAT, 4, 4⟩
def ACC_LEARN_STAT_FAILS : RF := ⟨ACC_LEARN_STAT, 8, 4⟩

/-- ACC_LEARN_CHAL (R451, 16_access_immobiliser.md). -/
def ACC_LEARN_CHAL (i : Nat) : Nat := 0x05280060 + i * 0x4
def ACC_LEARN_CHAL_CHAL (i : Nat) : RF := ⟨ACC_LEARN_CHAL i, 0, 32⟩

/-- ACC_LEARN_RESP (R451, 16_access_immobiliser.md). -/
def ACC_LEARN_RESP (i : Nat) : Nat := 0x05280070 + i * 0x4
def ACC_LEARN_RESP_RESP (i : Nat) : RF := ⟨ACC_LEARN_RESP i, 0, 32⟩

/-- ACC_FLAG (R451, 16_access_immobiliser.md). -/
def ACC_FLAG : Nat := 0x05280080
def ACC_FLAG_COLLISION : RF := ⟨ACC_FLAG, 0, 1⟩
def ACC_FLAG_INVALID : RF := ⟨ACC_FLAG, 1, 1⟩
def ACC_FLAG_RELAY : RF := ⟨ACC_FLAG, 2, 1⟩
def ACC_FLAG_JAMMING : RF := ⟨ACC_FLAG, 3, 1⟩
def ACC_FLAG_LF_FAULT : RF := ⟨ACC_FLAG, 4, 1⟩
def ACC_FLAG_SEARCH_STOPPED : RF := ⟨ACC_FLAG, 5, 1⟩
def ACC_FLAG_SEARCH_WAKE : RF := ⟨ACC_FLAG, 6, 1⟩
def ACC_FLAG_LEARN_FAIL : RF := ⟨ACC_FLAG, 7, 1⟩
def ACC_FLAG_REL_EXHAUSTED : RF := ⟨ACC_FLAG, 8, 1⟩
def ACC_FLAG_AUTH_END : RF := ⟨ACC_FLAG, 9, 1⟩

/-- ACC_FLAG_CNT (R451, 16_access_immobiliser.md). -/
def ACC_FLAG_CNT : Nat := 0x05280084
def ACC_FLAG_CNT_COUNT : RF := ⟨ACC_FLAG_CNT, 0, 8⟩

/-- ACC_CNT0 (R451, 16_access_immobiliser.md). -/
def ACC_CNT0 : Nat := 0x05280088
def ACC_CNT0_INVALID : RF := ⟨ACC_CNT0, 0, 16⟩
def ACC_CNT0_COLLISIONS : RF := ⟨ACC_CNT0, 16, 16⟩

/-- ACC_CNT1 (R451, 16_access_immobiliser.md). -/
def ACC_CNT1 : Nat := 0x0528008C
def ACC_CNT1_RELAY : RF := ⟨ACC_CNT1, 0, 16⟩
def ACC_CNT1_STRAY : RF := ⟨ACC_CNT1, 16, 8⟩
def ACC_CNT1_JAMS : RF := ⟨ACC_CNT1, 24, 8⟩

/-- ACC_REFUSE (R451, 16_access_immobiliser.md). -/
def ACC_REFUSE : Nat := 0x05280090
def ACC_REFUSE_COUNT : RF := ⟨ACC_REFUSE, 0, 16⟩
def ACC_REFUSE_LAST_INIT : RF := ⟨ACC_REFUSE, 16, 8⟩

/-! Registers of spec/17_isolated_io.md -/

/-- ISO_CFG (R464, 17_isolated_io.md). -/
def ISO_CFG : Nat := 0x05290010
def ISO_CFG_TIMEOUT : RF := ⟨ISO_CFG, 0, 8⟩
def ISO_CFG_SAFE : RF := ⟨ISO_CFG, 16, 16⟩

/-- ISO_ACCESS (R464, 17_isolated_io.md). -/
def ISO_ACCESS : Nat := 0x05290014
def ISO_ACCESS_OWNER : RF := ⟨ISO_ACCESS, 0, 8⟩
def ISO_ACCESS_ZRT_GRANT : RF := ⟨ISO_ACCESS, 8, 8⟩

/-- ISO_IN_CFG (R464, 17_isolated_io.md). -/
def ISO_IN_CFG : Nat := 0x05290018
def ISO_IN_CFG_FILT : RF := ⟨ISO_IN_CFG, 0, 5⟩
def ISO_IN_CFG_CUE : RF := ⟨ISO_IN_CFG, 5, 2⟩
def ISO_IN_CFG_CUE_MASK : RF := ⟨ISO_IN_CFG, 16, 16⟩

/-- ISO_OUT (R464, 17_isolated_io.md). -/
def ISO_OUT : Nat := 0x05290020
def ISO_OUT_OUT : RF := ⟨ISO_OUT, 0, 16⟩

/-- ISO_IN (R464, 17_isolated_io.md). -/
def ISO_IN : Nat := 0x05290024
def ISO_IN_IN : RF := ⟨ISO_IN, 0, 16⟩

/-- ISO_STAT (R464, 17_isolated_io.md). -/
def ISO_STAT : Nat := 0x05290028
def ISO_STAT_STATE : RF := ⟨ISO_STAT, 0, 2⟩
def ISO_STAT_FAULT : RF := ⟨ISO_STAT, 2, 1⟩
def ISO_STAT_SAFE_ACTIVE : RF := ⟨ISO_STAT, 3, 1⟩
def ISO_STAT_CFG_GEN : RF := ⟨ISO_STAT, 4, 4⟩

/-- ISO_FLAG (R464, 17_isolated_io.md). -/
def ISO_FLAG : Nat := 0x0529002C
def ISO_FLAG_ISO_FAULT : RF := ⟨ISO_FLAG, 0, 1⟩

/-- ISO_FLAG_CNT (R464, 17_isolated_io.md). -/
def ISO_FLAG_CNT : Nat := 0x05290030
def ISO_FLAG_CNT_COUNT : RF := ⟨ISO_FLAG_CNT, 0, 8⟩

/-- ISO_CTL (R464, 17_isolated_io.md). -/
def ISO_CTL : Nat := 0x05290034
def ISO_CTL_FORCE_SAFE : RF := ⟨ISO_CTL, 0, 1⟩

/-- ISO_REFUSE (R464, 17_isolated_io.md). -/
def ISO_REFUSE : Nat := 0x05290038
def ISO_REFUSE_COUNT : RF := ⟨ISO_REFUSE, 0, 16⟩
def ISO_REFUSE_LAST_INIT : RF := ⟨ISO_REFUSE, 16, 8⟩

/-! Registers of spec/18_strongroom_security.md -/

/-- STR_DROP_CNT (R486, 18_strongroom_security.md). -/
def STR_DROP_CNT : Nat := 0x06000030
def STR_DROP_CNT_COUNT : RF := ⟨STR_DROP_CNT, 0, 16⟩
def STR_DROP_CNT_LAST_INIT : RF := ⟨STR_DROP_CNT, 16, 8⟩

/-- STR_DROP_ADDR (R486, 18_strongroom_security.md). -/
def STR_DROP_ADDR : Nat := 0x06000034
def STR_DROP_ADDR_ADDR : RF := ⟨STR_DROP_ADDR, 0, 32⟩

/-- STR_LIFECYCLE (R486, 18_strongroom_security.md). -/
def STR_LIFECYCLE : Nat := 0x06000040
def STR_LIFECYCLE_STATE : RF := ⟨STR_LIFECYCLE, 0, 2⟩
def STR_LIFECYCLE_DEBUG_OPEN : RF := ⟨STR_LIFECYCLE, 2, 1⟩
def STR_LIFECYCLE_METHOD : RF := ⟨STR_LIFECYCLE, 3, 2⟩

/-- STR_DBG_STAT (R486, 18_strongroom_security.md). -/
def STR_DBG_STAT : Nat := 0x06000044
def STR_DBG_STAT_FAILS : RF := ⟨STR_DBG_STAT, 0, 8⟩
def STR_DBG_STAT_BACKOFF_MIN : RF := ⟨STR_DBG_STAT, 8, 16⟩

/-- STR_SCRIPT_VERDICT (R486, 18_strongroom_security.md). -/
def STR_SCRIPT_VERDICT : Nat := 0x06000048
def STR_SCRIPT_VERDICT_SLOT : RF := ⟨STR_SCRIPT_VERDICT, 0, 1⟩
def STR_SCRIPT_VERDICT_VALID : RF := ⟨STR_SCRIPT_VERDICT, 1, 1⟩
def STR_SCRIPT_VERDICT_TRIAL : RF := ⟨STR_SCRIPT_VERDICT, 2, 1⟩

/-- STR_RNG_STAT (R486, 18_strongroom_security.md). -/
def STR_RNG_STAT : Nat := 0x06000050
def STR_RNG_STAT_HEALTHY : RF := ⟨STR_RNG_STAT, 0, 1⟩
def STR_RNG_STAT_RESEEDS : RF := ⟨STR_RNG_STAT, 16, 16⟩

/-- STR_KEY (R486, 18_strongroom_security.md). -/
def STR_KEY (i : Nat) : Nat := 0x06000100 + i * 0x8
def STR_KEY_KIND (i : Nat) : RF := ⟨STR_KEY i, 0, 4⟩
def STR_KEY_STATE (i : Nat) : RF := ⟨STR_KEY i, 4, 2⟩
def STR_KEY_USE (i : Nat) : RF := ⟨STR_KEY i, 8, 4⟩
def STR_KEY_USER (i : Nat) : RF := ⟨STR_KEY i, 16, 8⟩
def STR_KEY_IMPORTS (i : Nat) : RF := ⟨STR_KEY i, 24, 8⟩

/-- STR_KEY_KCV (R486, 18_strongroom_security.md). -/
def STR_KEY_KCV (i : Nat) : Nat := 0x06000104 + i * 0x8
def STR_KEY_KCV_KCV (i : Nat) : RF := ⟨STR_KEY_KCV i, 0, 24⟩

/-- SYS_STR_REQ (R470, 18_strongroom_security.md). -/
def SYS_STR_REQ (i : Nat) : Nat := 0x052D1000 + i * 0x4
def SYS_STR_REQ_REQ (i : Nat) : RF := ⟨SYS_STR_REQ i, 0, 32⟩

/-- SYS_STR_REQ_STAT (R470, 18_strongroom_security.md). -/
def SYS_STR_REQ_STAT : Nat := 0x052D1010
def SYS_STR_REQ_STAT_QUEUED : RF := ⟨SYS_STR_REQ_STAT, 0, 5⟩
def SYS_STR_REQ_STAT_MALFORMED : RF := ⟨SYS_STR_REQ_STAT, 8, 8⟩
def SYS_STR_REQ_STAT_DROPPED : RF := ⟨SYS_STR_REQ_STAT, 16, 16⟩

/-! Registers of spec/19_script_store_update.md -/

/-- UPD_CFG (R515, 19_script_store_update.md). -/
def UPD_CFG : Nat := 0x052C0010
def UPD_CFG_MODE : RF := ⟨UPD_CFG, 0, 1⟩
def UPD_CFG_TRIAL_S : RF := ⟨UPD_CFG, 1, 10⟩
def UPD_CFG_OWNER : RF := ⟨UPD_CFG, 16, 8⟩
def UPD_CFG_ZRT_GRANT : RF := ⟨UPD_CFG, 24, 8⟩

/-- UPD_CMD (R515, 19_script_store_update.md). -/
def UPD_CMD : Nat := 0x052C0014
def UPD_CMD_CMD : RF := ⟨UPD_CMD, 0, 4⟩
def UPD_CMD_TYPE : RF := ⟨UPD_CMD, 8, 4⟩
def UPD_CMD_TARGET : RF := ⟨UPD_CMD, 12, 2⟩
def UPD_CMD_SLOT : RF := ⟨UPD_CMD, 14, 1⟩

/-- UPD_XFER_SRC (R515, 19_script_store_update.md). -/
def UPD_XFER_SRC : Nat := 0x052C0018
def UPD_XFER_SRC_SRC : RF := ⟨UPD_XFER_SRC, 0, 32⟩

/-- UPD_XFER_DST (R515, 19_script_store_update.md). -/
def UPD_XFER_DST : Nat := 0x052C001C
def UPD_XFER_DST_DST : RF := ⟨UPD_XFER_DST, 0, 23⟩

/-- UPD_XFER_LEN (R515, 19_script_store_update.md). -/
def UPD_XFER_LEN : Nat := 0x052C0020
def UPD_XFER_LEN_LEN : RF := ⟨UPD_XFER_LEN, 0, 17⟩

/-- UPD_STAT (R515, 19_script_store_update.md). -/
def UPD_STAT : Nat := 0x052C0024
def UPD_STAT_STATE : RF := ⟨UPD_STAT, 0, 3⟩
def UPD_STAT_BUSY : RF := ⟨UPD_STAT, 3, 1⟩
def UPD_STAT_RESULT : RF := ⟨UPD_STAT, 8, 8⟩
def UPD_STAT_RESETS : RF := ⟨UPD_STAT, 16, 2⟩
def UPD_STAT_TRIAL_LEFT : RF := ⟨UPD_STAT, 20, 12⟩

/-- UPD_SLOTS (R515, 19_script_store_update.md). -/
def UPD_SLOTS : Nat := 0x052C0028
def UPD_SLOTS_ACTIVE : RF := ⟨UPD_SLOTS, 0, 1⟩
def UPD_SLOTS_STATE_A : RF := ⟨UPD_SLOTS, 1, 3⟩
def UPD_SLOTS_STATE_B : RF := ⟨UPD_SLOTS, 4, 3⟩

/-- UPD_ACTIVE_GEN (R515, 19_script_store_update.md). -/
def UPD_ACTIVE_GEN : Nat := 0x052C002C
def UPD_ACTIVE_GEN_GEN : RF := ⟨UPD_ACTIVE_GEN, 0, 32⟩

/-- UPD_LAST_GEN (R515, 19_script_store_update.md). -/
def UPD_LAST_GEN : Nat := 0x052C0030
def UPD_LAST_GEN_GEN : RF := ⟨UPD_LAST_GEN, 0, 32⟩

/-- UPD_LAST (R515, 19_script_store_update.md). -/
def UPD_LAST : Nat := 0x052C0034
def UPD_LAST_OUTCOME : RF := ⟨UPD_LAST, 0, 2⟩
def UPD_LAST_CAUSE : RF := ⟨UPD_LAST, 4, 4⟩
def UPD_LAST_REFUSED : RF := ⟨UPD_LAST, 16, 16⟩

/-- UPD_LAZY (R515, 19_script_store_update.md). -/
def UPD_LAZY : Nat := 0x052C0038
def UPD_LAZY_PENDING : RF := ⟨UPD_LAZY, 0, 1⟩
def UPD_LAZY_IGNORED : RF := ⟨UPD_LAZY, 16, 16⟩

/-- UPD_REJ0 (R515, 19_script_store_update.md). -/
def UPD_REJ0 : Nat := 0x052C0040
def UPD_REJ0_REASON : RF := ⟨UPD_REJ0, 0, 8⟩
def UPD_REJ0_UNIT : RF := ⟨UPD_REJ0, 8, 8⟩
def UPD_REJ0_INSTANCE : RF := ⟨UPD_REJ0, 16, 8⟩
def UPD_REJ0_VALID : RF := ⟨UPD_REJ0, 31, 1⟩

/-- UPD_REJ1 (R515, 19_script_store_update.md). -/
def UPD_REJ1 : Nat := 0x052C0044
def UPD_REJ1_SECTION : RF := ⟨UPD_REJ1, 0, 16⟩
def UPD_REJ1_ITEM : RF := ⟨UPD_REJ1, 16, 16⟩

/-- UPD_REJ2 (R515, 19_script_store_update.md). -/
def UPD_REJ2 : Nat := 0x052C0048
def UPD_REJ2_OFFSET : RF := ⟨UPD_REJ2, 0, 32⟩

/-- UPD_REJ3 (R515, 19_script_store_update.md). -/
def UPD_REJ3 : Nat := 0x052C004C
def UPD_REJ3_CHK_TYPE : RF := ⟨UPD_REJ3, 0, 4⟩
def UPD_REJ3_CHK_TARGET : RF := ⟨UPD_REJ3, 4, 2⟩
def UPD_REJ3_CONF_TYPE : RF := ⟨UPD_REJ3, 8, 4⟩
def UPD_REJ3_CONF_TARGET : RF := ⟨UPD_REJ3, 12, 2⟩
def UPD_REJ3_MODULE : RF := ⟨UPD_REJ3, 16, 2⟩

/-- UPD_REJ4 (R515, 19_script_store_update.md). -/
def UPD_REJ4 : Nat := 0x052C0050
def UPD_REJ4_CONF_VERSION : RF := ⟨UPD_REJ4, 0, 32⟩

/-- UPD_FLAG (R515, 19_script_store_update.md). -/
def UPD_FLAG : Nat := 0x052C0060
def UPD_FLAG_REJECTED : RF := ⟨UPD_FLAG, 0, 1⟩
def UPD_FLAG_REVERTED : RF := ⟨UPD_FLAG, 1, 1⟩
def UPD_FLAG_SLOT_FALLBACK : RF := ⟨UPD_FLAG, 2, 1⟩
def UPD_FLAG_RECOVERY : RF := ⟨UPD_FLAG, 3, 1⟩
def UPD_FLAG_ACCEPTED : RF := ⟨UPD_FLAG, 4, 1⟩

/-- UPD_FLAG_CNT (R515, 19_script_store_update.md). -/
def UPD_FLAG_CNT : Nat := 0x052C0064
def UPD_FLAG_CNT_COUNT : RF := ⟨UPD_FLAG_CNT, 0, 8⟩

/-- UPD_VER_ACT (R515, 19_script_store_update.md). -/
def UPD_VER_ACT (i : Nat) : Nat := 0x052C0100 + i * 0x8
def UPD_VER_ACT_VER (i : Nat) : RF := ⟨UPD_VER_ACT i, 0, 32⟩

/-- UPD_VER_INA (R515, 19_script_store_update.md). -/
def UPD_VER_INA (i : Nat) : Nat := 0x052C0104 + i * 0x8
def UPD_VER_INA_VER (i : Nat) : RF := ⟨UPD_VER_INA i, 0, 32⟩

/-- NVM_STORE_REQ (R500, 19_script_store_update.md). -/
def NVM_STORE_REQ (i : Nat) : Nat := 0x07000010 + i * 0x4
def NVM_STORE_REQ_REQ (i : Nat) : RF := ⟨NVM_STORE_REQ i, 0, 32⟩

/-- NVM_STAT (R500, 19_script_store_update.md). -/
def NVM_STAT : Nat := 0x07000020
def NVM_STAT_QUEUED : RF := ⟨NVM_STAT, 0, 4⟩
def NVM_STAT_JOURNAL_FREE : RF := ⟨NVM_STAT, 8, 8⟩
def NVM_STAT_RECORDS : RF := ⟨NVM_STAT, 16, 16⟩

/-- NVM_CNT (R500, 19_script_store_update.md). -/
def NVM_CNT : Nat := 0x07000024
def NVM_CNT_STORES : RF := ⟨NVM_CNT, 0, 16⟩
def NVM_CNT_REFUSED : RF := ⟨NVM_CNT, 16, 16⟩

/-- NVM_FLAG (R500, 19_script_store_update.md). -/
def NVM_FLAG : Nat := 0x07000028
def NVM_FLAG_STORE_FAIL : RF := ⟨NVM_FLAG, 0, 1⟩
def NVM_FLAG_RESET_LOST : RF := ⟨NVM_FLAG, 1, 1⟩

/-- NVM_FLAG_CNT (R500, 19_script_store_update.md). -/
def NVM_FLAG_CNT : Nat := 0x0700002C
def NVM_FLAG_CNT_COUNT : RF := ⟨NVM_FLAG_CNT, 0, 8⟩

/-! Registers of spec/07_motors_solenoids.md -/

/-- CH_STREAM_RING (R194, 07_motors_solenoids.md). -/
def CH_STREAM_RING (i j : Nat) : Nat := 0x03000380 + i * 0x400 + j * 0x4
def CH_STREAM_RING_EVEN (i j : Nat) : RF := ⟨CH_STREAM_RING i j, 0, 16⟩
def CH_STREAM_RING_ODD (i j : Nat) : RF := ⟨CH_STREAM_RING i j, 16, 16⟩

/-! Registers of spec/03_supply_power_states.md -/

/-- PWR_REF_ROW (R92, 03_supply_power_states.md). -/
def PWR_REF_ROW (i : Nat) : Nat := 0x05010100 + i * 0x20
def PWR_REF_ROW_REFUSER (i : Nat) : RF := ⟨PWR_REF_ROW i, 0, 16⟩
def PWR_REF_ROW_REASON (i : Nat) : RF := ⟨PWR_REF_ROW i, 16, 8⟩
def PWR_REF_ROW_TARGET (i : Nat) : RF := ⟨PWR_REF_ROW i, 24, 2⟩
def PWR_REF_ROW_VALID (i : Nat) : RF := ⟨PWR_REF_ROW i, 31, 1⟩

/-- PWR_REF_CNT0 (R92, 03_supply_power_states.md). -/
def PWR_REF_CNT0 (i : Nat) : Nat := 0x05010104 + i * 0x20
def PWR_REF_CNT0_IDLE (i : Nat) : RF := ⟨PWR_REF_CNT0 i, 0, 16⟩
def PWR_REF_CNT0_SLEEP (i : Nat) : RF := ⟨PWR_REF_CNT0 i, 16, 16⟩

/-- PWR_REF_CNT1 (R92, 03_supply_power_states.md). -/
def PWR_REF_CNT1 (i : Nat) : Nat := 0x05010108 + i * 0x20
def PWR_REF_CNT1_DEEP (i : Nat) : RF := ⟨PWR_REF_CNT1 i, 0, 16⟩
def PWR_REF_CNT1_OFF (i : Nat) : RF := ⟨PWR_REF_CNT1 i, 16, 16⟩

/-- PWR_REF_STAMP_LO (R92, 03_supply_power_states.md). -/
def PWR_REF_STAMP_LO (i : Nat) : Nat := 0x05010110 + i * 0x20
def PWR_REF_STAMP_LO_STAMP (i : Nat) : RF := ⟨PWR_REF_STAMP_LO i, 0, 32⟩

/-- PWR_REF_STAMP_HI (R92, 03_supply_power_states.md). -/
def PWR_REF_STAMP_HI (i : Nat) : Nat := 0x05010114 + i * 0x20
def PWR_REF_STAMP_HI_STAMP (i : Nat) : RF := ⟨PWR_REF_STAMP_HI i, 0, 32⟩

/-! Registers of spec/05_output_channels.md -/

/-- CH_SLOT_ST (R145, 05_output_channels.md). -/
def CH_SLOT_ST (i j : Nat) : Nat := 0x03000280 + i * 0x400 + j * 0x8
def CH_SLOT_ST_SEQ (i j : Nat) : RF := ⟨CH_SLOT_ST i j, 0, 16⟩
def CH_SLOT_ST_STATE (i j : Nat) : RF := ⟨CH_SLOT_ST i j, 16, 2⟩

/-- CH_SLOT_VAL (R145, 05_output_channels.md). -/
def CH_SLOT_VAL (i j : Nat) : Nat := 0x03000284 + i * 0x400 + j * 0x8
def CH_SLOT_VAL_VALUE (i j : Nat) : RF := ⟨CH_SLOT_VAL i j, 0, 32⟩

/-- CH_SLOT_TST (R145, 05_output_channels.md). -/
def CH_SLOT_TST (i j : Nat) : Nat := 0x030002A0 + i * 0x400 + j * 0x8
def CH_SLOT_TST_SEQ (i j : Nat) : RF := ⟨CH_SLOT_TST i j, 0, 16⟩
def CH_SLOT_TST_STATE (i j : Nat) : RF := ⟨CH_SLOT_TST i j, 16, 2⟩

/-- CH_SLOT_TVAL (R145, 05_output_channels.md). -/
def CH_SLOT_TVAL (i j : Nat) : Nat := 0x030002A4 + i * 0x400 + j * 0x8
def CH_SLOT_TVAL_VALUE (i j : Nat) : RF := ⟨CH_SLOT_TVAL i j, 0, 32⟩

/-! Registers of spec/15_inputs_measurement.md -/

/-- MEAS_SLOT_ST (R420, 15_inputs_measurement.md). -/
def MEAS_SLOT_ST (i : Nat) : Nat := 0x05271000 + i * 0x8
def MEAS_SLOT_ST_SEQ (i : Nat) : RF := ⟨MEAS_SLOT_ST i, 0, 16⟩
def MEAS_SLOT_ST_STATE (i : Nat) : RF := ⟨MEAS_SLOT_ST i, 16, 2⟩

/-- MEAS_SLOT_VAL (R420, 15_inputs_measurement.md). -/
def MEAS_SLOT_VAL (i : Nat) : Nat := 0x05271004 + i * 0x8
def MEAS_SLOT_VAL_VALUE (i : Nat) : RF := ⟨MEAS_SLOT_VAL i, 0, 32⟩

/-- MEAS_SLOT_TST (R420, 15_inputs_measurement.md). -/
def MEAS_SLOT_TST (i : Nat) : Nat := 0x05272000 + i * 0x8
def MEAS_SLOT_TST_SEQ (i : Nat) : RF := ⟨MEAS_SLOT_TST i, 0, 16⟩
def MEAS_SLOT_TST_STATE (i : Nat) : RF := ⟨MEAS_SLOT_TST i, 16, 2⟩

/-- MEAS_SLOT_TVAL (R420, 15_inputs_measurement.md). -/
def MEAS_SLOT_TVAL (i : Nat) : Nat := 0x05272004 + i * 0x8
def MEAS_SLOT_TVAL_VALUE (i : Nat) : RF := ⟨MEAS_SLOT_TVAL i, 0, 32⟩

/-! Registers of spec/18_strongroom_security.md -/

/-- SYS_SLOT_ST (R470, 18_strongroom_security.md). -/
def SYS_SLOT_ST (i : Nat) : Nat := 0x052D1100 + i * 0x8
def SYS_SLOT_ST_SEQ (i : Nat) : RF := ⟨SYS_SLOT_ST i, 0, 16⟩
def SYS_SLOT_ST_STATE (i : Nat) : RF := ⟨SYS_SLOT_ST i, 16, 2⟩

/-- SYS_SLOT_VAL (R470, 18_strongroom_security.md). -/
def SYS_SLOT_VAL (i : Nat) : Nat := 0x052D1104 + i * 0x8
def SYS_SLOT_VAL_VALUE (i : Nat) : RF := ⟨SYS_SLOT_VAL i, 0, 32⟩

/-- SYS_SLOT_TST (R470, 18_strongroom_security.md). -/
def SYS_SLOT_TST (i : Nat) : Nat := 0x052D1180 + i * 0x8
def SYS_SLOT_TST_SEQ (i : Nat) : RF := ⟨SYS_SLOT_TST i, 0, 16⟩
def SYS_SLOT_TST_STATE (i : Nat) : RF := ⟨SYS_SLOT_TST i, 16, 2⟩

/-- SYS_SLOT_TVAL (R470, 18_strongroom_security.md). -/
def SYS_SLOT_TVAL (i : Nat) : Nat := 0x052D1184 + i * 0x8
def SYS_SLOT_TVAL_VALUE (i : Nat) : RF := ⟨SYS_SLOT_TVAL i, 0, 32⟩

/-! Registers of spec/19_script_store_update.md -/

/-- NVM_SLOT_ST (R498, 19_script_store_update.md). -/
def NVM_SLOT_ST (i : Nat) : Nat := 0x07000100 + i * 0x8
def NVM_SLOT_ST_SEQ (i : Nat) : RF := ⟨NVM_SLOT_ST i, 0, 16⟩
def NVM_SLOT_ST_STATE (i : Nat) : RF := ⟨NVM_SLOT_ST i, 16, 2⟩

/-- NVM_SLOT_VAL (R498, 19_script_store_update.md). -/
def NVM_SLOT_VAL (i : Nat) : Nat := 0x07000104 + i * 0x8
def NVM_SLOT_VAL_VALUE (i : Nat) : RF := ⟨NVM_SLOT_VAL i, 0, 32⟩

/-- NVM_SLOT_TST (R498, 19_script_store_update.md). -/
def NVM_SLOT_TST (i : Nat) : Nat := 0x07000180 + i * 0x8
def NVM_SLOT_TST_SEQ (i : Nat) : RF := ⟨NVM_SLOT_TST i, 0, 16⟩
def NVM_SLOT_TST_STATE (i : Nat) : RF := ⟨NVM_SLOT_TST i, 16, 2⟩

/-- NVM_SLOT_TVAL (R498, 19_script_store_update.md). -/
def NVM_SLOT_TVAL (i : Nat) : Nat := 0x07000184 + i * 0x8
def NVM_SLOT_TVAL_VALUE (i : Nat) : RF := ⟨NVM_SLOT_TVAL i, 0, 32⟩

/-! Registers of spec/16_access_immobiliser.md -/

/-- ACC_SLOT_ST (R435, 16_access_immobiliser.md). -/
def ACC_SLOT_ST (i : Nat) : Nat := 0x05280100 + i * 0x8
def ACC_SLOT_ST_SEQ (i : Nat) : RF := ⟨ACC_SLOT_ST i, 0, 16⟩
def ACC_SLOT_ST_STATE (i : Nat) : RF := ⟨ACC_SLOT_ST i, 16, 2⟩

/-- ACC_SLOT_VAL (R435, 16_access_immobiliser.md). -/
def ACC_SLOT_VAL (i : Nat) : Nat := 0x05280104 + i * 0x8
def ACC_SLOT_VAL_VALUE (i : Nat) : RF := ⟨ACC_SLOT_VAL i, 0, 32⟩

/-- ACC_SLOT_TST (R435, 16_access_immobiliser.md). -/
def ACC_SLOT_TST (i : Nat) : Nat := 0x05280110 + i * 0x8
def ACC_SLOT_TST_SEQ (i : Nat) : RF := ⟨ACC_SLOT_TST i, 0, 16⟩
def ACC_SLOT_TST_STATE (i : Nat) : RF := ⟨ACC_SLOT_TST i, 16, 2⟩

/-- ACC_SLOT_TVAL (R435, 16_access_immobiliser.md). -/
def ACC_SLOT_TVAL (i : Nat) : Nat := 0x05280114 + i * 0x8
def ACC_SLOT_TVAL_VALUE (i : Nat) : RF := ⟨ACC_SLOT_TVAL i, 0, 32⟩

/-! Registers of spec/12_gateway_ethernet_zrt.md -/

/-- ETH_TABLE (R331, 12_gateway_ethernet_zrt.md). -/
def ETH_TABLE (i : Nat) : Nat := 0x05201000 + i * 0x4
def ETH_TABLE_WORD (i : Nat) : RF := ⟨ETH_TABLE i, 0, 32⟩

/-- Register rows of block 0x052D. -/
def regTable_052D : List RegDef :=
  [
    ⟨0x052D0040, 0x4, 1, 0x4, 1, 0x00000000, 0x00000000, 0x00000000, 0x00000000, 0x00000000, .full⟩,
    ⟨0x052D0044, 0x4, 1, 0x4, 1, 0x00000000, 0x00000000, 0x00000000, 0x00000000, 0x00000000, .full⟩,
    ⟨0x052D0048, 0x4, 1, 0x4, 1, 0x00000000, 0x00000000, 0x00000000, 0x00000000, 0x00000000, .full⟩,
    ⟨0x052D0050, 0x4, 1, 0x4, 1, 0x00000000, 0x00000000, 0x00000000, 0x00000000, 0x00000000, .held⟩,
    ⟨0x052D0054, 0x4, 1, 0x4, 1, 0x00000000, 0x00000000, 0x00000000, 0x00000000, 0x00000000, .held⟩,
    ⟨0x052D0058, 0x4, 1, 0x4, 1, 0x00000000, 0x00000000, 0x00000000, 0x00000000, 0x00000000, .held⟩,
    ⟨0x052D005C, 0x4, 1, 0x4, 1, 0x00000000, 0x00000000, 0x00000000, 0x00000000, 0x00000000, .held⟩,
    ⟨0x052D0060, 0x4, 1, 0x4, 1, 0x00000000, 0x00000000, 0x00000000, 0x00000000, 0x00000000, .held⟩,
    ⟨0x052D0064, 0x4, 1, 0x4, 1, 0x00000000, 0x00000000, 0x00000000, 0x00000000, 0x00000000, .held⟩,
    ⟨0x052D0068, 0x4, 1, 0x4, 1, 0x00000000, 0xFFFFFFFF, 0x00000000, 0x00000000, 0x00000000, .held⟩,
    ⟨0x052D0100, 0x4, 15, 0x4, 1, 0x00000000, 0x00000000, 0x00000000, 0x00000000, 0x00000000, .held⟩,
    ⟨0x052D1000, 0x4, 4, 0x4, 1, 0x00000000, 0x00000000, 0x00000000, 0xFFFFFFFF, 0x00000000, .full⟩,
    ⟨0x052D1010, 0x4, 1, 0x4, 1, 0x00000000, 0x00000000, 0x00000000, 0x00000000, 0x00000000, .full⟩,
    ⟨0x052D1100, 0x8, 8, 0x4, 1, 0x00000000, 0x00000000, 0x00000000, 0x00000000, 0x00000000, .full⟩,
    ⟨0x052D1104, 0x8, 8, 0x4, 1, 0x00000000, 0x00000000, 0x00000000, 0x00000000, 0x00000000, .full⟩,
    ⟨0x052D1180, 0x8, 8, 0x4, 1, 0x00000000, 0x00000000, 0x00000000, 0x00000000, 0x00000000, .full⟩,
    ⟨0x052D1184, 0x8, 8, 0x4, 1, 0x00000000, 0x00000000, 0x00000000, 0x00000000, 0x00000000, .full⟩]

/-- Register rows of block 0x0501. -/
def regTable_0501 : List RegDef :=
  [
    ⟨0x05010010, 0x4, 1, 0x4, 1, 0x00000000, 0x00000000, 0x00000000, 0x00000000, 0x00000000, .full⟩,
    ⟨0x05010014, 0x4, 1, 0x4, 1, 0x00000000, 0x00000007, 0x00000000, 0x00000000, 0x00000000, .full⟩,
    ⟨0x05010018, 0x4, 1, 0x4, 1, 0x00000000, 0x00000000, 0x00000000, 0x0000FF01, 0x00000000, .full⟩,
    ⟨0x05010020, 0x4, 1, 0x4, 1, 0x5200030A, 0x00000000, 0x00000000, 0x00000000, 0x00000000, .full⟩,
    ⟨0x05010030, 0x4, 1, 0x4, 1, 0x00000000, 0x00000000, 0x00000000, 0x00000000, 0x00000000, .full⟩,
    ⟨0x05010034, 0x4, 1, 0x4, 1, 0x00000000, 0x00000000, 0x0000003F, 0x00000000, 0x00000000, .held⟩,
    ⟨0x05010038, 0x4, 1, 0x4, 1, 0x00000000, 0x00000000, 0x00000000, 0x00000000, 0x00000000, .held⟩,
    ⟨0x05010040, 0x4, 1, 0x4, 1, 0x00000003, 0x00FFFFFF, 0x00000000, 0x00000000, 0x00000000, .held⟩,
    ⟨0x05010044, 0x4, 1, 0x4, 1, 0x00000000, 0x00000000, 0x00FFFFFF, 0x00000000, 0x00000000, .held⟩,
    ⟨0x05010048, 0x4, 1, 0x4, 1, 0x00000000, 0x00000000, 0x00000000, 0x00000000, 0x00000000, .held⟩,
    ⟨0x0501004C, 0x4, 1, 0x4, 1, 0x00000000, 0x0000FFFF, 0x00000000, 0x00000000, 0x00000000, .held⟩,
    ⟨0x05010050, 0x4, 1, 0x4, 1, 0x00000000, 0x00000000, 0x00000000, 0x00000000, 0x00000000, .held⟩,
    ⟨0x05010054, 0x4, 1, 0x4, 1, 0x00000000, 0x00000000, 0x00000000, 0x00000000, 0x00000000, .held⟩,
    ⟨0x05010058, 0x4, 1, 0x4, 1, 0x00000000, 0x00000000, 0x00000000, 0x00000000, 0x00000000, .held⟩,
    ⟨0x0501005C, 0x4, 1, 0x4, 1, 0x00000000, 0x00000000, 0x00000000, 0x00000000, 0x00000000, .held⟩,
    ⟨0x05010060, 0x4, 1, 0x4, 1, 0x00000000, 0x00000000, 0x00000000, 0x00000001, 0x00000000, .full⟩,
    ⟨0x05010064, 0x4, 1, 0x4, 1, 0x00000000, 0x00000000, 0x00000000, 0x00000000, 0x00000000, .held⟩,
    ⟨0x05010070, 0x4, 1, 0x4, 1, 0x00005007, 0x00000000, 0x00000000, 0x00000000, 0x00000000, .full⟩,
    ⟨0x05010100, 0x20, 32, 0x4, 1, 0x00000000, 0x00000000, 0x00000000, 0x00000000, 0x00000000, .held⟩,
    ⟨0x05010104, 0x20, 32, 0x4, 1, 0x00000000, 0x00000000, 0x00000000, 0x00000000, 0x00000000, .held⟩,
    ⟨0x05010108, 0x20, 32, 0x4, 1, 0x00000000, 0x00000000, 0x00000000, 0x00000000, 0x00000000, .held⟩,
    ⟨0x05010110, 0x20, 32, 0x4, 1, 0x00000000, 0x00000000, 0x00000000, 0x00000000, 0x00000000, .held⟩,
    ⟨0x05010114, 0x20, 32, 0x4, 1, 0x00000000, 0x00000000, 0x00000000, 0x00000000, 0x00000000, .held⟩]

/-- Register rows of block 0x0502. -/
def regTable_0502 : List RegDef :=
  [
    ⟨0x05020010, 0x4, 1, 0x4, 1, 0x00000000, 0x00000000, 0x00000000, 0x00000000, 0x00000000, .full⟩,
    ⟨0x05020014, 0x4, 1, 0x4, 1, 0x00001001, 0x00000000, 0x00000000, 0x00000000, 0x00000000, .full⟩,
    ⟨0x05020018, 0x4, 1, 0x4, 1, 0x00000000, 0x00000000, 0x00000003, 0x00000000, 0x00000000, .held⟩,
    ⟨0x0502001C, 0x4, 1, 0x4, 1, 0x00000000, 0x00000000, 0x00000000, 0x00000000, 0x00000000, .held⟩,
    ⟨0x05020020, 0x4, 1, 0x4, 1, 0x00000000, 0x00000000, 0x00000000, 0x00000000, 0x00000000, .full⟩,
    ⟨0x05020024, 0x4, 1, 0x4, 1, 0x00000000, 0x00000000, 0x00000000, 0x00000000, 0x00000000, .held⟩]

/-- Register rows of block channel contexts. -/
def regTable_CTX : List RegDef :=
  [
    ⟨0x03000004, 0x400, 132, 0x4, 1, 0x00000000, 0x00000000, 0x00000000, 0x00000000, 0x00000000, .full⟩,
    ⟨0x03000008, 0x400, 132, 0x4, 1, 0x00000000, 0x0000FF03, 0x00000000, 0x00000004, 0x00000000, .full⟩,
    ⟨0x0300000C, 0x400, 132, 0x4, 1, 0x00000000, 0x03FF37FF, 0x00000000, 0x00000000, 0x00000000, .full⟩,
    ⟨0x03000010, 0x400, 132, 0x4, 1, 0x00000033, 0x000000FF, 0x00000000, 0x00000000, 0x00000000, .full⟩,
    ⟨0x03000014, 0x400, 132, 0x4, 1, 0x00000000, 0x00000000, 0x00000000, 0x00000000, 0x00000000, .full⟩,
    ⟨0x03000018, 0x400, 132, 0x4, 1, 0x00000000, 0x00000000, 0x00001FFF, 0x00000000, 0x00000000, .full⟩,
    ⟨0x0300001C, 0x400, 132, 0x4, 1, 0x00000000, 0x00000000, 0x00000000, 0x00000000, 0x00000000, .full⟩,
    ⟨0x03000020, 0x400, 132, 0x4, 1, 0x00000000, 0x00000000, 0x00000000, 0x00000000, 0x00000000, .held⟩,
    ⟨0x03000030, 0x400, 132, 0x4, 1, 0x00000000, 0x00FFF000, 0x00000000, 0x00000000, 0x00000000, .full⟩,
    ⟨0x03000034, 0x400, 132, 0x4, 1, 0x00000000, 0x0000FFFF, 0x00000000, 0x00000000, 0x00000000, .full⟩,
    ⟨0x03000038, 0x400, 132, 0x4, 1, 0x00000000, 0x0000FFFF, 0x00000000, 0x00000000, 0x00000000, .full⟩,
    ⟨0x0300003C, 0x400, 132, 0x4, 1, 0x00000000, 0x00000000, 0x00000000, 0x00000000, 0x00000000, .full⟩,
    ⟨0x03000040, 0x400, 132, 0x4, 1, 0x00006400, 0x0003FFF7, 0x00000000, 0x80000000, 0x00000000, .full⟩,
    ⟨0x03000080, 0x400, 132, 0x4, 16, 0x00000000, 0x83FFFFFF, 0x00000000, 0x00000000, 0x00000000, .full⟩,
    ⟨0x03000044, 0x400, 132, 0x4, 1, 0x00000000, 0x00000000, 0x00000000, 0x00000000, 0x00000000, .full⟩,
    ⟨0x03000048, 0x400, 132, 0x4, 1, 0x00000000, 0x00000FFF, 0x00000000, 0x00000000, 0x00000000, .full⟩,
    ⟨0x030000C0, 0x400, 132, 0x4, 1, 0x1A082D00, 0xFFFF3FFF, 0x00000000, 0x00004000, 0x00000000, .full⟩,
    ⟨0x030000C8, 0x400, 132, 0x4, 1, 0x00000210, 0x00003FFF, 0x00000000, 0x00000000, 0x00000000, .full⟩,
    ⟨0x030000C4, 0x400, 132, 0x4, 1, 0x00000000, 0x00000000, 0x00000000, 0x00000000, 0x00000000, .held⟩,
    ⟨0x03000100, 0x400, 132, 0x4, 32, 0x00000000, 0x00FFFFFF, 0x00000000, 0x00000000, 0x00000000, .held⟩,
    ⟨0x03000180, 0x400, 132, 0x4, 32, 0x00000000, 0x00000000, 0x00000000, 0x00000000, 0x00000000, .held⟩,
    ⟨0x03000200, 0x400, 132, 0x4, 32, 0x00000000, 0x00000000, 0x00000000, 0x00000000, 0x00000000, .full⟩,
    ⟨0x0301A300, 0x400, 12, 0x4, 1, 0x03504000, 0x00000000, 0x00000000, 0x00000000, 0x00000000, .full⟩,
    ⟨0x0301A304, 0x400, 12, 0x4, 1, 0x00140000, 0x00FFFF07, 0x00000000, 0x00000000, 0x00000000, .full⟩] ++
  [
    ⟨0x0301A320, 0x400, 12, 0x4, 1, 0x00000000, 0x00003FFF, 0x00000000, 0x00000000, 0x00000000, .full⟩,
    ⟨0x0301A324, 0x400, 12, 0x4, 1, 0x00000000, 0x00000000, 0x00000000, 0x00000000, 0x00000000, .full⟩,
    ⟨0x0301A308, 0x400, 12, 0x4, 1, 0x00000000, 0x003FFFFF, 0x00000000, 0x00000000, 0x00000000, .full⟩,
    ⟨0x0301A30C, 0x400, 12, 0x4, 1, 0x00000000, 0x00000000, 0x00000000, 0x00000000, 0x00000000, .full⟩,
    ⟨0x0301A310, 0x400, 12, 0x4, 1, 0x00000000, 0x00000000, 0x00000007, 0x00000000, 0x00000000, .full⟩,
    ⟨0x0301A314, 0x400, 12, 0x4, 1, 0x00000000, 0x00000000, 0x00000000, 0x00000000, 0x00000000, .full⟩,
    ⟨0x0301D300, 0x400, 16, 0x4, 1, 0x00000000, 0x00FFFFFF, 0x00000000, 0x00000000, 0x00000000, .full⟩,
    ⟨0x0301D304, 0x400, 16, 0x4, 1, 0x00641400, 0x00FFFFFF, 0x00000000, 0x00000000, 0x00000000, .full⟩,
    ⟨0x0301D308, 0x400, 16, 0x4, 1, 0x00000A28, 0xFFFF3F7F, 0x00000000, 0x00000000, 0x00000000, .full⟩,
    ⟨0x0301D30C, 0x400, 16, 0x4, 1, 0x00000000, 0x00000000, 0x00000000, 0x00000000, 0x00000000, .full⟩,
    ⟨0x0301D310, 0x400, 16, 0x4, 1, 0x00000000, 0x00000000, 0x0000007F, 0x00000000, 0x00000000, .full⟩,
    ⟨0x0301D314, 0x400, 16, 0x4, 1, 0x00000000, 0x00000000, 0x00000000, 0x00000000, 0x00000000, .full⟩,
    ⟨0x030002C0, 0x400, 132, 0x4, 1, 0x00000000, 0x00000000, 0x00000000, 0x00000000, 0x00000000, .held⟩,
    ⟨0x030002C4, 0x400, 132, 0x4, 1, 0x00000000, 0x00000000, 0x00000000, 0x00000000, 0x00000000, .held⟩,
    ⟨0x030002C8, 0x400, 132, 0x4, 1, 0x00000000, 0x00000000, 0x00000000, 0x00000000, 0x00000000, .held⟩,
    ⟨0x030002CC, 0x400, 132, 0x4, 1, 0x00000000, 0x00000000, 0x00000000, 0x00000000, 0x00000000, .held⟩,
    ⟨0x030002D0, 0x400, 132, 0x4, 1, 0x00000000, 0x00000000, 0x00000000, 0x00000000, 0x00000000, .held⟩,
    ⟨0x030002D4, 0x400, 132, 0x4, 1, 0x00000000, 0x00000000, 0x00000000, 0x00000000, 0x00000000, .held⟩,
    ⟨0x0301A380, 0x400, 12, 0x4, 32, 0x00000000, 0x00000000, 0x00000000, 0x00000000, 0x00000000, .full⟩,
    ⟨0x03000280, 0x400, 132, 0x8, 3, 0x00000000, 0x00000000, 0x00000000, 0x00000000, 0x00000000, .full⟩,
    ⟨0x03000284, 0x400, 132, 0x8, 3, 0x00000000, 0x00000000, 0x00000000, 0x00000000, 0x00000000, .full⟩,
    ⟨0x030002A0, 0x400, 132, 0x8, 3, 0x00000000, 0x00000000, 0x00000000, 0x00000000, 0x00000000, .full⟩,
    ⟨0x030002A4, 0x400, 132, 0x8, 3, 0x00000000, 0x00000000, 0x00000000, 0x00000000, 0x00000000, .full⟩]

/-- Register rows of block 0x0503. -/
def regTable_0503 : List RegDef :=
  [
    ⟨0x05030100, 0x4, 132, 0x4, 1, 0x00000000, 0x00000000, 0x00000000, 0x00000000, 0x00000000, .full⟩]

/-- Register rows of block 0x0504. -/
def regTable_0504 : List RegDef :=
  [
    ⟨0x05040010, 0x4, 1, 0x4, 1, 0x00241414, 0x00000000, 0x00000000, 0x00000000, 0x00000000, .full⟩,
    ⟨0x05040014, 0x4, 1, 0x4, 1, 0x15400190, 0x00000000, 0x00000000, 0x00000000, 0x00000000, .full⟩,
    ⟨0x05040020, 0x4, 1, 0x4, 1, 0x00000000, 0x00000000, 0x00000000, 0x00000000, 0x00000000, .full⟩,
    ⟨0x05040024, 0x4, 1, 0x4, 1, 0x00000000, 0x00000000, 0x00000000, 0x00000000, 0x00000000, .full⟩,
    ⟨0x05040028, 0x4, 1, 0x4, 1, 0x00000000, 0x00000000, 0x0000001F, 0x00000000, 0x00000000, .full⟩,
    ⟨0x0504002C, 0x4, 1, 0x4, 1, 0x00000000, 0x00000000, 0x00000000, 0x00000000, 0x00000000, .full⟩,
    ⟨0x05041000, 0x40, 14, 0x4, 1, 0x00000000, 0x00000000, 0x00000000, 0x00000000, 0x00000000, .full⟩,
    ⟨0x05041004, 0x40, 14, 0x4, 1, 0x00000000, 0x00000000, 0x00000000, 0x00000000, 0x00000000, .full⟩,
    ⟨0x05041008, 0x40, 14, 0x4, 4, 0x00000000, 0x00000000, 0x00000000, 0x00000000, 0x00000000, .full⟩,
    ⟨0x05041018, 0x40, 14, 0x4, 1, 0x05A09687, 0x00000000, 0x00000000, 0x00000000, 0x00000000, .full⟩,
    ⟨0x0504101C, 0x40, 14, 0x4, 1, 0x00800000, 0x00000000, 0x00000000, 0x00000000, 0x00000000, .full⟩,
    ⟨0x05041020, 0x40, 14, 0x4, 1, 0x00000000, 0x00000000, 0x00000000, 0x00000000, 0x00000000, .held⟩,
    ⟨0x05041024, 0x40, 14, 0x4, 1, 0x00000000, 0x00000000, 0x00000000, 0x00000000, 0x00000000, .held⟩,
    ⟨0x05041028, 0x40, 14, 0x4, 1, 0x00000000, 0x00000000, 0x00000000, 0x00000000, 0x00000000, .full⟩,
    ⟨0x0504102C, 0x40, 14, 0x4, 1, 0x00000000, 0x00000000, 0x00000000, 0x00000000, 0x00000000, .full⟩,
    ⟨0x05044000, 0x20, 160, 0x4, 1, 0x00000000, 0x00000000, 0x00000000, 0x00000000, 0x00000000, .full⟩,
    ⟨0x05044004, 0x20, 160, 0x4, 1, 0x00000000, 0x00000000, 0x00000000, 0x00000000, 0x00000000, .full⟩,
    ⟨0x05044008, 0x20, 160, 0x4, 1, 0x00000000, 0x00000000, 0x00000000, 0x00000000, 0x00000000, .full⟩,
    ⟨0x0504400C, 0x20, 160, 0x4, 1, 0x00000000, 0x00000000, 0x00000000, 0x00000000, 0x00000000, .full⟩,
    ⟨0x05044010, 0x20, 160, 0x4, 1, 0x00191E0F, 0x00000000, 0x00000000, 0x00000000, 0x00000000, .full⟩,
    ⟨0x05044014, 0x20, 160, 0x4, 1, 0x00000000, 0x00000000, 0x00000000, 0x00000000, 0x00000000, .held⟩,
    ⟨0x05044018, 0x20, 160, 0x4, 1, 0x00000000, 0x00000000, 0x00000000, 0x00000000, 0x00000000, .full⟩,
    ⟨0x05046000, 0x10, 132, 0x4, 1, 0x00000000, 0x00000000, 0x00000000, 0x00000000, 0x00000000, .full⟩,
    ⟨0x05046004, 0x10, 132, 0x4, 1, 0x00000400, 0x00000000, 0x00000000, 0x00000000, 0x00000000, .full⟩] ++
  [
    ⟨0x05046008, 0x10, 132, 0x4, 1, 0x00000000, 0x00000000, 0x00000000, 0x00000000, 0x00000000, .full⟩]

/-- Register rows of block 0x0505. -/
def regTable_0505 : List RegDef :=
  [
    ⟨0x05050010, 0x4, 1, 0x4, 1, 0x00000000, 0x00000000, 0x00000000, 0x00000000, 0x00000000, .full⟩]

/-- Register rows of block 0x0506. -/
def regTable_0506 : List RegDef :=
  [
    ⟨0x05060010, 0x4, 1, 0x4, 1, 0x00000000, 0x00000000, 0x00000000, 0x00000000, 0x00000000, .full⟩,
    ⟨0x05060014, 0x4, 1, 0x4, 1, 0x00000000, 0x00000000, 0x00000000, 0x00000000, 0x00000000, .full⟩,
    ⟨0x05060020, 0x4, 1, 0x4, 1, 0x00000000, 0x00000000, 0x00000000, 0x00000000, 0x00000000, .full⟩,
    ⟨0x05060024, 0x4, 1, 0x4, 1, 0x00000000, 0x00000000, 0x00000000, 0x00000000, 0x00000000, .full⟩,
    ⟨0x05060028, 0x4, 1, 0x4, 1, 0x00000000, 0x00000000, 0x000000F7, 0x00000000, 0x00000000, .full⟩,
    ⟨0x0506002C, 0x4, 1, 0x4, 1, 0x00000000, 0x00000000, 0x00000000, 0x00000000, 0x00000000, .full⟩]

/-- Register rows of block 0x0600. -/
def regTable_0600 : List RegDef :=
  [
    ⟨0x06000804, 0x4, 13, 0x4, 1, 0x00000032, 0x00000000, 0x00000000, 0x00000000, 0x000001FF, .full⟩,
    ⟨0x06000840, 0x4, 1, 0x4, 1, 0x00003FFE, 0x00000000, 0x00000000, 0x00000000, 0x00003FFE, .full⟩,
    ⟨0x06000844, 0x4, 1, 0x4, 1, 0x00000000, 0x00000000, 0x00000000, 0x00000000, 0x000007FE, .full⟩,
    ⟨0x06000848, 0x4, 1, 0x4, 1, 0x00000000, 0x00000000, 0x00000000, 0x00000000, 0x00003FFE, .full⟩,
    ⟨0x0600084C, 0x4, 1, 0x4, 1, 0x00000000, 0x00000000, 0x00000000, 0x00000000, 0x00003FFE, .full⟩,
    ⟨0x06000850, 0x4, 1, 0x4, 1, 0x00000000, 0x00000000, 0x00000000, 0x00000000, 0x00000000, .full⟩,
    ⟨0x06000854, 0x4, 1, 0x4, 1, 0x00000000, 0x00000000, 0x00000000, 0x00000000, 0x00000000, .full⟩,
    ⟨0x06000858, 0x4, 1, 0x4, 1, 0x00000000, 0x00000000, 0x00000000, 0x00000000, 0x00000003, .full⟩,
    ⟨0x0600085C, 0x4, 1, 0x4, 1, 0x00000000, 0x00000000, 0x0000001F, 0x00000000, 0x00000000, .held⟩,
    ⟨0x06000860, 0x4, 1, 0x4, 1, 0x00000000, 0x00000000, 0x00000000, 0x00000000, 0x00000000, .held⟩,
    ⟨0x06000C00, 0x4, 132, 0x4, 1, 0x00000000, 0x00000000, 0x00000000, 0x00000000, 0x3FF7F7FF, .full⟩,
    ⟨0x06000010, 0x4, 1, 0x4, 1, 0x10641402, 0x00000000, 0x00000000, 0x00000000, 0x3FFFFF7F, .full⟩,
    ⟨0x06000014, 0x4, 1, 0x4, 1, 0x00000000, 0x00000000, 0x00000000, 0x00000000, 0x3FFE3FFE, .full⟩,
    ⟨0x06000020, 0x4, 1, 0x4, 1, 0x00000000, 0x00000000, 0x00000000, 0x00000000, 0x00000000, .full⟩,
    ⟨0x06000060, 0x4, 1, 0x4, 1, 0x00000000, 0x00000000, 0x0000003F, 0x00000000, 0x00000000, .held⟩,
    ⟨0x06000064, 0x4, 1, 0x4, 1, 0x00000000, 0x00000000, 0x00000000, 0x00000000, 0x00000000, .held⟩,
    ⟨0x06000030, 0x4, 1, 0x4, 1, 0x00000000, 0x00000000, 0x00000000, 0x00000000, 0x00000000, .held⟩,
    ⟨0x06000034, 0x4, 1, 0x4, 1, 0x00000000, 0x00000000, 0x00000000, 0x00000000, 0x00000000, .held⟩,
    ⟨0x06000040, 0x4, 1, 0x4, 1, 0x00000000, 0x00000000, 0x00000000, 0x00000000, 0x00000000, .mram⟩,
    ⟨0x06000044, 0x4, 1, 0x4, 1, 0x00000000, 0x00000000, 0x00000000, 0x00000000, 0x00000000, .mram⟩,
    ⟨0x06000048, 0x4, 1, 0x4, 1, 0x00000000, 0x00000000, 0x00000000, 0x00000000, 0x00000000, .held⟩,
    ⟨0x06000050, 0x4, 1, 0x4, 1, 0x00000000, 0x00000000, 0x00000000, 0x00000000, 0x00000000, .full⟩,
    ⟨0x06000100, 0x8, 64, 0x4, 1, 0x00000000, 0x00000000, 0x00000000, 0x00000000, 0x00000000, .mram⟩,
    ⟨0x06000104, 0x8, 64, 0x4, 1, 0x00000000, 0x00000000, 0x00000000, 0x00000000, 0x00000000, .mram⟩]

/-- Register rows of block crew windows. -/
def regTable_CREW : List RegDef :=
  [
    ⟨0x02000004, 0x100000, 6, 0x4, 1, 0x00000002, 0x00000000, 0x00000000, 0x00000000, 0x00000000, .full⟩,
    ⟨0x0200000C, 0x100000, 6, 0x4, 1, 0x00000000, 0x00000000, 0x00000000, 0x00000000, 0x00000000, .full⟩,
    ⟨0x02010004, 0x100000, 6, 0x1000, 8, 0x00000002, 0x00000000, 0x00000000, 0x00000000, 0x00000000, .full⟩,
    ⟨0x02010008, 0x100000, 6, 0x1000, 8, 0x00000000, 0x00000000, 0x00000000, 0x00000000, 0x00000000, .full⟩,
    ⟨0x02010010, 0x100000, 6, 0x1000, 8, 0x00000000, 0x00000000, 0x00000000, 0x00000000, 0x00000000, .full⟩,
    ⟨0x02010014, 0x100000, 6, 0x1000, 8, 0x00000000, 0x00000000, 0x00000000, 0x00000000, 0x00000000, .full⟩,
    ⟨0x02010018, 0x100000, 6, 0x1000, 8, 0x00000000, 0x00000000, 0x00000007, 0x00000000, 0x00000000, .full⟩,
    ⟨0x0201001C, 0x100000, 6, 0x1000, 8, 0x00000000, 0x00000000, 0x00000000, 0x00000000, 0x00000000, .full⟩]

/-- Register rows of block 0x0507. -/
def regTable_0507 : List RegDef :=
  [
    ⟨0x05070010, 0x4, 1, 0x4, 1, 0x00000000, 0x00000000, 0x00000000, 0x00000000, 0x00000000, .full⟩]

/-- Register rows of block 0x0508. -/
def regTable_0508 : List RegDef :=
  [
    ⟨0x05080018, 0x4, 1, 0x4, 1, 0x00000000, 0x00000000, 0x00000000, 0x00000000, 0x00000000, .held⟩,
    ⟨0x0508001C, 0x4, 1, 0x4, 1, 0x00000000, 0x00000000, 0x00000000, 0x00000000, 0x00000000, .held⟩,
    ⟨0x05080020, 0x4, 1, 0x4, 1, 0x00000000, 0x00000000, 0x00000000, 0x00000000, 0x00000000, .full⟩,
    ⟨0x05080030, 0x4, 1, 0x4, 1, 0x00101388, 0x00000000, 0x00000000, 0x00000000, 0x00000000, .full⟩,
    ⟨0x05080034, 0x4, 1, 0x4, 1, 0x00000000, 0x0000FFFF, 0x00000000, 0x00000000, 0x00000000, .full⟩,
    ⟨0x05080038, 0x4, 1, 0x4, 1, 0x00000000, 0x00000000, 0x00000000, 0x00000000, 0x00000000, .full⟩,
    ⟨0x0508003C, 0x4, 1, 0x4, 1, 0x00000000, 0x00000000, 0x0000001F, 0x00000000, 0x00000000, .full⟩,
    ⟨0x05080040, 0x4, 1, 0x4, 1, 0x00000000, 0x00000000, 0x00000000, 0x00000000, 0x00000000, .full⟩,
    ⟨0x05080044, 0x4, 1, 0x4, 1, 0x00000000, 0x00000000, 0x00000000, 0x00000000, 0x00000000, .held⟩,
    ⟨0x05080048, 0x4, 1, 0x4, 1, 0x00000000, 0x00000000, 0x00000000, 0x00000000, 0x00000000, .full⟩,
    ⟨0x0508004C, 0x4, 1, 0x4, 1, 0x00000000, 0x00000000, 0x00000000, 0x00000000, 0x00000000, .full⟩,
    ⟨0x05080050, 0x4, 1, 0x4, 1, 0x00000000, 0x00000000, 0x00000000, 0x00000000, 0x00000000, .full⟩]

/-- Register rows of block 0x0800. -/
def regTable_0800 : List RegDef :=
  [
    ⟨0x08000010, 0x4, 1, 0x4, 1, 0x00000000, 0x00000000, 0x00000000, 0x00000000, 0x00000000, .held⟩,
    ⟨0x08000014, 0x4, 1, 0x4, 1, 0x00000000, 0x00000000, 0x00000000, 0x00000001, 0x00000000, .full⟩,
    ⟨0x08000018, 0x4, 1, 0x4, 1, 0x00000000, 0x00000000, 0x00000000, 0x00000000, 0x00000000, .mram⟩,
    ⟨0x0800001C, 0x4, 1, 0x4, 1, 0x00000000, 0x000001FF, 0x00000000, 0x00000000, 0x00000000, .full⟩,
    ⟨0x08000020, 0x4, 1, 0x4, 1, 0x00000000, 0x00000000, 0x00000000, 0x00000000, 0x00000000, .mram⟩,
    ⟨0x08000024, 0x4, 1, 0x4, 1, 0x00000000, 0x00000000, 0x00000000, 0x00000000, 0x00000000, .held⟩,
    ⟨0x08000028, 0x4, 1, 0x4, 1, 0x00000000, 0x00000000, 0x0000000F, 0x00000000, 0x00000000, .held⟩,
    ⟨0x0800002C, 0x4, 1, 0x4, 1, 0x00000000, 0x00000000, 0x00000000, 0x00000000, 0x00000000, .held⟩,
    ⟨0x08000030, 0x4, 1, 0x4, 1, 0x00000000, 0x00000000, 0x00000000, 0x00000000, 0x00000000, .held⟩]

/-- Register rows of block CAN controllers. -/
def regTable_CAN : List RegDef :=
  [
    ⟨0x05100014, 0x10000, 8, 0x4, 1, 0x00000000, 0x00000000, 0x00000000, 0x00000000, 0x00000000, .full⟩,
    ⟨0x05100018, 0x10000, 8, 0x4, 1, 0x00000000, 0x00000000, 0x00000000, 0x00000000, 0x00000000, .full⟩,
    ⟨0x05100010, 0x10000, 8, 0x4, 1, 0x00643192, 0x00000000, 0x00000000, 0x00000000, 0x00000000, .full⟩,
    ⟨0x0510001C, 0x10000, 8, 0x4, 1, 0x00000000, 0x00000003, 0x00000000, 0x00000004, 0x00000000, .full⟩,
    ⟨0x05100020, 0x10000, 8, 0x4, 1, 0x00000000, 0x00000000, 0x00000000, 0x00000000, 0x00000000, .full⟩,
    ⟨0x05100024, 0x10000, 8, 0x4, 1, 0x00000000, 0x00000000, 0x00000000, 0x00000000, 0x00000000, .full⟩,
    ⟨0x05100028, 0x10000, 8, 0x4, 1, 0x00000000, 0x00000000, 0x000001FF, 0x00000000, 0x00000000, .full⟩,
    ⟨0x0510002C, 0x10000, 8, 0x4, 1, 0x00000000, 0x00000000, 0x00000000, 0x00000000, 0x00000000, .full⟩,
    ⟨0x05100080, 0x10000, 8, 0x4, 1, 0x00000110, 0x00000000, 0x00000000, 0x00000000, 0x00000000, .full⟩,
    ⟨0x05100030, 0x10000, 8, 0x4, 1, 0x00000000, 0x00000000, 0x00000000, 0x00000000, 0x00000000, .full⟩,
    ⟨0x05100034, 0x10000, 8, 0x4, 1, 0x00000000, 0x00000000, 0x00000000, 0x00000000, 0x00000000, .held⟩,
    ⟨0x05100038, 0x10000, 8, 0x4, 1, 0x00000000, 0x00000000, 0x00000000, 0x00000000, 0x00000000, .full⟩,
    ⟨0x0510003C, 0x10000, 8, 0x4, 1, 0x00000000, 0x00000000, 0x00000000, 0x00000000, 0x00000000, .held⟩,
    ⟨0x05100040, 0x10000, 8, 0x4, 8, 0x00000000, 0x00000000, 0x00000000, 0x00000000, 0x00000000, .full⟩,
    ⟨0x05100060, 0x10000, 8, 0x4, 1, 0x00000000, 0x00000000, 0x00000000, 0x00000000, 0x00000000, .full⟩,
    ⟨0x05100084, 0x10000, 8, 0x4, 1, 0x00000000, 0x00000000, 0x00000000, 0x00000000, 0x00000000, .full⟩,
    ⟨0x05100088, 0x10000, 8, 0x4, 1, 0x00000000, 0x00000000, 0x00000000, 0x00000000, 0x00000000, .full⟩,
    ⟨0x0510008C, 0x10000, 8, 0x4, 2, 0x00000000, 0x00000000, 0x00000000, 0x00000000, 0x00000000, .full⟩,
    ⟨0x05100094, 0x10000, 8, 0x4, 1, 0x00000002, 0x00000003, 0x00000000, 0x00000000, 0x00000000, .full⟩,
    ⟨0x05100098, 0x10000, 8, 0x4, 1, 0x00000002, 0x00000000, 0x00000000, 0x00000000, 0x00000000, .full⟩]

/-- Register rows of block LIN controllers. -/
def regTable_LIN : List RegDef :=
  [
    ⟨0x05180010, 0x10000, 8, 0x4, 1, 0x0000411C, 0x00000000, 0x00000000, 0x00000000, 0x00000000, .full⟩,
    ⟨0x05180014, 0x10000, 8, 0x4, 1, 0x00000000, 0x00000000, 0x00000000, 0x00000000, 0x00000000, .full⟩,
    ⟨0x05180018, 0x10000, 8, 0x4, 1, 0x00000040, 0x00000067, 0x00000000, 0x00000018, 0x00000000, .full⟩,
    ⟨0x0518001C, 0x10000, 8, 0x4, 1, 0x00000200, 0x00000000, 0x00000000, 0x00000000, 0x00000000, .full⟩,
    ⟨0x05180020, 0x10000, 8, 0x4, 1, 0x00000000, 0x00000000, 0x000007FF, 0x00000000, 0x00000000, .full⟩,
    ⟨0x05180024, 0x10000, 8, 0x4, 1, 0x00000000, 0x00000000, 0x00000000, 0x00000000, 0x00000000, .full⟩,
    ⟨0x05180028, 0x10000, 8, 0x4, 1, 0x00000000, 0x00000000, 0x00000000, 0x00000000, 0x00000000, .held⟩]

/-- Register rows of block 0x0521. -/
def regTable_0521 : List RegDef :=
  [
    ⟨0x05210030, 0x4, 1, 0x4, 1, 0x00000000, 0x00000000, 0x000000FF, 0x00000000, 0x00000000, .full⟩,
    ⟨0x05210034, 0x4, 1, 0x4, 1, 0x00000000, 0x00000000, 0x00000000, 0x00000000, 0x00000000, .full⟩,
    ⟨0x05210010, 0x4, 1, 0x4, 1, 0x000A0000, 0x00000000, 0x00000000, 0x00000000, 0x00000000, .full⟩,
    ⟨0x05210014, 0x4, 1, 0x4, 1, 0x00000000, 0x00000000, 0x00000000, 0x00000000, 0x00000000, .full⟩,
    ⟨0x05210018, 0x4, 1, 0x4, 1, 0x00000000, 0x00000000, 0x00000000, 0x00000000, 0x00000000, .full⟩,
    ⟨0x05210020, 0x4, 1, 0x4, 1, 0x00000000, 0x00000000, 0x00000000, 0x00000003, 0x00000000, .full⟩,
    ⟨0x05210024, 0x4, 1, 0x4, 1, 0x00000000, 0x00000000, 0x00000000, 0x00000000, 0x00000000, .full⟩,
    ⟨0x05210028, 0x4, 1, 0x4, 1, 0x00000000, 0x00000000, 0x00000000, 0x000007FF, 0x00000000, .full⟩,
    ⟨0x05210240, 0x4, 1, 0x4, 1, 0x00000000, 0x00000000, 0x00000000, 0x00000001, 0x00000000, .full⟩,
    ⟨0x05210040, 0x4, 1, 0x4, 1, 0x00000000, 0x00000000, 0x00000000, 0x00000000, 0x00000000, .full⟩,
    ⟨0x05210044, 0x4, 1, 0x4, 1, 0x00000000, 0x00000000, 0x00000000, 0x00000000, 0x00000000, .full⟩,
    ⟨0x05210048, 0x4, 1, 0x4, 1, 0x00000000, 0x00000000, 0x00000000, 0x00000000, 0x00000000, .full⟩,
    ⟨0x0521004C, 0x4, 1, 0x4, 1, 0x00000000, 0x00000000, 0x00000000, 0x00000000, 0x00000000, .full⟩,
    ⟨0x05210050, 0x4, 1, 0x4, 1, 0x00000000, 0x00000000, 0x00000000, 0x00000000, 0x00000000, .full⟩,
    ⟨0x05210100, 0x4, 21, 0x4, 1, 0x00000000, 0x00000000, 0x00000000, 0x00000000, 0x00000000, .full⟩,
    ⟨0x05210180, 0x4, 21, 0x4, 1, 0x00000000, 0x00000000, 0x00000000, 0x00000000, 0x00000000, .full⟩,
    ⟨0x05218000, 0x4, 256, 0x4, 1, 0x00000000, 0x00000000, 0x00000000, 0x00000000, 0x00000000, .full⟩,
    ⟨0x05218400, 0x4, 256, 0x4, 1, 0x00000000, 0xFFFFFFFF, 0x00000000, 0x00000000, 0x00000000, .full⟩]

/-- Register rows of block 0x0522. -/
def regTable_0522 : List RegDef :=
  [
    ⟨0x05220020, 0x4, 1, 0x4, 1, 0x00000000, 0x00000000, 0x0000001F, 0x00000000, 0x00000000, .full⟩,
    ⟨0x05220024, 0x4, 1, 0x4, 1, 0x00000000, 0x00000000, 0x00000000, 0x00000000, 0x00000000, .full⟩,
    ⟨0x05220010, 0x4, 1, 0x4, 1, 0x00000000, 0x00000000, 0x00000000, 0x00000000, 0x00000000, .full⟩,
    ⟨0x05220014, 0x4, 1, 0x4, 1, 0x00000000, 0x00000000, 0x00000000, 0x00000000, 0x00000000, .mram⟩,
    ⟨0x05220018, 0x4, 1, 0x4, 1, 0x0B4503E8, 0x00000000, 0x00000000, 0x00000000, 0x00000000, .full⟩,
    ⟨0x05220100, 0x20, 8, 0x4, 1, 0x00000000, 0x00000000, 0x00000000, 0x00000000, 0x00000000, .full⟩,
    ⟨0x05220104, 0x20, 8, 0x4, 1, 0x00000000, 0x00000000, 0x00000000, 0x00000000, 0x00000000, .full⟩,
    ⟨0x05220108, 0x20, 8, 0x4, 1, 0x00000000, 0x00000000, 0x00000000, 0x00000000, 0x00000000, .full⟩,
    ⟨0x0522010C, 0x20, 8, 0x4, 1, 0x00000000, 0x00000000, 0x00000000, 0x00000000, 0x00000000, .full⟩,
    ⟨0x05220110, 0x20, 8, 0x4, 1, 0x00000000, 0x00000000, 0x00000000, 0x00000000, 0x00000000, .full⟩,
    ⟨0x05220114, 0x20, 8, 0x4, 1, 0x00000000, 0x00000000, 0x00000000, 0x00000000, 0x00000000, .full⟩,
    ⟨0x05220118, 0x20, 8, 0x4, 1, 0x00000000, 0x00000000, 0x00000000, 0x00000000, 0x00000000, .full⟩]

/-- Register rows of block 0x0523. -/
def regTable_0523 : List RegDef :=
  [
    ⟨0x05230010, 0x4, 1, 0x4, 1, 0x0000000A, 0x00000000, 0x00000000, 0x00000000, 0x00000000, .full⟩,
    ⟨0x05230020, 0x4, 1, 0x4, 1, 0x00000000, 0x00000000, 0x00000007, 0x00000000, 0x00000000, .held⟩,
    ⟨0x05230024, 0x4, 1, 0x4, 1, 0x00000000, 0x00000000, 0x00000000, 0x00000000, 0x00000000, .held⟩,
    ⟨0x05230028, 0x4, 1, 0x4, 1, 0x00000000, 0x00000000, 0x00000000, 0x00000001, 0x00000000, .full⟩,
    ⟨0x0523002C, 0x4, 1, 0x4, 1, 0x00000000, 0x00000000, 0x00000000, 0x00000000, 0x00000000, .held⟩,
    ⟨0x05230100, 0x20, 19, 0x4, 1, 0x00800008, 0x00000000, 0x00000000, 0x00000000, 0x00000000, .full⟩,
    ⟨0x05230104, 0x20, 19, 0x4, 1, 0x00000000, 0x00000000, 0x00000000, 0x00000000, 0x00000000, .full⟩,
    ⟨0x05230108, 0x20, 19, 0x4, 1, 0x1E0F1A0A, 0x00000000, 0x00000000, 0x00000000, 0x00000000, .full⟩,
    ⟨0x0523010C, 0x20, 19, 0x4, 1, 0x00000000, 0x00000001, 0x00000000, 0x00000000, 0x00000000, .full⟩,
    ⟨0x05230110, 0x20, 19, 0x4, 1, 0x00000000, 0x00000000, 0x00000000, 0x00000000, 0x00000000, .full⟩,
    ⟨0x05230114, 0x20, 19, 0x4, 1, 0x00000000, 0x00000000, 0x00000000, 0x00000000, 0x00000000, .full⟩,
    ⟨0x05230118, 0x20, 19, 0x4, 1, 0x00000000, 0x00000000, 0x00000000, 0x00000000, 0x00000000, .full⟩,
    ⟨0x0523011C, 0x20, 19, 0x4, 1, 0x00000000, 0x00000000, 0x00000000, 0x00000000, 0x00000000, .held⟩,
    ⟨0x05231000, 0x10, 64, 0x4, 1, 0x00000000, 0x00000000, 0x00000000, 0x00000000, 0x00000000, .held⟩,
    ⟨0x05231004, 0x10, 64, 0x4, 1, 0x00000000, 0x00000000, 0x00000000, 0x00000000, 0x00000000, .held⟩,
    ⟨0x05231008, 0x10, 64, 0x4, 1, 0x00000000, 0x00000000, 0x00000000, 0x00000000, 0x00000000, .held⟩,
    ⟨0x0523100C, 0x10, 64, 0x4, 1, 0x00000000, 0x00000000, 0x00000000, 0x00000000, 0x00000000, .held⟩]

/-- Register rows of block 0x0524. -/
def regTable_0524 : List RegDef :=
  [
    ⟨0x05240010, 0x4, 1, 0x4, 1, 0x00000000, 0x00000000, 0x00000000, 0x00000000, 0x00000000, .full⟩,
    ⟨0x05240014, 0x4, 1, 0x4, 1, 0x00000000, 0x00000000, 0x00000000, 0x00000000, 0x00000000, .full⟩,
    ⟨0x05240018, 0x4, 1, 0x4, 1, 0x00000000, 0x00000000, 0x0000001F, 0x00000000, 0x00000000, .held⟩,
    ⟨0x0524001C, 0x4, 1, 0x4, 1, 0x00000000, 0x00000000, 0x00000000, 0x00000000, 0x00000000, .held⟩,
    ⟨0x05240020, 0x4, 1, 0x4, 1, 0x00000000, 0x00000000, 0x00000000, 0x00000000, 0x00000000, .held⟩,
    ⟨0x05240024, 0x4, 1, 0x4, 1, 0x00000000, 0x00000000, 0x00000000, 0x00000000, 0x00000000, .held⟩,
    ⟨0x05240028, 0x4, 1, 0x4, 1, 0x00000000, 0xFFFFFFFF, 0x00000000, 0x00000000, 0x00000000, .held⟩]

/-- Register rows of block 0x0526. -/
def regTable_0526 : List RegDef :=
  [
    ⟨0x05260100, 0x4, 96, 0x4, 1, 0x00000000, 0x00000000, 0x00000000, 0x00000000, 0x00000000, .full⟩,
    ⟨0x05260060, 0x4, 1, 0x4, 1, 0x00140A00, 0x00000000, 0x00000000, 0x00000000, 0x00000000, .full⟩,
    ⟨0x05260064, 0x4, 1, 0x4, 1, 0x00000000, 0x00000000, 0x00FFFF00, 0x00000000, 0x00000000, .held⟩,
    ⟨0x0526006C, 0x4, 1, 0x4, 1, 0x00000000, 0x00000000, 0x00000000, 0x00000000, 0x00000000, .held⟩,
    ⟨0x05260010, 0x4, 3, 0x4, 1, 0x00000000, 0x00000000, 0x00000000, 0x00000000, 0x00000000, .held⟩,
    ⟨0x05260020, 0x8, 3, 0x4, 1, 0x00000000, 0x00000000, 0xFFFFFFFF, 0x00000000, 0x00000000, .full⟩,
    ⟨0x05260024, 0x8, 3, 0x4, 1, 0x00000000, 0x00000000, 0x00000000, 0x00000000, 0x00000000, .full⟩,
    ⟨0x05260040, 0x4, 3, 0x4, 1, 0x00000000, 0x00000000, 0xFFFFFFFF, 0x00000000, 0x00000000, .held⟩,
    ⟨0x05260054, 0x4, 3, 0x4, 1, 0x00000000, 0x00000000, 0x00000000, 0x00000000, 0x00000000, .held⟩,
    ⟨0x05260050, 0x4, 1, 0x4, 1, 0x00000000, 0x00000000, 0x00000000, 0x00000000, 0x00000000, .full⟩,
    ⟨0x05260070, 0x8, 4, 0x4, 1, 0x00000000, 0x00000000, 0x00000000, 0x00000000, 0x00000000, .held⟩,
    ⟨0x05260074, 0x8, 4, 0x4, 1, 0x00000000, 0x00000000, 0x00000000, 0x00000000, 0x00000000, .held⟩]

/-- Register rows of block 0x0520. -/
def regTable_0520 : List RegDef :=
  [
    ⟨0x05200010, 0x4, 3, 0x4, 1, 0x00000000, 0x00000000, 0x00000000, 0x00000000, 0x00000000, .full⟩,
    ⟨0x05200020, 0x8, 2, 0x4, 1, 0x00000000, 0x00000000, 0x00000000, 0x00000000, 0x00000000, .full⟩,
    ⟨0x05200024, 0x8, 2, 0x4, 1, 0x00000000, 0x00000000, 0x00000000, 0x00000000, 0x00000000, .full⟩,
    ⟨0x05200040, 0x4, 3, 0x4, 1, 0x00000000, 0x00000000, 0x00000000, 0x00000000, 0x00000000, .full⟩,
    ⟨0x05200050, 0x4, 1, 0x4, 1, 0x00000000, 0xFFFFFFFF, 0x00000000, 0x00000000, 0x00000000, .full⟩,
    ⟨0x05200054, 0x4, 1, 0x4, 1, 0x00000000, 0xFFFFFFFF, 0x00000000, 0x00000000, 0x00000000, .full⟩,
    ⟨0x05201000, 0x4, 7168, 0x4, 1, 0x00000000, 0x00000000, 0x00000000, 0x00000000, 0x00000000, .full⟩]

/-- Register rows of block 0x0525. -/
def regTable_0525 : List RegDef :=
  [
    ⟨0x05250010, 0x4, 1, 0x4, 1, 0x00001400, 0x00000000, 0x00000000, 0x00000000, 0x00000000, .full⟩,
    ⟨0x05250014, 0x4, 1, 0x4, 1, 0x00000000, 0x00000000, 0x00000000, 0x00000000, 0x00000000, .full⟩,
    ⟨0x05250018, 0x4, 1, 0x4, 1, 0x00000000, 0x00000000, 0x00000000, 0x00000000, 0x00000000, .full⟩,
    ⟨0x0525001C, 0x4, 1, 0x4, 1, 0x00000000, 0x00000000, 0x00000000, 0x00000000, 0x00000000, .full⟩,
    ⟨0x05250020, 0x4, 1, 0x4, 1, 0x00000000, 0x00000000, 0x00000000, 0x00000000, 0x00000000, .full⟩,
    ⟨0x05250030, 0x4, 1, 0x4, 1, 0x00000000, 0x00000000, 0x00000000, 0x00000000, 0x00000000, .full⟩,
    ⟨0x05250034, 0x4, 1, 0x4, 1, 0x00000000, 0x00000000, 0x00000000, 0x00000000, 0x00000000, .full⟩,
    ⟨0x05250038, 0x4, 1, 0x4, 1, 0x00000000, 0x00000000, 0x00000000, 0x00000000, 0x00000000, .full⟩,
    ⟨0x0525003C, 0x4, 1, 0x4, 1, 0x00000000, 0x00000000, 0x00000000, 0x00000000, 0x00000000, .full⟩,
    ⟨0x05250100, 0x10, 32, 0x4, 1, 0x00000000, 0x00000000, 0x00000000, 0x00000000, 0x00000000, .full⟩,
    ⟨0x05250104, 0x10, 32, 0x4, 1, 0x00000FFF, 0x00000000, 0x00000000, 0x00000000, 0x00000000, .full⟩,
    ⟨0x05250108, 0x10, 32, 0x4, 1, 0x00000000, 0x00000000, 0x00000000, 0x00000000, 0x00000000, .full⟩,
    ⟨0x05250400, 0x10, 8, 0x4, 1, 0x00000000, 0x00000000, 0x00000000, 0x00000000, 0x00000000, .full⟩,
    ⟨0x05250404, 0x10, 8, 0x4, 1, 0x00000000, 0x00000000, 0x00000000, 0x00000000, 0x00000000, .full⟩,
    ⟨0x05250408, 0x10, 8, 0x4, 1, 0x00000000, 0x00000000, 0x00000000, 0x00000000, 0x00000000, .full⟩,
    ⟨0x0525040C, 0x10, 8, 0x4, 1, 0x00000000, 0x00000000, 0x00000000, 0x00000000, 0x00000000, .full⟩,
    ⟨0x05250500, 0x4, 4, 0x4, 1, 0x00000000, 0x00000000, 0x00000000, 0x00000000, 0x00000000, .full⟩]

/-- Register rows of block 0x0527. -/
def regTable_0527 : List RegDef :=
  [
    ⟨0x05270010, 0x4, 1, 0x4, 1, 0x0000008A, 0x00000000, 0x00000000, 0x00000000, 0x00000000, .full⟩,
    ⟨0x05270014, 0x4, 1, 0x4, 1, 0x00000000, 0x00000000, 0x00000000, 0x00000000, 0x00000000, .full⟩,
    ⟨0x05270018, 0x4, 1, 0x4, 1, 0x00000000, 0x0000000F, 0x00000000, 0x00000000, 0x00000000, .full⟩,
    ⟨0x0527001C, 0x4, 1, 0x4, 1, 0x00000000, 0x00000000, 0x00000000, 0x00000000, 0x00000000, .held⟩,
    ⟨0x05270020, 0x4, 1, 0x4, 1, 0x00000000, 0x00000000, 0x0000001F, 0x00000000, 0x00000000, .full⟩,
    ⟨0x05270024, 0x4, 1, 0x4, 1, 0x00000000, 0x00000000, 0x00000000, 0x00000000, 0x00000000, .full⟩,
    ⟨0x05270040, 0x4, 16, 0x4, 1, 0x00000000, 0x00000000, 0x00000000, 0x00000000, 0x00000000, .full⟩,
    ⟨0x05270404, 0x4, 63, 0x4, 1, 0x00000000, 0x00000000, 0x00000000, 0x00000000, 0x00000000, .full⟩,
    ⟨0x05270604, 0x4, 63, 0x4, 1, 0x00000000, 0x00000000, 0x00000000, 0x0000FFFF, 0x00000000, .full⟩,
    ⟨0x05270800, 0x40, 4, 0x4, 16, 0x00000000, 0x00000000, 0x00000000, 0x00000000, 0x00000000, .full⟩,
    ⟨0x05271000, 0x8, 192, 0x4, 1, 0x00000000, 0x00000000, 0x00000000, 0x00000000, 0x00000000, .full⟩,
    ⟨0x05271004, 0x8, 192, 0x4, 1, 0x00000000, 0x00000000, 0x00000000, 0x00000000, 0x00000000, .full⟩,
    ⟨0x05272000, 0x8, 192, 0x4, 1, 0x00000000, 0x00000000, 0x00000000, 0x00000000, 0x00000000, .full⟩,
    ⟨0x05272004, 0x8, 192, 0x4, 1, 0x00000000, 0x00000000, 0x00000000, 0x00000000, 0x00000000, .full⟩]

/-- Register rows of block 0x0528. -/
def regTable_0528 : List RegDef :=
  [
    ⟨0x05280010, 0x4, 1, 0x4, 1, 0x99960000, 0x00000000, 0x00000000, 0x00000000, 0x00000000, .full⟩,
    ⟨0x05280014, 0x4, 1, 0x4, 1, 0x0C03A000, 0x00000000, 0x00000000, 0x00000000, 0x00000000, .full⟩,
    ⟨0x05280018, 0x4, 1, 0x4, 1, 0x190E0000, 0x00000000, 0x00000000, 0x00000000, 0x00000000, .full⟩,
    ⟨0x0528001C, 0x4, 1, 0x4, 1, 0x00000000, 0x00000000, 0x00000000, 0x00000000, 0x00000000, .full⟩,
    ⟨0x05280020, 0x4, 1, 0x4, 1, 0x00000000, 0x00000000, 0x00000000, 0x00000000, 0x00000000, .full⟩,
    ⟨0x05280024, 0x4, 1, 0x4, 1, 0x0000281E, 0x00000000, 0x00000000, 0x00000000, 0x00000000, .full⟩,
    ⟨0x05280028, 0x4, 1, 0x4, 1, 0x00000000, 0x00000000, 0x00000000, 0x00000000, 0x00000000, .full⟩,
    ⟨0x05280030, 0x4, 1, 0x4, 1, 0x00000000, 0x00000000, 0x00000000, 0x8000FF3F, 0x00000000, .full⟩,
    ⟨0x05280034, 0x4, 1, 0x4, 1, 0x00000000, 0x00000000, 0x00000000, 0x00000000, 0x00000000, .full⟩,
    ⟨0x05280038, 0x4, 1, 0x4, 1, 0x00000000, 0x00000000, 0x00000000, 0x00000000, 0x00000000, .full⟩,
    ⟨0x0528003C, 0x4, 1, 0x4, 1, 0x00000000, 0x00000000, 0x00000000, 0x00000000, 0x00000000, .full⟩,
    ⟨0x05280040, 0x4, 1, 0x4, 1, 0x00000000, 0x00000000, 0x00000000, 0x00000003, 0x00000000, .full⟩,
    ⟨0x05280044, 0x4, 1, 0x4, 1, 0x00000000, 0x00000000, 0x00000000, 0x00000000, 0x00000000, .held⟩,
    ⟨0x05280048, 0x4, 1, 0x4, 1, 0x00000000, 0x00000000, 0x00000000, 0x00000000, 0x00000000, .held⟩,
    ⟨0x05280050, 0x4, 1, 0x4, 1, 0x00000000, 0x00000000, 0x00000000, 0x00000000, 0x00000000, .mram⟩,
    ⟨0x05280054, 0x4, 1, 0x4, 1, 0x00000000, 0x00000000, 0x00000000, 0x000000FF, 0x00000000, .full⟩,
    ⟨0x05280058, 0x4, 1, 0x4, 1, 0x00000000, 0x00000000, 0x00000000, 0x00000000, 0x00000000, .full⟩,
    ⟨0x05280060, 0x4, 4, 0x4, 1, 0x00000000, 0x00000000, 0x00000000, 0x00000000, 0x00000000, .full⟩,
    ⟨0x05280070, 0x4, 2, 0x4, 1, 0x00000000, 0x00000000, 0x00000000, 0xFFFFFFFF, 0x00000000, .full⟩,
    ⟨0x05280080, 0x4, 1, 0x4, 1, 0x00000000, 0x00000000, 0x000003FF, 0x00000000, 0x00000000, .held⟩,
    ⟨0x05280084, 0x4, 1, 0x4, 1, 0x00000000, 0x00000000, 0x00000000, 0x00000000, 0x00000000, .held⟩,
    ⟨0x05280088, 0x4, 1, 0x4, 1, 0x00000000, 0x00000000, 0x00000000, 0x00000000, 0x00000000, .held⟩,
    ⟨0x0528008C, 0x4, 1, 0x4, 1, 0x00000000, 0x00000000, 0x00000000, 0x00000000, 0x00000000, .held⟩,
    ⟨0x05280090, 0x4, 1, 0x4, 1, 0x00000000, 0x00000000, 0x00000000, 0x00000000, 0x00000000, .held⟩] ++
  [
    ⟨0x05280100, 0x8, 1, 0x4, 1, 0x00000000, 0x00000000, 0x00000000, 0x00000000, 0x00000000, .full⟩,
    ⟨0x05280104, 0x8, 1, 0x4, 1, 0x00000000, 0x00000000, 0x00000000, 0x00000000, 0x00000000, .full⟩,
    ⟨0x05280110, 0x8, 1, 0x4, 1, 0x00000000, 0x00000000, 0x00000000, 0x00000000, 0x00000000, .full⟩,
    ⟨0x05280114, 0x8, 1, 0x4, 1, 0x00000000, 0x00000000, 0x00000000, 0x00000000, 0x00000000, .full⟩]

/-- Register rows of block 0x0529. -/
def regTable_0529 : List RegDef :=
  [
    ⟨0x05290010, 0x4, 1, 0x4, 1, 0x00000000, 0x00000000, 0x00000000, 0x00000000, 0x00000000, .full⟩,
    ⟨0x05290014, 0x4, 1, 0x4, 1, 0x00000000, 0x00000000, 0x00000000, 0x00000000, 0x00000000, .full⟩,
    ⟨0x05290018, 0x4, 1, 0x4, 1, 0x00000006, 0x00000000, 0x00000000, 0x00000000, 0x00000000, .full⟩,
    ⟨0x05290020, 0x4, 1, 0x4, 1, 0x00000000, 0x0000FFFF, 0x00000000, 0x00000000, 0x00000000, .full⟩,
    ⟨0x05290024, 0x4, 1, 0x4, 1, 0x00000000, 0x00000000, 0x00000000, 0x00000000, 0x00000000, .full⟩,
    ⟨0x05290028, 0x4, 1, 0x4, 1, 0x00000000, 0x00000000, 0x00000000, 0x00000000, 0x00000000, .full⟩,
    ⟨0x0529002C, 0x4, 1, 0x4, 1, 0x00000000, 0x00000000, 0x00000001, 0x00000000, 0x00000000, .held⟩,
    ⟨0x05290030, 0x4, 1, 0x4, 1, 0x00000000, 0x00000000, 0x00000000, 0x00000000, 0x00000000, .held⟩,
    ⟨0x05290034, 0x4, 1, 0x4, 1, 0x00000000, 0x00000000, 0x00000000, 0x00000000, 0x00000001, .full⟩,
    ⟨0x05290038, 0x4, 1, 0x4, 1, 0x00000000, 0x00000000, 0x00000000, 0x00000000, 0x00000000, .held⟩]

/-- Register rows of block 0x052C. -/
def regTable_052C : List RegDef :=
  [
    ⟨0x052C0010, 0x4, 1, 0x4, 1, 0x00000078, 0x00000000, 0x00000000, 0x00000000, 0x00000000, .full⟩,
    ⟨0x052C0014, 0x4, 1, 0x4, 1, 0x00000000, 0x00000000, 0x00000000, 0x00007F0F, 0x00000000, .full⟩,
    ⟨0x052C0018, 0x4, 1, 0x4, 1, 0x00000000, 0xFFFFFFFF, 0x00000000, 0x00000000, 0x00000000, .full⟩,
    ⟨0x052C001C, 0x4, 1, 0x4, 1, 0x00000000, 0x007FFFFF, 0x00000000, 0x00000000, 0x00000000, .full⟩,
    ⟨0x052C0020, 0x4, 1, 0x4, 1, 0x00000000, 0x0001FFFF, 0x00000000, 0x00000000, 0x00000000, .full⟩,
    ⟨0x052C0024, 0x4, 1, 0x4, 1, 0x00000000, 0x00000000, 0x00000000, 0x00000000, 0x00000000, .mram⟩,
    ⟨0x052C0028, 0x4, 1, 0x4, 1, 0x00000000, 0x00000000, 0x00000000, 0x00000000, 0x00000000, .mram⟩,
    ⟨0x052C002C, 0x4, 1, 0x4, 1, 0x00000000, 0x00000000, 0x00000000, 0x00000000, 0x00000000, .mram⟩,
    ⟨0x052C0030, 0x4, 1, 0x4, 1, 0x00000000, 0x00000000, 0x00000000, 0x00000000, 0x00000000, .mram⟩,
    ⟨0x052C0034, 0x4, 1, 0x4, 1, 0x00000000, 0x00000000, 0x00000000, 0x00000000, 0x00000000, .mram⟩,
    ⟨0x052C0038, 0x4, 1, 0x4, 1, 0x00000000, 0x00000000, 0x00000000, 0x00000000, 0x00000000, .full⟩,
    ⟨0x052C0040, 0x4, 1, 0x4, 1, 0x00000000, 0x00000000, 0x00000000, 0x00000000, 0x00000000, .held⟩,
    ⟨0x052C0044, 0x4, 1, 0x4, 1, 0x00000000, 0x00000000, 0x00000000, 0x00000000, 0x00000000, .held⟩,
    ⟨0x052C0048, 0x4, 1, 0x4, 1, 0x00000000, 0x00000000, 0x00000000, 0x00000000, 0x00000000, .held⟩,
    ⟨0x052C004C, 0x4, 1, 0x4, 1, 0x00000000, 0x00000000, 0x00000000, 0x00000000, 0x00000000, .held⟩,
    ⟨0x052C0050, 0x4, 1, 0x4, 1, 0x00000000, 0x00000000, 0x00000000, 0x00000000, 0x00000000, .held⟩,
    ⟨0x052C0060, 0x4, 1, 0x4, 1, 0x00000000, 0x00000000, 0x0000001F, 0x00000000, 0x00000000, .held⟩,
    ⟨0x052C0064, 0x4, 1, 0x4, 1, 0x00000000, 0x00000000, 0x00000000, 0x00000000, 0x00000000, .held⟩,
    ⟨0x052C0100, 0x8, 4, 0x4, 1, 0x00000000, 0x00000000, 0x00000000, 0x00000000, 0x00000000, .mram⟩,
    ⟨0x052C0104, 0x8, 4, 0x4, 1, 0x00000000, 0x00000000, 0x00000000, 0x00000000, 0x00000000, .mram⟩]

/-- Register rows of block 0x0700. -/
def regTable_0700 : List RegDef :=
  [
    ⟨0x07000010, 0x4, 4, 0x4, 1, 0x00000000, 0x00000000, 0x00000000, 0xFFFFFFFF, 0x00000000, .full⟩,
    ⟨0x07000020, 0x4, 1, 0x4, 1, 0x00000000, 0x00000000, 0x00000000, 0x00000000, 0x00000000, .full⟩,
    ⟨0x07000024, 0x4, 1, 0x4, 1, 0x00000000, 0x00000000, 0x00000000, 0x00000000, 0x00000000, .held⟩,
    ⟨0x07000028, 0x4, 1, 0x4, 1, 0x00000000, 0x00000000, 0x00000003, 0x00000000, 0x00000000, .held⟩,
    ⟨0x0700002C, 0x4, 1, 0x4, 1, 0x00000000, 0x00000000, 0x00000000, 0x00000000, 0x00000000, .held⟩,
    ⟨0x07000100, 0x8, 8, 0x4, 1, 0x00000000, 0x00000000, 0x00000000, 0x00000000, 0x00000000, .full⟩,
    ⟨0x07000104, 0x8, 8, 0x4, 1, 0x00000000, 0x00000000, 0x00000000, 0x00000000, 0x00000000, .full⟩,
    ⟨0x07000180, 0x8, 8, 0x4, 1, 0x00000000, 0x00000000, 0x00000000, 0x00000000, 0x00000000, .full⟩,
    ⟨0x07000184, 0x8, 8, 0x4, 1, 0x00000000, 0x00000000, 0x00000000, 0x00000000, 0x00000000, .full⟩]

/-- The register rows that the address may fall into: those of its block (R31, R32). -/
def regRows (a : Nat) : List RegDef :=
  if 0x03000000 ≤ a ∧ a < 0x03021000 then regTable_CTX
  else if 0x02000000 ≤ a ∧ a < 0x02600000 then regTable_CREW
  else if 0x05100000 ≤ a ∧ a < 0x05180000 then regTable_CAN
  else if 0x05180000 ≤ a ∧ a < 0x05200000 then regTable_LIN
  else match a / 0x10000 with
    | 0x052D => regTable_052D
    | 0x0501 => regTable_0501
    | 0x0502 => regTable_0502
    | 0x0503 => regTable_0503
    | 0x0504 => regTable_0504
    | 0x0505 => regTable_0505
    | 0x0506 => regTable_0506
    | 0x0600 => regTable_0600
    | 0x0507 => regTable_0507
    | 0x0508 => regTable_0508
    | 0x0800 => regTable_0800
    | 0x0521 => regTable_0521
    | 0x0522 => regTable_0522
    | 0x0523 => regTable_0523
    | 0x0524 => regTable_0524
    | 0x0526 => regTable_0526
    | 0x0520 => regTable_0520
    | 0x0525 => regTable_0525
    | 0x0527 => regTable_0527
    | 0x0528 => regTable_0528
    | 0x0529 => regTable_0529
    | 0x052C => regTable_052C
    | 0x0700 => regTable_0700
    | _ => []

/-- Whether the row holds the word at address `a`. -/
def RegDef.covers (d : RegDef) (a : Nat) : Bool :=
  d.base ≤ a && (a - d.base) / d.s1 < d.n1 && (a - d.base) % d.s1 / d.s2 < d.n2 && (a - d.base) % d.s1 % d.s2 == 0

/-- The row of the word at address `a`, if the map assigns one. -/
def regDefAt (a : Nat) : Option RegDef := (regRows a).find? (fun d => d.covers a)

end Sys2Proof.Machine
end

