-- ==== Sys2Proof/Config.lean ====
section
/-! DEFINITION. What the spec leaves to the part or open: the variants of R1 and R2, and the free values, which are
constants without a body so that no proof can see what they are. -/

namespace Sys2Proof.Config

/-- The part (R1, R2): which blocks are present. -/
inductive Variant where
  | pz7480
  | pz7472
  | pz7456
  deriving DecidableEq, Repr

/-- The n-th value that the spec leaves open; a meaning draws one by reading the counter State.free and advancing it
(log entry 4). -/
opaque free : Nat → Nat

/-- What the spec leaves open in a cue: of the class given, from the source index given, item 0 CODE, 1 ARG, 2 DATA,
3 SOURCE kind, 4 SOURCE index (R255 gives only some of them for START, TIMER, WATCH and FAULT: log entry 9). -/
opaque cueOpen (cls index item : Nat) : Nat

/-- Other values that the spec leaves open, by what they are and an argument (log entry 11): 0 the can_bus_id of an
untransformed frame that entered at a port without a controller, 1 the destination MAC of ACF PDUs of a port, 2 the FID of a LIN error that concerns no
frame, 3 the IDCODE of the TAP,
4 the Dailies EVENT number of a stamped event that has none (0 NVM RESET_LOST, 1 TRK SYNC_LOST, 2 PWR CLASS_MISMATCH,
3 ZRT AUTH_FAIL), 5 the session whose queue on the master the address of an expansion's NOTIFY write names, 6 the address to which an
expansion writes the records of a session (R396). -/
opaque openValue (what arg : Nat) : Nat

/-- The Ethernet tables of R331 to R335, whose layout at ETH offsets 0x1000 to 0x7FFF the spec does not give: from the words
there, by table, row and item (log entry 11). In a port mask bits 0 to 2 are the ports and bit 3 the gateway. Tables: 0 forwarding (items: in use, MAC, VID, port mask), 1 VLAN (in use,
VID, members, untag set), 2 port (PVID), 3 PCP mapping (traffic class), 4 operative or shadow gate list (gate states,
interval in ns; row 64: entries, cycle time, base time), 5 streams (in use, MAC, VID, replicated, HISTORY, RESET_MS),
6 secure channel of an uplink (on, VALIDATE, replay window), 7 module (own MAC, Ethernet engine), 8 listed multicast
(in use, MAC), 9 PLCA of the T1S port (in use, node ID, node count, TO_TIMER, highest burst). -/
opaque ethTable (words : List (Nat × BitVec 32)) (table row item : Nat) : Nat

/-- Bytes of the boot ROM (R31; the spec does not list its contents: log entry 6). -/
opaque bootRom : Nat → Byte

/-- What the Script names for which R492 gives no place in its VALUE formats, as a function of the Script's bytes
(log entry 7): voters of R86, Attic areas of R76 and the like are read out of it by index. -/
opaque scriptNames : List Byte → Nat → List Nat

/-- The table of images in the body of a CREW part, whose layout the spec does not give (R501; log entry 16): of image `i`,
item 0: 0 absent, 1 compact, 2 extended; item 1: its 16-bit words; item 2 + k: word k. -/
opaque crewImage : List Byte → Nat → Nat → Nat

/-- The list in the body of a MANIFEST part, whose layout the spec does not give (R501; log entry 16): of row `i`, item 0: in
use; 1: TYPE; 2: TARGET; 3: VERSION; 4: SHA-256 as a number. -/
opaque manifestRow : List Byte → Nat → Nat → Nat

/-- Where the part's own thresholds lie within the ranges of R72 (log entry 17): threshold `k` lies this many mV above its
lowest value, modulo the width of its range. -/
opaque trim : Nat → Nat

/-- The Walirisk key in the boot ROM that signatures are verified under when slots 4 and 5 are EMPTY (R515); its value is not
stated. -/
opaque waliriskKey : List Byte

/-- What the expansions' windows show of their active parts when a command written to UPD_CMD asks (R507): module, TYPE, VERSION, and
COMPAT entries of TYPE, TARGET, MIN and MAX (log entry 20). -/
opaque remoteParts : Nat → List (Nat × Nat × Nat × List (Nat × Nat × Nat × Nat))

/-- The IPv4 and UDP headers of a ZRT frame to a peer address and port, from a port, around a payload (R363 gives only the addresses and
the port; log entry 20). -/
opaque ipUdpHead : (peerIp port len : Nat) → List Byte

end Sys2Proof.Config
end

