-- ==== Sys2Proof/Machine/State.lean ====
section
/-! DEFINITION. The state of the block as plain data: the register file and the memories, the state that the spec
names without giving it a register, the queue of waiting commands, and the state at reset. -/

namespace Sys2Proof.Machine

/-- Why a step stops with a fault: the block has no fault of this kind (every error the spec names changes state), so
no meaning raises one. -/
inductive Fault where
  /-- Kept for the interface; raised by nothing (safe). -/
  | none
  deriving DecidableEq, Repr

/-- Why a command is refused. -/
inductive Refusal where
  /-- Raised by the arm of a command that has no meaning yet (safe: the block goes on, the model stops). -/
  | notModelled (mnemonic : String)
  /-- Raised by a command whose operands spell no event of the spec, such as a transaction of no byte or of more than
  64 bytes (R24) (safe: no such event occurs in hardware). -/
  | illFormed (mnemonic : String)
  deriving DecidableEq, Repr

/-- A record of the Dailies (R279). -/
structure DailyRec where
  slate : Slate := 0
  kind : Nat := 0
  index : Nat := 0
  unit : Nat := 0
  event : Nat := 0
  iseq : Nat := 0
  corrected : Bool := false
  coarse : Bool := false
  island : Nat := 0
  data : BitVec 128 := 0
  deriving DecidableEq, Repr

/-- The stamp latch of one island (R274, R280): records waiting for DLY, oldest first, the next ISEQ, the records
lost since the last LOST record, and the offset of its counter from the reference slate in ticks (R275, R276). -/
structure Island where
  recs : List DailyRec := []
  iseq : Nat := 0
  lost : Nat := 0
  ofs : Int := 0
  deriving DecidableEq, Repr

/-- A cue queue entry (R254). -/
structure Cue where
  cls : Nat := 0
  urgent : Bool := false
  merged : Bool := false
  code : Nat := 0
  kind : Nat := 0
  index : Nat := 0
  arg : Nat := 0
  seq : Nat := 0
  data : Nat := 0
  stampLo : Nat := 0
  deriving DecidableEq, Repr

/-- A cue posted and not yet offered to its queue: the target's initiator ID and whether it is of a merging class. -/
structure Offer where
  target : Nat := 0
  cue : Cue := {}
  merge : Bool := false
  deriving DecidableEq, Repr

/-- The frame unit's own state beside its registers (R287 to R290): the previous boundary, and the FSYNC edges
counted, up to two. -/
structure Frm where
  prev : Nat := 0
  edges : Nat := 0
  captured : Bool := false
  slewPpm : Int := 0
  deriving DecidableEq, Repr

/-- The Dailies unit's own state: the ring positions not yet archived, oldest first, and how many of them the running
archive covers (R281, R285), and the highest stamp recorded (R277). -/
structure Dly where
  pend : List Nat := []
  cover : Nat := 0
  top : Nat := 0
  deriving DecidableEq, Repr

/-- A frame on its way to a die over its stage link (R212); KEEPALIVE frames and the frames from a die are commands. -/
inductive LinkFrame where
  /-- CMD: channel within the die, MODE, DIR, STOP, TAG, and the RESTART of R136. -/
  | cmd (ch mode dir stop tag : Nat) (restart : Bool)
  /-- PWM: channel, DUTY, PDIV, PHASE, and whether only DUTY changed (R127). -/
  | pwm (ch duty pdiv phase : Nat) (dutyOnly : Bool)
  /-- TABLE: channel, what is sent (0 profile point, 1 envelope HI, 2 fail-safe entry), index, word. -/
  | table (ch what index word : Nat)
  /-- PARAM: channel, what is sent (0 permit, 1 cap, 2 budget state, 3 pause, 4 fuse, 5 gate, 0x100 + the offset of a
  context word: that threshold or configuration word), value. -/
  | param (ch what value : Nat)
  | hold
  | park
  | adopt (epoch : Nat)
  | fsApply
  | fsRelease
  | limpArm (arm : Bool)
  | holdWin (ms : Nat)
  deriving DecidableEq, Repr

/-- The four states of a power die (R216). -/
inductive DieState where
  | notAdopted
  | adopted
  | hold
  | failsafe
  deriving DecidableEq, Repr

/-- What the event store of a die in hold keeps of one event (R218): channel, code (0 to 5 a trip by the causes of
R256, 6 an energy report in µJ, 7 the overtemperature latch, 8 a stall, 9 a phase change or turn-on, 10 hold entry, 11 FAILSAFE
entry, 12 an SH group trip), value, and the die's slate. -/
structure DieEvent where
  ch : Nat := 0
  code : Nat := 0
  value : Nat := 0
  slate : Slate := 0
  deriving DecidableEq, Repr

/-- A power die's own state (R213 to R229): its state and whether it is adopted while in FAILSAFE, parked, the epoch
and the last SEQ accepted, its hold window, ARM bit and overtemperature latch, the feed-disturbance mark, the
output-enable gate, LOST_STATE, the events stored in hold, the frame boundary received, the discards it counts, the
accepted LIMP levels (bit 8 LIMP_EN), whether it ever received a fail-safe table (R62), whether its window has expired
since it was last adopted, whether it is parked with its oscillator stopped (R79), the part of a boundary's shift it has still to
make (R291), the words of its channels and of its units as it last received them, which it works with while the module does
not count it as adopted (R37, R210, R218; log entry 54), and whether it is below its undervoltage threshold (R72, R73). -/
structure Die where
  st : DieState := .notAdopted
  adopted : Bool := false
  parked : Bool := false
  epoch : Nat := 0
  lastSeq : Nat := 0
  winMs : Nat := 50
  arm : Bool := false
  ot : Bool := false
  fdm : Bool := false
  gate : Bool := false
  lost : Bool := false
  events : List DieEvent := []
  evLost : Nat := 0
  boundary : Nat := 0
  rxErr : Nat := 0
  limp : Nat := 0
  fsSeen : Bool := false
  winExp : Bool := false
  stopped : Bool := false
  pull : Int := 0
  regs : Tbl Word := []
  uv : Bool := false
  deriving DecidableEq, Repr

/-- The logic die's view of a stage link (R213 to R220): trained, the epoch and keep-alive SEQ it sends, whether it
counts the die as adopted, the causes of a FAILSAFE it knows of by bit (0 window, 1 CC_ACT, 2 STALE, 3 a write of
STR_FS_APPLY for no cause of R476), the
frames sent and not yet accepted, oldest first, the gate state that the Strongroom last set (R35), and the events that the die's
store could not keep, as its first EVENT frame after adoption counts them (R218). -/
structure LinkLg where
  trained : Bool := false
  epoch : Nat := 0
  seq : Nat := 0
  adopted : Bool := false
  cause : Nat := 0
  tx : List LinkFrame := []
  gate : Bool := false
  evLost : Nat := 0
  deriving DecidableEq, Repr

/-- What a power die holds for one of its channels: the command, PWM and parameter words last received, the pending
PWM word of R127, the active and pending profile tables (control word first), the envelope copy of R158 and the copy in
force for the run, the excess integral E of R155, the fail-safe entry, the trip latch, the fuse, whether the output is
driven on, whether a fail-safe turn-on waits (R223), the phase of R134 and of R200 and the profile point as the die runs
them (the context shows them while the die is adopted), the frame boundaries passed since a PWM start, and the on-time
of a solenoid in its duty window: the bins of R206, newest first, and the time since the newest began, in 10 µs; the
energy of R203 that its rise reserves and has drawn, in 0.1 mJ. A budget of 0 does not apply (R158). Also: the slate at which a new
DUTY and a new MODE were staged for the next PWM or carrier period (R127, R190), the cause of the trip latch, the phase that a
solenoid takes when its quench ends (R200), the fail-safe entry of the running stay in FAILSAFE (R222), whether a fail-safe action
brakes the leg (R226), and the slate of the last chop of a leg (R191). -/
structure DieCh where
  mode : Nat := 0
  tag : Nat := 0
  dir : Nat := 0
  stop : Nat := 0
  duty : Nat := 0
  pdiv : Nat := 0
  phase : Nat := 0
  nextDuty : Option Nat := none
  nextWord : Option (Nat × Nat × Nat) := none
  permit : Bool := false
  cap : Nat := 1024
  profAct : List Nat := []
  profPend : List Nat := []
  hi : List Nat := []
  budget : Nat := 0
  hiRun : List Nat := []
  budgetRun : Nat := 0
  e : Nat := 0
  fs : Nat := 0
  latch : Bool := false
  fuse : Bool := false
  out : Bool := false
  fsPend : Bool := false
  ph : Nat := 0
  sph : Nat := 0
  point : Nat := 0
  revWait : Bool := false
  braking : Bool := false
  eRise : Nat := 0
  eDrawn : Nat := 0
  bins : List Nat := []
  binT : Nat := 0
  dutyAt : Nat := 0
  modeAt : Nat := 0
  latchKind : Nat := 0
  after : Nat := 0
  fsUse : Nat := 0
  fsBrake : Bool := false
  chopAt : Option Nat := none
  deriving DecidableEq, Repr

/-- State of a channel on the logic die for which its context has no field: RESTART since the last on-edge and the
first on-edge after OFF (R136), the place among deferred channels and gate onsets (R177, R178), the delay timer of a
trip and the release condition of a fuse (R164, R167), the running capture (R140), the run's peak (R145), the
open-load clearing run (R163), the committed table being sent (R131), the frames since a PWM capture (R140), the slate
at which the output last went off and a DIR changed since (R136, R189), the initiator of the last command (R283), the solenoid
wait order (R204), the part of E_USED below 1 µJ, the reports since the onset, the current and VDS last
reported (R168) the on-time below one second (CH_ONTIME), the overload timer in 10 µs
(R193), the samples since the last STREAM cue (R194), the profile that the Script gave (R133), the bins that a capture of the
running learning has covered (R142), and whether the running CURRENT window overlapped a feed-disturbance mark or a band other than
Normal (R161). -/
structure Chan where
  restart : Bool := false
  first : Bool := false
  deferNo : Nat := 0
  onsetNo : Nat := 0
  delayRun : Bool := false
  delayUp : Bool := false
  latch : Bool := false
  needRelease : Bool := false
  capRun : Bool := false
  capSup : Bool := false
  runZero : Bool := false
  retryRun : Bool := false
  retryPend : Bool := false
  peakI : Nat := 0
  peakT : Nat := 0
  sigPrev : Nat := 0
  okRun : Nat := 0
  snap : List Nat := []
  frames : Nat := 0
  offAt : Nat := 0
  dirNew : Bool := false
  init : Nat := 0
  waitNo : Nat := 0
  eRem : Nat := 0
  runT : Nat := 0
  lastI : Nat := 0
  lastV : Nat := 0
  onUs : Nat := 0
  ovl : Nat := 0
  strN : Nat := 0
  prof : List Nat := []
  seen : Nat := 0
  winDirty : Bool := false
  deriving DecidableEq, Repr

/-- The boost controller and the shared groups of SD0 beside their registers (R199, R209): the recovery paths are
closed, the rail failed to charge, a counter that orders waiting channels (R204), the tripped groups by bit, and the
copies of SOL_BST_CFG and SOL_BST_E that SD0 keeps through a full reset. -/
structure Boost where
  closed : Bool := false
  failed : Bool := false
  nextWait : Nat := 1
  shTrip : Nat := 0
  cfg : Word := 0
  margin : Nat := 0
  deriving DecidableEq, Repr

/-- The ledger's model of a power die (R169, R181): junction, die, substrate and face temperatures in 2⁻²⁰ °C, the
consecutive stale steps and steps free of them, the trip and clamp energy reported since the last step in µJ, the power of the last step
in pW, and the hottest sensor of the last report (R181). -/
structure LdgDie where
  tj : Int := 0
  td : Int := 0
  ts : Int := 0
  tf : Int := 0
  stale : Nat := 0
  ok : Nat := 0
  uj : Nat := 0
  p : Nat := 0
  hot : Int := 0
  deriving DecidableEq, Repr

/-- The ledger's model of a wire entry (R173, R175): conductor and insulation temperatures in 2⁻²⁰ °C, and the power of
the last step in pW per metre. -/
structure LdgWire where
  tc : Int := 0
  ti : Int := 0
  p : Nat := 0
  deriving DecidableEq, Repr

/-- The ledger's state beside its registers: the models, the module dissipation in pW and the feed current in mA of the
last 100 steps, newest first (the 1 ms means of R179), the steps for which each limit has been exceeded, whether it
sheds (R180), and every channel's LAST_ACTION before the step (R182). -/
structure Ldg where
  dies : Tbl LdgDie := []
  wires : Tbl LdgWire := []
  modHist : List Nat := []
  feedHist : List Int := []
  feedOver : Nat := 0
  modOver : Nat := 0
  shedFeed : Bool := false
  shedMod : Bool := false
  last : List Nat := []
  deriving DecidableEq, Repr

/-- How far a start of the module has come (R113, R114): in reset, the Strongroom not yet released, the Script not yet
loaded, dies being adopted, Run (and the states entered from it), stopped after three failed self-tests (R466), or in
recovery (R513). -/
inductive BootPhase where
  | reset
  | strong
  | script
  | adopt
  | run
  | dead
  | recovery
  deriving DecidableEq, Repr

/-- The boot sequencer and the Cellar's view of it: the phase, whether the reset is the power-on reset, RESET_N held low,
a wait for VBAT in a brown-out, whether the boot is warm, the self-test attempts, whether every die has been adopted since
power-on (R230), whether Run has been reached since the last reset (R231), the Deep sleep exit in progress, the
crystal's validity, a full reset that is due (cause, DETAIL, INITIATOR) and has not been entered, recovery due (R504), the supply
class measured at power-on (R70), RECOV_N as sampled at power-on until the recovery that it requests (R52, R504), and whether the
record of the key cabinet authenticates at the boot in progress (R479). -/
structure Boot where
  phase : BootPhase := .reset
  por : Bool := true
  pinLow : Bool := false
  waitVbat : Bool := false
  warm : Bool := false
  tries : Nat := 0
  firstAdopt : Bool := false
  runSeen : Bool := false
  deepExit : Bool := false
  xtalBad : Bool := false
  due : Option (Nat × Nat × Nat) := none
  recDue : Bool := false
  cls24 : Bool := false
  recov : Bool := false
  cabOk : Bool := true
  deriving DecidableEq, Repr

/-- A Strongroom request in its FIFO (R469): the writer's initiator ID and the 16 bytes. -/
structure StrReq where
  init : Nat := 0
  bytes : List Byte := []
  deriving DecidableEq, Repr

/-- A slot of the key cabinet (R477 to R481): kind (0 EMPTY), USE, USER, import counter, content, the halves of a public key
imported one at a time (R480), each under the counter it came with. -/
structure Key where
  kind : Nat := 0
  use : Nat := 0
  user : Nat := 0
  ctr : Nat := 0
  bytes : List Byte := []
  half : List Byte := []
  deriving DecidableEq, Repr

/-- The Strongroom's own state beside its registers (R214, R473): KA_GO, the slate of the central computer's last
heartbeat and the slate since which heartbeats have been present, the request FIFO (R470), the debug challenge drawn and
its slate (R486), the debug back-off running and its length in minutes, the TAP instruction selected (0 BYPASS, 1 IDCODE) and
what it shifts out, the CABINET reason due at the next full reset (R479), and a recovery request of ZRT RESET (R504). -/
structure Strong where
  kaGo : Bool := false
  ccLast : Nat := 0
  ccSince : Nat := 0
  req : List StrReq := []
  chal : Option Nat := none
  chalAt : Nat := 0
  backoff : Bool := false
  backoffMin : Nat := 0
  tap : Nat := 0
  tapOut : Nat := 0
  cabFail : Bool := false
  recovery : Bool := false
  deriving DecidableEq, Repr

/-- A poll queued or running (R438): its source (0 to 3 a handle, 4 a request, 5 the search), antennas, TAG, door, and the
nonce of a first round that the IF die started in Sleep or Deep sleep, with its moment (R442). -/
structure AccPoll where
  src : Nat := 0
  ant : Nat := 0
  tag : Nat := 0
  door : Nat := 0
  nonce : Option Nat := none
  at_ : Nat := 0
  deriving DecidableEq, Repr

/-- A UHF frame read and not yet judged (R435): its 14 bytes, its slot, and its timing error in ticks. -/
structure AccFrame where
  bytes : List Byte := []
  slot : Nat := 0
  err : Int := 0
  deriving DecidableEq, Repr

/-- The ACC unit beside its registers (R437 to R450): polls queued and running, the round (running, its nonce, its LF start,
addressed index or broadcast, slots handled, frames waiting, and what its verdicts were), the addressed indices left, the
rounds that ended COLLISION or INVALID, the count toward JAM_N, the slate and token of the last VERIFIED poll, whether the
search has stopped, the seed of the IF die and its k (R442), the learning event (index, authority, OP, challenge slate, prove
round due), the dealer lock (running, hours), a revocation that waits, the release counter and the last value of its block,
withdrawals to send, and the slate at which the validity was last set. The last LF frame sent stands with its antennas (R430, R432). -/
structure Acc where
  queue : List AccPoll := []
  cur : Option AccPoll := none
  roundOn : Bool := false
  nonce : Nat := 0
  start : Nat := 0
  lfMask : Nat := 0
  lfFrame : Nat := 0
  addressed : Option Nat := none
  slots : List Nat := []
  frames : List AccFrame := []
  verified : Bool := false
  collision : Bool := false
  invalid : Bool := false
  left : List Nat := []
  bad : Nat := 0
  jam : Nat := 0
  verAt : Option Nat := none
  verTok : Nat := 0
  stopped : Bool := false
  seed : Nat := 0
  seedK : Option Nat := none
  idx : Nat := 0
  auth : Nat := 0
  prove : Bool := false
  proving : Bool := false
  lock : Bool := false
  lockH : Nat := 0
  revoke : Bool := false
  op : Nat := 0
  ctr : Nat := 0
  block : Nat := 0
  withdraw : Nat := 0
  leftAt : Nat := 0
  deriving DecidableEq, Repr

/-- An isolated input's run (R462): accepted frames in a row that carry the same level, that level, the slate of the first. -/
structure IsoRun where
  run : Nat := 0
  lvl : Bool := false
  first : Slate := 0
  deriving DecidableEq, Repr

/-- The IX pair (R455 to R464). Logic side: its copy of OUT, whether it accepts keep-alives and sends DATA, the SEQ it sends,
the CONFIG pending with its SAFE and TIMEOUT, the GEN sent, whether an adoption is under way, whether the module counts the field side as configured, silence for 1 ms, the input runs.
Field side: BB_SUPPLY present, configured, SAFE, TIMEOUT, GEN, its outputs, SAFE_ACTIVE, SEQ sent and last accepted, outputs
in thermal shutdown. The frames on the barrier, one each way. -/
structure Iso where
  copy : Nat := 0
  ka : Bool := false
  seq : Nat := 0
  cfgPend : Bool := false
  cSafe : Nat := 0
  cTimeout : Nat := 0
  gen : Nat := 0
  adopting : Bool := false
  counted : Bool := false
  silent : Bool := true
  runs : Tbl IsoRun := []
  power : Bool := false
  configured : Bool := false
  safe : Nat := 0
  timeout : Nat := 0
  fGen : Nat := 0
  out : Nat := 0
  safeActive : Bool := false
  fSeq : Nat := 0
  last : Nat := 0
  thermal : Nat := 0
  toField : Option (BitVec 64) := none
  toLogic : Option (BitVec 64) := none
  deriving DecidableEq, Repr

/-- A declared settings record (R496, R497): KEY, LENGTH, HOME, the writers, the sessions granted. -/
structure NvmRec where
  key : Nat := 0
  len : Nat := 0
  home : Nat := 0
  writers : List Nat := []
  grant : Nat := 0
  deriving DecidableEq, Repr

/-- A STORE queued (R498): the writer and the 16 bytes. -/
structure StoreReq where
  init : Nat := 0
  bytes : List Byte := []
  deriving DecidableEq, Repr

/-- A journal entry with its commit word (R499): KEY, LENGTH, OFFSET and the bytes. -/
structure JEntry where
  key : Nat := 0
  len : Nat := 0
  off : Nat := 0
  bytes : List Byte := []
  deriving DecidableEq, Repr

/-- The settings store (R496 to R499): the records the Script declares, the home content by KEY and LENGTH (homeOf), the journal,
oldest first, and the STOREs queued. -/
structure Nvm where
  recs : List NvmRec := []
  home : Tbl (List Byte) := []
  journal : List JEntry := []
  queue : List StoreReq := []
  deriving DecidableEq, Repr

/-- A verdict record (R502): GEN and the SHA-256 of every part of this module by TYPE, and of every Script section. -/
structure Verdict where
  gen : Nat := 0
  parts : List (Nat × Nat) := []
  sections : List Nat := []
  deriving DecidableEq, Repr

/-- The UPD unit beside its registers (R502 to R512): verdict records by slot, the update in progress, MODE frozen at BEGIN,
the expansions that the update names, whether the next full reset is the activation's own, the lazy sections not yet
loaded, oldest first, as TYPE and VALUE (R494), whether the trial time has not started yet, the slate since which TRIAL_LEFT
counts (R509), the slot that the update in progress fills, and the MODE of the loaded Script. -/
structure Upd where
  verdicts : Tbl Verdict := []
  busy : Bool := false
  mode : Nat := 0
  exps : List Nat := []
  activation : Bool := false
  lazy : List (Nat × List Byte) := []
  trialNew : Bool := false
  trialAt : Nat := 0
  slot : Nat := 0
  modeNew : Nat := 0
  deriving DecidableEq, Repr

/-- A Trunk transaction (R388): the original initiator, whether an engine issued it at URGENT level, its kind (0 READ, 1 WRITE,
2 WRITE_POSTED), SPEC, address, length, data, and who waits at the sender for the completion (0 an engine, 1 a ZRT operation,
2 an external port, 3 a posted write, 4 a prefetch, 5 nobody, 6 a NOTIFY record of an expansion); for a posted write the bridge (ZRT or
Trunk), its TAG, and the status with which it has failed (0 not yet). -/
structure TrkReq where
  orig : Nat := 0
  lvl : Bool := false
  op : Nat := 0
  spec : Bool := false
  addr : Nat := 0
  len : Nat := 0
  data : List Byte := []
  what : Nat := 0
  zrt : Bool := false
  tag : Nat := 0
  fail : Nat := 0
  deriving DecidableEq, Repr

/-- A sequenced frame that its sender keeps until it is acknowledged (R389): destination, SEQ, how often it was resent, what it
is (0 GW_SHORT, 1 REQ, 2 CPL, 3 BOUNDARY), TAG, and of a CPL its status and data. -/
structure TrkFrame where
  dst : Nat := 0
  seq : Nat := 0
  resent : Nat := 0
  what : Nat := 0
  tag : Nat := 0
  status : Nat := 0
  data : List Byte := []
  deriving DecidableEq, Repr

/-- The Trunk link beside its registers (R389 to R393): a training attempt running, the next SEQ of this sender, frames kept,
the SEQs accepted last by source, the next TAG, transactions outstanding by TAG with the read data so far, the slate value announced
for the next TK_SYNC edge, the REQs that an expansion has queued (source, TAG, REQ), the boundary received last, and the WAKE bursts
sent (R409). -/
structure Trk where
  attempt : Bool := false
  seq : Nat := 0
  kept : List TrkFrame := []
  seen : Tbl (List Nat) := []
  tag : Nat := 0
  outs : List (Nat × TrkReq) := []
  got : Tbl (List Byte) := []
  syncVal : Option Nat := none
  reqs : List (Nat × Nat × TrkReq) := []
  boundary : Nat := 0
  wakes : Nat := 0
  deriving DecidableEq, Repr

/-- A prefetch buffer of a bridge (R402): bridge (0 Trunk, 1 ZRT), initiator, first address, bytes (none: not valid), the
slate at which it was filled. -/
structure BrgBuf where
  bridge : Nat := 0
  init : Nat := 0
  base : Nat := 0
  bytes : List (Option Byte) := []
  at_ : Nat := 0
  deriving DecidableEq, Repr

/-- The bridges beside their registers (R402 to R406): posted writes held, oldest first, those that wait for a free entry,
the prefetch buffers, least recently used first. -/
structure Brg where
  posted : List TrkReq := []
  wait : List TrkReq := []
  pf : List BrgBuf := []
  deriving DecidableEq, Repr

/-- A Spine transaction of a ZRT operation or of an external port's transfer in execution (R367, R516): address, length,
whether it has completed, its status, the bytes read. -/
structure ZrtPart where
  addr : Nat := 0
  len : Nat := 0
  done : Bool := false
  status : Nat := 0
  data : List Byte := []
  deriving DecidableEq, Repr

/-- What an initiator was answered last (an external port's transfer, or an access of the rows of the Spine): the status of
R370, the bytes read, and the transactions of a transfer that still runs. -/
structure ExtPort where
  status : Nat := 0
  data : List Byte := []
  parts : List ZrtPart := []
  deriving DecidableEq, Repr

/-- What the loaded Script names for which the map has no register (R290 and others; log entry 7). -/
structure Scr where
  frmEngine : Nat := 0
  voters : List Nat := []
  attic : List Nat := []
  keptTrip : Bool := false
  trkEngine : Nat := 0
  deriving DecidableEq, Repr

/-- The states of a cue engine (R259), in the order of CUE_CREW_STAT. -/
inductive EngState where
  | unused
  | waiting
  | normal
  | urgent
  | urgentOverNormal
  | faulted
  deriving DecidableEq, Repr

/-- A result of an engine that a consumer nearer than its distance does not see yet (R248): what was written (a byte
register, a flag or a bank register by its code), the kind of producer, its last cycle and the value before. -/
structure EngHist where
  res : Nat := 0
  kind : Nat := 0
  cyc : Nat := 0
  old : Nat := 0
  deriving DecidableEq, Repr

/-- A repeat group (R251, R252): whether its prefix is RPTI, the iterations left (0: no group), the address of the
prefix, and whether an iteration has run. -/
structure EngRep where
  rpti : Bool := false
  left : Nat := 0
  pc : Nat := 0
  started : Bool := false
  deriving DecidableEq, Repr

/-- What a handler level has for itself (R236) beside B8 to B15: flags, PC, current cue, the bank registers in effect
and their staged bytes (R239), the address that follows a pending delay slot (R250), its repeat group, and whether a SYNC
waits. -/
structure EngLvl where
  z : Bool := false
  c : Bool := false
  n : Bool := false
  v : Bool := false
  pc : Nat := 0
  cur : Cue := {}
  bShared : Nat := 0
  bLarder : Nat := 0
  bCtx : Nat := 0
  bGw : Nat := 0
  bUnit : Nat := 0x05000
  gwLo : Nat := 0
  unitLo : Nat := 0
  unitMid : Nat := 0x50
  slot : Option Nat := none
  rep : EngRep := {}
  sync : Bool := false
  deriving DecidableEq, Repr

/-- A load of an engine in flight (R240, R249, R265): the level that issued it, what it is (0 load, 1 XCH, 2 TAS, 3 CPY),
the byte registers it writes, the local address of a CPY, and the data once the transaction has completed. -/
structure EngLoad where
  urgent : Bool := false
  what : Nat := 0
  dst : List Nat := []
  at_ : Nat := 0
  data : Option (List Byte) := none
  deriving DecidableEq, Repr

/-- An engine timer (R240): RELOAD, EN, PERIODIC, UNIT, the ticks left when it was last started, stopped or reloaded,
and the island slate of that moment. -/
structure EngTmr where
  reload : Nat := 0
  en : Bool := false
  periodic : Bool := false
  unit : Nat := 0
  left : Nat := 0
  start : Nat := 0
  deriving DecidableEq, Repr

/-- A watch (R268): the word watched, as bits [20:2] of its Larder offset, and the kinds of access. -/
structure EngWatch where
  word : Nat := 0
  read : Bool := false
  write : Bool := false
  deriving DecidableEq, Repr

/-- A bus transceiver (R314, R327) beside its registers: a REQ written in GOING_SLEEP, which waits for its end, whether the
dominant timeout has released the transmitter, whether the selective-wake decoder is armed, and the REQ to go back to when
an entry into a low-power state is aborted. -/
structure Trx where
  held : Option Nat := none
  dom : Bool := false
  armed : Bool := false
  save : Option Nat := none
  deriving DecidableEq, Repr

/-- A CAN controller beside its registers and entries: the mode in effect (R299), the entry being sent (32: the NM slot),
whether it was cancelled meanwhile, the slate of its SOF, the slate of bus-off entry, and the NM message in the dedicated
slot (R373). -/
structure Can where
  mode : Nat := 0
  cur : Option Nat := none
  cancel : Bool := false
  sof : Nat := 0
  offAt : Nat := 0
  nm : Option (List Byte) := none
  deriving DecidableEq, Repr

/-- A LIN controller beside its registers and buffers (R320 to R326): the publish copies by buffer, whether a slot runs and
its buffer, the tables and slots to resume after a collision table, innermost first, the response pending in the slot, the go-to-sleep command
pending, wake pulses sent and the header awaited, and the schedule switch pending. -/
structure Lin where
  pub : Tbl (List Byte) := []
  slotOn : Bool := false
  buf : Option Nat := none
  answered : Bool := false
  resume : List (Nat × Nat) := []
  coll : Option Nat := none
  next : Nat := 0
  started : Bool := false
  sleepReq : Bool := false
  pulses : Nat := 0
  wait : Bool := false
  deriving DecidableEq, Repr

/-- A node of an NM ring (R374, R376, R384): the slate of its last NM message, whether it has sent a ring message since the
module's last, its last SLEEP_IND, the slate since which it has kept SLEEP_IND 0 in READY, and whether its insomnia is
recorded; one that is gone is no member, and only its insomnia has still to end. -/
structure NmNode where
  last : Nat := 0
  rang : Bool := false
  ind : Bool := false
  since : Nat := 0
  reported : Bool := false
  gone : Bool := false
  deriving DecidableEq, Repr

/-- An NM segment beside its registers: its nodes, whether every ring message since the module's last carried SLEEP_IND,
a turn due, the slate of READY entry, and a local wake held until the transceiver leaves GOING_SLEEP (its cause, 0 none). -/
structure NmSeg where
  nodes : Tbl NmNode := []
  allInd : Bool := true
  turn : Bool := false
  readyAt : Nat := 0
  held : Nat := 0
  deriving DecidableEq, Repr

/-- A frame at the gateway (R337, R351): its key, format bits, payload and stamp, and the Ethernet frame it
is, if it is one; the DLC is that of a remote frame. -/
structure GwFrame where
  port : Nat := 0
  kind : Nat := 0
  sub : Nat := 0
  id : Nat := 0
  ide : Bool := false
  fdf : Bool := false
  brs : Bool := false
  rtr : Bool := false
  data : List Byte := []
  dlc : Nat := 0
  stamp : Nat := 0
  eth : Option EthFrame := none
  deriving DecidableEq, Repr

/-- A frame buffer in use (R344, R351): the cued engines that have not released it, the slate of the cue, and the
destinations that have not taken the frame. -/
structure GwBuf where
  cued : List Nat := []
  since : Nat := 0
  routes : Nat := 0
  deriving DecidableEq, Repr

/-- A frame waiting on a destination port (R344): the port, its buffer, PRIO, the key it came with, the frame as it leaves,
VLAN, PCP and expansion of its entry, the ACF bus ID, REFLEX, whether AGE and quota are bypassed (R352), WAKE_ON_ROUTE, and
the slate since which it waits. -/
structure Egress where
  port : Nat := 0
  buf : Nat := 0
  prio : Nat := 0
  key : Nat := 0
  f : GwFrame := {}
  vid : Nat := 0
  pcp : Nat := 0
  exp : Nat := 0
  bus : Nat := 0
  reflex : Bool := false
  free : Bool := false
  wake : Bool := false
  since : Nat := 0
  deriving DecidableEq, Repr

/-- A write that waits at the GW port until copy-back ends (R358): of the shadow bank or the shadow stash, or of SWAP. -/
inductive GwHeld where
  /-- Initiator, the stash rather than the bank, offset, bytes. -/
  | shadow (init : Nat) (stash : Bool) (off : Nat) (bytes : List Byte)
  /-- SWAP. -/
  | swap
  deriving DecidableEq, Repr

/-- The gateway beside its registers and tables: frames waiting for their lookup, buffers in use, frames waiting on ports,
the staged buckets, the staging areas of the initiators, the flows whose timeout has been reported since their last hit, the writes that
wait for copy-back, and the slate of the last swap. -/
structure Gw where
  inq : List GwFrame := []
  bufs : Tbl GwBuf := []
  out : List Egress := []
  staged : List Nat := []
  copy : Bool := false
  inj : Tbl (List Byte) := []
  timedOut : List Nat := []
  held : List GwHeld := []
  swapAt : Nat := 0
  deriving DecidableEq, Repr

/-- A stream's recovery state (R334) on reception: whether any sequence number is taken next, the last one, the history
bits. -/
structure Frer where
  any : Bool := true
  seq : Nat := 0
  hist : Nat := 0
  deriving DecidableEq, Repr

/-- A frame in a transmit queue of an uplink or of the T1S port (R333). -/
structure EthTx where
  port : Nat := 0
  cls : Nat := 0
  f : EthFrame := {}
  deriving DecidableEq, Repr

/-- An open ACF PDU of a port (R360): its messages, the slate of the first one, and the VLAN and PCP it leaves with. -/
structure AcfPdu where
  bytes : List Byte := []
  at_ : Nat := 0
  vid : Nat := 0
  pcp : Nat := 0
  deriving DecidableEq, Repr

/-- The settings of PLCA at the T1S port (R336): in use, node ID, node count, TO_TIMER in bit times, highest burst. -/
structure Plca where
  on : Bool := false
  node : Nat := 0
  count : Nat := 2
  toTimer : Nat := 32
  burst : Nat := 0
  deriving DecidableEq, Repr

/-- The Ethernet unit beside its registers (R331 to R335, R359): the operative gate list (gate state and interval in ns),
its place in it with the slate at which that gate state began, recovery by stream, transmit sequence by stream, transmit and receive PN by 4 × uplink + AN, queued frames,
accepted frames for the gateway (ACF and ZRT), open ACF PDUs by port, VID and PCP, PDU sequence numbers,
the AN that transmits by uplink, the PLCA settings, and the frames sent in the module's transmit opportunity with the slate of the last
one (R336). -/
structure Eth where
  gates : List (Nat × Nat) := []
  pos : Nat := 0
  gateAt : Nat := 0
  frer : Tbl Frer := []
  txSeq : Tbl Nat := []
  txPn : Tbl Nat := []
  rxPn : Tbl Nat := []
  txq : List EthTx := []
  inq : List (Nat × EthFrame) := []
  pdu : Tbl AcfPdu := []
  pduSeq : Tbl Nat := []
  an : Tbl Nat := []
  wake : List Nat := []
  plca : Plca := {}
  toSent : Nat := 0
  toAt : Nat := 0
  deriving DecidableEq, Repr

/-- An operation of a ZRT request or of its response (R365); `data` is the request's data, or the response's. -/
structure ZrtOp where
  op : Nat := 0
  status : Nat := 0
  len : Nat := 0
  addr : Nat := 0
  arg : Nat := 0
  data : List Byte := []
  deriving DecidableEq, Repr

/-- A ZRT request in execution (R367): SEQ, STOP_ON_ERR, the operations left and those done. -/
structure ZrtReq where
  seq : Nat := 0
  stop : Bool := false
  todo : List ZrtOp := []
  done : List ZrtOp := []
  deriving DecidableEq, Repr

/-- A ZRT session beside its registers (R366, R371): the transactions of the running operation, the request in execution,
the cached response (SEQ, frame status, operations), the queued NOTIFY records, each with the expansion it comes from (0 this
module), records dropped since the last frame, the NOTIFY frames not acknowledged, oldest first, by SEQ, the next NOTIFY SEQ;
of the last request: its uplink, and whether it came over UDP, its source MAC and IPv4 address (R513). -/
structure ZrtSes where
  cur : Option ZrtReq := none
  cache : Option (Nat × Nat × List ZrtOp) := none
  note : List (Nat × Cue) := []
  lost : Nat := 0
  unacked : List (Nat × List Byte) := []
  noteSeq : Nat := 0
  parts : List ZrtPart := []
  port : Nat := 0
  udp : Bool := false
  mac : Nat := 0
  ip : Nat := 0
  deriving DecidableEq, Repr

/-- The power manager beside its registers (R81, R86): answers of the round by initiator ID (the reason, or 0x100 for
consent), expansions asked for their own round and those that have sealed, whether an exit has started, whether the dies were parked,
the slate at which the state was reached, INH0 and INH1 released, the islands clocked before Sleep, the I²C matcher holding SCL (R84),
the state of each crossing by 32 × writing island + reading island: 0 OPEN, 1 CLOSED, 2 ACK_WAIT, 3 RELEASE (R98), and the clamps
applied, bit k that of row k of the table of R90. -/
structure Pwr where
  answers : List (Nat × Nat) := []
  asked : List Nat := []
  expSealed : List Nat := []
  exit : Bool := false
  parked : Bool := false
  reached : Nat := 0
  inhLow : Nat := 0
  clocked : Nat := 0
  sclHeld : Bool := false
  xing : Tbl Nat := []
  clamp : Nat := 0
  deriving DecidableEq, Repr

/-- A switch input beside its registers (R413, R415): whether it has accepted its first level since the last reset or Deep
sleep exit, how many samples in a row have read the level shown, and the slate of the first of them. -/
structure InpIn where
  got : Bool := false
  run : Nat := 0
  lvl : Bool := false
  first : Slate := 0
  deriving DecidableEq, Repr

/-- A handle sensor beside its registers (R418, R419): scans in a row below the release threshold, scans since the baseline
moved, bad and good scans in a row. -/
structure Hc where
  rel : Nat := 0
  drift : Nat := 0
  bad : Nat := 0
  good : Nat := 0
  deriving DecidableEq, Repr

/-- The INP unit beside its registers (R410 to R416): inputs, cleaning pulses running and waiting, handles, by input the
differing reads in a row of the Cellar's poll (R82), and the Cellar's copy of INP_HC_CFG, by which it scans (R417). -/
structure Inp where
  ins : Tbl InpIn := []
  clean : List Nat := []
  cleanWait : List Nat := []
  hc : Tbl Hc := []
  poll : Tbl Nat := []
  hcCfg : Nat := 0
  deriving DecidableEq, Repr

/-- A sensor supply (R427, R428): its output, whether it is off after an overcurrent, and whether its switch is open after
back-feed. -/
structure Sens where
  on : Bool := false
  oc : Bool := false
  bf : Bool := false
  deriving DecidableEq, Repr

/-- The MEAS unit beside its registers: the two supplies, and the temperature slots that have entered fallback since the last
reset (R423). -/
structure Meas where
  sens : Tbl Sens := []
  fell : List Nat := []
  deriving DecidableEq, Repr

/-- A cue engine (R233 to R240): its state, the byte registers by code (B0 to B7; B8 to B15 of NORMAL as 8 to 15 and of
URGENT as 16 to 23), the two levels, the queue, the next SEQ, the cycle counter that R248 counts in, the results not yet
seen by every consumer, the load in flight, timers, watches, the latched slate, the cue vectors and the fault. -/
structure Eng where
  st : EngState := .unused
  b : Tbl Nat := []
  nl : EngLvl := {}
  ul : EngLvl := {}
  queue : List Cue := []
  seq : Nat := 0
  cyc : Nat := 0
  hist : List EngHist := []
  load : Option EngLoad := none
  tmr : Tbl EngTmr := []
  watch : Tbl EngWatch := []
  slate : Nat := 0
  vec : Tbl Nat := []
  fault : Nat := 0
  deriving DecidableEq, Repr

/-- A Spine transaction that waits for its grant (R24, R27): initiator, whether an engine issued it at URGENT level, what
it is (0 read, 1 write, 2 and 3 the locked read-modify-write of XCH and TAS), SPEC, address, length and data. -/
structure SpineTx where
  init : Nat := 0
  lvl : Bool := false
  op : Nat := 0
  spec : Bool := false
  addr : Nat := 0
  len : Nat := 0
  data : List Byte := []
  deriving DecidableEq, Repr

/-- A command in the reflex executor's queue (R262, R350): the emitting engine's ID or 0 for a gateway entry, the channel,
CH_PWM or CH_CMD, the value; for a gateway entry its ENGINE, flow index and slot. -/
structure ExecReq where
  init : Nat := 0
  ch : Nat := 0
  pwm : Bool := false
  value : Nat := 0
  engine : Nat := 0
  flow : Nat := 0
  slot : Nat := 0
  deriving DecidableEq, Repr

/-- The state of the block. -/
structure State where
  variant : Config.Variant := .pz7480
  slate : Slate := 0
  free : Nat := 0
  regs : Tbl Word := []
  mem : List Host.Cell := []
  mram : List Host.Cell := []
  islands : Tbl Island := []
  dly : Dly := {}
  frm : Frm := {}
  offers : List Offer := []
  chans : Tbl Chan := []
  dies : Tbl Die := []
  dieChs : Tbl DieCh := []
  links : Tbl LinkLg := []
  boost : Boost := {}
  ldg : Ldg := {}
  boot : Boot := {}
  str : Strong := {}
  scr : Scr := {}
  engs : Tbl Eng := []
  gated : List Nat := []
  waiting : List SpineTx := []
  rr : Tbl Nat := []
  exec : List ExecReq := []
  trx : Tbl Trx := []
  cans : Tbl Can := []
  lins : Tbl Lin := []
  nm : Tbl NmSeg := []
  gw : Gw := {}
  eth : Eth := {}
  zrt : Tbl ZrtSes := []
  pwr : Pwr := {}
  inp : Inp := {}
  meas : Meas := {}
  keys : Tbl Key := []
  acc : Acc := {}
  iso : Iso := {}
  nvm : Nvm := {}
  upd : Upd := {}
  trk : Trk := {}
  brg : Brg := {}
  ports : Tbl ExtPort := []
  pending : List Instr := []
  deriving DecidableEq, Repr

/-- The block at power-on reset (R9, R109): every register at its reset value, memories zeroed, no command waiting. -/
def State.reset : State := {}

end Sys2Proof.Machine
end

