-- ==== Sys2Proof/Machine/Ops.lean ====
section
/-! DEFINITION. The named operations over the state that every meaning is built from: sparse tables, registers and
their fields, counters and flags, memory bytes, free values, stamps and cues. -/

namespace Sys2Proof.Machine

/-! Sparse tables -/

/-- The value at index `k`; an unlisted index reads the default. -/
def tget {V : Type} (d : Nat → V) : Tbl V → Nat → V
  | [], k => d k
  | (j, v) :: t, k => if k = j then v else if k < j then d k else tget d t k

/-- Put `v` at index `k`, keeping the indices rising and listing no default value. -/
def tset {V : Type} [DecidableEq V] (d : Nat → V) : Tbl V → Nat → V → Tbl V
  | [], k, v => if v = d k then [] else [(k, v)]
  | (j, w) :: t, k, v =>
    if k = j then (if v = d k then t.dropWhile (fun e => e.1 ≤ k) else (k, v) :: t)
    else if k < j then (if v = d k then (j, w) :: t else (k, v) :: (j, w) :: t)
    else (j, w) :: tset d t k v

/-- The canonical form: indices strictly rising and no entry equal to the default. -/
def twf {V : Type} [DecidableEq V] (d : Nat → V) : Tbl V → Bool
  | [] => true
  | [(j, v)] => v ≠ d j
  | (j, v) :: (k, w) :: t => v ≠ d j && j < k && twf d ((k, w) :: t)

/-! Variants and initiators -/

/-- The channel exists on the part (R2). -/
def State.chPresent (s : State) (c : Nat) : Bool :=
  c < 132 && (s.variant ≠ .pz7456 || c < 24 || (40 ≤ c && c < 72) || (104 ≤ c && c < 116))

/-- The crew exists on the part (R2). -/
def State.crewPresent (s : State) (c : Nat) : Bool := c < 6 && (s.variant ≠ .pz7456 || c < 3)

/-- CANn or LINn exists on the part (R2). -/
def State.busPresent (s : State) (n : Nat) : Bool := n < 8 && (s.variant ≠ .pz7456 || n < 4)

/-- The power die on the stage link exists on the part (R2, R22). -/
def State.diePresent (s : State) (n : Nat) : Bool :=
  1 ≤ n && n ≤ 13 && (s.variant ≠ .pz7456 || n = 1 || n = 2 || n = 3 || n = 4 || n = 7 || n = 8 || n = 11 || n = 12)

/-- ACC and ISO exist on the part (R2). -/
def State.fullPart (s : State) : Bool := s.variant = .pz7480

/-- SYS_VARIANT.PART (R5). -/
def State.part (s : State) : Nat :=
  match s.variant with
  | .pz7480 => 0x7480
  | .pz7472 => 0x7472
  | .pz7456 => 0x7456

/-- The Strongroom's own initiator IDs (R26). -/
def isStr (i : Nat) : Bool := 0x08 ≤ i && i ≤ 0x0A

/-- A cue engine's initiator ID (R25). -/
def isEngine (i : Nat) : Bool := 0x10 ≤ i && i ≤ 0x3F

/-- A ZRT session's initiator ID (R25). -/
def isSession (i : Nat) : Bool := 0x40 ≤ i && i ≤ 0x47

/-- Bit `k` of a number. -/
def bitOf (x k : Nat) : Bool := x / 2 ^ k % 2 = 1

/-- A Bool as the bit of a field. -/
def b2n (b : Bool) : Nat := if b then 1 else 0

/-- The signed value of the low `w` bits. -/
def signed (w x : Nat) : Int := if x % 2 ^ w < 2 ^ (w - 1) then (x % 2 ^ w : Nat) else (x % 2 ^ w : Nat) - (2 ^ w : Nat)

/-- The low `w` bits of an integer, as a two's-complement word. -/
def unsigned (w : Nat) (x : Int) : Nat := (x % (2 ^ w : Nat)).toNat

/-- An integer limited to a range. -/
def clampI (lo hi x : Int) : Int := if x < lo then lo else if hi < x then hi else x

/-! Registers -/

/-- The class code of a channel, CH_CFG.CLASS: 0 H, 1 M, 2 L, 3 B, 4 S (R117). -/
def chClass (c : Nat) : Nat := if c < 8 then 0 else if c < 40 then 1 else if c < 104 then 2 else if c < 116 then 3 else 4

/-- The stage link of a channel's die (R22). -/
def chLink (c : Nat) : Nat :=
  if c < 8 then 1 + c / 4 else if c < 40 then 3 + (c - 8) / 8 else if c < 104 then 7 + (c - 40) / 16
  else if c < 116 then 11 + (c - 104) / 6 else 13

/-- The first channel of the die on a link, and how many it has (R22). -/
def linkFirst (n : Nat) : Nat :=
  if n < 3 then (n - 1) * 4 else if n < 7 then 8 + (n - 3) * 8 else if n < 11 then 40 + (n - 7) * 16
  else if n < 13 then 104 + (n - 11) * 6 else 116

/-- How many channels the die on a link has (R22). -/
def linkCount (n : Nat) : Nat := if n < 3 then 4 else if n < 7 then 8 else if n < 11 then 16 else if n < 13 then 6 else 16

/-- The channels of the die on a link, ascending. -/
def linkChans (n : Nat) : List Nat := (List.range (linkCount n)).map (linkFirst n + ·)

/-- A unit identification word (R4): PRESENT, the unit code, the instance and block version 1. -/
def idWord (code inst : Nat) : Word := BitVec.ofNat 32 (1 + code * 0x100 + inst * 0x10000 + 0x01000000)

/-- The unit codes of R5 that have a register block at 0x0500_0000 + code × 0x1_0000 (R32). -/
def unitBlock (code : Nat) : Bool :=
  (1 ≤ code && code ≤ 8) || (0x10 ≤ code && code ≤ 0x29) || code = 0x2C || code = 0x2D

/-- The identification word at an address, where one stands there (R4, R5). -/
def idWordAt (a : Nat) : Option Word :=
  if 0x05000000 ≤ a ∧ a < 0x06000000 ∧ a % 0x10000 = 0 ∧ unitBlock ((a - 0x05000000) / 0x10000) then
    some (idWord ((a - 0x05000000) / 0x10000) 0)
  else if a = 0x06000000 then some (idWord 0x2A 0)
  else if a = 0x07000000 then some (idWord 0x2B 0)
  else if a = 0x08000000 then some (idWord 0x09 0)
  else if 0x03000000 ≤ a ∧ a < 0x03021000 ∧ a % 0x400 = 0 then some (idWord 0x03 ((a - 0x03000000) / 0x400))
  else if 0x02000000 ≤ a ∧ a < 0x02600000 ∧ a % 0x100000 = 0 then some (idWord 0x07 ((a - 0x02000000) / 0x100000))
  else none

/-- What a register word that nothing has written reads as: the reset value of its row (R9), with the fields that
hardware fixes per channel (CH_CFG.CLASS and LINK), the identification words, and FALLBACK in the temperature slots (R423). -/
def resetWord (a : Nat) : Word :=
  match idWordAt a with
  | some w => w
  | none =>
    if 0x03000000 ≤ a ∧ a < 0x03021000 ∧ a % 0x400 = 4 then
      BitVec.ofNat 32 (chClass ((a - 0x03000000) / 0x400) + chLink ((a - 0x03000000) / 0x400) * 0x1000000)
    else if 0x0527140C ≤ a ∧ a < 0x05271600 ∧ a % 8 = 4 then 0x20000
    else
      match regDefAt a with
      | some d => BitVec.ofNat 32 d.reset
      | none => 0

/-- The register word at a Spine byte address. -/
def State.reg (s : State) (a : Nat) : Word := tget resetWord s.regs a

/-- Put a register word. -/
def State.setReg (s : State) (a : Nat) (v : Word) : State := { s with regs := tset resetWord s.regs a v }

/-- The mask of a field within its word. -/
def RF.mask (r : RF) : Word := BitVec.ofNat 32 ((2 ^ r.w - 1) * 2 ^ r.lo)

/-- A field of a word. -/
def RF.get (r : RF) (x : Word) : Nat := (x.extractLsb' r.lo r.w).toNat

/-- A word with a field replaced by the low bits of a number. -/
def RF.put (r : RF) (x : Word) (v : Nat) : Word := (x &&& ~~~ r.mask) ||| (BitVec.ofNat 32 (v * 2 ^ r.lo) &&& r.mask)

/-- A field of a register. -/
def State.f (s : State) (r : RF) : Nat := r.get (s.reg r.addr)

/-- Whether a field is not 0. -/
def State.on (s : State) (r : RF) : Bool := s.f r ≠ 0

/-- Replace a field of a register. -/
def State.setF (s : State) (r : RF) (v : Nat) : State := s.setReg r.addr (r.put (s.reg r.addr) v)

/-- Count up and saturate at the field's highest value. -/
def State.addSat (s : State) (r : RF) (n : Nat) : State := s.setF r (min (s.f r + n) (2 ^ r.w - 1))

/-- Count one up and saturate. -/
def State.incSat (s : State) (r : RF) : State := s.addSat r 1

/-- Count one up modulo the field's range. -/
def State.incMod (s : State) (r : RF) : State := s.setF r ((s.f r + 1) % 2 ^ r.w)

/-- A setting event of a flag: the flag is set and its paired counter counts, whether or not it was set (R15). -/
def State.raise (s : State) (flag cnt : RF) : State := (s.setF flag 1).incSat cnt

/-- Several bits of a flag field set at one event. -/
def State.raiseBits (s : State) (flag cnt : RF) (bits : Nat) : State := (s.setF flag (s.f flag ||| bits)).incSat cnt

/-- Registers that a full reset resets (R10); the others keep their words. -/
def resetByFull (a : Nat) : Bool :=
  match regDefAt a with
  | some d => d.kind = .full
  | none => false

/-- The register file after a full reset (R10, R109): every word that full reset resets is dropped, so that it reads
its reset value. -/
def State.fullResetRegs (s : State) : State := { s with regs := s.regs.filter (fun e => !resetByFull e.1) }

/-- Registers whose content is kept in MRAM: no reset applies to them (R10, DLY_BOOT and the like). -/
def keptInMram (a : Nat) : Bool :=
  match regDefAt a with
  | some d => d.kind = .mram
  | none => false

/-- The register file after a power-on reset (R10): every word reads its reset value but those kept in MRAM. -/
def State.powerOnRegs (s : State) : State := { s with regs := s.regs.filter (fun e => keptInMram e.1) }

/-- Whether the oscillator of the die on a link is known to run: its bits of PWR_ISLAND_STAT and CLK_DLO_LOCK (R105, R106). -/
def State.dieClock (s : State) (n : Nat) (v : Bool) : State :=
  (s.setF ⟨PWR_ISLAND_STAT, 15 + n, 1⟩ (b2n v)).setF ⟨CLK_DLO_LOCK, 15 + n, 1⟩ (b2n v)

/-- An island of R93 exists on the part. -/
def State.islandPresent (s : State) (i : Nat) : Bool :=
  i < 30 && (!(3 ≤ i && i < 9) || s.crewPresent (i - 3)) && (!(16 ≤ i && i < 29) || s.diePresent (i - 15)) && (i ≠ 29 || s.fullPart)

/-- The island's clock runs, as PWR_ISLAND_STAT shows it (R75, R105, R106): a crew gated in Idle counts as clocked. -/
def State.clocked (s : State) (i : Nat) : Bool := s.on ⟨PWR_ISLAND_STAT, i, 1⟩

/-! Memories -/

/-- A byte of RAM that nothing has written reads 0: the memories are zeroed at power-on (R109). -/
def memDefault : Nat → Byte := fun _ => 0

/-- The byte of memory at a Spine byte address. -/
def State.rd8 (s : State) (a : Nat) : Byte := tget memDefault s.mem a

/-- Put a byte of memory. -/
def State.wr8 (s : State) (a : Nat) (v : Byte) : State := { s with mem := tset memDefault s.mem a v }

/-- `n` bytes from an address, as a little-endian number. -/
def State.rdN (s : State) (a : Nat) : Nat → Nat
  | 0 => 0
  | n + 1 => (s.rd8 a).toNat + 0x100 * s.rdN (a + 1) n

/-- Put the low `n` bytes of a number, little-endian. -/
def State.wrN (s : State) (a : Nat) : Nat → Nat → State
  | 0, _ => s
  | n + 1, v => (s.wr8 a (BitVec.ofNat 8 v)).wrN (a + 1) n (v / 0x100)

/-- `n` bytes from an address. -/
def State.rdBytes (s : State) (a n : Nat) : List Byte := (List.range n).map (fun k => s.rd8 (a + k))

/-- Put bytes from an address upward. -/
def State.wrBytes (s : State) (a : Nat) : List Byte → State
  | [] => s
  | b :: t => (s.wr8 a b).wrBytes (a + 1) t

/-- The memory with every byte of a range zeroed. -/
def State.zeroMem (s : State) (lo hi : Nat) : State :=
  { s with mem := s.mem.filter (fun e => !(lo ≤ e.1 && e.1 < hi)) }

/-- The byte of MRAM at an offset (R488). -/
def State.mrd8 (s : State) (a : Nat) : Byte := tget memDefault s.mram a

/-- Put a byte of MRAM. -/
def State.mwr8 (s : State) (a : Nat) (v : Byte) : State := { s with mram := tset memDefault s.mram a v }

/-- `n` bytes of MRAM. -/
def State.mrdBytes (s : State) (a n : Nat) : List Byte := (List.range n).map (fun k => s.mrd8 (a + k))

/-- `n` bytes of MRAM, as a little-endian number. -/
def State.mrdN (s : State) (a : Nat) : Nat → Nat
  | 0 => 0
  | n + 1 => (s.mrd8 a).toNat + 0x100 * s.mrdN (a + 1) n

/-- Put bytes of MRAM from an offset upward. -/
def State.mwrBytes (s : State) (a : Nat) : List Byte → State
  | [] => s
  | b :: t => (s.mwr8 a b).mwrBytes (a + 1) t

/-- The identity block in MRAM (R488, R489). -/
def identAt : Nat := 0xF00000

/-- The low `n` bytes of a number, little-endian. -/
def bytesLE : Nat → Nat → List Byte
  | 0, _ => []
  | n + 1, v => BitVec.ofNat 8 v :: bytesLE n (v / 0x100)

/-- The low `n` bytes of a number, most significant first. -/
def bytesBE (n v : Nat) : List Byte := (bytesLE n v).reverse

/-- A byte string read as a little-endian number. -/
def natLE : List Byte → Nat
  | [] => 0
  | b :: t => b.toNat + 0x100 * natLE t

/-- A byte string read as a big-endian number. -/
def natBE (l : List Byte) : Nat := natLE l.reverse

/-- `n` bytes of a string from an offset, as a little-endian number; bytes past the end read 0. -/
def sliceLE (l : List Byte) (off n : Nat) : Nat := natLE ((l.drop off).take n)

/-! Free values -/

/-- Draw the next value that the spec leaves open (log entry 4). -/
def State.draw (s : State) : Nat := Config.free s.free

/-- Advance past a drawn value. -/
def State.drawn (s : State) : State := { s with free := s.free + 1 }

/-- The quotient of two integers, rounded down or up as the part does where it is not exact (the spec states no
rounding there: log entry 8). The divisor is positive. -/
def divFree (bit : Nat) (n d : Int) : Int := if n % d = 0 then n / d else n / d + (bit % 2 : Nat)

/-! Stamps (R274, R279, R280) -/

/-- A slot of the cabinet. -/
def State.key (s : State) (k : Nat) : Key := tget (fun _ => {}) s.keys k

/-- The stamp latch of an island. -/
def State.island (s : State) (i : Nat) : Island := tget (fun _ => {}) s.islands i

/-- Put the stamp latch of an island. -/
def State.setIsland (s : State) (i : Nat) (x : Island) : State := { s with islands := tset (fun _ => {}) s.islands i x }

/-- The counter of an island: the reference slate and the island's offset (R275). -/
def State.islandSlate (s : State) (i : Nat) : Slate := s.slate + BitVec.ofInt 64 (s.island i).ofs

/-- Offer a record to its island's stamp FIFO: it takes the next ISEQ; where the FIFO holds 16 the record is lost and
counted (R280). -/
def State.offerRec (s : State) (r : DailyRec) : State :=
  let x := s.island r.island
  let r := { r with iseq := x.iseq }
  if x.recs.length < 16 then
    s.setIsland r.island { x with recs := x.recs ++ [r], iseq := (x.iseq + 1) % 2 ^ 24 }
  else
    (((s.setIsland r.island { x with lost := x.lost + 1, iseq := (x.iseq + 1) % 2 ^ 24 }).incSat DLY_LOST_COUNT).setF
      DLY_LOST_LAST_ISLAND r.island).raise DLY_FLAG_LOST DLY_FLAG_CNT_COUNT

/-- Stamp an event in an island (R274): source kind and index, unit code, event number and DATA. -/
def State.stamp (s : State) (isl kind index unit event data : Nat) : State :=
  s.offerRec { slate := s.islandSlate isl, kind := kind, index := index, unit := unit, event := event, island := isl,
               data := BitVec.ofNat 128 data }

/-- Stamp an event of a unit in the Spine island, with SOURCE kind 0x01 and the unit's code (R254, R283). -/
def State.stampUnit (s : State) (unit event data : Nat) : State := s.stamp 2 0x01 unit unit event data

/-! Cues (R254 to R258) -/

/-- Post a cue to an engine or a session; CUE_POST offers it to the queue. Target 0 names no receiver. -/
def State.postCue (s : State) (target cls code kind index arg data : Nat) (merge : Bool) : State :=
  if target = 0 then s
  else { s with offers := s.offers ++ [{ target := target, merge := merge, cue := {
    cls := cls, code := code % 0x100, kind := kind, index := index, arg := arg % 0x10000, data := data % 2 ^ 32,
    stampLo := s.slate.toNat % 2 ^ 32 } }] }

/-- Post a UNIT cue (class 7) with SOURCE kind 0x01 and the unit's code (R255). -/
def State.unitCue (s : State) (target unit code arg data : Nat) : State :=
  s.postCue target 7 code 0x01 unit arg data false

/-! Result slots (R145 to R147) -/

/-- A result slot takes a new value: SEQ counts, the value is replaced, the state is READY (R146). -/
def State.slotUpdate (s : State) (st val : Nat) (v : Nat) : State :=
  ((s.setF ⟨st, 0, 16⟩ ((s.f ⟨st, 0, 16⟩ + 1) % 0x10000)).setF ⟨st, 16, 2⟩ 2).setReg val (BitVec.ofNat 32 v)

/-- A result slot begins to fill: the previous value and SEQ stay (R146). -/
def State.slotFilling (s : State) (st : Nat) : State := s.setF ⟨st, 16, 2⟩ 1

/-- A take of a result slot: status and value are captured in the TAKE words, then READY moves to TAKEN (R147). -/
def State.slotTake (s : State) (st val tst tval : Nat) : State :=
  let t := (s.setReg tst (s.reg st)).setReg tval (s.reg val)
  if s.f ⟨st, 16, 2⟩ = 2 then t.setF ⟨st, 16, 2⟩ 3 else t

/-! The Trunk link (R386 to R391) -/

/-- The module is an expansion: TK_ROLE was not master (R386). -/
def State.expansion (s : State) : Bool := s.on TRK_CFG_ROLE

/-- On a master, expansion `n` (1 to 3) is trained on a link that is up (R391). -/
def State.trkUsable (s : State) (n : Nat) : Bool :=
  !s.expansion && s.f TRK_STAT_LINK = 2 && 1 ≤ n && n ≤ 3 && bitOf (s.f TRK_STAT_TRAINED) (n - 1) && !s.boot.xtalBad

/-- A sequenced frame leaves: it takes the sender's next SEQ and is kept until it is acknowledged (R389). -/
def State.trkKeep (s : State) (dst what tag status : Nat) (data : List Byte) : State :=
  { s with trk := { s.trk with
      seq := (s.trk.seq + 1) % 256
      kept := s.trk.kept ++ [{ dst := dst, seq := s.trk.seq, what := what, tag := tag, status := status, data := data }] } }

/-- A TAG that no outstanding transaction has. -/
def State.trkTag (s : State) : Nat :=
  (((List.range 256).map (fun k => (s.trk.tag + k) % 256)).find? (fun t => !s.trk.outs.any (fun o => o.1 = t))).getD (s.trk.tag % 256)

/-- A REQ leaves for a module: it takes a TAG and is outstanding until its completion (R388, R389). -/
def State.trkSend (s : State) (dst : Nat) (r : TrkReq) : State :=
  let t := s.trkTag
  let s := s.trkKeep dst 1 t 0 []
  { s with trk := { s.trk with outs := s.trk.outs ++ [(t, { r with tag := t })], tag := (t + 1) % 256 } }

/-- A WAKE burst goes out on the ring (R409). -/
def State.trkWake (s : State) : State := { s with trk := { s.trk with wakes := s.trk.wakes + 1 } }

/-! Crossings (R98) -/

/-- The state of a crossing: 0 OPEN, 1 CLOSED, 2 ACK_WAIT, 3 RELEASE. -/
def State.xingOf (s : State) (frm dst : Nat) : Nat := tget (fun _ => 0) s.pwr.xing (frm * 32 + dst)

/-- CLK_XING_CLOSED shows an island with a crossing that is not OPEN. -/
def State.xingShow (s : State) (i : Nat) : State :=
  s.setF ⟨CLK_XING_CLOSED, i, 1⟩ (b2n (s.pwr.xing.any (fun e => e.1 / 32 = i || e.1 % 32 = i)))

/-- Put the state of a crossing and show it. -/
def State.setXing (s : State) (frm dst v : Nat) : State :=
  (({ s with pwr := { s.pwr with xing := tset (fun _ => 0) s.pwr.xing (frm * 32 + dst) v } }).xingShow frm).xingShow dst

/-- The slate as a number. -/
def State.now (s : State) : Nat := s.slate.toNat

/-- One tick of the slate, 8 ns (R273), when no command waits (log entry 2). -/
def State.idleTick (s : State) : State := { s with slate := s.slate + 1 }

/-- The outcome of a meaning that goes on. -/
abbrev go (s : State) : Host.Outcome State Fault Refusal := .next s

end Sys2Proof.Machine
end

