-- ==== Sys2Proof/Machine/Bus.lean ====
section
/-! DEFINITION. Fields of words in memory, the transceivers of the CAN and LIN controllers with the INH outputs (R314,
R315, R318, R327), and the latching of a wake source with the abort of an entry (R80, R81, R86, R89). -/

namespace Sys2Proof.Machine

/-! Fields of words in memory -/

/-- A field of a little-endian word in memory. -/
def State.mf (s : State) (r : RF) : Nat := r.get (BitVec.ofNat 32 (s.rdN r.addr 4))

/-- Replace a field of a word in memory. -/
def State.setMf (s : State) (r : RF) (v : Nat) : State :=
  s.wrN r.addr 4 (r.put (BitVec.ofNat 32 (s.rdN r.addr 4)) v).toNat

/-! Transceivers: number 0 to 7 CANn, 8 to 15 LINn -/

/-! Reserved bits of the memories (R16) -/

/-- The bits that the layout assigns in byte `o` of a match-table entry (R339). -/
def entryMask (o : Nat) : Nat := if o = 11 then 0x1F else if o = 15 then 0x0F else 0xFF

/-- In byte `o` of a flow context (R346). -/
def flowMask (o : Nat) : Nat :=
  if o = 9 then 0x3F else if o = 10 ∨ o = 11 then 0 else if o = 13 then 0x07
  else if 0x10 ≤ o ∧ o < 0x30 ∧ o % 8 = 1 then 0x03
  else if 0x10 ≤ o ∧ o < 0x30 ∧ (o % 8 = 2 ∨ o % 8 = 3) then 0
  else 0xFF

/-- In byte `o` of a CAN queue entry (R301). -/
def ceMask (o : Nat) : Nat :=
  if o = 0 then 0xF7 else if o = 7 then 0x7F else if o = 8 then 0x3F else if 9 ≤ o ∧ o ≤ 11 then 0 else if o = 12 then 0x07
  else if 13 ≤ o ∧ o ≤ 15 then 0 else if 0x18 ≤ o ∧ o < 0x20 then 0 else 0xFF

/-- In byte `o` of a LIN area (R320, R321): frame buffers, schedule slots, nothing above them. -/
def linMask (o : Nat) : Nat :=
  if o < 0x400 then
    (if o % 16 = 1 then 0x7F else if o % 16 = 3 ∨ o % 16 = 5 then 0 else if o % 16 = 4 then 0x0E else 0xFF)
  else if o < 0x800 then (if o % 4 = 2 then 0x03 else if o % 4 = 3 then 0 else 0xFF)
  else 0

/-- The bits that the layout of a memory assigns in the byte at an address; the other bits are reserved and read 0. -/
def laidMask (a : Nat) : Nat :=
  if (0x04000000 ≤ a ∧ a < 0x04480000) ∨ (0x04740000 ≤ a ∧ a < 0x04780000) then entryMask (a % 16)
  else if 0x04600000 ≤ a ∧ a < 0x04610000 then flowMask (a % 0x40)
  else if 0x04700000 ≤ a ∧ a < 0x04708000 then (if a % 0x1000 < 0xC00 then ceMask (a % 0x1000 % 0x60) else 0)
  else if 0x04708000 ≤ a ∧ a < 0x04710000 then linMask (a % 0x1000)
  else 0xFF

/-- Bytes written from an address upward, their reserved bits 0. -/
def laidBytes (a : Nat) (l : List Byte) : List Byte := l.zipIdx.map (fun x => x.1 &&& BitVec.ofNat 8 (laidMask (a + x.2)))

/-- State codes of a transceiver (CANn_TRX_STAT, LINn_STAT). -/
def trNORMAL : Nat := 0
/-- Receiver on, transmitter off. -/
def trLISTEN : Nat := 1
/-- Receiver off, wake detector armed. -/
def trSTANDBY : Nat := 2
/-- Asleep. -/
def trSLEEP : Nat := 3
/-- On the way to SLEEP. -/
def trGOING : Nat := 4

/-- The state beside the registers. -/
def State.trxOf (s : State) (t : Nat) : Trx := tget (fun _ => {}) s.trx t

/-- Put it. -/
def State.setTrxOf (s : State) (t : Nat) (x : Trx) : State := { s with trx := tset (fun _ => {}) s.trx t x }

/-- The field that shows a transceiver's state. -/
def trxStateRF (t : Nat) : RF := if t < 8 then CAN_TRX_STAT_STATE t else LIN_STAT_TRX_STATE (t - 8)

/-- Its REQ field. -/
def trxReqRF (t : Nat) : RF := if t < 8 then CAN_TRX_CTL_REQ t else LIN_CTL_TRX_REQ (t - 8)

/-- Its WAKE bit. -/
def trxWakeRF (t : Nat) : RF := if t < 8 then CAN_TRX_STAT_WAKE t else LIN_STAT_WAKE (t - 8)

/-- The INH output it is assigned to: 0 none, 1 INH0, 2 INH1; CAN4 to CAN7 are not assigned (R315, R318). -/
def State.trxInh (s : State) (t : Nat) : Nat :=
  if t < 4 then s.f (CAN_TRX_CFG_INH t) else if t < 8 then 0 else s.f (LIN_CFG0_INH (t - 8))

/-- Whether the bus of a transceiver exists on the part. -/
def State.trxPresent (s : State) (t : Nat) : Bool := s.busPresent (t % 8)

/-- The CAN or LIN controllers `n` exist on the part and the clock of the Bus island runs (R75, R293). -/
def State.busUp (s : State) (n : Nat) : Bool := s.busPresent n && s.clocked 11

/-- INHk is released (R315): some transceiver is assigned to it and every assigned one is in SLEEP. -/
def State.inhReleased (s : State) (k : Nat) : Bool :=
  let l := (List.range 16).filter (fun t => s.trxPresent t && s.trxInh t = k + 1)
  !l.isEmpty && l.all (fun t => s.f (trxStateRF t) = trSLEEP)

/-- Drive INH0 and INH1 after a change of a transceiver. -/
def State.inhUpdate (s : State) : State :=
  { s with pwr := { s.pwr with inhLow := b2n (s.inhReleased 0) + 2 * b2n (s.inhReleased 1) } }

/-- A transceiver enters a state. -/
def State.trxEnter (s : State) (t st : Nat) : State := (s.setF (trxStateRF t) st).inhUpdate

/-- The transition of a REQ in the present state (R314); a REQ in GOING_SLEEP waits for its end. In clock fallback the transceivers
stay in their states of power-on reset (R107). -/
def State.trxGo (s : State) (t req : Nat) : State :=
  let st := s.f (trxStateRF t)
  if s.boot.xtalBad then s
  else if st = trGOING then (if req = trSLEEP then s else s.setTrxOf t { s.trxOf t with held := some req })
  else if req = st then s
  else
    let s := if (req = trSTANDBY ∨ req = trSLEEP) ∧ t < 8 then s.setF (CAN_TRX_STAT_FEC t) 0 else s
    if req = trSLEEP then s.trxEnter t trGOING else
    let s := if req = trNORMAL ∨ req = trLISTEN then s.setTrxOf t { s.trxOf t with armed := false } else s
    s.trxEnter t req

/-- A REQ is written (the controller engine, NM or the power manager). -/
def State.trxReq (s : State) (t req : Nat) : State := (s.setF (trxReqRF t) req).trxGo t req

/-- GOING_SLEEP ends: SLEEP, and a REQ that waited takes effect. -/
def State.trxSlept (s : State) (t : Nat) : State :=
  let h := (s.trxOf t).held
  let s := (s.setTrxOf t { s.trxOf t with held := none }).trxEnter t trSLEEP
  match h with
  | some r => s.trxGo t r
  | none => s

/-! Power: wake latch and abort -/

/-- A record of the PWR unit in an island. -/
def State.stampPwr (s : State) (isl event data : Nat) : State := s.stamp isl 0x01 0x01 0x01 event data

/-- The code 0 Idle, 1 Sleep, 2 Deep sleep, 3 Off of a target (R92). -/
def target2 (t : Nat) : Nat := t - 1

/-- The abort counter of a target. -/
def abortCnt (t : Nat) : RF :=
  match target2 t with
  | 0 => PWR_ABORT_CNT0_IDLE
  | 1 => PWR_ABORT_CNT0_SLEEP
  | 2 => PWR_ABORT_CNT1_DEEP
  | _ => PWR_ABORT_CNT1_OFF

/-- The entry in progress ends, with its answers and its asked expansions. -/
def State.entryEnd (s : State) (status : Nat) : State :=
  let s := ((s.setF PWR_STATE_PHASE 0).setF PWR_STATE_TARGET 0).setF PWR_REQ_STATUS status
  { s with pwr := { s.pwr with answers := [], asked := [], expSealed := [] } }

/-- An expansion is asked for a state: a write of its PWR_REQ by the power manager over the Trunk (R86, R394; log entry 64). -/
def State.expAsk (s : State) (n target : Nat) : State :=
  s.trkSend n { orig := 0x64, op := 1, addr := n * 0x10000000 + PWR_REQ, len := 1, data := [BitVec.ofNat 8 target], what := 5 }

/-- Expansions that were asked for the target come back: from Idle by a request for Run, else by a WAKE burst (R86, R409). -/
def State.expUndo (s : State) : State :=
  if s.pwr.asked = [] then s
  else if s.f PWR_STATE_TARGET = 1 then s.pwr.asked.foldl (fun s n => s.expAsk n 0) s
  else s.trkWake

/-- The clamps of a target: those of R90 that its table applies for Deep sleep or Off, bit k for row k. -/
def clampsOf (target : Nat) : Nat := if target = 3 then 0x1FFF else if target = 4 then 0xE7FE else 0

/-- Undo the transceiver requests of an entry. -/
def State.trxUndo (s : State) : State :=
  (List.range 16).foldl (fun s t =>
    match (s.trxOf t).save with
    | some r => (s.setTrxOf t { s.trxOf t with save := none }).trxReq t r
    | none => s) s

/-- An entry is aborted by a wake (R86, R89): counted for its target, recorded, stamped, its steps undone, the clamps released; parked
dies come back by adoption (R79). -/
def State.entryAbort (s : State) : State :=
  let t := s.f PWR_STATE_TARGET
  let src := s.f PWR_WAKE_SRC_SRC
  let s := ((s.incSat (abortCnt t)).setF PWR_ABORT_LAST_CAUSE src).setF PWR_ABORT_LAST_TARGET (target2 t)
  let s := ((s.stampPwr 2 0x03 (src + target2 t * 0x1000000)).trxUndo).expUndo
  { s.entryEnd 4 with pwr := { s.pwr with answers := [], asked := [], expSealed := [], parked := false, clamp := 0 } }

/-- Whether an enabled source acts in the present state (R80). -/
def State.wakeActs (s : State) (bit : Nat) : Bool :=
  let st := s.f PWR_STATE_STATE
  bitOf (s.f PWR_WAKE_EN_EN) bit &&
  (st < 2 || st = 2 || (st = 3 && bit ≠ 14 && bit ≠ 17) || (st = 4 && bit < 2))

/-- A wake event is latched in the Cellar and stamped; an enabled source aborts an entry in COMMITTED or SEALING, or starts
the exit from the state reached (R81, R86). -/
def State.wakeSource (s : State) (bit : Nat) : State :=
  let coarse := s.f PWR_STATE_STATE = 3
  let s := s.raiseBits PWR_WAKE_SRC_SRC PWR_WAKE_CNT_COUNT (2 ^ bit)
  let s := s.offerRec { slate := s.islandSlate 0, kind := 0x01, index := 0x01, unit := 0x01, event := 0x04, island := 0,
                        coarse := coarse, data := BitVec.ofNat 128 (2 ^ bit) }
  if !s.wakeActs bit then s
  else if 2 ≤ s.f PWR_STATE_PHASE then s.entryAbort
  else if 2 ≤ s.f PWR_STATE_STATE then { s with pwr := { s.pwr with exit := true } }
  else s

/-- The module is in Run or Idle, its islands clocked. -/
def State.awake (s : State) : Bool := s.f PWR_STATE_STATE < 2

end Sys2Proof.Machine
end

