-- ==== Sys2Proof/Machine/Nm.lean ====
section
/-! DEFINITION. The bases of the CAN and LIN controllers that network management uses, and the NM unit: ring messages,
segment states, late wakes, TC10 and the insomnia table (R372 to R385), with the uplink link changes of R232. -/

namespace Sys2Proof.Machine

/-! Controllers -/

/-- A CAN controller beside its registers. -/
def State.can (s : State) (n : Nat) : Can := tget (fun _ => {}) s.cans n

/-- Put it. -/
def State.setCan (s : State) (n : Nat) (x : Can) : State := { s with cans := tset (fun _ => {}) s.cans n x }

/-- A LIN controller beside its registers. -/
def State.lin (s : State) (n : Nat) : Lin := tget (fun _ => {}) s.lins n

/-- Put it. -/
def State.setLin (s : State) (n : Nat) (x : Lin) : State := { s with lins := tset (fun _ => {}) s.lins n x }

/-- Modes of a CAN controller (R299). -/
def mdOFF : Nat := 0
/-- Full part. -/
def mdNORMAL : Nat := 1
/-- Bus monitoring. -/
def mdLISTEN : Nat := 2

/-- The controller reads the bus: NORMAL or LISTEN, not bus-off, the transceiver's receiver on. -/
def State.canHears (s : State) (n : Nat) : Bool :=
  s.busUp n && (s.can n).mode ≠ mdOFF && s.f (CAN_STAT_ESTATE n) ≠ 2 && s.f (trxStateRF n) < 2

/-- The MODE written takes effect once no attempt of the controller is on the bus, or at once in bus-off (R299); it does
not leave OFF in clock fallback (R107). -/
def State.canSettle (s : State) (n : Nat) : State :=
  let x := s.can n
  let m := s.f (CAN_CTL_MODE n)
  if x.cur.isSome ∧ s.f (CAN_STAT_ESTATE n) ≠ 2 then s
  else if s.boot.xtalBad ∧ x.mode = mdOFF then s
  else s.setCan n { x with mode := m }

/-- A write of MODE. -/
def State.canMode (s : State) (n m : Nat) : State := (s.setF (CAN_CTL_MODE n) m).canSettle n

/-- A write of RUN (R322): 0 stops the schedule at the end of the current slot. -/
def State.linRun (s : State) (n : Nat) (v : Bool) : State :=
  let x := s.lin n
  (s.setF (LIN_CTL_RUN n) (b2n v)).setLin n { x with started := x.started && (v || x.slotOn) }

/-- A write of SEND_WAKE = 1 (R326): a pulse is sent; a responder then waits for a header, a commander whose schedule has not
started for the 100 ms. In clock fallback the transmitter is silent (R107). -/
def State.linSendWake (s : State) (n : Nat) : State :=
  let x := s.lin n
  if s.boot.xtalBad then s
  else s.setLin n { x with pulses := 1, wait := s.on (LIN_CFG0_ROLE n) || !x.started }

/-- DATA of a UNIT cue whose unit gives none (log entry 9). -/
def openData (unit code : Nat) : Nat := Config.cueOpen 7 (unit * 0x100 + code) 2

/-- A record of LINn in the Bus island (R328). -/
def State.stampLin (s : State) (n event data : Nat) : State := s.stamp 11 0x01 (0x18 + n) (0x18 + n) event data

/-- A UNIT cue of LINn to a receiver (R328). -/
def State.linCue (s : State) (n target code arg : Nat) : State :=
  s.unitCue target (0x18 + n) code arg (openData (0x18 + n) code)

/-- A stamped event of LINn with its cue to the controller engine. -/
def State.linEvent (s : State) (n code arg data : Nat) : State :=
  (s.stampLin n code data).linCue n (s.f (LIN_CFG1_CTL_ENGINE n)) code arg

/-- The go-to-sleep command goes out, RUN clears, the event is stamped (R325). -/
def State.linSleepSent (s : State) (n : Nat) : State :=
  let s := (s.setF (LIN_CTL_RUN n) 0).setLin n { s.lin n with sleepReq := false, started := false, slotOn := false, buf := none }
  s.linEvent n 0x04 0 0

/-- A write of GOTO_SLEEP = 1 (R325): a commander sends it at the end of the current slot, or at once when none runs. -/
def State.linGotoSleep (s : State) (n : Nat) : State :=
  if s.on (LIN_CFG0_ROLE n) ∨ s.boot.xtalBad then s
  else if (s.lin n).slotOn then s.setLin n { s.lin n with sleepReq := true }
  else s.linSleepSent n

/-! NM segments -/

/-- A segment beside its registers. -/
def State.seg (s : State) (k : Nat) : NmSeg := tget (fun _ => {}) s.nm k

/-- Put it. -/
def State.setSeg (s : State) (k : Nat) (x : NmSeg) : State := { s with nm := tset (fun _ => {}) s.nm k x }

/-- Segment states (NM_SEGk_STAT). -/
def nsOFF : Nat := 0
/-- Listening after a start. -/
def nsLISTEN : Nat := 1
/-- Taking part. -/
def nsAWAKE : Nat := 2
/-- Ready to sleep. -/
def nsREADY : Nat := 3
/-- Sleep agreed. -/
def nsWAIT : Nat := 4
/-- Asleep. -/
def nsSLEEP : Nat := 5

/-- The state of a segment. -/
def State.nst (s : State) (k : Nat) : Nat := s.f (NM_SEG_STAT_STATE k)

/-- NM_EN of a segment whose controller is present. -/
def State.nmOn (s : State) (k : Nat) : Bool := s.on (NM_SEG_CFG0_NM_EN k) && (16 ≤ k || s.busPresent (k % 8))

/-- The gateway port of a segment (R329, R372). -/
def segPort (k : Nat) : Nat := if k < 16 then k + 3 else if k = 16 then 2 else k - 17

/-- A stamped NM event with its cue to the NM engine (R385). -/
def State.nmEvent (s : State) (code arg data : Nat) : State :=
  (s.stamp 11 0x01 0x23 0x23 code data).unitCue (s.f NM_CFG_NM_ENGINE) 0x23 code arg (openData 0x23 code)

/-- The conditions of sleep (R375): AWAKE 0, no WAKE_ON_ROUTE frame waiting, every segment of NEED_MASK asleep or off. -/
def State.nmMaySleep (s : State) (k : Nat) : Bool :=
  !s.on (NM_SEG_CTL_AWAKE k) && !s.gw.out.any (fun e => e.wake && e.port = segPort k) &&
  (List.range 19).all (fun j => !bitOf (s.f (NM_SEG_CFG1_NEED_MASK k)) j || s.nst j = nsSLEEP || s.nst j = nsOFF)

/-- A duration from a slate in seconds. -/
def State.secondsSince (s : State) (t : Nat) : Nat := (s.now - t) / 125000000

/-- The row of the insomnia table that a member has, if any. -/
def State.insRow (s : State) (k node : Nat) : Option Nat :=
  (List.range 64).find? (fun r =>
    s.on (NM_INS_KEY_VALID r) && s.f (NM_INS_KEY_SEGMENT r) = k && s.f (NM_INS_KEY_NODE r) = node)

/-- The insomnia of a member ends (R384): stamped with its duration, LONGEST updated. -/
def State.insEnd (s : State) (k node : Nat) (x : NmNode) : State :=
  let sec := s.secondsSince x.since
  let s := s.nmEvent 0x05 k (k + node * 0x100 + sec % 2 ^ 32 * 2 ^ 32)
  match s.insRow k node with
  | some r => s.setF (NM_INS_CNT_LONGEST r) (max (s.f (NM_INS_CNT_LONGEST r)) (min (sec / 60) 0xFFFF))
  | none => s

/-- A segment leaves READY: every insomnia in progress ends. -/
def State.leaveReady (s : State) (k : Nat) : State :=
  let s := (s.seg k).nodes.foldl (fun s e => if e.2.reported then s.insEnd k e.1 e.2 else s) s
  let x := s.seg k
  s.setSeg k { x with nodes := (x.nodes.filter (fun e => !e.2.gone)).map (fun e => (e.1, { e.2 with reported := false })) }

/-- A segment changes state: shown, stamped and cued (R385, log entry 12); entering READY starts the insomnia timing. -/
def State.nmSet (s : State) (k st : Nat) : State :=
  let old := s.nst k
  if old = st then s
  else
    let s := if old = nsREADY then s.leaveReady k else s
    let s := (s.setF (NM_SEG_STAT_STATE k) st).setF (NM_SEG_STAT_SLEEP_IND k) (b2n (st = nsREADY || st = nsWAIT))
    let s := if st = nsSLEEP then s.incSat (NM_SEG_CNT_SLEEPS k) else s
    let s := if st = nsREADY then
        let x := s.seg k
        s.setSeg k { x with readyAt := s.now, nodes := x.nodes.map (fun e => (e.1, { e.2 with since := s.now })) }
      else s
    s.nmEvent 0x01 k (k + old * 0x100 + st * 0x1000)

/-- Every segment in READY whose conditions have ceased returns to AWAKE (R377). -/
def State.nmRecheck (s : State) : State :=
  (List.range 19).foldl (fun s k => if s.nst k = nsREADY ∧ !s.nmMaySleep k then s.nmSet k nsAWAKE else s) s

/-- The members of a segment by node ID, the module among them (R374). -/
def State.members (s : State) (k : Nat) : List Nat :=
  (List.range 64).filter (fun n => n = s.f (NM_SEG_CFG0_NODE_ID k) || (s.seg k).nodes.any (fun e => e.1 = n && !e.2.gone))

/-- The module's successor: the lowest member above its own ID, else the lowest member. -/
def State.successor (s : State) (k : Nat) : Nat :=
  let own := s.f (NM_SEG_CFG0_NODE_ID k)
  match (s.members k).find? (fun n => own < n) with
  | some n => n
  | none => (s.members k).headD own

/-- Show the members and the successor. -/
def State.nmShow (s : State) (k : Nat) : State :=
  let m := (s.members k).foldl (fun a n => a + 2 ^ n) 0
  ((s.setReg (NM_SEG_MEMBERS_LO k) (BitVec.ofNat 32 m)).setReg (NM_SEG_MEMBERS_HI k) (BitVec.ofNat 32 (m / 2 ^ 32))).setF
    (NM_SEG_STAT_SUCCESSOR k) (s.successor k)

/-- Put an NM message into the controller's dedicated slot (R373). -/
def State.nmSend (s : State) (k : Nat) (alive ack wake : Bool) (cause : Nat) : State :=
  let flags := b2n alive + 2 * s.f (NM_SEG_STAT_SLEEP_IND k) + 4 * b2n ack + 8 * b2n wake
  s.setCan k { s.can k with nm := some [BitVec.ofNat 8 (s.successor k), BitVec.ofNat 8 flags, BitVec.ofNat 8 cause, 0] }

/-- What a segment does to take part again: CAN requests the transceiver and the controller and sends ALIVE (R377); a LIN
commander runs again, a responder wakes the bus on a local wake (R381). -/
def State.nmJoin (s : State) (k cause : Nat) : State :=
  if k < 8 then
    let s := (s.trxReq k trNORMAL).canMode k mdNORMAL
    s.nmSend k true false true cause
  else if k < 16 then
    let s := s.trxReq k trNORMAL
    if s.f (LIN_CFG0_ROLE (k - 8)) = 0 then s.linRun (k - 8) true
    else if cause = 2 ∨ cause = 3 then s.linSendWake (k - 8) else s
  else s

/-- A segment wakes to AWAKE with a cause (R377). -/
def State.nmWake (s : State) (k cause : Nat) : State :=
  let s := ((s.nmSet k nsAWAKE).incSat (NM_SEG_CNT_WAKES k)).setF (NM_SEG_STAT_LAST_CAUSE k) cause
  let s := s.setSeg k { s.seg k with held := 0 }
  (s.nmJoin k cause).nmRecheck

/-- A late wake (R379): counted, flagged, stamped with phase and cause, cued. -/
def State.lateWake (s : State) (k phase cause : Nat) : State :=
  ((s.incSat (NM_SEG_CNT_LATE_WAKES k)).raise NM_FLAG_LATE_WAKE NM_FLAG_CNT_COUNT).nmEvent 0x02 k
    (k + phase * 0x100 + cause * 0x10000)

/-- A local wake of a segment (R378): cause 2 local, 3 route. In GOING_SLEEP it is held. -/
def State.localWake (s : State) (k cause : Nat) : State :=
  if !s.nmOn k then s
  else if s.nst k = nsLISTEN then s.nmWake k cause
  else if s.nst k = nsWAIT then (s.lateWake k 1 cause).nmWake k cause
  else if s.nst k = nsSLEEP then
    if k < 16 ∧ s.f (trxStateRF k) = trGOING then (s.lateWake k 2 cause).setSeg k { s.seg k with held := cause }
    else s.nmWake k cause
  else s.nmRecheck

/-- A frame on the bus of a segment (R377, R379). -/
def State.nmTraffic (s : State) (k : Nat) : State :=
  if !s.nmOn k then s
  else if s.nst k = nsLISTEN then s.nmWake k 1
  else if s.nst k = nsWAIT then (s.lateWake k 1 1).nmWake k 1
  else s

/-- The transceiver of a segment has latched a wake (R377); `late` when it left GOING_SLEEP for STANDBY. -/
def State.nmBusWake (s : State) (k : Nat) (late : Bool) : State :=
  if !s.nmOn k then s
  else if s.nst k = nsSLEEP then (if late then (s.lateWake k 2 4).nmWake k 4 else s.nmWake k 1)
  else if s.nst k = nsLISTEN then s.nmWake k 1
  else s

/-- A transceiver has reached SLEEP: a held local wake takes effect (R379). -/
def State.nmSlept (s : State) (k : Nat) : State :=
  if s.nmOn k ∧ (s.seg k).held ≠ 0 then s.nmWake k (s.seg k).held else s

/-- The start of a segment after a full reset or a Deep sleep exit (R377); a LIN segment or an uplink starts AWAKE unless its
transceiver sleeps (log entry 12). -/
def State.nmStart (s : State) (k : Nat) : State :=
  if !s.nmOn k then s.setF (NM_SEG_STAT_STATE k) nsOFF
  else if k < 16 ∧ s.f (trxStateRF k) = trSLEEP ∧ !s.on (trxWakeRF k) then s.nmSet k nsSLEEP
  else if k < 8 then
    let s := (((s.nmSet k nsLISTEN).trxReq k trLISTEN).canMode k mdLISTEN).nmShow k
    if s.on (NM_SEG_CFG0_START_AWAKE k) ∨ s.on (NM_SEG_CTL_AWAKE k) then s.nmWake k 2
    else if s.on (trxWakeRF k) then s.nmWake k 1 else s
  else s.nmSet k nsAWAKE

/-! Commands -/

/-- NM_MESSAGE_RECEIVED (R373, R374, R377, R384): the NM unit's copy of a received NM message. -/
def State.nmMessage (s : State) (k : Nat) (f : CanFrame) : State :=
  let base := s.f (NM_SEG_CFG0_BASE_ID k)
  if !s.nmOn k ∨ f.ide ∨ f.rtr ∨ f.id.toNat < base ∨ base + 63 < f.id.toNat ∨ f.dlc.toNat < 4 then s
  else
    let node := f.id.toNat - base
    let flags := sliceLE f.data 1 1
    let alive := bitOf flags 0
    let ind := bitOf flags 1
    let x := s.seg k
    let old : NmNode := tget (fun _ => { since := x.readyAt }) x.nodes node
    let s := if ind ∧ !alive ∧ old.reported then s.insEnd k node old else s
    let x := s.seg k
    let nn : NmNode := { last := s.now, rang := old.rang || !alive, ind := if alive then old.ind else ind,
                         since := if ind && !alive then s.now else old.since, reported := old.reported && (alive || !ind) }
    let nodes := (x.nodes.filter (fun e => e.1 < node)) ++ (node, nn) :: x.nodes.filter (fun e => node < e.1)
    let s := s.setSeg k { x with nodes := nodes, allInd := x.allInd && (alive || ind) }
    let s := s.nmShow k
    let own := s.f (NM_SEG_CFG0_NODE_ID k)
    let mine := if alive then (s.members k).headD own = own else sliceLE f.data 0 1 % 0x40 = own
    let s := if mine then s.setSeg k { s.seg k with turn := true } else s
    if !bitOf flags 2 then s
    else if s.nst k = nsREADY then s.nmSet k nsWAIT
    else if s.nst k = nsAWAKE then s.nmSend k true false true 2
    else s

/-- NM_MESSAGE_RECEIVED. -/
def execNmMessageReceived (n : Fin 8) (f : CanFrame) (s : State) : Host.Outcome State Fault Refusal :=
  go (if s.canHears n then s.nmMessage n f else s)

/-- NM_TURN (R374, R376): the module sends its ring message; with SLEEP_ACK when it and every member are ready. -/
def execNmTurn (n : Fin 8) (s : State) : Host.Outcome State Fault Refusal :=
  let x := s.seg n
  if !s.nmOn n || !x.turn || !s.clocked 11 || !(s.nst n = nsAWAKE || s.nst n = nsREADY) then go s
  else
    let ack := s.nst n = nsREADY && x.allInd && x.nodes.all (fun e => e.2.rang || e.2.gone)
    let s := s.setSeg n { x with turn := false, allInd := true, nodes := x.nodes.map (fun e => (e.1, { e.2 with rang := false })) }
    go (s.nmSend n false ack false 0)

/-- The module's NM message has been sent: SLEEP_ACK in READY agrees to sleep (R377). -/
def State.nmSent (s : State) (k : Nat) (msg : List Byte) : State :=
  if bitOf (sliceLE msg 1 1) 2 ∧ s.nst k = nsREADY then s.nmSet k nsWAIT else s

/-- A node leaves the membership; one whose insomnia is recorded is kept until it has ended (R384). -/
def nodeGone (e : Nat × NmNode) : Option (Nat × NmNode) := if e.2.reported then some (e.1, { e.2 with gone := true }) else none

/-- NM_RING_BROKEN (R374). -/
def execNmRingBroken (n : Fin 8) (s : State) : Host.Outcome State Fault Refusal :=
  if !s.nmOn n || !s.clocked 11 || !(s.nst n = nsAWAKE || s.nst n = nsREADY) then go s
  else
    let m := (s.members n).foldl (fun a k => a + 2 ^ k) 0
    let s := ((s.incSat (NM_SEG_CNT_RING_BROKEN n)).raise NM_FLAG_RING_BROKEN NM_FLAG_CNT_COUNT).nmEvent 0x03 n
      (n + m * 2 ^ 64)
    let s := s.setSeg n { s.seg n with nodes := (s.seg n).nodes.filterMap nodeGone, allInd := true, turn := false }
    go ((s.nmShow n).nmSend n true false false 0)

/-- NM_MEMBER_EXPIRE (R374): a node silent for 2 × T_MAX leaves the membership. -/
def execNmMemberExpire (n : Fin 8) (node : Fin 64) (s : State) : Host.Outcome State Fault Refusal :=
  let x := s.seg n
  go (if s.clocked 11 then
      (s.setSeg n { x with nodes := x.nodes.filterMap (fun e => if e.1 = node.val then nodeGone e else some e) }).nmShow n
    else s)

/-- NM_LISTEN_TIMEOUT (R377). -/
def execNmListenTimeout (n : Fin 8) (s : State) : Host.Outcome State Fault Refusal :=
  go (if s.clocked 11 ∧ s.nmOn n ∧ s.nst n = nsLISTEN then (s.nmSet n nsSLEEP).trxReq n trSLEEP else s)

/-- NM_READY (R377, R381): a segment whose conditions of sleep hold. A CAN segment becomes ready; a LIN commander writes
GOTO_SLEEP and waits for bus sleep. -/
def execNmReady (k : Fin 19) (s : State) : Host.Outcome State Fault Refusal :=
  go (if !s.clocked 11 ∨ !s.nmOn k ∨ s.nst k ≠ nsAWAKE ∨ !s.nmMaySleep k then s
    else if k.val < 8 then s.nmSet k nsREADY
    else if k.val < 16 ∧ s.f (LIN_CFG0_ROLE (k - 8)) = 0 then (s.linGotoSleep (k - 8)).nmSet k nsWAIT
    else s)

/-- NM_WAIT_BUS_SLEEP_EXPIRE (R377, R381). -/
def execNmWaitBusSleepExpire (k : Fin 19) (s : State) : Host.Outcome State Fault Refusal :=
  go (if s.clocked 11 ∧ s.nmOn k ∧ s.nst k = nsWAIT ∧ k.val < 16 then (s.nmSet k nsSLEEP).trxReq k trSLEEP else s)

/-- The other uplink of an uplink segment. -/
def otherUplink (k : Nat) : Nat := if k = 17 then 18 else 17

/-- An uplink wakes; WAKE_FWD passes the wake to the other one (R383). -/
def State.uplinkWake (s : State) (k cause : Nat) : State :=
  let one := fun (s : State) (k c : Nat) => if s.nmOn k ∧ s.nst k = nsSLEEP then s.nmWake k c else s
  let t := one s k cause
  if s.on (NM_SEG_CFG0_WAKE_FWD k) then one t (otherUplink k) cause else t

/-- A write of NM_SEGk_CTL (R378). -/
def State.nmCtlWrite (s : State) (init k : Nat) (v : Bool) : State :=
  if !(isStr init || (isEngine init && s.f NM_CFG_NM_ENGINE = init) ||
      (isSession init && bitOf (s.f NM_CFG_ZRT_GRANT) (init - 0x40))) then s
  else
    let s := s.setF (NM_SEG_CTL_AWAKE k) (b2n v)
    if !v then s else if 17 ≤ k then s.uplinkWake k 2 else s.localWake k 2

/-- NM_AWAKE_WRITE (R378). -/
def execNmAwakeWrite (k : Fin 19) (init : Byte) (v : Bool) (s : State) : Host.Outcome State Fault Refusal :=
  go (if s.clocked 11 ∧ (16 ≤ k.val ∨ s.busPresent (k % 8)) then s.nmCtlWrite init.toNat k v else s)

/-- A member's insomnia is recorded in its row, or in the lowest free one (R384). -/
def State.insRecord (s : State) (k node : Nat) : State :=
  let take := fun (s : State) (r : Nat) =>
    (((s.incSat (NM_INS_CNT_EVENTS r)).setReg (NM_INS_STAMP_LO r) (BitVec.ofNat 32 s.now)).setReg (NM_INS_STAMP_HI r)
      (BitVec.ofNat 32 (s.now / 2 ^ 32)))
  match s.insRow k node with
  | some r => take s r
  | none =>
    match (List.range 64).find? (fun r => !s.on (NM_INS_KEY_VALID r)) with
    | some r => take (((s.setF (NM_INS_KEY_SEGMENT r) k).setF (NM_INS_KEY_NODE r) node).setF (NM_INS_KEY_VALID r) 1) r
    | none => s.incSat NM_INS_OVF_COUNT

/-- NM_INSOMNIA (R384): a member has kept SLEEP_IND 0 for INSOMNIA_MIN while the segment is in READY. -/
def execNmInsomnia (k : Fin 19) (node : Fin 64) (s : State) : Host.Outcome State Fault Refusal :=
  let x := s.seg k
  match x.nodes.find? (fun e => e.1 = node.val) with
  | none => go s
  | some e =>
    if s.nst k ≠ nsREADY ∨ e.2.ind ∨ e.2.reported ∨ e.2.gone ∨ !s.clocked 11 then go s
    else
      let s := (s.insRecord k node).raise NM_FLAG_INSOMNIA NM_FLAG_CNT_COUNT
      let s := s.nmEvent 0x04 k (k + node * 0x100 + s.secondsSince e.2.since % 2 ^ 32 * 2 ^ 32)
      let x := s.seg k
      go (s.setSeg k { x with nodes := x.nodes.map (fun n => if n.1 = node.val then (n.1, { n.2 with reported := true }) else n) })

/-- NM_INSOMNIA_CLEAR (R384): a write of NM_INS_CLR.CLEAR = 1. -/
def State.insClear (s : State) : State :=
  let s := (List.range 64).foldl (fun s r =>
    (((s.setReg (NM_INS_KEY r) 0).setReg (NM_INS_CNT r) 0).setReg (NM_INS_STAMP_LO r) 0).setReg (NM_INS_STAMP_HI r) 0) s
  s.setF NM_INS_OVF_COUNT 0

/-- NM_INSOMNIA_CLEAR. -/
def execNmInsomniaClear (s : State) : Host.Outcome State Fault Refusal :=
  go (if s.clocked 11 then s.insClear else s)

/-- TC10_SLEEP_REQUEST (R383): accepted where the conditions of sleep hold. -/
def execTc10SleepRequest (u : Fin 2) (s : State) : Host.Outcome State Fault Refusal :=
  let k := 17 + u.val
  go (if s.clocked 11 ∧ s.nmOn k ∧ s.nst k = nsAWAKE ∧ s.nmMaySleep k then s.nmSet k nsSLEEP else s)

/-- TC10_WAKE (R383, R80): a WUP or WUR from the partner. -/
def execTc10Wake (u : Fin 2) (s : State) : Host.Outcome State Fault Refusal :=
  go ((s.wakeSource (15 + u)).uplinkWake (17 + u) 1)

/-- UPLINK_LINK_DOWN (R232). -/
def execUplinkLinkDown (u : Fin 2) (s : State) : Host.Outcome State Fault Refusal := go (s.setF (ETH_PORT_STAT_LINK u) 0)

/-- UPLINK_LINK_UP (R232); in clock fallback the port is silent (R107). -/
def execUplinkLinkUp (u : Fin 2) (s : State) : Host.Outcome State Fault Refusal :=
  go (if s.boot.xtalBad then s else s.setF (ETH_PORT_STAT_LINK u) 1)

end Sys2Proof.Machine
end

