-- ==== Sys2Proof/Machine/Flags.lean ====
section
/-! DEFINITION. The flag computations of the CE8 instructions (R235, R243): each gives the exact result narrowed to the
width, and the flags that the instruction writes; a flag it leaves unchanged is none. -/

namespace Sys2Proof.Machine

/-- The flags an instruction writes, none for unchanged. -/
structure Fl where
  z : Option Bool := none
  c : Option Bool := none
  n : Option Bool := none
  v : Option Bool := none
  deriving DecidableEq, Repr

/-- A result of `w` bits with its flags. -/
abbrev FlRes := Nat × Fl

/-- Bit `w - 1` of a result. -/
def topBit (w r : Nat) : Bool := bitOf r (w - 1)

/-- The exact signed value lies outside `w` bits. -/
def signedOver (w : Nat) (x : Int) : Bool := x < -(2 ^ (w - 1) : Nat) || (2 ^ (w - 1) : Nat) ≤ x

/-- Sum with a carry in: Z C N V. -/
def flAdd (w a b cin : Nat) : FlRes :=
  let r := (a + b + cin) % 2 ^ w
  (r, { z := some (r = 0), c := some (2 ^ w ≤ a + b + cin), n := some (topBit w r),
        v := some (signedOver w (signed w a + signed w b + cin)) })

/-- Difference with a borrow in: Z C N V, C the borrow. -/
def flSub (w a b bin : Nat) : FlRes :=
  let r := (a + 2 ^ w - b % 2 ^ w + (2 ^ w - bin)) % 2 ^ w
  (r, { z := some (r = 0), c := some (a < b + bin), n := some (topBit w r),
        v := some (signedOver w (signed w a - signed w b - bin)) })

/-- A logical result: Z N, V cleared. -/
def flLogic (w r : Nat) : FlRes := (r % 2 ^ w, { z := some (r % 2 ^ w = 0), n := some (topBit w (r % 2 ^ w)), v := some false })

/-- INC: Z N V. -/
def flInc (a : Nat) : FlRes := let r := flAdd 8 a 1 0; (r.1, { r.2 with c := none })

/-- DEC: Z N V. -/
def flDec (a : Nat) : FlRes := let r := flSub 8 a 1 0; (r.1, { r.2 with c := none })

/-- A shift or rotation of 8 bits that moves `out` into C: Z C N, V cleared. -/
def flShift (r : Nat) (out : Bool) : FlRes :=
  (r % 0x100, { z := some (r % 0x100 = 0), c := some out, n := some (topBit 8 r), v := some false })

/-- SHL. -/
def flShl (a : Nat) : FlRes := flShift (2 * a) (bitOf a 7)

/-- SHR. -/
def flShr (a : Nat) : FlRes := flShift (a / 2) (bitOf a 0)

/-- ASR: bit 7 kept. -/
def flAsr (a : Nat) : FlRes := flShift (a / 2 + 0x80 * b2n (bitOf a 7)) (bitOf a 0)

/-- ROL: left through C. -/
def flRol (a : Nat) (c : Bool) : FlRes := flShift (2 * a + b2n c) (bitOf a 7)

/-- ROR: right through C. -/
def flRor (a : Nat) (c : Bool) : FlRes := flShift (a / 2 + 0x80 * b2n c) (bitOf a 0)

/-- ADDPB: Z C of 16 bits. -/
def flAddpb (a b : Nat) : FlRes := let r := flAdd 16 a b 0; (r.1, { z := r.2.z, c := r.2.c })

/-- INCP: Z of 16 bits. -/
def flIncp (a : Nat) : FlRes := let r := flAdd 16 a 1 0; (r.1, { z := r.2.z })

/-- DECP: Z of 16 bits. -/
def flDecp (a : Nat) : FlRes := let r := flSub 16 a 1 0; (r.1, { z := r.2.z })

/-- MULU: Z N of 16 bits, C when the result exceeds 0xFF, V cleared. -/
def flMulu (a b : Nat) : FlRes :=
  let r := a * b % 0x10000
  (r, { z := some (r = 0), c := some (0xFF < a * b), n := some (topBit 16 r), v := some false })

/-- MULS: Z N of 16 bits, C when the result lies outside −128 to 127, V cleared. -/
def flMuls (a b : Nat) : FlRes :=
  let x := signed 8 a * signed 8 b
  let r := unsigned 16 x
  (r, { z := some (r = 0), c := some (signedOver 8 x), n := some (topBit 16 r), v := some false })

/-- TAS: Z when the old bit 7 is 0, N the old bit 7. -/
def flTas (old : Nat) : Fl := { z := some (!bitOf old 7), n := some (bitOf old 7) }

/-- The condition of Bcc (R242) from Z, C, N, V. -/
def condHolds (c : Nat) (z cy n v : Bool) : Bool :=
  match c with
  | 0 => z
  | 1 => !z
  | 2 => cy
  | 3 => !cy
  | 4 => n
  | 5 => !n
  | 6 => v
  | 7 => !v
  | 8 => !cy && !z
  | 9 => cy || z
  | 10 => n == v
  | 11 => n != v
  | 12 => !z && n == v
  | 13 => z || n != v
  | _ => true

end Sys2Proof.Machine
end

