-- ==== Sys2Proof/Machine/Operands.lean ====
section
/-! DEFINITION. The operand forms of the CE8 instructions: byte registers, pointers, flags and bank registers under the
distances of R248, the data space of R238 with its engine-private registers, loads and stores (R240), cues offered to a
queue (R257), faults (R270), and the frame that every instruction runs in (R241, R250 to R253). -/

namespace Sys2Proof.Machine

/-- Engine `g` (0 to 47) is engine `g % 8` of crew `g / 8`; its initiator ID is 0x10 + g (R233). -/
def State.eng (s : State) (g : Nat) : Eng := tget (fun _ => {}) s.engs g

/-- Put an engine. -/
def State.setEng (s : State) (g : Nat) (x : Eng) : State := { s with engs := tset (fun _ => {}) s.engs g x }

/-- The crew of an engine runs extended (R247). -/
def State.ext (s : State) (g : Nat) : Bool := s.on (CUE_CREW_CFG_PIPE (g / 8))

/-- A handler runs. -/
def Eng.running (e : Eng) : Bool := e.st = .normal || e.st = .urgent || e.st = .urgentOverNormal

/-- The level in force is URGENT. -/
def Eng.isUrgent (e : Eng) : Bool := e.st = .urgent || e.st = .urgentOverNormal

/-- A level. -/
def Eng.lvl (e : Eng) (u : Bool) : EngLvl := if u then e.ul else e.nl

/-- Put a level. -/
def Eng.setLvl (e : Eng) (u : Bool) (x : EngLvl) : Eng := if u then { e with ul := x } else { e with nl := x }

/-- The level in force. -/
def Eng.cur (e : Eng) : EngLvl := e.lvl e.isUrgent

/-- The slate of the engine's crew island, in ticks (R93, R275). -/
def State.crewNow (s : State) (g : Nat) : Nat := (s.islandSlate (3 + g / 8)).toNat

/-! Distances (R248) -/

/-- Kinds of producer. -/
def kResult : Nat := 0
/-- A load of any kind. -/
def kLoad : Nat := 1
/-- MULU and MULS. -/
def kMul : Nat := 2
/-- Flags. -/
def kFlag : Nat := 3
/-- A store to a bank register. -/
def kBank : Nat := 4
/-- A post-increment or pre-decrement. -/
def kInc : Nat := 5

/-- Roles of a consumer. -/
def roData : Nat := 0
/-- A register used in an address. -/
def roAddr : Nat := 1
/-- A flag read by Bcc. -/
def roBranch : Nat := 2
/-- C read by ADC, SBC, ROL or ROR. -/
def roCarry : Nat := 3
/-- A bank register used by an access through its window. -/
def roWindow : Nat := 4

/-- The distance at which a consumer sees a result. -/
def distance (ext : Bool) (kind role : Nat) : Nat :=
  if (kind = kLoad ∨ kind = kMul) ∧ role = roData then (if ext then 3 else 2)
  else if (kind = kLoad ∨ kind = kMul) ∧ role = roAddr then (if ext then 4 else 2)
  else if kind = kResult ∧ role = roAddr then (if ext then 2 else 1)
  else if kind = kFlag ∧ role = roBranch then (if ext then 2 else 1)
  else if kind = kBank ∧ role = roWindow then (if ext then 3 else 2)
  else 1

/-- What a consumer at cycle `t` sees: the value after the newest producer that is far enough, else the value before the
oldest of the nearer ones. The list holds the newest first. -/
def seenIn (ext : Bool) (t res role : Nat) : List EngHist → Nat → Nat
  | [], v => v
  | h :: l, v =>
    if h.res = res then (if h.cyc + distance ext h.kind role ≤ t then v else seenIn ext t res role l h.old)
    else seenIn ext t res role l v

/-- Add a result to those not yet seen by every consumer; the longest distance is 4. -/
def Eng.note (e : Eng) (res kind cyc old : Nat) : Eng :=
  { e with hist := { res := res, kind := kind, cyc := cyc, old := old } :: e.hist.filter (fun h => cyc ≤ h.cyc + 4) }

/-- The code of byte register Br at a level: B8 to B15 are the level's own (R236). -/
def regCode (u : Bool) (r : Nat) : Nat := if r < 8 || !u then r else r + 8

/-- The codes of flag `i` (0 Z, 1 C, 2 N, 3 V) and of bank register `i` (0 SHARED, 1 LARDER, 2 CTX, 3 GW, 4 UNIT). -/
def flagCode (u : Bool) (i : Nat) : Nat := 32 + 4 * b2n u + i

/-- The code of a bank register. -/
def bankCode (u : Bool) (i : Nat) : Nat := 48 + 8 * b2n u + i

/-- The byte register of a code, as last written. -/
def Eng.reg (e : Eng) (r : Nat) : Nat := tget (fun _ => 0) e.b r

/-- Write the byte register of a code. -/
def Eng.setReg (e : Eng) (r v : Nat) : Eng := { e with b := tset (fun _ => 0) e.b r (v % 0x100) }

/-- Br of the level in force as an instruction in execution sees it. -/
def State.bR (s : State) (g r role : Nat) : Nat :=
  let e := s.eng g
  seenIn (s.ext g) e.cyc (regCode e.isUrgent r) role e.hist (e.reg (regCode e.isUrgent r))

/-- Pp of the level in force (R235). -/
def State.pR (s : State) (g p role : Nat) : Nat := s.bR g (2 * p) role + 0x100 * s.bR g (2 * p + 1) role

/-- Write the byte register of a code, with the producer's kind and last cycle. -/
def State.codeW (s : State) (g code v kind last : Nat) : State :=
  let e := s.eng g
  s.setEng g ((e.note code kind last (e.reg code)).setReg code v)

/-- Write Br of the level in force. -/
def State.bW (s : State) (g r v kind last : Nat) : State := s.codeW g (regCode (s.eng g).isUrgent r) v kind last

/-- Write Pp of the level in force. -/
def State.pW (s : State) (g p v kind last : Nat) : State :=
  (s.bW g (2 * p) (v % 0x100) kind last).bW g (2 * p + 1) (v / 0x100 % 0x100) kind last

/-- A flag of a level. -/
def EngLvl.flag (l : EngLvl) (i : Nat) : Bool := match i with | 0 => l.z | 1 => l.c | 2 => l.n | _ => l.v

/-- Replace a flag of a level. -/
def EngLvl.setFlag (l : EngLvl) (i : Nat) (x : Bool) : EngLvl :=
  match i with
  | 0 => { l with z := x }
  | 1 => { l with c := x }
  | 2 => { l with n := x }
  | _ => { l with v := x }

/-- A flag of the level in force as an instruction in execution sees it. -/
def State.flR (s : State) (g i role : Nat) : Bool :=
  let e := s.eng g
  seenIn (s.ext g) e.cyc (flagCode e.isUrgent i) role e.hist (b2n (e.cur.flag i)) ≠ 0

/-- Write one flag of a level. -/
def State.flW1 (s : State) (g : Nat) (u : Bool) (i : Nat) (x : Option Bool) (last : Nat) : State :=
  match x with
  | none => s
  | some x =>
    let e := s.eng g
    s.setEng g ((e.note (flagCode u i) kFlag last (b2n ((e.lvl u).flag i))).setLvl u ((e.lvl u).setFlag i x))

/-- Write the flags that an instruction at a level gives. -/
def State.flWAt (s : State) (g : Nat) (u : Bool) (f : Fl) (last : Nat) : State :=
  (((s.flW1 g u 0 f.z last).flW1 g u 1 f.c last).flW1 g u 2 f.n last).flW1 g u 3 f.v last

/-- Write the flags at the level in force. -/
def State.flW (s : State) (g : Nat) (f : Fl) (last : Nat) : State := s.flWAt g (s.eng g).isUrgent f last

/-! Bank registers and the data space (R238, R239) -/

/-- A bank register in effect. -/
def EngLvl.bank (l : EngLvl) (i : Nat) : Nat :=
  match i with | 0 => l.bShared | 1 => l.bLarder | 2 => l.bCtx | 3 => l.bGw | _ => l.bUnit

/-- Replace a bank register. -/
def EngLvl.setBank (l : EngLvl) (i v : Nat) : EngLvl :=
  match i with
  | 0 => { l with bShared := v }
  | 1 => { l with bLarder := v }
  | 2 => { l with bCtx := v }
  | 3 => { l with bGw := v }
  | _ => { l with bUnit := v }

/-- A bank register as an access through its window sees it. -/
def State.bankR (s : State) (g i : Nat) : Nat :=
  let e := s.eng g
  seenIn (s.ext g) e.cyc (bankCode e.isUrgent i) roWindow e.hist (e.cur.bank i)

/-- A bank register of the level in force takes effect. -/
def State.bankW (s : State) (g i v last : Nat) : State :=
  let e := s.eng g
  s.setEng g ((e.note (bankCode e.isUrgent i) kBank last (e.cur.bank i)).setLvl e.isUrgent (e.cur.setBank i v))

/-- Where a data address leads (R238). -/
inductive Place where
  | loc (a : Nat)
  | crew (a : Nat)
  | spine (a : Nat)
  | priv (a : Nat)
  deriving DecidableEq, Repr

/-- The Spine address of the program memory, the local data and the crew memory (R272). -/
def progAt (g : Nat) : Nat := 0x02080000 + g / 8 * 0x100000 + g % 8 * 0x4000

/-- The local data of an engine. -/
def localAt (g : Nat) : Nat := 0x02082000 + g / 8 * 0x100000 + g % 8 * 0x4000

/-- The crew memory of an engine's crew. -/
def crewMemAt (g : Nat) : Nat := 0x02040000 + g / 8 * 0x100000

/-- The place of a data address. -/
def State.place (s : State) (g a : Nat) : Place :=
  if a < 0x1000 then .loc (localAt g + a)
  else if a < 0x2000 then .crew (crewMemAt g + s.bankR g 0 * 0x1000 + (a - 0x1000))
  else if a < 0x4000 then .spine (0x03000000 + s.bankR g 2 * 0x400 + (a - 0x2000))
  else if a < 0x8000 then .spine (0x01000000 + s.bankR g 1 * 0x4000 + (a - 0x4000))
  else if a < 0xC000 then .spine (0x04000000 + s.bankR g 3 * 0x4000 + (a - 0x8000))
  else if a < 0xF000 then .spine (s.bankR g 4 * 0x1000 + (a - 0xC000))
  else .priv a

/-! Cues to engines (R254 to R258) -/

/-- The 16 bytes of a queue entry. -/
def Cue.bytes (c : Cue) : List Byte :=
  bytesLE 1 (c.cls % 0x10 + 0x10 * b2n c.urgent + 0x20 * b2n c.merged) ++ bytesLE 1 c.code ++ bytesLE 1 c.index ++
  bytesLE 1 c.kind ++ bytesLE 2 c.arg ++ bytesLE 2 c.seq ++ bytesLE 4 c.data ++ bytesLE 4 c.stampLo

/-- The level at which a class is queued (R255). -/
def State.cueUrgent (s : State) (g cls : Nat) : Bool :=
  cls ≠ 0 && (cls = 1 || bitOf (s.f (ENG_CFG_URG_MASK (g / 8) (g % 8))) cls)

/-- A queued entry that a cue of a merging class merges into. -/
def Cue.mergesInto (c q : Cue) : Bool := q.cls = c.cls && q.code = c.code && q.kind = c.kind && q.index = c.index

/-- Merge into the first matching entry (R258). -/
def mergeCue (c : Cue) : List Cue → List Cue
  | [] => []
  | q :: l =>
    if c.mergesInto q then
      { q with arg := if c.cls = 3 then min (q.arg + c.arg) 0xFFFF else c.arg, data := c.data, stampLo := c.stampLo,
               seq := c.seq, merged := true } :: l
    else q :: mergeCue c l

/-- An event of the CUE unit in a crew's island. -/
def State.stampCue (s : State) (g event data : Nat) : State := s.stamp (3 + g / 8) 0x02 (0x10 + g) 0x07 event data

/-- A cue is offered to an engine's queue: it takes SEQ and is merged, dropped or queued, and opens a gated crew clock
(R257, R258, R269). -/
def State.offerCue (s : State) (g : Nat) (c : Cue) (merge : Bool) : State :=
  let e := s.eng g
  let c := { c with seq := e.seq, urgent := s.cueUrgent g c.cls }
  let s := s.setEng g { e with seq := (e.seq + 1) % 0x10000 }
  let e := s.eng g
  if e.st = .unused ∨ e.st = .faulted ∨
      (¬(merge ∧ e.queue.any c.mergesInto) ∧ (if c.urgent then 16 else 14) ≤ e.queue.length) then
    (((s.incSat (ENG_CUE_DROP_COUNT (g / 8) (g % 8))).setF (ENG_CUE_DROP_LAST_CLASS (g / 8) (g % 8)) c.cls).raise
      (ENG_FLAG_DROP (g / 8) (g % 8)) (ENG_FLAG_CNT_COUNT (g / 8) (g % 8))).stampCue g 0x02
        (0x10 + g + c.cls * 0x100 + c.seq * 0x10000)
  else if merge ∧ e.queue.any c.mergesInto then
    (s.setEng g { e with queue := mergeCue c e.queue }).incSat (ENG_CUE_MISC_MERGED (g / 8) (g % 8))
  else
    let s := s.setEng g { e with queue := e.queue ++ [c] }
    { s with gated := s.gated.filter (· ≠ g / 8) }

/-- The cue would be dropped (the C of POST, R261). -/
def State.wouldDrop (s : State) (g cls : Nat) : Bool :=
  let e := s.eng g
  e.st = .unused || e.st = .faulted || decide ((if s.cueUrgent g cls then 16 else 14) ≤ e.queue.length)

/-- A BUSERR cue to an engine (R256): code, the unit that answers, ARG and DATA. -/
def State.buserr (s : State) (g code unit arg data : Nat) : State :=
  s.postCue (0x10 + g) 9 code 0x01 unit arg data false

/-! Faults (R270) -/

/-- A fault: the engine stops, its queue is emptied, code and PC are recorded, FAULT is set, the fault is stamped and
cued to SUP. -/
def State.engFault (s : State) (g code pc : Nat) : State :=
  let e := s.eng g
  let u := e.isUrgent
  let s := s.setEng g ({ e with st := .faulted, queue := [], fault := code }.setLvl u { e.lvl u with pc := pc })
  let s := (s.raise (ENG_FLAG_FAULT (g / 8) (g % 8)) (ENG_FLAG_CNT_COUNT (g / 8) (g % 8))).stampCue g 0x01
    (0x10 + g + code * 0x100 + pc * 0x10000)
  s.postCue (s.f (CUE_CREW_CFG_SUP (g / 8))) 11 code (Config.cueOpen 11 g 3) (Config.cueOpen 11 g 4) pc
    (Config.cueOpen 11 g 2) false

/-! Timers (R240) -/

/-- Ticks of the slate in a timer tick of a UNIT. -/
def tmrTick (unit : Nat) : Nat := match unit % 4 with | 0 => 125 | 1 => 1250 | 2 => 12500 | _ => 125000

/-- A timer of an engine. -/
def Eng.timer (e : Eng) (n : Nat) : EngTmr := tget (fun _ => {}) e.tmr n

/-- Put a timer. -/
def Eng.setTimer (e : Eng) (n : Nat) (x : EngTmr) : Eng := { e with tmr := tset (fun _ => {}) e.tmr n x }

/-- COUNT at a slate: the ticks of the slate grid passed since the start are counted down. -/
def EngTmr.count (x : EngTmr) (now : Nat) : Nat :=
  if x.en then x.left - (now / tmrTick x.unit - x.start / tmrTick x.unit) else x.left

/-- The ticks that RELOAD stands for: 0 means 65,536. -/
def EngTmr.period (x : EngTmr) : Nat := if x.reload = 0 then 0x10000 else x.reload

/-- A write of TMRn_CTL: EN = 1 loads COUNT from RELOAD, EN = 0 stops the timer. -/
def State.tmrCtl (s : State) (g n b : Nat) : State :=
  let e := s.eng g
  let x := e.timer n
  let left := if bitOf b 0 then x.period else x.count (s.crewNow g)
  s.setEng g (e.setTimer n { x with en := bitOf b 0, periodic := bitOf b 1, unit := b / 4 % 4, left := left,
                                    start := s.crewNow g })

/-- Before the slate of a stopped crew clock moves, every running timer keeps its COUNT (R269, Sleep). -/
def State.holdTimers (s : State) : State :=
  (List.range 48).foldl (fun s g =>
    (List.range 4).foldl (fun s n =>
      let e := s.eng g
      let x := e.timer n
      if x.en then s.setEng g (e.setTimer n { x with left := x.count (s.crewNow g), start := s.crewNow g }) else s) s) s

/-- At the exit from Sleep every running timer goes on from the COUNT it kept. -/
def State.resumeTimers (s : State) : State :=
  (List.range 48).foldl (fun s g =>
    (List.range 4).foldl (fun s n =>
      let e := s.eng g
      let x := e.timer n
      if x.en then s.setEng g (e.setTimer n { x with start := s.crewNow g }) else s) s) s

/-! Engine-private registers (R240) -/

/-- A watch of an engine. -/
def Eng.watchOf (e : Eng) (w : Nat) : EngWatch := tget (fun _ => {}) e.watch w

/-- Put a watch. -/
def Eng.setWatch (e : Eng) (w : Nat) (x : EngWatch) : Eng := { e with watch := tset (fun _ => {}) e.watch w x }

/-- Byte `k` of a number. -/
def byteOf (x k : Nat) : Nat := x / 0x100 ^ k % 0x100

/-- A number with byte `k` replaced. -/
def putByte (x k b : Nat) : Nat := x - byteOf x k * 0x100 ^ k + b % 0x100 * 0x100 ^ k

/-- The cue vector of a class: 0xFFFF where none is set. -/
def Eng.vector (e : Eng) (k : Nat) : Nat := tget (fun _ => 0xFFFF) e.vec k

/-- A beat (R271): recorded for the engine; once every engine of HB_MASK has beaten the crew sends one beat to the
Strongroom (R472) and clears the recorded beats. -/
def State.beat (s : State) (g : Nat) : State :=
  let c := g / 8
  let m := s.f (CUE_HB_STAT_BEATEN c) ||| 2 ^ (g % 8)
  let hb := s.f (CUE_CREW_CFG_HB_MASK c)
  if hb ≠ 0 ∧ m &&& hb = hb then
    ((s.setF (CUE_HB_STAT_BEATEN c) 0).incMod (CUE_HB_STAT_BEATS c)).setF STR_HB_STAT_BEATEN
      (s.f STR_HB_STAT_BEATEN ||| 2 ^ c)
  else s.setF (CUE_HB_STAT_BEATEN c) m

/-- A read of an engine-private byte: its value, and the state after (a read of 0xF040 latches the slate). -/
def State.privRead (s : State) (g a : Nat) : Nat × State :=
  let e := s.eng g
  let l := e.cur
  if a < 0xF010 then (natLE ((l.cur.bytes.drop (a - 0xF000)).take 1), s)
  else if a = 0xF010 then (b2n e.isUrgent, s)
  else if a = 0xF011 then (e.queue.length, s)
  else if a = 0xF012 then (0x10 + g, s)
  else if a = 0xF014 then (l.bShared, s)
  else if a = 0xF015 then (l.bLarder, s)
  else if a = 0xF016 then (l.bCtx, s)
  else if a = 0xF018 then (l.gwLo, s)
  else if a = 0xF019 then (byteOf l.bGw 1, s)
  else if a = 0xF01C then (l.unitLo, s)
  else if a = 0xF01D then (l.unitMid, s)
  else if a = 0xF01E then (byteOf l.bUnit 2, s)
  else if 0xF020 ≤ a ∧ a < 0xF040 then
    let x := e.timer ((a - 0xF020) / 8)
    let k := (a - 0xF020) % 8
    (if k < 2 then byteOf x.reload k
     else if k = 2 then b2n x.en + 2 * b2n x.periodic + 4 * x.unit
     else if k = 4 ∨ k = 5 then byteOf (x.count (s.crewNow g)) (k - 4) else 0, s)
  else if a = 0xF040 then (s.crewNow g % 0x100, s.setEng g { e with slate := s.crewNow g })
  else if a < 0xF048 then (if 0xF040 < a then byteOf e.slate (a - 0xF040) else 0, s)
  else if 0xF050 ≤ a ∧ a < 0xF060 ∧ (a - 0xF050) % 8 < 4 then
    let x := e.watchOf ((a - 0xF050) / 8)
    let k := (a - 0xF050) % 8
    (if k < 3 then byteOf x.word k else b2n x.read + 2 * b2n x.write, s)
  else if 0xF080 ≤ a ∧ a < 0xF0A0 then (byteOf (e.vector ((a - 0xF080) / 2)) ((a - 0xF080) % 2), s)
  else (0, s)

/-- A write of an engine-private byte by an instruction whose last cycle is `last`. -/
def State.privWrite (s : State) (g a b last : Nat) : State :=
  let e := s.eng g
  let u := e.isUrgent
  let l := e.cur
  if a = 0xF014 then s.bankW g 0 (b % 8) last
  else if a = 0xF015 then s.bankW g 1 b last
  else if a = 0xF016 then s.bankW g 2 b last
  else if a = 0xF018 then s.setEng g (e.setLvl u { l with gwLo := b })
  else if a = 0xF019 then s.bankW g 3 (b % 2 * 0x100 + l.gwLo) last
  else if a = 0xF01C then s.setEng g (e.setLvl u { l with unitLo := b })
  else if a = 0xF01D then s.setEng g (e.setLvl u { l with unitMid := b })
  else if a = 0xF01E then s.bankW g 4 (b % 0x10 * 0x10000 + l.unitMid * 0x100 + l.unitLo) last
  else if 0xF020 ≤ a ∧ a < 0xF040 then
    let n := (a - 0xF020) / 8
    let k := (a - 0xF020) % 8
    if k < 2 then s.setEng g (e.setTimer n { e.timer n with reload := putByte (e.timer n).reload k b })
    else if k = 2 then s.tmrCtl g n b
    else s
  else if 0xF050 ≤ a ∧ a < 0xF060 ∧ (a - 0xF050) % 8 < 4 then
    let w := (a - 0xF050) / 8
    let k := (a - 0xF050) % 8
    let x := e.watchOf w
    if k < 3 then s.setEng g (e.setWatch w { x with word := putByte x.word k (if k = 2 then b % 8 else b) })
    else s.setEng g (e.setWatch w { x with read := bitOf b 0, write := bitOf b 1 })
  else if a = 0xF0A0 then (if bitOf b 0 then s.beat g else s)
  else s

/-- Read `n` engine-private bytes, ascending. -/
def State.privReadN (s : State) (g a : Nat) : Nat → List Byte × State
  | 0 => ([], s)
  | n + 1 =>
    let x := s.privRead g a
    let y := x.2.privReadN g (a + 1) n
    (BitVec.ofNat 8 x.1 :: y.1, y.2)

/-- Write engine-private bytes, ascending. -/
def State.privWriteN (s : State) (g a last : Nat) : List Byte → State
  | [] => s
  | b :: t => (s.privWrite g a b.toNat last).privWriteN g (a + 1) last t

/-! Execution of one instruction -/

/-- How the execution of an instruction ends: done, with the target of a control transfer and whether it is taken; a
fault of R270; a wait, in which nothing has changed yet; or the end of a handler. -/
inductive Exe where
  | done (s : State) (target : Option (Nat × Bool))
  | fault (code : Nat)
  | wait
  | ret (s : State)

/-- What an instruction is: its words, whether a delay slot and each repeat prefix admit it (R250, R253), and its cycles
in compact and extended mode (R243). -/
structure Ins where
  words : Nat := 1
  slot : Bool := true
  rpt : Bool := false
  rpti : Bool := false
  cycC : Nat := 1
  cycE : Nat := 1

/-- The stores of an initiator that have not completed to it (R265, R400, R404): waiting for their grant, for the far side of the
Trunk, or for a free entry of the posted buffer. -/
def State.storesPending (s : State) (init : Nat) : Nat :=
  (s.waiting.filter (fun t => t.init = init && t.op = 1)).length +
  (s.trk.outs.filter (fun o => o.2.orig = init && o.2.what = 0 && o.2.op = 1)).length +
  (s.brg.wait.filter (fun t => t.orig = init)).length

/-- The stores of an initiator that SYNC waits for (R267): those in the posted buffer too. -/
def State.storesLeft (s : State) (init : Nat) : Nat :=
  s.storesPending init + (s.brg.posted.filter (fun t => t.orig = init)).length

/-- The level in force waits: for a load it issued or for a SYNC. -/
def Eng.stalled (e : Eng) : Bool :=
  e.cur.sync || (match e.load with | some l => l.urgent == e.isUrgent | none => false)

/-- The PC after an instruction: the address after a delay slot, the next iteration of a group, the target of a control
transfer (in extended mode behind its delay slot), else the next word. -/
def nextPc (ext : Bool) (l : EngLvl) (words : Nat) (target : Option (Nat × Bool)) : EngLvl :=
  let next := (l.pc + words) % 0x10000
  match l.slot with
  | some t => { l with pc := t, slot := none }
  | none =>
    if 1 < l.rep.left then { l with rep := { l.rep with left := l.rep.left - 1, started := true } }
    else
      let l := { l with rep := {} }
      match target with
      | none => { l with pc := next }
      | some (t, taken) =>
        let after := if ext then (next + 1) % 0x10000 else next
        let goal := if taken then t % 0x10000 else after
        if ext then { l with pc := next, slot := some goal } else { l with pc := goal }

/-- The last cycle of the instruction in execution. -/
def State.lastCycle (s : State) (g : Nat) (i : Ins) (w : Nat) : Nat :=
  (s.eng g).cyc + (if s.ext g then i.cycE else i.cycC) + w - 1

/-- Copy a dispatched cue into its level (R259): ENG_CUR, flags cleared, PC from the vector, every earlier result seen
(R249). -/
def Eng.enter (e : Eng) (u : Bool) (c : Cue) (st : EngState) : Eng :=
  { e with st := st, hist := [] }.setLvl u
    { e.lvl u with cur := c, z := false, c := false, n := false, v := false, pc := e.vector c.cls, slot := none,
                   rep := {}, sync := false }

/-- Remove the first entry of a level from the queue. -/
def takeCue (u : Bool) : List Cue → Option (Cue × List Cue)
  | [] => none
  | q :: l =>
    if q.urgent = u then some (q, l)
    else match takeCue u l with
      | none => none
      | some (x, r) => some (x, q :: r)

/-- After a RETC over a preempted NORMAL handler: the next URGENT cue with a handler is dispatched, else NORMAL resumes.
The fuel is the queue's length. -/
def State.urgentNext (s : State) (g : Nat) : Nat → State
  | 0 => s.setEng g { s.eng g with st := .normal }
  | k + 1 =>
    let e := s.eng g
    match takeCue true e.queue with
    | none => s.setEng g { e with st := .normal }
    | some (c, q) =>
      let e := { e with queue := q }
      if e.vector c.cls = 0xFFFF then
        ((s.setEng g e).incSat (ENG_CUE_MISC_UNHANDLED (g / 8) (g % 8))).urgentNext g k
      else s.setEng g (e.enter true c .urgentOverNormal)

/-- The end of a handler (R259). -/
def State.endHandler (s : State) (g : Nat) : State :=
  let e := s.eng g
  if e.st = .urgentOverNormal then s.urgentNext g e.queue.length
  else s.setEng g { e with st := .waiting }

/-- Run one instruction of an engine. Nothing happens while the crew's clock is stopped (R75, R106), no handler runs or the level waits. Fetch, delay slot and
repeat prefix are checked first; the body has the last cycle; then cycles and PC advance. -/
def State.ins (s : State) (g : Nat) (i : Ins) (w : Nat) (body : Nat → Exe) : State :=
  let e := s.eng g
  let l := e.cur
  if !s.clocked (3 + g / 8) || !e.running || e.stalled then s
  else if 0x1000 < l.pc + i.words then s.engFault g 2 l.pc
  else if l.slot.isSome && !i.slot then s.engFault g 7 l.pc
  else if 0 < l.rep.left && !(if l.rep.rpti then i.rpti else i.rpt) then s.engFault g 4 l.rep.pc
  else
    let fin := fun (t : State) (target : Option (Nat × Bool)) =>
      let x := t.eng g
      t.setEng g ({ x with cyc := s.lastCycle g i w + 1 }.setLvl e.isUrgent
        (nextPc (s.ext g) (x.lvl e.isUrgent) i.words target))
    match body (s.lastCycle g i w) with
    | .done t target => fin t target
    | .fault code => s.engFault g code l.pc
    | .wait => s
    | .ret t => (fin t none).endHandler g

/-- A repeat prefix (R251 to R253): it takes no cycle and stands before the group. -/
def State.prefixIns (s : State) (g : Nat) (rpti : Bool) (n : Nat) : State :=
  let e := s.eng g
  let l := e.cur
  if !s.clocked (3 + g / 8) || !e.running || e.stalled then s
  else if 0x1000 < l.pc + 1 then s.engFault g 2 l.pc
  else if l.slot.isSome then s.engFault g 7 l.pc
  else if 0 < l.rep.left then s.engFault g 4 l.rep.pc
  else s.setEng g (e.setLvl e.isUrgent
    { l with pc := l.pc + 1, rep := { rpti := rpti, left := n, pc := l.pc, started := false } })

/-! Memory operands (R240, R244, R251) -/

/-- The fault an access meets before it is made: STACK_RANGE for a stack instruction outside local data, RPT_ADDR for
another one under RPT. -/
def State.memFault (s : State) (g a n : Nat) (stack : Bool) : Option Nat :=
  let r := (s.eng g).cur.rep
  if a + n ≤ 0x1000 then none
  else if stack then some 3
  else if 0 < r.left ∧ ¬r.rpti then some 5
  else none

/-- Queue a Spine transaction of an engine. -/
def State.engTx (s : State) (g op a : Nat) (data : List Byte) (len : Nat) : State :=
  { s with waiting := s.waiting ++ [{ init := 0x10 + g, lvl := (s.eng g).isUrgent, op := op, addr := a % 2 ^ 32,
                                      len := len, data := data }] }

/-- Write loaded bytes to the byte registers of the codes. -/
def State.loadRegs (s : State) (g last : Nat) : List Nat → List Byte → State
  | c :: cs, b :: bs => (s.codeW g c b.toNat kLoad last).loadRegs g last cs bs
  | _, _ => s

/-- Load `n` bytes into byte registers (given by number at the level in force). A Spine load is issued and parks the level
until its data arrives; it waits while another load of the engine is in flight. -/
def State.loadTo (s : State) (g a n : Nat) (dst : List Nat) (stack : Bool) (last : Nat) : Exe :=
  let u := (s.eng g).isUrgent
  let codes := dst.map (regCode u)
  match s.memFault g a n stack with
  | some c => .fault c
  | none =>
    match s.place g a with
    | .loc m => .done (s.loadRegs g last codes (s.rdBytes m n)) none
    | .crew m => .done (s.loadRegs g last codes (s.rdBytes m n)) none
    | .priv m => let r := s.privReadN g m n; .done (r.2.loadRegs g last codes r.1) none
    | .spine m =>
      if (s.eng g).load.isSome then .wait
      else .done ((s.engTx g 0 m [] n).setEng g { s.eng g with load := some { urgent := u, dst := codes } }) none

/-- Store bytes. A Spine store enters the store buffer of four entries; it waits while the buffer is full. -/
def State.storeAt (s : State) (g a : Nat) (bytes : List Byte) (stack : Bool) (last : Nat) : Exe :=
  match s.memFault g a bytes.length stack with
  | some c => .fault c
  | none =>
    match s.place g a with
    | .loc m => .done (s.wrBytes m bytes) none
    | .crew m => .done (s.wrBytes m bytes) none
    | .priv m => .done (s.privWriteN g m last bytes) none
    | .spine m =>
      if 4 ≤ s.storesPending (0x10 + g) then .wait else .done (s.engTx g 1 m bytes bytes.length) none

/-- Go on after a step of execution that ended normally. -/
def Exe.andThen (x : Exe) (k : State → Exe) : Exe :=
  match x with
  | .done s _ => k s
  | .fault c => .fault c
  | .wait => .wait
  | .ret s => .ret s

/-- Push a 16-bit value (R244): P7 is decremented by 2, address bit 0 is ignored. -/
def State.push16 (s : State) (g v last : Nat) : Exe :=
  let p := (s.pR g 7 roAddr + 0xFFFE) % 0x10000
  (s.storeAt g (p - p % 2) (bytesLE 2 v) true last).andThen (fun t => .done (t.pW g 7 p kInc last) none)

end Sys2Proof.Machine
end

