-- ==== Sys2Proof/Machine/Channels.lean ====
section
/-! DEFINITION. Output channels (05_output_channels.md): the context write rules, the phases of R134, profiles, PWM
edges, signatures, result slots and verdicts, with the operations that trips, the ledger and the dies share. -/

namespace Sys2Proof.Machine

/-! Indexed state -/

/-- The logic die's state of a channel. -/
def State.chan (s : State) (c : Nat) : Chan := tget (fun _ => {}) s.chans c

/-- Put the logic die's state of a channel. -/
def State.setChan (s : State) (c : Nat) (x : Chan) : State := { s with chans := tset (fun _ => {}) s.chans c x }

/-- The state of the die on a stage link. -/
def State.die (s : State) (n : Nat) : Die := tget (fun _ => {}) s.dies n

/-- Put the state of the die on a stage link. -/
def State.setDie (s : State) (n : Nat) (x : Die) : State := { s with dies := tset (fun _ => {}) s.dies n x }

/-- What the die holds for a channel. -/
def State.dieCh (s : State) (c : Nat) : DieCh := tget (fun _ => {}) s.dieChs c

/-- Put what the die holds for a channel. -/
def State.setDieCh (s : State) (c : Nat) (x : DieCh) : State := { s with dieChs := tset (fun _ => {}) s.dieChs c x }

/-- The logic die's view of a stage link. -/
def State.lnk (s : State) (n : Nat) : LinkLg := tget (fun _ => {}) s.links n

/-- Put the logic die's view of a stage link. -/
def State.setLnk (s : State) (n : Nat) (x : LinkLg) : State := { s with links := tset (fun _ => {}) s.links n x }

/-- Send a frame to a die: it stands behind the frames already sent (R39). An absent die's link is never started
(R23). -/
def State.send (s : State) (n : Nat) (f : LinkFrame) : State :=
  if s.diePresent n then s.setLnk n { s.lnk n with tx := (s.lnk n).tx ++ [f] } else s

/-- Send a frame for a channel to its die, the channel numbered in die order (R211). -/
def State.sendCh (s : State) (c : Nat) (f : Nat → LinkFrame) : State := s.send (chLink c) (f (c - linkFirst (chLink c)))

/-- STR_DIE_STATE.DIEn (R216). -/
def dieStateRF (n : Nat) : RF := ⟨STR_DIE_STATE, 2 * n, 2⟩

/-! Refusals (R38, R125, R185, R221, R225) -/

/-- A write transaction to an absent block is ignored, completes normally and is counted with the unit's code and
instance (R6). -/
def State.absentWrite (s : State) (unit inst : Nat) : State :=
  ((s.incSat SYS_ABSENT_WR_CNT_COUNT).setF SYS_ABSENT_WR_CNT_LAST_UNIT unit).setF SYS_ABSENT_WR_CNT_LAST_INSTANCE inst

/-- The initiator may write the command fields of a context (R38); the gateway executor may write CH_CMD and CH_PWM
of reflex targets only (R125). -/
def State.chAuthorised (s : State) (init c : Nat) (cmdOrPwm : Bool) : Bool :=
  isStr init || (isEngine init && s.f (CH_CFG_OWNER c) = init) ||
  (isSession init && bitOf (s.f (CH_CFG_ZRT_GRANT c)) (init - 0x40)) ||
  (init = 0x60 && cmdOrPwm && s.on (CH_CFG_REFLEX c))

/-- The reason for which a context refuses a write, 0 for none: the first that applies in the order of R125. -/
def State.chReason (s : State) (init c : Nat) (cmdOrPwm held bad busy : Bool) : Nat :=
  if s.on (CH_CFG_ODD c) then 2
  else if chClass c = 3 && s.f (CH_B_CFG_ROLE c) = 2 then 5
  else if !s.chAuthorised init c cmdOrPwm then 1
  else if !isStr init && (s.f (dieStateRF (chLink c)) = 0 || !(s.lnk (chLink c)).adopted ||
      !bitOf (s.f STR_KA_CTL_KA_EN) (chLink c - 1)) then 6
  else if !isStr init && held && s.f (dieStateRF (chLink c)) = 3 then 7
  else if bad then 3
  else if busy then 4
  else 0

/-- A refused context write: counted with its initiator and reason, REFUSED set, stamped (R125). -/
def State.chRefuse (s : State) (init c reason : Nat) : State :=
  ((((s.incSat (CH_REFUSE_COUNT c)).setF (CH_REFUSE_LAST_INIT c) init).setF (CH_REFUSE_LAST_REASON c) reason).raise
    (CH_FLAG_REFUSED c) (CH_FLAG_CNT_COUNT c)).stamp 2 0x07 c 0x03 0x11 (init + reason * 0x100)

/-- Run an accepted context write, or refuse it (R125); a write to an absent context is counted under R6. -/
def State.chWrite (s : State) (init c : Nat) (cmdOrPwm held bad busy : Bool) (k : State → State) : State :=
  if !s.chPresent c then s.absentWrite 0x03 c
  else if s.chReason init c cmdOrPwm held bad busy ≠ 0 then
    s.chRefuse init c (s.chReason init c cmdOrPwm held bad busy)
  else k s

/-! Stamps, cues and verdicts -/

/-- What the record of a command holds (CH event 0x10, R283): the command, PWM and drive words, the initiator and the stage. -/
def State.cmdData (s : State) (c stage : Nat) : Nat :=
  (s.reg (CH_CMD c)).toNat +
  (if chClass c = 3 then s.f (CH_PWM_DUTY c) else (s.reg (CH_PWM c)).toNat) * 2 ^ 32 +
  (if chClass c = 3 then (s.reg (CH_B_DRV c)).toNat % 2 ^ 24 else 0) * 2 ^ 64 +
  (s.chan c).init * 2 ^ 88 + stage * 2 ^ 96

/-- The record of a command, stamped in an island. -/
def State.stampCmd (s : State) (c stage isl : Nat) : State := s.stamp isl 0x07 c 0x03 0x10 (s.cmdData c stage)

/-- The stamp island of a channel's die (R93). -/
def chIsland (c : Nat) : Nat := 15 + chLink c

/-- A channel event of R256 as stamped in an island at a slate: its record (R283) and its cue to the owner engine. -/
def State.chEventAt (s : State) (cor : Bool) (isl : Nat) (t : Slate) (c code arg : Nat) : State :=
  let data := s.f (CH_VERDICT_VERDICT c) + s.f (CH_VERDICT_PREV c) * 0x10 + s.f (CH_STATUS_PHASE c) * 0x100
  (s.offerRec { slate := t, kind := 0x07, index := c, unit := 0x03, event := code, island := isl, corrected := cor,
                data := BitVec.ofNat 128 (arg % 0x10000 + data * 2 ^ 32) }).postCue (s.f (CH_CFG_OWNER c)) 6 code 0x07 c arg data
    (code = 5)

/-- A cue of R256 to the owner engine alone. -/
def State.chCue (s : State) (c code arg : Nat) : State :=
  s.postCue (s.f (CH_CFG_OWNER c)) 6 code 0x07 c arg
    (s.f (CH_VERDICT_VERDICT c) + s.f (CH_VERDICT_PREV c) * 0x10 + s.f (CH_STATUS_PHASE c) * 0x100) (code = 5)

/-- A channel event stamped in the Spine island now. -/
def State.chEvent (s : State) (c code arg : Nat) : State := s.chEventAt false 2 (s.islandSlate 2) c code arg

/-- A change of verdict: SEQ counts, the change is stamped and cued (R163). -/
def State.setVerdict (s : State) (c v : Nat) : State :=
  if s.f (CH_VERDICT_VERDICT c) = v then s
  else ((((s.setF (CH_VERDICT_PREV c) (s.f (CH_VERDICT_VERDICT c))).setF (CH_VERDICT_VERDICT c) v).incMod
    (CH_VERDICT_SEQ c)).chEvent c 0x01 0)

/-- New evidence replaces a verdict of equal or lower severity (R163). -/
def State.evidence (s : State) (c v : Nat) : State := if s.f (CH_VERDICT_VERDICT c) ≤ v then s.setVerdict c v else s

/-- Evidence of a capture of class OK, AGEING, LOW or HIGH: it also replaces any verdict of code 1 to 4 (R163). -/
def State.captureEvidence (s : State) (c v : Nat) : State :=
  if s.f (CH_VERDICT_VERDICT c) ≤ 4 then s.setVerdict c v else s.evidence c v

/-! Phases (R134) -/

/-- Phase codes of CH_STATUS.PHASE. -/
def phOFF : Nat := 0
def phDEFERRED : Nat := 1
def phPROFILE : Nat := 2
def phPAUSED : Nat := 3
def phON : Nat := 4
def phPWM : Nat := 5
def phTRIPPED : Nat := 6
def phRETRY : Nat := 7
def phFUSED : Nat := 8
def phGATED : Nat := 9
def phGANGED : Nat := 10

/-- The die obeys frames other than KEEPALIVE, ADOPT and the read-back: it is adopted, not in HOLD and not parked (R79, R217). -/
def State.dieObeys (s : State) (n : Nat) : Bool :=
  let d := s.die n
  !d.parked && (match d.st with
    | .adopted => true
    | .failsafe => d.adopted
    | _ => false)

/-- The module and the die on a link agree that it is adopted: its reports reach the registers and it obeys what they say
(R217, R218, R221). -/
def State.live (s : State) (n : Nat) : Bool := (s.lnk n).adopted && s.dieObeys n

/-- What happens in the channel's die reaches the context, and what is written there reaches the die. -/
def State.vis (s : State) (c : Nat) : Bool := s.live (chLink c)

/-- A word that the die on a link keeps its own copy of, to work with while it is not live (R37, R210, R218; log entry 54): the
contexts and the ledger words of its channels, the frame period, the band, and the words of MOT and SOL. -/
def dieWord (n a : Nat) : Bool :=
  (0x03000000 + linkFirst n * 0x400 ≤ a && a < 0x03000000 + (linkFirst n + linkCount n) * 0x400) ||
  (0x05046000 + linkFirst n * 0x10 ≤ a && a < 0x05046000 + (linkFirst n + linkCount n) * 0x10) ||
  a = FRM_CFG || a = PWR_FEED_STAT || a = MOT_ACTIVE || (n = 13 && 0x05060000 ≤ a && a < 0x05070000)

/-- A live die that is about to be so no longer keeps its words (R37). -/
def State.keepCopy (s : State) (n : Nat) : State :=
  if s.live n then s.setDie n { s.die n with regs := s.regs.filter (fun e => dieWord n e.1) } else s

/-- The registers as the die on a link works with them: the module's own while it is live, else its copies over the reset values. -/
def State.asDie (s : State) (n : Nat) : State :=
  if s.live n then s else { s with regs := (s.die n).regs.foldl (fun t e => tset resetWord t e.1 e.2) [] }

/-- An event store that is open keeps one more event, the oldest 64; the rest are counted (R218). -/
def State.storeEvent (s : State) (c code value : Nat) : State :=
  let n := chLink c
  let d := s.die n
  if d.events.length < 64 then
    s.setDie n { d with events := d.events ++ [{ ch := c, code := code, value := value, slate := s.islandSlate (15 + n) }] }
  else s.setDie n { d with evLost := d.evLost + 1 }

/-- What happens in the die on a link while it is not live changes the die's copies of its words and nothing of the module's own
registers, cues, records, frames and models (R37, R218). -/
def State.inDieQ (s : State) (n : Nat) (k : State → State) : State :=
  if s.live n then k s
  else
    let t := k (s.asDie n)
    { t.setDie n { t.die n with regs := t.regs.filter (fun e => dieWord n e.1) } with
      regs := s.regs, offers := s.offers, islands := s.islands, links := s.links, ldg := s.ldg, free := t.free }

/-- The same, and a die that is not live keeps each change of phase as an event (R218). -/
def State.inDie (s : State) (c : Nat) (k : State → State) : State :=
  let t := s.inDieQ (chLink c) k
  if s.vis c then t
  else (linkChans (chLink c)).foldl (fun u j =>
    if (u.dieCh j).ph = (s.dieCh j).ph then u else u.storeEvent j 9 (u.dieCh j).ph) t

/-- The phase of a channel as its die runs it (R134); CH_STATUS.PHASE shows it while the die is adopted. -/
def State.ph (s : State) (c : Nat) : Nat := (s.dieCh c).ph

/-- Put the phase, in the die and in CH_STATUS.PHASE; a BRIDGE_B context shows that of its BRIDGE_A context (R185). -/
def State.setPh (s : State) (c v : Nat) : State :=
  (s.setDieCh c { s.dieCh c with ph := v }).setF (CH_STATUS_PHASE c) v

/-- The context that controls a channel and keeps its trips: the even context of an odd member of a ganged pair (R122), and of
that the BRIDGE_A context for a BRIDGE_B leg (R185, R192), by the words that its die works with. -/
def State.ctx (s : State) (c : Nat) : Nat :=
  let t := s.asDie (chLink c)
  let e := if t.on (CH_CFG_ODD c) then c - 1 else c
  if chClass e = 3 ∧ t.f (CH_B_CFG_ROLE e) = 2 then t.f (CH_B_CFG_PARTNER e) else e

/-- Put the output of a channel on or off; the time at which it goes off is kept (R136). -/
def State.setOut (s : State) (c : Nat) (v : Bool) : State :=
  let t := if (s.dieCh c).out && !v then s.setChan c { s.chan c with offAt := s.now } else s
  t.setDieCh c { t.dieCh c with out := v }

/-- The phases in which the output is driven: PROFILE, PAUSED, ON and PWM. -/
def State.driven (s : State) (c : Nat) : Bool := 2 ≤ s.ph c && s.ph c ≤ 5

/-- The MODE in force for a channel: in a die that is not adopted the one it holds (R37). -/
def State.modeOf (s : State) (c : Nat) : Nat := if s.vis c then s.f (CH_CMD_MODE c) else (s.dieCh c).mode

/-- MODE reads OFF, in the context and in the die. -/
def State.setModeOff (s : State) (c : Nat) : State :=
  (s.setF (CH_CMD_MODE c) 0).setDieCh c { s.dieCh c with mode := 0 }

/-- The standing permit of a channel: in a die that is not adopted the last one received (R37, R176). -/
def State.permit (s : State) (c : Nat) : Bool := if s.vis c then s.on (LDG_CHSTAT_PERMIT c) else (s.dieCh c).permit

/-- The band lets a turn-on proceed (R71): Normal, or Low on a CRANK_RUN channel. -/
def State.bandPermits (s : State) (c : Nat) : Bool :=
  s.f PWR_FEED_STAT_BAND = 0 || (s.f PWR_FEED_STAT_BAND = 1 && s.on (CH_CFG_CRANK_RUN c))

/-- The next place in the order of deferrals (R177). -/
def State.nextDefer (s : State) : Nat := s.chans.foldl (fun m e => max m e.2.deferNo) 0 + 1

/-- The next place in the order of gate onsets (R178). -/
def State.nextOnset (s : State) : Nat := s.chans.foldl (fun m e => max m e.2.onsetNo) 0 + 1

/-- A turn-on is deferred: DEFERRED with its flag and count, stamped (R134) as the record of the command it waits with. -/
def State.defer (s : State) (c : Nat) : State :=
  ((((s.setPh c phDEFERRED).raise (CH_FLAG_DEFERRED c) (CH_FLAG_CNT_COUNT c)).incSat (CH_DEFERCNT_DEFER c)).setChan c
    { s.chan c with deferNo := if (s.chan c).deferNo = 0 then s.nextDefer else (s.chan c).deferNo }).stampCmd c 1 (chIsland c)

/-! The profile that a die runs -/

/-- T, ICEIL, SHAPE and END of a profile word. -/
def profT (w : Nat) : Nat := w % 0x1000
def profI (w : Nat) : Nat := w / 0x1000 % 0x1000
def profShape (w : Nat) : Nat := w / 0x1000000 % 4
def profEnd (w : Nat) : Bool := 0x80000000 ≤ w

/-- MODE, EDGE_START and REHEAT_T of a profile's control word. -/
def ctlMode (w : Nat) : Bool := w % 2 = 1
def ctlEdge (w : Nat) : Nat := w / 0x10 % 0x10
def ctlReheat (w : Nat) : Nat := w / 0x100 % 0x400

/-- The control word of the table active in the die; a die that has received no table runs slope only. -/
def State.profCtl (s : State) (c : Nat) : Nat := (s.dieCh c).profAct.headD 0

/-- The control word in force for the next on-edge, which makes a pending table active (R132). -/
def State.edgeCtl (s : State) (c : Nat) : Nat := (s.dieCh c).profPend.headD (s.profCtl c)

/-- The word of a point of the table active in the die. -/
def State.activePoint (s : State) (c n : Nat) : Nat := (s.dieCh c).profAct.getD (n + 1) 0

/-- The ceiling from a point of the active table on is 0 and does not rise: the channel is held off (R120). The ICEIL of the END
point is not used, so that no ramp toward it raises the ceiling. -/
def State.ceilZero (s : State) (c n : Nat) : Bool :=
  let w := s.activePoint c n
  let next := s.activePoint c (n + 1)
  ctlMode (s.profCtl c) && profI w = 0 && (profShape w ≠ 1 || profEnd next || profI next = 0)

/-- The pending profile table becomes active at an on-edge (R132). -/
def State.activate (s : State) (c : Nat) : State :=
  let d := s.dieCh c
  let t := if d.profPend = [] then s else s.setDieCh c { d with profAct := d.profPend, profPend := [] }
  if s.f (CH_PROF_STAT_PENDING_GEN c) = s.f (CH_PROF_STAT_ACTIVE_GEN c) then t
  else t.setF (CH_PROF_STAT_ACTIVE_GEN c) (s.f (CH_PROF_STAT_PENDING_GEN c))

/-- Captures are taken and result slots updated: for a sleep-kept channel not until Run (R148). -/
def State.slotsLive (s : State) (c : Nat) : Bool :=
  !s.on (CH_CFG_KEPT c) || (s.boot.phase = .run && s.f PWR_STATE_STATE < 2)

/-- The open-load window that begins now begins under the feed-disturbance mark or outside the Normal band (R161). -/
def State.winStart (s : State) (c : Nat) : State :=
  s.setChan c { s.chan c with winDirty := s.on (CH_STATUS_FDM c) || s.f PWR_FEED_STAT_BAND ≠ 0 }

/-- A capture begins: SUPPRESSED from the start under a feed-disturbance mark or outside the Normal band (R140). One that runs
is given up for it; what the slot showed before stays known. -/
def State.captureStart (s : State) (c : Nat) : State :=
  if !s.slotsLive c then s
  else (s.setChan c { s.chan c with
      capRun := true, sigPrev := if (s.chan c).capRun then (s.chan c).sigPrev else s.f (CH_SLOT_ST_STATE c 2),
      capSup := s.on (CH_STATUS_FDM c) || s.f PWR_FEED_STAT_BAND ≠ 0 }).slotFilling (CH_SLOT_ST c 2)

/-- What every command turn-on that is not a retry does, whether it starts or is deferred: the verdict is NONE and USED 0 (R163,
R165). -/
def State.turnOnMark (s : State) (c : Nat) : State := (s.setVerdict c 0).setF (CH_RETRY_USED c) 0

/-- A profile run from point 0 (R128, R134): the permit is consumed and with it the release condition of a fuse (R167), the inrush
reserved, the counters, slots and the capture started. The output is on unless the first ceiling holds it off. -/
def State.startRun (s : State) (c : Nat) (retry : Bool) : State :=
  let s := s.activate c
  let s := ((((s.setPh c phPROFILE).setF (CH_STATUS_POINT c) 0).setF (LDG_CHSTAT_PERMIT c) 0).setF
    (LDG_CHSTAT_INRUSH c) 1).setReg (LDG_CHE c) 0
  let s := ((s.incSat (CH_ONCNT_COUNT c)).captureStart c).winStart c
  let s := s.setChan c { s.chan c with
    restart := false, first := false, deferNo := 0, onsetNo := s.nextOnset, runZero := true, retryRun := retry, runT := 0,
    retryPend := false, peakI := 0, peakT := 0, dirNew := false, frames := 0, needRelease := false, latch := false }
  let s := if s.slotsLive c then (s.slotFilling (CH_SLOT_ST c 0)).slotFilling (CH_SLOT_ST c 1) else s
  let d := s.dieCh c
  let s := s.setDieCh c { d with e := 0, hiRun := d.hi, budgetRun := d.budget, latch := false, fuse := false, permit := false,
                                 point := 0, chopAt := none }
  (s.setOut c (!s.ceilZero c 0)).stampCmd c 1 (chIsland c)

/-- The gate of the channel's die is open (R129). -/
def State.gateOpen (s : State) (c : Nat) : Bool := (s.die (chLink c)).gate

/-- A die in FAILSAFE that is not adopted needs no permit, and starts at most one inrush at a time (R223). -/
def State.fsFree (s : State) (n : Nat) : Bool :=
  (s.die n).st = .failsafe && !(s.die n).adopted && (linkChans n).all (fun k => s.ph k ≠ phPROFILE && s.ph k ≠ phPAUSED)

/-- A turn-on may start at once: standing permit, band, no running delay of an earlier trip, no overtemperature latch,
and the release condition of a fuse met (R71, R154, R164, R167, R176, R223). -/
def State.mayStart (s : State) (c : Nat) : Bool :=
  (s.permit c || s.fsFree (chLink c)) && s.bandPermits c && !(s.chan c).delayRun && !(s.die (chLink c)).ot

/-- Put REV_WAIT, in the die and in CH_B_STAT (R189). -/
def State.setRev (s : State) (c : Nat) (v : Bool) : State :=
  (s.setDieCh c { s.dieCh c with revWait := v }).setF (CH_B_STAT_REV_WAIT c) (b2n v)

/-- Put BRAKING, in the die and in CH_B_STAT (R187). -/
def State.setBraking (s : State) (c : Nat) (v : Bool) : State :=
  (s.setDieCh c { s.dieCh c with braking := v }).setF (CH_B_STAT_BRAKING c) (b2n v)

/-- The rest of REV_T has still to pass before the leg turns on in a new direction (R189). -/
def State.revPending (s : State) (c : Nat) : Bool :=
  chClass c = 3 && (s.chan c).dirNew && s.now < (s.chan c).offAt + s.f (CH_B_DRV_REV_T c) * 125000

/-- A command turn-on of a channel of class H, M, L or B: PROFILE, DEFERRED, or for a leg first the wait of R189. With the gate
closed it waits in GATED, without the flag of a gate that closes (log entry 57). -/
def State.turnOn (s : State) (c : Nat) : State :=
  if !s.gateOpen c then s.setPh c phGATED
  else
    let s := s.turnOnMark c
    if s.revPending c then s.setRev c true
    else if s.mayStart c then s.startRun c false
    else s.defer c

/-- The run from point 0 ends: its inrush is released and the PEAK slot takes the highest sample (R145). -/
def State.runEnd (s : State) (c : Nat) : State :=
  let x := s.chan c
  let s := s.setF (LDG_CHSTAT_INRUSH c) 0
  let s := s.setChan c { x with runZero := false, onsetNo := 0, retryRun := false }
  if x.runZero ∧ s.slotsLive c then
    s.slotUpdate (CH_SLOT_ST c 1) (CH_SLOT_VAL c 1) (x.peakI % 0x10000 + min x.peakT 0xFFFF * 0x10000)
  else s

/-- A running capture is discarded: its slot shows again what it showed before (R134). -/
def State.captureDiscard (s : State) (c : Nat) : State :=
  if (s.chan c).capRun then
    (s.setF (CH_SLOT_ST_STATE c 2) (s.chan c).sigPrev).setChan c { s.chan c with capRun := false } else s

/-- The legs that MOT_ACTIVE shows with a leg: the other leg of its bridge, and the odd halves where they are ganged. -/
def State.motLegs (s : State) (c : Nat) : List Nat :=
  let l := if s.f (CH_B_CFG_ROLE c) = 1 then [c, s.f (CH_B_CFG_PARTNER c)] else [c]
  if s.on (CH_CFG_GANG c) then l ++ l.map (· + 1) else l

/-- Put the MOT_ACTIVE bit of a leg, of the other leg of its bridge and of their odd halves. -/
def State.setMot (s : State) (c : Nat) (v : Bool) : State :=
  (s.motLegs c).foldl (fun s k => s.setF ⟨MOT_ACTIVE, k - 104, 1⟩ (b2n v)) s

/-- MOT_ACTIVE follows a leg: a FET on, braking, or in REV_WAIT (R194's chapter, MOT_ACTIVE). -/
def State.motUpdate (s : State) (c : Nat) : State :=
  if chClass c = 3 then
    s.setMot c (s.driven c || (s.dieCh c).braking || (s.dieCh c).revWait)
  else s

/-- What MODE OFF does to a leg: the STOP state applies and a reversal wait ends (R187, R189). No FET turns on behind a closed
gate, a trip latch or the overtemperature latch (R35). -/
def State.legStop (s : State) (c : Nat) : State :=
  if chClass c = 3 then
    ((s.setRev c false).setBraking c (s.f (CH_B_DRV_STOP c) ≠ 0 && s.gateOpen c && !(s.dieCh c).latch &&
      !(s.die (chLink c)).ot)).motUpdate c
  else s

/-- The output opens: the run and its capture end and the time of opening is kept (R134, R136). -/
def State.openOut (s : State) (c : Nat) : State :=
  let s := (s.runEnd c).captureDiscard c
  (s.setChan c { s.chan c with offAt := s.now, deferNo := 0 }).setDieCh c { s.dieCh c with out := false, budgetRun := 0 }

/-- MODE OFF on a channel of class H, M, L or B (R134, R135, R164): every phase but GATED and GANGED ends in OFF; a trip latch
stays while its delay runs, and a fused channel keeps the release condition of R167. -/
def State.turnOff (s : State) (c : Nat) : State :=
  let p := s.ph c
  if p = phGATED ∨ p = phGANGED then s
  else
    let s := if s.driven c then s.openOut c else s
    let wait := (s.dieCh c).latch && (s.chan c).delayRun
    let s := s.setChan c { s.chan c with deferNo := 0, retryPend := false, latch := wait,
                                         needRelease := (s.chan c).needRelease || p == phFUSED }
    ((s.setDieCh c { s.dieCh c with fuse := false, latch := wait }).setPh c phOFF).legStop c

/-- Put the profile point, in the die and in CH_STATUS.POINT. -/
def State.setPoint (s : State) (c n : Nat) : State :=
  (s.setDieCh c { s.dieCh c with point := n }).setF (CH_STATUS_POINT c) n

/-! PWM timing (R127, R136 to R138) -/

/-- The duty in effect: the lower of DUTY and the ledger's cap, and in MODE ON the cap alone (R138, R179). -/
def State.effDuty (s : State) (c : Nat) : Nat :=
  if s.modeOf c = 1 then (s.dieCh c).cap else min (s.dieCh c).duty (s.dieCh c).cap

/-- A PWM period of the channel has started since a slate (R136): periods count from the die's frame boundary. -/
def State.periodSince (s : State) (c t : Nat) : Bool :=
  let p : Int := s.f FRM_CFG_PERIOD_US * 125 / 2 ^ (s.dieCh c).pdiv
  let b : Int := (s.die (chLink c)).boundary
  ((s.now : Int) - b) / p ≠ ((t : Int) - b) / p

/-- The run a PWM on-edge makes (R136): from point 0 as a command turn-on, or from EDGE_START; in MODE 0 a plain edge (R130). An
on-edge that is deferred is not made and not counted. -/
def State.pwmEdgeRun (s : State) (c : Nat) : State :=
  let x := s.chan c
  let zero := x.first || x.restart || (!(s.dieCh c).out && ctlReheat (s.edgeCtl c) * 125000 ≤ s.now - x.offAt)
  if zero then
    let s := s.turnOnMark c
    if s.mayStart c then (s.incSat (CH_EDGECNT_COUNT c)).startRun c false else s.defer c
  else
    let s := (s.incSat (CH_EDGECNT_COUNT c)).activate c
    let k := ctlEdge (s.profCtl c)
    let s := if ctlMode (s.profCtl c) then ((s.setPh c phPROFILE).setPoint c k).setOut c (!s.ceilZero c k) else s.setOut c true
    if s.f (CH_SIG_CFG2_PWM_EVERY c) ≤ (s.chan c).frames then
      (s.setChan c { s.chan c with frames := 0 }).captureStart c
    else s

/-- What waits for the start of a PWM period (R127, R134): a staged DUTY, the change from PWM to ON, and an ON output whose cap has
ended in its off-part. It takes effect where a period starts now, or has started since it was staged. -/
def State.periodStart (s : State) (c : Nat) (now : Bool) : State :=
  let d := s.dieCh c
  let s := match d.nextDuty with
    | some v => if now || s.periodSince c d.dutyAt then s.setDieCh c { d with duty := v, nextDuty := none } else s
    | none => s
  if s.ph c = phPWM ∧ s.modeOf c = 1 ∧ (now ∨ s.periodSince c d.modeAt) then
    if (s.dieCh c).out then s.setPh c phON else (s.setPh c phON).pwmEdgeRun c
  else if s.ph c = phON ∧ !(s.dieCh c).out ∧ (s.dieCh c).cap = 1024 ∧ now then s.setOut c true
  else s

/-- What an accepted MODE does to a channel of class H, M or L (R134). -/
def State.modeHML (s : State) (c mode : Nat) : State :=
  let p := s.ph c
  if mode = 0 then s.turnOff c
  else if p = phOFF then
    if mode = 1 then s.turnOn c
    else if !s.gateOpen c then s.setPh c phGATED
    else (s.setPh c phPWM).setChan c { s.chan c with first := true }
  else s

/-- What an accepted MODE does to a leg (R187, R190): carrier timing, so a change between ON and PWM takes effect at
once; a write of OFF ends a reversal wait (R189). With DUTY 0 the turn-on waits for a duty, the leg freewheeling (R188). -/
def State.modeB (s : State) (c mode : Nat) : State :=
  let p := s.ph c
  if mode = 0 then s.turnOff c
  else if p = phOFF then
    if (s.dieCh c).revWait then s
    else
      let s := s.setBraking c false
      if mode = 2 ∧ s.gateOpen c ∧ s.f (CH_PWM_DUTY c) = 0 then
        ((s.setPh c phPWM).setChan c { s.chan c with first := true }).motUpdate c
      else (s.turnOn c).motUpdate c
  else if p = phON ∧ mode = 2 then s.setPh c phPWM
  else if p = phPWM ∧ mode = 1 then
    if (s.chan c).first then (s.turnOn c).motUpdate c else (s.setPh c phON).setOut c true
  else s

/-! The FETs of a leg (R186 to R191) -/

/-- The carrier period of a leg in ticks: CARRIER counts 250 Hz. Both legs of a bridge take it from the BRIDGE_A context (R190). -/
def State.carrier (s : State) (c : Nat) : Nat := 500000 / s.f (CH_B_CFG_CARRIER c)

/-- The carrier period of the die's clock that holds a slate. -/
def State.carrierNo (s : State) (c t : Nat) : Nat := t / s.carrier c

/-- The shortest on-time or off-time of a carrier period in ns: 2 × DEAD + 250 ns (R188). -/
def State.carrierMin (s : State) (c : Nat) : Nat := 200 * (s.f (CH_B_CFG_DEAD c) + 1) + 250

/-- The active FET's time in the carrier period now: DUTY / 1024 of it, or all of it in MODE ON; a part that is too short is
omitted, and so is the rest of a period whose ceiling chopped (R188, R191). -/
def State.carrierOn (s : State) (c : Nat) : Bool :=
  let p := s.carrier c
  let e := s.effDuty c
  let chop := match (s.dieCh c).chopAt with | some t => s.carrierNo c t = s.carrierNo c s.now | none => false
  !chop && (e = 1024 || (e ≠ 0 && (8 * p * (1024 - e) < 1024 * s.carrierMin c ||
    (1024 * s.carrierMin c ≤ 8 * p * e && s.now % p * 1024 < p * e))))

/-- What a leg's two FETs do: at most one of them conducts (R186). -/
inductive Fet where
  | off
  | high
  | low
  deriving DecidableEq, Repr

/-- The FET of a leg that conducts now (R187, R188, R191): braking, the STOP state; driven, the active diagonal of DIR, and in the
off-time the synchronous freewheel of slow decay or the opposite diagonal of fast decay; a single leg always decays slowly. -/
def State.legFet (s : State) (c : Nat) : Fet :=
  let k := s.ctx c
  let s := s.asDie (chLink c)
  let d := s.dieCh k
  let fwd := d.dir == 0
  if d.braking then (if d.stop = 1 then .low else if d.stop = 2 then .high else .off)
  else if !s.driven k ∨ !(d.out ∨ s.ph k = phPWM) then .off
  else
    let on := s.carrierOn k
    if s.f (CH_B_CFG_ROLE k) ≠ 1 then (if on = fwd then .high else .low)
    else
      let legB := decide (s.f (CH_B_CFG_PARTNER k) ≤ c)
      let fast := s.on (CH_B_CFG_DECAY k)
      -- the leg that switches is A in FORWARD and B in REVERSE; the other holds its low-side FET but in fast decay
      if legB = fwd then (if !on && fast then .high else .low) else (if on then .high else .low)

/-- The output of a channel conducts (R186): the output that its context switches is on, or a FET of the leg. -/
def State.conducts (s : State) (c : Nat) : Bool := if chClass c = 3 then s.legFet c ≠ .off else (s.dieCh (s.ctx c)).out

/-- A carrier period has started since a slate (R190). -/
def State.carrierSince (s : State) (c t : Nat) : Bool := s.carrierNo c t ≠ s.carrierNo c s.now

/-- The start of a carrier period of a leg (R127, R190): a staged DUTY takes effect, and a turn-on that waited for a duty is made. -/
def State.carrierStart (s : State) (c : Nat) (now : Bool) : State :=
  let d := s.dieCh c
  let s := match d.nextDuty with
    | some v => if now || s.carrierSince c d.dutyAt then s.setDieCh c { d with duty := v, nextDuty := none } else s
    | none => s
  if s.ph c = phPWM ∧ (s.chan c).first ∧ 0 < s.effDuty c ∧ !(s.dieCh c).revWait then (s.turnOn c).motUpdate c else s

/-- CHOPPING shows whether the ceiling chopped in the running carrier period or the one before it (R191). -/
def State.showChop (s : State) (c : Nat) : State :=
  s.setF (CH_B_STAT_CHOPPING c) (match (s.dieCh c).chopAt with
    | some t => b2n (s.carrierNo c s.now ≤ s.carrierNo c t + 1)
    | none => 0)

/-! Solenoid channels (R200 to R204): the parts that command writes need -/

/-- CH_S_STAT.SPHASE codes. -/
def spOFF : Nat := 0
def spWAIT : Nat := 1
def spRISE : Nat := 2
def spPEAK : Nat := 3
def spHOLD : Nat := 4
def spQUENCH : Nat := 5

/-- SPHASE of a solenoid channel as its die runs it. -/
def State.sp (s : State) (c : Nat) : Nat := (s.dieCh c).sph

/-- Put SPHASE, in the die and in CH_S_STAT, together with the phase that R200 pairs with it. -/
def State.setSp (s : State) (c v : Nat) : State :=
  ((s.setDieCh c { s.dieCh c with sph := v }).setF (CH_S_STAT_SPHASE c) v).setPh c
    (if v = spWAIT then phDEFERRED else if v = spRISE ∨ v = spPEAK then phPROFILE else if v = spHOLD then phON else phOFF)

/-- The solenoid channels in a group (SH k feeds SL 4k to 4k + 3). -/
def shMembers (k : Nat) : List Nat := [116 + 4 * k, 117 + 4 * k, 118 + 4 * k, 119 + 4 * k]

/-- The shared group follows its members: BOOST while any is in RISE, else BATTERY while any is in PEAK, HOLD or QUENCH,
else OFF; a tripped group stays TRIPPED (R202, R209). -/
def State.shUpdate (s : State) (k : Nat) : State :=
  let sp := (shMembers k).map s.sp
  s.setF ⟨SOL_GRP_STAT, 2 * k, 2⟩
    (if bitOf s.boost.shTrip k then 3 else if sp.contains spRISE then 2 else if sp.any (fun p => 3 ≤ p) then 1 else 0)

/-- The free boost energy of the check of R203 in 0.1 mJ: ½ C (V² − V_FLOOR²) less what rises in progress have still to
draw and less E_MARGIN. C is in µF, V_BST in 0.1 V and V_FLOOR in 0.5 V, so that the capacitor term in 0.1 mJ is
C × (V² − (5 V_FLOOR)²) / 20000; no rounding is stated there, and the bit drawn decides it (log entry 8). -/
def State.eFree (s : State) : Int :=
  let v : Int := s.f SOL_BST_STAT_V_BST
  let vf : Int := 5 * SOL_BST_CFG_V_FLOOR.get s.boost.cfg
  let cap := divFree s.draw ((SOL_BST_CFG_BST_C.get s.boost.cfg : Int) * (v * v - vf * vf)) 20000
  let res := (List.range 16).foldl (fun (acc : Int) j =>
    if s.sp (116 + j) = spRISE ∧ !s.on (CH_CFG_ODD (116 + j)) then
      acc + ((s.dieCh (116 + j)).eRise : Int) - (s.dieCh (116 + j)).eDrawn else acc) 0
  cap - res - s.boost.margin

/-- A waiting channel starts its rise: the group goes to BOOST, the run, its capture and its energy count start (R200). -/
def State.startRise (s : State) (c : Nat) : State :=
  let s := (s.setSp c spRISE).setF (CH_S_STAT_E_DRAWN c) 0
  let s := ((s.setF (LDG_CHSTAT_PERMIT c) 0).setF (LDG_CHSTAT_INRUSH c) 1).setReg (LDG_CHE c) 0
  let s := ((s.incSat (CH_ONCNT_COUNT c)).captureStart c).winStart c
  let s := s.setChan c { s.chan c with
    waitNo := 0, deferNo := 0, onsetNo := s.nextOnset, runZero := true, retryRun := (s.chan c).retryPend, runT := 0,
    retryPend := false, latch := false, peakI := 0, peakT := 0 }
  let s := ((s.shUpdate ((c - 116) / 4)).slotFilling (CH_SLOT_ST c 0)).slotFilling (CH_SLOT_ST c 1)
  (s.setDieCh c { s.dieCh c with out := true, latch := false, fuse := false, eDrawn := 0 }).stampCmd c 1 (chIsland c)

/-- A waiting or new solenoid turn-on that the Low band refuses (R71, R200). -/
def State.lowRefuse (s : State) (c : Nat) : State :=
  (((s.setSp c spOFF).raise (CH_S_FLAG_LOW_REFUSED c) (CH_S_FLAG_CNT_COUNT c)).setModeOff c).setChan c
    { s.chan c with waitNo := 0, deferNo := 0, retryPend := false } |>.stampCmd c 1 (chIsland c)

/-- The check of R203 for one channel, where the bands let a rise start (R71): E_FREE shows its result before the candidate term. -/
def State.boostCheck (s : State) (c : Nat) : State :=
  if s.f PWR_FEED_STAT_BAND = 1 then s.lowRefuse c
  else if s.f PWR_FEED_STAT_BAND ≠ 0 then s
  else
    let e := s.eFree
    let s := (s.drawn).setF SOL_BST_STAT_E_FREE (clampI 0 0xFFFF e).toNat
    if !s.boost.failed ∧ ((s.dieCh c).eRise : Int) ≤ e then s.startRise c else s

/-- The check of R203 for the waiting channels, in the order they entered WAIT (R204): each starts while the free energy covers
its E_RISE, and no channel starts ahead of an earlier one that still waits. The list is the waiting channels in order. -/
def State.boostCheckList (s : State) : List Nat → State
  | [] => s
  | c :: rest =>
    let t := s.boostCheck c
    if t.sp c = spWAIT then t else t.boostCheckList rest

/-- The channels in WAIT, in the order of the 10 µs intervals in which they entered it, then by index (R204). -/
def State.waiters (s : State) : List Nat :=
  ((List.range 16).map (116 + ·)).filter (fun c => s.sp c = spWAIT ∧ !s.on (CH_CFG_ODD c))
    |>.mergeSort (fun a b => (s.chan a).waitNo ≤ (s.chan b).waitNo)

/-- The on-time of the channel stands at its duty limit (R206). -/
def State.atDutyLimit (s : State) (c : Nat) : Bool := s.f (CH_S_BUDGET_LIMIT c) ≤ s.f (CH_S_STAT_DUTY_USED c)

/-- Refuse a solenoid turn-on whose boost energy is not there in time (R200). -/
def State.overlapRefuse (s : State) (c : Nat) : State :=
  ((((s.setSp c spOFF).raise (CH_S_FLAG_OVERLAP_REFUSED c) (CH_S_FLAG_CNT_COUNT c)).setModeOff c).setChan c
    { s.chan c with waitNo := 0, retryPend := false }).chEvent c 0x08 0

/-- A solenoid turn-on that may start enters WAIT, its permit consumed, and its check is made at once unless an earlier channel
waits (R200, R204): where that first check fails OVERLAP_DEFERRED is set, or with T_DEFER 0 the turn-on is refused. -/
def State.enterWait (s : State) (c : Nat) : State :=
  let s := ((s.setSp c spWAIT).setF (LDG_CHSTAT_PERMIT c) 0).setChan c
    { s.chan c with waitNo := s.boost.nextWait, deferNo := 0, needRelease := false }
  let s := s.setDieCh c { s.dieCh c with eRise := s.f (CH_S_BUDGET_E_RISE c), permit := false }
  let s := if s.waiters.head? = some c then s.boostCheck c else s
  if s.sp c = spWAIT then
    if s.f (CH_S_TIME_T_DEFER c) = 0 then s.overlapRefuse c
    else s.raise (CH_S_FLAG_OVERLAP_DEFERRED c) (CH_S_FLAG_CNT_COUNT c)
  else s

/-- MODE ON of a solenoid channel in OFF (R200, R206): truncated to zero at the duty limit, refused in the Low band,
deferred without a permit or in the Load-dump band, else WAIT. -/
def State.solTurnOn (s : State) (c : Nat) : State :=
  if !s.gateOpen c then s.setPh c phGATED
  else if s.atDutyLimit c then
    ((s.raise (CH_S_FLAG_DUTY_TRUNC c) (CH_S_FLAG_CNT_COUNT c)).setModeOff c).chEvent c 0x09 0
  else if s.f PWR_FEED_STAT_BAND = 1 then s.lowRefuse c
  else
    let s := s.turnOnMark c
    if s.mayStart c then s.enterWait c else s.defer c

/-- A solenoid channel quenches: the low-side opens and the run ends; the phase that it takes afterwards is 0 for OFF and the OFF
rows, or that of a trip, a fuse or an ended pause (R164, R178, R180, R200). -/
def State.quench (s : State) (c after : Nat) : State :=
  let t := ((((s.runEnd c).setOut c false).setSp c spQUENCH)).shUpdate ((c - 116) / 4)
  (t.setDieCh c { t.dieCh c with after := after }).setChan c { t.chan c with deferNo := 0 }

/-- What an accepted MODE does to a solenoid channel (R164, R200, R201). -/
def State.modeS (s : State) (c mode : Nat) : State :=
  let sp := s.sp c
  let p := if sp = spQUENCH then (s.dieCh c).after else s.ph c
  if mode = 0 then
    if sp = spRISE ∨ sp = spPEAK ∨ sp = spHOLD then (s.captureDiscard c).quench c phOFF
    else if p = phGATED ∨ p = phGANGED then s
    else
      let wait := (s.dieCh c).latch && (s.chan c).delayRun
      let s := s.setDieCh c { s.dieCh c with fuse := false, latch := wait, after := phOFF }
      let s := if sp = spQUENCH then s else s.setSp c spOFF
      s.setChan c { s.chan c with waitNo := 0, deferNo := 0, retryPend := false, latch := wait,
                                  needRelease := (s.chan c).needRelease || p == phFUSED }
  else if sp = spOFF ∧ p = phOFF then s.solTurnOn c
  else s

/-- What an accepted MODE does to a channel, by its class. -/
def State.applyMode (s : State) (c mode : Nat) : State :=
  if chClass c = 3 then s.modeB c mode else if chClass c = 4 then s.modeS c mode else s.modeHML c mode

/-! Command writes (R126 to R129) -/

/-- A CH_CMD write by an initiator: refused under R125, or stored, stamped and sent to the die, which carries it out. A write that
reaches no live die waits in its frame (DIE_CMD_FRAME). -/
def State.chCmdWrite (s : State) (init c mode tag : Nat) (restart : Bool) : State :=
  s.chWrite init c true true (mode = 3 || (chClass c = 4 && mode = 2)) false (fun s =>
    let s := ((s.setF (CH_CMD_MODE c) mode).setF (CH_CMD_TAG c) tag).setChan c
      { s.chan c with init := init, restart := (s.chan c).restart || restart }
    let s := (s.stampCmd c 0 2).sendCh c (fun k => .cmd k mode (s.f (CH_B_DRV_DIR c)) (s.f (CH_B_DRV_STOP c)) tag restart)
    if !s.vis c then s
    else
      let d := s.dieCh c
      (s.setDieCh c { d with mode := mode, tag := tag, modeAt := if d.mode = mode then d.modeAt else s.now }).applyMode c mode)

/-- CH_CMD_OFF (R135): a CH_CMD write of MODE OFF. -/
def execChCmdOff (c : Fin 132) (init tag : Byte) (s : State) : Host.Outcome State Fault Refusal :=
  go (s.chCmdWrite init.toNat c 0 tag.toNat false)

/-- CH_CMD_ON (R134): a CH_CMD write of MODE ON. -/
def execChCmdOn (c : Fin 132) (init tag : Byte) (s : State) : Host.Outcome State Fault Refusal :=
  go (s.chCmdWrite init.toNat c 1 tag.toNat false)

/-- CH_CMD_PWM (R134): a CH_CMD write of MODE PWM. -/
def execChCmdPwm (c : Fin 132) (init tag : Byte) (s : State) : Host.Outcome State Fault Refusal :=
  go (s.chCmdWrite init.toNat c 2 tag.toNat false)

/-- CH_CMD_RESTART (R136): a CH_CMD write of a MODE with RESTART 1. -/
def execChCmdRestart (c : Fin 132) (init : Byte) (mode : BitVec 2) (tag : Byte) (s : State) :
    Host.Outcome State Fault Refusal :=
  go (s.chCmdWrite init.toNat c mode.toNat tag.toNat true)

/-- A CH_PWM write by an initiator (R125, R127): the word is stored and sent; the die stages it. On a leg only DUTY is
used (R190). -/
def State.chPwmWrite (s : State) (init c duty pdiv phase : Nat) : State :=
  s.chWrite init c true true (1024 < duty) false (fun s =>
    let only := s.f (CH_PWM_PDIV c) = pdiv ∧ s.f (CH_PWM_PHASE c) = phase
    let s := ((s.setF (CH_PWM_DUTY c) duty).setF (CH_PWM_PDIV c) pdiv).setF (CH_PWM_PHASE c) phase
    let s := s.setChan c { s.chan c with init := init }
    (s.stampCmd c 0 2).sendCh c (fun k => .pwm k duty pdiv phase (decide only)))

/-- CH_PWM_WRITE (R127). -/
def execChPwmWrite (c : Fin 132) (init : Byte) (duty : BitVec 11) (pdiv : BitVec 2) (phase : BitVec 10) (s : State) :
    Host.Outcome State Fault Refusal :=
  go (s.chPwmWrite init.toNat c duty.toNat pdiv.toNat phase.toNat)

/-! PWM edges (R134, R136 to R138) -/

/-- The on-time of a duty is 2 µs or longer: DUTY / 1024 of PERIOD_US / 2^PDIV (R137). -/
def State.pulseLong (s : State) (c duty : Nat) : Bool :=
  2 * 1024 * 2 ^ (s.dieCh c).pdiv ≤ duty * s.f FRM_CFG_PERIOD_US

/-- A channel is timed by PWM: phase PWM, or ON with a cap in force (R136, R179). -/
def State.pwmTimed (s : State) (c : Nat) : Bool := s.ph c = phPWM || (s.ph c = phON && (s.dieCh c).cap < 1024)

/-- The PWM on-edge of a channel (R136), at PHASE 0 with the start of its period: a deferred turn-on or a retry that waited for it
starts (R134, R164), an output that is off turns on with the run of R136, and a capped ON output switches on (R179). No edge is made
at DUTY 0, at an on-time below 2 µs, or where the output is on (R137). -/
def State.pwmOnEdge (s : State) (c : Nat) : State :=
  let s := s.periodStart c (decide ((s.dieCh c).phase = 0))
  let p := s.ph c
  if 2 < chClass c ∨ s.effDuty c = 0 ∨ !s.pulseLong c (s.effDuty c) ∨ (s.dieCh c).out then s
  else if p = phDEFERRED ∧ s.modeOf c = 2 then
    if s.mayStart c then (s.incSat (CH_EDGECNT_COUNT c)).startRun c false else s
  else if p = phRETRY ∧ s.modeOf c = 2 then
    if (s.chan c).retryPend ∧ s.mayStart c then
      ((s.incSat (CH_EDGECNT_COUNT c)).incSat (CH_RETRY_USED c)).startRun c true else s
  else if p = phON then ((s.incSat (CH_EDGECNT_COUNT c)).activate c).setOut c true
  else if p = phPWM then s.pwmEdgeRun c
  else s

/-- PWM_ON_EDGE (R136). -/
def execPwmOnEdge (c : Fin 132) (s : State) : Host.Outcome State Fault Refusal :=
  go (if s.chPresent c then s.inDie c (·.pwmOnEdge c) else s)

/-- The PWM off-edge (R134, R136): the output turns off, and a profile that has not reached END is cut: the run ends
and the phase returns to PWM. DUTY 1024 and an off-time below 2 µs make no edge (R137). -/
def State.pwmOffEdge (s : State) (c : Nat) : State :=
  let s := s.periodStart c false
  let e := s.effDuty c
  if 2 < chClass c ∨ e = 1024 ∨ !s.pulseLong c (1024 - e) then s
  else if s.ph c = phPROFILE ∧ s.modeOf c = 2 then
    let s := ((s.runEnd c).setPh c phPWM).setOut c false
    s.setDieCh c { s.dieCh c with budgetRun := 0 }
  else if s.pwmTimed c then s.setOut c false
  else s

/-- PWM_OFF_EDGE (R136). -/
def execPwmOffEdge (c : Fin 132) (s : State) : Host.Outcome State Fault Refusal :=
  go (if s.chPresent c then s.inDie c (·.pwmOffEdge c) else s)

/-! Gate (R129) -/

/-- A channel when its die's gate closes: it opens to GATED, flagged and stamped where MODE is not OFF (R129, R134). A leg in OFF
stops braking: no FET conducts behind a closed gate (R35). -/
def State.gateCloseCh (s : State) (c : Nat) : State :=
  let p := s.ph c
  if p = phOFF then (if chClass c = 3 then (s.setBraking c false).motUpdate c else s)
  else if p = phGANGED ∨ p = phGATED then s
  else
    let s := if s.driven c then s.openOut c else s
    let s := if chClass c = 3 then s.setRev c false
      else if chClass c = 4 then (s.setSp c spOFF).shUpdate ((c - 116) / 4) else s
    let s := s.setChan c { s.chan c with deferNo := 0, waitNo := 0, retryPend := false }
    let s := (s.setPh c phGATED).motUpdate c
    if s.modeOf c ≠ 0 then
      (s.raise (CH_FLAG_GATED c) (CH_FLAG_CNT_COUNT c)).stamp 2 0x07 c 0x03 0x15 0
    else s

/-- A channel when its die's gate opens: GATED ends in OFF, then as the OFF rows (R129, R134). -/
def State.gateOpenCh (s : State) (c : Nat) : State :=
  if s.ph c = phGATED then
    let s := s.setPh c phOFF
    if s.modeOf c = 0 then s else s.applyMode c (s.modeOf c)
  else s

/-- The output-enable gate of a die takes a state (R129). -/
def State.gateSet (s : State) (n : Nat) (v : Bool) : State :=
  (linkChans n).foldl (if v then State.gateOpenCh else State.gateCloseCh) (s.setDie n { s.die n with gate := v })

/-- The Strongroom puts the gate of the die on a link (R35): a live die takes it at once, one whose adoption is on its way in a
frame behind it, and one that is not adopted keeps the last state that it received (R37) until its adoption sends it. -/
def State.gateWrite (s : State) (n : Nat) (v : Bool) : State :=
  if !s.diePresent n then s
  else
    let s := s.setLnk n { s.lnk n with gate := v }
    if s.live n then s.gateSet n v
    else if (s.lnk n).adopted then s.send n (.param 0 5 (b2n v))
    else s

/-- GATE_CLOSE (R129): the Strongroom closes the output-enable gate of the die on a link. -/
def execGateClose (n : Fin 14) (s : State) : Host.Outcome State Fault Refusal := go (s.gateWrite n false)

/-- GATE_OPEN (R129): the Strongroom opens it. -/
def execGateOpen (n : Fin 14) (s : State) : Host.Outcome State Fault Refusal := go (s.gateWrite n true)

/-! Profiles (R130 to R133) -/

/-- The profile words of a channel: the control word, then points 0 to 15. -/
def State.profWords (s : State) (c : Nat) : List Nat :=
  (s.reg (CH_PROF_CTL c)).toNat :: (List.range 16).map (fun n => (s.reg (CH_PROF c n)).toNat)

/-- The END point: the first of points 1 to 15 whose END is set (R131). -/
def endPoint (pts : List Nat) : Option Nat := (List.range 16).find? (fun n => 1 ≤ n && profEnd (pts.getD n 0))

/-- T strictly rises over the points. -/
def risingT : List Nat → Bool
  | a :: b :: t => profT a < profT b && risingT (b :: t)
  | _ => true

/-- The code of R131 with which a table is rejected, 0 for none: the first check that fails. -/
def profReject (pts : List Nat) (edgeStart itrip : Nat) : Nat :=
  let e := endPoint pts
  let upto := match e with | some n => n | none => 15
  if profT (pts.getD 0 0) ≠ 0 ∨ !risingT (pts.take (upto + 1)) then 1
  else match e with
    | none => 2
    | some n =>
      if (pts.take n).any (fun w => itrip * 9 / 10 < profI w) then 3
      else if n ≤ edgeStart then 4
      else if (pts.take n).any (fun w => 2 ≤ profShape w) then 5
      else 0

/-- What a commit sends: the control word and the points up to END (R131). -/
def State.profSent (s : State) (c : Nat) : List Nat :=
  let w := s.profWords c
  w.take ((match endPoint (w.drop 1) with | some n => n + 1 | none => 16) + 1)

/-- A commit (R131): in MODE 1 the table is checked; a rejected table is flagged and stamped and nothing is sent; an
accepted one is snapshot and its transfer starts. -/
def State.profCommit (s : State) (c : Nat) : State :=
  let pts := (s.profWords c).drop 1
  let code := if s.on (CH_PROF_CTL_MODE c) then profReject pts (s.f (CH_PROF_CTL_EDGE_START c)) (s.f (CH_TRIP_CFG_ITRIP c)) else 0
  if code ≠ 0 then
    (((s.setF (CH_PROF_STAT_XFER c) 2).setF (CH_PROF_STAT_REJECT c) code).raise (CH_FLAG_PROFILE_REJECT c)
      (CH_FLAG_CNT_COUNT c)).stamp 2 0x07 c 0x03 0x12 code
  else (s.setF (CH_PROF_STAT_XFER c) 1).setChan c { s.chan c with snap := s.profSent c }

/-- A CH_PROF_CTL write (R125, R131, R132): REHEAT_T above 1000 is a bad value, a COMMIT during a transfer is
PROFILE_BUSY, and class S takes no COMMIT (R201). -/
def State.profCtlWrite (s : State) (init c : Nat) (w : Word) : State :=
  let commit := bitOf w.toNat 31
  s.chWrite init c false false (1000 < w.toNat / 0x100 % 0x400 || (chClass c = 4 && commit))
    (commit && s.f (CH_PROF_STAT_XFER c) = 1) (fun s =>
    let s := s.setReg (CH_PROF_CTL c) (w &&& 0x0003FFF7#32)
    if commit then s.profCommit c else s)

/-- PROFILE_COMMIT (R131): a CH_PROF_CTL write with COMMIT 1; the other fields are the word's. -/
def execProfileCommit (c : Fin 132) (init : Byte) (ctl : Word) (s : State) : Host.Outcome State Fault Refusal :=
  go (s.profCtlWrite init.toNat c (ctl ||| 0x80000000#32))

/-- Send the HI copy and the budget state of a channel to its die (R158). -/
def State.sendHi (s : State) (c : Nat) : State :=
  let env := s.f (CH_SIG_STAT_ENV_STATE c)
  let s := (List.range 32).foldl (fun s n => s.sendCh c (fun k => .table k 1 n (s.f (CH_ENV_HI c n)))) s
  s.sendCh c (fun k => .param k 2 (if 2 ≤ env then s.f (CH_EBUDGET_BUDGET c) else 0))

/-- PROFILE_TRANSFER_DONE (R132): the snapshot reaches the die and waits there for the next on-edge; the HI values go
with it (R158). A die that is not live ignores it (R217). -/
def execProfileTransferDone (c : Fin 132) (s : State) : Host.Outcome State Fault Refusal :=
  go (if s.f (CH_PROF_STAT_XFER c) = 1 ∧ s.vis c then
    let s := (s.setF (CH_PROF_STAT_XFER c) 0).setF (CH_PROF_STAT_PENDING_GEN c) ((s.f (CH_PROF_STAT_ACTIVE_GEN c) + 1) % 0x100)
    let s := (s.setDieCh c { s.dieCh c with profPend := (s.chan c).snap }).setChan c { s.chan c with snap := [] }
    s.sendHi c
  else s)

/-- PROFILE_POINT (R130): profile time reaches the next point, which is not END, and its ceiling is in force; one of 0 holds the
channel off (R120). -/
def execProfilePoint (c : Fin 132) (s : State) : Host.Outcome State Fault Refusal :=
  go (let n := (s.dieCh c).point + 1
    if s.ph c = phPROFILE ∧ chClass c < 4 ∧ n < 16 ∧ !profEnd (s.activePoint c n) then
      s.inDie c (fun s => (s.setPoint c n).setOut c (!s.ceilZero c n)) else s)

/-- The end of a profile (R130, R134): the regulator releases and the channel goes ON or PWM; a retry that reaches END
clears a SHORT or OVERTEMP verdict (R163). -/
def State.profileEnd (s : State) (c : Nat) : State :=
  if s.ph c = phPROFILE ∧ chClass c < 4 then
    let retry := (s.chan c).retryRun
    let s := (s.runEnd c).setOut c true
    let s := s.setPh c (if s.modeOf c = 2 then phPWM else phON)
    let s := s.setDieCh c { s.dieCh c with budgetRun := 0 }
    if retry ∧ (s.f (CH_VERDICT_VERDICT c) = 9 ∨ s.f (CH_VERDICT_VERDICT c) = 8) then s.setVerdict c 1 else s
  else s

/-- PROFILE_END (R130). -/
def execProfileEnd (c : Fin 132) (s : State) : Host.Outcome State Fault Refusal :=
  go (s.inDie c (·.profileEnd c))

/-! Signatures (R140 to R144) -/

/-- LO and HI of a bin. -/
def State.envLo (s : State) (c n : Nat) : Nat := s.f (CH_ENV_LO c n)
def State.envHi (s : State) (c n : Nat) : Nat := s.f (CH_ENV_HI c n)

/-- Put the bounds of a bin. -/
def State.setEnv (s : State) (c n lo hi : Nat) : State := (s.setF (CH_ENV_LO c n) lo).setF (CH_ENV_HI c n) hi

/-- Store a capture in CH_LAST (R140): the mean and the validity of each bin. -/
def State.storeCapture (s : State) (c : Nat) (bins : List (BitVec 12)) (valid : Word) : State :=
  (List.range 32).foldl (fun s n => (s.setF (CH_LAST_MEAN c n) (bins.getD n 0).toNat).setF (CH_LAST_VALID c n) (b2n (bitOf valid.toNat n))) s

/-- How many valid bins of the stored capture lie above HI. -/
def State.binsHigh (s : State) (c : Nat) : Nat :=
  ((List.range 32).filter (fun n => s.on (CH_LAST_VALID c n) && s.envHi c n < s.f (CH_LAST_MEAN c n))).length

/-- How many valid bins of the stored capture lie below LO. -/
def State.binsLow (s : State) (c : Nat) : Nat :=
  ((List.range 32).filter (fun n => s.on (CH_LAST_VALID c n) && s.f (CH_LAST_MEAN c n) < s.envLo c n)).length

/-- Adaptation of one valid bin (R143): its centre moves by (MEAN − c) / 64, truncated toward zero, the half-width
unchanged. With LO + HI = 2c the shift is (2 MEAN − LO − HI) / 128, added to both bounds and held within 12 bits. -/
def State.adaptBin (s : State) (c n : Nat) : State :=
  if s.on (CH_LAST_VALID c n) then
    let d : Int := ((2 * s.f (CH_LAST_MEAN c n) : Nat) - (s.envLo c n + s.envHi c n : Nat) : Int).tdiv 128
    s.setEnv c n (clampI 0 0xFFF (s.envLo c n + d)).toNat (clampI 0 0xFFF (s.envHi c n + d)).toNat
  else s

/-- How many bins have a centre that differs from REF by more than AGE_LIMIT / 256 of REF (R141). -/
def State.binsAged (s : State) (c : Nat) : Nat :=
  ((List.range 32).filter (fun n =>
    s.f (CH_SIG_CFG_AGE_LIMIT c) * 2 * s.f (CH_REF_CENTRE c n) <
      256 * ((s.envLo c n + s.envHi c n : Nat) - (2 * s.f (CH_REF_CENTRE c n) : Nat) : Int).natAbs)).length

/-- One learned capture (R142): the running minimum and maximum of a valid bin, which the first capture that covers it gives; a
bin that none has covered keeps LO 0 and HI 0xFFF. The number holds a bit for each bin covered before. -/
def State.learnBin (s : State) (c seen n : Nat) : State :=
  if s.on (CH_LAST_VALID c n) then
    let m := s.f (CH_LAST_MEAN c n)
    if bitOf seen n then s.setEnv c n (min (s.envLo c n) m) (max (s.envHi c n) m) else s.setEnv c n m m
  else if bitOf seen n then s else s.setEnv c n 0 0xFFF

/-- The end of learning for one bin (R142): REF is the centre and the bounds widen by w = max (FLOOR, ⌊K s / 4⌋). A bin
never valid keeps LO = 0x000 and HI = 0xFFF. -/
def State.learnDoneBin (s : State) (c n : Nat) : State :=
  let lo := s.envLo c n
  let hi := s.envHi c n
  let w := max (s.f (CH_SIG_CFG_FLOOR c)) (s.f (CH_SIG_CFG_K c) * (hi - lo) / 4)
  (s.setF (CH_REF_CENTRE c n) ((lo + hi) / 2)).setEnv c n (lo - w) (min 0xFFF (hi + w))

/-- A capture classed UNLEARNED is learned from (R142): the state moves to LEARNING, and after LEARN_N captures to
LEARNED, stamped, with the HI values sent (R158). -/
def State.learn (s : State) (c : Nat) : State :=
  let first := s.f (CH_SIG_STAT_ENV_STATE c) = 0
  let seen := if first then 0 else (s.chan c).seen
  let s := (List.range 32).foldl (fun s n => s.learnBin c seen n) s
  let s := s.setChan c { s.chan c with
    seen := (List.range 32).foldl (fun m n => if s.on (CH_LAST_VALID c n) ∧ !bitOf m n then m + 2 ^ n else m) seen }
  let s := (s.setF (CH_SIG_STAT_ENV_STATE c) 1).setF (CH_SIG_STAT_LEARNED c)
    ((if first then 0 else s.f (CH_SIG_STAT_LEARNED c)) + 1)
  if s.f (CH_SIG_CFG_LEARN_N c) ≤ s.f (CH_SIG_STAT_LEARNED c) then
    (((List.range 32).foldl (fun s n => s.learnDoneBin c n) s).setF (CH_SIG_STAT_ENV_STATE c) 2).sendHi c
      |>.stamp 2 0x07 c 0x03 0x14 (s.f (CH_SIG_STAT_LEARNED c))
  else s

/-- The class of a capture that is not SUPPRESSED and is compared (R141): 2 HIGH, 3 LOW, 4 AGEING or 1 OK; an OK or
AGEING capture has adapted the envelope before the ageing test, where ADAPT is 1 (R143). -/
def State.classify (s : State) (c : Nat) : State × Nat :=
  let m := s.f (CH_SIG_CFG2_MISS_N c)
  if m ≤ s.binsHigh c then (s, 2)
  else if m ≤ s.binsLow c then (s, 3)
  else
    let s := if s.on (CH_SIG_CFG_ADAPT c) then ((List.range 32).foldl (fun s n => s.adaptBin c n) s).sendHi c else s
    (s, if m ≤ s.binsAged c then 4 else 1)

/-- The end of a capture (R140 to R143, R145, R163): it is stored, classed, learned from or compared; the SIG slot, the
flags, the counters and the verdict follow. A capture that is not compared shows no bin out of the envelope (log entry 58). -/
def State.captureEnd (s : State) (c : Nat) (bins : List (BitVec 12)) (valid : Word) : State :=
  if !(s.chan c).capRun then s
  else
    let sup := (s.chan c).capSup || s.on (CH_STATUS_FDM c) || s.f PWR_FEED_STAT_BAND ≠ 0
    let s := (s.setChan c { s.chan c with capRun := false, capSup := false }).storeCapture c bins valid
    let high := s.binsHigh c
    let low := s.binsLow c
    if sup then
      (((s.incSat (CH_SIGCNT_SUPPRESSED c)).setF (CH_SIG_STAT_LAST_CLASS c) 5).slotUpdate (CH_SLOT_ST c 2) (CH_SLOT_VAL c 2) 5)
    else if s.f (CH_SIG_STAT_ENV_STATE c) ≤ 1 then
      ((s.learn c).setF (CH_SIG_STAT_LAST_CLASS c) 6).slotUpdate (CH_SLOT_ST c 2) (CH_SLOT_VAL c 2) 6
    else
      let r := s.classify c
      let k := r.2
      let s := (r.1.setF (CH_SIG_STAT_LAST_CLASS c) k).slotUpdate (CH_SLOT_ST c 2) (CH_SLOT_VAL c 2) (k + high * 0x100 + low * 0x10000)
      let rec4 := fun (s : State) => s.stamp 2 0x07 c 0x03 0x13 (k + high * 0x100 + low * 0x10000)
      if k = 2 then (rec4 ((s.incSat (CH_SIGCNT_HIGH c)).raise (CH_FLAG_SIG_HIGH c) (CH_FLAG_CNT_COUNT c))).captureEvidence c 4
      else if k = 3 then (rec4 ((s.incSat (CH_SIGCNT_LOW c)).raise (CH_FLAG_SIG_LOW c) (CH_FLAG_CNT_COUNT c))).captureEvidence c 3
      else if k = 4 then (rec4 ((s.incSat (CH_SIGCNT_AGEING c)).raise (CH_FLAG_AGEING c) (CH_FLAG_CNT_COUNT c))).captureEvidence c 2
      else s.captureEvidence c 1

/-- CAPTURE_END (R141): the 32 bin means, and a bit per bin that lay wholly within on-time without trip or pause. A MODE
0 run from point 0 ends with the capture window (R130). -/
def execCaptureEnd (c : Fin 132) (bins : List (BitVec 12)) (valid : Word) (s : State) : Host.Outcome State Fault Refusal :=
  go (let s := if s.vis c then s.captureEnd c bins valid else s
    if s.ph c = phPROFILE ∧ !ctlMode (s.profCtl c) ∧ (s.chan c).runZero then s.inDie c (·.profileEnd c) else s)

/-- A write of CH_SIG_CFG (R125): SIG_BW above 10, LEARN_N 0 and K 0 are bad values; LEARN 1 discards the envelope, whose bounds
then read 0 (log entry 59), and learns again, and the die is told that the budget no longer applies (R142, R158). REF stays until
learning completes (R143). -/
def State.sigCfgWrite (s : State) (init c : Nat) (w : Word) : State :=
  s.chWrite init c false false (10 < w.toNat % 0x10 || w.toNat / 0x10 % 0x40 = 0 || w.toNat / 0x400 % 8 = 0) false (fun s =>
    let s := s.setReg (CH_SIG_CFG c) (w &&& 0xFFFF3FFF#32)
    if bitOf w.toNat 14 then
      ((List.range 32).foldl (fun s n => s.setEnv c n 0 0)
        ((s.setF (CH_SIG_STAT_ENV_STATE c) 0).setF (CH_SIG_STAT_LEARNED c) 0)).sendCh c (fun k => .param k 2 0)
    else s)

/-- ENVELOPE_LEARN (R142): a CH_SIG_CFG write with LEARN 1; the other fields are the word's. -/
def execEnvelopeLearn (c : Fin 132) (init : Byte) (cfg : Word) (s : State) : Host.Outcome State Fault Refusal :=
  go (s.sigCfgWrite init.toNat c (cfg ||| 0x00004000#32))

/-- A write of CH_ENVn (R144, R158): ENV_STATE becomes MANUAL and the HI values are sent to the die. -/
def State.envWrite (s : State) (init c n : Nat) (w : Word) : State :=
  s.chWrite init c false false false false (fun s =>
    ((s.setReg (CH_ENV c n) (w &&& 0x00FFFFFF#32)).setF (CH_SIG_STAT_ENV_STATE c) 3).sendHi c)

/-- ENVELOPE_WRITE (R144). -/
def execEnvelopeWrite (c : Fin 132) (init : Byte) (n : Fin 32) (w : Word) (s : State) : Host.Outcome State Fault Refusal :=
  go (s.envWrite init.toNat c n w)

/-! Result slots (R145 to R147) -/

/-- Which result slot a TAKE names: one of a channel's three, a MEAS slot, a Strongroom or STORE result slot, or the
access unit's FRAME slot (R147, R420, R435, R470, R498). -/
def slotWords (unit index slot : Nat) : Option (Nat × Nat × Nat × Nat) :=
  if unit = 0x03 ∧ index < 132 ∧ slot < 3 then some (CH_SLOT_ST index slot, CH_SLOT_VAL index slot, CH_SLOT_TST index slot, CH_SLOT_TVAL index slot)
  else if unit = 0x27 ∧ slot < 192 then some (MEAS_SLOT_ST slot, MEAS_SLOT_VAL slot, MEAS_SLOT_TST slot, MEAS_SLOT_TVAL slot)
  else if unit = 0x2D ∧ slot < 8 then some (SYS_SLOT_ST slot, SYS_SLOT_VAL slot, SYS_SLOT_TST slot, SYS_SLOT_TVAL slot)
  else if unit = 0x2B ∧ slot < 8 then some (NVM_SLOT_ST slot, NVM_SLOT_VAL slot, NVM_SLOT_TST slot, NVM_SLOT_TVAL slot)
  else if unit = 0x28 ∧ slot < 1 then some (ACC_SLOT_ST slot, ACC_SLOT_VAL slot, ACC_SLOT_TST slot, ACC_SLOT_TVAL slot)
  else none

/-- SLOT_TAKE (R147): a read that touches byte 0 of a TAKE status word of a unit's result slot (the channel index for
unit 0x03). A slot that the unit does not have is no take. -/
def execSlotTake (unit index slot : Byte) (s : State) : Host.Outcome State Fault Refusal :=
  go (match slotWords unit.toNat index.toNat slot.toNat with
    | some (st, v, tst, tv) => s.slotTake st v tst tv
    | none => s)

/-- CURRENT_WINDOW (R145, R161, R163): a CURRENT window ends with its mean; in ON, and in PWM after END, it counts
toward open load or its clearing, unless it overlapped the mark or a band other than Normal, or a PWM window had less than
50 µs of on-time. For a leg in PWM the window ends a carrier period (R190, R191). -/
def execCurrentWindow (c : Fin 132) (mean : BitVec 16) (onUs : BitVec 16) (s : State) : Host.Outcome State Fault Refusal :=
  go (let p := s.ph c
    if (p ≠ phON ∧ p ≠ phPWM) ∨ !s.vis c ∨ !s.slotsLive c then s
    else
      let s := s.slotUpdate (CH_SLOT_ST c 0) (CH_SLOT_VAL c 0) mean.toNat
      let dirty := (s.chan c).winDirty || s.on (CH_STATUS_FDM c) || s.f PWR_FEED_STAT_BAND ≠ 0
      let s := s.winStart c
      let s := if chClass c = 3 then (s.showChop c).carrierStart c (decide (p = phPWM)) else s
      let iol := s.f (CH_TRIP_CFG_IOL c)
      if iol = 0 ∨ dirty ∨ (p = phPWM ∧ onUs.toNat < 50) then s
      else if mean.toNat < iol then
        let s := (s.setF (CH_VERDICT_OL_RUN c) (min 8 (s.f (CH_VERDICT_OL_RUN c) + 1))).setChan c { s.chan c with okRun := 0 }
        if s.f (CH_VERDICT_OL_RUN c) = 8 then s.evidence c 5 else s
      else
        let s := (s.setF (CH_VERDICT_OL_RUN c) 0).setChan c { s.chan c with okRun := min 8 ((s.chan c).okRun + 1) }
        if (s.chan c).okRun = 8 ∧ s.f (CH_VERDICT_VERDICT c) = 5 then s.setVerdict c 1 else s)

end Sys2Proof.Machine
end

