-- ==== Sys2Proof/Machine/Protection.lean ====
section
/-! DEFINITION. Protection (06_protection_ledger.md, R149 to R167): trips, the overtemperature latch, the energy budget,
the feed-disturbance mark, short to battery and the retry. -/

namespace Sys2Proof.Machine

/-! The one trip operation (R152, R154, R156, R164, R193, R208, R209) -/

/-- The feed-disturbance mark on every channel of a die (R159): a running capture becomes SUPPRESSED (R140) and the running
open-load window is not counted (R161). -/
def State.markFdm (s : State) (n : Nat) : State :=
  (linkChans n).foldl (fun s c =>
    (s.setF (CH_STATUS_FDM c) 1).setChan c { s.chan c with capSup := (s.chan c).capSup || (s.chan c).capRun, winDirty := true })
    (s.setDie n { s.die n with fdm := true })

/-- Flag, counter and verdict of a trip by its cause, the ARG of R256: 0 fast trip, 1 energy budget, 2 overtemperature
latch, 3 overload, 4 chop short, 5 SH trip. -/
def State.tripFlags (s : State) (c kind : Nat) : State :=
  match kind with
  | 0 => ((s.raise (CH_FLAG_TRIP c) (CH_FLAG_CNT_COUNT c)).incSat (CH_TRIPCNT_FAST c)).evidence c 9
  | 1 => ((s.raise (CH_FLAG_EBUDGET c) (CH_FLAG_CNT_COUNT c)).incSat (CH_TRIPCNT_BUDGET c)).evidence c 9
  | 2 => (s.raise (CH_FLAG_OVERTEMP c) (CH_FLAG_CNT_COUNT c)).evidence c 8
  | 3 => ((s.raise (CH_B_FLAG_OVERLOAD c) (CH_B_FLAG_CNT_COUNT c)).incSat (CH_TRIPCNT_FAST c)).evidence c 9
  | 4 => ((s.raise (CH_S_FLAG_CHOP_SHORT c) (CH_S_FLAG_CNT_COUNT c)).incSat (CH_TRIPCNT_FAST c)).evidence c 9
  | _ => (s.raise (CH_S_FLAG_SH_TRIP c) (CH_S_FLAG_CNT_COUNT c)).evidence c 9

/-- What a trip does at the context (R152, R164): the flag, the counter and the verdict set, the record stamped with the die's
slate and the cue to the owner, which tells of exhausted retries. -/
def State.tripContext (s : State) (c kind : Nat) (cor out : Bool) (t : Slate) : State :=
  (s.tripFlags c kind).chEventAt cor (chIsland c) t c (if out then 3 else 2) kind

/-- The phase that a trip gives: RETRY_WAIT while USED is below MAX, else TRIPPED (R164). -/
def State.tripPhase (s : State) (c : Nat) : Nat :=
  if s.f (CH_RETRY_MAX c) ≤ s.f (CH_RETRY_USED c) then phTRIPPED else phRETRY

/-- What a trip does in the die: the latch with its cause, the output and the brake open, the run ends, the mark is set and the
delay timer starts (R152, R159, R164). -/
def State.tripDie (s : State) (c kind : Nat) : State :=
  let s := (s.runEnd c).setOut c false
  let s := if chClass c = 3 then (s.setRev c false).setBraking c false else s
  let s := s.setDieCh c { s.dieCh c with latch := true, latchKind := kind, budgetRun := 0 }
  let s := s.setChan c { s.chan c with delayRun := true, delayUp := false, latch := true,
                                       retryPend := false, deferNo := 0, waitNo := 0 }
  (s.motUpdate c).markFdm (chLink c)

/-- The phase after a trip (R164): a solenoid in RISE, PEAK or HOLD quenches first, with the phase in store (R200); a leg that
brakes in OFF stays in OFF (log entry 30). -/
def State.tripMove (s : State) (c : Nat) : State :=
  let p := s.tripPhase c
  if chClass c = 4 ∧ spRISE ≤ s.sp c ∧ s.sp c ≤ spHOLD then s.quench c p
  else if chClass c = 4 then (s.setSp c spOFF).setPh c p
  else if chClass c = 3 ∧ s.ph c = phOFF then s
  else s.setPh c p

/-- A trip of a channel (R152, R159, R164, R200): the die latches it and opens the output, and the context records it. A die that
is not live keeps it as an event (R218). A fast trip of a sleep-kept channel of a parked die is the wake source KEPT_TRIP where the
Script enables it (R78, R80). -/
def State.trip (s : State) (c kind : Nat) : State :=
  let t := s.inDieQ (chLink c) (fun s =>
    let out := decide (s.tripPhase c = phTRIPPED)
    (((s.tripMove c).tripDie c kind).tripContext c kind false out (s.islandSlate (chIsland c))))
  let t := if s.vis c then t else t.storeEvent c kind 0
  if kind = 0 ∧ s.scr.keptTrip ∧ (s.die (chLink c)).parked ∧ (s.asDie (chLink c)).on (CH_CFG_KEPT c) then t.wakeSource 23 else t

/-- FAST_TRIP (R149, R150, R152, R192): current above ITRIP in a channel of class H, M or L whose output conducts, or in a leg with
a FET on, be it by a brake. -/
def execFastTrip (c : Fin 132) (s : State) : Host.Outcome State Fault Refusal :=
  go (let k := s.ctx c
    if (chClass k < 3 ∧ s.driven k ∧ (s.dieCh k).out) ∨ (chClass c = 3 ∧ s.legFet c ≠ .off) then s.trip k 0 else s)

/-- A channel when the overtemperature latch sets (R154): one whose phase is not OFF moves as a tripped channel does; one that a
latch, a fuse or the gate already holds keeps its phase and gets the flag, the verdict and the latch. A brake in OFF opens. -/
def State.overtempCh (s : State) (c : Nat) : State :=
  let p := s.ph c
  let held := p = phTRIPPED ∨ p = phFUSED ∨ p = phGATED
  if s.ctx c ≠ c ∨ p = phGANGED then s
  else if p = phOFF then s.inDie c (fun s => if chClass c = 3 then (s.setBraking c false).motUpdate c else s)
  else if held then
    let t := s.inDieQ (chLink c) (fun s =>
      (s.setDieCh c { s.dieCh c with latch := true, latchKind := 2 }).tripFlags c 2)
    if s.vis c then t else t.storeEvent c 2 1
  else s.trip c 2

/-- DIE_OVERTEMP (R154): a sensor of the die at 170 °C sets the latch, opens every channel and counts in OT_CNT. -/
def execDieOvertemp (n : Fin 14) (s : State) : Host.Outcome State Fault Refusal :=
  go (if s.diePresent n ∧ !(s.die n).ot then
    let s := s.setDie n { s.die n with ot := true }
    let s := if s.live n then s.incSat (LDG_DX_OT_CNT n) else s.storeEvent (linkFirst n) 7 0
    (linkChans n).foldl State.overtempCh s else s)

/-- DIE_OVERTEMP_CLEAR (R154): every sensor of the die at 140 °C or less. -/
def execDieOvertempClear (n : Fin 14) (s : State) : Host.Outcome State Fault Refusal :=
  go (if s.diePresent n then s.setDie n { s.die n with ot := false } else s)

/-- BUDGET_INTERVAL (R155, R156): a 10 µs interval of profile time ends with its mean; E grows by the excess over HI of
the bin that holds the interval's start, and reaching BUDGET opens the channel. A parked die applies no budget (R78, R183). -/
def execBudgetInterval (c : Fin 132) (bin mean : BitVec 16) (s : State) : Host.Outcome State Fault Refusal :=
  go (let d := s.dieCh c
    if s.ph c = phPROFILE ∧ chClass c < 3 ∧ d.budgetRun ≠ 0 ∧ (s.chan c).runZero ∧ !(s.die (chLink c)).parked then
      let hi := d.hiRun.getD (min bin.toNat 31) 0xFFF
      let e := if hi = 0xFFF then d.e else d.e + (mean.toNat - hi)
      let s := s.setDieCh c { d with e := e }
      if d.budgetRun ≤ e then s.trip c 1 else s
    else s)

/-- FDM_EXPIRE (R159): the mark of a die ends. -/
def execFdmExpire (n : Fin 14) (s : State) : Host.Outcome State Fault Refusal :=
  go (if s.diePresent n then
    let s := s.setDie n { s.die n with fdm := false }
    s.inDieQ n (fun s => (linkChans n).foldl (fun s c => s.setF (CH_STATUS_FDM c) 0) s)
  else s)

/-- SHORT_BAT_DETECT (R162, R190, R201): the output of a channel of class H, M or L in OFF for 10 ms or longer has stayed
above half VBAT for 1 ms; the evaluation pauses under the mark (R159). -/
def execShortBatDetect (c : Fin 132) (s : State) : Host.Outcome State Fault Refusal :=
  go (if chClass c < 3 ∧ s.vis c ∧ s.ph c = phOFF ∧ !s.on (CH_STATUS_FDM c) ∧ 1250000 ≤ s.now - (s.chan c).offAt then
    s.evidence c 6 else s)

/-- SHORT_BAT_CLEAR (R163): the output has stayed below 0.3 × VBAT for 1 ms. -/
def execShortBatClear (c : Fin 132) (s : State) : Host.Outcome State Fault Refusal :=
  go (if s.vis c ∧ s.f (CH_VERDICT_VERDICT c) = 6 ∧ !s.on (CH_STATUS_FDM c) then s.setVerdict c 1 else s)

/-! Retry (R164 to R167) -/

/-- A retry starts (R164): the latch is cleared, USED counts, and the run begins at point 0; a solenoid begins in WAIT and its
group's latch clears (R200, R209); in PWM the run starts at the channel's next on-edge, and a leg first waits the rest of REV_T. -/
def State.retryStart (s : State) (c : Nat) : State :=
  if (chClass c < 3 ∧ s.modeOf c = 2) ∨ (s.dieCh c).revWait then s
  else if s.revPending c then s.setRev c true
  else
    let s := s.incSat (CH_RETRY_USED c)
    let s := s.setDieCh c { s.dieCh c with latch := false }
    if chClass c = 4 then
      let g := (c - 116) / 4
      let s := if bitOf s.boost.shTrip g then { s with boost := { s.boost with shTrip := s.boost.shTrip - 2 ^ g } } else s
      (s.shUpdate g).enterWait c
    else (s.startRun c true).motUpdate c

/-- The conditions of a retry hold (R71, R164): delay expired, overtemperature latch clear, band (for a solenoid, Normal), standing
permit. -/
def State.mayRetry (s : State) (c : Nat) : Bool :=
  (s.chan c).retryPend && s.mayStart c && (chClass c ≠ 4 || s.f PWR_FEED_STAT_BAND = 0)

/-- RETRY_DELAY_EXPIRE (R164, R166): the delay of a trip ends; the latch of a channel in OFF clears, a channel in
RETRY_WAIT retries if the conditions are met, and one whose die is not live waits for adoption. A solenoid that still quenches
retries from RETRY_WAIT. -/
def execRetryDelayExpire (c : Fin 132) (s : State) : Host.Outcome State Fault Refusal :=
  go (if !(s.chan c).delayRun then s
  else
    let p := if s.sp c = spQUENCH then (s.dieCh c).after else s.ph c
    let wait := decide (p = phRETRY)
    let held := wait || p == phTRIPPED
    let s := s.setChan c { s.chan c with delayRun := false, delayUp := true, retryPend := wait, latch := held }
    let s := if held ∨ p = phFUSED ∨ p = phGATED then s else s.setDieCh c { s.dieCh c with latch := false }
    if s.vis c ∧ s.ph c = phRETRY ∧ s.mayRetry c then s.retryStart c else s)

/-- USED_RESET (R165): DELAY seconds in ON or PWM without a trip. -/
def execUsedReset (c : Fin 132) (s : State) : Host.Outcome State Fault Refusal :=
  go (if s.vis c ∧ (s.ph c = phON ∨ s.ph c = phPWM) then s.setF (CH_RETRY_USED c) 0 else s)

end Sys2Proof.Machine
end

