-- ==== Sys2Proof/Machine/Drives.lean ====
section
/-! DEFINITION. Half-bridge legs and solenoid channels (07_motors_solenoids.md): direction changes, braking, chopping,
overload, the current stream, stall, the boost rail and the solenoid phases. -/

namespace Sys2Proof.Machine

/-! Legs (R184 to R197) -/

/-- What a change of DIR and STOP does in the die of a leg (R187, R189): a DIR change while the leg is driven coasts it and starts
the reversal wait, and otherwise stands for the next turn-on; a STOP change acts at once on a stopped leg. -/
def State.drvApply (s : State) (c dir stop : Nat) : State :=
  let d := s.dieCh c
  let turn := d.dir ≠ dir
  let move := d.stop ≠ stop
  let s := (s.setDieCh c { d with dir := dir, stop := stop }).setChan c { s.chan c with dirNew := (s.chan c).dirNew ^^ turn }
  if turn ∧ s.driven c then (((s.openOut c).setPh c phOFF).setRev c true).motUpdate c
  else if move ∧ s.ph c = phOFF ∧ !(s.dieCh c).revWait then s.legStop c
  else s

/-- A CH_B_DRV write by an initiator (R125, R187, R189): stored, stamped and sent to the die, which carries it out. -/
def State.bDrvWrite (s : State) (init c : Nat) (w : Word) : State :=
  s.chWrite init c false true (chClass c ≠ 3 || w.toNat / 2 % 4 = 3) false (fun s =>
    let s := s.setReg (CH_B_DRV c) (w &&& 0x00FFFF07#32)
    let s := s.setChan c { s.chan c with init := init }
    let s := (s.stampCmd c 0 2).sendCh c (fun k => .cmd k (s.modeOf c) (s.f (CH_B_DRV_DIR c))
      (s.f (CH_B_DRV_STOP c)) (s.f (CH_CMD_TAG c)) false)
    if s.vis c then s.drvApply c (s.f (CH_B_DRV_DIR c)) (s.f (CH_B_DRV_STOP c)) else s)

/-- BRIDGE_DIR_CHANGE (R189): a CH_B_DRV write. -/
def execBridgeDirChange (c : Fin 132) (init : Byte) (w : Word) (s : State) : Host.Outcome State Fault Refusal :=
  go (s.bDrvWrite init.toNat c w)

/-- The turn-on that ends a reversal wait (R189): a retry that waits for it, where its conditions hold; else a command turn-on from
point 0, which the gate, a missing permit or DUTY 0 may keep waiting (R129, R134, R190). -/
def State.reversalTurnOn (s : State) (c : Nat) : State :=
  let s := s.setRev c false
  let s :=
    if s.ph c = phRETRY then
      if s.mayRetry c then ((s.incSat (CH_RETRY_USED c)).startRun c true) else s
    else if !s.gateOpen c then s.setPh c phGATED
    else if s.ph c = phDEFERRED then (if s.mayStart c then s.startRun c false else s)
    else if s.modeOf c = 2 ∧ s.effDuty c = 0 then (s.setPh c phPWM).setChan c { s.chan c with first := true }
    else
      let s := s.turnOnMark c
      if s.mayStart c then s.startRun c false else s.defer c
  s.motUpdate c

/-- REVERSAL_WAIT_EXPIRE (R189, R210): REV_T has passed. -/
def execReversalWaitExpire (c : Fin 132) (s : State) : Host.Outcome State Fault Refusal :=
  go (if chClass c = 3 ∧ (s.dieCh c).revWait then s.inDie c (·.reversalTurnOn c) else s)

/-- BRAKE_END (CH_B_DRV.BRAKE_T): the brake time ends and the leg coasts; BRAKE_T 0 brakes until the next command, and
a brake of a fail-safe action lasts until adoption (R226). -/
def execBrakeEnd (c : Fin 132) (s : State) : Host.Outcome State Fault Refusal :=
  go (if chClass c = 3 ∧ (s.dieCh c).braking ∧ (s.asDie (chLink c)).on (CH_B_DRV_BRAKE_T c) ∧ !(s.dieCh c).fsBrake then
    s.inDie c (fun s => (s.setBraking c false).motUpdate c) else s)

/-- CEILING_CHOP (R191): the current of a leg in its profile reaches the ceiling; the active FET is off for the rest of
the carrier period and CHOPPING shows it. -/
def execCeilingChop (c : Fin 132) (s : State) : Host.Outcome State Fault Refusal :=
  go (if chClass c = 3 ∧ (s.ph c = phPROFILE ∨ s.ph c = phPAUSED) then
    s.inDie c (fun s => (s.setDieCh c { s.dieCh c with chopAt := some s.now }).setF (CH_B_STAT_CHOPPING c) 1) else s)

/-- OVERLOAD_TRIP (R193): the overload timer of a leg with a FET on reaches 500 ms, 250 in OVL. -/
def execOverloadTrip (c : Fin 132) (s : State) : Host.Outcome State Fault Refusal :=
  go (let k := s.ctx c
    if chClass k = 3 ∧ s.legFet c ≠ .off then
      (s.inDieQ (chLink k) (fun s => (s.setF (CH_B_STAT_OVL k) 250).setChan k { s.chan k with ovl := 50000 })).trip k 3
    else s)

/-- STREAM_SAMPLE (R194, R195): a sample of a leg is written at WR of its ring, for a bridge and a ganged pair that of their own
context; one written while 63 are unread advances RD and sets STREAM_OVF; every CUE_N samples a STREAM cue carries WR. The ring is
not written during hold (R210). -/
def execStreamSample (c : Fin 132) (v : BitVec 16) (s : State) : Host.Outcome State Fault Refusal :=
  go (let c := s.ctx c
    if chClass c = 3 ∧ s.vis c ∧ s.on (CH_STREAM_EN c) then
    let wr := s.f (CH_STREAM_WR c)
    let full := (wr + 64 - s.f (CH_STREAM_RD c)) % 64 = 63
    let ring := if wr % 2 = 0 then CH_STREAM_RING_EVEN c (wr / 2) else CH_STREAM_RING_ODD c (wr / 2)
    let s := ((s.setF ring v.toNat).setF (CH_STREAM_WR c) ((wr + 1) % 64)).incMod (CH_STREAM_SEQ_SEQ c)
    let s := if full then (s.setF (CH_STREAM_RD c) ((s.f (CH_STREAM_RD c) + 1) % 64)).raise (CH_B_FLAG_STREAM_OVF c)
      (CH_B_FLAG_CNT_COUNT c) else s
    let k := (s.chan c).strN + 1
    if s.f (CH_STREAM_CUE_N c) ≤ k then
      (s.setChan c { s.chan c with strN := 0 }).chCue c 0x05 (s.f (CH_STREAM_WR c))
    else s.setChan c { s.chan c with strN := k }
  else s)

/-- STALL (R196): flagged, stamped and cued; with STALL_ACT 1 the die applies STOP and MODE reads OFF. -/
def State.stall (s : State) (c : Nat) : State :=
  let s := (s.raise (CH_B_FLAG_STALL c) (CH_B_FLAG_CNT_COUNT c)).chEventAt false (chIsland c) (s.islandSlate (chIsland c)) c 0x04 0
  if s.f (CH_B_STALL_STALL_ACT c) = 1 then
    let s := s.setModeOff c
    (s.turnOff c).stampCmd c 1 (chIsland c)
  else s

/-- STALL_DETECT (R196, R210): the current has stayed at or above ISTALL for TSTALL, outside PROFILE, by the words that the die
works with. -/
def execStallDetect (c : Fin 132) (s : State) : Host.Outcome State Fault Refusal :=
  go (if chClass c = 3 ∧ s.driven c ∧ s.ph c ≠ phPROFILE ∧ (s.asDie (chLink c)).on (CH_B_STALL_ISTALL c) then
    let t := s.inDie c (·.stall c)
    if s.vis c then t else t.storeEvent c 8 0
  else s)

/-! Boost rail (R198, R199) -/

/-- The rail voltage is measured: V_BST, CHARGING below VBST_SET unless charging pauses, and READY at 97 % of VBST_SET, which ends a
BST_FAIL (R199). -/
def State.setVbst (s : State) (v : Nat) : State :=
  let ready := 485 * SOL_BST_CFG_VBST_SET.get s.boost.cfg ≤ 100 * v
  let s := (s.setF SOL_BST_STAT_V_BST v).setF SOL_BST_STAT_READY (b2n ready)
  let s := s.setF SOL_BST_STAT_CHARGING (b2n (v < 5 * SOL_BST_CFG_VBST_SET.get s.boost.cfg && !s.on SOL_BST_STAT_PAUSED))
  if ready then { s with boost := { s.boost with failed := false } } else s

/-- VBST_OV in 0.1 V (R199): VBST_SET + 6 V, at most 60 V. -/
def State.vbstOv (s : State) : Nat := min (5 * SOL_BST_CFG_VBST_SET.get s.boost.cfg + 60) 600

/-- What happens on SD0 reaches the logic die's registers while it is adopted (R210, R218). -/
def State.inSd0 (s : State) (k : State → State) : State := s.inDie 116 k

/-- BOOST_OVERVOLTAGE (R199): the recovery paths close. -/
def execBoostOvervoltage (v : BitVec 10) (s : State) : Host.Outcome State Fault Refusal :=
  go (s.inSd0 (fun s =>
    let s := s.setVbst v.toNat
    if s.vbstOv ≤ v.toNat ∧ !s.boost.closed then
      ({ s with boost := { s.boost with closed := true } }.raise SOL_FLAG_BST_OV SOL_FLAG_CNT_COUNT).stamp 28 0x01 0x06
        0x06 0x02 v.toNat
    else s))

/-- BOOST_OV_RELEASE (R199): below VBST_SET + 4 V the recovery paths reopen. -/
def execBoostOvRelease (v : BitVec 10) (s : State) : Host.Outcome State Fault Refusal :=
  go (s.inSd0 (fun s =>
    let s := s.setVbst v.toNat
    if v.toNat < 5 * SOL_BST_CFG_VBST_SET.get s.boost.cfg + 40 then { s with boost := { s.boost with closed := false } }
    else s))

/-- BOOST_UNDERVOLTAGE (R199): V_BST falls below V_FLOOR. -/
def execBoostUndervoltage (v : BitVec 10) (s : State) : Host.Outcome State Fault Refusal :=
  go (s.inSd0 (fun s =>
    let s := s.setVbst v.toNat
    if v.toNat < 5 * SOL_BST_CFG_V_FLOOR.get s.boost.cfg then
      (s.raise SOL_FLAG_BST_UV SOL_FLAG_CNT_COUNT).stamp 28 0x01 0x06 0x06 0x01 v.toNat
    else s))

/-- BOOST_FAIL (R199): 50 ms after charging start the rail is not READY; every rise is refused until it is. -/
def execBoostFail (s : State) : Host.Outcome State Fault Refusal :=
  go (s.inSd0 (fun s =>
    if s.f SOL_BST_STAT_V_BST * 100 < 485 * SOL_BST_CFG_VBST_SET.get s.boost.cfg then
      ({ s with boost := { s.boost with failed := true } }.raise SOL_FLAG_BST_FAIL SOL_FLAG_CNT_COUNT).stamp 28 0x01 0x06
        0x06 0x03 (s.f SOL_BST_STAT_V_BST)
    else s))

/-- BOOST_ENERGY_CHECK (R203, R204): at the end of a 10 µs interval the waiting channels are checked in order with the
rail voltage and the energies drawn so far; the next interval begins. -/
def execBoostEnergyCheck (v : BitVec 10) (drawn : List (Fin 16 × BitVec 16)) (s : State) :
    Host.Outcome State Fault Refusal :=
  go (s.inSd0 (fun s =>
    let s := drawn.foldl (fun s (e : Fin 16 × BitVec 16) =>
      let c := 116 + e.1.val
      if s.sp c = spRISE then
        (s.setDieCh c { s.dieCh c with eDrawn := e.2.toNat }).setF (CH_S_STAT_E_DRAWN c) e.2.toNat
      else s) (s.setVbst v.toNat)
    let s := s.boostCheckList s.waiters
    { s with boost := { s.boost with nextWait := s.boost.nextWait + 1 } }))

/-! Solenoid phases (R200) -/

/-- OVERLAP_TIMEOUT (R200): T_DEFER expires without a pass. -/
def execOverlapTimeout (j : Fin 16) (s : State) : Host.Outcome State Fault Refusal :=
  go (if s.sp (116 + j) = spWAIT then s.inDie (116 + j) (·.overlapRefuse (116 + j)) else s)

/-- The phase after a rise: PEAK, or HOLD with TPEAK 0 (R200); HOLD ends the run, and a retry that reaches it clears a
SHORT or OVERTEMP verdict (R163). -/
def State.toHold (s : State) (c : Nat) : State :=
  let retry := (s.chan c).retryRun
  let s := (((s.runEnd c).setSp c spHOLD)).shUpdate ((c - 116) / 4)
  if retry ∧ (s.f (CH_VERDICT_VERDICT c) = 9 ∨ s.f (CH_VERDICT_VERDICT c) = 8) then s.setVerdict c 1 else s

/-- The end of RISE into PEAK, or into HOLD with TPEAK 0 (R200). -/
def State.toPeak (s : State) (c : Nat) : State :=
  if s.f (CH_S_TIME_TPEAK c) = 0 then s.toHold c else (s.setSp c spPEAK).shUpdate ((c - 116) / 4)

/-- A solenoid runs in a phase of R200, its clock not stopped by a pause (R178). -/
def State.runsIn (s : State) (c sp : Nat) : Bool := s.sp c = sp && s.ph c ≠ phPAUSED

/-- SOLENOID_PEAK_REACHED (R200): the current reaches IPEAK. -/
def execSolenoidPeakReached (j : Fin 16) (s : State) : Host.Outcome State Fault Refusal :=
  go (if s.runsIn (116 + j) spRISE then s.inDie (116 + j) (·.toPeak (116 + j)) else s)

/-- RISE_TIMEOUT (R200): TRISE_MAX expires; below IPEAK / 4 the load is open and the channel quenches. -/
def execRiseTimeout (j : Fin 16) (i : BitVec 12) (s : State) : Host.Outcome State Fault Refusal :=
  go (let c := 116 + j.val
    if s.runsIn c spRISE then
      s.inDie c (fun s =>
        let s := s.raise (CH_S_FLAG_RISE_TIMEOUT c) (CH_S_FLAG_CNT_COUNT c)
        if 4 * i.toNat < s.f (CH_S_CFG_IPEAK c) then (s.quench c phOFF).evidence c 5 else s.toPeak c)
    else s)

/-- PEAK_TIME_END (R200). -/
def execPeakTimeEnd (j : Fin 16) (s : State) : Host.Outcome State Fault Refusal :=
  go (if s.runsIn (116 + j) spPEAK then s.inDie (116 + j) (·.toHold (116 + j)) else s)

/-- The end of a quench (R200): OFF, stamped; where MODE reads ON the OFF rows apply. A channel that a trip, a fuse or an ended
pause has quenched takes the phase that they give (R164, R178, R180). -/
def State.quenchEnd (s : State) (c : Nat) : State :=
  let p := (s.dieCh c).after
  let s := ((s.setSp c spOFF).shUpdate ((c - 116) / 4)).stampCmd c 1 (chIsland c)
  if p ≠ phOFF then (s.setDieCh c { s.dieCh c with after := phOFF }).setPh c p
  else if s.modeOf c = 1 ∧ s.vis c then s.solTurnOn c else s

/-- QUENCH_END (R200): the current of a quench falls below 2 units. -/
def execQuenchEnd (j : Fin 16) (s : State) : Host.Outcome State Fault Refusal :=
  go (if s.sp (116 + j) = spQUENCH then s.inDie (116 + j) (·.quenchEnd (116 + j)) else s)

/-- DUTY_TRUNCATION (R206): the on-time of a channel from RISE to HOLD reaches LIMIT % of WIN. -/
def execDutyTruncation (j : Fin 16) (s : State) : Host.Outcome State Fault Refusal :=
  go (let c := 116 + j.val
    if spRISE ≤ s.sp c ∧ s.sp c ≤ spHOLD then
      s.inDie c (fun s =>
        (((((s.captureDiscard c).quench c phOFF).setModeOff c).setF (CH_S_STAT_DUTY_USED c) (s.f (CH_S_BUDGET_LIMIT c))).raise
          (CH_S_FLAG_DUTY_TRUNC c) (CH_S_FLAG_CNT_COUNT c)).chEvent c 0x09 0)
    else s)

/-- CHOP_SHORT (R208): sixteen fast switching cycles open the low-side through the trip latch. -/
def execChopShort (j : Fin 16) (s : State) : Host.Outcome State Fault Refusal :=
  go (if spRISE ≤ s.sp (116 + j) ∧ s.sp (116 + j) ≤ spHOLD then s.trip (116 + j) 4 else s)

/-- A group trip in SOL_FLAG, stamped with SD0's slate (R209). -/
def State.shFlag (s : State) (k : Nat) (t : Slate) (cor : Bool) : State :=
  (s.raiseBits SOL_FLAG_SH_TRIP SOL_FLAG_CNT_COUNT (2 ^ k)).offerRec
    { slate := t, kind := 0x01, index := 0x06, unit := 0x06, event := 0x04, island := 28, corrected := cor,
      data := BitVec.ofNat 128 k }

/-- SH_GROUP_TRIP (R209): the group latches as TRIPPED and its members in RISE, PEAK or HOLD quench; while SD0 is not live the
event waits for its adoption (R218). -/
def execShGroupTrip (k : Fin 4) (s : State) : Host.Outcome State Fault Refusal :=
  go (let s := if bitOf s.boost.shTrip k then s else { s with boost := { s.boost with shTrip := s.boost.shTrip + 2 ^ k.val } }
    let t := s.inSd0 (fun s => (s.shUpdate k).shFlag k (s.islandSlate 28) false)
    let t := if s.vis 116 then t else t.storeEvent (116 + 4 * k) 12 k
    (shMembers k).foldl (fun s c => if spRISE ≤ s.sp c ∧ s.sp c ≤ spHOLD then s.trip c 5 else s) t)

end Sys2Proof.Machine
end

