-- ==== Sys2Proof/Machine/Ledger.lean ====
section
/-! DEFINITION. The dissipation ledger (06_protection_ledger.md, R168 to R182): the die and wire models, permits, pauses,
caps, fuses, stale input and seeding. Model temperatures are in 2⁻²⁰ °C, powers in pW; where the exact quotient of a
model equation lies between two steps of a state, the part rounds as it does (log entry 8). -/

namespace Sys2Proof.Machine

/-! Parameters and readings -/

/-- The model of a die. -/
def State.ldgDie (s : State) (n : Nat) : LdgDie := tget (fun _ => {}) s.ldg.dies n

/-- Put the model of a die. -/
def State.setLdgDie (s : State) (n : Nat) (x : LdgDie) : State :=
  { s with ldg := { s.ldg with dies := tset (fun _ => {}) s.ldg.dies n x } }

/-- The model of a wire entry. -/
def State.ldgWire (s : State) (w : Nat) : LdgWire := tget (fun _ => {}) s.ldg.wires w

/-- Put the model of a wire entry. -/
def State.setLdgWire (s : State) (w : Nat) (x : LdgWire) : State :=
  { s with ldg := { s.ldg with wires := tset (fun _ => {}) s.ldg.wires w x } }

/-- One degree in the models' unit. -/
def oneK : Int := 1048576

/-- A model temperature from a signed register value in 1/16 °C. -/
def fromSixteenth (x : Nat) : Int := signed 16 x * 65536

/-- A model temperature as the registers show it, signed in 1/16 °C. -/
def toSixteenth (bit : Nat) (t : Int) : Nat := unsigned 16 (divFree bit t 65536)

/-- The class unit of a channel in mA (R117, R118). -/
def chUnit (c : Nat) : Nat := match chClass c with | 0 => 50 | 1 => 20 | 2 => 5 | 3 => 20 | _ => 5

/-- The 25 °C maximum of the channel's Rdson in µΩ (R117, R170). -/
def chRdson (c : Nat) : Nat := match chClass c with | 0 => 3000 | 1 => 12000 | 2 => 60000 | 3 => 4800 | _ => 36000

/-- The mean current of a channel in the interval just ended, in mA. -/
def State.chCurrent (s : State) (c : Nat) : Nat := (s.chan c).lastI * chUnit c

/-- The loss of a channel in pW (R170): the larger of I × VDS and I² × Rdson at the model's T_J. -/
def State.chLoss (s : State) (bit c : Nat) (tj : Int) : Nat :=
  let i := s.chCurrent c
  let hot := if 25 * oneK < tj then tj - 25 * oneK else 0
  max (i * (s.chan c).lastV * 1000000)
    (divFree bit ((i * i * chRdson c : Nat) * (185 * oneK + hot)) (185 * oneK)).toNat

/-- The wire entry that a channel names; a half of a ganged pair counts on its even context's entry (R122, R173). -/
def State.chWire (s : State) (c : Nat) : Nat := s.f (CH_WIRE_WIRE (if s.on (CH_CFG_ODD c) then c - 1 else c))

/-- The summed feed current in mA of the interval just ended, from the feed result slots in 10 mA (R69, R420). -/
def State.feedNow (s : State) : Int :=
  10 * (signed 16 (s.f ⟨MEAS_SLOT_VAL 0x61, 0, 16⟩) + signed 16 (s.f ⟨MEAS_SLOT_VAL 0x63, 0, 16⟩))

/-- The ambient temperature of a wire entry (AMB_SRC, R174): a temperature slot that has no value yet gives its FALLBACK. -/
def State.wireAmbient (s : State) (w : Nat) : Int :=
  let a := s.f (LDG_W1_AMB_SRC w)
  if 1 ≤ a ∧ a ≤ 0x3F then fromSixteenth (s.f ⟨MEAS_SLOT_VAL (0x80 + a), 0, 16⟩)
  else if 0x41 ≤ a ∧ a ≤ 0x4D then fromSixteenth (s.f (LDG_DP_T_P (a - 0x40)))
  else signed 8 (s.f (LDG_W4_AMB_CONST w)) * oneK

/-! Models (R169 to R173) -/

/-- The change of a model node in one step: numerator over capacitance, none where the Script gives no capacitance. -/
def nodeStep (bit : Nat) (num den : Int) (c : Nat) : Int := if c = 0 then 0 else divFree bit num (den * c)

/-- One step of a die's model (R169 to R171), with the power of the die in pW and the hottest sensor. -/
def State.dieStep (s : State) (bit n p : Nat) (hot : Int) : State :=
  let d := s.ldgDie n
  let jd := s.f (LDG_DG0_G_JD n) * (d.tj - d.td)
  let ds := s.f (LDG_DG0_G_DS n) * (d.td - d.ts)
  let sf := s.f (LDG_DG1_G_SF n) * (d.ts - d.tf)
  let fp := s.f (LDG_DG1_G_FP n) * (d.tf - fromSixteenth (s.f (LDG_DP_T_P n)))
  let tj := d.tj + nodeStep bit ((p : Int) * oneK - 1000000000 * jd) 100000000000 (s.f (LDG_DC_C n 0))
  let td := d.td + nodeStep (bit / 2) (jd - ds) 100 (s.f (LDG_DC_C n 1))
  let ts := d.ts + nodeStep (bit / 4) (ds - sf) 100 (s.f (LDG_DC_C n 2))
  let tf := d.tf + nodeStep (bit / 8) (sf - fp) 100 (s.f (LDG_DC_C n 3))
  let tj := if tj < hot then hot else tj
  let s := s.setLdgDie n { d with tj := tj, td := td, ts := ts, tf := tf, p := p, uj := 0 }
  let s := (s.setF (LDG_DT0_T_J n) (toSixteenth (bit / 16) tj)).setF (LDG_DT0_T_D n) (toSixteenth (bit / 32) td)
  let s := (s.setF (LDG_DT1_T_S n) (toSixteenth (bit / 64) ts)).setF (LDG_DT1_T_F n) (toSixteenth (bit / 128) tf)
  s.setF (LDG_DP_P n) (min (divFree (bit / 256) (p : Int) 100000000000).toNat 0xFFFF)

/-- One step of a wire entry's model (R173). -/
def State.wireStep (s : State) (bit w : Nat) : State :=
  let x := s.ldgWire w
  let i := (List.range 132).foldl (fun a c => if s.chPresent c ∧ s.chWire c = w then a + s.chCurrent c else a) 0
  let ta := s.wireAmbient w
  let k := 1000000 * oneK + s.f (LDG_W1_TCR w) * (x.tc - 20 * oneK)
  let p : Int := (i * i * s.f (LDG_W0_RES20 w) : Nat) * k
  let ci := s.f (LDG_W3_GCI w) * (x.tc - x.ti)
  let ia := s.f (LDG_W3_GIA w) * (x.ti - ta)
  let tc := x.tc + nodeStep bit (p - 1000000000000000 * ci) 100000000000000000000 (s.f (LDG_W2_CC w))
  let ti := x.ti + nodeStep (bit / 2) (ci - ia) 100000 (s.f (LDG_W2_CI w))
  let s := s.setLdgWire w { tc := tc, ti := ti, p := (p / (1000000 * oneK)).toNat }
  let s := (s.setF (LDG_W5_T_C w) (toSixteenth (bit / 4) tc)).setF (LDG_W5_T_I w) (toSixteenth (bit / 8) ti)
  (s.setF (LDG_W6_T_A w) (toSixteenth (bit / 16) ta)).setF (LDG_W6_I_SUM w) (min (divFree (bit / 32) (i : Int) 100).toNat 0xFFFF)

/-! Actions (R182) -/

/-- An action of the ledger on a channel: recorded in LAST_ACTION, and stamped where its code differs from the channel's
LAST_ACTION before the step, or is a fuse or RESUME. A channel names one wire entry (CH_WIRE). -/
def State.ldgAct (s : State) (c code cap : Nat) : State :=
  let w := s.chWire c
  let named := w < 160
  let always := (0x0B ≤ code && code ≤ 0x0E) || code == 0x11
  let t := if always || s.ldg.last.getD c 0 ≠ code then
    s.stamp 13 0x07 c 0x04 code
      (code + c * 0x100 + s.f (LDG_DT0_T_J (chLink c)) * 2 ^ 16 +
       (if named then s.f (LDG_W5_T_C w) else 0x8000) * 2 ^ 32 + (if named then w else 0xFF) * 2 ^ 48 +
       chLink c * 2 ^ 56 + (if code ≤ 4 then cap else 0) * 2 ^ 60) else s
  t.setF (LDG_CHSTAT_LAST_ACTION c) code

/-- A step of the ledger begins: every LAST_ACTION before it is kept (R182). -/
def State.actBegin (s : State) : State :=
  { s with ldg := { s.ldg with last := (List.range 132).map (fun c => s.f (LDG_CHSTAT_LAST_ACTION c)) } }

/-! Prediction and permits (R176, R177) -/

/-- The channel has a running or paused inrush. -/
def State.inrush (s : State) (c : Nat) : Bool := s.on (LDG_CHSTAT_INRUSH c)

/-- E_rem of a channel in µJ (R176). -/
def State.eRem (s : State) (c : Nat) : Nat := 1000 * s.f (LDG_CHCFG_E_INRUSH c) - (s.reg (LDG_CHE c)).toNat

/-- The prediction of condition 1 of R176 for a die, in 10⁻⁶ × 2⁻²⁰ °C, with further energy in µJ. -/
def State.predict (s : State) (n more : Nat) : Int :=
  let e := (linkChans n).foldl (fun a c => if s.inrush c then a + s.eRem c else a) more
  1000000 * (s.ldgDie n).tj + (65536 * (s.f (LDG_DZ_ZTH n) * e) : Nat)

/-- A threshold in °C as the prediction counts. -/
def predOf (deg : Int) : Int := 1000000 * (deg * oneK)

/-- The peak ceiling of a channel in mA (R176): the highest ICEIL before END, ITRIP in profile MODE 0, IPEAK of a
solenoid; a ganged pair counts in twice the class unit (R122). -/
def State.peakCeil (s : State) (c : Nat) : Nat :=
  let u := if s.on (CH_CFG_GANG c) then 2 * chUnit c else chUnit c
  let pts := (s.profWords c).drop 1
  let last := match endPoint pts with | some n => n | none => 16
  u * (if chClass c = 4 then s.f (CH_S_CFG_IPEAK c)
       else if s.on (CH_PROF_CTL_MODE c) then (pts.take last).foldl (fun m w => max m (profI w)) 0
       else s.f (CH_TRIP_CFG_ITRIP c))

/-- The present current of a channel, with its odd half where it is ganged, in mA (R122). -/
def State.pairCurrent (s : State) (c : Nat) : Nat :=
  s.chCurrent c + (if s.on (CH_CFG_GANG c) then s.chCurrent (c + 1) else 0)

/-- The feed current that the running inrushes may still add, in mA (condition 3 of R176): those that are not paused. -/
def State.feedInrush (s : State) : Int :=
  (List.range 132).foldl (fun (a : Int) c =>
    if s.inrush c ∧ s.ph c ≠ phPAUSED then a + s.peakCeil c - s.pairCurrent c else a) 0

/-- The 1 ms mean module dissipation is at or above its limit (condition 4). -/
def State.modFull (s : State) : Bool :=
  s.f LDG_LIMIT_MOD_LIMIT * 100000000000 * s.ldg.modHist.length ≤ s.ldg.modHist.sum && !s.ldg.modHist.isEmpty

/-- The code of R182 with which a candidate is refused a permit, 0 where all conditions of R176 and R167 hold; where several fail
the first of die, wire, feed, module, inrush and stale input is recorded (log entry 60). `more` and `feed` are the reservations of
pending candidates of the same die and of the feed. -/
def State.permitCode (s : State) (c more : Nat) (feed : Int) : Nat :=
  let n := chLink c
  let w := s.chWire c
  let retry := s.ph c = phRETRY
  let release := (s.chan c).needRelease
  let x := s.ldgWire w
  let ceil : Int := s.f (LDG_DTH_TJ_CEIL n)
  let e := 1000 * s.f (LDG_CHCFG_E_INRUSH c)
  if predOf ceil ≤ s.predict n (more + e) ∨ (release ∧ (ceil - s.f (LDG_DTH_TJ_HYST n)) * oneK < (s.ldgDie n).tj) then 0x05
  else if w < 160 ∧ (s.f (LDG_W0_TMAX w) * oneK ≤ x.tc ∨
      ((retry ∨ release) ∧ ((s.f (LDG_W0_TMAX w) : Int) - s.f (LDG_W4_RELEASE_M w)) * oneK < x.tc)) then 0x0A
  else if 500 * (s.f LDG_LIMIT_FEED_LIMIT : Int) < s.feedNow + s.feedInrush + feed + s.peakCeil c then 0x06
  else if s.modFull then 0x07
  else if retry ∧ (linkChans n).any (fun k => s.ph k = phPROFILE ∨ s.ph k = phPAUSED) then 0x09
  else if 3 ≤ (s.ldgDie n).stale then 0x0F
  else 0

/-- A channel that the ledger decides a standing permit for (R176): its die is adopted, and it neither conducts nor is in
PROFILE. -/
def State.permitCandidate (s : State) (c : Nat) : Bool :=
  s.chPresent c && s.vis c && decide (s.ctx c = c) && !(s.dieCh c).out && s.ph c ≠ phPROFILE && s.ph c ≠ phPAUSED &&
  s.ph c ≠ phGANGED

/-- The candidate has a turn-on, a retry or a point-0 on-edge pending (R177): the on-edge of a PWM channel is one where it is the
first after OFF, RESTART was written, or the output has been off for REHEAT_T (R136). -/
def State.permitPending (s : State) (c : Nat) : Bool :=
  let x := s.chan c
  (s.ph c = phDEFERRED && !x.delayRun && (chClass c ≠ 4 || s.sp c = spOFF)) ||
  (s.ph c = phRETRY && x.retryPend) ||
  (s.ph c = phPWM && 0 < s.effDuty c && (x.first || (chClass c < 3 &&
    (x.restart || ctlReheat (s.edgeCtl c) * 125000 ≤ s.now - x.offAt))))

/-- The order in which candidates are considered (R177): DEFERRED channels in the order of their deferral, then reflex
targets, then the rest, each by ascending index. -/
def State.permitOrder (s : State) : List Nat :=
  let cand := (List.range 132).filter s.permitCandidate
  let d := (cand.filter (fun c => s.ph c = phDEFERRED)).mergeSort (fun a b => (s.chan a).deferNo ≤ (s.chan b).deferNo)
  let rest := cand.filter (fun c => s.ph c ≠ phDEFERRED)
  d ++ rest.filter (fun c => s.on (CH_CFG_REFLEX c)) ++ rest.filter (fun c => !s.on (CH_CFG_REFLEX c))

/-- Put a standing permit and send it to the die when it changes. -/
def State.setPermit (s : State) (c : Nat) (v : Bool) : State :=
  if s.on (LDG_CHSTAT_PERMIT c) = v then s
  else (s.setF (LDG_CHSTAT_PERMIT c) (b2n v)).sendCh c (fun k => .param k 0 (b2n v))

/-- What a granted permit starts at once: a deferred turn-on or a waiting retry; in PWM it waits for the on-edge
(R134, R164, R177, R200). -/
def State.permitStart (s : State) (c : Nat) : State :=
  if s.ph c = phRETRY then (if s.mayRetry c then s.retryStart c else s)
  else if s.ph c = phDEFERRED then
    if chClass c = 4 then
      (if s.sp c ≠ spOFF ∨ !s.mayStart c ∧ s.f PWR_FEED_STAT_BAND ≠ 1 then s else (s.setPh c phOFF).solTurnOn c)
    else if (chClass c < 3 ∧ s.f (CH_CMD_MODE c) = 2) ∨ (s.dieCh c).revWait then s
    else if !s.mayStart c then s
    else if s.revPending c then s.setRev c true
    else (s.startRun c false).motUpdate c
  else s

/-- One candidate of a step (R176, R177), with the reservations of the pending ones that have not started, as energies
per die and a feed current. -/
def State.permitOne (s : State) (c : Nat) (resv : List (Nat × Nat)) (feed : Int) : State × List (Nat × Nat) × Int :=
  let more := resv.foldl (fun a e => if e.1 = chLink c then a + e.2 else a) 0
  let code := s.permitCode c more feed
  if code = 0 then
    let pend := s.permitPending c
    let t := s.setPermit c true
    let t := if pend then t.permitStart c else t
    if pend ∧ !t.inrush c then (t, (chLink c, 1000 * s.f (LDG_CHCFG_E_INRUSH c)) :: resv, feed + s.peakCeil c)
    else (t, resv, feed)
  else
    let t := s.setPermit c false
    (if s.permitPending c then t.ldgAct c code 0 else t, resv, feed)

/-- The permits of a step. -/
def State.permits (s : State) : State :=
  (s.permitOrder.foldl (fun (x : State × List (Nat × Nat) × Int) c => x.1.permitOne c x.2.1 x.2.2) (s, [], 0)).1

/-! Pauses (R178) -/

/-- Pause a running inrush (R120, R134, R178): its ceiling is ICEIL_PAUSE, and 0 holds the channel off. -/
def State.pause (s : State) (c : Nat) : State :=
  let s := ((s.setPh c phPAUSED).raise (CH_FLAG_PAUSED c) (CH_FLAG_CNT_COUNT c)).incSat (CH_DEFERCNT_PAUSE c)
  let s := (s.setChan c { s.chan c with capSup := true }).setOut c (s.on (CH_PAUSE_ICEIL_PAUSE c) && (s.dieCh c).out)
  (s.ldgAct c 0x08 0).sendCh c (fun k => .param k 3 1)

/-- Resume a paused inrush at the ceiling then in force (R134, R178). -/
def State.resume (s : State) (c : Nat) : State :=
  let s := (s.setPh c phPROFILE).setOut c (!s.ceilZero c (s.dieCh c).point)
  (s.ldgAct c 0x11 0).sendCh c (fun k => .param k 3 0)

/-- The channel of a list with the highest key, the first among equals. -/
def highest (key : Nat → Nat) (l : List Nat) : Option Nat :=
  l.foldl (fun (b : Option Nat) c => match b with | none => some c | some k => if key k < key c then some c else some k) none

/-- The channel of a list with the lowest key, the first among equals. -/
def lowestBy (key : Nat → Nat) (l : List Nat) : Option Nat :=
  l.foldl (fun (b : Option Nat) c => match b with | none => some c | some k => if key c < key k then some c else some k) none

/-- The pause or resumption of a step on a die (R178): at the ceiling the running inrush with the latest gate onset pauses;
below it by the hysteresis the paused inrush with the earliest onset resumes. A die whose input is stale pauses none (R181). -/
def State.pauses (s : State) (bit n : Nat) : State :=
  let p := s.predict n 0
  let s := s.setF (LDG_DX_T_PRED n) (unsigned 16 (divFree bit p (1000000 * 65536)))
  let ceil : Int := s.f (LDG_DTH_TJ_CEIL n)
  let inr := (linkChans n).filter s.inrush
  if !s.live n then s
  else if predOf ceil ≤ p then
    if 3 ≤ (s.ldgDie n).stale then s
    else match highest (fun c => (s.chan c).onsetNo) (inr.filter (fun c => s.ph c = phPROFILE)) with
      | some c => s.pause c
      | none => s
  else if p < predOf (ceil - s.f (LDG_DTH_TJ_HYST n)) then
    match lowestBy (fun c => (s.chan c).onsetNo) (inr.filter (fun c => s.ph c = phPAUSED)) with
    | some c => s.resume c
    | none => s
  else s

/-! Caps (R179) -/

/-- The lower of two caps, each with the code of its term; of two equal ones the first stands, in the order die, wire, module, feed
(log entry 61). -/
def lowerCap (a b : Nat × Nat) : Nat × Nat := if b.1 < a.1 then b else a

/-- The sum and length of a 1 ms mean's window, at least one step long: while fewer than 100 steps have passed since seeding the mean
is over the steps there are (log entry 62). -/
def State.modMean (s : State) : Nat × Nat := (s.ldg.modHist.sum, max 1 s.ldg.modHist.length)
def State.feedMean (s : State) : Int × Nat := (s.ldg.feedHist.sum, max 1 s.ldg.feedHist.length)

/-- The cap of a cappable channel and the action code of the term that gives it. -/
def State.capOf (s : State) (bit c : Nat) : Nat × Nat :=
  let n := chLink c
  let w := s.chWire c
  let ceil : Int := s.f (LDG_DTH_TJ_CEIL n)
  let low : Int := s.f (LDG_DZ_CAP_MIN n)
  let span : Int := (ceil - s.f (LDG_DTH_TJ_DERATE n)) * oneK
  let die : Int := if span ≤ 0 then 1024 else
    clampI low 1024 (low + divFree bit ((1024 - low) * (ceil * oneK - (s.ldgDie n).tj)) span)
  let wspan : Int := s.f (LDG_W4_DERATE_M w) * oneK
  let wire : Int := if 160 ≤ w ∨ wspan ≤ 0 then 1024 else
    clampI 0 1024 (divFree (bit / 2) (1024 * (s.f (LDG_W0_TMAX w) * oneK - (s.ldgWire w).tc)) wspan)
  let m := s.modMean
  let ml := s.f LDG_LIMIT_MOD_LIMIT * 100000000000 * m.2
  let mod : Int := if ml < m.1 then divFree (bit / 4) (1024 * (ml : Int)) m.1 else 1024
  let i := s.feedMean
  let fl : Int := 500 * (s.f LDG_LIMIT_FEED_LIMIT * i.2 : Nat)
  let feed : Int := if fl < i.1 then divFree (bit / 8) (1024 * fl) i.1 else 1024
  lowerCap (lowerCap (lowerCap (die.toNat, 0x01) (wire.toNat, 0x02)) (mod.toNat, 0x03)) (feed.toNat, 0x04)

/-- The cap of a channel in a step: sent when it has moved by 8 or more, or returns to 1024; frozen on a die with stale
input (R181). -/
def State.cap (s : State) (bit c : Nat) : State :=
  if !s.chPresent c ∨ !s.vis c ∨ s.ctx c ≠ c ∨ 3 ≤ (s.ldgDie (chLink c)).stale then s
  else
    let able := s.ph c = phPWM ∨ (s.ph c = phON ∧ s.on (LDG_CHCFG_CAP_ON c))
    let r := if able then s.capOf bit c else (1024, 0)
    let old := s.f (LDG_CHSTAT_CAP c)
    if 8 ≤ (if old < r.1 then r.1 - old else old - r.1) ∨ (r.1 = 1024 ∧ old ≠ 1024) then
      let t := ((s.setF (LDG_CHSTAT_CAP c) r.1).setF (CH_STATUS_CAPPED c) (b2n (r.1 < 1024))).sendCh c (fun k => .param k 1 r.1)
      if r.1 < 1024 then t.ldgAct c r.2 r.1 else t
    else s

/-! Fuses (R180) -/

/-- Open a channel as a fuse (R134, R180). A solenoid quenches first, with FUSED in store (R200). -/
def State.fuse (s : State) (c code : Nat) : State :=
  let s := if chClass c = 4 then s.quench c phFUSED else ((s.runEnd c).setOut c false).setPh c phFUSED
  let s := if chClass c = 3 then (s.setRev c false).setBraking c false else s
  let s := s.setDieCh c { s.dieCh c with fuse := true, budgetRun := 0 }
  let s := s.setChan c { s.chan c with needRelease := true, deferNo := 0, retryPend := false, capSup := true }
  let s := ((s.raise (CH_FLAG_FUSED c) (CH_FLAG_CNT_COUNT c)).raise LDG_FLAG_FUSE LDG_FLAG_CNT_COUNT).evidence c 7
  ((s.ldgAct c code 0).motUpdate c).sendCh c (fun k => .param k 4 1)

/-- A conducting channel that the ledger may fuse. -/
def State.fusable (s : State) (c : Nat) : Bool := s.chPresent c && s.vis c && decide (s.ctx c = c) && s.driven c

/-- The wire fuses of a step: every conducting channel that names an entry at or above TMAX. -/
def State.wireFuses (s : State) : State :=
  (List.range 132).foldl (fun s c =>
    let w := s.chWire c
    if s.fusable c ∧ w < 160 ∧ s.f (LDG_W0_TMAX w) * oneK ≤ (s.ldgWire w).tc then s.fuse c 0x0B else s) s

/-- The die fuse of a step: at TJ_FUSE the conducting FUSE_OK channel with the highest loss. -/
def State.dieFuse (s : State) (bit n : Nat) : State :=
  if 0 < s.f (LDG_DTH_TJ_FUSE n) ∧ s.f (LDG_DTH_TJ_FUSE n) * oneK ≤ (s.ldgDie n).tj then
    match highest (fun c => s.chLoss bit c (s.ldgDie n).tj) ((linkChans n).filter (fun c => s.fusable c ∧ s.on (LDG_CHCFG_FUSE_OK c))) with
    | some c => s.fuse c 0x0C
    | none => s
  else s

/-- Shed one channel (R180): SHED_RANK first, then the mean current for the feed or the loss for the module, then the
lower index. -/
def State.shedOne (s : State) (bit : Nat) (feed : Bool) : State :=
  let l := (List.range 132).filter (fun c => s.fusable c ∧ s.on (LDG_CHCFG_SHED_RANK c))
  let top := l.foldl (fun m c => max m (s.f (LDG_CHCFG_SHED_RANK c))) 0
  let l := l.filter (fun c => s.f (LDG_CHCFG_SHED_RANK c) = top)
  match highest (fun c => if feed then s.chCurrent c else s.chLoss bit c (s.ldgDie (chLink c)).tj) l with
  | some c => s.fuse c (if feed then 0x0D else 0x0E)
  | none => s

/-- The 1 ms means exceed their limits. -/
def State.feedExceeded (s : State) : Bool := 500 * (s.f LDG_LIMIT_FEED_LIMIT * s.feedMean.2 : Nat) < s.feedMean.1
def State.modExceeded (s : State) : Bool := s.f LDG_LIMIT_MOD_LIMIT * 100000000000 * s.modMean.2 < s.modMean.1

/-- The limits of a step: the means are shown, an exceeded limit is flagged at its onset and its steps counted, and
shedding goes on while it stays exceeded. -/
def State.limits (s : State) (bit : Nat) : State :=
  let s := s.setF LDG_SUM_FEED_I (clampI 0 0xFFFF (divFree bit s.feedMean.1 (100 * s.feedMean.2))).toNat
  let s := s.setF LDG_SUM_MOD_P (clampI 0 0xFFFF (divFree (bit / 2) s.modMean.1 (100000000000 * s.modMean.2))).toNat
  let fe := s.feedExceeded
  let me := s.modExceeded
  let s := if fe ∧ s.ldg.feedOver = 0 then s.raise LDG_FLAG_FEED_OVER LDG_FLAG_CNT_COUNT else s
  let s := if me ∧ s.ldg.modOver = 0 then s.raise LDG_FLAG_MOD_OVER LDG_FLAG_CNT_COUNT else s
  let s := { s with ldg := { s.ldg with
    feedOver := if fe then s.ldg.feedOver + 1 else 0, modOver := if me then s.ldg.modOver + 1 else 0,
    shedFeed := s.ldg.shedFeed && fe, shedMod := s.ldg.shedMod && me } }
  let s := if s.ldg.shedFeed then s.shedOne (bit / 4) true else s
  if s.ldg.shedMod then s.shedOne (bit / 8) false else s

/-! The step -/

/-- The input of a die for a step (R168, R181): its sensors where its report arrived; otherwise the step is stale. The die's bit in
LDG_STAT falls with the next report that arrives (log entry 63). -/
def State.dieInput (s : State) (reads : List DieReading) (n : Nat) : State :=
  match reads.find? (fun r => r.link.val = n) with
  | some r =>
    let s := s.setF (LDG_DP_T_P n) r.tp.toNat
    (s.setLdgDie n { s.ldgDie n with stale := 0, ok := (s.ldgDie n).ok + 1, hot := fromSixteenth r.hot.toNat }).setF
      ⟨LDG_STAT, 16 + n, 1⟩ 0
  | none => s.setLdgDie n { s.ldgDie n with stale := (s.ldgDie n).stale + 1, ok := 0 }

/-- E_USED and on-time of a channel over the interval: dissipation in an inrush counts in µJ, conduction in seconds. -/
def State.chStep (s : State) (bit c : Nat) : State :=
  let s := if s.inrush c then
    let e := s.chLoss bit c (s.ldgDie (chLink c)).tj + (s.chan c).eRem
    (s.setReg (LDG_CHE c) (BitVec.ofNat 32 (min ((s.reg (LDG_CHE c)).toNat + e / 100000000000) 0xFFFFFFFF))).setChan c
      { s.chan c with eRem := e % 100000000000 } else s
  if s.on (CH_STATUS_CONDUCTING c) then
    let u := (s.chan c).onUs + 10
    if 1000000 ≤ u then (s.incSat (CH_ONTIME_SECONDS c)).setChan c { s.chan c with onUs := u - 1000000 }
    else s.setChan c { s.chan c with onUs := u }
  else s

/-- The links that carry a power die on the part. -/
def State.dieLinks (s : State) : List Nat := (List.range 14).filter s.diePresent

/-- The models of a step: inputs, energies, dies and wires, and the two means. -/
def State.models (s : State) (bit : Nat) (reads : List DieReading) : State :=
  let s := s.dieLinks.foldl (fun s n => s.dieInput reads n) s
  let s := (List.range 132).foldl (fun s c => if s.chPresent c then s.chStep (bit / 2 ^ c) c else s) s
  let s := s.dieLinks.foldl (fun s n =>
    let p := (linkChans n).foldl (fun a c => a + s.chLoss (bit / 2 ^ (200 + c)) c (s.ldgDie n).tj)
      ((s.ldgDie n).uj * 100000000000)
    s.dieStep (bit / 2 ^ (400 + 16 * n)) n p (s.ldgDie n).hot) s
  let s := (List.range 160).foldl (fun s w => s.wireStep (bit / 2 ^ (700 + 8 * w)) w) s
  let pm := s.dieLinks.foldl (fun a n => a + (s.ldgDie n).p) (s.f LDG_CFG_LOGIC_P * 100000000000)
  { s with ldg := { s.ldg with modHist := (pm :: s.ldg.modHist).take 100, feedHist := (s.feedNow :: s.ldg.feedHist).take 100 } }

/-- The ledger runs: RUNNING, in Run and Idle (R168, R183). -/
def State.ledgerRuns (s : State) : Bool := s.on LDG_STAT_RUNNING && s.clocked 13

/-- LEDGER_STEP (R168 to R181): the models, then fuses, limits, pauses, caps and permits. Where the ledger does not run it does not
step. -/
def State.ledgerStep (s : State) (reads : List DieReading) : State :=
  if !s.ledgerRuns then s
  else
    let bit := s.draw
    let s := s.drawn.actBegin.models bit reads
    let s := s.wireFuses
    let s := s.dieLinks.foldl (fun s n => s.dieFuse (bit / 2 ^ 2100) n) s
    let s := s.limits (bit / 2 ^ 2101)
    let s := s.dieLinks.foldl (fun s n => s.pauses (bit / 2 ^ (2110 + n)) n) s
    let s := (List.range 132).foldl (fun s c => s.cap (bit / 2 ^ (2200 + 4 * c)) c) s
    s.permits

/-- LEDGER_STEP. -/
def execLedgerStep (reads : List DieReading) (s : State) : Host.Outcome State Fault Refusal := go (s.ledgerStep reads)

/-- LIMIT_T_EXPIRE (R180): a mean has exceeded its limit for LIMIT_T, counted in steps of 10 µs; shedding begins with one
channel. -/
def execLimitTExpire (s : State) : Host.Outcome State Fault Refusal :=
  go (if !s.ledgerRuns then s
  else
    let t := 1000 * s.f LDG_LIMIT_LIMIT_T
    let bit := s.draw
    let s := s.drawn.actBegin
    let f := s.feedExceeded && t ≤ s.ldg.feedOver
    let m := s.modExceeded && t ≤ s.ldg.modOver
    let s := { s with ldg := { s.ldg with shedFeed := s.ldg.shedFeed || f, shedMod := s.ldg.shedMod || m } }
    let s := if f then s.shedOne bit true else s
    if m then s.shedOne (bit / 2) false else s)

/-- A paused turn-on ends without fault (R178): its reservation is released and it waits as DEFERRED, a solenoid once its quench has
ended (R200). -/
def State.pauseMax (s : State) (c : Nat) : State :=
  let s := if chClass c = 4 then s.quench c phDEFERRED else (s.runEnd c).setOut c false
  let s := s.setDieCh c { s.dieCh c with budgetRun := 0 }
  let t := s.defer c
  let t := if chClass c = 4 then t.setPh c phOFF else t
  ((t.raise LDG_FLAG_PAUSE_MAX LDG_FLAG_CNT_COUNT).ldgAct c 0x10 0).motUpdate c

/-- PAUSE_MAX_EXPIRE (R178, R218): a channel paused longer than PAUSE_MAX. -/
def execPauseMaxExpire (c : Fin 132) (s : State) : Host.Outcome State Fault Refusal :=
  go (if s.ph c = phPAUSED then s.actBegin.inDie c (·.pauseMax c) else s)

/-- STALE_THRESHOLD (R181): after 3 stale steps no channel of the die holds a permit; after 100 STALE is set and the
die's bit raised. -/
def execStaleThreshold (n : Fin 14) (s : State) : Host.Outcome State Fault Refusal :=
  go (if !s.diePresent n then s
  else
    let k := (s.ldgDie n).stale
    let s := if 3 ≤ k then (linkChans n).foldl (fun s c => s.setPermit c false) s else s
    if 100 ≤ k then (s.raise LDG_FLAG_STALE LDG_FLAG_CNT_COUNT).setF ⟨LDG_STAT, 16 + n.val, 1⟩ 1 else s)

/-! Seeding (R175) -/

/-- The largest v with v^q × 2^p ≤ d^q, that is ⌊d × 2^(−p/q)⌋, found bit by bit from the top. -/
def coolRoot (d p q : Nat) : Nat → Nat → Nat
  | 0, v => v
  | k + 1, v => coolRoot d p q k (if (v + 2 ^ k) ^ q * 2 ^ p ≤ d ^ q then v + 2 ^ k else v)

/-- A temperature difference after cooling for `p` units with a half-life of `q` units (R175). -/
def cooled (bit : Nat) (d : Int) (p q : Nat) : Int :=
  let m := d.natAbs
  let v := if q = 0 ∨ 32 * q ≤ p then 0 else coolRoot m p q 32 0
  let v := if p = 0 ∨ m = 0 ∨ q = 0 then v else v + bit % 2
  if d < 0 then -(v : Int) else v

/-- Put the states of a wire entry and show them. -/
def State.seedWire (s : State) (bit w : Nat) (x : LdgWire) : State :=
  ((s.setLdgWire w x).setF (LDG_W5_T_C w) (toSixteenth bit x.tc)).setF (LDG_W5_T_I w) (toSixteenth (bit / 2) x.ti)

/-- The seed of a wire entry: 0 cold boot, 1 warm boot, 2 exit from Sleep or Deep sleep. -/
def State.wireSeed (s : State) (kind gapUs bit w : Nat) : State :=
  let ta := s.wireAmbient w
  let x := s.ldgWire w
  let kept := (List.range 132).any (fun c => s.on (CH_CFG_KEPT c) ∧ s.f (CH_WIRE_WIRE c) = w)
  let half := s.f (LDG_W1_COOL_HALF w) * 1000
  let cc := s.f (LDG_W2_CC w)
  if kind = 0 then s.seedWire bit w { tc := ta + s.f LDG_CFG_COLD_MARGIN * oneK, ti := ta + s.f LDG_CFG_COLD_MARGIN * oneK, p := 0 }
  else if kind = 1 then
    s.seedWire bit w { x with tc := x.tc + nodeStep (bit / 4) ((gapUs * x.p : Nat) * oneK) 1000000000000000 cc }
  else if kept then s
  else s.seedWire bit w { x with tc := ta + cooled (bit / 4) (x.tc - ta) (gapUs / 1000) half,
                                 ti := ta + cooled (bit / 8) (x.ti - ta) (gapUs / 1000) half }

/-- The seed of a die (R175): J and D from the hottest sensor, S and F from T_P, in every kind of start. -/
def State.dieSeed (s : State) (bit : Nat) (r : DieReading) : State :=
  let n := r.link.val
  let h := fromSixteenth r.hot.toNat
  let p := fromSixteenth r.tp.toNat
  let s := (s.setLdgDie n { s.ldgDie n with tj := h, td := h, ts := p, tf := p, stale := 0, uj := 0, hot := h }).setF (LDG_DP_T_P n) r.tp.toNat
  let s := (s.setF (LDG_DT0_T_J n) (toSixteenth bit h)).setF (LDG_DT0_T_D n) (toSixteenth bit h)
  (s.setF (LDG_DT1_T_S n) (toSixteenth bit p)).setF (LDG_DT1_T_F n) (toSixteenth bit p)

/-- LEDGER_SEED (R175): the ledger seeds its models and steps from then on. -/
def execLedgerSeed (kind : Fin 3) (reads : List DieReading) (gapUs : BitVec 64) (s : State) :
    Host.Outcome State Fault Refusal :=
  go (if (s.boot.phase ≠ .adopt ∧ s.boot.phase ≠ .run) ∨ !s.clocked 13 then s else
    let bit := s.draw
    let s := reads.foldl (fun s r => if s.diePresent r.link then s.dieSeed bit r else s) s.drawn
    let s := (List.range 160).foldl (fun s w => s.wireSeed kind gapUs.toNat (bit / 2 ^ (8 * w)) w) s
    let s := { s with ldg := { s.ldg with modHist := [], feedHist := [], feedOver := 0, modOver := 0, shedFeed := false, shedMod := false } }
    (s.setF LDG_STAT_SEEDING 0).setF LDG_STAT_RUNNING 1)

end Sys2Proof.Machine
end

