-- ==== Sys2Proof/Machine/Hold.lean ====
section
/-! DEFINITION. Stage-link frames, die states, hold, fail-safe states and limp-home
(08_hold_failsafe_limphome.md), adoption (R115) and the Strongroom's registers for them. -/

namespace Sys2Proof.Machine

/-! Events of the Strongroom unit and of a link -/

/-- A record of unit STR (R283, R468): event and DATA, stamped in an island. -/
def State.stampStr (s : State) (isl event data : Nat) : State := s.stamp isl 0x01 0x2A 0x2A event data

/-- Several bits set in STR_FS_FLAG, with the link of the event. -/
def State.fsFlag (s : State) (flag : RF) (n : Nat) : State :=
  (s.raise flag STR_FS_FLAG_CNT_COUNT).setF STR_FS_FLAG_LAST_LINK n

/-- KA_EN of a link. -/
def State.kaEn (s : State) (n : Nat) : Bool := bitOf (s.f STR_KA_CTL_KA_EN) (n - 1)

/-- The fail-safe line is pulled (R230): a die is in FAILSAFE. -/
def State.fsLine (s : State) : Bool := (List.range 14).any (fun n => s.diePresent n && (s.die n).st = .failsafe)

/-- SAFE_N is low (R230); in Off it is released (R90). -/
def State.safeLow (s : State) : Bool :=
  !bitOf s.pwr.clamp 13 && (s.fsLine || s.on STR_PIN_CTL_SAFE || !s.boot.firstAdopt)

/-- ERR_N is low (R231); in Off it is released (R90). -/
def State.errLow (s : State) : Bool := !bitOf s.pwr.clamp 13 && (!s.boot.runSeen || s.on STR_PIN_CTL_ERR)

/-- The frame at the front of a link's queue, and the state without it. -/
def State.takeFrame (s : State) (n : Nat) : Option LinkFrame × State :=
  match (s.lnk n).tx with
  | [] => (none, s)
  | f :: rest => (some f, s.setLnk n { s.lnk n with tx := rest })

/-! Fail-safe application (R222, R223, R226, R228) -/

/-- Limp-home is in force on a die (R228). -/
def State.limpInForce (s : State) (n : Nat) : Bool :=
  let d := s.die n
  n ≤ 10 && d.st = .failsafe && d.arm && bitOf d.limp 8

/-- Show limp-home in STR_LIMP_STAT.IN_FORCE and STR_FS_FLAG. -/
def State.limpShow (s : State) (n : Nat) : State :=
  if n = 0 ∨ 10 < n then s
  else
    let v := s.limpInForce n
    let old := bitOf (s.f STR_LIMP_STAT_IN_FORCE) (n - 1)
    let s := s.setF ⟨STR_LIMP_STAT, 10 + n, 1⟩ (b2n v)
    if v ∧ !old then s.fsFlag STR_FS_FLAG_LIMP_USED n else s

/-- The entry of the fail-safe table that a die uses for a channel in its running stay in FAILSAFE (R222). -/
def State.fsEntry (s : State) (c : Nat) : Nat := (s.dieCh c).fsUse

/-- The entries of a die are taken for a stay in FAILSAFE: all off where it never received a table (R62, R222). -/
def State.fsTake (s : State) (n : Nat) : State :=
  (linkChans n).foldl (fun s c =>
    s.setDieCh c { s.dieCh c with fsUse := if (s.die n).fsSeen then (s.dieCh c).fs else 0 }) s

/-- The ACTION that applies to a channel now: a LIGHT channel follows its input while limp-home is in force. -/
def State.fsAction (s : State) (c : Nat) : Nat :=
  let e := s.fsEntry c
  let act := STR_FS_TABLE_ACTION 0 |>.get (BitVec.ofNat 32 e)
  let sel := STR_FS_TABLE_LIMP_SEL 0 |>.get (BitVec.ofNat 32 e)
  if bitOf e 15 ∧ s.limpInForce (chLink c) ∧ !bitOf (s.die (chLink c)).limp sel then 0 else act

/-- A die's command for a channel becomes a MODE; the context shows it while the die is live. -/
def State.fsMode (s : State) (c mode : Nat) : State :=
  let d := s.dieCh c
  let s := s.setDieCh c { d with mode := mode, modeAt := if d.mode = mode then d.modeAt else s.now }
  if s.vis c then s.setF (CH_CMD_MODE c) mode else s

/-- Apply an action to one channel (R222, R226): turn-offs, brakes and quenches at once, PWM changes at the next frame
boundary, turn-ons as command turn-ons: under the ledger where the die is adopted, else one at a time. A brake lasts until
adoption. -/
def State.fsApplyCh (s : State) (c : Nat) : State :=
  if !s.chPresent c ∨ s.ctx c ≠ c then s
  else
    let e := BitVec.ofNat 32 (s.fsEntry c)
    let duty := (STR_FS_TABLE_DUTY 0).get e
    let phase := (STR_FS_TABLE_PHASE 0).get e
    let start := fun (s : State) (mode : Nat) =>
      let s := s.fsMode c mode
      if s.driven c ∧ !(s.ph c = phPWM ∧ (s.chan c).first) then s
      else if s.vis c then s.modeHML c mode
      else s.setDieCh c { s.dieCh c with fsPend := true }
    match s.fsAction c with
    | 0 =>
      let s := (s.fsMode c 0).setDieCh c { (s.fsMode c 0).dieCh c with fsPend := false, fsBrake := false }
      if chClass c = 4 then s.inDie c (·.modeS c 0)
      else
        let s := s.inDie c (·.turnOff c)
        if chClass c = 3 then s.inDie c (fun s => (s.setBraking c false).motUpdate c) else s
    | 1 => s
    | 2 => start s 1
    | 3 =>
      let s := s.setDieCh c { s.dieCh c with nextWord := some (duty, 0, phase), nextDuty := none }
      let s := if s.vis c then ((s.setF (CH_PWM_DUTY c) duty).setF (CH_PWM_PDIV c) 0).setF (CH_PWM_PHASE c) phase else s
      start s 2
    | a =>
      if chClass c ≠ 3 ∨ 5 < a then s
      else
        let s := (s.fsMode c 0).inDie c (·.turnOff c)
        let d := s.dieCh c
        let on := (s.die (chLink c)).gate && !d.latch && !(s.die (chLink c)).ot
        let s := s.setDieCh c { d with stop := a - 3, fsBrake := on }
        s.inDie c (fun s => (s.setBraking c on).motUpdate c)

/-- Entry to FAILSAFE (R216, R222): the entry is stamped, the line is pulled, and every channel takes its action. -/
def State.failsafeEnter (s : State) (n : Nat) (adopted : Bool) : State :=
  let s := (s.setDie n { s.die n with st := .failsafe, adopted := adopted }).fsTake n
  let s := if s.live n then s.stampStr (15 + n) 0x02 n else s.storeEvent (linkFirst n) 11 0
  let s := (linkChans n).foldl State.fsApplyCh s
  if s.live n then s.limpShow n else s

/-- Hold entry of a die (R215, R216, R218): its window starts and its event store, which stamps the entry, opens. -/
def State.holdEnter (s : State) (n : Nat) : State :=
  let s := s.keepCopy n
  (s.setDie n { s.die n with st := .hold, winExp := false }).storeEvent (linkFirst n) 10 0

/-- The die's keep-alive is lost, or it is told to hold (R216, R217): ADOPTED enters HOLD, FAILSAFE goes on without a
window. -/
def State.dieHold (s : State) (n : Nat) : State :=
  match (s.die n).st with
  | .adopted => s.holdEnter n
  | .failsafe => let s := s.keepCopy n; s.setDie n { s.die n with adopted := false }
  | _ => s

/-! Frames to a die -/

/-- Act on the front frame of a link's queue if it is of the kind named; a die that does not obey discards it. -/
def State.frameRow (s : State) (n : Nat) (k : State → LinkFrame → Option State) : State :=
  if !s.diePresent n ∨ !(s.lnk n).trained then s
  else
    match s.takeFrame n with
    | (some f, t) => (k t f).getD s
    | (none, _) => s

/-- DIE_KEEPALIVE (R214, R215): the frame is sent while KA_GO is asserted and KA_EN is 1, on link 14 whatever KA_EN is
(R458); the die accepts it where the EPOCH is its own and the SEQ exceeds the last accepted by 1 to 16. The logic-side IX die
sends DATA frames while it accepts them. -/
def execDieKeepalive (n : Fin 15) (epoch : Byte) (seq : BitVec 16) (s : State) : Host.Outcome State Fault Refusal :=
  go (if ((s.diePresent n ∧ s.kaEn n) ∨ (n.val = 14 ∧ s.fullPart)) ∧ s.str.kaGo ∧ (s.lnk n).adopted then
    let s := s.setLnk n { s.lnk n with seq := seq.toNat }
    let d := s.die n
    let dist := (seq.toNat + 0x10000 - d.lastSeq) % 0x10000
    if epoch.toNat = d.epoch ∧ 1 ≤ dist ∧ dist ≤ 16 ∧ d.st ≠ .notAdopted then
      let s := s.setDie n { d with lastSeq := seq.toNat }
      if n.val = 14 then { s with iso := { s.iso with ka := true } } else s
    else s
  else s)

/-- DIE_KEEPALIVE_LOSS (R215): 100 µs without an accepted KEEPALIVE; a parked die expects none (R79). -/
def execDieKeepaliveLoss (n : Fin 14) (s : State) : Host.Outcome State Fault Refusal :=
  go (if s.diePresent n ∧ !(s.die n).parked then s.dieHold n else s)

/-- A command frame at its die (R126, R212): the die takes its TAG, and the command unless the module has since commanded the
channel anew; a command that waited for the die to be live is carried out now. A turn-off or a change of a driven output is stamped
as applied at the die (R283). -/
def State.cmdFrame (s : State) (c mode dir stop tag : Nat) : State :=
  let s := if s.live (chLink c) then s.setF (CH_STATUS_LAST_TAG c) tag else s
  let stale := s.live (chLink c) ∧ (s.f (CH_CMD_MODE c) ≠ mode ∨
    (chClass c = 3 ∧ (s.f (CH_B_DRV_DIR c) ≠ dir ∨ s.f (CH_B_DRV_STOP c) ≠ stop)))
  if stale then s
  else
    let d := s.dieCh c
    let s := s.setDieCh c { d with tag := tag, mode := mode, modeAt := if d.mode = mode then d.modeAt else s.now }
    let s := s.inDie c (fun s =>
      let s := if chClass c = 3 then s.drvApply c dir stop else s
      if d.mode = mode then s else s.applyMode c mode)
    if mode = 0 ∨ s.driven c then s.stampCmd c 1 (15 + chLink c) else s

/-- DIE_CMD_FRAME (R126, R212). -/
def execDieCmdFrame (n : Fin 14) (s : State) : Host.Outcome State Fault Refusal :=
  go (s.frameRow n (fun s f => match f with
    | .cmd k mode dir stop tag _ => some (if s.dieObeys n then s.cmdFrame (linkFirst n + k) mode dir stop tag else s)
    | _ => none))

/-- A PWM frame at its die (R127, R190, R212): a duty change waits for the next PWM period, a change of the whole word for the next
frame boundary; a leg takes its carrier duty at the next carrier period. -/
def State.pwmFrame (s : State) (c duty pdiv phase : Nat) (only : Bool) : State :=
  let s := s.inDie c (fun s => if chClass c = 3 then s.carrierStart c false else s.periodStart c false)
  let d := s.dieCh c
  if chClass c = 3 then s.setDieCh c { d with nextDuty := some duty, dutyAt := s.now }
  else if only then
    s.setDieCh c { d with nextDuty := some duty, dutyAt := s.now, nextWord := d.nextWord.map (fun w => (duty, w.2)) }
  else s.setDieCh c { d with nextWord := some (duty, pdiv, phase), nextDuty := none }

/-- DIE_PWM_FRAME (R127, R212). -/
def execDiePwmFrame (n : Fin 14) (s : State) : Host.Outcome State Fault Refusal :=
  go (s.frameRow n (fun s f => match f with
    | .pwm k duty pdiv phase only =>
      some (if s.dieObeys n then s.pwmFrame (linkFirst n + k) duty pdiv phase only else s)
    | _ => none))

/-- Put one entry of a list, padding it. -/
def putAt (l : List Nat) (i v : Nat) : List Nat := ((l ++ List.replicate (i + 1 - l.length) 0).set i v)

/-- DIE_TABLE_FRAME (R212, R222): the die stores a profile point, an envelope bin or a fail-safe entry. -/
def execDieTableFrame (n : Fin 14) (s : State) : Host.Outcome State Fault Refusal :=
  go (s.frameRow n (fun s f => match f with
    | .table k what i w =>
      let c := linkFirst n + k
      let d := s.dieCh c
      if !s.dieObeys n then some s
      else if what = 0 then some (s.setDieCh c { d with profPend := putAt d.profPend i w })
      else if what = 1 then some (s.setDieCh c { d with hi := putAt d.hi i w })
      else some ((s.setDieCh c { d with fs := w }).setDie n { s.die n with fsSeen := true })
    | _ => none))

/-- A PARAM frame at its die (R212): a permit, a cap, the budget in force, a fuse, the gate with what it does to the channels (R129),
or a threshold or configuration word, which the die keeps. The ledger's pauses have acted when their frame is sent. -/
def State.paramFrame (s : State) (n c what v : Nat) : State :=
  let d := s.dieCh c
  if what = 0 then s.setDieCh c { d with permit := v ≠ 0 }
  else if what = 1 then s.setDieCh c { d with cap := v }
  else if what = 2 then s.setDieCh c { d with budget := v }
  else if what = 4 then s.setDieCh c { d with fuse := v ≠ 0 }
  else if what = 5 then s.inDie c (·.gateSet n (v ≠ 0))
  else if 0x100 ≤ what then
    s.setDie n { s.die n with regs := tset resetWord (s.die n).regs (0x03000000 + c * 0x400 + (what - 0x100)) (BitVec.ofNat 32 v) }
  else s

/-- DIE_PARAM_FRAME (R212). -/
def execDieParamFrame (n : Fin 14) (s : State) : Host.Outcome State Fault Refusal :=
  go (s.frameRow n (fun s f => match f with
    | .param k what v => some (if s.dieObeys n then s.paramFrame n (linkFirst n + k) what v else s)
    | _ => none))

/-- DIE_HOLD (R216): a HOLD control frame. -/
def execDieHold (n : Fin 14) (s : State) : Host.Outcome State Fault Refusal :=
  go (s.frameRow n (fun s f => match f with | .hold => some (s.dieHold n) | _ => none))

/-- PARK at a die (R79, R198, R216): it keeps its words, expects no keep-alive until it is re-adopted, and without a sleep-kept
channel stops its oscillator; with SD0 the boost charging pauses. -/
def State.parkDie (s : State) (n : Nat) : State :=
  let s := s.keepCopy n
  let kept := (linkChans n).any (fun c => (s.asDie n).on (CH_CFG_KEPT c))
  let s := s.setDie n { s.die n with parked := true, stopped := !kept }
  if n = 13 then (s.setF SOL_BST_STAT_PAUSED 1).setF SOL_BST_STAT_CHARGING 0 else s

/-- DIE_PARK (R79, R216): a PARK control frame. -/
def execDiePark (n : Fin 14) (s : State) : Host.Outcome State Fault Refusal :=
  go (s.frameRow n (fun s f => match f with
    | .park => some (if s.dieObeys n then s.parkDie n else s)
    | _ => none))

/-- The phase that a context shows for a channel (R134, R148): a sleep-kept channel that tripped reads TRIPPED until its retry
starts. A channel that the Script no longer gangs reads OFF. -/
def State.shownPh (s : State) (c : Nat) : Nat :=
  let p := s.ph c
  if s.on (CH_CFG_ODD c) then phGANGED
  else if p = phGANGED then phOFF
  else if s.on (CH_CFG_KEPT c) ∧ p = phRETRY then phTRIPPED
  else p

/-- A context shows what its die runs (R115, R218): phase, point, CONDUCTING, and the phases of legs and solenoids. A capture that
ran when the die was lost is given up. -/
def State.showCh (s : State) (c : Nat) : State :=
  let d := s.dieCh c
  let s := ((s.captureDiscard c).setF (CH_STATUS_PHASE c) (s.shownPh c)).setF (CH_STATUS_POINT c) d.point
  let s := s.setF (CH_STATUS_CONDUCTING c) (b2n (s.conducts c))
  if chClass c = 3 then ((s.setRev c d.revWait).setBraking c d.braking).motUpdate c
  else if chClass c = 4 then
    ((s.setF (CH_S_STAT_SPHASE c) d.sph).setF (CH_S_STAT_E_DRAWN c) d.eDrawn).shUpdate ((c - 116) / 4)
  else s

/-- The frame period in ticks. -/
def State.framePeriod (s : State) : Int := s.f FRM_CFG_PERIOD_US * 125

/-- The current boundary reaches a die that is adopted (R291): a die that differs by less than 1 µs, or that has run no frames, takes
it at once, and another has that shift still to make. -/
def State.pullStart (s : State) (n : Nat) (fresh : Bool) : State :=
  let p := s.framePeriod
  let d := s.die n
  let e : Int := if p ≤ 0 then 0 else ((s.frm.prev : Int) - d.boundary + p / 2) % p - p / 2
  if fresh ∨ e.natAbs < 125 then s.setDie n { d with boundary := s.frm.prev, pull := 0 } else s.setDie n { d with pull := e }

/-- The boost rail as SD0 runs it shows again; charging pauses in Load dump alone (R198, R218). -/
def State.boostShown (s : State) (w : Word) : State :=
  (s.setReg SOL_BST_STAT w).setF SOL_BST_STAT_PAUSED (b2n (s.f PWR_FEED_STAT_BAND = 2))

/-- A die becomes live by its ADOPT frame: a brake applied as a fail-safe action ends (R226), and the contexts, from which it now
works, show what it runs. -/
def State.dieAdopted (s : State) (n : Nat) : State :=
  let s := (linkChans n).foldl (fun s c =>
    let d := s.dieCh c
    let s := if d.fsBrake then s.setDieCh c { d with braking := false, fsBrake := false } else s
    if (s.lnk n).adopted then s.showCh c else s) s
  if !(s.lnk n).adopted then s
  else
    let w := tget resetWord (s.die n).regs SOL_BST_STAT
    let s := s.setDie n { s.die n with regs := [] }
    if n = 13 then s.boostShown w else s

/-- DIE_ADOPT (R216): an ADOPT frame with a new EPOCH; hold ends, and a die in FAILSAFE is adopted in its fail-safe
states. -/
def execDieAdopt (n : Fin 14) (s : State) : Host.Outcome State Fault Refusal :=
  go (s.frameRow n (fun s f => match f with
    | .adopt e =>
      let d := s.die n
      if e = d.epoch ∧ d.st ≠ .notAdopted then some s
      else
        let st := if d.st = .failsafe then DieState.failsafe else .adopted
        let t := s.setDie n { d with st := st, adopted := true, parked := false, stopped := false, epoch := e, lastSeq := 0 }
        some ((t.dieAdopted n).pullStart n (d.st = .notAdopted))
    | _ => none))

/-- DIE_FS_APPLY (R222, R224): an FS_APPLY frame puts an adopted die into FAILSAFE; the ledger judges its turn-ons. -/
def execDieFsApply (n : Fin 14) (s : State) : Host.Outcome State Fault Refusal :=
  go (s.frameRow n (fun s f => match f with
    | .fsApply =>
      if (s.die n).st = .adopted then
        let s := s.failsafeEnter n true
        some (if s.live n then (s.setF (dieStateRF n) 3).fsFlag STR_FS_FLAG_FS_APPLIED n else s)
      else some s
    | _ => none))

/-- The state in force in a die becomes the command of a context (R225): MODE, and STOP of a leg. -/
def State.stands (s : State) (c : Nat) : State :=
  let s := s.setF (CH_CMD_MODE c) (s.dieCh c).mode
  if chClass c = 3 ∧ s.ctx c = c then s.setF (CH_B_DRV_STOP c) (s.dieCh c).stop else s

/-- DIE_FS_RELEASE (R216, R225): an FS_RELEASE frame; limp following ends and the state in force stands as the command in
the contexts. -/
def execDieFsRelease (n : Fin 14) (s : State) : Host.Outcome State Fault Refusal :=
  go (s.frameRow n (fun s f => match f with
    | .fsRelease =>
      let d := s.die n
      if d.st = .failsafe ∧ d.adopted then
        let s := (s.setDie n { d with st := .adopted }).stampStr (15 + n) 0x03 n
        if s.live n then some ((((linkChans n).foldl State.stands s).setF (dieStateRF n) 1).limpShow n)
        else some s
      else some s
    | _ => none))

/-- LIGHT channels of a die in FAILSAFE follow a change of ARM or of the LIMP levels (R228). -/
def State.limpFollow (s : State) (n : Nat) : State :=
  if (s.die n).st = .failsafe then
    let s := ((linkChans n).filter (fun c => bitOf (s.fsEntry c) 15)).foldl State.fsApplyCh s
    if s.live n then s.limpShow n else s
  else s

/-- DIE_LIMP_ARM (R228, R229): the ARM bit of a die on links 1 to 10; the others ignore it. -/
def execDieLimpArm (n : Fin 14) (s : State) : Host.Outcome State Fault Refusal :=
  go (s.frameRow n (fun s f => match f with
    | .limpArm a =>
      if s.dieObeys n ∧ n.val ≤ 10 then some ((s.setDie n { s.die n with arm := a }).limpFollow n) else some s
    | _ => none))

/-- DIE_HOLD_WIN (R219): a new hold window. -/
def execDieHoldWin (n : Fin 14) (s : State) : Host.Outcome State Fault Refusal :=
  go (s.frameRow n (fun s f => match f with
    | .holdWin ms => some (if s.dieObeys n then s.setDie n { s.die n with winMs := ms } else s)
    | _ => none))

/-! Frames on the wire (R211, R212) -/

/-- One bit of a frame in its CRC-8, polynomial 0x2F (R211). -/
def crc8Bit (crc : Nat) (b : Bool) : Nat :=
  let c := crc * 2 % 0x100
  if bitOf crc 7 ≠ b then c ^^^ 0x2F else c

/-- The CRC of a frame's bits 39 to 8, most significant first, from 0xFF and with no final XOR (R211). -/
def frameCrc (w : Nat) : Nat := (List.range 32).foldl (fun crc i => crc8Bit crc (bitOf w (39 - i))) 0xFF

/-- The 40 bits of a frame: KIND in 39 to 36, CH in 35 to 32, PAYLOAD in 31 to 8, CRC in 7 to 0 (R211). -/
def frameWord (kind ch payload : Nat) : Nat :=
  let w := (kind % 0x10 * 0x10 + ch % 0x10) * 2 ^ 32 + payload % 2 ^ 24 * 0x100
  w + frameCrc w

/-- KIND of a frame. -/
def frameKind (w : Nat) : Nat := w / 2 ^ 36 % 0x10

/-- The kinds that R212 defines, to the die and from it. -/
def frameKinds : List Nat := [0, 1, 2, 3, 4, 5, 8, 9, 0xA, 0xB, 0xC]

/-- A frame that its receiver discards: its CRC fails or its KIND is undefined (R211, R212). -/
def frameBad (w : Nat) : Bool := w % 0x100 ≠ frameCrc w || !frameKinds.contains (frameKind w)

/-- A stage link of the part: link 0 to the IF die, 1 to 13 to its power dies, 14 to the IX pair (R22, R23). -/
def State.linkPresent (s : State) (n : Nat) : Bool := n = 0 || s.diePresent n || (n = 14 && s.fullPart)

/-- FRAME_CRC_DISCARD (R211, R519): the 40 bits that arrived at the LG end (0), or at the die's end beside (1) or in place of (2) the
frame waiting there. A frame that is discarded takes no effect and is counted at the end that discards it. -/
def execFrameCrcDiscard (n : Fin 15) (x : LinkWord) (s : State) : Host.Outcome State Fault Refusal :=
  go (if !s.linkPresent n ∨ !frameBad x.bits.toNat then s
  else if x.place = 0 then s.incSat (SYS_LINK_ERR_LG_RX n)
  else
    let s := s.setDie n { s.die n with rxErr := min ((s.die n).rxErr + 1) 0xFFFF }
    if x.place = 2 then (s.takeFrame n).2 else s)

/-! Adoption (R115, R216, R221) -/

/-- Read back one channel of a die into its context (R115, R125): command, duty, phase and latches as the die holds them, the STOP,
DIR and times of a leg, the on-time of a solenoid, and the flag of each latch, whose setting counts (R15). -/
def State.readBackCh (s : State) (c : Nat) : State :=
  let d := s.dieCh c
  let x := s.asDie (chLink c)
  let w := d.nextWord.getD (d.nextDuty.getD d.duty, d.pdiv, d.phase)
  let s := ((s.setF (CH_CMD_MODE c) d.mode).setF (CH_CMD_TAG c) d.tag).setF (CH_STATUS_LAST_TAG c) d.tag
  let s := ((s.setF (CH_PWM_DUTY c) w.1).setF (CH_PWM_PDIV c) w.2.1).setF (CH_PWM_PHASE c) w.2.2
  let s := if chClass c = 3 then
      ((s.setReg (CH_B_DRV c) (x.reg (CH_B_DRV c))).setF (CH_B_DRV_DIR c) d.dir).setF (CH_B_DRV_STOP c) d.stop
    else if chClass c = 4 then s.setF (CH_S_STAT_DUTY_USED c) (x.f (CH_S_STAT_DUTY_USED c))
    else s
  let s := s.showCh c
  let s := if d.latch then (match d.latchKind with
    | 0 => s.raise (CH_FLAG_TRIP c) (CH_FLAG_CNT_COUNT c)
    | 1 => s.raise (CH_FLAG_EBUDGET c) (CH_FLAG_CNT_COUNT c)
    | 2 => s.raise (CH_FLAG_OVERTEMP c) (CH_FLAG_CNT_COUNT c)
    | 3 => s.raise (CH_B_FLAG_OVERLOAD c) (CH_B_FLAG_CNT_COUNT c)
    | 4 => s.raise (CH_S_FLAG_CHOP_SHORT c) (CH_S_FLAG_CNT_COUNT c)
    | _ => s.raise (CH_S_FLAG_SH_TRIP c) (CH_S_FLAG_CNT_COUNT c)) else s
  let s := if d.fuse then s.raise (CH_FLAG_FUSED c) (CH_FLAG_CNT_COUNT c) else s
  let s := if (s.die (chLink c)).lost then s.raise (CH_FLAG_LOST_STATE c) (CH_FLAG_CNT_COUNT c) else s
  s.chCue c 0x06 0

/-- The context words that a die needs beside its commands and tables, which the module sends as PARAM frames (R212): slew, trip and
retry thresholds, the pause ceiling, and the class words of legs and solenoids. -/
def cfgOffsets (c : Nat) : List Nat :=
  [0x010, 0x030, 0x038, 0x048] ++ (if chClass c = 3 then [0x300, 0x308] else if chClass c = 4 then [0x300, 0x304, 0x308] else [])

/-- What the module sends to a die at each adoption: epoch, hold window, ARM bit, gate, fail-safe entries, caps, thresholds and
configuration, the envelope copies and the Script's profiles (R35, R115, R133, R158, R212, R219, R222, R229). -/
def State.adoptSends (s : State) (n epoch : Nat) : State :=
  let s := (s.send n (.adopt epoch)).send n (.holdWin (s.f (STR_HOLD_WIN_WIN_MS n)))
  let s := if n ≤ 10 then s.send n (.limpArm (bitOf (s.f STR_LIMP_ARM_ARM) (n - 1))) else s
  let s := s.send n (.param 0 5 (b2n (s.lnk n).gate))
  (linkChans n).foldl (fun s c =>
    let s := s.sendCh c (fun k => .table k 2 0 (s.reg (STR_FS_TABLE c)).toNat)
    let s := s.sendCh c (fun k => .param k 1 (s.f (LDG_CHSTAT_CAP c)))
    let s := (cfgOffsets c).foldl (fun s o => s.sendCh c (fun k => .param k (0x100 + o) (s.reg (0x03000000 + c * 0x400 + o)).toNat)) s
    let s := if chClass c < 3 then s.sendHi c else s
    if (s.chan c).prof = [] then s
    else (s.setF (CH_PROF_STAT_XFER c) 1).setChan c { s.chan c with snap := (s.chan c).prof }) s

/-- The place of a die in adoption order: ascending hold window, then link (R115). -/
def State.adoptKey (s : State) (n : Nat) : Nat := s.f (STR_HOLD_WIN_WIN_MS n) * 0x10 + n

/-- A die may be adopted now: its link trained, its KA_EN 1; in the order of R115 among those that wait, in a boot and in Run. -/
def State.mayAdopt (s : State) (n : Nat) : Bool :=
  s.diePresent n && (s.lnk n).trained && s.kaEn n && !(s.lnk n).adopted &&
  (s.boot.phase = .run || s.boot.phase = .adopt) && s.dieLinks.all (fun m =>
    (s.lnk m).adopted || !s.kaEn m || !(s.lnk m).trained || s.adoptKey n ≤ s.adoptKey m)

/-- Adopt a die by reading back its held state (R115, R216): the state is shown, the flags of R216 set, the adoption
stamped with the state and the events the die will deliver, and the ADOPT frame is sent. -/
def State.adopt (s : State) (n : Nat) : State :=
  let d := s.die n
  let e := (d.epoch + 1) % 0x100
  let code := if d.st = .notAdopted then 0 else if d.st = .adopted then 1 else if d.st = .hold then 2 else 3
  let s := s.setLnk n { s.lnk n with adopted := true, epoch := e, seq := 0,
                                     cause := if d.st = .failsafe ∧ (s.lnk n).cause = 0 then 1 else (s.lnk n).cause }
  let s := (s.setF (dieStateRF n) (if d.st = .failsafe then 3 else 1)).dieClock n true
  let s := if code = 2 ∨ d.winExp then s.fsFlag STR_FS_FLAG_HOLD_SEEN n else s
  let s := if d.winExp then s.fsFlag STR_FS_FLAG_WINDOW_EXPIRED n else s
  let s := s.setF (SYS_LINK_ERR_DIE_RX n) d.rxErr
  let s := (linkChans n).foldl State.readBackCh s
  let s := s.setDie n { s.die n with lost := false, winExp := false }
  let s := (s.limpShow n).stampStr 2 0x05 (n + code * 0x10 + d.events.length * 0x100)
  let s := s.adoptSends n e
  if s.dieLinks.all (fun m => (s.lnk m).adopted) then { s with boot := { s.boot with firstAdopt := true } } else s

/-- DIE_ADOPTION (R115). -/
def execDieAdoption (n : Fin 14) (s : State) : Host.Outcome State Fault Refusal :=
  go (if s.mayAdopt n then s.adopt n else s)

/-! Frames from a die and the loss of one (R212, R218, R220) -/

/-- The module treats a die as lost (R220). -/
def State.dieLost (s : State) (n : Nat) : State :=
  let s := s.keepCopy n
  let s := s.setLnk n { s.lnk n with adopted := false, trained := false, tx := [] }
  let s := (s.setF (dieStateRF n) 0).dieClock n false
  (s.fsFlag STR_FS_FLAG_LINK_LOST n).stampStr 2 0x04 n

/-- DIE_STATUS_FRAME (R212, R220, R520): a report of HOLD, or of NOT_ADOPTED, from a die counted as adopted is a loss once the ADOPT
frame has gone; the state that it reports is shown, and of a die whose KA_EN is 0 too. One that waits for its adoption stays marked
NOT_ADOPTED. -/
def execDieStatusFrame (n : Fin 14) (s : State) : Host.Outcome State Fault Refusal :=
  go (if !s.diePresent n ∨ !(s.lnk n).trained then s
  else
    let d := s.die n
    let code := if d.st = .notAdopted then 0 else if d.st = .adopted then 1 else if d.st = .hold then 2 else 3
    if (s.lnk n).adopted then
      if (code = 2 ∨ code = 0) ∧ d.epoch = (s.lnk n).epoch ∧ s.kaEn n then s.dieLost n
      else if code = 1 ∨ code = 3 then s.setF (dieStateRF n) code
      else s
    else if s.kaEn n then s
    else s.setF (dieStateRF n) code)

/-- Age the duty window of a solenoid by one report of 10 µs (R206): a bin ends after WIN / 100, and 100 are kept. -/
def State.dutyTick (s : State) (c : Nat) : State :=
  let d := s.dieCh c
  let win := s.f (CH_S_BUDGET_WIN c) * 1000
  let bins := match d.bins with | [] => [0] | l => l
  let bins := if spRISE ≤ d.sph ∧ d.sph ≤ spHOLD then (bins.headD 0 + 1) :: bins.tail else bins
  let full := win ≤ d.binT + 1
  let d := { d with bins := if full then (0 :: bins).take 100 else bins, binT := if full then 0 else d.binT + 1 }
  (s.setDieCh c d).setF (CH_S_STAT_DUTY_USED c) (if win = 0 then 0 else min 100 (bins.sum / win))

/-- The overload timer of a leg over one 10 µs interval with a current magnitude in units (R193): up above 12 A, or 24 A of a ganged
leg, and down below. -/
def State.ovlTick (s : State) (c i : Nat) : State :=
  let o := (s.chan c).ovl
  let o := if 600 < i then min (o + 1) 50000 else if i < 600 then o - 1 else o
  (s.setChan c { s.chan c with ovl := o }).setF (CH_B_STAT_OVL c) (o / 200)

/-- The report of a leg (R190 to R196): the overload timer, STALL_NOW and CHOPPING, and a carrier period that has begun. -/
def State.legReport (s : State) (c i : Nat) : State :=
  let s := s.ovlTick c i
  let s := s.setF (CH_B_STAT_STALL_NOW c) (b2n (s.on (CH_B_STALL_ISTALL c) ∧ s.f (CH_B_STALL_ISTALL c) ≤ i))
  (s.showChop c).carrierStart c false

/-- DIE_REPORT_FRAME (R168, R212): mean current, for a leg signed, and VDS of a channel for the last interval; CONDUCTING follows,
and the highest report of a run from point 0 is kept with its time (R145). In a die that is not live and not parked the interval
counts for the overload timer and the duty window alone (R193, R206, R218). -/
def execDieReportFrame (c : Fin 132) (i vds : BitVec 16) (s : State) : Host.Outcome State Fault Refusal :=
  go (let mag := if chClass c = 3 then (signed 16 i.toNat).natAbs else i.toNat
    if !s.chPresent c then s
    else if !s.vis c then
      if (s.die (chLink c)).parked then s
      else s.inDieQ (chLink c) (fun s =>
        if chClass c = 3 then s.ovlTick c mag else if chClass c = 4 then s.dutyTick c else s)
    else
      let x := s.chan c
      let x := { x with lastI := mag, lastV := vds.toNat, runT := x.runT + 1 }
      let x := if x.runZero ∧ x.peakI < mag then { x with peakI := mag, peakT := x.runT } else x
      let s := (s.setChan c x).setF (CH_STATUS_CONDUCTING c) (b2n (s.conducts c))
      if chClass c = 3 then s.legReport c mag else if chClass c = 4 then s.dutyTick c else s)

/-- The record of a delivered event, at its converted time (R218, R276). -/
def State.lateRec (s : State) (t : Slate) (island kind index unit event data : Nat) : State :=
  s.offerRec { slate := t, corrected := true, kind := kind, index := index, unit := unit, event := event, island := island,
               data := BitVec.ofNat 128 data }

/-- Deliver the oldest event that a die has stored (R218): its stamp is converted to within ±4 µs of the reference, which
is all that R276 states of the result (log entry 4), and flagged CORRECTED. The first one counts the events that were not kept. -/
def State.deliver (s : State) (n : Nat) : State :=
  let d := s.die n
  match d.events with
  | [] => s
  | e :: rest =>
    let t := e.slate + BitVec.ofInt 64 ((s.draw % 1001 : Nat) - 500)
    let s := s.drawn.setDie n { d with events := rest, evLost := 0 }
    let s := if d.evLost = 0 then s else s.setLnk n { s.lnk n with evLost := (s.lnk n).evLost + d.evLost }
    match e.code with
    | 6 => s.setLdgDie n { s.ldgDie n with uj := (s.ldgDie n).uj + e.value }
    | 7 => s.incSat (LDG_DX_OT_CNT n)
    | 8 => (s.raise (CH_B_FLAG_STALL e.ch) (CH_B_FLAG_CNT_COUNT e.ch)).chEventAt true (15 + n) t e.ch 0x04 0
    | 9 => s.lateRec t (15 + n) 0x07 e.ch 0x03 0x10 (s.cmdData e.ch 1)
    | 10 => s.lateRec t (15 + n) 0x01 0x2A 0x2A 0x01 n
    | 11 => s.lateRec t (15 + n) 0x01 0x2A 0x2A 0x02 n
    | 12 => s.shFlag e.value t true
    | k => s.tripContext e.ch k true (decide (s.tripPhase e.ch = phTRIPPED)) t

/-- DIE_EVENT_FRAME (R212, R218, R519): a stored event of the die, an energy report, which the ledger takes as event_uj
(R152, R170) and a die that is not live stores, or the die's error count. -/
def execDieEventFrame (n : Fin 14) (what : Fin 3) (v : BitVec 32) (s : State) : Host.Outcome State Fault Refusal :=
  go (if !s.diePresent n then s
  else if !s.live n then (if what = 1 then s.storeEvent (linkFirst n) 6 v.toNat else s)
  else if what = 0 then s.deliver n
  else if what = 1 then s.setLdgDie n { s.ldgDie n with uj := (s.ldgDie n).uj + v.toNat }
  else s.setF (SYS_LINK_ERR_DIE_RX n) (s.die n).rxErr)

/-- HOLD_WINDOW_EXPIRE (R216): a die in HOLD enters FAILSAFE. -/
def execHoldWindowExpire (n : Fin 14) (s : State) : Host.Outcome State Fault Refusal :=
  go (if s.diePresent n ∧ (s.die n).st = .hold then
    (s.setDie n { s.die n with winExp := true }).failsafeEnter n false else s)

/-- FAILSAFE_NEXT_INRUSH (R223): a die in FAILSAFE that is not adopted takes up its next pending turn-on when no inrush of
it runs, in ascending channel index; latches, fuses and the gate are not overridden. A PWM turn-on whose word the frame boundary has
put in force starts at the channel's on-edge (R134). -/
def execFailsafeNextInrush (n : Fin 14) (s : State) : Host.Outcome State Fault Refusal :=
  go (let d := s.die n
    if !s.diePresent n ∨ !s.fsFree n then s
    else
      match (linkChans n).find? (fun c => (s.dieCh c).fsPend && ((s.dieCh c).mode ≠ 2 || (s.dieCh c).nextWord.isNone)) with
      | none => s
      | some c =>
        let x := s.dieCh c
        let s := s.setDieCh c { x with fsPend := false }
        if x.latch ∨ x.fuse ∨ d.ot ∨ !d.gate then s
        else s.inDie c (fun s =>
          if x.mode = 2 then (s.setPh c phPWM).setChan c { s.chan c with first := true }
          else (s.turnOnMark c).startRun c false))

/-- DIE_LINK_LOST (R220): a die that the module counts as adopted is silent for 100 µs on a link whose KA_EN is 1. -/
def execDieLinkLost (n : Fin 14) (s : State) : Host.Outcome State Fault Refusal :=
  go (if s.diePresent n ∧ s.kaEn n ∧ (s.lnk n).adopted then s.dieLost n else s)

/-- LINK_RETRAIN (R220): an attempt to retrain a stage link succeeds; not while its lane is clamped (R90) or the die has no supply. -/
def execLinkRetrain (n : Fin 14) (s : State) : Host.Outcome State Fault Refusal :=
  go (if s.diePresent n ∧ !(s.lnk n).trained ∧ !(s.die n).uv ∧ !bitOf s.pwr.clamp 3 ∧ s.boot.phase ≠ .reset then
    (s.setLnk n { s.lnk n with trained := true }).dieClock n (!(s.die n).stopped) else s)

/-! The keep-alive's permission (R214, R467) -/

/-- KA_GO_REARM (R214): the Strongroom's firmware, once released, re-arms KA_GO. -/
def execKaGoRearm (s : State) : Host.Outcome State Fault Refusal :=
  go (if s.boot.phase = .reset ∨ s.boot.phase = .strong ∨ s.boot.phase = .dead then s
    else { s with str := { s.str with kaGo := true } })

/-- KA_GO_LAPSE (R214): 1.5 ms after the last re-arm KA_GO falls and keep-alives stop on every link. -/
def execKaGoLapse (s : State) : Host.Outcome State Fault Refusal := go { s with str := { s.str with kaGo := false } }

/-! The Strongroom's registers for hold and fail-safe -/

/-- A write to Strongroom-owned bytes by another initiator is dropped, counted, recorded and stamped (R12, R468). -/
def State.strDrop (s : State) (init addr : Nat) : State :=
  (((s.incSat STR_DROP_CNT_COUNT).setF STR_DROP_CNT_LAST_INIT init).setReg STR_DROP_ADDR (BitVec.ofNat 32 addr)).stampStr 2
    0x10 (addr + init * 2 ^ 32)

/-- Run a Strongroom write of a register, or drop it. -/
def State.strWrite (s : State) (init addr : Nat) (k : State → State) : State :=
  if isStr init then k s else s.strDrop init addr

/-- The record of an accepted Strongroom write (R468). -/
def State.stampWrite (s : State) (addr : Nat) (w : Word) : State := s.stampStr 12 0x11 (addr + w.toNat * 2 ^ 32)

/-- A write of STR_KA_CTL (R214, R520): a link whose bit falls is no longer counted as adopted. -/
def State.kaCtlWrite (s : State) (init : Nat) (w : Word) : State :=
  s.strWrite init STR_KA_CTL (fun s =>
    let s := (s.setReg STR_KA_CTL (w &&& 0x3FFE#32)).stampWrite STR_KA_CTL w
    s.dieLinks.foldl (fun s n =>
      if bitOf (w.toNat % 0x4000) n then s
      else let s := s.keepCopy n; s.setLnk n { s.lnk n with adopted := false }) s)

/-- KA_EN_WRITE (R520). -/
def execKaEnWrite (init : Byte) (w : Word) (s : State) : Host.Outcome State Fault Refusal :=
  go (s.kaCtlWrite init.toNat w)

/-- The Strongroom applies fail-safe states on the links of a mask, for a cause by bit (R224, R473, R475). -/
def State.fsApplyLinks (s : State) (mask cause : Nat) : State :=
  s.dieLinks.foldl (fun s n =>
    if bitOf mask n then
      let c := (s.lnk n).cause
      (s.setLnk n { s.lnk n with cause := if bitOf c cause then c else c + 2 ^ cause }).send n .fsApply
    else s) s

/-- A write of STR_FS_APPLY (R224). -/
def State.fsApplyWrite (s : State) (init cause : Nat) (w : Word) : State :=
  s.strWrite init STR_FS_APPLY (fun s => (s.stampWrite STR_FS_APPLY w).fsApplyLinks (w.toNat % 0x4000) cause)

/-- FS_APPLY_WRITE (R224). -/
def execFsApplyWrite (init : Byte) (w : Word) (s : State) : Host.Outcome State Fault Refusal :=
  go (s.fsApplyWrite init.toNat 3 w)

/-- A write of STR_FS_RELEASE (R225): the frames go out, and each owner engine of a channel receives its cue. -/
def State.fsReleaseWrite (s : State) (init : Nat) (w : Word) : State :=
  s.strWrite init STR_FS_RELEASE (fun s =>
    (s.stampWrite STR_FS_RELEASE w) |> fun s => s.dieLinks.foldl (fun s n =>
      if bitOf w.toNat n then
        let s := (s.setLnk n { s.lnk n with cause := 0 }).send n .fsRelease
        if s.f (dieStateRF n) = 3 then (linkChans n).foldl (fun s c => s.chCue c 0x07 0) s else s
      else s) s)

/-- FS_RELEASE_WRITE (R225). -/
def execFsReleaseWrite (init : Byte) (w : Word) (s : State) : Host.Outcome State Fault Refusal :=
  go (s.fsReleaseWrite init.toNat w)

/-- A write of STR_LIMP_ARM (R229): the ARM bits go to the dies on links 1 to 10. -/
def State.limpArmWrite (s : State) (init : Nat) (w : Word) : State :=
  s.strWrite init STR_LIMP_ARM (fun s =>
    let s := (s.setReg STR_LIMP_ARM (w &&& 0x7FE#32)).stampWrite STR_LIMP_ARM w
    s.dieLinks.foldl (fun s n => if n ≤ 10 then s.send n (.limpArm (bitOf w.toNat n)) else s) s)

/-- LIMP_ARM_WRITE (R229). -/
def execLimpArmWrite (init : Byte) (w : Word) (s : State) : Host.Outcome State Fault Refusal :=
  go (s.limpArmWrite init.toNat w)

/-- A write of STR_HOLD_WINn (R219): a value outside 10 to 500 is ignored. -/
def State.holdWinWrite (s : State) (init n : Nat) (w : Word) : State :=
  s.strWrite init (STR_HOLD_WIN n) (fun s =>
    let ms := w.toNat % 0x200
    if ms < 10 ∨ 500 < ms then s
    else ((s.setReg (STR_HOLD_WIN n) (w &&& 0x1FF#32)).stampWrite (STR_HOLD_WIN n) w).send n (.holdWin ms))

/-- HOLD_WIN_WRITE (R219). -/
def execHoldWinWrite (init : Byte) (n : Fin 14) (w : Word) (s : State) : Host.Outcome State Fault Refusal :=
  go (if n.val = 0 then s else s.holdWinWrite init.toNat n w)

/-- A write of STR_PIN_CTL (R230, R231). -/
def State.pinCtlWrite (s : State) (init : Nat) (w : Word) : State :=
  s.strWrite init STR_PIN_CTL (fun s => (s.setReg STR_PIN_CTL (w &&& 3#32)).stampWrite STR_PIN_CTL w)

/-- PIN_CTL_WRITE (R230). -/
def execPinCtlWrite (init : Byte) (w : Word) (s : State) : Host.Outcome State Fault Refusal :=
  go (s.pinCtlWrite init.toNat w)

/-- A write of STR_FS_TABLEi (R222): ACTION 6 and 7 are ignored; the entry goes to the channel's die. -/
def State.fsTableWrite (s : State) (init c : Nat) (w : Word) : State :=
  s.strWrite init (STR_FS_TABLE c) (fun s =>
    if !s.chPresent c then s
    else
      let w := w &&& 0x3FF7F7FF#32
      let w := if 6 ≤ (STR_FS_TABLE_ACTION c).get w then (STR_FS_TABLE_ACTION c).put w (s.f (STR_FS_TABLE_ACTION c)) else w
      (s.setReg (STR_FS_TABLE c) w).sendCh c (fun k => .table k 2 0 w.toNat))

/-- FS_TABLE_WRITE (R222). -/
def execFsTableWrite (init : Byte) (c : Fin 132) (w : Word) (s : State) : Host.Outcome State Fault Refusal :=
  go (s.fsTableWrite init.toNat c w)

/-- LIMP_INPUT_CHANGE (R227, R228): a front end accepts new levels; on a die its LIGHT channels follow them. -/
def execLimpInputChange (n : Fin 11) (levels : BitVec 9) (s : State) : Host.Outcome State Fault Refusal :=
  go (if n.val = 0 then (s.setF STR_LIMP_STAT_LIMP levels.toNat).setF STR_LIMP_STAT_LIMP_EN (levels.toNat / 0x100)
  else if s.diePresent n then (s.setDie n { s.die n with limp := levels.toNat }).limpFollow n
  else s)

/-! Release of fail-safe states (R476) -/

/-- The crew of an engine's initiator ID (R25). -/
def crewOf (id : Nat) : Nat := (id - 0x10) / 8

/-- Every supervised crew with an owner engine of a channel on the die has beaten since Run. -/
def State.ownersBeaten (s : State) (n : Nat) : Bool :=
  (linkChans n).all (fun c =>
    let o := s.f (CH_CFG_OWNER c)
    !isEngine o || !bitOf (s.f STR_HB_STAT_SUPERVISED) (crewOf o) || bitOf (s.f STR_HB_STAT_BEATEN) (crewOf o))

/-- The central computer's heartbeat is present (R473). -/
def State.ccPresent (s : State) : Bool := s.on STR_HB_STAT_CC_ARMED && !s.on STR_HB_STAT_CC_MISSING

/-- Every cause of a die's FAILSAFE is satisfied (R476). -/
def State.fsSatisfied (s : State) (n : Nat) : Bool :=
  let k := (s.lnk n).cause
  (!bitOf k 0 || ((s.lnk n).adopted && s.ownersBeaten n && (!s.on STR_CFG_REL_NEED_CC || s.on STR_HB_STAT_CC_SEEN))) &&
  (!bitOf k 1 || (s.on STR_CFG_AUTO_REL && s.ccPresent && s.f STR_CFG_CC_TIMEOUT * 1250000 ≤ s.now - s.str.ccSince)) &&
  (!bitOf k 2 || (s.on STR_CFG_AUTO_REL && 100 ≤ (s.ldgDie n).ok)) && !bitOf k 3

/-- FS_RELEASE_EVAL (R476): in a supervision period after Run the Strongroom releases every die in FAILSAFE whose causes
are satisfied; in Sleep it issues no transaction (R104). -/
def execFsReleaseEval (s : State) : Host.Outcome State Fault Refusal :=
  go (if s.boot.phase ≠ .run ∨ 2 ≤ s.f PWR_STATE_STATE then s
  else
    let mask := s.dieLinks.foldl (fun a n => if s.f (dieStateRF n) = 3 ∧ s.fsSatisfied n then a + 2 ^ n else a) 0
    if mask = 0 then s else s.fsReleaseWrite 0x08 (BitVec.ofNat 32 mask))

end Sys2Proof.Machine
end

