-- ==== Sys2Proof/Machine/Slate.lean ====
section
/-! DEFINITION. Slate, Dailies and frame sync (10_slate_dailies_frames.md). -/

namespace Sys2Proof.Machine

/-! The slate (R273 to R278) -/

/-- An island's counter is corrected (R275, R276): in Run and Idle, while its clock runs, and on a die while the die is live. The Spine
island holds the reference itself. -/
def State.corrected (s : State) (isl : Nat) : Bool :=
  s.boot.phase = .run && s.f PWR_STATE_STATE < 2 && isl ≠ 2 && s.clocked isl && (isl < 16 || 29 ≤ isl || s.live (isl - 15))

/-- SLATE_CORRECTION (R275, R276): an island's counter is trimmed; its stamps then agree with the reference within ±16 ns, two ticks
either way, which is all that the spec states of the offset (log entry 4). -/
def execSlateCorrection (isl : Fin 30) (s : State) : Host.Outcome State Fault Refusal :=
  go (if s.corrected isl then s.drawn.setIsland isl { s.island isl with ofs := ((s.draw % 5 : Nat) : Int) - 2 } else s)

/-- FRM_GPTP_OFS as a signed number of ns. -/
def State.gptpOfs (s : State) : Int :=
  signed 64 ((s.reg FRM_GPTP_OFS_LO).toNat + (s.reg FRM_GPTP_OFS_HI).toNat * 2 ^ 32)

/-- Put FRM_GPTP_OFS. -/
def State.setGptpOfs (s : State) (x : Int) : State :=
  (s.setReg FRM_GPTP_OFS_LO (BitVec.ofNat 32 (unsigned 64 x))).setReg FRM_GPTP_OFS_HI (BitVec.ofNat 32 (unsigned 64 x / 2 ^ 32))

/-- A record of unit FRM (R283). -/
def State.stampFrm (s : State) (event data : Nat) : State := s.stampUnit 0x08 event data

/-- GPTP_SYNC (R278): the first synchronisation after power-on captures OFS; an error of at most 1 ms slews the rate, LOCKED
below 1 µs; a larger one captures OFS again with TIMEBASE_STEP. -/
def execGptpSync (ns : BitVec 64) (s : State) : Host.Outcome State Fault Refusal :=
  go (if !s.clocked 10 ∨ s.boot.xtalBad then s
  else
    let e : Int := (ns.toNat : Int) - 8 * s.now - s.gptpOfs
    let new : Int := (ns.toNat : Int) - 8 * s.now
    let locked := s.f FRM_GPTP_STAT_STATE = 2
    if !s.frm.captured then
      let s := { s.setGptpOfs new with frm := { s.frm with captured := true, slewPpm := 0 } }
      ((s.setF FRM_GPTP_STAT_STATE 2).setF FRM_GPTP_STAT_ERR_NS 0).stampFrm 0x06 0
    else
      let old := s.gptpOfs
      let s := s.setF FRM_GPTP_STAT_ERR_NS (unsigned 16 (clampI (-32767) 32767 e))
      if e.natAbs ≤ 1000000 then
        if e.natAbs < 1000 then
          let s := { s.setF FRM_GPTP_STAT_STATE 2 with frm := { s.frm with slewPpm := 0 } }
          if locked then s else s.stampFrm 0x06 0
        else
          { s.drawn.setF FRM_GPTP_STAT_STATE 1 with frm := { s.frm with slewPpm := ((s.draw % 1001 : Nat) : Int) - 500 } }
      else
        let s := { s with frm := { s.frm with slewPpm := 0 } }
        let s := (s.setGptpOfs new).setF FRM_GPTP_STAT_STATE 2
        let s := if locked then s else s.stampFrm 0x06 0
        (s.raise FRM_FLAG_TIMEBASE_STEP FRM_FLAG_CNT_COUNT).stampFrm 0x05 (unsigned 64 old + unsigned 64 new * 2 ^ 64))

/-- GPTP_HOLDOVER (R278): no synchronisation for 3 s. -/
def execGptpHoldover (s : State) : Host.Outcome State Fault Refusal :=
  go (if s.clocked 2 ∧ (s.f FRM_GPTP_STAT_STATE = 1 ∨ s.f FRM_GPTP_STAT_STATE = 2) then
    ((s.setF FRM_GPTP_STAT_STATE 3).raise FRM_FLAG_GPTP_LOST FRM_FLAG_CNT_COUNT).stampFrm 0x07 0 else s)

/-! The Dailies (R279 to R285) -/

/-- The base of the ring in the map (R282) and of the archive in MRAM (R488). -/
def dlyRing : Nat := 0x08100000
def dlyArchive : Nat := 0x00D00000

/-- The 32 bytes of a record (R279). -/
def DailyRec.bytes (r : DailyRec) : List Byte :=
  bytesLE 8 r.slate.toNat ++ bytesLE 2 (r.index % 0x100 + r.kind * 0x100) ++ bytesLE 2 (r.event % 0x100 + r.unit * 0x100) ++
  bytesLE 4 (r.iseq % 2 ^ 24 + b2n r.corrected * 2 ^ 24 + b2n r.coarse * 2 ^ 25 + r.island * 2 ^ 27) ++
  bytesLE 16 r.data.toNat

/-- Show how many ring records are not yet archived. -/
def State.showPending (s : State) : State := s.setF DLY_ARCH_STAT_PENDING s.dly.pend.length

/-- Put a record into the ring (R281): at INDEX, which advances and counts WRAPS at its return to 0; a record overwritten
before it was archived counts as an overrun. -/
def State.ringWrite (s : State) (r : DailyRec) : State :=
  let k := s.f DLY_WR_INDEX
  let s := s.wrBytes (dlyRing + 32 * k) r.bytes
  let s := if s.dly.pend.length < 8192 then s
    else
      ({ s with dly := { s.dly with pend := s.dly.pend.tail, cover := s.dly.cover - 1 } }.incSat DLY_OVERRUN_COUNT).raise
        DLY_FLAG_UNARCHIVED DLY_FLAG_CNT_COUNT
  let s := { s with dly := { s.dly with pend := s.dly.pend ++ [k], top := max s.dly.top r.slate.toNat } }
  let s := s.setF DLY_WR_INDEX ((k + 1) % 8192)
  (if k + 1 = 8192 then s.incMod DLY_WR_WRAPS else s).showPending

/-- DAILIES_RECORD_WRITE (R280, R281): DLY takes the oldest record waiting in an island's stamp FIFO. -/
def execDailiesRecordWrite (isl : Fin 30) (s : State) : Host.Outcome State Fault Refusal :=
  go (if !s.clocked 2 then s
  else
    let x := s.island isl
    match x.recs with
    | [] => s
    | r :: rest => (s.setIsland isl { x with recs := rest }).ringWrite r)

/-- DAILIES_LOST_RECORD (R280): space has returned in an island's FIFO and it writes how many records it lost. -/
def execDailiesLostRecord (isl : Fin 30) (s : State) : Host.Outcome State Fault Refusal :=
  go (let x := s.island isl
    if x.lost = 0 ∨ 16 ≤ x.recs.length ∨ !s.clocked isl then s
    else (s.setIsland isl { x with lost := 0 }).stamp isl 0x01 0x09 0x09 0x02 (isl + x.lost % 2 ^ 24 * 0x100))

/-- MRAM works: an archive or a STORE has not completed (R30, R285, R498). -/
def State.mramBusy (s : State) : Bool := s.on DLY_ARCH_CTL_BUSY || !s.nvm.queue.isEmpty

/-- In Sleep the clock of MRAM stops once its last archive or STORE has completed (R30). -/
def State.mramRest (s : State) : State :=
  if s.f PWR_STATE_STATE = 2 ∧ !s.mramBusy then s.setF ⟨PWR_ISLAND_STAT, 14, 1⟩ 0 else s

/-- Start an archive, or widen the one that runs to every record now pending (R285). -/
def State.archiveRequest (s : State) : State :=
  { s.setF DLY_ARCH_CTL_BUSY 1 with dly := { s.dly with cover := s.dly.pend.length } }

/-- ARCHIVE_REQUEST (R285): any initiator may ask. -/
def execArchiveRequest (_init : Byte) (s : State) : Host.Outcome State Fault Refusal :=
  go (if s.clocked 2 then s.archiveRequest else s)

/-- The next archive slot whose write verifies, at most 65,536 tries; each skipped slot sets ARCH_ERR. -/
def State.archiveSlot (s : State) (bad : List Nat) : Nat → State
  | 0 => s
  | k + 1 =>
    if bad.contains (s.f DLY_ARCH_STAT_ARCH_WR) then
      ((s.raise DLY_FLAG_ARCH_ERR DLY_FLAG_CNT_COUNT).incMod DLY_ARCH_STAT_ARCH_WR).archiveSlot bad k
    else s

/-- Copy one ring record into the archive, unchanged. -/
def State.archiveOne (s : State) (bad : List Nat) (pos : Nat) : State :=
  let s := s.archiveSlot bad 65536
  (s.mwrBytes (dlyArchive + 32 * s.f DLY_ARCH_STAT_ARCH_WR) (s.rdBytes (dlyRing + 32 * pos) 32)).incMod DLY_ARCH_STAT_ARCH_WR

/-- Archive the oldest `n` pending records in ring order. -/
def State.archiveN (s : State) (bad : List Nat) (n : Nat) : State :=
  let s := (s.dly.pend.take n).foldl (fun s p => s.archiveOne bad p) s
  { s with dly := { s.dly with pend := s.dly.pend.drop n, cover := 0 } }.showPending

/-- ARCHIVE_DONE (R285): the running archive has covered its records. -/
def execArchiveDone (bad : List (BitVec 16)) (s : State) : Host.Outcome State Fault Refusal :=
  go (if s.on DLY_ARCH_CTL_BUSY then
    ((s.archiveN (bad.map BitVec.toNat) s.dly.cover).setF DLY_ARCH_CTL_BUSY 0).mramRest else s)

/-- DLY takes every record that waits in a stamp FIFO. -/
def State.ringDrain (s : State) : State :=
  (List.range 30).foldl (fun s i =>
    let x := s.island i
    x.recs.foldl State.ringWrite (s.setIsland i { x with recs := [] })) s

/-- The flush of a full reset (R110, R285): the records waiting in the stamp FIFOs reach the ring, and the newest 256
pending ones the archive; FLUSH_TRUNC tells that more are pending. -/
def State.flush (s : State) : State :=
  let s := s.ringDrain
  let n := s.dly.pend.length
  let s := if 256 < n then s.raise DLY_FLAG_FLUSH_TRUNC DLY_FLAG_CNT_COUNT else s
  let s := (s.dly.pend.drop (n - 256)).foldl (fun s p => s.archiveOne [] p) s
  { s with dly := { s.dly with pend := s.dly.pend.take (n - 256), cover := 0 } }.showPending

/-! Frame sync (R287 to R291) -/

/-- A multiple of `d` nearest to `x`; between two equally near ones the part chooses. -/
def nearest (bit : Nat) (x d : Int) : Int :=
  if d ≤ 0 then x
  else
    let lo := x / d * d
    if 2 * (x - lo) < d ∨ (2 * (x - lo) = d ∧ bit % 2 = 0) then lo else lo + d

/-- Send a boundary to every live die (R288), which makes of a shift that its adoption has left at most P / 8 in each frame (R291),
and on a master in a BOUNDARY frame to every trained expansion (R393). -/
def State.sendBoundary (s : State) (b : Nat) : State :=
  let p := s.framePeriod
  let s := s.dieLinks.foldl (fun s n =>
    let d := s.die n
    let rest := d.pull - clampI (-(p / 8)) (p / 8) d.pull
    if s.live n then s.setDie n { d with boundary := ((b : Int) - rest).toNat, pull := rest } else s)
    { s with frm := { s.frm with prev := b } }
  [1, 2, 3].foldl (fun s n => if s.trkUsable n then s.trkKeep n 3 0 0 (bytesLE 8 b) else s) s

/-- A boundary in FREE (R287, R290): it moves toward the slate grid by at most P / 8. -/
def State.freeBoundary (s : State) (bit : Nat) : State :=
  let p := s.framePeriod
  let n : Int := s.frm.prev + p
  let e := nearest bit n p - n
  let s := (s.setF FRM_LOCK_STATE 0).setF FRM_LOCK_ERR_US (unsigned 16 (divFree (bit / 2) e 125))
  s.sendBoundary (n + clampI (-(p / 8)) (p / 8) e).toNat

/-- A boundary under FSYNC (R289, R290): at the nearest target if that lies within P / 8, else a slip of P / 8 toward it.
Errors are kept times FSYNC_DIV, so that no target is rounded before the boundary is. -/
def State.syncBoundary (s : State) (bit : Nat) : State :=
  let p := s.framePeriod
  let d : Int := max 1 (s.f FRM_CFG_FSYNC_DIV)
  let t : Int := (s.reg FRM_FSYNC_INT).toNat
  let e0 : Int := (s.reg FRM_FSYNC_LAST_LO).toNat + (s.reg FRM_FSYNC_LAST_HI).toNat * 2 ^ 32 +
    signed 16 (s.f FRM_FSYNC_OFS_OFS_US) * 125
  let n : Int := s.frm.prev + p
  let ed := e0 * d + nearest bit ((n - e0) * d) t - n * d
  let s := s.setF FRM_LOCK_ERR_US (unsigned 16 (divFree (bit / 2) ed (125 * d)))
  if 8 * ed.natAbs ≤ (p * d).natAbs then
    let b := (n + divFree (bit / 4) ed d).toNat
    let was := s.f FRM_LOCK_STATE
    let s := ((s.setF FRM_LOCK_SLIPS 0).setF FRM_LOCK_STATE 2).sendBoundary b
    if was = 2 then s else s.stampFrm 0x02 (b * 2 ^ 32)
  else
    let move := divFree (bit / 8) p 8
    let b := (if ed < 0 then n - move else n + move).toNat
    let k := min 8 (s.f FRM_LOCK_SLIPS + 1)
    let was := s.f FRM_LOCK_STATE
    let s := (((s.raise FRM_FLAG_SLIP FRM_FLAG_CNT_COUNT).setF FRM_LOCK_SLIPS k).incSat FRM_SLIP_CNT_COUNT).stampFrm 0x01
      (unsigned 32 (divFree (bit / 16) ed d) + b * 2 ^ 32)
    let s := s.sendBoundary b
    if k < 8 then s.setF FRM_LOCK_STATE 1
    else if was = 3 then s
    else (((s.setF FRM_LOCK_STATE 3).raise FRM_FLAG_LOCK_LOST FRM_FLAG_CNT_COUNT).stampFrm 0x03 (b * 2 ^ 32)).unitCue
      s.scr.frmEngine 0x08 0x03 0 0

/-- FRAME_BOUNDARY_DECIDE (R287 to R290); an expansion that sees TK_SYNC takes the master's boundaries instead (R393). -/
def execFrameBoundaryDecide (s : State) : Host.Outcome State Fault Refusal :=
  go (let bit := s.draw
    let s := s.drawn
    if !s.clocked 2 ∨ (s.expansion ∧ s.f TRK_STAT_SYNC = 1) then s
    else if s.on FRM_CFG_FSYNC_EN ∧ s.f FRM_LOCK_STATE ≠ 0 ∧ (s.reg FRM_FSYNC_INT).toNat ≠ 0 then s.syncBoundary bit
    else s.freeBoundary bit)

/-- A channel at its die's frame boundary (R127, R134, R140): the frame counts toward PWM_EVERY, the staged PWM word takes effect,
what waits for a period start happens, and an ON channel whose MODE is PWM becomes PWM. -/
def State.frameCh (s : State) (c : Nat) : State :=
  let d := s.dieCh c
  let s := match d.nextWord with
    | some (duty, pdiv, phase) => s.setDieCh c { d with duty := duty, pdiv := pdiv, phase := phase, nextWord := none, nextDuty := none }
    | none => s
  let s := s.setChan c { s.chan c with frames := min ((s.chan c).frames + 1) 0xFF }
  if 2 < chClass c then s
  else s.inDie c (fun s =>
    let s := s.periodStart c true
    if s.ph c = phON ∧ s.modeOf c = 2 then s.setPh c phPWM else s)

/-- DIE_FRAME_BOUNDARY (R288): a die's own counter reaches the boundary; one that is not live has set it itself, its last frame
length after the one before (R218). -/
def execDieFrameBoundary (n : Fin 14) (s : State) : Host.Outcome State Fault Refusal :=
  go (if s.diePresent n ∧ !(s.die n).stopped then
    let d := s.die n
    let s := if s.live n then s else
      s.setDie n { d with boundary := d.boundary + (s.asDie n).f FRM_CFG_PERIOD_US * 125 }
    (linkChans n).foldl State.frameCh s
  else s)

/-- FSYNC_EDGE (R289, R290): an edge of the polarity of FSYNC_POL is stamped, its interval is held, and the second edge
counted with FSYNC_EN begins to acquire. -/
def execFsyncEdge (falling : Bool) (s : State) : Host.Outcome State Fault Refusal :=
  go (if s.on FRM_CFG_FSYNC_POL ≠ falling ∨ !s.clocked 2 then s
  else
    let last := (s.reg FRM_FSYNC_LAST_LO).toNat + (s.reg FRM_FSYNC_LAST_HI).toNat * 2 ^ 32
    let s := if 1 ≤ s.frm.edges then s.setReg FRM_FSYNC_INT (BitVec.ofNat 32 (s.now - last)) else s
    let s := (s.setReg FRM_FSYNC_LAST_LO (BitVec.ofNat 32 s.now)).setReg FRM_FSYNC_LAST_HI (BitVec.ofNat 32 (s.now / 2 ^ 32))
    let s := { s with frm := { s.frm with edges := min 2 (s.frm.edges + 1) } }
    if s.frm.edges = 2 ∧ s.on FRM_CFG_FSYNC_EN ∧ s.f FRM_LOCK_STATE = 0 then s.setF FRM_LOCK_STATE 1 else s)

/-- FSYNC_MISSING (R290): no edge for 2 × FSYNC_DIV frames; two new edges are needed to acquire again. -/
def execFsyncMissing (s : State) : Host.Outcome State Fault Refusal :=
  go (if s.f FRM_LOCK_STATE = 0 ∨ !s.clocked 2 then s
  else
    let s := { s.setF FRM_LOCK_STATE 0 with frm := { s.frm with edges := 0 } }
    (s.raise FRM_FLAG_FSYNC_MISSING FRM_FLAG_CNT_COUNT).stampFrm 0x04 (s.frm.prev * 2 ^ 32))

end Sys2Proof.Machine
end

