-- ==== Sys2Proof/Machine/Gateway.lean ====
section
/-! DEFINITION. The gateway: lookup and actions (R337 to R352), frame buffers and egress (R344, R351), the flow contexts
(R346), the update of the table (R355 to R358), ACF CAN (R359 to R361) and internal injection (R362). -/

namespace Sys2Proof.Machine

/-! Words of records -/

/-- A record of CANn in the Bus island (R328). -/
def State.stampCan (s : State) (n event data : Nat) : State := s.stamp 11 0x01 (0x10 + n) (0x10 + n) event data

/-- A UNIT cue of CANn to a receiver (R328). -/
def State.canCue (s : State) (n target code arg : Nat) : State :=
  s.unitCue target (0x10 + n) code arg (openData (0x10 + n) code)

/-- A stamped event of CANn with its cue to the controller engine. -/
def State.canEvent (s : State) (n code arg data : Nat) : State :=
  (s.stampCan n code data).canCue n (s.f (CAN_ACCESS_CTL_ENGINE n)) code arg

/-- The address of queue entry `k` of CANn (R301). -/
def canE (n k : Nat) : Nat := 0x04700000 + n * 0x1000 + k * 0x60

/-- STATE of an entry. -/
def ceSTATE (n k : Nat) : RF := ⟨canE n k, 0, 3⟩
/-- CUE_DONE. -/
def ceCUE (n k : Nat) : RF := ⟨canE n k, 4, 1⟩
/-- REFLEX. -/
def ceREFLEX (n k : Nat) : RF := ⟨canE n k, 5, 1⟩
/-- REROUTE. -/
def ceREROUTE (n k : Nat) : RF := ⟨canE n k, 6, 1⟩
/-- ATTEMPTS. -/
def ceATT (n k : Nat) : RF := ⟨canE n k, 16, 8⟩
/-- TWIN_RUN. -/
def ceRUN (n k : Nat) : RF := ⟨canE n k, 24, 4⟩
/-- TWINS. -/
def ceTWINS (n k : Nat) : RF := ⟨canE n k, 28, 4⟩
/-- The identifier word. -/
def ceID (n k : Nat) : RF := ⟨canE n k + 4, 0, 32⟩
/-- DLC. -/
def ceDLC (n k : Nat) : RF := ⟨canE n k + 8, 0, 4⟩
/-- FDF. -/
def ceFDF (n k : Nat) : RF := ⟨canE n k + 8, 4, 1⟩
/-- BRS. -/
def ceBRS (n k : Nat) : RF := ⟨canE n k + 8, 5, 1⟩
/-- LAST_ERR. -/
def ceERR (n k : Nat) : RF := ⟨canE n k + 12, 0, 3⟩

/-- The owner of an entry (R301). -/
def State.canOwner (s : State) (n k : Nat) : Nat := s.f ⟨CAN_QOWN n (k / 4), 8 * (k % 4), 8⟩

/-- The entry is in a hardware state (R302): QUEUED, SENDING or SUSPENDED. -/
def State.canHw (s : State) (n k : Nat) : Bool := let x := s.mf (ceSTATE n k); 1 ≤ x && x ≤ 3

/-- The record DATA of TWIN (R328): the ID word, the entry, TEC. -/
def State.twinData (s : State) (n k : Nat) : Nat := s.mf (ceID n k) + k * 2 ^ 32 + s.f (CAN_STAT_TEC n) * 2 ^ 48

/-- Payload bytes of a DLC. -/
def dlcLen (fd : Bool) (d : Nat) : Nat :=
  if d ≤ 8 then d
  else if !fd then 8
  else match d with | 9 => 12 | 10 => 16 | 11 => 20 | 12 => 24 | 13 => 32 | 14 => 48 | _ => 64

/-- The DLC whose length is at least a number of bytes. -/
def lenDlc (n : Nat) : Nat :=
  if n ≤ 8 then n else if n ≤ 12 then 9 else if n ≤ 16 then 10 else if n ≤ 20 then 11 else if n ≤ 24 then 12
  else if n ≤ 32 then 13 else if n ≤ 48 then 14 else 15

/-- The next valid CAN FD length. -/
def fdLen (n : Nat) : Nat := dlcLen true (lenDlc n)

/-! LIN buffers (R320) -/

/-- The address of frame buffer `b` of LINn. -/
def linB (n b : Nat) : Nat := 0x04708000 + n * 0x1000 + b * 0x10

/-- FID. -/
def lbFID (n b : Nat) : RF := ⟨linB n b, 0, 6⟩
/-- DIR. -/
def lbDIR (n b : Nat) : RF := ⟨linB n b, 6, 1⟩
/-- ENHANCED. -/
def lbENH (n b : Nat) : RF := ⟨linB n b, 7, 1⟩
/-- LEN. -/
def lbLEN (n b : Nat) : RF := ⟨linB n b, 8, 4⟩
/-- TYPE. -/
def lbTYPE (n b : Nat) : RF := ⟨linB n b, 12, 2⟩
/-- CUE_RX. -/
def lbCUE (n b : Nat) : RF := ⟨linB n b, 14, 1⟩
/-- OWNER. -/
def lbOWNER (n b : Nat) : RF := ⟨linB n b, 16, 8⟩
/-- UPDATED. -/
def lbUPD (n b : Nat) : RF := ⟨linB n b + 4, 1, 1⟩
/-- RESULT. -/
def lbRES (n b : Nat) : RF := ⟨linB n b + 4, 2, 2⟩
/-- SEQ. -/
def lbSEQ (n b : Nat) : RF := ⟨linB n b + 4, 16, 16⟩

/-- The publish copy of a buffer. -/
def State.linPub (s : State) (n b : Nat) : List Byte := tget (fun _ => []) (s.lin n).pub b

/-- Commit a publish copy: UPDATED is set (R320). -/
def State.linCommit (s : State) (n b : Nat) (d : List Byte) : State :=
  let x := s.lin n
  (s.setLin n { x with pub := tset (fun _ => []) x.pub b d }).setMf (lbUPD n b) 1

/-! Table (R337 to R340) -/

/-- The 48-bit key of a frame. -/
def GwFrame.key (f : GwFrame) : Nat := f.port + f.kind * 0x20 + f.sub * 0x100 + f.id * 0x10000

/-- How many ID bits the key of a KIND has (R337). -/
def keyBits (kind : Nat) : Nat :=
  match kind with
  | 0 | 4 => 11
  | 2 => 6
  | 6 => 7
  | _ => 29

/-- CRC-16 with polynomial 0x1021, one byte. -/
def crc16Step (crc : Nat) (b : Nat) : Nat :=
  (List.range 8).foldl (fun c _ => if bitOf c 15 then (c * 2) % 0x10000 ^^^ 0x1021 else c * 2 % 0x10000)
    (crc ^^^ (b * 0x100))

/-- CRC-16 over bytes from a seed. -/
def crc16 (seed : Nat) (l : List Byte) : Nat := l.foldl (fun c b => crc16Step c b.toNat) seed

/-- The bucket of a key under a seed (R338). -/
def gwBucket (seed key : Nat) : Nat := crc16 seed (bytesLE 6 key) % 0x2000

/-- An entry of 16 bytes as a number: word k in bits [32k+31:32k]. -/
abbrev GwEntry := Nat

/-- A field of an entry. -/
def gwf (e : GwEntry) (word lo w : Nat) : Nat := e / 2 ^ (32 * word + lo) % 2 ^ w

/-- VALID and the key of an entry. -/
def gwMatches (e : GwEntry) (key : Nat) : Bool :=
  gwf e 1 16 1 = 1 && gwf e 1 0 16 = key % 0x10000 && gwf e 0 0 32 = key / 0x10000

/-- Entry `i` of the active or the shadow stash, which begins at a register address. -/
def State.stashEntry (s : State) (base i : Nat) : GwEntry :=
  (List.range 4).foldl (fun a w => a + (s.reg (base + 16 * i + 4 * w)).toNat * 2 ^ (32 * w)) 0

/-- The lookup (R340): ways 0 to 3 of the key's bucket, then the stash. -/
def State.gwFind (s : State) (key : Nat) : Option GwEntry :=
  let b := 0x04000000 + gwBucket (s.f GW_CFG_HASH_SEED) key * 0x40
  ((List.range 4).map (fun w => s.rdN (b + 0x10 * w) 16) ++ (List.range 64).map (s.stashEntry (GW_STASH_ACT 0))).find?
    (fun e => gwMatches e key)

/-! Flow contexts (R346) -/

/-- The address of a flow context. -/
def flowAt (f : Nat) : Nat := 0x04600000 + f * 0x40

/-- A field of a flow context word. -/
def State.fc (s : State) (f off lo w : Nat) : Nat := s.mf ⟨flowAt f + off, lo, w⟩

/-- Replace a field of a flow context word. -/
def State.setFc (s : State) (f off lo w v : Nat) : State := s.setMf ⟨flowAt f + off, lo, w⟩ v

/-- A field of a payload (R346): its most significant bit at offset b, none where it lies beyond the payload. -/
def payloadField (l : List Byte) (b w : Nat) : Option Nat :=
  if 8 * l.length < b + w then none else some (natBE l / 2 ^ (8 * l.length - b - w) % 2 ^ w)

/-- A record of GW in the Gateway island, with the SOURCE of R521. -/
def State.stampGw (s : State) (kind index event data : Nat) : State := s.stamp 9 kind index 0x21 event data

/-- A payload field beyond the payload: FIELD_SHORT (R347, R350). -/
def State.fieldShort (s : State) : State := s.raise GW_FLAG_FIELD_SHORT GW_FLAG_CNT_COUNT

/-- The receiver-side twin check and the update of LAST_CTR and LAST_HASH (R347); the hash is of the payload. -/
def State.twinCheck (s : State) (e : GwEntry) (g : GwFrame) : State :=
  let f := gwf e 3 0 10
  let bits := s.fc f 0x08 9 5
  let hash := crc16 0xFFFF g.data
  let lastC := s.fc f 0x3C 0 16
  let lastH := s.fc f 0x3C 16 16
  if bits = 0 then s.setFc f 0x3C 16 16 hash
  else
    match payloadField g.data (s.fc f 0x08 0 9) bits with
    | none => if gwf e 1 18 1 = 1 then s.fieldShort else s
    | some c =>
      let prev := s.rdN (flowAt f + 0x30) 8
      let twin := gwf e 1 18 1 = 1 && decide (prev ≠ 0) && decide (s.now - prev < 125000) && decide (hash ≠ lastH) &&
        decide (c ≠ lastC) && decide (c ≠ (lastC + 1) % 2 ^ bits)
      let s := if twin then
          let s := (s.raise GW_FLAG_RX_TWIN GW_FLAG_CNT_COUNT).stampGw 0x0A g.port 0x01
            (g.key + f * 2 ^ 48 + lastC * 2 ^ 64 + c * 2 ^ 80 + lastH * 2 ^ 96 + hash * 2 ^ 112)
          s.unitCue (gwf e 1 24 8) 0x21 0x01 f (lastC + c * 0x10000)
        else s
      (s.setFc f 0x3C 0 16 c).setFc f 0x3C 16 16 hash

/-- Step 1 of a hit (R343): twin check, then stamp, hits and the timeout of the flow context. -/
def State.flowHit (s : State) (e : GwEntry) (g : GwFrame) : State :=
  let f := gwf e 3 0 10
  let s := if gwf e 3 10 1 = 1 then
      let s := s.twinCheck e g
      let s := (s.wrN (flowAt f + 0x30) 8 s.now).setFc f 0x38 0 24 ((s.fc f 0x38 0 24 + 1) % 2 ^ 24)
      { s with gw := { s.gw with timedOut := s.gw.timedOut.filter (· ≠ f) } }
    else s
  if gwf e 1 17 1 = 1 then s.stampGw 0x0A g.port 0x10 (g.key + f * 2 ^ 48 + sliceLE g.data 0 8 * 2 ^ 64) else s

/-! Frame buffers (R344, R351) -/

/-- A buffer in use. -/
def State.gwBuf (s : State) (b : Nat) : GwBuf := tget (fun _ => {}) s.gw.bufs b

/-- Put a buffer; one with nothing left to do is free. -/
def State.setGwBuf (s : State) (b : Nat) (x : GwBuf) : State :=
  { s with gw := { s.gw with bufs := tset (fun _ => {}) s.gw.bufs b (if x.cued = [] ∧ x.routes = 0 then {} else x) } }

/-- The lowest free buffer (log entry 13), if one of the 2,048 is free. -/
def State.freeBuf (s : State) : Option Nat := (List.range 2048).find? (fun b => s.gwBuf b = {})

/-- Write a frame into a buffer of the message RAM (R351). -/
def State.fillBuf (s : State) (b : Nat) (e : GwEntry) (g : GwFrame) : State :=
  let a := 0x04710000 + b * 0x60
  let s := s.zeroMem a (a + 0x60)
  let s := s.wrN a 4 (g.id + b2n g.ide * 2 ^ 29 + b2n g.fdf * 2 ^ 30 + b2n g.brs * 2 ^ 31)
  let s := s.wrN (a + 4) 4 (g.port + g.kind * 0x20 + g.sub * 0x100 + min g.data.length 64 * 0x10000 +
    b2n (64 < g.data.length) * 0x800000)
  let s := (s.wrN (a + 8) 8 g.stamp).wrBytes (a + 0x10) (g.data.take 64)
  s.wrN (a + 0x50) 4 (gwf e 3 0 11)

/-- One of a buffer's destinations has taken the frame. -/
def State.bufTaken (s : State) (b : Nat) : State := s.setGwBuf b { s.gwBuf b with routes := (s.gwBuf b).routes - 1 }

/-- Drop counters of GW_DROP_CNT. -/
def State.gwDrop (s : State) (r : RF) : State := s.incSat r

/-! ACF PDUs (R359, R360) -/

/-- gPTP time of a stamp in ns (R278). -/
def State.gptpOf (s : State) (stamp : Nat) : Nat := unsigned 64 (8 * stamp + s.gptpOfs)

/-- The Ethernet tables' words. -/
def State.ethWords (s : State) : List (Nat × Word) := s.regs.filter (fun e => 0x05201000 ≤ e.1 && e.1 < 0x05208000)

/-- An item of the Ethernet tables. -/
def State.ethTab (s : State) (table row item : Nat) : Nat := Config.ethTable s.ethWords table row item

/-- The settings of PLCA in the tables, each within its range (R336); PLCA_ACTIVE shows that PLCA runs on the port, which in clock
fallback is silent (R107). DESIGN CHOICE (log entry 69): it runs as soon as it is in use. -/
def State.plcaLoad (s : State) : State :=
  let on := s.ethTab 9 0 0 = 1
  let p : Plca := { on := on, node := s.ethTab 9 0 1 % 32, count := max 2 (min (s.ethTab 9 0 2) 32)
                    toTimer := if s.ethTab 9 0 3 = 0 then 32 else min (s.ethTab 9 0 3) 255, burst := min (s.ethTab 9 0 4) 255 }
  { s with eth := { s.eth with plca := p } }.setF (ETH_PORT_STAT_PLCA_ACTIVE 2) (b2n (on && !s.boot.xtalBad))

/-- The module's MAC address. -/
def State.ethMac (s : State) : Nat := s.ethTab 7 0 0

/-- The place of the open PDU of a port for a VID and a PCP, which all its messages take (R345). -/
def pduKey (p vid pcp : Nat) : Nat := p + 4 * vid + 0x4000 * pcp

/-- An open PDU. -/
def State.pdu (s : State) (k : Nat) : AcfPdu := tget (fun _ => {}) s.eth.pdu k

/-- Put it. -/
def State.setPdu (s : State) (k : Nat) (x : AcfPdu) : State := { s with eth := { s.eth with pdu := tset (fun _ => {}) s.eth.pdu k x } }

/-- The stream of a destination and VLAN (R334: null stream identification), if one of the 32 is. -/
def State.ethStream (s : State) (dst vid : Nat) : Option Nat :=
  (List.range 32).find? (fun r => s.ethTab 5 r 0 = 1 && s.ethTab 5 r 1 = dst && s.ethTab 5 r 2 = vid)

/-- The row of the VLAN table with a VID (R332). -/
def State.vlanRow (s : State) (vid : Nat) : Option Nat :=
  (List.range 64).find? (fun r => s.ethTab 1 r 0 = 1 && s.ethTab 1 r 1 = vid)

/-- A frame as it leaves on a port: the untag set of its VLAN takes the tag off (R332). -/
def State.untagged (s : State) (p : Nat) (f : EthFrame) : EthFrame :=
  match f.tag with
  | some t => (match s.vlanRow t.1.toNat with
    | some row => if bitOf (s.ethTab 1 row 3) p then { f with tag := none } else f
    | none => f)
  | none => f

/-- Put a frame on the queue of a port, in the traffic class of its PCP (R332). -/
def State.ethPut (s : State) (p pcp : Nat) (f : EthFrame) : State :=
  { s with eth := { s.eth with txq := s.eth.txq ++ [{ port := p, cls := s.ethTab 3 pcp 0 % 8, f := s.untagged p f }] } }

/-- Transmit a frame on a port: one of a replicated stream takes the stream's next sequence number in an R-TAG and goes to both
uplinks (R334). -/
def State.ethQueue (s : State) (p : Nat) (f : EthFrame) : State :=
  let vid := match f.tag with | some t => t.1.toNat | none => 0
  let pcp := match f.tag with | some t => t.2.toNat | none => 0
  match s.ethStream f.dst.toNat vid with
  | some r =>
    if p < 2 ∧ s.ethTab 5 r 3 = 1 then
      let q := tget (fun _ => 0) s.eth.txSeq r
      let f := { f with rtag := some (BitVec.ofNat 16 q) }
      let s := { s with eth := { s.eth with txSeq := tset (fun _ => 0) s.eth.txSeq r ((q + 1) % 0x10000) } }
      (s.ethPut 0 pcp f).ethPut 1 pcp f
    else s.ethPut p pcp f
  | none => s.ethPut p pcp f

/-- Close an open PDU: an NTSCF frame is queued (R359). -/
def State.pduClose (s : State) (k : Nat) : State :=
  let x := s.pdu k
  let p := k % 4
  if x.bytes = [] then s
  else
    let q := tget (fun _ => 0) s.eth.pduSeq p
    let n := x.bytes.length
    let head := bytesBE 1 0x82 ++ bytesBE 2 (0x8000 + n % 0x800) ++ bytesBE 1 q ++
      bytesBE 8 (s.ethMac * 65536 + s.f GW_ACF_CFG_STREAM_UID)
    let s := s.setPdu k {}
    let s := { s with eth := { s.eth with pduSeq := tset (fun _ => 0) s.eth.pduSeq p ((q + 1) % 0x100) } }
    s.ethQueue p { dst := BitVec.ofNat 48 (Config.openValue 1 p), src := BitVec.ofNat 48 s.ethMac,
                   tag := some (BitVec.ofNat 12 x.vid, BitVec.ofNat 3 x.pcp), etype := 0x22F0, data := head ++ x.bytes }

/-- One ACF CAN or ACF CAN_BRIEF message (R359). -/
def State.acfMessage (s : State) (g : GwFrame) (bus : Nat) : List Byte :=
  let brief := s.on GW_ACF_CFG_BRIEF
  let pad := (4 - g.data.length % 4) % 4
  let quads := (if brief then 2 else 4) + (g.data.length + pad) / 4
  let flags := pad * 0x40 + b2n (!brief) * 0x20 + b2n g.rtr * 0x10 + b2n g.ide * 8 + b2n g.brs * 4 + b2n g.fdf * 2
  bytesBE 2 ((if brief then 2 else 1) * 0x200 + quads) ++ bytesBE 1 flags ++ bytesBE 1 (bus % 0x20) ++
  (if brief then [] else bytesBE 8 (s.gptpOf g.stamp)) ++ bytesBE 4 g.id ++ g.data ++ List.replicate pad 0

/-- Bytes of a frame around the messages of a PDU: header of Ethernet with its tag and of NTSCF. -/
def pduHead : Nat := 30

/-- A message joins the PDU of a port, VID and PCP, which closes before it would grow beyond 1,500 bytes and after a message of an
entry with REFLEX or PRIO 3 (R360). -/
def State.acfAdd (s : State) (p : Nat) (x : Egress) : State :=
  let m := s.acfMessage x.f x.bus
  let k := pduKey p (x.vid % 0x1000) (x.pcp % 8)
  let s := if 1500 < pduHead + (s.pdu k).bytes.length + m.length then s.pduClose k else s
  let d := s.pdu k
  let d := if d.bytes = [] then { bytes := m, at_ := s.now, vid := x.vid, pcp := x.pcp } else { d with bytes := d.bytes ++ m }
  let s := s.setPdu k d
  if x.reflex ∨ x.prio = 3 ∨ s.f GW_ACF_CFG_BATCH_US = 0 then s.pduClose k else s

/-! Routing (R344, R345) -/

/-- The frame as it leaves under XFORM (R345). -/
def State.transform (s : State) (e : GwEntry) (g : GwFrame) : GwFrame :=
  if gwf e 1 20 1 = 0 then g
  else
    let f := gwf e 3 0 10
    let fill : Byte := BitVec.ofNat 8 (s.fc f 0x04 19 8)
    let dst := s.fc f 0x04 6 6
    let len := s.fc f 0x04 12 7
    let src := s.fc f 0x04 0 6
    let body := List.replicate dst fill ++ (List.range len).map (fun k => g.data.getD (src + k) fill)
    let fdf := s.fc f 0x00 30 1 = 1
    let total := if fdf then fdLen (dst + len) else dst + len
    { g with kind := if s.fc f 0x00 29 1 = 1 then 1 else 0, id := s.fc f 0x00 0 29, ide := s.fc f 0x00 29 1 = 1, fdf := fdf,
             brs := s.fc f 0x00 31 1 = 1, rtr := false, eth := none,
             data := body ++ List.replicate (total - (dst + len)) fill }

/-- The transceiver of a CAN or LIN segment is in NORMAL and NM does not hold the segment back (R344, R378). -/
def State.segNormal (s : State) (k : Nat) : Bool :=
  s.f (trxStateRF k) = trNORMAL && !(s.nmOn k && (s.nst k = nsWAIT || s.nst k = nsSLEEP))

/-- The publish buffer of LINn that takes a routed identifier (R344). -/
def State.linTarget (s : State) (n id : Nat) : Option Nat :=
  (List.range 64).find? (fun b => s.mf (lbLEN n b) ≠ 0 && s.mf (lbFID n b) = id && s.mf (lbDIR n b) = 0 &&
    s.mf (lbOWNER n b) = 0xFF)

/-- Frames waiting on a port. -/
def State.waitingOn (s : State) (p : Nat) : Nat := (s.gw.out.filter (fun x => x.port = p)).length

/-- Put a frame on a port's queue and count the destination at its buffer. -/
def State.egress (s : State) (x : Egress) : State :=
  let s := { s with gw := { s.gw with out := s.gw.out ++ [x] } }
  if x.free then s else s.setGwBuf x.buf { s.gwBuf x.buf with routes := (s.gwBuf x.buf).routes + 1 }

/-- A frame for port 20 leaves for the expansion of its entry (R397): a GW_SHORT is kept until it is acknowledged, a GW_LONG is not; where
the expansion is not trained the frame is dropped (R330, R392). -/
def State.trkRoute (s : State) (x : Egress) : State :=
  if !s.trkUsable x.exp then s.gwDrop GW_DROP_CNT_FORMAT
  else if (x.reflex ∨ x.prio = 3) ∧ x.f.data.length ≤ 8 then s.trkKeep x.exp 0 0 0 []
  else s

/-- The port takes frames (R330, R344): its controller is not in OFF, its transmitter not silent in clock fallback (R107), and an FD frame
finds FD_EN 1. -/
def State.portUsable (s : State) (p : Nat) (fdf : Bool) : Bool :=
  if 3 ≤ p ∧ p < 11 then
    s.busPresent (p - 3) && (s.can (p - 3)).mode ≠ mdOFF && (!fdf || s.on (CAN_CFG_FD_EN (p - 3))) && !s.boot.xtalBad
  else if 11 ≤ p ∧ p < 19 then s.busPresent (p - 11) && !s.boot.xtalBad
  else p < 3 && !s.boot.xtalBad

/-- Route a frame to one destination port. A LIN port takes the identifier that the frame came with: FC_OUT gives that of CAN and ACF
destinations (R345). -/
def State.routePort (s : State) (x : Egress) : State :=
  let p := x.port
  let full := !x.free && s.f (GW_PORT_CFG_QUOTA p) ≤ s.waitingOn p
  let usable := s.portUsable p x.f.fdf
  let canLike := x.f.kind = 0 || x.f.kind = 1 || x.f.kind = 2 || x.f.kind = 4 || x.f.kind = 5
  if 3 ≤ p ∧ p < 19 ∧ !s.busPresent ((p - 3) % 8) then s
  else if p = 20 ∧ s.expansion then s
  else if 3 ≤ p ∧ p < 11 then
    let n := p - 3
    if !canLike ∨ !usable then s.gwDrop GW_DROP_CNT_FORMAT
    else if !s.segNormal n ∧ !x.wake then s.gwDrop GW_DROP_CNT_ASLEEP
    else if full then s.gwDrop GW_DROP_CNT_NOBUF
    else
      let s := s.egress x
      if x.wake ∧ !s.segNormal n then s.localWake n 3 else s.nmRecheck
  else if 11 ≤ p ∧ p < 19 then
    let n := p - 11
    match (if canLike ∧ usable then s.linTarget n (x.key / 0x10000) else none) with
    | none => s.gwDrop GW_DROP_CNT_FORMAT
    | some b =>
      if !s.segNormal (8 + n) ∧ !x.wake then s.gwDrop GW_DROP_CNT_ASLEEP
      else
        let s := s.linCommit n b (x.f.data.take 8)
        if x.wake ∧ !s.segNormal (8 + n) then s.localWake (8 + n) 3 else s
  else if p < 3 then
    if !usable then s.gwDrop GW_DROP_CNT_FORMAT
    else if canLike then s.acfAdd p x
    else match x.f.eth with
      | none => s.gwDrop GW_DROP_CNT_FORMAT
      | some f => s.ethQueue p { f with tag := some (BitVec.ofNat 12 x.vid, BitVec.ofNat 3 x.pcp), sec := none }
  else if p = 20 then s.trkRoute x
  else s.gwDrop GW_DROP_CNT_FORMAT

/-- The can_bus_id of a frame on Ethernet (R360): OUT_BUS where transformed, the SUB of an ACF frame, else 8 × SUB and the
controller index. -/
def State.acfBus (s : State) (e : GwEntry) (g : GwFrame) : Nat :=
  if gwf e 1 20 1 = 1 then s.fc (gwf e 3 0 10) 0x04 27 5
  else if g.kind = 4 ∨ g.kind = 5 then g.sub
  else 8 * g.sub + (if 3 ≤ g.port ∧ g.port < 11 then g.port - 3 else Config.openValue 0 g.port % 8)

/-- The VID and PCP with which a frame leaves on Ethernet: OUT_VID and OUT_PCP of its entry, and without one those it came with, or
values that are not stated (log entry 70). -/
def outTag (e : GwEntry) (g : GwFrame) : Nat × Nat :=
  if e ≠ 0 then (gwf e 3 11 12, gwf e 3 23 3)
  else match g.eth.bind EthFrame.tag with
    | some t => (t.1.toNat, t.2.toNat)
    | none => (Config.openValue 7 g.port % 0x1000, Config.openValue 8 g.port % 8)

/-- Route a frame to the ports of a mask, from a buffer. -/
def State.route (s : State) (e : GwEntry) (g : GwFrame) (dest buf : Nat) : State :=
  let f := s.transform e g
  let t := outTag e g
  (List.range 21).foldl (fun s p =>
    if !bitOf dest p then s
    else s.routePort { port := p, buf := buf, prio := gwf e 2 27 2, key := g.key, f := f, vid := t.1, pcp := t.2,
                       exp := gwf e 3 26 2, bus := s.acfBus e g, reflex := gwf e 1 22 1 = 1, wake := gwf e 2 26 1 = 1,
                       since := s.now }) s

/-! Lookup (R340 to R343, R350, R351) -/

/-- The slots of a direct reflex that a payload selects (R350). -/
def State.rfxSlots (s : State) (e : GwEntry) (g : GwFrame) : Option (List Nat) :=
  let f := gwf e 3 0 10
  let off := s.fc f 0x0C 0 9
  match s.fc f 0x0C 9 2 with
  | 0 => some [0, 1, 2, 3]
  | 1 => (payloadField g.data off 1).map (fun v => [2 * v, 2 * v + 1])
  | 2 => (payloadField g.data off 2).map (fun v => [v])
  | _ => some []

/-- A direct reflex (R350): the VALID slots selected go to the executor in slot order. -/
def State.directReflex (s : State) (e : GwEntry) (g : GwFrame) : State :=
  let f := gwf e 3 0 10
  match s.rfxSlots e g with
  | none => s.fieldShort
  | some l =>
    { s with exec := s.exec ++ (l.filter (fun k => s.fc f (0x10 + 8 * k) 9 1 = 1)).map (fun k =>
      { init := 0, ch := s.fc f (0x10 + 8 * k) 0 8, pwm := s.fc f (0x10 + 8 * k) 8 1 = 1, value := s.fc f (0x14 + 8 * k) 0 32,
        engine := gwf e 1 24 8, flow := f, slot := k }) }

/-- A FRAME (class 2) or REFLEX (class 1) cue for a frame (R351). -/
def State.frameCue (s : State) (target cls : Nat) (g : GwFrame) (buf : Option Nat) : State :=
  let s := s.postCue target cls g.kind 0x0A g.port (match buf with | some b => b | none => 0xFFFF) g.id false
  match buf with
  | some b =>
    if target = 0 ∨ (s.gwBuf b).cued.contains target then s
    else s.setGwBuf b { s.gwBuf b with cued := (s.gwBuf b).cued ++ [target], since := s.now }
  | none => s

/-- Steps 2 to 4 of a hit: reflex, FRAME cue, route. A buffer is taken when a cue or a route needs it. -/
def State.gwActions (s : State) (e : GwEntry) (g : GwFrame) (isZrt : Bool) : State :=
  let reflexEng := gwf e 1 22 1 = 1 && gwf e 1 23 1 = 1
  let cue := gwf e 1 21 1 = 1
  let rt := gwf e 1 19 1 = 1 && !isZrt
  let buf := if reflexEng || cue || rt then s.freeBuf else none
  let s := match buf with | some b => s.fillBuf b e g | none => s
  let s := if gwf e 1 22 1 = 1 then
      (if reflexEng then s.frameCue (gwf e 1 24 8) 1 g buf else s.directReflex e g)
    else s
  let s := if cue then s.frameCue (gwf e 1 24 8) 2 g buf else s
  if !rt then s
  else match buf with
    | none => s.gwDrop GW_DROP_CNT_NOBUF
    | some b => s.route e g (gwf e 2 0 21) b

/-- The action on a hit (R343). -/
def State.gwHit (s : State) (e : GwEntry) (g : GwFrame) : State :=
  let s := s.setF GW_HIT_CNT_COUNT ((s.f GW_HIT_CNT_COUNT + 1) % 2 ^ 32)
  (s.flowHit e g).gwActions e g false

/-- A miss (R342): counted, then dropped, routed unchanged, or cued. -/
def State.gwMiss (s : State) (g : GwFrame) : State :=
  let s := s.setF GW_MISS_CNT_COUNT ((s.f GW_MISS_CNT_COUNT + 1) % 2 ^ 32)
  match s.f (GW_PORT_CFG_MISS g.port) with
  | 1 =>
    match s.freeBuf with
    | none => s.gwDrop GW_DROP_CNT_NOBUF
    | some b => (s.fillBuf b 0 g).route 0 g (s.f (GW_PORT_DEF_DEST g.port)) b
  | 2 =>
    match s.freeBuf with
    | none => s.frameCue (s.f (GW_PORT_CFG_MISS_ENGINE g.port)) 2 g none
    | some b => (s.fillBuf b 0 g).frameCue (s.f (GW_PORT_CFG_MISS_ENGINE g.port)) 2 g (some b)
  | _ => s

/-- A frame arrives at a port. On an expansion a frame of a port of UP_PORTS is also sent to the master, before its own
lookup, as a GW_LONG (R397), of which nothing is kept. -/
def State.gwArrive (s : State) (g : GwFrame) : State := { s with gw := { s.gw with inq := s.gw.inq ++ [g] } }

/-- The next frame for the lookup engine: the oldest of a priority port, else the oldest (R341). -/
def State.gwNext (s : State) : Option GwFrame :=
  match s.gw.inq.find? (fun g => s.on (GW_PORT_CFG_RFX_PRIO g.port)) with
  | some g => some g
  | none => s.gw.inq.head?

/-- GW_LOOKUP (R340). -/
def execGwLookup (s : State) : Host.Outcome State Fault Refusal :=
  match (if s.clocked 9 then s.gwNext else none) with
  | none => go s
  | some g =>
    let s := { s with gw := { s.gw with inq := s.gw.inq.erase g } }
    match s.gwFind g.key with
    | some e => go (s.gwHit e g)
    | none => go (s.gwMiss g)

/-! Egress to CAN, ageing, release (R344, R351) -/

/-- An entry of owner 0xFF that may take a frame: in a software state. -/
def State.gwEntryFree (s : State) (n : Nat) : Option Nat :=
  (List.range 32).find? (fun k => s.canOwner n k = 0xFF && !s.canHw n k)

/-- No entry with the identifier is in a hardware state. -/
def State.canIdIdle (s : State) (n : Nat) (g : GwFrame) : Bool :=
  (List.range 32).all (fun k => !s.canHw n k || s.mf (ceID n k) % 2 ^ 30 ≠ g.id + b2n g.ide * 2 ^ 29)

/-- Fill a queue entry from a frame and hand it over. -/
def State.canFill (s : State) (n k : Nat) (g : GwFrame) : State :=
  let a := canE n k
  let s := s.zeroMem a (a + 0x60)
  let s := s.wrN (a + 4) 4 (g.id + b2n g.ide * 2 ^ 29 + b2n g.rtr * 2 ^ 30)
  let s := s.wrN (a + 8) 4 ((if g.rtr then g.dlc else lenDlc g.data.length) + b2n g.fdf * 0x10 + b2n g.brs * 0x20)
  (s.wrBytes (a + 0x20) (g.data.take 64)).setMf (ceSTATE n k) 1

/-- Frames waiting on a port in the order in which it serves them: by PRIO, oldest first. -/
def State.serveOrder (s : State) (p : Nat) : List Egress :=
  [3, 2, 1, 0].flatMap (fun c => s.gw.out.filter (fun x => x.port = p && x.prio = c))

/-- Take a frame off its port's queue. -/
def State.egressTake (s : State) (x : Egress) : State :=
  let s := { s with gw := { s.gw with out := s.gw.out.erase x } }
  if x.free then s else s.bufTaken x.buf

/-- The frame that a CAN port hands over next: the first in serving order whose identifier no busy entry carries, and that overtakes none
with the same key. -/
def State.handNext (s : State) (n : Nat) : List Nat → List Egress → Option Egress
  | _, [] => none
  | passed, x :: t =>
    if s.canIdIdle n x.f ∧ !passed.contains x.key then some x else s.handNext n (x.key :: passed) t

/-- GW_CAN_HANDOVER (R344): a waiting frame whose identifier no busy entry carries is handed over. -/
def execGwCanHandover (n : Fin 8) (s : State) : Host.Outcome State Fault Refusal :=
  match s.handNext n [] (s.serveOrder (n + 3)), s.gwEntryFree n with
  | some x, some k => if s.clocked 9 ∧ s.clocked 11 ∧ s.segNormal n then go ((s.egressTake x).canFill n k x.f) else go s
  | _, _ => go s

/-- GW_FRAME_AGED (R344): the oldest frame waiting on a port under its AGE limit is dropped. -/
def execGwFrameAged (p : Fin 21) (s : State) : Host.Outcome State Fault Refusal :=
  match (if s.clocked 9 then s.gw.out.find? (fun x => x.port = p.val && !x.free) else none) with
  | some x => go ((s.egressTake x).gwDrop GW_DROP_CNT_AGED).nmRecheck
  | none => go s

/-- GW_RELEASE (R351): a cued engine releases a buffer. -/
def State.gwRelease (s : State) (init b : Nat) : State :=
  s.setGwBuf b { s.gwBuf b with cued := (s.gwBuf b).cued.erase init }

/-- GW_RELEASE. -/
def execGwRelease (init : Byte) (b : BitVec 11) (s : State) : Host.Outcome State Fault Refusal :=
  go (if s.clocked 9 then s.gwRelease init.toNat b.toNat else s)

/-- GW_BUFFER_RECLAIM (R351): HOLD_MS has passed without a release. -/
def execGwBufferReclaim (b : Fin 2048) (s : State) : Host.Outcome State Fault Refusal :=
  go (if (s.gwBuf b).cued = [] ∨ !s.clocked 9 then s
    else (s.setGwBuf b { s.gwBuf b with cued := [] }).raise GW_FLAG_BUF_RECLAIM GW_FLAG_CNT_COUNT)

/-- Every active entry that uses a flow context, in table order. -/
def State.flowEntry (s : State) (f : Nat) : Option GwEntry :=
  let uses := fun (e : GwEntry) => gwf e 1 16 1 = 1 && gwf e 3 10 1 = 1 && gwf e 3 0 10 = f
  match ((List.range 0x8000).map (fun k => s.rdN (0x04000000 + 0x10 * k) 16)).find? uses with
  | some e => some e
  | none => ((List.range 64).map (s.stashEntry (GW_STASH_ACT 0))).find? uses

/-- FLOW_TIMEOUT (R348): once since the last hit, swap or load. -/
def execFlowTimeout (f : Fin 1024) (s : State) : Host.Outcome State Fault Refusal :=
  let t := s.fc f 0x0C 16 16
  if t = 0 ∨ s.gw.timedOut.contains f.val ∨ !s.clocked 9 then go s
  else
    let n := min (s.fc f 0x38 24 8 + 1) 0xFF
    let s := (s.setFc f 0x38 24 8 n).raise GW_FLAG_TIMEOUT GW_FLAG_CNT_COUNT
    let s := s.stampGw 0x01 0x21 0x02 (f + n * 0x10000 + t * 2 ^ 32)
    let s := { s with gw := { s.gw with timedOut := f.val :: s.gw.timedOut } }
    go (s.unitCue (match s.flowEntry f with | some e => gwf e 1 24 8 | none => 0) 0x21 0x02 f n)

/-! Updates (R346, R355 to R358) -/

/-- The initiators of R355. -/
def State.gwMayWrite (s : State) (init : Nat) : Bool :=
  isStr init || (isEngine init && s.f GW_ACCESS_OWNER = init) ||
  (isSession init && bitOf (s.f GW_ACCESS_ZRT_GRANT) (init - 0x40))

/-- A write ignored and counted in GW_REFUSE. -/
def State.gwRefuse (s : State) (init : Nat) : State := (s.incSat GW_REFUSE_COUNT).setF GW_REFUSE_LAST_INIT init

/-- A flow context holds no value that R345, R350 or R346 rejects. -/
def State.flowValid (s : State) (f : Nat) : Bool :=
  s.fc f 0x0C 9 2 ≠ 3 && s.fc f 0x08 9 5 ≤ 16 &&
  s.fc f 0x04 6 6 + s.fc f 0x04 12 7 ≤ (if s.fc f 0x00 30 1 = 1 then 64 else 8) &&
  (List.range 4).all (fun k => s.fc f (0x10 + 8 * k) 9 1 = 0 || s.chPresent (s.fc f (0x10 + 8 * k) 0 8))

/-- A write into a flow context (R346): bytes from +0x30 upward are ignored; an invalid result is refused whole. -/
def State.flowWrite (s : State) (init f off : Nat) (bytes : List Byte) : State :=
  if !s.gwMayWrite init then s.gwRefuse init
  else
    let t := s.wrBytes (flowAt f + off) (laidBytes (flowAt f + off) (bytes.take (0x30 - off)))
    if t.flowValid f then t else s.gwRefuse init

/-- FLOW_CONTEXT_WRITE (R346). -/
def execFlowContextWrite (f : Fin 1024) (init : Byte) (off : Fin 64) (bytes : List Byte) (s : State) :
    Host.Outcome State Fault Refusal :=
  go (if s.clocked 9 then s.flowWrite init.toNat f off bytes else s)

/-- The staging slot of a bucket in message RAM, if it is staged. -/
def State.stagedAt (s : State) (b : Nat) : Option Nat :=
  if s.gw.staged.contains b then some (0x04740000 + s.gw.staged.idxOf b * 0x40) else none

/-- A write into the shadow bank (R355, R356). -/
def State.shadowWrite (s : State) (init off : Nat) (bytes : List Byte) : State :=
  let b := off / 0x40
  if !s.gwMayWrite init then s.gwRefuse init
  else
    match s.stagedAt b with
    | some a => s.wrBytes (a + off % 0x40) (laidBytes (0x04400000 + off) bytes)
    | none =>
      if 4096 ≤ s.gw.staged.length then s.raise GW_FLAG_STAGE_FULL GW_FLAG_CNT_COUNT
      else
        let a := 0x04740000 + s.gw.staged.length * 0x40
        let s := s.wrBytes a (s.rdBytes (0x04000000 + b * 0x40) 0x40)
        let s := { s with gw := { s.gw with staged := s.gw.staged ++ [b] } }
        (s.setF GW_UPD_STAT_STAGED s.gw.staged.length).wrBytes (a + off % 0x40) (laidBytes (0x04400000 + off) bytes)

/-- Write bytes of register words that hold plain data. -/
def State.wrRegBytes (s : State) (a : Nat) : List Byte → State
  | [] => s
  | b :: t => (s.setF ⟨a - a % 4, 8 * (a % 4), 8⟩ b.toNat).wrRegBytes (a + 1) t

/-- A write into the shadow stash. -/
def State.shadowStashWrite (s : State) (init off : Nat) (bytes : List Byte) : State :=
  if !s.gwMayWrite init then s.gwRefuse init else s.wrRegBytes (GW_STASH_SHD 0 + off) (laidBytes (0x04000000 + off) bytes)

/-- A write of the shadow bank or the shadow stash. -/
def State.shadowAny (s : State) (init : Nat) (stash : Bool) (off : Nat) (bytes : List Byte) : State :=
  if stash then s.shadowStashWrite init (off % 0x400) bytes else s.shadowWrite init off bytes

/-- A write waits for the end of copy-back (R358). -/
def State.gwHold (s : State) (h : GwHeld) : State := { s with gw := { s.gw with held := s.gw.held ++ [h] } }

/-- GW_SHADOW_WRITE (R356): it waits while copy-back runs (R358). -/
def execGwShadowWrite (init : Byte) (stash : Bool) (off : BitVec 19) (bytes : List Byte) (s : State) :
    Host.Outcome State Fault Refusal :=
  go (if !s.clocked 9 then s
    else if s.on GW_UPD_STAT_COPYBACK then s.gwHold (.shadow init.toNat stash off.toNat bytes)
    else s.shadowAny init.toNat stash off.toNat bytes)

/-- Copy one stash over the other. -/
def State.stashCopy (s : State) (src dst : Nat) : State :=
  (List.range 256).foldl (fun s i => s.setReg (dst + 4 * i) (s.reg (src + 4 * i))) s

/-- A write of SWAP = 1 (R357); it waits while copy-back runs (R358). -/
def State.gwSwap (s : State) : State :=
  if s.on GW_UPD_STAT_COPYBACK then s.gwHold .swap
  else
    let n := s.gw.staged.length
    let t := (List.range n).foldl (fun t i =>
      t.wrBytes (0x04000000 + s.gw.staged.getD i 0 * 0x40) (s.rdBytes (0x04740000 + i * 0x40) 0x40)) s
    let t := (t.stashCopy (GW_STASH_SHD 0) (GW_STASH_ACT 0)).setF GW_UPD_STAT_COPYBACK 1
    let t := t.incMod GW_UPD_STAT_GEN
    let t := t.stampGw 0x01 0x21 0x04 (t.f GW_UPD_STAT_GEN + n * 0x10000)
    let t := { t with gw := { t.gw with timedOut := [], swapAt := t.now } }
    t.unitCue (t.f GW_ACCESS_OWNER) 0x21 0x04 (t.f GW_UPD_STAT_GEN) n

/-- GW_SWAP (R357). -/
def execGwSwap (s : State) : Host.Outcome State Fault Refusal := go (if s.clocked 9 then s.gwSwap else s)

/-- A write of DISCARD = 1 (R358): the staged buckets are freed and the shadow stash is that of the active one again. -/
def State.gwDiscard (s : State) : State :=
  let s := { s with gw := { s.gw with staged := [] } }
  (s.setF GW_UPD_STAT_STAGED 0).stashCopy (GW_STASH_ACT 0) (GW_STASH_SHD 0)

/-- GW_DISCARD (R358). -/
def execGwDiscard (s : State) : Host.Outcome State Fault Refusal := go (if s.clocked 9 then s.gwDiscard else s)

/-- The writes that waited take effect, in order; what follows a SWAP waits for its copy-back. -/
def State.heldRun : List GwHeld → State → State
  | [], s => s
  | h :: t, s =>
    if s.on GW_UPD_STAT_COPYBACK then { s with gw := { s.gw with held := s.gw.held ++ h :: t } }
    else
      match h with
      | .shadow init stash off bytes => heldRun t (s.shadowAny init stash off bytes)
      | .swap => heldRun t s.gwSwap

/-- GW_COPYBACK_DONE (R358). -/
def execGwCopybackDone (s : State) : Host.Outcome State Fault Refusal :=
  go (if s.clocked 9 ∧ s.on GW_UPD_STAT_COPYBACK then
      let l := s.gw.held
      let s := { s with gw := { s.gw with staged := [], held := [] } }
      State.heldRun l ((s.setF GW_UPD_STAT_STAGED 0).setF GW_UPD_STAT_COPYBACK 0)
    else s)

/-! ACF (R360, R361) and injection (R362) -/

/-- The PDU of a port that has been open longest. -/
def State.pduOldest (s : State) (p : Nat) : Option Nat :=
  (s.eth.pdu.filter (fun e => e.1 % 4 = p)).foldl (fun (b : Option Nat) e =>
    match b with
    | none => some e.1
    | some k => if e.2.at_ < (s.pdu k).at_ then some e.1 else b) none

/-- ACF_BATCH_TIMEOUT (R360): BATCH_US has passed since the first message of a PDU of the port. -/
def execAcfBatchTimeout (p : Fin 3) (s : State) : Host.Outcome State Fault Refusal :=
  go (if !s.clocked 9 then s
  else match s.pduOldest p with
    | some k => s.pduClose k
    | none => s)

/-- One ACF message, and whether it is a CAN message whose parts lie in it (R361). -/
def acfFrame (s : State) (p : Nat) (m : List Byte) : Option GwFrame :=
  let ty := sliceLE m 0 1 / 2
  if ty ≠ 1 ∧ ty ≠ 2 then none
  else
    let fl := sliceLE m 2 1
    let off := if ty = 1 then 12 else 4
    let body := (m.drop (off + 4)).take (m.length - (off + 4) - fl / 0x40)
    let eff := bitOf fl 3
    some { port := p, kind := if eff then 5 else 4, sub := sliceLE m 3 1 % 0x20,
           id := natBE ((m.drop off).take 4) % 2 ^ keyBits (if eff then 5 else 4),
           ide := eff, fdf := bitOf fl 1, brs := bitOf fl 2, rtr := bitOf fl 4, data := body, stamp := s.now }

/-- Split the messages of a PDU; the fuel bounds their number. Messages of other types are skipped and counted, and one that
runs beyond the PDU ends it and is counted (R361). -/
def State.acfSplit (s : State) (p : Nat) : Nat → List Byte → State
  | 0, _ => s
  | k + 1, l =>
    if l = [] then s
    else
      let len := 4 * (natBE (l.take 2) % 0x200)
      if len = 0 ∨ l.length < len then s.raise GW_FLAG_ACF_ERR GW_FLAG_CNT_COUNT
      else
        let s := match acfFrame s p (l.take len) with
          | some g => s.gwArrive g
          | none => s.raise GW_FLAG_ACF_ERR GW_FLAG_CNT_COUNT
        s.acfSplit p k (l.drop len)

/-- The bytes of the messages of an AVTP PDU: NTSCF with sv 1, or TSCF (R361). -/
def acfBody (d : List Byte) : Option (List Byte) :=
  match sliceLE d 0 1 with
  | 0x82 => some ((d.drop 12).take (natBE ((d.drop 1).take 2) % 0x800))
  | 0x05 => some ((d.drop 24).take (natBE ((d.drop 20).take 2)))
  | _ => none

/-- ACF_PDU_RECEIVE (R361): the oldest accepted frame of EtherType 0x22F0. -/
def execAcfPduReceive (s : State) : Host.Outcome State Fault Refusal :=
  match (if s.clocked 9 then s.eth.inq.find? (fun x => x.2.etype = 0x22F0) else none) with
  | none => go s
  | some x =>
    let s := { s with eth := { s.eth with inq := s.eth.inq.erase x } }
    match acfBody x.2.data with
    | some b => go (s.acfSplit x.1 b.length b)
    | none => go s

/-- The staging area of an initiator (R362). -/
def State.injArea (s : State) (init : Nat) : List Byte := tget (fun _ => List.replicate 64 0) s.gw.inj init

/-- A write into the staging area of an initiator. -/
def State.injWrite (s : State) (init off : Nat) (bytes : List Byte) : State :=
  let a := s.injArea init
  let a := (a.take off ++ bytes ++ a.drop (off + bytes.length)).take 64
  { s with gw := { s.gw with inj := tset (fun _ => List.replicate 64 0) s.gw.inj init a } }

/-- A write of GW_INJ_GO (R362). -/
def State.inject (s : State) (init : Nat) : State :=
  let a := s.injArea init
  let k := sliceLE a 4 1
  let len := sliceLE a 5 1
  if k % 8 = 7 ∨ 56 < len then s.gwRefuse init
  else s.gwArrive { port := 19, kind := k % 8, sub := sliceLE a 6 1, id := sliceLE a 0 4 % 2 ^ keyBits (k % 8), ide := bitOf k 3, fdf := bitOf k 4,
                    brs := bitOf k 5, data := (a.drop 8).take len, stamp := s.now }

/-- GW_INJECT (R362). -/
def execGwInject (init : Byte) (s : State) : Host.Outcome State Fault Refusal := go (if s.clocked 9 then s.inject init.toNat else s)

/-! Reroute (R313, R352) -/

/-- An entry offered once to the gateway at bus-off: one copy on the ALT of its match-table entry, beyond AGE and quota. -/
def State.reroute (s : State) (n k : Nat) : State :=
  let w := s.mf (ceID n k)
  let ide := bitOf w 29
  let fd := s.mf (ceFDF n k) = 1
  let rtr := bitOf w 30
  let dlc := s.mf (ceDLC n k)
  let g : GwFrame := { port := n + 3, kind := b2n ide, sub := 0, id := w % 2 ^ 29, ide := ide, rtr := rtr, fdf := fd,
                       brs := s.mf (ceBRS n k) = 1, data := if rtr then [] else s.rdBytes (canE n k + 0x20) (dlcLen fd dlc),
                       dlc := if rtr then dlc else 0, stamp := s.now }
  match s.gwFind g.key with
  | none => s.raise GW_FLAG_REROUTE_NONE GW_FLAG_CNT_COUNT
  | some e =>
    let alt := gwf e 2 21 5
    if alt = 0x1F then s.raise GW_FLAG_REROUTE_NONE GW_FLAG_CNT_COUNT
    else if !s.portUsable alt fd ∨ 11 ≤ alt then s.gwDrop GW_DROP_CNT_FORMAT
    else if 3 ≤ alt ∧ !s.segNormal (alt - 3) then s.gwDrop GW_DROP_CNT_ASLEEP
    else
      let s := s.routePort { port := alt, prio := 3, key := g.key, f := g, vid := gwf e 3 11 12, pcp := gwf e 3 23 3, bus := n,
                             reflex := true, free := true, since := s.now }
      (s.raise (CAN_FLAG_REROUTED n) (CAN_FLAG_CNT_COUNT n)).canEvent n 0x09 k (s.twinData n k)

end Sys2Proof.Machine
end

