-- ==== Sys2Proof/Machine/Crypto.lean ====
section
/-! DEFINITION. The cryptographic primitives that R471, R480 and R486 name, as their public standards define them (the spec
gives no tables: log entry 5): AES with 128-bit and 256-bit keys, AES-CMAC, AES-CTR, AES Key Wrap, SHA-256, and verification
of ECDSA over P-256. A block is a list of 16 bytes, first byte first. -/

namespace Sys2Proof.Machine

/-! AES -/

/-- Multiplication by x in GF(2^8) with the AES polynomial. -/
def xtime (a : Nat) : Nat := if a < 0x80 then 2 * a else (2 * a) ^^^ 0x11B

/-- Multiplication in GF(2^8): `n` bits of `b`, lowest first. -/
def gmulN : Nat → Nat → Nat → Nat
  | 0, _, _ => 0
  | n + 1, a, b => (if b % 2 = 1 then a else 0) ^^^ gmulN n (xtime a) (b / 2)

/-- Multiplication in GF(2^8) by a coefficient below 16. -/
def gmul (a b : Nat) : Nat := gmulN 4 a b

/-- The substitution table of FIPS 197, entry x in bits 8x and up. -/
def sboxTable : Nat :=
  0xC072A49CAFA2D4ADF04759FA7DC982CA76ABD7FE2B670130C56F6BF27B777C63 +
  0x75B227EBE28012079A059618C323C7041531D871F1E5A534CCF73F362693FDB7 * 2 ^ 256 +
  0xCF584C4A39BECB6A5BB1FC20ED00D153842FE329B3D63B52A05A6E1B1A2C8309 * 2 ^ 512 +
  0xD2F3FF1021DAB6BCF5389D928F40A351A89F3C507F02F94585334D43FBAAEFD0 * 2 ^ 768 +
  0xDB0B5EDE14B8EE4688902A22DC4F816073195D643D7EA7C41744975FEC130CCD * 2 ^ 1024 +
  0x08AE7A65EAF4566CA94ED58D6D37C8E779E4959162ACD3C25C2406490A3A32E0 * 2 ^ 1280 +
  0x9E1DC186B95735610EF6034866B53E708A8BBD4B1F74DDE8C6B4A61C2E2578BA * 2 ^ 1536 +
  0x16BB54B00F2D99416842E6BF0D89A18CDF2855CEE9871E9B948ED9691198F8E1 * 2 ^ 1792

/-- The inverse substitution table of FIPS 197, entry x in bits 8x and up. -/
def sboxInvTable : Nat :=
  0xCBE9DEC444438E3487FF2F9B8239E37CFBD7F3819EA340BF38A53630D56A0952 +
  0x25D18B6D49A25B76B224D92866A12E084EC3FA420B954CEE3D23C2A632947B54 * 2 ^ 256 +
  0x849D8DA75746155EDAB9EDFD5048706C92B6655DCC5CA4D41698688664F6F872 * 2 ^ 512 +
  0x6B8A130103BDAFC1020F3FCA8F1E2CD00645B3B80558E4F70AD3BC8C00ABD890 * 2 ^ 768 +
  0x6EDF751CE837F9E28535ADE72274AC9673E6B4F0CECFF297EADC674F4111913A * 2 ^ 1024 +
  0xF45ACD78FEC0DB9A2079D2C64B3E56FC1BBE18AA0E62B76F89C5291D711AF147 * 2 ^ 1280 +
  0xEF9CC9939F7AE52D0D4AB519A97F51605FEC8027591012B131C7078833A8DD1F * 2 ^ 1536 +
  0x7D0C2155631469E126D677BA7E042B17619953833CBBEBC8B0F52AAE4D3BE0A0 * 2 ^ 1792

/-- The AES substitution. -/
def sbox (x : Nat) : Nat := sboxTable / 2 ^ (8 * x) % 0x100

/-- The inverse of the AES substitution. -/
def sboxInv (x : Nat) : Nat := sboxInvTable / 2 ^ (8 * x) % 0x100

/-- Byte-wise exclusive or. -/
def xorN (a b : List Nat) : List Nat := List.zipWith (· ^^^ ·) a b

/-- The next word of the AES key schedule, from the words so far, newest first. -/
def aesWord (nk i rcon : Nat) (ws : List (List Nat)) : List Nat :=
  let t := ws.headD []
  let t := if i % nk = 0 then xorN ((t.drop 1 ++ t.take 1).map sbox) [rcon, 0, 0, 0]
    else if 6 < nk ∧ i % nk = 4 then t.map sbox else t
  xorN (ws.getD (nk - 1) []) t

/-- `n` more words of the key schedule, newest first. -/
def aesExpand (nk : Nat) : Nat → Nat → Nat → List (List Nat) → List (List Nat)
  | 0, _, _, ws => ws
  | n + 1, i, rcon, ws =>
    aesExpand nk n (i + 1) (if i % nk = 0 then xtime rcon else rcon) (aesWord nk i rcon ws :: ws)

/-- A list cut into pieces of `k`, at most `n` of them. -/
def pieces {V : Type} (k : Nat) : Nat → List V → List (List V)
  | 0, _ => []
  | n + 1, l => if l.isEmpty then [] else l.take k :: pieces k n (l.drop k)

/-- The round keys of a key, first round first. -/
def aesKeys (key : List Byte) : List (List Nat) :=
  let nk := key.length / 4
  let ws := aesExpand nk (4 * (nk + 7) - nk) nk 1 (pieces 4 nk (key.map (·.toNat))).reverse
  (pieces 4 (nk + 7) ws.reverse).map List.flatten

/-- The row rotation, by column steps: 5 forward, 13 back. -/
def shiftRows (step : Nat) (b : List Nat) : List Nat := (List.range 16).map (fun i => b.getD ((i * step) % 16) 0)

/-- A column times a circulant row of coefficients. -/
def mixCol (k : List Nat) (c : List Nat) : List Nat :=
  (List.range 4).map (fun i => (List.range 4).foldl (fun x j => x ^^^ gmul (c.getD j 0) (k.getD ((j + 4 - i) % 4) 0)) 0)

/-- Every column mixed. -/
def mixCols (k b : List Nat) : List Nat := ((pieces 4 4 b).map (mixCol k)).flatten

/-- The AES rounds after the first round key. -/
def aesRounds : List (List Nat) → List Nat → List Nat
  | [], b => b
  | [k], b => xorN (shiftRows 5 (b.map sbox)) k
  | k :: t, b => aesRounds t (xorN (mixCols [2, 3, 1, 1] (shiftRows 5 (b.map sbox))) k)

/-- AES of one block. -/
def aesEnc (key block : List Byte) : List Byte :=
  match aesKeys key with
  | [] => block
  | k :: t => (aesRounds t (xorN (block.map (·.toNat)) k)).map (BitVec.ofNat 8)

/-- The inverse rounds, last round key first. -/
def aesInvRounds : List (List Nat) → List Nat → List Nat
  | [], b => b
  | [k], b => xorN ((shiftRows 13 b).map sboxInv) k
  | k :: t, b => aesInvRounds t (mixCols [14, 11, 13, 9] (xorN ((shiftRows 13 b).map sboxInv) k))

/-- The inverse of AES of one block. -/
def aesDec (key block : List Byte) : List Byte :=
  match (aesKeys key).reverse with
  | [] => block
  | k :: t => (aesInvRounds t (xorN (block.map (·.toNat)) k)).map (BitVec.ofNat 8)

/-! Modes -/

/-- Byte-wise exclusive or of byte strings. -/
def xorB (a b : List Byte) : List Byte := List.zipWith (· ^^^ ·) a b

/-- Doubling in the field of CMAC. -/
def cmacDouble (b : List Byte) : List Byte :=
  let v := natBE b
  bytesBE 16 (if v < 2 ^ 127 then 2 * v else (2 * v) ^^^ 0x87)

/-- The chain of CMAC over whole blocks. -/
def cmacChain (key : List Byte) : List (List Byte) → List Byte → List Byte
  | [], x => x
  | b :: t, x => cmacChain key t (aesEnc key (xorB x b))

/-- AES-CMAC of a message, 16 bytes (R448, R471). -/
def cmac (key msg : List Byte) : List Byte :=
  let zero : List Byte := List.replicate 16 0
  let k1 := cmacDouble (aesEnc key zero)
  let n := max 1 ((msg.length + 15) / 16)
  let last := msg.drop (16 * (n - 1))
  let last := if last.length = 16 then xorB last k1
    else xorB ((last ++ [0x80]) ++ List.replicate (15 - last.length) 0) (cmacDouble k1)
  cmacChain key (pieces 16 n (msg.take (16 * (n - 1))) ++ [last]) zero

/-- AES-CTR from a counter block, which counts up as a big-endian number (R471). -/
def aesCtr (key : List Byte) : Nat → List Byte → List Byte → List Byte
  | 0, _, _ => []
  | n + 1, ctr, msg =>
    if msg.isEmpty then []
    else xorB (msg.take 16) (aesEnc key ctr) ++ aesCtr key n (bytesBE 16 (natBE ctr + 1)) (msg.drop 16)

/-- The inverse steps of AES Key Wrap, `t` counting down, over the integrity value and the semiblocks. -/
def kwSteps (key : List Byte) (n : Nat) : Nat → List Byte → List (List Byte) → List Byte × List (List Byte)
  | 0, a, r => (a, r)
  | t + 1, a, r =>
    let i := t % n
    let b := aesDec key (xorB a (bytesBE 8 (t + 1)) ++ r.getD i [])
    kwSteps key n t (b.take 8) (r.set i (b.drop 8))

/-- AES Key Wrap unwrapping (R480); none when the integrity check fails. -/
def keyUnwrap (key blob : List Byte) : Option (List Byte) :=
  let n := blob.length / 8 - 1
  let x := kwSteps key n (6 * n) (blob.take 8) (pieces 8 n (blob.drop 8))
  if x.1 = List.replicate 8 0xA6 then some x.2.flatten else none

/-! SHA-256 -/

/-- The initial hash words. -/
def shaH : List Nat :=
  [0x6A09E667, 0xBB67AE85, 0x3C6EF372, 0xA54FF53A, 0x510E527F, 0x9B05688C, 0x1F83D9AB, 0x5BE0CD19]

/-- The round constants. -/
def shaK : List Nat :=
  [0x428A2F98, 0x71374491, 0xB5C0FBCF, 0xE9B5DBA5, 0x3956C25B, 0x59F111F1, 0x923F82A4, 0xAB1C5ED5] ++
  [0xD807AA98, 0x12835B01, 0x243185BE, 0x550C7DC3, 0x72BE5D74, 0x80DEB1FE, 0x9BDC06A7, 0xC19BF174] ++
  [0xE49B69C1, 0xEFBE4786, 0x0FC19DC6, 0x240CA1CC, 0x2DE92C6F, 0x4A7484AA, 0x5CB0A9DC, 0x76F988DA] ++
  [0x983E5152, 0xA831C66D, 0xB00327C8, 0xBF597FC7, 0xC6E00BF3, 0xD5A79147, 0x06CA6351, 0x14292967] ++
  [0x27B70A85, 0x2E1B2138, 0x4D2C6DFC, 0x53380D13, 0x650A7354, 0x766A0ABB, 0x81C2C92E, 0x92722C85] ++
  [0xA2BFE8A1, 0xA81A664B, 0xC24B8B70, 0xC76C51A3, 0xD192E819, 0xD6990624, 0xF40E3585, 0x106AA070] ++
  [0x19A4C116, 0x1E376C08, 0x2748774C, 0x34B0BCB5, 0x391C0CB3, 0x4ED8AA4A, 0x5B9CCA4F, 0x682E6FF3] ++
  [0x748F82EE, 0x78A5636F, 0x84C87814, 0x8CC70208, 0x90BEFFFA, 0xA4506CEB, 0xBEF9A3F7, 0xC67178F2]

/-- A 32-bit rotation to the right. -/
def rotr (x k : Nat) : Nat := x / 2 ^ k + (x * 2 ^ (32 - k)) % 2 ^ 32

/-- The message schedule, `n` more words, newest first. -/
def shaSched : Nat → List Nat → List Nat
  | 0, w => w
  | n + 1, w =>
    let a := w.getD 14 0
    let b := w.getD 1 0
    let s0 := rotr a 7 ^^^ rotr a 18 ^^^ a / 8
    let s1 := rotr b 17 ^^^ rotr b 19 ^^^ b / 1024
    shaSched n (((w.getD 15 0 + s0 + w.getD 6 0 + s1) % 2 ^ 32) :: w)

/-- The rounds over constant and schedule words. -/
def shaRounds : List Nat → List Nat → List Nat → List Nat
  | k :: ks, w :: ws, [a, b, c, d, e, f, g, h] =>
    let t1 := h + (rotr e 6 ^^^ rotr e 11 ^^^ rotr e 25) + ((e &&& f) ^^^ ((2 ^ 32 - 1 - e) &&& g)) + k + w
    let t2 := (rotr a 2 ^^^ rotr a 13 ^^^ rotr a 22) + ((a &&& b) ^^^ (a &&& c) ^^^ (b &&& c))
    shaRounds ks ws [(t1 + t2) % 2 ^ 32, a, b, c, (d + t1) % 2 ^ 32, e, f, g]
  | _, _, x => x

/-- One block. -/
def shaBlock (h : List Nat) (block : List Byte) : List Nat :=
  let w := (pieces 4 16 block).map natBE
  let r := shaRounds shaK (shaSched 48 w.reverse).reverse h
  List.zipWith (fun x y => (x + y) % 2 ^ 32) h r

/-- SHA-256 of a byte string, 32 bytes (R471). -/
def sha256 (msg : List Byte) : List Byte :=
  let n := (msg.length + 9 + 63) / 64
  let pad := msg ++ [0x80] ++ List.replicate (64 * n - msg.length - 9) 0 ++ bytesBE 8 (8 * msg.length)
  (((pieces 64 n pad).foldl shaBlock shaH).map (bytesBE 4)).flatten

/-! ECDSA over P-256 -/

/-- The field of P-256. -/
def p256P : Nat := 2 ^ 256 - 2 ^ 224 + 2 ^ 192 + 2 ^ 96 - 1

/-- The group order of P-256. -/
def p256N : Nat := 0xFFFFFFFF00000000FFFFFFFFFFFFFFFFBCE6FAADA7179E84F3B9CAC2FC632551

/-- The constant of the curve equation y² = x³ − 3x + b. -/
def p256B : Nat := 0x5AC635D8AA3A93E7B3EBBD55769886BC651D06B0CC53B0F63BCE3C3E27D2604B

/-- The base point. -/
def p256G : Nat × Nat :=
  (0x6B17D1F2E12C4247F8BCE6E563A440F277037D812DEB33A0F4A13945D898C296,
   0x4FE342E2FE1A7F9B8EE7EB4A7C0F9E162BCE33576B315ECECBB6406837BF51F5)

/-- A power modulo `m`, over `n` bits of the exponent, lowest first. -/
def powModN (m : Nat) : Nat → Nat → Nat → Nat → Nat
  | 0, _, _, r => r
  | n + 1, b, e, r => powModN m n (b * b % m) (e / 2) (if e % 2 = 1 then r * b % m else r)

/-- The inverse modulo a prime. -/
def invMod (m a : Nat) : Nat := powModN m 256 (a % m) (m - 2) 1

/-- The sum of two points; none is the point at infinity. -/
def ecAdd : Option (Nat × Nat) → Option (Nat × Nat) → Option (Nat × Nat)
  | none, q => q
  | p, none => p
  | some (x1, y1), some (x2, y2) =>
    if x1 = x2 ∧ (y1 + y2) % p256P = 0 then none
    else
      let l := if x1 = x2 then (3 * x1 * x1 + (p256P - 3)) * invMod p256P (2 * y1) % p256P
        else (y2 + p256P - y1) * invMod p256P (x2 + p256P - x1) % p256P
      let x3 := (l * l + 2 * p256P - x1 - x2) % p256P
      some (x3, (l * (x1 + p256P - x3) + p256P - y1) % p256P)

/-- A multiple of a point, over `n` bits of the factor, lowest first. -/
def ecMulN : Nat → Nat → Option (Nat × Nat) → Option (Nat × Nat) → Option (Nat × Nat)
  | 0, _, _, r => r
  | n + 1, k, p, r => ecMulN n (k / 2) (ecAdd p p) (if k % 2 = 1 then ecAdd r p else r)

/-- The point lies on the curve. -/
def onCurve (x y : Nat) : Bool :=
  x < p256P && y < p256P && (y * y) % p256P = (x * x * x + (p256P - 3) * x + p256B) % p256P

/-- Verification of an ECDSA P-256 signature (R471): public key (x, y), digest, r and s, all big-endian. -/
def ecdsaVerify (pub digest sig : List Byte) : Bool :=
  let x := natBE (pub.take 32)
  let y := natBE (pub.drop 32)
  let r := natBE (sig.take 32)
  let s := natBE (sig.drop 32)
  if r = 0 ∨ s = 0 ∨ p256N ≤ r ∨ p256N ≤ s ∨ !onCurve x y then false
  else
    let w := invMod p256N s
    let p := ecAdd (ecMulN 256 (natBE digest * w % p256N) (some p256G) none) (ecMulN 256 (r * w % p256N) (some (x, y)) none)
    match p with
    | none => false
    | some (px, _) => px % p256N = r

end Sys2Proof.Machine
end

