-- ==== Sys2Proof/Machine/Inputs.lean ====
section
/-! DEFINITION. Switch inputs (R410 to R416), handle sensors (R417 to R419), measurement with temperature slots (R420 to R426),
and the sensor supplies (R427, R428). -/

namespace Sys2Proof.Machine

/-! Switch inputs -/

/-- An input beside its registers. -/
def State.inIn (s : State) (n : Nat) : InpIn := tget (fun _ => {}) s.inp.ins n

/-- Put it. -/
def State.setInIn (s : State) (n : Nat) (x : InpIn) : State := { s with inp := { s.inp with ins := tset (fun _ => {}) s.inp.ins n x } }

/-- The bit of an input in a bank of three registers. -/
def inBit (reg : Nat → Nat) (n : Nat) : RF := ⟨reg (n / 32), n % 32, 1⟩

/-- The input is sampled. -/
def State.inOn (s : State) (n : Nat) : Bool := s.on (INP_CFG_MODE n)

/-- The module samples and measures: in Run and Idle, with the clock of the Interface island (R410, R75). -/
def State.measures (s : State) : Bool := s.f PWR_STATE_STATE < 2 && s.clocked 1

/-- One sample of one input: an input in its cleaning pulse counts as active (R412). -/
def State.inSample (s : State) (n : Nat) (lvl : Bool) : State :=
  if !s.inOn n then s
  else
    let lvl := lvl || s.inp.clean.contains n
    let x := s.inIn n
    if x.run ≠ 0 ∧ x.lvl = lvl then s.setInIn n { x with run := min (x.run + 1) 1023 }
    else s.setInIn n { x with run := 1, lvl := lvl, first := s.islandSlate 1 }

/-- INPUT_SAMPLE (R410, R413): one sample of every enabled input, bit n whether input n reads active, in
Run and Idle. -/
def execInputSample (levels : BitVec 96) (s : State) : Host.Outcome State Fault Refusal :=
  go (if s.measures then (List.range 96).foldl (fun s n => s.inSample n (levels.getLsbD n)) s else s)

/-- Whether CUE selects a change to a level. -/
def cueSelects (sel : Nat) (lvl : Bool) : Bool := sel = 1 || (sel = 2 && lvl) || (sel = 3 && !lvl)

/-- Report an accepted change (R414). -/
def State.inReport (s : State) (n : Nat) (lvl late : Bool) (first : Slate) : State :=
  let s := (s.setF (inBit INP_LEVEL n) (b2n lvl)).raise (inBit INP_CHG n) (INP_CHG_CNT_COUNT (n / 32))
  let data := b2n lvl + 2 * b2n late
  let s := if cueSelects (s.f (INP_CFG_CUE n)) lvl then s.unitCue (s.f (INP_CFG_OWNER n)) 0x26 0x01 n data else s
  if s.on (INP_CFG_STAMP n) then
    s.offerRec { slate := first, kind := 0x01, index := 0x26, unit := 0x26, event := 0x01, island := 1,
                 data := BitVec.ofNat 128 data }
  else s

/-- A cleaning pulse after a closure (R412): at most 8 at once. -/
def State.inClean (s : State) (n : Nat) : State :=
  if s.inp.clean.length < 8 then { s with inp := { s.inp with clean := s.inp.clean ++ [n] } }
  else if s.inp.cleanWait.contains n then s
  else { s with inp := { s.inp with cleanWait := s.inp.cleanWait ++ [n] } }

/-- READY is set once every sampled input has accepted its first level (R415). -/
def State.inReady (s : State) : State :=
  if (List.range 96).all (fun n => !s.inOn n || (s.inIn n).got) then s.setF INP_STAT_READY 1 else s

/-- INPUT_CHANGE_ACCEPT (R413 to R415). -/
def execInputChangeAccept (n : Fin 96) (s : State) : Host.Outcome State Fault Refusal :=
  let x := s.inIn n
  let held := s.on (inBit INP_LEVEL n)
  if !s.measures ∨ !s.inOn n ∨ x.run = 0 ∨ x.run < s.f (INP_CFG_DEBOUNCE n) ∨ (x.got ∧ x.lvl = held) then go s
  else
    let s := s.setInIn n { x with got := true }
    let s := if x.lvl = held then s
      else
        let s := s.inReport n x.lvl (!x.got) x.first
        if x.lvl ∧ s.on (INP_CFG_CLEAN n) then s.inClean n else s
    go s.inReady

/-- The lowest of a list. -/
def lowest : List Nat → Option Nat
  | [] => none
  | x :: t => match lowest t with | none => some x | some y => some (min x y)

/-- CLEAN_PULSE_END (R412). -/
def execCleanPulseEnd (n : Fin 96) (s : State) : Host.Outcome State Fault Refusal :=
  if !s.inp.clean.contains n.val then go s
  else
    let l := s.inp.clean.erase n.val
    go (match lowest s.inp.cleanWait with
      | some m => { s with inp := { s.inp with clean := l ++ [m], cleanWait := s.inp.cleanWait.erase m } }
      | none => { s with inp := { s.inp with clean := l } })

/-! Handles -/

/-- A handle beside its registers. -/
def State.hc (s : State) (k : Nat) : Hc := tget (fun _ => {}) s.inp.hc k

/-- Put it. -/
def State.setHc (s : State) (k : Nat) (x : Hc) : State := { s with inp := { s.inp with hc := tset (fun _ => {}) s.inp.hc k x } }

/-- Bit `k` of a field of INP_HC_STAT. -/
def hcBit (r : RF) (k : Nat) : RF := ⟨r.addr, r.lo + k, 1⟩

/-- A cue of a handle. -/
def State.hcCue (s : State) (k code : Nat) : State :=
  s.unitCue (s.f INP_HC_CFG_OWNER) 0x26 code k (Config.cueOpen 7 (0x2600 + code) 2)

/-- A poll request joins the queue of ACC unless its source is queued or running already (R438). -/
def State.accQueue (s : State) (p : AccPoll) : State :=
  if !s.fullPart ∨ s.acc.queue.any (fun q => q.src = p.src) ∨ s.acc.cur.any (fun q => q.src = p.src) then s
  else { s with acc := { s.acc with queue := s.acc.queue ++ [p] } }

/-- The nonce of the next round that the IF die starts in Sleep or Deep sleep: bytes 0 to 7 of AES-128(seed, k) (R442). -/
def State.seedNonce (s : State) : Option Nat × State :=
  match s.acc.seedK with
  | some k =>
    (some (natBE ((aesEnc (bytesBE 16 s.acc.seed) (bytesBE 16 k)).take 8)), { s with acc := { s.acc with seedK := some (k + 1) } })
  | none => (none, s)

/-- A round that the IF die starts in Sleep or Deep sleep (R442): its nonce and its moment are those of the start. -/
def State.sleepRound (s : State) (p : AccPoll) : State :=
  if s.acc.queue.any (fun q => q.src = p.src) ∨ s.acc.cur.any (fun q => q.src = p.src) then s
  else
    let x := s.seedNonce
    x.2.accQueue { p with nonce := x.1, at_ := (s.islandSlate 1).toNat }

/-- The antennas and the door of a handle (ACC_HC_MAP). -/
def State.hcMap (s : State) (k : Nat) : Nat × Nat := (s.f ⟨ACC_HC_MAP, 8 * k, 6⟩, s.f ⟨ACC_HC_MAP, 8 * k + 6, 2⟩)

/-- A touch (R418): it asks ACC for a poll (R438). In Sleep and Deep sleep a handle with its WAKE bit wakes the module, and
the IF die starts the round (R442); another handle does neither. -/
def State.hcTouch (s : State) (k : Nat) : State :=
  let s := ((s.setF (hcBit INP_HC_STAT_TOUCHED k) 1).raise (hcBit INP_HC_STAT_TOUCH k) INP_HC_FLAG_CNT_COUNT).hcCue k 0x02
  let m := s.hcMap k
  if s.f PWR_STATE_STATE = 2 ∨ s.f PWR_STATE_STATE = 3 then
    (if bitOf (s.inp.hcCfg / 0x10) k then
      ((s.raise (hcBit INP_HC_STAT_WAKE_HC k) INP_HC_FLAG_CNT_COUNT).wakeSource 19).sleepRound { src := k, ant := m.1, door := m.2 }
    else s)
  else s.accQueue { src := k, ant := m.1, door := m.2 }

/-- The baseline drifts by one count after every DRIFT scans (R418). -/
def State.hcDrift (s : State) (k : Nat) : State :=
  let x := s.hc k
  if x.drift + 1 < s.f (INP_HC_KCFG_DRIFT k) then s.setHc k { x with drift := x.drift + 1 }
  else
    let c := s.f (INP_HC_VAL_COUNT k)
    let b := s.f (INP_HC_VAL_BASELINE k)
    (s.setHc k { x with drift := 0 }).setF (INP_HC_VAL_BASELINE k) (if b < c then b + 1 else if c < b then b - 1 else b)

/-- A good scan of a handle that is not faulted (R418). -/
def State.hcJudge (s : State) (k : Nat) : State :=
  let x := s.hc k
  let delta : Int := s.f (INP_HC_VAL_COUNT k) - s.f (INP_HC_VAL_BASELINE k)
  let th : Int := s.f (INP_HC_KCFG_TOUCH_TH k)
  if s.on (hcBit INP_HC_STAT_TOUCHED k) then
    if th - s.f (INP_HC_KCFG_REL_HYST k) ≤ delta then s.setHc k { x with rel := 0 }
    else if x.rel = 0 then s.setHc k { x with rel := 1 }
    else ((s.setHc k { x with rel := 0 }).setF (hcBit INP_HC_STAT_TOUCHED k) 0).hcCue k 0x03
  else if th ≤ delta then (s.setHc k { x with rel := 0, drift := 0 }).hcTouch k
  else s.hcDrift k

/-- One handle of a scan (R417 to R419): its count, and whether the charge transfer completed. -/
def State.hcScan (s : State) (k count : Nat) (ok : Bool) : State :=
  if !bitOf s.inp.hcCfg k then s
  else
    let s := s.setF (INP_HC_VAL_COUNT k) count
    let bad := !ok || count < 100
    let x := s.hc k
    if s.on (hcBit INP_HC_STAT_FAULTED k) then
      (if bad then s.setHc k { x with good := 0 }
       else if x.good < 2 then s.setHc k { x with good := x.good + 1 }
       else ((s.setHc k {}).setF (hcBit INP_HC_STAT_FAULTED k) 0).setF (INP_HC_VAL_BASELINE k) count)
    else if bad then
      (if x.bad < 2 then s.setHc k { x with bad := x.bad + 1 }
       else
        (((((s.setHc k {}).setF (hcBit INP_HC_STAT_FAULTED k) 1).setF (hcBit INP_HC_STAT_TOUCHED k) 0).raise
          (hcBit INP_HC_STAT_HC_FAULT k) INP_HC_FLAG_CNT_COUNT).hcCue k 0x05))
    else (s.setHc k { x with bad := 0 }).hcJudge k

/-- HANDLE_SCAN (R417), in every state but Off. -/
def execHandleScan (c0 c1 c2 c3 : BitVec 16) (ok : BitVec 4) (s : State) : Host.Outcome State Fault Refusal :=
  if !s.fullPart ∨ s.f PWR_STATE_STATE = 4 then go s
  else
    let s := (s.hcScan 0 c0.toNat (ok.getLsbD 0)).hcScan 1 c1.toNat (ok.getLsbD 1)
    go ((s.hcScan 2 c2.toNat (ok.getLsbD 2)).hcScan 3 c3.toNat (ok.getLsbD 3))

/-- HANDLE_STUCK (R418). -/
def execHandleStuck (k : Fin 4) (s : State) : Host.Outcome State Fault Refusal :=
  if !s.on (hcBit INP_HC_STAT_TOUCHED k) then go s
  else
    let s := (s.setF (INP_HC_VAL_BASELINE k) (s.f (INP_HC_VAL_COUNT k))).setF (hcBit INP_HC_STAT_TOUCHED k) 0
    go (((s.setHc k {}).raise (hcBit INP_HC_STAT_STUCK k) INP_HC_FLAG_CNT_COUNT).hcCue k 0x04)

/-! Measurement -/

/-- A MEAS slot takes a value and becomes READY; mapped receivers are cued (R426). -/
def State.measUpdate (s : State) (k v : Nat) : State :=
  let s := s.slotUpdate (MEAS_SLOT_ST k) (MEAS_SLOT_VAL k) v
  (List.range 16).foldl (fun s j =>
    if s.on (MEAS_CUE_MAP_VALID j) ∧ s.f (MEAS_CUE_MAP_SLOT j) = k then
      s.postCue (s.f (MEAS_CUE_MAP_RECEIVER j)) 8 k 0x01 0x27 k v true
    else s) s

/-- A MEAS slot begins to fill. -/
def State.measFilling (s : State) (k : Nat) : State := s.slotFilling (MEAS_SLOT_ST k)

/-- The value word of a temperature slot in fallback (R423). -/
def State.fallbackWord (s : State) (t : Nat) : Nat :=
  unsigned 16 (signed 8 (s.f (MEAS_TCFG_FALLBACK t)) * 16) + 0x20000

/-- A temperature slot takes a value. -/
def State.tempUpdate (s : State) (t : Nat) (v : Nat) (clamped : Bool) : State :=
  s.measUpdate (0x80 + t) (v % 0x10000 + b2n clamped * 0x10000)

/-- A temperature slot shows its fallback. -/
def State.inFallback (s : State) (t : Nat) : Bool := bitOf (s.reg (MEAS_SLOT_VAL (0x80 + t))).toNat 17

/-- A temperature slot enters fallback (R423): the first entry is flagged, stamped and cued. -/
def State.tempFall (s : State) (t : Nat) : State :=
  if s.inFallback t then s
  else
    let s := s.measUpdate (0x80 + t) (s.fallbackWord t)
    if s.meas.fell.contains t then s
    else
      let s := { s with meas := { s.meas with fell := t :: s.meas.fell } }
      ((s.raise MEAS_FLAG_TEMP_FALLBACK MEAS_FLAG_CNT_COUNT).stamp 1 0x01 0x27 0x27 0x03 t).unitCue (s.f MEAS_ACCESS_OWNER) 0x27 0x03 t
        (Config.cueOpen 7 0x2703 2)

/-- The temperature slots that take input `n` through a curve. -/
def State.curveSlots (s : State) (n : Nat) : List Nat :=
  ((List.range 64).drop 1).filter (fun t => s.f (MEAS_TCFG_SRC t) = 2 && s.f (MEAS_TCFG_INDEX t) = n)

/-- The nearest integer of a quotient with a positive divisor; a half rounds as the part does (log entry 8). -/
def divNear (bit : Nat) (n d : Int) : Int :=
  if 2 * (n % d) = d then n / d + (bit % 2 : Nat) else (2 * n + d) / (2 * d)

/-- The lowest curve point above a voltage, among points 1 to 15. -/
def State.curveAt (s : State) (c mv : Nat) : Option Nat :=
  ((List.range 16).drop 1).find? (fun k => decide (mv ≤ s.f (MEAS_CURVE_P_MV c k)))

/-- A voltage through a curve (R422): the temperature, and whether it was clamped. -/
def State.curve (s : State) (c mv : Nat) : Int × Bool :=
  let temp := fun k => signed 16 (s.f (MEAS_CURVE_P_TEMP c k))
  if mv < s.f (MEAS_CURVE_P_MV c 0) then (temp 0, true)
  else
    match s.curveAt c mv with
    | none => (temp 15, true)
    | some k =>
      let a := s.f (MEAS_CURVE_P_MV c (k - 1))
      let b := s.f (MEAS_CURVE_P_MV c k)
      if b ≤ a then (temp k, false)
      else (temp (k - 1) + divNear s.draw ((mv - a : Int) * (temp k - temp (k - 1))) (b - a : Int), false)

/-- MEAS_SCAN (R421): every analog input and its curve slots begin to fill. -/
def execMeasScan (s : State) : Host.Outcome State Fault Refusal :=
  go (if s.measures then
    (List.range 96).foldl (fun s n =>
      if s.on (INP_CFG_ANA n) then (s.curveSlots n).foldl (fun s t => s.measFilling (0x80 + t)) (s.measFilling n) else s) s
    else s)

/-- MEAS_CONVERSION_END (R421, R422). -/
def execMeasConversionEnd (n : Fin 96) (mv : BitVec 16) (s : State) : Host.Outcome State Fault Refusal :=
  if !s.on (INP_CFG_ANA n) ∨ !s.measures then go s
  else
    let s := s.measUpdate n mv.toNat
    go ((s.curveSlots n).foldl (fun s t =>
      let v := s.curve (s.f (MEAS_TCFG_CURVE t)) mv.toNat
      s.drawn.tempUpdate t (unsigned 16 v.1) v.2) s)

/-- A die whose sensors a temperature slot may take (R423): the LG and IF dies, or an adopted power die that is not stale. -/
def State.dieReads (s : State) (n : Nat) : Bool :=
  n = 0 || n = 14 || (n < 14 && (s.lnk n).adopted && s.f ⟨LDG_STAT, 16 + n, 1⟩ = 0)

/-- The DIE slots of a 1 ms update. -/
def State.dieSlots (s : State) (reads : List (Fin 15 × BitVec 16)) : State :=
  ((List.range 64).drop 1).foldl (fun s t =>
    let n := s.f (MEAS_TCFG_INDEX t)
    if s.f (MEAS_TCFG_SRC t) ≠ 1 then s
    else if !s.dieReads n then s.tempFall t
    else
      match reads.find? (fun r => r.1.val = n) with
      | some r => s.tempUpdate t r.2.toNat false
      | none => s) s

/-- MEAS_PERIODIC_UPDATE (R420, R422): supply voltages and currents, VLOG, and the hottest sensor of each die that reads. -/
def execMeasPeriodicUpdate (v0 i0 v1 i1 vlog : BitVec 16) (reads : List (Fin 15 × BitVec 16)) (s : State) :
    Host.Outcome State Fault Refusal :=
  go (if s.measures then
    let s := ((s.measUpdate 0x64 v0.toNat).measUpdate 0x65 i0.toNat).measUpdate 0x66 v1.toNat
    ((s.measUpdate 0x67 i1.toNat).measUpdate 0x68 vlog.toNat).dieSlots reads
    else s)

/-- An initiator granted in MEAS_ACCESS. -/
def State.measMay (s : State) (init : Nat) : Bool :=
  (isEngine init && s.f MEAS_ACCESS_OWNER = init) || (isSession init && bitOf (s.f MEAS_ACCESS_ZRT_GRANT) (init - 0x40))

/-- A write ignored and counted in MEAS_REFUSE. -/
def State.measRefuse (s : State) (init : Nat) : State := (s.incSat MEAS_REFUSE_COUNT).setF MEAS_REFUSE_LAST_INIT init

/-- A write of MEAS_TWRt (R422); it updates a WRITTEN slot. -/
def State.tempWrite (s : State) (t init v : Nat) : State :=
  if !s.measMay init then s.measRefuse init
  else if s.f (MEAS_TCFG_SRC t) = 3 then s.tempUpdate t v false
  else s

/-- TEMP_WRITE (R422): slot 1 to 63. -/
def execTempWrite (t : Fin 64) (init : Byte) (v : BitVec 16) (s : State) : Host.Outcome State Fault Refusal :=
  go (if t = 0 then s else s.tempWrite t init.toNat v.toNat)

/-- TEMP_STALE (R423). -/
def execTempStale (t : Fin 64) (s : State) : Host.Outcome State Fault Refusal :=
  go (if t ≠ 0 ∧ s.f (MEAS_TCFG_SRC t) = 3 ∧ s.measures then s.tempFall t else s)

/-! Sensor supplies -/

/-- A supply. -/
def State.sens (s : State) (k : Nat) : Sens := tget (fun _ => {}) s.meas.sens k

/-- Put it. -/
def State.setSens (s : State) (k : Nat) (x : Sens) : State := { s with meas := { s.meas with sens := tset (fun _ => {}) s.meas.sens k x } }

/-- EN of a supply. -/
def sensEN (k : Nat) : RF := ⟨MEAS_SENS_CTL, k, 1⟩

/-- A supply's output follows EN and its two latches; EN 0 ends an overcurrent latch (R427, R428). -/
def State.sensApply (s : State) (k : Nat) : State :=
  let x := s.sens k
  let en := s.on (sensEN k)
  let oc := x.oc && en
  s.setSens k { x with oc := oc, on := en && !oc && !x.bf }

/-- A write of MEAS_SENS_CTL (R427). -/
def State.sensWrite (s : State) (init v : Nat) : State :=
  if !(isStr init || s.measMay init) then s.measRefuse init
  else ((s.setF ⟨MEAS_SENS_CTL, 0, 4⟩ v).sensApply 0).sensApply 1

/-- SENS_CTL_WRITE (R427). -/
def execSensCtlWrite (init : Byte) (v : BitVec 4) (s : State) : Host.Outcome State Fault Refusal :=
  go (s.sensWrite init.toNat v.toNat)

/-- A stamped and cued event of a supply (R428). -/
def State.sensEvent (s : State) (k bit code : Nat) : State :=
  ((s.raise ⟨MEAS_FLAG, bit + k, 1⟩ MEAS_FLAG_CNT_COUNT).stamp 1 0x01 0x27 0x27 code k).unitCue (s.f MEAS_ACCESS_OWNER) 0x27 code k
    (Config.cueOpen 7 (0x2700 + code) 2)

/-- SENS_OVERCURRENT (R428). -/
def execSensOvercurrent (k : Fin 2) (s : State) : Host.Outcome State Fault Refusal :=
  go (if (s.sens k).on then (s.setSens k { s.sens k with on := false, oc := true }).sensEvent k 0 0x01 else s)

/-- SENS_BACKFEED (R428). -/
def execSensBackfeed (k : Fin 2) (s : State) : Host.Outcome State Fault Refusal :=
  go (if (s.sens k).bf then s else (s.setSens k { s.sens k with on := false, bf := true }).sensEvent k 2 0x02)

/-- SENS_BACKFEED_RELEASE (R428). -/
def execSensBackfeedRelease (k : Fin 2) (s : State) : Host.Outcome State Fault Refusal :=
  go (if (s.sens k).bf ∧ s.on (sensEN k) then (s.setSens k { s.sens k with bf := false }).sensApply k else s)

end Sys2Proof.Machine
end

