-- ==== Sys2Proof/Machine/Reset.lean ====
section
/-! DEFINITION. The full reset (R108 to R112): its entry with the record of the cause, the hold commands and the flush, what it
resets and what it keeps; and the restart of the slate after it (R277). -/

namespace Sys2Proof.Machine

/-- The counter of a reset cause (SYS_RESET_CNT0, CNT1). -/
def resetCnt (cause : Nat) : RF :=
  match cause with
  | 1 => SYS_RESET_CNT0_RESET_PIN
  | 2 => SYS_RESET_CNT0_STR_CREW_HEARTBEAT
  | 3 => SYS_RESET_CNT0_STR_SPINE_HANG
  | 4 => SYS_RESET_CNT0_STR_POLICY
  | 5 => SYS_RESET_CNT1_ZRT_RESET
  | 6 => SYS_RESET_CNT1_BROWNOUT
  | 7 => SYS_RESET_CNT1_XTAL_FAIL
  | _ => SYS_RESET_CNT1_UPDATE

/-- Step 1 of R110: the cause, the slate stamp and the count are recorded, the entry is stamped. DETAIL of a Strongroom policy reset is
its reason, which is CABINET in the first full reset after a failed cabinet load (R111, R479). -/
def State.resetRecord (s : State) (cause detail init : Nat) : State :=
  let detail := if s.str.cabFail ∧ cause = 4 then 4 else detail
  let s := ((s.setF SYS_RESET_CAUSE_CAUSE cause).setF SYS_RESET_CAUSE_DETAIL detail).setF SYS_RESET_CAUSE_INITIATOR init
  let t := (s.islandSlate 2).toNat
  let s := (s.setReg SYS_RESET_STAMP_LO (BitVec.ofNat 32 t)).setReg SYS_RESET_STAMP_HI (BitVec.ofNat 32 (t / 2 ^ 32))
  (s.incSat (resetCnt cause)).stampUnit 0x2D cause (detail + init * 0x100)

/-- Step 2 of R110: a hold command in the next frame of every stage link; keep-alives stop, no die counts as adopted, and each die
works with its own words from now on (R37). -/
def State.resetHolds (s : State) : State :=
  (List.range 14).foldl (fun s n =>
    if s.diePresent n then
      (s.keepCopy n).setLnk n { s.lnk n with tx := [.hold], adopted := false, seq := 0, cause := 0, evLost := 0 }
    else s)
    ({ s with str := { s.str with kaGo := false } }.setLnk 14 { s.lnk 14 with adopted := false, seq := 0 })

/-- STOREs queued at reset entry are discarded, each counted and stamped (R499). -/
def State.resetStores (s : State) : State :=
  { s.nvm.queue.foldl (fun s _ => (s.raise NVM_FLAG_RESET_LOST NVM_FLAG_CNT_COUNT).stamp 14 0x01 0x2B 0x2B
      (Config.openValue 4 0 % 0x100) 0) s with nvm := { s.nvm with queue := [] } }

/-- The memories that every reset of the logic zeroes (R109): crew memories with engine memories, gateway tables, flow contexts
and message RAM. -/
def State.zeroLogicMem (s : State) : State :=
  ((((s.zeroMem 0x02000000 0x02600000).zeroMem 0x04000000 0x04080000).zeroMem 0x04400000 0x04480000).zeroMem 0x04600000
    0x04610000).zeroMem 0x04700000 0x04780000

/-- What a power die keeps of its channels through a reset of the logic (R218): the run, the retry and its delay, the onset of the
brake and the waiting order, the counters of its frames and of its on-time, and the overload timer; with the progress of a learning,
whose registers are held. -/
def Chan.keep (x : Chan) : Chan :=
  { restart := x.restart, first := x.first, delayRun := x.delayRun, delayUp := x.delayUp, latch := x.latch,
    needRelease := x.needRelease, runZero := x.runZero, retryRun := x.retryRun, retryPend := x.retryPend, frames := x.frames,
    offAt := x.offAt, dirNew := x.dirNew, waitNo := x.waitNo, onUs := x.onUs, ovl := x.ovl, seen := x.seen }

/-- The crossings that a reset of the logic leaves CLOSED: those of the Cellar, which is not reset, with the Interface island, which is
(R98; log entry 65). Every other crossing resets on both sides together. -/
def cellarXing : Tbl Nat := [(1, 1), (32, 1)]

/-- What is not held in a register and is lost with the logic; what the Cellar, the dies, the IX pair and MRAM keep stays
(R109, R314, R449, R458). -/
def State.loseLogic (s : State) : State :=
  { s with
    frm := { prev := s.now - s.now % (s.f FRM_CFG_PERIOD_US * 125), captured := s.frm.captured }
    offers := []
    chans := (s.chans.map (fun e : Nat × Chan => (e.1, e.2.keep))).filter (fun e => e.2 ≠ ({} : Chan))
    ldg := { s.ldg with modHist := [], feedHist := [], feedOver := 0, modOver := 0, shedFeed := false, shedMod := false }
    scr := {}
    engs := []
    gated := []
    waiting := []
    rr := []
    exec := []
    trx := []
    cans := []
    lins := []
    nm := []
    gw := {}
    eth := { txPn := s.eth.txPn, rxPn := s.eth.rxPn, an := s.eth.an }
    zrt := []
    pwr := { inhLow := s.pwr.inhLow, sclHeld := s.pwr.sclHeld, xing := cellarXing, clamp := s.pwr.clamp }
    inp := { s.inp with ins := [], clean := [], cleanWait := [] }
    meas := { s.meas with fell := [] }
    str := { backoff := s.str.backoff, backoffMin := s.str.backoffMin, recovery := s.str.recovery }
    acc := { stopped := s.acc.stopped, lock := s.acc.lock, lockH := s.acc.lockH, ctr := s.acc.block, block := s.acc.block,
             withdraw := s.acc.withdraw, leftAt := s.acc.leftAt }
    iso := { s.iso with counted := false, cfgPend := false, adopting := false, runs := [] }
    nvm := { s.nvm with recs := [] }
    trk := {}
    brg := {}
    ports := [] }

/-- The logic is reset: registers that are not held take their reset values, but the role that the straps gave stays as sampled (R52);
memories are zeroed, transceivers other than sleeping ones go to STANDBY (R314), the debug port closes (R485), posted writes are
counted as lost (R408). -/
def State.logicReset (s : State) : State :=
  let asleep := (List.range 16).filter (fun t => s.f (trxStateRF t) = trSLEEP)
  let lost := s.brg.posted.length
  let role := s.f TRK_CFG_ROLE
  let s := ((s.fullResetRegs.zeroLogicMem).loseLogic).setF TRK_CFG_ROLE role
  let s := (List.range 16).foldl (fun s t => s.setF (trxStateRF t) (if asleep.contains t then trSLEEP else trSTANDBY)) s
  let s := (s.setF STR_LIFECYCLE_DEBUG_OPEN 0).setF STR_LIFECYCLE_METHOD 0
  s.setF BRG_PEL_STAT_RESET_LOST (min lost 0xFF)

/-- The state field of a slot: 0 A, 1 B. -/
def slotStateRF (sl : Nat) : RF := if sl = 0 then UPD_SLOTS_STATE_A else UPD_SLOTS_STATE_B

/-- The trial time left (R509), from TRIAL_LEFT and the time since it was last written. -/
def State.trialLeft (s : State) : Nat :=
  if s.f UPD_STAT_STATE = 3 ∧ !s.upd.trialNew then s.f UPD_STAT_TRIAL_LEFT - s.secondsSince s.upd.trialAt
  else s.f UPD_STAT_TRIAL_LEFT

/-- TRIAL_LEFT is written to the update state record. -/
def State.trialFold (s : State) : State :=
  { s.setF UPD_STAT_TRIAL_LEFT s.trialLeft with upd := { s.upd with trialAt := s.now } }

/-- Run is reached in trial: the trial time starts with the first Run (R509). -/
def State.trialRun (s : State) : State :=
  if s.f UPD_STAT_STATE = 3 ∧ s.upd.trialNew then
    let t := s.f UPD_CFG_TRIAL_S + (if s.f TRK_CFG_ROLE = 0 then 0 else 30)
    { s.setF UPD_STAT_TRIAL_LEFT t with upd := { s.upd with trialNew := false, trialAt := s.now } }
  else s

/-- A reset during RECEIVING or CHECKED returns UPD to IDLE with its slot INCOMPLETE (R505); a reset in trial other than
the activation's own is counted (R509). -/
def State.updReset (s : State) : State :=
  let st := s.f UPD_STAT_STATE
  let s := s.trialFold.setF UPD_STAT_BUSY 0
  if st = 1 ∨ st = 2 then
    { (s.setF UPD_STAT_STATE 0).setF (slotStateRF s.upd.slot) 1 with upd := { s.upd with busy := false, exps := [] } }
  else if st = 3 then
    (if s.upd.activation then { s with upd := { s.upd with activation := false } } else s.incSat UPD_STAT_RESETS)
  else s

/-- A full reset is entered (R110): the cause is recorded, holds go out, the Dailies are flushed, the MRAM clamps of R90 are applied, and
the logic is reset. The boot starts again from the beginning; RECOV_N and the straps are not sampled again (R52). -/
def State.fullReset (s : State) (cause detail init : Nat) : State :=
  let s := ((s.resetRecord cause detail init).resetHolds).resetStores
  let s := s.flush
  let s := (({ s with pwr := { s.pwr with clamp := 2 } }).logicReset).updReset
  { s with boot := { s.boot with phase := .reset, por := false, warm := true, tries := 0, runSeen := false,
                                 deepExit := false, due := none, recDue := false } }

/-- The highest stamp recorded or waiting in a stamp latch. -/
def State.topStamp (s : State) : Nat :=
  s.islands.foldl (fun m e => e.2.recs.foldl (fun m r => max m r.slate.toNat) m) s.dly.top

/-- The reference slate restarts from the value restored or just above the highest stamp, whichever is larger, and a RESTORED
record gives it with the gap since `from` (R277). -/
def State.restoreSlate (s : State) (restored frm : Nat) : State :=
  let t := max restored (s.topStamp + 1)
  let s := { s with slate := BitVec.ofNat 64 t }
  s.stampUnit 0x09 0x03 (t + (t - frm) * 2 ^ 64)

/-- FULL_RESET_ENTRY (R110): a full reset that is due within its 100 µs is entered. -/
def execFullResetEntry (s : State) : Host.Outcome State Fault Refusal :=
  go (match s.boot.due with
    | some (c, d, i) => s.fullReset c d i
    | none => s)

/-- RESET_PIN_ASSERT (R61, R63): a low level past the filter; during power-on reset it only holds the module. -/
def execResetPinAssert (s : State) : Host.Outcome State Fault Refusal :=
  let t := if s.boot.por then s else s.fullReset 1 0 0
  go { t with boot := { t.boot with pinLow := true } }

/-- RESET_PIN_RELEASE (R61). -/
def execResetPinRelease (s : State) : Host.Outcome State Fault Refusal :=
  go { s with boot := { s.boot with pinLow := false } }

/-- The address lies in an expansion window (R34, R394). -/
def isFar (a : Nat) : Bool := 0x10000000 ≤ a && a < 0x40000000

/-- The island of the unit that serves an address (R30). DESIGN CHOICE (log entry 55): where no rule assigns an address to an island,
ACC and MEAS are in the Interface island and the rest (the settings window, the Dailies, BRG, UPD, ISO and the shared blocks) in the
Spine island. -/
def islandOf (a : Nat) : Nat :=
  if 0x02000000 ≤ a ∧ a < 0x02600000 then 3 + (a - 0x02000000) / 0x100000
  else if 0x04700000 ≤ a ∧ a < 0x04710000 then 11
  else if 0x04000000 ≤ a ∧ a < 0x05000000 then 9
  else if 0x05100000 ≤ a ∧ a < 0x05200000 then 11
  else if isFar a then 15
  else
    match a / 0x10000 with
    | 0x0504 => 13
    | 0x0520 => 10
    | 0x0521 => 9
    | 0x0522 => 10
    | 0x0523 => 11
    | 0x0524 => 15
    | 0x0526 => 1
    | 0x0527 => 1
    | 0x0528 => 1
    | 0x0600 => 12
    | 0x0700 => 14
    | _ => 2

/-- A transaction that the Strongroom counts as hanging on an island (R102): the first of its initiator to wait, for a target of that
island; one that waits in the Trunk bridge is not counted (R103). -/
def State.hung (s : State) (isl : Nat) : Option SpineTx := s.waiting.find? (fun t => islandOf t.addr = isl && !isFar t.addr)

/-- SPINE_HANG (R102 to R104): a transaction outstanding for one supervision period into an island is recorded and a full reset
starts. In Sleep, and before the Strongroom is released, supervision is suspended. -/
def execSpineHang (isl : Fin 30) (s : State) : Host.Outcome State Fault Refusal :=
  go (if 2 ≤ s.f PWR_STATE_STATE ∨ s.boot.phase = .reset ∨ s.boot.phase = .strong ∨ s.boot.phase = .dead then s
  else match s.hung isl with
    | none => s
    | some t =>
      let s := ((s.setF SYS_HANG_INFO_INITIATOR t.init).setF SYS_HANG_INFO_ISLAND isl).setF SYS_HANG_INFO_WRITE (b2n (t.op ≠ 0))
      let s := (s.setF SYS_HANG_INFO_VALID 1).setReg SYS_HANG_ADDR (BitVec.ofNat 32 t.addr)
      s.fullReset 3 isl t.init)

/-- HANG_RECORD_CLEAR (R102): any write of SYS_HANG_ADDR. -/
def execHangRecordClear (s : State) : Host.Outcome State Fault Refusal := go (s.setF SYS_HANG_INFO_VALID 0)

/-- CREW_HEARTBEAT_MISS (R472): the beat of a supervised crew is missing when due. -/
def execCrewHeartbeatMiss (c : Fin 6) (s : State) : Host.Outcome State Fault Refusal :=
  go (if s.crewPresent c ∧ bitOf (s.f STR_HB_STAT_SUPERVISED) c ∧ s.f PWR_STATE_STATE < 2 ∧ s.boot.phase = .run then
    s.fullReset 2 c 0 else s)

/-- The islands clocked by a DLO (R30). -/
def isDlo (i : Nat) : Bool := (1 ≤ i && i ≤ 11) || i = 13 || i = 14 || i = 15

/-- DLO_UNLOCK (R106): a DLO out of lock runs on at its last frequency word; the island of one without output stops. Islands with an RC
oscillator, and absent ones, have no DLO (R30, R93). -/
def execDloUnlock (isl : Fin 30) (absent : Bool) (s : State) : Host.Outcome State Fault Refusal :=
  go (if !isDlo isl ∨ !s.islandPresent isl then s
  else
    let s := ((s.raise CLK_OSC_FLAG_DLO_UNLOCK CLK_OSC_FLAG_CNT_COUNT).setF CLK_OSC_FLAG_LAST_ISLAND isl).setF
      ⟨CLK_DLO_LOCK, isl, 1⟩ 0
    let s := s.stampUnit 0x02 0x02 isl
    if absent then s.setF ⟨PWR_ISLAND_STAT, isl, 1⟩ 0 else s)

/-- XTAL_FAIL (R106, R107): every DLO stops and a full reset starts at once. The island in the record is not stated. -/
def execXtalFail (s : State) : Host.Outcome State Fault Refusal :=
  let s := ((s.raise CLK_OSC_FLAG_XTAL_FAIL CLK_OSC_FLAG_CNT_COUNT).drawn).stampUnit 0x02 0x01 (s.draw % 0x20)
  let s := { s with boot := { s.boot with xtalBad := true } }
  go (s.fullReset 7 0 0)

/-- KA_LAPSE_RESET (R467): the watchdog of a released Strongroom, 0.5 ms after KA_GO fell. -/
def execKaLapseReset (s : State) : Host.Outcome State Fault Refusal :=
  go (if s.str.kaGo ∨ s.boot.phase = .reset ∨ s.boot.phase = .strong ∨ s.boot.phase = .dead then s else (s.raise STR_FLAG_KA_LAPSE STR_FLAG_CNT_COUNT).fullReset 4 2 0)

/-- LOCKSTEP_MISMATCH (R465): KA_GO falls and a full reset starts. -/
def execLockstepMismatch (s : State) : Host.Outcome State Fault Refusal :=
  let s := { s with str := { s.str with kaGo := false } }
  go ((s.raise STR_FLAG_LOCKSTEP STR_FLAG_CNT_COUNT).fullReset 4 1 0)

end Sys2Proof.Machine
end

