-- ==== Sys2Proof/Machine/Watch.lean ====
section
/-! DEFINITION. Accesses to the Larder and the Attic: watches (R268), and reads and writes by an initiator. -/

namespace Sys2Proof.Machine

/-- The Larder (R31). -/
def inLarderAt (a : Nat) : Bool := 0x01000000 ≤ a && a < 0x01200000

/-- Larder or Attic hold every byte of a range (R469). -/
def inStoreRange (a n : Nat) : Bool :=
  (0x01000000 ≤ a && a + n ≤ 0x01200000) || (0x01200000 ≤ a && a + n ≤ 0x01220000)

/-- The WATCH cue of one watch of an engine for an access that covers its word (R268). -/
def State.watchOne (s : State) (init : Nat) (write : Bool) (a len g w : Nat) : State :=
  let x := (s.eng g).watchOf w
  let at_ := 0x01000000 + 4 * x.word
  if (if write then x.write else x.read) ∧ a < at_ + 4 ∧ at_ < a + len then
    s.postCue (0x10 + g) 10 (Config.cueOpen 10 w 0) 0x09 w (init + 0x100 * b2n write) (4 * x.word) true
  else s

/-- Every watch on a word that an access touches, but those of the initiator's own engine (R268). -/
def State.watchTrig (s : State) (init : Nat) (write : Bool) (a len : Nat) : State :=
  if !inLarderAt a then s
  else s.engs.foldl (fun s e =>
    if init = 0x10 + e.1 then s
    else e.2.watch.foldl (fun s x => s.watchOne init write a len e.1 x.1) s) s

/-- An initiator writes bytes of the Larder or the Attic. -/
def State.storeWrite (s : State) (init a : Nat) (bytes : List Byte) : State :=
  (s.wrBytes a bytes).watchTrig init true a bytes.length

/-- An initiator reads bytes of the Larder or the Attic: the bytes, and the watches. -/
def State.storeRead (s : State) (init a n : Nat) : List Byte × State := (s.rdBytes a n, s.watchTrig init false a n)

end Sys2Proof.Machine
end

