-- ==== Sys2Proof/Machine/Strongroom.lean ====
section
/-! DEFINITION. The Strongroom: requests and their results (R469 to R471), the key cabinet (R477 to R481), entropy (R483), the
lifecycle and the debug lock (R484 to R487), the heartbeat requests (R473, R474, R476). -/

namespace Sys2Proof.Machine

/-! Key cabinet -/

/-- The key check value of a slot's content (R478). -/
def Key.kcv (x : Key) : Nat :=
  if x.kind = 0 then 0
  else if x.kind ≤ 2 then natLE ((aesEnc x.bytes (List.replicate 16 0)).take 3)
  else natLE ((sha256 x.bytes).take 3)

/-- Put a slot and show it in its directory words (R478). -/
def State.setKey (s : State) (k : Nat) (x : Key) : State :=
  let s := { s with keys := tset (fun _ => {}) s.keys k x }
  let s := (((s.setF (STR_KEY_KIND k) x.kind).setF (STR_KEY_STATE k) (b2n (x.kind ≠ 0))).setF (STR_KEY_USE k) x.use).setF
    (STR_KEY_USER k) x.user
  (s.setF (STR_KEY_IMPORTS k) (x.ctr % 0x100)).setF (STR_KEY_KCV_KCV k) x.kcv

/-- Erase a slot: its import counter stays (R481). -/
def State.eraseKey (s : State) (k : Nat) : State := s.setKey k { ctr := (s.key k).ctr }

/-- The record of an import or an erasure (R481). -/
def State.stampKey (s : State) (k kind kcv : Nat) : State := s.stampStr 12 0x14 (k + kind * 0x100 + kcv * 0x10000)

/-- A slot is erased and the erasure stamped (R481). -/
def State.eraseStamped (s : State) (k : Nat) : State :=
  let x := s.key k
  (s.eraseKey k).stampKey k x.kind x.kcv

/-- The 16-byte device serial (R489). -/
def State.serial (s : State) : List Byte := s.mrdBytes identAt 16

/-! Requests -/

/-- Status codes of R471. -/
def stOK : Nat := 0
/-- A tag, signature or wrap does not verify. -/
def stVERIFY : Nat := 1
/-- USE, USER or the lifecycle does not allow it. -/
def stGRANT : Nat := 2
/-- The slot does not fit. -/
def stSLOT : Nat := 3
/-- LEN out of range. -/
def stLENGTH : Nat := 4
/-- The result slot is FILLING. -/
def stBUSY : Nat := 5
/-- Entropy has failed. -/
def stENTROPY : Nat := 6
/-- IN or OUT outside the Larder and the Attic. -/
def stRANGE : Nat := 7
/-- The import counter is not new. -/
def stREPLAY : Nat := 8
/-- Unknown OP or reserved ARG bits. -/
def stOP : Nat := 10

/-- OP of a request. -/
def StrReq.op (r : StrReq) : Nat := sliceLE r.bytes 0 1
/-- SLOT. -/
def StrReq.slot (r : StrReq) : Nat := sliceLE r.bytes 1 1
/-- The result slot. -/
def StrReq.res (r : StrReq) : Nat := sliceLE r.bytes 2 1 % 8
/-- CUE. -/
def StrReq.cue (r : StrReq) : Bool := bitOf (sliceLE r.bytes 2 1) 7
/-- IN. -/
def StrReq.inp (r : StrReq) : Nat := sliceLE r.bytes 4 4
/-- OUT. -/
def StrReq.out (r : StrReq) : Nat := sliceLE r.bytes 8 4
/-- LEN. -/
def StrReq.len (r : StrReq) : Nat := sliceLE r.bytes 12 2
/-- ARG. -/
def StrReq.arg (r : StrReq) : Nat := sliceLE r.bytes 14 2

/-- The record of a request that does not complete OK, and its RESULT cue (R470, R471). -/
def State.strReport (s : State) (r : StrReq) (status val : Nat) : State :=
  let s := if status = stOK then s else s.stampStr 12 0x12 (r.op + status * 0x100 + r.init * 0x10000)
  if r.cue then s.postCue r.init 8 r.res 0x01 0x2A r.res val true else s

/-- A request completes: its result slot becomes READY with status, OP and output length (R470). -/
def State.strFinish (s : State) (r : StrReq) (status outLen : Nat) : State :=
  let val := status + r.op * 0x100 + outLen * 0x10000
  (s.slotUpdate (SYS_SLOT_ST r.res) (SYS_SLOT_VAL r.res) val).strReport r status val

/-- Requests of no OP of R471 complete with BAD_OP when they reach the head of the FIFO; the count of queued ones is shown. -/
def State.strAdvance : Nat → State → State
  | 0, s => s.setF SYS_STR_REQ_STAT_QUEUED s.str.req.length
  | n + 1, s =>
    match s.str.req with
    | r :: t =>
      if r.op = 0 ∨ 0x0B < r.op then ({ s with str := { s.str with req := t } }.strFinish r stOP 0).strAdvance n
      else s.setF SYS_STR_REQ_STAT_QUEUED (r :: t).length
    | [] => s.setF SYS_STR_REQ_STAT_QUEUED 0

/-- A write of the request window (R469, R470). -/
def State.strRequest (s : State) (init : Nat) (bytes : List Byte) : State :=
  if bytes.length ≠ 16 then s.incSat SYS_STR_REQ_STAT_MALFORMED
  else if 16 ≤ s.str.req.length then s.incSat SYS_STR_REQ_STAT_DROPPED
  else
    let r : StrReq := { init := init, bytes := bytes }
    if s.f ⟨SYS_SLOT_ST r.res, 16, 2⟩ = 1 then s.strReport r stBUSY (stBUSY + r.op * 0x100)
    else
      let s := s.slotFilling (SYS_SLOT_ST r.res)
      { s with str := { s.str with req := s.str.req ++ [r] } }.strAdvance 16

/-- STR_REQUEST (R469). -/
def execStrRequest (init : Byte) (bytes : List Byte) (s : State) : Host.Outcome State Fault Refusal :=
  if bytes.isEmpty ∨ 64 < bytes.length then .refused (.illFormed "STR_REQUEST") else go (s.strRequest init.toNat bytes)

/-- The request at the head of the FIFO is executed if it names the operation; `k` gives its status, output length and
effect (R470). -/
def State.strRun (s : State) (op : Nat) (k : State → StrReq → Nat × Nat × State) : State :=
  match s.str.req with
  | r :: t =>
    if r.op ≠ op then s
    else
      let x := k { s with str := { s.str with req := t } } r
      (x.2.2.strFinish r x.1 x.2.1).strAdvance 16
  | [] => s

/-- A failing status without effect. -/
def strFail (s : State) (status : Nat) : Nat × Nat × State := (status, 0, s)

/-- The output of a request is written by the mover (0x0A) and the request completes OK. -/
def State.strOut (s : State) (r : StrReq) (bytes : List Byte) : Nat × Nat × State :=
  (stOK, bytes.length, s.storeWrite 0x0A r.out bytes)

/-- Whether a request may use a slot with a key of the kinds given and the USE bit (R477, R478); none: it may. -/
def State.slotCheck (s : State) (r : StrReq) (use : Nat) (kinds : List Nat) : Option Nat :=
  let x := s.key r.slot
  if 64 ≤ r.slot then some stSLOT
  else if r.slot < 41 then some stGRANT
  else if !kinds.contains x.kind then some stSLOT
  else if !bitOf x.use use ∨ x.user ≠ r.init then some stGRANT
  else none

/-- The checks of a request in the order length, range, slot (log entry 15), then its effect. -/
def strGuard (s : State) (lenOk rangeOk : Bool) (slot : Option Nat) (k : Unit → Nat × Nat × State) : Nat × Nat × State :=
  if !lenOk then strFail s stLENGTH
  else if !rangeOk then strFail s stRANGE
  else match slot with
    | some e => strFail s e
    | none => k ()

/-- STR_RANDOM (R471, R483): bytes of the DRBG, which are free. -/
def execStrRandom (s : State) : Host.Outcome State Fault Refusal :=
  go (s.strRun 0x01 (fun s r =>
    strGuard s (1 ≤ r.len && r.len ≤ 256) (inStoreRange r.out r.len) none (fun _ =>
      if !s.on STR_RNG_STAT_HEALTHY then strFail s stENTROPY
      else s.drawn.strOut r (bytesLE r.len s.draw))))

/-- STR_SHA256 (R471). -/
def execStrSha256 (s : State) : Host.Outcome State Fault Refusal :=
  go (s.strRun 0x02 (fun s r =>
    strGuard s (1 ≤ r.len) (inStoreRange r.inp r.len && inStoreRange r.out 32) none (fun _ =>
      let x := s.storeRead 0x0A r.inp r.len
      x.2.strOut r (sha256 x.1))))

/-- STR_CMAC_GEN (R471). -/
def execStrCmacGen (s : State) : Host.Outcome State Fault Refusal :=
  go (s.strRun 0x03 (fun s r =>
    strGuard s (1 ≤ r.len && r.len ≤ 4096) (inStoreRange r.inp r.len && inStoreRange r.out 16) (s.slotCheck r 0 [1, 2])
      (fun _ =>
        let x := s.storeRead 0x0A r.inp r.len
        x.2.strOut r (cmac (s.key r.slot).bytes x.1))))

/-- STR_CMAC_VERIFY (R471): the first ARG bytes of the tag against those at OUT. -/
def execStrCmacVerify (s : State) : Host.Outcome State Fault Refusal :=
  go (s.strRun 0x04 (fun s r =>
    strGuard s (1 ≤ r.len && r.len ≤ 4096 && 4 ≤ r.arg && r.arg ≤ 16)
      (inStoreRange r.inp r.len && inStoreRange r.out r.arg) (s.slotCheck r 0 [1, 2])
      (fun _ =>
        let x := s.storeRead 0x0A r.inp r.len
        let y := x.2.storeRead 0x0A r.out r.arg
        if (cmac (s.key r.slot).bytes x.1).take r.arg = y.1 then (stOK, 0, y.2) else strFail y.2 stVERIFY)))

/-- STR_AES_CTR (R471): the counter block stands before the data. -/
def execStrAesCtr (s : State) : Host.Outcome State Fault Refusal :=
  go (s.strRun 0x05 (fun s r =>
    strGuard s (1 ≤ r.len && r.len ≤ 4096) (inStoreRange r.inp (16 + r.len) && inStoreRange r.out r.len)
      (s.slotCheck r 1 [1, 2])
      (fun _ =>
        let x := s.storeRead 0x0A r.inp (16 + r.len)
        x.2.strOut r (aesCtr (s.key r.slot).bytes 256 (x.1.take 16) (x.1.drop 16)))))

/-- STR_ECDSA_VERIFY (R471): digest and signature stand at IN. -/
def execStrEcdsaVerify (s : State) : Host.Outcome State Fault Refusal :=
  go (s.strRun 0x06 (fun s r =>
    strGuard s true (inStoreRange r.inp 96) (s.slotCheck r 3 [4])
      (fun _ =>
        let x := s.storeRead 0x0A r.inp 96
        if ecdsaVerify (s.key r.slot).bytes (x.1.take 32) (x.1.drop 32) then (stOK, 0, x.2) else strFail x.2 stVERIFY)))

/-! Key import and erasure -/

/-- The kinds that a slot takes (R477). -/
def slotKinds (k : Nat) : List Nat :=
  if k = 1 then [2] else if k = 2 then [1] else if k = 3 then [3] else if k = 4 ∨ k = 5 then [4]
  else if 14 ≤ k ∧ k ≤ 32 then [1] else if 33 ≤ k then [1, 2] else []

/-- Whether the lifecycle allows KEY_IMPORT into a slot (R477). -/
def State.mayImport (s : State) (k : Nat) : Bool :=
  let st := s.f STR_LIFECYCLE_STATE
  if k = 0 then false
  else if k ≤ 3 then st = 0
  else if k ≤ 5 then st ≤ 1
  else 14 ≤ k

/-- How many bytes of content a kind has; each import of a public key carries 32 of its 64. -/
def kindBytes (kind : Nat) : Nat := if kind = 1 then 16 else 32

/-- ETH_PORTp_STAT.MACSEC_UP of an uplink: it has a key of each direction (R335). -/
def State.macsecShow (s : State) (p : Nat) : State :=
  let has := fun (i : Nat) => (s.key (33 + 4 * p + i)).kind ≠ 0
  s.setF (ETH_PORT_STAT_MACSEC_UP p) (b2n ((has 0 || has 1) && (has 2 || has 3)))

/-- A SAK takes effect at the next SA switch (R335, R480): the transmit SA that is not in use takes over from PN 0; a receive
SA starts its replay window again. -/
def State.sakLoad (s : State) (k : Nat) : State :=
  let p := (k - 33) / 4
  let j := (k - 33) % 4
  let an := tget (fun _ => 0) s.eth.an p
  let s := if j < 2 then
      (if an ≠ j ∨ tget (fun _ => 0) s.eth.txPn (4 * p + j) = 0 then
        { s with eth := { s.eth with an := tset (fun _ => 0) s.eth.an p j, txPn := tset (fun _ => 0) s.eth.txPn (4 * p + j) 0 } }.setF
          (ETH_PORT_STAT_PN_NEAR p) 0
      else s)
    else { s with eth := { s.eth with rxPn := tset (fun _ => 0) s.eth.rxPn (4 * p + j - 2) 0 } }
  s.macsecShow p

/-- A key enters its slot: KEY_IMPORT of R480 once every check has passed. -/
def State.importKey (s : State) (k kind use user ctr half : Nat) (bytes : List Byte) : State :=
  let old := s.key k
  if kind = 4 ∧ half = 0 then s.setKey k { old with ctr := ctr, half := bytes }
  else
    let x : Key := { kind := kind, use := use, user := if 41 ≤ k then user else 0, ctr := ctr,
                     bytes := if kind = 4 then old.half ++ bytes else bytes }
    let s := s.setKey k x
    let s := if k = 23 ∨ k = 24 then { s with acc := { s.acc with ctr := 0, block := 0 } } else s
    if 33 ≤ k ∧ k ≤ 40 then s.sakLoad k else s

/-- KEY_IMPORT (R480). -/
def execKeyImport (s : State) : Host.Outcome State Fault Refusal :=
  go (s.strRun 0x07 (fun s r =>
    strGuard s (r.len = 56) (inStoreRange r.inp 56) none (fun _ =>
      let x := s.storeRead 0x0A r.inp 56
      match keyUnwrap (s.key 1).bytes x.1 with
      | none => strFail x.2 stVERIFY
      | some b =>
        let k := sliceLE b 0 1
        let kind := sliceLE b 1 1
        let ctr := natBE ((b.drop 4).take 4)
        if k ≠ r.slot ∨ 64 ≤ k then strFail x.2 stSLOT
        else if k ≠ 0 ∧ !(6 ≤ k ∧ k ≤ 13) ∧ !(slotKinds k).contains kind then strFail x.2 stSLOT
        else if !s.mayImport k then strFail x.2 stGRANT
        else if ctr ≤ (s.key k).ctr then strFail x.2 stREPLAY
        else
          let s := x.2.importKey k kind (sliceLE b 2 1 % 0x10) (sliceLE b 3 1) ctr r.arg
            ((b.drop 16).take (kindBytes kind))
          (stOK, 0, s.stampKey k kind (s.key k).kcv))))

/-- KEY_ERASE (R481). -/
def execKeyErase (s : State) : Host.Outcome State Fault Refusal :=
  go (s.strRun 0x08 (fun s r =>
    let k := r.slot
    if 64 ≤ k then strFail s stSLOT
    else if (41 ≤ k ∧ (s.key k).user = r.init) ∨ (14 ≤ k ∧ k ≤ 40 ∧ isStr r.init) then
      let t := s.eraseStamped k
      (stOK, 0, if 33 ≤ k ∧ k ≤ 40 then t.macsecShow ((k - 33) / 4) else t)
    else strFail s stGRANT))

/-! Supervision requests -/

/-- The sender is a session with HB = 1. -/
def State.hbSession (s : State) (init : Nat) : Bool := isSession init && s.on (ZRT_SES_CFG_HB (init - 0x40))

/-- A request executed in a session with HB = 1: the central computer's heartbeat (R473). -/
def State.ccBeat (s : State) (init : Nat) : State :=
  if !s.hbSession init then s
  else
    let since := if s.ccPresent then s.str.ccSince else s.now
    let s := ((s.setF STR_HB_STAT_CC_ARMED 1).setF STR_HB_STAT_CC_MISSING 0).setF STR_HB_STAT_CC_SEEN 1
    { s with str := { s.str with ccLast := s.now, ccSince := since } }

/-- HB_DISARM (R474). -/
def execHbDisarm (s : State) : Host.Outcome State Fault Refusal :=
  go (s.strRun 0x09 (fun s r =>
    if s.hbSession r.init then (stOK, 0, (s.setF STR_HB_STAT_CC_ARMED 0).setF STR_HB_STAT_CC_MISSING 0)
    else strFail s stGRANT))

/-- The causes that an FS_RELEASE_REQ satisfies on a link: CC_ACT from a session with HB = 1 while the heartbeat is present,
STALE from anyone (R476). -/
def State.releaseReqLink (s : State) (init n : Nat) : State :=
  let c := (s.lnk n).cause
  if s.f (dieStateRF n) ≠ 3 then s
  else
    let c := if bitOf c 1 ∧ s.hbSession init ∧ s.ccPresent then c - 2 else c
    let c := if bitOf c 2 then c - 4 else c
    if c = (s.lnk n).cause then s
    else
      let t := s.setLnk n { s.lnk n with cause := c }
      if t.fsSatisfied n then t.fsReleaseWrite 0x08 (BitVec.ofNat 32 (2 ^ n)) else t

/-- FS_RELEASE_REQ (R471, R476). -/
def execFsReleaseReq (s : State) : Host.Outcome State Fault Refusal :=
  go (s.strRun 0x0B (fun s r =>
    if r.arg % 2 = 1 ∨ 0x4000 ≤ r.arg then strFail s stOP
    else if s.boot.phase ≠ .run then (stOK, 0, s)
    else (stOK, 0, s.dieLinks.foldl (fun s n => if bitOf r.arg n then s.releaseReqLink r.init n else s) s)))

/-! Lifecycle -/

/-- An accepted transition: MRAM takes the target and a full reset with reason LIFECYCLE is due (R487). -/
def State.lifecycleTo (s : State) (target : Nat) : State :=
  let s := s.setF STR_LIFECYCLE_STATE target
  { s with boot := { s.boot with due := some (4, 3, 0) } }

/-- LIFECYCLE_REQUEST (R484, R487). -/
def execLifecycleRequest (s : State) : Host.Outcome State Fault Refusal :=
  go (s.strRun 0x0A (fun s r =>
    let st := s.f STR_LIFECYCLE_STATE
    let target := r.arg % 4
    if target = 3 then
      (if st ≠ 3 ∧ r.init = 0x4A ∧ s.on STR_LIFECYCLE_DEBUG_OPEN then
        (stOK, 0, ((List.range 63).foldl (fun s k => s.eraseStamped (k + 1)) s).lifecycleTo 3)
      else strFail s stGRANT)
    else if (st = 0 ∧ (target = 1 ∨ target = 2)) ∨ (st = 1 ∧ target = 2) then
      strGuard s (r.len = 16) (inStoreRange r.inp 16) none (fun _ =>
        let x := s.storeRead 0x0A r.inp 16
        if cmac (s.key 2).bytes (BitVec.ofNat 8 target :: s.serial) = x.1 then (stOK, 0, x.2.lifecycleTo target)
        else strFail x.2 stVERIFY)
    else strFail s stGRANT))

/-! Entropy -/

/-- ENTROPY_FAIL (R483): draws complete with NO_ENTROPY from now on. -/
def execEntropyFail (s : State) : Host.Outcome State Fault Refusal :=
  go (((s.raise STR_FLAG_ENTROPY_FAIL STR_FLAG_CNT_COUNT).setF STR_RNG_STAT_HEALTHY 0).stampStr 12 0x15 0)

/-- ENTROPY_RECOVERY (R483). -/
def execEntropyRecovery (s : State) : Host.Outcome State Fault Refusal := go (s.setF STR_RNG_STAT_HEALTHY 1)

/-- DRBG_RESEED (R483): every 1 ms, from conditioned output while the source is healthy. -/
def execDrbgReseed (s : State) : Host.Outcome State Fault Refusal :=
  go (if s.on STR_RNG_STAT_HEALTHY then s.incMod STR_RNG_STAT_RESEEDS else s)

/-! Debug lock -/

/-- The debug port opens by a method, or stays closed in FIELD, at every boot (R485). -/
def State.debugBoot (s : State) : State :=
  if s.f STR_LIFECYCLE_STATE = 2 then (s.setF STR_LIFECYCLE_DEBUG_OPEN 0).setF STR_LIFECYCLE_METHOD 0
  else (s.setF STR_LIFECYCLE_DEBUG_OPEN 1).setF STR_LIFECYCLE_METHOD 1

/-- The record of an attempt: method 2 password, 3 challenge; outcome 0 opened, 1 wrong, 2 LOCKED (R486). -/
def State.stampDebug (s : State) (method outcome : Nat) : State := s.stampStr 12 0x16 (method + outcome * 0x100)

/-- A wrong answer (R486): counted, and from the tenth on each starts a back-off, twice as long as the last. -/
def State.debugWrong (s : State) (method : Nat) : State :=
  let n := min (s.f STR_DBG_STAT_FAILS + 1) 0xFF
  let s := (s.setF STR_DBG_STAT_FAILS n).raise STR_FLAG_DEBUG_FAIL STR_FLAG_CNT_COUNT
  let s := if n < 10 then s
    else
      let m := if n = 10 then 60 else min (2 * max 60 s.str.backoffMin) 61440
      { s.setF STR_DBG_STAT_BACKOFF_MIN m with str := { s.str with backoff := true, backoffMin := m } }
  s.stampDebug method 1

/-- An answer is compared unless a back-off runs (R486). -/
def State.debugAnswer (s : State) (method : Nat) (right : Bool) : State :=
  if s.f STR_LIFECYCLE_STATE ≠ 2 ∨ s.on STR_LIFECYCLE_DEBUG_OPEN then s
  else if s.str.backoff then s.stampDebug method 2
  else if right then
    let s := ((s.setF STR_LIFECYCLE_DEBUG_OPEN 1).setF STR_LIFECYCLE_METHOD method).setF STR_DBG_STAT_FAILS 0
    { s with str := { s.str with backoffMin := 0 } }.stampDebug method 0
  else s.debugWrong method

/-- DEBUG_PASSWORD (R486): the 128-bit password, first byte in the top bits. -/
def execDebugPassword (pw : BitVec 128) (s : State) : Host.Outcome State Fault Refusal :=
  go (s.debugAnswer 2 (sha256 (bytesBE 16 pw.toNat ++ s.serial) = (s.key 3).bytes))

/-- DEBUG_CHALLENGE (R486): a new challenge is drawn and read. -/
def execDebugChallenge (s : State) : Host.Outcome State Fault Refusal :=
  go (if !s.on STR_RNG_STAT_HEALTHY then s
    else
      let c := s.draw % 2 ^ 128
      { s.drawn with str := { s.str with chal := some c, chalAt := s.now } })

/-- DEBUG_RESPONSE (R486): the CMAC under slot 2 over challenge, serial and lifecycle code; a challenge is valid for one
answer and for 60 s. -/
def execDebugResponse (tag : BitVec 128) (s : State) : Host.Outcome State Fault Refusal :=
  let msg := fun (c : Nat) => bytesBE 16 c ++ s.serial ++ [BitVec.ofNat 8 (s.f STR_LIFECYCLE_STATE)]
  let right := match s.str.chal with
    | some c => s.now ≤ s.str.chalAt + 7500000000 && cmac (s.key 2).bytes (msg c) = bytesBE 16 tag.toNat
    | none => false
  go (({ s with str := { s.str with chal := if s.str.backoff then s.str.chal else none } }).debugAnswer 3 right)

/-- DEBUG_BACKOFF_END (R486): a back-off counts down while the logic is powered. -/
def execDebugBackoffEnd (s : State) : Host.Outcome State Fault Refusal :=
  go (if s.str.backoff ∧ s.f PWR_STATE_STATE < 3 then { s.setF STR_DBG_STAT_BACKOFF_MIN 0 with str := { s.str with backoff := false } } else s)

/-- TAP_BYPASS (R485): one bit, 0, between TDI and TDO. -/
def execTapBypass (s : State) : Host.Outcome State Fault Refusal :=
  go (if s.boot.phase = .reset then s else { s with str := { s.str with tap := 0, tapOut := 0 } })

/-- TAP_IDCODE (R485): the device code, which the spec does not give. -/
def execTapIdcode (s : State) : Host.Outcome State Fault Refusal :=
  go (if s.boot.phase = .reset then s else { s with str := { s.str with tap := 1, tapOut := Config.openValue 3 s.part % 2 ^ 32 } })

end Sys2Proof.Machine
end

