-- ==== Sys2Proof/Machine/Access.lean ====
section
/-! DEFINITION. Keyless access and immobiliser: rounds and frames (R429 to R436), polls (R437 to R439), the search (R440,
R441), learning and revocation (R443 to R446), authorisation and release (R447 to R450), and the central computer's heartbeat
going missing (R473), which may end an authorisation. -/

namespace Sys2Proof.Machine

/-- A record of ACC in the Interface island. -/
def State.stampAcc (s : State) (event data : Nat) : State := s.stamp 1 0x01 0x28 0x28 event data

/-- A stamped ACC event with its cue to OWNER; the cue's DATA is not given (log entry 9). -/
def State.accEvent (s : State) (code arg data : Nat) : State :=
  (s.stampAcc code data).unitCue (s.f ACC_CFG3_OWNER) 0x28 code arg (Config.cueOpen 7 (0x2800 + code) 2)

/-- Writers of the ACC command registers (R451). -/
def State.accMay (s : State) (init : Nat) : Bool :=
  isStr init || (init ≠ 0 && s.f ACC_CFG3_OWNER = init) ||
  (isSession init && bitOf (s.f ACC_CFG3_ZRT_GRANT) (init - 0x40))

/-- A write of another initiator is ignored and counted (R451). -/
def State.accRefuse (s : State) (init : Nat) : State := (s.incSat ACC_REFUSE_COUNT).setF ACC_REFUSE_LAST_INIT init

/-- A write of an ACC command register by an initiator. -/
def State.accWrite (s : State) (init : Nat) (k : State → State) : State :=
  if !s.fullPart then s.absentWrite 0x28 0
  else if s.accMay init then k s else s.accRefuse init

/-- The state of a token index: 0 EMPTY, 1 ACTIVE, 2 REVOKED. -/
def tokenRF (i : Nat) : RF := ⟨ACC_TOKEN_STAT, 2 * i, 2⟩

/-- The ACTIVE indices, ascending. -/
def State.activeTokens (s : State) : List Nat := (List.range 8).filter (fun i => s.f (tokenRF i) = 1)

/-- Antennas of a mask that are fitted and not faulted (R430). -/
def State.antUsable (s : State) (mask : Nat) : Nat :=
  (List.range 6).foldl (fun a k =>
    if bitOf mask k ∧ bitOf (s.f ACC_LF_CFG_ANT_EN) k ∧ !bitOf (s.f ACC_LF_STAT_OPEN) k ∧ !bitOf (s.f ACC_LF_STAT_SHORT) k then
      a + 2 ^ k else a) 0

/-- LF_ANTENNA_FAULT (R430). -/
def execLfAntennaFault (a : Fin 6) (short : Bool) (s : State) : Host.Outcome State Fault Refusal :=
  go (if !s.fullPart ∨ s.antUsable (2 ^ a.val) = 0 then s
    else
      let s := s.setF ⟨ACC_LF_STAT, if short then 6 + a.val else a.val, 1⟩ 1
      (s.raise ACC_FLAG_LF_FAULT ACC_FLAG_CNT_COUNT).accEvent 0x04 a (b2n short))

/-! Authorisation (R447) -/

/-- The validity left in 100 ms: from AUTH_T, less the time since it was last set. -/
def State.authLeft (s : State) : Nat := 10 * s.f ACC_AUTH_CFG_AUTH_T - (s.now - s.acc.leftAt) / 12500000

/-- The authorisation ends: three WITHDRAWN messages follow. -/
def State.authEnd (s : State) : State :=
  if !s.on ACC_AUTH_STAT_ACTIVE then s
  else
    let s := ((s.setF ACC_AUTH_STAT_ACTIVE 0).setF ACC_AUTH_STAT_WITHDRAWING 1).setF ACC_AUTH_STAT_LEFT 0
    let s := { s with acc := { s.acc with withdraw := 3 } }.raise ACC_FLAG_AUTH_END ACC_FLAG_CNT_COUNT
    s.accEvent 0x07 1 (s.f ACC_AUTH_STAT_TOKEN + s.f ACC_REL_CTR_CTR * 2 ^ 32)

/-- The validity is set to AUTH_T. -/
def State.authRenew (s : State) : State :=
  { s.setF ACC_AUTH_STAT_LEFT (10 * s.f ACC_AUTH_CFG_AUTH_T) with acc := { s.acc with leftAt := s.now } }

/-! Learning results and revocation (R444 to R446) -/

/-- RESULT codes. -/
def lrDONE : Nat := 1
/-- All 32 learning events are used. -/
def lrEXHAUSTED : Nat := 2
/-- The index is ACTIVE. -/
def lrOCCUPIED : Nat := 3
/-- No authority. -/
def lrNOAUTH : Nat := 4
/-- No staged key. -/
def lrNOKEY : Nat := 5
/-- A wrong dealer response. -/
def lrDFAIL : Nat := 6
/-- The dealer path is locked. -/
def lrDLOCK : Nat := 7
/-- The prove round did not verify. -/
def lrPFAIL : Nat := 8
/-- 60 s passed. -/
def lrTIMEOUT : Nat := 9
/-- A GO outside IDLE. -/
def lrBUSY : Nat := 10

/-- A result is shown, stamped and cued; every one but DONE sets LEARN_FAIL. -/
def State.learnReport (s : State) (result idx auth op : Nat) : State :=
  let s := s.setF ACC_LEARN_STAT_RESULT result
  let s := if result = lrDONE then s else s.raise ACC_FLAG_LEARN_FAIL ACC_FLAG_CNT_COUNT
  s.accEvent 0x06 result (idx + auth * 8 + op * 0x20 + s.f ACC_TOKEN_STAT_ENROL_USED * 0x100)

/-- An event ends in IDLE with a result. -/
def State.learnEnd (s : State) (result : Nat) : State :=
  let s := { s.setF ACC_LEARN_STAT_STATE 0 with acc := { s.acc with prove := false, proving := false, revoke := false } }
  s.learnReport result s.acc.idx s.acc.auth s.acc.op

/-- A revocation takes effect (R446): the key is erased and the index REVOKED in one STORE; an authorisation of the token
ends. -/
def State.revokeNow (s : State) (i : Nat) : State :=
  let s := (s.eraseStamped (6 + i)).setF (tokenRF i) 2
  let s := if s.acc.verAt.isSome ∧ s.acc.verTok = i then { s with acc := { s.acc with verAt := none } } else s
  let s := if s.on ACC_AUTH_STAT_ACTIVE ∧ s.f ACC_AUTH_STAT_TOKEN = i then s.authEnd else s
  s.learnEnd lrDONE

/-- A revocation with its authority waits for the end of a running poll (R446). -/
def State.revokeDue (s : State) (i : Nat) : State :=
  let s := { s.setF ACC_LEARN_STAT_STATE 3 with acc := { s.acc with revoke := true } }
  if s.acc.cur.isSome then s else s.revokeNow i

/-! Polls (R437, R438) -/

/-- ACC_POLL_REQUEST (R438, R451): a write of ACC_POLL_REQ with GO 1. -/
def State.pollReq (s : State) (init ant tag : Nat) : State :=
  s.accWrite init (fun s => s.accQueue { src := 4, ant := ant, tag := tag })

/-- ACC_POLL_REQUEST (R438). -/
def execAccPollRequest (init : Byte) (ant : BitVec 6) (tag : Byte) (s : State) : Host.Outcome State Fault Refusal :=
  go (s.pollReq init.toNat ant.toNat tag.toNat)

/-- The next poll: a handle touch in the order of the touches, a request, the search (R438). -/
def State.pollNext (s : State) : Option AccPoll :=
  match s.acc.queue.find? (fun p => p.src < 4) with
  | some p => some p
  | none => match s.acc.queue.find? (fun p => p.src = 4) with
    | some p => some p
    | none => s.acc.queue.head?

/-- POLL_START (R437): ACC_PRESENT is cleared and the poll counted. It waits for a prove round, which follows the
poll that runs (R444), and for the end of the Load-dump band. -/
def execPollStart (s : State) : Host.Outcome State Fault Refusal :=
  go (if s.acc.cur.isSome ∨ s.acc.prove ∨ s.acc.proving ∨ s.f PWR_FEED_STAT_BAND = 2 then s
    else match s.pollNext with
      | none => s
      | some p =>
        let s := { s with acc := { s.acc with queue := s.acc.queue.erase p, cur := some p, bad := 0, jam := 0, left := [],
                                              roundOn := false } }
        let s := ((s.setReg ACC_PRESENT 0).incMod ACC_POLL_STAT_POLL_SEQ).setF ACC_POLL_STAT_STATE 1
        s.setF ACC_POLL_STAT_ROUND 1)

/-- The source code of a poll in POLL_DONE. -/
def AccPoll.source (p : AccPoll) : Nat := if p.src < 4 then p.door else if p.src = 4 then 0x10 else 0x20

/-- A poll ends with an outcome and, where VERIFIED, its session token (R437, R441, R447). -/
def State.pollEnd (s : State) (p : AccPoll) (outcome session : Nat) : State :=
  let s := { (s.setF ACC_POLL_STAT_STATE 0).setF ACC_POLL_STAT_ROUND 0 with
              acc := { s.acc with cur := none, roundOn := false, left := [] } }
  let v := outcome = 1
  let s := ((s.setF ACC_PRESENT_OUTCOME outcome).setF ACC_PRESENT_SESSION session).setF ACC_PRESENT_VALID (b2n v)
  let s := s.setF ACC_PRESENT_POLL_SEQ (s.f ACC_POLL_STAT_POLL_SEQ)
  let s := if v then
      let s := { s with acc := { s.acc with verAt := some s.now, verTok := session,
                                            stopped := s.acc.stopped && p.src = 5 } }
      if s.on ACC_AUTH_STAT_ACTIVE ∧ s.f ACC_AUTH_STAT_TOKEN = session then s.authRenew else s
    else s
  let s := s.accEvent 0x01 (outcome + session * 0x10 + b2n v * 0x80 + p.source * 0x100)
    ((s.reg ACC_PRESENT).toNat + p.tag * 2 ^ 32)
  if s.acc.revoke then s.revokeNow s.acc.idx else s

/-! Rounds (R432 to R436) -/

/-- The bits of an LF frame, most significant first (R432): 88 with WAKE_B, or 96 with WAKE_A and the index. -/
def State.lfBits (s : State) (nonce : Nat) (addressed : Option Nat) : Nat :=
  let v := s.f ACC_CFG_VEH_ID
  match addressed with
  | none => (s.f ACC_CFG_WAKE_B * 0x10000 + v) * 2 ^ 64 + nonce
  | some i => ((s.f ACC_CFG_WAKE_A * 0x10000 + v) * 0x100 + i % 8) * 2 ^ 64 + nonce

/-- A round's LF frame starts, the same on every antenna of the mask that is usable (R429, R430). -/
def State.roundBegin (s : State) (mask nonce : Nat) (addressed : Option Nat) : State :=
  { s with acc := { s.acc with roundOn := true, nonce := nonce, start := (s.islandSlate 1).toNat, addressed := addressed,
                               lfMask := s.antUsable mask, lfFrame := s.lfBits nonce addressed,
                               slots := [], frames := [], verified := false, collision := false, invalid := false } }

/-- A round starts with a nonce of its own: that of the IF die for a first round begun in sleep, at the moment of that start, else one
drawn from a healthy source; without one it waits (R432, R442, R483). -/
def State.roundNonce (s : State) (mask : Nat) (given : Option (Nat × Nat)) (addressed : Option Nat) : State :=
  match given with
  | some (n, at_) =>
    let s := s.roundBegin mask n addressed
    { s with acc := { s.acc with start := at_ } }
  | none => if s.on STR_RNG_STAT_HEALTHY then s.drawn.roundBegin mask (s.draw % 2 ^ 64) addressed else s

/-- ACC_ROUND_START (R430, R432, R437, R444): the next round of the running poll, or the prove round of a learning event. -/
def execAccRoundStart (s : State) : Host.Outcome State Fault Refusal :=
  go (if !s.fullPart ∨ s.acc.roundOn ∨ s.f PWR_FEED_STAT_BAND = 2 then s
    else match s.acc.cur with
      | some p =>
        if s.antUsable p.ant = 0 then s.pollEnd p 3 0
        else if s.f ACC_POLL_STAT_STATE = 2 then s.roundNonce p.ant none s.acc.left.head?
        else
          let t := s.roundNonce p.ant (p.nonce.map (fun n => (n, p.at_))) none
          if t.acc.roundOn then { t with acc := { t.acc with cur := some { p with nonce := none } } } else t
      | none =>
        if !s.acc.prove then s
        else if s.antUsable 0x3F = 0 then s.learnEnd lrPFAIL
        else
          let t := s.roundNonce 0x3F none (some s.acc.idx)
          if t.acc.roundOn then { t with acc := { t.acc with proving := true } } else t)

/-- The start of the response window, in ticks of the Interface island (R434). -/
def State.windowAt (s : State) : Nat :=
  s.acc.start + (if s.acc.addressed.isSome then 3000000 else 2750000) + 125000

/-- How many slots the window has. -/
def State.windowSlots (s : State) : Nat := if s.acc.addressed.isSome then 1 else 8

/-- UHF_EN (R431): high from UHF_WARM before slot 0 of a response window until the window closes. -/
def State.uhfEn (s : State) : Bool :=
  s.acc.roundOn && s.windowAt ≤ (s.islandSlate 1).toNat + s.f ACC_CFG3_UHF_WARM * 1250

/-- The FRAME slot takes a verdict, which is stamped (R435). -/
def State.frameVerdict (s : State) (slot idx verdict : Nat) (err : Int) : State :=
  let v := slot % 8 + idx % 8 * 8 + verdict * 0x100 + unsigned 16 (clampI (-32767) 32767 err) * 0x10000
  (s.slotUpdate (ACC_SLOT_ST 0) (ACC_SLOT_VAL 0) v).stampAcc 0x02 v

/-- UHF_FRAME (R431, R435): a counted edge; the frame is read. Outside a slot, or in a slot already handled, it is STRAY; of a
frame outside every slot the slot and the timing error are open. -/
def execUhfFrame (bytes : List Byte) (s : State) : Host.Outcome State Fault Refusal :=
  if bytes.length ≠ 14 then .refused (.illFormed "UHF_FRAME")
  else
    let t := (s.islandSlate 1).toNat
    let w := s.windowAt
    let j := (t - w) / 250000
    let err : Int := (t : Int) - ((w + j * 250000 + s.f ACC_CFG2_UHF_LAT * 125 : Nat) : Int)
    go (if !s.fullPart then s
      else if !s.acc.roundOn ∨ t < w ∨ s.windowSlots ≤ j then
        (s.drawn.incSat ACC_CNT1_STRAY).frameVerdict (s.draw % 8) 0 7 ((s.draw / 8 % 0x10000 : Nat) - (0x8000 : Int))
      else if s.acc.slots.contains j then (s.incSat ACC_CNT1_STRAY).frameVerdict j 0 7 err
      else { s with acc := { s.acc with slots := s.acc.slots ++ [j],
                                        frames := s.acc.frames ++ [{ bytes := bytes, slot := j, err := err }] } })

/-- The first bytes of a token's input blocks: NONCE and VEH_ID, big-endian (R433). -/
def State.roundHead (s : State) : List Byte := bytesBE 8 s.acc.nonce ++ bytesBE 2 (s.f ACC_CFG_VEH_ID)

/-- The key that an index answers with: the staged one in a prove round (R444). -/
def State.tokenKey (s : State) (i : Nat) : List Byte := (s.key (if s.acc.proving then 14 + i else 6 + i)).bytes

/-- The slot of an index in this round (R433). -/
def State.tokenSlot (s : State) (i : Nat) : Nat :=
  if s.acc.addressed.isSome then 0
  else natLE ((aesEnc (s.tokenKey i) (s.roundHead ++ [0x53] ++ List.replicate 5 0)).take 1) % 8

/-- A token value: 0x49 for IDX_HASH, 0x52 for RESP (R433). -/
def State.tokenValue (s : State) (i tag : Nat) : List Byte :=
  aesEnc (s.tokenKey i) (s.roundHead ++ [BitVec.ofNat 8 tag, BitVec.ofNat 8 (s.tokenSlot i)] ++ List.replicate 4 0)

/-- The indices whose values the round computes (R433). -/
def State.roundTokens (s : State) : List Nat :=
  match s.acc.addressed with
  | some i => [i]
  | none => s.activeTokens

/-- The verdict of a frame and the index it names (R435): 1 VERIFIED, 2 CRC, 3 RELAY, 4 UNKNOWN, 5 WRONG_SLOT, 6 BAD_RESP. -/
def State.judge (s : State) (f : AccFrame) : Nat × Nat :=
  if crc16 0xFFFF (f.bytes.take 12) ≠ natBE (f.bytes.drop 12) then (2, 0)
  else if (s.f ACC_CFG2_TOL_US * 125 : Nat) < f.err.natAbs then (3, 0)
  else match s.roundTokens.find? (fun i => (s.tokenValue i 0x49).take 4 = f.bytes.take 4) with
    | none => (4, 0)
    | some i =>
      if s.tokenSlot i ≠ f.slot then (5, i)
      else if (s.tokenValue i 0x52).take 8 ≠ (f.bytes.drop 4).take 8 then (6, i)
      else (1, i)

/-- A bad slot of an addressed round counts toward JAM_N (R439). -/
def State.jamCount (s : State) : State :=
  match s.acc.addressed with
  | none => s
  | some i =>
    if s.acc.proving then s
    else
      let n := s.acc.jam + 1
      let s := { s with acc := { s.acc with jam := n } }
      if n = s.f ACC_CFG2_JAM_N then
        ((s.raise ACC_FLAG_JAMMING ACC_FLAG_CNT_COUNT).incSat ACC_CNT1_JAMS).accEvent 0x03 n i
      else s

/-- A frame is judged: the verdict is counted, flagged and shown (R435). -/
def State.judgeOne (s : State) (f : AccFrame) : State :=
  let v := s.judge f
  let s :=
    if v.1 = 1 then
      let s := if s.acc.proving then s else s.setF ⟨ACC_PRESENT, v.2, 1⟩ 1
      { s with acc := { s.acc with verified := true } }
    else
      let s := if v.1 = 3 then (s.incSat ACC_CNT1_RELAY).raise ACC_FLAG_RELAY ACC_FLAG_CNT_COUNT
        else (s.incSat ACC_CNT0_INVALID).raise ACC_FLAG_INVALID ACC_FLAG_CNT_COUNT
      let s := { s with acc := { s.acc with collision := s.acc.collision || v.1 = 2, invalid := s.acc.invalid || v.1 ≠ 2 } }
      s.jamCount
  s.frameVerdict f.slot v.2 v.1 f.err

/-- UHF_FRAME_JUDGE (R435): the values of the round are computed; the oldest waiting frame is judged. -/
def execUhfFrameJudge (s : State) : Host.Outcome State Fault Refusal :=
  go (match s.acc.frames with
    | [] => s
    | f :: t => { s with acc := { s.acc with frames := t } }.judgeOne f)

/-- After the prove round of a learning event (R444). -/
def State.proveClose (s : State) : State :=
  if s.acc.verified then
    { s.setF ACC_LEARN_STAT_STATE 3 with acc := { s.acc with prove := false, proving := false } }
  else s.learnEnd lrPFAIL

/-- After a round of a poll (R436, R437). -/
def State.pollRound (s : State) (p : AccPoll) : State :=
  if s.f ACC_POLL_STAT_STATE = 2 then
    let i := s.acc.left.headD 0
    let t := s.acc.left.drop 1
    if s.acc.verified then s.pollEnd p 1 i
    else match t with
      | [] => s.pollEnd p 2 0
      | j :: _ => ({ s with acc := { s.acc with left := t } }).setF ACC_POLL_STAT_ROUND j
  else if s.acc.verified then s.pollEnd p 1 ((List.range 8).find? (fun i => s.on ⟨ACC_PRESENT, i, 1⟩) |>.getD 0)
  else if !s.acc.collision ∧ !s.acc.invalid then s.pollEnd p 0 0
  else
    let n := s.acc.bad + 1
    let s := { s with acc := { s.acc with bad := n } }
    if n < 4 then s.setF ACC_POLL_STAT_ROUND (n + 1)
    else match s.activeTokens with
      | [] => s.pollEnd p 2 0
      | j :: t => (({ s with acc := { s.acc with left := j :: t } }).setF ACC_POLL_STAT_STATE 2).setF ACC_POLL_STAT_ROUND j

/-- ACC_ROUND_CLOSE (R436): frames still waiting are judged first; a COLLISION is counted. -/
def execAccRoundClose (s : State) : Host.Outcome State Fault Refusal :=
  go (if !s.acc.roundOn then s
    else
      let l := s.acc.frames
      let s := l.foldl State.judgeOne { s with acc := { s.acc with frames := [] } }
      let s := { s with acc := { s.acc with roundOn := false } }
      let s := if !s.acc.verified ∧ s.acc.collision then
          (s.incSat ACC_CNT0_COLLISIONS).raise ACC_FLAG_COLLISION ACC_FLAG_CNT_COUNT
        else s
      if s.acc.proving then s.proveClose
      else match s.acc.cur with
        | some p => s.pollRound p
        | none => s)

/-- POLL_NONCE_TIMEOUT (R483). -/
def execPollNonceTimeout (s : State) : Host.Outcome State Fault Refusal :=
  go (match s.acc.cur with
    | some p => if s.acc.roundOn ∨ s.on STR_RNG_STAT_HEALTHY then s else s.pollEnd p 2 0
    | none => s)

/-! The search (R440, R441) -/

/-- The antennas of the doors whose handle is disabled or faulted (R440). -/
def State.searchMask (s : State) : Nat :=
  (List.range 4).foldl (fun a k =>
    if !bitOf (s.f INP_HC_CFG_EN) k ∨ bitOf (s.f INP_HC_STAT_FAULTED) k then a ||| (s.hcMap k).1 else a) 0

/-- SEARCH_ROUND (R440, R442): skipped unless every other source is idle. In Sleep and Deep sleep it wakes the module. -/
def execSearchRound (s : State) : Host.Outcome State Fault Refusal :=
  let mask := s.searchMask
  go (if !s.fullPart ∨ !s.on ACC_CFG3_SEARCH_EN ∨ s.acc.stopped ∨ mask = 0 ∨ s.acc.cur.isSome ∨ !s.acc.queue.isEmpty ∨
        s.acc.prove ∨ s.f PWR_STATE_STATE = 4 then s
    else if s.f PWR_STATE_STATE = 2 ∨ s.f PWR_STATE_STATE = 3 then
      ((s.raise ACC_FLAG_SEARCH_WAKE ACC_FLAG_CNT_COUNT).wakeSource 19).sleepRound { src := 5, ant := mask }
    else s.accQueue { src := 5, ant := mask })

/-- SEARCH_STOP (R441): the park time has reached PARK_DAYS. -/
def execSearchStop (s : State) : Host.Outcome State Fault Refusal :=
  go (if !s.fullPart ∨ !s.on ACC_CFG3_SEARCH_EN ∨ s.acc.stopped then s
    else
      let s := { s with acc := { s.acc with stopped := true } }.raise ACC_FLAG_SEARCH_STOPPED ACC_FLAG_CNT_COUNT
      s.accEvent 0x05 0 (s.f ACC_CFG3_PARK_DAYS))

/-! Learning (R444, R445) -/

/-- A session token has been verified within GRANT_WIN (R447). -/
def State.recent (s : State) : Bool :=
  match s.acc.verAt with
  | some t => s.now ≤ t + s.f ACC_AUTH_CFG_GRANT_WIN * 125000000
  | none => false

/-- AUTH DEALER: a challenge is drawn; without entropy nothing starts. -/
def State.dealerWait (s : State) : State :=
  if !s.on STR_RNG_STAT_HEALTHY then s
  else
    let c := s.draw
    let s := (List.range 4).foldl (fun s i => s.setReg (ACC_LEARN_CHAL i) (BitVec.ofNat 32 (c / 2 ^ (32 * i)))) s.drawn
    s.setF ACC_LEARN_STAT_STATE 1

/-- A GO names index, authority and OP; outside IDLE it is ignored and RESULT reads BUSY. -/
def State.learnGo (s : State) (idx auth op : Nat) (k : State → State) : State :=
  if s.f ACC_LEARN_STAT_STATE ≠ 0 then s.learnReport lrBUSY idx auth op
  else k { s with acc := { s.acc with idx := idx, auth := auth, op := op } }

/-- A write of ACC_LEARN_CTL with OP LEARN and GO (R444). -/
def State.accLearn (s : State) (init idx auth : Nat) : State :=
  s.accWrite init (fun s => s.learnGo idx auth 1 (fun s =>
    if 32 ≤ s.f ACC_TOKEN_STAT_ENROL_USED then s.learnEnd lrEXHAUSTED
    else if s.f (tokenRF idx) = 1 then s.learnEnd lrOCCUPIED
    else if (s.key (14 + idx)).kind = 0 then s.learnEnd lrNOKEY
    else if auth = 1 then
      (if s.recent ∧ s.acc.verTok ≠ idx then
        { s.setF ACC_LEARN_STAT_STATE 2 with acc := { s.acc with prove := true } }
      else s.learnEnd lrNOAUTH)
    else if auth = 2 then (if s.acc.lock then s.learnEnd lrDLOCK else s.dealerWait)
    else s.learnEnd lrNOAUTH))

/-- ACC_LEARN (R444). -/
def execAccLearn (init : Byte) (idx : Fin 8) (auth : Fin 4) (s : State) : Host.Outcome State Fault Refusal :=
  go (s.accLearn init.toNat idx auth)

/-- A write of ACC_LEARN_CTL with OP REVOKE and GO (R446): the session token itself may be named. -/
def State.accRevoke (s : State) (init idx auth : Nat) : State :=
  s.accWrite init (fun s => s.learnGo idx auth 2 (fun s =>
    if auth = 1 then (if s.recent then s.revokeDue idx else s.learnEnd lrNOAUTH)
    else if auth = 2 then (if s.acc.lock then s.learnEnd lrDLOCK else s.dealerWait)
    else s.learnEnd lrNOAUTH))

/-- ACC_REVOKE (R446). -/
def execAccRevoke (init : Byte) (idx : Fin 8) (auth : Fin 4) (s : State) : Host.Outcome State Fault Refusal :=
  go (s.accRevoke init.toNat idx auth)

/-- The dealer's correct response (R444). -/
def State.dealerResp (s : State) : List Byte :=
  let chal := ((List.range 4).map (fun i => bytesLE 4 (s.reg (ACC_LEARN_CHAL i)).toNat)).flatten
  (cmac (s.key 22).bytes (chal ++ [BitVec.ofNat 8 s.acc.idx, BitVec.ofNat 8 (s.f ACC_TOKEN_STAT_ENROL_USED)] ++
    bytesBE 2 (s.f ACC_CFG_VEH_ID))).take 8

/-- A wrong response (R445): the fifth in a row, and each one after a lock, locks the dealer path, for 1 h and then twice as
long each time up to 64 h. -/
def State.dealerWrong (s : State) : State :=
  let s := s.incSat ACC_LEARN_STAT_FAILS
  let s := if s.acc.lockH = 0 ∧ s.f ACC_LEARN_STAT_FAILS < 5 then s
    else
      let h := if s.acc.lockH = 0 then 1 else min (2 * s.acc.lockH) 64
      { s.setF ACC_TOKEN_STAT_LOCK_H h with acc := { s.acc with lock := true, lockH := h } }
  s.learnEnd lrDFAIL

/-- A write of ACC_LEARN_RESP word 1 submits the response (R444). -/
def State.dealerSubmit (s : State) (init : Nat) (w : Word) : State :=
  s.accWrite init (fun s =>
    let s := s.setReg (ACC_LEARN_RESP 1) w
    if s.f ACC_LEARN_STAT_STATE ≠ 1 then s
    else if bytesLE 4 (s.reg (ACC_LEARN_RESP 0)).toNat ++ bytesLE 4 w.toNat = s.dealerResp then
      let s : State := { s.setF ACC_LEARN_STAT_FAILS 0 with acc := { s.acc with lockH := 0 } }
      if s.acc.op = 2 then s.revokeDue s.acc.idx
      else { s.setF ACC_LEARN_STAT_STATE 2 with acc := { s.acc with prove := true } }
    else s.dealerWrong)

/-- DEALER_RESPONSE (R444). -/
def execDealerResponse (init : Byte) (w : Word) (s : State) : Host.Outcome State Fault Refusal := go (s.dealerSubmit init.toNat w)

/-- DEALER_TIMEOUT (R444). -/
def execDealerTimeout (s : State) : Host.Outcome State Fault Refusal :=
  go (if s.f ACC_LEARN_STAT_STATE = 1 then s.learnEnd lrTIMEOUT else s)

/-- DEALER_LOCK_EXPIRE (R445). -/
def execDealerLockExpire (s : State) : Host.Outcome State Fault Refusal :=
  go (if s.acc.lock then { s.setF ACC_TOKEN_STAT_LOCK_H 0 with acc := { s.acc with lock := false } } else s)

/-- LEARN_COMMIT_DONE (R444): the staged key becomes the token's, the index ACTIVE, in one STORE. -/
def execLearnCommitDone (s : State) : Host.Outcome State Fault Refusal :=
  go (if s.f ACC_LEARN_STAT_STATE ≠ 3 ∨ s.acc.op ≠ 1 then s
    else
      let i := s.acc.idx
      let k := s.key (14 + i)
      let s := (s.eraseKey (14 + i)).setKey (6 + i) { kind := k.kind, use := k.use, ctr := (s.key (6 + i)).ctr, bytes := k.bytes }
      let s := (s.stampKey (14 + i) k.kind k.kcv).stampKey (6 + i) k.kind k.kcv
      ((s.setF (tokenRF i) 1).incSat ACC_TOKEN_STAT_ENROL_USED).learnEnd lrDONE)

/-! Authorisation and release (R447 to R450) -/

/-- A write of GRANT = 1 (R447): it binds to the session token of a recent VERIFIED poll, or is ignored and stamped. -/
def State.accGrant (s : State) (init : Nat) : State :=
  s.accWrite init (fun s =>
    if !s.recent then s.stampAcc 0x08 init
    else
      let s := ((s.setF ACC_AUTH_STAT_ACTIVE 1).setF ACC_AUTH_STAT_WITHDRAWING 0).setF ACC_AUTH_STAT_TOKEN s.acc.verTok
      let s := { s with acc := { s.acc with withdraw := 0, stopped := false } }.authRenew
      s.accEvent 0x07 0 (s.f ACC_AUTH_STAT_TOKEN + s.f ACC_REL_CTR_CTR * 2 ^ 32))

/-- ACC_GRANT (R447). -/
def execAccGrant (init : Byte) (s : State) : Host.Outcome State Fault Refusal := go (s.accGrant init.toNat)

/-- ACC_AUTH_END (R447): a write of END = 1. -/
def execAccAuthEnd (init : Byte) (s : State) : Host.Outcome State Fault Refusal := go (s.accWrite init.toNat State.authEnd)

/-- AUTH_EXPIRE (R447): the validity reaches 0. -/
def execAuthExpire (s : State) : Host.Outcome State Fault Refusal := go s.authEnd

/-- The plaintext of a release message (R448). -/
def State.releaseText (s : State) (ctr : Nat) (withdrawn : Bool) : List Byte :=
  bytesBE 4 ctr ++ [if withdrawn then 0xA5 else 0x5A, BitVec.ofNat 8 (s.f ACC_AUTH_STAT_TOKEN)] ++
    bytesBE 2 (if withdrawn then 0 else s.authLeft) ++ bytesBE 8 s.now

/-- The 24-byte payload of a release message (R448). -/
def State.releasePayload (s : State) (p : List Byte) : List Byte :=
  let t := (cmac (s.key 24).bytes (bytesBE 4 (s.reg ACC_REL_ID).toNat ++ p)).take 8
  xorB p (aesEnc (s.key 23).bytes (t ++ List.replicate 8 0)) ++ t

/-- The release counter counts; a new block of 4,096 values is reserved when the last one is used up. At 0xFFFF_FFFF
releases stop (R450). -/
def State.releaseCtr (s : State) : State :=
  let c := s.acc.ctr + 1
  let b := s.acc.block
  let b := if c ≤ b then b else b + 4096
  let s := { s.setF ACC_REL_CTR_CTR c with acc := { s.acc with ctr := c, block := b } }
  if c = 0xFFFFFFFF then (s.raise ACC_FLAG_REL_EXHAUSTED ACC_FLAG_CNT_COUNT).accEvent 0x09 0 0 else s

/-- RELEASE_MESSAGE (R447 to R450): a RELEASE while the authorisation holds, else one of the three WITHDRAWN; it is injected at
port INT, in Run (R449). Without the key pair nothing is sent. -/
def execReleaseMessage (s : State) : Host.Outcome State Fault Refusal :=
  let active := s.on ACC_AUTH_STAT_ACTIVE
  go (if !s.fullPart ∨ s.boot.phase ≠ .run ∨ !s.measures ∨ (!active ∧ s.acc.withdraw = 0) ∨ 0xFFFFFFFF ≤ s.acc.ctr ∨ (s.key 23).kind = 0 ∨ (s.key 24).kind = 0 then s
    else
      let s := s.releaseCtr
      let s := if active then s.setF ACC_AUTH_STAT_LEFT s.authLeft
        else
          let n := s.acc.withdraw - 1
          { s.setF ACC_AUTH_STAT_WITHDRAWING (b2n (n ≠ 0)) with acc := { s.acc with withdraw := n } }
      let ide := s.on ACC_REL_ID_IDE
      s.gwArrive { port := 19, kind := if s.on ACC_AUTH_CFG_REL_ETH then 3 else if ide then 1 else 0, id := s.f ACC_REL_ID_REL_ID,
                   ide := ide, fdf := !s.on ACC_AUTH_CFG_REL_ETH,
                   data := s.releasePayload (s.releaseText s.acc.ctr (!active)), stamp := s.now })

/-! The central computer's heartbeat (R473) -/

/-- The sessions with HB = 1. -/
def State.hbSessions (s : State) : List Nat := (List.range 8).filter (fun k => s.on (ZRT_SES_CFG_HB k))

/-- CC_HEARTBEAT_MISS (R473): no request of the central computer for CC_TIMEOUT while armed,
outside Sleep (R104). -/
def execCcHeartbeatMiss (s : State) : Host.Outcome State Fault Refusal :=
  go (if !s.on STR_HB_STAT_CC_ARMED ∨ s.on STR_HB_STAT_CC_MISSING ∨ 2 ≤ s.f PWR_STATE_STATE then s
    else
      let act := s.f STR_CFG_CC_ACT
      let mask := 2 * s.f STR_FS_MASKS_CC_FS_MASK
      let data := mask + act * 0x10000
      let s := ((s.setF STR_HB_STAT_CC_MISSING 1).raise STR_FLAG_CC_MISSING STR_FLAG_CNT_COUNT).stampStr 12 0x13 data
      let s := s.hbSessions.foldl (fun s k => s.unitCue (0x40 + k) 0x2A 0x13 0 data) s
      let s := if 1 ≤ act then s.fsApplyWrite 0x08 1 (BitVec.ofNat 32 mask) else s
      if act = 2 then s.authEnd else s)

end Sys2Proof.Machine
end

