-- ==== Sys2Proof/Machine/Can.lean ====
section
/-! DEFINITION. The CAN controllers: control writes, the transmit queue (R300 to R304), attempts with their errors and
identifier twins (R308 to R310), bus-off (R311 to R313), reception (R306, R307), and the transceivers (R314 to R318). -/

namespace Sys2Proof.Machine

/-- A refused write (R300, R303). -/
def State.canRefuse (s : State) (n init reason : Nat) : State :=
  ((s.incSat (CAN_QREFUSE_COUNT n)).setF (CAN_QREFUSE_LAST_INIT n) init).setF (CAN_QREFUSE_LAST_REASON n) reason

/-- A control initiator of CANn (R300). -/
def State.canMay (s : State) (n init : Nat) : Bool :=
  isStr init || (isEngine init && s.f (CAN_ACCESS_CTL_ENGINE n) = init) ||
  (isSession init && bitOf (s.f (CAN_ACCESS_ZRT_GRANT n)) (init - 0x40))

/-- A control write: its effect for a control initiator, else refused with reason NOT_OWNER. -/
def State.canCtl (s : State) (n init : Nat) (f : State → State) : State :=
  if !s.busUp n then s else if s.canMay n init then f s else s.canRefuse n init 1

/-- A write of RECOVER = 1 (R311): ignored with AUTO_REC 1 and outside bus-off. -/
def State.canRecover (s : State) (n : Nat) : State :=
  if s.f (CAN_STAT_ESTATE n) ≠ 2 ∨ s.on (CAN_CFG_AUTO_REC n) ∨ s.on (CAN_STAT_RECOVERING n) then s
  else (s.setF (CAN_STAT_RECOVERING n) 1).setF (CAN_STAT_SEQS n) 0

/-- CAN_MODE_OFF (R299, R300). -/
def execCanModeOff (n : Fin 8) (init : Byte) (s : State) : Host.Outcome State Fault Refusal :=
  go (s.canCtl n init.toNat (fun s => s.canMode n mdOFF))

/-- CAN_MODE_NORMAL (R299, R300). -/
def execCanModeNormal (n : Fin 8) (init : Byte) (s : State) : Host.Outcome State Fault Refusal :=
  go (s.canCtl n init.toNat (fun s => s.canMode n mdNORMAL))

/-- CAN_MODE_LISTEN (R299, R300). -/
def execCanModeListen (n : Fin 8) (init : Byte) (s : State) : Host.Outcome State Fault Refusal :=
  go (s.canCtl n init.toNat (fun s => s.canMode n mdLISTEN))

/-- CAN_RECOVER (R311). -/
def execCanRecover (n : Fin 8) (init : Byte) (s : State) : Host.Outcome State Fault Refusal :=
  go (s.canCtl n init.toNat (fun s => s.canRecover n))

/-! Queue entries (R301 to R303) -/

/-- The place of an entry in the selection order, lowest first (R304): base identifier, base data then base remote then
extended, identifier bits [17:0], data before remote, entry index. -/
def arbKey (id : Nat) (ide rtr : Bool) (k : Nat) : Nat :=
  if ide then (((id / 2 ^ 18 % 2 ^ 11 * 4 + 2) * 2 ^ 18 + id % 2 ^ 18) * 2 + b2n rtr) * 64 + k
  else ((id % 2 ^ 11 * 4 + b2n rtr) * 2 ^ 18 * 2) * 64 + k

/-- The place of queue entry `k`. -/
def State.canKey (s : State) (n k : Nat) : Nat :=
  let w := s.mf (ceID n k)
  arbKey (w % 2 ^ 29) (bitOf w 29) (bitOf w 30) k

/-- The byte that a write puts at an offset, if it writes it. -/
def wrByte (bs : List (Nat × Byte)) (o : Nat) : Option Nat := (bs.find? (fun b => b.1 = o)).map (fun b => b.2.toNat)

/-- Bits of an entry's bytes that a write changes: STATE is taken apart, the fields that are RO keep their value. -/
def ceWritable (o : Nat) : Nat :=
  if o = 0 then 0x70 else if o = 1 then 0xFF else if o < 4 then 0
  else if o = 7 then 0x7F else if o < 8 then 0xFF else if o = 8 then 0x3F else if o < 0x20 then 0 else 0xFF

/-- The entry's memory with the writable bits of a write put in. -/
def State.cePut (s : State) (n k : Nat) : List (Nat × Byte) → State
  | [] => s
  | (o, b) :: t =>
    let m : Byte := BitVec.ofNat 8 (ceWritable o)
    let a := canE n k + o
    (s.wr8 a ((s.rd8 a &&& ~~~ m) ||| (b &&& m))).cePut n k t

/-- The format that a handover refuses (R303). -/
def State.ceBad (s : State) (n k : Nat) : Bool :=
  let w := s.mf (ceID n k)
  let fdf := s.mf (ceFDF n k) = 1
  (fdf && !s.on (CAN_CFG_FD_EN n)) || (s.mf (ceBRS n k) = 1 && !fdf) || (bitOf w 30 && fdf) ||
  (!bitOf w 29 && decide (w / 2 ^ 11 % 2 ^ 18 ≠ 0))

/-- A write of CANCEL (R302). -/
def State.canCancel (s : State) (n k : Nat) : State :=
  if s.mf (ceSTATE n k) = 2 then s.setCan n { s.can n with cancel := true } else s.setMf (ceSTATE n k) 5

/-- A handover (R302): it joins selection; with TX_WAKES it is a local wake (R378); in bus-off an entry with REFLEX and
REROUTE is offered to the gateway (R313). -/
def State.canHandover (s : State) (n k : Nat) : State :=
  let s := (((s.setMf (ceSTATE n k) 1).setMf (ceATT n k) 0).setMf (ceRUN n k) 0).setMf (ceTWINS n k) 0
  let s := if s.on (NM_SEG_CFG0_TX_WAKES n) then s.localWake n 2 else s
  if s.f (CAN_STAT_ESTATE n) = 2 ∧ s.mf (ceREFLEX n k) = 1 ∧ s.mf (ceREROUTE n k) = 1 then s.reroute n k else s

/-- A write of +0x00 to an entry in a hardware state that sets CANCEL and changes nothing else (R303). -/
def State.ceOnlyCancel (s : State) (n k : Nat) (bs : List (Nat × Byte)) : Bool :=
  bs.all (fun b => decide (b.1 < 4) &&
    (b.1 = 0 || decide (b.2.toNat &&& ceWritable b.1 = (s.rd8 (canE n k + b.1)).toNat &&& ceWritable b.1))) &&
  (match wrByte bs 0 with
   | some v => bitOf v 3 && decide (v &&& 0x77 = (s.rd8 (canE n k)).toNat &&& 0x77)
   | none => false)

/-- A write of bytes of entry `k` (R302, R303), refused whole or done. -/
def State.canWrite (s : State) (n k init : Nat) (bs : List (Nat × Byte)) : State :=
  if !(isStr init || (s.canOwner n k = init && init ≠ 0xFF)) then s.canRefuse n init 1
  else if s.canHw n k then
    (if s.ceOnlyCancel n k bs then s.canCancel n k else s.canRefuse n init 2)
  else
    match wrByte bs 0 with
    | none => s.cePut n k bs
    | some v =>
      if 2 ≤ v % 8 ∨ (v % 8 = 0 ∧ s.mf (ceSTATE n k) = 0) then s.canRefuse n init 3
      else
        let t := s.cePut n k bs
        if v % 8 = 1 then (if t.ceBad n k then s.canRefuse n init 4 else t.canHandover n k)
        else t.setMf (ceSTATE n k) 0

/-- Byte +0x00 of an entry with STATE and CANCEL replaced. -/
def State.ceByte0 (s : State) (n k st cancel : Nat) : List (Nat × Byte) :=
  [(0, BitVec.ofNat 8 ((s.rd8 (canE n k)).toNat / 0x10 % 8 * 0x10 + cancel * 8 + st))]

/-- CAN_ENTRY_HANDOVER (R302, R303): a write of STATE 1. -/
def execCanEntryHandover (n : Fin 8) (k : Fin 32) (init : Byte) (s : State) : Host.Outcome State Fault Refusal :=
  go (if s.busUp n then s.canWrite n k init.toNat (s.ceByte0 n k 1 0) else s)

/-- CAN_ENTRY_EMPTY (R302, R303): a write of STATE 0. -/
def execCanEntryEmpty (n : Fin 8) (k : Fin 32) (init : Byte) (s : State) : Host.Outcome State Fault Refusal :=
  go (if s.busUp n then s.canWrite n k init.toNat (s.ceByte0 n k 0 0) else s)

/-- CAN_ENTRY_CANCEL (R302, R303): a write of CANCEL with every other field as it reads. -/
def execCanEntryCancel (n : Fin 8) (k : Fin 32) (init : Byte) (s : State) : Host.Outcome State Fault Refusal :=
  go (if s.busUp n then s.canWrite n k init.toNat (s.ceByte0 n k (s.mf (ceSTATE n k)) 1) else s)

/-! Attempts -/

/-- The place of the NM message in the dedicated slot, entry index 32 (R373). -/
def State.nmKey (s : State) (n : Nat) : Nat :=
  arbKey (s.f (NM_SEG_CFG0_BASE_ID n) + s.f (NM_SEG_CFG0_NODE_ID n)) false false 32

/-- What may be sent: QUEUED entries and the dedicated slot, with their places. -/
def State.canReady (s : State) (n : Nat) : List (Nat × Nat) :=
  ((List.range 32).filter (fun k => s.mf (ceSTATE n k) = 1)).map (fun k => (s.canKey n k, k)) ++
  (if (s.can n).nm.isSome then [(s.nmKey n, 32)] else [])

/-- The least of a list of places. -/
def leastKey : List (Nat × Nat) → Option (Nat × Nat)
  | [] => none
  | x :: t =>
    match leastKey t with
    | none => some x
    | some y => if x.1 ≤ y.1 then some x else some y

/-- The controller sends: NORMAL, not bus-off, its transceiver in NORMAL, and NM not past sleep agreement (R378). -/
def State.canSends (s : State) (n : Nat) : Bool :=
  s.clocked 11 && (s.can n).mode = mdNORMAL && s.f (CAN_STAT_ESTATE n) ≠ 2 && s.segNormal n

/-- The loop delay measured in an FD frame with BRS (R298). -/
def State.tdcMeasure (s : State) (n tdcv : Nat) : State :=
  let t := s.setF (CAN_TDC_TDCV n) (min tdcv 127)
  if 127 < tdcv then (t.raise (CAN_FLAG_TDC_FAIL n) (CAN_FLAG_CNT_COUNT n)).canEvent n 0x0C 6 6 else t

/-- CAN_TX_START (R302, R304, R298): the entry that wins against every other QUEUED entry is sent. -/
def execCanTxStart (n : Fin 8) (tdcv : BitVec 12) (s : State) : Host.Outcome State Fault Refusal :=
  if !s.canSends n || (s.can n).cur.isSome then go s
  else
    match leastKey (s.canReady n) with
    | none => go s
    | some (_, k) =>
      let s := s.setTrxOf n { s.trxOf n with dom := false }
      let s := s.setCan n { s.can n with cur := some k, cancel := false, sof := (s.islandSlate 11).toNat }
      if k = 32 then go s
      else
        let s := (s.setMf (ceSTATE n k) 2).setMf (ceATT n k) (min (s.mf (ceATT n k) + 1) 0xFF)
        if s.mf (ceFDF n k) = 1 ∧ s.mf (ceBRS n k) = 1 ∧ s.on (CAN_DBT_TDC_EN n) then go (s.tdcMeasure n tdcv.toNat)
        else go s

/-- DATA of EPASSIVE and EACTIVE. -/
def State.errData (s : State) (n : Nat) : Nat := s.f (CAN_STAT_TEC n) + s.f (CAN_STAT_REC n) * 0x10000

/-- The entries pending at bus-off, by place. -/
def State.canPending (s : State) (n : Nat) : List Nat :=
  (List.range 32).filter (fun k => s.mf (ceSTATE n k) = 1 || s.mf (ceSTATE n k) = 3)

/-- Bus-off is entered (R311, R313). -/
def State.busOff (s : State) (n : Nat) : State :=
  let s := match (s.can n).cur with
    | some k => if k < 32 then s.setMf (ceSTATE n k) (if (s.can n).cancel then 5 else 1) else s
    | none => s
  let s := s.setCan n { s.can n with cur := none, cancel := false, offAt := s.now }
  let s := ((s.setF (CAN_STAT_ESTATE n) 2).raise (CAN_FLAG_BUSOFF n) (CAN_FLAG_CNT_COUNT n)).incSat (CAN_EVCNT_BUSOFFS n)
  let s := ((s.setF (CAN_STAT_HOLDING n) (s.f (CAN_CFG_AUTO_REC n))).setF (CAN_STAT_RECOVERING n) 0).setF (CAN_STAT_SEQS n) 0
  let l := s.canPending n
  let s := match leastKey (l.map (fun k => (s.canKey n k, k))) with
    | some (_, k) => s.canEvent n 0x07 k (s.twinData n k + s.mf (ceREFLEX n k) * 2 ^ 64)
    | none => s.canEvent n 0x06 0 (s.f (CAN_STAT_TEC n))
  let s := l.foldl (fun s k => if s.mf (ceREFLEX n k) = 1 ∧ s.mf (ceREROUTE n k) = 1 then s.reroute n k else s) s
  s.canSettle n

/-- The error state follows the counters (R309). -/
def State.canEstate (s : State) (n : Nat) : State :=
  let tec := s.f (CAN_STAT_TEC n)
  let old := s.f (CAN_STAT_ESTATE n)
  if old = 2 then s
  else if 255 < tec then s.busOff n
  else if 128 ≤ tec ∨ 128 ≤ s.f (CAN_STAT_REC n) then
    (if old = 1 then s
     else ((s.setF (CAN_STAT_ESTATE n) 1).raise (CAN_FLAG_EPASSIVE n) (CAN_FLAG_CNT_COUNT n)).canEvent n 0x04 tec (s.errData n))
  else if old = 0 then s
  else (s.setF (CAN_STAT_ESTATE n) 0).canEvent n 0x05 tec (s.errData n)

/-- The entry whose attempt is on the bus, while the Bus island's clock runs. -/
def State.canCur (s : State) (n : Nat) : Option Nat := if s.clocked 11 then (s.can n).cur else none

/-- CAN_TX_SUCCESS (R302, R308, R310). -/
def execCanTxSuccess (n : Fin 8) (s : State) : Host.Outcome State Fault Refusal :=
  let x := s.can n
  match s.canCur n with
  | none => go s
  | some k =>
    let s := s.setCan n { x with cur := none, cancel := false }
    let s := (s.incMod (CAN_COUNT_TX_OK n)).setF (CAN_STAT_TEC n) (s.f (CAN_STAT_TEC n) - 1)
    let s := if k < 32 then
        let s := ((s.setMf (ceSTATE n k) 4).setMf (ceRUN n k) 0).wrN (canE n k + 0x10) 8 x.sof
        if s.mf (ceCUE n k) = 1 then s.canCue n (s.canOwner n k) 0x01 k else s
      else
        let s := s.setCan n { s.can n with nm := none }
        match x.nm with
        | some m => s.nmSent n m
        | none => s
    go ((s.canEstate n).canSettle n)

/-- CAN_ARB_LOST (R302, R310). -/
def execCanArbLost (n : Fin 8) (s : State) : Host.Outcome State Fault Refusal :=
  let x := s.can n
  match s.canCur n with
  | none => go s
  | some k =>
    let s := s.setCan n { x with cur := none, cancel := false }
    let s := if k < 32 then (s.setMf (ceSTATE n k) (if x.cancel then 5 else 1)).setMf (ceRUN n k) 0 else s
    go (s.canSettle n)

/-- A twin is declared (R310). -/
def State.canTwin (s : State) (n k : Nat) (cancel : Bool) : State :=
  let s := (s.setMf (ceRUN n k) 0).setMf (ceTWINS n k) (min (s.mf (ceTWINS n k) + 1) 0xF)
  let s := ((s.raise (CAN_FLAG_TWIN n) (CAN_FLAG_CNT_COUNT n)).incSat (CAN_EVCNT_TWINS n)).canEvent n 0x02 k (s.twinData n k)
  if cancel then s.setMf (ceSTATE n k) 5
  else if s.f (CAN_CFG_TWIN_GIVEUP n) ≠ 0 ∧ s.f (CAN_CFG_TWIN_GIVEUP n) ≤ s.mf (ceTWINS n k) then
    ((s.setMf (ceSTATE n k) 6).stampCan n 0x03 (s.twinData n k)).canCue n (s.canOwner n k) 0x03 k
  else s.setMf (ceSTATE n k) 3

/-- An error is shown in CANn_ERR. -/
def State.canErr (s : State) (n lec field : Nat) (dataPhase : Bool) : State :=
  (((s.incSat (CAN_ERR_COUNT n)).setF (CAN_ERR_LEC n) lec).setF (CAN_ERR_FIELD n) field).setF (CAN_ERR_DATA_PHASE n) (b2n dataPhase)

/-- The attempt in progress ends with an error (R302, R310): a bit or stuff error in the control or data field is twin
evidence. -/
def State.attemptFails (s : State) (n lec field : Nat) : State :=
  let x := s.can n
  match x.cur with
  | none => s
  | some k =>
    let s := s.setCan n { x with cur := none, cancel := false }
    if 32 ≤ k then s
    else
      let s := s.setMf (ceERR n k) lec
      let evidence := (lec = 1 || lec = 4 || lec = 5) && (field = 1 || field = 2)
      let run := s.mf (ceRUN n k) + 1
      if evidence ∧ s.f (CAN_CFG_TWIN_N n) ≤ run then s.canTwin n k x.cancel
      else (s.setMf (ceRUN n k) (if evidence then run else 0)).setMf (ceSTATE n k) (if x.cancel then 5 else 1)

/-- CAN_TX_ERROR (R308 to R310): what 0 an error of the attempt, 1 one that leaves TEC, 2 a bit error in an active error or
overload flag, 3 dominant bits after a flag. -/
def execCanTxError (n : Fin 8) (lec field : Fin 8) (dataPhase : Bool) (what : Fin 4) (s : State) :
    Host.Outcome State Fault Refusal :=
  if (s.can n).mode ≠ mdNORMAL ∨ s.f (CAN_STAT_ESTATE n) = 2 ∨ (what.val < 2 ∧ (s.can n).cur = none) ∨ !s.clocked 11 then go s
  else
    let s := if what.val = 3 then s else s.canErr n lec field dataPhase
    let s := if what.val = 1 then s else s.addSat (CAN_STAT_TEC n) 8
    let s := if what.val < 2 then s.attemptFails n lec field else s
    go ((s.canEstate n).canSettle n)

/-- TWIN_BACKOFF_EXPIRE (R302, R310). -/
def execTwinBackoffExpire (n : Fin 8) (k : Fin 32) (s : State) : Host.Outcome State Fault Refusal :=
  go (if s.clocked 11 ∧ s.mf (ceSTATE n k) = 3 then s.setMf (ceSTATE n k) 1 else s)

/-- BUSOFF_HOLDOFF_EXPIRE (R311). -/
def execBusoffHoldoffExpire (n : Fin 8) (s : State) : Host.Outcome State Fault Refusal :=
  go (if s.clocked 11 ∧ s.on (CAN_STAT_HOLDING n) then
      ((s.setF (CAN_STAT_HOLDING n) 0).setF (CAN_STAT_RECOVERING n) 1).setF (CAN_STAT_SEQS n) 0
    else s)

/-- BUSOFF_RECOVERY_COMPLETE (R308, R311): not while MODE freezes the counters (log entry 14). -/
def execBusoffRecoveryComplete (n : Fin 8) (s : State) : Host.Outcome State Fault Refusal :=
  if !s.on (CAN_STAT_RECOVERING n) ∨ (s.can n).mode ≠ mdNORMAL ∨ !s.clocked 11 then go s
  else
    let s := ((s.setF (CAN_STAT_TEC n) 0).setF (CAN_STAT_REC n) 0).setF (CAN_STAT_ESTATE n) 0
    let s := ((s.setF (CAN_STAT_RECOVERING n) 0).setF (CAN_STAT_SEQS n) 128).raise (CAN_FLAG_RECOVERED n) (CAN_FLAG_CNT_COUNT n)
    go (s.canEvent n 0x08 0 ((s.now - (s.can n).offAt) / 125000 % 2 ^ 32))

/-! Reception -/

/-- A receive error (R308): the counters are frozen in LISTEN (R299). -/
def State.canRxErr (s : State) (n lec field : Nat) (dataPhase : Bool) (what : Nat) : State :=
  let s := if what = 0 ∨ what = 2 then s.canErr n lec field dataPhase else s
  if (s.can n).mode ≠ mdNORMAL then s
  else (s.addSat (CAN_STAT_REC n) (if what = 0 then 1 else 8)).canEstate n

/-- The frame as the gateway takes it. -/
def canGwFrame (n : Nat) (f : CanFrame) (stamp : Nat) : GwFrame :=
  { port := n + 3, kind := b2n f.ide, id := if f.ide then f.id.toNat else f.id.toNat % 0x800, ide := f.ide, fdf := f.fdf,
    brs := f.brs, rtr := f.rtr, data := if f.rtr then [] else f.data.take (dlcLen f.fdf f.dlc.toNat),
    dlc := if f.rtr then f.dlc.toNat else 0, stamp := stamp }

/-- A frame is handed to the gateway through the buffer of 4, or lost (R306, R307). -/
def State.canHandOn (s : State) (n : Nat) (f : CanFrame) : State :=
  if 4 ≤ (s.gw.inq.filter (fun g => g.port = n + 3)).length then
    (s.raise (CAN_FLAG_RX_OVF n) (CAN_FLAG_CNT_COUNT n)).canEvent n 0x0C 5 5
  else (s.gwArrive (canGwFrame n f (s.islandSlate 11).toNat)).incMod (CAN_COUNT_RX_OK n)

/-- REC after a successful reception (R308). -/
def recAfter (r : Nat) : Nat := if r = 0 then 0 else if r < 128 then r - 1 else 120

/-- CAN_FRAME_RECEIVED (R306 to R308, R294). -/
def execCanFrameReceived (n : Fin 8) (f : CanFrame) (s : State) : Host.Outcome State Fault Refusal :=
  if !s.canHears n then go s
  else if f.fdf ∧ !s.on (CAN_CFG_FD_EN n) then go (s.canRxErr n 2 1 false 0)
  else
    let s := s.canHandOn n f
    let s := if (s.can n).mode = mdNORMAL then (s.setF (CAN_STAT_REC n) (recAfter (s.f (CAN_STAT_REC n)))).canEstate n else s
    go (s.nmTraffic n)

/-- CAN_RX_ERROR (R308): what 0 an error, 1 a dominant first bit after the flag, 2 a bit error in an active error or overload
flag, 3 dominant bits after a flag. -/
def execCanRxError (n : Fin 8) (lec field : Fin 8) (dataPhase : Bool) (what : Fin 4) (s : State) :
    Host.Outcome State Fault Refusal :=
  go (if s.canHears n then s.canRxErr n lec field dataPhase what else s)

/-! Transceivers (R314 to R318) -/

/-- TRX_REQ_NORMAL (R314). -/
def execTrxReqNormal (n : Fin 8) (init : Byte) (s : State) : Host.Outcome State Fault Refusal :=
  go (s.canCtl n init.toNat (fun s => s.trxReq n trNORMAL))

/-- TRX_REQ_LISTEN (R314). -/
def execTrxReqListen (n : Fin 8) (init : Byte) (s : State) : Host.Outcome State Fault Refusal :=
  go (s.canCtl n init.toNat (fun s => s.trxReq n trLISTEN))

/-- TRX_REQ_STANDBY (R314). -/
def execTrxReqStandby (n : Fin 8) (init : Byte) (s : State) : Host.Outcome State Fault Refusal :=
  go (s.canCtl n init.toNat (fun s => s.trxReq n trSTANDBY))

/-- TRX_REQ_SLEEP (R314). -/
def execTrxReqSleep (n : Fin 8) (init : Byte) (s : State) : Host.Outcome State Fault Refusal :=
  go (s.canCtl n init.toNat (fun s => s.trxReq n trSLEEP))

/-- TRX_SLEEP_TIMER (R314, R327): transceiver 0 to 7 CANn, 8 to 15 LINn. -/
def execTrxSleepTimer (t : Fin 16) (s : State) : Host.Outcome State Fault Refusal :=
  go (if s.f (trxStateRF t) = trGOING then (s.trxSlept t).nmSlept t else s)

/-- A transceiver in GOING_SLEEP completes into STANDBY; a REQ that waited takes effect. -/
def State.trxToStandby (s : State) (t : Nat) : State :=
  let h := (s.trxOf t).held
  let s := (s.setTrxOf t { s.trxOf t with held := none, armed := false }).trxEnter t trSTANDBY
  match h with
  | some r => s.trxGo t r
  | none => s

/-- A record of a bus unit's transceiver in the Interface island, which does not run in Deep sleep. -/
def State.stampTrx (s : State) (unit event data : Nat) : State :=
  if s.f PWR_STATE_STATE < 3 then s.stamp 1 0x01 unit unit event data else s

/-- A wake of CAN0 to CAN3 (R314, R316, R379). -/
def State.canWake (s : State) (n cause : Nat) : State :=
  let late := s.f (trxStateRF n) = trGOING
  let s := ((s.setF (CAN_TRX_STAT_WAKE n) 1).setF (CAN_TRX_STAT_CAUSE n) cause).setF (CAN_TRX_STAT_FEC n) 0
  let s := if late then
      ((s.raise (CAN_FLAG_WAKE_AT_SLEEP n) (CAN_FLAG_CNT_COUNT n)).stampTrx (0x10 + n) 0x0B 0).canCue n
        (s.f (CAN_ACCESS_CTL_ENGINE n)) 0x0B 0
    else
      let s := s.stampTrx (0x10 + n) 0x0A cause
      if s.f PWR_STATE_STATE = 0 then s.canCue n (s.f (CAN_ACCESS_CTL_ENGINE n)) 0x0A cause else s
  let s := (s.trxToStandby n).wakeSource (2 + n)
  if s.awake then s.nmBusWake n late else s

/-- A wake-up frame matches (R316). -/
def State.wufMatch (s : State) (n : Nat) (f : CanFrame) : Bool :=
  let m := s.f (CAN_WUF_MASK_WUF_MASK n)
  let data := s.f (CAN_WUF_DATA_WUF_DATA n 0) + s.f (CAN_WUF_DATA_WUF_DATA n 1) * 2 ^ 32
  !f.fdf && !f.rtr && f.ide = s.on (CAN_WUF_ID_IDE n) && (f.id.toNat &&& m) = (s.f (CAN_WUF_ID_WUF_ID n) &&& m) &&
  (!s.on (CAN_TRX_CFG_DATA_EN n) ||
    (f.dlc.toNat = s.f (CAN_TRX_CFG_WUF_DLC n) && decide (sliceLE (f.data.take (dlcLen false f.dlc.toNat)) 0 8 &&& data ≠ 0)))

/-- The wake detector is armed: STANDBY, GOING_SLEEP or SLEEP. -/
def State.detecting (s : State) (t : Nat) : Bool := 2 ≤ s.f (trxStateRF t)

/-- The condition of a wake by its cause: 1 pattern with SW_EN 0, 2 a matching frame in the armed decoder, 3 FEC at 32. -/
def State.wakeHolds (s : State) (n cause : Nat) (f : CanFrame) : Bool :=
  match cause with
  | 1 => !s.on (CAN_TRX_CFG_SW_EN n)
  | 2 => s.on (CAN_TRX_CFG_SW_EN n) && (s.trxOf n).armed && s.wufMatch n f
  | 3 => s.f (CAN_TRX_STAT_FEC n) = 32
  | _ => false

/-- CAN_BUS_WAKE (R314, R316, R318): for CAN4 to CAN7 the falling edge on CRX in Sleep is the wake of R80 bit 14. -/
def execCanBusWake (n : Fin 8) (cause : Fin 4) (f : CanFrame) (s : State) : Host.Outcome State Fault Refusal :=
  if !s.busPresent n ∨ !s.detecting n then go s
  else if 4 ≤ n.val then go (if s.f PWR_STATE_STATE = 2 then s.wakeSource 14 else s)
  else go (if s.wakeHolds n cause f then s.canWake n cause else s)

/-- SW_DECODER_ARM (R316). -/
def execSwDecoderArm (n : Fin 4) (s : State) : Host.Outcome State Fault Refusal :=
  go (if s.detecting n && s.on (CAN_TRX_CFG_SW_EN n) then s.setTrxOf n { s.trxOf n with armed := true } else s)

/-- FEC_FRAME_COUNT (R316): FD frames are ignored without counting. -/
def execFecFrameCount (n : Fin 4) (err fdf : Bool) (s : State) : Host.Outcome State Fault Refusal :=
  go (if !(s.trxOf n).armed || fdf then s
    else s.setF (CAN_TRX_STAT_FEC n)
      (if err then min (s.f (CAN_TRX_STAT_FEC n) + 1) 32 else s.f (CAN_TRX_STAT_FEC n) - 1))

/-- SW_DECODER_DISARM (R316). -/
def execSwDecoderDisarm (n : Fin 4) (s : State) : Host.Outcome State Fault Refusal :=
  go (s.setTrxOf n { s.trxOf n with armed := false })

/-- CAN_DOM_TIMEOUT (R317): an integrated transceiver releases its transmitter, until the next attempt begins. -/
def execCanDomTimeout (n : Fin 4) (s : State) : Host.Outcome State Fault Refusal :=
  go (if s.f (trxStateRF n) ≠ trNORMAL ∨ (s.trxOf n).dom then s
    else ((s.setTrxOf n { s.trxOf n with dom := true }).raise (CAN_FLAG_DOM_TIMEOUT n) (CAN_FLAG_CNT_COUNT n)).canEvent n 0x0C 7 7)

/-- A write of WAKE = 1 to CANn_TRX_STAT: the controller engine clears WAKE and CAUSE. -/
def State.canWakeClear (s : State) (n init : Nat) : State :=
  if isEngine init ∧ s.f (CAN_ACCESS_CTL_ENGINE n) = init then
    (s.setF (CAN_TRX_STAT_WAKE n) 0).setF (CAN_TRX_STAT_CAUSE n) 0
  else s

/-- CAN_WAKE_CLEAR. -/
def execCanWakeClear (n : Fin 8) (init : Byte) (s : State) : Host.Outcome State Fault Refusal := go (s.canWakeClear n init.toNat)

end Sys2Proof.Machine
end

