-- ==== Sys2Proof/Machine/Lin.lean ====
section
/-! DEFINITION. The LIN controllers: control and buffer writes (R320, R322), schedule slots, headers and responses (R321 to
R324), go-to-sleep and wake pulses (R325, R326), and the transceiver's wake (R327). -/

namespace Sys2Proof.Machine

/-- A refused write (R320 and LINn_CTL). -/
def State.linRefuse (s : State) (n init : Nat) : State := (s.incSat (LIN_REFUSE_COUNT n)).setF (LIN_REFUSE_LAST_INIT n) init

/-- A control initiator of LINn. -/
def State.linMay (s : State) (n init : Nat) : Bool :=
  isStr init || (isEngine init && s.f (LIN_CFG1_CTL_ENGINE n) = init) ||
  (isSession init && bitOf (s.f (LIN_CFG1_ZRT_GRANT n)) (init - 0x40))

/-- A control write: its effect for a control initiator, else ignored and counted. -/
def State.linCtl (s : State) (n init : Nat) (f : State → State) : State :=
  if !s.busUp n then s else if s.linMay n init then f s else s.linRefuse n init

/-- A write of TRX_REQ (R327): 1 is refused. -/
def State.linTrxReq (s : State) (n init req : Nat) : State :=
  if req = 1 then s.linRefuse n init else s.trxReq (8 + n) req

/-- LIN_SCHED_SELECT (R322): it takes effect at the end of the current slot. -/
def execLinSchedSelect (n : Fin 8) (init : Byte) (t : Fin 4) (s : State) : Host.Outcome State Fault Refusal :=
  go (s.linCtl n init.toNat (fun s => s.setF (LIN_CTL_SCHED n) t))

/-- LIN_RUN (R322). -/
def execLinRun (n : Fin 8) (init : Byte) (v : Bool) (s : State) : Host.Outcome State Fault Refusal :=
  go (s.linCtl n init.toNat (fun s => s.linRun n v))

/-- LIN_GOTO_SLEEP (R325). -/
def execLinGotoSleep (n : Fin 8) (init : Byte) (s : State) : Host.Outcome State Fault Refusal :=
  go (s.linCtl n init.toNat (fun s => s.linGotoSleep n))

/-- LIN_SEND_WAKE (R326). -/
def execLinSendWake (n : Fin 8) (init : Byte) (s : State) : Host.Outcome State Fault Refusal :=
  go (s.linCtl n init.toNat (fun s => s.linSendWake n))

/-- LIN_TRX_REQ (R327). -/
def execLinTrxReq (n : Fin 8) (init : Byte) (req : Fin 4) (s : State) : Host.Outcome State Fault Refusal :=
  go (s.linCtl n init.toNat (fun s => s.linTrxReq n init.toNat req))

/-- A write of WAKE = 1 to LINn_STAT. -/
def State.linWakeClear (s : State) (n init : Nat) : State := if s.linMay n init then s.setF (LIN_STAT_WAKE n) 0 else s

/-- LIN_WAKE_CLEAR (LINn_STAT). -/
def execLinWakeClear (n : Fin 8) (init : Byte) (s : State) : Host.Outcome State Fault Refusal := go (s.linWakeClear n init.toNat)

/-! Frame buffers (R320) -/

/-- A buffer that the module publishes. -/
def State.linPublishes (s : State) (n b : Nat) : Bool := s.mf (lbDIR n b) = 0

/-- COMMIT of a publish buffer: LEN bytes of the staged data. -/
def State.linCommitStaged (s : State) (n b : Nat) : State := s.linCommit n b (s.rdBytes (linB n b + 8) 8)

/-- Put the data bytes of a write into a buffer. -/
def State.linPut (s : State) (n b : Nat) : List (Nat × Byte) → State
  | [] => s
  | (o, v) :: t => (if 8 ≤ o then s.wr8 (linB n b + o) v else s).linPut n b t

/-- A write of bytes of a frame buffer (R320): word +0x00 accepts none, and a publish buffer only its OWNER's and the
Strongroom's. -/
def State.linWrite (s : State) (n b init : Nat) (bs : List (Nat × Byte)) : State :=
  if bs.any (fun x => decide (x.1 < 4)) ∨
      (s.linPublishes n b ∧ !(isStr init || (s.mf (lbOWNER n b) = init && init ≠ 0xFF))) then s.linRefuse n init
  else
    let s := s.linPut n b bs
    match wrByte bs 4 with
    | some v => if bitOf v 0 ∧ s.linPublishes n b then s.linCommitStaged n b else s
    | none => s

/-- LIN_BUFFER_COMMIT (R320). -/
def execLinBufferCommit (n : Fin 8) (b : Fin 64) (init : Byte) (s : State) : Host.Outcome State Fault Refusal :=
  go (if s.busUp n then s.linWrite n b init.toNat [(4, 1)] else s)

/-! Schedule (R321, R322) -/

/-- The word of a schedule slot. -/
def State.linSlot (s : State) (n t k : Nat) : Nat := s.rdN (0x04708400 + n * 0x1000 + t * 0x100 + k * 4) 4

/-- The buffer that a slot sends or expects: its own, or for a sporadic slot the lowest-index sporadic publish buffer with
UPDATED. -/
def State.linSlotBuf (s : State) (n w : Nat) : Option Nat :=
  if bitOf w 14 then
    (List.range 64).find? (fun b => s.linPublishes n b && s.mf (lbTYPE n b) = 2 && s.mf (lbUPD n b) = 1)
  else some (w % 64)

/-- LIN_SLOT_START (R322): the next slot of the running table starts, or slot 0 of SCHED when the schedule starts. -/
def execLinSlotStart (n : Fin 8) (s : State) : Host.Outcome State Fault Refusal :=
  let x := s.lin n
  if s.on (LIN_CFG0_ROLE n) ∨ !s.on (LIN_CTL_RUN n) ∨ x.slotOn ∨ x.wait ∨ s.f (trxStateRF (8 + n)) ≠ trNORMAL ∨ s.boot.xtalBad ∨ !s.clocked 11 then go s
  else
    let t := if x.started then s.f (LIN_STAT_SCHED_ACTIVE n) else s.f (LIN_CTL_SCHED n)
    let k := if x.started then x.next else 0
    let s := (s.setF (LIN_STAT_SCHED_ACTIVE n) t).setF (LIN_STAT_SLOT n) k
    let s := s.setTrxOf (8 + n) { s.trxOf (8 + n) with dom := false }
    go (s.setLin n { x with started := true, slotOn := true, buf := s.linSlotBuf n (s.linSlot n t k), answered := false,
                            coll := none, resume := if x.started then x.resume else [] })

/-- A LIN error (R324): flagged, counted and stamped, RESULT 2 in the buffer concerned. -/
def State.linError (s : State) (n bit : Nat) (b : Option Nat) (fid : Nat) : State :=
  let s := s.raiseBits ⟨LIN_FLAG n, 0, 11⟩ (LIN_FLAG_CNT_COUNT n) (2 ^ bit)
  let s := match b with | some b => s.setMf (lbRES n b) 2 | none => s
  s.linEvent n 0x02 bit (fid + bit * 0x100)

/-- A flag of LINn with an event of its own. -/
def State.linFlag (s : State) (n bit code arg data : Nat) : State :=
  (s.raiseBits ⟨LIN_FLAG n, 0, 11⟩ (LIN_FLAG_CNT_COUNT n) (2 ^ bit)).linEvent n code arg data

/-- What a slot's end finds of its buffer: a subscribed frame without a response is NO_RESPONSE, or silent where it is
event-triggered (RESULT 3). -/
def State.linJudge (s : State) (n : Nat) : State :=
  let x := s.lin n
  match x.buf with
  | none => s
  | some b =>
    if x.answered ∨ s.linPublishes n b then s
    else if s.mf (lbTYPE n b) = 1 then s.setMf (lbRES n b) 3
    else s.linError n 1 (some b) (s.mf (lbFID n b))

/-- The table and slot that follow (R322), with what is to be resumed: a collision table first, another SCHED at slot 0, then
END or the next slot. -/
def State.linNext (s : State) (n : Nat) : Nat × Nat × List (Nat × Nat) :=
  let x := s.lin n
  let t := s.f (LIN_STAT_SCHED_ACTIVE n)
  let k := s.f (LIN_STAT_SLOT n)
  let last := bitOf (s.linSlot n t k) 17
  let base := match x.resume.getLast? with | some r => r.1 | none => t
  let succ := if last then 0 else (k + 1) % 64
  if s.f (LIN_CTL_SCHED n) ≠ base then (s.f (LIN_CTL_SCHED n), 0, [])
  else
    match x.coll with
    | some c =>
      (match x.resume with
       | r :: l => if last then (c, 0, r :: l) else (c, 0, (t, succ) :: r :: l)
       | [] => (c, 0, [(t, succ)]))
    | none =>
      match x.resume with
      | r :: l => if last then (r.1, r.2, l) else (t, succ, x.resume)
      | [] => (t, succ, [])

/-- LIN_SLOT_END (R322, R324, R325). -/
def execLinSlotEnd (n : Fin 8) (s : State) : Host.Outcome State Fault Refusal :=
  if !(s.lin n).slotOn ∨ s.on (LIN_CFG0_ROLE n) ∨ !s.clocked 11 then go s
  else
    let s := s.linJudge n
    let x := s.lin n
    if x.sleepReq then go (s.linSleepSent n)
    else
      let y := s.linNext n
      let s := s.setLin n { x with slotOn := false, buf := none, coll := none, next := y.2.1, resume := y.2.2,
                                   started := s.on (LIN_CTL_RUN n) }
      go (s.setF (LIN_STAT_SCHED_ACTIVE n) y.1)

/-! Headers and responses -/

/-- The protected identifier of ISO 17987: identifier and parity. -/
def linPid (f : Nat) : Nat :=
  let b := fun k => b2n (bitOf f k)
  f + (b 0 + b 1 + b 2 + b 4) % 2 * 0x40 + (1 + b 1 + b 3 + b 4 + b 5) % 2 * 0x80

/-- The buffer of a header at a responder (R323): a publish buffer that answers, else a subscribe buffer. -/
def State.linMatch (s : State) (n f : Nat) : Option Nat :=
  let l := (List.range 64).filter (fun b => s.mf (lbLEN n b) ≠ 0 && s.mf (lbFID n b) = f)
  match l.find? (fun b => s.linPublishes n b && (s.mf (lbTYPE n b) ≠ 1 || s.mf (lbUPD n b) = 1)) with
  | some b => some b
  | none => l.find? (fun b => !s.linPublishes n b)

/-- LIN_HEADER_RECEIVED (R323, R324, R326). -/
def execLinHeaderReceived (n : Fin 8) (pid : Byte) (syncOk : Bool) (s : State) : Host.Outcome State Fault Refusal :=
  if !s.on (LIN_CFG0_ROLE n) ∨ s.f (trxStateRF (8 + n)) ≠ trNORMAL ∨ s.boot.xtalBad ∨ !s.clocked 11 then go s
  else if !syncOk then go (s.linError n 5 none (Config.openValue 2 n % 64))
  else
    let f := pid.toNat % 64
    if linPid f ≠ pid.toNat then go (s.linError n 4 none f)
    else go (s.setLin n { s.lin n with wait := false, pulses := 0, buf := s.linMatch n f, answered := false })

/-- Change bit RESP_ERR_BIT of byte 0 of buffer RESP_ERR_BUF, staged and as published (R323). -/
def State.linRespErr (s : State) (n : Nat) (v : Bool) : State :=
  let b := s.f (LIN_CFG0_RESP_ERR_BUF n)
  let m : Byte := BitVec.ofNat 8 (2 ^ s.f (LIN_CFG0_RESP_ERR_BIT n))
  let put := fun (x : Byte) => if v then x ||| m else x &&& ~~~ m
  let s := s.wr8 (linB n b + 8) (put (s.rd8 (linB n b + 8)))
  match s.linPub n b with
  | [] => s
  | h :: t => s.setLin n { s.lin n with pub := tset (fun _ => []) (s.lin n).pub b (put h :: t) }

/-- A response with an error (R322, R324): 1 CHECKSUM, 2 BIT_ERR, 3 FRAMING; in an event-triggered slot a collision. -/
def State.linBad (s : State) (n b kind : Nat) : State :=
  let resp := s.on (LIN_CFG0_ROLE n)
  if !resp ∧ !s.linPublishes n b ∧ s.mf (lbTYPE n b) = 1 then
    let w := s.linSlot n (s.f (LIN_STAT_SCHED_ACTIVE n)) (s.f (LIN_STAT_SLOT n))
    let s := s.setLin n { s.lin n with coll := some (w / 2 ^ 15 % 4) }
    (s.setMf (lbRES n b) 2).linFlag n 6 0x03 b (s.mf (lbFID n b))
  else
    let s := s.linError n (if kind = 1 then 0 else kind) (some b) (s.mf (lbFID n b))
    if resp ∧ s.on (LIN_CFG0_RESP_ERR n) then s.linRespErr n true else s

/-- A response without error (R320, R322, R323): published, or stored, cued and handed to the gateway. -/
def State.linGood (s : State) (n b : Nat) (data : List Byte) : State :=
  let s := (s.setMf (lbRES n b) 1).setMf (lbSEQ n b) ((s.mf (lbSEQ n b) + 1) % 0x10000)
  if s.linPublishes n b then
    let s := s.setMf (lbUPD n b) 0
    if s.on (LIN_CFG0_ROLE n) ∧ s.on (LIN_CFG0_RESP_ERR n) ∧ s.f (LIN_CFG0_RESP_ERR_BUF n) = b then s.linRespErr n false else s
  else
    let d := data.take (s.mf (lbLEN n b))
    let s := s.wrBytes (linB n b + 8) d
    let s := if s.mf (lbCUE n b) = 1 then s.linCue n (s.mf (lbOWNER n b)) 0x01 b else s
    s.gwArrive { port := 11 + n, kind := 2, id := s.mf (lbFID n b), data := d, stamp := (s.islandSlate 11).toNat }

/-- LIN_RESPONSE (R322 to R324): the response of the frame in progress, 0 without error, 1 checksum, 2 bit, 3 framing. -/
def execLinResponse (n : Fin 8) (kind : Fin 4) (data : List Byte) (s : State) : Host.Outcome State Fault Refusal :=
  let x := s.lin n
  match (if s.clocked 11 then x.buf else none) with
  | none => go s
  | some b =>
    if x.answered ∨ (!s.linPublishes n b ∧ kind.val = 0 ∧ data.length < s.mf (lbLEN n b)) then go s
    else
      let s := s.setLin n { x with answered := true }
      go (if kind.val = 0 then s.linGood n b data else s.linBad n b kind)

/-! Sleep and wake -/

/-- A responder that is told to sleep (R325, R381): its segment sleeps where the conditions hold, else it wakes the bus. -/
def State.linSleepRx (s : State) (n arg : Nat) : State :=
  if !s.on (LIN_CFG0_ROLE n) ∨ !s.clocked 11 then s
  else
    let s := s.linFlag n 8 0x04 arg arg
    if !s.nmOn (8 + n) ∨ s.nst (8 + n) ≠ nsAWAKE then s
    else if s.nmMaySleep (8 + n) then (s.nmSet (8 + n) nsSLEEP).trxReq (8 + n) trSLEEP
    else s.linSendWake n

/-- LIN_GOTO_SLEEP_RX (R325). -/
def execLinGotoSleepRx (n : Fin 8) (s : State) : Host.Outcome State Fault Refusal :=
  go (if s.f (trxStateRF (8 + n)) = trNORMAL then s.linSleepRx n 1 else s)

/-- LIN_BUS_IDLE_TIMEOUT (R325). -/
def execLinBusIdleTimeout (n : Fin 8) (s : State) : Host.Outcome State Fault Refusal := go (s.linSleepRx n 2)

/-- LIN_WAKE_SCHEDULE_START (R326). -/
def execLinWakeScheduleStart (n : Fin 8) (s : State) : Host.Outcome State Fault Refusal :=
  go (if s.on (LIN_CFG0_ROLE n) ∨ !s.clocked 11 then s else s.setLin n { s.lin n with wait := false, pulses := 0 })

/-- LIN_WAKE_RETRY (R326): up to three pulses, then WAKE_FAIL. -/
def execLinWakeRetry (n : Fin 8) (s : State) : Host.Outcome State Fault Refusal :=
  let x := s.lin n
  go (if !s.on (LIN_CFG0_ROLE n) ∨ !x.wait ∨ !s.clocked 11 then s
    else if x.pulses < 3 then s.setLin n { x with pulses := x.pulses + 1 }
    else (s.setLin n { x with pulses := 0, wait := false }).linFlag n 9 0x06 0 0)

/-- A LIN transceiver's wake (R314, R327). -/
def State.linWake (s : State) (n : Nat) : State :=
  let late := s.f (trxStateRF (8 + n)) = trGOING
  let s := s.setF (LIN_STAT_WAKE n) 1
  let s := if late then
      ((s.raise (LIN_FLAG_WAKE_AT_SLEEP n) (LIN_FLAG_CNT_COUNT n)).stampTrx (0x18 + n) 0x07 0).linCue n
        (s.f (LIN_CFG1_CTL_ENGINE n)) 0x07 0
    else
      let s := s.stampTrx (0x18 + n) 0x05 0
      if s.f PWR_STATE_STATE = 0 then s.linCue n (s.f (LIN_CFG1_CTL_ENGINE n)) 0x05 0 else s
  let s := (s.trxToStandby (8 + n)).wakeSource (6 + n)
  if s.awake then s.nmBusWake (8 + n) late else s

/-- LIN_BUS_WAKE (R327); a wake pulse while the segment waits for bus sleep returns it to AWAKE (R381). -/
def execLinBusWake (n : Fin 8) (s : State) : Host.Outcome State Fault Refusal :=
  go (if !s.busPresent n then s else if s.detecting (8 + n) then s.linWake n else s.nmTraffic (8 + n))

/-- LIN_DOM_TIMEOUT (R324): the transmitter is released until TXD returns recessive, at the latest when the next slot starts. -/
def execLinDomTimeout (n : Fin 8) (s : State) : Host.Outcome State Fault Refusal :=
  go (if s.f (trxStateRF (8 + n)) ≠ trNORMAL ∨ (s.trxOf (8 + n)).dom ∨ !s.clocked 11 then s
    else
      let b := (s.lin n).buf
      (s.setTrxOf (8 + n) { s.trxOf (8 + n) with dom := true }).linError n 7 b
        (match b with | some b => s.mf (lbFID n b) | none => Config.openValue 2 n % 64))

end Sys2Proof.Machine
end

