-- ==== Sys2Proof/Machine/Eth.lean ====
section
/-! DEFINITION. The Ethernet switch: MACsec, elimination, VLAN and forwarding of received frames (R331, R332, R334, R335), the
gate control list and transmission (R333). -/

namespace Sys2Proof.Machine

/-- A drop counter of a port. -/
def State.ethDrop (s : State) (r : RF) : State := s.incSat r

/-- MACsec on reception (R335): whether the frame passes, with the next acceptable PN kept per SA. -/
def State.macsecRx (s : State) (p : Nat) (f : EthFrame) : Bool × State :=
  if 2 ≤ p ∨ s.ethTab 6 p 0 ≠ 1 then (true, s)
  else
    let strict := s.ethTab 6 p 1 = 0
    match f.sec with
    | none => (!strict, s)
    | some (an, pn, ok) =>
      let i := 4 * p + an.toNat
      let next := tget (fun _ => 0) s.eth.rxPn i
      if an.toNat < 2 ∧ s.ethTab 6 p 1 ≠ 2 ∧ pn.toNat + s.ethTab 6 p 2 < next then (false, s)
      else if 2 ≤ an.toNat ∨ !ok then (!strict, s)
      else (true, { s with eth := { s.eth with rxPn := tset (fun _ => 0) s.eth.rxPn i (max next (pn.toNat + 1)) } })

/-- A stream's recovery state. -/
def State.frerOf (s : State) (r : Nat) : Frer := tget (fun _ => {}) s.eth.frer r

/-- Put it. -/
def State.setFrer (s : State) (r : Nat) (x : Frer) : State := { s with eth := { s.eth with frer := tset (fun _ => {}) s.eth.frer r x } }

/-- How many history bits that are 0 a shift by `n` takes out of `h` bits (R334: the lost frames of vector recovery). -/
def frerLost (h hist n : Nat) : Nat :=
  (List.range n).foldl (fun a k => a + b2n (!bitOf (hist * 2 ^ k) (h - 1))) 0

/-- HISTORY of a stream within its range, 32 where it is not given (R334). -/
def frerHistory (h : Nat) : Nat := if h = 0 then 32 else max 2 (min h 32)

/-- Vector recovery of IEEE 802.1CB (R334): whether the frame of a sequence number passes, counted on the uplink. -/
def State.frerRx (s : State) (p r q : Nat) : Bool × State :=
  let x := s.frerOf r
  let h := frerHistory (s.ethTab 5 r 4)
  let ofs : Int := signed 16 (q + 0x10000 - x.seq)
  if x.any then (true, (s.setFrer r { any := false, seq := q, hist := 1 }).incSat (ETH_FRER_CNT_PASSED p))
  else if (h : Int) ≤ ofs ∨ ofs ≤ -(h : Int) then (false, s.incSat (ETH_FRER_CNTB_ROGUE p))
  else if ofs ≤ 0 then
    let k := (-ofs).toNat
    if bitOf x.hist k then (false, s.incSat (ETH_FRER_CNT_DISCARDED p))
    else (true, (s.setFrer r { x with hist := x.hist + 2 ^ k }).incSat (ETH_FRER_CNT_PASSED p))
  else
    let k := ofs.toNat
    let s := s.addSat (ETH_FRER_CNTB_LOST p) (frerLost h x.hist k)
    (true, (s.setFrer r { x with seq := q, hist := (x.hist * 2 ^ k + 1) % 2 ^ h }).incSat (ETH_FRER_CNT_PASSED p))

/-- Elimination of a frame of a stream on an uplink; a frame of a replicated stream without an R-TAG is discarded. -/
def State.eliminate (s : State) (p vid : Nat) (f : EthFrame) : Bool × State :=
  if 2 ≤ p then (true, s)
  else
    match s.ethStream f.dst.toNat vid with
    | none => (true, s)
    | some r =>
      if s.ethTab 5 r 3 ≠ 1 then (true, s)
      else
        match f.rtag with
        | some q => s.frerRx p r q.toNat
        | none => (false, s.incSat (ETH_FRER_CNT_DISCARDED p))

/-- The destination mask of a frame (R331), none where it is dropped: bits 0 to 2 the ports, bit 3 the gateway. -/
def State.ethDest (s : State) (dst vid row : Nat) : Option Nat :=
  let members := s.ethTab 1 row 2
  let hit := (List.range 256).find? (fun r => s.ethTab 0 r 0 = 1 && s.ethTab 0 r 1 = dst && s.ethTab 0 r 2 = vid)
  let own := dst = s.ethMac || (List.range 256).any (fun r => s.ethTab 8 r 0 = 1 && s.ethTab 8 r 1 = dst)
  let gw := if own then 8 else 0
  if dst = 2 ^ 48 - 1 then some members
  else
    match hit with
    | some r => some ((s.ethTab 0 r 3 &&& members) ||| gw)
    | none => if own then some gw else none

/-- Whether a frame is IPv4 with UDP, and its UDP destination port. -/
def udpPort (f : EthFrame) : Option Nat :=
  let ihl := 4 * (sliceLE f.data 0 1 % 16)
  if f.etype = 0x0800 ∧ sliceLE f.data 9 1 = 17 ∧ ihl + 8 ≤ f.data.length then some (natBE ((f.data.drop (ihl + 2)).take 2)) else none

/-- The frame as the gateway looks it up (R337). -/
def ethGwFrame (p vid : Nat) (f : EthFrame) (stamp : Nat) : GwFrame :=
  let id := match udpPort f with | some d => 2 ^ 28 + d | none => f.etype.toNat
  { port := p, kind := 3, id := vid * 0x10000 + id, data := f.data, stamp := stamp, eth := some f }

/-- A ZRT frame at an uplink (R363): its bytes from the ZRT header on. -/
def State.zrtBytes (s : State) (p : Nat) (f : EthFrame) : Option (List Byte) :=
  if 2 ≤ p then none
  else if s.boot.phase = .recovery then
    (if f.etype = 0x88B5 then some f.data
     else if f.etype = 0x0800 then some (f.data.drop (4 * (sliceLE f.data 0 1 % 16) + 8)) else none)
  else if f.etype = 0x88B5 ∧ s.on ZRT_CFG_RAW_EN then some f.data
  else
    match udpPort f with
    | some d => if s.on ZRT_CFG_UDP_EN ∧ d = s.f ZRT_CFG_UDP_PORT then some (f.data.drop (4 * (sliceLE f.data 0 1 % 16) + 8)) else none
    | none => none

/-- A ZRT frame on an expansion, where ZRT_CFG enables neither transport: by the EtherType of raw frames (R386). -/
def State.zrtOnExpansion (s : State) (p : Nat) (f : EthFrame) : Bool :=
  s.expansion && p < 2 && (f.etype = 0x88B5 || (udpPort f = some (s.f ZRT_CFG_UDP_PORT)))

/-- A frame for the gateway: ACF and ZRT frames wait for their units, any other is looked up. -/
def State.ethToGw (s : State) (p vid : Nat) (f : EthFrame) : State :=
  if s.zrtOnExpansion p f then
    let d := if f.etype = 0x88B5 then f.data else f.data.drop (4 * (sliceLE f.data 0 1 % 16) + 8)
    s.incSat (ZRT_SES_CNT_REJECTED (sliceLE d 1 1 % 8))
  else if (s.zrtBytes p f).isSome ∨ f.etype = 0x22F0 then { s with eth := { s.eth with inq := s.eth.inq ++ [(p, f)] } }
  else s.gwArrive (ethGwFrame p vid f (s.islandSlate 10).toNat)

/-- Forward to the ports of a mask, but not back. -/
def State.ethFlood (s : State) (p mask : Nat) (f : EthFrame) : State :=
  let rep : Bool := match f.tag with
    | some t => (match s.ethStream f.dst.toNat t.1.toNat with | some r => decide (s.ethTab 5 r 3 = 1) | none => false)
    | none => false
  (List.range 3).foldl (fun s q =>
    if q = p ∨ !bitOf mask q ∨ (rep ∧ q = 1 ∧ p ≠ 0 ∧ bitOf mask 0) then s else s.ethQueue q f) s

/-- The module's recovery MAC address and UDP port (R489). -/
def State.recMac (s : State) : Nat := natBE (s.mrdBytes (identAt + 0x10) 6)

/-- The recovery UDP port. -/
def State.recPort (s : State) : Nat := natBE (s.mrdBytes (identAt + 0x1C) 2)

/-- A frame at an uplink in recovery (R513): untagged ones for the module that carry ZRT wait for the ROM, any other is dropped. -/
def State.recIngress (s : State) (p : Nat) (f : EthFrame) : State :=
  if p < 2 ∧ f.dst.toNat = s.recMac ∧ f.tag = none ∧ f.sec = none ∧ (f.etype = 0x88B5 ∨ udpPort f = some s.recPort) then
    { s with eth := { s.eth with inq := s.eth.inq ++ [(p, f)] } }
  else s

/-- ETH_FRAME_INGRESS (R331, R332, R334, R335). -/
def execEthFrameIngress (p : Fin 3) (f : EthFrame) (s : State) : Host.Outcome State Fault Refusal :=
  if s.boot.phase = .recovery then go (s.recIngress p f)
  else if (p.val < 2 ∧ !s.on (ETH_PORT_STAT_LINK p)) ∨ !s.clocked 10 ∨ s.boot.xtalBad then go s
  else
    let m := s.macsecRx p f
    if !m.1 then go (s.ethDrop (ETH_DROP_CNT_MACSEC p))
    else
      let s := m.2
      let vid := match f.tag with | some t => (if t.1 = 0 then s.ethTab 2 p 0 else t.1.toNat) | none => s.ethTab 2 p 0
      let pcp : BitVec 3 := match f.tag with | some t => t.2 | none => 0
      let e := s.eliminate p vid f
      if !e.1 then go e.2
      else
        let s := e.2
        let f := { f with sec := none, rtag := none, tag := some (BitVec.ofNat 12 vid, pcp) }
        match s.vlanRow vid with
        | none => go (s.ethDrop (ETH_DROP_CNT_VLAN p))
        | some row =>
          if !bitOf (s.ethTab 1 row 2) p then go (s.ethDrop (ETH_DROP_CNT_VLAN p))
          else
            match s.ethDest f.dst.toNat vid row with
            | none => go (s.ethDrop (ETH_DROP_CNT_FDB p))
            | some mask =>
              let s := s.ethFlood p mask f
              go (if bitOf mask 3 then s.ethToGw p vid f else s)

/-! Gate control and transmission (R333) -/

/-- The shadow list: its entries. -/
def State.qbvShadow (s : State) : List (Nat × Nat) :=
  (List.range (min (s.ethTab 4 64 0) 64)).map (fun k => (s.ethTab 4 k 0 % 256, s.ethTab 4 k 1))

/-- QBV_GATE_EVENT (R333): the next gate state of the list begins. -/
def execQbvGateEvent (s : State) : Host.Outcome State Fault Refusal :=
  go (if !s.clocked 10 then s
    else { s with eth := { s.eth with pos := if s.eth.gates = [] then 0 else (s.eth.pos + 1) % s.eth.gates.length, gateAt := s.now } })

/-- QBV_LIST_SWITCH (R333): not before ETH_QBV_CHANGE in gPTP time. -/
def execQbvListSwitch (s : State) : Host.Outcome State Fault Refusal :=
  go (if !s.clocked 10 ∨ s.gptpOf s.now < s.f ETH_QBV_CHANGE_LO_TIME + s.f ETH_QBV_CHANGE_HI_TIME * 2 ^ 32 then s
    else { s with eth := { s.eth with gates := s.qbvShadow, pos := 0, gateAt := s.now } })

/-- FRER_RESET_TIMER (R334). -/
def execFrerResetTimer (r : Fin 32) (s : State) : Host.Outcome State Fault Refusal :=
  go (if s.clocked 10 then s.setFrer r {} else s)

/-- The gate of a traffic class on a port is open. -/
def State.qbvOpen (s : State) (p cls : Nat) : Bool :=
  2 ≤ p || s.eth.gates = [] || bitOf ((s.eth.gates.getD s.eth.pos (0xFF, 0)).1) cls

/-- The time in ns for which the gate of an open class stays open, of a list of gate states in their order; none where it never
closes. -/
def openTime (cls : Nat) : List (Nat × Nat) → Option Nat
  | [] => none
  | x :: t => if bitOf x.1 cls then (openTime cls t).map (· + x.2) else some 0

/-- The octets of a frame on the wire: preamble, addresses, type and check, its tags, and payload, with MACsec its header and check
value. PRESUMED (log entry 71): they are those of the standards that R331 to R335 name. -/
def State.wireOctets (s : State) (p : Nat) (f : EthFrame) : Nat :=
  26 + (if f.tag.isSome then 4 else 0) + (if f.rtag.isSome then 6 else 0) + (if s.ethTab 6 p 0 = 1 then 24 else 0) + max 46 f.data.length

/-- A frame of a class whose gate is open can be transmitted completely before it closes, at 1 bit for each ns (R333). -/
def State.qbvFits (s : State) (p cls : Nat) (f : EthFrame) : Bool :=
  2 ≤ p ||
  (match openTime cls (s.eth.gates.drop s.eth.pos ++ s.eth.gates.take s.eth.pos) with
   | some t => 8 * s.wireOctets p f + 8 * (s.now - s.eth.gateAt) ≤ t
   | none => true)

/-- The next frame of a port: of the open gates the highest class with a frame that fits, oldest first; at T1S the oldest. -/
def State.ethNext (s : State) (p : Nat) : Option EthTx :=
  if p = 2 then s.eth.txq.find? (fun x => x.port = 2)
  else ([7, 6, 5, 4, 3, 2, 1, 0].filterMap (fun c => s.eth.txq.find? (fun x => x.port = p && x.cls = c && s.qbvOpen p c))).find?
    (fun x => s.qbvFits p x.cls x.f)

/-- The Ethernet engine named in the Script. -/
def State.ethEngine (s : State) : Nat := s.ethTab 7 0 1

/-- MACsec on transmission (R335): the PN of the transmitting SA counts; at 0xFFFF_FF00 PN_NEAR is set and cued. -/
def State.macsecTx (s : State) (p : Nat) : State :=
  if 2 ≤ p ∨ s.ethTab 6 p 0 ≠ 1 then s
  else
    let i := 4 * p + tget (fun _ => 0) s.eth.an p
    let pn := tget (fun _ => 0) s.eth.txPn i + 1
    let s := { s with eth := { s.eth with txPn := tset (fun _ => 0) s.eth.txPn i pn } }
    if pn = 0xFFFFFF00 then
      (s.setF (ETH_PORT_STAT_PN_NEAR p) 1).unitCue s.ethEngine 0x20 (Config.cueOpen 7 0x20 0) (Config.cueOpen 7 0x20 1)
        (Config.cueOpen 7 0x20 2)
    else s

/-- Nothing leaves on an uplink with MACsec: no transmit SA is installed, or the one in use has come to its last PN and waits for the
other (R335). -/
def State.pnStopped (s : State) (p : Nat) : Bool :=
  p < 2 && s.ethTab 6 p 0 = 1 &&
  (((s.key (33 + 4 * p)).kind = 0 && (s.key (34 + 4 * p)).kind = 0) ||
   0xFFFFFFFF ≤ tget (fun _ => 0) s.eth.txPn (4 * p + tget (fun _ => 0) s.eth.an p))

/-! The T1S port (R336) -/

/-- The shortest time in slate ticks until the module's next transmit opportunity: each other node takes its own, of TO_TIMER bit
times of 100 ns where it sends nothing, and the coordinator starts the cycle with a beacon of 20 bit times. PRESUMED (log entry 69). -/
def Plca.cycle (p : Plca) : Nat := ((p.count - 1) * p.toTimer + 20) * 25 / 2

/-- How many frames the opportunity holds with the next one: it goes on with up to `burst` more frames after the first, or a new one
has come; none while the module has to wait for it. -/
def State.toNext (s : State) : Option Nat :=
  if s.eth.toSent = 0 ∨ s.eth.toAt + s.eth.plca.cycle ≤ s.now then some 1
  else if s.eth.toSent ≤ s.eth.plca.burst then some (s.eth.toSent + 1)
  else none

/-- A frame starts at the T1S port: under PLCA in the module's own opportunity, else by CSMA/CD on an idle segment, which is when the
command comes. -/
def State.t1sSend (s : State) (x : EthTx) : State :=
  let t := { s with eth := { s.eth with txq := s.eth.txq.erase x } }
  if !s.eth.plca.on then t
  else
    match s.toNext with
    | some k => { t with eth := { t.eth with toSent := k, toAt := s.now } }
    | none => s

/-- ETH_FRAME_EGRESS (R333 to R336). -/
def execEthFrameEgress (p : Fin 3) (s : State) : Host.Outcome State Fault Refusal :=
  if (p.val < 2 ∧ !s.on (ETH_PORT_STAT_LINK p)) ∨ s.pnStopped p ∨ s.boot.xtalBad ∨ !s.clocked 10 then go s
  else
    match s.ethNext p with
    | none => go s
    | some x => go (if p = 2 then s.t1sSend x else { s with eth := { s.eth with txq := s.eth.txq.erase x } }.macsecTx p)

end Sys2Proof.Machine
end

