-- ==== Sys2Proof/Machine/Engines.lean ====
section
/-! DEFINITION. The cue engines: every CE8 instruction (R243), the reflex executor (R262), dispatch, timers, beats and the
crew clock gate (R259 to R271), and the start of a crew (R237). A command names the engine that executes the instruction
and the operands of the word it fetched; it is one iteration of a repeat group. -/

namespace Sys2Proof.Machine

/-- Register operations: one word, admitted in a delay slot and under both prefixes. -/
def insAlu : Ins := { rpt := true, rpti := true }

/-- LDQ and STQ: admitted under RPTI only. -/
def insQuad : Ins := { rpti := true }

/-- SYNC, EMIT and POST: admitted in a delay slot, not under a prefix. -/
def insOne : Ins := {}

/-- XCH and TAS: two cycles. -/
def insTwo : Ins := { cycC := 2, cycE := 2 }

/-- Control transfers of one word. -/
def insJump : Ins := { slot := false, cycC := 2 }

/-- Control transfers with an immediate address. -/
def insJumpAbs : Ins := { words := 2, slot := false, cycC := 3, cycE := 2 }

/-- The other 32-bit forms. -/
def insAbs : Ins := { words := 2, slot := false, cycC := 2, cycE := 2 }

/-- RETC. -/
def insRetc : Ins := { slot := false, cycC := 2, cycE := 2 }

/-- An address with the bits below a power of two ignored (R244). -/
def alignTo (n a : Nat) : Nat := a - a % n

/-- Write an 8-bit result and its flags. -/
def State.byteResult (s : State) (g d : Nat) (wr : Bool) (r : FlRes) (last : Nat) : Exe :=
  .done ((if wr then s.bW g d r.1 kResult last else s).flW g r.2 last) none

/-- Write a 16-bit result and its flags. -/
def State.ptrResult (s : State) (g p : Nat) (wr : Bool) (r : FlRes) (last : Nat) : Exe :=
  .done ((if wr then s.pW g p r.1 kResult last else s).flW g r.2 last) none

/-- Call: the return address is the word after the branch, or after its delay slot in extended mode. -/
def State.callTo (s : State) (g words target last : Nat) : Exe :=
  (s.push16 g (((s.eng g).cur.pc + words + b2n (s.ext g)) % 0x10000) last).andThen (fun t => .done t (some (target, true)))

/-- Return through the stack. -/
def State.popPc (s : State) (g last : Nat) : Exe :=
  let p := s.pR g 7 roAddr
  let a := alignTo 2 p
  if 0x1000 < a + 2 then .fault 3
  else .done (s.pW g 7 (p + 2) kInc last) (some (s.rdN (localAt g + a) 2, true))

/-- The target of Bcc and BSR: the word after the branch plus the sign-extended offset. -/
def State.relTarget (s : State) (g rel : Nat) : Nat := unsigned 16 ((s.eng g).cur.pc + 1 + signed 8 rel)

/-- A SYNC that has just been executed from state `s` waits while stores are pending (R267). -/
def State.syncWait (t s : State) (g : Nat) : State :=
  let e := t.eng g
  if (s.eng g).cyc < e.cyc ∧ e.running ∧ s.storesLeft (0x10 + g) ≠ 0 then
    t.setEng g (e.setLvl e.isUrgent { e.cur with sync := true })
  else t

/-- CPY (R246): the source in a Spine window, the destination within local data; the data arrives later. -/
def State.copy (s : State) (g n p q : Nat) : Exe :=
  let dst := alignTo n (s.pR g p roAddr)
  let src := alignTo n (s.pR g q roAddr)
  match s.place g src with
  | .spine m =>
    if 0x1000 < dst + n then .fault 8
    else if (s.eng g).load.isSome then .wait
    else
      let t := s.engTx g 0 m [] n
      .done (t.setEng g { t.eng g with load := some { urgent := (s.eng g).isUrgent, what := 3, at_ := localAt g + dst } }) none
  | _ => .fault 8

/-- The range of the Larder and the Attic (R31). -/
def inLarder (a : Nat) : Bool := 0x01000000 ≤ a && a < 0x01220000

/-- XCH and TAS (R245): atomic in local data, in crew memory and, as one locked transaction, in the Larder and the
Attic; a fault elsewhere. -/
def State.atomic (s : State) (g a d : Nat) (tas : Bool) (last : Nat) : Exe :=
  let x := s.bR g d roData
  let direct := fun (m : Nat) =>
    let old := (s.rd8 m).toNat
    let t := (s.wr8 m (BitVec.ofNat 8 (if tas then old ||| 0x80 else x))).bW g d old kLoad last
    Exe.done (if tas then t.flW g (flTas old) last else t) none
  match s.place g a with
  | .loc m => direct m
  | .crew m => direct m
  | .priv _ => .fault 6
  | .spine m =>
    if !inLarder m then .fault 6
    else if (s.eng g).load.isSome then .wait
    else
      let u := (s.eng g).isUrgent
      let t := s.engTx g (if tas then 3 else 2) m (bytesLE 1 x) 1
      .done (t.setEng g { t.eng g with load := some { urgent := u, what := if tas then 2 else 1, dst := [regCode u d] } })
        none

/-- The data of the load in flight arrives (R240): the registers, the local data of a CPY or the flags of a TAS are
written at this cycle. Cycles that the level waited count. -/
def State.arrive (s : State) (g w : Nat) : State :=
  let e := s.eng g
  match e.load with
  | none => s
  | some l =>
    match l.data with
    | none => s
    | some data =>
      let cyc := if l.urgent = e.isUrgent then e.cyc + w else e.cyc
      let s := s.setEng g { e with load := none, cyc := cyc }
      if l.what = 3 then s.wrBytes l.at_ data
      else
        let s := s.loadRegs g (cyc - 1) l.dst data
        if l.what = 2 then s.flWAt g l.urgent (flTas (natLE (data.take 1))) (cyc - 1) else s

/-- EMIT (R262): the command takes its crew's slot at the executor. -/
def State.emit (s : State) (g : Nat) (pwm : Bool) (ch value : Nat) : Exe :=
  if s.exec.any (fun r => r.init ≠ 0 && (r.init - 0x10) / 8 = g / 8) then .wait
  else .done { s with exec := s.exec ++ [{ init := 0x10 + g, ch := ch, pwm := pwm, value := value }] } none

/-- The write of a command by the executor, as initiator 0x60. -/
def State.executorDo (s : State) (r : ExecReq) : State :=
  if r.pwm then s.chPwmWrite 0x60 r.ch (r.value % 0x800) (r.value / 0x1000 % 4) (r.value / 0x10000 % 0x400)
  else s.chCmdWrite 0x60 r.ch (r.value % 4) (r.value / 0x100 % 0x100) (bitOf r.value 2)

/-- The reason for which the context refuses the command, 0 for none. -/
def State.executorReason (s : State) (r : ExecReq) : Nat :=
  if !s.chPresent r.ch then 0
  else s.chReason 0x60 r.ch true true
    (if r.pwm then 1024 < r.value % 0x800 else r.value % 4 = 3 || (chClass r.ch = 4 && r.value % 4 = 2)) false

/-- An EMIT answered with BUSERR (R256, R262). -/
def State.emitErr (s : State) (g code ch data : Nat) : State :=
  ((s.incSat CUE_EXEC_CNT_REJECTED).raise (ENG_FLAG_EMIT_ERR (g / 8) (g % 8)) (ENG_FLAG_CNT_COUNT (g / 8) (g % 8))).buserr
    g code 0x07 ch data

/-- Serve one command of the executor: an EMIT (R262) or a slot of a direct reflex (R350). -/
def State.executorServe (s : State) (r : ExecReq) : State :=
  if r.init ≠ 0 then
    let g := r.init - 0x10
    if 131 < r.ch then s.emitErr g 2 r.ch 0
    else if s.f (CH_CFG_OWNER r.ch) ≠ r.init then s.emitErr g 3 r.ch 0x10
    else if s.executorReason r ≠ 0 then (s.executorDo r).emitErr g 3 r.ch (s.executorReason r)
    else ((s.executorDo r).incSat CUE_EXEC_CNT_EMITTED).stamp 9 0x02 r.init 0x07 0x03 (r.init + r.ch * 0x100)
  else if s.executorReason r ≠ 0 then
    let data := s.executorReason r + r.flow * 0x100 + r.slot * 0x40000
    let s := (((s.executorDo r).incSat GW_RFX_CNT_REFUSED).raise GW_FLAG_EXEC_REFUSED GW_FLAG_CNT_COUNT).stamp 9 0x07 r.ch
      0x21 0x03 (data + r.engine * 2 ^ 64)
    s.unitCue r.engine 0x21 0x03 r.ch data
  else (s.executorDo r).incSat GW_RFX_CNT_EXECUTED

/-- Idle ends (R85): the crews' gates open and Run is entered. -/
def State.idleExit (s : State) : State :=
  if s.f PWR_STATE_STATE = 1 then
    { ((s.setF PWR_STATE_STATE 0).setF PWR_STATE_LAST_STATE 1).stampPwr 2 0x01 0 with gated := [] }
  else s

/-- POST (R261): a cue posted to an engine ends Idle at once (R85). -/
def State.post (s : State) (g id arg data last : Nat) : Exe :=
  let k := id - 0x10
  if !isEngine id || !s.crewPresent (k / 8) then .done (s.flW g { c := some true } last) none
  else
    let s := s.idleExit
    let drop := s.wouldDrop k 4
    let t := s.offerCue k { cls := 4, code := 0, kind := 0x02, index := 0x10 + g, arg := arg, data := data,
                            stampLo := s.now % 2 ^ 32 } false
    .done (t.flW g { c := some drop } last) none

/-- The engine stands at a boundary at which an URGENT cue may preempt NORMAL (R259): not before a delay slot, not inside
an RPT group, not before the first iteration of an RPTI group, not in a SYNC. -/
def Eng.boundary (e : Eng) : Bool :=
  e.nl.slot.isNone && !e.nl.sync && (e.nl.rep.left = 0 || (e.nl.rep.rpti && e.nl.rep.started))

/-- Dispatch (R259), while the crew's clock runs: the first cue of the level that may run; a cue without a handler is removed and counted. -/
def State.dispatch (s : State) (g : Nat) : State :=
  let e := s.eng g
  let run := fun (u : Bool) (st : EngState) (c : Cue) (q : List Cue) =>
    if e.vector c.cls = 0xFFFF then
      (s.setEng g { e with queue := q }).incSat (ENG_CUE_MISC_UNHANDLED (g / 8) (g % 8))
    else s.setEng g ({ e with queue := q }.enter u c st)
  if !s.clocked (3 + g / 8) then s
  else if e.st = .waiting then
    match takeCue true e.queue with
    | some (c, q) => run true .urgent c q
    | none =>
      match takeCue false e.queue with
      | some (c, q) => run false .normal c q
      | none => s
  else if e.st = .normal ∧ e.boundary then
    match takeCue true e.queue with
    | some (c, q) => run true .urgentOverNormal c q
    | none => s
  else s

/-- A running timer reaches 0 (R240, R255): a TIMER cue is posted; PERIODIC reloads, else EN clears. -/
def State.tmrExpire (s : State) (g n : Nat) : State :=
  let e := s.eng g
  let x := e.timer n
  if !x.en ∨ !s.clocked (3 + g / 8) then s
  else
    let x := if x.periodic then { x with left := x.period, start := s.crewNow g } else { x with en := false, left := 0 }
    (s.setEng g (e.setTimer n x)).postCue (0x10 + g) 3 (Config.cueOpen 3 n 0) 0x08 n 1 (Config.cueOpen 3 n 2) true

/-- The crew is quiet in Idle and its gate is enabled (R269): every engine waits, is unused or faulted, every queue is
empty and nothing is in flight. -/
def State.mayGate (s : State) (c : Nat) : Bool :=
  s.crewPresent c && s.f PWR_STATE_STATE = 1 && s.on (CUE_CREW_CFG_GATE c) && !s.gated.contains c &&
  (List.range 8).all (fun k =>
    let e := s.eng (8 * c + k)
    !e.running && e.queue.isEmpty && e.load.isNone && !s.waiting.any (fun t => t.init = 0x10 + 8 * c + k))

/-- A crew is released (R237): every engine with a program starts, with a START cue in its queue; the others are unused. -/
def State.crewRelease (s : State) (c : Nat) : State :=
  (List.range 8).foldl (fun s k =>
    let g := 8 * c + k
    if !bitOf (s.f (CUE_CREW_CFG_USED c)) k then s.setEng g { s.eng g with st := .unused }
    else
      let sp := fun (u : Bool) => s.f (if u then ENG_SP_SP_URGENT c k else ENG_SP_SP_NORMAL c k)
      let e : Eng := { st := .waiting, vec := (s.eng g).vec }
      let e := (((e.setReg 14 (byteOf (sp false) 0)).setReg 15 (byteOf (sp false) 1)).setReg 22 (byteOf (sp true) 0)).setReg
        23 (byteOf (sp true) 1)
      let q : Cue := { cls := 0, code := Config.cueOpen 0 g 0 % 0x100, kind := Config.cueOpen 0 g 3 % 0x100,
                       index := Config.cueOpen 0 g 4 % 0x100, arg := Config.cueOpen 0 g 1 % 0x10000,
                       data := s.f SYS_RESET_CAUSE_CAUSE, stampLo := s.now % 2 ^ 32 }
      (s.setEng g e).offerCue g q false) s

/-- NOP (R243). -/
def execNop (g : Fin 48) (s : State) : Host.Outcome State Fault Refusal :=
  go (s.ins g insAlu 0 (fun _ =>
    .done s none))

/-- ILLEGAL_INSTRUCTION (R241): an unlisted encoding faults the engine; a fetch above 0x0FFF faults it with PC_RANGE. -/
def execIllegalInstruction (g : Fin 48) (s : State) : Host.Outcome State Fault Refusal :=
  go (s.ins g { rpt := false } 0 (fun _ => .fault 1))

/-- RETC (R243, R259). -/
def execRetc (g : Fin 48) (s : State) : Host.Outcome State Fault Refusal :=
  go (s.ins g insRetc 0 (fun _ =>
    .ret s))

/-- RET (R243, R244). -/
def execRet (g : Fin 48) (s : State) : Host.Outcome State Fault Refusal :=
  go (s.ins g insJump 0 (fun last =>
    s.popPc g last))

/-- SYNC (R243, R267): waits until every earlier store of the engine has completed; SYNC_COMPLETE ends the wait. -/
def execSync (g : Fin 48) (s : State) : Host.Outcome State Fault Refusal :=
  go ((s.ins g insOne 0 (fun _ => .done s none)).syncWait s g)

/-- SYNC_COMPLETE (R267, R407): every store that the SYNC waited for has completed or been logged. -/
def execSyncComplete (g : Fin 48) (w : Byte) (s : State) : Host.Outcome State Fault Refusal :=
  let e := s.eng g
  if s.clocked (3 + g.val / 8) && e.cur.sync && s.storesLeft (0x10 + g) = 0 then
    go (s.setEng g ({ e with cyc := e.cyc + w.toNat }.setLvl e.isUrgent { e.cur with sync := false }))
  else go s

/-- JMP [Pp] (R243). -/
def execJmpPtr (g : Fin 48) (p : Fin 8) (s : State) : Host.Outcome State Fault Refusal :=
  go (s.ins g insJump 0 (fun _ =>
    .done s (some (s.pR g p roAddr, true))))

/-- CALL [Pp] (R243, R244). -/
def execCallPtr (g : Fin 48) (p : Fin 8) (s : State) : Host.Outcome State Fault Refusal :=
  go (s.ins g insJump 0 (fun last =>
    s.callTo g 1 (s.pR g p roAddr) last))

/-- RPT #n (R251). -/
def execRpt (g : Fin 48) (n : Fin 16) (s : State) : Host.Outcome State Fault Refusal :=
  go (s.prefixIns g false (n + 1))

/-- RPTI Bs (R252): the count is read at the prefix, 0 means 256. -/
def execRptiReg (g : Fin 48) (r : Fin 16) (s : State) : Host.Outcome State Fault Refusal :=
  go (s.prefixIns g true (if s.bR g r roData = 0 then 256 else s.bR g r roData))

/-- RPTI #n (R252). -/
def execRptiImm (g : Fin 48) (n : Byte) (s : State) : Host.Outcome State Fault Refusal :=
  go (s.prefixIns g true (n.toNat + 1))

/-- LDQ Pq, [Pp], q even (R243, R244): address bits [1:0] are ignored. -/
def execLdq (g : Fin 48) (q : Fin 4) (p : Fin 8) (w : Byte) (s : State) : Host.Outcome State Fault Refusal :=
  go (s.ins g insQuad w.toNat (fun last =>
    s.loadTo g (alignTo 4 (s.pR g p roAddr)) 4 [4 * q, 4 * q + 1, 4 * q + 2, 4 * q + 3] false last))

/-- STQ [Pp], Pq, q even (R243, R244). -/
def execStq (g : Fin 48) (q : Fin 4) (p : Fin 8) (w : Byte) (s : State) : Host.Outcome State Fault Refusal :=
  go (s.ins g insQuad w.toNat (fun last =>
    s.storeAt g (alignTo 4 (s.pR g p roAddr))
      (bytesLE 2 (s.pR g (2 * q) roData) ++ bytesLE 2 (s.pR g (2 * q + 1) roData)) false last))

/-- JMP #a (R243). -/
def execJmpAbs (g : Fin 48) (a : BitVec 16) (s : State) : Host.Outcome State Fault Refusal :=
  go (s.ins g insJumpAbs 0 (fun _ =>
    .done s (some (a.toNat, true))))

/-- CALL #a (R243, R244). -/
def execCallAbs (g : Fin 48) (a : BitVec 16) (s : State) : Host.Outcome State Fault Refusal :=
  go (s.ins g insJumpAbs 0 (fun last =>
    s.callTo g 2 a.toNat last))

/-- LDA Bd, [#a] (R243). -/
def execLda (g : Fin 48) (d : Fin 16) (a : BitVec 16) (w : Byte) (s : State) : Host.Outcome State Fault Refusal :=
  go (s.ins g insAbs w.toNat (fun last =>
    s.loadTo g a.toNat 1 [d] false last))

/-- STA [#a], Bs (R243). -/
def execSta (g : Fin 48) (r : Fin 16) (a : BitVec 16) (w : Byte) (s : State) : Host.Outcome State Fault Refusal :=
  go (s.ins g insAbs w.toNat (fun last =>
    s.storeAt g a.toNat (bytesLE 1 (s.bR g r roData)) false last))

/-- LDP Pp, #a (R243). -/
def execLdp (g : Fin 48) (p : Fin 8) (a : BitVec 16) (s : State) : Host.Outcome State Fault Refusal :=
  go (s.ins g insAbs 0 (fun last =>
    .done (s.pW g p a.toNat kResult last) none))

/-- ADDPI Pp, #a (R243): Z C N V of 16 bits. -/
def execAddpi (g : Fin 48) (p : Fin 8) (a : BitVec 16) (s : State) : Host.Outcome State Fault Refusal :=
  go (s.ins g insAbs 0 (fun last =>
    s.ptrResult g p true (flAdd 16 (s.pR g p roData) a.toNat 0) last))

/-- CPY [Pp], [Pq], #n (R243, R246): one read of n bytes from a Spine window into local data. -/
def execCpy (g : Fin 48) (k : Fin 3) (p q : Fin 8) (w : Byte) (s : State) : Host.Outcome State Fault Refusal :=
  go (s.ins g { rpti := true, cycC := 1 + 2 ^ k.val, cycE := 1 + 2 ^ k.val } w.toNat (fun _ => s.copy g (2 ^ (k.val + 2)) p q))

/-- MOV Bd, Bs (R243): no flags. -/
def execMov (g : Fin 48) (d r : Fin 16) (s : State) : Host.Outcome State Fault Refusal :=
  go (s.ins g insAlu 0 (fun last =>
    .done (s.bW g d (s.bR g r roData) kResult last) none))

/-- ADD Bd, Bs (R243): Z C N V. -/
def execAdd (g : Fin 48) (d r : Fin 16) (s : State) : Host.Outcome State Fault Refusal :=
  go (s.ins g insAlu 0 (fun last =>
    s.byteResult g d true (flAdd 8 (s.bR g d roData) (s.bR g r roData) 0) last))

/-- ADC Bd, Bs (R243): Z C N V. -/
def execAdc (g : Fin 48) (d r : Fin 16) (s : State) : Host.Outcome State Fault Refusal :=
  go (s.ins g insAlu 0 (fun last =>
    s.byteResult g d true (flAdd 8 (s.bR g d roData) (s.bR g r roData) (b2n (s.flR g 1 roCarry))) last))

/-- SUB Bd, Bs (R243): Z C N V. -/
def execSub (g : Fin 48) (d r : Fin 16) (s : State) : Host.Outcome State Fault Refusal :=
  go (s.ins g insAlu 0 (fun last =>
    s.byteResult g d true (flSub 8 (s.bR g d roData) (s.bR g r roData) 0) last))

/-- SBC Bd, Bs (R243): Z C N V. -/
def execSbc (g : Fin 48) (d r : Fin 16) (s : State) : Host.Outcome State Fault Refusal :=
  go (s.ins g insAlu 0 (fun last =>
    s.byteResult g d true (flSub 8 (s.bR g d roData) (s.bR g r roData) (b2n (s.flR g 1 roCarry))) last))

/-- AND Bd, Bs (R243): Z N, V cleared. -/
def execAnd (g : Fin 48) (d r : Fin 16) (s : State) : Host.Outcome State Fault Refusal :=
  go (s.ins g insAlu 0 (fun last =>
    s.byteResult g d true (flLogic 8 ((s.bR g d roData) &&& (s.bR g r roData))) last))

/-- OR Bd, Bs (R243): Z N, V cleared. -/
def execOr (g : Fin 48) (d r : Fin 16) (s : State) : Host.Outcome State Fault Refusal :=
  go (s.ins g insAlu 0 (fun last =>
    s.byteResult g d true (flLogic 8 ((s.bR g d roData) ||| (s.bR g r roData))) last))

/-- XOR Bd, Bs (R243): Z N, V cleared. -/
def execXor (g : Fin 48) (d r : Fin 16) (s : State) : Host.Outcome State Fault Refusal :=
  go (s.ins g insAlu 0 (fun last =>
    s.byteResult g d true (flLogic 8 ((s.bR g d roData) ^^^ (s.bR g r roData))) last))

/-- CMP Bd, Bs (R243): Z C N V, flags only. -/
def execCmp (g : Fin 48) (d r : Fin 16) (s : State) : Host.Outcome State Fault Refusal :=
  go (s.ins g insAlu 0 (fun last =>
    s.byteResult g d false (flSub 8 (s.bR g d roData) (s.bR g r roData) 0) last))

/-- TST Bd, Bs (R243): Z N, V cleared, flags only. -/
def execTst (g : Fin 48) (d r : Fin 16) (s : State) : Host.Outcome State Fault Refusal :=
  go (s.ins g insAlu 0 (fun last =>
    s.byteResult g d false (flLogic 8 ((s.bR g d roData) &&& (s.bR g r roData))) last))

/-- INC Bd (R243): Z N V. -/
def execInc (g : Fin 48) (d : Fin 16) (s : State) : Host.Outcome State Fault Refusal :=
  go (s.ins g insAlu 0 (fun last =>
    s.byteResult g d true (flInc (s.bR g d roData)) last))

/-- DEC Bd (R243): Z N V. -/
def execDec (g : Fin 48) (d : Fin 16) (s : State) : Host.Outcome State Fault Refusal :=
  go (s.ins g insAlu 0 (fun last =>
    s.byteResult g d true (flDec (s.bR g d roData)) last))

/-- NEG Bd (R243): Z C N V. -/
def execNeg (g : Fin 48) (d : Fin 16) (s : State) : Host.Outcome State Fault Refusal :=
  go (s.ins g insAlu 0 (fun last =>
    s.byteResult g d true (flSub 8 0 (s.bR g d roData) 0) last))

/-- NOT Bd (R243): Z N, V cleared. -/
def execNot (g : Fin 48) (d : Fin 16) (s : State) : Host.Outcome State Fault Refusal :=
  go (s.ins g insAlu 0 (fun last =>
    s.byteResult g d true (flLogic 8 (0xFF - (s.bR g d roData))) last))

/-- SHL Bd (R243): Z C N, V cleared. -/
def execShl (g : Fin 48) (d : Fin 16) (s : State) : Host.Outcome State Fault Refusal :=
  go (s.ins g insAlu 0 (fun last =>
    s.byteResult g d true (flShl (s.bR g d roData)) last))

/-- SHR Bd (R243): Z C N, V cleared. -/
def execShr (g : Fin 48) (d : Fin 16) (s : State) : Host.Outcome State Fault Refusal :=
  go (s.ins g insAlu 0 (fun last =>
    s.byteResult g d true (flShr (s.bR g d roData)) last))

/-- ASR Bd (R243): Z C N, V cleared. -/
def execAsr (g : Fin 48) (d : Fin 16) (s : State) : Host.Outcome State Fault Refusal :=
  go (s.ins g insAlu 0 (fun last =>
    s.byteResult g d true (flAsr (s.bR g d roData)) last))

/-- ROL Bd (R243): Z C N, V cleared. -/
def execRol (g : Fin 48) (d : Fin 16) (s : State) : Host.Outcome State Fault Refusal :=
  go (s.ins g insAlu 0 (fun last =>
    s.byteResult g d true (flRol (s.bR g d roData) (s.flR g 1 roCarry)) last))

/-- ROR Bd (R243): Z C N, V cleared. -/
def execRor (g : Fin 48) (d : Fin 16) (s : State) : Host.Outcome State Fault Refusal :=
  go (s.ins g insAlu 0 (fun last =>
    s.byteResult g d true (flRor (s.bR g d roData) (s.flR g 1 roCarry)) last))

/-- SWAP Bd (R243): Z N, V cleared. -/
def execSwap (g : Fin 48) (d : Fin 16) (s : State) : Host.Outcome State Fault Refusal :=
  go (s.ins g insAlu 0 (fun last =>
    s.byteResult g d true (flLogic 8 ((s.bR g d roData) / 0x10 + (s.bR g d roData) % 0x10 * 0x10)) last))

/-- BSET Bd, #b (R243). -/
def execBset (g : Fin 48) (d : Fin 16) (b : Fin 8) (s : State) : Host.Outcome State Fault Refusal :=
  go (s.ins g insAlu 0 (fun last =>
    .done (s.bW g d ((s.bR g d roData) ||| 2 ^ b.val) kResult last) none))

/-- BCLR Bd, #b (R243). -/
def execBclr (g : Fin 48) (d : Fin 16) (b : Fin 8) (s : State) : Host.Outcome State Fault Refusal :=
  go (s.ins g insAlu 0 (fun last =>
    .done (s.bW g d ((s.bR g d roData) &&& (0xFF - 2 ^ b.val)) kResult last) none))

/-- BTST Bd, #b (R243): Z is the inverted bit. -/
def execBtst (g : Fin 48) (d : Fin 16) (b : Fin 8) (s : State) : Host.Outcome State Fault Refusal :=
  go (s.ins g insAlu 0 (fun last =>
    .done (s.flW g { z := some (!bitOf (s.bR g d roData) b) } last) none))

/-- BTGL Bd, #b (R243). -/
def execBtgl (g : Fin 48) (d : Fin 16) (b : Fin 8) (s : State) : Host.Outcome State Fault Refusal :=
  go (s.ins g insAlu 0 (fun last =>
    .done (s.bW g d ((s.bR g d roData) ^^^ 2 ^ b.val) kResult last) none))

/-- LDI Bd, #i (R243). -/
def execLdi (g : Fin 48) (d : Fin 16) (i : Byte) (s : State) : Host.Outcome State Fault Refusal :=
  go (s.ins g insAlu 0 (fun last =>
    .done (s.bW g d i.toNat kResult last) none))

/-- ADDI Bd, #i (R243): Z C N V. -/
def execAddi (g : Fin 48) (d : Fin 16) (i : Byte) (s : State) : Host.Outcome State Fault Refusal :=
  go (s.ins g insAlu 0 (fun last =>
    s.byteResult g d true (flAdd 8 (s.bR g d roData) i.toNat 0) last))

/-- SUBI Bd, #i (R243): Z C N V. -/
def execSubi (g : Fin 48) (d : Fin 16) (i : Byte) (s : State) : Host.Outcome State Fault Refusal :=
  go (s.ins g insAlu 0 (fun last =>
    s.byteResult g d true (flSub 8 (s.bR g d roData) i.toNat 0) last))

/-- ANDI Bd, #i (R243): Z N, V cleared. -/
def execAndi (g : Fin 48) (d : Fin 16) (i : Byte) (s : State) : Host.Outcome State Fault Refusal :=
  go (s.ins g insAlu 0 (fun last =>
    s.byteResult g d true (flLogic 8 ((s.bR g d roData) &&& i.toNat)) last))

/-- ORI Bd, #i (R243): Z N, V cleared. -/
def execOri (g : Fin 48) (d : Fin 16) (i : Byte) (s : State) : Host.Outcome State Fault Refusal :=
  go (s.ins g insAlu 0 (fun last =>
    s.byteResult g d true (flLogic 8 ((s.bR g d roData) ||| i.toNat)) last))

/-- XORI Bd, #i (R243): Z N, V cleared. -/
def execXori (g : Fin 48) (d : Fin 16) (i : Byte) (s : State) : Host.Outcome State Fault Refusal :=
  go (s.ins g insAlu 0 (fun last =>
    s.byteResult g d true (flLogic 8 ((s.bR g d roData) ^^^ i.toNat)) last))

/-- CMPI Bd, #i (R243): Z C N V, flags only. -/
def execCmpi (g : Fin 48) (d : Fin 16) (i : Byte) (s : State) : Host.Outcome State Fault Refusal :=
  go (s.ins g insAlu 0 (fun last =>
    s.byteResult g d false (flSub 8 (s.bR g d roData) i.toNat 0) last))

/-- ST [Pp], Bs (R243). -/
def execStPtr (g : Fin 48) (r : Fin 16) (p : Fin 8) (w : Byte) (s : State) : Host.Outcome State Fault Refusal :=
  go (s.ins g insAlu w.toNat (fun last =>
    s.storeAt g (s.pR g p roAddr) (bytesLE 1 (s.bR g r roData)) false last))

/-- ST [Pp+], Bs (R243, R244). -/
def execStPostinc (g : Fin 48) (r : Fin 16) (p : Fin 8) (w : Byte) (s : State) : Host.Outcome State Fault Refusal :=
  go (s.ins g insAlu w.toNat (fun last =>
    (s.storeAt g (s.pR g p roAddr) (bytesLE 1 (s.bR g r roData)) false last).andThen (fun t =>
      .done (t.pW g p (s.pR g p roAddr + 1) kInc last) none)))

/-- ST [−Pp], Bs (R243, R244); with p = 7 PUSH Bs, a stack access. -/
def execStPredec (g : Fin 48) (r : Fin 16) (p : Fin 8) (w : Byte) (s : State) : Host.Outcome State Fault Refusal :=
  go (s.ins g insAlu w.toNat (fun last =>
    (s.storeAt g ((s.pR g p roAddr + 0xFFFF) % 0x10000) (bytesLE 1 (s.bR g r roData)) (p = 7) last).andThen (fun t =>
      .done (t.pW g p (s.pR g p roAddr + 0xFFFF) kInc last) none)))

/-- ST [Pp+B0], Bs (R243, R244): the index is unsigned. -/
def execStIndex (g : Fin 48) (r : Fin 16) (p : Fin 8) (w : Byte) (s : State) : Host.Outcome State Fault Refusal :=
  go (s.ins g insAlu w.toNat (fun last =>
    s.storeAt g ((s.pR g p roAddr + s.bR g 0 roAddr) % 0x10000) (bytesLE 1 (s.bR g r roData)) false last))

/-- LD Bd, [Pp] (R243). -/
def execLdPtr (g : Fin 48) (d : Fin 16) (p : Fin 8) (w : Byte) (s : State) : Host.Outcome State Fault Refusal :=
  go (s.ins g insAlu w.toNat (fun last =>
    s.loadTo g (s.pR g p roAddr) 1 [d] false last))

/-- LD Bd, [Pp+] (R243, R244); with p = 7 POP Bd, a stack access. The increment is written first (log entry 10). -/
def execLdPostinc (g : Fin 48) (d : Fin 16) (p : Fin 8) (w : Byte) (s : State) : Host.Outcome State Fault Refusal :=
  go (s.ins g insAlu w.toNat (fun last =>
    (s.pW g p (s.pR g p roAddr + 1) kInc last).loadTo g (s.pR g p roAddr) 1 [d] (p = 7) last))

/-- LD Bd, [−Pp] (R243, R244). -/
def execLdPredec (g : Fin 48) (d : Fin 16) (p : Fin 8) (w : Byte) (s : State) : Host.Outcome State Fault Refusal :=
  go (s.ins g insAlu w.toNat (fun last =>
    (s.pW g p (s.pR g p roAddr + 0xFFFF) kInc last).loadTo g ((s.pR g p roAddr + 0xFFFF) % 0x10000) 1 [d] false last))

/-- LD Bd, [Pp+B0] (R243, R244). -/
def execLdIndex (g : Fin 48) (d : Fin 16) (p : Fin 8) (w : Byte) (s : State) : Host.Outcome State Fault Refusal :=
  go (s.ins g insAlu w.toNat (fun last =>
    s.loadTo g ((s.pR g p roAddr + s.bR g 0 roAddr) % 0x10000) 1 [d] false last))

/-- LOAD_DATA_ARRIVAL (R240, R248, R249): the data of the load in flight arrives; its distance counts from here. -/
def execLoadDataArrival (g : Fin 48) (w : Byte) (s : State) : Host.Outcome State Fault Refusal :=
  go (s.arrive g w.toNat)

/-- XCH Bd, [Pp] (R243, R245). -/
def execXch (g : Fin 48) (d : Fin 16) (p : Fin 8) (w : Byte) (s : State) : Host.Outcome State Fault Refusal :=
  go (s.ins g insTwo w.toNat (fun last =>
    s.atomic g (s.pR g p roAddr) d false last))

/-- TAS Bd, [Pp] (R243, R245). -/
def execTas (g : Fin 48) (d : Fin 16) (p : Fin 8) (w : Byte) (s : State) : Host.Outcome State Fault Refusal :=
  go (s.ins g insTwo w.toNat (fun last =>
    s.atomic g (s.pR g p roAddr) d true last))

/-- STD [Pp+#u], Bs (R243, R244). -/
def execStd (g : Fin 48) (r : Fin 16) (p : Fin 8) (u : Fin 16) (w : Byte) (s : State) :
    Host.Outcome State Fault Refusal :=
  go (s.ins g insAlu w.toNat (fun last =>
    s.storeAt g ((s.pR g p roAddr + u) % 0x10000) (bytesLE 1 (s.bR g r roData)) false last))

/-- LDD Bd, [Pp+#u] (R243, R244). -/
def execLdd (g : Fin 48) (d : Fin 16) (p : Fin 8) (u : Fin 16) (w : Byte) (s : State) :
    Host.Outcome State Fault Refusal :=
  go (s.ins g insAlu w.toNat (fun last =>
    s.loadTo g ((s.pR g p roAddr + u) % 0x10000) 1 [d] false last))

/-- MOVP Pp, Pq (R243). -/
def execMovp (g : Fin 48) (p q : Fin 8) (s : State) : Host.Outcome State Fault Refusal :=
  go (s.ins g insAlu 0 (fun last =>
    .done (s.pW g p (s.pR g q roData) kResult last) none))

/-- ADDP Pp, Pq (R243): Z C N V of 16 bits. -/
def execAddp (g : Fin 48) (p q : Fin 8) (s : State) : Host.Outcome State Fault Refusal :=
  go (s.ins g insAlu 0 (fun last =>
    s.ptrResult g p true (flAdd 16 (s.pR g p roData) (s.pR g q roData) 0) last))

/-- SUBP Pp, Pq (R243): Z C N V of 16 bits. -/
def execSubp (g : Fin 48) (p q : Fin 8) (s : State) : Host.Outcome State Fault Refusal :=
  go (s.ins g insAlu 0 (fun last =>
    s.ptrResult g p true (flSub 16 (s.pR g p roData) (s.pR g q roData) 0) last))

/-- CMPP Pp, Pq (R243): Z C N V of 16 bits, flags only. -/
def execCmpp (g : Fin 48) (p q : Fin 8) (s : State) : Host.Outcome State Fault Refusal :=
  go (s.ins g insAlu 0 (fun last =>
    s.ptrResult g p false (flSub 16 (s.pR g p roData) (s.pR g q roData) 0) last))

/-- ADDPB Pp, Bs (R243): Z C of 16 bits. -/
def execAddpb (g : Fin 48) (p : Fin 8) (r : Fin 16) (s : State) : Host.Outcome State Fault Refusal :=
  go (s.ins g insAlu 0 (fun last =>
    s.ptrResult g p true (flAddpb (s.pR g p roData) (s.bR g r roData)) last))

/-- INCP Pp (R243): Z of 16 bits. -/
def execIncp (g : Fin 48) (p : Fin 8) (s : State) : Host.Outcome State Fault Refusal :=
  go (s.ins g insAlu 0 (fun last =>
    s.ptrResult g p true (flIncp (s.pR g p roData)) last))

/-- DECP Pp (R243): Z of 16 bits. -/
def execDecp (g : Fin 48) (p : Fin 8) (s : State) : Host.Outcome State Fault Refusal :=
  go (s.ins g insAlu 0 (fun last =>
    s.ptrResult g p true (flDecp (s.pR g p roData)) last))

/-- LDW Pp, [Pq] (R243, R244): address bit 0 is ignored. -/
def execLdw (g : Fin 48) (p q : Fin 8) (w : Byte) (s : State) : Host.Outcome State Fault Refusal :=
  go (s.ins g insAlu w.toNat (fun last =>
    s.loadTo g (alignTo 2 (s.pR g q roAddr)) 2 [2 * p, 2 * p + 1] false last))

/-- STW [Pq], Pp (R243, R244). -/
def execStw (g : Fin 48) (p q : Fin 8) (w : Byte) (s : State) : Host.Outcome State Fault Refusal :=
  go (s.ins g insAlu w.toNat (fun last =>
    s.storeAt g (alignTo 2 (s.pR g q roAddr)) (bytesLE 2 (s.pR g p roData)) false last))

/-- LDW Pp, [Pq+] (R243, R244). The increment is written first (log entry 10). -/
def execLdwPostinc (g : Fin 48) (p q : Fin 8) (w : Byte) (s : State) : Host.Outcome State Fault Refusal :=
  go (s.ins g insAlu w.toNat (fun last =>
    (s.pW g q (s.pR g q roAddr + 2) kInc last).loadTo g (alignTo 2 (s.pR g q roAddr)) 2 [2 * p, 2 * p + 1] false last))

/-- STW [Pq+], Pp (R243, R244). -/
def execStwPostinc (g : Fin 48) (p q : Fin 8) (w : Byte) (s : State) : Host.Outcome State Fault Refusal :=
  go (s.ins g insAlu w.toNat (fun last =>
    (s.storeAt g (alignTo 2 (s.pR g q roAddr)) (bytesLE 2 (s.pR g p roData)) false last).andThen (fun t =>
      .done (t.pW g q (s.pR g q roAddr + 2) kInc last) none)))

/-- PUSHP Pp (R243, R244). -/
def execPushp (g : Fin 48) (p : Fin 8) (s : State) : Host.Outcome State Fault Refusal :=
  go (s.ins g insAlu 0 (fun last =>
    s.push16 g (s.pR g p roData) last))

/-- POPP Pp (R243, R244). The stack pointer is written first (log entry 10). -/
def execPopp (g : Fin 48) (p : Fin 8) (s : State) : Host.Outcome State Fault Refusal :=
  go (s.ins g insAlu 0 (fun last =>
    (s.pW g 7 (s.pR g 7 roAddr + 2) kInc last).loadTo g (alignTo 2 (s.pR g 7 roAddr)) 2 [2 * p, 2 * p + 1] true last))

/-- MULU Pp, Bs (R243). -/
def execMulu (g : Fin 48) (p : Fin 8) (r : Fin 16) (s : State) : Host.Outcome State Fault Refusal :=
  go (s.ins g insAlu 0 (fun last =>
    let x := flMulu (s.bR g (2 * p) roData) (s.bR g r roData)
    .done ((s.pW g p x.1 kMul last).flW g x.2 last) none))

/-- MULS Pp, Bs (R243). -/
def execMuls (g : Fin 48) (p : Fin 8) (r : Fin 16) (s : State) : Host.Outcome State Fault Refusal :=
  go (s.ins g insAlu 0 (fun last =>
    let x := flMuls (s.bR g (2 * p) roData) (s.bR g r roData)
    .done ((s.pW g p x.1 kMul last).flW g x.2 last) none))

/-- Bcc rel (R242, R243): in compact mode a taken branch takes one cycle more. -/
def execBcc (g : Fin 48) (c : Fin 15) (rel : Byte) (s : State) : Host.Outcome State Fault Refusal :=
  let taken := condHolds c (s.flR g 0 roBranch) (s.flR g 1 roBranch) (s.flR g 2 roBranch) (s.flR g 3 roBranch)
  go (s.ins g { slot := false, cycC := if taken then 2 else 1 } 0 (fun _ => .done s (some (s.relTarget g rel.toNat, taken))))

/-- BSR rel (R243, R244). -/
def execBsr (g : Fin 48) (rel : Byte) (s : State) : Host.Outcome State Fault Refusal :=
  go (s.ins g insJump 0 (fun last =>
    s.callTo g 1 (s.relTarget g rel.toNat) last))

/-- EMIT Bt, Pp, Pq (R243, R262): passes a command to the reflex executor; it waits while its crew's slot is occupied. -/
def execEmit (g : Fin 48) (pwm : Bool) (t : Fin 16) (p q : Fin 8) (w : Byte) (s : State) :
    Host.Outcome State Fault Refusal :=
  go (s.ins g insOne w.toNat (fun _ =>
    s.emit g pwm (s.bR g t roData) (s.pR g p roData + 0x10000 * s.pR g q roData)))

/-- EXECUTOR_WRITE (R262, R350): the executor serves the oldest command waiting. -/
def execExecutorWrite (s : State) : Host.Outcome State Fault Refusal :=
  match s.exec with
  | [] => go s
  | r :: l => go ({ s with exec := l }.executorServe r)

/-- POST Bt, Pp, Pq (R243, R261): C is set where the cue is dropped or the engine is not present. -/
def execPost (g : Fin 48) (t : Fin 16) (p q : Fin 8) (w : Byte) (s : State) : Host.Outcome State Fault Refusal :=
  go (s.ins g insOne w.toNat (fun last =>
    s.post g (s.bR g t roData) (s.pR g p roData) (s.pR g q roData) last))

/-- CUE_DISPATCH (R259): the next cue for the engine is dispatched where it stands at a boundary. -/
def execCueDispatch (g : Fin 48) (s : State) : Host.Outcome State Fault Refusal :=
  go (s.dispatch g)

/-- ENGINE_TIMER_EXPIRE (R240): a running timer reaches 0. -/
def execEngineTimerExpire (g : Fin 48) (n : Fin 4) (s : State) : Host.Outcome State Fault Refusal :=
  go (s.tmrExpire g n)

/-- The engine executes: its crew's clock runs and it has a program, a handler in progress and no fault (R237, R259, R269). -/
def State.engRuns (s : State) (g : Nat) : Bool := s.clocked (3 + g / 8) && (s.eng g).running

/-- TIMER_CTL_WRITE (R240): the engine writes TMRn_CTL. -/
def execTimerCtlWrite (g : Fin 48) (n : Fin 4) (b : Byte) (s : State) : Host.Outcome State Fault Refusal :=
  go (if s.engRuns g then s.tmrCtl g n b.toNat else s)

/-- BANK_COMMIT_WRITE (R239): a write of 0xF019 or 0xF01E by the instruction just ended. -/
def execBankCommitWrite (g : Fin 48) (unit : Bool) (b : Byte) (s : State) : Host.Outcome State Fault Refusal :=
  go (if s.engRuns g then s.privWrite g (if unit then 0xF01E else 0xF019) b.toNat ((s.eng g).cyc - 1) else s)

/-- SLATE_LATCH_READ (R240): a read of 0xF040. -/
def execSlateLatchRead (g : Fin 48) (s : State) : Host.Outcome State Fault Refusal :=
  go (if s.engRuns g then (s.privRead g 0xF040).2 else s)

/-- ENGINE_BEAT (R271): the engine writes ENG_HB.BEAT = 1. -/
def execEngineBeat (g : Fin 48) (s : State) : Host.Outcome State Fault Refusal :=
  go (if s.engRuns g then s.beat g else s)

/-- CREW_CLOCK_GATE (R269): in Idle the clock of a quiet crew is gated. -/
def execCrewClockGate (c : Fin 6) (s : State) : Host.Outcome State Fault Refusal :=
  go (if s.mayGate c then { s with gated := c.val :: s.gated } else s)

end Sys2Proof.Machine
end

