-- ==== Sys2Proof/Machine/Iso.lean ====
section
/-! DEFINITION. The isolated body-builder I/O (R452 to R464): the barrier frames, the field side with its safe state, adoption
and configuration, inputs, outputs and faults. -/

namespace Sys2Proof.Machine

/-- ISO_STAT.STATE: 0 NOT_ADOPTED, 1 CONFIGURING, 2 RUN. -/
def State.isoState (s : State) : Nat := s.f ISO_STAT_STATE

/-- A cue of ISO to its OWNER. -/
def State.isoCue (s : State) (code arg data : Nat) : State := s.unitCue (s.f ISO_ACCESS_OWNER) 0x29 code arg data

/-- ISO_STAT.FAULT takes a value; a rise sets ISO_FAULT, is stamped and cued (R464). -/
def State.isoFault (s : State) (v : Bool) : State :=
  let rise := v && !s.on ISO_STAT_FAULT
  let s := s.setF ISO_STAT_FAULT (b2n v)
  if rise then
    ((s.raise ISO_FLAG_ISO_FAULT ISO_FLAG_CNT_COUNT).stampUnit 0x29 0x02 0).isoCue 0x02 (Config.cueOpen 7 0x2902 1 % 0x10000)
      (Config.cueOpen 7 0x2902 2)
  else s

/-- What an output of the field side drives at its terminal (R453, R457). -/
def State.boDriven (s : State) (j : Nat) : Bool := s.iso.power && bitOf s.iso.out j && !bitOf s.iso.thermal j

/-! The barrier (R455 to R458) -/

/-- The 64 bits of a frame (R455): KIND, SEQ, bits 47 to 32 and 31 to 16, and the CRC-16 of bits 63 to 16. -/
def isoWord (kind seq hi lo : Nat) : BitVec 64 :=
  let w := kind % 4 * 2 ^ 46 + seq % 0x10 * 2 ^ 42 + hi % 0x10000 * 2 ^ 16 + lo % 0x10000
  BitVec.ofNat 64 (w * 2 ^ 16 + crc16 0xFFFF (bytesBE 6 w))

/-- KIND of a frame. -/
def isoKind (w : BitVec 64) : Nat := w.toNat / 2 ^ 62

/-- SEQ. -/
def isoSeq (w : BitVec 64) : Nat := w.toNat / 2 ^ 58 % 0x10

/-- Bits 47 to 32: OUT, SAFE or IN. -/
def isoHi (w : BitVec 64) : Nat := w.toNat / 2 ^ 32 % 0x10000

/-- Bits 31 to 16: the complement of OUT, GEN with TIMEOUT, or what the field side reports. -/
def isoLo (w : BitVec 64) : Nat := w.toNat / 2 ^ 16 % 0x10000

/-- The CRC of a frame is correct. -/
def isoCrcOk (w : BitVec 64) : Bool := w.toNat % 0x10000 = crc16 0xFFFF (bytesBE 6 (w.toNat / 2 ^ 16))

/-- A DATA frame (R455). -/
def isoData (seq out : Nat) : BitVec 64 := isoWord 0 seq out (0xFFFF - out % 0x10000)

/-- A CONFIG frame. -/
def isoConfig (seq safe gen timeout : Nat) : BitVec 64 := isoWord 1 seq safe (gen % 0x10 * 0x100 + timeout % 0x100)

/-- A frame of the field side. -/
def isoField (seq levels gen : Nat) (safeActive fault : Bool) : BitVec 64 :=
  isoWord 2 seq levels (gen % 0x10 * 0x10 + b2n safeActive * 2 + b2n fault)

/-- CFG_GEN of a frame of the field side. -/
def isoGen (w : BitVec 64) : Nat := isoLo w / 0x10 % 0x10

/-- SAFE_ACTIVE of a frame of the field side. -/
def isoSafeActive (w : BitVec 64) : Bool := bitOf (isoLo w) 1

/-- The frame that the logic side sends: its pending CONFIG, else DATA while it accepts keep-alives; while FORCE_SAFE is 1 DATA
carries SAFE (R458, R463). -/
def State.isoLogicFrame (s : State) : Option (BitVec 64) :=
  let x := s.iso
  if x.cfgPend then some (isoConfig x.seq x.cSafe x.gen x.cTimeout)
  else if x.ka then some (isoData x.seq (if s.on ISO_CTL_FORCE_SAFE then x.cSafe else x.copy))
  else none

/-- BARRIER_FRAME_SEND (R455, R462, R464): the logic side, or the field side with the levels of its inputs and the outputs that
limit their current, puts its frame on the barrier. -/
def execBarrierFrameSend (field : Bool) (levels limit : BitVec 16) (s : State) : Host.Outcome State Fault Refusal :=
  let x := s.iso
  go (if !s.fullPart then s
    else if field then
      let fault := limit ≠ 0 || x.thermal ≠ 0 || !x.power
      { s with iso := { x with fSeq := (x.fSeq + 1) % 16,
                               toLogic := some (isoField x.fSeq levels.toNat (if x.configured then x.fGen else 0) x.safeActive
                                 fault) } }
    else match s.isoLogicFrame with
      | some f => { s with iso := { x with seq := (x.seq + 1) % 16, toField := some f } }
      | none => s)

/-- The field side accepts a frame of a kind: it has power, the CRC (and for DATA the complement) is right, and SEQ lies 1 to 4 above
the last accepted (R456). -/
def State.isoAccepts (s : State) (kind : Nat) (w : BitVec 64) : Bool :=
  let d := (isoSeq w + 16 - s.iso.last) % 16
  s.iso.power && isoKind w = kind && isoCrcOk w && 1 ≤ d && d ≤ 4 && (kind = 1 || isoLo w = 0xFFFF - isoHi w)

/-- BARRIER_DATA_FRAME (R456, R457): the DATA frame on the barrier arrives with the bits of `err` corrupted. Accepted by a configured
field side it is applied and ends the safe state. -/
def execBarrierDataFrame (err : BitVec 64) (s : State) : Host.Outcome State Fault Refusal :=
  go (match s.iso.toField with
    | some f =>
      if isoKind f ≠ 0 then s
      else
        let w := f ^^^ err
        let x : Iso := { s.iso with toField := none }
        if s.isoAccepts 0 w ∧ x.configured then
          { s with iso := { x with last := isoSeq w, out := isoHi w, safeActive := false } }
        else { s with iso := x }
    | none => s)

/-- BARRIER_CONFIG_FRAME (R456): the CONFIG frame on the barrier arrives with the bits of `err` corrupted; accepted it is stored. -/
def execBarrierConfigFrame (err : BitVec 64) (s : State) : Host.Outcome State Fault Refusal :=
  go (match s.iso.toField with
    | some f =>
      if isoKind f ≠ 1 then s
      else
        let w := f ^^^ err
        let x : Iso := { s.iso with toField := none }
        if s.isoAccepts 1 w then
          { s with iso := { x with last := isoSeq w, configured := true, safe := isoHi w, timeout := isoLo w % 0x100,
                                   fGen := isoLo w / 0x100 % 0x10 } }
        else { s with iso := x }
    | none => s)

/-- A CONFIG frame with the Script's SAFE and TIMEOUT and the next GEN is due (R459): GEN runs 1 to 15. -/
def State.isoConfigure (s : State) : State :=
  let x := s.iso
  { s.setF ISO_STAT_STATE 1 with iso := { x with cfgPend := true, cSafe := s.f ISO_CFG_SAFE, cTimeout := s.f ISO_CFG_TIMEOUT,
                                                 gen := if x.gen < 15 then x.gen + 1 else 1, counted := false } }

/-- The run of an input. -/
def State.isoRun (s : State) (j : Nat) : IsoRun := tget (fun _ => {}) s.iso.runs j

/-- One accepted frame's level of an input (R462): after FILT of frames that carry it, a new level shows in ISO_IN, and is
stamped with the arrival of the first and cued where CUE_MASK names the input. -/
def State.isoInput (s : State) (j : Nat) (lvl : Bool) : State :=
  let x := s.isoRun j
  let x : IsoRun := if x.run ≠ 0 ∧ x.lvl = lvl then { x with run := min (x.run + 1) 255 }
    else { run := 1, lvl := lvl, first := s.islandSlate 29 }
  let s := { s with iso := { s.iso with runs := tset (fun _ => {}) s.iso.runs j x } }
  if x.run < 10 * s.f ISO_IN_CFG_FILT ∨ s.on ⟨ISO_IN, j, 1⟩ = lvl then s
  else
    let s := s.setF ⟨ISO_IN, j, 1⟩ (b2n lvl)
    if !bitOf (s.f ISO_IN_CFG_CUE_MASK) j then s
    else
      let s := s.offerRec { slate := x.first, kind := 0x01, index := 0x29, unit := 0x29, event := 0x01, island := 29,
                            data := BitVec.ofNat 128 (b2n lvl) }
      if cueSelects (s.f ISO_IN_CFG_CUE) lvl then s.isoCue 0x01 j (b2n lvl) else s

/-- What the module does with an accepted field frame while IX is adopted (R459, R460, R462, R464). -/
def State.isoReport (s : State) (f : BitVec 64) : State :=
  let s := (List.range 16).foldl (fun s j => s.isoInput j (bitOf (isoHi f) j)) s
  let s := ((s.setF ISO_STAT_CFG_GEN (isoGen f)).setF ISO_STAT_SAFE_ACTIVE (b2n (isoSafeActive f))).isoFault (bitOf (isoLo f) 0)
  let x := s.iso
  if x.cfgPend ∧ isoGen f = x.gen then
    let s := { s.setF ISO_STAT_STATE 2 with iso := { x with cfgPend := false, counted := true, adopting := false } }
    if x.adopting then s.isoCue 0x03 (Config.cueOpen 7 0x2903 1 % 0x10000) (b2n (isoSafeActive f)) else s
  else if x.counted ∧ isoGen f = 0 then
    let s := { (s.setF ISO_OUT_OUT 0) with iso := { x with copy := 0 } }
    s.isoConfigure.isoCue 0x04 (Config.cueOpen 7 0x2904 1 % 0x10000) (Config.cueOpen 7 0x2904 2)
  else s

/-- BARRIER_FIELD_FRAME (R458, R462, R464): the field side's frame arrives with the bits of `err` corrupted; one with a correct CRC is
valid, and SAFE_ACTIVE 1 replaces the logic side's copy of OUT with SAFE. -/
def execBarrierFieldFrame (err : BitVec 64) (s : State) : Host.Outcome State Fault Refusal :=
  go (match s.iso.toLogic with
    | some f =>
      let w := f ^^^ err
      let s := { s with iso := { s.iso with toLogic := none } }
      if !isoCrcOk w ∨ isoKind w ≠ 2 then s
      else
        let copy := if isoSafeActive w then s.iso.cSafe else s.iso.copy
        let s := { s with iso := { s.iso with silent := false, copy := copy } }
        if s.isoState = 0 then s else s.isoReport w
    | none => s)

/-- FIELD_SAFE_TIMEOUT (R457): no DATA frame for TIMEOUT ms on a configured field side. -/
def execFieldSafeTimeout (s : State) : Host.Outcome State Fault Refusal :=
  go (if s.iso.power ∧ s.iso.configured then
    { s with iso := { s.iso with out := s.iso.safe, safeActive := true } } else s)

/-- ISO_KEEPALIVE_LOSS (R458). -/
def execIsoKeepaliveLoss (s : State) : Host.Outcome State Fault Refusal := go { s with iso := { s.iso with ka := false } }

/-! Adoption, outputs, faults (R459, R463, R464) -/

/-- ISO_ADOPT (R459): after every power die; the copy of OUT is read back, the field side is configured. A field side that is silent
shows as FAULT (R464). -/
def execIsoAdopt (s : State) : Host.Outcome State Fault Refusal :=
  let ready := s.boot.phase = .run || (s.boot.phase = .adopt &&
    s.dieLinks.all (fun n => (s.lnk n).adopted || !s.kaEn n || !(s.lnk n).trained))
  go (if !s.fullPart ∨ s.isoState ≠ 0 ∨ !ready then s
    else
      let e := ((s.lnk 14).epoch + 1) % 0x100
      let s := (s.setLnk 14 { s.lnk 14 with adopted := true, trained := true, epoch := e, seq := 0 }).setDie 14
        { s.die 14 with st := .adopted, epoch := e, lastSeq := 0 }
      let s := { s.setF ISO_OUT_OUT s.iso.copy with iso := { s.iso with adopting := true } }
      if s.iso.silent then s.isoConfigure.isoFault true else s.isoConfigure)

/-- A write of ISO_OUT (R463). -/
def State.isoOutWrite (s : State) (init v : Nat) : State :=
  if !s.fullPart then s.absentWrite 0x29 0
  else
    let may := isStr init || (((init ≠ 0 && s.f ISO_ACCESS_OWNER = init) ||
      (isSession init && bitOf (s.f ISO_ACCESS_ZRT_GRANT) (init - 0x40))) && !s.on ISO_CTL_FORCE_SAFE && s.isoState ≠ 0)
    if !may then (s.incSat ISO_REFUSE_COUNT).setF ISO_REFUSE_LAST_INIT init
    else
      let s := s.setF ISO_OUT_OUT v
      if s.isoState = 0 then s else { s with iso := { s.iso with copy := v % 0x10000 } }

/-- ISO_OUT_WRITE (R463). -/
def execIsoOutWrite (init : Byte) (v : BitVec 16) (s : State) : Host.Outcome State Fault Refusal :=
  go (s.isoOutWrite init.toNat v.toNat)

/-- A write of ISO_CTL (R463, R468). -/
def State.isoCtlWrite (s : State) (init : Nat) (v : Bool) : State :=
  if !s.fullPart then s.absentWrite 0x29 0
  else s.strWrite init ISO_CTL (fun s => s.setF ISO_CTL_FORCE_SAFE (b2n v))

/-- ISO_FORCE_SAFE (R463). -/
def execIsoForceSafe (init : Byte) (v : Bool) (s : State) : Host.Outcome State Fault Refusal := go (s.isoCtlWrite init.toNat v)

/-- ISO_FIELD_SILENT (R464): no valid field frame for 1 ms. -/
def execIsoFieldSilent (s : State) : Host.Outcome State Fault Refusal :=
  go (if !s.fullPart then s
    else
      let s := { s with iso := { s.iso with silent := true } }
      if s.isoState = 0 then s else (s.setF ISO_IN_IN 0).isoFault true)

/-- BO_THERMAL_SHUTDOWN (R453): the output opens; the next field frame reports FAULT. -/
def execBoThermalShutdown (j : Fin 16) (s : State) : Host.Outcome State Fault Refusal :=
  go (if s.fullPart ∧ s.iso.power ∧ !bitOf s.iso.thermal j then
    { s with iso := { s.iso with thermal := s.iso.thermal + 2 ^ j.val } } else s)

/-- BO_THERMAL_RESTART (R453). -/
def execBoThermalRestart (j : Fin 16) (s : State) : Host.Outcome State Fault Refusal :=
  go (if bitOf s.iso.thermal j then { s with iso := { s.iso with thermal := s.iso.thermal - 2 ^ j.val } } else s)

/-- BB_SUPPLY_LOSS (R457): every output off, the configuration lost. -/
def execBbSupplyLoss (s : State) : Host.Outcome State Fault Refusal :=
  go (if s.fullPart then
    { s with iso := { s.iso with power := false, configured := false, out := 0, fGen := 0, safeActive := false, thermal := 0 } }
    else s)

/-- BB_SUPPLY_RESTORE (R456, R457). -/
def execBbSupplyRestore (s : State) : Host.Outcome State Fault Refusal :=
  go (if !s.fullPart ∨ s.iso.power then s
    else { s with iso := { s.iso with power := true, configured := false, out := 0, fGen := 0, safeActive := false, thermal := 0,
                                      last := 0 } })

end Sys2Proof.Machine
end

