-- ==== Sys2Proof/Machine/Power.lean ====
section
/-! DEFINITION. Supplies and bands (R65 to R74, R518), the power states with their entries, votes, refusals and wakes (R75 to
R92), the resynchronisation of crossings (R98), and the release of a crew (R237). -/

namespace Sys2Proof.Machine

/-! Feeds and bands -/

/-- A threshold of the part within its range of R72 (log entry 17): the lowest value and the width of the range in mV. -/
def threshold (k lo w : Nat) : Nat := lo + Config.trim k % (w + 1)

/-- Load dump, leaving, by class. -/
def thrDumpFall (c24 : Bool) : Nat := if c24 then threshold 2 31500 1500 else threshold 0 17500 1000
/-- Load dump, entering; not below the leaving threshold. -/
def thrDumpRise (c24 : Bool) : Nat := max (thrDumpFall c24) (if c24 then threshold 3 32000 1500 else threshold 1 18000 1000)
/-- Low, entering. -/
def thrLowFall (c24 : Bool) : Nat := if c24 then threshold 6 8500 500 else threshold 4 5600 400
/-- Low, leaving. -/
def thrLowRise (c24 : Bool) : Nat := max (thrLowFall c24) (if c24 then threshold 7 9000 500 else threshold 5 6000 400)
/-- Logic brown-out, falling. -/
def thrBrownFall : Nat := threshold 8 3200 300
/-- Logic brown-out, rising. -/
def thrBrownRise : Nat := threshold 9 3900 400
/-- Die undervoltage, falling. -/
def thrDieFall : Nat := threshold 10 2600 400
/-- Die undervoltage, rising. -/
def thrDieRise : Nat := threshold 11 3300 400
/-- Power-on reset release. -/
def thrPorRelease : Nat := threshold 12 3900 400

/-- The supply class in force (R70). -/
def State.class24 (s : State) : Bool := s.on PWR_CFG_SYS24

/-- The band that VBAT (mV) leads to from a band, a band being entered at its falling and left at its rising threshold (R71,
R72): 0 Normal, 1 Low, 2 Load dump. -/
def bandFrom (c24 : Bool) (cur v : Nat) : Nat :=
  if (if cur = 2 then thrDumpFall c24 ≤ v else thrDumpRise c24 < v) then 2
  else if v < (if cur = 1 then thrLowRise c24 else thrLowFall c24) then 1
  else 0

/-- The band that VBAT is placed in without a band before it (R518). -/
def bandPlaced (c24 : Bool) (v : Nat) : Nat :=
  if thrDumpRise c24 < v then 2 else if v < thrLowRise c24 then 1 else 0

/-- The boost controller pauses in Load dump (R71) and while its die is parked. -/
def State.boostPause (s : State) : State :=
  if s.diePresent 13 then
    let s := s.setF SOL_BST_STAT_PAUSED (b2n (s.f PWR_FEED_STAT_BAND = 2 || (s.die 13).parked))
    s.setVbst (s.f SOL_BST_STAT_V_BST)
  else s

/-- A band is entered: shown, flagged, recorded (R71, R283). Outside Normal the captures that run become SUPPRESSED and the open-load
windows that run do not count (R140, R161). -/
def State.bandEnter (s : State) (b : Nat) : State :=
  let s := s.setF PWR_FEED_STAT_BAND b
  let s := if b = 1 then s.raise PWR_FEED_FLAG_LOW PWR_FEED_FLAG_CNT_COUNT
    else if b = 2 then s.raise PWR_FEED_FLAG_LOAD_DUMP PWR_FEED_FLAG_CNT_COUNT else s
  let s := if b = 0 then s else (List.range 132).foldl (fun s c =>
    if s.driven c then s.setChan c { s.chan c with capSup := (s.chan c).capSup || (s.chan c).capRun, winDirty := true } else s) s
  (s.stampPwr 1 0x05 b).boostPause

/-- VBAT is placed in a band at the release of a reset (R518): a start in Normal writes nothing. -/
def State.bandPlace (s : State) (v : Nat) : State :=
  let b := bandPlaced s.class24 v
  if b = 0 then (s.setF PWR_FEED_STAT_BAND 0).boostPause else s.bandEnter b

/-- The band is placed again when a Script changes the class (R518). -/
def State.bandReplace (s : State) (v : Nat) : State :=
  let b := bandPlaced s.class24 v
  if b = s.f PWR_FEED_STAT_BAND then s else s.bandEnter b

/-- The CONDUCT bit of a feed group. -/
def feedConduct (g : Nat) : RF := if g = 0 then PWR_FEED_STAT_A_CONDUCT else PWR_FEED_STAT_B_CONDUCT

/-- FEED_GROUP_BLOCK (R65, R66). -/
def execFeedGroupBlock (g : Fin 2) (s : State) : Host.Outcome State Fault Refusal :=
  let s := s.setF (feedConduct g) 0
  let s := s.raise (if g.val = 0 then PWR_FEED_FLAG_A_LOSS else PWR_FEED_FLAG_B_LOSS) PWR_FEED_FLAG_CNT_COUNT
  go (s.stampPwr 1 0x06 g)

/-- FEED_GROUP_CONDUCT (R65). -/
def execFeedGroupConduct (g : Fin 2) (s : State) : Host.Outcome State Fault Refusal := go (s.setF (feedConduct g) 1)

/-- Dies whose supply has passed the rising threshold of die undervoltage have left it (R72, R73). -/
def State.dieRise (s : State) (v : Nat) : State :=
  if v ≤ thrDieRise then s
  else (List.range 14).foldl (fun s n => if (s.die n).uv then s.setDie n { s.die n with uv := false } else s) s

/-- FEED_MEASURE (R69): voltages in mV, currents in 10 mA, and which stages conduct. -/
def execFeedMeasure (va ia vb ib : BitVec 16) (conduct : BitVec 2) (s : State) : Host.Outcome State Fault Refusal :=
  let low := thrLowFall s.class24
  let s := ((s.measUpdate 0x60 va.toNat).measUpdate 0x61 ia.toNat).measUpdate 0x62 vb.toNat
  let s := s.measUpdate 0x63 ib.toNat
  let s := (s.setF PWR_FEED_STAT_A_OK (b2n (low < va.toNat))).setF PWR_FEED_STAT_B_OK (b2n (low < vb.toNat))
  let s := (s.setF PWR_FEED_STAT_A_CONDUCT (b2n (conduct.getLsbD 0))).setF PWR_FEED_STAT_B_CONDUCT (b2n (conduct.getLsbD 1))
  go (s.dieRise (max va.toNat vb.toNat))

/-- BAND_CHANGE (R71, R72): VBAT in mV crosses a band threshold. -/
def execBandChange (vbat : BitVec 16) (s : State) : Host.Outcome State Fault Refusal :=
  let b := bandFrom s.class24 (s.f PWR_FEED_STAT_BAND) vbat.toNat
  go (if b = s.f PWR_FEED_STAT_BAND then s else s.bandEnter b)

/-- BROWNOUT_RESET (R74): VBAT in mV falls below the logic brown-out threshold. -/
def execBrownoutReset (vbat : BitVec 16) (s : State) : Host.Outcome State Fault Refusal :=
  go (if s.boot.por ∨ thrBrownFall ≤ vbat.toNat then s
  else
    let s := s.fullReset 6 0 0
    { s with boot := { s.boot with waitVbat := true } }.raise PWR_FEED_FLAG_BROWNOUT PWR_FEED_FLAG_CNT_COUNT)

/-- DIE_UNDERVOLTAGE (R71 to R73): VBAT in mV falls below a die's undervoltage threshold; the die is all off and has lost what it held,
and, its supply back above the rising threshold, waits for adoption. -/
def execDieUndervoltage (x : DieSupply) (s : State) : Host.Outcome State Fault Refusal :=
  go (if !s.diePresent x.link ∨ thrDieFall ≤ x.vbat.toNat then s
  else
    let s := s.keepCopy x.link
    let s := (linkChans x.link).foldl (fun s c => s.setDieCh c {}) (s.setDie x.link { lost := true, uv := true })
    let s := s.setLnk x.link { s.lnk x.link with adopted := false, trained := false, tx := [] }
    let s := if x.link.val = 13 then { s with boost := {} } else s
    (s.setF (dieStateRF x.link) 0).dieClock x.link false)

/-! Crew release -/

/-- A die that this start has still to adopt: its link trained, its KA_EN 1 (R113 to R115). -/
def State.adoptLeft (s : State) : Bool := s.dieLinks.any (fun n => (s.lnk n).trained && s.kaEn n && !(s.lnk n).adopted)

/-- The pending records that the flush of a full reset left are archived once its boot reaches Run (R285). -/
def State.warmArchive (s : State) : State := if s.boot.warm ∧ s.dly.pend ≠ [] then s.archiveRequest else s

/-- CREW_RELEASE (R113, R114, R237): once the last die is adopted and the ledger runs, engines start and the beat of a supervised crew
is expected (R472); when every crew of the part is released the module is in Run. -/
def execCrewRelease (c : Fin 6) (s : State) : Host.Outcome State Fault Refusal :=
  go (if s.boot.phase ≠ .adopt ∨ !s.crewPresent c ∨ s.clocked (3 + c.val) ∨ s.adoptLeft ∨ !s.on LDG_STAT_RUNNING then s
  else
    let s := (s.crewRelease c).setF ⟨PWR_ISLAND_STAT, 3 + c.val, 1⟩ 1
    let s := if s.on (CUE_CREW_CFG_HB_MASK c) then s.setF ⟨STR_HB_STAT, c, 1⟩ 1 else s
    if (List.range 6).all (fun k => !s.crewPresent k || s.clocked (3 + k)) then
      { s with boot := { s.boot with phase := .run, runSeen := true, deepExit := false } }.trialRun.warmArchive
    else s)

/-! Requests and votes (R85 to R89) -/

/-- The initiator may request a power state (R85): the authority engine, the sessions granted power, and on an expansion the
master's request for its entry (R86). -/
def State.pwrMay (s : State) (init : Nat) : Bool :=
  (s.f PWR_CFG_AUTH_ENGINE ≠ 0 && init = s.f PWR_CFG_AUTH_ENGINE) ||
  (isSession init && s.on (ZRT_SES_CFG_POWER (init - 0x40))) || (init = 0x50 && s.f TRK_CFG_ROLE ≠ 0)

/-- A request that is ignored (R85). -/
def State.pwrDenied (s : State) (init : Nat) : State :=
  (s.incSat PWR_DENIED_CNT_COUNT).setF PWR_DENIED_CNT_LAST_INIT init

/-- A unit cue of PWR whose CODE, ARG and DATA the spec does not give (log entry 9): `k` 0 PREPARE, 1 the outcome. -/
def State.pwrCue (s : State) (target k : Nat) : State :=
  s.unitCue target 0x01 (Config.cueOpen 7 (0x100 + k) 0 % 0x100) (Config.cueOpen 7 (0x100 + k) 1 % 0x10000)
    (Config.cueOpen 7 (0x100 + k) 2)

/-- The expansions that take part in an entry: those that the master's Trunk has trained. -/
def State.expansions (s : State) : List Nat :=
  if s.f TRK_CFG_ROLE = 0 then (List.range 3).filter (fun k => s.on ⟨TRK_STAT_TRAINED.addr, TRK_STAT_TRAINED.lo + k, 1⟩) else []

/-- A write of PWR_REQ.TARGET (R85, R86). -/
def State.pwrReq (s : State) (init target : Nat) : State :=
  if !s.pwrMay init ∨ 4 < target then s.pwrDenied init
  else if s.f PWR_STATE_PHASE ≠ 0 then s.setF PWR_REQ_STATUS 5
  else if target = 0 then
    (((s.setF PWR_REQ_TARGET 0).setF PWR_REQ_STATUS 2).setF PWR_REQ_REQUESTER init).idleExit
  else
    let s := ((s.setF PWR_REQ_TARGET target).setF PWR_REQ_STATUS 1).setF PWR_REQ_REQUESTER init
    let s := (s.setF PWR_STATE_PHASE 1).setF PWR_STATE_TARGET target
    let exps := s.expansions.map (· + 1)
    let s := { s with pwr := { s.pwr with answers := [], asked := exps, expSealed := [] } }
    exps.foldl (fun s n => s.expAsk n target) (s.scr.voters.foldl (fun s v => s.pwrCue v 0) s)

/-- PWR_REQ_RUN (R85). -/
def execPwrReqRun (init : Byte) (s : State) : Host.Outcome State Fault Refusal := go (s.pwrReq init.toNat 0)

/-- PWR_REQ_ENTRY (R86): `t` 0 Idle, 1 Sleep, 2 Deep sleep, 3 Off. -/
def execPwrReqEntry (init : Byte) (t : Fin 4) (s : State) : Host.Outcome State Fault Refusal :=
  go (s.pwrReq init.toNat (t.val + 1))

/-- PWR_REQ_RESERVED (R85): a write of 0b101 to 0b111. -/
def execPwrReqReserved (init : Byte) (s : State) : Host.Outcome State Fault Refusal := go (s.pwrReq init.toNat 5)

/-- A write of PWR_VOTE (R88): only the first answer of a voter that the Script names counts. -/
def State.pwrVote (s : State) (init : Nat) (consent : Bool) (reason : Nat) : State :=
  if s.f PWR_STATE_PHASE = 1 ∧ s.scr.voters.contains init ∧ s.pwr.answers.all (fun a => a.1 ≠ init) then
    { s with pwr := { s.pwr with answers := s.pwr.answers ++ [(init, if consent then 0x100 else reason)] } }
  else s

/-- PWR_VOTE (R88). -/
def execPwrVote (init : Byte) (consent : Bool) (reason : Byte) (s : State) : Host.Outcome State Fault Refusal :=
  go (s.pwrVote init.toNat consent reason.toNat)

/-- The refuser ID of a voter (R92). -/
def voterId (init : Nat) : Nat := if isSession init then 0x600 + (init - 0x40) else 0x200 + init

/-- A row of the refusal table takes a refusal (R89, R92): the refuser's own row, else the lowest free one. -/
def State.refusalCount (s : State) (id reason t : Nat) : State :=
  let own := (List.range 32).find? (fun r => s.on (PWR_REF_ROW_VALID r) && s.f (PWR_REF_ROW_REFUSER r) = id)
  let row := own.orElse (fun _ => (List.range 32).find? (fun r => !s.on (PWR_REF_ROW_VALID r)))
  match row with
  | none => s.incSat PWR_REF_OVF_COUNT
  | some r =>
    let s := ((s.setF (PWR_REF_ROW_REFUSER r) id).setF (PWR_REF_ROW_VALID r) 1).setF (PWR_REF_ROW_REASON r) reason
    let s := s.setF (PWR_REF_ROW_TARGET r) (target2 t)
    let s := s.incSat (match target2 t with
      | 0 => PWR_REF_CNT0_IDLE r
      | 1 => PWR_REF_CNT0_SLEEP r
      | 2 => PWR_REF_CNT1_DEEP r
      | _ => PWR_REF_CNT1_OFF r)
    let now := (s.islandSlate 2).toNat
    (s.setReg (PWR_REF_STAMP_LO r) (BitVec.ofNat 32 now)).setReg (PWR_REF_STAMP_HI r) (BitVec.ofNat 32 (now / 2 ^ 32))

/-- A cue is pending in a crew (R87): queued or posted to one of its engines, or a handler runs. -/
def State.crewPending (s : State) (c : Nat) : Bool :=
  (List.range 8).any (fun k => let e := s.eng (8 * c + k); !e.queue.isEmpty || e.running) ||
  s.offers.any (fun o => isEngine o.target && (o.target - 0x10) / 8 = c)

/-- ACC refuses while a poll runs or waits, while learning is not IDLE, or while an authorisation holds or is withdrawing
(R449). -/
def State.accActive (s : State) : Bool :=
  s.fullPart && (s.acc.cur.isSome || !s.acc.queue.isEmpty || s.f ACC_LEARN_STAT_STATE ≠ 0 || s.on ACC_AUTH_STAT_ACTIVE ||
    s.on ACC_AUTH_STAT_WITHDRAWING)

/-- The Script forbids the target (R87). -/
def State.targetForbidden (s : State) (t : Nat) : Bool :=
  (t = 3 && !s.on PWR_CFG_DEEP_ALLOWED) || (t = 4 && !s.on PWR_CFG_OFF_ALLOWED)

/-- An enabled wake source is latched. -/
def State.wakeLatched (s : State) : Bool := s.f PWR_WAKE_SRC_SRC &&& s.f PWR_WAKE_EN_EN ≠ 0

/-- A segment has not consented to sleep (R380). -/
def State.segAwake (s : State) (k : Nat) : Bool :=
  s.nst k ≠ nsSLEEP && s.nst k ≠ nsOFF && !s.on (NM_SEG_CFG0_POWER_IGNORE k)

/-- A channel that refuses a target (R87): one that is on and not sleep-kept, for Off also a kept one. -/
def State.chRefuses (s : State) (t c : Nat) : Bool :=
  s.chPresent c && chClass c < 3 && s.modeOf c ≠ 0 && (t = 4 || !s.on (CH_CFG_KEPT c))

/-- The units that refuse a target, each with its reason (R87, R92), in the order of the table of R87. -/
def State.unitRefusals (s : State) (t : Nat) : List (Nat × Nat) :=
  let one := fun (b : Bool) (id reason : Nat) => if b then [(id, reason)] else []
  one (2 ≤ t && (List.range 132).any (s.chRefuses t)) 0x103 2 ++
  one (2 ≤ t && s.f MOT_ACTIVE_ACTIVE ≠ 0) 0x105 2 ++
  one (2 ≤ t && (List.range 16).any (fun j => s.chPresent (116 + j) && 2 ≤ (s.dieCh (116 + j)).sph)) 0x106 2 ++
  one (3 ≤ t && !s.nvm.queue.isEmpty) 0x12B 4 ++
  one (2 ≤ t && s.upd.busy) 0x12C 5 ++
  one (2 ≤ t && (List.range 19).any s.segAwake) 0x123 3 ++
  one (2 ≤ t && s.accActive) 0x128 1 ++
  (if 2 ≤ t ∧ s.wakeLatched then [(0x101, 6)] else one (s.targetForbidden t) 0x101 0x0B) ++
  (if 2 ≤ t ∧ (s.fsLine ∨ s.on STR_HB_STAT_CC_MISSING) then [(0x500, 9)]
    else one (3 ≤ t && s.on STR_LIFECYCLE_DEBUG_OPEN) 0x500 0x0A) ++
  (List.range 6).flatMap (fun c => one (2 ≤ t && s.crewPresent c && s.crewPending c) (0x300 + c) 0x0C)

/-- The voters that refuse: a veto with its reason, silence with NO_CONSENT_TIMEOUT. -/
def State.voterRefusals (s : State) : List (Nat × Nat) :=
  s.scr.voters.filterMap (fun v =>
    match s.pwr.answers.find? (fun a => a.1 = v) with
    | some a => if a.2 = 0x100 then none else some (voterId v, a.2)
    | none => some (voterId v, 7))

/-- The transceivers at COMMITTED (R380); REQs are kept for the case of an abort. -/
def State.commitTrx (s : State) : State :=
  (List.range 16).foldl (fun s k =>
    let req := if s.nmOn k then (if s.nst k = nsSLEEP then some trSLEEP else none)
      else if s.f (NM_SEG_CFG0_PARK k) = 3 then some trSLEEP
      else if s.f (NM_SEG_CFG0_PARK k) = 2 then some trSTANDBY else none
    if !s.trxPresent k ∨ s.on (NM_SEG_CFG0_POWER_IGNORE k) then s
    else match req with
      | some r => (s.setTrxOf k { s.trxOf k with save := some (s.f (trxReqRF k)) }).trxReq k r
      | none => s) s

/-- CONSENT_TIMEOUT (R86 to R89): the entry is committed or refused at the end of T_CONSENT; `refused` the expansions whose own
round refused. A wake already latched aborts what has been committed. -/
def execConsentTimeout (refused : BitVec 3) (s : State) : Host.Outcome State Fault Refusal :=
  go (if s.f PWR_STATE_PHASE ≠ 1 then s
  else
    let t := s.f PWR_STATE_TARGET
    let exps := (s.expansions.filter (fun k => refused.getLsbD k)).map (fun k => (0x401 + k, 8))
    let all := s.voterRefusals ++ s.unitRefusals t ++ exps
    if all.isEmpty then
      let s := s.setF PWR_STATE_PHASE 2
      let s := if 3 ≤ t then s.archiveRequest else s
      let s := if 2 ≤ t then s.commitTrx else s
      if s.wakeLatched then s.entryAbort else s
    else
      let s := all.foldl (fun s r => (s.refusalCount r.1 r.2 t).stampPwr 2 0x02 (r.1 + r.2 * 0x10000 + target2 t * 0x1000000)) s
      (s.expUndo.entryEnd 3).pwrCue (s.f PWR_REQ_REQUESTER) 1)

/-- The dies are parked over their links (R79): a die without sleep-kept channels stops its oscillator. -/
def State.parkDies (s : State) : State :=
  s.dieLinks.foldl (fun s n =>
    if !(s.lnk n).adopted then s
    else
      let s := (s.keepCopy n).send n .park
      let s := s.setLnk n { s.lnk n with adopted := false }
      let kept := (linkChans n).any (fun c => s.on (CH_CFG_KEPT c))
      (s.setF (dieStateRF n) 0).dieClock n kept) s

/-- The crossings are drained (R91): no transaction waits for its port and no command for the executor. -/
def State.drained (s : State) : Bool := s.waiting.isEmpty && s.exec.isEmpty

/-- ENTRY_STEPS_COMPLETE (R86, R90, R91): once the steps are complete, the initiators' transactions drained and every expansion has
reported sealed, dies park and the crossings of the target are clamped. -/
def execEntryStepsComplete (sealed : BitVec 3) (s : State) : Host.Outcome State Fault Refusal :=
  go (if s.f PWR_STATE_PHASE ≠ 2 then s
  else
    let t := s.f PWR_STATE_TARGET
    let done := (List.range 3).filter (fun k => sealed.getLsbD k || s.pwr.expSealed.contains k)
    let s := { s with pwr := { s.pwr with expSealed := done } }
    if s.expansions.any (fun k => !done.contains k) ∨ (3 ≤ t ∧ s.on DLY_ARCH_CTL_BUSY) ∨ (2 ≤ t ∧ !s.drained) then s
    else
      let s := s.setF PWR_STATE_PHASE 3
      let s := if 2 ≤ t then s.parkDies else s
      if 2 ≤ t then { s with pwr := { s.pwr with parked := true, clamp := clampsOf t } } else s)

/-- ACC leaves a seed with the IF die (R442), drawn from the entropy source while that is healthy. -/
def State.accSeed (s : State) : State :=
  if s.fullPart ∧ s.on STR_RNG_STAT_HEALTHY then
    { s.drawn with acc := { s.acc with seed := s.draw % 2 ^ 128, seedK := some 0 } }
  else s

/-- The sensor supplies in Sleep: only one with SLEEP_KEEP stays on (R427). -/
def State.sensSleep (s : State) (keep : Bool) : State :=
  (List.range 2).foldl (fun s k =>
    if keep ∧ s.on ⟨MEAS_SENS_CTL, 2 + k, 1⟩ then s else s.setSens k { s.sens k with on := false }) s

/-- Sleep is reached: clocks stop with every state retained (R75), that of MRAM once its archive or STORE has completed (R30); the ledger
does not run (R183). -/
def State.sleepEnter (s : State) : State :=
  let s := ((s.holdTimers.accSeed).sensSleep true).setF LDG_STAT_RUNNING 0
  let s := { s with pwr := { s.pwr with clocked := s.f PWR_ISLAND_STAT_CLOCKED } }
  s.setF PWR_ISLAND_STAT_CLOCKED (s.f PWR_ISLAND_STAT_CLOCKED &&& (if s.mramBusy then 0x3FFF5003 else 0x3FFF1003))

/-- Deep sleep is reached: only the Cellar, the Attic, the sleep-kept dies and the IX pair stay powered (R75, R90). -/
def State.deepEnter (s : State) : State :=
  let s := (s.accSeed).sensSleep false
  let s := s.setF PWR_ISLAND_STAT_CLOCKED (s.f PWR_ISLAND_STAT_CLOCKED &&& 0x3FFF0001)
  s.dieLinks.foldl (fun s n => s.setLnk n { s.lnk n with trained := false, tx := (s.lnk n).tx.filter (· = .park) }) s

/-- The state at power-on reset (R9, R109): what MRAM keeps stays, with the field side of the IX pair, which has a supply of its
own (R457). -/
def State.powerOn (s : State) : State :=
  let r := s.powerOnRegs
  { variant := s.variant, free := s.free, regs := r.regs, mram := s.mram, keys := s.keys, pending := s.pending
    nvm := { home := s.nvm.home, journal := s.nvm.journal }
    upd := { s.upd with lazy := [], trialAt := 0 }
    str := { backoff := s.str.backoff, backoffMin := s.str.backoffMin, recovery := s.str.recovery }
    acc := { ctr := s.acc.block, block := s.acc.block, lock := s.acc.lock, lockH := s.acc.lockH }
    iso := { power := s.iso.power, configured := s.iso.configured, safe := s.iso.safe, timeout := s.iso.timeout,
             fGen := s.iso.fGen, out := s.iso.out, safeActive := s.iso.safeActive, fSeq := s.iso.fSeq, last := s.iso.last,
             thermal := s.iso.thermal } }

/-- Off is reached: nothing stays powered or clocked but the detectors of WAKE0 and WAKE1 with their latch, and INH, SAFE_N and ERR_N
are released (R75, R80, R90); the next start is a power-on reset (R76). -/
def State.offEnter (s : State) : State :=
  let r := { s.powerOn with boot := { por := true, pinLow := s.boot.pinLow }, pwr := { inhLow := 3, clamp := clampsOf 4 } }
  let r := ([PWR_STATE, PWR_WAKE_SRC, PWR_WAKE_CNT, PWR_WAKE_EN].foldl (fun (r : State) a => r.setReg a (s.reg a)) r)
  (r.setReg PWR_ISLAND_STAT 0).setReg CLK_DLO_LOCK 0

/-- SEAL_CONFIRM (R86): the Cellar confirms that no wake is latched and the target is entered; a latched one aborts. -/
def execSealConfirm (s : State) : Host.Outcome State Fault Refusal :=
  go (if s.f PWR_STATE_PHASE ≠ 3 then s
  else
    let t := s.f PWR_STATE_TARGET
    if s.wakeLatched then s.entryAbort
    else
      let s := (s.setF PWR_STATE_STATE t).stampPwr 2 0x01 t
      let s := s.entryEnd 2
      let s := { s with pwr := { s.pwr with exit := false, reached := s.now } }
      if t = 2 then s.sleepEnter else if t = 3 then s.deepEnter else if t = 4 then s.offEnter else s)

/-! Wakes -/

/-- WAKE_EVENT (R80, R81): a source fires. -/
def execWakeEvent (bit : Fin 24) (s : State) : Host.Outcome State Fault Refusal := go (s.wakeSource bit)

/-- Segments whose transceiver latched the wake follow their BUS_SLEEP rows (R380). -/
def State.nmSleepExit (s : State) : State :=
  (List.range 16).foldl (fun s k => if s.nst k = nsSLEEP ∧ s.on (trxWakeRF k) then s.nmBusWake k false else s) s

/-- SLEEP_EXIT (R75, R99, R277, R427, R442, R473): the islands' clocks run again with every state retained; the slate goes on
from the Interface counter, within 50 ppm of the time slept; dies are then adopted again (R79). -/
def execSleepExit (s : State) : Host.Outcome State Fault Refusal :=
  go (if s.f PWR_STATE_STATE ≠ 2 ∨ !s.pwr.exit then s
  else
    let gap := s.now - s.pwr.reached
    let err := gap * 50 / 1000000
    let frm := s.pwr.reached
    let t := frm + gap - err + s.draw % (2 * err + 1)
    let s := (s.drawn.setF LDG_STAT_SEEDING 1).setF PWR_ISLAND_STAT_CLOCKED
      ((s.pwr.clocked &&& 0xFFFF) ||| (s.f PWR_ISLAND_STAT_CLOCKED &&& 0x3FFF0000))
    let s := (s.restoreSlate t frm).resumeTimers
    let s := (s.setF PWR_STATE_STATE 0).setF PWR_STATE_LAST_STATE 2
    let s := ((s.stampPwr 2 0x01 0).sensApply 0).sensApply 1
    let s := (List.range 16).foldl (fun s k => s.setTrxOf k { s.trxOf k with save := none }) s
    let s := (s.setF STR_HB_STAT_CC_ARMED 0).nmSleepExit
    let ins : Tbl InpIn := (s.inp.ins.map (fun e : Nat × InpIn => (e.1, { e.2 with run := 0 }))).filter
      (fun e => e.2 ≠ ({} : InpIn))
    { s with acc := { s.acc with seedK := none }, inp := { s.inp with poll := [], ins := ins }
             pwr := { s.pwr with exit := false, parked := false, sclHeld := false } })

/-- CELLAR_WAKE_TIMER (R83): it runs from the moment Sleep or Deep sleep is reached. -/
def execCellarWakeTimer (s : State) : Host.Outcome State Fault Refusal :=
  go (if (s.f PWR_STATE_STATE = 2 ∨ s.f PWR_STATE_STATE = 3) ∧ s.on PWR_WAKE_TIMER_SECONDS then s.wakeSource 22 else s)

/-- One polled input read by the Cellar: two differing reads in a row wake the module (R82, R416). -/
def State.pollOne (s : State) (n : Nat) (lvl : Bool) : State :=
  if !s.inOn n ∨ !s.on (INP_CFG_POLL n) then s
  else
    let k := if lvl = s.on (inBit INP_LEVEL n) then 0 else tget (fun _ => 0) s.inp.poll n + 1
    let s := { s with inp := { s.inp with poll := tset (fun _ => 0) s.inp.poll n k } }
    if k = 2 then (s.raise (inBit INP_WAKE_SRC n) (INP_WAKE_SRC_CNT_COUNT (n / 32))).wakeSource 18 else s

/-- INPUT_POLL (R82): in Sleep and Deep sleep, bit n whether input n reads active. -/
def execInputPoll (levels : BitVec 96) (s : State) : Host.Outcome State Fault Refusal :=
  go (if s.f PWR_STATE_STATE = 2 ∨ s.f PWR_STATE_STATE = 3 then
    (List.range 96).foldl (fun s n => s.pollOne n (levels.getLsbD n)) s else s)

/-- I2C_ADDRESS_MATCH (R84): an address byte seen in Sleep or Deep sleep; a general call and any other address do nothing. -/
def execI2cAddressMatch (addr : BitVec 7) (s : State) : Host.Outcome State Fault Refusal :=
  go (if (s.f PWR_STATE_STATE = 2 ∨ s.f PWR_STATE_STATE = 3) ∧ addr.toNat = s.f PWR_CFG_MNT_ADDR ∧ addr.toNat ≠ 0 then
    let s := s.wakeSource 20
    { s with pwr := { s.pwr with sclHeld := true } }
  else s)

/-- MATCHER_SCL_RELEASE (R84): 3 ms after a match in Deep sleep, whose exit may have begun; from Sleep the matcher releases SCL when the
module is in Run. -/
def execMatcherSclRelease (s : State) : Host.Outcome State Fault Refusal :=
  go (if s.f PWR_STATE_STATE = 2 then s else { s with pwr := { s.pwr with sclHeld := false } })

/-- A write of PWR_REF_CLR.CLEAR (R92). -/
def State.refusalClear (s : State) : State :=
  ((List.range 32).foldl (fun s r =>
    (List.range 8).foldl (fun s w => s.setReg (PWR_REF_ROW r + 4 * w) 0) s) s).setF PWR_REF_OVF_COUNT 0

/-- REFUSAL_TABLE_CLEAR (R92). -/
def execRefusalTableClear (s : State) : Host.Outcome State Fault Refusal := go s.refusalClear

/-! Crossings (R98) -/

/-- XING_RESYNC_REQ (R98): the reset side of a crossing leaves reset and raises REQ; the entries pending when the crossing closed are
discarded and counted. -/
def execXingResyncReq (frm dst : Fin 30) (pending : BitVec 16) (s : State) : Host.Outcome State Fault Refusal :=
  go (if 2 ≤ s.xingOf frm dst ∨ frm = dst ∨ !s.islandPresent frm ∨ !s.islandPresent dst then s
  else
    let s := if pending.toNat ≠ 0 then
      ((s.addSat CLK_XING_DISCARD_COUNT pending.toNat).setF CLK_XING_DISCARD_LAST_FROM frm).setF CLK_XING_DISCARD_LAST_TO dst
      else s
    s.setXing frm dst 2)

/-- XING_RESYNC_ACK (R98). -/
def execXingResyncAck (frm dst : Fin 30) (s : State) : Host.Outcome State Fault Refusal :=
  go (if s.xingOf frm dst = 2 then s.setXing frm dst 3 else s)

/-- The clamps between the Cellar and the Interface island, which are not released before their crossings are open (R91): rows 10, 11
and 14 of R90. -/
def cellarClamps : Nat := 0x4C00

/-- XING_RESYNC_OPEN (R91, R98): traffic resumes; the clamps of the Cellar are released with its last crossing. -/
def execXingResyncOpen (frm dst : Fin 30) (s : State) : Host.Outcome State Fault Refusal :=
  go (if s.xingOf frm dst = 3 then
    let s := s.setXing frm dst 0
    if s.boot.phase ≠ .reset ∧ s.xingOf 0 1 = 0 ∧ s.xingOf 1 0 = 0 then
      { s with pwr := { s.pwr with clamp := s.pwr.clamp - (s.pwr.clamp &&& cellarClamps) } } else s
  else s)

end Sys2Proof.Machine
end

