-- ==== Sys2Proof/Machine/ScriptMap.lean ====
section
/-! DEFINITION. The words that a Script may write (R493): each word's fields that it loads and the ranges that their tables state,
transcribed from the register tables of spec/. -/

namespace Sys2Proof.Machine

/-- Words that a Script loads: the first address, two strides with their counts, the mask of the fields loaded, and the ranges
stated (least significant bit, width, lowest and highest value), and where initiator IDs stand (R493, R495). -/
structure ScrDef where
  base : Nat
  s1 : Nat
  n1 : Nat
  s2 : Nat
  n2 : Nat
  mask : Nat
  rng : List (Nat × Nat × Nat × Nat)
  ids : List Nat
  deriving DecidableEq, Repr

/-- The words marked as loaded from the Script, or with a field whose reset value is "per Script" (R493). -/
def scrTable : List ScrDef :=
  [
    ⟨0x05010020, 0x4, 1, 0x4, 1, 0x7FFF03FF, [(0, 7, 1, 100)], [16]⟩,
    ⟨0x03000004, 0x400, 132, 0x4, 1, 0x00FFFFF8, [], [8]⟩,
    ⟨0x03000010, 0x400, 132, 0x4, 1, 0x000000FF, [], []⟩,
    ⟨0x03000030, 0x400, 132, 0x4, 1, 0x00FFFFFF, [], []⟩,
    ⟨0x03000034, 0x400, 132, 0x4, 1, 0x0000FFFF, [], []⟩,
    ⟨0x03000038, 0x400, 132, 0x4, 1, 0x0000FFFF, [(8, 8, 1, 255)], []⟩,
    ⟨0x0300003C, 0x400, 132, 0x4, 1, 0x000000FF, [], []⟩,
    ⟨0x03000040, 0x400, 132, 0x4, 1, 0x0003FFF7, [(8, 10, 0, 1000)], []⟩,
    ⟨0x03000080, 0x400, 132, 0x4, 16, 0x83FFFFFF, [], []⟩,
    ⟨0x03000048, 0x400, 132, 0x4, 1, 0x00000FFF, [], []⟩,
    ⟨0x030000C0, 0x400, 132, 0x4, 1, 0xFFFF3FFF, [(0, 4, 0, 10), (4, 6, 1, 63), (10, 3, 1, 7)], []⟩,
    ⟨0x030000C8, 0x400, 132, 0x4, 1, 0x00003FFF, [(0, 8, 1, 255), (8, 6, 1, 32)], []⟩,
    ⟨0x05040010, 0x4, 1, 0x4, 1, 0x003F3F7F, [(0, 7, 1, 100), (16, 6, 0, 36)], []⟩,
    ⟨0x05040014, 0x4, 1, 0x4, 1, 0xFFFF01FF, [(0, 9, 2, 400), (16, 9, 10, 320), (25, 7, 1, 100)], []⟩,
    ⟨0x0301A300, 0x400, 12, 0x4, 1, 0x0FFFFFF3, [(16, 8, 4, 100)], []⟩,
    ⟨0x0301A320, 0x400, 12, 0x4, 1, 0x000000FF, [(1, 7, 1, 64)], []⟩,
    ⟨0x0301A308, 0x400, 12, 0x4, 1, 0x003FFFFF, [(12, 8, 1, 255), (20, 2, 0, 1)], []⟩,
    ⟨0x05060010, 0x4, 1, 0x4, 1, 0x0FFFFFFF, [(16, 12, 100, 2200)], []⟩,
    ⟨0x05060014, 0x4, 1, 0x4, 1, 0x0000FFFF, [], []⟩,
    ⟨0x0301D300, 0x400, 16, 0x4, 1, 0x00FFFFFF, [(0, 12, 200, 1600), (12, 12, 200, 600)], []⟩] ++
  [
    ⟨0x0301D304, 0x400, 16, 0x4, 1, 0x00FFFFFF, [(8, 8, 1, 255), (16, 8, 0, 200)], []⟩,
    ⟨0x0301D308, 0x400, 16, 0x4, 1, 0xFFFF3F7F, [(0, 7, 1, 100), (8, 6, 1, 60), (16, 16, 1, 65535)], []⟩,
    ⟨0x06000804, 0x4, 13, 0x4, 1, 0x000001FF, [(0, 9, 10, 500)], []⟩,
    ⟨0x06000844, 0x4, 1, 0x4, 1, 0x000007FE, [], []⟩,
    ⟨0x06000C00, 0x4, 132, 0x4, 1, 0x3FF7F7FF, [(0, 11, 0, 1024), (12, 3, 0, 5)], []⟩,
    ⟨0x06000010, 0x4, 1, 0x4, 1, 0x3FFFFF7F, [(0, 7, 1, 100), (8, 8, 1, 255), (16, 10, 1, 1000), (26, 2, 0, 2)], []⟩,
    ⟨0x06000014, 0x4, 1, 0x4, 1, 0x3FFE3FFE, [], []⟩,
    ⟨0x02000004, 0x100000, 6, 0x4, 1, 0xFFFFFF03, [], [16]⟩,
    ⟨0x02010008, 0x100000, 6, 0x1000, 8, 0xFFFFFFFF, [], []⟩,
    ⟨0x05080030, 0x4, 1, 0x4, 1, 0x00F37FFF, [(0, 15, 1000, 20000), (20, 4, 1, 15)], []⟩,
    ⟨0x05080034, 0x4, 1, 0x4, 1, 0x0000FFFF, [], []⟩,
    ⟨0x05100014, 0x10000, 8, 0x4, 1, 0x07FFFFFF, [], []⟩,
    ⟨0x05100018, 0x10000, 8, 0x4, 1, 0x03FFFFFF, [], []⟩,
    ⟨0x05100010, 0x10000, 8, 0x4, 1, 0x3FFFFFFF, [(2, 10, 0, 1000), (12, 4, 1, 15), (16, 10, 1, 1000)], []⟩,
    ⟨0x05100080, 0x10000, 8, 0x4, 1, 0x000003FF, [(0, 2, 0, 2)], []⟩,
    ⟨0x05100040, 0x10000, 8, 0x4, 8, 0xFFFFFFFF, [], [0, 8, 16, 24]⟩,
    ⟨0x05100060, 0x10000, 8, 0x4, 1, 0x0000FFFF, [], [0]⟩,
    ⟨0x05100084, 0x10000, 8, 0x4, 1, 0x3FFFFFFF, [], []⟩,
    ⟨0x05100088, 0x10000, 8, 0x4, 1, 0x1FFFFFFF, [], []⟩,
    ⟨0x0510008C, 0x10000, 8, 0x4, 2, 0xFFFFFFFF, [], []⟩] ++
  [
    ⟨0x05180010, 0x10000, 8, 0x4, 1, 0x3FFFFFFF, [(2, 16, 4000, 33334), (28, 2, 0, 2)], []⟩,
    ⟨0x05180014, 0x10000, 8, 0x4, 1, 0x0000FFFF, [], [0]⟩,
    ⟨0x05210010, 0x4, 1, 0x4, 1, 0x007FFFFF, [(16, 7, 1, 100)], []⟩,
    ⟨0x05210014, 0x4, 1, 0x4, 1, 0x0000FFFF, [], [0]⟩,
    ⟨0x05210018, 0x4, 1, 0x4, 1, 0x07FFFFFF, [(1, 10, 0, 1000)], []⟩,
    ⟨0x05210100, 0x4, 21, 0x4, 1, 0xFFFFFF0E, [(27, 5, 1, 31)], [8]⟩,
    ⟨0x05210180, 0x4, 21, 0x4, 1, 0x001FFFFF, [], []⟩,
    ⟨0x05218000, 0x4, 256, 0x4, 1, 0xFFFFFFFF, [], []⟩,
    ⟨0x05218400, 0x4, 256, 0x4, 1, 0xFFFFFFFF, [], []⟩,
    ⟨0x05220010, 0x4, 1, 0x4, 1, 0x0003FFFF, [], []⟩,
    ⟨0x05220018, 0x4, 1, 0x4, 1, 0x0FFFFFFF, [(0, 14, 0, 10000), (14, 7, 1, 127), (21, 7, 1, 90)], []⟩,
    ⟨0x05220100, 0x20, 8, 0x4, 1, 0x0FFFFFFF, [], []⟩,
    ⟨0x05220104, 0x20, 8, 0x4, 1, 0xFFFFFFFF, [], []⟩,
    ⟨0x05220108, 0x20, 8, 0x4, 1, 0xFFFFFFFF, [], []⟩,
    ⟨0x0522010C, 0x20, 8, 0x4, 1, 0x0000FFFF, [], []⟩,
    ⟨0x05201000, 0x4, 7168, 0x4, 1, 0xFFFFFFFF, [], []⟩,
    ⟨0x05230010, 0x4, 1, 0x4, 1, 0x00FFFFFF, [(0, 8, 1, 255)], [8]⟩,
    ⟨0x05230100, 0x20, 19, 0x4, 1, 0x00FFFFFF, [(22, 2, 2, 3)], []⟩,
    ⟨0x05230104, 0x20, 19, 0x4, 1, 0x0007FFFF, [], []⟩,
    ⟨0x05230108, 0x20, 19, 0x4, 1, 0xFFFFFFFF, [], []⟩] ++
  [
    ⟨0x05240010, 0x4, 1, 0x4, 1, 0xFFFFF01C, [], []⟩,
    ⟨0x05250010, 0x4, 1, 0x4, 1, 0x0000FF01, [(8, 8, 1, 255)], []⟩,
    ⟨0x05250014, 0x4, 1, 0x4, 1, 0xFFFFFFFF, [], []⟩,
    ⟨0x05250018, 0x4, 1, 0x4, 1, 0x00FFFFFF, [], []⟩,
    ⟨0x05250100, 0x10, 32, 0x4, 1, 0xFFFFF000, [], []⟩,
    ⟨0x05250104, 0x10, 32, 0x4, 1, 0xFFFFF000, [], []⟩,
    ⟨0x05250108, 0x10, 32, 0x4, 1, 0x00000007, [], []⟩,
    ⟨0x05260100, 0x4, 96, 0x4, 1, 0xFF7FFFFF, [(0, 2, 0, 2), (8, 10, 1, 500)], [24]⟩,
    ⟨0x05260060, 0x4, 1, 0x4, 1, 0xFFFF3FFF, [(8, 6, 5, 40), (16, 8, 1, 255)], [24]⟩,
    ⟨0x05260070, 0x8, 4, 0x4, 1, 0xFFFFFFFF, [(24, 8, 1, 255)], []⟩,
    ⟨0x05270010, 0x4, 1, 0x4, 1, 0x000001FF, [(0, 7, 1, 100), (7, 2, 0, 2)], []⟩,
    ⟨0x05270014, 0x4, 1, 0x4, 1, 0x0000FFFF, [], [0]⟩,
    ⟨0x05270018, 0x4, 1, 0x4, 1, 0x0000000F, [], []⟩,
    ⟨0x05270040, 0x4, 16, 0x4, 1, 0x0001FFFF, [], [8]⟩,
    ⟨0x05270404, 0x4, 63, 0x4, 1, 0x0FFFF7FF, [(20, 8, 1, 255)], []⟩,
    ⟨0x05270800, 0x40, 4, 0x4, 16, 0xFFFFFFFF, [], []⟩,
    ⟨0x05041040, 0x40, 13, 0x4, 1, 0xFFFFFFFF, [(0, 16, 1, 65535), (16, 16, 1, 65535)], []⟩,
    ⟨0x05041044, 0x40, 13, 0x4, 1, 0xFFFFFFFF, [(0, 16, 1, 65535), (16, 16, 1, 65535)], []⟩,
    ⟨0x05041048, 0x40, 13, 0x4, 4, 0x00FFFFFF, [(0, 24, 1, 16777215)], []⟩,
    ⟨0x05041058, 0x40, 13, 0x4, 1, 0x0FFFFFFF, [(24, 4, 1, 15)], []⟩] ++
  [
    ⟨0x0504105C, 0x40, 13, 0x4, 1, 0x07FFFFFF, [(16, 11, 0, 1024)], []⟩,
    ⟨0x05044000, 0x20, 160, 0x4, 1, 0xFFFFFFFF, [], []⟩,
    ⟨0x05044004, 0x20, 160, 0x4, 1, 0x0FFFFFFF, [(20, 8, 1, 255)], []⟩,
    ⟨0x05044008, 0x20, 160, 0x4, 1, 0xFFFFFFFF, [], []⟩,
    ⟨0x0504400C, 0x20, 160, 0x4, 1, 0xFFFFFFFF, [], []⟩,
    ⟨0x05044010, 0x20, 160, 0x4, 1, 0x00FFFFFF, [], []⟩,
    ⟨0x05046000, 0x10, 132, 0x4, 1, 0x003FFFFF, [], []⟩,
    ⟨0x05280010, 0x4, 1, 0x4, 1, 0xFFFFFFFF, [], []⟩,
    ⟨0x05280014, 0x4, 1, 0x4, 1, 0x1FFFFFFF, [(0, 11, 200, 1900), (11, 5, 1, 20)], []⟩,
    ⟨0x05280018, 0x4, 1, 0x4, 1, 0x7FFFFFFF, [(16, 6, 1, 60), (23, 8, 1, 255)], [0]⟩,
    ⟨0x0528001C, 0x4, 1, 0x4, 1, 0x000003FF, [(0, 4, 1, 15)], []⟩,
    ⟨0x05280020, 0x4, 1, 0x4, 1, 0xFFFFFFFF, [], []⟩,
    ⟨0x05280024, 0x4, 1, 0x4, 1, 0x0001FFFF, [(0, 10, 1, 600), (10, 6, 1, 60)], []⟩,
    ⟨0x05280028, 0x4, 1, 0x4, 1, 0x3FFFFFFF, [], []⟩,
    ⟨0x05290010, 0x4, 1, 0x4, 1, 0xFFFF00FF, [(0, 8, 1, 255)], []⟩,
    ⟨0x05290014, 0x4, 1, 0x4, 1, 0x0000FFFF, [], [0]⟩,
    ⟨0x05290018, 0x4, 1, 0x4, 1, 0xFFFF007F, [(0, 5, 1, 20)], []⟩,
    ⟨0x052C0010, 0x4, 1, 0x4, 1, 0xFFFF07FF, [(1, 10, 10, 600)], [16]⟩]

/-- Whether the row holds the word at address `a`. -/
def ScrDef.covers (d : ScrDef) (a : Nat) : Bool :=
  d.base ≤ a && (a - d.base) / d.s1 < d.n1 && (a - d.base) % d.s1 / d.s2 < d.n2 && (a - d.base) % d.s1 % d.s2 == 0

/-- The addresses of a row's words. -/
def ScrDef.words (d : ScrDef) : List Nat :=
  (List.range d.n1).flatMap (fun i => (List.range d.n2).map (fun j => d.base + d.s1 * i + d.s2 * j))

/-- The row of a word that a Script may write. -/
def scrDefAt (a : Nat) : Option ScrDef := scrTable.find? (fun d => d.covers a)

/-- Whether a value lies in every range of its word. -/
def ScrDef.inRange (d : ScrDef) (v : Nat) : Bool :=
  d.rng.all (fun (lo, w, mn, mx) => mn ≤ v / 2 ^ lo % 2 ^ w && v / 2 ^ lo % 2 ^ w ≤ mx)

end Sys2Proof.Machine
end

