-- ==== Sys2Proof/Machine/Store.lean ====
section
/-! DEFINITION. The settings store (R496 to R500): requests, their execution through the journal, the copy to the home area, and the
content that the read window shows. -/

namespace Sys2Proof.Machine

/-- The place of the stored content of a KEY and LENGTH (R497): one number for the pair, and no other pair has it. -/
def homeOf (key len : Nat) : Nat := (key + len) * (key + len) + len

/-- The place of the stored content of a record. -/
def NvmRec.homeKey (r : NvmRec) : Nat := homeOf r.key r.len

/-- Put bytes over a byte string at an offset. -/
def overlay (l : List Byte) (off : Nat) (b : List Byte) : List Byte := l.take off ++ b ++ l.drop (off + b.length)

/-- The stored content of a record with the journal's entries for it, in order. -/
def State.recContent (s : State) (r : NvmRec) : List Byte :=
  s.nvm.journal.foldl (fun l e => if e.key = r.key ∧ e.len = r.len then overlay l e.off e.bytes else l)
    (tget (fun _ => []) s.nvm.home r.homeKey)

/-- A byte of the read window (R496): the content of the record that covers it, 0 where none does; the homes of the system records
hold what their units keep there, in a form the spec does not give (log entry 19). -/
def State.windowByte (s : State) (off : Nat) : Byte :=
  if 0x7F000 ≤ off ∧ off < 0x80000 then BitVec.ofNat 8 (Config.free (s.free + off))
  else match s.nvm.recs.find? (fun r => r.home ≤ off && off < r.home + r.len) with
    | some r => (s.recContent r).getD (off - r.home) 0
    | none => 0

/-- What an entry takes in the journal: its bytes and the commit word (R499). -/
def JEntry.size (e : JEntry) : Nat := e.bytes.length + 32

/-- The journal bytes in use. -/
def State.journalUsed (s : State) : Nat := s.nvm.journal.foldl (fun a e => a + e.size) 0

/-- NVM_STAT shows the queue and the free journal. -/
def State.nvmShow (s : State) : State :=
  (s.setF NVM_STAT_QUEUED s.nvm.queue.length).setF NVM_STAT_JOURNAL_FREE ((0x80000 - s.journalUsed) * 100 / 0x80000)

/-- KEY of a request. -/
def StoreReq.key (r : StoreReq) : Nat := sliceLE r.bytes 0 2
/-- OFFSET of a request. -/
def StoreReq.off (r : StoreReq) : Nat := sliceLE r.bytes 2 2
/-- LEN of a request. -/
def StoreReq.len (r : StoreReq) : Nat := sliceLE r.bytes 4 2
/-- The result slot of a request. -/
def StoreReq.res (r : StoreReq) : Nat := sliceLE r.bytes 6 1 % 8
/-- CUE of a request. -/
def StoreReq.cue (r : StoreReq) : Bool := bitOf (sliceLE r.bytes 6 1) 7
/-- SRC of a request. -/
def StoreReq.src (r : StoreReq) : Nat := sliceLE r.bytes 8 4

/-- The RESULT cue of a request (R498). -/
def State.storeCue (s : State) (r : StoreReq) (val : Nat) : State :=
  if r.cue then s.postCue r.init 8 r.res 0x01 0x2B r.res val true else s

/-- A request completes with a status. -/
def State.storeFinish (s : State) (r : StoreReq) (status : Nat) : State :=
  let val := status + r.key * 0x10000
  (s.slotUpdate (NVM_SLOT_ST r.res) (NVM_SLOT_VAL r.res) val).storeCue r val

/-- A write of NVM_STORE_REQ (R498): not 16 bytes, it is ignored and counted; a slot that is FILLING or 8 STOREs queued complete
it with BUSY. -/
def State.storeRequest (s : State) (init : Nat) (bytes : List Byte) : State :=
  let r : StoreReq := { init := init, bytes := bytes }
  if bytes.length ≠ 16 then s.incSat NVM_CNT_REFUSED
  else if s.f ⟨NVM_SLOT_ST r.res, 16, 2⟩ = 1 then s.storeCue r (5 + r.key * 0x10000)
  else if 8 ≤ s.nvm.queue.length then s.storeFinish r 5
  else ({ s with nvm := { s.nvm with queue := s.nvm.queue ++ [r] } }.slotFilling (NVM_SLOT_ST r.res)).nvmShow

/-- STORE_REQUEST (R498). -/
def execStoreRequest (init : Byte) (bytes : List Byte) (s : State) : Host.Outcome State Fault Refusal :=
  if bytes.isEmpty ∨ 64 < bytes.length then .refused (.illFormed "STORE_REQUEST") else go (s.storeRequest init.toNat bytes)

/-- SRC lies in the Larder, the Attic, a crew memory or an engine's local data (R498). -/
def State.storeSrcOk (s : State) (a n : Nat) : Bool :=
  inStoreRange a n ||
  (List.range 6).any (fun c => s.crewPresent c &&
    ((crewMemAt (8 * c) ≤ a && a + n ≤ crewMemAt (8 * c) + 0x8000) ||
     (List.range 8).any (fun e => localAt (8 * c + e) ≤ a && a + n ≤ localAt (8 * c + e) + 0x1000)))

/-- The writer may store into the record. -/
def NvmRec.may (r : NvmRec) (init : Nat) : Bool :=
  isStr init || r.writers.contains init || (isSession init && bitOf r.grant (init - 0x40))

/-- The request at the head of the queue, with its record: the status its checks give, 0 where they pass. -/
def State.storeStatus (s : State) (r : StoreReq) : Nat :=
  match s.nvm.recs.find? (fun x => x.key = r.key) with
  | none => 2
  | some x =>
    if !x.may r.init then 1
    else if r.len = 0 ∨ 256 < r.len ∨ x.len < r.off + r.len then 3
    else if !s.storeSrcOk r.src r.len then 4
    else 0

/-- The STORE at the head of the queue; `ok` says whether its write verifies. It waits for journal space. -/
def State.storeStep (s : State) (ok : Bool) : State :=
  match s.nvm.queue with
  | [] => s
  | r :: t =>
      let st := s.storeStatus r
      if st ≠ 0 then ({ s with nvm := { s.nvm with queue := t } }.storeFinish r st).nvmShow
      else if 0x80000 < s.journalUsed + r.len + 32 then s
      else
        let x := s.storeRead 0x63 r.src r.len
        let s := { x.2 with nvm := { x.2.nvm with queue := t } }
        if !ok then
          (((s.raise NVM_FLAG_STORE_FAIL NVM_FLAG_CNT_COUNT).stamp 14 0x01 0x2B 0x2B 0x02 (r.key + r.len * 0x10000)).storeFinish r 6).nvmShow
        else
          let len := match s.nvm.recs.find? (fun y => y.key = r.key) with | some y => y.len | none => 0
          let e : JEntry := { key := r.key, len := len, off := r.off, bytes := x.1 }
          let s := { s with nvm := { s.nvm with journal := s.nvm.journal ++ [e] } }
          (((s.incMod NVM_CNT_STORES).stamp 14 0x01 0x2B 0x2B 0x01 (r.key + r.len * 0x10000)).storeFinish r 0).nvmShow

/-- STORE_EXECUTE (R499), in Sleep with MRAM's clock kept for it (R30). -/
def execStoreExecute (ok : Bool) (s : State) : Host.Outcome State Fault Refusal := go (s.storeStep ok).mramRest

/-- The oldest journal entry is copied to the home area. -/
def State.journalCopy (s : State) : State :=
  match s.nvm.journal with
  | [] => s
  | e :: t =>
    let k := homeOf e.key e.len
    let home := tset (fun _ => []) s.nvm.home k (overlay (tget (fun _ => []) s.nvm.home k) e.off e.bytes)
    { s with nvm := { s.nvm with journal := t, home := home } }.nvmShow

/-- JOURNAL_COPY (R499). -/
def execJournalCopy (s : State) : Host.Outcome State Fault Refusal := go s.journalCopy

/-- The journal is replayed at boot, before any record is read (R499). -/
def State.journalReplay (s : State) : State := (List.range s.nvm.journal.length).foldl (fun s _ => s.journalCopy) s

/-- At an ACCEPT the space of stored records that the running Script does not declare is freed (R497). -/
def State.storeFree (s : State) : State :=
  let keys := s.nvm.recs.map NvmRec.homeKey
  { s with nvm := { s.nvm with home := s.nvm.home.filter (fun e => keys.contains e.1),
                               journal := s.nvm.journal.filter (fun e => keys.contains (homeOf e.key e.len)) } }.nvmShow

end Sys2Proof.Machine
end

