-- ==== Sys2Proof/Machine/Script.lean ====
section
/-! DEFINITION. Slot packages and the Script: their format (R490 to R492, R501), the validation of a Script (R495 with the rules that
it names), and how its sections load into the units (R493, R494). -/

namespace Sys2Proof.Machine

/-! Bytes -/

/-- The lookup of the CRC-32 of IEEE 802.3: one byte. -/
def crc32Step (c : Nat) (b : Byte) : Nat :=
  (List.range 8).foldl (fun c _ => if c % 2 = 1 then (c / 2) ^^^ 0xEDB88320 else c / 2) (c ^^^ b.toNat)

/-- CRC-32 of IEEE 802.3 (R491). -/
def crc32 (l : List Byte) : Nat := (l.foldl crc32Step 0xFFFFFFFF) ^^^ 0xFFFFFFFF

/-! Slot packages (R501) -/

/-- The MRAM offset of a slot: 0 A, 1 B (R488). -/
def slotAt (sl : Nat) : Nat := if sl = 0 then 0 else 0x600000

/-- A part of a package: its TYPE and TARGET as the slot header gives them, the MRAM offset of its part header, its length in the
package. -/
structure PkPart where
  type : Nat := 0
  target : Nat := 0
  at_ : Nat := 0
  len : Nat := 0
  deriving DecidableEq, Repr

/-- The slot header at an MRAM offset has its MAGIC and at most 32 parts. -/
def State.pkOk (s : State) (b : Nat) : Bool := s.mrdN b 4 = 0x4C535A50 && s.mrdN (b + 8) 2 ≤ 32

/-- GEN of a package. -/
def State.pkGen (s : State) (b : Nat) : Nat := s.mrdN (b + 4) 4

/-- The parts of a package. -/
def State.pkParts (s : State) (b : Nat) : List PkPart :=
  if !s.pkOk b then []
  else (List.range (s.mrdN (b + 8) 2)).map (fun i =>
    let e := b + 12 + 12 * i
    { type := s.mrdN e 1, target := s.mrdN (e + 1) 1, at_ := b + s.mrdN (e + 4) 4, len := s.mrdN (e + 8) 4 })

/-- The part of a TYPE for this module. -/
def State.pkPart (s : State) (b type : Nat) : Option PkPart := (s.pkParts b).find? (fun p => p.type = type)

/-- VERSION of a part. -/
def State.ptVersion (s : State) (p : PkPart) : Nat := s.mrdN (p.at_ + 8) 4

/-- LENGTH of a part's body. -/
def State.ptLen (s : State) (p : PkPart) : Nat := s.mrdN (p.at_ + 12) 4

/-- The body of a part. -/
def State.ptBody (s : State) (p : PkPart) : List Byte := s.mrdBytes (p.at_ + 128) (s.ptLen p)

/-- The SHA-256 of a part's body, as a number. -/
def State.ptSha (s : State) (p : PkPart) : Nat := natBE (sha256 (s.ptBody p))

/-- The highest length of a part's body by TYPE (R501). -/
def ptLimit (type : Nat) : Nat :=
  match type with
  | 1 => 0x400000
  | 2 => 0x60000
  | 3 => 0x20000
  | 4 => 0x10000
  | _ => 0x600000

/-- The part header agrees with the slot header and the body fits into the part and the slot. -/
def State.ptOk (s : State) (b : Nat) (p : PkPart) : Bool :=
  s.mrdN p.at_ 4 = 0x54505A50 && s.mrdN (p.at_ + 4) 1 = p.type && s.mrdN (p.at_ + 5) 1 = p.target &&
  1 ≤ p.type && p.type ≤ 6 && (if p.type = 5 then 1 ≤ p.target && p.target ≤ 3 else p.target = 0) &&
  s.ptLen p ≤ ptLimit p.type && 128 + s.ptLen p + (if p.type = 1 then 0 else 64) ≤ p.len && p.at_ + p.len ≤ b + 0x600000

/-- A signature holds under the public key of slot 4 or of slot 5 (R495); where both are EMPTY, in MANUFACTURE and RETURN, under
the key in the boot ROM (R515). -/
def State.sigOk (s : State) (msg sig : List Byte) : Bool :=
  let d := sha256 msg
  let ok := fun (k : Nat) => (s.key k).kind = 4 && ecdsaVerify (s.key k).bytes d sig
  if (s.key 4).kind = 0 ∧ (s.key 5).kind = 0 then
    (s.f STR_LIFECYCLE_STATE = 0 || s.f STR_LIFECYCLE_STATE = 3) && ecdsaVerify Config.waliriskKey d sig
  else ok 4 || ok 5

/-! Script format (R490, R491) -/

/-- A section: TYPE, FLAGS, VALUE, its offset in the Script, whether its CRC holds. -/
structure Sect where
  type : Nat := 0
  flags : Nat := 0
  value : List Byte := []
  off : Nat := 0
  crcOk : Bool := false
  deriving DecidableEq, Repr

/-- The bytes that a section takes with its padding. -/
def sectSize (len : Nat) : Nat := (12 + len + 3) / 4 * 4

/-- `n` sections from an offset of the Script on, and the bytes that follow them. -/
def sectsFrom : Nat → Nat → List Byte → Option (List Sect × List Byte)
  | 0, _, l => some ([], l)
  | n + 1, off, l =>
    let len := sliceLE l 4 4
    if l.length < sectSize len then none
    else
      let x : Sect := { type := sliceLE l 0 2, flags := sliceLE l 2 2, value := (l.drop 8).take len, off := off,
                        crcOk := crc32 (l.take (8 + len)) = sliceLE l (8 + len) 4 }
      match sectsFrom n (off + sectSize len) (l.drop (sectSize len)) with
      | some (t, r) => some (x :: t, r)
      | none => none

/-- The sections of a Script with its signature section last, if its header and its ends are right (R490, reason HEADER). -/
def scriptSects (body : List Byte) : Option (List Sect) :=
  if sliceLE body 0 4 ≠ 0x43535A50 ∨ sliceLE body 4 2 ≠ 1 ∨ sliceLE body 6 2 = 0 ∨ 256 < sliceLE body 6 2 ∨
     sliceLE body 8 4 ≠ body.length ∨ 0x400000 < body.length then none
  else
    match sectsFrom (sliceLE body 6 2 + 1) 64 (body.drop 64) with
    | some (l, []) =>
      match l.getLast? with
      | some x => if x.type = 0xFFFF ∧ x.value.length = 64 ∧ l.dropLast.all (fun y => y.type ≠ 0xFFFF) then some l else none
      | none => none
    | _ => none

/-- LAZY of a section. -/
def Sect.lazy (x : Sect) : Bool := bitOf x.flags 0

/-- The section may carry LAZY (R494). -/
def Sect.mayLazy (x : Sect) : Bool :=
  x.type = 3 || (x.type = 8 && 0x8000 ≤ sliceLE x.value 0 4 && sliceLE x.value 0 4 + (x.value.length - 4) ≤ 0x10000) ||
  (x.type = 1 && (let u := sliceLE x.value 0 1; u = 0x23 || u = 0x27 || (0x18 ≤ u && u ≤ 0x1F)))

/-! Rejection (R495) -/

/-- A rejection: REASON, UNIT, INSTANCE, SECTION, ITEM, OFFSET; for a rule over several words the spec names no place (log entry
18). -/
structure Rej where
  reason : Nat
  unit : Nat := 0
  inst : Nat := 0
  sect : Nat := 0
  item : Nat := 0
  off : Nat := 0
  cross : Bool := false
  deriving DecidableEq, Repr

/-- The outcome of a check: the state with what was loaded, or the first failure. -/
inductive Chk where
  | ok (s : State)
  | bad (r : Rej)

/-- Go on after a check that passed. -/
def Chk.andThen (x : Chk) (k : State → Chk) : Chk :=
  match x with
  | .ok s => k s
  | .bad r => .bad r

/-- Go on where a condition holds. -/
def chk (c : Bool) (r : Rej) (s : State) : Chk := if c then .ok s else .bad r

/-- Check every element of a list in order. -/
def chkAll (l : List Nat) (c : Nat → Bool) (r : Nat → Rej) (s : State) : Chk :=
  match l.find? (fun k => !c k) with
  | some k => .bad (r k)
  | none => .ok s

/-- The unit of a code is present on this part (R2, R5). -/
def State.unitPresent (s : State) (u : Nat) : Bool :=
  (unitBlock u || u = 0x09 || u = 0x2A || u = 0x2B) && (!(0x10 ≤ u && u ≤ 0x1F) || s.busPresent (u % 8)) &&
  (!(u = 0x28 || u = 0x29) || s.fullPart) && (u ≠ 0x06 || s.diePresent 13)

/-- The base of a unit's register block (R32). -/
def unitBase (u : Nat) : Nat :=
  if u = 0x2A then 0x06000000 else if u = 0x2B then 0x07000000 else if u = 0x09 then 0x08000000 else 0x05000000 + u * 0x10000

/-! Sections -/

/-- A word as a Script may set it: the fields loaded; CAN4 to CAN7 have no selective wake (R316). -/
def scrMask (d : ScrDef) (a : Nat) : Nat :=
  if 0x05140080 ≤ a ∧ a < 0x05180000 ∧ a % 0x10000 = 0x80 then 0x3
  else if 0x05140084 ≤ a ∧ a < 0x05180000 ∧ 0x84 ≤ a % 0x10000 ∧ a % 0x10000 ≤ 0x90 then 0
  else d.mask

/-- The first absent crew of which the initiators in a list are engines (R7, R234). -/
def State.absentOf (s : State) (l : List Nat) : Option Nat :=
  l.findSome? (fun i => if isEngine i ∧ !s.crewPresent ((i - 0x10) / 8) then some ((i - 0x10) / 8) else none)

/-- Set a word from the Script (R493); a handle that it enables belongs to ACC (R7). -/
def State.scrWord (s : State) (loc : Rej) (a v : Nat) : Chk :=
  match scrDefAt a with
  | none => .bad { loc with reason := 8 }
  | some d =>
    match s.absentOf (d.ids.map (fun p => v / 2 ^ p % 0x100)) with
    | some c => .bad { loc with reason := 7, unit := 0x07, inst := c }
    | none =>
      if a = INP_HC_CFG ∧ INP_HC_CFG_EN.get (BitVec.ofNat 32 v) ≠ 0 ∧ !s.fullPart then .bad { loc with reason := 7, unit := 0x28 }
      else if !d.inRange v then .bad { loc with reason := 8 }
      else
        let m := BitVec.ofNat 32 (scrMask d a)
        let s := s.setReg a ((s.reg a &&& ~~~ m) ||| (BitVec.ofNat 32 v &&& m))
        .ok (if a = INP_HC_CFG then { s with inp := { s.inp with hcCfg := (s.reg a).toNat } } else s)

/-- Consecutive words. -/
def State.scrWords (s : State) (loc : Rej) (a : Nat) : List Nat → Chk
  | [] => .ok s
  | v :: t => (s.scrWord loc a v).andThen (fun s => s.scrWords { loc with off := loc.off + 4 } (a + 4) t)

/-- A byte string as little-endian words. -/
def wordsLE (l : List Byte) : List Nat := (pieces 4 (l.length / 4) l).map natLE

/-- The runs of a UNIT or CONTEXT section within a block of `size` bytes; ITEM counts runs. -/
def State.scrRuns (s : State) (loc : Rej) (base size : Nat) : Nat → List Byte → Chk
  | 0, _ => .ok s
  | fuel + 1, l =>
    let n := sliceLE l 4 2
    let o := sliceLE l 0 4
    if l = [] then .ok s
    else if l.length < 8 + 4 * n ∨ l.length < 8 then .bad { loc with reason := 6 }
    else if sliceLE l 6 2 ≠ 0 ∨ size < o + 4 * n then .bad { loc with reason := 8 }
    else
      (s.scrWords { loc with off := loc.off + 8 } (base + o) (wordsLE ((l.drop 8).take (4 * n)))).andThen (fun s =>
        s.scrRuns { loc with item := loc.item + 1, off := loc.off + 8 + 4 * n } base size fuel (l.drop (8 + 4 * n)))

/-- The envelope of the Script applies now (R144): at the load after power-on or after cause UPDATE, else where nothing is
learned. -/
def State.envTakes (s : State) (c : Nat) : Bool :=
  s.f SYS_RESET_CAUSE_CAUSE = 0 || s.f SYS_RESET_CAUSE_CAUSE = 8 || s.f (CH_SIG_STAT_ENV_STATE c) = 0

/-- An ENVELOPE section (R144, R492): CH_ENV0 to 31, CH_REF0 to 31, ENV_STATE LEARNED, which in Run goes to the die (R158). -/
def State.scrEnvelope (s : State) (c : Nat) (w : List Nat) : State :=
  if !s.envTakes c then s
  else
    let s := (List.range 32).foldl (fun s n =>
      ((s.setF (CH_ENV_LO c n) (w.getD n 0)).setF (CH_ENV_HI c n) (w.getD n 0 / 2 ^ (CH_ENV_HI c n).lo)).setF (CH_REF_CENTRE c n)
        (w.getD (32 + n) 0)) s
    let s := s.setF (CH_SIG_STAT_ENV_STATE c) 2
    if s.boot.phase = .run then s.sendHi c else s

/-- The words of an image of the CREW part (log entry 16). -/
def imageWords (cpart : List Byte) (i : Nat) : List Nat :=
  (List.range (Config.crewImage cpart i 1)).map (fun k => Config.crewImage cpart i (2 + k))

/-- What R234 asks of one engine of a CREW section: its image index, its 40 bytes. -/
def crewEngOk (cpart : List Byte) (pipe : Bool) (e : List Byte) : Bool :=
  let i := sliceLE e 0 2
  let n := Config.crewImage cpart i 1
  let sp := fun (x : Nat) => 1 ≤ x && x ≤ 0x1000
  i = 0xFFFF ||
  (Config.crewImage cpart i 0 = (if pipe then 2 else 1) && n ≤ 4096 && sp (sliceLE e 4 2) && sp (sliceLE e 6 2) &&
   (List.range 16).all (fun k => let v := sliceLE e (8 + 2 * k) 2; v = 0xFFFF || v < n))

/-- One engine of a CREW section: its program, URG_MASK, initial P7 and vectors (R234). -/
def State.scrEngine (s : State) (cpart : List Byte) (c k : Nat) (e : List Byte) : State :=
  let i := sliceLE e 0 2
  let g := 8 * c + k
  if i = 0xFFFF then s
  else
    let s := ((imageWords cpart i).zipIdx).foldl (fun s x => s.wrN (progAt g + 2 * x.2) 2 x.1) s
    let s := (s.setF (ENG_CFG_URG_MASK c k) ((sliceLE e 2 2 ||| 2) / 2 * 2)).setF (ENG_SP_SP_NORMAL c k) (sliceLE e 4 2)
    let s := s.setF (ENG_SP_SP_URGENT c k) (sliceLE e 6 2)
    let vec := (List.range 16).foldl (fun t j => tset (fun _ => 0) t j (sliceLE e (8 + 2 * j) 2)) []
    s.setEng g { s.eng g with vec := vec }

/-- A CREW section (R234, R492). -/
def State.scrCrew (s : State) (loc : Rej) (cpart v : List Byte) : Chk :=
  let c := sliceLE v 0 1
  let cfg := sliceLE v 4 4
  let eng := fun (k : Nat) => (v.drop (8 + 40 * k)).take 40
  let used := (List.range 8).foldl (fun m k => m + if sliceLE (eng k) 0 2 = 0xFFFF then 0 else 2 ^ k) 0
  let sup := cfg / 0x10000 % 0x100
  if !s.crewPresent c then .bad { loc with reason := 7, unit := 0x07, inst := c }
  else
    match (List.range 8).find? (fun k => !crewEngOk cpart (bitOf cfg 0) (eng k)) with
    | some k => .bad { loc with reason := 0x0D, unit := 0x07, inst := c, item := k }
    | none =>
      if isEngine sup ∧ !s.crewPresent ((sup - 0x10) / 8) then .bad { loc with reason := 7, unit := 0x07, inst := (sup - 0x10) / 8 }
      else if (sup ≠ 0 ∧ (sup < 0x10 + 8 * c ∨ 0x18 + 8 * c ≤ sup ∨ !bitOf used (sup - 0x10 - 8 * c))) ∨
         (cfg / 0x100 % 0x100) &&& (0xFF - used) ≠ 0 then
        .bad { loc with reason := 0x0D, unit := 0x07, inst := c }
      else
        let s := (s.setReg (CUE_CREW_CFG c) (BitVec.ofNat 32 (cfg % 4 + cfg / 0x100 % 0x10000 * 0x100))).setF (CUE_CREW_CFG_USED c) used
        .ok ((List.range 8).foldl (fun s k => s.scrEngine cpart c k (eng k)) s)

/-- Where a MEMORY section may write (R492), or what is wrong with it: reason and crew. -/
def State.scrMemAt (s : State) (a n : Nat) : Option (Nat × Nat) :=
  let c := (a - 0x02000000) / 0x100000
  let o := (a - 0x02000000) % 0x100000
  if inStoreRange a n then none
  else if 0x02000000 ≤ a ∧ a < 0x02600000 ∧
      ((0x40000 ≤ o ∧ o + n ≤ 0x48000) ∨ (0x80000 ≤ o ∧ o < 0xA0000 ∧ 0x2000 ≤ o % 0x4000 ∧ o % 0x4000 + n ≤ 0x3000)) then
    if s.crewPresent c then none else some (7, c)
  else some (8, 0)

/-- A GATEWAY run is allowed (R339, R492): its place and its entry. -/
def State.gwRunBad (s : State) (r : List Byte) : Nat :=
  let b := sliceLE r 0 2
  let way := sliceLE r 2 1
  let e : GwEntry := sliceLE r 4 16
  if 0x2000 ≤ b ∨ 4 < way ∨ 64 ≤ sliceLE r 3 1 then 8
  else if gwf e 1 16 1 = 0 then 0
  else if (gwf e 1 18 1 = 1 ∨ gwf e 1 20 1 = 1 ∨ (gwf e 1 22 1 = 1 ∧ gwf e 1 23 1 = 0)) ∧ gwf e 3 10 1 = 0 then 0x11
  else if (gwf e 1 21 1 = 1 ∨ gwf e 1 23 1 = 1) ∧ gwf e 1 24 8 = 0 then 0x11
  else if gwf e 1 5 3 = 7 then 0x11
  else if isEngine (gwf e 1 24 8) ∧ !s.crewPresent ((gwf e 1 24 8 - 0x10) / 8) then 7
  else 0

/-- The runs of a GATEWAY section: an entry goes into its bucket and way, or into the stash, whose shadow takes it as well. -/
def State.scrGateway (s : State) (loc : Rej) : List (List Byte) → Chk
  | [] => .ok s
  | r :: t =>
    let bad := s.gwRunBad r
    if bad ≠ 0 then .bad { loc with reason := bad, unit := if bad = 7 then 0x07 else 0x21,
                                    inst := if bad = 7 then (sliceLE r 11 1 - 0x10) / 8 else 0 }
    else
      let s := if sliceLE r 2 1 = 4 then
          let i := sliceLE r 3 1 * 16
          (s.wrRegBytes (GW_STASH_ACT 0 + i) (laidBytes 0x04000000 (r.drop 4))).wrRegBytes (GW_STASH_SHD 0 + i) (laidBytes 0x04000000 (r.drop 4))
        else s.wrBytes (0x04000000 + sliceLE r 0 2 * 0x40 + sliceLE r 2 1 * 0x10) (laidBytes 0x04000000 (r.drop 4))
      s.scrGateway { loc with item := loc.item + 1, off := loc.off + 20 } t

/-- The declarations of a SETTINGS section (R497). -/
def settingsOf : Nat → List Byte → Option (List (NvmRec × List Byte))
  | 0, l => if l = [] then some [] else none
  | fuel + 1, l =>
    if l = [] then some []
    else
      let n := sliceLE l 2 2
      if l.length < 16 + n then none
      else
        match settingsOf fuel (l.drop (16 + n)) with
        | some t => some (({ key := sliceLE l 0 2, len := n, home := sliceLE l 4 4,
                             writers := (((l.drop 8).take 4).map BitVec.toNat).filter (· ≠ 0), grant := sliceLE l 12 1 },
                           (l.drop 16).take n) :: t)
        | none => none

/-- A SETTINGS section breaks none of the conditions of R497. -/
def settingsOk (l : List NvmRec) : Bool :=
  l.all (fun r => r.key < 0xFF00 && 1 ≤ r.len && r.len ≤ 256 && r.home % 4 = 0 && r.home + r.len ≤ 0x7F000) &&
  (List.range l.length).all (fun i => (List.range i).all (fun j =>
    match l[i]?, l[j]? with
    | some a, some b => a.key ≠ b.key && (a.home + a.len ≤ b.home || b.home + b.len ≤ a.home)
    | _, _ => true))

/-- The records of the loaded Script (R497): one that matches a stored record keeps its content, another takes its initial
content. -/
def State.scrSettings (s : State) (l : List (NvmRec × List Byte)) : State :=
  let home := l.foldl (fun h x => if tget (fun _ => []) h x.1.homeKey = [] then tset (fun _ => []) h x.1.homeKey x.2 else h)
    s.nvm.home
  { s with nvm := { s.nvm with recs := l.map Prod.fst, home := home } }.setF NVM_STAT_RECORDS l.length

/-- The item that may have only one section of its TYPE (R495, reason SECTION). -/
def Sect.once (x : Sect) : Option (Nat × Nat) :=
  match x.type with
  | 3 => some (3, sliceLE x.value 0 1)
  | 4 => some (4, sliceLE x.value 0 1)
  | 7 => some (7, sliceLE x.value 0 2)
  | 9 => some (9, 0)
  | _ => none

/-- LENGTH agrees with TYPE. -/
def Sect.lenOk (x : Sect) : Bool :=
  let n := x.value.length
  match x.type with
  | 1 => 4 ≤ n
  | 2 => 4 ≤ n
  | 3 => n = 260
  | 4 => n = 328
  | 5 => 4 ≤ n
  | 6 => n % 20 = 0
  | 7 => n = 52
  | 8 => 4 ≤ n
  | _ => true

/-- The owners of the frame buffers that bytes at an offset of message RAM set (R320). -/
def msgOwners (o : Nat) (l : List Byte) : List Nat :=
  l.zipIdx.filterMap (fun x =>
    if 0x8000 ≤ o + x.2 ∧ (o + x.2) % 0x1000 < 0x400 ∧ (o + x.2) % 16 = 2 then some x.1.toNat else none)

/-- Load one section, checking it (R492, R495). -/
def State.scrSect (s : State) (cpart : List Byte) (x : Sect) : Chk :=
  let v := x.value
  let loc : Rej := { reason := 0, sect := x.type, off := x.off }
  let body : Rej := { loc with off := x.off + 12 }
  match x.type with
  | 1 =>
    let u := sliceLE v 0 1
    let body := { body with unit := u, inst := sliceLE v 1 1 }
    if !s.unitPresent u then .bad { body with reason := 7 }
    else if sliceLE v 1 3 ≠ 0 then .bad { body with reason := 8 }
    else s.scrRuns body (unitBase u) 0x10000 v.length (v.drop 4)
  | 2 =>
    let c := sliceLE v 0 1
    let body := { body with unit := 0x03, inst := c }
    if !s.chPresent c then .bad { body with reason := 7 }
    else if sliceLE v 1 3 ≠ 0 then .bad { body with reason := 8 }
    else s.scrRuns body (0x03000000 + c * 0x400) 0x400 v.length (v.drop 4)
  | 3 =>
    let c := sliceLE v 0 1
    if !s.chPresent c then .bad { body with reason := 7, unit := 0x03, inst := c }
    else .ok (s.scrEnvelope c (wordsLE (v.drop 4)))
  | 4 => s.scrCrew body cpart v
  | 5 =>
    match s.scrMemAt (sliceLE v 0 4) (v.length - 4) with
    | some (r, c) => .bad { body with reason := r, unit := 0x07, inst := c }
    | none => .ok (s.wrBytes (sliceLE v 0 4) (v.drop 4))
  | 6 => s.scrGateway { body with off := x.off + 8 } (pieces 20 (v.length / 20) v)
  | 7 =>
    let f := sliceLE v 0 2
    if 1024 ≤ f ∨ sliceLE v 2 2 ≠ 0 then .bad { body with reason := 8, unit := 0x21 }
    else
      let s := s.wrBytes (flowAt f) (laidBytes (flowAt f) (v.drop 4))
      chk (s.flowValid f) { body with reason := 0x11, unit := 0x21 } s
  | 8 =>
    let o := sliceLE v 0 4
    let n := o / 0x1000 % 8
    if 0x10000 < o + (v.length - 4) ∨ 0x1000 < o % 0x1000 + (v.length - 4) then .bad { body with reason := 8 }
    else if !s.busPresent n then .bad { body with reason := 7, unit := (if o < 0x8000 then 0x10 else 0x18) + n }
    else
      match s.absentOf (msgOwners o (v.drop 4)) with
      | some c => .bad { body with reason := 7, unit := 0x07, inst := c }
      | none => .ok (s.wrBytes (0x04700000 + o) (laidBytes (0x04700000 + o) (v.drop 4)))
  | 9 =>
    match settingsOf v.length v with
    | none => .bad { body with reason := 6, unit := 0x2B }
    | some l =>
      match s.absentOf (l.flatMap (fun x => x.1.writers)) with
      | some c => .bad { body with reason := 7, unit := 0x07, inst := c }
      | none => if settingsOk (l.map Prod.fst) then .ok (s.scrSettings l) else .bad { body with reason := 0x16, unit := 0x2B }
  | _ => .ok s

/-- The sections in Script order, with the checks of R495 that concern one section: CRC, then TYPE, FLAGS and LENGTH, then
content. -/
def State.scrSects (s : State) (cpart : List Byte) : List (Nat × Nat) → List Sect → Chk
  | _, [] => .ok s
  | seen, x :: t =>
    let loc : Rej := { reason := 0, sect := x.type, off := x.off }
    let dup : Bool := match x.once with | some k => seen.contains k | none => false
    let unknown : Bool := (x.type = 0 || 9 < x.type) && x.type ≠ 0xFFFF
    if !x.crcOk then .bad { loc with reason := 5 }
    else if (unknown && bitOf x.flags 1) ∨ !x.lenOk ∨ dup then .bad { loc with reason := 6 }
    else if 4 ≤ x.flags then .bad { loc with reason := 8 }
    else if x.lazy ∧ !x.mayLazy then .bad { loc with reason := 0x17 }
    else (s.scrSect cpart x).andThen (fun s => s.scrSects cpart (match x.once with | some k => k :: seen | none => seen) t)

/-- The state in which no Script word is loaded: the words of R493 at their reset values; TK_ROLE stays. -/
def State.scrBlank (s : State) : State :=
  let role := s.f TRK_CFG_ROLE
  { s with regs := s.regs.filter (fun e => (scrDefAt e.1).isNone) }.setF TRK_CFG_ROLE role

/-! Rules over several words (R495, codes 0x08 to 0x18) -/

/-- A rejection by such a rule. -/
def rejX (reason unit inst : Nat) : Rej := { reason := reason, unit := unit, inst := inst, cross := true }

/-- The block of a Script word is present on this part. -/
def State.scrPresent (s : State) (a : Nat) : Bool :=
  if 0x03000000 ≤ a ∧ a < 0x03021000 then s.chPresent ((a - 0x03000000) / 0x400)
  else if 0x02000000 ≤ a ∧ a < 0x02600000 then false
  else if 0x05041000 ≤ a ∧ a < 0x05041400 then s.diePresent ((a - 0x05041000) / 0x40)
  else if 0x05000000 ≤ a ∧ a < 0x06000000 then s.unitPresent ((a - 0x05000000) / 0x10000)
  else true

/-- Every Script word lies within its ranges, also where no section sets it (R493). -/
def State.scrZero (s : State) : Chk :=
  match (scrTable.flatMap (fun d => d.words.map (fun a => (d, a)))).find? (fun x =>
      s.scrPresent x.2 && !x.1.inRange (s.reg x.2).toNat) with
  | some x => .bad (rejX 8 (if x.2 < 0x04000000 then 0x03 else if x.2 < 0x06000000 then (x.2 - 0x05000000) / 0x10000 else 0x2A)
      (if x.2 < 0x04000000 then (x.2 - 0x03000000) / 0x400 else 0))
  | none => .ok s

/-- The channels of the part. -/
def State.allCh (s : State) : List Nat := (List.range 132).filter s.chPresent

/-- ITRIP lies in the range of its class (R117), IHOLD below IPEAK, FSYNC_OFS within half a period. -/
def State.scrRange (s : State) : Chk :=
  let lim := fun (c : Nat) => match chClass c with
    | 0 => (600, 3000)
    | 1 => (500, 2500)
    | 2 => (400, 2400)
    | 3 => (1000, 3000)
    | _ => (0, 4095)
  (chkAll s.allCh (fun c =>
    let i := s.f (CH_TRIP_CFG_ITRIP c)
    (lim c).1 ≤ i && i ≤ (lim c).2 && (c < 116 || s.f (CH_S_CFG_IHOLD c) < s.f (CH_S_CFG_IPEAK c)))
    (rejX 8 0x03) s).andThen (fun s =>
  chk (2 * (signed 16 (s.f FRM_FSYNC_OFS_OFS_US)).natAbs ≤ s.f FRM_CFG_PERIOD_US) (rejX 8 0x08 0) s)

/-- The other channel of a pair. -/
def pairOf (c : Nat) : Nat := if c % 2 = 0 then c + 1 else c - 1

/-- GANG: pairs of 2k and 2k + 1 (R121), and at most 8 sleep-kept channels, of class L (R148). -/
def State.scrGang (s : State) : Chk :=
  (chkAll s.allCh (fun c =>
    if s.on (CH_CFG_GANG c) then s.on (CH_CFG_GANG (pairOf c)) && chLink c = chLink (pairOf c) && s.f (CH_CFG_ODD c) = c % 2
    else !s.on (CH_CFG_ODD c)) (rejX 9 0x03) s).andThen (fun s =>
  (chkAll s.allCh (fun c => !s.on (CH_CFG_KEPT c) || chClass c = 2) (rejX 9 0x03) s).andThen (fun s =>
  chk ((s.allCh.filter (fun c => s.on (CH_CFG_KEPT c))).length ≤ 8) (rejX 9 0x03 0) s))

/-- BRIDGE (R184). -/
def State.scrBridge (s : State) : Chk :=
  chkAll (s.allCh.filter (fun c => chClass c = 3)) (fun c =>
    let p := s.f (CH_B_CFG_PARTNER c)
    match s.f (CH_B_CFG_ROLE c) with
    | 0 => true
    | 3 => false
    | r =>
      104 ≤ p && p < 116 && s.f (CH_B_CFG_PARTNER p) = c && s.f (CH_B_CFG_ROLE p) = 3 - r &&
      chLink c = chLink p && (if r = 1 then c < p else p < c) && s.f (CH_CFG_GANG c) = s.f (CH_CFG_GANG p) &&
      (!s.on (CH_CFG_GANG c) || (!s.on (CH_CFG_ODD c) && !s.on (CH_CFG_ODD p)))) (rejX 0x0A 0x05) s

/-- THERMAL: die nodes and thresholds (R172; a step is 10 µs). -/
def State.scrThermal (s : State) : Chk :=
  (chkAll ((List.range 14).filter s.diePresent) (fun k =>
    let jd := s.f (LDG_DG0_G_JD k)
    let ds := s.f (LDG_DG0_G_DS k)
    let sf := s.f (LDG_DG1_G_SF k)
    let fp := s.f (LDG_DG1_G_FP k)
    jd ≤ 50 * s.f (LDG_DC_C k 0) && jd + ds ≤ 50 * s.f (LDG_DC_C k 1) && ds + sf ≤ 50 * s.f (LDG_DC_C k 2) &&
    sf + fp ≤ 50 * s.f (LDG_DC_C k 3) &&
    s.f (LDG_DTH_TJ_DERATE k) < s.f (LDG_DTH_TJ_CEIL k) && s.f (LDG_DTH_TJ_CEIL k) ≤ 150 && 150 < s.f (LDG_DTH_TJ_FUSE k) &&
    s.f (LDG_DTH_TJ_FUSE k) ≤ 165) (rejX 0x0B 0x04) s).andThen (fun s =>
  (chkAll (List.range 160) (fun w =>
    let src := s.f (LDG_W1_AMB_SRC w)
    let gci := s.f (LDG_W3_GCI w)
    s.f (LDG_W2_CC w) ≠ 0 && s.f (LDG_W2_CI w) ≠ 0 && gci ≤ 50000 * s.f (LDG_W2_CC w) &&
    gci + s.f (LDG_W3_GIA w) ≤ 50000 * s.f (LDG_W2_CI w) && s.f (LDG_W4_DERATE_M w) < s.f (LDG_W4_RELEASE_M w) &&
    (src = 0 || (src < 0x40 && s.f (MEAS_TCFG_SRC src) ≠ 0) || (0x41 ≤ src && src ≤ 0x4D))) (rejX 0x0B 0x04) s).andThen (fun s =>
  chkAll s.allCh (fun c => s.f (CH_WIRE_WIRE c) < 160 || s.f (CH_WIRE_WIRE c) = 255) (rejX 0x0B 0x03) s))

/-- FAILSAFE: the actions of each class (R226). -/
def State.scrFailsafe (s : State) : Chk :=
  chkAll s.allCh (fun c =>
    let a := s.f (STR_FS_TABLE_ACTION c)
    let light := s.on (STR_FS_TABLE_LIGHT c)
    if s.on (CH_CFG_ODD c) ∨ (chClass c = 3 ∧ s.f (CH_B_CFG_ROLE c) = 2) then s.reg (STR_FS_TABLE c) = 0
    else match chClass c with
      | 3 => (a = 0 || a = 1 || a = 4 || a = 5) && !light
      | 4 => a ≤ 1 && !light
      | _ => a ≤ 3 && (!light || a = 2 || a = 3)) (rejX 0x0C 0x2A) s

/-- BOOST (R198). -/
def State.scrBoost (s : State) : Chk :=
  let v := s.f SOL_BST_CFG_VBST_SET
  let f := s.f SOL_BST_CFG_V_FLOOR
  chk (!s.diePresent 13 || ((if s.on PWR_CFG_SYS24 then 72 ≤ v && v ≤ 112 else 48 ≤ v && v ≤ 96) && 24 ≤ f && f + 8 ≤ v))
    (rejX 0x0E 0x06 0) s

/-- CAN (R297, R316). -/
def State.scrCan (s : State) : Chk :=
  chkAll ((List.range 8).filter s.busPresent) (fun n =>
    let nq := s.f (CAN_NBT_NTSEG1 n) + s.f (CAN_NBT_NTSEG2 n) + 3
    let ncy := nq * (s.f (CAN_NBT_NBRP n) + 1)
    let dq := s.f (CAN_DBT_DTSEG1 n) + s.f (CAN_DBT_DTSEG2 n) + 3
    let dcy := dq * (s.f (CAN_DBT_DBRP n) + 1)
    let rate := match s.f (CAN_TRX_CFG_SW_RATE n) with | 0 => 640 | 1 => 320 | 2 => 160 | _ => 80
    8 ≤ nq && nq ≤ 385 && 1 ≤ s.f (CAN_NBT_NTSEG2 n) && s.f (CAN_NBT_NSJW n) ≤ s.f (CAN_NBT_NTSEG2 n) && 80 ≤ ncy &&
    5 ≤ dq && dq ≤ 49 && s.f (CAN_DBT_DSJW n) ≤ s.f (CAN_DBT_DTSEG2 n) && dcy ≤ ncy && (if n < 4 then 16 else 10) ≤ dcy &&
    (80 ≤ dcy || s.on (CAN_DBT_TDC_EN n)) && (!s.on (CAN_DBT_TDC_EN n) || s.f (CAN_DBT_DBRP n) ≤ 1) &&
    (4 ≤ n || !s.on (CAN_TRX_CFG_SW_EN n) || ncy = rate)) (fun n => rejX 0x0F (0x10 + n) 0) s

/-- A buffer in use: it has a length. -/
def State.linUsed (s : State) (n b : Nat) : Bool := s.mf (lbLEN n b) ≠ 0

/-- A schedule table up to its END slot, if it has one; a table of zeros is not in use. -/
def State.linTable (s : State) (n t : Nat) : Option (List Nat) :=
  let l := (List.range 64).map (fun k => s.rdN (0x04708400 + n * 0x1000 + t * 0x100 + k * 4) 4)
  if l.all (· = 0) then some []
  else match (List.range 64).find? (fun k => bitOf (l.getD k 0) 17) with
    | some k => some (l.take (k + 1))
    | none => none

/-- LIN (R319 to R321). -/
def State.scrLin (s : State) : Chk :=
  chkAll ((List.range 8).filter s.busPresent) (fun n =>
    let div := s.f (LIN_CFG0_DIV n)
    let used := (List.range 64).filter (s.linUsed n)
    (!s.on (LIN_CFG0_SLOPE n) || 80000000 ≤ 10400 * div) &&
    used.all (fun b =>
      s.mf (lbLEN n b) ≤ 8 && (s.mf (lbTYPE n b) ≠ 3 || s.mf (lbFID n b) = 0x3C || s.mf (lbFID n b) = 0x3D) &&
      used.all (fun d => b = d || s.mf (lbFID n b) ≠ s.mf (lbFID n d) || s.mf (lbDIR n b) ≠ s.mf (lbDIR n d) ||
        s.mf (lbTYPE n b) = 1 || s.mf (lbTYPE n d) = 1)) &&
    (List.range 4).all (fun t =>
      match s.linTable n t with
      | none => false
      | some l => l.all (fun w =>
          let d := w / 0x40 % 0x100
          d ≠ 0 && (bitOf w 14 || 1750 * (44 + 10 * s.mf (lbLEN n (w % 0x40))) * div ≤ d * 100000000))))
    (fun n => rejX 0x10 (0x18 + n) 0) s

/-- The entries that the GATEWAY sections place: bucket, way, entry. -/
def gwPlaced (l : List Sect) : List (Nat × Nat × GwEntry) :=
  let all := (l.filter (fun x => x.type = 6)).flatMap (fun x =>
    (pieces 20 (x.value.length / 20) x.value).map (fun r =>
      (if sliceLE r 2 1 = 4 then 0x2000 + sliceLE r 3 1 else sliceLE r 0 2, sliceLE r 2 1, sliceLE r 4 16)))
  all.foldl (fun t x => t.filter (fun y => y.1 ≠ x.1 || y.2.1 ≠ x.2.1) ++ [x]) []

/-- GATEWAY: placement and uniqueness of the entries, MISS (R339, R342). -/
def State.scrGw (s : State) (l : List Sect) : Chk :=
  let es := (gwPlaced l).filter (fun x => gwf x.2.2 1 16 1 = 1)
  let key := fun (e : GwEntry) => gwf e 1 0 16 + gwf e 0 0 32 * 0x10000
  (chk (es.all (fun x => 0x2000 ≤ x.1 || gwBucket (s.f GW_CFG_HASH_SEED) (key x.2.2) = x.1) &&
        (List.range es.length).all (fun i => (List.range i).all (fun j =>
          match es[i]?, es[j]? with
          | some a, some b => key a.2.2 ≠ key b.2.2
          | _, _ => true))) (rejX 0x11 0x21 0) s).andThen (fun s =>
  chkAll (List.range 21) (fun p =>
    s.f (GW_PORT_CFG_MISS p) ≤ 1 || (s.f (GW_PORT_CFG_MISS p) = 2 && s.f (GW_PORT_CFG_MISS_ENGINE p) ≠ 0))
    (fun _ => rejX 0x11 0x21 0) s)

/-- NM (R382 and the conditions under NM registers). -/
def State.scrNm (s : State) : Chk :=
  chkAll ((List.range 19).filter (fun k => 16 ≤ k || s.busPresent (k % 8))) (fun k =>
    s.f (NM_SEG_TIME_T_TYP k) < s.f (NM_SEG_TIME_T_MAX k) && s.f (NM_SEG_TIME_T_MAX k) < s.f (NM_SEG_TIME_LISTEN_T k) &&
    s.f (NM_SEG_TIME_T_WAIT_BUS_SLEEP k) ≠ 0 && s.f (NM_SEG_CFG0_BASE_ID k) + 63 ≤ 0x7FF &&
    !bitOf (s.f (NM_SEG_CFG1_NEED_MASK k)) k &&
    (!s.on (NM_SEG_CFG0_NM_EN k) || (k ≠ 16 && (k < 8 || 16 ≤ k ||
      (List.range 64).any (fun b => s.linUsed (k - 8) b && s.mf (lbFID (k - 8) b) = 0x3C))))) (fun _ => rejX 0x12 0x23 0) s

/-- TRUNK, on an expansion (R386, R393; the master's PERIOD_US cannot be seen before the link has trained: log entry 18). -/
def State.scrTrunk (s : State) : Chk :=
  chk (!s.on TRK_CFG_ROLE || (!s.on ZRT_CFG_UDP_EN && !s.on ZRT_CFG_RAW_EN && !s.on FRM_CFG_FSYNC_EN)) (rejX 0x13 0x24 0) s

/-- RANGES (R401): a POSTED range lies in a Larder. -/
def State.scrRanges (s : State) : Chk :=
  chkAll (List.range 32) (fun r =>
    let lo := s.f (BRG_RANGE_BASE_BASE r) * 0x1000
    let hi := s.f (BRG_RANGE_LIMIT_LIMIT r) * 0x1000 + 0xFFF
    !s.on (BRG_RANGE_ATTR_VALID r) || !s.on (BRG_RANGE_ATTR_POSTED r) ||
    (List.range 4).any (fun n => n * 0x10000000 + 0x01000000 ≤ lo && hi ≤ n * 0x10000000 + 0x011FFFFF))
    (fun _ => rejX 0x14 0x25 0) s

/-- INPUT: wetting currents and curves (R412, R422). -/
def State.scrInput (s : State) : Chk :=
  let on := (List.range 96).filter (fun n => s.f (INP_CFG_MODE n) ≠ 0)
  (chkAll (List.range 96) (fun n => s.f (INP_CFG_WET_I n) ≤ 20 && (s.f (INP_CFG_MODE n) = 0 || s.f (INP_CFG_WET_I n) ≠ 0))
    (fun _ => rejX 0x15 0x26 0) s).andThen (fun s =>
  (chk (on.foldl (fun a n => a + s.f (INP_CFG_WET_I n)) 0 ≤ 500) (rejX 0x15 0x26 0) s).andThen (fun s =>
  (chkAll (List.range 4) (fun c => (List.range 15).all (fun k => s.f (MEAS_CURVE_P_MV c k) < s.f (MEAS_CURVE_P_MV c (k + 1))))
    (fun _ => rejX 0x15 0x27 0) s).andThen (fun s =>
  chkAll ((List.range 64).drop 1) (fun t => s.f (MEAS_TCFG_SRC t) ≠ 2 ||
      (s.f (MEAS_TCFG_INDEX t) < 96 && s.on (INP_CFG_ANA (s.f (MEAS_TCFG_INDEX t))))) (fun _ => rejX 0x15 0x27 0) s)))

/-- PROFILE (R131); class S does not use the table (R201). -/
def State.scrProfile (s : State) : Chk :=
  chkAll s.allCh (fun c => !s.on (CH_PROF_CTL_MODE c) || chClass c = 4 ||
      profReject ((s.profWords c).drop 1) (s.f (CH_PROF_CTL_EDGE_START c)) (s.f (CH_TRIP_CFG_ITRIP c)) = 0) (rejX 0x18 0x03) s

/-- The essential sections and the CREW part together fit into 2 MiB (R494). -/
def lazyFits (l : List Sect) (cpart : List Byte) : Bool :=
  ((l.filter (fun x => !x.lazy)).foldl (fun a x => a + sectSize x.value.length) 0) + cpart.length ≤ 0x200000

/-- The rules over several words, in the order of their codes. -/
def State.scrRules (s : State) (l : List Sect) (cpart : List Byte) : Chk :=
  s.scrZero.andThen (fun s => s.scrRange.andThen (fun s => s.scrGang.andThen (fun s => s.scrBridge.andThen (fun s =>
  s.scrThermal.andThen (fun s => s.scrFailsafe.andThen (fun s => s.scrBoost.andThen (fun s => s.scrCan.andThen (fun s =>
  s.scrLin.andThen (fun s => (s.scrGw l).andThen (fun s => s.scrNm.andThen (fun s => s.scrTrunk.andThen (fun s =>
  s.scrRanges.andThen (fun s => s.scrInput.andThen (fun s =>
  (chk (lazyFits l cpart) (rejX 0x17 0 0) s).andThen (fun s => s.scrProfile)))))))))))))))

/-! The whole Script -/

/-- The CREW part's body in the package at an MRAM offset. -/
def State.crewPart (s : State) (b : Nat) : List Byte :=
  match s.pkPart b 2 with
  | some p => s.ptBody p
  | none => []

/-- The Script's body in the package at an MRAM offset. -/
def State.scriptBody (s : State) (b : Nat) : List Byte :=
  match s.pkPart b 1 with
  | some p => s.ptBody p
  | none => []

/-- The bit of VARIANTS for a part (R490). -/
def variantBit (v : Config.Variant) : Nat :=
  match v with
  | .pz7480 => 0
  | .pz7472 => 1
  | .pz7456 => 2

/-- The signature of a Script (R491). -/
def State.scriptSigOk (s : State) (body : List Byte) (l : List Sect) : Bool :=
  match l.getLast? with
  | some x => s.sigOk (body.take x.off) x.value
  | none => false

/-- The validation of a Script (R495): the state with every section loaded, or the first failure; `sig` whether the signature is
verified, which the authentication of the slot has done at a load (R503). -/
def State.scriptCheck (s : State) (sig : Bool) (body cpart : List Byte) : Chk :=
  match scriptSects body with
  | none => .bad { reason := 1 }
  | some l =>
    if sig && !s.scriptSigOk body l then .bad { reason := 2 }
    else if !bitOf (sliceLE body 12 1) (variantBit s.variant) then .bad { reason := 3 }
    else if sliceLE body 13 1 ≠ s.f TRK_CFG_ROLE then .bad { reason := 4 }
    else (s.scrBlank.scrSects cpart [] l).andThen (fun t => t.scrRules l cpart)

/-- The load of the essential sections in Script order (R494); lazy ones wait. -/
def State.scriptApply (s : State) (body cpart : List Byte) : State :=
  match scriptSects body with
  | none => s
  | some l =>
    let lz := (l.filter Sect.lazy).map (fun x => (x.type, x.value))
    match s.scrBlank.scrSects cpart [] (l.filter (fun x => !x.lazy)) with
    | .ok t => { t with upd := { t.upd with lazy := lz } }.setF UPD_LAZY_PENDING (b2n (lz ≠ []))
    | .bad _ => s

/-- What the Script names without a register (log entry 7). -/
def State.scriptScr (s : State) (body : List Byte) : State :=
  let n := Config.scriptNames body
  { s with scr := { frmEngine := (n 0).headD 0, voters := n 1, attic := n 2, keptTrip := n 3 ≠ [], trkEngine := (n 4).headD 0 } }

end Sys2Proof.Machine
end

