-- ==== Sys2Proof/Machine/Update.lean ====
section
/-! DEFINITION. Updates (R502 to R512, R515): the verdict of a slot, the UPD commands, trial, acceptance and revert. What an
expansion answers over the Trunk is an operand of the commands that ask it. -/

namespace Sys2Proof.Machine

/-! Verdicts and authentication (R502, R503) -/

/-- The verdict record of a slot. -/
def State.verdict (s : State) (sl : Nat) : Verdict := tget (fun _ => {}) s.upd.verdicts sl

/-- The SHA-256 of a section, as a number. -/
def sectSha (body : List Byte) (x : Sect) : Nat := natBE (sha256 ((body.drop x.off).take (sectSize x.value.length)))

/-- The verdict record of the package in a slot (R502). -/
def State.verdictOf (s : State) (sl : Nat) : Verdict :=
  let b := slotAt sl
  let body := s.scriptBody b
  { gen := s.pkGen b
    parts := ((s.pkParts b).filter (fun p => p.type ≠ 5)).map (fun p => (p.type, s.ptSha p))
    sections := ((scriptSects body).getD []).map (sectSha body) }

/-- The digest of a part of a TYPE agrees with the record, also where there is none. -/
def State.digestOk (s : State) (sl type : Nat) : Bool :=
  match s.pkPart (slotAt sl) type, (s.verdict sl).parts.find? (fun p => p.1 = type) with
  | some p, some v => s.ptSha p = v.2
  | none, none => true
  | _, _ => false

/-- The record of a slot is CHECKED, TRIAL or GOOD (R503). -/
def State.recordOk (s : State) (sl : Nat) : Bool :=
  let st := s.f (slotStateRF sl)
  2 ≤ st && st ≤ 4

/-- Full authentication of a slot (R503). -/
def State.authFull (s : State) (sl : Nat) : Bool :=
  let body := s.scriptBody (slotAt sl)
  s.recordOk sl && s.pkGen (slotAt sl) = (s.verdict sl).gen &&
  (match scriptSects body with | some l => s.scriptSigOk body l | none => false) &&
  [1, 2, 3, 4].all (s.digestOk sl)

/-- The check of a warm boot or a Deep sleep exit with a held verdict (R503): essential sections, CREW, STRFW and IFSEQ. -/
def State.authQuick (s : State) (sl : Nat) : Bool :=
  let body := s.scriptBody (slotAt sl)
  let v := (s.verdict sl).sections
  s.recordOk sl && [2, 3, 4].all (s.digestOk sl) &&
  (match scriptSects body with
    | some l => l.length = v.length && (l.zip v).all (fun x => x.1.lazy || sectSha body x.1 = x.2)
    | none => false)

/-- The generation and the versions that the UPD registers show. -/
def State.updShow (s : State) : State :=
  let a := s.f UPD_SLOTS_ACTIVE
  let ver := fun (sl k : Nat) => match s.pkPart (slotAt sl) k with | some p => s.ptVersion p | none => 0
  let s := s.setF UPD_ACTIVE_GEN_GEN (if s.pkOk (slotAt a) then s.pkGen (slotAt a) else 0)
  (List.range 4).foldl (fun s k => (s.setF (UPD_VER_ACT_VER k) (ver a (k + 1))).setF (UPD_VER_INA_VER k) (ver (1 - a) (k + 1))) s

/-! Events and rejections -/

/-- An event of UPD: stamped, and cued to the owner (the chapter's list of codes). -/
def State.updEvent (s : State) (code data : Nat) : State :=
  (s.stampUnit 0x2C code data).unitCue (s.f UPD_CFG_OWNER) 0x2C code (Config.cueOpen 7 (0x2C00 + code) 1 % 0x10000) (openData 0x2C code)

/-- UPD_REJ3 names a part or an expansion (R506, R507). -/
def State.rejPart (s : State) (type target conf confTarget module version : Nat) : State :=
  let s := ((s.setF UPD_REJ3_CHK_TYPE type).setF UPD_REJ3_CHK_TARGET target).setF UPD_REJ3_CONF_TYPE conf
  ((s.setF UPD_REJ3_CONF_TARGET confTarget).setF UPD_REJ3_MODULE module).setF UPD_REJ4_CONF_VERSION version

/-- The rejection record is cleared but for VALID, before a failure that is not of the Script. -/
def State.rejClear (s : State) : State :=
  (((s.setReg UPD_REJ0 0).setF UPD_REJ0_VALID 1).setReg UPD_REJ1 0).setReg UPD_REJ2 0

/-- A Script is rejected (R7, R495): UPD_REJ, REJECTED, a record of the same content. Where a rule over several words fails,
SECTION, ITEM and OFFSET are free (log entry 18). -/
def State.updReject (s : State) (r : Rej) (type : Nat) : State :=
  let s := ((s.rejClear.setF UPD_REJ0_REASON r.reason).setF UPD_REJ0_UNIT r.unit).setF UPD_REJ0_INSTANCE r.inst
  let s := s.rejPart type 0 0 0 0 0
  let s := if r.cross then
      let s := (s.setF UPD_REJ1_SECTION s.draw).drawn
      let s := (s.setF UPD_REJ1_ITEM s.draw).drawn
      (s.setF UPD_REJ2_OFFSET s.draw).drawn
    else ((s.setF UPD_REJ1_SECTION r.sect).setF UPD_REJ1_ITEM r.item).setF UPD_REJ2_OFFSET r.off
  let w := fun (a k : Nat) => (s.reg a).toNat * 2 ^ (32 * k)
  (s.raise UPD_FLAG_REJECTED UPD_FLAG_CNT_COUNT).updEvent 0x01 (w UPD_REJ0 0 + w UPD_REJ1 1 + w UPD_REJ2 2 + w UPD_REJ3 3)

/-! Revert and accept (R509 to R511) -/

/-- The update in progress is over. -/
def State.updOver (s : State) : State :=
  { s.setF UPD_STAT_STATE 0 with upd := { s.upd with busy := false, exps := [], trialNew := false } }

/-- What a revert records (R511): the trial slot is FAILED, the previous one active again, the master's outcome. -/
def State.revertRecord (s : State) (cause : Nat) : State :=
  let a := s.f UPD_SLOTS_ACTIVE
  let s := ((s.setF (slotStateRF a) 5).setF UPD_SLOTS_ACTIVE (1 - a)).updOver
  let s := if s.f TRK_CFG_ROLE = 0 then (s.setF UPD_LAST_OUTCOME 3).setF UPD_LAST_CAUSE cause else s
  ((s.raise UPD_FLAG_REVERTED UPD_FLAG_CNT_COUNT).updEvent 0x04 cause).updShow

/-- A full reset with cause UPDATE is due. -/
def State.updateReset (s : State) : State := { s with boot := { s.boot with due := some (8, 0, 0) } }

/-- A revert (R511). -/
def State.updRevert (s : State) (cause : Nat) : State := (s.revertRecord cause).updateReset

/-- An acceptance (R510): the slot is GOOD, the Script's MODE takes effect, records that it does not declare are freed (R497). -/
def State.updAccept (s : State) : State :=
  let s := s.setF (slotStateRF (s.f UPD_SLOTS_ACTIVE)) 4
  let s := if s.f TRK_CFG_ROLE = 0 then s.setF UPD_LAST_OUTCOME 2 else s
  let s := (s.updOver.setF UPD_CFG_MODE s.upd.modeNew).setF STR_SCRIPT_VERDICT_TRIAL 0
  ((s.raise UPD_FLAG_ACCEPTED UPD_FLAG_CNT_COUNT).updEvent 0x03 0).storeFree

/-- TRIAL_TIMEOUT (R510): the master's trial time expires. -/
def execTrialTimeout (s : State) : Host.Outcome State Fault Refusal :=
  go (if s.f UPD_STAT_STATE = 3 ∧ s.f TRK_CFG_ROLE = 0 then s.updRevert 1 else s)

/-- EXPANSION_TRIAL_DECIDE (R512): at expiry, or when the link has trained again, an expansion in trial follows the LAST_GEN and
LAST_OUTCOME that it reads from the master. The cause of a revert there is not stated. -/
def execExpansionTrialDecide (gen : Word) (outcome : Fin 4) (s : State) : Host.Outcome State Fault Refusal :=
  go (if s.f UPD_STAT_STATE ≠ 3 ∨ s.f TRK_CFG_ROLE = 0 then s
  else
    let same : Bool := gen.toNat = s.f UPD_ACTIVE_GEN_GEN
    if same ∧ outcome.val = 2 then s.updAccept
    else if same ∧ outcome.val = 1 then s
    else s.drawn.updRevert (s.draw % 16))

/-! Commands (R505 to R508, R515) -/

/-- The initiator may command UPD (R505, R513): on an expansion also its master. -/
def State.updMay (s : State) (init : Nat) : Bool :=
  if s.boot.phase = .recovery then isStr init || init = 0x40 || init = 0x49 || init = 0x50
  else isStr init || (s.f UPD_CFG_OWNER ≠ 0 && init = s.f UPD_CFG_OWNER) ||
    (isSession init && bitOf (s.f UPD_CFG_ZRT_GRANT) (init - 0x40)) || (init = 0x50 && s.f TRK_CFG_ROLE ≠ 0)

/-- A command of an authorised writer; any other is ignored and counted. -/
def State.updCmd (s : State) (init : Nat) (k : State → State) : State :=
  if !s.updMay init ∨ s.on UPD_STAT_BUSY then s.incSat UPD_LAST_REFUSED else k s

/-- A command ends with RESULT and CMD_DONE to the writer (R505). -/
def State.updEnd (s : State) (init result : Nat) : State :=
  let s := (s.setF UPD_STAT_RESULT result).stampUnit 0x2C 0x07 0
  if isEngine init || isSession init then
    s.unitCue init 0x2C 0x07 (Config.cueOpen 7 0x2C07 1 % 0x10000) (openData 0x2C 0x07)
  else s

/-- STATE of UPD without an update in progress: IDLE, in recovery RECOVERY. -/
def State.updRest (s : State) : Nat := if s.boot.phase = .recovery then 4 else 0

/-- The slot that a new update fills: the inactive one; in recovery one that is not GOOD, by SLOT where neither is (R515). -/
def State.updTarget (s : State) (slot : Nat) : Option Nat :=
  if s.boot.phase ≠ .recovery then some (1 - s.f UPD_SLOTS_ACTIVE)
  else
    match decide (s.f UPD_SLOTS_STATE_A = 4), decide (s.f UPD_SLOTS_STATE_B = 4) with
    | true, true => none
    | true, false => some 1
    | false, true => some 0
    | false, false => some slot

/-- BEGIN. -/
def State.updBegin (s : State) (init slot : Nat) : State :=
  match s.updTarget slot with
  | none => s.updEnd init 1
  | some sl =>
    if s.upd.busy then s.updEnd init 1
    else
      let s := (s.setF (slotStateRF sl) 1).setF UPD_STAT_STATE 1
      { s with upd := { s.upd with busy := true, slot := sl, mode := s.f UPD_CFG_MODE, exps := [] } }.updEnd init 0

/-- UPD_BEGIN (R505). -/
def execUpdBegin (init : Byte) (slot : Fin 2) (s : State) : Host.Outcome State Fault Refusal :=
  go (s.updCmd init.toNat (fun s => s.updBegin init.toNat slot))

/-- PROGRAM. -/
def State.updProgram (s : State) (init : Nat) : State :=
  let src := s.f UPD_XFER_SRC_SRC
  let dst := s.f UPD_XFER_DST_DST
  let n := s.f UPD_XFER_LEN_LEN
  if s.f UPD_STAT_STATE ≠ 1 then s.updEnd init 1
  else if n < 4 ∨ 65536 < n ∨ n % 4 ≠ 0 ∨ !inStoreRange src n ∨ 0x600000 < dst + n then s.updEnd init 10
  else
    let x := s.storeRead 0x63 src n
    (x.2.mwrBytes (slotAt s.upd.slot + dst) x.1).updEnd init 0

/-- UPD_PROGRAM (R505). -/
def execUpdProgram (init : Byte) (s : State) : Host.Outcome State Fault Refusal :=
  go (s.updCmd init.toNat (fun s => s.updProgram init.toNat))

/-- COPY_PART; a part that the active slot does not have, or that does not fit, is out of range. -/
def State.updCopyPart (s : State) (init type target : Nat) : State :=
  let dst := s.f UPD_XFER_DST_DST
  if s.f UPD_STAT_STATE ≠ 1 ∨ s.upd.mode ≠ 1 then s.updEnd init 1
  else
    match (s.pkParts (slotAt (1 - s.upd.slot))).find? (fun p => p.type = type && p.target = target) with
    | none => s.updEnd init 10
    | some p =>
      if 0x600000 < dst + p.len then s.updEnd init 10
      else (s.mwrBytes (slotAt s.upd.slot + dst) (s.mrdBytes p.at_ p.len)).updEnd init 0

/-- UPD_COPY_PART (R505). -/
def execUpdCopyPart (init : Byte) (type : Fin 16) (target : Fin 4) (s : State) : Host.Outcome State Fault Refusal :=
  go (s.updCmd init.toNat (fun s => s.updCopyPart init.toNat type target))

/-- What is wrong with a part (R506 step 2): the RESULT, 0 nothing. A SCRIPT part's signature is the Script's own. -/
def State.partFail (s : State) (b : Nat) (p : PkPart) : Nat :=
  let n := s.ptLen p
  if !s.ptOk b p then 2
  else if p.type ≠ 1 ∧ !s.sigOk (s.mrdBytes p.at_ (128 + n)) (s.mrdBytes (p.at_ + 128 + n) 64) then 3
  else if s.ptSha p ≠ natBE (s.mrdBytes (p.at_ + 16) 32) then 4
  else 0

/-- The parts that a MANIFEST must list (R501, R506): TYPE, TARGET, VERSION, SHA-256. -/
def State.manifestNeeds (s : State) (b : Nat) : List (Nat × Nat × Nat × Nat) :=
  let row := fun (t : Nat) (p : PkPart) => (p.type, t, s.ptVersion p, s.ptSha p)
  (((s.pkParts b).filter (fun p => p.type ≠ 6)).map (fun p => row p.target p)) ++
  ((s.pkParts b).filter (fun p => p.type = 5)).flatMap (fun e =>
    ((s.pkParts (e.at_ + 128)).filter (fun p => p.type ≠ 6)).map (row e.target))

/-- The rows of a MANIFEST body (log entry 16). -/
def manifestRows (body : List Byte) : List (Nat × Nat × Nat × Nat) :=
  ((List.range 256).filter (fun i => Config.manifestRow body i 0 ≠ 0)).map (fun i =>
    (Config.manifestRow body i 1, Config.manifestRow body i 2, Config.manifestRow body i 3, Config.manifestRow body i 4))

/-- The MANIFEST lists exactly the parts present. -/
def State.manifestOk (s : State) (b : Nat) : Bool :=
  match s.pkPart b 6 with
  | none => false
  | some p =>
    let rows := manifestRows (s.ptBody p)
    let need := s.manifestNeeds b
    rows.all (need.contains ·) && need.all (rows.contains ·)

/-- The COMPAT entries of a part (R501): TYPE, TARGET, MIN, MAX. -/
def State.ptCompat (s : State) (p : PkPart) : List (Nat × Nat × Nat × Nat) :=
  ((List.range 6).map (fun i =>
    let e := p.at_ + 48 + 12 * i
    (s.mrdN e 1, s.mrdN (e + 1) 1, s.mrdN (e + 4) 4, s.mrdN (e + 8) 4))).filter (fun e => e.1 ≠ 0)

/-- A part of the candidate set (R507): module, TYPE, VERSION, COMPAT. -/
abbrev Cand := Nat × Nat × Nat × List (Nat × Nat × Nat × Nat)

/-- A part in MRAM as a candidate of a module. -/
def State.candOf (s : State) (m : Nat) (p : PkPart) : Cand := (m, p.type, s.ptVersion p, s.ptCompat p)

/-- The EXPANSION part for an expansion. -/
def State.expPart (s : State) (b n : Nat) : Option PkPart := (s.pkParts b).find? (fun p => p.type = 5 && p.target = n)

/-- The candidate set (R507): of each module the parts delivered, else its active parts; those of the expansions are what their
windows show. -/
def State.candidates (s : State) (b : Nat) (mods : List Nat) (remote : List RemotePart) : List Cand :=
  ([1, 2, 3, 4].filterMap (fun k => ((s.pkPart b k).orElse (fun _ => s.pkPart (slotAt (1 - s.upd.slot)) k)).map (s.candOf 0))) ++
  mods.flatMap (fun n => [1, 2, 3, 4].filterMap (fun k =>
    match (s.expPart b n).bind (fun e => s.pkPart (e.at_ + 128) k) with
    | some p => some (s.candOf n p)
    | none => (remote.find? (fun r => r.module.val = n && r.type.val = k)).map (fun r =>
        (n, k, r.version.toNat, r.compat.map (fun c => (c.1.toNat, c.2.1.toNat, c.2.2.1.toNat, c.2.2.2.toNat))))))

/-- The first COMPAT entry that fails (R507): the part checked, the part it names, that part's version. -/
def conflict (l : List Cand) : Option (Cand × Nat × Nat × Nat) :=
  l.findSome? (fun c => c.2.2.2.findSome? (fun e =>
    match l.find? (fun d => d.2.1 = e.1 && d.1 = e.2.1) with
    | some d => if e.2.2.1 ≤ d.2.2.1 ∧ d.2.2.1 ≤ e.2.2.2 then none else some (c, e.1, e.2.1, d.2.2.1)
    | none => some (c, e.1, e.2.1, 0)))

/-- The expansions that the update names: those of its EXPANSION parts. -/
def State.expNamed (s : State) (b : Nat) : List Nat := [1, 2, 3].filter (fun n => (s.expPart b n).isSome)

/-- The expansions whose windows R507 reads: those expected and those named. -/
def State.expAsked (s : State) (b : Nat) : List Nat :=
  if s.f TRK_CFG_ROLE ≠ 0 then []
  else [1, 2, 3].filter (fun n => bitOf (s.f TRK_CFG_EXPECT) (n - 1) || (s.expPart b n).isSome)

/-- The window of expansion `n` is trained. -/
def State.expTrained (s : State) (n : Nat) : Bool := s.expansions.contains (n - 1)

/-- Steps 1 to 4 of CHECK on this module (R506): RESULT and the state, 0 where all hold. -/
def State.checkParts (s : State) (b : Nat) : Nat × State :=
  if !s.pkOk b then (2, s.rejClear.rejPart 0 0 0 0 0 0)
  else
    match (s.pkParts b).find? (fun p => s.partFail b p ≠ 0) with
    | some p => (s.partFail b p, s.rejClear.rejPart p.type p.target 0 0 0 0)
    | none =>
      match s.pkPart b 1 with
      | none => (0, s)
      | some p =>
        match s.scriptCheck true (s.ptBody p) (s.crewPart b) with
        | .ok _ => (0, s)
        | .bad r => (5, s.updReject r 1)

/-- Steps 5 and 6 (R506, R507). -/
def State.checkSet (s : State) (b : Nat) (remote : List RemotePart) : Nat × State :=
  if s.upd.mode = 0 then (if s.manifestOk b then (0, s) else (6, s.rejClear.rejPart 6 0 0 0 0 0))
  else
    match (s.expAsked b).find? (fun n => !s.expTrained n) with
    | some n => (8, s.rejClear.rejPart 0 0 0 0 n 0)
    | none =>
      match conflict (s.candidates b (s.expAsked b) remote) with
      | some (c, ty, tg, v) => (7, s.rejClear.rejPart c.2.1 0 ty tg c.1 v)
      | none => (0, s)

/-- Step 7 (R506): what the remote BEGIN, PROGRAM and CHECK of each expansion named answered. -/
def State.checkRemote (s : State) (b : Nat) (res : List Byte) : Nat × State :=
  let bad := fun (n : Nat) => if !s.expTrained n then 8 else (res.getD (n - 1) 0).toNat
  match (s.expNamed b).find? (fun n => bad n ≠ 0) with
  | some n => (bad n, s.rejClear.rejPart 5 n 0 0 n 0)
  | none => (0, s)

/-- CHECK (R506): the first step that fails gives RESULT; else the verdict record is written. -/
def State.updCheck (s : State) (init : Nat) (remote : List RemotePart) (res : List Byte) : State :=
  if s.f UPD_STAT_STATE ≠ 1 ∧ s.f UPD_STAT_STATE ≠ 2 then s.updEnd init 1
  else
    let sl := s.upd.slot
    let b := slotAt sl
    let s := (s.setF UPD_STAT_STATE 1).setF (slotStateRF sl) 1
    let x := s.checkParts b
    let x := if x.1 = 0 then x.2.checkSet b remote else x
    let x := if x.1 = 0 then x.2.checkRemote b res else x
    let s := x.2
    if x.1 ≠ 0 then s.updEnd init x.1
    else
      let s := { s with upd := { s.upd with verdicts := tset (fun _ => {}) s.upd.verdicts sl (s.verdictOf sl), exps := s.expNamed b } }
      ((((s.setF (slotStateRF sl) 2).setF UPD_STAT_STATE 2).updShow).updEnd init 0)

/-- UPD_CHECK (R506). -/
def execUpdCheck (init : Byte) (remote : List RemotePart) (r1 r2 r3 : Byte) (s : State) : Host.Outcome State Fault Refusal :=
  go (s.updCmd init.toNat (fun s => s.updCheck init.toNat remote [r1, r2, r3]))

/-- ACTIVATE (R508, R515): `ready` the expansions that report CHECKED with the same GEN, `done` those whose remote ACTIVATE
succeeded. An ACTIVATE that fails at an expansion ends the update as a revert; its RESULT is not stated. -/
def State.updActivate (s : State) (init : Nat) (ready done : Nat) : State :=
  let sl := s.upd.slot
  if s.f UPD_STAT_STATE ≠ 2 then s.updEnd init 1
  else if s.upd.exps.any (fun n => !s.expTrained n || !bitOf ready (n - 1)) then s.updEnd init 9
  else
    let s := ((s.setF UPD_LAST_GEN_GEN (s.pkGen (slotAt sl))).setF UPD_LAST_OUTCOME 1).setF UPD_LAST_CAUSE 0
    if s.upd.exps.any (fun n => !bitOf done (n - 1)) then
      let s := ((s.setF UPD_LAST_OUTCOME 3).setF UPD_LAST_CAUSE 5).updOver.setF UPD_STAT_STATE s.updRest
      ((s.raise UPD_FLAG_REVERTED UPD_FLAG_CNT_COUNT).updEvent 0x04 5).drawn.updEnd init (s.draw % 0x100)
    else
      let trial : Bool := s.boot.phase ≠ .recovery || s.f (slotStateRF (1 - sl)) = 4
      let s := ((s.setF (slotStateRF sl) (if trial then 3 else 4)).setF UPD_SLOTS_ACTIVE sl).setF UPD_STAT_RESETS 0
      let s := (s.setF UPD_STAT_STATE (if trial then 3 else 0)).updShow
      let s := { s with upd := { s.upd with busy := trial, activation := trial, trialNew := trial } }
      ((s.updEvent 0x02 0).updEnd init 0).updateReset

/-- UPD_ACTIVATE (R508). -/
def execUpdActivate (init : Byte) (ready done : BitVec 3) (s : State) : Host.Outcome State Fault Refusal :=
  go (s.updCmd init.toNat (fun s => s.updActivate init.toNat ready.toNat done.toNat))

/-- ABORT. -/
def State.updAbort (s : State) (init : Nat) : State :=
  if s.f UPD_STAT_STATE ≠ 1 ∧ s.f UPD_STAT_STATE ≠ 2 then s.updEnd init 1
  else
    let s := (s.setF (slotStateRF s.upd.slot) 1).setF UPD_STAT_STATE s.updRest
    { s with upd := { s.upd with busy := false, exps := [] } }.updEnd init 0

/-- UPD_ABORT (R505). -/
def execUpdAbort (init : Byte) (s : State) : Host.Outcome State Fault Refusal :=
  go (s.updCmd init.toNat (fun s => s.updAbort init.toNat))

end Sys2Proof.Machine
end

