-- ==== Sys2Proof/Machine/Boot.lean ====
section
/-! DEFINITION. The starts of the module: power-on (R113), release of a full reset (R114), exit from Deep sleep (R76), the choice of a
slot (R503, R504), the load of the Script (R494, R495), and recovery (R513). -/

namespace Sys2Proof.Machine

/-! Choice of a slot (R504) -/

/-- A slot is booted: STR_SCRIPT_VERDICT and UPD_STAT.STATE follow it. -/
def State.bootTake (s : State) (sl : Nat) : State :=
  let trial : Bool := s.f (slotStateRF sl) = 3
  let s := ((s.setF STR_SCRIPT_VERDICT_SLOT sl).setF STR_SCRIPT_VERDICT_VALID 1).setF STR_SCRIPT_VERDICT_TRIAL (b2n trial)
  (s.setF UPD_STAT_STATE (if trial then 3 else 0)).updShow

/-- Recovery is due. -/
def State.recoveryDue (s : State) : State :=
  { s.setF STR_SCRIPT_VERDICT_VALID 0 with boot := { s.boot with recDue := true } }

/-- Steps 3 and 4 of R504: a slot has failed. -/
def State.bootFallback (s : State) (sl : Nat) : State :=
  let trial : Bool := s.f (slotStateRF sl) = 3
  let o := 1 - sl
  let s := s.setF (slotStateRF sl) 5
  if s.f (slotStateRF o) = 4 ∧ s.authFull o then
    let s := if trial then s.revertRecord 4 else s.setF UPD_SLOTS_ACTIVE o
    ((s.raise UPD_FLAG_SLOT_FALLBACK UPD_FLAG_CNT_COUNT).updEvent 0x05 0).bootTake o
  else s.recoveryDue

/-- A boot that needs a full authentication (R503, R504). -/
def State.bootFull (s : State) : State :=
  let a := s.f UPD_SLOTS_ACTIVE
  if s.authFull a then s.bootTake a else s.bootFallback a

/-- The slot of this boot: recovery where RECOV_N was low at power-on or a recovery request is pending (step 1 of R504); else a held
verdict is checked against the record, and a mismatch clears VALID and authenticates in full (R503). -/
def State.bootSelect (s : State) : State :=
  if s.str.recovery ∨ s.boot.recov then s.recoveryDue
  else if s.on STR_SCRIPT_VERDICT_VALID then
    if s.authQuick (s.f UPD_SLOTS_ACTIVE) then s.bootTake (s.f UPD_SLOTS_ACTIVE)
    else (s.setF STR_SCRIPT_VERDICT_VALID 0).bootFull
  else s.bootFull

/-! What every start does -/

/-- Clocks at a start (R105 to R107): the islands that run before any crew is released, fallback where the crystal has failed. DESIGN
CHOICE (log entry 66): the spec says only that the bits of the Gateway, Network, Bus, Ledger, Trunk and IX islands set as these
start; the model sets them at the release of the reset. -/
def State.bootClocks (s : State) (xtalOk : Bool) : State :=
  let ix := if s.fullPart then 0x20000000 else 0
  let dlo := (List.range 6).foldl (fun m c => m + if s.crewPresent c then 2 ^ (3 + c) else 0) 0xEE06
  let s := s.setF PWR_ISLAND_STAT_CLOCKED (s.f PWR_ISLAND_STAT_CLOCKED ||| (0xAE00 + ix))
  let s := s.setF CLK_DLO_LOCK_LOCK (s.f CLK_DLO_LOCK_LOCK ||| ((if xtalOk then dlo else 0) + ix))
  let s := (s.setF CLK_OSC_STAT_XTAL_OK (b2n xtalOk)).setF CLK_OSC_STAT_FALLBACK (b2n !xtalOk)
  { s with boot := { s.boot with xtalBad := !xtalOk } }

/-- The cabinet is loaded (R479): where its record fails, every slot but 0 is EMPTY. -/
def State.cabinetLoad (s : State) (ok : Bool) : State :=
  if ok then s
  else
    let s := (List.range 64).foldl (fun s k => if k = 0 then s else s.eraseKey k) s
    { s with str := { s.str with cabFail := true } }.raise STR_FLAG_CABINET_FAIL STR_FLAG_CNT_COUNT

/-- The class measured at power-on is in force until a Script is loaded (R70). -/
def State.classMeasured (s : State) : State := s.setF PWR_CFG_SYS24 (b2n s.boot.cls24)

/-- The boot starts: ZRT_EPOCH counts (R366), the journal is replayed before any record is read (R499), the clamps are released but for
those behind a crossing that is not open yet (R91), and CLK_XING_CLOSED shows the crossings of the Cellar in their handshake (R98).
What the Strongroom reads of the cabinet waits for its self-test (R113, R114). -/
def State.bootStart (s : State) (cabinetOk : Bool) : State :=
  let s := ((s.incMod ZRT_EPOCH_EPOCH).journalReplay.nvmShow.xingShow 0).xingShow 1
  { s with boot := { s.boot with phase := .strong, tries := 0, waitVbat := false, cabOk := cabinetOk }
           pwr := { s.pwr with clamp := s.pwr.clamp &&& cellarClamps } }

/-- The Strongroom is released: the cabinet is loaded (R479) and a slot is chosen and authenticated (R504); the third reset of a trial
reverts (R509). -/
def State.bootSlots (s : State) : State :=
  let s := s.cabinetLoad s.boot.cabOk
  if s.f UPD_STAT_STATE = 3 ∧ 3 ≤ s.f UPD_STAT_RESETS then s.updRevert 3
  else { s.bootSelect with boot := { s.bootSelect.boot with phase := .script } }

/-! Power-on -/

/-- The wake that ended Off is latched at the power-on (R113). -/
def State.offWake (s : State) (src : Nat) : State :=
  if src = 0 then s else s.raiseBits PWR_WAKE_SRC_SRC PWR_WAKE_CNT_COUNT src

/-- POWER_ON_RESET_RELEASE (R52, R61, R113): the power-on reset and its release once VBAT passes the threshold of R72: the straps are
sampled. The POWER_ON marker is the first record of the ring, and an archive starts (R285). While RESET_N is low the module remains in
full reset. -/
def execPowerOnResetRelease (role : Fin 4) (recovN xtalOk cabinetOk : Bool) (vbat : BitVec 16) (s : State) :
    Host.Outcome State Fault Refusal :=
  go (if vbat.toNat ≤ thrPorRelease then s
  else
    let src := if s.f PWR_STATE_STATE = 4 then s.f PWR_WAKE_SRC_SRC &&& s.f PWR_WAKE_EN_EN &&& 3 else 0
    let low := s.boot.pinLow
    let s := (s.updReset.powerOn).offWake src
    let c24 : Bool := 20000 < vbat.toNat
    let s := { s with boot := { phase := .reset, por := false, pinLow := low, warm := low, cls24 := c24, recov := !recovN } }
    let s := (((s.setF TRK_CFG_ROLE role).setF UPD_LAST_REFUSED 0).incMod DLY_BOOT_BOOT).classMeasured
    let s := (s.stampUnit 0x09 0x01 (s.f DLY_BOOT_BOOT)).ringDrain.archiveRequest
    let s := (s.bootClocks xtalOk).bandPlace vbat.toNat
    if low then s else s.bootStart cabinetOk)

/-- FULL_RESET_RELEASE (R61, R74, R114): once RESET_N is high and, after a brown-out, VBAT has passed the rising threshold, the
warm boot starts; the slate is restored within 2 µs (R277). -/
def execFullResetRelease (xtalOk cabinetOk : Bool) (vbat : BitVec 16) (s : State) : Host.Outcome State Fault Refusal :=
  go (if s.boot.phase ≠ .reset ∨ s.boot.por ∨ s.boot.pinLow ∨ s.boot.due.isSome ∨
      (s.boot.waitVbat ∧ vbat.toNat ≤ thrBrownRise) then s
  else
    let frm := (s.reg SYS_RESET_STAMP_LO).toNat + (s.reg SYS_RESET_STAMP_HI).toNat * 2 ^ 32
    let t := s.now - 250 + s.draw % 501
    let s := (s.drawn.restoreSlate t frm).classMeasured
    let s := ((s.bootClocks xtalOk).bandPlace vbat.toNat).dieRise vbat.toNat
    s.bootStart cabinetOk)

/-- The lowest set bit. -/
def lowBit (x n : Nat) : Nat := ((List.range n).find? (fun k => bitOf x k)).getD 0

/-- Keep of the Larder only the areas that the Script places in the Attic, listed as first address and length (R76). -/
def State.zeroLarder (s : State) (areas : List Nat) : State :=
  let kept := fun (a : Nat) => (List.range (areas.length / 2)).any (fun i =>
    areas.getD (2 * i) 0 ≤ a && a < areas.getD (2 * i) 0 + areas.getD (2 * i + 1) 0)
  { s with mem := s.mem.filter (fun e => !inLarderAt e.1 || kept e.1) }

/-- DEEP_SLEEP_EXIT (R76, R109, R111, R277): the logic starts from its full-reset values but for what is held and the Attic; dies
are adopted again from their parked state. DESIGN CHOICE (log entry 67): DETAIL of DEEP_EXIT is the lowest enabled source that is
latched; the spec says only 'wake source bit', and R81 that the exit starts on the first to fire. -/
def execDeepSleepExit (xtalOk cabinetOk : Bool) (s : State) : Host.Outcome State Fault Refusal :=
  go (if s.f PWR_STATE_STATE ≠ 3 ∨ !s.pwr.exit then s
  else
    let gap := s.now - s.pwr.reached
    let err := gap / 1000 + 1000
    let frm := s.pwr.reached
    let t := frm + gap - err + s.draw % (2 * err + 1)
    let areas := s.scr.attic
    let bit := lowBit (s.f PWR_WAKE_SRC_SRC &&& s.f PWR_WAKE_EN_EN) 24
    let s := ((s.drawn.logicReset).zeroLarder areas).zeroMem dlyRing (dlyRing + 0x40000)
    let s := { s.setReg DLY_WR 0 with dly := { s.dly with pend := [], cover := 0 } }.showPending
    let s := ((s.setF SYS_RESET_CAUSE_CAUSE 9).setF SYS_RESET_CAUSE_DETAIL bit).setF SYS_RESET_CAUSE_INITIATOR 0
    let s := ((s.restoreSlate t frm).classMeasured).setF PWR_STATE_LAST_STATE 3
    let s := (s.stampPwr 2 0x01 0).bootClocks xtalOk
    let s := { s with boot := { s.boot with warm := true, deepExit := true, phase := .reset }, acc := { s.acc with seedK := none }
                      inp := { s.inp with poll := [] } }
    s.bootStart cabinetOk)

/-- STRONGROOM_SELF_TEST (R113, R114, R466): passed, the Strongroom is released, its DRBG seeded (R483), the debug port placed (R485)
and a slot authenticated; after three failures the module stays in reset. -/
def execStrongroomSelfTest (pass : Bool) (s : State) : Host.Outcome State Fault Refusal :=
  go (if s.boot.phase ≠ .strong ∨ s.boot.due.isSome then s
  else if pass then (((s.debugBoot).setF STR_RNG_STAT_HEALTHY 1).incMod STR_RNG_STAT_RESEEDS).bootSlots
  else if 2 ≤ s.boot.tries then { s with boot := { s.boot with phase := .dead } }
  else { s with boot := { s.boot with tries := s.boot.tries + 1 } })

/-! The load of the Script -/

/-- A section of UPD_LAZY that waits belongs to the unit. -/
def State.lazyUnit (s : State) (u : Nat) : Bool := s.upd.lazy.any (fun x => x.1 = 1 && sliceLE x.2 0 1 = u)

/-- The NM unit starts every segment from its Script words (R377). -/
def State.nmLoaded (s : State) : State := (List.range 19).foldl State.nmStart s

/-- The Script of MEAS has loaded: the supplies of the sensors follow their EN words, and the temperature slots that nothing has
updated carry their FALLBACK (R423). -/
def State.measLoaded (s : State) : State :=
  ((List.range 64).drop 1).foldl (fun s t =>
    if s.inFallback t then s.setReg (MEAS_SLOT_VAL (0x80 + t)) (BitVec.ofNat 32 (s.fallbackWord t)) else s)
    ((s.sensApply 0).sensApply 1)

/-- The channels whose control is their own: neither the odd member of a pair nor a BRIDGE_B leg. -/
def State.ownCtl (s : State) (c : Nat) : Bool :=
  s.chPresent c && !s.on (CH_CFG_ODD c) && !(chClass c = 3 && s.f (CH_B_CFG_ROLE c) = 2)

/-- The Script's profiles, as checked at load, are kept for the adoptions to come (R133); class S has none (R201). -/
def State.profsLoaded (s : State) : State :=
  (List.range 116).foldl (fun s c => if s.ownCtl c then s.setChan c { s.chan c with prof := s.profSent c } else s) s

/-- The stage links train and report whether each die's oscillator runs (R105, R113). -/
def State.linksTrain (s : State) : State :=
  s.dieLinks.foldl (fun s n =>
    if (s.die n).uv then s else (s.setLnk n { s.lnk n with trained := true }).dieClock n (!(s.die n).stopped)) s

/-- A loaded class that is not the measured one (R70, R518). Its record's EVENT number is not stated. -/
def State.classLoaded (s : State) (v : Nat) : State :=
  if s.class24 = s.boot.cls24 then s
  else
    let s := s.raise PWR_FEED_FLAG_CLASS_MISMATCH PWR_FEED_FLAG_CNT_COUNT
    (s.stampPwr 2 (Config.openValue 4 2 % 0x100) 0).bandReplace v

/-- What the units do with a Script whose essential sections have loaded. While an update is in progress MODE stays as it was at
BEGIN (R505). -/
def State.scriptLoaded (s : State) (body : List Byte) (v : Nat) : State :=
  let s := (s.scriptScr body).classLoaded v
  let s := { s with upd := { s.upd with modeNew := s.f UPD_CFG_MODE } }
  let s := if s.upd.busy then s.setF UPD_CFG_MODE s.upd.mode else s
  let s := if s.lazyUnit 0x27 then s else s.measLoaded
  let s := if s.lazyUnit 0x23 then s else s.nmLoaded
  let s := { s with eth := { s.eth with gates := s.qbvShadow, pos := 0, gateAt := s.now }
                    boost := { s.boost with cfg := s.reg SOL_BST_CFG, margin := s.f SOL_BST_E_E_MARGIN } }
  { (s.plcaLoad.profsLoaded.linksTrain.setF LDG_STAT_SEEDING 1) with boot := { s.boot with phase := .adopt } }

/-- SCRIPT_LOAD (R494, R495, R504): the Script of the booted slot is validated and its essential sections load, or it is rejected
and its slot fails. -/
def execScriptLoad (vbat : BitVec 16) (s : State) : Host.Outcome State Fault Refusal :=
  go (if s.boot.phase ≠ .script ∨ s.boot.recDue ∨ !s.on STR_SCRIPT_VERDICT_VALID then s
  else
    let sl := s.f STR_SCRIPT_VERDICT_SLOT
    let body := s.scriptBody (slotAt sl)
    let cpart := s.crewPart (slotAt sl)
    match s.scriptCheck false body cpart with
    | .bad r => ((s.updReject r 0).setF STR_SCRIPT_VERDICT_VALID 0).bootFallback sl
    | .ok _ => (s.scriptApply body cpart).scriptLoaded body vbat.toNat)

/-- LAZY_SECTION_LOAD (R494): the next lazy section in Script order loads after Run; the last one posts SCRIPT_COMPLETE. -/
def execLazySectionLoad (s : State) : Host.Outcome State Fault Refusal :=
  go (match s.upd.lazy with
    | [] => s
    | x :: t =>
      if s.boot.phase ≠ .run then s
      else
        let s := match s.scrSect [] { type := x.1, value := x.2 } with
          | .ok u => u
          | .bad _ => s
        let s := { s with upd := { s.upd with lazy := t } }
        let u := if x.1 = 1 then sliceLE x.2 0 1 else 0
        let s := if u = 0x27 ∧ !s.lazyUnit 0x27 then s.measLoaded else s
        let s := if u = 0x23 ∧ !s.lazyUnit 0x23 then s.nmLoaded else s
        if t = [] then (s.setF UPD_LAZY_PENDING 0).updEvent 0x08 0 else s)

/-- RECOVERY_ENTRY (R504, R513): the boot ROM takes over; the request that led here is consumed. -/
def execRecoveryEntry (s : State) : Host.Outcome State Fault Refusal :=
  go (if s.boot.phase = .script ∧ s.boot.recDue then
    let s := { s with boot := { s.boot with phase := .recovery, recov := false }, str := { s.str with recovery := false } }
    ((s.setF UPD_STAT_STATE 4).raise UPD_FLAG_RECOVERY UPD_FLAG_CNT_COUNT).updEvent 0x06 0
  else s)

end Sys2Proof.Machine
end

