-- ==== Sys2Proof/Machine/Spine.lean ====
section
/-! DEFINITION. The Spine as a target: the ranges of the address map (R31, R32, R272, R516), decode errors (R29), absent blocks (R6),
speculative reads (R13), what a read returns and what a write does to each register and memory. -/

namespace Sys2Proof.Machine

/-! Status codes of R370 -/

/-- Completed. -/
def xsOK : Nat := 0
/-- Decode error (R29). -/
def xsDECODE : Nat := 1
/-- Refused by the target (R12, R38, R125, R303). -/
def xsREFUSED : Nat := 2
/-- A speculative access of a read-sensitive byte (R13). -/
def xsSPEC : Nat := 3
/-- Not aligned. -/
def xsALIGN : Nat := 4
/-- Length out of range. -/
def xsLENGTH : Nat := 5
/-- Unknown operation. -/
def xsBADOP : Nat := 6
/-- Not in OP_GRANT. -/
def xsGRANT : Nat := 7
/-- Tag wrong. -/
def xsAUTH : Nat := 8
/-- Skipped after a failure. -/
def xsSKIPPED : Nat := 0x0D
/-- Posted writes refused (R406). -/
def xsPERR : Nat := 0x0E
/-- Window of a link that is not trained. -/
def xsLOST : Nat := 0x0F

/-! The address map -/

/-- The range of the map that holds an address, as its first address and its length: every unit block, crew window and
channel context is a range of its own (R31, R32, R516). -/
def rangeOf (a : Nat) : Option (Nat × Nat) :=
  if a < 0x20000 then some (0, 0x20000)
  else if 0x80000 ≤ a ∧ a < 0x81000 then some (0x80000, 0x1000)
  else if 0x01000000 ≤ a ∧ a < 0x01200000 then some (0x01000000, 0x200000)
  else if 0x01200000 ≤ a ∧ a < 0x01220000 then some (0x01200000, 0x20000)
  else if 0x02000000 ≤ a ∧ a < 0x02600000 then some (a - a % 0x100000, 0x100000)
  else if 0x03000000 ≤ a ∧ a < 0x03021000 then some (a - a % 0x400, 0x400)
  else if 0x04000000 ≤ a ∧ a < 0x04080000 then some (0x04000000, 0x80000)
  else if 0x04400000 ≤ a ∧ a < 0x04480000 then some (0x04400000, 0x80000)
  else if 0x04600000 ≤ a ∧ a < 0x04610000 then some (0x04600000, 0x10000)
  else if 0x04700000 ≤ a ∧ a < 0x04780000 then some (0x04700000, 0x80000)
  else if 0x05000000 ≤ a ∧ a < 0x06000000 then
    (if unitBlock ((a - 0x05000000) / 0x10000) then some (a - a % 0x10000, 0x10000) else none)
  else if 0x06000000 ≤ a ∧ a < 0x06010000 then some (0x06000000, 0x10000)
  else if 0x07000000 ≤ a ∧ a < 0x07010000 then some (0x07000000, 0x10000)
  else if 0x07100000 ≤ a ∧ a < 0x07200000 then some (0x07100000, 0x100000)
  else if 0x08000000 ≤ a ∧ a < 0x08010000 then some (0x08000000, 0x10000)
  else if 0x08100000 ≤ a ∧ a < 0x08140000 then some (0x08100000, 0x40000)
  else if 0x10000000 ≤ a ∧ a < 0x40000000 then some (a - a % 0x10000000, 0x10000000)
  else none

/-- An offset of a crew window that R272 assigns: identification and crew registers, the registers of the eight engine blocks, crew
memory, program memories and local data. -/
def crewAssigned (off : Nat) : Bool :=
  off < 0x10 || (0x10000 ≤ off && off < 0x18000 && off % 0x1000 < 0x20) || (0x40000 ≤ off && off < 0x48000) ||
  (0x80000 ≤ off && off < 0xA0000 && off % 0x4000 < 0x3000)

/-- An address of a crew window, or of the area of a CAN or LIN controller, that their chapters assign; unit register blocks and
channel contexts have no unassigned address in this sense (R17, R31, R301, R320). -/
def assignedAt (a : Nat) : Bool :=
  if 0x02000000 ≤ a ∧ a < 0x02600000 then crewAssigned (a % 0x100000)
  else if 0x04700000 ≤ a ∧ a < 0x04708000 then a % 0x1000 < 0xC00
  else if 0x04708000 ≤ a ∧ a < 0x04710000 then a % 0x1000 < 0x800
  else true

/-- The transaction lies wholly within one range (R516). -/
def inOneRange (a n : Nat) : Bool :=
  match rangeOf a with
  | some (b, len) => a + n ≤ b + len
  | none => false

/-- The absent block that an address belongs to, as unit code and instance: channel contexts, crews, controllers with their areas of
message RAM and their NM segments, ACC with the handle registers of INP, ISO, and SOL (R2, R6, R33, R295, R372). -/
def State.absentAt (s : State) (a : Nat) : Option (Nat × Nat) :=
  let bus := fun (k : Nat) => if s.busPresent (k % 8) then none else some (0x10 + k, 0)
  if 0x03000000 ≤ a ∧ a < 0x03021000 then
    (let c := (a - 0x03000000) / 0x400
     if s.chPresent c then none else some (0x03, c))
  else if 0x02000000 ≤ a ∧ a < 0x02600000 then
    (let c := (a - 0x02000000) / 0x100000
     if s.crewPresent c then none else some (0x07, c))
  else if 0x05100000 ≤ a ∧ a < 0x05200000 then bus ((a - 0x05100000) / 0x10000)
  else if 0x04700000 ≤ a ∧ a < 0x04710000 then bus ((a - 0x04700000) / 0x1000)
  else if 0x05230100 ≤ a ∧ a < 0x05230300 then bus ((a - 0x05230100) / 0x20)
  else if 0x05280000 ≤ a ∧ a < 0x052A0000 then (if s.fullPart then none else some ((a - 0x05000000) / 0x10000, 0))
  else if 0x05260060 ≤ a ∧ a < 0x05260090 then (if s.fullPart then none else some (0x28, 0))
  else if 0x05060000 ≤ a ∧ a < 0x05070000 then (if s.variant = .pz7456 then some (0x06, 0) else none)
  else none

/-- The absent block that a transaction touches first; the areas of message RAM lie in one range, so that a transaction may touch two
blocks. -/
def State.absentIn (s : State) (a n : Nat) : Option (Nat × Nat) := (List.range n).findSome? (fun k => s.absentAt (a + k))

/-- The transaction touches absent blocks alone. -/
def State.absentAll (s : State) (a n : Nat) : Bool := (List.range n).all (fun k => (s.absentAt (a + k)).isSome)

/-- A transaction that is a decode error: not wholly within one range, in an expansion window (which only the Trunk bridge of a
master with a trained link serves), or with an address that the chapter of a present block leaves unassigned. -/
def State.decodeBad (s : State) (a n : Nat) : Bool :=
  !inOneRange a n || isFar a || (List.range n).any (fun k => !assignedAt (a + k) && (s.absentAt (a + k)).isNone)

/-- A decode error is counted with its initiator and first address; an engine receives a BUSERR cue (R29, R256, R516). -/
def State.decodeErr (s : State) (init a : Nat) (write : Bool) : State :=
  let s := ((s.incSat SYS_DECODE_ERR_CNT_COUNT).setF SYS_DECODE_ERR_CNT_LAST_INIT init).setF SYS_DECODE_ERR_CNT_LAST_WRITE (b2n write)
  let s := s.setReg SYS_DECODE_ERR_ADDR (BitVec.ofNat 32 a)
  if isEngine init then s.buserr (init - 0x10) 1 0x2D (a % 0x10000) a else s

/-- In recovery, what an initiator may access (R513): the recovery buffer and the UPD block, and read-only the identity block and the
NVM block; the other initiators nothing. -/
def State.recoveryBad (s : State) (init a n : Nat) (write : Bool) : Bool :=
  s.boot.phase = .recovery &&
  !((init = 0x40 || init = 0x49 || init = 0x50) &&
    ((0x01000000 ≤ a && a + n ≤ 0x01100000) || a / 0x10000 = 0x052C ||
      (!write && (a / 0x1000 = 0x80 || a / 0x10000 = 0x0700))))

/-! Clock islands and target ports (R27, R100) -/

/-- The target port of an address: that of its island, and one of its own for the Larder and the Attic. -/
def portOf (a : Nat) : Nat := if 0x01000000 ≤ a ∧ a < 0x01220000 then 30 else islandOf a

/-- A write that waits at the GW port while copy-back runs: of the shadow bank, the shadow stash, or SWAP (R358). -/
def gwHolds (a n : Nat) : Bool :=
  (0x04400000 ≤ a && a < 0x04480000) || (a < 0x05218800 && 0x05218400 < a + n) || (a < 0x05210024 && 0x05210020 < a + n)

/-- The crossings between the Spine and an island are open (R98). -/
def State.xingOpen (s : State) (isl : Nat) : Bool := s.xingOf 2 isl = 0 && s.xingOf isl 2 = 0

/-- An access that has to wait: its island is not clocked or its crossing not open (R98, R100), or it waits for copy-back (R358). An
absent block answers at once; in recovery only what R513 names runs. -/
def State.mustWait (s : State) (a n : Nat) (write : Bool) : Bool :=
  !s.absentAll a n && inOneRange a n && !isFar a &&
  ((s.boot.phase ≠ .recovery && (!s.clocked (islandOf a) || !s.xingOpen (islandOf a))) ||
   (write && gwHolds a n && s.on GW_UPD_STAT_COPYBACK))

/-- An access to a crew whose clock is gated opens its gate (R101). -/
def State.ungate (s : State) (a : Nat) : State :=
  if 0x02000000 ≤ a ∧ a < 0x02600000 then { s with gated := s.gated.filter (· ≠ (a - 0x02000000) / 0x100000) } else s

/-! What a register word reads as -/

/-- The state code of an engine in CUE_CREW_STAT and ENG_STAT. -/
def EngState.code : EngState → Nat
  | .unused => 0
  | .waiting => 1
  | .normal => 2
  | .urgent => 3
  | .urgentOverNormal => 4
  | .faulted => 5

/-- ENG_STAT (R272): state, fault, a saved NORMAL repeat count, PC. -/
def State.engStat (s : State) (g : Nat) : Nat :=
  let e := s.eng g
  e.st.code + e.fault * 0x10 + b2n (e.st = .urgentOverNormal && e.nl.rep.rpti && decide (0 < e.nl.rep.left)) * 0x100 +
  e.cur.pc % 0x10000 * 0x10000

/-- ENG_QUEUE (R272). -/
def State.engQueue (s : State) (g : Nat) : Nat :=
  let e := s.eng g
  e.queue.length + (e.queue.filter (fun c => c.urgent)).length * 0x20 + e.seq * 0x10000

/-- CUE_CREW_STAT (R272). -/
def State.crewStat (s : State) (c : Nat) : Nat :=
  (List.range 8).foldl (fun v e => v + (s.eng (8 * c + e)).st.code * 2 ^ (3 * e)) (b2n (s.gated.contains c) * 2 ^ 24)

/-- CH_COND0 to CH_COND4 (the CH block). -/
def State.chCond (s : State) (n : Nat) : Nat :=
  (List.range 32).foldl (fun v j =>
    v + if 32 * n + j < 132 ∧ s.chPresent (32 * n + j) ∧ s.on (CH_STATUS_CONDUCTING (32 * n + j)) then 2 ^ j else 0) 0

/-- The odd context of a ganged pair (R123): only its identification, configuration, GANGED phase and refusal words read. DESIGN CHOICE
(log entry 68): the other fields of its CH_STATUS, which the spec does not state, read 0. -/
def oddWord (off : Nat) (v : Word) : Word :=
  if off = 0 ∨ off = 4 ∨ off = 0x20 then v else if off = 0x14 then 10 else 0

/-- The context of a BRIDGE_B leg (R185): its own identification, configuration and refusal words, and the CH_STATUS of its BRIDGE_A
context. -/
def State.legWord (s : State) (c off : Nat) (v : Word) : Word :=
  if off = 0 ∨ off = 4 ∨ off = 0x20 ∨ off = 0x300 then v else if off = 0x14 then s.reg (CH_STATUS (s.f (CH_B_CFG_PARTNER c))) else 0

/-- The word that a read of a register address returns: what the hardware computes, the WO bits as 0, words that are not
assigned as 0 (R11, R17). -/
def State.view (s : State) (a : Nat) : Word :=
  let raw := s.reg a
  if a = 0x052D0004 then BitVec.ofNat 32 s.part
  else if a = 0x05080010 then BitVec.ofNat 32 s.now
  else if a = 0x05080014 then BitVec.ofNat 32 (s.now / 2 ^ 32)
  else if 0x05030010 ≤ a ∧ a < 0x05030024 then BitVec.ofNat 32 (s.chCond ((a - 0x05030010) / 4))
  else if a = UPD_STAT then UPD_STAT_TRIAL_LEFT.put raw s.trialLeft
  else if a = ACC_AUTH_STAT then (if s.on ACC_AUTH_STAT_ACTIVE then ACC_AUTH_STAT_LEFT.put raw s.authLeft else raw)
  else if 0x02000000 ≤ a ∧ a < 0x02600000 then
    (let c := (a - 0x02000000) / 0x100000
     let off := a % 0x100000
     let g := 8 * c + (off - 0x10000) / 0x1000
     if off = 8 then BitVec.ofNat 32 (s.crewStat c)
     else if 0x10000 ≤ off ∧ off < 0x18000 ∧ off % 0x1000 = 0 then BitVec.ofNat 32 (s.engStat g)
     else if 0x10000 ≤ off ∧ off < 0x18000 ∧ off % 0x1000 = 0xC then BitVec.ofNat 32 (s.engQueue g)
     else raw)
  else if 0x05140000 ≤ a ∧ a < 0x05180000 ∧ 0x84 ≤ a % 0x10000 ∧ a % 0x10000 < 0x94 then 0
  else if 0x05140000 ≤ a ∧ a < 0x05180000 ∧ a = CAN_TRX_CFG ((a - 0x05100000) / 0x10000) then raw &&& 3#32
  else if 0x03000000 ≤ a ∧ a < 0x03021000 ∧ s.on (CH_CFG_ODD ((a - 0x03000000) / 0x400)) then oddWord (a % 0x400) raw
  else if CH_B_CFG 104 - 0x300 ≤ a ∧ a < CH_B_CFG 116 - 0x300 ∧ s.f (CH_B_CFG_ROLE ((a - 0x03000000) / 0x400)) = 2 then
    s.legWord ((a - 0x03000000) / 0x400) (a % 0x400) raw
  else if 0x05041000 ≤ a ∧ a < 0x05041380 ∧ !s.diePresent ((a - 0x05041000) / 0x40) then 0
  else
    match regDefAt a with
    | some d => raw &&& ~~~(BitVec.ofNat 32 d.wo)
    | none => raw

/-- A byte of the match table's shadow bank (R356): the staged bucket, else the active content. -/
def State.shadowByte (s : State) (off : Nat) : Byte :=
  match s.stagedAt (off / 0x40) with
  | some m => s.rd8 (m + off % 0x40)
  | none => s.rd8 (0x04000000 + off)

/-- A byte of the identity block (R489): PART of the part, 0 at every offset that has no content. -/
def State.identByte (s : State) (off : Nat) : Byte :=
  if off = 0x20 then BitVec.ofNat 8 s.part
  else if off = 0x21 then BitVec.ofNat 8 (s.part / 0x100)
  else if off < 0x1E then s.mrd8 (identAt + off)
  else 0

/-- The addresses that hold plain bytes: Larder, Attic, crew memory, engine memories, active match table, flow contexts, message RAM,
the Dailies ring. -/
def isMem (a : Nat) : Bool :=
  (0x01000000 ≤ a && a < 0x01220000) || (0x02000000 ≤ a && a < 0x02600000 && 0x40000 ≤ a % 0x100000) ||
  (0x04000000 ≤ a && a < 0x04080000) || (0x04600000 ≤ a && a < 0x04780000) || (0x08100000 ≤ a && a < 0x08140000)

/-- The byte that a read by an initiator returns. -/
def State.viewByte (s : State) (init a : Nat) : Byte :=
  if a < 0x20000 then Config.bootRom a
  else if a < 0x81000 then s.identByte (a - 0x80000)
  else if isMem a then s.rd8 a
  else if 0x04400000 ≤ a ∧ a < 0x04480000 then s.shadowByte (a - 0x04400000)
  else if 0x07100000 ≤ a ∧ a < 0x07200000 then s.windowByte (a - 0x07100000)
  else if 0x08008000 ≤ a ∧ a < 0x08009000 then s.mrd8 (dlyArchive + s.f DLY_ARCH_PAGE_PAGE * 4096 + (a - 0x08008000))
  else if 0x05210200 ≤ a ∧ a < 0x05210240 then (s.injArea init).getD (a - 0x05210200) 0
  else BitVec.ofNat 8 ((s.view (a - a % 4)).toNat / 2 ^ (8 * (a % 4)))

/-! Takes (R147, R405) -/

/-- The words of the result slot whose TAKE status word has its byte 0 at an address. -/
def takeAt (a : Nat) : Option (Nat × Nat × Nat × Nat) :=
  if 0x03000000 ≤ a ∧ a < 0x03021000 ∧ 0x2A0 ≤ a % 0x400 ∧ a % 0x400 < 0x2B8 ∧ a % 8 = 0 then
    slotWords 0x03 ((a - 0x03000000) / 0x400) ((a % 0x400 - 0x2A0) / 8)
  else if 0x05272000 ≤ a ∧ a < 0x05272600 ∧ a % 8 = 0 then slotWords 0x27 0 ((a - 0x05272000) / 8)
  else if 0x052D1180 ≤ a ∧ a < 0x052D11C0 ∧ a % 8 = 0 then slotWords 0x2D 0 ((a - 0x052D1180) / 8)
  else if 0x07000180 ≤ a ∧ a < 0x070001C0 ∧ a % 8 = 0 then slotWords 0x2B 0 ((a - 0x07000180) / 8)
  else if a = 0x05280110 then slotWords 0x28 0 0
  else none

/-- A byte whose read has a side effect. -/
def sensitive (a : Nat) : Bool := (takeAt a).isSome || a = BRG_PEL_POP 0

/-- The words of a log record. -/
def State.pelWords (s : State) (k : Nat) : List Word := (List.range 4).map (fun i => s.reg (0x05250400 + 0x10 * k + 4 * i))

/-- Put the words of a log record. -/
def State.putPel (s : State) (k : Nat) (w : List Word) : State :=
  (List.range 4).foldl (fun s i => s.setReg (0x05250400 + 0x10 * k + 4 * i) (w.getD i 0)) s

/-- The bit of BRG_STOP and BRG_STOPPED of an initiator: word 0 or 1 and bit. -/
def stopBit (word0 word1 init : Nat) : Option RF :=
  if 0x10 ≤ init ∧ init < 0x30 then some ⟨word0, init - 0x10, 1⟩
  else if 0x30 ≤ init ∧ init < 0x40 then some ⟨word1, init - 0x30, 1⟩
  else if isSession init then some ⟨word1, 16 + (init - 0x40), 1⟩
  else none

/-- The initiator is stopped (R406). -/
def State.stopped (s : State) (init : Nat) : Bool :=
  match stopBit BRG_STOPPED0 BRG_STOPPED1 init with
  | some r => s.on r
  | none => false

/-- After a POP the stop of every initiator without a record in the log ends (R406). -/
def State.stopsEnd (s : State) : State :=
  let n := s.f BRG_PEL_STAT_COUNT
  let held := (List.range n).map (fun k => s.f (BRG_PEL_INFO_INIT k))
  ((List.range 48).map (0x10 + ·) ++ (List.range 8).map (0x40 + ·)).foldl (fun s i =>
    if held.contains i then s
    else match stopBit BRG_STOPPED0 BRG_STOPPED1 i with
      | some r => s.setF r 0
      | none => s) s

/-- A POP of the posted error log (R405): the oldest record is shown in BRG_PEL_POP and removed; VALID is 0 on an empty log. -/
def State.pelPop (s : State) : State :=
  let n := s.f BRG_PEL_STAT_COUNT
  let first := if n = 0 then [0, 0, 0, 0] else s.pelWords 0
  let t := (List.range 4).foldl (fun t i => t.setReg (BRG_PEL_POP i) (first.getD i 0)) s
  let t := (List.range 7).foldl (fun t k => t.putPel k (s.pelWords (k + 1))) t
  ((t.putPel 7 [0, 0, 0, 0]).setF BRG_PEL_STAT_COUNT (n - 1)).stopsEnd

/-- The side effect of a read of one byte. -/
def State.takeByte (s : State) (a : Nat) : State :=
  if a = BRG_PEL_POP 0 then s.pelPop
  else match takeAt a with
    | some (st, v, tst, tv) => s.slotTake st v tst tv
    | none => s

/-! Reads -/

/-- What a transaction completes with: status, the bytes read, the state after it. -/
structure SpineRes where
  status : Nat
  data : List Byte
  st : State

/-- `n` bytes 0. -/
def zeros (n : Nat) : List Byte := List.replicate n 0

/-- A read transaction at this module's targets (R6, R13, R17, R29, R513). -/
def State.spineRead (s : State) (init a n : Nat) (spec : Bool) : SpineRes :=
  if s.decodeBad a n then { status := xsDECODE, data := zeros n, st := s.decodeErr init a false }
  else if s.absentAll a n then { status := xsOK, data := zeros n, st := s }
  else if s.recoveryBad init a n false then { status := xsREFUSED, data := zeros n, st := s }
  else if spec && (List.range n).any (fun k => sensitive (a + k)) then { status := xsSPEC, data := zeros n, st := s }
  else
    let t := (List.range n).foldl (fun t k => t.takeByte (a + k)) (s.ungate a)
    let d := (List.range n).map (fun k => if (s.absentAt (a + k)).isSome then 0 else t.viewByte init (a + k))
    { status := xsOK, data := d, st := if spec then t else t.watchTrig init false a n }

/-! Writes to registers -/

/-- The word that a write leaves: RW bits and, for the Strongroom, SW bits take the written bytes, a 1 clears W1C bits, every other
bit stays (R11, R16). -/
def mergeWord (d : RegDef) (old w m : Word) (sw : Bool) : Word :=
  let rw := BitVec.ofNat 32 (if sw then d.rw ||| d.sw else d.rw) &&& m
  ((old &&& ~~~rw) ||| (w &&& rw)) &&& ~~~(w &&& BitVec.ofNat 32 d.w1c &&& m)

/-- A write without an effect of its own. -/
def State.plainWrite (s : State) (a : Nat) (w m : Word) (sw : Bool) : State :=
  match regDefAt a with
  | some d => s.setReg a (mergeWord d (s.reg a) w m sw)
  | none => s

/-- A field of a written word. -/
def fld (w : Word) (lo n : Nat) : Nat := w.toNat / 2 ^ lo % 2 ^ n

/-- A value out of the range that the context word states (R125; the words of R144 to R207). -/
def ctxBad (c off : Nat) (w : Word) : Bool :=
  if off = 0x38 then fld w 8 8 = 0
  else if off = 0x40 then 1000 < fld w 8 10 || (chClass c = 4 && bitOf w.toNat 31)
  else if off = 0x08 then fld w 0 2 = 3 || (chClass c = 4 && fld w 0 2 = 2)
  else if off = 0x0C then 1024 < fld w 0 11
  else if off = 0xC0 then 10 < fld w 0 4 || fld w 4 6 = 0 || fld w 10 3 = 0
  else if off = 0xC8 then fld w 0 8 = 0 || fld w 8 6 = 0 || 32 < fld w 8 6
  else if chClass c = 3 ∧ off = 0x304 then fld w 1 2 = 3
  else if chClass c = 3 ∧ off = 0x308 then fld w 12 8 = 0 || 2 ≤ fld w 20 2
  else if chClass c = 3 ∧ off = 0x320 then fld w 1 7 = 0 || 64 < fld w 1 7
  else if chClass c = 4 ∧ off = 0x300 then
    fld w 0 12 < 200 || 1600 < fld w 0 12 || fld w 12 12 < 200 || 600 < fld w 12 12 || fld w 0 12 ≤ fld w 12 12
  else if chClass c = 4 ∧ off = 0x304 then fld w 8 8 = 0 || 200 < fld w 16 8
  else if chClass c = 4 ∧ off = 0x308 then
    fld w 0 7 = 0 || 100 < fld w 0 7 || fld w 8 6 = 0 || 60 < fld w 8 6 || fld w 16 16 = 0
  else false

/-- The word holds fields that a write may change. -/
def writableAt (a : Nat) : Bool :=
  match regDefAt a with
  | some d => d.rw ≠ 0 || d.w1c ≠ 0 || d.wo ≠ 0
  | none => false

/-- The reason for which a write of a context word is refused, 0 for none (R123, R125, R221, R225). -/
def State.ctxReason (s : State) (init c off : Nat) (w : Word) : Nat :=
  if writableAt (0x03000000 + c * 0x400 + off) then
    s.chReason init c (off = 0x08 || off = 0x0C) (off = 0x08 || off = 0x0C || (chClass c = 3 && off = 0x304)) (ctxBad c off w)
      (off = 0x40 && bitOf w.toNat 31 && s.f (CH_PROF_STAT_XFER c) = 1)
  else if s.on (CH_CFG_ODD c) then 2
  else if chClass c = 3 ∧ s.f (CH_B_CFG_ROLE c) = 2 then 5
  else if init = 0x60 then 1
  else 0

/-- The effect of an accepted write of a plain context word: the die is sent a new BUDGET (R158), and the thresholds and configuration
words that it works with (R212). -/
def State.ctxPlain (s : State) (c off : Nat) (w m : Word) : State :=
  let t := s.plainWrite (0x03000000 + c * 0x400 + off) w m false
  if off = 0x34 then
    t.sendCh c (fun k => .param k 2 (if 2 ≤ t.f (CH_SIG_STAT_ENV_STATE c) then t.f (CH_EBUDGET_BUDGET c) else 0))
  else if (cfgOffsets c).contains off then
    t.sendCh c (fun k => .param k (0x100 + off) (t.reg (0x03000000 + c * 0x400 + off)).toNat)
  else t

/-- A write of a context word (R38, R124, R125): whether it is refused, and the state. -/
def State.ctxWrite (s : State) (init c off : Nat) (w m : Word) : Bool × State :=
  let a := 0x03000000 + c * 0x400 + off
  let x := (match regDefAt a with
    | some d => mergeWord d (s.reg a &&& ~~~(BitVec.ofNat 32 d.wo)) w m false ||| (w &&& m &&& BitVec.ofNat 32 d.wo)
    | none => 0)
  let r := s.ctxReason init c off x
  (r ≠ 0,
    if r ≠ 0 then s.chRefuse init c r
    else if off = 0x08 then s.chCmdWrite init c (fld x 0 2) (fld x 8 8) (bitOf x.toNat 2)
    else if off = 0x0C then s.chPwmWrite init c (fld x 0 11) (fld x 12 2) (fld x 16 10)
    else if off = 0x40 then s.profCtlWrite init c x
    else if off = 0xC0 then s.sigCfgWrite init c x
    else if 0x100 ≤ off ∧ off < 0x180 then s.envWrite init c ((off - 0x100) / 4) x
    else if chClass c = 3 ∧ off = 0x304 then s.bDrvWrite init c x
    else if writableAt a then s.ctxPlain c off w m
    else s)

/-- A write of a Strongroom register by the Strongroom (R468). -/
def State.strWord (s : State) (init a : Nat) (w m : Word) : State :=
  let x := (match regDefAt a with | some d => mergeWord d (s.reg a) w m true | none => 0)
  if a = STR_KA_CTL then s.kaCtlWrite init x
  else if a = STR_FS_APPLY then s.fsApplyWrite init 3 (w &&& m)
  else if a = STR_FS_RELEASE then s.fsReleaseWrite init (w &&& m)
  else if a = STR_LIMP_ARM then s.limpArmWrite init x
  else if a = STR_PIN_CTL then s.pinCtlWrite init x
  else if STR_HOLD_WIN 1 ≤ a ∧ a ≤ STR_HOLD_WIN 13 then s.holdWinWrite init ((a - STR_HOLD_WIN 0) / 4) x
  else if STR_FS_TABLE 0 ≤ a ∧ a ≤ STR_FS_TABLE 131 then s.fsTableWrite init ((a - STR_FS_TABLE 0) / 4) x
  else s.plainWrite a w m true

/-- A write of LINn_CTL by a control initiator: each field acts as its own command does. -/
def State.linCtlWord (s : State) (n init : Nat) (x : Word) : State :=
  let s := s.setF (LIN_CTL_SCHED n) (fld x 0 2)
  let s := if bitOf x.toNat 2 = s.on (LIN_CTL_RUN n) then s else s.linRun n (bitOf x.toNat 2)
  let s := if bitOf x.toNat 3 then s.linGotoSleep n else s
  let s := if bitOf x.toNat 4 then s.linSendWake n else s
  if fld x 5 2 = s.f (LIN_CTL_TRX_REQ n) then s else s.linTrxReq n init (fld x 5 2)

/-- A write of CANn_CTL by a control initiator: MODE 3 is ignored. -/
def State.canCtlWord (s : State) (n : Nat) (x : Word) : State :=
  let s := if fld x 0 2 = 3 then s else s.canMode n (fld x 0 2)
  if bitOf x.toNat 2 then s.canRecover n else s

/-- The answers of the expansions to a remote CHECK, which the spec leaves to them: their active parts. -/
def remoteParts (k : Nat) : List RemotePart :=
  (Config.remoteParts k).map (fun e =>
    { module := Fin.ofNat 4 e.1, type := Fin.ofNat 8 e.2.1, version := BitVec.ofNat 32 e.2.2.1,
      compat := e.2.2.2.map (fun c => (BitVec.ofNat 8 c.1, BitVec.ofNat 8 c.2.1, BitVec.ofNat 32 c.2.2.1, BitVec.ofNat 32 c.2.2.2)) })

/-- A write of UPD_CMD (R505): the answers of the expansions that CHECK and ACTIVATE ask are free values. -/
def State.updWord (s : State) (init : Nat) (w : Word) : State :=
  s.updCmd init (fun s =>
    match fld w 0 4 with
    | 1 => s.updBegin init (fld w 14 1)
    | 2 => s.updProgram init
    | 3 => s.updCopyPart init (fld w 8 4) (fld w 12 2)
    | 4 => s.drawn.updCheck init (remoteParts s.draw) ((List.range 3).map (fun i => BitVec.ofNat 8 (s.draw / 0x100 ^ i)))
    | 5 => s.drawn.updActivate init (s.draw % 8) (s.draw / 8 % 8)
    | 6 => s.updAbort init
    | _ => s)

/-- A write of ACC_LEARN_CTL (R444, R446): with GO the operation starts; any other OP does nothing. -/
def State.learnWord (s : State) (init : Nat) (w : Word) : State :=
  if !bitOf w.toNat 7 then s.accWrite init id
  else if fld w 5 2 = 1 then s.accLearn init (fld w 0 3) (fld w 3 2)
  else if fld w 5 2 = 2 then s.accRevoke init (fld w 0 3) (fld w 3 2)
  else s.accWrite init id

/-- A write of ACC_AUTH_CTL (R447). -/
def State.authWord (s : State) (init : Nat) (w : Word) : State :=
  let s := if bitOf w.toNat 0 then s.accGrant init else s
  if bitOf w.toNat 1 then s.accWrite init State.authEnd
  else if bitOf w.toNat 0 then s else s.accWrite init id

/-- A write of FRM_FSYNC_OFS outside half a frame period is ignored. -/
def State.fsyncOfs (s : State) (w m : Word) : State :=
  let t := s.plainWrite FRM_FSYNC_OFS w m false
  if 2 * (signed 16 (t.f FRM_FSYNC_OFS_OFS_US)).natAbs ≤ s.f FRM_CFG_PERIOD_US then t else s

/-- A write of a word of a CAN controller's block. -/
def State.canWord (s : State) (init n a : Nat) (w m x : Word) : State :=
  if a = CAN_CTL n then s.canCtl n init (fun s => s.canCtlWord n x)
  else if a = CAN_TRX_CTL n then s.canCtl n init (fun s => s.trxReq n (fld x 0 2))
  else if a = CAN_TRX_STAT n then (if bitOf w.toNat 3 then s.canWakeClear n init else s)
  else s.plainWrite a w m false

/-- A write of a word of a LIN controller's block. -/
def State.linWord (s : State) (init n a : Nat) (w m x : Word) : State :=
  if a = LIN_CTL n then s.linCtl n init (fun s => s.linCtlWord n init x)
  else if a = LIN_STAT n then (if bitOf w.toNat 11 then s.linWakeClear n init else s)
  else s.plainWrite a w m false

/-- A write of a word of the GW block outside the staging area. -/
def State.gwWord (s : State) (init a : Nat) (w m : Word) : State :=
  if a = GW_UPD_CTL then (if bitOf w.toNat 0 then s.gwSwap else if bitOf w.toNat 1 then s.gwDiscard else s)
  else if a = GW_RELEASE then (if m &&& 0xFF#32 = 0 then s else s.gwRelease init (fld w 0 11))
  else if a = GW_INJ_GO then (if bitOf w.toNat 0 then s.inject init else s)
  else s.plainWrite a w m false

/-- A write of a word of the PWR block (R85, R88, R92). -/
def State.pwrWord (s : State) (init a : Nat) (w m : Word) : State :=
  if a = PWR_REQ then (if m &&& 0xFF#32 = 0 then s else s.pwrReq init (fld w 0 3))
  else if a = PWR_VOTE then (if m &&& 0xFF#32 = 0 then s else s.pwrVote init (bitOf w.toNat 0) (fld w 8 8))
  else if a = PWR_REF_CLR then (if bitOf w.toNat 0 then s.refusalClear else s)
  else s.plainWrite a w m false

/-- A write of a word of the ACC block (R438, R444, R447, R451). -/
def State.accWord (s : State) (init a : Nat) (w m : Word) : State :=
  if a = ACC_POLL_REQ then (if bitOf w.toNat 31 then s.pollReq init (fld w 0 6) (fld w 8 8) else s.accWrite init id)
  else if a = ACC_AUTH_CTL then s.authWord init w
  else if a = ACC_LEARN_CTL then s.learnWord init w
  else if a = ACC_LEARN_RESP 0 then s.accWrite init (fun s => s.setReg a ((s.reg a &&& ~~~m) ||| (w &&& m)))
  else if a = ACC_LEARN_RESP 1 then s.dealerSubmit init ((s.reg a &&& ~~~m) ||| (w &&& m))
  else s.plainWrite a w m false

/-- A write of a word of a unit block; `x` is the word with the written bytes in its RW fields and the WO bits written. -/
def State.unitWord (s : State) (init a : Nat) (w m x : Word) : State :=
  if 0x05100000 ≤ a ∧ a < 0x05180000 then s.canWord init ((a - 0x05100000) / 0x10000) a w m x
  else if 0x05180000 ≤ a ∧ a < 0x05200000 then s.linWord init ((a - 0x05180000) / 0x10000) a w m x
  else
    match a / 0x10000 with
    | 0x0501 => s.pwrWord init a w m
    | 0x0508 => if a = FRM_FSYNC_OFS then s.fsyncOfs w m else s.plainWrite a w m false
    | 0x0800 => if a = DLY_ARCH_CTL then (if bitOf w.toNat 0 then s.archiveRequest else s) else s.plainWrite a w m false
    | 0x0520 =>
      if (0x05201000 ≤ a ∧ a < 0x05208000) ∨ a = ETH_QBV_CHANGE_LO ∨ a = ETH_QBV_CHANGE_HI then
        (if init = s.ethEngine ∧ init ≠ 0 then (s.setReg a ((s.reg a &&& ~~~m) ||| (w &&& m))).plcaLoad else s)
      else s.plainWrite a w m false
    | 0x0521 => s.gwWord init a w m
    | 0x0523 =>
      if a = NM_INS_CLR then (if bitOf w.toNat 0 then s.insClear else s)
      else if 0x05230100 ≤ a ∧ (a - 0x05230100) / 0x20 < 19 ∧ (a - 0x05230100) % 0x20 = 0xC then
        (if m &&& 1#32 = 0 then s else s.nmCtlWrite init ((a - 0x05230100) / 0x20) (bitOf w.toNat 0))
      else s.plainWrite a w m false
    | 0x0524 => if a = TRK_RX_LAST_ADDR then s.setF TRK_RX_LAST_VALID 0 else s.plainWrite a w m false
    | 0x0527 =>
      if a = MEAS_SENS_CTL then s.sensWrite init (fld x 0 4)
      else if 0x05270604 ≤ a ∧ a < 0x05270700 then s.tempWrite ((a - 0x05270600) / 4) init (fld w 0 16)
      else s.plainWrite a w m false
    | 0x0528 => s.accWord init a w m
    | 0x0529 =>
      if a = ISO_OUT then s.isoOutWrite init (fld x 0 16)
      else if a = ISO_CTL then s.isoCtlWrite init (bitOf w.toNat 0)
      else s.plainWrite a w m false
    | 0x052C => if a = UPD_CMD then (if m &&& 0xFF#32 = 0 then s else s.updWord init w) else s.plainWrite a w m false
    | 0x052D => if a = SYS_HANG_ADDR then s.setF SYS_HANG_INFO_VALID 0 else s.plainWrite a w m false
    | _ => s.plainWrite a w m false

/-- A write of the bytes `m` of one register word: whether a context refuses it, and the state. -/
def State.wordWrite (s : State) (init a : Nat) (w m : Word) : Bool × State :=
  if 0x03000000 ≤ a ∧ a < 0x03021000 then s.ctxWrite init ((a - 0x03000000) / 0x400) (a % 0x400) w m
  else if a / 0x10000 = 0x0600 then (false, s.strWord init a w m)
  else
    let x := (match regDefAt a with
      | some d => mergeWord d (s.reg a &&& ~~~(BitVec.ofNat 32 d.wo)) w m false ||| (w &&& m &&& BitVec.ofNat 32 d.wo)
      | none => 0)
    (false, s.unitWord init a (w &&& m) m x)

/-! Writes to memories -/

/-- The bytes of a write that fall into `[lo, hi)`, with the first address. -/
def wrPart (a : Nat) (bytes : List Byte) (lo hi : Nat) : Nat × List Byte :=
  if a < lo then (lo, (bytes.drop (lo - a)).take (hi - lo)) else (a, bytes.take (hi - a))

/-- The blocks of `size` bytes from `base` that a write touches, as index, offset and bytes. -/
def wrPieces (base size a : Nat) (bytes : List Byte) : List (Nat × Nat × List Byte) :=
  let k0 := (a - base) / size
  let k1 := (a + bytes.length - 1 - base) / size
  (List.range (k1 + 1 - k0)).map (fun i =>
    let p := wrPart a bytes (base + (k0 + i) * size) (base + (k0 + i + 1) * size)
    (k0 + i, p.1 - (base + (k0 + i) * size), p.2))

/-- Bytes of a write with their offsets. -/
def withOffsets (off : Nat) (bytes : List Byte) : List (Nat × Byte) :=
  (List.range bytes.length).map (fun i => (off + i, bytes.getD i 0))

/-- A queue entry of CANn refuses a write (R303). -/
def State.canRefuses (s : State) (n k init : Nat) (bs : List (Nat × Byte)) : Bool :=
  if !(isStr init || (s.canOwner n k = init && init ≠ 0xFF)) then true
  else if s.canHw n k then !s.ceOnlyCancel n k bs
  else
    match wrByte bs 0 with
    | none => false
    | some v => 2 ≤ v % 8 || (v % 8 = 0 && s.mf (ceSTATE n k) = 0) || (v % 8 = 1 && (s.cePut n k bs).ceBad n k)

/-- A write into the area of a CAN controller (R295, R301): queue entries by their rules. -/
def State.canArea (s : State) (init n a : Nat) (bytes : List Byte) : Bool × State :=
  (wrPieces (0x04700000 + n * 0x1000) 0x60 a bytes).foldl (fun (r : Bool × State) p =>
    if 32 ≤ p.1 then r
    else
      let bs := withOffsets p.2.1 p.2.2
      (r.1 || r.2.canRefuses n p.1 init bs, r.2.canWrite n p.1 init bs)) (false, s)

/-- A write into the area of a LIN controller (R320): frame buffers by their rules; the schedule tables come from the Script
alone. -/
def State.linArea (s : State) (init n a : Nat) (bytes : List Byte) : State :=
  (wrPieces (0x04708000 + n * 0x1000) 0x10 a bytes).foldl (fun s p =>
    if p.1 < 64 then s.linWrite n p.1 init (withOffsets p.2.1 p.2.2) else s) s

/-- A write to message RAM, area by area (R295): bytes of absent controllers are ignored (R6), the gateway's part is plain memory. -/
def State.msgWrite (s : State) (init a : Nat) (bytes : List Byte) : Bool × State :=
  (wrPieces 0x04700000 0x1000 a bytes).foldl (fun (r : Bool × State) p =>
    let x := 0x04700000 + p.1 * 0x1000 + p.2.1
    if 16 ≤ p.1 then (r.1, r.2.wrBytes x (laidBytes x p.2.2))
    else if !r.2.busPresent (p.1 % 8) then r
    else if p.1 < 8 then
      let y := r.2.canArea init p.1 x p.2.2
      (r.1 || y.1, y.2)
    else (r.1, r.2.linArea init (p.1 - 8) x p.2.2)) (false, s)

/-- A write to a memory of the map that takes effect byte by byte or by the rules of its unit: whether it is refused, and the state.
A write to the gateway's tables by an initiator without the right is ignored and counted once (R355). -/
def State.memWrite (s : State) (init a : Nat) (bytes : List Byte) : Bool × State :=
  if 0x01000000 ≤ a ∧ a < 0x01220000 then (false, s.storeWrite init a bytes)
  else if a < 0x02600000 then
    (false, if a % 0x100000 < 0x48000 ∨ init = 0x01 then s.wrBytes a bytes else s)
  else if 0x04700000 ≤ a ∧ a < 0x04780000 then s.msgWrite init a bytes
  else if a < 0x04400000 then (false, s)
  else if !s.gwMayWrite init then (false, s.gwRefuse init)
  else if 0x04400000 ≤ a ∧ a < 0x04480000 then
    (false, (wrPieces 0x04400000 0x40 a bytes).foldl (fun s p => s.shadowWrite init (p.1 * 0x40 + p.2.1) p.2.2) s)
  else if 0x04600000 ≤ a ∧ a < 0x04610000 then
    (false, (wrPieces 0x04600000 0x40 a bytes).foldl (fun s p => s.flowWrite init p.1 p.2.1 p.2.2) s)
  else (false, s)

/-- The addresses that memWrite serves: everything that is not a register. -/
def isMemTarget (a : Nat) : Bool :=
  isMem a || (0x04400000 ≤ a && a < 0x04480000)

/-- The read-only ranges of R517, with the active match table (R355). -/
def isReadOnly (a : Nat) : Bool :=
  a < 0x81000 || (0x07100000 ≤ a && a < 0x07200000) || (0x08100000 ≤ a && a < 0x08140000) ||
  (0x08008000 ≤ a && a < 0x08009000) || (0x04000000 ≤ a && a < 0x04080000)

/-! Write transactions -/

/-- A byte that belongs to the Strongroom (R12, R468): of a register of the STR block, and of ISO_CTL. -/
def swByte (a : Nat) : Bool :=
  (a / 0x10000 = 0x0600 && ((regDefAt (a - a % 4)).isSome || (idWordAt (a - a % 4)).isSome)) || (ISO_CTL ≤ a && a < ISO_CTL + 4)

/-- The byte mask and the written word of a register word under a write. -/
def wordOf (a : Nat) (bytes : List Byte) (word : Nat) (skip : Nat → Bool) : Word × Word :=
  (List.range 4).foldl (fun (r : Word × Word) i =>
    let x := word + i
    if a ≤ x ∧ x < a + bytes.length ∧ !skip x then
      (r.1 ||| BitVec.ofNat 32 ((bytes.getD (x - a) 0).toNat * 2 ^ (8 * i)), r.2 ||| BitVec.ofNat 32 (0xFF * 2 ^ (8 * i)))
    else r) (0, 0)

/-- The 16-byte request windows (R469, R498), the injection staging area (R362) and the shadow stash (R355), which take the transaction
and not the word. -/
def inWindow (a : Nat) : Bool :=
  (0x052D1000 ≤ a && a < 0x052D1010) || (0x07000010 ≤ a && a < 0x07000020) || (0x05210200 ≤ a && a < 0x05210240) ||
  (0x05218400 ≤ a && a < 0x05218800)

/-- What a write transaction gives to a request window, to the staging area or to the shadow stash. -/
def State.windowWrite (s : State) (init a : Nat) (bytes : List Byte) : State :=
  let e := a + bytes.length
  let s := if a < 0x052D1010 ∧ 0x052D1000 < e then
      s.strRequest init (if a = 0x052D1000 then bytes else []) else s
  let s := if a < 0x07000020 ∧ 0x07000010 < e then
      s.storeRequest init (if a = 0x07000010 then bytes else []) else s
  let s := if a < 0x05210240 ∧ 0x05210200 < e then
      (let p := wrPart a bytes 0x05210200 0x05210240
       s.injWrite init (p.1 - 0x05210200) p.2) else s
  if a < 0x05218800 ∧ 0x05218400 < e then
    let p := wrPart a bytes 0x05218400 0x05218800
    s.shadowStashWrite init (p.1 - 0x05218400) p.2
  else s

/-- A write to registers: word by word in ascending order, the Strongroom's bytes dropped from any other initiator (R12). -/
def State.regWrite (s : State) (init a : Nat) (bytes : List Byte) : Bool × State :=
  let own : Nat → Bool := fun x => (swByte x && !isStr init) || (s.absentAt x).isSome
  let first := (List.range bytes.length).find? (fun k => swByte (a + k) && !isStr init)
  let s := match first with | some k => s.strDrop init (a + k) | none => s
  let s := s.windowWrite init a bytes
  let w0 := a - a % 4
  let n := (a + bytes.length + 3) / 4 - w0 / 4
  (List.range n).foldl (fun (r : Bool × State) i =>
    let x := wordOf a bytes (w0 + 4 * i) (fun y => own y || inWindow y)
    if x.2 = 0 then r
    else
      let y := r.2.wordWrite init (w0 + 4 * i) x.1 x.2
      (r.1 || y.1, y.2)) (first.isSome, s)

/-- The unit of a block whose UNIT section is lazy and not yet loaded (R494): writes to it are ignored and counted. -/
def State.lazyBlock (s : State) (a : Nat) : Bool :=
  0x05180000 ≤ a && a < 0x05280000 && s.lazyUnit ((a - 0x05000000) / 0x10000) &&
  (a < 0x05200000 || a / 0x10000 = 0x0523 || a / 0x10000 = 0x0527)

/-- A write transaction at this module's targets: its status and the state (R6, R12, R17, R29, R494, R513, R517). The bytes of absent
blocks are ignored, and the transaction is counted once. -/
def State.spineWrite (s : State) (init a : Nat) (bytes : List Byte) : SpineRes :=
  let n := bytes.length
  let miss := fun (s : State) => match s.absentIn a n with
    | some (u, i) => s.absentWrite u i
    | none => s
  if s.decodeBad a n then { status := xsDECODE, data := [], st := s.decodeErr init a true }
  else if s.absentAll a n then { status := xsOK, data := [], st := miss s }
  else if s.recoveryBad init a n true then { status := xsREFUSED, data := [], st := s }
  else if isReadOnly a then { status := xsOK, data := [], st := s }
  else if s.lazyBlock a then { status := xsOK, data := [], st := s.incSat UPD_LAZY_IGNORED }
  else
    let s := miss (s.ungate a)
    let r := if isMemTarget a then s.memWrite init a bytes else s.regWrite init a bytes
    { status := if r.1 then xsREFUSED else xsOK, data := [], st := r.2 }

/-- A locked read-modify-write of one byte in the Larder or the Attic (R245): XCH puts the byte given, TAS sets bit 7; the byte
read. -/
def State.spineLocked (s : State) (init a : Nat) (tas : Bool) (x : Byte) : SpineRes :=
  if s.recoveryBad init a 1 true then { status := xsREFUSED, data := zeros 1, st := s }
  else
    let old := s.rd8 a
    let t := (s.watchTrig init false a 1).storeWrite init a [if tas then old ||| 0x80#8 else x]
    { status := xsOK, data := [old], st := t }

end Sys2Proof.Machine
end

