-- ==== Sys2Proof/Machine/Notify.lean ====
section
/-! DEFINITION. NOTIFY records: the queues of the ZRT sessions, their frames, and what an
expansion sends to the master (R371, R396). -/

namespace Sys2Proof.Machine

/-! ZRT sessions -/

/-- A ZRT session's state. -/
def State.ses (s : State) (k : Nat) : ZrtSes := tget (fun _ => {}) s.zrt k

/-- Put it, with its counts in ZRT_SESs_NOTE. -/
def State.setSes (s : State) (k : Nat) (x : ZrtSes) : State :=
  ({ s with zrt := tset (fun _ => {}) s.zrt k x }.setF (ZRT_SES_NOTE_QUEUED k) x.note.length).setF (ZRT_SES_NOTE_UNACKED k)
    x.unacked.length

/-- A raising of a flag of ZRT_FLAG. -/
def State.zrtFlag (s : State) (r : RF) : State := s.raise r ZRT_FLAG_CNT_COUNT

/-- The 12-byte header of a frame that the module sends (R364): TYPE, session, EPOCH, SEQ, NOPS, LENGTH, STATUS, big-endian. -/
def State.zrtHead (s : State) (type k seq nops body status : Nat) : List Byte :=
  bytesBE 1 (0x10 + type) ++ bytesBE 1 k ++ bytesBE 2 (s.f ZRT_EPOCH_EPOCH) ++ bytesBE 2 seq ++ bytesBE 2 nops ++
  bytesBE 2 (12 + body) ++ bytesBE 2 status

/-- The frame that carries ZRT content of a session (R363), in recovery back to the request's sender (R513). -/
def State.zrtFrame (s : State) (k : Nat) (content : List Byte) : EthFrame :=
  let x := s.ses k
  if s.boot.phase = .recovery then
    { dst := BitVec.ofNat 48 x.mac, src := BitVec.ofNat 48 s.recMac, etype := if x.udp then 0x0800 else 0x88B5
      data := (if x.udp then Config.ipUdpHead x.ip s.recPort content.length else []) ++ content }
  else
    let udp : Bool := s.on (ZRT_SES_CFG_UDP k)
    { dst := BitVec.ofNat 48 (s.f (ZRT_SES_PEER_MACL_MAC k) + s.f (ZRT_SES_PEER_MACH_MAC k) * 2 ^ 32)
      src := BitVec.ofNat 48 s.ethMac
      tag := some (BitVec.ofNat 12 (s.f (ZRT_SES_CFG_VID k)), BitVec.ofNat 3 (s.f (ZRT_SES_CFG_PCP k)))
      etype := if udp then 0x0800 else 0x88B5
      data := (if udp then Config.ipUdpHead (s.f (ZRT_SES_PEER_IP_IP k)) (s.f ZRT_CFG_UDP_PORT) content.length else []) ++ content }

/-- Send ZRT content of a session: replicated to both uplinks, with the sequence number of its stream where there is one, if FRER
is set (R334, R363); else on the uplink of its last request. -/
def State.zrtSend (s : State) (k : Nat) (content : List Byte) : State :=
  let f := s.zrtFrame k content
  let pcp := s.f (ZRT_SES_CFG_PCP k)
  if s.boot.phase = .recovery then s.ethPut (s.ses k).port 0 f
  else if s.on (ZRT_SES_CFG_FRER k) then
    match s.ethStream f.dst.toNat (s.f (ZRT_SES_CFG_VID k)) with
    | some r =>
      let q := tget (fun _ => 0) s.eth.txSeq r
      let f := { f with rtag := some (BitVec.ofNat 16 q) }
      let s := { s with eth := { s.eth with txSeq := tset (fun _ => 0) s.eth.txSeq r ((q + 1) % 0x10000) } }
      (s.ethPut 0 pcp f).ethPut 1 pcp f
    | none => (s.ethPut 0 pcp f).ethPut 1 pcp f
  else s.ethPut (s.ses k).port pcp f

/-! NOTIFY frames (R371, R396) -/

/-- The record before a run of records from expansion `n` (R396). -/
def runHead (n count : Nat) : Cue := { cls := 7, code := 0xFE, kind := 4, index := n, arg := count }

/-- The record of records dropped (R371); its SOURCE index and DATA are not stated. -/
def dropHead (k count : Nat) : Cue :=
  { cls := 7, code := 0xFF, kind := 6, index := Config.cueOpen 7 (0x600 + k) 4 % 0x100, arg := min count 0xFFFF,
    data := Config.cueOpen 7 (0x600 + k) 2 % 2 ^ 32 }

/-- The records that fit in a budget, runs of expansions headed, and how many of the queue they are. The fuel is the queue's
length. -/
def noteTake : Nat → Nat → List (Nat × Cue) → List Cue × Nat
  | 0, _, _ => ([], 0)
  | fuel + 1, b, q =>
    match q with
    | [] => ([], 0)
    | (n, _) :: _ =>
      let run := q.takeWhile (fun e => e.1 = n)
      let b := if n = 0 then b else b - 1
      let k := min run.length b
      if k = 0 then ([], 0)
      else
        let r := noteTake fuel (b - k) (q.drop k)
        ((if n = 0 then [] else [runHead n k]) ++ (run.take k).map (fun e => e.2) ++ r.1, k + r.2)

/-- A NOTIFY frame of up to 90 records is sent, unless 8 frames are unacknowledged or nothing is queued. -/
def State.noteSend (s : State) (k : Nat) : State :=
  let x := s.ses k
  if !s.on (ZRT_SES_CFG_EN k) ∨ 8 ≤ x.unacked.length ∨ (x.note = [] ∧ x.lost = 0) then s
  else
    let r := noteTake x.note.length (if x.lost = 0 then 90 else 89) x.note
    let recs := (if x.lost = 0 then [] else [dropHead k x.lost]) ++ r.1
    let n := 16 * recs.length
    let op := bytesBE 1 6 ++ bytesBE 1 0 ++ bytesBE 2 n ++ bytesBE 4 0 ++ bytesBE 4 0
    let content := s.zrtHead 2 k x.noteSeq 1 (12 + n) 0 ++ op ++ recs.flatMap Cue.bytes
    (s.setSes k { x with note := x.note.drop r.2, lost := 0, unacked := x.unacked ++ [(x.noteSeq, content)],
                         noteSeq := (x.noteSeq + 1) % 0x10000 }).zrtSend k content

/-- BATCH_N records are queued, or one of class REFLEX or with URGENT set. -/
def State.noteDue (s : State) (k : Nat) : Bool :=
  s.f ZRT_NOTIFY_CFG_BATCH_N ≤ (s.ses k).note.length || (s.ses k).note.any (fun e => e.2.cls = 1 || e.2.urgent)

/-- A record joins a session's queue of 128; one that finds it full is dropped and counted. -/
def State.noteQueue (s : State) (k n : Nat) (c : Cue) : State :=
  let x := s.ses k
  if 128 ≤ x.note.length then
    ((s.setSes k { x with lost := x.lost + 1 }).incSat (ZRT_SES_NOTE_DROPPED k)).zrtFlag ZRT_FLAG_NOTIFY_DROP
  else s.setSes k { x with note := x.note ++ [(n, c)] }

/-- An expansion sends to the master every record that is not on its way, while its link is up (R396). -/
def State.noteForward (s : State) (k : Nat) : State :=
  if s.f TRK_STAT_LINK ≠ 2 then s
  else
    let sent := (s.trk.outs.filter (fun o => o.2.what = 6 && o.2.orig = 0x40 + k)).length
    ((s.ses k).note.drop sent).foldl (fun s e =>
      s.trkSend 0 { orig := 0x40 + k, op := 1, addr := Config.openValue 6 k % 2 ^ 32, len := 16, data := e.2.bytes, what := 6 }) s

/-- A record reaches a session: on a master its frame may be due; on an expansion it goes on to the master. -/
def State.noteOffer (s : State) (k n : Nat) (c : Cue) : State :=
  let s := s.noteQueue k n c
  if s.expansion then s.noteForward k
  else if s.noteDue k then s.noteSend k else s

/-- A cue addressed to a session: its URGENT is that of class REFLEX alone, and its SEQ is not stated (R254, R371). -/
def State.noteCue (s : State) (k : Nat) (c : Cue) : State :=
  s.drawn.noteOffer k 0 { c with seq := s.draw % 0x10000, urgent := c.cls = 1 }

/-- A record read back from its 16 bytes (R254). -/
def cueOfBytes (b : List Byte) : Cue :=
  { cls := sliceLE b 0 1 % 0x10, urgent := bitOf (sliceLE b 0 1) 4, merged := bitOf (sliceLE b 0 1) 5, code := sliceLE b 1 1,
    index := sliceLE b 2 1, kind := sliceLE b 3 1, arg := sliceLE b 4 2, seq := sliceLE b 6 2, data := sliceLE b 8 4,
    stampLo := sliceLE b 12 4 }

/-- CUE_POST (R257, R258, R269, R371): the oldest cue posted reaches its queue: an engine's, which ends Idle, or a session's. A cue
to any other target has no queue. -/
def execCuePost (s : State) : Host.Outcome State Fault Refusal :=
  go (match s.offers with
    | [] => s
    | o :: t =>
      let s := { s with offers := t }
      if isEngine o.target ∧ s.crewPresent ((o.target - 0x10) / 8) then (s.offerCue (o.target - 0x10) o.cue o.merge).idleExit
      else if isSession o.target then s.noteCue (o.target - 0x40) o.cue
      else s)

/-- NOTIFY_BATCH_TIMEOUT (R371): BATCH_US after the oldest queued record. -/
def execNotifyBatchTimeout (k : Fin 8) (s : State) : Host.Outcome State Fault Refusal :=
  go (if s.expansion ∨ !s.clocked 10 then s else s.noteSend k)

/-- NOTIFY_RETRANSMIT (R371): RETX_MS after the last transmission of an unacknowledged frame of an open session. -/
def execNotifyRetransmit (k : Fin 8) (seq : BitVec 16) (s : State) : Host.Outcome State Fault Refusal :=
  go (match (s.ses k).unacked.find? (fun e => e.1 = seq.toNat) with
    | some e => if s.clocked 10 ∧ s.on (ZRT_SES_STAT_OPEN k) then s.zrtSend k e.2 else s
    | none => s)

end Sys2Proof.Machine
end

