-- ==== Sys2Proof/Machine/Bridge.lean ====
section
/-! DEFINITION. The rules that the Trunk bridge and the ZRT bridge share: the range table (R401), prefetch (R402, R403), posted writes
with their log and stops (R404 to R406), and accesses to the expansion windows (R394, R400). -/

namespace Sys2Proof.Machine

/-- The pieces of an access that cross no 64-byte-aligned address, as first address and length, ascending (R367, R516). -/
def linePieces (a n : Nat) : List (Nat × Nat) :=
  if n = 0 then []
  else
    (List.range ((a + n - 1) / 64 + 1 - a / 64)).map (fun i =>
      let lo := max a ((a / 64 + i) * 64)
      let hi := min (a + n) ((a / 64 + i + 1) * 64)
      (lo, hi - lo))

/-! The range table (R401) -/

/-- The range that holds an address: the lowest-numbered valid one. -/
def State.brgRange (s : State) (a : Nat) : Option Nat :=
  (List.range 32).find? (fun r =>
    s.on (BRG_RANGE_ATTR_VALID r) && s.f (BRG_RANGE_BASE_BASE r) ≤ a / 0x1000 && a / 0x1000 ≤ s.f (BRG_RANGE_LIMIT_LIMIT r))

/-- An address in a range with SEF set. -/
def State.brgSef (s : State) (a : Nat) : Bool :=
  match s.brgRange a with
  | some r => s.on (BRG_RANGE_ATTR_SEF r)
  | none => false

/-- An address in a range with POSTED set. -/
def State.brgPosted (s : State) (a : Nat) : Bool :=
  match s.brgRange a with
  | some r => s.on (BRG_RANGE_ATTR_POSTED r)
  | none => false

/-- The window of a trained expansion holds the access (R394). -/
def State.farUsable (s : State) (a n : Nat) : Bool := isFar a && inOneRange a n && s.trkUsable (a / 0x10000000)

/-- A transaction to an expansion leaves as a REQ. -/
def State.farSend (s : State) (r : TrkReq) : State := s.trkSend (r.addr / 0x10000000) r

/-- Reads through a bridge are counted with and without SPEC. -/
def State.countRead (s : State) (spec : Bool) : State :=
  if spec then s.incMod BRG_ACC_CNT0_SPEC_READS else s.incMod BRG_ACC_CNT0_READS

/-- A read that its target answered SPEC-REFUSED is counted (R403). -/
def State.countSpecRefused (s : State) (status : Nat) : State :=
  if status = xsSPEC then s.incSat BRG_SPEC_REFUSED_CNT_COUNT else s

/-! Prefetch (R402, R403) -/

/-- The buffer of a bridge that holds every byte of a read of an initiator and is young enough; with its bytes. -/
def State.pfFind (s : State) (bridge init a n : Nat) : Option (BrgBuf × List Byte) :=
  if n = 0 ∨ !s.brgSef a then none
  else
    (s.brg.pf.filterMap (fun b =>
      let w := (b.bytes.drop (a - b.base)).take n
      if b.bridge = bridge ∧ b.init = init ∧ b.base ≤ a ∧ w.length = n ∧ w.all Option.isSome ∧
          s.now < b.at_ + s.f BRG_CFG_PF_LIFE_US * 125 then some (b, w.filterMap id)
      else none)).head?

/-- A buffer becomes the one used last. -/
def State.pfTouch (s : State) (b : BrgBuf) : State :=
  { s with brg := { s.brg with pf := s.brg.pf.erase b ++ [b] } }

/-- A buffer for bytes to be fetched: of a bridge's eight the least recently used is replaced. -/
def State.pfAlloc (s : State) (bridge init base len : Nat) : State :=
  let mine := s.brg.pf.filter (fun b => b.bridge = bridge)
  let l := match mine.head? with
    | some b => if 8 ≤ mine.length then s.brg.pf.erase b else s.brg.pf
    | none => s.brg.pf
  let b : BrgBuf := { bridge := bridge, init := init, base := base, bytes := List.replicate len none, at_ := s.now }
  { s with brg := { s.brg with pf := l ++ [b] } }

/-- Bytes that arrived are put into the newest buffer of the initiator that covers them; its age counts from the first ones. -/
def State.pfFill (s : State) (bridge init a : Nat) (data : List Byte) : State :=
  let mine : BrgBuf → Bool := fun b =>
    b.bridge = bridge && b.init = init && b.base ≤ a && a + data.length ≤ b.base + b.bytes.length
  match s.brg.pf.reverse.find? mine with
  | none => s
  | some b =>
    let k := a - b.base
    let c := { b with bytes := b.bytes.take k ++ data.map some ++ b.bytes.drop (k + data.length)
                      at_ := if b.bytes.all Option.isNone then s.now else b.at_ }
    { s with brg := { s.brg with pf := s.brg.pf.map (fun x => if x = b then c else x) } }

/-- A write through a bridge makes its bytes invalid in every buffer, and so are those still on their way. -/
def State.pfInvalidate (s : State) (a n : Nat) : State :=
  let hit := fun (b : BrgBuf) => (List.range b.bytes.length).map (fun k =>
    if a ≤ b.base + k ∧ b.base + k < a + n then none else b.bytes.getD k none)
  { s with
    brg := { s.brg with pf := s.brg.pf.map (fun b => { b with bytes := hit b }) }
    trk := { s.trk with outs := s.trk.outs.map (fun o =>
      if o.2.what = 4 ∧ o.2.addr < a + n ∧ a < o.2.addr + o.2.len then (o.1, { o.2 with what := 5 }) else o) } }

/-- One prefetch transaction, with SPEC. -/
def State.pfOne (s : State) (bridge init a n : Nat) : State :=
  if isFar a then
    (if s.farUsable a n then (s.farSend { orig := init, spec := true, addr := a, len := n, what := 4, zrt := bridge = 1 }).countRead true
     else s)
  else if s.mustWait a n false then s
  else
    let r := s.spineRead init a n true
    let s := (r.st.countRead true).countSpecRefused r.status
    if r.status = xsOK then s.pfFill bridge init a r.data else s

/-- What a read in an SEF range fetches beyond its end: up to 256 bytes, truncated at the range's LIMIT. -/
def State.prefetch (s : State) (bridge init a n : Nat) : State :=
  match s.brgRange a with
  | none => s
  | some r =>
    let lo := a + n
    let hi := min ((s.f (BRG_RANGE_LIMIT_LIMIT r) + 1) * 0x1000) (lo + 256)
    if !s.on BRG_CFG_PF_EN ∨ !s.on (BRG_RANGE_ATTR_SEF r) ∨ hi ≤ lo then s
    else (linePieces lo (hi - lo)).foldl (fun s p => s.pfOne bridge init p.1 p.2) (s.pfAlloc bridge init lo (hi - lo))

/-! Posted writes (R404 to R406) -/

/-- The posted buffer of a bridge has a free entry. -/
def State.postedRoom (s : State) (zrt : Bool) : Bool := (s.brg.posted.filter (fun t => t.zrt = zrt)).length < 16

/-- A posted write enters the buffer: to an expansion it leaves at once, or has failed where the window is not usable any more; in this
module's Larder it is made at once. -/
def State.postedEnter (s : State) (r : TrkReq) : State :=
  if isFar r.addr then
    if s.farUsable r.addr r.len then
      let t := s.trkTag
      let s := s.farSend { r with op := 2, what := 3 }
      { s with brg := { s.brg with posted := s.brg.posted ++ [{ r with op := 2, what := 3, tag := t }] } }
    else { s with brg := { s.brg with posted := s.brg.posted ++ [{ r with op := 2, what := 3, fail := xsLOST }] } }
  else
    let w := s.spineWrite r.orig r.addr r.data
    let s := w.st
    if w.status = xsOK then s
    else { s with brg := { s.brg with posted := s.brg.posted ++ [{ r with op := 2, what := 3, fail := w.status }] } }

/-- The PERR cue of R404: an engine's BUSERR, or the same cue as a session's NOTIFY record. -/
def State.perrCue (s : State) (init a n status : Nat) : State :=
  s.postCue init 9 4 0x01 0x25 (n % 0x100 + status * 0x100) a false

/-- A write by an engine or a session in a POSTED range: PERR_STOP where the initiator is stopped (R406); else it is held, or waits for a
free entry. The status where it has completed to its initiator. -/
def State.postedWrite (s : State) (init : Nat) (lvl : Bool) (a : Nat) (bytes : List Byte) : Option Nat × State :=
  let zrt := isSession init
  let s := (s.incMod BRG_ACC_CNT1_POSTED).pfInvalidate a bytes.length
  let r : TrkReq := { orig := init, lvl := lvl, op := 2, addr := a, len := bytes.length, data := bytes, what := 3, zrt := zrt }
  if s.stopped init then
    (some xsPERR, if isEngine init then s.perrCue init a bytes.length xsPERR else s)
  else if s.postedRoom zrt ∧ !s.brg.wait.any (fun t => t.zrt = zrt) then (some xsOK, s.postedEnter r)
  else (none, { s with brg := { s.brg with wait := s.brg.wait ++ [r] } })

/-- A failed posted write is logged, cued, and may stop its initiator (R404 to R406). -/
def State.postedFail (s : State) (r : TrkReq) : State :=
  let n := s.f BRG_PEL_STAT_COUNT
  let info := r.orig + r.len * 0x100 + r.fail * 0x10000 + b2n r.zrt * 0x1000000 + 0x80000000
  let s := if n < 8 then
      (s.putPel n [BitVec.ofNat 32 r.addr, BitVec.ofNat 32 info, BitVec.ofNat 32 s.now, BitVec.ofNat 32 (s.now / 2 ^ 32)]).setF
        BRG_PEL_STAT_COUNT (n + 1)
    else s.incSat BRG_PEL_STAT_OVF
  let s := s.perrCue r.orig r.addr r.len r.fail
  match stopBit BRG_STOP0 BRG_STOP1 r.orig, stopBit BRG_STOPPED0 BRG_STOPPED1 r.orig with
  | some st, some sd => if s.on st then s.setF sd 1 else s
  | _, _ => s

/-- POSTED_WRITE_FAIL (R404, R405, R406): the oldest posted write that has failed. -/
def execPostedWriteFail (s : State) : Host.Outcome State Fault Refusal :=
  go (match s.brg.posted.find? (fun r => r.fail ≠ 0) with
    | some r => ({ s with brg := { s.brg with posted := s.brg.posted.erase r } }).postedFail r
    | none => s)

/-- PEL_POP (R405, R406): a read that touches byte 0 of BRG_PEL_POP. -/
def execPelPop (s : State) : Host.Outcome State Fault Refusal := go s.pelPop

/-! Completions to their initiators -/

/-- The transactions of a session's operation or of an external port's transfer. -/
def State.partsOf (s : State) (init : Nat) : List ZrtPart :=
  if isSession init then (s.ses (init - 0x40)).parts else (tget (fun _ => {}) s.ports init).parts

/-- Put them. -/
def State.setParts (s : State) (init : Nat) (l : List ZrtPart) : State :=
  if isSession init then s.setSes (init - 0x40) { s.ses (init - 0x40) with parts := l }
  else { s with ports := tset (fun _ => {}) s.ports init { tget (fun _ => {}) s.ports init with parts := l } }

/-- The first open transaction at an address takes its status and data. -/
def partsDone (a status : Nat) (data : List Byte) : List ZrtPart → List ZrtPart
  | [] => []
  | p :: t =>
    if p.addr = a ∧ !p.done then { p with done := true, status := status, data := data } :: t else p :: partsDone a status data t

/-- A transaction of a session or of an external port completes. -/
def State.partDone (s : State) (init a status : Nat) (data : List Byte) : State :=
  s.setParts init (partsDone a status data (s.partsOf init))

/-- A transaction of an engine completes: a load has its data (R240). -/
def State.engDone (s : State) (init op : Nat) (data : List Byte) : State :=
  let g := init - 0x10
  match (s.eng g).load with
  | some l => if op = 1 then s else s.setEng g { s.eng g with load := some { l with data := some data } }
  | none => s

/-! Accesses of sessions and external ports -/

/-- The number of the one who waits for a completion. -/
def waiter (init : Nat) : Nat := if isSession init then 1 else 2

/-- A transaction is noted as running. -/
def State.partOpen (s : State) (init a n : Nat) : State := s.setParts init (s.partsOf init ++ [{ addr := a, len := n }])

/-- A transaction of the initiator waits already: for its target, or for a free entry of the posted buffer (R28, R404). -/
def State.queuedFor (s : State) (init : Nat) : Bool :=
  s.waiting.any (fun t => t.init = init) || s.brg.wait.any (fun t => t.orig = init)

/-- A transaction waits at the target port of an address (R27, R100). -/
def State.portHeld (s : State) (a : Nat) : Bool :=
  s.waiting.any (fun t => portOf t.addr = portOf a) || s.trk.reqs.any (fun r => portOf r.2.2.addr = portOf a)

/-- A new transaction has to wait: behind those of its initiator (R28), behind those at its port (R27), or for its target (R98, R100,
R358). -/
def State.behind (s : State) (init a n : Nat) (write : Bool) : Bool := s.queuedFor init || s.portHeld a || s.mustWait a n write

/-- A transaction to a window that is not usable: a decode error, which a session sees as LINK_LOST (R394). -/
def State.farError (s : State) (init a : Nat) (write : Bool) : Nat × State :=
  (if isSession init ∧ a < 0x40000000 then xsLOST else xsDECODE, s.decodeErr init a write)

/-- A read transaction whose turn it is: it completes here, or at an expansion. -/
def State.busReadGo (s : State) (init a n : Nat) (spec : Bool) : State :=
  let s := if isSession init ∨ isFar a then s.countRead spec else s
  if s.farUsable a n then s.farSend { orig := init, spec := spec, addr := a, len := n, what := waiter init, zrt := isSession init }
  else if isFar a then
    let e := s.farError init a false
    e.2.partDone init a e.1 (zeros n)
  else
    let r := s.spineRead init a n spec
    (r.st.countSpecRefused r.status).partDone init a r.status r.data

/-- A read transaction of a session or an external port: it waits behind those that wait already, and for its target (R27, R28, R100). -/
def State.busRead (s : State) (init a n : Nat) (spec : Bool) : State :=
  let s := s.partOpen init a n
  if s.behind init a n false then
    { s with waiting := s.waiting ++ [{ init := init, op := 0, spec := spec, addr := a, len := n }] }
  else s.busReadGo init a n spec

/-- A write transaction whose turn it is (R400, R404). -/
def State.busWriteGo (s : State) (init a : Nat) (bytes : List Byte) : State :=
  let n := bytes.length
  if isSession init ∧ s.brgPosted a ∧ (!isFar a ∨ s.farUsable a n) then
    let r := s.postedWrite init false a bytes
    match r.1 with
    | some st => r.2.partDone init a st []
    | none => r.2
  else
    let s := if isSession init ∨ isFar a then (s.incMod BRG_ACC_CNT1_WRITES).pfInvalidate a n else s
    if s.farUsable a n then
      s.farSend { orig := init, op := 1, addr := a, len := n, data := bytes, what := waiter init, zrt := isSession init }
    else if isFar a then
      let e := s.farError init a true
      e.2.partDone init a e.1 []
    else
      let r := s.spineWrite init a bytes
      r.st.partDone init a r.status []

/-- A write transaction of a session or an external port. -/
def State.busWrite (s : State) (init a : Nat) (bytes : List Byte) : State :=
  let s := s.partOpen init a bytes.length
  if s.behind init a bytes.length true then
    { s with waiting := s.waiting ++ [{ init := init, op := 1, addr := a, len := bytes.length, data := bytes }] }
  else s.busWriteGo init a bytes

/-- The status of a transfer: that of the first transaction in address order that did not complete OK (R367). -/
def partsStatus (l : List ZrtPart) : Nat := (l.find? (fun p => p.status ≠ xsOK)).elim xsOK ZrtPart.status

/-- Every transaction has completed. -/
def partsAll (l : List ZrtPart) : Bool := l.all ZrtPart.done

/-- The transactions of an external port's transfer have all completed: it is answered. -/
def State.portFinish (s : State) (init : Nat) : State :=
  let l := s.partsOf init
  if partsAll l then
    { s with ports := tset (fun _ => {}) s.ports init { status := partsStatus l, data := l.flatMap ZrtPart.data, parts := [] } }
  else s

/-! Accesses of engines -/

/-- A transaction of an engine to an expansion window (R394, R400, R402, R404). -/
def State.engFar (s : State) (t : SpineTx) : State :=
  let post : Bool := s.brgPosted t.addr
  if t.op = 1 ∧ post then (s.postedWrite t.init t.lvl t.addr t.data).2
  else if t.op = 1 then
    ((s.incMod BRG_ACC_CNT1_WRITES).pfInvalidate t.addr t.len).farSend
      { orig := t.init, lvl := t.lvl, op := 1, addr := t.addr, len := t.len, data := t.data }
  else
    let s := s.countRead false
    match s.pfFind 0 t.init t.addr t.len with
    | some b => (s.pfTouch b.1).engDone t.init 0 b.2
    | none => (s.farSend { orig := t.init, lvl := t.lvl, addr := t.addr, len := t.len }).prefetch 0 t.init t.addr t.len

/-- A transaction of an engine that its port has granted. -/
def State.engRun (s : State) (t : SpineTx) : State :=
  if s.farUsable t.addr t.len then s.engFar t
  else if t.op = 0 then
    let r := s.spineRead t.init t.addr t.len false
    r.st.engDone t.init 0 r.data
  else if t.op = 1 then (s.spineWrite t.init t.addr t.data).st
  else
    let r := s.spineLocked t.init t.addr (t.op = 3) (t.data.getD 0 0)
    r.st.engDone t.init t.op r.data

end Sys2Proof.Machine
end

