-- ==== Sys2Proof/Machine/Zrt.lean ====
section
/-! DEFINITION. Zonal Remote Transport, the request side: frames (R363, R364), opening and replay (R366), the execution of operations
(R365, R367, R368, R407), and the operations with a tag (R369, R510). -/

namespace Sys2Proof.Machine

/-! Frames -/

/-- A length rounded up to a multiple of 4. -/
def pad4 (n : Nat) : Nat := (n + 3) / 4 * 4

/-- The bytes of request data that an operation carries, before padding (R365); an unknown operation carries none. -/
def opData (op len : Nat) : Nat :=
  match op with
  | 2 => len
  | 3 => 2 * len
  | 6 => len
  | 7 => len
  | 8 => len
  | _ => 0

/-- Parse the operations of a request; none where they do not fill it exactly. -/
def parseOps : Nat → List Byte → Option (List ZrtOp)
  | 0, l => if l = [] then some [] else none
  | n + 1, l =>
    let len := natBE ((l.drop 2).take 2)
    let op := sliceLE l 0 1
    let d := opData op len
    if l.length < 12 + pad4 d then none
    else
      let x : ZrtOp := { op := op, status := sliceLE l 1 1, len := len, addr := natBE ((l.drop 4).take 4),
                         arg := natBE ((l.drop 8).take 4), data := (l.drop 12).take d }
      (parseOps n (l.drop (12 + pad4 d))).map (fun r => x :: r)

/-- The 12-byte header of an operation. -/
def ZrtOp.head (x : ZrtOp) : List Byte :=
  bytesBE 1 x.op ++ bytesBE 1 x.status ++ bytesBE 2 x.len ++ bytesBE 4 x.addr ++ bytesBE 4 x.arg

/-- An operation with its data padded. -/
def ZrtOp.bytes (x : ZrtOp) : List Byte := x.head ++ x.data ++ List.replicate (pad4 x.data.length - x.data.length) 0

/-- The length of an operation's part of the response, if it executes. -/
def respLen (x : ZrtOp) : Nat := 12 + (if x.op = 1 ∨ x.op = 3 ∨ x.op = 4 then pad4 x.len else 0)

/-- A RESPONSE with a frame status and operations. -/
def State.zrtAnswer (s : State) (k seq status : Nat) (ops : List ZrtOp) : State :=
  let body := ops.flatMap ZrtOp.bytes
  s.zrtSend k (s.zrtHead 1 k seq ops.length body.length status ++ body)

/-- LAST_STATUS of a response. -/
def lastStatus (status : Nat) (ops : List ZrtOp) : Nat :=
  if status ≠ 0 then status else (ops.find? (fun x => x.status ≠ 0)).elim 0 ZrtOp.status

/-- A response that is cached for replay (R366). -/
def State.zrtRespond (s : State) (k seq status : Nat) (ops : List ZrtOp) : State :=
  ((s.setSes k { s.ses k with cur := none, parts := [], cache := some (seq, status, ops) }).setF (ZRT_SES_STAT_LAST_STATUS k)
    (lastStatus status ops)).zrtAnswer k seq status ops

/-! Execution (R367, R368) -/

/-- OP_GRANT of a session; in recovery READ, WRITE, FENCE and RESET (R513). -/
def State.opGranted (s : State) (k op : Nat) : Bool :=
  if s.boot.phase = .recovery then op = 1 || op = 2 || op = 5 || op = 7
  else bitOf (s.f (ZRT_SES_CFG_OP_GRANT k)) (op - 1)

/-- The status of an operation that is not executed, 0 where it is (R365, R367). -/
def State.opCheck (s : State) (k : Nat) (r : ZrtReq) (x : ZrtOp) : Nat :=
  if r.stop ∧ r.done.any (fun d => d.status ≠ xsOK) then xsSKIPPED
  else if x.op = 0 ∨ x.op = 6 ∨ 8 < x.op then xsBADOP
  else if !s.opGranted k x.op then xsGRANT
  else
    match x.op with
    | 1 | 2 => if x.len = 0 ∨ 1024 < x.len then xsLENGTH else xsOK
    | 3 => if x.len ≠ 1 ∧ x.len ≠ 2 ∧ x.len ≠ 4 ∧ x.len ≠ 8 then xsLENGTH else if x.addr % x.len ≠ 0 then xsALIGN else xsOK
    | 4 => if x.len = 0 ∨ 64 < x.len then xsLENGTH else if 64 < x.addr % 64 + x.len then xsALIGN else xsOK
    | 5 => if x.len = 0 then xsOK else xsLENGTH
    | _ => if x.len = 8 then xsOK else xsLENGTH

/-- Go on in a request: operations that are not executed return their status, without data, and after the last one the response is
sent. The fuel is the number of operations. -/
def State.zrtAdvance (s : State) (k : Nat) : Nat → State
  | 0 =>
    match (s.ses k).cur with
    | some r => if r.todo = [] then s.zrtRespond k r.seq 0 r.done else s
    | none => s
  | n + 1 =>
    match (s.ses k).cur with
    | none => s
    | some r =>
      match r.todo with
      | [] => s.zrtRespond k r.seq 0 r.done
      | x :: t =>
        let c := s.opCheck k r x
        if c = xsOK then s
        else
          (s.setSes k { s.ses k with cur := some { r with todo := t, done := r.done ++ [{ x with status := c, len := 0, data := [] }] } }).zrtAdvance
            k n

/-- The gateway's lookup of an operation that has executed (R337, R368): its reflex and its cue. -/
def State.zrtLookup (s : State) (k : Nat) (x : ZrtOp) : State :=
  if s.boot.phase = .recovery then s
  else
    let g : GwFrame := { port := 0, kind := 6, id := 16 * k + x.op, data := x.data, stamp := s.now }
    match s.gwFind g.key with
    | some e =>
      let s := s.setF GW_HIT_CNT_COUNT ((s.f GW_HIT_CNT_COUNT + 1) % 2 ^ 32)
      (s.flowHit e g).gwActions e g true
    | none => s.setF GW_MISS_CNT_COUNT ((s.f GW_MISS_CNT_COUNT + 1) % 2 ^ 32)

/-- The operation at the head of a session's request ends with a status and data. -/
def State.zrtDone (s : State) (k status : Nat) (data : List Byte) : State :=
  match (s.ses k).cur with
  | none => s
  | some r =>
    match r.todo with
    | [] => s
    | x :: t =>
      let s := if status = xsAUTH then s else s.zrtLookup k x
      let y := { x with status := status, data := data }
      (s.setSes k { s.ses k with parts := [], cur := some { r with todo := t, done := r.done ++ [y] } }).zrtAdvance k t.length

/-- A session has an operation to start: none of its transactions has been issued, and a FENCE has nothing left to wait for. -/
def State.zrtReady (s : State) (k : Nat) : Bool :=
  match (s.ses k).cur with
  | none => false
  | some r =>
    match r.todo with
    | [] => false
    | x :: _ => (s.ses k).parts = [] && (x.op ≠ 5 || s.storesLeft (0x40 + k) = 0)

/-- The session whose turn it is: round-robin over those that are ready (R367). -/
def State.zrtTurn (s : State) : Option Nat :=
  ((List.range 8).map (fun i => (tget (fun _ => 0) s.rr 0x100 + i) % 8)).find? s.zrtReady

/-- The operation at the head of a session's request, if it is the one named and its turn has come, with the turn taken. -/
def State.zrtHeadOp (s : State) (k op : Nat) : Option (ZrtOp × State) :=
  match (s.ses k).cur with
  | none => none
  | some r =>
    match r.todo with
    | [] => none
    | x :: _ =>
      if x.op = op ∧ s.zrtTurn = some k ∧ s.clocked 10 then some (x, { s with rr := tset (fun _ => 0) s.rr 0x100 ((k + 1) % 8) })
      else none

/-- The value that an RMW writes (R368). -/
def rmwValue (old data : List Byte) : List Byte :=
  (List.range old.length).map (fun i =>
    let m := data.getD i 0
    (old.getD i 0 &&& ~~~m) ||| (data.getD (old.length + i) 0 &&& m))

/-- The transactions of the running operation have all completed: it ends, or an RMW makes its write. -/
def State.zrtFinish (s : State) (k : Nat) : State :=
  let l := (s.ses k).parts
  match (s.ses k).cur with
  | none => s
  | some r =>
    match r.todo with
    | [] => s
    | x :: _ =>
      if l = [] ∨ !partsAll l then s
      else
        match x.op, l with
        | 3, [p] =>
          if p.status = xsOK then
            let s := s.busWrite (0x40 + k) x.addr (rmwValue p.data x.data)
            if partsAll (s.ses k).parts then s.zrtDone k (partsStatus (s.ses k).parts) p.data else s
          else s.zrtDone k p.status (zeros x.len)
        | 3, p :: _ => s.zrtDone k (partsStatus l) p.data
        | 2, _ => s.zrtDone k (partsStatus l) []
        | _, _ => s.zrtDone k (partsStatus l) (l.flatMap ZrtPart.data)

/-- ZRT_READ (R367, R368): speculative reads; a read that a prefetch buffer holds is served from it (R402). -/
def execZrtRead (k : Fin 8) (s : State) : Host.Outcome State Fault Refusal :=
  go (match s.zrtHeadOp k 1 with
    | none => s
    | some (x, s) =>
      let init := 0x40 + k.val
      match s.pfFind 1 init x.addr x.len with
      | some b => ((s.countRead true).pfTouch b.1).zrtDone k xsOK b.2
      | none =>
        let s := (linePieces x.addr x.len).foldl (fun s p => s.busRead init p.1 p.2 true) s
        (s.prefetch 1 init x.addr x.len).zrtFinish k)

/-- ZRT_WRITE (R367): every transaction is issued, in address order. -/
def execZrtWrite (k : Fin 8) (s : State) : Host.Outcome State Fault Refusal :=
  go (match s.zrtHeadOp k 2 with
    | none => s
    | some (x, s) =>
      let s := (linePieces x.addr x.len).foldl (fun s p =>
        s.busWrite (0x40 + k) p.1 ((x.data.drop (p.1 - x.addr)).take p.2)) s
      s.zrtFinish k)

/-- An RMW in the Larder or the Attic: one locked transaction, whose read the watches ignore (R245, R268, R368). -/
def State.rmwLocked (s : State) (init : Nat) (x : ZrtOp) : Nat × List Byte × State :=
  let r := s.spineRead init x.addr x.len true
  if r.status ≠ xsOK then (r.status, zeros x.len, r.st)
  else
    let w := r.st.spineWrite init x.addr (rmwValue r.data x.data)
    (w.status, r.data, w.st)

/-- ZRT_RMW (R368). -/
def execZrtRmw (k : Fin 8) (s : State) : Host.Outcome State Fault Refusal :=
  go (match s.zrtHeadOp k 3 with
    | none => s
    | some (x, s) =>
      let init := 0x40 + k.val
      if inLarder x.addr then
        let s := (s.countRead true).pfInvalidate x.addr x.len
        let r := s.rmwLocked init x
        (r.2.2.incMod BRG_ACC_CNT1_WRITES).zrtDone k r.1 r.2.1
      else (s.busRead init x.addr x.len true).zrtFinish k)

/-- ZRT_TAKE (R368): one read that is not speculative. -/
def execZrtTake (k : Fin 8) (s : State) : Host.Outcome State Fault Refusal :=
  go (match s.zrtHeadOp k 4 with
    | none => s
    | some (x, s) => (s.busRead (0x40 + k) x.addr x.len false).zrtFinish k)

/-- ZRT_FENCE (R407): complete once no earlier posted write of the session is left in a buffer. -/
def execZrtFence (k : Fin 8) (s : State) : Host.Outcome State Fault Refusal :=
  go (match s.zrtHeadOp k 5 with
    | none => s
    | some (_, s) => s.zrtDone k xsOK [])

/-! Operations with a tag (R369) -/

/-- The tag of an operation holds: the first 8 bytes of AES-CMAC under the session's command key over EPOCH, SEQ, SESSION and the
operation's header. -/
def State.tagOk (s : State) (k seq : Nat) (x : ZrtOp) : Bool :=
  let key := s.key (25 + k)
  key.kind = 1 &&
  x.data = (cmac key.bytes (bytesBE 2 (s.f ZRT_EPOCH_EPOCH) ++ bytesBE 2 seq ++ bytesBE 1 k ++ x.head)).take 8

/-- A wrong tag: AUTH_FAIL is set and stamped; the record's EVENT number is not stated. -/
def State.tagFail (s : State) (k : Nat) : State :=
  ((s.zrtFlag ZRT_FLAG_AUTH_FAIL).stamp 10 0x06 k 0x22 (Config.openValue 4 3 % 0x100) 0).zrtDone k xsAUTH []

/-- SEQ of the request in execution. -/
def State.zrtSeq (s : State) (k : Nat) : Nat := (s.ses k).cur.elim 0 ZrtReq.seq

/-- ZRT_RESET (R369, R513): ARG 0 a full reset, which is entered within 100 µs, after the response; ARG 1 recovery at the next boot. In
recovery no tag is needed. -/
def execZrtReset (k : Fin 8) (s : State) : Host.Outcome State Fault Refusal :=
  go (match s.zrtHeadOp k 7 with
    | none => s
    | some (x, s) =>
      if s.boot.phase ≠ .recovery ∧ !s.tagOk k (s.zrtSeq k) x then s.tagFail k
      else if x.arg = 0 then
        let s := s.zrtDone k xsOK []
        { s with boot := { s.boot with due := some (5, 0, 0x40 + k) } }
      else if x.arg = 1 then { s with str := { s.str with recovery := true } }.zrtDone k xsOK []
      else s.zrtDone k xsREFUSED [])

/-- ZRT_ACCEPT (R369, R510): ARG 0 accepts the master's trial, ARG 1 reverts it with cause REJECTED; outside trial it is refused. -/
def execZrtAccept (k : Fin 8) (s : State) : Host.Outcome State Fault Refusal :=
  go (match s.zrtHeadOp k 8 with
    | none => s
    | some (x, s) =>
      if !s.tagOk k (s.zrtSeq k) x then s.tagFail k
      else if s.f UPD_STAT_STATE ≠ 3 ∨ s.expansion then s.zrtDone k xsREFUSED []
      else if x.arg = 0 then s.updAccept.zrtDone k xsOK []
      else if x.arg = 1 then (s.zrtDone k xsOK []).updRevert 2
      else s.zrtDone k xsREFUSED [])

/-! Requests (R364, R366, R367) -/

/-- A frame dropped and counted. -/
def State.zrtReject (s : State) (k : Nat) : State := s.incSat (ZRT_SES_CNT_REJECTED k)

/-- The bytes of the frame that LENGTH names, if LENGTH and NOPS may hold (R364). -/
def zrtBody (b : List Byte) : Option (List Byte) :=
  let len := natBE ((b.drop 8).take 2)
  let nops := natBE ((b.drop 6).take 2)
  if len < 12 ∨ 1472 < len ∨ b.length < len ∨ nops = 0 ∨ 64 < nops then none else some ((b.take len).drop 12)

/-- An accepted request (R366): its SEQ is consumed; it is answered at once where its frame is wrong or its response would be too
long, else its operations execute. -/
def State.zrtAccepted (s : State) (k seq : Nat) (b : List Byte) : State :=
  let s := ((s.setF (ZRT_SES_STAT_NEXT_SEQ k) ((seq + 1) % 0x10000)).setF (ZRT_SES_STAT_OPEN k) 1).incMod (ZRT_SES_CNT_REQUESTS k)
  match (zrtBody b).bind (parseOps (natBE ((b.drop 6).take 2))) with
  | none => s.zrtRespond k seq 0x0C []
  | some ops =>
    if 1472 < 12 + (ops.map respLen).sum then s.zrtRespond k seq 0x0B []
    else
      let s := s.setSes k { s.ses k with parts := [], cur := some { seq := seq, stop := bitOf (sliceLE b 1 1) 4, todo := ops } }
      (s.ccBeat (0x40 + k)).zrtAdvance k ops.length

/-- The checks of R366, in order. -/
def State.zrtRequest (s : State) (k : Nat) (b : List Byte) : State :=
  let seq := natBE ((b.drop 4).take 2)
  let next := s.f (ZRT_SES_STAT_NEXT_SEQ k)
  let isOpen := s.on (ZRT_SES_STAT_OPEN k)
  if natBE ((b.drop 2).take 2) ≠ s.f ZRT_EPOCH_EPOCH then
    ((s.zrtFlag ZRT_FLAG_STALE_EPOCH).setF (ZRT_SES_STAT_LAST_STATUS k) 0x0A).zrtAnswer k seq 0x0A []
  else if isOpen ∧ (seq + 1) % 0x10000 = next ∧ (s.ses k).cache.isSome then
    match (s.ses k).cache with
    | some c => ((s.incSat (ZRT_SES_CNT_REPLAYS k)).setF (ZRT_SES_STAT_LAST_STATUS k) (lastStatus c.2.1 c.2.2)).zrtAnswer k c.1 c.2.1 c.2.2
    | none => s
  else if bitOf (sliceLE b 1 1) 3 ∨ (isOpen ∧ seq = next) then s.zrtAccepted k seq b
  else ((s.zrtFlag ZRT_FLAG_BAD_SEQ).setF (ZRT_SES_STAT_LAST_STATUS k) 0x09).zrtAnswer k seq 0x09 []

/-- The frame is one that the session may send (R363, R364): VER 1, TYPE 0 or 3, EN, over the session's transport; in recovery session 0
alone (R513). -/
def State.zrtMay (s : State) (k : Nat) (f : EthFrame) (b : List Byte) : Bool :=
  12 ≤ b.length && (sliceLE b 0 1 = 0x10 || sliceLE b 0 1 = 0x13) &&
  (if s.boot.phase = .recovery then decide (k = 0)
   else s.on (ZRT_SES_CFG_EN k) && (decide (f.etype ≠ 0x88B5) == s.on (ZRT_SES_CFG_UDP k)))

/-- The oldest frame that waits for the ZRT unit: its uplink, the frame, its ZRT bytes, and the state without it. -/
def State.zrtNext (s : State) : Option (Nat × EthFrame × List Byte × State) :=
  if !s.clocked 10 then none else
  (s.eth.inq.filterMap (fun x => (s.zrtBytes x.1 x.2).map (fun b =>
    (x.1, x.2, b, { s with eth := { s.eth with inq := s.eth.inq.erase x } })))).head?

/-- ZRT_REQUEST (R364, R366, R367): a request that arrives while one of its session executes is dropped, with AHEAD. -/
def execZrtRequest (s : State) : Host.Outcome State Fault Refusal :=
  go (match s.zrtNext with
    | none => s
    | some (p, f, b, t) =>
      let k := sliceLE b 1 1 % 8
      if sliceLE b 0 1 % 16 = 3 ∧ t.zrtMay k f b then s
      else if !t.zrtMay k f b then t.zrtReject k
      else if (t.ses k).cur.isSome then (t.zrtFlag ZRT_FLAG_AHEAD).zrtReject k
      else
        let udp : Bool := f.etype ≠ 0x88B5
        (t.setSes k { t.ses k with port := p, udp := udp, mac := f.src.toNat,
                                   ip := if udp then natBE ((f.data.drop 12).take 4) else 0 }).zrtRequest k b)

/-- The frames up to the one that a NOTIFY_ACK names are acknowledged (R371). -/
def ackUpTo (seq : Nat) (l : List (Nat × List Byte)) : List (Nat × List Byte) :=
  if l.any (fun e => e.1 = seq) then (l.dropWhile (fun e => e.1 ≠ seq)).drop 1 else l

/-- ZRT_NOTIFY_ACK (R371): frames are acknowledged cumulatively, and a frame that waited for it is sent. -/
def execZrtNotifyAck (s : State) : Host.Outcome State Fault Refusal :=
  go (match s.zrtNext with
    | none => s
    | some (_, f, b, t) =>
      let k := sliceLE b 1 1 % 8
      if sliceLE b 0 1 % 16 ≠ 3 ∨ !t.zrtMay k f b then s
      else
        let t := t.setSes k { t.ses k with unacked := ackUpTo (natBE ((b.drop 4).take 2)) (t.ses k).unacked }
        if t.noteDue k then t.noteSend k else t)

end Sys2Proof.Machine
end

