-- ==== Sys2Proof/Machine/Trunk.lean ====
section
/-! DEFINITION. The Trunk link (R386 to R398, R409): training, sequenced frames, REQ and CPL frames, gateway frames, the time that the
master gives, link loss and wake. -/

namespace Sys2Proof.Machine

/-- A record of TRK. -/
def State.stampTrk (s : State) (event data : Nat) : State := s.stamp 15 0x01 0x24 0x24 event data

/-- A stamped TRK event with its cue to the TRK engine. -/
def State.trkEvent (s : State) (code data : Nat) : State := (s.stampTrk code data).unitCue s.scr.trkEngine 0x24 code 0 data

/-- A raising of a flag of TRK_FLAG. -/
def State.trkFlag (s : State) (r : RF) : State := s.raise r TRK_FLAG_CNT_COUNT

/-! Training (R391) -/

/-- The Trunk island runs (R75, R93). -/
def State.trkRuns (s : State) : Bool := s.clocked 15

/-- TRUNK_TRAIN_ATTEMPT (R391): by a master whose link is not up and whose transmitter runs (R59, R107). -/
def execTrunkTrainAttempt (s : State) : Host.Outcome State Fault Refusal :=
  go (if s.expansion ∨ s.f TRK_STAT_LINK = 2 ∨ s.boot.xtalBad ∨ s.boot.phase = .reset ∨ !s.trkRuns then s
    else { s.setF TRK_STAT_LINK 1 with trk := { s.trk with attempt := true } })

/-- How often an index appears. -/
def countOf (l : List Nat) (n : Nat) : Nat := (l.filter (fun x => x = n)).length

/-- DISCOVER returns to the master: the indices in ring order. -/
def State.trkTrained (s : State) (l : List Nat) : State :=
  let s := { s with trk := { s.trk with attempt := false } }
  if [1, 2, 3].any (fun n => 2 ≤ countOf l n) then
    (((s.setF TRK_STAT_LINK 0).setF TRK_STAT_TRAINED 0).trkFlag TRK_FLAG_DUP_INDEX).trkEvent 0x03 0
  else
    let mask := ([1, 2, 3].filter (fun n => countOf l n = 1)).foldl (fun m n => m + 2 ^ (n - 1)) 0
    let order := (l.take 3).getD 0 0 + (l.take 3).getD 1 0 * 4 + (l.take 3).getD 2 0 * 16
    let s := ((s.setF TRK_STAT_LINK 2).setF TRK_STAT_TRAINED mask).setF TRK_STAT_ORDER order
    let s := if s.f TRK_CFG_EXPECT &&& (7 - mask) = 0 then s else s.trkFlag TRK_FLAG_MISSING
    s.trkEvent 0x02 0

/-- TRUNK_DISCOVER (R391): the frame's indices in ring order. An expansion with a free place appends its own and forwards the frame, and
the records it holds go to the master (R396). -/
def execTrunkDiscover (l : List (Fin 4)) (crcOk : Bool) (s : State) : Host.Outcome State Fault Refusal :=
  go (if !crcOk ∨ 3 < l.length ∨ s.boot.xtalBad ∨ !s.trkRuns then s
  else if s.expansion then
    (if l.length = 3 then s
     else (List.range 8).foldl (fun s k => s.noteForward k) (s.setF TRK_STAT_LINK 2))
  else if s.trk.attempt then s.trkTrained (l.map Fin.val) else s)

/-- TRUNK_DISCOVER_TIMEOUT (R391). -/
def execTrunkDiscoverTimeout (s : State) : Host.Outcome State Fault Refusal :=
  go (if s.trk.attempt then { s.setF TRK_STAT_LINK 0 with trk := { s.trk with attempt := false } } else s)

/-! Link loss (R392) -/

/-- A transaction that the link has lost completes with LINK_LOST, reads returning 0. -/
def State.lostOne (s : State) (r : TrkReq) : State :=
  match r.what with
  | 0 => s.engDone r.orig r.op (zeros r.len)
  | 1 => (s.partDone r.orig r.addr xsLOST (if r.op = 0 then zeros r.len else [])).zrtFinish (r.orig - 0x40)
  | 2 => (s.partDone r.orig r.addr xsLOST (if r.op = 0 then zeros r.len else [])).portFinish r.orig
  | _ => s

/-- The master takes the link as lost (R392). Gateway frames for port 20 are those that it still keeps. -/
def State.linkLost (s : State) : State :=
  let outs := s.trk.outs
  let s := (s.trk.kept.filter (fun f => f.what = 0)).foldl (fun s _ => s.gwDrop GW_DROP_CNT_FORMAT) s
  let s := (s.setF TRK_STAT_LINK 0).setF TRK_STAT_TRAINED 0
  let s := { s with
    trk := { s.trk with attempt := false, kept := [], outs := [], got := [] }
    brg := { s.brg with
      posted := s.brg.posted.map (fun (r : TrkReq) => if isFar r.addr ∧ r.fail = 0 then { r with fail := xsLOST } else r)
      pf := s.brg.pf.filter (fun b => !isFar b.base) } }
  let s := ((s.trkFlag TRK_FLAG_LINK_LOST).incSat TRK_CNT_LOSSES).trkEvent 0x01 0
  outs.foldl (fun s o => s.lostOne o.2) s

/-- The master's entry into Deep sleep or Off, whose silence is no loss (R409). -/
def State.trkSilent (s : State) : Bool := 2 ≤ s.f PWR_STATE_PHASE && 3 ≤ s.f PWR_STATE_TARGET

/-- An expansion has lost symbol lock (R392): queued REQs are discarded and counted, its NOTIFY records wait, its slate runs in
holdover. -/
def State.expansionLost (s : State) : State :=
  let n := s.trk.reqs.length
  let s := (s.setF TRK_STAT_LINK 0).addSat TRK_CNT_DISCARDED n
  let s := if s.f TRK_STAT_SYNC = 1 then s.setF TRK_STAT_SYNC 2 else s
  { s with trk := { s.trk with reqs := [], outs := [], got := [], kept := [] } }

/-- TRUNK_LINK_LOST (R392): the receiver has lost symbol lock for 1 µs. -/
def execTrunkLinkLost (s : State) : Host.Outcome State Fault Refusal :=
  go (if s.f TRK_STAT_LINK ≠ 2 ∨ !s.trkRuns then s
    else if s.expansion then s.expansionLost
    else if s.trkSilent then s else s.linkLost)

/-- TRUNK_COMPLETION_TIMEOUT (R392): a non-posted transaction of the master has had no completion for 5 ms. -/
def execTrunkCompletionTimeout (tag : Byte) (s : State) : Host.Outcome State Fault Refusal :=
  go (if !s.expansion ∧ s.trkRuns ∧ s.trk.outs.any (fun o => o.1 = tag.toNat && o.2.what ≠ 3) then s.linkLost else s)

/-! Sequenced frames (R389) -/

/-- TRUNK_ACK (R389). -/
def execTrunkAck (seq : Byte) (s : State) : Host.Outcome State Fault Refusal :=
  go (if s.trkRuns then { s with trk := { s.trk with kept := s.trk.kept.filter (fun f => f.seq ≠ seq.toNat) } } else s)

/-- A kept frame is resent; one that the master has resent four times without ACK loses the link (R392). -/
def State.trkResend (s : State) (seq : Nat) : State :=
  match s.trk.kept.find? (fun f => f.seq = seq) with
  | none => s
  | some f =>
    if !s.expansion ∧ 4 ≤ f.resent then s.linkLost
    else
      let s := { s with trk := { s.trk with kept := s.trk.kept.map (fun (x : TrkFrame) =>
        if x.seq = seq then { x with resent := x.resent + 1 } else x) } }
      (s.trkFlag TRK_FLAG_RESEND).incSat TRK_CNT_RESENDS

/-- TRUNK_NAK (R389). -/
def execTrunkNak (seq : Byte) (s : State) : Host.Outcome State Fault Refusal :=
  go (if s.trkRuns then s.trkResend seq.toNat else s)

/-- TRUNK_RESEND_TIMEOUT (R389): 20 µs without ACK. -/
def execTrunkResendTimeout (seq : Byte) (s : State) : Host.Outcome State Fault Refusal :=
  go (if s.trkRuns then s.trkResend seq.toNat else s)

/-- A sequenced frame arrives: whether it is new, with its SEQ noted; a repeated SEQ is acknowledged and discarded. Half of the 256
numbers are remembered. -/
def State.trkNew (s : State) (src seq : Nat) : Bool × State :=
  let l := tget (fun _ => []) s.trk.seen src
  if l.contains seq then (false, s)
  else (true, { s with trk := { s.trk with seen := tset (fun _ => []) s.trk.seen src ((seq :: l).take 128) } })

/-! REQ frames (R389, R394 to R396) -/

/-- The initiator ID of a transaction that arrives (R26, R396). -/
def State.trkInit (s : State) (src : Nat) : Nat := if s.expansion then 0x50 else 0x50 + src

/-- A completion leaves: read data in CPL frames of at most 64 bytes (R388). -/
def State.trkReply (s : State) (src tag status : Nat) (data : List Byte) : State :=
  if data.length ≤ 64 then s.trkKeep src 2 tag status data
  else (linePieces 0 data.length).foldl (fun s p => s.trkKeep src 2 tag status ((data.drop p.1).take p.2)) s

/-- A refusal or a decode error of a transaction from the master is recorded and stamped (R395). -/
def State.farRefusal (s : State) (init orig addr status : Nat) : State :=
  if status ≠ xsREFUSED ∧ status ≠ xsDECODE then s
  else
    let s := (((s.setF TRK_RX_LAST_ORIG_INIT orig).setF TRK_RX_LAST_TRK_INIT init).setF TRK_RX_LAST_STATUS status).setF
      TRK_RX_LAST_VALID 1
    (s.setReg TRK_RX_LAST_ADDR (BitVec.ofNat 32 addr)).stampTrk 0x04 (orig + init * 0x100 + addr * 2 ^ 32)

/-- Execute the transactions of a REQ whole: the status of the first that failed, the bytes read. -/
def State.trkAccess (s : State) (init : Nat) (r : TrkReq) : SpineRes :=
  (linePieces r.addr r.len).foldl (fun (x : SpineRes) p =>
    let y := if r.op = 0 then x.st.spineRead init p.1 p.2 r.spec
      else x.st.spineWrite init p.1 ((r.data.drop (p.1 - r.addr)).take p.2)
    { status := if x.status = xsOK then y.status else x.status
      data := x.data ++ (if y.status = xsOK then y.data else if r.op = 0 then zeros p.2 else [])
      st := y.st })
    { status := xsOK, data := [], st := s }

/-- A REQ from the master is executed on an expansion. -/
def State.trkServe (s : State) (src tag : Nat) (r : TrkReq) : State :=
  let init := s.trkInit src
  let x := s.trkAccess init r
  (x.st.farRefusal init r.orig r.addr x.status).trkReply src tag x.status x.data

/-- The NOTIFY records of an expansion's write join the session's queue on the master (R396). -/
def State.trkNotes (s : State) (src : Nat) (r : TrkReq) : State :=
  (List.range (r.data.length / 16)).foldl (fun s i =>
    s.noteOffer (Config.openValue 5 r.addr % 8) src (cueOfBytes ((r.data.drop (16 * i)).take 16))) s

/-- A REQ that waits for the island of its target (R100). -/
def State.trkWaits (s : State) (r : TrkReq) : Bool :=
  (linePieces r.addr r.len).any (fun p => s.mustWait p.1 p.2 (r.op ≠ 0))

/-- A new REQ: on the master only the NOTIFY writes of an expansion (R396); on an expansion it is executed, or waits behind those that
wait, among them those at its port (R27). -/
def State.trkReq (s : State) (src tag : Nat) (r : TrkReq) : State :=
  if !s.expansion then
    (if r.op = 0 then s.trkReply src tag xsREFUSED (zeros r.len) else (s.trkNotes src r).trkReply src tag xsOK [])
  else if s.trk.reqs ≠ [] ∨ s.portHeld r.addr ∨ s.trkWaits r then { s with trk := { s.trk with reqs := s.trk.reqs ++ [(src, tag, r)] } }
  else s.trkServe src tag r

/-- The oldest queued REQ is executed once its target's island runs. -/
def State.trkNext (s : State) : State :=
  match s.trk.reqs with
  | [] => s
  | (src, tag, r) :: t => if s.trkWaits r then s else { s with trk := { s.trk with reqs := t } }.trkServe src tag r

/-- TRUNK_REQ (R389): a frame whose CRC fails is answered NAK and changes nothing. -/
def execTrunkReq (src : Fin 4) (seq tag : Byte) (crcOk : Bool) (q : TrunkReq) (s : State) : Host.Outcome State Fault Refusal :=
  go (if !crcOk ∨ s.f TRK_STAT_LINK ≠ 2 ∨ !s.trkRuns then s
  else
    let n := s.trkNew src seq.toNat
    if !n.1 then s
    else n.2.trkReq src tag.toNat { orig := q.orig.toNat, op := q.op.val, spec := q.spec, addr := q.addr.toNat,
                                    len := if q.op = 0 then q.len.toNat else q.data.length, data := q.data })

/-! CPL frames -/

/-- A record that an expansion sent has reached the master. -/
def State.noteArrived (s : State) (k : Nat) : State := s.setSes k { s.ses k with note := (s.ses k).note.drop 1 }

/-- A transaction of this module completes with the far side's status (R394, R400, R402 to R404). -/
def State.farDone (s : State) (tag : Nat) (r : TrkReq) (status : Nat) (data : List Byte) : State :=
  let data := if status = xsOK then data.take r.len else if r.op = 0 then zeros r.len else []
  match r.what with
  | 0 =>
    let s := s.engDone r.orig r.op data
    if status = xsDECODE then s.buserr (r.orig - 0x10) 1 0x2D (r.addr % 0x10000) r.addr else s
  | 1 => ((s.countSpecRefused status).partDone r.orig r.addr status data).zrtFinish (r.orig - 0x40)
  | 2 => (s.partDone r.orig r.addr status data).portFinish r.orig
  | 3 =>
    let mine : TrkReq → Bool := fun p => p.tag = tag && isFar p.addr && p.fail = 0
    let l := if status = xsOK then s.brg.posted.filter (fun p => !mine p)
      else s.brg.posted.map (fun p => if mine p then { p with fail := status } else p)
    { s with brg := { s.brg with posted := l } }
  | 4 =>
    let s := s.countSpecRefused status
    if status = xsOK then s.pfFill (b2n r.zrt) r.orig r.addr data else s
  | 5 => s.countSpecRefused (if r.spec then status else xsOK)
  | _ => s.noteArrived (r.orig - 0x40)

/-- TRUNK_CPL (R388, R389): it completes the transaction of its TAG; a read is complete with its last byte or with an error. -/
def execTrunkCpl (src : Fin 4) (seq tag status : Byte) (crcOk : Bool) (data : List Byte) (s : State) : Host.Outcome State Fault Refusal :=
  go (if !crcOk ∨ !s.trkRuns then s
  else
    let n := s.trkNew src seq.toNat
    if !n.1 then s
    else
      let s := n.2
      let t := tag.toNat
      match s.trk.outs.find? (fun o => o.1 = t) with
      | none => s
      | some o =>
        let got := tget (fun _ => []) s.trk.got t ++ data
        if o.2.op = 0 ∧ status = 0 ∧ got.length < o.2.len then
          { s with trk := { s.trk with got := tset (fun _ => []) s.trk.got t got } }
        else
          ({ s with trk := { s.trk with outs := s.trk.outs.erase o, got := tset (fun _ => []) s.trk.got t [] } }).farDone t o.2
            status.toNat got)

/-- POSTED_BUFFER_FREE (R404): the oldest write that waits for a free entry is held, and completes to its initiator. -/
def execPostedBufferFree (s : State) : Host.Outcome State Fault Refusal :=
  go (match s.brg.wait.find? (fun r => s.postedRoom r.zrt) with
    | none => s
    | some r =>
      let s := ({ s with brg := { s.brg with wait := s.brg.wait.erase r } }).postedEnter r
      if isSession r.orig then (s.partDone r.orig r.addr xsOK []).zrtFinish (r.orig - 0x40) else s)

/-! Gateway frames (R397) -/

/-- TRUNK_GW_FRAME (R388, R397): on an expansion the frame is looked up with PORT 20; on the master with the PORT at which it entered the
expansion. A GW_SHORT is sequenced; a GW_LONG carries the ID word of R351. -/
def execTrunkGwFrame (src : Fin 4) (seq : Byte) (crcOk : Bool) (q : TrunkGw) (s : State) : Host.Outcome State Fault Refusal :=
  go (if !crcOk ∨ s.f TRK_STAT_LINK ≠ 2 ∨ !s.trkRuns then s
  else
    let n := if q.long then (true, s) else s.trkNew src seq.toNat
    if !n.1 then s
    else
      let k := q.key.toNat
      let kind := k / 0x20 % 8
      let w := if q.long then q.idw.toNat else b2n (kind = 1 || kind = 5) * 2 ^ 29
      n.2.gwArrive { port := if s.expansion then 20 else k % 0x20, kind := kind, sub := k / 0x100 % 0x100, id := k / 0x10000,
                     ide := bitOf w 29, fdf := bitOf w 30, brs := bitOf w 31, data := q.data, stamp := (s.islandSlate 9).toNat })

/-! Time (R393) -/

/-- TRUNK_SYNC_FRAME (R393): the slate value of the next TK_SYNC edge. -/
def execTrunkSyncFrame (t : BitVec 64) (crcOk : Bool) (s : State) : Host.Outcome State Fault Refusal :=
  go (if s.expansion ∧ crcOk ∧ s.trkRuns then { s with trk := { s.trk with syncVal := some t.toNat } } else s)

/-- TK_SYNC_EDGE (R393): an expansion takes the announced value as its slate; the boundary passed last keeps its moment. -/
def execTkSyncEdge (s : State) : Host.Outcome State Fault Refusal :=
  go (if !s.expansion ∨ !s.trkRuns then s
  else
    match s.trk.syncVal with
    | none => s
    | some v =>
      let prev : Int := (s.frm.prev : Int) + v - s.now
      { s.setF TRK_STAT_SYNC 1 with slate := BitVec.ofNat 64 v, frm := { s.frm with prev := prev.toNat }
                                    trk := { s.trk with syncVal := none } })

/-- TRUNK_SYNC_LOST (R393): no edge for 100 µs; the record's EVENT number is not stated. -/
def execTrunkSyncLost (s : State) : Host.Outcome State Fault Refusal :=
  go (if s.expansion ∧ s.trkRuns then
      ((s.setF TRK_STAT_SYNC 2).trkFlag TRK_FLAG_SYNC_LOST).stampTrk (Config.openValue 4 1 % 0x100) 0
    else s)

/-- A boundary of the master passes to the dies, the frames converging on it by at most P / 8 (R288, R291, R393). -/
def State.trkBoundary (s : State) (b : Nat) : State :=
  let p : Int := s.framePeriod
  let n : Int := s.frm.prev + p
  let e := if p ≤ 0 then 0 else ((b : Int) - n + p / 2) % p - p / 2
  let s := { s with trk := { s.trk with boundary := b } }
  s.sendBoundary (n + clampI (-(p / 8)) (p / 8) e).toNat

/-- TRUNK_BOUNDARY (R389, R393). -/
def execTrunkBoundary (seq : Byte) (crcOk : Bool) (t : BitVec 64) (s : State) : Host.Outcome State Fault Refusal :=
  go (if !s.expansion ∨ !crcOk ∨ !s.trkRuns then s
  else
    let n := s.trkNew 0 seq.toNat
    if n.1 then n.2.trkBoundary t.toNat else s)

/-! Wake (R409) -/

/-- TRUNK_WAKE (R409): the burst, recognised in Sleep or Deep sleep; an expansion forwards it. -/
def execTrunkWake (s : State) : Host.Outcome State Fault Refusal :=
  go (if s.f PWR_STATE_STATE = 2 ∨ s.f PWR_STATE_STATE = 3 then
      (if s.expansion then s.trkWake else s).wakeSource 21
    else s)

end Sys2Proof.Machine
end

