-- ==== Sys2Proof/WellFormed.lean ====
section
/-! DEFINITION. Well-formed commands: operands that spell an event of the spec. Every bound that an operand's type does not carry is
checked here; a command without such an operand is well formed. -/

namespace Sys2Proof

/-- How many bytes a data length code spells (R294): 0 to 8, and above 8 in an FD frame 12 to 64. -/
def CanFrame.length (f : CanFrame) : Nat :=
  if f.dlc.toNat ≤ 8 then f.dlc.toNat
  else if !f.fdf then 8
  else [12, 16, 20, 24, 32, 48, 64].getD (f.dlc.toNat - 9) 64

/-- A CAN frame: a base identifier has 11 bits; no FD frame is a remote frame; the payload is as long as the code says, none in a
remote frame; the bit-rate switch is of FD frames only. -/
def CanFrame.wf (f : CanFrame) : Bool :=
  (f.ide || decide (f.id.toNat < 0x800)) && !(f.fdf && f.rtr) && (f.fdf || !f.brs) &&
  f.data.length == (if f.rtr then 0 else f.length)

/-- A transaction of 1 to 64 bytes, which crosses no 64-byte boundary once split (R8, R24). -/
def txBytes (n : Nat) : Bool := decide (1 ≤ n) && decide (n ≤ 64)

/-- The content of a REQ (R388): a read asks for 1 to 320 bytes and carries none, a write carries 1 to 64. -/
def TrunkReq.wf (q : TrunkReq) : Bool :=
  if q.op = 0 then decide (1 ≤ q.len.toNat) && decide (q.len.toNat ≤ 320) && q.data.isEmpty else txBytes q.data.length

/-- The content of a gateway frame (R388): a payload of up to 8 bytes in GW_SHORT, of up to 64 in GW_LONG. -/
def TrunkGw.wf (q : TrunkGw) : Bool := decide (q.data.length ≤ if q.long then 64 else 8)

/-- No element twice. -/
def noRepeat {A : Type} [DecidableEq A] : List A → Bool
  | [] => true
  | x :: t => !t.contains x && noRepeat t

/-- An initiator ID that the Spine issues (R25). -/
def issued (i : Nat) : Bool :=
  i = 0x01 || (0x08 ≤ i && i ≤ 0x0A) || (0x10 ≤ i && i ≤ 0x4A) || (0x50 ≤ i && i ≤ 0x53) || (0x60 ≤ i && i ≤ 0x64)

/-- The operands spell an event of the spec. -/
def Instr.wf (i : Instr) : Bool :=
  match i with
  | .registerWrite i _ b => issued i.toNat && txBytes b.length
  | .absentBlockWrite i _ b => issued i.toNat && txBytes b.length
  | .strongroomWriteDrop i _ b => issued i.toNat && txBytes b.length
  | .w1cFlagClear i _ _ _ => issued i.toNat
  | .speculativeReadRefused i _ n => issued i.toNat && txBytes n.toNat
  | .decodeError i _ _ n => issued i.toNat && txBytes n.toNat
  | .ledgerSeed _ reads _ => noRepeat (reads.map DieReading.link)
  | .ledgerStep reads => noRepeat (reads.map DieReading.link)
  | .captureEnd _ bins _ => decide (bins.length ≤ 32)
  | .boostEnergyCheck _ drawn => noRepeat (drawn.map Prod.fst)
  | .archiveDone bad => noRepeat bad
  | .canFrameReceived _ f => f.wf
  | .canBusWake _ _ f => f.wf
  | .nmMessageReceived _ f => f.wf
  | .linResponse _ _ data => decide (data.length ≤ 8)
  | .flowContextWrite _ _ off bytes => txBytes bytes.length && decide (off.val + bytes.length ≤ 64)
  | .gwShadowWrite _ stash off bytes =>
    txBytes bytes.length && decide (off.toNat % 64 + bytes.length ≤ 64) && (!stash || decide (off.toNat + bytes.length ≤ 0x400))
  | .trunkDiscover l _ => decide (l.length ≤ 3) && noRepeat l
  | .trunkGwFrame _ _ _ q => q.wf
  | .trunkReq _ _ _ _ q => q.wf
  | .trunkCpl _ _ _ _ _ data => decide (data.length ≤ 64)
  | .measPeriodicUpdate _ _ _ _ _ reads => noRepeat (reads.map Prod.fst)
  | .uhfFrame b => b.length == 14
  | .strRequest _ b => txBytes b.length
  | .storeRequest _ b => txBytes b.length
  | .mntWrite _ b => decide (1 ≤ b.length) && decide (b.length ≤ 256)
  | .mntRead _ n => decide (1 ≤ n.toNat) && decide (n.toNat ≤ 256)
  | .localHostAccess w _ b n => if w then !b.isEmpty else decide (1 ≤ n.toNat)
  | .debugPortAccess w _ b n => txBytes (if w then b.length else n.toNat)
  | _ => true

end Sys2Proof
end

