-- ==== Sys2Proof/Machine/Ports.lean ====
section
/-! DEFINITION. Transactions as the Spine grants them (R27, R28, R100, R265), the single accesses of the architecture's rules (R6, R11 to
R14, R29), and the transfers of the maintenance port, the local host port and the debug port (R400, R485, R514). -/

namespace Sys2Proof.Machine

/-! Grants (R27) -/

/-- The urgent class (R25). -/
def isUrgentInit (init : Nat) : Bool := isStr init || init = 0x60 || init = 0x61 || init = 0x64

/-- The first waiting transaction of each initiator: its others wait behind it (R28, R100). -/
def State.waitHeads (s : State) : List SpineTx :=
  s.waiting.foldl (fun l t => if l.any (fun x => x.init = t.init) then l else l ++ [t]) []

/-- The crew's Larder port sends transactions of URGENT level first (R265). -/
def levelOk (heads : List SpineTx) (t : SpineTx) : Bool :=
  !isEngine t.init || t.lvl || !heads.any (fun x => isEngine x.init && (x.init - 0x10) / 8 = (t.init - 0x10) / 8 && x.lvl)

/-- The transactions that a target port may grant: with the oldest queued REQ of the master (R27, R394). None of an initiator whose
posted write waits for the buffer (R28, R404). -/
def State.portWaiting (s : State) (port : Nat) : List SpineTx :=
  let heads := s.waitHeads
  heads.filter (fun t => portOf t.addr = port && !s.mustWait t.addr t.len (t.op ≠ 0) && levelOk heads t &&
    !s.brg.wait.any (fun r => r.orig = t.init)) ++
  (match s.trk.reqs with
    | (src, _, r) :: _ =>
      if portOf r.addr = port ∧ !s.trkWaits r then
        [{ init := s.trkInit src, op := r.op, spec := r.spec, addr := r.addr, len := r.len, data := r.data }] else []
    | [] => [])

/-- The next one round-robin: the first initiator after the one granted last, in the order of IDs. -/
def rrNext (last : Nat) (l : List SpineTx) : Option SpineTx :=
  l.foldl (fun (b : Option SpineTx) t =>
    match b with
    | none => some t
    | some x => if (t.init + 255 - last) % 256 < (x.init + 255 - last) % 256 then some t else b) none

/-- The transaction that a port grants: of 0x60, else urgent, else normal, and the class whose turn it takes; one of 0x60 takes no
turn. -/
def State.grantNext (s : State) (port : Nat) : Option (SpineTx × Option Nat) :=
  let l := s.portWaiting port
  match l.find? (fun t => t.init = 0x60) with
  | some t => some (t, none)
  | none =>
    match rrNext (tget (fun _ => 0) s.rr (2 * port)) (l.filter (fun t => isUrgentInit t.init)) with
    | some t => some (t, some (2 * port))
    | none => (rrNext (tget (fun _ => 0) s.rr (2 * port + 1)) (l.filter (fun t => !isUrgentInit t.init))).map
        (fun t => (t, some (2 * port + 1)))

/-- A grant takes the turn of its class. -/
def State.takeTurn (s : State) (c : Option Nat) (init : Nat) : State :=
  match c with
  | some c => { s with rr := tset (fun _ => 0) s.rr c init }
  | none => s

/-- What an initiator is answered. -/
def State.answer (s : State) (init status : Nat) (data : List Byte) : State :=
  { s with ports := tset (fun _ => {}) s.ports init { status := status, data := data } }

/-- A waiting transaction runs and completes to its initiator. -/
def State.txRun (s : State) (t : SpineTx) : State :=
  let s := { s with waiting := s.waiting.erase t }
  if isEngine t.init ∧ !t.spec then s.engRun t
  else if (s.partsOf t.init).any (fun p => p.addr = t.addr && !p.done) then
    let s := if t.op = 0 then s.busReadGo t.init t.addr t.len t.spec else s.busWriteGo t.init t.addr t.data
    if isSession t.init then s.zrtFinish (t.init - 0x40) else s.portFinish t.init
  else
    let r := if t.op = 0 then s.spineRead t.init t.addr t.len t.spec else s.spineWrite t.init t.addr t.data
    r.st.answer t.init r.status r.data

/-- SPINE_TRANSACTION_GRANT (R27): a target port grants the next transaction, or a REQ of the master that waits for it. -/
def execSpineTransactionGrant (port : Fin 31) (s : State) : Host.Outcome State Fault Refusal :=
  go (match s.grantNext port with
    | some (t, c) =>
      let s := s.takeTurn c t.init
      if s.waiting.contains t then s.txRun t else s.trkNext
    | none => s)

/-- A REQ of the master that waits for an island proceeds. -/
def State.trkResume (s : State) (isl : Nat) : State :=
  match s.trk.reqs with
  | (_, _, r) :: _ => if islandOf r.addr = isl then s.trkNext else s
  | [] => s

/-- ISLAND_ACCESS_RESUME (R100): the oldest access that waited for the island proceeds, its clock running again. -/
def execIslandAccessResume (isl : Fin 30) (s : State) : Host.Outcome State Fault Refusal :=
  go (match s.waitHeads.find? (fun t => islandOf t.addr = isl.val && !s.mustWait t.addr t.len (t.op ≠ 0) &&
        !s.brg.wait.any (fun r => r.orig = t.init)) with
    | some t => s.txRun t
    | none => s.trkResume isl)

/-! Single accesses -/

/-- A transaction covers 1 to 64 bytes of this module (R24, R516). -/
def txLen (n : Nat) : Bool := 1 ≤ n && n ≤ 64

/-- A write transaction of an initiator: it waits where it must (R27, R28, R100), else it completes. -/
def State.rowWrite (s : State) (init a : Nat) (bytes : List Byte) : State :=
  if s.behind init a bytes.length true then
    { s with waiting := s.waiting ++ [{ init := init, op := 1, addr := a, len := bytes.length, data := bytes }] }
  else
    let r := s.spineWrite init a bytes
    r.st.answer init r.status r.data

/-- A read transaction of an initiator. -/
def State.rowRead (s : State) (init a n : Nat) (spec : Bool) : State :=
  if s.behind init a n false then
    { s with waiting := s.waiting ++ [{ init := init, op := 0, spec := spec, addr := a, len := n }] }
  else
    let r := s.spineRead init a n spec
    r.st.answer init r.status r.data

/-- REGISTER_WRITE (R11, R17, R517): a write by an initiator to this module. -/
def execRegisterWrite (init : Byte) (a : Word) (bytes : List Byte) (s : State) : Host.Outcome State Fault Refusal :=
  if !(issued init.toNat && txLen bytes.length) then .refused (.illFormed "REGISTER_WRITE")
  else go (if s.farUsable a.toNat bytes.length then s else s.rowWrite init.toNat a.toNat bytes)

/-- The W1C bits of a register. -/
def w1cBits (a : Nat) : Word :=
  match regDefAt a with
  | some d => BitVec.ofNat 32 d.w1c
  | none => 0

/-- W1C_FLAG_CLEAR (R14): the word written to a register with flags; a flag that hardware sets in the same cycle stays set. -/
def execW1cFlagClear (init : Byte) (a : Word) (w same : Word) (s : State) : Host.Outcome State Fault Refusal :=
  let m := w1cBits a.toNat
  if !issued init.toNat then .refused (.illFormed "W1C_FLAG_CLEAR")
  else go (if m = 0 then s
    else s.rowWrite init.toNat a.toNat (bytesLE 4 ((w &&& m &&& ~~~same) ||| (s.reg a.toNat &&& ~~~m)).toNat))

/-- ABSENT_BLOCK_WRITE (R6). -/
def execAbsentBlockWrite (init : Byte) (a : Word) (bytes : List Byte) (s : State) : Host.Outcome State Fault Refusal :=
  if !(issued init.toNat && txLen bytes.length) then .refused (.illFormed "ABSENT_BLOCK_WRITE")
  else go (if (s.absentIn a.toNat bytes.length).isSome ∧ !s.decodeBad a.toNat bytes.length then s.rowWrite init.toNat a.toNat bytes else s)

/-- STRONGROOM_WRITE_DROP (R12). -/
def execStrongroomWriteDrop (init : Byte) (a : Word) (bytes : List Byte) (s : State) : Host.Outcome State Fault Refusal :=
  if !(issued init.toNat && txLen bytes.length) then .refused (.illFormed "STRONGROOM_WRITE_DROP")
  else go (if !isStr init.toNat ∧ (List.range bytes.length).any (fun k => swByte (a.toNat + k)) then
    s.rowWrite init.toNat a.toNat bytes else s)

/-- SPECULATIVE_READ_REFUSED (R13). -/
def execSpeculativeReadRefused (init : Byte) (a : Word) (n : BitVec 7) (s : State) : Host.Outcome State Fault Refusal :=
  if !(issued init.toNat && txLen n.toNat) then .refused (.illFormed "SPECULATIVE_READ_REFUSED")
  else go (if (List.range n.toNat).any (fun k => sensitive (a.toNat + k)) then s.rowRead init.toNat a.toNat n.toNat true else s)

/-- DECODE_ERROR (R29, R516). -/
def execDecodeError (init : Byte) (write : Bool) (a : Word) (n : BitVec 7) (s : State) : Host.Outcome State Fault Refusal :=
  if !(issued init.toNat && txLen n.toNat) then .refused (.illFormed "DECODE_ERROR")
  else go (if s.decodeBad a.toNat n.toNat ∧ !s.farUsable a.toNat n.toNat then
    (if write then s.rowWrite init.toNat a.toNat (zeros n.toNat) else s.rowRead init.toNat a.toNat n.toNat false) else s)

/-! Transfers of the external ports -/

/-- The port's last transfer still runs. -/
def State.portBusy (s : State) (init : Nat) : Bool := s.partsOf init ≠ []

/-- A write transfer in transactions that cross no 64-byte-aligned address (R516). -/
def State.portWrite (s : State) (init a : Nat) (bytes : List Byte) : State :=
  if s.portBusy init then s
  else ((linePieces a bytes.length).foldl (fun s p => s.busWrite init p.1 ((bytes.drop (p.1 - a)).take p.2)) s).portFinish init

/-- A read transfer. -/
def State.portRead (s : State) (init a n : Nat) : State :=
  if s.portBusy init then s
  else
    match (if isFar a then s.pfFind 0 init a n else none) with
    | some b => ((s.countRead false).pfTouch b.1).answer init xsOK b.2
    | none =>
      let t := (linePieces a n).foldl (fun s p => s.busRead init p.1 p.2 false) s
      (if s.farUsable a n then t.prefetch 0 init a n else t).portFinish init

/-- The maintenance port acknowledges: neither in reset (R59) nor while the logic is stopped, where it acts on the address alone (R84). -/
def State.mntServed (s : State) : Bool := s.boot.phase ≠ .reset && s.f PWR_STATE_STATE < 2 && !s.pwr.sclHeld

/-- MNT_WRITE (R514): up to 256 data bytes. -/
def execMntWrite (a : Word) (bytes : List Byte) (s : State) : Host.Outcome State Fault Refusal :=
  if 256 < bytes.length then .refused (.illFormed "MNT_WRITE") else go (if s.mntServed then s.portWrite 0x49 a.toNat bytes else s)

/-- MNT_READ (R514): up to 256 data bytes. -/
def execMntRead (a : Word) (n : BitVec 9) (s : State) : Host.Outcome State Fault Refusal :=
  if 256 < n.toNat then .refused (.illFormed "MNT_READ") else go (if s.mntServed then s.portRead 0x49 a.toNat n.toNat else s)

/-- LOCAL_HOST_ACCESS (R400, R516): LH_SDO is silent in reset (R59) and in Deep sleep and Off (R90). -/
def execLocalHostAccess (write : Bool) (a : Word) (bytes : List Byte) (n : BitVec 16) (s : State) : Host.Outcome State Fault Refusal :=
  go (if s.boot.phase = .reset ∨ 3 ≤ s.f PWR_STATE_STATE then s
    else if write then s.portWrite 0x48 a.toNat bytes else s.portRead 0x48 a.toNat n.toNat)

/-- DEBUG_PORT_ACCESS (R485): one transaction, while the port is open. -/
def execDebugPortAccess (write : Bool) (a : Word) (bytes : List Byte) (n : BitVec 7) (s : State) : Host.Outcome State Fault Refusal :=
  if !txLen (if write then bytes.length else n.toNat) then .refused (.illFormed "DEBUG_PORT_ACCESS")
  else go (if !s.on STR_LIFECYCLE_DEBUG_OPEN ∨ s.portBusy 0x4A then s
    else if write then (s.busWrite 0x4A a.toNat bytes).portFinish 0x4A
    else (s.busRead 0x4A a.toNat n.toNat false).portFinish 0x4A)

end Sys2Proof.Machine
end

