-- ==== Sys2Proof/Machine/Dispatch.lean ====
section
/-! DEFINITION. The meaning of every command: one arm per constructor of Instr, each one call of the meaning of its own. -/

namespace Sys2Proof.Machine

/-- The effect of a command on everything but the queue. -/
def exec (i : Instr) (s : State) : Host.Outcome State Fault Refusal :=
  match i with
  | .registerWrite init a bytes => Sys2Proof.Machine.execRegisterWrite init a bytes s
  | .w1cFlagClear init a w same => Sys2Proof.Machine.execW1cFlagClear init a w same s
  | .absentBlockWrite init a bytes => Sys2Proof.Machine.execAbsentBlockWrite init a bytes s
  | .strongroomWriteDrop init a bytes => Sys2Proof.Machine.execStrongroomWriteDrop init a bytes s
  | .speculativeReadRefused init a n => Sys2Proof.Machine.execSpeculativeReadRefused init a n s
  | .decodeError init write a n => Sys2Proof.Machine.execDecodeError init write a n s
  | .spineTransactionGrant port => Sys2Proof.Machine.execSpineTransactionGrant port s
  | .islandAccessResume isl => Sys2Proof.Machine.execIslandAccessResume isl s
  | .powerOnResetRelease role recovN xtalOk cabinetOk vbat => Sys2Proof.Machine.execPowerOnResetRelease role recovN xtalOk cabinetOk vbat s
  | .resetPinAssert => Sys2Proof.Machine.execResetPinAssert s
  | .resetPinRelease => Sys2Proof.Machine.execResetPinRelease s
  | .fullResetEntry => Sys2Proof.Machine.execFullResetEntry s
  | .fullResetRelease xtalOk cabinetOk vbat => Sys2Proof.Machine.execFullResetRelease xtalOk cabinetOk vbat s
  | .strongroomSelfTest pass => Sys2Proof.Machine.execStrongroomSelfTest pass s
  | .scriptLoad vbat => Sys2Proof.Machine.execScriptLoad vbat s
  | .lazySectionLoad => Sys2Proof.Machine.execLazySectionLoad s
  | .dieAdoption n => Sys2Proof.Machine.execDieAdoption n s
  | .crewRelease c => Sys2Proof.Machine.execCrewRelease c s
  | .ledgerSeed kind reads gapUs => Sys2Proof.Machine.execLedgerSeed kind reads gapUs s
  | .feedGroupBlock g => Sys2Proof.Machine.execFeedGroupBlock g s
  | .feedMeasure va ia vb ib conduct => Sys2Proof.Machine.execFeedMeasure va ia vb ib conduct s
  | .bandChange vbat => Sys2Proof.Machine.execBandChange vbat s
  | .brownoutReset vbat => Sys2Proof.Machine.execBrownoutReset vbat s
  | .dieUndervoltage x => Sys2Proof.Machine.execDieUndervoltage x s
  | .pwrReqRun init => Sys2Proof.Machine.execPwrReqRun init s
  | .pwrReqEntry init t => Sys2Proof.Machine.execPwrReqEntry init t s
  | .pwrReqReserved init => Sys2Proof.Machine.execPwrReqReserved init s
  | .pwrVote init consent reason => Sys2Proof.Machine.execPwrVote init consent reason s
  | .consentTimeout refused => Sys2Proof.Machine.execConsentTimeout refused s
  | .entryStepsComplete sealed => Sys2Proof.Machine.execEntryStepsComplete sealed s
  | .sealConfirm => Sys2Proof.Machine.execSealConfirm s
  | .wakeEvent bit => Sys2Proof.Machine.execWakeEvent bit s
  | .sleepExit => Sys2Proof.Machine.execSleepExit s
  | .deepSleepExit xtalOk cabinetOk => Sys2Proof.Machine.execDeepSleepExit xtalOk cabinetOk s
  | .cellarWakeTimer => Sys2Proof.Machine.execCellarWakeTimer s
  | .inputPoll levels => Sys2Proof.Machine.execInputPoll levels s
  | .i2cAddressMatch addr => Sys2Proof.Machine.execI2cAddressMatch addr s
  | .refusalTableClear => Sys2Proof.Machine.execRefusalTableClear s
  | .xingResyncReq frm dst pending => Sys2Proof.Machine.execXingResyncReq frm dst pending s
  | .xingResyncAck frm dst => Sys2Proof.Machine.execXingResyncAck frm dst s
  | .xingResyncOpen frm dst => Sys2Proof.Machine.execXingResyncOpen frm dst s
  | .spineHang isl => Sys2Proof.Machine.execSpineHang isl s
  | .crewHeartbeatMiss c => Sys2Proof.Machine.execCrewHeartbeatMiss c s
  | .dloUnlock isl absent => Sys2Proof.Machine.execDloUnlock isl absent s
  | .xtalFail => Sys2Proof.Machine.execXtalFail s
  | .hangRecordClear => Sys2Proof.Machine.execHangRecordClear s
  | .chCmdOff c init tag => Sys2Proof.Machine.execChCmdOff c init tag s
  | .chCmdOn c init tag => Sys2Proof.Machine.execChCmdOn c init tag s
  | .chCmdPwm c init tag => Sys2Proof.Machine.execChCmdPwm c init tag s
  | .chCmdRestart c init mode tag => Sys2Proof.Machine.execChCmdRestart c init mode tag s
  | .chPwmWrite c init duty pdiv phase => Sys2Proof.Machine.execChPwmWrite c init duty pdiv phase s
  | .pwmOnEdge c => Sys2Proof.Machine.execPwmOnEdge c s
  | .pwmOffEdge c => Sys2Proof.Machine.execPwmOffEdge c s
  | .gateClose n => Sys2Proof.Machine.execGateClose n s
  | .gateOpen n => Sys2Proof.Machine.execGateOpen n s
  | .profileCommit c init ctl => Sys2Proof.Machine.execProfileCommit c init ctl s
  | .profileTransferDone c => Sys2Proof.Machine.execProfileTransferDone c s
  | .profilePoint c => Sys2Proof.Machine.execProfilePoint c s
  | .profileEnd c => Sys2Proof.Machine.execProfileEnd c s
  | .captureEnd c bins valid => Sys2Proof.Machine.execCaptureEnd c bins valid s
  | .envelopeLearn c init cfg => Sys2Proof.Machine.execEnvelopeLearn c init cfg s
  | .envelopeWrite c init n w => Sys2Proof.Machine.execEnvelopeWrite c init n w s
  | .slotTake unit index slot => Sys2Proof.Machine.execSlotTake unit index slot s
  | .currentWindow c mean onUs => Sys2Proof.Machine.execCurrentWindow c mean onUs s
  | .fastTrip c => Sys2Proof.Machine.execFastTrip c s
  | .dieOvertemp n => Sys2Proof.Machine.execDieOvertemp n s
  | .dieOvertempClear n => Sys2Proof.Machine.execDieOvertempClear n s
  | .budgetInterval c bin mean => Sys2Proof.Machine.execBudgetInterval c bin mean s
  | .fdmExpire n => Sys2Proof.Machine.execFdmExpire n s
  | .shortBatDetect c => Sys2Proof.Machine.execShortBatDetect c s
  | .retryDelayExpire c => Sys2Proof.Machine.execRetryDelayExpire c s
  | .usedReset c => Sys2Proof.Machine.execUsedReset c s
  | .ledgerStep reads => Sys2Proof.Machine.execLedgerStep reads s
  | .limitTExpire => Sys2Proof.Machine.execLimitTExpire s
  | .pauseMaxExpire c => Sys2Proof.Machine.execPauseMaxExpire c s
  | .staleThreshold n => Sys2Proof.Machine.execStaleThreshold n s
  | .bridgeDirChange c init w => Sys2Proof.Machine.execBridgeDirChange c init w s
  | .reversalWaitExpire c => Sys2Proof.Machine.execReversalWaitExpire c s
  | .brakeEnd c => Sys2Proof.Machine.execBrakeEnd c s
  | .ceilingChop c => Sys2Proof.Machine.execCeilingChop c s
  | .overloadTrip c => Sys2Proof.Machine.execOverloadTrip c s
  | .streamSample c v => Sys2Proof.Machine.execStreamSample c v s
  | .stallDetect c => Sys2Proof.Machine.execStallDetect c s
  | .boostOvervoltage v => Sys2Proof.Machine.execBoostOvervoltage v s
  | .boostOvRelease v => Sys2Proof.Machine.execBoostOvRelease v s
  | .boostUndervoltage v => Sys2Proof.Machine.execBoostUndervoltage v s
  | .boostFail => Sys2Proof.Machine.execBoostFail s
  | .boostEnergyCheck v drawn => Sys2Proof.Machine.execBoostEnergyCheck v drawn s
  | .overlapTimeout j => Sys2Proof.Machine.execOverlapTimeout j s
  | .solenoidPeakReached j => Sys2Proof.Machine.execSolenoidPeakReached j s
  | .riseTimeout j amp => Sys2Proof.Machine.execRiseTimeout j amp s
  | .peakTimeEnd j => Sys2Proof.Machine.execPeakTimeEnd j s
  | .quenchEnd j => Sys2Proof.Machine.execQuenchEnd j s
  | .dutyTruncation j => Sys2Proof.Machine.execDutyTruncation j s
  | .chopShort j => Sys2Proof.Machine.execChopShort j s
  | .shGroupTrip k => Sys2Proof.Machine.execShGroupTrip k s
  | .frameCrcDiscard n x => Sys2Proof.Machine.execFrameCrcDiscard n x s
  | .dieKeepalive n epoch seq => Sys2Proof.Machine.execDieKeepalive n epoch seq s
  | .dieKeepaliveLoss n => Sys2Proof.Machine.execDieKeepaliveLoss n s
  | .dieCmdFrame n => Sys2Proof.Machine.execDieCmdFrame n s
  | .diePwmFrame n => Sys2Proof.Machine.execDiePwmFrame n s
  | .dieTableFrame n => Sys2Proof.Machine.execDieTableFrame n s
  | .dieParamFrame n => Sys2Proof.Machine.execDieParamFrame n s
  | .dieHold n => Sys2Proof.Machine.execDieHold n s
  | .diePark n => Sys2Proof.Machine.execDiePark n s
  | .dieAdopt n => Sys2Proof.Machine.execDieAdopt n s
  | .dieFsApply n => Sys2Proof.Machine.execDieFsApply n s
  | .dieFsRelease n => Sys2Proof.Machine.execDieFsRelease n s
  | .dieLimpArm n => Sys2Proof.Machine.execDieLimpArm n s
  | .dieHoldWin n => Sys2Proof.Machine.execDieHoldWin n s
  | .dieStatusFrame n => Sys2Proof.Machine.execDieStatusFrame n s
  | .dieReportFrame c k vds => Sys2Proof.Machine.execDieReportFrame c k vds s
  | .dieEventFrame n what v => Sys2Proof.Machine.execDieEventFrame n what v s
  | .holdWindowExpire n => Sys2Proof.Machine.execHoldWindowExpire n s
  | .failsafeNextInrush n => Sys2Proof.Machine.execFailsafeNextInrush n s
  | .kaGoRearm => Sys2Proof.Machine.execKaGoRearm s
  | .kaGoLapse => Sys2Proof.Machine.execKaGoLapse s
  | .kaLapseReset => Sys2Proof.Machine.execKaLapseReset s
  | .lockstepMismatch => Sys2Proof.Machine.execLockstepMismatch s
  | .dieLinkLost n => Sys2Proof.Machine.execDieLinkLost n s
  | .linkRetrain n => Sys2Proof.Machine.execLinkRetrain n s
  | .kaEnWrite init w => Sys2Proof.Machine.execKaEnWrite init w s
  | .fsApplyWrite init w => Sys2Proof.Machine.execFsApplyWrite init w s
  | .fsReleaseWrite init w => Sys2Proof.Machine.execFsReleaseWrite init w s
  | .limpArmWrite init w => Sys2Proof.Machine.execLimpArmWrite init w s
  | .holdWinWrite init n w => Sys2Proof.Machine.execHoldWinWrite init n w s
  | .pinCtlWrite init w => Sys2Proof.Machine.execPinCtlWrite init w s
  | .fsTableWrite init c w => Sys2Proof.Machine.execFsTableWrite init c w s
  | .limpInputChange n levels => Sys2Proof.Machine.execLimpInputChange n levels s
  | .fsReleaseEval => Sys2Proof.Machine.execFsReleaseEval s
  | .illegalInstruction g => Sys2Proof.Machine.execIllegalInstruction g s
  | .nop g => Sys2Proof.Machine.execNop g s
  | .retc g => Sys2Proof.Machine.execRetc g s
  | .ret g => Sys2Proof.Machine.execRet g s
  | .sync g => Sys2Proof.Machine.execSync g s
  | .syncComplete g w => Sys2Proof.Machine.execSyncComplete g w s
  | .jmpPtr g p => Sys2Proof.Machine.execJmpPtr g p s
  | .callPtr g p => Sys2Proof.Machine.execCallPtr g p s
  | .rpt g n => Sys2Proof.Machine.execRpt g n s
  | .rptiReg g r => Sys2Proof.Machine.execRptiReg g r s
  | .rptiImm g n => Sys2Proof.Machine.execRptiImm g n s
  | .ldq g q p w => Sys2Proof.Machine.execLdq g q p w s
  | .stq g q p w => Sys2Proof.Machine.execStq g q p w s
  | .jmpAbs g a => Sys2Proof.Machine.execJmpAbs g a s
  | .callAbs g a => Sys2Proof.Machine.execCallAbs g a s
  | .lda g d a w => Sys2Proof.Machine.execLda g d a w s
  | .sta g r a w => Sys2Proof.Machine.execSta g r a w s
  | .ldp g p a => Sys2Proof.Machine.execLdp g p a s
  | .addpi g p a => Sys2Proof.Machine.execAddpi g p a s
  | .cpy g k p q w => Sys2Proof.Machine.execCpy g k p q w s
  | .mov g d r => Sys2Proof.Machine.execMov g d r s
  | .add g d r => Sys2Proof.Machine.execAdd g d r s
  | .adc g d r => Sys2Proof.Machine.execAdc g d r s
  | .sub g d r => Sys2Proof.Machine.execSub g d r s
  | .sbc g d r => Sys2Proof.Machine.execSbc g d r s
  | .and g d r => Sys2Proof.Machine.execAnd g d r s
  | .or g d r => Sys2Proof.Machine.execOr g d r s
  | .xor g d r => Sys2Proof.Machine.execXor g d r s
  | .cmp g d r => Sys2Proof.Machine.execCmp g d r s
  | .tst g d r => Sys2Proof.Machine.execTst g d r s
  | .inc g d => Sys2Proof.Machine.execInc g d s
  | .dec g d => Sys2Proof.Machine.execDec g d s
  | .neg g d => Sys2Proof.Machine.execNeg g d s
  | .not g d => Sys2Proof.Machine.execNot g d s
  | .shl g d => Sys2Proof.Machine.execShl g d s
  | .shr g d => Sys2Proof.Machine.execShr g d s
  | .asr g d => Sys2Proof.Machine.execAsr g d s
  | .rol g d => Sys2Proof.Machine.execRol g d s
  | .ror g d => Sys2Proof.Machine.execRor g d s
  | .swap g d => Sys2Proof.Machine.execSwap g d s
  | .bset g d b => Sys2Proof.Machine.execBset g d b s
  | .bclr g d b => Sys2Proof.Machine.execBclr g d b s
  | .btst g d b => Sys2Proof.Machine.execBtst g d b s
  | .btgl g d b => Sys2Proof.Machine.execBtgl g d b s
  | .ldi g d k => Sys2Proof.Machine.execLdi g d k s
  | .addi g d k => Sys2Proof.Machine.execAddi g d k s
  | .subi g d k => Sys2Proof.Machine.execSubi g d k s
  | .andi g d k => Sys2Proof.Machine.execAndi g d k s
  | .ori g d k => Sys2Proof.Machine.execOri g d k s
  | .xori g d k => Sys2Proof.Machine.execXori g d k s
  | .cmpi g d k => Sys2Proof.Machine.execCmpi g d k s
  | .stPtr g r p w => Sys2Proof.Machine.execStPtr g r p w s
  | .stPostinc g r p w => Sys2Proof.Machine.execStPostinc g r p w s
  | .stPredec g r p w => Sys2Proof.Machine.execStPredec g r p w s
  | .stIndex g r p w => Sys2Proof.Machine.execStIndex g r p w s
  | .ldPtr g d p w => Sys2Proof.Machine.execLdPtr g d p w s
  | .ldPostinc g d p w => Sys2Proof.Machine.execLdPostinc g d p w s
  | .ldPredec g d p w => Sys2Proof.Machine.execLdPredec g d p w s
  | .ldIndex g d p w => Sys2Proof.Machine.execLdIndex g d p w s
  | .loadDataArrival g w => Sys2Proof.Machine.execLoadDataArrival g w s
  | .xch g d p w => Sys2Proof.Machine.execXch g d p w s
  | .tas g d p w => Sys2Proof.Machine.execTas g d p w s
  | .std g r p u w => Sys2Proof.Machine.execStd g r p u w s
  | .ldd g d p u w => Sys2Proof.Machine.execLdd g d p u w s
  | .movp g p q => Sys2Proof.Machine.execMovp g p q s
  | .addp g p q => Sys2Proof.Machine.execAddp g p q s
  | .subp g p q => Sys2Proof.Machine.execSubp g p q s
  | .cmpp g p q => Sys2Proof.Machine.execCmpp g p q s
  | .addpb g p r => Sys2Proof.Machine.execAddpb g p r s
  | .incp g p => Sys2Proof.Machine.execIncp g p s
  | .decp g p => Sys2Proof.Machine.execDecp g p s
  | .ldw g p q w => Sys2Proof.Machine.execLdw g p q w s
  | .stw g p q w => Sys2Proof.Machine.execStw g p q w s
  | .ldwPostinc g p q w => Sys2Proof.Machine.execLdwPostinc g p q w s
  | .stwPostinc g p q w => Sys2Proof.Machine.execStwPostinc g p q w s
  | .pushp g p => Sys2Proof.Machine.execPushp g p s
  | .popp g p => Sys2Proof.Machine.execPopp g p s
  | .mulu g p r => Sys2Proof.Machine.execMulu g p r s
  | .muls g p r => Sys2Proof.Machine.execMuls g p r s
  | .bcc g c rel => Sys2Proof.Machine.execBcc g c rel s
  | .bsr g rel => Sys2Proof.Machine.execBsr g rel s
  | .emit g pwm t p q w => Sys2Proof.Machine.execEmit g pwm t p q w s
  | .executorWrite => Sys2Proof.Machine.execExecutorWrite s
  | .post g t p q w => Sys2Proof.Machine.execPost g t p q w s
  | .cuePost => Sys2Proof.Machine.execCuePost s
  | .cueDispatch g => Sys2Proof.Machine.execCueDispatch g s
  | .engineTimerExpire g n => Sys2Proof.Machine.execEngineTimerExpire g n s
  | .timerCtlWrite g n b => Sys2Proof.Machine.execTimerCtlWrite g n b s
  | .bankCommitWrite g unit b => Sys2Proof.Machine.execBankCommitWrite g unit b s
  | .slateLatchRead g => Sys2Proof.Machine.execSlateLatchRead g s
  | .engineBeat g => Sys2Proof.Machine.execEngineBeat g s
  | .crewClockGate c => Sys2Proof.Machine.execCrewClockGate c s
  | .slateCorrection isl => Sys2Proof.Machine.execSlateCorrection isl s
  | .gptpSync ns => Sys2Proof.Machine.execGptpSync ns s
  | .gptpHoldover => Sys2Proof.Machine.execGptpHoldover s
  | .dailiesRecordWrite isl => Sys2Proof.Machine.execDailiesRecordWrite isl s
  | .dailiesLostRecord isl => Sys2Proof.Machine.execDailiesLostRecord isl s
  | .archiveRequest init => Sys2Proof.Machine.execArchiveRequest init s
  | .archiveDone bad => Sys2Proof.Machine.execArchiveDone bad s
  | .frameBoundaryDecide => Sys2Proof.Machine.execFrameBoundaryDecide s
  | .dieFrameBoundary n => Sys2Proof.Machine.execDieFrameBoundary n s
  | .fsyncEdge falling => Sys2Proof.Machine.execFsyncEdge falling s
  | .fsyncMissing => Sys2Proof.Machine.execFsyncMissing s
  | .canModeOff n init => Sys2Proof.Machine.execCanModeOff n init s
  | .canModeNormal n init => Sys2Proof.Machine.execCanModeNormal n init s
  | .canModeListen n init => Sys2Proof.Machine.execCanModeListen n init s
  | .canRecover n init => Sys2Proof.Machine.execCanRecover n init s
  | .canEntryHandover n k init => Sys2Proof.Machine.execCanEntryHandover n k init s
  | .canEntryEmpty n k init => Sys2Proof.Machine.execCanEntryEmpty n k init s
  | .canEntryCancel n k init => Sys2Proof.Machine.execCanEntryCancel n k init s
  | .canTxStart n tdcv => Sys2Proof.Machine.execCanTxStart n tdcv s
  | .canTxSuccess n => Sys2Proof.Machine.execCanTxSuccess n s
  | .canArbLost n => Sys2Proof.Machine.execCanArbLost n s
  | .canTxError n lec field dataPhase what => Sys2Proof.Machine.execCanTxError n lec field dataPhase what s
  | .twinBackoffExpire n k => Sys2Proof.Machine.execTwinBackoffExpire n k s
  | .busoffHoldoffExpire n => Sys2Proof.Machine.execBusoffHoldoffExpire n s
  | .busoffRecoveryComplete n => Sys2Proof.Machine.execBusoffRecoveryComplete n s
  | .canFrameReceived n f => Sys2Proof.Machine.execCanFrameReceived n f s
  | .canRxError n lec field dataPhase what => Sys2Proof.Machine.execCanRxError n lec field dataPhase what s
  | .trxReqNormal n init => Sys2Proof.Machine.execTrxReqNormal n init s
  | .trxReqListen n init => Sys2Proof.Machine.execTrxReqListen n init s
  | .trxReqStandby n init => Sys2Proof.Machine.execTrxReqStandby n init s
  | .trxReqSleep n init => Sys2Proof.Machine.execTrxReqSleep n init s
  | .trxSleepTimer t => Sys2Proof.Machine.execTrxSleepTimer t s
  | .canBusWake n cause f => Sys2Proof.Machine.execCanBusWake n cause f s
  | .swDecoderDisarm n => Sys2Proof.Machine.execSwDecoderDisarm n s
  | .canDomTimeout n => Sys2Proof.Machine.execCanDomTimeout n s
  | .canWakeClear n init => Sys2Proof.Machine.execCanWakeClear n init s
  | .linSchedSelect n init t => Sys2Proof.Machine.execLinSchedSelect n init t s
  | .linRun n init v => Sys2Proof.Machine.execLinRun n init v s
  | .linGotoSleep n init => Sys2Proof.Machine.execLinGotoSleep n init s
  | .linSendWake n init => Sys2Proof.Machine.execLinSendWake n init s
  | .linTrxReq n init req => Sys2Proof.Machine.execLinTrxReq n init req s
  | .linWakeClear n init => Sys2Proof.Machine.execLinWakeClear n init s
  | .linBufferCommit n b init => Sys2Proof.Machine.execLinBufferCommit n b init s
  | .linSlotStart n => Sys2Proof.Machine.execLinSlotStart n s
  | .linSlotEnd n => Sys2Proof.Machine.execLinSlotEnd n s
  | .linHeaderReceived n pid syncOk => Sys2Proof.Machine.execLinHeaderReceived n pid syncOk s
  | .linResponse n kind data => Sys2Proof.Machine.execLinResponse n kind data s
  | .linGotoSleepRx n => Sys2Proof.Machine.execLinGotoSleepRx n s
  | .linBusIdleTimeout n => Sys2Proof.Machine.execLinBusIdleTimeout n s
  | .linWakeScheduleStart n => Sys2Proof.Machine.execLinWakeScheduleStart n s
  | .linWakeRetry n => Sys2Proof.Machine.execLinWakeRetry n s
  | .linBusWake n => Sys2Proof.Machine.execLinBusWake n s
  | .linDomTimeout n => Sys2Proof.Machine.execLinDomTimeout n s
  | .ethFrameIngress p f => Sys2Proof.Machine.execEthFrameIngress p f s
  | .qbvGateEvent => Sys2Proof.Machine.execQbvGateEvent s
  | .qbvListSwitch => Sys2Proof.Machine.execQbvListSwitch s
  | .frerResetTimer r => Sys2Proof.Machine.execFrerResetTimer r s
  | .ethFrameEgress p => Sys2Proof.Machine.execEthFrameEgress p s
  | .gwLookup => Sys2Proof.Machine.execGwLookup s
  | .gwCanHandover n => Sys2Proof.Machine.execGwCanHandover n s
  | .gwFrameAged p => Sys2Proof.Machine.execGwFrameAged p s
  | .flowContextWrite f init off bytes => Sys2Proof.Machine.execFlowContextWrite f init off bytes s
  | .flowTimeout f => Sys2Proof.Machine.execFlowTimeout f s
  | .gwRelease init b => Sys2Proof.Machine.execGwRelease init b s
  | .gwBufferReclaim b => Sys2Proof.Machine.execGwBufferReclaim b s
  | .gwShadowWrite init stash off bytes => Sys2Proof.Machine.execGwShadowWrite init stash off bytes s
  | .gwSwap => Sys2Proof.Machine.execGwSwap s
  | .gwDiscard => Sys2Proof.Machine.execGwDiscard s
  | .gwCopybackDone => Sys2Proof.Machine.execGwCopybackDone s
  | .acfBatchTimeout p => Sys2Proof.Machine.execAcfBatchTimeout p s
  | .acfPduReceive => Sys2Proof.Machine.execAcfPduReceive s
  | .gwInject init => Sys2Proof.Machine.execGwInject init s
  | .zrtRequest => Sys2Proof.Machine.execZrtRequest s
  | .zrtRead k => Sys2Proof.Machine.execZrtRead k s
  | .zrtWrite k => Sys2Proof.Machine.execZrtWrite k s
  | .zrtRmw k => Sys2Proof.Machine.execZrtRmw k s
  | .zrtTake k => Sys2Proof.Machine.execZrtTake k s
  | .zrtFence k => Sys2Proof.Machine.execZrtFence k s
  | .zrtReset k => Sys2Proof.Machine.execZrtReset k s
  | .zrtAccept k => Sys2Proof.Machine.execZrtAccept k s
  | .zrtNotifyAck => Sys2Proof.Machine.execZrtNotifyAck s
  | .notifyBatchTimeout k => Sys2Proof.Machine.execNotifyBatchTimeout k s
  | .notifyRetransmit k seq => Sys2Proof.Machine.execNotifyRetransmit k seq s
  | .nmMessageReceived n f => Sys2Proof.Machine.execNmMessageReceived n f s
  | .nmTurn n => Sys2Proof.Machine.execNmTurn n s
  | .nmRingBroken n => Sys2Proof.Machine.execNmRingBroken n s
  | .nmMemberExpire n node => Sys2Proof.Machine.execNmMemberExpire n node s
  | .nmListenTimeout n => Sys2Proof.Machine.execNmListenTimeout n s
  | .nmReady k => Sys2Proof.Machine.execNmReady k s
  | .nmWaitBusSleepExpire k => Sys2Proof.Machine.execNmWaitBusSleepExpire k s
  | .nmAwakeWrite k init v => Sys2Proof.Machine.execNmAwakeWrite k init v s
  | .nmInsomnia k node => Sys2Proof.Machine.execNmInsomnia k node s
  | .nmInsomniaClear => Sys2Proof.Machine.execNmInsomniaClear s
  | .tc10SleepRequest u => Sys2Proof.Machine.execTc10SleepRequest u s
  | .tc10Wake u => Sys2Proof.Machine.execTc10Wake u s
  | .trunkTrainAttempt => Sys2Proof.Machine.execTrunkTrainAttempt s
  | .trunkDiscover indices crcOk => Sys2Proof.Machine.execTrunkDiscover indices crcOk s
  | .trunkDiscoverTimeout => Sys2Proof.Machine.execTrunkDiscoverTimeout s
  | .trunkGwFrame src seq crcOk q => Sys2Proof.Machine.execTrunkGwFrame src seq crcOk q s
  | .trunkReq src seq tag crcOk q => Sys2Proof.Machine.execTrunkReq src seq tag crcOk q s
  | .trunkCpl src seq tag status crcOk data => Sys2Proof.Machine.execTrunkCpl src seq tag status crcOk data s
  | .trunkAck seq => Sys2Proof.Machine.execTrunkAck seq s
  | .trunkNak seq => Sys2Proof.Machine.execTrunkNak seq s
  | .trunkResendTimeout seq => Sys2Proof.Machine.execTrunkResendTimeout seq s
  | .trunkSyncFrame t crcOk => Sys2Proof.Machine.execTrunkSyncFrame t crcOk s
  | .tkSyncEdge => Sys2Proof.Machine.execTkSyncEdge s
  | .trunkSyncLost => Sys2Proof.Machine.execTrunkSyncLost s
  | .trunkBoundary seq crcOk t => Sys2Proof.Machine.execTrunkBoundary seq crcOk t s
  | .trunkLinkLost => Sys2Proof.Machine.execTrunkLinkLost s
  | .trunkCompletionTimeout tag => Sys2Proof.Machine.execTrunkCompletionTimeout tag s
  | .trunkWake => Sys2Proof.Machine.execTrunkWake s
  | .postedWriteFail => Sys2Proof.Machine.execPostedWriteFail s
  | .postedBufferFree => Sys2Proof.Machine.execPostedBufferFree s
  | .pelPop => Sys2Proof.Machine.execPelPop s
  | .inputSample levels => Sys2Proof.Machine.execInputSample levels s
  | .inputChangeAccept n => Sys2Proof.Machine.execInputChangeAccept n s
  | .cleanPulseEnd n => Sys2Proof.Machine.execCleanPulseEnd n s
  | .handleScan c0 c1 c2 c3 ok => Sys2Proof.Machine.execHandleScan c0 c1 c2 c3 ok s
  | .handleStuck k => Sys2Proof.Machine.execHandleStuck k s
  | .measScan => Sys2Proof.Machine.execMeasScan s
  | .measConversionEnd n mv => Sys2Proof.Machine.execMeasConversionEnd n mv s
  | .measPeriodicUpdate v0 i0 v1 i1 vlog reads => Sys2Proof.Machine.execMeasPeriodicUpdate v0 i0 v1 i1 vlog reads s
  | .tempWrite t init v => Sys2Proof.Machine.execTempWrite t init v s
  | .tempStale t => Sys2Proof.Machine.execTempStale t s
  | .sensCtlWrite init v => Sys2Proof.Machine.execSensCtlWrite init v s
  | .sensOvercurrent k => Sys2Proof.Machine.execSensOvercurrent k s
  | .sensBackfeed k => Sys2Proof.Machine.execSensBackfeed k s
  | .sensBackfeedRelease k => Sys2Proof.Machine.execSensBackfeedRelease k s
  | .lfAntennaFault a short => Sys2Proof.Machine.execLfAntennaFault a short s
  | .accPollRequest init ant tag => Sys2Proof.Machine.execAccPollRequest init ant tag s
  | .pollStart => Sys2Proof.Machine.execPollStart s
  | .accRoundStart => Sys2Proof.Machine.execAccRoundStart s
  | .uhfFrame bytes => Sys2Proof.Machine.execUhfFrame bytes s
  | .uhfFrameJudge => Sys2Proof.Machine.execUhfFrameJudge s
  | .accRoundClose => Sys2Proof.Machine.execAccRoundClose s
  | .pollNonceTimeout => Sys2Proof.Machine.execPollNonceTimeout s
  | .searchRound => Sys2Proof.Machine.execSearchRound s
  | .searchStop => Sys2Proof.Machine.execSearchStop s
  | .accLearn init idx auth => Sys2Proof.Machine.execAccLearn init idx auth s
  | .accRevoke init idx auth => Sys2Proof.Machine.execAccRevoke init idx auth s
  | .dealerResponse init w => Sys2Proof.Machine.execDealerResponse init w s
  | .dealerTimeout => Sys2Proof.Machine.execDealerTimeout s
  | .dealerLockExpire => Sys2Proof.Machine.execDealerLockExpire s
  | .learnCommitDone => Sys2Proof.Machine.execLearnCommitDone s
  | .accGrant init => Sys2Proof.Machine.execAccGrant init s
  | .accAuthEnd init => Sys2Proof.Machine.execAccAuthEnd init s
  | .authExpire => Sys2Proof.Machine.execAuthExpire s
  | .releaseMessage => Sys2Proof.Machine.execReleaseMessage s
  | .barrierFrameSend field levels limit => Sys2Proof.Machine.execBarrierFrameSend field levels limit s
  | .barrierDataFrame err => Sys2Proof.Machine.execBarrierDataFrame err s
  | .barrierConfigFrame err => Sys2Proof.Machine.execBarrierConfigFrame err s
  | .barrierFieldFrame err => Sys2Proof.Machine.execBarrierFieldFrame err s
  | .fieldSafeTimeout => Sys2Proof.Machine.execFieldSafeTimeout s
  | .isoKeepaliveLoss => Sys2Proof.Machine.execIsoKeepaliveLoss s
  | .isoAdopt => Sys2Proof.Machine.execIsoAdopt s
  | .isoOutWrite init v => Sys2Proof.Machine.execIsoOutWrite init v s
  | .isoForceSafe init v => Sys2Proof.Machine.execIsoForceSafe init v s
  | .isoFieldSilent => Sys2Proof.Machine.execIsoFieldSilent s
  | .boThermalShutdown j => Sys2Proof.Machine.execBoThermalShutdown j s
  | .boThermalRestart j => Sys2Proof.Machine.execBoThermalRestart j s
  | .bbSupplyLoss => Sys2Proof.Machine.execBbSupplyLoss s
  | .strRequest init bytes => Sys2Proof.Machine.execStrRequest init bytes s
  | .strRandom => Sys2Proof.Machine.execStrRandom s
  | .strSha256 => Sys2Proof.Machine.execStrSha256 s
  | .strCmacGen => Sys2Proof.Machine.execStrCmacGen s
  | .strCmacVerify => Sys2Proof.Machine.execStrCmacVerify s
  | .strAesCtr => Sys2Proof.Machine.execStrAesCtr s
  | .strEcdsaVerify => Sys2Proof.Machine.execStrEcdsaVerify s
  | .keyImport => Sys2Proof.Machine.execKeyImport s
  | .keyErase => Sys2Proof.Machine.execKeyErase s
  | .hbDisarm => Sys2Proof.Machine.execHbDisarm s
  | .lifecycleRequest => Sys2Proof.Machine.execLifecycleRequest s
  | .fsReleaseReq => Sys2Proof.Machine.execFsReleaseReq s
  | .ccHeartbeatMiss => Sys2Proof.Machine.execCcHeartbeatMiss s
  | .entropyFail => Sys2Proof.Machine.execEntropyFail s
  | .drbgReseed => Sys2Proof.Machine.execDrbgReseed s
  | .debugPassword pw => Sys2Proof.Machine.execDebugPassword pw s
  | .debugChallenge => Sys2Proof.Machine.execDebugChallenge s
  | .debugResponse tag => Sys2Proof.Machine.execDebugResponse tag s
  | .debugBackoffEnd => Sys2Proof.Machine.execDebugBackoffEnd s
  | .tapBypass => Sys2Proof.Machine.execTapBypass s
  | .tapIdcode => Sys2Proof.Machine.execTapIdcode s
  | .storeRequest init bytes => Sys2Proof.Machine.execStoreRequest init bytes s
  | .storeExecute ok => Sys2Proof.Machine.execStoreExecute ok s
  | .journalCopy => Sys2Proof.Machine.execJournalCopy s
  | .updBegin init slot => Sys2Proof.Machine.execUpdBegin init slot s
  | .updProgram init => Sys2Proof.Machine.execUpdProgram init s
  | .updCopyPart init type target => Sys2Proof.Machine.execUpdCopyPart init type target s
  | .updCheck init remote r1 r2 r3 => Sys2Proof.Machine.execUpdCheck init remote r1 r2 r3 s
  | .updActivate init ready done => Sys2Proof.Machine.execUpdActivate init ready done s
  | .updAbort init => Sys2Proof.Machine.execUpdAbort init s
  | .trialTimeout => Sys2Proof.Machine.execTrialTimeout s
  | .expansionTrialDecide gen outcome => Sys2Proof.Machine.execExpansionTrialDecide gen outcome s
  | .recoveryEntry => Sys2Proof.Machine.execRecoveryEntry s
  | .mntWrite a bytes => Sys2Proof.Machine.execMntWrite a bytes s
  | .mntRead a n => Sys2Proof.Machine.execMntRead a n s
  | .feedGroupConduct g => Sys2Proof.Machine.execFeedGroupConduct g s
  | .bbSupplyRestore => Sys2Proof.Machine.execBbSupplyRestore s
  | .uplinkLinkDown u => Sys2Proof.Machine.execUplinkLinkDown u s
  | .uplinkLinkUp u => Sys2Proof.Machine.execUplinkLinkUp u s
  | .shortBatClear c => Sys2Proof.Machine.execShortBatClear c s
  | .swDecoderArm n => Sys2Proof.Machine.execSwDecoderArm n s
  | .fecFrameCount n err fdf => Sys2Proof.Machine.execFecFrameCount n err fdf s
  | .matcherSclRelease => Sys2Proof.Machine.execMatcherSclRelease s
  | .entropyRecovery => Sys2Proof.Machine.execEntropyRecovery s
  | .localHostAccess write a bytes n => Sys2Proof.Machine.execLocalHostAccess write a bytes n s
  | .debugPortAccess write a bytes n => Sys2Proof.Machine.execDebugPortAccess write a bytes n s

end Sys2Proof.Machine
end

