-- ==== Sys2Proof/Safety.lean ====
section
/-! DEFINITION. What counts as a safe state of the block and as a safe outcome of a step. -/

namespace Sys2Proof.Machine

/-- The register file and the memories are in their canonical form: indices strictly rising, no entry equal to what an unlisted index
reads as. -/
def State.canonical (s : State) : Bool :=
  twf resetWord s.regs && twf memDefault s.mem && twf memDefault s.mram

/-- A step that goes on. -/
def goesOn (o : Host.Outcome State Fault Refusal) : Prop := ∃ t, o = .next t

/-- The command goes on to a next state of which `p` holds. -/
def answers (i : Instr) (s : State) (p : State → Prop) : Prop := ∃ t, exec i s = .next t ∧ p t

/-- No register word but those listed differs between two states. -/
def regsBut (l : List Nat) (s t : State) : Prop := ∀ a, a ∉ l → t.reg a = s.reg a

/-- The registers that a stamp writes when its island's FIFO holds 16 records: the record is lost and counted (R280). -/
def stampRegs : List Nat := [DLY_LOST, DLY_FLAG, DLY_FLAG_CNT]

/-- The context of a channel takes a write of CH_CMD or CH_PWM by an initiator: the channel exists and no reason of R125 refuses. -/
def State.chTakes (s : State) (init c : Nat) (bad : Bool) : Bool :=
  s.chPresent c && s.chReason init c true true bad false = 0

/-- `t` stands where a full reset has been entered from `s` (R110): the boot starts again as a warm one, keep-alives stop, every
present die has the hold frame alone on its link and is not counted as adopted, and engines, waiting transactions, cues and the
executor's queue are empty. -/
abbrev State.resetEntered (s t : State) : Prop :=
  t.boot.phase = .reset ∧ t.boot.warm = true ∧ t.boot.por = false ∧ t.boot.due = none ∧ t.str.kaGo = false ∧
  t.offers = [] ∧ t.engs = [] ∧ t.waiting = [] ∧ t.exec = [] ∧
  ∀ n : Fin 14, s.diePresent n = true → (t.lnk n).tx = [.hold] ∧ (t.lnk n).adopted = false

/-- No byte of memory but those of the addresses listed differs between two states. -/
def memBut (l : List Nat) (s t : State) : Prop := ∀ a, a ∉ l → t.rd8 a = s.rd8 a

/-- No byte of MRAM but `n` from an offset on differs between two states. -/
def mramBut (off n : Nat) (s t : State) : Prop := ∀ a, ¬(off ≤ a ∧ a < off + n) → t.mrd8 a = s.mrd8 a

/-- `n` bytes of memory from an address on are the same in two states. -/
def memKept (at_ n : Nat) (s t : State) : Prop := ∀ a, at_ ≤ a → a < at_ + n → t.rd8 a = s.rd8 a

/-- An engine executes an instruction of a kind now: its crew's clock runs, a handler runs and its level does not wait, the words lie below 0x1000, and a
delay slot or a repeat prefix before it admits it (R241, R250, R253). -/
def State.admits (s : State) (g : Nat) (i : Ins) : Bool :=
  let l := (s.eng g).cur
  s.clocked (3 + g / 8) && (s.eng g).running && !(s.eng g).stalled && decide (l.pc + i.words ≤ 0x1000) && (l.slot.isNone || i.slot) &&
  (decide (l.rep.left = 0) || (if l.rep.rpti then i.rpti else i.rpt))

/-- The instruction has run from `s` to `t`: PC, delay slot and repeat group stand as after it, its cycles have passed, and the handler
level is the same. -/
def State.ranTo (s t : State) (g : Nat) (i : Ins) (w : Nat) (target : Option (Nat × Bool)) : Bool :=
  let n := nextPc (s.ext g) (s.eng g).cur i.words target
  (t.eng g).cur.pc == n.pc && (t.eng g).cur.slot == n.slot && (t.eng g).cur.rep == n.rep &&
  (t.eng g).cyc == s.lastCycle g i w + 1 && (t.eng g).st == (s.eng g).st

/-- Byte register Br of the level in force as last written. -/
def State.lastB (t : State) (g r : Nat) : Nat := (t.eng g).reg (regCode (t.eng g).isUrgent r)

/-- Pointer Pp of the level in force as last written. -/
def State.lastP (t : State) (g p : Nat) : Nat := t.lastB g (2 * p) + 0x100 * t.lastB g (2 * p + 1)

/-- The flags Z, C, N and V of the level in force. -/
def State.flagsAre (t : State) (g : Nat) (z c n v : Bool) : Bool :=
  (t.eng g).cur.z == z && (t.eng g).cur.c == c && (t.eng g).cur.n == n && (t.eng g).cur.v == v

/-- The flags of the level in force are the same. -/
def State.flagsKept (s t : State) (g : Nat) : Bool :=
  t.flagsAre g (s.eng g).cur.z (s.eng g).cur.c (s.eng g).cur.n (s.eng g).cur.v

/-- Nothing of an engine's byte registers changed but those numbered in the list, at its level in force; its queue and every other
engine are the same. -/
def State.engOnly (s t : State) (g : Nat) (l : List Nat) : Prop :=
  (∀ c, c ∉ l.map (regCode (s.eng g).isUrgent) → (t.eng g).reg c = (s.eng g).reg c) ∧
  (t.eng g).queue = (s.eng g).queue ∧ ∀ h, h ≠ g → t.eng h = s.eng h

/-- The same, and the memory and the registers of the map are unchanged. -/
def State.engBut (s t : State) (g : Nat) (l : List Nat) : Prop := s.engOnly t g l ∧ t.mem = s.mem ∧ t.regs = s.regs

/-- The byte of local data or crew memory that a data address names, none elsewhere. -/
def State.directAt (s : State) (g a : Nat) : Option Nat :=
  match s.place g a with
  | .loc m => some m
  | .crew m => some m
  | _ => none

/-- The Spine address that a data address names through a window, none elsewhere. -/
def State.spineAt (s : State) (g a : Nat) : Option Nat :=
  match s.place g a with
  | .spine m => some m
  | _ => none

/-- An engine's store of bytes at a data address (R238, R240, R265): in local data and crew memory the bytes stand there and no other
byte of memory changed; through a window a write of them is queued for the Spine. -/
def State.storedAt (s t : State) (g a : Nat) (bytes : List Byte) : Prop :=
  match s.place g a with
  | .loc m => t.rdBytes m bytes.length = bytes ∧ memBut ((List.range bytes.length).map (m + ·)) s t ∧ t.waiting = s.waiting ∧
      t.regs = s.regs
  | .crew m => t.rdBytes m bytes.length = bytes ∧ memBut ((List.range bytes.length).map (m + ·)) s t ∧ t.waiting = s.waiting ∧
      t.regs = s.regs
  | .spine m => t.mem = s.mem ∧ t.regs = s.regs ∧ t.waiting = s.waiting ++
      [{ init := 0x10 + g, lvl := (s.eng g).isUrgent, op := 1, addr := m % 2 ^ 32, len := bytes.length, data := bytes }]
  | .priv _ => t.mem = s.mem ∧ t.waiting = s.waiting

/-- An engine's load of bytes from a data address into byte registers of its level (R238, R240): from local data, crew memory and
private registers they hold the bytes; through a window a read is queued for the Spine and the load is in flight. -/
def State.loadedFrom (s t : State) (g a n : Nat) (l : List Nat) : Prop :=
  t.mem = s.mem ∧
  match s.place g a with
  | .loc m => l.map (fun r => BitVec.ofNat 8 (t.lastB g r)) = s.rdBytes m n ∧ t.waiting = s.waiting
  | .crew m => l.map (fun r => BitVec.ofNat 8 (t.lastB g r)) = s.rdBytes m n ∧ t.waiting = s.waiting
  | .priv m => l.map (fun r => BitVec.ofNat 8 (t.lastB g r)) = (s.privReadN g m n).1 ∧ t.waiting = s.waiting
  | .spine m => t.waiting = s.waiting ++ [{ init := 0x10 + g, lvl := (s.eng g).isUrgent, op := 0, addr := m % 2 ^ 32, len := n }] ∧
      (t.eng g).load = some { urgent := (s.eng g).isUrgent, dst := l.map (regCode (s.eng g).isUrgent) }

/-- A Strongroom request has completed (R470): its result slot is READY, counted, with status, OP and output length. -/
def State.finished (s t : State) (r : StrReq) (status outLen : Nat) : Bool :=
  t.f ⟨SYS_SLOT_ST r.res, 16, 2⟩ == 2 && t.f ⟨SYS_SLOT_ST r.res, 0, 16⟩ == (s.f ⟨SYS_SLOT_ST r.res, 0, 16⟩ + 1) % 0x10000 &&
  t.reg (SYS_SLOT_VAL r.res) == BitVec.ofNat 32 (status + r.op * 0x100 + outLen * 0x10000)

/-- A Strongroom request stands at the head of the FIFO; no other one queued has its result slot, which is FILLING. -/
def State.strHead (s : State) (r : StrReq) (op : Nat) : Bool :=
  match s.str.req with
  | [] => false
  | q :: l => q == r && r.op == op && l.all (fun x => x.res != r.res)

/-- The Script of the slot booted passes its validation (R495). -/
def State.scriptTakes (s : State) : Bool :=
  let at_ := slotAt (s.f STR_SCRIPT_VERDICT_SLOT)
  match s.scriptCheck false (s.scriptBody at_) (s.crewPart at_) with
  | .ok _ => true
  | .bad _ => false

/-- The last frame queued for the uplinks ends in the RESPONSE of a session with a frame status and operations (R364, R365). -/
def State.responded (t : State) (k seq status : Nat) (ops : List ZrtOp) : Bool :=
  let body := ops.flatMap ZrtOp.bytes
  let c := [0x11] ++ bytesBE 1 k ++ bytesBE 2 (t.f ZRT_EPOCH_EPOCH) ++ bytesBE 2 seq ++ bytesBE 2 ops.length ++
    bytesBE 2 (12 + body.length) ++ bytesBE 2 status ++ body
  t.eth.txq.getLast?.any (fun x => c.isSuffixOf x.f.data)

/-- The state with a section that waits loaded into it, the same where it does not pass its checks. -/
def State.sectTaken (s : State) (x : Nat × List Byte) : State :=
  match s.scrSect [] { type := x.1, value := x.2 } with
  | .ok t => t
  | .bad _ => s

/-- The fields of the state that a command may change; the part never changes, and the queue only by taking its front. -/
inductive Fld where
  | slate | free | regs | mem | mram | islands | dly | frm | offers | chans | dies | dieChs | links | boost
  | ldg | boot | str | scr | engs | gated | waiting | rr | exec | trx | cans | lins | nm | gw | eth | zrt
  | pwr | inp | meas | keys | acc | iso | nvm | upd | trk | brg | ports
  deriving DecidableEq, Repr

/-- The field is the same in both states. -/
def Fld.same (x : Fld) (s t : State) : Prop :=
  match x with
  | .slate => t.slate = s.slate
  | .free => t.free = s.free
  | .regs => t.regs = s.regs
  | .mem => t.mem = s.mem
  | .mram => t.mram = s.mram
  | .islands => t.islands = s.islands
  | .dly => t.dly = s.dly
  | .frm => t.frm = s.frm
  | .offers => t.offers = s.offers
  | .chans => t.chans = s.chans
  | .dies => t.dies = s.dies
  | .dieChs => t.dieChs = s.dieChs
  | .links => t.links = s.links
  | .boost => t.boost = s.boost
  | .ldg => t.ldg = s.ldg
  | .boot => t.boot = s.boot
  | .str => t.str = s.str
  | .scr => t.scr = s.scr
  | .engs => t.engs = s.engs
  | .gated => t.gated = s.gated
  | .waiting => t.waiting = s.waiting
  | .rr => t.rr = s.rr
  | .exec => t.exec = s.exec
  | .trx => t.trx = s.trx
  | .cans => t.cans = s.cans
  | .lins => t.lins = s.lins
  | .nm => t.nm = s.nm
  | .gw => t.gw = s.gw
  | .eth => t.eth = s.eth
  | .zrt => t.zrt = s.zrt
  | .pwr => t.pwr = s.pwr
  | .inp => t.inp = s.inp
  | .meas => t.meas = s.meas
  | .keys => t.keys = s.keys
  | .acc => t.acc = s.acc
  | .iso => t.iso = s.iso
  | .nvm => t.nvm = s.nvm
  | .upd => t.upd = s.upd
  | .trk => t.trk = s.trk
  | .brg => t.brg = s.brg
  | .ports => t.ports = s.ports

/-- Nothing but the fields listed differs between two states. -/
def State.sameBut (l : List Fld) (s t : State) : Prop :=
  t.variant = s.variant ∧ t.pending = s.pending ∧ ∀ x, x ∉ l → x.same s t

/-- Every field. -/
def allFields : List Fld :=
  [.slate, .free, .regs, .mem, .mram, .islands, .dly, .frm, .offers, .chans, .dies, .dieChs, .links, .boost, .ldg,
  .boot, .str, .scr, .engs, .gated, .waiting, .rr, .exec, .trx, .cans, .lins, .nm, .gw, .eth, .zrt, .pwr, .inp,
  .meas, .keys, .acc, .iso, .nvm, .upd, .trk, .brg, .ports]

/-- Every field but those listed. -/
def allBut (l : List Fld) : List Fld := allFields.filter (fun x => !l.contains x)

/-- The fields that a command may change: all that its meaning can reach. -/
def mayChange (i : Instr) : List Fld :=
  match i with
  | .refusalTableClear | .hangRecordClear | .slotTake .. | .usedReset .. | .engineBeat .. | .canRecover ..
  | .busoffHoldoffExpire .. | .canWakeClear .. | .linSchedSelect .. | .linWakeClear .. | .nmInsomniaClear | .pelPop
  | .measScan | .drbgReseed | .feedGroupConduct .. | .uplinkLinkDown .. | .uplinkLinkUp .. | .fecFrameCount ..
  | .entropyRecovery => [.regs]
  | .twinBackoffExpire .. => [.mem]
  | .dieOvertempClear .. | .dieKeepaliveLoss .. => [.dies]
  | .resetPinRelease => [.boot]
  | .kaGoRearm | .kaGoLapse | .tapBypass | .tapIdcode => [.str]
  | .syncComplete .. | .timerCtlWrite .. | .slateLatchRead .. => [.engs]
  | .crewClockGate .. => [.gated]
  | .swDecoderDisarm .. | .swDecoderArm .. => [.trx]
  | .linWakeScheduleStart .. => [.lins]
  | .gwRelease .. => [.gw]
  | .qbvGateEvent | .qbvListSwitch | .frerResetTimer .. | .acfBatchTimeout .. | .notifyRetransmit .. => [.eth]
  | .pwrVote .. | .matcherSclRelease => [.pwr]
  | .inputSample .. | .cleanPulseEnd .. => [.inp]
  | .sensBackfeedRelease .. => [.meas]
  | .barrierFrameSend .. | .barrierDataFrame .. | .barrierConfigFrame .. | .fieldSafeTimeout | .isoKeepaliveLoss
  | .boThermalShutdown .. | .boThermalRestart .. | .bbSupplyLoss | .bbSupplyRestore => [.iso]
  | .trunkAck .. | .trunkSyncFrame .. => [.trk]
  | .slateCorrection .. => [.free, .islands]
  | .debugChallenge => [.free, .str]
  | .flowContextWrite .. => [.regs, .mem]
  | .feedGroupBlock .. | .dloUnlock .. | .pinCtlWrite .. | .gptpHoldover | .dailiesLostRecord .. | .trunkSyncLost
  | .isoForceSafe .. | .entropyFail => [.regs, .islands]
  | .archiveRequest .. => [.regs, .dly]
  | .fsyncEdge .. => [.regs, .frm]
  | .tempWrite .. => [.regs, .offers]
  | .fdmExpire .. => [.regs, .dies]
  | .staleThreshold .. | .linkRetrain .. => [.regs, .links]
  | .debugBackoffEnd => [.regs, .str]
  | .cueDispatch .. | .bankCommitWrite .. => [.regs, .engs]
  | .canModeOff .. | .canModeNormal .. | .canModeListen .. => [.regs, .cans]
  | .linRun .. | .linSendWake .. => [.regs, .lins]
  | .nmMemberExpire .. => [.regs, .nm]
  | .gwBufferReclaim .. | .gwDiscard | .gwInject .. => [.regs, .gw]
  | .xingResyncReq .. | .xingResyncAck .. | .xingResyncOpen .. => [.regs, .pwr]
  | .sensCtlWrite .. => [.regs, .meas]
  | .accPollRequest .. | .pollStart | .dealerLockExpire => [.regs, .acc]
  | .isoOutWrite .. => [.regs, .iso]
  | .journalCopy => [.regs, .nvm]
  | .trunkTrainAttempt | .trunkDiscoverTimeout => [.regs, .trk]
  | .loadDataArrival .. => [.mem, .engs]
  | .canArbLost .. => [.mem, .cans]
  | .gwCanHandover .. => [.mem, .gw]
  | .engineTimerExpire .. => [.offers, .engs]
  | .dieHold .. | .dieHoldWin .. => [.dies, .links]
  | .nmTurn .. => [.cans, .nm]
  | .trunkGwFrame .. => [.gw, .trk]
  | .measConversionEnd .. => [.free, .regs, .offers]
  | .ledgerSeed .. => [.free, .regs, .ldg]
  | .linBufferCommit .. => [.regs, .mem, .lins]
  | .gwShadowWrite .. => [.regs, .mem, .gw]
  | .archiveDone .. => [.regs, .mram, .dly]
  | .fsyncMissing => [.regs, .islands, .frm]
  | .shortBatDetect .. | .busoffRecoveryComplete .. | .lfAntennaFault .. | .shortBatClear .. => [.regs, .islands, .offers]
  | .profileCommit .. => [.regs, .islands, .chans]
  | .envelopeLearn .. | .envelopeWrite .. | .fsApplyWrite .. | .limpArmWrite .. | .holdWinWrite .. | .fsTableWrite ..
   => [.regs, .islands, .links]
  | .debugPassword .. | .debugResponse .. => [.regs, .islands, .str]
  | .streamSample .. => [.regs, .offers, .chans]
  | .feedMeasure .. => [.regs, .offers, .dies]
  | .ethFrameEgress .. => [.regs, .offers, .eth]
  | .handleStuck .. => [.regs, .offers, .inp]
  | .storeRequest .. => [.regs, .offers, .nvm]
  | .postedWriteFail => [.regs, .offers, .brg]
  | .brakeEnd .. | .ceilingChop .. => [.regs, .dies, .dieChs]
  | .frameCrcDiscard .. | .diePark .. => [.regs, .dies, .links]
  | .boostOvRelease .. => [.regs, .dies, .boost]
  | .linSlotStart .. => [.regs, .trx, .lins]
  | .trxReqNormal .. | .trxReqListen .. | .trxReqStandby .. | .trxReqSleep .. | .linTrxReq .. => [.regs, .trx, .pwr]
  | .ethFrameIngress .. | .acfPduReceive => [.regs, .gw, .eth]
  | .zrtNotifyAck | .notifyBatchTimeout .. => [.regs, .eth, .zrt]
  | .trunkBoundary .. => [.frm, .dies, .trk]
  | .dieTableFrame .. => [.dies, .dieChs, .links]
  | .dieKeepalive .. => [.dies, .links, .iso]
  | .tkSyncEdge => [.slate, .regs, .frm, .trk]
  | .gptpSync .. => [.free, .regs, .islands, .frm]
  | .uhfFrame .. => [.free, .regs, .islands, .acc]
  | .dailiesRecordWrite .. => [.regs, .mem, .islands, .dly]
  | .updProgram .. | .updCopyPart .. => [.regs, .mram, .islands, .offers]
  | .fsReleaseWrite .. | .fsReleaseEval => [.regs, .islands, .offers, .links]
  | .strRequest .. | .strCmacVerify | .strEcdsaVerify | .hbDisarm => [.regs, .islands, .offers, .str]
  | .illegalInstruction .. | .nop .. | .retc .. | .ret .. | .sync .. | .jmpPtr .. | .rpt .. | .rptiReg .. | .rptiImm ..
  | .jmpAbs .. | .ldp .. | .addpi .. | .mov .. | .add .. | .adc .. | .sub .. | .sbc .. | .and .. | .or .. | .xor ..
  | .cmp .. | .tst .. | .inc .. | .dec .. | .neg .. | .not .. | .shl .. | .shr .. | .asr .. | .rol .. | .ror .. | .swap ..
  | .bset .. | .bclr .. | .btst .. | .btgl .. | .ldi .. | .addi .. | .subi .. | .andi .. | .ori .. | .xori .. | .cmpi ..
  | .movp .. | .addp .. | .subp .. | .cmpp .. | .addpb .. | .incp .. | .decp .. | .mulu .. | .muls .. | .bcc ..
   => [.regs, .islands, .offers, .engs]
  | .canDomTimeout .. => [.regs, .islands, .offers, .trx]
  | .linGotoSleep .. | .linWakeRetry .. => [.regs, .islands, .offers, .lins]
  | .nmInsomnia .. | .tc10SleepRequest .. => [.regs, .islands, .offers, .nm]
  | .inputChangeAccept .. => [.regs, .islands, .offers, .inp]
  | .measPeriodicUpdate .. | .tempStale .. | .sensOvercurrent .. | .sensBackfeed .. => [.regs, .islands, .offers, .meas]
  | .uhfFrameJudge | .searchStop | .dealerTimeout | .accGrant .. | .accAuthEnd .. | .authExpire
   => [.regs, .islands, .offers, .acc]
  | .barrierFieldFrame .. | .isoFieldSilent => [.regs, .islands, .offers, .iso]
  | .storeExecute .. => [.regs, .islands, .offers, .nvm]
  | .updBegin .. | .updAbort .. => [.regs, .islands, .offers, .upd]
  | .trunkDiscover .. => [.regs, .islands, .offers, .trk]
  | .chPwmWrite .. => [.regs, .islands, .chans, .links]
  | .bandChange .. => [.regs, .islands, .chans, .boost]
  | .dieFsRelease .. | .dieStatusFrame .. | .dieLinkLost .. | .kaEnWrite .. => [.regs, .islands, .dies, .links]
  | .boostOvervoltage .. | .boostUndervoltage .. | .boostFail => [.regs, .islands, .dies, .boost]
  | .profilePoint .. => [.regs, .chans, .dies, .dieChs]
  | .profileTransferDone .. => [.regs, .chans, .dieChs, .links]
  | .entryStepsComplete .. => [.regs, .dies, .links, .pwr]
  | .zrtRequest => [.regs, .str, .eth, .zrt]
  | .accLearn .. => [.free, .regs, .islands, .offers, .acc]
  | .updCheck .. => [.free, .regs, .islands, .offers, .upd]
  | .strSha256 | .strCmacGen | .strAesCtr => [.regs, .mem, .islands, .offers, .str]
  | .linDomTimeout .. => [.regs, .mem, .islands, .offers, .trx]
  | .linSlotEnd .. | .linHeaderReceived .. => [.regs, .mem, .islands, .offers, .lins]
  | .flowTimeout .. | .gwSwap | .gwCopybackDone => [.regs, .mem, .islands, .offers, .gw]
  | .currentWindow .. => [.regs, .islands, .offers, .chans, .dieChs]
  | .fsReleaseReq => [.regs, .islands, .offers, .links, .str]
  | .ccHeartbeatMiss => [.regs, .islands, .offers, .links, .acc]
  | .recoveryEntry => [.regs, .islands, .offers, .boot, .str]
  | .trialTimeout => [.regs, .islands, .offers, .boot, .upd]
  | .keyErase => [.regs, .islands, .offers, .str, .keys]
  | .post .. => [.regs, .islands, .offers, .engs, .gated]
  | .ldq .. | .lda .. | .cpy .. | .ldPtr .. | .ldPostinc .. | .ldPredec .. | .ldIndex .. | .ldd .. | .ldw ..
  | .ldwPostinc .. | .popp .. => [.regs, .islands, .offers, .engs, .waiting]
  | .emit .. => [.regs, .islands, .offers, .engs, .exec]
  | .nmMessageReceived .. | .nmRingBroken .. => [.regs, .islands, .offers, .cans, .nm]
  | .nmReady .. => [.regs, .islands, .offers, .lins, .nm]
  | .gwFrameAged .. => [.regs, .islands, .offers, .nm, .gw]
  | .releaseMessage => [.regs, .islands, .offers, .gw, .acc]
  | .accRoundClose | .pollNonceTimeout | .dealerResponse .. | .learnCommitDone => [.regs, .islands, .offers, .keys, .acc]
  | .bridgeDirChange .. => [.regs, .islands, .chans, .dieChs, .links]
  | .wakeEvent .. | .cellarWakeTimer | .i2cAddressMatch .. | .trunkWake => [.regs, .islands, .trx, .pwr, .trk]
  | .speculativeReadRefused .. => [.regs, .offers, .gated, .waiting, .ports]
  | .dieAdopt .. => [.regs, .chans, .dies, .dieChs, .links]
  | .dieUndervoltage .. => [.regs, .dies, .dieChs, .links, .boost]
  | .strRandom => [.free, .regs, .mem, .islands, .offers, .str]
  | .updActivate .. => [.free, .regs, .islands, .offers, .boot, .upd]
  | .accRoundStart | .accRevoke .. => [.free, .regs, .islands, .offers, .keys, .acc]
  | .callPtr .. | .stq .. | .callAbs .. | .sta .. | .stPtr .. | .stPostinc .. | .stPredec .. | .stIndex .. | .xch ..
  | .tas .. | .std .. | .stw .. | .stwPostinc .. | .pushp .. | .bsr .. => [.regs, .mem, .islands, .offers, .engs, .waiting]
  | .canTxStart .. => [.regs, .mem, .islands, .offers, .trx, .cans]
  | .linResponse .. => [.regs, .mem, .islands, .offers, .lins, .gw]
  | .pwmOnEdge .. | .pwmOffEdge .. | .profileEnd .. | .reversalWaitExpire .. | .stallDetect .. | .overlapTimeout ..
  | .solenoidPeakReached .. | .riseTimeout .. | .peakTimeEnd .. | .dutyTruncation .. | .dieReportFrame ..
  | .failsafeNextInrush .. | .dieFrameBoundary .. => [.regs, .islands, .offers, .chans, .dies, .dieChs]
  | .isoAdopt => [.regs, .islands, .offers, .dies, .links, .iso]
  | .lifecycleRequest => [.regs, .islands, .offers, .boot, .str, .keys]
  | .pwrReqRun .. | .pwrReqEntry .. | .pwrReqReserved .. => [.regs, .islands, .offers, .gated, .pwr, .trk]
  | .nmListenTimeout .. | .nmWaitBusSleepExpire .. => [.regs, .islands, .offers, .trx, .nm, .pwr]
  | .pauseMaxExpire .. => [.regs, .islands, .chans, .dies, .dieChs, .ldg]
  | .inputPoll .. => [.regs, .islands, .trx, .pwr, .inp, .trk]
  | .searchRound => [.regs, .islands, .trx, .pwr, .acc, .trk]
  | .frameBoundaryDecide => [.free, .regs, .islands, .frm, .offers, .dies, .trk]
  | .quenchEnd .. | .holdWindowExpire .. | .limpInputChange .. => [.free, .regs, .islands, .offers, .chans, .dies, .dieChs]
  | .chCmdOff .. | .chCmdOn .. | .chCmdPwm .. | .chCmdRestart .. => [.free, .regs, .islands, .offers, .chans, .dieChs, .links]
  | .retryDelayExpire .. => [.free, .regs, .islands, .offers, .chans, .dieChs, .boost]
  | .dieEventFrame .. => [.free, .regs, .islands, .offers, .dies, .links, .ldg]
  | .expansionTrialDecide .. => [.free, .regs, .islands, .offers, .boot, .nvm, .upd]
  | .boostEnergyCheck .. => [.free, .regs, .islands, .chans, .dies, .dieChs, .boost]
  | .consentTimeout .. => [.regs, .islands, .dly, .offers, .trx, .pwr, .trk]
  | .crewRelease .. => [.regs, .islands, .dly, .boot, .engs, .gated, .upd]
  | .captureEnd .. | .diePwmFrame .. => [.regs, .islands, .offers, .chans, .dies, .dieChs, .links]
  | .strongroomSelfTest .. => [.regs, .islands, .offers, .boot, .str, .keys, .upd]
  | .keyImport => [.regs, .islands, .offers, .str, .eth, .keys, .acc]
  | .linGotoSleepRx .. | .linBusIdleTimeout .. => [.regs, .islands, .offers, .trx, .lins, .nm, .pwr]
  | .gateClose .. | .gateOpen .. | .dieCmdFrame .. | .dieParamFrame .. | .dieFsApply .. | .dieLimpArm ..
   => [.free, .regs, .islands, .offers, .chans, .dies, .dieChs, .links]
  | .limitTExpire => [.free, .regs, .islands, .offers, .chans, .dieChs, .links, .ldg]
  | .executorWrite => [.free, .regs, .islands, .offers, .chans, .dieChs, .links, .exec]
  | .dieAdoption .. => [.regs, .islands, .offers, .chans, .dies, .dieChs, .links, .boot]
  | .trxSleepTimer .. | .nmAwakeWrite .. => [.regs, .islands, .offers, .trx, .cans, .lins, .nm, .pwr]
  | .handleScan .. => [.regs, .islands, .offers, .trx, .pwr, .inp, .acc, .trk]
  | .mntRead .. => [.regs, .offers, .gated, .waiting, .zrt, .trk, .brg, .ports]
  | .ledgerStep .. => [.free, .regs, .islands, .offers, .chans, .dieChs, .links, .boost, .ldg]
  | .cuePost => [.free, .regs, .islands, .offers, .engs, .gated, .eth, .zrt, .trk]
  | .fastTrip .. | .dieOvertemp .. | .budgetInterval .. | .overloadTrip .. | .chopShort ..
   => [.regs, .islands, .offers, .chans, .dies, .dieChs, .trx, .pwr, .trk]
  | .canBusWake .. | .linBusWake .. | .tc10Wake .. => [.regs, .islands, .offers, .trx, .cans, .lins, .nm, .pwr, .trk]
  | .fullResetRelease .. => [.slate, .free, .regs, .islands, .chans, .dies, .boost, .boot, .pwr, .nvm]
  | .shGroupTrip .. => [.regs, .islands, .offers, .chans, .dies, .dieChs, .boost, .trx, .pwr, .trk]
  | .canEntryHandover .. | .canEntryEmpty .. | .canEntryCancel .. | .canTxSuccess .. | .canTxError .. | .canFrameReceived ..
  | .canRxError .. => [.regs, .mem, .islands, .offers, .trx, .cans, .lins, .nm, .gw, .eth, .pwr, .trk]
  | .gwLookup => [.regs, .mem, .islands, .offers, .exec, .trx, .cans, .lins, .nm, .gw, .eth, .pwr, .trk]
  | .sleepExit => [.slate, .free, .regs, .islands, .offers, .engs, .trx, .cans, .lins, .nm, .pwr, .inp, .meas, .acc]
  | .lazySectionLoad => [.regs, .mem, .islands, .offers, .links, .engs, .trx, .cans, .lins, .nm, .pwr, .inp, .meas, .nvm, .upd]
  | .zrtFence .. => [.regs, .mem, .islands, .offers, .rr, .exec, .trx, .cans, .lins, .nm, .gw, .eth, .zrt, .pwr, .trk]
  | .zrtReset ..
   => [.regs, .mem, .islands, .offers, .boot, .str, .rr, .exec, .trx, .cans, .lins, .nm, .gw, .eth, .zrt, .pwr, .trk]
  | .zrtAccept ..
   => [.regs, .mem, .islands, .offers, .boot, .rr, .exec, .trx, .cans, .lins, .nm, .gw, .eth, .zrt, .pwr, .nvm, .upd, .trk]
  | .scriptLoad ..
    => allBut [.slate, .mram, .dly, .frm, .dies, .dieChs, .ldg, .str, .gated, .waiting, .rr, .exec, .gw, .zrt, .keys, .acc,
    .iso, .trk, .brg, .ports]
  | .trunkReq .. => allBut [.slate, .frm, .boost, .ldg, .scr, .engs, .waiting, .rr, .exec, .inp, .brg, .ports]
  | .registerWrite .. | .w1cFlagClear .. | .absentBlockWrite .. | .strongroomWriteDrop .. | .decodeError ..
   => allBut [.slate, .frm, .boost, .ldg, .scr, .engs, .rr, .exec, .zrt, .inp, .brg]
  | .mntWrite .. | .localHostAccess .. | .debugPortAccess .. => allBut [.slate, .frm, .boost, .ldg, .scr, .engs, .rr, .exec, .inp]
  | .postedBufferFree => allBut [.slate, .frm, .boost, .ldg, .scr, .engs, .rr, .inp]
  | .deepSleepExit .. => allBut [.mram, .dies, .dieChs, .links, .boost, .keys, .upd]
  | .islandAccessResume .. | .trunkCpl .. | .trunkNak .. | .trunkResendTimeout .. | .trunkLinkLost
  | .trunkCompletionTimeout .. => allBut [.slate, .frm, .boost, .ldg, .scr, .rr, .inp]
  | .zrtRead .. | .zrtWrite .. | .zrtRmw .. | .zrtTake .. => allBut [.slate, .frm, .boost, .ldg, .scr, .engs, .inp]
  | .spineTransactionGrant .. => allBut [.slate, .frm, .boost, .ldg, .scr, .inp]
  | .resetPinAssert | .fullResetEntry | .brownoutReset .. | .spineHang .. | .crewHeartbeatMiss .. | .kaLapseReset
  | .lockstepMismatch => allBut [.slate, .free, .dieChs, .boost, .keys]
  | .xtalFail => allBut [.slate, .dieChs, .boost, .keys]
  | .powerOnResetRelease .. => allBut [.free, .mram, .keys]
  | .sealConfirm => allBut [.mram, .keys]

end Sys2Proof.Machine
end

