-- ==== Sys2Proof/Certificates/Slice0/Obligations.lean ====
section
/-! DEFINITION. The statements about the block that are to be proved, one Prop each; every one is over all states and
operands that meet its hypotheses, and `answers c s P` says that c completes from s in a state of which P holds. -/

open Sys2Proof Sys2Proof.Machine

set_option linter.unusedVariables false

/-- A step runs the command at the front of the queue. For every command c, every waiting list and every state s, the
step of s with c at the front of its queue is exec c on s with the rest of the queue. The queue is the model's own
(first in, first out). -/
def Obligations.FrontOfQueueRuns : Prop :=
  ∀ (c : Instr) (rest : List Instr) (s : State),
    Machine.step { s with pending := c :: rest } = Machine.exec c { s with pending := rest }

/-- An empty queue lets the slate count one tick. On an empty queue a step answers the state with the slate one higher,
modulo 2^64, and nothing else changed; 125,000,000 such ticks make a second (R273). That a tick of 8 ns is what the
block does when no command waits is the model's choice (log entry 2). -/
def Obligations.EmptyQueueTicks : Prop :=
  ∀ s : State, s.pending = [] →
    ∃ t, Machine.step s = .next t ∧ t.slate = s.slate + 1 ∧ s.sameBut [.slate] t

/-- The state at reset is in canonical form, with an empty queue and zeroed memories. State.reset has an empty queue, its
register file, memory and MRAM are in canonical form, the register file and memory list nothing, so that every
register word reads its reset value and every byte of memory reads 0 (R10, R109). -/
def Obligations.ResetIsCanonical : Prop :=
  State.reset.pending = [] ∧ State.reset.canonical = true ∧
  (∀ a, State.reset.reg a = resetWord a) ∧ (∀ a, State.reset.rd8 a = 0)

/-- Every step keeps the sparse tables in canonical form. For every state whose register file, memory and MRAM are in
canonical form (indices strictly rising, no entry that equals what an unlisted index reads as), the state after any
step, of any command or of an empty queue, has the same form. -/
def Obligations.StepsKeepCanonical : Prop :=
  ∀ s t : State, s.canonical = true → Machine.step s = .next t → t.canonical = true

/-- A command changes only the fields of the state in its footprint. For every command and every state, where exec
answers a next state, the part and the waiting commands are unchanged, and so is every field of the state that
mayChange does not list for the command: among them the memory, the MRAM, the channels, the dies, the engines, the
ledger, the bus units, the key cabinet, for every command not listed as reaching them. -/
def Obligations.CommandsChangeOnlyTheirFields : Prop :=
  ∀ (c : Instr) (s t : State), Machine.exec c s = .next t → s.sameBut (mayChange c) t

/-- No step changes the identity area of MRAM. Every byte of MRAM at offset 0xF00000 or above, where the identity block
and the values written in production stand (R488, R489), reads after any step what it read before. -/
def Obligations.IdentityAreaNeverChanges : Prop :=
  ∀ (s t : State) (a : Nat), 0xF00000 ≤ a → Machine.step s = .next t → t.mrd8 a = s.mrd8 a

/-- No well-formed command stops the block. For every well-formed command and every state exec answers a next state:
neither a fault nor a refusal. What each command does there is the subject of the statements of its family. -/
def Obligations.WellFormedCommandsGoOn : Prop :=
  ∀ (c : Instr) (s : State), c.wf = true → answers c s (fun _ => True)

/-- Accepted channel commands reach the die and take their effect. Where a channel's context takes the write (R125),
CH_CMD_OFF, CH_CMD_ON, CH_CMD_PWM, CH_CMD_RESTART and CH_PWM_WRITE put one frame behind those already sent to the
channel's die, with the channel's number within the die and the values written (R39, R212); on a channel of class H,
M or L whose die is adopted OFF leads to OFF from every phase but GATED and GANGED, ON and RESTART lead from OFF to
GATED with the gate closed, to PROFILE where the turn-on may start, else to DEFERRED, and PWM leads from OFF to PWM
or GATED (R134 to R136). CH_PWM_WRITE leaves every register but CH_PWM and the stamp registers on such a channel.
Says that these complete: chCmdOff, chCmdOn, chCmdPwm, chCmdRestart, chPwmWrite. -/
def Obligations.ChannelCommandsTakeEffect : Prop :=
  (∀ (c : Fin 132) (init tag : Byte) (s : State),
    s.chTakes init.toNat c false →
    answers (.chCmdOff c init tag) s fun t =>
      (t.lnk (chLink c)).tx = (s.lnk (chLink c)).tx ++
    [.cmd (c - linkFirst (chLink c)) 0 (s.f (CH_B_DRV_DIR c)) (s.f (CH_B_DRV_STOP c)) tag.toNat false] ∧
      (s.vis c = true → chClass c < 3 → s.ph c ≠ phGATED → s.ph c ≠ phGANGED → t.ph c = phOFF)) ∧
  (∀ (c : Fin 132) (init tag : Byte) (s : State),
    s.chTakes init.toNat c false →
    answers (.chCmdOn c init tag) s fun t =>
      (t.lnk (chLink c)).tx = (s.lnk (chLink c)).tx ++
    [.cmd (c - linkFirst (chLink c)) 1 (s.f (CH_B_DRV_DIR c)) (s.f (CH_B_DRV_STOP c)) tag.toNat false] ∧
      (s.vis c = true → chClass c < 3 → s.ph c = phOFF →
    t.ph c = if s.gateOpen c = false then phGATED else if s.mayStart c then phPROFILE else phDEFERRED)) ∧
  (∀ (c : Fin 132) (init tag : Byte) (s : State),
    s.chTakes init.toNat c (chClass c = 4) →
    answers (.chCmdPwm c init tag) s fun t =>
      (t.lnk (chLink c)).tx = (s.lnk (chLink c)).tx ++
    [.cmd (c - linkFirst (chLink c)) 2 (s.f (CH_B_DRV_DIR c)) (s.f (CH_B_DRV_STOP c)) tag.toNat false] ∧
      (s.vis c = true → chClass c < 3 → s.ph c = phOFF → t.ph c = if s.gateOpen c = false then phGATED else phPWM)) ∧
  (∀ (c : Fin 132) (init : Byte) (mode : BitVec 2) (tag : Byte) (s : State),
    s.chTakes init.toNat c (mode = 3 || (chClass c = 4 && mode = 2)) →
    answers (.chCmdRestart c init mode tag) s fun t =>
      (t.lnk (chLink c)).tx = (s.lnk (chLink c)).tx ++
    [.cmd (c - linkFirst (chLink c)) mode.toNat (s.f (CH_B_DRV_DIR c)) (s.f (CH_B_DRV_STOP c)) tag.toNat true] ∧
      (s.vis c = true → chClass c < 3 → s.ph c = phOFF → mode = 1 →
    t.ph c = if s.gateOpen c = false then phGATED else if s.mayStart c then phPROFILE else phDEFERRED)) ∧
  (∀ (c : Fin 132) (init : Byte) (duty : BitVec 11) (pdiv : BitVec 2) (phase : BitVec 10) (s : State),
    s.chTakes init.toNat c (1024 < duty.toNat) →
    answers (.chPwmWrite c init duty pdiv phase) s fun t =>
      (t.lnk (chLink c)).tx = (s.lnk (chLink c)).tx ++
    [.pwm (c - linkFirst (chLink c)) duty.toNat pdiv.toNat phase.toNat
      (s.f (CH_PWM_PDIV c) = pdiv.toNat ∧ s.f (CH_PWM_PHASE c) = phase.toNat)] ∧
      (chClass c < 3 → t.f (CH_PWM_DUTY c) = duty.toNat ∧ t.f (CH_PWM_PDIV c) = pdiv.toNat ∧
    t.f (CH_PWM_PHASE c) = phase.toNat ∧ regsBut (CH_PWM c :: stampRegs) s t))

/-- Writes of a channel context are refused under R125, or profile, envelope and learning take them. Where a reason of
R125 refuses a write of CH_CMD, the context counts it with its initiator and reason, sets REFUSED, and changes no
other register but the stamp registers, and neither channel nor die state nor a frame to the die. An accepted
PROFILE_COMMIT starts the transfer (XFER 1), or with MODE 1 and a table that R131 rejects sets XFER 2 and the code;
an accepted ENVELOPE_LEARN stores the other fields, leaves ENV_STATE UNLEARNED with LEARNED 0, and changes no other
word but the bounds, which read 0 (that they do is the model's choice, log entry 59); an accepted ENVELOPE_WRITE puts
the word, sets ENV_STATE MANUAL, and changes no other register. At PROFILE_TRANSFER_DONE the snapshot waits in the
die as the next generation (R132). Says that these complete: chCmdOn, profileCommit, envelopeLearn, envelopeWrite,
profileTransferDone. -/
def Obligations.ChannelContextWritesRefusedOrMade : Prop :=
  (∀ (c : Fin 132) (init tag : Byte) (r : Nat) (s : State),
    s.chPresent c = true →
    s.chReason init.toNat c true true false false = r →
    r ≠ 0 →
    answers (.chCmdOn c init tag) s fun t =>
      t.f (CH_REFUSE_LAST_INIT c) = init.toNat ∧
      t.f (CH_REFUSE_LAST_REASON c) = r ∧
      t.f (CH_REFUSE_COUNT c) = min (s.f (CH_REFUSE_COUNT c) + 1) 0xFFFF ∧
      t.f (CH_FLAG_REFUSED c) = 1 ∧
      regsBut ([CH_REFUSE c, CH_FLAG c, CH_FLAG_CNT c] ++ stampRegs) s t ∧
      s.sameBut [.regs, .islands] t) ∧
  (∀ (c : Fin 132) (init : Byte) (ctl : Word) (s : State),
    s.chPresent c = true →
    ctl.toNat / 0x100 % 0x400 ≤ 1000 →
    s.chReason init.toNat c false false (chClass c = 4) (s.f (CH_PROF_STAT_XFER c) = 1) = 0 →
    answers (.profileCommit c init ctl) s fun t =>
      (t.f (CH_PROF_STAT_XFER c) = if ctl.toNat % 2 = 0 ∨ profReject ((List.range 16).map fun n => (s.reg (CH_PROF c n)).toNat)
    (ctl.toNat / 16 % 16) (s.f (CH_TRIP_CFG_ITRIP c)) = 0 then 1 else 2) ∧
      (ctl.toNat % 2 = 1 → profReject ((List.range 16).map fun n => (s.reg (CH_PROF c n)).toNat)
    (ctl.toNat / 16 % 16) (s.f (CH_TRIP_CFG_ITRIP c)) ≠ 0 → t.f (CH_PROF_STAT_REJECT c) =
      profReject ((List.range 16).map fun n => (s.reg (CH_PROF c n)).toNat) (ctl.toNat / 16 % 16) (s.f (CH_TRIP_CFG_ITRIP c)))) ∧
  (∀ (c : Fin 132) (init : Byte) (cfg : Word) (s : State),
    s.chPresent c = true →
    s.chReason init.toNat c false false (10 < cfg.toNat % 0x10 || cfg.toNat / 0x10 % 0x40 = 0 || cfg.toNat / 0x400 % 8 = 0) false = 0 →
    answers (.envelopeLearn c init cfg) s fun t =>
      t.f (CH_SIG_STAT_ENV_STATE c) = 0 ∧
      t.f (CH_SIG_STAT_LEARNED c) = 0 ∧
      t.reg (CH_SIG_CFG c) = cfg &&& 0xFFFF3FFF#32 ∧
      (∀ n : Fin 32, t.f (CH_ENV_LO c n) = 0 ∧ t.f (CH_ENV_HI c n) = 0) ∧
      regsBut (CH_SIG_CFG c :: CH_SIG_STAT c :: (List.range 32).map (fun n => CH_ENV c n)) s t) ∧
  (∀ (c : Fin 132) (init : Byte) (n : Fin 32) (w : Word) (s : State),
    s.chPresent c = true →
    s.chReason init.toNat c false false false false = 0 →
    answers (.envelopeWrite c init n w) s fun t =>
      t.reg (CH_ENV c n) = w &&& 0x00FFFFFF#32 ∧
      t.f (CH_SIG_STAT_ENV_STATE c) = 3 ∧
      regsBut [CH_ENV c n, CH_SIG_STAT c] s t) ∧
  (∀ (c : Fin 132) (s : State),
    s.f (CH_PROF_STAT_XFER c) = 1 →
    s.vis c = true →
    answers (.profileTransferDone c) s fun t =>
      t.f (CH_PROF_STAT_XFER c) = 0 ∧
      t.f (CH_PROF_STAT_PENDING_GEN c) = (s.f (CH_PROF_STAT_ACTIVE_GEN c) + 1) % 0x100 ∧
      (t.dieCh c).profPend = (s.chan c).snap ∧
      regsBut [CH_PROF_STAT c] s t)

/-- PWM edges, gates, profiles, captures and result slots. A PWM on-edge of a channel whose output is off, whose duty is
long enough and whose turn-on may start is counted, turns the output on where the active table is of MODE 0, and
leads to PROFILE where it is of MODE 1 (R130, R136, R137); an off-edge turns the output off and keeps the time (R134,
R136). GATE_CLOSE and GATE_OPEN set the gate that the Strongroom holds; a live die's gate follows at once, one whose
adoption is on its way is sent the state, and one that is not adopted keeps its gate (R35, R37, R129). A profile
point becomes the next one and PROFILE_END leads to PWM or ON by MODE (R130, R134). The end of a suppressed or
unlearned capture puts its class (R140 to R142). SLOT_TAKE captures status and value of the slot and moves READY to
TAKEN, leaving every other register (R147). A CURRENT window puts its mean in slot 0 with a new SEQ (R145, R146).
Says that these complete: pwmOnEdge, pwmOffEdge, gateClose, gateOpen, profilePoint, profileEnd, captureEnd, slotTake,
currentWindow. -/
def Obligations.ProfilesEdgesGatesAndSlots : Prop :=
  (∀ (c : Fin 132) (s : State),
    s.chPresent c = true →
    chClass c < 3 →
    s.vis c = true →
    s.ph c = phPWM →
    s.modeOf c = 2 →
    (s.dieCh c).nextDuty = none →
    (s.dieCh c).profPend = [] →
    (s.dieCh c).out = false →
    s.effDuty c ≠ 0 →
    s.pulseLong c (s.effDuty c) = true →
    s.mayStart c = true →
    answers (.pwmOnEdge c) s fun t =>
      t.f (CH_EDGECNT_COUNT c) = min (s.f (CH_EDGECNT_COUNT c) + 1) 0xFFFFFFFF ∧
      (ctlMode (s.profCtl c) = false → (t.dieCh c).out = true) ∧
      (ctlMode (s.profCtl c) = true → t.ph c = phPROFILE)) ∧
  (∀ (c : Fin 132) (s : State),
    s.chPresent c = true →
    chClass c < 3 →
    s.ph c = phPWM →
    s.effDuty c ≠ 1024 →
    s.pulseLong c (1024 - s.effDuty c) = true →
    (s.dieCh c).out = true →
    (s.dieCh c).nextDuty = none →
    answers (.pwmOffEdge c) s fun t =>
      (t.dieCh c).out = false ∧
      (t.chan c).offAt = s.now ∧
      t.regs = s.regs) ∧
  (∀ (n : Fin 14) (s : State),
    s.diePresent n = true →
    answers (.gateClose n) s fun t =>
      (t.lnk n).gate = false ∧
      (s.live n = true → (t.die n).gate = false) ∧
      (s.live n = false → (s.lnk n).adopted = true → (t.lnk n).tx = (s.lnk n).tx ++ [.param 0 5 0]) ∧
      ((s.lnk n).adopted = false → t.die n = s.die n)) ∧
  (∀ (n : Fin 14) (s : State),
    s.diePresent n = true →
    answers (.gateOpen n) s fun t =>
      (t.lnk n).gate = true ∧
      (s.live n = true → (t.die n).gate = true) ∧
      (s.live n = false → (s.lnk n).adopted = true → (t.lnk n).tx = (s.lnk n).tx ++ [.param 0 5 1]) ∧
      ((s.lnk n).adopted = false → t.die n = s.die n)) ∧
  (∀ (c : Fin 132) (s : State),
    s.ph c = phPROFILE →
    chClass c < 4 →
    (s.dieCh c).point + 1 < 16 →
    profEnd (s.activePoint c ((s.dieCh c).point + 1)) = false →
    answers (.profilePoint c) s fun t =>
      (t.dieCh c).point = (s.dieCh c).point + 1 ∧
      (s.vis c = true → t.f (CH_STATUS_POINT c) = (s.dieCh c).point + 1) ∧
      regsBut [CH_STATUS c] s t) ∧
  (∀ (c : Fin 132) (s : State),
    s.ph c = phPROFILE →
    chClass c < 4 →
    answers (.profileEnd c) s fun t =>
      (t.ph c = if s.modeOf c = 2 then phPWM else phON) ∧
      (t.dieCh c).budgetRun = 0) ∧
  (∀ (c : Fin 132) (bins : List (BitVec 12)) (valid : Word) (s : State),
    s.vis c = true →
    (s.chan c).capRun = true →
    (((s.chan c).capSup || s.on (CH_STATUS_FDM c) || s.f PWR_FEED_STAT_BAND ≠ 0) = true ∨ s.f (CH_SIG_STAT_ENV_STATE c) ≤ 1) →
    answers (.captureEnd c bins valid) s fun t =>
      (t.chan c).capRun = false ∧
      (t.f (CH_SIG_STAT_LAST_CLASS c) =
    if ((s.chan c).capSup || s.on (CH_STATUS_FDM c) || s.f PWR_FEED_STAT_BAND ≠ 0) = true then 5 else 6)) ∧
  (∀ (unit index slot : Byte) (st v tst tv : Nat) (s : State),
    slotWords unit.toNat index.toNat slot.toNat = some (st, v, tst, tv) →
    answers (.slotTake unit index slot) s fun t =>
      t.reg tst = s.reg st ∧
      t.reg tv = s.reg v ∧
      (t.f ⟨st, 16, 2⟩ = if s.f ⟨st, 16, 2⟩ = 2 then 3 else s.f ⟨st, 16, 2⟩) ∧
      regsBut [st, tst, tv] s t) ∧
  (∀ (c : Fin 132) (mean onUs : BitVec 16) (s : State),
    s.vis c = true →
    (s.ph c = phON ∨ s.ph c = phPWM) →
    s.slotsLive c = true →
    answers (.currentWindow c mean onUs) s fun t =>
      (t.reg (CH_SLOT_VAL c 0)).toNat = mean.toNat ∧
      t.f (CH_SLOT_ST_SEQ c 0) = (s.f (CH_SLOT_ST_SEQ c 0) + 1) % 0x10000 ∧
      t.f (CH_SLOT_ST_STATE c 0) = 2)

/-- Trips, the overtemperature latch, the energy budget, short to battery and the retry. A fast trip of a conducting
channel of class H, M or L, or of a half-bridge leg with a FET on, be it by a brake, latches it, opens the output,
marks the die, and where the die is live sets the TRIP flag and leads a driven channel to RETRY_WAIT while USED is
below MAX, else to TRIPPED (R149 to R152, R159, R164, R192). The overtemperature latch sets and clears (R154). An
interval of the energy budget, in a die that is not parked, adds the excess over HI of its bin, and reaching the
budget trips the channel (R155, R156). The mark of a die ends on all its channels (R159). Short to battery sets its
verdict and its end leads to OK (R162, R163). The end of a trip's delay starts the retry of a channel of class H, M
or L in RETRY_WAIT whose MODE is not PWM and that may start, at point 0 with the latch cleared; of a channel in
another phase it clears the latch where that is not TRIPPED, FUSED or GATED (R164, R166). USED_RESET clears USED and
no other register (R165). Says that these complete: fastTrip, dieOvertemp, dieOvertempClear, budgetInterval,
fdmExpire, shortBatDetect, shortBatClear, retryDelayExpire, usedReset. -/
def Obligations.ProtectionTripsLatchAndRetry : Prop :=
  (∀ (c : Fin 132) (s : State),
    s.ctx c = c →
    chClass c < 3 →
    s.driven c = true →
    (s.dieCh c).out = true →
    answers (.fastTrip c) s fun t =>
      (t.dieCh c).latch = true ∧
      (t.dieCh c).out = false ∧
      (t.die (chLink c)).fdm = true ∧
      (s.vis c = true → t.ph c = if s.f (CH_RETRY_MAX c) ≤ s.f (CH_RETRY_USED c) then phTRIPPED else phRETRY) ∧
      (s.vis c = true → t.f (CH_FLAG_TRIP c) = 1)) ∧
  (∀ (c : Fin 132) (s : State),
    s.ctx c = c →
    chClass c = 3 →
    s.legFet c ≠ .off →
    answers (.fastTrip c) s fun t =>
      (t.dieCh c).latch = true ∧
      (t.dieCh c).out = false ∧
      (t.dieCh c).braking = false ∧
      (t.die (chLink c)).fdm = true ∧
      (s.vis c = true → s.driven c = true → t.ph c = if s.f (CH_RETRY_MAX c) ≤ s.f (CH_RETRY_USED c) then phTRIPPED else phRETRY) ∧
      (s.vis c = true → t.f (CH_FLAG_TRIP c) = 1)) ∧
  (∀ (n : Fin 14) (s : State),
    s.diePresent n = true →
    (s.die n).ot = false →
    answers (.dieOvertemp n) s fun t =>
      (t.die n).ot = true) ∧
  (∀ (n : Fin 14) (s : State),
    s.diePresent n = true →
    answers (.dieOvertempClear n) s fun t =>
      (t.die n).ot = false ∧
      s.sameBut [.dies] t) ∧
  (∀ (c : Fin 132) (bin mean : BitVec 16) (s : State),
    s.ph c = phPROFILE →
    chClass c < 3 →
    (s.dieCh c).budgetRun ≠ 0 →
    (s.chan c).runZero = true →
    (s.dieCh c).hiRun.getD (min bin.toNat 31) 0xFFF ≠ 0xFFF →
    (s.die (chLink c)).parked = false →
    answers (.budgetInterval c bin mean) s fun t =>
      (t.dieCh c).e = (s.dieCh c).e + (mean.toNat - (s.dieCh c).hiRun.getD (min bin.toNat 31) 0xFFF) ∧
      ((s.dieCh c).budgetRun ≤ (t.dieCh c).e → (t.dieCh c).latch = true ∧ (t.dieCh c).out = false) ∧
      ((t.dieCh c).e < (s.dieCh c).budgetRun → t.regs = s.regs ∧ (t.dieCh c).out = (s.dieCh c).out)) ∧
  (∀ (n : Fin 14) (s : State),
    s.diePresent n = true →
    answers (.fdmExpire n) s fun t =>
      (t.die n).fdm = false ∧
      (s.live n = true → ∀ c : Fin 132, chLink c = n → t.f (CH_STATUS_FDM c) = 0) ∧
      (s.live n = false → t.regs = s.regs)) ∧
  (∀ (c : Fin 132) (s : State),
    chClass c < 3 →
    s.vis c = true →
    s.ph c = phOFF →
    s.on (CH_STATUS_FDM c) = false →
    1250000 ≤ s.now - (s.chan c).offAt →
    s.f (CH_VERDICT_VERDICT c) ≤ 6 →
    answers (.shortBatDetect c) s fun t =>
      t.f (CH_VERDICT_VERDICT c) = 6 ∧
      regsBut (CH_VERDICT c :: stampRegs) s t) ∧
  (∀ (c : Fin 132) (s : State),
    s.vis c = true →
    s.f (CH_VERDICT_VERDICT c) = 6 →
    s.on (CH_STATUS_FDM c) = false →
    answers (.shortBatClear c) s fun t =>
      t.f (CH_VERDICT_VERDICT c) = 1 ∧
      t.f (CH_VERDICT_PREV c) = 6 ∧
      t.f (CH_VERDICT_SEQ c) = (s.f (CH_VERDICT_SEQ c) + 1) % 2 ^ (CH_VERDICT_SEQ c).w ∧
      regsBut (CH_VERDICT c :: stampRegs) s t) ∧
  (∀ (c : Fin 132) (s : State),
    (s.chan c).delayRun = true →
    chClass c ≠ 4 →
    (s.vis c = false ∨ s.ph c ≠ phRETRY) →
    answers (.retryDelayExpire c) s fun t =>
      (t.chan c).delayRun = false ∧
      (t.chan c).delayUp = true ∧
      (t.chan c).retryPend = decide (s.ph c = phRETRY) ∧
      (s.ph c ≠ phRETRY → s.ph c ≠ phTRIPPED → s.ph c ≠ phFUSED → s.ph c ≠ phGATED → (t.dieCh c).latch = false) ∧
      t.regs = s.regs) ∧
  (∀ (c : Fin 132) (s : State),
    (s.chan c).delayRun = true →
    s.vis c = true →
    s.ph c = phRETRY →
    chClass c < 3 →
    s.sp c ≠ spQUENCH →
    s.modeOf c ≠ 2 →
    (s.dieCh c).revWait = false →
    s.permit c = true →
    s.bandPermits c = true →
    (s.die (chLink c)).ot = false →
    answers (.retryDelayExpire c) s fun t =>
      t.ph c = phPROFILE ∧
      (t.dieCh c).latch = false ∧
      (t.dieCh c).point = 0 ∧
      t.f (CH_RETRY_USED c) = min (s.f (CH_RETRY_USED c) + 1) 0xFF ∧
      ((s.dieCh c).profPend = [] → s.ceilZero c 0 = false → (t.dieCh c).out = true)) ∧
  (∀ (c : Fin 132) (s : State),
    s.vis c = true →
    (s.ph c = phON ∨ s.ph c = phPWM) →
    answers (.usedReset c) s fun t =>
      t.f (CH_RETRY_USED c) = 0 ∧
      regsBut [CH_RETRY c] s t ∧
      s.sameBut [.regs] t)

/-- Half-bridge legs: direction, reversal, brake, chopping, overload, the stream and stall. An accepted CH_B_DRV write
puts DIR, STOP and the times, sends the die the command with the new DIR and STOP, and a DIR change of a driven leg
coasts it into the reversal wait (R189). The end of that wait turns the leg on where MODE is ON, its gate is open, it
may start and the first ceiling of its profile is not 0. A brake that no fail-safe action made ends (BRAKE_T), the
ceiling turns the active FET off for the rest of the carrier period and sets CHOPPING (R191), the overload timer
trips a leg with a FET on with its own flag and leaves its timer at 500 ms (R193). A sample enters the ring at WR,
which moves on modulo 64 with SEQ, and one written while 63 are unread drops the oldest (R194, R195). A stall sets
its flag, and with STALL_ACT the leg goes OFF (R196). Says that these complete: bridgeDirChange, reversalWaitExpire,
brakeEnd, ceilingChop, overloadTrip, streamSample, stallDetect. -/
def Obligations.HalfBridgeLegsTurnBrakeChopAndStall : Prop :=
  (∀ (c : Fin 132) (init : Byte) (w : Word) (s : State),
    s.chPresent c = true →
    chClass c = 3 →
    w.toNat / 2 % 4 ≠ 3 →
    s.chReason init.toNat c false true false false = 0 →
    answers (.bridgeDirChange c init w) s fun t =>
      t.reg (CH_B_DRV c) = w &&& 0x00FFFF07#32 ∧
      (t.lnk (chLink c)).tx = (s.lnk (chLink c)).tx ++ [.cmd (c - linkFirst (chLink c)) (s.modeOf c) (w.toNat % 2)
    (w.toNat / 2 % 4) (s.f (CH_CMD_TAG c)) false] ∧
      (s.vis c = true → w.toNat % 2 ≠ s.f (CH_B_DRV_DIR c) → s.driven c = true →
    t.ph c = phOFF ∧ (t.dieCh c).out = false ∧ (t.dieCh c).revWait = true)) ∧
  (∀ (c : Fin 132) (s : State),
    chClass c = 3 →
    (s.dieCh c).revWait = true →
    answers (.reversalWaitExpire c) s fun t =>
      (t.dieCh c).revWait = false ∧
      (s.vis c = true → s.ph c = phOFF → s.modeOf c = 1 → s.gateOpen c = true → s.mayStart c = true → t.ph c = phPROFILE ∧
    ((s.dieCh c).profPend = [] → s.ceilZero c 0 = false → (t.dieCh c).out = true))) ∧
  (∀ (c : Fin 132) (s : State),
    chClass c = 3 →
    s.vis c = true →
    (s.dieCh c).braking = true →
    s.on (CH_B_DRV_BRAKE_T c) = true →
    (s.dieCh c).fsBrake = false →
    answers (.brakeEnd c) s fun t =>
      (t.dieCh c).braking = false ∧
      t.f (CH_B_STAT_BRAKING c) = 0 ∧
      regsBut [CH_B_STAT c, MOT_ACTIVE] s t) ∧
  (∀ (c : Fin 132) (s : State),
    chClass c = 3 →
    (s.ph c = phPROFILE ∨ s.ph c = phPAUSED) →
    answers (.ceilingChop c) s fun t =>
      (t.dieCh c).chopAt = some s.now ∧
      (s.vis c = true → t.f (CH_B_STAT_CHOPPING c) = 1) ∧
      regsBut [CH_B_STAT c] s t) ∧
  (∀ (c : Fin 132) (s : State),
    s.ctx c = c →
    chClass c = 3 →
    s.legFet c ≠ .off →
    answers (.overloadTrip c) s fun t =>
      (t.dieCh c).latch = true ∧
      (t.dieCh c).out = false ∧
      (t.dieCh c).braking = false ∧
      (t.chan c).ovl = 50000 ∧
      (s.vis c = true → s.driven c = true → t.ph c = if s.f (CH_RETRY_MAX c) ≤ s.f (CH_RETRY_USED c) then phTRIPPED else phRETRY) ∧
      (s.vis c = true → t.f (CH_B_FLAG_OVERLOAD c) = 1)) ∧
  (∀ (c : Fin 132) (v : BitVec 16) (s : State),
    chClass c = 3 →
    s.vis c = true →
    s.on (CH_STREAM_EN c) = true →
    s.ctx c = c →
    answers (.streamSample c v) s fun t =>
      t.f (CH_STREAM_WR c) = (s.f (CH_STREAM_WR c) + 1) % 64 ∧
      t.f (CH_STREAM_SEQ_SEQ c) = (s.f (CH_STREAM_SEQ_SEQ c) + 1) % 2 ^ (CH_STREAM_SEQ_SEQ c).w ∧
      (t.f (if s.f (CH_STREAM_WR c) % 2 = 0 then CH_STREAM_RING_EVEN c (s.f (CH_STREAM_WR c) / 2)
    else CH_STREAM_RING_ODD c (s.f (CH_STREAM_WR c) / 2)) = v.toNat) ∧
      (t.f (CH_STREAM_RD c) = if (s.f (CH_STREAM_WR c) + 64 - s.f (CH_STREAM_RD c)) % 64 = 63 then (s.f (CH_STREAM_RD c) + 1) % 64
    else s.f (CH_STREAM_RD c))) ∧
  (∀ (c : Fin 132) (s : State),
    chClass c = 3 →
    s.vis c = true →
    s.driven c = true →
    s.ph c ≠ phPROFILE →
    s.on (CH_B_STALL_ISTALL c) = true →
    answers (.stallDetect c) s fun t =>
      t.f (CH_B_FLAG_STALL c) = 1 ∧
      (s.f (CH_B_STALL_STALL_ACT c) = 1 → t.ph c = phOFF ∧ (t.dieCh c).mode = 0 ∧ (t.dieCh c).out = false) ∧
      (s.f (CH_B_STALL_STALL_ACT c) ≠ 1 → t.dieChs = s.dieChs))

/-- The boost rail and the phases of a solenoid channel. The rail's overvoltage closes the recovery paths and its release
reopens them; undervoltage and a failed charge set their flags (R199). The energy check puts the rail voltage and in
the Normal band starts the waiting channel whose E_RISE the free energy covers (R203, R204). A wait that times out is
refused (R200); a rise that reaches IPEAK goes to PEAK, or to HOLD with TPEAK 0, and one that times out quenches
below IPEAK / 4; PEAK ends in HOLD; a quench ends in OFF, or in the phase that the trip which caused it gives (R164);
the duty limit and a short in the chop quench the channel (R200, R206, R208); an SH trip latches its group (R209).
Says that these complete: boostOvervoltage, boostOvRelease, boostUndervoltage, boostFail, boostEnergyCheck,
overlapTimeout, solenoidPeakReached, riseTimeout, peakTimeEnd, quenchEnd, dutyTruncation, chopShort, shGroupTrip. -/
def Obligations.BoostRailAndSolenoidPhases : Prop :=
  (∀ (v : BitVec 10) (s : State),
    s.vis 116 = true →
    s.vbstOv ≤ v.toNat →
    s.boost.closed = false →
    answers (.boostOvervoltage v) s fun t =>
      t.boost.closed = true ∧
      t.f SOL_FLAG_BST_OV = 1 ∧
      t.f SOL_BST_STAT_V_BST = v.toNat ∧
      regsBut ([SOL_BST_STAT, SOL_FLAG, SOL_FLAG_CNT] ++ stampRegs) s t) ∧
  (∀ (v : BitVec 10) (s : State),
    s.vis 116 = true →
    v.toNat < 5 * SOL_BST_CFG_VBST_SET.get s.boost.cfg + 40 →
    answers (.boostOvRelease v) s fun t =>
      t.boost.closed = false ∧
      t.f SOL_BST_STAT_V_BST = v.toNat ∧
      regsBut [SOL_BST_STAT] s t) ∧
  (∀ (v : BitVec 10) (s : State),
    s.vis 116 = true →
    v.toNat < 5 * SOL_BST_CFG_V_FLOOR.get s.boost.cfg →
    answers (.boostUndervoltage v) s fun t =>
      t.f SOL_FLAG_BST_UV = 1 ∧
      t.f SOL_BST_STAT_V_BST = v.toNat) ∧
  (∀ (s : State),
    s.vis 116 = true →
    s.f SOL_BST_STAT_V_BST * 100 < 485 * SOL_BST_CFG_VBST_SET.get s.boost.cfg →
    answers (.boostFail) s fun t =>
      t.boost.failed = true ∧
      t.f SOL_FLAG_BST_FAIL = 1 ∧
      regsBut ([SOL_FLAG, SOL_FLAG_CNT] ++ stampRegs) s t) ∧
  (∀ (v : BitVec 10) (drawn : List (Fin 16 × BitVec 16)) (s : State),
    s.vis 116 = true →
    (s.setVbst v.toNat).waiters = [] →
    answers (.boostEnergyCheck v drawn) s fun t =>
      t.f SOL_BST_STAT_V_BST = v.toNat ∧
      (drawn = [] → regsBut [SOL_BST_STAT] s t)) ∧
  (∀ (v : BitVec 10) (c : Nat) (s : State),
    (s.setVbst v.toNat).waiters = [c] →
    (116 ≤ c ∧ c < 132) →
    (s.setVbst v.toNat).boost.failed = false →
    ((s.dieCh c).eRise : Int) ≤ (s.setVbst v.toNat).eFree →
    s.vis 116 = true →
    s.f PWR_FEED_STAT_BAND = 0 →
    answers (.boostEnergyCheck v []) s fun t =>
      t.sp c = spRISE ∧
      (t.dieCh c).out = true) ∧
  (∀ (j : Fin 16) (s : State),
    s.sp (116 + j) = spWAIT →
    answers (.overlapTimeout j) s fun t =>
      t.sp (116 + j) = spOFF ∧
      (t.dieCh (116 + j)).mode = 0 ∧
      (s.vis (116 + j) = true → t.f (CH_S_FLAG_OVERLAP_REFUSED (116 + j)) = 1)) ∧
  (∀ (j : Fin 16) (s : State),
    s.runsIn (116 + j) spRISE = true →
    answers (.solenoidPeakReached j) s fun t =>
      t.sp (116 + j) = spHOLD ∨ t.sp (116 + j) = spPEAK ∧
      (s.vis 116 = true → t.sp (116 + j) = if s.f (CH_S_TIME_TPEAK (116 + j)) = 0 then spHOLD else spPEAK)) ∧
  (∀ (j : Fin 16) (i : BitVec 12) (s : State),
    s.runsIn (116 + j) spRISE = true →
    answers (.riseTimeout j i) s fun t =>
      (s.vis 116 = true → t.sp (116 + j) = if 4 * i.toNat < s.f (CH_S_CFG_IPEAK (116 + j)) then spQUENCH
    else if s.f (CH_S_TIME_TPEAK (116 + j)) = 0 then spHOLD else spPEAK) ∧
      (s.vis 116 = true → t.f (CH_S_FLAG_RISE_TIMEOUT (116 + j)) = 1)) ∧
  (∀ (j : Fin 16) (s : State),
    s.runsIn (116 + j) spPEAK = true →
    answers (.peakTimeEnd j) s fun t =>
      t.sp (116 + j) = spHOLD ∧
      t.ph (116 + j) = phON) ∧
  (∀ (j : Fin 16) (s : State),
    s.vis 116 = true →
    s.sp (116 + j) = spQUENCH →
    answers (.quenchEnd j) s fun t =>
      (s.ph (116 + j) = phOFF → (s.dieCh (116 + j)).after = phOFF → s.modeOf (116 + j) = 0 → t.sp (116 + j) = spOFF ∧ t.ph (116 + j) = phOFF) ∧
      ((s.dieCh (116 + j)).after ≠ phOFF → t.sp (116 + j) = spOFF ∧ t.ph (116 + j) = (s.dieCh (116 + j)).after)) ∧
  (∀ (j : Fin 16) (s : State),
    (spRISE ≤ s.sp (116 + j) ∧ s.sp (116 + j) ≤ spHOLD) →
    answers (.dutyTruncation j) s fun t =>
      t.sp (116 + j) = spQUENCH ∧
      (t.dieCh (116 + j)).mode = 0 ∧
      (t.dieCh (116 + j)).out = false ∧
      (s.vis (116 + j) = true → t.f (CH_S_FLAG_DUTY_TRUNC (116 + j)) = 1)) ∧
  (∀ (j : Fin 16) (s : State),
    (spRISE ≤ s.sp (116 + j) ∧ s.sp (116 + j) ≤ spHOLD) →
    answers (.chopShort j) s fun t =>
      t.sp (116 + j) = spQUENCH ∧
      (t.dieCh (116 + j)).latch = true ∧
      (s.vis (116 + j) = true → t.f (CH_S_FLAG_CHOP_SHORT (116 + j)) = 1)) ∧
  (∀ (k : Fin 4) (s : State),
    answers (.shGroupTrip k) s fun t =>
      bitOf t.boost.shTrip k = true)

/-- The dissipation ledger: steps, limits, pauses, stale input and seeding. A step of a running ledger counts a die that
did not report as one step staler and one that did as fresh (R168, R181), and keeps the dissipation and feed current
of the last 100 steps (R179). A limit exceeded for LIMIT_T starts shedding (R180). A turn-on paused longer than
PAUSE_MAX ends without fault as DEFERRED, a solenoid after its quench, with its flag (R178). From 3 stale steps no
channel of the die holds a permit, and from 100 STALE and the die's bit are set (R181). Seeding takes J and D of a
die from its hottest sensor and S and F from T_P, empties the means and sets RUNNING (R175). Says that these
complete: ledgerStep, limitTExpire, pauseMaxExpire, staleThreshold, ledgerSeed. -/
def Obligations.LedgerStepsLimitsPausesAndSeeds : Prop :=
  (∀ (reads : List DieReading) (s : State),
    s.ledgerRuns = true →
    answers (.ledgerStep reads) s fun t =>
      (∀ n : Fin 14, s.diePresent n = true → (t.ldgDie n).stale =
    if reads.any (fun r => r.link = n) then 0 else (s.ldgDie n).stale + 1) ∧
      t.ldg.modHist.length = min 100 (s.ldg.modHist.length + 1) ∧
      t.ldg.feedHist.length = min 100 (s.ldg.feedHist.length + 1)) ∧
  (∀ (s : State),
    s.ledgerRuns = true →
    answers (.limitTExpire) s fun t =>
      t.ldg.shedFeed = (s.ldg.shedFeed || (s.feedExceeded && 1000 * s.f LDG_LIMIT_LIMIT_T ≤ s.ldg.feedOver)) ∧
      t.ldg.shedMod = (s.ldg.shedMod || (s.modExceeded && 1000 * s.f LDG_LIMIT_LIMIT_T ≤ s.ldg.modOver))) ∧
  (∀ (c : Fin 132) (s : State),
    s.ph c = phPAUSED →
    answers (.pauseMaxExpire c) s fun t =>
      (chClass c < 4 → t.ph c = phDEFERRED) ∧
      (chClass c = 4 → t.sp c = spQUENCH ∧ (t.dieCh c).after = phDEFERRED ∧ t.ph c = phOFF) ∧
      (t.dieCh c).out = false ∧
      (s.vis c = true → t.f LDG_FLAG_PAUSE_MAX = 1 ∧ t.f (LDG_CHSTAT_INRUSH c) = 0)) ∧
  (∀ (n : Fin 14) (s : State),
    s.diePresent n = true →
    3 ≤ (s.ldgDie n).stale →
    answers (.staleThreshold n) s fun t =>
      (∀ c : Fin 132, chLink c = n → t.on (LDG_CHSTAT_PERMIT c) = false) ∧
      (100 ≤ (s.ldgDie n).stale → t.f LDG_FLAG_STALE = 1 ∧ t.f ⟨LDG_STAT, 16 + n.val, 1⟩ = 1)) ∧
  (∀ (kind : Fin 3) (r : DieReading) (gapUs : BitVec 64) (s : State),
    (s.boot.phase = .adopt ∨ s.boot.phase = .run) →
    s.clocked 13 = true →
    answers (.ledgerSeed kind [r] gapUs) s fun t =>
      t.f LDG_STAT_RUNNING = 1 ∧
      t.f LDG_STAT_SEEDING = 0 ∧
      t.ldg.modHist = [] ∧
      t.ldg.feedHist = [] ∧
      (s.diePresent r.link = true → (t.ldgDie r.link).tj = fromSixteenth r.hot.toNat ∧
    (t.ldgDie r.link).td = fromSixteenth r.hot.toNat ∧ (t.ldgDie r.link).ts = fromSixteenth r.tp.toNat ∧
    (t.ldgDie r.link).tf = fromSixteenth r.tp.toNat))

/-- A die takes the frames of its stage link, or discards them while it does not obey. A KEEPALIVE of the die's epoch
that is 1 to 16 ahead is accepted (R214, R215) and its loss leads an adopted die into HOLD (R216). A die that obeys
(R217) stores the CMD, PWM, TABLE and PARAM frame in front of its link (R126, R127, R212), enters HOLD on a HOLD
frame, is parked by PARK, takes ARM on links 1 to 10 and its hold window, and enters FAILSAFE on FS_APPLY (R216,
R219, R222, R228); in each case the frame leaves the link's queue. A die that does not obey discards CMD, PWM, TABLE
and PARAM frames and keeps what it holds. ADOPT with a new epoch adopts it (R216), and FS_RELEASE ends FAILSAFE of an
adopted die (R216, R225). Says that these complete: dieKeepalive, dieKeepaliveLoss, dieCmdFrame, diePwmFrame,
dieTableFrame, dieParamFrame, dieHold, diePark, dieAdopt, dieFsApply, dieFsRelease, dieLimpArm, dieHoldWin. -/
def Obligations.DiesTakeStageLinkFrames : Prop :=
  (∀ (n : Fin 15) (epoch : Byte) (seq : BitVec 16) (s : State),
    ((s.diePresent n ∧ s.kaEn n) ∨ (n.val = 14 ∧ s.fullPart)) →
    s.str.kaGo = true →
    (s.lnk n).adopted = true →
    answers (.dieKeepalive n epoch seq) s fun t =>
      (t.lnk n).seq = seq.toNat ∧
      ((t.die n).lastSeq = if epoch.toNat = (s.die n).epoch ∧ 1 ≤ (seq.toNat + 0x10000 - (s.die n).lastSeq) % 0x10000 ∧
    (seq.toNat + 0x10000 - (s.die n).lastSeq) % 0x10000 ≤ 16 ∧ (s.die n).st ≠ .notAdopted then seq.toNat else (s.die n).lastSeq) ∧
      t.regs = s.regs) ∧
  (∀ (n : Fin 14) (s : State),
    s.diePresent n = true →
    (s.die n).parked = false →
    (s.die n).st = .adopted →
    answers (.dieKeepaliveLoss n) s fun t =>
      (t.die n).st = .hold ∧
      (t.die n).winExp = false ∧
      t.dieChs = s.dieChs) ∧
  (∀ (n : Fin 14) (k mode dir stop tag : Nat) (r : Bool) (l : List LinkFrame) (s : State),
    s.diePresent n = true →
    (s.lnk n).trained = true →
    (s.lnk n).tx = .cmd k mode dir stop tag r :: l →
    chLink (linkFirst n + k) = n →
    answers (.dieCmdFrame n) s fun t =>
      (t.lnk n).tx = l ∧
      (s.dieObeys n = true → s.live n = false ∨ (chClass (linkFirst n + k) ≠ 3 ∧ s.f (CH_CMD_MODE (linkFirst n + k)) = mode) →
    (t.dieCh (linkFirst n + k)).tag = tag ∧ (chClass (linkFirst n + k) < 3 → (t.dieCh (linkFirst n + k)).mode = mode)) ∧
      (s.live n = true → t.f (CH_STATUS_LAST_TAG (linkFirst n + k)) = tag % 0x100) ∧
      (s.dieObeys n = false → t.dieChs = s.dieChs ∧ t.regs = s.regs)) ∧
  (∀ (n : Fin 14) (k duty pdiv phase : Nat) (only : Bool) (l : List LinkFrame) (s : State),
    s.diePresent n = true →
    (s.lnk n).trained = true →
    (s.lnk n).tx = .pwm k duty pdiv phase only :: l →
    chLink (linkFirst n + k) = n →
    answers (.diePwmFrame n) s fun t =>
      (t.lnk n).tx = l ∧
      (s.dieObeys n = true → chClass (linkFirst n + k) = 3 ∨ only = true → (t.dieCh (linkFirst n + k)).nextDuty = some duty) ∧
      (s.dieObeys n = true → chClass (linkFirst n + k) ≠ 3 → only = false → (t.dieCh (linkFirst n + k)).nextWord = some (duty, pdiv, phase)) ∧
      (s.dieObeys n = false → t.dieChs = s.dieChs ∧ t.regs = s.regs)) ∧
  (∀ (n : Fin 14) (k what : Nat) (i : Fin 32) (w : Nat) (l : List LinkFrame) (s : State),
    s.diePresent n = true →
    (s.lnk n).trained = true →
    (s.lnk n).tx = .table k what i.val w :: l →
    answers (.dieTableFrame n) s fun t =>
      (t.lnk n).tx = l ∧
      (s.dieObeys n = true → what = 0 → (t.dieCh (linkFirst n + k)).profPend = putAt (s.dieCh (linkFirst n + k)).profPend i.val w) ∧
      (s.dieObeys n = true → what = 1 → (t.dieCh (linkFirst n + k)).hi = putAt (s.dieCh (linkFirst n + k)).hi i.val w) ∧
      (s.dieObeys n = true → what = 2 → (t.dieCh (linkFirst n + k)).fs = w ∧ (t.die n).fsSeen = true) ∧
      (s.dieObeys n = false → t.dieChs = s.dieChs) ∧
      t.regs = s.regs) ∧
  (∀ (n : Fin 14) (k what v : Nat) (l : List LinkFrame) (s : State),
    s.diePresent n = true →
    (s.lnk n).trained = true →
    (s.lnk n).tx = .param k what v :: l →
    answers (.dieParamFrame n) s fun t =>
      (t.lnk n).tx = l ∧
      (s.dieObeys n = true → what = 0 → (t.dieCh (linkFirst n + k)).permit = decide (v ≠ 0)) ∧
      (s.dieObeys n = true → what = 1 → (t.dieCh (linkFirst n + k)).cap = v) ∧
      (s.dieObeys n = true → what = 2 → (t.dieCh (linkFirst n + k)).budget = v) ∧
      (s.dieObeys n = true → what = 4 → (t.dieCh (linkFirst n + k)).fuse = decide (v ≠ 0)) ∧
      (s.dieObeys n = true → what = 5 → chLink (linkFirst n + k) = n → (t.die n).gate = decide (v ≠ 0)) ∧
      (s.dieObeys n = false → t.dieChs = s.dieChs ∧ t.dies = s.dies) ∧
      (what ≠ 5 → t.regs = s.regs)) ∧
  (∀ (n : Fin 14) (l : List LinkFrame) (s : State),
    s.diePresent n = true →
    (s.lnk n).trained = true →
    (s.lnk n).tx = .hold :: l →
    (s.die n).st = .adopted →
    answers (.dieHold n) s fun t =>
      (t.lnk n).tx = l ∧
      (t.die n).st = .hold) ∧
  (∀ (n : Fin 14) (l : List LinkFrame) (s : State),
    s.diePresent n = true →
    (s.lnk n).trained = true →
    (s.lnk n).tx = .park :: l →
    s.dieObeys n = true →
    answers (.diePark n) s fun t =>
      (t.lnk n).tx = l ∧
      (t.die n).parked = true ∧
      regsBut [SOL_BST_STAT] s t ∧
      (n ≠ 13 → t.regs = s.regs)) ∧
  (∀ (n : Fin 14) (e : Nat) (l : List LinkFrame) (s : State),
    s.diePresent n = true →
    (s.lnk n).trained = true →
    (s.lnk n).tx = .adopt e :: l →
    (e ≠ (s.die n).epoch ∨ (s.die n).st = .notAdopted) →
    answers (.dieAdopt n) s fun t =>
      (t.lnk n).tx = l ∧
      ((t.die n).st = if (s.die n).st = .failsafe then .failsafe else .adopted) ∧
      (t.die n).adopted = true ∧
      (t.die n).epoch = e ∧
      (t.die n).parked = false ∧
      (t.die n).lastSeq = 0) ∧
  (∀ (n : Fin 14) (l : List LinkFrame) (s : State),
    s.diePresent n = true →
    (s.lnk n).trained = true →
    (s.lnk n).tx = .fsApply :: l →
    (s.die n).st = .adopted →
    answers (.dieFsApply n) s fun t =>
      (t.lnk n).tx = l ∧
      (t.die n).st = .failsafe ∧
      (t.die n).adopted = true ∧
      (s.live n = true → t.f STR_FS_FLAG_FS_APPLIED = 1)) ∧
  (∀ (n : Fin 14) (l : List LinkFrame) (s : State),
    s.diePresent n = true →
    (s.lnk n).trained = true →
    (s.lnk n).tx = .fsRelease :: l →
    (s.die n).st = .failsafe →
    (s.die n).adopted = true →
    answers (.dieFsRelease n) s fun t =>
      (t.lnk n).tx = l ∧
      (t.die n).st = .adopted ∧
      (s.live n = true → t.f (dieStateRF n) = 1)) ∧
  (∀ (n : Fin 14) (a : Bool) (l : List LinkFrame) (s : State),
    s.diePresent n = true →
    (s.lnk n).trained = true →
    (s.lnk n).tx = .limpArm a :: l →
    answers (.dieLimpArm n) s fun t =>
      (t.lnk n).tx = l ∧
      ((t.die n).arm = if s.dieObeys n ∧ n.val ≤ 10 then a else (s.die n).arm)) ∧
  (∀ (n : Fin 14) (ms : Nat) (l : List LinkFrame) (s : State),
    s.diePresent n = true →
    (s.lnk n).trained = true →
    (s.lnk n).tx = .holdWin ms :: l →
    s.dieObeys n = true →
    answers (.dieHoldWin n) s fun t =>
      (t.lnk n).tx = l ∧
      (t.die n).winMs = ms ∧
      t.regs = s.regs)

/-- Adoption, the frames of a die, the hold window and the loss and return of a link. Adopting a die counts it as adopted
with the next epoch and SEQ 0, clears its LOST_STATE, and sends ADOPT and the hold window behind the frames sent
(R115, R216). Its status is shown where it is adopted or its KA_EN is 0, and a report of HOLD or NOT_ADOPTED at the
current epoch is a loss where it is 1 (R212, R220, R520). A report frame puts current and VDS and shows CONDUCTING
(R168, R212). A stored event is delivered oldest first, an energy report adds to what the ledger takes next (R218,
R152). The hold window leads to FAILSAFE without adoption (R216), where pending turn-ons start one at a time (R223).
A lost link empties its queue and shows NOT_ADOPTED, LINK_LOST (R220), until it trains again, which it may once it
has supply and its lane is not clamped, outside a reset. A frame of a present link whose CRC fails or whose KIND is
undefined is discarded and counted (R211, R212, R519). Says that these complete: frameCrcDiscard, dieAdoption,
dieStatusFrame, dieReportFrame, dieEventFrame, holdWindowExpire, failsafeNextInrush, dieLinkLost, linkRetrain. -/
def Obligations.AdoptionReportsAndLossOfADie : Prop :=
  (∀ (n : Fin 15) (which : Fin 3) (w : BitVec 40) (s : State),
    s.linkPresent n = true →
    frameBad w.toNat = true →
    answers (.frameCrcDiscard n ⟨which, w⟩) s fun t =>
      (which = 0 → t.f (SYS_LINK_ERR_LG_RX n) = min (s.f (SYS_LINK_ERR_LG_RX n) + 1) 0xFFFF ∧ t.dies = s.dies ∧ t.links = s.links) ∧
      (which ≠ 0 → (t.die n).rxErr = min ((s.die n).rxErr + 1) 0xFFFF ∧ t.regs = s.regs) ∧
      (which = 2 → (t.lnk n).tx = (s.lnk n).tx.tail) ∧
      (which ≠ 2 → t.links = s.links)) ∧
  (∀ (n : Fin 14) (s : State),
    s.mayAdopt n = true →
    answers (.dieAdoption n) s fun t =>
      (t.lnk n).adopted = true ∧
      (t.lnk n).epoch = ((s.die n).epoch + 1) % 0x100 ∧
      (t.lnk n).seq = 0 ∧
      (t.die n).lost = false ∧
      (s.lnk n).tx ++ [.adopt (((s.die n).epoch + 1) % 0x100)] <+: (t.lnk n).tx) ∧
  (∀ (n : Fin 14) (s : State),
    s.diePresent n = true →
    (s.lnk n).trained = true →
    answers (.dieStatusFrame n) s fun t =>
      ((s.lnk n).adopted = false → s.kaEn n = false → t.f (dieStateRF n) =
    match (s.die n).st with | .notAdopted => 0 | .adopted => 1 | .hold => 2 | .failsafe => 3) ∧
      ((s.lnk n).adopted = false → s.kaEn n = true → t.regs = s.regs ∧ t.links = s.links) ∧
      ((s.lnk n).adopted = true → (s.die n).st = .adopted → t.f (dieStateRF n) = 1) ∧
      ((s.lnk n).adopted = true → (s.die n).st = .failsafe → t.f (dieStateRF n) = 3) ∧
      ((s.lnk n).adopted = true → (s.die n).st = .hold ∨ (s.die n).st = .notAdopted → (s.die n).epoch = (s.lnk n).epoch →
    s.kaEn n = true → (t.lnk n).adopted = false ∧ t.f (dieStateRF n) = 0 ∧ t.f STR_FS_FLAG_LINK_LOST = 1)) ∧
  (∀ (c : Fin 132) (i vds : BitVec 16) (s : State),
    s.vis c = true →
    s.chPresent c = true →
    answers (.dieReportFrame c i vds) s fun t =>
      ((t.chan c).lastI = if chClass c = 3 then (signed 16 i.toNat).natAbs else i.toNat) ∧
      (t.chan c).lastV = vds.toNat ∧
      t.f (CH_STATUS_CONDUCTING c) = b2n (s.conducts c)) ∧
  (∀ (n : Fin 14) (what : Fin 3) (v : BitVec 32) (e : DieEvent) (l : List DieEvent) (s : State),
    s.diePresent n = true →
    s.live n = true →
    (s.die n).events = e :: l →
    answers (.dieEventFrame n what v) s fun t =>
      (what = 0 → (t.die n).events = l ∧ (t.die n).evLost = 0 ∧ (t.lnk n).evLost = (s.lnk n).evLost + (s.die n).evLost) ∧
      (what = 0 → e.code = 6 → (t.ldgDie n).uj = (s.ldgDie n).uj + e.value) ∧
      (what = 0 → e.code = 7 → t.f (LDG_DX_OT_CNT n) = min (s.f (LDG_DX_OT_CNT n) + 1) (2 ^ (LDG_DX_OT_CNT n).w - 1)) ∧
      (what = 1 → (t.ldgDie n).uj = (s.ldgDie n).uj + v.toNat) ∧
      (what = 2 → t.f (SYS_LINK_ERR_DIE_RX n) = (s.die n).rxErr % 0x10000)) ∧
  (∀ (n : Fin 14) (s : State),
    s.diePresent n = true →
    (s.die n).st = .hold →
    answers (.holdWindowExpire n) s fun t =>
      (t.die n).st = .failsafe ∧
      (t.die n).adopted = false ∧
      (t.die n).winExp = true) ∧
  (∀ (n : Fin 14) (c : Nat) (s : State),
    s.diePresent n = true →
    s.fsFree n = true →
    ((linkChans n).find? (fun c => (s.dieCh c).fsPend && ((s.dieCh c).mode ≠ 2 || (s.dieCh c).nextWord.isNone)) = some c) →
    answers (.failsafeNextInrush n) s fun t =>
      (t.dieCh c).fsPend = false ∧
      ((s.dieCh c).latch = true ∨ (s.dieCh c).fuse = true ∨ (s.die n).ot = true ∨ (s.die n).gate = false → t.ph c = s.ph c) ∧
      ((s.dieCh c).latch = false → (s.dieCh c).fuse = false → (s.die n).ot = false → (s.die n).gate = true →
    t.ph c = if (s.dieCh c).mode = 2 then phPWM else phPROFILE)) ∧
  (∀ (n : Fin 14) (s : State),
    s.diePresent n = true →
    s.kaEn n = true →
    (s.lnk n).adopted = true →
    answers (.dieLinkLost n) s fun t =>
      (t.lnk n).adopted = false ∧
      (t.lnk n).trained = false ∧
      (t.lnk n).tx = [] ∧
      t.f (dieStateRF n) = 0 ∧
      t.f STR_FS_FLAG_LINK_LOST = 1 ∧
      t.f STR_FS_FLAG_LAST_LINK = n) ∧
  (∀ (n : Fin 14) (s : State),
    s.diePresent n = true →
    (s.lnk n).trained = false →
    (s.die n).uv = false →
    bitOf s.pwr.clamp 3 = false →
    s.boot.phase ≠ .reset →
    answers (.linkRetrain n) s fun t =>
      (t.lnk n).trained = true ∧
      (t.lnk n).adopted = (s.lnk n).adopted ∧
      regsBut [PWR_ISLAND_STAT, CLK_DLO_LOCK] s t)

/-- The Strongroom's permission, fail-safe and limp-home registers. KA_GO is re-armed by the released firmware and lapses
(R214). A Strongroom write of STR_KA_CTL puts KA_EN, and a link whose bit is 0 is no longer counted as adopted
(R520); of STR_FS_APPLY and STR_FS_RELEASE sends the frame on every link named and keeps or clears the cause (R224,
R225); of STR_LIMP_ARM sends the ARM bits on links 1 to 10 (R229); of a hold window from 10 to 500 puts it and sends
it (R219); of STR_PIN_CTL puts it and nothing else (R230); of a fail-safe entry puts it, ACTION 6 and 7 apart, and
sends it (R222). Accepted limp inputs are shown or held by the die (R227). In Run and Idle the Strongroom releases
every die in FAILSAFE whose causes are satisfied (R476). Says that these complete: kaGoRearm, kaGoLapse, kaEnWrite,
fsApplyWrite, fsReleaseWrite, limpArmWrite, holdWinWrite, pinCtlWrite, fsTableWrite, limpInputChange, fsReleaseEval. -/
def Obligations.StrongroomSetsHoldAndFailsafe : Prop :=
  (∀ (s : State),
    (s.boot.phase = .script ∨ s.boot.phase = .adopt ∨ s.boot.phase = .run ∨ s.boot.phase = .recovery) →
    answers (.kaGoRearm) s fun t =>
      t.str.kaGo = true ∧
      s.sameBut [.str] t) ∧
  (∀ (s : State),
    answers (.kaGoLapse) s fun t =>
      t.str.kaGo = false ∧
      s.sameBut [.str] t) ∧
  (∀ (init : Byte) (w : Word) (s : State),
    isStr init.toNat = true →
    answers (.kaEnWrite init w) s fun t =>
      t.reg STR_KA_CTL = w &&& 0x3FFE#32 ∧
      (∀ n : Fin 14, s.diePresent n = true → (t.lnk n).adopted = ((s.lnk n).adopted && t.kaEn n)) ∧
      regsBut (STR_KA_CTL :: stampRegs) s t) ∧
  (∀ (init : Byte) (w : Word) (s : State),
    isStr init.toNat = true →
    answers (.fsApplyWrite init w) s fun t =>
      (∀ n : Fin 14, s.diePresent n = true → bitOf w.toNat n = true → (t.lnk n).tx = (s.lnk n).tx ++ [.fsApply] ∧
    bitOf (t.lnk n).cause 3 = true) ∧
      (∀ n : Fin 14, bitOf w.toNat n = false → t.lnk n = s.lnk n) ∧
      regsBut stampRegs s t) ∧
  (∀ (init : Byte) (w : Word) (s : State),
    isStr init.toNat = true →
    answers (.fsReleaseWrite init w) s fun t =>
      (∀ n : Fin 14, s.diePresent n = true → bitOf w.toNat n = true → (t.lnk n).tx = (s.lnk n).tx ++ [.fsRelease] ∧
    (t.lnk n).cause = 0) ∧
      (∀ n : Fin 14, bitOf w.toNat n = false → t.lnk n = s.lnk n) ∧
      regsBut stampRegs s t) ∧
  (∀ (init : Byte) (w : Word) (s : State),
    isStr init.toNat = true →
    answers (.limpArmWrite init w) s fun t =>
      t.reg STR_LIMP_ARM = w &&& 0x7FE#32 ∧
      (∀ n : Fin 14, s.diePresent n = true → n.val ≤ 10 → (t.lnk n).tx = (s.lnk n).tx ++ [.limpArm (bitOf w.toNat n)]) ∧
      regsBut (STR_LIMP_ARM :: stampRegs) s t) ∧
  (∀ (init : Byte) (n : Fin 14) (w : Word) (s : State),
    isStr init.toNat = true →
    n.val ≠ 0 →
    (10 ≤ w.toNat % 0x200 ∧ w.toNat % 0x200 ≤ 500) →
    answers (.holdWinWrite init n w) s fun t =>
      t.f (STR_HOLD_WIN_WIN_MS n) = w.toNat % 0x200 ∧
      (s.diePresent n = true → (t.lnk n).tx = (s.lnk n).tx ++ [.holdWin (w.toNat % 0x200)]) ∧
      regsBut (STR_HOLD_WIN n :: stampRegs) s t) ∧
  (∀ (init : Byte) (w : Word) (s : State),
    isStr init.toNat = true →
    answers (.pinCtlWrite init w) s fun t =>
      t.reg STR_PIN_CTL = w &&& 3#32 ∧
      regsBut (STR_PIN_CTL :: stampRegs) s t ∧
      s.sameBut [.regs, .islands] t) ∧
  (∀ (init : Byte) (c : Fin 132) (w : Word) (s : State),
    isStr init.toNat = true →
    s.chPresent c = true →
    answers (.fsTableWrite init c w) s fun t =>
      ((STR_FS_TABLE_ACTION c).get w < 6 → t.reg (STR_FS_TABLE c) = w &&& 0x3FF7F7FF#32) ∧
      (6 ≤ (STR_FS_TABLE_ACTION c).get w → t.f (STR_FS_TABLE_ACTION c) = s.f (STR_FS_TABLE_ACTION c)) ∧
      (t.lnk (chLink c)).tx = (s.lnk (chLink c)).tx ++ [.table (c - linkFirst (chLink c)) 2 0 (t.reg (STR_FS_TABLE c)).toNat] ∧
      regsBut [STR_FS_TABLE c] s t) ∧
  (∀ (n : Fin 11) (levels : BitVec 9) (s : State),
    answers (.limpInputChange n levels) s fun t =>
      (n.val = 0 → t.f STR_LIMP_STAT_LIMP = levels.toNat % 0x100 ∧ t.f STR_LIMP_STAT_LIMP_EN = levels.toNat / 0x100) ∧
      (s.diePresent n = true → (t.die n).limp = levels.toNat)) ∧
  (∀ (s : State),
    s.boot.phase = .run →
    s.f PWR_STATE_STATE < 2 →
    answers (.fsReleaseEval) s fun t =>
      (∀ n : Fin 14, s.diePresent n = true → s.f (dieStateRF n) = 3 → s.fsSatisfied n = true →
    (t.lnk n).tx = (s.lnk n).tx ++ [.fsRelease] ∧ (t.lnk n).cause = 0) ∧
      (∀ n : Fin 14, s.f (dieStateRF n) ≠ 3 ∨ s.fsSatisfied n = false → t.lnk n = s.lnk n))

/-- Writes to the Strongroom's hold and fail-safe registers by other initiators are dropped and recorded. A write of
STR_KA_CTL, STR_FS_APPLY, STR_FS_RELEASE, STR_LIMP_ARM, a hold window, STR_PIN_CTL or a fail-safe entry by an
initiator that is not the Strongroom changes nothing but the drop count with its initiator, the drop address and the
stamp of the drop (R12, R468). Says that these complete: kaEnWrite, fsApplyWrite, fsReleaseWrite, limpArmWrite,
holdWinWrite, pinCtlWrite, fsTableWrite. -/
def Obligations.StrongroomBytesRefuseOtherWriters : Prop :=
  (∀ (init : Byte) (w : Word) (s : State),
    isStr init.toNat = false →
    answers (.kaEnWrite init w) s fun t =>
      t.f STR_DROP_CNT_COUNT = min (s.f STR_DROP_CNT_COUNT + 1) (2 ^ STR_DROP_CNT_COUNT.w - 1) ∧
      t.f STR_DROP_CNT_LAST_INIT = init.toNat ∧
      t.reg STR_DROP_ADDR = BitVec.ofNat 32 (STR_KA_CTL) ∧
      regsBut ([STR_DROP_CNT, STR_DROP_ADDR] ++ stampRegs) s t ∧
      s.sameBut [.regs, .islands] t) ∧
  (∀ (init : Byte) (w : Word) (s : State),
    isStr init.toNat = false →
    answers (.fsApplyWrite init w) s fun t =>
      t.f STR_DROP_CNT_COUNT = min (s.f STR_DROP_CNT_COUNT + 1) (2 ^ STR_DROP_CNT_COUNT.w - 1) ∧
      t.f STR_DROP_CNT_LAST_INIT = init.toNat ∧
      t.reg STR_DROP_ADDR = BitVec.ofNat 32 (STR_FS_APPLY) ∧
      regsBut ([STR_DROP_CNT, STR_DROP_ADDR] ++ stampRegs) s t ∧
      s.sameBut [.regs, .islands] t) ∧
  (∀ (init : Byte) (w : Word) (s : State),
    isStr init.toNat = false →
    answers (.fsReleaseWrite init w) s fun t =>
      t.f STR_DROP_CNT_COUNT = min (s.f STR_DROP_CNT_COUNT + 1) (2 ^ STR_DROP_CNT_COUNT.w - 1) ∧
      t.f STR_DROP_CNT_LAST_INIT = init.toNat ∧
      t.reg STR_DROP_ADDR = BitVec.ofNat 32 (STR_FS_RELEASE) ∧
      regsBut ([STR_DROP_CNT, STR_DROP_ADDR] ++ stampRegs) s t ∧
      s.sameBut [.regs, .islands] t) ∧
  (∀ (init : Byte) (w : Word) (s : State),
    isStr init.toNat = false →
    answers (.limpArmWrite init w) s fun t =>
      t.f STR_DROP_CNT_COUNT = min (s.f STR_DROP_CNT_COUNT + 1) (2 ^ STR_DROP_CNT_COUNT.w - 1) ∧
      t.f STR_DROP_CNT_LAST_INIT = init.toNat ∧
      t.reg STR_DROP_ADDR = BitVec.ofNat 32 (STR_LIMP_ARM) ∧
      regsBut ([STR_DROP_CNT, STR_DROP_ADDR] ++ stampRegs) s t ∧
      s.sameBut [.regs, .islands] t) ∧
  (∀ (init : Byte) (n : Fin 14) (w : Word) (s : State),
    isStr init.toNat = false →
    n.val ≠ 0 →
    answers (.holdWinWrite init n w) s fun t =>
      t.f STR_DROP_CNT_COUNT = min (s.f STR_DROP_CNT_COUNT + 1) (2 ^ STR_DROP_CNT_COUNT.w - 1) ∧
      t.f STR_DROP_CNT_LAST_INIT = init.toNat ∧
      t.reg STR_DROP_ADDR = BitVec.ofNat 32 (STR_HOLD_WIN n) ∧
      regsBut ([STR_DROP_CNT, STR_DROP_ADDR] ++ stampRegs) s t ∧
      s.sameBut [.regs, .islands] t) ∧
  (∀ (init : Byte) (w : Word) (s : State),
    isStr init.toNat = false →
    answers (.pinCtlWrite init w) s fun t =>
      t.f STR_DROP_CNT_COUNT = min (s.f STR_DROP_CNT_COUNT + 1) (2 ^ STR_DROP_CNT_COUNT.w - 1) ∧
      t.f STR_DROP_CNT_LAST_INIT = init.toNat ∧
      t.reg STR_DROP_ADDR = BitVec.ofNat 32 (STR_PIN_CTL) ∧
      regsBut ([STR_DROP_CNT, STR_DROP_ADDR] ++ stampRegs) s t ∧
      s.sameBut [.regs, .islands] t) ∧
  (∀ (init : Byte) (c : Fin 132) (w : Word) (s : State),
    isStr init.toNat = false →
    answers (.fsTableWrite init c w) s fun t =>
      t.f STR_DROP_CNT_COUNT = min (s.f STR_DROP_CNT_COUNT + 1) (2 ^ STR_DROP_CNT_COUNT.w - 1) ∧
      t.f STR_DROP_CNT_LAST_INIT = init.toNat ∧
      t.reg STR_DROP_ADDR = BitVec.ofNat 32 (STR_FS_TABLE c) ∧
      regsBut ([STR_DROP_CNT, STR_DROP_ADDR] ++ stampRegs) s t ∧
      s.sameBut [.regs, .islands] t)

/-- The slate, the Dailies and frame sync. A correction leaves an island within two ticks of the reference (R275; where
within is a free value, log entry 4). The first synchronisation captures OFS; later ones lock below 1 µs, slew up to
1 ms, and beyond that capture OFS again with TIMEBASE_STEP; without any for 3 s the state is HOLDOVER (R278). A
record leaves its island's FIFO for the ring at INDEX, which advances modulo 8192 (R281), a LOST record enters it
(R280), an archive covers the pending records and ends (R285). A free boundary lies one period after the last within
P / 8, one under FSYNC leaves FREE (R287 to R290); a live die that has no shift left to make takes it, and a die
whose oscillator runs takes the staged PWM word, or the staged DUTY, at its boundary (R127, R288). An edge of the
chosen polarity is stamped with its interval (R289), and missing edges end the lock while the Spine island is clocked
(R290). Says that these complete: slateCorrection, gptpSync, gptpHoldover, dailiesRecordWrite, dailiesLostRecord,
archiveRequest, archiveDone, frameBoundaryDecide, dieFrameBoundary, fsyncEdge, fsyncMissing. -/
def Obligations.SlateDailiesAndFrameSync : Prop :=
  (∀ (isl : Fin 30) (s : State),
    s.corrected isl = true →
    answers (.slateCorrection isl) s fun t =>
      -2 ≤ (t.island isl).ofs ∧ (t.island isl).ofs ≤ 2 ∧
      (t.island isl).recs = (s.island isl).recs ∧
      t.free = s.free + 1 ∧
      s.sameBut [.free, .islands] t) ∧
  (∀ (ns : BitVec 64) (s : State),
    s.frm.captured = false →
    s.clocked 10 = true →
    s.boot.xtalBad = false →
    answers (.gptpSync ns) s fun t =>
      t.frm.captured = true ∧
      t.f FRM_GPTP_STAT_STATE = 2 ∧
      (t.reg FRM_GPTP_OFS_LO).toNat + (t.reg FRM_GPTP_OFS_HI).toNat * 2 ^ 32 = unsigned 64 ((ns.toNat : Int) - 8 * s.now)) ∧
  (∀ (ns : BitVec 64) (e : Int) (s : State),
    s.frm.captured = true →
    e = (ns.toNat : Int) - 8 * s.now - s.gptpOfs →
    s.clocked 10 = true →
    s.boot.xtalBad = false →
    answers (.gptpSync ns) s fun t =>
      (e.natAbs < 1000 → t.f FRM_GPTP_STAT_STATE = 2 ∧ t.gptpOfs = s.gptpOfs) ∧
      (1000 ≤ e.natAbs → e.natAbs ≤ 1000000 → t.f FRM_GPTP_STAT_STATE = 1 ∧ t.gptpOfs = s.gptpOfs ∧ t.frm.slewPpm.natAbs ≤ 500) ∧
      (1000000 < e.natAbs → t.f FRM_GPTP_STAT_STATE = 2 ∧ t.f FRM_FLAG_TIMEBASE_STEP = 1 ∧
    (t.reg FRM_GPTP_OFS_LO).toNat + (t.reg FRM_GPTP_OFS_HI).toNat * 2 ^ 32 = unsigned 64 ((ns.toNat : Int) - 8 * s.now))) ∧
  (∀ (s : State),
    (s.f FRM_GPTP_STAT_STATE = 1 ∨ s.f FRM_GPTP_STAT_STATE = 2) →
    s.clocked 2 = true →
    answers (.gptpHoldover) s fun t =>
      t.f FRM_GPTP_STAT_STATE = 3 ∧
      t.f FRM_FLAG_GPTP_LOST = 1 ∧
      regsBut ([FRM_GPTP_STAT, FRM_FLAG, FRM_FLAG_CNT] ++ stampRegs) s t) ∧
  (∀ (isl : Fin 30) (r : DailyRec) (l : List DailyRec) (s : State),
    (s.island isl).recs = r :: l →
    s.clocked 2 = true →
    answers (.dailiesRecordWrite isl) s fun t =>
      (t.island isl).recs = l ∧
      t.rdBytes (dlyRing + 32 * s.f DLY_WR_INDEX) 32 = r.bytes ∧
      t.f DLY_WR_INDEX = (s.f DLY_WR_INDEX + 1) % 8192) ∧
  (∀ (isl : Fin 30) (s : State),
    (s.island isl).lost ≠ 0 →
    (s.island isl).recs.length < 16 →
    s.clocked isl = true →
    answers (.dailiesLostRecord isl) s fun t =>
      (t.island isl).lost = 0 ∧
      (t.island isl).recs.length = (s.island isl).recs.length + 1 ∧
      (t.island isl).recs.getLast?.map (fun r => (r.unit, r.event, r.data)) =
    some (0x09, 0x02, BitVec.ofNat 128 (isl + (s.island isl).lost % 2 ^ 24 * 0x100))) ∧
  (∀ (init : Byte) (s : State),
    s.clocked 2 = true →
    answers (.archiveRequest init) s fun t =>
      t.f DLY_ARCH_CTL_BUSY = 1 ∧
      t.dly.cover = s.dly.pend.length ∧
      regsBut [DLY_ARCH_CTL] s t) ∧
  (∀ (bad : List (BitVec 16)) (s : State),
    s.on DLY_ARCH_CTL_BUSY = true →
    answers (.archiveDone bad) s fun t =>
      t.f DLY_ARCH_CTL_BUSY = 0 ∧
      t.dly.pend = s.dly.pend.drop s.dly.cover ∧
      t.dly.cover = 0 ∧
      t.f DLY_ARCH_STAT_PENDING = (s.dly.pend.length - s.dly.cover) % 2 ^ DLY_ARCH_STAT_PENDING.w) ∧
  (∀ (s : State),
    s.clocked 2 = true →
    (s.expansion = false ∨ s.f TRK_STAT_SYNC ≠ 1) →
    (s.on FRM_CFG_FSYNC_EN = false ∨ s.f FRM_LOCK_STATE = 0 ∨ s.reg FRM_FSYNC_INT = 0) →
    answers (.frameBoundaryDecide) s fun t =>
      t.f FRM_LOCK_STATE = 0 ∧
      ((t.frm.prev : Int) - (s.frm.prev + s.framePeriod)).natAbs ≤ (s.framePeriod / 8).natAbs ∧
      (∀ n : Fin 14, s.live n = true → (s.die n).pull = 0 → s.diePresent n = true → (t.die n).boundary = t.frm.prev)) ∧
  (∀ (s : State),
    (s.expansion = false ∨ s.f TRK_STAT_SYNC ≠ 1) →
    s.on FRM_CFG_FSYNC_EN = true →
    s.f FRM_LOCK_STATE ≠ 0 →
    s.reg FRM_FSYNC_INT ≠ 0 →
    s.clocked 2 = true →
    answers (.frameBoundaryDecide) s fun t =>
      1 ≤ t.f FRM_LOCK_STATE) ∧
  (∀ (n : Fin 14) (s : State),
    s.diePresent n = true →
    (s.die n).stopped = false →
    answers (.dieFrameBoundary n) s fun t =>
      (∀ c : Fin 132, chLink c = n → (t.dieCh c).nextWord = none ∧ (t.dieCh c).duty =
    match (s.dieCh c).nextWord with
    | some (d, _, _) => d
    | none => if chClass c < 3 then (s.dieCh c).nextDuty.getD (s.dieCh c).duty else (s.dieCh c).duty)) ∧
  (∀ (falling : Bool) (s : State),
    s.on FRM_CFG_FSYNC_POL = falling →
    s.clocked 2 = true →
    answers (.fsyncEdge falling) s fun t =>
      (t.reg FRM_FSYNC_LAST_LO).toNat + (t.reg FRM_FSYNC_LAST_HI).toNat * 2 ^ 32 = s.now ∧
      t.frm.edges = min 2 (s.frm.edges + 1) ∧
      (1 ≤ s.frm.edges → t.reg FRM_FSYNC_INT = BitVec.ofNat 32 (s.now - ((s.reg FRM_FSYNC_LAST_LO).toNat +
    (s.reg FRM_FSYNC_LAST_HI).toNat * 2 ^ 32))) ∧
      regsBut [FRM_FSYNC_LAST_LO, FRM_FSYNC_LAST_HI, FRM_FSYNC_INT, FRM_LOCK] s t) ∧
  (∀ (s : State),
    s.f FRM_LOCK_STATE ≠ 0 →
    s.clocked 2 = true →
    answers (.fsyncMissing) s fun t =>
      t.f FRM_LOCK_STATE = 0 ∧
      t.frm.edges = 0 ∧
      t.f FRM_FLAG_FSYNC_MISSING = 1 ∧
      regsBut ([FRM_LOCK, FRM_FLAG, FRM_FLAG_CNT] ++ stampRegs) s t)

/-- Full resets record their cause and leave every die with a hold. A full reset that is due, RESET_N low, a Spine
transaction hung on an island in Run or Idle after the release of the Strongroom, a missing crew heartbeat, a failed
crystal, a lapse of KA_GO and a lockstep mismatch each enter a full reset (R110; R63, R102, R472, R106, R467, R465):
the state stands as resetEntered says, and with the register file in canonical form SYS_RESET_CAUSE holds the cause
of R108. During power-on reset RESET_N only holds the module (R61). HANG_RECORD_CLEAR clears VALID; a DLO of a
present island that unlocks sets its flag and its bit falls, and without output the island stops (R106). Says that
these complete: fullResetEntry, resetPinAssert, resetPinRelease, spineHang, hangRecordClear, crewHeartbeatMiss,
dloUnlock, xtalFail, kaLapseReset, lockstepMismatch. -/
def Obligations.FullResetsRecordCauseAndHold : Prop :=
  (∀ (c d i : Nat) (s : State),
    s.boot.due = some (c, d, i) →
    s.canonical = true →
    answers (.fullResetEntry) s fun t =>
      s.resetEntered t ∧
      t.f SYS_RESET_CAUSE_CAUSE = c % 2 ^ SYS_RESET_CAUSE_CAUSE.w ∧
      t.f SYS_RESET_CAUSE_INITIATOR = i % 2 ^ SYS_RESET_CAUSE_INITIATOR.w) ∧
  (∀ (s : State),
    s.canonical = true →
    answers (.resetPinAssert) s fun t =>
      t.boot.pinLow = true ∧
      (s.boot.por = true → s.sameBut [.boot] t) ∧
      (s.boot.por = false → s.resetEntered t ∧ t.f SYS_RESET_CAUSE_CAUSE = 1)) ∧
  (∀ (s : State),
    answers (.resetPinRelease) s fun t =>
      t.boot.pinLow = false ∧
      s.sameBut [.boot] t) ∧
  (∀ (isl : Fin 30) (x : SpineTx) (s : State),
    s.hung isl = some x →
    s.f PWR_STATE_STATE < 2 →
    (s.boot.phase = .script ∨ s.boot.phase = .adopt ∨ s.boot.phase = .run ∨ s.boot.phase = .recovery) →
    s.canonical = true →
    answers (.spineHang isl) s fun t =>
      s.resetEntered t ∧
      t.f SYS_RESET_CAUSE_CAUSE = 3 ∧
      t.f SYS_RESET_CAUSE_DETAIL = isl ∧
      t.f SYS_HANG_INFO_VALID = 1 ∧
      t.f SYS_HANG_INFO_ISLAND = isl ∧
      t.reg SYS_HANG_ADDR = BitVec.ofNat 32 x.addr) ∧
  (∀ (s : State),
    answers (.hangRecordClear) s fun t =>
      t.f SYS_HANG_INFO_VALID = 0 ∧
      regsBut [SYS_HANG_INFO] s t ∧
      s.sameBut [.regs] t) ∧
  (∀ (c : Fin 6) (s : State),
    s.crewPresent c = true →
    bitOf (s.f STR_HB_STAT_SUPERVISED) c = true →
    s.f PWR_STATE_STATE < 2 →
    s.boot.phase = .run →
    s.canonical = true →
    answers (.crewHeartbeatMiss c) s fun t =>
      s.resetEntered t ∧
      t.f SYS_RESET_CAUSE_CAUSE = 2 ∧
      t.f SYS_RESET_CAUSE_DETAIL = c) ∧
  (∀ (isl : Fin 30) (absent : Bool) (s : State),
    isDlo isl = true →
    s.islandPresent isl = true →
    answers (.dloUnlock isl absent) s fun t =>
      t.f CLK_OSC_FLAG_DLO_UNLOCK = 1 ∧
      t.f CLK_OSC_FLAG_LAST_ISLAND = isl ∧
      t.f ⟨CLK_DLO_LOCK, isl, 1⟩ = 0 ∧
      (absent = true → t.f ⟨PWR_ISLAND_STAT, isl, 1⟩ = 0) ∧
      (regsBut ([CLK_OSC_FLAG, CLK_OSC_FLAG_CNT, CLK_DLO_LOCK] ++ (if absent then [PWR_ISLAND_STAT] else []) ++ stampRegs) s t)) ∧
  (∀ (s : State),
    s.canonical = true →
    answers (.xtalFail) s fun t =>
      s.resetEntered t ∧
      t.boot.xtalBad = true ∧
      t.f SYS_RESET_CAUSE_CAUSE = 7) ∧
  (∀ (s : State),
    s.str.kaGo = false →
    (s.boot.phase = .script ∨ s.boot.phase = .adopt ∨ s.boot.phase = .run ∨ s.boot.phase = .recovery) →
    s.canonical = true →
    answers (.kaLapseReset) s fun t =>
      s.resetEntered t ∧
      t.f SYS_RESET_CAUSE_CAUSE = 4) ∧
  (∀ (s : State),
    s.canonical = true →
    answers (.lockstepMismatch) s fun t =>
      s.resetEntered t ∧
      t.f SYS_RESET_CAUSE_CAUSE = 4 ∧
      (t.f SYS_RESET_CAUSE_DETAIL = if s.str.cabFail then 4 else 1))

/-- CE8 byte instructions on two registers. Where the engine executes the instruction (a handler runs, its level does not
wait, the fetch lies in range, a delay slot or prefix admits it), MOV, ADD, ADC, SUB, SBC, AND, OR, XOR, CMP and TST
complete with the result and the flags that R235 and R243 give, of the operands as the instruction sees them (R248);
CMP and TST write no register; a flag the row does not name keeps its value; no other byte register, engine, byte of
memory or register of the map changes, and PC and cycles advance (R243). Says that these complete: mov, add, adc,
sub, sbc, and, or, xor, cmp, tst. -/
def Obligations.ByteInstructionsComputeResultAndFlags : Prop :=
  (∀ (g : Fin 48) (d r : Fin 16) (s : State),
    s.admits g insAlu = true →
    answers (.mov g d r) s fun t =>
      t.lastB g d = s.bR g r roData % 256 ∧
      s.flagsKept t g = true ∧
      s.ranTo t g insAlu 0 none = true ∧
      s.engBut t g [d]) ∧
  (∀ (g : Fin 48) (d r : Fin 16) (s : State),
    s.admits g insAlu = true →
    answers (.add g d r) s fun t =>
      let a := s.bR g d roData; let b := s.bR g r roData; let x := (a + b) % 256
    t.lastB g d = x ∧ t.flagsAre g (x = 0) (256 ≤ a + b) (128 ≤ x) (signed 8 a + signed 8 b < -128 ∨ 127 < signed 8 a + signed 8 b) ∧
      s.ranTo t g insAlu 0 none = true ∧
      s.engBut t g [d]) ∧
  (∀ (g : Fin 48) (d r : Fin 16) (s : State),
    s.admits g insAlu = true →
    answers (.adc g d r) s fun t =>
      let a := s.bR g d roData; let b := s.bR g r roData; let k := b2n (s.flR g 1 roCarry); let x := (a + b + k) % 256
    t.lastB g d = x ∧ t.flagsAre g (x = 0) (256 ≤ a + b + k) (128 ≤ x) (signed 8 a + signed 8 b + k < -128 ∨ 127 < signed 8 a + signed 8 b + k) ∧
      s.ranTo t g insAlu 0 none = true ∧
      s.engBut t g [d]) ∧
  (∀ (g : Fin 48) (d r : Fin 16) (s : State),
    s.admits g insAlu = true →
    answers (.sub g d r) s fun t =>
      let a := s.bR g d roData; let b := s.bR g r roData; let x := unsigned 8 ((a : Int) - b)
    t.lastB g d = x ∧ t.flagsAre g (x = 0) (a < b) (128 ≤ x) (signed 8 a - signed 8 b < -128 ∨ 127 < signed 8 a - signed 8 b) ∧
      s.ranTo t g insAlu 0 none = true ∧
      s.engBut t g [d]) ∧
  (∀ (g : Fin 48) (d r : Fin 16) (s : State),
    s.admits g insAlu = true →
    answers (.sbc g d r) s fun t =>
      let a := s.bR g d roData; let b := s.bR g r roData; let k := b2n (s.flR g 1 roCarry); let x := unsigned 8 ((a : Int) - b - k)
    t.lastB g d = x ∧ t.flagsAre g (x = 0) (a < b + k) (128 ≤ x) (signed 8 a - signed 8 b - k < -128 ∨ 127 < signed 8 a - signed 8 b - k) ∧
      s.ranTo t g insAlu 0 none = true ∧
      s.engBut t g [d]) ∧
  (∀ (g : Fin 48) (d r : Fin 16) (s : State),
    s.admits g insAlu = true →
    answers (.and g d r) s fun t =>
      let a := s.bR g d roData; let b := s.bR g r roData; let x := (a &&& b) % 256
    t.lastB g d = x ∧ t.flagsAre g (x = 0) ((s.eng g).cur.c) (128 ≤ x) (false) ∧
      s.ranTo t g insAlu 0 none = true ∧
      s.engBut t g [d]) ∧
  (∀ (g : Fin 48) (d r : Fin 16) (s : State),
    s.admits g insAlu = true →
    answers (.or g d r) s fun t =>
      let a := s.bR g d roData; let b := s.bR g r roData; let x := (a ||| b) % 256
    t.lastB g d = x ∧ t.flagsAre g (x = 0) ((s.eng g).cur.c) (128 ≤ x) (false) ∧
      s.ranTo t g insAlu 0 none = true ∧
      s.engBut t g [d]) ∧
  (∀ (g : Fin 48) (d r : Fin 16) (s : State),
    s.admits g insAlu = true →
    answers (.xor g d r) s fun t =>
      let a := s.bR g d roData; let b := s.bR g r roData; let x := (a ^^^ b) % 256
    t.lastB g d = x ∧ t.flagsAre g (x = 0) ((s.eng g).cur.c) (128 ≤ x) (false) ∧
      s.ranTo t g insAlu 0 none = true ∧
      s.engBut t g [d]) ∧
  (∀ (g : Fin 48) (d r : Fin 16) (s : State),
    s.admits g insAlu = true →
    answers (.cmp g d r) s fun t =>
      let a := s.bR g d roData; let b := s.bR g r roData; let x := unsigned 8 ((a : Int) - b)
    t.flagsAre g (x = 0) (a < b) (128 ≤ x) (signed 8 a - signed 8 b < -128 ∨ 127 < signed 8 a - signed 8 b) ∧
      s.ranTo t g insAlu 0 none = true ∧
      s.engBut t g []) ∧
  (∀ (g : Fin 48) (d r : Fin 16) (s : State),
    s.admits g insAlu = true →
    answers (.tst g d r) s fun t =>
      let a := s.bR g d roData; let b := s.bR g r roData; let x := (a &&& b) % 256
    t.flagsAre g (x = 0) ((s.eng g).cur.c) (128 ≤ x) (false) ∧
      s.ranTo t g insAlu 0 none = true ∧
      s.engBut t g [])

/-- CE8 byte instructions on a register and an immediate, or on one register. Where the engine executes the instruction,
LDI, ADDI, SUBI, ANDI, ORI, XORI, CMPI, INC, DEC, NEG and NOT complete with the result and the flags that R235 and
R243 give; CMPI writes no register; a flag the row does not name keeps its value; no other byte register, engine,
byte of memory or register of the map changes, and PC and cycles advance (R243). Says that these complete: ldi, addi,
subi, andi, ori, xori, cmpi, inc, dec, neg, not. -/
def Obligations.ByteImmediateInstructionsComputeResultAndFlags : Prop :=
  (∀ (g : Fin 48) (d : Fin 16) (i : Byte) (s : State),
    s.admits g insAlu = true →
    answers (.ldi g d i) s fun t =>
      t.lastB g d = i.toNat ∧
      s.flagsKept t g = true ∧
      s.ranTo t g insAlu 0 none = true ∧
      s.engBut t g [d]) ∧
  (∀ (g : Fin 48) (d : Fin 16) (i : Byte) (s : State),
    s.admits g insAlu = true →
    answers (.addi g d i) s fun t =>
      let a := s.bR g d roData; let b := i.toNat; let x := (a + b) % 256
    t.lastB g d = x ∧ t.flagsAre g (x = 0) (256 ≤ a + b) (128 ≤ x) (signed 8 a + signed 8 b < -128 ∨ 127 < signed 8 a + signed 8 b) ∧
      s.ranTo t g insAlu 0 none = true ∧
      s.engBut t g [d]) ∧
  (∀ (g : Fin 48) (d : Fin 16) (i : Byte) (s : State),
    s.admits g insAlu = true →
    answers (.subi g d i) s fun t =>
      let a := s.bR g d roData; let b := i.toNat; let x := unsigned 8 ((a : Int) - b)
    t.lastB g d = x ∧ t.flagsAre g (x = 0) (a < b) (128 ≤ x) (signed 8 a - signed 8 b < -128 ∨ 127 < signed 8 a - signed 8 b) ∧
      s.ranTo t g insAlu 0 none = true ∧
      s.engBut t g [d]) ∧
  (∀ (g : Fin 48) (d : Fin 16) (i : Byte) (s : State),
    s.admits g insAlu = true →
    answers (.andi g d i) s fun t =>
      let a := s.bR g d roData; let b := i.toNat; let x := (a &&& b) % 256
    t.lastB g d = x ∧ t.flagsAre g (x = 0) ((s.eng g).cur.c) (128 ≤ x) (false) ∧
      s.ranTo t g insAlu 0 none = true ∧
      s.engBut t g [d]) ∧
  (∀ (g : Fin 48) (d : Fin 16) (i : Byte) (s : State),
    s.admits g insAlu = true →
    answers (.ori g d i) s fun t =>
      let a := s.bR g d roData; let b := i.toNat; let x := (a ||| b) % 256
    t.lastB g d = x ∧ t.flagsAre g (x = 0) ((s.eng g).cur.c) (128 ≤ x) (false) ∧
      s.ranTo t g insAlu 0 none = true ∧
      s.engBut t g [d]) ∧
  (∀ (g : Fin 48) (d : Fin 16) (i : Byte) (s : State),
    s.admits g insAlu = true →
    answers (.xori g d i) s fun t =>
      let a := s.bR g d roData; let b := i.toNat; let x := (a ^^^ b) % 256
    t.lastB g d = x ∧ t.flagsAre g (x = 0) ((s.eng g).cur.c) (128 ≤ x) (false) ∧
      s.ranTo t g insAlu 0 none = true ∧
      s.engBut t g [d]) ∧
  (∀ (g : Fin 48) (d : Fin 16) (i : Byte) (s : State),
    s.admits g insAlu = true →
    answers (.cmpi g d i) s fun t =>
      let a := s.bR g d roData; let b := i.toNat; let x := unsigned 8 ((a : Int) - b)
    t.flagsAre g (x = 0) (a < b) (128 ≤ x) (signed 8 a - signed 8 b < -128 ∨ 127 < signed 8 a - signed 8 b) ∧
      s.ranTo t g insAlu 0 none = true ∧
      s.engBut t g []) ∧
  (∀ (g : Fin 48) (d : Fin 16) (s : State),
    s.admits g insAlu = true →
    answers (.inc g d) s fun t =>
      let a := s.bR g d roData; let x := (a + 1) % 256
    t.lastB g d = x ∧ t.flagsAre g (x = 0) ((s.eng g).cur.c) (128 ≤ x) (signed 8 a + 1 < -128 ∨ 127 < signed 8 a + 1) ∧
      s.ranTo t g insAlu 0 none = true ∧
      s.engBut t g [d]) ∧
  (∀ (g : Fin 48) (d : Fin 16) (s : State),
    s.admits g insAlu = true →
    answers (.dec g d) s fun t =>
      let a := s.bR g d roData; let x := unsigned 8 ((a : Int) - 1)
    t.lastB g d = x ∧ t.flagsAre g (x = 0) ((s.eng g).cur.c) (128 ≤ x) (signed 8 a - 1 < -128 ∨ 127 < signed 8 a - 1) ∧
      s.ranTo t g insAlu 0 none = true ∧
      s.engBut t g [d]) ∧
  (∀ (g : Fin 48) (d : Fin 16) (s : State),
    s.admits g insAlu = true →
    answers (.neg g d) s fun t =>
      let a := s.bR g d roData; let x := unsigned 8 (-(a : Int))
    t.lastB g d = x ∧ t.flagsAre g (x = 0) (0 < a) (128 ≤ x) (-signed 8 a < -128 ∨ 127 < -signed 8 a) ∧
      s.ranTo t g insAlu 0 none = true ∧
      s.engBut t g [d]) ∧
  (∀ (g : Fin 48) (d : Fin 16) (s : State),
    s.admits g insAlu = true →
    answers (.not g d) s fun t =>
      let a := s.bR g d roData; let x := (255 - a) % 256
    t.lastB g d = x ∧ t.flagsAre g (x = 0) ((s.eng g).cur.c) (128 ≤ x) (false) ∧
      s.ranTo t g insAlu 0 none = true ∧
      s.engBut t g [d])

/-- CE8 shifts, rotations and bit instructions. Where the engine executes the instruction, SHL, SHR, ASR, ROL, ROR, SWAP,
BSET, BCLR, BTST and BTGL complete with the result and the flags that R235 and R243 give: the bit shifted out goes to
C, ROL and ROR go through C, ASR keeps bit 7, BTST sets Z to the inverted bit; no other byte register, engine, byte
of memory or register of the map changes, and PC and cycles advance (R243). Says that these complete: shl, shr, asr,
rol, ror, swap, bset, bclr, btgl, btst. -/
def Obligations.ShiftAndBitInstructionsComputeResultAndFlags : Prop :=
  (∀ (g : Fin 48) (d : Fin 16) (s : State),
    s.admits g insAlu = true →
    answers (.shl g d) s fun t =>
      let a := s.bR g d roData; let x := 2 * a % 256
    t.lastB g d = x ∧ t.flagsAre g (x = 0) (bitOf a 7) (128 ≤ x) (false) ∧
      s.ranTo t g insAlu 0 none = true ∧
      s.engBut t g [d]) ∧
  (∀ (g : Fin 48) (d : Fin 16) (s : State),
    s.admits g insAlu = true →
    answers (.shr g d) s fun t =>
      let a := s.bR g d roData; let x := a / 2 % 256
    t.lastB g d = x ∧ t.flagsAre g (x = 0) (bitOf a 0) (128 ≤ x) (false) ∧
      s.ranTo t g insAlu 0 none = true ∧
      s.engBut t g [d]) ∧
  (∀ (g : Fin 48) (d : Fin 16) (s : State),
    s.admits g insAlu = true →
    answers (.asr g d) s fun t =>
      (let a := s.bR g d roData; let x := (a / 2 + if bitOf a 7 then 128 else 0) % 256
    t.lastB g d = x ∧ t.flagsAre g (x = 0) (bitOf a 0) (128 ≤ x) (false)) ∧
      s.ranTo t g insAlu 0 none = true ∧
      s.engBut t g [d]) ∧
  (∀ (g : Fin 48) (d : Fin 16) (s : State),
    s.admits g insAlu = true →
    answers (.rol g d) s fun t =>
      let a := s.bR g d roData; let k := b2n (s.flR g 1 roCarry); let x := (2 * a + k) % 256
    t.lastB g d = x ∧ t.flagsAre g (x = 0) (bitOf a 7) (128 ≤ x) (false) ∧
      s.ranTo t g insAlu 0 none = true ∧
      s.engBut t g [d]) ∧
  (∀ (g : Fin 48) (d : Fin 16) (s : State),
    s.admits g insAlu = true →
    answers (.ror g d) s fun t =>
      let a := s.bR g d roData; let k := b2n (s.flR g 1 roCarry); let x := (a / 2 + 128 * k) % 256
    t.lastB g d = x ∧ t.flagsAre g (x = 0) (bitOf a 0) (128 ≤ x) (false) ∧
      s.ranTo t g insAlu 0 none = true ∧
      s.engBut t g [d]) ∧
  (∀ (g : Fin 48) (d : Fin 16) (s : State),
    s.admits g insAlu = true →
    answers (.swap g d) s fun t =>
      let a := s.bR g d roData; let x := (a / 16 + a % 16 * 16) % 256
    t.lastB g d = x ∧ t.flagsAre g (x = 0) ((s.eng g).cur.c) (128 ≤ x) (false) ∧
      s.ranTo t g insAlu 0 none = true ∧
      s.engBut t g [d]) ∧
  (∀ (g : Fin 48) (d : Fin 16) (b : Fin 8) (s : State),
    s.admits g insAlu = true →
    answers (.bset g d b) s fun t =>
      t.lastB g d = (s.bR g d roData ||| 2 ^ b.val) % 256 ∧
      s.flagsKept t g = true ∧
      s.ranTo t g insAlu 0 none = true ∧
      s.engBut t g [d]) ∧
  (∀ (g : Fin 48) (d : Fin 16) (b : Fin 8) (s : State),
    s.admits g insAlu = true →
    answers (.bclr g d b) s fun t =>
      t.lastB g d = (s.bR g d roData &&& (255 - 2 ^ b.val)) % 256 ∧
      s.flagsKept t g = true ∧
      s.ranTo t g insAlu 0 none = true ∧
      s.engBut t g [d]) ∧
  (∀ (g : Fin 48) (d : Fin 16) (b : Fin 8) (s : State),
    s.admits g insAlu = true →
    answers (.btgl g d b) s fun t =>
      t.lastB g d = (s.bR g d roData ^^^ 2 ^ b.val) % 256 ∧
      s.flagsKept t g = true ∧
      s.ranTo t g insAlu 0 none = true ∧
      s.engBut t g [d]) ∧
  (∀ (g : Fin 48) (d : Fin 16) (b : Fin 8) (s : State),
    s.admits g insAlu = true →
    answers (.btst g d b) s fun t =>
      t.flagsAre g (!bitOf (s.bR g d roData) b) (s.eng g).cur.c (s.eng g).cur.n (s.eng g).cur.v = true ∧
      s.ranTo t g insAlu 0 none = true ∧
      s.engBut t g [])

/-- CE8 pointer instructions and multiplications. Where the engine executes the instruction, LDP, MOVP, ADDPI, ADDP,
SUBP, CMPP, ADDPB, INCP, DECP, MULU and MULS complete with the 16-bit result and the flags that R235 and R243 give;
CMPP writes no register; a flag the row does not name keeps its value; no other byte register, engine, byte of memory
or register of the map changes, and PC and cycles advance (R243). Says that these complete: ldp, movp, addpi, addp,
subp, cmpp, addpb, incp, decp, mulu, muls. -/
def Obligations.PointerInstructionsComputeResultAndFlags : Prop :=
  (∀ (g : Fin 48) (p : Fin 8) (a : BitVec 16) (s : State),
    s.admits g insAbs = true →
    answers (.ldp g p a) s fun t =>
      t.lastP g p = a.toNat ∧
      s.flagsKept t g = true ∧
      s.ranTo t g insAbs 0 none = true ∧
      s.engBut t g [2 * p, 2 * p + 1]) ∧
  (∀ (g : Fin 48) (p q : Fin 8) (s : State),
    s.admits g insAlu = true →
    answers (.movp g p q) s fun t =>
      t.lastP g p = s.pR g q roData % 65536 ∧
      s.flagsKept t g = true ∧
      s.ranTo t g insAlu 0 none = true ∧
      s.engBut t g [2 * p, 2 * p + 1]) ∧
  (∀ (g : Fin 48) (p : Fin 8) (i : BitVec 16) (s : State),
    s.admits g insAbs = true →
    answers (.addpi g p i) s fun t =>
      let a := s.pR g p roData; let b := i.toNat; let x := (a + b) % 65536
    t.lastP g p = x ∧ t.flagsAre g (x = 0) (65536 ≤ a + b) (32768 ≤ x) (signed 16 a + signed 16 b < -32768 ∨ 32767 < signed 16 a + signed 16 b) ∧
      s.ranTo t g insAbs 0 none = true ∧
      s.engBut t g [2 * p, 2 * p + 1]) ∧
  (∀ (g : Fin 48) (p q : Fin 8) (s : State),
    s.admits g insAlu = true →
    answers (.addp g p q) s fun t =>
      let a := s.pR g p roData; let b := s.pR g q roData; let x := (a + b) % 65536
    t.lastP g p = x ∧ t.flagsAre g (x = 0) (65536 ≤ a + b) (32768 ≤ x) (signed 16 a + signed 16 b < -32768 ∨ 32767 < signed 16 a + signed 16 b) ∧
      s.ranTo t g insAlu 0 none = true ∧
      s.engBut t g [2 * p, 2 * p + 1]) ∧
  (∀ (g : Fin 48) (p q : Fin 8) (s : State),
    s.admits g insAlu = true →
    answers (.subp g p q) s fun t =>
      let a := s.pR g p roData; let b := s.pR g q roData; let x := unsigned 16 ((a : Int) - b)
    t.lastP g p = x ∧ t.flagsAre g (x = 0) (a < b) (32768 ≤ x) (signed 16 a - signed 16 b < -32768 ∨ 32767 < signed 16 a - signed 16 b) ∧
      s.ranTo t g insAlu 0 none = true ∧
      s.engBut t g [2 * p, 2 * p + 1]) ∧
  (∀ (g : Fin 48) (p q : Fin 8) (s : State),
    s.admits g insAlu = true →
    answers (.cmpp g p q) s fun t =>
      let a := s.pR g p roData; let b := s.pR g q roData; let x := unsigned 16 ((a : Int) - b)
    t.flagsAre g (x = 0) (a < b) (32768 ≤ x) (signed 16 a - signed 16 b < -32768 ∨ 32767 < signed 16 a - signed 16 b) ∧
      s.ranTo t g insAlu 0 none = true ∧
      s.engBut t g []) ∧
  (∀ (g : Fin 48) (p : Fin 8) (r : Fin 16) (s : State),
    s.admits g insAlu = true →
    answers (.addpb g p r) s fun t =>
      let a := s.pR g p roData; let b := s.bR g r roData; let x := (a + b) % 65536
    t.lastP g p = x ∧ t.flagsAre g (x = 0) (65536 ≤ a + b) ((s.eng g).cur.n) ((s.eng g).cur.v) ∧
      s.ranTo t g insAlu 0 none = true ∧
      s.engBut t g [2 * p, 2 * p + 1]) ∧
  (∀ (g : Fin 48) (p : Fin 8) (s : State),
    s.admits g insAlu = true →
    answers (.incp g p) s fun t =>
      let a := s.pR g p roData; let x := (a + 1) % 65536
    t.lastP g p = x ∧ t.flagsAre g (x = 0) ((s.eng g).cur.c) ((s.eng g).cur.n) ((s.eng g).cur.v) ∧
      s.ranTo t g insAlu 0 none = true ∧
      s.engBut t g [2 * p, 2 * p + 1]) ∧
  (∀ (g : Fin 48) (p : Fin 8) (s : State),
    s.admits g insAlu = true →
    answers (.decp g p) s fun t =>
      let a := s.pR g p roData; let x := unsigned 16 ((a : Int) - 1)
    t.lastP g p = x ∧ t.flagsAre g (x = 0) ((s.eng g).cur.c) ((s.eng g).cur.n) ((s.eng g).cur.v) ∧
      s.ranTo t g insAlu 0 none = true ∧
      s.engBut t g [2 * p, 2 * p + 1]) ∧
  (∀ (g : Fin 48) (p : Fin 8) (r : Fin 16) (s : State),
    s.admits g insAlu = true →
    answers (.mulu g p r) s fun t =>
      let a := s.bR g (2 * p) roData; let b := s.bR g r roData; let x := a * b % 65536
    t.lastP g p = x ∧ t.flagsAre g (x = 0) (255 < a * b) (32768 ≤ x) (false) ∧
      s.ranTo t g insAlu 0 none = true ∧
      s.engBut t g [2 * p, 2 * p + 1]) ∧
  (∀ (g : Fin 48) (p : Fin 8) (r : Fin 16) (s : State),
    s.admits g insAlu = true →
    answers (.muls g p r) s fun t =>
      let y := signed 8 (s.bR g (2 * p) roData) * signed 8 (s.bR g r roData); let x := unsigned 16 y
    t.lastP g p = x ∧ t.flagsAre g (x = 0) (y < -128 ∨ 127 < y) (32768 ≤ x) (false) ∧
      s.ranTo t g insAlu 0 none = true ∧
      s.engBut t g [2 * p, 2 * p + 1])

/-- CE8 jumps, calls, returns, branches, repeat prefixes, SYNC and NOP. Where the engine executes it, NOP, JMP, CALL,
BSR, RET and Bcc move PC as R241 to R243 and R250 say (in extended mode behind a delay slot); CALL and BSR push the
address after the branch, RET pops it (R244); RPT and RPTI open a group of the count given (R251, R252); SYNC waits
while stores are pending and SYNC_COMPLETE ends the wait (R267); RETC ends the handler, and over a preempted NORMAL
handler the next URGENT cue with a vector runs first (R259); ILLEGAL_INSTRUCTION faults the engine with ILLEGAL
(R241, R270). No other byte register, engine, byte of memory or register of the map changes but through a fault. Says
that these complete: nop, jmpPtr, jmpAbs, callPtr, callAbs, bsr, ret, bcc, rpt, rptiReg, rptiImm, sync, syncComplete,
retc, illegalInstruction. -/
def Obligations.ControlTransfersAndPrefixes : Prop :=
  (∀ (g : Fin 48) (s : State),
    s.admits g insAlu = true →
    answers (.nop g) s fun t =>
      s.flagsKept t g = true ∧
      s.ranTo t g insAlu 0 none = true ∧
      s.engBut t g []) ∧
  (∀ (g : Fin 48) (p : Fin 8) (s : State),
    s.admits g insJump = true →
    answers (.jmpPtr g p) s fun t =>
      s.flagsKept t g = true ∧
      s.ranTo t g insJump 0 (some (s.pR g p roAddr, true)) = true ∧
      s.engBut t g []) ∧
  (∀ (g : Fin 48) (a : BitVec 16) (s : State),
    s.admits g insJumpAbs = true →
    answers (.jmpAbs g a) s fun t =>
      s.flagsKept t g = true ∧
      s.ranTo t g insJumpAbs 0 (some (a.toNat, true)) = true ∧
      s.engBut t g []) ∧
  (∀ (g : Fin 48) (p : Fin 8) (s : State),
    s.admits g insJump = true →
    (s.pR g 7 roAddr + 0xFFFE) % 0x10000 < 0x1000 →
    answers (.callPtr g p) s fun t =>
      s.ranTo t g insJump 0 (some (s.pR g p roAddr, true)) = true ∧
      s.flagsKept t g = true ∧
      let p := (s.pR g 7 roAddr + 0xFFFE) % 0x10000; let a := p - p % 2
    t.rdBytes (localAt g + a) 2 = bytesLE 2 (((s.eng g).cur.pc + 1 + b2n (s.ext g)) % 0x10000) ∧ t.lastP g 7 = p ∧
    memBut [localAt g + a, localAt g + a + 1] s t ∧
      s.engOnly t g [14, 15] ∧
      t.regs = s.regs) ∧
  (∀ (g : Fin 48) (a : BitVec 16) (s : State),
    s.admits g insJumpAbs = true →
    (s.pR g 7 roAddr + 0xFFFE) % 0x10000 < 0x1000 →
    answers (.callAbs g a) s fun t =>
      s.ranTo t g insJumpAbs 0 (some (a.toNat, true)) = true ∧
      s.flagsKept t g = true ∧
      let p := (s.pR g 7 roAddr + 0xFFFE) % 0x10000; let a := p - p % 2
    t.rdBytes (localAt g + a) 2 = bytesLE 2 (((s.eng g).cur.pc + 2 + b2n (s.ext g)) % 0x10000) ∧ t.lastP g 7 = p ∧
    memBut [localAt g + a, localAt g + a + 1] s t ∧
      s.engOnly t g [14, 15] ∧
      t.regs = s.regs) ∧
  (∀ (g : Fin 48) (rel : Byte) (s : State),
    s.admits g insJump = true →
    (s.pR g 7 roAddr + 0xFFFE) % 0x10000 < 0x1000 →
    answers (.bsr g rel) s fun t =>
      s.ranTo t g insJump 0 (some (s.relTarget g rel.toNat, true)) = true ∧
      s.flagsKept t g = true ∧
      let p := (s.pR g 7 roAddr + 0xFFFE) % 0x10000; let a := p - p % 2
    t.rdBytes (localAt g + a) 2 = bytesLE 2 (((s.eng g).cur.pc + 1 + b2n (s.ext g)) % 0x10000) ∧ t.lastP g 7 = p ∧
    memBut [localAt g + a, localAt g + a + 1] s t ∧
      s.engOnly t g [14, 15] ∧
      t.regs = s.regs) ∧
  (∀ (g : Fin 48) (s : State),
    s.admits g insJump = true →
    s.pR g 7 roAddr < 0x1000 →
    answers (.ret g) s fun t =>
      let p := s.pR g 7 roAddr
    s.ranTo t g insJump 0 (some (s.rdN (localAt g + (p - p % 2)) 2, true)) = true ∧ t.lastP g 7 = (p + 2) % 0x10000 ∧
      s.flagsKept t g = true ∧
      s.engBut t g [14, 15]) ∧
  (∀ (g : Fin 48) (c : Fin 15) (rel : Byte) (s : State),
    s.admits g insJump = true →
    answers (.bcc g c rel) s fun t =>
      (let taken := condHolds c (s.flR g 0 roBranch) (s.flR g 1 roBranch) (s.flR g 2 roBranch) (s.flR g 3 roBranch)
    s.ranTo t g { slot := false, cycC := if taken then 2 else 1 } 0 (some (unsigned 16 ((s.eng g).cur.pc + 1 + signed 8 rel.toNat), taken)) = true) ∧
      s.flagsKept t g = true ∧
      s.engBut t g []) ∧
  (∀ (g : Fin 48) (n : Fin 16) (s : State),
    s.admits g insJump = true →
    (s.eng g).cur.rep.left = 0 →
    answers (.rpt g n) s fun t =>
      let l := (s.eng g).cur
    (t.eng g).cur.pc = l.pc + 1 ∧ (t.eng g).cyc = (s.eng g).cyc ∧
    (t.eng g).cur.rep = { rpti := false, left := n.val + 1, pc := l.pc, started := false } ∧
      s.flagsKept t g = true ∧
      s.engBut t g []) ∧
  (∀ (g : Fin 48) (r : Fin 16) (s : State),
    s.admits g insJump = true →
    (s.eng g).cur.rep.left = 0 →
    answers (.rptiReg g r) s fun t =>
      (let l := (s.eng g).cur
    (t.eng g).cur.pc = l.pc + 1 ∧ (t.eng g).cyc = (s.eng g).cyc ∧
    (t.eng g).cur.rep = { rpti := true, left := if s.bR g r roData = 0 then 256 else s.bR g r roData, pc := l.pc, started := false }) ∧
      s.flagsKept t g = true ∧
      s.engBut t g []) ∧
  (∀ (g : Fin 48) (n : Byte) (s : State),
    s.admits g insJump = true →
    (s.eng g).cur.rep.left = 0 →
    answers (.rptiImm g n) s fun t =>
      let l := (s.eng g).cur
    (t.eng g).cur.pc = l.pc + 1 ∧ (t.eng g).cyc = (s.eng g).cyc ∧
    (t.eng g).cur.rep = { rpti := true, left := n.toNat + 1, pc := l.pc, started := false } ∧
      s.flagsKept t g = true ∧
      s.engBut t g []) ∧
  (∀ (g : Fin 48) (s : State),
    s.admits g insOne = true →
    answers (.sync g) s fun t =>
      (t.eng g).cur.sync = decide (s.storesLeft (0x10 + g) ≠ 0) ∧
      s.ranTo t g insOne 0 none = true ∧
      s.flagsKept t g = true ∧
      s.engBut t g []) ∧
  (∀ (g : Fin 48) (w : Byte) (s : State),
    (s.eng g).cur.sync = true →
    s.storesLeft (0x10 + g) = 0 →
    s.clocked (3 + g / 8) = true →
    answers (.syncComplete g w) s fun t =>
      (t.eng g).cur.sync = false ∧ (t.eng g).cyc = (s.eng g).cyc + w.toNat ∧ (t.eng g).cur.pc = (s.eng g).cur.pc ∧
      s.flagsKept t g = true ∧
      s.engBut t g []) ∧
  (∀ (g : Fin 48) (s : State),
    s.admits g insRetc = true →
    answers (.retc g) s fun t =>
      ((s.eng g).st ≠ .urgentOverNormal → (t.eng g).st = .waiting) ∧
      ((s.eng g).st = .urgentOverNormal → takeCue true (s.eng g).queue = none → (t.eng g).st = .normal) ∧
      (((s.eng g).st = .urgentOverNormal ∧ (takeCue true (s.eng g).queue).isSome = true) →
    let x := (takeCue true (s.eng g).queue).getD ({}, [])
    (s.eng g).vector x.1.cls ≠ 0xFFFF → (t.eng g).st = .urgentOverNormal ∧ (t.eng g).ul.cur = x.1 ∧
      (t.eng g).ul.pc = (s.eng g).vector x.1.cls ∧ (t.eng g).queue = x.2) ∧
      t.mem = s.mem) ∧
  (∀ (g : Fin 48) (s : State),
    s.admits g insJump = true →
    answers (.illegalInstruction g) s fun t =>
      (t.eng g).st = .faulted ∧ (t.eng g).fault = 1 ∧ (t.eng g).queue = [] ∧ t.f (ENG_FLAG_FAULT (g / 8) (g % 8)) = 1 ∧
    ((t.eng g).lvl (s.eng g).isUrgent).pc = (s.eng g).cur.pc ∧
      (t.mem = s.mem ∧ ∀ h : Fin 48, h ≠ g → t.eng h = s.eng h))

/-- CE8 loads from every place of the data space. Where the engine executes it, no other load of it is in flight and no
fault of R244 or R251 is due, every load form computes its address (R243, R244) and fills its registers from local
data, crew memory or the private registers, or queues one read of the Spine through its window and parks the level
(R238, R240); the post-increment and pre-decrement forms move the pointer unless it is itself loaded; flags, memory,
other engines and other byte registers keep their values, and PC and cycles advance. LOAD_DATA_ARRIVAL writes the
registers or, for CPY, the local data (R240). Says that these complete: lda, ldPtr, ldPostinc, ldPredec, ldIndex,
ldd, ldw, ldwPostinc, popp, ldq, loadDataArrival. -/
def Obligations.LoadsFillRegisters : Prop :=
  (∀ (g : Fin 48) (d : Fin 16) (a : BitVec 16) (w : Byte) (s : State),
    s.admits g insAbs = true →
    (s.eng g).load = none →
    s.memFault g (a.toNat) 1 false = none →
    answers (.lda g d a w) s fun t =>
      s.loadedFrom t g (a.toNat) 1 [d] ∧
      s.flagsKept t g = true ∧
      s.ranTo t g insAbs w.toNat none = true ∧
      s.engOnly t g [d] ∧
      t.regs = s.regs) ∧
  (∀ (g : Fin 48) (d : Fin 16) (p : Fin 8) (w : Byte) (s : State),
    s.admits g insAlu = true →
    (s.eng g).load = none →
    s.memFault g (s.pR g p roAddr) 1 false = none →
    answers (.ldPtr g d p w) s fun t =>
      s.loadedFrom t g (s.pR g p roAddr) 1 [d] ∧
      s.flagsKept t g = true ∧
      s.ranTo t g insAlu w.toNat none = true ∧
      s.engOnly t g [d] ∧
      t.regs = s.regs) ∧
  (∀ (g : Fin 48) (d : Fin 16) (p : Fin 8) (w : Byte) (s : State),
    s.admits g insAlu = true →
    (s.eng g).load = none →
    s.memFault g (s.pR g p roAddr) 1 (p = 7) = none →
    answers (.ldPostinc g d p w) s fun t =>
      s.loadedFrom t g (s.pR g p roAddr) 1 [d] ∧
      s.flagsKept t g = true ∧
      s.ranTo t g insAlu w.toNat none = true ∧
      (d.val ≠ 2 * p.val → d.val ≠ 2 * p.val + 1 → t.lastP g p = (s.pR g p roAddr + 1) % 0x10000) ∧
      s.engOnly t g [d, 2 * p, 2 * p + 1] ∧
      t.regs = s.regs) ∧
  (∀ (g : Fin 48) (d : Fin 16) (p : Fin 8) (w : Byte) (s : State),
    s.admits g insAlu = true →
    (s.eng g).load = none →
    s.memFault g ((s.pR g p roAddr + 0xFFFF) % 0x10000) 1 false = none →
    answers (.ldPredec g d p w) s fun t =>
      s.loadedFrom t g ((s.pR g p roAddr + 0xFFFF) % 0x10000) 1 [d] ∧
      s.flagsKept t g = true ∧
      s.ranTo t g insAlu w.toNat none = true ∧
      (d.val ≠ 2 * p.val → d.val ≠ 2 * p.val + 1 → t.lastP g p = (s.pR g p roAddr + 0xFFFF) % 0x10000) ∧
      s.engOnly t g [d, 2 * p, 2 * p + 1] ∧
      t.regs = s.regs) ∧
  (∀ (g : Fin 48) (d : Fin 16) (p : Fin 8) (w : Byte) (s : State),
    s.admits g insAlu = true →
    (s.eng g).load = none →
    s.memFault g ((s.pR g p roAddr + s.bR g 0 roAddr) % 0x10000) 1 false = none →
    answers (.ldIndex g d p w) s fun t =>
      s.loadedFrom t g ((s.pR g p roAddr + s.bR g 0 roAddr) % 0x10000) 1 [d] ∧
      s.flagsKept t g = true ∧
      s.ranTo t g insAlu w.toNat none = true ∧
      s.engOnly t g [d] ∧
      t.regs = s.regs) ∧
  (∀ (g : Fin 48) (d : Fin 16) (p : Fin 8) (u : Fin 16) (w : Byte) (s : State),
    s.admits g insAlu = true →
    (s.eng g).load = none →
    s.memFault g ((s.pR g p roAddr + u) % 0x10000) 1 false = none →
    answers (.ldd g d p u w) s fun t =>
      s.loadedFrom t g ((s.pR g p roAddr + u) % 0x10000) 1 [d] ∧
      s.flagsKept t g = true ∧
      s.ranTo t g insAlu w.toNat none = true ∧
      s.engOnly t g [d] ∧
      t.regs = s.regs) ∧
  (∀ (g : Fin 48) (p q : Fin 8) (w : Byte) (s : State),
    s.admits g insAlu = true →
    (s.eng g).load = none →
    s.memFault g (s.pR g q roAddr - s.pR g q roAddr % 2) 2 false = none →
    answers (.ldw g p q w) s fun t =>
      s.loadedFrom t g (s.pR g q roAddr - s.pR g q roAddr % 2) 2 [2 * p, 2 * p + 1] ∧
      s.flagsKept t g = true ∧
      s.ranTo t g insAlu w.toNat none = true ∧
      s.engOnly t g [2 * p, 2 * p + 1] ∧
      t.regs = s.regs) ∧
  (∀ (g : Fin 48) (p q : Fin 8) (w : Byte) (s : State),
    s.admits g insAlu = true →
    (s.eng g).load = none →
    s.memFault g (s.pR g q roAddr - s.pR g q roAddr % 2) 2 false = none →
    answers (.ldwPostinc g p q w) s fun t =>
      s.loadedFrom t g (s.pR g q roAddr - s.pR g q roAddr % 2) 2 [2 * p, 2 * p + 1] ∧
      s.flagsKept t g = true ∧
      s.ranTo t g insAlu w.toNat none = true ∧
      (p.val ≠ q → t.lastP g q = (s.pR g q roAddr + 2) % 0x10000) ∧
      s.engOnly t g [2 * p, 2 * p + 1, 2 * q, 2 * q + 1] ∧
      t.regs = s.regs) ∧
  (∀ (g : Fin 48) (p : Fin 8) (s : State),
    s.admits g insAlu = true →
    (s.eng g).load = none →
    s.memFault g (s.pR g 7 roAddr - s.pR g 7 roAddr % 2) 2 true = none →
    answers (.popp g p) s fun t =>
      s.loadedFrom t g (s.pR g 7 roAddr - s.pR g 7 roAddr % 2) 2 [2 * p, 2 * p + 1] ∧
      s.flagsKept t g = true ∧
      s.ranTo t g insAlu 0 none = true ∧
      (p.val ≠ 7 → t.lastP g 7 = (s.pR g 7 roAddr + 2) % 0x10000) ∧
      s.engOnly t g [2 * p, 2 * p + 1, 2 * 7, 2 * 7 + 1] ∧
      t.regs = s.regs) ∧
  (∀ (g : Fin 48) (q : Fin 4) (p : Fin 8) (w : Byte) (s : State),
    s.admits g insQuad = true →
    (s.eng g).load = none →
    s.memFault g (s.pR g p roAddr - s.pR g p roAddr % 4) 4 false = none →
    answers (.ldq g q p w) s fun t =>
      s.loadedFrom t g (s.pR g p roAddr - s.pR g p roAddr % 4) 4 [4 * q, 4 * q + 1, 4 * q + 2, 4 * q + 3] ∧
      s.flagsKept t g = true ∧
      s.ranTo t g insQuad w.toNat none = true ∧
      s.engOnly t g [4 * q, 4 * q + 1, 4 * q + 2, 4 * q + 3] ∧
      t.regs = s.regs) ∧
  (∀ (g : Fin 48) (w : Byte) (x : EngLoad) (d : List Byte) (s : State),
    (s.eng g).load = some x →
    x.data = some d →
    x.what ≠ 3 →
    x.dst.length = d.length →
    x.dst.Nodup →
    answers (.loadDataArrival g w) s fun t =>
      x.dst.map (t.eng g).reg = d.map BitVec.toNat ∧
      (t.eng g).load = none ∧
      t.mem = s.mem ∧ t.regs = s.regs ∧ (t.eng g).queue = (s.eng g).queue ∧
      (x.what < 2 → (t.eng g).nl = (s.eng g).nl ∧ (t.eng g).ul = (s.eng g).ul) ∧
      (x.what = 2 → d.length = 1 →
    ((t.eng g).lvl x.urgent).n = bitOf (natLE d) 7 ∧ ((t.eng g).lvl x.urgent).z = !bitOf (natLE d) 7)) ∧
  (∀ (g : Fin 48) (w : Byte) (x : EngLoad) (d : List Byte) (s : State),
    (s.eng g).load = some x →
    x.data = some d →
    x.what = 3 →
    answers (.loadDataArrival g w) s fun t =>
      t.rdBytes x.at_ d.length = d ∧ memBut ((List.range d.length).map (x.at_ + ·)) s t ∧
      (t.eng g).load = none ∧
      t.regs = s.regs ∧ (t.eng g).queue = (s.eng g).queue ∧ (t.eng g).b = (s.eng g).b)

/-- CE8 stores to every place of the data space. Where the engine executes it, fewer than four stores of it are pending
and no fault of R244 or R251 is due, every store form computes its address and stores its bytes (R243, R244): in
local data and crew memory at once, where no other byte of memory changes, through a window as one queued write of
the Spine (R238, R240, R265); in the private registers no memory changes. The post-increment and pre-decrement forms
and PUSHP move the pointer; flags, other engines and other byte registers keep their values, and PC and cycles
advance. Says that these complete: sta, stPtr, stPostinc, stPredec, stIndex, std, stw, stwPostinc, stq, pushp. -/
def Obligations.StoresWriteTheirBytes : Prop :=
  (∀ (g : Fin 48) (r : Fin 16) (a : BitVec 16) (w : Byte) (s : State),
    s.admits g insAbs = true →
    s.storesPending (0x10 + g) < 4 →
    s.memFault g (a.toNat) 1 false = none →
    answers (.sta g r a w) s fun t =>
      s.storedAt t g (a.toNat) (bytesLE 1 (s.bR g r roData)) ∧
      s.flagsKept t g = true ∧
      s.ranTo t g insAbs w.toNat none = true ∧
      s.engOnly t g []) ∧
  (∀ (g : Fin 48) (r : Fin 16) (p : Fin 8) (w : Byte) (s : State),
    s.admits g insAlu = true →
    s.storesPending (0x10 + g) < 4 →
    s.memFault g (s.pR g p roAddr) 1 false = none →
    answers (.stPtr g r p w) s fun t =>
      s.storedAt t g (s.pR g p roAddr) (bytesLE 1 (s.bR g r roData)) ∧
      s.flagsKept t g = true ∧
      s.ranTo t g insAlu w.toNat none = true ∧
      s.engOnly t g []) ∧
  (∀ (g : Fin 48) (r : Fin 16) (p : Fin 8) (w : Byte) (s : State),
    s.admits g insAlu = true →
    s.storesPending (0x10 + g) < 4 →
    s.memFault g (s.pR g p roAddr) 1 false = none →
    answers (.stPostinc g r p w) s fun t =>
      s.storedAt t g (s.pR g p roAddr) (bytesLE 1 (s.bR g r roData)) ∧
      s.flagsKept t g = true ∧
      s.ranTo t g insAlu w.toNat none = true ∧
      t.lastP g p = (s.pR g p roAddr + 1) % 0x10000 ∧
      s.engOnly t g [2 * p, 2 * p + 1]) ∧
  (∀ (g : Fin 48) (r : Fin 16) (p : Fin 8) (w : Byte) (s : State),
    s.admits g insAlu = true →
    s.storesPending (0x10 + g) < 4 →
    s.memFault g ((s.pR g p roAddr + 0xFFFF) % 0x10000) 1 (p = 7) = none →
    answers (.stPredec g r p w) s fun t =>
      s.storedAt t g ((s.pR g p roAddr + 0xFFFF) % 0x10000) (bytesLE 1 (s.bR g r roData)) ∧
      s.flagsKept t g = true ∧
      s.ranTo t g insAlu w.toNat none = true ∧
      t.lastP g p = (s.pR g p roAddr + 0xFFFF) % 0x10000 ∧
      s.engOnly t g [2 * p, 2 * p + 1]) ∧
  (∀ (g : Fin 48) (r : Fin 16) (p : Fin 8) (w : Byte) (s : State),
    s.admits g insAlu = true →
    s.storesPending (0x10 + g) < 4 →
    s.memFault g ((s.pR g p roAddr + s.bR g 0 roAddr) % 0x10000) 1 false = none →
    answers (.stIndex g r p w) s fun t =>
      s.storedAt t g ((s.pR g p roAddr + s.bR g 0 roAddr) % 0x10000) (bytesLE 1 (s.bR g r roData)) ∧
      s.flagsKept t g = true ∧
      s.ranTo t g insAlu w.toNat none = true ∧
      s.engOnly t g []) ∧
  (∀ (g : Fin 48) (r : Fin 16) (p : Fin 8) (u : Fin 16) (w : Byte) (s : State),
    s.admits g insAlu = true →
    s.storesPending (0x10 + g) < 4 →
    s.memFault g ((s.pR g p roAddr + u) % 0x10000) 1 false = none →
    answers (.std g r p u w) s fun t =>
      s.storedAt t g ((s.pR g p roAddr + u) % 0x10000) (bytesLE 1 (s.bR g r roData)) ∧
      s.flagsKept t g = true ∧
      s.ranTo t g insAlu w.toNat none = true ∧
      s.engOnly t g []) ∧
  (∀ (g : Fin 48) (p q : Fin 8) (w : Byte) (s : State),
    s.admits g insAlu = true →
    s.storesPending (0x10 + g) < 4 →
    s.memFault g (s.pR g q roAddr - s.pR g q roAddr % 2) 2 false = none →
    answers (.stw g p q w) s fun t =>
      s.storedAt t g (s.pR g q roAddr - s.pR g q roAddr % 2) (bytesLE 2 (s.pR g p roData)) ∧
      s.flagsKept t g = true ∧
      s.ranTo t g insAlu w.toNat none = true ∧
      s.engOnly t g []) ∧
  (∀ (g : Fin 48) (p q : Fin 8) (w : Byte) (s : State),
    s.admits g insAlu = true →
    s.storesPending (0x10 + g) < 4 →
    s.memFault g (s.pR g q roAddr - s.pR g q roAddr % 2) 2 false = none →
    answers (.stwPostinc g p q w) s fun t =>
      s.storedAt t g (s.pR g q roAddr - s.pR g q roAddr % 2) (bytesLE 2 (s.pR g p roData)) ∧
      s.flagsKept t g = true ∧
      s.ranTo t g insAlu w.toNat none = true ∧
      t.lastP g q = (s.pR g q roAddr + 2) % 0x10000 ∧
      s.engOnly t g [2 * q, 2 * q + 1]) ∧
  (∀ (g : Fin 48) (q : Fin 4) (p : Fin 8) (w : Byte) (s : State),
    s.admits g insQuad = true →
    s.storesPending (0x10 + g) < 4 →
    s.memFault g (s.pR g p roAddr - s.pR g p roAddr % 4) 4 false = none →
    answers (.stq g q p w) s fun t =>
      s.storedAt t g (s.pR g p roAddr - s.pR g p roAddr % 4) (bytesLE 2 (s.pR g (2 * q) roData) ++ bytesLE 2 (s.pR g (2 * q + 1) roData)) ∧
      s.flagsKept t g = true ∧
      s.ranTo t g insQuad w.toNat none = true ∧
      s.engOnly t g []) ∧
  (∀ (g : Fin 48) (p : Fin 8) (s : State),
    s.admits g insAlu = true →
    (s.pR g 7 roAddr + 0xFFFE) % 0x10000 < 0x1000 →
    answers (.pushp g p) s fun t =>
      let x := (s.pR g 7 roAddr + 0xFFFE) % 0x10000
    s.storedAt t g (x - x % 2) (bytesLE 2 (s.pR g p roData)) ∧ t.lastP g 7 = x ∧
      s.flagsKept t g = true ∧
      s.ranTo t g insAlu 0 none = true ∧
      s.engOnly t g [14, 15])

/-- CE8 atomics, CPY, EMIT, POST, the reflex executor, dispatch, timers, banks, beats and the crew gate. XCH and TAS
exchange one byte in local data and crew memory at once, in the Larder and the Attic as one queued transaction, and
fault elsewhere (R245); CPY queues one read (R246); EMIT takes its crew's executor slot, which EXECUTOR_WRITE serves:
the frame goes to the channel's die or the refusal is counted (R262, R350); POST queues a cue or sets C (R261);
CUE_DISPATCH enters the first cue that may run, URGENT first, and counts one without a handler (R259); a timer that
reaches 0 reloads or stops and posts a TIMER cue, a write of TMRn_CTL starts or stops it (R240); a bank pair takes
effect with its last byte (R239); a read of 0xF040 latches the slate (R240); a beat is recorded (R271); a quiet crew
is gated in Idle (R269). Says that these complete: xch, tas, cpy, emit, executorWrite, post, cueDispatch,
engineTimerExpire, timerCtlWrite, bankCommitWrite, slateLatchRead, engineBeat, crewClockGate. -/
def Obligations.AtomicsCuesTimersAndBanks : Prop :=
  (∀ (g : Fin 48) (d : Fin 16) (p : Fin 8) (w : Byte) (s : State),
    s.admits g insTwo = true →
    (s.eng g).load = none →
    answers (.xch g d p w) s fun t =>
      ((s.directAt g (s.pR g p roAddr)).isSome = true →
    let m := (s.directAt g (s.pR g p roAddr)).getD 0
    t.lastB g d = s.rdN m 1 ∧ t.rd8 m = BitVec.ofNat 8 (s.bR g d roData) ∧ memBut [m] s t ∧
    s.flagsKept t g = true) ∧
      (((s.spineAt g (s.pR g p roAddr)).any inLarder) = true →
    t.mem = s.mem ∧ t.waiting = s.waiting ++
      [{ init := 0x10 + g, lvl := (s.eng g).isUrgent, op := 2, addr := (s.spineAt g (s.pR g p roAddr)).getD 0, len := 1, data := bytesLE 1 (s.bR g d roData) }] ∧
    (t.eng g).load = some { urgent := (s.eng g).isUrgent, what := 1, dst := [regCode (s.eng g).isUrgent d] }) ∧
      (((s.directAt g (s.pR g p roAddr)).isSome || (s.spineAt g (s.pR g p roAddr)).any inLarder) = true →
    s.ranTo t g insTwo w.toNat none = true ∧ s.engOnly t g [d] ∧ t.regs = s.regs) ∧
      (((s.directAt g (s.pR g p roAddr)).isSome || (s.spineAt g (s.pR g p roAddr)).any inLarder) = false →
    (t.eng g).st = .faulted ∧ (t.eng g).fault = 6)) ∧
  (∀ (g : Fin 48) (d : Fin 16) (p : Fin 8) (w : Byte) (s : State),
    s.admits g insTwo = true →
    (s.eng g).load = none →
    answers (.tas g d p w) s fun t =>
      ((s.directAt g (s.pR g p roAddr)).isSome = true →
    let m := (s.directAt g (s.pR g p roAddr)).getD 0
    t.lastB g d = s.rdN m 1 ∧ t.rd8 m = BitVec.ofNat 8 ((s.rdN m 1) ||| 0x80) ∧ memBut [m] s t ∧
    t.flagsAre g (!bitOf (s.rdN m 1) 7) (s.eng g).cur.c (bitOf (s.rdN m 1) 7) (s.eng g).cur.v = true) ∧
      (((s.spineAt g (s.pR g p roAddr)).any inLarder) = true →
    t.mem = s.mem ∧ t.waiting = s.waiting ++
      [{ init := 0x10 + g, lvl := (s.eng g).isUrgent, op := 3, addr := (s.spineAt g (s.pR g p roAddr)).getD 0, len := 1, data := bytesLE 1 (s.bR g d roData) }] ∧
    (t.eng g).load = some { urgent := (s.eng g).isUrgent, what := 2, dst := [regCode (s.eng g).isUrgent d] }) ∧
      (((s.directAt g (s.pR g p roAddr)).isSome || (s.spineAt g (s.pR g p roAddr)).any inLarder) = true →
    s.ranTo t g insTwo w.toNat none = true ∧ s.engOnly t g [d] ∧ t.regs = s.regs) ∧
      (((s.directAt g (s.pR g p roAddr)).isSome || (s.spineAt g (s.pR g p roAddr)).any inLarder) = false →
    (t.eng g).st = .faulted ∧ (t.eng g).fault = 6)) ∧
  (∀ (g : Fin 48) (k : Fin 3) (p q : Fin 8) (w : Byte) (s : State),
    s.admits g { rpti := true } = true →
    (s.eng g).load = none →
    alignTo (2 ^ (k.val + 2)) (s.pR g p roAddr) + 2 ^ (k.val + 2) ≤ 0x1000 →
    (0x2000 ≤ s.pR g q roAddr ∧ s.pR g q roAddr < 0xF000) →
    answers (.cpy g k p q w) s fun t =>
      let n := 2 ^ (k.val + 2)
    (t.eng g).load = some { urgent := (s.eng g).isUrgent, what := 3, at_ := localAt g + alignTo n (s.pR g p roAddr) } ∧
    t.waiting = s.waiting ++
      [{ init := 0x10 + g, lvl := (s.eng g).isUrgent, op := 0, addr := (s.spineAt g (alignTo n (s.pR g q roAddr))).getD 0 % 2 ^ 32, len := n }] ∧
      s.flagsKept t g = true ∧
      s.ranTo t g { cycC := 1 + 2 ^ k.val, cycE := 1 + 2 ^ k.val } w.toNat none = true ∧
      s.engBut t g []) ∧
  (∀ (g : Fin 48) (pwm : Bool) (x : Fin 16) (p q : Fin 8) (w : Byte) (s : State),
    s.admits g insOne = true →
    (s.exec.all (fun r => r.init = 0 || (r.init - 0x10) / 8 ≠ g.val / 8) = true) →
    answers (.emit g pwm x p q w) s fun t =>
      t.exec = s.exec ++ [{ init := 0x10 + g, ch := s.bR g x roData, pwm := pwm, value := s.pR g p roData + 0x10000 * s.pR g q roData }] ∧
      s.flagsKept t g = true ∧
      s.ranTo t g insOne w.toNat none = true ∧
      s.engBut t g []) ∧
  (∀ (r : ExecReq) (l : List ExecReq) (s : State),
    s.exec = r :: l →
    answers (.executorWrite) s fun t =>
      t.exec = l ∧
      ((r.init ≠ 0 ∧ r.ch < 132 ∧ s.f (CH_CFG_OWNER r.ch) = r.init ∧ s.executorReason r = 0) →
    t.f CUE_EXEC_CNT_EMITTED = min (s.f CUE_EXEC_CNT_EMITTED + 1) 0xFFFF) ∧
      ((r.init ≠ 0 ∧ (131 < r.ch ∨ s.f (CH_CFG_OWNER r.ch) ≠ r.init ∨ s.executorReason r ≠ 0)) →
    t.f CUE_EXEC_CNT_REJECTED = min (s.f CUE_EXEC_CNT_REJECTED + 1) 0xFFFF ∧
    t.f (ENG_FLAG_EMIT_ERR ((r.init - 0x10) / 8) ((r.init - 0x10) % 8)) = 1) ∧
      ((r.init = 0 ∧ s.executorReason r = 0) →
    t.f GW_RFX_CNT_EXECUTED = min (s.f GW_RFX_CNT_EXECUTED + 1) 0xFFFF) ∧
      ((r.init = 0 ∧ s.executorReason r ≠ 0) →
    t.f GW_RFX_CNT_REFUSED = min (s.f GW_RFX_CNT_REFUSED + 1) 0xFFFF ∧ t.f GW_FLAG_EXEC_REFUSED = 1) ∧
      ((r.ch < 132 ∧ (r.init = 0 ∨ s.f (CH_CFG_OWNER r.ch) = r.init) ∧ s.chPresent r.ch = true ∧ s.executorReason r = 0) →
    (t.lnk (chLink r.ch)).tx = (s.lnk (chLink r.ch)).tx ++ [if r.pwm
      then .pwm (r.ch - linkFirst (chLink r.ch)) (r.value % 0x800) (r.value / 0x1000 % 4) (r.value / 0x10000 % 0x400)
        (s.f (CH_PWM_PDIV r.ch) = r.value / 0x1000 % 4 ∧ s.f (CH_PWM_PHASE r.ch) = r.value / 0x10000 % 0x400)
      else .cmd (r.ch - linkFirst (chLink r.ch)) (r.value % 4) (s.f (CH_B_DRV_DIR r.ch)) (s.f (CH_B_DRV_STOP r.ch))
        (r.value / 0x100 % 0x100) (bitOf r.value 2)])) ∧
  (∀ (g : Fin 48) (x : Fin 16) (p q : Fin 8) (w : Byte) (s : State),
    s.admits g insOne = true →
    isEngine (s.bR g x roData) = true →
    s.crewPresent ((s.bR g x roData - 0x10) / 8) = true →
    answers (.post g x p q w) s fun t =>
      (let k := s.bR g x roData - 0x10
    (t.eng g).cur.c = s.wouldDrop k 4 ∧ (s.wouldDrop k 4 = false → (t.eng k).queue = (s.eng k).queue ++
      [{ cls := 4, urgent := s.cueUrgent k 4, kind := 0x02, index := 0x10 + g, arg := s.pR g p roData, seq := (s.eng k).seq,
         data := s.pR g q roData, stampLo := s.now % 2 ^ 32 }])) ∧
      s.ranTo t g insOne w.toNat none = true ∧
      t.mem = s.mem) ∧
  (∀ (g : Fin 48) (x : Fin 16) (p q : Fin 8) (w : Byte) (s : State),
    s.admits g insOne = true →
    (isEngine (s.bR g x roData) = false ∨ s.crewPresent ((s.bR g x roData - 0x10) / 8) = false) →
    answers (.post g x p q w) s fun t =>
      (t.eng g).cur.c = true ∧
      s.ranTo t g insOne w.toNat none = true ∧
      s.engBut t g []) ∧
  (∀ (g : Fin 48) (c : Cue) (q : List Cue) (s : State),
    (s.eng g).st = .waiting →
    takeCue true (s.eng g).queue = some (c, q) →
    (s.eng g).vector c.cls ≠ 0xFFFF →
    s.clocked (3 + g / 8) = true →
    answers (.cueDispatch g) s fun t =>
      (t.eng g).queue = q ∧ (t.eng g).st = .urgent ∧ ((t.eng g).lvl true).cur = c ∧ ((t.eng g).lvl true).pc = (s.eng g).vector c.cls ∧
    t.flagsAre g false false false false = true ∧
      t.mem = s.mem ∧ t.regs = s.regs) ∧
  (∀ (g : Fin 48) (c : Cue) (q : List Cue) (s : State),
    (s.eng g).st = .waiting →
    takeCue true (s.eng g).queue = none →
    takeCue false (s.eng g).queue = some (c, q) →
    (s.eng g).vector c.cls ≠ 0xFFFF →
    s.clocked (3 + g / 8) = true →
    answers (.cueDispatch g) s fun t =>
      (t.eng g).queue = q ∧ (t.eng g).st = .normal ∧ ((t.eng g).lvl false).cur = c ∧ ((t.eng g).lvl false).pc = (s.eng g).vector c.cls ∧
    t.flagsAre g false false false false = true ∧
      t.mem = s.mem ∧ t.regs = s.regs) ∧
  (∀ (g : Fin 48) (c : Cue) (q : List Cue) (s : State),
    (s.eng g).st = .normal →
    (s.eng g).boundary = true →
    takeCue true (s.eng g).queue = some (c, q) →
    (s.eng g).vector c.cls ≠ 0xFFFF →
    s.clocked (3 + g / 8) = true →
    answers (.cueDispatch g) s fun t =>
      (t.eng g).queue = q ∧ (t.eng g).st = .urgentOverNormal ∧ ((t.eng g).lvl true).cur = c ∧ ((t.eng g).lvl true).pc = (s.eng g).vector c.cls ∧
    t.flagsAre g false false false false = true ∧
      (t.eng g).nl = (s.eng g).nl ∧
      t.mem = s.mem ∧ t.regs = s.regs) ∧
  (∀ (g : Fin 48) (c : Cue) (q : List Cue) (s : State),
    ((s.eng g).st = .waiting ∨ (s.eng g).st = .normal ∧ (s.eng g).boundary = true) →
    takeCue true (s.eng g).queue = some (c, q) →
    (s.eng g).vector c.cls = 0xFFFF →
    s.clocked (3 + g / 8) = true →
    answers (.cueDispatch g) s fun t =>
      (t.eng g).queue = q ∧ (t.eng g).st = (s.eng g).st ∧ t.f (ENG_CUE_MISC_UNHANDLED (g / 8) (g % 8)) = min (s.f (ENG_CUE_MISC_UNHANDLED (g / 8) (g % 8)) + 1) 0xFFFF) ∧
  (∀ (g : Fin 48) (n : Fin 4) (s : State),
    ((s.eng g).timer n).en = true →
    s.clocked (3 + g / 8) = true →
    answers (.engineTimerExpire g n) s fun t =>
      ((t.eng g).timer n).en = ((s.eng g).timer n).periodic ∧
      (((t.eng g).timer n).left = if ((s.eng g).timer n).periodic then ((s.eng g).timer n).period else 0) ∧
      (t.offers.take s.offers.length = s.offers) ∧
    (t.offers.drop s.offers.length).map (fun o => [o.target, b2n o.merge, o.cue.cls, o.cue.kind, o.cue.index, o.cue.arg]) =
      [[0x10 + g.val, 1, 3, 8, n.val, 1]] ∧
      t.mem = s.mem ∧ t.regs = s.regs) ∧
  (∀ (g : Fin 48) (n : Fin 4) (b : Byte) (s : State),
    (s.eng g).running = true →
    s.clocked (3 + g / 8) = true →
    answers (.timerCtlWrite g n b) s fun t =>
      ((t.eng g).timer n).en = bitOf b.toNat 0 ∧ ((t.eng g).timer n).periodic = bitOf b.toNat 1 ∧ ((t.eng g).timer n).unit = b.toNat / 4 % 4 ∧
    ((t.eng g).timer n).reload = ((s.eng g).timer n).reload ∧
      (((t.eng g).timer n).left = if bitOf b.toNat 0 then ((s.eng g).timer n).period else ((s.eng g).timer n).count (s.crewNow g)) ∧
      s.engBut t g []) ∧
  (∀ (g : Fin 48) (unit : Bool) (b : Byte) (s : State),
    (s.eng g).running = true →
    s.clocked (3 + g / 8) = true →
    answers (.bankCommitWrite g unit b) s fun t =>
      ((t.eng g).cur = if unit then { (s.eng g).cur with bUnit := b.toNat % 0x10 * 0x10000 + (s.eng g).cur.unitMid * 0x100 + (s.eng g).cur.unitLo }
    else { (s.eng g).cur with bGw := b.toNat % 2 * 0x100 + (s.eng g).cur.gwLo }) ∧
      s.engBut t g []) ∧
  (∀ (g : Fin 48) (s : State),
    (s.eng g).running = true →
    s.clocked (3 + g / 8) = true →
    answers (.slateLatchRead g) s fun t =>
      t.eng g = { s.eng g with slate := s.crewNow g } ∧
      s.engBut t g []) ∧
  (∀ (g : Fin 48) (s : State),
    (s.eng g).running = true →
    s.clocked (3 + g / 8) = true →
    answers (.engineBeat g) s fun t =>
      (let c := g.val / 8; let m := s.f (CUE_HB_STAT_BEATEN c) ||| 2 ^ (g.val % 8); let h := s.f (CUE_CREW_CFG_HB_MASK c)
    if h ≠ 0 ∧ m &&& h = h then t.f (CUE_HB_STAT_BEATEN c) = 0 ∧ t.f (CUE_HB_STAT_BEATS c) = (s.f (CUE_HB_STAT_BEATS c) + 1) % 2 ^ (CUE_HB_STAT_BEATS c).w ∧
        t.f STR_HB_STAT_BEATEN = s.f STR_HB_STAT_BEATEN ||| 2 ^ c
      else t.f (CUE_HB_STAT_BEATEN c) = m) ∧
      s.sameBut [.regs] t) ∧
  (∀ (c : Fin 6) (s : State),
    s.mayGate c = true →
    answers (.crewClockGate c) s fun t =>
      c.val ∈ t.gated ∧
      s.sameBut [.gated] t)

/-- CAN control writes, queue entry writes, recovery and the refusals of R300 and R303. Transceiver requests act outside
clock fallback (R107). Of a control initiator (R300) a write of MODE is kept and takes effect at once where no
attempt is on the bus or in bus-off, unless the controller is OFF in clock fallback (R299, R107); RECOVER starts the
count in bus-off with AUTO_REC 0 (R311); a transceiver request changes the state, SLEEP through GOING_SLEEP, and
waits while that lasts (R314). Any other initiator is refused with NOT_OWNER and nothing else changes. An owner's
handover of a well-formed entry in a software state queues it with its counts at 0; STATE 0 empties a DONE, CANCELLED
or TWIN_FAIL entry; CANCEL ends a QUEUED or SUSPENDED entry and marks the one being sent (R302). A write that R303
refuses leaves the memory and shows its reason. Says that these complete: canModeOff, canModeNormal, canModeListen,
canRecover, trxReqNormal, trxReqListen, trxReqStandby, trxReqSleep, canEntryHandover, canEntryEmpty, canEntryCancel. -/
def Obligations.CanControlAndQueueWrites : Prop :=
  (∀ (n : Fin 8) (init : Byte) (s : State),
    s.busPresent n = true →
    s.canMay n init.toNat = true →
    s.clocked 11 = true →
    answers (.canModeOff n init) s fun t =>
      t.f (CAN_CTL_MODE n) = 0 ∧ regsBut [CAN_CTL n] s t ∧ s.sameBut [.regs, .cans] t ∧
      (((s.can n).cur = none ∨ s.f (CAN_STAT_ESTATE n) = 2) → (s.boot.xtalBad = false ∨ (s.can n).mode ≠ mdOFF) → (t.can n).mode = 0) ∧
      ((s.can n).cur ≠ none → s.f (CAN_STAT_ESTATE n) ≠ 2 → (t.can n).mode = (s.can n).mode)) ∧
  (∀ (n : Fin 8) (init : Byte) (s : State),
    s.busPresent n = true →
    s.canMay n init.toNat = true →
    s.clocked 11 = true →
    answers (.canModeNormal n init) s fun t =>
      t.f (CAN_CTL_MODE n) = 1 ∧ regsBut [CAN_CTL n] s t ∧ s.sameBut [.regs, .cans] t ∧
      (((s.can n).cur = none ∨ s.f (CAN_STAT_ESTATE n) = 2) → (s.boot.xtalBad = false ∨ (s.can n).mode ≠ mdOFF) → (t.can n).mode = 1) ∧
      ((s.can n).cur ≠ none → s.f (CAN_STAT_ESTATE n) ≠ 2 → (t.can n).mode = (s.can n).mode)) ∧
  (∀ (n : Fin 8) (init : Byte) (s : State),
    s.busPresent n = true →
    s.canMay n init.toNat = true →
    s.clocked 11 = true →
    answers (.canModeListen n init) s fun t =>
      t.f (CAN_CTL_MODE n) = 2 ∧ regsBut [CAN_CTL n] s t ∧ s.sameBut [.regs, .cans] t ∧
      (((s.can n).cur = none ∨ s.f (CAN_STAT_ESTATE n) = 2) → (s.boot.xtalBad = false ∨ (s.can n).mode ≠ mdOFF) → (t.can n).mode = 2) ∧
      ((s.can n).cur ≠ none → s.f (CAN_STAT_ESTATE n) ≠ 2 → (t.can n).mode = (s.can n).mode)) ∧
  (∀ (n : Fin 8) (init : Byte) (s : State),
    s.busPresent n = true →
    s.canMay n init.toNat = true →
    s.f (CAN_STAT_ESTATE n) = 2 →
    s.on (CAN_CFG_AUTO_REC n) = false →
    s.on (CAN_STAT_RECOVERING n) = false →
    s.clocked 11 = true →
    answers (.canRecover n init) s fun t =>
      t.f (CAN_STAT_RECOVERING n) = 1 ∧ t.f (CAN_STAT_SEQS n) = 0 ∧
      s.sameBut [.regs] t) ∧
  (∀ (n : Fin 8) (init : Byte) (s : State),
    s.busPresent n = true →
    s.canMay n init.toNat = true →
    s.clocked 11 = true →
    s.boot.xtalBad = false →
    answers (.trxReqNormal n init) s fun t =>
      t.f (CAN_TRX_CTL_REQ n) = trNORMAL ∧
      (s.f (CAN_TRX_STAT_STATE n) ≠ trGOING → t.f (CAN_TRX_STAT_STATE n) = trNORMAL) ∧
      (s.f (CAN_TRX_STAT_STATE n) = trGOING → t.f (CAN_TRX_STAT_STATE n) = trGOING ∧ (t.trxOf n).held = some trNORMAL) ∧
      regsBut [CAN_TRX_CTL n, CAN_TRX_STAT n] s t ∧ s.sameBut [.regs, .trx, .pwr] t) ∧
  (∀ (n : Fin 8) (init : Byte) (s : State),
    s.busPresent n = true →
    s.canMay n init.toNat = true →
    s.clocked 11 = true →
    s.boot.xtalBad = false →
    answers (.trxReqListen n init) s fun t =>
      t.f (CAN_TRX_CTL_REQ n) = trLISTEN ∧
      (s.f (CAN_TRX_STAT_STATE n) ≠ trGOING → t.f (CAN_TRX_STAT_STATE n) = trLISTEN) ∧
      (s.f (CAN_TRX_STAT_STATE n) = trGOING → t.f (CAN_TRX_STAT_STATE n) = trGOING ∧ (t.trxOf n).held = some trLISTEN) ∧
      regsBut [CAN_TRX_CTL n, CAN_TRX_STAT n] s t ∧ s.sameBut [.regs, .trx, .pwr] t) ∧
  (∀ (n : Fin 8) (init : Byte) (s : State),
    s.busPresent n = true →
    s.canMay n init.toNat = true →
    s.clocked 11 = true →
    s.boot.xtalBad = false →
    answers (.trxReqStandby n init) s fun t =>
      t.f (CAN_TRX_CTL_REQ n) = trSTANDBY ∧
      (s.f (CAN_TRX_STAT_STATE n) ≠ trGOING → t.f (CAN_TRX_STAT_STATE n) = trSTANDBY) ∧
      (s.f (CAN_TRX_STAT_STATE n) = trGOING → t.f (CAN_TRX_STAT_STATE n) = trGOING ∧ (t.trxOf n).held = some trSTANDBY) ∧
      regsBut [CAN_TRX_CTL n, CAN_TRX_STAT n] s t ∧ s.sameBut [.regs, .trx, .pwr] t) ∧
  (∀ (n : Fin 8) (init : Byte) (s : State),
    s.busPresent n = true →
    s.canMay n init.toNat = true →
    s.clocked 11 = true →
    s.boot.xtalBad = false →
    answers (.trxReqSleep n init) s fun t =>
      t.f (CAN_TRX_CTL_REQ n) = trSLEEP ∧
      (s.f (CAN_TRX_STAT_STATE n) ≠ trGOING → t.f (CAN_TRX_STAT_STATE n) = if s.f (CAN_TRX_STAT_STATE n) = trSLEEP then trSLEEP else trGOING) ∧
      (s.f (CAN_TRX_STAT_STATE n) = trGOING → t.f (CAN_TRX_STAT_STATE n) = trGOING) ∧
      regsBut [CAN_TRX_CTL n, CAN_TRX_STAT n] s t ∧ s.sameBut [.regs, .trx, .pwr] t) ∧
  (∀ (n : Fin 8) (init : Byte) (s : State),
    s.busPresent n = true →
    s.canMay n init.toNat = false →
    s.clocked 11 = true →
    answers (.canModeOff n init) s fun t =>
      t.f (CAN_QREFUSE_COUNT n) = min (s.f (CAN_QREFUSE_COUNT n) + 1) (2 ^ RF.w (CAN_QREFUSE_COUNT n) - 1) ∧ t.f (CAN_QREFUSE_LAST_INIT n) = init.toNat ∧ t.f (CAN_QREFUSE_LAST_REASON n) = 1 ∧
      regsBut [CAN_QREFUSE n] s t ∧ s.sameBut [.regs] t) ∧
  (∀ (n : Fin 8) (init : Byte) (s : State),
    s.busPresent n = true →
    s.canMay n init.toNat = false →
    s.clocked 11 = true →
    answers (.canModeNormal n init) s fun t =>
      t.f (CAN_QREFUSE_COUNT n) = min (s.f (CAN_QREFUSE_COUNT n) + 1) (2 ^ RF.w (CAN_QREFUSE_COUNT n) - 1) ∧ t.f (CAN_QREFUSE_LAST_INIT n) = init.toNat ∧ t.f (CAN_QREFUSE_LAST_REASON n) = 1 ∧
      regsBut [CAN_QREFUSE n] s t ∧ s.sameBut [.regs] t) ∧
  (∀ (n : Fin 8) (init : Byte) (s : State),
    s.busPresent n = true →
    s.canMay n init.toNat = false →
    s.clocked 11 = true →
    answers (.canModeListen n init) s fun t =>
      t.f (CAN_QREFUSE_COUNT n) = min (s.f (CAN_QREFUSE_COUNT n) + 1) (2 ^ RF.w (CAN_QREFUSE_COUNT n) - 1) ∧ t.f (CAN_QREFUSE_LAST_INIT n) = init.toNat ∧ t.f (CAN_QREFUSE_LAST_REASON n) = 1 ∧
      regsBut [CAN_QREFUSE n] s t ∧ s.sameBut [.regs] t) ∧
  (∀ (n : Fin 8) (init : Byte) (s : State),
    s.busPresent n = true →
    s.canMay n init.toNat = false →
    s.clocked 11 = true →
    answers (.canRecover n init) s fun t =>
      t.f (CAN_QREFUSE_COUNT n) = min (s.f (CAN_QREFUSE_COUNT n) + 1) (2 ^ RF.w (CAN_QREFUSE_COUNT n) - 1) ∧ t.f (CAN_QREFUSE_LAST_INIT n) = init.toNat ∧ t.f (CAN_QREFUSE_LAST_REASON n) = 1 ∧
      regsBut [CAN_QREFUSE n] s t ∧ s.sameBut [.regs] t) ∧
  (∀ (n : Fin 8) (init : Byte) (s : State),
    s.busPresent n = true →
    s.canMay n init.toNat = false →
    s.clocked 11 = true →
    answers (.trxReqNormal n init) s fun t =>
      t.f (CAN_QREFUSE_COUNT n) = min (s.f (CAN_QREFUSE_COUNT n) + 1) (2 ^ RF.w (CAN_QREFUSE_COUNT n) - 1) ∧ t.f (CAN_QREFUSE_LAST_INIT n) = init.toNat ∧ t.f (CAN_QREFUSE_LAST_REASON n) = 1 ∧
      regsBut [CAN_QREFUSE n] s t ∧ s.sameBut [.regs] t) ∧
  (∀ (n : Fin 8) (init : Byte) (s : State),
    s.busPresent n = true →
    s.canMay n init.toNat = false →
    s.clocked 11 = true →
    answers (.trxReqListen n init) s fun t =>
      t.f (CAN_QREFUSE_COUNT n) = min (s.f (CAN_QREFUSE_COUNT n) + 1) (2 ^ RF.w (CAN_QREFUSE_COUNT n) - 1) ∧ t.f (CAN_QREFUSE_LAST_INIT n) = init.toNat ∧ t.f (CAN_QREFUSE_LAST_REASON n) = 1 ∧
      regsBut [CAN_QREFUSE n] s t ∧ s.sameBut [.regs] t) ∧
  (∀ (n : Fin 8) (init : Byte) (s : State),
    s.busPresent n = true →
    s.canMay n init.toNat = false →
    s.clocked 11 = true →
    answers (.trxReqStandby n init) s fun t =>
      t.f (CAN_QREFUSE_COUNT n) = min (s.f (CAN_QREFUSE_COUNT n) + 1) (2 ^ RF.w (CAN_QREFUSE_COUNT n) - 1) ∧ t.f (CAN_QREFUSE_LAST_INIT n) = init.toNat ∧ t.f (CAN_QREFUSE_LAST_REASON n) = 1 ∧
      regsBut [CAN_QREFUSE n] s t ∧ s.sameBut [.regs] t) ∧
  (∀ (n : Fin 8) (init : Byte) (s : State),
    s.busPresent n = true →
    s.canMay n init.toNat = false →
    s.clocked 11 = true →
    answers (.trxReqSleep n init) s fun t =>
      t.f (CAN_QREFUSE_COUNT n) = min (s.f (CAN_QREFUSE_COUNT n) + 1) (2 ^ RF.w (CAN_QREFUSE_COUNT n) - 1) ∧ t.f (CAN_QREFUSE_LAST_INIT n) = init.toNat ∧ t.f (CAN_QREFUSE_LAST_REASON n) = 1 ∧
      regsBut [CAN_QREFUSE n] s t ∧ s.sameBut [.regs] t) ∧
  (∀ (n : Fin 8) (k : Fin 32) (init : Byte) (s : State),
    s.busPresent n = true →
    (isStr init.toNat || (s.canOwner n k = init.toNat && init ≠ 0xFF)) = true →
    s.canHw n k = false →
    s.ceBad n k = false →
    s.clocked 11 = true →
    answers (.canEntryHandover n k init) s fun t =>
      t.mf (ceSTATE n k) = 1 ∧ t.mf (ceATT n k) = 0 ∧ t.mf (ceRUN n k) = 0 ∧ t.mf (ceTWINS n k) = 0 ∧
      memBut [canE n k, canE n k + 1, canE n k + 2, canE n k + 3] s t) ∧
  (∀ (n : Fin 8) (k : Fin 32) (init : Byte) (s : State),
    s.busPresent n = true →
    (isStr init.toNat || (s.canOwner n k = init.toNat && init ≠ 0xFF)) = true →
    4 ≤ s.mf (ceSTATE n k) →
    s.clocked 11 = true →
    answers (.canEntryEmpty n k init) s fun t =>
      t.mf (ceSTATE n k) = 0 ∧
      memBut [canE n k, canE n k + 1, canE n k + 2, canE n k + 3] s t ∧
      s.sameBut [.mem] t) ∧
  (∀ (n : Fin 8) (k : Fin 32) (init : Byte) (s : State),
    s.busPresent n = true →
    (isStr init.toNat || (s.canOwner n k = init.toNat && init ≠ 0xFF)) = true →
    s.canHw n k = true →
    s.clocked 11 = true →
    answers (.canEntryCancel n k init) s fun t =>
      (s.mf (ceSTATE n k) ≠ 2 → t.mf (ceSTATE n k) = 5 ∧ memBut [canE n k, canE n k + 1, canE n k + 2, canE n k + 3] s t ∧ s.sameBut [.mem] t) ∧
      (s.mf (ceSTATE n k) = 2 → (t.can n).cancel = true ∧ s.sameBut [.cans] t)) ∧
  (∀ (n : Fin 8) (k : Fin 32) (init : Byte) (s : State),
    s.busPresent n = true →
    (isStr init.toNat || (s.canOwner n k = init.toNat && init ≠ 0xFF)) = false →
    s.clocked 11 = true →
    answers (.canEntryHandover n k init) s fun t =>
      t.f (CAN_QREFUSE_COUNT n) = min (s.f (CAN_QREFUSE_COUNT n) + 1) (2 ^ RF.w (CAN_QREFUSE_COUNT n) - 1) ∧ t.f (CAN_QREFUSE_LAST_INIT n) = init.toNat ∧ t.f (CAN_QREFUSE_LAST_REASON n) = 1 ∧
      regsBut [CAN_QREFUSE n] s t ∧ s.sameBut [.regs] t) ∧
  (∀ (n : Fin 8) (k : Fin 32) (init : Byte) (s : State),
    s.busPresent n = true →
    (isStr init.toNat || (s.canOwner n k = init.toNat && init ≠ 0xFF)) = false →
    s.clocked 11 = true →
    answers (.canEntryEmpty n k init) s fun t =>
      t.f (CAN_QREFUSE_COUNT n) = min (s.f (CAN_QREFUSE_COUNT n) + 1) (2 ^ RF.w (CAN_QREFUSE_COUNT n) - 1) ∧ t.f (CAN_QREFUSE_LAST_INIT n) = init.toNat ∧ t.f (CAN_QREFUSE_LAST_REASON n) = 1 ∧
      regsBut [CAN_QREFUSE n] s t ∧ s.sameBut [.regs] t) ∧
  (∀ (n : Fin 8) (k : Fin 32) (init : Byte) (s : State),
    s.busPresent n = true →
    (isStr init.toNat || (s.canOwner n k = init.toNat && init ≠ 0xFF)) = false →
    s.clocked 11 = true →
    answers (.canEntryCancel n k init) s fun t =>
      t.f (CAN_QREFUSE_COUNT n) = min (s.f (CAN_QREFUSE_COUNT n) + 1) (2 ^ RF.w (CAN_QREFUSE_COUNT n) - 1) ∧ t.f (CAN_QREFUSE_LAST_INIT n) = init.toNat ∧ t.f (CAN_QREFUSE_LAST_REASON n) = 1 ∧
      regsBut [CAN_QREFUSE n] s t ∧ s.sameBut [.regs] t) ∧
  (∀ (n : Fin 8) (k : Fin 32) (init : Byte) (s : State),
    s.busPresent n = true →
    (isStr init.toNat || (s.canOwner n k = init.toNat && init ≠ 0xFF)) = true →
    s.canHw n k = true →
    s.clocked 11 = true →
    answers (.canEntryHandover n k init) s fun t =>
      t.f (CAN_QREFUSE_COUNT n) = min (s.f (CAN_QREFUSE_COUNT n) + 1) (2 ^ RF.w (CAN_QREFUSE_COUNT n) - 1) ∧ t.f (CAN_QREFUSE_LAST_INIT n) = init.toNat ∧ t.f (CAN_QREFUSE_LAST_REASON n) = 2 ∧
      regsBut [CAN_QREFUSE n] s t ∧ s.sameBut [.regs] t) ∧
  (∀ (n : Fin 8) (k : Fin 32) (init : Byte) (s : State),
    s.busPresent n = true →
    (isStr init.toNat || (s.canOwner n k = init.toNat && init ≠ 0xFF)) = true →
    s.canHw n k = true →
    s.clocked 11 = true →
    answers (.canEntryEmpty n k init) s fun t =>
      t.f (CAN_QREFUSE_COUNT n) = min (s.f (CAN_QREFUSE_COUNT n) + 1) (2 ^ RF.w (CAN_QREFUSE_COUNT n) - 1) ∧ t.f (CAN_QREFUSE_LAST_INIT n) = init.toNat ∧ t.f (CAN_QREFUSE_LAST_REASON n) = 2 ∧
      regsBut [CAN_QREFUSE n] s t ∧ s.sameBut [.regs] t) ∧
  (∀ (n : Fin 8) (k : Fin 32) (init : Byte) (s : State),
    s.busPresent n = true →
    (isStr init.toNat || (s.canOwner n k = init.toNat && init ≠ 0xFF)) = true →
    s.mf (ceSTATE n k) = 0 →
    s.clocked 11 = true →
    answers (.canEntryEmpty n k init) s fun t =>
      t.f (CAN_QREFUSE_COUNT n) = min (s.f (CAN_QREFUSE_COUNT n) + 1) (2 ^ RF.w (CAN_QREFUSE_COUNT n) - 1) ∧ t.f (CAN_QREFUSE_LAST_INIT n) = init.toNat ∧ t.f (CAN_QREFUSE_LAST_REASON n) = 3 ∧
      regsBut [CAN_QREFUSE n] s t ∧ s.sameBut [.regs] t) ∧
  (∀ (n : Fin 8) (k : Fin 32) (init : Byte) (s : State),
    s.busPresent n = true →
    (isStr init.toNat || (s.canOwner n k = init.toNat && init ≠ 0xFF)) = true →
    s.canHw n k = false →
    s.ceBad n k = true →
    s.clocked 11 = true →
    answers (.canEntryHandover n k init) s fun t =>
      t.f (CAN_QREFUSE_COUNT n) = min (s.f (CAN_QREFUSE_COUNT n) + 1) (2 ^ RF.w (CAN_QREFUSE_COUNT n) - 1) ∧ t.f (CAN_QREFUSE_LAST_INIT n) = init.toNat ∧ t.f (CAN_QREFUSE_LAST_REASON n) = 4 ∧
      regsBut [CAN_QREFUSE n] s t ∧ s.sameBut [.regs] t)

/-- CAN attempts and their outcomes, error counts, twins, bus-off and recovery. A sending controller with no attempt on
the bus sends the entry that wins against every other one (R304); it becomes SENDING with ATTEMPTS counted. Success
gives DONE with the SOF stamp, TX_OK and TEC less 1; a lost arbitration gives QUEUED, or CANCELLED if it was
cancelled, and ends the run of twin evidence; an error counts 8 to TEC but for the exceptions, is recorded, and is
twin evidence where R310 says so: at TWIN_N the twin is declared and the entry is SUSPENDED, or TWIN_FAIL at
TWIN_GIVEUP. The error state follows TEC and REC (R309), with bus-off above 255 (R311). Back-off and hold-off end,
and a completed recovery sets TEC and REC to 0 and ends bus-off (R308, R311). Says that these complete: canTxStart,
canTxSuccess, canArbLost, canTxError, twinBackoffExpire, busoffHoldoffExpire, busoffRecoveryComplete. -/
def Obligations.CanAttemptsErrorsAndRecovery : Prop :=
  (∀ (n : Fin 8) (tdcv : BitVec 12) (s : State),
    s.canSends n = true →
    (s.can n).cur = none →
    (leastKey (s.canReady n)).isSome = true →
    s.clocked 11 = true →
    answers (.canTxStart n tdcv) s fun t =>
      (let k := ((leastKey (s.canReady n)).getD (0, 0)).2
    (t.can n).cur = some k ∧ (t.can n).cancel = false ∧ (t.can n).sof = (s.islandSlate 11).toNat ∧
    (k < 32 → t.mf (ceSTATE n k) = 2 ∧ t.mf (ceATT n k) = min (s.mf (ceATT n k) + 1) 0xFF)) ∧
      (∀ x ∈ s.canReady n, ((leastKey (s.canReady n)).getD (0, 0)).1 ≤ x.1)) ∧
  (∀ (n : Fin 8) (k : Fin 32) (s : State),
    (s.can n).cur = some k.val →
    s.clocked 11 = true →
    answers (.canTxSuccess n) s fun t =>
      (t.can n).cur = none ∧ t.mf (ceSTATE n k) = 4 ∧ t.mf (ceRUN n k) = 0 ∧ t.rdN (canE n k + 0x10) 8 = (s.can n).sof % 2 ^ 64 ∧
      t.f (CAN_COUNT_TX_OK n) = (s.f (CAN_COUNT_TX_OK n) + 1) % 2 ^ RF.w (CAN_COUNT_TX_OK n) ∧ t.f (CAN_STAT_TEC n) = s.f (CAN_STAT_TEC n) - 1) ∧
  (∀ (n : Fin 8) (m : List Byte) (s : State),
    (s.can n).cur = some 32 →
    (s.can n).nm = some m →
    m.length = 8 →
    s.clocked 11 = true →
    answers (.canTxSuccess n) s fun t =>
      (t.can n).cur = none ∧
      t.f (CAN_COUNT_TX_OK n) = (s.f (CAN_COUNT_TX_OK n) + 1) % 2 ^ RF.w (CAN_COUNT_TX_OK n) ∧ t.f (CAN_STAT_TEC n) = s.f (CAN_STAT_TEC n) - 1) ∧
  (∀ (n : Fin 8) (k : Fin 32) (s : State),
    (s.can n).cur = some k.val →
    s.clocked 11 = true →
    answers (.canArbLost n) s fun t =>
      ((t.can n).cur = none ∧ t.mf (ceSTATE n k) = (if (s.can n).cancel then 5 else 1) ∧ t.mf (ceRUN n k) = 0) ∧
      t.regs = s.regs) ∧
  (∀ (n : Fin 8) (k : Fin 32) (lec field : Fin 8) (dp : Bool) (what : Fin 4) (s : State),
    (s.can n).mode = mdNORMAL →
    s.f (CAN_STAT_ESTATE n) ≠ 2 →
    (s.can n).cur = some k.val →
    s.clocked 11 = true →
    answers (.canTxError n lec field dp what) s fun t =>
      (t.f (CAN_STAT_TEC n) = (if what = 1 then s.f (CAN_STAT_TEC n) else min (s.f (CAN_STAT_TEC n) + 8) (2 ^ RF.w (CAN_STAT_TEC n) - 1))) ∧
      (what ≠ 3 → t.f (CAN_ERR_COUNT n) = min (s.f (CAN_ERR_COUNT n) + 1) (2 ^ RF.w (CAN_ERR_COUNT n) - 1) ∧ t.f (CAN_ERR_LEC n) = lec ∧ t.f (CAN_ERR_FIELD n) = field) ∧
      (t.f (CAN_STAT_ESTATE n) = if 255 < t.f (CAN_STAT_TEC n) then 2 else if 128 ≤ t.f (CAN_STAT_TEC n) ∨ 128 ≤ s.f (CAN_STAT_REC n) then 1 else 0) ∧
      (what.val < 2 → (t.can n).cur = none ∧ t.mf (ceERR n k) = lec ∧
    if ((lec.val = 1 ∨ lec.val = 4 ∨ lec.val = 5) ∧ (field.val = 1 ∨ field.val = 2)) ∧ s.f (CAN_CFG_TWIN_N n) ≤ s.mf (ceRUN n k) + 1 then
      t.f (CAN_FLAG_TWIN n) = 1 ∧ t.mf (ceRUN n k) = 0 ∧ t.mf (ceTWINS n k) = min (s.mf (ceTWINS n k) + 1) 0xF ∧
      t.mf (ceSTATE n k) = if (s.can n).cancel then 5
        else if s.f (CAN_CFG_TWIN_GIVEUP n) ≠ 0 ∧ s.f (CAN_CFG_TWIN_GIVEUP n) ≤ min (s.mf (ceTWINS n k) + 1) 0xF then 6 else 3
    else t.mf (ceRUN n k) = (if ((lec.val = 1 ∨ lec.val = 4 ∨ lec.val = 5) ∧ (field.val = 1 ∨ field.val = 2)) then (s.mf (ceRUN n k) + 1) % 0x10 else 0) ∧ t.mf (ceSTATE n k) = if (s.can n).cancel then 5 else 1) ∧
      (255 < t.f (CAN_STAT_TEC n) → t.f (CAN_FLAG_BUSOFF n) = 1 ∧ t.f (CAN_STAT_HOLDING n) = s.f (CAN_CFG_AUTO_REC n) ∧ (t.can n).cur = none)) ∧
  (∀ (n : Fin 8) (k : Fin 32) (s : State),
    s.mf (ceSTATE n k) = 3 →
    s.clocked 11 = true →
    answers (.twinBackoffExpire n k) s fun t =>
      t.mf (ceSTATE n k) = 1 ∧
      memBut [canE n k, canE n k + 1, canE n k + 2, canE n k + 3] s t ∧
      s.sameBut [.mem] t) ∧
  (∀ (n : Fin 8) (s : State),
    s.on (CAN_STAT_HOLDING n) = true →
    s.clocked 11 = true →
    answers (.busoffHoldoffExpire n) s fun t =>
      t.f (CAN_STAT_HOLDING n) = 0 ∧ t.f (CAN_STAT_RECOVERING n) = 1 ∧ t.f (CAN_STAT_SEQS n) = 0 ∧
      s.sameBut [.regs] t) ∧
  (∀ (n : Fin 8) (s : State),
    s.on (CAN_STAT_RECOVERING n) = true →
    (s.can n).mode = mdNORMAL →
    s.clocked 11 = true →
    answers (.busoffRecoveryComplete n) s fun t =>
      t.f (CAN_STAT_TEC n) = 0 ∧ t.f (CAN_STAT_REC n) = 0 ∧ t.f (CAN_STAT_ESTATE n) = 0 ∧ t.f (CAN_STAT_RECOVERING n) = 0 ∧ t.f (CAN_FLAG_RECOVERED n) = 1 ∧
      t.mem = s.mem ∧ t.cans = s.cans)

/-- CAN reception, receive errors, transceiver timers, bus wakes and the wake decoder. A controller that hears the bus
hands a frame to the gateway with its identifier, format and stamp and counts it, or loses it with RX_OVF where four
wait (R306, R307); REC follows R308 in NORMAL and is frozen in LISTEN (R299). The sleep timer ends GOING_SLEEP in
SLEEP (R314); the time-out of a dominant level releases the transmitter (R317). A wake that its detector admits sets
WAKE and CAUSE and latches its source; of CAN4 to CAN7 in Sleep it is source 14 (R314 to R318, R80). The decoder is
armed and disarmed, counts errors up to 32 while armed and ignores FD frames (R316). WAKE of the controller engine
clears WAKE and CAUSE. Says that these complete: canFrameReceived, canRxError, trxSleepTimer, canBusWake,
swDecoderArm, fecFrameCount, swDecoderDisarm, canDomTimeout, canWakeClear. -/
def Obligations.CanReceptionWakeAndTransceivers : Prop :=
  (∀ (n : Fin 8) (f : CanFrame) (s : State),
    s.canHears n = true →
    (f.fdf = true → s.on (CAN_CFG_FD_EN n) = true) →
    s.clocked 11 = true →
    answers (.canFrameReceived n f) s fun t =>
      ((s.gw.inq.filter (fun g => g.port = n.val + 3)).length < 4 → t.gw.inq = s.gw.inq ++ [canGwFrame n f (s.islandSlate 11).toNat] ∧
    t.f (CAN_COUNT_RX_OK n) = (s.f (CAN_COUNT_RX_OK n) + 1) % 2 ^ RF.w (CAN_COUNT_RX_OK n)) ∧
      (4 ≤ (s.gw.inq.filter (fun g => g.port = n.val + 3)).length → t.gw.inq = s.gw.inq ∧ t.f (CAN_FLAG_RX_OVF n) = 1) ∧
      (t.f (CAN_STAT_REC n) = if (s.can n).mode = mdNORMAL then (if s.f (CAN_STAT_REC n) = 0 then 0 else if s.f (CAN_STAT_REC n) < 128 then s.f (CAN_STAT_REC n) - 1 else 120)
    else s.f (CAN_STAT_REC n))) ∧
  (∀ (n lec field : Fin 8) (dp : Bool) (what : Fin 4) (s : State),
    s.canHears n = true →
    s.clocked 11 = true →
    answers (.canRxError n lec field dp what) s fun t =>
      (t.f (CAN_STAT_REC n) = if (s.can n).mode = mdNORMAL then min (s.f (CAN_STAT_REC n) + (if what = 0 then 1 else 8)) 255 else s.f (CAN_STAT_REC n)) ∧
      ((what = 0 ∨ what = 2) → t.f (CAN_ERR_LEC n) = lec ∧ t.f (CAN_ERR_FIELD n) = field ∧ t.f (CAN_ERR_COUNT n) = min (s.f (CAN_ERR_COUNT n) + 1) (2 ^ RF.w (CAN_ERR_COUNT n) - 1)) ∧
      t.f (CAN_STAT_TEC n) = s.f (CAN_STAT_TEC n)) ∧
  (∀ (n : Fin 16) (s : State),
    s.f (trxStateRF n) = trGOING →
    (s.trxOf n).held = none →
    answers (.trxSleepTimer n) s fun t =>
      t.f (trxStateRF n) = trSLEEP ∧
      t.mem = s.mem ∧ t.cans = s.cans) ∧
  (∀ (n : Fin 16) (r : Fin 3) (s : State),
    s.f (trxStateRF n) = trGOING →
    (s.trxOf n).held = some r.val →
    answers (.trxSleepTimer n) s fun t =>
      (t.trxOf n).held = none ∧
      t.mem = s.mem ∧ t.cans = s.cans) ∧
  (∀ (n cause : Fin 4) (f : CanFrame) (s : State),
    s.busPresent n = true →
    s.detecting n = true →
    s.wakeHolds n cause f = true →
    answers (.canBusWake ⟨n, by omega⟩ cause f) s fun t =>
      t.f (CAN_TRX_STAT_WAKE n) = 1 ∧ t.f (CAN_TRX_STAT_CAUSE n) = cause ∧ t.f (CAN_TRX_STAT_FEC n) = 0 ∧
      bitOf (t.f PWR_WAKE_SRC_SRC) (2 + n) = true ∧
      (t.trxOf n).held = none ∨ t.f (CAN_TRX_STAT_STATE n) = trGOING) ∧
  (∀ (n : Fin 8) (cause : Fin 4) (f : CanFrame) (s : State),
    s.busPresent n = true →
    s.detecting n = true →
    4 ≤ n.val →
    s.f PWR_STATE_STATE = 2 →
    answers (.canBusWake n cause f) s fun t =>
      bitOf (t.f PWR_WAKE_SRC_SRC) 14 = true ∧
      t.f (CAN_TRX_STAT_WAKE n) = s.f (CAN_TRX_STAT_WAKE n)) ∧
  (∀ (n : Fin 4) (s : State),
    s.detecting n = true →
    s.on (CAN_TRX_CFG_SW_EN n) = true →
    answers (.swDecoderArm n) s fun t =>
      t.trxOf n = { s.trxOf n with armed := true } ∧
      s.sameBut [.trx] t) ∧
  (∀ (n : Fin 4) (err fdf : Bool) (s : State),
    (s.trxOf n).armed = true →
    answers (.fecFrameCount n err fdf) s fun t =>
      (t.f (CAN_TRX_STAT_FEC n) = if fdf then s.f (CAN_TRX_STAT_FEC n) else if err then min (s.f (CAN_TRX_STAT_FEC n) + 1) 32 else s.f (CAN_TRX_STAT_FEC n) - 1) ∧
      s.sameBut [.regs] t ∧
      regsBut [CAN_TRX_STAT n] s t) ∧
  (∀ (n : Fin 4) (s : State),
    answers (.swDecoderDisarm n) s fun t =>
      t.trxOf n = { s.trxOf n with armed := false } ∧
      s.sameBut [.trx] t) ∧
  (∀ (n : Fin 4) (s : State),
    s.f (CAN_TRX_STAT_STATE n) = trNORMAL →
    (s.trxOf n).dom = false →
    answers (.canDomTimeout n) s fun t =>
      (t.trxOf n).dom = true ∧ t.f (CAN_FLAG_DOM_TIMEOUT n) = 1 ∧
      t.cans = s.cans ∧ t.mem = s.mem) ∧
  (∀ (n : Fin 8) (init : Byte) (s : State),
    isEngine init.toNat = true →
    s.f (CAN_ACCESS_CTL_ENGINE n) = init.toNat →
    answers (.canWakeClear n init) s fun t =>
      t.f (CAN_TRX_STAT_WAKE n) = 0 ∧ t.f (CAN_TRX_STAT_CAUSE n) = 0 ∧
      regsBut [CAN_TRX_STAT n] s t ∧ s.sameBut [.regs] t)

/-- LIN control, publish copies, schedule slots, headers, responses, sleep, wake and errors. Wakes, go-to-sleep and
transceiver requests act outside clock fallback (R107). Of a control initiator SCHED, RUN, GOTO_SLEEP, SEND_WAKE and
TRX_REQ act (R322, R325 to R327); another is refused and counted. COMMIT by the owner puts the staged bytes into the
publish copy (R320). A commander in RUN starts the next slot with the buffer it sends or expects (R322); the slot's
end flags a missing response and moves to SCHED, the next slot or slot 0 after END. A responder takes a header with
right sync and parity to its buffer (R323), else flags SYNC or PARITY (R324). A good response sets RESULT 1, counts
SEQ and clears UPDATED of a published buffer, or stores the data and hands the frame to the gateway; a bad one is an
error, or a collision in an event-triggered slot (R322). Sleep is flagged at a responder (R325), wake pulses are
retried up to three (R326), a wake is latched (R327), and DOM_TIMEOUT releases the transmitter (R324). Says that
these complete: linSchedSelect, linRun, linGotoSleep, linSendWake, linTrxReq, linWakeClear, linBufferCommit,
linSlotStart, linSlotEnd, linHeaderReceived, linResponse, linGotoSleepRx, linBusIdleTimeout, linWakeScheduleStart,
linWakeRetry, linBusWake, linDomTimeout. -/
def Obligations.LinControlSlotsAndResponses : Prop :=
  (∀ (n : Fin 8) (init : Byte) (x : Fin 4) (s : State),
    s.busPresent n = true →
    s.linMay n init.toNat = true →
    s.clocked 11 = true →
    answers (.linSchedSelect n init x) s fun t =>
      t.f (LIN_CTL_SCHED n) = x ∧
      regsBut [LIN_CTL n] s t ∧ s.sameBut [.regs] t) ∧
  (∀ (n : Fin 8) (init : Byte) (v : Bool) (s : State),
    s.busPresent n = true →
    s.linMay n init.toNat = true →
    s.clocked 11 = true →
    answers (.linRun n init v) s fun t =>
      t.f (LIN_CTL_RUN n) = b2n v ∧
      (t.lin n).started = ((s.lin n).started && (v || (s.lin n).slotOn)) ∧
      regsBut [LIN_CTL n] s t ∧ s.sameBut [.regs, .lins] t) ∧
  (∀ (n : Fin 8) (init : Byte) (s : State),
    s.busPresent n = true →
    s.linMay n init.toNat = true →
    s.on (LIN_CFG0_ROLE n) = false →
    s.clocked 11 = true →
    s.boot.xtalBad = false →
    answers (.linGotoSleep n init) s fun t =>
      ((s.lin n).slotOn = true → (t.lin n).sleepReq = true ∧ s.sameBut [.lins] t) ∧
      ((s.lin n).slotOn = false → t.f (LIN_CTL_RUN n) = 0 ∧ (t.lin n).started = false ∧ (t.lin n).sleepReq = false)) ∧
  (∀ (n : Fin 8) (init : Byte) (s : State),
    s.busPresent n = true →
    s.linMay n init.toNat = true →
    s.clocked 11 = true →
    s.boot.xtalBad = false →
    answers (.linSendWake n init) s fun t =>
      (t.lin n).pulses = 1 ∧
      (t.lin n).wait = (s.on (LIN_CFG0_ROLE n) || !(s.lin n).started) ∧
      s.sameBut [.lins] t) ∧
  (∀ (n : Fin 8) (init : Byte) (r : Fin 4) (s : State),
    s.busPresent n = true →
    s.linMay n init.toNat = true →
    r ≠ 1 →
    s.clocked 11 = true →
    s.boot.xtalBad = false →
    answers (.linTrxReq n init r) s fun t =>
      t.f (LIN_CTL_TRX_REQ n) = r ∧
      (s.f (LIN_STAT_TRX_STATE n) ≠ trGOING → t.f (LIN_STAT_TRX_STATE n) = if r = 3 ∧ s.f (LIN_STAT_TRX_STATE n) ≠ trSLEEP then trGOING else r) ∧
      (s.f (LIN_STAT_TRX_STATE n) = trGOING → t.f (LIN_STAT_TRX_STATE n) = trGOING ∧ (r ≠ 3 → (t.trxOf (8 + n)).held = some r.val)) ∧
      regsBut [LIN_CTL n, LIN_STAT n] s t ∧ s.sameBut [.regs, .trx, .pwr] t) ∧
  (∀ (n : Fin 8) (init : Byte) (s : State),
    s.linMay n init.toNat = true →
    answers (.linWakeClear n init) s fun t =>
      t.f (LIN_STAT_WAKE n) = 0 ∧
      regsBut [LIN_STAT n] s t ∧ s.sameBut [.regs] t) ∧
  (∀ (n : Fin 8) (init : Byte) (x : Fin 4) (s : State),
    s.busPresent n = true →
    s.linMay n init.toNat = false →
    s.clocked 11 = true →
    answers (.linSchedSelect n init x) s fun t =>
      t.f (LIN_REFUSE_COUNT n) = min (s.f (LIN_REFUSE_COUNT n) + 1) (2 ^ RF.w (LIN_REFUSE_COUNT n) - 1) ∧ t.f (LIN_REFUSE_LAST_INIT n) = init.toNat ∧
      regsBut [LIN_REFUSE n] s t ∧ s.sameBut [.regs] t) ∧
  (∀ (n : Fin 8) (init : Byte) (v : Bool) (s : State),
    s.busPresent n = true →
    s.linMay n init.toNat = false →
    s.clocked 11 = true →
    answers (.linRun n init v) s fun t =>
      t.f (LIN_REFUSE_COUNT n) = min (s.f (LIN_REFUSE_COUNT n) + 1) (2 ^ RF.w (LIN_REFUSE_COUNT n) - 1) ∧ t.f (LIN_REFUSE_LAST_INIT n) = init.toNat ∧
      regsBut [LIN_REFUSE n] s t ∧ s.sameBut [.regs] t) ∧
  (∀ (n : Fin 8) (init : Byte) (s : State),
    s.busPresent n = true →
    s.linMay n init.toNat = false →
    s.clocked 11 = true →
    answers (.linGotoSleep n init) s fun t =>
      t.f (LIN_REFUSE_COUNT n) = min (s.f (LIN_REFUSE_COUNT n) + 1) (2 ^ RF.w (LIN_REFUSE_COUNT n) - 1) ∧ t.f (LIN_REFUSE_LAST_INIT n) = init.toNat ∧
      regsBut [LIN_REFUSE n] s t ∧ s.sameBut [.regs] t) ∧
  (∀ (n : Fin 8) (init : Byte) (s : State),
    s.busPresent n = true →
    s.linMay n init.toNat = false →
    s.clocked 11 = true →
    answers (.linSendWake n init) s fun t =>
      t.f (LIN_REFUSE_COUNT n) = min (s.f (LIN_REFUSE_COUNT n) + 1) (2 ^ RF.w (LIN_REFUSE_COUNT n) - 1) ∧ t.f (LIN_REFUSE_LAST_INIT n) = init.toNat ∧
      regsBut [LIN_REFUSE n] s t ∧ s.sameBut [.regs] t) ∧
  (∀ (n : Fin 8) (init : Byte) (r : Fin 4) (s : State),
    s.busPresent n = true →
    s.linMay n init.toNat = false →
    s.clocked 11 = true →
    answers (.linTrxReq n init r) s fun t =>
      t.f (LIN_REFUSE_COUNT n) = min (s.f (LIN_REFUSE_COUNT n) + 1) (2 ^ RF.w (LIN_REFUSE_COUNT n) - 1) ∧ t.f (LIN_REFUSE_LAST_INIT n) = init.toNat ∧
      regsBut [LIN_REFUSE n] s t ∧ s.sameBut [.regs] t) ∧
  (∀ (n : Fin 8) (init : Byte) (s : State),
    s.busPresent n = true →
    s.linMay n init.toNat = true →
    s.clocked 11 = true →
    answers (.linTrxReq n init 1) s fun t =>
      t.f (LIN_REFUSE_COUNT n) = min (s.f (LIN_REFUSE_COUNT n) + 1) (2 ^ RF.w (LIN_REFUSE_COUNT n) - 1) ∧ t.f (LIN_REFUSE_LAST_INIT n) = init.toNat ∧
      regsBut [LIN_REFUSE n] s t ∧ s.sameBut [.regs] t) ∧
  (∀ (n : Fin 8) (b : Fin 64) (init : Byte) (s : State),
    s.busPresent n = true →
    s.mf (lbDIR n b) = 0 →
    (isStr init.toNat || (s.mf (lbOWNER n b) = init.toNat && init ≠ 0xFF)) = true →
    s.clocked 11 = true →
    answers (.linBufferCommit n b init) s fun t =>
      t.linPub n b = s.rdBytes (linB n b + 8) 8 ∧ t.mf (lbUPD n b) = 1 ∧
      memBut [linB n b + 4, linB n b + 5, linB n b + 6, linB n b + 7] s t ∧
      s.sameBut [.mem, .lins] t) ∧
  (∀ (n : Fin 8) (b : Fin 64) (init : Byte) (s : State),
    s.busPresent n = true →
    s.mf (lbDIR n b) = 0 →
    (isStr init.toNat || (s.mf (lbOWNER n b) = init.toNat && init ≠ 0xFF)) = false →
    s.clocked 11 = true →
    answers (.linBufferCommit n b init) s fun t =>
      t.f (LIN_REFUSE_COUNT n) = min (s.f (LIN_REFUSE_COUNT n) + 1) (2 ^ RF.w (LIN_REFUSE_COUNT n) - 1) ∧ t.f (LIN_REFUSE_LAST_INIT n) = init.toNat ∧
      regsBut [LIN_REFUSE n] s t ∧ s.sameBut [.regs] t) ∧
  (∀ (n : Fin 8) (s : State),
    s.on (LIN_CFG0_ROLE n) = false →
    s.on (LIN_CTL_RUN n) = true →
    (s.lin n).slotOn = false →
    (s.lin n).wait = false →
    s.f (LIN_STAT_TRX_STATE n) = trNORMAL →
    s.boot.xtalBad = false →
    s.clocked 11 = true →
    answers (.linSlotStart n) s fun t =>
      (let x := s.lin n; let a := if x.started then s.f (LIN_STAT_SCHED_ACTIVE n) else s.f (LIN_CTL_SCHED n); let k := if x.started then x.next else 0
    t.f (LIN_STAT_SCHED_ACTIVE n) = a ∧ t.f (LIN_STAT_SLOT n) = k % 64 ∧ (t.lin n).slotOn = true ∧ (t.lin n).started = true ∧
    (t.lin n).answered = false ∧ (t.lin n).buf = s.linSlotBuf n (s.linSlot n a k)) ∧
      t.mem = s.mem) ∧
  (∀ (n : Fin 8) (s : State),
    s.on (LIN_CFG0_ROLE n) = false →
    (s.lin n).slotOn = true →
    s.clocked 11 = true →
    answers (.linSlotEnd n) s fun t =>
      (t.lin n).slotOn = false ∧
      ((s.lin n).sleepReq = true → t.f (LIN_CTL_RUN n) = 0 ∧ (t.lin n).started = false ∧ (t.lin n).sleepReq = false) ∧
      ((s.lin n).sleepReq = false → (t.lin n).started = s.on (LIN_CTL_RUN n)) ∧
      ((s.lin n).sleepReq = false → (s.lin n).resume = [] → s.f (LIN_CTL_SCHED n) ≠ s.f (LIN_STAT_SCHED_ACTIVE n) →
    t.f (LIN_STAT_SCHED_ACTIVE n) = s.f (LIN_CTL_SCHED n) ∧ (t.lin n).next = 0) ∧
      ((s.lin n).sleepReq = false → (s.lin n).resume = [] → s.f (LIN_CTL_SCHED n) = s.f (LIN_STAT_SCHED_ACTIVE n) → (s.lin n).coll = none →
    t.f (LIN_STAT_SCHED_ACTIVE n) = s.f (LIN_STAT_SCHED_ACTIVE n) ∧
    (t.lin n).next = if bitOf (s.linSlot n (s.f (LIN_STAT_SCHED_ACTIVE n)) (s.f (LIN_STAT_SLOT n))) 17 then 0
      else (s.f (LIN_STAT_SLOT n) + 1) % 64)) ∧
  (∀ (n : Fin 8) (b : Fin 64) (s : State),
    s.on (LIN_CFG0_ROLE n) = false →
    (s.lin n).slotOn = true →
    (s.lin n).buf = some b.val →
    (s.lin n).answered = false →
    s.mf (lbDIR n b) = 1 →
    s.mf (lbTYPE n b) ≠ 1 →
    s.clocked 11 = true →
    answers (.linSlotEnd n) s fun t =>
      t.f (LIN_FLAG_NO_RESPONSE n) = 1 ∧ t.mf (lbRES n b) = 2 ∧
      (t.lin n).slotOn = false) ∧
  (∀ (n : Fin 8) (fid : Fin 64) (s : State),
    s.on (LIN_CFG0_ROLE n) = true →
    s.f (LIN_STAT_TRX_STATE n) = trNORMAL →
    s.boot.xtalBad = false →
    s.clocked 11 = true →
    answers (.linHeaderReceived n (BitVec.ofNat 8 (linPid fid)) true) s fun t =>
      (t.lin n).wait = false ∧ (t.lin n).pulses = 0 ∧ (t.lin n).answered = false ∧ (t.lin n).buf = s.linMatch n fid ∧
      s.sameBut [.lins] t) ∧
  (∀ (n : Fin 8) (pid : Byte) (s : State),
    s.on (LIN_CFG0_ROLE n) = true →
    s.f (LIN_STAT_TRX_STATE n) = trNORMAL →
    s.boot.xtalBad = false →
    linPid (pid.toNat % 64) ≠ pid.toNat →
    s.clocked 11 = true →
    answers (.linHeaderReceived n pid true) s fun t =>
      t.f (LIN_FLAG_PARITY n) = 1 ∧ t.lins = s.lins ∧ t.mem = s.mem) ∧
  (∀ (n : Fin 8) (pid : Byte) (s : State),
    s.on (LIN_CFG0_ROLE n) = true →
    s.f (LIN_STAT_TRX_STATE n) = trNORMAL →
    s.boot.xtalBad = false →
    s.clocked 11 = true →
    answers (.linHeaderReceived n pid false) s fun t =>
      t.f (LIN_FLAG_SYNC n) = 1 ∧ t.lins = s.lins ∧ t.mem = s.mem) ∧
  (∀ (n : Fin 8) (b : Fin 64) (data : List Byte) (s : State),
    (s.lin n).buf = some b.val →
    (s.lin n).answered = false →
    s.mf (lbDIR n b) = 1 →
    s.mf (lbLEN n b) ≤ data.length →
    s.mf (lbLEN n b) ≤ 8 →
    s.clocked 11 = true →
    answers (.linResponse n 0 data) s fun t =>
      (t.lin n).answered = true ∧ t.mf (lbRES n b) = 1 ∧ t.mf (lbSEQ n b) = (s.mf (lbSEQ n b) + 1) % 0x10000 ∧
      t.rdBytes (linB n b + 8) (s.mf (lbLEN n b)) = data.take (s.mf (lbLEN n b)) ∧
      t.gw.inq = s.gw.inq ++ [{ port := 11 + n, kind := 2, id := s.mf (lbFID n b), data := data.take (s.mf (lbLEN n b)), stamp := (s.islandSlate 11).toNat }] ∧
      t.regs = s.regs) ∧
  (∀ (n : Fin 8) (b : Fin 64) (data : List Byte) (s : State),
    (s.lin n).buf = some b.val →
    (s.lin n).answered = false →
    s.mf (lbDIR n b) = 0 →
    s.clocked 11 = true →
    answers (.linResponse n 0 data) s fun t =>
      (t.lin n).answered = true ∧ t.mf (lbRES n b) = 1 ∧ t.mf (lbSEQ n b) = (s.mf (lbSEQ n b) + 1) % 0x10000 ∧ t.mf (lbUPD n b) = 0 ∧
      t.regs = s.regs ∧ t.gw = s.gw) ∧
  (∀ (n : Fin 8) (b : Fin 64) (kind : Fin 4) (data : List Byte) (s : State),
    (s.lin n).buf = some b.val →
    (s.lin n).answered = false →
    kind ≠ 0 →
    s.clocked 11 = true →
    answers (.linResponse n kind data) s fun t =>
      (t.lin n).answered = true ∧ t.mf (lbRES n b) = 2 ∧
      (s.on (LIN_CFG0_ROLE n) = false → s.mf (lbDIR n b) = 1 → s.mf (lbTYPE n b) = 1 → t.f (LIN_FLAG_COLLISION n) = 1 ∧ (t.lin n).coll =
    some (s.linSlot n (s.f (LIN_STAT_SCHED_ACTIVE n)) (s.f (LIN_STAT_SLOT n)) / 2 ^ 15 % 4)) ∧
      ((s.on (LIN_CFG0_ROLE n) = true ∨ s.mf (lbDIR n b) = 0 ∨ s.mf (lbTYPE n b) ≠ 1) → t.f (if kind = 1 then LIN_FLAG_CHECKSUM n else if kind = 2 then LIN_FLAG_BIT_ERR n else LIN_FLAG_FRAMING n) = 1)) ∧
  (∀ (n : Fin 8) (s : State),
    s.on (LIN_CFG0_ROLE n) = true →
    s.clocked 11 = true →
    s.f (trxStateRF (8 + n)) = trNORMAL →
    answers (.linGotoSleepRx n) s fun t =>
      t.f (LIN_FLAG_GOTO_SLEEP_RX n) = 1 ∧
      (s.nmOn (8 + n) = true → s.nst (8 + n) = nsAWAKE → s.nmMaySleep (8 + n) = false → (t.lin n).pulses = 1 ∧ (t.lin n).wait = true) ∧
      (s.nmOn (8 + n) = false → t.lins = s.lins ∧ t.mem = s.mem)) ∧
  (∀ (n : Fin 8) (s : State),
    s.on (LIN_CFG0_ROLE n) = true →
    s.clocked 11 = true →
    answers (.linBusIdleTimeout n) s fun t =>
      t.f (LIN_FLAG_GOTO_SLEEP_RX n) = 1 ∧
      (s.nmOn (8 + n) = true → s.nst (8 + n) = nsAWAKE → s.nmMaySleep (8 + n) = false → (t.lin n).pulses = 1 ∧ (t.lin n).wait = true) ∧
      (s.nmOn (8 + n) = false → t.lins = s.lins ∧ t.mem = s.mem)) ∧
  (∀ (n : Fin 8) (s : State),
    s.on (LIN_CFG0_ROLE n) = false →
    s.clocked 11 = true →
    answers (.linWakeScheduleStart n) s fun t =>
      (t.lin n).wait = false ∧ (t.lin n).pulses = 0 ∧
      s.sameBut [.lins] t) ∧
  (∀ (n : Fin 8) (s : State),
    s.on (LIN_CFG0_ROLE n) = true →
    (s.lin n).wait = true →
    s.clocked 11 = true →
    answers (.linWakeRetry n) s fun t =>
      ((s.lin n).pulses < 3 → (t.lin n).pulses = (s.lin n).pulses + 1 ∧ (t.lin n).wait = true ∧ s.sameBut [.lins] t) ∧
      (3 ≤ (s.lin n).pulses → (t.lin n).wait = false ∧ t.f (LIN_FLAG_WAKE_FAIL n) = 1)) ∧
  (∀ (n : Fin 8) (s : State),
    s.busPresent n = true →
    s.detecting (8 + n) = true →
    answers (.linBusWake n) s fun t =>
      t.f (LIN_STAT_WAKE n) = 1 ∧ bitOf (t.f PWR_WAKE_SRC_SRC) (6 + n) = true ∧
      (s.f (LIN_STAT_TRX_STATE n) = trGOING → t.f (LIN_FLAG_WAKE_AT_SLEEP n) = 1)) ∧
  (∀ (n : Fin 8) (s : State),
    s.f (LIN_STAT_TRX_STATE n) = trNORMAL →
    (s.trxOf (8 + n)).dom = false →
    s.clocked 11 = true →
    answers (.linDomTimeout n) s fun t =>
      (t.trxOf (8 + n)).dom = true ∧ t.f (LIN_FLAG_DOM_TIMEOUT n) = 1 ∧
      t.lins = s.lins)

/-- Ethernet ingress outside and in recovery, egress, gate control and the reset of a recovery stream. A frame at a
linked port passes MACsec, elimination and its VLAN (R332, R334, R335): each discard is counted at its port, and a
frame with a destination of its own is forwarded, ACF and ZRT frames wait for their units, and any other for the
gateway is queued for its lookup (R331, R337). In recovery only untagged ZRT frames for the module are kept (R513).
Egress takes the next frame of the port whose gate is open (R333), at T1S the oldest, under PLCA in the module's own
transmit opportunity (R336); the gate event moves to the next entry, the switch takes the shadow list at its time,
and the reset timer clears a stream's recovery (R333, R334). The tables of the Ethernet area have the layout that log
entry 11 leaves free. Says that these complete: ethFrameIngress, ethFrameEgress, qbvGateEvent, qbvListSwitch,
frerResetTimer. -/
def Obligations.EthernetIngressEgressAndGates : Prop :=
  (∀ (p : Fin 3) (f : EthFrame) (s : State),
    s.boot.phase ≠ .recovery →
    (p.val < 2 → s.on (ETH_PORT_STAT_LINK p) = true) →
    s.clocked 10 = true →
    s.boot.xtalBad = false →
    answers (.ethFrameIngress p f) s fun t =>
      ((s.macsecRx p f).1 = false → t.f (ETH_DROP_CNT_MACSEC p) = min (s.f (ETH_DROP_CNT_MACSEC p) + 1) (2 ^ RF.w (ETH_DROP_CNT_MACSEC p) - 1) ∧ t.eth = s.eth ∧ t.gw = s.gw) ∧
      (let v := (match f.tag with | some x => (if x.1 = 0 then s.ethTab 2 p 0 else x.1.toNat) | none => s.ethTab 2 p 0)
    (s.macsecRx p f).1 = true → ((s.macsecRx p f).2.eliminate p v f).1 = false → t.gw = s.gw ∧ t.eth.txq = s.eth.txq ∧ t.eth.inq = s.eth.inq) ∧
      (let v := (match f.tag with | some x => (if x.1 = 0 then s.ethTab 2 p 0 else x.1.toNat) | none => s.ethTab 2 p 0)
    (s.macsecRx p f).1 = true → ((s.macsecRx p f).2.eliminate p v f).1 = true →
    (match s.vlanRow v with | none => true | some r => !bitOf (s.ethTab 1 r 2) p) = true →
      t.f (ETH_DROP_CNT_VLAN p) = min (s.f (ETH_DROP_CNT_VLAN p) + 1) (2 ^ RF.w (ETH_DROP_CNT_VLAN p) - 1) ∧ t.gw = s.gw ∧ t.eth.txq = s.eth.txq) ∧
      t.mem = s.mem ∧ t.cans = s.cans) ∧
  (∀ (p : Fin 2) (f : EthFrame) (s : State),
    s.boot.phase = .recovery →
    f.dst.toNat = s.recMac →
    f.tag = none →
    f.sec = none →
    f.etype = 0x88B5 →
    answers (.ethFrameIngress ⟨p, by omega⟩ f) s fun t =>
      t.eth.inq = s.eth.inq ++ [(p.val, f)] ∧
      s.sameBut [.eth] t) ∧
  (∀ (p : Fin 2) (f : EthFrame) (s : State),
    s.boot.phase = .recovery →
    (f.dst.toNat ≠ s.recMac ∨ f.tag ≠ none) →
    answers (.ethFrameIngress ⟨p, by omega⟩ f) s fun t =>
      s.sameBut [] t) ∧
  (∀ (p : Fin 3) (s : State),
    (p.val < 2 → s.on (ETH_PORT_STAT_LINK p) = true) →
    s.pnStopped p = false →
    (p = 2 → s.eth.plca.on = false ∨ s.toNext.isSome = true) →
    s.boot.xtalBad = false →
    (s.ethNext p).isSome = true →
    s.clocked 10 = true →
    answers (.ethFrameEgress p) s fun t =>
      (s.ethNext p).all (fun x => t.eth.txq = s.eth.txq.erase x) = true ∧
      t.eth.inq = s.eth.inq ∧ t.gw = s.gw ∧ t.mem = s.mem) ∧
  (∀ (s : State),
    s.clocked 10 = true →
    answers (.qbvGateEvent) s fun t =>
      (t.eth.pos = if s.eth.gates = [] then 0 else (s.eth.pos + 1) % s.eth.gates.length) ∧
      t.eth.gates = s.eth.gates ∧
      s.sameBut [.eth] t) ∧
  (∀ (s : State),
    s.f ETH_QBV_CHANGE_LO_TIME + s.f ETH_QBV_CHANGE_HI_TIME * 2 ^ 32 ≤ s.gptpOf s.now →
    s.clocked 10 = true →
    answers (.qbvListSwitch) s fun t =>
      t.eth.gates = s.qbvShadow ∧ t.eth.pos = 0 ∧
      s.sameBut [.eth] t) ∧
  (∀ (r : Fin 32) (s : State),
    s.clocked 10 = true →
    answers (.frerResetTimer r) s fun t =>
      t.frerOf r = {} ∧
      s.sameBut [.eth] t)

/-- Gateway lookup and its actions, CAN handover, ageing, buffers, flow timeouts and ACF. The lookup takes the oldest
frame of a priority port, else the oldest (R341). A hit is counted, its flow context counts it (R343), its FRAME cue
is posted to its engine and its direct reflex puts the slots selected into the executor's queue (R350, R351); a
routed plain frame joins its CAN port (R344). A miss is counted and dropped, routed or cued as its port says (R342).
A waiting frame is handed over to a free entry with its identifier, format and data; the oldest of a port is dropped
by age; a release or the hold time ends the claim of cued engines, the latter flagged (R344, R351). A flow timeout is
counted once (R348). The PDU of a port that has been open longest is sent as one NTSCF frame when its batch time ends
(R359, R360); a received NTSCF or TSCF PDU is split into its messages, and any other is not accepted (R361). Says
that these complete: gwLookup, gwCanHandover, gwFrameAged, gwRelease, gwBufferReclaim, flowTimeout, acfBatchTimeout,
acfPduReceive. -/
def Obligations.GatewayLookupEgressAndFlows : Prop :=
  (∀ (g : GwFrame) (e : Nat) (s : State),
    s.gwNext = some g →
    s.gwFind g.key = some e →
    s.clocked 9 = true →
    answers (.gwLookup) s fun t =>
      t.gw.inq = s.gw.inq.erase g ∧
      t.f GW_HIT_CNT_COUNT = (s.f GW_HIT_CNT_COUNT + 1) % 2 ^ 32 ∧ t.f GW_MISS_CNT_COUNT = s.f GW_MISS_CNT_COUNT ∧
      (gwf e 3 10 1 = 1 → t.fc (gwf e 3 0 10) 0x38 0 24 = (s.fc (gwf e 3 0 10) 0x38 0 24 + 1) % 2 ^ 24) ∧
      ((gwf e 1 21 1 = 1 ∧ gwf e 1 24 8 ≠ 0) → t.offers.any (fun o => o.target = gwf e 1 24 8 && o.cue.cls = 2 && o.cue.index = g.port &&
      o.cue.data = g.id % 2 ^ 32) = true) ∧
      ((gwf e 1 22 1 = 1 ∧ gwf e 1 23 1 = 1 ∧ gwf e 1 24 8 ≠ 0) → t.offers.any (fun o => o.target = gwf e 1 24 8 && o.cue.cls = 1) = true) ∧
      ((gwf e 1 22 1 = 1 ∧ gwf e 1 23 1 = 0 ∧ (s.rfxSlots e g).isSome = true) → t.exec = s.exec ++
      (((s.rfxSlots e g).getD []).filter (fun k => s.fc (gwf e 3 0 10) (0x10 + 8 * k) 9 1 = 1)).map (fun k =>
        { init := 0, ch := s.fc (gwf e 3 0 10) (0x10 + 8 * k) 0 8, pwm := s.fc (gwf e 3 0 10) (0x10 + 8 * k) 8 1 = 1,
          value := s.fc (gwf e 3 0 10) (0x14 + 8 * k) 0 32, engine := gwf e 1 24 8, flow := gwf e 3 0 10, slot := k })) ∧
      (gwf e 1 22 1 = 0 → t.exec = s.exec)) ∧
  (∀ (g : GwFrame) (s : State),
    s.gwNext = some g →
    s.gwFind g.key = none →
    s.clocked 9 = true →
    answers (.gwLookup) s fun t =>
      t.gw.inq = s.gw.inq.erase g ∧ t.exec = s.exec ∧
      t.f GW_MISS_CNT_COUNT = (s.f GW_MISS_CNT_COUNT + 1) % 2 ^ 32 ∧ t.f GW_HIT_CNT_COUNT = s.f GW_HIT_CNT_COUNT ∧
      ((s.f (GW_PORT_CFG_MISS g.port) = 0 ∨ s.f (GW_PORT_CFG_MISS g.port) = 3) → t.gw.out = s.gw.out ∧ t.offers = s.offers) ∧
      ((s.f (GW_PORT_CFG_MISS g.port) = 2 ∧ s.f (GW_PORT_CFG_MISS_ENGINE g.port) ≠ 0) → t.offers.any (fun o => o.target = s.f (GW_PORT_CFG_MISS_ENGINE g.port) &&
      o.cue.cls = 2 && o.cue.data = g.id % 2 ^ 32) = true)) ∧
  (∀ (n : Fin 8) (g : GwFrame) (b : Fin 2048) (s : State),
    s.gwNext = some g →
    s.gwFind g.key = none →
    s.f (GW_PORT_CFG_MISS g.port) = 1 →
    s.f (GW_PORT_DEF_DEST g.port) = 2 ^ (n.val + 3) →
    s.freeBuf = some b.val →
    s.busPresent n = true →
    g.kind = 0 →
    (s.can n).mode ≠ mdOFF →
    g.fdf = false →
    s.boot.xtalBad = false →
    s.segNormal n = true →
    s.waitingOn (n + 3) < s.f (GW_PORT_CFG_QUOTA (n + 3)) →
    s.clocked 9 = true →
    answers (.gwLookup) s fun t =>
      t.gw.out.map (fun x => (x.port, x.buf, x.key, x.f)) = s.gw.out.map (fun x => (x.port, x.buf, x.key, x.f)) ++ [(n.val + 3, b.val, g.key, g)] ∧
      (t.gwBuf b).routes = 1 ∧ t.rdBytes (0x04710000 + b * 0x60 + 0x10) (min g.data.length 64) = g.data.take 64) ∧
  (∀ (n : Fin 8) (x : Egress) (k : Fin 32) (s : State),
    ((s.serveOrder (n + 3)).find? (fun x => s.canIdIdle n x.f) = some x) →
    s.gwEntryFree n = some k.val →
    s.segNormal n = true →
    x.f.id < 2 ^ 29 →
    s.clocked 9 = true →
    s.clocked 11 = true →
    answers (.gwCanHandover n) s fun t =>
      t.gw.out = s.gw.out.erase x ∧ t.mf (ceSTATE n k) = 1 ∧
      t.mf (ceID n k) = x.f.id + b2n x.f.ide * 2 ^ 29 + b2n x.f.rtr * 2 ^ 30 ∧
      t.mf (ceDLC n k) = lenDlc x.f.data.length ∧ t.mf (ceFDF n k) = b2n x.f.fdf ∧ t.mf (ceBRS n k) = b2n x.f.brs ∧
      t.rdBytes (canE n k + 0x20) (min x.f.data.length 64) = x.f.data.take 64 ∧
      memBut ((List.range 0x60).map (canE n k + ·)) s t) ∧
  (∀ (p : Fin 21) (x : Egress) (s : State),
    (s.gw.out.find? (fun x => x.port = p.val && !x.free) = some x) →
    s.clocked 9 = true →
    answers (.gwFrameAged p) s fun t =>
      t.gw.out = s.gw.out.erase x ∧
      t.f (GW_DROP_CNT_AGED) = min (s.f (GW_DROP_CNT_AGED) + 1) (2 ^ RF.w (GW_DROP_CNT_AGED) - 1) ∧
      t.mem = s.mem) ∧
  (∀ (init : Byte) (b : BitVec 11) (s : State),
    s.clocked 9 = true →
    answers (.gwRelease init b) s fun t =>
      (t.gwBuf b.toNat).cued = (s.gwBuf b.toNat).cued.erase init.toNat ∧
      (((s.gwBuf b.toNat).cued.erase init.toNat ≠ [] ∨ (s.gwBuf b.toNat).routes ≠ 0) → (t.gwBuf b.toNat).routes = (s.gwBuf b.toNat).routes) ∧
      s.sameBut [.gw] t) ∧
  (∀ (b : Fin 2048) (s : State),
    (s.gwBuf b).cued ≠ [] →
    s.clocked 9 = true →
    answers (.gwBufferReclaim b) s fun t =>
      (t.gwBuf b).cued = [] ∧ t.f GW_FLAG_BUF_RECLAIM = 1 ∧ (t.gwBuf b).routes = (s.gwBuf b).routes ∧
      t.mem = s.mem) ∧
  (∀ (f : Fin 1024) (s : State),
    s.fc f 0x0C 16 16 ≠ 0 →
    s.gw.timedOut.contains f.val = false →
    s.clocked 9 = true →
    answers (.flowTimeout f) s fun t =>
      t.fc f 0x38 24 8 = min (s.fc f 0x38 24 8 + 1) 0xFF ∧ t.f GW_FLAG_TIMEOUT = 1 ∧ t.gw.timedOut = f.val :: s.gw.timedOut ∧
      memBut [flowAt f + 0x38, flowAt f + 0x39, flowAt f + 0x3A, flowAt f + 0x3B] s t) ∧
  (∀ (p : Fin 3) (k : Nat) (s : State),
    s.clocked 9 = true →
    s.pduOldest p = some k →
    (s.pdu k).bytes ≠ [] →
    answers (.acfBatchTimeout p) s fun t =>
      (t.pdu k).bytes = [] ∧
      (t.eth.txq.drop s.eth.txq.length).any (fun x => x.port = k % 4 && x.f.etype = 0x22F0 && x.f.data.drop 12 = (s.pdu k).bytes) = true ∧
      s.sameBut [.eth] t) ∧
  (∀ (p : Fin 3) (m : List Byte) (s : State),
    (s.eth.inq.find? (fun x => x.2.etype = 0x22F0) = some (p.val, { etype := 0x22F0, data := [0x82, 0x80, BitVec.ofNat 8 m.length, 0] ++ List.replicate 8 0 ++ m })) →
    m.length = 4 * (natBE (m.take 2) % 0x200) →
    m.length ≠ 0 →
    m.length < 0x100 →
    (acfFrame s p m).isSome = true →
    s.clocked 9 = true →
    answers (.acfPduReceive) s fun t =>
      some (t.gw.inq.drop s.gw.inq.length) = (acfFrame s p m).map (fun g => [g]) ∧ t.gw.inq.take s.gw.inq.length = s.gw.inq ∧
      t.eth.inq.length + 1 = s.eth.inq.length ∧ t.regs = s.regs) ∧
  (∀ (x : Nat × EthFrame) (s : State),
    (s.eth.inq.find? (fun x => x.2.etype = 0x22F0) = some x) →
    acfBody x.2.data = none →
    s.clocked 9 = true →
    answers (.acfPduReceive) s fun t =>
      t.eth.inq = s.eth.inq.erase x ∧
      s.sameBut [.eth] t)

/-- Gateway updates: flow contexts, shadow bank and stash, swap, discard, copy-back; injection. An initiator of R355
writes bytes of a flow context that leave it valid, and nothing else changes; every other write is ignored and
counted in GW_REFUSE (R346, R355). A write into the shadow bank goes to the staging slot of its bucket, which the
first write fills from the active bank (R356); with 4,096 staged a new one is refused with STAGE_FULL. SWAP makes the
staged buckets and the shadow stash the active ones, counts GEN and starts copy-back (R357); DISCARD empties the
staging and restores the shadow stash; copy-back ends with nothing staged, and a SWAP that waited for it takes effect
then (R358). Reserved bits are stored as 0 (laidBytes, R16). GW_INJECT queues the frame of the initiator's staging
area as one from port 19, or refuses it (R362). Says that these complete: flowContextWrite, gwShadowWrite, gwSwap,
gwDiscard, gwCopybackDone, gwInject. -/
def Obligations.GatewayUpdatesAndInjection : Prop :=
  (∀ (f : Fin 1024) (init : Byte) (off : Fin 64) (bytes : List Byte) (s : State),
    s.gwMayWrite init.toNat = true →
    (s.wrBytes (flowAt f + off) (laidBytes (flowAt f + off) (bytes.take (0x30 - off)))).flowValid f = true →
    s.clocked 9 = true →
    answers (.flowContextWrite f init off bytes) s fun t =>
      t.rdBytes (flowAt f + off) (bytes.take (0x30 - off)).length = laidBytes (flowAt f + off) (bytes.take (0x30 - off)) ∧
      memBut ((List.range (bytes.take (0x30 - off)).length).map (flowAt f + off + ·)) s t ∧
      s.sameBut [.mem] t) ∧
  (∀ (f : Fin 1024) (init : Byte) (off : Fin 64) (bytes : List Byte) (s : State),
    (s.gwMayWrite init.toNat = false ∨ (s.wrBytes (flowAt f + off) (laidBytes (flowAt f + off) (bytes.take (0x30 - off)))).flowValid f = false) →
    s.clocked 9 = true →
    answers (.flowContextWrite f init off bytes) s fun t =>
      t.f (GW_REFUSE_COUNT) = min (s.f (GW_REFUSE_COUNT) + 1) (2 ^ RF.w (GW_REFUSE_COUNT) - 1) ∧ t.f GW_REFUSE_LAST_INIT = init.toNat ∧
      regsBut [GW_REFUSE] s t ∧ s.sameBut [.regs] t) ∧
  (∀ (init : Byte) (off : BitVec 19) (bytes : List Byte) (s : State),
    s.gwMayWrite init.toNat = true →
    s.on GW_UPD_STAT_COPYBACK = false →
    s.gw.staged.contains (off.toNat / 0x40) = true →
    s.clocked 9 = true →
    answers (.gwShadowWrite init false off bytes) s fun t =>
      let a := 0x04740000 + s.gw.staged.idxOf (off.toNat / 0x40) * 0x40 + off.toNat % 0x40
    t.rdBytes a bytes.length = laidBytes (0x04400000 + off.toNat) bytes ∧ memBut ((List.range bytes.length).map (a + ·)) s t ∧
      s.sameBut [.mem] t) ∧
  (∀ (init : Byte) (off : BitVec 19) (bytes : List Byte) (s : State),
    s.gwMayWrite init.toNat = true →
    s.on GW_UPD_STAT_COPYBACK = false →
    s.gw.staged.contains (off.toNat / 0x40) = false →
    s.gw.staged.length < 4096 →
    off.toNat % 0x40 + bytes.length ≤ 0x40 →
    s.clocked 9 = true →
    answers (.gwShadowWrite init false off bytes) s fun t =>
      (let a := 0x04740000 + s.gw.staged.length * 0x40; let o := off.toNat % 0x40
    t.gw.staged = s.gw.staged ++ [off.toNat / 0x40] ∧ t.rdBytes (a + o) bytes.length = laidBytes (0x04400000 + off.toNat) bytes ∧
    (∀ k < 0x40, (k < o ∨ o + bytes.length ≤ k) → t.rd8 (a + k) = s.rd8 (0x04000000 + off.toNat / 0x40 * 0x40 + k)) ∧
    memBut ((List.range 0x40).map (a + ·)) s t) ∧
      t.f GW_UPD_STAT_STAGED = (s.gw.staged.length + 1) % 2 ^ GW_UPD_STAT_STAGED.w) ∧
  (∀ (init : Byte) (off : BitVec 19) (bytes : List Byte) (s : State),
    s.gwMayWrite init.toNat = true →
    s.on GW_UPD_STAT_COPYBACK = false →
    s.gw.staged.contains (off.toNat / 0x40) = false →
    4096 ≤ s.gw.staged.length →
    s.clocked 9 = true →
    answers (.gwShadowWrite init false off bytes) s fun t =>
      t.f GW_FLAG_STAGE_FULL = 1 ∧ t.mem = s.mem ∧ t.gw = s.gw) ∧
  (∀ (init : Byte) (stash : Bool) (off : BitVec 19) (bytes : List Byte) (s : State),
    s.gwMayWrite init.toNat = false →
    s.on GW_UPD_STAT_COPYBACK = false →
    s.clocked 9 = true →
    answers (.gwShadowWrite init stash off bytes) s fun t =>
      t.f (GW_REFUSE_COUNT) = min (s.f (GW_REFUSE_COUNT) + 1) (2 ^ RF.w (GW_REFUSE_COUNT) - 1) ∧ t.f GW_REFUSE_LAST_INIT = init.toNat ∧
      regsBut [GW_REFUSE] s t ∧ s.sameBut [.regs] t) ∧
  (∀ (init : Byte) (off : BitVec 19) (bytes : List Byte) (s : State),
    s.gwMayWrite init.toNat = true →
    s.on GW_UPD_STAT_COPYBACK = false →
    off.toNat + bytes.length ≤ 0x400 →
    s.clocked 9 = true →
    answers (.gwShadowWrite init true off bytes) s fun t =>
      ((∀ k < bytes.length, t.f ⟨GW_STASH_SHD 0 + (off.toNat + k) - (off.toNat + k) % 4, 8 * ((off.toNat + k) % 4), 8⟩ = ((laidBytes (0x04000000 + off.toNat) bytes).getD k 0).toNat)) ∧
      regsBut ((List.range bytes.length).map (fun k => GW_STASH_SHD 0 + (off.toNat + k) - (off.toNat + k) % 4)) s t ∧ s.sameBut [.regs] t) ∧
  (∀ (s : State),
    s.on GW_UPD_STAT_COPYBACK = false →
    s.gw.staged.Nodup →
    s.gw.staged.all (· < 0x2000) = true →
    s.clocked 9 = true →
    answers (.gwSwap) s fun t =>
      ((∀ i < s.gw.staged.length, t.rdBytes (0x04000000 + s.gw.staged.getD i 0 * 0x40) 0x40 = s.rdBytes (0x04740000 + i * 0x40) 0x40)) ∧
      ((∀ i : Fin 256, t.reg (GW_STASH_ACT 0 + 4 * i) = s.reg (GW_STASH_SHD 0 + 4 * i))) ∧
      t.f GW_UPD_STAT_COPYBACK = 1 ∧ t.f GW_UPD_STAT_GEN = (s.f GW_UPD_STAT_GEN + 1) % 2 ^ GW_UPD_STAT_GEN.w ∧ t.gw.timedOut = [] ∧ t.gw.staged = s.gw.staged) ∧
  (∀ (s : State),
    s.on GW_UPD_STAT_COPYBACK = false →
    s.clocked 9 = true →
    answers (.gwDiscard) s fun t =>
      t.gw.staged = [] ∧ t.f GW_UPD_STAT_STAGED = 0 ∧
      ((∀ i : Fin 256, t.reg (GW_STASH_SHD 0 + 4 * i) = s.reg (GW_STASH_ACT 0 + 4 * i))) ∧
      t.mem = s.mem) ∧
  (∀ (s : State),
    s.on GW_UPD_STAT_COPYBACK = true →
    s.clocked 9 = true →
    answers (.gwCopybackDone) s fun t =>
      (s.gw.held = [] → t.gw.staged = [] ∧ t.f GW_UPD_STAT_STAGED = 0 ∧ t.f GW_UPD_STAT_COPYBACK = 0 ∧ t.mem = s.mem ∧ regsBut [GW_UPD_STAT] s t) ∧
      (s.gw.held = [.swap] → t.f GW_UPD_STAT_COPYBACK = 1 ∧ t.f GW_UPD_STAT_GEN = (s.f GW_UPD_STAT_GEN + 1) % 2 ^ GW_UPD_STAT_GEN.w ∧ t.gw.staged = [] ∧ t.gw.held = [])) ∧
  (∀ (init : Byte) (s : State),
    sliceLE (s.injArea init.toNat) 4 1 % 8 ≠ 7 →
    sliceLE (s.injArea init.toNat) 5 1 ≤ 56 →
    s.clocked 9 = true →
    answers (.gwInject init) s fun t =>
      let a := s.injArea init.toNat; let k := sliceLE a 4 1
    t.gw.inq = s.gw.inq ++ [({
      port := 19, kind := k % 8, sub := sliceLE a 6 1, id := sliceLE a 0 4, ide := bitOf k 3, fdf := bitOf k 4, brs := bitOf k 5,
      data := (a.drop 8).take (sliceLE a 5 1), stamp := s.now } : GwFrame)] ∧
      s.sameBut [.gw] t) ∧
  (∀ (init : Byte) (s : State),
    (sliceLE (s.injArea init.toNat) 4 1 % 8 = 7 ∨ 56 < sliceLE (s.injArea init.toNat) 5 1) →
    s.clocked 9 = true →
    answers (.gwInject init) s fun t =>
      t.f (GW_REFUSE_COUNT) = min (s.f (GW_REFUSE_COUNT) + 1) (2 ^ RF.w (GW_REFUSE_COUNT) - 1) ∧ t.f GW_REFUSE_LAST_INIT = init.toNat ∧
      regsBut [GW_REFUSE] s t ∧ s.sameBut [.regs] t)

/-- Switch inputs, cleaning pulses, handle sensors, measurement slots, temperatures and sensor supplies. In Run and Idle
with the Interface island clocked (State.measures), a sample counts in a row for each enabled input, a cleaned input
reading active (R410, R412); a level held for DEBOUNCE samples is accepted: the first sets the input's level known, a
change is shown, flagged and cued as CUE selects (R413 to R415), and a closure starts a cleaning pulse or waits for
one (R412). Outside Off, on a part that has handles, a scan puts each enabled handle's count (as the Cellar's copy of
INP_HC_CFG enables it); a good one at or over the threshold is a touch, which is flagged; HANDLE_STUCK clears it with
the baseline at the count (R417, R418). A conversion and the 1 ms update put their slots READY with the value and SEQ
counted (R420 to R422); below the first point a curve gives its first temperature, clamped. A written temperature of
a granted initiator is shown, a stale one shows its fallback once flagged (R422, R423). A supply follows EN and its
latches (R427, R428). Other writers are refused and counted. Says that these complete: inputSample,
inputChangeAccept, cleanPulseEnd, handleScan, handleStuck, measScan, measConversionEnd, measPeriodicUpdate,
tempWrite, tempStale, sensCtlWrite, sensOvercurrent, sensBackfeed, sensBackfeedRelease. -/
def Obligations.InputsHandlesAndMeasurement : Prop :=
  (∀ (levels : BitVec 96) (s : State),
    s.measures = true →
    answers (.inputSample levels) s fun t =>
      ((∀ n : Fin 96, t.inIn n = if s.inOn n = false then s.inIn n else
      let v := levels.getLsbD n || s.inp.clean.contains n.val; let x := s.inIn n
      if x.run ≠ 0 ∧ x.lvl = v then { x with run := min (x.run + 1) 1023 } else { x with run := 1, lvl := v, first := s.islandSlate 1 })) ∧
      s.sameBut [.inp] t) ∧
  (∀ (n : Fin 96) (s : State),
    s.inOn n = true →
    (s.inIn n).run ≠ 0 →
    s.f (INP_CFG_DEBOUNCE n) ≤ (s.inIn n).run →
    (s.inIn n).lvl ≠ s.on (inBit INP_LEVEL n) →
    s.measures = true →
    answers (.inputChangeAccept n) s fun t =>
      (t.inIn n).got = true ∧ t.on (inBit INP_LEVEL n) = (s.inIn n).lvl ∧ t.on (inBit INP_CHG n) = true ∧
      (s.f (INP_CFG_OWNER n) ≠ 0 → cueSelects (s.f (INP_CFG_CUE n)) (s.inIn n).lvl = true →
    t.offers.any (fun o => o.target = s.f (INP_CFG_OWNER n) && o.cue.cls = 7 && o.cue.code = 1 && o.cue.kind = 1 && o.cue.index = 0x26 && o.cue.arg = n.val) = true) ∧
      (((s.inIn n).lvl = false ∨ s.on (INP_CFG_CLEAN n) = false) → t.inp.clean = s.inp.clean ∧ t.inp.cleanWait = s.inp.cleanWait) ∧
      (((s.inIn n).lvl = true ∧ s.on (INP_CFG_CLEAN n) = true) → if s.inp.clean.length < 8 then t.inp.clean = s.inp.clean ++ [n.val] ∧ t.inp.cleanWait = s.inp.cleanWait
      else t.inp.clean = s.inp.clean ∧ t.inp.cleanWait = s.inp.cleanWait ++ [n.val])) ∧
  (∀ (n : Fin 96) (s : State),
    s.inOn n = true →
    (s.inIn n).run ≠ 0 →
    s.f (INP_CFG_DEBOUNCE n) ≤ (s.inIn n).run →
    (s.inIn n).lvl = s.on (inBit INP_LEVEL n) →
    (s.inIn n).got = false →
    s.measures = true →
    answers (.inputChangeAccept n) s fun t =>
      (t.inIn n).got = true ∧
      regsBut [INP_STAT] s t ∧ s.sameBut [.regs, .inp] t ∧
      ((List.range 96).all (fun k => !t.inOn k || (t.inIn k).got) = true → t.f INP_STAT_READY = 1)) ∧
  (∀ (n : Fin 96) (s : State),
    s.inp.clean.contains n.val = true →
    answers (.cleanPulseEnd n) s fun t =>
      (s.inp.cleanWait = [] → t.inp.clean = s.inp.clean.erase n.val) ∧
      (s.inp.cleanWait ≠ [] → (∃ m ∈ s.inp.cleanWait, (∀ k ∈ s.inp.cleanWait, m ≤ k) ∧ t.inp.clean = s.inp.clean.erase n.val ++ [m] ∧ t.inp.cleanWait = s.inp.cleanWait.erase m)) ∧
      s.sameBut [.inp] t) ∧
  (∀ (c0 c1 c2 c3 : BitVec 16) (ok : BitVec 4) (s : State),
    s.fullPart = true →
    s.f PWR_STATE_STATE ≠ 4 →
    answers (.handleScan c0 c1 c2 c3 ok) s fun t =>
      ((∀ k : Fin 4, t.f (INP_HC_VAL_COUNT k) = if bitOf s.inp.hcCfg k then ([c0, c1, c2, c3].getD k 0).toNat else s.f (INP_HC_VAL_COUNT k))) ∧
      ((∀ k : Fin 4, bitOf s.inp.hcCfg k = true → s.on (hcBit INP_HC_STAT_FAULTED k) = false → s.on (hcBit INP_HC_STAT_TOUCHED k) = false →
      ok.getLsbD k = true → 100 ≤ ([c0, c1, c2, c3].getD k 0).toNat →
      s.f (INP_HC_VAL_BASELINE k) + s.f (INP_HC_KCFG_TOUCH_TH k) ≤ ([c0, c1, c2, c3].getD k 0).toNat →
      t.on (hcBit INP_HC_STAT_TOUCHED k) = true ∧ t.on (hcBit INP_HC_STAT_TOUCH k) = true)) ∧
      ((∀ k : Fin 4, bitOf s.inp.hcCfg k = true → s.on (hcBit INP_HC_STAT_FAULTED k) = false → (s.hc k).bad = 2 →
      (ok.getLsbD k = false ∨ ([c0, c1, c2, c3].getD k 0).toNat < 100) → t.on (hcBit INP_HC_STAT_FAULTED k) = true ∧ t.on (hcBit INP_HC_STAT_TOUCHED k) = false))) ∧
  (∀ (k : Fin 4) (s : State),
    s.on (hcBit INP_HC_STAT_TOUCHED k) = true →
    answers (.handleStuck k) s fun t =>
      t.on (hcBit INP_HC_STAT_TOUCHED k) = false ∧ t.f (INP_HC_VAL_BASELINE k) = s.f (INP_HC_VAL_COUNT k) ∧ t.on (hcBit INP_HC_STAT_STUCK k) = true ∧
      t.hc k = {}) ∧
  (∀ (s : State),
    s.measures = true →
    answers (.measScan) s fun t =>
      ((∀ n : Fin 96, s.on (INP_CFG_ANA n) = true → t.reg (MEAS_SLOT_VAL n) = s.reg (MEAS_SLOT_VAL n) ∧
      t.f ⟨MEAS_SLOT_ST n, 16, 2⟩ = (s.slotFilling (MEAS_SLOT_ST n)).f ⟨MEAS_SLOT_ST n, 16, 2⟩)) ∧
      s.sameBut [.regs] t) ∧
  (∀ (n : Fin 96) (mv : BitVec 16) (s : State),
    s.on (INP_CFG_ANA n) = true →
    s.measures = true →
    answers (.measConversionEnd n mv) s fun t =>
      t.f ⟨MEAS_SLOT_ST n, 0, 16⟩ = (s.f ⟨MEAS_SLOT_ST n, 0, 16⟩ + 1) % 0x10000 ∧ t.f ⟨MEAS_SLOT_ST n, 16, 2⟩ = 2 ∧ t.reg (MEAS_SLOT_VAL n) = BitVec.ofNat 32 (mv.toNat) ∧
      ((∀ k : Fin 64, k ≠ 0 → s.f (MEAS_TCFG_SRC k) = 2 → s.f (MEAS_TCFG_INDEX k) = n.val → mv.toNat < s.f (MEAS_CURVE_P_MV (s.f (MEAS_TCFG_CURVE k)) 0) →
      t.reg (MEAS_SLOT_VAL (0x80 + k)) = BitVec.ofNat 32 (s.f (MEAS_CURVE_P_TEMP (s.f (MEAS_TCFG_CURVE k)) 0) + 0x10000)))) ∧
  (∀ (v0 i0 v1 i1 vlog : BitVec 16) (reads : List (Fin 15 × BitVec 16)) (s : State),
    s.measures = true →
    answers (.measPeriodicUpdate v0 i0 v1 i1 vlog reads) s fun t =>
      t.f ⟨MEAS_SLOT_ST 0x64, 0, 16⟩ = (s.f ⟨MEAS_SLOT_ST 0x64, 0, 16⟩ + 1) % 0x10000 ∧ t.f ⟨MEAS_SLOT_ST 0x64, 16, 2⟩ = 2 ∧ t.reg (MEAS_SLOT_VAL 0x64) = BitVec.ofNat 32 (v0.toNat) ∧
      t.f ⟨MEAS_SLOT_ST 0x65, 0, 16⟩ = (s.f ⟨MEAS_SLOT_ST 0x65, 0, 16⟩ + 1) % 0x10000 ∧ t.f ⟨MEAS_SLOT_ST 0x65, 16, 2⟩ = 2 ∧ t.reg (MEAS_SLOT_VAL 0x65) = BitVec.ofNat 32 (i0.toNat) ∧
      t.f ⟨MEAS_SLOT_ST 0x66, 0, 16⟩ = (s.f ⟨MEAS_SLOT_ST 0x66, 0, 16⟩ + 1) % 0x10000 ∧ t.f ⟨MEAS_SLOT_ST 0x66, 16, 2⟩ = 2 ∧ t.reg (MEAS_SLOT_VAL 0x66) = BitVec.ofNat 32 (v1.toNat) ∧
      t.f ⟨MEAS_SLOT_ST 0x67, 0, 16⟩ = (s.f ⟨MEAS_SLOT_ST 0x67, 0, 16⟩ + 1) % 0x10000 ∧ t.f ⟨MEAS_SLOT_ST 0x67, 16, 2⟩ = 2 ∧ t.reg (MEAS_SLOT_VAL 0x67) = BitVec.ofNat 32 (i1.toNat) ∧
      t.f ⟨MEAS_SLOT_ST 0x68, 0, 16⟩ = (s.f ⟨MEAS_SLOT_ST 0x68, 0, 16⟩ + 1) % 0x10000 ∧ t.f ⟨MEAS_SLOT_ST 0x68, 16, 2⟩ = 2 ∧ t.reg (MEAS_SLOT_VAL 0x68) = BitVec.ofNat 32 (vlog.toNat) ∧
      ((∀ k : Fin 64, k ≠ 0 → s.f (MEAS_TCFG_SRC k) = 1 → s.dieReads (s.f (MEAS_TCFG_INDEX k)) = true →
      (reads.find? (fun r => r.1.val = s.f (MEAS_TCFG_INDEX k))).all (fun r => t.reg (MEAS_SLOT_VAL (0x80 + k)) = BitVec.ofNat 32 r.2.toNat) = true))) ∧
  (∀ (x : Fin 64) (init : Byte) (v : BitVec 16) (s : State),
    x ≠ 0 →
    s.measMay init.toNat = true →
    s.f (MEAS_TCFG_SRC x) = 3 →
    answers (.tempWrite x init v) s fun t =>
      t.f ⟨MEAS_SLOT_ST (0x80 + x), 0, 16⟩ = (s.f ⟨MEAS_SLOT_ST (0x80 + x), 0, 16⟩ + 1) % 0x10000 ∧ t.f ⟨MEAS_SLOT_ST (0x80 + x), 16, 2⟩ = 2 ∧ t.reg (MEAS_SLOT_VAL (0x80 + x)) = BitVec.ofNat 32 (v.toNat) ∧
      t.mem = s.mem) ∧
  (∀ (x : Fin 64) (init : Byte) (v : BitVec 16) (s : State),
    x ≠ 0 →
    s.measMay init.toNat = false →
    answers (.tempWrite x init v) s fun t =>
      t.f (MEAS_REFUSE_COUNT) = min (s.f (MEAS_REFUSE_COUNT) + 1) (2 ^ RF.w (MEAS_REFUSE_COUNT) - 1) ∧ t.f MEAS_REFUSE_LAST_INIT = init.toNat ∧
      regsBut [MEAS_REFUSE] s t ∧ s.sameBut [.regs] t) ∧
  (∀ (x : Fin 64) (s : State),
    x ≠ 0 →
    s.f (MEAS_TCFG_SRC x) = 3 →
    s.inFallback x = false →
    s.measures = true →
    answers (.tempStale x) s fun t =>
      t.f ⟨MEAS_SLOT_ST (0x80 + x), 0, 16⟩ = (s.f ⟨MEAS_SLOT_ST (0x80 + x), 0, 16⟩ + 1) % 0x10000 ∧ t.f ⟨MEAS_SLOT_ST (0x80 + x), 16, 2⟩ = 2 ∧ t.reg (MEAS_SLOT_VAL (0x80 + x)) = BitVec.ofNat 32 (unsigned 16 (signed 8 (s.f (MEAS_TCFG_FALLBACK x)) * 16) + 0x20000) ∧
      (s.meas.fell.contains x.val = false → t.f MEAS_FLAG_TEMP_FALLBACK = 1 ∧ t.meas.fell.contains x.val = true)) ∧
  (∀ (init : Byte) (v : BitVec 4) (s : State),
    (isStr init.toNat || s.measMay init.toNat) = true →
    answers (.sensCtlWrite init v) s fun t =>
      t.f ⟨MEAS_SENS_CTL, 0, 4⟩ = v.toNat ∧
      (t.sens 0).on = (v.getLsbD 0 && !(s.sens 0).oc && !(s.sens 0).bf) ∧ (t.sens 1).on = (v.getLsbD 1 && !(s.sens 1).oc && !(s.sens 1).bf) ∧
      (t.sens 0).oc = ((s.sens 0).oc && v.getLsbD 0) ∧ (t.sens 1).oc = ((s.sens 1).oc && v.getLsbD 1) ∧
      regsBut [MEAS_SENS_CTL] s t ∧ s.sameBut [.regs, .meas] t) ∧
  (∀ (init : Byte) (v : BitVec 4) (s : State),
    (isStr init.toNat || s.measMay init.toNat) = false →
    answers (.sensCtlWrite init v) s fun t =>
      t.f (MEAS_REFUSE_COUNT) = min (s.f (MEAS_REFUSE_COUNT) + 1) (2 ^ RF.w (MEAS_REFUSE_COUNT) - 1) ∧ t.f MEAS_REFUSE_LAST_INIT = init.toNat ∧
      regsBut [MEAS_REFUSE] s t ∧ s.sameBut [.regs] t) ∧
  (∀ (k : Fin 2) (s : State),
    (s.sens k).on = true →
    answers (.sensOvercurrent k) s fun t =>
      (t.sens k).on = false ∧ (t.sens k).oc = true ∧ t.on ⟨MEAS_FLAG, k, 1⟩ = true) ∧
  (∀ (k : Fin 2) (s : State),
    (s.sens k).bf = false →
    answers (.sensBackfeed k) s fun t =>
      (t.sens k).on = false ∧ (t.sens k).bf = true ∧ t.on ⟨MEAS_FLAG, 2 + k, 1⟩ = true) ∧
  (∀ (k : Fin 2) (s : State),
    (s.sens k).bf = true →
    s.on (sensEN k) = true →
    answers (.sensBackfeedRelease k) s fun t =>
      (t.sens k).bf = false ∧ (t.sens k).on = !(s.sens k).oc ∧
      s.sameBut [.meas] t)

/-- Strongroom requests: the window, random bytes, SHA-256, CMAC, AES-CTR, ECDSA, keys, supervision. A write of 16 bytes
is queued and its result slot FILLING, while one of another length, a full FIFO or a slot that is FILLING is refused
as R469 and R470 say. A request at the head of the FIFO completes with its status, OP and output length in its slot:
the checks give LENGTH, RANGE, SLOT or GRANT first (their order is the choice of log entry 15), then the output
stands at OUT and no other byte of memory changed, or the verification gives OK or VERIFY (R471, R477). Random bytes
are free values (R483). KEY_IMPORT unwraps under slot 1 and puts kind, USE, USER, counter and content (R480);
KEY_ERASE empties a slot its initiator may erase (R481). HB_DISARM, FS_RELEASE_REQ and LIFECYCLE_REQUEST act as R474,
R476 and R487 say. The cryptography is that of the public standards the spec names (log entry 5). Says that these
complete: strRequest, strRandom, strSha256, strCmacGen, strCmacVerify, strAesCtr, strEcdsaVerify, keyImport,
keyErase, hbDisarm, fsReleaseReq, lifecycleRequest. -/
def Obligations.StrongroomRequestsComplete : Prop :=
  (∀ (init : Byte) (b : List Byte) (s : State),
    b.length = 16 →
    s.str.req.length < 16 →
    s.f ⟨SYS_SLOT_ST (StrReq.res { init := init.toNat, bytes := b }), 16, 2⟩ ≠ 1 →
    (let r : StrReq := { init := init.toNat, bytes := b }; (s.str.req ++ [r]).head?.all (fun q => 1 ≤ q.op && q.op ≤ 0x0B) = true) →
    answers (.strRequest init b) s fun t =>
      t.str.req = s.str.req ++ [{ init := init.toNat, bytes := b }] ∧
      t.f SYS_STR_REQ_STAT_QUEUED = s.str.req.length + 1 ∧
      t.f ⟨SYS_SLOT_ST (StrReq.res { init := init.toNat, bytes := b }), 16, 2⟩ = 1 ∧
      t.mem = s.mem) ∧
  (∀ (init : Byte) (b : List Byte) (s : State),
    b.length ≠ 16 →
    (1 ≤ b.length ∧ b.length ≤ 64) →
    answers (.strRequest init b) s fun t =>
      t.f (SYS_STR_REQ_STAT_MALFORMED) = min (s.f (SYS_STR_REQ_STAT_MALFORMED) + 1) (2 ^ RF.w (SYS_STR_REQ_STAT_MALFORMED) - 1) ∧
      t.str = s.str ∧ t.mem = s.mem) ∧
  (∀ (init : Byte) (b : List Byte) (s : State),
    b.length = 16 →
    16 ≤ s.str.req.length →
    answers (.strRequest init b) s fun t =>
      t.f (SYS_STR_REQ_STAT_DROPPED) = min (s.f (SYS_STR_REQ_STAT_DROPPED) + 1) (2 ^ RF.w (SYS_STR_REQ_STAT_DROPPED) - 1) ∧
      t.str = s.str ∧ t.mem = s.mem) ∧
  (∀ (init : Byte) (b : List Byte) (s : State),
    b.length = 16 →
    s.str.req.length < 16 →
    s.f ⟨SYS_SLOT_ST (StrReq.res { init := init.toNat, bytes := b }), 16, 2⟩ = 1 →
    answers (.strRequest init b) s fun t =>
      t.str = s.str ∧ t.mem = s.mem ∧
      t.f ⟨SYS_SLOT_ST (StrReq.res { init := init.toNat, bytes := b }), 16, 2⟩ = 1) ∧
  (∀ (r : StrReq) (s : State),
    s.strHead r 0x01 = true →
    answers (.strRandom) s fun t =>
      ((1 ≤ r.len && r.len ≤ 256) = false → s.finished t r 4 0 = true ∧ t.mem = s.mem) ∧
      ((1 ≤ r.len && r.len ≤ 256) = true → (inStoreRange r.out r.len) = false → s.finished t r 7 0 = true ∧ t.mem = s.mem) ∧
      ((1 ≤ r.len && r.len ≤ 256) = true → (inStoreRange r.out r.len) = true → s.on STR_RNG_STAT_HEALTHY = false → s.finished t r 6 0 = true ∧ t.mem = s.mem) ∧
      ((1 ≤ r.len && r.len ≤ 256) = true → (inStoreRange r.out r.len) = true → s.on STR_RNG_STAT_HEALTHY = true → s.finished t r 0 r.len = true ∧ t.rdBytes r.out (r.len) = bytesLE r.len s.draw ∧ memBut ((List.range (r.len)).map (r.out + ·)) s t)) ∧
  (∀ (r : StrReq) (s : State),
    s.strHead r 0x02 = true →
    answers (.strSha256) s fun t =>
      ((decide (1 ≤ r.len)) = false → s.finished t r 4 0 = true ∧ t.mem = s.mem) ∧
      ((decide (1 ≤ r.len)) = true → (inStoreRange r.inp r.len && inStoreRange r.out 32) = false → s.finished t r 7 0 = true ∧ t.mem = s.mem) ∧
      ((decide (1 ≤ r.len)) = true → (inStoreRange r.inp r.len && inStoreRange r.out 32) = true → s.finished t r 0 32 = true ∧ t.rdBytes r.out (32) = sha256 (s.rdBytes r.inp r.len) ∧ memBut ((List.range (32)).map (r.out + ·)) s t)) ∧
  (∀ (r : StrReq) (s : State),
    s.strHead r 0x03 = true →
    answers (.strCmacGen) s fun t =>
      ((1 ≤ r.len && r.len ≤ 4096) = false → s.finished t r 4 0 = true ∧ t.mem = s.mem) ∧
      ((1 ≤ r.len && r.len ≤ 4096) = true → (inStoreRange r.inp r.len && inStoreRange r.out 16) = false → s.finished t r 7 0 = true ∧ t.mem = s.mem) ∧
      ((1 ≤ r.len && r.len ≤ 4096) = true → (inStoreRange r.inp r.len && inStoreRange r.out 16) = true → s.slotCheck r 0 [1, 2] ≠ none → s.finished t r ((s.slotCheck r 0 [1, 2]).getD 0) 0 = true ∧ t.mem = s.mem) ∧
      ((1 ≤ r.len && r.len ≤ 4096) = true → (inStoreRange r.inp r.len && inStoreRange r.out 16) = true → s.slotCheck r 0 [1, 2] = none → s.finished t r 0 16 = true ∧ t.rdBytes r.out (16) = cmac (s.key r.slot).bytes (s.rdBytes r.inp r.len) ∧ memBut ((List.range (16)).map (r.out + ·)) s t)) ∧
  (∀ (r : StrReq) (s : State),
    s.strHead r 0x04 = true →
    answers (.strCmacVerify) s fun t =>
      ((1 ≤ r.len && r.len ≤ 4096 && 4 ≤ r.arg && r.arg ≤ 16) = false → s.finished t r 4 0 = true ∧ t.mem = s.mem) ∧
      ((1 ≤ r.len && r.len ≤ 4096 && 4 ≤ r.arg && r.arg ≤ 16) = true → (inStoreRange r.inp r.len && inStoreRange r.out r.arg) = false → s.finished t r 7 0 = true ∧ t.mem = s.mem) ∧
      ((1 ≤ r.len && r.len ≤ 4096 && 4 ≤ r.arg && r.arg ≤ 16) = true → (inStoreRange r.inp r.len && inStoreRange r.out r.arg) = true → s.slotCheck r 0 [1, 2] ≠ none → s.finished t r ((s.slotCheck r 0 [1, 2]).getD 0) 0 = true ∧ t.mem = s.mem) ∧
      ((1 ≤ r.len && r.len ≤ 4096 && 4 ≤ r.arg && r.arg ≤ 16) = true → (inStoreRange r.inp r.len && inStoreRange r.out r.arg) = true → s.slotCheck r 0 [1, 2] = none → s.finished t r (if (cmac (s.key r.slot).bytes (s.rdBytes r.inp r.len)).take r.arg = s.rdBytes r.out r.arg then 0 else 1) 0 = true ∧ t.mem = s.mem)) ∧
  (∀ (r : StrReq) (s : State),
    s.strHead r 0x05 = true →
    answers (.strAesCtr) s fun t =>
      ((1 ≤ r.len && r.len ≤ 4096) = false → s.finished t r 4 0 = true ∧ t.mem = s.mem) ∧
      ((1 ≤ r.len && r.len ≤ 4096) = true → (inStoreRange r.inp (16 + r.len) && inStoreRange r.out r.len) = false → s.finished t r 7 0 = true ∧ t.mem = s.mem) ∧
      ((1 ≤ r.len && r.len ≤ 4096) = true → (inStoreRange r.inp (16 + r.len) && inStoreRange r.out r.len) = true → s.slotCheck r 1 [1, 2] ≠ none → s.finished t r ((s.slotCheck r 1 [1, 2]).getD 0) 0 = true ∧ t.mem = s.mem) ∧
      ((1 ≤ r.len && r.len ≤ 4096) = true → (inStoreRange r.inp (16 + r.len) && inStoreRange r.out r.len) = true → s.slotCheck r 1 [1, 2] = none → s.finished t r 0 r.len = true ∧ t.rdBytes r.out r.len = aesCtr (s.key r.slot).bytes 256 (s.rdBytes r.inp 16) (s.rdBytes (r.inp + 16) r.len) ∧ memBut ((List.range r.len).map (r.out + ·)) s t)) ∧
  (∀ (r : StrReq) (s : State),
    s.strHead r 0x06 = true →
    answers (.strEcdsaVerify) s fun t =>
      ((inStoreRange r.inp 96) = false → s.finished t r 7 0 = true ∧ t.mem = s.mem) ∧
      ((inStoreRange r.inp 96) = true → s.slotCheck r 3 [4] ≠ none → s.finished t r ((s.slotCheck r 3 [4]).getD 0) 0 = true ∧ t.mem = s.mem) ∧
      ((inStoreRange r.inp 96) = true → s.slotCheck r 3 [4] = none → s.finished t r (if ecdsaVerify (s.key r.slot).bytes (s.rdBytes r.inp 32) (s.rdBytes (r.inp + 32) 64) then 0 else 1) 0 = true ∧ t.mem = s.mem)) ∧
  (∀ (r : StrReq) (s : State),
    s.strHead r 0x07 = true →
    answers (.keyImport) s fun t =>
      ((decide (r.len = 56)) = false → s.finished t r 4 0 = true ∧ t.mem = s.mem) ∧
      ((decide (r.len = 56)) = true → (inStoreRange r.inp 56) = false → s.finished t r 7 0 = true ∧ t.mem = s.mem) ∧
      ((decide (r.len = 56)) = true → (inStoreRange r.inp 56) = true → (keyUnwrap (s.key 1).bytes (s.rdBytes r.inp 56)).isNone = true → s.finished t r 1 0 = true ∧ t.keys = s.keys) ∧
      ((decide (r.len = 56)) = true → (inStoreRange r.inp 56) = true → (keyUnwrap (s.key 1).bytes (s.rdBytes r.inp 56)).all (fun b => decide ((sliceLE b 0 1 ≠ r.slot ∨ 64 ≤ r.slot) ∨ (r.slot ≠ 0 ∧ ¬(6 ≤ r.slot ∧ r.slot ≤ 13) ∧ (slotKinds r.slot).contains (sliceLE b 1 1) = false) → s.finished t r 3 0 = true ∧ t.keys = s.keys)) = true) ∧
      ((decide (r.len = 56)) = true → (inStoreRange r.inp 56) = true → (keyUnwrap (s.key 1).bytes (s.rdBytes r.inp 56)).all (fun b => decide (¬(sliceLE b 0 1 ≠ r.slot ∨ 64 ≤ r.slot) ∧ ¬(r.slot ≠ 0 ∧ ¬(6 ≤ r.slot ∧ r.slot ≤ 13) ∧ (slotKinds r.slot).contains (sliceLE b 1 1) = false) ∧ s.mayImport r.slot = false → s.finished t r 2 0 = true ∧ t.keys = s.keys)) = true) ∧
      ((decide (r.len = 56)) = true → (inStoreRange r.inp 56) = true → (keyUnwrap (s.key 1).bytes (s.rdBytes r.inp 56)).all (fun b => decide (¬(sliceLE b 0 1 ≠ r.slot ∨ 64 ≤ r.slot) ∧ ¬(r.slot ≠ 0 ∧ ¬(6 ≤ r.slot ∧ r.slot ≤ 13) ∧ (slotKinds r.slot).contains (sliceLE b 1 1) = false) ∧ s.mayImport r.slot = true ∧ natBE ((b.drop 4).take 4) ≤ (s.key r.slot).ctr → s.finished t r 8 0 = true ∧ t.keys = s.keys)) = true) ∧
      ((decide (r.len = 56)) = true → (inStoreRange r.inp 56) = true → (keyUnwrap (s.key 1).bytes (s.rdBytes r.inp 56)).all (fun b => decide (¬(sliceLE b 0 1 ≠ r.slot ∨ 64 ≤ r.slot) ∧ ¬(r.slot ≠ 0 ∧ ¬(6 ≤ r.slot ∧ r.slot ≤ 13) ∧ (slotKinds r.slot).contains (sliceLE b 1 1) = false) ∧ s.mayImport r.slot = true ∧ (s.key r.slot).ctr < natBE ((b.drop 4).take 4) → s.finished t r 0 0 = true ∧ (t.key r.slot).ctr = natBE ((b.drop 4).take 4) ∧
      (sliceLE b 1 1 ≠ 4 → (t.key r.slot).kind = sliceLE b 1 1 ∧ (t.key r.slot).use = sliceLE b 2 1 % 0x10 ∧
        (t.key r.slot).bytes = (b.drop 16).take (kindBytes (sliceLE b 1 1))) ∧
      ∀ k : Fin 64, k.val ≠ r.slot → t.key k = s.key k)) = true)) ∧
  (∀ (r : StrReq) (s : State),
    s.strHead r 0x08 = true →
    answers (.keyErase) s fun t =>
      ((r.slot < 64 ∧ ((41 ≤ r.slot ∧ (s.key r.slot).user = r.init) ∨ (14 ≤ r.slot ∧ r.slot ≤ 40 ∧ isStr r.init = true))) →
    s.finished t r 0 0 = true ∧ t.key r.slot = { ctr := (s.key r.slot).ctr } ∧ t.f (STR_KEY_KIND r.slot) = 0 ∧ t.f (STR_KEY_STATE r.slot) = 0) ∧
      ((64 ≤ r.slot) → s.finished t r 3 0 = true ∧ t.keys = s.keys) ∧
      ((r.slot < 64 ∧ ¬((41 ≤ r.slot ∧ (s.key r.slot).user = r.init) ∨ (14 ≤ r.slot ∧ r.slot ≤ 40 ∧ isStr r.init = true))) →
    s.finished t r 2 0 = true ∧ t.keys = s.keys) ∧
      ((∀ k : Fin 64, k.val ≠ r.slot → t.key k = s.key k)) ∧
      t.mem = s.mem) ∧
  (∀ (r : StrReq) (s : State),
    s.strHead r 0x09 = true →
    answers (.hbDisarm) s fun t =>
      (s.hbSession r.init = true → s.finished t r 0 0 = true ∧ t.f STR_HB_STAT_CC_ARMED = 0 ∧ t.f STR_HB_STAT_CC_MISSING = 0) ∧
      (s.hbSession r.init = false → s.finished t r 2 0 = true ∧ t.f STR_HB_STAT_CC_ARMED = s.f STR_HB_STAT_CC_ARMED) ∧
      t.mem = s.mem) ∧
  (∀ (r : StrReq) (s : State),
    s.strHead r 0x0B = true →
    answers (.fsReleaseReq) s fun t =>
      ((r.arg % 2 = 1 ∨ 0x4000 ≤ r.arg) → s.finished t r 10 0 = true ∧ t.links = s.links) ∧
      ((r.arg % 2 = 0 ∧ r.arg < 0x4000) → s.finished t r 0 0 = true) ∧
      ((s.boot.phase = .run ∧ r.arg % 2 = 0 ∧ r.arg < 0x4000) → ∀ n : Fin 14, s.dieLinks.contains n.val = true → bitOf r.arg n = true → s.f (dieStateRF n) = 3 →
      bitOf (t.lnk n).cause 2 = false ∧ (s.hbSession r.init = true → s.ccPresent = true → bitOf (t.lnk n).cause 1 = false)) ∧
      ((∀ n : Fin 14, bitOf r.arg n = false → t.lnk n = s.lnk n)) ∧
      t.mem = s.mem) ∧
  (∀ (r : StrReq) (s : State),
    s.strHead r 0x0A = true →
    answers (.lifecycleRequest) s fun t =>
      ((r.arg % 4 = 3 ∧ s.f STR_LIFECYCLE_STATE ≠ 3 ∧ r.init = 0x4A ∧ s.on STR_LIFECYCLE_DEBUG_OPEN = true) →
    s.finished t r 0 0 = true ∧ t.f STR_LIFECYCLE_STATE = 3 ∧ t.boot.due = some (4, 3, 0) ∧ ∀ k : Fin 64, k ≠ 0 → t.key k = { ctr := (s.key k).ctr }) ∧
      ((r.arg % 4 = 3 ∧ ¬(s.f STR_LIFECYCLE_STATE ≠ 3 ∧ r.init = 0x4A ∧ s.on STR_LIFECYCLE_DEBUG_OPEN = true)) → s.finished t r 2 0 = true ∧ t.keys = s.keys ∧ t.f STR_LIFECYCLE_STATE = s.f STR_LIFECYCLE_STATE) ∧
      ((r.arg % 4 ≠ 3 ∧ ¬((s.f STR_LIFECYCLE_STATE = 0 ∧ (r.arg % 4 = 1 ∨ r.arg % 4 = 2)) ∨ (s.f STR_LIFECYCLE_STATE = 1 ∧ r.arg % 4 = 2))) → s.finished t r 2 0 = true ∧ t.f STR_LIFECYCLE_STATE = s.f STR_LIFECYCLE_STATE) ∧
      ((r.arg % 4 ≠ 3 ∧ ((s.f STR_LIFECYCLE_STATE = 0 ∧ (r.arg % 4 = 1 ∨ r.arg % 4 = 2)) ∨ (s.f STR_LIFECYCLE_STATE = 1 ∧ r.arg % 4 = 2)) ∧ r.len = 16 ∧ inStoreRange r.inp 16 = true) →
    if cmac (s.key 2).bytes (BitVec.ofNat 8 (r.arg % 4) :: s.serial) = s.rdBytes r.inp 16 then
      s.finished t r 0 0 = true ∧ t.f STR_LIFECYCLE_STATE = r.arg % 4 ∧ t.boot.due = some (4, 3, 0)
    else s.finished t r 1 0 = true ∧ t.f STR_LIFECYCLE_STATE = s.f STR_LIFECYCLE_STATE))

/-- Entropy, the debug lock with its password, challenge and back-off, and the TAP. ENTROPY_FAIL is flagged and clears
HEALTHY, recovery sets it, and a reseed counts while it is set (R483). In the lifecycle FIELD with the port closed
and no back-off, the password whose SHA-256 with the serial is the content of slot 3 opens the port with method 2, a
response that is the CMAC of the challenge drawn within 60 s opens it with method 3, and FAILS is 0 again; a wrong
answer counts and is flagged, and the tenth starts a back-off of 60 minutes (R486). The challenge is a free value.
The back-off ends while the logic is powered (not in Deep sleep or Off). Outside reset, BYPASS shifts out 0; IDCODE
shifts out a device code that the spec does not give, an open value (R485). Says that these complete: entropyFail,
entropyRecovery, drbgReseed, debugPassword, debugChallenge, debugResponse, debugBackoffEnd, tapBypass, tapIdcode. -/
def Obligations.EntropyDebugLockAndTap : Prop :=
  (∀ (s : State),
    answers (.entropyFail) s fun t =>
      t.f STR_FLAG_ENTROPY_FAIL = 1 ∧ t.f STR_RNG_STAT_HEALTHY = 0 ∧
      t.str = s.str ∧ t.mem = s.mem) ∧
  (∀ (s : State),
    answers (.entropyRecovery) s fun t =>
      t.f STR_RNG_STAT_HEALTHY = 1 ∧
      regsBut [STR_RNG_STAT] s t ∧ s.sameBut [.regs] t) ∧
  (∀ (s : State),
    answers (.drbgReseed) s fun t =>
      (t.f STR_RNG_STAT_RESEEDS = if s.on STR_RNG_STAT_HEALTHY then (s.f STR_RNG_STAT_RESEEDS + 1) % 2 ^ STR_RNG_STAT_RESEEDS.w else s.f STR_RNG_STAT_RESEEDS) ∧
      regsBut [STR_RNG_STAT] s t ∧ s.sameBut [.regs] t) ∧
  (∀ (pw : BitVec 128) (s : State),
    s.f STR_LIFECYCLE_STATE = 2 →
    s.on STR_LIFECYCLE_DEBUG_OPEN = false →
    s.str.backoff = false →
    answers (.debugPassword pw) s fun t =>
      (if sha256 (bytesBE 16 pw.toNat ++ s.serial) = (s.key 3).bytes then
      t.f STR_LIFECYCLE_DEBUG_OPEN = 1 ∧ t.f STR_LIFECYCLE_METHOD = 2 ∧ t.f STR_DBG_STAT_FAILS = 0 ∧ t.str.backoffMin = 0
    else t.f STR_LIFECYCLE_DEBUG_OPEN = 0 ∧ t.f STR_DBG_STAT_FAILS = min (s.f STR_DBG_STAT_FAILS + 1) 0xFF ∧ t.f STR_FLAG_DEBUG_FAIL = 1 ∧
      t.str.backoff = decide (9 ≤ s.f STR_DBG_STAT_FAILS) ∧ (s.f STR_DBG_STAT_FAILS = 9 → t.f STR_DBG_STAT_BACKOFF_MIN = 60))) ∧
  (∀ (pw : BitVec 128) (s : State),
    s.f STR_LIFECYCLE_STATE = 2 →
    s.on STR_LIFECYCLE_DEBUG_OPEN = false →
    s.str.backoff = true →
    answers (.debugPassword pw) s fun t =>
      t.regs = s.regs ∨ t.f STR_DBG_STAT_FAILS = s.f STR_DBG_STAT_FAILS ∧
      t.f STR_LIFECYCLE_DEBUG_OPEN = 0 ∧ t.str = s.str) ∧
  (∀ (s : State),
    s.on STR_RNG_STAT_HEALTHY = true →
    answers (.debugChallenge) s fun t =>
      t.str.chal = some (s.draw % 2 ^ 128) ∧ t.str.chalAt = s.now ∧
      s.sameBut [.free, .str] t) ∧
  (∀ (tag : BitVec 128) (s : State),
    s.f STR_LIFECYCLE_STATE = 2 →
    s.on STR_LIFECYCLE_DEBUG_OPEN = false →
    s.str.backoff = false →
    answers (.debugResponse tag) s fun t =>
      t.str.chal = none ∧
      (if s.str.chal.isSome ∧ s.now ≤ s.str.chalAt + 7500000000 ∧ cmac (s.key 2).bytes (bytesBE 16 (s.str.chal.getD 0) ++ s.serial ++ [BitVec.ofNat 8 (s.f STR_LIFECYCLE_STATE)]) = bytesBE 16 tag.toNat then
      t.f STR_LIFECYCLE_DEBUG_OPEN = 1 ∧ t.f STR_LIFECYCLE_METHOD = 3 ∧ t.f STR_DBG_STAT_FAILS = 0 ∧ t.str.backoffMin = 0
    else t.f STR_LIFECYCLE_DEBUG_OPEN = 0 ∧ t.f STR_DBG_STAT_FAILS = min (s.f STR_DBG_STAT_FAILS + 1) 0xFF ∧ t.f STR_FLAG_DEBUG_FAIL = 1 ∧
      t.str.backoff = decide (9 ≤ s.f STR_DBG_STAT_FAILS) ∧ (s.f STR_DBG_STAT_FAILS = 9 → t.f STR_DBG_STAT_BACKOFF_MIN = 60))) ∧
  (∀ (s : State),
    s.str.backoff = true →
    s.f PWR_STATE_STATE < 3 →
    answers (.debugBackoffEnd) s fun t =>
      t.str.backoff = false ∧ t.f STR_DBG_STAT_BACKOFF_MIN = 0 ∧
      regsBut [STR_DBG_STAT] s t ∧ s.sameBut [.regs, .str] t) ∧
  (∀ (s : State),
    s.boot.phase ≠ .reset →
    answers (.tapBypass) s fun t =>
      t.str.tap = 0 ∧ t.str.tapOut = 0 ∧
      s.sameBut [.str] t) ∧
  (∀ (s : State),
    s.boot.phase ≠ .reset →
    answers (.tapIdcode) s fun t =>
      t.str.tap = 1 ∧
      s.sameBut [.str] t)

/-- Antenna faults, poll requests, the course of a poll and its rounds, and the search. A faulted antenna is latched,
flagged and cued to OWNER (R430). A poll request of a permitted initiator queues unless one of its source waits or
runs; another is refused and counted (R438, R451). The next poll starts, unless a prove round is due or runs or the
Load-dump band holds, by source order, clears ACC_PRESENT and counts (R437, R438). A round starts with its nonce (one
that the Interface die began in a sleep state keeps its nonce and start); without an antenna the poll ends NO_ANTENNA
(R430, R432). A frame is read into its slot once and else is STRAY (R435). The oldest frame is judged by the first
test that fails: CRC, RELAY, UNKNOWN, WRONG_SLOT, BAD_RESP; a verified one sets its bit (R435). A round that closes
VERIFIED, SILENT or bad takes the poll to its end, to the next round, or after four bad ones to the addressed rounds
(R436, R437). Without a nonce the poll ends FAILED (R483). A search round queues a poll where the other sources are
idle, until the park time is up (R440, R441). The order among handle touches is the order of the queue (log entry
38). Says that these complete: lfAntennaFault, accPollRequest, pollStart, accRoundStart, uhfFrame, uhfFrameJudge,
accRoundClose, pollNonceTimeout, searchRound, searchStop. -/
def Obligations.AccessPollsAndSearch : Prop :=
  (∀ (a : Fin 6) (short : Bool) (s : State),
    s.fullPart = true →
    s.antUsable (2 ^ a.val) ≠ 0 →
    answers (.lfAntennaFault a short) s fun t =>
      (t.on ⟨ACC_LF_STAT, if short then 6 + a.val else a.val, 1⟩ = true ∧ t.f ACC_FLAG_LF_FAULT = 1 ∧ t.antUsable (2 ^ a.val) = 0) ∧
      ((s.f ACC_CFG3_OWNER ≠ 0 → t.offers.any (fun o => o.target = s.f ACC_CFG3_OWNER && o.cue.cls = 7 && o.cue.code = 0x04 && o.cue.index = 0x28 && o.cue.arg = a.val) = true)) ∧
      regsBut ([ACC_LF_STAT, ACC_FLAG, ACC_FLAG_CNT] ++ stampRegs) s t ∧ s.sameBut [.regs, .islands, .offers] t) ∧
  (∀ (init : Byte) (ant : BitVec 6) (tag : Byte) (s : State),
    s.fullPart = true →
    s.accMay init.toNat = true →
    (s.acc.queue.any (fun q => q.src = 4) = false) →
    (s.acc.cur.any (fun q => q.src = 4) = false) →
    answers (.accPollRequest init ant tag) s fun t =>
      t.acc = { s.acc with queue := s.acc.queue ++ [{ src := 4, ant := ant.toNat, tag := tag.toNat }] } ∧
      s.sameBut [.acc] t) ∧
  (∀ (init : Byte) (ant : BitVec 6) (tag : Byte) (s : State),
    s.fullPart = true →
    s.accMay init.toNat = false →
    answers (.accPollRequest init ant tag) s fun t =>
      t.f ACC_REFUSE_LAST_INIT = init.toNat ∧ t.f (ACC_REFUSE_COUNT) = min (s.f (ACC_REFUSE_COUNT) + 1) (2 ^ RF.w (ACC_REFUSE_COUNT) - 1) ∧
      regsBut [ACC_REFUSE] s t ∧ s.sameBut [.regs] t) ∧
  (∀ (p : AccPoll) (s : State),
    s.pollNext = some p →
    s.acc.cur = none →
    s.acc.proving = false →
    s.f PWR_FEED_STAT_BAND ≠ 2 →
    s.acc.prove = false →
    answers (.pollStart) s fun t =>
      t.acc.cur = some p ∧ t.acc.queue = s.acc.queue.erase p ∧ t.acc.roundOn = false ∧ t.acc.bad = 0 ∧
      ((p ∈ s.acc.queue) ∧ (4 ≤ p.src → ∀ q ∈ s.acc.queue, 4 ≤ q.src) ∧ (4 < p.src → ∀ q ∈ s.acc.queue, 4 < q.src)) ∧
      t.f ACC_POLL_STAT_STATE = 1 ∧ t.f ACC_POLL_STAT_ROUND = 1 ∧ t.f ACC_POLL_STAT_POLL_SEQ = (s.f ACC_POLL_STAT_POLL_SEQ + 1) % 0x10000 ∧
      t.reg ACC_PRESENT = 0 ∧
      regsBut [ACC_PRESENT, ACC_POLL_STAT] s t ∧ s.sameBut [.regs, .acc] t) ∧
  (∀ (p : AccPoll) (s : State),
    s.fullPart = true →
    s.acc.roundOn = false →
    s.f PWR_FEED_STAT_BAND ≠ 2 →
    s.acc.cur = some p →
    s.antUsable p.ant ≠ 0 →
    s.f ACC_POLL_STAT_STATE ≠ 2 →
    s.on STR_RNG_STAT_HEALTHY = true →
    answers (.accRoundStart) s fun t =>
      (t.acc.roundOn = true ∧ t.acc.addressed = none ∧ t.acc.slots = [] ∧ t.acc.frames = [] ∧ t.acc.start = if p.nonce.isSome then p.at_ else (s.islandSlate 1).toNat) ∧
      (p.nonce = none → t.acc.nonce = s.draw % 2 ^ 64) ∧
      (p.nonce.all (fun n => decide (t.acc.nonce = n)) = true) ∧
      t.acc.cur = some { p with nonce := none } ∧
      s.sameBut [.free, .acc] t) ∧
  (∀ (p : AccPoll) (s : State),
    s.fullPart = true →
    s.acc.roundOn = false →
    s.f PWR_FEED_STAT_BAND ≠ 2 →
    s.acc.cur = some p →
    s.antUsable p.ant ≠ 0 →
    s.f ACC_POLL_STAT_STATE = 2 →
    s.on STR_RNG_STAT_HEALTHY = true →
    answers (.accRoundStart) s fun t =>
      t.acc.roundOn = true ∧ t.acc.addressed = s.acc.left.head? ∧ t.acc.nonce = s.draw % 2 ^ 64 ∧
      s.sameBut [.free, .acc] t) ∧
  (∀ (p : AccPoll) (s : State),
    s.fullPart = true →
    s.acc.roundOn = false →
    s.f PWR_FEED_STAT_BAND ≠ 2 →
    s.acc.cur = some p →
    s.antUsable p.ant = 0 →
    s.acc.revoke = false →
    answers (.accRoundStart) s fun t =>
      t.acc.cur = none ∧ t.f ACC_POLL_STAT_STATE = 0 ∧ t.f ACC_PRESENT_OUTCOME = 3 ∧ t.f ACC_PRESENT_VALID = 0 ∧
      ((s.f ACC_CFG3_OWNER ≠ 0 → t.offers.any (fun o => o.target = s.f ACC_CFG3_OWNER && o.cue.cls = 7 && o.cue.code = 0x01 && o.cue.index = 0x28) = true))) ∧
  (∀ (b : List Byte) (j : Fin 8) (s : State),
    b.length = 14 →
    s.fullPart = true →
    s.acc.roundOn = true →
    s.windowAt + j.val * 250000 ≤ (s.islandSlate 1).toNat →
    (s.islandSlate 1).toNat < s.windowAt + (j.val + 1) * 250000 →
    j.val < s.windowSlots →
    s.acc.slots.contains j.val = false →
    answers (.uhfFrame b) s fun t =>
      t.acc = { s.acc with slots := s.acc.slots ++ [j.val], frames := s.acc.frames ++
      [{ bytes := b, slot := j.val, err := ((s.islandSlate 1).toNat : Int) - ((s.windowAt + j.val * 250000 + s.f ACC_CFG2_UHF_LAT * 125 : Nat) : Int) }] } ∧
      s.sameBut [.acc] t) ∧
  (∀ (b : List Byte) (s : State),
    b.length = 14 →
    s.fullPart = true →
    s.acc.roundOn = false →
    answers (.uhfFrame b) s fun t =>
      t.f (ACC_CNT1_STRAY) = min (s.f (ACC_CNT1_STRAY) + 1) (2 ^ RF.w (ACC_CNT1_STRAY) - 1) ∧
      t.f ⟨ACC_SLOT_ST 0, 16, 2⟩ = 2 ∧ t.f ⟨ACC_SLOT_VAL 0, 8, 4⟩ = 7 ∧
      t.acc = s.acc) ∧
  (∀ (b : List Byte) (j : Fin 8) (s : State),
    b.length = 14 →
    s.fullPart = true →
    s.acc.roundOn = true →
    s.windowAt + j.val * 250000 ≤ (s.islandSlate 1).toNat →
    (s.islandSlate 1).toNat < s.windowAt + (j.val + 1) * 250000 →
    j.val < s.windowSlots →
    s.acc.slots.contains j.val = true →
    answers (.uhfFrame b) s fun t =>
      t.f (ACC_CNT1_STRAY) = min (s.f (ACC_CNT1_STRAY) + 1) (2 ^ RF.w (ACC_CNT1_STRAY) - 1) ∧
      t.f ⟨ACC_SLOT_ST 0, 16, 2⟩ = 2 ∧ t.f ⟨ACC_SLOT_VAL 0, 8, 4⟩ = 7 ∧ t.f ⟨ACC_SLOT_VAL 0, 0, 3⟩ = j ∧
      t.acc = s.acc) ∧
  (∀ (b : List Byte) (s : State),
    b.length = 14 →
    s.fullPart = true →
    s.acc.roundOn = true →
    ((s.islandSlate 1).toNat < s.windowAt ∨ s.windowAt + s.windowSlots * 250000 ≤ (s.islandSlate 1).toNat) →
    answers (.uhfFrame b) s fun t =>
      t.f (ACC_CNT1_STRAY) = min (s.f (ACC_CNT1_STRAY) + 1) (2 ^ RF.w (ACC_CNT1_STRAY) - 1) ∧
      t.f ⟨ACC_SLOT_ST 0, 16, 2⟩ = 2 ∧ t.f ⟨ACC_SLOT_VAL 0, 8, 4⟩ = 7 ∧
      t.acc = s.acc) ∧
  (∀ (f : AccFrame) (l : List AccFrame) (s : State),
    s.acc.frames = f :: l →
    crc16 0xFFFF (f.bytes.take 12) ≠ natBE (f.bytes.drop 12) →
    answers (.uhfFrameJudge) s fun t =>
      t.acc.frames = l ∧ t.acc.cur = s.acc.cur ∧
      t.f ⟨ACC_SLOT_ST 0, 16, 2⟩ = 2 ∧ t.f ⟨ACC_SLOT_VAL 0, 8, 4⟩ = 2 ∧ t.f ⟨ACC_SLOT_VAL 0, 0, 3⟩ = f.slot % 8 ∧
      t.acc.collision = true ∧ t.acc.invalid = s.acc.invalid ∧ t.f ACC_FLAG_INVALID = 1 ∧ t.f (ACC_CNT0_INVALID) = min (s.f (ACC_CNT0_INVALID) + 1) (2 ^ RF.w (ACC_CNT0_INVALID) - 1) ∧
      t.f ACC_PRESENT_PRESENT = s.f ACC_PRESENT_PRESENT) ∧
  (∀ (f : AccFrame) (l : List AccFrame) (s : State),
    s.acc.frames = f :: l →
    crc16 0xFFFF (f.bytes.take 12) = natBE (f.bytes.drop 12) →
    s.f ACC_CFG2_TOL_US * 125 < f.err.natAbs →
    answers (.uhfFrameJudge) s fun t =>
      t.acc.frames = l ∧ t.acc.cur = s.acc.cur ∧
      t.f ⟨ACC_SLOT_ST 0, 16, 2⟩ = 2 ∧ t.f ⟨ACC_SLOT_VAL 0, 8, 4⟩ = 3 ∧ t.f ⟨ACC_SLOT_VAL 0, 0, 3⟩ = f.slot % 8 ∧
      t.acc.collision = s.acc.collision ∧ t.acc.invalid = true ∧ t.f ACC_FLAG_RELAY = 1 ∧ t.f (ACC_CNT1_RELAY) = min (s.f (ACC_CNT1_RELAY) + 1) (2 ^ RF.w (ACC_CNT1_RELAY) - 1) ∧
      t.f ACC_PRESENT_PRESENT = s.f ACC_PRESENT_PRESENT) ∧
  (∀ (f : AccFrame) (l : List AccFrame) (s : State),
    s.acc.frames = f :: l →
    crc16 0xFFFF (f.bytes.take 12) = natBE (f.bytes.drop 12) →
    ¬(s.f ACC_CFG2_TOL_US * 125 < f.err.natAbs) →
    ((s.roundTokens.find? (fun i => (s.tokenValue i 0x49).take 4 = f.bytes.take 4)) = none) →
    answers (.uhfFrameJudge) s fun t =>
      t.acc.frames = l ∧ t.acc.cur = s.acc.cur ∧
      t.f ⟨ACC_SLOT_ST 0, 16, 2⟩ = 2 ∧ t.f ⟨ACC_SLOT_VAL 0, 8, 4⟩ = 4 ∧ t.f ⟨ACC_SLOT_VAL 0, 0, 3⟩ = f.slot % 8 ∧
      t.acc.invalid = true ∧ t.f ACC_FLAG_INVALID = 1 ∧ t.f (ACC_CNT0_INVALID) = min (s.f (ACC_CNT0_INVALID) + 1) (2 ^ RF.w (ACC_CNT0_INVALID) - 1) ∧
      t.f ACC_PRESENT_PRESENT = s.f ACC_PRESENT_PRESENT) ∧
  (∀ (f : AccFrame) (l : List AccFrame) (i : Fin 8) (s : State),
    s.acc.frames = f :: l →
    crc16 0xFFFF (f.bytes.take 12) = natBE (f.bytes.drop 12) →
    ¬(s.f ACC_CFG2_TOL_US * 125 < f.err.natAbs) →
    ((s.roundTokens.find? (fun i => (s.tokenValue i 0x49).take 4 = f.bytes.take 4)) = some i.val) →
    s.tokenSlot i ≠ f.slot →
    answers (.uhfFrameJudge) s fun t =>
      t.acc.frames = l ∧ t.acc.cur = s.acc.cur ∧
      t.f ⟨ACC_SLOT_ST 0, 16, 2⟩ = 2 ∧ t.f ⟨ACC_SLOT_VAL 0, 8, 4⟩ = 5 ∧ t.f ⟨ACC_SLOT_VAL 0, 0, 3⟩ = f.slot % 8 ∧
      t.f ⟨ACC_SLOT_VAL 0, 3, 3⟩ = i.val ∧
      t.acc.invalid = true ∧ t.f ACC_FLAG_INVALID = 1 ∧ t.acc.verified = s.acc.verified ∧
      t.f ACC_PRESENT_PRESENT = s.f ACC_PRESENT_PRESENT) ∧
  (∀ (f : AccFrame) (l : List AccFrame) (i : Fin 8) (s : State),
    s.acc.frames = f :: l →
    crc16 0xFFFF (f.bytes.take 12) = natBE (f.bytes.drop 12) →
    ¬(s.f ACC_CFG2_TOL_US * 125 < f.err.natAbs) →
    ((s.roundTokens.find? (fun i => (s.tokenValue i 0x49).take 4 = f.bytes.take 4)) = some i.val) →
    s.tokenSlot i = f.slot →
    (s.tokenValue i 0x52).take 8 ≠ (f.bytes.drop 4).take 8 →
    answers (.uhfFrameJudge) s fun t =>
      t.acc.frames = l ∧ t.acc.cur = s.acc.cur ∧
      t.f ⟨ACC_SLOT_ST 0, 16, 2⟩ = 2 ∧ t.f ⟨ACC_SLOT_VAL 0, 8, 4⟩ = 6 ∧ t.f ⟨ACC_SLOT_VAL 0, 0, 3⟩ = f.slot % 8 ∧
      t.f ⟨ACC_SLOT_VAL 0, 3, 3⟩ = i.val ∧
      t.acc.invalid = true ∧ t.f ACC_FLAG_INVALID = 1 ∧ t.acc.verified = s.acc.verified ∧
      t.f ACC_PRESENT_PRESENT = s.f ACC_PRESENT_PRESENT) ∧
  (∀ (f : AccFrame) (l : List AccFrame) (i : Fin 8) (s : State),
    s.acc.frames = f :: l →
    crc16 0xFFFF (f.bytes.take 12) = natBE (f.bytes.drop 12) →
    ¬(s.f ACC_CFG2_TOL_US * 125 < f.err.natAbs) →
    ((s.roundTokens.find? (fun i => (s.tokenValue i 0x49).take 4 = f.bytes.take 4)) = some i.val) →
    s.tokenSlot i = f.slot →
    (s.tokenValue i 0x52).take 8 = (f.bytes.drop 4).take 8 →
    answers (.uhfFrameJudge) s fun t =>
      t.acc.frames = l ∧ t.acc.cur = s.acc.cur ∧
      t.f ⟨ACC_SLOT_ST 0, 16, 2⟩ = 2 ∧ t.f ⟨ACC_SLOT_VAL 0, 8, 4⟩ = 1 ∧ t.f ⟨ACC_SLOT_VAL 0, 0, 3⟩ = f.slot % 8 ∧
      t.f ⟨ACC_SLOT_VAL 0, 3, 3⟩ = i.val ∧
      t.acc.verified = true ∧ t.acc.invalid = s.acc.invalid ∧ t.acc.collision = s.acc.collision ∧
      (s.acc.proving = false → t.on ⟨ACC_PRESENT, i, 1⟩ = true) ∧
      t.f ACC_CNT0_INVALID = s.f ACC_CNT0_INVALID ∧ t.f ACC_CNT1_RELAY = s.f ACC_CNT1_RELAY) ∧
  (∀ (p : AccPoll) (s : State),
    s.acc.roundOn = true →
    s.acc.frames = [] →
    s.acc.proving = false →
    s.acc.cur = some p →
    s.acc.revoke = false →
    s.f ACC_POLL_STAT_STATE ≠ 2 →
    s.acc.verified = true →
    s.on ACC_AUTH_STAT_ACTIVE = false →
    answers (.accRoundClose) s fun t =>
      t.acc.cur = none ∧ t.acc.roundOn = false ∧ t.f ACC_POLL_STAT_STATE = 0 ∧ t.f ACC_PRESENT_OUTCOME = 1 ∧ t.f ACC_PRESENT_VALID = 1 ∧
      ((∀ i : Fin 8, s.on ⟨ACC_PRESENT, i, 1⟩ = true → (∀ k : Fin 8, k < i → s.on ⟨ACC_PRESENT, k, 1⟩ = false) → t.f ACC_PRESENT_SESSION = i ∧ t.acc.verTok = i.val)) ∧
      t.acc.verAt = some s.now ∧
      ((s.f ACC_CFG3_OWNER ≠ 0 → t.offers.any (fun o => o.target = s.f ACC_CFG3_OWNER && o.cue.cls = 7 && o.cue.code = 0x01 && o.cue.index = 0x28) = true)) ∧
      ((p.src ≠ 5) → t.acc.stopped = false) ∧
      t.f ACC_PRESENT_POLL_SEQ = s.f ACC_POLL_STAT_POLL_SEQ) ∧
  (∀ (p : AccPoll) (s : State),
    s.acc.roundOn = true →
    s.acc.frames = [] →
    s.acc.proving = false →
    s.acc.cur = some p →
    s.acc.revoke = false →
    s.f ACC_POLL_STAT_STATE ≠ 2 →
    (s.acc.verified = false ∧ s.acc.collision = false ∧ s.acc.invalid = false) →
    answers (.accRoundClose) s fun t =>
      t.acc.cur = none ∧ t.f ACC_POLL_STAT_STATE = 0 ∧ t.f ACC_PRESENT_OUTCOME = 0 ∧ t.f ACC_PRESENT_VALID = 0 ∧ t.acc.verAt = s.acc.verAt ∧
      ((s.f ACC_CFG3_OWNER ≠ 0 → t.offers.any (fun o => o.target = s.f ACC_CFG3_OWNER && o.cue.cls = 7 && o.cue.code = 0x01 && o.cue.index = 0x28) = true))) ∧
  (∀ (p : AccPoll) (s : State),
    s.acc.roundOn = true →
    s.acc.frames = [] →
    s.acc.proving = false →
    s.acc.cur = some p →
    s.acc.revoke = false →
    s.f ACC_POLL_STAT_STATE ≠ 2 →
    s.acc.verified = false →
    (s.acc.collision || s.acc.invalid) = true →
    s.acc.bad < 3 →
    answers (.accRoundClose) s fun t =>
      t.acc.cur = some p ∧ t.acc.roundOn = false ∧ t.acc.bad = s.acc.bad + 1 ∧ t.f ACC_POLL_STAT_ROUND = s.acc.bad + 2 ∧
      (s.acc.collision = true → t.f ACC_FLAG_COLLISION = 1 ∧ t.f (ACC_CNT0_COLLISIONS) = min (s.f (ACC_CNT0_COLLISIONS) + 1) (2 ^ RF.w (ACC_CNT0_COLLISIONS) - 1)) ∧
      (s.acc.collision = false → t.f ACC_CNT0_COLLISIONS = s.f ACC_CNT0_COLLISIONS) ∧
      s.sameBut [.regs, .acc] t) ∧
  (∀ (p : AccPoll) (j : Fin 8) (s : State),
    s.acc.roundOn = true →
    s.acc.frames = [] →
    s.acc.proving = false →
    s.acc.cur = some p →
    s.acc.revoke = false →
    s.f ACC_POLL_STAT_STATE ≠ 2 →
    s.acc.verified = false →
    (s.acc.collision || s.acc.invalid) = true →
    s.acc.bad = 3 →
    s.activeTokens.head? = some j.val →
    answers (.accRoundClose) s fun t =>
      t.acc.cur = some p ∧ t.acc.roundOn = false ∧ t.acc.left = s.activeTokens ∧ t.f ACC_POLL_STAT_STATE = 2 ∧ t.f ACC_POLL_STAT_ROUND = j ∧
      s.sameBut [.regs, .acc] t) ∧
  (∀ (p : AccPoll) (j : Fin 8) (s : State),
    s.acc.roundOn = true →
    s.acc.frames = [] →
    s.acc.proving = false →
    s.acc.cur = some p →
    s.acc.revoke = false →
    s.f ACC_POLL_STAT_STATE = 2 →
    s.acc.left.head? = some j.val →
    s.acc.verified = true →
    s.on ACC_AUTH_STAT_ACTIVE = false →
    answers (.accRoundClose) s fun t =>
      t.acc.cur = none ∧ t.f ACC_POLL_STAT_STATE = 0 ∧ t.f ACC_PRESENT_OUTCOME = 1 ∧ t.f ACC_PRESENT_SESSION = j ∧ t.acc.verTok = j.val ∧ t.acc.verAt = some s.now) ∧
  (∀ (p : AccPoll) (j : Fin 8) (s : State),
    s.acc.roundOn = true →
    s.acc.frames = [] →
    s.acc.proving = false →
    s.acc.cur = some p →
    s.acc.revoke = false →
    s.f ACC_POLL_STAT_STATE = 2 →
    s.acc.left.drop 1 = j.val :: s.acc.left.drop 2 →
    s.acc.verified = false →
    answers (.accRoundClose) s fun t =>
      t.acc.cur = some p ∧ t.acc.left = s.acc.left.drop 1 ∧ t.f ACC_POLL_STAT_ROUND = j ∧ t.f ACC_POLL_STAT_STATE = 2) ∧
  (∀ (p : AccPoll) (s : State),
    s.acc.roundOn = true →
    s.acc.frames = [] →
    s.acc.proving = false →
    s.acc.cur = some p →
    s.acc.revoke = false →
    s.f ACC_POLL_STAT_STATE = 2 →
    s.acc.left.length = 1 →
    s.acc.verified = false →
    answers (.accRoundClose) s fun t =>
      t.acc.cur = none ∧ t.f ACC_POLL_STAT_STATE = 0 ∧ t.f ACC_PRESENT_OUTCOME = 2 ∧ t.f ACC_PRESENT_VALID = 0) ∧
  (∀ (p : AccPoll) (s : State),
    s.acc.cur = some p →
    s.acc.roundOn = false →
    s.on STR_RNG_STAT_HEALTHY = false →
    s.acc.revoke = false →
    answers (.pollNonceTimeout) s fun t =>
      t.acc.cur = none ∧ t.f ACC_PRESENT_OUTCOME = 2 ∧ t.f ACC_PRESENT_VALID = 0 ∧ t.f ACC_POLL_STAT_STATE = 0 ∧
      ((s.f ACC_CFG3_OWNER ≠ 0 → t.offers.any (fun o => o.target = s.f ACC_CFG3_OWNER && o.cue.cls = 7 && o.cue.code = 0x01 && o.cue.index = 0x28) = true))) ∧
  (∀ (s : State),
    s.fullPart = true →
    s.on ACC_CFG3_SEARCH_EN = true →
    s.acc.stopped = false →
    s.searchMask ≠ 0 →
    s.acc.cur = none →
    s.acc.queue = [] →
    s.acc.prove = false →
    s.f PWR_STATE_STATE < 2 →
    answers (.searchRound) s fun t =>
      t.acc = { s.acc with queue := [{ src := 5, ant := s.searchMask }] } ∧
      s.sameBut [.acc] t) ∧
  (∀ (s : State),
    s.fullPart = true →
    s.on ACC_CFG3_SEARCH_EN = true →
    s.acc.stopped = false →
    s.searchMask ≠ 0 →
    s.acc.cur = none →
    s.acc.queue = [] →
    s.acc.prove = false →
    (s.f PWR_STATE_STATE = 2 ∨ s.f PWR_STATE_STATE = 3) →
    answers (.searchRound) s fun t =>
      t.f ACC_FLAG_SEARCH_WAKE = 1 ∧ bitOf (t.f PWR_WAKE_SRC_SRC) 19 = true ∧
      t.acc.queue.map (fun p => (p.src, p.ant, p.nonce)) = [(5, s.searchMask, s.seedNonce.1)] ∧
      t.acc.seedK = s.acc.seedK.map (fun k => k + 1)) ∧
  (∀ (s : State),
    s.fullPart = true →
    s.on ACC_CFG3_SEARCH_EN = true →
    s.acc.stopped = false →
    answers (.searchStop) s fun t =>
      t.acc.stopped = true ∧ t.f ACC_FLAG_SEARCH_STOPPED = 1 ∧
      ((s.f ACC_CFG3_OWNER ≠ 0 → t.offers.any (fun o => o.target = s.f ACC_CFG3_OWNER && o.cue.cls = 7 && o.cue.code = 0x05 && o.cue.index = 0x28 && o.cue.arg = 0) = true)) ∧
      regsBut ([ACC_FLAG, ACC_FLAG_CNT] ++ stampRegs) s t ∧ s.sameBut [.regs, .islands, .offers, .acc] t)

/-- Learning, dealer authority, revocation, authorisation and the release message. GO of an initiator that R451 permits
answers, in this order, BUSY outside IDLE, EXHAUSTED, OCCUPIED, NO_KEY, or the authority's result (R444): TOKEN needs
a verification within GRANT_WIN of another token, DEALER no lock and a challenge, which is a free value. A response
that is bytes 0 to 7 of the CMAC under the dealer key goes on and clears FAILS; a wrong one is counted, and from the
fifth on locks the path for 1 h and then twice as long up to 64 h (R445). A commit makes the staged key the token's,
the index ACTIVE and counts; a revocation erases the key and ends its authorisation (R446). GRANT binds to the recent
session token with validity AUTH_T; END and expiry withdraw with three messages (R447). In Run with the Interface
island clocked, a message carries C and T of R448 at port INT with the next CTR (R448 to R450). In Run and Idle, the
CC heartbeat missing acts by CC_ACT (R473). Says that these complete: accLearn, accRevoke, dealerResponse,
dealerTimeout, dealerLockExpire, learnCommitDone, accGrant, accAuthEnd, authExpire, releaseMessage, ccHeartbeatMiss. -/
def Obligations.AccessLearningAuthorisationAndRelease : Prop :=
  (∀ (init : Byte) (idx : Fin 8) (auth : Fin 4) (s : State),
    s.fullPart = true →
    s.accMay init.toNat = false →
    answers (.accLearn init idx auth) s fun t =>
      t.f ACC_REFUSE_LAST_INIT = init.toNat ∧ t.f (ACC_REFUSE_COUNT) = min (s.f (ACC_REFUSE_COUNT) + 1) (2 ^ RF.w (ACC_REFUSE_COUNT) - 1) ∧
      regsBut [ACC_REFUSE] s t ∧ s.sameBut [.regs] t) ∧
  (∀ (init : Byte) (idx : Fin 8) (auth : Fin 4) (s : State),
    s.fullPart = true →
    s.accMay init.toNat = true →
    s.f ACC_LEARN_STAT_STATE ≠ 0 →
    answers (.accLearn init idx auth) s fun t =>
      t.f ACC_LEARN_STAT_RESULT = 10 ∧ t.f ACC_FLAG_LEARN_FAIL = 1 ∧ t.f ACC_LEARN_STAT_STATE = s.f ACC_LEARN_STAT_STATE ∧
      t.acc = s.acc ∧ t.keys = s.keys ∧ t.f ACC_TOKEN_STAT_ENROL_USED = s.f ACC_TOKEN_STAT_ENROL_USED ∧
      ((s.f ACC_CFG3_OWNER ≠ 0 → t.offers.any (fun o => o.target = s.f ACC_CFG3_OWNER && o.cue.cls = 7 && o.cue.code = 0x06 && o.cue.index = 0x28 && o.cue.arg = 10) = true))) ∧
  (∀ (init : Byte) (idx : Fin 8) (auth : Fin 4) (s : State),
    s.fullPart = true →
    s.accMay init.toNat = true →
    s.f ACC_LEARN_STAT_STATE = 0 →
    32 ≤ s.f ACC_TOKEN_STAT_ENROL_USED →
    answers (.accLearn init idx auth) s fun t =>
      t.f ACC_LEARN_STAT_RESULT = 2 ∧ t.f ACC_FLAG_LEARN_FAIL = 1 ∧ t.f ACC_LEARN_STAT_STATE = 0 ∧
      t.keys = s.keys ∧ t.f ACC_TOKEN_STAT_ENROL_USED = s.f ACC_TOKEN_STAT_ENROL_USED) ∧
  (∀ (init : Byte) (idx : Fin 8) (auth : Fin 4) (s : State),
    s.fullPart = true →
    s.accMay init.toNat = true →
    s.f ACC_LEARN_STAT_STATE = 0 →
    s.f ACC_TOKEN_STAT_ENROL_USED < 32 →
    s.f (tokenRF idx) = 1 →
    answers (.accLearn init idx auth) s fun t =>
      t.f ACC_LEARN_STAT_RESULT = 3 ∧ t.f ACC_FLAG_LEARN_FAIL = 1 ∧ t.f ACC_LEARN_STAT_STATE = 0 ∧
      t.keys = s.keys ∧ t.f ACC_TOKEN_STAT_ENROL_USED = s.f ACC_TOKEN_STAT_ENROL_USED) ∧
  (∀ (init : Byte) (idx : Fin 8) (auth : Fin 4) (s : State),
    s.fullPart = true →
    s.accMay init.toNat = true →
    s.f ACC_LEARN_STAT_STATE = 0 →
    s.f ACC_TOKEN_STAT_ENROL_USED < 32 →
    s.f (tokenRF idx) ≠ 1 →
    (s.key (14 + idx)).kind = 0 →
    answers (.accLearn init idx auth) s fun t =>
      t.f ACC_LEARN_STAT_RESULT = 5 ∧ t.f ACC_FLAG_LEARN_FAIL = 1 ∧ t.f ACC_LEARN_STAT_STATE = 0 ∧
      t.keys = s.keys ∧ t.f ACC_TOKEN_STAT_ENROL_USED = s.f ACC_TOKEN_STAT_ENROL_USED) ∧
  (∀ (init : Byte) (idx : Fin 8) (auth : Fin 4) (s : State),
    s.fullPart = true →
    s.accMay init.toNat = true →
    s.f ACC_LEARN_STAT_STATE = 0 →
    s.f ACC_TOKEN_STAT_ENROL_USED < 32 →
    s.f (tokenRF idx) ≠ 1 →
    (s.key (14 + idx)).kind ≠ 0 →
    auth = 1 →
    (¬(s.recent = true ∧ s.acc.verTok ≠ idx)) →
    answers (.accLearn init idx auth) s fun t =>
      t.f ACC_LEARN_STAT_RESULT = 4 ∧ t.f ACC_FLAG_LEARN_FAIL = 1 ∧ t.f ACC_LEARN_STAT_STATE = 0 ∧
      t.keys = s.keys ∧ t.f ACC_TOKEN_STAT_ENROL_USED = s.f ACC_TOKEN_STAT_ENROL_USED) ∧
  (∀ (init : Byte) (idx : Fin 8) (auth : Fin 4) (s : State),
    s.fullPart = true →
    s.accMay init.toNat = true →
    s.f ACC_LEARN_STAT_STATE = 0 →
    s.f ACC_TOKEN_STAT_ENROL_USED < 32 →
    s.f (tokenRF idx) ≠ 1 →
    (s.key (14 + idx)).kind ≠ 0 →
    auth = 1 →
    (s.recent = true ∧ s.acc.verTok ≠ idx) →
    answers (.accLearn init idx auth) s fun t =>
      t.f ACC_LEARN_STAT_STATE = 2 ∧ t.acc = { s.acc with idx := idx.val, auth := 1, op := 1, prove := true } ∧
      t.keys = s.keys ∧ t.f ACC_TOKEN_STAT_ENROL_USED = s.f ACC_TOKEN_STAT_ENROL_USED ∧
      regsBut [ACC_LEARN_STAT] s t) ∧
  (∀ (init : Byte) (idx : Fin 8) (auth : Fin 4) (s : State),
    s.fullPart = true →
    s.accMay init.toNat = true →
    s.f ACC_LEARN_STAT_STATE = 0 →
    s.f ACC_TOKEN_STAT_ENROL_USED < 32 →
    s.f (tokenRF idx) ≠ 1 →
    (s.key (14 + idx)).kind ≠ 0 →
    auth = 2 →
    s.acc.lock = true →
    answers (.accLearn init idx auth) s fun t =>
      t.f ACC_LEARN_STAT_RESULT = 7 ∧ t.f ACC_FLAG_LEARN_FAIL = 1 ∧ t.f ACC_LEARN_STAT_STATE = 0 ∧
      t.keys = s.keys ∧ t.f ACC_TOKEN_STAT_ENROL_USED = s.f ACC_TOKEN_STAT_ENROL_USED) ∧
  (∀ (init : Byte) (idx : Fin 8) (auth : Fin 4) (s : State),
    s.fullPart = true →
    s.accMay init.toNat = true →
    s.f ACC_LEARN_STAT_STATE = 0 →
    s.f ACC_TOKEN_STAT_ENROL_USED < 32 →
    s.f (tokenRF idx) ≠ 1 →
    (s.key (14 + idx)).kind ≠ 0 →
    auth = 2 →
    s.acc.lock = false →
    s.on STR_RNG_STAT_HEALTHY = true →
    answers (.accLearn init idx auth) s fun t =>
      t.f ACC_LEARN_STAT_STATE = 1 ∧ t.acc = { s.acc with idx := idx.val, auth := 2, op := 1 } ∧
      ((∀ i : Fin 4, t.reg (ACC_LEARN_CHAL i) = BitVec.ofNat 32 (s.draw / 2 ^ (32 * i.val)))) ∧
      t.keys = s.keys ∧ t.f ACC_TOKEN_STAT_ENROL_USED = s.f ACC_TOKEN_STAT_ENROL_USED) ∧
  (∀ (init : Byte) (idx : Fin 8) (auth : Fin 4) (s : State),
    s.fullPart = true →
    s.accMay init.toNat = false →
    answers (.accRevoke init idx auth) s fun t =>
      t.f ACC_REFUSE_LAST_INIT = init.toNat ∧ t.f (ACC_REFUSE_COUNT) = min (s.f (ACC_REFUSE_COUNT) + 1) (2 ^ RF.w (ACC_REFUSE_COUNT) - 1) ∧
      regsBut [ACC_REFUSE] s t ∧ s.sameBut [.regs] t) ∧
  (∀ (init : Byte) (idx : Fin 8) (auth : Fin 4) (s : State),
    s.fullPart = true →
    s.accMay init.toNat = true →
    s.f ACC_LEARN_STAT_STATE ≠ 0 →
    answers (.accRevoke init idx auth) s fun t =>
      t.f ACC_LEARN_STAT_RESULT = 10 ∧ t.f ACC_FLAG_LEARN_FAIL = 1 ∧ t.f ACC_LEARN_STAT_STATE = s.f ACC_LEARN_STAT_STATE ∧
      t.acc = s.acc ∧ t.keys = s.keys ∧ t.f ACC_TOKEN_STAT_ENROL_USED = s.f ACC_TOKEN_STAT_ENROL_USED ∧
      ((s.f ACC_CFG3_OWNER ≠ 0 → t.offers.any (fun o => o.target = s.f ACC_CFG3_OWNER && o.cue.cls = 7 && o.cue.code = 0x06 && o.cue.index = 0x28 && o.cue.arg = 10) = true))) ∧
  (∀ (init : Byte) (idx : Fin 8) (auth : Fin 4) (s : State),
    s.fullPart = true →
    s.accMay init.toNat = true →
    s.f ACC_LEARN_STAT_STATE = 0 →
    auth = 1 →
    s.recent = false →
    answers (.accRevoke init idx auth) s fun t =>
      t.f ACC_LEARN_STAT_RESULT = 4 ∧ t.f ACC_FLAG_LEARN_FAIL = 1 ∧ t.f ACC_LEARN_STAT_STATE = 0 ∧
      t.keys = s.keys ∧ t.f ACC_TOKEN_STAT_ENROL_USED = s.f ACC_TOKEN_STAT_ENROL_USED) ∧
  (∀ (init : Byte) (idx : Fin 8) (auth : Fin 4) (s : State),
    s.fullPart = true →
    s.accMay init.toNat = true →
    s.f ACC_LEARN_STAT_STATE = 0 →
    auth = 1 →
    s.recent = true →
    s.acc.cur.isSome = true →
    answers (.accRevoke init idx auth) s fun t =>
      t.f ACC_LEARN_STAT_STATE = 3 ∧ t.acc.revoke = true ∧ t.acc.idx = idx.val ∧ t.acc.cur = s.acc.cur ∧
      t.keys = s.keys ∧ t.f ACC_TOKEN_STAT_ENROL_USED = s.f ACC_TOKEN_STAT_ENROL_USED) ∧
  (∀ (init : Byte) (idx : Fin 8) (auth : Fin 4) (s : State),
    s.fullPart = true →
    s.accMay init.toNat = true →
    s.f ACC_LEARN_STAT_STATE = 0 →
    auth = 1 →
    s.recent = true →
    s.acc.cur = none →
    answers (.accRevoke init idx auth) s fun t =>
      t.f ACC_LEARN_STAT_RESULT = 1 ∧ t.f ACC_LEARN_STAT_STATE = 0 ∧ t.f (tokenRF idx) = 2 ∧ t.key (6 + idx) = { ctr := (s.key (6 + idx)).ctr } ∧
      ((∀ k : Fin 64, k.val ≠ 6 + idx.val → t.key k = s.key k)) ∧
      ((s.on ACC_AUTH_STAT_ACTIVE = true ∧ s.f ACC_AUTH_STAT_TOKEN = idx) → t.f ACC_AUTH_STAT_ACTIVE = 0 ∧ t.f ACC_AUTH_STAT_WITHDRAWING = 1 ∧ t.acc.withdraw = 3 ∧ t.f ACC_FLAG_AUTH_END = 1) ∧
      (¬(s.on ACC_AUTH_STAT_ACTIVE = true ∧ s.f ACC_AUTH_STAT_TOKEN = idx) → t.f ACC_AUTH_STAT_ACTIVE = s.f ACC_AUTH_STAT_ACTIVE)) ∧
  (∀ (init : Byte) (idx : Fin 8) (auth : Fin 4) (s : State),
    s.fullPart = true →
    s.accMay init.toNat = true →
    s.f ACC_LEARN_STAT_STATE = 0 →
    auth = 2 →
    s.acc.lock = false →
    s.on STR_RNG_STAT_HEALTHY = true →
    answers (.accRevoke init idx auth) s fun t =>
      t.f ACC_LEARN_STAT_STATE = 1 ∧ t.acc = { s.acc with idx := idx.val, auth := 2, op := 2 } ∧
      ((∀ i : Fin 4, t.reg (ACC_LEARN_CHAL i) = BitVec.ofNat 32 (s.draw / 2 ^ (32 * i.val)))) ∧
      t.keys = s.keys ∧ t.f ACC_TOKEN_STAT_ENROL_USED = s.f ACC_TOKEN_STAT_ENROL_USED) ∧
  (∀ (init : Byte) (idx : Fin 8) (auth : Fin 4) (s : State),
    s.fullPart = true →
    s.accMay init.toNat = true →
    s.f ACC_LEARN_STAT_STATE = 0 →
    auth = 2 →
    s.acc.lock = true →
    answers (.accRevoke init idx auth) s fun t =>
      t.f ACC_LEARN_STAT_RESULT = 7 ∧ t.f ACC_FLAG_LEARN_FAIL = 1 ∧ t.f ACC_LEARN_STAT_STATE = 0 ∧
      t.keys = s.keys ∧ t.f ACC_TOKEN_STAT_ENROL_USED = s.f ACC_TOKEN_STAT_ENROL_USED) ∧
  (∀ (init : Byte) (w : Word) (s : State),
    s.fullPart = true →
    s.accMay init.toNat = true →
    s.f ACC_LEARN_STAT_STATE = 1 →
    bytesLE 4 (s.reg (ACC_LEARN_RESP 0)).toNat ++ bytesLE 4 w.toNat = s.dealerResp →
    s.acc.op = 1 →
    answers (.dealerResponse init w) s fun t =>
      t.f ACC_LEARN_STAT_STATE = 2 ∧ t.acc.prove = true ∧ t.f ACC_LEARN_STAT_FAILS = 0 ∧ t.acc.lockH = 0 ∧
      t.keys = s.keys ∧ t.f ACC_TOKEN_STAT_ENROL_USED = s.f ACC_TOKEN_STAT_ENROL_USED) ∧
  (∀ (init : Byte) (w : Word) (s : State),
    s.fullPart = true →
    s.accMay init.toNat = true →
    s.f ACC_LEARN_STAT_STATE = 1 →
    ¬(bytesLE 4 (s.reg (ACC_LEARN_RESP 0)).toNat ++ bytesLE 4 w.toNat = s.dealerResp) →
    s.acc.lockH = 0 →
    s.f ACC_LEARN_STAT_FAILS < 4 →
    answers (.dealerResponse init w) s fun t =>
      t.f ACC_LEARN_STAT_RESULT = 6 ∧ t.f ACC_FLAG_LEARN_FAIL = 1 ∧ t.f ACC_LEARN_STAT_STATE = 0 ∧ t.f ACC_LEARN_STAT_FAILS = s.f ACC_LEARN_STAT_FAILS + 1 ∧ t.acc.lock = s.acc.lock ∧
      t.keys = s.keys ∧ t.f ACC_TOKEN_STAT_ENROL_USED = s.f ACC_TOKEN_STAT_ENROL_USED) ∧
  (∀ (init : Byte) (w : Word) (s : State),
    s.fullPart = true →
    s.accMay init.toNat = true →
    s.f ACC_LEARN_STAT_STATE = 1 →
    ¬(bytesLE 4 (s.reg (ACC_LEARN_RESP 0)).toNat ++ bytesLE 4 w.toNat = s.dealerResp) →
    (s.acc.lockH ≠ 0 ∨ 4 ≤ s.f ACC_LEARN_STAT_FAILS) →
    s.acc.lockH ≤ 64 →
    answers (.dealerResponse init w) s fun t =>
      t.f ACC_LEARN_STAT_RESULT = 6 ∧ t.f ACC_FLAG_LEARN_FAIL = 1 ∧ t.f ACC_LEARN_STAT_STATE = 0 ∧ t.acc.lock = true ∧
      (t.acc.lockH = (if s.acc.lockH = 0 then 1 else min (2 * s.acc.lockH) 64) ∧ t.f ACC_TOKEN_STAT_LOCK_H = t.acc.lockH) ∧
      t.keys = s.keys) ∧
  (∀ (s : State),
    s.f ACC_LEARN_STAT_STATE = 1 →
    answers (.dealerTimeout) s fun t =>
      t.f ACC_LEARN_STAT_RESULT = 9 ∧ t.f ACC_FLAG_LEARN_FAIL = 1 ∧ t.f ACC_LEARN_STAT_STATE = 0 ∧
      ((s.f ACC_CFG3_OWNER ≠ 0 → t.offers.any (fun o => o.target = s.f ACC_CFG3_OWNER && o.cue.cls = 7 && o.cue.code = 0x06 && o.cue.index = 0x28 && o.cue.arg = 9) = true)) ∧
      t.keys = s.keys ∧ t.f ACC_TOKEN_STAT_ENROL_USED = s.f ACC_TOKEN_STAT_ENROL_USED) ∧
  (∀ (s : State),
    s.acc.lock = true →
    answers (.dealerLockExpire) s fun t =>
      t.acc.lock = false ∧ t.f ACC_TOKEN_STAT_LOCK_H = 0 ∧ t.acc.lockH = s.acc.lockH ∧
      s.sameBut [.regs, .acc] t) ∧
  (∀ (i : Fin 8) (s : State),
    s.f ACC_LEARN_STAT_STATE = 3 →
    s.acc.op = 1 →
    s.acc.idx = i.val →
    answers (.learnCommitDone) s fun t =>
      t.f ACC_LEARN_STAT_RESULT = 1 ∧ t.f ACC_LEARN_STAT_STATE = 0 ∧ t.f (tokenRF i) = 1 ∧
      (t.key (6 + i)).bytes = (s.key (14 + i)).bytes ∧ (t.key (14 + i)).kind = 0 ∧ (t.key (14 + i)).bytes = [] ∧
      t.f (ACC_TOKEN_STAT_ENROL_USED) = min (s.f (ACC_TOKEN_STAT_ENROL_USED) + 1) (2 ^ RF.w (ACC_TOKEN_STAT_ENROL_USED) - 1) ∧
      ((∀ k : Fin 64, k.val ≠ 6 + i.val → k.val ≠ 14 + i.val → t.key k = s.key k))) ∧
  (∀ (init : Byte) (s : State),
    s.fullPart = true →
    s.accMay init.toNat = true →
    s.recent = true →
    s.acc.verTok < 8 →
    answers (.accGrant init) s fun t =>
      t.f ACC_AUTH_STAT_ACTIVE = 1 ∧ t.f ACC_AUTH_STAT_WITHDRAWING = 0 ∧ t.f ACC_AUTH_STAT_TOKEN = s.acc.verTok ∧ t.f ACC_AUTH_STAT_LEFT = (10 * s.f ACC_AUTH_CFG_AUTH_T) % 2 ^ ACC_AUTH_STAT_LEFT.w ∧ t.acc.leftAt = s.now ∧ t.acc.withdraw = 0 ∧ t.acc.stopped = false ∧
      ((s.f ACC_CFG3_OWNER ≠ 0 → t.offers.any (fun o => o.target = s.f ACC_CFG3_OWNER && o.cue.cls = 7 && o.cue.code = 0x07 && o.cue.index = 0x28 && o.cue.arg = 0) = true))) ∧
  (∀ (init : Byte) (s : State),
    s.fullPart = true →
    s.accMay init.toNat = true →
    s.recent = false →
    answers (.accGrant init) s fun t =>
      t.acc = s.acc ∧ t.offers = s.offers ∧ regsBut stampRegs s t ∧ s.sameBut [.regs, .islands] t) ∧
  (∀ (init : Byte) (s : State),
    s.fullPart = true →
    s.accMay init.toNat = true →
    s.on ACC_AUTH_STAT_ACTIVE = true →
    answers (.accAuthEnd init) s fun t =>
      t.f ACC_AUTH_STAT_ACTIVE = 0 ∧ t.f ACC_AUTH_STAT_WITHDRAWING = 1 ∧ t.f ACC_AUTH_STAT_LEFT = 0 ∧ t.acc = { s.acc with withdraw := 3 } ∧ t.f ACC_FLAG_AUTH_END = 1 ∧
      ((s.f ACC_CFG3_OWNER ≠ 0 → t.offers.any (fun o => o.target = s.f ACC_CFG3_OWNER && o.cue.cls = 7 && o.cue.code = 0x07 && o.cue.index = 0x28 && o.cue.arg = 1) = true))) ∧
  (∀ (s : State),
    s.on ACC_AUTH_STAT_ACTIVE = true →
    answers (.authExpire) s fun t =>
      t.f ACC_AUTH_STAT_ACTIVE = 0 ∧ t.f ACC_AUTH_STAT_WITHDRAWING = 1 ∧ t.f ACC_AUTH_STAT_LEFT = 0 ∧ t.acc = { s.acc with withdraw := 3 } ∧ t.f ACC_FLAG_AUTH_END = 1 ∧
      ((s.f ACC_CFG3_OWNER ≠ 0 → t.offers.any (fun o => o.target = s.f ACC_CFG3_OWNER && o.cue.cls = 7 && o.cue.code = 0x07 && o.cue.index = 0x28 && o.cue.arg = 1) = true))) ∧
  (∀ (s : State),
    s.fullPart = true →
    s.acc.ctr < 0xFFFFFFFE →
    ((s.key 23).kind ≠ 0 ∧ (s.key 24).kind ≠ 0) →
    s.on ACC_AUTH_STAT_ACTIVE = true →
    s.boot.phase = .run →
    s.measures = true →
    answers (.releaseMessage) s fun t =>
      t.gw.inq.map (fun g => (g.port, g.id, g.data)) = s.gw.inq.map (fun g => (g.port, g.id, g.data)) ++
      [(19, s.f ACC_REL_ID_REL_ID, s.releasePayload (bytesBE 4 (s.acc.ctr + 1) ++ [0x5A, BitVec.ofNat 8 (s.f ACC_AUTH_STAT_TOKEN)] ++ bytesBE 2 s.authLeft ++ bytesBE 8 s.now))] ∧
      t.acc.ctr = s.acc.ctr + 1 ∧ t.f ACC_REL_CTR_CTR = s.acc.ctr + 1 ∧ t.acc.withdraw = s.acc.withdraw ∧
      ((s.acc.ctr < s.acc.block → t.acc.block = s.acc.block) ∧ (s.acc.block ≤ s.acc.ctr → t.acc.block = s.acc.block + 4096))) ∧
  (∀ (s : State),
    s.fullPart = true →
    s.acc.ctr < 0xFFFFFFFE →
    ((s.key 23).kind ≠ 0 ∧ (s.key 24).kind ≠ 0) →
    s.on ACC_AUTH_STAT_ACTIVE = false →
    0 < s.acc.withdraw →
    s.boot.phase = .run →
    s.measures = true →
    answers (.releaseMessage) s fun t =>
      t.gw.inq.map (fun g => (g.port, g.id, g.data)) = s.gw.inq.map (fun g => (g.port, g.id, g.data)) ++
      [(19, s.f ACC_REL_ID_REL_ID, s.releasePayload (bytesBE 4 (s.acc.ctr + 1) ++ [0xA5, BitVec.ofNat 8 (s.f ACC_AUTH_STAT_TOKEN)] ++ bytesBE 2 0 ++ bytesBE 8 s.now))] ∧
      t.acc.ctr = s.acc.ctr + 1 ∧ t.acc.withdraw = s.acc.withdraw - 1 ∧
      (t.f ACC_AUTH_STAT_WITHDRAWING = (if s.acc.withdraw = 1 then 0 else 1))) ∧
  (∀ (s : State),
    s.on STR_HB_STAT_CC_ARMED = true →
    s.on STR_HB_STAT_CC_MISSING = false →
    s.f PWR_STATE_STATE < 2 →
    answers (.ccHeartbeatMiss) s fun t =>
      t.f STR_HB_STAT_CC_MISSING = 1 ∧ t.f STR_FLAG_CC_MISSING = 1 ∧
      ((s.f STR_CFG_CC_ACT = 2 ∧ s.on ACC_AUTH_STAT_ACTIVE = true) → t.f ACC_AUTH_STAT_ACTIVE = 0 ∧ t.acc.withdraw = 3) ∧
      (s.f STR_CFG_CC_ACT ≠ 2 → t.f ACC_AUTH_STAT_ACTIVE = s.f ACC_AUTH_STAT_ACTIVE ∧ t.acc = s.acc) ∧
      (s.f STR_CFG_CC_ACT = 0 → t.links = s.links) ∧
      ((∀ k : Fin 8, s.on (ZRT_SES_CFG_HB k) = true → t.offers.any (fun o => o.target = 0x40 + k.val && o.cue.code = 0x13) = true)))

/-- The isolation barrier, its field side, the adoption of IX, ISO_OUT and the faults of the isolated I/O. Frames are the
64-bit words of R455; an operand names the bits that the barrier corrupts. Each side puts its frame on the barrier:
the field side its levels, generation, SAFE_ACTIVE and FAULT; the logic side its pending CONFIG, else DATA while it
accepts keep-alives, which carries SAFE while FORCE_SAFE is 1 (R455, R458, R463, R464). The field side applies an
accepted DATA frame once configured and stores an accepted CONFIG, and discards the rest: power, a right CRC and, of
DATA, the complement, and SEQ 1 to 4 above the last (R456). TIMEOUT applies SAFE (R457). A field frame with
SAFE_ACTIVE replaces the copy (R458); CFG_GEN as sent ends the configuration, CFG_GEN 0 after it clears ISO_OUT and
configures again with FIELD_RESTART (R459, R460); a level held for FILT shows in ISO_IN (R462). Adoption reads the
copy back into ISO_OUT and configures with the next GEN, 0 skipped (R459). ISO_OUT takes writes of OWNER, granted
sessions and the Strongroom and refuses others (R463). A silent field reads 0 with FAULT (R464). Thermal shutdown,
BB_SUPPLY loss and return act as R453 and R457 say. Says that these complete: barrierFrameSend, barrierDataFrame,
barrierConfigFrame, barrierFieldFrame, fieldSafeTimeout, isoKeepaliveLoss, isoAdopt, isoOutWrite, isoForceSafe,
isoFieldSilent, boThermalShutdown, boThermalRestart, bbSupplyLoss, bbSupplyRestore. -/
def Obligations.IsolatedOutputsAndInputs : Prop :=
  (∀ (levels limit : BitVec 16) (s : State),
    s.fullPart = true →
    answers (.barrierFrameSend true levels limit) s fun t =>
      (t.iso = { s.iso with fSeq := (s.iso.fSeq + 1) % 16, toLogic := some (isoField s.iso.fSeq levels.toNat (if s.iso.configured then s.iso.fGen else 0) s.iso.safeActive (limit != 0 || s.iso.thermal != 0 || !s.iso.power)) }) ∧
      s.sameBut [.iso] t ∧
      t.iso.toLogic.all (fun w => decide (w.toNat / 2 ^ 62 = 2 ∧ w.toNat / 2 ^ 58 % 16 = s.iso.fSeq % 16 ∧ w.toNat / 2 ^ 32 % 2 ^ 16 = levels.toNat ∧ bitOf (w.toNat / 2 ^ 16) 1 = s.iso.safeActive)) = true) ∧
  (∀ (levels limit : BitVec 16) (s : State),
    s.fullPart = true →
    s.iso.cfgPend = true →
    answers (.barrierFrameSend false levels limit) s fun t =>
      t.iso = { s.iso with seq := (s.iso.seq + 1) % 16, toField := some (isoConfig s.iso.seq s.iso.cSafe s.iso.gen s.iso.cTimeout) } ∧
      s.sameBut [.iso] t) ∧
  (∀ (levels limit : BitVec 16) (s : State),
    s.fullPart = true →
    s.iso.cfgPend = false →
    s.iso.ka = true →
    answers (.barrierFrameSend false levels limit) s fun t =>
      (t.iso = { s.iso with seq := (s.iso.seq + 1) % 16, toField := some (isoData s.iso.seq (if s.on ISO_CTL_FORCE_SAFE then s.iso.cSafe else s.iso.copy)) }) ∧
      s.sameBut [.iso] t ∧
      t.iso.toField.all (fun w => decide (w.toNat / 2 ^ 62 = 0 ∧ w.toNat / 2 ^ 58 % 16 = s.iso.seq % 16 ∧ w.toNat / 2 ^ 16 % 2 ^ 16 = 0xFFFF - w.toNat / 2 ^ 32 % 2 ^ 16)) = true) ∧
  (∀ (levels limit : BitVec 16) (s : State),
    s.fullPart = true →
    s.iso.cfgPend = false →
    s.iso.ka = false →
    answers (.barrierFrameSend false levels limit) s fun t =>
      t = s) ∧
  (∀ (f err : BitVec 64) (s : State),
    s.iso.toField = some f →
    isoKind f = 0 →
    (s.iso.power = true ∧ s.iso.configured = true) →
    (isoKind (f ^^^ err) = 0 ∧ isoCrcOk (f ^^^ err) = true) →
    (1 ≤ (isoSeq (f ^^^ err) + 16 - s.iso.last) % 16 ∧ (isoSeq (f ^^^ err) + 16 - s.iso.last) % 16 ≤ 4) →
    isoLo (f ^^^ err) = 0xFFFF - isoHi (f ^^^ err) →
    answers (.barrierDataFrame err) s fun t =>
      t.iso = { s.iso with toField := none, last := isoSeq (f ^^^ err), out := isoHi (f ^^^ err), safeActive := false } ∧
      s.sameBut [.iso] t) ∧
  (∀ (f err : BitVec 64) (s : State),
    s.iso.toField = some f →
    isoKind f = 0 →
    (¬((s.iso.power = true ∧ s.iso.configured = true) ∧ (isoKind (f ^^^ err) = 0 ∧ isoCrcOk (f ^^^ err) = true) ∧ (1 ≤ (isoSeq (f ^^^ err) + 16 - s.iso.last) % 16 ∧ (isoSeq (f ^^^ err) + 16 - s.iso.last) % 16 ≤ 4) ∧ isoLo (f ^^^ err) = 0xFFFF - isoHi (f ^^^ err))) →
    answers (.barrierDataFrame err) s fun t =>
      t.iso = { s.iso with toField := none } ∧
      s.sameBut [.iso] t) ∧
  (∀ (f err : BitVec 64) (s : State),
    s.iso.toField = some f →
    isoKind f = 1 →
    s.iso.power = true →
    (isoKind (f ^^^ err) = 1 ∧ isoCrcOk (f ^^^ err) = true) →
    (1 ≤ (isoSeq (f ^^^ err) + 16 - s.iso.last) % 16 ∧ (isoSeq (f ^^^ err) + 16 - s.iso.last) % 16 ≤ 4) →
    answers (.barrierConfigFrame err) s fun t =>
      t.iso = { s.iso with toField := none, last := isoSeq (f ^^^ err), configured := true, safe := isoHi (f ^^^ err), timeout := isoLo (f ^^^ err) % 0x100, fGen := isoLo (f ^^^ err) / 0x100 % 0x10 } ∧
      s.sameBut [.iso] t) ∧
  (∀ (f err : BitVec 64) (s : State),
    s.iso.toField = some f →
    isoKind f = 1 →
    (¬(s.iso.power = true ∧ (isoKind (f ^^^ err) = 1 ∧ isoCrcOk (f ^^^ err) = true) ∧ (1 ≤ (isoSeq (f ^^^ err) + 16 - s.iso.last) % 16 ∧ (isoSeq (f ^^^ err) + 16 - s.iso.last) % 16 ≤ 4))) →
    answers (.barrierConfigFrame err) s fun t =>
      t.iso = { s.iso with toField := none } ∧
      s.sameBut [.iso] t) ∧
  (∀ (f err : BitVec 64) (s : State),
    s.iso.toLogic = some f →
    (isoCrcOk (f ^^^ err) = false ∨ isoKind (f ^^^ err) ≠ 2) →
    answers (.barrierFieldFrame err) s fun t =>
      t.iso = { s.iso with toLogic := none } ∧
      s.sameBut [.iso] t) ∧
  (∀ (f err : BitVec 64) (s : State),
    s.iso.toLogic = some f →
    (isoCrcOk (f ^^^ err) = true ∧ isoKind (f ^^^ err) = 2) →
    s.isoState = 0 →
    answers (.barrierFieldFrame err) s fun t =>
      (t.iso = { s.iso with toLogic := none, silent := false, copy := if isoSafeActive (f ^^^ err) then s.iso.cSafe else s.iso.copy }) ∧
      s.sameBut [.iso] t) ∧
  (∀ (f err : BitVec 64) (s : State),
    s.iso.toLogic = some f →
    (isoCrcOk (f ^^^ err) = true ∧ isoKind (f ^^^ err) = 2) →
    s.isoState ≠ 0 →
    s.iso.cfgPend = true →
    isoGen (f ^^^ err) = s.iso.gen →
    answers (.barrierFieldFrame err) s fun t =>
      t.isoState = 2 ∧ t.iso.cfgPend = false ∧ t.iso.counted = true ∧ t.iso.adopting = false ∧ t.iso.silent = false ∧
      (t.iso.copy = (if isoSafeActive (f ^^^ err) then s.iso.cSafe else s.iso.copy) ∧ t.f ISO_OUT_OUT = s.f ISO_OUT_OUT) ∧
      t.f ISO_STAT_CFG_GEN = isoGen (f ^^^ err) ∧ t.f ISO_STAT_SAFE_ACTIVE = b2n (isoSafeActive (f ^^^ err)) ∧ t.f ISO_STAT_FAULT = b2n (bitOf (isoLo (f ^^^ err)) 0) ∧
      (s.iso.adopting = true → (s.f ISO_ACCESS_OWNER ≠ 0 → t.offers.any (fun o => o.target = s.f ISO_ACCESS_OWNER && o.cue.cls = 7 && o.cue.code = 0x03 && o.cue.index = 0x29) = true))) ∧
  (∀ (f err : BitVec 64) (s : State),
    s.iso.toLogic = some f →
    (isoCrcOk (f ^^^ err) = true ∧ isoKind (f ^^^ err) = 2) →
    s.isoState ≠ 0 →
    s.iso.cfgPend = false →
    s.iso.counted = true →
    isoGen (f ^^^ err) = 0 →
    answers (.barrierFieldFrame err) s fun t =>
      t.isoState = 1 ∧ t.f ISO_OUT_OUT = 0 ∧ t.iso.copy = 0 ∧ t.iso.cfgPend = true ∧ t.iso.counted = false ∧
      (t.iso.gen = (if s.iso.gen < 15 then s.iso.gen + 1 else 1) ∧ t.iso.cSafe = s.f ISO_CFG_SAFE ∧ t.iso.cTimeout = s.f ISO_CFG_TIMEOUT) ∧
      ((s.f ISO_ACCESS_OWNER ≠ 0 → t.offers.any (fun o => o.target = s.f ISO_ACCESS_OWNER && o.cue.cls = 7 && o.cue.code = 0x04 && o.cue.index = 0x29) = true))) ∧
  (∀ (f err : BitVec 64) (j : Fin 16) (s : State),
    s.iso.toLogic = some f →
    (isoCrcOk (f ^^^ err) = true ∧ isoKind (f ^^^ err) = 2) →
    s.isoState ≠ 0 →
    10 * s.f ISO_IN_CFG_FILT ≤ (s.isoRun j).run →
    ((s.isoRun j).run ≠ 0 ∧ (s.isoRun j).lvl = bitOf (isoHi (f ^^^ err)) j) →
    answers (.barrierFieldFrame err) s fun t =>
      t.on ⟨ISO_IN, j, 1⟩ = bitOf (isoHi (f ^^^ err)) j ∧
      ((bitOf (s.f ISO_IN_CFG_CUE_MASK) j = true ∧ s.on ⟨ISO_IN, j, 1⟩ ≠ bitOf (isoHi (f ^^^ err)) j ∧ cueSelects (s.f ISO_IN_CFG_CUE) (bitOf (isoHi (f ^^^ err)) j) = true) → (s.f ISO_ACCESS_OWNER ≠ 0 → t.offers.any (fun o => o.target = s.f ISO_ACCESS_OWNER && o.cue.cls = 7 && o.cue.code = 0x01 && o.cue.index = 0x29) = true))) ∧
  (∀ (s : State),
    s.iso.power = true →
    s.iso.configured = true →
    answers (.fieldSafeTimeout) s fun t =>
      t.iso = { s.iso with out := s.iso.safe, safeActive := true } ∧
      s.sameBut [.iso] t) ∧
  (∀ (s : State),
    (s.iso.power = false ∨ s.iso.configured = false) →
    answers (.fieldSafeTimeout) s fun t =>
      t = s) ∧
  (∀ (s : State),
    answers (.isoKeepaliveLoss) s fun t =>
      t.iso = { s.iso with ka := false } ∧
      s.sameBut [.iso] t) ∧
  (∀ (s : State),
    s.fullPart = true →
    s.isoState = 0 →
    s.boot.phase = .run →
    answers (.isoAdopt) s fun t =>
      t.isoState = 1 ∧ t.f ISO_OUT_OUT = s.iso.copy % 0x10000 ∧ t.iso.copy = s.iso.copy ∧
      (t.iso.cfgPend = true ∧ t.iso.adopting = true ∧ t.iso.gen = (if s.iso.gen < 15 then s.iso.gen + 1 else 1)) ∧
      t.iso.cSafe = s.f ISO_CFG_SAFE ∧ t.iso.cTimeout = s.f ISO_CFG_TIMEOUT ∧
      (t.lnk 14).adopted = true ∧ (t.die 14).st = .adopted ∧ (t.die 14).epoch = (t.lnk 14).epoch ∧
      t.iso.out = s.iso.out ∧ t.iso.toField = s.iso.toField) ∧
  (∀ (init : Byte) (v : BitVec 16) (s : State),
    s.fullPart = true →
    (isStr init.toNat || (((init.toNat ≠ 0 && s.f ISO_ACCESS_OWNER = init.toNat) || (isSession init.toNat && bitOf (s.f ISO_ACCESS_ZRT_GRANT) (init.toNat - 0x40))) && !s.on ISO_CTL_FORCE_SAFE && s.isoState ≠ 0)) = true →
    answers (.isoOutWrite init v) s fun t =>
      t.f ISO_OUT_OUT = v.toNat ∧ regsBut [ISO_OUT] s t ∧
      (t.iso = if s.isoState = 0 then s.iso else { s.iso with copy := v.toNat }) ∧
      s.sameBut [.regs, .iso] t) ∧
  (∀ (init : Byte) (v : BitVec 16) (s : State),
    s.fullPart = true →
    (isStr init.toNat || (((init.toNat ≠ 0 && s.f ISO_ACCESS_OWNER = init.toNat) || (isSession init.toNat && bitOf (s.f ISO_ACCESS_ZRT_GRANT) (init.toNat - 0x40))) && !s.on ISO_CTL_FORCE_SAFE && s.isoState ≠ 0)) = false →
    answers (.isoOutWrite init v) s fun t =>
      t.f ISO_REFUSE_LAST_INIT = init.toNat ∧ t.f (ISO_REFUSE_COUNT) = min (s.f (ISO_REFUSE_COUNT) + 1) (2 ^ RF.w (ISO_REFUSE_COUNT) - 1) ∧
      regsBut [ISO_REFUSE] s t ∧ s.sameBut [.regs] t) ∧
  (∀ (init : Byte) (v : Bool) (s : State),
    s.fullPart = true →
    isStr init.toNat = true →
    answers (.isoForceSafe init v) s fun t =>
      t.f ISO_CTL_FORCE_SAFE = b2n v ∧
      regsBut [ISO_CTL] s t ∧ s.sameBut [.regs] t) ∧
  (∀ (s : State),
    s.fullPart = true →
    s.isoState ≠ 0 →
    answers (.isoFieldSilent) s fun t =>
      t.iso = { s.iso with silent := true } ∧ t.f ISO_IN_IN = 0 ∧ t.f ISO_STAT_FAULT = 1 ∧
      (s.on ISO_STAT_FAULT = false → t.f ISO_FLAG_ISO_FAULT = 1 ∧ (s.f ISO_ACCESS_OWNER ≠ 0 → t.offers.any (fun o => o.target = s.f ISO_ACCESS_OWNER && o.cue.cls = 7 && o.cue.code = 0x02 && o.cue.index = 0x29) = true)) ∧
      (s.on ISO_STAT_FAULT = true → t.f ISO_FLAG_ISO_FAULT = s.f ISO_FLAG_ISO_FAULT ∧ t.offers = s.offers)) ∧
  (∀ (s : State),
    s.fullPart = true →
    s.isoState = 0 →
    answers (.isoFieldSilent) s fun t =>
      t.iso = { s.iso with silent := true } ∧ t.regs = s.regs) ∧
  (∀ (j : Fin 16) (s : State),
    s.iso.power = true →
    bitOf s.iso.thermal j = false →
    s.iso.thermal < 0x10000 →
    s.fullPart = true →
    answers (.boThermalShutdown j) s fun t =>
      t.iso = { s.iso with thermal := s.iso.thermal + 2 ^ j.val } ∧ bitOf t.iso.thermal j = true ∧ t.boDriven j = false ∧
      ((∀ k : Fin 16, k ≠ j → t.boDriven k = s.boDriven k)) ∧
      s.sameBut [.iso] t) ∧
  (∀ (j : Fin 16) (s : State),
    bitOf s.iso.thermal j = true →
    s.iso.thermal < 0x10000 →
    answers (.boThermalRestart j) s fun t =>
      t.iso = { s.iso with thermal := s.iso.thermal - 2 ^ j.val } ∧ t.boDriven j = (s.iso.power && bitOf s.iso.out j) ∧
      ((∀ k : Fin 16, k ≠ j → t.boDriven k = s.boDriven k)) ∧
      s.sameBut [.iso] t) ∧
  (∀ (s : State),
    s.fullPart = true →
    answers (.bbSupplyLoss) s fun t =>
      t.iso = { s.iso with power := false, configured := false, out := 0, fGen := 0, safeActive := false, thermal := 0 } ∧
      ((∀ j : Fin 16, t.boDriven j = false)) ∧
      s.sameBut [.iso] t) ∧
  (∀ (s : State),
    s.fullPart = true →
    s.iso.power = false →
    answers (.bbSupplyRestore) s fun t =>
      t.iso = { s.iso with power := true, configured := false, out := 0, fGen := 0, safeActive := false, thermal := 0, last := 0 } ∧
      ((∀ j : Fin 16, t.boDriven j = false)) ∧
      s.sameBut [.iso] t)

/-- STORE requests, their execution through the journal, and the copy to the home area. A request of 16 bytes whose
result slot is not FILLING queues, and its slot is FILLING (R498); a write of another length is counted as refused
and changes nothing else; with 8 STOREs queued the request completes with BUSY. The STORE at the head executes: an
undeclared key gives BAD_KEY, a writer not named or granted NOT_GRANTED, a LEN that does not fit BAD_LENGTH, a SRC
outside the ranges RANGE, a failed verify VERIFY_FAIL with STORE_FAIL set, and in each of these the content of every
record is unchanged (R498, R500). Else the bytes read at SRC stand in the record at OFFSET, every other record is
unchanged, STORES counts and the result is OK with the KEY (R499). The order of the checks is the model's (log entry
41). A journal copy leaves the content of every record the same and takes the oldest entry out (R499). Says that
these complete: storeRequest, storeExecute, journalCopy. -/
def Obligations.SettingsStore : Prop :=
  (∀ (init : Byte) (b : List Byte) (s : State),
    b.length = 16 →
    s.f ⟨NVM_SLOT_ST ({ init := init.toNat, bytes := b } : StoreReq).res, 16, 2⟩ ≠ 1 →
    s.nvm.queue.length < 8 →
    answers (.storeRequest init b) s fun t =>
      t.nvm = { s.nvm with queue := s.nvm.queue ++ [({ init := init.toNat, bytes := b } : StoreReq)] } ∧
      t.f ⟨NVM_SLOT_ST ({ init := init.toNat, bytes := b } : StoreReq).res, 16, 2⟩ = 1 ∧ t.f NVM_STAT_QUEUED = s.nvm.queue.length + 1 ∧
      s.sameBut [.regs, .nvm] t) ∧
  (∀ (init : Byte) (b : List Byte) (s : State),
    (1 ≤ b.length ∧ b.length ≤ 64) →
    b.length ≠ 16 →
    answers (.storeRequest init b) s fun t =>
      t.f (NVM_CNT_REFUSED) = min (s.f (NVM_CNT_REFUSED) + 1) (2 ^ RF.w (NVM_CNT_REFUSED) - 1) ∧
      regsBut [NVM_CNT] s t ∧ s.sameBut [.regs] t) ∧
  (∀ (init : Byte) (b : List Byte) (s : State),
    b.length = 16 →
    s.f ⟨NVM_SLOT_ST ({ init := init.toNat, bytes := b } : StoreReq).res, 16, 2⟩ ≠ 1 →
    8 ≤ s.nvm.queue.length →
    answers (.storeRequest init b) s fun t =>
      t.f ⟨NVM_SLOT_ST ({ init := init.toNat, bytes := b } : StoreReq).res, 16, 2⟩ = 2 ∧ t.reg (NVM_SLOT_VAL ({ init := init.toNat, bytes := b } : StoreReq).res) = BitVec.ofNat 32 (5 + ({ init := init.toNat, bytes := b } : StoreReq).key * 0x10000) ∧ t.f ⟨NVM_SLOT_ST ({ init := init.toNat, bytes := b } : StoreReq).res, 0, 16⟩ = (s.f ⟨NVM_SLOT_ST ({ init := init.toNat, bytes := b } : StoreReq).res, 0, 16⟩ + 1) % 0x10000 ∧
      (({ init := init.toNat, bytes := b } : StoreReq).cue = true → 1 ≤ ({ init := init.toNat, bytes := b } : StoreReq).init → t.offers.any (fun o => o.target = ({ init := init.toNat, bytes := b } : StoreReq).init && o.cue.cls = 8 && o.cue.code = ({ init := init.toNat, bytes := b } : StoreReq).res && o.cue.index = 0x2B && o.cue.data = 5 + ({ init := init.toNat, bytes := b } : StoreReq).key * 0x10000) = true) ∧
      t.nvm = s.nvm) ∧
  (∀ (r : StoreReq) (l : List StoreReq) (s : State),
    s.nvm.queue = r :: l →
    (s.nvm.recs.find? (fun x => x.key = r.key) = none) →
    answers (.storeExecute true) s fun t =>
      t.f ⟨NVM_SLOT_ST r.res, 16, 2⟩ = 2 ∧ t.reg (NVM_SLOT_VAL r.res) = BitVec.ofNat 32 (2 + r.key * 0x10000) ∧ t.f ⟨NVM_SLOT_ST r.res, 0, 16⟩ = (s.f ⟨NVM_SLOT_ST r.res, 0, 16⟩ + 1) % 0x10000 ∧
      ((∀ x ∈ t.nvm.recs, t.recContent x = s.recContent x) ∧ t.nvm.recs = s.nvm.recs ∧ t.nvm.queue = l)) ∧
  (∀ (r : StoreReq) (l : List StoreReq) (x : NvmRec) (s : State),
    s.nvm.queue = r :: l →
    (s.nvm.recs.find? (fun x => x.key = r.key) = some x) →
    x.may r.init = false →
    answers (.storeExecute true) s fun t =>
      t.f ⟨NVM_SLOT_ST r.res, 16, 2⟩ = 2 ∧ t.reg (NVM_SLOT_VAL r.res) = BitVec.ofNat 32 (1 + r.key * 0x10000) ∧ t.f ⟨NVM_SLOT_ST r.res, 0, 16⟩ = (s.f ⟨NVM_SLOT_ST r.res, 0, 16⟩ + 1) % 0x10000 ∧
      ((∀ x ∈ t.nvm.recs, t.recContent x = s.recContent x) ∧ t.nvm.recs = s.nvm.recs ∧ t.nvm.queue = l)) ∧
  (∀ (r : StoreReq) (l : List StoreReq) (x : NvmRec) (s : State),
    s.nvm.queue = r :: l →
    (s.nvm.recs.find? (fun x => x.key = r.key) = some x) →
    x.may r.init = true →
    (r.len = 0 ∨ 256 < r.len ∨ x.len < r.off + r.len) →
    answers (.storeExecute true) s fun t =>
      t.f ⟨NVM_SLOT_ST r.res, 16, 2⟩ = 2 ∧ t.reg (NVM_SLOT_VAL r.res) = BitVec.ofNat 32 (3 + r.key * 0x10000) ∧ t.f ⟨NVM_SLOT_ST r.res, 0, 16⟩ = (s.f ⟨NVM_SLOT_ST r.res, 0, 16⟩ + 1) % 0x10000 ∧
      ((∀ x ∈ t.nvm.recs, t.recContent x = s.recContent x) ∧ t.nvm.recs = s.nvm.recs ∧ t.nvm.queue = l)) ∧
  (∀ (r : StoreReq) (l : List StoreReq) (x : NvmRec) (s : State),
    s.nvm.queue = r :: l →
    (s.nvm.recs.find? (fun x => x.key = r.key) = some x) →
    x.may r.init = true →
    (1 ≤ r.len ∧ r.len ≤ 256 ∧ r.off + r.len ≤ x.len) →
    s.storeSrcOk r.src r.len = false →
    answers (.storeExecute true) s fun t =>
      t.f ⟨NVM_SLOT_ST r.res, 16, 2⟩ = 2 ∧ t.reg (NVM_SLOT_VAL r.res) = BitVec.ofNat 32 (4 + r.key * 0x10000) ∧ t.f ⟨NVM_SLOT_ST r.res, 0, 16⟩ = (s.f ⟨NVM_SLOT_ST r.res, 0, 16⟩ + 1) % 0x10000 ∧
      ((∀ x ∈ t.nvm.recs, t.recContent x = s.recContent x) ∧ t.nvm.recs = s.nvm.recs ∧ t.nvm.queue = l)) ∧
  (∀ (r : StoreReq) (l : List StoreReq) (x : NvmRec) (s : State),
    s.nvm.queue = r :: l →
    (s.nvm.recs.find? (fun x => x.key = r.key) = some x) →
    x.may r.init = true →
    (1 ≤ r.len ∧ r.len ≤ 256 ∧ r.off + r.len ≤ x.len) →
    s.storeSrcOk r.src r.len = true →
    s.journalUsed + r.len + 32 ≤ 0x80000 →
    answers (.storeExecute false) s fun t =>
      t.f ⟨NVM_SLOT_ST r.res, 16, 2⟩ = 2 ∧ t.reg (NVM_SLOT_VAL r.res) = BitVec.ofNat 32 (6 + r.key * 0x10000) ∧ t.f ⟨NVM_SLOT_ST r.res, 0, 16⟩ = (s.f ⟨NVM_SLOT_ST r.res, 0, 16⟩ + 1) % 0x10000 ∧
      ((∀ x ∈ t.nvm.recs, t.recContent x = s.recContent x) ∧ t.nvm.recs = s.nvm.recs ∧ t.nvm.queue = l) ∧
      t.f NVM_FLAG_STORE_FAIL = 1) ∧
  (∀ (r : StoreReq) (l : List StoreReq) (x : NvmRec) (s : State),
    s.nvm.queue = r :: l →
    (s.nvm.recs.find? (fun x => x.key = r.key) = some x) →
    x.may r.init = true →
    (1 ≤ r.len ∧ r.len ≤ 256 ∧ r.off + r.len ≤ x.len) →
    s.storeSrcOk r.src r.len = true →
    s.journalUsed + r.len + 32 ≤ 0x80000 →
    (s.recContent x).length = x.len →
    inStoreRange r.src r.len = true →
    answers (.storeExecute true) s fun t =>
      t.f ⟨NVM_SLOT_ST r.res, 16, 2⟩ = 2 ∧ t.reg (NVM_SLOT_VAL r.res) = BitVec.ofNat 32 (0 + r.key * 0x10000) ∧ t.f ⟨NVM_SLOT_ST r.res, 0, 16⟩ = (s.f ⟨NVM_SLOT_ST r.res, 0, 16⟩ + 1) % 0x10000 ∧
      t.recContent x = (s.recContent x).take r.off ++ s.rdBytes r.src r.len ++ (s.recContent x).drop (r.off + r.len) ∧
      ((∀ y ∈ s.nvm.recs, (y.key ≠ x.key ∨ y.len ≠ x.len) → t.recContent y = s.recContent y)) ∧
      t.nvm.recs = s.nvm.recs ∧ t.nvm.queue = l ∧ t.f NVM_CNT_STORES = (s.f NVM_CNT_STORES + 1) % 2 ^ NVM_CNT_STORES.w) ∧
  (∀ (e : JEntry) (l : List JEntry) (s : State),
    s.nvm.journal = e :: l →
    answers (.journalCopy) s fun t =>
      t.nvm.journal = l ∧ t.nvm.recs = s.nvm.recs ∧ t.nvm.queue = s.nvm.queue ∧
      ((∀ x ∈ s.nvm.recs, t.recContent x = s.recContent x)) ∧
      s.sameBut [.regs, .nvm] t)

/-- Feed groups, measurements and bands, brown-out and die undervoltage, crossings and crew release. A feed group that
blocks sets its loss flag and its CONDUCT bit is 0; conducting again sets the bit (R65, R66). A feed measurement puts
the four results in their slots, with A_OK and B_OK by the Low threshold, whose value in its range is the part's
(R69, R72, log entry 17). A band is entered at its threshold, shown and flagged (R71). Brown-out enters a full reset
with cause 6 and sets BROWNOUT (R74). A die at a VBAT below its undervoltage threshold, whose value in its range is
the part's, is all off, has lost its state, and every other die is the same (R73). A crossing between two islands of
the part, that is open or closed as its reset side leaves reset, discards what is pending, counted, with its islands,
and shakes hands until it opens (R98). Once the dies that this start adopts are adopted and the ledger runs, a
released crew starts its engines with a program with zeroed registers, P7 of both levels as given, flags 0, WAITING,
a START cue posted; the others are UNUSED (R237); with the last crew the module is in Run (R113, R114). Says that
these complete: feedGroupBlock, feedGroupConduct, feedMeasure, bandChange, brownoutReset, dieUndervoltage,
xingResyncReq, xingResyncAck, xingResyncOpen, crewRelease. -/
def Obligations.FeedsBandsCrossingsAndCrews : Prop :=
  (∀ (s : State),
    answers (.feedGroupBlock 0) s fun t =>
      t.f PWR_FEED_STAT_A_CONDUCT = 0 ∧ t.f PWR_FEED_FLAG_A_LOSS = 1 ∧ t.f (PWR_FEED_FLAG_CNT_COUNT) = min (s.f (PWR_FEED_FLAG_CNT_COUNT) + 1) (2 ^ RF.w (PWR_FEED_FLAG_CNT_COUNT) - 1) ∧
      regsBut ([PWR_FEED_STAT, PWR_FEED_FLAG, PWR_FEED_FLAG_CNT] ++ stampRegs) s t ∧ s.sameBut [.regs, .islands] t) ∧
  (∀ (s : State),
    answers (.feedGroupConduct 0) s fun t =>
      t.f PWR_FEED_STAT_A_CONDUCT = 1 ∧
      regsBut [PWR_FEED_STAT] s t ∧ s.sameBut [.regs] t) ∧
  (∀ (s : State),
    answers (.feedGroupBlock 1) s fun t =>
      t.f PWR_FEED_STAT_B_CONDUCT = 0 ∧ t.f PWR_FEED_FLAG_B_LOSS = 1 ∧ t.f (PWR_FEED_FLAG_CNT_COUNT) = min (s.f (PWR_FEED_FLAG_CNT_COUNT) + 1) (2 ^ RF.w (PWR_FEED_FLAG_CNT_COUNT) - 1) ∧
      regsBut ([PWR_FEED_STAT, PWR_FEED_FLAG, PWR_FEED_FLAG_CNT] ++ stampRegs) s t ∧ s.sameBut [.regs, .islands] t) ∧
  (∀ (s : State),
    answers (.feedGroupConduct 1) s fun t =>
      t.f PWR_FEED_STAT_B_CONDUCT = 1 ∧
      regsBut [PWR_FEED_STAT] s t ∧ s.sameBut [.regs] t) ∧
  (∀ (va ia vb ib : BitVec 16) (conduct : BitVec 2) (s : State),
    answers (.feedMeasure va ia vb ib conduct) s fun t =>
      t.f ⟨MEAS_SLOT_ST 0x60, 0, 16⟩ = (s.f ⟨MEAS_SLOT_ST 0x60, 0, 16⟩ + 1) % 0x10000 ∧ t.f ⟨MEAS_SLOT_ST 0x60, 16, 2⟩ = 2 ∧ t.reg (MEAS_SLOT_VAL 0x60) = BitVec.ofNat 32 va.toNat ∧
      t.f ⟨MEAS_SLOT_ST 0x61, 0, 16⟩ = (s.f ⟨MEAS_SLOT_ST 0x61, 0, 16⟩ + 1) % 0x10000 ∧ t.f ⟨MEAS_SLOT_ST 0x61, 16, 2⟩ = 2 ∧ t.reg (MEAS_SLOT_VAL 0x61) = BitVec.ofNat 32 ia.toNat ∧
      t.f ⟨MEAS_SLOT_ST 0x62, 0, 16⟩ = (s.f ⟨MEAS_SLOT_ST 0x62, 0, 16⟩ + 1) % 0x10000 ∧ t.f ⟨MEAS_SLOT_ST 0x62, 16, 2⟩ = 2 ∧ t.reg (MEAS_SLOT_VAL 0x62) = BitVec.ofNat 32 vb.toNat ∧
      t.f ⟨MEAS_SLOT_ST 0x63, 0, 16⟩ = (s.f ⟨MEAS_SLOT_ST 0x63, 0, 16⟩ + 1) % 0x10000 ∧ t.f ⟨MEAS_SLOT_ST 0x63, 16, 2⟩ = 2 ∧ t.reg (MEAS_SLOT_VAL 0x63) = BitVec.ofNat 32 ib.toNat ∧
      t.on PWR_FEED_STAT_A_OK = decide (thrLowFall s.class24 < va.toNat) ∧ t.on PWR_FEED_STAT_B_OK = decide (thrLowFall s.class24 < vb.toNat) ∧
      t.on PWR_FEED_STAT_A_CONDUCT = conduct.getLsbD 0 ∧ t.on PWR_FEED_STAT_B_CONDUCT = conduct.getLsbD 1 ∧
      t.f PWR_FEED_STAT_BAND = s.f PWR_FEED_STAT_BAND ∧
      s.sameBut [.regs, .offers, .dies] t) ∧
  (∀ (v : BitVec 16) (s : State),
    s.f PWR_FEED_STAT_BAND ≠ 2 →
    thrDumpRise s.class24 < v.toNat →
    answers (.bandChange v) s fun t =>
      t.f PWR_FEED_STAT_BAND = 2 ∧ t.f PWR_FEED_FLAG_LOAD_DUMP = 1) ∧
  (∀ (v : BitVec 16) (s : State),
    s.f PWR_FEED_STAT_BAND = 0 →
    v.toNat < thrLowFall s.class24 →
    answers (.bandChange v) s fun t =>
      t.f PWR_FEED_STAT_BAND = 1 ∧ t.f PWR_FEED_FLAG_LOW = 1) ∧
  (∀ (v : BitVec 16) (s : State),
    s.f PWR_FEED_STAT_BAND = 2 →
    v.toNat < thrDumpFall s.class24 →
    thrLowFall s.class24 ≤ v.toNat →
    answers (.bandChange v) s fun t =>
      t.f PWR_FEED_STAT_BAND = 0 ∧ t.f PWR_FEED_FLAG_LOW = s.f PWR_FEED_FLAG_LOW ∧ t.f PWR_FEED_FLAG_LOAD_DUMP = s.f PWR_FEED_FLAG_LOAD_DUMP) ∧
  (∀ (v : BitVec 16) (s : State),
    s.f PWR_FEED_STAT_BAND = 1 →
    thrLowRise s.class24 ≤ v.toNat →
    v.toNat ≤ thrDumpRise s.class24 →
    answers (.bandChange v) s fun t =>
      t.f PWR_FEED_STAT_BAND = 0 ∧ t.f PWR_FEED_FLAG_LOW = s.f PWR_FEED_FLAG_LOW) ∧
  (∀ (v : BitVec 16) (s : State),
    bandFrom s.class24 (s.f PWR_FEED_STAT_BAND) v.toNat = s.f PWR_FEED_STAT_BAND →
    answers (.bandChange v) s fun t =>
      t = s) ∧
  (∀ (v : BitVec 16) (s : State),
    s.boot.por = false →
    v.toNat < thrBrownFall →
    s.canonical = true →
    answers (.brownoutReset v) s fun t =>
      s.resetEntered t ∧
      t.f SYS_RESET_CAUSE_CAUSE = 6 ∧ t.f PWR_FEED_FLAG_BROWNOUT = 1 ∧ t.boot.waitVbat = true) ∧
  (∀ (n : Fin 14) (vbat : BitVec 16) (s : State),
    s.diePresent n = true →
    vbat.toNat < thrDieFall →
    answers (.dieUndervoltage ⟨n, vbat⟩) s fun t =>
      t.die n = { lost := true, uv := true } ∧ t.lnk n = { s.lnk n with adopted := false, trained := false, tx := [] } ∧
      ((∀ c : Fin 132, chLink c = n.val → t.dieCh c = {})) ∧
      ((∀ c : Fin 132, chLink c ≠ n.val → t.dieCh c = s.dieCh c)) ∧
      ((∀ k : Fin 15, k.val ≠ n.val → t.die k = s.die k)) ∧
      t.f ⟨PWR_ISLAND_STAT, 15 + n, 1⟩ = 0) ∧
  (∀ (a d : Fin 30) (p : BitVec 16) (s : State),
    s.xingOf a d < 2 →
    a ≠ d →
    (s.islandPresent a = true ∧ s.islandPresent d = true) →
    answers (.xingResyncReq a d p) s fun t =>
      t.xingOf a d = 2 ∧
      ((∀ i : Fin 30, ∀ k : Fin 30, (i ≠ a ∨ k ≠ d) → t.xingOf i k = s.xingOf i k)) ∧
      t.on ⟨CLK_XING_CLOSED, a, 1⟩ = true ∧ t.on ⟨CLK_XING_CLOSED, d, 1⟩ = true ∧
      (p ≠ 0 → t.f (CLK_XING_DISCARD_COUNT) = min (s.f (CLK_XING_DISCARD_COUNT) + p.toNat) (2 ^ RF.w (CLK_XING_DISCARD_COUNT) - 1) ∧ t.f CLK_XING_DISCARD_LAST_FROM = a ∧ t.f CLK_XING_DISCARD_LAST_TO = d) ∧
      (p = 0 → t.reg CLK_XING_DISCARD = s.reg CLK_XING_DISCARD) ∧
      regsBut [CLK_XING_CLOSED, CLK_XING_DISCARD] s t ∧ s.sameBut [.regs, .pwr] t) ∧
  (∀ (a d : Fin 30) (s : State),
    s.xingOf a d = 2 →
    answers (.xingResyncAck a d) s fun t =>
      t.xingOf a d = 3 ∧
      ((∀ i : Fin 30, ∀ k : Fin 30, (i ≠ a ∨ k ≠ d) → t.xingOf i k = s.xingOf i k)) ∧
      t.on ⟨CLK_XING_CLOSED, a, 1⟩ = true ∧ t.on ⟨CLK_XING_CLOSED, d, 1⟩ = true ∧
      regsBut [CLK_XING_CLOSED] s t ∧ s.sameBut [.regs, .pwr] t) ∧
  (∀ (a d : Fin 30) (s : State),
    s.xingOf a d = 3 →
    answers (.xingResyncOpen a d) s fun t =>
      t.xingOf a d = 0 ∧
      ((∀ i : Fin 30, ∀ k : Fin 30, (i ≠ a ∨ k ≠ d) → t.xingOf i k = s.xingOf i k)) ∧
      ((∀ e ∈ s.pwr.xing, e.1 = a.val * 32 + d.val) → t.on ⟨CLK_XING_CLOSED, a, 1⟩ = false ∧ t.on ⟨CLK_XING_CLOSED, d, 1⟩ = false) ∧
      regsBut [CLK_XING_CLOSED] s t ∧ s.sameBut [.regs, .pwr] t) ∧
  (∀ (c : Fin 6) (s : State),
    s.boot.phase = .adopt →
    s.crewPresent c = true →
    s.clocked (3 + c.val) = false →
    (s.adoptLeft = false ∧ s.on LDG_STAT_RUNNING = true) →
    answers (.crewRelease c) s fun t =>
      t.on ⟨PWR_ISLAND_STAT, 3 + c.val, 1⟩ = true ∧
      ((∀ k : Fin 8, bitOf (s.f (CUE_CREW_CFG_USED c)) k = false → (t.eng (8 * c + k)).st = .unused)) ∧
      ((∀ k : Fin 8, bitOf (s.f (CUE_CREW_CFG_USED c)) k = true → (t.eng (8 * c + k)).st = .waiting ∧
      (∀ r : Fin 24, r.val ∉ [14, 15, 22, 23] → (t.eng (8 * c + k)).reg r = 0) ∧
      (t.eng (8 * c + k)).reg 14 + 0x100 * (t.eng (8 * c + k)).reg 15 = s.f (ENG_SP_SP_NORMAL c k) ∧
      (t.eng (8 * c + k)).reg 22 + 0x100 * (t.eng (8 * c + k)).reg 23 = s.f (ENG_SP_SP_URGENT c k) ∧
      (t.eng (8 * c + k)).nl = {} ∧ (t.eng (8 * c + k)).ul = {} ∧ (t.eng (8 * c + k)).tmr = [] ∧ (t.eng (8 * c + k)).watch = [] ∧
      t.offers.any (fun o => o.target = 0x10 + 8 * c.val + k.val && o.cue.cls = 0 && o.cue.data = s.f SYS_RESET_CAUSE_CAUSE) = true)) ∧
      ((∀ h : Fin 48, h.val / 8 ≠ c.val → t.eng h = s.eng h)) ∧
      (((List.range 6).all (fun k => !s.crewPresent k || k == c.val || s.on ⟨PWR_ISLAND_STAT, 3 + k, 1⟩) = true) → t.boot.phase = .run) ∧
      (((List.range 6).all (fun k => !s.crewPresent k || k == c.val || s.on ⟨PWR_ISLAND_STAT, 3 + k, 1⟩) = false) → t.boot = s.boot))

/-- Power requests, votes, the entry into a low-power state, its refusals, wakes and the exit from Sleep. A request of an
initiator that may not, or of a reserved target, is counted with its initiator and changes nothing else; during an
entry it is DENIED_BUSY; a request for Run ends Idle at once; another starts the consent round with PREPARE to every
voter (R85, R86). Only the first answer of a named voter counts (R88). At T_CONSENT the entry is committed where
nobody refuses, else REFUSED with each refuser in the table (R86, R87, R89). When the steps are complete, every
expansion has reported and, for Sleep and deeper, what the initiators sent is drained, SEALING follows, parks the
dies and clamps the crossings of the target (R90, R91), and with it the target state, unless a wake is latched: then
ABORTED and counted (R86). Each wake is latched and an enabled one starts the exit (R81); Off loses every register
but the wake latch and its enables, and the dies (R75, R76); Sleep is left with state retained (R75). The wake timer,
the second differing poll of an input and a match of the I2C address latch theirs (R82, R83, R84); the matcher lets
SCL go outside Sleep. CLEAR empties the refusal table (R92). Each refuser is taken once, as log entry 43 says. Says
that these complete: pwrReqRun, pwrReqEntry, pwrReqReserved, pwrVote, consentTimeout, entryStepsComplete,
sealConfirm, wakeEvent, sleepExit, cellarWakeTimer, inputPoll, i2cAddressMatch, matcherSclRelease, refusalTableClear. -/
def Obligations.PowerStates : Prop :=
  (∀ (init : Byte) (s : State),
    s.pwrMay init.toNat = false →
    answers (.pwrReqRun init) s fun t =>
      t.f PWR_DENIED_CNT_LAST_INIT = init.toNat ∧ t.f (PWR_DENIED_CNT_COUNT) = min (s.f (PWR_DENIED_CNT_COUNT) + 1) (2 ^ RF.w (PWR_DENIED_CNT_COUNT) - 1) ∧
      regsBut [PWR_DENIED_CNT] s t ∧ s.sameBut [.regs] t) ∧
  (∀ (init : Byte) (s : State),
    s.pwrMay init.toNat = true →
    s.f PWR_STATE_PHASE ≠ 0 →
    answers (.pwrReqRun init) s fun t =>
      t.f PWR_REQ_STATUS = 5 ∧ t.f PWR_REQ_TARGET = s.f PWR_REQ_TARGET ∧
      regsBut [PWR_REQ] s t ∧ s.sameBut [.regs] t) ∧
  (∀ (init : Byte) (e : Fin 4) (s : State),
    s.pwrMay init.toNat = false →
    answers (.pwrReqEntry init e) s fun t =>
      t.f PWR_DENIED_CNT_LAST_INIT = init.toNat ∧ t.f (PWR_DENIED_CNT_COUNT) = min (s.f (PWR_DENIED_CNT_COUNT) + 1) (2 ^ RF.w (PWR_DENIED_CNT_COUNT) - 1) ∧
      regsBut [PWR_DENIED_CNT] s t ∧ s.sameBut [.regs] t) ∧
  (∀ (init : Byte) (e : Fin 4) (s : State),
    s.pwrMay init.toNat = true →
    s.f PWR_STATE_PHASE ≠ 0 →
    answers (.pwrReqEntry init e) s fun t =>
      t.f PWR_REQ_STATUS = 5 ∧ t.f PWR_REQ_TARGET = s.f PWR_REQ_TARGET ∧
      regsBut [PWR_REQ] s t ∧ s.sameBut [.regs] t) ∧
  (∀ (init : Byte) (s : State),
    s.pwrMay init.toNat = true →
    s.f PWR_STATE_PHASE = 0 →
    s.f PWR_STATE_STATE = 1 →
    answers (.pwrReqRun init) s fun t =>
      t.f PWR_REQ_STATUS = 2 ∧ t.f PWR_REQ_TARGET = 0 ∧ t.f PWR_REQ_REQUESTER = init.toNat ∧ t.f PWR_STATE_STATE = 0 ∧ t.f PWR_STATE_LAST_STATE = 1 ∧ t.gated = []) ∧
  (∀ (init : Byte) (s : State),
    s.pwrMay init.toNat = true →
    s.f PWR_STATE_PHASE = 0 →
    s.f PWR_STATE_STATE ≠ 1 →
    answers (.pwrReqRun init) s fun t =>
      t.f PWR_REQ_STATUS = 2 ∧ t.f PWR_REQ_TARGET = 0 ∧ t.f PWR_REQ_REQUESTER = init.toNat ∧
      regsBut [PWR_REQ] s t ∧ s.sameBut [.regs] t) ∧
  (∀ (init : Byte) (e : Fin 4) (s : State),
    s.pwrMay init.toNat = true →
    s.f PWR_STATE_PHASE = 0 →
    answers (.pwrReqEntry init e) s fun t =>
      t.f PWR_REQ_STATUS = 1 ∧ t.f PWR_REQ_TARGET = e.val + 1 ∧ t.f PWR_REQ_REQUESTER = init.toNat ∧
      t.f PWR_STATE_PHASE = 1 ∧ t.f PWR_STATE_TARGET = e.val + 1 ∧ t.f PWR_STATE_STATE = s.f PWR_STATE_STATE ∧
      (t.pwr.answers = [] ∧ (∀ v ∈ s.scr.voters, v ≠ 0 → t.offers.any (fun o => o.target = v && o.cue.cls = 7 && o.cue.index = 1) = true)) ∧
      regsBut [PWR_REQ, PWR_STATE] s t) ∧
  (∀ (init : Byte) (s : State),
    answers (.pwrReqReserved init) s fun t =>
      t.f PWR_DENIED_CNT_LAST_INIT = init.toNat ∧ t.f (PWR_DENIED_CNT_COUNT) = min (s.f (PWR_DENIED_CNT_COUNT) + 1) (2 ^ RF.w (PWR_DENIED_CNT_COUNT) - 1) ∧
      regsBut [PWR_DENIED_CNT] s t ∧ s.sameBut [.regs] t) ∧
  (∀ (init : Byte) (y : Bool) (r : Byte) (s : State),
    s.f PWR_STATE_PHASE = 1 →
    s.scr.voters.contains init.toNat = true →
    (s.pwr.answers.all (fun a => a.1 ≠ init.toNat) = true) →
    answers (.pwrVote init y r) s fun t =>
      (t.pwr = { s.pwr with answers := s.pwr.answers ++ [(init.toNat, if y then 0x100 else r.toNat)] }) ∧
      s.sameBut [.pwr] t) ∧
  (∀ (init : Byte) (y : Bool) (r : Byte) (s : State),
    (¬(s.f PWR_STATE_PHASE = 1 ∧ s.scr.voters.contains init.toNat = true ∧ s.pwr.answers.all (fun a => a.1 ≠ init.toNat) = true)) →
    answers (.pwrVote init y r) s fun t =>
      t = s) ∧
  (∀ (refused : BitVec 3) (s : State),
    s.f PWR_STATE_PHASE = 1 →
    ((s.voterRefusals ++ s.unitRefusals (s.f PWR_STATE_TARGET) ++ (s.expansions.filter (fun k => refused.getLsbD k)).map (fun k => (0x401 + k, 8))) = []) →
    s.wakeLatched = false →
    s.f PWR_STATE_TARGET < 3 →
    answers (.consentTimeout refused) s fun t =>
      t.f PWR_STATE_PHASE = 2 ∧ t.f PWR_STATE_TARGET = s.f PWR_STATE_TARGET ∧ t.f PWR_REQ_STATUS = s.f PWR_REQ_STATUS ∧
      (s.f PWR_STATE_TARGET = 1 → regsBut [PWR_STATE] s t ∧ s.sameBut [.regs] t)) ∧
  (∀ (refused : BitVec 3) (s : State),
    s.f PWR_STATE_PHASE = 1 →
    ((s.voterRefusals ++ s.unitRefusals (s.f PWR_STATE_TARGET) ++ (s.expansions.filter (fun k => refused.getLsbD k)).map (fun k => (0x401 + k, 8))) = []) →
    s.wakeLatched = true →
    answers (.consentTimeout refused) s fun t =>
      t.f PWR_STATE_PHASE = 0 ∧ t.f PWR_STATE_TARGET = 0 ∧ t.f PWR_REQ_STATUS = 4 ∧
      t.f (abortCnt (s.f PWR_STATE_TARGET)) = min (s.f (abortCnt (s.f PWR_STATE_TARGET)) + 1) (2 ^ RF.w (abortCnt (s.f PWR_STATE_TARGET)) - 1) ∧
      t.f PWR_ABORT_LAST_CAUSE = s.f PWR_WAKE_SRC_SRC ∧ t.f PWR_ABORT_LAST_TARGET = target2 (s.f PWR_STATE_TARGET) % 4) ∧
  (∀ (refused : BitVec 3) (s : State),
    s.f PWR_STATE_PHASE = 1 →
    ((s.voterRefusals ++ s.unitRefusals (s.f PWR_STATE_TARGET) ++ (s.expansions.filter (fun k => refused.getLsbD k)).map (fun k => (0x401 + k, 8))) ≠ []) →
    answers (.consentTimeout refused) s fun t =>
      t.f PWR_STATE_PHASE = 0 ∧ t.f PWR_STATE_TARGET = 0 ∧ t.f PWR_REQ_STATUS = 3 ∧ t.f PWR_STATE_STATE = s.f PWR_STATE_STATE ∧
      (if (∀ r : Fin 32, s.on (PWR_REF_ROW_VALID r) = false) then t.on (PWR_REF_ROW_VALID 0) = true ∧ some (t.f (PWR_REF_ROW_REFUSER 0)) = ((s.voterRefusals ++ s.unitRefusals (s.f PWR_STATE_TARGET) ++ (s.expansions.filter (fun k => refused.getLsbD k)).map (fun k => (0x401 + k, 8)))).head?.map (fun x : Nat × Nat => x.1 % 0x10000) ∧ t.f PWR_REF_OVF_COUNT = s.f PWR_REF_OVF_COUNT else True) ∧
      ((∀ r : Fin 32, s.on (PWR_REF_ROW_VALID r) = true → t.on (PWR_REF_ROW_VALID r) = true ∧ t.f (PWR_REF_ROW_REFUSER r) = s.f (PWR_REF_ROW_REFUSER r))) ∧
      (s.f PWR_REQ_REQUESTER ≠ 0 → t.offers.any (fun o => o.target = s.f PWR_REQ_REQUESTER && o.cue.cls = 7 && o.cue.index = 1) = true)) ∧
  (∀ (sealed : BitVec 3) (s : State),
    s.f PWR_STATE_PHASE = 2 →
    (s.expansions.all (fun k => sealed.getLsbD k || s.pwr.expSealed.contains k) = true) →
    (s.f PWR_STATE_TARGET < 3 ∨ s.on DLY_ARCH_CTL_BUSY = false) →
    (s.f PWR_STATE_TARGET < 2 ∨ s.drained = true) →
    answers (.entryStepsComplete sealed) s fun t =>
      t.f PWR_STATE_PHASE = 3 ∧ t.f PWR_STATE_TARGET = s.f PWR_STATE_TARGET ∧
      (2 ≤ s.f PWR_STATE_TARGET → t.pwr.parked = true ∧ t.pwr.clamp = clampsOf (s.f PWR_STATE_TARGET) ∧ (∀ n : Fin 14, s.dieLinks.contains n.val = true → (s.lnk n).adopted = true → (t.lnk n).adopted = false ∧ (t.lnk n).tx.getLast? = some .park ∧ t.f (dieStateRF n) = 0)) ∧
      (s.f PWR_STATE_TARGET < 2 → regsBut [PWR_STATE] s t ∧ s.sameBut [.regs, .pwr] t)) ∧
  (∀ (sealed : BitVec 3) (s : State),
    s.f PWR_STATE_PHASE = 2 →
    (s.expansions.any (fun k => !(sealed.getLsbD k || s.pwr.expSealed.contains k)) = true) →
    answers (.entryStepsComplete sealed) s fun t =>
      t.pwr = { s.pwr with expSealed := (List.range 3).filter (fun k => sealed.getLsbD k || s.pwr.expSealed.contains k) } ∧
      s.sameBut [.pwr] t) ∧
  (∀ (sealed : BitVec 3) (s : State),
    s.f PWR_STATE_PHASE = 2 →
    2 ≤ s.f PWR_STATE_TARGET →
    s.drained = false →
    answers (.entryStepsComplete sealed) s fun t =>
      t.f PWR_STATE_PHASE = 2 ∧ s.sameBut [.pwr] t) ∧
  (∀ (s : State),
    s.f PWR_STATE_PHASE = 3 →
    s.wakeLatched = false →
    s.f PWR_STATE_TARGET < 4 →
    answers (.sealConfirm) s fun t =>
      t.f PWR_STATE_STATE = s.f PWR_STATE_TARGET ∧ t.f PWR_STATE_PHASE = 0 ∧ t.f PWR_STATE_TARGET = 0 ∧ t.f PWR_REQ_STATUS = 2 ∧ t.pwr.exit = false ∧ t.pwr.reached = s.now ∧
      t.mem = s.mem ∧ t.mram = s.mram ∧
      (s.f PWR_STATE_TARGET = 2 → (∀ i : Fin 9, 2 ≤ i.val → t.clocked (i + 3) = false)) ∧
      (s.f PWR_STATE_TARGET = 3 → (∀ i : Fin 15, t.clocked (i + 1) = false)) ∧
      (s.f PWR_STATE_TARGET < 2 → t.f PWR_ISLAND_STAT_CLOCKED = s.f PWR_ISLAND_STAT_CLOCKED)) ∧
  (∀ (s : State),
    s.f PWR_STATE_PHASE = 3 →
    s.wakeLatched = false →
    s.f PWR_STATE_TARGET = 4 →
    answers (.sealConfirm) s fun t =>
      t.f PWR_STATE_STATE = 4 ∧ t.dies = [] ∧ t.links = [] ∧ t.boot.por = true ∧ t.pwr.inhLow = 3 ∧
      t.reg PWR_ISLAND_STAT = 0 ∧
      t.mram = s.mram ∧ t.reg PWR_WAKE_EN = s.reg PWR_WAKE_EN ∧ t.reg PWR_WAKE_SRC = s.reg PWR_WAKE_SRC) ∧
  (∀ (s : State),
    s.f PWR_STATE_PHASE = 3 →
    s.wakeLatched = true →
    answers (.sealConfirm) s fun t =>
      t.f PWR_STATE_STATE = s.f PWR_STATE_STATE ∧ t.f PWR_STATE_PHASE = 0 ∧ t.f PWR_REQ_STATUS = 4 ∧ t.f (abortCnt (s.f PWR_STATE_TARGET)) = min (s.f (abortCnt (s.f PWR_STATE_TARGET)) + 1) (2 ^ RF.w (abortCnt (s.f PWR_STATE_TARGET)) - 1)) ∧
  (∀ (b : Fin 24) (s : State),
    answers (.wakeEvent b) s fun t =>
      t.f PWR_WAKE_SRC_SRC = s.f PWR_WAKE_SRC_SRC ||| 2 ^ b.val ∧
      ((s.wakeActs b = true ∧ 2 ≤ s.f PWR_STATE_PHASE) → t.f PWR_STATE_PHASE = 0 ∧ t.f PWR_REQ_STATUS = 4) ∧
      ((s.wakeActs b = true ∧ s.f PWR_STATE_PHASE < 2 ∧ 2 ≤ s.f PWR_STATE_STATE) → t.pwr.exit = true) ∧
      (s.wakeActs b = false → t.pwr = s.pwr ∧ t.f PWR_STATE_PHASE = s.f PWR_STATE_PHASE)) ∧
  (∀ (s : State),
    s.f PWR_STATE_STATE = 2 →
    s.pwr.exit = true →
    answers (.sleepExit) s fun t =>
      t.f PWR_STATE_STATE = 0 ∧ t.f PWR_STATE_LAST_STATE = 2 ∧ t.pwr.exit = false ∧ t.pwr.parked = false ∧ t.acc.seedK = none ∧
      t.f STR_HB_STAT_CC_ARMED = 0 ∧
      t.mem = s.mem ∧ t.chans = s.chans ∧ t.keys = s.keys ∧
      ((∀ g : Fin 48, (t.eng g).b = (s.eng g).b ∧ (t.eng g).queue = (s.eng g).queue ∧ (t.eng g).st = (s.eng g).st ∧ ∀ n : Fin 4, ((t.eng g).timer n).left = ((s.eng g).timer n).left)) ∧
      t.mram = s.mram) ∧
  (∀ (s : State),
    (s.f PWR_STATE_STATE = 2 ∨ s.f PWR_STATE_STATE = 3) →
    s.f PWR_WAKE_TIMER_SECONDS ≠ 0 →
    answers (.cellarWakeTimer) s fun t =>
      bitOf (t.f PWR_WAKE_SRC_SRC) 22 = true ∧
      ((bitOf (s.f PWR_WAKE_EN_EN) 22 = true ∧ s.f PWR_STATE_PHASE < 2) → t.pwr.exit = true)) ∧
  (∀ (levels : BitVec 96) (n : Fin 96) (s : State),
    (s.f PWR_STATE_STATE = 2 ∨ s.f PWR_STATE_STATE = 3) →
    s.inOn n = true →
    s.on (INP_CFG_POLL n) = true →
    answers (.inputPoll levels) s fun t =>
      (levels.getLsbD n = s.on (inBit INP_LEVEL n) → tget (fun _ => 0) t.inp.poll n = 0) ∧
      (levels.getLsbD n ≠ s.on (inBit INP_LEVEL n) → tget (fun _ => 0) t.inp.poll n = tget (fun _ => 0) s.inp.poll n + 1) ∧
      ((levels.getLsbD n ≠ s.on (inBit INP_LEVEL n) ∧ tget (fun _ => 0) s.inp.poll n = 1) → t.on (inBit INP_WAKE_SRC n) = true ∧ bitOf (t.f PWR_WAKE_SRC_SRC) 18 = true)) ∧
  (∀ (a : BitVec 7) (s : State),
    (s.f PWR_STATE_STATE = 2 ∨ s.f PWR_STATE_STATE = 3) →
    (a.toNat = s.f PWR_CFG_MNT_ADDR ∧ a ≠ 0) →
    answers (.i2cAddressMatch a) s fun t =>
      bitOf (t.f PWR_WAKE_SRC_SRC) 20 = true ∧ t.pwr.sclHeld = true) ∧
  (∀ (a : BitVec 7) (s : State),
    (a.toNat ≠ s.f PWR_CFG_MNT_ADDR ∨ a = 0) →
    answers (.i2cAddressMatch a) s fun t =>
      t = s) ∧
  (∀ (s : State),
    s.f PWR_STATE_STATE ≠ 2 →
    answers (.matcherSclRelease) s fun t =>
      t.pwr = { s.pwr with sclHeld := false } ∧
      s.sameBut [.pwr] t) ∧
  (∀ (s : State),
    s.f PWR_STATE_STATE = 2 →
    answers (.matcherSclRelease) s fun t =>
      t = s) ∧
  (∀ (s : State),
    answers (.refusalTableClear) s fun t =>
      ((∀ r : Fin 32, ∀ w : Fin 8, t.reg (PWR_REF_ROW r + 4 * w) = 0)) ∧
      t.f PWR_REF_OVF_COUNT = 0 ∧
      regsBut (PWR_REF_OVF :: (List.range 256).map (fun k => PWR_REF_ROW 0 + 4 * k)) s t ∧ s.sameBut [.regs] t)

/-- The UPD commands: BEGIN, PROGRAM, COPY_PART, CHECK, ACTIVATE, ABORT; trial and the decision of an expansion. A
command of another writer, or while BUSY, is ignored and counted (R505). BEGIN makes the slot INCOMPLETE and starts
the update, refused in progress. PROGRAM copies LEN bytes from SRC to DST of the slot and changes no other byte of
MRAM; COPY_PART, only part by part, the part of the active slot; both outside their range end with the RANGE result.
CHECK of a package whose header is wrong ends with its result, RECEIVING; one whose steps all pass is CHECKED with
its verdict record (R506, R507). ACTIVATE makes the slot active, in TRIAL, with an UPDATE reset due, LAST_GEN and
PENDING; it is refused while an expansion does not report CHECKED; a failing expansion gives REVERTED with cause
EXPANSION and ends the update (R508); its RESULT is open (log entry 44). ABORT leaves the slot INCOMPLETE. Expiry of
the trial reverts with cause TIMEOUT (R510, R511). An expansion accepts, waits or reverts by what its master says
(R512); the cause it records is open. RESULT codes are those of the UPD registers. Says that these complete:
updBegin, updProgram, updCopyPart, updCheck, updActivate, updAbort, trialTimeout, expansionTrialDecide. -/
def Obligations.Updates : Prop :=
  (∀ (init : Byte) (k : Fin 2) (s : State),
    (s.updMay init.toNat = false ∨ s.on UPD_STAT_BUSY = true) →
    answers (.updBegin init k) s fun t =>
      t.f (UPD_LAST_REFUSED) = min (s.f (UPD_LAST_REFUSED) + 1) (2 ^ RF.w (UPD_LAST_REFUSED) - 1) ∧
      regsBut [UPD_LAST] s t ∧ s.sameBut [.regs] t) ∧
  (∀ (init : Byte) (s : State),
    (s.updMay init.toNat = false ∨ s.on UPD_STAT_BUSY = true) →
    answers (.updProgram init) s fun t =>
      t.f (UPD_LAST_REFUSED) = min (s.f (UPD_LAST_REFUSED) + 1) (2 ^ RF.w (UPD_LAST_REFUSED) - 1) ∧
      regsBut [UPD_LAST] s t ∧ s.sameBut [.regs] t) ∧
  (∀ (init : Byte) (ty : Fin 16) (tg : Fin 4) (s : State),
    (s.updMay init.toNat = false ∨ s.on UPD_STAT_BUSY = true) →
    answers (.updCopyPart init ty tg) s fun t =>
      t.f (UPD_LAST_REFUSED) = min (s.f (UPD_LAST_REFUSED) + 1) (2 ^ RF.w (UPD_LAST_REFUSED) - 1) ∧
      regsBut [UPD_LAST] s t ∧ s.sameBut [.regs] t) ∧
  (∀ (init r1 r2 r3 : Byte) (s : State),
    (s.updMay init.toNat = false ∨ s.on UPD_STAT_BUSY = true) →
    answers (.updCheck init [] r1 r2 r3) s fun t =>
      t.f (UPD_LAST_REFUSED) = min (s.f (UPD_LAST_REFUSED) + 1) (2 ^ RF.w (UPD_LAST_REFUSED) - 1) ∧
      regsBut [UPD_LAST] s t ∧ s.sameBut [.regs] t) ∧
  (∀ (init : Byte) (a b : BitVec 3) (s : State),
    (s.updMay init.toNat = false ∨ s.on UPD_STAT_BUSY = true) →
    answers (.updActivate init a b) s fun t =>
      t.f (UPD_LAST_REFUSED) = min (s.f (UPD_LAST_REFUSED) + 1) (2 ^ RF.w (UPD_LAST_REFUSED) - 1) ∧
      regsBut [UPD_LAST] s t ∧ s.sameBut [.regs] t) ∧
  (∀ (init : Byte) (s : State),
    (s.updMay init.toNat = false ∨ s.on UPD_STAT_BUSY = true) →
    answers (.updAbort init) s fun t =>
      t.f (UPD_LAST_REFUSED) = min (s.f (UPD_LAST_REFUSED) + 1) (2 ^ RF.w (UPD_LAST_REFUSED) - 1) ∧
      regsBut [UPD_LAST] s t ∧ s.sameBut [.regs] t) ∧
  (∀ (init : Byte) (k j : Fin 2) (s : State),
    s.updMay init.toNat = true →
    s.on UPD_STAT_BUSY = false →
    s.updTarget k = some j.val →
    s.upd.busy = false →
    answers (.updBegin init k) s fun t =>
      t.f UPD_STAT_RESULT = 0 ∧ t.f UPD_STAT_STATE = 1 ∧ t.f (slotStateRF j) = 1 ∧ t.f (slotStateRF (1 - j.val)) = s.f (slotStateRF (1 - j.val)) ∧
      t.upd = { s.upd with busy := true, slot := j.val, mode := s.f UPD_CFG_MODE, exps := [] } ∧ t.mram = s.mram) ∧
  (∀ (init : Byte) (k : Fin 2) (s : State),
    s.updMay init.toNat = true →
    s.on UPD_STAT_BUSY = false →
    (s.updTarget k = none ∨ s.upd.busy = true) →
    answers (.updBegin init k) s fun t =>
      t.f UPD_STAT_RESULT = 1 ∧ t.f UPD_STAT_STATE = s.f UPD_STAT_STATE ∧ t.reg UPD_SLOTS = s.reg UPD_SLOTS ∧
      t.mram = s.mram ∧ t.upd = s.upd) ∧
  (∀ (init : Byte) (s : State),
    s.updMay init.toNat = true →
    s.on UPD_STAT_BUSY = false →
    s.f UPD_STAT_STATE = 1 →
    (4 ≤ s.f UPD_XFER_LEN_LEN ∧ s.f UPD_XFER_LEN_LEN ≤ 65536 ∧ s.f UPD_XFER_LEN_LEN % 4 = 0) →
    inStoreRange (s.f UPD_XFER_SRC_SRC) (s.f UPD_XFER_LEN_LEN) = true →
    s.f UPD_XFER_DST_DST + s.f UPD_XFER_LEN_LEN ≤ 0x600000 →
    answers (.updProgram init) s fun t =>
      t.f UPD_STAT_RESULT = 0 ∧
      t.mrdBytes (slotAt s.upd.slot + s.f UPD_XFER_DST_DST) (s.f UPD_XFER_LEN_LEN) = s.rdBytes (s.f UPD_XFER_SRC_SRC) (s.f UPD_XFER_LEN_LEN) ∧
      mramBut (slotAt s.upd.slot + s.f UPD_XFER_DST_DST) (s.f UPD_XFER_LEN_LEN) s t ∧
      t.upd = s.upd ∧ t.mem = s.mem) ∧
  (∀ (init : Byte) (s : State),
    s.updMay init.toNat = true →
    s.on UPD_STAT_BUSY = false →
    s.f UPD_STAT_STATE = 1 →
    (¬(4 ≤ s.f UPD_XFER_LEN_LEN ∧ s.f UPD_XFER_LEN_LEN ≤ 65536 ∧ s.f UPD_XFER_LEN_LEN % 4 = 0 ∧ inStoreRange (s.f UPD_XFER_SRC_SRC) (s.f UPD_XFER_LEN_LEN) = true ∧ s.f UPD_XFER_DST_DST + s.f UPD_XFER_LEN_LEN ≤ 0x600000)) →
    answers (.updProgram init) s fun t =>
      t.f UPD_STAT_RESULT = 10 ∧
      t.mram = s.mram ∧ t.upd = s.upd) ∧
  (∀ (init : Byte) (s : State),
    s.updMay init.toNat = true →
    s.on UPD_STAT_BUSY = false →
    s.f UPD_STAT_STATE ≠ 1 →
    answers (.updProgram init) s fun t =>
      t.f UPD_STAT_RESULT = 1 ∧
      t.mram = s.mram ∧ t.upd = s.upd) ∧
  (∀ (init : Byte) (ty : Fin 16) (tg : Fin 4) (qa n : Nat) (s : State),
    s.updMay init.toNat = true →
    s.on UPD_STAT_BUSY = false →
    s.f UPD_STAT_STATE = 1 →
    s.upd.mode = 1 →
    ((s.pkParts (slotAt (1 - s.upd.slot))).find? (fun q => q.type = ty.val && q.target = tg.val) = some { type := ty.val, target := tg.val, at_ := qa, len := n }) →
    s.f UPD_XFER_DST_DST + n ≤ 0x600000 →
    answers (.updCopyPart init ty tg) s fun t =>
      t.f UPD_STAT_RESULT = 0 ∧
      t.mrdBytes (slotAt s.upd.slot + s.f UPD_XFER_DST_DST) n = s.mrdBytes qa n ∧
      mramBut (slotAt s.upd.slot + s.f UPD_XFER_DST_DST) n s t ∧
      t.upd = s.upd ∧ t.mem = s.mem) ∧
  (∀ (init : Byte) (ty : Fin 16) (tg : Fin 4) (s : State),
    s.updMay init.toNat = true →
    s.on UPD_STAT_BUSY = false →
    s.f UPD_STAT_STATE = 1 →
    s.upd.mode = 1 →
    ((s.pkParts (slotAt (1 - s.upd.slot))).find? (fun q => q.type = ty.val && q.target = tg.val) = none) →
    answers (.updCopyPart init ty tg) s fun t =>
      t.f UPD_STAT_RESULT = 10 ∧
      t.mram = s.mram ∧ t.upd = s.upd) ∧
  (∀ (init : Byte) (ty : Fin 16) (tg : Fin 4) (s : State),
    s.updMay init.toNat = true →
    s.on UPD_STAT_BUSY = false →
    (s.f UPD_STAT_STATE ≠ 1 ∨ s.upd.mode ≠ 1) →
    answers (.updCopyPart init ty tg) s fun t =>
      t.f UPD_STAT_RESULT = 1 ∧
      t.mram = s.mram ∧ t.upd = s.upd) ∧
  (∀ (init r1 r2 r3 : Byte) (s : State),
    s.updMay init.toNat = true →
    s.on UPD_STAT_BUSY = false →
    (s.f UPD_STAT_STATE ≠ 1 ∧ s.f UPD_STAT_STATE ≠ 2) →
    answers (.updCheck init [] r1 r2 r3) s fun t =>
      t.f UPD_STAT_RESULT = 1 ∧ t.f UPD_STAT_STATE = s.f UPD_STAT_STATE ∧
      t.mram = s.mram ∧ t.upd = s.upd) ∧
  (∀ (init r1 r2 r3 : Byte) (s : State),
    s.updMay init.toNat = true →
    s.on UPD_STAT_BUSY = false →
    (s.f UPD_STAT_STATE = 1 ∨ s.f UPD_STAT_STATE = 2) →
    s.pkOk (slotAt s.upd.slot) = false →
    answers (.updCheck init [] r1 r2 r3) s fun t =>
      t.f UPD_STAT_RESULT = 2 ∧ t.f UPD_STAT_STATE = 1 ∧ t.f (slotStateRF s.upd.slot) = 1 ∧ t.f UPD_REJ0_VALID = 1 ∧
      t.mram = s.mram ∧ t.upd = s.upd) ∧
  (∀ (init r1 r2 r3 : Byte) (s : State),
    s.updMay init.toNat = true →
    s.on UPD_STAT_BUSY = false →
    (s.f UPD_STAT_STATE = 1 ∨ s.f UPD_STAT_STATE = 2) →
    s.upd.slot < 2 →
    ((((s.setF UPD_STAT_STATE 1).setF (slotStateRF s.upd.slot) 1).checkParts (slotAt s.upd.slot)).1 = 0 ∧ ((((s.setF UPD_STAT_STATE 1).setF (slotStateRF s.upd.slot) 1).checkParts (slotAt s.upd.slot)).2.checkSet (slotAt s.upd.slot) []).1 = 0 ∧ (((((s.setF UPD_STAT_STATE 1).setF (slotStateRF s.upd.slot) 1).checkParts (slotAt s.upd.slot)).2.checkSet (slotAt s.upd.slot) []).2.checkRemote (slotAt s.upd.slot) [r1, r2, r3]).1 = 0) →
    answers (.updCheck init [] r1 r2 r3) s fun t =>
      t.f UPD_STAT_RESULT = 0 ∧ t.f UPD_STAT_STATE = 2 ∧ t.f (slotStateRF s.upd.slot) = 2 ∧
      (t.verdict s.upd.slot).gen = s.pkGen (slotAt s.upd.slot) ∧ t.upd.exps = s.expNamed (slotAt s.upd.slot) ∧ t.upd.busy = s.upd.busy ∧ t.mram = s.mram) ∧
  (∀ (init : Byte) (a b : BitVec 3) (s : State),
    s.updMay init.toNat = true →
    s.on UPD_STAT_BUSY = false →
    s.f UPD_STAT_STATE = 2 →
    s.upd.slot < 2 →
    (s.upd.exps.all (fun n => s.expTrained n && bitOf a.toNat (n - 1)) = true) →
    (s.upd.exps.all (fun n => bitOf b.toNat (n - 1)) = true) →
    answers (.updActivate init a b) s fun t =>
      t.f UPD_STAT_RESULT = 0 ∧ t.f UPD_SLOTS_ACTIVE = s.upd.slot ∧ t.boot.due = some (8, 0, 0) ∧
      (t.f (slotStateRF s.upd.slot) = (if (s.boot.phase ≠ .recovery ∨ s.f (slotStateRF (1 - s.upd.slot)) = 4) then 3 else 4) ∧ t.f UPD_STAT_STATE = (if (s.boot.phase ≠ .recovery ∨ s.f (slotStateRF (1 - s.upd.slot)) = 4) then 3 else 0)) ∧
      t.f UPD_LAST_GEN_GEN = s.pkGen (slotAt s.upd.slot) ∧ t.f UPD_LAST_OUTCOME = 1 ∧
      t.f (slotStateRF (1 - s.upd.slot)) = s.f (slotStateRF (1 - s.upd.slot)) ∧ t.mram = s.mram) ∧
  (∀ (init : Byte) (a b : BitVec 3) (s : State),
    s.updMay init.toNat = true →
    s.on UPD_STAT_BUSY = false →
    s.f UPD_STAT_STATE = 2 →
    (s.upd.exps.any (fun n => !s.expTrained n || !bitOf a.toNat (n - 1)) = true) →
    answers (.updActivate init a b) s fun t =>
      t.f UPD_STAT_RESULT = 9 ∧ t.reg UPD_SLOTS = s.reg UPD_SLOTS ∧ t.f UPD_STAT_STATE = 2 ∧ t.boot = s.boot ∧
      t.mram = s.mram ∧ t.upd = s.upd) ∧
  (∀ (init : Byte) (a b : BitVec 3) (s : State),
    s.updMay init.toNat = true →
    s.on UPD_STAT_BUSY = false →
    s.f UPD_STAT_STATE = 2 →
    (s.upd.exps.all (fun n => s.expTrained n && bitOf a.toNat (n - 1)) = true) →
    (s.upd.exps.any (fun n => !bitOf b.toNat (n - 1)) = true) →
    answers (.updActivate init a b) s fun t =>
      t.f UPD_LAST_OUTCOME = 3 ∧ t.f UPD_LAST_CAUSE = 5 ∧ t.f UPD_FLAG_REVERTED = 1 ∧ t.reg UPD_SLOTS = s.reg UPD_SLOTS ∧ t.boot = s.boot ∧
      t.mram = s.mram ∧ t.upd = { s.upd with busy := false, exps := [], trialNew := false } ∧ t.f UPD_STAT_STATE = s.updRest) ∧
  (∀ (init : Byte) (s : State),
    s.updMay init.toNat = true →
    s.on UPD_STAT_BUSY = false →
    (s.f UPD_STAT_STATE = 1 ∨ s.f UPD_STAT_STATE = 2) →
    s.upd.slot < 2 →
    answers (.updAbort init) s fun t =>
      t.f UPD_STAT_RESULT = 0 ∧ t.f UPD_STAT_STATE = s.updRest ∧ t.f (slotStateRF s.upd.slot) = 1 ∧
      t.upd = { s.upd with busy := false, exps := [] } ∧ t.mram = s.mram ∧ t.f UPD_SLOTS_ACTIVE = s.f UPD_SLOTS_ACTIVE) ∧
  (∀ (init : Byte) (s : State),
    s.updMay init.toNat = true →
    s.on UPD_STAT_BUSY = false →
    (s.f UPD_STAT_STATE ≠ 1 ∧ s.f UPD_STAT_STATE ≠ 2) →
    answers (.updAbort init) s fun t =>
      t.f UPD_STAT_RESULT = 1 ∧ t.reg UPD_SLOTS = s.reg UPD_SLOTS ∧
      t.mram = s.mram ∧ t.upd = s.upd) ∧
  (∀ (s : State),
    s.f UPD_STAT_STATE = 3 →
    s.f TRK_CFG_ROLE = 0 →
    answers (.trialTimeout) s fun t =>
      t.f (slotStateRF (s.f UPD_SLOTS_ACTIVE)) = 5 ∧ t.f UPD_SLOTS_ACTIVE = 1 - s.f UPD_SLOTS_ACTIVE ∧ t.f UPD_STAT_STATE = 0 ∧ t.f UPD_FLAG_REVERTED = 1 ∧ t.boot.due = some (8, 0, 0) ∧ t.upd.busy = false ∧ t.mram = s.mram ∧
      t.f UPD_LAST_OUTCOME = 3 ∧ t.f UPD_LAST_CAUSE = 1) ∧
  (∀ (g : Word) (o : Fin 4) (s : State),
    s.f UPD_STAT_STATE = 3 →
    s.f TRK_CFG_ROLE ≠ 0 →
    g.toNat = s.f UPD_ACTIVE_GEN_GEN →
    o = 2 →
    answers (.expansionTrialDecide g o) s fun t =>
      t.f (slotStateRF (s.f UPD_SLOTS_ACTIVE)) = 4 ∧ t.f UPD_SLOTS_ACTIVE = s.f UPD_SLOTS_ACTIVE ∧ t.f UPD_STAT_STATE = 0 ∧ t.f UPD_FLAG_ACCEPTED = 1 ∧ t.upd.busy = false ∧ t.boot = s.boot) ∧
  (∀ (g : Word) (o : Fin 4) (s : State),
    s.f UPD_STAT_STATE = 3 →
    s.f TRK_CFG_ROLE ≠ 0 →
    g.toNat = s.f UPD_ACTIVE_GEN_GEN →
    o = 1 →
    answers (.expansionTrialDecide g o) s fun t =>
      t = s) ∧
  (∀ (g : Word) (o : Fin 4) (s : State),
    s.f UPD_STAT_STATE = 3 →
    s.f TRK_CFG_ROLE ≠ 0 →
    (¬(g.toNat = s.f UPD_ACTIVE_GEN_GEN ∧ (o = 1 ∨ o = 2))) →
    answers (.expansionTrialDecide g o) s fun t =>
      t.f (slotStateRF (s.f UPD_SLOTS_ACTIVE)) = 5 ∧ t.f UPD_SLOTS_ACTIVE = 1 - s.f UPD_SLOTS_ACTIVE ∧ t.f UPD_STAT_STATE = 0 ∧ t.f UPD_FLAG_REVERTED = 1 ∧ t.boot.due = some (8, 0, 0) ∧ t.upd.busy = false ∧ t.mram = s.mram)

/-- Power-on, release of a full reset, exit from Deep sleep, self-test, Script load, lazy sections and recovery. Power-on
release above its threshold starts from memories of zeros, but for its first record in the Dailies ring, with every
die all off, keeps MRAM and takes role, recovery request, class and fallback from its inputs (R52, R70, R107, R109,
R113); the boot starts where the pin is high, and else waits in full reset (R61). Release of a full reset keeps what
dies hold and the Larder (R109, R114). A Deep sleep exit shows cause 9, keeps the Attic and of the Larder only the
Script's areas (R76, R109). Each boot counts ZRT_EPOCH (R366). A passed self-test releases the Strongroom with the
debug port by lifecycle and chooses the slot, or recovery where it was requested; the third reset in trial reverts
(R504, R509); a failed one is tried again, the third stops the module (R466). A valid Script loads, the stage links
train and dies are adopted; another is recorded, its slot is FAILED and either the other slot is booted or recovery
is due (R495, R504). A lazy section loads after Run and the last one clears PENDING (R494). Recovery, when due, is
entered with its flag (R513). Says that these complete: powerOnResetRelease, fullResetRelease, deepSleepExit,
strongroomSelfTest, scriptLoad, lazySectionLoad, recoveryEntry. -/
def Obligations.Starts : Prop :=
  (∀ (role : Fin 4) (rn x cab : Bool) (v : BitVec 16) (s : State),
    thrPorRelease < v.toNat →
    s.boot.pinLow = false →
    answers (.powerOnResetRelease role rn x cab v) s fun t =>
      t.mram = s.mram ∧ t.variant = s.variant ∧ t.dies = [] ∧ t.dieChs = [] ∧ t.engs = [] ∧ t.mem.all (fun e => dlyRing ≤ e.1 && e.1 < dlyRing + 32) = true ∧
      t.f TRK_CFG_ROLE = role ∧ t.on PWR_CFG_SYS24 = decide (20000 < v.toNat) ∧ t.on CLK_OSC_STAT_FALLBACK = !x ∧
      t.boot.por = false ∧ t.boot.warm = false ∧ t.f PWR_STATE_STATE = 0 ∧
      t.boot.phase = .strong ∧ t.boot.recov = !rn ∧ t.boot.cabOk = cab ∧ t.f DLY_BOOT_BOOT = (s.f DLY_BOOT_BOOT + 1) % 2 ^ DLY_BOOT_BOOT.w) ∧
  (∀ (role : Fin 4) (rn x cab : Bool) (v : BitVec 16) (s : State),
    thrPorRelease < v.toNat →
    s.boot.pinLow = true →
    answers (.powerOnResetRelease role rn x cab v) s fun t =>
      t.boot.phase = .reset ∧ t.boot.por = false ∧ t.boot.pinLow = true ∧ t.boot.recov = !rn ∧
      t.mram = s.mram ∧ t.variant = s.variant ∧ t.dies = [] ∧ t.dieChs = [] ∧ t.engs = [] ∧ t.f TRK_CFG_ROLE = role) ∧
  (∀ (x cab : Bool) (v : BitVec 16) (s : State),
    s.boot.phase = .reset →
    (s.boot.por = false ∧ s.boot.pinLow = false ∧ s.boot.due = none) →
    (s.boot.waitVbat = true → thrBrownRise < v.toNat) →
    answers (.fullResetRelease x cab v) s fun t =>
      (t.mem = s.mem ∧ t.mram = s.mram ∧ (v.toNat ≤ thrDieRise → t.dies = s.dies) ∧ t.dieChs = s.dieChs) ∧
      t.on CLK_OSC_STAT_FALLBACK = !x ∧ t.f ZRT_EPOCH_EPOCH = (s.f ZRT_EPOCH_EPOCH + 1) % 2 ^ ZRT_EPOCH_EPOCH.w ∧
      t.boot.phase = .strong ∧ t.boot.tries = 0 ∧ t.boot.waitVbat = false ∧ t.boot.cabOk = cab) ∧
  (∀ (x cab : Bool) (v : BitVec 16) (s : State),
    s.boot.pinLow = true →
    answers (.fullResetRelease x cab v) s fun t =>
      t = s) ∧
  (∀ (x cab : Bool) (s : State),
    s.f PWR_STATE_STATE = 3 →
    s.pwr.exit = true →
    s.canonical = true →
    answers (.deepSleepExit x cab) s fun t =>
      t.f SYS_RESET_CAUSE_CAUSE = 9 ∧ t.f PWR_STATE_LAST_STATE = 3 ∧ t.f PWR_STATE_STATE = 0 ∧
      memKept 0x01200000 0x20000 s t ∧ t.mram = s.mram ∧ t.dies = s.dies ∧
      (s.scr.attic = [] → t.mem.all (fun e => !inLarderAt e.1) = true) ∧
      t.boot.deepExit = true ∧ t.boot.warm = true) ∧
  (∀ (s : State),
    s.boot.phase = .strong →
    s.boot.due = none →
    answers (.strongroomSelfTest true) s fun t =>
      t.f STR_RNG_STAT_HEALTHY = 1 ∧ t.f STR_RNG_STAT_RESEEDS = (s.f STR_RNG_STAT_RESEEDS + 1) % 2 ^ STR_RNG_STAT_RESEEDS.w ∧
      (t.f STR_LIFECYCLE_DEBUG_OPEN = (if s.f STR_LIFECYCLE_STATE = 2 then 0 else 1)) ∧
      ((s.f UPD_STAT_STATE = 3 ∧ 3 ≤ s.f UPD_STAT_RESETS) → t.boot.due = some (8, 0, 0) ∧ t.f (slotStateRF (s.f UPD_SLOTS_ACTIVE)) = 5) ∧
      ((s.f UPD_STAT_STATE ≠ 3 ∨ s.f UPD_STAT_RESETS < 3) → t.boot.phase = .script ∧ t.boot.due = none ∧ ((s.boot.recov = true ∨ s.str.recovery = true) → t.boot.recDue = true)) ∧
      t.dies = s.dies ∧ t.links = s.links ∧ t.engs = s.engs) ∧
  (∀ (s : State),
    s.boot.phase = .strong →
    s.boot.tries < 2 →
    s.boot.due = none →
    answers (.strongroomSelfTest false) s fun t =>
      t.boot = { s.boot with tries := s.boot.tries + 1 } ∧ s.sameBut [.boot] t) ∧
  (∀ (s : State),
    s.boot.phase = .strong →
    2 ≤ s.boot.tries →
    s.boot.due = none →
    answers (.strongroomSelfTest false) s fun t =>
      t.boot = { s.boot with phase := .dead } ∧ s.sameBut [.boot] t) ∧
  (∀ (v : BitVec 16) (s : State),
    s.boot.phase = .script →
    s.boot.recDue = false →
    s.on STR_SCRIPT_VERDICT_VALID = true →
    answers (.scriptLoad v) s fun t =>
      (s.scriptTakes = true → t.boot.phase = .adopt ∧ t.f STR_SCRIPT_VERDICT_VALID = 1 ∧ (∀ n : Fin 14, s.dieLinks.contains n.val = true → (t.lnk n).trained = true)) ∧
      (s.scriptTakes = false → t.boot.phase = .script ∧ t.f UPD_FLAG_REJECTED = 1 ∧ t.f UPD_REJ0_VALID = 1 ∧ t.f (slotStateRF (s.f STR_SCRIPT_VERDICT_SLOT)) = 5) ∧
      (s.scriptTakes = false → if t.boot.recDue then t.f STR_SCRIPT_VERDICT_VALID = 0
      else t.f STR_SCRIPT_VERDICT_VALID = 1 ∧ t.f STR_SCRIPT_VERDICT_SLOT = 1 - s.f STR_SCRIPT_VERDICT_SLOT ∧ t.f UPD_FLAG_SLOT_FALLBACK = 1 ∧ t.f UPD_SLOTS_ACTIVE = 1 - s.f STR_SCRIPT_VERDICT_SLOT) ∧
      t.mram = s.mram) ∧
  (∀ (x : Nat × List Byte) (l : List (Nat × List Byte)) (s : State),
    s.upd.lazy = x :: l →
    s.boot.phase = .run →
    answers (.lazySectionLoad) s fun t =>
      t.upd.lazy = l ∧ t.mem = (s.sectTaken x).mem ∧ t.boot = s.boot ∧
      (l = [] → t.f UPD_LAZY_PENDING = 0) ∧
      ((x.1 ≠ 1 ∧ l ≠ []) → t.regs = (s.sectTaken x).regs)) ∧
  (∀ (s : State),
    s.boot.phase = .script →
    s.boot.recDue = true →
    answers (.recoveryEntry) s fun t =>
      t.boot = { s.boot with phase := .recovery, recov := false } ∧ t.f UPD_STAT_STATE = 4 ∧ t.f UPD_FLAG_RECOVERY = 1 ∧
      t.mem = s.mem ∧ t.mram = s.mram ∧ t.dies = s.dies ∧
      t.str.recovery = false)

/-- NM messages of the ring: reception, membership, turns, breaks and members that fall silent. A frame from BASE_ID to
BASE_ID + 63, base format, DLC 4 or more, is an NM message of node identifier minus BASE_ID; any other leaves the NM
unit as it was (R373). The unit hears a controller that reads the bus with the Bus island clocked (State.canHears).
Its sender is a member from now on and the successor shows the lowest member above the own node ID, else the lowest
(R374). A ring message that names the module, or an ALIVE message where the module is the lowest member, gives it the
next turn. SLEEP_ACK takes READY to WAIT_BUS_SLEEP, stamped and cued, and makes a module in AWAKE answer ALIVE with
WAKE, cause 2; in other states it changes none (R377). With the Bus island clocked, at its turn the module sends its
ring message, with SLEEP_ACK exactly where it is READY and every member has sent a ring message, all with SLEEP_IND,
since its last (R376). A broken ring is counted, flagged, cued, membership rebuilds from the module alone and an
ALIVE message goes out (R374). A silent member leaves (R374). Says that these complete: nmMessageReceived, nmTurn,
nmRingBroken, nmMemberExpire. -/
def Obligations.NmRing : Prop :=
  (∀ (n : Fin 8) (f : CanFrame) (s : State),
    (s.nmOn n = false ∨ f.ide = true ∨ f.rtr = true ∨ f.id.toNat < s.f (NM_SEG_CFG0_BASE_ID n) ∨ s.f (NM_SEG_CFG0_BASE_ID n) + 63 < f.id.toNat ∨ f.dlc.toNat < 4) →
    answers (.nmMessageReceived n f) s fun t =>
      t = s) ∧
  (∀ (n : Fin 8) (f : CanFrame) (s : State),
    s.nmOn n = true →
    f.ide = false →
    f.rtr = false →
    s.f (NM_SEG_CFG0_BASE_ID n) ≤ f.id.toNat →
    f.id.toNat ≤ s.f (NM_SEG_CFG0_BASE_ID n) + 63 →
    4 ≤ f.dlc.toNat →
    (bitOf (sliceLE f.data 1 1) 2) = false →
    s.canHears n = true →
    answers (.nmMessageReceived n f) s fun t =>
      t.members n = (List.range 64).filter (fun m => m = (f.id.toNat - s.f (NM_SEG_CFG0_BASE_ID n)) || (s.members n).contains m) ∧ t.f (NM_SEG_STAT_SUCCESSOR n) = t.successor n ∧
      ((t.seg n).nodes.any (fun e => e.1 = (f.id.toNat - s.f (NM_SEG_CFG0_BASE_ID n)) && e.2.last = s.now && e.2.ind = (if bitOf (sliceLE f.data 1 1) 0 then (tget (fun _ => ({} : NmNode)) (s.seg n).nodes (f.id.toNat - s.f (NM_SEG_CFG0_BASE_ID n))).ind else bitOf (sliceLE f.data 1 1) 1)) = true) ∧
      (t.seg n).allInd = ((s.seg n).allInd && (bitOf (sliceLE f.data 1 1) 0 || bitOf (sliceLE f.data 1 1) 1)) ∧
      ((t.seg n).turn = ((s.seg n).turn || (if bitOf (sliceLE f.data 1 1) 0 then decide ((t.members n).headD (s.f (NM_SEG_CFG0_NODE_ID n)) = s.f (NM_SEG_CFG0_NODE_ID n)) else decide (sliceLE f.data 0 1 % 0x40 = s.f (NM_SEG_CFG0_NODE_ID n))))) ∧
      t.f (NM_SEG_STAT_STATE n) = s.f (NM_SEG_STAT_STATE n) ∧ t.cans = s.cans) ∧
  (∀ (n : Fin 8) (f : CanFrame) (s : State),
    s.nmOn n = true →
    f.ide = false →
    f.rtr = false →
    s.f (NM_SEG_CFG0_BASE_ID n) ≤ f.id.toNat →
    f.id.toNat ≤ s.f (NM_SEG_CFG0_BASE_ID n) + 63 →
    4 ≤ f.dlc.toNat →
    (bitOf (sliceLE f.data 1 1) 2) = true →
    s.f (NM_SEG_STAT_STATE n) = nsREADY →
    s.canHears n = true →
    answers (.nmMessageReceived n f) s fun t =>
      t.members n = (List.range 64).filter (fun m => m = (f.id.toNat - s.f (NM_SEG_CFG0_BASE_ID n)) || (s.members n).contains m) ∧ t.f (NM_SEG_STAT_SUCCESSOR n) = t.successor n ∧
      ((t.seg n).nodes.any (fun e => e.1 = (f.id.toNat - s.f (NM_SEG_CFG0_BASE_ID n)) && e.2.last = s.now && e.2.ind = (if bitOf (sliceLE f.data 1 1) 0 then (tget (fun _ => ({} : NmNode)) (s.seg n).nodes (f.id.toNat - s.f (NM_SEG_CFG0_BASE_ID n))).ind else bitOf (sliceLE f.data 1 1) 1)) = true) ∧
      (t.seg n).allInd = ((s.seg n).allInd && (bitOf (sliceLE f.data 1 1) 0 || bitOf (sliceLE f.data 1 1) 1)) ∧
      ((t.seg n).turn = ((s.seg n).turn || (if bitOf (sliceLE f.data 1 1) 0 then decide ((t.members n).headD (s.f (NM_SEG_CFG0_NODE_ID n)) = s.f (NM_SEG_CFG0_NODE_ID n)) else decide (sliceLE f.data 0 1 % 0x40 = s.f (NM_SEG_CFG0_NODE_ID n))))) ∧
      t.f (NM_SEG_STAT_STATE n) = nsWAIT ∧ t.cans = s.cans ∧
      (s.f NM_CFG_NM_ENGINE ≠ 0 → t.offers.any (fun o => o.target = s.f NM_CFG_NM_ENGINE && o.cue.cls = 7 && o.cue.code = 0x01 && o.cue.index = 0x23 && o.cue.arg = n.val) = true)) ∧
  (∀ (n : Fin 8) (f : CanFrame) (s : State),
    s.nmOn n = true →
    f.ide = false →
    f.rtr = false →
    s.f (NM_SEG_CFG0_BASE_ID n) ≤ f.id.toNat →
    f.id.toNat ≤ s.f (NM_SEG_CFG0_BASE_ID n) + 63 →
    4 ≤ f.dlc.toNat →
    (bitOf (sliceLE f.data 1 1) 2) = true →
    s.f (NM_SEG_STAT_STATE n) = nsAWAKE →
    s.canHears n = true →
    answers (.nmMessageReceived n f) s fun t =>
      t.members n = (List.range 64).filter (fun m => m = (f.id.toNat - s.f (NM_SEG_CFG0_BASE_ID n)) || (s.members n).contains m) ∧ t.f (NM_SEG_STAT_SUCCESSOR n) = t.successor n ∧
      ((t.seg n).nodes.any (fun e => e.1 = (f.id.toNat - s.f (NM_SEG_CFG0_BASE_ID n)) && e.2.last = s.now && e.2.ind = (if bitOf (sliceLE f.data 1 1) 0 then (tget (fun _ => ({} : NmNode)) (s.seg n).nodes (f.id.toNat - s.f (NM_SEG_CFG0_BASE_ID n))).ind else bitOf (sliceLE f.data 1 1) 1)) = true) ∧
      (t.seg n).allInd = ((s.seg n).allInd && (bitOf (sliceLE f.data 1 1) 0 || bitOf (sliceLE f.data 1 1) 1)) ∧
      ((t.seg n).turn = ((s.seg n).turn || (if bitOf (sliceLE f.data 1 1) 0 then decide ((t.members n).headD (s.f (NM_SEG_CFG0_NODE_ID n)) = s.f (NM_SEG_CFG0_NODE_ID n)) else decide (sliceLE f.data 0 1 % 0x40 = s.f (NM_SEG_CFG0_NODE_ID n))))) ∧
      t.f (NM_SEG_STAT_STATE n) = nsAWAKE ∧
      (t.can n).nm = some [BitVec.ofNat 8 (t.successor n), BitVec.ofNat 8 (9 + 2 * s.f (NM_SEG_STAT_SLEEP_IND n)), 2, 0]) ∧
  (∀ (n : Fin 8) (f : CanFrame) (s : State),
    s.nmOn n = true →
    f.ide = false →
    f.rtr = false →
    s.f (NM_SEG_CFG0_BASE_ID n) ≤ f.id.toNat →
    f.id.toNat ≤ s.f (NM_SEG_CFG0_BASE_ID n) + 63 →
    4 ≤ f.dlc.toNat →
    (bitOf (sliceLE f.data 1 1) 2) = true →
    (s.f (NM_SEG_STAT_STATE n) ≠ nsREADY ∧ s.f (NM_SEG_STAT_STATE n) ≠ nsAWAKE) →
    s.canHears n = true →
    answers (.nmMessageReceived n f) s fun t =>
      t.members n = (List.range 64).filter (fun m => m = (f.id.toNat - s.f (NM_SEG_CFG0_BASE_ID n)) || (s.members n).contains m) ∧ t.f (NM_SEG_STAT_SUCCESSOR n) = t.successor n ∧
      ((t.seg n).nodes.any (fun e => e.1 = (f.id.toNat - s.f (NM_SEG_CFG0_BASE_ID n)) && e.2.last = s.now && e.2.ind = (if bitOf (sliceLE f.data 1 1) 0 then (tget (fun _ => ({} : NmNode)) (s.seg n).nodes (f.id.toNat - s.f (NM_SEG_CFG0_BASE_ID n))).ind else bitOf (sliceLE f.data 1 1) 1)) = true) ∧
      (t.seg n).allInd = ((s.seg n).allInd && (bitOf (sliceLE f.data 1 1) 0 || bitOf (sliceLE f.data 1 1) 1)) ∧
      t.f (NM_SEG_STAT_STATE n) = s.f (NM_SEG_STAT_STATE n) ∧ t.cans = s.cans) ∧
  (∀ (n : Fin 8) (f : CanFrame) (s : State),
    s.nmOn n = true →
    f.ide = false →
    f.rtr = false →
    s.f (NM_SEG_CFG0_BASE_ID n) ≤ f.id.toNat →
    f.id.toNat ≤ s.f (NM_SEG_CFG0_BASE_ID n) + 63 →
    4 ≤ f.dlc.toNat →
    ((bitOf (sliceLE f.data 1 1) 1) = true ∧ (bitOf (sliceLE f.data 1 1) 0) = false) →
    ((s.seg n).nodes.any (fun e => e.1 = (f.id.toNat - s.f (NM_SEG_CFG0_BASE_ID n))) = true) →
    ((tget (fun _ => ({} : NmNode)) (s.seg n).nodes (f.id.toNat - s.f (NM_SEG_CFG0_BASE_ID n))).reported = true) →
    s.canHears n = true →
    answers (.nmMessageReceived n f) s fun t =>
      (s.f NM_CFG_NM_ENGINE ≠ 0 → t.offers.any (fun o => o.target = s.f NM_CFG_NM_ENGINE && o.cue.cls = 7 && o.cue.code = 0x05 && o.cue.index = 0x23 && o.cue.arg = n.val) = true) ∧
      (t.seg n).nodes.any (fun e => e.1 = (f.id.toNat - s.f (NM_SEG_CFG0_BASE_ID n)) && !e.2.reported) = true) ∧
  (∀ (n : Fin 8) (s : State),
    s.nmOn n = true →
    (s.seg n).turn = true →
    (s.f (NM_SEG_STAT_STATE n) = nsAWAKE ∨ s.f (NM_SEG_STAT_STATE n) = nsREADY) →
    s.clocked 11 = true →
    answers (.nmTurn n) s fun t =>
      ((t.can n).nm = some [BitVec.ofNat 8 (s.successor n), BitVec.ofNat 8 (2 * s.f (NM_SEG_STAT_SLEEP_IND n) + (if s.f (NM_SEG_STAT_STATE n) = nsREADY ∧ (s.seg n).allInd = true ∧ (s.seg n).nodes.all (fun e => e.2.rang || e.2.gone) = true then 4 else 0)), 0, 0]) ∧
      (t.seg n).turn = false ∧ (t.seg n).allInd = true ∧ (t.seg n).nodes.all (fun e => !e.2.rang) = true ∧ t.members n = s.members n ∧
      t.regs = s.regs) ∧
  (∀ (n : Fin 8) (s : State),
    (s.nmOn n = false ∨ (s.seg n).turn = false ∨ (s.f (NM_SEG_STAT_STATE n) ≠ nsAWAKE ∧ s.f (NM_SEG_STAT_STATE n) ≠ nsREADY)) →
    answers (.nmTurn n) s fun t =>
      t = s) ∧
  (∀ (n : Fin 8) (s : State),
    s.nmOn n = true →
    (s.f (NM_SEG_STAT_STATE n) = nsAWAKE ∨ s.f (NM_SEG_STAT_STATE n) = nsREADY) →
    s.clocked 11 = true →
    answers (.nmRingBroken n) s fun t =>
      t.f (NM_SEG_CNT_RING_BROKEN n) = min (s.f (NM_SEG_CNT_RING_BROKEN n) + 1) (2 ^ RF.w (NM_SEG_CNT_RING_BROKEN n) - 1) ∧ t.f NM_FLAG_RING_BROKEN = 1 ∧
      (s.f NM_CFG_NM_ENGINE ≠ 0 → t.offers.any (fun o => o.target = s.f NM_CFG_NM_ENGINE && o.cue.cls = 7 && o.cue.code = 0x03 && o.cue.index = 0x23 && o.cue.arg = n.val) = true) ∧
      t.members n = [s.f (NM_SEG_CFG0_NODE_ID n)] ∧ t.f (NM_SEG_STAT_SUCCESSOR n) = s.f (NM_SEG_CFG0_NODE_ID n) ∧
      (t.can n).nm = some [BitVec.ofNat 8 (s.f (NM_SEG_CFG0_NODE_ID n)), BitVec.ofNat 8 (1 + 2 * s.f (NM_SEG_STAT_SLEEP_IND n)), 0, 0] ∧ (t.seg n).turn = false ∧
      t.f (NM_SEG_STAT_STATE n) = s.f (NM_SEG_STAT_STATE n)) ∧
  (∀ (n : Fin 8) (node : Fin 64) (s : State),
    node.val ≠ s.f (NM_SEG_CFG0_NODE_ID n) →
    s.clocked 11 = true →
    answers (.nmMemberExpire n node) s fun t =>
      t.members n = (s.members n).filter (fun m => m ≠ node.val) ∧ t.f (NM_SEG_STAT_SUCCESSOR n) = t.successor n ∧
      regsBut [NM_SEG_MEMBERS_LO n, NM_SEG_MEMBERS_HI n, NM_SEG_STAT n] s t ∧ s.sameBut [.regs, .nm] t)

/-- NM segments: listening, readiness, bus sleep, local wakes with late wakes, insomnia and TC10. With the Bus island
clocked, and no clock fallback for the transceivers and the link (R107): LISTEN ends in BUS_SLEEP with REQ SLEEP. A
CAN segment in AWAKE whose conditions of R375 hold becomes READY with SLEEP_IND; a LIN commander sends go-to-sleep
and waits. WAIT_BUS_SLEEP ends in BUS_SLEEP with REQ SLEEP, counted (R377, R381). A write of AWAKE by another
initiator is ignored; a permitted one is kept, and AWAKE = 1 wakes the segment: from WAIT_BUS_SLEEP at once as a
LATE_WAKE of phase 1 with an ALIVE message of WAKE, cause 2; from BUS_SLEEP with NORMAL requested; in GOING_SLEEP it
is held and counted as late, phase 2 (R378, R379). Insomnia takes the member's row, or the lowest free, else counts
in NM_INS_OVF; it is counted, stamped, flagged and cued once; CLEAR empties the table (R384). An uplink accepts a
TC10 sleep request where R375 holds and else stays AWAKE; a wake from the partner wakes it and, with WAKE_FWD, the
other (R383). The link state of an uplink shows (R232); its rise is stated outside clock fallback. Says that these
complete: nmListenTimeout, nmReady, nmWaitBusSleepExpire, nmAwakeWrite, nmInsomnia, nmInsomniaClear,
tc10SleepRequest, tc10Wake, uplinkLinkDown, uplinkLinkUp. -/
def Obligations.NmSegments : Prop :=
  (∀ (n : Fin 8) (s : State),
    s.nmOn n = true →
    s.f (NM_SEG_STAT_STATE n) = nsLISTEN →
    s.clocked 11 = true →
    answers (.nmListenTimeout n) s fun t =>
      t.f (NM_SEG_STAT_STATE n) = nsSLEEP ∧ t.f (CAN_TRX_CTL_REQ n) = 3 ∧ t.f (NM_SEG_CNT_SLEEPS n) = min (s.f (NM_SEG_CNT_SLEEPS n) + 1) (2 ^ RF.w (NM_SEG_CNT_SLEEPS n) - 1) ∧
      (s.f NM_CFG_NM_ENGINE ≠ 0 → t.offers.any (fun o => o.target = s.f NM_CFG_NM_ENGINE && o.cue.cls = 7 && o.cue.code = 0x01 && o.cue.index = 0x23 && o.cue.arg = n.val) = true)) ∧
  (∀ (n : Fin 8) (s : State),
    (s.nmOn n = false ∨ s.f (NM_SEG_STAT_STATE n) ≠ nsLISTEN) →
    answers (.nmListenTimeout n) s fun t =>
      t = s) ∧
  (∀ (k : Fin 19) (s : State),
    s.nmOn k = true →
    s.f (NM_SEG_STAT_STATE k) = nsAWAKE →
    s.nmMaySleep k = true →
    k.val < 8 →
    s.clocked 11 = true →
    answers (.nmReady k) s fun t =>
      t.f (NM_SEG_STAT_STATE k) = nsREADY ∧ t.f (NM_SEG_STAT_SLEEP_IND k) = 1 ∧
      (s.f NM_CFG_NM_ENGINE ≠ 0 → t.offers.any (fun o => o.target = s.f NM_CFG_NM_ENGINE && o.cue.cls = 7 && o.cue.code = 0x01 && o.cue.index = 0x23 && o.cue.arg = k.val) = true) ∧
      (t.seg k).readyAt = s.now ∧ t.trx = s.trx ∧ t.cans = s.cans) ∧
  (∀ (k : Fin 19) (s : State),
    s.nmOn k = true →
    s.f (NM_SEG_STAT_STATE k) = nsAWAKE →
    s.nmMaySleep k = true →
    (8 ≤ k.val ∧ k.val < 16) →
    s.f (LIN_CFG0_ROLE (k - 8)) = 0 →
    s.clocked 11 = true →
    answers (.nmReady k) s fun t =>
      t.f (NM_SEG_STAT_STATE k) = nsWAIT ∧ t.f (NM_SEG_STAT_SLEEP_IND k) = 1 ∧
      (t.lin (k - 8)).sleepReq = true ∨ (t.f (LIN_CTL_RUN (k - 8)) = 0 ∧ (t.lin (k - 8)).started = false) ∧
      (s.f NM_CFG_NM_ENGINE ≠ 0 → t.offers.any (fun o => o.target = s.f NM_CFG_NM_ENGINE && o.cue.cls = 7 && o.cue.code = 0x01 && o.cue.index = 0x23 && o.cue.arg = k.val) = true)) ∧
  (∀ (k : Fin 19) (s : State),
    (s.nmOn k = false ∨ s.f (NM_SEG_STAT_STATE k) ≠ nsAWAKE ∨ s.nmMaySleep k = false) →
    answers (.nmReady k) s fun t =>
      t = s) ∧
  (∀ (k : Fin 19) (s : State),
    s.nmOn k = true →
    s.f (NM_SEG_STAT_STATE k) = nsWAIT →
    k.val < 16 →
    s.clocked 11 = true →
    s.boot.xtalBad = false →
    answers (.nmWaitBusSleepExpire k) s fun t =>
      t.f (NM_SEG_STAT_STATE k) = nsSLEEP ∧ t.f (NM_SEG_STAT_SLEEP_IND k) = 0 ∧ t.f (NM_SEG_CNT_SLEEPS k) = min (s.f (NM_SEG_CNT_SLEEPS k) + 1) (2 ^ RF.w (NM_SEG_CNT_SLEEPS k) - 1) ∧
      (t.f (trxReqRF k) = trSLEEP ∧ (s.f (trxStateRF k) ≠ trSLEEP → t.f (trxStateRF k) = trGOING)) ∧
      (s.f NM_CFG_NM_ENGINE ≠ 0 → t.offers.any (fun o => o.target = s.f NM_CFG_NM_ENGINE && o.cue.cls = 7 && o.cue.code = 0x01 && o.cue.index = 0x23 && o.cue.arg = k.val) = true)) ∧
  (∀ (k : Fin 19) (s : State),
    (s.nmOn k = false ∨ s.f (NM_SEG_STAT_STATE k) ≠ nsWAIT ∨ 16 ≤ k.val) →
    answers (.nmWaitBusSleepExpire k) s fun t =>
      t = s) ∧
  (∀ (k : Fin 19) (init : Byte) (v : Bool) (s : State),
    (isStr init.toNat || (isEngine init.toNat && s.f NM_CFG_NM_ENGINE = init.toNat) || (isSession init.toNat && bitOf (s.f NM_CFG_ZRT_GRANT) (init.toNat - 0x40))) = false →
    answers (.nmAwakeWrite k init v) s fun t =>
      t = s) ∧
  (∀ (k : Fin 19) (init : Byte) (s : State),
    (isStr init.toNat || (isEngine init.toNat && s.f NM_CFG_NM_ENGINE = init.toNat) || (isSession init.toNat && bitOf (s.f NM_CFG_ZRT_GRANT) (init.toNat - 0x40))) = true →
    s.clocked 11 = true →
    (16 ≤ k.val ∨ s.busPresent (k % 8) = true) →
    answers (.nmAwakeWrite k init false) s fun t =>
      t.f (NM_SEG_CTL_AWAKE k) = 0 ∧ regsBut [NM_SEG_CTL k] s t ∧ s.sameBut [.regs] t) ∧
  (∀ (k : Fin 19) (init : Byte) (s : State),
    (isStr init.toNat || (isEngine init.toNat && s.f NM_CFG_NM_ENGINE = init.toNat) || (isSession init.toNat && bitOf (s.f NM_CFG_ZRT_GRANT) (init.toNat - 0x40))) = true →
    s.nmOn k = true →
    k.val < 8 →
    s.f (NM_SEG_STAT_STATE k) = nsWAIT →
    s.clocked 11 = true →
    (16 ≤ k.val ∨ s.busPresent (k % 8) = true) →
    s.boot.xtalBad = false →
    answers (.nmAwakeWrite k init true) s fun t =>
      t.f (NM_SEG_STAT_STATE k) = nsAWAKE ∧ t.f (NM_SEG_STAT_SLEEP_IND k) = 0 ∧ t.f (NM_SEG_CNT_LATE_WAKES k) = min (s.f (NM_SEG_CNT_LATE_WAKES k) + 1) (2 ^ RF.w (NM_SEG_CNT_LATE_WAKES k) - 1) ∧ t.f NM_FLAG_LATE_WAKE = 1 ∧
      t.f (NM_SEG_STAT_LAST_CAUSE k) = 2 ∧ t.f (NM_SEG_CNT_WAKES k) = min (s.f (NM_SEG_CNT_WAKES k) + 1) (2 ^ RF.w (NM_SEG_CNT_WAKES k) - 1) ∧
      t.f (CAN_TRX_CTL_REQ k) = 0 ∧ t.f (CAN_CTL_MODE k) = 1 ∧ t.f (NM_SEG_CTL_AWAKE k) = 1 ∧ (t.can k).nm = some [BitVec.ofNat 8 (t.successor k), 9, 2, 0] ∧
      (s.f NM_CFG_NM_ENGINE ≠ 0 → t.offers.any (fun o => o.target = s.f NM_CFG_NM_ENGINE && o.cue.cls = 7 && o.cue.code = 0x02 && o.cue.index = 0x23 && o.cue.arg = k.val) = true) ∧
      (s.f NM_CFG_NM_ENGINE ≠ 0 → t.offers.any (fun o => o.target = s.f NM_CFG_NM_ENGINE && o.cue.cls = 7 && o.cue.code = 0x01 && o.cue.index = 0x23 && o.cue.arg = k.val) = true)) ∧
  (∀ (k : Fin 19) (init : Byte) (s : State),
    (isStr init.toNat || (isEngine init.toNat && s.f NM_CFG_NM_ENGINE = init.toNat) || (isSession init.toNat && bitOf (s.f NM_CFG_ZRT_GRANT) (init.toNat - 0x40))) = true →
    s.nmOn k = true →
    k.val < 8 →
    s.f (NM_SEG_STAT_STATE k) = nsSLEEP →
    s.f (CAN_TRX_STAT_STATE k) ≠ trGOING →
    s.clocked 11 = true →
    (16 ≤ k.val ∨ s.busPresent (k % 8) = true) →
    s.boot.xtalBad = false →
    answers (.nmAwakeWrite k init true) s fun t =>
      t.f (NM_SEG_STAT_STATE k) = nsAWAKE ∧ t.f (NM_SEG_STAT_SLEEP_IND k) = 0 ∧ t.f (NM_SEG_CNT_LATE_WAKES k) = s.f (NM_SEG_CNT_LATE_WAKES k) ∧
      t.f (NM_SEG_STAT_LAST_CAUSE k) = 2 ∧ t.f (NM_SEG_CNT_WAKES k) = min (s.f (NM_SEG_CNT_WAKES k) + 1) (2 ^ RF.w (NM_SEG_CNT_WAKES k) - 1) ∧
      t.f (CAN_TRX_CTL_REQ k) = 0 ∧ t.f (CAN_CTL_MODE k) = 1 ∧ t.f (NM_SEG_CTL_AWAKE k) = 1 ∧ (t.can k).nm = some [BitVec.ofNat 8 (t.successor k), 9, 2, 0] ∧ t.f (CAN_TRX_STAT_STATE k) = trNORMAL ∧
      (s.f NM_CFG_NM_ENGINE ≠ 0 → t.offers.any (fun o => o.target = s.f NM_CFG_NM_ENGINE && o.cue.cls = 7 && o.cue.code = 0x01 && o.cue.index = 0x23 && o.cue.arg = k.val) = true)) ∧
  (∀ (k : Fin 19) (init : Byte) (s : State),
    (isStr init.toNat || (isEngine init.toNat && s.f NM_CFG_NM_ENGINE = init.toNat) || (isSession init.toNat && bitOf (s.f NM_CFG_ZRT_GRANT) (init.toNat - 0x40))) = true →
    s.nmOn k = true →
    k.val < 8 →
    s.f (NM_SEG_STAT_STATE k) = nsSLEEP →
    s.f (CAN_TRX_STAT_STATE k) = trGOING →
    s.clocked 11 = true →
    (16 ≤ k.val ∨ s.busPresent (k % 8) = true) →
    s.boot.xtalBad = false →
    answers (.nmAwakeWrite k init true) s fun t =>
      t.f (NM_SEG_STAT_STATE k) = nsSLEEP ∧ (t.seg k).held = 2 ∧ t.f (NM_SEG_CNT_LATE_WAKES k) = min (s.f (NM_SEG_CNT_LATE_WAKES k) + 1) (2 ^ RF.w (NM_SEG_CNT_LATE_WAKES k) - 1) ∧ t.f NM_FLAG_LATE_WAKE = 1 ∧
      (s.f NM_CFG_NM_ENGINE ≠ 0 → t.offers.any (fun o => o.target = s.f NM_CFG_NM_ENGINE && o.cue.cls = 7 && o.cue.code = 0x02 && o.cue.index = 0x23 && o.cue.arg = k.val) = true) ∧
      t.trx = s.trx ∧ t.cans = s.cans) ∧
  (∀ (k : Fin 19) (node : Fin 64) (e : NmNode) (r : Fin 64) (s : State),
    s.f (NM_SEG_STAT_STATE k) = nsREADY →
    ((s.seg k).nodes.find? (fun e => e.1 = node.val) = some (node.val, e)) →
    (e.ind = false ∧ e.reported = false ∧ e.gone = false) →
    s.insRow k node = some r.val →
    s.clocked 11 = true →
    answers (.nmInsomnia k node) s fun t =>
      t.f NM_FLAG_INSOMNIA = 1 ∧ (t.seg k).nodes.any (fun e => e.1 = node.val && e.2.reported) = true ∧ t.f (NM_SEG_STAT_STATE k) = nsREADY ∧
      t.f (NM_INS_CNT_EVENTS r) = min (s.f (NM_INS_CNT_EVENTS r) + 1) (2 ^ RF.w (NM_INS_CNT_EVENTS r) - 1) ∧ t.reg (NM_INS_STAMP_LO r) = BitVec.ofNat 32 s.now ∧ t.reg (NM_INS_STAMP_HI r) = BitVec.ofNat 32 (s.now / 2 ^ 32) ∧
      (s.f NM_CFG_NM_ENGINE ≠ 0 → t.offers.any (fun o => o.target = s.f NM_CFG_NM_ENGINE && o.cue.cls = 7 && o.cue.code = 0x04 && o.cue.index = 0x23 && o.cue.arg = k.val) = true) ∧
      (∀ q : Fin 64, q ≠ r → t.reg (NM_INS_CNT q) = s.reg (NM_INS_CNT q))) ∧
  (∀ (k : Fin 19) (node : Fin 64) (e : NmNode) (r : Fin 64) (s : State),
    s.f (NM_SEG_STAT_STATE k) = nsREADY →
    ((s.seg k).nodes.find? (fun e => e.1 = node.val) = some (node.val, e)) →
    (e.ind = false ∧ e.reported = false ∧ e.gone = false) →
    s.insRow k node = none →
    ((List.range 64).find? (fun r => !s.on (NM_INS_KEY_VALID r)) = some r.val) →
    s.clocked 11 = true →
    answers (.nmInsomnia k node) s fun t =>
      t.f NM_FLAG_INSOMNIA = 1 ∧ (t.seg k).nodes.any (fun e => e.1 = node.val && e.2.reported) = true ∧ t.f (NM_SEG_STAT_STATE k) = nsREADY ∧
      t.f (NM_INS_CNT_EVENTS r) = min (s.f (NM_INS_CNT_EVENTS r) + 1) (2 ^ RF.w (NM_INS_CNT_EVENTS r) - 1) ∧
      t.f (NM_INS_KEY_VALID r) = 1 ∧ t.f (NM_INS_KEY_SEGMENT r) = k.val ∧ t.f (NM_INS_KEY_NODE r) = node.val ∧
      (s.f NM_CFG_NM_ENGINE ≠ 0 → t.offers.any (fun o => o.target = s.f NM_CFG_NM_ENGINE && o.cue.cls = 7 && o.cue.code = 0x04 && o.cue.index = 0x23 && o.cue.arg = k.val) = true)) ∧
  (∀ (k : Fin 19) (node : Fin 64) (e : NmNode) (s : State),
    s.f (NM_SEG_STAT_STATE k) = nsREADY →
    ((s.seg k).nodes.find? (fun e => e.1 = node.val) = some (node.val, e)) →
    (e.ind = false ∧ e.reported = false ∧ e.gone = false) →
    s.insRow k node = none →
    ((List.range 64).find? (fun r => !s.on (NM_INS_KEY_VALID r)) = none) →
    s.clocked 11 = true →
    answers (.nmInsomnia k node) s fun t =>
      t.f NM_FLAG_INSOMNIA = 1 ∧ (t.seg k).nodes.any (fun e => e.1 = node.val && e.2.reported) = true ∧ t.f (NM_SEG_STAT_STATE k) = nsREADY ∧
      (t.f (NM_INS_OVF_COUNT) = min (s.f (NM_INS_OVF_COUNT) + 1) (2 ^ RF.w (NM_INS_OVF_COUNT) - 1) ∧ (∀ q : Fin 64, t.reg (NM_INS_KEY q) = s.reg (NM_INS_KEY q) ∧ t.reg (NM_INS_CNT q) = s.reg (NM_INS_CNT q))) ∧
      (s.f NM_CFG_NM_ENGINE ≠ 0 → t.offers.any (fun o => o.target = s.f NM_CFG_NM_ENGINE && o.cue.cls = 7 && o.cue.code = 0x04 && o.cue.index = 0x23 && o.cue.arg = k.val) = true)) ∧
  (∀ (s : State),
    s.clocked 11 = true →
    answers (.nmInsomniaClear) s fun t =>
      ((∀ q : Fin 64, t.reg (NM_INS_KEY q) = 0 ∧ t.reg (NM_INS_CNT q) = 0 ∧ t.reg (NM_INS_STAMP_LO q) = 0 ∧ t.reg (NM_INS_STAMP_HI q) = 0)) ∧
      t.f NM_INS_OVF_COUNT = 0 ∧ s.sameBut [.regs] t) ∧
  (∀ (u : Fin 2) (s : State),
    s.nmOn (17 + u.val) = true →
    s.f (NM_SEG_STAT_STATE (17 + u.val)) = nsAWAKE →
    s.nmMaySleep (17 + u.val) = true →
    s.clocked 11 = true →
    answers (.tc10SleepRequest u) s fun t =>
      t.f (NM_SEG_STAT_STATE (17 + u.val)) = nsSLEEP ∧ t.f (NM_SEG_CNT_SLEEPS (17 + u.val)) = min (s.f (NM_SEG_CNT_SLEEPS (17 + u.val)) + 1) (2 ^ RF.w (NM_SEG_CNT_SLEEPS (17 + u.val)) - 1) ∧
      (s.f NM_CFG_NM_ENGINE ≠ 0 → t.offers.any (fun o => o.target = s.f NM_CFG_NM_ENGINE && o.cue.cls = 7 && o.cue.code = 0x01 && o.cue.index = 0x23 && o.cue.arg = (17 + u.val)) = true)) ∧
  (∀ (u : Fin 2) (s : State),
    (s.nmOn (17 + u.val) = false ∨ s.f (NM_SEG_STAT_STATE (17 + u.val)) ≠ nsAWAKE ∨ s.nmMaySleep (17 + u.val) = false) →
    answers (.tc10SleepRequest u) s fun t =>
      t = s) ∧
  (∀ (u : Fin 2) (s : State),
    s.nmOn (17 + u.val) = true →
    s.f (NM_SEG_STAT_STATE (17 + u.val)) = nsSLEEP →
    answers (.tc10Wake u) s fun t =>
      t.f (NM_SEG_STAT_STATE (17 + u.val)) = nsAWAKE ∧ t.f (NM_SEG_STAT_LAST_CAUSE (17 + u.val)) = 1 ∧ t.f (NM_SEG_CNT_WAKES (17 + u.val)) = min (s.f (NM_SEG_CNT_WAKES (17 + u.val)) + 1) (2 ^ RF.w (NM_SEG_CNT_WAKES (17 + u.val)) - 1) ∧
      bitOf (t.f PWR_WAKE_SRC_SRC) (15 + u) = true ∧
      (s.f NM_CFG_NM_ENGINE ≠ 0 → t.offers.any (fun o => o.target = s.f NM_CFG_NM_ENGINE && o.cue.cls = 7 && o.cue.code = 0x01 && o.cue.index = 0x23 && o.cue.arg = (17 + u.val)) = true) ∧
      (s.on (NM_SEG_CFG0_WAKE_FWD (17 + u.val)) = true → s.nmOn (18 - u.val) = true → s.f (NM_SEG_STAT_STATE (18 - u.val)) = nsSLEEP → t.f (NM_SEG_STAT_STATE (18 - u.val)) = nsAWAKE ∧ t.f (NM_SEG_STAT_LAST_CAUSE (18 - u.val)) = 1) ∧
      (s.on (NM_SEG_CFG0_WAKE_FWD (17 + u.val)) = false → t.reg (NM_SEG_CNT (18 - u.val)) = s.reg (NM_SEG_CNT (18 - u.val)))) ∧
  (∀ (u : Fin 2) (s : State),
    answers (.uplinkLinkDown u) s fun t =>
      t.f (ETH_PORT_STAT_LINK u) = 0 ∧ regsBut [(ETH_PORT_STAT_LINK u).addr] s t ∧ s.sameBut [.regs] t) ∧
  (∀ (u : Fin 2) (s : State),
    s.boot.xtalBad = false →
    answers (.uplinkLinkUp u) s fun t =>
      t.f (ETH_PORT_STAT_LINK u) = 1 ∧ regsBut [(ETH_PORT_STAT_LINK u).addr] s t ∧ s.sameBut [.regs] t)

/-- Cues reaching their queues, NOTIFY frames, and the posted error log with its stops. The oldest cue posted leaves and
reaches its target: an engine's queue, with the queue's SEQ and the URGENT of its class, on an Idle module ending
Idle; one of a merging class merges; one that finds its level full, or an engine unused or faulted, is dropped and
counted; a cue to another target has no queue (R255 to R258, R269). A cue to a session of the master queues as a
record; 128 queued drop and count it (R371). With the Network island clocked, a NOTIFY frame carries up to 90 records
in its form with its own SEQ, is unacknowledged from then on and leaves on the session's uplink; with 8
unacknowledged none leaves; an unacknowledged one is sent again unchanged (R371). A failed posted write takes the
next log record, or counts in OVF, is cued as PERR where an engine issued it, and stops an initiator whose bit is set
(R404 to R406). A POP shows the oldest record, removes it and ends the stop of every initiator without a record; of
an empty log it shows VALID 0 and ends all stops. Says that these complete: cuePost, notifyBatchTimeout,
notifyRetransmit, postedWriteFail, pelPop. -/
def Obligations.CuesNotifyAndPostedErrors : Prop :=
  (∀ (s : State),
    s.offers = [] →
    answers (.cuePost) s fun t =>
      t = s) ∧
  (∀ (g : Fin 48) (c : Cue) (m : Bool) (l : List Offer) (s : State),
    s.offers = { target := 0x10 + g.val, cue := c, merge := m } :: l →
    s.crewPresent (g / 8) = true →
    (m = false ∨ (s.eng g).queue.any (fun q => q.cls = c.cls && q.code = c.code && q.kind = c.kind && q.index = c.index) = false) →
    ((s.eng g).st ≠ .unused ∧ (s.eng g).st ≠ .faulted) →
    (s.eng g).queue.length < 14 + (if s.cueUrgent g c.cls = true then 2 else 0) →
    answers (.cuePost) s fun t =>
      (t.eng g).queue = (s.eng g).queue ++ [{ c with seq := (s.eng g).seq, urgent := s.cueUrgent g c.cls }] ∧
      ((t.eng g).seq = ((s.eng g).seq + 1) % 0x10000 ∧ (∀ h : Fin 48, h ≠ g → t.eng h = s.eng h)) ∧
      (s.f PWR_STATE_STATE = 1 → t.f PWR_STATE_STATE = 0 ∧ t.f PWR_STATE_LAST_STATE = 1 ∧ t.gated = [])) ∧
  (∀ (g : Fin 48) (c : Cue) (m : Bool) (l : List Offer) (s : State),
    s.offers = { target := 0x10 + g.val, cue := c, merge := m } :: l →
    s.crewPresent (g / 8) = true →
    (m = false ∨ (s.eng g).queue.any (fun q => q.cls = c.cls && q.code = c.code && q.kind = c.kind && q.index = c.index) = false) →
    ((s.eng g).st = .unused ∨ (s.eng g).st = .faulted ∨ (if s.cueUrgent g c.cls = true then 16 else 14) ≤ (s.eng g).queue.length) →
    answers (.cuePost) s fun t =>
      (t.eng g).queue = (s.eng g).queue ∧ t.f (ENG_CUE_DROP_LAST_CLASS (g / 8) (g % 8)) = c.cls % 2 ^ (ENG_CUE_DROP_LAST_CLASS (g / 8) (g % 8)).w ∧ t.f (ENG_CUE_DROP_COUNT (g / 8) (g % 8)) = min (s.f (ENG_CUE_DROP_COUNT (g / 8) (g % 8)) + 1) (2 ^ RF.w (ENG_CUE_DROP_COUNT (g / 8) (g % 8)) - 1) ∧
      ((t.eng g).seq = ((s.eng g).seq + 1) % 0x10000 ∧ (∀ h : Fin 48, h ≠ g → t.eng h = s.eng h)) ∧
      (s.f PWR_STATE_STATE = 1 → t.f PWR_STATE_STATE = 0 ∧ t.f PWR_STATE_LAST_STATE = 1 ∧ t.gated = [])) ∧
  (∀ (g : Fin 48) (c : Cue) (m : Bool) (l : List Offer) (q : Cue) (r : List Cue) (s : State),
    s.offers = { target := 0x10 + g.val, cue := c, merge := m } :: l →
    s.crewPresent (g / 8) = true →
    m = true →
    (s.eng g).queue = q :: r →
    (q.cls = c.cls ∧ q.code = c.code ∧ q.kind = c.kind ∧ q.index = c.index) →
    ((s.eng g).st ≠ .unused ∧ (s.eng g).st ≠ .faulted) →
    answers (.cuePost) s fun t =>
      ((t.eng g).queue = { q with arg := if q.cls = 3 then min (q.arg + c.arg) 0xFFFF else c.arg, data := c.data, stampLo := c.stampLo, seq := (s.eng g).seq, merged := true } :: r ∧ t.f (ENG_CUE_MISC_MERGED (g / 8) (g % 8)) = min (s.f (ENG_CUE_MISC_MERGED (g / 8) (g % 8)) + 1) (2 ^ RF.w (ENG_CUE_MISC_MERGED (g / 8) (g % 8)) - 1)) ∧
      ((t.eng g).seq = ((s.eng g).seq + 1) % 0x10000 ∧ (∀ h : Fin 48, h ≠ g → t.eng h = s.eng h)) ∧
      (s.f PWR_STATE_STATE = 1 → t.f PWR_STATE_STATE = 0 ∧ t.f PWR_STATE_LAST_STATE = 1 ∧ t.gated = [])) ∧
  (∀ (o : Offer) (l : List Offer) (s : State),
    s.offers = o :: l →
    (¬(isEngine o.target = true ∧ s.crewPresent ((o.target - 0x10) / 8) = true)) →
    isSession o.target = false →
    answers (.cuePost) s fun t =>
      t = { s with offers := l }) ∧
  (∀ (k : Fin 8) (c : Cue) (m : Bool) (l : List Offer) (s : State),
    s.offers = { target := 0x40 + k.val, cue := c, merge := m } :: l →
    (s.ses k).note.length < 128 →
    s.on TRK_CFG_ROLE = false →
    ((s.ses k).note.length + 1 < s.f ZRT_NOTIFY_CFG_BATCH_N ∧ c.cls ≠ 1 ∧ (s.ses k).note.all (fun e => e.2.cls ≠ 1 && !e.2.urgent) = true) →
    answers (.cuePost) s fun t =>
      t.ses k = { s.ses k with note := (s.ses k).note ++ [(0, { c with seq := s.draw % 0x10000, urgent := c.cls = 1 })] } ∧ t.offers = l ∧ t.free = s.free + 1 ∧
      t.f (ZRT_SES_NOTE_QUEUED k) = ((s.ses k).note.length + 1) % 2 ^ (ZRT_SES_NOTE_QUEUED k).w ∧ t.f (ZRT_SES_NOTE_DROPPED k) = s.f (ZRT_SES_NOTE_DROPPED k) ∧
      t.eth = s.eth) ∧
  (∀ (k : Fin 8) (c : Cue) (m : Bool) (l : List Offer) (s : State),
    s.offers = { target := 0x40 + k.val, cue := c, merge := m } :: l →
    128 ≤ (s.ses k).note.length →
    s.on TRK_CFG_ROLE = false →
    answers (.cuePost) s fun t =>
      t.f (ZRT_SES_NOTE_DROPPED k) = min (s.f (ZRT_SES_NOTE_DROPPED k) + 1) (2 ^ RF.w (ZRT_SES_NOTE_DROPPED k) - 1) ∧ t.f ZRT_FLAG_NOTIFY_DROP = 1 ∧ t.offers = l) ∧
  (∀ (k : Fin 8) (n : Nat) (s : State),
    s.on TRK_CFG_ROLE = false →
    s.on (ZRT_SES_CFG_EN k) = true →
    (s.ses k).unacked.length < 8 →
    (s.ses k).lost = 0 →
    ((s.ses k).note ≠ [] ∧ (s.ses k).note.all (fun (e : Nat × Cue) => e.1 = 0) = true) →
    n = min 90 (s.ses k).note.length →
    s.clocked 10 = true →
    answers (.notifyBatchTimeout k) s fun t =>
      (t.ses k).note = (s.ses k).note.drop n ∧ (t.ses k).noteSeq = ((s.ses k).noteSeq + 1) % 0x10000 ∧
      (t.ses k).unacked = (s.ses k).unacked ++ [((s.ses k).noteSeq, bytesBE 1 0x12 ++ bytesBE 1 k ++ bytesBE 2 (s.f ZRT_EPOCH_EPOCH) ++ bytesBE 2 (s.ses k).noteSeq ++ bytesBE 2 1 ++ bytesBE 2 (24 + 16 * n) ++ bytesBE 2 0 ++ [6, 0] ++ bytesBE 2 (16 * n) ++ zeros 8 ++ ((s.ses k).note.take n).flatMap (fun (e : Nat × Cue) => e.2.bytes))] ∧
      t.eth.txq.take s.eth.txq.length = s.eth.txq ∧ s.eth.txq.length < t.eth.txq.length ∧ (t.eth.txq.drop s.eth.txq.length).all (fun x => (bytesBE 1 0x12 ++ bytesBE 1 k ++ bytesBE 2 (s.f ZRT_EPOCH_EPOCH) ++ bytesBE 2 (s.ses k).noteSeq ++ bytesBE 2 1 ++ bytesBE 2 (24 + 16 * n) ++ bytesBE 2 0 ++ [6, 0] ++ bytesBE 2 (16 * n) ++ zeros 8 ++ ((s.ses k).note.take n).flatMap (fun (e : Nat × Cue) => e.2.bytes)).isSuffixOf x.f.data) = true ∧
      regsBut [ZRT_SES_NOTE k] s t ∧ s.sameBut [.regs, .eth, .zrt] t) ∧
  (∀ (k : Fin 8) (s : State),
    (s.on TRK_CFG_ROLE = true ∨ s.on (ZRT_SES_CFG_EN k) = false ∨ 8 ≤ (s.ses k).unacked.length ∨ ((s.ses k).note = [] ∧ (s.ses k).lost = 0)) →
    answers (.notifyBatchTimeout k) s fun t =>
      t = s) ∧
  (∀ (k : Fin 8) (seq : BitVec 16) (b : List Byte) (s : State),
    ((s.ses k).unacked.find? (fun e => e.1 = seq.toNat) = some (seq.toNat, b)) →
    s.on (ZRT_SES_STAT_OPEN k) = true →
    s.clocked 10 = true →
    answers (.notifyRetransmit k seq) s fun t =>
      t.eth.txq.take s.eth.txq.length = s.eth.txq ∧ s.eth.txq.length < t.eth.txq.length ∧ (t.eth.txq.drop s.eth.txq.length).all (fun x => (b).isSuffixOf x.f.data) = true ∧
      t.zrt = s.zrt ∧ t.regs = s.regs ∧ s.sameBut [.eth] t) ∧
  (∀ (k : Fin 8) (seq : BitVec 16) (s : State),
    ((s.ses k).unacked.any (fun e => e.1 = seq.toNat) = false ∨ s.on (ZRT_SES_STAT_OPEN k) = false) →
    answers (.notifyRetransmit k seq) s fun t =>
      t = s) ∧
  (∀ (orig : Fin 0x48) (a : Word) (n : Fin 65) (st : Fin 16) (z : Bool) (l : List TrkReq) (s : State),
    s.brg.posted = { orig := orig, addr := a.toNat, len := n, op := 2, what := 3, zrt := z, fail := st.val + 1 } :: l →
    s.f BRG_PEL_STAT_COUNT < 8 →
    answers (.postedWriteFail) s fun t =>
      t.f BRG_PEL_STAT_COUNT = s.f BRG_PEL_STAT_COUNT + 1 ∧ t.brg = { s.brg with posted := l } ∧
      (t.pelWords (s.f BRG_PEL_STAT_COUNT) = [a, BitVec.ofNat 32 (orig.val + n.val * 0x100 + (st.val + 1) * 0x10000 + (if z then 0x81000000 else 0x80000000)), BitVec.ofNat 32 s.now, BitVec.ofNat 32 (s.now / 2 ^ 32)]) ∧
      (∀ j : Fin 8, j.val ≠ s.f BRG_PEL_STAT_COUNT → t.pelWords j = s.pelWords j) ∧
      (0x10 ≤ orig.val → t.offers = s.offers ++ [{ target := orig.val, cue := { cls := 9, code := 4, kind := 1, index := 0x25, arg := n.val + (st.val + 1) * 0x100, data := a.toNat, stampLo := s.slate.toNat % 2 ^ 32 } }]) ∧
      (∀ i : Fin 0x48, 0x10 ≤ i.val → t.stopped i = (s.stopped i || (decide (i.val = orig.val) && s.on (if orig.val < 0x30 then ⟨BRG_STOP0, orig.val - 0x10, 1⟩ else if orig.val < 0x40 then ⟨BRG_STOP1, orig.val - 0x30, 1⟩ else ⟨BRG_STOP1, 16 + (orig.val - 0x40), 1⟩))))) ∧
  (∀ (orig : Fin 0x48) (a : Word) (n : Fin 65) (st : Fin 16) (z : Bool) (l : List TrkReq) (s : State),
    s.brg.posted = { orig := orig, addr := a.toNat, len := n, op := 2, what := 3, zrt := z, fail := st.val + 1 } :: l →
    8 ≤ s.f BRG_PEL_STAT_COUNT →
    answers (.postedWriteFail) s fun t =>
      t.f (BRG_PEL_STAT_OVF) = min (s.f (BRG_PEL_STAT_OVF) + 1) (2 ^ RF.w (BRG_PEL_STAT_OVF) - 1) ∧ t.f BRG_PEL_STAT_COUNT = s.f BRG_PEL_STAT_COUNT ∧ t.brg = { s.brg with posted := l } ∧
      (∀ j : Fin 8, t.pelWords j = s.pelWords j) ∧
      (0x10 ≤ orig.val → t.offers = s.offers ++ [{ target := orig.val, cue := { cls := 9, code := 4, kind := 1, index := 0x25, arg := n.val + (st.val + 1) * 0x100, data := a.toNat, stampLo := s.slate.toNat % 2 ^ 32 } }]) ∧
      (∀ i : Fin 0x48, 0x10 ≤ i.val → t.stopped i = (s.stopped i || (decide (i.val = orig.val) && s.on (if orig.val < 0x30 then ⟨BRG_STOP0, orig.val - 0x10, 1⟩ else if orig.val < 0x40 then ⟨BRG_STOP1, orig.val - 0x30, 1⟩ else ⟨BRG_STOP1, 16 + (orig.val - 0x40), 1⟩))))) ∧
  (∀ (s : State),
    (s.brg.posted.all (fun r => r.fail = 0) = true) →
    answers (.postedWriteFail) s fun t =>
      t = s) ∧
  (∀ (c : Fin 8) (s : State),
    s.f BRG_PEL_STAT_COUNT = c.val + 1 →
    answers (.pelPop) s fun t =>
      (List.range 4).map (fun i => t.reg (BRG_PEL_POP i)) = s.pelWords 0 ∧
      (t.f BRG_PEL_STAT_COUNT = c.val ∧ (∀ j : Fin 7, t.pelWords j = s.pelWords (j.val + 1))) ∧
      (∀ i : Fin 0x48, 0x10 ≤ i.val → t.stopped i = (s.stopped i && (List.range c.val).any (fun j => s.f (BRG_PEL_INFO_INIT (j + 1)) = i.val))) ∧
      t.f BRG_PEL_STAT_OVF = s.f BRG_PEL_STAT_OVF ∧ t.f BRG_PEL_STAT_RESET_LOST = s.f BRG_PEL_STAT_RESET_LOST ∧ s.sameBut [.regs] t) ∧
  (∀ (s : State),
    s.f BRG_PEL_STAT_COUNT = 0 →
    answers (.pelPop) s fun t =>
      (List.range 4).map (fun i => t.reg (BRG_PEL_POP i)) = [0, 0, 0, 0] ∧ t.f BRG_PEL_STAT_COUNT = 0 ∧
      (∀ i : Fin 0x48, 0x10 ≤ i.val → t.stopped i = false) ∧
      s.sameBut [.regs] t)

/-- ZRT operations: READ, WRITE, RMW, TAKE and FENCE with their responses. For the last operation of a request of an open
session outside recovery whose turn it is (round-robin, R367), the Network island clocked. READ of the Larder returns
its bytes; one that covers a take returns SPEC_REFUSED with zeros and takes nothing; one whose bytes a prefetch
buffer holds is served from it; one in an expansion window leaves as a REQ with SPEC and waits for it (R367, R368,
R402). WRITE of the Larder outside POSTED ranges leaves its bytes there and no other byte changed; in a POSTED range
a stopped session gets PERR_STOP and nothing is written (R404, R406). RMW in the Larder returns the old bytes and
writes (old AND NOT mask) OR (value AND mask); where its read is refused it returns the status, an old value of 0,
and writes nothing. TAKE returns status and value of a result slot at one moment and takes it, READY to TAKEN (R147).
FENCE completes with OK once no earlier posted write is left, else waits (R407). The response is cached, sent with
all operations, and LAST_STATUS shows the first status that is not OK (R366). Says that these complete: zrtRead,
zrtWrite, zrtRmw, zrtTake, zrtFence. -/
def Obligations.ZrtOperations : Prop :=
  (∀ (k : Fin 8) (q : Nat) (st : Bool) (dn : List ZrtOp) (a : Word) (n g : Nat) (s : State),
    (s.ses k).cur = some { seq := q, stop := st, todo := { op := 1, len := n, addr := a.toNat, arg := g, data := [] } :: [], done := dn } →
    (s.ses k).parts = [] →
    s.boot.phase ≠ .recovery →
    (0x01000000 ≤ a.toNat ∧ a.toNat + n ≤ 0x01200000) →
    (0 < n ∧ n ≤ 1024) →
    s.behind (0x40 + k) a.toNat n false = false →
    s.pfFind 1 (0x40 + k) a.toNat n = none →
    s.zrtTurn = some k.val →
    s.clocked 10 = true →
    answers (.zrtRead k) s fun t =>
      (t.ses k).cur = none ∧ (t.ses k).cache = some (q, 0, (dn ++ [{ op := 1, status := 0, len := n, addr := a.toNat, arg := g, data := s.rdBytes a.toNat n }])) ∧
      t.responded k q 0 (dn ++ [{ op := 1, status := 0, len := n, addr := a.toNat, arg := g, data := s.rdBytes a.toNat n }]) = true ∧
      t.f (ZRT_SES_STAT_LAST_STATUS k) = lastStatus 0 (dn ++ [{ op := 1, status := 0, len := n, addr := a.toNat, arg := g, data := s.rdBytes a.toNat n }]) % 2 ^ 8 ∧
      t.mem = s.mem) ∧
  (∀ (k : Fin 8) (q : Nat) (st : Bool) (dn : List ZrtOp) (i : Fin 8) (g : Nat) (s : State),
    (s.ses k).cur = some { seq := q, stop := st, todo := { op := 1, len := 8, addr := (0x052D1180 + 8 * i.val), arg := g, data := [] } :: [], done := dn } →
    (s.ses k).parts = [] →
    s.boot.phase ≠ .recovery →
    s.behind (0x40 + k) (0x052D1180 + 8 * i.val) 8 false = false →
    s.brgSef (0x052D1180 + 8 * i.val) = false →
    s.zrtTurn = some k.val →
    s.clocked 10 = true →
    answers (.zrtRead k) s fun t =>
      (t.ses k).cur = none ∧ (t.ses k).cache = some (q, 0, (dn ++ [{ op := 1, status := 3, len := 8, addr := (0x052D1180 + 8 * i.val), arg := g, data := zeros 8 }])) ∧
      t.responded k q 0 (dn ++ [{ op := 1, status := 3, len := 8, addr := (0x052D1180 + 8 * i.val), arg := g, data := zeros 8 }]) = true ∧
      t.f (ZRT_SES_STAT_LAST_STATUS k) = lastStatus 0 (dn ++ [{ op := 1, status := 3, len := 8, addr := (0x052D1180 + 8 * i.val), arg := g, data := zeros 8 }]) % 2 ^ 8 ∧
      t.reg (SYS_SLOT_ST i) = s.reg (SYS_SLOT_ST i) ∧ t.reg (SYS_SLOT_TST i) = s.reg (SYS_SLOT_TST i)) ∧
  (∀ (k : Fin 8) (q : Nat) (st : Bool) (dn : List ZrtOp) (a : Word) (n g : Nat) (b : BrgBuf) (d : List Byte) (s : State),
    (s.ses k).cur = some { seq := q, stop := st, todo := { op := 1, len := n, addr := a.toNat, arg := g, data := [] } :: [], done := dn } →
    (s.ses k).parts = [] →
    s.boot.phase ≠ .recovery →
    s.pfFind 1 (0x40 + k) a.toNat n = some (b, d) →
    s.zrtTurn = some k.val →
    s.clocked 10 = true →
    answers (.zrtRead k) s fun t =>
      (t.ses k).cur = none ∧ (t.ses k).cache = some (q, 0, (dn ++ [{ op := 1, status := 0, len := n, addr := a.toNat, arg := g, data := d }])) ∧
      t.responded k q 0 (dn ++ [{ op := 1, status := 0, len := n, addr := a.toNat, arg := g, data := d }]) = true ∧
      t.f (ZRT_SES_STAT_LAST_STATUS k) = lastStatus 0 (dn ++ [{ op := 1, status := 0, len := n, addr := a.toNat, arg := g, data := d }]) % 2 ^ 8 ∧
      t.brg.pf = s.brg.pf.erase b ++ [b] ∧ t.mem = s.mem) ∧
  (∀ (k : Fin 8) (q : Nat) (st : Bool) (dn : List ZrtOp) (a : Word) (n g : Nat) (s : State),
    (s.ses k).cur = some { seq := q, stop := st, todo := { op := 1, len := n, addr := a.toNat, arg := g, data := [] } :: [], done := dn } →
    (s.ses k).parts = [] →
    (0x10000000 ≤ a.toNat ∧ a.toNat < 0x40000000) →
    (0 < n ∧ a.toNat % 64 + n ≤ 64) →
    s.trkUsable (a.toNat / 0x10000000) = true →
    s.behind (0x40 + k) a.toNat n false = false →
    s.pfFind 1 (0x40 + k) a.toNat n = none →
    s.brgSef a.toNat = false →
    s.zrtTurn = some k.val →
    s.clocked 10 = true →
    answers (.zrtRead k) s fun t =>
      (t.ses k).cur = (s.ses k).cur ∧ (t.ses k).parts = [{ addr := a.toNat, len := n }] ∧
      t.trk.outs = s.trk.outs ++ [(s.trkTag, { orig := 0x40 + k, spec := true, addr := a.toNat, len := n, what := 1, zrt := true, tag := s.trkTag })] ∧
      t.trk.kept = s.trk.kept ++ [{ dst := a.toNat / 0x10000000, seq := s.trk.seq, what := 1, tag := s.trkTag }] ∧
      t.eth = s.eth) ∧
  (∀ (k : Fin 8) (q : Nat) (st : Bool) (dn : List ZrtOp) (a : Word) (d : List Byte) (g : Nat) (s : State),
    (s.ses k).cur = some { seq := q, stop := st, todo := { op := 2, len := d.length, addr := a.toNat, arg := g, data := d } :: [], done := dn } →
    (s.ses k).parts = [] →
    s.boot.phase ≠ .recovery →
    (0x01000000 ≤ a.toNat ∧ a.toNat + d.length ≤ 0x01200000) →
    (0 < d.length ∧ d.length ≤ 1024) →
    s.behind (0x40 + k) a.toNat d.length true = false →
    ((linePieces a.toNat d.length).all (fun p => !s.brgPosted p.1) = true) →
    s.zrtTurn = some k.val →
    s.clocked 10 = true →
    answers (.zrtWrite k) s fun t =>
      (t.ses k).cur = none ∧ (t.ses k).cache = some (q, 0, (dn ++ [{ op := 2, status := 0, len := d.length, addr := a.toNat, arg := g, data := [] }])) ∧
      t.responded k q 0 (dn ++ [{ op := 2, status := 0, len := d.length, addr := a.toNat, arg := g, data := [] }]) = true ∧
      t.f (ZRT_SES_STAT_LAST_STATUS k) = lastStatus 0 (dn ++ [{ op := 2, status := 0, len := d.length, addr := a.toNat, arg := g, data := [] }]) % 2 ^ 8 ∧
      t.rdBytes a.toNat d.length = d ∧
      (s.gwFind (GwFrame.key { port := 0, kind := 6, id := 16 * k + 2, data := d, stamp := s.now }) = none → memBut ((List.range d.length).map (a.toNat + ·)) s t)) ∧
  (∀ (k : Fin 8) (q : Nat) (st : Bool) (dn : List ZrtOp) (a : Word) (d : List Byte) (g : Nat) (s : State),
    (s.ses k).cur = some { seq := q, stop := st, todo := { op := 2, len := d.length, addr := a.toNat, arg := g, data := d } :: [], done := dn } →
    (s.ses k).parts = [] →
    s.boot.phase ≠ .recovery →
    (0x01000000 ≤ a.toNat ∧ a.toNat + d.length ≤ 0x01200000) →
    s.behind (0x40 + k) a.toNat d.length true = false →
    s.stopped (0x40 + k) = true →
    s.brgPosted a.toNat = true →
    (0 < d.length ∧ a.toNat % 64 + d.length ≤ 64) →
    s.zrtTurn = some k.val →
    s.clocked 10 = true →
    answers (.zrtWrite k) s fun t =>
      (t.ses k).cur = none ∧ (t.ses k).cache = some (q, 0, (dn ++ [{ op := 2, status := 14, len := d.length, addr := a.toNat, arg := g, data := [] }])) ∧
      t.responded k q 0 (dn ++ [{ op := 2, status := 14, len := d.length, addr := a.toNat, arg := g, data := [] }]) = true ∧
      t.f (ZRT_SES_STAT_LAST_STATUS k) = lastStatus 0 (dn ++ [{ op := 2, status := 14, len := d.length, addr := a.toNat, arg := g, data := [] }]) % 2 ^ 8 ∧
      t.mem = s.mem ∧ t.brg.posted = s.brg.posted) ∧
  (∀ (k : Fin 8) (q : Nat) (st : Bool) (dn : List ZrtOp) (a : Word) (e : Fin 4) (d : List Byte) (g : Nat) (s : State),
    (s.ses k).cur = some { seq := q, stop := st, todo := { op := 3, len := 2 ^ e.val, addr := a.toNat, arg := g, data := d } :: [], done := dn } →
    (s.ses k).parts = [] →
    s.boot.phase ≠ .recovery →
    (0x01000000 ≤ a.toNat ∧ a.toNat < 0x01220000 ∧ a.toNat % 2 ^ e.val = 0) →
    s.zrtTurn = some k.val →
    s.clocked 10 = true →
    answers (.zrtRmw k) s fun t =>
      (t.ses k).cur = none ∧ (t.ses k).cache = some (q, 0, (dn ++ [{ op := 3, status := 0, len := 2 ^ e.val, addr := a.toNat, arg := g, data := s.rdBytes a.toNat (2 ^ e.val) }])) ∧
      t.responded k q 0 (dn ++ [{ op := 3, status := 0, len := 2 ^ e.val, addr := a.toNat, arg := g, data := s.rdBytes a.toNat (2 ^ e.val) }]) = true ∧
      t.f (ZRT_SES_STAT_LAST_STATUS k) = lastStatus 0 (dn ++ [{ op := 3, status := 0, len := 2 ^ e.val, addr := a.toNat, arg := g, data := s.rdBytes a.toNat (2 ^ e.val) }]) % 2 ^ 8 ∧
      t.rdBytes a.toNat (2 ^ e.val) = (List.range (2 ^ e.val)).map (fun i => (s.rd8 (a.toNat + i) &&& ~~~(d.getD i 0)) ||| (d.getD (2 ^ e.val + i) 0 &&& d.getD i 0))) ∧
  (∀ (k : Fin 8) (q : Nat) (st : Bool) (dn : List ZrtOp) (i : Fin 8) (d : List Byte) (g : Nat) (s : State),
    (s.ses k).cur = some { seq := q, stop := st, todo := { op := 3, len := 4, addr := (0x052D1180 + 8 * i.val), arg := g, data := d } :: [], done := dn } →
    (s.ses k).parts = [] →
    s.boot.phase ≠ .recovery →
    s.behind (0x40 + k) (0x052D1180 + 8 * i.val) 4 false = false →
    s.zrtTurn = some k.val →
    s.clocked 10 = true →
    answers (.zrtRmw k) s fun t =>
      (t.ses k).cur = none ∧ (t.ses k).cache = some (q, 0, (dn ++ [{ op := 3, status := 3, len := 4, addr := (0x052D1180 + 8 * i.val), arg := g, data := zeros 4 }])) ∧
      t.responded k q 0 (dn ++ [{ op := 3, status := 3, len := 4, addr := (0x052D1180 + 8 * i.val), arg := g, data := zeros 4 }]) = true ∧
      t.f (ZRT_SES_STAT_LAST_STATUS k) = lastStatus 0 (dn ++ [{ op := 3, status := 3, len := 4, addr := (0x052D1180 + 8 * i.val), arg := g, data := zeros 4 }]) % 2 ^ 8 ∧
      t.reg (SYS_SLOT_ST i) = s.reg (SYS_SLOT_ST i)) ∧
  (∀ (k : Fin 8) (q : Nat) (st : Bool) (dn : List ZrtOp) (i : Fin 8) (g : Nat) (s : State),
    (s.ses k).cur = some { seq := q, stop := st, todo := { op := 4, len := 8, addr := (0x052D1180 + 8 * i.val), arg := g, data := [] } :: [], done := dn } →
    (s.ses k).parts = [] →
    s.boot.phase ≠ .recovery →
    s.behind (0x40 + k) (0x052D1180 + 8 * i.val) 8 false = false →
    s.zrtTurn = some k.val →
    s.clocked 10 = true →
    answers (.zrtTake k) s fun t =>
      (t.ses k).cur = none ∧ (t.ses k).cache = some (q, 0, (dn ++ [{ op := 4, status := 0, len := 8, addr := (0x052D1180 + 8 * i.val), arg := g, data := bytesLE 4 (s.reg (SYS_SLOT_ST i)).toNat ++ bytesLE 4 (s.reg (SYS_SLOT_VAL i)).toNat }])) ∧
      t.responded k q 0 (dn ++ [{ op := 4, status := 0, len := 8, addr := (0x052D1180 + 8 * i.val), arg := g, data := bytesLE 4 (s.reg (SYS_SLOT_ST i)).toNat ++ bytesLE 4 (s.reg (SYS_SLOT_VAL i)).toNat }]) = true ∧
      t.f (ZRT_SES_STAT_LAST_STATUS k) = lastStatus 0 (dn ++ [{ op := 4, status := 0, len := 8, addr := (0x052D1180 + 8 * i.val), arg := g, data := bytesLE 4 (s.reg (SYS_SLOT_ST i)).toNat ++ bytesLE 4 (s.reg (SYS_SLOT_VAL i)).toNat }]) % 2 ^ 8 ∧
      (t.f ⟨SYS_SLOT_ST i, 16, 2⟩ = (if s.f ⟨SYS_SLOT_ST i, 16, 2⟩ = 2 then 3 else s.f ⟨SYS_SLOT_ST i, 16, 2⟩) ∧ t.reg (SYS_SLOT_VAL i) = s.reg (SYS_SLOT_VAL i))) ∧
  (∀ (k : Fin 8) (q : Nat) (st : Bool) (dn : List ZrtOp) (a : Word) (g : Nat) (s : State),
    (s.ses k).cur = some { seq := q, stop := st, todo := { op := 5, len := 0, addr := a.toNat, arg := g, data := [] } :: [], done := dn } →
    (s.ses k).parts = [] →
    s.boot.phase ≠ .recovery →
    s.storesLeft (0x40 + k) = 0 →
    s.zrtTurn = some k.val →
    s.clocked 10 = true →
    answers (.zrtFence k) s fun t =>
      (t.ses k).cur = none ∧ (t.ses k).cache = some (q, 0, (dn ++ [{ op := 5, status := 0, len := 0, addr := a.toNat, arg := g, data := [] }])) ∧
      t.responded k q 0 (dn ++ [{ op := 5, status := 0, len := 0, addr := a.toNat, arg := g, data := [] }]) = true ∧
      t.f (ZRT_SES_STAT_LAST_STATUS k) = lastStatus 0 (dn ++ [{ op := 5, status := 0, len := 0, addr := a.toNat, arg := g, data := [] }]) % 2 ^ 8) ∧
  (∀ (k : Fin 8) (q : Nat) (st : Bool) (dn : List ZrtOp) (a : Word) (g : Nat) (s : State),
    (s.ses k).cur = some { seq := q, stop := st, todo := { op := 5, len := 0, addr := a.toNat, arg := g, data := [] } :: [], done := dn } →
    (s.ses k).parts = [] →
    s.storesLeft (0x40 + k) ≠ 0 →
    answers (.zrtFence k) s fun t =>
      t = s) ∧
  (∀ (k : Fin 8) (q : Nat) (st : Bool) (dn : List ZrtOp) (a : Word) (g : Nat) (b : Word) (l : List ZrtOp) (s : State),
    (s.ses k).cur = some { seq := q, stop := st, todo := { op := 5, len := 0, addr := a.toNat, arg := g, data := [] } :: { op := 5, len := 0, addr := b.toNat, arg := g } :: l, done := dn } →
    (s.ses k).parts = [] →
    s.boot.phase ≠ .recovery →
    s.storesLeft (0x40 + k) = 0 →
    bitOf (s.f (ZRT_SES_CFG_OP_GRANT k)) 4 = true →
    (st = false ∨ dn.all (fun (y : ZrtOp) => y.status = 0) = true) →
    s.zrtTurn = some k.val →
    s.clocked 10 = true →
    answers (.zrtFence k) s fun t =>
      (t.ses k).cur = some { seq := q, stop := st, todo := { op := 5, len := 0, addr := b.toNat, arg := g } :: l, done := dn ++ [{ op := 5, status := 0, len := 0, addr := a.toNat, arg := g, data := [] }] } ∧ (t.ses k).parts = [] ∧
      (t.ses k).cache = (s.ses k).cache)

/-- ZRT requests: the checks in their order, replay, frame errors, refusals, tags and acknowledgements. With the Network
island clocked, for the oldest frame at the uplinks, raw or UDP of an enabled transport; an operation runs in its
turn (R367). A request of another VER or TYPE or of a session not enabled is dropped and counted (R364); one while a
request executes is dropped with AHEAD (R367). Another EPOCH is answered STALE_EPOCH; SEQ = NEXT_SEQ − 1 of an open
session resends the cached response and executes nothing; with OPEN, or open with SEQ = NEXT_SEQ, it is accepted,
NEXT_SEQ = SEQ + 1, and its operations wait; any other is answered BAD_SEQ (R366). LENGTH or NOPS inconsistent gives
BAD_FRAME, a response over 1,472 bytes TOO_LONG, both cached; an operation not granted or unknown returns its status
(R365 to R370). RESET and ACCEPT with the right tag do what ARG says, ACCEPT outside trial is refused; a wrong tag
returns AUTH_FAIL, sets the flag and has no other effect (R369, R510). A NOTIFY_ACK acknowledges all frames up to its
SEQ (R371). A frame of the other kind stays for its own command. Says that these complete: zrtRequest, zrtReset,
zrtAccept, zrtNotifyAck. -/
def Obligations.ZrtRequests : Prop :=
  (∀ (s : State),
    s.eth.inq = [] →
    answers (.zrtRequest) s fun t =>
      t = s) ∧
  (∀ (k : Fin 8) (p : Fin 2) (udp : Bool) (ip : Word) (f : EthFrame) (l : List (Nat × EthFrame)) (fl : BitVec 5) (ep sq np ln : BitVec 16) (body : List Byte) (b0 : Byte) (s : State),
    s.eth.inq = (p.val, { f with etype := if udp then 0x0800 else 0x88B5, data := (if udp then [0x45, 0, 0, 0, 0, 0, 0, 0, 64, 17, 0, 0] ++ bytesBE 4 ip.toNat ++ zeros 4 ++ zeros 2 ++ bytesBE 2 (s.f ZRT_CFG_UDP_PORT) ++ zeros 4 else []) ++ ([b0, BitVec.ofNat 8 (k + 8 * fl.toNat)] ++ bytesBE 2 ep.toNat ++ bytesBE 2 sq.toNat ++ bytesBE 2 np.toNat ++ bytesBE 2 ln.toNat ++ [0, 0] ++ body) }) :: l →
    s.boot.phase ≠ .recovery →
    (if udp then s.on ZRT_CFG_UDP_EN else s.on ZRT_CFG_RAW_EN) = true →
    (b0.toNat ≠ 0x10 ∧ b0.toNat % 16 ≠ 3 ∨ b0.toNat % 16 ≠ 3 ∧ (s.on (ZRT_SES_CFG_EN k) = false ∨ s.on (ZRT_SES_CFG_UDP k) ≠ udp)) →
    s.clocked 10 = true →
    answers (.zrtRequest) s fun t =>
      t.f (ZRT_SES_CNT_REJECTED k) = min (s.f (ZRT_SES_CNT_REJECTED k) + 1) (2 ^ RF.w (ZRT_SES_CNT_REJECTED k) - 1) ∧ t.eth = { s.eth with inq := l } ∧ t.zrt = s.zrt ∧
      regsBut [ZRT_SES_CNT k] s t) ∧
  (∀ (k : Fin 8) (p : Fin 2) (udp : Bool) (ip : Word) (f : EthFrame) (l : List (Nat × EthFrame)) (fl : BitVec 5) (ep sq np ln : BitVec 16) (body : List Byte) (s : State),
    s.eth.inq = (p.val, { f with etype := if udp then 0x0800 else 0x88B5, data := (if udp then [0x45, 0, 0, 0, 0, 0, 0, 0, 64, 17, 0, 0] ++ bytesBE 4 ip.toNat ++ zeros 4 ++ zeros 2 ++ bytesBE 2 (s.f ZRT_CFG_UDP_PORT) ++ zeros 4 else []) ++ ([0x10, BitVec.ofNat 8 (k + 8 * fl.toNat)] ++ bytesBE 2 ep.toNat ++ bytesBE 2 sq.toNat ++ bytesBE 2 np.toNat ++ bytesBE 2 ln.toNat ++ [0, 0] ++ body) }) :: l →
    s.boot.phase ≠ .recovery →
    (if udp then s.on ZRT_CFG_UDP_EN else s.on ZRT_CFG_RAW_EN) = true →
    s.on (ZRT_SES_CFG_EN k) = true →
    s.on (ZRT_SES_CFG_UDP k) = udp →
    (s.ses k).cur ≠ none →
    s.clocked 10 = true →
    answers (.zrtRequest) s fun t =>
      t.f (ZRT_SES_CNT_REJECTED k) = min (s.f (ZRT_SES_CNT_REJECTED k) + 1) (2 ^ RF.w (ZRT_SES_CNT_REJECTED k) - 1) ∧ t.f ZRT_FLAG_AHEAD = 1 ∧ t.eth = { s.eth with inq := l } ∧ t.zrt = s.zrt) ∧
  (∀ (k : Fin 8) (p : Fin 2) (udp : Bool) (ip : Word) (f : EthFrame) (l : List (Nat × EthFrame)) (fl : BitVec 5) (ep sq np ln : BitVec 16) (body : List Byte) (s : State),
    s.eth.inq = (p.val, { f with etype := if udp then 0x0800 else 0x88B5, data := (if udp then [0x45, 0, 0, 0, 0, 0, 0, 0, 64, 17, 0, 0] ++ bytesBE 4 ip.toNat ++ zeros 4 ++ zeros 2 ++ bytesBE 2 (s.f ZRT_CFG_UDP_PORT) ++ zeros 4 else []) ++ ([0x10, BitVec.ofNat 8 (k + 8 * fl.toNat)] ++ bytesBE 2 ep.toNat ++ bytesBE 2 sq.toNat ++ bytesBE 2 np.toNat ++ bytesBE 2 ln.toNat ++ [0, 0] ++ body) }) :: l →
    s.boot.phase ≠ .recovery →
    (if udp then s.on ZRT_CFG_UDP_EN else s.on ZRT_CFG_RAW_EN) = true →
    s.on (ZRT_SES_CFG_EN k) = true →
    s.on (ZRT_SES_CFG_UDP k) = udp →
    (s.ses k).cur = none →
    ep.toNat ≠ s.f ZRT_EPOCH_EPOCH →
    s.clocked 10 = true →
    answers (.zrtRequest) s fun t =>
      t.responded k sq.toNat 0x0A [] = true ∧ t.f (ZRT_SES_STAT_LAST_STATUS k) = 0x0A ∧ t.f ZRT_FLAG_STALE_EPOCH = 1 ∧
      (t.ses k = { s.ses k with port := p, udp := udp, mac := f.src.toNat, ip := if udp then ip.toNat else 0 } ∧ t.eth.inq = l) ∧
      t.f (ZRT_SES_STAT_NEXT_SEQ k) = s.f (ZRT_SES_STAT_NEXT_SEQ k) ∧ t.f (ZRT_SES_STAT_OPEN k) = s.f (ZRT_SES_STAT_OPEN k)) ∧
  (∀ (k : Fin 8) (p : Fin 2) (udp : Bool) (ip : Word) (f : EthFrame) (l : List (Nat × EthFrame)) (fl : BitVec 5) (ep sq np ln : BitVec 16) (body : List Byte) (c : Nat × List ZrtOp) (s : State),
    s.eth.inq = (p.val, { f with etype := if udp then 0x0800 else 0x88B5, data := (if udp then [0x45, 0, 0, 0, 0, 0, 0, 0, 64, 17, 0, 0] ++ bytesBE 4 ip.toNat ++ zeros 4 ++ zeros 2 ++ bytesBE 2 (s.f ZRT_CFG_UDP_PORT) ++ zeros 4 else []) ++ ([0x10, BitVec.ofNat 8 (k + 8 * fl.toNat)] ++ bytesBE 2 ep.toNat ++ bytesBE 2 sq.toNat ++ bytesBE 2 np.toNat ++ bytesBE 2 ln.toNat ++ [0, 0] ++ body) }) :: l →
    s.boot.phase ≠ .recovery →
    (if udp then s.on ZRT_CFG_UDP_EN else s.on ZRT_CFG_RAW_EN) = true →
    s.on (ZRT_SES_CFG_EN k) = true →
    s.on (ZRT_SES_CFG_UDP k) = udp →
    (s.ses k).cur = none →
    ep.toNat = s.f ZRT_EPOCH_EPOCH →
    s.on (ZRT_SES_STAT_OPEN k) = true →
    (sq.toNat + 1) % 0x10000 = s.f (ZRT_SES_STAT_NEXT_SEQ k) →
    (s.ses k).cache = some (sq.toNat, c) →
    s.clocked 10 = true →
    answers (.zrtRequest) s fun t =>
      t.responded k sq.toNat c.1 c.2 = true ∧ t.f (ZRT_SES_CNT_REPLAYS k) = min (s.f (ZRT_SES_CNT_REPLAYS k) + 1) (2 ^ RF.w (ZRT_SES_CNT_REPLAYS k) - 1) ∧
      (t.ses k = { s.ses k with port := p, udp := udp, mac := f.src.toNat, ip := if udp then ip.toNat else 0 } ∧ t.eth.inq = l) ∧
      t.f (ZRT_SES_STAT_NEXT_SEQ k) = s.f (ZRT_SES_STAT_NEXT_SEQ k) ∧ t.mem = s.mem) ∧
  (∀ (k : Fin 8) (p : Fin 2) (udp : Bool) (ip : Word) (f : EthFrame) (l : List (Nat × EthFrame)) (fl : BitVec 5) (ep sq np ln : BitVec 16) (body : List Byte) (s : State),
    s.eth.inq = (p.val, { f with etype := if udp then 0x0800 else 0x88B5, data := (if udp then [0x45, 0, 0, 0, 0, 0, 0, 0, 64, 17, 0, 0] ++ bytesBE 4 ip.toNat ++ zeros 4 ++ zeros 2 ++ bytesBE 2 (s.f ZRT_CFG_UDP_PORT) ++ zeros 4 else []) ++ ([0x10, BitVec.ofNat 8 (k + 8 * fl.toNat)] ++ bytesBE 2 ep.toNat ++ bytesBE 2 sq.toNat ++ bytesBE 2 np.toNat ++ bytesBE 2 ln.toNat ++ [0, 0] ++ body) }) :: l →
    s.boot.phase ≠ .recovery →
    (if udp then s.on ZRT_CFG_UDP_EN else s.on ZRT_CFG_RAW_EN) = true →
    s.on (ZRT_SES_CFG_EN k) = true →
    s.on (ZRT_SES_CFG_UDP k) = udp →
    (s.ses k).cur = none →
    ep.toNat = s.f ZRT_EPOCH_EPOCH →
    (s.on (ZRT_SES_STAT_OPEN k) = false ∨ (sq.toNat + 1) % 0x10000 ≠ s.f (ZRT_SES_STAT_NEXT_SEQ k)) →
    (fl.toNat % 2 = 0 ∧ (s.on (ZRT_SES_STAT_OPEN k) = false ∨ sq.toNat ≠ s.f (ZRT_SES_STAT_NEXT_SEQ k))) →
    s.clocked 10 = true →
    answers (.zrtRequest) s fun t =>
      t.responded k sq.toNat 9 [] = true ∧ t.f (ZRT_SES_STAT_LAST_STATUS k) = 9 ∧ t.f ZRT_FLAG_BAD_SEQ = 1 ∧
      (t.ses k = { s.ses k with port := p, udp := udp, mac := f.src.toNat, ip := if udp then ip.toNat else 0 } ∧ t.eth.inq = l) ∧
      t.f (ZRT_SES_STAT_NEXT_SEQ k) = s.f (ZRT_SES_STAT_NEXT_SEQ k) ∧ t.f (ZRT_SES_STAT_OPEN k) = s.f (ZRT_SES_STAT_OPEN k)) ∧
  (∀ (k : Fin 8) (p : Fin 2) (udp : Bool) (ip : Word) (f : EthFrame) (l : List (Nat × EthFrame)) (fl : BitVec 5) (ep sq : BitVec 16) (op : Byte) (len : BitVec 16) (a g : Word) (s : State),
    s.eth.inq = (p.val, { f with etype := if udp then 0x0800 else 0x88B5, data := (if udp then [0x45, 0, 0, 0, 0, 0, 0, 0, 64, 17, 0, 0] ++ bytesBE 4 ip.toNat ++ zeros 4 ++ zeros 2 ++ bytesBE 2 (s.f ZRT_CFG_UDP_PORT) ++ zeros 4 else []) ++ ([0x10, BitVec.ofNat 8 (k + 8 * fl.toNat)] ++ bytesBE 2 ep.toNat ++ bytesBE 2 sq.toNat ++ bytesBE 2 1 ++ bytesBE 2 24 ++ [0, 0]  ++ (bytesBE 1 op.toNat ++ [0] ++ bytesBE 2 len.toNat ++ bytesBE 4 a.toNat ++ bytesBE 4 g.toNat)) }) :: l →
    s.boot.phase ≠ .recovery →
    (if udp then s.on ZRT_CFG_UDP_EN else s.on ZRT_CFG_RAW_EN) = true →
    s.on (ZRT_SES_CFG_EN k) = true →
    s.on (ZRT_SES_CFG_UDP k) = udp →
    (s.ses k).cur = none →
    ep.toNat = s.f ZRT_EPOCH_EPOCH →
    (s.on (ZRT_SES_STAT_OPEN k) = false ∨ (sq.toNat + 1) % 0x10000 ≠ s.f (ZRT_SES_STAT_NEXT_SEQ k)) →
    (fl.toNat % 2 = 1 ∨ (s.on (ZRT_SES_STAT_OPEN k) = true ∧ sq.toNat = s.f (ZRT_SES_STAT_NEXT_SEQ k))) →
    (op = 1 ∨ op = 4 ∨ op = 5) →
    bitOf (s.f (ZRT_SES_CFG_OP_GRANT k)) (op.toNat - 1) = true →
    (if op = 1 then 0 < len.toNat ∧ len.toNat ≤ 1024 else if op = 4 then 0 < len.toNat ∧ a.toNat % 64 + len.toNat ≤ 64 else len.toNat = 0) →
    s.clocked 10 = true →
    answers (.zrtRequest) s fun t =>
      t.f (ZRT_SES_STAT_NEXT_SEQ k) = (sq.toNat + 1) % 0x10000 ∧ t.f (ZRT_SES_STAT_OPEN k) = 1 ∧ t.f (ZRT_SES_CNT_REQUESTS k) = (s.f (ZRT_SES_CNT_REQUESTS k) + 1) % 2 ^ (ZRT_SES_CNT_REQUESTS k).w ∧
      (t.ses k).cur = some { seq := sq.toNat, stop := decide (fl.toNat / 2 % 2 = 1), todo := [{ op := op.toNat, status := 0, len := len.toNat, addr := a.toNat, arg := g.toNat, data := [] }] } ∧ (t.ses k).parts = [] ∧
      t.eth.inq = l ∧ (t.ses k).port = p ∧ t.eth.txq = s.eth.txq) ∧
  (∀ (k : Fin 8) (p : Fin 2) (udp : Bool) (ip : Word) (f : EthFrame) (l : List (Nat × EthFrame)) (fl : BitVec 5) (ep sq : BitVec 16) (op : Byte) (len : BitVec 16) (a g : Word) (s : State),
    s.eth.inq = (p.val, { f with etype := if udp then 0x0800 else 0x88B5, data := (if udp then [0x45, 0, 0, 0, 0, 0, 0, 0, 64, 17, 0, 0] ++ bytesBE 4 ip.toNat ++ zeros 4 ++ zeros 2 ++ bytesBE 2 (s.f ZRT_CFG_UDP_PORT) ++ zeros 4 else []) ++ ([0x10, BitVec.ofNat 8 (k + 8 * fl.toNat)] ++ bytesBE 2 ep.toNat ++ bytesBE 2 sq.toNat ++ bytesBE 2 1 ++ bytesBE 2 24 ++ [0, 0]  ++ (bytesBE 1 op.toNat ++ [0] ++ bytesBE 2 len.toNat ++ bytesBE 4 a.toNat ++ bytesBE 4 g.toNat)) }) :: l →
    s.boot.phase ≠ .recovery →
    (if udp then s.on ZRT_CFG_UDP_EN else s.on ZRT_CFG_RAW_EN) = true →
    s.on (ZRT_SES_CFG_EN k) = true →
    s.on (ZRT_SES_CFG_UDP k) = udp →
    (s.ses k).cur = none →
    ep.toNat = s.f ZRT_EPOCH_EPOCH →
    (s.on (ZRT_SES_STAT_OPEN k) = false ∨ (sq.toNat + 1) % 0x10000 ≠ s.f (ZRT_SES_STAT_NEXT_SEQ k)) →
    (fl.toNat % 2 = 1 ∨ (s.on (ZRT_SES_STAT_OPEN k) = true ∧ sq.toNat = s.f (ZRT_SES_STAT_NEXT_SEQ k))) →
    (op = 0 ∨ 8 < op.toNat) →
    s.clocked 10 = true →
    answers (.zrtRequest) s fun t =>
      t.f (ZRT_SES_STAT_NEXT_SEQ k) = (sq.toNat + 1) % 0x10000 ∧ t.f (ZRT_SES_STAT_OPEN k) = 1 ∧ t.f (ZRT_SES_CNT_REQUESTS k) = (s.f (ZRT_SES_CNT_REQUESTS k) + 1) % 2 ^ (ZRT_SES_CNT_REQUESTS k).w ∧
      t.responded k sq.toNat 0 [{ op := op.toNat, status := 6, len := 0, addr := a.toNat, arg := g.toNat, data := [] }] = true ∧ t.f (ZRT_SES_STAT_LAST_STATUS k) = 6 ∧
      (t.ses k).cur = none ∧ (t.ses k).cache = some (sq.toNat, 0, [{ op := op.toNat, status := 6, len := 0, addr := a.toNat, arg := g.toNat, data := [] }]) ∧
      t.mem = s.mem) ∧
  (∀ (k : Fin 8) (p : Fin 2) (udp : Bool) (ip : Word) (f : EthFrame) (l : List (Nat × EthFrame)) (fl : BitVec 5) (ep sq : BitVec 16) (op : Byte) (len : BitVec 16) (a g : Word) (s : State),
    s.eth.inq = (p.val, { f with etype := if udp then 0x0800 else 0x88B5, data := (if udp then [0x45, 0, 0, 0, 0, 0, 0, 0, 64, 17, 0, 0] ++ bytesBE 4 ip.toNat ++ zeros 4 ++ zeros 2 ++ bytesBE 2 (s.f ZRT_CFG_UDP_PORT) ++ zeros 4 else []) ++ ([0x10, BitVec.ofNat 8 (k + 8 * fl.toNat)] ++ bytesBE 2 ep.toNat ++ bytesBE 2 sq.toNat ++ bytesBE 2 1 ++ bytesBE 2 24 ++ [0, 0]  ++ (bytesBE 1 op.toNat ++ [0] ++ bytesBE 2 len.toNat ++ bytesBE 4 a.toNat ++ bytesBE 4 g.toNat)) }) :: l →
    s.boot.phase ≠ .recovery →
    (if udp then s.on ZRT_CFG_UDP_EN else s.on ZRT_CFG_RAW_EN) = true →
    s.on (ZRT_SES_CFG_EN k) = true →
    s.on (ZRT_SES_CFG_UDP k) = udp →
    (s.ses k).cur = none →
    ep.toNat = s.f ZRT_EPOCH_EPOCH →
    (s.on (ZRT_SES_STAT_OPEN k) = false ∨ (sq.toNat + 1) % 0x10000 ≠ s.f (ZRT_SES_STAT_NEXT_SEQ k)) →
    (fl.toNat % 2 = 1 ∨ (s.on (ZRT_SES_STAT_OPEN k) = true ∧ sq.toNat = s.f (ZRT_SES_STAT_NEXT_SEQ k))) →
    (op = 1 ∨ op = 4 ∨ op = 5) →
    bitOf (s.f (ZRT_SES_CFG_OP_GRANT k)) (op.toNat - 1) = false →
    len.toNat ≤ 1024 →
    s.clocked 10 = true →
    answers (.zrtRequest) s fun t =>
      t.f (ZRT_SES_STAT_NEXT_SEQ k) = (sq.toNat + 1) % 0x10000 ∧ t.f (ZRT_SES_STAT_OPEN k) = 1 ∧ t.f (ZRT_SES_CNT_REQUESTS k) = (s.f (ZRT_SES_CNT_REQUESTS k) + 1) % 2 ^ (ZRT_SES_CNT_REQUESTS k).w ∧
      t.responded k sq.toNat 0 [{ op := op.toNat, status := 7, len := 0, addr := a.toNat, arg := g.toNat, data := [] }] = true ∧ t.f (ZRT_SES_STAT_LAST_STATUS k) = 7 ∧
      (t.ses k).cur = none ∧ (t.ses k).cache = some (sq.toNat, 0, [{ op := op.toNat, status := 7, len := 0, addr := a.toNat, arg := g.toNat, data := [] }]) ∧
      t.mem = s.mem) ∧
  (∀ (k : Fin 8) (p : Fin 2) (udp : Bool) (ip : Word) (f : EthFrame) (l : List (Nat × EthFrame)) (fl : BitVec 5) (ep sq np ln : BitVec 16) (body : List Byte) (s : State),
    s.eth.inq = (p.val, { f with etype := if udp then 0x0800 else 0x88B5, data := (if udp then [0x45, 0, 0, 0, 0, 0, 0, 0, 64, 17, 0, 0] ++ bytesBE 4 ip.toNat ++ zeros 4 ++ zeros 2 ++ bytesBE 2 (s.f ZRT_CFG_UDP_PORT) ++ zeros 4 else []) ++ ([0x10, BitVec.ofNat 8 (k + 8 * fl.toNat)] ++ bytesBE 2 ep.toNat ++ bytesBE 2 sq.toNat ++ bytesBE 2 np.toNat ++ bytesBE 2 ln.toNat ++ [0, 0] ++ body) }) :: l →
    s.boot.phase ≠ .recovery →
    (if udp then s.on ZRT_CFG_UDP_EN else s.on ZRT_CFG_RAW_EN) = true →
    s.on (ZRT_SES_CFG_EN k) = true →
    s.on (ZRT_SES_CFG_UDP k) = udp →
    (s.ses k).cur = none →
    ep.toNat = s.f ZRT_EPOCH_EPOCH →
    (s.on (ZRT_SES_STAT_OPEN k) = false ∨ (sq.toNat + 1) % 0x10000 ≠ s.f (ZRT_SES_STAT_NEXT_SEQ k)) →
    (fl.toNat % 2 = 1 ∨ (s.on (ZRT_SES_STAT_OPEN k) = true ∧ sq.toNat = s.f (ZRT_SES_STAT_NEXT_SEQ k))) →
    (ln.toNat < 12 ∨ 1472 < ln.toNat ∨ body.length + 12 < ln.toNat ∨ np.toNat = 0 ∨ 64 < np.toNat) →
    s.clocked 10 = true →
    answers (.zrtRequest) s fun t =>
      t.f (ZRT_SES_STAT_NEXT_SEQ k) = (sq.toNat + 1) % 0x10000 ∧ t.f (ZRT_SES_STAT_OPEN k) = 1 ∧ t.f (ZRT_SES_CNT_REQUESTS k) = (s.f (ZRT_SES_CNT_REQUESTS k) + 1) % 2 ^ (ZRT_SES_CNT_REQUESTS k).w ∧
      t.responded k sq.toNat 0x0C [] = true ∧ t.f (ZRT_SES_STAT_LAST_STATUS k) = 0x0C ∧
      (t.ses k).cur = none ∧ (t.ses k).cache = some (sq.toNat, 0x0C, [])) ∧
  (∀ (k : Fin 8) (p : Fin 2) (udp : Bool) (ip : Word) (f : EthFrame) (l : List (Nat × EthFrame)) (fl : BitVec 5) (ep sq : BitVec 16) (s : State),
    s.eth.inq = (p.val, { f with etype := if udp then 0x0800 else 0x88B5, data := (if udp then [0x45, 0, 0, 0, 0, 0, 0, 0, 64, 17, 0, 0] ++ bytesBE 4 ip.toNat ++ zeros 4 ++ zeros 2 ++ bytesBE 2 (s.f ZRT_CFG_UDP_PORT) ++ zeros 4 else []) ++ ([0x10, BitVec.ofNat 8 (k + 8 * fl.toNat)] ++ bytesBE 2 ep.toNat ++ bytesBE 2 sq.toNat ++ bytesBE 2 2 ++ bytesBE 2 36 ++ [0, 0]  ++ (bytesBE 4 0x01000400 ++ zeros 8 ++ bytesBE 4 0x010001C0 ++ zeros 8)) }) :: l →
    s.boot.phase ≠ .recovery →
    (if udp then s.on ZRT_CFG_UDP_EN else s.on ZRT_CFG_RAW_EN) = true →
    s.on (ZRT_SES_CFG_EN k) = true →
    s.on (ZRT_SES_CFG_UDP k) = udp →
    (s.ses k).cur = none →
    ep.toNat = s.f ZRT_EPOCH_EPOCH →
    (s.on (ZRT_SES_STAT_OPEN k) = false ∨ (sq.toNat + 1) % 0x10000 ≠ s.f (ZRT_SES_STAT_NEXT_SEQ k)) →
    (fl.toNat % 2 = 1 ∨ (s.on (ZRT_SES_STAT_OPEN k) = true ∧ sq.toNat = s.f (ZRT_SES_STAT_NEXT_SEQ k))) →
    s.clocked 10 = true →
    answers (.zrtRequest) s fun t =>
      t.f (ZRT_SES_STAT_NEXT_SEQ k) = (sq.toNat + 1) % 0x10000 ∧ t.f (ZRT_SES_STAT_OPEN k) = 1 ∧ t.f (ZRT_SES_CNT_REQUESTS k) = (s.f (ZRT_SES_CNT_REQUESTS k) + 1) % 2 ^ (ZRT_SES_CNT_REQUESTS k).w ∧
      t.responded k sq.toNat 0x0B [] = true ∧ t.f (ZRT_SES_STAT_LAST_STATUS k) = 0x0B ∧
      (t.ses k).cur = none ∧ (t.ses k).cache = some (sq.toNat, 0x0B, [])) ∧
  (∀ (k : Fin 8) (q : Nat) (st : Bool) (dn : List ZrtOp) (a g : Word) (d : List Byte) (s : State),
    (s.ses k).cur = some { seq := q, stop := st, todo := { op := 7, len := 8, addr := a.toNat, arg := g.toNat, data := d } :: [], done := dn } →
    (s.ses k).parts = [] →
    s.boot.phase ≠ .recovery →
    ((s.key (25 + k)).kind ≠ 1 ∨ d ≠ ((cmac (s.key (25 + k)).bytes (bytesBE 2 (s.f ZRT_EPOCH_EPOCH) ++ bytesBE 2 q ++ bytesBE 1 k ++ ([7, 0, 0, 8] ++ bytesBE 4 a.toNat ++ bytesBE 4 g.toNat))).take 8)) →
    s.zrtTurn = some k.val →
    s.clocked 10 = true →
    answers (.zrtReset k) s fun t =>
      (t.ses k).cur = none ∧ (t.ses k).cache = some (q, 0, (dn ++ [{ op := 7, status := 8, len := 8, addr := a.toNat, arg := g.toNat, data := [] }])) ∧
      t.responded k q 0 (dn ++ [{ op := 7, status := 8, len := 8, addr := a.toNat, arg := g.toNat, data := [] }]) = true ∧
      t.f (ZRT_SES_STAT_LAST_STATUS k) = lastStatus 0 (dn ++ [{ op := 7, status := 8, len := 8, addr := a.toNat, arg := g.toNat, data := [] }]) % 2 ^ 8 ∧
      t.f ZRT_FLAG_AUTH_FAIL = 1 ∧ t.boot = s.boot ∧ t.str = s.str ∧ t.upd = s.upd) ∧
  (∀ (k : Fin 8) (q : Nat) (st : Bool) (dn : List ZrtOp) (a g : Word) (d : List Byte) (s : State),
    (s.ses k).cur = some { seq := q, stop := st, todo := { op := 8, len := 8, addr := a.toNat, arg := g.toNat, data := d } :: [], done := dn } →
    (s.ses k).parts = [] →
    s.boot.phase ≠ .recovery →
    ((s.key (25 + k)).kind ≠ 1 ∨ d ≠ ((cmac (s.key (25 + k)).bytes (bytesBE 2 (s.f ZRT_EPOCH_EPOCH) ++ bytesBE 2 q ++ bytesBE 1 k ++ ([8, 0, 0, 8] ++ bytesBE 4 a.toNat ++ bytesBE 4 g.toNat))).take 8)) →
    s.zrtTurn = some k.val →
    s.clocked 10 = true →
    answers (.zrtAccept k) s fun t =>
      (t.ses k).cur = none ∧ (t.ses k).cache = some (q, 0, (dn ++ [{ op := 8, status := 8, len := 8, addr := a.toNat, arg := g.toNat, data := [] }])) ∧
      t.responded k q 0 (dn ++ [{ op := 8, status := 8, len := 8, addr := a.toNat, arg := g.toNat, data := [] }]) = true ∧
      t.f (ZRT_SES_STAT_LAST_STATUS k) = lastStatus 0 (dn ++ [{ op := 8, status := 8, len := 8, addr := a.toNat, arg := g.toNat, data := [] }]) % 2 ^ 8 ∧
      t.f ZRT_FLAG_AUTH_FAIL = 1 ∧ t.boot = s.boot ∧ t.str = s.str ∧ t.upd = s.upd) ∧
  (∀ (k : Fin 8) (q : Nat) (st : Bool) (dn : List ZrtOp) (a : Word) (s : State),
    (s.ses k).cur = some { seq := q, stop := st, todo := { op := 7, len := 8, addr := a.toNat, arg := 0, data := ((cmac (s.key (25 + k)).bytes (bytesBE 2 (s.f ZRT_EPOCH_EPOCH) ++ bytesBE 2 q ++ bytesBE 1 k ++ ([7, 0, 0, 8] ++ bytesBE 4 a.toNat ++ bytesBE 4 0))).take 8) } :: [], done := dn } →
    (s.ses k).parts = [] →
    s.boot.phase ≠ .recovery →
    (s.key (25 + k)).kind = 1 →
    s.zrtTurn = some k.val →
    s.clocked 10 = true →
    answers (.zrtReset k) s fun t =>
      (t.ses k).cur = none ∧ (t.ses k).cache = some (q, 0, (dn ++ [{ op := 7, status := 0, len := 8, addr := a.toNat, arg := 0, data := [] }])) ∧
      t.responded k q 0 (dn ++ [{ op := 7, status := 0, len := 8, addr := a.toNat, arg := 0, data := [] }]) = true ∧
      t.f (ZRT_SES_STAT_LAST_STATUS k) = lastStatus 0 (dn ++ [{ op := 7, status := 0, len := 8, addr := a.toNat, arg := 0, data := [] }]) % 2 ^ 8 ∧
      t.boot = { s.boot with due := some (5, 0, 0x40 + k) } ∧ t.str = s.str) ∧
  (∀ (k : Fin 8) (q : Nat) (st : Bool) (dn : List ZrtOp) (a : Word) (s : State),
    (s.ses k).cur = some { seq := q, stop := st, todo := { op := 7, len := 8, addr := a.toNat, arg := 1, data := ((cmac (s.key (25 + k)).bytes (bytesBE 2 (s.f ZRT_EPOCH_EPOCH) ++ bytesBE 2 q ++ bytesBE 1 k ++ ([7, 0, 0, 8] ++ bytesBE 4 a.toNat ++ bytesBE 4 1))).take 8) } :: [], done := dn } →
    (s.ses k).parts = [] →
    s.boot.phase ≠ .recovery →
    (s.key (25 + k)).kind = 1 →
    s.zrtTurn = some k.val →
    s.clocked 10 = true →
    answers (.zrtReset k) s fun t =>
      (t.ses k).cur = none ∧ (t.ses k).cache = some (q, 0, (dn ++ [{ op := 7, status := 0, len := 8, addr := a.toNat, arg := 1, data := [] }])) ∧
      t.responded k q 0 (dn ++ [{ op := 7, status := 0, len := 8, addr := a.toNat, arg := 1, data := [] }]) = true ∧
      t.f (ZRT_SES_STAT_LAST_STATUS k) = lastStatus 0 (dn ++ [{ op := 7, status := 0, len := 8, addr := a.toNat, arg := 1, data := [] }]) % 2 ^ 8 ∧
      t.str = { s.str with recovery := true } ∧ t.boot = s.boot) ∧
  (∀ (k : Fin 8) (q : Nat) (st : Bool) (dn : List ZrtOp) (a : Word) (s : State),
    (s.ses k).cur = some { seq := q, stop := st, todo := { op := 8, len := 8, addr := a.toNat, arg := 0, data := ((cmac (s.key (25 + k)).bytes (bytesBE 2 (s.f ZRT_EPOCH_EPOCH) ++ bytesBE 2 q ++ bytesBE 1 k ++ ([8, 0, 0, 8] ++ bytesBE 4 a.toNat ++ bytesBE 4 0))).take 8) } :: [], done := dn } →
    (s.ses k).parts = [] →
    s.boot.phase ≠ .recovery →
    (s.key (25 + k)).kind = 1 →
    s.f UPD_STAT_STATE = 3 →
    s.on TRK_CFG_ROLE = false →
    s.zrtTurn = some k.val →
    s.clocked 10 = true →
    answers (.zrtAccept k) s fun t =>
      (t.ses k).cur = none ∧ (t.ses k).cache = some (q, 0, (dn ++ [{ op := 8, status := 0, len := 8, addr := a.toNat, arg := 0, data := [] }])) ∧
      t.responded k q 0 (dn ++ [{ op := 8, status := 0, len := 8, addr := a.toNat, arg := 0, data := [] }]) = true ∧
      t.f (ZRT_SES_STAT_LAST_STATUS k) = lastStatus 0 (dn ++ [{ op := 8, status := 0, len := 8, addr := a.toNat, arg := 0, data := [] }]) % 2 ^ 8 ∧
      t.f (slotStateRF (s.f UPD_SLOTS_ACTIVE)) = 4 ∧ t.f UPD_FLAG_ACCEPTED = 1 ∧ t.f UPD_STAT_STATE = 0 ∧ t.boot = s.boot) ∧
  (∀ (k : Fin 8) (q : Nat) (st : Bool) (dn : List ZrtOp) (a : Word) (s : State),
    (s.ses k).cur = some { seq := q, stop := st, todo := { op := 8, len := 8, addr := a.toNat, arg := 1, data := ((cmac (s.key (25 + k)).bytes (bytesBE 2 (s.f ZRT_EPOCH_EPOCH) ++ bytesBE 2 q ++ bytesBE 1 k ++ ([8, 0, 0, 8] ++ bytesBE 4 a.toNat ++ bytesBE 4 1))).take 8) } :: [], done := dn } →
    (s.ses k).parts = [] →
    s.boot.phase ≠ .recovery →
    (s.key (25 + k)).kind = 1 →
    s.f UPD_STAT_STATE = 3 →
    s.on TRK_CFG_ROLE = false →
    s.zrtTurn = some k.val →
    s.clocked 10 = true →
    answers (.zrtAccept k) s fun t =>
      (t.ses k).cur = none ∧ (t.ses k).cache = some (q, 0, (dn ++ [{ op := 8, status := 0, len := 8, addr := a.toNat, arg := 1, data := [] }])) ∧
      t.responded k q 0 (dn ++ [{ op := 8, status := 0, len := 8, addr := a.toNat, arg := 1, data := [] }]) = true ∧
      t.f (ZRT_SES_STAT_LAST_STATUS k) = lastStatus 0 (dn ++ [{ op := 8, status := 0, len := 8, addr := a.toNat, arg := 1, data := [] }]) % 2 ^ 8 ∧
      t.f (slotStateRF (s.f UPD_SLOTS_ACTIVE)) = 5 ∧ t.f UPD_LAST_CAUSE = 2 ∧ t.f UPD_LAST_OUTCOME = 3 ∧ t.boot.due = some (8, 0, 0)) ∧
  (∀ (k : Fin 8) (q : Nat) (st : Bool) (dn : List ZrtOp) (a g : Word) (s : State),
    (s.ses k).cur = some { seq := q, stop := st, todo := { op := 8, len := 8, addr := a.toNat, arg := g.toNat, data := ((cmac (s.key (25 + k)).bytes (bytesBE 2 (s.f ZRT_EPOCH_EPOCH) ++ bytesBE 2 q ++ bytesBE 1 k ++ ([8, 0, 0, 8] ++ bytesBE 4 a.toNat ++ bytesBE 4 g.toNat))).take 8) } :: [], done := dn } →
    (s.ses k).parts = [] →
    s.boot.phase ≠ .recovery →
    (s.key (25 + k)).kind = 1 →
    s.f UPD_STAT_STATE ≠ 3 →
    s.zrtTurn = some k.val →
    s.clocked 10 = true →
    answers (.zrtAccept k) s fun t =>
      (t.ses k).cur = none ∧ (t.ses k).cache = some (q, 0, (dn ++ [{ op := 8, status := 2, len := 8, addr := a.toNat, arg := g.toNat, data := [] }])) ∧
      t.responded k q 0 (dn ++ [{ op := 8, status := 2, len := 8, addr := a.toNat, arg := g.toNat, data := [] }]) = true ∧
      t.f (ZRT_SES_STAT_LAST_STATUS k) = lastStatus 0 (dn ++ [{ op := 8, status := 2, len := 8, addr := a.toNat, arg := g.toNat, data := [] }]) % 2 ^ 8 ∧
      t.boot = s.boot ∧ t.upd = s.upd) ∧
  (∀ (k : Fin 8) (p : Fin 2) (udp : Bool) (ip : Word) (f : EthFrame) (l : List (Nat × EthFrame)) (fl : BitVec 5) (ep sq np ln : BitVec 16) (body : List Byte) (s : State),
    s.eth.inq = (p.val, { f with etype := if udp then 0x0800 else 0x88B5, data := (if udp then [0x45, 0, 0, 0, 0, 0, 0, 0, 64, 17, 0, 0] ++ bytesBE 4 ip.toNat ++ zeros 4 ++ zeros 2 ++ bytesBE 2 (s.f ZRT_CFG_UDP_PORT) ++ zeros 4 else []) ++ ([0x13, BitVec.ofNat 8 (k + 8 * fl.toNat)] ++ bytesBE 2 ep.toNat ++ bytesBE 2 sq.toNat ++ bytesBE 2 np.toNat ++ bytesBE 2 ln.toNat ++ [0, 0] ++ body) }) :: l →
    s.boot.phase ≠ .recovery →
    (if udp then s.on ZRT_CFG_UDP_EN else s.on ZRT_CFG_RAW_EN) = true →
    s.on (ZRT_SES_CFG_EN k) = true →
    s.on (ZRT_SES_CFG_UDP k) = udp →
    ((s.ses k).note = [] ∧ 0 < s.f ZRT_NOTIFY_CFG_BATCH_N) →
    ((s.ses k).unacked.any (fun e => e.1 = sq.toNat) = true) →
    s.clocked 10 = true →
    answers (.zrtNotifyAck) s fun t =>
      (t.ses k).unacked = ((s.ses k).unacked.dropWhile (fun e => e.1 ≠ sq.toNat)).drop 1 ∧ t.eth.inq = l ∧
      (t.ses k).cur = (s.ses k).cur ∧ (t.ses k).cache = (s.ses k).cache ∧ (t.ses k).noteSeq = (s.ses k).noteSeq) ∧
  (∀ (k : Fin 8) (p : Fin 2) (udp : Bool) (ip : Word) (f : EthFrame) (l : List (Nat × EthFrame)) (fl : BitVec 5) (ep sq np ln : BitVec 16) (body : List Byte) (s : State),
    s.eth.inq = (p.val, { f with etype := if udp then 0x0800 else 0x88B5, data := (if udp then [0x45, 0, 0, 0, 0, 0, 0, 0, 64, 17, 0, 0] ++ bytesBE 4 ip.toNat ++ zeros 4 ++ zeros 2 ++ bytesBE 2 (s.f ZRT_CFG_UDP_PORT) ++ zeros 4 else []) ++ ([0x13, BitVec.ofNat 8 (k + 8 * fl.toNat)] ++ bytesBE 2 ep.toNat ++ bytesBE 2 sq.toNat ++ bytesBE 2 np.toNat ++ bytesBE 2 ln.toNat ++ [0, 0] ++ body) }) :: l →
    s.boot.phase ≠ .recovery →
    (if udp then s.on ZRT_CFG_UDP_EN else s.on ZRT_CFG_RAW_EN) = true →
    s.on (ZRT_SES_CFG_EN k) = true →
    s.on (ZRT_SES_CFG_UDP k) = udp →
    answers (.zrtRequest) s fun t =>
      t = s) ∧
  (∀ (k : Fin 8) (p : Fin 2) (udp : Bool) (ip : Word) (f : EthFrame) (l : List (Nat × EthFrame)) (fl : BitVec 5) (ep sq np ln : BitVec 16) (body : List Byte) (s : State),
    s.eth.inq = (p.val, { f with etype := if udp then 0x0800 else 0x88B5, data := (if udp then [0x45, 0, 0, 0, 0, 0, 0, 0, 64, 17, 0, 0] ++ bytesBE 4 ip.toNat ++ zeros 4 ++ zeros 2 ++ bytesBE 2 (s.f ZRT_CFG_UDP_PORT) ++ zeros 4 else []) ++ ([0x10, BitVec.ofNat 8 (k + 8 * fl.toNat)] ++ bytesBE 2 ep.toNat ++ bytesBE 2 sq.toNat ++ bytesBE 2 np.toNat ++ bytesBE 2 ln.toNat ++ [0, 0] ++ body) }) :: l →
    s.boot.phase ≠ .recovery →
    (if udp then s.on ZRT_CFG_UDP_EN else s.on ZRT_CFG_RAW_EN) = true →
    answers (.zrtNotifyAck) s fun t =>
      t = s)

/-- Trunk training, its failure, acknowledgements and resends, link loss and completion timeouts. A master whose link is
not up starts an attempt. The DISCOVER that returns trains exactly the indices that appear once, shows their order
and sets MISSING where one of EXPECT is not among them; with an index twice none is trained, DUP_INDEX; without a
return the attempt fails. An expansion with a free place forwards it; COUNT 3, a bad CRC, or no attempt discard it
(R391). ACK frees a kept frame; NAK and 20 µs without ACK resend it, counted, and after four resends the master takes
the link as lost (R389, R392). At a loss every window is untrained, LOSSES counts, LINK_LOST is set and cued;
outstanding transactions complete with LINK_LOST and zeros, posted writes fail with LINK_LOST, prefetch buffers of
the windows go; so also after 5 ms without a completion. An expansion drops and counts queued REQs, keeps its NOTIFY
records and runs its slate free. Silence of an entry to Deep sleep or Off is no loss (R409). The expansion's LINK and
the order kept are log entry 46. Says that these complete: trunkTrainAttempt, trunkDiscover, trunkDiscoverTimeout,
trunkAck, trunkNak, trunkResendTimeout, trunkLinkLost, trunkCompletionTimeout. -/
def Obligations.TrunkTrainingLossAndFrames : Prop :=
  (∀ (s : State),
    s.on TRK_CFG_ROLE = false →
    s.f TRK_STAT_LINK ≠ 2 →
    s.boot.xtalBad = false →
    s.clocked 15 = true →
    s.boot.phase ≠ .reset →
    answers (.trunkTrainAttempt) s fun t =>
      t.f TRK_STAT_LINK = 1 ∧ t.trk = { s.trk with attempt := true } ∧ regsBut [TRK_STAT] s t ∧ s.sameBut [.regs, .trk] t) ∧
  (∀ (s : State),
    (s.on TRK_CFG_ROLE = true ∨ s.f TRK_STAT_LINK = 2 ∨ s.boot.xtalBad = true) →
    answers (.trunkTrainAttempt) s fun t =>
      t = s) ∧
  (∀ (l : List (Fin 4)) (s : State),
    s.on TRK_CFG_ROLE = false →
    s.boot.xtalBad = false →
    s.trk.attempt = true →
    l.length ≤ 3 →
    ([1, 2, 3].all (fun n => l.count n ≤ 1) = true) →
    s.clocked 15 = true →
    answers (.trunkDiscover l true) s fun t =>
      (∀ n : Fin 4, t.trkUsable n = (decide (n ≠ 0) && l.contains n)) ∧
      t.f TRK_STAT_LINK = 2 ∧ t.f TRK_STAT_ORDER = (l.getD 0 0).val + 4 * (l.getD 1 0).val + 16 * (l.getD 2 0).val ∧
      (t.f TRK_FLAG_MISSING = (if [1, 2, 3].any (fun (n : Fin 4) => bitOf (s.f TRK_CFG_EXPECT) (n.val - 1) && !l.contains n) then 1 else s.f TRK_FLAG_MISSING)) ∧
      (s.scr.trkEngine ≠ 0 → t.offers.any (fun o => o.target = s.scr.trkEngine && o.cue.cls = 7 && o.cue.code = 2 && o.cue.index = 0x24) = true) ∧
      t.trk = { s.trk with attempt := false }) ∧
  (∀ (l : List (Fin 4)) (s : State),
    s.on TRK_CFG_ROLE = false →
    s.boot.xtalBad = false →
    s.trk.attempt = true →
    l.length ≤ 3 →
    ([1, 2, 3].any (fun n => 2 ≤ l.count n) = true) →
    s.clocked 15 = true →
    answers (.trunkDiscover l true) s fun t =>
      ((∀ n : Fin 4, t.trkUsable n = false) ∧ t.f TRK_STAT_TRAINED = 0 ∧ t.f TRK_FLAG_DUP_INDEX = 1) ∧
      (s.scr.trkEngine ≠ 0 → t.offers.any (fun o => o.target = s.scr.trkEngine && o.cue.cls = 7 && o.cue.code = 3 && o.cue.index = 0x24) = true) ∧
      t.trk = { s.trk with attempt := false }) ∧
  (∀ (l : List (Fin 4)) (s : State),
    s.on TRK_CFG_ROLE = true →
    s.boot.xtalBad = false →
    l.length < 3 →
    s.clocked 15 = true →
    answers (.trunkDiscover l true) s fun t =>
      t.f TRK_STAT_LINK = 2 ∧ t.zrt = s.zrt ∧
      (s.zrt.all (fun x => x.2.note.isEmpty) = true → t.trk = s.trk)) ∧
  (∀ (k : Fin 8) (n : Nat) (c : Cue) (s : State),
    s.on TRK_CFG_ROLE = true →
    s.boot.xtalBad = false →
    s.zrt = [(k.val, { note := [(n, c)] })] →
    s.trk.outs = [] →
    s.clocked 15 = true →
    answers (.trunkDiscover [] true) s fun t =>
      t.trk.outs.map (fun o => (o.2.orig, o.2.op, o.2.len, o.2.data, o.2.what)) = [(0x40 + k.val, 1, 16, c.bytes, 6)] ∧ t.zrt = s.zrt) ∧
  (∀ (l : List (Fin 4)) (crc : Bool) (s : State),
    (crc = false ∨ 3 < l.length ∨ s.boot.xtalBad = true ∨ (s.on TRK_CFG_ROLE = true ∧ l.length = 3) ∨ (s.on TRK_CFG_ROLE = false ∧ s.trk.attempt = false)) →
    answers (.trunkDiscover l crc) s fun t =>
      t = s) ∧
  (∀ (s : State),
    s.trk.attempt = true →
    answers (.trunkDiscoverTimeout) s fun t =>
      t.f TRK_STAT_LINK = 0 ∧ t.trk = { s.trk with attempt := false } ∧ regsBut [TRK_STAT] s t ∧ s.sameBut [.regs, .trk] t) ∧
  (∀ (s : State),
    s.trk.attempt = false →
    answers (.trunkDiscoverTimeout) s fun t =>
      t = s) ∧
  (∀ (q : Byte) (s : State),
    s.clocked 15 = true →
    answers (.trunkAck q) s fun t =>
      t.trk = { s.trk with kept := s.trk.kept.filter (fun f => f.seq ≠ q.toNat) } ∧ s.sameBut [.trk] t) ∧
  (∀ (f : TrkFrame) (q : Byte) (l : List TrkFrame) (r : Nat) (s : State),
    s.trk.kept = { f with seq := q.toNat, resent := r } :: l →
    (s.on TRK_CFG_ROLE = true ∨ r < 4) →
    (l.all (fun x => x.seq ≠ q.toNat) = true) →
    s.clocked 15 = true →
    answers (.trunkNak q) s fun t =>
      t.trk = { s.trk with kept := { f with seq := q.toNat, resent := r + 1 } :: l } ∧ t.f TRK_FLAG_RESEND = 1 ∧ t.f (TRK_CNT_RESENDS) = min (s.f (TRK_CNT_RESENDS) + 1) (2 ^ RF.w (TRK_CNT_RESENDS) - 1) ∧
      regsBut [TRK_FLAG, TRK_FLAG_CNT, TRK_CNT] s t ∧ s.sameBut [.regs, .trk] t) ∧
  (∀ (f : TrkFrame) (q : Byte) (l : List TrkFrame) (r : Nat) (s : State),
    s.trk.kept = { f with seq := q.toNat, resent := r } :: l →
    s.on TRK_CFG_ROLE = false →
    4 ≤ r →
    s.clocked 15 = true →
    answers (.trunkNak q) s fun t =>
      t.f TRK_STAT_LINK = 0 ∧ t.f TRK_STAT_TRAINED = 0 ∧ t.f TRK_FLAG_LINK_LOST = 1 ∧ t.f (TRK_CNT_LOSSES) = min (s.f (TRK_CNT_LOSSES) + 1) (2 ^ RF.w (TRK_CNT_LOSSES) - 1) ∧
      t.trk.kept = []) ∧
  (∀ (q : Byte) (s : State),
    (s.trk.kept.any (fun f => f.seq = q.toNat) = false) →
    answers (.trunkNak q) s fun t =>
      t = s) ∧
  (∀ (f : TrkFrame) (q : Byte) (l : List TrkFrame) (r : Nat) (s : State),
    s.trk.kept = { f with seq := q.toNat, resent := r } :: l →
    (s.on TRK_CFG_ROLE = true ∨ r < 4) →
    (l.all (fun x => x.seq ≠ q.toNat) = true) →
    s.clocked 15 = true →
    answers (.trunkResendTimeout q) s fun t =>
      t.trk = { s.trk with kept := { f with seq := q.toNat, resent := r + 1 } :: l } ∧ t.f TRK_FLAG_RESEND = 1 ∧ t.f (TRK_CNT_RESENDS) = min (s.f (TRK_CNT_RESENDS) + 1) (2 ^ RF.w (TRK_CNT_RESENDS) - 1) ∧
      regsBut [TRK_FLAG, TRK_FLAG_CNT, TRK_CNT] s t ∧ s.sameBut [.regs, .trk] t) ∧
  (∀ (f : TrkFrame) (q : Byte) (l : List TrkFrame) (r : Nat) (s : State),
    s.trk.kept = { f with seq := q.toNat, resent := r } :: l →
    s.on TRK_CFG_ROLE = false →
    4 ≤ r →
    s.clocked 15 = true →
    answers (.trunkResendTimeout q) s fun t =>
      t.f TRK_STAT_LINK = 0 ∧ t.f TRK_STAT_TRAINED = 0 ∧ t.f TRK_FLAG_LINK_LOST = 1 ∧ t.f (TRK_CNT_LOSSES) = min (s.f (TRK_CNT_LOSSES) + 1) (2 ^ RF.w (TRK_CNT_LOSSES) - 1) ∧
      t.trk.kept = []) ∧
  (∀ (q : Byte) (s : State),
    (s.trk.kept.any (fun f => f.seq = q.toNat) = false) →
    answers (.trunkResendTimeout q) s fun t =>
      t = s) ∧
  (∀ (s : State),
    s.on TRK_CFG_ROLE = false →
    s.f TRK_STAT_LINK = 2 →
    s.f PWR_STATE_PHASE < 2 →
    s.trk.outs = [] →
    s.clocked 15 = true →
    answers (.trunkLinkLost) s fun t =>
      t.f TRK_STAT_LINK = 0 ∧ t.f TRK_STAT_TRAINED = 0 ∧ t.f TRK_FLAG_LINK_LOST = 1 ∧ t.f (TRK_CNT_LOSSES) = min (s.f (TRK_CNT_LOSSES) + 1) (2 ^ RF.w (TRK_CNT_LOSSES) - 1) ∧
      t.trk.outs = [] ∧ t.trk.kept = [] ∧ t.trk.attempt = false ∧
      (s.scr.trkEngine ≠ 0 → t.offers.any (fun o => o.target = s.scr.trkEngine && o.cue.cls = 7 && o.cue.code = 1 && o.cue.index = 0x24) = true) ∧
      (t.brg.posted = s.brg.posted.map (fun (r : TrkReq) => if isFar r.addr ∧ r.fail = 0 then { r with fail := 0x0F } else r)) ∧
      t.brg.pf = s.brg.pf.filter (fun b => !isFar b.base) ∧ t.brg.wait = s.brg.wait ∧ t.gw = s.gw) ∧
  (∀ (g : Fin 48) (tg : Nat) (a : Word) (n : Nat) (s : State),
    n < 0x10000 →
    s.on TRK_CFG_ROLE = false →
    s.f TRK_STAT_LINK = 2 →
    s.f PWR_STATE_PHASE < 2 →
    s.trk.outs = [(tg, { orig := 0x10 + g.val, op := 0, addr := a.toNat, len := n, what := 0 })] →
    (s.eng g).load.isSome = true →
    s.clocked 15 = true →
    answers (.trunkLinkLost) s fun t =>
      t.f TRK_STAT_LINK = 0 ∧ t.f TRK_STAT_TRAINED = 0 ∧ t.f TRK_FLAG_LINK_LOST = 1 ∧ t.f (TRK_CNT_LOSSES) = min (s.f (TRK_CNT_LOSSES) + 1) (2 ^ RF.w (TRK_CNT_LOSSES) - 1) ∧
      t.trk.outs = [] ∧ t.trk.kept = [] ∧ t.trk.attempt = false ∧
      (t.eng g).load = (s.eng g).load.map (fun l => { l with data := some (zeros n) })) ∧
  (∀ (k : Fin 8) (q tg : Nat) (a : Word) (n : Nat) (s : State),
    n ≤ 64 →
    s.on TRK_CFG_ROLE = false →
    s.f TRK_STAT_LINK = 2 →
    s.f PWR_STATE_PHASE < 2 →
    s.trk.outs = [(tg, { orig := 0x40 + k.val, op := 0, spec := true, addr := a.toNat, len := n, what := 1, zrt := true })] →
    (s.ses k).cur = some { seq := q, todo := [{ op := 1, len := n, addr := a.toNat }] } →
    (s.ses k).parts = [{ addr := a.toNat, len := n }] →
    s.clocked 15 = true →
    answers (.trunkLinkLost) s fun t =>
      t.f TRK_STAT_LINK = 0 ∧ t.f TRK_STAT_TRAINED = 0 ∧ t.f TRK_FLAG_LINK_LOST = 1 ∧ t.f (TRK_CNT_LOSSES) = min (s.f (TRK_CNT_LOSSES) + 1) (2 ^ RF.w (TRK_CNT_LOSSES) - 1) ∧
      t.trk.outs = [] ∧ t.trk.kept = [] ∧ t.trk.attempt = false ∧
      (t.ses k).cur = none ∧ (t.ses k).cache = some (q, 0, [{ op := 1, status := 0x0F, len := n, addr := a.toNat, data := zeros n }]) ∧ t.responded k q 0 [{ op := 1, status := 0x0F, len := n, addr := a.toNat, data := zeros n }] = true) ∧
  (∀ (s : State),
    s.on TRK_CFG_ROLE = true →
    s.f TRK_STAT_LINK = 2 →
    s.clocked 15 = true →
    answers (.trunkLinkLost) s fun t =>
      t.f TRK_STAT_LINK = 0 ∧ t.trk.reqs = [] ∧ t.f TRK_CNT_DISCARDED = min (s.f TRK_CNT_DISCARDED + s.trk.reqs.length) 0xFF ∧
      (t.f TRK_STAT_SYNC = (if s.f TRK_STAT_SYNC = 1 then 2 else s.f TRK_STAT_SYNC)) ∧
      t.zrt = s.zrt ∧ t.slate = s.slate ∧ s.sameBut [.regs, .trk] t) ∧
  (∀ (s : State),
    (s.f TRK_STAT_LINK ≠ 2 ∨ (s.on TRK_CFG_ROLE = false ∧ 2 ≤ s.f PWR_STATE_PHASE ∧ 3 ≤ s.f PWR_STATE_TARGET)) →
    answers (.trunkLinkLost) s fun t =>
      t = s) ∧
  (∀ (tg : Byte) (r : TrkReq) (s : State),
    s.on TRK_CFG_ROLE = false →
    s.trk.outs = [(tg.toNat, r)] →
    r.what ≠ 3 →
    s.clocked 15 = true →
    answers (.trunkCompletionTimeout tg) s fun t =>
      t.f TRK_STAT_LINK = 0 ∧ t.f TRK_STAT_TRAINED = 0 ∧ t.f TRK_FLAG_LINK_LOST = 1 ∧ t.f (TRK_CNT_LOSSES) = min (s.f (TRK_CNT_LOSSES) + 1) (2 ^ RF.w (TRK_CNT_LOSSES) - 1) ∧
      t.trk.outs = [] ∧ t.trk.kept = [] ∧ t.trk.attempt = false) ∧
  (∀ (tg : Byte) (s : State),
    (s.on TRK_CFG_ROLE = true ∨ s.trk.outs.any (fun o => o.1 = tg.toNat && o.2.what ≠ 3) = false) →
    answers (.trunkCompletionTimeout tg) s fun t =>
      t = s)

/-- REQ, CPL and gateway frames of the Trunk, posted writes that waited, its time and its wake. A REQ whose CRC fails, or
whose SEQ was seen, executes nothing. With the Trunk island clocked, and nothing before it at its port or its island
(R27, R100), a new one executes whole on an expansion as initiator 0x50 and is answered by a CPL with data or status;
a decode error is recorded with the original initiator (R389, R394, R395). On the master a record of an expansion
joins a session's queue (R396; which session, is open). A CPL completes the transaction of its TAG: the load of an
engine has its bytes, a ZRT READ its response with the far status, a posted write leaves the buffer or has failed
(R394, R400, R404). A gateway frame arrives at the lookup with PORT 20 on an expansion (R397). A posted write that
waits takes a free entry and completes to its session (R404). SYNC announces the value that the expansion takes as
its slate at the TK_SYNC edge; none for 100 µs sets SYNC_LOST; a BOUNDARY passes to the frame unit, and with it to
every live die whose shift it ends (R291, R393). A WAKE burst latches source 21 in Sleep and Deep sleep, and an
expansion forwards it (R409). Says that these complete: trunkReq, trunkCpl, trunkGwFrame, postedBufferFree,
trunkSyncFrame, tkSyncEdge, trunkSyncLost, trunkBoundary, trunkWake. -/
def Obligations.TrunkTransactionsAndTime : Prop :=
  (∀ (src : Fin 4) (sq tg : Byte) (crc : Bool) (r : TrunkReq) (s : State),
    (crc = false ∨ s.f TRK_STAT_LINK ≠ 2 ∨ (tget (fun _ => []) s.trk.seen src).contains sq.toNat = true) →
    answers (.trunkReq src sq tg crc r) s fun t =>
      t = s) ∧
  (∀ (src : Fin 4) (sq tg orig : Byte) (spec : Bool) (a : Word) (n : BitVec 16) (s : State),
    s.on TRK_CFG_ROLE = true →
    s.f TRK_STAT_LINK = 2 →
    ((tget (fun _ => []) s.trk.seen src).contains sq.toNat = false) →
    s.boot.phase ≠ .recovery →
    s.trk.reqs = [] →
    (0x01000000 ≤ a.toNat ∧ a.toNat + n.toNat ≤ 0x01200000) →
    (0 < n.toNat ∧ n.toNat ≤ 64) →
    s.clocked 15 = true →
    s.portHeld a.toNat = false →
    s.trkWaits { orig := orig.toNat, op := 0, spec := spec, addr := a.toNat, len := n.toNat } = false →
    answers (.trunkReq src sq tg true { orig := orig, op := 0, spec := spec, addr := a, len := n, data := [] }) s fun t =>
      t.trk.kept = s.trk.kept ++ [{ dst := src.val, seq := s.trk.seq, what := 2, tag := tg.toNat, status := 0, data := s.rdBytes a.toNat n.toNat }] ∧ t.trk.seen = tset (fun _ => []) s.trk.seen src.val ((sq.toNat :: tget (fun _ => []) s.trk.seen src).take 128) ∧
      t.mem = s.mem) ∧
  (∀ (src : Fin 4) (sq tg orig : Byte) (o : Fin 2) (a : Word) (d : List Byte) (s : State),
    s.on TRK_CFG_ROLE = true →
    s.f TRK_STAT_LINK = 2 →
    ((tget (fun _ => []) s.trk.seen src).contains sq.toNat = false) →
    s.boot.phase ≠ .recovery →
    s.trk.reqs = [] →
    (0x01000000 ≤ a.toNat ∧ a.toNat + d.length ≤ 0x01200000) →
    (0 < d.length ∧ d.length ≤ 64) →
    s.clocked 15 = true →
    s.portHeld a.toNat = false →
    s.trkWaits { orig := orig.toNat, op := 1 + o.val, addr := a.toNat, len := d.length, data := d } = false →
    answers (.trunkReq src sq tg true { orig := orig, op := (1 + o.castSucc), spec := false, addr := a, len := 0, data := d }) s fun t =>
      t.trk.kept = s.trk.kept ++ [{ dst := src.val, seq := s.trk.seq, what := 2, tag := tg.toNat, status := 0, data := [] }] ∧ t.trk.seen = tset (fun _ => []) s.trk.seen src.val ((sq.toNat :: tget (fun _ => []) s.trk.seen src).take 128) ∧
      t.rdBytes a.toNat d.length = d ∧ memBut ((List.range d.length).map (a.toNat + ·)) s t) ∧
  (∀ (src : Fin 4) (sq tg orig : Byte) (spec : Bool) (a : Word) (n : BitVec 16) (s : State),
    s.on TRK_CFG_ROLE = true →
    s.f TRK_STAT_LINK = 2 →
    ((tget (fun _ => []) s.trk.seen src).contains sq.toNat = false) →
    s.trk.reqs = [] →
    (0x09000000 ≤ a.toNat ∧ a.toNat < 0x10000000) →
    n = 4 →
    a.toNat % 4 = 0 →
    s.clocked 15 = true →
    s.portHeld a.toNat = false →
    answers (.trunkReq src sq tg true { orig := orig, op := 0, spec := spec, addr := a, len := n, data := [] }) s fun t =>
      t.trk.kept = s.trk.kept ++ [{ dst := src.val, seq := s.trk.seq, what := 2, tag := tg.toNat, status := 1, data := zeros 4 }] ∧ t.trk.seen = tset (fun _ => []) s.trk.seen src.val ((sq.toNat :: tget (fun _ => []) s.trk.seen src).take 128) ∧
      t.f TRK_RX_LAST_ORIG_INIT = orig.toNat ∧ t.f TRK_RX_LAST_TRK_INIT = 0x50 ∧ t.f TRK_RX_LAST_STATUS = 1 ∧ t.f TRK_RX_LAST_VALID = 1 ∧ t.reg TRK_RX_LAST_ADDR = a ∧
      t.f SYS_DECODE_ERR_CNT_LAST_INIT = 0x50 ∧ t.reg SYS_DECODE_ERR_ADDR = a ∧ t.mem = s.mem) ∧
  (∀ (src : Fin 4) (sq tg orig : Byte) (o : Fin 2) (a : Word) (d : List Byte) (s : State),
    s.on TRK_CFG_ROLE = false →
    s.f TRK_STAT_LINK = 2 →
    ((tget (fun _ => []) s.trk.seen src).contains sq.toNat = false) →
    d.length = 16 →
    (s.ses (Config.openValue 5 a.toNat % 8)).note = [] →
    1 < s.f ZRT_NOTIFY_CFG_BATCH_N →
    (sliceLE d 0 1 % 32 ≠ 1 ∧ sliceLE d 0 1 / 16 % 2 = 0) →
    s.clocked 15 = true →
    answers (.trunkReq src sq tg true { orig := orig, op := (1 + o.castSucc), spec := false, addr := a, len := 0, data := d }) s fun t =>
      (t.ses (Config.openValue 5 a.toNat % 8)).note.map (fun e => (e.1, e.2.cls, e.2.code, e.2.arg)) = [(src.val, sliceLE d 0 1 % 16, sliceLE d 1 1, sliceLE d 4 2)] ∧
      t.trk.kept = s.trk.kept ++ [{ dst := src.val, seq := s.trk.seq, what := 2, tag := tg.toNat, status := 0, data := [] }] ∧ t.trk.seen = tset (fun _ => []) s.trk.seen src.val ((sq.toNat :: tget (fun _ => []) s.trk.seen src).take 128) ∧
      t.mem = s.mem) ∧
  (∀ (src : Fin 4) (sq tg st : Byte) (crc : Bool) (d : List Byte) (s : State),
    (crc = false ∨ (tget (fun _ => []) s.trk.seen src).contains sq.toNat = true) →
    answers (.trunkCpl src sq tg st crc d) s fun t =>
      t = s) ∧
  (∀ (src : Fin 4) (sq tg st : Byte) (d : List Byte) (s : State),
    ((tget (fun _ => []) s.trk.seen src).contains sq.toNat = false) →
    (s.trk.outs.any (fun o => o.1 = tg.toNat) = false) →
    s.clocked 15 = true →
    answers (.trunkCpl src sq tg st true d) s fun t =>
      t.trk.seen = tset (fun _ => []) s.trk.seen src.val ((sq.toNat :: tget (fun _ => []) s.trk.seen src).take 128) ∧ s.sameBut [.trk] t) ∧
  (∀ (src : Fin 4) (sq tg : Byte) (g : Fin 48) (a : Word) (n : Nat) (d : List Byte) (s : State),
    ((tget (fun _ => []) s.trk.seen src).contains sq.toNat = false) →
    s.trk.outs = [(tg.toNat, { orig := 0x10 + g.val, addr := a.toNat, len := n })] →
    (tget (fun _ => []) s.trk.got tg.toNat = []) →
    n = d.length →
    (s.eng g).load.isSome = true →
    s.clocked 15 = true →
    answers (.trunkCpl src sq tg 0 true d) s fun t =>
      (t.eng g).load = (s.eng g).load.map (fun l => { l with data := some d }) ∧ t.trk.outs = [] ∧
      s.sameBut [.engs, .trk] t) ∧
  (∀ (src : Fin 4) (sq tg : Byte) (g : Fin 48) (a : Word) (n : Nat) (d : List Byte) (s : State),
    ((tget (fun _ => []) s.trk.seen src).contains sq.toNat = false) →
    s.trk.outs = [(tg.toNat, { orig := 0x10 + g.val, addr := a.toNat, len := n })] →
    (tget (fun _ => []) s.trk.got tg.toNat = []) →
    d.length < n →
    s.clocked 15 = true →
    answers (.trunkCpl src sq tg 0 true d) s fun t =>
      t.trk.outs = s.trk.outs ∧ tget (fun _ => []) t.trk.got tg.toNat = d ∧ s.sameBut [.trk] t) ∧
  (∀ (src : Fin 4) (sq tg : Byte) (k : Fin 8) (q : Nat) (a : Word) (n : Nat) (d : List Byte) (s : State),
    ((tget (fun _ => []) s.trk.seen src).contains sq.toNat = false) →
    s.trk.outs = [(tg.toNat, { orig := 0x40 + k.val, spec := true, addr := a.toNat, len := n, what := 1, zrt := true })] →
    (tget (fun _ => []) s.trk.got tg.toNat = []) →
    (s.ses k).cur = some { seq := q, todo := [{ op := 1, len := n, addr := a.toNat }] } →
    (s.ses k).parts = [{ addr := a.toNat, len := n }] →
    n = d.length →
    s.clocked 15 = true →
    answers (.trunkCpl src sq tg 0 true d) s fun t =>
      (t.ses k).cur = none ∧ t.responded k q 0 [{ op := 1, status := 0, len := n, addr := a.toNat, data := d }] = true ∧ t.trk.outs = []) ∧
  (∀ (src : Fin 4) (sq tg : Byte) (k : Fin 8) (q : Nat) (a : Word) (n : Nat) (st : Byte) (s : State),
    ((tget (fun _ => []) s.trk.seen src).contains sq.toNat = false) →
    s.trk.outs = [(tg.toNat, { orig := 0x40 + k.val, spec := true, addr := a.toNat, len := n, what := 1, zrt := true })] →
    (tget (fun _ => []) s.trk.got tg.toNat = []) →
    st ≠ 0 →
    (s.ses k).cur = some { seq := q, todo := [{ op := 1, len := n, addr := a.toNat }] } →
    (s.ses k).parts = [{ addr := a.toNat, len := n }] →
    s.clocked 15 = true →
    answers (.trunkCpl src sq tg st true []) s fun t =>
      (t.ses k).cur = none ∧ t.responded k q 0 [{ op := 1, status := st.toNat, len := n, addr := a.toNat, data := zeros n }] = true ∧ t.trk.outs = [] ∧
      (t.f BRG_SPEC_REFUSED_CNT_COUNT = min (s.f BRG_SPEC_REFUSED_CNT_COUNT + (if st = 3 then 1 else 0)) (2 ^ 32 - 1))) ∧
  (∀ (src : Fin 4) (sq tg : Byte) (r : TrkReq) (a : BitVec 24) (st : Byte) (s : State),
    ((tget (fun _ => []) s.trk.seen src).contains sq.toNat = false) →
    s.trk.outs = [(tg.toNat, { r with what := 3, op := 2 })] →
    s.brg.posted = [{ r with what := 3, op := 2, tag := tg.toNat, fail := 0, addr := 0x21000000 + a.toNat }] →
    s.clocked 15 = true →
    answers (.trunkCpl src sq tg st true []) s fun t =>
      (t.brg = { s.brg with posted := if st = 0 then [] else [{ r with what := 3, op := 2, tag := tg.toNat, fail := st.toNat, addr := 0x21000000 + a.toNat }] } ∧ t.trk.outs = []) ∧
      s.sameBut [.brg, .trk] t) ∧
  (∀ (src : Fin 4) (sq : Byte) (g : TrunkGw) (s : State),
    s.f TRK_STAT_LINK = 2 →
    g.long = true →
    s.clocked 15 = true →
    answers (.trunkGwFrame src sq true g) s fun t =>
      (t.gw.inq = s.gw.inq ++ [{ port := (if s.on TRK_CFG_ROLE = true then 20 else g.key.toNat % 0x20), kind := g.key.toNat / 0x20 % 8, sub := g.key.toNat / 0x100 % 0x100, id := g.key.toNat / 0x10000, ide := bitOf g.idw.toNat 29, fdf := bitOf g.idw.toNat 30, brs := bitOf g.idw.toNat 31, data := g.data, stamp := (s.islandSlate 9).toNat }]) ∧
      s.sameBut [.gw] t) ∧
  (∀ (src : Fin 4) (sq : Byte) (g : TrunkGw) (s : State),
    s.f TRK_STAT_LINK = 2 →
    g.long = false →
    ((tget (fun _ => []) s.trk.seen src).contains sq.toNat = false) →
    s.clocked 15 = true →
    answers (.trunkGwFrame src sq true g) s fun t =>
      (t.gw.inq = s.gw.inq ++ [{ port := (if s.on TRK_CFG_ROLE = true then 20 else g.key.toNat % 0x20), kind := g.key.toNat / 0x20 % 8, sub := g.key.toNat / 0x100 % 0x100, id := g.key.toNat / 0x10000, ide := (g.key.toNat / 0x20 % 8 = 1 || g.key.toNat / 0x20 % 8 = 5), fdf := false, brs := false, data := g.data, stamp := (s.islandSlate 9).toNat }]) ∧
      t.trk.seen = tset (fun _ => []) s.trk.seen src.val ((sq.toNat :: tget (fun _ => []) s.trk.seen src).take 128) ∧ s.sameBut [.gw, .trk] t) ∧
  (∀ (src : Fin 4) (sq : Byte) (g : TrunkGw) (crc : Bool) (s : State),
    (crc = false ∨ s.f TRK_STAT_LINK ≠ 2 ∨ (g.long = false ∧ (tget (fun _ => []) s.trk.seen src).contains sq.toNat = true)) →
    answers (.trunkGwFrame src sq crc g) s fun t =>
      t = s) ∧
  (∀ (k : Fin 8) (q : Nat) (a : Word) (d : List Byte) (s : State),
    s.brg.wait = [{ orig := 0x40 + k.val, op := 2, addr := a.toNat, len := d.length, data := d, what := 3, zrt := true }] →
    (s.brg.posted.all (fun p => !p.zrt) = true) →
    (s.ses k).cur = some { seq := q, todo := [{ op := 2, len := d.length, addr := a.toNat, data := d }] } →
    (s.ses k).parts = [{ addr := a.toNat, len := d.length }] →
    (0x10000000 ≤ a.toNat ∧ a.toNat < 0x40000000 ∧ a.toNat % 64 + d.length ≤ 64) →
    s.trkUsable (a.toNat / 0x10000000) = true →
    answers (.postedBufferFree) s fun t =>
      t.brg.wait = [] ∧ t.brg.posted = s.brg.posted ++ [{ orig := 0x40 + k.val, op := 2, addr := a.toNat, len := d.length, data := d, what := 3, zrt := true, tag := s.trkTag }] ∧
      t.trk.outs = s.trk.outs ++ [(s.trkTag, { orig := 0x40 + k.val, op := 2, addr := a.toNat, len := d.length, data := d, what := 3, zrt := true, tag := s.trkTag })] ∧
      t.responded k q 0 [{ op := 2, len := d.length, addr := a.toNat }] = true) ∧
  (∀ (s : State),
    (s.brg.wait = [] ∨ (16 ≤ (s.brg.posted.filter (fun p => p.zrt)).length ∧ 16 ≤ (s.brg.posted.filter (fun p => !p.zrt)).length)) →
    answers (.postedBufferFree) s fun t =>
      t = s) ∧
  (∀ (v : BitVec 64) (s : State),
    s.on TRK_CFG_ROLE = true →
    s.clocked 15 = true →
    answers (.trunkSyncFrame v true) s fun t =>
      t.trk = { s.trk with syncVal := some v.toNat } ∧ s.sameBut [.trk] t) ∧
  (∀ (v : BitVec 64) (crc : Bool) (s : State),
    (crc = false ∨ s.on TRK_CFG_ROLE = false) →
    answers (.trunkSyncFrame v crc) s fun t =>
      t = s) ∧
  (∀ (v : BitVec 64) (s : State),
    s.on TRK_CFG_ROLE = true →
    s.trk.syncVal = some v.toNat →
    s.clocked 15 = true →
    answers (.tkSyncEdge) s fun t =>
      t.slate = v ∧ t.f TRK_STAT_SYNC = 1 ∧ t.trk = { s.trk with syncVal := none } ∧
      (t.frm.prev : Int) = max 0 ((s.frm.prev : Int) + v.toNat - s.slate.toNat) ∧
      regsBut [TRK_STAT] s t ∧ s.sameBut [.slate, .regs, .frm, .trk] t) ∧
  (∀ (s : State),
    (s.on TRK_CFG_ROLE = false ∨ s.trk.syncVal = none) →
    answers (.tkSyncEdge) s fun t =>
      t = s) ∧
  (∀ (s : State),
    s.on TRK_CFG_ROLE = true →
    s.clocked 15 = true →
    answers (.trunkSyncLost) s fun t =>
      t.f TRK_STAT_SYNC = 2 ∧ t.f TRK_FLAG_SYNC_LOST = 1 ∧ t.slate = s.slate ∧ s.sameBut [.regs, .islands] t) ∧
  (∀ (s : State),
    s.on TRK_CFG_ROLE = false →
    answers (.trunkSyncLost) s fun t =>
      t = s) ∧
  (∀ (sq : Byte) (b : BitVec 64) (s : State),
    s.on TRK_CFG_ROLE = true →
    ((tget (fun _ => []) s.trk.seen 0).contains sq.toNat = false) →
    0 < s.framePeriod →
    (s.frm.prev + s.framePeriod ≤ b.toNat + s.framePeriod / 8 ∧ b.toNat ≤ s.frm.prev + s.framePeriod + s.framePeriod / 8) →
    s.clocked 15 = true →
    answers (.trunkBoundary sq true b) s fun t =>
      t.trk.boundary = b.toNat ∧ t.frm.prev = b.toNat ∧
      (∀ n : Fin 14, s.dieLinks.contains n.val = true → s.live n = true → (s.die n).pull.natAbs ≤ s.framePeriod.toNat / 8 → (t.die n).boundary = b.toNat ∧ (t.die n).pull = 0) ∧
      s.sameBut [.frm, .dies, .trk] t) ∧
  (∀ (sq : Byte) (b : BitVec 64) (crc : Bool) (s : State),
    (crc = false ∨ s.on TRK_CFG_ROLE = false ∨ (tget (fun _ => []) s.trk.seen 0).contains sq.toNat = true) →
    answers (.trunkBoundary sq crc b) s fun t =>
      t = s) ∧
  (∀ (s : State),
    (s.f PWR_STATE_STATE = 2 ∨ s.f PWR_STATE_STATE = 3) →
    answers (.trunkWake) s fun t =>
      bitOf (t.f PWR_WAKE_SRC_SRC) 21 = true ∧
      (bitOf (s.f PWR_WAKE_EN_EN) 21 = true → s.f PWR_STATE_PHASE < 2 → t.pwr.exit = true) ∧
      (t.mem = s.mem ∧ (s.f PWR_STATE_PHASE < 2 → t.trk = (if s.on TRK_CFG_ROLE = true then { s.trk with wakes := s.trk.wakes + 1 } else s.trk)))) ∧
  (∀ (s : State),
    (s.f PWR_STATE_STATE ≠ 2 ∧ s.f PWR_STATE_STATE ≠ 3) →
    answers (.trunkWake) s fun t =>
      t = s)

/-- Single accesses: register writes, W1C flags, Strongroom bytes, speculative reads and decode errors. Of an initiator
that is issued (R25), outside recovery, with no access of it and none at its port waiting before it, its island
clocked and its crossing open (State.behind; R27, R28, R98, R100). A write of a plain register replaces the RW bits
of the bytes written and nothing else; one of a read-only register or range, or of an unassigned offset of the STR
block, changes nothing and completes OK (R11, R17, R517); one behind a waiting access of its initiator waits (R28,
R100). A W1C flag written 1 clears unless hardware sets it in the same cycle (R14). A write that covers Strongroom
bytes by another initiator drops them alone, is counted and its first byte recorded once, and completes REFUSED
(R12). A speculative read of a take is refused whole with zeros and takes nothing (R13). An access in no range, or
across a range boundary, completes DECODE_ERR with zeros, is counted with initiator and first address, changes
nothing else, and posts a BUSERR cue to an engine (R29, R516). A row whose condition does not hold does nothing (log
entry 25). Says that these complete: registerWrite, w1cFlagClear, strongroomWriteDrop, speculativeReadRefused,
decodeError. -/
def Obligations.RegisterAccesses : Prop :=
  (∀ (init : Byte) (a : Nat) (m w : Word) (s : State),
    issued init.toNat = true →
    s.boot.phase ≠ .recovery →
    (a, m) ∈ [(UPD_XFER_SRC, 0xFFFFFFFF#32), (UPD_XFER_DST, 0x007FFFFF#32), (UPD_XFER_LEN, 0x0001FFFF#32), (PWR_WAKE_EN, 0x00FFFFFF#32), (PWR_WAKE_TIMER, 0x0000FFFF#32)] →
    s.behind init.toNat a 4 true = false →
    answers ((.registerWrite init (BitVec.ofNat 32 a) (bytesLE 4 w.toNat))) s fun t =>
      t.reg a = (s.reg a &&& ~~~m) ||| (w &&& m) ∧ regsBut [a] s t ∧ s.sameBut [.regs, .ports] t ∧
      tget (fun _ => {}) t.ports init.toNat = { status := 0, data := [] }) ∧
  (∀ (init : Byte) (a : Nat) (m : Word) (k : Fin 4) (b : Byte) (s : State),
    issued init.toNat = true →
    s.boot.phase ≠ .recovery →
    (a, m) ∈ [(UPD_XFER_SRC, 0xFFFFFFFF#32), (UPD_XFER_DST, 0x007FFFFF#32), (UPD_XFER_LEN, 0x0001FFFF#32), (PWR_WAKE_EN, 0x00FFFFFF#32), (PWR_WAKE_TIMER, 0x0000FFFF#32)] →
    s.behind init.toNat (a + k) 1 true = false →
    answers (.registerWrite init (BitVec.ofNat 32 (a + k)) [b]) s fun t =>
      t.reg a = (s.reg a &&& ~~~(m &&& BitVec.ofNat 32 (0xFF * 2 ^ (8 * k.val)))) ||| (BitVec.ofNat 32 (b.toNat * 2 ^ (8 * k.val)) &&& m) ∧ regsBut [a] s t ∧ s.sameBut [.regs, .ports] t ∧
      tget (fun _ => {}) t.ports init.toNat = { status := 0, data := [] }) ∧
  (∀ (init : Byte) (a : Nat) (w : Word) (s : State),
    issued init.toNat = true →
    s.boot.phase ≠ .recovery →
    a ∈ [UPD_STAT, UPD_SLOTS, PWR_STATE, PWR_ABORT_LAST, SYS_ABSENT_WR_CNT, SYS_DECODE_ERR_CNT] →
    s.behind init.toNat a 4 true = false →
    answers ((.registerWrite init (BitVec.ofNat 32 a) (bytesLE 4 w.toNat))) s fun t =>
      t.regs = s.regs ∧ s.sameBut [.ports] t ∧
      tget (fun _ => {}) t.ports init.toNat = { status := 0, data := [] }) ∧
  (∀ (init : Byte) (a : Word) (d : List Byte) (s : State),
    issued init.toNat = true →
    s.boot.phase ≠ .recovery →
    (0 < d.length ∧ d.length ≤ 64) →
    (a.toNat + d.length ≤ 0x20000 ∨ (0x04000000 ≤ a.toNat ∧ a.toNat + d.length ≤ 0x04080000)) →
    s.behind init.toNat a.toNat d.length true = false →
    answers (.registerWrite init a d) s fun t =>
      s.sameBut [.ports] t ∧
      tget (fun _ => {}) t.ports init.toNat = { status := 0, data := [] }) ∧
  (∀ (init : Byte) (a : Word) (d : List Byte) (s : State),
    issued init.toNat = true →
    s.boot.phase ≠ .recovery →
    (0 < d.length ∧ d.length ≤ 64) →
    (0x01000000 ≤ a.toNat ∧ a.toNat + d.length ≤ 0x01200000) →
    s.behind init.toNat a.toNat d.length true = false →
    answers (.registerWrite init a d) s fun t =>
      t.rdBytes a.toNat d.length = d ∧ memBut ((List.range d.length).map (a.toNat + ·)) s t ∧ t.regs = s.regs ∧
      tget (fun _ => {}) t.ports init.toNat = { status := 0, data := [] }) ∧
  (∀ (init : Byte) (a : BitVec 16) (d : List Byte) (s : State),
    issued init.toNat = true →
    s.boot.phase ≠ .recovery →
    (0 < d.length ∧ d.length ≤ 64 ∧ a.toNat + d.length ≤ 0x10000) →
    ((List.range d.length).any (fun j => swByte (0x06000000 + a.toNat + j)) = false) →
    s.behind init.toNat (0x06000000 + a.toNat) d.length true = false →
    answers (.registerWrite init (0x06000000 + a.zeroExtend 32) d) s fun t =>
      s.sameBut [.ports] t ∧
      tget (fun _ => {}) t.ports init.toNat = { status := 0, data := [] }) ∧
  (∀ (init : Byte) (a : Word) (d : List Byte) (s : State),
    issued init.toNat = true →
    s.queuedFor init.toNat = true →
    (0 < d.length ∧ d.length ≤ 64) →
    isFar a.toNat = false →
    answers (.registerWrite init a d) s fun t =>
      t = { s with waiting := s.waiting ++ [{ init := init.toNat, op := 1, addr := a.toNat, len := d.length, data := d }] }) ∧
  (∀ (init : Byte) (a : Nat) (m w same : Word) (s : State),
    issued init.toNat = true →
    s.boot.phase ≠ .recovery →
    (a, m) ∈ [(UPD_FLAG, 0x1F#32), (PWR_WAKE_SRC, 0x00FFFFFF#32), (PWR_FEED_FLAG, 0x3F#32)] →
    s.behind init.toNat a 4 true = false →
    answers (.w1cFlagClear init (BitVec.ofNat 32 a) w same) s fun t =>
      t.reg a = s.reg a &&& ~~~(w &&& ~~~same &&& m) ∧ regsBut [a] s t ∧ s.sameBut [.regs, .ports] t ∧
      tget (fun _ => {}) t.ports init.toNat = { status := 0, data := [] }) ∧
  (∀ (init : Byte) (a : BitVec 16) (d : List Byte) (k : Fin 64) (s : State),
    issued init.toNat = true →
    isStr init.toNat = false →
    s.boot.phase ≠ .recovery →
    (0 < d.length ∧ d.length ≤ 64 ∧ a.toNat + d.length ≤ 0x10000) →
    ((List.range d.length).find? (fun j => swByte (0x06000000 + a.toNat + j)) = some k.val) →
    s.behind init.toNat (0x06000000 + a.toNat) d.length true = false →
    answers (.strongroomWriteDrop init (0x06000000 + a.zeroExtend 32) d) s fun t =>
      t.f (STR_DROP_CNT_COUNT) = min (s.f (STR_DROP_CNT_COUNT) + 1) (2 ^ RF.w (STR_DROP_CNT_COUNT) - 1) ∧ t.f STR_DROP_CNT_LAST_INIT = init.toNat ∧
      tget (fun _ => {}) t.ports init.toNat = { status := 2, data := [] } ∧
      t.reg STR_DROP_ADDR = BitVec.ofNat 32 (0x06000000 + a.toNat + k.val) ∧ regsBut ([STR_DROP_CNT, STR_DROP_ADDR] ++ stampRegs) s t ∧ s.sameBut [.regs, .islands, .ports] t) ∧
  (∀ (init : Byte) (d : List Byte) (s : State),
    issued init.toNat = true →
    s.boot.phase ≠ .recovery →
    isStr init.toNat = false →
    s.fullPart = true →
    d.length = 12 →
    s.behind init.toNat ISO_FLAG 12 true = false →
    answers (.strongroomWriteDrop init (BitVec.ofNat 32 ISO_FLAG) d) s fun t =>
      t.f (STR_DROP_CNT_COUNT) = min (s.f (STR_DROP_CNT_COUNT) + 1) (2 ^ RF.w (STR_DROP_CNT_COUNT) - 1) ∧ t.f STR_DROP_CNT_LAST_INIT = init.toNat ∧
      tget (fun _ => {}) t.ports init.toNat = { status := 2, data := [] } ∧
      t.reg STR_DROP_ADDR = BitVec.ofNat 32 ISO_CTL ∧ t.reg ISO_CTL = s.reg ISO_CTL ∧
      (t.f ⟨ISO_FLAG, 0, 1⟩ = (if bitOf (sliceLE d 0 1) 0 then 0 else s.f ⟨ISO_FLAG, 0, 1⟩))) ∧
  (∀ (init : Byte) (a : Word) (d : List Byte) (s : State),
    issued init.toNat = true →
    (0 < d.length ∧ d.length ≤ 64) →
    (isStr init.toNat = true ∨ (List.range d.length).any (fun j => swByte (a.toNat + j)) = false) →
    answers (.strongroomWriteDrop init a d) s fun t =>
      t = s) ∧
  (∀ (init : Byte) (i n : Fin 8) (s : State),
    issued init.toNat = true →
    s.boot.phase ≠ .recovery →
    s.behind init.toNat (0x052D1180 + 8 * i.val) (1 + n.val) false = false →
    answers ((.speculativeReadRefused init (BitVec.ofNat 32 (0x052D1180 + 8 * i.val)) (1 + BitVec.ofNat 7 n.val))) s fun t =>
      t.reg (SYS_SLOT_ST i) = s.reg (SYS_SLOT_ST i) ∧ s.sameBut [.ports] t ∧
      tget (fun _ => {}) t.ports init.toNat = { status := 3, data := zeros (1 + n.val) }) ∧
  (∀ (init : Byte) (i : Fin 8) (s : State),
    issued init.toNat = true →
    answers (.speculativeReadRefused init (BitVec.ofNat 32 (0x052D1184 + 8 * i.val)) 4) s fun t =>
      t = s) ∧
  (∀ (init : Byte) (wr : Bool) (a : Word) (n : BitVec 7) (s : State),
    issued init.toNat = true →
    (1 ≤ n.toNat ∧ n.toNat ≤ 64) →
    (0x09000000 ≤ a.toNat ∧ a.toNat + n.toNat < 0x10000000 ∨ (0x05020000 ≤ a.toNat ∧ a.toNat < 0x05030000 ∧ 0x05030000 < a.toNat + n.toNat) ∨ (0x01000000 ≤ a.toNat ∧ a.toNat < 0x01200000 ∧ 0x01200000 < a.toNat + n.toNat)) →
    s.behind init.toNat a.toNat n.toNat wr = false →
    answers (.decodeError init wr a n) s fun t =>
      (tget (fun _ => {}) t.ports init.toNat = { status := 1, data := if wr then [] else zeros n.toNat }) ∧
      t.f (SYS_DECODE_ERR_CNT_COUNT) = min (s.f (SYS_DECODE_ERR_CNT_COUNT) + 1) (2 ^ RF.w (SYS_DECODE_ERR_CNT_COUNT) - 1) ∧ t.f SYS_DECODE_ERR_CNT_LAST_INIT = init.toNat ∧ t.reg SYS_DECODE_ERR_ADDR = a ∧
      (0x10 ≤ init.toNat ∧ init.toNat ≤ 0x3F → t.offers = s.offers ++ [{ target := init.toNat, cue := { cls := 9, code := 1, kind := 1, index := 0x2D, arg := a.toNat % 0x10000, data := a.toNat, stampLo := s.slate.toNat % 2 ^ 32 } }]) ∧
      regsBut [SYS_DECODE_ERR_CNT, SYS_DECODE_ERR_ADDR] s t ∧ s.sameBut [.regs, .offers, .ports] t) ∧
  (∀ (init : Byte) (wr : Bool) (a : Word) (n : BitVec 7) (s : State),
    issued init.toNat = true →
    (1 ≤ n.toNat ∧ n.toNat ≤ 64) →
    (0x01000000 ≤ a.toNat ∧ a.toNat + n.toNat ≤ 0x01200000) →
    answers (.decodeError init wr a n) s fun t =>
      t = s)

/-- Spine grants by class and turn, accesses that waited for an island, and transfers of the external ports. With no REQ
and no posted write waiting, and the targets clocked with their crossings open: a target port grants the executor
before every other initiator, an urgent one before a normal one, and within a class the next in turn; the transaction
takes effect and leaves (R25, R27). A granted load of an engine has its bytes (R240). With none waiting the oldest
REQ that waits is tried (log entry 46). An access that waited for an island proceeds once the island is clocked, and
none before (R100). A transfer of the maintenance port of up to 256 bytes while it is served (not in reset, Sleep or
a held SCL: R59, R84), of the local host port (not in reset, Deep sleep or Off: R59, R90), and a transaction of an
open debug port, on the Larder, with nothing before it at its target: a write leaves its bytes and no other byte
changed, a read returns them, and the port is answered OK (R485, R514, R516). A port whose last transfer runs takes
no new one (log entry 25), and a closed debug port takes none. The order of turns after reset is log entry 25. Says
that these complete: spineTransactionGrant, islandAccessResume, mntWrite, mntRead, localHostAccess, debugPortAccess. -/
def Obligations.SpineGrantsAndExternalPorts : Prop :=
  (∀ (u v : Byte) (a b : Word) (d e : List Byte) (s : State),
    s.boot.phase ≠ .recovery →
    s.waiting = [{ init := u.toNat, op := 1, addr := a.toNat, len := d.length, data := d }, { init := v.toNat, op := 1, addr := b.toNat, len := e.length, data := e }] →
    (0x01000000 ≤ b.toNat ∧ b.toNat + e.length ≤ 0x01200000 ∧ 0 < e.length) →
    (0x01000000 ≤ a.toNat ∧ a.toNat + d.length ≤ 0x01200000 ∧ 0 < d.length) →
    (u ≠ v ∧ (0x10 ≤ u.toNat → 0x3F < u.toNat) ∧ (0x10 ≤ v.toNat → 0x3F < v.toNat)) →
    ((s.partsOf u.toNat) = [] ∧ (s.partsOf v.toNat) = []) →
    (v.toNat = 0x60 ∨ (u.toNat ≠ 0x60 ∧ (isStr v.toNat || v.toNat = 0x60 || v.toNat = 0x61 || v.toNat = 0x64) = true ∧ (isStr u.toNat || u.toNat = 0x60 || u.toNat = 0x61 || u.toNat = 0x64) = false)) →
    (s.trk.reqs = [] ∧ s.brg.wait = []) →
    (s.mustWait a.toNat d.length true = false ∧ s.mustWait b.toNat e.length true = false) →
    answers (.spineTransactionGrant 30) s fun t =>
      t.rdBytes b.toNat e.length = e ∧ memBut ((List.range e.length).map (b.toNat + ·)) s t ∧
      t.waiting = [{ init := u.toNat, op := 1, addr := a.toNat, len := d.length, data := d }] ∧
      tget (fun _ => {}) t.ports v.toNat = { status := 0, data := [] }) ∧
  (∀ (u v : Byte) (a b : Word) (d e : List Byte) (s : State),
    s.boot.phase ≠ .recovery →
    s.waiting = [{ init := u.toNat, op := 1, addr := a.toNat, len := d.length, data := d }, { init := v.toNat, op := 1, addr := b.toNat, len := e.length, data := e }] →
    (0x01000000 ≤ b.toNat ∧ b.toNat + e.length ≤ 0x01200000 ∧ 0 < e.length) →
    (0x01000000 ≤ a.toNat ∧ a.toNat + d.length ≤ 0x01200000 ∧ 0 < d.length) →
    (u ≠ v ∧ (0x10 ≤ u.toNat → 0x3F < u.toNat) ∧ (0x10 ≤ v.toNat → 0x3F < v.toNat)) →
    ((s.partsOf u.toNat) = [] ∧ (s.partsOf v.toNat) = []) →
    (u.toNat ≠ 0x60 ∧ v.toNat ≠ 0x60 ∧ (isStr u.toNat || u.toNat = 0x60 || u.toNat = 0x61 || u.toNat = 0x64) = (isStr v.toNat || v.toNat = 0x60 || v.toNat = 0x61 || v.toNat = 0x64)) →
    (tget (fun _ => 0) s.rr (if (isStr u.toNat || u.toNat = 0x60 || u.toNat = 0x61 || u.toNat = 0x64) then 60 else 61) = u.toNat) →
    (s.trk.reqs = [] ∧ s.brg.wait = []) →
    (s.mustWait a.toNat d.length true = false ∧ s.mustWait b.toNat e.length true = false) →
    answers (.spineTransactionGrant 30) s fun t =>
      t.rdBytes b.toNat e.length = e ∧ memBut ((List.range e.length).map (b.toNat + ·)) s t ∧
      t.waiting = [{ init := u.toNat, op := 1, addr := a.toNat, len := d.length, data := d }] ∧
      (tget (fun _ => 0) t.rr (if (isStr u.toNat || u.toNat = 0x60 || u.toNat = 0x61 || u.toNat = 0x64) then 60 else 61) = v.toNat)) ∧
  (∀ (g : Fin 48) (a : Word) (n : Nat) (s : State),
    s.boot.phase ≠ .recovery →
    s.waiting = [{ init := 0x10 + g.val, op := 0, addr := a.toNat, len := n }] →
    (0x01000000 ≤ a.toNat ∧ a.toNat + n ≤ 0x01200000 ∧ 0 < n) →
    (s.eng g).load.isSome = true →
    (s.trk.reqs = [] ∧ s.brg.wait = []) →
    s.mustWait a.toNat n false = false →
    answers (.spineTransactionGrant 30) s fun t =>
      (t.eng g).load = (s.eng g).load.map (fun l => { l with data := some (s.rdBytes a.toNat n) }) ∧ t.waiting = [] ∧ t.mem = s.mem) ∧
  (∀ (p : Fin 31) (s : State),
    s.waiting = [] →
    s.trk.reqs = [] →
    answers (.spineTransactionGrant p) s fun t =>
      t = s) ∧
  (∀ (init : Byte) (s : State),
    s.boot.phase ≠ .recovery →
    s.waiting = [{ init := init.toNat, op := 1, addr := NM_INS_CLR, len := 4, data := bytesLE 4 1 }] →
    (0x3F < init.toNat ∨ init.toNat < 0x10) →
    s.partsOf init.toNat = [] →
    s.lazyBlock NM_INS_CLR = false →
    s.mustWait NM_INS_CLR 4 true = false →
    (s.trk.reqs = [] ∧ s.brg.wait = []) →
    answers (.islandAccessResume 11) s fun t =>
      (t.waiting = [] ∧ (∀ q : Fin 64, t.reg (NM_INS_KEY q) = 0) ∧ t.f NM_INS_OVF_COUNT = 0) ∧
      tget (fun _ => {}) t.ports init.toNat = { status := 0, data := [] }) ∧
  (∀ (init : Byte) (s : State),
    s.waiting = [{ init := init.toNat, op := 1, addr := NM_INS_CLR, len := 4, data := bytesLE 4 1 }] →
    s.trk.reqs = [] →
    s.boot.phase ≠ .recovery →
    s.on ⟨PWR_ISLAND_STAT, 11, 1⟩ = false →
    answers (.islandAccessResume 11) s fun t =>
      t = s) ∧
  (∀ (a : Word) (d : List Byte) (s : State),
    s.boot.phase ≠ .recovery →
    s.partsOf 0x49 = [] →
    s.behind 0x49 a.toNat d.length true = false →
    s.mntServed = true →
    (0x01000000 ≤ a.toNat ∧ a.toNat + d.length ≤ 0x01200000) →
    d.length ≤ 256 →
    answers (.mntWrite a d) s fun t =>
      t.rdBytes a.toNat d.length = d ∧ memBut ((List.range d.length).map (a.toNat + ·)) s t ∧
      tget (fun _ => {}) t.ports 0x49 = { status := 0, data := [] }) ∧
  (∀ (a : Word) (n : BitVec 9) (s : State),
    s.boot.phase ≠ .recovery →
    s.partsOf 0x49 = [] →
    s.behind 0x49 a.toNat n.toNat false = false →
    s.mntServed = true →
    (0x01000000 ≤ a.toNat ∧ a.toNat + n.toNat ≤ 0x01200000) →
    n.toNat ≤ 256 →
    answers (.mntRead a n) s fun t =>
      tget (fun _ => {}) t.ports 0x49 = { status := 0, data := s.rdBytes a.toNat n.toNat } ∧ t.mem = s.mem) ∧
  (∀ (a : Word) (d : List Byte) (s : State),
    d.length ≤ 256 →
    s.partsOf 0x49 ≠ [] →
    answers (.mntWrite a d) s fun t =>
      t = s) ∧
  (∀ (a : Word) (n : BitVec 9) (s : State),
    n.toNat ≤ 256 →
    s.partsOf 0x49 ≠ [] →
    answers (.mntRead a n) s fun t =>
      t = s) ∧
  (∀ (a : Word) (d : List Byte) (s : State),
    s.boot.phase ≠ .recovery →
    s.partsOf 0x48 = [] →
    s.behind 0x48 a.toNat d.length true = false →
    (s.boot.phase ≠ .reset ∧ s.f PWR_STATE_STATE < 3) →
    (0x01000000 ≤ a.toNat ∧ a.toNat + d.length ≤ 0x01200000) →
    d.length ≤ 256 →
    answers (.localHostAccess true a d 0) s fun t =>
      t.rdBytes a.toNat d.length = d ∧ memBut ((List.range d.length).map (a.toNat + ·)) s t ∧
      tget (fun _ => {}) t.ports 0x48 = { status := 0, data := [] }) ∧
  (∀ (a : Word) (n : BitVec 16) (s : State),
    s.boot.phase ≠ .recovery →
    s.partsOf 0x48 = [] →
    s.behind 0x48 a.toNat n.toNat false = false →
    (s.boot.phase ≠ .reset ∧ s.f PWR_STATE_STATE < 3) →
    (0x01000000 ≤ a.toNat ∧ a.toNat + n.toNat ≤ 0x01200000) →
    n.toNat ≤ 256 →
    answers (.localHostAccess false a [] n) s fun t =>
      tget (fun _ => {}) t.ports 0x48 = { status := 0, data := s.rdBytes a.toNat n.toNat } ∧ t.mem = s.mem) ∧
  (∀ (a : Word) (d : List Byte) (s : State),
    d.length ≤ 256 →
    s.partsOf 0x48 ≠ [] →
    answers (.localHostAccess true a d 0) s fun t =>
      t = s) ∧
  (∀ (a : Word) (n : BitVec 16) (s : State),
    n.toNat ≤ 256 →
    s.partsOf 0x48 ≠ [] →
    answers (.localHostAccess false a [] n) s fun t =>
      t = s) ∧
  (∀ (a : Word) (d : List Byte) (s : State),
    s.on STR_LIFECYCLE_DEBUG_OPEN = true →
    s.boot.phase ≠ .recovery →
    s.partsOf 0x4A = [] →
    s.behind 0x4A a.toNat d.length true = false →
    (0x01000000 ≤ a.toNat ∧ a.toNat + d.length ≤ 0x01200000) →
    (0 < d.length ∧ d.length ≤ 64) →
    answers (.debugPortAccess true a d 0) s fun t =>
      t.rdBytes a.toNat d.length = d ∧ memBut ((List.range d.length).map (a.toNat + ·)) s t ∧
      tget (fun _ => {}) t.ports 0x4A = { status := 0, data := [] }) ∧
  (∀ (a : Word) (n : BitVec 7) (s : State),
    s.on STR_LIFECYCLE_DEBUG_OPEN = true →
    s.boot.phase ≠ .recovery →
    s.partsOf 0x4A = [] →
    s.behind 0x4A a.toNat n.toNat false = false →
    (0x01000000 ≤ a.toNat ∧ a.toNat + n.toNat ≤ 0x01200000) →
    (0 < n.toNat ∧ n.toNat ≤ 64) →
    answers (.debugPortAccess false a [] n) s fun t =>
      tget (fun _ => {}) t.ports 0x4A = { status := 0, data := s.rdBytes a.toNat n.toNat } ∧ t.mem = s.mem) ∧
  (∀ (a : Word) (d : List Byte) (s : State),
    (0 < d.length ∧ d.length ≤ 64) →
    (s.on STR_LIFECYCLE_DEBUG_OPEN = false ∨ s.partsOf 0x4A ≠ []) →
    answers (.debugPortAccess true a d 0) s fun t =>
      t = s) ∧
  (∀ (a : Word) (n : BitVec 7) (s : State),
    (0 < n.toNat ∧ n.toNat ≤ 64) →
    (s.on STR_LIFECYCLE_DEBUG_OPEN = false ∨ s.partsOf 0x4A ≠ []) →
    answers (.debugPortAccess false a [] n) s fun t =>
      t = s)

/-- R6: an absent block reads 0 without side effect and ignores writes with normal completion, each counted once. For
every block that R2 names as absent on the part and every access that lies in it: a read, speculative or not, of any
initiator returns 0 in every byte with status OK and leaves the whole state as it was; a write of an initiator that
R25 lists, with nothing before it at its target, completes with status OK, changes no register but SYS_ABSENT_WR_CNT
and nothing else of the state, and the command of the row answers its initiator OK; each ignored write transaction
adds one to COUNT, whatever its length, saturating. Says that these complete: absentBlockWrite. -/
def Obligations.AbsentBlocksByR6 : Prop :=
  (∀ (init : Byte) (a : Word) (d : List Byte) (spec : Bool) (s : State),
    (s.absentAt a.toNat).isSome = true →
    inOneRange a.toNat d.length = true →
    (0 < d.length ∧ d.length ≤ 64) →
    issued init.toNat = true →
    s.behind init.toNat a.toNat d.length true = false →
    answers (.absentBlockWrite init a d) s fun t =>
      (s.spineRead init.toNat a.toNat d.length spec).status = 0 ∧ (s.spineRead init.toNat a.toNat d.length spec).data = zeros d.length ∧ (s.spineRead init.toNat a.toNat d.length spec).st = s ∧
      t.f (SYS_ABSENT_WR_CNT_COUNT) = min (s.f (SYS_ABSENT_WR_CNT_COUNT) + 1) (2 ^ RF.w (SYS_ABSENT_WR_CNT_COUNT) - 1) ∧ regsBut [SYS_ABSENT_WR_CNT] s t ∧ s.sameBut [.regs, .ports] t ∧
      tget (fun _ => {}) t.ports init.toNat = { status := 0, data := [] } ∧
      (s.spineWrite init.toNat a.toNat d).status = 0 ∧ (s.spineWrite init.toNat a.toNat d).st.regs = t.regs) ∧
  (∀ (init : Byte) (a : Word) (d : List Byte) (s : State),
    (s.absentAt a.toNat).isSome = false →
    (0 < d.length ∧ d.length ≤ 64) →
    issued init.toNat = true →
    answers (.absentBlockWrite init a d) s fun t =>
      t = s)

/-- R88: a voter answers PREPARE by PWR_VOTE, its first answer counts, others are ignored. In phase PREPARE a write of
PWR_VOTE by an initiator that the Script names as voting and that has not answered records its answer, consent or its
reason, under its initiator ID and changes nothing else. A second answer of the same voter, and a write of an
initiator that is not named as voting, change nothing. Says that these complete: pwrVote. -/
def Obligations.VotesByR88 : Prop :=
  (∀ (init : Byte) (y : Bool) (r : Byte) (s : State),
    s.f PWR_STATE_PHASE = 1 →
    s.scr.voters.contains init.toNat = true →
    (s.pwr.answers.any (fun a => a.1 = init.toNat) = false) →
    answers (.pwrVote init y r) s fun t =>
      (t.pwr = { s.pwr with answers := s.pwr.answers ++ [(init.toNat, if y then 0x100 else r.toNat)] } ∧ s.sameBut [.pwr] t)) ∧
  (∀ (init : Byte) (y : Bool) (r : Byte) (s : State),
    (s.pwr.answers.any (fun a => a.1 = init.toNat) = true) →
    answers (.pwrVote init y r) s fun t =>
      t = s) ∧
  (∀ (init : Byte) (y : Bool) (r : Byte) (s : State),
    s.scr.voters.contains init.toNat = false →
    answers (.pwrVote init y r) s fun t =>
      t = s)

/-- R258: a cue of a merging class merges into the queued entry with the same CLASS, CODE and SOURCE. The oldest cue
posted, of a merging class, for a present engine that is neither unused nor faulted: where its queue holds an entry
with the same CLASS, CODE and SOURCE, no entry is added, whatever the length of the queue. The first such entry takes
the ARG, DATA, STAMP_LO and SEQ of the new cue and MERGED; for class TIMER its ARG accumulates (here below 0xFFFF).
The other entries stay, and ENG_CUE_MISC.MERGED counts, saturating. Which classes merge is told by the posted cue.
Says that these complete: cuePost. -/
def Obligations.CueMergeByR258 : Prop :=
  ∀ (g : Fin 48) (c q : Cue) (l : List Offer) (p r : List Cue) (s : State),
    s.offers = { target := 0x10 + g.val, cue := c, merge := true } :: l →
    s.crewPresent (g / 8) = true →
    (s.eng g).queue = p ++ q :: r →
    (p.any (fun (x : Cue) => x.cls = c.cls && x.code = c.code && x.kind = c.kind && x.index = c.index) = false) →
    (q.cls = c.cls ∧ q.code = c.code ∧ q.kind = c.kind ∧ q.index = c.index) →
    ((s.eng g).st ≠ .unused ∧ (s.eng g).st ≠ .faulted) →
    q.arg + c.arg ≤ 0xFFFF →
    answers (.cuePost) s fun t =>
      ((t.eng g).queue = p ++ { q with arg := if c.cls = 3 then q.arg + c.arg else c.arg, data := c.data, stampLo := c.stampLo, seq := (s.eng g).seq, merged := true } :: r) ∧
      t.offers = l ∧ (t.eng g).seq = ((s.eng g).seq + 1) % 0x10000 ∧
      t.f (ENG_CUE_MISC_MERGED (g / 8) (g % 8)) = min (s.f (ENG_CUE_MISC_MERGED (g / 8) (g % 8)) + 1) (2 ^ RF.w (ENG_CUE_MISC_MERGED (g / 8) (g % 8)) - 1)

/-- R281: DLY writes each record at slot DLY_WR.INDEX, advances INDEX and counts WRAPS at its return to 0. While its
island runs, DLY takes the oldest record of an island's stamp FIFO: its 32 bytes stand in the ring at slot
DLY_WR.INDEX, over whatever record stood there, and no other byte of memory changes, all in one step as one Spine
transaction; INDEX advances by one modulo 8,192, and WRAPS is one more where INDEX has returned to 0 and otherwise
the same, modulo its width. The next record therefore goes to the next slot, so the ring lies in the order of
arrival, whatever the slate values of the records. Says that these complete: dailiesRecordWrite. -/
def Obligations.DailiesRingByR281 : Prop :=
  ∀ (isl : Fin 30) (r : DailyRec) (l : List DailyRec) (s : State),
    (s.island isl).recs = r :: l →
    s.clocked 2 = true →
    answers (.dailiesRecordWrite isl) s fun t =>
      t.rdBytes (0x08100000 + 32 * s.f DLY_WR_INDEX) 32 = r.bytes ∧ memBut ((List.range 32).map (0x08100000 + 32 * s.f DLY_WR_INDEX + ·)) s t ∧
      (t.f DLY_WR_INDEX = (s.f DLY_WR_INDEX + 1) % 8192 ∧ t.f DLY_WR_WRAPS = (s.f DLY_WR_WRAPS + (if s.f DLY_WR_INDEX = 8191 then 1 else 0)) % 2 ^ 19) ∧
      (t.island isl).recs = l
end

