-- ==== Sys2Proof/Laws/State.lean ====
section
/-! SUPPORT. The laws of the sparse tables, of registers and their fields, and of the state's updates: one lemma per field that an update
leaves alone, and what a read gives after a write. -/

namespace Sys2Proof.Machine

/-! Sparse tables -/

/-- A read past leading keys that are smaller. -/
theorem tget_dropWhile {V : Type} (d : Nat → V) (t : Tbl V) (k q : Nat) (h : k < q) :
    tget d (t.dropWhile (fun e => e.1 ≤ k)) q = tget d t q := by
  induction t with
  | nil => rfl
  | cons e t ih =>
    obtain ⟨i, w⟩ := e
    by_cases hi : i ≤ k
    · have h1 : ¬ q = i := by omega
      have h2 : ¬ q < i := by omega
      simp [hi, tget, ih, h1, h2]
    · simp [hi]

/-- A read of a key below or equal to the bound that leading keys were dropped up to gives the default. -/
theorem tget_dropWhile_default {V : Type} (d : Nat → V) (t : Tbl V) (k q : Nat) (h : q ≤ k) :
    tget d (t.dropWhile (fun e => e.1 ≤ k)) q = d q := by
  induction t with
  | nil => rfl
  | cons e t ih =>
    obtain ⟨i, w⟩ := e
    by_cases hi : i ≤ k
    · simp [hi, ih]
    · have h1 : ¬ q = i := by omega
      have h2 : q < i := by omega
      simp [hi, tget, h1, h2]

/-- A read gives the value written last. -/
@[simp] theorem tget_tset_same {V : Type} [DecidableEq V] (d : Nat → V) (t : Tbl V) (k : Nat) (v : V) :
    tget d (tset d t k v) k = v := by
  induction t with
  | nil =>
    by_cases hv : v = d k <;> simp [tset, tget, hv]
  | cons e t ih =>
    obtain ⟨j, w⟩ := e
    by_cases hk : k = j
    · subst hk
      by_cases hv : v = d k
      · simp [tset, hv, tget_dropWhile_default]
      · simp [tset, hv, tget]
    · by_cases hl : k < j
      · by_cases hv : v = d k <;> simp [tset, tget, hk, hl, hv]
      · simp [tset, tget, hk, hl, ih]

/-- A write leaves every other key alone. -/
theorem tget_tset_ne {V : Type} [DecidableEq V] (d : Nat → V) (t : Tbl V) (k q : Nat) (v : V) (h : q ≠ k) :
    tget d (tset d t k v) q = tget d t q := by
  induction t with
  | nil =>
    by_cases hv : v = d k <;> simp [tset, tget, hv, h]
  | cons e t ih =>
    obtain ⟨j, w⟩ := e
    by_cases hk : k = j
    · subst hk
      by_cases hv : v = d k
      · rcases Nat.lt_or_gt_of_ne h with hq | hq
        · simp [tset, hv, tget, h, hq, tget_dropWhile_default, Nat.le_of_lt hq]
        · have h2 : ¬ q < k := by omega
          simp [tset, hv, tget, h, h2, tget_dropWhile, hq]
      · simp [tset, hv, tget, h]
    · by_cases hl : k < j
      · by_cases hv : v = d k
        · simp [tset, hk, hl, hv]
        · by_cases hq : q < k
          · have h1 : ¬ q = j := by omega
            have h2 : q < j := by omega
            simp [tset, tget, hk, hl, hv, h, hq, h1, h2]
          · simp [tset, tget, hk, hl, hv, h, hq]
      · by_cases hq : q = j
        · simp [tset, tget, hk, hl, hq]
        · simp [tset, tget, hk, hl, hq, ih]

/-- Every key of a table in canonical form lies above the key before its list. -/
theorem twf_tail {V : Type} [DecidableEq V] (d : Nat → V) (e : Nat × V) (t : Tbl V) (h : twf d (e :: t) = true) :
    twf d t = true := by
  obtain ⟨j, v⟩ := e
  cases t with
  | nil => rfl
  | cons f u =>
    obtain ⟨k, w⟩ := f
    simp only [twf, Bool.and_eq_true] at h
    exact h.2

/-- A canonical list stays canonical without leading entries. -/
theorem twf_dropWhile {V : Type} [DecidableEq V] (d : Nat → V) (p : Nat × V → Bool) (t : Tbl V) (h : twf d t = true) :
    twf d (t.dropWhile p) = true := by
  induction t with
  | nil => rfl
  | cons e t ih =>
    rw [List.dropWhile_cons]
    split
    · exact ih (twf_tail d e t h)
    · exact h

/-- The canonical form of a list with a first entry, by the key that follows. -/
theorem twf_cons {V : Type} [DecidableEq V] (d : Nat → V) (j : Nat) (v : V) (t : Tbl V) :
    twf d ((j, v) :: t) = true ↔ v ≠ d j ∧ (∀ e ∈ t.head?, j < e.1) ∧ twf d t = true := by
  cases t with
  | nil => simp [twf]
  | cons f u =>
    obtain ⟨k, w⟩ := f
    simp [twf, and_assoc]

/-- The first key that a write leaves is the key written or the first one there was. -/
theorem head_tset {V : Type} [DecidableEq V] (d : Nat → V) (j : Nat) (v : V) (t : Tbl V) (k : Nat) (x : V)
    (h : twf d ((j, v) :: t) = true) (hk : j < k) : ∀ e ∈ (tset d t k x).head?, j < e.1 := by
  cases t with
  | nil =>
    by_cases hx : x = d k <;> simp [tset, hx, hk]
  | cons f u =>
    obtain ⟨i, w⟩ := f
    have hji : j < i := by
      have := ((twf_cons d j v _).1 h).2.1 (i, w) (by simp)
      exact this
    by_cases h1 : k = i
    · subst h1
      by_cases hx : x = d k
      · intro e he
        simp only [tset, hx, if_true] at he
        by_cases hd : (u.dropWhile (fun e => e.1 ≤ k)) = []
        · simp [hd] at he
        · have hm := List.head?_eq_some_head hd
          rw [hm] at he
          have hn := List.head_dropWhile_not (fun (e : Nat × V) => decide (e.1 ≤ k)) hd
          simp only [Option.mem_def, Option.some.injEq] at he
          subst he
          simp only [decide_eq_false_iff_not] at hn
          omega
      · simp [tset, hx, hk]
    · by_cases h2 : k < i
      · by_cases hx : x = d k <;> simp [tset, h1, h2, hx, hk, hji]
      · simp [tset, h1, h2, hji]

/-- A write keeps the canonical form. -/
theorem twf_tset {V : Type} [DecidableEq V] (d : Nat → V) (t : Tbl V) (k : Nat) (x : V) (h : twf d t = true) :
    twf d (tset d t k x) = true := by
  induction t with
  | nil =>
    by_cases hx : x = d k <;> simp [tset, twf, hx]
  | cons e t ih =>
    obtain ⟨j, v⟩ := e
    have hc := (twf_cons d j v t).1 h
    by_cases h1 : k = j
    · subst h1
      by_cases hx : x = d k
      · simp only [tset, hx, if_true]
        exact twf_dropWhile d _ t hc.2.2
      · simp only [tset, hx, if_true, if_false]
        exact (twf_cons d k x t).2 ⟨hx, hc.2.1, hc.2.2⟩
    · by_cases h2 : k < j
      · by_cases hx : x = d k
        · simpa [tset, h1, h2, hx] using h
        · simp only [tset, h1, h2, hx, if_true, if_false]
          exact (twf_cons d k x _).2 ⟨hx, by simp [h2], h⟩
      · simp only [tset, h1, h2, if_false]
        refine (twf_cons d j v _).2 ⟨hc.1, ?_, ih hc.2.2⟩
        exact head_tset d j v t k x h (by omega)

/-- Entries put one by one keep the canonical form. -/
theorem twf_foldl_tset {V : Type} [DecidableEq V] (d : Nat → V) (l t : Tbl V) (h : twf d t = true) :
    twf d (l.foldl (fun t e => tset d t e.1 e.2) t) = true := by
  induction l generalizing t with
  | nil => exact h
  | cons e l ih => exact ih _ (twf_tset _ _ _ _ h)

/-- A canonical list stays canonical under a filter. -/
theorem twf_filter {V : Type} [DecidableEq V] (d : Nat → V) (p : Nat × V → Bool) (t : Tbl V) (h : twf d t = true) :
    twf d (t.filter p) = true ∧ ∀ b : Nat, (∀ e ∈ t.head?, b < e.1) → ∀ e ∈ (t.filter p).head?, b < e.1 := by
  induction t with
  | nil => simp [twf]
  | cons e t ih =>
    obtain ⟨j, v⟩ := e
    have hc := (twf_cons d j v t).1 h
    have hi := ih hc.2.2
    by_cases hp : p (j, v) = true
    · rw [List.filter_cons_of_pos hp]
      exact ⟨(twf_cons d j v _).2 ⟨hc.1, hi.2 j hc.2.1, hi.1⟩, by simp⟩
    · rw [List.filter_cons_of_neg hp]
      refine ⟨hi.1, fun b hb => hi.2 b ?_⟩
      intro e he
      have h1 := hc.2.1 e he
      have h2 := hb (j, v) (by simp)
      simp only at h2
      omega

/-! Registers and fields -/

/-- A read of a register word gives the word written last. -/
@[simp] theorem State.reg_setReg_same (s : State) (a : Nat) (v : Word) : (s.setReg a v).reg a = v := by
  simp [State.reg, State.setReg]

/-- A write of a register word leaves every other word alone. -/
theorem State.reg_setReg_ne (s : State) (a b : Nat) (v : Word) (h : b ≠ a) : (s.setReg a v).reg b = s.reg b := by
  simp [State.reg, State.setReg, tget_tset_ne _ _ _ _ _ h]

/-- A bit of the mask of a field. -/
theorem RF.mask_getLsbD (r : RF) (i : Nat) (hi : i < 32) :
    r.mask.getLsbD i = (decide (r.lo ≤ i) && decide (i < r.lo + r.w)) := by
  unfold RF.mask
  rw [BitVec.getLsbD_ofNat]
  by_cases hlo : r.lo ≤ i
  · have : (2 ^ r.w - 1) * 2 ^ r.lo = (2 ^ r.w - 1) <<< r.lo := by rw [Nat.shiftLeft_eq]
    rw [this, Nat.testBit_shiftLeft]
    simp [hi, hlo, Nat.testBit_two_pow_sub_one]
    omega
  · have : (2 ^ r.w - 1) * 2 ^ r.lo = (2 ^ r.w - 1) <<< r.lo := by rw [Nat.shiftLeft_eq]
    rw [this, Nat.testBit_shiftLeft]
    simp [hlo]

/-- A bit of a word with a field replaced. -/
theorem RF.put_getLsbD (r : RF) (x : Word) (v i : Nat) (hi : i < 32) :
    (r.put x v).getLsbD i =
      if r.lo ≤ i ∧ i < r.lo + r.w then v.testBit (i - r.lo) else x.getLsbD i := by
  unfold RF.put
  rw [BitVec.getLsbD_or, BitVec.getLsbD_and, BitVec.getLsbD_and, BitVec.getLsbD_not, RF.mask_getLsbD r i hi, BitVec.getLsbD_ofNat]
  have hs : v * 2 ^ r.lo = v <<< r.lo := by rw [Nat.shiftLeft_eq]
  rw [hs, Nat.testBit_shiftLeft]
  by_cases h1 : r.lo ≤ i <;> by_cases h2 : i < r.lo + r.w <;> simp [h1, h2, hi]

/-- A field that lies in its word reads the low bits of the value put. -/
theorem RF.get_put_same (r : RF) (x : Word) (v : Nat) (h : r.lo + r.w ≤ 32) : r.get (r.put x v) = v % 2 ^ r.w := by
  unfold RF.get
  apply Nat.eq_of_testBit_eq
  intro i
  rw [Nat.testBit_mod_two_pow, BitVec.testBit_toNat, BitVec.getLsbD_extractLsb']
  by_cases hi : i < r.w
  · rw [RF.put_getLsbD r x v (r.lo + i) (by omega)]
    have h1 : r.lo ≤ r.lo + i ∧ r.lo + i < r.lo + r.w := by omega
    simp [hi]
  · simp [hi]

/-- A field reads as before when a field apart from it is put. -/
theorem RF.get_put_apart (r q : RF) (x : Word) (v : Nat) (hq : q.lo + q.w ≤ 32)
    (h : q.lo + q.w ≤ r.lo ∨ r.lo + r.w ≤ q.lo) : q.get (r.put x v) = q.get x := by
  unfold RF.get
  apply Nat.eq_of_testBit_eq
  intro i
  rw [BitVec.testBit_toNat, BitVec.testBit_toNat, BitVec.getLsbD_extractLsb', BitVec.getLsbD_extractLsb']
  by_cases hi : i < q.w
  · rw [RF.put_getLsbD r x v (q.lo + i) (by omega)]
    have h1 : ¬(r.lo ≤ q.lo + i ∧ q.lo + i < r.lo + r.w) := by omega
    rw [if_neg h1]
  · simp [hi]

/-- A field reads the low bits of the value written to it. -/
theorem State.f_setF_same (s : State) (r : RF) (v : Nat) (h : r.lo + r.w ≤ 32) : (s.setF r v).f r = v % 2 ^ r.w := by
  simp [State.f, State.setF, RF.get_put_same r _ v h]

/-- A field reads a value that fits as it was written. -/
theorem State.f_setF_fits (s : State) (r : RF) (v : Nat) (h : r.lo + r.w ≤ 32) (hv : v < 2 ^ r.w) : (s.setF r v).f r = v := by
  rw [State.f_setF_same s r v h, Nat.mod_eq_of_lt hv]

/-- A field of another word reads as before. -/
theorem State.f_setF_ne (s : State) (r q : RF) (v : Nat) (h : q.addr ≠ r.addr) : (s.setF r v).f q = s.f q := by
  simp [State.f, State.setF, State.reg_setReg_ne _ _ _ _ h]

/-- A field of the same word, apart from the one written, reads as before. -/
theorem State.f_setF_apart (s : State) (r q : RF) (v : Nat) (hq : q.lo + q.w ≤ 32)
    (h : q.lo + q.w ≤ r.lo ∨ r.lo + r.w ≤ q.lo) : (s.setF r v).f q = s.f q := by
  by_cases ha : q.addr = r.addr
  · simp [State.f, State.setF, ha, RF.get_put_apart r q _ v hq h]
  · exact State.f_setF_ne s r q v ha

/-- A field of another word reads as before when a word is written. -/
theorem State.f_setReg_ne (s : State) (a : Nat) (q : RF) (v : Word) (h : q.addr ≠ a) : (s.setReg a v).f q = s.f q := by
  simp [State.f, State.reg_setReg_ne _ _ _ _ h]

/-- A word other than a field's reads as before when the field is written. -/
theorem State.reg_setF_ne (s : State) (r : RF) (v a : Nat) (h : a ≠ r.addr) : (s.setF r v).reg a = s.reg a := by
  simp [State.setF, State.reg_setReg_ne _ _ _ _ h]

/-- A setting event sets its flag (R15). -/
theorem State.f_raise (s : State) (flag cnt : RF) (h : flag.lo + flag.w ≤ 32) (hw : 1 ≤ flag.w) (hc : flag.addr ≠ cnt.addr) :
    (s.raise flag cnt).f flag = 1 := by
  unfold State.raise State.incSat State.addSat
  rw [State.f_setF_ne _ _ _ _ hc, State.f_setF_fits _ _ _ h]
  exact Nat.lt_of_lt_of_le (by omega) (Nat.pow_le_pow_right (by omega) hw)

/-! Memories -/

/-- A byte reads as it was written. -/
@[simp] theorem State.rd8_wr8_same (s : State) (a : Nat) (v : Byte) : (s.wr8 a v).rd8 a = v := by
  simp [State.rd8, State.wr8]

/-- A write leaves every other byte alone. -/
theorem State.rd8_wr8_ne (s : State) (a b : Nat) (v : Byte) (h : b ≠ a) : (s.wr8 a v).rd8 b = s.rd8 b := by
  simp [State.rd8, State.wr8, tget_tset_ne _ _ _ _ _ h]

/-- A byte of MRAM reads as it was written. -/
@[simp] theorem State.mrd8_mwr8_same (s : State) (a : Nat) (v : Byte) : (s.mwr8 a v).mrd8 a = v := by
  simp [State.mrd8, State.mwr8]

/-- A write of a byte of MRAM leaves every other byte alone. -/
theorem State.mrd8_mwr8_ne (s : State) (a b : Nat) (v : Byte) (h : b ≠ a) : (s.mwr8 a v).mrd8 b = s.mrd8 b := by
  simp [State.mrd8, State.mwr8, tget_tset_ne _ _ _ _ _ h]

/-- Bytes outside a run that is written read as before. -/
theorem State.rd8_wrBytes (s : State) (a b : Nat) (l : List Byte) (h : b < a ∨ a + l.length ≤ b) :
    (s.wrBytes a l).rd8 b = s.rd8 b := by
  induction l generalizing s a with
  | nil => rfl
  | cons x t ih =>
    simp only [List.length_cons] at h
    rw [State.wrBytes, ih _ _ (by omega), State.rd8_wr8_ne _ _ _ _ (by omega)]

/-- Bytes of MRAM outside a run that is written read as before. -/
theorem State.mrd8_mwrBytes (s : State) (a b : Nat) (l : List Byte) (h : b < a ∨ a + l.length ≤ b) :
    (s.mwrBytes a l).mrd8 b = s.mrd8 b := by
  induction l generalizing s a with
  | nil => rfl
  | cons x t ih =>
    simp only [List.length_cons] at h
    rw [State.mwrBytes, ih _ _ (by omega), State.mrd8_mwr8_ne _ _ _ _ (by omega)]

/-- Every memory operation keeps the canonical form of the memory. -/
theorem State.wr8_wf (s : State) (a : Nat) (v : Byte) (h : twf memDefault s.mem = true) :
    twf memDefault (s.wr8 a v).mem = true := twf_tset _ _ _ _ h

/-- Writing a run of bytes keeps the canonical form. -/
theorem State.wrBytes_wf (s : State) (a : Nat) (l : List Byte) (h : twf memDefault s.mem = true) :
    twf memDefault (s.wrBytes a l).mem = true := by
  induction l generalizing s a with
  | nil => exact h
  | cons x t ih => exact ih _ _ (State.wr8_wf _ _ _ h)

/-- Writing a number keeps the canonical form. -/
theorem State.wrN_wf (s : State) (a n v : Nat) (h : twf memDefault s.mem = true) :
    twf memDefault (s.wrN a n v).mem = true := by
  induction n generalizing s a v with
  | zero => exact h
  | succ n ih => exact ih _ _ _ (State.wr8_wf _ _ _ h)

/-- Zeroing a range keeps the canonical form. -/
theorem State.zeroMem_wf (s : State) (lo hi : Nat) (h : twf memDefault s.mem = true) :
    twf memDefault (s.zeroMem lo hi).mem = true := (twf_filter _ _ _ h).1

/-- Writing a byte of MRAM keeps its canonical form. -/
theorem State.mwr8_wf (s : State) (a : Nat) (v : Byte) (h : twf memDefault s.mram = true) :
    twf memDefault (s.mwr8 a v).mram = true := twf_tset _ _ _ _ h

/-- Writing a run of bytes of MRAM keeps its canonical form. -/
theorem State.mwrBytes_wf (s : State) (a : Nat) (l : List Byte) (h : twf memDefault s.mram = true) :
    twf memDefault (s.mwrBytes a l).mram = true := by
  induction l generalizing s a with
  | nil => exact h
  | cons x t ih => exact ih _ _ (State.mwr8_wf _ _ _ h)

/-- Writing a register word keeps the canonical form of the register file. -/
theorem State.setReg_wf (s : State) (a : Nat) (v : Word) (h : twf resetWord s.regs = true) :
    twf resetWord (s.setReg a v).regs = true := twf_tset _ _ _ _ h

/-! What the updates leave alone -/

@[simp] theorem State.setReg_variant (s : State) (a : Nat) (v : Word) : (s.setReg a v).variant = s.variant := rfl
@[simp] theorem State.setReg_slate (s : State) (a : Nat) (v : Word) : (s.setReg a v).slate = s.slate := rfl
@[simp] theorem State.setReg_free (s : State) (a : Nat) (v : Word) : (s.setReg a v).free = s.free := rfl
@[simp] theorem State.setReg_mem (s : State) (a : Nat) (v : Word) : (s.setReg a v).mem = s.mem := rfl
@[simp] theorem State.setReg_mram (s : State) (a : Nat) (v : Word) : (s.setReg a v).mram = s.mram := rfl
@[simp] theorem State.setReg_islands (s : State) (a : Nat) (v : Word) : (s.setReg a v).islands = s.islands := rfl
@[simp] theorem State.setReg_dly (s : State) (a : Nat) (v : Word) : (s.setReg a v).dly = s.dly := rfl
@[simp] theorem State.setReg_frm (s : State) (a : Nat) (v : Word) : (s.setReg a v).frm = s.frm := rfl
@[simp] theorem State.setReg_offers (s : State) (a : Nat) (v : Word) : (s.setReg a v).offers = s.offers := rfl
@[simp] theorem State.setReg_chans (s : State) (a : Nat) (v : Word) : (s.setReg a v).chans = s.chans := rfl
@[simp] theorem State.setReg_dies (s : State) (a : Nat) (v : Word) : (s.setReg a v).dies = s.dies := rfl
@[simp] theorem State.setReg_dieChs (s : State) (a : Nat) (v : Word) : (s.setReg a v).dieChs = s.dieChs := rfl
@[simp] theorem State.setReg_links (s : State) (a : Nat) (v : Word) : (s.setReg a v).links = s.links := rfl
@[simp] theorem State.setReg_boost (s : State) (a : Nat) (v : Word) : (s.setReg a v).boost = s.boost := rfl
@[simp] theorem State.setReg_ldg (s : State) (a : Nat) (v : Word) : (s.setReg a v).ldg = s.ldg := rfl
@[simp] theorem State.setReg_boot (s : State) (a : Nat) (v : Word) : (s.setReg a v).boot = s.boot := rfl
@[simp] theorem State.setReg_str (s : State) (a : Nat) (v : Word) : (s.setReg a v).str = s.str := rfl
@[simp] theorem State.setReg_scr (s : State) (a : Nat) (v : Word) : (s.setReg a v).scr = s.scr := rfl
@[simp] theorem State.setReg_engs (s : State) (a : Nat) (v : Word) : (s.setReg a v).engs = s.engs := rfl
@[simp] theorem State.setReg_gated (s : State) (a : Nat) (v : Word) : (s.setReg a v).gated = s.gated := rfl
@[simp] theorem State.setReg_waiting (s : State) (a : Nat) (v : Word) : (s.setReg a v).waiting = s.waiting := rfl
@[simp] theorem State.setReg_rr (s : State) (a : Nat) (v : Word) : (s.setReg a v).rr = s.rr := rfl
@[simp] theorem State.setReg_exec (s : State) (a : Nat) (v : Word) : (s.setReg a v).exec = s.exec := rfl
@[simp] theorem State.setReg_trx (s : State) (a : Nat) (v : Word) : (s.setReg a v).trx = s.trx := rfl
@[simp] theorem State.setReg_cans (s : State) (a : Nat) (v : Word) : (s.setReg a v).cans = s.cans := rfl
@[simp] theorem State.setReg_lins (s : State) (a : Nat) (v : Word) : (s.setReg a v).lins = s.lins := rfl
@[simp] theorem State.setReg_nm (s : State) (a : Nat) (v : Word) : (s.setReg a v).nm = s.nm := rfl
@[simp] theorem State.setReg_gw (s : State) (a : Nat) (v : Word) : (s.setReg a v).gw = s.gw := rfl
@[simp] theorem State.setReg_eth (s : State) (a : Nat) (v : Word) : (s.setReg a v).eth = s.eth := rfl
@[simp] theorem State.setReg_zrt (s : State) (a : Nat) (v : Word) : (s.setReg a v).zrt = s.zrt := rfl
@[simp] theorem State.setReg_pwr (s : State) (a : Nat) (v : Word) : (s.setReg a v).pwr = s.pwr := rfl
@[simp] theorem State.setReg_inp (s : State) (a : Nat) (v : Word) : (s.setReg a v).inp = s.inp := rfl
@[simp] theorem State.setReg_meas (s : State) (a : Nat) (v : Word) : (s.setReg a v).meas = s.meas := rfl
@[simp] theorem State.setReg_keys (s : State) (a : Nat) (v : Word) : (s.setReg a v).keys = s.keys := rfl
@[simp] theorem State.setReg_acc (s : State) (a : Nat) (v : Word) : (s.setReg a v).acc = s.acc := rfl
@[simp] theorem State.setReg_iso (s : State) (a : Nat) (v : Word) : (s.setReg a v).iso = s.iso := rfl
@[simp] theorem State.setReg_nvm (s : State) (a : Nat) (v : Word) : (s.setReg a v).nvm = s.nvm := rfl
@[simp] theorem State.setReg_upd (s : State) (a : Nat) (v : Word) : (s.setReg a v).upd = s.upd := rfl
@[simp] theorem State.setReg_trk (s : State) (a : Nat) (v : Word) : (s.setReg a v).trk = s.trk := rfl
@[simp] theorem State.setReg_brg (s : State) (a : Nat) (v : Word) : (s.setReg a v).brg = s.brg := rfl
@[simp] theorem State.setReg_ports (s : State) (a : Nat) (v : Word) : (s.setReg a v).ports = s.ports := rfl
@[simp] theorem State.setReg_pending (s : State) (a : Nat) (v : Word) : (s.setReg a v).pending = s.pending := rfl
@[simp] theorem State.setF_variant (s : State) (r : RF) (v : Nat) : (s.setF r v).variant = s.variant := rfl
@[simp] theorem State.setF_slate (s : State) (r : RF) (v : Nat) : (s.setF r v).slate = s.slate := rfl
@[simp] theorem State.setF_free (s : State) (r : RF) (v : Nat) : (s.setF r v).free = s.free := rfl
@[simp] theorem State.setF_mem (s : State) (r : RF) (v : Nat) : (s.setF r v).mem = s.mem := rfl
@[simp] theorem State.setF_mram (s : State) (r : RF) (v : Nat) : (s.setF r v).mram = s.mram := rfl
@[simp] theorem State.setF_islands (s : State) (r : RF) (v : Nat) : (s.setF r v).islands = s.islands := rfl
@[simp] theorem State.setF_dly (s : State) (r : RF) (v : Nat) : (s.setF r v).dly = s.dly := rfl
@[simp] theorem State.setF_frm (s : State) (r : RF) (v : Nat) : (s.setF r v).frm = s.frm := rfl
@[simp] theorem State.setF_offers (s : State) (r : RF) (v : Nat) : (s.setF r v).offers = s.offers := rfl
@[simp] theorem State.setF_chans (s : State) (r : RF) (v : Nat) : (s.setF r v).chans = s.chans := rfl
@[simp] theorem State.setF_dies (s : State) (r : RF) (v : Nat) : (s.setF r v).dies = s.dies := rfl
@[simp] theorem State.setF_dieChs (s : State) (r : RF) (v : Nat) : (s.setF r v).dieChs = s.dieChs := rfl
@[simp] theorem State.setF_links (s : State) (r : RF) (v : Nat) : (s.setF r v).links = s.links := rfl
@[simp] theorem State.setF_boost (s : State) (r : RF) (v : Nat) : (s.setF r v).boost = s.boost := rfl
@[simp] theorem State.setF_ldg (s : State) (r : RF) (v : Nat) : (s.setF r v).ldg = s.ldg := rfl
@[simp] theorem State.setF_boot (s : State) (r : RF) (v : Nat) : (s.setF r v).boot = s.boot := rfl
@[simp] theorem State.setF_str (s : State) (r : RF) (v : Nat) : (s.setF r v).str = s.str := rfl
@[simp] theorem State.setF_scr (s : State) (r : RF) (v : Nat) : (s.setF r v).scr = s.scr := rfl
@[simp] theorem State.setF_engs (s : State) (r : RF) (v : Nat) : (s.setF r v).engs = s.engs := rfl
@[simp] theorem State.setF_gated (s : State) (r : RF) (v : Nat) : (s.setF r v).gated = s.gated := rfl
@[simp] theorem State.setF_waiting (s : State) (r : RF) (v : Nat) : (s.setF r v).waiting = s.waiting := rfl
@[simp] theorem State.setF_rr (s : State) (r : RF) (v : Nat) : (s.setF r v).rr = s.rr := rfl
@[simp] theorem State.setF_exec (s : State) (r : RF) (v : Nat) : (s.setF r v).exec = s.exec := rfl
@[simp] theorem State.setF_trx (s : State) (r : RF) (v : Nat) : (s.setF r v).trx = s.trx := rfl
@[simp] theorem State.setF_cans (s : State) (r : RF) (v : Nat) : (s.setF r v).cans = s.cans := rfl
@[simp] theorem State.setF_lins (s : State) (r : RF) (v : Nat) : (s.setF r v).lins = s.lins := rfl
@[simp] theorem State.setF_nm (s : State) (r : RF) (v : Nat) : (s.setF r v).nm = s.nm := rfl
@[simp] theorem State.setF_gw (s : State) (r : RF) (v : Nat) : (s.setF r v).gw = s.gw := rfl
@[simp] theorem State.setF_eth (s : State) (r : RF) (v : Nat) : (s.setF r v).eth = s.eth := rfl
@[simp] theorem State.setF_zrt (s : State) (r : RF) (v : Nat) : (s.setF r v).zrt = s.zrt := rfl
@[simp] theorem State.setF_pwr (s : State) (r : RF) (v : Nat) : (s.setF r v).pwr = s.pwr := rfl
@[simp] theorem State.setF_inp (s : State) (r : RF) (v : Nat) : (s.setF r v).inp = s.inp := rfl
@[simp] theorem State.setF_meas (s : State) (r : RF) (v : Nat) : (s.setF r v).meas = s.meas := rfl
@[simp] theorem State.setF_keys (s : State) (r : RF) (v : Nat) : (s.setF r v).keys = s.keys := rfl
@[simp] theorem State.setF_acc (s : State) (r : RF) (v : Nat) : (s.setF r v).acc = s.acc := rfl
@[simp] theorem State.setF_iso (s : State) (r : RF) (v : Nat) : (s.setF r v).iso = s.iso := rfl
@[simp] theorem State.setF_nvm (s : State) (r : RF) (v : Nat) : (s.setF r v).nvm = s.nvm := rfl
@[simp] theorem State.setF_upd (s : State) (r : RF) (v : Nat) : (s.setF r v).upd = s.upd := rfl
@[simp] theorem State.setF_trk (s : State) (r : RF) (v : Nat) : (s.setF r v).trk = s.trk := rfl
@[simp] theorem State.setF_brg (s : State) (r : RF) (v : Nat) : (s.setF r v).brg = s.brg := rfl
@[simp] theorem State.setF_ports (s : State) (r : RF) (v : Nat) : (s.setF r v).ports = s.ports := rfl
@[simp] theorem State.setF_pending (s : State) (r : RF) (v : Nat) : (s.setF r v).pending = s.pending := rfl
@[simp] theorem State.wr8_variant (s : State) (a : Nat) (v : Byte) : (s.wr8 a v).variant = s.variant := rfl
@[simp] theorem State.wr8_slate (s : State) (a : Nat) (v : Byte) : (s.wr8 a v).slate = s.slate := rfl
@[simp] theorem State.wr8_free (s : State) (a : Nat) (v : Byte) : (s.wr8 a v).free = s.free := rfl
@[simp] theorem State.wr8_regs (s : State) (a : Nat) (v : Byte) : (s.wr8 a v).regs = s.regs := rfl
@[simp] theorem State.wr8_mram (s : State) (a : Nat) (v : Byte) : (s.wr8 a v).mram = s.mram := rfl
@[simp] theorem State.wr8_islands (s : State) (a : Nat) (v : Byte) : (s.wr8 a v).islands = s.islands := rfl
@[simp] theorem State.wr8_dly (s : State) (a : Nat) (v : Byte) : (s.wr8 a v).dly = s.dly := rfl
@[simp] theorem State.wr8_frm (s : State) (a : Nat) (v : Byte) : (s.wr8 a v).frm = s.frm := rfl
@[simp] theorem State.wr8_offers (s : State) (a : Nat) (v : Byte) : (s.wr8 a v).offers = s.offers := rfl
@[simp] theorem State.wr8_chans (s : State) (a : Nat) (v : Byte) : (s.wr8 a v).chans = s.chans := rfl
@[simp] theorem State.wr8_dies (s : State) (a : Nat) (v : Byte) : (s.wr8 a v).dies = s.dies := rfl
@[simp] theorem State.wr8_dieChs (s : State) (a : Nat) (v : Byte) : (s.wr8 a v).dieChs = s.dieChs := rfl
@[simp] theorem State.wr8_links (s : State) (a : Nat) (v : Byte) : (s.wr8 a v).links = s.links := rfl
@[simp] theorem State.wr8_boost (s : State) (a : Nat) (v : Byte) : (s.wr8 a v).boost = s.boost := rfl
@[simp] theorem State.wr8_ldg (s : State) (a : Nat) (v : Byte) : (s.wr8 a v).ldg = s.ldg := rfl
@[simp] theorem State.wr8_boot (s : State) (a : Nat) (v : Byte) : (s.wr8 a v).boot = s.boot := rfl
@[simp] theorem State.wr8_str (s : State) (a : Nat) (v : Byte) : (s.wr8 a v).str = s.str := rfl
@[simp] theorem State.wr8_scr (s : State) (a : Nat) (v : Byte) : (s.wr8 a v).scr = s.scr := rfl
@[simp] theorem State.wr8_engs (s : State) (a : Nat) (v : Byte) : (s.wr8 a v).engs = s.engs := rfl
@[simp] theorem State.wr8_gated (s : State) (a : Nat) (v : Byte) : (s.wr8 a v).gated = s.gated := rfl
@[simp] theorem State.wr8_waiting (s : State) (a : Nat) (v : Byte) : (s.wr8 a v).waiting = s.waiting := rfl
@[simp] theorem State.wr8_rr (s : State) (a : Nat) (v : Byte) : (s.wr8 a v).rr = s.rr := rfl
@[simp] theorem State.wr8_exec (s : State) (a : Nat) (v : Byte) : (s.wr8 a v).exec = s.exec := rfl
@[simp] theorem State.wr8_trx (s : State) (a : Nat) (v : Byte) : (s.wr8 a v).trx = s.trx := rfl
@[simp] theorem State.wr8_cans (s : State) (a : Nat) (v : Byte) : (s.wr8 a v).cans = s.cans := rfl
@[simp] theorem State.wr8_lins (s : State) (a : Nat) (v : Byte) : (s.wr8 a v).lins = s.lins := rfl
@[simp] theorem State.wr8_nm (s : State) (a : Nat) (v : Byte) : (s.wr8 a v).nm = s.nm := rfl
@[simp] theorem State.wr8_gw (s : State) (a : Nat) (v : Byte) : (s.wr8 a v).gw = s.gw := rfl
@[simp] theorem State.wr8_eth (s : State) (a : Nat) (v : Byte) : (s.wr8 a v).eth = s.eth := rfl
@[simp] theorem State.wr8_zrt (s : State) (a : Nat) (v : Byte) : (s.wr8 a v).zrt = s.zrt := rfl
@[simp] theorem State.wr8_pwr (s : State) (a : Nat) (v : Byte) : (s.wr8 a v).pwr = s.pwr := rfl
@[simp] theorem State.wr8_inp (s : State) (a : Nat) (v : Byte) : (s.wr8 a v).inp = s.inp := rfl
@[simp] theorem State.wr8_meas (s : State) (a : Nat) (v : Byte) : (s.wr8 a v).meas = s.meas := rfl
@[simp] theorem State.wr8_keys (s : State) (a : Nat) (v : Byte) : (s.wr8 a v).keys = s.keys := rfl
@[simp] theorem State.wr8_acc (s : State) (a : Nat) (v : Byte) : (s.wr8 a v).acc = s.acc := rfl
@[simp] theorem State.wr8_iso (s : State) (a : Nat) (v : Byte) : (s.wr8 a v).iso = s.iso := rfl
@[simp] theorem State.wr8_nvm (s : State) (a : Nat) (v : Byte) : (s.wr8 a v).nvm = s.nvm := rfl
@[simp] theorem State.wr8_upd (s : State) (a : Nat) (v : Byte) : (s.wr8 a v).upd = s.upd := rfl
@[simp] theorem State.wr8_trk (s : State) (a : Nat) (v : Byte) : (s.wr8 a v).trk = s.trk := rfl
@[simp] theorem State.wr8_brg (s : State) (a : Nat) (v : Byte) : (s.wr8 a v).brg = s.brg := rfl
@[simp] theorem State.wr8_ports (s : State) (a : Nat) (v : Byte) : (s.wr8 a v).ports = s.ports := rfl
@[simp] theorem State.wr8_pending (s : State) (a : Nat) (v : Byte) : (s.wr8 a v).pending = s.pending := rfl
@[simp] theorem State.mwr8_variant (s : State) (a : Nat) (v : Byte) : (s.mwr8 a v).variant = s.variant := rfl
@[simp] theorem State.mwr8_slate (s : State) (a : Nat) (v : Byte) : (s.mwr8 a v).slate = s.slate := rfl
@[simp] theorem State.mwr8_free (s : State) (a : Nat) (v : Byte) : (s.mwr8 a v).free = s.free := rfl
@[simp] theorem State.mwr8_regs (s : State) (a : Nat) (v : Byte) : (s.mwr8 a v).regs = s.regs := rfl
@[simp] theorem State.mwr8_mem (s : State) (a : Nat) (v : Byte) : (s.mwr8 a v).mem = s.mem := rfl
@[simp] theorem State.mwr8_islands (s : State) (a : Nat) (v : Byte) : (s.mwr8 a v).islands = s.islands := rfl
@[simp] theorem State.mwr8_dly (s : State) (a : Nat) (v : Byte) : (s.mwr8 a v).dly = s.dly := rfl
@[simp] theorem State.mwr8_frm (s : State) (a : Nat) (v : Byte) : (s.mwr8 a v).frm = s.frm := rfl
@[simp] theorem State.mwr8_offers (s : State) (a : Nat) (v : Byte) : (s.mwr8 a v).offers = s.offers := rfl
@[simp] theorem State.mwr8_chans (s : State) (a : Nat) (v : Byte) : (s.mwr8 a v).chans = s.chans := rfl
@[simp] theorem State.mwr8_dies (s : State) (a : Nat) (v : Byte) : (s.mwr8 a v).dies = s.dies := rfl
@[simp] theorem State.mwr8_dieChs (s : State) (a : Nat) (v : Byte) : (s.mwr8 a v).dieChs = s.dieChs := rfl
@[simp] theorem State.mwr8_links (s : State) (a : Nat) (v : Byte) : (s.mwr8 a v).links = s.links := rfl
@[simp] theorem State.mwr8_boost (s : State) (a : Nat) (v : Byte) : (s.mwr8 a v).boost = s.boost := rfl
@[simp] theorem State.mwr8_ldg (s : State) (a : Nat) (v : Byte) : (s.mwr8 a v).ldg = s.ldg := rfl
@[simp] theorem State.mwr8_boot (s : State) (a : Nat) (v : Byte) : (s.mwr8 a v).boot = s.boot := rfl
@[simp] theorem State.mwr8_str (s : State) (a : Nat) (v : Byte) : (s.mwr8 a v).str = s.str := rfl
@[simp] theorem State.mwr8_scr (s : State) (a : Nat) (v : Byte) : (s.mwr8 a v).scr = s.scr := rfl
@[simp] theorem State.mwr8_engs (s : State) (a : Nat) (v : Byte) : (s.mwr8 a v).engs = s.engs := rfl
@[simp] theorem State.mwr8_gated (s : State) (a : Nat) (v : Byte) : (s.mwr8 a v).gated = s.gated := rfl
@[simp] theorem State.mwr8_waiting (s : State) (a : Nat) (v : Byte) : (s.mwr8 a v).waiting = s.waiting := rfl
@[simp] theorem State.mwr8_rr (s : State) (a : Nat) (v : Byte) : (s.mwr8 a v).rr = s.rr := rfl
@[simp] theorem State.mwr8_exec (s : State) (a : Nat) (v : Byte) : (s.mwr8 a v).exec = s.exec := rfl
@[simp] theorem State.mwr8_trx (s : State) (a : Nat) (v : Byte) : (s.mwr8 a v).trx = s.trx := rfl
@[simp] theorem State.mwr8_cans (s : State) (a : Nat) (v : Byte) : (s.mwr8 a v).cans = s.cans := rfl
@[simp] theorem State.mwr8_lins (s : State) (a : Nat) (v : Byte) : (s.mwr8 a v).lins = s.lins := rfl
@[simp] theorem State.mwr8_nm (s : State) (a : Nat) (v : Byte) : (s.mwr8 a v).nm = s.nm := rfl
@[simp] theorem State.mwr8_gw (s : State) (a : Nat) (v : Byte) : (s.mwr8 a v).gw = s.gw := rfl
@[simp] theorem State.mwr8_eth (s : State) (a : Nat) (v : Byte) : (s.mwr8 a v).eth = s.eth := rfl
@[simp] theorem State.mwr8_zrt (s : State) (a : Nat) (v : Byte) : (s.mwr8 a v).zrt = s.zrt := rfl
@[simp] theorem State.mwr8_pwr (s : State) (a : Nat) (v : Byte) : (s.mwr8 a v).pwr = s.pwr := rfl
@[simp] theorem State.mwr8_inp (s : State) (a : Nat) (v : Byte) : (s.mwr8 a v).inp = s.inp := rfl
@[simp] theorem State.mwr8_meas (s : State) (a : Nat) (v : Byte) : (s.mwr8 a v).meas = s.meas := rfl
@[simp] theorem State.mwr8_keys (s : State) (a : Nat) (v : Byte) : (s.mwr8 a v).keys = s.keys := rfl
@[simp] theorem State.mwr8_acc (s : State) (a : Nat) (v : Byte) : (s.mwr8 a v).acc = s.acc := rfl
@[simp] theorem State.mwr8_iso (s : State) (a : Nat) (v : Byte) : (s.mwr8 a v).iso = s.iso := rfl
@[simp] theorem State.mwr8_nvm (s : State) (a : Nat) (v : Byte) : (s.mwr8 a v).nvm = s.nvm := rfl
@[simp] theorem State.mwr8_upd (s : State) (a : Nat) (v : Byte) : (s.mwr8 a v).upd = s.upd := rfl
@[simp] theorem State.mwr8_trk (s : State) (a : Nat) (v : Byte) : (s.mwr8 a v).trk = s.trk := rfl
@[simp] theorem State.mwr8_brg (s : State) (a : Nat) (v : Byte) : (s.mwr8 a v).brg = s.brg := rfl
@[simp] theorem State.mwr8_ports (s : State) (a : Nat) (v : Byte) : (s.mwr8 a v).ports = s.ports := rfl
@[simp] theorem State.mwr8_pending (s : State) (a : Nat) (v : Byte) : (s.mwr8 a v).pending = s.pending := rfl
@[simp] theorem State.drawn_variant (s : State) : (s.drawn).variant = s.variant := rfl
@[simp] theorem State.drawn_slate (s : State) : (s.drawn).slate = s.slate := rfl
@[simp] theorem State.drawn_regs (s : State) : (s.drawn).regs = s.regs := rfl
@[simp] theorem State.drawn_mem (s : State) : (s.drawn).mem = s.mem := rfl
@[simp] theorem State.drawn_mram (s : State) : (s.drawn).mram = s.mram := rfl
@[simp] theorem State.drawn_islands (s : State) : (s.drawn).islands = s.islands := rfl
@[simp] theorem State.drawn_dly (s : State) : (s.drawn).dly = s.dly := rfl
@[simp] theorem State.drawn_frm (s : State) : (s.drawn).frm = s.frm := rfl
@[simp] theorem State.drawn_offers (s : State) : (s.drawn).offers = s.offers := rfl
@[simp] theorem State.drawn_chans (s : State) : (s.drawn).chans = s.chans := rfl
@[simp] theorem State.drawn_dies (s : State) : (s.drawn).dies = s.dies := rfl
@[simp] theorem State.drawn_dieChs (s : State) : (s.drawn).dieChs = s.dieChs := rfl
@[simp] theorem State.drawn_links (s : State) : (s.drawn).links = s.links := rfl
@[simp] theorem State.drawn_boost (s : State) : (s.drawn).boost = s.boost := rfl
@[simp] theorem State.drawn_ldg (s : State) : (s.drawn).ldg = s.ldg := rfl
@[simp] theorem State.drawn_boot (s : State) : (s.drawn).boot = s.boot := rfl
@[simp] theorem State.drawn_str (s : State) : (s.drawn).str = s.str := rfl
@[simp] theorem State.drawn_scr (s : State) : (s.drawn).scr = s.scr := rfl
@[simp] theorem State.drawn_engs (s : State) : (s.drawn).engs = s.engs := rfl
@[simp] theorem State.drawn_gated (s : State) : (s.drawn).gated = s.gated := rfl
@[simp] theorem State.drawn_waiting (s : State) : (s.drawn).waiting = s.waiting := rfl
@[simp] theorem State.drawn_rr (s : State) : (s.drawn).rr = s.rr := rfl
@[simp] theorem State.drawn_exec (s : State) : (s.drawn).exec = s.exec := rfl
@[simp] theorem State.drawn_trx (s : State) : (s.drawn).trx = s.trx := rfl
@[simp] theorem State.drawn_cans (s : State) : (s.drawn).cans = s.cans := rfl
@[simp] theorem State.drawn_lins (s : State) : (s.drawn).lins = s.lins := rfl
@[simp] theorem State.drawn_nm (s : State) : (s.drawn).nm = s.nm := rfl
@[simp] theorem State.drawn_gw (s : State) : (s.drawn).gw = s.gw := rfl
@[simp] theorem State.drawn_eth (s : State) : (s.drawn).eth = s.eth := rfl
@[simp] theorem State.drawn_zrt (s : State) : (s.drawn).zrt = s.zrt := rfl
@[simp] theorem State.drawn_pwr (s : State) : (s.drawn).pwr = s.pwr := rfl
@[simp] theorem State.drawn_inp (s : State) : (s.drawn).inp = s.inp := rfl
@[simp] theorem State.drawn_meas (s : State) : (s.drawn).meas = s.meas := rfl
@[simp] theorem State.drawn_keys (s : State) : (s.drawn).keys = s.keys := rfl
@[simp] theorem State.drawn_acc (s : State) : (s.drawn).acc = s.acc := rfl
@[simp] theorem State.drawn_iso (s : State) : (s.drawn).iso = s.iso := rfl
@[simp] theorem State.drawn_nvm (s : State) : (s.drawn).nvm = s.nvm := rfl
@[simp] theorem State.drawn_upd (s : State) : (s.drawn).upd = s.upd := rfl
@[simp] theorem State.drawn_trk (s : State) : (s.drawn).trk = s.trk := rfl
@[simp] theorem State.drawn_brg (s : State) : (s.drawn).brg = s.brg := rfl
@[simp] theorem State.drawn_ports (s : State) : (s.drawn).ports = s.ports := rfl
@[simp] theorem State.drawn_pending (s : State) : (s.drawn).pending = s.pending := rfl
@[simp] theorem State.setIsland_variant (s : State) (i : Nat) (x : Island) : (s.setIsland i x).variant = s.variant := rfl
@[simp] theorem State.setIsland_slate (s : State) (i : Nat) (x : Island) : (s.setIsland i x).slate = s.slate := rfl
@[simp] theorem State.setIsland_free (s : State) (i : Nat) (x : Island) : (s.setIsland i x).free = s.free := rfl
@[simp] theorem State.setIsland_regs (s : State) (i : Nat) (x : Island) : (s.setIsland i x).regs = s.regs := rfl
@[simp] theorem State.setIsland_mem (s : State) (i : Nat) (x : Island) : (s.setIsland i x).mem = s.mem := rfl
@[simp] theorem State.setIsland_mram (s : State) (i : Nat) (x : Island) : (s.setIsland i x).mram = s.mram := rfl
@[simp] theorem State.setIsland_dly (s : State) (i : Nat) (x : Island) : (s.setIsland i x).dly = s.dly := rfl
@[simp] theorem State.setIsland_frm (s : State) (i : Nat) (x : Island) : (s.setIsland i x).frm = s.frm := rfl
@[simp] theorem State.setIsland_offers (s : State) (i : Nat) (x : Island) : (s.setIsland i x).offers = s.offers := rfl
@[simp] theorem State.setIsland_chans (s : State) (i : Nat) (x : Island) : (s.setIsland i x).chans = s.chans := rfl
@[simp] theorem State.setIsland_dies (s : State) (i : Nat) (x : Island) : (s.setIsland i x).dies = s.dies := rfl
@[simp] theorem State.setIsland_dieChs (s : State) (i : Nat) (x : Island) : (s.setIsland i x).dieChs = s.dieChs := rfl
@[simp] theorem State.setIsland_links (s : State) (i : Nat) (x : Island) : (s.setIsland i x).links = s.links := rfl
@[simp] theorem State.setIsland_boost (s : State) (i : Nat) (x : Island) : (s.setIsland i x).boost = s.boost := rfl
@[simp] theorem State.setIsland_ldg (s : State) (i : Nat) (x : Island) : (s.setIsland i x).ldg = s.ldg := rfl
@[simp] theorem State.setIsland_boot (s : State) (i : Nat) (x : Island) : (s.setIsland i x).boot = s.boot := rfl
@[simp] theorem State.setIsland_str (s : State) (i : Nat) (x : Island) : (s.setIsland i x).str = s.str := rfl
@[simp] theorem State.setIsland_scr (s : State) (i : Nat) (x : Island) : (s.setIsland i x).scr = s.scr := rfl
@[simp] theorem State.setIsland_engs (s : State) (i : Nat) (x : Island) : (s.setIsland i x).engs = s.engs := rfl
@[simp] theorem State.setIsland_gated (s : State) (i : Nat) (x : Island) : (s.setIsland i x).gated = s.gated := rfl
@[simp] theorem State.setIsland_waiting (s : State) (i : Nat) (x : Island) : (s.setIsland i x).waiting = s.waiting := rfl
@[simp] theorem State.setIsland_rr (s : State) (i : Nat) (x : Island) : (s.setIsland i x).rr = s.rr := rfl
@[simp] theorem State.setIsland_exec (s : State) (i : Nat) (x : Island) : (s.setIsland i x).exec = s.exec := rfl
@[simp] theorem State.setIsland_trx (s : State) (i : Nat) (x : Island) : (s.setIsland i x).trx = s.trx := rfl
@[simp] theorem State.setIsland_cans (s : State) (i : Nat) (x : Island) : (s.setIsland i x).cans = s.cans := rfl
@[simp] theorem State.setIsland_lins (s : State) (i : Nat) (x : Island) : (s.setIsland i x).lins = s.lins := rfl
@[simp] theorem State.setIsland_nm (s : State) (i : Nat) (x : Island) : (s.setIsland i x).nm = s.nm := rfl
@[simp] theorem State.setIsland_gw (s : State) (i : Nat) (x : Island) : (s.setIsland i x).gw = s.gw := rfl
@[simp] theorem State.setIsland_eth (s : State) (i : Nat) (x : Island) : (s.setIsland i x).eth = s.eth := rfl
@[simp] theorem State.setIsland_zrt (s : State) (i : Nat) (x : Island) : (s.setIsland i x).zrt = s.zrt := rfl
@[simp] theorem State.setIsland_pwr (s : State) (i : Nat) (x : Island) : (s.setIsland i x).pwr = s.pwr := rfl
@[simp] theorem State.setIsland_inp (s : State) (i : Nat) (x : Island) : (s.setIsland i x).inp = s.inp := rfl
@[simp] theorem State.setIsland_meas (s : State) (i : Nat) (x : Island) : (s.setIsland i x).meas = s.meas := rfl
@[simp] theorem State.setIsland_keys (s : State) (i : Nat) (x : Island) : (s.setIsland i x).keys = s.keys := rfl
@[simp] theorem State.setIsland_acc (s : State) (i : Nat) (x : Island) : (s.setIsland i x).acc = s.acc := rfl
@[simp] theorem State.setIsland_iso (s : State) (i : Nat) (x : Island) : (s.setIsland i x).iso = s.iso := rfl
@[simp] theorem State.setIsland_nvm (s : State) (i : Nat) (x : Island) : (s.setIsland i x).nvm = s.nvm := rfl
@[simp] theorem State.setIsland_upd (s : State) (i : Nat) (x : Island) : (s.setIsland i x).upd = s.upd := rfl
@[simp] theorem State.setIsland_trk (s : State) (i : Nat) (x : Island) : (s.setIsland i x).trk = s.trk := rfl
@[simp] theorem State.setIsland_brg (s : State) (i : Nat) (x : Island) : (s.setIsland i x).brg = s.brg := rfl
@[simp] theorem State.setIsland_ports (s : State) (i : Nat) (x : Island) : (s.setIsland i x).ports = s.ports := rfl
@[simp] theorem State.setIsland_pending (s : State) (i : Nat) (x : Island) : (s.setIsland i x).pending = s.pending := rfl
@[simp] theorem State.setEng_variant (s : State) (g : Nat) (x : Eng) : (s.setEng g x).variant = s.variant := rfl
@[simp] theorem State.setEng_slate (s : State) (g : Nat) (x : Eng) : (s.setEng g x).slate = s.slate := rfl
@[simp] theorem State.setEng_free (s : State) (g : Nat) (x : Eng) : (s.setEng g x).free = s.free := rfl
@[simp] theorem State.setEng_regs (s : State) (g : Nat) (x : Eng) : (s.setEng g x).regs = s.regs := rfl
@[simp] theorem State.setEng_mem (s : State) (g : Nat) (x : Eng) : (s.setEng g x).mem = s.mem := rfl
@[simp] theorem State.setEng_mram (s : State) (g : Nat) (x : Eng) : (s.setEng g x).mram = s.mram := rfl
@[simp] theorem State.setEng_islands (s : State) (g : Nat) (x : Eng) : (s.setEng g x).islands = s.islands := rfl
@[simp] theorem State.setEng_dly (s : State) (g : Nat) (x : Eng) : (s.setEng g x).dly = s.dly := rfl
@[simp] theorem State.setEng_frm (s : State) (g : Nat) (x : Eng) : (s.setEng g x).frm = s.frm := rfl
@[simp] theorem State.setEng_offers (s : State) (g : Nat) (x : Eng) : (s.setEng g x).offers = s.offers := rfl
@[simp] theorem State.setEng_chans (s : State) (g : Nat) (x : Eng) : (s.setEng g x).chans = s.chans := rfl
@[simp] theorem State.setEng_dies (s : State) (g : Nat) (x : Eng) : (s.setEng g x).dies = s.dies := rfl
@[simp] theorem State.setEng_dieChs (s : State) (g : Nat) (x : Eng) : (s.setEng g x).dieChs = s.dieChs := rfl
@[simp] theorem State.setEng_links (s : State) (g : Nat) (x : Eng) : (s.setEng g x).links = s.links := rfl
@[simp] theorem State.setEng_boost (s : State) (g : Nat) (x : Eng) : (s.setEng g x).boost = s.boost := rfl
@[simp] theorem State.setEng_ldg (s : State) (g : Nat) (x : Eng) : (s.setEng g x).ldg = s.ldg := rfl
@[simp] theorem State.setEng_boot (s : State) (g : Nat) (x : Eng) : (s.setEng g x).boot = s.boot := rfl
@[simp] theorem State.setEng_str (s : State) (g : Nat) (x : Eng) : (s.setEng g x).str = s.str := rfl
@[simp] theorem State.setEng_scr (s : State) (g : Nat) (x : Eng) : (s.setEng g x).scr = s.scr := rfl
@[simp] theorem State.setEng_gated (s : State) (g : Nat) (x : Eng) : (s.setEng g x).gated = s.gated := rfl
@[simp] theorem State.setEng_waiting (s : State) (g : Nat) (x : Eng) : (s.setEng g x).waiting = s.waiting := rfl
@[simp] theorem State.setEng_rr (s : State) (g : Nat) (x : Eng) : (s.setEng g x).rr = s.rr := rfl
@[simp] theorem State.setEng_exec (s : State) (g : Nat) (x : Eng) : (s.setEng g x).exec = s.exec := rfl
@[simp] theorem State.setEng_trx (s : State) (g : Nat) (x : Eng) : (s.setEng g x).trx = s.trx := rfl
@[simp] theorem State.setEng_cans (s : State) (g : Nat) (x : Eng) : (s.setEng g x).cans = s.cans := rfl
@[simp] theorem State.setEng_lins (s : State) (g : Nat) (x : Eng) : (s.setEng g x).lins = s.lins := rfl
@[simp] theorem State.setEng_nm (s : State) (g : Nat) (x : Eng) : (s.setEng g x).nm = s.nm := rfl
@[simp] theorem State.setEng_gw (s : State) (g : Nat) (x : Eng) : (s.setEng g x).gw = s.gw := rfl
@[simp] theorem State.setEng_eth (s : State) (g : Nat) (x : Eng) : (s.setEng g x).eth = s.eth := rfl
@[simp] theorem State.setEng_zrt (s : State) (g : Nat) (x : Eng) : (s.setEng g x).zrt = s.zrt := rfl
@[simp] theorem State.setEng_pwr (s : State) (g : Nat) (x : Eng) : (s.setEng g x).pwr = s.pwr := rfl
@[simp] theorem State.setEng_inp (s : State) (g : Nat) (x : Eng) : (s.setEng g x).inp = s.inp := rfl
@[simp] theorem State.setEng_meas (s : State) (g : Nat) (x : Eng) : (s.setEng g x).meas = s.meas := rfl
@[simp] theorem State.setEng_keys (s : State) (g : Nat) (x : Eng) : (s.setEng g x).keys = s.keys := rfl
@[simp] theorem State.setEng_acc (s : State) (g : Nat) (x : Eng) : (s.setEng g x).acc = s.acc := rfl
@[simp] theorem State.setEng_iso (s : State) (g : Nat) (x : Eng) : (s.setEng g x).iso = s.iso := rfl
@[simp] theorem State.setEng_nvm (s : State) (g : Nat) (x : Eng) : (s.setEng g x).nvm = s.nvm := rfl
@[simp] theorem State.setEng_upd (s : State) (g : Nat) (x : Eng) : (s.setEng g x).upd = s.upd := rfl
@[simp] theorem State.setEng_trk (s : State) (g : Nat) (x : Eng) : (s.setEng g x).trk = s.trk := rfl
@[simp] theorem State.setEng_brg (s : State) (g : Nat) (x : Eng) : (s.setEng g x).brg = s.brg := rfl
@[simp] theorem State.setEng_ports (s : State) (g : Nat) (x : Eng) : (s.setEng g x).ports = s.ports := rfl
@[simp] theorem State.setEng_pending (s : State) (g : Nat) (x : Eng) : (s.setEng g x).pending = s.pending := rfl
@[simp] theorem State.setChan_variant (s : State) (c : Nat) (x : Chan) : (s.setChan c x).variant = s.variant := rfl
@[simp] theorem State.setChan_slate (s : State) (c : Nat) (x : Chan) : (s.setChan c x).slate = s.slate := rfl
@[simp] theorem State.setChan_free (s : State) (c : Nat) (x : Chan) : (s.setChan c x).free = s.free := rfl
@[simp] theorem State.setChan_regs (s : State) (c : Nat) (x : Chan) : (s.setChan c x).regs = s.regs := rfl
@[simp] theorem State.setChan_mem (s : State) (c : Nat) (x : Chan) : (s.setChan c x).mem = s.mem := rfl
@[simp] theorem State.setChan_mram (s : State) (c : Nat) (x : Chan) : (s.setChan c x).mram = s.mram := rfl
@[simp] theorem State.setChan_islands (s : State) (c : Nat) (x : Chan) : (s.setChan c x).islands = s.islands := rfl
@[simp] theorem State.setChan_dly (s : State) (c : Nat) (x : Chan) : (s.setChan c x).dly = s.dly := rfl
@[simp] theorem State.setChan_frm (s : State) (c : Nat) (x : Chan) : (s.setChan c x).frm = s.frm := rfl
@[simp] theorem State.setChan_offers (s : State) (c : Nat) (x : Chan) : (s.setChan c x).offers = s.offers := rfl
@[simp] theorem State.setChan_dies (s : State) (c : Nat) (x : Chan) : (s.setChan c x).dies = s.dies := rfl
@[simp] theorem State.setChan_dieChs (s : State) (c : Nat) (x : Chan) : (s.setChan c x).dieChs = s.dieChs := rfl
@[simp] theorem State.setChan_links (s : State) (c : Nat) (x : Chan) : (s.setChan c x).links = s.links := rfl
@[simp] theorem State.setChan_boost (s : State) (c : Nat) (x : Chan) : (s.setChan c x).boost = s.boost := rfl
@[simp] theorem State.setChan_ldg (s : State) (c : Nat) (x : Chan) : (s.setChan c x).ldg = s.ldg := rfl
@[simp] theorem State.setChan_boot (s : State) (c : Nat) (x : Chan) : (s.setChan c x).boot = s.boot := rfl
@[simp] theorem State.setChan_str (s : State) (c : Nat) (x : Chan) : (s.setChan c x).str = s.str := rfl
@[simp] theorem State.setChan_scr (s : State) (c : Nat) (x : Chan) : (s.setChan c x).scr = s.scr := rfl
@[simp] theorem State.setChan_engs (s : State) (c : Nat) (x : Chan) : (s.setChan c x).engs = s.engs := rfl
@[simp] theorem State.setChan_gated (s : State) (c : Nat) (x : Chan) : (s.setChan c x).gated = s.gated := rfl
@[simp] theorem State.setChan_waiting (s : State) (c : Nat) (x : Chan) : (s.setChan c x).waiting = s.waiting := rfl
@[simp] theorem State.setChan_rr (s : State) (c : Nat) (x : Chan) : (s.setChan c x).rr = s.rr := rfl
@[simp] theorem State.setChan_exec (s : State) (c : Nat) (x : Chan) : (s.setChan c x).exec = s.exec := rfl
@[simp] theorem State.setChan_trx (s : State) (c : Nat) (x : Chan) : (s.setChan c x).trx = s.trx := rfl
@[simp] theorem State.setChan_cans (s : State) (c : Nat) (x : Chan) : (s.setChan c x).cans = s.cans := rfl
@[simp] theorem State.setChan_lins (s : State) (c : Nat) (x : Chan) : (s.setChan c x).lins = s.lins := rfl
@[simp] theorem State.setChan_nm (s : State) (c : Nat) (x : Chan) : (s.setChan c x).nm = s.nm := rfl
@[simp] theorem State.setChan_gw (s : State) (c : Nat) (x : Chan) : (s.setChan c x).gw = s.gw := rfl
@[simp] theorem State.setChan_eth (s : State) (c : Nat) (x : Chan) : (s.setChan c x).eth = s.eth := rfl
@[simp] theorem State.setChan_zrt (s : State) (c : Nat) (x : Chan) : (s.setChan c x).zrt = s.zrt := rfl
@[simp] theorem State.setChan_pwr (s : State) (c : Nat) (x : Chan) : (s.setChan c x).pwr = s.pwr := rfl
@[simp] theorem State.setChan_inp (s : State) (c : Nat) (x : Chan) : (s.setChan c x).inp = s.inp := rfl
@[simp] theorem State.setChan_meas (s : State) (c : Nat) (x : Chan) : (s.setChan c x).meas = s.meas := rfl
@[simp] theorem State.setChan_keys (s : State) (c : Nat) (x : Chan) : (s.setChan c x).keys = s.keys := rfl
@[simp] theorem State.setChan_acc (s : State) (c : Nat) (x : Chan) : (s.setChan c x).acc = s.acc := rfl
@[simp] theorem State.setChan_iso (s : State) (c : Nat) (x : Chan) : (s.setChan c x).iso = s.iso := rfl
@[simp] theorem State.setChan_nvm (s : State) (c : Nat) (x : Chan) : (s.setChan c x).nvm = s.nvm := rfl
@[simp] theorem State.setChan_upd (s : State) (c : Nat) (x : Chan) : (s.setChan c x).upd = s.upd := rfl
@[simp] theorem State.setChan_trk (s : State) (c : Nat) (x : Chan) : (s.setChan c x).trk = s.trk := rfl
@[simp] theorem State.setChan_brg (s : State) (c : Nat) (x : Chan) : (s.setChan c x).brg = s.brg := rfl
@[simp] theorem State.setChan_ports (s : State) (c : Nat) (x : Chan) : (s.setChan c x).ports = s.ports := rfl
@[simp] theorem State.setChan_pending (s : State) (c : Nat) (x : Chan) : (s.setChan c x).pending = s.pending := rfl
@[simp] theorem State.setDie_variant (s : State) (n : Nat) (x : Die) : (s.setDie n x).variant = s.variant := rfl
@[simp] theorem State.setDie_slate (s : State) (n : Nat) (x : Die) : (s.setDie n x).slate = s.slate := rfl
@[simp] theorem State.setDie_free (s : State) (n : Nat) (x : Die) : (s.setDie n x).free = s.free := rfl
@[simp] theorem State.setDie_regs (s : State) (n : Nat) (x : Die) : (s.setDie n x).regs = s.regs := rfl
@[simp] theorem State.setDie_mem (s : State) (n : Nat) (x : Die) : (s.setDie n x).mem = s.mem := rfl
@[simp] theorem State.setDie_mram (s : State) (n : Nat) (x : Die) : (s.setDie n x).mram = s.mram := rfl
@[simp] theorem State.setDie_islands (s : State) (n : Nat) (x : Die) : (s.setDie n x).islands = s.islands := rfl
@[simp] theorem State.setDie_dly (s : State) (n : Nat) (x : Die) : (s.setDie n x).dly = s.dly := rfl
@[simp] theorem State.setDie_frm (s : State) (n : Nat) (x : Die) : (s.setDie n x).frm = s.frm := rfl
@[simp] theorem State.setDie_offers (s : State) (n : Nat) (x : Die) : (s.setDie n x).offers = s.offers := rfl
@[simp] theorem State.setDie_chans (s : State) (n : Nat) (x : Die) : (s.setDie n x).chans = s.chans := rfl
@[simp] theorem State.setDie_dieChs (s : State) (n : Nat) (x : Die) : (s.setDie n x).dieChs = s.dieChs := rfl
@[simp] theorem State.setDie_links (s : State) (n : Nat) (x : Die) : (s.setDie n x).links = s.links := rfl
@[simp] theorem State.setDie_boost (s : State) (n : Nat) (x : Die) : (s.setDie n x).boost = s.boost := rfl
@[simp] theorem State.setDie_ldg (s : State) (n : Nat) (x : Die) : (s.setDie n x).ldg = s.ldg := rfl
@[simp] theorem State.setDie_boot (s : State) (n : Nat) (x : Die) : (s.setDie n x).boot = s.boot := rfl
@[simp] theorem State.setDie_str (s : State) (n : Nat) (x : Die) : (s.setDie n x).str = s.str := rfl
@[simp] theorem State.setDie_scr (s : State) (n : Nat) (x : Die) : (s.setDie n x).scr = s.scr := rfl
@[simp] theorem State.setDie_engs (s : State) (n : Nat) (x : Die) : (s.setDie n x).engs = s.engs := rfl
@[simp] theorem State.setDie_gated (s : State) (n : Nat) (x : Die) : (s.setDie n x).gated = s.gated := rfl
@[simp] theorem State.setDie_waiting (s : State) (n : Nat) (x : Die) : (s.setDie n x).waiting = s.waiting := rfl
@[simp] theorem State.setDie_rr (s : State) (n : Nat) (x : Die) : (s.setDie n x).rr = s.rr := rfl
@[simp] theorem State.setDie_exec (s : State) (n : Nat) (x : Die) : (s.setDie n x).exec = s.exec := rfl
@[simp] theorem State.setDie_trx (s : State) (n : Nat) (x : Die) : (s.setDie n x).trx = s.trx := rfl
@[simp] theorem State.setDie_cans (s : State) (n : Nat) (x : Die) : (s.setDie n x).cans = s.cans := rfl
@[simp] theorem State.setDie_lins (s : State) (n : Nat) (x : Die) : (s.setDie n x).lins = s.lins := rfl
@[simp] theorem State.setDie_nm (s : State) (n : Nat) (x : Die) : (s.setDie n x).nm = s.nm := rfl
@[simp] theorem State.setDie_gw (s : State) (n : Nat) (x : Die) : (s.setDie n x).gw = s.gw := rfl
@[simp] theorem State.setDie_eth (s : State) (n : Nat) (x : Die) : (s.setDie n x).eth = s.eth := rfl
@[simp] theorem State.setDie_zrt (s : State) (n : Nat) (x : Die) : (s.setDie n x).zrt = s.zrt := rfl
@[simp] theorem State.setDie_pwr (s : State) (n : Nat) (x : Die) : (s.setDie n x).pwr = s.pwr := rfl
@[simp] theorem State.setDie_inp (s : State) (n : Nat) (x : Die) : (s.setDie n x).inp = s.inp := rfl
@[simp] theorem State.setDie_meas (s : State) (n : Nat) (x : Die) : (s.setDie n x).meas = s.meas := rfl
@[simp] theorem State.setDie_keys (s : State) (n : Nat) (x : Die) : (s.setDie n x).keys = s.keys := rfl
@[simp] theorem State.setDie_acc (s : State) (n : Nat) (x : Die) : (s.setDie n x).acc = s.acc := rfl
@[simp] theorem State.setDie_iso (s : State) (n : Nat) (x : Die) : (s.setDie n x).iso = s.iso := rfl
@[simp] theorem State.setDie_nvm (s : State) (n : Nat) (x : Die) : (s.setDie n x).nvm = s.nvm := rfl
@[simp] theorem State.setDie_upd (s : State) (n : Nat) (x : Die) : (s.setDie n x).upd = s.upd := rfl
@[simp] theorem State.setDie_trk (s : State) (n : Nat) (x : Die) : (s.setDie n x).trk = s.trk := rfl
@[simp] theorem State.setDie_brg (s : State) (n : Nat) (x : Die) : (s.setDie n x).brg = s.brg := rfl
@[simp] theorem State.setDie_ports (s : State) (n : Nat) (x : Die) : (s.setDie n x).ports = s.ports := rfl
@[simp] theorem State.setDie_pending (s : State) (n : Nat) (x : Die) : (s.setDie n x).pending = s.pending := rfl
@[simp] theorem State.setDieCh_variant (s : State) (c : Nat) (x : DieCh) : (s.setDieCh c x).variant = s.variant := rfl
@[simp] theorem State.setDieCh_slate (s : State) (c : Nat) (x : DieCh) : (s.setDieCh c x).slate = s.slate := rfl
@[simp] theorem State.setDieCh_free (s : State) (c : Nat) (x : DieCh) : (s.setDieCh c x).free = s.free := rfl
@[simp] theorem State.setDieCh_regs (s : State) (c : Nat) (x : DieCh) : (s.setDieCh c x).regs = s.regs := rfl
@[simp] theorem State.setDieCh_mem (s : State) (c : Nat) (x : DieCh) : (s.setDieCh c x).mem = s.mem := rfl
@[simp] theorem State.setDieCh_mram (s : State) (c : Nat) (x : DieCh) : (s.setDieCh c x).mram = s.mram := rfl
@[simp] theorem State.setDieCh_islands (s : State) (c : Nat) (x : DieCh) : (s.setDieCh c x).islands = s.islands := rfl
@[simp] theorem State.setDieCh_dly (s : State) (c : Nat) (x : DieCh) : (s.setDieCh c x).dly = s.dly := rfl
@[simp] theorem State.setDieCh_frm (s : State) (c : Nat) (x : DieCh) : (s.setDieCh c x).frm = s.frm := rfl
@[simp] theorem State.setDieCh_offers (s : State) (c : Nat) (x : DieCh) : (s.setDieCh c x).offers = s.offers := rfl
@[simp] theorem State.setDieCh_chans (s : State) (c : Nat) (x : DieCh) : (s.setDieCh c x).chans = s.chans := rfl
@[simp] theorem State.setDieCh_dies (s : State) (c : Nat) (x : DieCh) : (s.setDieCh c x).dies = s.dies := rfl
@[simp] theorem State.setDieCh_links (s : State) (c : Nat) (x : DieCh) : (s.setDieCh c x).links = s.links := rfl
@[simp] theorem State.setDieCh_boost (s : State) (c : Nat) (x : DieCh) : (s.setDieCh c x).boost = s.boost := rfl
@[simp] theorem State.setDieCh_ldg (s : State) (c : Nat) (x : DieCh) : (s.setDieCh c x).ldg = s.ldg := rfl
@[simp] theorem State.setDieCh_boot (s : State) (c : Nat) (x : DieCh) : (s.setDieCh c x).boot = s.boot := rfl
@[simp] theorem State.setDieCh_str (s : State) (c : Nat) (x : DieCh) : (s.setDieCh c x).str = s.str := rfl
@[simp] theorem State.setDieCh_scr (s : State) (c : Nat) (x : DieCh) : (s.setDieCh c x).scr = s.scr := rfl
@[simp] theorem State.setDieCh_engs (s : State) (c : Nat) (x : DieCh) : (s.setDieCh c x).engs = s.engs := rfl
@[simp] theorem State.setDieCh_gated (s : State) (c : Nat) (x : DieCh) : (s.setDieCh c x).gated = s.gated := rfl
@[simp] theorem State.setDieCh_waiting (s : State) (c : Nat) (x : DieCh) : (s.setDieCh c x).waiting = s.waiting := rfl
@[simp] theorem State.setDieCh_rr (s : State) (c : Nat) (x : DieCh) : (s.setDieCh c x).rr = s.rr := rfl
@[simp] theorem State.setDieCh_exec (s : State) (c : Nat) (x : DieCh) : (s.setDieCh c x).exec = s.exec := rfl
@[simp] theorem State.setDieCh_trx (s : State) (c : Nat) (x : DieCh) : (s.setDieCh c x).trx = s.trx := rfl
@[simp] theorem State.setDieCh_cans (s : State) (c : Nat) (x : DieCh) : (s.setDieCh c x).cans = s.cans := rfl
@[simp] theorem State.setDieCh_lins (s : State) (c : Nat) (x : DieCh) : (s.setDieCh c x).lins = s.lins := rfl
@[simp] theorem State.setDieCh_nm (s : State) (c : Nat) (x : DieCh) : (s.setDieCh c x).nm = s.nm := rfl
@[simp] theorem State.setDieCh_gw (s : State) (c : Nat) (x : DieCh) : (s.setDieCh c x).gw = s.gw := rfl
@[simp] theorem State.setDieCh_eth (s : State) (c : Nat) (x : DieCh) : (s.setDieCh c x).eth = s.eth := rfl
@[simp] theorem State.setDieCh_zrt (s : State) (c : Nat) (x : DieCh) : (s.setDieCh c x).zrt = s.zrt := rfl
@[simp] theorem State.setDieCh_pwr (s : State) (c : Nat) (x : DieCh) : (s.setDieCh c x).pwr = s.pwr := rfl
@[simp] theorem State.setDieCh_inp (s : State) (c : Nat) (x : DieCh) : (s.setDieCh c x).inp = s.inp := rfl
@[simp] theorem State.setDieCh_meas (s : State) (c : Nat) (x : DieCh) : (s.setDieCh c x).meas = s.meas := rfl
@[simp] theorem State.setDieCh_keys (s : State) (c : Nat) (x : DieCh) : (s.setDieCh c x).keys = s.keys := rfl
@[simp] theorem State.setDieCh_acc (s : State) (c : Nat) (x : DieCh) : (s.setDieCh c x).acc = s.acc := rfl
@[simp] theorem State.setDieCh_iso (s : State) (c : Nat) (x : DieCh) : (s.setDieCh c x).iso = s.iso := rfl
@[simp] theorem State.setDieCh_nvm (s : State) (c : Nat) (x : DieCh) : (s.setDieCh c x).nvm = s.nvm := rfl
@[simp] theorem State.setDieCh_upd (s : State) (c : Nat) (x : DieCh) : (s.setDieCh c x).upd = s.upd := rfl
@[simp] theorem State.setDieCh_trk (s : State) (c : Nat) (x : DieCh) : (s.setDieCh c x).trk = s.trk := rfl
@[simp] theorem State.setDieCh_brg (s : State) (c : Nat) (x : DieCh) : (s.setDieCh c x).brg = s.brg := rfl
@[simp] theorem State.setDieCh_ports (s : State) (c : Nat) (x : DieCh) : (s.setDieCh c x).ports = s.ports := rfl
@[simp] theorem State.setDieCh_pending (s : State) (c : Nat) (x : DieCh) : (s.setDieCh c x).pending = s.pending := rfl
@[simp] theorem State.setLnk_variant (s : State) (n : Nat) (x : LinkLg) : (s.setLnk n x).variant = s.variant := rfl
@[simp] theorem State.setLnk_slate (s : State) (n : Nat) (x : LinkLg) : (s.setLnk n x).slate = s.slate := rfl
@[simp] theorem State.setLnk_free (s : State) (n : Nat) (x : LinkLg) : (s.setLnk n x).free = s.free := rfl
@[simp] theorem State.setLnk_regs (s : State) (n : Nat) (x : LinkLg) : (s.setLnk n x).regs = s.regs := rfl
@[simp] theorem State.setLnk_mem (s : State) (n : Nat) (x : LinkLg) : (s.setLnk n x).mem = s.mem := rfl
@[simp] theorem State.setLnk_mram (s : State) (n : Nat) (x : LinkLg) : (s.setLnk n x).mram = s.mram := rfl
@[simp] theorem State.setLnk_islands (s : State) (n : Nat) (x : LinkLg) : (s.setLnk n x).islands = s.islands := rfl
@[simp] theorem State.setLnk_dly (s : State) (n : Nat) (x : LinkLg) : (s.setLnk n x).dly = s.dly := rfl
@[simp] theorem State.setLnk_frm (s : State) (n : Nat) (x : LinkLg) : (s.setLnk n x).frm = s.frm := rfl
@[simp] theorem State.setLnk_offers (s : State) (n : Nat) (x : LinkLg) : (s.setLnk n x).offers = s.offers := rfl
@[simp] theorem State.setLnk_chans (s : State) (n : Nat) (x : LinkLg) : (s.setLnk n x).chans = s.chans := rfl
@[simp] theorem State.setLnk_dies (s : State) (n : Nat) (x : LinkLg) : (s.setLnk n x).dies = s.dies := rfl
@[simp] theorem State.setLnk_dieChs (s : State) (n : Nat) (x : LinkLg) : (s.setLnk n x).dieChs = s.dieChs := rfl
@[simp] theorem State.setLnk_boost (s : State) (n : Nat) (x : LinkLg) : (s.setLnk n x).boost = s.boost := rfl
@[simp] theorem State.setLnk_ldg (s : State) (n : Nat) (x : LinkLg) : (s.setLnk n x).ldg = s.ldg := rfl
@[simp] theorem State.setLnk_boot (s : State) (n : Nat) (x : LinkLg) : (s.setLnk n x).boot = s.boot := rfl
@[simp] theorem State.setLnk_str (s : State) (n : Nat) (x : LinkLg) : (s.setLnk n x).str = s.str := rfl
@[simp] theorem State.setLnk_scr (s : State) (n : Nat) (x : LinkLg) : (s.setLnk n x).scr = s.scr := rfl
@[simp] theorem State.setLnk_engs (s : State) (n : Nat) (x : LinkLg) : (s.setLnk n x).engs = s.engs := rfl
@[simp] theorem State.setLnk_gated (s : State) (n : Nat) (x : LinkLg) : (s.setLnk n x).gated = s.gated := rfl
@[simp] theorem State.setLnk_waiting (s : State) (n : Nat) (x : LinkLg) : (s.setLnk n x).waiting = s.waiting := rfl
@[simp] theorem State.setLnk_rr (s : State) (n : Nat) (x : LinkLg) : (s.setLnk n x).rr = s.rr := rfl
@[simp] theorem State.setLnk_exec (s : State) (n : Nat) (x : LinkLg) : (s.setLnk n x).exec = s.exec := rfl
@[simp] theorem State.setLnk_trx (s : State) (n : Nat) (x : LinkLg) : (s.setLnk n x).trx = s.trx := rfl
@[simp] theorem State.setLnk_cans (s : State) (n : Nat) (x : LinkLg) : (s.setLnk n x).cans = s.cans := rfl
@[simp] theorem State.setLnk_lins (s : State) (n : Nat) (x : LinkLg) : (s.setLnk n x).lins = s.lins := rfl
@[simp] theorem State.setLnk_nm (s : State) (n : Nat) (x : LinkLg) : (s.setLnk n x).nm = s.nm := rfl
@[simp] theorem State.setLnk_gw (s : State) (n : Nat) (x : LinkLg) : (s.setLnk n x).gw = s.gw := rfl
@[simp] theorem State.setLnk_eth (s : State) (n : Nat) (x : LinkLg) : (s.setLnk n x).eth = s.eth := rfl
@[simp] theorem State.setLnk_zrt (s : State) (n : Nat) (x : LinkLg) : (s.setLnk n x).zrt = s.zrt := rfl
@[simp] theorem State.setLnk_pwr (s : State) (n : Nat) (x : LinkLg) : (s.setLnk n x).pwr = s.pwr := rfl
@[simp] theorem State.setLnk_inp (s : State) (n : Nat) (x : LinkLg) : (s.setLnk n x).inp = s.inp := rfl
@[simp] theorem State.setLnk_meas (s : State) (n : Nat) (x : LinkLg) : (s.setLnk n x).meas = s.meas := rfl
@[simp] theorem State.setLnk_keys (s : State) (n : Nat) (x : LinkLg) : (s.setLnk n x).keys = s.keys := rfl
@[simp] theorem State.setLnk_acc (s : State) (n : Nat) (x : LinkLg) : (s.setLnk n x).acc = s.acc := rfl
@[simp] theorem State.setLnk_iso (s : State) (n : Nat) (x : LinkLg) : (s.setLnk n x).iso = s.iso := rfl
@[simp] theorem State.setLnk_nvm (s : State) (n : Nat) (x : LinkLg) : (s.setLnk n x).nvm = s.nvm := rfl
@[simp] theorem State.setLnk_upd (s : State) (n : Nat) (x : LinkLg) : (s.setLnk n x).upd = s.upd := rfl
@[simp] theorem State.setLnk_trk (s : State) (n : Nat) (x : LinkLg) : (s.setLnk n x).trk = s.trk := rfl
@[simp] theorem State.setLnk_brg (s : State) (n : Nat) (x : LinkLg) : (s.setLnk n x).brg = s.brg := rfl
@[simp] theorem State.setLnk_ports (s : State) (n : Nat) (x : LinkLg) : (s.setLnk n x).ports = s.ports := rfl
@[simp] theorem State.setLnk_pending (s : State) (n : Nat) (x : LinkLg) : (s.setLnk n x).pending = s.pending := rfl
@[simp] theorem State.setTrxOf_variant (s : State) (t : Nat) (x : Trx) : (s.setTrxOf t x).variant = s.variant := rfl
@[simp] theorem State.setTrxOf_slate (s : State) (t : Nat) (x : Trx) : (s.setTrxOf t x).slate = s.slate := rfl
@[simp] theorem State.setTrxOf_free (s : State) (t : Nat) (x : Trx) : (s.setTrxOf t x).free = s.free := rfl
@[simp] theorem State.setTrxOf_regs (s : State) (t : Nat) (x : Trx) : (s.setTrxOf t x).regs = s.regs := rfl
@[simp] theorem State.setTrxOf_mem (s : State) (t : Nat) (x : Trx) : (s.setTrxOf t x).mem = s.mem := rfl
@[simp] theorem State.setTrxOf_mram (s : State) (t : Nat) (x : Trx) : (s.setTrxOf t x).mram = s.mram := rfl
@[simp] theorem State.setTrxOf_islands (s : State) (t : Nat) (x : Trx) : (s.setTrxOf t x).islands = s.islands := rfl
@[simp] theorem State.setTrxOf_dly (s : State) (t : Nat) (x : Trx) : (s.setTrxOf t x).dly = s.dly := rfl
@[simp] theorem State.setTrxOf_frm (s : State) (t : Nat) (x : Trx) : (s.setTrxOf t x).frm = s.frm := rfl
@[simp] theorem State.setTrxOf_offers (s : State) (t : Nat) (x : Trx) : (s.setTrxOf t x).offers = s.offers := rfl
@[simp] theorem State.setTrxOf_chans (s : State) (t : Nat) (x : Trx) : (s.setTrxOf t x).chans = s.chans := rfl
@[simp] theorem State.setTrxOf_dies (s : State) (t : Nat) (x : Trx) : (s.setTrxOf t x).dies = s.dies := rfl
@[simp] theorem State.setTrxOf_dieChs (s : State) (t : Nat) (x : Trx) : (s.setTrxOf t x).dieChs = s.dieChs := rfl
@[simp] theorem State.setTrxOf_links (s : State) (t : Nat) (x : Trx) : (s.setTrxOf t x).links = s.links := rfl
@[simp] theorem State.setTrxOf_boost (s : State) (t : Nat) (x : Trx) : (s.setTrxOf t x).boost = s.boost := rfl
@[simp] theorem State.setTrxOf_ldg (s : State) (t : Nat) (x : Trx) : (s.setTrxOf t x).ldg = s.ldg := rfl
@[simp] theorem State.setTrxOf_boot (s : State) (t : Nat) (x : Trx) : (s.setTrxOf t x).boot = s.boot := rfl
@[simp] theorem State.setTrxOf_str (s : State) (t : Nat) (x : Trx) : (s.setTrxOf t x).str = s.str := rfl
@[simp] theorem State.setTrxOf_scr (s : State) (t : Nat) (x : Trx) : (s.setTrxOf t x).scr = s.scr := rfl
@[simp] theorem State.setTrxOf_engs (s : State) (t : Nat) (x : Trx) : (s.setTrxOf t x).engs = s.engs := rfl
@[simp] theorem State.setTrxOf_gated (s : State) (t : Nat) (x : Trx) : (s.setTrxOf t x).gated = s.gated := rfl
@[simp] theorem State.setTrxOf_waiting (s : State) (t : Nat) (x : Trx) : (s.setTrxOf t x).waiting = s.waiting := rfl
@[simp] theorem State.setTrxOf_rr (s : State) (t : Nat) (x : Trx) : (s.setTrxOf t x).rr = s.rr := rfl
@[simp] theorem State.setTrxOf_exec (s : State) (t : Nat) (x : Trx) : (s.setTrxOf t x).exec = s.exec := rfl
@[simp] theorem State.setTrxOf_cans (s : State) (t : Nat) (x : Trx) : (s.setTrxOf t x).cans = s.cans := rfl
@[simp] theorem State.setTrxOf_lins (s : State) (t : Nat) (x : Trx) : (s.setTrxOf t x).lins = s.lins := rfl
@[simp] theorem State.setTrxOf_nm (s : State) (t : Nat) (x : Trx) : (s.setTrxOf t x).nm = s.nm := rfl
@[simp] theorem State.setTrxOf_gw (s : State) (t : Nat) (x : Trx) : (s.setTrxOf t x).gw = s.gw := rfl
@[simp] theorem State.setTrxOf_eth (s : State) (t : Nat) (x : Trx) : (s.setTrxOf t x).eth = s.eth := rfl
@[simp] theorem State.setTrxOf_zrt (s : State) (t : Nat) (x : Trx) : (s.setTrxOf t x).zrt = s.zrt := rfl
@[simp] theorem State.setTrxOf_pwr (s : State) (t : Nat) (x : Trx) : (s.setTrxOf t x).pwr = s.pwr := rfl
@[simp] theorem State.setTrxOf_inp (s : State) (t : Nat) (x : Trx) : (s.setTrxOf t x).inp = s.inp := rfl
@[simp] theorem State.setTrxOf_meas (s : State) (t : Nat) (x : Trx) : (s.setTrxOf t x).meas = s.meas := rfl
@[simp] theorem State.setTrxOf_keys (s : State) (t : Nat) (x : Trx) : (s.setTrxOf t x).keys = s.keys := rfl
@[simp] theorem State.setTrxOf_acc (s : State) (t : Nat) (x : Trx) : (s.setTrxOf t x).acc = s.acc := rfl
@[simp] theorem State.setTrxOf_iso (s : State) (t : Nat) (x : Trx) : (s.setTrxOf t x).iso = s.iso := rfl
@[simp] theorem State.setTrxOf_nvm (s : State) (t : Nat) (x : Trx) : (s.setTrxOf t x).nvm = s.nvm := rfl
@[simp] theorem State.setTrxOf_upd (s : State) (t : Nat) (x : Trx) : (s.setTrxOf t x).upd = s.upd := rfl
@[simp] theorem State.setTrxOf_trk (s : State) (t : Nat) (x : Trx) : (s.setTrxOf t x).trk = s.trk := rfl
@[simp] theorem State.setTrxOf_brg (s : State) (t : Nat) (x : Trx) : (s.setTrxOf t x).brg = s.brg := rfl
@[simp] theorem State.setTrxOf_ports (s : State) (t : Nat) (x : Trx) : (s.setTrxOf t x).ports = s.ports := rfl
@[simp] theorem State.setTrxOf_pending (s : State) (t : Nat) (x : Trx) : (s.setTrxOf t x).pending = s.pending := rfl
@[simp] theorem State.setCan_variant (s : State) (n : Nat) (x : Can) : (s.setCan n x).variant = s.variant := rfl
@[simp] theorem State.setCan_slate (s : State) (n : Nat) (x : Can) : (s.setCan n x).slate = s.slate := rfl
@[simp] theorem State.setCan_free (s : State) (n : Nat) (x : Can) : (s.setCan n x).free = s.free := rfl
@[simp] theorem State.setCan_regs (s : State) (n : Nat) (x : Can) : (s.setCan n x).regs = s.regs := rfl
@[simp] theorem State.setCan_mem (s : State) (n : Nat) (x : Can) : (s.setCan n x).mem = s.mem := rfl
@[simp] theorem State.setCan_mram (s : State) (n : Nat) (x : Can) : (s.setCan n x).mram = s.mram := rfl
@[simp] theorem State.setCan_islands (s : State) (n : Nat) (x : Can) : (s.setCan n x).islands = s.islands := rfl
@[simp] theorem State.setCan_dly (s : State) (n : Nat) (x : Can) : (s.setCan n x).dly = s.dly := rfl
@[simp] theorem State.setCan_frm (s : State) (n : Nat) (x : Can) : (s.setCan n x).frm = s.frm := rfl
@[simp] theorem State.setCan_offers (s : State) (n : Nat) (x : Can) : (s.setCan n x).offers = s.offers := rfl
@[simp] theorem State.setCan_chans (s : State) (n : Nat) (x : Can) : (s.setCan n x).chans = s.chans := rfl
@[simp] theorem State.setCan_dies (s : State) (n : Nat) (x : Can) : (s.setCan n x).dies = s.dies := rfl
@[simp] theorem State.setCan_dieChs (s : State) (n : Nat) (x : Can) : (s.setCan n x).dieChs = s.dieChs := rfl
@[simp] theorem State.setCan_links (s : State) (n : Nat) (x : Can) : (s.setCan n x).links = s.links := rfl
@[simp] theorem State.setCan_boost (s : State) (n : Nat) (x : Can) : (s.setCan n x).boost = s.boost := rfl
@[simp] theorem State.setCan_ldg (s : State) (n : Nat) (x : Can) : (s.setCan n x).ldg = s.ldg := rfl
@[simp] theorem State.setCan_boot (s : State) (n : Nat) (x : Can) : (s.setCan n x).boot = s.boot := rfl
@[simp] theorem State.setCan_str (s : State) (n : Nat) (x : Can) : (s.setCan n x).str = s.str := rfl
@[simp] theorem State.setCan_scr (s : State) (n : Nat) (x : Can) : (s.setCan n x).scr = s.scr := rfl
@[simp] theorem State.setCan_engs (s : State) (n : Nat) (x : Can) : (s.setCan n x).engs = s.engs := rfl
@[simp] theorem State.setCan_gated (s : State) (n : Nat) (x : Can) : (s.setCan n x).gated = s.gated := rfl
@[simp] theorem State.setCan_waiting (s : State) (n : Nat) (x : Can) : (s.setCan n x).waiting = s.waiting := rfl
@[simp] theorem State.setCan_rr (s : State) (n : Nat) (x : Can) : (s.setCan n x).rr = s.rr := rfl
@[simp] theorem State.setCan_exec (s : State) (n : Nat) (x : Can) : (s.setCan n x).exec = s.exec := rfl
@[simp] theorem State.setCan_trx (s : State) (n : Nat) (x : Can) : (s.setCan n x).trx = s.trx := rfl
@[simp] theorem State.setCan_lins (s : State) (n : Nat) (x : Can) : (s.setCan n x).lins = s.lins := rfl
@[simp] theorem State.setCan_nm (s : State) (n : Nat) (x : Can) : (s.setCan n x).nm = s.nm := rfl
@[simp] theorem State.setCan_gw (s : State) (n : Nat) (x : Can) : (s.setCan n x).gw = s.gw := rfl
@[simp] theorem State.setCan_eth (s : State) (n : Nat) (x : Can) : (s.setCan n x).eth = s.eth := rfl
@[simp] theorem State.setCan_zrt (s : State) (n : Nat) (x : Can) : (s.setCan n x).zrt = s.zrt := rfl
@[simp] theorem State.setCan_pwr (s : State) (n : Nat) (x : Can) : (s.setCan n x).pwr = s.pwr := rfl
@[simp] theorem State.setCan_inp (s : State) (n : Nat) (x : Can) : (s.setCan n x).inp = s.inp := rfl
@[simp] theorem State.setCan_meas (s : State) (n : Nat) (x : Can) : (s.setCan n x).meas = s.meas := rfl
@[simp] theorem State.setCan_keys (s : State) (n : Nat) (x : Can) : (s.setCan n x).keys = s.keys := rfl
@[simp] theorem State.setCan_acc (s : State) (n : Nat) (x : Can) : (s.setCan n x).acc = s.acc := rfl
@[simp] theorem State.setCan_iso (s : State) (n : Nat) (x : Can) : (s.setCan n x).iso = s.iso := rfl
@[simp] theorem State.setCan_nvm (s : State) (n : Nat) (x : Can) : (s.setCan n x).nvm = s.nvm := rfl
@[simp] theorem State.setCan_upd (s : State) (n : Nat) (x : Can) : (s.setCan n x).upd = s.upd := rfl
@[simp] theorem State.setCan_trk (s : State) (n : Nat) (x : Can) : (s.setCan n x).trk = s.trk := rfl
@[simp] theorem State.setCan_brg (s : State) (n : Nat) (x : Can) : (s.setCan n x).brg = s.brg := rfl
@[simp] theorem State.setCan_ports (s : State) (n : Nat) (x : Can) : (s.setCan n x).ports = s.ports := rfl
@[simp] theorem State.setCan_pending (s : State) (n : Nat) (x : Can) : (s.setCan n x).pending = s.pending := rfl
@[simp] theorem State.setLin_variant (s : State) (n : Nat) (x : Lin) : (s.setLin n x).variant = s.variant := rfl
@[simp] theorem State.setLin_slate (s : State) (n : Nat) (x : Lin) : (s.setLin n x).slate = s.slate := rfl
@[simp] theorem State.setLin_free (s : State) (n : Nat) (x : Lin) : (s.setLin n x).free = s.free := rfl
@[simp] theorem State.setLin_regs (s : State) (n : Nat) (x : Lin) : (s.setLin n x).regs = s.regs := rfl
@[simp] theorem State.setLin_mem (s : State) (n : Nat) (x : Lin) : (s.setLin n x).mem = s.mem := rfl
@[simp] theorem State.setLin_mram (s : State) (n : Nat) (x : Lin) : (s.setLin n x).mram = s.mram := rfl
@[simp] theorem State.setLin_islands (s : State) (n : Nat) (x : Lin) : (s.setLin n x).islands = s.islands := rfl
@[simp] theorem State.setLin_dly (s : State) (n : Nat) (x : Lin) : (s.setLin n x).dly = s.dly := rfl
@[simp] theorem State.setLin_frm (s : State) (n : Nat) (x : Lin) : (s.setLin n x).frm = s.frm := rfl
@[simp] theorem State.setLin_offers (s : State) (n : Nat) (x : Lin) : (s.setLin n x).offers = s.offers := rfl
@[simp] theorem State.setLin_chans (s : State) (n : Nat) (x : Lin) : (s.setLin n x).chans = s.chans := rfl
@[simp] theorem State.setLin_dies (s : State) (n : Nat) (x : Lin) : (s.setLin n x).dies = s.dies := rfl
@[simp] theorem State.setLin_dieChs (s : State) (n : Nat) (x : Lin) : (s.setLin n x).dieChs = s.dieChs := rfl
@[simp] theorem State.setLin_links (s : State) (n : Nat) (x : Lin) : (s.setLin n x).links = s.links := rfl
@[simp] theorem State.setLin_boost (s : State) (n : Nat) (x : Lin) : (s.setLin n x).boost = s.boost := rfl
@[simp] theorem State.setLin_ldg (s : State) (n : Nat) (x : Lin) : (s.setLin n x).ldg = s.ldg := rfl
@[simp] theorem State.setLin_boot (s : State) (n : Nat) (x : Lin) : (s.setLin n x).boot = s.boot := rfl
@[simp] theorem State.setLin_str (s : State) (n : Nat) (x : Lin) : (s.setLin n x).str = s.str := rfl
@[simp] theorem State.setLin_scr (s : State) (n : Nat) (x : Lin) : (s.setLin n x).scr = s.scr := rfl
@[simp] theorem State.setLin_engs (s : State) (n : Nat) (x : Lin) : (s.setLin n x).engs = s.engs := rfl
@[simp] theorem State.setLin_gated (s : State) (n : Nat) (x : Lin) : (s.setLin n x).gated = s.gated := rfl
@[simp] theorem State.setLin_waiting (s : State) (n : Nat) (x : Lin) : (s.setLin n x).waiting = s.waiting := rfl
@[simp] theorem State.setLin_rr (s : State) (n : Nat) (x : Lin) : (s.setLin n x).rr = s.rr := rfl
@[simp] theorem State.setLin_exec (s : State) (n : Nat) (x : Lin) : (s.setLin n x).exec = s.exec := rfl
@[simp] theorem State.setLin_trx (s : State) (n : Nat) (x : Lin) : (s.setLin n x).trx = s.trx := rfl
@[simp] theorem State.setLin_cans (s : State) (n : Nat) (x : Lin) : (s.setLin n x).cans = s.cans := rfl
@[simp] theorem State.setLin_nm (s : State) (n : Nat) (x : Lin) : (s.setLin n x).nm = s.nm := rfl
@[simp] theorem State.setLin_gw (s : State) (n : Nat) (x : Lin) : (s.setLin n x).gw = s.gw := rfl
@[simp] theorem State.setLin_eth (s : State) (n : Nat) (x : Lin) : (s.setLin n x).eth = s.eth := rfl
@[simp] theorem State.setLin_zrt (s : State) (n : Nat) (x : Lin) : (s.setLin n x).zrt = s.zrt := rfl
@[simp] theorem State.setLin_pwr (s : State) (n : Nat) (x : Lin) : (s.setLin n x).pwr = s.pwr := rfl
@[simp] theorem State.setLin_inp (s : State) (n : Nat) (x : Lin) : (s.setLin n x).inp = s.inp := rfl
@[simp] theorem State.setLin_meas (s : State) (n : Nat) (x : Lin) : (s.setLin n x).meas = s.meas := rfl
@[simp] theorem State.setLin_keys (s : State) (n : Nat) (x : Lin) : (s.setLin n x).keys = s.keys := rfl
@[simp] theorem State.setLin_acc (s : State) (n : Nat) (x : Lin) : (s.setLin n x).acc = s.acc := rfl
@[simp] theorem State.setLin_iso (s : State) (n : Nat) (x : Lin) : (s.setLin n x).iso = s.iso := rfl
@[simp] theorem State.setLin_nvm (s : State) (n : Nat) (x : Lin) : (s.setLin n x).nvm = s.nvm := rfl
@[simp] theorem State.setLin_upd (s : State) (n : Nat) (x : Lin) : (s.setLin n x).upd = s.upd := rfl
@[simp] theorem State.setLin_trk (s : State) (n : Nat) (x : Lin) : (s.setLin n x).trk = s.trk := rfl
@[simp] theorem State.setLin_brg (s : State) (n : Nat) (x : Lin) : (s.setLin n x).brg = s.brg := rfl
@[simp] theorem State.setLin_ports (s : State) (n : Nat) (x : Lin) : (s.setLin n x).ports = s.ports := rfl
@[simp] theorem State.setLin_pending (s : State) (n : Nat) (x : Lin) : (s.setLin n x).pending = s.pending := rfl
@[simp] theorem State.setSeg_variant (s : State) (k : Nat) (x : NmSeg) : (s.setSeg k x).variant = s.variant := rfl
@[simp] theorem State.setSeg_slate (s : State) (k : Nat) (x : NmSeg) : (s.setSeg k x).slate = s.slate := rfl
@[simp] theorem State.setSeg_free (s : State) (k : Nat) (x : NmSeg) : (s.setSeg k x).free = s.free := rfl
@[simp] theorem State.setSeg_regs (s : State) (k : Nat) (x : NmSeg) : (s.setSeg k x).regs = s.regs := rfl
@[simp] theorem State.setSeg_mem (s : State) (k : Nat) (x : NmSeg) : (s.setSeg k x).mem = s.mem := rfl
@[simp] theorem State.setSeg_mram (s : State) (k : Nat) (x : NmSeg) : (s.setSeg k x).mram = s.mram := rfl
@[simp] theorem State.setSeg_islands (s : State) (k : Nat) (x : NmSeg) : (s.setSeg k x).islands = s.islands := rfl
@[simp] theorem State.setSeg_dly (s : State) (k : Nat) (x : NmSeg) : (s.setSeg k x).dly = s.dly := rfl
@[simp] theorem State.setSeg_frm (s : State) (k : Nat) (x : NmSeg) : (s.setSeg k x).frm = s.frm := rfl
@[simp] theorem State.setSeg_offers (s : State) (k : Nat) (x : NmSeg) : (s.setSeg k x).offers = s.offers := rfl
@[simp] theorem State.setSeg_chans (s : State) (k : Nat) (x : NmSeg) : (s.setSeg k x).chans = s.chans := rfl
@[simp] theorem State.setSeg_dies (s : State) (k : Nat) (x : NmSeg) : (s.setSeg k x).dies = s.dies := rfl
@[simp] theorem State.setSeg_dieChs (s : State) (k : Nat) (x : NmSeg) : (s.setSeg k x).dieChs = s.dieChs := rfl
@[simp] theorem State.setSeg_links (s : State) (k : Nat) (x : NmSeg) : (s.setSeg k x).links = s.links := rfl
@[simp] theorem State.setSeg_boost (s : State) (k : Nat) (x : NmSeg) : (s.setSeg k x).boost = s.boost := rfl
@[simp] theorem State.setSeg_ldg (s : State) (k : Nat) (x : NmSeg) : (s.setSeg k x).ldg = s.ldg := rfl
@[simp] theorem State.setSeg_boot (s : State) (k : Nat) (x : NmSeg) : (s.setSeg k x).boot = s.boot := rfl
@[simp] theorem State.setSeg_str (s : State) (k : Nat) (x : NmSeg) : (s.setSeg k x).str = s.str := rfl
@[simp] theorem State.setSeg_scr (s : State) (k : Nat) (x : NmSeg) : (s.setSeg k x).scr = s.scr := rfl
@[simp] theorem State.setSeg_engs (s : State) (k : Nat) (x : NmSeg) : (s.setSeg k x).engs = s.engs := rfl
@[simp] theorem State.setSeg_gated (s : State) (k : Nat) (x : NmSeg) : (s.setSeg k x).gated = s.gated := rfl
@[simp] theorem State.setSeg_waiting (s : State) (k : Nat) (x : NmSeg) : (s.setSeg k x).waiting = s.waiting := rfl
@[simp] theorem State.setSeg_rr (s : State) (k : Nat) (x : NmSeg) : (s.setSeg k x).rr = s.rr := rfl
@[simp] theorem State.setSeg_exec (s : State) (k : Nat) (x : NmSeg) : (s.setSeg k x).exec = s.exec := rfl
@[simp] theorem State.setSeg_trx (s : State) (k : Nat) (x : NmSeg) : (s.setSeg k x).trx = s.trx := rfl
@[simp] theorem State.setSeg_cans (s : State) (k : Nat) (x : NmSeg) : (s.setSeg k x).cans = s.cans := rfl
@[simp] theorem State.setSeg_lins (s : State) (k : Nat) (x : NmSeg) : (s.setSeg k x).lins = s.lins := rfl
@[simp] theorem State.setSeg_gw (s : State) (k : Nat) (x : NmSeg) : (s.setSeg k x).gw = s.gw := rfl
@[simp] theorem State.setSeg_eth (s : State) (k : Nat) (x : NmSeg) : (s.setSeg k x).eth = s.eth := rfl
@[simp] theorem State.setSeg_zrt (s : State) (k : Nat) (x : NmSeg) : (s.setSeg k x).zrt = s.zrt := rfl
@[simp] theorem State.setSeg_pwr (s : State) (k : Nat) (x : NmSeg) : (s.setSeg k x).pwr = s.pwr := rfl
@[simp] theorem State.setSeg_inp (s : State) (k : Nat) (x : NmSeg) : (s.setSeg k x).inp = s.inp := rfl
@[simp] theorem State.setSeg_meas (s : State) (k : Nat) (x : NmSeg) : (s.setSeg k x).meas = s.meas := rfl
@[simp] theorem State.setSeg_keys (s : State) (k : Nat) (x : NmSeg) : (s.setSeg k x).keys = s.keys := rfl
@[simp] theorem State.setSeg_acc (s : State) (k : Nat) (x : NmSeg) : (s.setSeg k x).acc = s.acc := rfl
@[simp] theorem State.setSeg_iso (s : State) (k : Nat) (x : NmSeg) : (s.setSeg k x).iso = s.iso := rfl
@[simp] theorem State.setSeg_nvm (s : State) (k : Nat) (x : NmSeg) : (s.setSeg k x).nvm = s.nvm := rfl
@[simp] theorem State.setSeg_upd (s : State) (k : Nat) (x : NmSeg) : (s.setSeg k x).upd = s.upd := rfl
@[simp] theorem State.setSeg_trk (s : State) (k : Nat) (x : NmSeg) : (s.setSeg k x).trk = s.trk := rfl
@[simp] theorem State.setSeg_brg (s : State) (k : Nat) (x : NmSeg) : (s.setSeg k x).brg = s.brg := rfl
@[simp] theorem State.setSeg_ports (s : State) (k : Nat) (x : NmSeg) : (s.setSeg k x).ports = s.ports := rfl
@[simp] theorem State.setSeg_pending (s : State) (k : Nat) (x : NmSeg) : (s.setSeg k x).pending = s.pending := rfl
end Sys2Proof.Machine
end

