-- ==== Sys2Proof/Laws/Frames.lean ====
section
/-! SUPPORT. What the shared operations leave alone, register by register, and what they give: one lemma for each operation. -/

namespace Sys2Proof.Machine

/-- A field reads as before when its word does. -/
theorem State.f_of_reg {s t : State} (r : RF) (h : t.reg r.addr = s.reg r.addr) : t.f r = s.f r := by
  simp [State.f, h]

/-- A word reads as before when the register file is the same. -/
theorem State.reg_of_regs {s t : State} (a : Nat) (h : t.regs = s.regs) : t.reg a = s.reg a := by
  simp [State.reg, h]

theorem State.reg_addSat_ne (s : State) (r : RF) (n a : Nat) (h : a ≠ r.addr) : (s.addSat r n).reg a = s.reg a :=
  State.reg_setF_ne _ _ _ _ h

theorem State.reg_incSat_ne (s : State) (r : RF) (a : Nat) (h : a ≠ r.addr) : (s.incSat r).reg a = s.reg a :=
  State.reg_setF_ne _ _ _ _ h

theorem State.reg_incMod_ne (s : State) (r : RF) (a : Nat) (h : a ≠ r.addr) : (s.incMod r).reg a = s.reg a :=
  State.reg_setF_ne _ _ _ _ h

theorem State.reg_raise_ne (s : State) (flag cnt : RF) (a : Nat) (h : a ≠ flag.addr) (k : a ≠ cnt.addr) :
    (s.raise flag cnt).reg a = s.reg a := by
  rw [State.raise, State.reg_incSat_ne _ _ _ k, State.reg_setF_ne _ _ _ _ h]

theorem State.reg_raiseBits_ne (s : State) (flag cnt : RF) (b a : Nat) (h : a ≠ flag.addr) (k : a ≠ cnt.addr) :
    (s.raiseBits flag cnt b).reg a = s.reg a := by
  rw [State.raiseBits, State.reg_incSat_ne _ _ _ k, State.reg_setF_ne _ _ _ _ h]

/-- A saturating count reads one more, at most its highest value. -/
theorem State.f_incSat_same (s : State) (r : RF) (h : r.lo + r.w ≤ 32) : (s.incSat r).f r = min (s.f r + 1) (2 ^ r.w - 1) := by
  have h0 : 0 < 2 ^ r.w := Nat.pow_pos (by decide)
  unfold State.incSat State.addSat
  exact State.f_setF_fits _ _ _ h (by omega)

/-- The counter of a flag counts a setting event (R15). -/
theorem State.f_raise_cnt (s : State) (flag cnt : RF) (h : cnt.lo + cnt.w ≤ 32) (ha : cnt.addr ≠ flag.addr) :
    (s.raise flag cnt).f cnt = min (s.f cnt + 1) (2 ^ cnt.w - 1) := by
  rw [State.raise, State.f_incSat_same _ _ h, State.f_setF_ne _ _ _ _ ha]

/-- A stamp writes no register but the count and flag of lost records. -/
theorem State.reg_offerRec (s : State) (r : DailyRec) (a : Nat) (h : a ∉ stampRegs) : (s.offerRec r).reg a = s.reg a := by
  simp only [stampRegs, List.mem_cons, List.not_mem_nil, or_false, not_or] at h
  unfold State.offerRec
  simp only
  split
  · rfl
  · rw [State.reg_raise_ne _ _ _ _ h.2.1 h.2.2, State.reg_setF_ne _ _ _ _ h.1, State.reg_incSat_ne _ _ _ h.1]
    rfl

theorem State.reg_stamp (s : State) (isl kind index unit event data a : Nat) (h : a ∉ stampRegs) :
    (s.stamp isl kind index unit event data).reg a = s.reg a := State.reg_offerRec _ _ _ h

theorem State.reg_stampUnit (s : State) (unit event data a : Nat) (h : a ∉ stampRegs) :
    (s.stampUnit unit event data).reg a = s.reg a := State.reg_offerRec _ _ _ h

@[simp] theorem State.postCue_regs (s : State) (target cls code kind index arg data : Nat) (m : Bool) :
    (s.postCue target cls code kind index arg data m).regs = s.regs := by
  unfold State.postCue; split <;> rfl

@[simp] theorem State.unitCue_regs (s : State) (target unit code arg data : Nat) :
    (s.unitCue target unit code arg data).regs = s.regs := State.postCue_regs ..

@[simp] theorem State.reg_postCue (s : State) (target cls code kind index arg data : Nat) (m : Bool) (a : Nat) :
    (s.postCue target cls code kind index arg data m).reg a = s.reg a := State.reg_of_regs _ (State.postCue_regs ..)

@[simp] theorem State.reg_unitCue (s : State) (target unit code arg data a : Nat) :
    (s.unitCue target unit code arg data).reg a = s.reg a := State.reg_postCue ..

theorem State.reg_slotUpdate_ne (s : State) (st val v a : Nat) (h : a ≠ st) (k : a ≠ val) :
    (s.slotUpdate st val v).reg a = s.reg a := by
  rw [State.slotUpdate, State.reg_setReg_ne _ _ _ _ k, State.reg_setF_ne _ _ _ _ h, State.reg_setF_ne _ _ _ _ h]

theorem State.reg_slotFilling_ne (s : State) (st a : Nat) (h : a ≠ st) : (s.slotFilling st).reg a = s.reg a :=
  State.reg_setF_ne _ _ _ _ h

end Sys2Proof.Machine
end

