-- ==== Sys2Proof/Laws/Keeps.lean ====
section
/-! SUPPORT. What an operation changes of the state and what it keeps: a lemma for every operation and meaning, naming the fields that it
may change; the part, the waiting commands, the canonical form of the register file and of the memories, and the identity area of MRAM
are kept by all of them. -/

namespace Sys2Proof.Machine

/-- From `s` to `t` only the fields `F` change; the part, the queue, canonical tables and the identity area of MRAM are kept. -/
structure Keeps (F : List Fld) (s t : State) : Prop where
  variant : t.variant = s.variant
  pending : t.pending = s.pending
  regs : twf resetWord s.regs = true → twf resetWord t.regs = true
  mem : twf memDefault s.mem = true → twf memDefault t.mem = true
  mram : twf memDefault s.mram = true → twf memDefault t.mram = true
  ident : ∀ a, identAt ≤ a → t.mrd8 a = s.mrd8 a
  same : ∀ x, x ∉ F → x.same s t

theorem Keeps.refl {F : List Fld} (s : State) : Keeps F s s :=
  ⟨rfl, rfl, id, id, id, fun _ _ => rfl, fun x _ => by cases x <;> rfl⟩

/-- Words of the register file put, in canonical form. -/
theorem Keeps.upd_regs {F : List Fld} {s t : State} {r : Tbl Word} (f_regs : Fld.regs ∈ F) (h : Keeps F s t)
    (hr : twf resetWord t.regs = true → twf resetWord r = true) : Keeps F s { t with regs := r } :=
  ⟨h.variant, h.pending, hr ∘ h.regs, h.mem, h.mram, h.ident, fun x hx => by
    cases x <;> first | exact h.same _ hx | exact absurd (by assumption) hx⟩

/-- Bytes of memory put, in canonical form. -/
theorem Keeps.upd_mem {F : List Fld} {s t : State} {r : Tbl Byte} (f_mem : Fld.mem ∈ F) (h : Keeps F s t)
    (hr : twf memDefault t.mem = true → twf memDefault r = true) : Keeps F s { t with mem := r } :=
  ⟨h.variant, h.pending, h.regs, hr ∘ h.mem, h.mram, h.ident, fun x hx => by
    cases x <;> first | exact h.same _ hx | exact absurd (by assumption) hx⟩

/-- Bytes of MRAM put, in canonical form, below the identity area. -/
theorem Keeps.upd_mram {F : List Fld} {s t : State} {r : Tbl Byte} (f_mram : Fld.mram ∈ F) (h : Keeps F s t)
    (hr : twf memDefault t.mram = true → twf memDefault r = true) (hi : ∀ a, identAt ≤ a → tget memDefault r a = t.mrd8 a) :
    Keeps F s { t with mram := r } :=
  ⟨h.variant, h.pending, h.regs, h.mem, hr ∘ h.mram, fun a ha => (hi a ha).trans (h.ident a ha), fun x hx => by
    cases x <;> first | exact h.same _ hx | exact absurd (by assumption) hx⟩

theorem Keeps.cut {P : Prop} (F : List Fld) (s x : State) (h : Keeps F s x) (k : Keeps F s x → P) : P := k h
theorem Keeps.cut2 {P : Prop} (F : List Fld) {A : Type} (s : State) (x : A × State) (h : Keeps F s x.2)
    (k : Keeps F s x.2 → P) : P := k h
theorem Keeps.cut22 {P : Prop} (F : List Fld) {A B : Type} (s : State) (x : A × B × State) (h : Keeps F s x.2.2)
    (k : Keeps F s x.2.2 → P) : P := k h
theorem Keeps.cut1 {P : Prop} (F : List Fld) {A : Type} (s : State) (x : State × A) (h : Keeps F s x.1)
    (k : Keeps F s x.1 → P) : P := k h
theorem Keeps.id_ {F : List Fld} {s t : State} (h : Keeps F s t) : Keeps F s (id t) := h
theorem Keeps.cutF {P : Prop} (F : List Fld) (s : State) (x : State → State) (h : ∀ u, Keeps F s u → Keeps F s (x u)) (k :
    (∀ u, Keeps F s u → Keeps F s (x u)) → P) : P := k h
theorem Keeps.cutFA {P : Prop} (F : List Fld) {A : Type} (s : State) (x : State → A → State)
    (h : ∀ u, Keeps F s u → ∀ a, Keeps F s (x u a))
    (k : (∀ u, Keeps F s u → ∀ a, Keeps F s (x u a)) → P) : P := k h

theorem Keeps.ite {F : List Fld} {s a b : State} {c : Prop} [Decidable c] (h : Keeps F s a) (k : Keeps F s b) : Keeps F s
    (if c then a else b) := by
  split <;> assumption
theorem Keeps.ite2 {F : List Fld} {A : Type} {s : State} {a b : A × State} {c : Prop} [Decidable c] (h : Keeps F s a.2)
    (k : Keeps F s b.2) :
    Keeps F s (if c then a else b).2 := by split <;> assumption
theorem Keeps.ite1 {F : List Fld} {A : Type} {s : State} {a b : State × A} {c : Prop} [Decidable c] (h : Keeps F s a.1)
    (k : Keeps F s b.1) :
    Keeps F s (if c then a else b).1 := by split <;> assumption
theorem Keeps.ite22 {F : List Fld} {A B : Type} {s : State} {a b : A × B × State} {c : Prop} [Decidable c] (h : Keeps F s a.2.2)
    (k : Keeps F s b.2.2) :
    Keeps F s (if c then a else b).2.2 := by split <;> assumption

theorem Keeps.foldl {F : List Fld} {A : Type} {s : State} (g : State → A → State) (l : List A) {t : State} (h : Keeps F s t)
    (k : ∀ u, Keeps F s u → ∀ x, Keeps F s (g u x)) : Keeps F s (l.foldl g t) := by
  induction l generalizing t with
  | nil => exact h
  | cons x r ih => exact ih (k t h x)

/-- An outcome that keeps: where it is a next state, that state keeps. -/
structure KeepsOut (F : List Fld) (s : State) (o : Host.Outcome State Fault Refusal) : Prop where
  next_keeps : ∀ t, o = .next t → Keeps F s t

theorem KeepsOut.next {F : List Fld} {s t : State} (h : Keeps F s t) : KeepsOut F s
    (.next t) := ⟨fun u hu => by cases hu; exact h⟩
theorem KeepsOut.refused {F : List Fld} {s : State} (r : Refusal) : KeepsOut F s (.refused r) := ⟨fun u hu => by cases hu⟩
theorem KeepsOut.ite {F : List Fld} {s : State} {a b : Host.Outcome State Fault Refusal} {c : Prop} [Decidable c]
    (h : KeepsOut F s a)
    (k : KeepsOut F s b) : KeepsOut F s (if c then a else b) := by split <;> assumption
/-- An optional state that keeps. -/
structure KeepsOpt (F : List Fld) (s : State) (o : Option State) : Prop where
  some_keeps : ∀ t, o = .some t → Keeps F s t

theorem KeepsOpt.some {F : List Fld} {s t : State} (h : Keeps F s t) : KeepsOpt F s
    (.some t) := ⟨fun u hu => by cases hu; exact h⟩
theorem KeepsOpt.none {F : List Fld} {s : State} : KeepsOpt F s .none := ⟨fun u hu => by cases hu⟩
theorem KeepsOpt.ite {F : List Fld} {s : State} {a b : Option State} {c : Prop} [Decidable c] (h : KeepsOpt F s a)
    (k : KeepsOpt F s b) :
    KeepsOpt F s (if c then a else b) := by split <;> assumption

/-- Registers, records, cues, frames and models of another state that keeps. -/
theorem Keeps.die {F : List Fld} {s t u : State} (h : Keeps F s t) (k : Keeps F s u) :
    Keeps F s { t with regs := u.regs, offers := u.offers, islands := u.islands, links := u.links, ldg := u.ldg } :=
  ⟨h.variant, h.pending, k.regs, h.mem, h.mram, h.ident, fun x hx => by
    cases x <;> first | exact h.same _ hx | exact k.same _ hx⟩

theorem Keeps.foldl1 {F : List Fld} {A B : Type} {s : State} (g : State × B → A → State × B) (l : List A) {t : State × B}
    (h : Keeps F s t.1)
    (k : ∀ u : State × B, Keeps F s u.1 → ∀ x, Keeps F s (g u x).1) : Keeps F s (l.foldl g t).1 := by
  induction l generalizing t with
  | nil => exact h
  | cons x r ih => exact ih (k t h x)

theorem Keeps.foldl2 {F : List Fld} {A B : Type} {s : State} (g : B × State → A → B × State) (l : List A) {t : B × State}
    (h : Keeps F s t.2)
    (k : ∀ u : B × State, Keeps F s u.2 → ∀ x, Keeps F s (g u x).2) : Keeps F s (l.foldl g t).2 := by
  induction l generalizing t with
  | nil => exact h
  | cons x r ih => exact ih (k t h x)

theorem Keeps.upd_acc {F : List Fld} {s t : State} {v_acc : Acc} (f_acc : Fld.acc ∈ F) (h : Keeps F s t) :
    Keeps F s { t with acc := v_acc } :=
  ⟨h.variant, h.pending, h.regs, h.mem, h.mram, h.ident, fun x hx => by
    cases x <;> first | exact h.same _ hx | exact absurd (by assumption) hx⟩

theorem Keeps.upd_acc_boot_inp {F : List Fld} {s t : State} {v_acc : Acc} {v_boot : Boot} {v_inp : Inp} (f_acc : Fld.acc ∈ F)
    (f_boot : Fld.boot ∈ F) (f_inp : Fld.inp ∈ F) (h : Keeps F s t) :
    Keeps F s { t with acc := v_acc, boot := v_boot, inp := v_inp } :=
  ⟨h.variant, h.pending, h.regs, h.mem, h.mram, h.ident, fun x hx => by
    cases x <;> first | exact h.same _ hx | exact absurd (by assumption) hx⟩

theorem Keeps.upd_acc_brg_cans_chans_engs_eth_exec_frm_gated_gw_inp_iso_ldg_lins_meas_nm_nvm_offers_ports_pwr_rr_scr_str_trk_trx_waiting_zrt {F : List Fld} {s t : State} {v_acc : Acc} {v_brg : Brg} {v_cans : Tbl Can} {v_chans : Tbl Chan} {v_engs : Tbl Eng} {v_eth : Eth} {v_exec : List ExecReq} {v_frm : Frm} {v_gated : List Nat} {v_gw : Gw} {v_inp : Inp} {v_iso : Iso} {v_ldg : Ldg} {v_lins : Tbl Lin} {v_meas : Meas} {v_nm : Tbl NmSeg} {v_nvm : Nvm} {v_offers : List Offer} {v_ports : Tbl ExtPort} {v_pwr : Pwr} {v_rr : Tbl Nat} {v_scr : Scr} {v_str : Strong} {v_trk : Trk} {v_trx : Tbl Trx} {v_waiting : List SpineTx} {v_zrt : Tbl ZrtSes} (f_acc : Fld.acc ∈ F) (f_brg : Fld.brg ∈ F) (f_cans : Fld.cans ∈ F) (f_chans : Fld.chans ∈ F) (f_engs : Fld.engs ∈ F) (f_eth : Fld.eth ∈ F) (f_exec : Fld.exec ∈ F) (f_frm : Fld.frm ∈ F) (f_gated : Fld.gated ∈ F) (f_gw : Fld.gw ∈ F) (f_inp : Fld.inp ∈ F) (f_iso : Fld.iso ∈ F) (f_ldg : Fld.ldg ∈ F) (f_lins : Fld.lins ∈ F) (f_meas : Fld.meas ∈ F) (f_nm : Fld.nm ∈ F) (f_nvm : Fld.nvm ∈ F) (f_offers : Fld.offers ∈ F) (f_ports : Fld.ports ∈ F) (f_pwr : Fld.pwr ∈ F) (f_rr : Fld.rr ∈ F) (f_scr : Fld.scr ∈ F) (f_str : Fld.str ∈ F) (f_trk : Fld.trk ∈ F) (f_trx : Fld.trx ∈ F) (f_waiting : Fld.waiting ∈ F) (f_zrt : Fld.zrt ∈ F) (h : Keeps F s t) :
    Keeps F s { t with acc := v_acc, brg := v_brg, cans := v_cans, chans := v_chans, engs := v_engs, eth := v_eth, exec := v_exec, frm := v_frm, gated := v_gated, gw := v_gw, inp := v_inp, iso := v_iso, ldg := v_ldg, lins := v_lins, meas := v_meas, nm := v_nm, nvm := v_nvm, offers := v_offers, ports := v_ports, pwr := v_pwr, rr := v_rr, scr := v_scr, str := v_str, trk := v_trk, trx := v_trx, waiting := v_waiting, zrt := v_zrt } :=
  ⟨h.variant, h.pending, h.regs, h.mem, h.mram, h.ident, fun x hx => by
    cases x <;> first | exact h.same _ hx | exact absurd (by assumption) hx⟩

theorem Keeps.upd_acc_inp_pwr {F : List Fld} {s t : State} {v_acc : Acc} {v_inp : Inp} {v_pwr : Pwr} (f_acc : Fld.acc ∈ F)
    (f_inp : Fld.inp ∈ F) (f_pwr : Fld.pwr ∈ F) (h : Keeps F s t) :
    Keeps F s { t with acc := v_acc, inp := v_inp, pwr := v_pwr } :=
  ⟨h.variant, h.pending, h.regs, h.mem, h.mram, h.ident, fun x hx => by
    cases x <;> first | exact h.same _ hx | exact absurd (by assumption) hx⟩

theorem Keeps.upd_boost {F : List Fld} {s t : State} {v_boost : Boost} (f_boost : Fld.boost ∈ F) (h : Keeps F s t) :
    Keeps F s { t with boost := v_boost } :=
  ⟨h.variant, h.pending, h.regs, h.mem, h.mram, h.ident, fun x hx => by
    cases x <;> first | exact h.same _ hx | exact absurd (by assumption) hx⟩

theorem Keeps.upd_boost_eth {F : List Fld} {s t : State} {v_boost : Boost} {v_eth : Eth} (f_boost : Fld.boost ∈ F)
    (f_eth : Fld.eth ∈ F) (h : Keeps F s t) :
    Keeps F s { t with boost := v_boost, eth := v_eth } :=
  ⟨h.variant, h.pending, h.regs, h.mem, h.mram, h.ident, fun x hx => by
    cases x <;> first | exact h.same _ hx | exact absurd (by assumption) hx⟩

theorem Keeps.upd_boot {F : List Fld} {s t : State} {v_boot : Boot} (f_boot : Fld.boot ∈ F) (h : Keeps F s t) :
    Keeps F s { t with boot := v_boot } :=
  ⟨h.variant, h.pending, h.regs, h.mem, h.mram, h.ident, fun x hx => by
    cases x <;> first | exact h.same _ hx | exact absurd (by assumption) hx⟩

theorem Keeps.upd_boot_pwr {F : List Fld} {s t : State} {v_boot : Boot} {v_pwr : Pwr} (f_boot : Fld.boot ∈ F)
    (f_pwr : Fld.pwr ∈ F) (h : Keeps F s t) :
    Keeps F s { t with boot := v_boot, pwr := v_pwr } :=
  ⟨h.variant, h.pending, h.regs, h.mem, h.mram, h.ident, fun x hx => by
    cases x <;> first | exact h.same _ hx | exact absurd (by assumption) hx⟩

theorem Keeps.upd_boot_str {F : List Fld} {s t : State} {v_boot : Boot} {v_str : Strong} (f_boot : Fld.boot ∈ F)
    (f_str : Fld.str ∈ F) (h : Keeps F s t) :
    Keeps F s { t with boot := v_boot, str := v_str } :=
  ⟨h.variant, h.pending, h.regs, h.mem, h.mram, h.ident, fun x hx => by
    cases x <;> first | exact h.same _ hx | exact absurd (by assumption) hx⟩

theorem Keeps.upd_brg {F : List Fld} {s t : State} {v_brg : Brg} (f_brg : Fld.brg ∈ F) (h : Keeps F s t) :
    Keeps F s { t with brg := v_brg } :=
  ⟨h.variant, h.pending, h.regs, h.mem, h.mram, h.ident, fun x hx => by
    cases x <;> first | exact h.same _ hx | exact absurd (by assumption) hx⟩

theorem Keeps.upd_brg_trk {F : List Fld} {s t : State} {v_brg : Brg} {v_trk : Trk} (f_brg : Fld.brg ∈ F) (f_trk : Fld.trk ∈ F)
    (h : Keeps F s t) :
    Keeps F s { t with brg := v_brg, trk := v_trk } :=
  ⟨h.variant, h.pending, h.regs, h.mem, h.mram, h.ident, fun x hx => by
    cases x <;> first | exact h.same _ hx | exact absurd (by assumption) hx⟩

theorem Keeps.upd_cans {F : List Fld} {s t : State} {v_cans : Tbl Can} (f_cans : Fld.cans ∈ F) (h : Keeps F s t) :
    Keeps F s { t with cans := v_cans } :=
  ⟨h.variant, h.pending, h.regs, h.mem, h.mram, h.ident, fun x hx => by
    cases x <;> first | exact h.same _ hx | exact absurd (by assumption) hx⟩

theorem Keeps.upd_chans {F : List Fld} {s t : State} {v_chans : Tbl Chan} (f_chans : Fld.chans ∈ F) (h : Keeps F s t) :
    Keeps F s { t with chans := v_chans } :=
  ⟨h.variant, h.pending, h.regs, h.mem, h.mram, h.ident, fun x hx => by
    cases x <;> first | exact h.same _ hx | exact absurd (by assumption) hx⟩

theorem Keeps.upd_dieChs {F : List Fld} {s t : State} {v_dieChs : Tbl DieCh} (f_dieChs : Fld.dieChs ∈ F) (h : Keeps F s t) :
    Keeps F s { t with dieChs := v_dieChs } :=
  ⟨h.variant, h.pending, h.regs, h.mem, h.mram, h.ident, fun x hx => by
    cases x <;> first | exact h.same _ hx | exact absurd (by assumption) hx⟩

theorem Keeps.upd_dies {F : List Fld} {s t : State} {v_dies : Tbl Die} (f_dies : Fld.dies ∈ F) (h : Keeps F s t) :
    Keeps F s { t with dies := v_dies } :=
  ⟨h.variant, h.pending, h.regs, h.mem, h.mram, h.ident, fun x hx => by
    cases x <;> first | exact h.same _ hx | exact absurd (by assumption) hx⟩

theorem Keeps.upd_dly {F : List Fld} {s t : State} {v_dly : Dly} (f_dly : Fld.dly ∈ F) (h : Keeps F s t) :
    Keeps F s { t with dly := v_dly } :=
  ⟨h.variant, h.pending, h.regs, h.mem, h.mram, h.ident, fun x hx => by
    cases x <;> first | exact h.same _ hx | exact absurd (by assumption) hx⟩

theorem Keeps.upd_engs {F : List Fld} {s t : State} {v_engs : Tbl Eng} (f_engs : Fld.engs ∈ F) (h : Keeps F s t) :
    Keeps F s { t with engs := v_engs } :=
  ⟨h.variant, h.pending, h.regs, h.mem, h.mram, h.ident, fun x hx => by
    cases x <;> first | exact h.same _ hx | exact absurd (by assumption) hx⟩

theorem Keeps.upd_eth {F : List Fld} {s t : State} {v_eth : Eth} (f_eth : Fld.eth ∈ F) (h : Keeps F s t) :
    Keeps F s { t with eth := v_eth } :=
  ⟨h.variant, h.pending, h.regs, h.mem, h.mram, h.ident, fun x hx => by
    cases x <;> first | exact h.same _ hx | exact absurd (by assumption) hx⟩

theorem Keeps.upd_exec {F : List Fld} {s t : State} {v_exec : List ExecReq} (f_exec : Fld.exec ∈ F) (h : Keeps F s t) :
    Keeps F s { t with exec := v_exec } :=
  ⟨h.variant, h.pending, h.regs, h.mem, h.mram, h.ident, fun x hx => by
    cases x <;> first | exact h.same _ hx | exact absurd (by assumption) hx⟩

theorem Keeps.upd_free {F : List Fld} {s t : State} {v_free : Nat} (f_free : Fld.free ∈ F) (h : Keeps F s t) :
    Keeps F s { t with free := v_free } :=
  ⟨h.variant, h.pending, h.regs, h.mem, h.mram, h.ident, fun x hx => by
    cases x <;> first | exact h.same _ hx | exact absurd (by assumption) hx⟩

theorem Keeps.upd_frm {F : List Fld} {s t : State} {v_frm : Frm} (f_frm : Fld.frm ∈ F) (h : Keeps F s t) :
    Keeps F s { t with frm := v_frm } :=
  ⟨h.variant, h.pending, h.regs, h.mem, h.mram, h.ident, fun x hx => by
    cases x <;> first | exact h.same _ hx | exact absurd (by assumption) hx⟩

theorem Keeps.upd_frm_slate_trk {F : List Fld} {s t : State} {v_frm : Frm} {v_slate : Slate} {v_trk : Trk} (f_frm : Fld.frm ∈ F)
    (f_slate : Fld.slate ∈ F) (f_trk : Fld.trk ∈ F) (h : Keeps F s t) :
    Keeps F s { t with frm := v_frm, slate := v_slate, trk := v_trk } :=
  ⟨h.variant, h.pending, h.regs, h.mem, h.mram, h.ident, fun x hx => by
    cases x <;> first | exact h.same _ hx | exact absurd (by assumption) hx⟩

theorem Keeps.upd_gated {F : List Fld} {s t : State} {v_gated : List Nat} (f_gated : Fld.gated ∈ F) (h : Keeps F s t) :
    Keeps F s { t with gated := v_gated } :=
  ⟨h.variant, h.pending, h.regs, h.mem, h.mram, h.ident, fun x hx => by
    cases x <;> first | exact h.same _ hx | exact absurd (by assumption) hx⟩

theorem Keeps.upd_gw {F : List Fld} {s t : State} {v_gw : Gw} (f_gw : Fld.gw ∈ F) (h : Keeps F s t) :
    Keeps F s { t with gw := v_gw } :=
  ⟨h.variant, h.pending, h.regs, h.mem, h.mram, h.ident, fun x hx => by
    cases x <;> first | exact h.same _ hx | exact absurd (by assumption) hx⟩

theorem Keeps.upd_inp {F : List Fld} {s t : State} {v_inp : Inp} (f_inp : Fld.inp ∈ F) (h : Keeps F s t) :
    Keeps F s { t with inp := v_inp } :=
  ⟨h.variant, h.pending, h.regs, h.mem, h.mram, h.ident, fun x hx => by
    cases x <;> first | exact h.same _ hx | exact absurd (by assumption) hx⟩

theorem Keeps.upd_islands {F : List Fld} {s t : State} {v_islands : Tbl Island} (f_islands : Fld.islands ∈ F) (h : Keeps F s t) :
    Keeps F s { t with islands := v_islands } :=
  ⟨h.variant, h.pending, h.regs, h.mem, h.mram, h.ident, fun x hx => by
    cases x <;> first | exact h.same _ hx | exact absurd (by assumption) hx⟩

theorem Keeps.upd_iso {F : List Fld} {s t : State} {v_iso : Iso} (f_iso : Fld.iso ∈ F) (h : Keeps F s t) :
    Keeps F s { t with iso := v_iso } :=
  ⟨h.variant, h.pending, h.regs, h.mem, h.mram, h.ident, fun x hx => by
    cases x <;> first | exact h.same _ hx | exact absurd (by assumption) hx⟩

theorem Keeps.upd_keys {F : List Fld} {s t : State} {v_keys : Tbl Key} (f_keys : Fld.keys ∈ F) (h : Keeps F s t) :
    Keeps F s { t with keys := v_keys } :=
  ⟨h.variant, h.pending, h.regs, h.mem, h.mram, h.ident, fun x hx => by
    cases x <;> first | exact h.same _ hx | exact absurd (by assumption) hx⟩

theorem Keeps.upd_ldg {F : List Fld} {s t : State} {v_ldg : Ldg} (f_ldg : Fld.ldg ∈ F) (h : Keeps F s t) :
    Keeps F s { t with ldg := v_ldg } :=
  ⟨h.variant, h.pending, h.regs, h.mem, h.mram, h.ident, fun x hx => by
    cases x <;> first | exact h.same _ hx | exact absurd (by assumption) hx⟩

theorem Keeps.upd_links {F : List Fld} {s t : State} {v_links : Tbl LinkLg} (f_links : Fld.links ∈ F) (h : Keeps F s t) :
    Keeps F s { t with links := v_links } :=
  ⟨h.variant, h.pending, h.regs, h.mem, h.mram, h.ident, fun x hx => by
    cases x <;> first | exact h.same _ hx | exact absurd (by assumption) hx⟩

theorem Keeps.upd_lins {F : List Fld} {s t : State} {v_lins : Tbl Lin} (f_lins : Fld.lins ∈ F) (h : Keeps F s t) :
    Keeps F s { t with lins := v_lins } :=
  ⟨h.variant, h.pending, h.regs, h.mem, h.mram, h.ident, fun x hx => by
    cases x <;> first | exact h.same _ hx | exact absurd (by assumption) hx⟩

theorem Keeps.upd_meas {F : List Fld} {s t : State} {v_meas : Meas} (f_meas : Fld.meas ∈ F) (h : Keeps F s t) :
    Keeps F s { t with meas := v_meas } :=
  ⟨h.variant, h.pending, h.regs, h.mem, h.mram, h.ident, fun x hx => by
    cases x <;> first | exact h.same _ hx | exact absurd (by assumption) hx⟩

theorem Keeps.upd_nm {F : List Fld} {s t : State} {v_nm : Tbl NmSeg} (f_nm : Fld.nm ∈ F) (h : Keeps F s t) :
    Keeps F s { t with nm := v_nm } :=
  ⟨h.variant, h.pending, h.regs, h.mem, h.mram, h.ident, fun x hx => by
    cases x <;> first | exact h.same _ hx | exact absurd (by assumption) hx⟩

theorem Keeps.upd_nvm {F : List Fld} {s t : State} {v_nvm : Nvm} (f_nvm : Fld.nvm ∈ F) (h : Keeps F s t) :
    Keeps F s { t with nvm := v_nvm } :=
  ⟨h.variant, h.pending, h.regs, h.mem, h.mram, h.ident, fun x hx => by
    cases x <;> first | exact h.same _ hx | exact absurd (by assumption) hx⟩

theorem Keeps.upd_offers {F : List Fld} {s t : State} {v_offers : List Offer} (f_offers : Fld.offers ∈ F) (h : Keeps F s t) :
    Keeps F s { t with offers := v_offers } :=
  ⟨h.variant, h.pending, h.regs, h.mem, h.mram, h.ident, fun x hx => by
    cases x <;> first | exact h.same _ hx | exact absurd (by assumption) hx⟩

theorem Keeps.upd_ports {F : List Fld} {s t : State} {v_ports : Tbl ExtPort} (f_ports : Fld.ports ∈ F) (h : Keeps F s t) :
    Keeps F s { t with ports := v_ports } :=
  ⟨h.variant, h.pending, h.regs, h.mem, h.mram, h.ident, fun x hx => by
    cases x <;> first | exact h.same _ hx | exact absurd (by assumption) hx⟩

theorem Keeps.upd_pwr {F : List Fld} {s t : State} {v_pwr : Pwr} (f_pwr : Fld.pwr ∈ F) (h : Keeps F s t) :
    Keeps F s { t with pwr := v_pwr } :=
  ⟨h.variant, h.pending, h.regs, h.mem, h.mram, h.ident, fun x hx => by
    cases x <;> first | exact h.same _ hx | exact absurd (by assumption) hx⟩

theorem Keeps.upd_rr {F : List Fld} {s t : State} {v_rr : Tbl Nat} (f_rr : Fld.rr ∈ F) (h : Keeps F s t) :
    Keeps F s { t with rr := v_rr } :=
  ⟨h.variant, h.pending, h.regs, h.mem, h.mram, h.ident, fun x hx => by
    cases x <;> first | exact h.same _ hx | exact absurd (by assumption) hx⟩

theorem Keeps.upd_scr {F : List Fld} {s t : State} {v_scr : Scr} (f_scr : Fld.scr ∈ F) (h : Keeps F s t) :
    Keeps F s { t with scr := v_scr } :=
  ⟨h.variant, h.pending, h.regs, h.mem, h.mram, h.ident, fun x hx => by
    cases x <;> first | exact h.same _ hx | exact absurd (by assumption) hx⟩

theorem Keeps.upd_slate {F : List Fld} {s t : State} {v_slate : Slate} (f_slate : Fld.slate ∈ F) (h : Keeps F s t) :
    Keeps F s { t with slate := v_slate } :=
  ⟨h.variant, h.pending, h.regs, h.mem, h.mram, h.ident, fun x hx => by
    cases x <;> first | exact h.same _ hx | exact absurd (by assumption) hx⟩

theorem Keeps.upd_str {F : List Fld} {s t : State} {v_str : Strong} (f_str : Fld.str ∈ F) (h : Keeps F s t) :
    Keeps F s { t with str := v_str } :=
  ⟨h.variant, h.pending, h.regs, h.mem, h.mram, h.ident, fun x hx => by
    cases x <;> first | exact h.same _ hx | exact absurd (by assumption) hx⟩

theorem Keeps.upd_trk {F : List Fld} {s t : State} {v_trk : Trk} (f_trk : Fld.trk ∈ F) (h : Keeps F s t) :
    Keeps F s { t with trk := v_trk } :=
  ⟨h.variant, h.pending, h.regs, h.mem, h.mram, h.ident, fun x hx => by
    cases x <;> first | exact h.same _ hx | exact absurd (by assumption) hx⟩

theorem Keeps.upd_trx {F : List Fld} {s t : State} {v_trx : Tbl Trx} (f_trx : Fld.trx ∈ F) (h : Keeps F s t) :
    Keeps F s { t with trx := v_trx } :=
  ⟨h.variant, h.pending, h.regs, h.mem, h.mram, h.ident, fun x hx => by
    cases x <;> first | exact h.same _ hx | exact absurd (by assumption) hx⟩

theorem Keeps.upd_upd {F : List Fld} {s t : State} {v_upd : Upd} (f_upd : Fld.upd ∈ F) (h : Keeps F s t) :
    Keeps F s { t with upd := v_upd } :=
  ⟨h.variant, h.pending, h.regs, h.mem, h.mram, h.ident, fun x hx => by
    cases x <;> first | exact h.same _ hx | exact absurd (by assumption) hx⟩

theorem Keeps.upd_waiting {F : List Fld} {s t : State} {v_waiting : List SpineTx} (f_waiting : Fld.waiting ∈ F)
    (h : Keeps F s t) :
    Keeps F s { t with waiting := v_waiting } :=
  ⟨h.variant, h.pending, h.regs, h.mem, h.mram, h.ident, fun x hx => by
    cases x <;> first | exact h.same _ hx | exact absurd (by assumption) hx⟩

theorem Keeps.upd_zrt {F : List Fld} {s t : State} {v_zrt : Tbl ZrtSes} (f_zrt : Fld.zrt ∈ F) (h : Keeps F s t) :
    Keeps F s { t with zrt := v_zrt } :=
  ⟨h.variant, h.pending, h.regs, h.mem, h.mram, h.ident, fun x hx => by
    cases x <;> first | exact h.same _ hx | exact absurd (by assumption) hx⟩

theorem State.setReg_keeps {F : List Fld} {s t : State} (f_regs : Fld.regs ∈ F) (h : Keeps F s t) (a : Nat) (v : Word) :
    Keeps F s (t.setReg a v) := Keeps.upd_regs f_regs h (twf_tset _ _ _ _)

theorem State.setF_keeps {F : List Fld} {s t : State} (f_regs : Fld.regs ∈ F) (h : Keeps F s t) (r : RF) (v : Nat) :
    Keeps F s (t.setF r v) := Keeps.upd_regs f_regs h (twf_tset _ _ _ _)

theorem State.wr8_keeps {F : List Fld} {s t : State} (f_mem : Fld.mem ∈ F) (h : Keeps F s t) (a : Nat) (v : Byte) :
    Keeps F s (t.wr8 a v) := Keeps.upd_mem f_mem h (twf_tset _ _ _ _)

end Sys2Proof.Machine
end

