-- ==== Sys2Proof/Laws/KeepsOps.lean ====
section
/-! SUPPORT. What the operations and meanings of Machine/Ops.lean keep. -/

namespace Sys2Proof.Machine

theorem State.wrN_keeps {F : List Fld} {s t : State} (f_mem : Fld.mem ∈ F) (h : Keeps F s t) (a n v : Nat) : Keeps F s
    (t.wrN a n v) := by
  induction n generalizing t a v with
  | zero => exact h
  | succ n ih => exact ih (State.wr8_keeps f_mem h a _) _ _

theorem State.wrBytes_keeps {F : List Fld} {s t : State} (f_mem : Fld.mem ∈ F) (h : Keeps F s t) (a : Nat)
    (l : List Byte) : Keeps F s (t.wrBytes a l) := by
  induction l generalizing t a with
  | nil => exact h
  | cons b l ih => exact ih (State.wr8_keeps f_mem h a b) _

theorem State.mwrBytes_mram (t : State) (a : Nat) (l : List Byte) : t.mwrBytes a l = { t with mram :=
    (t.mwrBytes a l).mram } := by
  induction l generalizing t a with
  | nil => rfl
  | cons b l ih => exact (ih (t.mwr8 a b) (a + 1)).trans rfl

theorem State.mwrBytes_keeps {F : List Fld} {s t : State} (f_mram : Fld.mram ∈ F) (h : Keeps F s t) (a : Nat) (l : List Byte)
    (ha : a + l.length ≤ identAt) : Keeps F s (t.mwrBytes a l) := by
  rw [State.mwrBytes_mram]
  exact Keeps.upd_mram f_mram h (t.mwrBytes_wf a l) (fun b hb => t.mrd8_mwrBytes a b l (Or.inr (by omega)))

theorem State.addSat_keeps {F : List Fld} {s t : State} (f_regs : Fld.regs ∈ F) (h : Keeps F s t) (r : RF) (n : Nat) :
    Keeps F s (State.addSat t r n) := by
  unfold State.addSat
  with_reducible repeat' first
     | exact Keeps.refl _ | assumption | apply State.setF_keeps

theorem State.incSat_keeps {F : List Fld} {s t : State} (f_regs : Fld.regs ∈ F) (h : Keeps F s t) (r : RF) :
    Keeps F s (State.incSat t r) := by
  unfold State.incSat
  with_reducible repeat' first
     | exact Keeps.refl _ | assumption | apply State.addSat_keeps

theorem State.incMod_keeps {F : List Fld} {s t : State} (f_regs : Fld.regs ∈ F) (h : Keeps F s t) (r : RF) :
    Keeps F s (State.incMod t r) := by
  unfold State.incMod
  with_reducible repeat' first
     | exact Keeps.refl _ | assumption | apply State.setF_keeps

theorem State.raise_keeps {F : List Fld} {s t : State} (f_regs : Fld.regs ∈ F) (h : Keeps F s t) (flag : RF) (cnt : RF) :
    Keeps F s (State.raise t flag cnt) := by
  unfold State.raise
  with_reducible repeat' first
     | exact Keeps.refl _ | assumption | apply State.incSat_keeps | apply State.setF_keeps

theorem State.raiseBits_keeps {F : List Fld} {s t : State} (f_regs : Fld.regs ∈ F) (h : Keeps F s t) (flag : RF) (cnt : RF)
    (bits : Nat) :
    Keeps F s (State.raiseBits t flag cnt bits) := by
  unfold State.raiseBits
  with_reducible repeat' first
     | exact Keeps.refl _ | assumption | apply State.incSat_keeps | apply State.setF_keeps

theorem State.fullResetRegs_keeps {F : List Fld} {s t : State} (f_regs : Fld.regs ∈ F) (h : Keeps F s t)  :
    Keeps F s (State.fullResetRegs t) := by
  exact Keeps.upd_regs f_regs h (fun k => (twf_filter _ _ _ k).1)

theorem State.powerOnRegs_keeps {F : List Fld} {s t : State} (f_regs : Fld.regs ∈ F) (h : Keeps F s t)  :
    Keeps F s (State.powerOnRegs t) := by
  exact Keeps.upd_regs f_regs h (fun k => (twf_filter _ _ _ k).1)

theorem State.dieClock_keeps {F : List Fld} {s t : State} (f_regs : Fld.regs ∈ F) (h : Keeps F s t) (n : Nat) (v : Bool) :
    Keeps F s (State.dieClock t n v) := by
  unfold State.dieClock
  with_reducible repeat' first
     | exact Keeps.refl _ | assumption | apply State.setF_keeps

theorem State.zeroMem_keeps {F : List Fld} {s t : State} (f_mem : Fld.mem ∈ F) (h : Keeps F s t) (lo : Nat) (hi : Nat) :
    Keeps F s (State.zeroMem t lo hi) := by
  exact Keeps.upd_mem f_mem h (fun k => (twf_filter _ _ _ k).1)

theorem State.drawn_keeps {F : List Fld} {s t : State} (f_free : Fld.free ∈ F) (h : Keeps F s t)  :
    Keeps F s (State.drawn t) := by
  unfold State.drawn
  with_reducible repeat' first
     | exact Keeps.refl _ | assumption | apply Keeps.upd_free

theorem State.setIsland_keeps {F : List Fld} {s t : State} (f_islands : Fld.islands ∈ F) (h : Keeps F s t) (i : Nat)
    (x : Island) :
    Keeps F s (State.setIsland t i x) := by
  unfold State.setIsland
  with_reducible repeat' first
     | exact Keeps.refl _ | assumption | apply hf | intro x hx | intro y | apply Keeps.upd_islands

theorem State.offerRec_keeps {F : List Fld} {s t : State} (f_regs : Fld.regs ∈ F) (f_islands : Fld.islands ∈ F)
    (h : Keeps F s t) (r : DailyRec) :
    Keeps F s (State.offerRec t r) := by
  unfold State.offerRec
  with_reducible repeat' first
     | exact Keeps.refl _ | assumption | apply Keeps.ite | apply Keeps.ite2 | apply State.incSat_keeps | apply State.raise_keeps
     | apply State.setF_keeps | apply State.setIsland_keeps

theorem State.stamp_keeps {F : List Fld} {s t : State} (f_regs : Fld.regs ∈ F) (f_islands : Fld.islands ∈ F) (h : Keeps F s t)
    (isl : Nat) (kind : Nat) (index : Nat) (unit : Nat) (event : Nat) (data : Nat) :
    Keeps F s (State.stamp t isl kind index unit event data) := by
  unfold State.stamp
  with_reducible repeat' first
     | exact Keeps.refl _ | assumption | apply State.offerRec_keeps

theorem State.stampUnit_keeps {F : List Fld} {s t : State} (f_regs : Fld.regs ∈ F) (f_islands : Fld.islands ∈ F)
    (h : Keeps F s t) (unit : Nat) (event : Nat) (data : Nat) :
    Keeps F s (State.stampUnit t unit event data) := by
  unfold State.stampUnit
  with_reducible repeat' first
     | exact Keeps.refl _ | assumption | apply State.stamp_keeps

theorem State.postCue_keeps {F : List Fld} {s t : State} (f_offers : Fld.offers ∈ F) (h : Keeps F s t) (target : Nat)
    (cls : Nat) (code : Nat) (kind : Nat) (index : Nat) (arg : Nat) (data : Nat) (merge : Bool) :
    Keeps F s (State.postCue t target cls code kind index arg data merge) := by
  unfold State.postCue
  with_reducible repeat' first
     | exact Keeps.refl _ | assumption | apply Keeps.ite | apply Keeps.ite2 | (extract_lets +onlyGivenNames x; clear_value x)
     | split | dsimp only | apply Keeps.upd_offers

theorem State.unitCue_keeps {F : List Fld} {s t : State} (f_offers : Fld.offers ∈ F) (h : Keeps F s t) (target : Nat)
    (unit : Nat) (code : Nat) (arg : Nat) (data : Nat) :
    Keeps F s (State.unitCue t target unit code arg data) := by
  unfold State.unitCue
  with_reducible repeat' first
     | exact Keeps.refl _ | assumption | apply State.postCue_keeps

theorem State.slotUpdate_keeps {F : List Fld} {s t : State} (f_regs : Fld.regs ∈ F) (h : Keeps F s t) (st : Nat) (val : Nat)
    (v : Nat) :
    Keeps F s (State.slotUpdate t st val v) := by
  unfold State.slotUpdate
  with_reducible repeat' first
     | exact Keeps.refl _ | assumption | apply State.setF_keeps | apply State.setReg_keeps

theorem State.slotFilling_keeps {F : List Fld} {s t : State} (f_regs : Fld.regs ∈ F) (h : Keeps F s t) (st : Nat) :
    Keeps F s (State.slotFilling t st) := by
  unfold State.slotFilling
  with_reducible repeat' first
     | exact Keeps.refl _ | assumption | apply State.setF_keeps

theorem State.slotTake_keeps {F : List Fld} {s t : State} (f_regs : Fld.regs ∈ F) (h : Keeps F s t) (st : Nat) (val : Nat)
    (tst : Nat) (tval : Nat) :
    Keeps F s (State.slotTake t st val tst tval) := by
  unfold State.slotTake
  with_reducible repeat' first
     | exact Keeps.refl _ | assumption | apply Keeps.ite | apply Keeps.ite2 | apply State.setF_keeps | apply State.setReg_keeps

theorem State.trkKeep_keeps {F : List Fld} {s t : State} (f_trk : Fld.trk ∈ F) (h : Keeps F s t) (dst : Nat) (what : Nat)
    (tag : Nat) (status : Nat) (data : List Byte) :
    Keeps F s (State.trkKeep t dst what tag status data) := by
  unfold State.trkKeep
  with_reducible repeat' first
     | exact Keeps.refl _ | assumption | (extract_lets +onlyGivenNames x; clear_value x) | dsimp only | apply Keeps.upd_trk

theorem State.trkSend_keeps {F : List Fld} {s t : State} (f_trk : Fld.trk ∈ F) (h : Keeps F s t) (dst : Nat) (r : TrkReq) :
    Keeps F s (State.trkSend t dst r) := by
  unfold State.trkSend
  with_reducible repeat' first
     | exact Keeps.refl _ | assumption | apply State.trkKeep_keeps
     | (extract_lets +onlyGivenNames x; first | (refine Keeps.cut F s x ?_ (fun hx => ?_); rotate_left 1; clear_value x; rotate_left 1; unfold x) | clear_value x)
     | dsimp only | apply Keeps.upd_trk

theorem State.trkWake_keeps {F : List Fld} {s t : State} (f_trk : Fld.trk ∈ F) (h : Keeps F s t)  :
    Keeps F s (State.trkWake t) := by
  unfold State.trkWake
  with_reducible repeat' first
     | exact Keeps.refl _ | assumption | (extract_lets +onlyGivenNames x; clear_value x) | apply Keeps.upd_trk

theorem State.xingShow_keeps {F : List Fld} {s t : State} (f_regs : Fld.regs ∈ F) (h : Keeps F s t) (i : Nat) :
    Keeps F s (State.xingShow t i) := by
  unfold State.xingShow
  with_reducible repeat' first
     | exact Keeps.refl _ | assumption | apply State.setF_keeps

theorem State.setXing_keeps {F : List Fld} {s t : State} (f_regs : Fld.regs ∈ F) (f_pwr : Fld.pwr ∈ F) (h : Keeps F s t)
    (frm : Nat) (dst : Nat) (v : Nat) :
    Keeps F s (State.setXing t frm dst v) := by
  unfold State.setXing
  with_reducible repeat' first
     | exact Keeps.refl _ | assumption | apply State.xingShow_keeps | apply hf | intro x hx | intro y
     | (extract_lets +onlyGivenNames x; clear_value x) | apply Keeps.upd_pwr

theorem State.idleTick_keeps {F : List Fld} {s t : State} (f_slate : Fld.slate ∈ F) (h : Keeps F s t)  :
    Keeps F s (State.idleTick t) := by
  unfold State.idleTick
  with_reducible repeat' first
     | exact Keeps.refl _ | assumption | apply Keeps.upd_slate

end Sys2Proof.Machine
end

