-- ==== Sys2Proof/Laws/KeepsChannels.lean ====
section
/-! SUPPORT. What the operations and meanings of Machine/Channels.lean keep. -/

namespace Sys2Proof.Machine

theorem State.setChan_keeps {F : List Fld} {s t : State} (f_chans : Fld.chans ∈ F) (h : Keeps F s t) (c : Nat) (x : Chan) :
    Keeps F s (State.setChan t c x) := by
  unfold State.setChan
  with_reducible repeat' first
     | exact Keeps.refl _ | assumption | apply hf | intro x hx | intro y | apply Keeps.upd_chans

theorem State.setDie_keeps {F : List Fld} {s t : State} (f_dies : Fld.dies ∈ F) (h : Keeps F s t) (n : Nat) (x : Die) :
    Keeps F s (State.setDie t n x) := by
  unfold State.setDie
  with_reducible repeat' first
     | exact Keeps.refl _ | assumption | apply hf | intro x hx | intro y | apply Keeps.upd_dies

theorem State.setDieCh_keeps {F : List Fld} {s t : State} (f_dieChs : Fld.dieChs ∈ F) (h : Keeps F s t) (c : Nat) (x : DieCh) :
    Keeps F s (State.setDieCh t c x) := by
  unfold State.setDieCh
  with_reducible repeat' first
     | exact Keeps.refl _ | assumption | apply hf | intro x hx | intro y | apply Keeps.upd_dieChs

theorem State.setLnk_keeps {F : List Fld} {s t : State} (f_links : Fld.links ∈ F) (h : Keeps F s t) (n : Nat) (x : LinkLg) :
    Keeps F s (State.setLnk t n x) := by
  unfold State.setLnk
  with_reducible repeat' first
     | exact Keeps.refl _ | assumption | apply hf | intro x hx | intro y | apply Keeps.upd_links

theorem State.send_keeps {F : List Fld} {s t : State} (f_links : Fld.links ∈ F) (h : Keeps F s t) (n : Nat) (f : LinkFrame) :
    Keeps F s (State.send t n f) := by
  unfold State.send
  with_reducible repeat' first
     | exact Keeps.refl _ | assumption | apply Keeps.ite | apply State.setLnk_keeps

theorem State.sendCh_keeps {F : List Fld} {s t : State} (f_links : Fld.links ∈ F) (h : Keeps F s t) (c : Nat)
    (f : Nat → LinkFrame) :
    Keeps F s (State.sendCh t c f) := by
  unfold State.sendCh
  with_reducible repeat' first
     | exact Keeps.refl _ | assumption | apply State.send_keeps

theorem State.absentWrite_keeps {F : List Fld} {s t : State} (f_regs : Fld.regs ∈ F) (h : Keeps F s t) (unit : Nat) (inst : Nat) :
    Keeps F s (State.absentWrite t unit inst) := by
  unfold State.absentWrite
  with_reducible repeat' first
     | exact Keeps.refl _ | assumption | apply State.incSat_keeps | apply State.setF_keeps

theorem State.chRefuse_keeps {F : List Fld} {s t : State} (f_regs : Fld.regs ∈ F) (f_islands : Fld.islands ∈ F)
    (h : Keeps F s t) (init : Nat) (c : Nat) (reason : Nat) :
    Keeps F s (State.chRefuse t init c reason) := by
  unfold State.chRefuse
  with_reducible repeat' first
     | exact Keeps.refl _ | assumption | apply State.incSat_keeps | apply State.raise_keeps | apply State.setF_keeps
     | apply State.stamp_keeps

theorem State.chWrite_keeps {F : List Fld} {s t : State} (f_regs : Fld.regs ∈ F) (f_islands : Fld.islands ∈ F) (h : Keeps F s t)
    (init : Nat) (c : Nat) (cmdOrPwm : Bool) (held : Bool) (bad : Bool) (busy : Bool) (k : State → State)
    (h_k : ∀ y0 : State, Keeps F s y0 →  Keeps F s (k y0)) :
    Keeps F s (State.chWrite t init c cmdOrPwm held bad busy k) := by
  unfold State.chWrite
  with_reducible repeat' first
     | exact Keeps.refl _ | assumption | apply Keeps.ite | apply State.absentWrite_keeps | apply State.chRefuse_keeps | apply h_k

theorem State.stampCmd_keeps {F : List Fld} {s t : State} (f_regs : Fld.regs ∈ F) (f_islands : Fld.islands ∈ F)
    (h : Keeps F s t) (c : Nat) (stage : Nat) (isl : Nat) :
    Keeps F s (State.stampCmd t c stage isl) := by
  unfold State.stampCmd
  with_reducible repeat' first
     | exact Keeps.refl _ | assumption | apply State.stamp_keeps

theorem State.chEventAt_keeps {F : List Fld} {s t : State} (f_regs : Fld.regs ∈ F) (f_islands : Fld.islands ∈ F)
    (f_offers : Fld.offers ∈ F) (h : Keeps F s t) (cor : Bool) (isl : Nat) (t' : Slate) (c : Nat) (code : Nat) (arg : Nat) :
    Keeps F s (State.chEventAt t cor isl t' c code arg) := by
  unfold State.chEventAt
  with_reducible repeat' first
     | exact Keeps.refl _ | assumption | apply State.offerRec_keeps | apply State.postCue_keeps

theorem State.chCue_keeps {F : List Fld} {s t : State} (f_offers : Fld.offers ∈ F) (h : Keeps F s t) (c : Nat) (code : Nat)
    (arg : Nat) :
    Keeps F s (State.chCue t c code arg) := by
  unfold State.chCue
  with_reducible repeat' first
     | exact Keeps.refl _ | assumption | apply State.postCue_keeps

theorem State.chEvent_keeps {F : List Fld} {s t : State} (f_regs : Fld.regs ∈ F) (f_islands : Fld.islands ∈ F)
    (f_offers : Fld.offers ∈ F) (h : Keeps F s t) (c : Nat) (code : Nat) (arg : Nat) :
    Keeps F s (State.chEvent t c code arg) := by
  unfold State.chEvent
  with_reducible repeat' first
     | exact Keeps.refl _ | assumption | apply State.chEventAt_keeps

theorem State.setVerdict_keeps {F : List Fld} {s t : State} (f_regs : Fld.regs ∈ F) (f_islands : Fld.islands ∈ F)
    (f_offers : Fld.offers ∈ F) (h : Keeps F s t) (c : Nat) (v : Nat) :
    Keeps F s (State.setVerdict t c v) := by
  unfold State.setVerdict
  with_reducible repeat' first
     | exact Keeps.refl _ | assumption | apply Keeps.ite | apply State.chEvent_keeps | apply State.incMod_keeps
     | apply State.setF_keeps

theorem State.evidence_keeps {F : List Fld} {s t : State} (f_regs : Fld.regs ∈ F) (f_islands : Fld.islands ∈ F)
    (f_offers : Fld.offers ∈ F) (h : Keeps F s t) (c : Nat) (v : Nat) :
    Keeps F s (State.evidence t c v) := by
  unfold State.evidence
  with_reducible repeat' first
     | exact Keeps.refl _ | assumption | apply Keeps.ite | apply State.setVerdict_keeps

theorem State.captureEvidence_keeps {F : List Fld} {s t : State} (f_regs : Fld.regs ∈ F) (f_islands : Fld.islands ∈ F)
    (f_offers : Fld.offers ∈ F) (h : Keeps F s t) (c : Nat) (v : Nat) :
    Keeps F s (State.captureEvidence t c v) := by
  unfold State.captureEvidence
  with_reducible repeat' first
     | exact Keeps.refl _ | assumption | apply Keeps.ite | apply State.evidence_keeps | apply State.setVerdict_keeps

theorem State.keepCopy_keeps {F : List Fld} {s t : State} (f_dies : Fld.dies ∈ F) (h : Keeps F s t) (n : Nat) :
    Keeps F s (State.keepCopy t n) := by
  unfold State.keepCopy
  with_reducible repeat' first
     | exact Keeps.refl _ | assumption | apply Keeps.ite | apply State.setDie_keeps

theorem State.asDie_keeps {F : List Fld} {s t : State} (f_regs : Fld.regs ∈ F) (h : Keeps F s t) (n : Nat) :
    Keeps F s (State.asDie t n) := by
  unfold State.asDie
  split
  · exact h
  · exact Keeps.upd_regs f_regs h (fun _ => twf_foldl_tset _ _ _ rfl)

theorem State.storeEvent_keeps {F : List Fld} {s t : State} (f_dies : Fld.dies ∈ F) (h : Keeps F s t) (c : Nat) (code : Nat)
    (value : Nat) :
    Keeps F s (State.storeEvent t c code value) := by
  unfold State.storeEvent
  with_reducible repeat' first
     | exact Keeps.refl _ | assumption | apply Keeps.ite | apply Keeps.ite2 | apply State.setDie_keeps

theorem State.inDieQ_keeps {F : List Fld} {s t : State} (f_regs : Fld.regs ∈ F) (f_dies : Fld.dies ∈ F) (h : Keeps F s t)
    (n : Nat) (k : State → State) (h_k : ∀ y0 : State, Keeps F s y0 →  Keeps F s (k y0)) :
    Keeps F s (State.inDieQ t n k) := by
  unfold State.inDieQ
  split
  · exact h_k _ h
  · exact Keeps.die (State.setDie_keeps f_dies (h_k _ (State.asDie_keeps f_regs h n)) _ _) h

theorem State.inDie_keeps {F : List Fld} {s t : State} (f_regs : Fld.regs ∈ F) (f_dies : Fld.dies ∈ F) (h : Keeps F s t)
    (c : Nat) (k : State → State) (h_k : ∀ y0 : State, Keeps F s y0 →  Keeps F s (k y0)) :
    Keeps F s (State.inDie t c k) := by
  unfold State.inDie
  with_reducible repeat' first
     | exact Keeps.refl _ | assumption | apply Keeps.ite | apply State.inDieQ_keeps | apply State.storeEvent_keeps | apply h_k
     | apply Keeps.foldl | apply hf | intro x hx | intro y

theorem State.setPh_keeps {F : List Fld} {s t : State} (f_regs : Fld.regs ∈ F) (f_dieChs : Fld.dieChs ∈ F) (h : Keeps F s t)
    (c : Nat) (v : Nat) :
    Keeps F s (State.setPh t c v) := by
  unfold State.setPh
  with_reducible repeat' first
     | exact Keeps.refl _ | assumption | apply State.setDieCh_keeps | apply State.setF_keeps

theorem State.setOut_keeps {F : List Fld} {s t : State} (f_chans : Fld.chans ∈ F) (f_dieChs : Fld.dieChs ∈ F) (h : Keeps F s t)
    (c : Nat) (v : Bool) :
    Keeps F s (State.setOut t c v) := by
  unfold State.setOut
  with_reducible repeat' first
     | exact Keeps.refl _ | assumption | apply Keeps.ite | apply State.setChan_keeps | apply State.setDieCh_keeps

theorem State.setModeOff_keeps {F : List Fld} {s t : State} (f_regs : Fld.regs ∈ F) (f_dieChs : Fld.dieChs ∈ F)
    (h : Keeps F s t) (c : Nat) :
    Keeps F s (State.setModeOff t c) := by
  unfold State.setModeOff
  with_reducible repeat' first
     | exact Keeps.refl _ | assumption | apply State.setDieCh_keeps | apply State.setF_keeps

theorem State.defer_keeps {F : List Fld} {s t : State} (f_regs : Fld.regs ∈ F) (f_islands : Fld.islands ∈ F)
    (f_chans : Fld.chans ∈ F) (f_dieChs : Fld.dieChs ∈ F) (h : Keeps F s t) (c : Nat) :
    Keeps F s (State.defer t c) := by
  unfold State.defer
  with_reducible repeat' first
     | exact Keeps.refl _ | assumption | apply Keeps.ite | apply State.incSat_keeps | apply State.raise_keeps
     | apply State.setChan_keeps | apply State.setPh_keeps | apply State.stampCmd_keeps

theorem State.activate_keeps {F : List Fld} {s t : State} (f_regs : Fld.regs ∈ F) (f_dieChs : Fld.dieChs ∈ F) (h : Keeps F s t)
    (c : Nat) :
    Keeps F s (State.activate t c) := by
  unfold State.activate
  with_reducible repeat' first
     | exact Keeps.refl _ | assumption | apply Keeps.ite | apply Keeps.ite2 | apply State.setDieCh_keeps | apply State.setF_keeps

theorem State.winStart_keeps {F : List Fld} {s t : State} (f_chans : Fld.chans ∈ F) (h : Keeps F s t) (c : Nat) :
    Keeps F s (State.winStart t c) := by
  unfold State.winStart
  with_reducible repeat' first
     | exact Keeps.refl _ | assumption | apply State.setChan_keeps

theorem State.captureStart_keeps {F : List Fld} {s t : State} (f_regs : Fld.regs ∈ F) (f_chans : Fld.chans ∈ F)
    (h : Keeps F s t) (c : Nat) :
    Keeps F s (State.captureStart t c) := by
  unfold State.captureStart
  with_reducible repeat' first
     | exact Keeps.refl _ | assumption | apply Keeps.ite | apply Keeps.ite2 | apply State.setChan_keeps
     | apply State.slotFilling_keeps

theorem State.turnOnMark_keeps {F : List Fld} {s t : State} (f_regs : Fld.regs ∈ F) (f_islands : Fld.islands ∈ F)
    (f_offers : Fld.offers ∈ F) (h : Keeps F s t) (c : Nat) :
    Keeps F s (State.turnOnMark t c) := by
  unfold State.turnOnMark
  with_reducible repeat' first
     | exact Keeps.refl _ | assumption | apply State.setF_keeps | apply State.setVerdict_keeps

theorem State.startRun_keeps {F : List Fld} {s t : State} (f_regs : Fld.regs ∈ F) (f_islands : Fld.islands ∈ F)
    (f_chans : Fld.chans ∈ F) (f_dieChs : Fld.dieChs ∈ F) (h : Keeps F s t) (c : Nat) (retry : Bool) :
    Keeps F s (State.startRun t c retry) := by
  unfold State.startRun
  with_reducible repeat' first
     | exact Keeps.refl _ | assumption | apply Keeps.ite | apply Keeps.ite2 | apply State.activate_keeps
     | apply State.captureStart_keeps | apply State.fuse_keeps | apply State.incSat_keeps | apply State.setChan_keeps
     | apply State.setDieCh_keeps | apply State.setF_keeps | apply State.setOut_keeps | apply State.setPh_keeps
     | apply State.setReg_keeps | apply State.slotFilling_keeps | apply State.stampCmd_keeps | apply State.winStart_keeps

theorem State.setRev_keeps {F : List Fld} {s t : State} (f_regs : Fld.regs ∈ F) (f_dieChs : Fld.dieChs ∈ F) (h : Keeps F s t)
    (c : Nat) (v : Bool) :
    Keeps F s (State.setRev t c v) := by
  unfold State.setRev
  with_reducible repeat' first
     | exact Keeps.refl _ | assumption | apply State.setDieCh_keeps | apply State.setF_keeps

theorem State.setBraking_keeps {F : List Fld} {s t : State} (f_regs : Fld.regs ∈ F) (f_dieChs : Fld.dieChs ∈ F)
    (h : Keeps F s t) (c : Nat) (v : Bool) :
    Keeps F s (State.setBraking t c v) := by
  unfold State.setBraking
  with_reducible repeat' first
     | exact Keeps.refl _ | assumption | apply State.setDieCh_keeps | apply State.setF_keeps

theorem State.turnOn_keeps {F : List Fld} {s t : State} (f_regs : Fld.regs ∈ F) (f_islands : Fld.islands ∈ F)
    (f_offers : Fld.offers ∈ F) (f_chans : Fld.chans ∈ F) (f_dieChs : Fld.dieChs ∈ F) (h : Keeps F s t) (c : Nat) :
    Keeps F s (State.turnOn t c) := by
  unfold State.turnOn
  with_reducible repeat' first
     | exact Keeps.refl _ | assumption | apply Keeps.ite | apply State.defer_keeps | apply State.setPh_keeps
     | apply State.setRev_keeps | apply State.startRun_keeps | apply State.turnOnMark_keeps

theorem State.runEnd_keeps {F : List Fld} {s t : State} (f_regs : Fld.regs ∈ F) (f_chans : Fld.chans ∈ F) (h : Keeps F s t)
    (c : Nat) :
    Keeps F s (State.runEnd t c) := by
  unfold State.runEnd
  with_reducible repeat' first
     | exact Keeps.refl _ | assumption | apply Keeps.ite | apply Keeps.ite2 | apply State.setChan_keeps | apply State.setF_keeps
     | apply State.slotUpdate_keeps

theorem State.captureDiscard_keeps {F : List Fld} {s t : State} (f_regs : Fld.regs ∈ F) (f_chans : Fld.chans ∈ F)
    (h : Keeps F s t) (c : Nat) :
    Keeps F s (State.captureDiscard t c) := by
  unfold State.captureDiscard
  with_reducible repeat' first
     | exact Keeps.refl _ | assumption | apply Keeps.ite | apply State.setChan_keeps | apply State.setF_keeps

theorem State.setMot_keeps {F : List Fld} {s t : State} (f_regs : Fld.regs ∈ F) (h : Keeps F s t) (c : Nat) (v : Bool) :
    Keeps F s (State.setMot t c v) := by
  unfold State.setMot
  with_reducible repeat' first
     | exact Keeps.refl _ | assumption | apply State.setF_keeps | apply Keeps.foldl | apply Keeps.foldl2 | apply Keeps.foldl1
     | intro x hx | intro y

theorem State.motUpdate_keeps {F : List Fld} {s t : State} (f_regs : Fld.regs ∈ F) (h : Keeps F s t) (c : Nat) :
    Keeps F s (State.motUpdate t c) := by
  unfold State.motUpdate
  with_reducible repeat' first
     | exact Keeps.refl _ | assumption | apply Keeps.ite | apply State.setMot_keeps

theorem State.legStop_keeps {F : List Fld} {s t : State} (f_regs : Fld.regs ∈ F) (f_dieChs : Fld.dieChs ∈ F) (h : Keeps F s t)
    (c : Nat) :
    Keeps F s (State.legStop t c) := by
  unfold State.legStop
  with_reducible repeat' first
     | exact Keeps.refl _ | assumption | apply Keeps.ite | apply State.motUpdate_keeps | apply State.setBraking_keeps
     | apply State.setRev_keeps

theorem State.openOut_keeps {F : List Fld} {s t : State} (f_regs : Fld.regs ∈ F) (f_chans : Fld.chans ∈ F)
    (f_dieChs : Fld.dieChs ∈ F) (h : Keeps F s t) (c : Nat) :
    Keeps F s (State.openOut t c) := by
  unfold State.openOut
  with_reducible repeat' first
     | exact Keeps.refl _ | assumption | apply State.captureDiscard_keeps | apply State.runEnd_keeps | apply State.setChan_keeps
     | apply State.setDieCh_keeps

theorem State.turnOff_keeps {F : List Fld} {s t : State} (f_regs : Fld.regs ∈ F) (f_chans : Fld.chans ∈ F)
    (f_dieChs : Fld.dieChs ∈ F) (h : Keeps F s t) (c : Nat) :
    Keeps F s (State.turnOff t c) := by
  unfold State.turnOff
  with_reducible repeat' first
     | exact Keeps.refl _ | assumption | apply Keeps.ite | apply Keeps.ite2 | apply State.fuse_keeps | apply State.legStop_keeps
     | apply State.openOut_keeps | apply State.setChan_keeps | apply State.setDieCh_keeps | apply State.setPh_keeps

theorem State.setPoint_keeps {F : List Fld} {s t : State} (f_regs : Fld.regs ∈ F) (f_dieChs : Fld.dieChs ∈ F) (h : Keeps F s t)
    (c : Nat) (n : Nat) :
    Keeps F s (State.setPoint t c n) := by
  unfold State.setPoint
  with_reducible repeat' first
     | exact Keeps.refl _ | assumption | apply State.setDieCh_keeps | apply State.setF_keeps

theorem State.pwmEdgeRun_keeps {F : List Fld} {s t : State} (f_regs : Fld.regs ∈ F) (f_islands : Fld.islands ∈ F)
    (f_offers : Fld.offers ∈ F) (f_chans : Fld.chans ∈ F) (f_dieChs : Fld.dieChs ∈ F) (h : Keeps F s t) (c : Nat) :
    Keeps F s (State.pwmEdgeRun t c) := by
  unfold State.pwmEdgeRun
  with_reducible repeat' first
     | exact Keeps.refl _ | assumption | apply Keeps.ite | apply State.activate_keeps | apply State.captureStart_keeps
     | apply State.defer_keeps | apply State.incSat_keeps | apply State.setChan_keeps | apply State.setOut_keeps
     | apply State.setPh_keeps | apply State.setPoint_keeps | apply State.startRun_keeps | apply State.turnOnMark_keeps

theorem State.periodStart_keeps {F : List Fld} {s t : State} (f_regs : Fld.regs ∈ F) (f_islands : Fld.islands ∈ F)
    (f_offers : Fld.offers ∈ F) (f_chans : Fld.chans ∈ F) (f_dieChs : Fld.dieChs ∈ F) (h : Keeps F s t) (c : Nat) (now : Bool) :
    Keeps F s (State.periodStart t c now) := by
  unfold State.periodStart
  with_reducible repeat' first
     | exact Keeps.refl _ | assumption | apply Keeps.ite | apply Keeps.ite2 | apply State.cap_keeps | apply State.pwmEdgeRun_keeps
     | apply State.setDieCh_keeps | apply State.setOut_keeps | apply State.setPh_keeps
     | (extract_lets +onlyGivenNames x; clear_value x) | split

theorem State.modeHML_keeps {F : List Fld} {s t : State} (f_regs : Fld.regs ∈ F) (f_islands : Fld.islands ∈ F)
    (f_offers : Fld.offers ∈ F) (f_chans : Fld.chans ∈ F) (f_dieChs : Fld.dieChs ∈ F) (h : Keeps F s t) (c : Nat) (mode : Nat) :
    Keeps F s (State.modeHML t c mode) := by
  unfold State.modeHML
  with_reducible repeat' first
     | exact Keeps.refl _ | assumption | apply Keeps.ite | apply State.setChan_keeps | apply State.setPh_keeps
     | apply State.turnOff_keeps | apply State.turnOn_keeps

theorem State.modeB_keeps {F : List Fld} {s t : State} (f_regs : Fld.regs ∈ F) (f_islands : Fld.islands ∈ F)
    (f_offers : Fld.offers ∈ F) (f_chans : Fld.chans ∈ F) (f_dieChs : Fld.dieChs ∈ F) (h : Keeps F s t) (c : Nat) (mode : Nat) :
    Keeps F s (State.modeB t c mode) := by
  unfold State.modeB
  with_reducible repeat' first
     | exact Keeps.refl _ | assumption | apply Keeps.ite | apply State.motUpdate_keeps | apply State.setBraking_keeps
     | apply State.setChan_keeps | apply State.setOut_keeps | apply State.setPh_keeps | apply State.turnOff_keeps
     | apply State.turnOn_keeps

theorem State.carrierStart_keeps {F : List Fld} {s t : State} (f_regs : Fld.regs ∈ F) (f_islands : Fld.islands ∈ F)
    (f_offers : Fld.offers ∈ F) (f_chans : Fld.chans ∈ F) (f_dieChs : Fld.dieChs ∈ F) (h : Keeps F s t) (c : Nat) (now : Bool) :
    Keeps F s (State.carrierStart t c now) := by
  unfold State.carrierStart
  with_reducible repeat' first
     | exact Keeps.refl _ | assumption | apply Keeps.ite | apply Keeps.ite2 | apply State.motUpdate_keeps
     | apply State.setDieCh_keeps | apply State.turnOn_keeps | (extract_lets +onlyGivenNames x; clear_value x) | split

theorem State.showChop_keeps {F : List Fld} {s t : State} (f_regs : Fld.regs ∈ F) (h : Keeps F s t) (c : Nat) :
    Keeps F s (State.showChop t c) := by
  unfold State.showChop
  with_reducible repeat' first
     | exact Keeps.refl _ | assumption | apply State.setF_keeps

theorem State.setSp_keeps {F : List Fld} {s t : State} (f_regs : Fld.regs ∈ F) (f_dieChs : Fld.dieChs ∈ F) (h : Keeps F s t)
    (c : Nat) (v : Nat) :
    Keeps F s (State.setSp t c v) := by
  unfold State.setSp
  with_reducible repeat' first
     | exact Keeps.refl _ | assumption | apply Keeps.ite | apply State.setDieCh_keeps | apply State.setF_keeps
     | apply State.setPh_keeps

theorem State.shUpdate_keeps {F : List Fld} {s t : State} (f_regs : Fld.regs ∈ F) (h : Keeps F s t) (k : Nat) :
    Keeps F s (State.shUpdate t k) := by
  unfold State.shUpdate
  with_reducible repeat' first
     | exact Keeps.refl _ | assumption | apply Keeps.ite | apply Keeps.ite2 | apply State.setF_keeps

theorem State.startRise_keeps {F : List Fld} {s t : State} (f_regs : Fld.regs ∈ F) (f_islands : Fld.islands ∈ F)
    (f_chans : Fld.chans ∈ F) (f_dieChs : Fld.dieChs ∈ F) (h : Keeps F s t) (c : Nat) :
    Keeps F s (State.startRise t c) := by
  unfold State.startRise
  with_reducible repeat' first
     | exact Keeps.refl _ | assumption | apply State.captureStart_keeps | apply State.fuse_keeps | apply State.incSat_keeps
     | apply State.setChan_keeps | apply State.setDieCh_keeps | apply State.setF_keeps | apply State.setReg_keeps
     | apply State.setSp_keeps | apply State.shUpdate_keeps | apply State.slotFilling_keeps | apply State.stampCmd_keeps
     | apply State.winStart_keeps

theorem State.lowRefuse_keeps {F : List Fld} {s t : State} (f_regs : Fld.regs ∈ F) (f_islands : Fld.islands ∈ F)
    (f_chans : Fld.chans ∈ F) (f_dieChs : Fld.dieChs ∈ F) (h : Keeps F s t) (c : Nat) :
    Keeps F s (State.lowRefuse t c) := by
  unfold State.lowRefuse
  with_reducible repeat' first
     | exact Keeps.refl _ | assumption | apply State.raise_keeps | apply State.setChan_keeps | apply State.setModeOff_keeps
     | apply State.setSp_keeps | apply State.stampCmd_keeps

theorem State.boostCheck_keeps {F : List Fld} {s t : State} (f_free : Fld.free ∈ F) (f_regs : Fld.regs ∈ F)
    (f_islands : Fld.islands ∈ F) (f_chans : Fld.chans ∈ F) (f_dieChs : Fld.dieChs ∈ F) (h : Keeps F s t) (c : Nat) :
    Keeps F s (State.boostCheck t c) := by
  unfold State.boostCheck
  with_reducible repeat' first
     | exact Keeps.refl _ | assumption | apply Keeps.ite | apply State.drawn_keeps | apply State.lowRefuse_keeps
     | apply State.setF_keeps | apply State.startRise_keeps

theorem State.boostCheckList_keeps {F : List Fld} {s t : State} (f_free : Fld.free ∈ F) (f_regs : Fld.regs ∈ F)
    (f_islands : Fld.islands ∈ F) (f_chans : Fld.chans ∈ F) (f_dieChs : Fld.dieChs ∈ F) (h : Keeps F s t)
    (l : List Nat) : Keeps F s (t.boostCheckList l) := by
  induction l generalizing t with
  | nil => exact h
  | cons c l ih =>
    unfold State.boostCheckList
    extract_lets u
    have hu : Keeps F s u := State.boostCheck_keeps f_free f_regs f_islands f_chans f_dieChs h _
    exact Keeps.ite hu (ih hu)

theorem State.overlapRefuse_keeps {F : List Fld} {s t : State} (f_regs : Fld.regs ∈ F) (f_islands : Fld.islands ∈ F)
    (f_offers : Fld.offers ∈ F) (f_chans : Fld.chans ∈ F) (f_dieChs : Fld.dieChs ∈ F) (h : Keeps F s t) (c : Nat) :
    Keeps F s (State.overlapRefuse t c) := by
  unfold State.overlapRefuse
  with_reducible repeat' first
     | exact Keeps.refl _ | assumption | apply State.chEvent_keeps | apply State.raise_keeps | apply State.setChan_keeps
     | apply State.setModeOff_keeps | apply State.setSp_keeps

theorem State.enterWait_keeps {F : List Fld} {s t : State} (f_free : Fld.free ∈ F) (f_regs : Fld.regs ∈ F)
    (f_islands : Fld.islands ∈ F) (f_offers : Fld.offers ∈ F) (f_chans : Fld.chans ∈ F) (f_dieChs : Fld.dieChs ∈ F)
    (h : Keeps F s t) (c : Nat) :
    Keeps F s (State.enterWait t c) := by
  unfold State.enterWait
  with_reducible repeat' first
     | exact Keeps.refl _ | assumption | apply Keeps.ite | apply Keeps.ite2 | apply State.boostCheck_keeps
     | apply State.overlapRefuse_keeps | apply State.raise_keeps | apply State.setChan_keeps | apply State.setDieCh_keeps
     | apply State.setF_keeps | apply State.setSp_keeps

theorem State.solTurnOn_keeps {F : List Fld} {s t : State} (f_free : Fld.free ∈ F) (f_regs : Fld.regs ∈ F)
    (f_islands : Fld.islands ∈ F) (f_offers : Fld.offers ∈ F) (f_chans : Fld.chans ∈ F) (f_dieChs : Fld.dieChs ∈ F)
    (h : Keeps F s t) (c : Nat) :
    Keeps F s (State.solTurnOn t c) := by
  unfold State.solTurnOn
  with_reducible repeat' first
     | exact Keeps.refl _ | assumption | apply Keeps.ite | apply State.chEvent_keeps | apply State.defer_keeps
     | apply State.enterWait_keeps | apply State.lowRefuse_keeps | apply State.raise_keeps | apply State.setModeOff_keeps
     | apply State.setPh_keeps | apply State.turnOnMark_keeps

theorem State.quench_keeps {F : List Fld} {s t : State} (f_regs : Fld.regs ∈ F) (f_chans : Fld.chans ∈ F)
    (f_dieChs : Fld.dieChs ∈ F) (h : Keeps F s t) (c : Nat) (after : Nat) :
    Keeps F s (State.quench t c after) := by
  unfold State.quench
  with_reducible repeat' first
     | exact Keeps.refl _ | assumption | apply State.runEnd_keeps | apply State.setChan_keeps | apply State.setDieCh_keeps
     | apply State.setOut_keeps | apply State.setSp_keeps | apply State.shUpdate_keeps

theorem State.modeS_keeps {F : List Fld} {s t : State} (f_free : Fld.free ∈ F) (f_regs : Fld.regs ∈ F)
    (f_islands : Fld.islands ∈ F) (f_offers : Fld.offers ∈ F) (f_chans : Fld.chans ∈ F) (f_dieChs : Fld.dieChs ∈ F)
    (h : Keeps F s t) (c : Nat) (mode : Nat) :
    Keeps F s (State.modeS t c mode) := by
  unfold State.modeS
  with_reducible repeat' first
     | exact Keeps.refl _ | assumption | apply Keeps.ite | apply Keeps.ite2 | apply State.captureDiscard_keeps
     | apply State.fuse_keeps | apply State.quench_keeps | apply State.setChan_keeps | apply State.setDieCh_keeps
     | apply State.setSp_keeps | apply State.solTurnOn_keeps

theorem State.applyMode_keeps {F : List Fld} {s t : State} (f_free : Fld.free ∈ F) (f_regs : Fld.regs ∈ F)
    (f_islands : Fld.islands ∈ F) (f_offers : Fld.offers ∈ F) (f_chans : Fld.chans ∈ F) (f_dieChs : Fld.dieChs ∈ F)
    (h : Keeps F s t) (c : Nat) (mode : Nat) :
    Keeps F s (State.applyMode t c mode) := by
  unfold State.applyMode
  with_reducible repeat' first
     | exact Keeps.refl _ | assumption | apply Keeps.ite | apply State.modeB_keeps | apply State.modeHML_keeps
     | apply State.modeS_keeps

theorem State.chCmdWrite_keeps {F : List Fld} {s t : State} (f_free : Fld.free ∈ F) (f_regs : Fld.regs ∈ F)
    (f_islands : Fld.islands ∈ F) (f_offers : Fld.offers ∈ F) (f_chans : Fld.chans ∈ F) (f_dieChs : Fld.dieChs ∈ F)
    (f_links : Fld.links ∈ F) (h : Keeps F s t) (init : Nat) (c : Nat) (mode : Nat) (tag : Nat) (restart : Bool) :
    Keeps F s (State.chCmdWrite t init c mode tag restart) := by
  unfold State.chCmdWrite
  with_reducible repeat' first
     | exact Keeps.refl _ | assumption | apply Keeps.ite | apply Keeps.ite2 | apply State.applyMode_keeps
     | apply State.chWrite_keeps | apply State.sendCh_keeps | apply State.setChan_keeps | apply State.setDieCh_keeps
     | apply State.setF_keeps | apply State.stampCmd_keeps | apply hf | intro x hx

theorem execChCmdOff_keeps {F : List Fld} {s t : State} (f_free : Fld.free ∈ F) (f_regs : Fld.regs ∈ F)
    (f_islands : Fld.islands ∈ F) (f_offers : Fld.offers ∈ F) (f_chans : Fld.chans ∈ F) (f_dieChs : Fld.dieChs ∈ F)
    (f_links : Fld.links ∈ F) (h : Keeps F s t) (c : Fin 132) (init : Byte) (tag : Byte) :
    KeepsOut F s (execChCmdOff c init tag t) := by
  unfold execChCmdOff
  with_reducible repeat' first
     | apply KeepsOut.next | exact Keeps.refl _ | assumption | apply State.chCmdWrite_keeps

theorem execChCmdOn_keeps {F : List Fld} {s t : State} (f_free : Fld.free ∈ F) (f_regs : Fld.regs ∈ F)
    (f_islands : Fld.islands ∈ F) (f_offers : Fld.offers ∈ F) (f_chans : Fld.chans ∈ F) (f_dieChs : Fld.dieChs ∈ F)
    (f_links : Fld.links ∈ F) (h : Keeps F s t) (c : Fin 132) (init : Byte) (tag : Byte) :
    KeepsOut F s (execChCmdOn c init tag t) := by
  unfold execChCmdOn
  with_reducible repeat' first
     | apply KeepsOut.next | exact Keeps.refl _ | assumption | apply State.chCmdWrite_keeps

theorem execChCmdPwm_keeps {F : List Fld} {s t : State} (f_free : Fld.free ∈ F) (f_regs : Fld.regs ∈ F)
    (f_islands : Fld.islands ∈ F) (f_offers : Fld.offers ∈ F) (f_chans : Fld.chans ∈ F) (f_dieChs : Fld.dieChs ∈ F)
    (f_links : Fld.links ∈ F) (h : Keeps F s t) (c : Fin 132) (init : Byte) (tag : Byte) :
    KeepsOut F s (execChCmdPwm c init tag t) := by
  unfold execChCmdPwm
  with_reducible repeat' first
     | apply KeepsOut.next | exact Keeps.refl _ | assumption | apply State.chCmdWrite_keeps

theorem execChCmdRestart_keeps {F : List Fld} {s t : State} (f_free : Fld.free ∈ F) (f_regs : Fld.regs ∈ F)
    (f_islands : Fld.islands ∈ F) (f_offers : Fld.offers ∈ F) (f_chans : Fld.chans ∈ F) (f_dieChs : Fld.dieChs ∈ F)
    (f_links : Fld.links ∈ F) (h : Keeps F s t) (c : Fin 132) (init : Byte) (mode : BitVec 2) (tag : Byte) :
    KeepsOut F s (execChCmdRestart c init mode tag t) := by
  unfold execChCmdRestart
  with_reducible repeat' first
     | apply KeepsOut.next | exact Keeps.refl _ | assumption | apply State.chCmdWrite_keeps

theorem State.chPwmWrite_keeps {F : List Fld} {s t : State} (f_regs : Fld.regs ∈ F) (f_islands : Fld.islands ∈ F)
    (f_chans : Fld.chans ∈ F) (f_links : Fld.links ∈ F) (h : Keeps F s t) (init : Nat) (c : Nat) (duty : Nat) (pdiv : Nat)
    (phase : Nat) :
    Keeps F s (State.chPwmWrite t init c duty pdiv phase) := by
  unfold State.chPwmWrite
  with_reducible repeat' first
     | exact Keeps.refl _ | assumption | apply State.chWrite_keeps | apply State.sendCh_keeps | apply State.setChan_keeps
     | apply State.setF_keeps | apply State.stampCmd_keeps | apply hf | intro x hx

theorem execChPwmWrite_keeps {F : List Fld} {s t : State} (f_regs : Fld.regs ∈ F) (f_islands : Fld.islands ∈ F)
    (f_chans : Fld.chans ∈ F) (f_links : Fld.links ∈ F) (h : Keeps F s t) (c : Fin 132) (init : Byte) (duty : BitVec 11)
    (pdiv : BitVec 2) (phase : BitVec 10) :
    KeepsOut F s (execChPwmWrite c init duty pdiv phase t) := by
  unfold execChPwmWrite
  with_reducible repeat' first
     | apply KeepsOut.next | exact Keeps.refl _ | assumption | apply State.chPwmWrite_keeps

theorem State.pwmOnEdge_keeps {F : List Fld} {s t : State} (f_regs : Fld.regs ∈ F) (f_islands : Fld.islands ∈ F)
    (f_offers : Fld.offers ∈ F) (f_chans : Fld.chans ∈ F) (f_dieChs : Fld.dieChs ∈ F) (h : Keeps F s t) (c : Nat) :
    Keeps F s (State.pwmOnEdge t c) := by
  unfold State.pwmOnEdge
  with_reducible repeat' first
     | exact Keeps.refl _ | assumption | apply Keeps.ite | apply State.activate_keeps | apply State.incSat_keeps
     | apply State.periodStart_keeps | apply State.pwmEdgeRun_keeps | apply State.setOut_keeps | apply State.startRun_keeps

theorem execPwmOnEdge_keeps {F : List Fld} {s t : State} (f_regs : Fld.regs ∈ F) (f_islands : Fld.islands ∈ F)
    (f_offers : Fld.offers ∈ F) (f_chans : Fld.chans ∈ F) (f_dies : Fld.dies ∈ F) (f_dieChs : Fld.dieChs ∈ F) (h : Keeps F s t)
    (c : Fin 132) :
    KeepsOut F s (execPwmOnEdge c t) := by
  unfold execPwmOnEdge
  with_reducible repeat' first
     | apply KeepsOut.next | exact Keeps.refl _ | assumption | apply KeepsOut.ite | apply Keeps.ite | apply State.inDie_keeps
     | apply State.pwmOnEdge_keeps | intro x hx

theorem State.pwmOffEdge_keeps {F : List Fld} {s t : State} (f_regs : Fld.regs ∈ F) (f_islands : Fld.islands ∈ F)
    (f_offers : Fld.offers ∈ F) (f_chans : Fld.chans ∈ F) (f_dieChs : Fld.dieChs ∈ F) (h : Keeps F s t) (c : Nat) :
    Keeps F s (State.pwmOffEdge t c) := by
  unfold State.pwmOffEdge
  with_reducible repeat' first
     | exact Keeps.refl _ | assumption | apply Keeps.ite | apply State.periodStart_keeps | apply State.runEnd_keeps
     | apply State.setDieCh_keeps | apply State.setOut_keeps | apply State.setPh_keeps

theorem execPwmOffEdge_keeps {F : List Fld} {s t : State} (f_regs : Fld.regs ∈ F) (f_islands : Fld.islands ∈ F)
    (f_offers : Fld.offers ∈ F) (f_chans : Fld.chans ∈ F) (f_dies : Fld.dies ∈ F) (f_dieChs : Fld.dieChs ∈ F) (h : Keeps F s t)
    (c : Fin 132) :
    KeepsOut F s (execPwmOffEdge c t) := by
  unfold execPwmOffEdge
  with_reducible repeat' first
     | apply KeepsOut.next | exact Keeps.refl _ | assumption | apply KeepsOut.ite | apply Keeps.ite | apply State.inDie_keeps
     | apply State.pwmOffEdge_keeps | intro x hx

theorem State.gateCloseCh_keeps {F : List Fld} {s t : State} (f_regs : Fld.regs ∈ F) (f_islands : Fld.islands ∈ F)
    (f_chans : Fld.chans ∈ F) (f_dieChs : Fld.dieChs ∈ F) (h : Keeps F s t) (c : Nat) :
    Keeps F s (State.gateCloseCh t c) := by
  unfold State.gateCloseCh
  with_reducible repeat' first
     | exact Keeps.refl _ | assumption | apply Keeps.ite | apply Keeps.ite2 | apply State.motUpdate_keeps
     | apply State.openOut_keeps | apply State.raise_keeps | apply State.setBraking_keeps | apply State.setChan_keeps
     | apply State.setPh_keeps | apply State.setRev_keeps | apply State.setSp_keeps | apply State.shUpdate_keeps
     | apply State.stamp_keeps

theorem State.gateOpenCh_keeps {F : List Fld} {s t : State} (f_free : Fld.free ∈ F) (f_regs : Fld.regs ∈ F)
    (f_islands : Fld.islands ∈ F) (f_offers : Fld.offers ∈ F) (f_chans : Fld.chans ∈ F) (f_dieChs : Fld.dieChs ∈ F)
    (h : Keeps F s t) (c : Nat) :
    Keeps F s (State.gateOpenCh t c) := by
  unfold State.gateOpenCh
  with_reducible repeat' first
     | exact Keeps.refl _ | assumption | apply Keeps.ite | apply State.applyMode_keeps | apply State.setPh_keeps

theorem State.gateSet_keeps {F : List Fld} {s t : State} (f_free : Fld.free ∈ F) (f_regs : Fld.regs ∈ F)
    (f_islands : Fld.islands ∈ F) (f_offers : Fld.offers ∈ F) (f_chans : Fld.chans ∈ F) (f_dies : Fld.dies ∈ F)
    (f_dieChs : Fld.dieChs ∈ F) (h : Keeps F s t) (n : Nat) (v : Bool) :
    Keeps F s (State.gateSet t n v) := by
  unfold State.gateSet
  with_reducible repeat' first
     | exact Keeps.refl _ | assumption | apply Keeps.ite | apply State.gateCloseCh_keeps | apply State.gateOpenCh_keeps
     | apply State.setDie_keeps | apply Keeps.foldl | intro x hx | intro y | (extract_lets +onlyGivenNames x; clear_value x)
     | split

theorem State.gateWrite_keeps {F : List Fld} {s t : State} (f_free : Fld.free ∈ F) (f_regs : Fld.regs ∈ F)
    (f_islands : Fld.islands ∈ F) (f_offers : Fld.offers ∈ F) (f_chans : Fld.chans ∈ F) (f_dies : Fld.dies ∈ F)
    (f_dieChs : Fld.dieChs ∈ F) (f_links : Fld.links ∈ F) (h : Keeps F s t) (n : Nat) (v : Bool) :
    Keeps F s (State.gateWrite t n v) := by
  unfold State.gateWrite
  with_reducible repeat' first
     | exact Keeps.refl _ | assumption | apply Keeps.ite | apply State.gateSet_keeps | apply State.send_keeps
     | apply State.setLnk_keeps

theorem execGateClose_keeps {F : List Fld} {s t : State} (f_free : Fld.free ∈ F) (f_regs : Fld.regs ∈ F)
    (f_islands : Fld.islands ∈ F) (f_offers : Fld.offers ∈ F) (f_chans : Fld.chans ∈ F) (f_dies : Fld.dies ∈ F)
    (f_dieChs : Fld.dieChs ∈ F) (f_links : Fld.links ∈ F) (h : Keeps F s t) (n : Fin 14) :
    KeepsOut F s (execGateClose n t) := by
  unfold execGateClose
  with_reducible repeat' first
     | apply KeepsOut.next | exact Keeps.refl _ | assumption | apply State.gateWrite_keeps

theorem execGateOpen_keeps {F : List Fld} {s t : State} (f_free : Fld.free ∈ F) (f_regs : Fld.regs ∈ F)
    (f_islands : Fld.islands ∈ F) (f_offers : Fld.offers ∈ F) (f_chans : Fld.chans ∈ F) (f_dies : Fld.dies ∈ F)
    (f_dieChs : Fld.dieChs ∈ F) (f_links : Fld.links ∈ F) (h : Keeps F s t) (n : Fin 14) :
    KeepsOut F s (execGateOpen n t) := by
  unfold execGateOpen
  with_reducible repeat' first
     | apply KeepsOut.next | exact Keeps.refl _ | assumption | apply State.gateWrite_keeps

theorem State.profCommit_keeps {F : List Fld} {s t : State} (f_regs : Fld.regs ∈ F) (f_islands : Fld.islands ∈ F)
    (f_chans : Fld.chans ∈ F) (h : Keeps F s t) (c : Nat) :
    Keeps F s (State.profCommit t c) := by
  unfold State.profCommit
  with_reducible repeat' first
     | exact Keeps.refl _ | assumption | apply Keeps.ite | apply State.raise_keeps | apply State.setChan_keeps
     | apply State.setF_keeps | apply State.stamp_keeps

theorem State.profCtlWrite_keeps {F : List Fld} {s t : State} (f_regs : Fld.regs ∈ F) (f_islands : Fld.islands ∈ F)
    (f_chans : Fld.chans ∈ F) (h : Keeps F s t) (init : Nat) (c : Nat) (w : Word) :
    Keeps F s (State.profCtlWrite t init c w) := by
  unfold State.profCtlWrite
  with_reducible repeat' first
     | exact Keeps.refl _ | assumption | apply Keeps.ite | apply State.chWrite_keeps | apply State.profCommit_keeps
     | apply State.setReg_keeps | apply hf | intro x hx

theorem execProfileCommit_keeps {F : List Fld} {s t : State} (f_regs : Fld.regs ∈ F) (f_islands : Fld.islands ∈ F)
    (f_chans : Fld.chans ∈ F) (h : Keeps F s t) (c : Fin 132) (init : Byte) (ctl : Word) :
    KeepsOut F s (execProfileCommit c init ctl t) := by
  unfold execProfileCommit
  with_reducible repeat' first
     | apply KeepsOut.next | exact Keeps.refl _ | assumption | apply State.profCtlWrite_keeps

theorem State.sendHi_keeps {F : List Fld} {s t : State} (f_links : Fld.links ∈ F) (h : Keeps F s t) (c : Nat) :
    Keeps F s (State.sendHi t c) := by
  unfold State.sendHi
  with_reducible repeat' first
     | exact Keeps.refl _ | assumption | apply Keeps.ite | apply State.sendCh_keeps | apply Keeps.foldl | apply hf | intro x hx
     | intro y

theorem execProfileTransferDone_keeps {F : List Fld} {s t : State} (f_regs : Fld.regs ∈ F) (f_chans : Fld.chans ∈ F)
    (f_dieChs : Fld.dieChs ∈ F) (f_links : Fld.links ∈ F) (h : Keeps F s t) (c : Fin 132) :
    KeepsOut F s (execProfileTransferDone c t) := by
  unfold execProfileTransferDone
  with_reducible repeat' first
     | apply KeepsOut.next | exact Keeps.refl _ | assumption | apply KeepsOut.ite | apply Keeps.ite | apply State.sendHi_keeps
     | apply State.setChan_keeps | apply State.setDieCh_keeps | apply State.setF_keeps

theorem execProfilePoint_keeps {F : List Fld} {s t : State} (f_regs : Fld.regs ∈ F) (f_chans : Fld.chans ∈ F)
    (f_dies : Fld.dies ∈ F) (f_dieChs : Fld.dieChs ∈ F) (h : Keeps F s t) (c : Fin 132) :
    KeepsOut F s (execProfilePoint c t) := by
  unfold execProfilePoint
  with_reducible repeat' first
     | apply KeepsOut.next | exact Keeps.refl _ | assumption | apply KeepsOut.ite | apply Keeps.ite | apply State.inDie_keeps
     | apply State.setOut_keeps | apply State.setPoint_keeps | apply hf | intro x hx

theorem State.profileEnd_keeps {F : List Fld} {s t : State} (f_regs : Fld.regs ∈ F) (f_islands : Fld.islands ∈ F)
    (f_offers : Fld.offers ∈ F) (f_chans : Fld.chans ∈ F) (f_dieChs : Fld.dieChs ∈ F) (h : Keeps F s t) (c : Nat) :
    Keeps F s (State.profileEnd t c) := by
  unfold State.profileEnd
  with_reducible repeat' first
     | exact Keeps.refl _ | assumption | apply Keeps.ite | apply State.runEnd_keeps | apply State.setDieCh_keeps
     | apply State.setOut_keeps | apply State.setPh_keeps | apply State.setVerdict_keeps

theorem execProfileEnd_keeps {F : List Fld} {s t : State} (f_regs : Fld.regs ∈ F) (f_islands : Fld.islands ∈ F)
    (f_offers : Fld.offers ∈ F) (f_chans : Fld.chans ∈ F) (f_dies : Fld.dies ∈ F) (f_dieChs : Fld.dieChs ∈ F) (h : Keeps F s t)
    (c : Fin 132) :
    KeepsOut F s (execProfileEnd c t) := by
  unfold execProfileEnd
  with_reducible repeat' first
     | apply KeepsOut.next | exact Keeps.refl _ | assumption | apply State.inDie_keeps | apply State.profileEnd_keeps | intro x hx

theorem State.setEnv_keeps {F : List Fld} {s t : State} (f_regs : Fld.regs ∈ F) (h : Keeps F s t) (c : Nat) (n : Nat) (lo : Nat)
    (hi : Nat) :
    Keeps F s (State.setEnv t c n lo hi) := by
  unfold State.setEnv
  with_reducible repeat' first
     | exact Keeps.refl _ | assumption | apply State.setF_keeps

theorem State.storeCapture_keeps {F : List Fld} {s t : State} (f_regs : Fld.regs ∈ F) (h : Keeps F s t) (c : Nat) (bins : List
    (BitVec 12)) (valid : Word) :
    Keeps F s (State.storeCapture t c bins valid) := by
  unfold State.storeCapture
  with_reducible repeat' first
     | exact Keeps.refl _ | assumption | apply State.setF_keeps | apply Keeps.foldl | intro x hx | intro y

theorem State.adaptBin_keeps {F : List Fld} {s t : State} (f_regs : Fld.regs ∈ F) (h : Keeps F s t) (c : Nat) (n : Nat) :
    Keeps F s (State.adaptBin t c n) := by
  unfold State.adaptBin
  with_reducible repeat' first
     | exact Keeps.refl _ | assumption | apply Keeps.ite | apply State.setEnv_keeps

theorem State.learnBin_keeps {F : List Fld} {s t : State} (f_regs : Fld.regs ∈ F) (h : Keeps F s t) (c : Nat) (seen : Nat)
    (n : Nat) :
    Keeps F s (State.learnBin t c seen n) := by
  unfold State.learnBin
  with_reducible repeat' first
     | exact Keeps.refl _ | assumption | apply Keeps.ite | apply State.setEnv_keeps

theorem State.learnDoneBin_keeps {F : List Fld} {s t : State} (f_regs : Fld.regs ∈ F) (h : Keeps F s t) (c : Nat) (n : Nat) :
    Keeps F s (State.learnDoneBin t c n) := by
  unfold State.learnDoneBin
  with_reducible repeat' first
     | exact Keeps.refl _ | assumption | apply State.setEnv_keeps | apply State.setF_keeps

theorem State.learn_keeps {F : List Fld} {s t : State} (f_regs : Fld.regs ∈ F) (f_islands : Fld.islands ∈ F)
    (f_chans : Fld.chans ∈ F) (f_links : Fld.links ∈ F) (h : Keeps F s t) (c : Nat) :
    Keeps F s (State.learn t c) := by
  unfold State.learn
  with_reducible repeat' first
     | exact Keeps.refl _ | assumption | apply Keeps.ite | apply State.learnBin_keeps | apply State.learnDoneBin_keeps
     | apply State.sendHi_keeps | apply State.setChan_keeps | apply State.setF_keeps | apply State.stamp_keeps | apply Keeps.foldl
     | apply hf | intro x hx

theorem State.classify_keeps {F : List Fld} {s t : State} (f_regs : Fld.regs ∈ F) (f_links : Fld.links ∈ F) (h : Keeps F s t)
    (c : Nat) :
    Keeps F s (State.classify t c).1 := by
  unfold State.classify
  with_reducible repeat' first
     | exact Keeps.refl _ | assumption | apply Keeps.ite | apply Keeps.ite2 | apply Keeps.ite1 | apply State.adaptBin_keeps
     | apply State.sendHi_keeps | apply Keeps.foldl | apply Keeps.foldl2 | apply Keeps.foldl1 | apply hf | intro x hx

theorem State.captureEnd_keeps {F : List Fld} {s t : State} (f_regs : Fld.regs ∈ F) (f_islands : Fld.islands ∈ F)
    (f_offers : Fld.offers ∈ F) (f_chans : Fld.chans ∈ F) (f_links : Fld.links ∈ F) (h : Keeps F s t) (c : Nat) (bins : List
    (BitVec 12)) (valid : Word) :
    Keeps F s (State.captureEnd t c bins valid) := by
  unfold State.captureEnd
  with_reducible repeat' first
     | exact Keeps.refl _ | assumption | apply Keeps.ite | apply Keeps.ite2 | apply State.captureEvidence_keeps
     | apply State.classify_keeps | apply State.incSat_keeps | apply State.learn_keeps | apply State.raise_keeps
     | apply State.setChan_keeps | apply State.setF_keeps | apply State.slotUpdate_keeps | apply State.stamp_keeps
     | apply State.storeCapture_keeps

theorem execCaptureEnd_keeps {F : List Fld} {s t : State} (f_regs : Fld.regs ∈ F) (f_islands : Fld.islands ∈ F)
    (f_offers : Fld.offers ∈ F) (f_chans : Fld.chans ∈ F) (f_dies : Fld.dies ∈ F) (f_dieChs : Fld.dieChs ∈ F)
    (f_links : Fld.links ∈ F) (h : Keeps F s t) (c : Fin 132) (bins : List (BitVec 12)) (valid : Word) :
    KeepsOut F s (execCaptureEnd c bins valid t) := by
  unfold execCaptureEnd
  with_reducible repeat' first
     | apply KeepsOut.next | exact Keeps.refl _ | assumption | apply KeepsOut.ite | apply Keeps.ite | apply State.captureEnd_keeps
     | apply State.inDie_keeps | apply State.profileEnd_keeps | intro x hx

theorem State.sigCfgWrite_keeps {F : List Fld} {s t : State} (f_regs : Fld.regs ∈ F) (f_islands : Fld.islands ∈ F)
    (f_links : Fld.links ∈ F) (h : Keeps F s t) (init : Nat) (c : Nat) (w : Word) :
    Keeps F s (State.sigCfgWrite t init c w) := by
  unfold State.sigCfgWrite
  with_reducible repeat' first
     | exact Keeps.refl _ | assumption | apply Keeps.ite | apply State.chWrite_keeps | apply State.sendCh_keeps
     | apply State.setEnv_keeps | apply State.setF_keeps | apply State.setReg_keeps | apply Keeps.foldl | apply hf | intro x hx
     | intro y

theorem execEnvelopeLearn_keeps {F : List Fld} {s t : State} (f_regs : Fld.regs ∈ F) (f_islands : Fld.islands ∈ F)
    (f_links : Fld.links ∈ F) (h : Keeps F s t) (c : Fin 132) (init : Byte) (cfg : Word) :
    KeepsOut F s (execEnvelopeLearn c init cfg t) := by
  unfold execEnvelopeLearn
  with_reducible repeat' first
     | apply KeepsOut.next | exact Keeps.refl _ | assumption | apply State.sigCfgWrite_keeps

theorem State.envWrite_keeps {F : List Fld} {s t : State} (f_regs : Fld.regs ∈ F) (f_islands : Fld.islands ∈ F)
    (f_links : Fld.links ∈ F) (h : Keeps F s t) (init : Nat) (c : Nat) (n : Nat) (w : Word) :
    Keeps F s (State.envWrite t init c n w) := by
  unfold State.envWrite
  with_reducible repeat' first
     | exact Keeps.refl _ | assumption | apply State.chWrite_keeps | apply State.sendHi_keeps | apply State.setF_keeps
     | apply State.setReg_keeps | intro x hx

theorem execEnvelopeWrite_keeps {F : List Fld} {s t : State} (f_regs : Fld.regs ∈ F) (f_islands : Fld.islands ∈ F)
    (f_links : Fld.links ∈ F) (h : Keeps F s t) (c : Fin 132) (init : Byte) (n : Fin 32) (w : Word) :
    KeepsOut F s (execEnvelopeWrite c init n w t) := by
  unfold execEnvelopeWrite
  with_reducible repeat' first
     | apply KeepsOut.next | exact Keeps.refl _ | assumption | apply State.envWrite_keeps

theorem execSlotTake_keeps {F : List Fld} {s t : State} (f_regs : Fld.regs ∈ F) (h : Keeps F s t) (unit : Byte) (index : Byte)
    (slot : Byte) :
    KeepsOut F s (execSlotTake unit index slot t) := by
  unfold execSlotTake
  with_reducible repeat' first
     | apply KeepsOut.next | exact Keeps.refl _ | assumption | apply State.slotTake_keeps | split

theorem execCurrentWindow_keeps {F : List Fld} {s t : State} (f_regs : Fld.regs ∈ F) (f_islands : Fld.islands ∈ F)
    (f_offers : Fld.offers ∈ F) (f_chans : Fld.chans ∈ F) (f_dieChs : Fld.dieChs ∈ F) (h : Keeps F s t) (c : Fin 132)
    (mean : BitVec 16) (onUs : BitVec 16) :
    KeepsOut F s (execCurrentWindow c mean onUs t) := by
  unfold execCurrentWindow
  with_reducible repeat' first
     | apply KeepsOut.next | exact Keeps.refl _ | assumption | apply KeepsOut.ite | apply Keeps.ite
     | apply State.carrierStart_keeps | apply State.evidence_keeps | apply State.setChan_keeps | apply State.setF_keeps
     | apply State.setVerdict_keeps | apply State.showChop_keeps | apply State.slotUpdate_keeps | apply State.winStart_keeps

end Sys2Proof.Machine
end

