-- ==== Sys2Proof/Laws/KeepsBus.lean ====
section
/-! SUPPORT. What the operations and meanings of Machine/Bus.lean keep. -/

namespace Sys2Proof.Machine

theorem State.setMf_keeps {F : List Fld} {s t : State} (f_mem : Fld.mem ∈ F) (h : Keeps F s t) (r : RF) (v : Nat) :
    Keeps F s (State.setMf t r v) := by
  unfold State.setMf
  with_reducible repeat' first
     | exact Keeps.refl _ | assumption | apply State.wrN_keeps

theorem State.setTrxOf_keeps {F : List Fld} {s t : State} (f_trx : Fld.trx ∈ F) (h : Keeps F s t) (t' : Nat) (x : Trx) :
    Keeps F s (State.setTrxOf t t' x) := by
  unfold State.setTrxOf
  with_reducible repeat' first
     | exact Keeps.refl _ | assumption | apply hf | intro x hx | intro y | apply Keeps.upd_trx

theorem State.inhUpdate_keeps {F : List Fld} {s t : State} (f_pwr : Fld.pwr ∈ F) (h : Keeps F s t)  :
    Keeps F s (State.inhUpdate t) := by
  unfold State.inhUpdate
  with_reducible repeat' first
     | exact Keeps.refl _ | assumption | (extract_lets +onlyGivenNames x; clear_value x) | apply Keeps.upd_pwr

theorem State.trxEnter_keeps {F : List Fld} {s t : State} (f_regs : Fld.regs ∈ F) (f_pwr : Fld.pwr ∈ F) (h : Keeps F s t)
    (t' : Nat) (st : Nat) :
    Keeps F s (State.trxEnter t t' st) := by
  unfold State.trxEnter
  with_reducible repeat' first
     | exact Keeps.refl _ | assumption | apply State.inhUpdate_keeps | apply State.setF_keeps

theorem State.trxGo_keeps {F : List Fld} {s t : State} (f_regs : Fld.regs ∈ F) (f_trx : Fld.trx ∈ F) (f_pwr : Fld.pwr ∈ F)
    (h : Keeps F s t) (t' : Nat) (req : Nat) :
    Keeps F s (State.trxGo t t' req) := by
  unfold State.trxGo
  with_reducible repeat' first
     | exact Keeps.refl _ | assumption | apply Keeps.ite | apply State.setF_keeps | apply State.setTrxOf_keeps
     | apply State.trxEnter_keeps

theorem State.trxReq_keeps {F : List Fld} {s t : State} (f_regs : Fld.regs ∈ F) (f_trx : Fld.trx ∈ F) (f_pwr : Fld.pwr ∈ F)
    (h : Keeps F s t) (t' : Nat) (req : Nat) :
    Keeps F s (State.trxReq t t' req) := by
  unfold State.trxReq
  with_reducible repeat' first
     | exact Keeps.refl _ | assumption | apply State.setF_keeps | apply State.trxGo_keeps

theorem State.trxSlept_keeps {F : List Fld} {s t : State} (f_regs : Fld.regs ∈ F) (f_trx : Fld.trx ∈ F) (f_pwr : Fld.pwr ∈ F)
    (h : Keeps F s t) (t' : Nat) :
    Keeps F s (State.trxSlept t t') := by
  unfold State.trxSlept
  with_reducible repeat' first
     | exact Keeps.refl _ | assumption | apply State.setTrxOf_keeps | apply State.trxEnter_keeps | apply State.trxGo_keeps
     | (extract_lets +onlyGivenNames x; first | (refine Keeps.cut F s x ?_ (fun hx => ?_); rotate_left 1; clear_value x; rotate_left 1; unfold x) | clear_value x)
     | split

theorem State.stampPwr_keeps {F : List Fld} {s t : State} (f_regs : Fld.regs ∈ F) (f_islands : Fld.islands ∈ F)
    (h : Keeps F s t) (isl : Nat) (event : Nat) (data : Nat) :
    Keeps F s (State.stampPwr t isl event data) := by
  unfold State.stampPwr
  with_reducible repeat' first
     | exact Keeps.refl _ | assumption | apply State.stamp_keeps

theorem State.entryEnd_keeps {F : List Fld} {s t : State} (f_regs : Fld.regs ∈ F) (f_pwr : Fld.pwr ∈ F) (h : Keeps F s t)
    (status : Nat) :
    Keeps F s (State.entryEnd t status) := by
  unfold State.entryEnd
  with_reducible repeat' first
     | exact Keeps.refl _ | assumption | apply State.setF_keeps
     | (extract_lets +onlyGivenNames x; first | (refine Keeps.cut F s x ?_ (fun hx => ?_); rotate_left 1; clear_value x; rotate_left 1; unfold x) | clear_value x)
     | dsimp only | apply Keeps.upd_pwr

theorem State.expAsk_keeps {F : List Fld} {s t : State} (f_trk : Fld.trk ∈ F) (h : Keeps F s t) (n : Nat) (target : Nat) :
    Keeps F s (State.expAsk t n target) := by
  unfold State.expAsk
  with_reducible repeat' first
     | exact Keeps.refl _ | assumption | apply State.trkSend_keeps

theorem State.expUndo_keeps {F : List Fld} {s t : State} (f_trk : Fld.trk ∈ F) (h : Keeps F s t)  :
    Keeps F s (State.expUndo t) := by
  unfold State.expUndo
  with_reducible repeat' first
     | exact Keeps.refl _ | assumption | apply Keeps.ite | apply State.expAsk_keeps | apply State.trkWake_keeps
     | apply Keeps.foldl | intro x hx | intro y

theorem State.trxUndo_keeps {F : List Fld} {s t : State} (f_regs : Fld.regs ∈ F) (f_trx : Fld.trx ∈ F) (f_pwr : Fld.pwr ∈ F)
    (h : Keeps F s t)  :
    Keeps F s (State.trxUndo t) := by
  unfold State.trxUndo
  with_reducible repeat' first
     | exact Keeps.refl _ | assumption | apply State.setTrxOf_keeps | apply State.trxReq_keeps | apply Keeps.foldl | apply hf
     | intro x hx | intro y | (extract_lets +onlyGivenNames x; clear_value x) | split

theorem State.entryAbort_keeps {F : List Fld} {s t : State} (f_regs : Fld.regs ∈ F) (f_islands : Fld.islands ∈ F)
    (f_trx : Fld.trx ∈ F) (f_pwr : Fld.pwr ∈ F) (f_trk : Fld.trk ∈ F) (h : Keeps F s t)  :
    Keeps F s (State.entryAbort t) := by
  unfold State.entryAbort
  with_reducible repeat' first
     | exact Keeps.refl _ | assumption | apply State.entryEnd_keeps | apply State.expUndo_keeps | apply State.incSat_keeps
     | apply State.setF_keeps | apply State.stampPwr_keeps | apply State.trxUndo_keeps
     | (extract_lets +onlyGivenNames x; first | (refine Keeps.cut F s x ?_ (fun hx => ?_); rotate_left 1; clear_value x; rotate_left 1; unfold x) | clear_value x)
     | dsimp only | apply Keeps.upd_pwr

theorem State.wakeSource_keeps {F : List Fld} {s t : State} (f_regs : Fld.regs ∈ F) (f_islands : Fld.islands ∈ F)
    (f_trx : Fld.trx ∈ F) (f_pwr : Fld.pwr ∈ F) (f_trk : Fld.trk ∈ F) (h : Keeps F s t) (bit : Nat) :
    Keeps F s (State.wakeSource t bit) := by
  unfold State.wakeSource
  with_reducible repeat' first
     | exact Keeps.refl _ | assumption | apply Keeps.ite | apply Keeps.ite2 | apply State.entryAbort_keeps
     | apply State.offerRec_keeps | apply State.raiseBits_keeps | (extract_lets +onlyGivenNames x; clear_value x) | split
     | dsimp only | apply Keeps.upd_pwr

end Sys2Proof.Machine
end

