-- ==== Sys2Proof/Laws/KeepsProtection.lean ====
section
/-! SUPPORT. What the operations and meanings of Machine/Protection.lean keep. -/

namespace Sys2Proof.Machine

theorem State.markFdm_keeps {F : List Fld} {s t : State} (f_regs : Fld.regs ∈ F) (f_chans : Fld.chans ∈ F)
    (f_dies : Fld.dies ∈ F) (h : Keeps F s t) (n : Nat) :
    Keeps F s (State.markFdm t n) := by
  unfold State.markFdm
  with_reducible repeat' first
     | exact Keeps.refl _ | assumption | apply State.setChan_keeps | apply State.setDie_keeps | apply State.setF_keeps
     | apply Keeps.foldl | apply Keeps.foldl2 | apply Keeps.foldl1 | apply hf | intro x hx | intro y

theorem State.tripFlags_keeps {F : List Fld} {s t : State} (f_regs : Fld.regs ∈ F) (f_islands : Fld.islands ∈ F)
    (f_offers : Fld.offers ∈ F) (h : Keeps F s t) (c : Nat) (kind : Nat) :
    Keeps F s (State.tripFlags t c kind) := by
  unfold State.tripFlags
  with_reducible repeat' first
     | exact Keeps.refl _ | assumption | apply State.evidence_keeps | apply State.incSat_keeps | apply State.raise_keeps | split

theorem State.tripContext_keeps {F : List Fld} {s t : State} (f_regs : Fld.regs ∈ F) (f_islands : Fld.islands ∈ F)
    (f_offers : Fld.offers ∈ F) (h : Keeps F s t) (c : Nat) (kind : Nat) (cor : Bool) (out : Bool) (t' : Slate) :
    Keeps F s (State.tripContext t c kind cor out t') := by
  unfold State.tripContext
  with_reducible repeat' first
     | exact Keeps.refl _ | assumption | apply Keeps.ite | apply State.chEventAt_keeps | apply State.tripFlags_keeps

theorem State.tripDie_keeps {F : List Fld} {s t : State} (f_regs : Fld.regs ∈ F) (f_chans : Fld.chans ∈ F)
    (f_dies : Fld.dies ∈ F) (f_dieChs : Fld.dieChs ∈ F) (h : Keeps F s t) (c : Nat) (kind : Nat) :
    Keeps F s (State.tripDie t c kind) := by
  unfold State.tripDie
  with_reducible repeat' first
     | exact Keeps.refl _ | assumption | apply Keeps.ite | apply Keeps.ite2 | apply State.markFdm_keeps
     | apply State.motUpdate_keeps | apply State.runEnd_keeps | apply State.setBraking_keeps | apply State.setChan_keeps
     | apply State.setDieCh_keeps | apply State.setOut_keeps | apply State.setRev_keeps

theorem State.tripMove_keeps {F : List Fld} {s t : State} (f_regs : Fld.regs ∈ F) (f_chans : Fld.chans ∈ F)
    (f_dieChs : Fld.dieChs ∈ F) (h : Keeps F s t) (c : Nat) :
    Keeps F s (State.tripMove t c) := by
  unfold State.tripMove
  with_reducible repeat' first
     | exact Keeps.refl _ | assumption | apply Keeps.ite | apply State.quench_keeps | apply State.setPh_keeps
     | apply State.setSp_keeps

theorem State.trip_keeps {F : List Fld} {s t : State} (f_regs : Fld.regs ∈ F) (f_islands : Fld.islands ∈ F)
    (f_offers : Fld.offers ∈ F) (f_chans : Fld.chans ∈ F) (f_dies : Fld.dies ∈ F) (f_dieChs : Fld.dieChs ∈ F)
    (f_trx : Fld.trx ∈ F) (f_pwr : Fld.pwr ∈ F) (f_trk : Fld.trk ∈ F) (h : Keeps F s t) (c : Nat) (kind : Nat) :
    Keeps F s (State.trip t c kind) := by
  unfold State.trip
  with_reducible repeat' first
     | exact Keeps.refl _ | assumption | apply Keeps.ite | apply State.asDie_keeps | apply State.inDieQ_keeps
     | apply State.storeEvent_keeps | apply State.tripContext_keeps | apply State.tripDie_keeps | apply State.tripMove_keeps
     | apply State.wakeSource_keeps | apply hf | intro x hx

theorem execFastTrip_keeps {F : List Fld} {s t : State} (f_regs : Fld.regs ∈ F) (f_islands : Fld.islands ∈ F)
    (f_offers : Fld.offers ∈ F) (f_chans : Fld.chans ∈ F) (f_dies : Fld.dies ∈ F) (f_dieChs : Fld.dieChs ∈ F)
    (f_trx : Fld.trx ∈ F) (f_pwr : Fld.pwr ∈ F) (f_trk : Fld.trk ∈ F) (h : Keeps F s t) (c : Fin 132) :
    KeepsOut F s (execFastTrip c t) := by
  unfold execFastTrip
  with_reducible repeat' first
     | apply KeepsOut.next | exact Keeps.refl _ | assumption | apply KeepsOut.ite | apply Keeps.ite | apply State.trip_keeps

theorem State.overtempCh_keeps {F : List Fld} {s t : State} (f_regs : Fld.regs ∈ F) (f_islands : Fld.islands ∈ F)
    (f_offers : Fld.offers ∈ F) (f_chans : Fld.chans ∈ F) (f_dies : Fld.dies ∈ F) (f_dieChs : Fld.dieChs ∈ F)
    (f_trx : Fld.trx ∈ F) (f_pwr : Fld.pwr ∈ F) (f_trk : Fld.trk ∈ F) (h : Keeps F s t) (c : Nat) :
    Keeps F s (State.overtempCh t c) := by
  unfold State.overtempCh
  with_reducible repeat' first
     | exact Keeps.refl _ | assumption | apply Keeps.ite | apply Keeps.ite2 | apply State.inDie_keeps | apply State.inDieQ_keeps
     | apply State.motUpdate_keeps | apply State.setBraking_keeps | apply State.setDieCh_keeps | apply State.storeEvent_keeps
     | apply State.trip_keeps | apply State.tripFlags_keeps | apply hf | intro x hx

theorem execDieOvertemp_keeps {F : List Fld} {s t : State} (f_regs : Fld.regs ∈ F) (f_islands : Fld.islands ∈ F)
    (f_offers : Fld.offers ∈ F) (f_chans : Fld.chans ∈ F) (f_dies : Fld.dies ∈ F) (f_dieChs : Fld.dieChs ∈ F)
    (f_trx : Fld.trx ∈ F) (f_pwr : Fld.pwr ∈ F) (f_trk : Fld.trk ∈ F) (h : Keeps F s t) (n : Fin 14) :
    KeepsOut F s (execDieOvertemp n t) := by
  unfold execDieOvertemp
  with_reducible repeat' first
     | apply KeepsOut.next | exact Keeps.refl _ | assumption | apply KeepsOut.ite | apply Keeps.ite | apply State.incSat_keeps
     | apply State.overtempCh_keeps | apply State.setDie_keeps | apply State.storeEvent_keeps | apply Keeps.foldl | intro x hx

theorem execDieOvertempClear_keeps {F : List Fld} {s t : State} (f_dies : Fld.dies ∈ F) (h : Keeps F s t) (n : Fin 14) :
    KeepsOut F s (execDieOvertempClear n t) := by
  unfold execDieOvertempClear
  with_reducible repeat' first
     | apply KeepsOut.next | exact Keeps.refl _ | assumption | apply KeepsOut.ite | apply Keeps.ite | apply State.setDie_keeps

theorem execBudgetInterval_keeps {F : List Fld} {s t : State} (f_regs : Fld.regs ∈ F) (f_islands : Fld.islands ∈ F)
    (f_offers : Fld.offers ∈ F) (f_chans : Fld.chans ∈ F) (f_dies : Fld.dies ∈ F) (f_dieChs : Fld.dieChs ∈ F)
    (f_trx : Fld.trx ∈ F) (f_pwr : Fld.pwr ∈ F) (f_trk : Fld.trk ∈ F) (h : Keeps F s t) (c : Fin 132) (bin : BitVec 16)
    (mean : BitVec 16) :
    KeepsOut F s (execBudgetInterval c bin mean t) := by
  unfold execBudgetInterval
  with_reducible repeat' first
     | apply KeepsOut.next | exact Keeps.refl _ | assumption | apply KeepsOut.ite | apply Keeps.ite | apply State.setDieCh_keeps
     | apply State.trip_keeps

theorem execFdmExpire_keeps {F : List Fld} {s t : State} (f_regs : Fld.regs ∈ F) (f_dies : Fld.dies ∈ F) (h : Keeps F s t)
    (n : Fin 14) :
    KeepsOut F s (execFdmExpire n t) := by
  unfold execFdmExpire
  with_reducible repeat' first
     | apply KeepsOut.next | exact Keeps.refl _ | assumption | apply KeepsOut.ite | apply Keeps.ite | apply State.inDieQ_keeps
     | apply State.setDie_keeps | apply State.setF_keeps | apply Keeps.foldl | apply hf | intro x hx | intro y

theorem execShortBatDetect_keeps {F : List Fld} {s t : State} (f_regs : Fld.regs ∈ F) (f_islands : Fld.islands ∈ F)
    (f_offers : Fld.offers ∈ F) (h : Keeps F s t) (c : Fin 132) :
    KeepsOut F s (execShortBatDetect c t) := by
  unfold execShortBatDetect
  with_reducible repeat' first
     | apply KeepsOut.next | exact Keeps.refl _ | assumption | apply KeepsOut.ite | apply Keeps.ite | apply State.evidence_keeps

theorem execShortBatClear_keeps {F : List Fld} {s t : State} (f_regs : Fld.regs ∈ F) (f_islands : Fld.islands ∈ F)
    (f_offers : Fld.offers ∈ F) (h : Keeps F s t) (c : Fin 132) :
    KeepsOut F s (execShortBatClear c t) := by
  unfold execShortBatClear
  with_reducible repeat' first
     | apply KeepsOut.next | exact Keeps.refl _ | assumption | apply KeepsOut.ite | apply Keeps.ite | apply State.setVerdict_keeps

theorem State.retryStart_keeps {F : List Fld} {s t : State} (f_free : Fld.free ∈ F) (f_regs : Fld.regs ∈ F)
    (f_islands : Fld.islands ∈ F) (f_offers : Fld.offers ∈ F) (f_chans : Fld.chans ∈ F) (f_dieChs : Fld.dieChs ∈ F)
    (f_boost : Fld.boost ∈ F) (h : Keeps F s t) (c : Nat) :
    Keeps F s (State.retryStart t c) := by
  unfold State.retryStart
  with_reducible repeat' first
     | exact Keeps.refl _ | assumption | apply Keeps.ite | apply State.enterWait_keeps | apply State.incSat_keeps
     | apply State.motUpdate_keeps | apply State.setDieCh_keeps | apply State.setRev_keeps | apply State.shUpdate_keeps
     | apply State.startRun_keeps | (extract_lets +onlyGivenNames x; clear_value x) | split | apply Keeps.upd_boost

theorem execRetryDelayExpire_keeps {F : List Fld} {s t : State} (f_free : Fld.free ∈ F) (f_regs : Fld.regs ∈ F)
    (f_islands : Fld.islands ∈ F) (f_offers : Fld.offers ∈ F) (f_chans : Fld.chans ∈ F) (f_dieChs : Fld.dieChs ∈ F)
    (f_boost : Fld.boost ∈ F) (h : Keeps F s t) (c : Fin 132) :
    KeepsOut F s (execRetryDelayExpire c t) := by
  unfold execRetryDelayExpire
  with_reducible repeat' first
     | apply KeepsOut.next | exact Keeps.refl _ | assumption | apply KeepsOut.ite | apply Keeps.ite | apply Keeps.ite2
     | apply State.retryStart_keeps | apply State.setChan_keeps | apply State.setDieCh_keeps

theorem execUsedReset_keeps {F : List Fld} {s t : State} (f_regs : Fld.regs ∈ F) (h : Keeps F s t) (c : Fin 132) :
    KeepsOut F s (execUsedReset c t) := by
  unfold execUsedReset
  with_reducible repeat' first
     | apply KeepsOut.next | exact Keeps.refl _ | assumption | apply KeepsOut.ite | apply Keeps.ite | apply State.setF_keeps

end Sys2Proof.Machine
end

