-- ==== Sys2Proof/Laws/KeepsDrives.lean ====
section
/-! SUPPORT. What the operations and meanings of Machine/Drives.lean keep. -/

namespace Sys2Proof.Machine

theorem State.drvApply_keeps {F : List Fld} {s t : State} (f_regs : Fld.regs ∈ F) (f_chans : Fld.chans ∈ F)
    (f_dieChs : Fld.dieChs ∈ F) (h : Keeps F s t) (c : Nat) (dir : Nat) (stop : Nat) :
    Keeps F s (State.drvApply t c dir stop) := by
  unfold State.drvApply
  with_reducible repeat' first
     | exact Keeps.refl _ | assumption | apply Keeps.ite | apply Keeps.ite2 | apply State.legStop_keeps
     | apply State.motUpdate_keeps | apply State.openOut_keeps | apply State.setChan_keeps | apply State.setDieCh_keeps
     | apply State.setPh_keeps | apply State.setRev_keeps

theorem State.bDrvWrite_keeps {F : List Fld} {s t : State} (f_regs : Fld.regs ∈ F) (f_islands : Fld.islands ∈ F)
    (f_chans : Fld.chans ∈ F) (f_dieChs : Fld.dieChs ∈ F) (f_links : Fld.links ∈ F) (h : Keeps F s t) (init : Nat) (c : Nat)
    (w : Word) :
    Keeps F s (State.bDrvWrite t init c w) := by
  unfold State.bDrvWrite
  with_reducible repeat' first
     | exact Keeps.refl _ | assumption | apply Keeps.ite | apply State.chWrite_keeps | apply State.drvApply_keeps
     | apply State.sendCh_keeps | apply State.setChan_keeps | apply State.setReg_keeps | apply State.stampCmd_keeps | apply hf
     | intro x hx

theorem execBridgeDirChange_keeps {F : List Fld} {s t : State} (f_regs : Fld.regs ∈ F) (f_islands : Fld.islands ∈ F)
    (f_chans : Fld.chans ∈ F) (f_dieChs : Fld.dieChs ∈ F) (f_links : Fld.links ∈ F) (h : Keeps F s t) (c : Fin 132)
    (init : Byte) (w : Word) :
    KeepsOut F s (execBridgeDirChange c init w t) := by
  unfold execBridgeDirChange
  with_reducible repeat' first
     | apply KeepsOut.next | exact Keeps.refl _ | assumption | apply State.bDrvWrite_keeps

theorem State.reversalTurnOn_keeps {F : List Fld} {s t : State} (f_regs : Fld.regs ∈ F) (f_islands : Fld.islands ∈ F)
    (f_offers : Fld.offers ∈ F) (f_chans : Fld.chans ∈ F) (f_dieChs : Fld.dieChs ∈ F) (h : Keeps F s t) (c : Nat) :
    Keeps F s (State.reversalTurnOn t c) := by
  unfold State.reversalTurnOn
  with_reducible repeat' first
     | exact Keeps.refl _ | assumption | apply Keeps.ite | apply State.defer_keeps | apply State.incSat_keeps
     | apply State.motUpdate_keeps | apply State.setChan_keeps | apply State.setPh_keeps | apply State.setRev_keeps
     | apply State.startRun_keeps | apply State.turnOnMark_keeps

theorem execReversalWaitExpire_keeps {F : List Fld} {s t : State} (f_regs : Fld.regs ∈ F) (f_islands : Fld.islands ∈ F)
    (f_offers : Fld.offers ∈ F) (f_chans : Fld.chans ∈ F) (f_dies : Fld.dies ∈ F) (f_dieChs : Fld.dieChs ∈ F) (h : Keeps F s t)
    (c : Fin 132) :
    KeepsOut F s (execReversalWaitExpire c t) := by
  unfold execReversalWaitExpire
  with_reducible repeat' first
     | apply KeepsOut.next | exact Keeps.refl _ | assumption | apply KeepsOut.ite | apply Keeps.ite | apply State.inDie_keeps
     | apply State.reversalTurnOn_keeps | intro x hx

theorem execBrakeEnd_keeps {F : List Fld} {s t : State} (f_regs : Fld.regs ∈ F) (f_dies : Fld.dies ∈ F)
    (f_dieChs : Fld.dieChs ∈ F) (h : Keeps F s t) (c : Fin 132) :
    KeepsOut F s (execBrakeEnd c t) := by
  unfold execBrakeEnd
  with_reducible repeat' first
     | apply KeepsOut.next | exact Keeps.refl _ | assumption | apply KeepsOut.ite | apply Keeps.ite | apply State.asDie_keeps
     | apply State.inDie_keeps | apply State.motUpdate_keeps | apply State.setBraking_keeps | intro x hx

theorem execCeilingChop_keeps {F : List Fld} {s t : State} (f_regs : Fld.regs ∈ F) (f_dies : Fld.dies ∈ F)
    (f_dieChs : Fld.dieChs ∈ F) (h : Keeps F s t) (c : Fin 132) :
    KeepsOut F s (execCeilingChop c t) := by
  unfold execCeilingChop
  with_reducible repeat' first
     | apply KeepsOut.next | exact Keeps.refl _ | assumption | apply KeepsOut.ite | apply Keeps.ite | apply State.inDie_keeps
     | apply State.setDieCh_keeps | apply State.setF_keeps | apply hf | intro x hx

theorem execOverloadTrip_keeps {F : List Fld} {s t : State} (f_regs : Fld.regs ∈ F) (f_islands : Fld.islands ∈ F)
    (f_offers : Fld.offers ∈ F) (f_chans : Fld.chans ∈ F) (f_dies : Fld.dies ∈ F) (f_dieChs : Fld.dieChs ∈ F)
    (f_trx : Fld.trx ∈ F) (f_pwr : Fld.pwr ∈ F) (f_trk : Fld.trk ∈ F) (h : Keeps F s t) (c : Fin 132) :
    KeepsOut F s (execOverloadTrip c t) := by
  unfold execOverloadTrip
  with_reducible repeat' first
     | apply KeepsOut.next | exact Keeps.refl _ | assumption | apply KeepsOut.ite | apply Keeps.ite | apply State.inDieQ_keeps
     | apply State.setChan_keeps | apply State.setF_keeps | apply State.trip_keeps | apply hf | intro x hx

theorem execStreamSample_keeps {F : List Fld} {s t : State} (f_regs : Fld.regs ∈ F) (f_offers : Fld.offers ∈ F)
    (f_chans : Fld.chans ∈ F) (h : Keeps F s t) (c : Fin 132) (v : BitVec 16) :
    KeepsOut F s (execStreamSample c v t) := by
  unfold execStreamSample
  with_reducible repeat' first
     | apply KeepsOut.next | exact Keeps.refl _ | assumption | apply KeepsOut.ite | apply Keeps.ite | apply State.chCue_keeps
     | apply State.incMod_keeps | apply State.raise_keeps | apply State.setChan_keeps | apply State.setF_keeps

theorem State.stall_keeps {F : List Fld} {s t : State} (f_regs : Fld.regs ∈ F) (f_islands : Fld.islands ∈ F)
    (f_offers : Fld.offers ∈ F) (f_chans : Fld.chans ∈ F) (f_dieChs : Fld.dieChs ∈ F) (h : Keeps F s t) (c : Nat) :
    Keeps F s (State.stall t c) := by
  unfold State.stall
  with_reducible repeat' first
     | exact Keeps.refl _ | assumption | apply Keeps.ite | apply State.chEventAt_keeps | apply State.raise_keeps
     | apply State.setModeOff_keeps | apply State.stampCmd_keeps | apply State.turnOff_keeps

theorem execStallDetect_keeps {F : List Fld} {s t : State} (f_regs : Fld.regs ∈ F) (f_islands : Fld.islands ∈ F)
    (f_offers : Fld.offers ∈ F) (f_chans : Fld.chans ∈ F) (f_dies : Fld.dies ∈ F) (f_dieChs : Fld.dieChs ∈ F) (h : Keeps F s t)
    (c : Fin 132) :
    KeepsOut F s (execStallDetect c t) := by
  unfold execStallDetect
  with_reducible repeat' first
     | apply KeepsOut.next | exact Keeps.refl _ | assumption | apply KeepsOut.ite | apply Keeps.ite | apply State.asDie_keeps
     | apply State.inDie_keeps | apply State.stall_keeps | apply State.storeEvent_keeps | intro x hx

theorem State.setVbst_keeps {F : List Fld} {s t : State} (f_regs : Fld.regs ∈ F) (f_boost : Fld.boost ∈ F) (h : Keeps F s t)
    (v : Nat) :
    Keeps F s (State.setVbst t v) := by
  unfold State.setVbst
  with_reducible repeat' first
     | exact Keeps.refl _ | assumption | apply Keeps.ite | apply State.setF_keeps
     | (extract_lets +onlyGivenNames x; clear_value x) | split | apply Keeps.upd_boost

theorem State.inSd0_keeps {F : List Fld} {s t : State} (f_regs : Fld.regs ∈ F) (f_dies : Fld.dies ∈ F) (h : Keeps F s t)
    (k : State → State) (h_k : ∀ y0 : State, Keeps F s y0 →  Keeps F s (k y0)) :
    Keeps F s (State.inSd0 t k) := by
  unfold State.inSd0
  with_reducible repeat' first
     | exact Keeps.refl _ | assumption | apply State.inDie_keeps

theorem execBoostOvervoltage_keeps {F : List Fld} {s t : State} (f_regs : Fld.regs ∈ F) (f_islands : Fld.islands ∈ F)
    (f_dies : Fld.dies ∈ F) (f_boost : Fld.boost ∈ F) (h : Keeps F s t) (v : BitVec 10) :
    KeepsOut F s (execBoostOvervoltage v t) := by
  unfold execBoostOvervoltage
  with_reducible repeat' first
     | apply KeepsOut.next | exact Keeps.refl _ | assumption | apply KeepsOut.ite | apply Keeps.ite | apply State.inSd0_keeps
     | apply State.raise_keeps | apply State.setVbst_keeps | apply State.stamp_keeps | apply hf | intro x hx | intro y
     | (extract_lets +onlyGivenNames x; clear_value x) | split | apply Keeps.upd_boost

theorem execBoostOvRelease_keeps {F : List Fld} {s t : State} (f_regs : Fld.regs ∈ F) (f_dies : Fld.dies ∈ F)
    (f_boost : Fld.boost ∈ F) (h : Keeps F s t) (v : BitVec 10) :
    KeepsOut F s (execBoostOvRelease v t) := by
  unfold execBoostOvRelease
  with_reducible repeat' first
     | apply KeepsOut.next | exact Keeps.refl _ | assumption | apply KeepsOut.ite | apply Keeps.ite | apply State.inSd0_keeps
     | apply State.setVbst_keeps | apply hf | intro x hx | intro y | (extract_lets +onlyGivenNames x; clear_value x) | split
     | apply Keeps.upd_boost

theorem execBoostUndervoltage_keeps {F : List Fld} {s t : State} (f_regs : Fld.regs ∈ F) (f_islands : Fld.islands ∈ F)
    (f_dies : Fld.dies ∈ F) (f_boost : Fld.boost ∈ F) (h : Keeps F s t) (v : BitVec 10) :
    KeepsOut F s (execBoostUndervoltage v t) := by
  unfold execBoostUndervoltage
  with_reducible repeat' first
     | apply KeepsOut.next | exact Keeps.refl _ | assumption | apply KeepsOut.ite | apply Keeps.ite | apply State.inSd0_keeps
     | apply State.raise_keeps | apply State.setVbst_keeps | apply State.stamp_keeps | apply hf | intro x hx

theorem execBoostFail_keeps {F : List Fld} {s t : State} (f_regs : Fld.regs ∈ F) (f_islands : Fld.islands ∈ F)
    (f_dies : Fld.dies ∈ F) (f_boost : Fld.boost ∈ F) (h : Keeps F s t)  :
    KeepsOut F s (execBoostFail t) := by
  unfold execBoostFail
  with_reducible repeat' first
     | apply KeepsOut.next | exact Keeps.refl _ | assumption | apply KeepsOut.ite | apply Keeps.ite | apply State.inSd0_keeps
     | apply State.raise_keeps | apply State.stamp_keeps | apply hf | intro x hx | intro y
     | (extract_lets +onlyGivenNames x; clear_value x) | split | apply Keeps.upd_boost

theorem execBoostEnergyCheck_keeps {F : List Fld} {s t : State} (f_free : Fld.free ∈ F) (f_regs : Fld.regs ∈ F)
    (f_islands : Fld.islands ∈ F) (f_chans : Fld.chans ∈ F) (f_dies : Fld.dies ∈ F) (f_dieChs : Fld.dieChs ∈ F)
    (f_boost : Fld.boost ∈ F) (h : Keeps F s t) (v : BitVec 10) (drawn : List (Fin 16 × BitVec 16)) :
    KeepsOut F s (execBoostEnergyCheck v drawn t) := by
  unfold execBoostEnergyCheck
  with_reducible repeat' first
     | apply KeepsOut.next | exact Keeps.refl _ | assumption | apply KeepsOut.ite | apply Keeps.ite | apply Keeps.ite2
     | apply State.boostCheckList_keeps | apply State.drawn_keeps | apply State.inSd0_keeps | apply State.setDieCh_keeps
     | apply State.setF_keeps | apply State.setVbst_keeps | apply Keeps.foldl | apply Keeps.foldl2 | apply Keeps.foldl1 | apply hf
     | intro x hx | intro y
     | (extract_lets +onlyGivenNames x; first | (refine Keeps.cut F s x ?_ (fun hx => ?_); rotate_left 1; clear_value x; rotate_left 1; unfold x) | clear_value x)
     | split | dsimp only | apply Keeps.upd_boost

theorem execOverlapTimeout_keeps {F : List Fld} {s t : State} (f_regs : Fld.regs ∈ F) (f_islands : Fld.islands ∈ F)
    (f_offers : Fld.offers ∈ F) (f_chans : Fld.chans ∈ F) (f_dies : Fld.dies ∈ F) (f_dieChs : Fld.dieChs ∈ F) (h : Keeps F s t)
    (j : Fin 16) :
    KeepsOut F s (execOverlapTimeout j t) := by
  unfold execOverlapTimeout
  with_reducible repeat' first
     | apply KeepsOut.next | exact Keeps.refl _ | assumption | apply KeepsOut.ite | apply Keeps.ite | apply State.inDie_keeps
     | apply State.overlapRefuse_keeps | intro x hx

theorem State.toHold_keeps {F : List Fld} {s t : State} (f_regs : Fld.regs ∈ F) (f_islands : Fld.islands ∈ F)
    (f_offers : Fld.offers ∈ F) (f_chans : Fld.chans ∈ F) (f_dieChs : Fld.dieChs ∈ F) (h : Keeps F s t) (c : Nat) :
    Keeps F s (State.toHold t c) := by
  unfold State.toHold
  with_reducible repeat' first
     | exact Keeps.refl _ | assumption | apply Keeps.ite | apply State.runEnd_keeps | apply State.setSp_keeps
     | apply State.setVerdict_keeps | apply State.shUpdate_keeps

theorem State.toPeak_keeps {F : List Fld} {s t : State} (f_regs : Fld.regs ∈ F) (f_islands : Fld.islands ∈ F)
    (f_offers : Fld.offers ∈ F) (f_chans : Fld.chans ∈ F) (f_dieChs : Fld.dieChs ∈ F) (h : Keeps F s t) (c : Nat) :
    Keeps F s (State.toPeak t c) := by
  unfold State.toPeak
  with_reducible repeat' first
     | exact Keeps.refl _ | assumption | apply Keeps.ite | apply State.setSp_keeps | apply State.shUpdate_keeps
     | apply State.toHold_keeps

theorem execSolenoidPeakReached_keeps {F : List Fld} {s t : State} (f_regs : Fld.regs ∈ F) (f_islands : Fld.islands ∈ F)
    (f_offers : Fld.offers ∈ F) (f_chans : Fld.chans ∈ F) (f_dies : Fld.dies ∈ F) (f_dieChs : Fld.dieChs ∈ F) (h : Keeps F s t)
    (j : Fin 16) :
    KeepsOut F s (execSolenoidPeakReached j t) := by
  unfold execSolenoidPeakReached
  with_reducible repeat' first
     | apply KeepsOut.next | exact Keeps.refl _ | assumption | apply KeepsOut.ite | apply Keeps.ite | apply State.inDie_keeps
     | apply State.toPeak_keeps | intro x hx

theorem execRiseTimeout_keeps {F : List Fld} {s t : State} (f_regs : Fld.regs ∈ F) (f_islands : Fld.islands ∈ F)
    (f_offers : Fld.offers ∈ F) (f_chans : Fld.chans ∈ F) (f_dies : Fld.dies ∈ F) (f_dieChs : Fld.dieChs ∈ F) (h : Keeps F s t)
    (j : Fin 16) (i : BitVec 12) :
    KeepsOut F s (execRiseTimeout j i t) := by
  unfold execRiseTimeout
  with_reducible repeat' first
     | apply KeepsOut.next | exact Keeps.refl _ | assumption | apply KeepsOut.ite | apply Keeps.ite | apply State.evidence_keeps
     | apply State.inDie_keeps | apply State.quench_keeps | apply State.raise_keeps | apply State.toPeak_keeps | apply hf
     | intro x hx

theorem execPeakTimeEnd_keeps {F : List Fld} {s t : State} (f_regs : Fld.regs ∈ F) (f_islands : Fld.islands ∈ F)
    (f_offers : Fld.offers ∈ F) (f_chans : Fld.chans ∈ F) (f_dies : Fld.dies ∈ F) (f_dieChs : Fld.dieChs ∈ F) (h : Keeps F s t)
    (j : Fin 16) :
    KeepsOut F s (execPeakTimeEnd j t) := by
  unfold execPeakTimeEnd
  with_reducible repeat' first
     | apply KeepsOut.next | exact Keeps.refl _ | assumption | apply KeepsOut.ite | apply Keeps.ite | apply State.inDie_keeps
     | apply State.toHold_keeps | intro x hx

theorem State.quenchEnd_keeps {F : List Fld} {s t : State} (f_free : Fld.free ∈ F) (f_regs : Fld.regs ∈ F)
    (f_islands : Fld.islands ∈ F) (f_offers : Fld.offers ∈ F) (f_chans : Fld.chans ∈ F) (f_dieChs : Fld.dieChs ∈ F)
    (h : Keeps F s t) (c : Nat) :
    Keeps F s (State.quenchEnd t c) := by
  unfold State.quenchEnd
  with_reducible repeat' first
     | exact Keeps.refl _ | assumption | apply Keeps.ite | apply State.setDieCh_keeps | apply State.setPh_keeps
     | apply State.setSp_keeps | apply State.shUpdate_keeps | apply State.solTurnOn_keeps | apply State.stampCmd_keeps

theorem execQuenchEnd_keeps {F : List Fld} {s t : State} (f_free : Fld.free ∈ F) (f_regs : Fld.regs ∈ F)
    (f_islands : Fld.islands ∈ F) (f_offers : Fld.offers ∈ F) (f_chans : Fld.chans ∈ F) (f_dies : Fld.dies ∈ F)
    (f_dieChs : Fld.dieChs ∈ F) (h : Keeps F s t) (j : Fin 16) :
    KeepsOut F s (execQuenchEnd j t) := by
  unfold execQuenchEnd
  with_reducible repeat' first
     | apply KeepsOut.next | exact Keeps.refl _ | assumption | apply KeepsOut.ite | apply Keeps.ite | apply State.inDie_keeps
     | apply State.quenchEnd_keeps | intro x hx

theorem execDutyTruncation_keeps {F : List Fld} {s t : State} (f_regs : Fld.regs ∈ F) (f_islands : Fld.islands ∈ F)
    (f_offers : Fld.offers ∈ F) (f_chans : Fld.chans ∈ F) (f_dies : Fld.dies ∈ F) (f_dieChs : Fld.dieChs ∈ F) (h : Keeps F s t)
    (j : Fin 16) :
    KeepsOut F s (execDutyTruncation j t) := by
  unfold execDutyTruncation
  with_reducible repeat' first
     | apply KeepsOut.next | exact Keeps.refl _ | assumption | apply KeepsOut.ite | apply Keeps.ite
     | apply State.captureDiscard_keeps | apply State.chEvent_keeps | apply State.inDie_keeps | apply State.quench_keeps
     | apply State.raise_keeps | apply State.setF_keeps | apply State.setModeOff_keeps | apply hf | intro x hx

theorem execChopShort_keeps {F : List Fld} {s t : State} (f_regs : Fld.regs ∈ F) (f_islands : Fld.islands ∈ F)
    (f_offers : Fld.offers ∈ F) (f_chans : Fld.chans ∈ F) (f_dies : Fld.dies ∈ F) (f_dieChs : Fld.dieChs ∈ F)
    (f_trx : Fld.trx ∈ F) (f_pwr : Fld.pwr ∈ F) (f_trk : Fld.trk ∈ F) (h : Keeps F s t) (j : Fin 16) :
    KeepsOut F s (execChopShort j t) := by
  unfold execChopShort
  with_reducible repeat' first
     | apply KeepsOut.next | exact Keeps.refl _ | assumption | apply KeepsOut.ite | apply Keeps.ite | apply State.trip_keeps

theorem State.shFlag_keeps {F : List Fld} {s t : State} (f_regs : Fld.regs ∈ F) (f_islands : Fld.islands ∈ F) (h : Keeps F s t)
    (k : Nat) (t' : Slate) (cor : Bool) :
    Keeps F s (State.shFlag t k t' cor) := by
  unfold State.shFlag
  with_reducible repeat' first
     | exact Keeps.refl _ | assumption | apply State.offerRec_keeps | apply State.raiseBits_keeps

theorem execShGroupTrip_keeps {F : List Fld} {s t : State} (f_regs : Fld.regs ∈ F) (f_islands : Fld.islands ∈ F)
    (f_offers : Fld.offers ∈ F) (f_chans : Fld.chans ∈ F) (f_dies : Fld.dies ∈ F) (f_dieChs : Fld.dieChs ∈ F)
    (f_boost : Fld.boost ∈ F) (f_trx : Fld.trx ∈ F) (f_pwr : Fld.pwr ∈ F) (f_trk : Fld.trk ∈ F) (h : Keeps F s t) (k : Fin 4) :
    KeepsOut F s (execShGroupTrip k t) := by
  unfold execShGroupTrip
  with_reducible repeat' first
     | apply KeepsOut.next | exact Keeps.refl _ | assumption | apply KeepsOut.ite | apply Keeps.ite | apply State.inSd0_keeps
     | apply State.shFlag_keeps | apply State.shUpdate_keeps | apply State.storeEvent_keeps | apply State.trip_keeps
     | apply Keeps.foldl | apply hf | intro x hx | intro y | (extract_lets +onlyGivenNames x; clear_value x) | split
     | apply Keeps.upd_boost

end Sys2Proof.Machine
end

