-- ==== Sys2Proof/Laws/KeepsLedger.lean ====
section
/-! SUPPORT. What the operations and meanings of Machine/Ledger.lean keep. -/

namespace Sys2Proof.Machine

theorem State.setLdgDie_keeps {F : List Fld} {s t : State} (f_ldg : Fld.ldg ∈ F) (h : Keeps F s t) (n : Nat) (x : LdgDie) :
    Keeps F s (State.setLdgDie t n x) := by
  unfold State.setLdgDie
  with_reducible repeat' first
     | exact Keeps.refl _ | assumption | apply hf | intro x hx | intro y | (extract_lets +onlyGivenNames x; clear_value x)
     | apply Keeps.upd_dies | apply Keeps.upd_ldg

theorem State.setLdgWire_keeps {F : List Fld} {s t : State} (f_ldg : Fld.ldg ∈ F) (h : Keeps F s t) (w : Nat) (x : LdgWire) :
    Keeps F s (State.setLdgWire t w x) := by
  unfold State.setLdgWire
  with_reducible repeat' first
     | exact Keeps.refl _ | assumption | apply hf | intro x hx | intro y | (extract_lets +onlyGivenNames x; clear_value x)
     | apply Keeps.upd_ldg

theorem State.dieStep_keeps {F : List Fld} {s t : State} (f_regs : Fld.regs ∈ F) (f_ldg : Fld.ldg ∈ F) (h : Keeps F s t)
    (bit : Nat) (n : Nat) (p : Nat) (hot : Int) :
    Keeps F s (State.dieStep t bit n p hot) := by
  unfold State.dieStep
  with_reducible repeat' first
     | exact Keeps.refl _ | assumption | apply Keeps.ite | apply Keeps.ite2 | apply State.setF_keeps | apply State.setLdgDie_keeps

theorem State.wireStep_keeps {F : List Fld} {s t : State} (f_regs : Fld.regs ∈ F) (f_ldg : Fld.ldg ∈ F) (h : Keeps F s t)
    (bit : Nat) (w : Nat) :
    Keeps F s (State.wireStep t bit w) := by
  unfold State.wireStep
  with_reducible repeat' first
     | exact Keeps.refl _ | assumption | apply Keeps.ite | apply Keeps.ite2 | apply State.setF_keeps
     | apply State.setLdgWire_keeps

theorem State.ldgAct_keeps {F : List Fld} {s t : State} (f_regs : Fld.regs ∈ F) (f_islands : Fld.islands ∈ F) (h : Keeps F s t)
    (c : Nat) (code : Nat) (cap : Nat) :
    Keeps F s (State.ldgAct t c code cap) := by
  unfold State.ldgAct
  with_reducible repeat' first
     | exact Keeps.refl _ | assumption | apply Keeps.ite | apply State.cap_keeps | apply State.setF_keeps
     | apply State.stamp_keeps

theorem State.actBegin_keeps {F : List Fld} {s t : State} (f_ldg : Fld.ldg ∈ F) (h : Keeps F s t)  :
    Keeps F s (State.actBegin t) := by
  unfold State.actBegin
  with_reducible repeat' first
     | exact Keeps.refl _ | assumption | apply hf | intro x hx | intro y | (extract_lets +onlyGivenNames x; clear_value x)
     | apply Keeps.upd_ldg

theorem State.setPermit_keeps {F : List Fld} {s t : State} (f_regs : Fld.regs ∈ F) (f_links : Fld.links ∈ F) (h : Keeps F s t)
    (c : Nat) (v : Bool) :
    Keeps F s (State.setPermit t c v) := by
  unfold State.setPermit
  with_reducible repeat' first
     | exact Keeps.refl _ | assumption | apply Keeps.ite | apply State.sendCh_keeps | apply State.setF_keeps

theorem State.permitStart_keeps {F : List Fld} {s t : State} (f_free : Fld.free ∈ F) (f_regs : Fld.regs ∈ F)
    (f_islands : Fld.islands ∈ F) (f_offers : Fld.offers ∈ F) (f_chans : Fld.chans ∈ F) (f_dieChs : Fld.dieChs ∈ F)
    (f_boost : Fld.boost ∈ F) (h : Keeps F s t) (c : Nat) :
    Keeps F s (State.permitStart t c) := by
  unfold State.permitStart
  with_reducible repeat' first
     | exact Keeps.refl _ | assumption | apply Keeps.ite | apply State.motUpdate_keeps | apply State.retryStart_keeps
     | apply State.setPh_keeps | apply State.setRev_keeps | apply State.solTurnOn_keeps | apply State.startRun_keeps

theorem State.permitOne_keeps {F : List Fld} {s t : State} (f_free : Fld.free ∈ F) (f_regs : Fld.regs ∈ F)
    (f_islands : Fld.islands ∈ F) (f_offers : Fld.offers ∈ F) (f_chans : Fld.chans ∈ F) (f_dieChs : Fld.dieChs ∈ F)
    (f_links : Fld.links ∈ F) (f_boost : Fld.boost ∈ F) (h : Keeps F s t) (c : Nat) (resv : List (Nat × Nat)) (feed : Int) :
    Keeps F s (State.permitOne t c resv feed).1 := by
  unfold State.permitOne
  with_reducible repeat' first
     | exact Keeps.refl _ | assumption | apply Keeps.ite | apply Keeps.ite2 | apply Keeps.ite1 | apply State.ldgAct_keeps
     | apply State.permitStart_keeps | apply State.setPermit_keeps

theorem State.permits_keeps {F : List Fld} {s t : State} (f_free : Fld.free ∈ F) (f_regs : Fld.regs ∈ F)
    (f_islands : Fld.islands ∈ F) (f_offers : Fld.offers ∈ F) (f_chans : Fld.chans ∈ F) (f_dieChs : Fld.dieChs ∈ F)
    (f_links : Fld.links ∈ F) (f_boost : Fld.boost ∈ F) (h : Keeps F s t)  :
    Keeps F s (State.permits t) := by
  unfold State.permits
  with_reducible repeat' first
     | exact Keeps.refl _ | assumption | apply State.permitOne_keeps | apply Keeps.foldl | apply Keeps.foldl2 | apply Keeps.foldl1
     | intro x hx | intro y

theorem State.pause_keeps {F : List Fld} {s t : State} (f_regs : Fld.regs ∈ F) (f_islands : Fld.islands ∈ F)
    (f_chans : Fld.chans ∈ F) (f_dieChs : Fld.dieChs ∈ F) (f_links : Fld.links ∈ F) (h : Keeps F s t) (c : Nat) :
    Keeps F s (State.pause t c) := by
  unfold State.pause
  with_reducible repeat' first
     | exact Keeps.refl _ | assumption | apply State.incSat_keeps | apply State.ldgAct_keeps | apply State.raise_keeps
     | apply State.sendCh_keeps | apply State.setChan_keeps | apply State.setOut_keeps | apply State.setPh_keeps

theorem State.resume_keeps {F : List Fld} {s t : State} (f_regs : Fld.regs ∈ F) (f_islands : Fld.islands ∈ F)
    (f_chans : Fld.chans ∈ F) (f_dieChs : Fld.dieChs ∈ F) (f_links : Fld.links ∈ F) (h : Keeps F s t) (c : Nat) :
    Keeps F s (State.resume t c) := by
  unfold State.resume
  with_reducible repeat' first
     | exact Keeps.refl _ | assumption | apply State.ldgAct_keeps | apply State.sendCh_keeps | apply State.setOut_keeps
     | apply State.setPh_keeps

theorem State.pauses_keeps {F : List Fld} {s t : State} (f_regs : Fld.regs ∈ F) (f_islands : Fld.islands ∈ F)
    (f_chans : Fld.chans ∈ F) (f_dieChs : Fld.dieChs ∈ F) (f_links : Fld.links ∈ F) (h : Keeps F s t) (bit : Nat) (n : Nat) :
    Keeps F s (State.pauses t bit n) := by
  unfold State.pauses
  with_reducible repeat' first
     | exact Keeps.refl _ | assumption | apply Keeps.ite | apply State.pause_keeps | apply State.resume_keeps
     | apply State.setF_keeps | apply hf | intro x hx | intro y | (extract_lets +onlyGivenNames x; clear_value x) | split

theorem State.cap_keeps {F : List Fld} {s t : State} (f_regs : Fld.regs ∈ F) (f_islands : Fld.islands ∈ F)
    (f_links : Fld.links ∈ F) (h : Keeps F s t) (bit : Nat) (c : Nat) :
    Keeps F s (State.cap t bit c) := by
  unfold State.cap
  with_reducible repeat' first
     | exact Keeps.refl _ | assumption | apply Keeps.ite | apply Keeps.ite2 | apply State.ldgAct_keeps | apply State.sendCh_keeps
     | apply State.setF_keeps

theorem State.fuse_keeps {F : List Fld} {s t : State} (f_regs : Fld.regs ∈ F) (f_islands : Fld.islands ∈ F)
    (f_offers : Fld.offers ∈ F) (f_chans : Fld.chans ∈ F) (f_dieChs : Fld.dieChs ∈ F) (f_links : Fld.links ∈ F)
    (h : Keeps F s t) (c : Nat) (code : Nat) :
    Keeps F s (State.fuse t c code) := by
  unfold State.fuse
  with_reducible repeat' first
     | exact Keeps.refl _ | assumption | apply Keeps.ite | apply Keeps.ite2 | apply State.evidence_keeps
     | apply State.ldgAct_keeps | apply State.motUpdate_keeps | apply State.quench_keeps | apply State.raise_keeps
     | apply State.runEnd_keeps | apply State.sendCh_keeps | apply State.setBraking_keeps | apply State.setChan_keeps
     | apply State.setDieCh_keeps | apply State.setOut_keeps | apply State.setPh_keeps | apply State.setRev_keeps

theorem State.wireFuses_keeps {F : List Fld} {s t : State} (f_regs : Fld.regs ∈ F) (f_islands : Fld.islands ∈ F)
    (f_offers : Fld.offers ∈ F) (f_chans : Fld.chans ∈ F) (f_dieChs : Fld.dieChs ∈ F) (f_links : Fld.links ∈ F)
    (h : Keeps F s t)  :
    Keeps F s (State.wireFuses t) := by
  unfold State.wireFuses
  with_reducible repeat' first
     | exact Keeps.refl _ | assumption | apply Keeps.ite | apply State.fuse_keeps | apply Keeps.foldl | apply hf | intro x hx
     | intro y

theorem State.dieFuse_keeps {F : List Fld} {s t : State} (f_regs : Fld.regs ∈ F) (f_islands : Fld.islands ∈ F)
    (f_offers : Fld.offers ∈ F) (f_chans : Fld.chans ∈ F) (f_dieChs : Fld.dieChs ∈ F) (f_links : Fld.links ∈ F)
    (h : Keeps F s t) (bit : Nat) (n : Nat) :
    Keeps F s (State.dieFuse t bit n) := by
  unfold State.dieFuse
  with_reducible repeat' first
     | exact Keeps.refl _ | assumption | apply Keeps.ite | apply State.fuse_keeps | intro x hx | intro y | split

theorem State.shedOne_keeps {F : List Fld} {s t : State} (f_regs : Fld.regs ∈ F) (f_islands : Fld.islands ∈ F)
    (f_offers : Fld.offers ∈ F) (f_chans : Fld.chans ∈ F) (f_dieChs : Fld.dieChs ∈ F) (f_links : Fld.links ∈ F)
    (h : Keeps F s t) (bit : Nat) (feed : Bool) :
    Keeps F s (State.shedOne t bit feed) := by
  unfold State.shedOne
  with_reducible repeat' first
     | exact Keeps.refl _ | assumption | apply Keeps.ite | apply State.fuse_keeps | apply Keeps.foldl | apply hf | intro x hx
     | intro y | (extract_lets +onlyGivenNames x; clear_value x) | split

theorem State.limits_keeps {F : List Fld} {s t : State} (f_regs : Fld.regs ∈ F) (f_islands : Fld.islands ∈ F)
    (f_offers : Fld.offers ∈ F) (f_chans : Fld.chans ∈ F) (f_dieChs : Fld.dieChs ∈ F) (f_links : Fld.links ∈ F)
    (f_ldg : Fld.ldg ∈ F) (h : Keeps F s t) (bit : Nat) :
    Keeps F s (State.limits t bit) := by
  unfold State.limits
  with_reducible repeat' first
     | exact Keeps.refl _ | assumption | apply Keeps.ite | apply Keeps.ite2 | apply State.raise_keeps | apply State.setF_keeps
     | apply State.shedOne_keeps | (extract_lets +onlyGivenNames x; clear_value x) | split | dsimp only | apply Keeps.upd_ldg

theorem State.dieInput_keeps {F : List Fld} {s t : State} (f_regs : Fld.regs ∈ F) (f_ldg : Fld.ldg ∈ F) (h : Keeps F s t)
    (reads : List DieReading) (n : Nat) :
    Keeps F s (State.dieInput t reads n) := by
  unfold State.dieInput
  with_reducible repeat' first
     | exact Keeps.refl _ | assumption | apply State.setF_keeps | apply State.setLdgDie_keeps | apply hf | intro x hx | intro y
     | (extract_lets +onlyGivenNames x; clear_value x) | split

theorem State.chStep_keeps {F : List Fld} {s t : State} (f_regs : Fld.regs ∈ F) (f_chans : Fld.chans ∈ F) (h : Keeps F s t)
    (bit : Nat) (c : Nat) :
    Keeps F s (State.chStep t bit c) := by
  unfold State.chStep
  with_reducible repeat' first
     | exact Keeps.refl _ | assumption | apply Keeps.ite | apply State.incSat_keeps | apply State.setChan_keeps
     | apply State.setReg_keeps

theorem State.models_keeps {F : List Fld} {s t : State} (f_regs : Fld.regs ∈ F) (f_chans : Fld.chans ∈ F) (f_ldg : Fld.ldg ∈ F)
    (h : Keeps F s t) (bit : Nat) (reads : List DieReading) :
    Keeps F s (State.models t bit reads) := by
  unfold State.models
  with_reducible repeat' first
     | exact Keeps.refl _ | assumption | apply Keeps.ite | apply Keeps.ite2 | apply State.chStep_keeps
     | apply State.dieInput_keeps | apply State.dieStep_keeps | apply State.wireStep_keeps | apply Keeps.foldl
     | apply Keeps.foldl2 | apply Keeps.foldl1 | apply hf | intro x hx | intro y
     | (extract_lets +onlyGivenNames x; first | (refine Keeps.cut F s x ?_ (fun hx => ?_); rotate_left 1; clear_value x; rotate_left 1; unfold x) | clear_value x)
     | split | dsimp only | apply Keeps.upd_ldg

theorem State.ledgerStep_keeps {F : List Fld} {s t : State} (f_free : Fld.free ∈ F) (f_regs : Fld.regs ∈ F)
    (f_islands : Fld.islands ∈ F) (f_offers : Fld.offers ∈ F) (f_chans : Fld.chans ∈ F) (f_dieChs : Fld.dieChs ∈ F)
    (f_links : Fld.links ∈ F) (f_boost : Fld.boost ∈ F) (f_ldg : Fld.ldg ∈ F) (h : Keeps F s t) (reads : List DieReading) :
    Keeps F s (State.ledgerStep t reads) := by
  unfold State.ledgerStep
  with_reducible repeat' first
     | exact Keeps.refl _ | assumption | apply Keeps.ite | apply State.actBegin_keeps | apply State.cap_keeps
     | apply State.dieFuse_keeps | apply State.drawn_keeps | apply State.limits_keeps | apply State.models_keeps
     | apply State.pauses_keeps | apply State.permits_keeps | apply State.wireFuses_keeps | apply Keeps.foldl | apply hf
     | intro x hx | intro y

theorem execLedgerStep_keeps {F : List Fld} {s t : State} (f_free : Fld.free ∈ F) (f_regs : Fld.regs ∈ F)
    (f_islands : Fld.islands ∈ F) (f_offers : Fld.offers ∈ F) (f_chans : Fld.chans ∈ F) (f_dieChs : Fld.dieChs ∈ F)
    (f_links : Fld.links ∈ F) (f_boost : Fld.boost ∈ F) (f_ldg : Fld.ldg ∈ F) (h : Keeps F s t) (reads : List DieReading) :
    KeepsOut F s (execLedgerStep reads t) := by
  unfold execLedgerStep
  with_reducible repeat' first
     | apply KeepsOut.next | exact Keeps.refl _ | assumption | apply State.ledgerStep_keeps

theorem execLimitTExpire_keeps {F : List Fld} {s t : State} (f_free : Fld.free ∈ F) (f_regs : Fld.regs ∈ F)
    (f_islands : Fld.islands ∈ F) (f_offers : Fld.offers ∈ F) (f_chans : Fld.chans ∈ F) (f_dieChs : Fld.dieChs ∈ F)
    (f_links : Fld.links ∈ F) (f_ldg : Fld.ldg ∈ F) (h : Keeps F s t)  :
    KeepsOut F s (execLimitTExpire t) := by
  unfold execLimitTExpire
  with_reducible repeat' first
     | apply KeepsOut.next | exact Keeps.refl _ | assumption | apply KeepsOut.ite | apply Keeps.ite | apply Keeps.ite2
     | apply State.actBegin_keeps | apply State.drawn_keeps | apply State.shedOne_keeps
     | (extract_lets +onlyGivenNames x; clear_value x) | split | dsimp only | apply Keeps.upd_ldg

theorem State.pauseMax_keeps {F : List Fld} {s t : State} (f_regs : Fld.regs ∈ F) (f_islands : Fld.islands ∈ F)
    (f_chans : Fld.chans ∈ F) (f_dieChs : Fld.dieChs ∈ F) (h : Keeps F s t) (c : Nat) :
    Keeps F s (State.pauseMax t c) := by
  unfold State.pauseMax
  with_reducible repeat' first
     | exact Keeps.refl _ | assumption | apply Keeps.ite | apply State.defer_keeps | apply State.ldgAct_keeps
     | apply State.motUpdate_keeps | apply State.quench_keeps | apply State.raise_keeps | apply State.runEnd_keeps
     | apply State.setDieCh_keeps | apply State.setOut_keeps | apply State.setPh_keeps

theorem execPauseMaxExpire_keeps {F : List Fld} {s t : State} (f_regs : Fld.regs ∈ F) (f_islands : Fld.islands ∈ F)
    (f_chans : Fld.chans ∈ F) (f_dies : Fld.dies ∈ F) (f_dieChs : Fld.dieChs ∈ F) (f_ldg : Fld.ldg ∈ F) (h : Keeps F s t)
    (c : Fin 132) :
    KeepsOut F s (execPauseMaxExpire c t) := by
  unfold execPauseMaxExpire
  with_reducible repeat' first
     | apply KeepsOut.next | exact Keeps.refl _ | assumption | apply KeepsOut.ite | apply Keeps.ite | apply State.actBegin_keeps
     | apply State.inDie_keeps | apply State.pauseMax_keeps | intro x hx

theorem execStaleThreshold_keeps {F : List Fld} {s t : State} (f_regs : Fld.regs ∈ F) (f_links : Fld.links ∈ F)
    (h : Keeps F s t) (n : Fin 14) :
    KeepsOut F s (execStaleThreshold n t) := by
  unfold execStaleThreshold
  with_reducible repeat' first
     | apply KeepsOut.next | exact Keeps.refl _ | assumption | apply KeepsOut.ite | apply Keeps.ite | apply Keeps.ite2
     | apply State.raise_keeps | apply State.setF_keeps | apply State.setPermit_keeps | apply Keeps.foldl | apply Keeps.foldl2
     | apply Keeps.foldl1 | apply hf | intro x hx | intro y

theorem State.seedWire_keeps {F : List Fld} {s t : State} (f_regs : Fld.regs ∈ F) (f_ldg : Fld.ldg ∈ F) (h : Keeps F s t)
    (bit : Nat) (w : Nat) (x : LdgWire) :
    Keeps F s (State.seedWire t bit w x) := by
  unfold State.seedWire
  with_reducible repeat' first
     | exact Keeps.refl _ | assumption | apply State.setF_keeps | apply State.setLdgWire_keeps

theorem State.wireSeed_keeps {F : List Fld} {s t : State} (f_regs : Fld.regs ∈ F) (f_ldg : Fld.ldg ∈ F) (h : Keeps F s t)
    (kind : Nat) (gapUs : Nat) (bit : Nat) (w : Nat) :
    Keeps F s (State.wireSeed t kind gapUs bit w) := by
  unfold State.wireSeed
  with_reducible repeat' first
     | exact Keeps.refl _ | assumption | apply Keeps.ite | apply Keeps.ite2 | apply State.seedWire_keeps

theorem State.dieSeed_keeps {F : List Fld} {s t : State} (f_regs : Fld.regs ∈ F) (f_ldg : Fld.ldg ∈ F) (h : Keeps F s t)
    (bit : Nat) (r : DieReading) :
    Keeps F s (State.dieSeed t bit r) := by
  unfold State.dieSeed
  with_reducible repeat' first
     | exact Keeps.refl _ | assumption | apply State.setF_keeps | apply State.setLdgDie_keeps

theorem execLedgerSeed_keeps {F : List Fld} {s t : State} (f_free : Fld.free ∈ F) (f_regs : Fld.regs ∈ F) (f_ldg : Fld.ldg ∈ F)
    (h : Keeps F s t) (kind : Fin 3) (reads : List DieReading) (gapUs : BitVec 64) :
    KeepsOut F s (execLedgerSeed kind reads gapUs t) := by
  unfold execLedgerSeed
  with_reducible repeat' first
     | apply KeepsOut.next | exact Keeps.refl _ | assumption | apply KeepsOut.ite | apply Keeps.ite | apply Keeps.ite2
     | apply State.adopt_keeps | apply State.dieSeed_keeps | apply State.drawn_keeps | apply State.setF_keeps
     | apply State.wireSeed_keeps | apply Keeps.foldl | apply Keeps.foldl2 | apply Keeps.foldl1 | apply hf | intro x hx | intro y
     | (extract_lets +onlyGivenNames x; clear_value x) | split | dsimp only | apply Keeps.upd_ldg

end Sys2Proof.Machine
end

