-- ==== Sys2Proof/Laws/KeepsHold.lean ====
section
/-! SUPPORT. What the operations and meanings of Machine/Hold.lean keep. -/

namespace Sys2Proof.Machine

theorem State.stampStr_keeps {F : List Fld} {s t : State} (f_regs : Fld.regs ∈ F) (f_islands : Fld.islands ∈ F)
    (h : Keeps F s t) (isl : Nat) (event : Nat) (data : Nat) :
    Keeps F s (State.stampStr t isl event data) := by
  unfold State.stampStr
  with_reducible repeat' first
     | exact Keeps.refl _ | assumption | apply State.stamp_keeps

theorem State.fsFlag_keeps {F : List Fld} {s t : State} (f_regs : Fld.regs ∈ F) (h : Keeps F s t) (flag : RF) (n : Nat) :
    Keeps F s (State.fsFlag t flag n) := by
  unfold State.fsFlag
  with_reducible repeat' first
     | exact Keeps.refl _ | assumption | apply State.raise_keeps | apply State.setF_keeps

theorem State.takeFrame_keeps {F : List Fld} {s t : State} (f_links : Fld.links ∈ F) (h : Keeps F s t) (n : Nat) :
    Keeps F s (State.takeFrame t n).2 := by
  unfold State.takeFrame
  with_reducible repeat' first
     | exact Keeps.refl _ | assumption | apply State.setLnk_keeps | (extract_lets +onlyGivenNames x; clear_value x) | split

theorem State.limpShow_keeps {F : List Fld} {s t : State} (f_regs : Fld.regs ∈ F) (h : Keeps F s t) (n : Nat) :
    Keeps F s (State.limpShow t n) := by
  unfold State.limpShow
  with_reducible repeat' first
     | exact Keeps.refl _ | assumption | apply Keeps.ite | apply Keeps.ite2 | apply State.fsFlag_keeps | apply State.setF_keeps

theorem State.fsTake_keeps {F : List Fld} {s t : State} (f_dieChs : Fld.dieChs ∈ F) (h : Keeps F s t) (n : Nat) :
    Keeps F s (State.fsTake t n) := by
  unfold State.fsTake
  with_reducible repeat' first
     | exact Keeps.refl _ | assumption | apply Keeps.ite | apply State.setDieCh_keeps | apply Keeps.foldl | apply hf | intro x hx
     | intro y

theorem State.fsMode_keeps {F : List Fld} {s t : State} (f_regs : Fld.regs ∈ F) (f_dieChs : Fld.dieChs ∈ F) (h : Keeps F s t)
    (c : Nat) (mode : Nat) :
    Keeps F s (State.fsMode t c mode) := by
  unfold State.fsMode
  with_reducible repeat' first
     | exact Keeps.refl _ | assumption | apply Keeps.ite | apply Keeps.ite2 | apply State.setDieCh_keeps | apply State.setF_keeps

theorem State.fsApplyCh_keeps {F : List Fld} {s t : State} (f_free : Fld.free ∈ F) (f_regs : Fld.regs ∈ F)
    (f_islands : Fld.islands ∈ F) (f_offers : Fld.offers ∈ F) (f_chans : Fld.chans ∈ F) (f_dies : Fld.dies ∈ F)
    (f_dieChs : Fld.dieChs ∈ F) (h : Keeps F s t) (c : Nat) :
    Keeps F s (State.fsApplyCh t c) := by
  unfold State.fsApplyCh
  with_reducible repeat' first
     | exact Keeps.refl _ | assumption | apply Keeps.ite | apply Keeps.ite2 | apply State.fsMode_keeps | apply State.inDie_keeps
     | apply State.modeHML_keeps | apply State.modeS_keeps | apply State.motUpdate_keeps | apply State.setBraking_keeps
     | apply State.setDieCh_keeps | apply State.setF_keeps | apply State.turnOff_keeps | apply hf | intro x hx | intro y
     | (extract_lets +onlyGivenNames x; first | (refine Keeps.cut F s x ?_ (fun hx => ?_); rotate_left 1; clear_value x; rotate_left 1; unfold x) | (refine Keeps.cutFA F s x ?_ (fun hf => ?_); rotate_left 1; clear_value x; rotate_left 1; unfold x) | clear_value x)
     | split

theorem State.failsafeEnter_keeps {F : List Fld} {s t : State} (f_free : Fld.free ∈ F) (f_regs : Fld.regs ∈ F)
    (f_islands : Fld.islands ∈ F) (f_offers : Fld.offers ∈ F) (f_chans : Fld.chans ∈ F) (f_dies : Fld.dies ∈ F)
    (f_dieChs : Fld.dieChs ∈ F) (h : Keeps F s t) (n : Nat) (adopted : Bool) :
    Keeps F s (State.failsafeEnter t n adopted) := by
  unfold State.failsafeEnter
  with_reducible repeat' first
     | exact Keeps.refl _ | assumption | apply Keeps.ite | apply Keeps.ite2 | apply State.fsApplyCh_keeps
     | apply State.fsTake_keeps | apply State.limpShow_keeps | apply State.setDie_keeps | apply State.stampStr_keeps
     | apply State.storeEvent_keeps | apply Keeps.foldl | apply Keeps.foldl2 | apply Keeps.foldl1 | intro x hx

theorem State.holdEnter_keeps {F : List Fld} {s t : State} (f_dies : Fld.dies ∈ F) (h : Keeps F s t) (n : Nat) :
    Keeps F s (State.holdEnter t n) := by
  unfold State.holdEnter
  with_reducible repeat' first
     | exact Keeps.refl _ | assumption | apply State.keepCopy_keeps | apply State.setDie_keeps | apply State.storeEvent_keeps

theorem State.dieHold_keeps {F : List Fld} {s t : State} (f_dies : Fld.dies ∈ F) (h : Keeps F s t) (n : Nat) :
    Keeps F s (State.dieHold t n) := by
  unfold State.dieHold
  with_reducible repeat' first
     | exact Keeps.refl _ | assumption | apply State.holdEnter_keeps | apply State.keepCopy_keeps | apply State.setDie_keeps
     | (extract_lets +onlyGivenNames x; first | (refine Keeps.cut F s x ?_ (fun hx => ?_); rotate_left 1; clear_value x; rotate_left 1; unfold x) | clear_value x)
     | split

theorem State.frameRow_keeps {F : List Fld} {s t : State} (f_links : Fld.links ∈ F) (h : Keeps F s t) (n : Nat)
    (k : State → LinkFrame → Option State)
    (hk : ∀ u, Keeps F s u → ∀ f, KeepsOpt F s (k u f)) : Keeps F s (t.frameRow n k) := by
  unfold State.frameRow
  refine Keeps.ite h ?_
  have ht := State.takeFrame_keeps f_links h n
  split
  · rename_i f u hu
    rw [hu] at ht
    cases hc : k u f with
    | none => exact h
    | some v => exact (hk u ht f).some_keeps v hc
  · exact h

theorem execDieKeepalive_keeps {F : List Fld} {s t : State} (f_dies : Fld.dies ∈ F) (f_links : Fld.links ∈ F)
    (f_iso : Fld.iso ∈ F) (h : Keeps F s t) (n : Fin 15) (epoch : Byte) (seq : BitVec 16) :
    KeepsOut F s (execDieKeepalive n epoch seq t) := by
  unfold execDieKeepalive
  with_reducible repeat' first
     | apply KeepsOut.next | exact Keeps.refl _ | assumption | apply KeepsOut.ite | apply Keeps.ite | apply State.setDie_keeps
     | apply State.setLnk_keeps | (extract_lets +onlyGivenNames x; clear_value x) | split | apply Keeps.upd_iso

theorem execDieKeepaliveLoss_keeps {F : List Fld} {s t : State} (f_dies : Fld.dies ∈ F) (h : Keeps F s t) (n : Fin 14) :
    KeepsOut F s (execDieKeepaliveLoss n t) := by
  unfold execDieKeepaliveLoss
  with_reducible repeat' first
     | apply KeepsOut.next | exact Keeps.refl _ | assumption | apply KeepsOut.ite | apply Keeps.ite | apply State.dieHold_keeps

theorem State.cmdFrame_keeps {F : List Fld} {s t : State} (f_free : Fld.free ∈ F) (f_regs : Fld.regs ∈ F)
    (f_islands : Fld.islands ∈ F) (f_offers : Fld.offers ∈ F) (f_chans : Fld.chans ∈ F) (f_dies : Fld.dies ∈ F)
    (f_dieChs : Fld.dieChs ∈ F) (h : Keeps F s t) (c : Nat) (mode : Nat) (dir : Nat) (stop : Nat) (tag : Nat) :
    Keeps F s (State.cmdFrame t c mode dir stop tag) := by
  unfold State.cmdFrame
  with_reducible repeat' first
     | exact Keeps.refl _ | assumption | apply Keeps.ite | apply Keeps.ite2 | apply State.applyMode_keeps
     | apply State.drvApply_keeps | apply State.inDie_keeps | apply State.setDieCh_keeps | apply State.setF_keeps
     | apply State.stampCmd_keeps | apply hf | intro x hx

theorem execDieCmdFrame_keeps {F : List Fld} {s t : State} (f_free : Fld.free ∈ F) (f_regs : Fld.regs ∈ F)
    (f_islands : Fld.islands ∈ F) (f_offers : Fld.offers ∈ F) (f_chans : Fld.chans ∈ F) (f_dies : Fld.dies ∈ F)
    (f_dieChs : Fld.dieChs ∈ F) (f_links : Fld.links ∈ F) (h : Keeps F s t) (n : Fin 14) :
    KeepsOut F s (execDieCmdFrame n t) := by
  unfold execDieCmdFrame
  with_reducible repeat' first
     | apply KeepsOut.next | exact Keeps.refl _ | assumption | apply KeepsOut.ite | apply Keeps.ite | apply State.cmdFrame_keeps
     | apply State.frameRow_keeps | apply KeepsOpt.some | exact KeepsOpt.none | apply KeepsOpt.ite | intro x hx | intro y | split

theorem State.pwmFrame_keeps {F : List Fld} {s t : State} (f_regs : Fld.regs ∈ F) (f_islands : Fld.islands ∈ F)
    (f_offers : Fld.offers ∈ F) (f_chans : Fld.chans ∈ F) (f_dies : Fld.dies ∈ F) (f_dieChs : Fld.dieChs ∈ F) (h : Keeps F s t)
    (c : Nat) (duty : Nat) (pdiv : Nat) (phase : Nat) (only : Bool) :
    Keeps F s (State.pwmFrame t c duty pdiv phase only) := by
  unfold State.pwmFrame
  with_reducible repeat' first
     | exact Keeps.refl _ | assumption | apply Keeps.ite | apply Keeps.ite2 | apply State.carrierStart_keeps
     | apply State.inDie_keeps | apply State.periodStart_keeps | apply State.setDieCh_keeps | apply hf | intro x hx

theorem execDiePwmFrame_keeps {F : List Fld} {s t : State} (f_regs : Fld.regs ∈ F) (f_islands : Fld.islands ∈ F)
    (f_offers : Fld.offers ∈ F) (f_chans : Fld.chans ∈ F) (f_dies : Fld.dies ∈ F) (f_dieChs : Fld.dieChs ∈ F)
    (f_links : Fld.links ∈ F) (h : Keeps F s t) (n : Fin 14) :
    KeepsOut F s (execDiePwmFrame n t) := by
  unfold execDiePwmFrame
  with_reducible repeat' first
     | apply KeepsOut.next | exact Keeps.refl _ | assumption | apply KeepsOut.ite | apply Keeps.ite | apply State.frameRow_keeps
     | apply State.pwmFrame_keeps | apply KeepsOpt.some | exact KeepsOpt.none | apply KeepsOpt.ite | intro x hx | intro y | split

theorem execDieTableFrame_keeps {F : List Fld} {s t : State} (f_dies : Fld.dies ∈ F) (f_dieChs : Fld.dieChs ∈ F)
    (f_links : Fld.links ∈ F) (h : Keeps F s t) (n : Fin 14) :
    KeepsOut F s (execDieTableFrame n t) := by
  unfold execDieTableFrame
  with_reducible repeat' first
     | apply KeepsOut.next | exact Keeps.refl _ | assumption | apply KeepsOut.ite | apply Keeps.ite | apply State.frameRow_keeps
     | apply State.setDie_keeps | apply State.setDieCh_keeps | apply KeepsOpt.some | exact KeepsOpt.none | apply KeepsOpt.ite
     | apply hf | intro x hx | intro y | (extract_lets +onlyGivenNames x; clear_value x) | split

theorem State.paramFrame_keeps {F : List Fld} {s t : State} (f_free : Fld.free ∈ F) (f_regs : Fld.regs ∈ F)
    (f_islands : Fld.islands ∈ F) (f_offers : Fld.offers ∈ F) (f_chans : Fld.chans ∈ F) (f_dies : Fld.dies ∈ F)
    (f_dieChs : Fld.dieChs ∈ F) (h : Keeps F s t) (n : Nat) (c : Nat) (what : Nat) (v : Nat) :
    Keeps F s (State.paramFrame t n c what v) := by
  unfold State.paramFrame
  with_reducible repeat' first
     | exact Keeps.refl _ | assumption | apply Keeps.ite | apply State.cap_keeps | apply State.fuse_keeps
     | apply State.gateSet_keeps | apply State.inDie_keeps | apply State.setDie_keeps | apply State.setDieCh_keeps | intro x hx

theorem execDieParamFrame_keeps {F : List Fld} {s t : State} (f_free : Fld.free ∈ F) (f_regs : Fld.regs ∈ F)
    (f_islands : Fld.islands ∈ F) (f_offers : Fld.offers ∈ F) (f_chans : Fld.chans ∈ F) (f_dies : Fld.dies ∈ F)
    (f_dieChs : Fld.dieChs ∈ F) (f_links : Fld.links ∈ F) (h : Keeps F s t) (n : Fin 14) :
    KeepsOut F s (execDieParamFrame n t) := by
  unfold execDieParamFrame
  with_reducible repeat' first
     | apply KeepsOut.next | exact Keeps.refl _ | assumption | apply KeepsOut.ite | apply Keeps.ite | apply State.frameRow_keeps
     | apply State.paramFrame_keeps | apply KeepsOpt.some | exact KeepsOpt.none | apply KeepsOpt.ite | intro x hx | intro y
     | split

theorem execDieHold_keeps {F : List Fld} {s t : State} (f_dies : Fld.dies ∈ F) (f_links : Fld.links ∈ F) (h : Keeps F s t)
    (n : Fin 14) :
    KeepsOut F s (execDieHold n t) := by
  unfold execDieHold
  with_reducible repeat' first
     | apply KeepsOut.next | exact Keeps.refl _ | assumption | apply State.dieHold_keeps | apply State.frameRow_keeps
     | apply KeepsOpt.some | exact KeepsOpt.none | apply KeepsOpt.ite | intro x hx | intro y | split

theorem State.parkDie_keeps {F : List Fld} {s t : State} (f_regs : Fld.regs ∈ F) (f_dies : Fld.dies ∈ F) (h : Keeps F s t)
    (n : Nat) :
    Keeps F s (State.parkDie t n) := by
  unfold State.parkDie
  with_reducible repeat' first
     | exact Keeps.refl _ | assumption | apply Keeps.ite | apply Keeps.ite2 | apply State.asDie_keeps | apply State.keepCopy_keeps
     | apply State.setDie_keeps | apply State.setF_keeps

theorem execDiePark_keeps {F : List Fld} {s t : State} (f_regs : Fld.regs ∈ F) (f_dies : Fld.dies ∈ F) (f_links : Fld.links ∈ F)
    (h : Keeps F s t) (n : Fin 14) :
    KeepsOut F s (execDiePark n t) := by
  unfold execDiePark
  with_reducible repeat' first
     | apply KeepsOut.next | exact Keeps.refl _ | assumption | apply KeepsOut.ite | apply Keeps.ite | apply State.frameRow_keeps
     | apply State.parkDie_keeps | apply KeepsOpt.some | exact KeepsOpt.none | apply KeepsOpt.ite | intro x hx | intro y | split

theorem State.showCh_keeps {F : List Fld} {s t : State} (f_regs : Fld.regs ∈ F) (f_chans : Fld.chans ∈ F)
    (f_dieChs : Fld.dieChs ∈ F) (h : Keeps F s t) (c : Nat) :
    Keeps F s (State.showCh t c) := by
  unfold State.showCh
  with_reducible repeat' first
     | exact Keeps.refl _ | assumption | apply Keeps.ite | apply State.captureDiscard_keeps | apply State.motUpdate_keeps
     | apply State.setBraking_keeps | apply State.setF_keeps | apply State.setRev_keeps | apply State.shUpdate_keeps

theorem State.pullStart_keeps {F : List Fld} {s t : State} (f_dies : Fld.dies ∈ F) (h : Keeps F s t) (n : Nat) (fresh : Bool) :
    Keeps F s (State.pullStart t n fresh) := by
  unfold State.pullStart
  with_reducible repeat' first
     | exact Keeps.refl _ | assumption | apply Keeps.ite | apply Keeps.ite2 | apply State.setDie_keeps

theorem State.boostShown_keeps {F : List Fld} {s t : State} (f_regs : Fld.regs ∈ F) (h : Keeps F s t) (w : Word) :
    Keeps F s (State.boostShown t w) := by
  unfold State.boostShown
  with_reducible repeat' first
     | exact Keeps.refl _ | assumption | apply State.setF_keeps | apply State.setReg_keeps

theorem State.dieAdopted_keeps {F : List Fld} {s t : State} (f_regs : Fld.regs ∈ F) (f_chans : Fld.chans ∈ F)
    (f_dies : Fld.dies ∈ F) (f_dieChs : Fld.dieChs ∈ F) (h : Keeps F s t) (n : Nat) :
    Keeps F s (State.dieAdopted t n) := by
  unfold State.dieAdopted
  with_reducible repeat' first
     | exact Keeps.refl _ | assumption | apply Keeps.ite | apply Keeps.ite2 | apply State.boostShown_keeps
     | apply State.setDie_keeps | apply State.setDieCh_keeps | apply State.showCh_keeps | apply Keeps.foldl | apply Keeps.foldl2
     | apply Keeps.foldl1 | apply hf | intro x hx | intro y

theorem execDieAdopt_keeps {F : List Fld} {s t : State} (f_regs : Fld.regs ∈ F) (f_chans : Fld.chans ∈ F)
    (f_dies : Fld.dies ∈ F) (f_dieChs : Fld.dieChs ∈ F) (f_links : Fld.links ∈ F) (h : Keeps F s t) (n : Fin 14) :
    KeepsOut F s (execDieAdopt n t) := by
  unfold execDieAdopt
  with_reducible repeat' first
     | apply KeepsOut.next | exact Keeps.refl _ | assumption | apply KeepsOut.ite | apply Keeps.ite | apply Keeps.ite2
     | apply State.adopt_keeps | apply State.dieAdopted_keeps | apply State.frameRow_keeps | apply State.pullStart_keeps
     | apply State.setDie_keeps | apply KeepsOpt.some | exact KeepsOpt.none | apply KeepsOpt.ite | apply hf | intro x hx | intro y
     | (extract_lets +onlyGivenNames x; clear_value x) | split

theorem execDieFsApply_keeps {F : List Fld} {s t : State} (f_free : Fld.free ∈ F) (f_regs : Fld.regs ∈ F)
    (f_islands : Fld.islands ∈ F) (f_offers : Fld.offers ∈ F) (f_chans : Fld.chans ∈ F) (f_dies : Fld.dies ∈ F)
    (f_dieChs : Fld.dieChs ∈ F) (f_links : Fld.links ∈ F) (h : Keeps F s t) (n : Fin 14) :
    KeepsOut F s (execDieFsApply n t) := by
  unfold execDieFsApply
  with_reducible repeat' first
     | apply KeepsOut.next | exact Keeps.refl _ | assumption | apply KeepsOut.ite | apply Keeps.ite
     | apply State.failsafeEnter_keeps | apply State.frameRow_keeps | apply State.fsFlag_keeps | apply State.setF_keeps
     | apply KeepsOpt.some | exact KeepsOpt.none | apply KeepsOpt.ite | apply hf | intro x hx | intro y
     | (extract_lets +onlyGivenNames x; refine Keeps.cut F s x ?_ (fun hx => ?_); rotate_left 1; clear_value x; rotate_left 1; unfold x)
     | split

theorem State.stands_keeps {F : List Fld} {s t : State} (f_regs : Fld.regs ∈ F) (h : Keeps F s t) (c : Nat) :
    Keeps F s (State.stands t c) := by
  unfold State.stands
  with_reducible repeat' first
     | exact Keeps.refl _ | assumption | apply Keeps.ite | apply State.setF_keeps

theorem execDieFsRelease_keeps {F : List Fld} {s t : State} (f_regs : Fld.regs ∈ F) (f_islands : Fld.islands ∈ F)
    (f_dies : Fld.dies ∈ F) (f_links : Fld.links ∈ F) (h : Keeps F s t) (n : Fin 14) :
    KeepsOut F s (execDieFsRelease n t) := by
  unfold execDieFsRelease
  with_reducible repeat' first
     | apply KeepsOut.next | exact Keeps.refl _ | assumption | apply KeepsOut.ite | apply Keeps.ite | apply State.frameRow_keeps
     | apply State.limpShow_keeps | apply State.setDie_keeps | apply State.setF_keeps | apply State.stampStr_keeps
     | apply State.stands_keeps | apply KeepsOpt.some | exact KeepsOpt.none | apply KeepsOpt.ite | apply Keeps.foldl | apply hf
     | intro x hx | intro y
     | (extract_lets +onlyGivenNames x; first | (refine Keeps.cut F s x ?_ (fun hx => ?_); rotate_left 1; clear_value x; rotate_left 1; unfold x) | clear_value x)
     | split

theorem State.limpFollow_keeps {F : List Fld} {s t : State} (f_free : Fld.free ∈ F) (f_regs : Fld.regs ∈ F)
    (f_islands : Fld.islands ∈ F) (f_offers : Fld.offers ∈ F) (f_chans : Fld.chans ∈ F) (f_dies : Fld.dies ∈ F)
    (f_dieChs : Fld.dieChs ∈ F) (h : Keeps F s t) (n : Nat) :
    Keeps F s (State.limpFollow t n) := by
  unfold State.limpFollow
  with_reducible repeat' first
     | exact Keeps.refl _ | assumption | apply Keeps.ite | apply State.fsApplyCh_keeps | apply State.limpShow_keeps
     | apply Keeps.foldl | apply hf | intro x hx

theorem execDieLimpArm_keeps {F : List Fld} {s t : State} (f_free : Fld.free ∈ F) (f_regs : Fld.regs ∈ F)
    (f_islands : Fld.islands ∈ F) (f_offers : Fld.offers ∈ F) (f_chans : Fld.chans ∈ F) (f_dies : Fld.dies ∈ F)
    (f_dieChs : Fld.dieChs ∈ F) (f_links : Fld.links ∈ F) (h : Keeps F s t) (n : Fin 14) :
    KeepsOut F s (execDieLimpArm n t) := by
  unfold execDieLimpArm
  with_reducible repeat' first
     | apply KeepsOut.next | exact Keeps.refl _ | assumption | apply KeepsOut.ite | apply Keeps.ite | apply State.frameRow_keeps
     | apply State.limpFollow_keeps | apply State.setDie_keeps | apply KeepsOpt.some | exact KeepsOpt.none | apply KeepsOpt.ite
     | apply hf | intro x hx | intro y | (extract_lets +onlyGivenNames x; clear_value x) | split

theorem execDieHoldWin_keeps {F : List Fld} {s t : State} (f_dies : Fld.dies ∈ F) (f_links : Fld.links ∈ F) (h : Keeps F s t)
    (n : Fin 14) :
    KeepsOut F s (execDieHoldWin n t) := by
  unfold execDieHoldWin
  with_reducible repeat' first
     | apply KeepsOut.next | exact Keeps.refl _ | assumption | apply KeepsOut.ite | apply Keeps.ite | apply State.frameRow_keeps
     | apply State.setDie_keeps | apply KeepsOpt.some | exact KeepsOpt.none | apply KeepsOpt.ite | apply hf | intro x hx | intro y
     | (extract_lets +onlyGivenNames x; clear_value x) | split

theorem execFrameCrcDiscard_keeps {F : List Fld} {s t : State} (f_regs : Fld.regs ∈ F) (f_dies : Fld.dies ∈ F)
    (f_links : Fld.links ∈ F) (h : Keeps F s t) (n : Fin 15) (x : LinkWord) :
    KeepsOut F s (execFrameCrcDiscard n x t) := by
  unfold execFrameCrcDiscard
  with_reducible repeat' first
     | apply KeepsOut.next | exact Keeps.refl _ | assumption | apply KeepsOut.ite | apply Keeps.ite | apply State.incSat_keeps
     | apply State.setDie_keeps | apply State.takeFrame_keeps

theorem State.readBackCh_keeps {F : List Fld} {s t : State} (f_regs : Fld.regs ∈ F) (f_offers : Fld.offers ∈ F)
    (f_chans : Fld.chans ∈ F) (f_dieChs : Fld.dieChs ∈ F) (h : Keeps F s t) (c : Nat) :
    Keeps F s (State.readBackCh t c) := by
  unfold State.readBackCh
  with_reducible repeat' first
     | exact Keeps.refl _ | assumption | apply Keeps.ite | apply Keeps.ite2 | apply State.asDie_keeps | apply State.chCue_keeps
     | apply State.fuse_keeps | apply State.raise_keeps | apply State.setF_keeps | apply State.setReg_keeps
     | apply State.showCh_keeps | (extract_lets +onlyGivenNames x; clear_value x) | split

theorem State.adoptSends_keeps {F : List Fld} {s t : State} (f_regs : Fld.regs ∈ F) (f_chans : Fld.chans ∈ F)
    (f_links : Fld.links ∈ F) (h : Keeps F s t) (n : Nat) (epoch : Nat) :
    Keeps F s (State.adoptSends t n epoch) := by
  unfold State.adoptSends
  with_reducible repeat' first
     | exact Keeps.refl _ | assumption | apply Keeps.ite | apply State.adopt_keeps | apply State.send_keeps
     | apply State.sendCh_keeps | apply State.sendHi_keeps | apply State.setChan_keeps | apply State.setF_keeps
     | apply Keeps.foldl | apply hf | intro x hx | intro y

theorem State.adopt_keeps {F : List Fld} {s t : State} (f_regs : Fld.regs ∈ F) (f_islands : Fld.islands ∈ F)
    (f_offers : Fld.offers ∈ F) (f_chans : Fld.chans ∈ F) (f_dies : Fld.dies ∈ F) (f_dieChs : Fld.dieChs ∈ F)
    (f_links : Fld.links ∈ F) (f_boot : Fld.boot ∈ F) (h : Keeps F s t) (n : Nat) :
    Keeps F s (State.adopt t n) := by
  unfold State.adopt
  with_reducible repeat' first
     | exact Keeps.refl _ | assumption | apply Keeps.ite | apply Keeps.ite2 | apply State.adoptSends_keeps
     | apply State.dieClock_keeps | apply State.fsFlag_keeps | apply State.limpShow_keeps | apply State.readBackCh_keeps
     | apply State.setDie_keeps | apply State.setF_keeps | apply State.setLnk_keeps | apply State.stampStr_keeps
     | apply Keeps.foldl | apply Keeps.foldl2 | apply Keeps.foldl1 | apply hf | intro x hx | intro y
     | (extract_lets +onlyGivenNames x; clear_value x) | split | dsimp only | apply Keeps.upd_boot

theorem execDieAdoption_keeps {F : List Fld} {s t : State} (f_regs : Fld.regs ∈ F) (f_islands : Fld.islands ∈ F)
    (f_offers : Fld.offers ∈ F) (f_chans : Fld.chans ∈ F) (f_dies : Fld.dies ∈ F) (f_dieChs : Fld.dieChs ∈ F)
    (f_links : Fld.links ∈ F) (f_boot : Fld.boot ∈ F) (h : Keeps F s t) (n : Fin 14) :
    KeepsOut F s (execDieAdoption n t) := by
  unfold execDieAdoption
  with_reducible repeat' first
     | apply KeepsOut.next | exact Keeps.refl _ | assumption | apply KeepsOut.ite | apply Keeps.ite | apply State.adopt_keeps

theorem State.dieLost_keeps {F : List Fld} {s t : State} (f_regs : Fld.regs ∈ F) (f_islands : Fld.islands ∈ F)
    (f_dies : Fld.dies ∈ F) (f_links : Fld.links ∈ F) (h : Keeps F s t) (n : Nat) :
    Keeps F s (State.dieLost t n) := by
  unfold State.dieLost
  with_reducible repeat' first
     | exact Keeps.refl _ | assumption | apply State.dieClock_keeps | apply State.fsFlag_keeps | apply State.keepCopy_keeps
     | apply State.setF_keeps | apply State.setLnk_keeps | apply State.stampStr_keeps

theorem execDieStatusFrame_keeps {F : List Fld} {s t : State} (f_regs : Fld.regs ∈ F) (f_islands : Fld.islands ∈ F)
    (f_dies : Fld.dies ∈ F) (f_links : Fld.links ∈ F) (h : Keeps F s t) (n : Fin 14) :
    KeepsOut F s (execDieStatusFrame n t) := by
  unfold execDieStatusFrame
  with_reducible repeat' first
     | apply KeepsOut.next | exact Keeps.refl _ | assumption | apply KeepsOut.ite | apply Keeps.ite | apply State.dieLost_keeps
     | apply State.setF_keeps

theorem State.dutyTick_keeps {F : List Fld} {s t : State} (f_regs : Fld.regs ∈ F) (f_dieChs : Fld.dieChs ∈ F) (h : Keeps F s t)
    (c : Nat) :
    Keeps F s (State.dutyTick t c) := by
  unfold State.dutyTick
  with_reducible repeat' first
     | exact Keeps.refl _ | assumption | apply Keeps.ite | apply Keeps.ite2 | apply State.setDieCh_keeps | apply State.setF_keeps

theorem State.ovlTick_keeps {F : List Fld} {s t : State} (f_regs : Fld.regs ∈ F) (f_chans : Fld.chans ∈ F) (h : Keeps F s t)
    (c : Nat) (i : Nat) :
    Keeps F s (State.ovlTick t c i) := by
  unfold State.ovlTick
  with_reducible repeat' first
     | exact Keeps.refl _ | assumption | apply Keeps.ite | apply State.setChan_keeps | apply State.setF_keeps

theorem State.legReport_keeps {F : List Fld} {s t : State} (f_regs : Fld.regs ∈ F) (f_islands : Fld.islands ∈ F)
    (f_offers : Fld.offers ∈ F) (f_chans : Fld.chans ∈ F) (f_dieChs : Fld.dieChs ∈ F) (h : Keeps F s t) (c : Nat) (i : Nat) :
    Keeps F s (State.legReport t c i) := by
  unfold State.legReport
  with_reducible repeat' first
     | exact Keeps.refl _ | assumption | apply State.carrierStart_keeps | apply State.ovlTick_keeps | apply State.setF_keeps
     | apply State.showChop_keeps

theorem execDieReportFrame_keeps {F : List Fld} {s t : State} (f_regs : Fld.regs ∈ F) (f_islands : Fld.islands ∈ F)
    (f_offers : Fld.offers ∈ F) (f_chans : Fld.chans ∈ F) (f_dies : Fld.dies ∈ F) (f_dieChs : Fld.dieChs ∈ F) (h : Keeps F s t)
    (c : Fin 132) (i : BitVec 16) (vds : BitVec 16) :
    KeepsOut F s (execDieReportFrame c i vds t) := by
  unfold execDieReportFrame
  with_reducible repeat' first
     | apply KeepsOut.next | exact Keeps.refl _ | assumption | apply KeepsOut.ite | apply Keeps.ite | apply Keeps.ite2
     | apply State.dutyTick_keeps | apply State.inDieQ_keeps | apply State.legReport_keeps | apply State.ovlTick_keeps
     | apply State.setChan_keeps | apply State.setF_keeps | apply hf | intro x hx

theorem State.lateRec_keeps {F : List Fld} {s t : State} (f_regs : Fld.regs ∈ F) (f_islands : Fld.islands ∈ F) (h : Keeps F s t)
    (t' : Slate) (island : Nat) (kind : Nat) (index : Nat) (unit : Nat) (event : Nat) (data : Nat) :
    Keeps F s (State.lateRec t t' island kind index unit event data) := by
  unfold State.lateRec
  with_reducible repeat' first
     | exact Keeps.refl _ | assumption | apply State.offerRec_keeps

theorem State.deliver_keeps {F : List Fld} {s t : State} (f_free : Fld.free ∈ F) (f_regs : Fld.regs ∈ F)
    (f_islands : Fld.islands ∈ F) (f_offers : Fld.offers ∈ F) (f_dies : Fld.dies ∈ F) (f_links : Fld.links ∈ F)
    (f_ldg : Fld.ldg ∈ F) (h : Keeps F s t) (n : Nat) :
    Keeps F s (State.deliver t n) := by
  unfold State.deliver
  with_reducible repeat' first
     | exact Keeps.refl _ | assumption | apply Keeps.ite | apply Keeps.ite2 | apply State.chEventAt_keeps
     | apply State.drawn_keeps | apply State.incSat_keeps | apply State.lateRec_keeps | apply State.raise_keeps
     | apply State.setDie_keeps | apply State.setLdgDie_keeps | apply State.setLnk_keeps | apply State.shFlag_keeps
     | apply State.tripContext_keeps
     | (extract_lets +onlyGivenNames x; first | (refine Keeps.cut F s x ?_ (fun hx => ?_); rotate_left 1; clear_value x; rotate_left 1; unfold x) | clear_value x)
     | split

theorem execDieEventFrame_keeps {F : List Fld} {s t : State} (f_free : Fld.free ∈ F) (f_regs : Fld.regs ∈ F)
    (f_islands : Fld.islands ∈ F) (f_offers : Fld.offers ∈ F) (f_dies : Fld.dies ∈ F) (f_links : Fld.links ∈ F)
    (f_ldg : Fld.ldg ∈ F) (h : Keeps F s t) (n : Fin 14) (what : Fin 3) (v : BitVec 32) :
    KeepsOut F s (execDieEventFrame n what v t) := by
  unfold execDieEventFrame
  with_reducible repeat' first
     | apply KeepsOut.next | exact Keeps.refl _ | assumption | apply KeepsOut.ite | apply Keeps.ite | apply State.deliver_keeps
     | apply State.setF_keeps | apply State.setLdgDie_keeps | apply State.storeEvent_keeps

theorem execHoldWindowExpire_keeps {F : List Fld} {s t : State} (f_free : Fld.free ∈ F) (f_regs : Fld.regs ∈ F)
    (f_islands : Fld.islands ∈ F) (f_offers : Fld.offers ∈ F) (f_chans : Fld.chans ∈ F) (f_dies : Fld.dies ∈ F)
    (f_dieChs : Fld.dieChs ∈ F) (h : Keeps F s t) (n : Fin 14) :
    KeepsOut F s (execHoldWindowExpire n t) := by
  unfold execHoldWindowExpire
  with_reducible repeat' first
     | apply KeepsOut.next | exact Keeps.refl _ | assumption | apply KeepsOut.ite | apply Keeps.ite
     | apply State.failsafeEnter_keeps | apply State.setDie_keeps

theorem execFailsafeNextInrush_keeps {F : List Fld} {s t : State} (f_regs : Fld.regs ∈ F) (f_islands : Fld.islands ∈ F)
    (f_offers : Fld.offers ∈ F) (f_chans : Fld.chans ∈ F) (f_dies : Fld.dies ∈ F) (f_dieChs : Fld.dieChs ∈ F) (h : Keeps F s t)
    (n : Fin 14) :
    KeepsOut F s (execFailsafeNextInrush n t) := by
  unfold execFailsafeNextInrush
  with_reducible repeat' first
     | apply KeepsOut.next | exact Keeps.refl _ | assumption | apply KeepsOut.ite | apply Keeps.ite | apply State.fuse_keeps
     | apply State.inDie_keeps | apply State.setChan_keeps | apply State.setDieCh_keeps | apply State.setPh_keeps
     | apply State.startRun_keeps | apply State.turnOnMark_keeps | apply hf | intro x hx | intro y
     | (extract_lets +onlyGivenNames x; clear_value x) | split

theorem execDieLinkLost_keeps {F : List Fld} {s t : State} (f_regs : Fld.regs ∈ F) (f_islands : Fld.islands ∈ F)
    (f_dies : Fld.dies ∈ F) (f_links : Fld.links ∈ F) (h : Keeps F s t) (n : Fin 14) :
    KeepsOut F s (execDieLinkLost n t) := by
  unfold execDieLinkLost
  with_reducible repeat' first
     | apply KeepsOut.next | exact Keeps.refl _ | assumption | apply KeepsOut.ite | apply Keeps.ite | apply State.dieLost_keeps

theorem execLinkRetrain_keeps {F : List Fld} {s t : State} (f_regs : Fld.regs ∈ F) (f_links : Fld.links ∈ F) (h : Keeps F s t)
    (n : Fin 14) :
    KeepsOut F s (execLinkRetrain n t) := by
  unfold execLinkRetrain
  with_reducible repeat' first
     | apply KeepsOut.next | exact Keeps.refl _ | assumption | apply KeepsOut.ite | apply Keeps.ite | apply State.dieClock_keeps
     | apply State.setLnk_keeps

theorem execKaGoRearm_keeps {F : List Fld} {s t : State} (f_str : Fld.str ∈ F) (h : Keeps F s t)  :
    KeepsOut F s (execKaGoRearm t) := by
  unfold execKaGoRearm
  with_reducible repeat' first
     | apply KeepsOut.next | exact Keeps.refl _ | assumption | apply KeepsOut.ite | apply Keeps.ite
     | (extract_lets +onlyGivenNames x; clear_value x) | split | apply Keeps.upd_str

theorem execKaGoLapse_keeps {F : List Fld} {s t : State} (f_str : Fld.str ∈ F) (h : Keeps F s t)  :
    KeepsOut F s (execKaGoLapse t) := by
  unfold execKaGoLapse
  with_reducible repeat' first
     | apply KeepsOut.next | exact Keeps.refl _ | assumption | (extract_lets +onlyGivenNames x; clear_value x)
     | apply Keeps.upd_str

theorem State.strDrop_keeps {F : List Fld} {s t : State} (f_regs : Fld.regs ∈ F) (f_islands : Fld.islands ∈ F) (h : Keeps F s t)
    (init : Nat) (addr : Nat) :
    Keeps F s (State.strDrop t init addr) := by
  unfold State.strDrop
  with_reducible repeat' first
     | exact Keeps.refl _ | assumption | apply State.incSat_keeps | apply State.setF_keeps | apply State.setReg_keeps
     | apply State.stampStr_keeps

theorem State.strWrite_keeps {F : List Fld} {s t : State} (f_regs : Fld.regs ∈ F) (f_islands : Fld.islands ∈ F)
    (h : Keeps F s t) (init : Nat) (addr : Nat) (k : State → State) (h_k : ∀ y0 : State, Keeps F s y0 →  Keeps F s (k y0)) :
    Keeps F s (State.strWrite t init addr k) := by
  unfold State.strWrite
  with_reducible repeat' first
     | exact Keeps.refl _ | assumption | apply Keeps.ite | apply State.strDrop_keeps | apply h_k

theorem State.stampWrite_keeps {F : List Fld} {s t : State} (f_regs : Fld.regs ∈ F) (f_islands : Fld.islands ∈ F)
    (h : Keeps F s t) (addr : Nat) (w : Word) :
    Keeps F s (State.stampWrite t addr w) := by
  unfold State.stampWrite
  with_reducible repeat' first
     | exact Keeps.refl _ | assumption | apply State.stampStr_keeps

theorem State.kaCtlWrite_keeps {F : List Fld} {s t : State} (f_regs : Fld.regs ∈ F) (f_islands : Fld.islands ∈ F)
    (f_dies : Fld.dies ∈ F) (f_links : Fld.links ∈ F) (h : Keeps F s t) (init : Nat) (w : Word) :
    Keeps F s (State.kaCtlWrite t init w) := by
  unfold State.kaCtlWrite
  with_reducible repeat' first
     | exact Keeps.refl _ | assumption | apply Keeps.ite | apply State.keepCopy_keeps | apply State.setLnk_keeps
     | apply State.setReg_keeps | apply State.stampWrite_keeps | apply State.strWrite_keeps | apply Keeps.foldl | apply hf
     | intro x hx | intro y

theorem execKaEnWrite_keeps {F : List Fld} {s t : State} (f_regs : Fld.regs ∈ F) (f_islands : Fld.islands ∈ F)
    (f_dies : Fld.dies ∈ F) (f_links : Fld.links ∈ F) (h : Keeps F s t) (init : Byte) (w : Word) :
    KeepsOut F s (execKaEnWrite init w t) := by
  unfold execKaEnWrite
  with_reducible repeat' first
     | apply KeepsOut.next | exact Keeps.refl _ | assumption | apply State.kaCtlWrite_keeps

theorem State.fsApplyLinks_keeps {F : List Fld} {s t : State} (f_links : Fld.links ∈ F) (h : Keeps F s t) (mask : Nat)
    (cause : Nat) :
    Keeps F s (State.fsApplyLinks t mask cause) := by
  unfold State.fsApplyLinks
  with_reducible repeat' first
     | exact Keeps.refl _ | assumption | apply Keeps.ite | apply State.send_keeps | apply State.setLnk_keeps | apply Keeps.foldl
     | apply hf | intro x hx | intro y

theorem State.fsApplyWrite_keeps {F : List Fld} {s t : State} (f_regs : Fld.regs ∈ F) (f_islands : Fld.islands ∈ F)
    (f_links : Fld.links ∈ F) (h : Keeps F s t) (init : Nat) (cause : Nat) (w : Word) :
    Keeps F s (State.fsApplyWrite t init cause w) := by
  unfold State.fsApplyWrite
  with_reducible repeat' first
     | exact Keeps.refl _ | assumption | apply State.fsApplyLinks_keeps | apply State.stampWrite_keeps
     | apply State.strWrite_keeps | intro x hx

theorem execFsApplyWrite_keeps {F : List Fld} {s t : State} (f_regs : Fld.regs ∈ F) (f_islands : Fld.islands ∈ F)
    (f_links : Fld.links ∈ F) (h : Keeps F s t) (init : Byte) (w : Word) :
    KeepsOut F s (execFsApplyWrite init w t) := by
  unfold execFsApplyWrite
  with_reducible repeat' first
     | apply KeepsOut.next | exact Keeps.refl _ | assumption | apply State.fsApplyWrite_keeps

theorem State.fsReleaseWrite_keeps {F : List Fld} {s t : State} (f_regs : Fld.regs ∈ F) (f_islands : Fld.islands ∈ F)
    (f_offers : Fld.offers ∈ F) (f_links : Fld.links ∈ F) (h : Keeps F s t) (init : Nat) (w : Word) :
    Keeps F s (State.fsReleaseWrite t init w) := by
  unfold State.fsReleaseWrite
  with_reducible repeat' first
     | exact Keeps.refl _ | assumption | apply Keeps.ite | apply State.chCue_keeps | apply State.send_keeps
     | apply State.setLnk_keeps | apply State.stampWrite_keeps | apply State.strWrite_keeps | apply Keeps.foldl | apply hf
     | intro x hx | intro y

theorem execFsReleaseWrite_keeps {F : List Fld} {s t : State} (f_regs : Fld.regs ∈ F) (f_islands : Fld.islands ∈ F)
    (f_offers : Fld.offers ∈ F) (f_links : Fld.links ∈ F) (h : Keeps F s t) (init : Byte) (w : Word) :
    KeepsOut F s (execFsReleaseWrite init w t) := by
  unfold execFsReleaseWrite
  with_reducible repeat' first
     | apply KeepsOut.next | exact Keeps.refl _ | assumption | apply State.fsReleaseWrite_keeps

theorem State.limpArmWrite_keeps {F : List Fld} {s t : State} (f_regs : Fld.regs ∈ F) (f_islands : Fld.islands ∈ F)
    (f_links : Fld.links ∈ F) (h : Keeps F s t) (init : Nat) (w : Word) :
    Keeps F s (State.limpArmWrite t init w) := by
  unfold State.limpArmWrite
  with_reducible repeat' first
     | exact Keeps.refl _ | assumption | apply Keeps.ite | apply State.send_keeps | apply State.setReg_keeps
     | apply State.stampWrite_keeps | apply State.strWrite_keeps | apply Keeps.foldl | apply hf | intro x hx | intro y

theorem execLimpArmWrite_keeps {F : List Fld} {s t : State} (f_regs : Fld.regs ∈ F) (f_islands : Fld.islands ∈ F)
    (f_links : Fld.links ∈ F) (h : Keeps F s t) (init : Byte) (w : Word) :
    KeepsOut F s (execLimpArmWrite init w t) := by
  unfold execLimpArmWrite
  with_reducible repeat' first
     | apply KeepsOut.next | exact Keeps.refl _ | assumption | apply State.limpArmWrite_keeps

theorem State.holdWinWrite_keeps {F : List Fld} {s t : State} (f_regs : Fld.regs ∈ F) (f_islands : Fld.islands ∈ F)
    (f_links : Fld.links ∈ F) (h : Keeps F s t) (init : Nat) (n : Nat) (w : Word) :
    Keeps F s (State.holdWinWrite t init n w) := by
  unfold State.holdWinWrite
  with_reducible repeat' first
     | exact Keeps.refl _ | assumption | apply Keeps.ite | apply State.send_keeps | apply State.setReg_keeps
     | apply State.stampWrite_keeps | apply State.strWrite_keeps | apply hf | intro x hx

theorem execHoldWinWrite_keeps {F : List Fld} {s t : State} (f_regs : Fld.regs ∈ F) (f_islands : Fld.islands ∈ F)
    (f_links : Fld.links ∈ F) (h : Keeps F s t) (init : Byte) (n : Fin 14) (w : Word) :
    KeepsOut F s (execHoldWinWrite init n w t) := by
  unfold execHoldWinWrite
  with_reducible repeat' first
     | apply KeepsOut.next | exact Keeps.refl _ | assumption | apply KeepsOut.ite | apply Keeps.ite
     | apply State.holdWinWrite_keeps

theorem State.pinCtlWrite_keeps {F : List Fld} {s t : State} (f_regs : Fld.regs ∈ F) (f_islands : Fld.islands ∈ F)
    (h : Keeps F s t) (init : Nat) (w : Word) :
    Keeps F s (State.pinCtlWrite t init w) := by
  unfold State.pinCtlWrite
  with_reducible repeat' first
     | exact Keeps.refl _ | assumption | apply State.setReg_keeps | apply State.stampWrite_keeps | apply State.strWrite_keeps
     | intro x hx

theorem execPinCtlWrite_keeps {F : List Fld} {s t : State} (f_regs : Fld.regs ∈ F) (f_islands : Fld.islands ∈ F)
    (h : Keeps F s t) (init : Byte) (w : Word) :
    KeepsOut F s (execPinCtlWrite init w t) := by
  unfold execPinCtlWrite
  with_reducible repeat' first
     | apply KeepsOut.next | exact Keeps.refl _ | assumption | apply State.pinCtlWrite_keeps

theorem State.fsTableWrite_keeps {F : List Fld} {s t : State} (f_regs : Fld.regs ∈ F) (f_islands : Fld.islands ∈ F)
    (f_links : Fld.links ∈ F) (h : Keeps F s t) (init : Nat) (c : Nat) (w : Word) :
    Keeps F s (State.fsTableWrite t init c w) := by
  unfold State.fsTableWrite
  with_reducible repeat' first
     | exact Keeps.refl _ | assumption | apply Keeps.ite | apply State.sendCh_keeps | apply State.setReg_keeps
     | apply State.strWrite_keeps | apply hf | intro x hx

theorem execFsTableWrite_keeps {F : List Fld} {s t : State} (f_regs : Fld.regs ∈ F) (f_islands : Fld.islands ∈ F)
    (f_links : Fld.links ∈ F) (h : Keeps F s t) (init : Byte) (c : Fin 132) (w : Word) :
    KeepsOut F s (execFsTableWrite init c w t) := by
  unfold execFsTableWrite
  with_reducible repeat' first
     | apply KeepsOut.next | exact Keeps.refl _ | assumption | apply State.fsTableWrite_keeps

theorem execLimpInputChange_keeps {F : List Fld} {s t : State} (f_free : Fld.free ∈ F) (f_regs : Fld.regs ∈ F)
    (f_islands : Fld.islands ∈ F) (f_offers : Fld.offers ∈ F) (f_chans : Fld.chans ∈ F) (f_dies : Fld.dies ∈ F)
    (f_dieChs : Fld.dieChs ∈ F) (h : Keeps F s t) (n : Fin 11) (levels : BitVec 9) :
    KeepsOut F s (execLimpInputChange n levels t) := by
  unfold execLimpInputChange
  with_reducible repeat' first
     | apply KeepsOut.next | exact Keeps.refl _ | assumption | apply KeepsOut.ite | apply Keeps.ite | apply State.limpFollow_keeps
     | apply State.setDie_keeps | apply State.setF_keeps

theorem execFsReleaseEval_keeps {F : List Fld} {s t : State} (f_regs : Fld.regs ∈ F) (f_islands : Fld.islands ∈ F)
    (f_offers : Fld.offers ∈ F) (f_links : Fld.links ∈ F) (h : Keeps F s t)  :
    KeepsOut F s (execFsReleaseEval t) := by
  unfold execFsReleaseEval
  with_reducible repeat' first
     | apply KeepsOut.next | exact Keeps.refl _ | assumption | apply KeepsOut.ite | apply Keeps.ite
     | apply State.fsReleaseWrite_keeps

end Sys2Proof.Machine
end

