-- ==== Sys2Proof/Laws/KeepsSlate.lean ====
section
/-! SUPPORT. What the operations and meanings of Machine/Slate.lean keep. -/

namespace Sys2Proof.Machine

theorem execSlateCorrection_keeps {F : List Fld} {s t : State} (f_free : Fld.free ∈ F) (f_islands : Fld.islands ∈ F)
    (h : Keeps F s t) (isl : Fin 30) :
    KeepsOut F s (execSlateCorrection isl t) := by
  unfold execSlateCorrection
  with_reducible repeat' first
     | apply KeepsOut.next | exact Keeps.refl _ | assumption | apply KeepsOut.ite | apply Keeps.ite | apply State.drawn_keeps
     | apply State.setIsland_keeps

theorem State.setGptpOfs_keeps {F : List Fld} {s t : State} (f_regs : Fld.regs ∈ F) (h : Keeps F s t) (x : Int) :
    Keeps F s (State.setGptpOfs t x) := by
  unfold State.setGptpOfs
  with_reducible repeat' first
     | exact Keeps.refl _ | assumption | apply State.setReg_keeps

theorem State.stampFrm_keeps {F : List Fld} {s t : State} (f_regs : Fld.regs ∈ F) (f_islands : Fld.islands ∈ F)
    (h : Keeps F s t) (event : Nat) (data : Nat) :
    Keeps F s (State.stampFrm t event data) := by
  unfold State.stampFrm
  with_reducible repeat' first
     | exact Keeps.refl _ | assumption | apply State.stampUnit_keeps

theorem execGptpSync_keeps {F : List Fld} {s t : State} (f_free : Fld.free ∈ F) (f_regs : Fld.regs ∈ F)
    (f_islands : Fld.islands ∈ F) (f_frm : Fld.frm ∈ F) (h : Keeps F s t) (ns : BitVec 64) :
    KeepsOut F s (execGptpSync ns t) := by
  unfold execGptpSync
  with_reducible repeat' first
     | apply KeepsOut.next | exact Keeps.refl _ | assumption | apply KeepsOut.ite | apply Keeps.ite | apply Keeps.ite2
     | apply State.drawn_keeps | apply State.raise_keeps | apply State.setF_keeps | apply State.setGptpOfs_keeps
     | apply State.stampFrm_keeps
     | (extract_lets +onlyGivenNames x; first | (refine Keeps.cut F s x ?_ (fun hx => ?_); rotate_left 1; clear_value x; rotate_left 1; unfold x) | clear_value x)
     | split | dsimp only | apply Keeps.upd_frm

theorem execGptpHoldover_keeps {F : List Fld} {s t : State} (f_regs : Fld.regs ∈ F) (f_islands : Fld.islands ∈ F)
    (h : Keeps F s t)  :
    KeepsOut F s (execGptpHoldover t) := by
  unfold execGptpHoldover
  with_reducible repeat' first
     | apply KeepsOut.next | exact Keeps.refl _ | assumption | apply KeepsOut.ite | apply Keeps.ite | apply State.raise_keeps
     | apply State.setF_keeps | apply State.stampFrm_keeps

theorem State.showPending_keeps {F : List Fld} {s t : State} (f_regs : Fld.regs ∈ F) (h : Keeps F s t)  :
    Keeps F s (State.showPending t) := by
  unfold State.showPending
  with_reducible repeat' first
     | exact Keeps.refl _ | assumption | apply State.setF_keeps

theorem State.ringWrite_keeps {F : List Fld} {s t : State} (f_regs : Fld.regs ∈ F) (f_mem : Fld.mem ∈ F) (f_dly : Fld.dly ∈ F)
    (h : Keeps F s t) (r : DailyRec) :
    Keeps F s (State.ringWrite t r) := by
  unfold State.ringWrite
  with_reducible repeat' first
     | exact Keeps.refl _ | assumption | apply Keeps.ite | apply Keeps.ite2 | apply State.incMod_keeps | apply State.incSat_keeps
     | apply State.raise_keeps | apply State.setF_keeps | apply State.showPending_keeps | apply State.wrBytes_keeps
     | (extract_lets +onlyGivenNames x; clear_value x) | split | dsimp only | apply Keeps.upd_dly

theorem execDailiesRecordWrite_keeps {F : List Fld} {s t : State} (f_regs : Fld.regs ∈ F) (f_mem : Fld.mem ∈ F)
    (f_islands : Fld.islands ∈ F) (f_dly : Fld.dly ∈ F) (h : Keeps F s t) (isl : Fin 30) :
    KeepsOut F s (execDailiesRecordWrite isl t) := by
  unfold execDailiesRecordWrite
  with_reducible repeat' first
     | apply KeepsOut.next | exact Keeps.refl _ | assumption | apply KeepsOut.ite | apply Keeps.ite | apply State.ringWrite_keeps
     | apply State.setIsland_keeps | (extract_lets +onlyGivenNames x; clear_value x) | split

theorem execDailiesLostRecord_keeps {F : List Fld} {s t : State} (f_regs : Fld.regs ∈ F) (f_islands : Fld.islands ∈ F)
    (h : Keeps F s t) (isl : Fin 30) :
    KeepsOut F s (execDailiesLostRecord isl t) := by
  unfold execDailiesLostRecord
  with_reducible repeat' first
     | apply KeepsOut.next | exact Keeps.refl _ | assumption | apply KeepsOut.ite | apply Keeps.ite | apply State.setIsland_keeps
     | apply State.stamp_keeps

theorem State.mramRest_keeps {F : List Fld} {s t : State} (f_regs : Fld.regs ∈ F) (h : Keeps F s t)  :
    Keeps F s (State.mramRest t) := by
  unfold State.mramRest
  with_reducible repeat' first
     | exact Keeps.refl _ | assumption | apply Keeps.ite | apply Keeps.ite2 | apply State.setF_keeps

theorem State.archiveRequest_keeps {F : List Fld} {s t : State} (f_regs : Fld.regs ∈ F) (f_dly : Fld.dly ∈ F) (h : Keeps F s t)  :
    Keeps F s (State.archiveRequest t) := by
  unfold State.archiveRequest
  with_reducible repeat' first
     | exact Keeps.refl _ | assumption | apply State.setF_keeps
     | (extract_lets +onlyGivenNames x; first | (refine Keeps.cut F s x ?_ (fun hx => ?_); rotate_left 1; clear_value x; rotate_left 1; unfold x) | clear_value x)
     | apply Keeps.upd_dly

theorem execArchiveRequest_keeps {F : List Fld} {s t : State} (f_regs : Fld.regs ∈ F) (f_dly : Fld.dly ∈ F) (h : Keeps F s t)
    (_init : Byte) :
    KeepsOut F s (execArchiveRequest _init t) := by
  unfold execArchiveRequest
  with_reducible repeat' first
     | apply KeepsOut.next | exact Keeps.refl _ | assumption | apply KeepsOut.ite | apply Keeps.ite
     | apply State.archiveRequest_keeps

theorem State.archiveSlot_keeps {F : List Fld} {s t : State} (f_regs : Fld.regs ∈ F) (h : Keeps F s t) (bad : List Nat)
    (n : Nat) : Keeps F s (t.archiveSlot bad n) := by
  induction n generalizing t with
  | zero => exact h
  | succ k ih =>
    unfold State.archiveSlot
    split
    · exact ih (State.incMod_keeps f_regs (State.raise_keeps f_regs h _ _) _)
    · exact h

theorem State.f_lt (s : State) (r : RF) : s.f r < 2 ^ r.w := by
  unfold State.f RF.get; exact (BitVec.extractLsb' r.lo r.w (s.reg r.addr)).isLt

theorem State.archiveOne_keeps {F : List Fld} {s t : State} (f_regs : Fld.regs ∈ F) (f_mram : Fld.mram ∈ F) (h : Keeps F s t)
    (bad : List Nat) (pos : Nat) : Keeps F s (t.archiveOne bad pos) := by
  unfold State.archiveOne
  extract_lets u
  have hu : Keeps F s u := State.archiveSlot_keeps f_regs h _ _
  refine State.incMod_keeps f_regs (State.mwrBytes_keeps f_mram hu _ _ ?_) _
  have := u.f_lt DLY_ARCH_STAT_ARCH_WR
  simp [State.rdBytes, identAt, dlyArchive, DLY_ARCH_STAT_ARCH_WR] at this ⊢
  omega

theorem State.archiveN_keeps {F : List Fld} {s t : State} (f_regs : Fld.regs ∈ F) (f_mram : Fld.mram ∈ F) (f_dly : Fld.dly ∈ F)
    (h : Keeps F s t) (bad : List Nat) (n : Nat) :
    Keeps F s (State.archiveN t bad n) := by
  unfold State.archiveN
  with_reducible repeat' first
     | exact Keeps.refl _ | assumption | apply State.archiveOne_keeps | apply State.showPending_keeps | apply Keeps.foldl
     | apply Keeps.foldl2 | apply Keeps.foldl1 | apply hf | intro x hx | intro y | (extract_lets +onlyGivenNames x; clear_value x)
     | dsimp only | apply Keeps.upd_dly

theorem execArchiveDone_keeps {F : List Fld} {s t : State} (f_regs : Fld.regs ∈ F) (f_mram : Fld.mram ∈ F) (f_dly : Fld.dly ∈ F)
    (h : Keeps F s t) (bad : List (BitVec 16)) :
    KeepsOut F s (execArchiveDone bad t) := by
  unfold execArchiveDone
  with_reducible repeat' first
     | apply KeepsOut.next | exact Keeps.refl _ | assumption | apply KeepsOut.ite | apply Keeps.ite | apply State.archiveN_keeps
     | apply State.mramRest_keeps | apply State.setF_keeps

theorem State.ringDrain_keeps {F : List Fld} {s t : State} (f_regs : Fld.regs ∈ F) (f_mem : Fld.mem ∈ F)
    (f_islands : Fld.islands ∈ F) (f_dly : Fld.dly ∈ F) (h : Keeps F s t)  :
    Keeps F s (State.ringDrain t) := by
  unfold State.ringDrain
  with_reducible repeat' first
     | exact Keeps.refl _ | assumption | apply State.ringWrite_keeps | apply State.setIsland_keeps | apply Keeps.foldl | apply hf
     | intro x hx | intro y

theorem State.flush_keeps {F : List Fld} {s t : State} (f_regs : Fld.regs ∈ F) (f_mem : Fld.mem ∈ F) (f_mram : Fld.mram ∈ F)
    (f_islands : Fld.islands ∈ F) (f_dly : Fld.dly ∈ F) (h : Keeps F s t)  :
    Keeps F s (State.flush t) := by
  unfold State.flush
  with_reducible repeat' first
     | exact Keeps.refl _ | assumption | apply Keeps.ite | apply Keeps.ite2 | apply State.archiveOne_keeps
     | apply State.raise_keeps | apply State.ringDrain_keeps | apply State.showPending_keeps | apply Keeps.foldl
     | apply Keeps.foldl2 | apply Keeps.foldl1 | apply hf | intro x hx | intro y | (extract_lets +onlyGivenNames x; clear_value x)
     | split | dsimp only | apply Keeps.upd_dly

theorem State.sendBoundary_keeps {F : List Fld} {s t : State} (f_frm : Fld.frm ∈ F) (f_dies : Fld.dies ∈ F)
    (f_trk : Fld.trk ∈ F) (h : Keeps F s t) (b : Nat) :
    Keeps F s (State.sendBoundary t b) := by
  unfold State.sendBoundary
  with_reducible repeat' first
     | exact Keeps.refl _ | assumption | apply Keeps.ite | apply Keeps.ite2 | apply State.setDie_keeps | apply State.trkKeep_keeps
     | apply Keeps.foldl | apply Keeps.foldl2 | apply Keeps.foldl1 | apply hf | intro x hx | intro y
     | (extract_lets +onlyGivenNames x; clear_value x) | split | dsimp only | apply Keeps.upd_frm

theorem State.freeBoundary_keeps {F : List Fld} {s t : State} (f_regs : Fld.regs ∈ F) (f_frm : Fld.frm ∈ F)
    (f_dies : Fld.dies ∈ F) (f_trk : Fld.trk ∈ F) (h : Keeps F s t) (bit : Nat) :
    Keeps F s (State.freeBoundary t bit) := by
  unfold State.freeBoundary
  with_reducible repeat' first
     | exact Keeps.refl _ | assumption | apply State.sendBoundary_keeps | apply State.setF_keeps

theorem State.syncBoundary_keeps {F : List Fld} {s t : State} (f_regs : Fld.regs ∈ F) (f_islands : Fld.islands ∈ F)
    (f_frm : Fld.frm ∈ F) (f_offers : Fld.offers ∈ F) (f_dies : Fld.dies ∈ F) (f_trk : Fld.trk ∈ F) (h : Keeps F s t)
    (bit : Nat) :
    Keeps F s (State.syncBoundary t bit) := by
  unfold State.syncBoundary
  with_reducible repeat' first
     | exact Keeps.refl _ | assumption | apply Keeps.ite | apply State.incSat_keeps | apply State.raise_keeps
     | apply State.sendBoundary_keeps | apply State.setF_keeps | apply State.stampFrm_keeps | apply State.unitCue_keeps

theorem execFrameBoundaryDecide_keeps {F : List Fld} {s t : State} (f_free : Fld.free ∈ F) (f_regs : Fld.regs ∈ F)
    (f_islands : Fld.islands ∈ F) (f_frm : Fld.frm ∈ F) (f_offers : Fld.offers ∈ F) (f_dies : Fld.dies ∈ F)
    (f_trk : Fld.trk ∈ F) (h : Keeps F s t)  :
    KeepsOut F s (execFrameBoundaryDecide t) := by
  unfold execFrameBoundaryDecide
  with_reducible repeat' first
     | apply KeepsOut.next | exact Keeps.refl _ | assumption | apply KeepsOut.ite | apply Keeps.ite | apply State.drawn_keeps
     | apply State.freeBoundary_keeps | apply State.syncBoundary_keeps

theorem State.frameCh_keeps {F : List Fld} {s t : State} (f_regs : Fld.regs ∈ F) (f_islands : Fld.islands ∈ F)
    (f_offers : Fld.offers ∈ F) (f_chans : Fld.chans ∈ F) (f_dies : Fld.dies ∈ F) (f_dieChs : Fld.dieChs ∈ F) (h : Keeps F s t)
    (c : Nat) :
    Keeps F s (State.frameCh t c) := by
  unfold State.frameCh
  with_reducible repeat' first
     | exact Keeps.refl _ | assumption | apply Keeps.ite | apply Keeps.ite2 | apply State.inDie_keeps
     | apply State.periodStart_keeps | apply State.setChan_keeps | apply State.setDieCh_keeps | apply State.setPh_keeps | apply hf
     | intro x hx | intro y | (extract_lets +onlyGivenNames x; clear_value x) | split

theorem execDieFrameBoundary_keeps {F : List Fld} {s t : State} (f_regs : Fld.regs ∈ F) (f_islands : Fld.islands ∈ F)
    (f_offers : Fld.offers ∈ F) (f_chans : Fld.chans ∈ F) (f_dies : Fld.dies ∈ F) (f_dieChs : Fld.dieChs ∈ F) (h : Keeps F s t)
    (n : Fin 14) :
    KeepsOut F s (execDieFrameBoundary n t) := by
  unfold execDieFrameBoundary
  with_reducible repeat' first
     | apply KeepsOut.next | exact Keeps.refl _ | assumption | apply KeepsOut.ite | apply Keeps.ite | apply State.asDie_keeps
     | apply State.frameCh_keeps | apply State.setDie_keeps | apply Keeps.foldl | intro x hx

theorem execFsyncEdge_keeps {F : List Fld} {s t : State} (f_regs : Fld.regs ∈ F) (f_frm : Fld.frm ∈ F) (h : Keeps F s t)
    (falling : Bool) :
    KeepsOut F s (execFsyncEdge falling t) := by
  unfold execFsyncEdge
  with_reducible repeat' first
     | apply KeepsOut.next | exact Keeps.refl _ | assumption | apply KeepsOut.ite | apply Keeps.ite | apply State.setF_keeps
     | apply State.setReg_keeps | (extract_lets +onlyGivenNames x; clear_value x) | split | apply Keeps.upd_frm

theorem execFsyncMissing_keeps {F : List Fld} {s t : State} (f_regs : Fld.regs ∈ F) (f_islands : Fld.islands ∈ F)
    (f_frm : Fld.frm ∈ F) (h : Keeps F s t)  :
    KeepsOut F s (execFsyncMissing t) := by
  unfold execFsyncMissing
  with_reducible repeat' first
     | apply KeepsOut.next | exact Keeps.refl _ | assumption | apply KeepsOut.ite | apply Keeps.ite | apply State.raise_keeps
     | apply State.setF_keeps | apply State.stampFrm_keeps
     | (extract_lets +onlyGivenNames x; first | (refine Keeps.cut F s x ?_ (fun hx => ?_); rotate_left 1; clear_value x; rotate_left 1; unfold x) | clear_value x)
     | split | apply Keeps.upd_frm

end Sys2Proof.Machine
end

