-- ==== Sys2Proof/Laws/KeepsNm.lean ====
section
/-! SUPPORT. What the operations and meanings of Machine/Nm.lean keep. -/

namespace Sys2Proof.Machine

theorem State.setCan_keeps {F : List Fld} {s t : State} (f_cans : Fld.cans ∈ F) (h : Keeps F s t) (n : Nat) (x : Can) :
    Keeps F s (State.setCan t n x) := by
  unfold State.setCan
  with_reducible repeat' first
     | exact Keeps.refl _ | assumption | apply hf | intro x hx | intro y | apply Keeps.upd_cans

theorem State.setLin_keeps {F : List Fld} {s t : State} (f_lins : Fld.lins ∈ F) (h : Keeps F s t) (n : Nat) (x : Lin) :
    Keeps F s (State.setLin t n x) := by
  unfold State.setLin
  with_reducible repeat' first
     | exact Keeps.refl _ | assumption | apply hf | intro x hx | intro y | apply Keeps.upd_lins

theorem State.canSettle_keeps {F : List Fld} {s t : State} (f_cans : Fld.cans ∈ F) (h : Keeps F s t) (n : Nat) :
    Keeps F s (State.canSettle t n) := by
  unfold State.canSettle
  with_reducible repeat' first
     | exact Keeps.refl _ | assumption | apply Keeps.ite | apply State.setCan_keeps

theorem State.canMode_keeps {F : List Fld} {s t : State} (f_regs : Fld.regs ∈ F) (f_cans : Fld.cans ∈ F) (h : Keeps F s t)
    (n : Nat) (m : Nat) :
    Keeps F s (State.canMode t n m) := by
  unfold State.canMode
  with_reducible repeat' first
     | exact Keeps.refl _ | assumption | apply State.canSettle_keeps | apply State.setF_keeps

theorem State.linRun_keeps {F : List Fld} {s t : State} (f_regs : Fld.regs ∈ F) (f_lins : Fld.lins ∈ F) (h : Keeps F s t)
    (n : Nat) (v : Bool) :
    Keeps F s (State.linRun t n v) := by
  unfold State.linRun
  with_reducible repeat' first
     | exact Keeps.refl _ | assumption | apply State.setF_keeps | apply State.setLin_keeps

theorem State.linSendWake_keeps {F : List Fld} {s t : State} (f_lins : Fld.lins ∈ F) (h : Keeps F s t) (n : Nat) :
    Keeps F s (State.linSendWake t n) := by
  unfold State.linSendWake
  with_reducible repeat' first
     | exact Keeps.refl _ | assumption | apply Keeps.ite | apply Keeps.ite2 | apply State.setLin_keeps

theorem State.stampLin_keeps {F : List Fld} {s t : State} (f_regs : Fld.regs ∈ F) (f_islands : Fld.islands ∈ F)
    (h : Keeps F s t) (n : Nat) (event : Nat) (data : Nat) :
    Keeps F s (State.stampLin t n event data) := by
  unfold State.stampLin
  with_reducible repeat' first
     | exact Keeps.refl _ | assumption | apply State.stamp_keeps

theorem State.linCue_keeps {F : List Fld} {s t : State} (f_offers : Fld.offers ∈ F) (h : Keeps F s t) (n : Nat) (target : Nat)
    (code : Nat) (arg : Nat) :
    Keeps F s (State.linCue t n target code arg) := by
  unfold State.linCue
  with_reducible repeat' first
     | exact Keeps.refl _ | assumption | apply State.unitCue_keeps

theorem State.linEvent_keeps {F : List Fld} {s t : State} (f_regs : Fld.regs ∈ F) (f_islands : Fld.islands ∈ F)
    (f_offers : Fld.offers ∈ F) (h : Keeps F s t) (n : Nat) (code : Nat) (arg : Nat) (data : Nat) :
    Keeps F s (State.linEvent t n code arg data) := by
  unfold State.linEvent
  with_reducible repeat' first
     | exact Keeps.refl _ | assumption | apply State.linCue_keeps | apply State.stampLin_keeps

theorem State.linSleepSent_keeps {F : List Fld} {s t : State} (f_regs : Fld.regs ∈ F) (f_islands : Fld.islands ∈ F)
    (f_offers : Fld.offers ∈ F) (f_lins : Fld.lins ∈ F) (h : Keeps F s t) (n : Nat) :
    Keeps F s (State.linSleepSent t n) := by
  unfold State.linSleepSent
  with_reducible repeat' first
     | exact Keeps.refl _ | assumption | apply State.linEvent_keeps | apply State.setF_keeps | apply State.setLin_keeps

theorem State.linGotoSleep_keeps {F : List Fld} {s t : State} (f_regs : Fld.regs ∈ F) (f_islands : Fld.islands ∈ F)
    (f_offers : Fld.offers ∈ F) (f_lins : Fld.lins ∈ F) (h : Keeps F s t) (n : Nat) :
    Keeps F s (State.linGotoSleep t n) := by
  unfold State.linGotoSleep
  with_reducible repeat' first
     | exact Keeps.refl _ | assumption | apply Keeps.ite | apply State.linSleepSent_keeps | apply State.setLin_keeps

theorem State.setSeg_keeps {F : List Fld} {s t : State} (f_nm : Fld.nm ∈ F) (h : Keeps F s t) (k : Nat) (x : NmSeg) :
    Keeps F s (State.setSeg t k x) := by
  unfold State.setSeg
  with_reducible repeat' first
     | exact Keeps.refl _ | assumption | apply hf | intro x hx | intro y | apply Keeps.upd_nm

theorem State.nmEvent_keeps {F : List Fld} {s t : State} (f_regs : Fld.regs ∈ F) (f_islands : Fld.islands ∈ F)
    (f_offers : Fld.offers ∈ F) (h : Keeps F s t) (code : Nat) (arg : Nat) (data : Nat) :
    Keeps F s (State.nmEvent t code arg data) := by
  unfold State.nmEvent
  with_reducible repeat' first
     | exact Keeps.refl _ | assumption | apply State.stamp_keeps | apply State.unitCue_keeps

theorem State.insEnd_keeps {F : List Fld} {s t : State} (f_regs : Fld.regs ∈ F) (f_islands : Fld.islands ∈ F)
    (f_offers : Fld.offers ∈ F) (h : Keeps F s t) (k : Nat) (node : Nat) (x : NmNode) :
    Keeps F s (State.insEnd t k node x) := by
  unfold State.insEnd
  with_reducible repeat' first
     | exact Keeps.refl _ | assumption | apply State.nmEvent_keeps | apply State.setF_keeps
     | (extract_lets +onlyGivenNames x; first | (refine Keeps.cut F s x ?_ (fun hx => ?_); rotate_left 1; clear_value x; rotate_left 1; unfold x) | clear_value x)
     | split

theorem State.leaveReady_keeps {F : List Fld} {s t : State} (f_regs : Fld.regs ∈ F) (f_islands : Fld.islands ∈ F)
    (f_offers : Fld.offers ∈ F) (f_nm : Fld.nm ∈ F) (h : Keeps F s t) (k : Nat) :
    Keeps F s (State.leaveReady t k) := by
  unfold State.leaveReady
  with_reducible repeat' first
     | exact Keeps.refl _ | assumption | apply Keeps.ite | apply Keeps.ite2 | apply State.insEnd_keeps | apply State.setSeg_keeps
     | apply Keeps.foldl | apply Keeps.foldl2 | apply Keeps.foldl1 | apply hf | intro x hx | intro y

theorem State.nmSet_keeps {F : List Fld} {s t : State} (f_regs : Fld.regs ∈ F) (f_islands : Fld.islands ∈ F)
    (f_offers : Fld.offers ∈ F) (f_nm : Fld.nm ∈ F) (h : Keeps F s t) (k : Nat) (st : Nat) :
    Keeps F s (State.nmSet t k st) := by
  unfold State.nmSet
  with_reducible repeat' first
     | exact Keeps.refl _ | assumption | apply Keeps.ite | apply Keeps.ite2 | apply State.incSat_keeps
     | apply State.leaveReady_keeps | apply State.nmEvent_keeps | apply State.setF_keeps | apply State.setSeg_keeps

theorem State.nmRecheck_keeps {F : List Fld} {s t : State} (f_regs : Fld.regs ∈ F) (f_islands : Fld.islands ∈ F)
    (f_offers : Fld.offers ∈ F) (f_nm : Fld.nm ∈ F) (h : Keeps F s t)  :
    Keeps F s (State.nmRecheck t) := by
  unfold State.nmRecheck
  with_reducible repeat' first
     | exact Keeps.refl _ | assumption | apply Keeps.ite | apply State.nmSet_keeps | apply Keeps.foldl | intro x hx | intro y

theorem State.nmShow_keeps {F : List Fld} {s t : State} (f_regs : Fld.regs ∈ F) (h : Keeps F s t) (k : Nat) :
    Keeps F s (State.nmShow t k) := by
  unfold State.nmShow
  with_reducible repeat' first
     | exact Keeps.refl _ | assumption | apply State.setF_keeps | apply State.setReg_keeps

theorem State.nmSend_keeps {F : List Fld} {s t : State} (f_cans : Fld.cans ∈ F) (h : Keeps F s t) (k : Nat) (alive : Bool)
    (ack : Bool) (wake : Bool) (cause : Nat) :
    Keeps F s (State.nmSend t k alive ack wake cause) := by
  unfold State.nmSend
  with_reducible repeat' first
     | exact Keeps.refl _ | assumption | apply State.setCan_keeps

theorem State.nmJoin_keeps {F : List Fld} {s t : State} (f_regs : Fld.regs ∈ F) (f_trx : Fld.trx ∈ F) (f_cans : Fld.cans ∈ F)
    (f_lins : Fld.lins ∈ F) (f_pwr : Fld.pwr ∈ F) (h : Keeps F s t) (k : Nat) (cause : Nat) :
    Keeps F s (State.nmJoin t k cause) := by
  unfold State.nmJoin
  with_reducible repeat' first
     | exact Keeps.refl _ | assumption | apply Keeps.ite | apply State.canMode_keeps | apply State.linRun_keeps
     | apply State.linSendWake_keeps | apply State.nmSend_keeps | apply State.trxReq_keeps

theorem State.nmWake_keeps {F : List Fld} {s t : State} (f_regs : Fld.regs ∈ F) (f_islands : Fld.islands ∈ F)
    (f_offers : Fld.offers ∈ F) (f_trx : Fld.trx ∈ F) (f_cans : Fld.cans ∈ F) (f_lins : Fld.lins ∈ F) (f_nm : Fld.nm ∈ F)
    (f_pwr : Fld.pwr ∈ F) (h : Keeps F s t) (k : Nat) (cause : Nat) :
    Keeps F s (State.nmWake t k cause) := by
  unfold State.nmWake
  with_reducible repeat' first
     | exact Keeps.refl _ | assumption | apply State.incSat_keeps | apply State.nmJoin_keeps | apply State.nmRecheck_keeps
     | apply State.nmSet_keeps | apply State.setF_keeps | apply State.setSeg_keeps

theorem State.lateWake_keeps {F : List Fld} {s t : State} (f_regs : Fld.regs ∈ F) (f_islands : Fld.islands ∈ F)
    (f_offers : Fld.offers ∈ F) (h : Keeps F s t) (k : Nat) (phase : Nat) (cause : Nat) :
    Keeps F s (State.lateWake t k phase cause) := by
  unfold State.lateWake
  with_reducible repeat' first
     | exact Keeps.refl _ | assumption | apply State.incSat_keeps | apply State.nmEvent_keeps | apply State.raise_keeps

theorem State.localWake_keeps {F : List Fld} {s t : State} (f_regs : Fld.regs ∈ F) (f_islands : Fld.islands ∈ F)
    (f_offers : Fld.offers ∈ F) (f_trx : Fld.trx ∈ F) (f_cans : Fld.cans ∈ F) (f_lins : Fld.lins ∈ F) (f_nm : Fld.nm ∈ F)
    (f_pwr : Fld.pwr ∈ F) (h : Keeps F s t) (k : Nat) (cause : Nat) :
    Keeps F s (State.localWake t k cause) := by
  unfold State.localWake
  with_reducible repeat' first
     | exact Keeps.refl _ | assumption | apply Keeps.ite | apply State.lateWake_keeps | apply State.nmRecheck_keeps
     | apply State.nmWake_keeps | apply State.setSeg_keeps

theorem State.nmTraffic_keeps {F : List Fld} {s t : State} (f_regs : Fld.regs ∈ F) (f_islands : Fld.islands ∈ F)
    (f_offers : Fld.offers ∈ F) (f_trx : Fld.trx ∈ F) (f_cans : Fld.cans ∈ F) (f_lins : Fld.lins ∈ F) (f_nm : Fld.nm ∈ F)
    (f_pwr : Fld.pwr ∈ F) (h : Keeps F s t) (k : Nat) :
    Keeps F s (State.nmTraffic t k) := by
  unfold State.nmTraffic
  with_reducible repeat' first
     | exact Keeps.refl _ | assumption | apply Keeps.ite | apply State.lateWake_keeps | apply State.nmWake_keeps

theorem State.nmBusWake_keeps {F : List Fld} {s t : State} (f_regs : Fld.regs ∈ F) (f_islands : Fld.islands ∈ F)
    (f_offers : Fld.offers ∈ F) (f_trx : Fld.trx ∈ F) (f_cans : Fld.cans ∈ F) (f_lins : Fld.lins ∈ F) (f_nm : Fld.nm ∈ F)
    (f_pwr : Fld.pwr ∈ F) (h : Keeps F s t) (k : Nat) (late : Bool) :
    Keeps F s (State.nmBusWake t k late) := by
  unfold State.nmBusWake
  with_reducible repeat' first
     | exact Keeps.refl _ | assumption | apply Keeps.ite | apply State.lateWake_keeps | apply State.nmWake_keeps

theorem State.nmSlept_keeps {F : List Fld} {s t : State} (f_regs : Fld.regs ∈ F) (f_islands : Fld.islands ∈ F)
    (f_offers : Fld.offers ∈ F) (f_trx : Fld.trx ∈ F) (f_cans : Fld.cans ∈ F) (f_lins : Fld.lins ∈ F) (f_nm : Fld.nm ∈ F)
    (f_pwr : Fld.pwr ∈ F) (h : Keeps F s t) (k : Nat) :
    Keeps F s (State.nmSlept t k) := by
  unfold State.nmSlept
  with_reducible repeat' first
     | exact Keeps.refl _ | assumption | apply Keeps.ite | apply State.nmWake_keeps

theorem State.nmStart_keeps {F : List Fld} {s t : State} (f_regs : Fld.regs ∈ F) (f_islands : Fld.islands ∈ F)
    (f_offers : Fld.offers ∈ F) (f_trx : Fld.trx ∈ F) (f_cans : Fld.cans ∈ F) (f_lins : Fld.lins ∈ F) (f_nm : Fld.nm ∈ F)
    (f_pwr : Fld.pwr ∈ F) (h : Keeps F s t) (k : Nat) :
    Keeps F s (State.nmStart t k) := by
  unfold State.nmStart
  with_reducible repeat' first
     | exact Keeps.refl _ | assumption | apply Keeps.ite | apply State.canMode_keeps | apply State.nmSet_keeps
     | apply State.nmShow_keeps | apply State.nmWake_keeps | apply State.setF_keeps | apply State.trxReq_keeps

theorem State.nmMessage_keeps {F : List Fld} {s t : State} (f_regs : Fld.regs ∈ F) (f_islands : Fld.islands ∈ F)
    (f_offers : Fld.offers ∈ F) (f_cans : Fld.cans ∈ F) (f_nm : Fld.nm ∈ F) (h : Keeps F s t) (k : Nat) (f : CanFrame) :
    Keeps F s (State.nmMessage t k f) := by
  unfold State.nmMessage
  with_reducible repeat' first
     | exact Keeps.refl _ | assumption | apply Keeps.ite | apply Keeps.ite2 | apply State.insEnd_keeps | apply State.nmSend_keeps
     | apply State.nmSet_keeps | apply State.nmShow_keeps | apply State.setSeg_keeps

theorem execNmMessageReceived_keeps {F : List Fld} {s t : State} (f_regs : Fld.regs ∈ F) (f_islands : Fld.islands ∈ F)
    (f_offers : Fld.offers ∈ F) (f_cans : Fld.cans ∈ F) (f_nm : Fld.nm ∈ F) (h : Keeps F s t) (n : Fin 8) (f : CanFrame) :
    KeepsOut F s (execNmMessageReceived n f t) := by
  unfold execNmMessageReceived
  with_reducible repeat' first
     | apply KeepsOut.next | exact Keeps.refl _ | assumption | apply KeepsOut.ite | apply Keeps.ite | apply State.nmMessage_keeps

theorem execNmTurn_keeps {F : List Fld} {s t : State} (f_cans : Fld.cans ∈ F) (f_nm : Fld.nm ∈ F) (h : Keeps F s t) (n : Fin 8) :
    KeepsOut F s (execNmTurn n t) := by
  unfold execNmTurn
  with_reducible repeat' first
     | apply KeepsOut.next | exact Keeps.refl _ | assumption | apply KeepsOut.ite | apply Keeps.ite | apply Keeps.ite2
     | apply State.nmSend_keeps | apply State.setSeg_keeps

theorem State.nmSent_keeps {F : List Fld} {s t : State} (f_regs : Fld.regs ∈ F) (f_islands : Fld.islands ∈ F)
    (f_offers : Fld.offers ∈ F) (f_nm : Fld.nm ∈ F) (h : Keeps F s t) (k : Nat) (msg : List Byte) :
    Keeps F s (State.nmSent t k msg) := by
  unfold State.nmSent
  with_reducible repeat' first
     | exact Keeps.refl _ | assumption | apply Keeps.ite | apply State.nmSet_keeps

theorem execNmRingBroken_keeps {F : List Fld} {s t : State} (f_regs : Fld.regs ∈ F) (f_islands : Fld.islands ∈ F)
    (f_offers : Fld.offers ∈ F) (f_cans : Fld.cans ∈ F) (f_nm : Fld.nm ∈ F) (h : Keeps F s t) (n : Fin 8) :
    KeepsOut F s (execNmRingBroken n t) := by
  unfold execNmRingBroken
  with_reducible repeat' first
     | apply KeepsOut.next | exact Keeps.refl _ | assumption | apply KeepsOut.ite | apply Keeps.ite | apply Keeps.ite2
     | apply State.incSat_keeps | apply State.nmEvent_keeps | apply State.nmSend_keeps | apply State.nmShow_keeps
     | apply State.raise_keeps | apply State.setSeg_keeps

theorem execNmMemberExpire_keeps {F : List Fld} {s t : State} (f_regs : Fld.regs ∈ F) (f_nm : Fld.nm ∈ F) (h : Keeps F s t)
    (n : Fin 8) (node : Fin 64) :
    KeepsOut F s (execNmMemberExpire n node t) := by
  unfold execNmMemberExpire
  with_reducible repeat' first
     | apply KeepsOut.next | exact Keeps.refl _ | assumption | apply KeepsOut.ite | apply Keeps.ite | apply State.nmShow_keeps
     | apply State.setSeg_keeps

theorem execNmListenTimeout_keeps {F : List Fld} {s t : State} (f_regs : Fld.regs ∈ F) (f_islands : Fld.islands ∈ F)
    (f_offers : Fld.offers ∈ F) (f_trx : Fld.trx ∈ F) (f_nm : Fld.nm ∈ F) (f_pwr : Fld.pwr ∈ F) (h : Keeps F s t) (n : Fin 8) :
    KeepsOut F s (execNmListenTimeout n t) := by
  unfold execNmListenTimeout
  with_reducible repeat' first
     | apply KeepsOut.next | exact Keeps.refl _ | assumption | apply KeepsOut.ite | apply Keeps.ite | apply State.nmSet_keeps
     | apply State.trxReq_keeps

theorem execNmReady_keeps {F : List Fld} {s t : State} (f_regs : Fld.regs ∈ F) (f_islands : Fld.islands ∈ F)
    (f_offers : Fld.offers ∈ F) (f_lins : Fld.lins ∈ F) (f_nm : Fld.nm ∈ F) (h : Keeps F s t) (k : Fin 19) :
    KeepsOut F s (execNmReady k t) := by
  unfold execNmReady
  with_reducible repeat' first
     | apply KeepsOut.next | exact Keeps.refl _ | assumption | apply KeepsOut.ite | apply Keeps.ite
     | apply State.linGotoSleep_keeps | apply State.nmSet_keeps

theorem execNmWaitBusSleepExpire_keeps {F : List Fld} {s t : State} (f_regs : Fld.regs ∈ F) (f_islands : Fld.islands ∈ F)
    (f_offers : Fld.offers ∈ F) (f_trx : Fld.trx ∈ F) (f_nm : Fld.nm ∈ F) (f_pwr : Fld.pwr ∈ F) (h : Keeps F s t) (k : Fin 19) :
    KeepsOut F s (execNmWaitBusSleepExpire k t) := by
  unfold execNmWaitBusSleepExpire
  with_reducible repeat' first
     | apply KeepsOut.next | exact Keeps.refl _ | assumption | apply KeepsOut.ite | apply Keeps.ite | apply State.nmSet_keeps
     | apply State.trxReq_keeps

theorem State.uplinkWake_keeps {F : List Fld} {s t : State} (f_regs : Fld.regs ∈ F) (f_islands : Fld.islands ∈ F)
    (f_offers : Fld.offers ∈ F) (f_trx : Fld.trx ∈ F) (f_cans : Fld.cans ∈ F) (f_lins : Fld.lins ∈ F) (f_nm : Fld.nm ∈ F)
    (f_pwr : Fld.pwr ∈ F) (h : Keeps F s t) (k : Nat) (cause : Nat) :
    Keeps F s (State.uplinkWake t k cause) := by
  unfold State.uplinkWake
  with_reducible repeat' first
     | exact Keeps.refl _ | assumption | apply Keeps.ite | apply State.nmWake_keeps

theorem State.nmCtlWrite_keeps {F : List Fld} {s t : State} (f_regs : Fld.regs ∈ F) (f_islands : Fld.islands ∈ F)
    (f_offers : Fld.offers ∈ F) (f_trx : Fld.trx ∈ F) (f_cans : Fld.cans ∈ F) (f_lins : Fld.lins ∈ F) (f_nm : Fld.nm ∈ F)
    (f_pwr : Fld.pwr ∈ F) (h : Keeps F s t) (init : Nat) (k : Nat) (v : Bool) :
    Keeps F s (State.nmCtlWrite t init k v) := by
  unfold State.nmCtlWrite
  with_reducible repeat' first
     | exact Keeps.refl _ | assumption | apply Keeps.ite | apply State.localWake_keeps | apply State.setF_keeps
     | apply State.uplinkWake_keeps

theorem execNmAwakeWrite_keeps {F : List Fld} {s t : State} (f_regs : Fld.regs ∈ F) (f_islands : Fld.islands ∈ F)
    (f_offers : Fld.offers ∈ F) (f_trx : Fld.trx ∈ F) (f_cans : Fld.cans ∈ F) (f_lins : Fld.lins ∈ F) (f_nm : Fld.nm ∈ F)
    (f_pwr : Fld.pwr ∈ F) (h : Keeps F s t) (k : Fin 19) (init : Byte) (v : Bool) :
    KeepsOut F s (execNmAwakeWrite k init v t) := by
  unfold execNmAwakeWrite
  with_reducible repeat' first
     | apply KeepsOut.next | exact Keeps.refl _ | assumption | apply KeepsOut.ite | apply Keeps.ite | apply State.nmCtlWrite_keeps

theorem State.insRecord_keeps {F : List Fld} {s t : State} (f_regs : Fld.regs ∈ F) (h : Keeps F s t) (k : Nat) (node : Nat) :
    Keeps F s (State.insRecord t k node) := by
  unfold State.insRecord
  with_reducible repeat' first
     | exact Keeps.refl _ | assumption | apply State.incSat_keeps | apply State.setF_keeps | apply State.setReg_keeps | apply hf
     | intro x hx | intro y
     | (extract_lets +onlyGivenNames x; refine Keeps.cutFA F s x ?_ (fun hf => ?_); rotate_left 1; clear_value x; rotate_left 1; unfold x)
     | split

theorem execNmInsomnia_keeps {F : List Fld} {s t : State} (f_regs : Fld.regs ∈ F) (f_islands : Fld.islands ∈ F)
    (f_offers : Fld.offers ∈ F) (f_nm : Fld.nm ∈ F) (h : Keeps F s t) (k : Fin 19) (node : Fin 64) :
    KeepsOut F s (execNmInsomnia k node t) := by
  unfold execNmInsomnia
  with_reducible repeat' first
     | apply KeepsOut.next | exact Keeps.refl _ | assumption | apply KeepsOut.ite | apply Keeps.ite | apply Keeps.ite2
     | apply State.insRecord_keeps | apply State.nmEvent_keeps | apply State.raise_keeps | apply State.setSeg_keeps | apply hf
     | intro x hx | intro y
     | (extract_lets +onlyGivenNames x; first | (refine Keeps.cut F s x ?_ (fun hx => ?_); rotate_left 1; clear_value x; rotate_left 1; unfold x) | clear_value x)
     | split

theorem State.insClear_keeps {F : List Fld} {s t : State} (f_regs : Fld.regs ∈ F) (h : Keeps F s t)  :
    Keeps F s (State.insClear t) := by
  unfold State.insClear
  with_reducible repeat' first
     | exact Keeps.refl _ | assumption | apply State.setF_keeps | apply State.setReg_keeps | apply Keeps.foldl | apply hf
     | intro x hx | intro y

theorem execNmInsomniaClear_keeps {F : List Fld} {s t : State} (f_regs : Fld.regs ∈ F) (h : Keeps F s t)  :
    KeepsOut F s (execNmInsomniaClear t) := by
  unfold execNmInsomniaClear
  with_reducible repeat' first
     | apply KeepsOut.next | exact Keeps.refl _ | assumption | apply KeepsOut.ite | apply Keeps.ite | apply State.insClear_keeps

theorem execTc10SleepRequest_keeps {F : List Fld} {s t : State} (f_regs : Fld.regs ∈ F) (f_islands : Fld.islands ∈ F)
    (f_offers : Fld.offers ∈ F) (f_nm : Fld.nm ∈ F) (h : Keeps F s t) (u : Fin 2) :
    KeepsOut F s (execTc10SleepRequest u t) := by
  unfold execTc10SleepRequest
  with_reducible repeat' first
     | apply KeepsOut.next | exact Keeps.refl _ | assumption | apply KeepsOut.ite | apply Keeps.ite | apply State.nmSet_keeps

theorem execTc10Wake_keeps {F : List Fld} {s t : State} (f_regs : Fld.regs ∈ F) (f_islands : Fld.islands ∈ F)
    (f_offers : Fld.offers ∈ F) (f_trx : Fld.trx ∈ F) (f_cans : Fld.cans ∈ F) (f_lins : Fld.lins ∈ F) (f_nm : Fld.nm ∈ F)
    (f_pwr : Fld.pwr ∈ F) (f_trk : Fld.trk ∈ F) (h : Keeps F s t) (u : Fin 2) :
    KeepsOut F s (execTc10Wake u t) := by
  unfold execTc10Wake
  with_reducible repeat' first
     | apply KeepsOut.next | exact Keeps.refl _ | assumption | apply State.uplinkWake_keeps | apply State.wakeSource_keeps

theorem execUplinkLinkDown_keeps {F : List Fld} {s t : State} (f_regs : Fld.regs ∈ F) (h : Keeps F s t) (u : Fin 2) :
    KeepsOut F s (execUplinkLinkDown u t) := by
  unfold execUplinkLinkDown
  with_reducible repeat' first
     | apply KeepsOut.next | exact Keeps.refl _ | assumption | apply State.setF_keeps

theorem execUplinkLinkUp_keeps {F : List Fld} {s t : State} (f_regs : Fld.regs ∈ F) (h : Keeps F s t) (u : Fin 2) :
    KeepsOut F s (execUplinkLinkUp u t) := by
  unfold execUplinkLinkUp
  with_reducible repeat' first
     | apply KeepsOut.next | exact Keeps.refl _ | assumption | apply KeepsOut.ite | apply Keeps.ite | apply State.setF_keeps

end Sys2Proof.Machine
end

