-- ==== Sys2Proof/Laws/KeepsOperands.lean ====
section
/-! SUPPORT. What the operations and meanings of Machine/Operands.lean keep. -/

namespace Sys2Proof.Machine

/-- An end of execution that keeps. -/
structure KeepsExe (F : List Fld) (s : State) (e : Exe) : Prop where
  done_keeps : ∀ t x, e = .done t x → Keeps F s t
  ret_keeps : ∀ t, e = .ret t → Keeps F s t

theorem KeepsExe.done {F : List Fld} {s t : State} (h : Keeps F s t) (x : Option (Nat × Bool)) : KeepsExe F s (.done t x) :=
  ⟨(fun u y hu => by cases hu; exact h), fun u hu => by cases hu⟩
theorem KeepsExe.ret {F : List Fld} {s t : State} (h : Keeps F s t) : KeepsExe F s (.ret t) :=
  ⟨(fun u y hu => by cases hu), fun u hu => by cases hu; exact h⟩
theorem KeepsExe.fault {F : List Fld} {s : State} (n : Nat) : KeepsExe F s
    (.fault n) := ⟨(fun u y hu => by cases hu), fun u hu => by cases hu⟩
theorem KeepsExe.wait {F : List Fld} {s : State} : KeepsExe F s .wait := ⟨(fun u y hu => by cases hu), fun u hu => by cases hu⟩
theorem KeepsExe.ite {F : List Fld} {s : State} {a b : Exe} {c : Prop} [Decidable c] (h : KeepsExe F s a) (k : KeepsExe F s b) :
    KeepsExe F s (if c then a else b) := by split <;> assumption
theorem KeepsExe.cutF {P : Prop} (F : List Fld) (s : State) (x : Nat → Exe) (h : ∀ u, KeepsExe F s (x u)) (k :
    (∀ u, KeepsExe F s (x u)) → P) : P := k h
theorem KeepsExe.andThen {F : List Fld} {s : State} {x : Exe} {k : State → Exe} (h : KeepsExe F s x)
    (hk : ∀ u, Keeps F s u → KeepsExe F s (k u)) :
    KeepsExe F s (x.andThen k) := by
  unfold Exe.andThen
  cases x with
  | done t y => exact hk t (h.done_keeps t y rfl)
  | fault c => exact KeepsExe.fault c
  | wait => exact KeepsExe.wait
  | ret t => exact KeepsExe.ret (h.ret_keeps t rfl)
theorem State.setEng_keeps {F : List Fld} {s t : State} (f_engs : Fld.engs ∈ F) (h : Keeps F s t) (g : Nat) (x : Eng) :
    Keeps F s (State.setEng t g x) := by
  unfold State.setEng
  with_reducible repeat' first
     | exact Keeps.refl _ | assumption | apply hf | intro x hx | intro y | apply Keeps.upd_engs

theorem State.codeW_keeps {F : List Fld} {s t : State} (f_engs : Fld.engs ∈ F) (h : Keeps F s t) (g : Nat) (code : Nat)
    (v : Nat) (kind : Nat) (last : Nat) :
    Keeps F s (State.codeW t g code v kind last) := by
  unfold State.codeW
  with_reducible repeat' first
     | exact Keeps.refl _ | assumption | apply State.setEng_keeps

theorem State.bW_keeps {F : List Fld} {s t : State} (f_engs : Fld.engs ∈ F) (h : Keeps F s t) (g : Nat) (r : Nat) (v : Nat)
    (kind : Nat) (last : Nat) :
    Keeps F s (State.bW t g r v kind last) := by
  unfold State.bW
  with_reducible repeat' first
     | exact Keeps.refl _ | assumption | apply State.codeW_keeps

theorem State.pW_keeps {F : List Fld} {s t : State} (f_engs : Fld.engs ∈ F) (h : Keeps F s t) (g : Nat) (p : Nat) (v : Nat)
    (kind : Nat) (last : Nat) :
    Keeps F s (State.pW t g p v kind last) := by
  unfold State.pW
  with_reducible repeat' first
     | exact Keeps.refl _ | assumption | apply State.bW_keeps

theorem State.flW1_keeps {F : List Fld} {s t : State} (f_engs : Fld.engs ∈ F) (h : Keeps F s t) (g : Nat) (u : Bool) (i : Nat)
    (x : Option Bool) (last : Nat) :
    Keeps F s (State.flW1 t g u i x last) := by
  unfold State.flW1
  with_reducible repeat' first
     | exact Keeps.refl _ | assumption | apply State.setEng_keeps | (extract_lets +onlyGivenNames x; clear_value x) | split

theorem State.flWAt_keeps {F : List Fld} {s t : State} (f_engs : Fld.engs ∈ F) (h : Keeps F s t) (g : Nat) (u : Bool) (f : Fl)
    (last : Nat) :
    Keeps F s (State.flWAt t g u f last) := by
  unfold State.flWAt
  with_reducible repeat' first
     | exact Keeps.refl _ | assumption | apply State.flW1_keeps

theorem State.flW_keeps {F : List Fld} {s t : State} (f_engs : Fld.engs ∈ F) (h : Keeps F s t) (g : Nat) (f : Fl) (last : Nat) :
    Keeps F s (State.flW t g f last) := by
  unfold State.flW
  with_reducible repeat' first
     | exact Keeps.refl _ | assumption | apply State.flWAt_keeps

theorem State.bankW_keeps {F : List Fld} {s t : State} (f_engs : Fld.engs ∈ F) (h : Keeps F s t) (g : Nat) (i : Nat) (v : Nat)
    (last : Nat) :
    Keeps F s (State.bankW t g i v last) := by
  unfold State.bankW
  with_reducible repeat' first
     | exact Keeps.refl _ | assumption | apply State.setEng_keeps

theorem State.stampCue_keeps {F : List Fld} {s t : State} (f_regs : Fld.regs ∈ F) (f_islands : Fld.islands ∈ F)
    (h : Keeps F s t) (g : Nat) (event : Nat) (data : Nat) :
    Keeps F s (State.stampCue t g event data) := by
  unfold State.stampCue
  with_reducible repeat' first
     | exact Keeps.refl _ | assumption | apply State.stamp_keeps

theorem State.offerCue_keeps {F : List Fld} {s t : State} (f_regs : Fld.regs ∈ F) (f_islands : Fld.islands ∈ F)
    (f_engs : Fld.engs ∈ F) (f_gated : Fld.gated ∈ F) (h : Keeps F s t) (g : Nat) (c : Cue) (merge : Bool) :
    Keeps F s (State.offerCue t g c merge) := by
  unfold State.offerCue
  with_reducible repeat' first
     | exact Keeps.refl _ | assumption | apply Keeps.ite | apply Keeps.ite2 | apply State.incSat_keeps | apply State.raise_keeps
     | apply State.setEng_keeps | apply State.setF_keeps | apply State.stampCue_keeps | intro x hx | intro y
     | (extract_lets +onlyGivenNames x; refine Keeps.cut F s x ?_ (fun hx => ?_); rotate_left 1; clear_value x; rotate_left 1; unfold x)
     | split | dsimp only | apply Keeps.upd_gated

theorem State.buserr_keeps {F : List Fld} {s t : State} (f_offers : Fld.offers ∈ F) (h : Keeps F s t) (g : Nat) (code : Nat)
    (unit : Nat) (arg : Nat) (data : Nat) :
    Keeps F s (State.buserr t g code unit arg data) := by
  unfold State.buserr
  with_reducible repeat' first
     | exact Keeps.refl _ | assumption | apply State.postCue_keeps

theorem State.engFault_keeps {F : List Fld} {s t : State} (f_regs : Fld.regs ∈ F) (f_islands : Fld.islands ∈ F)
    (f_offers : Fld.offers ∈ F) (f_engs : Fld.engs ∈ F) (h : Keeps F s t) (g : Nat) (code : Nat) (pc : Nat) :
    Keeps F s (State.engFault t g code pc) := by
  unfold State.engFault
  with_reducible repeat' first
     | exact Keeps.refl _ | assumption | apply State.postCue_keeps | apply State.raise_keeps | apply State.setEng_keeps
     | apply State.stampCue_keeps

theorem State.tmrCtl_keeps {F : List Fld} {s t : State} (f_engs : Fld.engs ∈ F) (h : Keeps F s t) (g : Nat) (n : Nat) (b : Nat) :
    Keeps F s (State.tmrCtl t g n b) := by
  unfold State.tmrCtl
  with_reducible repeat' first
     | exact Keeps.refl _ | assumption | apply Keeps.ite | apply Keeps.ite2 | apply State.setEng_keeps

theorem State.holdTimers_keeps {F : List Fld} {s t : State} (f_engs : Fld.engs ∈ F) (h : Keeps F s t)  :
    Keeps F s (State.holdTimers t) := by
  unfold State.holdTimers
  with_reducible repeat' first
     | exact Keeps.refl _ | assumption | apply Keeps.ite | apply Keeps.ite2 | apply State.setEng_keeps | apply Keeps.foldl
     | apply Keeps.foldl2 | apply Keeps.foldl1 | apply hf | intro x hx | intro y

theorem State.resumeTimers_keeps {F : List Fld} {s t : State} (f_engs : Fld.engs ∈ F) (h : Keeps F s t)  :
    Keeps F s (State.resumeTimers t) := by
  unfold State.resumeTimers
  with_reducible repeat' first
     | exact Keeps.refl _ | assumption | apply Keeps.ite | apply State.setEng_keeps | apply Keeps.foldl | apply hf | intro x hx
     | intro y

theorem State.beat_keeps {F : List Fld} {s t : State} (f_regs : Fld.regs ∈ F) (h : Keeps F s t) (g : Nat) :
    Keeps F s (State.beat t g) := by
  unfold State.beat
  with_reducible repeat' first
     | exact Keeps.refl _ | assumption | apply Keeps.ite | apply State.incMod_keeps | apply State.setF_keeps

theorem State.privRead_keeps {F : List Fld} {s t : State} (f_engs : Fld.engs ∈ F) (h : Keeps F s t) (g : Nat) (a : Nat) :
    Keeps F s (State.privRead t g a).2 := by
  unfold State.privRead
  with_reducible repeat' first
     | exact Keeps.refl _ | assumption | apply Keeps.ite | apply Keeps.ite2 | apply State.setEng_keeps

theorem State.privWrite_keeps {F : List Fld} {s t : State} (f_regs : Fld.regs ∈ F) (f_engs : Fld.engs ∈ F) (h : Keeps F s t)
    (g : Nat) (a : Nat) (b : Nat) (last : Nat) :
    Keeps F s (State.privWrite t g a b last) := by
  unfold State.privWrite
  with_reducible repeat' first
     | exact Keeps.refl _ | assumption | apply Keeps.ite | apply Keeps.ite2 | apply State.bankW_keeps | apply State.beat_keeps
     | apply State.setEng_keeps | apply State.tmrCtl_keeps

theorem State.privReadN_keeps {F : List Fld} {s t : State} (f_engs : Fld.engs ∈ F) (h : Keeps F s t) (g a n : Nat) : Keeps F s
    (t.privReadN g a n).2 := by
  induction n generalizing t a with
  | zero => exact h
  | succ n ih => exact ih (State.privRead_keeps f_engs h g a) _

theorem State.privWriteN_keeps {F : List Fld} {s t : State} (f_regs : Fld.regs ∈ F) (f_engs : Fld.engs ∈ F) (h : Keeps F s t)
    (g a last : Nat) (l : List Byte) : Keeps F s (t.privWriteN g a last l) := by
  induction l generalizing t a with
  | nil => exact h
  | cons b l ih => exact ih (State.privWrite_keeps f_regs f_engs h g a _ _) _

theorem State.urgentNext_keeps {F : List Fld} {s t : State} (f_regs : Fld.regs ∈ F) (f_engs : Fld.engs ∈ F) (h : Keeps F s t)
    (g n : Nat) : Keeps F s (t.urgentNext g n) := by
  induction n generalizing t with
  | zero => exact State.setEng_keeps f_engs h _ _
  | succ n ih =>
    unfold State.urgentNext
    extract_lets e
    split
    · exact State.setEng_keeps f_engs h _ _
    · extract_lets e'
      split
      · exact ih (State.incSat_keeps f_regs (State.setEng_keeps f_engs h _ _) _)
      · exact State.setEng_keeps f_engs h _ _

theorem State.endHandler_keeps {F : List Fld} {s t : State} (f_regs : Fld.regs ∈ F) (f_engs : Fld.engs ∈ F) (h : Keeps F s t)
    (g : Nat) :
    Keeps F s (State.endHandler t g) := by
  unfold State.endHandler
  with_reducible repeat' first
     | exact Keeps.refl _ | assumption | apply Keeps.ite | apply State.setEng_keeps | apply State.urgentNext_keeps

theorem State.ins_keeps {F : List Fld} {s t : State} (f_regs : Fld.regs ∈ F) (f_islands : Fld.islands ∈ F)
    (f_offers : Fld.offers ∈ F) (f_engs : Fld.engs ∈ F) (h : Keeps F s t) (g : Nat) (i : Ins) (w : Nat) (body : Nat → Exe)
    (hb : ∀ y, KeepsExe F s (body y)) : Keeps F s (t.ins g i w body) := by
  unfold State.ins
  extract_lets e l fin
  have hfin : ∀ u x, Keeps F s u → Keeps F s (fin u x) := fun u x hu => State.setEng_keeps f_engs hu _ _
  clear_value fin
  refine Keeps.ite h (Keeps.ite (State.engFault_keeps f_regs f_islands f_offers f_engs h _ _ _) (Keeps.ite (State.engFault_keeps f_regs f_islands f_offers f_engs h _ _ _)
    (Keeps.ite (State.engFault_keeps f_regs f_islands f_offers f_engs h _ _ _) ?_)))
  have hk := hb (t.lastCycle g i w)
  split
  · rename_i u x hu; exact hfin _ _ (hk.done_keeps u x hu)
  · exact State.engFault_keeps f_regs f_islands f_offers f_engs h _ _ _
  · exact h
  · rename_i u hu; exact State.endHandler_keeps f_regs f_engs (hfin _ _ (hk.ret_keeps u hu)) _

theorem State.prefixIns_keeps {F : List Fld} {s t : State} (f_regs : Fld.regs ∈ F) (f_islands : Fld.islands ∈ F)
    (f_offers : Fld.offers ∈ F) (f_engs : Fld.engs ∈ F) (h : Keeps F s t) (g : Nat) (rpti : Bool) (n : Nat) :
    Keeps F s (State.prefixIns t g rpti n) := by
  unfold State.prefixIns
  with_reducible repeat' first
     | exact Keeps.refl _ | assumption | apply Keeps.ite | apply Keeps.ite2 | apply State.engFault_keeps
     | apply State.setEng_keeps

theorem State.engTx_keeps {F : List Fld} {s t : State} (f_waiting : Fld.waiting ∈ F) (h : Keeps F s t) (g : Nat) (op : Nat)
    (a : Nat) (data : List Byte) (len : Nat) :
    Keeps F s (State.engTx t g op a data len) := by
  unfold State.engTx
  with_reducible repeat' first
     | exact Keeps.refl _ | assumption | dsimp only | apply Keeps.upd_waiting

theorem State.loadRegs_keeps {F : List Fld} {s t : State} (f_engs : Fld.engs ∈ F) (h : Keeps F s t) (g last : Nat)
    (l : List Nat) (b : List Byte) :
    Keeps F s (t.loadRegs g last l b) := by
  induction l generalizing t b with
  | nil => unfold State.loadRegs; exact h
  | cons c l ih =>
    cases b with
    | nil => exact h
    | cons x b => exact ih (State.codeW_keeps f_engs h _ _ _ _ _) _

theorem State.loadTo_keeps {F : List Fld} {s t : State} (f_engs : Fld.engs ∈ F) (f_waiting : Fld.waiting ∈ F) (h : Keeps F s t)
    (g : Nat) (a : Nat) (n : Nat) (dst : List Nat) (stack : Bool) (last : Nat) :
    KeepsExe F s (State.loadTo t g a n dst stack last) := by
  unfold State.loadTo
  with_reducible repeat' first
     | exact Keeps.refl _ | assumption | apply KeepsExe.ite | apply Keeps.ite | apply Keeps.ite2 | apply State.engTx_keeps
     | apply State.loadRegs_keeps | apply State.privReadN_keeps | apply State.setEng_keeps | apply KeepsExe.done
     | apply KeepsExe.fault | apply KeepsExe.wait | (extract_lets +onlyGivenNames x; clear_value x) | split

theorem State.storeAt_keeps {F : List Fld} {s t : State} (f_regs : Fld.regs ∈ F) (f_mem : Fld.mem ∈ F) (f_engs : Fld.engs ∈ F)
    (f_waiting : Fld.waiting ∈ F) (h : Keeps F s t) (g : Nat) (a : Nat) (bytes : List Byte) (stack : Bool) (last : Nat) :
    KeepsExe F s (State.storeAt t g a bytes stack last) := by
  unfold State.storeAt
  with_reducible repeat' first
     | exact Keeps.refl _ | assumption | apply KeepsExe.ite | apply Keeps.ite | apply State.engTx_keeps
     | apply State.privWriteN_keeps | apply State.wrBytes_keeps | apply KeepsExe.done | apply KeepsExe.fault | apply KeepsExe.wait
     | split

theorem State.push16_keeps {F : List Fld} {s t : State} (f_regs : Fld.regs ∈ F) (f_mem : Fld.mem ∈ F) (f_engs : Fld.engs ∈ F)
    (f_waiting : Fld.waiting ∈ F) (h : Keeps F s t) (g v last : Nat) : KeepsExe F s (t.push16 g v last) := by
  unfold State.push16
  extract_lets p
  clear_value p
  exact KeepsExe.andThen (State.storeAt_keeps f_regs f_mem f_engs f_waiting h _ _ _ _ _) (fun u hu => KeepsExe.done (State.pW_keeps f_engs hu _ _ _ _ _) _)

end Sys2Proof.Machine
end

