-- ==== Sys2Proof/Laws/KeepsEngines.lean ====
section
/-! SUPPORT. What the operations and meanings of Machine/Engines.lean keep. -/

namespace Sys2Proof.Machine

theorem State.byteResult_keeps {F : List Fld} {s t : State} (f_engs : Fld.engs ∈ F) (h : Keeps F s t) (g : Nat) (d : Nat)
    (wr : Bool) (r : FlRes) (last : Nat) :
    KeepsExe F s (State.byteResult t g d wr r last) := by
  unfold State.byteResult
  with_reducible repeat' first
     | exact Keeps.refl _ | assumption | apply KeepsExe.ite | apply Keeps.ite | apply State.bW_keeps | apply State.flW_keeps
     | apply KeepsExe.done

theorem State.ptrResult_keeps {F : List Fld} {s t : State} (f_engs : Fld.engs ∈ F) (h : Keeps F s t) (g : Nat) (p : Nat)
    (wr : Bool) (r : FlRes) (last : Nat) :
    KeepsExe F s (State.ptrResult t g p wr r last) := by
  unfold State.ptrResult
  with_reducible repeat' first
     | exact Keeps.refl _ | assumption | apply KeepsExe.ite | apply Keeps.ite | apply State.flW_keeps | apply State.pW_keeps
     | apply KeepsExe.done

theorem State.callTo_keeps {F : List Fld} {s t : State} (f_regs : Fld.regs ∈ F) (f_mem : Fld.mem ∈ F) (f_engs : Fld.engs ∈ F)
    (f_waiting : Fld.waiting ∈ F) (h : Keeps F s t) (g : Nat) (words : Nat) (target : Nat) (last : Nat) :
    KeepsExe F s (State.callTo t g words target last) := by
  unfold State.callTo
  with_reducible repeat' first
     | exact Keeps.refl _ | assumption | apply State.push16_keeps | apply KeepsExe.done | apply KeepsExe.andThen | intro x hx

theorem State.popPc_keeps {F : List Fld} {s t : State} (f_engs : Fld.engs ∈ F) (h : Keeps F s t) (g : Nat) (last : Nat) :
    KeepsExe F s (State.popPc t g last) := by
  unfold State.popPc
  with_reducible repeat' first
     | exact Keeps.refl _ | assumption | apply KeepsExe.ite | apply Keeps.ite | apply Keeps.ite2 | apply State.pW_keeps
     | apply KeepsExe.done | apply KeepsExe.fault

theorem State.syncWait_keeps {F : List Fld} {s t : State} (f_engs : Fld.engs ∈ F) (h : Keeps F s t) (s' : State) (g : Nat) :
    Keeps F s (State.syncWait t s' g) := by
  unfold State.syncWait
  with_reducible repeat' first
     | exact Keeps.refl _ | assumption | apply Keeps.ite | apply State.setEng_keeps

theorem State.copy_keeps {F : List Fld} {s t : State} (f_engs : Fld.engs ∈ F) (f_waiting : Fld.waiting ∈ F) (h : Keeps F s t)
    (g : Nat) (n : Nat) (p : Nat) (q : Nat) :
    KeepsExe F s (State.copy t g n p q) := by
  unfold State.copy
  with_reducible repeat' first
     | exact Keeps.refl _ | assumption | apply KeepsExe.ite | apply Keeps.ite | apply Keeps.ite2 | apply State.engTx_keeps
     | apply State.setEng_keeps | apply KeepsExe.done | apply KeepsExe.fault | apply KeepsExe.wait
     | (extract_lets +onlyGivenNames x; clear_value x) | split

theorem State.atomic_keeps {F : List Fld} {s t : State} (f_mem : Fld.mem ∈ F) (f_engs : Fld.engs ∈ F)
    (f_waiting : Fld.waiting ∈ F) (h : Keeps F s t) (g : Nat) (a : Nat) (d : Nat) (tas : Bool) (last : Nat) :
    KeepsExe F s (State.atomic t g a d tas last) := by
  unfold State.atomic
  with_reducible repeat' first
     | exact Keeps.refl _ | assumption | apply KeepsExe.ite | apply Keeps.ite | apply Keeps.ite2 | apply State.bW_keeps
     | apply State.engTx_keeps | apply State.flW_keeps | apply State.setEng_keeps | apply State.wr8_keeps | apply KeepsExe.done
     | apply KeepsExe.fault | apply KeepsExe.wait | apply hf | intro x hx | intro y
     | (extract_lets +onlyGivenNames x; first | (refine KeepsExe.cutF F s x ?_ (fun hf => ?_); rotate_left 1; clear_value x; rotate_left 1; unfold x) | clear_value x)
     | split

theorem State.arrive_keeps {F : List Fld} {s t : State} (f_mem : Fld.mem ∈ F) (f_engs : Fld.engs ∈ F) (h : Keeps F s t)
    (g : Nat) (w : Nat) :
    Keeps F s (State.arrive t g w) := by
  unfold State.arrive
  with_reducible repeat' first
     | exact Keeps.refl _ | assumption | apply Keeps.ite | apply Keeps.ite2 | apply State.flWAt_keeps | apply State.loadRegs_keeps
     | apply State.setEng_keeps | apply State.wrBytes_keeps
     | (extract_lets +onlyGivenNames x; first | (refine Keeps.cut F s x ?_ (fun hx => ?_); rotate_left 1; clear_value x; rotate_left 1; unfold x) | clear_value x)
     | split

theorem State.emit_keeps {F : List Fld} {s t : State} (f_exec : Fld.exec ∈ F) (h : Keeps F s t) (g : Nat) (pwm : Bool)
    (ch : Nat) (value : Nat) :
    KeepsExe F s (State.emit t g pwm ch value) := by
  unfold State.emit
  with_reducible repeat' first
     | exact Keeps.refl _ | assumption | apply KeepsExe.ite | apply Keeps.ite | apply Keeps.ite2 | apply KeepsExe.done
     | apply KeepsExe.wait | apply hf | intro x hx | intro y | (extract_lets +onlyGivenNames x; clear_value x) | split
     | dsimp only | apply Keeps.upd_exec

theorem State.executorDo_keeps {F : List Fld} {s t : State} (f_free : Fld.free ∈ F) (f_regs : Fld.regs ∈ F)
    (f_islands : Fld.islands ∈ F) (f_offers : Fld.offers ∈ F) (f_chans : Fld.chans ∈ F) (f_dieChs : Fld.dieChs ∈ F)
    (f_links : Fld.links ∈ F) (h : Keeps F s t) (r : ExecReq) :
    Keeps F s (State.executorDo t r) := by
  unfold State.executorDo
  with_reducible repeat' first
     | exact Keeps.refl _ | assumption | apply Keeps.ite | apply State.chCmdWrite_keeps | apply State.chPwmWrite_keeps

theorem State.emitErr_keeps {F : List Fld} {s t : State} (f_regs : Fld.regs ∈ F) (f_offers : Fld.offers ∈ F) (h : Keeps F s t)
    (g : Nat) (code : Nat) (ch : Nat) (data : Nat) :
    Keeps F s (State.emitErr t g code ch data) := by
  unfold State.emitErr
  with_reducible repeat' first
     | exact Keeps.refl _ | assumption | apply State.buserr_keeps | apply State.incSat_keeps | apply State.raise_keeps

theorem State.executorServe_keeps {F : List Fld} {s t : State} (f_free : Fld.free ∈ F) (f_regs : Fld.regs ∈ F)
    (f_islands : Fld.islands ∈ F) (f_offers : Fld.offers ∈ F) (f_chans : Fld.chans ∈ F) (f_dieChs : Fld.dieChs ∈ F)
    (f_links : Fld.links ∈ F) (h : Keeps F s t) (r : ExecReq) :
    Keeps F s (State.executorServe t r) := by
  unfold State.executorServe
  with_reducible repeat' first
     | exact Keeps.refl _ | assumption | apply Keeps.ite | apply State.emitErr_keeps | apply State.executorDo_keeps
     | apply State.incSat_keeps | apply State.raise_keeps | apply State.stamp_keeps | apply State.unitCue_keeps

theorem State.idleExit_keeps {F : List Fld} {s t : State} (f_regs : Fld.regs ∈ F) (f_islands : Fld.islands ∈ F)
    (f_gated : Fld.gated ∈ F) (h : Keeps F s t)  :
    Keeps F s (State.idleExit t) := by
  unfold State.idleExit
  with_reducible repeat' first
     | exact Keeps.refl _ | assumption | apply Keeps.ite | apply State.setF_keeps | apply State.stampPwr_keeps
     | (extract_lets +onlyGivenNames x; refine Keeps.cut F s x ?_ (fun hx => ?_); rotate_left 1; clear_value x; rotate_left 1; unfold x)
     | split | apply Keeps.upd_gated

theorem State.post_keeps {F : List Fld} {s t : State} (f_regs : Fld.regs ∈ F) (f_islands : Fld.islands ∈ F)
    (f_engs : Fld.engs ∈ F) (f_gated : Fld.gated ∈ F) (h : Keeps F s t) (g : Nat) (id : Nat) (arg : Nat) (data : Nat)
    (last : Nat) :
    KeepsExe F s (State.post t g id arg data last) := by
  unfold State.post
  with_reducible repeat' first
     | exact Keeps.refl _ | assumption | apply KeepsExe.ite | apply Keeps.ite | apply Keeps.ite2 | apply State.flW_keeps
     | apply State.idleExit_keeps | apply State.offerCue_keeps | apply KeepsExe.done

theorem State.dispatch_keeps {F : List Fld} {s t : State} (f_regs : Fld.regs ∈ F) (f_engs : Fld.engs ∈ F) (h : Keeps F s t)
    (g : Nat) :
    Keeps F s (State.dispatch t g) := by
  unfold State.dispatch
  with_reducible repeat' first
     | exact Keeps.refl _ | assumption | apply Keeps.ite | apply Keeps.ite2 | apply State.incSat_keeps | apply State.setEng_keeps
     | apply hf | intro x hx | intro y | (extract_lets +onlyGivenNames x; clear_value x) | split

theorem State.tmrExpire_keeps {F : List Fld} {s t : State} (f_offers : Fld.offers ∈ F) (f_engs : Fld.engs ∈ F) (h : Keeps F s t)
    (g : Nat) (n : Nat) :
    Keeps F s (State.tmrExpire t g n) := by
  unfold State.tmrExpire
  with_reducible repeat' first
     | exact Keeps.refl _ | assumption | apply Keeps.ite | apply Keeps.ite2 | apply State.postCue_keeps | apply State.setEng_keeps

theorem State.crewRelease_keeps {F : List Fld} {s t : State} (f_regs : Fld.regs ∈ F) (f_islands : Fld.islands ∈ F)
    (f_engs : Fld.engs ∈ F) (f_gated : Fld.gated ∈ F) (h : Keeps F s t) (c : Nat) :
    Keeps F s (State.crewRelease t c) := by
  unfold State.crewRelease
  with_reducible repeat' first
     | exact Keeps.refl _ | assumption | apply Keeps.ite | apply Keeps.ite2 | apply State.offerCue_keeps
     | apply State.setEng_keeps | apply State.setReg_keeps | apply Keeps.foldl | apply Keeps.foldl2 | apply Keeps.foldl1
     | apply hf | intro x hx | intro y

theorem execNop_keeps {F : List Fld} {s t : State} (f_regs : Fld.regs ∈ F) (f_islands : Fld.islands ∈ F)
    (f_offers : Fld.offers ∈ F) (f_engs : Fld.engs ∈ F) (h : Keeps F s t) (g : Fin 48) :
    KeepsOut F s (execNop g t) := by
  unfold execNop
  with_reducible repeat' first
     | apply KeepsOut.next | exact Keeps.refl _ | assumption | apply State.ins_keeps | apply KeepsExe.done | intro x hx | intro y

theorem execIllegalInstruction_keeps {F : List Fld} {s t : State} (f_regs : Fld.regs ∈ F) (f_islands : Fld.islands ∈ F)
    (f_offers : Fld.offers ∈ F) (f_engs : Fld.engs ∈ F) (h : Keeps F s t) (g : Fin 48) :
    KeepsOut F s (execIllegalInstruction g t) := by
  unfold execIllegalInstruction
  with_reducible repeat' first
     | apply KeepsOut.next | exact Keeps.refl _ | assumption | apply State.ins_keeps | apply KeepsExe.fault | apply hf
     | intro x hx | intro y

theorem execRetc_keeps {F : List Fld} {s t : State} (f_regs : Fld.regs ∈ F) (f_islands : Fld.islands ∈ F)
    (f_offers : Fld.offers ∈ F) (f_engs : Fld.engs ∈ F) (h : Keeps F s t) (g : Fin 48) :
    KeepsOut F s (execRetc g t) := by
  unfold execRetc
  with_reducible repeat' first
     | apply KeepsOut.next | exact Keeps.refl _ | assumption | apply State.ins_keeps | apply KeepsExe.ret | intro x hx | intro y

theorem execRet_keeps {F : List Fld} {s t : State} (f_regs : Fld.regs ∈ F) (f_islands : Fld.islands ∈ F)
    (f_offers : Fld.offers ∈ F) (f_engs : Fld.engs ∈ F) (h : Keeps F s t) (g : Fin 48) :
    KeepsOut F s (execRet g t) := by
  unfold execRet
  with_reducible repeat' first
     | apply KeepsOut.next | exact Keeps.refl _ | assumption | apply State.ins_keeps | apply State.popPc_keeps

theorem execSync_keeps {F : List Fld} {s t : State} (f_regs : Fld.regs ∈ F) (f_islands : Fld.islands ∈ F)
    (f_offers : Fld.offers ∈ F) (f_engs : Fld.engs ∈ F) (h : Keeps F s t) (g : Fin 48) :
    KeepsOut F s (execSync g t) := by
  unfold execSync
  with_reducible repeat' first
     | apply KeepsOut.next | exact Keeps.refl _ | assumption | apply State.ins_keeps | apply State.syncWait_keeps
     | apply KeepsExe.done | intro x hx | intro y

theorem execSyncComplete_keeps {F : List Fld} {s t : State} (f_engs : Fld.engs ∈ F) (h : Keeps F s t) (g : Fin 48) (w : Byte) :
    KeepsOut F s (execSyncComplete g w t) := by
  unfold execSyncComplete
  with_reducible repeat' first
     | apply KeepsOut.next | exact Keeps.refl _ | assumption | apply KeepsOut.ite | apply Keeps.ite | apply State.setEng_keeps

theorem execJmpPtr_keeps {F : List Fld} {s t : State} (f_regs : Fld.regs ∈ F) (f_islands : Fld.islands ∈ F)
    (f_offers : Fld.offers ∈ F) (f_engs : Fld.engs ∈ F) (h : Keeps F s t) (g : Fin 48) (p : Fin 8) :
    KeepsOut F s (execJmpPtr g p t) := by
  unfold execJmpPtr
  with_reducible repeat' first
     | apply KeepsOut.next | exact Keeps.refl _ | assumption | apply State.ins_keeps | apply KeepsExe.done | intro x hx | intro y

theorem execCallPtr_keeps {F : List Fld} {s t : State} (f_regs : Fld.regs ∈ F) (f_mem : Fld.mem ∈ F)
    (f_islands : Fld.islands ∈ F) (f_offers : Fld.offers ∈ F) (f_engs : Fld.engs ∈ F) (f_waiting : Fld.waiting ∈ F)
    (h : Keeps F s t) (g : Fin 48) (p : Fin 8) :
    KeepsOut F s (execCallPtr g p t) := by
  unfold execCallPtr
  with_reducible repeat' first
     | apply KeepsOut.next | exact Keeps.refl _ | assumption | apply State.callTo_keeps | apply State.ins_keeps

theorem execRpt_keeps {F : List Fld} {s t : State} (f_regs : Fld.regs ∈ F) (f_islands : Fld.islands ∈ F)
    (f_offers : Fld.offers ∈ F) (f_engs : Fld.engs ∈ F) (h : Keeps F s t) (g : Fin 48) (n : Fin 16) :
    KeepsOut F s (execRpt g n t) := by
  unfold execRpt
  with_reducible repeat' first
     | apply KeepsOut.next | exact Keeps.refl _ | assumption | apply State.prefixIns_keeps

theorem execRptiReg_keeps {F : List Fld} {s t : State} (f_regs : Fld.regs ∈ F) (f_islands : Fld.islands ∈ F)
    (f_offers : Fld.offers ∈ F) (f_engs : Fld.engs ∈ F) (h : Keeps F s t) (g : Fin 48) (r : Fin 16) :
    KeepsOut F s (execRptiReg g r t) := by
  unfold execRptiReg
  with_reducible repeat' first
     | apply KeepsOut.next | exact Keeps.refl _ | assumption | apply KeepsOut.ite | apply Keeps.ite | apply State.prefixIns_keeps

theorem execRptiImm_keeps {F : List Fld} {s t : State} (f_regs : Fld.regs ∈ F) (f_islands : Fld.islands ∈ F)
    (f_offers : Fld.offers ∈ F) (f_engs : Fld.engs ∈ F) (h : Keeps F s t) (g : Fin 48) (n : Byte) :
    KeepsOut F s (execRptiImm g n t) := by
  unfold execRptiImm
  with_reducible repeat' first
     | apply KeepsOut.next | exact Keeps.refl _ | assumption | apply State.prefixIns_keeps

theorem execLdq_keeps {F : List Fld} {s t : State} (f_regs : Fld.regs ∈ F) (f_islands : Fld.islands ∈ F)
    (f_offers : Fld.offers ∈ F) (f_engs : Fld.engs ∈ F) (f_waiting : Fld.waiting ∈ F) (h : Keeps F s t) (g : Fin 48) (q : Fin 4)
    (p : Fin 8) (w : Byte) :
    KeepsOut F s (execLdq g q p w t) := by
  unfold execLdq
  with_reducible repeat' first
     | apply KeepsOut.next | exact Keeps.refl _ | assumption | apply State.ins_keeps | apply State.loadTo_keeps

theorem execStq_keeps {F : List Fld} {s t : State} (f_regs : Fld.regs ∈ F) (f_mem : Fld.mem ∈ F) (f_islands : Fld.islands ∈ F)
    (f_offers : Fld.offers ∈ F) (f_engs : Fld.engs ∈ F) (f_waiting : Fld.waiting ∈ F) (h : Keeps F s t) (g : Fin 48) (q : Fin 4)
    (p : Fin 8) (w : Byte) :
    KeepsOut F s (execStq g q p w t) := by
  unfold execStq
  with_reducible repeat' first
     | apply KeepsOut.next | exact Keeps.refl _ | assumption | apply State.ins_keeps | apply State.storeAt_keeps

theorem execJmpAbs_keeps {F : List Fld} {s t : State} (f_regs : Fld.regs ∈ F) (f_islands : Fld.islands ∈ F)
    (f_offers : Fld.offers ∈ F) (f_engs : Fld.engs ∈ F) (h : Keeps F s t) (g : Fin 48) (a : BitVec 16) :
    KeepsOut F s (execJmpAbs g a t) := by
  unfold execJmpAbs
  with_reducible repeat' first
     | apply KeepsOut.next | exact Keeps.refl _ | assumption | apply State.ins_keeps | apply KeepsExe.done | intro x hx | intro y

theorem execCallAbs_keeps {F : List Fld} {s t : State} (f_regs : Fld.regs ∈ F) (f_mem : Fld.mem ∈ F)
    (f_islands : Fld.islands ∈ F) (f_offers : Fld.offers ∈ F) (f_engs : Fld.engs ∈ F) (f_waiting : Fld.waiting ∈ F)
    (h : Keeps F s t) (g : Fin 48) (a : BitVec 16) :
    KeepsOut F s (execCallAbs g a t) := by
  unfold execCallAbs
  with_reducible repeat' first
     | apply KeepsOut.next | exact Keeps.refl _ | assumption | apply State.callTo_keeps | apply State.ins_keeps

theorem execLda_keeps {F : List Fld} {s t : State} (f_regs : Fld.regs ∈ F) (f_islands : Fld.islands ∈ F)
    (f_offers : Fld.offers ∈ F) (f_engs : Fld.engs ∈ F) (f_waiting : Fld.waiting ∈ F) (h : Keeps F s t) (g : Fin 48)
    (d : Fin 16) (a : BitVec 16) (w : Byte) :
    KeepsOut F s (execLda g d a w t) := by
  unfold execLda
  with_reducible repeat' first
     | apply KeepsOut.next | exact Keeps.refl _ | assumption | apply State.ins_keeps | apply State.loadTo_keeps

theorem execSta_keeps {F : List Fld} {s t : State} (f_regs : Fld.regs ∈ F) (f_mem : Fld.mem ∈ F) (f_islands : Fld.islands ∈ F)
    (f_offers : Fld.offers ∈ F) (f_engs : Fld.engs ∈ F) (f_waiting : Fld.waiting ∈ F) (h : Keeps F s t) (g : Fin 48)
    (r : Fin 16) (a : BitVec 16) (w : Byte) :
    KeepsOut F s (execSta g r a w t) := by
  unfold execSta
  with_reducible repeat' first
     | apply KeepsOut.next | exact Keeps.refl _ | assumption | apply State.ins_keeps | apply State.storeAt_keeps

theorem execLdp_keeps {F : List Fld} {s t : State} (f_regs : Fld.regs ∈ F) (f_islands : Fld.islands ∈ F)
    (f_offers : Fld.offers ∈ F) (f_engs : Fld.engs ∈ F) (h : Keeps F s t) (g : Fin 48) (p : Fin 8) (a : BitVec 16) :
    KeepsOut F s (execLdp g p a t) := by
  unfold execLdp
  with_reducible repeat' first
     | apply KeepsOut.next | exact Keeps.refl _ | assumption | apply State.ins_keeps | apply State.pW_keeps | apply KeepsExe.done
     | intro x hx | intro y

theorem execAddpi_keeps {F : List Fld} {s t : State} (f_regs : Fld.regs ∈ F) (f_islands : Fld.islands ∈ F)
    (f_offers : Fld.offers ∈ F) (f_engs : Fld.engs ∈ F) (h : Keeps F s t) (g : Fin 48) (p : Fin 8) (a : BitVec 16) :
    KeepsOut F s (execAddpi g p a t) := by
  unfold execAddpi
  with_reducible repeat' first
     | apply KeepsOut.next | exact Keeps.refl _ | assumption | apply State.ins_keeps | apply State.ptrResult_keeps

theorem execCpy_keeps {F : List Fld} {s t : State} (f_regs : Fld.regs ∈ F) (f_islands : Fld.islands ∈ F)
    (f_offers : Fld.offers ∈ F) (f_engs : Fld.engs ∈ F) (f_waiting : Fld.waiting ∈ F) (h : Keeps F s t) (g : Fin 48) (k : Fin 3)
    (p : Fin 8) (q : Fin 8) (w : Byte) :
    KeepsOut F s (execCpy g k p q w t) := by
  unfold execCpy
  with_reducible repeat' first
     | apply KeepsOut.next | exact Keeps.refl _ | assumption | apply State.copy_keeps | apply State.ins_keeps | apply hf
     | intro x hx | intro y

theorem execMov_keeps {F : List Fld} {s t : State} (f_regs : Fld.regs ∈ F) (f_islands : Fld.islands ∈ F)
    (f_offers : Fld.offers ∈ F) (f_engs : Fld.engs ∈ F) (h : Keeps F s t) (g : Fin 48) (d : Fin 16) (r : Fin 16) :
    KeepsOut F s (execMov g d r t) := by
  unfold execMov
  with_reducible repeat' first
     | apply KeepsOut.next | exact Keeps.refl _ | assumption | apply State.bW_keeps | apply State.ins_keeps | apply KeepsExe.done
     | intro x hx | intro y

theorem execAdd_keeps {F : List Fld} {s t : State} (f_regs : Fld.regs ∈ F) (f_islands : Fld.islands ∈ F)
    (f_offers : Fld.offers ∈ F) (f_engs : Fld.engs ∈ F) (h : Keeps F s t) (g : Fin 48) (d : Fin 16) (r : Fin 16) :
    KeepsOut F s (execAdd g d r t) := by
  unfold execAdd
  with_reducible repeat' first
     | apply KeepsOut.next | exact Keeps.refl _ | assumption | apply State.byteResult_keeps | apply State.ins_keeps

theorem execAdc_keeps {F : List Fld} {s t : State} (f_regs : Fld.regs ∈ F) (f_islands : Fld.islands ∈ F)
    (f_offers : Fld.offers ∈ F) (f_engs : Fld.engs ∈ F) (h : Keeps F s t) (g : Fin 48) (d : Fin 16) (r : Fin 16) :
    KeepsOut F s (execAdc g d r t) := by
  unfold execAdc
  with_reducible repeat' first
     | apply KeepsOut.next | exact Keeps.refl _ | assumption | apply State.byteResult_keeps | apply State.ins_keeps

theorem execSub_keeps {F : List Fld} {s t : State} (f_regs : Fld.regs ∈ F) (f_islands : Fld.islands ∈ F)
    (f_offers : Fld.offers ∈ F) (f_engs : Fld.engs ∈ F) (h : Keeps F s t) (g : Fin 48) (d : Fin 16) (r : Fin 16) :
    KeepsOut F s (execSub g d r t) := by
  unfold execSub
  with_reducible repeat' first
     | apply KeepsOut.next | exact Keeps.refl _ | assumption | apply State.byteResult_keeps | apply State.ins_keeps

theorem execSbc_keeps {F : List Fld} {s t : State} (f_regs : Fld.regs ∈ F) (f_islands : Fld.islands ∈ F)
    (f_offers : Fld.offers ∈ F) (f_engs : Fld.engs ∈ F) (h : Keeps F s t) (g : Fin 48) (d : Fin 16) (r : Fin 16) :
    KeepsOut F s (execSbc g d r t) := by
  unfold execSbc
  with_reducible repeat' first
     | apply KeepsOut.next | exact Keeps.refl _ | assumption | apply State.byteResult_keeps | apply State.ins_keeps

theorem execAnd_keeps {F : List Fld} {s t : State} (f_regs : Fld.regs ∈ F) (f_islands : Fld.islands ∈ F)
    (f_offers : Fld.offers ∈ F) (f_engs : Fld.engs ∈ F) (h : Keeps F s t) (g : Fin 48) (d : Fin 16) (r : Fin 16) :
    KeepsOut F s (execAnd g d r t) := by
  unfold execAnd
  with_reducible repeat' first
     | apply KeepsOut.next | exact Keeps.refl _ | assumption | apply State.byteResult_keeps | apply State.ins_keeps

theorem execOr_keeps {F : List Fld} {s t : State} (f_regs : Fld.regs ∈ F) (f_islands : Fld.islands ∈ F)
    (f_offers : Fld.offers ∈ F) (f_engs : Fld.engs ∈ F) (h : Keeps F s t) (g : Fin 48) (d : Fin 16) (r : Fin 16) :
    KeepsOut F s (execOr g d r t) := by
  unfold execOr
  with_reducible repeat' first
     | apply KeepsOut.next | exact Keeps.refl _ | assumption | apply State.byteResult_keeps | apply State.ins_keeps

theorem execXor_keeps {F : List Fld} {s t : State} (f_regs : Fld.regs ∈ F) (f_islands : Fld.islands ∈ F)
    (f_offers : Fld.offers ∈ F) (f_engs : Fld.engs ∈ F) (h : Keeps F s t) (g : Fin 48) (d : Fin 16) (r : Fin 16) :
    KeepsOut F s (execXor g d r t) := by
  unfold execXor
  with_reducible repeat' first
     | apply KeepsOut.next | exact Keeps.refl _ | assumption | apply State.byteResult_keeps | apply State.ins_keeps

theorem execCmp_keeps {F : List Fld} {s t : State} (f_regs : Fld.regs ∈ F) (f_islands : Fld.islands ∈ F)
    (f_offers : Fld.offers ∈ F) (f_engs : Fld.engs ∈ F) (h : Keeps F s t) (g : Fin 48) (d : Fin 16) (r : Fin 16) :
    KeepsOut F s (execCmp g d r t) := by
  unfold execCmp
  with_reducible repeat' first
     | apply KeepsOut.next | exact Keeps.refl _ | assumption | apply State.byteResult_keeps | apply State.ins_keeps

theorem execTst_keeps {F : List Fld} {s t : State} (f_regs : Fld.regs ∈ F) (f_islands : Fld.islands ∈ F)
    (f_offers : Fld.offers ∈ F) (f_engs : Fld.engs ∈ F) (h : Keeps F s t) (g : Fin 48) (d : Fin 16) (r : Fin 16) :
    KeepsOut F s (execTst g d r t) := by
  unfold execTst
  with_reducible repeat' first
     | apply KeepsOut.next | exact Keeps.refl _ | assumption | apply State.byteResult_keeps | apply State.ins_keeps

theorem execInc_keeps {F : List Fld} {s t : State} (f_regs : Fld.regs ∈ F) (f_islands : Fld.islands ∈ F)
    (f_offers : Fld.offers ∈ F) (f_engs : Fld.engs ∈ F) (h : Keeps F s t) (g : Fin 48) (d : Fin 16) :
    KeepsOut F s (execInc g d t) := by
  unfold execInc
  with_reducible repeat' first
     | apply KeepsOut.next | exact Keeps.refl _ | assumption | apply State.byteResult_keeps | apply State.ins_keeps

theorem execDec_keeps {F : List Fld} {s t : State} (f_regs : Fld.regs ∈ F) (f_islands : Fld.islands ∈ F)
    (f_offers : Fld.offers ∈ F) (f_engs : Fld.engs ∈ F) (h : Keeps F s t) (g : Fin 48) (d : Fin 16) :
    KeepsOut F s (execDec g d t) := by
  unfold execDec
  with_reducible repeat' first
     | apply KeepsOut.next | exact Keeps.refl _ | assumption | apply State.byteResult_keeps | apply State.ins_keeps

theorem execNeg_keeps {F : List Fld} {s t : State} (f_regs : Fld.regs ∈ F) (f_islands : Fld.islands ∈ F)
    (f_offers : Fld.offers ∈ F) (f_engs : Fld.engs ∈ F) (h : Keeps F s t) (g : Fin 48) (d : Fin 16) :
    KeepsOut F s (execNeg g d t) := by
  unfold execNeg
  with_reducible repeat' first
     | apply KeepsOut.next | exact Keeps.refl _ | assumption | apply State.byteResult_keeps | apply State.ins_keeps

theorem execNot_keeps {F : List Fld} {s t : State} (f_regs : Fld.regs ∈ F) (f_islands : Fld.islands ∈ F)
    (f_offers : Fld.offers ∈ F) (f_engs : Fld.engs ∈ F) (h : Keeps F s t) (g : Fin 48) (d : Fin 16) :
    KeepsOut F s (execNot g d t) := by
  unfold execNot
  with_reducible repeat' first
     | apply KeepsOut.next | exact Keeps.refl _ | assumption | apply State.byteResult_keeps | apply State.ins_keeps

theorem execShl_keeps {F : List Fld} {s t : State} (f_regs : Fld.regs ∈ F) (f_islands : Fld.islands ∈ F)
    (f_offers : Fld.offers ∈ F) (f_engs : Fld.engs ∈ F) (h : Keeps F s t) (g : Fin 48) (d : Fin 16) :
    KeepsOut F s (execShl g d t) := by
  unfold execShl
  with_reducible repeat' first
     | apply KeepsOut.next | exact Keeps.refl _ | assumption | apply State.byteResult_keeps | apply State.ins_keeps

theorem execShr_keeps {F : List Fld} {s t : State} (f_regs : Fld.regs ∈ F) (f_islands : Fld.islands ∈ F)
    (f_offers : Fld.offers ∈ F) (f_engs : Fld.engs ∈ F) (h : Keeps F s t) (g : Fin 48) (d : Fin 16) :
    KeepsOut F s (execShr g d t) := by
  unfold execShr
  with_reducible repeat' first
     | apply KeepsOut.next | exact Keeps.refl _ | assumption | apply State.byteResult_keeps | apply State.ins_keeps

theorem execAsr_keeps {F : List Fld} {s t : State} (f_regs : Fld.regs ∈ F) (f_islands : Fld.islands ∈ F)
    (f_offers : Fld.offers ∈ F) (f_engs : Fld.engs ∈ F) (h : Keeps F s t) (g : Fin 48) (d : Fin 16) :
    KeepsOut F s (execAsr g d t) := by
  unfold execAsr
  with_reducible repeat' first
     | apply KeepsOut.next | exact Keeps.refl _ | assumption | apply State.byteResult_keeps | apply State.ins_keeps

theorem execRol_keeps {F : List Fld} {s t : State} (f_regs : Fld.regs ∈ F) (f_islands : Fld.islands ∈ F)
    (f_offers : Fld.offers ∈ F) (f_engs : Fld.engs ∈ F) (h : Keeps F s t) (g : Fin 48) (d : Fin 16) :
    KeepsOut F s (execRol g d t) := by
  unfold execRol
  with_reducible repeat' first
     | apply KeepsOut.next | exact Keeps.refl _ | assumption | apply State.byteResult_keeps | apply State.ins_keeps

theorem execRor_keeps {F : List Fld} {s t : State} (f_regs : Fld.regs ∈ F) (f_islands : Fld.islands ∈ F)
    (f_offers : Fld.offers ∈ F) (f_engs : Fld.engs ∈ F) (h : Keeps F s t) (g : Fin 48) (d : Fin 16) :
    KeepsOut F s (execRor g d t) := by
  unfold execRor
  with_reducible repeat' first
     | apply KeepsOut.next | exact Keeps.refl _ | assumption | apply State.byteResult_keeps | apply State.ins_keeps

theorem execSwap_keeps {F : List Fld} {s t : State} (f_regs : Fld.regs ∈ F) (f_islands : Fld.islands ∈ F)
    (f_offers : Fld.offers ∈ F) (f_engs : Fld.engs ∈ F) (h : Keeps F s t) (g : Fin 48) (d : Fin 16) :
    KeepsOut F s (execSwap g d t) := by
  unfold execSwap
  with_reducible repeat' first
     | apply KeepsOut.next | exact Keeps.refl _ | assumption | apply State.byteResult_keeps | apply State.ins_keeps

theorem execBset_keeps {F : List Fld} {s t : State} (f_regs : Fld.regs ∈ F) (f_islands : Fld.islands ∈ F)
    (f_offers : Fld.offers ∈ F) (f_engs : Fld.engs ∈ F) (h : Keeps F s t) (g : Fin 48) (d : Fin 16) (b : Fin 8) :
    KeepsOut F s (execBset g d b t) := by
  unfold execBset
  with_reducible repeat' first
     | apply KeepsOut.next | exact Keeps.refl _ | assumption | apply State.bW_keeps | apply State.ins_keeps | apply KeepsExe.done
     | intro x hx | intro y

theorem execBclr_keeps {F : List Fld} {s t : State} (f_regs : Fld.regs ∈ F) (f_islands : Fld.islands ∈ F)
    (f_offers : Fld.offers ∈ F) (f_engs : Fld.engs ∈ F) (h : Keeps F s t) (g : Fin 48) (d : Fin 16) (b : Fin 8) :
    KeepsOut F s (execBclr g d b t) := by
  unfold execBclr
  with_reducible repeat' first
     | apply KeepsOut.next | exact Keeps.refl _ | assumption | apply State.bW_keeps | apply State.ins_keeps | apply KeepsExe.done
     | intro x hx | intro y

theorem execBtst_keeps {F : List Fld} {s t : State} (f_regs : Fld.regs ∈ F) (f_islands : Fld.islands ∈ F)
    (f_offers : Fld.offers ∈ F) (f_engs : Fld.engs ∈ F) (h : Keeps F s t) (g : Fin 48) (d : Fin 16) (b : Fin 8) :
    KeepsOut F s (execBtst g d b t) := by
  unfold execBtst
  with_reducible repeat' first
     | apply KeepsOut.next | exact Keeps.refl _ | assumption | apply State.flW_keeps | apply State.ins_keeps | apply KeepsExe.done
     | apply hf | intro x hx | intro y

theorem execBtgl_keeps {F : List Fld} {s t : State} (f_regs : Fld.regs ∈ F) (f_islands : Fld.islands ∈ F)
    (f_offers : Fld.offers ∈ F) (f_engs : Fld.engs ∈ F) (h : Keeps F s t) (g : Fin 48) (d : Fin 16) (b : Fin 8) :
    KeepsOut F s (execBtgl g d b t) := by
  unfold execBtgl
  with_reducible repeat' first
     | apply KeepsOut.next | exact Keeps.refl _ | assumption | apply State.bW_keeps | apply State.ins_keeps | apply KeepsExe.done
     | intro x hx | intro y

theorem execLdi_keeps {F : List Fld} {s t : State} (f_regs : Fld.regs ∈ F) (f_islands : Fld.islands ∈ F)
    (f_offers : Fld.offers ∈ F) (f_engs : Fld.engs ∈ F) (h : Keeps F s t) (g : Fin 48) (d : Fin 16) (i : Byte) :
    KeepsOut F s (execLdi g d i t) := by
  unfold execLdi
  with_reducible repeat' first
     | apply KeepsOut.next | exact Keeps.refl _ | assumption | apply State.bW_keeps | apply State.ins_keeps | apply KeepsExe.done
     | intro x hx | intro y

theorem execAddi_keeps {F : List Fld} {s t : State} (f_regs : Fld.regs ∈ F) (f_islands : Fld.islands ∈ F)
    (f_offers : Fld.offers ∈ F) (f_engs : Fld.engs ∈ F) (h : Keeps F s t) (g : Fin 48) (d : Fin 16) (i : Byte) :
    KeepsOut F s (execAddi g d i t) := by
  unfold execAddi
  with_reducible repeat' first
     | apply KeepsOut.next | exact Keeps.refl _ | assumption | apply State.byteResult_keeps | apply State.ins_keeps

theorem execSubi_keeps {F : List Fld} {s t : State} (f_regs : Fld.regs ∈ F) (f_islands : Fld.islands ∈ F)
    (f_offers : Fld.offers ∈ F) (f_engs : Fld.engs ∈ F) (h : Keeps F s t) (g : Fin 48) (d : Fin 16) (i : Byte) :
    KeepsOut F s (execSubi g d i t) := by
  unfold execSubi
  with_reducible repeat' first
     | apply KeepsOut.next | exact Keeps.refl _ | assumption | apply State.byteResult_keeps | apply State.ins_keeps

theorem execAndi_keeps {F : List Fld} {s t : State} (f_regs : Fld.regs ∈ F) (f_islands : Fld.islands ∈ F)
    (f_offers : Fld.offers ∈ F) (f_engs : Fld.engs ∈ F) (h : Keeps F s t) (g : Fin 48) (d : Fin 16) (i : Byte) :
    KeepsOut F s (execAndi g d i t) := by
  unfold execAndi
  with_reducible repeat' first
     | apply KeepsOut.next | exact Keeps.refl _ | assumption | apply State.byteResult_keeps | apply State.ins_keeps

theorem execOri_keeps {F : List Fld} {s t : State} (f_regs : Fld.regs ∈ F) (f_islands : Fld.islands ∈ F)
    (f_offers : Fld.offers ∈ F) (f_engs : Fld.engs ∈ F) (h : Keeps F s t) (g : Fin 48) (d : Fin 16) (i : Byte) :
    KeepsOut F s (execOri g d i t) := by
  unfold execOri
  with_reducible repeat' first
     | apply KeepsOut.next | exact Keeps.refl _ | assumption | apply State.byteResult_keeps | apply State.ins_keeps

theorem execXori_keeps {F : List Fld} {s t : State} (f_regs : Fld.regs ∈ F) (f_islands : Fld.islands ∈ F)
    (f_offers : Fld.offers ∈ F) (f_engs : Fld.engs ∈ F) (h : Keeps F s t) (g : Fin 48) (d : Fin 16) (i : Byte) :
    KeepsOut F s (execXori g d i t) := by
  unfold execXori
  with_reducible repeat' first
     | apply KeepsOut.next | exact Keeps.refl _ | assumption | apply State.byteResult_keeps | apply State.ins_keeps

theorem execCmpi_keeps {F : List Fld} {s t : State} (f_regs : Fld.regs ∈ F) (f_islands : Fld.islands ∈ F)
    (f_offers : Fld.offers ∈ F) (f_engs : Fld.engs ∈ F) (h : Keeps F s t) (g : Fin 48) (d : Fin 16) (i : Byte) :
    KeepsOut F s (execCmpi g d i t) := by
  unfold execCmpi
  with_reducible repeat' first
     | apply KeepsOut.next | exact Keeps.refl _ | assumption | apply State.byteResult_keeps | apply State.ins_keeps

theorem execStPtr_keeps {F : List Fld} {s t : State} (f_regs : Fld.regs ∈ F) (f_mem : Fld.mem ∈ F) (f_islands : Fld.islands ∈ F)
    (f_offers : Fld.offers ∈ F) (f_engs : Fld.engs ∈ F) (f_waiting : Fld.waiting ∈ F) (h : Keeps F s t) (g : Fin 48)
    (r : Fin 16) (p : Fin 8) (w : Byte) :
    KeepsOut F s (execStPtr g r p w t) := by
  unfold execStPtr
  with_reducible repeat' first
     | apply KeepsOut.next | exact Keeps.refl _ | assumption | apply State.ins_keeps | apply State.storeAt_keeps

theorem execStPostinc_keeps {F : List Fld} {s t : State} (f_regs : Fld.regs ∈ F) (f_mem : Fld.mem ∈ F)
    (f_islands : Fld.islands ∈ F) (f_offers : Fld.offers ∈ F) (f_engs : Fld.engs ∈ F) (f_waiting : Fld.waiting ∈ F)
    (h : Keeps F s t) (g : Fin 48) (r : Fin 16) (p : Fin 8) (w : Byte) :
    KeepsOut F s (execStPostinc g r p w t) := by
  unfold execStPostinc
  with_reducible repeat' first
     | apply KeepsOut.next | exact Keeps.refl _ | assumption | apply State.ins_keeps | apply State.pW_keeps
     | apply State.storeAt_keeps | apply KeepsExe.done | apply KeepsExe.andThen | intro x hx | intro y

theorem execStPredec_keeps {F : List Fld} {s t : State} (f_regs : Fld.regs ∈ F) (f_mem : Fld.mem ∈ F)
    (f_islands : Fld.islands ∈ F) (f_offers : Fld.offers ∈ F) (f_engs : Fld.engs ∈ F) (f_waiting : Fld.waiting ∈ F)
    (h : Keeps F s t) (g : Fin 48) (r : Fin 16) (p : Fin 8) (w : Byte) :
    KeepsOut F s (execStPredec g r p w t) := by
  unfold execStPredec
  with_reducible repeat' first
     | apply KeepsOut.next | exact Keeps.refl _ | assumption | apply State.ins_keeps | apply State.pW_keeps
     | apply State.storeAt_keeps | apply KeepsExe.done | apply KeepsExe.andThen | intro x hx | intro y

theorem execStIndex_keeps {F : List Fld} {s t : State} (f_regs : Fld.regs ∈ F) (f_mem : Fld.mem ∈ F)
    (f_islands : Fld.islands ∈ F) (f_offers : Fld.offers ∈ F) (f_engs : Fld.engs ∈ F) (f_waiting : Fld.waiting ∈ F)
    (h : Keeps F s t) (g : Fin 48) (r : Fin 16) (p : Fin 8) (w : Byte) :
    KeepsOut F s (execStIndex g r p w t) := by
  unfold execStIndex
  with_reducible repeat' first
     | apply KeepsOut.next | exact Keeps.refl _ | assumption | apply State.ins_keeps | apply State.storeAt_keeps

theorem execLdPtr_keeps {F : List Fld} {s t : State} (f_regs : Fld.regs ∈ F) (f_islands : Fld.islands ∈ F)
    (f_offers : Fld.offers ∈ F) (f_engs : Fld.engs ∈ F) (f_waiting : Fld.waiting ∈ F) (h : Keeps F s t) (g : Fin 48)
    (d : Fin 16) (p : Fin 8) (w : Byte) :
    KeepsOut F s (execLdPtr g d p w t) := by
  unfold execLdPtr
  with_reducible repeat' first
     | apply KeepsOut.next | exact Keeps.refl _ | assumption | apply State.ins_keeps | apply State.loadTo_keeps

theorem execLdPostinc_keeps {F : List Fld} {s t : State} (f_regs : Fld.regs ∈ F) (f_islands : Fld.islands ∈ F)
    (f_offers : Fld.offers ∈ F) (f_engs : Fld.engs ∈ F) (f_waiting : Fld.waiting ∈ F) (h : Keeps F s t) (g : Fin 48)
    (d : Fin 16) (p : Fin 8) (w : Byte) :
    KeepsOut F s (execLdPostinc g d p w t) := by
  unfold execLdPostinc
  with_reducible repeat' first
     | apply KeepsOut.next | exact Keeps.refl _ | assumption | apply State.ins_keeps | apply State.loadTo_keeps
     | apply State.pW_keeps | intro x hx | intro y

theorem execLdPredec_keeps {F : List Fld} {s t : State} (f_regs : Fld.regs ∈ F) (f_islands : Fld.islands ∈ F)
    (f_offers : Fld.offers ∈ F) (f_engs : Fld.engs ∈ F) (f_waiting : Fld.waiting ∈ F) (h : Keeps F s t) (g : Fin 48)
    (d : Fin 16) (p : Fin 8) (w : Byte) :
    KeepsOut F s (execLdPredec g d p w t) := by
  unfold execLdPredec
  with_reducible repeat' first
     | apply KeepsOut.next | exact Keeps.refl _ | assumption | apply State.ins_keeps | apply State.loadTo_keeps
     | apply State.pW_keeps | intro x hx | intro y

theorem execLdIndex_keeps {F : List Fld} {s t : State} (f_regs : Fld.regs ∈ F) (f_islands : Fld.islands ∈ F)
    (f_offers : Fld.offers ∈ F) (f_engs : Fld.engs ∈ F) (f_waiting : Fld.waiting ∈ F) (h : Keeps F s t) (g : Fin 48)
    (d : Fin 16) (p : Fin 8) (w : Byte) :
    KeepsOut F s (execLdIndex g d p w t) := by
  unfold execLdIndex
  with_reducible repeat' first
     | apply KeepsOut.next | exact Keeps.refl _ | assumption | apply State.ins_keeps | apply State.loadTo_keeps

theorem execLoadDataArrival_keeps {F : List Fld} {s t : State} (f_mem : Fld.mem ∈ F) (f_engs : Fld.engs ∈ F) (h : Keeps F s t)
    (g : Fin 48) (w : Byte) :
    KeepsOut F s (execLoadDataArrival g w t) := by
  unfold execLoadDataArrival
  with_reducible repeat' first
     | apply KeepsOut.next | exact Keeps.refl _ | assumption | apply State.arrive_keeps

theorem execXch_keeps {F : List Fld} {s t : State} (f_regs : Fld.regs ∈ F) (f_mem : Fld.mem ∈ F) (f_islands : Fld.islands ∈ F)
    (f_offers : Fld.offers ∈ F) (f_engs : Fld.engs ∈ F) (f_waiting : Fld.waiting ∈ F) (h : Keeps F s t) (g : Fin 48)
    (d : Fin 16) (p : Fin 8) (w : Byte) :
    KeepsOut F s (execXch g d p w t) := by
  unfold execXch
  with_reducible repeat' first
     | apply KeepsOut.next | exact Keeps.refl _ | assumption | apply State.atomic_keeps | apply State.ins_keeps

theorem execTas_keeps {F : List Fld} {s t : State} (f_regs : Fld.regs ∈ F) (f_mem : Fld.mem ∈ F) (f_islands : Fld.islands ∈ F)
    (f_offers : Fld.offers ∈ F) (f_engs : Fld.engs ∈ F) (f_waiting : Fld.waiting ∈ F) (h : Keeps F s t) (g : Fin 48)
    (d : Fin 16) (p : Fin 8) (w : Byte) :
    KeepsOut F s (execTas g d p w t) := by
  unfold execTas
  with_reducible repeat' first
     | apply KeepsOut.next | exact Keeps.refl _ | assumption | apply State.atomic_keeps | apply State.ins_keeps

theorem execStd_keeps {F : List Fld} {s t : State} (f_regs : Fld.regs ∈ F) (f_mem : Fld.mem ∈ F) (f_islands : Fld.islands ∈ F)
    (f_offers : Fld.offers ∈ F) (f_engs : Fld.engs ∈ F) (f_waiting : Fld.waiting ∈ F) (h : Keeps F s t) (g : Fin 48)
    (r : Fin 16) (p : Fin 8) (u : Fin 16) (w : Byte) :
    KeepsOut F s (execStd g r p u w t) := by
  unfold execStd
  with_reducible repeat' first
     | apply KeepsOut.next | exact Keeps.refl _ | assumption | apply State.ins_keeps | apply State.storeAt_keeps

theorem execLdd_keeps {F : List Fld} {s t : State} (f_regs : Fld.regs ∈ F) (f_islands : Fld.islands ∈ F)
    (f_offers : Fld.offers ∈ F) (f_engs : Fld.engs ∈ F) (f_waiting : Fld.waiting ∈ F) (h : Keeps F s t) (g : Fin 48)
    (d : Fin 16) (p : Fin 8) (u : Fin 16) (w : Byte) :
    KeepsOut F s (execLdd g d p u w t) := by
  unfold execLdd
  with_reducible repeat' first
     | apply KeepsOut.next | exact Keeps.refl _ | assumption | apply State.ins_keeps | apply State.loadTo_keeps

theorem execMovp_keeps {F : List Fld} {s t : State} (f_regs : Fld.regs ∈ F) (f_islands : Fld.islands ∈ F)
    (f_offers : Fld.offers ∈ F) (f_engs : Fld.engs ∈ F) (h : Keeps F s t) (g : Fin 48) (p : Fin 8) (q : Fin 8) :
    KeepsOut F s (execMovp g p q t) := by
  unfold execMovp
  with_reducible repeat' first
     | apply KeepsOut.next | exact Keeps.refl _ | assumption | apply State.ins_keeps | apply State.pW_keeps | apply KeepsExe.done
     | intro x hx | intro y

theorem execAddp_keeps {F : List Fld} {s t : State} (f_regs : Fld.regs ∈ F) (f_islands : Fld.islands ∈ F)
    (f_offers : Fld.offers ∈ F) (f_engs : Fld.engs ∈ F) (h : Keeps F s t) (g : Fin 48) (p : Fin 8) (q : Fin 8) :
    KeepsOut F s (execAddp g p q t) := by
  unfold execAddp
  with_reducible repeat' first
     | apply KeepsOut.next | exact Keeps.refl _ | assumption | apply State.ins_keeps | apply State.ptrResult_keeps

theorem execSubp_keeps {F : List Fld} {s t : State} (f_regs : Fld.regs ∈ F) (f_islands : Fld.islands ∈ F)
    (f_offers : Fld.offers ∈ F) (f_engs : Fld.engs ∈ F) (h : Keeps F s t) (g : Fin 48) (p : Fin 8) (q : Fin 8) :
    KeepsOut F s (execSubp g p q t) := by
  unfold execSubp
  with_reducible repeat' first
     | apply KeepsOut.next | exact Keeps.refl _ | assumption | apply State.ins_keeps | apply State.ptrResult_keeps

theorem execCmpp_keeps {F : List Fld} {s t : State} (f_regs : Fld.regs ∈ F) (f_islands : Fld.islands ∈ F)
    (f_offers : Fld.offers ∈ F) (f_engs : Fld.engs ∈ F) (h : Keeps F s t) (g : Fin 48) (p : Fin 8) (q : Fin 8) :
    KeepsOut F s (execCmpp g p q t) := by
  unfold execCmpp
  with_reducible repeat' first
     | apply KeepsOut.next | exact Keeps.refl _ | assumption | apply State.ins_keeps | apply State.ptrResult_keeps

theorem execAddpb_keeps {F : List Fld} {s t : State} (f_regs : Fld.regs ∈ F) (f_islands : Fld.islands ∈ F)
    (f_offers : Fld.offers ∈ F) (f_engs : Fld.engs ∈ F) (h : Keeps F s t) (g : Fin 48) (p : Fin 8) (r : Fin 16) :
    KeepsOut F s (execAddpb g p r t) := by
  unfold execAddpb
  with_reducible repeat' first
     | apply KeepsOut.next | exact Keeps.refl _ | assumption | apply State.ins_keeps | apply State.ptrResult_keeps

theorem execIncp_keeps {F : List Fld} {s t : State} (f_regs : Fld.regs ∈ F) (f_islands : Fld.islands ∈ F)
    (f_offers : Fld.offers ∈ F) (f_engs : Fld.engs ∈ F) (h : Keeps F s t) (g : Fin 48) (p : Fin 8) :
    KeepsOut F s (execIncp g p t) := by
  unfold execIncp
  with_reducible repeat' first
     | apply KeepsOut.next | exact Keeps.refl _ | assumption | apply State.ins_keeps | apply State.ptrResult_keeps

theorem execDecp_keeps {F : List Fld} {s t : State} (f_regs : Fld.regs ∈ F) (f_islands : Fld.islands ∈ F)
    (f_offers : Fld.offers ∈ F) (f_engs : Fld.engs ∈ F) (h : Keeps F s t) (g : Fin 48) (p : Fin 8) :
    KeepsOut F s (execDecp g p t) := by
  unfold execDecp
  with_reducible repeat' first
     | apply KeepsOut.next | exact Keeps.refl _ | assumption | apply State.ins_keeps | apply State.ptrResult_keeps

theorem execLdw_keeps {F : List Fld} {s t : State} (f_regs : Fld.regs ∈ F) (f_islands : Fld.islands ∈ F)
    (f_offers : Fld.offers ∈ F) (f_engs : Fld.engs ∈ F) (f_waiting : Fld.waiting ∈ F) (h : Keeps F s t) (g : Fin 48) (p : Fin 8)
    (q : Fin 8) (w : Byte) :
    KeepsOut F s (execLdw g p q w t) := by
  unfold execLdw
  with_reducible repeat' first
     | apply KeepsOut.next | exact Keeps.refl _ | assumption | apply State.ins_keeps | apply State.loadTo_keeps

theorem execStw_keeps {F : List Fld} {s t : State} (f_regs : Fld.regs ∈ F) (f_mem : Fld.mem ∈ F) (f_islands : Fld.islands ∈ F)
    (f_offers : Fld.offers ∈ F) (f_engs : Fld.engs ∈ F) (f_waiting : Fld.waiting ∈ F) (h : Keeps F s t) (g : Fin 48) (p : Fin 8)
    (q : Fin 8) (w : Byte) :
    KeepsOut F s (execStw g p q w t) := by
  unfold execStw
  with_reducible repeat' first
     | apply KeepsOut.next | exact Keeps.refl _ | assumption | apply State.ins_keeps | apply State.storeAt_keeps

theorem execLdwPostinc_keeps {F : List Fld} {s t : State} (f_regs : Fld.regs ∈ F) (f_islands : Fld.islands ∈ F)
    (f_offers : Fld.offers ∈ F) (f_engs : Fld.engs ∈ F) (f_waiting : Fld.waiting ∈ F) (h : Keeps F s t) (g : Fin 48) (p : Fin 8)
    (q : Fin 8) (w : Byte) :
    KeepsOut F s (execLdwPostinc g p q w t) := by
  unfold execLdwPostinc
  with_reducible repeat' first
     | apply KeepsOut.next | exact Keeps.refl _ | assumption | apply State.ins_keeps | apply State.loadTo_keeps
     | apply State.pW_keeps | intro x hx | intro y

theorem execStwPostinc_keeps {F : List Fld} {s t : State} (f_regs : Fld.regs ∈ F) (f_mem : Fld.mem ∈ F)
    (f_islands : Fld.islands ∈ F) (f_offers : Fld.offers ∈ F) (f_engs : Fld.engs ∈ F) (f_waiting : Fld.waiting ∈ F)
    (h : Keeps F s t) (g : Fin 48) (p : Fin 8) (q : Fin 8) (w : Byte) :
    KeepsOut F s (execStwPostinc g p q w t) := by
  unfold execStwPostinc
  with_reducible repeat' first
     | apply KeepsOut.next | exact Keeps.refl _ | assumption | apply State.ins_keeps | apply State.pW_keeps
     | apply State.storeAt_keeps | apply KeepsExe.done | apply KeepsExe.andThen | intro x hx | intro y

theorem execPushp_keeps {F : List Fld} {s t : State} (f_regs : Fld.regs ∈ F) (f_mem : Fld.mem ∈ F) (f_islands : Fld.islands ∈ F)
    (f_offers : Fld.offers ∈ F) (f_engs : Fld.engs ∈ F) (f_waiting : Fld.waiting ∈ F) (h : Keeps F s t) (g : Fin 48) (p : Fin 8) :
    KeepsOut F s (execPushp g p t) := by
  unfold execPushp
  with_reducible repeat' first
     | apply KeepsOut.next | exact Keeps.refl _ | assumption | apply State.ins_keeps | apply State.push16_keeps

theorem execPopp_keeps {F : List Fld} {s t : State} (f_regs : Fld.regs ∈ F) (f_islands : Fld.islands ∈ F)
    (f_offers : Fld.offers ∈ F) (f_engs : Fld.engs ∈ F) (f_waiting : Fld.waiting ∈ F) (h : Keeps F s t) (g : Fin 48) (p : Fin 8) :
    KeepsOut F s (execPopp g p t) := by
  unfold execPopp
  with_reducible repeat' first
     | apply KeepsOut.next | exact Keeps.refl _ | assumption | apply State.ins_keeps | apply State.loadTo_keeps
     | apply State.pW_keeps | intro x hx | intro y

theorem execMulu_keeps {F : List Fld} {s t : State} (f_regs : Fld.regs ∈ F) (f_islands : Fld.islands ∈ F)
    (f_offers : Fld.offers ∈ F) (f_engs : Fld.engs ∈ F) (h : Keeps F s t) (g : Fin 48) (p : Fin 8) (r : Fin 16) :
    KeepsOut F s (execMulu g p r t) := by
  unfold execMulu
  with_reducible repeat' first
     | apply KeepsOut.next | exact Keeps.refl _ | assumption | apply State.flW_keeps | apply State.ins_keeps
     | apply State.pW_keeps | apply KeepsExe.done | apply hf | intro x hx | intro y

theorem execMuls_keeps {F : List Fld} {s t : State} (f_regs : Fld.regs ∈ F) (f_islands : Fld.islands ∈ F)
    (f_offers : Fld.offers ∈ F) (f_engs : Fld.engs ∈ F) (h : Keeps F s t) (g : Fin 48) (p : Fin 8) (r : Fin 16) :
    KeepsOut F s (execMuls g p r t) := by
  unfold execMuls
  with_reducible repeat' first
     | apply KeepsOut.next | exact Keeps.refl _ | assumption | apply State.flW_keeps | apply State.ins_keeps
     | apply State.pW_keeps | apply KeepsExe.done | apply hf | intro x hx | intro y

theorem execBcc_keeps {F : List Fld} {s t : State} (f_regs : Fld.regs ∈ F) (f_islands : Fld.islands ∈ F)
    (f_offers : Fld.offers ∈ F) (f_engs : Fld.engs ∈ F) (h : Keeps F s t) (g : Fin 48) (c : Fin 15) (rel : Byte) :
    KeepsOut F s (execBcc g c rel t) := by
  unfold execBcc
  with_reducible repeat' first
     | apply KeepsOut.next | exact Keeps.refl _ | assumption | apply KeepsOut.ite | apply Keeps.ite | apply Keeps.ite2
     | apply State.ins_keeps | apply KeepsExe.done | apply KeepsExe.ite | apply hf | intro x hx | intro y

theorem execBsr_keeps {F : List Fld} {s t : State} (f_regs : Fld.regs ∈ F) (f_mem : Fld.mem ∈ F) (f_islands : Fld.islands ∈ F)
    (f_offers : Fld.offers ∈ F) (f_engs : Fld.engs ∈ F) (f_waiting : Fld.waiting ∈ F) (h : Keeps F s t) (g : Fin 48)
    (rel : Byte) :
    KeepsOut F s (execBsr g rel t) := by
  unfold execBsr
  with_reducible repeat' first
     | apply KeepsOut.next | exact Keeps.refl _ | assumption | apply State.callTo_keeps | apply State.ins_keeps

theorem execEmit_keeps {F : List Fld} {s t : State} (f_regs : Fld.regs ∈ F) (f_islands : Fld.islands ∈ F)
    (f_offers : Fld.offers ∈ F) (f_engs : Fld.engs ∈ F) (f_exec : Fld.exec ∈ F) (h : Keeps F s t) (g : Fin 48) (pwm : Bool)
    (t' : Fin 16) (p : Fin 8) (q : Fin 8) (w : Byte) :
    KeepsOut F s (execEmit g pwm t' p q w t) := by
  unfold execEmit
  with_reducible repeat' first
     | apply KeepsOut.next | exact Keeps.refl _ | assumption | apply State.emit_keeps | apply State.ins_keeps | intro x hx
     | intro y

theorem execExecutorWrite_keeps {F : List Fld} {s t : State} (f_free : Fld.free ∈ F) (f_regs : Fld.regs ∈ F)
    (f_islands : Fld.islands ∈ F) (f_offers : Fld.offers ∈ F) (f_chans : Fld.chans ∈ F) (f_dieChs : Fld.dieChs ∈ F)
    (f_links : Fld.links ∈ F) (f_exec : Fld.exec ∈ F) (h : Keeps F s t)  :
    KeepsOut F s (execExecutorWrite t) := by
  unfold execExecutorWrite
  with_reducible repeat' first
     | apply KeepsOut.next | exact Keeps.refl _ | assumption | apply State.executorServe_keeps
     | (extract_lets +onlyGivenNames x; clear_value x) | split | dsimp only | apply Keeps.upd_exec

theorem execPost_keeps {F : List Fld} {s t : State} (f_regs : Fld.regs ∈ F) (f_islands : Fld.islands ∈ F)
    (f_offers : Fld.offers ∈ F) (f_engs : Fld.engs ∈ F) (f_gated : Fld.gated ∈ F) (h : Keeps F s t) (g : Fin 48) (t' : Fin 16)
    (p : Fin 8) (q : Fin 8) (w : Byte) :
    KeepsOut F s (execPost g t' p q w t) := by
  unfold execPost
  with_reducible repeat' first
     | apply KeepsOut.next | exact Keeps.refl _ | assumption | apply State.ins_keeps | apply State.post_keeps

theorem execCueDispatch_keeps {F : List Fld} {s t : State} (f_regs : Fld.regs ∈ F) (f_engs : Fld.engs ∈ F) (h : Keeps F s t)
    (g : Fin 48) :
    KeepsOut F s (execCueDispatch g t) := by
  unfold execCueDispatch
  with_reducible repeat' first
     | apply KeepsOut.next | exact Keeps.refl _ | assumption | apply State.dispatch_keeps

theorem execEngineTimerExpire_keeps {F : List Fld} {s t : State} (f_offers : Fld.offers ∈ F) (f_engs : Fld.engs ∈ F)
    (h : Keeps F s t) (g : Fin 48) (n : Fin 4) :
    KeepsOut F s (execEngineTimerExpire g n t) := by
  unfold execEngineTimerExpire
  with_reducible repeat' first
     | apply KeepsOut.next | exact Keeps.refl _ | assumption | apply State.tmrExpire_keeps

theorem execTimerCtlWrite_keeps {F : List Fld} {s t : State} (f_engs : Fld.engs ∈ F) (h : Keeps F s t) (g : Fin 48) (n : Fin 4)
    (b : Byte) :
    KeepsOut F s (execTimerCtlWrite g n b t) := by
  unfold execTimerCtlWrite
  with_reducible repeat' first
     | apply KeepsOut.next | exact Keeps.refl _ | assumption | apply KeepsOut.ite | apply Keeps.ite | apply State.tmrCtl_keeps

theorem execBankCommitWrite_keeps {F : List Fld} {s t : State} (f_regs : Fld.regs ∈ F) (f_engs : Fld.engs ∈ F) (h : Keeps F s t)
    (g : Fin 48) (unit : Bool) (b : Byte) :
    KeepsOut F s (execBankCommitWrite g unit b t) := by
  unfold execBankCommitWrite
  with_reducible repeat' first
     | apply KeepsOut.next | exact Keeps.refl _ | assumption | apply KeepsOut.ite | apply Keeps.ite | apply State.privWrite_keeps

theorem execSlateLatchRead_keeps {F : List Fld} {s t : State} (f_engs : Fld.engs ∈ F) (h : Keeps F s t) (g : Fin 48) :
    KeepsOut F s (execSlateLatchRead g t) := by
  unfold execSlateLatchRead
  with_reducible repeat' first
     | apply KeepsOut.next | exact Keeps.refl _ | assumption | apply KeepsOut.ite | apply Keeps.ite | apply State.privRead_keeps

theorem execEngineBeat_keeps {F : List Fld} {s t : State} (f_regs : Fld.regs ∈ F) (h : Keeps F s t) (g : Fin 48) :
    KeepsOut F s (execEngineBeat g t) := by
  unfold execEngineBeat
  with_reducible repeat' first
     | apply KeepsOut.next | exact Keeps.refl _ | assumption | apply KeepsOut.ite | apply Keeps.ite | apply State.beat_keeps

theorem execCrewClockGate_keeps {F : List Fld} {s t : State} (f_gated : Fld.gated ∈ F) (h : Keeps F s t) (c : Fin 6) :
    KeepsOut F s (execCrewClockGate c t) := by
  unfold execCrewClockGate
  with_reducible repeat' first
     | apply KeepsOut.next | exact Keeps.refl _ | assumption | apply KeepsOut.ite | apply Keeps.ite
     | (extract_lets +onlyGivenNames x; clear_value x) | split | apply Keeps.upd_gated

end Sys2Proof.Machine
end

