-- ==== Sys2Proof/Laws/KeepsWatch.lean ====
section
/-! SUPPORT. What the operations and meanings of Machine/Watch.lean keep. -/

namespace Sys2Proof.Machine

theorem State.watchOne_keeps {F : List Fld} {s t : State} (f_offers : Fld.offers ∈ F) (h : Keeps F s t) (init : Nat)
    (write : Bool) (a : Nat) (len : Nat) (g : Nat) (w : Nat) :
    Keeps F s (State.watchOne t init write a len g w) := by
  unfold State.watchOne
  with_reducible repeat' first
     | exact Keeps.refl _ | assumption | apply Keeps.ite | apply State.postCue_keeps

theorem State.watchTrig_keeps {F : List Fld} {s t : State} (f_offers : Fld.offers ∈ F) (h : Keeps F s t) (init : Nat)
    (write : Bool) (a : Nat) (len : Nat) :
    Keeps F s (State.watchTrig t init write a len) := by
  unfold State.watchTrig
  with_reducible repeat' first
     | exact Keeps.refl _ | assumption | apply Keeps.ite | apply State.watchOne_keeps | apply Keeps.foldl | intro x hx | intro y

theorem State.storeWrite_keeps {F : List Fld} {s t : State} (f_mem : Fld.mem ∈ F) (f_offers : Fld.offers ∈ F) (h : Keeps F s t)
    (init : Nat) (a : Nat) (bytes : List Byte) :
    Keeps F s (State.storeWrite t init a bytes) := by
  unfold State.storeWrite
  with_reducible repeat' first
     | exact Keeps.refl _ | assumption | apply State.watchTrig_keeps | apply State.wrBytes_keeps

theorem State.storeRead_keeps {F : List Fld} {s t : State} (f_offers : Fld.offers ∈ F) (h : Keeps F s t) (init : Nat) (a : Nat)
    (n : Nat) :
    Keeps F s (State.storeRead t init a n).2 := by
  unfold State.storeRead
  with_reducible repeat' first
     | exact Keeps.refl _ | assumption | apply State.watchTrig_keeps

end Sys2Proof.Machine
end

