-- ==== Sys2Proof/Laws/KeepsReset.lean ====
section
/-! SUPPORT. What the operations and meanings of Machine/Reset.lean keep. -/

namespace Sys2Proof.Machine

theorem State.resetRecord_keeps {F : List Fld} {s t : State} (f_regs : Fld.regs ∈ F) (f_islands : Fld.islands ∈ F)
    (h : Keeps F s t) (cause : Nat) (detail : Nat) (init : Nat) :
    Keeps F s (State.resetRecord t cause detail init) := by
  unfold State.resetRecord
  with_reducible repeat' first
     | exact Keeps.refl _ | assumption | apply Keeps.ite | apply State.incSat_keeps | apply State.setF_keeps
     | apply State.setReg_keeps | apply State.stampUnit_keeps

theorem State.resetHolds_keeps {F : List Fld} {s t : State} (f_dies : Fld.dies ∈ F) (f_links : Fld.links ∈ F)
    (f_str : Fld.str ∈ F) (h : Keeps F s t)  :
    Keeps F s (State.resetHolds t) := by
  unfold State.resetHolds
  with_reducible repeat' first
     | exact Keeps.refl _ | assumption | apply Keeps.ite | apply Keeps.ite2 | apply State.keepCopy_keeps
     | apply State.setLnk_keeps | apply Keeps.foldl | apply Keeps.foldl2 | apply Keeps.foldl1 | apply hf | intro x hx | intro y
     | (extract_lets +onlyGivenNames x; clear_value x) | split | dsimp only | apply Keeps.upd_str

theorem State.resetStores_keeps {F : List Fld} {s t : State} (f_regs : Fld.regs ∈ F) (f_islands : Fld.islands ∈ F)
    (f_nvm : Fld.nvm ∈ F) (h : Keeps F s t)  :
    Keeps F s (State.resetStores t) := by
  unfold State.resetStores
  with_reducible repeat' first
     | exact Keeps.refl _ | assumption | apply State.raise_keeps | apply State.stamp_keeps | apply Keeps.foldl | apply hf
     | intro x hx | intro y
     | (extract_lets +onlyGivenNames x; first | (refine Keeps.cut F s x ?_ (fun hx => ?_); rotate_left 1; clear_value x; rotate_left 1; unfold x) | clear_value x)
     | apply Keeps.upd_nvm

theorem State.zeroLogicMem_keeps {F : List Fld} {s t : State} (f_mem : Fld.mem ∈ F) (h : Keeps F s t)  :
    Keeps F s (State.zeroLogicMem t) := by
  unfold State.zeroLogicMem
  with_reducible repeat' first
     | exact Keeps.refl _ | assumption | apply State.zeroMem_keeps

theorem State.loseLogic_keeps {F : List Fld} {s t : State} (f_frm : Fld.frm ∈ F) (f_offers : Fld.offers ∈ F)
    (f_chans : Fld.chans ∈ F) (f_ldg : Fld.ldg ∈ F) (f_str : Fld.str ∈ F) (f_scr : Fld.scr ∈ F) (f_engs : Fld.engs ∈ F)
    (f_gated : Fld.gated ∈ F) (f_waiting : Fld.waiting ∈ F) (f_rr : Fld.rr ∈ F) (f_exec : Fld.exec ∈ F) (f_trx : Fld.trx ∈ F)
    (f_cans : Fld.cans ∈ F) (f_lins : Fld.lins ∈ F) (f_nm : Fld.nm ∈ F) (f_gw : Fld.gw ∈ F) (f_eth : Fld.eth ∈ F)
    (f_zrt : Fld.zrt ∈ F) (f_pwr : Fld.pwr ∈ F) (f_inp : Fld.inp ∈ F) (f_meas : Fld.meas ∈ F) (f_acc : Fld.acc ∈ F)
    (f_iso : Fld.iso ∈ F) (f_nvm : Fld.nvm ∈ F) (f_trk : Fld.trk ∈ F) (f_brg : Fld.brg ∈ F) (f_ports : Fld.ports ∈ F)
    (h : Keeps F s t)  :
    Keeps F s (State.loseLogic t) := by
  unfold State.loseLogic
  with_reducible repeat' first
     | exact Keeps.refl _ | assumption | apply State.ins_keeps | apply hf | intro x hx | intro y
     | (extract_lets +onlyGivenNames x; clear_value x) | dsimp only
     | apply Keeps.upd_acc_brg_cans_chans_engs_eth_exec_frm_gated_gw_inp_iso_ldg_lins_meas_nm_nvm_offers_ports_pwr_rr_scr_str_trk_trx_waiting_zrt

theorem State.logicReset_keeps {F : List Fld} {s t : State} (f_regs : Fld.regs ∈ F) (f_mem : Fld.mem ∈ F) (f_frm : Fld.frm ∈ F)
    (f_offers : Fld.offers ∈ F) (f_chans : Fld.chans ∈ F) (f_ldg : Fld.ldg ∈ F) (f_str : Fld.str ∈ F) (f_scr : Fld.scr ∈ F)
    (f_engs : Fld.engs ∈ F) (f_gated : Fld.gated ∈ F) (f_waiting : Fld.waiting ∈ F) (f_rr : Fld.rr ∈ F) (f_exec : Fld.exec ∈ F)
    (f_trx : Fld.trx ∈ F) (f_cans : Fld.cans ∈ F) (f_lins : Fld.lins ∈ F) (f_nm : Fld.nm ∈ F) (f_gw : Fld.gw ∈ F)
    (f_eth : Fld.eth ∈ F) (f_zrt : Fld.zrt ∈ F) (f_pwr : Fld.pwr ∈ F) (f_inp : Fld.inp ∈ F) (f_meas : Fld.meas ∈ F)
    (f_acc : Fld.acc ∈ F) (f_iso : Fld.iso ∈ F) (f_nvm : Fld.nvm ∈ F) (f_trk : Fld.trk ∈ F) (f_brg : Fld.brg ∈ F)
    (f_ports : Fld.ports ∈ F) (h : Keeps F s t)  :
    Keeps F s (State.logicReset t) := by
  unfold State.logicReset
  with_reducible repeat' first
     | exact Keeps.refl _ | assumption | apply Keeps.ite | apply State.fullResetRegs_keeps | apply State.loseLogic_keeps
     | apply State.setF_keeps | apply State.zeroLogicMem_keeps | apply Keeps.foldl | apply hf | intro x hx | intro y

theorem State.trialFold_keeps {F : List Fld} {s t : State} (f_regs : Fld.regs ∈ F) (f_upd : Fld.upd ∈ F) (h : Keeps F s t)  :
    Keeps F s (State.trialFold t) := by
  unfold State.trialFold
  with_reducible repeat' first
     | exact Keeps.refl _ | assumption | apply State.setF_keeps
     | (extract_lets +onlyGivenNames x; first | (refine Keeps.cut F s x ?_ (fun hx => ?_); rotate_left 1; clear_value x; rotate_left 1; unfold x) | clear_value x)
     | apply Keeps.upd_upd

theorem State.trialRun_keeps {F : List Fld} {s t : State} (f_regs : Fld.regs ∈ F) (f_upd : Fld.upd ∈ F) (h : Keeps F s t)  :
    Keeps F s (State.trialRun t) := by
  unfold State.trialRun
  with_reducible repeat' first
     | exact Keeps.refl _ | assumption | apply Keeps.ite | apply Keeps.ite2 | apply State.setF_keeps
     | (extract_lets +onlyGivenNames x; first | (refine Keeps.cut F s x ?_ (fun hx => ?_); rotate_left 1; clear_value x; rotate_left 1; unfold x) | clear_value x)
     | split | dsimp only | apply Keeps.upd_upd

theorem State.updReset_keeps {F : List Fld} {s t : State} (f_regs : Fld.regs ∈ F) (f_upd : Fld.upd ∈ F) (h : Keeps F s t)  :
    Keeps F s (State.updReset t) := by
  unfold State.updReset
  with_reducible repeat' first
     | exact Keeps.refl _ | assumption | apply Keeps.ite | apply Keeps.ite2 | apply State.incSat_keeps | apply State.setF_keeps
     | apply State.trialFold_keeps
     | (extract_lets +onlyGivenNames x; first | (refine Keeps.cut F s x ?_ (fun hx => ?_); rotate_left 1; clear_value x; rotate_left 1; unfold x) | clear_value x)
     | split | dsimp only | apply Keeps.upd_upd

theorem State.fullReset_keeps {F : List Fld} {s t : State} (f_regs : Fld.regs ∈ F) (f_mem : Fld.mem ∈ F) (f_mram : Fld.mram ∈ F)
    (f_islands : Fld.islands ∈ F) (f_dly : Fld.dly ∈ F) (f_frm : Fld.frm ∈ F) (f_offers : Fld.offers ∈ F)
    (f_chans : Fld.chans ∈ F) (f_dies : Fld.dies ∈ F) (f_links : Fld.links ∈ F) (f_ldg : Fld.ldg ∈ F) (f_boot : Fld.boot ∈ F)
    (f_str : Fld.str ∈ F) (f_scr : Fld.scr ∈ F) (f_engs : Fld.engs ∈ F) (f_gated : Fld.gated ∈ F) (f_waiting : Fld.waiting ∈ F)
    (f_rr : Fld.rr ∈ F) (f_exec : Fld.exec ∈ F) (f_trx : Fld.trx ∈ F) (f_cans : Fld.cans ∈ F) (f_lins : Fld.lins ∈ F)
    (f_nm : Fld.nm ∈ F) (f_gw : Fld.gw ∈ F) (f_eth : Fld.eth ∈ F) (f_zrt : Fld.zrt ∈ F) (f_pwr : Fld.pwr ∈ F)
    (f_inp : Fld.inp ∈ F) (f_meas : Fld.meas ∈ F) (f_acc : Fld.acc ∈ F) (f_iso : Fld.iso ∈ F) (f_nvm : Fld.nvm ∈ F)
    (f_upd : Fld.upd ∈ F) (f_trk : Fld.trk ∈ F) (f_brg : Fld.brg ∈ F) (f_ports : Fld.ports ∈ F) (h : Keeps F s t) (cause : Nat)
    (detail : Nat) (init : Nat) :
    Keeps F s (State.fullReset t cause detail init) := by
  unfold State.fullReset
  extract_lets u v p w
  have hu : Keeps F s u := State.resetStores_keeps f_regs f_islands f_nvm (State.resetHolds_keeps f_dies f_links f_str (State.resetRecord_keeps f_regs f_islands h _ _ _))
  clear_value u
  have hv : Keeps F s v := State.flush_keeps f_regs f_mem f_mram f_islands f_dly hu
  clear_value v
  have hw : Keeps F s w := State.updReset_keeps f_regs f_upd (State.logicReset_keeps f_regs f_mem f_frm f_offers f_chans f_ldg f_str f_scr f_engs f_gated f_waiting f_rr f_exec f_trx f_cans f_lins f_nm f_gw f_eth f_zrt f_pwr f_inp f_meas f_acc f_iso f_nvm f_trk f_brg f_ports (Keeps.upd_pwr f_pwr hv))
  clear_value w
  exact Keeps.upd_boot f_boot hw

theorem State.restoreSlate_keeps {F : List Fld} {s t : State} (f_slate : Fld.slate ∈ F) (f_regs : Fld.regs ∈ F)
    (f_islands : Fld.islands ∈ F) (h : Keeps F s t) (restored : Nat) (frm : Nat) :
    Keeps F s (State.restoreSlate t restored frm) := by
  unfold State.restoreSlate
  with_reducible repeat' first
     | exact Keeps.refl _ | assumption | apply State.stampUnit_keeps | (extract_lets +onlyGivenNames x; clear_value x)
     | apply Keeps.upd_slate

theorem execFullResetEntry_keeps {F : List Fld} {s t : State} (f_regs : Fld.regs ∈ F) (f_mem : Fld.mem ∈ F)
    (f_mram : Fld.mram ∈ F) (f_islands : Fld.islands ∈ F) (f_dly : Fld.dly ∈ F) (f_frm : Fld.frm ∈ F)
    (f_offers : Fld.offers ∈ F) (f_chans : Fld.chans ∈ F) (f_dies : Fld.dies ∈ F) (f_links : Fld.links ∈ F)
    (f_ldg : Fld.ldg ∈ F) (f_boot : Fld.boot ∈ F) (f_str : Fld.str ∈ F) (f_scr : Fld.scr ∈ F) (f_engs : Fld.engs ∈ F)
    (f_gated : Fld.gated ∈ F) (f_waiting : Fld.waiting ∈ F) (f_rr : Fld.rr ∈ F) (f_exec : Fld.exec ∈ F) (f_trx : Fld.trx ∈ F)
    (f_cans : Fld.cans ∈ F) (f_lins : Fld.lins ∈ F) (f_nm : Fld.nm ∈ F) (f_gw : Fld.gw ∈ F) (f_eth : Fld.eth ∈ F)
    (f_zrt : Fld.zrt ∈ F) (f_pwr : Fld.pwr ∈ F) (f_inp : Fld.inp ∈ F) (f_meas : Fld.meas ∈ F) (f_acc : Fld.acc ∈ F)
    (f_iso : Fld.iso ∈ F) (f_nvm : Fld.nvm ∈ F) (f_upd : Fld.upd ∈ F) (f_trk : Fld.trk ∈ F) (f_brg : Fld.brg ∈ F)
    (f_ports : Fld.ports ∈ F) (h : Keeps F s t)  :
    KeepsOut F s (execFullResetEntry t) := by
  unfold execFullResetEntry
  with_reducible repeat' first
     | apply KeepsOut.next | exact Keeps.refl _ | assumption | apply State.fullReset_keeps | split

theorem execResetPinAssert_keeps {F : List Fld} {s t : State} (f_regs : Fld.regs ∈ F) (f_mem : Fld.mem ∈ F)
    (f_mram : Fld.mram ∈ F) (f_islands : Fld.islands ∈ F) (f_dly : Fld.dly ∈ F) (f_frm : Fld.frm ∈ F)
    (f_offers : Fld.offers ∈ F) (f_chans : Fld.chans ∈ F) (f_dies : Fld.dies ∈ F) (f_links : Fld.links ∈ F)
    (f_ldg : Fld.ldg ∈ F) (f_boot : Fld.boot ∈ F) (f_str : Fld.str ∈ F) (f_scr : Fld.scr ∈ F) (f_engs : Fld.engs ∈ F)
    (f_gated : Fld.gated ∈ F) (f_waiting : Fld.waiting ∈ F) (f_rr : Fld.rr ∈ F) (f_exec : Fld.exec ∈ F) (f_trx : Fld.trx ∈ F)
    (f_cans : Fld.cans ∈ F) (f_lins : Fld.lins ∈ F) (f_nm : Fld.nm ∈ F) (f_gw : Fld.gw ∈ F) (f_eth : Fld.eth ∈ F)
    (f_zrt : Fld.zrt ∈ F) (f_pwr : Fld.pwr ∈ F) (f_inp : Fld.inp ∈ F) (f_meas : Fld.meas ∈ F) (f_acc : Fld.acc ∈ F)
    (f_iso : Fld.iso ∈ F) (f_nvm : Fld.nvm ∈ F) (f_upd : Fld.upd ∈ F) (f_trk : Fld.trk ∈ F) (f_brg : Fld.brg ∈ F)
    (f_ports : Fld.ports ∈ F) (h : Keeps F s t)  :
    KeepsOut F s (execResetPinAssert t) := by
  unfold execResetPinAssert
  with_reducible repeat' first
     | apply KeepsOut.next | exact Keeps.refl _ | assumption | apply KeepsOut.ite | apply Keeps.ite | apply State.fullReset_keeps
     | (extract_lets +onlyGivenNames x; clear_value x) | split | apply Keeps.upd_boot

theorem execResetPinRelease_keeps {F : List Fld} {s t : State} (f_boot : Fld.boot ∈ F) (h : Keeps F s t)  :
    KeepsOut F s (execResetPinRelease t) := by
  unfold execResetPinRelease
  with_reducible repeat' first
     | apply KeepsOut.next | exact Keeps.refl _ | assumption | (extract_lets +onlyGivenNames x; clear_value x)
     | apply Keeps.upd_boot

theorem execSpineHang_keeps {F : List Fld} {s t : State} (f_regs : Fld.regs ∈ F) (f_mem : Fld.mem ∈ F) (f_mram : Fld.mram ∈ F)
    (f_islands : Fld.islands ∈ F) (f_dly : Fld.dly ∈ F) (f_frm : Fld.frm ∈ F) (f_offers : Fld.offers ∈ F)
    (f_chans : Fld.chans ∈ F) (f_dies : Fld.dies ∈ F) (f_links : Fld.links ∈ F) (f_ldg : Fld.ldg ∈ F) (f_boot : Fld.boot ∈ F)
    (f_str : Fld.str ∈ F) (f_scr : Fld.scr ∈ F) (f_engs : Fld.engs ∈ F) (f_gated : Fld.gated ∈ F) (f_waiting : Fld.waiting ∈ F)
    (f_rr : Fld.rr ∈ F) (f_exec : Fld.exec ∈ F) (f_trx : Fld.trx ∈ F) (f_cans : Fld.cans ∈ F) (f_lins : Fld.lins ∈ F)
    (f_nm : Fld.nm ∈ F) (f_gw : Fld.gw ∈ F) (f_eth : Fld.eth ∈ F) (f_zrt : Fld.zrt ∈ F) (f_pwr : Fld.pwr ∈ F)
    (f_inp : Fld.inp ∈ F) (f_meas : Fld.meas ∈ F) (f_acc : Fld.acc ∈ F) (f_iso : Fld.iso ∈ F) (f_nvm : Fld.nvm ∈ F)
    (f_upd : Fld.upd ∈ F) (f_trk : Fld.trk ∈ F) (f_brg : Fld.brg ∈ F) (f_ports : Fld.ports ∈ F) (h : Keeps F s t) (isl : Fin 30) :
    KeepsOut F s (execSpineHang isl t) := by
  unfold execSpineHang
  with_reducible repeat' first
     | apply KeepsOut.next | exact Keeps.refl _ | assumption | apply KeepsOut.ite | apply Keeps.ite | apply State.fullReset_keeps
     | apply State.setF_keeps | apply State.setReg_keeps | (extract_lets +onlyGivenNames x; clear_value x) | split

theorem execHangRecordClear_keeps {F : List Fld} {s t : State} (f_regs : Fld.regs ∈ F) (h : Keeps F s t)  :
    KeepsOut F s (execHangRecordClear t) := by
  unfold execHangRecordClear
  with_reducible repeat' first
     | apply KeepsOut.next | exact Keeps.refl _ | assumption | apply State.setF_keeps

theorem execCrewHeartbeatMiss_keeps {F : List Fld} {s t : State} (f_regs : Fld.regs ∈ F) (f_mem : Fld.mem ∈ F)
    (f_mram : Fld.mram ∈ F) (f_islands : Fld.islands ∈ F) (f_dly : Fld.dly ∈ F) (f_frm : Fld.frm ∈ F)
    (f_offers : Fld.offers ∈ F) (f_chans : Fld.chans ∈ F) (f_dies : Fld.dies ∈ F) (f_links : Fld.links ∈ F)
    (f_ldg : Fld.ldg ∈ F) (f_boot : Fld.boot ∈ F) (f_str : Fld.str ∈ F) (f_scr : Fld.scr ∈ F) (f_engs : Fld.engs ∈ F)
    (f_gated : Fld.gated ∈ F) (f_waiting : Fld.waiting ∈ F) (f_rr : Fld.rr ∈ F) (f_exec : Fld.exec ∈ F) (f_trx : Fld.trx ∈ F)
    (f_cans : Fld.cans ∈ F) (f_lins : Fld.lins ∈ F) (f_nm : Fld.nm ∈ F) (f_gw : Fld.gw ∈ F) (f_eth : Fld.eth ∈ F)
    (f_zrt : Fld.zrt ∈ F) (f_pwr : Fld.pwr ∈ F) (f_inp : Fld.inp ∈ F) (f_meas : Fld.meas ∈ F) (f_acc : Fld.acc ∈ F)
    (f_iso : Fld.iso ∈ F) (f_nvm : Fld.nvm ∈ F) (f_upd : Fld.upd ∈ F) (f_trk : Fld.trk ∈ F) (f_brg : Fld.brg ∈ F)
    (f_ports : Fld.ports ∈ F) (h : Keeps F s t) (c : Fin 6) :
    KeepsOut F s (execCrewHeartbeatMiss c t) := by
  unfold execCrewHeartbeatMiss
  with_reducible repeat' first
     | apply KeepsOut.next | exact Keeps.refl _ | assumption | apply KeepsOut.ite | apply Keeps.ite | apply State.fullReset_keeps

theorem execDloUnlock_keeps {F : List Fld} {s t : State} (f_regs : Fld.regs ∈ F) (f_islands : Fld.islands ∈ F) (h : Keeps F s t)
    (isl : Fin 30) (absent : Bool) :
    KeepsOut F s (execDloUnlock isl absent t) := by
  unfold execDloUnlock
  with_reducible repeat' first
     | apply KeepsOut.next | exact Keeps.refl _ | assumption | apply KeepsOut.ite | apply Keeps.ite | apply Keeps.ite2
     | apply State.raise_keeps | apply State.setF_keeps | apply State.stampUnit_keeps

theorem execXtalFail_keeps {F : List Fld} {s t : State} (f_free : Fld.free ∈ F) (f_regs : Fld.regs ∈ F) (f_mem : Fld.mem ∈ F)
    (f_mram : Fld.mram ∈ F) (f_islands : Fld.islands ∈ F) (f_dly : Fld.dly ∈ F) (f_frm : Fld.frm ∈ F)
    (f_offers : Fld.offers ∈ F) (f_chans : Fld.chans ∈ F) (f_dies : Fld.dies ∈ F) (f_links : Fld.links ∈ F)
    (f_ldg : Fld.ldg ∈ F) (f_boot : Fld.boot ∈ F) (f_str : Fld.str ∈ F) (f_scr : Fld.scr ∈ F) (f_engs : Fld.engs ∈ F)
    (f_gated : Fld.gated ∈ F) (f_waiting : Fld.waiting ∈ F) (f_rr : Fld.rr ∈ F) (f_exec : Fld.exec ∈ F) (f_trx : Fld.trx ∈ F)
    (f_cans : Fld.cans ∈ F) (f_lins : Fld.lins ∈ F) (f_nm : Fld.nm ∈ F) (f_gw : Fld.gw ∈ F) (f_eth : Fld.eth ∈ F)
    (f_zrt : Fld.zrt ∈ F) (f_pwr : Fld.pwr ∈ F) (f_inp : Fld.inp ∈ F) (f_meas : Fld.meas ∈ F) (f_acc : Fld.acc ∈ F)
    (f_iso : Fld.iso ∈ F) (f_nvm : Fld.nvm ∈ F) (f_upd : Fld.upd ∈ F) (f_trk : Fld.trk ∈ F) (f_brg : Fld.brg ∈ F)
    (f_ports : Fld.ports ∈ F) (h : Keeps F s t)  :
    KeepsOut F s (execXtalFail t) := by
  unfold execXtalFail
  with_reducible repeat' first
     | apply KeepsOut.next | exact Keeps.refl _ | assumption | apply State.drawn_keeps | apply State.fullReset_keeps
     | apply State.raise_keeps | apply State.stampUnit_keeps | (extract_lets +onlyGivenNames x; clear_value x)
     | apply Keeps.upd_boot

theorem execKaLapseReset_keeps {F : List Fld} {s t : State} (f_regs : Fld.regs ∈ F) (f_mem : Fld.mem ∈ F)
    (f_mram : Fld.mram ∈ F) (f_islands : Fld.islands ∈ F) (f_dly : Fld.dly ∈ F) (f_frm : Fld.frm ∈ F)
    (f_offers : Fld.offers ∈ F) (f_chans : Fld.chans ∈ F) (f_dies : Fld.dies ∈ F) (f_links : Fld.links ∈ F)
    (f_ldg : Fld.ldg ∈ F) (f_boot : Fld.boot ∈ F) (f_str : Fld.str ∈ F) (f_scr : Fld.scr ∈ F) (f_engs : Fld.engs ∈ F)
    (f_gated : Fld.gated ∈ F) (f_waiting : Fld.waiting ∈ F) (f_rr : Fld.rr ∈ F) (f_exec : Fld.exec ∈ F) (f_trx : Fld.trx ∈ F)
    (f_cans : Fld.cans ∈ F) (f_lins : Fld.lins ∈ F) (f_nm : Fld.nm ∈ F) (f_gw : Fld.gw ∈ F) (f_eth : Fld.eth ∈ F)
    (f_zrt : Fld.zrt ∈ F) (f_pwr : Fld.pwr ∈ F) (f_inp : Fld.inp ∈ F) (f_meas : Fld.meas ∈ F) (f_acc : Fld.acc ∈ F)
    (f_iso : Fld.iso ∈ F) (f_nvm : Fld.nvm ∈ F) (f_upd : Fld.upd ∈ F) (f_trk : Fld.trk ∈ F) (f_brg : Fld.brg ∈ F)
    (f_ports : Fld.ports ∈ F) (h : Keeps F s t)  :
    KeepsOut F s (execKaLapseReset t) := by
  unfold execKaLapseReset
  with_reducible repeat' first
     | apply KeepsOut.next | exact Keeps.refl _ | assumption | apply KeepsOut.ite | apply Keeps.ite | apply State.fullReset_keeps
     | apply State.raise_keeps

theorem execLockstepMismatch_keeps {F : List Fld} {s t : State} (f_regs : Fld.regs ∈ F) (f_mem : Fld.mem ∈ F)
    (f_mram : Fld.mram ∈ F) (f_islands : Fld.islands ∈ F) (f_dly : Fld.dly ∈ F) (f_frm : Fld.frm ∈ F)
    (f_offers : Fld.offers ∈ F) (f_chans : Fld.chans ∈ F) (f_dies : Fld.dies ∈ F) (f_links : Fld.links ∈ F)
    (f_ldg : Fld.ldg ∈ F) (f_boot : Fld.boot ∈ F) (f_str : Fld.str ∈ F) (f_scr : Fld.scr ∈ F) (f_engs : Fld.engs ∈ F)
    (f_gated : Fld.gated ∈ F) (f_waiting : Fld.waiting ∈ F) (f_rr : Fld.rr ∈ F) (f_exec : Fld.exec ∈ F) (f_trx : Fld.trx ∈ F)
    (f_cans : Fld.cans ∈ F) (f_lins : Fld.lins ∈ F) (f_nm : Fld.nm ∈ F) (f_gw : Fld.gw ∈ F) (f_eth : Fld.eth ∈ F)
    (f_zrt : Fld.zrt ∈ F) (f_pwr : Fld.pwr ∈ F) (f_inp : Fld.inp ∈ F) (f_meas : Fld.meas ∈ F) (f_acc : Fld.acc ∈ F)
    (f_iso : Fld.iso ∈ F) (f_nvm : Fld.nvm ∈ F) (f_upd : Fld.upd ∈ F) (f_trk : Fld.trk ∈ F) (f_brg : Fld.brg ∈ F)
    (f_ports : Fld.ports ∈ F) (h : Keeps F s t)  :
    KeepsOut F s (execLockstepMismatch t) := by
  unfold execLockstepMismatch
  with_reducible repeat' first
     | apply KeepsOut.next | exact Keeps.refl _ | assumption | apply State.fullReset_keeps | apply State.raise_keeps
     | (extract_lets +onlyGivenNames x; clear_value x) | apply Keeps.upd_str

end Sys2Proof.Machine
end

