-- ==== Sys2Proof/Laws/KeepsGateway.lean ====
section
/-! SUPPORT. What the operations and meanings of Machine/Gateway.lean keep. -/

namespace Sys2Proof.Machine

theorem State.stampCan_keeps {F : List Fld} {s t : State} (f_regs : Fld.regs ∈ F) (f_islands : Fld.islands ∈ F)
    (h : Keeps F s t) (n : Nat) (event : Nat) (data : Nat) :
    Keeps F s (State.stampCan t n event data) := by
  unfold State.stampCan
  with_reducible repeat' first
     | exact Keeps.refl _ | assumption | apply State.stamp_keeps

theorem State.canCue_keeps {F : List Fld} {s t : State} (f_offers : Fld.offers ∈ F) (h : Keeps F s t) (n : Nat) (target : Nat)
    (code : Nat) (arg : Nat) :
    Keeps F s (State.canCue t n target code arg) := by
  unfold State.canCue
  with_reducible repeat' first
     | exact Keeps.refl _ | assumption | apply State.unitCue_keeps

theorem State.canEvent_keeps {F : List Fld} {s t : State} (f_regs : Fld.regs ∈ F) (f_islands : Fld.islands ∈ F)
    (f_offers : Fld.offers ∈ F) (h : Keeps F s t) (n : Nat) (code : Nat) (arg : Nat) (data : Nat) :
    Keeps F s (State.canEvent t n code arg data) := by
  unfold State.canEvent
  with_reducible repeat' first
     | exact Keeps.refl _ | assumption | apply State.canCue_keeps | apply State.stampCan_keeps

theorem State.linCommit_keeps {F : List Fld} {s t : State} (f_mem : Fld.mem ∈ F) (f_lins : Fld.lins ∈ F) (h : Keeps F s t)
    (n : Nat) (b : Nat) (d : List Byte) :
    Keeps F s (State.linCommit t n b d) := by
  unfold State.linCommit
  with_reducible repeat' first
     | exact Keeps.refl _ | assumption | apply State.setLin_keeps | apply State.setMf_keeps

theorem State.setFc_keeps {F : List Fld} {s t : State} (f_mem : Fld.mem ∈ F) (h : Keeps F s t) (f : Nat) (off : Nat) (lo : Nat)
    (w : Nat) (v : Nat) :
    Keeps F s (State.setFc t f off lo w v) := by
  unfold State.setFc
  with_reducible repeat' first
     | exact Keeps.refl _ | assumption | apply State.setMf_keeps

theorem State.stampGw_keeps {F : List Fld} {s t : State} (f_regs : Fld.regs ∈ F) (f_islands : Fld.islands ∈ F) (h : Keeps F s t)
    (kind : Nat) (index : Nat) (event : Nat) (data : Nat) :
    Keeps F s (State.stampGw t kind index event data) := by
  unfold State.stampGw
  with_reducible repeat' first
     | exact Keeps.refl _ | assumption | apply State.stamp_keeps

theorem State.fieldShort_keeps {F : List Fld} {s t : State} (f_regs : Fld.regs ∈ F) (h : Keeps F s t)  :
    Keeps F s (State.fieldShort t) := by
  unfold State.fieldShort
  with_reducible repeat' first
     | exact Keeps.refl _ | assumption | apply State.raise_keeps

theorem State.twinCheck_keeps {F : List Fld} {s t : State} (f_regs : Fld.regs ∈ F) (f_mem : Fld.mem ∈ F)
    (f_islands : Fld.islands ∈ F) (f_offers : Fld.offers ∈ F) (h : Keeps F s t) (e : GwEntry) (g : GwFrame) :
    Keeps F s (State.twinCheck t e g) := by
  unfold State.twinCheck
  with_reducible repeat' first
     | exact Keeps.refl _ | assumption | apply Keeps.ite | apply State.fieldShort_keeps | apply State.raise_keeps
     | apply State.setFc_keeps | apply State.stampGw_keeps | apply State.unitCue_keeps
     | (extract_lets +onlyGivenNames x; clear_value x) | split

theorem State.flowHit_keeps {F : List Fld} {s t : State} (f_regs : Fld.regs ∈ F) (f_mem : Fld.mem ∈ F)
    (f_islands : Fld.islands ∈ F) (f_offers : Fld.offers ∈ F) (f_gw : Fld.gw ∈ F) (h : Keeps F s t) (e : GwEntry) (g : GwFrame) :
    Keeps F s (State.flowHit t e g) := by
  unfold State.flowHit
  with_reducible repeat' first
     | exact Keeps.refl _ | assumption | apply Keeps.ite | apply State.setFc_keeps | apply State.stampGw_keeps
     | apply State.twinCheck_keeps | apply State.wrN_keeps | intro x hx | intro y
     | (extract_lets +onlyGivenNames x; first | (refine Keeps.cut F s x ?_ (fun hx => ?_); rotate_left 1; clear_value x; rotate_left 1; unfold x) | clear_value x)
     | split | apply Keeps.upd_gw

theorem State.setGwBuf_keeps {F : List Fld} {s t : State} (f_gw : Fld.gw ∈ F) (h : Keeps F s t) (b : Nat) (x : GwBuf) :
    Keeps F s (State.setGwBuf t b x) := by
  unfold State.setGwBuf
  with_reducible repeat' first
     | exact Keeps.refl _ | assumption | apply Keeps.ite | apply hf | intro x hx | intro y
     | (extract_lets +onlyGivenNames x; clear_value x) | split | apply Keeps.upd_gw

theorem State.fillBuf_keeps {F : List Fld} {s t : State} (f_mem : Fld.mem ∈ F) (h : Keeps F s t) (b : Nat) (e : GwEntry)
    (g : GwFrame) :
    Keeps F s (State.fillBuf t b e g) := by
  unfold State.fillBuf
  with_reducible repeat' first
     | exact Keeps.refl _ | assumption | apply State.stamp_keeps | apply State.wrBytes_keeps | apply State.wrN_keeps
     | apply State.zeroMem_keeps

theorem State.bufTaken_keeps {F : List Fld} {s t : State} (f_gw : Fld.gw ∈ F) (h : Keeps F s t) (b : Nat) :
    Keeps F s (State.bufTaken t b) := by
  unfold State.bufTaken
  with_reducible repeat' first
     | exact Keeps.refl _ | assumption | apply State.setGwBuf_keeps

theorem State.gwDrop_keeps {F : List Fld} {s t : State} (f_regs : Fld.regs ∈ F) (h : Keeps F s t) (r : RF) :
    Keeps F s (State.gwDrop t r) := by
  unfold State.gwDrop
  with_reducible repeat' first
     | exact Keeps.refl _ | assumption | apply State.incSat_keeps

theorem State.plcaLoad_keeps {F : List Fld} {s t : State} (f_regs : Fld.regs ∈ F) (f_eth : Fld.eth ∈ F) (h : Keeps F s t)  :
    Keeps F s (State.plcaLoad t) := by
  unfold State.plcaLoad
  with_reducible repeat' first
     | exact Keeps.refl _ | assumption | apply Keeps.ite | apply Keeps.ite2 | apply State.setF_keeps
     | (extract_lets +onlyGivenNames x; clear_value x) | split | dsimp only | apply Keeps.upd_eth

theorem State.setPdu_keeps {F : List Fld} {s t : State} (f_eth : Fld.eth ∈ F) (h : Keeps F s t) (k : Nat) (x : AcfPdu) :
    Keeps F s (State.setPdu t k x) := by
  unfold State.setPdu
  with_reducible repeat' first
     | exact Keeps.refl _ | assumption | apply hf | intro x hx | intro y | (extract_lets +onlyGivenNames x; clear_value x)
     | apply Keeps.upd_eth

theorem State.ethPut_keeps {F : List Fld} {s t : State} (f_eth : Fld.eth ∈ F) (h : Keeps F s t) (p : Nat) (pcp : Nat)
    (f : EthFrame) :
    Keeps F s (State.ethPut t p pcp f) := by
  unfold State.ethPut
  with_reducible repeat' first
     | exact Keeps.refl _ | assumption | (extract_lets +onlyGivenNames x; clear_value x) | dsimp only | apply Keeps.upd_eth

theorem State.ethQueue_keeps {F : List Fld} {s t : State} (f_eth : Fld.eth ∈ F) (h : Keeps F s t) (p : Nat) (f : EthFrame) :
    Keeps F s (State.ethQueue t p f) := by
  unfold State.ethQueue
  with_reducible repeat' first
     | exact Keeps.refl _ | assumption | apply Keeps.ite | apply State.ethPut_keeps | apply hf | intro x hx | intro y
     | (extract_lets +onlyGivenNames x; clear_value x) | split | dsimp only | apply Keeps.upd_eth

theorem State.pduClose_keeps {F : List Fld} {s t : State} (f_eth : Fld.eth ∈ F) (h : Keeps F s t) (k : Nat) :
    Keeps F s (State.pduClose t k) := by
  unfold State.pduClose
  with_reducible repeat' first
     | exact Keeps.refl _ | assumption | apply Keeps.ite | apply Keeps.ite2 | apply State.ethQueue_keeps
     | apply State.setPdu_keeps | apply hf | intro x hx | intro y | (extract_lets +onlyGivenNames x; clear_value x) | split
     | dsimp only | apply Keeps.upd_eth

theorem State.acfAdd_keeps {F : List Fld} {s t : State} (f_eth : Fld.eth ∈ F) (h : Keeps F s t) (p : Nat) (x : Egress) :
    Keeps F s (State.acfAdd t p x) := by
  unfold State.acfAdd
  with_reducible repeat' first
     | exact Keeps.refl _ | assumption | apply Keeps.ite | apply Keeps.ite2 | apply State.pduClose_keeps
     | apply State.setPdu_keeps

theorem State.egress_keeps {F : List Fld} {s t : State} (f_gw : Fld.gw ∈ F) (h : Keeps F s t) (x : Egress) :
    Keeps F s (State.egress t x) := by
  unfold State.egress
  with_reducible repeat' first
     | exact Keeps.refl _ | assumption | apply Keeps.ite | apply State.setGwBuf_keeps
     | (extract_lets +onlyGivenNames x; clear_value x) | split | apply Keeps.upd_gw

theorem State.trkRoute_keeps {F : List Fld} {s t : State} (f_regs : Fld.regs ∈ F) (f_trk : Fld.trk ∈ F) (h : Keeps F s t)
    (x : Egress) :
    Keeps F s (State.trkRoute t x) := by
  unfold State.trkRoute
  with_reducible repeat' first
     | exact Keeps.refl _ | assumption | apply Keeps.ite | apply State.gwDrop_keeps | apply State.trkKeep_keeps

theorem State.routePort_keeps {F : List Fld} {s t : State} (f_regs : Fld.regs ∈ F) (f_mem : Fld.mem ∈ F)
    (f_islands : Fld.islands ∈ F) (f_offers : Fld.offers ∈ F) (f_trx : Fld.trx ∈ F) (f_cans : Fld.cans ∈ F)
    (f_lins : Fld.lins ∈ F) (f_nm : Fld.nm ∈ F) (f_gw : Fld.gw ∈ F) (f_eth : Fld.eth ∈ F) (f_pwr : Fld.pwr ∈ F)
    (f_trk : Fld.trk ∈ F) (h : Keeps F s t) (x : Egress) :
    Keeps F s (State.routePort t x) := by
  unfold State.routePort
  with_reducible repeat' first
     | exact Keeps.refl _ | assumption | apply Keeps.ite | apply Keeps.ite2 | apply State.acfAdd_keeps | apply State.egress_keeps
     | apply State.ethQueue_keeps | apply State.gwDrop_keeps | apply State.linCommit_keeps | apply State.localWake_keeps
     | apply State.nmRecheck_keeps | apply State.trkRoute_keeps | (extract_lets +onlyGivenNames x; clear_value x) | split

theorem State.route_keeps {F : List Fld} {s t : State} (f_regs : Fld.regs ∈ F) (f_mem : Fld.mem ∈ F)
    (f_islands : Fld.islands ∈ F) (f_offers : Fld.offers ∈ F) (f_trx : Fld.trx ∈ F) (f_cans : Fld.cans ∈ F)
    (f_lins : Fld.lins ∈ F) (f_nm : Fld.nm ∈ F) (f_gw : Fld.gw ∈ F) (f_eth : Fld.eth ∈ F) (f_pwr : Fld.pwr ∈ F)
    (f_trk : Fld.trk ∈ F) (h : Keeps F s t) (e : GwEntry) (g : GwFrame) (dest : Nat) (buf : Nat) :
    Keeps F s (State.route t e g dest buf) := by
  unfold State.route
  with_reducible repeat' first
     | exact Keeps.refl _ | assumption | apply Keeps.ite | apply Keeps.ite2 | apply State.routePort_keeps | apply Keeps.foldl
     | apply Keeps.foldl2 | apply Keeps.foldl1 | apply hf | intro x hx | intro y

theorem State.directReflex_keeps {F : List Fld} {s t : State} (f_regs : Fld.regs ∈ F) (f_exec : Fld.exec ∈ F) (h : Keeps F s t)
    (e : GwEntry) (g : GwFrame) :
    Keeps F s (State.directReflex t e g) := by
  unfold State.directReflex
  with_reducible repeat' first
     | exact Keeps.refl _ | assumption | apply State.fieldShort_keeps | apply hf | intro x hx | intro y
     | (extract_lets +onlyGivenNames x; clear_value x) | split | dsimp only | apply Keeps.upd_exec

theorem State.frameCue_keeps {F : List Fld} {s t : State} (f_offers : Fld.offers ∈ F) (f_gw : Fld.gw ∈ F) (h : Keeps F s t)
    (target : Nat) (cls : Nat) (g : GwFrame) (buf : Option Nat) :
    Keeps F s (State.frameCue t target cls g buf) := by
  unfold State.frameCue
  with_reducible repeat' first
     | exact Keeps.refl _ | assumption | apply Keeps.ite | apply Keeps.ite2 | apply State.postCue_keeps
     | apply State.setGwBuf_keeps | apply Keeps.id_
     | (extract_lets +onlyGivenNames x; refine Keeps.cut F s x ?_ (fun hx => ?_); rotate_left 1; clear_value x; rotate_left 1; unfold x)
     | split

theorem State.gwActions_keeps {F : List Fld} {s t : State} (f_regs : Fld.regs ∈ F) (f_mem : Fld.mem ∈ F)
    (f_islands : Fld.islands ∈ F) (f_offers : Fld.offers ∈ F) (f_exec : Fld.exec ∈ F) (f_trx : Fld.trx ∈ F)
    (f_cans : Fld.cans ∈ F) (f_lins : Fld.lins ∈ F) (f_nm : Fld.nm ∈ F) (f_gw : Fld.gw ∈ F) (f_eth : Fld.eth ∈ F)
    (f_pwr : Fld.pwr ∈ F) (f_trk : Fld.trk ∈ F) (h : Keeps F s t) (e : GwEntry) (g : GwFrame) (isZrt : Bool) :
    Keeps F s (State.gwActions t e g isZrt) := by
  unfold State.gwActions
  with_reducible repeat' first
     | exact Keeps.refl _ | assumption | apply Keeps.ite | apply State.directReflex_keeps | apply State.fillBuf_keeps
     | apply State.frameCue_keeps | apply State.gwDrop_keeps | apply State.route_keeps
     | (extract_lets +onlyGivenNames x; clear_value x) | split

theorem State.gwHit_keeps {F : List Fld} {s t : State} (f_regs : Fld.regs ∈ F) (f_mem : Fld.mem ∈ F)
    (f_islands : Fld.islands ∈ F) (f_offers : Fld.offers ∈ F) (f_exec : Fld.exec ∈ F) (f_trx : Fld.trx ∈ F)
    (f_cans : Fld.cans ∈ F) (f_lins : Fld.lins ∈ F) (f_nm : Fld.nm ∈ F) (f_gw : Fld.gw ∈ F) (f_eth : Fld.eth ∈ F)
    (f_pwr : Fld.pwr ∈ F) (f_trk : Fld.trk ∈ F) (h : Keeps F s t) (e : GwEntry) (g : GwFrame) :
    Keeps F s (State.gwHit t e g) := by
  unfold State.gwHit
  with_reducible repeat' first
     | exact Keeps.refl _ | assumption | apply State.flowHit_keeps | apply State.gwActions_keeps | apply State.setF_keeps

theorem State.gwMiss_keeps {F : List Fld} {s t : State} (f_regs : Fld.regs ∈ F) (f_mem : Fld.mem ∈ F)
    (f_islands : Fld.islands ∈ F) (f_offers : Fld.offers ∈ F) (f_trx : Fld.trx ∈ F) (f_cans : Fld.cans ∈ F)
    (f_lins : Fld.lins ∈ F) (f_nm : Fld.nm ∈ F) (f_gw : Fld.gw ∈ F) (f_eth : Fld.eth ∈ F) (f_pwr : Fld.pwr ∈ F)
    (f_trk : Fld.trk ∈ F) (h : Keeps F s t) (g : GwFrame) :
    Keeps F s (State.gwMiss t g) := by
  unfold State.gwMiss
  with_reducible repeat' first
     | exact Keeps.refl _ | assumption | apply State.fillBuf_keeps | apply State.frameCue_keeps | apply State.gwDrop_keeps
     | apply State.route_keeps | apply State.setF_keeps
     | (extract_lets +onlyGivenNames x; refine Keeps.cut F s x ?_ (fun hx => ?_); rotate_left 1; clear_value x; rotate_left 1; unfold x)
     | split

theorem State.gwArrive_keeps {F : List Fld} {s t : State} (f_gw : Fld.gw ∈ F) (h : Keeps F s t) (g : GwFrame) :
    Keeps F s (State.gwArrive t g) := by
  unfold State.gwArrive
  with_reducible repeat' first
     | exact Keeps.refl _ | assumption | (extract_lets +onlyGivenNames x; clear_value x) | apply Keeps.upd_gw

theorem execGwLookup_keeps {F : List Fld} {s t : State} (f_regs : Fld.regs ∈ F) (f_mem : Fld.mem ∈ F)
    (f_islands : Fld.islands ∈ F) (f_offers : Fld.offers ∈ F) (f_exec : Fld.exec ∈ F) (f_trx : Fld.trx ∈ F)
    (f_cans : Fld.cans ∈ F) (f_lins : Fld.lins ∈ F) (f_nm : Fld.nm ∈ F) (f_gw : Fld.gw ∈ F) (f_eth : Fld.eth ∈ F)
    (f_pwr : Fld.pwr ∈ F) (f_trk : Fld.trk ∈ F) (h : Keeps F s t)  :
    KeepsOut F s (execGwLookup t) := by
  unfold execGwLookup
  with_reducible repeat' first
     | apply KeepsOut.next | exact Keeps.refl _ | assumption | apply KeepsOut.ite | apply Keeps.ite | apply State.gwHit_keeps
     | apply State.gwMiss_keeps
     | (extract_lets +onlyGivenNames x; first | (refine Keeps.cut F s x ?_ (fun hx => ?_); rotate_left 1; clear_value x; rotate_left 1; unfold x) | clear_value x)
     | split | dsimp only | apply Keeps.upd_gw

theorem State.canFill_keeps {F : List Fld} {s t : State} (f_mem : Fld.mem ∈ F) (h : Keeps F s t) (n : Nat) (k : Nat)
    (g : GwFrame) :
    Keeps F s (State.canFill t n k g) := by
  unfold State.canFill
  with_reducible repeat' first
     | exact Keeps.refl _ | assumption | apply Keeps.ite | apply State.setMf_keeps | apply State.wrBytes_keeps
     | apply State.wrN_keeps | apply State.zeroMem_keeps

theorem State.egressTake_keeps {F : List Fld} {s t : State} (f_gw : Fld.gw ∈ F) (h : Keeps F s t) (x : Egress) :
    Keeps F s (State.egressTake t x) := by
  unfold State.egressTake
  with_reducible repeat' first
     | exact Keeps.refl _ | assumption | apply Keeps.ite | apply State.bufTaken_keeps
     | (extract_lets +onlyGivenNames x; clear_value x) | split | apply Keeps.upd_gw

theorem execGwCanHandover_keeps {F : List Fld} {s t : State} (f_mem : Fld.mem ∈ F) (f_gw : Fld.gw ∈ F) (h : Keeps F s t)
    (n : Fin 8) :
    KeepsOut F s (execGwCanHandover n t) := by
  unfold execGwCanHandover
  with_reducible repeat' first
     | apply KeepsOut.next | exact Keeps.refl _ | assumption | apply KeepsOut.ite | apply Keeps.ite | apply Keeps.ite2
     | apply State.canFill_keeps | apply State.egressTake_keeps | split

theorem execGwFrameAged_keeps {F : List Fld} {s t : State} (f_regs : Fld.regs ∈ F) (f_islands : Fld.islands ∈ F)
    (f_offers : Fld.offers ∈ F) (f_nm : Fld.nm ∈ F) (f_gw : Fld.gw ∈ F) (h : Keeps F s t) (p : Fin 21) :
    KeepsOut F s (execGwFrameAged p t) := by
  unfold execGwFrameAged
  with_reducible repeat' first
     | apply KeepsOut.next | exact Keeps.refl _ | assumption | apply KeepsOut.ite | apply Keeps.ite | apply State.egressTake_keeps
     | apply State.gwDrop_keeps | apply State.nmRecheck_keeps | intro x hx | intro y | split

theorem State.gwRelease_keeps {F : List Fld} {s t : State} (f_gw : Fld.gw ∈ F) (h : Keeps F s t) (init : Nat) (b : Nat) :
    Keeps F s (State.gwRelease t init b) := by
  unfold State.gwRelease
  with_reducible repeat' first
     | exact Keeps.refl _ | assumption | apply State.setGwBuf_keeps

theorem execGwRelease_keeps {F : List Fld} {s t : State} (f_gw : Fld.gw ∈ F) (h : Keeps F s t) (init : Byte) (b : BitVec 11) :
    KeepsOut F s (execGwRelease init b t) := by
  unfold execGwRelease
  with_reducible repeat' first
     | apply KeepsOut.next | exact Keeps.refl _ | assumption | apply KeepsOut.ite | apply Keeps.ite | apply State.gwRelease_keeps

theorem execGwBufferReclaim_keeps {F : List Fld} {s t : State} (f_regs : Fld.regs ∈ F) (f_gw : Fld.gw ∈ F) (h : Keeps F s t)
    (b : Fin 2048) :
    KeepsOut F s (execGwBufferReclaim b t) := by
  unfold execGwBufferReclaim
  with_reducible repeat' first
     | apply KeepsOut.next | exact Keeps.refl _ | assumption | apply KeepsOut.ite | apply Keeps.ite | apply State.raise_keeps
     | apply State.setGwBuf_keeps

theorem execFlowTimeout_keeps {F : List Fld} {s t : State} (f_regs : Fld.regs ∈ F) (f_mem : Fld.mem ∈ F)
    (f_islands : Fld.islands ∈ F) (f_offers : Fld.offers ∈ F) (f_gw : Fld.gw ∈ F) (h : Keeps F s t) (f : Fin 1024) :
    KeepsOut F s (execFlowTimeout f t) := by
  unfold execFlowTimeout
  with_reducible repeat' first
     | apply KeepsOut.next | exact Keeps.refl _ | assumption | apply KeepsOut.ite | apply Keeps.ite | apply State.raise_keeps
     | apply State.setFc_keeps | apply State.stampGw_keeps | apply State.unitCue_keeps
     | (extract_lets +onlyGivenNames x; clear_value x) | split | dsimp only | apply Keeps.upd_gw

theorem State.gwRefuse_keeps {F : List Fld} {s t : State} (f_regs : Fld.regs ∈ F) (h : Keeps F s t) (init : Nat) :
    Keeps F s (State.gwRefuse t init) := by
  unfold State.gwRefuse
  with_reducible repeat' first
     | exact Keeps.refl _ | assumption | apply State.incSat_keeps | apply State.setF_keeps

theorem State.flowWrite_keeps {F : List Fld} {s t : State} (f_regs : Fld.regs ∈ F) (f_mem : Fld.mem ∈ F) (h : Keeps F s t)
    (init : Nat) (f : Nat) (off : Nat) (bytes : List Byte) :
    Keeps F s (State.flowWrite t init f off bytes) := by
  unfold State.flowWrite
  with_reducible repeat' first
     | exact Keeps.refl _ | assumption | apply Keeps.ite | apply State.gwRefuse_keeps | apply State.wrBytes_keeps

theorem execFlowContextWrite_keeps {F : List Fld} {s t : State} (f_regs : Fld.regs ∈ F) (f_mem : Fld.mem ∈ F) (h : Keeps F s t)
    (f : Fin 1024) (init : Byte) (off : Fin 64) (bytes : List Byte) :
    KeepsOut F s (execFlowContextWrite f init off bytes t) := by
  unfold execFlowContextWrite
  with_reducible repeat' first
     | apply KeepsOut.next | exact Keeps.refl _ | assumption | apply KeepsOut.ite | apply Keeps.ite | apply State.flowWrite_keeps

theorem State.shadowWrite_keeps {F : List Fld} {s t : State} (f_regs : Fld.regs ∈ F) (f_mem : Fld.mem ∈ F) (f_gw : Fld.gw ∈ F)
    (h : Keeps F s t) (init : Nat) (off : Nat) (bytes : List Byte) :
    Keeps F s (State.shadowWrite t init off bytes) := by
  unfold State.shadowWrite
  with_reducible repeat' first
     | exact Keeps.refl _ | assumption | apply Keeps.ite | apply State.gwRefuse_keeps | apply State.raise_keeps
     | apply State.setF_keeps | apply State.wrBytes_keeps
     | (extract_lets +onlyGivenNames x; first | (refine Keeps.cut F s x ?_ (fun hx => ?_); rotate_left 1; clear_value x; rotate_left 1; unfold x) | clear_value x)
     | split | dsimp only | apply Keeps.upd_gw

theorem State.wrRegBytes_keeps {F : List Fld} {s t : State} (f_regs : Fld.regs ∈ F) (h : Keeps F s t) (a : Nat)
    (l : List Byte) : Keeps F s (t.wrRegBytes a l) := by
  induction l generalizing t a with
  | nil => exact h
  | cons b l ih => exact ih (State.setF_keeps f_regs h _ _) _

theorem State.shadowStashWrite_keeps {F : List Fld} {s t : State} (f_regs : Fld.regs ∈ F) (h : Keeps F s t) (init : Nat)
    (off : Nat) (bytes : List Byte) :
    Keeps F s (State.shadowStashWrite t init off bytes) := by
  unfold State.shadowStashWrite
  with_reducible repeat' first
     | exact Keeps.refl _ | assumption | apply Keeps.ite | apply State.gwRefuse_keeps | apply State.wrRegBytes_keeps

theorem State.shadowAny_keeps {F : List Fld} {s t : State} (f_regs : Fld.regs ∈ F) (f_mem : Fld.mem ∈ F) (f_gw : Fld.gw ∈ F)
    (h : Keeps F s t) (init : Nat) (stash : Bool) (off : Nat) (bytes : List Byte) :
    Keeps F s (State.shadowAny t init stash off bytes) := by
  unfold State.shadowAny
  with_reducible repeat' first
     | exact Keeps.refl _ | assumption | apply Keeps.ite | apply State.shadowStashWrite_keeps | apply State.shadowWrite_keeps

theorem State.gwHold_keeps {F : List Fld} {s t : State} (f_gw : Fld.gw ∈ F) (h : Keeps F s t) (h' : GwHeld) :
    Keeps F s (State.gwHold t h') := by
  unfold State.gwHold
  with_reducible repeat' first
     | exact Keeps.refl _ | assumption | (extract_lets +onlyGivenNames x; clear_value x) | apply Keeps.upd_gw

theorem execGwShadowWrite_keeps {F : List Fld} {s t : State} (f_regs : Fld.regs ∈ F) (f_mem : Fld.mem ∈ F) (f_gw : Fld.gw ∈ F)
    (h : Keeps F s t) (init : Byte) (stash : Bool) (off : BitVec 19) (bytes : List Byte) :
    KeepsOut F s (execGwShadowWrite init stash off bytes t) := by
  unfold execGwShadowWrite
  with_reducible repeat' first
     | apply KeepsOut.next | exact Keeps.refl _ | assumption | apply KeepsOut.ite | apply Keeps.ite | apply State.gwHold_keeps
     | apply State.shadowAny_keeps

theorem State.stashCopy_keeps {F : List Fld} {s t : State} (f_regs : Fld.regs ∈ F) (h : Keeps F s t) (src : Nat) (dst : Nat) :
    Keeps F s (State.stashCopy t src dst) := by
  unfold State.stashCopy
  with_reducible repeat' first
     | exact Keeps.refl _ | assumption | apply State.setReg_keeps | apply Keeps.foldl | intro x hx | intro y

theorem State.gwSwap_keeps {F : List Fld} {s t : State} (f_regs : Fld.regs ∈ F) (f_mem : Fld.mem ∈ F)
    (f_islands : Fld.islands ∈ F) (f_offers : Fld.offers ∈ F) (f_gw : Fld.gw ∈ F) (h : Keeps F s t)  :
    Keeps F s (State.gwSwap t) := by
  unfold State.gwSwap
  with_reducible repeat' first
     | exact Keeps.refl _ | assumption | apply Keeps.ite | apply Keeps.ite2 | apply State.gwHold_keeps | apply State.incMod_keeps
     | apply State.setF_keeps | apply State.stampGw_keeps | apply State.stashCopy_keeps | apply State.unitCue_keeps
     | apply State.wrBytes_keeps | apply Keeps.foldl | apply Keeps.foldl2 | apply Keeps.foldl1 | apply hf | intro x hx | intro y
     | (extract_lets +onlyGivenNames x; clear_value x) | split | dsimp only | apply Keeps.upd_gw

theorem execGwSwap_keeps {F : List Fld} {s t : State} (f_regs : Fld.regs ∈ F) (f_mem : Fld.mem ∈ F)
    (f_islands : Fld.islands ∈ F) (f_offers : Fld.offers ∈ F) (f_gw : Fld.gw ∈ F) (h : Keeps F s t)  :
    KeepsOut F s (execGwSwap t) := by
  unfold execGwSwap
  with_reducible repeat' first
     | apply KeepsOut.next | exact Keeps.refl _ | assumption | apply KeepsOut.ite | apply Keeps.ite | apply State.gwSwap_keeps

theorem State.gwDiscard_keeps {F : List Fld} {s t : State} (f_regs : Fld.regs ∈ F) (f_gw : Fld.gw ∈ F) (h : Keeps F s t)  :
    Keeps F s (State.gwDiscard t) := by
  unfold State.gwDiscard
  with_reducible repeat' first
     | exact Keeps.refl _ | assumption | apply State.setF_keeps | apply State.stashCopy_keeps
     | (extract_lets +onlyGivenNames x; clear_value x) | apply Keeps.upd_gw

theorem execGwDiscard_keeps {F : List Fld} {s t : State} (f_regs : Fld.regs ∈ F) (f_gw : Fld.gw ∈ F) (h : Keeps F s t)  :
    KeepsOut F s (execGwDiscard t) := by
  unfold execGwDiscard
  with_reducible repeat' first
     | apply KeepsOut.next | exact Keeps.refl _ | assumption | apply KeepsOut.ite | apply Keeps.ite | apply State.gwDiscard_keeps

theorem State.heldRun_keeps {F : List Fld} {s t : State} (f_regs : Fld.regs ∈ F) (f_mem : Fld.mem ∈ F)
    (f_islands : Fld.islands ∈ F) (f_offers : Fld.offers ∈ F) (f_gw : Fld.gw ∈ F) (l : List GwHeld)
    (h : Keeps F s t) : Keeps F s (State.heldRun l t) := by
  induction l generalizing t with
  | nil => exact h
  | cons x l ih =>
    unfold State.heldRun
    refine Keeps.ite (Keeps.upd_gw f_gw h) ?_
    split
    · exact ih (State.shadowAny_keeps f_regs f_mem f_gw h _ _ _ _)
    · exact ih (State.gwSwap_keeps f_regs f_mem f_islands f_offers f_gw h)

theorem execGwCopybackDone_keeps {F : List Fld} {s t : State} (f_regs : Fld.regs ∈ F) (f_mem : Fld.mem ∈ F)
    (f_islands : Fld.islands ∈ F) (f_offers : Fld.offers ∈ F) (f_gw : Fld.gw ∈ F) (h : Keeps F s t)  :
    KeepsOut F s (execGwCopybackDone t) := by
  unfold execGwCopybackDone
  with_reducible repeat' first
     | apply KeepsOut.next | exact Keeps.refl _ | assumption | apply KeepsOut.ite | apply Keeps.ite | apply Keeps.ite2
     | apply State.heldRun_keeps | apply State.setF_keeps | intro x hx | intro y | (extract_lets +onlyGivenNames x; clear_value x)
     | split | dsimp only | apply Keeps.upd_gw

theorem execAcfBatchTimeout_keeps {F : List Fld} {s t : State} (f_eth : Fld.eth ∈ F) (h : Keeps F s t) (p : Fin 3) :
    KeepsOut F s (execAcfBatchTimeout p t) := by
  unfold execAcfBatchTimeout
  with_reducible repeat' first
     | apply KeepsOut.next | exact Keeps.refl _ | assumption | apply KeepsOut.ite | apply Keeps.ite | apply State.pduClose_keeps
     | split

theorem State.acfSplit_keeps {F : List Fld} {s t : State} (f_regs : Fld.regs ∈ F) (f_gw : Fld.gw ∈ F) (h : Keeps F s t)
    (p n : Nat) (l : List Byte) : Keeps F s (t.acfSplit p n l) := by
  induction n generalizing t l with
  | zero => unfold State.acfSplit; exact h
  | succ n ih =>
    unfold State.acfSplit
    refine Keeps.ite h ?_
    extract_lets len u
    refine Keeps.ite (State.raise_keeps f_regs h _ _) (ih ?_ _)
    unfold u
    split
    · exact State.gwArrive_keeps f_gw h _
    · exact State.raise_keeps f_regs h _ _

theorem execAcfPduReceive_keeps {F : List Fld} {s t : State} (f_regs : Fld.regs ∈ F) (f_gw : Fld.gw ∈ F) (f_eth : Fld.eth ∈ F)
    (h : Keeps F s t)  :
    KeepsOut F s (execAcfPduReceive t) := by
  unfold execAcfPduReceive
  with_reducible repeat' first
     | apply KeepsOut.next | exact Keeps.refl _ | assumption | apply KeepsOut.ite | apply Keeps.ite | apply State.acfSplit_keeps
     | apply hf | intro x hx | intro y
     | (extract_lets +onlyGivenNames x; first | (refine Keeps.cut F s x ?_ (fun hx => ?_); rotate_left 1; clear_value x; rotate_left 1; unfold x) | clear_value x)
     | split | dsimp only | apply Keeps.upd_eth

theorem State.injWrite_keeps {F : List Fld} {s t : State} (f_gw : Fld.gw ∈ F) (h : Keeps F s t) (init : Nat) (off : Nat)
    (bytes : List Byte) :
    Keeps F s (State.injWrite t init off bytes) := by
  unfold State.injWrite
  with_reducible repeat' first
     | exact Keeps.refl _ | assumption | apply hf | intro x hx | intro y | (extract_lets +onlyGivenNames x; clear_value x)
     | apply Keeps.upd_gw

theorem State.inject_keeps {F : List Fld} {s t : State} (f_regs : Fld.regs ∈ F) (f_gw : Fld.gw ∈ F) (h : Keeps F s t)
    (init : Nat) :
    Keeps F s (State.inject t init) := by
  unfold State.inject
  with_reducible repeat' first
     | exact Keeps.refl _ | assumption | apply Keeps.ite | apply Keeps.ite2 | apply State.gwArrive_keeps
     | apply State.gwRefuse_keeps

theorem execGwInject_keeps {F : List Fld} {s t : State} (f_regs : Fld.regs ∈ F) (f_gw : Fld.gw ∈ F) (h : Keeps F s t)
    (init : Byte) :
    KeepsOut F s (execGwInject init t) := by
  unfold execGwInject
  with_reducible repeat' first
     | apply KeepsOut.next | exact Keeps.refl _ | assumption | apply KeepsOut.ite | apply Keeps.ite | apply State.inject_keeps

theorem State.reroute_keeps {F : List Fld} {s t : State} (f_regs : Fld.regs ∈ F) (f_mem : Fld.mem ∈ F)
    (f_islands : Fld.islands ∈ F) (f_offers : Fld.offers ∈ F) (f_trx : Fld.trx ∈ F) (f_cans : Fld.cans ∈ F)
    (f_lins : Fld.lins ∈ F) (f_nm : Fld.nm ∈ F) (f_gw : Fld.gw ∈ F) (f_eth : Fld.eth ∈ F) (f_pwr : Fld.pwr ∈ F)
    (f_trk : Fld.trk ∈ F) (h : Keeps F s t) (n : Nat) (k : Nat) :
    Keeps F s (State.reroute t n k) := by
  unfold State.reroute
  with_reducible repeat' first
     | exact Keeps.refl _ | assumption | apply Keeps.ite | apply Keeps.ite2 | apply State.canEvent_keeps
     | apply State.gwDrop_keeps | apply State.raise_keeps | apply State.routePort_keeps | apply State.stamp_keeps
     | apply Keeps.id_ | (extract_lets +onlyGivenNames x; clear_value x) | split | dsimp only

end Sys2Proof.Machine
end

