-- ==== Sys2Proof/Laws/KeepsCan.lean ====
section
/-! SUPPORT. What the operations and meanings of Machine/Can.lean keep. -/

namespace Sys2Proof.Machine

theorem State.canRefuse_keeps {F : List Fld} {s t : State} (f_regs : Fld.regs ∈ F) (h : Keeps F s t) (n : Nat) (init : Nat)
    (reason : Nat) :
    Keeps F s (State.canRefuse t n init reason) := by
  unfold State.canRefuse
  with_reducible repeat' first
     | exact Keeps.refl _ | assumption | apply State.incSat_keeps | apply State.setF_keeps

theorem State.canCtl_keeps {F : List Fld} {s t : State} (f_regs : Fld.regs ∈ F) (h : Keeps F s t) (n : Nat) (init : Nat)
    (f : State → State) (h_f : ∀ y0 : State, Keeps F s y0 →  Keeps F s (f y0)) :
    Keeps F s (State.canCtl t n init f) := by
  unfold State.canCtl
  with_reducible repeat' first
     | exact Keeps.refl _ | assumption | apply Keeps.ite | apply State.canRefuse_keeps | apply h_f

theorem State.canRecover_keeps {F : List Fld} {s t : State} (f_regs : Fld.regs ∈ F) (h : Keeps F s t) (n : Nat) :
    Keeps F s (State.canRecover t n) := by
  unfold State.canRecover
  with_reducible repeat' first
     | exact Keeps.refl _ | assumption | apply Keeps.ite | apply State.setF_keeps

theorem execCanModeOff_keeps {F : List Fld} {s t : State} (f_regs : Fld.regs ∈ F) (f_cans : Fld.cans ∈ F) (h : Keeps F s t)
    (n : Fin 8) (init : Byte) :
    KeepsOut F s (execCanModeOff n init t) := by
  unfold execCanModeOff
  with_reducible repeat' first
     | apply KeepsOut.next | exact Keeps.refl _ | assumption | apply State.canCtl_keeps | apply State.canMode_keeps | intro x hx

theorem execCanModeNormal_keeps {F : List Fld} {s t : State} (f_regs : Fld.regs ∈ F) (f_cans : Fld.cans ∈ F) (h : Keeps F s t)
    (n : Fin 8) (init : Byte) :
    KeepsOut F s (execCanModeNormal n init t) := by
  unfold execCanModeNormal
  with_reducible repeat' first
     | apply KeepsOut.next | exact Keeps.refl _ | assumption | apply State.canCtl_keeps | apply State.canMode_keeps | intro x hx

theorem execCanModeListen_keeps {F : List Fld} {s t : State} (f_regs : Fld.regs ∈ F) (f_cans : Fld.cans ∈ F) (h : Keeps F s t)
    (n : Fin 8) (init : Byte) :
    KeepsOut F s (execCanModeListen n init t) := by
  unfold execCanModeListen
  with_reducible repeat' first
     | apply KeepsOut.next | exact Keeps.refl _ | assumption | apply State.canCtl_keeps | apply State.canMode_keeps | intro x hx

theorem execCanRecover_keeps {F : List Fld} {s t : State} (f_regs : Fld.regs ∈ F) (h : Keeps F s t) (n : Fin 8) (init : Byte) :
    KeepsOut F s (execCanRecover n init t) := by
  unfold execCanRecover
  with_reducible repeat' first
     | apply KeepsOut.next | exact Keeps.refl _ | assumption | apply State.canCtl_keeps | apply State.canRecover_keeps
     | intro x hx

theorem State.cePut_keeps {F : List Fld} {s t : State} (f_mem : Fld.mem ∈ F) (h : Keeps F s t) (n k : Nat) (l : List
    (Nat × Byte)) : Keeps F s (t.cePut n k l) := by
  induction l generalizing t with
  | nil => exact h
  | cons b l ih => exact ih (State.wr8_keeps f_mem h _ _)

theorem State.canCancel_keeps {F : List Fld} {s t : State} (f_mem : Fld.mem ∈ F) (f_cans : Fld.cans ∈ F) (h : Keeps F s t)
    (n : Nat) (k : Nat) :
    Keeps F s (State.canCancel t n k) := by
  unfold State.canCancel
  with_reducible repeat' first
     | exact Keeps.refl _ | assumption | apply Keeps.ite | apply State.setCan_keeps | apply State.setMf_keeps

theorem State.canHandover_keeps {F : List Fld} {s t : State} (f_regs : Fld.regs ∈ F) (f_mem : Fld.mem ∈ F)
    (f_islands : Fld.islands ∈ F) (f_offers : Fld.offers ∈ F) (f_trx : Fld.trx ∈ F) (f_cans : Fld.cans ∈ F)
    (f_lins : Fld.lins ∈ F) (f_nm : Fld.nm ∈ F) (f_gw : Fld.gw ∈ F) (f_eth : Fld.eth ∈ F) (f_pwr : Fld.pwr ∈ F)
    (f_trk : Fld.trk ∈ F) (h : Keeps F s t) (n : Nat) (k : Nat) :
    Keeps F s (State.canHandover t n k) := by
  unfold State.canHandover
  with_reducible repeat' first
     | exact Keeps.refl _ | assumption | apply Keeps.ite | apply State.localWake_keeps | apply State.reroute_keeps
     | apply State.setMf_keeps

theorem State.canWrite_keeps {F : List Fld} {s t : State} (f_regs : Fld.regs ∈ F) (f_mem : Fld.mem ∈ F)
    (f_islands : Fld.islands ∈ F) (f_offers : Fld.offers ∈ F) (f_trx : Fld.trx ∈ F) (f_cans : Fld.cans ∈ F)
    (f_lins : Fld.lins ∈ F) (f_nm : Fld.nm ∈ F) (f_gw : Fld.gw ∈ F) (f_eth : Fld.eth ∈ F) (f_pwr : Fld.pwr ∈ F)
    (f_trk : Fld.trk ∈ F) (h : Keeps F s t) (n : Nat) (k : Nat) (init : Nat) (bs : List (Nat × Byte)) :
    Keeps F s (State.canWrite t n k init bs) := by
  unfold State.canWrite
  with_reducible repeat' first
     | exact Keeps.refl _ | assumption | apply Keeps.ite | apply State.canCancel_keeps | apply State.canHandover_keeps
     | apply State.canRefuse_keeps | apply State.cePut_keeps | apply State.setMf_keeps
     | (extract_lets +onlyGivenNames x; refine Keeps.cut F s x ?_ (fun hx => ?_); rotate_left 1; clear_value x; rotate_left 1; unfold x)
     | split

theorem execCanEntryHandover_keeps {F : List Fld} {s t : State} (f_regs : Fld.regs ∈ F) (f_mem : Fld.mem ∈ F)
    (f_islands : Fld.islands ∈ F) (f_offers : Fld.offers ∈ F) (f_trx : Fld.trx ∈ F) (f_cans : Fld.cans ∈ F)
    (f_lins : Fld.lins ∈ F) (f_nm : Fld.nm ∈ F) (f_gw : Fld.gw ∈ F) (f_eth : Fld.eth ∈ F) (f_pwr : Fld.pwr ∈ F)
    (f_trk : Fld.trk ∈ F) (h : Keeps F s t) (n : Fin 8) (k : Fin 32) (init : Byte) :
    KeepsOut F s (execCanEntryHandover n k init t) := by
  unfold execCanEntryHandover
  with_reducible repeat' first
     | apply KeepsOut.next | exact Keeps.refl _ | assumption | apply KeepsOut.ite | apply Keeps.ite | apply State.canWrite_keeps

theorem execCanEntryEmpty_keeps {F : List Fld} {s t : State} (f_regs : Fld.regs ∈ F) (f_mem : Fld.mem ∈ F)
    (f_islands : Fld.islands ∈ F) (f_offers : Fld.offers ∈ F) (f_trx : Fld.trx ∈ F) (f_cans : Fld.cans ∈ F)
    (f_lins : Fld.lins ∈ F) (f_nm : Fld.nm ∈ F) (f_gw : Fld.gw ∈ F) (f_eth : Fld.eth ∈ F) (f_pwr : Fld.pwr ∈ F)
    (f_trk : Fld.trk ∈ F) (h : Keeps F s t) (n : Fin 8) (k : Fin 32) (init : Byte) :
    KeepsOut F s (execCanEntryEmpty n k init t) := by
  unfold execCanEntryEmpty
  with_reducible repeat' first
     | apply KeepsOut.next | exact Keeps.refl _ | assumption | apply KeepsOut.ite | apply Keeps.ite | apply State.canWrite_keeps

theorem execCanEntryCancel_keeps {F : List Fld} {s t : State} (f_regs : Fld.regs ∈ F) (f_mem : Fld.mem ∈ F)
    (f_islands : Fld.islands ∈ F) (f_offers : Fld.offers ∈ F) (f_trx : Fld.trx ∈ F) (f_cans : Fld.cans ∈ F)
    (f_lins : Fld.lins ∈ F) (f_nm : Fld.nm ∈ F) (f_gw : Fld.gw ∈ F) (f_eth : Fld.eth ∈ F) (f_pwr : Fld.pwr ∈ F)
    (f_trk : Fld.trk ∈ F) (h : Keeps F s t) (n : Fin 8) (k : Fin 32) (init : Byte) :
    KeepsOut F s (execCanEntryCancel n k init t) := by
  unfold execCanEntryCancel
  with_reducible repeat' first
     | apply KeepsOut.next | exact Keeps.refl _ | assumption | apply KeepsOut.ite | apply Keeps.ite | apply State.canWrite_keeps

theorem State.tdcMeasure_keeps {F : List Fld} {s t : State} (f_regs : Fld.regs ∈ F) (f_islands : Fld.islands ∈ F)
    (f_offers : Fld.offers ∈ F) (h : Keeps F s t) (n : Nat) (tdcv : Nat) :
    Keeps F s (State.tdcMeasure t n tdcv) := by
  unfold State.tdcMeasure
  with_reducible repeat' first
     | exact Keeps.refl _ | assumption | apply Keeps.ite | apply State.canEvent_keeps | apply State.raise_keeps
     | apply State.setF_keeps

theorem execCanTxStart_keeps {F : List Fld} {s t : State} (f_regs : Fld.regs ∈ F) (f_mem : Fld.mem ∈ F)
    (f_islands : Fld.islands ∈ F) (f_offers : Fld.offers ∈ F) (f_trx : Fld.trx ∈ F) (f_cans : Fld.cans ∈ F) (h : Keeps F s t)
    (n : Fin 8) (tdcv : BitVec 12) :
    KeepsOut F s (execCanTxStart n tdcv t) := by
  unfold execCanTxStart
  with_reducible repeat' first
     | apply KeepsOut.next | exact Keeps.refl _ | assumption | apply KeepsOut.ite | apply Keeps.ite | apply Keeps.ite2
     | apply State.setCan_keeps | apply State.setMf_keeps | apply State.setTrxOf_keeps | apply State.tdcMeasure_keeps
     | (extract_lets +onlyGivenNames x; first | (refine Keeps.cut F s x ?_ (fun hx => ?_); rotate_left 1; clear_value x; rotate_left 1; unfold x) | clear_value x)
     | split

theorem State.busOff_keeps {F : List Fld} {s t : State} (f_regs : Fld.regs ∈ F) (f_mem : Fld.mem ∈ F)
    (f_islands : Fld.islands ∈ F) (f_offers : Fld.offers ∈ F) (f_trx : Fld.trx ∈ F) (f_cans : Fld.cans ∈ F)
    (f_lins : Fld.lins ∈ F) (f_nm : Fld.nm ∈ F) (f_gw : Fld.gw ∈ F) (f_eth : Fld.eth ∈ F) (f_pwr : Fld.pwr ∈ F)
    (f_trk : Fld.trk ∈ F) (h : Keeps F s t) (n : Nat) :
    Keeps F s (State.busOff t n) := by
  unfold State.busOff
  with_reducible repeat' first
     | exact Keeps.refl _ | assumption | apply Keeps.ite | apply Keeps.ite2 | apply State.canEvent_keeps
     | apply State.canSettle_keeps | apply State.incSat_keeps | apply State.raise_keeps | apply State.reroute_keeps
     | apply State.setCan_keeps | apply State.setF_keeps | apply State.setMf_keeps | apply Keeps.foldl | apply Keeps.foldl2
     | apply Keeps.foldl1 | apply hf | intro x hx | intro y | (extract_lets +onlyGivenNames x; clear_value x) | split

theorem State.canEstate_keeps {F : List Fld} {s t : State} (f_regs : Fld.regs ∈ F) (f_mem : Fld.mem ∈ F)
    (f_islands : Fld.islands ∈ F) (f_offers : Fld.offers ∈ F) (f_trx : Fld.trx ∈ F) (f_cans : Fld.cans ∈ F)
    (f_lins : Fld.lins ∈ F) (f_nm : Fld.nm ∈ F) (f_gw : Fld.gw ∈ F) (f_eth : Fld.eth ∈ F) (f_pwr : Fld.pwr ∈ F)
    (f_trk : Fld.trk ∈ F) (h : Keeps F s t) (n : Nat) :
    Keeps F s (State.canEstate t n) := by
  unfold State.canEstate
  with_reducible repeat' first
     | exact Keeps.refl _ | assumption | apply Keeps.ite | apply State.busOff_keeps | apply State.canEvent_keeps
     | apply State.raise_keeps | apply State.setF_keeps

theorem execCanTxSuccess_keeps {F : List Fld} {s t : State} (f_regs : Fld.regs ∈ F) (f_mem : Fld.mem ∈ F)
    (f_islands : Fld.islands ∈ F) (f_offers : Fld.offers ∈ F) (f_trx : Fld.trx ∈ F) (f_cans : Fld.cans ∈ F)
    (f_lins : Fld.lins ∈ F) (f_nm : Fld.nm ∈ F) (f_gw : Fld.gw ∈ F) (f_eth : Fld.eth ∈ F) (f_pwr : Fld.pwr ∈ F)
    (f_trk : Fld.trk ∈ F) (h : Keeps F s t) (n : Fin 8) :
    KeepsOut F s (execCanTxSuccess n t) := by
  unfold execCanTxSuccess
  with_reducible repeat' first
     | apply KeepsOut.next | exact Keeps.refl _ | assumption | apply KeepsOut.ite | apply Keeps.ite | apply Keeps.ite2
     | apply State.canCue_keeps | apply State.canEstate_keeps | apply State.canSettle_keeps | apply State.incMod_keeps
     | apply State.nmSent_keeps | apply State.setCan_keeps | apply State.setF_keeps | apply State.setMf_keeps
     | apply State.wrN_keeps
     | (extract_lets +onlyGivenNames x; first | (refine Keeps.cut F s x ?_ (fun hx => ?_); rotate_left 1; clear_value x; rotate_left 1; unfold x) | clear_value x)
     | split

theorem execCanArbLost_keeps {F : List Fld} {s t : State} (f_mem : Fld.mem ∈ F) (f_cans : Fld.cans ∈ F) (h : Keeps F s t)
    (n : Fin 8) :
    KeepsOut F s (execCanArbLost n t) := by
  unfold execCanArbLost
  with_reducible repeat' first
     | apply KeepsOut.next | exact Keeps.refl _ | assumption | apply KeepsOut.ite | apply Keeps.ite | apply Keeps.ite2
     | apply State.canSettle_keeps | apply State.setCan_keeps | apply State.setMf_keeps
     | (extract_lets +onlyGivenNames x; first | (refine Keeps.cut F s x ?_ (fun hx => ?_); rotate_left 1; clear_value x; rotate_left 1; unfold x) | clear_value x)
     | split

theorem State.canTwin_keeps {F : List Fld} {s t : State} (f_regs : Fld.regs ∈ F) (f_mem : Fld.mem ∈ F)
    (f_islands : Fld.islands ∈ F) (f_offers : Fld.offers ∈ F) (h : Keeps F s t) (n : Nat) (k : Nat) (cancel : Bool) :
    Keeps F s (State.canTwin t n k cancel) := by
  unfold State.canTwin
  with_reducible repeat' first
     | exact Keeps.refl _ | assumption | apply Keeps.ite | apply State.canCue_keeps | apply State.canEvent_keeps
     | apply State.incSat_keeps | apply State.raise_keeps | apply State.setMf_keeps | apply State.stampCan_keeps

theorem State.canErr_keeps {F : List Fld} {s t : State} (f_regs : Fld.regs ∈ F) (h : Keeps F s t) (n : Nat) (lec : Nat)
    (field : Nat) (dataPhase : Bool) :
    Keeps F s (State.canErr t n lec field dataPhase) := by
  unfold State.canErr
  with_reducible repeat' first
     | exact Keeps.refl _ | assumption | apply State.incSat_keeps | apply State.setF_keeps

theorem State.attemptFails_keeps {F : List Fld} {s t : State} (f_regs : Fld.regs ∈ F) (f_mem : Fld.mem ∈ F)
    (f_islands : Fld.islands ∈ F) (f_offers : Fld.offers ∈ F) (f_cans : Fld.cans ∈ F) (h : Keeps F s t) (n : Nat) (lec : Nat)
    (field : Nat) :
    Keeps F s (State.attemptFails t n lec field) := by
  unfold State.attemptFails
  with_reducible repeat' first
     | exact Keeps.refl _ | assumption | apply Keeps.ite | apply Keeps.ite2 | apply State.canTwin_keeps
     | apply State.evidence_keeps | apply State.setCan_keeps | apply State.setMf_keeps
     | (extract_lets +onlyGivenNames x; first | (refine Keeps.cut F s x ?_ (fun hx => ?_); rotate_left 1; clear_value x; rotate_left 1; unfold x) | clear_value x)
     | split

theorem execCanTxError_keeps {F : List Fld} {s t : State} (f_regs : Fld.regs ∈ F) (f_mem : Fld.mem ∈ F)
    (f_islands : Fld.islands ∈ F) (f_offers : Fld.offers ∈ F) (f_trx : Fld.trx ∈ F) (f_cans : Fld.cans ∈ F)
    (f_lins : Fld.lins ∈ F) (f_nm : Fld.nm ∈ F) (f_gw : Fld.gw ∈ F) (f_eth : Fld.eth ∈ F) (f_pwr : Fld.pwr ∈ F)
    (f_trk : Fld.trk ∈ F) (h : Keeps F s t) (n : Fin 8) (lec : Fin 8) (field : Fin 8) (dataPhase : Bool) (what : Fin 4) :
    KeepsOut F s (execCanTxError n lec field dataPhase what t) := by
  unfold execCanTxError
  with_reducible repeat' first
     | apply KeepsOut.next | exact Keeps.refl _ | assumption | apply KeepsOut.ite | apply Keeps.ite | apply State.addSat_keeps
     | apply State.attemptFails_keeps | apply State.canErr_keeps | apply State.canEstate_keeps | apply State.canSettle_keeps

theorem execTwinBackoffExpire_keeps {F : List Fld} {s t : State} (f_mem : Fld.mem ∈ F) (h : Keeps F s t) (n : Fin 8)
    (k : Fin 32) :
    KeepsOut F s (execTwinBackoffExpire n k t) := by
  unfold execTwinBackoffExpire
  with_reducible repeat' first
     | apply KeepsOut.next | exact Keeps.refl _ | assumption | apply KeepsOut.ite | apply Keeps.ite | apply State.setMf_keeps

theorem execBusoffHoldoffExpire_keeps {F : List Fld} {s t : State} (f_regs : Fld.regs ∈ F) (h : Keeps F s t) (n : Fin 8) :
    KeepsOut F s (execBusoffHoldoffExpire n t) := by
  unfold execBusoffHoldoffExpire
  with_reducible repeat' first
     | apply KeepsOut.next | exact Keeps.refl _ | assumption | apply KeepsOut.ite | apply Keeps.ite | apply State.setF_keeps

theorem execBusoffRecoveryComplete_keeps {F : List Fld} {s t : State} (f_regs : Fld.regs ∈ F) (f_islands : Fld.islands ∈ F)
    (f_offers : Fld.offers ∈ F) (h : Keeps F s t) (n : Fin 8) :
    KeepsOut F s (execBusoffRecoveryComplete n t) := by
  unfold execBusoffRecoveryComplete
  with_reducible repeat' first
     | apply KeepsOut.next | exact Keeps.refl _ | assumption | apply KeepsOut.ite | apply Keeps.ite | apply State.canEvent_keeps
     | apply State.raise_keeps | apply State.setF_keeps

theorem State.canRxErr_keeps {F : List Fld} {s t : State} (f_regs : Fld.regs ∈ F) (f_mem : Fld.mem ∈ F)
    (f_islands : Fld.islands ∈ F) (f_offers : Fld.offers ∈ F) (f_trx : Fld.trx ∈ F) (f_cans : Fld.cans ∈ F)
    (f_lins : Fld.lins ∈ F) (f_nm : Fld.nm ∈ F) (f_gw : Fld.gw ∈ F) (f_eth : Fld.eth ∈ F) (f_pwr : Fld.pwr ∈ F)
    (f_trk : Fld.trk ∈ F) (h : Keeps F s t) (n : Nat) (lec : Nat) (field : Nat) (dataPhase : Bool) (what : Nat) :
    Keeps F s (State.canRxErr t n lec field dataPhase what) := by
  unfold State.canRxErr
  with_reducible repeat' first
     | exact Keeps.refl _ | assumption | apply Keeps.ite | apply State.addSat_keeps | apply State.canErr_keeps
     | apply State.canEstate_keeps

theorem State.canHandOn_keeps {F : List Fld} {s t : State} (f_regs : Fld.regs ∈ F) (f_islands : Fld.islands ∈ F)
    (f_offers : Fld.offers ∈ F) (f_gw : Fld.gw ∈ F) (h : Keeps F s t) (n : Nat) (f : CanFrame) :
    Keeps F s (State.canHandOn t n f) := by
  unfold State.canHandOn
  with_reducible repeat' first
     | exact Keeps.refl _ | assumption | apply Keeps.ite | apply State.canEvent_keeps | apply State.gwArrive_keeps
     | apply State.incMod_keeps | apply State.raise_keeps

theorem execCanFrameReceived_keeps {F : List Fld} {s t : State} (f_regs : Fld.regs ∈ F) (f_mem : Fld.mem ∈ F)
    (f_islands : Fld.islands ∈ F) (f_offers : Fld.offers ∈ F) (f_trx : Fld.trx ∈ F) (f_cans : Fld.cans ∈ F)
    (f_lins : Fld.lins ∈ F) (f_nm : Fld.nm ∈ F) (f_gw : Fld.gw ∈ F) (f_eth : Fld.eth ∈ F) (f_pwr : Fld.pwr ∈ F)
    (f_trk : Fld.trk ∈ F) (h : Keeps F s t) (n : Fin 8) (f : CanFrame) :
    KeepsOut F s (execCanFrameReceived n f t) := by
  unfold execCanFrameReceived
  with_reducible repeat' first
     | apply KeepsOut.next | exact Keeps.refl _ | assumption | apply KeepsOut.ite | apply Keeps.ite | apply State.canEstate_keeps
     | apply State.canHandOn_keeps | apply State.canRxErr_keeps | apply State.nmTraffic_keeps | apply State.setF_keeps

theorem execCanRxError_keeps {F : List Fld} {s t : State} (f_regs : Fld.regs ∈ F) (f_mem : Fld.mem ∈ F)
    (f_islands : Fld.islands ∈ F) (f_offers : Fld.offers ∈ F) (f_trx : Fld.trx ∈ F) (f_cans : Fld.cans ∈ F)
    (f_lins : Fld.lins ∈ F) (f_nm : Fld.nm ∈ F) (f_gw : Fld.gw ∈ F) (f_eth : Fld.eth ∈ F) (f_pwr : Fld.pwr ∈ F)
    (f_trk : Fld.trk ∈ F) (h : Keeps F s t) (n : Fin 8) (lec : Fin 8) (field : Fin 8) (dataPhase : Bool) (what : Fin 4) :
    KeepsOut F s (execCanRxError n lec field dataPhase what t) := by
  unfold execCanRxError
  with_reducible repeat' first
     | apply KeepsOut.next | exact Keeps.refl _ | assumption | apply KeepsOut.ite | apply Keeps.ite | apply State.canRxErr_keeps

theorem execTrxReqNormal_keeps {F : List Fld} {s t : State} (f_regs : Fld.regs ∈ F) (f_trx : Fld.trx ∈ F) (f_pwr : Fld.pwr ∈ F)
    (h : Keeps F s t) (n : Fin 8) (init : Byte) :
    KeepsOut F s (execTrxReqNormal n init t) := by
  unfold execTrxReqNormal
  with_reducible repeat' first
     | apply KeepsOut.next | exact Keeps.refl _ | assumption | apply State.canCtl_keeps | apply State.trxReq_keeps | intro x hx

theorem execTrxReqListen_keeps {F : List Fld} {s t : State} (f_regs : Fld.regs ∈ F) (f_trx : Fld.trx ∈ F) (f_pwr : Fld.pwr ∈ F)
    (h : Keeps F s t) (n : Fin 8) (init : Byte) :
    KeepsOut F s (execTrxReqListen n init t) := by
  unfold execTrxReqListen
  with_reducible repeat' first
     | apply KeepsOut.next | exact Keeps.refl _ | assumption | apply State.canCtl_keeps | apply State.trxReq_keeps | intro x hx

theorem execTrxReqStandby_keeps {F : List Fld} {s t : State} (f_regs : Fld.regs ∈ F) (f_trx : Fld.trx ∈ F) (f_pwr : Fld.pwr ∈ F)
    (h : Keeps F s t) (n : Fin 8) (init : Byte) :
    KeepsOut F s (execTrxReqStandby n init t) := by
  unfold execTrxReqStandby
  with_reducible repeat' first
     | apply KeepsOut.next | exact Keeps.refl _ | assumption | apply State.canCtl_keeps | apply State.trxReq_keeps | intro x hx

theorem execTrxReqSleep_keeps {F : List Fld} {s t : State} (f_regs : Fld.regs ∈ F) (f_trx : Fld.trx ∈ F) (f_pwr : Fld.pwr ∈ F)
    (h : Keeps F s t) (n : Fin 8) (init : Byte) :
    KeepsOut F s (execTrxReqSleep n init t) := by
  unfold execTrxReqSleep
  with_reducible repeat' first
     | apply KeepsOut.next | exact Keeps.refl _ | assumption | apply State.canCtl_keeps | apply State.trxReq_keeps | intro x hx

theorem execTrxSleepTimer_keeps {F : List Fld} {s t : State} (f_regs : Fld.regs ∈ F) (f_islands : Fld.islands ∈ F)
    (f_offers : Fld.offers ∈ F) (f_trx : Fld.trx ∈ F) (f_cans : Fld.cans ∈ F) (f_lins : Fld.lins ∈ F) (f_nm : Fld.nm ∈ F)
    (f_pwr : Fld.pwr ∈ F) (h : Keeps F s t) (t' : Fin 16) :
    KeepsOut F s (execTrxSleepTimer t' t) := by
  unfold execTrxSleepTimer
  with_reducible repeat' first
     | apply KeepsOut.next | exact Keeps.refl _ | assumption | apply KeepsOut.ite | apply Keeps.ite | apply State.nmSlept_keeps
     | apply State.trxSlept_keeps

theorem State.trxToStandby_keeps {F : List Fld} {s t : State} (f_regs : Fld.regs ∈ F) (f_trx : Fld.trx ∈ F)
    (f_pwr : Fld.pwr ∈ F) (h : Keeps F s t) (t' : Nat) :
    Keeps F s (State.trxToStandby t t') := by
  unfold State.trxToStandby
  with_reducible repeat' first
     | exact Keeps.refl _ | assumption | apply State.setTrxOf_keeps | apply State.trxEnter_keeps | apply State.trxGo_keeps
     | (extract_lets +onlyGivenNames x; first | (refine Keeps.cut F s x ?_ (fun hx => ?_); rotate_left 1; clear_value x; rotate_left 1; unfold x) | clear_value x)
     | split

theorem State.stampTrx_keeps {F : List Fld} {s t : State} (f_regs : Fld.regs ∈ F) (f_islands : Fld.islands ∈ F)
    (h : Keeps F s t) (unit : Nat) (event : Nat) (data : Nat) :
    Keeps F s (State.stampTrx t unit event data) := by
  unfold State.stampTrx
  with_reducible repeat' first
     | exact Keeps.refl _ | assumption | apply Keeps.ite | apply State.stamp_keeps

theorem State.canWake_keeps {F : List Fld} {s t : State} (f_regs : Fld.regs ∈ F) (f_islands : Fld.islands ∈ F)
    (f_offers : Fld.offers ∈ F) (f_trx : Fld.trx ∈ F) (f_cans : Fld.cans ∈ F) (f_lins : Fld.lins ∈ F) (f_nm : Fld.nm ∈ F)
    (f_pwr : Fld.pwr ∈ F) (f_trk : Fld.trk ∈ F) (h : Keeps F s t) (n : Nat) (cause : Nat) :
    Keeps F s (State.canWake t n cause) := by
  unfold State.canWake
  with_reducible repeat' first
     | exact Keeps.refl _ | assumption | apply Keeps.ite | apply State.canCue_keeps | apply State.nmBusWake_keeps
     | apply State.raise_keeps | apply State.setF_keeps | apply State.stampTrx_keeps | apply State.trxToStandby_keeps
     | apply State.wakeSource_keeps

theorem execCanBusWake_keeps {F : List Fld} {s t : State} (f_regs : Fld.regs ∈ F) (f_islands : Fld.islands ∈ F)
    (f_offers : Fld.offers ∈ F) (f_trx : Fld.trx ∈ F) (f_cans : Fld.cans ∈ F) (f_lins : Fld.lins ∈ F) (f_nm : Fld.nm ∈ F)
    (f_pwr : Fld.pwr ∈ F) (f_trk : Fld.trk ∈ F) (h : Keeps F s t) (n : Fin 8) (cause : Fin 4) (f : CanFrame) :
    KeepsOut F s (execCanBusWake n cause f t) := by
  unfold execCanBusWake
  with_reducible repeat' first
     | apply KeepsOut.next | exact Keeps.refl _ | assumption | apply KeepsOut.ite | apply Keeps.ite | apply State.canWake_keeps
     | apply State.wakeSource_keeps

theorem execSwDecoderArm_keeps {F : List Fld} {s t : State} (f_trx : Fld.trx ∈ F) (h : Keeps F s t) (n : Fin 4) :
    KeepsOut F s (execSwDecoderArm n t) := by
  unfold execSwDecoderArm
  with_reducible repeat' first
     | apply KeepsOut.next | exact Keeps.refl _ | assumption | apply KeepsOut.ite | apply Keeps.ite | apply State.setTrxOf_keeps

theorem execFecFrameCount_keeps {F : List Fld} {s t : State} (f_regs : Fld.regs ∈ F) (h : Keeps F s t) (n : Fin 4) (err : Bool)
    (fdf : Bool) :
    KeepsOut F s (execFecFrameCount n err fdf t) := by
  unfold execFecFrameCount
  with_reducible repeat' first
     | apply KeepsOut.next | exact Keeps.refl _ | assumption | apply KeepsOut.ite | apply Keeps.ite | apply State.setF_keeps

theorem execSwDecoderDisarm_keeps {F : List Fld} {s t : State} (f_trx : Fld.trx ∈ F) (h : Keeps F s t) (n : Fin 4) :
    KeepsOut F s (execSwDecoderDisarm n t) := by
  unfold execSwDecoderDisarm
  with_reducible repeat' first
     | apply KeepsOut.next | exact Keeps.refl _ | assumption | apply State.setTrxOf_keeps

theorem execCanDomTimeout_keeps {F : List Fld} {s t : State} (f_regs : Fld.regs ∈ F) (f_islands : Fld.islands ∈ F)
    (f_offers : Fld.offers ∈ F) (f_trx : Fld.trx ∈ F) (h : Keeps F s t) (n : Fin 4) :
    KeepsOut F s (execCanDomTimeout n t) := by
  unfold execCanDomTimeout
  with_reducible repeat' first
     | apply KeepsOut.next | exact Keeps.refl _ | assumption | apply KeepsOut.ite | apply Keeps.ite | apply State.canEvent_keeps
     | apply State.raise_keeps | apply State.setTrxOf_keeps

theorem State.canWakeClear_keeps {F : List Fld} {s t : State} (f_regs : Fld.regs ∈ F) (h : Keeps F s t) (n : Nat) (init : Nat) :
    Keeps F s (State.canWakeClear t n init) := by
  unfold State.canWakeClear
  with_reducible repeat' first
     | exact Keeps.refl _ | assumption | apply Keeps.ite | apply State.setF_keeps

theorem execCanWakeClear_keeps {F : List Fld} {s t : State} (f_regs : Fld.regs ∈ F) (h : Keeps F s t) (n : Fin 8) (init : Byte) :
    KeepsOut F s (execCanWakeClear n init t) := by
  unfold execCanWakeClear
  with_reducible repeat' first
     | apply KeepsOut.next | exact Keeps.refl _ | assumption | apply State.canWakeClear_keeps

end Sys2Proof.Machine
end

