-- ==== Sys2Proof/Laws/KeepsLin.lean ====
section
/-! SUPPORT. What the operations and meanings of Machine/Lin.lean keep. -/

namespace Sys2Proof.Machine

theorem State.linRefuse_keeps {F : List Fld} {s t : State} (f_regs : Fld.regs ∈ F) (h : Keeps F s t) (n : Nat) (init : Nat) :
    Keeps F s (State.linRefuse t n init) := by
  unfold State.linRefuse
  with_reducible repeat' first
     | exact Keeps.refl _ | assumption | apply State.incSat_keeps | apply State.setF_keeps

theorem State.linCtl_keeps {F : List Fld} {s t : State} (f_regs : Fld.regs ∈ F) (h : Keeps F s t) (n : Nat) (init : Nat)
    (f : State → State) (h_f : ∀ y0 : State, Keeps F s y0 →  Keeps F s (f y0)) :
    Keeps F s (State.linCtl t n init f) := by
  unfold State.linCtl
  with_reducible repeat' first
     | exact Keeps.refl _ | assumption | apply Keeps.ite | apply State.linRefuse_keeps | apply h_f

theorem State.linTrxReq_keeps {F : List Fld} {s t : State} (f_regs : Fld.regs ∈ F) (f_trx : Fld.trx ∈ F) (f_pwr : Fld.pwr ∈ F)
    (h : Keeps F s t) (n : Nat) (init : Nat) (req : Nat) :
    Keeps F s (State.linTrxReq t n init req) := by
  unfold State.linTrxReq
  with_reducible repeat' first
     | exact Keeps.refl _ | assumption | apply Keeps.ite | apply State.linRefuse_keeps | apply State.trxReq_keeps

theorem execLinSchedSelect_keeps {F : List Fld} {s t : State} (f_regs : Fld.regs ∈ F) (h : Keeps F s t) (n : Fin 8)
    (init : Byte) (t' : Fin 4) :
    KeepsOut F s (execLinSchedSelect n init t' t) := by
  unfold execLinSchedSelect
  with_reducible repeat' first
     | apply KeepsOut.next | exact Keeps.refl _ | assumption | apply State.linCtl_keeps | apply State.setF_keeps | intro x hx

theorem execLinRun_keeps {F : List Fld} {s t : State} (f_regs : Fld.regs ∈ F) (f_lins : Fld.lins ∈ F) (h : Keeps F s t)
    (n : Fin 8) (init : Byte) (v : Bool) :
    KeepsOut F s (execLinRun n init v t) := by
  unfold execLinRun
  with_reducible repeat' first
     | apply KeepsOut.next | exact Keeps.refl _ | assumption | apply State.linCtl_keeps | apply State.linRun_keeps | intro x hx

theorem execLinGotoSleep_keeps {F : List Fld} {s t : State} (f_regs : Fld.regs ∈ F) (f_islands : Fld.islands ∈ F)
    (f_offers : Fld.offers ∈ F) (f_lins : Fld.lins ∈ F) (h : Keeps F s t) (n : Fin 8) (init : Byte) :
    KeepsOut F s (execLinGotoSleep n init t) := by
  unfold execLinGotoSleep
  with_reducible repeat' first
     | apply KeepsOut.next | exact Keeps.refl _ | assumption | apply State.linCtl_keeps | apply State.linGotoSleep_keeps
     | intro x hx

theorem execLinSendWake_keeps {F : List Fld} {s t : State} (f_regs : Fld.regs ∈ F) (f_lins : Fld.lins ∈ F) (h : Keeps F s t)
    (n : Fin 8) (init : Byte) :
    KeepsOut F s (execLinSendWake n init t) := by
  unfold execLinSendWake
  with_reducible repeat' first
     | apply KeepsOut.next | exact Keeps.refl _ | assumption | apply State.linCtl_keeps | apply State.linSendWake_keeps
     | intro x hx

theorem execLinTrxReq_keeps {F : List Fld} {s t : State} (f_regs : Fld.regs ∈ F) (f_trx : Fld.trx ∈ F) (f_pwr : Fld.pwr ∈ F)
    (h : Keeps F s t) (n : Fin 8) (init : Byte) (req : Fin 4) :
    KeepsOut F s (execLinTrxReq n init req t) := by
  unfold execLinTrxReq
  with_reducible repeat' first
     | apply KeepsOut.next | exact Keeps.refl _ | assumption | apply State.linCtl_keeps | apply State.linTrxReq_keeps | intro x hx

theorem State.linWakeClear_keeps {F : List Fld} {s t : State} (f_regs : Fld.regs ∈ F) (h : Keeps F s t) (n : Nat) (init : Nat) :
    Keeps F s (State.linWakeClear t n init) := by
  unfold State.linWakeClear
  with_reducible repeat' first
     | exact Keeps.refl _ | assumption | apply Keeps.ite | apply State.setF_keeps

theorem execLinWakeClear_keeps {F : List Fld} {s t : State} (f_regs : Fld.regs ∈ F) (h : Keeps F s t) (n : Fin 8) (init : Byte) :
    KeepsOut F s (execLinWakeClear n init t) := by
  unfold execLinWakeClear
  with_reducible repeat' first
     | apply KeepsOut.next | exact Keeps.refl _ | assumption | apply State.linWakeClear_keeps

theorem State.linCommitStaged_keeps {F : List Fld} {s t : State} (f_mem : Fld.mem ∈ F) (f_lins : Fld.lins ∈ F) (h : Keeps F s t)
    (n : Nat) (b : Nat) :
    Keeps F s (State.linCommitStaged t n b) := by
  unfold State.linCommitStaged
  with_reducible repeat' first
     | exact Keeps.refl _ | assumption | apply State.linCommit_keeps

theorem State.linPut_keeps {F : List Fld} {s t : State} (f_mem : Fld.mem ∈ F) (h : Keeps F s t) (n b : Nat) (l : List
    (Nat × Byte)) : Keeps F s (t.linPut n b l) := by
  induction l generalizing t with
  | nil => exact h
  | cons x l ih => exact ih (Keeps.ite (State.wr8_keeps f_mem h _ _) h)

theorem State.linWrite_keeps {F : List Fld} {s t : State} (f_regs : Fld.regs ∈ F) (f_mem : Fld.mem ∈ F) (f_lins : Fld.lins ∈ F)
    (h : Keeps F s t) (n : Nat) (b : Nat) (init : Nat) (bs : List (Nat × Byte)) :
    Keeps F s (State.linWrite t n b init bs) := by
  unfold State.linWrite
  with_reducible repeat' first
     | exact Keeps.refl _ | assumption | apply Keeps.ite | apply State.linCommitStaged_keeps | apply State.linPut_keeps
     | apply State.linRefuse_keeps | apply hf | intro x hx | intro y
     | (extract_lets +onlyGivenNames x; refine Keeps.cut F s x ?_ (fun hx => ?_); rotate_left 1; clear_value x; rotate_left 1; unfold x)
     | split

theorem execLinBufferCommit_keeps {F : List Fld} {s t : State} (f_regs : Fld.regs ∈ F) (f_mem : Fld.mem ∈ F)
    (f_lins : Fld.lins ∈ F) (h : Keeps F s t) (n : Fin 8) (b : Fin 64) (init : Byte) :
    KeepsOut F s (execLinBufferCommit n b init t) := by
  unfold execLinBufferCommit
  with_reducible repeat' first
     | apply KeepsOut.next | exact Keeps.refl _ | assumption | apply KeepsOut.ite | apply Keeps.ite | apply Keeps.ite2
     | apply State.linWrite_keeps

theorem execLinSlotStart_keeps {F : List Fld} {s t : State} (f_regs : Fld.regs ∈ F) (f_trx : Fld.trx ∈ F)
    (f_lins : Fld.lins ∈ F) (h : Keeps F s t) (n : Fin 8) :
    KeepsOut F s (execLinSlotStart n t) := by
  unfold execLinSlotStart
  with_reducible repeat' first
     | apply KeepsOut.next | exact Keeps.refl _ | assumption | apply KeepsOut.ite | apply Keeps.ite | apply Keeps.ite2
     | apply State.resume_keeps | apply State.setF_keeps | apply State.setLin_keeps | apply State.setTrxOf_keeps

theorem State.linError_keeps {F : List Fld} {s t : State} (f_regs : Fld.regs ∈ F) (f_mem : Fld.mem ∈ F)
    (f_islands : Fld.islands ∈ F) (f_offers : Fld.offers ∈ F) (h : Keeps F s t) (n : Nat) (bit : Nat) (b : Option Nat)
    (fid : Nat) :
    Keeps F s (State.linError t n bit b fid) := by
  unfold State.linError
  with_reducible repeat' first
     | exact Keeps.refl _ | assumption | apply State.linEvent_keeps | apply State.raiseBits_keeps | apply State.setMf_keeps
     | (extract_lets +onlyGivenNames x; clear_value x) | split

theorem State.linFlag_keeps {F : List Fld} {s t : State} (f_regs : Fld.regs ∈ F) (f_islands : Fld.islands ∈ F)
    (f_offers : Fld.offers ∈ F) (h : Keeps F s t) (n : Nat) (bit : Nat) (code : Nat) (arg : Nat) (data : Nat) :
    Keeps F s (State.linFlag t n bit code arg data) := by
  unfold State.linFlag
  with_reducible repeat' first
     | exact Keeps.refl _ | assumption | apply State.linEvent_keeps | apply State.raiseBits_keeps

theorem State.linJudge_keeps {F : List Fld} {s t : State} (f_regs : Fld.regs ∈ F) (f_mem : Fld.mem ∈ F)
    (f_islands : Fld.islands ∈ F) (f_offers : Fld.offers ∈ F) (h : Keeps F s t) (n : Nat) :
    Keeps F s (State.linJudge t n) := by
  unfold State.linJudge
  with_reducible repeat' first
     | exact Keeps.refl _ | assumption | apply Keeps.ite | apply State.linError_keeps | apply State.setMf_keeps
     | (extract_lets +onlyGivenNames x; clear_value x) | split

theorem execLinSlotEnd_keeps {F : List Fld} {s t : State} (f_regs : Fld.regs ∈ F) (f_mem : Fld.mem ∈ F)
    (f_islands : Fld.islands ∈ F) (f_offers : Fld.offers ∈ F) (f_lins : Fld.lins ∈ F) (h : Keeps F s t) (n : Fin 8) :
    KeepsOut F s (execLinSlotEnd n t) := by
  unfold execLinSlotEnd
  with_reducible repeat' first
     | apply KeepsOut.next | exact Keeps.refl _ | assumption | apply KeepsOut.ite | apply Keeps.ite | apply Keeps.ite2
     | apply State.linJudge_keeps | apply State.linSleepSent_keeps | apply State.resume_keeps | apply State.setF_keeps
     | apply State.setLin_keeps

theorem execLinHeaderReceived_keeps {F : List Fld} {s t : State} (f_regs : Fld.regs ∈ F) (f_mem : Fld.mem ∈ F)
    (f_islands : Fld.islands ∈ F) (f_offers : Fld.offers ∈ F) (f_lins : Fld.lins ∈ F) (h : Keeps F s t) (n : Fin 8) (pid : Byte)
    (syncOk : Bool) :
    KeepsOut F s (execLinHeaderReceived n pid syncOk t) := by
  unfold execLinHeaderReceived
  with_reducible repeat' first
     | apply KeepsOut.next | exact Keeps.refl _ | assumption | apply KeepsOut.ite | apply Keeps.ite | apply Keeps.ite2
     | apply State.linError_keeps | apply State.setLin_keeps

theorem State.linRespErr_keeps {F : List Fld} {s t : State} (f_mem : Fld.mem ∈ F) (f_lins : Fld.lins ∈ F) (h : Keeps F s t)
    (n : Nat) (v : Bool) :
    Keeps F s (State.linRespErr t n v) := by
  unfold State.linRespErr
  with_reducible repeat' first
     | exact Keeps.refl _ | assumption | apply Keeps.ite | apply State.setLin_keeps | apply State.wr8_keeps | apply hf
     | intro x hx | intro y
     | (extract_lets +onlyGivenNames x; first | (refine Keeps.cut F s x ?_ (fun hx => ?_); rotate_left 1; clear_value x; rotate_left 1; unfold x) | clear_value x)
     | split

theorem State.linBad_keeps {F : List Fld} {s t : State} (f_regs : Fld.regs ∈ F) (f_mem : Fld.mem ∈ F)
    (f_islands : Fld.islands ∈ F) (f_offers : Fld.offers ∈ F) (f_lins : Fld.lins ∈ F) (h : Keeps F s t) (n : Nat) (b : Nat)
    (kind : Nat) :
    Keeps F s (State.linBad t n b kind) := by
  unfold State.linBad
  with_reducible repeat' first
     | exact Keeps.refl _ | assumption | apply Keeps.ite | apply State.linError_keeps | apply State.linFlag_keeps
     | apply State.linRespErr_keeps | apply State.setLin_keeps | apply State.setMf_keeps

theorem State.linGood_keeps {F : List Fld} {s t : State} (f_mem : Fld.mem ∈ F) (f_offers : Fld.offers ∈ F)
    (f_lins : Fld.lins ∈ F) (f_gw : Fld.gw ∈ F) (h : Keeps F s t) (n : Nat) (b : Nat) (data : List Byte) :
    Keeps F s (State.linGood t n b data) := by
  unfold State.linGood
  with_reducible repeat' first
     | exact Keeps.refl _ | assumption | apply Keeps.ite | apply Keeps.ite2 | apply State.gwArrive_keeps
     | apply State.linCue_keeps | apply State.linRespErr_keeps | apply State.setMf_keeps | apply State.stamp_keeps
     | apply State.wrBytes_keeps

theorem execLinResponse_keeps {F : List Fld} {s t : State} (f_regs : Fld.regs ∈ F) (f_mem : Fld.mem ∈ F)
    (f_islands : Fld.islands ∈ F) (f_offers : Fld.offers ∈ F) (f_lins : Fld.lins ∈ F) (f_gw : Fld.gw ∈ F) (h : Keeps F s t)
    (n : Fin 8) (kind : Fin 4) (data : List Byte) :
    KeepsOut F s (execLinResponse n kind data t) := by
  unfold execLinResponse
  with_reducible repeat' first
     | apply KeepsOut.next | exact Keeps.refl _ | assumption | apply KeepsOut.ite | apply Keeps.ite | apply State.linBad_keeps
     | apply State.linGood_keeps | apply State.setLin_keeps
     | (extract_lets +onlyGivenNames x; first | (refine Keeps.cut F s x ?_ (fun hx => ?_); rotate_left 1; clear_value x; rotate_left 1; unfold x) | clear_value x)
     | split

theorem State.linSleepRx_keeps {F : List Fld} {s t : State} (f_regs : Fld.regs ∈ F) (f_islands : Fld.islands ∈ F)
    (f_offers : Fld.offers ∈ F) (f_trx : Fld.trx ∈ F) (f_lins : Fld.lins ∈ F) (f_nm : Fld.nm ∈ F) (f_pwr : Fld.pwr ∈ F)
    (h : Keeps F s t) (n : Nat) (arg : Nat) :
    Keeps F s (State.linSleepRx t n arg) := by
  unfold State.linSleepRx
  with_reducible repeat' first
     | exact Keeps.refl _ | assumption | apply Keeps.ite | apply State.linFlag_keeps | apply State.linSendWake_keeps
     | apply State.nmSet_keeps | apply State.trxReq_keeps

theorem execLinGotoSleepRx_keeps {F : List Fld} {s t : State} (f_regs : Fld.regs ∈ F) (f_islands : Fld.islands ∈ F)
    (f_offers : Fld.offers ∈ F) (f_trx : Fld.trx ∈ F) (f_lins : Fld.lins ∈ F) (f_nm : Fld.nm ∈ F) (f_pwr : Fld.pwr ∈ F)
    (h : Keeps F s t) (n : Fin 8) :
    KeepsOut F s (execLinGotoSleepRx n t) := by
  unfold execLinGotoSleepRx
  with_reducible repeat' first
     | apply KeepsOut.next | exact Keeps.refl _ | assumption | apply KeepsOut.ite | apply Keeps.ite | apply State.linSleepRx_keeps

theorem execLinBusIdleTimeout_keeps {F : List Fld} {s t : State} (f_regs : Fld.regs ∈ F) (f_islands : Fld.islands ∈ F)
    (f_offers : Fld.offers ∈ F) (f_trx : Fld.trx ∈ F) (f_lins : Fld.lins ∈ F) (f_nm : Fld.nm ∈ F) (f_pwr : Fld.pwr ∈ F)
    (h : Keeps F s t) (n : Fin 8) :
    KeepsOut F s (execLinBusIdleTimeout n t) := by
  unfold execLinBusIdleTimeout
  with_reducible repeat' first
     | apply KeepsOut.next | exact Keeps.refl _ | assumption | apply State.linSleepRx_keeps

theorem execLinWakeScheduleStart_keeps {F : List Fld} {s t : State} (f_lins : Fld.lins ∈ F) (h : Keeps F s t) (n : Fin 8) :
    KeepsOut F s (execLinWakeScheduleStart n t) := by
  unfold execLinWakeScheduleStart
  with_reducible repeat' first
     | apply KeepsOut.next | exact Keeps.refl _ | assumption | apply KeepsOut.ite | apply Keeps.ite | apply Keeps.ite2
     | apply State.setLin_keeps

theorem execLinWakeRetry_keeps {F : List Fld} {s t : State} (f_regs : Fld.regs ∈ F) (f_islands : Fld.islands ∈ F)
    (f_offers : Fld.offers ∈ F) (f_lins : Fld.lins ∈ F) (h : Keeps F s t) (n : Fin 8) :
    KeepsOut F s (execLinWakeRetry n t) := by
  unfold execLinWakeRetry
  with_reducible repeat' first
     | apply KeepsOut.next | exact Keeps.refl _ | assumption | apply KeepsOut.ite | apply Keeps.ite | apply Keeps.ite2
     | apply State.linFlag_keeps | apply State.setLin_keeps

theorem State.linWake_keeps {F : List Fld} {s t : State} (f_regs : Fld.regs ∈ F) (f_islands : Fld.islands ∈ F)
    (f_offers : Fld.offers ∈ F) (f_trx : Fld.trx ∈ F) (f_cans : Fld.cans ∈ F) (f_lins : Fld.lins ∈ F) (f_nm : Fld.nm ∈ F)
    (f_pwr : Fld.pwr ∈ F) (f_trk : Fld.trk ∈ F) (h : Keeps F s t) (n : Nat) :
    Keeps F s (State.linWake t n) := by
  unfold State.linWake
  with_reducible repeat' first
     | exact Keeps.refl _ | assumption | apply Keeps.ite | apply State.linCue_keeps | apply State.nmBusWake_keeps
     | apply State.raise_keeps | apply State.setF_keeps | apply State.stampTrx_keeps | apply State.trxToStandby_keeps
     | apply State.wakeSource_keeps

theorem execLinBusWake_keeps {F : List Fld} {s t : State} (f_regs : Fld.regs ∈ F) (f_islands : Fld.islands ∈ F)
    (f_offers : Fld.offers ∈ F) (f_trx : Fld.trx ∈ F) (f_cans : Fld.cans ∈ F) (f_lins : Fld.lins ∈ F) (f_nm : Fld.nm ∈ F)
    (f_pwr : Fld.pwr ∈ F) (f_trk : Fld.trk ∈ F) (h : Keeps F s t) (n : Fin 8) :
    KeepsOut F s (execLinBusWake n t) := by
  unfold execLinBusWake
  with_reducible repeat' first
     | apply KeepsOut.next | exact Keeps.refl _ | assumption | apply KeepsOut.ite | apply Keeps.ite | apply State.linWake_keeps
     | apply State.nmTraffic_keeps

theorem execLinDomTimeout_keeps {F : List Fld} {s t : State} (f_regs : Fld.regs ∈ F) (f_mem : Fld.mem ∈ F)
    (f_islands : Fld.islands ∈ F) (f_offers : Fld.offers ∈ F) (f_trx : Fld.trx ∈ F) (h : Keeps F s t) (n : Fin 8) :
    KeepsOut F s (execLinDomTimeout n t) := by
  unfold execLinDomTimeout
  with_reducible repeat' first
     | apply KeepsOut.next | exact Keeps.refl _ | assumption | apply KeepsOut.ite | apply Keeps.ite | apply State.linError_keeps
     | apply State.setTrxOf_keeps

end Sys2Proof.Machine
end

