-- ==== Sys2Proof/Laws/KeepsEth.lean ====
section
/-! SUPPORT. What the operations and meanings of Machine/Eth.lean keep. -/

namespace Sys2Proof.Machine

theorem State.ethDrop_keeps {F : List Fld} {s t : State} (f_regs : Fld.regs ∈ F) (h : Keeps F s t) (r : RF) :
    Keeps F s (State.ethDrop t r) := by
  unfold State.ethDrop
  with_reducible repeat' first
     | exact Keeps.refl _ | assumption | apply State.incSat_keeps

theorem State.macsecRx_keeps {F : List Fld} {s t : State} (f_eth : Fld.eth ∈ F) (h : Keeps F s t) (p : Nat) (f : EthFrame) :
    Keeps F s (State.macsecRx t p f).2 := by
  unfold State.macsecRx
  with_reducible repeat' first
     | exact Keeps.refl _ | assumption | apply Keeps.ite | apply Keeps.ite2 | apply hf | intro x hx | intro y
     | (extract_lets +onlyGivenNames x; clear_value x) | split | dsimp only | apply Keeps.upd_eth

theorem State.setFrer_keeps {F : List Fld} {s t : State} (f_eth : Fld.eth ∈ F) (h : Keeps F s t) (r : Nat) (x : Frer) :
    Keeps F s (State.setFrer t r x) := by
  unfold State.setFrer
  with_reducible repeat' first
     | exact Keeps.refl _ | assumption | apply hf | intro x hx | intro y | (extract_lets +onlyGivenNames x; clear_value x)
     | apply Keeps.upd_eth

theorem State.frerRx_keeps {F : List Fld} {s t : State} (f_regs : Fld.regs ∈ F) (f_eth : Fld.eth ∈ F) (h : Keeps F s t)
    (p : Nat) (r : Nat) (q : Nat) :
    Keeps F s (State.frerRx t p r q).2 := by
  unfold State.frerRx
  with_reducible repeat' first
     | exact Keeps.refl _ | assumption | apply Keeps.ite | apply Keeps.ite2 | apply State.addSat_keeps | apply State.incSat_keeps
     | apply State.setFrer_keeps

theorem State.eliminate_keeps {F : List Fld} {s t : State} (f_regs : Fld.regs ∈ F) (f_eth : Fld.eth ∈ F) (h : Keeps F s t)
    (p : Nat) (vid : Nat) (f : EthFrame) :
    Keeps F s (State.eliminate t p vid f).2 := by
  unfold State.eliminate
  with_reducible repeat' first
     | exact Keeps.refl _ | assumption | apply Keeps.ite | apply Keeps.ite2 | apply State.frerRx_keeps | apply State.incSat_keeps
     | split

theorem State.ethToGw_keeps {F : List Fld} {s t : State} (f_regs : Fld.regs ∈ F) (f_gw : Fld.gw ∈ F) (f_eth : Fld.eth ∈ F)
    (h : Keeps F s t) (p : Nat) (vid : Nat) (f : EthFrame) :
    Keeps F s (State.ethToGw t p vid f) := by
  unfold State.ethToGw
  with_reducible repeat' first
     | exact Keeps.refl _ | assumption | apply Keeps.ite | apply Keeps.ite2 | apply State.gwArrive_keeps
     | apply State.incSat_keeps | (extract_lets +onlyGivenNames x; clear_value x) | split | dsimp only | apply Keeps.upd_eth

theorem State.ethFlood_keeps {F : List Fld} {s t : State} (f_eth : Fld.eth ∈ F) (h : Keeps F s t) (p : Nat) (mask : Nat)
    (f : EthFrame) :
    Keeps F s (State.ethFlood t p mask f) := by
  unfold State.ethFlood
  with_reducible repeat' first
     | exact Keeps.refl _ | assumption | apply Keeps.ite | apply State.ethQueue_keeps | apply Keeps.foldl | apply hf | intro x hx
     | intro y

theorem State.recIngress_keeps {F : List Fld} {s t : State} (f_eth : Fld.eth ∈ F) (h : Keeps F s t) (p : Nat) (f : EthFrame) :
    Keeps F s (State.recIngress t p f) := by
  unfold State.recIngress
  with_reducible repeat' first
     | exact Keeps.refl _ | assumption | apply Keeps.ite | apply Keeps.ite2 | (extract_lets +onlyGivenNames x; clear_value x)
     | split | dsimp only | apply Keeps.upd_eth

theorem execEthFrameIngress_keeps {F : List Fld} {s t : State} (f_regs : Fld.regs ∈ F) (f_gw : Fld.gw ∈ F) (f_eth : Fld.eth ∈ F)
    (h : Keeps F s t) (p : Fin 3) (f : EthFrame) :
    KeepsOut F s (execEthFrameIngress p f t) := by
  unfold execEthFrameIngress
  with_reducible repeat' first
     | apply KeepsOut.next | exact Keeps.refl _ | assumption | apply KeepsOut.ite | apply Keeps.ite | apply Keeps.ite2
     | apply State.eliminate_keeps | apply State.ethDrop_keeps | apply State.ethFlood_keeps | apply State.ethToGw_keeps
     | apply State.macsecRx_keeps | apply State.recIngress_keeps
     | (extract_lets +onlyGivenNames x; first | (refine Keeps.cut F s x ?_ (fun hx => ?_); rotate_left 1; clear_value x; rotate_left 1; unfold x) | clear_value x)
     | split

theorem execQbvGateEvent_keeps {F : List Fld} {s t : State} (f_eth : Fld.eth ∈ F) (h : Keeps F s t)  :
    KeepsOut F s (execQbvGateEvent t) := by
  unfold execQbvGateEvent
  with_reducible repeat' first
     | apply KeepsOut.next | exact Keeps.refl _ | assumption | apply KeepsOut.ite | apply Keeps.ite | apply Keeps.ite2
     | (extract_lets +onlyGivenNames x; clear_value x) | split | dsimp only | apply Keeps.upd_eth

theorem execQbvListSwitch_keeps {F : List Fld} {s t : State} (f_eth : Fld.eth ∈ F) (h : Keeps F s t)  :
    KeepsOut F s (execQbvListSwitch t) := by
  unfold execQbvListSwitch
  with_reducible repeat' first
     | apply KeepsOut.next | exact Keeps.refl _ | assumption | apply KeepsOut.ite | apply Keeps.ite | apply Keeps.ite2
     | (extract_lets +onlyGivenNames x; clear_value x) | split | dsimp only | apply Keeps.upd_eth

theorem execFrerResetTimer_keeps {F : List Fld} {s t : State} (f_eth : Fld.eth ∈ F) (h : Keeps F s t) (r : Fin 32) :
    KeepsOut F s (execFrerResetTimer r t) := by
  unfold execFrerResetTimer
  with_reducible repeat' first
     | apply KeepsOut.next | exact Keeps.refl _ | assumption | apply KeepsOut.ite | apply Keeps.ite | apply State.setFrer_keeps

theorem State.macsecTx_keeps {F : List Fld} {s t : State} (f_regs : Fld.regs ∈ F) (f_offers : Fld.offers ∈ F)
    (f_eth : Fld.eth ∈ F) (h : Keeps F s t) (p : Nat) :
    Keeps F s (State.macsecTx t p) := by
  unfold State.macsecTx
  with_reducible repeat' first
     | exact Keeps.refl _ | assumption | apply Keeps.ite | apply State.setF_keeps | apply State.unitCue_keeps | apply hf
     | intro x hx | intro y | (extract_lets +onlyGivenNames x; clear_value x) | split | apply Keeps.upd_eth

theorem State.t1sSend_keeps {F : List Fld} {s t : State} (f_eth : Fld.eth ∈ F) (h : Keeps F s t) (x : EthTx) :
    Keeps F s (State.t1sSend t x) := by
  unfold State.t1sSend
  with_reducible repeat' first
     | exact Keeps.refl _ | assumption | apply Keeps.ite | apply Keeps.ite2 | (extract_lets +onlyGivenNames x; clear_value x)
     | split | dsimp only | apply Keeps.upd_eth

theorem execEthFrameEgress_keeps {F : List Fld} {s t : State} (f_regs : Fld.regs ∈ F) (f_offers : Fld.offers ∈ F)
    (f_eth : Fld.eth ∈ F) (h : Keeps F s t) (p : Fin 3) :
    KeepsOut F s (execEthFrameEgress p t) := by
  unfold execEthFrameEgress
  with_reducible repeat' first
     | apply KeepsOut.next | exact Keeps.refl _ | assumption | apply KeepsOut.ite | apply Keeps.ite | apply State.macsecTx_keeps
     | apply State.t1sSend_keeps | (extract_lets +onlyGivenNames x; clear_value x) | split | dsimp only | apply Keeps.upd_eth

end Sys2Proof.Machine
end

