-- ==== Sys2Proof/Laws/KeepsInputs.lean ====
section
/-! SUPPORT. What the operations and meanings of Machine/Inputs.lean keep. -/

namespace Sys2Proof.Machine

theorem State.setInIn_keeps {F : List Fld} {s t : State} (f_inp : Fld.inp ∈ F) (h : Keeps F s t) (n : Nat) (x : InpIn) :
    Keeps F s (State.setInIn t n x) := by
  unfold State.setInIn
  with_reducible repeat' first
     | exact Keeps.refl _ | assumption | apply State.ins_keeps | apply hf | intro x hx | intro y
     | (extract_lets +onlyGivenNames x; clear_value x) | apply Keeps.upd_inp

theorem State.inSample_keeps {F : List Fld} {s t : State} (f_inp : Fld.inp ∈ F) (h : Keeps F s t) (n : Nat) (lvl : Bool) :
    Keeps F s (State.inSample t n lvl) := by
  unfold State.inSample
  with_reducible repeat' first
     | exact Keeps.refl _ | assumption | apply Keeps.ite | apply Keeps.ite2 | apply State.setInIn_keeps

theorem execInputSample_keeps {F : List Fld} {s t : State} (f_inp : Fld.inp ∈ F) (h : Keeps F s t) (levels : BitVec 96) :
    KeepsOut F s (execInputSample levels t) := by
  unfold execInputSample
  with_reducible repeat' first
     | apply KeepsOut.next | exact Keeps.refl _ | assumption | apply KeepsOut.ite | apply Keeps.ite | apply State.inSample_keeps
     | apply Keeps.foldl | intro x hx | intro y

theorem State.inReport_keeps {F : List Fld} {s t : State} (f_regs : Fld.regs ∈ F) (f_islands : Fld.islands ∈ F)
    (f_offers : Fld.offers ∈ F) (h : Keeps F s t) (n : Nat) (lvl : Bool) (late : Bool) (first : Slate) :
    Keeps F s (State.inReport t n lvl late first) := by
  unfold State.inReport
  with_reducible repeat' first
     | exact Keeps.refl _ | assumption | apply Keeps.ite | apply Keeps.ite2 | apply State.offerRec_keeps | apply State.raise_keeps
     | apply State.setF_keeps | apply State.unitCue_keeps

theorem State.inClean_keeps {F : List Fld} {s t : State} (f_inp : Fld.inp ∈ F) (h : Keeps F s t) (n : Nat) :
    Keeps F s (State.inClean t n) := by
  unfold State.inClean
  with_reducible repeat' first
     | exact Keeps.refl _ | assumption | apply Keeps.ite | (extract_lets +onlyGivenNames x; clear_value x) | split
     | apply Keeps.upd_inp

theorem State.inReady_keeps {F : List Fld} {s t : State} (f_regs : Fld.regs ∈ F) (h : Keeps F s t)  :
    Keeps F s (State.inReady t) := by
  unfold State.inReady
  with_reducible repeat' first
     | exact Keeps.refl _ | assumption | apply Keeps.ite | apply State.setF_keeps

theorem execInputChangeAccept_keeps {F : List Fld} {s t : State} (f_regs : Fld.regs ∈ F) (f_islands : Fld.islands ∈ F)
    (f_offers : Fld.offers ∈ F) (f_inp : Fld.inp ∈ F) (h : Keeps F s t) (n : Fin 96) :
    KeepsOut F s (execInputChangeAccept n t) := by
  unfold execInputChangeAccept
  with_reducible repeat' first
     | apply KeepsOut.next | exact Keeps.refl _ | assumption | apply KeepsOut.ite | apply Keeps.ite | apply State.inClean_keeps
     | apply State.inReady_keeps | apply State.inReport_keeps | apply State.setInIn_keeps

theorem execCleanPulseEnd_keeps {F : List Fld} {s t : State} (f_inp : Fld.inp ∈ F) (h : Keeps F s t) (n : Fin 96) :
    KeepsOut F s (execCleanPulseEnd n t) := by
  unfold execCleanPulseEnd
  with_reducible repeat' first
     | apply KeepsOut.next | exact Keeps.refl _ | assumption | apply KeepsOut.ite | apply Keeps.ite | apply Keeps.ite2
     | (extract_lets +onlyGivenNames x; clear_value x) | split | dsimp only | apply Keeps.upd_inp

theorem State.setHc_keeps {F : List Fld} {s t : State} (f_inp : Fld.inp ∈ F) (h : Keeps F s t) (k : Nat) (x : Hc) :
    Keeps F s (State.setHc t k x) := by
  unfold State.setHc
  with_reducible repeat' first
     | exact Keeps.refl _ | assumption | apply hf | intro x hx | intro y | (extract_lets +onlyGivenNames x; clear_value x)
     | apply Keeps.upd_inp

theorem State.hcCue_keeps {F : List Fld} {s t : State} (f_offers : Fld.offers ∈ F) (h : Keeps F s t) (k : Nat) (code : Nat) :
    Keeps F s (State.hcCue t k code) := by
  unfold State.hcCue
  with_reducible repeat' first
     | exact Keeps.refl _ | assumption | apply State.unitCue_keeps

theorem State.accQueue_keeps {F : List Fld} {s t : State} (f_acc : Fld.acc ∈ F) (h : Keeps F s t) (p : AccPoll) :
    Keeps F s (State.accQueue t p) := by
  unfold State.accQueue
  with_reducible repeat' first
     | exact Keeps.refl _ | assumption | apply Keeps.ite | apply hf | intro x hx | intro y
     | (extract_lets +onlyGivenNames x; clear_value x) | split | apply Keeps.upd_acc

theorem State.seedNonce_keeps {F : List Fld} {s t : State} (f_acc : Fld.acc ∈ F) (h : Keeps F s t)  :
    Keeps F s (State.seedNonce t).2 := by
  unfold State.seedNonce
  with_reducible repeat' first
     | exact Keeps.refl _ | assumption | (extract_lets +onlyGivenNames x; clear_value x) | split | dsimp only
     | apply Keeps.upd_acc

theorem State.sleepRound_keeps {F : List Fld} {s t : State} (f_acc : Fld.acc ∈ F) (h : Keeps F s t) (p : AccPoll) :
    Keeps F s (State.sleepRound t p) := by
  unfold State.sleepRound
  with_reducible repeat' first
     | exact Keeps.refl _ | assumption | apply Keeps.ite | apply Keeps.ite2 | apply State.accQueue_keeps
     | apply State.seedNonce_keeps

theorem State.hcTouch_keeps {F : List Fld} {s t : State} (f_regs : Fld.regs ∈ F) (f_islands : Fld.islands ∈ F)
    (f_offers : Fld.offers ∈ F) (f_trx : Fld.trx ∈ F) (f_pwr : Fld.pwr ∈ F) (f_acc : Fld.acc ∈ F) (f_trk : Fld.trk ∈ F)
    (h : Keeps F s t) (k : Nat) :
    Keeps F s (State.hcTouch t k) := by
  unfold State.hcTouch
  with_reducible repeat' first
     | exact Keeps.refl _ | assumption | apply Keeps.ite | apply Keeps.ite2 | apply State.accQueue_keeps | apply State.hcCue_keeps
     | apply State.raise_keeps | apply State.setF_keeps | apply State.sleepRound_keeps | apply State.wakeSource_keeps

theorem State.hcDrift_keeps {F : List Fld} {s t : State} (f_regs : Fld.regs ∈ F) (f_inp : Fld.inp ∈ F) (h : Keeps F s t)
    (k : Nat) :
    Keeps F s (State.hcDrift t k) := by
  unfold State.hcDrift
  with_reducible repeat' first
     | exact Keeps.refl _ | assumption | apply Keeps.ite | apply State.setF_keeps | apply State.setHc_keeps

theorem State.hcJudge_keeps {F : List Fld} {s t : State} (f_regs : Fld.regs ∈ F) (f_islands : Fld.islands ∈ F)
    (f_offers : Fld.offers ∈ F) (f_trx : Fld.trx ∈ F) (f_pwr : Fld.pwr ∈ F) (f_inp : Fld.inp ∈ F) (f_acc : Fld.acc ∈ F)
    (f_trk : Fld.trk ∈ F) (h : Keeps F s t) (k : Nat) :
    Keeps F s (State.hcJudge t k) := by
  unfold State.hcJudge
  with_reducible repeat' first
     | exact Keeps.refl _ | assumption | apply Keeps.ite | apply Keeps.ite2 | apply State.hcCue_keeps | apply State.hcDrift_keeps
     | apply State.hcTouch_keeps | apply State.setF_keeps | apply State.setHc_keeps

theorem State.hcScan_keeps {F : List Fld} {s t : State} (f_regs : Fld.regs ∈ F) (f_islands : Fld.islands ∈ F)
    (f_offers : Fld.offers ∈ F) (f_trx : Fld.trx ∈ F) (f_pwr : Fld.pwr ∈ F) (f_inp : Fld.inp ∈ F) (f_acc : Fld.acc ∈ F)
    (f_trk : Fld.trk ∈ F) (h : Keeps F s t) (k : Nat) (count : Nat) (ok : Bool) :
    Keeps F s (State.hcScan t k count ok) := by
  unfold State.hcScan
  with_reducible repeat' first
     | exact Keeps.refl _ | assumption | apply Keeps.ite | apply State.hcCue_keeps | apply State.hcJudge_keeps
     | apply State.raise_keeps | apply State.setF_keeps | apply State.setHc_keeps

theorem execHandleScan_keeps {F : List Fld} {s t : State} (f_regs : Fld.regs ∈ F) (f_islands : Fld.islands ∈ F)
    (f_offers : Fld.offers ∈ F) (f_trx : Fld.trx ∈ F) (f_pwr : Fld.pwr ∈ F) (f_inp : Fld.inp ∈ F) (f_acc : Fld.acc ∈ F)
    (f_trk : Fld.trk ∈ F) (h : Keeps F s t) (c0 : BitVec 16) (c1 : BitVec 16) (c2 : BitVec 16) (c3 : BitVec 16) (ok : BitVec 4) :
    KeepsOut F s (execHandleScan c0 c1 c2 c3 ok t) := by
  unfold execHandleScan
  with_reducible repeat' first
     | apply KeepsOut.next | exact Keeps.refl _ | assumption | apply KeepsOut.ite | apply Keeps.ite | apply State.hcScan_keeps

theorem execHandleStuck_keeps {F : List Fld} {s t : State} (f_regs : Fld.regs ∈ F) (f_offers : Fld.offers ∈ F)
    (f_inp : Fld.inp ∈ F) (h : Keeps F s t) (k : Fin 4) :
    KeepsOut F s (execHandleStuck k t) := by
  unfold execHandleStuck
  with_reducible repeat' first
     | apply KeepsOut.next | exact Keeps.refl _ | assumption | apply KeepsOut.ite | apply Keeps.ite | apply State.hcCue_keeps
     | apply State.raise_keeps | apply State.setF_keeps | apply State.setHc_keeps

theorem State.measUpdate_keeps {F : List Fld} {s t : State} (f_regs : Fld.regs ∈ F) (f_offers : Fld.offers ∈ F)
    (h : Keeps F s t) (k : Nat) (v : Nat) :
    Keeps F s (State.measUpdate t k v) := by
  unfold State.measUpdate
  with_reducible repeat' first
     | exact Keeps.refl _ | assumption | apply Keeps.ite | apply State.postCue_keeps | apply State.slotUpdate_keeps
     | apply Keeps.foldl | apply hf | intro x hx | intro y

theorem State.measFilling_keeps {F : List Fld} {s t : State} (f_regs : Fld.regs ∈ F) (h : Keeps F s t) (k : Nat) :
    Keeps F s (State.measFilling t k) := by
  unfold State.measFilling
  with_reducible repeat' first
     | exact Keeps.refl _ | assumption | apply State.slotFilling_keeps

theorem State.tempUpdate_keeps {F : List Fld} {s t : State} (f_regs : Fld.regs ∈ F) (f_offers : Fld.offers ∈ F)
    (h : Keeps F s t) (t' : Nat) (v : Nat) (clamped : Bool) :
    Keeps F s (State.tempUpdate t t' v clamped) := by
  unfold State.tempUpdate
  with_reducible repeat' first
     | exact Keeps.refl _ | assumption | apply State.measUpdate_keeps

theorem State.tempFall_keeps {F : List Fld} {s t : State} (f_regs : Fld.regs ∈ F) (f_islands : Fld.islands ∈ F)
    (f_offers : Fld.offers ∈ F) (f_meas : Fld.meas ∈ F) (h : Keeps F s t) (t' : Nat) :
    Keeps F s (State.tempFall t t') := by
  unfold State.tempFall
  with_reducible repeat' first
     | exact Keeps.refl _ | assumption | apply Keeps.ite | apply State.measUpdate_keeps | apply State.raise_keeps
     | apply State.stamp_keeps | apply State.unitCue_keeps | (extract_lets +onlyGivenNames x; clear_value x) | split
     | apply Keeps.upd_meas

theorem execMeasScan_keeps {F : List Fld} {s t : State} (f_regs : Fld.regs ∈ F) (h : Keeps F s t)  :
    KeepsOut F s (execMeasScan t) := by
  unfold execMeasScan
  with_reducible repeat' first
     | apply KeepsOut.next | exact Keeps.refl _ | assumption | apply KeepsOut.ite | apply Keeps.ite
     | apply State.measFilling_keeps | apply Keeps.foldl | intro x hx | intro y

theorem execMeasConversionEnd_keeps {F : List Fld} {s t : State} (f_free : Fld.free ∈ F) (f_regs : Fld.regs ∈ F)
    (f_offers : Fld.offers ∈ F) (h : Keeps F s t) (n : Fin 96) (mv : BitVec 16) :
    KeepsOut F s (execMeasConversionEnd n mv t) := by
  unfold execMeasConversionEnd
  with_reducible repeat' first
     | apply KeepsOut.next | exact Keeps.refl _ | assumption | apply KeepsOut.ite | apply Keeps.ite | apply State.drawn_keeps
     | apply State.measUpdate_keeps | apply State.tempUpdate_keeps | apply Keeps.foldl | apply hf | intro x hx | intro y

theorem State.dieSlots_keeps {F : List Fld} {s t : State} (f_regs : Fld.regs ∈ F) (f_islands : Fld.islands ∈ F)
    (f_offers : Fld.offers ∈ F) (f_meas : Fld.meas ∈ F) (h : Keeps F s t) (reads : List (Fin 15 × BitVec 16)) :
    Keeps F s (State.dieSlots t reads) := by
  unfold State.dieSlots
  with_reducible repeat' first
     | exact Keeps.refl _ | assumption | apply Keeps.ite | apply State.tempFall_keeps | apply State.tempUpdate_keeps
     | apply Keeps.foldl | apply hf | intro x hx | intro y | (extract_lets +onlyGivenNames x; clear_value x) | split

theorem execMeasPeriodicUpdate_keeps {F : List Fld} {s t : State} (f_regs : Fld.regs ∈ F) (f_islands : Fld.islands ∈ F)
    (f_offers : Fld.offers ∈ F) (f_meas : Fld.meas ∈ F) (h : Keeps F s t) (v0 : BitVec 16) (i0 : BitVec 16) (v1 : BitVec 16)
    (i1 : BitVec 16) (vlog : BitVec 16) (reads : List (Fin 15 × BitVec 16)) :
    KeepsOut F s (execMeasPeriodicUpdate v0 i0 v1 i1 vlog reads t) := by
  unfold execMeasPeriodicUpdate
  with_reducible repeat' first
     | apply KeepsOut.next | exact Keeps.refl _ | assumption | apply KeepsOut.ite | apply Keeps.ite | apply State.dieSlots_keeps
     | apply State.measUpdate_keeps

theorem State.measRefuse_keeps {F : List Fld} {s t : State} (f_regs : Fld.regs ∈ F) (h : Keeps F s t) (init : Nat) :
    Keeps F s (State.measRefuse t init) := by
  unfold State.measRefuse
  with_reducible repeat' first
     | exact Keeps.refl _ | assumption | apply State.incSat_keeps | apply State.setF_keeps

theorem State.tempWrite_keeps {F : List Fld} {s t : State} (f_regs : Fld.regs ∈ F) (f_offers : Fld.offers ∈ F) (h : Keeps F s t)
    (t' : Nat) (init : Nat) (v : Nat) :
    Keeps F s (State.tempWrite t t' init v) := by
  unfold State.tempWrite
  with_reducible repeat' first
     | exact Keeps.refl _ | assumption | apply Keeps.ite | apply State.measRefuse_keeps | apply State.tempUpdate_keeps

theorem execTempWrite_keeps {F : List Fld} {s t : State} (f_regs : Fld.regs ∈ F) (f_offers : Fld.offers ∈ F) (h : Keeps F s t)
    (t' : Fin 64) (init : Byte) (v : BitVec 16) :
    KeepsOut F s (execTempWrite t' init v t) := by
  unfold execTempWrite
  with_reducible repeat' first
     | apply KeepsOut.next | exact Keeps.refl _ | assumption | apply KeepsOut.ite | apply Keeps.ite | apply State.tempWrite_keeps

theorem execTempStale_keeps {F : List Fld} {s t : State} (f_regs : Fld.regs ∈ F) (f_islands : Fld.islands ∈ F)
    (f_offers : Fld.offers ∈ F) (f_meas : Fld.meas ∈ F) (h : Keeps F s t) (t' : Fin 64) :
    KeepsOut F s (execTempStale t' t) := by
  unfold execTempStale
  with_reducible repeat' first
     | apply KeepsOut.next | exact Keeps.refl _ | assumption | apply KeepsOut.ite | apply Keeps.ite | apply State.tempFall_keeps

theorem State.setSens_keeps {F : List Fld} {s t : State} (f_meas : Fld.meas ∈ F) (h : Keeps F s t) (k : Nat) (x : Sens) :
    Keeps F s (State.setSens t k x) := by
  unfold State.setSens
  with_reducible repeat' first
     | exact Keeps.refl _ | assumption | apply hf | intro x hx | intro y | (extract_lets +onlyGivenNames x; clear_value x)
     | apply Keeps.upd_meas

theorem State.sensApply_keeps {F : List Fld} {s t : State} (f_meas : Fld.meas ∈ F) (h : Keeps F s t) (k : Nat) :
    Keeps F s (State.sensApply t k) := by
  unfold State.sensApply
  with_reducible repeat' first
     | exact Keeps.refl _ | assumption | apply State.setSens_keeps

theorem State.sensWrite_keeps {F : List Fld} {s t : State} (f_regs : Fld.regs ∈ F) (f_meas : Fld.meas ∈ F) (h : Keeps F s t)
    (init : Nat) (v : Nat) :
    Keeps F s (State.sensWrite t init v) := by
  unfold State.sensWrite
  with_reducible repeat' first
     | exact Keeps.refl _ | assumption | apply Keeps.ite | apply Keeps.ite2 | apply State.measRefuse_keeps
     | apply State.sensApply_keeps | apply State.setF_keeps

theorem execSensCtlWrite_keeps {F : List Fld} {s t : State} (f_regs : Fld.regs ∈ F) (f_meas : Fld.meas ∈ F) (h : Keeps F s t)
    (init : Byte) (v : BitVec 4) :
    KeepsOut F s (execSensCtlWrite init v t) := by
  unfold execSensCtlWrite
  with_reducible repeat' first
     | apply KeepsOut.next | exact Keeps.refl _ | assumption | apply State.sensWrite_keeps

theorem State.sensEvent_keeps {F : List Fld} {s t : State} (f_regs : Fld.regs ∈ F) (f_islands : Fld.islands ∈ F)
    (f_offers : Fld.offers ∈ F) (h : Keeps F s t) (k : Nat) (bit : Nat) (code : Nat) :
    Keeps F s (State.sensEvent t k bit code) := by
  unfold State.sensEvent
  with_reducible repeat' first
     | exact Keeps.refl _ | assumption | apply State.raise_keeps | apply State.stamp_keeps | apply State.unitCue_keeps

theorem execSensOvercurrent_keeps {F : List Fld} {s t : State} (f_regs : Fld.regs ∈ F) (f_islands : Fld.islands ∈ F)
    (f_offers : Fld.offers ∈ F) (f_meas : Fld.meas ∈ F) (h : Keeps F s t) (k : Fin 2) :
    KeepsOut F s (execSensOvercurrent k t) := by
  unfold execSensOvercurrent
  with_reducible repeat' first
     | apply KeepsOut.next | exact Keeps.refl _ | assumption | apply KeepsOut.ite | apply Keeps.ite | apply Keeps.ite2
     | apply State.sensEvent_keeps | apply State.setSens_keeps

theorem execSensBackfeed_keeps {F : List Fld} {s t : State} (f_regs : Fld.regs ∈ F) (f_islands : Fld.islands ∈ F)
    (f_offers : Fld.offers ∈ F) (f_meas : Fld.meas ∈ F) (h : Keeps F s t) (k : Fin 2) :
    KeepsOut F s (execSensBackfeed k t) := by
  unfold execSensBackfeed
  with_reducible repeat' first
     | apply KeepsOut.next | exact Keeps.refl _ | assumption | apply KeepsOut.ite | apply Keeps.ite | apply Keeps.ite2
     | apply State.sensEvent_keeps | apply State.setSens_keeps

theorem execSensBackfeedRelease_keeps {F : List Fld} {s t : State} (f_meas : Fld.meas ∈ F) (h : Keeps F s t) (k : Fin 2) :
    KeepsOut F s (execSensBackfeedRelease k t) := by
  unfold execSensBackfeedRelease
  with_reducible repeat' first
     | apply KeepsOut.next | exact Keeps.refl _ | assumption | apply KeepsOut.ite | apply Keeps.ite | apply State.sensApply_keeps
     | apply State.setSens_keeps

end Sys2Proof.Machine
end

