-- ==== Sys2Proof/Laws/KeepsStrongroom.lean ====
section
/-! SUPPORT. What the operations and meanings of Machine/Strongroom.lean keep. -/

namespace Sys2Proof.Machine

theorem State.setKey_keeps {F : List Fld} {s t : State} (f_regs : Fld.regs ∈ F) (f_keys : Fld.keys ∈ F) (h : Keeps F s t)
    (k : Nat) (x : Key) :
    Keeps F s (State.setKey t k x) := by
  unfold State.setKey
  with_reducible repeat' first
     | exact Keeps.refl _ | assumption | apply State.setF_keeps | apply hf | intro x hx | intro y
     | (extract_lets +onlyGivenNames x; clear_value x) | apply Keeps.upd_keys

theorem State.eraseKey_keeps {F : List Fld} {s t : State} (f_regs : Fld.regs ∈ F) (f_keys : Fld.keys ∈ F) (h : Keeps F s t)
    (k : Nat) :
    Keeps F s (State.eraseKey t k) := by
  unfold State.eraseKey
  with_reducible repeat' first
     | exact Keeps.refl _ | assumption | apply State.setKey_keeps

theorem State.stampKey_keeps {F : List Fld} {s t : State} (f_regs : Fld.regs ∈ F) (f_islands : Fld.islands ∈ F)
    (h : Keeps F s t) (k : Nat) (kind : Nat) (kcv : Nat) :
    Keeps F s (State.stampKey t k kind kcv) := by
  unfold State.stampKey
  with_reducible repeat' first
     | exact Keeps.refl _ | assumption | apply State.stampStr_keeps

theorem State.eraseStamped_keeps {F : List Fld} {s t : State} (f_regs : Fld.regs ∈ F) (f_islands : Fld.islands ∈ F)
    (f_keys : Fld.keys ∈ F) (h : Keeps F s t) (k : Nat) :
    Keeps F s (State.eraseStamped t k) := by
  unfold State.eraseStamped
  with_reducible repeat' first
     | exact Keeps.refl _ | assumption | apply State.eraseKey_keeps | apply State.stampKey_keeps

theorem State.strReport_keeps {F : List Fld} {s t : State} (f_regs : Fld.regs ∈ F) (f_islands : Fld.islands ∈ F)
    (f_offers : Fld.offers ∈ F) (h : Keeps F s t) (r : StrReq) (status : Nat) (val : Nat) :
    Keeps F s (State.strReport t r status val) := by
  unfold State.strReport
  with_reducible repeat' first
     | exact Keeps.refl _ | assumption | apply Keeps.ite | apply State.postCue_keeps | apply State.stampStr_keeps

theorem State.strFinish_keeps {F : List Fld} {s t : State} (f_regs : Fld.regs ∈ F) (f_islands : Fld.islands ∈ F)
    (f_offers : Fld.offers ∈ F) (h : Keeps F s t) (r : StrReq) (status : Nat) (outLen : Nat) :
    Keeps F s (State.strFinish t r status outLen) := by
  unfold State.strFinish
  with_reducible repeat' first
     | exact Keeps.refl _ | assumption | apply State.slotUpdate_keeps | apply State.strReport_keeps

theorem State.strAdvance_keeps {F : List Fld} {s t : State} (f_regs : Fld.regs ∈ F) (f_islands : Fld.islands ∈ F)
    (f_offers : Fld.offers ∈ F) (f_str : Fld.str ∈ F) (n : Nat) (h : Keeps F s t) : Keeps F s (State.strAdvance n t) := by
  induction n generalizing t with
  | zero => unfold State.strAdvance; exact State.setF_keeps f_regs h _ _
  | succ n ih =>
    unfold State.strAdvance
    split
    · refine Keeps.ite (ih (State.strFinish_keeps f_regs f_islands f_offers (Keeps.upd_str f_str h) _ _ _)) (State.setF_keeps f_regs h _ _)
    · exact State.setF_keeps f_regs h _ _

theorem State.strRequest_keeps {F : List Fld} {s t : State} (f_regs : Fld.regs ∈ F) (f_islands : Fld.islands ∈ F)
    (f_offers : Fld.offers ∈ F) (f_str : Fld.str ∈ F) (h : Keeps F s t) (init : Nat) (bytes : List Byte) :
    Keeps F s (State.strRequest t init bytes) := by
  unfold State.strRequest
  with_reducible repeat' first
     | exact Keeps.refl _ | assumption | apply Keeps.ite | apply Keeps.ite2 | apply State.incSat_keeps
     | apply State.slotFilling_keeps | apply State.strAdvance_keeps | apply State.strReport_keeps
     | (extract_lets +onlyGivenNames x; clear_value x) | split | dsimp only | apply Keeps.upd_str

theorem execStrRequest_keeps {F : List Fld} {s t : State} (f_regs : Fld.regs ∈ F) (f_islands : Fld.islands ∈ F)
    (f_offers : Fld.offers ∈ F) (f_str : Fld.str ∈ F) (h : Keeps F s t) (init : Byte) (bytes : List Byte) :
    KeepsOut F s (execStrRequest init bytes t) := by
  unfold execStrRequest
  with_reducible repeat' first
     | apply KeepsOut.next | exact Keeps.refl _ | assumption | apply KeepsOut.ite | apply Keeps.ite | apply State.strRequest_keeps
     | apply KeepsOut.refused

theorem State.strRun_keeps {F : List Fld} {s t : State} (f_regs : Fld.regs ∈ F) (f_islands : Fld.islands ∈ F)
    (f_offers : Fld.offers ∈ F) (f_str : Fld.str ∈ F) (h : Keeps F s t) (op : Nat) (k : State → StrReq → Nat × Nat × State)
    (h_k : ∀ y0 : State, Keeps F s y0 → ∀ y1,  Keeps F s (k y0 y1).2.2) :
    Keeps F s (State.strRun t op k) := by
  unfold State.strRun
  with_reducible repeat' first
     | exact Keeps.refl _ | assumption | apply Keeps.ite | apply State.strAdvance_keeps | apply State.strFinish_keeps | apply h_k
     | (extract_lets +onlyGivenNames x; clear_value x) | split | dsimp only | apply Keeps.upd_str

theorem strFail_keeps {F : List Fld} {s t : State}  (h : Keeps F s t) (status : Nat) :
    Keeps F s (strFail t status).2.2 := by
  unfold strFail
  with_reducible repeat' first
     | exact Keeps.refl _ | assumption

theorem State.strOut_keeps {F : List Fld} {s t : State} (f_mem : Fld.mem ∈ F) (f_offers : Fld.offers ∈ F) (h : Keeps F s t)
    (r : StrReq) (bytes : List Byte) :
    Keeps F s (State.strOut t r bytes).2.2 := by
  unfold State.strOut
  with_reducible repeat' first
     | exact Keeps.refl _ | assumption | apply State.storeWrite_keeps

theorem strGuard_keeps {F : List Fld} {s t : State}  (h : Keeps F s t) (lenOk : Bool) (rangeOk : Bool) (slot : Option Nat)
    (k : Unit → Nat × Nat × State) (h_k : ∀ y0, Keeps F s (k y0).2.2) :
    Keeps F s (strGuard t lenOk rangeOk slot k).2.2 := by
  unfold strGuard
  with_reducible repeat' first
     | exact Keeps.refl _ | assumption | apply Keeps.ite | apply Keeps.ite22 | apply strFail_keeps | apply h_k | split

theorem execStrRandom_keeps {F : List Fld} {s t : State} (f_free : Fld.free ∈ F) (f_regs : Fld.regs ∈ F) (f_mem : Fld.mem ∈ F)
    (f_islands : Fld.islands ∈ F) (f_offers : Fld.offers ∈ F) (f_str : Fld.str ∈ F) (h : Keeps F s t)  :
    KeepsOut F s (execStrRandom t) := by
  unfold execStrRandom
  with_reducible repeat' first
     | apply KeepsOut.next | exact Keeps.refl _ | assumption | apply KeepsOut.ite | apply Keeps.ite | apply Keeps.ite22
     | apply State.drawn_keeps | apply State.strOut_keeps | apply State.strRun_keeps | apply strFail_keeps | apply strGuard_keeps
     | intro x hx | intro y

theorem execStrSha256_keeps {F : List Fld} {s t : State} (f_regs : Fld.regs ∈ F) (f_mem : Fld.mem ∈ F)
    (f_islands : Fld.islands ∈ F) (f_offers : Fld.offers ∈ F) (f_str : Fld.str ∈ F) (h : Keeps F s t)  :
    KeepsOut F s (execStrSha256 t) := by
  unfold execStrSha256
  with_reducible repeat' first
     | apply KeepsOut.next | exact Keeps.refl _ | assumption | apply State.storeRead_keeps | apply State.strOut_keeps
     | apply State.strRun_keeps | apply strGuard_keeps | apply hf | intro x hx | intro y

theorem execStrCmacGen_keeps {F : List Fld} {s t : State} (f_regs : Fld.regs ∈ F) (f_mem : Fld.mem ∈ F)
    (f_islands : Fld.islands ∈ F) (f_offers : Fld.offers ∈ F) (f_str : Fld.str ∈ F) (h : Keeps F s t)  :
    KeepsOut F s (execStrCmacGen t) := by
  unfold execStrCmacGen
  with_reducible repeat' first
     | apply KeepsOut.next | exact Keeps.refl _ | assumption | apply State.storeRead_keeps | apply State.strOut_keeps
     | apply State.strRun_keeps | apply strGuard_keeps | apply hf | intro x hx | intro y

theorem execStrCmacVerify_keeps {F : List Fld} {s t : State} (f_regs : Fld.regs ∈ F) (f_islands : Fld.islands ∈ F)
    (f_offers : Fld.offers ∈ F) (f_str : Fld.str ∈ F) (h : Keeps F s t)  :
    KeepsOut F s (execStrCmacVerify t) := by
  unfold execStrCmacVerify
  with_reducible repeat' first
     | apply KeepsOut.next | exact Keeps.refl _ | assumption | apply KeepsOut.ite | apply Keeps.ite | apply Keeps.ite2
     | apply Keeps.ite22 | apply State.storeRead_keeps | apply State.strRun_keeps | apply strFail_keeps | apply strGuard_keeps
     | apply hf | intro x hx | intro y

theorem execStrAesCtr_keeps {F : List Fld} {s t : State} (f_regs : Fld.regs ∈ F) (f_mem : Fld.mem ∈ F)
    (f_islands : Fld.islands ∈ F) (f_offers : Fld.offers ∈ F) (f_str : Fld.str ∈ F) (h : Keeps F s t)  :
    KeepsOut F s (execStrAesCtr t) := by
  unfold execStrAesCtr
  with_reducible repeat' first
     | apply KeepsOut.next | exact Keeps.refl _ | assumption | apply State.storeRead_keeps | apply State.strOut_keeps
     | apply State.strRun_keeps | apply strGuard_keeps | apply hf | intro x hx | intro y

theorem execStrEcdsaVerify_keeps {F : List Fld} {s t : State} (f_regs : Fld.regs ∈ F) (f_islands : Fld.islands ∈ F)
    (f_offers : Fld.offers ∈ F) (f_str : Fld.str ∈ F) (h : Keeps F s t)  :
    KeepsOut F s (execStrEcdsaVerify t) := by
  unfold execStrEcdsaVerify
  with_reducible repeat' first
     | apply KeepsOut.next | exact Keeps.refl _ | assumption | apply KeepsOut.ite | apply Keeps.ite | apply Keeps.ite2
     | apply Keeps.ite22 | apply State.storeRead_keeps | apply State.strRun_keeps | apply strFail_keeps | apply strGuard_keeps
     | apply hf | intro x hx | intro y

theorem State.macsecShow_keeps {F : List Fld} {s t : State} (f_regs : Fld.regs ∈ F) (h : Keeps F s t) (p : Nat) :
    Keeps F s (State.macsecShow t p) := by
  unfold State.macsecShow
  with_reducible repeat' first
     | exact Keeps.refl _ | assumption | apply State.setF_keeps

theorem State.sakLoad_keeps {F : List Fld} {s t : State} (f_regs : Fld.regs ∈ F) (f_eth : Fld.eth ∈ F) (h : Keeps F s t)
    (k : Nat) :
    Keeps F s (State.sakLoad t k) := by
  unfold State.sakLoad
  with_reducible repeat' first
     | exact Keeps.refl _ | assumption | apply Keeps.ite | apply Keeps.ite2 | apply State.macsecShow_keeps
     | apply State.setF_keeps | apply hf | intro x hx | intro y | (extract_lets +onlyGivenNames x; clear_value x) | split
     | dsimp only | apply Keeps.upd_eth

theorem State.importKey_keeps {F : List Fld} {s t : State} (f_regs : Fld.regs ∈ F) (f_eth : Fld.eth ∈ F) (f_keys : Fld.keys ∈ F)
    (f_acc : Fld.acc ∈ F) (h : Keeps F s t) (k : Nat) (kind : Nat) (use : Nat) (user : Nat) (ctr : Nat) (half : Nat)
    (bytes : List Byte) :
    Keeps F s (State.importKey t k kind use user ctr half bytes) := by
  unfold State.importKey
  with_reducible repeat' first
     | exact Keeps.refl _ | assumption | apply Keeps.ite | apply Keeps.ite2 | apply State.sakLoad_keeps | apply State.setKey_keeps
     | (extract_lets +onlyGivenNames x; clear_value x) | split | dsimp only | apply Keeps.upd_acc

theorem execKeyImport_keeps {F : List Fld} {s t : State} (f_regs : Fld.regs ∈ F) (f_islands : Fld.islands ∈ F)
    (f_offers : Fld.offers ∈ F) (f_str : Fld.str ∈ F) (f_eth : Fld.eth ∈ F) (f_keys : Fld.keys ∈ F) (f_acc : Fld.acc ∈ F)
    (h : Keeps F s t)  :
    KeepsOut F s (execKeyImport t) := by
  unfold execKeyImport
  with_reducible repeat' first
     | apply KeepsOut.next | exact Keeps.refl _ | assumption | apply KeepsOut.ite | apply Keeps.ite | apply Keeps.ite2
     | apply Keeps.ite22 | apply State.importKey_keeps | apply State.stampKey_keeps | apply State.storeRead_keeps
     | apply State.strRun_keeps | apply strFail_keeps | apply strGuard_keeps | apply hf | intro x hx | intro y
     | (extract_lets +onlyGivenNames x; refine Keeps.cut2 F s x ?_ (fun hx => ?_); rotate_left 1; clear_value x; rotate_left 1; unfold x)
     | split

theorem execKeyErase_keeps {F : List Fld} {s t : State} (f_regs : Fld.regs ∈ F) (f_islands : Fld.islands ∈ F)
    (f_offers : Fld.offers ∈ F) (f_str : Fld.str ∈ F) (f_keys : Fld.keys ∈ F) (h : Keeps F s t)  :
    KeepsOut F s (execKeyErase t) := by
  unfold execKeyErase
  with_reducible repeat' first
     | apply KeepsOut.next | exact Keeps.refl _ | assumption | apply KeepsOut.ite | apply Keeps.ite | apply Keeps.ite2
     | apply Keeps.ite22 | apply State.eraseStamped_keeps | apply State.macsecShow_keeps | apply State.strRun_keeps
     | apply strFail_keeps | apply hf | intro x hx | intro y

theorem State.ccBeat_keeps {F : List Fld} {s t : State} (f_regs : Fld.regs ∈ F) (f_str : Fld.str ∈ F) (h : Keeps F s t)
    (init : Nat) :
    Keeps F s (State.ccBeat t init) := by
  unfold State.ccBeat
  with_reducible repeat' first
     | exact Keeps.refl _ | assumption | apply Keeps.ite | apply Keeps.ite2 | apply State.setF_keeps
     | (extract_lets +onlyGivenNames x; first | (refine Keeps.cut F s x ?_ (fun hx => ?_); rotate_left 1; clear_value x; rotate_left 1; unfold x) | clear_value x)
     | split | dsimp only | apply Keeps.upd_str

theorem execHbDisarm_keeps {F : List Fld} {s t : State} (f_regs : Fld.regs ∈ F) (f_islands : Fld.islands ∈ F)
    (f_offers : Fld.offers ∈ F) (f_str : Fld.str ∈ F) (h : Keeps F s t)  :
    KeepsOut F s (execHbDisarm t) := by
  unfold execHbDisarm
  with_reducible repeat' first
     | apply KeepsOut.next | exact Keeps.refl _ | assumption | apply KeepsOut.ite | apply Keeps.ite | apply Keeps.ite2
     | apply Keeps.ite22 | apply State.setF_keeps | apply State.strRun_keeps | apply strFail_keeps | intro x hx | intro y

theorem State.releaseReqLink_keeps {F : List Fld} {s t : State} (f_regs : Fld.regs ∈ F) (f_islands : Fld.islands ∈ F)
    (f_offers : Fld.offers ∈ F) (f_links : Fld.links ∈ F) (h : Keeps F s t) (init : Nat) (n : Nat) :
    Keeps F s (State.releaseReqLink t init n) := by
  unfold State.releaseReqLink
  with_reducible repeat' first
     | exact Keeps.refl _ | assumption | apply Keeps.ite | apply State.fsReleaseWrite_keeps | apply State.setLnk_keeps

theorem execFsReleaseReq_keeps {F : List Fld} {s t : State} (f_regs : Fld.regs ∈ F) (f_islands : Fld.islands ∈ F)
    (f_offers : Fld.offers ∈ F) (f_links : Fld.links ∈ F) (f_str : Fld.str ∈ F) (h : Keeps F s t)  :
    KeepsOut F s (execFsReleaseReq t) := by
  unfold execFsReleaseReq
  with_reducible repeat' first
     | apply KeepsOut.next | exact Keeps.refl _ | assumption | apply KeepsOut.ite | apply Keeps.ite | apply Keeps.ite2
     | apply Keeps.ite22 | apply State.releaseReqLink_keeps | apply State.strRun_keeps | apply strFail_keeps | apply Keeps.foldl
     | apply Keeps.foldl2 | apply Keeps.foldl1 | intro x hx | intro y

theorem State.lifecycleTo_keeps {F : List Fld} {s t : State} (f_regs : Fld.regs ∈ F) (f_boot : Fld.boot ∈ F) (h : Keeps F s t)
    (target : Nat) :
    Keeps F s (State.lifecycleTo t target) := by
  unfold State.lifecycleTo
  with_reducible repeat' first
     | exact Keeps.refl _ | assumption | apply State.setF_keeps
     | (extract_lets +onlyGivenNames x; first | (refine Keeps.cut F s x ?_ (fun hx => ?_); rotate_left 1; clear_value x; rotate_left 1; unfold x) | clear_value x)
     | dsimp only | apply Keeps.upd_boot

theorem execLifecycleRequest_keeps {F : List Fld} {s t : State} (f_regs : Fld.regs ∈ F) (f_islands : Fld.islands ∈ F)
    (f_offers : Fld.offers ∈ F) (f_boot : Fld.boot ∈ F) (f_str : Fld.str ∈ F) (f_keys : Fld.keys ∈ F) (h : Keeps F s t)  :
    KeepsOut F s (execLifecycleRequest t) := by
  unfold execLifecycleRequest
  with_reducible repeat' first
     | apply KeepsOut.next | exact Keeps.refl _ | assumption | apply KeepsOut.ite | apply Keeps.ite | apply Keeps.ite2
     | apply Keeps.ite22 | apply State.eraseStamped_keeps | apply State.lifecycleTo_keeps | apply State.storeRead_keeps
     | apply State.strRun_keeps | apply strFail_keeps | apply strGuard_keeps | apply Keeps.foldl | apply Keeps.foldl2
     | apply Keeps.foldl1 | apply hf | intro x hx | intro y

theorem execEntropyFail_keeps {F : List Fld} {s t : State} (f_regs : Fld.regs ∈ F) (f_islands : Fld.islands ∈ F)
    (h : Keeps F s t)  :
    KeepsOut F s (execEntropyFail t) := by
  unfold execEntropyFail
  with_reducible repeat' first
     | apply KeepsOut.next | exact Keeps.refl _ | assumption | apply State.raise_keeps | apply State.setF_keeps
     | apply State.stampStr_keeps

theorem execEntropyRecovery_keeps {F : List Fld} {s t : State} (f_regs : Fld.regs ∈ F) (h : Keeps F s t)  :
    KeepsOut F s (execEntropyRecovery t) := by
  unfold execEntropyRecovery
  with_reducible repeat' first
     | apply KeepsOut.next | exact Keeps.refl _ | assumption | apply State.setF_keeps

theorem execDrbgReseed_keeps {F : List Fld} {s t : State} (f_regs : Fld.regs ∈ F) (h : Keeps F s t)  :
    KeepsOut F s (execDrbgReseed t) := by
  unfold execDrbgReseed
  with_reducible repeat' first
     | apply KeepsOut.next | exact Keeps.refl _ | assumption | apply KeepsOut.ite | apply Keeps.ite | apply State.incMod_keeps

theorem State.debugBoot_keeps {F : List Fld} {s t : State} (f_regs : Fld.regs ∈ F) (h : Keeps F s t)  :
    Keeps F s (State.debugBoot t) := by
  unfold State.debugBoot
  with_reducible repeat' first
     | exact Keeps.refl _ | assumption | apply Keeps.ite | apply State.setF_keeps

theorem State.stampDebug_keeps {F : List Fld} {s t : State} (f_regs : Fld.regs ∈ F) (f_islands : Fld.islands ∈ F)
    (h : Keeps F s t) (method : Nat) (outcome : Nat) :
    Keeps F s (State.stampDebug t method outcome) := by
  unfold State.stampDebug
  with_reducible repeat' first
     | exact Keeps.refl _ | assumption | apply State.stampStr_keeps

theorem State.debugWrong_keeps {F : List Fld} {s t : State} (f_regs : Fld.regs ∈ F) (f_islands : Fld.islands ∈ F)
    (f_str : Fld.str ∈ F) (h : Keeps F s t) (method : Nat) :
    Keeps F s (State.debugWrong t method) := by
  unfold State.debugWrong
  with_reducible repeat' first
     | exact Keeps.refl _ | assumption | apply Keeps.ite | apply Keeps.ite2 | apply State.raise_keeps | apply State.setF_keeps
     | apply State.stampDebug_keeps
     | (extract_lets +onlyGivenNames x; first | (refine Keeps.cut F s x ?_ (fun hx => ?_); rotate_left 1; clear_value x; rotate_left 1; unfold x) | clear_value x)
     | split | dsimp only | apply Keeps.upd_str

theorem State.debugAnswer_keeps {F : List Fld} {s t : State} (f_regs : Fld.regs ∈ F) (f_islands : Fld.islands ∈ F)
    (f_str : Fld.str ∈ F) (h : Keeps F s t) (method : Nat) (right : Bool) :
    Keeps F s (State.debugAnswer t method right) := by
  unfold State.debugAnswer
  with_reducible repeat' first
     | exact Keeps.refl _ | assumption | apply Keeps.ite | apply State.debugWrong_keeps | apply State.setF_keeps
     | apply State.stampDebug_keeps | (extract_lets +onlyGivenNames x; clear_value x) | split | apply Keeps.upd_str

theorem execDebugPassword_keeps {F : List Fld} {s t : State} (f_regs : Fld.regs ∈ F) (f_islands : Fld.islands ∈ F)
    (f_str : Fld.str ∈ F) (h : Keeps F s t) (pw : BitVec 128) :
    KeepsOut F s (execDebugPassword pw t) := by
  unfold execDebugPassword
  with_reducible repeat' first
     | apply KeepsOut.next | exact Keeps.refl _ | assumption | apply State.debugAnswer_keeps

theorem execDebugChallenge_keeps {F : List Fld} {s t : State} (f_free : Fld.free ∈ F) (f_str : Fld.str ∈ F) (h : Keeps F s t)  :
    KeepsOut F s (execDebugChallenge t) := by
  unfold execDebugChallenge
  with_reducible repeat' first
     | apply KeepsOut.next | exact Keeps.refl _ | assumption | apply KeepsOut.ite | apply Keeps.ite | apply Keeps.ite2
     | apply State.drawn_keeps
     | (extract_lets +onlyGivenNames x; first | (refine Keeps.cut F s x ?_ (fun hx => ?_); rotate_left 1; clear_value x; rotate_left 1; unfold x) | clear_value x)
     | split | dsimp only | apply Keeps.upd_str

theorem execDebugResponse_keeps {F : List Fld} {s t : State} (f_regs : Fld.regs ∈ F) (f_islands : Fld.islands ∈ F)
    (f_str : Fld.str ∈ F) (h : Keeps F s t) (tag : BitVec 128) :
    KeepsOut F s (execDebugResponse tag t) := by
  unfold execDebugResponse
  with_reducible repeat' first
     | apply KeepsOut.next | exact Keeps.refl _ | assumption | apply KeepsOut.ite | apply Keeps.ite
     | apply State.debugAnswer_keeps | apply hf | intro x hx | intro y | (extract_lets +onlyGivenNames x; clear_value x) | split
     | dsimp only | apply Keeps.upd_str

theorem execDebugBackoffEnd_keeps {F : List Fld} {s t : State} (f_regs : Fld.regs ∈ F) (f_str : Fld.str ∈ F) (h : Keeps F s t)  :
    KeepsOut F s (execDebugBackoffEnd t) := by
  unfold execDebugBackoffEnd
  with_reducible repeat' first
     | apply KeepsOut.next | exact Keeps.refl _ | assumption | apply KeepsOut.ite | apply Keeps.ite | apply State.setF_keeps
     | (extract_lets +onlyGivenNames x; first | (refine Keeps.cut F s x ?_ (fun hx => ?_); rotate_left 1; clear_value x; rotate_left 1; unfold x) | clear_value x)
     | split | apply Keeps.upd_str

theorem execTapBypass_keeps {F : List Fld} {s t : State} (f_str : Fld.str ∈ F) (h : Keeps F s t)  :
    KeepsOut F s (execTapBypass t) := by
  unfold execTapBypass
  with_reducible repeat' first
     | apply KeepsOut.next | exact Keeps.refl _ | assumption | apply KeepsOut.ite | apply Keeps.ite | apply Keeps.ite2
     | (extract_lets +onlyGivenNames x; clear_value x) | split | dsimp only | apply Keeps.upd_str

theorem execTapIdcode_keeps {F : List Fld} {s t : State} (f_str : Fld.str ∈ F) (h : Keeps F s t)  :
    KeepsOut F s (execTapIdcode t) := by
  unfold execTapIdcode
  with_reducible repeat' first
     | apply KeepsOut.next | exact Keeps.refl _ | assumption | apply KeepsOut.ite | apply Keeps.ite | apply Keeps.ite2
     | (extract_lets +onlyGivenNames x; clear_value x) | split | dsimp only | apply Keeps.upd_str

end Sys2Proof.Machine
end

