-- ==== Sys2Proof/Laws/KeepsAccess.lean ====
section
/-! SUPPORT. What the operations and meanings of Machine/Access.lean keep. -/

namespace Sys2Proof.Machine

theorem State.stampAcc_keeps {F : List Fld} {s t : State} (f_regs : Fld.regs ∈ F) (f_islands : Fld.islands ∈ F)
    (h : Keeps F s t) (event : Nat) (data : Nat) :
    Keeps F s (State.stampAcc t event data) := by
  unfold State.stampAcc
  with_reducible repeat' first
     | exact Keeps.refl _ | assumption | apply State.stamp_keeps

theorem State.accEvent_keeps {F : List Fld} {s t : State} (f_regs : Fld.regs ∈ F) (f_islands : Fld.islands ∈ F)
    (f_offers : Fld.offers ∈ F) (h : Keeps F s t) (code : Nat) (arg : Nat) (data : Nat) :
    Keeps F s (State.accEvent t code arg data) := by
  unfold State.accEvent
  with_reducible repeat' first
     | exact Keeps.refl _ | assumption | apply State.stampAcc_keeps | apply State.unitCue_keeps

theorem State.accRefuse_keeps {F : List Fld} {s t : State} (f_regs : Fld.regs ∈ F) (h : Keeps F s t) (init : Nat) :
    Keeps F s (State.accRefuse t init) := by
  unfold State.accRefuse
  with_reducible repeat' first
     | exact Keeps.refl _ | assumption | apply State.incSat_keeps | apply State.setF_keeps

theorem State.accWrite_keeps {F : List Fld} {s t : State} (f_regs : Fld.regs ∈ F) (h : Keeps F s t) (init : Nat)
    (k : State → State) (h_k : ∀ y0 : State, Keeps F s y0 →  Keeps F s (k y0)) :
    Keeps F s (State.accWrite t init k) := by
  unfold State.accWrite
  with_reducible repeat' first
     | exact Keeps.refl _ | assumption | apply Keeps.ite | apply State.absentWrite_keeps | apply State.accRefuse_keeps | apply h_k

theorem execLfAntennaFault_keeps {F : List Fld} {s t : State} (f_regs : Fld.regs ∈ F) (f_islands : Fld.islands ∈ F)
    (f_offers : Fld.offers ∈ F) (h : Keeps F s t) (a : Fin 6) (short : Bool) :
    KeepsOut F s (execLfAntennaFault a short t) := by
  unfold execLfAntennaFault
  with_reducible repeat' first
     | apply KeepsOut.next | exact Keeps.refl _ | assumption | apply KeepsOut.ite | apply Keeps.ite | apply Keeps.ite2
     | apply State.accEvent_keeps | apply State.raise_keeps | apply State.setF_keeps

theorem State.authEnd_keeps {F : List Fld} {s t : State} (f_regs : Fld.regs ∈ F) (f_islands : Fld.islands ∈ F)
    (f_offers : Fld.offers ∈ F) (f_acc : Fld.acc ∈ F) (h : Keeps F s t)  :
    Keeps F s (State.authEnd t) := by
  unfold State.authEnd
  with_reducible repeat' first
     | exact Keeps.refl _ | assumption | apply Keeps.ite | apply State.accEvent_keeps | apply State.raise_keeps
     | apply State.setF_keeps | (extract_lets +onlyGivenNames x; clear_value x) | split | apply Keeps.upd_acc

theorem State.authRenew_keeps {F : List Fld} {s t : State} (f_regs : Fld.regs ∈ F) (f_acc : Fld.acc ∈ F) (h : Keeps F s t)  :
    Keeps F s (State.authRenew t) := by
  unfold State.authRenew
  with_reducible repeat' first
     | exact Keeps.refl _ | assumption | apply State.setF_keeps
     | (extract_lets +onlyGivenNames x; first | (refine Keeps.cut F s x ?_ (fun hx => ?_); rotate_left 1; clear_value x; rotate_left 1; unfold x) | clear_value x)
     | apply Keeps.upd_acc

theorem State.learnReport_keeps {F : List Fld} {s t : State} (f_regs : Fld.regs ∈ F) (f_islands : Fld.islands ∈ F)
    (f_offers : Fld.offers ∈ F) (h : Keeps F s t) (result : Nat) (idx : Nat) (auth : Nat) (op : Nat) :
    Keeps F s (State.learnReport t result idx auth op) := by
  unfold State.learnReport
  with_reducible repeat' first
     | exact Keeps.refl _ | assumption | apply Keeps.ite | apply State.accEvent_keeps | apply State.raise_keeps
     | apply State.setF_keeps

theorem State.learnEnd_keeps {F : List Fld} {s t : State} (f_regs : Fld.regs ∈ F) (f_islands : Fld.islands ∈ F)
    (f_offers : Fld.offers ∈ F) (f_acc : Fld.acc ∈ F) (h : Keeps F s t) (result : Nat) :
    Keeps F s (State.learnEnd t result) := by
  unfold State.learnEnd
  with_reducible repeat' first
     | exact Keeps.refl _ | assumption | apply State.learnReport_keeps | apply State.setF_keeps
     | (extract_lets +onlyGivenNames x; first | (refine Keeps.cut F s x ?_ (fun hx => ?_); rotate_left 1; clear_value x; rotate_left 1; unfold x) | clear_value x)
     | dsimp only | apply Keeps.upd_acc

theorem State.revokeNow_keeps {F : List Fld} {s t : State} (f_regs : Fld.regs ∈ F) (f_islands : Fld.islands ∈ F)
    (f_offers : Fld.offers ∈ F) (f_keys : Fld.keys ∈ F) (f_acc : Fld.acc ∈ F) (h : Keeps F s t) (i : Nat) :
    Keeps F s (State.revokeNow t i) := by
  unfold State.revokeNow
  with_reducible repeat' first
     | exact Keeps.refl _ | assumption | apply Keeps.ite | apply State.authEnd_keeps | apply State.eraseStamped_keeps
     | apply State.learnEnd_keeps | apply State.setF_keeps | (extract_lets +onlyGivenNames x; clear_value x) | split
     | apply Keeps.upd_acc

theorem State.revokeDue_keeps {F : List Fld} {s t : State} (f_regs : Fld.regs ∈ F) (f_islands : Fld.islands ∈ F)
    (f_offers : Fld.offers ∈ F) (f_keys : Fld.keys ∈ F) (f_acc : Fld.acc ∈ F) (h : Keeps F s t) (i : Nat) :
    Keeps F s (State.revokeDue t i) := by
  unfold State.revokeDue
  with_reducible repeat' first
     | exact Keeps.refl _ | assumption | apply Keeps.ite | apply State.revokeNow_keeps | apply State.setF_keeps
     | (extract_lets +onlyGivenNames x; first | (refine Keeps.cut F s x ?_ (fun hx => ?_); rotate_left 1; clear_value x; rotate_left 1; unfold x) | clear_value x)
     | split | apply Keeps.upd_acc

theorem State.pollReq_keeps {F : List Fld} {s t : State} (f_regs : Fld.regs ∈ F) (f_acc : Fld.acc ∈ F) (h : Keeps F s t)
    (init : Nat) (ant : Nat) (tag : Nat) :
    Keeps F s (State.pollReq t init ant tag) := by
  unfold State.pollReq
  with_reducible repeat' first
     | exact Keeps.refl _ | assumption | apply State.accQueue_keeps | apply State.accWrite_keeps | apply hf | intro x hx

theorem execAccPollRequest_keeps {F : List Fld} {s t : State} (f_regs : Fld.regs ∈ F) (f_acc : Fld.acc ∈ F) (h : Keeps F s t)
    (init : Byte) (ant : BitVec 6) (tag : Byte) :
    KeepsOut F s (execAccPollRequest init ant tag t) := by
  unfold execAccPollRequest
  with_reducible repeat' first
     | apply KeepsOut.next | exact Keeps.refl _ | assumption | apply State.pollReq_keeps

theorem execPollStart_keeps {F : List Fld} {s t : State} (f_regs : Fld.regs ∈ F) (f_acc : Fld.acc ∈ F) (h : Keeps F s t)  :
    KeepsOut F s (execPollStart t) := by
  unfold execPollStart
  with_reducible repeat' first
     | apply KeepsOut.next | exact Keeps.refl _ | assumption | apply KeepsOut.ite | apply Keeps.ite | apply Keeps.ite2
     | apply State.incMod_keeps | apply State.setF_keeps | apply State.setReg_keeps
     | (extract_lets +onlyGivenNames x; clear_value x) | split | dsimp only | apply Keeps.upd_acc

theorem State.pollEnd_keeps {F : List Fld} {s t : State} (f_regs : Fld.regs ∈ F) (f_islands : Fld.islands ∈ F)
    (f_offers : Fld.offers ∈ F) (f_keys : Fld.keys ∈ F) (f_acc : Fld.acc ∈ F) (h : Keeps F s t) (p : AccPoll) (outcome : Nat)
    (session : Nat) :
    Keeps F s (State.pollEnd t p outcome session) := by
  unfold State.pollEnd
  with_reducible repeat' first
     | exact Keeps.refl _ | assumption | apply Keeps.ite | apply Keeps.ite2 | apply State.accEvent_keeps
     | apply State.authRenew_keeps | apply State.revokeNow_keeps | apply State.setF_keeps
     | (extract_lets +onlyGivenNames x; first | (refine Keeps.cut F s x ?_ (fun hx => ?_); rotate_left 1; clear_value x; rotate_left 1; unfold x) | clear_value x)
     | split | dsimp only | apply Keeps.upd_acc

theorem State.roundBegin_keeps {F : List Fld} {s t : State} (f_acc : Fld.acc ∈ F) (h : Keeps F s t) (mask : Nat) (nonce : Nat)
    (addressed : Option Nat) :
    Keeps F s (State.roundBegin t mask nonce addressed) := by
  unfold State.roundBegin
  with_reducible repeat' first
     | exact Keeps.refl _ | assumption | (extract_lets +onlyGivenNames x; clear_value x) | dsimp only | apply Keeps.upd_acc

theorem State.roundNonce_keeps {F : List Fld} {s t : State} (f_free : Fld.free ∈ F) (f_acc : Fld.acc ∈ F) (h : Keeps F s t)
    (mask : Nat) (given : Option (Nat × Nat)) (addressed : Option Nat) :
    Keeps F s (State.roundNonce t mask given addressed) := by
  unfold State.roundNonce
  with_reducible repeat' first
     | exact Keeps.refl _ | assumption | apply Keeps.ite | apply Keeps.ite2 | apply State.drawn_keeps
     | apply State.roundBegin_keeps
     | (extract_lets +onlyGivenNames x; first | (refine Keeps.cut F s x ?_ (fun hx => ?_); rotate_left 1; clear_value x; rotate_left 1; unfold x) | clear_value x)
     | split | dsimp only | apply Keeps.upd_acc

theorem execAccRoundStart_keeps {F : List Fld} {s t : State} (f_free : Fld.free ∈ F) (f_regs : Fld.regs ∈ F)
    (f_islands : Fld.islands ∈ F) (f_offers : Fld.offers ∈ F) (f_keys : Fld.keys ∈ F) (f_acc : Fld.acc ∈ F) (h : Keeps F s t)  :
    KeepsOut F s (execAccRoundStart t) := by
  unfold execAccRoundStart
  with_reducible repeat' first
     | apply KeepsOut.next | exact Keeps.refl _ | assumption | apply KeepsOut.ite | apply Keeps.ite | apply Keeps.ite2
     | apply State.learnEnd_keeps | apply State.pollEnd_keeps | apply State.roundNonce_keeps | apply hf | intro x hx | intro y
     | (extract_lets +onlyGivenNames x; first | (refine Keeps.cut F s x ?_ (fun hx => ?_); rotate_left 1; clear_value x; rotate_left 1; unfold x) | clear_value x)
     | split | dsimp only | apply Keeps.upd_acc

theorem State.frameVerdict_keeps {F : List Fld} {s t : State} (f_regs : Fld.regs ∈ F) (f_islands : Fld.islands ∈ F)
    (h : Keeps F s t) (slot : Nat) (idx : Nat) (verdict : Nat) (err : Int) :
    Keeps F s (State.frameVerdict t slot idx verdict err) := by
  unfold State.frameVerdict
  with_reducible repeat' first
     | exact Keeps.refl _ | assumption | apply State.slotUpdate_keeps | apply State.stampAcc_keeps

theorem execUhfFrame_keeps {F : List Fld} {s t : State} (f_free : Fld.free ∈ F) (f_regs : Fld.regs ∈ F)
    (f_islands : Fld.islands ∈ F) (f_acc : Fld.acc ∈ F) (h : Keeps F s t) (bytes : List Byte) :
    KeepsOut F s (execUhfFrame bytes t) := by
  unfold execUhfFrame
  with_reducible repeat' first
     | apply KeepsOut.next | exact Keeps.refl _ | assumption | apply KeepsOut.ite | apply Keeps.ite | apply Keeps.ite2
     | apply State.drawn_keeps | apply State.frameVerdict_keeps | apply State.incSat_keeps | apply KeepsOut.refused | intro x hx
     | intro y | (extract_lets +onlyGivenNames x; clear_value x) | split | dsimp only | apply Keeps.upd_acc

theorem State.jamCount_keeps {F : List Fld} {s t : State} (f_regs : Fld.regs ∈ F) (f_islands : Fld.islands ∈ F)
    (f_offers : Fld.offers ∈ F) (f_acc : Fld.acc ∈ F) (h : Keeps F s t)  :
    Keeps F s (State.jamCount t) := by
  unfold State.jamCount
  with_reducible repeat' first
     | exact Keeps.refl _ | assumption | apply Keeps.ite | apply State.accEvent_keeps | apply State.incSat_keeps
     | apply State.raise_keeps
     | (extract_lets +onlyGivenNames x; first | (refine Keeps.cut F s x ?_ (fun hx => ?_); rotate_left 1; clear_value x; rotate_left 1; unfold x) | clear_value x)
     | split | dsimp only | apply Keeps.upd_acc

theorem State.judgeOne_keeps {F : List Fld} {s t : State} (f_regs : Fld.regs ∈ F) (f_islands : Fld.islands ∈ F)
    (f_offers : Fld.offers ∈ F) (f_acc : Fld.acc ∈ F) (h : Keeps F s t) (f : AccFrame) :
    Keeps F s (State.judgeOne t f) := by
  unfold State.judgeOne
  with_reducible repeat' first
     | exact Keeps.refl _ | assumption | apply Keeps.ite | apply Keeps.ite2 | apply State.frameVerdict_keeps
     | apply State.incSat_keeps | apply State.jamCount_keeps | apply State.raise_keeps | apply State.setF_keeps
     | (extract_lets +onlyGivenNames x; first | (refine Keeps.cut F s x ?_ (fun hx => ?_); rotate_left 1; clear_value x; rotate_left 1; unfold x) | clear_value x)
     | split | dsimp only | apply Keeps.upd_acc

theorem execUhfFrameJudge_keeps {F : List Fld} {s t : State} (f_regs : Fld.regs ∈ F) (f_islands : Fld.islands ∈ F)
    (f_offers : Fld.offers ∈ F) (f_acc : Fld.acc ∈ F) (h : Keeps F s t)  :
    KeepsOut F s (execUhfFrameJudge t) := by
  unfold execUhfFrameJudge
  with_reducible repeat' first
     | apply KeepsOut.next | exact Keeps.refl _ | assumption | apply State.judgeOne_keeps
     | (extract_lets +onlyGivenNames x; clear_value x) | split | dsimp only | apply Keeps.upd_acc

theorem State.proveClose_keeps {F : List Fld} {s t : State} (f_regs : Fld.regs ∈ F) (f_islands : Fld.islands ∈ F)
    (f_offers : Fld.offers ∈ F) (f_acc : Fld.acc ∈ F) (h : Keeps F s t)  :
    Keeps F s (State.proveClose t) := by
  unfold State.proveClose
  with_reducible repeat' first
     | exact Keeps.refl _ | assumption | apply Keeps.ite | apply Keeps.ite2 | apply State.learnEnd_keeps | apply State.setF_keeps
     | (extract_lets +onlyGivenNames x; first | (refine Keeps.cut F s x ?_ (fun hx => ?_); rotate_left 1; clear_value x; rotate_left 1; unfold x) | clear_value x)
     | split | dsimp only | apply Keeps.upd_acc

theorem State.pollRound_keeps {F : List Fld} {s t : State} (f_regs : Fld.regs ∈ F) (f_islands : Fld.islands ∈ F)
    (f_offers : Fld.offers ∈ F) (f_keys : Fld.keys ∈ F) (f_acc : Fld.acc ∈ F) (h : Keeps F s t) (p : AccPoll) :
    Keeps F s (State.pollRound t p) := by
  unfold State.pollRound
  with_reducible repeat' first
     | exact Keeps.refl _ | assumption | apply Keeps.ite | apply Keeps.ite2 | apply State.pollEnd_keeps | apply State.setF_keeps
     | apply hf | intro x hx | intro y | (extract_lets +onlyGivenNames x; clear_value x) | split | dsimp only
     | apply Keeps.upd_acc

theorem execAccRoundClose_keeps {F : List Fld} {s t : State} (f_regs : Fld.regs ∈ F) (f_islands : Fld.islands ∈ F)
    (f_offers : Fld.offers ∈ F) (f_keys : Fld.keys ∈ F) (f_acc : Fld.acc ∈ F) (h : Keeps F s t)  :
    KeepsOut F s (execAccRoundClose t) := by
  unfold execAccRoundClose
  with_reducible repeat' first
     | apply KeepsOut.next | exact Keeps.refl _ | assumption | apply KeepsOut.ite | apply Keeps.ite | apply State.incSat_keeps
     | apply State.judgeOne_keeps | apply State.pollRound_keeps | apply State.proveClose_keeps | apply State.raise_keeps
     | apply Keeps.foldl | intro x hx | intro y | (extract_lets +onlyGivenNames x; clear_value x) | split | dsimp only
     | apply Keeps.upd_acc

theorem execPollNonceTimeout_keeps {F : List Fld} {s t : State} (f_regs : Fld.regs ∈ F) (f_islands : Fld.islands ∈ F)
    (f_offers : Fld.offers ∈ F) (f_keys : Fld.keys ∈ F) (f_acc : Fld.acc ∈ F) (h : Keeps F s t)  :
    KeepsOut F s (execPollNonceTimeout t) := by
  unfold execPollNonceTimeout
  with_reducible repeat' first
     | apply KeepsOut.next | exact Keeps.refl _ | assumption | apply KeepsOut.ite | apply Keeps.ite | apply State.pollEnd_keeps
     | split

theorem execSearchRound_keeps {F : List Fld} {s t : State} (f_regs : Fld.regs ∈ F) (f_islands : Fld.islands ∈ F)
    (f_trx : Fld.trx ∈ F) (f_pwr : Fld.pwr ∈ F) (f_acc : Fld.acc ∈ F) (f_trk : Fld.trk ∈ F) (h : Keeps F s t)  :
    KeepsOut F s (execSearchRound t) := by
  unfold execSearchRound
  with_reducible repeat' first
     | apply KeepsOut.next | exact Keeps.refl _ | assumption | apply KeepsOut.ite | apply Keeps.ite | apply Keeps.ite2
     | apply State.accQueue_keeps | apply State.raise_keeps | apply State.sleepRound_keeps | apply State.wakeSource_keeps

theorem execSearchStop_keeps {F : List Fld} {s t : State} (f_regs : Fld.regs ∈ F) (f_islands : Fld.islands ∈ F)
    (f_offers : Fld.offers ∈ F) (f_acc : Fld.acc ∈ F) (h : Keeps F s t)  :
    KeepsOut F s (execSearchStop t) := by
  unfold execSearchStop
  with_reducible repeat' first
     | apply KeepsOut.next | exact Keeps.refl _ | assumption | apply KeepsOut.ite | apply Keeps.ite | apply State.accEvent_keeps
     | apply State.raise_keeps | (extract_lets +onlyGivenNames x; clear_value x) | split | apply Keeps.upd_acc

theorem State.dealerWait_keeps {F : List Fld} {s t : State} (f_free : Fld.free ∈ F) (f_regs : Fld.regs ∈ F) (h : Keeps F s t)  :
    Keeps F s (State.dealerWait t) := by
  unfold State.dealerWait
  with_reducible repeat' first
     | exact Keeps.refl _ | assumption | apply Keeps.ite | apply State.drawn_keeps | apply State.setF_keeps
     | apply State.setReg_keeps | apply Keeps.foldl | apply hf | intro x hx | intro y

theorem State.learnGo_keeps {F : List Fld} {s t : State} (f_regs : Fld.regs ∈ F) (f_islands : Fld.islands ∈ F)
    (f_offers : Fld.offers ∈ F) (f_acc : Fld.acc ∈ F) (h : Keeps F s t) (idx : Nat) (auth : Nat) (op : Nat) (k : State → State)
    (h_k : ∀ y0 : State, Keeps F s y0 →  Keeps F s (k y0)) :
    Keeps F s (State.learnGo t idx auth op k) := by
  unfold State.learnGo
  with_reducible repeat' first
     | exact Keeps.refl _ | assumption | apply Keeps.ite | apply Keeps.ite2 | apply State.learnReport_keeps | apply h_k
     | (extract_lets +onlyGivenNames x; clear_value x) | split | dsimp only | apply Keeps.upd_acc

theorem State.accLearn_keeps {F : List Fld} {s t : State} (f_free : Fld.free ∈ F) (f_regs : Fld.regs ∈ F)
    (f_islands : Fld.islands ∈ F) (f_offers : Fld.offers ∈ F) (f_acc : Fld.acc ∈ F) (h : Keeps F s t) (init : Nat) (idx : Nat)
    (auth : Nat) :
    Keeps F s (State.accLearn t init idx auth) := by
  unfold State.accLearn
  with_reducible repeat' first
     | exact Keeps.refl _ | assumption | apply Keeps.ite | apply State.accWrite_keeps | apply State.dealerWait_keeps
     | apply State.learnEnd_keeps | apply State.learnGo_keeps | apply State.setF_keeps | apply hf | intro x hx | intro y
     | (extract_lets +onlyGivenNames x; first | (refine Keeps.cut F s x ?_ (fun hx => ?_); rotate_left 1; clear_value x; rotate_left 1; unfold x) | clear_value x)
     | split | apply Keeps.upd_acc

theorem execAccLearn_keeps {F : List Fld} {s t : State} (f_free : Fld.free ∈ F) (f_regs : Fld.regs ∈ F)
    (f_islands : Fld.islands ∈ F) (f_offers : Fld.offers ∈ F) (f_acc : Fld.acc ∈ F) (h : Keeps F s t) (init : Byte)
    (idx : Fin 8) (auth : Fin 4) :
    KeepsOut F s (execAccLearn init idx auth t) := by
  unfold execAccLearn
  with_reducible repeat' first
     | apply KeepsOut.next | exact Keeps.refl _ | assumption | apply State.accLearn_keeps

theorem State.accRevoke_keeps {F : List Fld} {s t : State} (f_free : Fld.free ∈ F) (f_regs : Fld.regs ∈ F)
    (f_islands : Fld.islands ∈ F) (f_offers : Fld.offers ∈ F) (f_keys : Fld.keys ∈ F) (f_acc : Fld.acc ∈ F) (h : Keeps F s t)
    (init : Nat) (idx : Nat) (auth : Nat) :
    Keeps F s (State.accRevoke t init idx auth) := by
  unfold State.accRevoke
  with_reducible repeat' first
     | exact Keeps.refl _ | assumption | apply Keeps.ite | apply State.accWrite_keeps | apply State.dealerWait_keeps
     | apply State.learnEnd_keeps | apply State.learnGo_keeps | apply State.revokeDue_keeps | intro x hx

theorem execAccRevoke_keeps {F : List Fld} {s t : State} (f_free : Fld.free ∈ F) (f_regs : Fld.regs ∈ F)
    (f_islands : Fld.islands ∈ F) (f_offers : Fld.offers ∈ F) (f_keys : Fld.keys ∈ F) (f_acc : Fld.acc ∈ F) (h : Keeps F s t)
    (init : Byte) (idx : Fin 8) (auth : Fin 4) :
    KeepsOut F s (execAccRevoke init idx auth t) := by
  unfold execAccRevoke
  with_reducible repeat' first
     | apply KeepsOut.next | exact Keeps.refl _ | assumption | apply State.accRevoke_keeps

theorem State.dealerWrong_keeps {F : List Fld} {s t : State} (f_regs : Fld.regs ∈ F) (f_islands : Fld.islands ∈ F)
    (f_offers : Fld.offers ∈ F) (f_acc : Fld.acc ∈ F) (h : Keeps F s t)  :
    Keeps F s (State.dealerWrong t) := by
  unfold State.dealerWrong
  with_reducible repeat' first
     | exact Keeps.refl _ | assumption | apply Keeps.ite | apply Keeps.ite2 | apply State.incSat_keeps
     | apply State.learnEnd_keeps | apply State.setF_keeps
     | (extract_lets +onlyGivenNames x; first | (refine Keeps.cut F s x ?_ (fun hx => ?_); rotate_left 1; clear_value x; rotate_left 1; unfold x) | clear_value x)
     | split | dsimp only | apply Keeps.upd_acc

theorem State.dealerSubmit_keeps {F : List Fld} {s t : State} (f_regs : Fld.regs ∈ F) (f_islands : Fld.islands ∈ F)
    (f_offers : Fld.offers ∈ F) (f_keys : Fld.keys ∈ F) (f_acc : Fld.acc ∈ F) (h : Keeps F s t) (init : Nat)
    (w : Word) : Keeps F s (t.dealerSubmit init w) := by
  unfold State.dealerSubmit
  refine State.accWrite_keeps f_regs h _ _ (fun u hu => ?_)
  extract_lets v x a y b
  have hv : Keeps F s v := State.setReg_keeps f_regs hu _ _
  have hx : Keeps F s x := State.setF_keeps f_regs hv _ _
  have ha : Keeps F s y := Keeps.upd_acc f_acc hx
  refine Keeps.ite hv (Keeps.ite (Keeps.ite (State.revokeDue_keeps f_regs f_islands f_offers f_keys f_acc ha _) ?_) (State.dealerWrong_keeps f_regs f_islands f_offers f_acc hv))
  exact Keeps.upd_acc f_acc (State.setF_keeps f_regs ha _ _)

theorem execDealerResponse_keeps {F : List Fld} {s t : State} (f_regs : Fld.regs ∈ F) (f_islands : Fld.islands ∈ F)
    (f_offers : Fld.offers ∈ F) (f_keys : Fld.keys ∈ F) (f_acc : Fld.acc ∈ F) (h : Keeps F s t) (init : Byte) (w : Word) :
    KeepsOut F s (execDealerResponse init w t) := by
  unfold execDealerResponse
  with_reducible repeat' first
     | apply KeepsOut.next | exact Keeps.refl _ | assumption | apply State.dealerSubmit_keeps

theorem execDealerTimeout_keeps {F : List Fld} {s t : State} (f_regs : Fld.regs ∈ F) (f_islands : Fld.islands ∈ F)
    (f_offers : Fld.offers ∈ F) (f_acc : Fld.acc ∈ F) (h : Keeps F s t)  :
    KeepsOut F s (execDealerTimeout t) := by
  unfold execDealerTimeout
  with_reducible repeat' first
     | apply KeepsOut.next | exact Keeps.refl _ | assumption | apply KeepsOut.ite | apply Keeps.ite | apply State.learnEnd_keeps

theorem execDealerLockExpire_keeps {F : List Fld} {s t : State} (f_regs : Fld.regs ∈ F) (f_acc : Fld.acc ∈ F) (h : Keeps F s t)  :
    KeepsOut F s (execDealerLockExpire t) := by
  unfold execDealerLockExpire
  with_reducible repeat' first
     | apply KeepsOut.next | exact Keeps.refl _ | assumption | apply KeepsOut.ite | apply Keeps.ite | apply State.setF_keeps
     | (extract_lets +onlyGivenNames x; first | (refine Keeps.cut F s x ?_ (fun hx => ?_); rotate_left 1; clear_value x; rotate_left 1; unfold x) | clear_value x)
     | split | apply Keeps.upd_acc

theorem execLearnCommitDone_keeps {F : List Fld} {s t : State} (f_regs : Fld.regs ∈ F) (f_islands : Fld.islands ∈ F)
    (f_offers : Fld.offers ∈ F) (f_keys : Fld.keys ∈ F) (f_acc : Fld.acc ∈ F) (h : Keeps F s t)  :
    KeepsOut F s (execLearnCommitDone t) := by
  unfold execLearnCommitDone
  with_reducible repeat' first
     | apply KeepsOut.next | exact Keeps.refl _ | assumption | apply KeepsOut.ite | apply Keeps.ite | apply Keeps.ite2
     | apply State.eraseKey_keeps | apply State.incSat_keeps | apply State.learnEnd_keeps | apply State.setF_keeps
     | apply State.setKey_keeps | apply State.stampKey_keeps

theorem State.accGrant_keeps {F : List Fld} {s t : State} (f_regs : Fld.regs ∈ F) (f_islands : Fld.islands ∈ F)
    (f_offers : Fld.offers ∈ F) (f_acc : Fld.acc ∈ F) (h : Keeps F s t) (init : Nat) :
    Keeps F s (State.accGrant t init) := by
  unfold State.accGrant
  with_reducible repeat' first
     | exact Keeps.refl _ | assumption | apply Keeps.ite | apply Keeps.ite2 | apply State.accEvent_keeps
     | apply State.accWrite_keeps | apply State.authRenew_keeps | apply State.setF_keeps | apply State.stampAcc_keeps | apply hf
     | intro x hx | intro y | (extract_lets +onlyGivenNames x; clear_value x) | split | dsimp only | apply Keeps.upd_acc

theorem execAccGrant_keeps {F : List Fld} {s t : State} (f_regs : Fld.regs ∈ F) (f_islands : Fld.islands ∈ F)
    (f_offers : Fld.offers ∈ F) (f_acc : Fld.acc ∈ F) (h : Keeps F s t) (init : Byte) :
    KeepsOut F s (execAccGrant init t) := by
  unfold execAccGrant
  with_reducible repeat' first
     | apply KeepsOut.next | exact Keeps.refl _ | assumption | apply State.accGrant_keeps

theorem execAccAuthEnd_keeps {F : List Fld} {s t : State} (f_regs : Fld.regs ∈ F) (f_islands : Fld.islands ∈ F)
    (f_offers : Fld.offers ∈ F) (f_acc : Fld.acc ∈ F) (h : Keeps F s t) (init : Byte) :
    KeepsOut F s (execAccAuthEnd init t) := by
  unfold execAccAuthEnd
  with_reducible repeat' first
     | apply KeepsOut.next | exact Keeps.refl _ | assumption | apply State.accWrite_keeps | apply State.authEnd_keeps | intro x hx

theorem execAuthExpire_keeps {F : List Fld} {s t : State} (f_regs : Fld.regs ∈ F) (f_islands : Fld.islands ∈ F)
    (f_offers : Fld.offers ∈ F) (f_acc : Fld.acc ∈ F) (h : Keeps F s t)  :
    KeepsOut F s (execAuthExpire t) := by
  unfold execAuthExpire
  with_reducible repeat' first
     | apply KeepsOut.next | exact Keeps.refl _ | assumption | apply State.authEnd_keeps

theorem State.releaseCtr_keeps {F : List Fld} {s t : State} (f_regs : Fld.regs ∈ F) (f_islands : Fld.islands ∈ F)
    (f_offers : Fld.offers ∈ F) (f_acc : Fld.acc ∈ F) (h : Keeps F s t)  :
    Keeps F s (State.releaseCtr t) := by
  unfold State.releaseCtr
  with_reducible repeat' first
     | exact Keeps.refl _ | assumption | apply Keeps.ite | apply Keeps.ite2 | apply State.accEvent_keeps | apply State.raise_keeps
     | apply State.setF_keeps
     | (extract_lets +onlyGivenNames x; first | (refine Keeps.cut F s x ?_ (fun hx => ?_); rotate_left 1; clear_value x; rotate_left 1; unfold x) | clear_value x)
     | split | dsimp only | apply Keeps.upd_acc

theorem execReleaseMessage_keeps {F : List Fld} {s t : State} (f_regs : Fld.regs ∈ F) (f_islands : Fld.islands ∈ F)
    (f_offers : Fld.offers ∈ F) (f_gw : Fld.gw ∈ F) (f_acc : Fld.acc ∈ F) (h : Keeps F s t)  :
    KeepsOut F s (execReleaseMessage t) := by
  unfold execReleaseMessage
  with_reducible repeat' first
     | apply KeepsOut.next | exact Keeps.refl _ | assumption | apply KeepsOut.ite | apply Keeps.ite | apply Keeps.ite2
     | apply State.gwArrive_keeps | apply State.releaseCtr_keeps | apply State.setF_keeps | apply State.stamp_keeps
     | apply Keeps.id_
     | (extract_lets +onlyGivenNames x; first | (refine Keeps.cut F s x ?_ (fun hx => ?_); rotate_left 1; clear_value x; rotate_left 1; unfold x) | clear_value x)
     | split | dsimp only | apply Keeps.upd_acc

theorem execCcHeartbeatMiss_keeps {F : List Fld} {s t : State} (f_regs : Fld.regs ∈ F) (f_islands : Fld.islands ∈ F)
    (f_offers : Fld.offers ∈ F) (f_links : Fld.links ∈ F) (f_acc : Fld.acc ∈ F) (h : Keeps F s t)  :
    KeepsOut F s (execCcHeartbeatMiss t) := by
  unfold execCcHeartbeatMiss
  with_reducible repeat' first
     | apply KeepsOut.next | exact Keeps.refl _ | assumption | apply KeepsOut.ite | apply Keeps.ite | apply State.authEnd_keeps
     | apply State.fsApplyWrite_keeps | apply State.raise_keeps | apply State.setF_keeps | apply State.stampStr_keeps
     | apply State.unitCue_keeps | apply Keeps.foldl | apply hf | intro x hx | intro y

end Sys2Proof.Machine
end

