-- ==== Sys2Proof/Laws/KeepsIso.lean ====
section
/-! SUPPORT. What the operations and meanings of Machine/Iso.lean keep. -/

namespace Sys2Proof.Machine

theorem State.isoCue_keeps {F : List Fld} {s t : State} (f_offers : Fld.offers ∈ F) (h : Keeps F s t) (code : Nat) (arg : Nat)
    (data : Nat) :
    Keeps F s (State.isoCue t code arg data) := by
  unfold State.isoCue
  with_reducible repeat' first
     | exact Keeps.refl _ | assumption | apply State.unitCue_keeps

theorem State.isoFault_keeps {F : List Fld} {s t : State} (f_regs : Fld.regs ∈ F) (f_islands : Fld.islands ∈ F)
    (f_offers : Fld.offers ∈ F) (h : Keeps F s t) (v : Bool) :
    Keeps F s (State.isoFault t v) := by
  unfold State.isoFault
  with_reducible repeat' first
     | exact Keeps.refl _ | assumption | apply Keeps.ite | apply State.isoCue_keeps | apply State.raise_keeps
     | apply State.setF_keeps | apply State.stampUnit_keeps

theorem execBarrierFrameSend_keeps {F : List Fld} {s t : State} (f_iso : Fld.iso ∈ F) (h : Keeps F s t) (field : Bool)
    (levels : BitVec 16) (limit : BitVec 16) :
    KeepsOut F s (execBarrierFrameSend field levels limit t) := by
  unfold execBarrierFrameSend
  with_reducible repeat' first
     | apply KeepsOut.next | exact Keeps.refl _ | assumption | apply KeepsOut.ite | apply Keeps.ite | apply Keeps.ite2
     | (extract_lets +onlyGivenNames x; clear_value x) | split | dsimp only | apply Keeps.upd_iso

theorem execBarrierDataFrame_keeps {F : List Fld} {s t : State} (f_iso : Fld.iso ∈ F) (h : Keeps F s t) (err : BitVec 64) :
    KeepsOut F s (execBarrierDataFrame err t) := by
  unfold execBarrierDataFrame
  with_reducible repeat' first
     | apply KeepsOut.next | exact Keeps.refl _ | assumption | apply KeepsOut.ite | apply Keeps.ite | apply Keeps.ite2
     | (extract_lets +onlyGivenNames x; clear_value x) | split | dsimp only | apply Keeps.upd_iso

theorem execBarrierConfigFrame_keeps {F : List Fld} {s t : State} (f_iso : Fld.iso ∈ F) (h : Keeps F s t) (err : BitVec 64) :
    KeepsOut F s (execBarrierConfigFrame err t) := by
  unfold execBarrierConfigFrame
  with_reducible repeat' first
     | apply KeepsOut.next | exact Keeps.refl _ | assumption | apply KeepsOut.ite | apply Keeps.ite | apply Keeps.ite2
     | (extract_lets +onlyGivenNames x; clear_value x) | split | dsimp only | apply Keeps.upd_iso

theorem State.isoConfigure_keeps {F : List Fld} {s t : State} (f_regs : Fld.regs ∈ F) (f_iso : Fld.iso ∈ F) (h : Keeps F s t)  :
    Keeps F s (State.isoConfigure t) := by
  unfold State.isoConfigure
  with_reducible repeat' first
     | exact Keeps.refl _ | assumption | apply Keeps.ite | apply Keeps.ite2 | apply State.setF_keeps
     | (extract_lets +onlyGivenNames x; first | (refine Keeps.cut F s x ?_ (fun hx => ?_); rotate_left 1; clear_value x; rotate_left 1; unfold x) | clear_value x)
     | split | dsimp only | apply Keeps.upd_iso

theorem State.isoInput_keeps {F : List Fld} {s t : State} (f_regs : Fld.regs ∈ F) (f_islands : Fld.islands ∈ F)
    (f_offers : Fld.offers ∈ F) (f_iso : Fld.iso ∈ F) (h : Keeps F s t) (j : Nat) (lvl : Bool) :
    Keeps F s (State.isoInput t j lvl) := by
  unfold State.isoInput
  with_reducible repeat' first
     | exact Keeps.refl _ | assumption | apply Keeps.ite | apply Keeps.ite2 | apply State.isoCue_keeps
     | apply State.offerRec_keeps | apply State.setF_keeps | apply hf | intro x hx | intro y
     | (extract_lets +onlyGivenNames x; clear_value x) | split | dsimp only | apply Keeps.upd_iso

theorem State.isoReport_keeps {F : List Fld} {s t : State} (f_regs : Fld.regs ∈ F) (f_islands : Fld.islands ∈ F)
    (f_offers : Fld.offers ∈ F) (f_iso : Fld.iso ∈ F) (h : Keeps F s t) (f : BitVec 64) :
    Keeps F s (State.isoReport t f) := by
  unfold State.isoReport
  with_reducible repeat' first
     | exact Keeps.refl _ | assumption | apply Keeps.ite | apply Keeps.ite2 | apply State.copy_keeps
     | apply State.isoConfigure_keeps | apply State.isoCue_keeps | apply State.isoFault_keeps | apply State.isoInput_keeps
     | apply State.setF_keeps | apply Keeps.foldl | apply Keeps.foldl2 | apply Keeps.foldl1 | apply hf | intro x hx | intro y
     | (extract_lets +onlyGivenNames x; refine Keeps.cut F s x ?_ (fun hx => ?_); rotate_left 1; clear_value x; rotate_left 1; unfold x)
     | split | dsimp only | apply Keeps.upd_iso

theorem execBarrierFieldFrame_keeps {F : List Fld} {s t : State} (f_regs : Fld.regs ∈ F) (f_islands : Fld.islands ∈ F)
    (f_offers : Fld.offers ∈ F) (f_iso : Fld.iso ∈ F) (h : Keeps F s t) (err : BitVec 64) : KeepsOut F s
    (execBarrierFieldFrame err t) := by
  unfold execBarrierFieldFrame
  refine KeepsOut.next ?_
  split
  · extract_lets w x u copy y v
    have hu : Keeps F s u := Keeps.upd_iso f_iso h
    have hv : Keeps F s v := Keeps.upd_iso f_iso hu
    exact Keeps.ite hu (Keeps.ite hv (State.isoReport_keeps f_regs f_islands f_offers f_iso hv _))
  · exact h

theorem execFieldSafeTimeout_keeps {F : List Fld} {s t : State} (f_iso : Fld.iso ∈ F) (h : Keeps F s t)  :
    KeepsOut F s (execFieldSafeTimeout t) := by
  unfold execFieldSafeTimeout
  with_reducible repeat' first
     | apply KeepsOut.next | exact Keeps.refl _ | assumption | apply KeepsOut.ite | apply Keeps.ite | apply Keeps.ite2
     | (extract_lets +onlyGivenNames x; clear_value x) | split | dsimp only | apply Keeps.upd_iso

theorem execIsoKeepaliveLoss_keeps {F : List Fld} {s t : State} (f_iso : Fld.iso ∈ F) (h : Keeps F s t)  :
    KeepsOut F s (execIsoKeepaliveLoss t) := by
  unfold execIsoKeepaliveLoss
  with_reducible repeat' first
     | apply KeepsOut.next | exact Keeps.refl _ | assumption | (extract_lets +onlyGivenNames x; clear_value x)
     | apply Keeps.upd_iso

theorem execIsoAdopt_keeps {F : List Fld} {s t : State} (f_regs : Fld.regs ∈ F) (f_islands : Fld.islands ∈ F)
    (f_offers : Fld.offers ∈ F) (f_dies : Fld.dies ∈ F) (f_links : Fld.links ∈ F) (f_iso : Fld.iso ∈ F) (h : Keeps F s t)  :
    KeepsOut F s (execIsoAdopt t) := by
  unfold execIsoAdopt
  with_reducible repeat' first
     | apply KeepsOut.next | exact Keeps.refl _ | assumption | apply KeepsOut.ite | apply Keeps.ite | apply Keeps.ite2
     | apply State.adopt_keeps | apply State.copy_keeps | apply State.isoConfigure_keeps | apply State.isoFault_keeps
     | apply State.setDie_keeps | apply State.setF_keeps | apply State.setLnk_keeps | apply hf | intro x hx | intro y
     | (extract_lets +onlyGivenNames x; first | (refine Keeps.cut F s x ?_ (fun hx => ?_); rotate_left 1; clear_value x; rotate_left 1; unfold x) | clear_value x)
     | split | dsimp only | apply Keeps.upd_iso

theorem State.isoOutWrite_keeps {F : List Fld} {s t : State} (f_regs : Fld.regs ∈ F) (f_iso : Fld.iso ∈ F) (h : Keeps F s t)
    (init : Nat) (v : Nat) :
    Keeps F s (State.isoOutWrite t init v) := by
  unfold State.isoOutWrite
  with_reducible repeat' first
     | exact Keeps.refl _ | assumption | apply Keeps.ite | apply State.absentWrite_keeps | apply State.copy_keeps
     | apply State.incSat_keeps | apply State.setF_keeps | (extract_lets +onlyGivenNames x; clear_value x) | split
     | apply Keeps.upd_iso

theorem execIsoOutWrite_keeps {F : List Fld} {s t : State} (f_regs : Fld.regs ∈ F) (f_iso : Fld.iso ∈ F) (h : Keeps F s t)
    (init : Byte) (v : BitVec 16) :
    KeepsOut F s (execIsoOutWrite init v t) := by
  unfold execIsoOutWrite
  with_reducible repeat' first
     | apply KeepsOut.next | exact Keeps.refl _ | assumption | apply State.isoOutWrite_keeps

theorem State.isoCtlWrite_keeps {F : List Fld} {s t : State} (f_regs : Fld.regs ∈ F) (f_islands : Fld.islands ∈ F)
    (h : Keeps F s t) (init : Nat) (v : Bool) :
    Keeps F s (State.isoCtlWrite t init v) := by
  unfold State.isoCtlWrite
  with_reducible repeat' first
     | exact Keeps.refl _ | assumption | apply Keeps.ite | apply State.absentWrite_keeps | apply State.setF_keeps
     | apply State.strWrite_keeps | intro x hx

theorem execIsoForceSafe_keeps {F : List Fld} {s t : State} (f_regs : Fld.regs ∈ F) (f_islands : Fld.islands ∈ F)
    (h : Keeps F s t) (init : Byte) (v : Bool) :
    KeepsOut F s (execIsoForceSafe init v t) := by
  unfold execIsoForceSafe
  with_reducible repeat' first
     | apply KeepsOut.next | exact Keeps.refl _ | assumption | apply State.isoCtlWrite_keeps

theorem execIsoFieldSilent_keeps {F : List Fld} {s t : State} (f_regs : Fld.regs ∈ F) (f_islands : Fld.islands ∈ F)
    (f_offers : Fld.offers ∈ F) (f_iso : Fld.iso ∈ F) (h : Keeps F s t)  :
    KeepsOut F s (execIsoFieldSilent t) := by
  unfold execIsoFieldSilent
  with_reducible repeat' first
     | apply KeepsOut.next | exact Keeps.refl _ | assumption | apply KeepsOut.ite | apply Keeps.ite | apply State.isoFault_keeps
     | apply State.setF_keeps | (extract_lets +onlyGivenNames x; clear_value x) | split | apply Keeps.upd_iso

theorem execBoThermalShutdown_keeps {F : List Fld} {s t : State} (f_iso : Fld.iso ∈ F) (h : Keeps F s t) (j : Fin 16) :
    KeepsOut F s (execBoThermalShutdown j t) := by
  unfold execBoThermalShutdown
  with_reducible repeat' first
     | apply KeepsOut.next | exact Keeps.refl _ | assumption | apply KeepsOut.ite | apply Keeps.ite
     | (extract_lets +onlyGivenNames x; clear_value x) | split | apply Keeps.upd_iso

theorem execBoThermalRestart_keeps {F : List Fld} {s t : State} (f_iso : Fld.iso ∈ F) (h : Keeps F s t) (j : Fin 16) :
    KeepsOut F s (execBoThermalRestart j t) := by
  unfold execBoThermalRestart
  with_reducible repeat' first
     | apply KeepsOut.next | exact Keeps.refl _ | assumption | apply KeepsOut.ite | apply Keeps.ite
     | (extract_lets +onlyGivenNames x; clear_value x) | split | apply Keeps.upd_iso

theorem execBbSupplyLoss_keeps {F : List Fld} {s t : State} (f_iso : Fld.iso ∈ F) (h : Keeps F s t)  :
    KeepsOut F s (execBbSupplyLoss t) := by
  unfold execBbSupplyLoss
  with_reducible repeat' first
     | apply KeepsOut.next | exact Keeps.refl _ | assumption | apply KeepsOut.ite | apply Keeps.ite | apply Keeps.ite2
     | (extract_lets +onlyGivenNames x; clear_value x) | split | dsimp only | apply Keeps.upd_iso

theorem execBbSupplyRestore_keeps {F : List Fld} {s t : State} (f_iso : Fld.iso ∈ F) (h : Keeps F s t)  :
    KeepsOut F s (execBbSupplyRestore t) := by
  unfold execBbSupplyRestore
  with_reducible repeat' first
     | apply KeepsOut.next | exact Keeps.refl _ | assumption | apply KeepsOut.ite | apply Keeps.ite | apply Keeps.ite2
     | (extract_lets +onlyGivenNames x; clear_value x) | split | dsimp only | apply Keeps.upd_iso

end Sys2Proof.Machine
end

