-- ==== Sys2Proof/Laws/KeepsStore.lean ====
section
/-! SUPPORT. What the operations and meanings of Machine/Store.lean keep. -/

namespace Sys2Proof.Machine

theorem State.nvmShow_keeps {F : List Fld} {s t : State} (f_regs : Fld.regs ∈ F) (h : Keeps F s t)  :
    Keeps F s (State.nvmShow t) := by
  unfold State.nvmShow
  with_reducible repeat' first
     | exact Keeps.refl _ | assumption | apply State.setF_keeps

theorem State.storeCue_keeps {F : List Fld} {s t : State} (f_offers : Fld.offers ∈ F) (h : Keeps F s t) (r : StoreReq)
    (val : Nat) :
    Keeps F s (State.storeCue t r val) := by
  unfold State.storeCue
  with_reducible repeat' first
     | exact Keeps.refl _ | assumption | apply Keeps.ite | apply State.postCue_keeps

theorem State.storeFinish_keeps {F : List Fld} {s t : State} (f_regs : Fld.regs ∈ F) (f_offers : Fld.offers ∈ F)
    (h : Keeps F s t) (r : StoreReq) (status : Nat) :
    Keeps F s (State.storeFinish t r status) := by
  unfold State.storeFinish
  with_reducible repeat' first
     | exact Keeps.refl _ | assumption | apply State.slotUpdate_keeps | apply State.storeCue_keeps

theorem State.storeRequest_keeps {F : List Fld} {s t : State} (f_regs : Fld.regs ∈ F) (f_offers : Fld.offers ∈ F)
    (f_nvm : Fld.nvm ∈ F) (h : Keeps F s t) (init : Nat) (bytes : List Byte) :
    Keeps F s (State.storeRequest t init bytes) := by
  unfold State.storeRequest
  with_reducible repeat' first
     | exact Keeps.refl _ | assumption | apply Keeps.ite | apply Keeps.ite2 | apply State.incSat_keeps | apply State.nvmShow_keeps
     | apply State.slotFilling_keeps | apply State.storeCue_keeps | apply State.storeFinish_keeps
     | (extract_lets +onlyGivenNames x; clear_value x) | split | dsimp only | apply Keeps.upd_nvm

theorem execStoreRequest_keeps {F : List Fld} {s t : State} (f_regs : Fld.regs ∈ F) (f_offers : Fld.offers ∈ F)
    (f_nvm : Fld.nvm ∈ F) (h : Keeps F s t) (init : Byte) (bytes : List Byte) :
    KeepsOut F s (execStoreRequest init bytes t) := by
  unfold execStoreRequest
  with_reducible repeat' first
     | apply KeepsOut.next | exact Keeps.refl _ | assumption | apply KeepsOut.ite | apply Keeps.ite
     | apply State.storeRequest_keeps | apply KeepsOut.refused

theorem State.storeStep_keeps {F : List Fld} {s t : State} (f_regs : Fld.regs ∈ F) (f_islands : Fld.islands ∈ F)
    (f_offers : Fld.offers ∈ F) (f_nvm : Fld.nvm ∈ F) (h : Keeps F s t) (ok : Bool) :
    Keeps F s (State.storeStep t ok) := by
  unfold State.storeStep
  with_reducible repeat' first
     | exact Keeps.refl _ | assumption | apply Keeps.ite | apply Keeps.ite2 | apply State.incMod_keeps | apply State.nvmShow_keeps
     | apply State.raise_keeps | apply State.stamp_keeps | apply State.storeFinish_keeps | apply State.storeRead_keeps | apply hf
     | intro x hx | intro y
     | (extract_lets +onlyGivenNames x; first | (refine Keeps.cut F s x ?_ (fun hx => ?_); rotate_left 1; clear_value x; rotate_left 1; unfold x) | clear_value x)
     | split | dsimp only | apply Keeps.upd_nvm

theorem execStoreExecute_keeps {F : List Fld} {s t : State} (f_regs : Fld.regs ∈ F) (f_islands : Fld.islands ∈ F)
    (f_offers : Fld.offers ∈ F) (f_nvm : Fld.nvm ∈ F) (h : Keeps F s t) (ok : Bool) :
    KeepsOut F s (execStoreExecute ok t) := by
  unfold execStoreExecute
  with_reducible repeat' first
     | apply KeepsOut.next | exact Keeps.refl _ | assumption | apply State.mramRest_keeps | apply State.storeStep_keeps

theorem State.journalCopy_keeps {F : List Fld} {s t : State} (f_regs : Fld.regs ∈ F) (f_nvm : Fld.nvm ∈ F) (h : Keeps F s t)  :
    Keeps F s (State.journalCopy t) := by
  unfold State.journalCopy
  with_reducible repeat' first
     | exact Keeps.refl _ | assumption | apply State.nvmShow_keeps | apply hf | intro x hx | intro y
     | (extract_lets +onlyGivenNames x; clear_value x) | split | dsimp only | apply Keeps.upd_nvm

theorem execJournalCopy_keeps {F : List Fld} {s t : State} (f_regs : Fld.regs ∈ F) (f_nvm : Fld.nvm ∈ F) (h : Keeps F s t)  :
    KeepsOut F s (execJournalCopy t) := by
  unfold execJournalCopy
  with_reducible repeat' first
     | apply KeepsOut.next | exact Keeps.refl _ | assumption | apply State.journalCopy_keeps

theorem State.journalReplay_keeps {F : List Fld} {s t : State} (f_regs : Fld.regs ∈ F) (f_nvm : Fld.nvm ∈ F) (h : Keeps F s t)  :
    Keeps F s (State.journalReplay t) := by
  unfold State.journalReplay
  with_reducible repeat' first
     | exact Keeps.refl _ | assumption | apply State.journalCopy_keeps | apply Keeps.foldl | intro x hx | intro y

theorem State.storeFree_keeps {F : List Fld} {s t : State} (f_regs : Fld.regs ∈ F) (f_nvm : Fld.nvm ∈ F) (h : Keeps F s t)  :
    Keeps F s (State.storeFree t) := by
  unfold State.storeFree
  with_reducible repeat' first
     | exact Keeps.refl _ | assumption | apply State.nvmShow_keeps | apply hf | intro x hx | intro y
     | (extract_lets +onlyGivenNames x; clear_value x) | dsimp only | apply Keeps.upd_nvm

end Sys2Proof.Machine
end

