-- ==== Sys2Proof/Laws/KeepsScript.lean ====
section
/-! SUPPORT. What the operations and meanings of Machine/Script.lean keep. -/

namespace Sys2Proof.Machine

/-- A check that keeps: where it passes, the state with what was loaded keeps. -/
structure KeepsChk (F : List Fld) (s : State) (c : Chk) : Prop where
  ok_keeps : ∀ t, c = .ok t → Keeps F s t

theorem KeepsChk.ok {F : List Fld} {s t : State} (h : Keeps F s t) : KeepsChk F s (.ok t) := ⟨fun u hu => by cases hu; exact h⟩
theorem KeepsChk.bad {F : List Fld} {s : State} (r : Rej) : KeepsChk F s (.bad r) := ⟨fun u hu => by cases hu⟩
theorem KeepsChk.ite {F : List Fld} {s : State} {a b : Chk} {c : Prop} [Decidable c] (h : KeepsChk F s a) (k : KeepsChk F s b) :
    KeepsChk F s (if c then a else b) := by split <;> assumption
theorem chk_keeps {F : List Fld} {s t : State} (h : Keeps F s t) (c : Bool) (r : Rej) : KeepsChk F s (chk c r t) :=
  KeepsChk.ite (KeepsChk.ok h) (KeepsChk.bad r)
theorem KeepsChk.andThen {F : List Fld} {s : State} {x : Chk} {k : State → Chk} (h : KeepsChk F s x)
    (hk : ∀ u, Keeps F s u → KeepsChk F s (k u)) :
    KeepsChk F s (x.andThen k) := by
  unfold Chk.andThen
  cases x with
  | ok t => exact hk t (h.ok_keeps t rfl)
  | bad r => exact KeepsChk.bad r

theorem State.scrWord_keeps {F : List Fld} {s t : State} (f_regs : Fld.regs ∈ F) (f_inp : Fld.inp ∈ F) (h : Keeps F s t)
    (loc : Rej) (a : Nat) (v : Nat) :
    KeepsChk F s (State.scrWord t loc a v) := by
  unfold State.scrWord
  with_reducible repeat' first
     | exact Keeps.refl _ | assumption | apply KeepsChk.ite | apply Keeps.ite | apply Keeps.ite2 | apply State.setReg_keeps
     | apply KeepsChk.ok | exact KeepsChk.bad _ | apply chk_keeps | apply hf | intro x hx | intro y
     | (extract_lets +onlyGivenNames x; first | (refine Keeps.cut F s x ?_ (fun hx => ?_); rotate_left 1; clear_value x; rotate_left 1; unfold x) | clear_value x)
     | split | dsimp only | apply Keeps.upd_inp

theorem State.scrWords_keeps {F : List Fld} {s t : State} (f_regs : Fld.regs ∈ F) (f_inp : Fld.inp ∈ F) (h : Keeps F s t)
    (loc : Rej) (a : Nat) (l : List Nat) : KeepsChk F s (t.scrWords loc a l) := by
  induction l generalizing t loc a with
  | nil => exact KeepsChk.ok h
  | cons v l ih => exact KeepsChk.andThen (State.scrWord_keeps f_regs f_inp h _ _ _) (fun u hu => ih hu _ _)

theorem State.scrRuns_keeps {F : List Fld} {s t : State} (f_regs : Fld.regs ∈ F) (f_inp : Fld.inp ∈ F) (h : Keeps F s t)
    (loc : Rej) (base size n : Nat) (l : List Byte) :
    KeepsChk F s (t.scrRuns loc base size n l) := by
  induction n generalizing t loc l with
  | zero => unfold State.scrRuns; exact KeepsChk.ok h
  | succ n ih =>
    unfold State.scrRuns
    extract_lets k o
    exact KeepsChk.ite (KeepsChk.ok h) (KeepsChk.ite (KeepsChk.bad _) (KeepsChk.ite (KeepsChk.bad _)
      (KeepsChk.andThen (State.scrWords_keeps f_regs f_inp h _ _ _) (fun u hu => ih hu _ _))))

theorem State.scrEnvelope_keeps {F : List Fld} {s t : State} (f_regs : Fld.regs ∈ F) (f_links : Fld.links ∈ F) (h : Keeps F s t)
    (c : Nat) (w : List Nat) :
    Keeps F s (State.scrEnvelope t c w) := by
  unfold State.scrEnvelope
  with_reducible repeat' first
     | exact Keeps.refl _ | assumption | apply Keeps.ite | apply State.sendHi_keeps | apply State.setF_keeps | apply Keeps.foldl
     | apply hf | intro x hx | intro y

theorem State.scrEngine_keeps {F : List Fld} {s t : State} (f_regs : Fld.regs ∈ F) (f_mem : Fld.mem ∈ F) (f_engs : Fld.engs ∈ F)
    (h : Keeps F s t) (cpart : List Byte) (c : Nat) (k : Nat) (e : List Byte) :
    Keeps F s (State.scrEngine t cpart c k e) := by
  unfold State.scrEngine
  with_reducible repeat' first
     | exact Keeps.refl _ | assumption | apply Keeps.ite | apply State.setEng_keeps | apply State.setF_keeps
     | apply State.wrN_keeps | apply Keeps.foldl | apply hf | intro x hx | intro y

theorem State.scrCrew_keeps {F : List Fld} {s t : State} (f_regs : Fld.regs ∈ F) (f_mem : Fld.mem ∈ F) (f_engs : Fld.engs ∈ F)
    (h : Keeps F s t) (loc : Rej) (cpart : List Byte) (v : List Byte) :
    KeepsChk F s (State.scrCrew t loc cpart v) := by
  unfold State.scrCrew
  with_reducible repeat' first
     | exact Keeps.refl _ | assumption | apply KeepsChk.ite | apply Keeps.ite | apply Keeps.ite2 | apply State.scrEngine_keeps
     | apply State.setF_keeps | apply State.setReg_keeps | apply KeepsChk.ok | exact KeepsChk.bad _ | apply chk_keeps
     | apply Keeps.foldl | apply Keeps.foldl2 | apply Keeps.foldl1 | apply hf | intro x hx | intro y
     | (extract_lets +onlyGivenNames x; refine Keeps.cut F s x ?_ (fun hx => ?_); rotate_left 1; clear_value x; rotate_left 1; unfold x)
     | split

theorem State.scrGateway_keeps {F : List Fld} {s t : State} (f_regs : Fld.regs ∈ F) (f_mem : Fld.mem ∈ F) (h : Keeps F s t)
    (loc : Rej) (l : List (List Byte)) : KeepsChk F s (t.scrGateway loc l) := by
  induction l generalizing t loc with
  | nil => exact KeepsChk.ok h
  | cons r l ih =>
    unfold State.scrGateway
    extract_lets bad i u
    refine KeepsChk.ite (KeepsChk.bad _) (ih ?_ _)
    exact Keeps.ite (State.wrRegBytes_keeps f_regs (State.wrRegBytes_keeps f_regs h _ _) _ _) (State.wrBytes_keeps f_mem h _ _)

theorem State.scrSettings_keeps {F : List Fld} {s t : State} (f_regs : Fld.regs ∈ F) (f_nvm : Fld.nvm ∈ F) (h : Keeps F s t)
    (l : List (NvmRec × List Byte)) :
    Keeps F s (State.scrSettings t l) := by
  unfold State.scrSettings
  with_reducible repeat' first
     | exact Keeps.refl _ | assumption | apply Keeps.ite | apply Keeps.ite2 | apply State.setF_keeps | apply Keeps.foldl
     | apply Keeps.foldl2 | apply Keeps.foldl1 | apply hf | intro x hx | intro y | (extract_lets +onlyGivenNames x; clear_value x)
     | split | dsimp only | apply Keeps.upd_nvm

theorem State.scrSect_keeps {F : List Fld} {s t : State} (f_regs : Fld.regs ∈ F) (f_mem : Fld.mem ∈ F) (f_links : Fld.links ∈ F)
    (f_engs : Fld.engs ∈ F) (f_inp : Fld.inp ∈ F) (f_nvm : Fld.nvm ∈ F) (h : Keeps F s t) (cpart : List Byte) (x : Sect) :
    KeepsChk F s (State.scrSect t cpart x) := by
  unfold State.scrSect
  with_reducible repeat' first
     | exact Keeps.refl _ | assumption | apply KeepsChk.ite | apply Keeps.ite | apply Keeps.ite2 | apply State.scrCrew_keeps
     | apply State.scrEnvelope_keeps | apply State.scrGateway_keeps | apply State.scrRuns_keeps | apply State.scrSettings_keeps
     | apply State.wrBytes_keeps | apply KeepsChk.ok | exact KeepsChk.bad _ | apply chk_keeps | apply hf | intro x hx | intro y
     | (extract_lets +onlyGivenNames x; first | (refine Keeps.cut F s x ?_ (fun hx => ?_); rotate_left 1; clear_value x; rotate_left 1; unfold x) | clear_value x)
     | split

theorem State.scrSects_keeps {F : List Fld} {s t : State} (f_regs : Fld.regs ∈ F) (f_mem : Fld.mem ∈ F)
    (f_links : Fld.links ∈ F) (f_engs : Fld.engs ∈ F) (f_inp : Fld.inp ∈ F) (f_nvm : Fld.nvm ∈ F) (h : Keeps F s t)
    (cpart : List Byte) (seen : List (Nat × Nat)) (l : List Sect) :
    KeepsChk F s (t.scrSects cpart seen l) := by
  induction l generalizing t seen with
  | nil => exact KeepsChk.ok h
  | cons x l ih =>
    unfold State.scrSects
    extract_lets loc dup unknown
    exact KeepsChk.ite (KeepsChk.bad _) (KeepsChk.ite (KeepsChk.bad _) (KeepsChk.ite (KeepsChk.bad _) (KeepsChk.ite (KeepsChk.bad _)
      (KeepsChk.andThen (State.scrSect_keeps f_regs f_mem f_links f_engs f_inp f_nvm h _ _) (fun u hu => ih hu _)))))

theorem State.scrBlank_keeps {F : List Fld} {s t : State} (f_regs : Fld.regs ∈ F) (h : Keeps F s t)  :
    Keeps F s (State.scrBlank t) := by
  unfold State.scrBlank
  extract_lets role
  refine State.setF_keeps f_regs ?_ _ _
  exact Keeps.upd_regs f_regs h (fun k => (twf_filter _ _ _ k).1)

theorem State.scriptApply_keeps {F : List Fld} {s t : State} (f_regs : Fld.regs ∈ F) (f_mem : Fld.mem ∈ F)
    (f_links : Fld.links ∈ F) (f_engs : Fld.engs ∈ F) (f_inp : Fld.inp ∈ F) (f_nvm : Fld.nvm ∈ F) (f_upd : Fld.upd ∈ F)
    (h : Keeps F s t) (body cpart : List Byte) : Keeps F s (t.scriptApply body cpart) := by
  unfold State.scriptApply
  split
  · exact h
  · extract_lets lz
    split
    · rename_i l _ u hu
      exact State.setF_keeps f_regs (Keeps.upd_upd f_upd ((State.scrSects_keeps f_regs f_mem f_links f_engs f_inp f_nvm (State.scrBlank_keeps f_regs h) _ _ _).ok_keeps u hu)) _ _
    · exact h

theorem State.scriptScr_keeps {F : List Fld} {s t : State} (f_scr : Fld.scr ∈ F) (h : Keeps F s t) (body : List Byte) :
    Keeps F s (State.scriptScr t body) := by
  unfold State.scriptScr
  with_reducible repeat' first
     | exact Keeps.refl _ | assumption | (extract_lets +onlyGivenNames x; clear_value x) | dsimp only | apply Keeps.upd_scr

end Sys2Proof.Machine
end

