-- ==== Sys2Proof/Laws/KeepsPower.lean ====
section
/-! SUPPORT. What the operations and meanings of Machine/Power.lean keep. -/

namespace Sys2Proof.Machine

theorem State.boostPause_keeps {F : List Fld} {s t : State} (f_regs : Fld.regs ∈ F) (f_boost : Fld.boost ∈ F) (h : Keeps F s t)  :
    Keeps F s (State.boostPause t) := by
  unfold State.boostPause
  with_reducible repeat' first
     | exact Keeps.refl _ | assumption | apply Keeps.ite | apply State.setF_keeps | apply State.setVbst_keeps

theorem State.bandEnter_keeps {F : List Fld} {s t : State} (f_regs : Fld.regs ∈ F) (f_islands : Fld.islands ∈ F)
    (f_chans : Fld.chans ∈ F) (f_boost : Fld.boost ∈ F) (h : Keeps F s t) (b : Nat) :
    Keeps F s (State.bandEnter t b) := by
  unfold State.bandEnter
  with_reducible repeat' first
     | exact Keeps.refl _ | assumption | apply Keeps.ite | apply Keeps.ite2 | apply State.boostPause_keeps
     | apply State.raise_keeps | apply State.setChan_keeps | apply State.setF_keeps | apply State.stampPwr_keeps
     | apply Keeps.foldl | apply Keeps.foldl2 | apply Keeps.foldl1 | apply hf | intro x hx | intro y

theorem State.bandPlace_keeps {F : List Fld} {s t : State} (f_regs : Fld.regs ∈ F) (f_islands : Fld.islands ∈ F)
    (f_chans : Fld.chans ∈ F) (f_boost : Fld.boost ∈ F) (h : Keeps F s t) (v : Nat) :
    Keeps F s (State.bandPlace t v) := by
  unfold State.bandPlace
  with_reducible repeat' first
     | exact Keeps.refl _ | assumption | apply Keeps.ite | apply State.bandEnter_keeps | apply State.boostPause_keeps
     | apply State.setF_keeps

theorem State.bandReplace_keeps {F : List Fld} {s t : State} (f_regs : Fld.regs ∈ F) (f_islands : Fld.islands ∈ F)
    (f_chans : Fld.chans ∈ F) (f_boost : Fld.boost ∈ F) (h : Keeps F s t) (v : Nat) :
    Keeps F s (State.bandReplace t v) := by
  unfold State.bandReplace
  with_reducible repeat' first
     | exact Keeps.refl _ | assumption | apply Keeps.ite | apply State.bandEnter_keeps

theorem execFeedGroupBlock_keeps {F : List Fld} {s t : State} (f_regs : Fld.regs ∈ F) (f_islands : Fld.islands ∈ F)
    (h : Keeps F s t) (g : Fin 2) :
    KeepsOut F s (execFeedGroupBlock g t) := by
  unfold execFeedGroupBlock
  with_reducible repeat' first
     | apply KeepsOut.next | exact Keeps.refl _ | assumption | apply KeepsOut.ite | apply Keeps.ite | apply State.raise_keeps
     | apply State.setF_keeps | apply State.stampPwr_keeps

theorem execFeedGroupConduct_keeps {F : List Fld} {s t : State} (f_regs : Fld.regs ∈ F) (h : Keeps F s t) (g : Fin 2) :
    KeepsOut F s (execFeedGroupConduct g t) := by
  unfold execFeedGroupConduct
  with_reducible repeat' first
     | apply KeepsOut.next | exact Keeps.refl _ | assumption | apply State.setF_keeps

theorem State.dieRise_keeps {F : List Fld} {s t : State} (f_dies : Fld.dies ∈ F) (h : Keeps F s t) (v : Nat) :
    Keeps F s (State.dieRise t v) := by
  unfold State.dieRise
  with_reducible repeat' first
     | exact Keeps.refl _ | assumption | apply Keeps.ite | apply State.setDie_keeps | apply Keeps.foldl | apply hf | intro x hx
     | intro y

theorem execFeedMeasure_keeps {F : List Fld} {s t : State} (f_regs : Fld.regs ∈ F) (f_offers : Fld.offers ∈ F)
    (f_dies : Fld.dies ∈ F) (h : Keeps F s t) (va : BitVec 16) (ia : BitVec 16) (vb : BitVec 16) (ib : BitVec 16)
    (conduct : BitVec 2) :
    KeepsOut F s (execFeedMeasure va ia vb ib conduct t) := by
  unfold execFeedMeasure
  with_reducible repeat' first
     | apply KeepsOut.next | exact Keeps.refl _ | assumption | apply State.dieRise_keeps | apply State.measUpdate_keeps
     | apply State.setF_keeps

theorem execBandChange_keeps {F : List Fld} {s t : State} (f_regs : Fld.regs ∈ F) (f_islands : Fld.islands ∈ F)
    (f_chans : Fld.chans ∈ F) (f_boost : Fld.boost ∈ F) (h : Keeps F s t) (vbat : BitVec 16) :
    KeepsOut F s (execBandChange vbat t) := by
  unfold execBandChange
  with_reducible repeat' first
     | apply KeepsOut.next | exact Keeps.refl _ | assumption | apply KeepsOut.ite | apply Keeps.ite | apply State.bandEnter_keeps

theorem execBrownoutReset_keeps {F : List Fld} {s t : State} (f_regs : Fld.regs ∈ F) (f_mem : Fld.mem ∈ F)
    (f_mram : Fld.mram ∈ F) (f_islands : Fld.islands ∈ F) (f_dly : Fld.dly ∈ F) (f_frm : Fld.frm ∈ F)
    (f_offers : Fld.offers ∈ F) (f_chans : Fld.chans ∈ F) (f_dies : Fld.dies ∈ F) (f_links : Fld.links ∈ F)
    (f_ldg : Fld.ldg ∈ F) (f_boot : Fld.boot ∈ F) (f_str : Fld.str ∈ F) (f_scr : Fld.scr ∈ F) (f_engs : Fld.engs ∈ F)
    (f_gated : Fld.gated ∈ F) (f_waiting : Fld.waiting ∈ F) (f_rr : Fld.rr ∈ F) (f_exec : Fld.exec ∈ F) (f_trx : Fld.trx ∈ F)
    (f_cans : Fld.cans ∈ F) (f_lins : Fld.lins ∈ F) (f_nm : Fld.nm ∈ F) (f_gw : Fld.gw ∈ F) (f_eth : Fld.eth ∈ F)
    (f_zrt : Fld.zrt ∈ F) (f_pwr : Fld.pwr ∈ F) (f_inp : Fld.inp ∈ F) (f_meas : Fld.meas ∈ F) (f_acc : Fld.acc ∈ F)
    (f_iso : Fld.iso ∈ F) (f_nvm : Fld.nvm ∈ F) (f_upd : Fld.upd ∈ F) (f_trk : Fld.trk ∈ F) (f_brg : Fld.brg ∈ F)
    (f_ports : Fld.ports ∈ F) (h : Keeps F s t) (vbat : BitVec 16) :
    KeepsOut F s (execBrownoutReset vbat t) := by
  unfold execBrownoutReset
  with_reducible repeat' first
     | apply KeepsOut.next | exact Keeps.refl _ | assumption | apply KeepsOut.ite | apply Keeps.ite | apply State.fullReset_keeps
     | apply State.raise_keeps | (extract_lets +onlyGivenNames x; clear_value x) | split | apply Keeps.upd_boot

theorem execDieUndervoltage_keeps {F : List Fld} {s t : State} (f_regs : Fld.regs ∈ F) (f_dies : Fld.dies ∈ F)
    (f_dieChs : Fld.dieChs ∈ F) (f_links : Fld.links ∈ F) (f_boost : Fld.boost ∈ F) (h : Keeps F s t) (x : DieSupply) :
    KeepsOut F s (execDieUndervoltage x t) := by
  unfold execDieUndervoltage
  with_reducible repeat' first
     | apply KeepsOut.next | exact Keeps.refl _ | assumption | apply KeepsOut.ite | apply Keeps.ite | apply Keeps.ite2
     | apply State.dieClock_keeps | apply State.keepCopy_keeps | apply State.setDie_keeps | apply State.setDieCh_keeps
     | apply State.setF_keeps | apply State.setLnk_keeps | apply Keeps.foldl | apply Keeps.foldl2 | apply Keeps.foldl1 | apply hf
     | intro x hx | intro y | (extract_lets +onlyGivenNames x; clear_value x) | split | dsimp only | apply Keeps.upd_boost

theorem State.warmArchive_keeps {F : List Fld} {s t : State} (f_regs : Fld.regs ∈ F) (f_dly : Fld.dly ∈ F) (h : Keeps F s t)  :
    Keeps F s (State.warmArchive t) := by
  unfold State.warmArchive
  with_reducible repeat' first
     | exact Keeps.refl _ | assumption | apply Keeps.ite | apply State.archiveRequest_keeps

theorem execCrewRelease_keeps {F : List Fld} {s t : State} (f_regs : Fld.regs ∈ F) (f_islands : Fld.islands ∈ F)
    (f_dly : Fld.dly ∈ F) (f_boot : Fld.boot ∈ F) (f_engs : Fld.engs ∈ F) (f_gated : Fld.gated ∈ F) (f_upd : Fld.upd ∈ F)
    (h : Keeps F s t) (c : Fin 6) :
    KeepsOut F s (execCrewRelease c t) := by
  unfold execCrewRelease
  with_reducible repeat' first
     | apply KeepsOut.next | exact Keeps.refl _ | assumption | apply KeepsOut.ite | apply Keeps.ite | apply Keeps.ite2
     | apply State.adopt_keeps | apply State.crewRelease_keeps | apply State.setF_keeps | apply State.trialRun_keeps
     | apply State.warmArchive_keeps | apply hf | intro x hx | intro y | (extract_lets +onlyGivenNames x; clear_value x) | split
     | dsimp only | apply Keeps.upd_boot

theorem State.pwrDenied_keeps {F : List Fld} {s t : State} (f_regs : Fld.regs ∈ F) (h : Keeps F s t) (init : Nat) :
    Keeps F s (State.pwrDenied t init) := by
  unfold State.pwrDenied
  with_reducible repeat' first
     | exact Keeps.refl _ | assumption | apply State.incSat_keeps | apply State.setF_keeps

theorem State.pwrCue_keeps {F : List Fld} {s t : State} (f_offers : Fld.offers ∈ F) (h : Keeps F s t) (target : Nat) (k : Nat) :
    Keeps F s (State.pwrCue t target k) := by
  unfold State.pwrCue
  with_reducible repeat' first
     | exact Keeps.refl _ | assumption | apply State.unitCue_keeps

theorem State.pwrReq_keeps {F : List Fld} {s t : State} (f_regs : Fld.regs ∈ F) (f_islands : Fld.islands ∈ F)
    (f_offers : Fld.offers ∈ F) (f_gated : Fld.gated ∈ F) (f_pwr : Fld.pwr ∈ F) (f_trk : Fld.trk ∈ F) (h : Keeps F s t)
    (init : Nat) (target : Nat) :
    Keeps F s (State.pwrReq t init target) := by
  unfold State.pwrReq
  with_reducible repeat' first
     | exact Keeps.refl _ | assumption | apply Keeps.ite | apply Keeps.ite2 | apply State.expAsk_keeps
     | apply State.idleExit_keeps | apply State.pwrCue_keeps | apply State.pwrDenied_keeps | apply State.setF_keeps
     | apply Keeps.foldl | apply Keeps.foldl2 | apply Keeps.foldl1 | apply hf | intro x hx | intro y
     | (extract_lets +onlyGivenNames x; clear_value x) | split | dsimp only | apply Keeps.upd_pwr

theorem execPwrReqRun_keeps {F : List Fld} {s t : State} (f_regs : Fld.regs ∈ F) (f_islands : Fld.islands ∈ F)
    (f_offers : Fld.offers ∈ F) (f_gated : Fld.gated ∈ F) (f_pwr : Fld.pwr ∈ F) (f_trk : Fld.trk ∈ F) (h : Keeps F s t)
    (init : Byte) :
    KeepsOut F s (execPwrReqRun init t) := by
  unfold execPwrReqRun
  with_reducible repeat' first
     | apply KeepsOut.next | exact Keeps.refl _ | assumption | apply State.pwrReq_keeps

theorem execPwrReqEntry_keeps {F : List Fld} {s t : State} (f_regs : Fld.regs ∈ F) (f_islands : Fld.islands ∈ F)
    (f_offers : Fld.offers ∈ F) (f_gated : Fld.gated ∈ F) (f_pwr : Fld.pwr ∈ F) (f_trk : Fld.trk ∈ F) (h : Keeps F s t)
    (init : Byte) (t' : Fin 4) :
    KeepsOut F s (execPwrReqEntry init t' t) := by
  unfold execPwrReqEntry
  with_reducible repeat' first
     | apply KeepsOut.next | exact Keeps.refl _ | assumption | apply State.pwrReq_keeps

theorem execPwrReqReserved_keeps {F : List Fld} {s t : State} (f_regs : Fld.regs ∈ F) (f_islands : Fld.islands ∈ F)
    (f_offers : Fld.offers ∈ F) (f_gated : Fld.gated ∈ F) (f_pwr : Fld.pwr ∈ F) (f_trk : Fld.trk ∈ F) (h : Keeps F s t)
    (init : Byte) :
    KeepsOut F s (execPwrReqReserved init t) := by
  unfold execPwrReqReserved
  with_reducible repeat' first
     | apply KeepsOut.next | exact Keeps.refl _ | assumption | apply State.pwrReq_keeps

theorem State.pwrVote_keeps {F : List Fld} {s t : State} (f_pwr : Fld.pwr ∈ F) (h : Keeps F s t) (init : Nat) (consent : Bool)
    (reason : Nat) :
    Keeps F s (State.pwrVote t init consent reason) := by
  unfold State.pwrVote
  with_reducible repeat' first
     | exact Keeps.refl _ | assumption | apply Keeps.ite | apply Keeps.ite2 | apply hf | intro x hx | intro y
     | (extract_lets +onlyGivenNames x; clear_value x) | split | dsimp only | apply Keeps.upd_pwr

theorem execPwrVote_keeps {F : List Fld} {s t : State} (f_pwr : Fld.pwr ∈ F) (h : Keeps F s t) (init : Byte) (consent : Bool)
    (reason : Byte) :
    KeepsOut F s (execPwrVote init consent reason t) := by
  unfold execPwrVote
  with_reducible repeat' first
     | apply KeepsOut.next | exact Keeps.refl _ | assumption | apply State.pwrVote_keeps

theorem State.refusalCount_keeps {F : List Fld} {s t : State} (f_regs : Fld.regs ∈ F) (h : Keeps F s t) (id : Nat)
    (reason : Nat) (t' : Nat) :
    Keeps F s (State.refusalCount t id reason t') := by
  unfold State.refusalCount
  with_reducible repeat' first
     | exact Keeps.refl _ | assumption | apply State.incSat_keeps | apply State.setF_keeps | apply State.setReg_keeps | apply hf
     | apply Keeps.id_ | intro x hx | intro y | (extract_lets +onlyGivenNames x; clear_value x) | split

theorem State.commitTrx_keeps {F : List Fld} {s t : State} (f_regs : Fld.regs ∈ F) (f_trx : Fld.trx ∈ F) (f_pwr : Fld.pwr ∈ F)
    (h : Keeps F s t)  :
    Keeps F s (State.commitTrx t) := by
  unfold State.commitTrx
  with_reducible repeat' first
     | exact Keeps.refl _ | assumption | apply Keeps.ite | apply State.setTrxOf_keeps | apply State.trxReq_keeps
     | apply Keeps.foldl | apply hf | intro x hx | intro y | (extract_lets +onlyGivenNames x; clear_value x) | split

theorem execConsentTimeout_keeps {F : List Fld} {s t : State} (f_regs : Fld.regs ∈ F) (f_islands : Fld.islands ∈ F)
    (f_dly : Fld.dly ∈ F) (f_offers : Fld.offers ∈ F) (f_trx : Fld.trx ∈ F) (f_pwr : Fld.pwr ∈ F) (f_trk : Fld.trk ∈ F)
    (h : Keeps F s t) (refused : BitVec 3) :
    KeepsOut F s (execConsentTimeout refused t) := by
  unfold execConsentTimeout
  with_reducible repeat' first
     | apply KeepsOut.next | exact Keeps.refl _ | assumption | apply KeepsOut.ite | apply Keeps.ite | apply Keeps.ite2
     | apply State.archiveRequest_keeps | apply State.commitTrx_keeps | apply State.entryAbort_keeps | apply State.entryEnd_keeps
     | apply State.expUndo_keeps | apply State.pwrCue_keeps | apply State.refusalCount_keeps | apply State.setF_keeps
     | apply State.stampPwr_keeps | apply KeepsOut.refused | apply Keeps.foldl | apply Keeps.foldl2 | apply Keeps.foldl1
     | apply hf | intro x hx | intro y

theorem State.parkDies_keeps {F : List Fld} {s t : State} (f_regs : Fld.regs ∈ F) (f_dies : Fld.dies ∈ F)
    (f_links : Fld.links ∈ F) (h : Keeps F s t)  :
    Keeps F s (State.parkDies t) := by
  unfold State.parkDies
  with_reducible repeat' first
     | exact Keeps.refl _ | assumption | apply Keeps.ite | apply State.dieClock_keeps | apply State.keepCopy_keeps
     | apply State.send_keeps | apply State.setF_keeps | apply State.setLnk_keeps | apply Keeps.foldl | apply hf | intro x hx
     | intro y

theorem execEntryStepsComplete_keeps {F : List Fld} {s t : State} (f_regs : Fld.regs ∈ F) (f_dies : Fld.dies ∈ F)
    (f_links : Fld.links ∈ F) (f_pwr : Fld.pwr ∈ F) (h : Keeps F s t) (sealed : BitVec 3) :
    KeepsOut F s (execEntryStepsComplete sealed t) := by
  unfold execEntryStepsComplete
  with_reducible repeat' first
     | apply KeepsOut.next | exact Keeps.refl _ | assumption | apply KeepsOut.ite | apply Keeps.ite | apply Keeps.ite2
     | apply State.parkDies_keeps | apply State.setF_keeps | apply hf | intro x hx | intro y
     | (extract_lets +onlyGivenNames x; clear_value x) | split | dsimp only | apply Keeps.upd_pwr

theorem State.accSeed_keeps {F : List Fld} {s t : State} (f_free : Fld.free ∈ F) (f_acc : Fld.acc ∈ F) (h : Keeps F s t)  :
    Keeps F s (State.accSeed t) := by
  unfold State.accSeed
  with_reducible repeat' first
     | exact Keeps.refl _ | assumption | apply Keeps.ite | apply Keeps.ite2 | apply State.drawn_keeps
     | (extract_lets +onlyGivenNames x; first | (refine Keeps.cut F s x ?_ (fun hx => ?_); rotate_left 1; clear_value x; rotate_left 1; unfold x) | clear_value x)
     | split | dsimp only | apply Keeps.upd_acc

theorem State.sensSleep_keeps {F : List Fld} {s t : State} (f_meas : Fld.meas ∈ F) (h : Keeps F s t) (keep : Bool) :
    Keeps F s (State.sensSleep t keep) := by
  unfold State.sensSleep
  with_reducible repeat' first
     | exact Keeps.refl _ | assumption | apply Keeps.ite | apply Keeps.ite2 | apply State.setSens_keeps | apply Keeps.foldl
     | apply Keeps.foldl2 | apply Keeps.foldl1 | apply hf | intro x hx | intro y

theorem State.sleepEnter_keeps {F : List Fld} {s t : State} (f_free : Fld.free ∈ F) (f_regs : Fld.regs ∈ F)
    (f_engs : Fld.engs ∈ F) (f_pwr : Fld.pwr ∈ F) (f_meas : Fld.meas ∈ F) (f_acc : Fld.acc ∈ F) (h : Keeps F s t)  :
    Keeps F s (State.sleepEnter t) := by
  unfold State.sleepEnter
  with_reducible repeat' first
     | exact Keeps.refl _ | assumption | apply Keeps.ite | apply State.accSeed_keeps | apply State.holdTimers_keeps
     | apply State.sensSleep_keeps | apply State.setF_keeps | (extract_lets +onlyGivenNames x; clear_value x) | split
     | apply Keeps.upd_pwr

theorem State.deepEnter_keeps {F : List Fld} {s t : State} (f_free : Fld.free ∈ F) (f_regs : Fld.regs ∈ F)
    (f_links : Fld.links ∈ F) (f_meas : Fld.meas ∈ F) (f_acc : Fld.acc ∈ F) (h : Keeps F s t)  :
    Keeps F s (State.deepEnter t) := by
  unfold State.deepEnter
  with_reducible repeat' first
     | exact Keeps.refl _ | assumption | apply State.accSeed_keeps | apply State.sensSleep_keeps | apply State.setF_keeps
     | apply State.setLnk_keeps | apply Keeps.foldl | apply Keeps.foldl2 | apply Keeps.foldl1 | apply hf | intro x hx | intro y

theorem State.powerOn_keeps {F : List Fld} {s t : State} (f_slate : Fld.slate ∈ F) (f_regs : Fld.regs ∈ F) (f_mem : Fld.mem ∈ F)
    (f_islands : Fld.islands ∈ F) (f_dly : Fld.dly ∈ F) (f_frm : Fld.frm ∈ F) (f_offers : Fld.offers ∈ F)
    (f_chans : Fld.chans ∈ F) (f_dies : Fld.dies ∈ F) (f_dieChs : Fld.dieChs ∈ F) (f_links : Fld.links ∈ F)
    (f_boost : Fld.boost ∈ F) (f_ldg : Fld.ldg ∈ F) (f_boot : Fld.boot ∈ F) (f_str : Fld.str ∈ F) (f_scr : Fld.scr ∈ F)
    (f_engs : Fld.engs ∈ F) (f_gated : Fld.gated ∈ F) (f_waiting : Fld.waiting ∈ F) (f_rr : Fld.rr ∈ F) (f_exec : Fld.exec ∈ F)
    (f_trx : Fld.trx ∈ F) (f_cans : Fld.cans ∈ F) (f_lins : Fld.lins ∈ F) (f_nm : Fld.nm ∈ F) (f_gw : Fld.gw ∈ F)
    (f_eth : Fld.eth ∈ F) (f_zrt : Fld.zrt ∈ F) (f_pwr : Fld.pwr ∈ F) (f_inp : Fld.inp ∈ F) (f_meas : Fld.meas ∈ F)
    (f_acc : Fld.acc ∈ F) (f_iso : Fld.iso ∈ F) (f_nvm : Fld.nvm ∈ F) (f_upd : Fld.upd ∈ F) (f_trk : Fld.trk ∈ F)
    (f_brg : Fld.brg ∈ F) (f_ports : Fld.ports ∈ F) (h : Keeps F s t)  :
    Keeps F s (State.powerOn t) := by
  unfold State.powerOn
  extract_lets r x
  have hr : Keeps F s r := State.powerOnRegs_keeps f_regs h
  exact ⟨h.variant, h.pending, hr.regs, fun _ => rfl, h.mram, h.ident, fun x hx => by
    cases x <;> first | exact h.same _ hx | exact absurd (by assumption) hx⟩

theorem State.offEnter_keeps {F : List Fld} {s t : State} (f_slate : Fld.slate ∈ F) (f_regs : Fld.regs ∈ F)
    (f_mem : Fld.mem ∈ F) (f_islands : Fld.islands ∈ F) (f_dly : Fld.dly ∈ F) (f_frm : Fld.frm ∈ F) (f_offers : Fld.offers ∈ F)
    (f_chans : Fld.chans ∈ F) (f_dies : Fld.dies ∈ F) (f_dieChs : Fld.dieChs ∈ F) (f_links : Fld.links ∈ F)
    (f_boost : Fld.boost ∈ F) (f_ldg : Fld.ldg ∈ F) (f_boot : Fld.boot ∈ F) (f_str : Fld.str ∈ F) (f_scr : Fld.scr ∈ F)
    (f_engs : Fld.engs ∈ F) (f_gated : Fld.gated ∈ F) (f_waiting : Fld.waiting ∈ F) (f_rr : Fld.rr ∈ F) (f_exec : Fld.exec ∈ F)
    (f_trx : Fld.trx ∈ F) (f_cans : Fld.cans ∈ F) (f_lins : Fld.lins ∈ F) (f_nm : Fld.nm ∈ F) (f_gw : Fld.gw ∈ F)
    (f_eth : Fld.eth ∈ F) (f_zrt : Fld.zrt ∈ F) (f_pwr : Fld.pwr ∈ F) (f_inp : Fld.inp ∈ F) (f_meas : Fld.meas ∈ F)
    (f_acc : Fld.acc ∈ F) (f_iso : Fld.iso ∈ F) (f_nvm : Fld.nvm ∈ F) (f_upd : Fld.upd ∈ F) (f_trk : Fld.trk ∈ F)
    (f_brg : Fld.brg ∈ F) (f_ports : Fld.ports ∈ F) (h : Keeps F s t)  :
    Keeps F s (State.offEnter t) := by
  unfold State.offEnter
  with_reducible repeat' first
     | exact Keeps.refl _ | assumption | apply State.powerOn_keeps | apply State.setReg_keeps | apply Keeps.foldl
     | apply Keeps.foldl2 | apply Keeps.foldl1 | apply hf | intro x hx | intro y
     | (extract_lets +onlyGivenNames x; refine Keeps.cut F s x ?_ (fun hx => ?_); rotate_left 1; clear_value x; rotate_left 1; unfold x)
     | dsimp only | apply Keeps.upd_boot_pwr

theorem execSealConfirm_keeps {F : List Fld} {s t : State} (f_slate : Fld.slate ∈ F) (f_free : Fld.free ∈ F)
    (f_regs : Fld.regs ∈ F) (f_mem : Fld.mem ∈ F) (f_islands : Fld.islands ∈ F) (f_dly : Fld.dly ∈ F) (f_frm : Fld.frm ∈ F)
    (f_offers : Fld.offers ∈ F) (f_chans : Fld.chans ∈ F) (f_dies : Fld.dies ∈ F) (f_dieChs : Fld.dieChs ∈ F)
    (f_links : Fld.links ∈ F) (f_boost : Fld.boost ∈ F) (f_ldg : Fld.ldg ∈ F) (f_boot : Fld.boot ∈ F) (f_str : Fld.str ∈ F)
    (f_scr : Fld.scr ∈ F) (f_engs : Fld.engs ∈ F) (f_gated : Fld.gated ∈ F) (f_waiting : Fld.waiting ∈ F) (f_rr : Fld.rr ∈ F)
    (f_exec : Fld.exec ∈ F) (f_trx : Fld.trx ∈ F) (f_cans : Fld.cans ∈ F) (f_lins : Fld.lins ∈ F) (f_nm : Fld.nm ∈ F)
    (f_gw : Fld.gw ∈ F) (f_eth : Fld.eth ∈ F) (f_zrt : Fld.zrt ∈ F) (f_pwr : Fld.pwr ∈ F) (f_inp : Fld.inp ∈ F)
    (f_meas : Fld.meas ∈ F) (f_acc : Fld.acc ∈ F) (f_iso : Fld.iso ∈ F) (f_nvm : Fld.nvm ∈ F) (f_upd : Fld.upd ∈ F)
    (f_trk : Fld.trk ∈ F) (f_brg : Fld.brg ∈ F) (f_ports : Fld.ports ∈ F) (h : Keeps F s t)  :
    KeepsOut F s (execSealConfirm t) := by
  unfold execSealConfirm
  with_reducible repeat' first
     | apply KeepsOut.next | exact Keeps.refl _ | assumption | apply KeepsOut.ite | apply Keeps.ite | apply Keeps.ite2
     | apply State.deepEnter_keeps | apply State.entryAbort_keeps | apply State.entryEnd_keeps | apply State.offEnter_keeps
     | apply State.setF_keeps | apply State.sleepEnter_keeps | apply State.stampPwr_keeps
     | (extract_lets +onlyGivenNames x; clear_value x) | split | dsimp only | apply Keeps.upd_pwr

theorem execWakeEvent_keeps {F : List Fld} {s t : State} (f_regs : Fld.regs ∈ F) (f_islands : Fld.islands ∈ F)
    (f_trx : Fld.trx ∈ F) (f_pwr : Fld.pwr ∈ F) (f_trk : Fld.trk ∈ F) (h : Keeps F s t) (bit : Fin 24) :
    KeepsOut F s (execWakeEvent bit t) := by
  unfold execWakeEvent
  with_reducible repeat' first
     | apply KeepsOut.next | exact Keeps.refl _ | assumption | apply State.wakeSource_keeps

theorem State.nmSleepExit_keeps {F : List Fld} {s t : State} (f_regs : Fld.regs ∈ F) (f_islands : Fld.islands ∈ F)
    (f_offers : Fld.offers ∈ F) (f_trx : Fld.trx ∈ F) (f_cans : Fld.cans ∈ F) (f_lins : Fld.lins ∈ F) (f_nm : Fld.nm ∈ F)
    (f_pwr : Fld.pwr ∈ F) (h : Keeps F s t)  :
    Keeps F s (State.nmSleepExit t) := by
  unfold State.nmSleepExit
  with_reducible repeat' first
     | exact Keeps.refl _ | assumption | apply Keeps.ite | apply State.nmBusWake_keeps | apply Keeps.foldl | intro x hx | intro y

theorem execSleepExit_keeps {F : List Fld} {s t : State} (f_slate : Fld.slate ∈ F) (f_free : Fld.free ∈ F)
    (f_regs : Fld.regs ∈ F) (f_islands : Fld.islands ∈ F) (f_offers : Fld.offers ∈ F) (f_engs : Fld.engs ∈ F)
    (f_trx : Fld.trx ∈ F) (f_cans : Fld.cans ∈ F) (f_lins : Fld.lins ∈ F) (f_nm : Fld.nm ∈ F) (f_pwr : Fld.pwr ∈ F)
    (f_inp : Fld.inp ∈ F) (f_meas : Fld.meas ∈ F) (f_acc : Fld.acc ∈ F) (h : Keeps F s t)  :
    KeepsOut F s (execSleepExit t) := by
  unfold execSleepExit
  with_reducible repeat' first
     | apply KeepsOut.next | exact Keeps.refl _ | assumption | apply KeepsOut.ite | apply Keeps.ite | apply Keeps.ite2
     | apply State.drawn_keeps | apply State.ins_keeps | apply State.nmSleepExit_keeps | apply State.restoreSlate_keeps
     | apply State.resumeTimers_keeps | apply State.sensApply_keeps | apply State.setF_keeps | apply State.setTrxOf_keeps
     | apply State.stampPwr_keeps | apply KeepsExe.ite | apply Keeps.foldl | apply Keeps.foldl2 | apply Keeps.foldl1 | apply hf
     | intro x hx | intro y
     | (extract_lets +onlyGivenNames x; first | (refine Keeps.cut F s x ?_ (fun hx => ?_); rotate_left 1; clear_value x; rotate_left 1; unfold x) | clear_value x)
     | split | dsimp only | apply Keeps.upd_acc_inp_pwr

theorem execCellarWakeTimer_keeps {F : List Fld} {s t : State} (f_regs : Fld.regs ∈ F) (f_islands : Fld.islands ∈ F)
    (f_trx : Fld.trx ∈ F) (f_pwr : Fld.pwr ∈ F) (f_trk : Fld.trk ∈ F) (h : Keeps F s t)  :
    KeepsOut F s (execCellarWakeTimer t) := by
  unfold execCellarWakeTimer
  with_reducible repeat' first
     | apply KeepsOut.next | exact Keeps.refl _ | assumption | apply KeepsOut.ite | apply Keeps.ite | apply State.wakeSource_keeps

theorem State.pollOne_keeps {F : List Fld} {s t : State} (f_regs : Fld.regs ∈ F) (f_islands : Fld.islands ∈ F)
    (f_trx : Fld.trx ∈ F) (f_pwr : Fld.pwr ∈ F) (f_inp : Fld.inp ∈ F) (f_trk : Fld.trk ∈ F) (h : Keeps F s t) (n : Nat)
    (lvl : Bool) :
    Keeps F s (State.pollOne t n lvl) := by
  unfold State.pollOne
  with_reducible repeat' first
     | exact Keeps.refl _ | assumption | apply Keeps.ite | apply State.raise_keeps | apply State.wakeSource_keeps | apply hf
     | intro x hx | intro y | (extract_lets +onlyGivenNames x; clear_value x) | split | apply Keeps.upd_inp

theorem execInputPoll_keeps {F : List Fld} {s t : State} (f_regs : Fld.regs ∈ F) (f_islands : Fld.islands ∈ F)
    (f_trx : Fld.trx ∈ F) (f_pwr : Fld.pwr ∈ F) (f_inp : Fld.inp ∈ F) (f_trk : Fld.trk ∈ F) (h : Keeps F s t)
    (levels : BitVec 96) :
    KeepsOut F s (execInputPoll levels t) := by
  unfold execInputPoll
  with_reducible repeat' first
     | apply KeepsOut.next | exact Keeps.refl _ | assumption | apply KeepsOut.ite | apply Keeps.ite | apply State.pollOne_keeps
     | apply Keeps.foldl | intro x hx | intro y

theorem execI2cAddressMatch_keeps {F : List Fld} {s t : State} (f_regs : Fld.regs ∈ F) (f_islands : Fld.islands ∈ F)
    (f_trx : Fld.trx ∈ F) (f_pwr : Fld.pwr ∈ F) (f_trk : Fld.trk ∈ F) (h : Keeps F s t) (addr : BitVec 7) :
    KeepsOut F s (execI2cAddressMatch addr t) := by
  unfold execI2cAddressMatch
  with_reducible repeat' first
     | apply KeepsOut.next | exact Keeps.refl _ | assumption | apply KeepsOut.ite | apply Keeps.ite | apply State.wakeSource_keeps
     | (extract_lets +onlyGivenNames x; first | (refine Keeps.cut F s x ?_ (fun hx => ?_); rotate_left 1; clear_value x; rotate_left 1; unfold x) | clear_value x)
     | split | apply Keeps.upd_pwr

theorem execMatcherSclRelease_keeps {F : List Fld} {s t : State} (f_pwr : Fld.pwr ∈ F) (h : Keeps F s t)  :
    KeepsOut F s (execMatcherSclRelease t) := by
  unfold execMatcherSclRelease
  with_reducible repeat' first
     | apply KeepsOut.next | exact Keeps.refl _ | assumption | apply KeepsOut.ite | apply Keeps.ite
     | (extract_lets +onlyGivenNames x; clear_value x) | split | apply Keeps.upd_pwr

theorem State.refusalClear_keeps {F : List Fld} {s t : State} (f_regs : Fld.regs ∈ F) (h : Keeps F s t)  :
    Keeps F s (State.refusalClear t) := by
  unfold State.refusalClear
  with_reducible repeat' first
     | exact Keeps.refl _ | assumption | apply State.setF_keeps | apply State.setReg_keeps | apply Keeps.foldl | intro x hx
     | intro y

theorem execRefusalTableClear_keeps {F : List Fld} {s t : State} (f_regs : Fld.regs ∈ F) (h : Keeps F s t)  :
    KeepsOut F s (execRefusalTableClear t) := by
  unfold execRefusalTableClear
  with_reducible repeat' first
     | apply KeepsOut.next | exact Keeps.refl _ | assumption | apply State.refusalClear_keeps

theorem execXingResyncReq_keeps {F : List Fld} {s t : State} (f_regs : Fld.regs ∈ F) (f_pwr : Fld.pwr ∈ F) (h : Keeps F s t)
    (frm : Fin 30) (dst : Fin 30) (pending : BitVec 16) :
    KeepsOut F s (execXingResyncReq frm dst pending t) := by
  unfold execXingResyncReq
  with_reducible repeat' first
     | apply KeepsOut.next | exact Keeps.refl _ | assumption | apply KeepsOut.ite | apply Keeps.ite | apply State.addSat_keeps
     | apply State.setF_keeps | apply State.setXing_keeps

theorem execXingResyncAck_keeps {F : List Fld} {s t : State} (f_regs : Fld.regs ∈ F) (f_pwr : Fld.pwr ∈ F) (h : Keeps F s t)
    (frm : Fin 30) (dst : Fin 30) :
    KeepsOut F s (execXingResyncAck frm dst t) := by
  unfold execXingResyncAck
  with_reducible repeat' first
     | apply KeepsOut.next | exact Keeps.refl _ | assumption | apply KeepsOut.ite | apply Keeps.ite | apply State.setXing_keeps

theorem execXingResyncOpen_keeps {F : List Fld} {s t : State} (f_regs : Fld.regs ∈ F) (f_pwr : Fld.pwr ∈ F) (h : Keeps F s t)
    (frm : Fin 30) (dst : Fin 30) :
    KeepsOut F s (execXingResyncOpen frm dst t) := by
  unfold execXingResyncOpen
  with_reducible repeat' first
     | apply KeepsOut.next | exact Keeps.refl _ | assumption | apply KeepsOut.ite | apply Keeps.ite | apply State.setXing_keeps
     | (extract_lets +onlyGivenNames x; clear_value x) | split | apply Keeps.upd_pwr

end Sys2Proof.Machine
end

