-- ==== Sys2Proof/Laws/KeepsUpdate.lean ====
section
/-! SUPPORT. What the operations and meanings of Machine/Update.lean keep. -/

namespace Sys2Proof.Machine

theorem State.updShow_keeps {F : List Fld} {s t : State} (f_regs : Fld.regs ∈ F) (h : Keeps F s t)  :
    Keeps F s (State.updShow t) := by
  unfold State.updShow
  with_reducible repeat' first
     | exact Keeps.refl _ | assumption | apply Keeps.ite | apply State.setF_keeps | apply Keeps.foldl | apply hf | intro x hx
     | intro y

theorem State.updEvent_keeps {F : List Fld} {s t : State} (f_regs : Fld.regs ∈ F) (f_islands : Fld.islands ∈ F)
    (f_offers : Fld.offers ∈ F) (h : Keeps F s t) (code : Nat) (data : Nat) :
    Keeps F s (State.updEvent t code data) := by
  unfold State.updEvent
  with_reducible repeat' first
     | exact Keeps.refl _ | assumption | apply State.stampUnit_keeps | apply State.unitCue_keeps

theorem State.rejPart_keeps {F : List Fld} {s t : State} (f_regs : Fld.regs ∈ F) (h : Keeps F s t) (type : Nat) (target : Nat)
    (conf : Nat) (confTarget : Nat) (module : Nat) (version : Nat) :
    Keeps F s (State.rejPart t type target conf confTarget module version) := by
  unfold State.rejPart
  with_reducible repeat' first
     | exact Keeps.refl _ | assumption | apply State.setF_keeps

theorem State.rejClear_keeps {F : List Fld} {s t : State} (f_regs : Fld.regs ∈ F) (h : Keeps F s t)  :
    Keeps F s (State.rejClear t) := by
  unfold State.rejClear
  with_reducible repeat' first
     | exact Keeps.refl _ | assumption | apply State.setF_keeps | apply State.setReg_keeps

theorem State.updReject_keeps {F : List Fld} {s t : State} (f_free : Fld.free ∈ F) (f_regs : Fld.regs ∈ F)
    (f_islands : Fld.islands ∈ F) (f_offers : Fld.offers ∈ F) (h : Keeps F s t) (r : Rej) (type : Nat) :
    Keeps F s (State.updReject t r type) := by
  unfold State.updReject
  with_reducible repeat' first
     | exact Keeps.refl _ | assumption | apply Keeps.ite | apply State.drawn_keeps | apply State.raise_keeps
     | apply State.rejClear_keeps | apply State.rejPart_keeps | apply State.setF_keeps | apply State.updEvent_keeps

theorem State.updOver_keeps {F : List Fld} {s t : State} (f_regs : Fld.regs ∈ F) (f_upd : Fld.upd ∈ F) (h : Keeps F s t)  :
    Keeps F s (State.updOver t) := by
  unfold State.updOver
  with_reducible repeat' first
     | exact Keeps.refl _ | assumption | apply State.setF_keeps
     | (extract_lets +onlyGivenNames x; first | (refine Keeps.cut F s x ?_ (fun hx => ?_); rotate_left 1; clear_value x; rotate_left 1; unfold x) | clear_value x)
     | dsimp only | apply Keeps.upd_upd

theorem State.revertRecord_keeps {F : List Fld} {s t : State} (f_regs : Fld.regs ∈ F) (f_islands : Fld.islands ∈ F)
    (f_offers : Fld.offers ∈ F) (f_upd : Fld.upd ∈ F) (h : Keeps F s t) (cause : Nat) :
    Keeps F s (State.revertRecord t cause) := by
  unfold State.revertRecord
  with_reducible repeat' first
     | exact Keeps.refl _ | assumption | apply Keeps.ite | apply State.raise_keeps | apply State.setF_keeps
     | apply State.updEvent_keeps | apply State.updOver_keeps | apply State.updShow_keeps

theorem State.updateReset_keeps {F : List Fld} {s t : State} (f_boot : Fld.boot ∈ F) (h : Keeps F s t)  :
    Keeps F s (State.updateReset t) := by
  unfold State.updateReset
  with_reducible repeat' first
     | exact Keeps.refl _ | assumption | (extract_lets +onlyGivenNames x; clear_value x) | dsimp only | apply Keeps.upd_boot

theorem State.updRevert_keeps {F : List Fld} {s t : State} (f_regs : Fld.regs ∈ F) (f_islands : Fld.islands ∈ F)
    (f_offers : Fld.offers ∈ F) (f_boot : Fld.boot ∈ F) (f_upd : Fld.upd ∈ F) (h : Keeps F s t) (cause : Nat) :
    Keeps F s (State.updRevert t cause) := by
  unfold State.updRevert
  with_reducible repeat' first
     | exact Keeps.refl _ | assumption | apply State.revertRecord_keeps | apply State.updateReset_keeps

theorem State.updAccept_keeps {F : List Fld} {s t : State} (f_regs : Fld.regs ∈ F) (f_islands : Fld.islands ∈ F)
    (f_offers : Fld.offers ∈ F) (f_nvm : Fld.nvm ∈ F) (f_upd : Fld.upd ∈ F) (h : Keeps F s t)  :
    Keeps F s (State.updAccept t) := by
  unfold State.updAccept
  with_reducible repeat' first
     | exact Keeps.refl _ | assumption | apply Keeps.ite | apply State.raise_keeps | apply State.setF_keeps
     | apply State.storeFree_keeps | apply State.updEvent_keeps | apply State.updOver_keeps

theorem execTrialTimeout_keeps {F : List Fld} {s t : State} (f_regs : Fld.regs ∈ F) (f_islands : Fld.islands ∈ F)
    (f_offers : Fld.offers ∈ F) (f_boot : Fld.boot ∈ F) (f_upd : Fld.upd ∈ F) (h : Keeps F s t)  :
    KeepsOut F s (execTrialTimeout t) := by
  unfold execTrialTimeout
  with_reducible repeat' first
     | apply KeepsOut.next | exact Keeps.refl _ | assumption | apply KeepsOut.ite | apply Keeps.ite | apply State.updRevert_keeps

theorem execExpansionTrialDecide_keeps {F : List Fld} {s t : State} (f_free : Fld.free ∈ F) (f_regs : Fld.regs ∈ F)
    (f_islands : Fld.islands ∈ F) (f_offers : Fld.offers ∈ F) (f_boot : Fld.boot ∈ F) (f_nvm : Fld.nvm ∈ F)
    (f_upd : Fld.upd ∈ F) (h : Keeps F s t) (gen : Word) (outcome : Fin 4) :
    KeepsOut F s (execExpansionTrialDecide gen outcome t) := by
  unfold execExpansionTrialDecide
  with_reducible repeat' first
     | apply KeepsOut.next | exact Keeps.refl _ | assumption | apply KeepsOut.ite | apply Keeps.ite | apply State.drawn_keeps
     | apply State.updAccept_keeps | apply State.updRevert_keeps

theorem State.updCmd_keeps {F : List Fld} {s t : State} (f_regs : Fld.regs ∈ F) (h : Keeps F s t) (init : Nat)
    (k : State → State) (h_k : ∀ y0 : State, Keeps F s y0 →  Keeps F s (k y0)) :
    Keeps F s (State.updCmd t init k) := by
  unfold State.updCmd
  with_reducible repeat' first
     | exact Keeps.refl _ | assumption | apply Keeps.ite | apply State.incSat_keeps | apply h_k

theorem State.updEnd_keeps {F : List Fld} {s t : State} (f_regs : Fld.regs ∈ F) (f_islands : Fld.islands ∈ F)
    (f_offers : Fld.offers ∈ F) (h : Keeps F s t) (init : Nat) (result : Nat) :
    Keeps F s (State.updEnd t init result) := by
  unfold State.updEnd
  with_reducible repeat' first
     | exact Keeps.refl _ | assumption | apply Keeps.ite | apply State.setF_keeps | apply State.stampUnit_keeps
     | apply State.unitCue_keeps

theorem State.updBegin_keeps {F : List Fld} {s t : State} (f_regs : Fld.regs ∈ F) (f_islands : Fld.islands ∈ F)
    (f_offers : Fld.offers ∈ F) (f_upd : Fld.upd ∈ F) (h : Keeps F s t) (init : Nat) (slot : Nat) :
    Keeps F s (State.updBegin t init slot) := by
  unfold State.updBegin
  with_reducible repeat' first
     | exact Keeps.refl _ | assumption | apply Keeps.ite | apply Keeps.ite2 | apply State.setF_keeps | apply State.updEnd_keeps
     | (extract_lets +onlyGivenNames x; clear_value x) | split | dsimp only | apply Keeps.upd_upd

theorem execUpdBegin_keeps {F : List Fld} {s t : State} (f_regs : Fld.regs ∈ F) (f_islands : Fld.islands ∈ F)
    (f_offers : Fld.offers ∈ F) (f_upd : Fld.upd ∈ F) (h : Keeps F s t) (init : Byte) (slot : Fin 2) :
    KeepsOut F s (execUpdBegin init slot t) := by
  unfold execUpdBegin
  with_reducible repeat' first
     | apply KeepsOut.next | exact Keeps.refl _ | assumption | apply State.updBegin_keeps | apply State.updCmd_keeps | intro x hx

theorem slotAt_le (n : Nat) : slotAt n ≤ 0x600000 := by unfold slotAt; split <;> omega

theorem State.updProgram_keeps {F : List Fld} {s t : State} (f_regs : Fld.regs ∈ F) (f_mram : Fld.mram ∈ F)
    (f_islands : Fld.islands ∈ F) (f_offers : Fld.offers ∈ F) (h : Keeps F s t) (init : Nat) : Keeps F s (t.updProgram init) := by
  unfold State.updProgram
  extract_lets src dst n x
  refine Keeps.ite (State.updEnd_keeps f_regs f_islands f_offers h _ _) ?_
  split
  · exact State.updEnd_keeps f_regs f_islands f_offers h _ _
  · rename_i hn
    have hl : x.1.length = n := by simp only [x, State.storeRead, State.rdBytes, List.length_map, List.length_range]
    refine State.updEnd_keeps f_regs f_islands f_offers (State.mwrBytes_keeps f_mram (State.storeRead_keeps f_offers h _ _ _) _ _ ?_) _ _
    have := slotAt_le t.upd.slot
    rw [hl]
    simp only [identAt]
    omega

theorem execUpdProgram_keeps {F : List Fld} {s t : State} (f_regs : Fld.regs ∈ F) (f_mram : Fld.mram ∈ F)
    (f_islands : Fld.islands ∈ F) (f_offers : Fld.offers ∈ F) (h : Keeps F s t) (init : Byte) :
    KeepsOut F s (execUpdProgram init t) := by
  unfold execUpdProgram
  with_reducible repeat' first
     | apply KeepsOut.next | exact Keeps.refl _ | assumption | apply State.updCmd_keeps | apply State.updProgram_keeps
     | intro x hx

theorem State.updCopyPart_keeps {F : List Fld} {s t : State} (f_regs : Fld.regs ∈ F) (f_mram : Fld.mram ∈ F)
    (f_islands : Fld.islands ∈ F) (f_offers : Fld.offers ∈ F) (h : Keeps F s t) (init type target : Nat) : Keeps F s
    (t.updCopyPart init type target) := by
  unfold State.updCopyPart
  extract_lets dst
  refine Keeps.ite (State.updEnd_keeps f_regs f_islands f_offers h _ _) ?_
  split
  · exact State.updEnd_keeps f_regs f_islands f_offers h _ _
  · split
    · exact State.updEnd_keeps f_regs f_islands f_offers h _ _
    · rename_i p _ hn
      refine State.updEnd_keeps f_regs f_islands f_offers (State.mwrBytes_keeps f_mram h _ _ ?_) _ _
      have := slotAt_le t.upd.slot
      simp only [State.mrdBytes, List.length_map, List.length_range, identAt]
      omega

theorem execUpdCopyPart_keeps {F : List Fld} {s t : State} (f_regs : Fld.regs ∈ F) (f_mram : Fld.mram ∈ F)
    (f_islands : Fld.islands ∈ F) (f_offers : Fld.offers ∈ F) (h : Keeps F s t) (init : Byte) (type : Fin 16) (target : Fin 4) :
    KeepsOut F s (execUpdCopyPart init type target t) := by
  unfold execUpdCopyPart
  with_reducible repeat' first
     | apply KeepsOut.next | exact Keeps.refl _ | assumption | apply State.updCmd_keeps | apply State.updCopyPart_keeps
     | intro x hx

theorem State.checkParts_keeps {F : List Fld} {s t : State} (f_free : Fld.free ∈ F) (f_regs : Fld.regs ∈ F)
    (f_islands : Fld.islands ∈ F) (f_offers : Fld.offers ∈ F) (h : Keeps F s t) (b : Nat) :
    Keeps F s (State.checkParts t b).2 := by
  unfold State.checkParts
  with_reducible repeat' first
     | exact Keeps.refl _ | assumption | apply Keeps.ite | apply Keeps.ite2 | apply State.rejClear_keeps
     | apply State.rejPart_keeps | apply State.updReject_keeps | intro x hx | intro y | split

theorem State.checkSet_keeps {F : List Fld} {s t : State} (f_regs : Fld.regs ∈ F) (h : Keeps F s t) (b : Nat)
    (remote : List RemotePart) :
    Keeps F s (State.checkSet t b remote).2 := by
  unfold State.checkSet
  with_reducible repeat' first
     | exact Keeps.refl _ | assumption | apply Keeps.ite | apply Keeps.ite2 | apply State.rejClear_keeps
     | apply State.rejPart_keeps | intro x hx | intro y | split

theorem State.checkRemote_keeps {F : List Fld} {s t : State} (f_regs : Fld.regs ∈ F) (h : Keeps F s t) (b : Nat)
    (res : List Byte) :
    Keeps F s (State.checkRemote t b res).2 := by
  unfold State.checkRemote
  with_reducible repeat' first
     | exact Keeps.refl _ | assumption | apply Keeps.ite | apply Keeps.ite2 | apply State.rejClear_keeps
     | apply State.rejPart_keeps | apply hf | intro x hx | intro y | (extract_lets +onlyGivenNames x; clear_value x) | split

theorem State.updCheck_keeps {F : List Fld} {s t : State} (f_free : Fld.free ∈ F) (f_regs : Fld.regs ∈ F)
    (f_islands : Fld.islands ∈ F) (f_offers : Fld.offers ∈ F) (f_upd : Fld.upd ∈ F) (h : Keeps F s t) (init : Nat)
    (remote : List RemotePart) (res : List Byte) :
    Keeps F s (State.updCheck t init remote res) := by
  unfold State.updCheck
  with_reducible repeat' first
     | exact Keeps.refl _ | assumption | apply Keeps.ite | apply Keeps.ite2 | apply State.checkParts_keeps
     | apply State.checkRemote_keeps | apply State.checkSet_keeps | apply State.setF_keeps | apply State.updEnd_keeps
     | apply State.updShow_keeps | apply hf | intro x hx | intro y | (extract_lets +onlyGivenNames x; clear_value x) | split
     | dsimp only | apply Keeps.upd_upd

theorem execUpdCheck_keeps {F : List Fld} {s t : State} (f_free : Fld.free ∈ F) (f_regs : Fld.regs ∈ F)
    (f_islands : Fld.islands ∈ F) (f_offers : Fld.offers ∈ F) (f_upd : Fld.upd ∈ F) (h : Keeps F s t) (init : Byte)
    (remote : List RemotePart) (r1 : Byte) (r2 : Byte) (r3 : Byte) :
    KeepsOut F s (execUpdCheck init remote r1 r2 r3 t) := by
  unfold execUpdCheck
  with_reducible repeat' first
     | apply KeepsOut.next | exact Keeps.refl _ | assumption | apply State.updCheck_keeps | apply State.updCmd_keeps | intro x hx

theorem State.updActivate_keeps {F : List Fld} {s t : State} (f_free : Fld.free ∈ F) (f_regs : Fld.regs ∈ F)
    (f_islands : Fld.islands ∈ F) (f_offers : Fld.offers ∈ F) (f_boot : Fld.boot ∈ F) (f_upd : Fld.upd ∈ F) (h : Keeps F s t)
    (init : Nat) (ready : Nat) (done : Nat) :
    Keeps F s (State.updActivate t init ready done) := by
  unfold State.updActivate
  with_reducible repeat' first
     | exact Keeps.refl _ | assumption | apply Keeps.ite | apply Keeps.ite2 | apply State.drawn_keeps | apply State.raise_keeps
     | apply State.setF_keeps | apply State.updEnd_keeps | apply State.updEvent_keeps | apply State.updOver_keeps
     | apply State.updShow_keeps | apply State.updateReset_keeps | apply hf | intro x hx | intro y
     | (extract_lets +onlyGivenNames x; clear_value x) | split | dsimp only | apply Keeps.upd_upd

theorem execUpdActivate_keeps {F : List Fld} {s t : State} (f_free : Fld.free ∈ F) (f_regs : Fld.regs ∈ F)
    (f_islands : Fld.islands ∈ F) (f_offers : Fld.offers ∈ F) (f_boot : Fld.boot ∈ F) (f_upd : Fld.upd ∈ F) (h : Keeps F s t)
    (init : Byte) (ready : BitVec 3) (done : BitVec 3) :
    KeepsOut F s (execUpdActivate init ready done t) := by
  unfold execUpdActivate
  with_reducible repeat' first
     | apply KeepsOut.next | exact Keeps.refl _ | assumption | apply State.updActivate_keeps | apply State.updCmd_keeps
     | intro x hx

theorem State.updAbort_keeps {F : List Fld} {s t : State} (f_regs : Fld.regs ∈ F) (f_islands : Fld.islands ∈ F)
    (f_offers : Fld.offers ∈ F) (f_upd : Fld.upd ∈ F) (h : Keeps F s t) (init : Nat) :
    Keeps F s (State.updAbort t init) := by
  unfold State.updAbort
  with_reducible repeat' first
     | exact Keeps.refl _ | assumption | apply Keeps.ite | apply Keeps.ite2 | apply State.setF_keeps | apply State.updEnd_keeps
     | (extract_lets +onlyGivenNames x; clear_value x) | split | dsimp only | apply Keeps.upd_upd

theorem execUpdAbort_keeps {F : List Fld} {s t : State} (f_regs : Fld.regs ∈ F) (f_islands : Fld.islands ∈ F)
    (f_offers : Fld.offers ∈ F) (f_upd : Fld.upd ∈ F) (h : Keeps F s t) (init : Byte) :
    KeepsOut F s (execUpdAbort init t) := by
  unfold execUpdAbort
  with_reducible repeat' first
     | apply KeepsOut.next | exact Keeps.refl _ | assumption | apply State.updAbort_keeps | apply State.updCmd_keeps | intro x hx

end Sys2Proof.Machine
end

