-- ==== Sys2Proof/Laws/KeepsBoot.lean ====
section
/-! SUPPORT. What the operations and meanings of Machine/Boot.lean keep. -/

namespace Sys2Proof.Machine

theorem State.bootTake_keeps {F : List Fld} {s t : State} (f_regs : Fld.regs ∈ F) (h : Keeps F s t) (sl : Nat) :
    Keeps F s (State.bootTake t sl) := by
  unfold State.bootTake
  with_reducible repeat' first
     | exact Keeps.refl _ | assumption | apply Keeps.ite | apply State.setF_keeps | apply State.updShow_keeps

theorem State.recoveryDue_keeps {F : List Fld} {s t : State} (f_regs : Fld.regs ∈ F) (f_boot : Fld.boot ∈ F) (h : Keeps F s t)  :
    Keeps F s (State.recoveryDue t) := by
  unfold State.recoveryDue
  with_reducible repeat' first
     | exact Keeps.refl _ | assumption | apply State.setF_keeps
     | (extract_lets +onlyGivenNames x; first | (refine Keeps.cut F s x ?_ (fun hx => ?_); rotate_left 1; clear_value x; rotate_left 1; unfold x) | clear_value x)
     | apply Keeps.upd_boot

theorem State.bootFallback_keeps {F : List Fld} {s t : State} (f_regs : Fld.regs ∈ F) (f_islands : Fld.islands ∈ F)
    (f_offers : Fld.offers ∈ F) (f_boot : Fld.boot ∈ F) (f_upd : Fld.upd ∈ F) (h : Keeps F s t) (sl : Nat) :
    Keeps F s (State.bootFallback t sl) := by
  unfold State.bootFallback
  with_reducible repeat' first
     | exact Keeps.refl _ | assumption | apply Keeps.ite | apply State.bootTake_keeps | apply State.raise_keeps
     | apply State.recoveryDue_keeps | apply State.revertRecord_keeps | apply State.setF_keeps | apply State.updEvent_keeps

theorem State.bootFull_keeps {F : List Fld} {s t : State} (f_regs : Fld.regs ∈ F) (f_islands : Fld.islands ∈ F)
    (f_offers : Fld.offers ∈ F) (f_boot : Fld.boot ∈ F) (f_upd : Fld.upd ∈ F) (h : Keeps F s t)  :
    Keeps F s (State.bootFull t) := by
  unfold State.bootFull
  with_reducible repeat' first
     | exact Keeps.refl _ | assumption | apply Keeps.ite | apply State.bootFallback_keeps | apply State.bootTake_keeps

theorem State.bootSelect_keeps {F : List Fld} {s t : State} (f_regs : Fld.regs ∈ F) (f_islands : Fld.islands ∈ F)
    (f_offers : Fld.offers ∈ F) (f_boot : Fld.boot ∈ F) (f_upd : Fld.upd ∈ F) (h : Keeps F s t)  :
    Keeps F s (State.bootSelect t) := by
  unfold State.bootSelect
  with_reducible repeat' first
     | exact Keeps.refl _ | assumption | apply Keeps.ite | apply State.bootFull_keeps | apply State.bootTake_keeps
     | apply State.recoveryDue_keeps | apply State.setF_keeps

theorem State.bootClocks_keeps {F : List Fld} {s t : State} (f_regs : Fld.regs ∈ F) (f_boot : Fld.boot ∈ F) (h : Keeps F s t)
    (xtalOk : Bool) :
    Keeps F s (State.bootClocks t xtalOk) := by
  unfold State.bootClocks
  with_reducible repeat' first
     | exact Keeps.refl _ | assumption | apply Keeps.ite | apply State.setF_keeps | apply Keeps.foldl | apply hf | intro x hx
     | intro y
     | (extract_lets +onlyGivenNames x; first | (refine Keeps.cut F s x ?_ (fun hx => ?_); rotate_left 1; clear_value x; rotate_left 1; unfold x) | clear_value x)
     | split | apply Keeps.upd_boot

theorem State.cabinetLoad_keeps {F : List Fld} {s t : State} (f_regs : Fld.regs ∈ F) (f_str : Fld.str ∈ F)
    (f_keys : Fld.keys ∈ F) (h : Keeps F s t) (ok : Bool) :
    Keeps F s (State.cabinetLoad t ok) := by
  unfold State.cabinetLoad
  with_reducible repeat' first
     | exact Keeps.refl _ | assumption | apply Keeps.ite | apply State.eraseKey_keeps | apply State.raise_keeps
     | apply Keeps.foldl | apply hf | intro x hx | intro y | (extract_lets +onlyGivenNames x; clear_value x) | split
     | apply Keeps.upd_str

theorem State.classMeasured_keeps {F : List Fld} {s t : State} (f_regs : Fld.regs ∈ F) (h : Keeps F s t)  :
    Keeps F s (State.classMeasured t) := by
  unfold State.classMeasured
  with_reducible repeat' first
     | exact Keeps.refl _ | assumption | apply State.setF_keeps

theorem State.bootStart_keeps {F : List Fld} {s t : State} (f_regs : Fld.regs ∈ F) (f_boot : Fld.boot ∈ F) (f_pwr : Fld.pwr ∈ F)
    (f_nvm : Fld.nvm ∈ F) (h : Keeps F s t) (cabinetOk : Bool) :
    Keeps F s (State.bootStart t cabinetOk) := by
  unfold State.bootStart
  with_reducible repeat' first
     | exact Keeps.refl _ | assumption | apply State.incMod_keeps | apply State.journalReplay_keeps | apply State.nvmShow_keeps
     | apply State.xingShow_keeps
     | (extract_lets +onlyGivenNames x; first | (refine Keeps.cut F s x ?_ (fun hx => ?_); rotate_left 1; clear_value x; rotate_left 1; unfold x) | clear_value x)
     | dsimp only | apply Keeps.upd_boot_pwr

theorem State.bootSlots_keeps {F : List Fld} {s t : State} (f_regs : Fld.regs ∈ F) (f_islands : Fld.islands ∈ F)
    (f_offers : Fld.offers ∈ F) (f_boot : Fld.boot ∈ F) (f_str : Fld.str ∈ F) (f_keys : Fld.keys ∈ F) (f_upd : Fld.upd ∈ F)
    (h : Keeps F s t)  :
    Keeps F s (State.bootSlots t) := by
  unfold State.bootSlots
  with_reducible repeat' first
     | exact Keeps.refl _ | assumption | apply Keeps.ite | apply State.bootSelect_keeps | apply State.cabinetLoad_keeps
     | apply State.updRevert_keeps
     | (extract_lets +onlyGivenNames x; first | (refine Keeps.cut F s x ?_ (fun hx => ?_); rotate_left 1; clear_value x; rotate_left 1; unfold x) | clear_value x)
     | split | apply Keeps.upd_boot

theorem State.offWake_keeps {F : List Fld} {s t : State} (f_regs : Fld.regs ∈ F) (h : Keeps F s t) (src : Nat) :
    Keeps F s (State.offWake t src) := by
  unfold State.offWake
  with_reducible repeat' first
     | exact Keeps.refl _ | assumption | apply Keeps.ite | apply State.raiseBits_keeps

theorem execPowerOnResetRelease_keeps {F : List Fld} {s t : State} (f_slate : Fld.slate ∈ F) (f_regs : Fld.regs ∈ F)
    (f_mem : Fld.mem ∈ F) (f_islands : Fld.islands ∈ F) (f_dly : Fld.dly ∈ F) (f_frm : Fld.frm ∈ F) (f_offers : Fld.offers ∈ F)
    (f_chans : Fld.chans ∈ F) (f_dies : Fld.dies ∈ F) (f_dieChs : Fld.dieChs ∈ F) (f_links : Fld.links ∈ F)
    (f_boost : Fld.boost ∈ F) (f_ldg : Fld.ldg ∈ F) (f_boot : Fld.boot ∈ F) (f_str : Fld.str ∈ F) (f_scr : Fld.scr ∈ F)
    (f_engs : Fld.engs ∈ F) (f_gated : Fld.gated ∈ F) (f_waiting : Fld.waiting ∈ F) (f_rr : Fld.rr ∈ F) (f_exec : Fld.exec ∈ F)
    (f_trx : Fld.trx ∈ F) (f_cans : Fld.cans ∈ F) (f_lins : Fld.lins ∈ F) (f_nm : Fld.nm ∈ F) (f_gw : Fld.gw ∈ F)
    (f_eth : Fld.eth ∈ F) (f_zrt : Fld.zrt ∈ F) (f_pwr : Fld.pwr ∈ F) (f_inp : Fld.inp ∈ F) (f_meas : Fld.meas ∈ F)
    (f_acc : Fld.acc ∈ F) (f_iso : Fld.iso ∈ F) (f_nvm : Fld.nvm ∈ F) (f_upd : Fld.upd ∈ F) (f_trk : Fld.trk ∈ F)
    (f_brg : Fld.brg ∈ F) (f_ports : Fld.ports ∈ F) (h : Keeps F s t) (role : Fin 4) (recovN : Bool) (xtalOk : Bool)
    (cabinetOk : Bool) (vbat : BitVec 16) :
    KeepsOut F s (execPowerOnResetRelease role recovN xtalOk cabinetOk vbat t) := by
  unfold execPowerOnResetRelease
  with_reducible repeat' first
     | apply KeepsOut.next | exact Keeps.refl _ | assumption | apply KeepsOut.ite | apply Keeps.ite | apply Keeps.ite2
     | apply State.archiveRequest_keeps | apply State.bandPlace_keeps | apply State.bootClocks_keeps | apply State.bootStart_keeps
     | apply State.classMeasured_keeps | apply State.incMod_keeps | apply State.offWake_keeps | apply State.powerOn_keeps
     | apply State.ringDrain_keeps | apply State.setF_keeps | apply State.stampUnit_keeps | apply State.updReset_keeps
     | (extract_lets +onlyGivenNames x; clear_value x) | split | dsimp only | apply Keeps.upd_boot

theorem execFullResetRelease_keeps {F : List Fld} {s t : State} (f_slate : Fld.slate ∈ F) (f_free : Fld.free ∈ F)
    (f_regs : Fld.regs ∈ F) (f_islands : Fld.islands ∈ F) (f_chans : Fld.chans ∈ F) (f_dies : Fld.dies ∈ F)
    (f_boost : Fld.boost ∈ F) (f_boot : Fld.boot ∈ F) (f_pwr : Fld.pwr ∈ F) (f_nvm : Fld.nvm ∈ F) (h : Keeps F s t)
    (xtalOk : Bool) (cabinetOk : Bool) (vbat : BitVec 16) :
    KeepsOut F s (execFullResetRelease xtalOk cabinetOk vbat t) := by
  unfold execFullResetRelease
  with_reducible repeat' first
     | apply KeepsOut.next | exact Keeps.refl _ | assumption | apply KeepsOut.ite | apply Keeps.ite | apply State.bandPlace_keeps
     | apply State.bootClocks_keeps | apply State.bootStart_keeps | apply State.classMeasured_keeps | apply State.dieRise_keeps
     | apply State.drawn_keeps | apply State.restoreSlate_keeps

theorem State.zeroLarder_keeps {F : List Fld} {s t : State} (f_mem : Fld.mem ∈ F) (h : Keeps F s t) (areas : List Nat) :
    Keeps F s (State.zeroLarder t areas) := by
  unfold State.zeroLarder
  exact Keeps.upd_mem f_mem h (fun k => (twf_filter _ _ _ k).1)

theorem execDeepSleepExit_keeps {F : List Fld} {s t : State} (f_slate : Fld.slate ∈ F) (f_free : Fld.free ∈ F)
    (f_regs : Fld.regs ∈ F) (f_mem : Fld.mem ∈ F) (f_islands : Fld.islands ∈ F) (f_dly : Fld.dly ∈ F) (f_frm : Fld.frm ∈ F)
    (f_offers : Fld.offers ∈ F) (f_chans : Fld.chans ∈ F) (f_ldg : Fld.ldg ∈ F) (f_boot : Fld.boot ∈ F) (f_str : Fld.str ∈ F)
    (f_scr : Fld.scr ∈ F) (f_engs : Fld.engs ∈ F) (f_gated : Fld.gated ∈ F) (f_waiting : Fld.waiting ∈ F) (f_rr : Fld.rr ∈ F)
    (f_exec : Fld.exec ∈ F) (f_trx : Fld.trx ∈ F) (f_cans : Fld.cans ∈ F) (f_lins : Fld.lins ∈ F) (f_nm : Fld.nm ∈ F)
    (f_gw : Fld.gw ∈ F) (f_eth : Fld.eth ∈ F) (f_zrt : Fld.zrt ∈ F) (f_pwr : Fld.pwr ∈ F) (f_inp : Fld.inp ∈ F)
    (f_meas : Fld.meas ∈ F) (f_acc : Fld.acc ∈ F) (f_iso : Fld.iso ∈ F) (f_nvm : Fld.nvm ∈ F) (f_trk : Fld.trk ∈ F)
    (f_brg : Fld.brg ∈ F) (f_ports : Fld.ports ∈ F) (h : Keeps F s t) (xtalOk : Bool) (cabinetOk : Bool) :
    KeepsOut F s (execDeepSleepExit xtalOk cabinetOk t) := by
  unfold execDeepSleepExit
  with_reducible repeat' first
     | apply KeepsOut.next | exact Keeps.refl _ | assumption | apply KeepsOut.ite | apply Keeps.ite | apply Keeps.ite2
     | apply State.bootClocks_keeps | apply State.bootStart_keeps | apply State.classMeasured_keeps | apply State.drawn_keeps
     | apply State.logicReset_keeps | apply State.restoreSlate_keeps | apply State.setF_keeps | apply State.setReg_keeps
     | apply State.showPending_keeps | apply State.stampPwr_keeps | apply State.zeroLarder_keeps | apply State.zeroMem_keeps
     | (extract_lets +onlyGivenNames x; first | (refine Keeps.cut F s x ?_ (fun hx => ?_); rotate_left 1; clear_value x; rotate_left 1; unfold x) | clear_value x)
     | split | dsimp only | apply Keeps.upd_acc_boot_inp | apply Keeps.upd_dly

theorem execStrongroomSelfTest_keeps {F : List Fld} {s t : State} (f_regs : Fld.regs ∈ F) (f_islands : Fld.islands ∈ F)
    (f_offers : Fld.offers ∈ F) (f_boot : Fld.boot ∈ F) (f_str : Fld.str ∈ F) (f_keys : Fld.keys ∈ F) (f_upd : Fld.upd ∈ F)
    (h : Keeps F s t) (pass : Bool) :
    KeepsOut F s (execStrongroomSelfTest pass t) := by
  unfold execStrongroomSelfTest
  with_reducible repeat' first
     | apply KeepsOut.next | exact Keeps.refl _ | assumption | apply KeepsOut.ite | apply Keeps.ite | apply State.bootSlots_keeps
     | apply State.debugBoot_keeps | apply State.incMod_keeps | apply State.setF_keeps
     | (extract_lets +onlyGivenNames x; clear_value x) | split | apply Keeps.upd_boot

theorem State.nmLoaded_keeps {F : List Fld} {s t : State} (f_regs : Fld.regs ∈ F) (f_islands : Fld.islands ∈ F)
    (f_offers : Fld.offers ∈ F) (f_trx : Fld.trx ∈ F) (f_cans : Fld.cans ∈ F) (f_lins : Fld.lins ∈ F) (f_nm : Fld.nm ∈ F)
    (f_pwr : Fld.pwr ∈ F) (h : Keeps F s t)  :
    Keeps F s (State.nmLoaded t) := by
  unfold State.nmLoaded
  with_reducible repeat' first
     | exact Keeps.refl _ | assumption | apply State.nmStart_keeps | apply Keeps.foldl | intro x hx

theorem State.measLoaded_keeps {F : List Fld} {s t : State} (f_regs : Fld.regs ∈ F) (f_meas : Fld.meas ∈ F) (h : Keeps F s t)  :
    Keeps F s (State.measLoaded t) := by
  unfold State.measLoaded
  with_reducible repeat' first
     | exact Keeps.refl _ | assumption | apply Keeps.ite | apply State.sensApply_keeps | apply State.setReg_keeps
     | apply Keeps.foldl | intro x hx | intro y

theorem State.profsLoaded_keeps {F : List Fld} {s t : State} (f_chans : Fld.chans ∈ F) (h : Keeps F s t)  :
    Keeps F s (State.profsLoaded t) := by
  unfold State.profsLoaded
  with_reducible repeat' first
     | exact Keeps.refl _ | assumption | apply Keeps.ite | apply State.setChan_keeps | apply Keeps.foldl | apply hf | intro x hx
     | intro y

theorem State.linksTrain_keeps {F : List Fld} {s t : State} (f_regs : Fld.regs ∈ F) (f_links : Fld.links ∈ F) (h : Keeps F s t)  :
    Keeps F s (State.linksTrain t) := by
  unfold State.linksTrain
  with_reducible repeat' first
     | exact Keeps.refl _ | assumption | apply Keeps.ite | apply State.dieClock_keeps | apply State.setLnk_keeps
     | apply Keeps.foldl | apply hf | intro x hx | intro y

theorem State.classLoaded_keeps {F : List Fld} {s t : State} (f_regs : Fld.regs ∈ F) (f_islands : Fld.islands ∈ F)
    (f_chans : Fld.chans ∈ F) (f_boost : Fld.boost ∈ F) (h : Keeps F s t) (v : Nat) :
    Keeps F s (State.classLoaded t v) := by
  unfold State.classLoaded
  with_reducible repeat' first
     | exact Keeps.refl _ | assumption | apply Keeps.ite | apply State.bandReplace_keeps | apply State.raise_keeps
     | apply State.stampPwr_keeps

theorem State.scriptLoaded_keeps {F : List Fld} {s t : State} (f_regs : Fld.regs ∈ F) (f_islands : Fld.islands ∈ F)
    (f_offers : Fld.offers ∈ F) (f_chans : Fld.chans ∈ F) (f_links : Fld.links ∈ F) (f_boost : Fld.boost ∈ F)
    (f_boot : Fld.boot ∈ F) (f_scr : Fld.scr ∈ F) (f_trx : Fld.trx ∈ F) (f_cans : Fld.cans ∈ F) (f_lins : Fld.lins ∈ F)
    (f_nm : Fld.nm ∈ F) (f_eth : Fld.eth ∈ F) (f_pwr : Fld.pwr ∈ F) (f_meas : Fld.meas ∈ F) (f_upd : Fld.upd ∈ F)
    (h : Keeps F s t) (body : List Byte) (v : Nat) :
    Keeps F s (State.scriptLoaded t body v) := by
  unfold State.scriptLoaded
  with_reducible repeat' first
     | exact Keeps.refl _ | assumption | apply Keeps.ite | apply Keeps.ite2 | apply State.adopt_keeps
     | apply State.classLoaded_keeps | apply State.linksTrain_keeps | apply State.measLoaded_keeps | apply State.nmLoaded_keeps
     | apply State.plcaLoad_keeps | apply State.profsLoaded_keeps | apply State.scriptScr_keeps | apply State.setF_keeps
     | (extract_lets +onlyGivenNames x; first | (refine Keeps.cut F s x ?_ (fun hx => ?_); rotate_left 1; clear_value x; rotate_left 1; unfold x) | clear_value x)
     | split | dsimp only | apply Keeps.upd_boost_eth | apply Keeps.upd_boot | apply Keeps.upd_upd

theorem execScriptLoad_keeps {F : List Fld} {s t : State} (f_free : Fld.free ∈ F) (f_regs : Fld.regs ∈ F) (f_mem : Fld.mem ∈ F)
    (f_islands : Fld.islands ∈ F) (f_offers : Fld.offers ∈ F) (f_chans : Fld.chans ∈ F) (f_links : Fld.links ∈ F)
    (f_boost : Fld.boost ∈ F) (f_boot : Fld.boot ∈ F) (f_scr : Fld.scr ∈ F) (f_engs : Fld.engs ∈ F) (f_trx : Fld.trx ∈ F)
    (f_cans : Fld.cans ∈ F) (f_lins : Fld.lins ∈ F) (f_nm : Fld.nm ∈ F) (f_eth : Fld.eth ∈ F) (f_pwr : Fld.pwr ∈ F)
    (f_inp : Fld.inp ∈ F) (f_meas : Fld.meas ∈ F) (f_nvm : Fld.nvm ∈ F) (f_upd : Fld.upd ∈ F) (h : Keeps F s t)
    (vbat : BitVec 16) :
    KeepsOut F s (execScriptLoad vbat t) := by
  unfold execScriptLoad
  with_reducible repeat' first
     | apply KeepsOut.next | exact Keeps.refl _ | assumption | apply KeepsOut.ite | apply Keeps.ite
     | apply State.bootFallback_keeps | apply State.scriptApply_keeps | apply State.scriptLoaded_keeps | apply State.setF_keeps
     | apply State.updReject_keeps | (extract_lets +onlyGivenNames x; clear_value x) | split

theorem execLazySectionLoad_keeps {F : List Fld} {s t : State} (f_regs : Fld.regs ∈ F) (f_mem : Fld.mem ∈ F)
    (f_islands : Fld.islands ∈ F) (f_offers : Fld.offers ∈ F) (f_links : Fld.links ∈ F) (f_engs : Fld.engs ∈ F)
    (f_trx : Fld.trx ∈ F) (f_cans : Fld.cans ∈ F) (f_lins : Fld.lins ∈ F) (f_nm : Fld.nm ∈ F) (f_pwr : Fld.pwr ∈ F)
    (f_inp : Fld.inp ∈ F) (f_meas : Fld.meas ∈ F) (f_nvm : Fld.nvm ∈ F) (f_upd : Fld.upd ∈ F) (h : Keeps F s t) : KeepsOut F s
    (execLazySectionLoad t) := by
  unfold execLazySectionLoad
  refine KeepsOut.next ?_
  split
  · exact h
  · refine Keeps.ite h ?_
    extract_lets v a w n p q
    have hv : Keeps F s v := by
      unfold v
      split
      · rename_i u hu; exact (State.scrSect_keeps f_regs f_mem f_links f_engs f_inp f_nvm h _ _).ok_keeps u hu
      · exact h
    have hw : Keeps F s w := Keeps.upd_upd f_upd hv
    have hp : Keeps F s p := Keeps.ite (State.measLoaded_keeps f_regs f_meas hw) hw
    have hq : Keeps F s q := Keeps.ite (State.nmLoaded_keeps f_regs f_islands f_offers f_trx f_cans f_lins f_nm f_pwr hp) hp
    exact Keeps.ite (State.updEvent_keeps f_regs f_islands f_offers (State.setF_keeps f_regs hq _ _) _ _) hq

theorem execRecoveryEntry_keeps {F : List Fld} {s t : State} (f_regs : Fld.regs ∈ F) (f_islands : Fld.islands ∈ F)
    (f_offers : Fld.offers ∈ F) (f_boot : Fld.boot ∈ F) (f_str : Fld.str ∈ F) (h : Keeps F s t)  :
    KeepsOut F s (execRecoveryEntry t) := by
  unfold execRecoveryEntry
  with_reducible repeat' first
     | apply KeepsOut.next | exact Keeps.refl _ | assumption | apply KeepsOut.ite | apply Keeps.ite | apply Keeps.ite2
     | apply State.raise_keeps | apply State.setF_keeps | apply State.updEvent_keeps
     | (extract_lets +onlyGivenNames x; clear_value x) | split | dsimp only | apply Keeps.upd_boot_str

end Sys2Proof.Machine
end

