-- ==== Sys2Proof/Laws/KeepsSpine.lean ====
section
/-! SUPPORT. What the operations and meanings of Machine/Spine.lean keep. -/

namespace Sys2Proof.Machine

theorem State.decodeErr_keeps {F : List Fld} {s t : State} (f_regs : Fld.regs ∈ F) (f_offers : Fld.offers ∈ F) (h : Keeps F s t)
    (init : Nat) (a : Nat) (write : Bool) :
    Keeps F s (State.decodeErr t init a write) := by
  unfold State.decodeErr
  with_reducible repeat' first
     | exact Keeps.refl _ | assumption | apply Keeps.ite | apply State.buserr_keeps | apply State.incSat_keeps
     | apply State.setF_keeps | apply State.setReg_keeps

theorem State.ungate_keeps {F : List Fld} {s t : State} (f_gated : Fld.gated ∈ F) (h : Keeps F s t) (a : Nat) :
    Keeps F s (State.ungate t a) := by
  unfold State.ungate
  with_reducible repeat' first
     | exact Keeps.refl _ | assumption | apply Keeps.ite | intro x hx | intro y | (extract_lets +onlyGivenNames x; clear_value x)
     | split | apply Keeps.upd_gated

theorem State.putPel_keeps {F : List Fld} {s t : State} (f_regs : Fld.regs ∈ F) (h : Keeps F s t) (k : Nat) (w : List Word) :
    Keeps F s (State.putPel t k w) := by
  unfold State.putPel
  with_reducible repeat' first
     | exact Keeps.refl _ | assumption | apply State.setReg_keeps | apply Keeps.foldl | intro x hx | intro y

theorem State.stopsEnd_keeps {F : List Fld} {s t : State} (f_regs : Fld.regs ∈ F) (h : Keeps F s t)  :
    Keeps F s (State.stopsEnd t) := by
  unfold State.stopsEnd
  with_reducible repeat' first
     | exact Keeps.refl _ | assumption | apply Keeps.ite | apply State.setF_keeps | apply Keeps.foldl | apply hf | intro x hx
     | intro y | (extract_lets +onlyGivenNames x; clear_value x) | split

theorem State.pelPop_keeps {F : List Fld} {s t : State} (f_regs : Fld.regs ∈ F) (h : Keeps F s t)  :
    Keeps F s (State.pelPop t) := by
  unfold State.pelPop
  with_reducible repeat' first
     | exact Keeps.refl _ | assumption | apply Keeps.ite | apply Keeps.ite2 | apply State.putPel_keeps | apply State.setF_keeps
     | apply State.setReg_keeps | apply State.stopsEnd_keeps | apply Keeps.foldl | apply Keeps.foldl2 | apply Keeps.foldl1
     | apply hf | intro x hx | intro y

theorem State.takeByte_keeps {F : List Fld} {s t : State} (f_regs : Fld.regs ∈ F) (h : Keeps F s t) (a : Nat) :
    Keeps F s (State.takeByte t a) := by
  unfold State.takeByte
  with_reducible repeat' first
     | exact Keeps.refl _ | assumption | apply Keeps.ite | apply Keeps.ite2 | apply State.pelPop_keeps
     | apply State.slotTake_keeps | split

theorem State.spineRead_keeps {F : List Fld} {s t : State} (f_regs : Fld.regs ∈ F) (f_offers : Fld.offers ∈ F)
    (f_gated : Fld.gated ∈ F) (h : Keeps F s t) (init : Nat) (a : Nat) (n : Nat) (spec : Bool) :
    Keeps F s (State.spineRead t init a n spec).st := by
  unfold State.spineRead
  with_reducible repeat' first
     | exact Keeps.refl _ | assumption | apply Keeps.ite | apply Keeps.ite2 | apply State.decodeErr_keeps
     | apply State.takeByte_keeps | apply State.ungate_keeps | apply State.watchTrig_keeps | apply Keeps.foldl
     | apply Keeps.foldl2 | apply Keeps.foldl1 | apply hf | intro x hx | intro y
     | (extract_lets +onlyGivenNames x; first | (refine Keeps.cut F s x ?_ (fun hx => ?_); rotate_left 1; clear_value x; rotate_left 1; unfold x) | clear_value x)
     | split

theorem State.plainWrite_keeps {F : List Fld} {s t : State} (f_regs : Fld.regs ∈ F) (h : Keeps F s t) (a : Nat) (w : Word)
    (m : Word) (sw : Bool) :
    Keeps F s (State.plainWrite t a w m sw) := by
  unfold State.plainWrite
  with_reducible repeat' first
     | exact Keeps.refl _ | assumption | apply State.setReg_keeps | split

theorem State.ctxPlain_keeps {F : List Fld} {s t : State} (f_regs : Fld.regs ∈ F) (f_links : Fld.links ∈ F) (h : Keeps F s t)
    (c : Nat) (off : Nat) (w : Word) (m : Word) :
    Keeps F s (State.ctxPlain t c off w m) := by
  unfold State.ctxPlain
  with_reducible repeat' first
     | exact Keeps.refl _ | assumption | apply Keeps.ite | apply State.plainWrite_keeps | apply State.sendCh_keeps

theorem State.ctxWrite_keeps {F : List Fld} {s t : State} (f_free : Fld.free ∈ F) (f_regs : Fld.regs ∈ F)
    (f_islands : Fld.islands ∈ F) (f_offers : Fld.offers ∈ F) (f_chans : Fld.chans ∈ F) (f_dieChs : Fld.dieChs ∈ F)
    (f_links : Fld.links ∈ F) (h : Keeps F s t) (init : Nat) (c : Nat) (off : Nat) (w : Word) (m : Word) :
    Keeps F s (State.ctxWrite t init c off w m).2 := by
  unfold State.ctxWrite
  with_reducible repeat' first
     | exact Keeps.refl _ | assumption | apply Keeps.ite | apply Keeps.ite2 | apply State.bDrvWrite_keeps
     | apply State.chCmdWrite_keeps | apply State.chPwmWrite_keeps | apply State.chRefuse_keeps | apply State.ctxPlain_keeps
     | apply State.envWrite_keeps | apply State.profCtlWrite_keeps | apply State.sigCfgWrite_keeps

theorem State.strWord_keeps {F : List Fld} {s t : State} (f_regs : Fld.regs ∈ F) (f_islands : Fld.islands ∈ F)
    (f_offers : Fld.offers ∈ F) (f_dies : Fld.dies ∈ F) (f_links : Fld.links ∈ F) (h : Keeps F s t) (init : Nat) (a : Nat)
    (w : Word) (m : Word) :
    Keeps F s (State.strWord t init a w m) := by
  unfold State.strWord
  with_reducible repeat' first
     | exact Keeps.refl _ | assumption | apply Keeps.ite | apply State.fsApplyWrite_keeps | apply State.fsReleaseWrite_keeps
     | apply State.fsTableWrite_keeps | apply State.holdWinWrite_keeps | apply State.kaCtlWrite_keeps
     | apply State.limpArmWrite_keeps | apply State.pinCtlWrite_keeps | apply State.plainWrite_keeps

theorem State.linCtlWord_keeps {F : List Fld} {s t : State} (f_regs : Fld.regs ∈ F) (f_islands : Fld.islands ∈ F)
    (f_offers : Fld.offers ∈ F) (f_trx : Fld.trx ∈ F) (f_lins : Fld.lins ∈ F) (f_pwr : Fld.pwr ∈ F) (h : Keeps F s t) (n : Nat)
    (init : Nat) (x : Word) :
    Keeps F s (State.linCtlWord t n init x) := by
  unfold State.linCtlWord
  with_reducible repeat' first
     | exact Keeps.refl _ | assumption | apply Keeps.ite | apply State.linGotoSleep_keeps | apply State.linRun_keeps
     | apply State.linSendWake_keeps | apply State.linTrxReq_keeps | apply State.setF_keeps

theorem State.canCtlWord_keeps {F : List Fld} {s t : State} (f_regs : Fld.regs ∈ F) (f_cans : Fld.cans ∈ F) (h : Keeps F s t)
    (n : Nat) (x : Word) :
    Keeps F s (State.canCtlWord t n x) := by
  unfold State.canCtlWord
  with_reducible repeat' first
     | exact Keeps.refl _ | assumption | apply Keeps.ite | apply State.canMode_keeps | apply State.canRecover_keeps

theorem State.updWord_keeps {F : List Fld} {s t : State} (f_free : Fld.free ∈ F) (f_regs : Fld.regs ∈ F) (f_mram : Fld.mram ∈ F)
    (f_islands : Fld.islands ∈ F) (f_offers : Fld.offers ∈ F) (f_boot : Fld.boot ∈ F) (f_upd : Fld.upd ∈ F) (h : Keeps F s t)
    (init : Nat) (w : Word) :
    Keeps F s (State.updWord t init w) := by
  unfold State.updWord
  with_reducible repeat' first
     | exact Keeps.refl _ | assumption | apply State.drawn_keeps | apply State.updAbort_keeps | apply State.updActivate_keeps
     | apply State.updBegin_keeps | apply State.updCheck_keeps | apply State.updCmd_keeps | apply State.updCopyPart_keeps
     | apply State.updProgram_keeps | intro x hx | intro y | split

theorem State.learnWord_keeps {F : List Fld} {s t : State} (f_free : Fld.free ∈ F) (f_regs : Fld.regs ∈ F)
    (f_islands : Fld.islands ∈ F) (f_offers : Fld.offers ∈ F) (f_keys : Fld.keys ∈ F) (f_acc : Fld.acc ∈ F) (h : Keeps F s t)
    (init : Nat) (w : Word) :
    Keeps F s (State.learnWord t init w) := by
  unfold State.learnWord
  with_reducible repeat' first
     | exact Keeps.refl _ | assumption | apply Keeps.ite | apply State.accLearn_keeps | apply State.accRevoke_keeps
     | apply State.accWrite_keeps | apply Keeps.id_

theorem State.authWord_keeps {F : List Fld} {s t : State} (f_regs : Fld.regs ∈ F) (f_islands : Fld.islands ∈ F)
    (f_offers : Fld.offers ∈ F) (f_acc : Fld.acc ∈ F) (h : Keeps F s t) (init : Nat) (w : Word) :
    Keeps F s (State.authWord t init w) := by
  unfold State.authWord
  with_reducible repeat' first
     | exact Keeps.refl _ | assumption | apply Keeps.ite | apply State.accGrant_keeps | apply State.accWrite_keeps
     | apply State.authEnd_keeps | apply Keeps.id_ | intro x hx

theorem State.fsyncOfs_keeps {F : List Fld} {s t : State} (f_regs : Fld.regs ∈ F) (h : Keeps F s t) (w : Word) (m : Word) :
    Keeps F s (State.fsyncOfs t w m) := by
  unfold State.fsyncOfs
  with_reducible repeat' first
     | exact Keeps.refl _ | assumption | apply Keeps.ite | apply State.plainWrite_keeps

theorem State.canWord_keeps {F : List Fld} {s t : State} (f_regs : Fld.regs ∈ F) (f_trx : Fld.trx ∈ F) (f_cans : Fld.cans ∈ F)
    (f_pwr : Fld.pwr ∈ F) (h : Keeps F s t) (init : Nat) (n : Nat) (a : Nat) (w : Word) (m : Word) (x : Word) :
    Keeps F s (State.canWord t init n a w m x) := by
  unfold State.canWord
  with_reducible repeat' first
     | exact Keeps.refl _ | assumption | apply Keeps.ite | apply State.canCtl_keeps | apply State.canCtlWord_keeps
     | apply State.canWakeClear_keeps | apply State.plainWrite_keeps | apply State.trxReq_keeps | intro x hx

theorem State.linWord_keeps {F : List Fld} {s t : State} (f_regs : Fld.regs ∈ F) (f_islands : Fld.islands ∈ F)
    (f_offers : Fld.offers ∈ F) (f_trx : Fld.trx ∈ F) (f_lins : Fld.lins ∈ F) (f_pwr : Fld.pwr ∈ F) (h : Keeps F s t)
    (init : Nat) (n : Nat) (a : Nat) (w : Word) (m : Word) (x : Word) :
    Keeps F s (State.linWord t init n a w m x) := by
  unfold State.linWord
  with_reducible repeat' first
     | exact Keeps.refl _ | assumption | apply Keeps.ite | apply State.linCtl_keeps | apply State.linCtlWord_keeps
     | apply State.linWakeClear_keeps | apply State.plainWrite_keeps | intro x hx

theorem State.gwWord_keeps {F : List Fld} {s t : State} (f_regs : Fld.regs ∈ F) (f_mem : Fld.mem ∈ F)
    (f_islands : Fld.islands ∈ F) (f_offers : Fld.offers ∈ F) (f_gw : Fld.gw ∈ F) (h : Keeps F s t) (init : Nat) (a : Nat)
    (w : Word) (m : Word) :
    Keeps F s (State.gwWord t init a w m) := by
  unfold State.gwWord
  with_reducible repeat' first
     | exact Keeps.refl _ | assumption | apply Keeps.ite | apply State.gwDiscard_keeps | apply State.gwRelease_keeps
     | apply State.gwSwap_keeps | apply State.inject_keeps | apply State.plainWrite_keeps

theorem State.pwrWord_keeps {F : List Fld} {s t : State} (f_regs : Fld.regs ∈ F) (f_islands : Fld.islands ∈ F)
    (f_offers : Fld.offers ∈ F) (f_gated : Fld.gated ∈ F) (f_pwr : Fld.pwr ∈ F) (f_trk : Fld.trk ∈ F) (h : Keeps F s t)
    (init : Nat) (a : Nat) (w : Word) (m : Word) :
    Keeps F s (State.pwrWord t init a w m) := by
  unfold State.pwrWord
  with_reducible repeat' first
     | exact Keeps.refl _ | assumption | apply Keeps.ite | apply State.plainWrite_keeps | apply State.pwrReq_keeps
     | apply State.pwrVote_keeps | apply State.refusalClear_keeps

theorem State.accWord_keeps {F : List Fld} {s t : State} (f_free : Fld.free ∈ F) (f_regs : Fld.regs ∈ F)
    (f_islands : Fld.islands ∈ F) (f_offers : Fld.offers ∈ F) (f_keys : Fld.keys ∈ F) (f_acc : Fld.acc ∈ F) (h : Keeps F s t)
    (init : Nat) (a : Nat) (w : Word) (m : Word) :
    Keeps F s (State.accWord t init a w m) := by
  unfold State.accWord
  with_reducible repeat' first
     | exact Keeps.refl _ | assumption | apply Keeps.ite | apply State.accWrite_keeps | apply State.authWord_keeps
     | apply State.dealerSubmit_keeps | apply State.learnWord_keeps | apply State.plainWrite_keeps | apply State.pollReq_keeps
     | apply State.setReg_keeps | apply Keeps.id_ | intro x hx

theorem State.unitWord_keeps {F : List Fld} {s t : State} (f_free : Fld.free ∈ F) (f_regs : Fld.regs ∈ F) (f_mem : Fld.mem ∈ F)
    (f_mram : Fld.mram ∈ F) (f_islands : Fld.islands ∈ F) (f_dly : Fld.dly ∈ F) (f_offers : Fld.offers ∈ F)
    (f_boot : Fld.boot ∈ F) (f_gated : Fld.gated ∈ F) (f_trx : Fld.trx ∈ F) (f_cans : Fld.cans ∈ F) (f_lins : Fld.lins ∈ F)
    (f_nm : Fld.nm ∈ F) (f_gw : Fld.gw ∈ F) (f_eth : Fld.eth ∈ F) (f_pwr : Fld.pwr ∈ F) (f_meas : Fld.meas ∈ F)
    (f_keys : Fld.keys ∈ F) (f_acc : Fld.acc ∈ F) (f_iso : Fld.iso ∈ F) (f_upd : Fld.upd ∈ F) (f_trk : Fld.trk ∈ F)
    (h : Keeps F s t) (init : Nat) (a : Nat) (w : Word) (m : Word) (x : Word) :
    Keeps F s (State.unitWord t init a w m x) := by
  unfold State.unitWord
  with_reducible repeat' first
     | exact Keeps.refl _ | assumption | apply Keeps.ite | apply State.accWord_keeps | apply State.archiveRequest_keeps
     | apply State.canWord_keeps | apply State.fsyncOfs_keeps | apply State.gwWord_keeps | apply State.insClear_keeps
     | apply State.isoCtlWrite_keeps | apply State.isoOutWrite_keeps | apply State.linWord_keeps | apply State.nmCtlWrite_keeps
     | apply State.plainWrite_keeps | apply State.plcaLoad_keeps | apply State.pwrWord_keeps | apply State.sensWrite_keeps
     | apply State.setF_keeps | apply State.setReg_keeps | apply State.tempWrite_keeps | apply State.updWord_keeps | split

theorem State.wordWrite_keeps {F : List Fld} {s t : State} (f_free : Fld.free ∈ F) (f_regs : Fld.regs ∈ F) (f_mem : Fld.mem ∈ F)
    (f_mram : Fld.mram ∈ F) (f_islands : Fld.islands ∈ F) (f_dly : Fld.dly ∈ F) (f_offers : Fld.offers ∈ F)
    (f_chans : Fld.chans ∈ F) (f_dies : Fld.dies ∈ F) (f_dieChs : Fld.dieChs ∈ F) (f_links : Fld.links ∈ F)
    (f_boot : Fld.boot ∈ F) (f_gated : Fld.gated ∈ F) (f_trx : Fld.trx ∈ F) (f_cans : Fld.cans ∈ F) (f_lins : Fld.lins ∈ F)
    (f_nm : Fld.nm ∈ F) (f_gw : Fld.gw ∈ F) (f_eth : Fld.eth ∈ F) (f_pwr : Fld.pwr ∈ F) (f_meas : Fld.meas ∈ F)
    (f_keys : Fld.keys ∈ F) (f_acc : Fld.acc ∈ F) (f_iso : Fld.iso ∈ F) (f_upd : Fld.upd ∈ F) (f_trk : Fld.trk ∈ F)
    (h : Keeps F s t) (init : Nat) (a : Nat) (w : Word) (m : Word) :
    Keeps F s (State.wordWrite t init a w m).2 := by
  unfold State.wordWrite
  with_reducible repeat' first
     | exact Keeps.refl _ | assumption | apply Keeps.ite | apply Keeps.ite2 | apply State.ctxWrite_keeps
     | apply State.strWord_keeps | apply State.unitWord_keeps

theorem State.canArea_keeps {F : List Fld} {s t : State} (f_regs : Fld.regs ∈ F) (f_mem : Fld.mem ∈ F)
    (f_islands : Fld.islands ∈ F) (f_offers : Fld.offers ∈ F) (f_trx : Fld.trx ∈ F) (f_cans : Fld.cans ∈ F)
    (f_lins : Fld.lins ∈ F) (f_nm : Fld.nm ∈ F) (f_gw : Fld.gw ∈ F) (f_eth : Fld.eth ∈ F) (f_pwr : Fld.pwr ∈ F)
    (f_trk : Fld.trk ∈ F) (h : Keeps F s t) (init : Nat) (n : Nat) (a : Nat) (bytes : List Byte) :
    Keeps F s (State.canArea t init n a bytes).2 := by
  unfold State.canArea
  with_reducible repeat' first
     | exact Keeps.refl _ | assumption | apply Keeps.ite | apply Keeps.ite2 | apply State.canWrite_keeps | apply Keeps.foldl
     | apply Keeps.foldl2 | apply Keeps.foldl1 | apply hf | intro x hx | intro y

theorem State.linArea_keeps {F : List Fld} {s t : State} (f_regs : Fld.regs ∈ F) (f_mem : Fld.mem ∈ F) (f_lins : Fld.lins ∈ F)
    (h : Keeps F s t) (init : Nat) (n : Nat) (a : Nat) (bytes : List Byte) :
    Keeps F s (State.linArea t init n a bytes) := by
  unfold State.linArea
  with_reducible repeat' first
     | exact Keeps.refl _ | assumption | apply Keeps.ite | apply State.linWrite_keeps | apply Keeps.foldl | intro x hx | intro y

theorem State.msgWrite_keeps {F : List Fld} {s t : State} (f_regs : Fld.regs ∈ F) (f_mem : Fld.mem ∈ F)
    (f_islands : Fld.islands ∈ F) (f_offers : Fld.offers ∈ F) (f_trx : Fld.trx ∈ F) (f_cans : Fld.cans ∈ F)
    (f_lins : Fld.lins ∈ F) (f_nm : Fld.nm ∈ F) (f_gw : Fld.gw ∈ F) (f_eth : Fld.eth ∈ F) (f_pwr : Fld.pwr ∈ F)
    (f_trk : Fld.trk ∈ F) (h : Keeps F s t) (init : Nat) (a : Nat) (bytes : List Byte) :
    Keeps F s (State.msgWrite t init a bytes).2 := by
  unfold State.msgWrite
  with_reducible repeat' first
     | exact Keeps.refl _ | assumption | apply Keeps.ite | apply Keeps.ite2 | apply State.canArea_keeps
     | apply State.linArea_keeps | apply State.wrBytes_keeps | apply Keeps.foldl | apply Keeps.foldl2 | apply Keeps.foldl1
     | apply hf | intro x hx | intro y

theorem State.memWrite_keeps {F : List Fld} {s t : State} (f_regs : Fld.regs ∈ F) (f_mem : Fld.mem ∈ F)
    (f_islands : Fld.islands ∈ F) (f_offers : Fld.offers ∈ F) (f_trx : Fld.trx ∈ F) (f_cans : Fld.cans ∈ F)
    (f_lins : Fld.lins ∈ F) (f_nm : Fld.nm ∈ F) (f_gw : Fld.gw ∈ F) (f_eth : Fld.eth ∈ F) (f_pwr : Fld.pwr ∈ F)
    (f_trk : Fld.trk ∈ F) (h : Keeps F s t) (init : Nat) (a : Nat) (bytes : List Byte) :
    Keeps F s (State.memWrite t init a bytes).2 := by
  unfold State.memWrite
  with_reducible repeat' first
     | exact Keeps.refl _ | assumption | apply Keeps.ite | apply Keeps.ite2 | apply State.flowWrite_keeps
     | apply State.gwRefuse_keeps | apply State.msgWrite_keeps | apply State.shadowWrite_keeps | apply State.storeWrite_keeps
     | apply State.wrBytes_keeps | apply Keeps.foldl | apply Keeps.foldl2 | apply Keeps.foldl1 | intro x hx | intro y

theorem State.windowWrite_keeps {F : List Fld} {s t : State} (f_regs : Fld.regs ∈ F) (f_islands : Fld.islands ∈ F)
    (f_offers : Fld.offers ∈ F) (f_str : Fld.str ∈ F) (f_gw : Fld.gw ∈ F) (f_nvm : Fld.nvm ∈ F) (h : Keeps F s t) (init : Nat)
    (a : Nat) (bytes : List Byte) :
    Keeps F s (State.windowWrite t init a bytes) := by
  unfold State.windowWrite
  with_reducible repeat' first
     | exact Keeps.refl _ | assumption | apply Keeps.ite | apply State.injWrite_keeps | apply State.shadowStashWrite_keeps
     | apply State.storeRequest_keeps | apply State.strRequest_keeps

theorem State.regWrite_keeps {F : List Fld} {s t : State} (f_free : Fld.free ∈ F) (f_regs : Fld.regs ∈ F) (f_mem : Fld.mem ∈ F)
    (f_mram : Fld.mram ∈ F) (f_islands : Fld.islands ∈ F) (f_dly : Fld.dly ∈ F) (f_offers : Fld.offers ∈ F)
    (f_chans : Fld.chans ∈ F) (f_dies : Fld.dies ∈ F) (f_dieChs : Fld.dieChs ∈ F) (f_links : Fld.links ∈ F)
    (f_boot : Fld.boot ∈ F) (f_str : Fld.str ∈ F) (f_gated : Fld.gated ∈ F) (f_trx : Fld.trx ∈ F) (f_cans : Fld.cans ∈ F)
    (f_lins : Fld.lins ∈ F) (f_nm : Fld.nm ∈ F) (f_gw : Fld.gw ∈ F) (f_eth : Fld.eth ∈ F) (f_pwr : Fld.pwr ∈ F)
    (f_meas : Fld.meas ∈ F) (f_keys : Fld.keys ∈ F) (f_acc : Fld.acc ∈ F) (f_iso : Fld.iso ∈ F) (f_nvm : Fld.nvm ∈ F)
    (f_upd : Fld.upd ∈ F) (f_trk : Fld.trk ∈ F) (h : Keeps F s t) (init : Nat) (a : Nat) (bytes : List Byte) :
    Keeps F s (State.regWrite t init a bytes).2 := by
  unfold State.regWrite
  with_reducible repeat' first
     | exact Keeps.refl _ | assumption | apply Keeps.ite | apply Keeps.ite2 | apply State.strDrop_keeps
     | apply State.windowWrite_keeps | apply State.wordWrite_keeps | apply Keeps.foldl | apply Keeps.foldl2 | apply Keeps.foldl1
     | apply hf | intro x hx | intro y | (extract_lets +onlyGivenNames x; clear_value x) | split

theorem State.spineWrite_keeps {F : List Fld} {s t : State} (f_free : Fld.free ∈ F) (f_regs : Fld.regs ∈ F)
    (f_mem : Fld.mem ∈ F) (f_mram : Fld.mram ∈ F) (f_islands : Fld.islands ∈ F) (f_dly : Fld.dly ∈ F)
    (f_offers : Fld.offers ∈ F) (f_chans : Fld.chans ∈ F) (f_dies : Fld.dies ∈ F) (f_dieChs : Fld.dieChs ∈ F)
    (f_links : Fld.links ∈ F) (f_boot : Fld.boot ∈ F) (f_str : Fld.str ∈ F) (f_gated : Fld.gated ∈ F) (f_trx : Fld.trx ∈ F)
    (f_cans : Fld.cans ∈ F) (f_lins : Fld.lins ∈ F) (f_nm : Fld.nm ∈ F) (f_gw : Fld.gw ∈ F) (f_eth : Fld.eth ∈ F)
    (f_pwr : Fld.pwr ∈ F) (f_meas : Fld.meas ∈ F) (f_keys : Fld.keys ∈ F) (f_acc : Fld.acc ∈ F) (f_iso : Fld.iso ∈ F)
    (f_nvm : Fld.nvm ∈ F) (f_upd : Fld.upd ∈ F) (f_trk : Fld.trk ∈ F) (h : Keeps F s t) (init : Nat) (a : Nat)
    (bytes : List Byte) :
    Keeps F s (State.spineWrite t init a bytes).st := by
  unfold State.spineWrite
  with_reducible repeat' first
     | exact Keeps.refl _ | assumption | apply Keeps.ite | apply Keeps.ite2 | apply State.absentWrite_keeps
     | apply State.decodeErr_keeps | apply State.incSat_keeps | apply State.memWrite_keeps | apply State.regWrite_keeps
     | apply State.ungate_keeps | apply hf | intro x hx | intro y
     | (extract_lets +onlyGivenNames x; first | (refine Keeps.cut F s x ?_ (fun hx => ?_); rotate_left 1; clear_value x; rotate_left 1; unfold x) | (refine Keeps.cut2 F s x ?_ (fun hx => ?_); rotate_left 1; clear_value x; rotate_left 1; unfold x) | (refine Keeps.cutF F s x ?_ (fun hf => ?_); rotate_left 1; clear_value x; rotate_left 1; unfold x) | clear_value x)
     | split

theorem State.spineLocked_keeps {F : List Fld} {s t : State} (f_mem : Fld.mem ∈ F) (f_offers : Fld.offers ∈ F) (h : Keeps F s t)
    (init : Nat) (a : Nat) (tas : Bool) (x : Byte) :
    Keeps F s (State.spineLocked t init a tas x).st := by
  unfold State.spineLocked
  with_reducible repeat' first
     | exact Keeps.refl _ | assumption | apply Keeps.ite | apply Keeps.ite2 | apply State.storeWrite_keeps
     | apply State.watchTrig_keeps
     | (extract_lets +onlyGivenNames x; first | (refine Keeps.cut F s x ?_ (fun hx => ?_); rotate_left 1; clear_value x; rotate_left 1; unfold x) | clear_value x)
     | split

end Sys2Proof.Machine
end

