-- ==== Sys2Proof/Laws/KeepsNotify.lean ====
section
/-! SUPPORT. What the operations and meanings of Machine/Notify.lean keep. -/

namespace Sys2Proof.Machine

theorem State.setSes_keeps {F : List Fld} {s t : State} (f_regs : Fld.regs ∈ F) (f_zrt : Fld.zrt ∈ F) (h : Keeps F s t)
    (k : Nat) (x : ZrtSes) :
    Keeps F s (State.setSes t k x) := by
  unfold State.setSes
  with_reducible repeat' first
     | exact Keeps.refl _ | assumption | apply State.setF_keeps | apply hf | intro x hx | intro y
     | (extract_lets +onlyGivenNames x; clear_value x) | apply Keeps.upd_zrt

theorem State.zrtFlag_keeps {F : List Fld} {s t : State} (f_regs : Fld.regs ∈ F) (h : Keeps F s t) (r : RF) :
    Keeps F s (State.zrtFlag t r) := by
  unfold State.zrtFlag
  with_reducible repeat' first
     | exact Keeps.refl _ | assumption | apply State.raise_keeps

theorem State.zrtSend_keeps {F : List Fld} {s t : State} (f_eth : Fld.eth ∈ F) (h : Keeps F s t) (k : Nat) (content : List Byte) :
    Keeps F s (State.zrtSend t k content) := by
  unfold State.zrtSend
  with_reducible repeat' first
     | exact Keeps.refl _ | assumption | apply Keeps.ite | apply State.ethPut_keeps | apply hf | intro x hx | intro y
     | (extract_lets +onlyGivenNames x; clear_value x) | split | dsimp only | apply Keeps.upd_eth

theorem State.noteSend_keeps {F : List Fld} {s t : State} (f_regs : Fld.regs ∈ F) (f_eth : Fld.eth ∈ F) (f_zrt : Fld.zrt ∈ F)
    (h : Keeps F s t) (k : Nat) :
    Keeps F s (State.noteSend t k) := by
  unfold State.noteSend
  with_reducible repeat' first
     | exact Keeps.refl _ | assumption | apply Keeps.ite | apply Keeps.ite2 | apply State.setSes_keeps | apply State.zrtSend_keeps

theorem State.noteQueue_keeps {F : List Fld} {s t : State} (f_regs : Fld.regs ∈ F) (f_zrt : Fld.zrt ∈ F) (h : Keeps F s t)
    (k : Nat) (n : Nat) (c : Cue) :
    Keeps F s (State.noteQueue t k n c) := by
  unfold State.noteQueue
  with_reducible repeat' first
     | exact Keeps.refl _ | assumption | apply Keeps.ite | apply Keeps.ite2 | apply State.incSat_keeps | apply State.setSes_keeps
     | apply State.zrtFlag_keeps

theorem State.noteForward_keeps {F : List Fld} {s t : State} (f_trk : Fld.trk ∈ F) (h : Keeps F s t) (k : Nat) :
    Keeps F s (State.noteForward t k) := by
  unfold State.noteForward
  with_reducible repeat' first
     | exact Keeps.refl _ | assumption | apply Keeps.ite | apply Keeps.ite2 | apply State.trkSend_keeps | apply Keeps.foldl
     | apply Keeps.foldl2 | apply Keeps.foldl1 | apply hf | intro x hx | intro y

theorem State.noteOffer_keeps {F : List Fld} {s t : State} (f_regs : Fld.regs ∈ F) (f_eth : Fld.eth ∈ F) (f_zrt : Fld.zrt ∈ F)
    (f_trk : Fld.trk ∈ F) (h : Keeps F s t) (k : Nat) (n : Nat) (c : Cue) :
    Keeps F s (State.noteOffer t k n c) := by
  unfold State.noteOffer
  with_reducible repeat' first
     | exact Keeps.refl _ | assumption | apply Keeps.ite | apply State.noteForward_keeps | apply State.noteQueue_keeps
     | apply State.noteSend_keeps

theorem State.noteCue_keeps {F : List Fld} {s t : State} (f_free : Fld.free ∈ F) (f_regs : Fld.regs ∈ F) (f_eth : Fld.eth ∈ F)
    (f_zrt : Fld.zrt ∈ F) (f_trk : Fld.trk ∈ F) (h : Keeps F s t) (k : Nat) (c : Cue) :
    Keeps F s (State.noteCue t k c) := by
  unfold State.noteCue
  with_reducible repeat' first
     | exact Keeps.refl _ | assumption | apply State.drawn_keeps | apply State.noteOffer_keeps

theorem execCuePost_keeps {F : List Fld} {s t : State} (f_free : Fld.free ∈ F) (f_regs : Fld.regs ∈ F)
    (f_islands : Fld.islands ∈ F) (f_offers : Fld.offers ∈ F) (f_engs : Fld.engs ∈ F) (f_gated : Fld.gated ∈ F)
    (f_eth : Fld.eth ∈ F) (f_zrt : Fld.zrt ∈ F) (f_trk : Fld.trk ∈ F) (h : Keeps F s t)  :
    KeepsOut F s (execCuePost t) := by
  unfold execCuePost
  with_reducible repeat' first
     | apply KeepsOut.next | exact Keeps.refl _ | assumption | apply KeepsOut.ite | apply Keeps.ite | apply State.idleExit_keeps
     | apply State.noteCue_keeps | apply State.offerCue_keeps | (extract_lets +onlyGivenNames x; clear_value x) | split
     | dsimp only | apply Keeps.upd_offers

theorem execNotifyBatchTimeout_keeps {F : List Fld} {s t : State} (f_regs : Fld.regs ∈ F) (f_eth : Fld.eth ∈ F)
    (f_zrt : Fld.zrt ∈ F) (h : Keeps F s t) (k : Fin 8) :
    KeepsOut F s (execNotifyBatchTimeout k t) := by
  unfold execNotifyBatchTimeout
  with_reducible repeat' first
     | apply KeepsOut.next | exact Keeps.refl _ | assumption | apply KeepsOut.ite | apply Keeps.ite | apply State.noteSend_keeps

theorem execNotifyRetransmit_keeps {F : List Fld} {s t : State} (f_eth : Fld.eth ∈ F) (h : Keeps F s t) (k : Fin 8)
    (seq : BitVec 16) :
    KeepsOut F s (execNotifyRetransmit k seq t) := by
  unfold execNotifyRetransmit
  with_reducible repeat' first
     | apply KeepsOut.next | exact Keeps.refl _ | assumption | apply KeepsOut.ite | apply Keeps.ite | apply State.zrtSend_keeps
     | intro x hx | intro y | split

end Sys2Proof.Machine
end

