-- ==== Sys2Proof/Laws/KeepsBridge.lean ====
section
/-! SUPPORT. What the operations and meanings of Machine/Bridge.lean keep. -/

namespace Sys2Proof.Machine

theorem State.farSend_keeps {F : List Fld} {s t : State} (f_trk : Fld.trk ∈ F) (h : Keeps F s t) (r : TrkReq) :
    Keeps F s (State.farSend t r) := by
  unfold State.farSend
  with_reducible repeat' first
     | exact Keeps.refl _ | assumption | apply State.trkSend_keeps

theorem State.countRead_keeps {F : List Fld} {s t : State} (f_regs : Fld.regs ∈ F) (h : Keeps F s t) (spec : Bool) :
    Keeps F s (State.countRead t spec) := by
  unfold State.countRead
  with_reducible repeat' first
     | exact Keeps.refl _ | assumption | apply Keeps.ite | apply State.incMod_keeps

theorem State.countSpecRefused_keeps {F : List Fld} {s t : State} (f_regs : Fld.regs ∈ F) (h : Keeps F s t) (status : Nat) :
    Keeps F s (State.countSpecRefused t status) := by
  unfold State.countSpecRefused
  with_reducible repeat' first
     | exact Keeps.refl _ | assumption | apply Keeps.ite | apply State.incSat_keeps

theorem State.pfTouch_keeps {F : List Fld} {s t : State} (f_brg : Fld.brg ∈ F) (h : Keeps F s t) (b : BrgBuf) :
    Keeps F s (State.pfTouch t b) := by
  unfold State.pfTouch
  with_reducible repeat' first
     | exact Keeps.refl _ | assumption | (extract_lets +onlyGivenNames x; clear_value x) | apply Keeps.upd_brg

theorem State.pfAlloc_keeps {F : List Fld} {s t : State} (f_brg : Fld.brg ∈ F) (h : Keeps F s t) (bridge : Nat) (init : Nat)
    (base : Nat) (len : Nat) :
    Keeps F s (State.pfAlloc t bridge init base len) := by
  unfold State.pfAlloc
  with_reducible repeat' first
     | exact Keeps.refl _ | assumption | apply Keeps.ite | apply Keeps.ite2 | apply hf | intro x hx | intro y
     | (extract_lets +onlyGivenNames x; clear_value x) | split | dsimp only | apply Keeps.upd_brg

theorem State.pfFill_keeps {F : List Fld} {s t : State} (f_brg : Fld.brg ∈ F) (h : Keeps F s t) (bridge : Nat) (init : Nat)
    (a : Nat) (data : List Byte) :
    Keeps F s (State.pfFill t bridge init a data) := by
  unfold State.pfFill
  with_reducible repeat' first
     | exact Keeps.refl _ | assumption | apply Keeps.ite | apply hf | intro x hx | intro y
     | (extract_lets +onlyGivenNames x; clear_value x) | split | dsimp only | apply Keeps.upd_brg

theorem State.pfInvalidate_keeps {F : List Fld} {s t : State} (f_trk : Fld.trk ∈ F) (f_brg : Fld.brg ∈ F) (h : Keeps F s t)
    (a : Nat) (n : Nat) :
    Keeps F s (State.pfInvalidate t a n) := by
  unfold State.pfInvalidate
  with_reducible repeat' first
     | exact Keeps.refl _ | assumption | apply Keeps.ite | apply Keeps.ite2 | apply hf | intro x hx | intro y
     | (extract_lets +onlyGivenNames x; clear_value x) | split | dsimp only | apply Keeps.upd_brg_trk

theorem State.pfOne_keeps {F : List Fld} {s t : State} (f_regs : Fld.regs ∈ F) (f_offers : Fld.offers ∈ F)
    (f_gated : Fld.gated ∈ F) (f_trk : Fld.trk ∈ F) (f_brg : Fld.brg ∈ F) (h : Keeps F s t) (bridge : Nat) (init : Nat)
    (a : Nat) (n : Nat) :
    Keeps F s (State.pfOne t bridge init a n) := by
  unfold State.pfOne
  with_reducible repeat' first
     | exact Keeps.refl _ | assumption | apply Keeps.ite | apply Keeps.ite2 | apply State.countRead_keeps
     | apply State.countSpecRefused_keeps | apply State.farSend_keeps | apply State.pfFill_keeps | apply State.spineRead_keeps

theorem State.prefetch_keeps {F : List Fld} {s t : State} (f_regs : Fld.regs ∈ F) (f_offers : Fld.offers ∈ F)
    (f_gated : Fld.gated ∈ F) (f_trk : Fld.trk ∈ F) (f_brg : Fld.brg ∈ F) (h : Keeps F s t) (bridge : Nat) (init : Nat)
    (a : Nat) (n : Nat) :
    Keeps F s (State.prefetch t bridge init a n) := by
  unfold State.prefetch
  with_reducible repeat' first
     | exact Keeps.refl _ | assumption | apply Keeps.ite | apply State.pfAlloc_keeps | apply State.pfOne_keeps | apply Keeps.foldl
     | apply hf | intro x hx | intro y | (extract_lets +onlyGivenNames x; clear_value x) | split

theorem State.postedEnter_keeps {F : List Fld} {s t : State} (f_free : Fld.free ∈ F) (f_regs : Fld.regs ∈ F)
    (f_mem : Fld.mem ∈ F) (f_mram : Fld.mram ∈ F) (f_islands : Fld.islands ∈ F) (f_dly : Fld.dly ∈ F)
    (f_offers : Fld.offers ∈ F) (f_chans : Fld.chans ∈ F) (f_dies : Fld.dies ∈ F) (f_dieChs : Fld.dieChs ∈ F)
    (f_links : Fld.links ∈ F) (f_boot : Fld.boot ∈ F) (f_str : Fld.str ∈ F) (f_gated : Fld.gated ∈ F) (f_trx : Fld.trx ∈ F)
    (f_cans : Fld.cans ∈ F) (f_lins : Fld.lins ∈ F) (f_nm : Fld.nm ∈ F) (f_gw : Fld.gw ∈ F) (f_eth : Fld.eth ∈ F)
    (f_pwr : Fld.pwr ∈ F) (f_meas : Fld.meas ∈ F) (f_keys : Fld.keys ∈ F) (f_acc : Fld.acc ∈ F) (f_iso : Fld.iso ∈ F)
    (f_nvm : Fld.nvm ∈ F) (f_upd : Fld.upd ∈ F) (f_trk : Fld.trk ∈ F) (f_brg : Fld.brg ∈ F) (h : Keeps F s t) (r : TrkReq) :
    Keeps F s (State.postedEnter t r) := by
  unfold State.postedEnter
  with_reducible repeat' first
     | exact Keeps.refl _ | assumption | apply Keeps.ite | apply Keeps.ite2 | apply State.farSend_keeps
     | apply State.spineWrite_keeps
     | (extract_lets +onlyGivenNames x; first | (refine Keeps.cut F s x ?_ (fun hx => ?_); rotate_left 1; clear_value x; rotate_left 1; unfold x) | clear_value x)
     | split | dsimp only | apply Keeps.upd_brg

theorem State.perrCue_keeps {F : List Fld} {s t : State} (f_offers : Fld.offers ∈ F) (h : Keeps F s t) (init : Nat) (a : Nat)
    (n : Nat) (status : Nat) :
    Keeps F s (State.perrCue t init a n status) := by
  unfold State.perrCue
  with_reducible repeat' first
     | exact Keeps.refl _ | assumption | apply State.postCue_keeps

theorem State.postedWrite_keeps {F : List Fld} {s t : State} (f_free : Fld.free ∈ F) (f_regs : Fld.regs ∈ F)
    (f_mem : Fld.mem ∈ F) (f_mram : Fld.mram ∈ F) (f_islands : Fld.islands ∈ F) (f_dly : Fld.dly ∈ F)
    (f_offers : Fld.offers ∈ F) (f_chans : Fld.chans ∈ F) (f_dies : Fld.dies ∈ F) (f_dieChs : Fld.dieChs ∈ F)
    (f_links : Fld.links ∈ F) (f_boot : Fld.boot ∈ F) (f_str : Fld.str ∈ F) (f_gated : Fld.gated ∈ F) (f_trx : Fld.trx ∈ F)
    (f_cans : Fld.cans ∈ F) (f_lins : Fld.lins ∈ F) (f_nm : Fld.nm ∈ F) (f_gw : Fld.gw ∈ F) (f_eth : Fld.eth ∈ F)
    (f_pwr : Fld.pwr ∈ F) (f_meas : Fld.meas ∈ F) (f_keys : Fld.keys ∈ F) (f_acc : Fld.acc ∈ F) (f_iso : Fld.iso ∈ F)
    (f_nvm : Fld.nvm ∈ F) (f_upd : Fld.upd ∈ F) (f_trk : Fld.trk ∈ F) (f_brg : Fld.brg ∈ F) (h : Keeps F s t) (init : Nat)
    (lvl : Bool) (a : Nat) (bytes : List Byte) :
    Keeps F s (State.postedWrite t init lvl a bytes).2 := by
  unfold State.postedWrite
  with_reducible repeat' first
     | exact Keeps.refl _ | assumption | apply Keeps.ite | apply Keeps.ite2 | apply State.incMod_keeps | apply State.perrCue_keeps
     | apply State.pfInvalidate_keeps | apply State.postedEnter_keeps | apply hf | intro x hx | intro y
     | (extract_lets +onlyGivenNames x; clear_value x) | split | dsimp only | apply Keeps.upd_brg

theorem State.postedFail_keeps {F : List Fld} {s t : State} (f_regs : Fld.regs ∈ F) (f_offers : Fld.offers ∈ F)
    (h : Keeps F s t) (r : TrkReq) :
    Keeps F s (State.postedFail t r) := by
  unfold State.postedFail
  with_reducible repeat' first
     | exact Keeps.refl _ | assumption | apply Keeps.ite | apply Keeps.ite2 | apply State.incSat_keeps | apply State.perrCue_keeps
     | apply State.putPel_keeps | apply State.setF_keeps
     | (extract_lets +onlyGivenNames x; first | (refine Keeps.cut F s x ?_ (fun hx => ?_); rotate_left 1; clear_value x; rotate_left 1; unfold x) | clear_value x)
     | split

theorem execPostedWriteFail_keeps {F : List Fld} {s t : State} (f_regs : Fld.regs ∈ F) (f_offers : Fld.offers ∈ F)
    (f_brg : Fld.brg ∈ F) (h : Keeps F s t)  :
    KeepsOut F s (execPostedWriteFail t) := by
  unfold execPostedWriteFail
  with_reducible repeat' first
     | apply KeepsOut.next | exact Keeps.refl _ | assumption | apply State.postedFail_keeps | apply hf | intro x hx | intro y
     | (extract_lets +onlyGivenNames x; clear_value x) | split | dsimp only | apply Keeps.upd_brg

theorem execPelPop_keeps {F : List Fld} {s t : State} (f_regs : Fld.regs ∈ F) (h : Keeps F s t)  :
    KeepsOut F s (execPelPop t) := by
  unfold execPelPop
  with_reducible repeat' first
     | apply KeepsOut.next | exact Keeps.refl _ | assumption | apply State.pelPop_keeps

theorem State.setParts_keeps {F : List Fld} {s t : State} (f_regs : Fld.regs ∈ F) (f_zrt : Fld.zrt ∈ F)
    (f_ports : Fld.ports ∈ F) (h : Keeps F s t) (init : Nat) (l : List ZrtPart) :
    Keeps F s (State.setParts t init l) := by
  unfold State.setParts
  with_reducible repeat' first
     | exact Keeps.refl _ | assumption | apply Keeps.ite | apply State.setSes_keeps | apply hf | intro x hx | intro y
     | (extract_lets +onlyGivenNames x; clear_value x) | split | apply Keeps.upd_ports

theorem State.partDone_keeps {F : List Fld} {s t : State} (f_regs : Fld.regs ∈ F) (f_zrt : Fld.zrt ∈ F)
    (f_ports : Fld.ports ∈ F) (h : Keeps F s t) (init : Nat) (a : Nat) (status : Nat) (data : List Byte) :
    Keeps F s (State.partDone t init a status data) := by
  unfold State.partDone
  with_reducible repeat' first
     | exact Keeps.refl _ | assumption | apply State.setParts_keeps

theorem State.engDone_keeps {F : List Fld} {s t : State} (f_engs : Fld.engs ∈ F) (h : Keeps F s t) (init : Nat) (op : Nat)
    (data : List Byte) :
    Keeps F s (State.engDone t init op data) := by
  unfold State.engDone
  with_reducible repeat' first
     | exact Keeps.refl _ | assumption | apply Keeps.ite | apply State.setEng_keeps
     | (extract_lets +onlyGivenNames x; clear_value x) | split

theorem State.partOpen_keeps {F : List Fld} {s t : State} (f_regs : Fld.regs ∈ F) (f_zrt : Fld.zrt ∈ F)
    (f_ports : Fld.ports ∈ F) (h : Keeps F s t) (init : Nat) (a : Nat) (n : Nat) :
    Keeps F s (State.partOpen t init a n) := by
  unfold State.partOpen
  with_reducible repeat' first
     | exact Keeps.refl _ | assumption | apply State.setParts_keeps

theorem State.farError_keeps {F : List Fld} {s t : State} (f_regs : Fld.regs ∈ F) (f_offers : Fld.offers ∈ F) (h : Keeps F s t)
    (init : Nat) (a : Nat) (write : Bool) :
    Keeps F s (State.farError t init a write).2 := by
  unfold State.farError
  with_reducible repeat' first
     | exact Keeps.refl _ | assumption | apply Keeps.ite | apply Keeps.ite2 | apply State.decodeErr_keeps

theorem State.busReadGo_keeps {F : List Fld} {s t : State} (f_regs : Fld.regs ∈ F) (f_offers : Fld.offers ∈ F)
    (f_gated : Fld.gated ∈ F) (f_zrt : Fld.zrt ∈ F) (f_trk : Fld.trk ∈ F) (f_ports : Fld.ports ∈ F) (h : Keeps F s t)
    (init : Nat) (a : Nat) (n : Nat) (spec : Bool) :
    Keeps F s (State.busReadGo t init a n spec) := by
  unfold State.busReadGo
  with_reducible repeat' first
     | exact Keeps.refl _ | assumption | apply Keeps.ite | apply Keeps.ite2 | apply State.countRead_keeps
     | apply State.countSpecRefused_keeps | apply State.farError_keeps | apply State.farSend_keeps | apply State.partDone_keeps
     | apply State.spineRead_keeps

theorem State.busRead_keeps {F : List Fld} {s t : State} (f_regs : Fld.regs ∈ F) (f_offers : Fld.offers ∈ F)
    (f_gated : Fld.gated ∈ F) (f_waiting : Fld.waiting ∈ F) (f_zrt : Fld.zrt ∈ F) (f_trk : Fld.trk ∈ F)
    (f_ports : Fld.ports ∈ F) (h : Keeps F s t) (init : Nat) (a : Nat) (n : Nat) (spec : Bool) :
    Keeps F s (State.busRead t init a n spec) := by
  unfold State.busRead
  with_reducible repeat' first
     | exact Keeps.refl _ | assumption | apply Keeps.ite | apply Keeps.ite2 | apply State.busReadGo_keeps
     | apply State.partOpen_keeps | (extract_lets +onlyGivenNames x; clear_value x) | split | dsimp only | apply Keeps.upd_waiting

theorem State.busWriteGo_keeps {F : List Fld} {s t : State} (f_free : Fld.free ∈ F) (f_regs : Fld.regs ∈ F)
    (f_mem : Fld.mem ∈ F) (f_mram : Fld.mram ∈ F) (f_islands : Fld.islands ∈ F) (f_dly : Fld.dly ∈ F)
    (f_offers : Fld.offers ∈ F) (f_chans : Fld.chans ∈ F) (f_dies : Fld.dies ∈ F) (f_dieChs : Fld.dieChs ∈ F)
    (f_links : Fld.links ∈ F) (f_boot : Fld.boot ∈ F) (f_str : Fld.str ∈ F) (f_gated : Fld.gated ∈ F) (f_trx : Fld.trx ∈ F)
    (f_cans : Fld.cans ∈ F) (f_lins : Fld.lins ∈ F) (f_nm : Fld.nm ∈ F) (f_gw : Fld.gw ∈ F) (f_eth : Fld.eth ∈ F)
    (f_zrt : Fld.zrt ∈ F) (f_pwr : Fld.pwr ∈ F) (f_meas : Fld.meas ∈ F) (f_keys : Fld.keys ∈ F) (f_acc : Fld.acc ∈ F)
    (f_iso : Fld.iso ∈ F) (f_nvm : Fld.nvm ∈ F) (f_upd : Fld.upd ∈ F) (f_trk : Fld.trk ∈ F) (f_brg : Fld.brg ∈ F)
    (f_ports : Fld.ports ∈ F) (h : Keeps F s t) (init : Nat) (a : Nat) (bytes : List Byte) :
    Keeps F s (State.busWriteGo t init a bytes) := by
  unfold State.busWriteGo
  with_reducible repeat' first
     | exact Keeps.refl _ | assumption | apply Keeps.ite | apply Keeps.ite2 | apply State.farError_keeps
     | apply State.farSend_keeps | apply State.incMod_keeps | apply State.partDone_keeps | apply State.pfInvalidate_keeps
     | apply State.postedWrite_keeps | apply State.spineWrite_keeps
     | (extract_lets +onlyGivenNames x; refine Keeps.cut2 F s x ?_ (fun hx => ?_); rotate_left 1; clear_value x; rotate_left 1; unfold x)
     | split

theorem State.busWrite_keeps {F : List Fld} {s t : State} (f_free : Fld.free ∈ F) (f_regs : Fld.regs ∈ F) (f_mem : Fld.mem ∈ F)
    (f_mram : Fld.mram ∈ F) (f_islands : Fld.islands ∈ F) (f_dly : Fld.dly ∈ F) (f_offers : Fld.offers ∈ F)
    (f_chans : Fld.chans ∈ F) (f_dies : Fld.dies ∈ F) (f_dieChs : Fld.dieChs ∈ F) (f_links : Fld.links ∈ F)
    (f_boot : Fld.boot ∈ F) (f_str : Fld.str ∈ F) (f_gated : Fld.gated ∈ F) (f_waiting : Fld.waiting ∈ F) (f_trx : Fld.trx ∈ F)
    (f_cans : Fld.cans ∈ F) (f_lins : Fld.lins ∈ F) (f_nm : Fld.nm ∈ F) (f_gw : Fld.gw ∈ F) (f_eth : Fld.eth ∈ F)
    (f_zrt : Fld.zrt ∈ F) (f_pwr : Fld.pwr ∈ F) (f_meas : Fld.meas ∈ F) (f_keys : Fld.keys ∈ F) (f_acc : Fld.acc ∈ F)
    (f_iso : Fld.iso ∈ F) (f_nvm : Fld.nvm ∈ F) (f_upd : Fld.upd ∈ F) (f_trk : Fld.trk ∈ F) (f_brg : Fld.brg ∈ F)
    (f_ports : Fld.ports ∈ F) (h : Keeps F s t) (init : Nat) (a : Nat) (bytes : List Byte) :
    Keeps F s (State.busWrite t init a bytes) := by
  unfold State.busWrite
  with_reducible repeat' first
     | exact Keeps.refl _ | assumption | apply Keeps.ite | apply Keeps.ite2 | apply State.busWriteGo_keeps
     | apply State.partOpen_keeps | (extract_lets +onlyGivenNames x; clear_value x) | split | dsimp only | apply Keeps.upd_waiting

theorem State.portFinish_keeps {F : List Fld} {s t : State} (f_ports : Fld.ports ∈ F) (h : Keeps F s t) (init : Nat) :
    Keeps F s (State.portFinish t init) := by
  unfold State.portFinish
  with_reducible repeat' first
     | exact Keeps.refl _ | assumption | apply Keeps.ite | apply Keeps.ite2 | apply hf | intro x hx | intro y
     | (extract_lets +onlyGivenNames x; clear_value x) | split | dsimp only | apply Keeps.upd_ports

theorem State.engFar_keeps {F : List Fld} {s t : State} (f_free : Fld.free ∈ F) (f_regs : Fld.regs ∈ F) (f_mem : Fld.mem ∈ F)
    (f_mram : Fld.mram ∈ F) (f_islands : Fld.islands ∈ F) (f_dly : Fld.dly ∈ F) (f_offers : Fld.offers ∈ F)
    (f_chans : Fld.chans ∈ F) (f_dies : Fld.dies ∈ F) (f_dieChs : Fld.dieChs ∈ F) (f_links : Fld.links ∈ F)
    (f_boot : Fld.boot ∈ F) (f_str : Fld.str ∈ F) (f_engs : Fld.engs ∈ F) (f_gated : Fld.gated ∈ F) (f_trx : Fld.trx ∈ F)
    (f_cans : Fld.cans ∈ F) (f_lins : Fld.lins ∈ F) (f_nm : Fld.nm ∈ F) (f_gw : Fld.gw ∈ F) (f_eth : Fld.eth ∈ F)
    (f_pwr : Fld.pwr ∈ F) (f_meas : Fld.meas ∈ F) (f_keys : Fld.keys ∈ F) (f_acc : Fld.acc ∈ F) (f_iso : Fld.iso ∈ F)
    (f_nvm : Fld.nvm ∈ F) (f_upd : Fld.upd ∈ F) (f_trk : Fld.trk ∈ F) (f_brg : Fld.brg ∈ F) (h : Keeps F s t) (t' : SpineTx) :
    Keeps F s (State.engFar t t') := by
  unfold State.engFar
  with_reducible repeat' first
     | exact Keeps.refl _ | assumption | apply Keeps.ite | apply Keeps.ite2 | apply State.countRead_keeps
     | apply State.engDone_keeps | apply State.farSend_keeps | apply State.incMod_keeps | apply State.pfInvalidate_keeps
     | apply State.pfTouch_keeps | apply State.post_keeps | apply State.postedWrite_keeps | apply State.prefetch_keeps
     | (extract_lets +onlyGivenNames x; refine Keeps.cut F s x ?_ (fun hx => ?_); rotate_left 1; clear_value x; rotate_left 1; unfold x)
     | split

theorem State.engRun_keeps {F : List Fld} {s t : State} (f_free : Fld.free ∈ F) (f_regs : Fld.regs ∈ F) (f_mem : Fld.mem ∈ F)
    (f_mram : Fld.mram ∈ F) (f_islands : Fld.islands ∈ F) (f_dly : Fld.dly ∈ F) (f_offers : Fld.offers ∈ F)
    (f_chans : Fld.chans ∈ F) (f_dies : Fld.dies ∈ F) (f_dieChs : Fld.dieChs ∈ F) (f_links : Fld.links ∈ F)
    (f_boot : Fld.boot ∈ F) (f_str : Fld.str ∈ F) (f_engs : Fld.engs ∈ F) (f_gated : Fld.gated ∈ F) (f_trx : Fld.trx ∈ F)
    (f_cans : Fld.cans ∈ F) (f_lins : Fld.lins ∈ F) (f_nm : Fld.nm ∈ F) (f_gw : Fld.gw ∈ F) (f_eth : Fld.eth ∈ F)
    (f_pwr : Fld.pwr ∈ F) (f_meas : Fld.meas ∈ F) (f_keys : Fld.keys ∈ F) (f_acc : Fld.acc ∈ F) (f_iso : Fld.iso ∈ F)
    (f_nvm : Fld.nvm ∈ F) (f_upd : Fld.upd ∈ F) (f_trk : Fld.trk ∈ F) (f_brg : Fld.brg ∈ F) (h : Keeps F s t) (t' : SpineTx) :
    Keeps F s (State.engRun t t') := by
  unfold State.engRun
  with_reducible repeat' first
     | exact Keeps.refl _ | assumption | apply Keeps.ite | apply State.engDone_keeps | apply State.engFar_keeps
     | apply State.spineLocked_keeps | apply State.spineRead_keeps | apply State.spineWrite_keeps

end Sys2Proof.Machine
end

