-- ==== Sys2Proof/Laws/KeepsZrt.lean ====
section
/-! SUPPORT. What the operations and meanings of Machine/Zrt.lean keep. -/

namespace Sys2Proof.Machine

theorem State.zrtAnswer_keeps {F : List Fld} {s t : State} (f_eth : Fld.eth ∈ F) (h : Keeps F s t) (k : Nat) (seq : Nat)
    (status : Nat) (ops : List ZrtOp) :
    Keeps F s (State.zrtAnswer t k seq status ops) := by
  unfold State.zrtAnswer
  with_reducible repeat' first
     | exact Keeps.refl _ | assumption | apply State.zrtSend_keeps

theorem State.zrtRespond_keeps {F : List Fld} {s t : State} (f_regs : Fld.regs ∈ F) (f_eth : Fld.eth ∈ F) (f_zrt : Fld.zrt ∈ F)
    (h : Keeps F s t) (k : Nat) (seq : Nat) (status : Nat) (ops : List ZrtOp) :
    Keeps F s (State.zrtRespond t k seq status ops) := by
  unfold State.zrtRespond
  with_reducible repeat' first
     | exact Keeps.refl _ | assumption | apply State.setF_keeps | apply State.setSes_keeps | apply State.zrtAnswer_keeps

theorem State.zrtAdvance_keeps {F : List Fld} {s t : State} (f_regs : Fld.regs ∈ F) (f_eth : Fld.eth ∈ F) (f_zrt : Fld.zrt ∈ F)
    (h : Keeps F s t) (k n : Nat) : Keeps F s (t.zrtAdvance k n) := by
  induction n generalizing t with
  | zero =>
    unfold State.zrtAdvance
    split
    · exact Keeps.ite (State.zrtRespond_keeps f_regs f_eth f_zrt h _ _ _ _) h
    · exact h
  | succ n ih =>
    unfold State.zrtAdvance
    split
    · exact h
    · split
      · exact State.zrtRespond_keeps f_regs f_eth f_zrt h _ _ _ _
      · extract_lets c
        exact Keeps.ite h (ih (State.setSes_keeps f_regs f_zrt h _ _))

theorem State.zrtLookup_keeps {F : List Fld} {s t : State} (f_regs : Fld.regs ∈ F) (f_mem : Fld.mem ∈ F)
    (f_islands : Fld.islands ∈ F) (f_offers : Fld.offers ∈ F) (f_exec : Fld.exec ∈ F) (f_trx : Fld.trx ∈ F)
    (f_cans : Fld.cans ∈ F) (f_lins : Fld.lins ∈ F) (f_nm : Fld.nm ∈ F) (f_gw : Fld.gw ∈ F) (f_eth : Fld.eth ∈ F)
    (f_pwr : Fld.pwr ∈ F) (f_trk : Fld.trk ∈ F) (h : Keeps F s t) (k : Nat) (x : ZrtOp) :
    Keeps F s (State.zrtLookup t k x) := by
  unfold State.zrtLookup
  with_reducible repeat' first
     | exact Keeps.refl _ | assumption | apply Keeps.ite | apply Keeps.ite2 | apply State.flowHit_keeps
     | apply State.gwActions_keeps | apply State.setF_keeps | apply State.stamp_keeps | apply Keeps.id_
     | (extract_lets +onlyGivenNames x; first | (refine Keeps.cut F s x ?_ (fun hx => ?_); rotate_left 1; clear_value x; rotate_left 1; unfold x) | clear_value x)
     | split

theorem State.zrtDone_keeps {F : List Fld} {s t : State} (f_regs : Fld.regs ∈ F) (f_mem : Fld.mem ∈ F)
    (f_islands : Fld.islands ∈ F) (f_offers : Fld.offers ∈ F) (f_exec : Fld.exec ∈ F) (f_trx : Fld.trx ∈ F)
    (f_cans : Fld.cans ∈ F) (f_lins : Fld.lins ∈ F) (f_nm : Fld.nm ∈ F) (f_gw : Fld.gw ∈ F) (f_eth : Fld.eth ∈ F)
    (f_zrt : Fld.zrt ∈ F) (f_pwr : Fld.pwr ∈ F) (f_trk : Fld.trk ∈ F) (h : Keeps F s t) (k : Nat) (status : Nat)
    (data : List Byte) :
    Keeps F s (State.zrtDone t k status data) := by
  unfold State.zrtDone
  with_reducible repeat' first
     | exact Keeps.refl _ | assumption | apply Keeps.ite | apply Keeps.ite2 | apply State.setSes_keeps
     | apply State.zrtAdvance_keeps | apply State.zrtLookup_keeps | split

theorem State.zrtHeadOp_keeps {F : List Fld} {s t : State} (f_rr : Fld.rr ∈ F) (h : Keeps F s t) {k op : Nat}
    {x : ZrtOp × State} (hx : t.zrtHeadOp k op = some x) :
    Keeps F s x.2 := by
  unfold State.zrtHeadOp at hx
  split at hx
  · cases hx
  · split at hx
    · cases hx
    · split at hx
      · cases hx; exact Keeps.upd_rr f_rr h
      · cases hx

theorem State.zrtFinish_keeps {F : List Fld} {s t : State} (f_free : Fld.free ∈ F) (f_regs : Fld.regs ∈ F) (f_mem : Fld.mem ∈ F)
    (f_mram : Fld.mram ∈ F) (f_islands : Fld.islands ∈ F) (f_dly : Fld.dly ∈ F) (f_offers : Fld.offers ∈ F)
    (f_chans : Fld.chans ∈ F) (f_dies : Fld.dies ∈ F) (f_dieChs : Fld.dieChs ∈ F) (f_links : Fld.links ∈ F)
    (f_boot : Fld.boot ∈ F) (f_str : Fld.str ∈ F) (f_gated : Fld.gated ∈ F) (f_waiting : Fld.waiting ∈ F)
    (f_exec : Fld.exec ∈ F) (f_trx : Fld.trx ∈ F) (f_cans : Fld.cans ∈ F) (f_lins : Fld.lins ∈ F) (f_nm : Fld.nm ∈ F)
    (f_gw : Fld.gw ∈ F) (f_eth : Fld.eth ∈ F) (f_zrt : Fld.zrt ∈ F) (f_pwr : Fld.pwr ∈ F) (f_meas : Fld.meas ∈ F)
    (f_keys : Fld.keys ∈ F) (f_acc : Fld.acc ∈ F) (f_iso : Fld.iso ∈ F) (f_nvm : Fld.nvm ∈ F) (f_upd : Fld.upd ∈ F)
    (f_trk : Fld.trk ∈ F) (f_brg : Fld.brg ∈ F) (f_ports : Fld.ports ∈ F) (h : Keeps F s t) (k : Nat) :
    Keeps F s (State.zrtFinish t k) := by
  unfold State.zrtFinish
  with_reducible repeat' first
     | exact Keeps.refl _ | assumption | apply Keeps.ite | apply Keeps.ite2 | apply State.busWrite_keeps
     | apply State.zrtDone_keeps | (extract_lets +onlyGivenNames x; clear_value x) | split

theorem execZrtRead_keeps {F : List Fld} {s t : State} (f_free : Fld.free ∈ F) (f_regs : Fld.regs ∈ F) (f_mem : Fld.mem ∈ F)
    (f_mram : Fld.mram ∈ F) (f_islands : Fld.islands ∈ F) (f_dly : Fld.dly ∈ F) (f_offers : Fld.offers ∈ F)
    (f_chans : Fld.chans ∈ F) (f_dies : Fld.dies ∈ F) (f_dieChs : Fld.dieChs ∈ F) (f_links : Fld.links ∈ F)
    (f_boot : Fld.boot ∈ F) (f_str : Fld.str ∈ F) (f_gated : Fld.gated ∈ F) (f_waiting : Fld.waiting ∈ F) (f_rr : Fld.rr ∈ F)
    (f_exec : Fld.exec ∈ F) (f_trx : Fld.trx ∈ F) (f_cans : Fld.cans ∈ F) (f_lins : Fld.lins ∈ F) (f_nm : Fld.nm ∈ F)
    (f_gw : Fld.gw ∈ F) (f_eth : Fld.eth ∈ F) (f_zrt : Fld.zrt ∈ F) (f_pwr : Fld.pwr ∈ F) (f_meas : Fld.meas ∈ F)
    (f_keys : Fld.keys ∈ F) (f_acc : Fld.acc ∈ F) (f_iso : Fld.iso ∈ F) (f_nvm : Fld.nvm ∈ F) (f_upd : Fld.upd ∈ F)
    (f_trk : Fld.trk ∈ F) (f_brg : Fld.brg ∈ F) (f_ports : Fld.ports ∈ F) (h : Keeps F s t) (k : Fin 8) :
    KeepsOut F s (execZrtRead k t) := by
  unfold execZrtRead
  refine KeepsOut.next ?_
  split
  · exact h
  · rename_i x u hu
    have hk : Keeps F s u := State.zrtHeadOp_keeps f_rr h hu
    with_reducible repeat' first
      | assumption | apply Keeps.ite | apply State.zrtDone_keeps f_regs f_mem f_islands f_offers f_exec f_trx f_cans f_lins f_nm f_gw f_eth f_zrt f_pwr f_trk | apply State.pfTouch_keeps f_brg | apply State.countRead_keeps f_regs | apply State.zrtFinish_keeps f_free f_regs f_mem f_mram f_islands f_dly f_offers f_chans f_dies f_dieChs f_links f_boot f_str f_gated f_waiting f_exec f_trx f_cans f_lins f_nm f_gw f_eth f_zrt f_pwr f_meas f_keys f_acc f_iso f_nvm f_upd f_trk f_brg f_ports | apply State.prefetch_keeps f_regs f_offers f_gated f_trk f_brg | apply Keeps.foldl | apply State.busRead_keeps f_regs f_offers f_gated f_waiting f_zrt f_trk f_ports
      | intro x hx | intro y | (extract_lets +onlyGivenNames x; first | (refine Keeps.cut F s x ?_ (fun hx => ?_); rotate_left 1; clear_value x; rotate_left 1; unfold x) | (refine Keeps.cut22 F s x ?_ (fun hx => ?_); rotate_left 1; clear_value x; rotate_left 1; unfold x) | clear_value x) | split

theorem execZrtWrite_keeps {F : List Fld} {s t : State} (f_free : Fld.free ∈ F) (f_regs : Fld.regs ∈ F) (f_mem : Fld.mem ∈ F)
    (f_mram : Fld.mram ∈ F) (f_islands : Fld.islands ∈ F) (f_dly : Fld.dly ∈ F) (f_offers : Fld.offers ∈ F)
    (f_chans : Fld.chans ∈ F) (f_dies : Fld.dies ∈ F) (f_dieChs : Fld.dieChs ∈ F) (f_links : Fld.links ∈ F)
    (f_boot : Fld.boot ∈ F) (f_str : Fld.str ∈ F) (f_gated : Fld.gated ∈ F) (f_waiting : Fld.waiting ∈ F) (f_rr : Fld.rr ∈ F)
    (f_exec : Fld.exec ∈ F) (f_trx : Fld.trx ∈ F) (f_cans : Fld.cans ∈ F) (f_lins : Fld.lins ∈ F) (f_nm : Fld.nm ∈ F)
    (f_gw : Fld.gw ∈ F) (f_eth : Fld.eth ∈ F) (f_zrt : Fld.zrt ∈ F) (f_pwr : Fld.pwr ∈ F) (f_meas : Fld.meas ∈ F)
    (f_keys : Fld.keys ∈ F) (f_acc : Fld.acc ∈ F) (f_iso : Fld.iso ∈ F) (f_nvm : Fld.nvm ∈ F) (f_upd : Fld.upd ∈ F)
    (f_trk : Fld.trk ∈ F) (f_brg : Fld.brg ∈ F) (f_ports : Fld.ports ∈ F) (h : Keeps F s t) (k : Fin 8) :
    KeepsOut F s (execZrtWrite k t) := by
  unfold execZrtWrite
  refine KeepsOut.next ?_
  split
  · exact h
  · rename_i x u hu
    have hk : Keeps F s u := State.zrtHeadOp_keeps f_rr h hu
    with_reducible repeat' first
      | assumption | apply Keeps.ite | apply State.zrtFinish_keeps f_free f_regs f_mem f_mram f_islands f_dly f_offers f_chans f_dies f_dieChs f_links f_boot f_str f_gated f_waiting f_exec f_trx f_cans f_lins f_nm f_gw f_eth f_zrt f_pwr f_meas f_keys f_acc f_iso f_nvm f_upd f_trk f_brg f_ports | apply Keeps.foldl | apply State.busWrite_keeps f_free f_regs f_mem f_mram f_islands f_dly f_offers f_chans f_dies f_dieChs f_links f_boot f_str f_gated f_waiting f_trx f_cans f_lins f_nm f_gw f_eth f_zrt f_pwr f_meas f_keys f_acc f_iso f_nvm f_upd f_trk f_brg f_ports
      | intro x hx | intro y | (extract_lets +onlyGivenNames x; first | (refine Keeps.cut F s x ?_ (fun hx => ?_); rotate_left 1; clear_value x; rotate_left 1; unfold x) | (refine Keeps.cut22 F s x ?_ (fun hx => ?_); rotate_left 1; clear_value x; rotate_left 1; unfold x) | clear_value x) | split

theorem State.rmwLocked_keeps {F : List Fld} {s t : State} (f_free : Fld.free ∈ F) (f_regs : Fld.regs ∈ F) (f_mem : Fld.mem ∈ F)
    (f_mram : Fld.mram ∈ F) (f_islands : Fld.islands ∈ F) (f_dly : Fld.dly ∈ F) (f_offers : Fld.offers ∈ F)
    (f_chans : Fld.chans ∈ F) (f_dies : Fld.dies ∈ F) (f_dieChs : Fld.dieChs ∈ F) (f_links : Fld.links ∈ F)
    (f_boot : Fld.boot ∈ F) (f_str : Fld.str ∈ F) (f_gated : Fld.gated ∈ F) (f_trx : Fld.trx ∈ F) (f_cans : Fld.cans ∈ F)
    (f_lins : Fld.lins ∈ F) (f_nm : Fld.nm ∈ F) (f_gw : Fld.gw ∈ F) (f_eth : Fld.eth ∈ F) (f_pwr : Fld.pwr ∈ F)
    (f_meas : Fld.meas ∈ F) (f_keys : Fld.keys ∈ F) (f_acc : Fld.acc ∈ F) (f_iso : Fld.iso ∈ F) (f_nvm : Fld.nvm ∈ F)
    (f_upd : Fld.upd ∈ F) (f_trk : Fld.trk ∈ F) (h : Keeps F s t) (init : Nat) (x : ZrtOp) :
    Keeps F s (State.rmwLocked t init x).2.2 := by
  unfold State.rmwLocked
  with_reducible repeat' first
     | exact Keeps.refl _ | assumption | apply Keeps.ite | apply Keeps.ite2 | apply Keeps.ite22 | apply State.spineRead_keeps
     | apply State.spineWrite_keeps

theorem execZrtRmw_keeps {F : List Fld} {s t : State} (f_free : Fld.free ∈ F) (f_regs : Fld.regs ∈ F) (f_mem : Fld.mem ∈ F)
    (f_mram : Fld.mram ∈ F) (f_islands : Fld.islands ∈ F) (f_dly : Fld.dly ∈ F) (f_offers : Fld.offers ∈ F)
    (f_chans : Fld.chans ∈ F) (f_dies : Fld.dies ∈ F) (f_dieChs : Fld.dieChs ∈ F) (f_links : Fld.links ∈ F)
    (f_boot : Fld.boot ∈ F) (f_str : Fld.str ∈ F) (f_gated : Fld.gated ∈ F) (f_waiting : Fld.waiting ∈ F) (f_rr : Fld.rr ∈ F)
    (f_exec : Fld.exec ∈ F) (f_trx : Fld.trx ∈ F) (f_cans : Fld.cans ∈ F) (f_lins : Fld.lins ∈ F) (f_nm : Fld.nm ∈ F)
    (f_gw : Fld.gw ∈ F) (f_eth : Fld.eth ∈ F) (f_zrt : Fld.zrt ∈ F) (f_pwr : Fld.pwr ∈ F) (f_meas : Fld.meas ∈ F)
    (f_keys : Fld.keys ∈ F) (f_acc : Fld.acc ∈ F) (f_iso : Fld.iso ∈ F) (f_nvm : Fld.nvm ∈ F) (f_upd : Fld.upd ∈ F)
    (f_trk : Fld.trk ∈ F) (f_brg : Fld.brg ∈ F) (f_ports : Fld.ports ∈ F) (h : Keeps F s t) (k : Fin 8) :
    KeepsOut F s (execZrtRmw k t) := by
  unfold execZrtRmw
  refine KeepsOut.next ?_
  split
  · exact h
  · rename_i x u hu
    have hk : Keeps F s u := State.zrtHeadOp_keeps f_rr h hu
    with_reducible repeat' first
      | assumption | apply Keeps.ite | apply State.zrtDone_keeps f_regs f_mem f_islands f_offers f_exec f_trx f_cans f_lins f_nm f_gw f_eth f_zrt f_pwr f_trk | apply State.incMod_keeps f_regs | apply State.rmwLocked_keeps f_free f_regs f_mem f_mram f_islands f_dly f_offers f_chans f_dies f_dieChs f_links f_boot f_str f_gated f_trx f_cans f_lins f_nm f_gw f_eth f_pwr f_meas f_keys f_acc f_iso f_nvm f_upd f_trk | apply State.pfInvalidate_keeps f_trk f_brg | apply State.countRead_keeps f_regs | apply State.zrtFinish_keeps f_free f_regs f_mem f_mram f_islands f_dly f_offers f_chans f_dies f_dieChs f_links f_boot f_str f_gated f_waiting f_exec f_trx f_cans f_lins f_nm f_gw f_eth f_zrt f_pwr f_meas f_keys f_acc f_iso f_nvm f_upd f_trk f_brg f_ports | apply State.busRead_keeps f_regs f_offers f_gated f_waiting f_zrt f_trk f_ports
      | intro x hx | intro y | (extract_lets +onlyGivenNames x; first | (refine Keeps.cut F s x ?_ (fun hx => ?_); rotate_left 1; clear_value x; rotate_left 1; unfold x) | (refine Keeps.cut22 F s x ?_ (fun hx => ?_); rotate_left 1; clear_value x; rotate_left 1; unfold x) | clear_value x) | split

theorem execZrtTake_keeps {F : List Fld} {s t : State} (f_free : Fld.free ∈ F) (f_regs : Fld.regs ∈ F) (f_mem : Fld.mem ∈ F)
    (f_mram : Fld.mram ∈ F) (f_islands : Fld.islands ∈ F) (f_dly : Fld.dly ∈ F) (f_offers : Fld.offers ∈ F)
    (f_chans : Fld.chans ∈ F) (f_dies : Fld.dies ∈ F) (f_dieChs : Fld.dieChs ∈ F) (f_links : Fld.links ∈ F)
    (f_boot : Fld.boot ∈ F) (f_str : Fld.str ∈ F) (f_gated : Fld.gated ∈ F) (f_waiting : Fld.waiting ∈ F) (f_rr : Fld.rr ∈ F)
    (f_exec : Fld.exec ∈ F) (f_trx : Fld.trx ∈ F) (f_cans : Fld.cans ∈ F) (f_lins : Fld.lins ∈ F) (f_nm : Fld.nm ∈ F)
    (f_gw : Fld.gw ∈ F) (f_eth : Fld.eth ∈ F) (f_zrt : Fld.zrt ∈ F) (f_pwr : Fld.pwr ∈ F) (f_meas : Fld.meas ∈ F)
    (f_keys : Fld.keys ∈ F) (f_acc : Fld.acc ∈ F) (f_iso : Fld.iso ∈ F) (f_nvm : Fld.nvm ∈ F) (f_upd : Fld.upd ∈ F)
    (f_trk : Fld.trk ∈ F) (f_brg : Fld.brg ∈ F) (f_ports : Fld.ports ∈ F) (h : Keeps F s t) (k : Fin 8) :
    KeepsOut F s (execZrtTake k t) := by
  unfold execZrtTake
  refine KeepsOut.next ?_
  split
  · exact h
  · rename_i x u hu
    have hk : Keeps F s u := State.zrtHeadOp_keeps f_rr h hu
    with_reducible repeat' first
      | assumption | apply Keeps.ite | apply State.zrtFinish_keeps f_free f_regs f_mem f_mram f_islands f_dly f_offers f_chans f_dies f_dieChs f_links f_boot f_str f_gated f_waiting f_exec f_trx f_cans f_lins f_nm f_gw f_eth f_zrt f_pwr f_meas f_keys f_acc f_iso f_nvm f_upd f_trk f_brg f_ports | apply State.busRead_keeps f_regs f_offers f_gated f_waiting f_zrt f_trk f_ports
      | intro x hx | intro y | (extract_lets +onlyGivenNames x; first | (refine Keeps.cut F s x ?_ (fun hx => ?_); rotate_left 1; clear_value x; rotate_left 1; unfold x) | (refine Keeps.cut22 F s x ?_ (fun hx => ?_); rotate_left 1; clear_value x; rotate_left 1; unfold x) | clear_value x) | split

theorem execZrtFence_keeps {F : List Fld} {s t : State} (f_regs : Fld.regs ∈ F) (f_mem : Fld.mem ∈ F)
    (f_islands : Fld.islands ∈ F) (f_offers : Fld.offers ∈ F) (f_rr : Fld.rr ∈ F) (f_exec : Fld.exec ∈ F) (f_trx : Fld.trx ∈ F)
    (f_cans : Fld.cans ∈ F) (f_lins : Fld.lins ∈ F) (f_nm : Fld.nm ∈ F) (f_gw : Fld.gw ∈ F) (f_eth : Fld.eth ∈ F)
    (f_zrt : Fld.zrt ∈ F) (f_pwr : Fld.pwr ∈ F) (f_trk : Fld.trk ∈ F) (h : Keeps F s t) (k : Fin 8) :
    KeepsOut F s (execZrtFence k t) := by
  unfold execZrtFence
  refine KeepsOut.next ?_
  split
  · exact h
  · rename_i x u hu
    have hk : Keeps F s u := State.zrtHeadOp_keeps f_rr h hu
    with_reducible repeat' first
      | assumption | apply Keeps.ite | apply State.zrtDone_keeps f_regs f_mem f_islands f_offers f_exec f_trx f_cans f_lins f_nm f_gw f_eth f_zrt f_pwr f_trk
      | intro x hx | intro y | (extract_lets +onlyGivenNames x; first | (refine Keeps.cut F s x ?_ (fun hx => ?_); rotate_left 1; clear_value x; rotate_left 1; unfold x) | (refine Keeps.cut22 F s x ?_ (fun hx => ?_); rotate_left 1; clear_value x; rotate_left 1; unfold x) | clear_value x) | split

theorem State.tagFail_keeps {F : List Fld} {s t : State} (f_regs : Fld.regs ∈ F) (f_mem : Fld.mem ∈ F)
    (f_islands : Fld.islands ∈ F) (f_offers : Fld.offers ∈ F) (f_exec : Fld.exec ∈ F) (f_trx : Fld.trx ∈ F)
    (f_cans : Fld.cans ∈ F) (f_lins : Fld.lins ∈ F) (f_nm : Fld.nm ∈ F) (f_gw : Fld.gw ∈ F) (f_eth : Fld.eth ∈ F)
    (f_zrt : Fld.zrt ∈ F) (f_pwr : Fld.pwr ∈ F) (f_trk : Fld.trk ∈ F) (h : Keeps F s t) (k : Nat) :
    Keeps F s (State.tagFail t k) := by
  unfold State.tagFail
  with_reducible repeat' first
     | exact Keeps.refl _ | assumption | apply State.stamp_keeps | apply State.zrtDone_keeps | apply State.zrtFlag_keeps

theorem execZrtReset_keeps {F : List Fld} {s t : State} (f_regs : Fld.regs ∈ F) (f_mem : Fld.mem ∈ F)
    (f_islands : Fld.islands ∈ F) (f_offers : Fld.offers ∈ F) (f_boot : Fld.boot ∈ F) (f_str : Fld.str ∈ F) (f_rr : Fld.rr ∈ F)
    (f_exec : Fld.exec ∈ F) (f_trx : Fld.trx ∈ F) (f_cans : Fld.cans ∈ F) (f_lins : Fld.lins ∈ F) (f_nm : Fld.nm ∈ F)
    (f_gw : Fld.gw ∈ F) (f_eth : Fld.eth ∈ F) (f_zrt : Fld.zrt ∈ F) (f_pwr : Fld.pwr ∈ F) (f_trk : Fld.trk ∈ F)
    (h : Keeps F s t) (k : Fin 8) :
    KeepsOut F s (execZrtReset k t) := by
  unfold execZrtReset
  refine KeepsOut.next ?_
  split
  · exact h
  · rename_i x u hu
    have hk : Keeps F s u := State.zrtHeadOp_keeps f_rr h hu
    with_reducible repeat' first
      | assumption | apply Keeps.ite | apply State.tagFail_keeps f_regs f_mem f_islands f_offers f_exec f_trx f_cans f_lins f_nm f_gw f_eth f_zrt f_pwr f_trk | apply State.zrtDone_keeps f_regs f_mem f_islands f_offers f_exec f_trx f_cans f_lins f_nm f_gw f_eth f_zrt f_pwr f_trk | apply Keeps.upd_boot f_boot | apply Keeps.upd_str f_str
      | intro x hx | intro y | (extract_lets +onlyGivenNames x; first | (refine Keeps.cut F s x ?_ (fun hx => ?_); rotate_left 1; clear_value x; rotate_left 1; unfold x) | (refine Keeps.cut22 F s x ?_ (fun hx => ?_); rotate_left 1; clear_value x; rotate_left 1; unfold x) | clear_value x) | split

theorem execZrtAccept_keeps {F : List Fld} {s t : State} (f_regs : Fld.regs ∈ F) (f_mem : Fld.mem ∈ F)
    (f_islands : Fld.islands ∈ F) (f_offers : Fld.offers ∈ F) (f_boot : Fld.boot ∈ F) (f_rr : Fld.rr ∈ F)
    (f_exec : Fld.exec ∈ F) (f_trx : Fld.trx ∈ F) (f_cans : Fld.cans ∈ F) (f_lins : Fld.lins ∈ F) (f_nm : Fld.nm ∈ F)
    (f_gw : Fld.gw ∈ F) (f_eth : Fld.eth ∈ F) (f_zrt : Fld.zrt ∈ F) (f_pwr : Fld.pwr ∈ F) (f_nvm : Fld.nvm ∈ F)
    (f_upd : Fld.upd ∈ F) (f_trk : Fld.trk ∈ F) (h : Keeps F s t) (k : Fin 8) :
    KeepsOut F s (execZrtAccept k t) := by
  unfold execZrtAccept
  refine KeepsOut.next ?_
  split
  · exact h
  · rename_i x u hu
    have hk : Keeps F s u := State.zrtHeadOp_keeps f_rr h hu
    with_reducible repeat' first
      | assumption | apply Keeps.ite | apply State.tagFail_keeps f_regs f_mem f_islands f_offers f_exec f_trx f_cans f_lins f_nm f_gw f_eth f_zrt f_pwr f_trk | apply State.zrtDone_keeps f_regs f_mem f_islands f_offers f_exec f_trx f_cans f_lins f_nm f_gw f_eth f_zrt f_pwr f_trk | apply State.updAccept_keeps f_regs f_islands f_offers f_nvm f_upd | apply State.updRevert_keeps f_regs f_islands f_offers f_boot f_upd
      | intro x hx | intro y | (extract_lets +onlyGivenNames x; first | (refine Keeps.cut F s x ?_ (fun hx => ?_); rotate_left 1; clear_value x; rotate_left 1; unfold x) | (refine Keeps.cut22 F s x ?_ (fun hx => ?_); rotate_left 1; clear_value x; rotate_left 1; unfold x) | clear_value x) | split

theorem State.zrtReject_keeps {F : List Fld} {s t : State} (f_regs : Fld.regs ∈ F) (h : Keeps F s t) (k : Nat) :
    Keeps F s (State.zrtReject t k) := by
  unfold State.zrtReject
  with_reducible repeat' first
     | exact Keeps.refl _ | assumption | apply State.incSat_keeps

theorem State.zrtAccepted_keeps {F : List Fld} {s t : State} (f_regs : Fld.regs ∈ F) (f_str : Fld.str ∈ F) (f_eth : Fld.eth ∈ F)
    (f_zrt : Fld.zrt ∈ F) (h : Keeps F s t) (k : Nat) (seq : Nat) (b : List Byte) :
    Keeps F s (State.zrtAccepted t k seq b) := by
  unfold State.zrtAccepted
  with_reducible repeat' first
     | exact Keeps.refl _ | assumption | apply Keeps.ite | apply Keeps.ite2 | apply State.ccBeat_keeps | apply State.incMod_keeps
     | apply State.setF_keeps | apply State.setSes_keeps | apply State.zrtAdvance_keeps | apply State.zrtRespond_keeps
     | (extract_lets +onlyGivenNames x; first | (refine Keeps.cut F s x ?_ (fun hx => ?_); rotate_left 1; clear_value x; rotate_left 1; unfold x) | clear_value x)
     | split

theorem State.zrtRequest_keeps {F : List Fld} {s t : State} (f_regs : Fld.regs ∈ F) (f_str : Fld.str ∈ F) (f_eth : Fld.eth ∈ F)
    (f_zrt : Fld.zrt ∈ F) (h : Keeps F s t) (k : Nat) (b : List Byte) :
    Keeps F s (State.zrtRequest t k b) := by
  unfold State.zrtRequest
  with_reducible repeat' first
     | exact Keeps.refl _ | assumption | apply Keeps.ite | apply State.incSat_keeps | apply State.setF_keeps
     | apply State.zrtAccepted_keeps | apply State.zrtAnswer_keeps | apply State.zrtFlag_keeps
     | (extract_lets +onlyGivenNames x; clear_value x) | split

theorem State.zrtNext_keeps {F : List Fld} {s t : State} (f_eth : Fld.eth ∈ F) (h : Keeps F s t)
    {x : Nat × EthFrame × List Byte × State} (hx : t.zrtNext = some x) :
    Keeps F s x.2.2.2 := by
  unfold State.zrtNext at hx
  split at hx
  · cases hx
  · have hm := List.mem_of_mem_head? hx
    obtain ⟨a, -, ha⟩ := List.mem_filterMap.mp hm
    rw [Option.map_eq_some_iff] at ha
    obtain ⟨b, -, rfl⟩ := ha
    exact Keeps.upd_eth f_eth h

theorem execZrtRequest_keeps {F : List Fld} {s t : State} (f_regs : Fld.regs ∈ F) (f_str : Fld.str ∈ F) (f_eth : Fld.eth ∈ F)
    (f_zrt : Fld.zrt ∈ F) (h : Keeps F s t) : KeepsOut F s (execZrtRequest t) := by
  unfold execZrtRequest
  refine KeepsOut.next ?_
  split
  · exact h
  · rename_i p f b u hu
    have hk : Keeps F s u := State.zrtNext_keeps f_eth h hu
    extract_lets k udp
    exact Keeps.ite h (Keeps.ite (State.zrtReject_keeps f_regs hk _) (Keeps.ite (State.zrtReject_keeps f_regs (State.zrtFlag_keeps f_regs hk _) _)
      (State.zrtRequest_keeps f_regs f_str f_eth f_zrt (State.setSes_keeps f_regs f_zrt hk _ _) _ _)))

theorem execZrtNotifyAck_keeps {F : List Fld} {s t : State} (f_regs : Fld.regs ∈ F) (f_eth : Fld.eth ∈ F) (f_zrt : Fld.zrt ∈ F)
    (h : Keeps F s t) : KeepsOut F s (execZrtNotifyAck t) := by
  unfold execZrtNotifyAck
  refine KeepsOut.next ?_
  split
  · exact h
  · rename_i p f b u hu
    have hk : Keeps F s u := State.zrtNext_keeps f_eth h hu
    extract_lets k w v
    have hv : Keeps F s v := State.setSes_keeps f_regs f_zrt hk _ _
    clear_value v
    exact Keeps.ite h (Keeps.ite (State.noteSend_keeps f_regs f_eth f_zrt hv _) hv)

end Sys2Proof.Machine
end

