-- ==== Sys2Proof/Laws/KeepsTrunk.lean ====
section
/-! SUPPORT. What the operations and meanings of Machine/Trunk.lean keep. -/

namespace Sys2Proof.Machine

theorem State.stampTrk_keeps {F : List Fld} {s t : State} (f_regs : Fld.regs ∈ F) (f_islands : Fld.islands ∈ F)
    (h : Keeps F s t) (event : Nat) (data : Nat) :
    Keeps F s (State.stampTrk t event data) := by
  unfold State.stampTrk
  with_reducible repeat' first
     | exact Keeps.refl _ | assumption | apply State.stamp_keeps

theorem State.trkEvent_keeps {F : List Fld} {s t : State} (f_regs : Fld.regs ∈ F) (f_islands : Fld.islands ∈ F)
    (f_offers : Fld.offers ∈ F) (h : Keeps F s t) (code : Nat) (data : Nat) :
    Keeps F s (State.trkEvent t code data) := by
  unfold State.trkEvent
  with_reducible repeat' first
     | exact Keeps.refl _ | assumption | apply State.stampTrk_keeps | apply State.unitCue_keeps

theorem State.trkFlag_keeps {F : List Fld} {s t : State} (f_regs : Fld.regs ∈ F) (h : Keeps F s t) (r : RF) :
    Keeps F s (State.trkFlag t r) := by
  unfold State.trkFlag
  with_reducible repeat' first
     | exact Keeps.refl _ | assumption | apply State.raise_keeps

theorem execTrunkTrainAttempt_keeps {F : List Fld} {s t : State} (f_regs : Fld.regs ∈ F) (f_trk : Fld.trk ∈ F)
    (h : Keeps F s t)  :
    KeepsOut F s (execTrunkTrainAttempt t) := by
  unfold execTrunkTrainAttempt
  with_reducible repeat' first
     | apply KeepsOut.next | exact Keeps.refl _ | assumption | apply KeepsOut.ite | apply Keeps.ite | apply State.setF_keeps
     | (extract_lets +onlyGivenNames x; first | (refine Keeps.cut F s x ?_ (fun hx => ?_); rotate_left 1; clear_value x; rotate_left 1; unfold x) | clear_value x)
     | split | apply Keeps.upd_trk

theorem State.trkTrained_keeps {F : List Fld} {s t : State} (f_regs : Fld.regs ∈ F) (f_islands : Fld.islands ∈ F)
    (f_offers : Fld.offers ∈ F) (f_trk : Fld.trk ∈ F) (h : Keeps F s t) (l : List Nat) :
    Keeps F s (State.trkTrained t l) := by
  unfold State.trkTrained
  with_reducible repeat' first
     | exact Keeps.refl _ | assumption | apply Keeps.ite | apply Keeps.ite2 | apply State.setF_keeps | apply State.trkEvent_keeps
     | apply State.trkFlag_keeps | apply Keeps.foldl | apply Keeps.foldl2 | apply Keeps.foldl1 | apply hf | intro x hx | intro y
     | (extract_lets +onlyGivenNames x; clear_value x) | split | dsimp only | apply Keeps.upd_trk

theorem execTrunkDiscover_keeps {F : List Fld} {s t : State} (f_regs : Fld.regs ∈ F) (f_islands : Fld.islands ∈ F)
    (f_offers : Fld.offers ∈ F) (f_trk : Fld.trk ∈ F) (h : Keeps F s t) (l : List (Fin 4)) (crcOk : Bool) :
    KeepsOut F s (execTrunkDiscover l crcOk t) := by
  unfold execTrunkDiscover
  with_reducible repeat' first
     | apply KeepsOut.next | exact Keeps.refl _ | assumption | apply KeepsOut.ite | apply Keeps.ite
     | apply State.noteForward_keeps | apply State.setF_keeps | apply State.trkTrained_keeps | apply Keeps.foldl | intro x hx

theorem execTrunkDiscoverTimeout_keeps {F : List Fld} {s t : State} (f_regs : Fld.regs ∈ F) (f_trk : Fld.trk ∈ F)
    (h : Keeps F s t)  :
    KeepsOut F s (execTrunkDiscoverTimeout t) := by
  unfold execTrunkDiscoverTimeout
  with_reducible repeat' first
     | apply KeepsOut.next | exact Keeps.refl _ | assumption | apply KeepsOut.ite | apply Keeps.ite | apply State.setF_keeps
     | (extract_lets +onlyGivenNames x; first | (refine Keeps.cut F s x ?_ (fun hx => ?_); rotate_left 1; clear_value x; rotate_left 1; unfold x) | clear_value x)
     | split | apply Keeps.upd_trk

theorem State.lostOne_keeps {F : List Fld} {s t : State} (f_free : Fld.free ∈ F) (f_regs : Fld.regs ∈ F) (f_mem : Fld.mem ∈ F)
    (f_mram : Fld.mram ∈ F) (f_islands : Fld.islands ∈ F) (f_dly : Fld.dly ∈ F) (f_offers : Fld.offers ∈ F)
    (f_chans : Fld.chans ∈ F) (f_dies : Fld.dies ∈ F) (f_dieChs : Fld.dieChs ∈ F) (f_links : Fld.links ∈ F)
    (f_boot : Fld.boot ∈ F) (f_str : Fld.str ∈ F) (f_engs : Fld.engs ∈ F) (f_gated : Fld.gated ∈ F)
    (f_waiting : Fld.waiting ∈ F) (f_exec : Fld.exec ∈ F) (f_trx : Fld.trx ∈ F) (f_cans : Fld.cans ∈ F) (f_lins : Fld.lins ∈ F)
    (f_nm : Fld.nm ∈ F) (f_gw : Fld.gw ∈ F) (f_eth : Fld.eth ∈ F) (f_zrt : Fld.zrt ∈ F) (f_pwr : Fld.pwr ∈ F)
    (f_meas : Fld.meas ∈ F) (f_keys : Fld.keys ∈ F) (f_acc : Fld.acc ∈ F) (f_iso : Fld.iso ∈ F) (f_nvm : Fld.nvm ∈ F)
    (f_upd : Fld.upd ∈ F) (f_trk : Fld.trk ∈ F) (f_brg : Fld.brg ∈ F) (f_ports : Fld.ports ∈ F) (h : Keeps F s t) (r : TrkReq) :
    Keeps F s (State.lostOne t r) := by
  unfold State.lostOne
  with_reducible repeat' first
     | exact Keeps.refl _ | assumption | apply Keeps.ite | apply State.engDone_keeps | apply State.partDone_keeps
     | apply State.portFinish_keeps | apply State.zrtFinish_keeps | split

theorem State.linkLost_keeps {F : List Fld} {s t : State} (f_free : Fld.free ∈ F) (f_regs : Fld.regs ∈ F) (f_mem : Fld.mem ∈ F)
    (f_mram : Fld.mram ∈ F) (f_islands : Fld.islands ∈ F) (f_dly : Fld.dly ∈ F) (f_offers : Fld.offers ∈ F)
    (f_chans : Fld.chans ∈ F) (f_dies : Fld.dies ∈ F) (f_dieChs : Fld.dieChs ∈ F) (f_links : Fld.links ∈ F)
    (f_boot : Fld.boot ∈ F) (f_str : Fld.str ∈ F) (f_engs : Fld.engs ∈ F) (f_gated : Fld.gated ∈ F)
    (f_waiting : Fld.waiting ∈ F) (f_exec : Fld.exec ∈ F) (f_trx : Fld.trx ∈ F) (f_cans : Fld.cans ∈ F) (f_lins : Fld.lins ∈ F)
    (f_nm : Fld.nm ∈ F) (f_gw : Fld.gw ∈ F) (f_eth : Fld.eth ∈ F) (f_zrt : Fld.zrt ∈ F) (f_pwr : Fld.pwr ∈ F)
    (f_meas : Fld.meas ∈ F) (f_keys : Fld.keys ∈ F) (f_acc : Fld.acc ∈ F) (f_iso : Fld.iso ∈ F) (f_nvm : Fld.nvm ∈ F)
    (f_upd : Fld.upd ∈ F) (f_trk : Fld.trk ∈ F) (f_brg : Fld.brg ∈ F) (f_ports : Fld.ports ∈ F) (h : Keeps F s t)  :
    Keeps F s (State.linkLost t) := by
  unfold State.linkLost
  with_reducible repeat' first
     | exact Keeps.refl _ | assumption | apply Keeps.ite | apply Keeps.ite2 | apply State.gwDrop_keeps | apply State.incSat_keeps
     | apply State.lostOne_keeps | apply State.setF_keeps | apply State.trkEvent_keeps | apply State.trkFlag_keeps
     | apply Keeps.foldl | apply Keeps.foldl2 | apply Keeps.foldl1 | apply hf | intro x hx | intro y
     | (extract_lets +onlyGivenNames x; clear_value x) | split | dsimp only | apply Keeps.upd_brg_trk

theorem State.expansionLost_keeps {F : List Fld} {s t : State} (f_regs : Fld.regs ∈ F) (f_trk : Fld.trk ∈ F) (h : Keeps F s t)  :
    Keeps F s (State.expansionLost t) := by
  unfold State.expansionLost
  with_reducible repeat' first
     | exact Keeps.refl _ | assumption | apply Keeps.ite | apply Keeps.ite2 | apply State.addSat_keeps | apply State.setF_keeps
     | (extract_lets +onlyGivenNames x; first | (refine Keeps.cut F s x ?_ (fun hx => ?_); rotate_left 1; clear_value x; rotate_left 1; unfold x) | clear_value x)
     | split | dsimp only | apply Keeps.upd_trk

theorem execTrunkLinkLost_keeps {F : List Fld} {s t : State} (f_free : Fld.free ∈ F) (f_regs : Fld.regs ∈ F)
    (f_mem : Fld.mem ∈ F) (f_mram : Fld.mram ∈ F) (f_islands : Fld.islands ∈ F) (f_dly : Fld.dly ∈ F)
    (f_offers : Fld.offers ∈ F) (f_chans : Fld.chans ∈ F) (f_dies : Fld.dies ∈ F) (f_dieChs : Fld.dieChs ∈ F)
    (f_links : Fld.links ∈ F) (f_boot : Fld.boot ∈ F) (f_str : Fld.str ∈ F) (f_engs : Fld.engs ∈ F) (f_gated : Fld.gated ∈ F)
    (f_waiting : Fld.waiting ∈ F) (f_exec : Fld.exec ∈ F) (f_trx : Fld.trx ∈ F) (f_cans : Fld.cans ∈ F) (f_lins : Fld.lins ∈ F)
    (f_nm : Fld.nm ∈ F) (f_gw : Fld.gw ∈ F) (f_eth : Fld.eth ∈ F) (f_zrt : Fld.zrt ∈ F) (f_pwr : Fld.pwr ∈ F)
    (f_meas : Fld.meas ∈ F) (f_keys : Fld.keys ∈ F) (f_acc : Fld.acc ∈ F) (f_iso : Fld.iso ∈ F) (f_nvm : Fld.nvm ∈ F)
    (f_upd : Fld.upd ∈ F) (f_trk : Fld.trk ∈ F) (f_brg : Fld.brg ∈ F) (f_ports : Fld.ports ∈ F) (h : Keeps F s t)  :
    KeepsOut F s (execTrunkLinkLost t) := by
  unfold execTrunkLinkLost
  with_reducible repeat' first
     | apply KeepsOut.next | exact Keeps.refl _ | assumption | apply KeepsOut.ite | apply Keeps.ite
     | apply State.expansionLost_keeps | apply State.linkLost_keeps

theorem execTrunkCompletionTimeout_keeps {F : List Fld} {s t : State} (f_free : Fld.free ∈ F) (f_regs : Fld.regs ∈ F)
    (f_mem : Fld.mem ∈ F) (f_mram : Fld.mram ∈ F) (f_islands : Fld.islands ∈ F) (f_dly : Fld.dly ∈ F)
    (f_offers : Fld.offers ∈ F) (f_chans : Fld.chans ∈ F) (f_dies : Fld.dies ∈ F) (f_dieChs : Fld.dieChs ∈ F)
    (f_links : Fld.links ∈ F) (f_boot : Fld.boot ∈ F) (f_str : Fld.str ∈ F) (f_engs : Fld.engs ∈ F) (f_gated : Fld.gated ∈ F)
    (f_waiting : Fld.waiting ∈ F) (f_exec : Fld.exec ∈ F) (f_trx : Fld.trx ∈ F) (f_cans : Fld.cans ∈ F) (f_lins : Fld.lins ∈ F)
    (f_nm : Fld.nm ∈ F) (f_gw : Fld.gw ∈ F) (f_eth : Fld.eth ∈ F) (f_zrt : Fld.zrt ∈ F) (f_pwr : Fld.pwr ∈ F)
    (f_meas : Fld.meas ∈ F) (f_keys : Fld.keys ∈ F) (f_acc : Fld.acc ∈ F) (f_iso : Fld.iso ∈ F) (f_nvm : Fld.nvm ∈ F)
    (f_upd : Fld.upd ∈ F) (f_trk : Fld.trk ∈ F) (f_brg : Fld.brg ∈ F) (f_ports : Fld.ports ∈ F) (h : Keeps F s t) (tag : Byte) :
    KeepsOut F s (execTrunkCompletionTimeout tag t) := by
  unfold execTrunkCompletionTimeout
  with_reducible repeat' first
     | apply KeepsOut.next | exact Keeps.refl _ | assumption | apply KeepsOut.ite | apply Keeps.ite | apply State.linkLost_keeps

theorem execTrunkAck_keeps {F : List Fld} {s t : State} (f_trk : Fld.trk ∈ F) (h : Keeps F s t) (seq : Byte) :
    KeepsOut F s (execTrunkAck seq t) := by
  unfold execTrunkAck
  with_reducible repeat' first
     | apply KeepsOut.next | exact Keeps.refl _ | assumption | apply KeepsOut.ite | apply Keeps.ite | apply hf | intro x hx
     | intro y | (extract_lets +onlyGivenNames x; clear_value x) | split | apply Keeps.upd_trk

theorem State.trkResend_keeps {F : List Fld} {s t : State} (f_free : Fld.free ∈ F) (f_regs : Fld.regs ∈ F) (f_mem : Fld.mem ∈ F)
    (f_mram : Fld.mram ∈ F) (f_islands : Fld.islands ∈ F) (f_dly : Fld.dly ∈ F) (f_offers : Fld.offers ∈ F)
    (f_chans : Fld.chans ∈ F) (f_dies : Fld.dies ∈ F) (f_dieChs : Fld.dieChs ∈ F) (f_links : Fld.links ∈ F)
    (f_boot : Fld.boot ∈ F) (f_str : Fld.str ∈ F) (f_engs : Fld.engs ∈ F) (f_gated : Fld.gated ∈ F)
    (f_waiting : Fld.waiting ∈ F) (f_exec : Fld.exec ∈ F) (f_trx : Fld.trx ∈ F) (f_cans : Fld.cans ∈ F) (f_lins : Fld.lins ∈ F)
    (f_nm : Fld.nm ∈ F) (f_gw : Fld.gw ∈ F) (f_eth : Fld.eth ∈ F) (f_zrt : Fld.zrt ∈ F) (f_pwr : Fld.pwr ∈ F)
    (f_meas : Fld.meas ∈ F) (f_keys : Fld.keys ∈ F) (f_acc : Fld.acc ∈ F) (f_iso : Fld.iso ∈ F) (f_nvm : Fld.nvm ∈ F)
    (f_upd : Fld.upd ∈ F) (f_trk : Fld.trk ∈ F) (f_brg : Fld.brg ∈ F) (f_ports : Fld.ports ∈ F) (h : Keeps F s t) (seq : Nat) :
    Keeps F s (State.trkResend t seq) := by
  unfold State.trkResend
  with_reducible repeat' first
     | exact Keeps.refl _ | assumption | apply Keeps.ite | apply State.incSat_keeps | apply State.linkLost_keeps
     | apply State.trkFlag_keeps | apply hf | intro x hx | intro y
     | (extract_lets +onlyGivenNames x; first | (refine Keeps.cut F s x ?_ (fun hx => ?_); rotate_left 1; clear_value x; rotate_left 1; unfold x) | clear_value x)
     | split | dsimp only | apply Keeps.upd_trk

theorem execTrunkNak_keeps {F : List Fld} {s t : State} (f_free : Fld.free ∈ F) (f_regs : Fld.regs ∈ F) (f_mem : Fld.mem ∈ F)
    (f_mram : Fld.mram ∈ F) (f_islands : Fld.islands ∈ F) (f_dly : Fld.dly ∈ F) (f_offers : Fld.offers ∈ F)
    (f_chans : Fld.chans ∈ F) (f_dies : Fld.dies ∈ F) (f_dieChs : Fld.dieChs ∈ F) (f_links : Fld.links ∈ F)
    (f_boot : Fld.boot ∈ F) (f_str : Fld.str ∈ F) (f_engs : Fld.engs ∈ F) (f_gated : Fld.gated ∈ F)
    (f_waiting : Fld.waiting ∈ F) (f_exec : Fld.exec ∈ F) (f_trx : Fld.trx ∈ F) (f_cans : Fld.cans ∈ F) (f_lins : Fld.lins ∈ F)
    (f_nm : Fld.nm ∈ F) (f_gw : Fld.gw ∈ F) (f_eth : Fld.eth ∈ F) (f_zrt : Fld.zrt ∈ F) (f_pwr : Fld.pwr ∈ F)
    (f_meas : Fld.meas ∈ F) (f_keys : Fld.keys ∈ F) (f_acc : Fld.acc ∈ F) (f_iso : Fld.iso ∈ F) (f_nvm : Fld.nvm ∈ F)
    (f_upd : Fld.upd ∈ F) (f_trk : Fld.trk ∈ F) (f_brg : Fld.brg ∈ F) (f_ports : Fld.ports ∈ F) (h : Keeps F s t) (seq : Byte) :
    KeepsOut F s (execTrunkNak seq t) := by
  unfold execTrunkNak
  with_reducible repeat' first
     | apply KeepsOut.next | exact Keeps.refl _ | assumption | apply KeepsOut.ite | apply Keeps.ite | apply State.trkResend_keeps

theorem execTrunkResendTimeout_keeps {F : List Fld} {s t : State} (f_free : Fld.free ∈ F) (f_regs : Fld.regs ∈ F)
    (f_mem : Fld.mem ∈ F) (f_mram : Fld.mram ∈ F) (f_islands : Fld.islands ∈ F) (f_dly : Fld.dly ∈ F)
    (f_offers : Fld.offers ∈ F) (f_chans : Fld.chans ∈ F) (f_dies : Fld.dies ∈ F) (f_dieChs : Fld.dieChs ∈ F)
    (f_links : Fld.links ∈ F) (f_boot : Fld.boot ∈ F) (f_str : Fld.str ∈ F) (f_engs : Fld.engs ∈ F) (f_gated : Fld.gated ∈ F)
    (f_waiting : Fld.waiting ∈ F) (f_exec : Fld.exec ∈ F) (f_trx : Fld.trx ∈ F) (f_cans : Fld.cans ∈ F) (f_lins : Fld.lins ∈ F)
    (f_nm : Fld.nm ∈ F) (f_gw : Fld.gw ∈ F) (f_eth : Fld.eth ∈ F) (f_zrt : Fld.zrt ∈ F) (f_pwr : Fld.pwr ∈ F)
    (f_meas : Fld.meas ∈ F) (f_keys : Fld.keys ∈ F) (f_acc : Fld.acc ∈ F) (f_iso : Fld.iso ∈ F) (f_nvm : Fld.nvm ∈ F)
    (f_upd : Fld.upd ∈ F) (f_trk : Fld.trk ∈ F) (f_brg : Fld.brg ∈ F) (f_ports : Fld.ports ∈ F) (h : Keeps F s t) (seq : Byte) :
    KeepsOut F s (execTrunkResendTimeout seq t) := by
  unfold execTrunkResendTimeout
  with_reducible repeat' first
     | apply KeepsOut.next | exact Keeps.refl _ | assumption | apply KeepsOut.ite | apply Keeps.ite | apply State.trkResend_keeps

theorem State.trkNew_keeps {F : List Fld} {s t : State} (f_trk : Fld.trk ∈ F) (h : Keeps F s t) (src : Nat) (seq : Nat) :
    Keeps F s (State.trkNew t src seq).2 := by
  unfold State.trkNew
  with_reducible repeat' first
     | exact Keeps.refl _ | assumption | apply Keeps.ite | apply Keeps.ite2 | apply hf | intro x hx | intro y
     | (extract_lets +onlyGivenNames x; clear_value x) | split | dsimp only | apply Keeps.upd_trk

theorem State.trkReply_keeps {F : List Fld} {s t : State} (f_trk : Fld.trk ∈ F) (h : Keeps F s t) (src : Nat) (tag : Nat)
    (status : Nat) (data : List Byte) :
    Keeps F s (State.trkReply t src tag status data) := by
  unfold State.trkReply
  with_reducible repeat' first
     | exact Keeps.refl _ | assumption | apply Keeps.ite | apply State.trkKeep_keeps | apply Keeps.foldl | intro x hx | intro y

theorem State.farRefusal_keeps {F : List Fld} {s t : State} (f_regs : Fld.regs ∈ F) (f_islands : Fld.islands ∈ F)
    (h : Keeps F s t) (init : Nat) (orig : Nat) (addr : Nat) (status : Nat) :
    Keeps F s (State.farRefusal t init orig addr status) := by
  unfold State.farRefusal
  with_reducible repeat' first
     | exact Keeps.refl _ | assumption | apply Keeps.ite | apply State.setF_keeps | apply State.setReg_keeps
     | apply State.stampTrk_keeps

theorem State.trkAccess_keeps {F : List Fld} {s t : State} (f_free : Fld.free ∈ F) (f_regs : Fld.regs ∈ F) (f_mem : Fld.mem ∈ F)
    (f_mram : Fld.mram ∈ F) (f_islands : Fld.islands ∈ F) (f_dly : Fld.dly ∈ F) (f_offers : Fld.offers ∈ F)
    (f_chans : Fld.chans ∈ F) (f_dies : Fld.dies ∈ F) (f_dieChs : Fld.dieChs ∈ F) (f_links : Fld.links ∈ F)
    (f_boot : Fld.boot ∈ F) (f_str : Fld.str ∈ F) (f_gated : Fld.gated ∈ F) (f_trx : Fld.trx ∈ F) (f_cans : Fld.cans ∈ F)
    (f_lins : Fld.lins ∈ F) (f_nm : Fld.nm ∈ F) (f_gw : Fld.gw ∈ F) (f_eth : Fld.eth ∈ F) (f_pwr : Fld.pwr ∈ F)
    (f_meas : Fld.meas ∈ F) (f_keys : Fld.keys ∈ F) (f_acc : Fld.acc ∈ F) (f_iso : Fld.iso ∈ F) (f_nvm : Fld.nvm ∈ F)
    (f_upd : Fld.upd ∈ F) (f_trk : Fld.trk ∈ F) (h : Keeps F s t) (init : Nat) (r : TrkReq) : Keeps F s
    (t.trkAccess init r).st := by
  unfold State.trkAccess
  have : ∀ (l : List (Nat × Nat)) (g : SpineRes → Nat × Nat → SpineRes) (x : SpineRes), Keeps F s x.st →
      (∀ y p, Keeps F s y.st → Keeps F s (g y p).st) → Keeps F s (l.foldl g x).st := by
    intro l
    induction l with
    | nil => intro g x hx _; exact hx
    | cons p l ih => intro g x hx hg; exact ih g _ (hg x p hx) hg
  refine this _ _ _ h (fun y p hy => ?_)
  extract_lets z
  unfold z
  by_cases h0 : r.op = 0
  · rw [if_pos h0]; exact State.spineRead_keeps f_regs f_offers f_gated hy _ _ _ _
  · rw [if_neg h0]; exact State.spineWrite_keeps f_free f_regs f_mem f_mram f_islands f_dly f_offers f_chans f_dies f_dieChs f_links f_boot f_str f_gated f_trx f_cans f_lins f_nm f_gw f_eth f_pwr f_meas f_keys f_acc f_iso f_nvm f_upd f_trk hy _ _ _

theorem State.trkServe_keeps {F : List Fld} {s t : State} (f_free : Fld.free ∈ F) (f_regs : Fld.regs ∈ F) (f_mem : Fld.mem ∈ F)
    (f_mram : Fld.mram ∈ F) (f_islands : Fld.islands ∈ F) (f_dly : Fld.dly ∈ F) (f_offers : Fld.offers ∈ F)
    (f_chans : Fld.chans ∈ F) (f_dies : Fld.dies ∈ F) (f_dieChs : Fld.dieChs ∈ F) (f_links : Fld.links ∈ F)
    (f_boot : Fld.boot ∈ F) (f_str : Fld.str ∈ F) (f_gated : Fld.gated ∈ F) (f_trx : Fld.trx ∈ F) (f_cans : Fld.cans ∈ F)
    (f_lins : Fld.lins ∈ F) (f_nm : Fld.nm ∈ F) (f_gw : Fld.gw ∈ F) (f_eth : Fld.eth ∈ F) (f_pwr : Fld.pwr ∈ F)
    (f_meas : Fld.meas ∈ F) (f_keys : Fld.keys ∈ F) (f_acc : Fld.acc ∈ F) (f_iso : Fld.iso ∈ F) (f_nvm : Fld.nvm ∈ F)
    (f_upd : Fld.upd ∈ F) (f_trk : Fld.trk ∈ F) (h : Keeps F s t) (src : Nat) (tag : Nat) (r : TrkReq) :
    Keeps F s (State.trkServe t src tag r) := by
  unfold State.trkServe
  with_reducible repeat' first
     | exact Keeps.refl _ | assumption | apply State.farRefusal_keeps | apply State.trkAccess_keeps | apply State.trkReply_keeps

theorem State.trkNotes_keeps {F : List Fld} {s t : State} (f_regs : Fld.regs ∈ F) (f_eth : Fld.eth ∈ F) (f_zrt : Fld.zrt ∈ F)
    (f_trk : Fld.trk ∈ F) (h : Keeps F s t) (src : Nat) (r : TrkReq) :
    Keeps F s (State.trkNotes t src r) := by
  unfold State.trkNotes
  with_reducible repeat' first
     | exact Keeps.refl _ | assumption | apply State.noteOffer_keeps | apply Keeps.foldl | intro x hx | intro y

theorem State.trkReq_keeps {F : List Fld} {s t : State} (f_free : Fld.free ∈ F) (f_regs : Fld.regs ∈ F) (f_mem : Fld.mem ∈ F)
    (f_mram : Fld.mram ∈ F) (f_islands : Fld.islands ∈ F) (f_dly : Fld.dly ∈ F) (f_offers : Fld.offers ∈ F)
    (f_chans : Fld.chans ∈ F) (f_dies : Fld.dies ∈ F) (f_dieChs : Fld.dieChs ∈ F) (f_links : Fld.links ∈ F)
    (f_boot : Fld.boot ∈ F) (f_str : Fld.str ∈ F) (f_gated : Fld.gated ∈ F) (f_trx : Fld.trx ∈ F) (f_cans : Fld.cans ∈ F)
    (f_lins : Fld.lins ∈ F) (f_nm : Fld.nm ∈ F) (f_gw : Fld.gw ∈ F) (f_eth : Fld.eth ∈ F) (f_zrt : Fld.zrt ∈ F)
    (f_pwr : Fld.pwr ∈ F) (f_meas : Fld.meas ∈ F) (f_keys : Fld.keys ∈ F) (f_acc : Fld.acc ∈ F) (f_iso : Fld.iso ∈ F)
    (f_nvm : Fld.nvm ∈ F) (f_upd : Fld.upd ∈ F) (f_trk : Fld.trk ∈ F) (h : Keeps F s t) (src : Nat) (tag : Nat) (r : TrkReq) :
    Keeps F s (State.trkReq t src tag r) := by
  unfold State.trkReq
  with_reducible repeat' first
     | exact Keeps.refl _ | assumption | apply Keeps.ite | apply Keeps.ite2 | apply State.trkNotes_keeps
     | apply State.trkReply_keeps | apply State.trkServe_keeps | (extract_lets +onlyGivenNames x; clear_value x) | split
     | dsimp only | apply Keeps.upd_trk

theorem State.trkNext_keeps {F : List Fld} {s t : State} (f_free : Fld.free ∈ F) (f_regs : Fld.regs ∈ F) (f_mem : Fld.mem ∈ F)
    (f_mram : Fld.mram ∈ F) (f_islands : Fld.islands ∈ F) (f_dly : Fld.dly ∈ F) (f_offers : Fld.offers ∈ F)
    (f_chans : Fld.chans ∈ F) (f_dies : Fld.dies ∈ F) (f_dieChs : Fld.dieChs ∈ F) (f_links : Fld.links ∈ F)
    (f_boot : Fld.boot ∈ F) (f_str : Fld.str ∈ F) (f_gated : Fld.gated ∈ F) (f_trx : Fld.trx ∈ F) (f_cans : Fld.cans ∈ F)
    (f_lins : Fld.lins ∈ F) (f_nm : Fld.nm ∈ F) (f_gw : Fld.gw ∈ F) (f_eth : Fld.eth ∈ F) (f_pwr : Fld.pwr ∈ F)
    (f_meas : Fld.meas ∈ F) (f_keys : Fld.keys ∈ F) (f_acc : Fld.acc ∈ F) (f_iso : Fld.iso ∈ F) (f_nvm : Fld.nvm ∈ F)
    (f_upd : Fld.upd ∈ F) (f_trk : Fld.trk ∈ F) (h : Keeps F s t)  :
    Keeps F s (State.trkNext t) := by
  unfold State.trkNext
  with_reducible repeat' first
     | exact Keeps.refl _ | assumption | apply Keeps.ite | apply Keeps.ite2 | apply State.trkServe_keeps
     | (extract_lets +onlyGivenNames x; clear_value x) | split | dsimp only | apply Keeps.upd_trk

theorem execTrunkReq_keeps {F : List Fld} {s t : State} (f_free : Fld.free ∈ F) (f_regs : Fld.regs ∈ F) (f_mem : Fld.mem ∈ F)
    (f_mram : Fld.mram ∈ F) (f_islands : Fld.islands ∈ F) (f_dly : Fld.dly ∈ F) (f_offers : Fld.offers ∈ F)
    (f_chans : Fld.chans ∈ F) (f_dies : Fld.dies ∈ F) (f_dieChs : Fld.dieChs ∈ F) (f_links : Fld.links ∈ F)
    (f_boot : Fld.boot ∈ F) (f_str : Fld.str ∈ F) (f_gated : Fld.gated ∈ F) (f_trx : Fld.trx ∈ F) (f_cans : Fld.cans ∈ F)
    (f_lins : Fld.lins ∈ F) (f_nm : Fld.nm ∈ F) (f_gw : Fld.gw ∈ F) (f_eth : Fld.eth ∈ F) (f_zrt : Fld.zrt ∈ F)
    (f_pwr : Fld.pwr ∈ F) (f_meas : Fld.meas ∈ F) (f_keys : Fld.keys ∈ F) (f_acc : Fld.acc ∈ F) (f_iso : Fld.iso ∈ F)
    (f_nvm : Fld.nvm ∈ F) (f_upd : Fld.upd ∈ F) (f_trk : Fld.trk ∈ F) (h : Keeps F s t) (src : Fin 4) (seq : Byte) (tag : Byte)
    (crcOk : Bool) (q : TrunkReq) :
    KeepsOut F s (execTrunkReq src seq tag crcOk q t) := by
  unfold execTrunkReq
  with_reducible repeat' first
     | apply KeepsOut.next | exact Keeps.refl _ | assumption | apply KeepsOut.ite | apply Keeps.ite | apply Keeps.ite2
     | apply State.trkNew_keeps | apply State.trkReq_keeps

theorem State.noteArrived_keeps {F : List Fld} {s t : State} (f_regs : Fld.regs ∈ F) (f_zrt : Fld.zrt ∈ F) (h : Keeps F s t)
    (k : Nat) :
    Keeps F s (State.noteArrived t k) := by
  unfold State.noteArrived
  with_reducible repeat' first
     | exact Keeps.refl _ | assumption | apply State.setSes_keeps

theorem State.farDone_keeps {F : List Fld} {s t : State} (f_free : Fld.free ∈ F) (f_regs : Fld.regs ∈ F) (f_mem : Fld.mem ∈ F)
    (f_mram : Fld.mram ∈ F) (f_islands : Fld.islands ∈ F) (f_dly : Fld.dly ∈ F) (f_offers : Fld.offers ∈ F)
    (f_chans : Fld.chans ∈ F) (f_dies : Fld.dies ∈ F) (f_dieChs : Fld.dieChs ∈ F) (f_links : Fld.links ∈ F)
    (f_boot : Fld.boot ∈ F) (f_str : Fld.str ∈ F) (f_engs : Fld.engs ∈ F) (f_gated : Fld.gated ∈ F)
    (f_waiting : Fld.waiting ∈ F) (f_exec : Fld.exec ∈ F) (f_trx : Fld.trx ∈ F) (f_cans : Fld.cans ∈ F) (f_lins : Fld.lins ∈ F)
    (f_nm : Fld.nm ∈ F) (f_gw : Fld.gw ∈ F) (f_eth : Fld.eth ∈ F) (f_zrt : Fld.zrt ∈ F) (f_pwr : Fld.pwr ∈ F)
    (f_meas : Fld.meas ∈ F) (f_keys : Fld.keys ∈ F) (f_acc : Fld.acc ∈ F) (f_iso : Fld.iso ∈ F) (f_nvm : Fld.nvm ∈ F)
    (f_upd : Fld.upd ∈ F) (f_trk : Fld.trk ∈ F) (f_brg : Fld.brg ∈ F) (f_ports : Fld.ports ∈ F) (h : Keeps F s t) (tag : Nat)
    (r : TrkReq) (status : Nat) (data : List Byte) :
    Keeps F s (State.farDone t tag r status data) := by
  unfold State.farDone
  with_reducible repeat' first
     | exact Keeps.refl _ | assumption | apply Keeps.ite | apply State.buserr_keeps | apply State.countSpecRefused_keeps
     | apply State.engDone_keeps | apply State.noteArrived_keeps | apply State.partDone_keeps | apply State.pfFill_keeps
     | apply State.portFinish_keeps | apply State.zrtFinish_keeps | apply hf | intro x hx | intro y
     | (extract_lets +onlyGivenNames x; first | (refine Keeps.cut F s x ?_ (fun hx => ?_); rotate_left 1; clear_value x; rotate_left 1; unfold x) | clear_value x)
     | split | dsimp only | apply Keeps.upd_brg

theorem execTrunkCpl_keeps {F : List Fld} {s t : State} (f_free : Fld.free ∈ F) (f_regs : Fld.regs ∈ F) (f_mem : Fld.mem ∈ F)
    (f_mram : Fld.mram ∈ F) (f_islands : Fld.islands ∈ F) (f_dly : Fld.dly ∈ F) (f_offers : Fld.offers ∈ F)
    (f_chans : Fld.chans ∈ F) (f_dies : Fld.dies ∈ F) (f_dieChs : Fld.dieChs ∈ F) (f_links : Fld.links ∈ F)
    (f_boot : Fld.boot ∈ F) (f_str : Fld.str ∈ F) (f_engs : Fld.engs ∈ F) (f_gated : Fld.gated ∈ F)
    (f_waiting : Fld.waiting ∈ F) (f_exec : Fld.exec ∈ F) (f_trx : Fld.trx ∈ F) (f_cans : Fld.cans ∈ F) (f_lins : Fld.lins ∈ F)
    (f_nm : Fld.nm ∈ F) (f_gw : Fld.gw ∈ F) (f_eth : Fld.eth ∈ F) (f_zrt : Fld.zrt ∈ F) (f_pwr : Fld.pwr ∈ F)
    (f_meas : Fld.meas ∈ F) (f_keys : Fld.keys ∈ F) (f_acc : Fld.acc ∈ F) (f_iso : Fld.iso ∈ F) (f_nvm : Fld.nvm ∈ F)
    (f_upd : Fld.upd ∈ F) (f_trk : Fld.trk ∈ F) (f_brg : Fld.brg ∈ F) (f_ports : Fld.ports ∈ F) (h : Keeps F s t) (src : Fin 4)
    (seq : Byte) (tag : Byte) (status : Byte) (crcOk : Bool) (data : List Byte) :
    KeepsOut F s (execTrunkCpl src seq tag status crcOk data t) := by
  unfold execTrunkCpl
  with_reducible repeat' first
     | apply KeepsOut.next | exact Keeps.refl _ | assumption | apply KeepsOut.ite | apply Keeps.ite | apply Keeps.ite2
     | apply State.farDone_keeps | apply State.trkNew_keeps | apply hf | intro x hx | intro y
     | (extract_lets +onlyGivenNames x; first | (refine Keeps.cut F s x ?_ (fun hx => ?_); rotate_left 1; clear_value x; rotate_left 1; unfold x) | clear_value x)
     | split | dsimp only | apply Keeps.upd_trk

theorem execPostedBufferFree_keeps {F : List Fld} {s t : State} (f_free : Fld.free ∈ F) (f_regs : Fld.regs ∈ F)
    (f_mem : Fld.mem ∈ F) (f_mram : Fld.mram ∈ F) (f_islands : Fld.islands ∈ F) (f_dly : Fld.dly ∈ F)
    (f_offers : Fld.offers ∈ F) (f_chans : Fld.chans ∈ F) (f_dies : Fld.dies ∈ F) (f_dieChs : Fld.dieChs ∈ F)
    (f_links : Fld.links ∈ F) (f_boot : Fld.boot ∈ F) (f_str : Fld.str ∈ F) (f_gated : Fld.gated ∈ F)
    (f_waiting : Fld.waiting ∈ F) (f_exec : Fld.exec ∈ F) (f_trx : Fld.trx ∈ F) (f_cans : Fld.cans ∈ F) (f_lins : Fld.lins ∈ F)
    (f_nm : Fld.nm ∈ F) (f_gw : Fld.gw ∈ F) (f_eth : Fld.eth ∈ F) (f_zrt : Fld.zrt ∈ F) (f_pwr : Fld.pwr ∈ F)
    (f_meas : Fld.meas ∈ F) (f_keys : Fld.keys ∈ F) (f_acc : Fld.acc ∈ F) (f_iso : Fld.iso ∈ F) (f_nvm : Fld.nvm ∈ F)
    (f_upd : Fld.upd ∈ F) (f_trk : Fld.trk ∈ F) (f_brg : Fld.brg ∈ F) (f_ports : Fld.ports ∈ F) (h : Keeps F s t)  :
    KeepsOut F s (execPostedBufferFree t) := by
  unfold execPostedBufferFree
  with_reducible repeat' first
     | apply KeepsOut.next | exact Keeps.refl _ | assumption | apply KeepsOut.ite | apply Keeps.ite | apply State.partDone_keeps
     | apply State.postedEnter_keeps | apply State.zrtFinish_keeps | apply hf | intro x hx | intro y
     | (extract_lets +onlyGivenNames x; clear_value x) | split | dsimp only | apply Keeps.upd_brg

theorem execTrunkGwFrame_keeps {F : List Fld} {s t : State} (f_gw : Fld.gw ∈ F) (f_trk : Fld.trk ∈ F) (h : Keeps F s t)
    (src : Fin 4) (seq : Byte) (crcOk : Bool) (q : TrunkGw) :
    KeepsOut F s (execTrunkGwFrame src seq crcOk q t) := by
  unfold execTrunkGwFrame
  with_reducible repeat' first
     | apply KeepsOut.next | exact Keeps.refl _ | assumption | apply KeepsOut.ite | apply Keeps.ite | apply Keeps.ite2
     | apply State.gwArrive_keeps | apply State.stamp_keeps | apply State.trkNew_keeps

theorem execTrunkSyncFrame_keeps {F : List Fld} {s t : State} (f_trk : Fld.trk ∈ F) (h : Keeps F s t) (t' : BitVec 64)
    (crcOk : Bool) :
    KeepsOut F s (execTrunkSyncFrame t' crcOk t) := by
  unfold execTrunkSyncFrame
  with_reducible repeat' first
     | apply KeepsOut.next | exact Keeps.refl _ | assumption | apply KeepsOut.ite | apply Keeps.ite
     | (extract_lets +onlyGivenNames x; clear_value x) | split | apply Keeps.upd_trk

theorem execTkSyncEdge_keeps {F : List Fld} {s t : State} (f_slate : Fld.slate ∈ F) (f_regs : Fld.regs ∈ F)
    (f_frm : Fld.frm ∈ F) (f_trk : Fld.trk ∈ F) (h : Keeps F s t)  :
    KeepsOut F s (execTkSyncEdge t) := by
  unfold execTkSyncEdge
  with_reducible repeat' first
     | apply KeepsOut.next | exact Keeps.refl _ | assumption | apply KeepsOut.ite | apply Keeps.ite | apply Keeps.ite2
     | apply State.setF_keeps
     | (extract_lets +onlyGivenNames x; first | (refine Keeps.cut F s x ?_ (fun hx => ?_); rotate_left 1; clear_value x; rotate_left 1; unfold x) | clear_value x)
     | split | dsimp only | apply Keeps.upd_frm_slate_trk

theorem execTrunkSyncLost_keeps {F : List Fld} {s t : State} (f_regs : Fld.regs ∈ F) (f_islands : Fld.islands ∈ F)
    (h : Keeps F s t)  :
    KeepsOut F s (execTrunkSyncLost t) := by
  unfold execTrunkSyncLost
  with_reducible repeat' first
     | apply KeepsOut.next | exact Keeps.refl _ | assumption | apply KeepsOut.ite | apply Keeps.ite | apply State.setF_keeps
     | apply State.stampTrk_keeps | apply State.trkFlag_keeps

theorem State.trkBoundary_keeps {F : List Fld} {s t : State} (f_frm : Fld.frm ∈ F) (f_dies : Fld.dies ∈ F) (f_trk : Fld.trk ∈ F)
    (h : Keeps F s t) (b : Nat) :
    Keeps F s (State.trkBoundary t b) := by
  unfold State.trkBoundary
  with_reducible repeat' first
     | exact Keeps.refl _ | assumption | apply Keeps.ite | apply State.sendBoundary_keeps
     | (extract_lets +onlyGivenNames x; clear_value x) | split | apply Keeps.upd_trk

theorem execTrunkBoundary_keeps {F : List Fld} {s t : State} (f_frm : Fld.frm ∈ F) (f_dies : Fld.dies ∈ F) (f_trk : Fld.trk ∈ F)
    (h : Keeps F s t) (seq : Byte) (crcOk : Bool) (t' : BitVec 64) :
    KeepsOut F s (execTrunkBoundary seq crcOk t' t) := by
  unfold execTrunkBoundary
  with_reducible repeat' first
     | apply KeepsOut.next | exact Keeps.refl _ | assumption | apply KeepsOut.ite | apply Keeps.ite
     | apply State.trkBoundary_keeps | apply State.trkNew_keeps

theorem execTrunkWake_keeps {F : List Fld} {s t : State} (f_regs : Fld.regs ∈ F) (f_islands : Fld.islands ∈ F)
    (f_trx : Fld.trx ∈ F) (f_pwr : Fld.pwr ∈ F) (f_trk : Fld.trk ∈ F) (h : Keeps F s t)  :
    KeepsOut F s (execTrunkWake t) := by
  unfold execTrunkWake
  with_reducible repeat' first
     | apply KeepsOut.next | exact Keeps.refl _ | assumption | apply KeepsOut.ite | apply Keeps.ite | apply State.trkWake_keeps
     | apply State.wakeSource_keeps

end Sys2Proof.Machine
end

