-- ==== Sys2Proof/Laws/KeepsPorts.lean ====
section
/-! SUPPORT. What the operations and meanings of Machine/Ports.lean keep. -/

namespace Sys2Proof.Machine

theorem State.takeTurn_keeps {F : List Fld} {s t : State} (f_rr : Fld.rr ∈ F) (h : Keeps F s t) (c : Option Nat) (init : Nat) :
    Keeps F s (State.takeTurn t c init) := by
  unfold State.takeTurn
  with_reducible repeat' first
     | exact Keeps.refl _ | assumption | apply hf | intro x hx | intro y | split | dsimp only | apply Keeps.upd_rr

theorem State.answer_keeps {F : List Fld} {s t : State} (f_ports : Fld.ports ∈ F) (h : Keeps F s t) (init : Nat) (status : Nat)
    (data : List Byte) :
    Keeps F s (State.answer t init status data) := by
  unfold State.answer
  with_reducible repeat' first
     | exact Keeps.refl _ | assumption | apply hf | intro x hx | intro y | dsimp only | apply Keeps.upd_ports

theorem State.txRun_keeps {F : List Fld} {s t : State} (f_free : Fld.free ∈ F) (f_regs : Fld.regs ∈ F) (f_mem : Fld.mem ∈ F)
    (f_mram : Fld.mram ∈ F) (f_islands : Fld.islands ∈ F) (f_dly : Fld.dly ∈ F) (f_offers : Fld.offers ∈ F)
    (f_chans : Fld.chans ∈ F) (f_dies : Fld.dies ∈ F) (f_dieChs : Fld.dieChs ∈ F) (f_links : Fld.links ∈ F)
    (f_boot : Fld.boot ∈ F) (f_str : Fld.str ∈ F) (f_engs : Fld.engs ∈ F) (f_gated : Fld.gated ∈ F)
    (f_waiting : Fld.waiting ∈ F) (f_exec : Fld.exec ∈ F) (f_trx : Fld.trx ∈ F) (f_cans : Fld.cans ∈ F) (f_lins : Fld.lins ∈ F)
    (f_nm : Fld.nm ∈ F) (f_gw : Fld.gw ∈ F) (f_eth : Fld.eth ∈ F) (f_zrt : Fld.zrt ∈ F) (f_pwr : Fld.pwr ∈ F)
    (f_meas : Fld.meas ∈ F) (f_keys : Fld.keys ∈ F) (f_acc : Fld.acc ∈ F) (f_iso : Fld.iso ∈ F) (f_nvm : Fld.nvm ∈ F)
    (f_upd : Fld.upd ∈ F) (f_trk : Fld.trk ∈ F) (f_brg : Fld.brg ∈ F) (f_ports : Fld.ports ∈ F) (h : Keeps F s t) (t' : SpineTx) :
    Keeps F s (State.txRun t t') := by
  unfold State.txRun
  with_reducible repeat' first
     | exact Keeps.refl _ | assumption | apply Keeps.ite | apply State.answer_keeps | apply State.busReadGo_keeps
     | apply State.busWriteGo_keeps | apply State.engRun_keeps | apply State.portFinish_keeps | apply State.spineRead_keeps
     | apply State.spineWrite_keeps | apply State.zrtFinish_keeps | apply hf | intro x hx | intro y
     | (extract_lets +onlyGivenNames x; clear_value x) | split | apply Keeps.upd_waiting

theorem execSpineTransactionGrant_keeps {F : List Fld} {s t : State} (f_free : Fld.free ∈ F) (f_regs : Fld.regs ∈ F)
    (f_mem : Fld.mem ∈ F) (f_mram : Fld.mram ∈ F) (f_islands : Fld.islands ∈ F) (f_dly : Fld.dly ∈ F)
    (f_offers : Fld.offers ∈ F) (f_chans : Fld.chans ∈ F) (f_dies : Fld.dies ∈ F) (f_dieChs : Fld.dieChs ∈ F)
    (f_links : Fld.links ∈ F) (f_boot : Fld.boot ∈ F) (f_str : Fld.str ∈ F) (f_engs : Fld.engs ∈ F) (f_gated : Fld.gated ∈ F)
    (f_waiting : Fld.waiting ∈ F) (f_rr : Fld.rr ∈ F) (f_exec : Fld.exec ∈ F) (f_trx : Fld.trx ∈ F) (f_cans : Fld.cans ∈ F)
    (f_lins : Fld.lins ∈ F) (f_nm : Fld.nm ∈ F) (f_gw : Fld.gw ∈ F) (f_eth : Fld.eth ∈ F) (f_zrt : Fld.zrt ∈ F)
    (f_pwr : Fld.pwr ∈ F) (f_meas : Fld.meas ∈ F) (f_keys : Fld.keys ∈ F) (f_acc : Fld.acc ∈ F) (f_iso : Fld.iso ∈ F)
    (f_nvm : Fld.nvm ∈ F) (f_upd : Fld.upd ∈ F) (f_trk : Fld.trk ∈ F) (f_brg : Fld.brg ∈ F) (f_ports : Fld.ports ∈ F)
    (h : Keeps F s t) (port : Fin 31) :
    KeepsOut F s (execSpineTransactionGrant port t) := by
  unfold execSpineTransactionGrant
  with_reducible repeat' first
     | apply KeepsOut.next | exact Keeps.refl _ | assumption | apply KeepsOut.ite | apply Keeps.ite | apply Keeps.ite2
     | apply State.takeTurn_keeps | apply State.trkNext_keeps | apply State.txRun_keeps
     | (extract_lets +onlyGivenNames x; clear_value x) | split

theorem State.trkResume_keeps {F : List Fld} {s t : State} (f_free : Fld.free ∈ F) (f_regs : Fld.regs ∈ F) (f_mem : Fld.mem ∈ F)
    (f_mram : Fld.mram ∈ F) (f_islands : Fld.islands ∈ F) (f_dly : Fld.dly ∈ F) (f_offers : Fld.offers ∈ F)
    (f_chans : Fld.chans ∈ F) (f_dies : Fld.dies ∈ F) (f_dieChs : Fld.dieChs ∈ F) (f_links : Fld.links ∈ F)
    (f_boot : Fld.boot ∈ F) (f_str : Fld.str ∈ F) (f_gated : Fld.gated ∈ F) (f_trx : Fld.trx ∈ F) (f_cans : Fld.cans ∈ F)
    (f_lins : Fld.lins ∈ F) (f_nm : Fld.nm ∈ F) (f_gw : Fld.gw ∈ F) (f_eth : Fld.eth ∈ F) (f_pwr : Fld.pwr ∈ F)
    (f_meas : Fld.meas ∈ F) (f_keys : Fld.keys ∈ F) (f_acc : Fld.acc ∈ F) (f_iso : Fld.iso ∈ F) (f_nvm : Fld.nvm ∈ F)
    (f_upd : Fld.upd ∈ F) (f_trk : Fld.trk ∈ F) (h : Keeps F s t) (isl : Nat) :
    Keeps F s (State.trkResume t isl) := by
  unfold State.trkResume
  with_reducible repeat' first
     | exact Keeps.refl _ | assumption | apply Keeps.ite | apply Keeps.ite2 | apply State.trkNext_keeps | split

theorem execIslandAccessResume_keeps {F : List Fld} {s t : State} (f_free : Fld.free ∈ F) (f_regs : Fld.regs ∈ F)
    (f_mem : Fld.mem ∈ F) (f_mram : Fld.mram ∈ F) (f_islands : Fld.islands ∈ F) (f_dly : Fld.dly ∈ F)
    (f_offers : Fld.offers ∈ F) (f_chans : Fld.chans ∈ F) (f_dies : Fld.dies ∈ F) (f_dieChs : Fld.dieChs ∈ F)
    (f_links : Fld.links ∈ F) (f_boot : Fld.boot ∈ F) (f_str : Fld.str ∈ F) (f_engs : Fld.engs ∈ F) (f_gated : Fld.gated ∈ F)
    (f_waiting : Fld.waiting ∈ F) (f_exec : Fld.exec ∈ F) (f_trx : Fld.trx ∈ F) (f_cans : Fld.cans ∈ F) (f_lins : Fld.lins ∈ F)
    (f_nm : Fld.nm ∈ F) (f_gw : Fld.gw ∈ F) (f_eth : Fld.eth ∈ F) (f_zrt : Fld.zrt ∈ F) (f_pwr : Fld.pwr ∈ F)
    (f_meas : Fld.meas ∈ F) (f_keys : Fld.keys ∈ F) (f_acc : Fld.acc ∈ F) (f_iso : Fld.iso ∈ F) (f_nvm : Fld.nvm ∈ F)
    (f_upd : Fld.upd ∈ F) (f_trk : Fld.trk ∈ F) (f_brg : Fld.brg ∈ F) (f_ports : Fld.ports ∈ F) (h : Keeps F s t) (isl : Fin 30) :
    KeepsOut F s (execIslandAccessResume isl t) := by
  unfold execIslandAccessResume
  with_reducible repeat' first
     | apply KeepsOut.next | exact Keeps.refl _ | assumption | apply State.trkResume_keeps | apply State.txRun_keeps | intro x hx
     | intro y | split

theorem State.rowWrite_keeps {F : List Fld} {s t : State} (f_free : Fld.free ∈ F) (f_regs : Fld.regs ∈ F) (f_mem : Fld.mem ∈ F)
    (f_mram : Fld.mram ∈ F) (f_islands : Fld.islands ∈ F) (f_dly : Fld.dly ∈ F) (f_offers : Fld.offers ∈ F)
    (f_chans : Fld.chans ∈ F) (f_dies : Fld.dies ∈ F) (f_dieChs : Fld.dieChs ∈ F) (f_links : Fld.links ∈ F)
    (f_boot : Fld.boot ∈ F) (f_str : Fld.str ∈ F) (f_gated : Fld.gated ∈ F) (f_waiting : Fld.waiting ∈ F) (f_trx : Fld.trx ∈ F)
    (f_cans : Fld.cans ∈ F) (f_lins : Fld.lins ∈ F) (f_nm : Fld.nm ∈ F) (f_gw : Fld.gw ∈ F) (f_eth : Fld.eth ∈ F)
    (f_pwr : Fld.pwr ∈ F) (f_meas : Fld.meas ∈ F) (f_keys : Fld.keys ∈ F) (f_acc : Fld.acc ∈ F) (f_iso : Fld.iso ∈ F)
    (f_nvm : Fld.nvm ∈ F) (f_upd : Fld.upd ∈ F) (f_trk : Fld.trk ∈ F) (f_ports : Fld.ports ∈ F) (h : Keeps F s t) (init : Nat)
    (a : Nat) (bytes : List Byte) :
    Keeps F s (State.rowWrite t init a bytes) := by
  unfold State.rowWrite
  with_reducible repeat' first
     | exact Keeps.refl _ | assumption | apply Keeps.ite | apply Keeps.ite2 | apply State.answer_keeps
     | apply State.spineWrite_keeps | (extract_lets +onlyGivenNames x; clear_value x) | split | dsimp only
     | apply Keeps.upd_waiting

theorem State.rowRead_keeps {F : List Fld} {s t : State} (f_regs : Fld.regs ∈ F) (f_offers : Fld.offers ∈ F)
    (f_gated : Fld.gated ∈ F) (f_waiting : Fld.waiting ∈ F) (f_ports : Fld.ports ∈ F) (h : Keeps F s t) (init : Nat) (a : Nat)
    (n : Nat) (spec : Bool) :
    Keeps F s (State.rowRead t init a n spec) := by
  unfold State.rowRead
  with_reducible repeat' first
     | exact Keeps.refl _ | assumption | apply Keeps.ite | apply Keeps.ite2 | apply State.answer_keeps
     | apply State.spineRead_keeps | (extract_lets +onlyGivenNames x; clear_value x) | split | dsimp only
     | apply Keeps.upd_waiting

theorem execRegisterWrite_keeps {F : List Fld} {s t : State} (f_free : Fld.free ∈ F) (f_regs : Fld.regs ∈ F)
    (f_mem : Fld.mem ∈ F) (f_mram : Fld.mram ∈ F) (f_islands : Fld.islands ∈ F) (f_dly : Fld.dly ∈ F)
    (f_offers : Fld.offers ∈ F) (f_chans : Fld.chans ∈ F) (f_dies : Fld.dies ∈ F) (f_dieChs : Fld.dieChs ∈ F)
    (f_links : Fld.links ∈ F) (f_boot : Fld.boot ∈ F) (f_str : Fld.str ∈ F) (f_gated : Fld.gated ∈ F)
    (f_waiting : Fld.waiting ∈ F) (f_trx : Fld.trx ∈ F) (f_cans : Fld.cans ∈ F) (f_lins : Fld.lins ∈ F) (f_nm : Fld.nm ∈ F)
    (f_gw : Fld.gw ∈ F) (f_eth : Fld.eth ∈ F) (f_pwr : Fld.pwr ∈ F) (f_meas : Fld.meas ∈ F) (f_keys : Fld.keys ∈ F)
    (f_acc : Fld.acc ∈ F) (f_iso : Fld.iso ∈ F) (f_nvm : Fld.nvm ∈ F) (f_upd : Fld.upd ∈ F) (f_trk : Fld.trk ∈ F)
    (f_ports : Fld.ports ∈ F) (h : Keeps F s t) (init : Byte) (a : Word) (bytes : List Byte) :
    KeepsOut F s (execRegisterWrite init a bytes t) := by
  unfold execRegisterWrite
  with_reducible repeat' first
     | apply KeepsOut.next | exact Keeps.refl _ | assumption | apply KeepsOut.ite | apply Keeps.ite | apply State.rowWrite_keeps
     | apply KeepsOut.refused

theorem execW1cFlagClear_keeps {F : List Fld} {s t : State} (f_free : Fld.free ∈ F) (f_regs : Fld.regs ∈ F)
    (f_mem : Fld.mem ∈ F) (f_mram : Fld.mram ∈ F) (f_islands : Fld.islands ∈ F) (f_dly : Fld.dly ∈ F)
    (f_offers : Fld.offers ∈ F) (f_chans : Fld.chans ∈ F) (f_dies : Fld.dies ∈ F) (f_dieChs : Fld.dieChs ∈ F)
    (f_links : Fld.links ∈ F) (f_boot : Fld.boot ∈ F) (f_str : Fld.str ∈ F) (f_gated : Fld.gated ∈ F)
    (f_waiting : Fld.waiting ∈ F) (f_trx : Fld.trx ∈ F) (f_cans : Fld.cans ∈ F) (f_lins : Fld.lins ∈ F) (f_nm : Fld.nm ∈ F)
    (f_gw : Fld.gw ∈ F) (f_eth : Fld.eth ∈ F) (f_pwr : Fld.pwr ∈ F) (f_meas : Fld.meas ∈ F) (f_keys : Fld.keys ∈ F)
    (f_acc : Fld.acc ∈ F) (f_iso : Fld.iso ∈ F) (f_nvm : Fld.nvm ∈ F) (f_upd : Fld.upd ∈ F) (f_trk : Fld.trk ∈ F)
    (f_ports : Fld.ports ∈ F) (h : Keeps F s t) (init : Byte) (a : Word) (w : Word) (same : Word) :
    KeepsOut F s (execW1cFlagClear init a w same t) := by
  unfold execW1cFlagClear
  with_reducible repeat' first
     | apply KeepsOut.next | exact Keeps.refl _ | assumption | apply KeepsOut.ite | apply Keeps.ite | apply State.rowWrite_keeps
     | apply KeepsOut.refused

theorem execAbsentBlockWrite_keeps {F : List Fld} {s t : State} (f_free : Fld.free ∈ F) (f_regs : Fld.regs ∈ F)
    (f_mem : Fld.mem ∈ F) (f_mram : Fld.mram ∈ F) (f_islands : Fld.islands ∈ F) (f_dly : Fld.dly ∈ F)
    (f_offers : Fld.offers ∈ F) (f_chans : Fld.chans ∈ F) (f_dies : Fld.dies ∈ F) (f_dieChs : Fld.dieChs ∈ F)
    (f_links : Fld.links ∈ F) (f_boot : Fld.boot ∈ F) (f_str : Fld.str ∈ F) (f_gated : Fld.gated ∈ F)
    (f_waiting : Fld.waiting ∈ F) (f_trx : Fld.trx ∈ F) (f_cans : Fld.cans ∈ F) (f_lins : Fld.lins ∈ F) (f_nm : Fld.nm ∈ F)
    (f_gw : Fld.gw ∈ F) (f_eth : Fld.eth ∈ F) (f_pwr : Fld.pwr ∈ F) (f_meas : Fld.meas ∈ F) (f_keys : Fld.keys ∈ F)
    (f_acc : Fld.acc ∈ F) (f_iso : Fld.iso ∈ F) (f_nvm : Fld.nvm ∈ F) (f_upd : Fld.upd ∈ F) (f_trk : Fld.trk ∈ F)
    (f_ports : Fld.ports ∈ F) (h : Keeps F s t) (init : Byte) (a : Word) (bytes : List Byte) :
    KeepsOut F s (execAbsentBlockWrite init a bytes t) := by
  unfold execAbsentBlockWrite
  with_reducible repeat' first
     | apply KeepsOut.next | exact Keeps.refl _ | assumption | apply KeepsOut.ite | apply Keeps.ite | apply State.rowWrite_keeps
     | apply KeepsOut.refused

theorem execStrongroomWriteDrop_keeps {F : List Fld} {s t : State} (f_free : Fld.free ∈ F) (f_regs : Fld.regs ∈ F)
    (f_mem : Fld.mem ∈ F) (f_mram : Fld.mram ∈ F) (f_islands : Fld.islands ∈ F) (f_dly : Fld.dly ∈ F)
    (f_offers : Fld.offers ∈ F) (f_chans : Fld.chans ∈ F) (f_dies : Fld.dies ∈ F) (f_dieChs : Fld.dieChs ∈ F)
    (f_links : Fld.links ∈ F) (f_boot : Fld.boot ∈ F) (f_str : Fld.str ∈ F) (f_gated : Fld.gated ∈ F)
    (f_waiting : Fld.waiting ∈ F) (f_trx : Fld.trx ∈ F) (f_cans : Fld.cans ∈ F) (f_lins : Fld.lins ∈ F) (f_nm : Fld.nm ∈ F)
    (f_gw : Fld.gw ∈ F) (f_eth : Fld.eth ∈ F) (f_pwr : Fld.pwr ∈ F) (f_meas : Fld.meas ∈ F) (f_keys : Fld.keys ∈ F)
    (f_acc : Fld.acc ∈ F) (f_iso : Fld.iso ∈ F) (f_nvm : Fld.nvm ∈ F) (f_upd : Fld.upd ∈ F) (f_trk : Fld.trk ∈ F)
    (f_ports : Fld.ports ∈ F) (h : Keeps F s t) (init : Byte) (a : Word) (bytes : List Byte) :
    KeepsOut F s (execStrongroomWriteDrop init a bytes t) := by
  unfold execStrongroomWriteDrop
  with_reducible repeat' first
     | apply KeepsOut.next | exact Keeps.refl _ | assumption | apply KeepsOut.ite | apply Keeps.ite | apply State.rowWrite_keeps
     | apply KeepsOut.refused

theorem execSpeculativeReadRefused_keeps {F : List Fld} {s t : State} (f_regs : Fld.regs ∈ F) (f_offers : Fld.offers ∈ F)
    (f_gated : Fld.gated ∈ F) (f_waiting : Fld.waiting ∈ F) (f_ports : Fld.ports ∈ F) (h : Keeps F s t) (init : Byte) (a : Word)
    (n : BitVec 7) :
    KeepsOut F s (execSpeculativeReadRefused init a n t) := by
  unfold execSpeculativeReadRefused
  with_reducible repeat' first
     | apply KeepsOut.next | exact Keeps.refl _ | assumption | apply KeepsOut.ite | apply Keeps.ite | apply State.rowRead_keeps
     | apply KeepsOut.refused

theorem execDecodeError_keeps {F : List Fld} {s t : State} (f_free : Fld.free ∈ F) (f_regs : Fld.regs ∈ F) (f_mem : Fld.mem ∈ F)
    (f_mram : Fld.mram ∈ F) (f_islands : Fld.islands ∈ F) (f_dly : Fld.dly ∈ F) (f_offers : Fld.offers ∈ F)
    (f_chans : Fld.chans ∈ F) (f_dies : Fld.dies ∈ F) (f_dieChs : Fld.dieChs ∈ F) (f_links : Fld.links ∈ F)
    (f_boot : Fld.boot ∈ F) (f_str : Fld.str ∈ F) (f_gated : Fld.gated ∈ F) (f_waiting : Fld.waiting ∈ F) (f_trx : Fld.trx ∈ F)
    (f_cans : Fld.cans ∈ F) (f_lins : Fld.lins ∈ F) (f_nm : Fld.nm ∈ F) (f_gw : Fld.gw ∈ F) (f_eth : Fld.eth ∈ F)
    (f_pwr : Fld.pwr ∈ F) (f_meas : Fld.meas ∈ F) (f_keys : Fld.keys ∈ F) (f_acc : Fld.acc ∈ F) (f_iso : Fld.iso ∈ F)
    (f_nvm : Fld.nvm ∈ F) (f_upd : Fld.upd ∈ F) (f_trk : Fld.trk ∈ F) (f_ports : Fld.ports ∈ F) (h : Keeps F s t) (init : Byte)
    (write : Bool) (a : Word) (n : BitVec 7) :
    KeepsOut F s (execDecodeError init write a n t) := by
  unfold execDecodeError
  with_reducible repeat' first
     | apply KeepsOut.next | exact Keeps.refl _ | assumption | apply KeepsOut.ite | apply Keeps.ite | apply State.rowRead_keeps
     | apply State.rowWrite_keeps | apply KeepsOut.refused

theorem State.portWrite_keeps {F : List Fld} {s t : State} (f_free : Fld.free ∈ F) (f_regs : Fld.regs ∈ F) (f_mem : Fld.mem ∈ F)
    (f_mram : Fld.mram ∈ F) (f_islands : Fld.islands ∈ F) (f_dly : Fld.dly ∈ F) (f_offers : Fld.offers ∈ F)
    (f_chans : Fld.chans ∈ F) (f_dies : Fld.dies ∈ F) (f_dieChs : Fld.dieChs ∈ F) (f_links : Fld.links ∈ F)
    (f_boot : Fld.boot ∈ F) (f_str : Fld.str ∈ F) (f_gated : Fld.gated ∈ F) (f_waiting : Fld.waiting ∈ F) (f_trx : Fld.trx ∈ F)
    (f_cans : Fld.cans ∈ F) (f_lins : Fld.lins ∈ F) (f_nm : Fld.nm ∈ F) (f_gw : Fld.gw ∈ F) (f_eth : Fld.eth ∈ F)
    (f_zrt : Fld.zrt ∈ F) (f_pwr : Fld.pwr ∈ F) (f_meas : Fld.meas ∈ F) (f_keys : Fld.keys ∈ F) (f_acc : Fld.acc ∈ F)
    (f_iso : Fld.iso ∈ F) (f_nvm : Fld.nvm ∈ F) (f_upd : Fld.upd ∈ F) (f_trk : Fld.trk ∈ F) (f_brg : Fld.brg ∈ F)
    (f_ports : Fld.ports ∈ F) (h : Keeps F s t) (init : Nat) (a : Nat) (bytes : List Byte) :
    Keeps F s (State.portWrite t init a bytes) := by
  unfold State.portWrite
  with_reducible repeat' first
     | exact Keeps.refl _ | assumption | apply Keeps.ite | apply State.busWrite_keeps | apply State.portFinish_keeps
     | apply Keeps.foldl | intro x hx | intro y

theorem State.portRead_keeps {F : List Fld} {s t : State} (f_regs : Fld.regs ∈ F) (f_offers : Fld.offers ∈ F)
    (f_gated : Fld.gated ∈ F) (f_waiting : Fld.waiting ∈ F) (f_zrt : Fld.zrt ∈ F) (f_trk : Fld.trk ∈ F) (f_brg : Fld.brg ∈ F)
    (f_ports : Fld.ports ∈ F) (h : Keeps F s t) (init : Nat) (a : Nat) (n : Nat) :
    Keeps F s (State.portRead t init a n) := by
  unfold State.portRead
  with_reducible repeat' first
     | exact Keeps.refl _ | assumption | apply Keeps.ite | apply State.answer_keeps | apply State.busRead_keeps
     | apply State.countRead_keeps | apply State.pfTouch_keeps | apply State.portFinish_keeps | apply State.prefetch_keeps
     | apply Keeps.foldl | apply hf | intro x hx | intro y
     | (extract_lets +onlyGivenNames x; refine Keeps.cut F s x ?_ (fun hx => ?_); rotate_left 1; clear_value x; rotate_left 1; unfold x)
     | split

theorem execMntWrite_keeps {F : List Fld} {s t : State} (f_free : Fld.free ∈ F) (f_regs : Fld.regs ∈ F) (f_mem : Fld.mem ∈ F)
    (f_mram : Fld.mram ∈ F) (f_islands : Fld.islands ∈ F) (f_dly : Fld.dly ∈ F) (f_offers : Fld.offers ∈ F)
    (f_chans : Fld.chans ∈ F) (f_dies : Fld.dies ∈ F) (f_dieChs : Fld.dieChs ∈ F) (f_links : Fld.links ∈ F)
    (f_boot : Fld.boot ∈ F) (f_str : Fld.str ∈ F) (f_gated : Fld.gated ∈ F) (f_waiting : Fld.waiting ∈ F) (f_trx : Fld.trx ∈ F)
    (f_cans : Fld.cans ∈ F) (f_lins : Fld.lins ∈ F) (f_nm : Fld.nm ∈ F) (f_gw : Fld.gw ∈ F) (f_eth : Fld.eth ∈ F)
    (f_zrt : Fld.zrt ∈ F) (f_pwr : Fld.pwr ∈ F) (f_meas : Fld.meas ∈ F) (f_keys : Fld.keys ∈ F) (f_acc : Fld.acc ∈ F)
    (f_iso : Fld.iso ∈ F) (f_nvm : Fld.nvm ∈ F) (f_upd : Fld.upd ∈ F) (f_trk : Fld.trk ∈ F) (f_brg : Fld.brg ∈ F)
    (f_ports : Fld.ports ∈ F) (h : Keeps F s t) (a : Word) (bytes : List Byte) :
    KeepsOut F s (execMntWrite a bytes t) := by
  unfold execMntWrite
  with_reducible repeat' first
     | apply KeepsOut.next | exact Keeps.refl _ | assumption | apply KeepsOut.ite | apply Keeps.ite | apply State.portWrite_keeps
     | apply KeepsOut.refused

theorem execMntRead_keeps {F : List Fld} {s t : State} (f_regs : Fld.regs ∈ F) (f_offers : Fld.offers ∈ F)
    (f_gated : Fld.gated ∈ F) (f_waiting : Fld.waiting ∈ F) (f_zrt : Fld.zrt ∈ F) (f_trk : Fld.trk ∈ F) (f_brg : Fld.brg ∈ F)
    (f_ports : Fld.ports ∈ F) (h : Keeps F s t) (a : Word) (n : BitVec 9) :
    KeepsOut F s (execMntRead a n t) := by
  unfold execMntRead
  with_reducible repeat' first
     | apply KeepsOut.next | exact Keeps.refl _ | assumption | apply KeepsOut.ite | apply Keeps.ite | apply State.portRead_keeps
     | apply KeepsOut.refused

theorem execLocalHostAccess_keeps {F : List Fld} {s t : State} (f_free : Fld.free ∈ F) (f_regs : Fld.regs ∈ F)
    (f_mem : Fld.mem ∈ F) (f_mram : Fld.mram ∈ F) (f_islands : Fld.islands ∈ F) (f_dly : Fld.dly ∈ F)
    (f_offers : Fld.offers ∈ F) (f_chans : Fld.chans ∈ F) (f_dies : Fld.dies ∈ F) (f_dieChs : Fld.dieChs ∈ F)
    (f_links : Fld.links ∈ F) (f_boot : Fld.boot ∈ F) (f_str : Fld.str ∈ F) (f_gated : Fld.gated ∈ F)
    (f_waiting : Fld.waiting ∈ F) (f_trx : Fld.trx ∈ F) (f_cans : Fld.cans ∈ F) (f_lins : Fld.lins ∈ F) (f_nm : Fld.nm ∈ F)
    (f_gw : Fld.gw ∈ F) (f_eth : Fld.eth ∈ F) (f_zrt : Fld.zrt ∈ F) (f_pwr : Fld.pwr ∈ F) (f_meas : Fld.meas ∈ F)
    (f_keys : Fld.keys ∈ F) (f_acc : Fld.acc ∈ F) (f_iso : Fld.iso ∈ F) (f_nvm : Fld.nvm ∈ F) (f_upd : Fld.upd ∈ F)
    (f_trk : Fld.trk ∈ F) (f_brg : Fld.brg ∈ F) (f_ports : Fld.ports ∈ F) (h : Keeps F s t) (write : Bool) (a : Word)
    (bytes : List Byte) (n : BitVec 16) :
    KeepsOut F s (execLocalHostAccess write a bytes n t) := by
  unfold execLocalHostAccess
  with_reducible repeat' first
     | apply KeepsOut.next | exact Keeps.refl _ | assumption | apply KeepsOut.ite | apply Keeps.ite | apply State.portRead_keeps
     | apply State.portWrite_keeps

theorem execDebugPortAccess_keeps {F : List Fld} {s t : State} (f_free : Fld.free ∈ F) (f_regs : Fld.regs ∈ F)
    (f_mem : Fld.mem ∈ F) (f_mram : Fld.mram ∈ F) (f_islands : Fld.islands ∈ F) (f_dly : Fld.dly ∈ F)
    (f_offers : Fld.offers ∈ F) (f_chans : Fld.chans ∈ F) (f_dies : Fld.dies ∈ F) (f_dieChs : Fld.dieChs ∈ F)
    (f_links : Fld.links ∈ F) (f_boot : Fld.boot ∈ F) (f_str : Fld.str ∈ F) (f_gated : Fld.gated ∈ F)
    (f_waiting : Fld.waiting ∈ F) (f_trx : Fld.trx ∈ F) (f_cans : Fld.cans ∈ F) (f_lins : Fld.lins ∈ F) (f_nm : Fld.nm ∈ F)
    (f_gw : Fld.gw ∈ F) (f_eth : Fld.eth ∈ F) (f_zrt : Fld.zrt ∈ F) (f_pwr : Fld.pwr ∈ F) (f_meas : Fld.meas ∈ F)
    (f_keys : Fld.keys ∈ F) (f_acc : Fld.acc ∈ F) (f_iso : Fld.iso ∈ F) (f_nvm : Fld.nvm ∈ F) (f_upd : Fld.upd ∈ F)
    (f_trk : Fld.trk ∈ F) (f_brg : Fld.brg ∈ F) (f_ports : Fld.ports ∈ F) (h : Keeps F s t) (write : Bool) (a : Word)
    (bytes : List Byte) (n : BitVec 7) :
    KeepsOut F s (execDebugPortAccess write a bytes n t) := by
  unfold execDebugPortAccess
  with_reducible repeat' first
     | apply KeepsOut.next | exact Keeps.refl _ | assumption | apply KeepsOut.ite | apply Keeps.ite | apply State.busRead_keeps
     | apply State.busWrite_keeps | apply State.portFinish_keeps | apply KeepsOut.refused

end Sys2Proof.Machine
end

