-- ==== Sys2Proof/Tests/Slice0.lean ====
section
/-! SUPPORT. Tests: the checks of well-formedness refuse an ill-formed command each, small facts worked out from the
spec by hand, and for every statement with hypotheses a state and operands that meet all of them together. -/

open Sys2Proof Sys2Proof.Machine

section

set_option Elab.async false
set_option linter.unusedSimpArgs false
set_option maxRecDepth 100000
set_option linter.unusedVariables false

/-! States with the dies, clocks and phase that most commands need. -/

/-- The die on a link adopted, counted so by the module, and not parked. -/
def Sys2Proof.Machine.State.wLive (s : State) (n : Nat) : State :=
  (s.setLnk n { s.lnk n with adopted := true }).setDie n { s.die n with st := .adopted, adopted := true, parked := false }

/-- Every island's clock runs, the supply is in the Normal band, the oscillator is right and every crossing is open. -/
def Sys2Proof.Machine.State.wClocks (s : State) : State :=
  { (s.setReg PWR_ISLAND_STAT 0x3FFFFFFF#32).setF PWR_FEED_STAT_BAND 0 with
    pwr := { s.pwr with xing := [] }, boot := { s.boot with xtalBad := false } }

/-- The module is in Run, with every island's clock running. -/
def Sys2Proof.Machine.State.wRun (s : State) : State :=
  { s.wClocks.setF PWR_STATE_STATE 0 with boot := { s.boot with phase := .run, xtalBad := false } }

/-! The checks of Instr.wf: each refuses an ill-formed command and takes its well-formed neighbour. -/

theorem test_wf_registerWrite_issued : Instr.wf (.registerWrite 0 0 [0]) = false ∧ Instr.wf (.registerWrite 1 0 [0]) = true := by decide
theorem test_wf_absentBlockWrite_issued : Instr.wf (.absentBlockWrite 2 0 [0]) = false ∧ Instr.wf (.absentBlockWrite 0x4A 0 [0]) = true := by decide
theorem test_wf_strongroomWriteDrop_issued : Instr.wf (.strongroomWriteDrop 7 0 [0]) = false ∧ Instr.wf (.strongroomWriteDrop 0x0A 0 [0]) = true := by decide
theorem test_wf_w1cFlagClear_issued : Instr.wf (.w1cFlagClear 0x0B 0 0 0) = false ∧ Instr.wf (.w1cFlagClear 0x10 0 0 0) = true := by decide
theorem test_wf_speculativeReadRefused_issued : Instr.wf (.speculativeReadRefused 0x54 0 1) = false ∧ Instr.wf (.speculativeReadRefused 0x53 0 1) = true := by decide
theorem test_wf_decodeError_issued : Instr.wf (.decodeError 0xFF true 0 1) = false ∧ Instr.wf (.decodeError 0x64 true 0 1) = true := by decide
theorem test_wf_registerWrite : Instr.wf (.registerWrite 8 0 []) = false ∧ Instr.wf (.registerWrite 8 0 (List.replicate 64 0)) = true := by decide
theorem test_wf_absentBlockWrite : Instr.wf (.absentBlockWrite 8 0 (List.replicate 65 0)) = false ∧ Instr.wf (.absentBlockWrite 8 0 [0]) = true := by decide
theorem test_wf_strongroomWriteDrop : Instr.wf (.strongroomWriteDrop 8 0 []) = false ∧ Instr.wf (.strongroomWriteDrop 8 0 (List.replicate 64 0)) = true := by decide
theorem test_wf_speculativeReadRefused : Instr.wf (.speculativeReadRefused 8 0 65) = false ∧ Instr.wf (.speculativeReadRefused 8 0 64) = true := by decide
theorem test_wf_decodeError : Instr.wf (.decodeError 8 true 0 0) = false ∧ Instr.wf (.decodeError 8 true 0 1) = true := by decide
theorem test_wf_ledgerSeed : Instr.wf (.ledgerSeed 0 [⟨3, 0, 0⟩, ⟨3, 1, 1⟩] 0) = false ∧ Instr.wf (.ledgerSeed 0 [⟨3, 0, 0⟩, ⟨4, 1, 1⟩] 0) = true := by decide
theorem test_wf_ledgerStep : Instr.wf (.ledgerStep [⟨3, 0, 0⟩, ⟨3, 1, 1⟩]) = false ∧ Instr.wf (.ledgerStep []) = true := by decide
theorem test_wf_captureEnd : Instr.wf (.captureEnd 0 (List.replicate 33 0) 0) = false ∧ Instr.wf (.captureEnd 0 (List.replicate 32 0) 0) = true := by decide
theorem test_wf_boostEnergyCheck : Instr.wf (.boostEnergyCheck 0 [(1, 0), (1, 0)]) = false ∧ Instr.wf (.boostEnergyCheck 0 [(1, 0), (2, 0)]) = true := by decide
theorem test_wf_archiveDone : Instr.wf (.archiveDone [7, 7]) = false ∧ Instr.wf (.archiveDone [7, 8]) = true := by decide
theorem test_wf_canFrame_base_id : Instr.wf (.canFrameReceived 0 { id := 0x800 }) = false ∧ Instr.wf (.canFrameReceived 0 { id := 0x7FF }) = true := by decide
theorem test_wf_canFrame_remote : Instr.wf (.canFrameReceived 0 { fdf := true, rtr := true }) = false ∧ Instr.wf (.canFrameReceived 0 { rtr := true, dlc := 8 }) = true := by decide
theorem test_wf_canFrame_rate_switch : Instr.wf (.canBusWake 0 0 { brs := true }) = false ∧ Instr.wf (.canBusWake 0 0 { fdf := true, brs := true }) = true := by decide
theorem test_wf_canFrame_length : Instr.wf (.nmMessageReceived 0 { dlc := 9, fdf := true, data := List.replicate 9 0 }) = false ∧ Instr.wf (.nmMessageReceived 0 { dlc := 9, fdf := true, data := List.replicate 12 0 }) = true := by decide
theorem test_wf_linResponse : Instr.wf (.linResponse 0 0 (List.replicate 9 0)) = false ∧ Instr.wf (.linResponse 0 0 (List.replicate 8 0)) = true := by decide
theorem test_wf_flowContextWrite : Instr.wf (.flowContextWrite 0 8 63 [0, 0]) = false ∧ Instr.wf (.flowContextWrite 0 8 63 [0]) = true := by decide
theorem test_wf_gwShadowWrite_piece : Instr.wf (.gwShadowWrite 8 false 63 [0, 0]) = false ∧ Instr.wf (.gwShadowWrite 8 false 62 [0, 0]) = true := by decide
theorem test_wf_gwShadowWrite_stash : Instr.wf (.gwShadowWrite 8 true 0x400 [0]) = false ∧ Instr.wf (.gwShadowWrite 8 true 0x3FF [0]) = true := by decide
theorem test_wf_trunkDiscover : Instr.wf (.trunkDiscover [1, 1] true) = false ∧ Instr.wf (.trunkDiscover [1, 2] true) = true := by decide
theorem test_wf_trunkDiscover_length : Instr.wf (.trunkDiscover [0, 1, 2, 3] true) = false ∧ Instr.wf (.trunkDiscover [1, 2, 3] true) = true := by decide
theorem test_wf_trunkGwFrame : Instr.wf (.trunkGwFrame 1 0 true ⟨false, 0, 0, List.replicate 9 0⟩) = false ∧ Instr.wf (.trunkGwFrame 1 0 true ⟨true, 0, 0, List.replicate 9 0⟩) = true := by decide
theorem test_wf_trunkReq_read : Instr.wf (.trunkReq 1 0 0 true ⟨0, 0, false, 0, 321, []⟩) = false ∧ Instr.wf (.trunkReq 1 0 0 true ⟨0, 0, false, 0, 320, []⟩) = true := by decide
theorem test_wf_trunkReq_write : Instr.wf (.trunkReq 1 0 0 true ⟨0, 1, false, 0, 0, []⟩) = false ∧ Instr.wf (.trunkReq 1 0 0 true ⟨0, 1, false, 0, 0, [0]⟩) = true := by decide
theorem test_wf_trunkCpl : Instr.wf (.trunkCpl 1 0 0 0 true (List.replicate 65 0)) = false ∧ Instr.wf (.trunkCpl 1 0 0 0 true []) = true := by decide
theorem test_wf_measPeriodicUpdate : Instr.wf (.measPeriodicUpdate 0 0 0 0 0 [(2, 0), (2, 1)]) = false ∧ Instr.wf (.measPeriodicUpdate 0 0 0 0 0 [(2, 0)]) = true := by decide
theorem test_wf_uhfFrame : Instr.wf (.uhfFrame (List.replicate 13 0)) = false ∧ Instr.wf (.uhfFrame (List.replicate 14 0)) = true := by decide
theorem test_wf_strRequest : Instr.wf (.strRequest 8 []) = false ∧ Instr.wf (.strRequest 8 [0]) = true := by decide
theorem test_wf_storeRequest : Instr.wf (.storeRequest 8 (List.replicate 65 0)) = false ∧ Instr.wf (.storeRequest 8 (List.replicate 64 0)) = true := by decide
theorem test_wf_mntWrite : Instr.wf (.mntWrite 0 []) = false ∧ Instr.wf (.mntWrite 0 (List.replicate 256 0)) = true := by decide
theorem test_wf_mntRead : Instr.wf (.mntRead 0 257) = false ∧ Instr.wf (.mntRead 0 256) = true := by decide
theorem test_wf_localHostAccess_write : Instr.wf (.localHostAccess true 0 [] 4) = false ∧ Instr.wf (.localHostAccess true 0 [0] 0) = true := by decide
theorem test_wf_localHostAccess_read : Instr.wf (.localHostAccess false 0 [0] 0) = false ∧ Instr.wf (.localHostAccess false 0 [] 1) = true := by decide
theorem test_wf_debugPortAccess : Instr.wf (.debugPortAccess false 0 [] 65) = false ∧ Instr.wf (.debugPortAccess true 0 [0] 0) = true := by decide

/-! The opcode table gives no row any bits: no word spells a command. -/

theorem test_decode_none : decodeTableWord 32 0x12345678 = none := rfl

theorem test_withFetchWord_same : State.reset.withFetchWord 32 0x12345678 = State.reset := rfl

/-! The cryptography against the examples of its standards: FIPS 197 C.1 and C.3, RFC 4493 example 2, FIPS 180 "abc". -/

theorem test_aes128 :
    aesEnc ((List.range 16).map (BitVec.ofNat 8)) ((List.range 16).map (fun i => BitVec.ofNat 8 (i * 0x11))) =
      bytesBE 16 0x69C4E0D86A7B0430D8CDB78070B4C55A := by decide +kernel

theorem test_aes256 :
    aesEnc ((List.range 32).map (BitVec.ofNat 8)) ((List.range 16).map (fun i => BitVec.ofNat 8 (i * 0x11))) =
      bytesBE 16 0x8EA2B7CA516745BFEAFC49904B496089 := by decide +kernel

theorem test_aes128_inverse :
    aesDec ((List.range 16).map (BitVec.ofNat 8)) (bytesBE 16 0x69C4E0D86A7B0430D8CDB78070B4C55A) =
      (List.range 16).map (fun i => BitVec.ofNat 8 (i * 0x11)) := by decide +kernel

theorem test_cmac :
    cmac (bytesBE 16 0x2B7E151628AED2A6ABF7158809CF4F3C) (bytesBE 16 0x6BC1BEE22E409F96E93D7E117393172A) =
      bytesBE 16 0x070A16B46B4D4144F79BDD9DD04A287C := by decide +kernel

theorem test_sha256_abc :
    sha256 (bytesBE 3 0x616263) = bytesBE 32 0xBA7816BF8F01CFEA414140DE5DAE2223B00361A396177A9CB410FF61F20015AD := by
  decide +kernel

/-! CRC-16 with polynomial 0x1021 and initial value 0xFFFF: the check value of "123456789" is 0x29B1. -/

theorem test_crc16 : crc16 0xFFFF (bytesBE 9 0x313233343536373839) = 0x29B1 := by decide +kernel


theorem test_hyps_emptyQueueTicks : State.reset.pending = [] := by decide

theorem test_hyps_stepsKeepCanonical :
    ∃ t, State.reset.canonical = true ∧ Machine.step State.reset = .next t := ⟨State.reset.idleTick, by decide, rfl⟩

theorem test_hyps_commandsChangeOnlyTheirFields :
    ∃ t, Machine.exec (.canWakeClear 3 0x10) State.reset = .next t := ⟨_, rfl⟩

theorem test_hyps_identityAreaNeverChanges :
    ∃ t, 0xF00000 ≤ identAt ∧ Machine.step State.reset = .next t := ⟨State.reset.idleTick, by decide, rfl⟩

theorem test_hyps_wellFormedCommandsGoOn : (Instr.uhfFrame (List.replicate 14 0)).wf = true := by decide

/-- Hypotheses of Obligations.ChannelCommandsTakeEffect are met. -/
theorem test_hyps_channelCommandsTakeEffect :
    (∃ (c : Fin 132) (init : Byte) (tag : Byte) (s : State), s.chTakes init.toNat c false) ∧
    (∃ (c : Fin 132) (init : Byte) (tag : Byte) (s : State), s.chTakes init.toNat c false) ∧
    (∃ (c : Fin 132) (init : Byte) (tag : Byte) (s : State), s.chTakes init.toNat c (chClass c = 4)) ∧
    (∃ (c : Fin 132) (init : Byte) (mode : BitVec 2) (tag : Byte) (s : State), s.chTakes init.toNat c (mode = 3 || (chClass c = 4 && mode = 2))) ∧
    (∃ (c : Fin 132) (init : Byte) (duty : BitVec 11) (pdiv : BitVec 2) (phase : BitVec 10) (s : State), s.chTakes init.toNat c (1024 < duty.toNat)) :=
  ⟨⟨(5 : Fin 132), (8 : Byte), (1 : Byte), State.reset, by decide +kernel⟩,
    ⟨(5 : Fin 132), (8 : Byte), (1 : Byte), State.reset, by decide +kernel⟩,
    ⟨(5 : Fin 132), (8 : Byte), (1 : Byte), State.reset, by decide +kernel⟩,
    ⟨(5 : Fin 132), (8 : Byte), (1 : BitVec 2), (1 : Byte), State.reset, by decide +kernel⟩,
    ⟨(5 : Fin 132), (8 : Byte), (512 : BitVec 11), (1 : BitVec 2), (100 : BitVec 10), State.reset, by decide +kernel⟩⟩

/-- Hypotheses of Obligations.ChannelContextWritesRefusedOrMade are met. -/
theorem test_hyps_channelContextWritesRefusedOrMade :
    (∃ (c : Fin 132) (init : Byte) (tag : Byte) (r : Nat) (s : State), s.chPresent c = true ∧ s.chReason init.toNat c true true false false = r ∧ r ≠ 0) ∧
    (∃ (c : Fin 132) (init : Byte) (ctl : Word) (s : State), s.chPresent c = true ∧ ctl.toNat / 0x100 % 0x400 ≤ 1000 ∧ s.chReason init.toNat c false false (chClass c = 4) (s.f (CH_PROF_STAT_XFER c) = 1) = 0) ∧
    (∃ (c : Fin 132) (init : Byte) (cfg : Word) (s : State), s.chPresent c = true ∧ s.chReason init.toNat c false false (10 < cfg.toNat % 0x10 || cfg.toNat / 0x10 % 0x40 = 0 || cfg.toNat / 0x400 % 8 = 0) false = 0) ∧
    (∃ (c : Fin 132) (init : Byte) (n : Fin 32) (w : Word) (s : State), s.chPresent c = true ∧ s.chReason init.toNat c false false false false = 0) ∧
    (∃ (c : Fin 132) (s : State), s.f (CH_PROF_STAT_XFER c) = 1 ∧ s.vis c = true) :=
  ⟨⟨(5 : Fin 132), (0x10 : Byte), (1 : Byte), (1 : Nat), State.reset, by decide +kernel⟩,
    ⟨(5 : Fin 132), (8 : Byte), (0x80000001 : Word), State.reset, by decide +kernel⟩,
    ⟨(5 : Fin 132), (8 : Byte), (0x00000410 : Word), State.reset, by decide +kernel⟩,
    ⟨(5 : Fin 132), (8 : Byte), (31 : Fin 32), (0xFFFFFFFF : Word), State.reset, by decide +kernel⟩,
    ⟨(5 : Fin 132), (State.reset.setF (CH_PROF_STAT_XFER (5 : Fin 132)) 1).wLive (chLink (5 : Fin 132)), by decide +kernel⟩⟩

/-- Hypotheses of Obligations.ProfilesEdgesGatesAndSlots are met. -/
theorem test_hyps_profilesEdgesGatesAndSlots :
    (∃ (c : Fin 132) (s : State), s.chPresent c = true ∧ chClass c < 3 ∧ s.vis c = true ∧ s.ph c = phPWM ∧ s.modeOf c = 2 ∧ (s.dieCh c).nextDuty = none ∧ (s.dieCh c).profPend = [] ∧ (s.dieCh c).out = false ∧ s.effDuty c ≠ 0 ∧ s.pulseLong c (s.effDuty c) = true ∧ s.mayStart c = true) ∧
    (∃ (c : Fin 132) (s : State), s.chPresent c = true ∧ chClass c < 3 ∧ s.ph c = phPWM ∧ s.effDuty c ≠ 1024 ∧ s.pulseLong c (1024 - s.effDuty c) = true ∧ (s.dieCh c).out = true ∧ (s.dieCh c).nextDuty = none) ∧
    (∃ (n : Fin 14) (s : State), s.diePresent n = true) ∧
    (∃ (n : Fin 14) (s : State), s.diePresent n = true) ∧
    (∃ (c : Fin 132) (s : State), s.ph c = phPROFILE ∧ chClass c < 4 ∧ (s.dieCh c).point + 1 < 16 ∧ profEnd (s.activePoint c ((s.dieCh c).point + 1)) = false) ∧
    (∃ (c : Fin 132) (s : State), s.ph c = phPROFILE ∧ chClass c < 4) ∧
    (∃ (c : Fin 132) (bins : List (BitVec 12)) (valid : Word) (s : State), s.vis c = true ∧ (s.chan c).capRun = true ∧ (((s.chan c).capSup || s.on (CH_STATUS_FDM c) || s.f PWR_FEED_STAT_BAND ≠ 0) = true ∨ s.f (CH_SIG_STAT_ENV_STATE c) ≤ 1)) ∧
    (∃ (unit : Byte) (index : Byte) (slot : Byte) (st : Nat) (v : Nat) (tst : Nat) (tv : Nat) (s : State), slotWords unit.toNat index.toNat slot.toNat = some (st, v, tst, tv)) ∧
    (∃ (c : Fin 132) (mean : BitVec 16) (onUs : BitVec 16) (s : State), s.vis c = true ∧ (s.ph c = phON ∨ s.ph c = phPWM) ∧ s.slotsLive c = true) :=
  ⟨⟨(5 : Fin 132), (((State.reset.wLive (chLink (5 : Fin 132))).setF (CH_CMD_MODE (5 : Fin 132)) 2).setF (LDG_CHSTAT_PERMIT (5 : Fin 132)) 1     |>.setF PWR_FEED_STAT_BAND 0 |>.setChan (5 : Fin 132) { State.reset.chan (5 : Fin 132) with delayRun := false }     |>.setDieCh (5 : Fin 132) { State.reset.dieCh (5 : Fin 132) with ph := phPWM, duty := 512, nextDuty := none, pdiv := 0, out := false, profPend := [] }).setF FRM_CFG_PERIOD_US 1000, by decide +kernel⟩,
    ⟨(5 : Fin 132), (State.reset.setDieCh (5 : Fin 132) { State.reset.dieCh (5 : Fin 132) with ph := phPWM, duty := 512, nextDuty := none, out := true, pdiv := 0 }).setF FRM_CFG_PERIOD_US 1000, by decide +kernel⟩,
    ⟨(7 : Fin 14), State.reset, by decide +kernel⟩,
    ⟨(7 : Fin 14), State.reset, by decide +kernel⟩,
    ⟨(105 : Fin 132), State.reset.setDieCh (105 : Fin 132) { State.reset.dieCh (105 : Fin 132) with ph := phPROFILE, point := 3, profAct := [] }, by decide +kernel⟩,
    ⟨(105 : Fin 132), State.reset.setDieCh (105 : Fin 132) { State.reset.dieCh (105 : Fin 132) with ph := phPROFILE }, by decide +kernel⟩,
    ⟨(5 : Fin 132), ([1, 2] : List (BitVec 12)), (3 : Word), (State.reset.wLive (chLink (5 : Fin 132))).setChan (5 : Fin 132) { State.reset.chan (5 : Fin 132) with capRun := true }, by decide +kernel⟩,
    ⟨(3 : Byte), (5 : Byte), (2 : Byte), (CH_SLOT_ST 5 2 : Nat), (CH_SLOT_VAL 5 2 : Nat), (CH_SLOT_TST 5 2 : Nat), (CH_SLOT_TVAL 5 2 : Nat), State.reset, by decide +kernel⟩,
    ⟨(5 : Fin 132), (100 : BitVec 16), (60 : BitVec 16), (State.reset.wLive (chLink (5 : Fin 132))).setDieCh (5 : Fin 132) { State.reset.dieCh (5 : Fin 132) with ph := phON }, by decide +kernel⟩⟩

/-- Hypotheses of Obligations.ProtectionTripsLatchAndRetry are met. -/
theorem test_hyps_protectionTripsLatchAndRetry :
    (∃ (c : Fin 132) (s : State), s.ctx c = c ∧ chClass c < 3 ∧ s.driven c = true ∧ (s.dieCh c).out = true) ∧
    (∃ (c : Fin 132) (s : State), s.ctx c = c ∧ chClass c = 3 ∧ s.legFet c ≠ .off) ∧
    (∃ (n : Fin 14) (s : State), s.diePresent n = true ∧ (s.die n).ot = false) ∧
    (∃ (n : Fin 14) (s : State), s.diePresent n = true) ∧
    (∃ (c : Fin 132) (bin : BitVec 16) (mean : BitVec 16) (s : State), s.ph c = phPROFILE ∧ chClass c < 3 ∧ (s.dieCh c).budgetRun ≠ 0 ∧ (s.chan c).runZero = true ∧ (s.dieCh c).hiRun.getD (min bin.toNat 31) 0xFFF ≠ 0xFFF ∧ (s.die (chLink c)).parked = false) ∧
    (∃ (n : Fin 14) (s : State), s.diePresent n = true) ∧
    (∃ (c : Fin 132) (s : State), chClass c < 3 ∧ s.vis c = true ∧ s.ph c = phOFF ∧ s.on (CH_STATUS_FDM c) = false ∧ 1250000 ≤ s.now - (s.chan c).offAt ∧ s.f (CH_VERDICT_VERDICT c) ≤ 6) ∧
    (∃ (c : Fin 132) (s : State), s.vis c = true ∧ s.f (CH_VERDICT_VERDICT c) = 6 ∧ s.on (CH_STATUS_FDM c) = false) ∧
    (∃ (c : Fin 132) (s : State), (s.chan c).delayRun = true ∧ chClass c ≠ 4 ∧ (s.vis c = false ∨ s.ph c ≠ phRETRY)) ∧
    (∃ (c : Fin 132) (s : State), (s.chan c).delayRun = true ∧ s.vis c = true ∧ s.ph c = phRETRY ∧ chClass c < 3 ∧ s.sp c ≠ spQUENCH ∧ s.modeOf c ≠ 2 ∧ (s.dieCh c).revWait = false ∧ s.permit c = true ∧ s.bandPermits c = true ∧ (s.die (chLink c)).ot = false) ∧
    (∃ (c : Fin 132) (s : State), s.vis c = true ∧ (s.ph c = phON ∨ s.ph c = phPWM)) :=
  ⟨⟨(5 : Fin 132), (State.reset.setF (CH_CFG_ODD (5 : Fin 132)) 0).setDieCh (5 : Fin 132) { State.reset.dieCh (5 : Fin 132) with ph := phON, out := true }, by decide +kernel⟩,
    ⟨(105 : Fin 132), ((State.reset.setF (CH_CFG_ODD (105 : Fin 132)) 0).setF (CH_B_CFG_ROLE (105 : Fin 132)) 0).setDieCh (105 : Fin 132) { State.reset.dieCh (105 : Fin 132) with ph := phON, out := true }, by decide +kernel⟩,
    ⟨(13 : Fin 14), State.reset, by decide +kernel⟩,
    ⟨(13 : Fin 14), State.reset, by decide +kernel⟩,
    ⟨(41 : Fin 132), (40 : BitVec 16), (300 : BitVec 16), (State.reset.setChan (41 : Fin 132) { State.reset.chan (41 : Fin 132) with runZero := true }).setDieCh (41 : Fin 132) { State.reset.dieCh (41 : Fin 132) with ph := phPROFILE, budgetRun := 100, hiRun := List.replicate 32 200 }, by decide +kernel⟩,
    ⟨(7 : Fin 14), State.reset, by decide +kernel⟩,
    ⟨(5 : Fin 132), { (((State.reset.wLive (chLink (5 : Fin 132))).setF (CH_VERDICT_VERDICT (5 : Fin 132)) 5).setDieCh (5 : Fin 132)     { State.reset.dieCh (5 : Fin 132) with ph := phOFF }).setChan (5 : Fin 132) { State.reset.chan (5 : Fin 132) with offAt := 0 } with slate := State.reset.slate + 1250000 }, by decide +kernel⟩,
    ⟨(5 : Fin 132), (State.reset.wLive (chLink (5 : Fin 132))).setF (CH_VERDICT_VERDICT (5 : Fin 132)) 6, by decide +kernel⟩,
    ⟨(5 : Fin 132), (State.reset.setChan (5 : Fin 132) { State.reset.chan (5 : Fin 132) with delayRun := true }).setDieCh (5 : Fin 132) { State.reset.dieCh (5 : Fin 132) with ph := phOFF }, by decide +kernel⟩,
    ⟨(5 : Fin 132), ((((State.reset.wLive (chLink (5 : Fin 132))).setF (CH_CMD_MODE (5 : Fin 132)) 1).setF (LDG_CHSTAT_PERMIT (5 : Fin 132)) 1     |>.setF PWR_FEED_STAT_BAND 0).setChan (5 : Fin 132) { State.reset.chan (5 : Fin 132) with delayRun := true }).setDieCh (5 : Fin 132) { State.reset.dieCh (5 : Fin 132) with ph := phRETRY }, by decide +kernel⟩,
    ⟨(5 : Fin 132), (State.reset.wLive (chLink (5 : Fin 132))).setDieCh (5 : Fin 132) { State.reset.dieCh (5 : Fin 132) with ph := phPWM }, by decide +kernel⟩⟩

/-- Hypotheses of Obligations.HalfBridgeLegsTurnBrakeChopAndStall are met. -/
theorem test_hyps_halfBridgeLegsTurnBrakeChopAndStall :
    (∃ (c : Fin 132) (init : Byte) (w : Word) (s : State), s.chPresent c = true ∧ chClass c = 3 ∧ w.toNat / 2 % 4 ≠ 3 ∧ s.chReason init.toNat c false true false false = 0) ∧
    (∃ (c : Fin 132) (s : State), chClass c = 3 ∧ (s.dieCh c).revWait = true) ∧
    (∃ (c : Fin 132) (s : State), chClass c = 3 ∧ s.vis c = true ∧ (s.dieCh c).braking = true ∧ s.on (CH_B_DRV_BRAKE_T c) = true ∧ (s.dieCh c).fsBrake = false) ∧
    (∃ (c : Fin 132) (s : State), chClass c = 3 ∧ (s.ph c = phPROFILE ∨ s.ph c = phPAUSED)) ∧
    (∃ (c : Fin 132) (s : State), s.ctx c = c ∧ chClass c = 3 ∧ s.legFet c ≠ .off) ∧
    (∃ (c : Fin 132) (v : BitVec 16) (s : State), chClass c = 3 ∧ s.vis c = true ∧ s.on (CH_STREAM_EN c) = true ∧ s.ctx c = c) ∧
    (∃ (c : Fin 132) (s : State), chClass c = 3 ∧ s.vis c = true ∧ s.driven c = true ∧ s.ph c ≠ phPROFILE ∧ s.on (CH_B_STALL_ISTALL c) = true) :=
  ⟨⟨(105 : Fin 132), (8 : Byte), (0x00000103 : Word), State.reset, by decide +kernel⟩,
    ⟨(105 : Fin 132), State.reset.setDieCh (105 : Fin 132) { State.reset.dieCh (105 : Fin 132) with revWait := true }, by decide +kernel⟩,
    ⟨(105 : Fin 132), (((State.reset.wLive (chLink (105 : Fin 132))).setDieCh (105 : Fin 132) { State.reset.dieCh (105 : Fin 132) with braking := true }).setF (CH_B_DRV_BRAKE_T (105 : Fin 132)) 5), by decide +kernel⟩,
    ⟨(105 : Fin 132), State.reset.setDieCh (105 : Fin 132) { State.reset.dieCh (105 : Fin 132) with ph := phPROFILE }, by decide +kernel⟩,
    ⟨(105 : Fin 132), ((State.reset.setF (CH_CFG_ODD (105 : Fin 132)) 0).setF (CH_B_CFG_ROLE (105 : Fin 132)) 0).setDieCh (105 : Fin 132) { State.reset.dieCh (105 : Fin 132) with ph := phON, out := true }, by decide +kernel⟩,
    ⟨(105 : Fin 132), (77 : BitVec 16), (State.reset.wLive (chLink (105 : Fin 132))).setF (CH_STREAM_EN (105 : Fin 132)) 1, by decide +kernel⟩,
    ⟨(105 : Fin 132), ((State.reset.wLive (chLink (105 : Fin 132))).setF (CH_B_STALL_ISTALL (105 : Fin 132)) 5).setDieCh (105 : Fin 132) { State.reset.dieCh (105 : Fin 132) with ph := phON }, by decide +kernel⟩⟩

/-- Hypotheses of Obligations.BoostRailAndSolenoidPhases are met. -/
theorem test_hyps_boostRailAndSolenoidPhases_1 :
    (∃ (v : BitVec 10) (s : State), s.vis 116 = true ∧ s.vbstOv ≤ v.toNat ∧ s.boost.closed = false) ∧
    (∃ (v : BitVec 10) (s : State), s.vis 116 = true ∧ v.toNat < 5 * SOL_BST_CFG_VBST_SET.get s.boost.cfg + 40) ∧
    (∃ (v : BitVec 10) (s : State), s.vis 116 = true ∧ v.toNat < 5 * SOL_BST_CFG_V_FLOOR.get s.boost.cfg) ∧
    (∃ (s : State), s.vis 116 = true ∧ s.f SOL_BST_STAT_V_BST * 100 < 485 * SOL_BST_CFG_VBST_SET.get s.boost.cfg) ∧
    (∃ (v : BitVec 10) (drawn : List (Fin 16 × BitVec 16)) (s : State), s.vis 116 = true ∧ (s.setVbst v.toNat).waiters = []) ∧
    (∃ (v : BitVec 10) (c : Nat) (s : State), (s.setVbst v.toNat).waiters = [c] ∧ (116 ≤ c ∧ c < 132) ∧ (s.setVbst v.toNat).boost.failed = false ∧ ((s.dieCh c).eRise : Int) ≤ (s.setVbst v.toNat).eFree ∧ s.vis 116 = true ∧ s.f PWR_FEED_STAT_BAND = 0) ∧
    (∃ (j : Fin 16) (s : State), s.sp (116 + j) = spWAIT) ∧
    (∃ (j : Fin 16) (s : State), s.runsIn (116 + j) spRISE = true) ∧
    (∃ (j : Fin 16) (i : BitVec 12) (s : State), s.runsIn (116 + j) spRISE = true) ∧
    (∃ (j : Fin 16) (s : State), s.runsIn (116 + j) spPEAK = true) ∧
    (∃ (j : Fin 16) (s : State), s.vis 116 = true ∧ s.sp (116 + j) = spQUENCH) ∧
    (∃ (j : Fin 16) (s : State), (spRISE ≤ s.sp (116 + j) ∧ s.sp (116 + j) ≤ spHOLD)) :=
  ⟨⟨(600 : BitVec 10), { State.reset.wLive 13 with boost := { State.reset.boost with closed := false } }, by decide +kernel⟩,
    ⟨(39 : BitVec 10), State.reset.wLive 13, by decide +kernel⟩,
    ⟨(49 : BitVec 10), { State.reset.wLive 13 with boost := { State.reset.boost with cfg := 0xFFFFFFFF } }, by decide +kernel⟩,
    ⟨{ (State.reset.wLive 13).setF SOL_BST_STAT_V_BST 0 with boost := { State.reset.boost with cfg := 0xFFFFFFFF } }, by decide +kernel⟩,
    ⟨(500 : BitVec 10), ([(1, 7)] : List (Fin 16 × BitVec 16)), State.reset.wLive 13, by decide +kernel⟩,
    ⟨(500 : BitVec 10), (117 : Nat), { State.reset.wLive 13 with boost := {}, dieChs := [(117, { sph := spWAIT })] }, by decide +kernel⟩,
    ⟨(15 : Fin 16), State.reset.setDieCh (116 + (15 : Fin 16)) { State.reset.dieCh (116 + (15 : Fin 16)) with sph := spWAIT }, by decide +kernel⟩,
    ⟨(15 : Fin 16), State.reset.setDieCh (116 + (15 : Fin 16)) { State.reset.dieCh (116 + (15 : Fin 16)) with sph := spRISE, ph := phPROFILE }, by decide +kernel⟩,
    ⟨(15 : Fin 16), (0 : BitVec 12), State.reset.setDieCh (116 + (15 : Fin 16)) { State.reset.dieCh (116 + (15 : Fin 16)) with sph := spRISE, ph := phPROFILE }, by decide +kernel⟩,
    ⟨(15 : Fin 16), State.reset.setDieCh (116 + (15 : Fin 16)) { State.reset.dieCh (116 + (15 : Fin 16)) with sph := spPEAK, ph := phPROFILE }, by decide +kernel⟩,
    ⟨(15 : Fin 16), (State.reset.wLive 13).setDieCh (116 + (15 : Fin 16)) { State.reset.dieCh (116 + (15 : Fin 16)) with sph := spQUENCH }, by decide +kernel⟩,
    ⟨(15 : Fin 16), State.reset.setDieCh (116 + (15 : Fin 16)) { State.reset.dieCh (116 + (15 : Fin 16)) with sph := spHOLD }, by decide +kernel⟩⟩

/-- Hypotheses of Obligations.BoostRailAndSolenoidPhases are met. -/
theorem test_hyps_boostRailAndSolenoidPhases_2 :
    ∃ (j : Fin 16) (s : State), (spRISE ≤ s.sp (116 + j) ∧ s.sp (116 + j) ≤ spHOLD) :=
  ⟨(15 : Fin 16), State.reset.setDieCh (116 + (15 : Fin 16)) { State.reset.dieCh (116 + (15 : Fin 16)) with sph := spHOLD }, by decide +kernel⟩

/-- Hypotheses of Obligations.LedgerStepsLimitsPausesAndSeeds are met. -/
theorem test_hyps_ledgerStepsLimitsPausesAndSeeds :
    (∃ (reads : List DieReading) (s : State), s.ledgerRuns = true) ∧
    (∃ (s : State), s.ledgerRuns = true) ∧
    (∃ (c : Fin 132) (s : State), s.ph c = phPAUSED) ∧
    (∃ (n : Fin 14) (s : State), s.diePresent n = true ∧ 3 ≤ (s.ldgDie n).stale) ∧
    (∃ (kind : Fin 3) (r : DieReading) (gapUs : BitVec 64) (s : State), (s.boot.phase = .adopt ∨ s.boot.phase = .run) ∧ s.clocked 13 = true) :=
  ⟨⟨([⟨3, 100, 200⟩] : List DieReading), State.reset.wRun.setF LDG_STAT_RUNNING 1, by decide +kernel⟩,
    ⟨State.reset.wRun.setF LDG_STAT_RUNNING 1, by decide +kernel⟩,
    ⟨(105 : Fin 132), State.reset.setDieCh (105 : Fin 132) { State.reset.dieCh (105 : Fin 132) with ph := phPAUSED }, by decide +kernel⟩,
    ⟨(13 : Fin 14), State.reset.setLdgDie (13 : Fin 14) { State.reset.ldgDie (13 : Fin 14) with stale := 100 }, by decide +kernel⟩,
    ⟨(2 : Fin 3), (⟨13, 400, 500⟩ : DieReading), (5 : BitVec 64), State.reset.wRun, by decide +kernel⟩⟩

/-- Hypotheses of Obligations.DiesTakeStageLinkFrames are met. -/
theorem test_hyps_diesTakeStageLinkFrames_1 :
    (∃ (n : Fin 15) (epoch : Byte) (seq : BitVec 16) (s : State), ((s.diePresent n ∧ s.kaEn n) ∨ (n.val = 14 ∧ s.fullPart)) ∧ s.str.kaGo = true ∧ (s.lnk n).adopted = true) ∧
    (∃ (n : Fin 14) (s : State), s.diePresent n = true ∧ (s.die n).parked = false ∧ (s.die n).st = .adopted) ∧
    (∃ (n : Fin 14) (k : Nat) (mode : Nat) (dir : Nat) (stop : Nat) (tag : Nat) (r : Bool) (l : List LinkFrame) (s : State), s.diePresent n = true ∧ (s.lnk n).trained = true ∧ (s.lnk n).tx = .cmd k mode dir stop tag r :: l ∧ chLink (linkFirst n + k) = n) ∧
    (∃ (n : Fin 14) (k : Nat) (duty : Nat) (pdiv : Nat) (phase : Nat) (only : Bool) (l : List LinkFrame) (s : State), s.diePresent n = true ∧ (s.lnk n).trained = true ∧ (s.lnk n).tx = .pwm k duty pdiv phase only :: l ∧ chLink (linkFirst n + k) = n) ∧
    (∃ (n : Fin 14) (k : Nat) (what : Nat) (i : Fin 32) (w : Nat) (l : List LinkFrame) (s : State), s.diePresent n = true ∧ (s.lnk n).trained = true ∧ (s.lnk n).tx = .table k what i.val w :: l) ∧
    (∃ (n : Fin 14) (k : Nat) (what : Nat) (v : Nat) (l : List LinkFrame) (s : State), s.diePresent n = true ∧ (s.lnk n).trained = true ∧ (s.lnk n).tx = .param k what v :: l) ∧
    (∃ (n : Fin 14) (l : List LinkFrame) (s : State), s.diePresent n = true ∧ (s.lnk n).trained = true ∧ (s.lnk n).tx = .hold :: l ∧ (s.die n).st = .adopted) ∧
    (∃ (n : Fin 14) (l : List LinkFrame) (s : State), s.diePresent n = true ∧ (s.lnk n).trained = true ∧ (s.lnk n).tx = .park :: l ∧ s.dieObeys n = true) ∧
    (∃ (n : Fin 14) (e : Nat) (l : List LinkFrame) (s : State), s.diePresent n = true ∧ (s.lnk n).trained = true ∧ (s.lnk n).tx = .adopt e :: l ∧ (e ≠ (s.die n).epoch ∨ (s.die n).st = .notAdopted)) ∧
    (∃ (n : Fin 14) (l : List LinkFrame) (s : State), s.diePresent n = true ∧ (s.lnk n).trained = true ∧ (s.lnk n).tx = .fsApply :: l ∧ (s.die n).st = .adopted) ∧
    (∃ (n : Fin 14) (l : List LinkFrame) (s : State), s.diePresent n = true ∧ (s.lnk n).trained = true ∧ (s.lnk n).tx = .fsRelease :: l ∧ (s.die n).st = .failsafe ∧ (s.die n).adopted = true) ∧
    (∃ (n : Fin 14) (a : Bool) (l : List LinkFrame) (s : State), s.diePresent n = true ∧ (s.lnk n).trained = true ∧ (s.lnk n).tx = .limpArm a :: l) :=
  ⟨⟨(13 : Fin 15), (1 : Byte), (16 : BitVec 16), { ((State.reset.setLnk (13 : Fin 15) { State.reset.lnk (13 : Fin 15) with adopted := true }).setDie (13 : Fin 15) { State.reset.die (13 : Fin 15) with st := .adopted, epoch := 1, lastSeq := 0 }).setF STR_KA_CTL_KA_EN 0x1FFF     with str := { State.reset.str with kaGo := true } }, by decide +kernel⟩,
    ⟨(13 : Fin 14), State.reset.setDie (13 : Fin 14) { State.reset.die (13 : Fin 14) with st := .adopted, parked := false }, by decide +kernel⟩,
    ⟨(12 : Fin 14), (4 : Nat), (1 : Nat), (0 : Nat), (0 : Nat), (9 : Nat), (true : Bool), ([.hold] : List LinkFrame), (State.reset.setLnk (12 : Fin 14) { State.reset.lnk (12 : Fin 14) with trained := true, tx := .cmd (4 : Nat) (1 : Nat) (0 : Nat) (0 : Nat) (9 : Nat) (true : Bool) :: ([.hold] : List LinkFrame) }).setDie (12 : Fin 14) { State.reset.die (12 : Fin 14) with st := .adopted }, by decide +kernel⟩,
    ⟨(3 : Fin 14), (7 : Nat), (1024 : Nat), (0 : Nat), (1 : Nat), (false : Bool), ([] : List LinkFrame), (State.reset.setLnk (3 : Fin 14) { State.reset.lnk (3 : Fin 14) with trained := true, tx := .pwm (7 : Nat) (1024 : Nat) (0 : Nat) (1 : Nat) (false : Bool) :: ([] : List LinkFrame) }).setDie (3 : Fin 14) { State.reset.die (3 : Fin 14) with st := .adopted }, by decide +kernel⟩,
    ⟨(3 : Fin 14), (7 : Nat), (2 : Nat), (0 : Fin 32), (5 : Nat), ([] : List LinkFrame), (State.reset.setLnk (3 : Fin 14) { State.reset.lnk (3 : Fin 14) with trained := true, tx := .table (7 : Nat) (2 : Nat) (0 : Fin 32).val (5 : Nat) :: ([] : List LinkFrame) }).setDie (3 : Fin 14) { State.reset.die (3 : Fin 14) with st := .adopted }, by decide +kernel⟩,
    ⟨(3 : Fin 14), (7 : Nat), (1 : Nat), (1000 : Nat), ([] : List LinkFrame), (State.reset.setLnk (3 : Fin 14) { State.reset.lnk (3 : Fin 14) with trained := true, tx := .param (7 : Nat) (1 : Nat) (1000 : Nat) :: ([] : List LinkFrame) }).setDie (3 : Fin 14) { State.reset.die (3 : Fin 14) with st := .adopted }, by decide +kernel⟩,
    ⟨(3 : Fin 14), ([] : List LinkFrame), (State.reset.setLnk (3 : Fin 14) { State.reset.lnk (3 : Fin 14) with trained := true, tx := .hold :: ([] : List LinkFrame) }).setDie (3 : Fin 14) { State.reset.die (3 : Fin 14) with st := .adopted }, by decide +kernel⟩,
    ⟨(3 : Fin 14), ([] : List LinkFrame), (State.reset.setLnk (3 : Fin 14) { State.reset.lnk (3 : Fin 14) with trained := true, tx := .park :: ([] : List LinkFrame) }).setDie (3 : Fin 14) { State.reset.die (3 : Fin 14) with st := .adopted }, by decide +kernel⟩,
    ⟨(3 : Fin 14), (7 : Nat), ([.hold] : List LinkFrame), State.reset.setLnk (3 : Fin 14) { State.reset.lnk (3 : Fin 14) with trained := true, tx := .adopt (7 : Nat) :: ([.hold] : List LinkFrame) }, by decide +kernel⟩,
    ⟨(3 : Fin 14), ([] : List LinkFrame), (State.reset.setLnk (3 : Fin 14) { State.reset.lnk (3 : Fin 14) with trained := true, tx := .fsApply :: ([] : List LinkFrame) }).setDie (3 : Fin 14) { State.reset.die (3 : Fin 14) with st := .adopted }, by decide +kernel⟩,
    ⟨(3 : Fin 14), ([] : List LinkFrame), (State.reset.setLnk (3 : Fin 14) { State.reset.lnk (3 : Fin 14) with trained := true, tx := .fsRelease :: ([] : List LinkFrame) }).setDie (3 : Fin 14) { State.reset.die (3 : Fin 14) with st := .failsafe, adopted := true }, by decide +kernel⟩,
    ⟨(10 : Fin 14), (true : Bool), ([] : List LinkFrame), (State.reset.setLnk (10 : Fin 14) { State.reset.lnk (10 : Fin 14) with trained := true, tx := .limpArm (true : Bool) :: ([] : List LinkFrame) }).setDie (10 : Fin 14) { State.reset.die (10 : Fin 14) with st := .adopted }, by decide +kernel⟩⟩

/-- Hypotheses of Obligations.DiesTakeStageLinkFrames are met. -/
theorem test_hyps_diesTakeStageLinkFrames_2 :
    ∃ (n : Fin 14) (ms : Nat) (l : List LinkFrame) (s : State), s.diePresent n = true ∧ (s.lnk n).trained = true ∧ (s.lnk n).tx = .holdWin ms :: l ∧ s.dieObeys n = true :=
  ⟨(10 : Fin 14), (500 : Nat), ([] : List LinkFrame), (State.reset.setLnk (10 : Fin 14) { State.reset.lnk (10 : Fin 14) with trained := true, tx := .holdWin (500 : Nat) :: ([] : List LinkFrame) }).setDie (10 : Fin 14) { State.reset.die (10 : Fin 14) with st := .adopted }, by decide +kernel⟩

/-- Hypotheses of Obligations.AdoptionReportsAndLossOfADie are met. -/
theorem test_hyps_adoptionReportsAndLossOfADie :
    (∃ (n : Fin 15) (which : Fin 3) (w : BitVec 40) (s : State), s.linkPresent n = true ∧ frameBad w.toNat = true) ∧
    (∃ (n : Fin 14) (s : State), s.mayAdopt n = true) ∧
    (∃ (n : Fin 14) (s : State), s.diePresent n = true ∧ (s.lnk n).trained = true) ∧
    (∃ (c : Fin 132) (i : BitVec 16) (vds : BitVec 16) (s : State), s.vis c = true ∧ s.chPresent c = true) ∧
    (∃ (n : Fin 14) (what : Fin 3) (v : BitVec 32) (e : DieEvent) (l : List DieEvent) (s : State), s.diePresent n = true ∧ s.live n = true ∧ (s.die n).events = e :: l) ∧
    (∃ (n : Fin 14) (s : State), s.diePresent n = true ∧ (s.die n).st = .hold) ∧
    (∃ (n : Fin 14) (c : Nat) (s : State), s.diePresent n = true ∧ s.fsFree n = true ∧ ((linkChans n).find? (fun c => (s.dieCh c).fsPend && ((s.dieCh c).mode ≠ 2 || (s.dieCh c).nextWord.isNone)) = some c)) ∧
    (∃ (n : Fin 14) (s : State), s.diePresent n = true ∧ s.kaEn n = true ∧ (s.lnk n).adopted = true) ∧
    (∃ (n : Fin 14) (s : State), s.diePresent n = true ∧ (s.lnk n).trained = false ∧ (s.die n).uv = false ∧ bitOf s.pwr.clamp 3 = false ∧ s.boot.phase ≠ .reset) :=
  ⟨⟨(13 : Fin 15), (2 : Fin 3), (0xFFFFFFFFFF : BitVec 40), State.reset, by decide +kernel⟩,
    ⟨(13 : Fin 14), { ((State.reset.wLive (13 : Fin 14)).setLnk (13 : Fin 14) { State.reset.lnk (13 : Fin 14) with adopted := false, trained := true }).setF STR_KA_CTL_KA_EN 0x1FFF with boot := { State.reset.boot with phase := .run } }, by decide +kernel⟩,
    ⟨(13 : Fin 14), State.reset.setLnk (13 : Fin 14) { State.reset.lnk (13 : Fin 14) with trained := true }, by decide +kernel⟩,
    ⟨(105 : Fin 132), (601 : BitVec 16), (20 : BitVec 16), State.reset.wLive (chLink (105 : Fin 132)), by decide +kernel⟩,
    ⟨(13 : Fin 14), (0 : Fin 3), (0 : BitVec 32), ({ code := 6, value := 5 } : DieEvent), ([] : List DieEvent), (State.reset.wLive (13 : Fin 14)).setDie (13 : Fin 14) { (State.reset.wLive (13 : Fin 14)).die (13 : Fin 14) with events := ({ code := 6, value := 5 } : DieEvent) :: ([] : List DieEvent) }, by decide +kernel⟩,
    ⟨(13 : Fin 14), State.reset.setDie (13 : Fin 14) { State.reset.die (13 : Fin 14) with st := .hold }, by decide +kernel⟩,
    ⟨(3 : Fin 14), (9 : Nat), { ((State.reset.setDie (3 : Fin 14) { State.reset.die (3 : Fin 14) with st := .failsafe, adopted := false, gate := true, ot := false })) with dieChs := [((9 : Nat), { fsPend := true })] }, by decide +kernel⟩,
    ⟨(13 : Fin 14), (State.reset.setLnk (13 : Fin 14) { State.reset.lnk (13 : Fin 14) with adopted := true }).setF STR_KA_CTL_KA_EN 0x1FFF, by decide +kernel⟩,
    ⟨(13 : Fin 14), { State.reset.setLnk (13 : Fin 14) { State.reset.lnk (13 : Fin 14) with trained := false } with boot := { State.reset.boot with phase := .run } }, by decide +kernel⟩⟩

/-- Hypotheses of Obligations.StrongroomSetsHoldAndFailsafe are met. -/
theorem test_hyps_strongroomSetsHoldAndFailsafe :
    (∃ (s : State), (s.boot.phase = .script ∨ s.boot.phase = .adopt ∨ s.boot.phase = .run ∨ s.boot.phase = .recovery)) ∧
    (∃ (init : Byte) (w : Word) (s : State), isStr init.toNat = true) ∧
    (∃ (init : Byte) (w : Word) (s : State), isStr init.toNat = true) ∧
    (∃ (init : Byte) (w : Word) (s : State), isStr init.toNat = true) ∧
    (∃ (init : Byte) (w : Word) (s : State), isStr init.toNat = true) ∧
    (∃ (init : Byte) (n : Fin 14) (w : Word) (s : State), isStr init.toNat = true ∧ n.val ≠ 0 ∧ (10 ≤ w.toNat % 0x200 ∧ w.toNat % 0x200 ≤ 500)) ∧
    (∃ (init : Byte) (w : Word) (s : State), isStr init.toNat = true) ∧
    (∃ (init : Byte) (c : Fin 132) (w : Word) (s : State), isStr init.toNat = true ∧ s.chPresent c = true) ∧
    (∃ (s : State), s.boot.phase = .run ∧ s.f PWR_STATE_STATE < 2) :=
  ⟨⟨{ State.reset with boot := { State.reset.boot with phase := .script } }, by decide +kernel⟩,
    ⟨(8 : Byte), (0x2000 : Word), State.reset, by decide +kernel⟩,
    ⟨(10 : Byte), (0x2008 : Word), State.reset, by decide +kernel⟩,
    ⟨(8 : Byte), (0x2008 : Word), State.reset, by decide +kernel⟩,
    ⟨(8 : Byte), (0x408 : Word), State.reset, by decide +kernel⟩,
    ⟨(8 : Byte), (13 : Fin 14), (500 : Word), State.reset, by decide +kernel⟩,
    ⟨(8 : Byte), (0xFFFFFFFF : Word), State.reset, by decide +kernel⟩,
    ⟨(8 : Byte), (131 : Fin 132), (0x00000005 : Word), State.reset, by decide +kernel⟩,
    ⟨{ ((State.reset.setF (dieStateRF 3) 3).setLnk 3 { State.reset.lnk 3 with cause := 0 }).setF PWR_STATE_STATE 0 with boot := { State.reset.boot with phase := .run } }, by decide +kernel⟩⟩

/-- Hypotheses of Obligations.StrongroomBytesRefuseOtherWriters are met. -/
theorem test_hyps_strongroomBytesRefuseOtherWriters :
    (∃ (init : Byte) (w : Word) (s : State), isStr init.toNat = false) ∧
    (∃ (init : Byte) (w : Word) (s : State), isStr init.toNat = false) ∧
    (∃ (init : Byte) (w : Word) (s : State), isStr init.toNat = false) ∧
    (∃ (init : Byte) (w : Word) (s : State), isStr init.toNat = false) ∧
    (∃ (init : Byte) (n : Fin 14) (w : Word) (s : State), isStr init.toNat = false ∧ n.val ≠ 0) ∧
    (∃ (init : Byte) (w : Word) (s : State), isStr init.toNat = false) ∧
    (∃ (init : Byte) (c : Fin 132) (w : Word) (s : State), isStr init.toNat = false) :=
  ⟨⟨(0x10 : Byte), (5 : Word), State.reset, by decide +kernel⟩,
    ⟨(0x10 : Byte), (5 : Word), State.reset, by decide +kernel⟩,
    ⟨(0x10 : Byte), (5 : Word), State.reset, by decide +kernel⟩,
    ⟨(0x10 : Byte), (5 : Word), State.reset, by decide +kernel⟩,
    ⟨(0x10 : Byte), (13 : Fin 14), (5 : Word), State.reset, by decide +kernel⟩,
    ⟨(0x10 : Byte), (5 : Word), State.reset, by decide +kernel⟩,
    ⟨(0x10 : Byte), (131 : Fin 132), (5 : Word), State.reset, by decide +kernel⟩⟩

/-- Hypotheses of Obligations.SlateDailiesAndFrameSync are met. -/
theorem test_hyps_slateDailiesAndFrameSync_1 :
    (∃ (isl : Fin 30) (s : State), s.corrected isl = true) ∧
    (∃ (ns : BitVec 64) (s : State), s.frm.captured = false ∧ s.clocked 10 = true ∧ s.boot.xtalBad = false) ∧
    (∃ (ns : BitVec 64) (e : Int) (s : State), s.frm.captured = true ∧ e = (ns.toNat : Int) - 8 * s.now - s.gptpOfs ∧ s.clocked 10 = true ∧ s.boot.xtalBad = false) ∧
    (∃ (s : State), (s.f FRM_GPTP_STAT_STATE = 1 ∨ s.f FRM_GPTP_STAT_STATE = 2) ∧ s.clocked 2 = true) ∧
    (∃ (isl : Fin 30) (r : DailyRec) (l : List DailyRec) (s : State), (s.island isl).recs = r :: l ∧ s.clocked 2 = true) ∧
    (∃ (isl : Fin 30) (s : State), (s.island isl).lost ≠ 0 ∧ (s.island isl).recs.length < 16 ∧ s.clocked isl = true) ∧
    (∃ (init : Byte) (s : State), s.clocked 2 = true) ∧
    (∃ (bad : List (BitVec 16)) (s : State), s.on DLY_ARCH_CTL_BUSY = true) ∧
    (∃ (s : State), s.clocked 2 = true ∧ (s.expansion = false ∨ s.f TRK_STAT_SYNC ≠ 1) ∧ (s.on FRM_CFG_FSYNC_EN = false ∨ s.f FRM_LOCK_STATE = 0 ∨ s.reg FRM_FSYNC_INT = 0)) ∧
    (∃ (s : State), (s.expansion = false ∨ s.f TRK_STAT_SYNC ≠ 1) ∧ s.on FRM_CFG_FSYNC_EN = true ∧ s.f FRM_LOCK_STATE ≠ 0 ∧ s.reg FRM_FSYNC_INT ≠ 0 ∧ s.clocked 2 = true) ∧
    (∃ (n : Fin 14) (s : State), s.diePresent n = true ∧ (s.die n).stopped = false) ∧
    (∃ (falling : Bool) (s : State), s.on FRM_CFG_FSYNC_POL = falling ∧ s.clocked 2 = true) :=
  ⟨⟨(29 : Fin 30), State.reset.wRun, by decide +kernel⟩,
    ⟨(12345 : BitVec 64), { State.reset.wClocks with frm := { State.reset.frm with captured := false } }, by decide +kernel⟩,
    ⟨(12345 : BitVec 64), (12345 : Int), { (State.reset.wClocks.setReg FRM_GPTP_OFS_LO (BitVec.ofNat 32 (unsigned 64 (((12345 : BitVec 64).toNat : Int) - 8 * State.reset.now - (12345 : Int))))).setReg FRM_GPTP_OFS_HI     (BitVec.ofNat 32 (unsigned 64 (((12345 : BitVec 64).toNat : Int) - 8 * State.reset.now - (12345 : Int)) / 2 ^ 32)) with frm := { State.reset.frm with captured := true } }, by decide +kernel⟩,
    ⟨State.reset.wClocks.setF FRM_GPTP_STAT_STATE 2, by decide +kernel⟩,
    ⟨(29 : Fin 30), ({ index := 3, event := 5 } : DailyRec), ([] : List DailyRec), (State.reset.wClocks.setF DLY_WR_INDEX 8191).setIsland (29 : Fin 30) { State.reset.island (29 : Fin 30) with recs := ({ index := 3, event := 5 } : DailyRec) :: ([] : List DailyRec) }, by decide +kernel⟩,
    ⟨(29 : Fin 30), State.reset.wClocks.setIsland (29 : Fin 30) { State.reset.island (29 : Fin 30) with lost := 3 }, by decide +kernel⟩,
    ⟨(8 : Byte), State.reset.wClocks, by decide +kernel⟩,
    ⟨([] : List (BitVec 16)), { State.reset.setF DLY_ARCH_CTL_BUSY 1 with dly := { State.reset.dly with pend := [5], cover := 1 } }, by decide +kernel⟩,
    ⟨State.reset.wClocks, by decide +kernel⟩,
    ⟨((State.reset.wClocks.setF FRM_LOCK_STATE 1).setF FRM_CFG_FSYNC_EN 1).setReg FRM_FSYNC_INT 1250000, by decide +kernel⟩,
    ⟨(3 : Fin 14), State.reset.setDieCh 9 { State.reset.dieCh 9 with nextWord := some (512, 1, 2) }, by decide +kernel⟩,
    ⟨(false : Bool), State.reset.wClocks, by decide +kernel⟩⟩

/-- Hypotheses of Obligations.SlateDailiesAndFrameSync are met. -/
theorem test_hyps_slateDailiesAndFrameSync_2 :
    ∃ (s : State), s.f FRM_LOCK_STATE ≠ 0 ∧ s.clocked 2 = true :=
  ⟨State.reset.wClocks.setF FRM_LOCK_STATE 2, by decide +kernel⟩

/-- Hypotheses of Obligations.FullResetsRecordCauseAndHold are met. -/
theorem test_hyps_fullResetsRecordCauseAndHold :
    (∃ (c : Nat) (d : Nat) (i : Nat) (s : State), s.boot.due = some (c, d, i) ∧ s.canonical = true) ∧
    (∃ (s : State), s.canonical = true) ∧
    (∃ (isl : Fin 30) (x : SpineTx) (s : State), s.hung isl = some x ∧ s.f PWR_STATE_STATE < 2 ∧ (s.boot.phase = .script ∨ s.boot.phase = .adopt ∨ s.boot.phase = .run ∨ s.boot.phase = .recovery) ∧ s.canonical = true) ∧
    (∃ (c : Fin 6) (s : State), s.crewPresent c = true ∧ bitOf (s.f STR_HB_STAT_SUPERVISED) c = true ∧ s.f PWR_STATE_STATE < 2 ∧ s.boot.phase = .run ∧ s.canonical = true) ∧
    (∃ (isl : Fin 30) (absent : Bool) (s : State), isDlo isl = true ∧ s.islandPresent isl = true) ∧
    (∃ (s : State), s.canonical = true) ∧
    (∃ (s : State), s.str.kaGo = false ∧ (s.boot.phase = .script ∨ s.boot.phase = .adopt ∨ s.boot.phase = .run ∨ s.boot.phase = .recovery) ∧ s.canonical = true) ∧
    (∃ (s : State), s.canonical = true) :=
  ⟨⟨(8 : Nat), (1 : Nat), (5 : Nat), { State.reset with boot := { State.reset.boot with due := some ((8 : Nat), (1 : Nat), (5 : Nat)) } }, by decide +kernel⟩,
    ⟨{ State.reset with boot := { State.reset.boot with por := false } }, by decide +kernel⟩,
    ⟨(9 : Fin 30), ({ init := 0x10, op := 1, addr := 0x04000000, len := 4 } : SpineTx), { State.reset.wRun with waiting := [({ init := 0x10, op := 1, addr := 0x04000000, len := 4 } : SpineTx)] }, by decide +kernel⟩,
    ⟨(5 : Fin 6), { (State.reset.setF STR_HB_STAT_SUPERVISED 0x3F).setF PWR_STATE_STATE 1 with boot := { State.reset.boot with phase := .run } }, by decide +kernel⟩,
    ⟨(15 : Fin 30), (true : Bool), State.reset, by decide +kernel⟩,
    ⟨State.reset, by decide +kernel⟩,
    ⟨{ State.reset with str := { State.reset.str with kaGo := false }, boot := { State.reset.boot with phase := .run } }, by decide +kernel⟩,
    ⟨State.reset, by decide +kernel⟩⟩

/-- Hypotheses of Obligations.ByteInstructionsComputeResultAndFlags are met. -/
theorem test_hyps_byteInstructionsComputeResultAndFlags :
    (∃ (g : Fin 48) (d : Fin 16) (r : Fin 16) (s : State), s.admits g insAlu = true) ∧
    (∃ (g : Fin 48) (d : Fin 16) (r : Fin 16) (s : State), s.admits g insAlu = true) ∧
    (∃ (g : Fin 48) (d : Fin 16) (r : Fin 16) (s : State), s.admits g insAlu = true) ∧
    (∃ (g : Fin 48) (d : Fin 16) (r : Fin 16) (s : State), s.admits g insAlu = true) ∧
    (∃ (g : Fin 48) (d : Fin 16) (r : Fin 16) (s : State), s.admits g insAlu = true) ∧
    (∃ (g : Fin 48) (d : Fin 16) (r : Fin 16) (s : State), s.admits g insAlu = true) ∧
    (∃ (g : Fin 48) (d : Fin 16) (r : Fin 16) (s : State), s.admits g insAlu = true) ∧
    (∃ (g : Fin 48) (d : Fin 16) (r : Fin 16) (s : State), s.admits g insAlu = true) ∧
    (∃ (g : Fin 48) (d : Fin 16) (r : Fin 16) (s : State), s.admits g insAlu = true) ∧
    (∃ (g : Fin 48) (d : Fin 16) (r : Fin 16) (s : State), s.admits g insAlu = true) :=
  ⟨⟨(47 : Fin 48), (15 : Fin 16), (7 : Fin 16), ((State.reset.wClocks.setEng (47 : Fin 48) { State.reset.eng (47 : Fin 48) with st := .normal, load := none, nl := { (State.reset.eng (47 : Fin 48)).nl with pc := 0xFF0, slot := none, rep := {}, sync := false } })), by decide +kernel⟩,
    ⟨(47 : Fin 48), (15 : Fin 16), (7 : Fin 16), ((State.reset.wClocks.setEng (47 : Fin 48) { State.reset.eng (47 : Fin 48) with st := .normal, load := none, nl := { (State.reset.eng (47 : Fin 48)).nl with pc := 0xFF0, slot := none, rep := {}, sync := false } })), by decide +kernel⟩,
    ⟨(47 : Fin 48), (15 : Fin 16), (7 : Fin 16), ((State.reset.wClocks.setEng (47 : Fin 48) { State.reset.eng (47 : Fin 48) with st := .normal, load := none, nl := { (State.reset.eng (47 : Fin 48)).nl with pc := 0xFF0, slot := none, rep := {}, sync := false } })), by decide +kernel⟩,
    ⟨(47 : Fin 48), (15 : Fin 16), (7 : Fin 16), ((State.reset.wClocks.setEng (47 : Fin 48) { State.reset.eng (47 : Fin 48) with st := .normal, load := none, nl := { (State.reset.eng (47 : Fin 48)).nl with pc := 0xFF0, slot := none, rep := {}, sync := false } })), by decide +kernel⟩,
    ⟨(47 : Fin 48), (15 : Fin 16), (7 : Fin 16), ((State.reset.wClocks.setEng (47 : Fin 48) { State.reset.eng (47 : Fin 48) with st := .normal, load := none, nl := { (State.reset.eng (47 : Fin 48)).nl with pc := 0xFF0, slot := none, rep := {}, sync := false } })), by decide +kernel⟩,
    ⟨(47 : Fin 48), (15 : Fin 16), (7 : Fin 16), ((State.reset.wClocks.setEng (47 : Fin 48) { State.reset.eng (47 : Fin 48) with st := .normal, load := none, nl := { (State.reset.eng (47 : Fin 48)).nl with pc := 0xFF0, slot := none, rep := {}, sync := false } })), by decide +kernel⟩,
    ⟨(47 : Fin 48), (15 : Fin 16), (7 : Fin 16), ((State.reset.wClocks.setEng (47 : Fin 48) { State.reset.eng (47 : Fin 48) with st := .normal, load := none, nl := { (State.reset.eng (47 : Fin 48)).nl with pc := 0xFF0, slot := none, rep := {}, sync := false } })), by decide +kernel⟩,
    ⟨(47 : Fin 48), (15 : Fin 16), (7 : Fin 16), ((State.reset.wClocks.setEng (47 : Fin 48) { State.reset.eng (47 : Fin 48) with st := .normal, load := none, nl := { (State.reset.eng (47 : Fin 48)).nl with pc := 0xFF0, slot := none, rep := {}, sync := false } })), by decide +kernel⟩,
    ⟨(47 : Fin 48), (15 : Fin 16), (7 : Fin 16), ((State.reset.wClocks.setEng (47 : Fin 48) { State.reset.eng (47 : Fin 48) with st := .normal, load := none, nl := { (State.reset.eng (47 : Fin 48)).nl with pc := 0xFF0, slot := none, rep := {}, sync := false } })), by decide +kernel⟩,
    ⟨(47 : Fin 48), (15 : Fin 16), (7 : Fin 16), ((State.reset.wClocks.setEng (47 : Fin 48) { State.reset.eng (47 : Fin 48) with st := .normal, load := none, nl := { (State.reset.eng (47 : Fin 48)).nl with pc := 0xFF0, slot := none, rep := {}, sync := false } })), by decide +kernel⟩⟩

/-- Hypotheses of Obligations.ByteImmediateInstructionsComputeResultAndFlags are met. -/
theorem test_hyps_byteImmediateInstructionsComputeResultAndFlags :
    (∃ (g : Fin 48) (d : Fin 16) (i : Byte) (s : State), s.admits g insAlu = true) ∧
    (∃ (g : Fin 48) (d : Fin 16) (i : Byte) (s : State), s.admits g insAlu = true) ∧
    (∃ (g : Fin 48) (d : Fin 16) (i : Byte) (s : State), s.admits g insAlu = true) ∧
    (∃ (g : Fin 48) (d : Fin 16) (i : Byte) (s : State), s.admits g insAlu = true) ∧
    (∃ (g : Fin 48) (d : Fin 16) (i : Byte) (s : State), s.admits g insAlu = true) ∧
    (∃ (g : Fin 48) (d : Fin 16) (i : Byte) (s : State), s.admits g insAlu = true) ∧
    (∃ (g : Fin 48) (d : Fin 16) (i : Byte) (s : State), s.admits g insAlu = true) ∧
    (∃ (g : Fin 48) (d : Fin 16) (s : State), s.admits g insAlu = true) ∧
    (∃ (g : Fin 48) (d : Fin 16) (s : State), s.admits g insAlu = true) ∧
    (∃ (g : Fin 48) (d : Fin 16) (s : State), s.admits g insAlu = true) ∧
    (∃ (g : Fin 48) (d : Fin 16) (s : State), s.admits g insAlu = true) :=
  ⟨⟨(47 : Fin 48), (15 : Fin 16), (255 : Byte), ((State.reset.wClocks.setEng (47 : Fin 48) { State.reset.eng (47 : Fin 48) with st := .normal, load := none, nl := { (State.reset.eng (47 : Fin 48)).nl with pc := 0xFF0, slot := none, rep := {}, sync := false } })), by decide +kernel⟩,
    ⟨(47 : Fin 48), (15 : Fin 16), (128 : Byte), ((State.reset.wClocks.setEng (47 : Fin 48) { State.reset.eng (47 : Fin 48) with st := .normal, load := none, nl := { (State.reset.eng (47 : Fin 48)).nl with pc := 0xFF0, slot := none, rep := {}, sync := false } })), by decide +kernel⟩,
    ⟨(47 : Fin 48), (15 : Fin 16), (128 : Byte), ((State.reset.wClocks.setEng (47 : Fin 48) { State.reset.eng (47 : Fin 48) with st := .normal, load := none, nl := { (State.reset.eng (47 : Fin 48)).nl with pc := 0xFF0, slot := none, rep := {}, sync := false } })), by decide +kernel⟩,
    ⟨(47 : Fin 48), (15 : Fin 16), (128 : Byte), ((State.reset.wClocks.setEng (47 : Fin 48) { State.reset.eng (47 : Fin 48) with st := .normal, load := none, nl := { (State.reset.eng (47 : Fin 48)).nl with pc := 0xFF0, slot := none, rep := {}, sync := false } })), by decide +kernel⟩,
    ⟨(47 : Fin 48), (15 : Fin 16), (128 : Byte), ((State.reset.wClocks.setEng (47 : Fin 48) { State.reset.eng (47 : Fin 48) with st := .normal, load := none, nl := { (State.reset.eng (47 : Fin 48)).nl with pc := 0xFF0, slot := none, rep := {}, sync := false } })), by decide +kernel⟩,
    ⟨(47 : Fin 48), (15 : Fin 16), (128 : Byte), ((State.reset.wClocks.setEng (47 : Fin 48) { State.reset.eng (47 : Fin 48) with st := .normal, load := none, nl := { (State.reset.eng (47 : Fin 48)).nl with pc := 0xFF0, slot := none, rep := {}, sync := false } })), by decide +kernel⟩,
    ⟨(47 : Fin 48), (15 : Fin 16), (128 : Byte), ((State.reset.wClocks.setEng (47 : Fin 48) { State.reset.eng (47 : Fin 48) with st := .normal, load := none, nl := { (State.reset.eng (47 : Fin 48)).nl with pc := 0xFF0, slot := none, rep := {}, sync := false } })), by decide +kernel⟩,
    ⟨(47 : Fin 48), (15 : Fin 16), ((State.reset.wClocks.setEng (47 : Fin 48) { State.reset.eng (47 : Fin 48) with st := .normal, load := none, nl := { (State.reset.eng (47 : Fin 48)).nl with pc := 0xFF0, slot := none, rep := {}, sync := false } })), by decide +kernel⟩,
    ⟨(47 : Fin 48), (15 : Fin 16), ((State.reset.wClocks.setEng (47 : Fin 48) { State.reset.eng (47 : Fin 48) with st := .normal, load := none, nl := { (State.reset.eng (47 : Fin 48)).nl with pc := 0xFF0, slot := none, rep := {}, sync := false } })), by decide +kernel⟩,
    ⟨(47 : Fin 48), (15 : Fin 16), ((State.reset.wClocks.setEng (47 : Fin 48) { State.reset.eng (47 : Fin 48) with st := .normal, load := none, nl := { (State.reset.eng (47 : Fin 48)).nl with pc := 0xFF0, slot := none, rep := {}, sync := false } })), by decide +kernel⟩,
    ⟨(47 : Fin 48), (15 : Fin 16), ((State.reset.wClocks.setEng (47 : Fin 48) { State.reset.eng (47 : Fin 48) with st := .normal, load := none, nl := { (State.reset.eng (47 : Fin 48)).nl with pc := 0xFF0, slot := none, rep := {}, sync := false } })), by decide +kernel⟩⟩

/-- Hypotheses of Obligations.ShiftAndBitInstructionsComputeResultAndFlags are met. -/
theorem test_hyps_shiftAndBitInstructionsComputeResultAndFlags :
    (∃ (g : Fin 48) (d : Fin 16) (s : State), s.admits g insAlu = true) ∧
    (∃ (g : Fin 48) (d : Fin 16) (s : State), s.admits g insAlu = true) ∧
    (∃ (g : Fin 48) (d : Fin 16) (s : State), s.admits g insAlu = true) ∧
    (∃ (g : Fin 48) (d : Fin 16) (s : State), s.admits g insAlu = true) ∧
    (∃ (g : Fin 48) (d : Fin 16) (s : State), s.admits g insAlu = true) ∧
    (∃ (g : Fin 48) (d : Fin 16) (s : State), s.admits g insAlu = true) ∧
    (∃ (g : Fin 48) (d : Fin 16) (b : Fin 8) (s : State), s.admits g insAlu = true) ∧
    (∃ (g : Fin 48) (d : Fin 16) (b : Fin 8) (s : State), s.admits g insAlu = true) ∧
    (∃ (g : Fin 48) (d : Fin 16) (b : Fin 8) (s : State), s.admits g insAlu = true) ∧
    (∃ (g : Fin 48) (d : Fin 16) (b : Fin 8) (s : State), s.admits g insAlu = true) :=
  ⟨⟨(47 : Fin 48), (15 : Fin 16), ((State.reset.wClocks.setEng (47 : Fin 48) { State.reset.eng (47 : Fin 48) with st := .normal, load := none, nl := { (State.reset.eng (47 : Fin 48)).nl with pc := 0xFF0, slot := none, rep := {}, sync := false } })), by decide +kernel⟩,
    ⟨(47 : Fin 48), (15 : Fin 16), ((State.reset.wClocks.setEng (47 : Fin 48) { State.reset.eng (47 : Fin 48) with st := .normal, load := none, nl := { (State.reset.eng (47 : Fin 48)).nl with pc := 0xFF0, slot := none, rep := {}, sync := false } })), by decide +kernel⟩,
    ⟨(47 : Fin 48), (15 : Fin 16), ((State.reset.wClocks.setEng (47 : Fin 48) { State.reset.eng (47 : Fin 48) with st := .normal, load := none, nl := { (State.reset.eng (47 : Fin 48)).nl with pc := 0xFF0, slot := none, rep := {}, sync := false } })), by decide +kernel⟩,
    ⟨(47 : Fin 48), (15 : Fin 16), ((State.reset.wClocks.setEng (47 : Fin 48) { State.reset.eng (47 : Fin 48) with st := .normal, load := none, nl := { (State.reset.eng (47 : Fin 48)).nl with pc := 0xFF0, slot := none, rep := {}, sync := false } })), by decide +kernel⟩,
    ⟨(47 : Fin 48), (15 : Fin 16), ((State.reset.wClocks.setEng (47 : Fin 48) { State.reset.eng (47 : Fin 48) with st := .normal, load := none, nl := { (State.reset.eng (47 : Fin 48)).nl with pc := 0xFF0, slot := none, rep := {}, sync := false } })), by decide +kernel⟩,
    ⟨(47 : Fin 48), (15 : Fin 16), ((State.reset.wClocks.setEng (47 : Fin 48) { State.reset.eng (47 : Fin 48) with st := .normal, load := none, nl := { (State.reset.eng (47 : Fin 48)).nl with pc := 0xFF0, slot := none, rep := {}, sync := false } })), by decide +kernel⟩,
    ⟨(47 : Fin 48), (15 : Fin 16), (7 : Fin 8), ((State.reset.wClocks.setEng (47 : Fin 48) { State.reset.eng (47 : Fin 48) with st := .normal, load := none, nl := { (State.reset.eng (47 : Fin 48)).nl with pc := 0xFF0, slot := none, rep := {}, sync := false } })), by decide +kernel⟩,
    ⟨(47 : Fin 48), (15 : Fin 16), (7 : Fin 8), ((State.reset.wClocks.setEng (47 : Fin 48) { State.reset.eng (47 : Fin 48) with st := .normal, load := none, nl := { (State.reset.eng (47 : Fin 48)).nl with pc := 0xFF0, slot := none, rep := {}, sync := false } })), by decide +kernel⟩,
    ⟨(47 : Fin 48), (15 : Fin 16), (7 : Fin 8), ((State.reset.wClocks.setEng (47 : Fin 48) { State.reset.eng (47 : Fin 48) with st := .normal, load := none, nl := { (State.reset.eng (47 : Fin 48)).nl with pc := 0xFF0, slot := none, rep := {}, sync := false } })), by decide +kernel⟩,
    ⟨(47 : Fin 48), (15 : Fin 16), (7 : Fin 8), ((State.reset.wClocks.setEng (47 : Fin 48) { State.reset.eng (47 : Fin 48) with st := .normal, load := none, nl := { (State.reset.eng (47 : Fin 48)).nl with pc := 0xFF0, slot := none, rep := {}, sync := false } })), by decide +kernel⟩⟩

/-- Hypotheses of Obligations.PointerInstructionsComputeResultAndFlags are met. -/
theorem test_hyps_pointerInstructionsComputeResultAndFlags :
    (∃ (g : Fin 48) (p : Fin 8) (a : BitVec 16) (s : State), s.admits g insAbs = true) ∧
    (∃ (g : Fin 48) (p : Fin 8) (q : Fin 8) (s : State), s.admits g insAlu = true) ∧
    (∃ (g : Fin 48) (p : Fin 8) (i : BitVec 16) (s : State), s.admits g insAbs = true) ∧
    (∃ (g : Fin 48) (p : Fin 8) (q : Fin 8) (s : State), s.admits g insAlu = true) ∧
    (∃ (g : Fin 48) (p : Fin 8) (q : Fin 8) (s : State), s.admits g insAlu = true) ∧
    (∃ (g : Fin 48) (p : Fin 8) (q : Fin 8) (s : State), s.admits g insAlu = true) ∧
    (∃ (g : Fin 48) (p : Fin 8) (r : Fin 16) (s : State), s.admits g insAlu = true) ∧
    (∃ (g : Fin 48) (p : Fin 8) (s : State), s.admits g insAlu = true) ∧
    (∃ (g : Fin 48) (p : Fin 8) (s : State), s.admits g insAlu = true) ∧
    (∃ (g : Fin 48) (p : Fin 8) (r : Fin 16) (s : State), s.admits g insAlu = true) ∧
    (∃ (g : Fin 48) (p : Fin 8) (r : Fin 16) (s : State), s.admits g insAlu = true) :=
  ⟨⟨(47 : Fin 48), (7 : Fin 8), (0xFFFF : BitVec 16), ((State.reset.wClocks.setEng (47 : Fin 48) { State.reset.eng (47 : Fin 48) with st := .normal, load := none, nl := { (State.reset.eng (47 : Fin 48)).nl with pc := 0xFF0, slot := none, rep := {}, sync := false } })), by decide +kernel⟩,
    ⟨(47 : Fin 48), (7 : Fin 8), (0 : Fin 8), ((State.reset.wClocks.setEng (47 : Fin 48) { State.reset.eng (47 : Fin 48) with st := .normal, load := none, nl := { (State.reset.eng (47 : Fin 48)).nl with pc := 0xFF0, slot := none, rep := {}, sync := false } })), by decide +kernel⟩,
    ⟨(47 : Fin 48), (7 : Fin 8), (65535 : BitVec 16), ((State.reset.wClocks.setEng (47 : Fin 48) { State.reset.eng (47 : Fin 48) with st := .normal, load := none, nl := { (State.reset.eng (47 : Fin 48)).nl with pc := 0xFF0, slot := none, rep := {}, sync := false } })), by decide +kernel⟩,
    ⟨(47 : Fin 48), (7 : Fin 8), (0 : Fin 8), ((State.reset.wClocks.setEng (47 : Fin 48) { State.reset.eng (47 : Fin 48) with st := .normal, load := none, nl := { (State.reset.eng (47 : Fin 48)).nl with pc := 0xFF0, slot := none, rep := {}, sync := false } })), by decide +kernel⟩,
    ⟨(47 : Fin 48), (7 : Fin 8), (0 : Fin 8), ((State.reset.wClocks.setEng (47 : Fin 48) { State.reset.eng (47 : Fin 48) with st := .normal, load := none, nl := { (State.reset.eng (47 : Fin 48)).nl with pc := 0xFF0, slot := none, rep := {}, sync := false } })), by decide +kernel⟩,
    ⟨(47 : Fin 48), (7 : Fin 8), (0 : Fin 8), ((State.reset.wClocks.setEng (47 : Fin 48) { State.reset.eng (47 : Fin 48) with st := .normal, load := none, nl := { (State.reset.eng (47 : Fin 48)).nl with pc := 0xFF0, slot := none, rep := {}, sync := false } })), by decide +kernel⟩,
    ⟨(47 : Fin 48), (7 : Fin 8), (0 : Fin 16), ((State.reset.wClocks.setEng (47 : Fin 48) { State.reset.eng (47 : Fin 48) with st := .normal, load := none, nl := { (State.reset.eng (47 : Fin 48)).nl with pc := 0xFF0, slot := none, rep := {}, sync := false } })), by decide +kernel⟩,
    ⟨(47 : Fin 48), (7 : Fin 8), ((State.reset.wClocks.setEng (47 : Fin 48) { State.reset.eng (47 : Fin 48) with st := .normal, load := none, nl := { (State.reset.eng (47 : Fin 48)).nl with pc := 0xFF0, slot := none, rep := {}, sync := false } })), by decide +kernel⟩,
    ⟨(47 : Fin 48), (7 : Fin 8), ((State.reset.wClocks.setEng (47 : Fin 48) { State.reset.eng (47 : Fin 48) with st := .normal, load := none, nl := { (State.reset.eng (47 : Fin 48)).nl with pc := 0xFF0, slot := none, rep := {}, sync := false } })), by decide +kernel⟩,
    ⟨(47 : Fin 48), (7 : Fin 8), (0 : Fin 16), ((State.reset.wClocks.setEng (47 : Fin 48) { State.reset.eng (47 : Fin 48) with st := .normal, load := none, nl := { (State.reset.eng (47 : Fin 48)).nl with pc := 0xFF0, slot := none, rep := {}, sync := false } })), by decide +kernel⟩,
    ⟨(47 : Fin 48), (7 : Fin 8), (0 : Fin 16), ((State.reset.wClocks.setEng (47 : Fin 48) { State.reset.eng (47 : Fin 48) with st := .normal, load := none, nl := { (State.reset.eng (47 : Fin 48)).nl with pc := 0xFF0, slot := none, rep := {}, sync := false } })), by decide +kernel⟩⟩

/-- Hypotheses of Obligations.ControlTransfersAndPrefixes are met. -/
theorem test_hyps_controlTransfersAndPrefixes_1 :
    (∃ (g : Fin 48) (s : State), s.admits g insAlu = true) ∧
    (∃ (g : Fin 48) (p : Fin 8) (s : State), s.admits g insJump = true) ∧
    (∃ (g : Fin 48) (a : BitVec 16) (s : State), s.admits g insJumpAbs = true) ∧
    (∃ (g : Fin 48) (p : Fin 8) (s : State), s.admits g insJump = true ∧ (s.pR g 7 roAddr + 0xFFFE) % 0x10000 < 0x1000) ∧
    (∃ (g : Fin 48) (a : BitVec 16) (s : State), s.admits g insJumpAbs = true ∧ (s.pR g 7 roAddr + 0xFFFE) % 0x10000 < 0x1000) ∧
    (∃ (g : Fin 48) (rel : Byte) (s : State), s.admits g insJump = true ∧ (s.pR g 7 roAddr + 0xFFFE) % 0x10000 < 0x1000) ∧
    (∃ (g : Fin 48) (s : State), s.admits g insJump = true ∧ s.pR g 7 roAddr < 0x1000) ∧
    (∃ (g : Fin 48) (c : Fin 15) (rel : Byte) (s : State), s.admits g insJump = true) ∧
    (∃ (g : Fin 48) (n : Fin 16) (s : State), s.admits g insJump = true ∧ (s.eng g).cur.rep.left = 0) ∧
    (∃ (g : Fin 48) (r : Fin 16) (s : State), s.admits g insJump = true ∧ (s.eng g).cur.rep.left = 0) ∧
    (∃ (g : Fin 48) (n : Byte) (s : State), s.admits g insJump = true ∧ (s.eng g).cur.rep.left = 0) ∧
    (∃ (g : Fin 48) (s : State), s.admits g insOne = true) :=
  ⟨⟨(47 : Fin 48), ((State.reset.wClocks.setEng (47 : Fin 48) { State.reset.eng (47 : Fin 48) with st := .normal, load := none, nl := { (State.reset.eng (47 : Fin 48)).nl with pc := 0xFF0, slot := none, rep := {}, sync := false } })), by decide +kernel⟩,
    ⟨(47 : Fin 48), (3 : Fin 8), ((State.reset.wClocks.setEng (47 : Fin 48) { State.reset.eng (47 : Fin 48) with st := .normal, load := none, nl := { (State.reset.eng (47 : Fin 48)).nl with pc := 0xFF0, slot := none, rep := {}, sync := false } })), by decide +kernel⟩,
    ⟨(47 : Fin 48), (0xFFF : BitVec 16), ((State.reset.wClocks.setEng (47 : Fin 48) { State.reset.eng (47 : Fin 48) with st := .normal, load := none, nl := { (State.reset.eng (47 : Fin 48)).nl with pc := 0xFF0, slot := none, rep := {}, sync := false } })), by decide +kernel⟩,
    ⟨(47 : Fin 48), (3 : Fin 8), ((State.reset.wClocks.setEng (47 : Fin 48) { State.reset.eng (47 : Fin 48) with st := .normal, hist := [], b := [(14, 0x20), (15, 0x03)], load := none, nl := { (State.reset.eng (47 : Fin 48)).nl with pc := 0xFF0, slot := none, rep := {}, sync := false } })), by decide +kernel⟩,
    ⟨(47 : Fin 48), (0xFFF : BitVec 16), ((State.reset.wClocks.setEng (47 : Fin 48) { State.reset.eng (47 : Fin 48) with st := .normal, hist := [], b := [(14, 0x20), (15, 0x03)], load := none, nl := { (State.reset.eng (47 : Fin 48)).nl with pc := 0xFF0, slot := none, rep := {}, sync := false } })), by decide +kernel⟩,
    ⟨(47 : Fin 48), (0xFE : Byte), ((State.reset.wClocks.setEng (47 : Fin 48) { State.reset.eng (47 : Fin 48) with st := .normal, hist := [], b := [(14, 0x20), (15, 0x03)], load := none, nl := { (State.reset.eng (47 : Fin 48)).nl with pc := 0xFF0, slot := none, rep := {}, sync := false } })), by decide +kernel⟩,
    ⟨(47 : Fin 48), ((State.reset.wClocks.setEng (47 : Fin 48) { State.reset.eng (47 : Fin 48) with st := .normal, hist := [], b := [(14, 0x20), (15, 0x03)], load := none, nl := { (State.reset.eng (47 : Fin 48)).nl with pc := 0xFF0, slot := none, rep := {}, sync := false } })), by decide +kernel⟩,
    ⟨(47 : Fin 48), (1 : Fin 15), (0xFE : Byte), ((State.reset.wClocks.setEng (47 : Fin 48) { State.reset.eng (47 : Fin 48) with st := .normal, load := none, nl := { (State.reset.eng (47 : Fin 48)).nl with pc := 0xFF0, slot := none, rep := {}, sync := false } })), by decide +kernel⟩,
    ⟨(47 : Fin 48), (15 : Fin 16), ((State.reset.wClocks.setEng (47 : Fin 48) { State.reset.eng (47 : Fin 48) with st := .normal, load := none, nl := { (State.reset.eng (47 : Fin 48)).nl with pc := 0xFF0, slot := none, rep := {}, sync := false } })), by decide +kernel⟩,
    ⟨(47 : Fin 48), (15 : Fin 16), ((State.reset.wClocks.setEng (47 : Fin 48) { State.reset.eng (47 : Fin 48) with st := .normal, load := none, nl := { (State.reset.eng (47 : Fin 48)).nl with pc := 0xFF0, slot := none, rep := {}, sync := false } })), by decide +kernel⟩,
    ⟨(47 : Fin 48), (255 : Byte), ((State.reset.wClocks.setEng (47 : Fin 48) { State.reset.eng (47 : Fin 48) with st := .normal, load := none, nl := { (State.reset.eng (47 : Fin 48)).nl with pc := 0xFF0, slot := none, rep := {}, sync := false } })), by decide +kernel⟩,
    ⟨(47 : Fin 48), ((State.reset.wClocks.setEng (47 : Fin 48) { State.reset.eng (47 : Fin 48) with st := .normal, load := none, nl := { (State.reset.eng (47 : Fin 48)).nl with pc := 0xFF0, slot := none, rep := {}, sync := false } })), by decide +kernel⟩⟩

/-- Hypotheses of Obligations.ControlTransfersAndPrefixes are met. -/
theorem test_hyps_controlTransfersAndPrefixes_2 :
    (∃ (g : Fin 48) (w : Byte) (s : State), (s.eng g).cur.sync = true ∧ s.storesLeft (0x10 + g) = 0 ∧ s.clocked (3 + g / 8) = true) ∧
    (∃ (g : Fin 48) (s : State), s.admits g insRetc = true) ∧
    (∃ (g : Fin 48) (s : State), s.admits g insJump = true) :=
  ⟨⟨(47 : Fin 48), (3 : Byte), ((State.reset.wClocks.setEng (47 : Fin 48) { State.reset.eng (47 : Fin 48) with st := .normal, load := none, nl := { (State.reset.eng (47 : Fin 48)).nl with pc := 0xFF0, slot := none, rep := {}, sync := true } })), by decide +kernel⟩,
    ⟨(47 : Fin 48), ((State.reset.wClocks.setEng (47 : Fin 48) { State.reset.eng (47 : Fin 48) with st := .normal, load := none, nl := { (State.reset.eng (47 : Fin 48)).nl with pc := 0xFF0, slot := none, rep := {}, sync := false } })), by decide +kernel⟩,
    ⟨(47 : Fin 48), ((State.reset.wClocks.setEng (47 : Fin 48) { State.reset.eng (47 : Fin 48) with st := .normal, load := none, nl := { (State.reset.eng (47 : Fin 48)).nl with pc := 0xFF0, slot := none, rep := {}, sync := false } })), by decide +kernel⟩⟩

/-- Hypotheses of Obligations.LoadsFillRegisters are met. -/
theorem test_hyps_loadsFillRegisters :
    (∃ (g : Fin 48) (d : Fin 16) (a : BitVec 16) (w : Byte) (s : State), s.admits g insAbs = true ∧ (s.eng g).load = none ∧ s.memFault g (a.toNat) 1 false = none) ∧
    (∃ (g : Fin 48) (d : Fin 16) (p : Fin 8) (w : Byte) (s : State), s.admits g insAlu = true ∧ (s.eng g).load = none ∧ s.memFault g (s.pR g p roAddr) 1 false = none) ∧
    (∃ (g : Fin 48) (d : Fin 16) (p : Fin 8) (w : Byte) (s : State), s.admits g insAlu = true ∧ (s.eng g).load = none ∧ s.memFault g (s.pR g p roAddr) 1 (p = 7) = none) ∧
    (∃ (g : Fin 48) (d : Fin 16) (p : Fin 8) (w : Byte) (s : State), s.admits g insAlu = true ∧ (s.eng g).load = none ∧ s.memFault g ((s.pR g p roAddr + 0xFFFF) % 0x10000) 1 false = none) ∧
    (∃ (g : Fin 48) (d : Fin 16) (p : Fin 8) (w : Byte) (s : State), s.admits g insAlu = true ∧ (s.eng g).load = none ∧ s.memFault g ((s.pR g p roAddr + s.bR g 0 roAddr) % 0x10000) 1 false = none) ∧
    (∃ (g : Fin 48) (d : Fin 16) (p : Fin 8) (u : Fin 16) (w : Byte) (s : State), s.admits g insAlu = true ∧ (s.eng g).load = none ∧ s.memFault g ((s.pR g p roAddr + u) % 0x10000) 1 false = none) ∧
    (∃ (g : Fin 48) (p : Fin 8) (q : Fin 8) (w : Byte) (s : State), s.admits g insAlu = true ∧ (s.eng g).load = none ∧ s.memFault g (s.pR g q roAddr - s.pR g q roAddr % 2) 2 false = none) ∧
    (∃ (g : Fin 48) (p : Fin 8) (q : Fin 8) (w : Byte) (s : State), s.admits g insAlu = true ∧ (s.eng g).load = none ∧ s.memFault g (s.pR g q roAddr - s.pR g q roAddr % 2) 2 false = none) ∧
    (∃ (g : Fin 48) (p : Fin 8) (s : State), s.admits g insAlu = true ∧ (s.eng g).load = none ∧ s.memFault g (s.pR g 7 roAddr - s.pR g 7 roAddr % 2) 2 true = none) ∧
    (∃ (g : Fin 48) (q : Fin 4) (p : Fin 8) (w : Byte) (s : State), s.admits g insQuad = true ∧ (s.eng g).load = none ∧ s.memFault g (s.pR g p roAddr - s.pR g p roAddr % 4) 4 false = none) ∧
    (∃ (g : Fin 48) (w : Byte) (x : EngLoad) (d : List Byte) (s : State), (s.eng g).load = some x ∧ x.data = some d ∧ x.what ≠ 3 ∧ x.dst.length = d.length ∧ x.dst.Nodup) ∧
    (∃ (g : Fin 48) (w : Byte) (x : EngLoad) (d : List Byte) (s : State), (s.eng g).load = some x ∧ x.data = some d ∧ x.what = 3) :=
  ⟨⟨(47 : Fin 48), (15 : Fin 16), (0x2010 : BitVec 16), (2 : Byte), ((State.reset.wClocks.setEng (47 : Fin 48) { State.reset.eng (47 : Fin 48) with st := .normal, load := none, nl := { (State.reset.eng (47 : Fin 48)).nl with pc := 0xFF0, slot := none, rep := {}, sync := false } })), by decide +kernel⟩,
    ⟨(47 : Fin 48), (15 : Fin 16), (3 : Fin 8), (2 : Byte), ((State.reset.wClocks.setEng (47 : Fin 48) { State.reset.eng (47 : Fin 48) with st := .normal, load := none, nl := { (State.reset.eng (47 : Fin 48)).nl with pc := 0xFF0, slot := none, rep := {}, sync := false } })), by decide +kernel⟩,
    ⟨(47 : Fin 48), (15 : Fin 16), (3 : Fin 8), (2 : Byte), ((State.reset.wClocks.setEng (47 : Fin 48) { State.reset.eng (47 : Fin 48) with st := .normal, load := none, nl := { (State.reset.eng (47 : Fin 48)).nl with pc := 0xFF0, slot := none, rep := {}, sync := false } })), by decide +kernel⟩,
    ⟨(47 : Fin 48), (15 : Fin 16), (3 : Fin 8), (2 : Byte), ((State.reset.wClocks.setEng (47 : Fin 48) { State.reset.eng (47 : Fin 48) with st := .normal, load := none, nl := { (State.reset.eng (47 : Fin 48)).nl with pc := 0xFF0, slot := none, rep := {}, sync := false } })), by decide +kernel⟩,
    ⟨(47 : Fin 48), (15 : Fin 16), (3 : Fin 8), (2 : Byte), ((State.reset.wClocks.setEng (47 : Fin 48) { State.reset.eng (47 : Fin 48) with st := .normal, load := none, nl := { (State.reset.eng (47 : Fin 48)).nl with pc := 0xFF0, slot := none, rep := {}, sync := false } })), by decide +kernel⟩,
    ⟨(47 : Fin 48), (15 : Fin 16), (3 : Fin 8), (9 : Fin 16), (2 : Byte), ((State.reset.wClocks.setEng (47 : Fin 48) { State.reset.eng (47 : Fin 48) with st := .normal, load := none, nl := { (State.reset.eng (47 : Fin 48)).nl with pc := 0xFF0, slot := none, rep := {}, sync := false } })), by decide +kernel⟩,
    ⟨(47 : Fin 48), (3 : Fin 8), (4 : Fin 8), (2 : Byte), ((State.reset.wClocks.setEng (47 : Fin 48) { State.reset.eng (47 : Fin 48) with st := .normal, load := none, nl := { (State.reset.eng (47 : Fin 48)).nl with pc := 0xFF0, slot := none, rep := {}, sync := false } })), by decide +kernel⟩,
    ⟨(47 : Fin 48), (3 : Fin 8), (4 : Fin 8), (2 : Byte), ((State.reset.wClocks.setEng (47 : Fin 48) { State.reset.eng (47 : Fin 48) with st := .normal, load := none, nl := { (State.reset.eng (47 : Fin 48)).nl with pc := 0xFF0, slot := none, rep := {}, sync := false } })), by decide +kernel⟩,
    ⟨(47 : Fin 48), (3 : Fin 8), ((State.reset.wClocks.setEng (47 : Fin 48) { State.reset.eng (47 : Fin 48) with st := .normal, load := none, nl := { (State.reset.eng (47 : Fin 48)).nl with pc := 0xFF0, slot := none, rep := {}, sync := false } })), by decide +kernel⟩,
    ⟨(47 : Fin 48), (3 : Fin 4), (3 : Fin 8), (2 : Byte), ((State.reset.wClocks.setEng (47 : Fin 48) { State.reset.eng (47 : Fin 48) with st := .normal, load := none, nl := { (State.reset.eng (47 : Fin 48)).nl with pc := 0xFF0, slot := none, rep := {}, sync := false } })), by decide +kernel⟩,
    ⟨(47 : Fin 48), (2 : Byte), ({ urgent := true, dst := [4, 21], data := some [7#8, 9#8] } : EngLoad), ([7#8, 9#8] : List Byte), ((State.reset.wClocks.setEng (47 : Fin 48) { State.reset.eng (47 : Fin 48) with load := some ({ urgent := true, dst := [4, 21], data := some [7#8, 9#8] } : EngLoad) })), by decide +kernel⟩,
    ⟨(47 : Fin 48), (2 : Byte), ({ urgent := true, what := 3, at_ := localAt 47 + 16, data := some [7#8, 9#8] } : EngLoad), ([7#8, 9#8] : List Byte), ((State.reset.wClocks.setEng (47 : Fin 48) { State.reset.eng (47 : Fin 48) with load := some ({ urgent := true, what := 3, at_ := localAt 47 + 16, data := some [7#8, 9#8] } : EngLoad) })), by decide +kernel⟩⟩

/-- Hypotheses of Obligations.StoresWriteTheirBytes are met. -/
theorem test_hyps_storesWriteTheirBytes :
    (∃ (g : Fin 48) (r : Fin 16) (a : BitVec 16) (w : Byte) (s : State), s.admits g insAbs = true ∧ s.storesPending (0x10 + g) < 4 ∧ s.memFault g (a.toNat) 1 false = none) ∧
    (∃ (g : Fin 48) (r : Fin 16) (p : Fin 8) (w : Byte) (s : State), s.admits g insAlu = true ∧ s.storesPending (0x10 + g) < 4 ∧ s.memFault g (s.pR g p roAddr) 1 false = none) ∧
    (∃ (g : Fin 48) (r : Fin 16) (p : Fin 8) (w : Byte) (s : State), s.admits g insAlu = true ∧ s.storesPending (0x10 + g) < 4 ∧ s.memFault g (s.pR g p roAddr) 1 false = none) ∧
    (∃ (g : Fin 48) (r : Fin 16) (p : Fin 8) (w : Byte) (s : State), s.admits g insAlu = true ∧ s.storesPending (0x10 + g) < 4 ∧ s.memFault g ((s.pR g p roAddr + 0xFFFF) % 0x10000) 1 (p = 7) = none) ∧
    (∃ (g : Fin 48) (r : Fin 16) (p : Fin 8) (w : Byte) (s : State), s.admits g insAlu = true ∧ s.storesPending (0x10 + g) < 4 ∧ s.memFault g ((s.pR g p roAddr + s.bR g 0 roAddr) % 0x10000) 1 false = none) ∧
    (∃ (g : Fin 48) (r : Fin 16) (p : Fin 8) (u : Fin 16) (w : Byte) (s : State), s.admits g insAlu = true ∧ s.storesPending (0x10 + g) < 4 ∧ s.memFault g ((s.pR g p roAddr + u) % 0x10000) 1 false = none) ∧
    (∃ (g : Fin 48) (p : Fin 8) (q : Fin 8) (w : Byte) (s : State), s.admits g insAlu = true ∧ s.storesPending (0x10 + g) < 4 ∧ s.memFault g (s.pR g q roAddr - s.pR g q roAddr % 2) 2 false = none) ∧
    (∃ (g : Fin 48) (p : Fin 8) (q : Fin 8) (w : Byte) (s : State), s.admits g insAlu = true ∧ s.storesPending (0x10 + g) < 4 ∧ s.memFault g (s.pR g q roAddr - s.pR g q roAddr % 2) 2 false = none) ∧
    (∃ (g : Fin 48) (q : Fin 4) (p : Fin 8) (w : Byte) (s : State), s.admits g insQuad = true ∧ s.storesPending (0x10 + g) < 4 ∧ s.memFault g (s.pR g p roAddr - s.pR g p roAddr % 4) 4 false = none) ∧
    (∃ (g : Fin 48) (p : Fin 8) (s : State), s.admits g insAlu = true ∧ (s.pR g 7 roAddr + 0xFFFE) % 0x10000 < 0x1000) :=
  ⟨⟨(47 : Fin 48), (15 : Fin 16), (0x2010 : BitVec 16), (2 : Byte), ((State.reset.wClocks.setEng (47 : Fin 48) { State.reset.eng (47 : Fin 48) with st := .normal, load := none, nl := { (State.reset.eng (47 : Fin 48)).nl with pc := 0xFF0, slot := none, rep := {}, sync := false } })), by decide +kernel⟩,
    ⟨(47 : Fin 48), (15 : Fin 16), (3 : Fin 8), (2 : Byte), ((State.reset.wClocks.setEng (47 : Fin 48) { State.reset.eng (47 : Fin 48) with st := .normal, load := none, nl := { (State.reset.eng (47 : Fin 48)).nl with pc := 0xFF0, slot := none, rep := {}, sync := false } })), by decide +kernel⟩,
    ⟨(47 : Fin 48), (15 : Fin 16), (3 : Fin 8), (2 : Byte), ((State.reset.wClocks.setEng (47 : Fin 48) { State.reset.eng (47 : Fin 48) with st := .normal, load := none, nl := { (State.reset.eng (47 : Fin 48)).nl with pc := 0xFF0, slot := none, rep := {}, sync := false } })), by decide +kernel⟩,
    ⟨(47 : Fin 48), (15 : Fin 16), (3 : Fin 8), (2 : Byte), ((State.reset.wClocks.setEng (47 : Fin 48) { State.reset.eng (47 : Fin 48) with st := .normal, load := none, nl := { (State.reset.eng (47 : Fin 48)).nl with pc := 0xFF0, slot := none, rep := {}, sync := false } })), by decide +kernel⟩,
    ⟨(47 : Fin 48), (15 : Fin 16), (3 : Fin 8), (2 : Byte), ((State.reset.wClocks.setEng (47 : Fin 48) { State.reset.eng (47 : Fin 48) with st := .normal, load := none, nl := { (State.reset.eng (47 : Fin 48)).nl with pc := 0xFF0, slot := none, rep := {}, sync := false } })), by decide +kernel⟩,
    ⟨(47 : Fin 48), (15 : Fin 16), (3 : Fin 8), (9 : Fin 16), (2 : Byte), ((State.reset.wClocks.setEng (47 : Fin 48) { State.reset.eng (47 : Fin 48) with st := .normal, load := none, nl := { (State.reset.eng (47 : Fin 48)).nl with pc := 0xFF0, slot := none, rep := {}, sync := false } })), by decide +kernel⟩,
    ⟨(47 : Fin 48), (3 : Fin 8), (4 : Fin 8), (2 : Byte), ((State.reset.wClocks.setEng (47 : Fin 48) { State.reset.eng (47 : Fin 48) with st := .normal, load := none, nl := { (State.reset.eng (47 : Fin 48)).nl with pc := 0xFF0, slot := none, rep := {}, sync := false } })), by decide +kernel⟩,
    ⟨(47 : Fin 48), (3 : Fin 8), (4 : Fin 8), (2 : Byte), ((State.reset.wClocks.setEng (47 : Fin 48) { State.reset.eng (47 : Fin 48) with st := .normal, load := none, nl := { (State.reset.eng (47 : Fin 48)).nl with pc := 0xFF0, slot := none, rep := {}, sync := false } })), by decide +kernel⟩,
    ⟨(47 : Fin 48), (3 : Fin 4), (3 : Fin 8), (2 : Byte), ((State.reset.wClocks.setEng (47 : Fin 48) { State.reset.eng (47 : Fin 48) with st := .normal, load := none, nl := { (State.reset.eng (47 : Fin 48)).nl with pc := 0xFF0, slot := none, rep := {}, sync := false } })), by decide +kernel⟩,
    ⟨(47 : Fin 48), (7 : Fin 8), ((State.reset.wClocks.setEng (47 : Fin 48) { State.reset.eng (47 : Fin 48) with st := .normal, hist := [], b := [(14, 0x20), (15, 0x03)], load := none, nl := { (State.reset.eng (47 : Fin 48)).nl with pc := 0xFF0, slot := none, rep := {}, sync := false } })), by decide +kernel⟩⟩

/-- Hypotheses of Obligations.AtomicsCuesTimersAndBanks are met. -/
theorem test_hyps_atomicsCuesTimersAndBanks_1 :
    (∃ (g : Fin 48) (d : Fin 16) (p : Fin 8) (w : Byte) (s : State), s.admits g insTwo = true ∧ (s.eng g).load = none) ∧
    (∃ (g : Fin 48) (d : Fin 16) (p : Fin 8) (w : Byte) (s : State), s.admits g insTwo = true ∧ (s.eng g).load = none) ∧
    (∃ (g : Fin 48) (k : Fin 3) (p : Fin 8) (q : Fin 8) (w : Byte) (s : State), s.admits g { rpti := true } = true ∧ (s.eng g).load = none ∧ alignTo (2 ^ (k.val + 2)) (s.pR g p roAddr) + 2 ^ (k.val + 2) ≤ 0x1000 ∧ (0x2000 ≤ s.pR g q roAddr ∧ s.pR g q roAddr < 0xF000)) ∧
    (∃ (g : Fin 48) (pwm : Bool) (x : Fin 16) (p : Fin 8) (q : Fin 8) (w : Byte) (s : State), s.admits g insOne = true ∧ (s.exec.all (fun r => r.init = 0 || (r.init - 0x10) / 8 ≠ g.val / 8) = true)) ∧
    (∃ (r : ExecReq) (l : List ExecReq) (s : State), s.exec = r :: l) ∧
    (∃ (g : Fin 48) (x : Fin 16) (p : Fin 8) (q : Fin 8) (w : Byte) (s : State), s.admits g insOne = true ∧ isEngine (s.bR g x roData) = true ∧ s.crewPresent ((s.bR g x roData - 0x10) / 8) = true) ∧
    (∃ (g : Fin 48) (x : Fin 16) (p : Fin 8) (q : Fin 8) (w : Byte) (s : State), s.admits g insOne = true ∧ (isEngine (s.bR g x roData) = false ∨ s.crewPresent ((s.bR g x roData - 0x10) / 8) = false)) ∧
    (∃ (g : Fin 48) (c : Cue) (q : List Cue) (s : State), (s.eng g).st = .waiting ∧ takeCue true (s.eng g).queue = some (c, q) ∧ (s.eng g).vector c.cls ≠ 0xFFFF ∧ s.clocked (3 + g / 8) = true) ∧
    (∃ (g : Fin 48) (c : Cue) (q : List Cue) (s : State), (s.eng g).st = .waiting ∧ takeCue true (s.eng g).queue = none ∧ takeCue false (s.eng g).queue = some (c, q) ∧ (s.eng g).vector c.cls ≠ 0xFFFF ∧ s.clocked (3 + g / 8) = true) ∧
    (∃ (g : Fin 48) (c : Cue) (q : List Cue) (s : State), (s.eng g).st = .normal ∧ (s.eng g).boundary = true ∧ takeCue true (s.eng g).queue = some (c, q) ∧ (s.eng g).vector c.cls ≠ 0xFFFF ∧ s.clocked (3 + g / 8) = true) ∧
    (∃ (g : Fin 48) (c : Cue) (q : List Cue) (s : State), ((s.eng g).st = .waiting ∨ (s.eng g).st = .normal ∧ (s.eng g).boundary = true) ∧ takeCue true (s.eng g).queue = some (c, q) ∧ (s.eng g).vector c.cls = 0xFFFF ∧ s.clocked (3 + g / 8) = true) ∧
    (∃ (g : Fin 48) (n : Fin 4) (s : State), ((s.eng g).timer n).en = true ∧ s.clocked (3 + g / 8) = true) :=
  ⟨⟨(47 : Fin 48), (15 : Fin 16), (3 : Fin 8), (2 : Byte), ((State.reset.wClocks.setEng (47 : Fin 48) { State.reset.eng (47 : Fin 48) with st := .normal, load := none, nl := { (State.reset.eng (47 : Fin 48)).nl with pc := 0xFF0, slot := none, rep := {}, sync := false } })), by decide +kernel⟩,
    ⟨(47 : Fin 48), (15 : Fin 16), (3 : Fin 8), (2 : Byte), ((State.reset.wClocks.setEng (47 : Fin 48) { State.reset.eng (47 : Fin 48) with st := .normal, load := none, nl := { (State.reset.eng (47 : Fin 48)).nl with pc := 0xFF0, slot := none, rep := {}, sync := false } })), by decide +kernel⟩,
    ⟨(47 : Fin 48), (2 : Fin 3), (3 : Fin 8), (4 : Fin 8), (2 : Byte), ((State.reset.wClocks.setEng (47 : Fin 48) { State.reset.eng (47 : Fin 48) with st := .normal, hist := [], b := [(8, 0x20), (9, 0x33)], load := none, nl := { (State.reset.eng (47 : Fin 48)).nl with pc := 0xFF0, slot := none, rep := {}, sync := false } })), by decide +kernel⟩,
    ⟨(47 : Fin 48), (true : Bool), (3 : Fin 16), (3 : Fin 8), (4 : Fin 8), (2 : Byte), ({ State.reset.wClocks with exec := State.reset.exec.filter (fun r => r.init = 0) }.setEng (47 : Fin 48) { State.reset.eng (47 : Fin 48) with st := .normal, load := none, nl := { (State.reset.eng (47 : Fin 48)).nl with pc := 0xFF0, slot := none, rep := {}, sync := false } }), by decide +kernel⟩,
    ⟨({ init := 0x10, ch := 5, value := 1 } : ExecReq), ([] : List ExecReq), { State.reset with exec := ({ init := 0x10, ch := 5, value := 1 } : ExecReq) :: ([] : List ExecReq) }, by decide +kernel⟩,
    ⟨(47 : Fin 48), (8 : Fin 16), (3 : Fin 8), (4 : Fin 8), (2 : Byte), ((State.reset.wClocks.setEng (47 : Fin 48) { State.reset.eng (47 : Fin 48) with st := .normal, hist := [], b := [(8, 0x20), (9, 0x33)], load := none, nl := { (State.reset.eng (47 : Fin 48)).nl with pc := 0xFF0, slot := none, rep := {}, sync := false } })), by decide +kernel⟩,
    ⟨(47 : Fin 48), (8 : Fin 16), (3 : Fin 8), (4 : Fin 8), (2 : Byte), ((State.reset.wClocks.setEng (47 : Fin 48) { State.reset.eng (47 : Fin 48) with st := .normal, load := none, nl := { (State.reset.eng (47 : Fin 48)).nl with pc := 0xFF0, slot := none, rep := {}, sync := false } })), by decide +kernel⟩,
    ⟨(47 : Fin 48), ({ cls := 1, urgent := true } : Cue), ([] : List Cue), (State.reset.wClocks.setEng (47 : Fin 48) { State.reset.eng (47 : Fin 48) with vec := [(({ cls := 1, urgent := true } : Cue).cls, 0x123)], st := .waiting, queue := ({ cls := 1, urgent := true } : Cue) :: ([] : List Cue), nl := { (State.reset.eng (47 : Fin 48)).nl with slot := none, sync := false, rep := {} } }), by decide +kernel⟩,
    ⟨(47 : Fin 48), ({ cls := 1 } : Cue), ([] : List Cue), (State.reset.wClocks.setEng (47 : Fin 48) { State.reset.eng (47 : Fin 48) with vec := [(({ cls := 1 } : Cue).cls, 0x123)], st := .waiting, queue := ({ cls := 1 } : Cue) :: ([] : List Cue), nl := { (State.reset.eng (47 : Fin 48)).nl with slot := none, sync := false, rep := {} } }), by decide +kernel⟩,
    ⟨(47 : Fin 48), ({ cls := 1, urgent := true } : Cue), ([] : List Cue), (State.reset.wClocks.setEng (47 : Fin 48) { State.reset.eng (47 : Fin 48) with vec := [(({ cls := 1, urgent := true } : Cue).cls, 0x123)], st := .normal, queue := ({ cls := 1, urgent := true } : Cue) :: ([] : List Cue), nl := { (State.reset.eng (47 : Fin 48)).nl with slot := none, sync := false, rep := {} } }), by decide +kernel⟩,
    ⟨(47 : Fin 48), ({ cls := 1, urgent := true } : Cue), ([] : List Cue), (State.reset.wClocks.setEng (47 : Fin 48) { State.reset.eng (47 : Fin 48) with vec := [], st := .waiting, queue := ({ cls := 1, urgent := true } : Cue) :: ([] : List Cue), nl := { (State.reset.eng (47 : Fin 48)).nl with slot := none, sync := false, rep := {} } }), by decide +kernel⟩,
    ⟨(47 : Fin 48), (3 : Fin 4), (State.reset.wClocks.setEng (47 : Fin 48) ((State.reset.eng (47 : Fin 48)).setTimer (3 : Fin 4) { (State.reset.eng (47 : Fin 48)).timer (3 : Fin 4) with en := true })), by decide +kernel⟩⟩

/-- Hypotheses of Obligations.AtomicsCuesTimersAndBanks are met. -/
theorem test_hyps_atomicsCuesTimersAndBanks_2 :
    (∃ (g : Fin 48) (n : Fin 4) (b : Byte) (s : State), (s.eng g).running = true ∧ s.clocked (3 + g / 8) = true) ∧
    (∃ (g : Fin 48) (unit : Bool) (b : Byte) (s : State), (s.eng g).running = true ∧ s.clocked (3 + g / 8) = true) ∧
    (∃ (g : Fin 48) (s : State), (s.eng g).running = true ∧ s.clocked (3 + g / 8) = true) ∧
    (∃ (g : Fin 48) (s : State), (s.eng g).running = true ∧ s.clocked (3 + g / 8) = true) ∧
    (∃ (c : Fin 6) (s : State), s.mayGate c = true) :=
  ⟨⟨(47 : Fin 48), (3 : Fin 4), (0x07 : Byte), ((State.reset.wClocks.setEng (47 : Fin 48) { State.reset.eng (47 : Fin 48) with st := .normal, load := none, nl := { (State.reset.eng (47 : Fin 48)).nl with pc := 0xFF0, slot := none, rep := {}, sync := false } })), by decide +kernel⟩,
    ⟨(47 : Fin 48), (true : Bool), (7 : Byte), ((State.reset.wClocks.setEng (47 : Fin 48) { State.reset.eng (47 : Fin 48) with st := .normal, load := none, nl := { (State.reset.eng (47 : Fin 48)).nl with pc := 0xFF0, slot := none, rep := {}, sync := false } })), by decide +kernel⟩,
    ⟨(47 : Fin 48), ((State.reset.wClocks.setEng (47 : Fin 48) { State.reset.eng (47 : Fin 48) with st := .normal, load := none, nl := { (State.reset.eng (47 : Fin 48)).nl with pc := 0xFF0, slot := none, rep := {}, sync := false } })), by decide +kernel⟩,
    ⟨(47 : Fin 48), ((State.reset.wClocks.setEng (47 : Fin 48) { State.reset.eng (47 : Fin 48) with st := .normal, load := none, nl := { (State.reset.eng (47 : Fin 48)).nl with pc := 0xFF0, slot := none, rep := {}, sync := false } })), by decide +kernel⟩,
    ⟨(5 : Fin 6), ((({ State.reset with gated := [], waiting := [], engs := [] }.setF PWR_STATE_STATE 1).setF (CUE_CREW_CFG_GATE (5 : Fin 6)) 1)), by decide +kernel⟩⟩

/-- Hypotheses of Obligations.CanControlAndQueueWrites are met. -/
theorem test_hyps_canControlAndQueueWrites_1 :
    (∃ (n : Fin 8) (init : Byte) (s : State), s.busPresent n = true ∧ s.canMay n init.toNat = true ∧ s.clocked 11 = true) ∧
    (∃ (n : Fin 8) (init : Byte) (s : State), s.busPresent n = true ∧ s.canMay n init.toNat = true ∧ s.clocked 11 = true) ∧
    (∃ (n : Fin 8) (init : Byte) (s : State), s.busPresent n = true ∧ s.canMay n init.toNat = true ∧ s.clocked 11 = true) ∧
    (∃ (n : Fin 8) (init : Byte) (s : State), s.busPresent n = true ∧ s.canMay n init.toNat = true ∧ s.f (CAN_STAT_ESTATE n) = 2 ∧ s.on (CAN_CFG_AUTO_REC n) = false ∧ s.on (CAN_STAT_RECOVERING n) = false ∧ s.clocked 11 = true) ∧
    (∃ (n : Fin 8) (init : Byte) (s : State), s.busPresent n = true ∧ s.canMay n init.toNat = true ∧ s.clocked 11 = true ∧ s.boot.xtalBad = false) ∧
    (∃ (n : Fin 8) (init : Byte) (s : State), s.busPresent n = true ∧ s.canMay n init.toNat = true ∧ s.clocked 11 = true ∧ s.boot.xtalBad = false) ∧
    (∃ (n : Fin 8) (init : Byte) (s : State), s.busPresent n = true ∧ s.canMay n init.toNat = true ∧ s.clocked 11 = true ∧ s.boot.xtalBad = false) ∧
    (∃ (n : Fin 8) (init : Byte) (s : State), s.busPresent n = true ∧ s.canMay n init.toNat = true ∧ s.clocked 11 = true ∧ s.boot.xtalBad = false) ∧
    (∃ (n : Fin 8) (init : Byte) (s : State), s.busPresent n = true ∧ s.canMay n init.toNat = false ∧ s.clocked 11 = true) ∧
    (∃ (n : Fin 8) (init : Byte) (s : State), s.busPresent n = true ∧ s.canMay n init.toNat = false ∧ s.clocked 11 = true) ∧
    (∃ (n : Fin 8) (init : Byte) (s : State), s.busPresent n = true ∧ s.canMay n init.toNat = false ∧ s.clocked 11 = true) ∧
    (∃ (n : Fin 8) (init : Byte) (s : State), s.busPresent n = true ∧ s.canMay n init.toNat = false ∧ s.clocked 11 = true) :=
  ⟨⟨(3 : Fin 8), (8 : Byte), State.reset.wClocks, by decide +kernel⟩,
    ⟨(3 : Fin 8), (8 : Byte), State.reset.wClocks, by decide +kernel⟩,
    ⟨(3 : Fin 8), (8 : Byte), State.reset.wClocks, by decide +kernel⟩,
    ⟨(3 : Fin 8), (8 : Byte), ((State.reset.wClocks.setF (CAN_STAT_ESTATE (3 : Fin 8)) 2).setF (CAN_CFG_AUTO_REC (3 : Fin 8)) 0).setF (CAN_STAT_RECOVERING (3 : Fin 8)) 0, by decide +kernel⟩,
    ⟨(3 : Fin 8), (8 : Byte), State.reset.wClocks, by decide +kernel⟩,
    ⟨(3 : Fin 8), (8 : Byte), State.reset.wClocks, by decide +kernel⟩,
    ⟨(3 : Fin 8), (8 : Byte), State.reset.wClocks, by decide +kernel⟩,
    ⟨(3 : Fin 8), (8 : Byte), State.reset.wClocks, by decide +kernel⟩,
    ⟨(3 : Fin 8), (0x20 : Byte), State.reset.wClocks, by decide +kernel⟩,
    ⟨(3 : Fin 8), (0x20 : Byte), State.reset.wClocks, by decide +kernel⟩,
    ⟨(3 : Fin 8), (0x20 : Byte), State.reset.wClocks, by decide +kernel⟩,
    ⟨(3 : Fin 8), (0x20 : Byte), State.reset.wClocks, by decide +kernel⟩⟩

/-- Hypotheses of Obligations.CanControlAndQueueWrites are met. -/
theorem test_hyps_canControlAndQueueWrites_2 :
    (∃ (n : Fin 8) (init : Byte) (s : State), s.busPresent n = true ∧ s.canMay n init.toNat = false ∧ s.clocked 11 = true) ∧
    (∃ (n : Fin 8) (init : Byte) (s : State), s.busPresent n = true ∧ s.canMay n init.toNat = false ∧ s.clocked 11 = true) ∧
    (∃ (n : Fin 8) (init : Byte) (s : State), s.busPresent n = true ∧ s.canMay n init.toNat = false ∧ s.clocked 11 = true) ∧
    (∃ (n : Fin 8) (init : Byte) (s : State), s.busPresent n = true ∧ s.canMay n init.toNat = false ∧ s.clocked 11 = true) ∧
    (∃ (n : Fin 8) (k : Fin 32) (init : Byte) (s : State), s.busPresent n = true ∧ (isStr init.toNat || (s.canOwner n k = init.toNat && init ≠ 0xFF)) = true ∧ s.canHw n k = false ∧ s.ceBad n k = false ∧ s.clocked 11 = true) ∧
    (∃ (n : Fin 8) (k : Fin 32) (init : Byte) (s : State), s.busPresent n = true ∧ (isStr init.toNat || (s.canOwner n k = init.toNat && init ≠ 0xFF)) = true ∧ 4 ≤ s.mf (ceSTATE n k) ∧ s.clocked 11 = true) ∧
    (∃ (n : Fin 8) (k : Fin 32) (init : Byte) (s : State), s.busPresent n = true ∧ (isStr init.toNat || (s.canOwner n k = init.toNat && init ≠ 0xFF)) = true ∧ s.canHw n k = true ∧ s.clocked 11 = true) ∧
    (∃ (n : Fin 8) (k : Fin 32) (init : Byte) (s : State), s.busPresent n = true ∧ (isStr init.toNat || (s.canOwner n k = init.toNat && init ≠ 0xFF)) = false ∧ s.clocked 11 = true) ∧
    (∃ (n : Fin 8) (k : Fin 32) (init : Byte) (s : State), s.busPresent n = true ∧ (isStr init.toNat || (s.canOwner n k = init.toNat && init ≠ 0xFF)) = false ∧ s.clocked 11 = true) ∧
    (∃ (n : Fin 8) (k : Fin 32) (init : Byte) (s : State), s.busPresent n = true ∧ (isStr init.toNat || (s.canOwner n k = init.toNat && init ≠ 0xFF)) = false ∧ s.clocked 11 = true) ∧
    (∃ (n : Fin 8) (k : Fin 32) (init : Byte) (s : State), s.busPresent n = true ∧ (isStr init.toNat || (s.canOwner n k = init.toNat && init ≠ 0xFF)) = true ∧ s.canHw n k = true ∧ s.clocked 11 = true) ∧
    (∃ (n : Fin 8) (k : Fin 32) (init : Byte) (s : State), s.busPresent n = true ∧ (isStr init.toNat || (s.canOwner n k = init.toNat && init ≠ 0xFF)) = true ∧ s.canHw n k = true ∧ s.clocked 11 = true) :=
  ⟨⟨(3 : Fin 8), (0x20 : Byte), State.reset.wClocks, by decide +kernel⟩,
    ⟨(3 : Fin 8), (0x20 : Byte), State.reset.wClocks, by decide +kernel⟩,
    ⟨(3 : Fin 8), (0x20 : Byte), State.reset.wClocks, by decide +kernel⟩,
    ⟨(3 : Fin 8), (0x20 : Byte), State.reset.wClocks, by decide +kernel⟩,
    ⟨(3 : Fin 8), (31 : Fin 32), (8 : Byte), (State.reset.wClocks.wrN (canE (3 : Fin 8) (31 : Fin 32)) 4 (4)).wrN (canE (3 : Fin 8) (31 : Fin 32) + 4) 8 (if (State.reset.mf (ceID (3 : Fin 8) (31 : Fin 32))) % 2 = 0 then 0x123 else 0), by decide +kernel⟩,
    ⟨(3 : Fin 8), (31 : Fin 32), (8 : Byte), (State.reset.wClocks.wrN (canE (3 : Fin 8) (31 : Fin 32)) 4 (4)).wrN (canE (3 : Fin 8) (31 : Fin 32) + 4) 8 (if (State.reset.mf (ceID (3 : Fin 8) (31 : Fin 32))) % 2 = 0 then 0x123 else 0), by decide +kernel⟩,
    ⟨(3 : Fin 8), (31 : Fin 32), (8 : Byte), (State.reset.wClocks.wrN (canE (3 : Fin 8) (31 : Fin 32)) 4 (if State.reset.free % 2 = 0 then 1 else 2 + State.reset.free % 3 / 2)).wrN (canE (3 : Fin 8) (31 : Fin 32) + 4) 8 (if (State.reset.mf (ceID (3 : Fin 8) (31 : Fin 32))) % 2 = 0 then 0x123 else 0), by decide +kernel⟩,
    ⟨(3 : Fin 8), (31 : Fin 32), (0x20 : Byte), State.reset.wClocks, by decide +kernel⟩,
    ⟨(3 : Fin 8), (31 : Fin 32), (0x20 : Byte), State.reset.wClocks, by decide +kernel⟩,
    ⟨(3 : Fin 8), (31 : Fin 32), (0x20 : Byte), State.reset.wClocks, by decide +kernel⟩,
    ⟨(3 : Fin 8), (31 : Fin 32), (8 : Byte), (State.reset.wClocks.wrN (canE (3 : Fin 8) (31 : Fin 32)) 4 (1)).wrN (canE (3 : Fin 8) (31 : Fin 32) + 4) 8 (if (State.reset.mf (ceID (3 : Fin 8) (31 : Fin 32))) % 2 = 0 then 0x123 else 0), by decide +kernel⟩,
    ⟨(3 : Fin 8), (31 : Fin 32), (8 : Byte), (State.reset.wClocks.wrN (canE (3 : Fin 8) (31 : Fin 32)) 4 (1)).wrN (canE (3 : Fin 8) (31 : Fin 32) + 4) 8 (if (State.reset.mf (ceID (3 : Fin 8) (31 : Fin 32))) % 2 = 0 then 0x123 else 0), by decide +kernel⟩⟩

/-- Hypotheses of Obligations.CanControlAndQueueWrites are met. -/
theorem test_hyps_canControlAndQueueWrites_3 :
    (∃ (n : Fin 8) (k : Fin 32) (init : Byte) (s : State), s.busPresent n = true ∧ (isStr init.toNat || (s.canOwner n k = init.toNat && init ≠ 0xFF)) = true ∧ s.mf (ceSTATE n k) = 0 ∧ s.clocked 11 = true) ∧
    (∃ (n : Fin 8) (k : Fin 32) (init : Byte) (s : State), s.busPresent n = true ∧ (isStr init.toNat || (s.canOwner n k = init.toNat && init ≠ 0xFF)) = true ∧ s.canHw n k = false ∧ s.ceBad n k = true ∧ s.clocked 11 = true) :=
  ⟨⟨(3 : Fin 8), (31 : Fin 32), (8 : Byte), (State.reset.wClocks.wrN (canE (3 : Fin 8) (31 : Fin 32)) 4 (0)).wrN (canE (3 : Fin 8) (31 : Fin 32) + 4) 8 (if (State.reset.mf (ceID (3 : Fin 8) (31 : Fin 32))) % 2 = 0 then 0x123 else 0), by decide +kernel⟩,
    ⟨(3 : Fin 8), (31 : Fin 32), (8 : Byte), ((State.reset.wClocks.setF (CAN_CFG_FD_EN (3 : Fin 8)) 0).wrN (canE (3 : Fin 8) (31 : Fin 32)) 4 0).wrN (canE (3 : Fin 8) (31 : Fin 32) + 8) 4 0x10, by decide +kernel⟩⟩

/-- Hypotheses of Obligations.CanAttemptsErrorsAndRecovery are met. -/
theorem test_hyps_canAttemptsErrorsAndRecovery :
    (∃ (n : Fin 8) (tdcv : BitVec 12) (s : State), s.canSends n = true ∧ (s.can n).cur = none ∧ (leastKey (s.canReady n)).isSome = true ∧ s.clocked 11 = true) ∧
    (∃ (n : Fin 8) (k : Fin 32) (s : State), (s.can n).cur = some k.val ∧ s.clocked 11 = true) ∧
    (∃ (n : Fin 8) (m : List Byte) (s : State), (s.can n).cur = some 32 ∧ (s.can n).nm = some m ∧ m.length = 8 ∧ s.clocked 11 = true) ∧
    (∃ (n : Fin 8) (k : Fin 32) (s : State), (s.can n).cur = some k.val ∧ s.clocked 11 = true) ∧
    (∃ (n : Fin 8) (k : Fin 32) (lec : Fin 8) (field : Fin 8) (dp : Bool) (what : Fin 4) (s : State), (s.can n).mode = mdNORMAL ∧ s.f (CAN_STAT_ESTATE n) ≠ 2 ∧ (s.can n).cur = some k.val ∧ s.clocked 11 = true) ∧
    (∃ (n : Fin 8) (k : Fin 32) (s : State), s.mf (ceSTATE n k) = 3 ∧ s.clocked 11 = true) ∧
    (∃ (n : Fin 8) (s : State), s.on (CAN_STAT_HOLDING n) = true ∧ s.clocked 11 = true) ∧
    (∃ (n : Fin 8) (s : State), s.on (CAN_STAT_RECOVERING n) = true ∧ (s.can n).mode = mdNORMAL ∧ s.clocked 11 = true) :=
  ⟨⟨(3 : Fin 8), (200 : BitVec 12), ((((State.reset.wClocks.setF (CAN_STAT_ESTATE (3 : Fin 8)) 0).setF (CAN_TRX_STAT_STATE (3 : Fin 8)) 0).setF (NM_SEG_CFG0_NM_EN (3 : Fin 8)) 0).setCan (3 : Fin 8) { State.reset.can (3 : Fin 8) with mode := 1, cur := none }).wrN (canE (3 : Fin 8) 7) 4 1, by decide +kernel⟩,
    ⟨(3 : Fin 8), (31 : Fin 32), (((State.reset.wClocks.setF (CAN_STAT_ESTATE (3 : Fin 8)) 0).setF (CAN_TRX_STAT_STATE (3 : Fin 8)) 0).setF (NM_SEG_CFG0_NM_EN (3 : Fin 8)) 0).setCan (3 : Fin 8) { State.reset.can (3 : Fin 8) with mode := 1, cur := some (31 : Fin 32).val }, by decide +kernel⟩,
    ⟨(3 : Fin 8), (List.replicate 8 0 : List Byte), State.reset.wClocks.setCan (3 : Fin 8) { State.reset.can (3 : Fin 8) with mode := 1, cur := some 32, nm := some (List.replicate 8 0 : List Byte) }, by decide +kernel⟩,
    ⟨(3 : Fin 8), (31 : Fin 32), (((State.reset.wClocks.setF (CAN_STAT_ESTATE (3 : Fin 8)) 0).setF (CAN_TRX_STAT_STATE (3 : Fin 8)) 0).setF (NM_SEG_CFG0_NM_EN (3 : Fin 8)) 0).setCan (3 : Fin 8) { State.reset.can (3 : Fin 8) with mode := 1, cur := some (31 : Fin 32).val }, by decide +kernel⟩,
    ⟨(3 : Fin 8), (31 : Fin 32), (4 : Fin 8), (2 : Fin 8), (false : Bool), (0 : Fin 4), ((((State.reset.wClocks.setF (CAN_STAT_ESTATE (3 : Fin 8)) 0).setF (CAN_TRX_STAT_STATE (3 : Fin 8)) 0).setF (NM_SEG_CFG0_NM_EN (3 : Fin 8)) 0).setCan (3 : Fin 8) { State.reset.can (3 : Fin 8) with mode := 1, cur := some (31 : Fin 32).val }).setF (CAN_STAT_TEC (3 : Fin 8)) (State.reset.free * 37 % 256), by decide +kernel⟩,
    ⟨(3 : Fin 8), (31 : Fin 32), State.reset.wClocks.wrN (canE (3 : Fin 8) (31 : Fin 32)) 4 3, by decide +kernel⟩,
    ⟨(3 : Fin 8), State.reset.wClocks.setF (CAN_STAT_HOLDING (3 : Fin 8)) 1, by decide +kernel⟩,
    ⟨(3 : Fin 8), (((((State.reset.wClocks.setF (CAN_STAT_ESTATE (3 : Fin 8)) 0).setF (CAN_TRX_STAT_STATE (3 : Fin 8)) 0).setF (NM_SEG_CFG0_NM_EN (3 : Fin 8)) 0).setCan (3 : Fin 8) { State.reset.can (3 : Fin 8) with mode := 1, cur := none }).setF (CAN_STAT_RECOVERING (3 : Fin 8)) 1), by decide +kernel⟩⟩

/-- Hypotheses of Obligations.CanReceptionWakeAndTransceivers are met. -/
theorem test_hyps_canReceptionWakeAndTransceivers :
    (∃ (n : Fin 8) (f : CanFrame) (s : State), s.canHears n = true ∧ (f.fdf = true → s.on (CAN_CFG_FD_EN n) = true) ∧ s.clocked 11 = true) ∧
    (∃ (n : Fin 8) (lec : Fin 8) (field : Fin 8) (dp : Bool) (what : Fin 4) (s : State), s.canHears n = true ∧ s.clocked 11 = true) ∧
    (∃ (n : Fin 16) (s : State), s.f (trxStateRF n) = trGOING ∧ (s.trxOf n).held = none) ∧
    (∃ (n : Fin 16) (r : Fin 3) (s : State), s.f (trxStateRF n) = trGOING ∧ (s.trxOf n).held = some r.val) ∧
    (∃ (n : Fin 4) (cause : Fin 4) (f : CanFrame) (s : State), s.busPresent n = true ∧ s.detecting n = true ∧ s.wakeHolds n cause f = true) ∧
    (∃ (n : Fin 8) (cause : Fin 4) (f : CanFrame) (s : State), s.busPresent n = true ∧ s.detecting n = true ∧ 4 ≤ n.val ∧ s.f PWR_STATE_STATE = 2) ∧
    (∃ (n : Fin 4) (s : State), s.detecting n = true ∧ s.on (CAN_TRX_CFG_SW_EN n) = true) ∧
    (∃ (n : Fin 4) (err : Bool) (fdf : Bool) (s : State), (s.trxOf n).armed = true) ∧
    (∃ (n : Fin 4) (s : State), s.f (CAN_TRX_STAT_STATE n) = trNORMAL ∧ (s.trxOf n).dom = false) ∧
    (∃ (n : Fin 8) (init : Byte) (s : State), isEngine init.toNat = true ∧ s.f (CAN_ACCESS_CTL_ENGINE n) = init.toNat) :=
  ⟨⟨(3 : Fin 8), ({ id := 5 } : CanFrame), ((State.reset.wClocks.setF (CAN_STAT_ESTATE (3 : Fin 8)) 0).setF (CAN_TRX_STAT_STATE (3 : Fin 8)) 0).setCan (3 : Fin 8) { State.reset.can (3 : Fin 8) with mode := 1 + State.reset.free % 2 }, by decide +kernel⟩,
    ⟨(3 : Fin 8), (4 : Fin 8), (2 : Fin 8), (true : Bool), (1 : Fin 4), ((State.reset.wClocks.setF (CAN_STAT_ESTATE (3 : Fin 8)) 0).setF (CAN_TRX_STAT_STATE (3 : Fin 8)) 0).setCan (3 : Fin 8) { State.reset.can (3 : Fin 8) with mode := 1 + State.reset.free % 2 }, by decide +kernel⟩,
    ⟨(15 : Fin 16), (State.reset.setF (trxStateRF (15 : Fin 16)) 4).setTrxOf (15 : Fin 16) { State.reset.trxOf (15 : Fin 16) with held := none }, by decide +kernel⟩,
    ⟨(15 : Fin 16), (0 : Fin 3), (State.reset.setF (trxStateRF (15 : Fin 16)) 4).setTrxOf (15 : Fin 16) { State.reset.trxOf (15 : Fin 16) with held := some (0 : Fin 3).val }, by decide +kernel⟩,
    ⟨(3 : Fin 4), (1 : Fin 4), ({} : CanFrame), ((State.reset.setF (CAN_TRX_STAT_STATE (3 : Fin 4)) (2 + State.reset.free % 3)).setF (CAN_TRX_CFG_SW_EN (3 : Fin 4)) 0), by decide +kernel⟩,
    ⟨(7 : Fin 8), (1 : Fin 4), ({} : CanFrame), ({ State.reset with variant := .pz7480 }.setF (CAN_TRX_STAT_STATE (7 : Fin 8)) 2).setF PWR_STATE_STATE 2, by decide +kernel⟩,
    ⟨(3 : Fin 4), (State.reset.setF (CAN_TRX_STAT_STATE (3 : Fin 4)) 2).setF (CAN_TRX_CFG_SW_EN (3 : Fin 4)) 1, by decide +kernel⟩,
    ⟨(3 : Fin 4), (true : Bool), (false : Bool), State.reset.setTrxOf (3 : Fin 4) { State.reset.trxOf (3 : Fin 4) with armed := true }, by decide +kernel⟩,
    ⟨(3 : Fin 4), (State.reset.setF (CAN_TRX_STAT_STATE (3 : Fin 4)) 0).setTrxOf (3 : Fin 4) { State.reset.trxOf (3 : Fin 4) with dom := false }, by decide +kernel⟩,
    ⟨(3 : Fin 8), (0x10 : Byte), State.reset.setF (CAN_ACCESS_CTL_ENGINE (3 : Fin 8)) (0x10 : Byte).toNat, by decide +kernel⟩⟩

/-- Hypotheses of Obligations.LinControlSlotsAndResponses are met. -/
theorem test_hyps_linControlSlotsAndResponses_1 :
    (∃ (n : Fin 8) (init : Byte) (x : Fin 4) (s : State), s.busPresent n = true ∧ s.linMay n init.toNat = true ∧ s.clocked 11 = true) ∧
    (∃ (n : Fin 8) (init : Byte) (v : Bool) (s : State), s.busPresent n = true ∧ s.linMay n init.toNat = true ∧ s.clocked 11 = true) ∧
    (∃ (n : Fin 8) (init : Byte) (s : State), s.busPresent n = true ∧ s.linMay n init.toNat = true ∧ s.on (LIN_CFG0_ROLE n) = false ∧ s.clocked 11 = true ∧ s.boot.xtalBad = false) ∧
    (∃ (n : Fin 8) (init : Byte) (s : State), s.busPresent n = true ∧ s.linMay n init.toNat = true ∧ s.clocked 11 = true ∧ s.boot.xtalBad = false) ∧
    (∃ (n : Fin 8) (init : Byte) (r : Fin 4) (s : State), s.busPresent n = true ∧ s.linMay n init.toNat = true ∧ r ≠ 1 ∧ s.clocked 11 = true ∧ s.boot.xtalBad = false) ∧
    (∃ (n : Fin 8) (init : Byte) (s : State), s.linMay n init.toNat = true) ∧
    (∃ (n : Fin 8) (init : Byte) (x : Fin 4) (s : State), s.busPresent n = true ∧ s.linMay n init.toNat = false ∧ s.clocked 11 = true) ∧
    (∃ (n : Fin 8) (init : Byte) (v : Bool) (s : State), s.busPresent n = true ∧ s.linMay n init.toNat = false ∧ s.clocked 11 = true) ∧
    (∃ (n : Fin 8) (init : Byte) (s : State), s.busPresent n = true ∧ s.linMay n init.toNat = false ∧ s.clocked 11 = true) ∧
    (∃ (n : Fin 8) (init : Byte) (s : State), s.busPresent n = true ∧ s.linMay n init.toNat = false ∧ s.clocked 11 = true) ∧
    (∃ (n : Fin 8) (init : Byte) (r : Fin 4) (s : State), s.busPresent n = true ∧ s.linMay n init.toNat = false ∧ s.clocked 11 = true) ∧
    (∃ (n : Fin 8) (init : Byte) (s : State), s.busPresent n = true ∧ s.linMay n init.toNat = true ∧ s.clocked 11 = true) :=
  ⟨⟨(3 : Fin 8), (8 : Byte), (2 : Fin 4), State.reset.wClocks, by decide +kernel⟩,
    ⟨(3 : Fin 8), (8 : Byte), (true : Bool), State.reset.wClocks, by decide +kernel⟩,
    ⟨(3 : Fin 8), (8 : Byte), (State.reset.wClocks.setF (LIN_CFG0_ROLE (3 : Fin 8)) 0).setLin (3 : Fin 8) { State.reset.lin (3 : Fin 8) with slotOn := State.reset.free % 2 = 0 }, by decide +kernel⟩,
    ⟨(3 : Fin 8), (8 : Byte), State.reset.wClocks, by decide +kernel⟩,
    ⟨(3 : Fin 8), (8 : Byte), (3 : Fin 4), State.reset.wClocks, by decide +kernel⟩,
    ⟨(3 : Fin 8), (8 : Byte), State.reset, by decide +kernel⟩,
    ⟨(3 : Fin 8), (0x20 : Byte), (2 : Fin 4), State.reset.wClocks, by decide +kernel⟩,
    ⟨(3 : Fin 8), (0x20 : Byte), (true : Bool), State.reset.wClocks, by decide +kernel⟩,
    ⟨(3 : Fin 8), (0x20 : Byte), State.reset.wClocks, by decide +kernel⟩,
    ⟨(3 : Fin 8), (0x20 : Byte), State.reset.wClocks, by decide +kernel⟩,
    ⟨(3 : Fin 8), (0x20 : Byte), (3 : Fin 4), State.reset.wClocks, by decide +kernel⟩,
    ⟨(3 : Fin 8), (8 : Byte), State.reset.wClocks, by decide +kernel⟩⟩

/-- Hypotheses of Obligations.LinControlSlotsAndResponses are met. -/
theorem test_hyps_linControlSlotsAndResponses_2 :
    (∃ (n : Fin 8) (b : Fin 64) (init : Byte) (s : State), s.busPresent n = true ∧ s.mf (lbDIR n b) = 0 ∧ (isStr init.toNat || (s.mf (lbOWNER n b) = init.toNat && init ≠ 0xFF)) = true ∧ s.clocked 11 = true) ∧
    (∃ (n : Fin 8) (b : Fin 64) (init : Byte) (s : State), s.busPresent n = true ∧ s.mf (lbDIR n b) = 0 ∧ (isStr init.toNat || (s.mf (lbOWNER n b) = init.toNat && init ≠ 0xFF)) = false ∧ s.clocked 11 = true) ∧
    (∃ (n : Fin 8) (s : State), s.on (LIN_CFG0_ROLE n) = false ∧ s.on (LIN_CTL_RUN n) = true ∧ (s.lin n).slotOn = false ∧ (s.lin n).wait = false ∧ s.f (LIN_STAT_TRX_STATE n) = trNORMAL ∧ s.boot.xtalBad = false ∧ s.clocked 11 = true) ∧
    (∃ (n : Fin 8) (s : State), s.on (LIN_CFG0_ROLE n) = false ∧ (s.lin n).slotOn = true ∧ s.clocked 11 = true) ∧
    (∃ (n : Fin 8) (b : Fin 64) (s : State), s.on (LIN_CFG0_ROLE n) = false ∧ (s.lin n).slotOn = true ∧ (s.lin n).buf = some b.val ∧ (s.lin n).answered = false ∧ s.mf (lbDIR n b) = 1 ∧ s.mf (lbTYPE n b) ≠ 1 ∧ s.clocked 11 = true) ∧
    (∃ (n : Fin 8) (fid : Fin 64) (s : State), s.on (LIN_CFG0_ROLE n) = true ∧ s.f (LIN_STAT_TRX_STATE n) = trNORMAL ∧ s.boot.xtalBad = false ∧ s.clocked 11 = true) ∧
    (∃ (n : Fin 8) (pid : Byte) (s : State), s.on (LIN_CFG0_ROLE n) = true ∧ s.f (LIN_STAT_TRX_STATE n) = trNORMAL ∧ s.boot.xtalBad = false ∧ linPid (pid.toNat % 64) ≠ pid.toNat ∧ s.clocked 11 = true) ∧
    (∃ (n : Fin 8) (pid : Byte) (s : State), s.on (LIN_CFG0_ROLE n) = true ∧ s.f (LIN_STAT_TRX_STATE n) = trNORMAL ∧ s.boot.xtalBad = false ∧ s.clocked 11 = true) ∧
    (∃ (n : Fin 8) (b : Fin 64) (data : List Byte) (s : State), (s.lin n).buf = some b.val ∧ (s.lin n).answered = false ∧ s.mf (lbDIR n b) = 1 ∧ s.mf (lbLEN n b) ≤ data.length ∧ s.mf (lbLEN n b) ≤ 8 ∧ s.clocked 11 = true) ∧
    (∃ (n : Fin 8) (b : Fin 64) (data : List Byte) (s : State), (s.lin n).buf = some b.val ∧ (s.lin n).answered = false ∧ s.mf (lbDIR n b) = 0 ∧ s.clocked 11 = true) ∧
    (∃ (n : Fin 8) (b : Fin 64) (kind : Fin 4) (data : List Byte) (s : State), (s.lin n).buf = some b.val ∧ (s.lin n).answered = false ∧ kind ≠ 0 ∧ s.clocked 11 = true) ∧
    (∃ (n : Fin 8) (s : State), s.on (LIN_CFG0_ROLE n) = true ∧ s.clocked 11 = true ∧ s.f (trxStateRF (8 + n)) = trNORMAL) :=
  ⟨⟨(3 : Fin 8), (63 : Fin 64), (8 : Byte), State.reset.wClocks.wrN (linB (3 : Fin 8) (63 : Fin 64)) 4 5, by decide +kernel⟩,
    ⟨(3 : Fin 8), (63 : Fin 64), (0x20 : Byte), State.reset.wClocks.wrN (linB (3 : Fin 8) (63 : Fin 64)) 4 5, by decide +kernel⟩,
    ⟨(3 : Fin 8), (((State.reset.wClocks.setF (LIN_CFG0_ROLE (3 : Fin 8)) 0).setF (LIN_STAT_TRX_STATE (3 : Fin 8)) 0).setF (LIN_CTL_RUN (3 : Fin 8)) 1).setLin (3 : Fin 8) { State.reset.lin (3 : Fin 8) with slotOn := false, wait := false, buf := none }, by decide +kernel⟩,
    ⟨(3 : Fin 8), (((State.reset.wClocks.setF (LIN_CFG0_ROLE (3 : Fin 8)) 0).setF (LIN_STAT_TRX_STATE (3 : Fin 8)) 0).setF (LIN_CTL_RUN (3 : Fin 8)) 1).setLin (3 : Fin 8) { State.reset.lin (3 : Fin 8) with slotOn := true, wait := false, buf := some (State.reset.free % 64) }, by decide +kernel⟩,
    ⟨(3 : Fin 8), (63 : Fin 64), (((((State.reset.wClocks.setF (LIN_CFG0_ROLE (3 : Fin 8)) 0).setF (LIN_STAT_TRX_STATE (3 : Fin 8)) 0).setF (LIN_CTL_RUN (3 : Fin 8)) 1).setLin (3 : Fin 8) { State.reset.lin (3 : Fin 8) with slotOn := true, wait := false, buf := some (63 : Fin 64).val }).wrN (linB (3 : Fin 8) (63 : Fin 64)) 4 0x40).setLin (3 : Fin 8) { State.reset.lin (3 : Fin 8) with slotOn := true, buf := some (63 : Fin 64).val, answered := false }, by decide +kernel⟩,
    ⟨(3 : Fin 8), (63 : Fin 64), (((State.reset.wClocks.setF (LIN_CFG0_ROLE (3 : Fin 8)) 1).setF (LIN_STAT_TRX_STATE (3 : Fin 8)) 0).setF (LIN_CTL_RUN (3 : Fin 8)) 1).setLin (3 : Fin 8) { State.reset.lin (3 : Fin 8) with slotOn := true, wait := false, buf := none }, by decide +kernel⟩,
    ⟨(3 : Fin 8), (0x3F : Byte), (((State.reset.wClocks.setF (LIN_CFG0_ROLE (3 : Fin 8)) 1).setF (LIN_STAT_TRX_STATE (3 : Fin 8)) 0).setF (LIN_CTL_RUN (3 : Fin 8)) 1).setLin (3 : Fin 8) { State.reset.lin (3 : Fin 8) with slotOn := true, wait := false, buf := none }, by decide +kernel⟩,
    ⟨(3 : Fin 8), (0x3F : Byte), (((State.reset.wClocks.setF (LIN_CFG0_ROLE (3 : Fin 8)) 1).setF (LIN_STAT_TRX_STATE (3 : Fin 8)) 0).setF (LIN_CTL_RUN (3 : Fin 8)) 1).setLin (3 : Fin 8) { State.reset.lin (3 : Fin 8) with slotOn := true, wait := false, buf := none }, by decide +kernel⟩,
    ⟨(3 : Fin 8), (63 : Fin 64), ([1#8, 2#8] : List Byte), (State.reset.wClocks.wrN (linB (3 : Fin 8) (63 : Fin 64)) 4 0x245).setLin (3 : Fin 8) { State.reset.lin (3 : Fin 8) with buf := some (63 : Fin 64).val, answered := false }, by decide +kernel⟩,
    ⟨(3 : Fin 8), (63 : Fin 64), ([] : List Byte), (State.reset.wClocks.wrN (linB (3 : Fin 8) (63 : Fin 64)) 4 0x205).setLin (3 : Fin 8) { State.reset.lin (3 : Fin 8) with buf := some (63 : Fin 64).val, answered := false }, by decide +kernel⟩,
    ⟨(3 : Fin 8), (63 : Fin 64), (2 : Fin 4), ([] : List Byte), (State.reset.wClocks.wrN (linB (3 : Fin 8) (63 : Fin 64)) 4 0x1245).setLin (3 : Fin 8) { State.reset.lin (3 : Fin 8) with buf := some (63 : Fin 64).val, answered := false }, by decide +kernel⟩,
    ⟨(3 : Fin 8), (((State.reset.wClocks.setF (LIN_CFG0_ROLE (3 : Fin 8)) 1).setF (NM_SEG_STAT_STATE (8 + (3 : Fin 8))) (2 + State.reset.free % 2)).setF (NM_SEG_CFG0_NM_EN (8 + (3 : Fin 8))) (State.reset.free / 2 % 2)).setF (trxStateRF (8 + (3 : Fin 8))) 0, by decide +kernel⟩⟩

/-- Hypotheses of Obligations.LinControlSlotsAndResponses are met. -/
theorem test_hyps_linControlSlotsAndResponses_3 :
    (∃ (n : Fin 8) (s : State), s.on (LIN_CFG0_ROLE n) = true ∧ s.clocked 11 = true) ∧
    (∃ (n : Fin 8) (s : State), s.on (LIN_CFG0_ROLE n) = false ∧ s.clocked 11 = true) ∧
    (∃ (n : Fin 8) (s : State), s.on (LIN_CFG0_ROLE n) = true ∧ (s.lin n).wait = true ∧ s.clocked 11 = true) ∧
    (∃ (n : Fin 8) (s : State), s.busPresent n = true ∧ s.detecting (8 + n) = true) ∧
    (∃ (n : Fin 8) (s : State), s.f (LIN_STAT_TRX_STATE n) = trNORMAL ∧ (s.trxOf (8 + n)).dom = false ∧ s.clocked 11 = true) :=
  ⟨⟨(3 : Fin 8), ((State.reset.wClocks.setF (LIN_CFG0_ROLE (3 : Fin 8)) 1).setF (NM_SEG_STAT_STATE (8 + (3 : Fin 8))) (2 + State.reset.free % 2)).setF (NM_SEG_CFG0_NM_EN (8 + (3 : Fin 8))) (State.reset.free / 2 % 2), by decide +kernel⟩,
    ⟨(3 : Fin 8), State.reset.wClocks.setF (LIN_CFG0_ROLE (3 : Fin 8)) 0, by decide +kernel⟩,
    ⟨(3 : Fin 8), (State.reset.wClocks.setF (LIN_CFG0_ROLE (3 : Fin 8)) 1).setLin (3 : Fin 8) { State.reset.lin (3 : Fin 8) with wait := true, pulses := State.reset.free % 4 }, by decide +kernel⟩,
    ⟨(3 : Fin 8), State.reset.setF (LIN_STAT_TRX_STATE (3 : Fin 8)) (2 + State.reset.free % 3), by decide +kernel⟩,
    ⟨(3 : Fin 8), (State.reset.wClocks.setF (LIN_STAT_TRX_STATE (3 : Fin 8)) 0).setTrxOf (8 + (3 : Fin 8)) { State.reset.trxOf (8 + (3 : Fin 8)) with dom := false }, by decide +kernel⟩⟩

/-- Hypotheses of Obligations.EthernetIngressEgressAndGates are met. -/
theorem test_hyps_ethernetIngressEgressAndGates :
    (∃ (p : Fin 3) (f : EthFrame) (s : State), s.boot.phase ≠ .recovery ∧ (p.val < 2 → s.on (ETH_PORT_STAT_LINK p) = true) ∧ s.clocked 10 = true ∧ s.boot.xtalBad = false) ∧
    (∃ (p : Fin 2) (f : EthFrame) (s : State), s.boot.phase = .recovery ∧ f.dst.toNat = s.recMac ∧ f.tag = none ∧ f.sec = none ∧ f.etype = 0x88B5) ∧
    (∃ (p : Fin 2) (f : EthFrame) (s : State), s.boot.phase = .recovery ∧ (f.dst.toNat ≠ s.recMac ∨ f.tag ≠ none)) ∧
    (∃ (p : Fin 3) (s : State), (p.val < 2 → s.on (ETH_PORT_STAT_LINK p) = true) ∧ s.pnStopped p = false ∧ (p = 2 → s.eth.plca.on = false ∨ s.toNext.isSome = true) ∧ s.boot.xtalBad = false ∧ (s.ethNext p).isSome = true ∧ s.clocked 10 = true) ∧
    (∃ (s : State), s.clocked 10 = true) ∧
    (∃ (s : State), s.f ETH_QBV_CHANGE_LO_TIME + s.f ETH_QBV_CHANGE_HI_TIME * 2 ^ 32 ≤ s.gptpOf s.now ∧ s.clocked 10 = true) ∧
    (∃ (r : Fin 32) (s : State), s.clocked 10 = true) :=
  ⟨⟨(1 : Fin 3), ({} : EthFrame), State.reset.wClocks.setF (ETH_PORT_STAT_LINK (1 : Fin 3)) 1, by decide +kernel⟩,
    ⟨(1 : Fin 2), ({ etype := 0x88B5 } : EthFrame), { State.reset with boot := { State.reset.boot with phase := .recovery }, mram := [] }, by decide +kernel⟩,
    ⟨(1 : Fin 2), ({ dst := 5 } : EthFrame), { State.reset with boot := { State.reset.boot with phase := .recovery }, mram := [] }, by decide +kernel⟩,
    ⟨(2 : Fin 3), ({ State.reset.wClocks with eth := { State.reset.eth with txq := ([{ port := (2 : Fin 3), cls := 5, f := {} }, { port := (2 : Fin 3), cls := 7, f := {} }] : List EthTx) ++ State.reset.eth.txq, gates := [] } }.setF (ETH_PORT_STAT_LINK (2 : Fin 3)) 1), by decide +kernel⟩,
    ⟨State.reset.wClocks, by decide +kernel⟩,
    ⟨State.reset.wClocks, by decide +kernel⟩,
    ⟨(31 : Fin 32), State.reset.wClocks, by decide +kernel⟩⟩

/-- Hypotheses of Obligations.GatewayLookupEgressAndFlows are met. -/
theorem test_hyps_gatewayLookupEgressAndFlows :
    (∃ (g : GwFrame) (e : Nat) (s : State), s.gwNext = some g ∧ s.gwFind g.key = some e ∧ s.clocked 9 = true) ∧
    (∃ (g : GwFrame) (s : State), s.gwNext = some g ∧ s.gwFind g.key = none ∧ s.clocked 9 = true) ∧
    (∃ (n : Fin 8) (g : GwFrame) (b : Fin 2048) (s : State), s.gwNext = some g ∧ s.gwFind g.key = none ∧ s.f (GW_PORT_CFG_MISS g.port) = 1 ∧ s.f (GW_PORT_DEF_DEST g.port) = 2 ^ (n.val + 3) ∧ s.freeBuf = some b.val ∧ s.busPresent n = true ∧ g.kind = 0 ∧ (s.can n).mode ≠ mdOFF ∧ g.fdf = false ∧ s.boot.xtalBad = false ∧ s.segNormal n = true ∧ s.waitingOn (n + 3) < s.f (GW_PORT_CFG_QUOTA (n + 3)) ∧ s.clocked 9 = true) ∧
    (∃ (n : Fin 8) (x : Egress) (k : Fin 32) (s : State), ((s.serveOrder (n + 3)).find? (fun x => s.canIdIdle n x.f) = some x) ∧ s.gwEntryFree n = some k.val ∧ s.segNormal n = true ∧ x.f.id < 2 ^ 29 ∧ s.clocked 9 = true ∧ s.clocked 11 = true) ∧
    (∃ (p : Fin 21) (x : Egress) (s : State), (s.gw.out.find? (fun x => x.port = p.val && !x.free) = some x) ∧ s.clocked 9 = true) ∧
    (∃ (init : Byte) (b : BitVec 11) (s : State), s.clocked 9 = true) ∧
    (∃ (b : Fin 2048) (s : State), (s.gwBuf b).cued ≠ [] ∧ s.clocked 9 = true) ∧
    (∃ (f : Fin 1024) (s : State), s.fc f 0x0C 16 16 ≠ 0 ∧ s.gw.timedOut.contains f.val = false ∧ s.clocked 9 = true) ∧
    (∃ (p : Fin 3) (k : Nat) (s : State), s.clocked 9 = true ∧ s.pduOldest p = some k ∧ (s.pdu k).bytes ≠ []) ∧
    (∃ (p : Fin 3) (m : List Byte) (s : State), (s.eth.inq.find? (fun x => x.2.etype = 0x22F0) = some (p.val, { etype := 0x22F0, data := [0x82, 0x80, BitVec.ofNat 8 m.length, 0] ++ List.replicate 8 0 ++ m })) ∧ m.length = 4 * (natBE (m.take 2) % 0x200) ∧ m.length ≠ 0 ∧ m.length < 0x100 ∧ (acfFrame s p m).isSome = true ∧ s.clocked 9 = true) ∧
    (∃ (x : Nat × EthFrame) (s : State), (s.eth.inq.find? (fun x => x.2.etype = 0x22F0) = some x) ∧ acfBody x.2.data = none ∧ s.clocked 9 = true) :=
  ⟨⟨({ port := 3, kind := 0, id := 0x123 } : GwFrame), ((({ port := 3, kind := 0, id := 0x123 } : GwFrame).key / 0x10000 + (({ port := 3, kind := 0, id := 0x123 } : GwFrame).key % 0x10000 + 0x210000 + 0x10000000) * 2 ^ 32) : Nat), (((({ State.reset.wClocks with gw := { State.reset.gw with inq := [({ port := 3, kind := 0, id := 0x123 } : GwFrame)] } }.setReg (GW_STASH_ACT 0) (BitVec.ofNat 32 ((({ port := 3, kind := 0, id := 0x123 } : GwFrame).key / 0x10000 + (({ port := 3, kind := 0, id := 0x123 } : GwFrame).key % 0x10000 + 0x210000 + 0x10000000) * 2 ^ 32) : Nat))).setReg (GW_STASH_ACT 0 + 4) (BitVec.ofNat 32 (((({ port := 3, kind := 0, id := 0x123 } : GwFrame).key / 0x10000 + (({ port := 3, kind := 0, id := 0x123 } : GwFrame).key % 0x10000 + 0x210000 + 0x10000000) * 2 ^ 32) : Nat) / 2 ^ 32)))).setReg (GW_STASH_ACT 0 + 8) (BitVec.ofNat 32 (((({ port := 3, kind := 0, id := 0x123 } : GwFrame).key / 0x10000 + (({ port := 3, kind := 0, id := 0x123 } : GwFrame).key % 0x10000 + 0x210000 + 0x10000000) * 2 ^ 32) : Nat) / 2 ^ 64))).setReg (GW_STASH_ACT 0 + 12) (BitVec.ofNat 32 (((({ port := 3, kind := 0, id := 0x123 } : GwFrame).key / 0x10000 + (({ port := 3, kind := 0, id := 0x123 } : GwFrame).key % 0x10000 + 0x210000 + 0x10000000) * 2 ^ 32) : Nat) / 2 ^ 96)), by decide +kernel⟩,
    ⟨({ port := 3, id := 0x123 } : GwFrame), { State.reset.wClocks with gw := { State.reset.gw with inq := [({ port := 3, id := 0x123 } : GwFrame)] } }, by decide +kernel⟩,
    ⟨(3 : Fin 8), ({ port := 3, id := 0x123 } : GwFrame), (0 : Fin 2048), ((((({ State.reset.wClocks with boot := { State.reset.boot with xtalBad := false }, gw := { State.reset.gw with inq := [({ port := 3, id := 0x123 } : GwFrame)], out := [], bufs := [] } }.setF (GW_PORT_CFG_MISS ({ port := 3, id := 0x123 } : GwFrame).port) 1).setF (GW_PORT_DEF_DEST ({ port := 3, id := 0x123 } : GwFrame).port) (2 ^ ((3 : Fin 8).val + 3))).setF (GW_PORT_CFG_QUOTA ((3 : Fin 8) + 3)) 9).setF (CAN_TRX_STAT_STATE (3 : Fin 8)) 0).setF (NM_SEG_CFG0_NM_EN (3 : Fin 8)) 0).setCan (3 : Fin 8) { State.reset.can (3 : Fin 8) with mode := 1 }, by decide +kernel⟩,
    ⟨(3 : Fin 8), ({ port := 6, f := { id := 5, data := [1#8] } } : Egress), (0 : Fin 32), (((({ State.reset.wClocks with gw := { State.reset.gw with out := [{ ({ port := 6, f := { id := 5, data := [1#8] } } : Egress) with port := (3 : Fin 8) + 3, prio := ({ port := 6, f := { id := 5, data := [1#8] } } : Egress).prio % 4 }] } }.setF (CAN_TRX_STAT_STATE (3 : Fin 8)) 0).setF (NM_SEG_CFG0_NM_EN (3 : Fin 8)) 0).setReg (CAN_QOWN (3 : Fin 8) 0) 0xFF).zeroMem (canE (3 : Fin 8) 0) (canE (3 : Fin 8) 32)), by decide +kernel⟩,
    ⟨(20 : Fin 21), ({ port := 20 } : Egress), { State.reset.wClocks with gw := { State.reset.gw with out := [({ port := 20 } : Egress)] } }, by decide +kernel⟩,
    ⟨(0x10 : Byte), (5 : BitVec 11), State.reset.wClocks.setGwBuf (5 : BitVec 11).toNat { cued := [0x10, 0x11, (0x10 : Byte).toNat], routes := 1 }, by decide +kernel⟩,
    ⟨(2047 : Fin 2048), State.reset.wClocks.setGwBuf (2047 : Fin 2048) { cued := [0x10, 0x11], routes := State.reset.free % 2 }, by decide +kernel⟩,
    ⟨(1023 : Fin 1024), ({ State.reset.wClocks with gw := { State.reset.gw with timedOut := [] } }.wrN (flowAt (1023 : Fin 1024) + 0x0C) 4 0x10000), by decide +kernel⟩,
    ⟨(2 : Fin 3), (6 : Nat), { State.reset.wClocks with eth := { State.reset.eth with pdu := [(6, { bytes := [1#8, 2#8, 3#8, 4#8] })] } }, by decide +kernel⟩,
    ⟨(1 : Fin 3), ([4#8, 3#8, 0#8, 5#8, 0#8, 0#8, 1#8, 0x23#8, 1#8, 2#8, 3#8, 4#8] : List Byte), { State.reset.wClocks with eth := { State.reset.eth with inq := [((1 : Fin 3).val, { etype := 0x22F0, data := [0x82, 0x80, BitVec.ofNat 8 ([4#8, 3#8, 0#8, 5#8, 0#8, 0#8, 1#8, 0x23#8, 1#8, 2#8, 3#8, 4#8] : List Byte).length, 0] ++ List.replicate 8 0 ++ ([4#8, 3#8, 0#8, 5#8, 0#8, 0#8, 1#8, 0x23#8, 1#8, 2#8, 3#8, 4#8] : List Byte) })] } }, by decide +kernel⟩,
    ⟨((1, { etype := 0x22F0 }) : Nat × EthFrame), { State.reset.wClocks with eth := { State.reset.eth with inq := [((1, { etype := 0x22F0 }) : Nat × EthFrame)] } }, by decide +kernel⟩⟩

/-- Hypotheses of Obligations.GatewayUpdatesAndInjection are met. -/
theorem test_hyps_gatewayUpdatesAndInjection :
    (∃ (f : Fin 1024) (init : Byte) (off : Fin 64) (bytes : List Byte) (s : State), s.gwMayWrite init.toNat = true ∧ (s.wrBytes (flowAt f + off) (laidBytes (flowAt f + off) (bytes.take (0x30 - off)))).flowValid f = true ∧ s.clocked 9 = true) ∧
    (∃ (f : Fin 1024) (init : Byte) (off : Fin 64) (bytes : List Byte) (s : State), (s.gwMayWrite init.toNat = false ∨ (s.wrBytes (flowAt f + off) (laidBytes (flowAt f + off) (bytes.take (0x30 - off)))).flowValid f = false) ∧ s.clocked 9 = true) ∧
    (∃ (init : Byte) (off : BitVec 19) (bytes : List Byte) (s : State), s.gwMayWrite init.toNat = true ∧ s.on GW_UPD_STAT_COPYBACK = false ∧ s.gw.staged.contains (off.toNat / 0x40) = true ∧ s.clocked 9 = true) ∧
    (∃ (init : Byte) (off : BitVec 19) (bytes : List Byte) (s : State), s.gwMayWrite init.toNat = true ∧ s.on GW_UPD_STAT_COPYBACK = false ∧ s.gw.staged.contains (off.toNat / 0x40) = false ∧ s.gw.staged.length < 4096 ∧ off.toNat % 0x40 + bytes.length ≤ 0x40 ∧ s.clocked 9 = true) ∧
    (∃ (init : Byte) (off : BitVec 19) (bytes : List Byte) (s : State), s.gwMayWrite init.toNat = true ∧ s.on GW_UPD_STAT_COPYBACK = false ∧ s.gw.staged.contains (off.toNat / 0x40) = false ∧ 4096 ≤ s.gw.staged.length ∧ s.clocked 9 = true) ∧
    (∃ (init : Byte) (stash : Bool) (off : BitVec 19) (bytes : List Byte) (s : State), s.gwMayWrite init.toNat = false ∧ s.on GW_UPD_STAT_COPYBACK = false ∧ s.clocked 9 = true) ∧
    (∃ (init : Byte) (off : BitVec 19) (bytes : List Byte) (s : State), s.gwMayWrite init.toNat = true ∧ s.on GW_UPD_STAT_COPYBACK = false ∧ off.toNat + bytes.length ≤ 0x400 ∧ s.clocked 9 = true) ∧
    (∃ (s : State), s.on GW_UPD_STAT_COPYBACK = false ∧ s.gw.staged.Nodup ∧ s.gw.staged.all (· < 0x2000) = true ∧ s.clocked 9 = true) ∧
    (∃ (s : State), s.on GW_UPD_STAT_COPYBACK = false ∧ s.clocked 9 = true) ∧
    (∃ (s : State), s.on GW_UPD_STAT_COPYBACK = true ∧ s.clocked 9 = true) ∧
    (∃ (init : Byte) (s : State), sliceLE (s.injArea init.toNat) 4 1 % 8 ≠ 7 ∧ sliceLE (s.injArea init.toNat) 5 1 ≤ 56 ∧ s.clocked 9 = true) ∧
    (∃ (init : Byte) (s : State), (sliceLE (s.injArea init.toNat) 4 1 % 8 = 7 ∨ 56 < sliceLE (s.injArea init.toNat) 5 1) ∧ s.clocked 9 = true) :=
  ⟨⟨(1023 : Fin 1024), (8 : Byte), (0 : Fin 64), ([1#8, 2#8] : List Byte), State.reset.wClocks.zeroMem (flowAt (1023 : Fin 1024)) (flowAt (1023 : Fin 1024) + 0x40), by decide +kernel⟩,
    ⟨(1023 : Fin 1024), (0x20 : Byte), (0 : Fin 64), ([1#8, 2#8] : List Byte), State.reset.wClocks, by decide +kernel⟩,
    ⟨(8 : Byte), (0x1243 : BitVec 19), ([1#8, 2#8] : List Byte), { State.reset.wClocks with gw := { State.reset.gw with staged := [3, (0x1243 : BitVec 19).toNat / 0x40] } }.setF GW_UPD_STAT_COPYBACK 0, by decide +kernel⟩,
    ⟨(8 : Byte), (0x1244 : BitVec 19), ([1#8, 2#8, 3#8, 4#8] : List Byte), { State.reset.wClocks with gw := { State.reset.gw with staged := [8000] } }.setF GW_UPD_STAT_COPYBACK 0, by decide +kernel⟩,
    ⟨(8 : Byte), (0x1243 : BitVec 19), ([1#8, 2#8] : List Byte), { State.reset.wClocks with gw := { State.reset.gw with staged := (List.replicate 4096 9000) } }.setF GW_UPD_STAT_COPYBACK 0, by decide +kernel⟩,
    ⟨(0x20 : Byte), (true : Bool), (0x12 : BitVec 19), ([1#8] : List Byte), State.reset.wClocks.setF GW_UPD_STAT_COPYBACK 0, by decide +kernel⟩,
    ⟨(8 : Byte), (1019 : BitVec 19), ([1#8, 2#8, 3#8, 4#8, 5#8] : List Byte), State.reset.wClocks.setF GW_UPD_STAT_COPYBACK 0, by decide +kernel⟩,
    ⟨{ State.reset.wClocks with gw := { State.reset.gw with staged := [3, 100, 8191] } }.setF GW_UPD_STAT_COPYBACK 0, by decide +kernel⟩,
    ⟨{ State.reset.wClocks with gw := { State.reset.gw with staged := [3, 100] } }.setF GW_UPD_STAT_COPYBACK 0, by decide +kernel⟩,
    ⟨State.reset.wClocks.setF GW_UPD_STAT_COPYBACK 1, by decide +kernel⟩,
    ⟨(0x10 : Byte), { State.reset.wClocks with gw := { State.reset.gw with inj := [] } }, by decide +kernel⟩,
    ⟨(0x10 : Byte), { State.reset.wClocks with gw := { State.reset.gw with inj := [((0x10 : Byte).toNat, [0, 0, 0, 0, 7])] } }, by decide +kernel⟩⟩

/-- Hypotheses of Obligations.InputsHandlesAndMeasurement are met. -/
theorem test_hyps_inputsHandlesAndMeasurement_1 :
    (∃ (levels : BitVec 96) (s : State), s.measures = true) ∧
    (∃ (n : Fin 96) (s : State), s.inOn n = true ∧ (s.inIn n).run ≠ 0 ∧ s.f (INP_CFG_DEBOUNCE n) ≤ (s.inIn n).run ∧ (s.inIn n).lvl ≠ s.on (inBit INP_LEVEL n) ∧ s.measures = true) ∧
    (∃ (n : Fin 96) (s : State), s.inOn n = true ∧ (s.inIn n).run ≠ 0 ∧ s.f (INP_CFG_DEBOUNCE n) ≤ (s.inIn n).run ∧ (s.inIn n).lvl = s.on (inBit INP_LEVEL n) ∧ (s.inIn n).got = false ∧ s.measures = true) ∧
    (∃ (n : Fin 96) (s : State), s.inp.clean.contains n.val = true) ∧
    (∃ (c0 : BitVec 16) (c1 : BitVec 16) (c2 : BitVec 16) (c3 : BitVec 16) (ok : BitVec 4) (s : State), s.fullPart = true ∧ s.f PWR_STATE_STATE ≠ 4) ∧
    (∃ (k : Fin 4) (s : State), s.on (hcBit INP_HC_STAT_TOUCHED k) = true) ∧
    (∃ (s : State), s.measures = true) ∧
    (∃ (n : Fin 96) (mv : BitVec 16) (s : State), s.on (INP_CFG_ANA n) = true ∧ s.measures = true) ∧
    (∃ (v0 : BitVec 16) (i0 : BitVec 16) (v1 : BitVec 16) (i1 : BitVec 16) (vlog : BitVec 16) (reads : List (Fin 15 × BitVec 16)) (s : State), s.measures = true) ∧
    (∃ (x : Fin 64) (init : Byte) (v : BitVec 16) (s : State), x ≠ 0 ∧ s.measMay init.toNat = true ∧ s.f (MEAS_TCFG_SRC x) = 3) ∧
    (∃ (x : Fin 64) (init : Byte) (v : BitVec 16) (s : State), x ≠ 0 ∧ s.measMay init.toNat = false) ∧
    (∃ (x : Fin 64) (s : State), x ≠ 0 ∧ s.f (MEAS_TCFG_SRC x) = 3 ∧ s.inFallback x = false ∧ s.measures = true) :=
  ⟨⟨(0x5 : BitVec 96), State.reset.wRun, by decide +kernel⟩,
    ⟨(95 : Fin 96), ((State.reset.wRun.setF (INP_CFG_MODE (95 : Fin 96)) 1)).setInIn (95 : Fin 96) { State.reset.inIn (95 : Fin 96) with run := 1023, lvl := !State.reset.on (inBit INP_LEVEL (95 : Fin 96)) }, by decide +kernel⟩,
    ⟨(95 : Fin 96), (State.reset.wRun.setF (INP_CFG_MODE (95 : Fin 96)) 1).setInIn (95 : Fin 96) { State.reset.inIn (95 : Fin 96) with run := 1023, got := false, lvl := State.reset.on (inBit INP_LEVEL (95 : Fin 96)) }, by decide +kernel⟩,
    ⟨(95 : Fin 96), { State.reset with inp := { State.reset.inp with clean := (95 : Fin 96).val :: State.reset.inp.clean } }, by decide +kernel⟩,
    ⟨(500 : BitVec 16), (600 : BitVec 16), (700 : BitVec 16), (50 : BitVec 16), (7 : BitVec 4), (fun z : State => (({ z.wRun with inp := { z.inp with hcCfg := z.free % 16 } }.setF INP_HC_STAT_TOUCHED (z.free / 3 % 16)).setF INP_HC_STAT_FAULTED (z.free / 5 % 16)).setHc (z.free % 4) { z.hc (z.free % 4) with bad := 2 }) State.reset, by decide +kernel⟩,
    ⟨(3 : Fin 4), State.reset.setF INP_HC_STAT_TOUCHED 15, by decide +kernel⟩,
    ⟨State.reset.wRun, by decide +kernel⟩,
    ⟨(95 : Fin 96), (100 : BitVec 16), ((((State.reset.wRun.setF (INP_CFG_ANA (95 : Fin 96)) 1).setF (MEAS_TCFG_SRC 60) 2).setF (MEAS_TCFG_INDEX 60) (95 : Fin 96)).setF (MEAS_CURVE_P_MV (State.reset.f (MEAS_TCFG_CURVE 60)) 0) 60000), by decide +kernel⟩,
    ⟨(1 : BitVec 16), (2 : BitVec 16), (3 : BitVec 16), (4 : BitVec 16), (5 : BitVec 16), ([(0, 100)] : List (Fin 15 × BitVec 16)), State.reset.wRun, by decide +kernel⟩,
    ⟨(63 : Fin 64), (0x10 : Byte), (500 : BitVec 16), ((State.reset.setF (MEAS_TCFG_SRC (63 : Fin 64)) 3).setF MEAS_ACCESS_OWNER 0x10), by decide +kernel⟩,
    ⟨(63 : Fin 64), (0x20 : Byte), (500 : BitVec 16), State.reset, by decide +kernel⟩,
    ⟨(63 : Fin 64), ((State.reset.wRun.setF (MEAS_TCFG_SRC (63 : Fin 64)) 3).setReg (MEAS_SLOT_VAL (0x80 + (63 : Fin 64))) 0), by decide +kernel⟩⟩

/-- Hypotheses of Obligations.InputsHandlesAndMeasurement are met. -/
theorem test_hyps_inputsHandlesAndMeasurement_2 :
    (∃ (init : Byte) (v : BitVec 4) (s : State), (isStr init.toNat || s.measMay init.toNat) = true) ∧
    (∃ (init : Byte) (v : BitVec 4) (s : State), (isStr init.toNat || s.measMay init.toNat) = false) ∧
    (∃ (k : Fin 2) (s : State), (s.sens k).on = true) ∧
    (∃ (k : Fin 2) (s : State), (s.sens k).bf = false) ∧
    (∃ (k : Fin 2) (s : State), (s.sens k).bf = true ∧ s.on (sensEN k) = true) :=
  ⟨⟨(8 : Byte), (3 : BitVec 4), State.reset, by decide +kernel⟩,
    ⟨(0x20 : Byte), (3 : BitVec 4), State.reset, by decide +kernel⟩,
    ⟨(1 : Fin 2), State.reset.setSens (1 : Fin 2) { State.reset.sens (1 : Fin 2) with on := true }, by decide +kernel⟩,
    ⟨(1 : Fin 2), State.reset.setSens (1 : Fin 2) { State.reset.sens (1 : Fin 2) with bf := false }, by decide +kernel⟩,
    ⟨(1 : Fin 2), (State.reset.setSens (1 : Fin 2) { State.reset.sens (1 : Fin 2) with bf := true }).setF ⟨MEAS_SENS_CTL, 0, 4⟩ 15, by decide +kernel⟩⟩

/-- Hypotheses of Obligations.StrongroomRequestsComplete are met. -/
theorem test_hyps_strongroomRequestsComplete_1 :
    (∃ (init : Byte) (b : List Byte) (s : State), b.length = 16 ∧ s.str.req.length < 16 ∧ s.f ⟨SYS_SLOT_ST (StrReq.res { init := init.toNat, bytes := b }), 16, 2⟩ ≠ 1 ∧ (let r : StrReq := { init := init.toNat, bytes := b }; (s.str.req ++ [r]).head?.all (fun q => 1 ≤ q.op && q.op ≤ 0x0B) = true)) ∧
    (∃ (init : Byte) (b : List Byte) (s : State), b.length ≠ 16 ∧ (1 ≤ b.length ∧ b.length ≤ 64)) ∧
    (∃ (init : Byte) (b : List Byte) (s : State), b.length = 16 ∧ 16 ≤ s.str.req.length) ∧
    (∃ (init : Byte) (b : List Byte) (s : State), b.length = 16 ∧ s.str.req.length < 16 ∧ s.f ⟨SYS_SLOT_ST (StrReq.res { init := init.toNat, bytes := b }), 16, 2⟩ = 1) ∧
    (∃ (r : StrReq) (s : State), s.strHead r 0x01 = true) ∧
    (∃ (r : StrReq) (s : State), s.strHead r 0x02 = true) ∧
    (∃ (r : StrReq) (s : State), s.strHead r 0x03 = true) ∧
    (∃ (r : StrReq) (s : State), s.strHead r 0x04 = true) ∧
    (∃ (r : StrReq) (s : State), s.strHead r 0x05 = true) ∧
    (∃ (r : StrReq) (s : State), s.strHead r 0x06 = true) ∧
    (∃ (r : StrReq) (s : State), s.strHead r 0x07 = true) ∧
    (∃ (r : StrReq) (s : State), s.strHead r 0x08 = true) :=
  ⟨⟨(8 : Byte), ([2, 0, 3, 0, 0, 0, 0, 1, 0, 0, 0, 1, 4, 0, 0, 0] : List Byte), { State.reset with str := { State.reset.str with req := State.reset.str.req.map (fun r => { r with bytes := 2#8 :: r.bytes.tail }) } }, by decide +kernel⟩,
    ⟨(8 : Byte), ([2, 3] : List Byte), State.reset, by decide +kernel⟩,
    ⟨(8 : Byte), (List.replicate 16 0 : List Byte), { State.reset with str := { State.reset.str with req := List.replicate 16 { init := 8, bytes := List.replicate 16 2 } } }, by decide +kernel⟩,
    ⟨(8 : Byte), (List.replicate 16 0 : List Byte), (State.reset.setF ⟨SYS_SLOT_ST 0, 16, 2⟩ 1).setF ⟨SYS_SLOT_ST (StrReq.res { init := (8 : Byte).toNat, bytes := (List.replicate 16 0 : List Byte) }), 16, 2⟩ 1, by decide +kernel⟩,
    ⟨({ init := 8, bytes := [1#8, 0#8, 3#8, 0#8, 0#8, 0#8, 0#8, 0#8, 0#8, 8#8, 0#8, 1#8, 40#8, 0#8, 0#8, 0#8] } : StrReq), { (State.reset) with str := { State.reset.str with req := ({ init := 8, bytes := [1#8, 0#8, 3#8, 0#8, 0#8, 0#8, 0#8, 0#8, 0#8, 8#8, 0#8, 1#8, 40#8, 0#8, 0#8, 0#8] } : StrReq) :: State.reset.str.req.filter (fun q => q.res ≠ ({ init := 8, bytes := [1#8, 0#8, 3#8, 0#8, 0#8, 0#8, 0#8, 0#8, 0#8, 8#8, 0#8, 1#8, 40#8, 0#8, 0#8, 0#8] } : StrReq).res) } }, by decide +kernel⟩,
    ⟨({ init := 8, bytes := [2#8, 0#8, 3#8, 0#8, 0#8, 1#8, 0#8, 1#8, 0#8, 8#8, 0#8, 1#8, 40#8, 0#8, 0#8, 0#8] } : StrReq), { (State.reset) with str := { State.reset.str with req := ({ init := 8, bytes := [2#8, 0#8, 3#8, 0#8, 0#8, 1#8, 0#8, 1#8, 0#8, 8#8, 0#8, 1#8, 40#8, 0#8, 0#8, 0#8] } : StrReq) :: State.reset.str.req.filter (fun q => q.res ≠ ({ init := 8, bytes := [2#8, 0#8, 3#8, 0#8, 0#8, 1#8, 0#8, 1#8, 0#8, 8#8, 0#8, 1#8, 40#8, 0#8, 0#8, 0#8] } : StrReq).res) } }, by decide +kernel⟩,
    ⟨({ init := 8, bytes := [3#8, 42#8, 3#8, 0#8, 0#8, 1#8, 0#8, 1#8, 0#8, 8#8, 0#8, 1#8, 40#8, 0#8, 0#8, 0#8] } : StrReq), { (({ State.reset with keys := [(42, { kind := 1, use := 1, user := ({ init := 8, bytes := [3#8, 42#8, 3#8, 0#8, 0#8, 1#8, 0#8, 1#8, 0#8, 8#8, 0#8, 1#8, 40#8, 0#8, 0#8, 0#8] } : StrReq).init, bytes := (List.range 16).map (fun i => BitVec.ofNat 8 (i * 7 + State.reset.free)) })] })) with str := { State.reset.str with req := ({ init := 8, bytes := [3#8, 42#8, 3#8, 0#8, 0#8, 1#8, 0#8, 1#8, 0#8, 8#8, 0#8, 1#8, 40#8, 0#8, 0#8, 0#8] } : StrReq) :: State.reset.str.req.filter (fun q => q.res ≠ ({ init := 8, bytes := [3#8, 42#8, 3#8, 0#8, 0#8, 1#8, 0#8, 1#8, 0#8, 8#8, 0#8, 1#8, 40#8, 0#8, 0#8, 0#8] } : StrReq).res) } }, by decide +kernel⟩,
    ⟨({ init := 8, bytes := [4#8, 42#8, 3#8, 0#8, 0#8, 1#8, 0#8, 1#8, 0#8, 8#8, 0#8, 1#8, 40#8, 0#8, 8#8, 0#8] } : StrReq), { (({ State.reset with keys := [(42, { kind := 2, use := 1, user := ({ init := 8, bytes := [4#8, 42#8, 3#8, 0#8, 0#8, 1#8, 0#8, 1#8, 0#8, 8#8, 0#8, 1#8, 40#8, 0#8, 8#8, 0#8] } : StrReq).init, bytes := (List.range 32).map (fun i => BitVec.ofNat 8 (i * 7 + State.reset.free)) })] })) with str := { State.reset.str with req := ({ init := 8, bytes := [4#8, 42#8, 3#8, 0#8, 0#8, 1#8, 0#8, 1#8, 0#8, 8#8, 0#8, 1#8, 40#8, 0#8, 8#8, 0#8] } : StrReq) :: State.reset.str.req.filter (fun q => q.res ≠ ({ init := 8, bytes := [4#8, 42#8, 3#8, 0#8, 0#8, 1#8, 0#8, 1#8, 0#8, 8#8, 0#8, 1#8, 40#8, 0#8, 8#8, 0#8] } : StrReq).res) } }, by decide +kernel⟩,
    ⟨({ init := 8, bytes := [5#8, 42#8, 3#8, 0#8, 0#8, 1#8, 0#8, 1#8, 0#8, 8#8, 0#8, 1#8, 40#8, 0#8, 0#8, 0#8] } : StrReq), { (({ State.reset with keys := [(42, { kind := 1, use := 2, user := ({ init := 8, bytes := [5#8, 42#8, 3#8, 0#8, 0#8, 1#8, 0#8, 1#8, 0#8, 8#8, 0#8, 1#8, 40#8, 0#8, 0#8, 0#8] } : StrReq).init, bytes := (List.range 16).map (fun i => BitVec.ofNat 8 (i * 7 + State.reset.free)) })] })) with str := { State.reset.str with req := ({ init := 8, bytes := [5#8, 42#8, 3#8, 0#8, 0#8, 1#8, 0#8, 1#8, 0#8, 8#8, 0#8, 1#8, 40#8, 0#8, 0#8, 0#8] } : StrReq) :: State.reset.str.req.filter (fun q => q.res ≠ ({ init := 8, bytes := [5#8, 42#8, 3#8, 0#8, 0#8, 1#8, 0#8, 1#8, 0#8, 8#8, 0#8, 1#8, 40#8, 0#8, 0#8, 0#8] } : StrReq).res) } }, by decide +kernel⟩,
    ⟨({ init := 8, bytes := [6#8, 42#8, 3#8, 0#8, 0#8, 1#8, 0#8, 1#8, 0#8, 8#8, 0#8, 1#8, 40#8, 0#8, 0#8, 0#8] } : StrReq), { (({ State.reset with keys := [(42, { kind := 4, use := 8, user := ({ init := 8, bytes := [6#8, 42#8, 3#8, 0#8, 0#8, 1#8, 0#8, 1#8, 0#8, 8#8, 0#8, 1#8, 40#8, 0#8, 0#8, 0#8] } : StrReq).init, bytes := (List.range 64).map (fun i => BitVec.ofNat 8 (i * 7 + State.reset.free)) })] })) with str := { State.reset.str with req := ({ init := 8, bytes := [6#8, 42#8, 3#8, 0#8, 0#8, 1#8, 0#8, 1#8, 0#8, 8#8, 0#8, 1#8, 40#8, 0#8, 0#8, 0#8] } : StrReq) :: State.reset.str.req.filter (fun q => q.res ≠ ({ init := 8, bytes := [6#8, 42#8, 3#8, 0#8, 0#8, 1#8, 0#8, 1#8, 0#8, 8#8, 0#8, 1#8, 40#8, 0#8, 0#8, 0#8] } : StrReq).res) } }, by decide +kernel⟩,
    ⟨({ init := 8, bytes := [7#8, 42#8, 3#8, 0#8, 0#8, 1#8, 0#8, 1#8, 0#8, 0#8, 0#8, 0#8, 56#8, 0#8, 0#8, 0#8] } : StrReq), { (({ State.reset with keys := [(1, { kind := 2, bytes := List.replicate 32 7 }), (42, { ctr := State.reset.free % 5 })] })) with str := { State.reset.str with req := ({ init := 8, bytes := [7#8, 42#8, 3#8, 0#8, 0#8, 1#8, 0#8, 1#8, 0#8, 0#8, 0#8, 0#8, 56#8, 0#8, 0#8, 0#8] } : StrReq) :: State.reset.str.req.filter (fun q => q.res ≠ ({ init := 8, bytes := [7#8, 42#8, 3#8, 0#8, 0#8, 1#8, 0#8, 1#8, 0#8, 0#8, 0#8, 0#8, 56#8, 0#8, 0#8, 0#8] } : StrReq).res) } }, by decide +kernel⟩,
    ⟨({ init := 8, bytes := [8#8, 42#8, 3#8, 0#8, 0#8, 1#8, 0#8, 1#8, 0#8, 0#8, 0#8, 0#8, 56#8, 0#8, 0#8, 0#8] } : StrReq), { (({ State.reset with keys := [(42, { kind := 1, use := 2, user := ({ init := 8, bytes := [8#8, 42#8, 3#8, 0#8, 0#8, 1#8, 0#8, 1#8, 0#8, 0#8, 0#8, 0#8, 56#8, 0#8, 0#8, 0#8] } : StrReq).init, bytes := (List.range 16).map (fun i => BitVec.ofNat 8 (i * 7 + State.reset.free)) })] })) with str := { State.reset.str with req := ({ init := 8, bytes := [8#8, 42#8, 3#8, 0#8, 0#8, 1#8, 0#8, 1#8, 0#8, 0#8, 0#8, 0#8, 56#8, 0#8, 0#8, 0#8] } : StrReq) :: State.reset.str.req.filter (fun q => q.res ≠ ({ init := 8, bytes := [8#8, 42#8, 3#8, 0#8, 0#8, 1#8, 0#8, 1#8, 0#8, 0#8, 0#8, 0#8, 56#8, 0#8, 0#8, 0#8] } : StrReq).res) } }, by decide +kernel⟩⟩

/-- Hypotheses of Obligations.StrongroomRequestsComplete are met. -/
theorem test_hyps_strongroomRequestsComplete_2 :
    (∃ (r : StrReq) (s : State), s.strHead r 0x09 = true) ∧
    (∃ (r : StrReq) (s : State), s.strHead r 0x0B = true) ∧
    (∃ (r : StrReq) (s : State), s.strHead r 0x0A = true) :=
  ⟨⟨({ init := 0x42, bytes := [9#8, 0#8, 3#8, 0#8, 0#8, 1#8, 0#8, 1#8, 0#8, 0#8, 0#8, 0#8, 56#8, 0#8, 0#8, 0#8] } : StrReq), { ((State.reset.setF (ZRT_SES_CFG_HB (({ init := 0x42, bytes := [9#8, 0#8, 3#8, 0#8, 0#8, 1#8, 0#8, 1#8, 0#8, 0#8, 0#8, 0#8, 56#8, 0#8, 0#8, 0#8] } : StrReq).init - 0x40)) 1)) with str := { State.reset.str with req := ({ init := 0x42, bytes := [9#8, 0#8, 3#8, 0#8, 0#8, 1#8, 0#8, 1#8, 0#8, 0#8, 0#8, 0#8, 56#8, 0#8, 0#8, 0#8] } : StrReq) :: State.reset.str.req.filter (fun q => q.res ≠ ({ init := 0x42, bytes := [9#8, 0#8, 3#8, 0#8, 0#8, 1#8, 0#8, 1#8, 0#8, 0#8, 0#8, 0#8, 56#8, 0#8, 0#8, 0#8] } : StrReq).res) } }, by decide +kernel⟩,
    ⟨({ init := 0x42, bytes := [11#8, 0#8, 3#8, 0#8, 0#8, 1#8, 0#8, 1#8, 0#8, 0#8, 0#8, 0#8, 56#8, 0#8, 6#8, 32#8] } : StrReq), { (({ State.reset with boot := { State.reset.boot with phase := .run } })) with str := { State.reset.str with req := ({ init := 0x42, bytes := [11#8, 0#8, 3#8, 0#8, 0#8, 1#8, 0#8, 1#8, 0#8, 0#8, 0#8, 0#8, 56#8, 0#8, 6#8, 32#8] } : StrReq) :: State.reset.str.req.filter (fun q => q.res ≠ ({ init := 0x42, bytes := [11#8, 0#8, 3#8, 0#8, 0#8, 1#8, 0#8, 1#8, 0#8, 0#8, 0#8, 0#8, 56#8, 0#8, 6#8, 32#8] } : StrReq).res) } }, by decide +kernel⟩,
    ⟨({ init := 8, bytes := [10#8, 0#8, 3#8, 0#8, 0#8, 1#8, 0#8, 1#8, 0#8, 0#8, 0#8, 0#8, 16#8, 0#8, 1#8, 0#8] } : StrReq), { ((State.reset.setF STR_LIFECYCLE_STATE (State.reset.free % 3))) with str := { State.reset.str with req := ({ init := 8, bytes := [10#8, 0#8, 3#8, 0#8, 0#8, 1#8, 0#8, 1#8, 0#8, 0#8, 0#8, 0#8, 16#8, 0#8, 1#8, 0#8] } : StrReq) :: State.reset.str.req.filter (fun q => q.res ≠ ({ init := 8, bytes := [10#8, 0#8, 3#8, 0#8, 0#8, 1#8, 0#8, 1#8, 0#8, 0#8, 0#8, 0#8, 16#8, 0#8, 1#8, 0#8] } : StrReq).res) } }, by decide +kernel⟩⟩

/-- Hypotheses of Obligations.EntropyDebugLockAndTap are met. -/
theorem test_hyps_entropyDebugLockAndTap :
    (∃ (pw : BitVec 128) (s : State), s.f STR_LIFECYCLE_STATE = 2 ∧ s.on STR_LIFECYCLE_DEBUG_OPEN = false ∧ s.str.backoff = false) ∧
    (∃ (pw : BitVec 128) (s : State), s.f STR_LIFECYCLE_STATE = 2 ∧ s.on STR_LIFECYCLE_DEBUG_OPEN = false ∧ s.str.backoff = true) ∧
    (∃ (s : State), s.on STR_RNG_STAT_HEALTHY = true) ∧
    (∃ (tag : BitVec 128) (s : State), s.f STR_LIFECYCLE_STATE = 2 ∧ s.on STR_LIFECYCLE_DEBUG_OPEN = false ∧ s.str.backoff = false) ∧
    (∃ (s : State), s.str.backoff = true ∧ s.f PWR_STATE_STATE < 3) ∧
    (∃ (s : State), s.boot.phase ≠ .reset) ∧
    (∃ (s : State), s.boot.phase ≠ .reset) :=
  ⟨⟨(5 : BitVec 128), { ((State.reset.setF STR_LIFECYCLE_STATE 2).setF STR_LIFECYCLE_DEBUG_OPEN 0) with str := { State.reset.str with backoff := false } }, by decide +kernel⟩,
    ⟨(5 : BitVec 128), { ((State.reset.setF STR_LIFECYCLE_STATE 2).setF STR_LIFECYCLE_DEBUG_OPEN 0) with str := { State.reset.str with backoff := true } }, by decide +kernel⟩,
    ⟨State.reset.setF STR_RNG_STAT_HEALTHY 1, by decide +kernel⟩,
    ⟨(5 : BitVec 128), { ((State.reset.setF STR_LIFECYCLE_STATE 2).setF STR_LIFECYCLE_DEBUG_OPEN 0) with str := { State.reset.str with backoff := false } }, by decide +kernel⟩,
    ⟨{ State.reset.setF PWR_STATE_STATE 0 with str := { State.reset.str with backoff := true } }, by decide +kernel⟩,
    ⟨{ State.reset with boot := { State.reset.boot with phase := .run } }, by decide +kernel⟩,
    ⟨{ State.reset with boot := { State.reset.boot with phase := .run } }, by decide +kernel⟩⟩

/-- Hypotheses of Obligations.AccessPollsAndSearch are met. -/
theorem test_hyps_accessPollsAndSearch_1 :
    (∃ (a : Fin 6) (short : Bool) (s : State), s.fullPart = true ∧ s.antUsable (2 ^ a.val) ≠ 0) ∧
    (∃ (init : Byte) (ant : BitVec 6) (tag : Byte) (s : State), s.fullPart = true ∧ s.accMay init.toNat = true ∧ (s.acc.queue.any (fun q => q.src = 4) = false) ∧ (s.acc.cur.any (fun q => q.src = 4) = false)) ∧
    (∃ (init : Byte) (ant : BitVec 6) (tag : Byte) (s : State), s.fullPart = true ∧ s.accMay init.toNat = false) ∧
    (∃ (p : AccPoll) (s : State), s.pollNext = some p ∧ s.acc.cur = none ∧ s.acc.proving = false ∧ s.f PWR_FEED_STAT_BAND ≠ 2 ∧ s.acc.prove = false) ∧
    (∃ (p : AccPoll) (s : State), s.fullPart = true ∧ s.acc.roundOn = false ∧ s.f PWR_FEED_STAT_BAND ≠ 2 ∧ s.acc.cur = some p ∧ s.antUsable p.ant ≠ 0 ∧ s.f ACC_POLL_STAT_STATE ≠ 2 ∧ s.on STR_RNG_STAT_HEALTHY = true) ∧
    (∃ (p : AccPoll) (s : State), s.fullPart = true ∧ s.acc.roundOn = false ∧ s.f PWR_FEED_STAT_BAND ≠ 2 ∧ s.acc.cur = some p ∧ s.antUsable p.ant ≠ 0 ∧ s.f ACC_POLL_STAT_STATE = 2 ∧ s.on STR_RNG_STAT_HEALTHY = true) ∧
    (∃ (p : AccPoll) (s : State), s.fullPart = true ∧ s.acc.roundOn = false ∧ s.f PWR_FEED_STAT_BAND ≠ 2 ∧ s.acc.cur = some p ∧ s.antUsable p.ant = 0 ∧ s.acc.revoke = false) ∧
    (∃ (b : List Byte) (j : Fin 8) (s : State), b.length = 14 ∧ s.fullPart = true ∧ s.acc.roundOn = true ∧ s.windowAt + j.val * 250000 ≤ (s.islandSlate 1).toNat ∧ (s.islandSlate 1).toNat < s.windowAt + (j.val + 1) * 250000 ∧ j.val < s.windowSlots ∧ s.acc.slots.contains j.val = false) ∧
    (∃ (b : List Byte) (s : State), b.length = 14 ∧ s.fullPart = true ∧ s.acc.roundOn = false) ∧
    (∃ (b : List Byte) (j : Fin 8) (s : State), b.length = 14 ∧ s.fullPart = true ∧ s.acc.roundOn = true ∧ s.windowAt + j.val * 250000 ≤ (s.islandSlate 1).toNat ∧ (s.islandSlate 1).toNat < s.windowAt + (j.val + 1) * 250000 ∧ j.val < s.windowSlots ∧ s.acc.slots.contains j.val = true) ∧
    (∃ (b : List Byte) (s : State), b.length = 14 ∧ s.fullPart = true ∧ s.acc.roundOn = true ∧ ((s.islandSlate 1).toNat < s.windowAt ∨ s.windowAt + s.windowSlots * 250000 ≤ (s.islandSlate 1).toNat)) ∧
    (∃ (f : AccFrame) (l : List AccFrame) (s : State), s.acc.frames = f :: l ∧ crc16 0xFFFF (f.bytes.take 12) ≠ natBE (f.bytes.drop 12)) :=
  ⟨⟨(5 : Fin 6), (true : Bool), ((State.reset.setF ACC_LF_CFG_ANT_EN 63).setReg ACC_LF_STAT 0), by decide +kernel⟩,
    ⟨(8 : Byte), (3 : BitVec 6), (7 : Byte), { State.reset with acc := { State.reset.acc with queue := State.reset.acc.queue.filter (fun q => q.src ≠ 4), cur := none } }, by decide +kernel⟩,
    ⟨(0 : Byte), (3 : BitVec 6), (7 : Byte), State.reset, by decide +kernel⟩,
    ⟨({ src := 4, ant := 3, tag := 7 } : AccPoll), ({ State.reset with acc := { State.reset.acc with queue := ({ src := 4, ant := 3, tag := 7 } : AccPoll) :: State.reset.acc.queue.filter (fun q => ({ src := 4, ant := 3, tag := 7 } : AccPoll).src < q.src), cur := none, prove := false, proving := false } }.setF PWR_FEED_STAT_BAND 0), by decide +kernel⟩,
    ⟨({ src := 4, ant := 3, tag := 7 } : AccPoll), (((({ State.reset with acc := { State.reset.acc with cur := some ({ src := 4, ant := 3, tag := 7 } : AccPoll), roundOn := false } }.setF ACC_LF_CFG_ANT_EN 63).setReg ACC_LF_STAT 0).setF PWR_FEED_STAT_BAND 0).setF ACC_POLL_STAT_STATE 1).setF STR_RNG_STAT_HEALTHY 1, by decide +kernel⟩,
    ⟨({ src := 4, ant := 3, tag := 7 } : AccPoll), (((({ State.reset with acc := { State.reset.acc with cur := some ({ src := 4, ant := 3, tag := 7 } : AccPoll), roundOn := false } }.setF ACC_LF_CFG_ANT_EN 63).setReg ACC_LF_STAT 0).setF PWR_FEED_STAT_BAND 0).setF ACC_POLL_STAT_STATE 2).setF STR_RNG_STAT_HEALTHY 1, by decide +kernel⟩,
    ⟨({ src := 4, ant := 3, tag := 7 } : AccPoll), ({ State.reset with acc := { State.reset.acc with cur := some ({ src := 4, ant := 3, tag := 7 } : AccPoll), roundOn := false, revoke := false } }.setF ACC_LF_CFG_ANT_EN 0).setF PWR_FEED_STAT_BAND 0, by decide +kernel⟩,
    ⟨(List.replicate 14 0 : List Byte), (0 : Fin 8), { State.reset with slate := 20000000, islands := [], acc := { State.reset.acc with roundOn := true, slots := [], addressed := none, start := 20000000 - 3000000 - (0 : Fin 8).val * 250000 } }, by decide +kernel⟩,
    ⟨(List.replicate 14 0 : List Byte), { State.reset with acc := { State.reset.acc with roundOn := false } }, by decide +kernel⟩,
    ⟨(List.replicate 14 0 : List Byte), (0 : Fin 8), { State.reset with slate := 20000000, islands := [], acc := { State.reset.acc with roundOn := true, slots := [(0 : Fin 8).val], addressed := none, start := 20000000 - 3000000 - (0 : Fin 8).val * 250000 } }, by decide +kernel⟩,
    ⟨(List.replicate 14 0 : List Byte), { State.reset with slate := 20000000, islands := [], acc := { State.reset.acc with roundOn := true, slots := [], addressed := none, start := 20000000 - 2875000 - 8 * 250000 * (State.reset.free % 2) + (1 - State.reset.free % 2) } }, by decide +kernel⟩,
    ⟨({ bytes := List.replicate 14 1 } : AccFrame), ([] : List AccFrame), { State.reset with acc := { State.reset.acc with frames := ({ bytes := List.replicate 14 1 } : AccFrame) :: ([] : List AccFrame) } }, by decide +kernel⟩⟩

/-- Hypotheses of Obligations.AccessPollsAndSearch are met. -/
theorem test_hyps_accessPollsAndSearch_2 :
    (∃ (f : AccFrame) (l : List AccFrame) (s : State), s.acc.frames = f :: l ∧ crc16 0xFFFF (f.bytes.take 12) = natBE (f.bytes.drop 12) ∧ s.f ACC_CFG2_TOL_US * 125 < f.err.natAbs) ∧
    (∃ (f : AccFrame) (l : List AccFrame) (s : State), s.acc.frames = f :: l ∧ crc16 0xFFFF (f.bytes.take 12) = natBE (f.bytes.drop 12) ∧ ¬(s.f ACC_CFG2_TOL_US * 125 < f.err.natAbs) ∧ ((s.roundTokens.find? (fun i => (s.tokenValue i 0x49).take 4 = f.bytes.take 4)) = none)) ∧
    (∃ (f : AccFrame) (l : List AccFrame) (i : Fin 8) (s : State), s.acc.frames = f :: l ∧ crc16 0xFFFF (f.bytes.take 12) = natBE (f.bytes.drop 12) ∧ ¬(s.f ACC_CFG2_TOL_US * 125 < f.err.natAbs) ∧ ((s.roundTokens.find? (fun i => (s.tokenValue i 0x49).take 4 = f.bytes.take 4)) = some i.val) ∧ s.tokenSlot i ≠ f.slot) ∧
    (∃ (f : AccFrame) (l : List AccFrame) (i : Fin 8) (s : State), s.acc.frames = f :: l ∧ crc16 0xFFFF (f.bytes.take 12) = natBE (f.bytes.drop 12) ∧ ¬(s.f ACC_CFG2_TOL_US * 125 < f.err.natAbs) ∧ ((s.roundTokens.find? (fun i => (s.tokenValue i 0x49).take 4 = f.bytes.take 4)) = some i.val) ∧ s.tokenSlot i = f.slot ∧ (s.tokenValue i 0x52).take 8 ≠ (f.bytes.drop 4).take 8) ∧
    (∃ (f : AccFrame) (l : List AccFrame) (i : Fin 8) (s : State), s.acc.frames = f :: l ∧ crc16 0xFFFF (f.bytes.take 12) = natBE (f.bytes.drop 12) ∧ ¬(s.f ACC_CFG2_TOL_US * 125 < f.err.natAbs) ∧ ((s.roundTokens.find? (fun i => (s.tokenValue i 0x49).take 4 = f.bytes.take 4)) = some i.val) ∧ s.tokenSlot i = f.slot ∧ (s.tokenValue i 0x52).take 8 = (f.bytes.drop 4).take 8) ∧
    (∃ (p : AccPoll) (s : State), s.acc.roundOn = true ∧ s.acc.frames = [] ∧ s.acc.proving = false ∧ s.acc.cur = some p ∧ s.acc.revoke = false ∧ s.f ACC_POLL_STAT_STATE ≠ 2 ∧ s.acc.verified = true ∧ s.on ACC_AUTH_STAT_ACTIVE = false) ∧
    (∃ (p : AccPoll) (s : State), s.acc.roundOn = true ∧ s.acc.frames = [] ∧ s.acc.proving = false ∧ s.acc.cur = some p ∧ s.acc.revoke = false ∧ s.f ACC_POLL_STAT_STATE ≠ 2 ∧ (s.acc.verified = false ∧ s.acc.collision = false ∧ s.acc.invalid = false)) ∧
    (∃ (p : AccPoll) (s : State), s.acc.roundOn = true ∧ s.acc.frames = [] ∧ s.acc.proving = false ∧ s.acc.cur = some p ∧ s.acc.revoke = false ∧ s.f ACC_POLL_STAT_STATE ≠ 2 ∧ s.acc.verified = false ∧ (s.acc.collision || s.acc.invalid) = true ∧ s.acc.bad < 3) ∧
    (∃ (p : AccPoll) (j : Fin 8) (s : State), s.acc.roundOn = true ∧ s.acc.frames = [] ∧ s.acc.proving = false ∧ s.acc.cur = some p ∧ s.acc.revoke = false ∧ s.f ACC_POLL_STAT_STATE ≠ 2 ∧ s.acc.verified = false ∧ (s.acc.collision || s.acc.invalid) = true ∧ s.acc.bad = 3 ∧ s.activeTokens.head? = some j.val) ∧
    (∃ (p : AccPoll) (j : Fin 8) (s : State), s.acc.roundOn = true ∧ s.acc.frames = [] ∧ s.acc.proving = false ∧ s.acc.cur = some p ∧ s.acc.revoke = false ∧ s.f ACC_POLL_STAT_STATE = 2 ∧ s.acc.left.head? = some j.val ∧ s.acc.verified = true ∧ s.on ACC_AUTH_STAT_ACTIVE = false) ∧
    (∃ (p : AccPoll) (j : Fin 8) (s : State), s.acc.roundOn = true ∧ s.acc.frames = [] ∧ s.acc.proving = false ∧ s.acc.cur = some p ∧ s.acc.revoke = false ∧ s.f ACC_POLL_STAT_STATE = 2 ∧ s.acc.left.drop 1 = j.val :: s.acc.left.drop 2 ∧ s.acc.verified = false) ∧
    (∃ (p : AccPoll) (s : State), s.acc.roundOn = true ∧ s.acc.frames = [] ∧ s.acc.proving = false ∧ s.acc.cur = some p ∧ s.acc.revoke = false ∧ s.f ACC_POLL_STAT_STATE = 2 ∧ s.acc.left.length = 1 ∧ s.acc.verified = false) :=
  ⟨⟨({ bytes := [0, 5, 10, 15, 20, 25, 30, 35, 40, 45, 50, 55, 0, 20], err := 30000 } : AccFrame), ([] : List AccFrame), ({ State.reset with acc := { State.reset.acc with frames := ({ bytes := [0, 5, 10, 15, 20, 25, 30, 35, 40, 45, 50, 55, 0, 20], err := 30000 } : AccFrame) :: ([] : List AccFrame) } }).setF ACC_CFG2_TOL_US 20, by decide +kernel⟩,
    ⟨({ bytes := [0, 5, 10, 15, 20, 25, 30, 35, 40, 45, 50, 55, 0, 20], err := 0 } : AccFrame), ([] : List AccFrame), ({ State.reset with acc := { State.reset.acc with frames := ({ bytes := [0, 5, 10, 15, 20, 25, 30, 35, 40, 45, 50, 55, 0, 20], err := 0 } : AccFrame) :: ([] : List AccFrame), addressed := none } }).setReg ACC_TOKEN_STAT 0, by decide +kernel⟩,
    ⟨({ bytes := [243, 140, 56, 26, 0, 0, 0, 0, 0, 0, 0, 0, 142, 162], slot := 3, err := 0 } : AccFrame), ([] : List AccFrame), (5 : Fin 8), { State.reset with keys := [(11, { kind := 1, bytes := (List.range 16).map (fun k => BitVec.ofNat 8 k) })], acc := { State.reset.acc with nonce := 7, addressed := some 5, proving := false, frames := ({ bytes := [243, 140, 56, 26, 0, 0, 0, 0, 0, 0, 0, 0, 142, 162], slot := 3, err := 0 } : AccFrame) :: ([] : List AccFrame) } }.setF ACC_CFG_VEH_ID 0, by decide +kernel⟩,
    ⟨({ bytes := [243, 140, 56, 26, 0, 0, 0, 0, 0, 0, 0, 0, 142, 162], slot := 0, err := 0 } : AccFrame), ([] : List AccFrame), (5 : Fin 8), { State.reset with keys := [(11, { kind := 1, bytes := (List.range 16).map (fun k => BitVec.ofNat 8 k) })], acc := { State.reset.acc with nonce := 7, addressed := some 5, proving := false, frames := ({ bytes := [243, 140, 56, 26, 0, 0, 0, 0, 0, 0, 0, 0, 142, 162], slot := 0, err := 0 } : AccFrame) :: ([] : List AccFrame) } }.setF ACC_CFG_VEH_ID 0, by decide +kernel⟩,
    ⟨({ bytes := [243, 140, 56, 26, 162, 235, 244, 121, 211, 78, 41, 216, 53, 190], slot := 0, err := 0 } : AccFrame), ([] : List AccFrame), (5 : Fin 8), { State.reset with keys := [(11, { kind := 1, bytes := (List.range 16).map (fun k => BitVec.ofNat 8 k) })], acc := { State.reset.acc with nonce := 7, addressed := some 5, proving := false, frames := ({ bytes := [243, 140, 56, 26, 162, 235, 244, 121, 211, 78, 41, 216, 53, 190], slot := 0, err := 0 } : AccFrame) :: ([] : List AccFrame) } }.setF ACC_CFG_VEH_ID 0, by decide +kernel⟩,
    ⟨({ src := 4, ant := 3, tag := 7 } : AccPoll), ((({ State.reset with acc := { State.reset.acc with roundOn := true, frames := [], proving := false, cur := some ({ src := 4, ant := 3, tag := 7 } : AccPoll), revoke := false, verified := true, collision := State.reset.acc.collision, invalid := State.reset.acc.invalid, bad := State.reset.acc.bad, left := State.reset.acc.left } }.setF ACC_POLL_STAT_STATE 1)).setF ACC_AUTH_STAT_ACTIVE 0), by decide +kernel⟩,
    ⟨({ src := 4, ant := 3, tag := 7 } : AccPoll), ({ State.reset with acc := { State.reset.acc with roundOn := true, frames := [], proving := false, cur := some ({ src := 4, ant := 3, tag := 7 } : AccPoll), revoke := false, verified := false, collision := false, invalid := false, bad := State.reset.acc.bad, left := State.reset.acc.left } }.setF ACC_POLL_STAT_STATE 1), by decide +kernel⟩,
    ⟨({ src := 4, ant := 3, tag := 7 } : AccPoll), ({ State.reset with acc := { State.reset.acc with roundOn := true, frames := [], proving := false, cur := some ({ src := 4, ant := 3, tag := 7 } : AccPoll), revoke := false, verified := false, collision := (State.reset.free % 2 = 0), invalid := true, bad := (State.reset.free % 3), left := State.reset.acc.left } }.setF ACC_POLL_STAT_STATE 1), by decide +kernel⟩,
    ⟨({ src := 4, ant := 3, tag := 7 } : AccPoll), (5 : Fin 8), ((({ State.reset with acc := { State.reset.acc with roundOn := true, frames := [], proving := false, cur := some ({ src := 4, ant := 3, tag := 7 } : AccPoll), revoke := false, verified := false, collision := (State.reset.free % 2 = 0), invalid := true, bad := 3, left := State.reset.acc.left } }.setF ACC_POLL_STAT_STATE 1)).setF (tokenRF (5 : Fin 8)) 1), by decide +kernel⟩,
    ⟨({ src := 4, ant := 3, tag := 7 } : AccPoll), (5 : Fin 8), ((({ State.reset with acc := { State.reset.acc with roundOn := true, frames := [], proving := false, cur := some ({ src := 4, ant := 3, tag := 7 } : AccPoll), revoke := false, verified := true, collision := false, invalid := State.reset.acc.invalid, bad := State.reset.acc.bad, left := ((5 : Fin 8).val :: State.reset.acc.left) } }.setF ACC_POLL_STAT_STATE 2)).setF ACC_AUTH_STAT_ACTIVE 0), by decide +kernel⟩,
    ⟨({ src := 4, ant := 3, tag := 7 } : AccPoll), (5 : Fin 8), ({ State.reset with acc := { State.reset.acc with roundOn := true, frames := [], proving := false, cur := some ({ src := 4, ant := 3, tag := 7 } : AccPoll), revoke := false, verified := false, collision := false, invalid := State.reset.acc.invalid, bad := State.reset.acc.bad, left := (3 :: (5 : Fin 8).val :: State.reset.acc.left) } }.setF ACC_POLL_STAT_STATE 2), by decide +kernel⟩,
    ⟨({ src := 4, ant := 3, tag := 7 } : AccPoll), ({ State.reset with acc := { State.reset.acc with roundOn := true, frames := [], proving := false, cur := some ({ src := 4, ant := 3, tag := 7 } : AccPoll), revoke := false, verified := false, collision := false, invalid := State.reset.acc.invalid, bad := State.reset.acc.bad, left := [5] } }.setF ACC_POLL_STAT_STATE 2), by decide +kernel⟩⟩

/-- Hypotheses of Obligations.AccessPollsAndSearch are met. -/
theorem test_hyps_accessPollsAndSearch_3 :
    (∃ (p : AccPoll) (s : State), s.acc.cur = some p ∧ s.acc.roundOn = false ∧ s.on STR_RNG_STAT_HEALTHY = false ∧ s.acc.revoke = false) ∧
    (∃ (s : State), s.fullPart = true ∧ s.on ACC_CFG3_SEARCH_EN = true ∧ s.acc.stopped = false ∧ s.searchMask ≠ 0 ∧ s.acc.cur = none ∧ s.acc.queue = [] ∧ s.acc.prove = false ∧ s.f PWR_STATE_STATE < 2) ∧
    (∃ (s : State), s.fullPart = true ∧ s.on ACC_CFG3_SEARCH_EN = true ∧ s.acc.stopped = false ∧ s.searchMask ≠ 0 ∧ s.acc.cur = none ∧ s.acc.queue = [] ∧ s.acc.prove = false ∧ (s.f PWR_STATE_STATE = 2 ∨ s.f PWR_STATE_STATE = 3)) ∧
    (∃ (s : State), s.fullPart = true ∧ s.on ACC_CFG3_SEARCH_EN = true ∧ s.acc.stopped = false) :=
  ⟨⟨({ src := 4, ant := 3, tag := 7 } : AccPoll), ({ State.reset with acc := { State.reset.acc with cur := some ({ src := 4, ant := 3, tag := 7 } : AccPoll), roundOn := false, revoke := false } }.setF STR_RNG_STAT_HEALTHY 0), by decide +kernel⟩,
    ⟨((({ State.reset with acc := { State.reset.acc with stopped := false, cur := none, queue := [], prove := false } }.setF ACC_CFG3_SEARCH_EN 1).setF INP_HC_CFG_EN 0).setReg ACC_HC_MAP 0x01020304).setF PWR_STATE_STATE 0, by decide +kernel⟩,
    ⟨((({ State.reset with acc := { State.reset.acc with stopped := false, cur := none, queue := [], prove := false } }.setF ACC_CFG3_SEARCH_EN 1).setF INP_HC_CFG_EN 0).setReg ACC_HC_MAP 0x01020304).setF PWR_STATE_STATE (2 + State.reset.free % 2), by decide +kernel⟩,
    ⟨{ State.reset with acc := { State.reset.acc with stopped := false } }.setF ACC_CFG3_SEARCH_EN 1, by decide +kernel⟩⟩

/-- Hypotheses of Obligations.AccessLearningAuthorisationAndRelease are met. -/
theorem test_hyps_accessLearningAuthorisationAndRelease_1 :
    (∃ (init : Byte) (idx : Fin 8) (auth : Fin 4) (s : State), s.fullPart = true ∧ s.accMay init.toNat = false) ∧
    (∃ (init : Byte) (idx : Fin 8) (auth : Fin 4) (s : State), s.fullPart = true ∧ s.accMay init.toNat = true ∧ s.f ACC_LEARN_STAT_STATE ≠ 0) ∧
    (∃ (init : Byte) (idx : Fin 8) (auth : Fin 4) (s : State), s.fullPart = true ∧ s.accMay init.toNat = true ∧ s.f ACC_LEARN_STAT_STATE = 0 ∧ 32 ≤ s.f ACC_TOKEN_STAT_ENROL_USED) ∧
    (∃ (init : Byte) (idx : Fin 8) (auth : Fin 4) (s : State), s.fullPart = true ∧ s.accMay init.toNat = true ∧ s.f ACC_LEARN_STAT_STATE = 0 ∧ s.f ACC_TOKEN_STAT_ENROL_USED < 32 ∧ s.f (tokenRF idx) = 1) ∧
    (∃ (init : Byte) (idx : Fin 8) (auth : Fin 4) (s : State), s.fullPart = true ∧ s.accMay init.toNat = true ∧ s.f ACC_LEARN_STAT_STATE = 0 ∧ s.f ACC_TOKEN_STAT_ENROL_USED < 32 ∧ s.f (tokenRF idx) ≠ 1 ∧ (s.key (14 + idx)).kind = 0) ∧
    (∃ (init : Byte) (idx : Fin 8) (auth : Fin 4) (s : State), s.fullPart = true ∧ s.accMay init.toNat = true ∧ s.f ACC_LEARN_STAT_STATE = 0 ∧ s.f ACC_TOKEN_STAT_ENROL_USED < 32 ∧ s.f (tokenRF idx) ≠ 1 ∧ (s.key (14 + idx)).kind ≠ 0 ∧ auth = 1 ∧ (¬(s.recent = true ∧ s.acc.verTok ≠ idx))) ∧
    (∃ (init : Byte) (idx : Fin 8) (auth : Fin 4) (s : State), s.fullPart = true ∧ s.accMay init.toNat = true ∧ s.f ACC_LEARN_STAT_STATE = 0 ∧ s.f ACC_TOKEN_STAT_ENROL_USED < 32 ∧ s.f (tokenRF idx) ≠ 1 ∧ (s.key (14 + idx)).kind ≠ 0 ∧ auth = 1 ∧ (s.recent = true ∧ s.acc.verTok ≠ idx)) ∧
    (∃ (init : Byte) (idx : Fin 8) (auth : Fin 4) (s : State), s.fullPart = true ∧ s.accMay init.toNat = true ∧ s.f ACC_LEARN_STAT_STATE = 0 ∧ s.f ACC_TOKEN_STAT_ENROL_USED < 32 ∧ s.f (tokenRF idx) ≠ 1 ∧ (s.key (14 + idx)).kind ≠ 0 ∧ auth = 2 ∧ s.acc.lock = true) ∧
    (∃ (init : Byte) (idx : Fin 8) (auth : Fin 4) (s : State), s.fullPart = true ∧ s.accMay init.toNat = true ∧ s.f ACC_LEARN_STAT_STATE = 0 ∧ s.f ACC_TOKEN_STAT_ENROL_USED < 32 ∧ s.f (tokenRF idx) ≠ 1 ∧ (s.key (14 + idx)).kind ≠ 0 ∧ auth = 2 ∧ s.acc.lock = false ∧ s.on STR_RNG_STAT_HEALTHY = true) ∧
    (∃ (init : Byte) (idx : Fin 8) (auth : Fin 4) (s : State), s.fullPart = true ∧ s.accMay init.toNat = false) ∧
    (∃ (init : Byte) (idx : Fin 8) (auth : Fin 4) (s : State), s.fullPart = true ∧ s.accMay init.toNat = true ∧ s.f ACC_LEARN_STAT_STATE ≠ 0) ∧
    (∃ (init : Byte) (idx : Fin 8) (auth : Fin 4) (s : State), s.fullPart = true ∧ s.accMay init.toNat = true ∧ s.f ACC_LEARN_STAT_STATE = 0 ∧ auth = 1 ∧ s.recent = false) :=
  ⟨⟨(0 : Byte), (7 : Fin 8), (1 : Fin 4), State.reset, by decide +kernel⟩,
    ⟨(8 : Byte), (7 : Fin 8), (1 : Fin 4), State.reset.setF ACC_LEARN_STAT_STATE 1, by decide +kernel⟩,
    ⟨(8 : Byte), (7 : Fin 8), (1 : Fin 4), (State.reset.setF ACC_LEARN_STAT_STATE 0).setF ACC_TOKEN_STAT_ENROL_USED 32, by decide +kernel⟩,
    ⟨(8 : Byte), (7 : Fin 8), (1 : Fin 4), ((((State.reset.setF ACC_LEARN_STAT_STATE 0).setReg ACC_TOKEN_STAT 0))).setF (tokenRF (7 : Fin 8)) 1, by decide +kernel⟩,
    ⟨(8 : Byte), (7 : Fin 8), (1 : Fin 4), ((({ State.reset with keys := [] }.setF ACC_LEARN_STAT_STATE 0).setReg ACC_TOKEN_STAT 0)), by decide +kernel⟩,
    ⟨(8 : Byte), (7 : Fin 8), (1 : Fin 4), ((({ State.reset with keys := [(14 + (7 : Fin 8).val, { kind := 1 })], acc := { State.reset.acc with verAt := none } }.setF ACC_LEARN_STAT_STATE 0).setReg ACC_TOKEN_STAT 0)), by decide +kernel⟩,
    ⟨(8 : Byte), (7 : Fin 8), (1 : Fin 4), (((({ State.reset with keys := [(14 + (7 : Fin 8).val, { kind := 1 })], acc := { State.reset.acc with verAt := some (State.reset.now - 10), verTok := ((7 : Fin 8).val + 1) % 8 } }.setF ACC_LEARN_STAT_STATE 0).setReg ACC_TOKEN_STAT 0))).setF ACC_AUTH_CFG_GRANT_WIN 10, by decide +kernel⟩,
    ⟨(8 : Byte), (7 : Fin 8), (2 : Fin 4), ((({ State.reset with keys := [(14 + (7 : Fin 8).val, { kind := 1 })], acc := { State.reset.acc with lock := true } }.setF ACC_LEARN_STAT_STATE 0).setReg ACC_TOKEN_STAT 0)), by decide +kernel⟩,
    ⟨(8 : Byte), (7 : Fin 8), (2 : Fin 4), (((({ State.reset with keys := [(14 + (7 : Fin 8).val, { kind := 1 })], acc := { State.reset.acc with lock := false } }.setF ACC_LEARN_STAT_STATE 0).setReg ACC_TOKEN_STAT 0))).setF STR_RNG_STAT_HEALTHY 1, by decide +kernel⟩,
    ⟨(0 : Byte), (7 : Fin 8), (1 : Fin 4), State.reset, by decide +kernel⟩,
    ⟨(8 : Byte), (7 : Fin 8), (1 : Fin 4), State.reset.setF ACC_LEARN_STAT_STATE 1, by decide +kernel⟩,
    ⟨(8 : Byte), (7 : Fin 8), (1 : Fin 4), ({ State.reset with acc := { State.reset.acc with verAt := none } }.setF ACC_LEARN_STAT_STATE 0), by decide +kernel⟩⟩

/-- Hypotheses of Obligations.AccessLearningAuthorisationAndRelease are met. -/
theorem test_hyps_accessLearningAuthorisationAndRelease_2 :
    (∃ (init : Byte) (idx : Fin 8) (auth : Fin 4) (s : State), s.fullPart = true ∧ s.accMay init.toNat = true ∧ s.f ACC_LEARN_STAT_STATE = 0 ∧ auth = 1 ∧ s.recent = true ∧ s.acc.cur.isSome = true) ∧
    (∃ (init : Byte) (idx : Fin 8) (auth : Fin 4) (s : State), s.fullPart = true ∧ s.accMay init.toNat = true ∧ s.f ACC_LEARN_STAT_STATE = 0 ∧ auth = 1 ∧ s.recent = true ∧ s.acc.cur = none) ∧
    (∃ (init : Byte) (idx : Fin 8) (auth : Fin 4) (s : State), s.fullPart = true ∧ s.accMay init.toNat = true ∧ s.f ACC_LEARN_STAT_STATE = 0 ∧ auth = 2 ∧ s.acc.lock = false ∧ s.on STR_RNG_STAT_HEALTHY = true) ∧
    (∃ (init : Byte) (idx : Fin 8) (auth : Fin 4) (s : State), s.fullPart = true ∧ s.accMay init.toNat = true ∧ s.f ACC_LEARN_STAT_STATE = 0 ∧ auth = 2 ∧ s.acc.lock = true) ∧
    (∃ (init : Byte) (w : Word) (s : State), s.fullPart = true ∧ s.accMay init.toNat = true ∧ s.f ACC_LEARN_STAT_STATE = 1 ∧ bytesLE 4 (s.reg (ACC_LEARN_RESP 0)).toNat ++ bytesLE 4 w.toNat = s.dealerResp ∧ s.acc.op = 1) ∧
    (∃ (init : Byte) (w : Word) (s : State), s.fullPart = true ∧ s.accMay init.toNat = true ∧ s.f ACC_LEARN_STAT_STATE = 1 ∧ ¬(bytesLE 4 (s.reg (ACC_LEARN_RESP 0)).toNat ++ bytesLE 4 w.toNat = s.dealerResp) ∧ s.acc.lockH = 0 ∧ s.f ACC_LEARN_STAT_FAILS < 4) ∧
    (∃ (init : Byte) (w : Word) (s : State), s.fullPart = true ∧ s.accMay init.toNat = true ∧ s.f ACC_LEARN_STAT_STATE = 1 ∧ ¬(bytesLE 4 (s.reg (ACC_LEARN_RESP 0)).toNat ++ bytesLE 4 w.toNat = s.dealerResp) ∧ (s.acc.lockH ≠ 0 ∨ 4 ≤ s.f ACC_LEARN_STAT_FAILS) ∧ s.acc.lockH ≤ 64) ∧
    (∃ (s : State), s.f ACC_LEARN_STAT_STATE = 1) ∧
    (∃ (s : State), s.acc.lock = true) ∧
    (∃ (i : Fin 8) (s : State), s.f ACC_LEARN_STAT_STATE = 3 ∧ s.acc.op = 1 ∧ s.acc.idx = i.val) ∧
    (∃ (init : Byte) (s : State), s.fullPart = true ∧ s.accMay init.toNat = true ∧ s.recent = true ∧ s.acc.verTok < 8) ∧
    (∃ (init : Byte) (s : State), s.fullPart = true ∧ s.accMay init.toNat = true ∧ s.recent = false) :=
  ⟨⟨(8 : Byte), (7 : Fin 8), (1 : Fin 4), (({ State.reset with acc := { State.reset.acc with verAt := some (State.reset.now - 10), cur := some {} } }.setF ACC_LEARN_STAT_STATE 0)).setF ACC_AUTH_CFG_GRANT_WIN 10, by decide +kernel⟩,
    ⟨(8 : Byte), (7 : Fin 8), (1 : Fin 4), ((((({ State.reset with acc := { State.reset.acc with verAt := some (State.reset.now - 10), cur := none } }.setF ACC_LEARN_STAT_STATE 0)).setF ACC_AUTH_CFG_GRANT_WIN 10).setF ACC_AUTH_STAT_ACTIVE (State.reset.free % 2)).setF ACC_AUTH_STAT_TOKEN (if State.reset.free % 3 = 0 then (7 : Fin 8).val else 0)), by decide +kernel⟩,
    ⟨(8 : Byte), (7 : Fin 8), (2 : Fin 4), (({ State.reset with acc := { State.reset.acc with lock := false } }.setF ACC_LEARN_STAT_STATE 0)).setF STR_RNG_STAT_HEALTHY 1, by decide +kernel⟩,
    ⟨(8 : Byte), (7 : Fin 8), (2 : Fin 4), ({ State.reset with acc := { State.reset.acc with lock := true } }.setF ACC_LEARN_STAT_STATE 0), by decide +kernel⟩,
    ⟨(8 : Byte), (1854520682 : Word), (((({ State.reset with keys := [(22, { kind := 1, bytes := List.replicate 16 9 })], acc := { State.reset.acc with idx := 5, op := 1, cur := none } }.setF ACC_LEARN_STAT_STATE 1).setReg (ACC_LEARN_RESP 0) 3294969266)).setReg ACC_TOKEN_STAT 0).setF ACC_CFG_VEH_ID 0|>.setReg (ACC_LEARN_CHAL 0) 0 |>.setReg (ACC_LEARN_CHAL 1) 0 |>.setReg (ACC_LEARN_CHAL 2) 0 |>.setReg (ACC_LEARN_CHAL 3) 0, by decide +kernel⟩,
    ⟨(8 : Byte), (5 : Word), { (({ State.reset with keys := [(22, { kind := 1, bytes := List.replicate 16 9 })], acc := { State.reset.acc with cur := none } }.setF ACC_LEARN_STAT_STATE 1)).setF ACC_LEARN_STAT_FAILS (State.reset.free % 4) with acc := { State.reset.acc with lockH := 0, cur := none } }, by decide +kernel⟩,
    ⟨(8 : Byte), (5 : Word), { (({ State.reset with keys := [(22, { kind := 1, bytes := List.replicate 16 9 })], acc := { State.reset.acc with cur := none } }.setF ACC_LEARN_STAT_STATE 1)).setF ACC_LEARN_STAT_FAILS 4 with acc := { State.reset.acc with lockH := State.reset.free % 65, cur := none } }, by decide +kernel⟩,
    ⟨State.reset.setF ACC_LEARN_STAT_STATE 1, by decide +kernel⟩,
    ⟨{ State.reset with acc := { State.reset.acc with lock := true } }, by decide +kernel⟩,
    ⟨(7 : Fin 8), { State.reset with acc := { State.reset.acc with op := 1, idx := (7 : Fin 8).val } }.setF ACC_LEARN_STAT_STATE 3, by decide +kernel⟩,
    ⟨(8 : Byte), ({ State.reset with acc := { State.reset.acc with verAt := some (State.reset.now - 10), verTok := State.reset.free % 8 } }).setF ACC_AUTH_CFG_GRANT_WIN 10, by decide +kernel⟩,
    ⟨(8 : Byte), { State.reset with acc := { State.reset.acc with verAt := none } }, by decide +kernel⟩⟩

/-- Hypotheses of Obligations.AccessLearningAuthorisationAndRelease are met. -/
theorem test_hyps_accessLearningAuthorisationAndRelease_3 :
    (∃ (init : Byte) (s : State), s.fullPart = true ∧ s.accMay init.toNat = true ∧ s.on ACC_AUTH_STAT_ACTIVE = true) ∧
    (∃ (s : State), s.on ACC_AUTH_STAT_ACTIVE = true) ∧
    (∃ (s : State), s.fullPart = true ∧ s.acc.ctr < 0xFFFFFFFE ∧ ((s.key 23).kind ≠ 0 ∧ (s.key 24).kind ≠ 0) ∧ s.on ACC_AUTH_STAT_ACTIVE = true ∧ s.boot.phase = .run ∧ s.measures = true) ∧
    (∃ (s : State), s.fullPart = true ∧ s.acc.ctr < 0xFFFFFFFE ∧ ((s.key 23).kind ≠ 0 ∧ (s.key 24).kind ≠ 0) ∧ s.on ACC_AUTH_STAT_ACTIVE = false ∧ 0 < s.acc.withdraw ∧ s.boot.phase = .run ∧ s.measures = true) ∧
    (∃ (s : State), s.on STR_HB_STAT_CC_ARMED = true ∧ s.on STR_HB_STAT_CC_MISSING = false ∧ s.f PWR_STATE_STATE < 2) :=
  ⟨⟨(8 : Byte), State.reset.setF ACC_AUTH_STAT_ACTIVE 1, by decide +kernel⟩,
    ⟨State.reset.setF ACC_AUTH_STAT_ACTIVE 1, by decide +kernel⟩,
    ⟨{ State.reset.wRun with keys := [(23, { kind := 1, bytes := List.replicate 16 1 }), (24, { kind := 1, bytes := List.replicate 16 2 })], acc := { State.reset.acc with ctr := State.reset.free } }.setF ACC_AUTH_STAT_ACTIVE 1, by decide +kernel⟩,
    ⟨{ State.reset.wRun with keys := [(23, { kind := 1, bytes := List.replicate 16 1 }), (24, { kind := 1, bytes := List.replicate 16 2 })], acc := { State.reset.acc with ctr := State.reset.free, withdraw := 1 + State.reset.free % 3 } }.setF ACC_AUTH_STAT_ACTIVE 0, by decide +kernel⟩,
    ⟨(((((State.reset.setF PWR_STATE_STATE 0).setF STR_HB_STAT_CC_ARMED 1).setF STR_HB_STAT_CC_MISSING 0).setF STR_CFG_CC_ACT (State.reset.free % 3)).setF (ZRT_SES_CFG_HB 3) 1).setF ACC_AUTH_STAT_ACTIVE (State.reset.free / 3 % 2), by decide +kernel⟩⟩

/-- Hypotheses of Obligations.IsolatedOutputsAndInputs are met. -/
theorem test_hyps_isolatedOutputsAndInputs_1 :
    (∃ (levels : BitVec 16) (limit : BitVec 16) (s : State), s.fullPart = true) ∧
    (∃ (levels : BitVec 16) (limit : BitVec 16) (s : State), s.fullPart = true ∧ s.iso.cfgPend = true) ∧
    (∃ (levels : BitVec 16) (limit : BitVec 16) (s : State), s.fullPart = true ∧ s.iso.cfgPend = false ∧ s.iso.ka = true) ∧
    (∃ (levels : BitVec 16) (limit : BitVec 16) (s : State), s.fullPart = true ∧ s.iso.cfgPend = false ∧ s.iso.ka = false) ∧
    (∃ (f : BitVec 64) (err : BitVec 64) (s : State), s.iso.toField = some f ∧ isoKind f = 0 ∧ (s.iso.power = true ∧ s.iso.configured = true) ∧ (isoKind (f ^^^ err) = 0 ∧ isoCrcOk (f ^^^ err) = true) ∧ (1 ≤ (isoSeq (f ^^^ err) + 16 - s.iso.last) % 16 ∧ (isoSeq (f ^^^ err) + 16 - s.iso.last) % 16 ≤ 4) ∧ isoLo (f ^^^ err) = 0xFFFF - isoHi (f ^^^ err)) ∧
    (∃ (f : BitVec 64) (err : BitVec 64) (s : State), s.iso.toField = some f ∧ isoKind f = 0 ∧ (¬((s.iso.power = true ∧ s.iso.configured = true) ∧ (isoKind (f ^^^ err) = 0 ∧ isoCrcOk (f ^^^ err) = true) ∧ (1 ≤ (isoSeq (f ^^^ err) + 16 - s.iso.last) % 16 ∧ (isoSeq (f ^^^ err) + 16 - s.iso.last) % 16 ≤ 4) ∧ isoLo (f ^^^ err) = 0xFFFF - isoHi (f ^^^ err)))) ∧
    (∃ (f : BitVec 64) (err : BitVec 64) (s : State), s.iso.toField = some f ∧ isoKind f = 1 ∧ s.iso.power = true ∧ (isoKind (f ^^^ err) = 1 ∧ isoCrcOk (f ^^^ err) = true) ∧ (1 ≤ (isoSeq (f ^^^ err) + 16 - s.iso.last) % 16 ∧ (isoSeq (f ^^^ err) + 16 - s.iso.last) % 16 ≤ 4)) ∧
    (∃ (f : BitVec 64) (err : BitVec 64) (s : State), s.iso.toField = some f ∧ isoKind f = 1 ∧ (¬(s.iso.power = true ∧ (isoKind (f ^^^ err) = 1 ∧ isoCrcOk (f ^^^ err) = true) ∧ (1 ≤ (isoSeq (f ^^^ err) + 16 - s.iso.last) % 16 ∧ (isoSeq (f ^^^ err) + 16 - s.iso.last) % 16 ≤ 4)))) ∧
    (∃ (f : BitVec 64) (err : BitVec 64) (s : State), s.iso.toLogic = some f ∧ (isoCrcOk (f ^^^ err) = false ∨ isoKind (f ^^^ err) ≠ 2)) ∧
    (∃ (f : BitVec 64) (err : BitVec 64) (s : State), s.iso.toLogic = some f ∧ (isoCrcOk (f ^^^ err) = true ∧ isoKind (f ^^^ err) = 2) ∧ s.isoState = 0) ∧
    (∃ (f : BitVec 64) (err : BitVec 64) (s : State), s.iso.toLogic = some f ∧ (isoCrcOk (f ^^^ err) = true ∧ isoKind (f ^^^ err) = 2) ∧ s.isoState ≠ 0 ∧ s.iso.cfgPend = true ∧ isoGen (f ^^^ err) = s.iso.gen) ∧
    (∃ (f : BitVec 64) (err : BitVec 64) (s : State), s.iso.toLogic = some f ∧ (isoCrcOk (f ^^^ err) = true ∧ isoKind (f ^^^ err) = 2) ∧ s.isoState ≠ 0 ∧ s.iso.cfgPend = false ∧ s.iso.counted = true ∧ isoGen (f ^^^ err) = 0) :=
  ⟨⟨(0x8001 : BitVec 16), (0 : BitVec 16), State.reset, by decide +kernel⟩,
    ⟨(0 : BitVec 16), (0 : BitVec 16), { State.reset with iso := { State.reset.iso with cfgPend := true } }, by decide +kernel⟩,
    ⟨(0 : BitVec 16), (0 : BitVec 16), { State.reset with iso := { State.reset.iso with cfgPend := false, ka := true } }.setF ISO_CTL_FORCE_SAFE (State.reset.free % 2), by decide +kernel⟩,
    ⟨(0 : BitVec 16), (0 : BitVec 16), { State.reset with iso := { State.reset.iso with cfgPend := false, ka := false } }, by decide +kernel⟩,
    ⟨(isoData 3 8 : BitVec 64), (0 : BitVec 64), { State.reset with iso := { State.reset.iso with toField := some (isoData 3 8 : BitVec 64), power := true, configured := true, last := (isoSeq (isoData 3 8 : BitVec 64) + 16 - (1 + State.reset.free % 4)) % 16 } }, by decide +kernel⟩,
    ⟨(isoData 3 8 : BitVec 64), (0x100000000 : BitVec 64), { State.reset with iso := { State.reset.iso with toField := some (isoData 3 8 : BitVec 64), power := (State.reset.free % 2 = 0), configured := (State.reset.free % 3 = 0), last := (isoSeq (isoData 3 8 : BitVec 64) + 16 - (State.reset.free % 6)) % 16 } }, by decide +kernel⟩,
    ⟨(isoConfig 3 8 4 25 : BitVec 64), (0 : BitVec 64), { State.reset with iso := { State.reset.iso with toField := some (isoConfig 3 8 4 25 : BitVec 64), power := true, configured := (State.reset.free % 2 = 0), last := (isoSeq (isoConfig 3 8 4 25 : BitVec 64) + 16 - (1 + State.reset.free % 4)) % 16 } }, by decide +kernel⟩,
    ⟨(isoConfig 3 8 4 25 : BitVec 64), (0x10000 : BitVec 64), { State.reset with iso := { State.reset.iso with toField := some (isoConfig 3 8 4 25 : BitVec 64), power := (State.reset.free % 2 = 0), configured := false, last := (isoSeq (isoConfig 3 8 4 25 : BitVec 64) + 16 - (State.reset.free % 6)) % 16 } }, by decide +kernel⟩,
    ⟨(isoField 0 1 3 false false : BitVec 64), (0x8000 : BitVec 64), { State.reset with iso := { State.reset.iso with toLogic := some (isoField 0 1 3 false false : BitVec 64) } }, by decide +kernel⟩,
    ⟨(isoField 0 1 3 true false : BitVec 64), (0 : BitVec 64), { State.reset with iso := { State.reset.iso with toLogic := some (isoField 0 1 3 true false : BitVec 64) } }.setF ISO_STAT_STATE 0, by decide +kernel⟩,
    ⟨(isoField 0 1 4 false true : BitVec 64), (0 : BitVec 64), { State.reset with iso := { State.reset.iso with toLogic := some (isoField 0 1 4 false true : BitVec 64), cfgPend := true, gen := isoGen (isoField 0 1 4 false true : BitVec 64) } }.setF ISO_STAT_STATE (1 + State.reset.free % 2), by decide +kernel⟩,
    ⟨(isoField 0 1 0 false false : BitVec 64), (0 : BitVec 64), { State.reset with iso := { State.reset.iso with toLogic := some (isoField 0 1 0 false false : BitVec 64), cfgPend := false, counted := true } }.setF ISO_STAT_STATE 2, by decide +kernel⟩⟩

/-- Hypotheses of Obligations.IsolatedOutputsAndInputs are met. -/
theorem test_hyps_isolatedOutputsAndInputs_2 :
    (∃ (f : BitVec 64) (err : BitVec 64) (j : Fin 16) (s : State), s.iso.toLogic = some f ∧ (isoCrcOk (f ^^^ err) = true ∧ isoKind (f ^^^ err) = 2) ∧ s.isoState ≠ 0 ∧ 10 * s.f ISO_IN_CFG_FILT ≤ (s.isoRun j).run ∧ ((s.isoRun j).run ≠ 0 ∧ (s.isoRun j).lvl = bitOf (isoHi (f ^^^ err)) j)) ∧
    (∃ (s : State), s.iso.power = true ∧ s.iso.configured = true) ∧
    (∃ (s : State), (s.iso.power = false ∨ s.iso.configured = false)) ∧
    (∃ (s : State), s.fullPart = true ∧ s.isoState = 0 ∧ s.boot.phase = .run) ∧
    (∃ (init : Byte) (v : BitVec 16) (s : State), s.fullPart = true ∧ (isStr init.toNat || (((init.toNat ≠ 0 && s.f ISO_ACCESS_OWNER = init.toNat) || (isSession init.toNat && bitOf (s.f ISO_ACCESS_ZRT_GRANT) (init.toNat - 0x40))) && !s.on ISO_CTL_FORCE_SAFE && s.isoState ≠ 0)) = true) ∧
    (∃ (init : Byte) (v : BitVec 16) (s : State), s.fullPart = true ∧ (isStr init.toNat || (((init.toNat ≠ 0 && s.f ISO_ACCESS_OWNER = init.toNat) || (isSession init.toNat && bitOf (s.f ISO_ACCESS_ZRT_GRANT) (init.toNat - 0x40))) && !s.on ISO_CTL_FORCE_SAFE && s.isoState ≠ 0)) = false) ∧
    (∃ (init : Byte) (v : Bool) (s : State), s.fullPart = true ∧ isStr init.toNat = true) ∧
    (∃ (s : State), s.fullPart = true ∧ s.isoState ≠ 0) ∧
    (∃ (s : State), s.fullPart = true ∧ s.isoState = 0) ∧
    (∃ (j : Fin 16) (s : State), s.iso.power = true ∧ bitOf s.iso.thermal j = false ∧ s.iso.thermal < 0x10000 ∧ s.fullPart = true) ∧
    (∃ (j : Fin 16) (s : State), bitOf s.iso.thermal j = true ∧ s.iso.thermal < 0x10000) ∧
    (∃ (s : State), s.fullPart = true) :=
  ⟨⟨(isoField 0 0x8000 3 false false : BitVec 64), (0 : BitVec 64), (15 : Fin 16), ({ State.reset with iso := { State.reset.iso with toLogic := some (isoField 0 0x8000 3 false false : BitVec 64), runs := [((15 : Fin 16).val, { run := 200, lvl := bitOf (isoHi (isoField 0 0x8000 3 false false : BitVec 64)) (15 : Fin 16) })] } }.setF ISO_STAT_STATE 2).setF ISO_IN_CFG_FILT (State.reset.free % 21), by decide +kernel⟩,
    ⟨{ State.reset with iso := { State.reset.iso with power := true, configured := true } }, by decide +kernel⟩,
    ⟨{ State.reset with iso := { State.reset.iso with configured := false } }, by decide +kernel⟩,
    ⟨{ State.reset.setF ISO_STAT_STATE 0 with boot := { State.reset.boot with phase := .run } }, by decide +kernel⟩,
    ⟨(8 : Byte), (0x8001 : BitVec 16), ((State.reset.setF ISO_ACCESS_OWNER 0x2C).setF ISO_CTL_FORCE_SAFE (State.reset.free % 2)).setF ISO_STAT_STATE (State.reset.free % 3), by decide +kernel⟩,
    ⟨(0x2C : Byte), (0x8001 : BitVec 16), ((State.reset.setF ISO_ACCESS_OWNER 0x2C).setF ISO_CTL_FORCE_SAFE 1), by decide +kernel⟩,
    ⟨(8 : Byte), (true : Bool), State.reset, by decide +kernel⟩,
    ⟨State.reset.setF ISO_STAT_STATE 2, by decide +kernel⟩,
    ⟨State.reset.setF ISO_STAT_STATE 0, by decide +kernel⟩,
    ⟨(15 : Fin 16), { State.reset with iso := { State.reset.iso with power := true, thermal := State.reset.free % 0x10000 } }, by decide +kernel⟩,
    ⟨(15 : Fin 16), { State.reset with iso := { State.reset.iso with thermal := 0x8000 + State.reset.free % 0x8000 } }, by decide +kernel⟩,
    ⟨State.reset, by decide +kernel⟩⟩

/-- Hypotheses of Obligations.IsolatedOutputsAndInputs are met. -/
theorem test_hyps_isolatedOutputsAndInputs_3 :
    ∃ (s : State), s.fullPart = true ∧ s.iso.power = false :=
  ⟨{ State.reset with iso := { State.reset.iso with power := false } }, by decide +kernel⟩

/-- Hypotheses of Obligations.SettingsStore are met. -/
theorem test_hyps_settingsStore :
    (∃ (init : Byte) (b : List Byte) (s : State), b.length = 16 ∧ s.f ⟨NVM_SLOT_ST ({ init := init.toNat, bytes := b } : StoreReq).res, 16, 2⟩ ≠ 1 ∧ s.nvm.queue.length < 8) ∧
    (∃ (init : Byte) (b : List Byte) (s : State), (1 ≤ b.length ∧ b.length ≤ 64) ∧ b.length ≠ 16) ∧
    (∃ (init : Byte) (b : List Byte) (s : State), b.length = 16 ∧ s.f ⟨NVM_SLOT_ST ({ init := init.toNat, bytes := b } : StoreReq).res, 16, 2⟩ ≠ 1 ∧ 8 ≤ s.nvm.queue.length) ∧
    (∃ (r : StoreReq) (l : List StoreReq) (s : State), s.nvm.queue = r :: l ∧ (s.nvm.recs.find? (fun x => x.key = r.key) = none)) ∧
    (∃ (r : StoreReq) (l : List StoreReq) (x : NvmRec) (s : State), s.nvm.queue = r :: l ∧ (s.nvm.recs.find? (fun x => x.key = r.key) = some x) ∧ x.may r.init = false) ∧
    (∃ (r : StoreReq) (l : List StoreReq) (x : NvmRec) (s : State), s.nvm.queue = r :: l ∧ (s.nvm.recs.find? (fun x => x.key = r.key) = some x) ∧ x.may r.init = true ∧ (r.len = 0 ∨ 256 < r.len ∨ x.len < r.off + r.len)) ∧
    (∃ (r : StoreReq) (l : List StoreReq) (x : NvmRec) (s : State), s.nvm.queue = r :: l ∧ (s.nvm.recs.find? (fun x => x.key = r.key) = some x) ∧ x.may r.init = true ∧ (1 ≤ r.len ∧ r.len ≤ 256 ∧ r.off + r.len ≤ x.len) ∧ s.storeSrcOk r.src r.len = false) ∧
    (∃ (r : StoreReq) (l : List StoreReq) (x : NvmRec) (s : State), s.nvm.queue = r :: l ∧ (s.nvm.recs.find? (fun x => x.key = r.key) = some x) ∧ x.may r.init = true ∧ (1 ≤ r.len ∧ r.len ≤ 256 ∧ r.off + r.len ≤ x.len) ∧ s.storeSrcOk r.src r.len = true ∧ s.journalUsed + r.len + 32 ≤ 0x80000) ∧
    (∃ (r : StoreReq) (l : List StoreReq) (x : NvmRec) (s : State), s.nvm.queue = r :: l ∧ (s.nvm.recs.find? (fun x => x.key = r.key) = some x) ∧ x.may r.init = true ∧ (1 ≤ r.len ∧ r.len ≤ 256 ∧ r.off + r.len ≤ x.len) ∧ s.storeSrcOk r.src r.len = true ∧ s.journalUsed + r.len + 32 ≤ 0x80000 ∧ (s.recContent x).length = x.len ∧ inStoreRange r.src r.len = true) ∧
    (∃ (e : JEntry) (l : List JEntry) (s : State), s.nvm.journal = e :: l) :=
  ⟨⟨(8 : Byte), ([1, 0, 4, 0, 8, 0, 0x83, 0, 0, 1, 0, 1, 0, 0, 0, 0] : List Byte), State.reset, by decide +kernel⟩,
    ⟨(8 : Byte), ([1, 2] : List Byte), State.reset, by decide +kernel⟩,
    ⟨(0x10 : Byte), ([1, 0, 4, 0, 8, 0, 0x83, 0, 0, 1, 0, 1, 0, 0, 0, 0] : List Byte), { State.reset with nvm := { State.reset.nvm with queue := List.replicate 8 {} } }, by decide +kernel⟩,
    ⟨({ init := 8, bytes := [1, 0, 4, 0, 8, 0, 0x83, 0, 0, 1, 0, 1, 0, 0, 0, 0] } : StoreReq), ([] : List StoreReq), { State.reset with nvm := { State.reset.nvm with queue := ({ init := 8, bytes := [1, 0, 4, 0, 8, 0, 0x83, 0, 0, 1, 0, 1, 0, 0, 0, 0] } : StoreReq) :: ([] : List StoreReq), journal := [], recs := [] } }, by decide +kernel⟩,
    ⟨({ init := 0x11, bytes := [1, 0, 4, 0, 8, 0, 0x83, 0, 0, 1, 0, 1, 0, 0, 0, 0] } : StoreReq), ([] : List StoreReq), ({ key := 1, len := 20, home := 0x40, writers := [0x10] } : NvmRec), { State.reset with nvm := { State.reset.nvm with queue := ({ init := 0x11, bytes := [1, 0, 4, 0, 8, 0, 0x83, 0, 0, 1, 0, 1, 0, 0, 0, 0] } : StoreReq) :: ([] : List StoreReq), journal := State.reset.nvm.journal.take 1, recs := ({ key := 1, len := 20, home := 0x40, writers := [0x10] } : NvmRec) :: State.reset.nvm.recs } }, by decide +kernel⟩,
    ⟨({ init := 8, bytes := [1, 0, 4, 0, 8, 0, 0x83, 0, 0, 1, 0, 1, 0, 0, 0, 0] } : StoreReq), ([] : List StoreReq), ({ key := 1, len := 11, home := 0x40 } : NvmRec), { State.reset with nvm := { State.reset.nvm with queue := ({ init := 8, bytes := [1, 0, 4, 0, 8, 0, 0x83, 0, 0, 1, 0, 1, 0, 0, 0, 0] } : StoreReq) :: ([] : List StoreReq), journal := State.reset.nvm.journal.take 1, recs := ({ key := 1, len := 11, home := 0x40 } : NvmRec) :: State.reset.nvm.recs } }, by decide +kernel⟩,
    ⟨({ init := 8, bytes := [1, 0, 4, 0, 8, 0, 3, 0, 0, 0, 0, 7, 0, 0, 0, 0] } : StoreReq), ([] : List StoreReq), ({ key := 1, len := 12, home := 0x40 } : NvmRec), { State.reset with nvm := { State.reset.nvm with queue := ({ init := 8, bytes := [1, 0, 4, 0, 8, 0, 3, 0, 0, 0, 0, 7, 0, 0, 0, 0] } : StoreReq) :: ([] : List StoreReq), journal := State.reset.nvm.journal.take 1, recs := ({ key := 1, len := 12, home := 0x40 } : NvmRec) :: State.reset.nvm.recs } }, by decide +kernel⟩,
    ⟨({ init := 8, bytes := [1, 0, 4, 0, 8, 0, 0x83, 0, 0, 1, 0, 1, 0, 0, 0, 0] } : StoreReq), ([] : List StoreReq), ({ key := 1, len := 20, home := 0x40, writers := [0x10] } : NvmRec), { State.reset with nvm := { State.reset.nvm with queue := ({ init := 8, bytes := [1, 0, 4, 0, 8, 0, 0x83, 0, 0, 1, 0, 1, 0, 0, 0, 0] } : StoreReq) :: ([] : List StoreReq), journal := State.reset.nvm.journal.take 1, recs := ({ key := 1, len := 20, home := 0x40, writers := [0x10] } : NvmRec) :: State.reset.nvm.recs } }, by decide +kernel⟩,
    ⟨({ init := 8, bytes := [1, 0, 4, 0, 8, 0, 0x83, 0, 0, 1, 0, 1, 0, 0, 0, 0] } : StoreReq), ([] : List StoreReq), ({ key := 1, len := 20, home := 0x40, writers := [0x10] } : NvmRec), { State.reset with nvm := { State.reset.nvm with queue := ({ init := 8, bytes := [1, 0, 4, 0, 8, 0, 0x83, 0, 0, 1, 0, 1, 0, 0, 0, 0] } : StoreReq) :: ([] : List StoreReq), journal := [], home := [(({ key := 1, len := 20, home := 0x40, writers := [0x10] } : NvmRec).homeKey, List.replicate (if ({ key := 1, len := 20, home := 0x40, writers := [0x10] } : NvmRec).len < 1000 then ({ key := 1, len := 20, home := 0x40, writers := [0x10] } : NvmRec).len else 0) 7)], recs := ({ key := 1, len := 20, home := 0x40, writers := [0x10] } : NvmRec) :: State.reset.nvm.recs } }, by decide +kernel⟩,
    ⟨({ key := 1, len := 12, off := 2, bytes := [1, 2, 3] } : JEntry), ([] : List JEntry), { State.reset with nvm := { State.reset.nvm with journal := ({ key := 1, len := 12, off := 2, bytes := [1, 2, 3] } : JEntry) :: ([] : List JEntry), recs := { key := ({ key := 1, len := 12, off := 2, bytes := [1, 2, 3] } : JEntry).key, len := ({ key := 1, len := 12, off := 2, bytes := [1, 2, 3] } : JEntry).len } :: State.reset.nvm.recs } }, by decide +kernel⟩⟩

/-- Hypotheses of Obligations.FeedsBandsCrossingsAndCrews are met. -/
theorem test_hyps_feedsBandsCrossingsAndCrews :
    (∃ (v : BitVec 16) (s : State), s.f PWR_FEED_STAT_BAND ≠ 2 ∧ thrDumpRise s.class24 < v.toNat) ∧
    (∃ (v : BitVec 16) (s : State), s.f PWR_FEED_STAT_BAND = 0 ∧ v.toNat < thrLowFall s.class24) ∧
    (∃ (v : BitVec 16) (s : State), s.f PWR_FEED_STAT_BAND = 2 ∧ v.toNat < thrDumpFall s.class24 ∧ thrLowFall s.class24 ≤ v.toNat) ∧
    (∃ (v : BitVec 16) (s : State), s.f PWR_FEED_STAT_BAND = 1 ∧ thrLowRise s.class24 ≤ v.toNat ∧ v.toNat ≤ thrDumpRise s.class24) ∧
    (∃ (v : BitVec 16) (s : State), bandFrom s.class24 (s.f PWR_FEED_STAT_BAND) v.toNat = s.f PWR_FEED_STAT_BAND) ∧
    (∃ (v : BitVec 16) (s : State), s.boot.por = false ∧ v.toNat < thrBrownFall ∧ s.canonical = true) ∧
    (∃ (n : Fin 14) (vbat : BitVec 16) (s : State), s.diePresent n = true ∧ vbat.toNat < thrDieFall) ∧
    (∃ (a : Fin 30) (d : Fin 30) (p : BitVec 16) (s : State), s.xingOf a d < 2 ∧ a ≠ d ∧ (s.islandPresent a = true ∧ s.islandPresent d = true)) ∧
    (∃ (a : Fin 30) (d : Fin 30) (s : State), s.xingOf a d = 2) ∧
    (∃ (a : Fin 30) (d : Fin 30) (s : State), s.xingOf a d = 3) ∧
    (∃ (c : Fin 6) (s : State), s.boot.phase = .adopt ∧ s.crewPresent c = true ∧ s.clocked (3 + c.val) = false ∧ (s.adoptLeft = false ∧ s.on LDG_STAT_RUNNING = true)) :=
  ⟨⟨(65535 : BitVec 16), State.reset.setF PWR_FEED_STAT_BAND (State.reset.free % 2), by decide +kernel, by generalize State.class24 _ = b; cases b <;> simp [bandFrom, thrDumpRise, thrDumpFall, thrLowRise, thrLowFall, threshold] <;> (repeat' split) <;> omega⟩,
    ⟨(0 : BitVec 16), State.reset.setF PWR_FEED_STAT_BAND 0, by decide +kernel, by generalize State.class24 _ = b; cases b <;> simp [bandFrom, thrDumpRise, thrDumpFall, thrLowRise, thrLowFall, threshold] <;> (repeat' split) <;> omega⟩,
    ⟨(9500 : BitVec 16), State.reset.setF PWR_FEED_STAT_BAND 2, by decide +kernel, by generalize State.class24 _ = b; cases b <;> simp [bandFrom, thrDumpRise, thrDumpFall, thrLowRise, thrLowFall, threshold] <;> (repeat' split) <;> omega, by generalize State.class24 _ = b; cases b <;> simp [bandFrom, thrDumpRise, thrDumpFall, thrLowRise, thrLowFall, threshold] <;> (repeat' split) <;> omega⟩,
    ⟨(9500 : BitVec 16), State.reset.setF PWR_FEED_STAT_BAND 1, by decide +kernel, by generalize State.class24 _ = b; cases b <;> simp [bandFrom, thrDumpRise, thrDumpFall, thrLowRise, thrLowFall, threshold] <;> (repeat' split) <;> omega, by generalize State.class24 _ = b; cases b <;> simp [bandFrom, thrDumpRise, thrDumpFall, thrLowRise, thrLowFall, threshold] <;> (repeat' split) <;> omega⟩,
    ⟨(9500 : BitVec 16), (State.reset.setF PWR_FEED_STAT_BAND 0), by rw [show State.f _ PWR_FEED_STAT_BAND = 0 by decide +kernel]; generalize State.class24 _ = b; cases b <;> simp [bandFrom, thrDumpRise, thrDumpFall, thrLowRise, thrLowFall, threshold] <;> (repeat' split) <;> omega⟩,
    ⟨(3000 : BitVec 16), { State.reset with boot := { State.reset.boot with por := false } }, by decide +kernel, by show 3000 < thrBrownFall; unfold thrBrownFall threshold; omega, by decide +kernel⟩,
    ⟨(13 : Fin 14), (2000 : BitVec 16), State.reset, by decide +kernel, by show 2000 < thrDieFall; unfold thrDieFall threshold; omega⟩,
    ⟨(2 : Fin 30), (29 : Fin 30), (5 : BitVec 16), { State.reset with pwr := { State.reset.pwr with xing := tset (fun _ => 0) State.reset.pwr.xing ((2 : Fin 30) * 32 + (29 : Fin 30)) (State.reset.free % 2) } }, by decide +kernel⟩,
    ⟨(2 : Fin 30), (29 : Fin 30), { State.reset with pwr := { State.reset.pwr with xing := tset (fun _ => 0) State.reset.pwr.xing ((2 : Fin 30) * 32 + (29 : Fin 30)) 2 } }, by decide +kernel⟩,
    ⟨(2 : Fin 30), (29 : Fin 30), { State.reset with pwr := { State.reset.pwr with xing := [((2 : Fin 30) * 32 + (29 : Fin 30), 3)] } }, by decide +kernel⟩,
    ⟨(5 : Fin 6), ((({ State.reset with boot := { State.reset.boot with phase := .adopt }, links := [] }.setReg PWR_ISLAND_STAT (0x1F8 - 2 ^ (3 + (5 : Fin 6).val))).setF PWR_STATE_STATE 0).setF LDG_STAT_RUNNING 1), by decide +kernel⟩⟩

/-- Hypotheses of Obligations.PowerStates are met. -/
theorem test_hyps_powerStates_1 :
    (∃ (init : Byte) (s : State), s.pwrMay init.toNat = false) ∧
    (∃ (init : Byte) (s : State), s.pwrMay init.toNat = true ∧ s.f PWR_STATE_PHASE ≠ 0) ∧
    (∃ (init : Byte) (e : Fin 4) (s : State), s.pwrMay init.toNat = false) ∧
    (∃ (init : Byte) (e : Fin 4) (s : State), s.pwrMay init.toNat = true ∧ s.f PWR_STATE_PHASE ≠ 0) ∧
    (∃ (init : Byte) (s : State), s.pwrMay init.toNat = true ∧ s.f PWR_STATE_PHASE = 0 ∧ s.f PWR_STATE_STATE = 1) ∧
    (∃ (init : Byte) (s : State), s.pwrMay init.toNat = true ∧ s.f PWR_STATE_PHASE = 0 ∧ s.f PWR_STATE_STATE ≠ 1) ∧
    (∃ (init : Byte) (e : Fin 4) (s : State), s.pwrMay init.toNat = true ∧ s.f PWR_STATE_PHASE = 0) ∧
    (∃ (init : Byte) (y : Bool) (r : Byte) (s : State), s.f PWR_STATE_PHASE = 1 ∧ s.scr.voters.contains init.toNat = true ∧ (s.pwr.answers.all (fun a => a.1 ≠ init.toNat) = true)) ∧
    (∃ (init : Byte) (y : Bool) (r : Byte) (s : State), (¬(s.f PWR_STATE_PHASE = 1 ∧ s.scr.voters.contains init.toNat = true ∧ s.pwr.answers.all (fun a => a.1 ≠ init.toNat) = true))) ∧
    (∃ (refused : BitVec 3) (s : State), s.f PWR_STATE_PHASE = 1 ∧ ((s.voterRefusals ++ s.unitRefusals (s.f PWR_STATE_TARGET) ++ (s.expansions.filter (fun k => refused.getLsbD k)).map (fun k => (0x401 + k, 8))) = []) ∧ s.wakeLatched = false ∧ s.f PWR_STATE_TARGET < 3) ∧
    (∃ (refused : BitVec 3) (s : State), s.f PWR_STATE_PHASE = 1 ∧ ((s.voterRefusals ++ s.unitRefusals (s.f PWR_STATE_TARGET) ++ (s.expansions.filter (fun k => refused.getLsbD k)).map (fun k => (0x401 + k, 8))) = []) ∧ s.wakeLatched = true) ∧
    (∃ (refused : BitVec 3) (s : State), s.f PWR_STATE_PHASE = 1 ∧ ((s.voterRefusals ++ s.unitRefusals (s.f PWR_STATE_TARGET) ++ (s.expansions.filter (fun k => refused.getLsbD k)).map (fun k => (0x401 + k, 8))) ≠ [])) :=
  ⟨⟨(0x11 : Byte), State.reset, by decide +kernel⟩,
    ⟨(0x10 : Byte), (State.reset.setF PWR_CFG_AUTH_ENGINE (0x10 : Byte).toNat).setF PWR_STATE_PHASE 1, by decide +kernel⟩,
    ⟨(0x11 : Byte), (3 : Fin 4), State.reset, by decide +kernel⟩,
    ⟨(0x10 : Byte), (3 : Fin 4), (State.reset.setF PWR_CFG_AUTH_ENGINE (0x10 : Byte).toNat).setF PWR_STATE_PHASE 1, by decide +kernel⟩,
    ⟨(0x10 : Byte), ((State.reset.setF PWR_CFG_AUTH_ENGINE (0x10 : Byte).toNat).setF PWR_STATE_PHASE 0).setF PWR_STATE_STATE 1, by decide +kernel⟩,
    ⟨(0x10 : Byte), ((State.reset.setF PWR_CFG_AUTH_ENGINE (0x10 : Byte).toNat).setF PWR_STATE_PHASE 0).setF PWR_STATE_STATE 0, by decide +kernel⟩,
    ⟨(0x10 : Byte), (3 : Fin 4), { (State.reset.setF PWR_CFG_AUTH_ENGINE (0x10 : Byte).toNat).setF PWR_STATE_PHASE 0 with scr := { State.reset.scr with voters := [0x22, 0x41] } }, by decide +kernel⟩,
    ⟨(0x22 : Byte), (false : Bool), (0x91 : Byte), { State.reset.setF PWR_STATE_PHASE 1 with scr := { State.reset.scr with voters := [(0x22 : Byte).toNat] }, pwr := { State.reset.pwr with answers := [] } }, by decide +kernel⟩,
    ⟨(0x22 : Byte), (false : Bool), (0x91 : Byte), State.reset, by decide +kernel⟩,
    ⟨(0 : BitVec 3), ({ State.reset with scr := { State.reset.scr with voters := [0x22] }, pwr := { State.reset.pwr with answers := [(0x22, 0x100)] } }.setF PWR_STATE_PHASE 1).setF PWR_STATE_TARGET 1, by decide +kernel⟩,
    ⟨(0 : BitVec 3), (({ State.reset with scr := { State.reset.scr with voters := [0x22] }, pwr := { State.reset.pwr with answers := [(0x22, 0x100)] } }.setF PWR_STATE_PHASE 1).setF PWR_STATE_TARGET 1).setF PWR_WAKE_SRC_SRC 1, by decide +kernel⟩,
    ⟨(0 : BitVec 3), { (State.reset.setF PWR_STATE_PHASE 1).setF PWR_STATE_TARGET 1 with scr := { State.reset.scr with voters := [0x22] }, pwr := { State.reset.pwr with answers := [(0x22, 0x91)] } }, by decide +kernel⟩⟩

/-- Hypotheses of Obligations.PowerStates are met. -/
theorem test_hyps_powerStates_2 :
    (∃ (sealed : BitVec 3) (s : State), s.f PWR_STATE_PHASE = 2 ∧ (s.expansions.all (fun k => sealed.getLsbD k || s.pwr.expSealed.contains k) = true) ∧ (s.f PWR_STATE_TARGET < 3 ∨ s.on DLY_ARCH_CTL_BUSY = false) ∧ (s.f PWR_STATE_TARGET < 2 ∨ s.drained = true)) ∧
    (∃ (sealed : BitVec 3) (s : State), s.f PWR_STATE_PHASE = 2 ∧ (s.expansions.any (fun k => !(sealed.getLsbD k || s.pwr.expSealed.contains k)) = true)) ∧
    (∃ (sealed : BitVec 3) (s : State), s.f PWR_STATE_PHASE = 2 ∧ 2 ≤ s.f PWR_STATE_TARGET ∧ s.drained = false) ∧
    (∃ (s : State), s.f PWR_STATE_PHASE = 3 ∧ s.wakeLatched = false ∧ s.f PWR_STATE_TARGET < 4) ∧
    (∃ (s : State), s.f PWR_STATE_PHASE = 3 ∧ s.wakeLatched = false ∧ s.f PWR_STATE_TARGET = 4) ∧
    (∃ (s : State), s.f PWR_STATE_PHASE = 3 ∧ s.wakeLatched = true) ∧
    (∃ (s : State), s.f PWR_STATE_STATE = 2 ∧ s.pwr.exit = true) ∧
    (∃ (s : State), (s.f PWR_STATE_STATE = 2 ∨ s.f PWR_STATE_STATE = 3) ∧ s.f PWR_WAKE_TIMER_SECONDS ≠ 0) ∧
    (∃ (levels : BitVec 96) (n : Fin 96) (s : State), (s.f PWR_STATE_STATE = 2 ∨ s.f PWR_STATE_STATE = 3) ∧ s.inOn n = true ∧ s.on (INP_CFG_POLL n) = true) ∧
    (∃ (a : BitVec 7) (s : State), (s.f PWR_STATE_STATE = 2 ∨ s.f PWR_STATE_STATE = 3) ∧ (a.toNat = s.f PWR_CFG_MNT_ADDR ∧ a ≠ 0)) ∧
    (∃ (a : BitVec 7) (s : State), (a.toNat ≠ s.f PWR_CFG_MNT_ADDR ∨ a = 0)) ∧
    (∃ (s : State), s.f PWR_STATE_STATE ≠ 2) :=
  ⟨⟨(7 : BitVec 3), (({ State.reset with waiting := [], exec := [] }.setF PWR_STATE_PHASE 2).setF DLY_ARCH_CTL_BUSY 0).setF PWR_STATE_TARGET (1 + State.reset.free % 4), by decide +kernel⟩,
    ⟨(3 : BitVec 3), ((State.reset.setF PWR_STATE_PHASE 2).setF TRK_CFG_ROLE 0).setF TRK_STAT_TRAINED 7, by decide +kernel⟩,
    ⟨(7 : BitVec 3), ({ State.reset with waiting := State.reset.waiting ++ [({ init := 0x10, op := 1, addr := 0x1000000, len := 1, data := [1] } : SpineTx)] }.setF PWR_STATE_PHASE 2).setF PWR_STATE_TARGET (2 + State.reset.free % 3), by decide +kernel⟩,
    ⟨((State.reset.setF PWR_STATE_PHASE 3).setReg PWR_WAKE_SRC 0).setF PWR_STATE_TARGET (1 + State.reset.free % 3), by decide +kernel⟩,
    ⟨((State.reset.setF PWR_STATE_PHASE 3).setReg PWR_WAKE_SRC 0).setF PWR_STATE_TARGET 4, by decide +kernel⟩,
    ⟨((State.reset.setF PWR_STATE_PHASE 3).setF PWR_WAKE_SRC_SRC 1).setF PWR_WAKE_EN_EN 3, by decide +kernel⟩,
    ⟨{ State.reset.setF PWR_STATE_STATE 2 with pwr := { State.reset.pwr with exit := true } }, by decide +kernel⟩,
    ⟨(State.reset.setF PWR_STATE_STATE (2 + State.reset.free % 2)).setF PWR_WAKE_TIMER_SECONDS 60, by decide +kernel⟩,
    ⟨(0x800000000000000000000000 : BitVec 96), (95 : Fin 96), { ((State.reset.setF PWR_STATE_STATE (2 + State.reset.free % 2)).setF (INP_CFG_MODE (95 : Fin 96)) 1).setF (INP_CFG_POLL (95 : Fin 96)) 1 with inp := { State.reset.inp with poll := tset (fun _ => 0) State.reset.inp.poll (95 : Fin 96) 1 } }, by decide +kernel⟩,
    ⟨(0x52 : BitVec 7), (State.reset.setF PWR_STATE_STATE (2 + State.reset.free % 2)).setF PWR_CFG_MNT_ADDR (0x52 : BitVec 7).toNat, by decide +kernel⟩,
    ⟨(0 : BitVec 7), State.reset, by decide +kernel⟩,
    ⟨{ State.reset.setF PWR_STATE_STATE 3 with pwr := { State.reset.pwr with sclHeld := true } }, by decide +kernel⟩⟩

/-- Hypotheses of Obligations.PowerStates are met. -/
theorem test_hyps_powerStates_3 :
    ∃ (s : State), s.f PWR_STATE_STATE = 2 :=
  ⟨State.reset.setF PWR_STATE_STATE 2, by decide +kernel⟩

/-- Hypotheses of Obligations.Updates are met. -/
theorem test_hyps_updates_1 :
    (∃ (init : Byte) (k : Fin 2) (s : State), (s.updMay init.toNat = false ∨ s.on UPD_STAT_BUSY = true)) ∧
    (∃ (init : Byte) (s : State), (s.updMay init.toNat = false ∨ s.on UPD_STAT_BUSY = true)) ∧
    (∃ (init : Byte) (ty : Fin 16) (tg : Fin 4) (s : State), (s.updMay init.toNat = false ∨ s.on UPD_STAT_BUSY = true)) ∧
    (∃ (init : Byte) (r1 : Byte) (r2 : Byte) (r3 : Byte) (s : State), (s.updMay init.toNat = false ∨ s.on UPD_STAT_BUSY = true)) ∧
    (∃ (init : Byte) (a : BitVec 3) (b : BitVec 3) (s : State), (s.updMay init.toNat = false ∨ s.on UPD_STAT_BUSY = true)) ∧
    (∃ (init : Byte) (s : State), (s.updMay init.toNat = false ∨ s.on UPD_STAT_BUSY = true)) ∧
    (∃ (init : Byte) (k : Fin 2) (j : Fin 2) (s : State), s.updMay init.toNat = true ∧ s.on UPD_STAT_BUSY = false ∧ s.updTarget k = some j.val ∧ s.upd.busy = false) ∧
    (∃ (init : Byte) (k : Fin 2) (s : State), s.updMay init.toNat = true ∧ s.on UPD_STAT_BUSY = false ∧ (s.updTarget k = none ∨ s.upd.busy = true)) ∧
    (∃ (init : Byte) (s : State), s.updMay init.toNat = true ∧ s.on UPD_STAT_BUSY = false ∧ s.f UPD_STAT_STATE = 1 ∧ (4 ≤ s.f UPD_XFER_LEN_LEN ∧ s.f UPD_XFER_LEN_LEN ≤ 65536 ∧ s.f UPD_XFER_LEN_LEN % 4 = 0) ∧ inStoreRange (s.f UPD_XFER_SRC_SRC) (s.f UPD_XFER_LEN_LEN) = true ∧ s.f UPD_XFER_DST_DST + s.f UPD_XFER_LEN_LEN ≤ 0x600000) ∧
    (∃ (init : Byte) (s : State), s.updMay init.toNat = true ∧ s.on UPD_STAT_BUSY = false ∧ s.f UPD_STAT_STATE = 1 ∧ (¬(4 ≤ s.f UPD_XFER_LEN_LEN ∧ s.f UPD_XFER_LEN_LEN ≤ 65536 ∧ s.f UPD_XFER_LEN_LEN % 4 = 0 ∧ inStoreRange (s.f UPD_XFER_SRC_SRC) (s.f UPD_XFER_LEN_LEN) = true ∧ s.f UPD_XFER_DST_DST + s.f UPD_XFER_LEN_LEN ≤ 0x600000))) ∧
    (∃ (init : Byte) (s : State), s.updMay init.toNat = true ∧ s.on UPD_STAT_BUSY = false ∧ s.f UPD_STAT_STATE ≠ 1) ∧
    (∃ (init : Byte) (ty : Fin 16) (tg : Fin 4) (qa : Nat) (n : Nat) (s : State), s.updMay init.toNat = true ∧ s.on UPD_STAT_BUSY = false ∧ s.f UPD_STAT_STATE = 1 ∧ s.upd.mode = 1 ∧ ((s.pkParts (slotAt (1 - s.upd.slot))).find? (fun q => q.type = ty.val && q.target = tg.val) = some { type := ty.val, target := tg.val, at_ := qa, len := n }) ∧ s.f UPD_XFER_DST_DST + n ≤ 0x600000) :=
  ⟨⟨(0 : Byte), (1 : Fin 2), State.reset, by decide +kernel⟩,
    ⟨(0 : Byte), State.reset, by decide +kernel⟩,
    ⟨(0 : Byte), (1 : Fin 16), (0 : Fin 4), State.reset, by decide +kernel⟩,
    ⟨(0 : Byte), (0 : Byte), (0 : Byte), (0 : Byte), State.reset, by decide +kernel⟩,
    ⟨(0 : Byte), (7 : BitVec 3), (7 : BitVec 3), State.reset, by decide +kernel⟩,
    ⟨(0 : Byte), State.reset, by decide +kernel⟩,
    ⟨(8 : Byte), (1 : Fin 2), (1 : Fin 2), { (State.reset.setF UPD_STAT_BUSY 0) with upd := { State.reset.upd with busy := false }, boot := { State.reset.boot with phase := if State.reset.free % 3 = 1 then .recovery else .run } }, by decide +kernel⟩,
    ⟨(8 : Byte), (1 : Fin 2), { (State.reset.setF UPD_STAT_BUSY 0) with upd := { State.reset.upd with busy := true } }, by decide +kernel⟩,
    ⟨(8 : Byte), ((((State.reset.setF UPD_STAT_BUSY 0).setF UPD_STAT_STATE 1).setReg UPD_XFER_SRC 0x01000100).setReg UPD_XFER_DST 0x40).setReg UPD_XFER_LEN (BitVec.ofNat 32 (8 + State.reset.free % 3 * 4)), by decide +kernel⟩,
    ⟨(8 : Byte), ((((State.reset.setF UPD_STAT_BUSY 0).setF UPD_STAT_STATE 1).setReg UPD_XFER_SRC 0x01000100).setReg UPD_XFER_DST 0x40).setReg UPD_XFER_LEN (BitVec.ofNat 32 (8 + State.reset.free % 3 * 4))|>.setReg UPD_XFER_LEN 6, by decide +kernel⟩,
    ⟨(8 : Byte), (State.reset.setF UPD_STAT_BUSY 0).setF UPD_STAT_STATE 0, by decide +kernel⟩,
    ⟨(8 : Byte), (1 : Fin 16), (0 : Fin 4), (0x600040 : Nat), (8 : Nat), { ((((State.reset.mwrBytes 0x600000 [0x50, 0x5A, 0x53, 0x4C, 1, 0, 0, 0, 1, 0, 0, 0, BitVec.ofNat 8 (1 : Fin 16).val, BitVec.ofNat 8 (0 : Fin 4).val, 0, 0, 0x40, 0, 0, 0, 8, 0, 0, 0, 9, 8, 7])))) with upd := { State.reset.upd with mode := 1, slot := 0 } }.setF UPD_STAT_STATE 1 |>.setF UPD_STAT_BUSY 0 |>.setReg UPD_XFER_DST 0x80, by decide +kernel⟩⟩

/-- Hypotheses of Obligations.Updates are met. -/
theorem test_hyps_updates_2 :
    (∃ (init : Byte) (ty : Fin 16) (tg : Fin 4) (s : State), s.updMay init.toNat = true ∧ s.on UPD_STAT_BUSY = false ∧ s.f UPD_STAT_STATE = 1 ∧ s.upd.mode = 1 ∧ ((s.pkParts (slotAt (1 - s.upd.slot))).find? (fun q => q.type = ty.val && q.target = tg.val) = none)) ∧
    (∃ (init : Byte) (ty : Fin 16) (tg : Fin 4) (s : State), s.updMay init.toNat = true ∧ s.on UPD_STAT_BUSY = false ∧ (s.f UPD_STAT_STATE ≠ 1 ∨ s.upd.mode ≠ 1)) ∧
    (∃ (init : Byte) (r1 : Byte) (r2 : Byte) (r3 : Byte) (s : State), s.updMay init.toNat = true ∧ s.on UPD_STAT_BUSY = false ∧ (s.f UPD_STAT_STATE ≠ 1 ∧ s.f UPD_STAT_STATE ≠ 2)) ∧
    (∃ (init : Byte) (r1 : Byte) (r2 : Byte) (r3 : Byte) (s : State), s.updMay init.toNat = true ∧ s.on UPD_STAT_BUSY = false ∧ (s.f UPD_STAT_STATE = 1 ∨ s.f UPD_STAT_STATE = 2) ∧ s.pkOk (slotAt s.upd.slot) = false) ∧
    (∃ (init : Byte) (r1 : Byte) (r2 : Byte) (r3 : Byte) (s : State), s.updMay init.toNat = true ∧ s.on UPD_STAT_BUSY = false ∧ (s.f UPD_STAT_STATE = 1 ∨ s.f UPD_STAT_STATE = 2) ∧ s.upd.slot < 2 ∧ ((((s.setF UPD_STAT_STATE 1).setF (slotStateRF s.upd.slot) 1).checkParts (slotAt s.upd.slot)).1 = 0 ∧ ((((s.setF UPD_STAT_STATE 1).setF (slotStateRF s.upd.slot) 1).checkParts (slotAt s.upd.slot)).2.checkSet (slotAt s.upd.slot) []).1 = 0 ∧ (((((s.setF UPD_STAT_STATE 1).setF (slotStateRF s.upd.slot) 1).checkParts (slotAt s.upd.slot)).2.checkSet (slotAt s.upd.slot) []).2.checkRemote (slotAt s.upd.slot) [r1, r2, r3]).1 = 0)) ∧
    (∃ (init : Byte) (a : BitVec 3) (b : BitVec 3) (s : State), s.updMay init.toNat = true ∧ s.on UPD_STAT_BUSY = false ∧ s.f UPD_STAT_STATE = 2 ∧ s.upd.slot < 2 ∧ (s.upd.exps.all (fun n => s.expTrained n && bitOf a.toNat (n - 1)) = true) ∧ (s.upd.exps.all (fun n => bitOf b.toNat (n - 1)) = true)) ∧
    (∃ (init : Byte) (a : BitVec 3) (b : BitVec 3) (s : State), s.updMay init.toNat = true ∧ s.on UPD_STAT_BUSY = false ∧ s.f UPD_STAT_STATE = 2 ∧ (s.upd.exps.any (fun n => !s.expTrained n || !bitOf a.toNat (n - 1)) = true)) ∧
    (∃ (init : Byte) (a : BitVec 3) (b : BitVec 3) (s : State), s.updMay init.toNat = true ∧ s.on UPD_STAT_BUSY = false ∧ s.f UPD_STAT_STATE = 2 ∧ (s.upd.exps.all (fun n => s.expTrained n && bitOf a.toNat (n - 1)) = true) ∧ (s.upd.exps.any (fun n => !bitOf b.toNat (n - 1)) = true)) ∧
    (∃ (init : Byte) (s : State), s.updMay init.toNat = true ∧ s.on UPD_STAT_BUSY = false ∧ (s.f UPD_STAT_STATE = 1 ∨ s.f UPD_STAT_STATE = 2) ∧ s.upd.slot < 2) ∧
    (∃ (init : Byte) (s : State), s.updMay init.toNat = true ∧ s.on UPD_STAT_BUSY = false ∧ (s.f UPD_STAT_STATE ≠ 1 ∧ s.f UPD_STAT_STATE ≠ 2)) ∧
    (∃ (s : State), s.f UPD_STAT_STATE = 3 ∧ s.f TRK_CFG_ROLE = 0) ∧
    (∃ (g : Word) (o : Fin 4) (s : State), s.f UPD_STAT_STATE = 3 ∧ s.f TRK_CFG_ROLE ≠ 0 ∧ g.toNat = s.f UPD_ACTIVE_GEN_GEN ∧ o = 2) :=
  ⟨⟨(8 : Byte), (1 : Fin 16), (0 : Fin 4), { (State.reset.setF UPD_STAT_BUSY 0) with upd := { State.reset.upd with mode := 1, slot := 0 } }.setF UPD_STAT_STATE 1, by decide +kernel⟩,
    ⟨(8 : Byte), (1 : Fin 16), (0 : Fin 4), (State.reset.setF UPD_STAT_BUSY 0).setF UPD_STAT_STATE 0, by decide +kernel⟩,
    ⟨(8 : Byte), (0 : Byte), (0 : Byte), (0 : Byte), (State.reset.setF UPD_STAT_BUSY 0).setF UPD_STAT_STATE 0, by decide +kernel⟩,
    ⟨(8 : Byte), (0 : Byte), (0 : Byte), (0 : Byte), { (State.reset.setF UPD_STAT_BUSY 0) with mram := [] }.setF UPD_STAT_STATE (1 + State.reset.free % 2), by decide +kernel⟩,
    ⟨(8 : Byte), (0 : Byte), (0 : Byte), (0 : Byte), { (State.reset.setF UPD_STAT_BUSY 0).setF UPD_STAT_STATE (1 + State.reset.free % 2) with upd := { State.reset.upd with mode := 1, slot := 1 } }.setReg TRK_CFG 0 |>.mwrBytes 0x600000 [0x50, 0x5A, 0x53, 0x4C, 1, 0, 0, 0, 0, 0], by decide +kernel⟩,
    ⟨(8 : Byte), (7 : BitVec 3), (7 : BitVec 3), { (State.reset.setF UPD_STAT_BUSY 0) with upd := { State.reset.upd with slot := 1 - State.reset.f UPD_SLOTS_ACTIVE, exps := [] } }.setF UPD_STAT_STATE 2, by decide +kernel⟩,
    ⟨(8 : Byte), (0 : BitVec 3), (7 : BitVec 3), { (State.reset.setF UPD_STAT_BUSY 0) with upd := { State.reset.upd with slot := 1 - State.reset.f UPD_SLOTS_ACTIVE, exps := [1, 3] } }.setF UPD_STAT_STATE 2, by decide +kernel⟩,
    ⟨(8 : Byte), (7 : BitVec 3), (3 : BitVec 3), (({ (State.reset.setF UPD_STAT_BUSY 0) with upd := { State.reset.upd with slot := 1 - State.reset.f UPD_SLOTS_ACTIVE, exps := [1, 3] } }.setF UPD_STAT_STATE 2).setF TRK_CFG_ROLE 0).setF TRK_STAT_TRAINED 7, by decide +kernel⟩,
    ⟨(8 : Byte), { (State.reset.setF UPD_STAT_BUSY 0) with upd := { State.reset.upd with slot := State.reset.free % 2 } }.setF UPD_STAT_STATE (1 + State.reset.free / 2 % 2), by decide +kernel⟩,
    ⟨(8 : Byte), (State.reset.setF UPD_STAT_BUSY 0).setF UPD_STAT_STATE 3, by decide +kernel⟩,
    ⟨(State.reset.setF UPD_STAT_STATE 3).setF TRK_CFG_ROLE 0, by decide +kernel⟩,
    ⟨(5 : Word), (2 : Fin 4), (State.reset.setF UPD_STAT_STATE 3).setF TRK_CFG_ROLE 1|>.setReg UPD_ACTIVE_GEN (5 : Word), by decide +kernel⟩⟩

/-- Hypotheses of Obligations.Updates are met. -/
theorem test_hyps_updates_3 :
    (∃ (g : Word) (o : Fin 4) (s : State), s.f UPD_STAT_STATE = 3 ∧ s.f TRK_CFG_ROLE ≠ 0 ∧ g.toNat = s.f UPD_ACTIVE_GEN_GEN ∧ o = 1) ∧
    (∃ (g : Word) (o : Fin 4) (s : State), s.f UPD_STAT_STATE = 3 ∧ s.f TRK_CFG_ROLE ≠ 0 ∧ (¬(g.toNat = s.f UPD_ACTIVE_GEN_GEN ∧ (o = 1 ∨ o = 2)))) :=
  ⟨⟨(5 : Word), (1 : Fin 4), (State.reset.setF UPD_STAT_STATE 3).setF TRK_CFG_ROLE 1|>.setReg UPD_ACTIVE_GEN (5 : Word), by decide +kernel⟩,
    ⟨(5 : Word), (3 : Fin 4), (State.reset.setF UPD_STAT_STATE 3).setF TRK_CFG_ROLE 1, by decide +kernel⟩⟩

/-- Hypotheses of Obligations.Starts are met. -/
theorem test_hyps_starts :
    (∃ (role : Fin 4) (rn : Bool) (x : Bool) (cab : Bool) (v : BitVec 16) (s : State), thrPorRelease < v.toNat ∧ s.boot.pinLow = false) ∧
    (∃ (role : Fin 4) (rn : Bool) (x : Bool) (cab : Bool) (v : BitVec 16) (s : State), thrPorRelease < v.toNat ∧ s.boot.pinLow = true) ∧
    (∃ (x : Bool) (cab : Bool) (v : BitVec 16) (s : State), s.boot.phase = .reset ∧ (s.boot.por = false ∧ s.boot.pinLow = false ∧ s.boot.due = none) ∧ (s.boot.waitVbat = true → thrBrownRise < v.toNat)) ∧
    (∃ (x : Bool) (cab : Bool) (v : BitVec 16) (s : State), s.boot.pinLow = true) ∧
    (∃ (x : Bool) (cab : Bool) (s : State), s.f PWR_STATE_STATE = 3 ∧ s.pwr.exit = true ∧ s.canonical = true) ∧
    (∃ (s : State), s.boot.phase = .strong ∧ s.boot.due = none) ∧
    (∃ (s : State), s.boot.phase = .strong ∧ s.boot.tries < 2 ∧ s.boot.due = none) ∧
    (∃ (s : State), s.boot.phase = .strong ∧ 2 ≤ s.boot.tries ∧ s.boot.due = none) ∧
    (∃ (v : BitVec 16) (s : State), s.boot.phase = .script ∧ s.boot.recDue = false ∧ s.on STR_SCRIPT_VERDICT_VALID = true) ∧
    (∃ (x : Nat × List Byte) (l : List (Nat × List Byte)) (s : State), s.upd.lazy = x :: l ∧ s.boot.phase = .run) ∧
    (∃ (s : State), s.boot.phase = .script ∧ s.boot.recDue = true) :=
  ⟨⟨(0 : Fin 4), (true : Bool), (true : Bool), (true : Bool), (12000 : BitVec 16), { State.reset with boot := { State.reset.boot with pinLow := false } }, by show thrPorRelease < 12000; unfold thrPorRelease threshold; omega, by decide +kernel⟩,
    ⟨(0 : Fin 4), (true : Bool), (true : Bool), (true : Bool), (12000 : BitVec 16), { State.reset with boot := { State.reset.boot with pinLow := true } }, by show thrPorRelease < 12000; unfold thrPorRelease threshold; omega, by decide +kernel⟩,
    ⟨(true : Bool), (true : Bool), (12000 : BitVec 16), { State.reset with boot := { State.reset.boot with phase := .reset, por := false, pinLow := false, due := none, waitVbat := false } }, by decide +kernel⟩,
    ⟨(true : Bool), (true : Bool), (12000 : BitVec 16), { State.reset with boot := { State.reset.boot with pinLow := true } }, by decide +kernel⟩,
    ⟨(true : Bool), (true : Bool), { State.reset.setF PWR_STATE_STATE 3 with pwr := { State.reset.pwr with exit := true }, scr := { State.reset.scr with attic := if State.reset.free % 2 = 0 then [] else State.reset.scr.attic } }, by decide +kernel⟩,
    ⟨{ State.reset with boot := { State.reset.boot with phase := .strong, due := none } }, by decide +kernel⟩,
    ⟨{ State.reset with boot := { State.reset.boot with phase := .strong, due := none, tries := State.reset.free % 2 } }, by decide +kernel⟩,
    ⟨{ State.reset with boot := { State.reset.boot with phase := .strong, due := none, tries := 2 } }, by decide +kernel⟩,
    ⟨(12000 : BitVec 16), { State.reset.setF STR_SCRIPT_VERDICT_VALID 1 with boot := { State.reset.boot with phase := .script, recDue := false } }, by decide +kernel⟩,
    ⟨((5, [0, 0, 0, 1, 9, 8, 7, 6]) : Nat × List Byte), ([] : List (Nat × List Byte)), { State.reset with upd := { State.reset.upd with lazy := ((5, [0, 0, 0, 1, 9, 8, 7, 6]) : Nat × List Byte) :: ([] : List (Nat × List Byte)) }, boot := { State.reset.boot with phase := .run } }, by decide +kernel⟩,
    ⟨{ State.reset with boot := { State.reset.boot with phase := .script, recDue := true } }, by decide +kernel⟩⟩

/-- Hypotheses of Obligations.NmRing are met. -/
theorem test_hyps_nmRing :
    (∃ (n : Fin 8) (f : CanFrame) (s : State), (s.nmOn n = false ∨ f.ide = true ∨ f.rtr = true ∨ f.id.toNat < s.f (NM_SEG_CFG0_BASE_ID n) ∨ s.f (NM_SEG_CFG0_BASE_ID n) + 63 < f.id.toNat ∨ f.dlc.toNat < 4)) ∧
    (∃ (n : Fin 8) (f : CanFrame) (s : State), s.nmOn n = true ∧ f.ide = false ∧ f.rtr = false ∧ s.f (NM_SEG_CFG0_BASE_ID n) ≤ f.id.toNat ∧ f.id.toNat ≤ s.f (NM_SEG_CFG0_BASE_ID n) + 63 ∧ 4 ≤ f.dlc.toNat ∧ (bitOf (sliceLE f.data 1 1) 2) = false ∧ s.canHears n = true) ∧
    (∃ (n : Fin 8) (f : CanFrame) (s : State), s.nmOn n = true ∧ f.ide = false ∧ f.rtr = false ∧ s.f (NM_SEG_CFG0_BASE_ID n) ≤ f.id.toNat ∧ f.id.toNat ≤ s.f (NM_SEG_CFG0_BASE_ID n) + 63 ∧ 4 ≤ f.dlc.toNat ∧ (bitOf (sliceLE f.data 1 1) 2) = true ∧ s.f (NM_SEG_STAT_STATE n) = nsREADY ∧ s.canHears n = true) ∧
    (∃ (n : Fin 8) (f : CanFrame) (s : State), s.nmOn n = true ∧ f.ide = false ∧ f.rtr = false ∧ s.f (NM_SEG_CFG0_BASE_ID n) ≤ f.id.toNat ∧ f.id.toNat ≤ s.f (NM_SEG_CFG0_BASE_ID n) + 63 ∧ 4 ≤ f.dlc.toNat ∧ (bitOf (sliceLE f.data 1 1) 2) = true ∧ s.f (NM_SEG_STAT_STATE n) = nsAWAKE ∧ s.canHears n = true) ∧
    (∃ (n : Fin 8) (f : CanFrame) (s : State), s.nmOn n = true ∧ f.ide = false ∧ f.rtr = false ∧ s.f (NM_SEG_CFG0_BASE_ID n) ≤ f.id.toNat ∧ f.id.toNat ≤ s.f (NM_SEG_CFG0_BASE_ID n) + 63 ∧ 4 ≤ f.dlc.toNat ∧ (bitOf (sliceLE f.data 1 1) 2) = true ∧ (s.f (NM_SEG_STAT_STATE n) ≠ nsREADY ∧ s.f (NM_SEG_STAT_STATE n) ≠ nsAWAKE) ∧ s.canHears n = true) ∧
    (∃ (n : Fin 8) (f : CanFrame) (s : State), s.nmOn n = true ∧ f.ide = false ∧ f.rtr = false ∧ s.f (NM_SEG_CFG0_BASE_ID n) ≤ f.id.toNat ∧ f.id.toNat ≤ s.f (NM_SEG_CFG0_BASE_ID n) + 63 ∧ 4 ≤ f.dlc.toNat ∧ ((bitOf (sliceLE f.data 1 1) 1) = true ∧ (bitOf (sliceLE f.data 1 1) 0) = false) ∧ ((s.seg n).nodes.any (fun e => e.1 = (f.id.toNat - s.f (NM_SEG_CFG0_BASE_ID n))) = true) ∧ ((tget (fun _ => ({} : NmNode)) (s.seg n).nodes (f.id.toNat - s.f (NM_SEG_CFG0_BASE_ID n))).reported = true) ∧ s.canHears n = true) ∧
    (∃ (n : Fin 8) (s : State), s.nmOn n = true ∧ (s.seg n).turn = true ∧ (s.f (NM_SEG_STAT_STATE n) = nsAWAKE ∨ s.f (NM_SEG_STAT_STATE n) = nsREADY) ∧ s.clocked 11 = true) ∧
    (∃ (n : Fin 8) (s : State), (s.nmOn n = false ∨ (s.seg n).turn = false ∨ (s.f (NM_SEG_STAT_STATE n) ≠ nsAWAKE ∧ s.f (NM_SEG_STAT_STATE n) ≠ nsREADY))) ∧
    (∃ (n : Fin 8) (s : State), s.nmOn n = true ∧ (s.f (NM_SEG_STAT_STATE n) = nsAWAKE ∨ s.f (NM_SEG_STAT_STATE n) = nsREADY) ∧ s.clocked 11 = true) ∧
    (∃ (n : Fin 8) (node : Fin 64) (s : State), node.val ≠ s.f (NM_SEG_CFG0_NODE_ID n) ∧ s.clocked 11 = true) :=
  ⟨⟨(3 : Fin 8), ({ id := 0x509, dlc := 3 } : CanFrame), State.reset, by decide +kernel⟩,
    ⟨(3 : Fin 8), ({ id := 0x509, dlc := 4, data := [5, 2, 0, 0] } : CanFrame), ((((((State.reset.wClocks.setF (CAN_STAT_ESTATE (3 : Fin 8)) 0).setF (CAN_TRX_STAT_STATE (3 : Fin 8)) 0).setCan (3 : Fin 8) { State.reset.can (3 : Fin 8) with mode := 1 }).setF (NM_SEG_CFG0_NM_EN (3 : Fin 8)) 1).setF (NM_SEG_CFG0_BASE_ID (3 : Fin 8)) (({ id := 0x509, dlc := 4, data := [5, 2, 0, 0] } : CanFrame).id.toNat - State.reset.free % 64)).setF (NM_SEG_CFG0_NODE_ID (3 : Fin 8)) (State.reset.free / 64 % 64)).setF (NM_SEG_STAT_STATE (3 : Fin 8)) (2 + State.reset.free % 2), by decide +kernel⟩,
    ⟨(3 : Fin 8), ({ id := 0x509, dlc := 4, data := [5, 6, 0, 0] } : CanFrame), ((((((State.reset.wClocks.setF (CAN_STAT_ESTATE (3 : Fin 8)) 0).setF (CAN_TRX_STAT_STATE (3 : Fin 8)) 0).setCan (3 : Fin 8) { State.reset.can (3 : Fin 8) with mode := 1 }).setF (NM_SEG_CFG0_NM_EN (3 : Fin 8)) 1).setF (NM_SEG_CFG0_BASE_ID (3 : Fin 8)) (({ id := 0x509, dlc := 4, data := [5, 6, 0, 0] } : CanFrame).id.toNat - State.reset.free % 64)).setF (NM_SEG_CFG0_NODE_ID (3 : Fin 8)) (State.reset.free / 64 % 64)).setF (NM_SEG_STAT_STATE (3 : Fin 8)) nsREADY, by decide +kernel⟩,
    ⟨(3 : Fin 8), ({ id := 0x509, dlc := 4, data := [5, 6, 0, 0] } : CanFrame), ((((((State.reset.wClocks.setF (CAN_STAT_ESTATE (3 : Fin 8)) 0).setF (CAN_TRX_STAT_STATE (3 : Fin 8)) 0).setCan (3 : Fin 8) { State.reset.can (3 : Fin 8) with mode := 1 }).setF (NM_SEG_CFG0_NM_EN (3 : Fin 8)) 1).setF (NM_SEG_CFG0_BASE_ID (3 : Fin 8)) (({ id := 0x509, dlc := 4, data := [5, 6, 0, 0] } : CanFrame).id.toNat - State.reset.free % 64)).setF (NM_SEG_CFG0_NODE_ID (3 : Fin 8)) (State.reset.free / 64 % 64)).setF (NM_SEG_STAT_STATE (3 : Fin 8)) nsAWAKE, by decide +kernel⟩,
    ⟨(3 : Fin 8), ({ id := 0x509, dlc := 4, data := [5, 6, 0, 0] } : CanFrame), ((((((State.reset.wClocks.setF (CAN_STAT_ESTATE (3 : Fin 8)) 0).setF (CAN_TRX_STAT_STATE (3 : Fin 8)) 0).setCan (3 : Fin 8) { State.reset.can (3 : Fin 8) with mode := 1 }).setF (NM_SEG_CFG0_NM_EN (3 : Fin 8)) 1).setF (NM_SEG_CFG0_BASE_ID (3 : Fin 8)) (({ id := 0x509, dlc := 4, data := [5, 6, 0, 0] } : CanFrame).id.toNat - State.reset.free % 64)).setF (NM_SEG_CFG0_NODE_ID (3 : Fin 8)) (State.reset.free / 64 % 64)).setF (NM_SEG_STAT_STATE (3 : Fin 8)) (if State.reset.free % 3 = 0 then 1 else 4 + State.reset.free % 2), by decide +kernel⟩,
    ⟨(3 : Fin 8), ({ id := 0x509, dlc := 4, data := [5, 2, 0, 0] } : CanFrame), ((((((((State.reset.wClocks.setF (CAN_STAT_ESTATE (3 : Fin 8)) 0).setF (CAN_TRX_STAT_STATE (3 : Fin 8)) 0).setCan (3 : Fin 8) { State.reset.can (3 : Fin 8) with mode := 1 }).setF (NM_SEG_CFG0_NM_EN (3 : Fin 8)) 1).setF (NM_SEG_CFG0_BASE_ID (3 : Fin 8)) (({ id := 0x509, dlc := 4, data := [5, 2, 0, 0] } : CanFrame).id.toNat - 9)).setF (NM_SEG_CFG0_NODE_ID (3 : Fin 8)) (State.reset.free / 64 % 64)).setF (NM_SEG_STAT_STATE (3 : Fin 8)) nsREADY).setSeg (3 : Fin 8) { State.reset.seg (3 : Fin 8) with nodes := [(9, { reported := true })] }), by decide +kernel⟩,
    ⟨(3 : Fin 8), ({ (((State.reset.wClocks.setF (NM_SEG_CFG0_NM_EN (3 : Fin 8)) 1).setF (NM_SEG_STAT_STATE (3 : Fin 8)) (2 + State.reset.free / 4 % 2))) with nm := (State.reset.setSeg (3 : Fin 8) { State.reset.seg (3 : Fin 8) with turn := true, allInd := State.reset.free % 2 = 0, nodes := if State.reset.free / 2 % 2 = 0 then (State.reset.seg (3 : Fin 8)).nodes else [(7, { rang := true })] }).nm }), by decide +kernel⟩,
    ⟨(3 : Fin 8), State.reset, by decide +kernel⟩,
    ⟨(3 : Fin 8), ((State.reset.wClocks.setF (NM_SEG_CFG0_NM_EN (3 : Fin 8)) 1).setF (NM_SEG_STAT_STATE (3 : Fin 8)) (2 + State.reset.free % 2)), by decide +kernel⟩,
    ⟨(3 : Fin 8), (9 : Fin 64), State.reset.wClocks, by decide +kernel⟩⟩

/-- Hypotheses of Obligations.NmSegments are met. -/
theorem test_hyps_nmSegments_1 :
    (∃ (n : Fin 8) (s : State), s.nmOn n = true ∧ s.f (NM_SEG_STAT_STATE n) = nsLISTEN ∧ s.clocked 11 = true) ∧
    (∃ (n : Fin 8) (s : State), (s.nmOn n = false ∨ s.f (NM_SEG_STAT_STATE n) ≠ nsLISTEN)) ∧
    (∃ (k : Fin 19) (s : State), s.nmOn k = true ∧ s.f (NM_SEG_STAT_STATE k) = nsAWAKE ∧ s.nmMaySleep k = true ∧ k.val < 8 ∧ s.clocked 11 = true) ∧
    (∃ (k : Fin 19) (s : State), s.nmOn k = true ∧ s.f (NM_SEG_STAT_STATE k) = nsAWAKE ∧ s.nmMaySleep k = true ∧ (8 ≤ k.val ∧ k.val < 16) ∧ s.f (LIN_CFG0_ROLE (k - 8)) = 0 ∧ s.clocked 11 = true) ∧
    (∃ (k : Fin 19) (s : State), (s.nmOn k = false ∨ s.f (NM_SEG_STAT_STATE k) ≠ nsAWAKE ∨ s.nmMaySleep k = false)) ∧
    (∃ (k : Fin 19) (s : State), s.nmOn k = true ∧ s.f (NM_SEG_STAT_STATE k) = nsWAIT ∧ k.val < 16 ∧ s.clocked 11 = true ∧ s.boot.xtalBad = false) ∧
    (∃ (k : Fin 19) (s : State), (s.nmOn k = false ∨ s.f (NM_SEG_STAT_STATE k) ≠ nsWAIT ∨ 16 ≤ k.val)) ∧
    (∃ (k : Fin 19) (init : Byte) (v : Bool) (s : State), (isStr init.toNat || (isEngine init.toNat && s.f NM_CFG_NM_ENGINE = init.toNat) || (isSession init.toNat && bitOf (s.f NM_CFG_ZRT_GRANT) (init.toNat - 0x40))) = false) ∧
    (∃ (k : Fin 19) (init : Byte) (s : State), (isStr init.toNat || (isEngine init.toNat && s.f NM_CFG_NM_ENGINE = init.toNat) || (isSession init.toNat && bitOf (s.f NM_CFG_ZRT_GRANT) (init.toNat - 0x40))) = true ∧ s.clocked 11 = true ∧ (16 ≤ k.val ∨ s.busPresent (k % 8) = true)) ∧
    (∃ (k : Fin 19) (init : Byte) (s : State), (isStr init.toNat || (isEngine init.toNat && s.f NM_CFG_NM_ENGINE = init.toNat) || (isSession init.toNat && bitOf (s.f NM_CFG_ZRT_GRANT) (init.toNat - 0x40))) = true ∧ s.nmOn k = true ∧ k.val < 8 ∧ s.f (NM_SEG_STAT_STATE k) = nsWAIT ∧ s.clocked 11 = true ∧ (16 ≤ k.val ∨ s.busPresent (k % 8) = true) ∧ s.boot.xtalBad = false) ∧
    (∃ (k : Fin 19) (init : Byte) (s : State), (isStr init.toNat || (isEngine init.toNat && s.f NM_CFG_NM_ENGINE = init.toNat) || (isSession init.toNat && bitOf (s.f NM_CFG_ZRT_GRANT) (init.toNat - 0x40))) = true ∧ s.nmOn k = true ∧ k.val < 8 ∧ s.f (NM_SEG_STAT_STATE k) = nsSLEEP ∧ s.f (CAN_TRX_STAT_STATE k) ≠ trGOING ∧ s.clocked 11 = true ∧ (16 ≤ k.val ∨ s.busPresent (k % 8) = true) ∧ s.boot.xtalBad = false) ∧
    (∃ (k : Fin 19) (init : Byte) (s : State), (isStr init.toNat || (isEngine init.toNat && s.f NM_CFG_NM_ENGINE = init.toNat) || (isSession init.toNat && bitOf (s.f NM_CFG_ZRT_GRANT) (init.toNat - 0x40))) = true ∧ s.nmOn k = true ∧ k.val < 8 ∧ s.f (NM_SEG_STAT_STATE k) = nsSLEEP ∧ s.f (CAN_TRX_STAT_STATE k) = trGOING ∧ s.clocked 11 = true ∧ (16 ≤ k.val ∨ s.busPresent (k % 8) = true) ∧ s.boot.xtalBad = false) :=
  ⟨⟨(3 : Fin 8), ((State.reset.wClocks.setF (NM_SEG_CFG0_NM_EN (3 : Fin 8)) 1).setF (NM_SEG_STAT_STATE (3 : Fin 8)) nsLISTEN), by decide +kernel⟩,
    ⟨(3 : Fin 8), State.reset, by decide +kernel⟩,
    ⟨(3 : Fin 19), { ((((State.reset.wClocks.setF (NM_SEG_CFG0_NM_EN (3 : Fin 19)) 1).setF (NM_SEG_STAT_STATE (3 : Fin 19)) nsAWAKE).setF (NM_SEG_CTL_AWAKE (3 : Fin 19)) 0).setF (NM_SEG_CFG1_NEED_MASK (3 : Fin 19)) 0) with gw := { State.reset.gw with out := [] } }, by decide +kernel⟩,
    ⟨(12 : Fin 19), { (((((State.reset.wClocks.setF (NM_SEG_CFG0_NM_EN (12 : Fin 19)) 1).setF (NM_SEG_STAT_STATE (12 : Fin 19)) nsAWAKE).setF (NM_SEG_CTL_AWAKE (12 : Fin 19)) 0).setF (NM_SEG_CFG1_NEED_MASK (12 : Fin 19)) 0).setF (LIN_CFG0_ROLE ((12 : Fin 19) - 8)) 0) with gw := { State.reset.gw with out := [] } }, by decide +kernel⟩,
    ⟨(3 : Fin 19), State.reset, by decide +kernel⟩,
    ⟨(3 : Fin 19), ((State.reset.wClocks.setF (NM_SEG_CFG0_NM_EN (3 : Fin 19)) 1).setF (NM_SEG_STAT_STATE (3 : Fin 19)) nsWAIT), by decide +kernel⟩,
    ⟨(3 : Fin 19), State.reset, by decide +kernel⟩,
    ⟨(3 : Fin 19), (0x12 : Byte), (true : Bool), State.reset, by decide +kernel⟩,
    ⟨(3 : Fin 19), (8 : Byte), State.reset.wClocks, by decide +kernel⟩,
    ⟨(3 : Fin 19), (8 : Byte), ((State.reset.wClocks.setF (NM_SEG_CFG0_NM_EN (3 : Fin 19)) 1).setF (NM_SEG_STAT_STATE (3 : Fin 19)) nsWAIT), by decide +kernel⟩,
    ⟨(3 : Fin 19), (8 : Byte), (((State.reset.wClocks.setF (NM_SEG_CFG0_NM_EN (3 : Fin 19)) 1).setF (NM_SEG_STAT_STATE (3 : Fin 19)) nsSLEEP).setF (CAN_TRX_STAT_STATE (3 : Fin 19)) 3), by decide +kernel⟩,
    ⟨(3 : Fin 19), (8 : Byte), (((State.reset.wClocks.setF (NM_SEG_CFG0_NM_EN (3 : Fin 19)) 1).setF (NM_SEG_STAT_STATE (3 : Fin 19)) nsSLEEP).setF (CAN_TRX_STAT_STATE (3 : Fin 19)) 4), by decide +kernel⟩⟩

/-- Hypotheses of Obligations.NmSegments are met. -/
theorem test_hyps_nmSegments_2 :
    (∃ (k : Fin 19) (node : Fin 64) (e : NmNode) (r : Fin 64) (s : State), s.f (NM_SEG_STAT_STATE k) = nsREADY ∧ ((s.seg k).nodes.find? (fun e => e.1 = node.val) = some (node.val, e)) ∧ (e.ind = false ∧ e.reported = false ∧ e.gone = false) ∧ s.insRow k node = some r.val ∧ s.clocked 11 = true) ∧
    (∃ (k : Fin 19) (node : Fin 64) (e : NmNode) (r : Fin 64) (s : State), s.f (NM_SEG_STAT_STATE k) = nsREADY ∧ ((s.seg k).nodes.find? (fun e => e.1 = node.val) = some (node.val, e)) ∧ (e.ind = false ∧ e.reported = false ∧ e.gone = false) ∧ s.insRow k node = none ∧ ((List.range 64).find? (fun r => !s.on (NM_INS_KEY_VALID r)) = some r.val) ∧ s.clocked 11 = true) ∧
    (∃ (k : Fin 19) (node : Fin 64) (e : NmNode) (s : State), s.f (NM_SEG_STAT_STATE k) = nsREADY ∧ ((s.seg k).nodes.find? (fun e => e.1 = node.val) = some (node.val, e)) ∧ (e.ind = false ∧ e.reported = false ∧ e.gone = false) ∧ s.insRow k node = none ∧ ((List.range 64).find? (fun r => !s.on (NM_INS_KEY_VALID r)) = none) ∧ s.clocked 11 = true) ∧
    (∃ (s : State), s.clocked 11 = true) ∧
    (∃ (u : Fin 2) (s : State), s.nmOn (17 + u.val) = true ∧ s.f (NM_SEG_STAT_STATE (17 + u.val)) = nsAWAKE ∧ s.nmMaySleep (17 + u.val) = true ∧ s.clocked 11 = true) ∧
    (∃ (u : Fin 2) (s : State), (s.nmOn (17 + u.val) = false ∨ s.f (NM_SEG_STAT_STATE (17 + u.val)) ≠ nsAWAKE ∨ s.nmMaySleep (17 + u.val) = false)) ∧
    (∃ (u : Fin 2) (s : State), s.nmOn (17 + u.val) = true ∧ s.f (NM_SEG_STAT_STATE (17 + u.val)) = nsSLEEP) ∧
    (∃ (u : Fin 2) (s : State), s.boot.xtalBad = false) :=
  ⟨⟨(3 : Fin 19), (9 : Fin 64), ({ last := 5 } : NmNode), (2 : Fin 64), ({ (((State.reset.wClocks.setF (NM_SEG_STAT_STATE (3 : Fin 19)) nsREADY).setF (NM_INS_KEY_VALID 1) 0).setReg (NM_INS_KEY (2 : Fin 64)) (0x80000000 + BitVec.ofNat 32 ((3 : Fin 19).val + 32 * (9 : Fin 64).val))) with nm := (State.reset.setSeg (3 : Fin 19) { State.reset.seg (3 : Fin 19) with nodes := [((9 : Fin 64).val, { ({ last := 5 } : NmNode) with ind := false, reported := false })] }).nm }), by decide +kernel⟩,
    ⟨(3 : Fin 19), (9 : Fin 64), ({ last := 5 } : NmNode), (0 : Fin 64), ({ ((State.reset.wClocks.setF (NM_SEG_STAT_STATE (3 : Fin 19)) nsREADY).setF (NM_INS_KEY_VALID (0 : Fin 64)) 0) with nm := (State.reset.setSeg (3 : Fin 19) { State.reset.seg (3 : Fin 19) with nodes := [((9 : Fin 64).val, { ({ last := 5 } : NmNode) with ind := false, reported := false })] }).nm }), by decide +kernel⟩,
    ⟨(3 : Fin 19), (9 : Fin 64), ({ last := 5 } : NmNode), ({ ((List.range 64).foldl (fun x q => x.setReg (NM_INS_KEY q) 0x80000003) (State.reset.wClocks.setF (NM_SEG_STAT_STATE (3 : Fin 19)) nsREADY)) with nm := (State.reset.setSeg (3 : Fin 19) { State.reset.seg (3 : Fin 19) with nodes := [((9 : Fin 64).val, { ({ last := 5 } : NmNode) with ind := false, reported := false })] }).nm }), by decide +kernel⟩,
    ⟨State.reset.wClocks, by decide +kernel⟩,
    ⟨(1 : Fin 2), { ((((State.reset.wClocks.setF (NM_SEG_CFG0_NM_EN (17 + (1 : Fin 2).val)) 1).setF (NM_SEG_STAT_STATE (17 + (1 : Fin 2).val)) nsAWAKE).setF (NM_SEG_CTL_AWAKE (17 + (1 : Fin 2).val)) 0).setF (NM_SEG_CFG1_NEED_MASK (17 + (1 : Fin 2).val)) 0) with gw := { State.reset.gw with out := [] } }, by decide +kernel⟩,
    ⟨(1 : Fin 2), State.reset, by decide +kernel⟩,
    ⟨(1 : Fin 2), ((State.reset.setF (NM_SEG_CFG0_NM_EN (17 + (1 : Fin 2).val)) 1).setF (NM_SEG_STAT_STATE (17 + (1 : Fin 2).val)) nsSLEEP).setF (NM_SEG_CFG0_WAKE_FWD (17 + (1 : Fin 2).val)) (State.reset.free % 2) |>.setF (NM_SEG_CFG0_NM_EN (18 - (1 : Fin 2).val)) 1 |>.setF (NM_SEG_STAT_STATE (18 - (1 : Fin 2).val)) nsSLEEP, by decide +kernel⟩,
    ⟨(1 : Fin 2), State.reset.wClocks, by decide +kernel⟩⟩

/-- Hypotheses of Obligations.CuesNotifyAndPostedErrors are met. -/
theorem test_hyps_cuesNotifyAndPostedErrors_1 :
    (∃ (s : State), s.offers = []) ∧
    (∃ (g : Fin 48) (c : Cue) (m : Bool) (l : List Offer) (s : State), s.offers = { target := 0x10 + g.val, cue := c, merge := m } :: l ∧ s.crewPresent (g / 8) = true ∧ (m = false ∨ (s.eng g).queue.any (fun q => q.cls = c.cls && q.code = c.code && q.kind = c.kind && q.index = c.index) = false) ∧ ((s.eng g).st ≠ .unused ∧ (s.eng g).st ≠ .faulted) ∧ (s.eng g).queue.length < 14 + (if s.cueUrgent g c.cls = true then 2 else 0)) ∧
    (∃ (g : Fin 48) (c : Cue) (m : Bool) (l : List Offer) (s : State), s.offers = { target := 0x10 + g.val, cue := c, merge := m } :: l ∧ s.crewPresent (g / 8) = true ∧ (m = false ∨ (s.eng g).queue.any (fun q => q.cls = c.cls && q.code = c.code && q.kind = c.kind && q.index = c.index) = false) ∧ ((s.eng g).st = .unused ∨ (s.eng g).st = .faulted ∨ (if s.cueUrgent g c.cls = true then 16 else 14) ≤ (s.eng g).queue.length)) ∧
    (∃ (g : Fin 48) (c : Cue) (m : Bool) (l : List Offer) (q : Cue) (r : List Cue) (s : State), s.offers = { target := 0x10 + g.val, cue := c, merge := m } :: l ∧ s.crewPresent (g / 8) = true ∧ m = true ∧ (s.eng g).queue = q :: r ∧ (q.cls = c.cls ∧ q.code = c.code ∧ q.kind = c.kind ∧ q.index = c.index) ∧ ((s.eng g).st ≠ .unused ∧ (s.eng g).st ≠ .faulted)) ∧
    (∃ (o : Offer) (l : List Offer) (s : State), s.offers = o :: l ∧ (¬(isEngine o.target = true ∧ s.crewPresent ((o.target - 0x10) / 8) = true)) ∧ isSession o.target = false) ∧
    (∃ (k : Fin 8) (c : Cue) (m : Bool) (l : List Offer) (s : State), s.offers = { target := 0x40 + k.val, cue := c, merge := m } :: l ∧ (s.ses k).note.length < 128 ∧ s.on TRK_CFG_ROLE = false ∧ ((s.ses k).note.length + 1 < s.f ZRT_NOTIFY_CFG_BATCH_N ∧ c.cls ≠ 1 ∧ (s.ses k).note.all (fun e => e.2.cls ≠ 1 && !e.2.urgent) = true)) ∧
    (∃ (k : Fin 8) (c : Cue) (m : Bool) (l : List Offer) (s : State), s.offers = { target := 0x40 + k.val, cue := c, merge := m } :: l ∧ 128 ≤ (s.ses k).note.length ∧ s.on TRK_CFG_ROLE = false) ∧
    (∃ (k : Fin 8) (n : Nat) (s : State), s.on TRK_CFG_ROLE = false ∧ s.on (ZRT_SES_CFG_EN k) = true ∧ (s.ses k).unacked.length < 8 ∧ (s.ses k).lost = 0 ∧ ((s.ses k).note ≠ [] ∧ (s.ses k).note.all (fun (e : Nat × Cue) => e.1 = 0) = true) ∧ n = min 90 (s.ses k).note.length ∧ s.clocked 10 = true) ∧
    (∃ (k : Fin 8) (s : State), (s.on TRK_CFG_ROLE = true ∨ s.on (ZRT_SES_CFG_EN k) = false ∨ 8 ≤ (s.ses k).unacked.length ∨ ((s.ses k).note = [] ∧ (s.ses k).lost = 0))) ∧
    (∃ (k : Fin 8) (seq : BitVec 16) (b : List Byte) (s : State), ((s.ses k).unacked.find? (fun e => e.1 = seq.toNat) = some (seq.toNat, b)) ∧ s.on (ZRT_SES_STAT_OPEN k) = true ∧ s.clocked 10 = true) ∧
    (∃ (k : Fin 8) (seq : BitVec 16) (s : State), ((s.ses k).unacked.any (fun e => e.1 = seq.toNat) = false ∨ s.on (ZRT_SES_STAT_OPEN k) = false)) ∧
    (∃ (orig : Fin 0x48) (a : Word) (n : Fin 65) (st : Fin 16) (z : Bool) (l : List TrkReq) (s : State), s.brg.posted = { orig := orig, addr := a.toNat, len := n, op := 2, what := 3, zrt := z, fail := st.val + 1 } :: l ∧ s.f BRG_PEL_STAT_COUNT < 8) :=
  ⟨⟨{ State.reset with offers := [] }, by decide +kernel⟩,
    ⟨(3 : Fin 48), ({ cls := 7 } : Cue), (false : Bool), ([] : List Offer), { ({ State.reset with engs := (State.reset.setEng (3 : Fin 48) { State.reset.eng (3 : Fin 48) with st := .waiting, queue := (State.reset.eng (3 : Fin 48)).queue }).engs }) with offers := { target := 0x10 + (3 : Fin 48).val, cue := ({ cls := 7 } : Cue), merge := (false : Bool) } :: ([] : List Offer) }, by decide +kernel⟩,
    ⟨(3 : Fin 48), ({ cls := 7 } : Cue), (false : Bool), ([] : List Offer), { ({ State.reset with engs := (State.reset.setEng (3 : Fin 48) { State.reset.eng (3 : Fin 48) with st := .waiting, queue := List.replicate (16 - State.reset.free % 3) {} }).engs }) with offers := { target := 0x10 + (3 : Fin 48).val, cue := ({ cls := 7 } : Cue), merge := (false : Bool) } :: ([] : List Offer) }, by decide +kernel⟩,
    ⟨(3 : Fin 48), ({ cls := 7 } : Cue), (true : Bool), ([] : List Offer), ({ cls := 7 } : Cue), ([] : List Cue), { ({ State.reset with engs := (State.reset.setEng (3 : Fin 48) { State.reset.eng (3 : Fin 48) with st := .waiting, queue := { ({ cls := 7 } : Cue) with cls := ({ cls := 7 } : Cue).cls, code := ({ cls := 7 } : Cue).code, kind := ({ cls := 7 } : Cue).kind, index := ({ cls := 7 } : Cue).index } :: ([] : List Cue) }).engs }) with offers := { target := 0x10 + (3 : Fin 48).val, cue := ({ cls := 7 } : Cue), merge := (true : Bool) } :: ([] : List Offer) }, by decide +kernel⟩,
    ⟨({ target := 5 } : Offer), ([] : List Offer), { State.reset with offers := ({ target := 5 } : Offer) :: ([] : List Offer) }, by decide +kernel⟩,
    ⟨(1 : Fin 8), ({ cls := 7 } : Cue), (false : Bool), ([] : List Offer), { (({ State.reset with zrt := (State.reset.setSes (1 : Fin 8) { State.reset.ses (1 : Fin 8) with note := List.replicate (State.reset.free % 80) (0, ({} : Cue)) }).zrt }.setF TRK_CFG_ROLE 0).setF ZRT_NOTIFY_CFG_BATCH_N 90) with offers := { target := 0x40 + (1 : Fin 8).val, cue := ({ cls := 7 } : Cue), merge := (false : Bool) } :: ([] : List Offer) }, by decide +kernel⟩,
    ⟨(1 : Fin 8), ({ cls := 7 } : Cue), (false : Bool), ([] : List Offer), { (({ State.reset with zrt := (State.reset.setSes (1 : Fin 8) { State.reset.ses (1 : Fin 8) with note := List.replicate 128 (0, ({} : Cue)) }).zrt }.setF TRK_CFG_ROLE 0).setF ZRT_NOTIFY_CFG_BATCH_N 90) with offers := { target := 0x40 + (1 : Fin 8).val, cue := ({ cls := 7 } : Cue), merge := (false : Bool) } :: ([] : List Offer) }, by decide +kernel⟩,
    ⟨(1 : Fin 8), (2 : Nat), ((({ State.reset.wClocks with zrt := (State.reset.setSes (1 : Fin 8) { State.reset.ses (1 : Fin 8) with lost := 0, unacked := (State.reset.ses (1 : Fin 8)).unacked.take 7, note := List.replicate 1 (0, ({ cls := 7, arg := State.reset.free % 9 } : Cue)) ++ [(0, ({ cls := 3 } : Cue))] }).zrt }.setF TRK_CFG_ROLE 0).setF (ZRT_SES_CFG_EN (1 : Fin 8)) 1)), by decide +kernel⟩,
    ⟨(1 : Fin 8), State.reset, by decide +kernel⟩,
    ⟨(1 : Fin 8), (7 : BitVec 16), ([1, 2] : List Byte), ({ State.reset.wClocks with zrt := (State.reset.setSes (1 : Fin 8) { State.reset.ses (1 : Fin 8) with unacked := [((7 : BitVec 16).toNat, ([1, 2] : List Byte))] }).zrt }.setF (ZRT_SES_STAT_OPEN (1 : Fin 8)) 1), by decide +kernel⟩,
    ⟨(1 : Fin 8), (7 : BitVec 16), State.reset, by decide +kernel⟩,
    ⟨(0x13 : Fin 0x48), (0x21004000 : Word), (64 : Fin 65), (14 : Fin 16), (false : Bool), ([] : List TrkReq), ({ State.reset with brg := { State.reset.brg with posted := { orig := (0x13 : Fin 0x48), addr := (0x21004000 : Word).toNat, len := (64 : Fin 65), op := 2, what := 3, zrt := (false : Bool), fail := (14 : Fin 16).val + 1 } :: ([] : List TrkReq) } }).setF BRG_PEL_STAT_COUNT (State.reset.free / 64 % 8), by decide +kernel⟩⟩

/-- Hypotheses of Obligations.CuesNotifyAndPostedErrors are met. -/
theorem test_hyps_cuesNotifyAndPostedErrors_2 :
    (∃ (orig : Fin 0x48) (a : Word) (n : Fin 65) (st : Fin 16) (z : Bool) (l : List TrkReq) (s : State), s.brg.posted = { orig := orig, addr := a.toNat, len := n, op := 2, what := 3, zrt := z, fail := st.val + 1 } :: l ∧ 8 ≤ s.f BRG_PEL_STAT_COUNT) ∧
    (∃ (s : State), (s.brg.posted.all (fun r => r.fail = 0) = true)) ∧
    (∃ (c : Fin 8) (s : State), s.f BRG_PEL_STAT_COUNT = c.val + 1) ∧
    (∃ (s : State), s.f BRG_PEL_STAT_COUNT = 0) :=
  ⟨⟨(0x13 : Fin 0x48), (0x21004000 : Word), (64 : Fin 65), (14 : Fin 16), (false : Bool), ([] : List TrkReq), ({ State.reset with brg := { State.reset.brg with posted := { orig := (0x13 : Fin 0x48), addr := (0x21004000 : Word).toNat, len := (64 : Fin 65), op := 2, what := 3, zrt := (false : Bool), fail := (14 : Fin 16).val + 1 } :: ([] : List TrkReq) } }).setF BRG_PEL_STAT_COUNT 8, by decide +kernel⟩,
    ⟨{ State.reset with brg := { State.reset.brg with posted := State.reset.brg.posted.filter (fun r => r.fail = 0) } }, by decide +kernel⟩,
    ⟨(2 : Fin 8), State.reset.setF BRG_PEL_STAT_COUNT ((2 : Fin 8).val + 1), by decide +kernel⟩,
    ⟨State.reset.setF BRG_PEL_STAT_COUNT 0, by decide +kernel⟩⟩

/-- Hypotheses of Obligations.ZrtOperations are met. -/
theorem test_hyps_zrtOperations :
    (∃ (k : Fin 8) (q : Nat) (st : Bool) (dn : List ZrtOp) (a : Word) (n : Nat) (g : Nat) (s : State), (s.ses k).cur = some { seq := q, stop := st, todo := { op := 1, len := n, addr := a.toNat, arg := g, data := [] } :: [], done := dn } ∧ (s.ses k).parts = [] ∧ s.boot.phase ≠ .recovery ∧ (0x01000000 ≤ a.toNat ∧ a.toNat + n ≤ 0x01200000) ∧ (0 < n ∧ n ≤ 1024) ∧ s.behind (0x40 + k) a.toNat n false = false ∧ s.pfFind 1 (0x40 + k) a.toNat n = none ∧ s.zrtTurn = some k.val ∧ s.clocked 10 = true) ∧
    (∃ (k : Fin 8) (q : Nat) (st : Bool) (dn : List ZrtOp) (i : Fin 8) (g : Nat) (s : State), (s.ses k).cur = some { seq := q, stop := st, todo := { op := 1, len := 8, addr := (0x052D1180 + 8 * i.val), arg := g, data := [] } :: [], done := dn } ∧ (s.ses k).parts = [] ∧ s.boot.phase ≠ .recovery ∧ s.behind (0x40 + k) (0x052D1180 + 8 * i.val) 8 false = false ∧ s.brgSef (0x052D1180 + 8 * i.val) = false ∧ s.zrtTurn = some k.val ∧ s.clocked 10 = true) ∧
    (∃ (k : Fin 8) (q : Nat) (st : Bool) (dn : List ZrtOp) (a : Word) (n : Nat) (g : Nat) (b : BrgBuf) (d : List Byte) (s : State), (s.ses k).cur = some { seq := q, stop := st, todo := { op := 1, len := n, addr := a.toNat, arg := g, data := [] } :: [], done := dn } ∧ (s.ses k).parts = [] ∧ s.boot.phase ≠ .recovery ∧ s.pfFind 1 (0x40 + k) a.toNat n = some (b, d) ∧ s.zrtTurn = some k.val ∧ s.clocked 10 = true) ∧
    (∃ (k : Fin 8) (q : Nat) (st : Bool) (dn : List ZrtOp) (a : Word) (n : Nat) (g : Nat) (s : State), (s.ses k).cur = some { seq := q, stop := st, todo := { op := 1, len := n, addr := a.toNat, arg := g, data := [] } :: [], done := dn } ∧ (s.ses k).parts = [] ∧ (0x10000000 ≤ a.toNat ∧ a.toNat < 0x40000000) ∧ (0 < n ∧ a.toNat % 64 + n ≤ 64) ∧ s.trkUsable (a.toNat / 0x10000000) = true ∧ s.behind (0x40 + k) a.toNat n false = false ∧ s.pfFind 1 (0x40 + k) a.toNat n = none ∧ s.brgSef a.toNat = false ∧ s.zrtTurn = some k.val ∧ s.clocked 10 = true) ∧
    (∃ (k : Fin 8) (q : Nat) (st : Bool) (dn : List ZrtOp) (a : Word) (d : List Byte) (g : Nat) (s : State), (s.ses k).cur = some { seq := q, stop := st, todo := { op := 2, len := d.length, addr := a.toNat, arg := g, data := d } :: [], done := dn } ∧ (s.ses k).parts = [] ∧ s.boot.phase ≠ .recovery ∧ (0x01000000 ≤ a.toNat ∧ a.toNat + d.length ≤ 0x01200000) ∧ (0 < d.length ∧ d.length ≤ 1024) ∧ s.behind (0x40 + k) a.toNat d.length true = false ∧ ((linePieces a.toNat d.length).all (fun p => !s.brgPosted p.1) = true) ∧ s.zrtTurn = some k.val ∧ s.clocked 10 = true) ∧
    (∃ (k : Fin 8) (q : Nat) (st : Bool) (dn : List ZrtOp) (a : Word) (d : List Byte) (g : Nat) (s : State), (s.ses k).cur = some { seq := q, stop := st, todo := { op := 2, len := d.length, addr := a.toNat, arg := g, data := d } :: [], done := dn } ∧ (s.ses k).parts = [] ∧ s.boot.phase ≠ .recovery ∧ (0x01000000 ≤ a.toNat ∧ a.toNat + d.length ≤ 0x01200000) ∧ s.behind (0x40 + k) a.toNat d.length true = false ∧ s.stopped (0x40 + k) = true ∧ s.brgPosted a.toNat = true ∧ (0 < d.length ∧ a.toNat % 64 + d.length ≤ 64) ∧ s.zrtTurn = some k.val ∧ s.clocked 10 = true) ∧
    (∃ (k : Fin 8) (q : Nat) (st : Bool) (dn : List ZrtOp) (a : Word) (e : Fin 4) (d : List Byte) (g : Nat) (s : State), (s.ses k).cur = some { seq := q, stop := st, todo := { op := 3, len := 2 ^ e.val, addr := a.toNat, arg := g, data := d } :: [], done := dn } ∧ (s.ses k).parts = [] ∧ s.boot.phase ≠ .recovery ∧ (0x01000000 ≤ a.toNat ∧ a.toNat < 0x01220000 ∧ a.toNat % 2 ^ e.val = 0) ∧ s.zrtTurn = some k.val ∧ s.clocked 10 = true) ∧
    (∃ (k : Fin 8) (q : Nat) (st : Bool) (dn : List ZrtOp) (i : Fin 8) (d : List Byte) (g : Nat) (s : State), (s.ses k).cur = some { seq := q, stop := st, todo := { op := 3, len := 4, addr := (0x052D1180 + 8 * i.val), arg := g, data := d } :: [], done := dn } ∧ (s.ses k).parts = [] ∧ s.boot.phase ≠ .recovery ∧ s.behind (0x40 + k) (0x052D1180 + 8 * i.val) 4 false = false ∧ s.zrtTurn = some k.val ∧ s.clocked 10 = true) ∧
    (∃ (k : Fin 8) (q : Nat) (st : Bool) (dn : List ZrtOp) (i : Fin 8) (g : Nat) (s : State), (s.ses k).cur = some { seq := q, stop := st, todo := { op := 4, len := 8, addr := (0x052D1180 + 8 * i.val), arg := g, data := [] } :: [], done := dn } ∧ (s.ses k).parts = [] ∧ s.boot.phase ≠ .recovery ∧ s.behind (0x40 + k) (0x052D1180 + 8 * i.val) 8 false = false ∧ s.zrtTurn = some k.val ∧ s.clocked 10 = true) ∧
    (∃ (k : Fin 8) (q : Nat) (st : Bool) (dn : List ZrtOp) (a : Word) (g : Nat) (s : State), (s.ses k).cur = some { seq := q, stop := st, todo := { op := 5, len := 0, addr := a.toNat, arg := g, data := [] } :: [], done := dn } ∧ (s.ses k).parts = [] ∧ s.boot.phase ≠ .recovery ∧ s.storesLeft (0x40 + k) = 0 ∧ s.zrtTurn = some k.val ∧ s.clocked 10 = true) ∧
    (∃ (k : Fin 8) (q : Nat) (st : Bool) (dn : List ZrtOp) (a : Word) (g : Nat) (s : State), (s.ses k).cur = some { seq := q, stop := st, todo := { op := 5, len := 0, addr := a.toNat, arg := g, data := [] } :: [], done := dn } ∧ (s.ses k).parts = [] ∧ s.storesLeft (0x40 + k) ≠ 0) ∧
    (∃ (k : Fin 8) (q : Nat) (st : Bool) (dn : List ZrtOp) (a : Word) (g : Nat) (b : Word) (l : List ZrtOp) (s : State), (s.ses k).cur = some { seq := q, stop := st, todo := { op := 5, len := 0, addr := a.toNat, arg := g, data := [] } :: { op := 5, len := 0, addr := b.toNat, arg := g } :: l, done := dn } ∧ (s.ses k).parts = [] ∧ s.boot.phase ≠ .recovery ∧ s.storesLeft (0x40 + k) = 0 ∧ bitOf (s.f (ZRT_SES_CFG_OP_GRANT k)) 4 = true ∧ (st = false ∨ dn.all (fun (y : ZrtOp) => y.status = 0) = true) ∧ s.zrtTurn = some k.val ∧ s.clocked 10 = true) :=
  ⟨⟨(1 : Fin 8), (5 : Nat), (false : Bool), ([] : List ZrtOp), (0x01000040 : Word), (8 : Nat), (0 : Nat), (fun z : State => (let s0 := z; { s0 with zrt := (s0.setSes (1 : Fin 8) { s0.ses (1 : Fin 8) with parts := [], cur := some { seq := (5 : Nat), stop := (false : Bool), todo := { op := 1, len := (8 : Nat), addr := (0x01000040 : Word).toNat, arg := (0 : Nat), data := [] } :: [], done := ([] : List ZrtOp) } }).zrt, waiting := s0.waiting.filter (fun tx => tx.init ≠ 0x40 + (1 : Fin 8).val), boot := { s0.boot with phase := .run } })) { State.reset.wClocks with waiting := [], trk := { State.reset.trk with reqs := [] }, brg := { State.reset.brg with wait := [] }, rr := tset (fun _ => 0) State.reset.rr 0x100 (1 : Fin 8).val }, by decide +kernel⟩,
    ⟨(1 : Fin 8), (5 : Nat), (false : Bool), ([] : List ZrtOp), (3 : Fin 8), (0 : Nat), (fun z : State => (let s0 := z; { s0 with zrt := (s0.setSes (1 : Fin 8) { s0.ses (1 : Fin 8) with parts := [], cur := some { seq := (5 : Nat), stop := (false : Bool), todo := { op := 1, len := 8, addr := (0x052D1180 + 8 * (3 : Fin 8).val), arg := (0 : Nat), data := [] } :: [], done := ([] : List ZrtOp) } }).zrt, waiting := s0.waiting.filter (fun tx => tx.init ≠ 0x40 + (1 : Fin 8).val), boot := { s0.boot with phase := .run } })) { State.reset.wClocks with waiting := [], trk := { State.reset.trk with reqs := [] }, brg := { State.reset.brg with wait := [] }, rr := tset (fun _ => 0) State.reset.rr 0x100 (1 : Fin 8).val }, by decide +kernel⟩,
    ⟨(1 : Fin 8), (5 : Nat), (false : Bool), ([] : List ZrtOp), (0x01000040 : Word), (2 : Nat), (0 : Nat), ({ bridge := 1, init := 0x41, base := 0x01000040, bytes := [some 7, some 8], at_ := 1000 } : BrgBuf), ([7, 8] : List Byte), (fun z : State => { (((let s0 := { z with slate := 1001 }; { s0 with zrt := (s0.setSes (1 : Fin 8) { s0.ses (1 : Fin 8) with parts := [], cur := some { seq := (5 : Nat), stop := (false : Bool), todo := { op := 1, len := (2 : Nat), addr := (0x01000040 : Word).toNat, arg := (0 : Nat), data := [] } :: [], done := ([] : List ZrtOp) } }).zrt, waiting := s0.waiting.filter (fun tx => tx.init ≠ 0x40 + (1 : Fin 8).val), boot := { s0.boot with phase := .run } }).setReg (BRG_RANGE_ATTR 0) 3).setReg (BRG_RANGE_BASE 0) 0x01000000).setReg (BRG_RANGE_LIMIT 0) 0x011FFFFF |>.setReg BRG_CFG 0x1401 with slate := 1001, brg := { z.brg with pf := [({ bridge := 1, init := 0x41, base := 0x01000040, bytes := [some 7, some 8], at_ := 1000 } : BrgBuf)] } }) { State.reset.wClocks with rr := tset (fun _ => 0) State.reset.rr 0x100 (1 : Fin 8).val }, by decide +kernel⟩,
    ⟨(1 : Fin 8), (5 : Nat), (false : Bool), ([] : List ZrtOp), (0x21000040 : Word), (8 : Nat), (0 : Nat), (fun z : State => (let s0 := ((((z.setF TRK_CFG_ROLE 0).setF TRK_STAT_LINK 2).setF TRK_STAT_TRAINED 7) |> (fun x => { x with boot := { x.boot with xtalBad := false } })); { s0 with zrt := (s0.setSes (1 : Fin 8) { s0.ses (1 : Fin 8) with parts := [], cur := some { seq := (5 : Nat), stop := (false : Bool), todo := { op := 1, len := (8 : Nat), addr := (0x21000040 : Word).toNat, arg := (0 : Nat), data := [] } :: [], done := ([] : List ZrtOp) } }).zrt, waiting := s0.waiting.filter (fun tx => tx.init ≠ 0x40 + (1 : Fin 8).val), boot := { s0.boot with phase := .run } })) { State.reset.wClocks with waiting := [], trk := { State.reset.trk with reqs := [] }, brg := { State.reset.brg with wait := [] }, rr := tset (fun _ => 0) State.reset.rr 0x100 (1 : Fin 8).val }, by decide +kernel⟩,
    ⟨(1 : Fin 8), (5 : Nat), (false : Bool), ([] : List ZrtOp), (0x01000040 : Word), ([1, 2, 3] : List Byte), (0 : Nat), (fun z : State => (let s0 := z; { s0 with zrt := (s0.setSes (1 : Fin 8) { s0.ses (1 : Fin 8) with parts := [], cur := some { seq := (5 : Nat), stop := (false : Bool), todo := { op := 2, len := ([1, 2, 3] : List Byte).length, addr := (0x01000040 : Word).toNat, arg := (0 : Nat), data := ([1, 2, 3] : List Byte) } :: [], done := ([] : List ZrtOp) } }).zrt, waiting := s0.waiting.filter (fun tx => tx.init ≠ 0x40 + (1 : Fin 8).val), boot := { s0.boot with phase := .run } })) { State.reset.wClocks with waiting := [], trk := { State.reset.trk with reqs := [] }, brg := { State.reset.brg with wait := [] }, rr := tset (fun _ => 0) State.reset.rr 0x100 (1 : Fin 8).val }, by decide +kernel⟩,
    ⟨(1 : Fin 8), (5 : Nat), (false : Bool), ([] : List ZrtOp), (0x01000040 : Word), ([1, 2, 3] : List Byte), (0 : Nat), (fun z : State => (let s0 := (((((z.setReg (BRG_RANGE_ATTR 0) 5).setReg (BRG_RANGE_BASE 0) 0x01000000).setReg (BRG_RANGE_LIMIT 0) 0x011FFFFF).setReg BRG_STOPPED1 0x00FF0000)); { s0 with zrt := (s0.setSes (1 : Fin 8) { s0.ses (1 : Fin 8) with parts := [], cur := some { seq := (5 : Nat), stop := (false : Bool), todo := { op := 2, len := ([1, 2, 3] : List Byte).length, addr := (0x01000040 : Word).toNat, arg := (0 : Nat), data := ([1, 2, 3] : List Byte) } :: [], done := ([] : List ZrtOp) } }).zrt, waiting := s0.waiting.filter (fun tx => tx.init ≠ 0x40 + (1 : Fin 8).val), boot := { s0.boot with phase := .run } })) { State.reset.wClocks with waiting := [], trk := { State.reset.trk with reqs := [] }, brg := { State.reset.brg with wait := [] }, rr := tset (fun _ => 0) State.reset.rr 0x100 (1 : Fin 8).val }, by decide +kernel⟩,
    ⟨(1 : Fin 8), (5 : Nat), (false : Bool), ([] : List ZrtOp), (0x01000040 : Word), (1 : Fin 4), ([255, 15, 9, 9] : List Byte), (0 : Nat), (fun z : State => (let s0 := z; { s0 with zrt := (s0.setSes (1 : Fin 8) { s0.ses (1 : Fin 8) with parts := [], cur := some { seq := (5 : Nat), stop := (false : Bool), todo := { op := 3, len := 2 ^ (1 : Fin 4).val, addr := (0x01000040 : Word).toNat, arg := (0 : Nat), data := ([255, 15, 9, 9] : List Byte) } :: [], done := ([] : List ZrtOp) } }).zrt, waiting := s0.waiting.filter (fun tx => tx.init ≠ 0x40 + (1 : Fin 8).val), boot := { s0.boot with phase := .run } })) { State.reset.wClocks with rr := tset (fun _ => 0) State.reset.rr 0x100 (1 : Fin 8).val }, by decide +kernel⟩,
    ⟨(1 : Fin 8), (5 : Nat), (false : Bool), ([] : List ZrtOp), (3 : Fin 8), ([] : List Byte), (0 : Nat), (fun z : State => (let s0 := z; { s0 with zrt := (s0.setSes (1 : Fin 8) { s0.ses (1 : Fin 8) with parts := [], cur := some { seq := (5 : Nat), stop := (false : Bool), todo := { op := 3, len := 4, addr := (0x052D1180 + 8 * (3 : Fin 8).val), arg := (0 : Nat), data := ([] : List Byte) } :: [], done := ([] : List ZrtOp) } }).zrt, waiting := s0.waiting.filter (fun tx => tx.init ≠ 0x40 + (1 : Fin 8).val), boot := { s0.boot with phase := .run } })) { State.reset.wClocks with waiting := [], trk := { State.reset.trk with reqs := [] }, brg := { State.reset.brg with wait := [] }, rr := tset (fun _ => 0) State.reset.rr 0x100 (1 : Fin 8).val }, by decide +kernel⟩,
    ⟨(1 : Fin 8), (5 : Nat), (false : Bool), ([] : List ZrtOp), (3 : Fin 8), (0 : Nat), (fun z : State => (let s0 := z; { s0 with zrt := (s0.setSes (1 : Fin 8) { s0.ses (1 : Fin 8) with parts := [], cur := some { seq := (5 : Nat), stop := (false : Bool), todo := { op := 4, len := 8, addr := (0x052D1180 + 8 * (3 : Fin 8).val), arg := (0 : Nat), data := [] } :: [], done := ([] : List ZrtOp) } }).zrt, waiting := s0.waiting.filter (fun tx => tx.init ≠ 0x40 + (1 : Fin 8).val), boot := { s0.boot with phase := .run } })) { State.reset.wClocks with waiting := [], trk := { State.reset.trk with reqs := [] }, brg := { State.reset.brg with wait := [] }, rr := tset (fun _ => 0) State.reset.rr 0x100 (1 : Fin 8).val }, by decide +kernel⟩,
    ⟨(1 : Fin 8), (5 : Nat), (false : Bool), ([] : List ZrtOp), (0 : Word), (0 : Nat), (fun z : State => (let s0 := { z with brg := { z.brg with posted := z.brg.posted.filter (fun tx => tx.orig ≠ 0x40 + (1 : Fin 8).val), wait := z.brg.wait.filter (fun tx => tx.orig ≠ 0x40 + (1 : Fin 8).val) } }; { s0 with zrt := (s0.setSes (1 : Fin 8) { s0.ses (1 : Fin 8) with parts := [], cur := some { seq := (5 : Nat), stop := (false : Bool), todo := { op := 5, len := 0, addr := (0 : Word).toNat, arg := (0 : Nat), data := [] } :: [], done := ([] : List ZrtOp) } }).zrt, waiting := s0.waiting.filter (fun tx => tx.init ≠ 0x40 + (1 : Fin 8).val), boot := { s0.boot with phase := .run } })) { State.reset.wClocks with rr := tset (fun _ => 0) State.reset.rr 0x100 (1 : Fin 8).val }, by decide +kernel⟩,
    ⟨(1 : Fin 8), (5 : Nat), (false : Bool), ([] : List ZrtOp), (0 : Word), (0 : Nat), ((let s0 := State.reset; { s0 with zrt := (s0.setSes (1 : Fin 8) { s0.ses (1 : Fin 8) with parts := [], cur := some { seq := (5 : Nat), stop := (false : Bool), todo := { op := 5, len := 0, addr := (0 : Word).toNat, arg := (0 : Nat), data := [] } :: [], done := ([] : List ZrtOp) } }).zrt, waiting := s0.waiting.filter (fun tx => tx.init ≠ 0x40 + (1 : Fin 8).val), boot := { s0.boot with phase := .run } }) |> fun x => { x with brg := { x.brg with posted := [{ orig := 0x40 + (1 : Fin 8) }] } }), by decide +kernel⟩,
    ⟨(1 : Fin 8), (5 : Nat), (false : Bool), ([] : List ZrtOp), (0 : Word), (0 : Nat), (0 : Word), ([] : List ZrtOp), (fun z : State => (let s0 := (({ z with brg := { z.brg with posted := z.brg.posted.filter (fun tx => tx.orig ≠ 0x40 + (1 : Fin 8).val), wait := z.brg.wait.filter (fun tx => tx.orig ≠ 0x40 + (1 : Fin 8).val) } }).setF (ZRT_SES_CFG_OP_GRANT (1 : Fin 8)) 0xFF); { s0 with zrt := (s0.setSes (1 : Fin 8) { s0.ses (1 : Fin 8) with parts := [], cur := some { seq := (5 : Nat), stop := (false : Bool), todo := { op := 5, len := 0, addr := (0 : Word).toNat, arg := (0 : Nat), data := [] } :: { op := 5, len := 0, addr := (0 : Word).toNat, arg := (0 : Nat) } :: ([] : List ZrtOp), done := ([] : List ZrtOp) } }).zrt, waiting := s0.waiting.filter (fun tx => tx.init ≠ 0x40 + (1 : Fin 8).val), boot := { s0.boot with phase := .run } })) { State.reset.wClocks with rr := tset (fun _ => 0) State.reset.rr 0x100 (1 : Fin 8).val }, by decide +kernel⟩⟩

/-- Hypotheses of Obligations.ZrtRequests are met. -/
theorem test_hyps_zrtRequests_1 :
    (∃ (s : State), s.eth.inq = []) ∧
    (∃ (k : Fin 8) (p : Fin 2) (udp : Bool) (ip : Word) (f : EthFrame) (l : List (Nat × EthFrame)) (fl : BitVec 5) (ep : BitVec 16) (sq : BitVec 16) (np : BitVec 16) (ln : BitVec 16) (body : List Byte) (b0 : Byte) (s : State), s.eth.inq = (p.val, { f with etype := if udp then 0x0800 else 0x88B5, data := (if udp then [0x45, 0, 0, 0, 0, 0, 0, 0, 64, 17, 0, 0] ++ bytesBE 4 ip.toNat ++ zeros 4 ++ zeros 2 ++ bytesBE 2 (s.f ZRT_CFG_UDP_PORT) ++ zeros 4 else []) ++ ([b0, BitVec.ofNat 8 (k + 8 * fl.toNat)] ++ bytesBE 2 ep.toNat ++ bytesBE 2 sq.toNat ++ bytesBE 2 np.toNat ++ bytesBE 2 ln.toNat ++ [0, 0] ++ body) }) :: l ∧ s.boot.phase ≠ .recovery ∧ (if udp then s.on ZRT_CFG_UDP_EN else s.on ZRT_CFG_RAW_EN) = true ∧ (b0.toNat ≠ 0x10 ∧ b0.toNat % 16 ≠ 3 ∨ b0.toNat % 16 ≠ 3 ∧ (s.on (ZRT_SES_CFG_EN k) = false ∨ s.on (ZRT_SES_CFG_UDP k) ≠ udp)) ∧ s.clocked 10 = true) ∧
    (∃ (k : Fin 8) (p : Fin 2) (udp : Bool) (ip : Word) (f : EthFrame) (l : List (Nat × EthFrame)) (fl : BitVec 5) (ep : BitVec 16) (sq : BitVec 16) (np : BitVec 16) (ln : BitVec 16) (body : List Byte) (s : State), s.eth.inq = (p.val, { f with etype := if udp then 0x0800 else 0x88B5, data := (if udp then [0x45, 0, 0, 0, 0, 0, 0, 0, 64, 17, 0, 0] ++ bytesBE 4 ip.toNat ++ zeros 4 ++ zeros 2 ++ bytesBE 2 (s.f ZRT_CFG_UDP_PORT) ++ zeros 4 else []) ++ ([0x10, BitVec.ofNat 8 (k + 8 * fl.toNat)] ++ bytesBE 2 ep.toNat ++ bytesBE 2 sq.toNat ++ bytesBE 2 np.toNat ++ bytesBE 2 ln.toNat ++ [0, 0] ++ body) }) :: l ∧ s.boot.phase ≠ .recovery ∧ (if udp then s.on ZRT_CFG_UDP_EN else s.on ZRT_CFG_RAW_EN) = true ∧ s.on (ZRT_SES_CFG_EN k) = true ∧ s.on (ZRT_SES_CFG_UDP k) = udp ∧ (s.ses k).cur ≠ none ∧ s.clocked 10 = true) ∧
    (∃ (k : Fin 8) (p : Fin 2) (udp : Bool) (ip : Word) (f : EthFrame) (l : List (Nat × EthFrame)) (fl : BitVec 5) (ep : BitVec 16) (sq : BitVec 16) (np : BitVec 16) (ln : BitVec 16) (body : List Byte) (s : State), s.eth.inq = (p.val, { f with etype := if udp then 0x0800 else 0x88B5, data := (if udp then [0x45, 0, 0, 0, 0, 0, 0, 0, 64, 17, 0, 0] ++ bytesBE 4 ip.toNat ++ zeros 4 ++ zeros 2 ++ bytesBE 2 (s.f ZRT_CFG_UDP_PORT) ++ zeros 4 else []) ++ ([0x10, BitVec.ofNat 8 (k + 8 * fl.toNat)] ++ bytesBE 2 ep.toNat ++ bytesBE 2 sq.toNat ++ bytesBE 2 np.toNat ++ bytesBE 2 ln.toNat ++ [0, 0] ++ body) }) :: l ∧ s.boot.phase ≠ .recovery ∧ (if udp then s.on ZRT_CFG_UDP_EN else s.on ZRT_CFG_RAW_EN) = true ∧ s.on (ZRT_SES_CFG_EN k) = true ∧ s.on (ZRT_SES_CFG_UDP k) = udp ∧ (s.ses k).cur = none ∧ ep.toNat ≠ s.f ZRT_EPOCH_EPOCH ∧ s.clocked 10 = true) ∧
    (∃ (k : Fin 8) (p : Fin 2) (udp : Bool) (ip : Word) (f : EthFrame) (l : List (Nat × EthFrame)) (fl : BitVec 5) (ep : BitVec 16) (sq : BitVec 16) (np : BitVec 16) (ln : BitVec 16) (body : List Byte) (c : Nat × List ZrtOp) (s : State), s.eth.inq = (p.val, { f with etype := if udp then 0x0800 else 0x88B5, data := (if udp then [0x45, 0, 0, 0, 0, 0, 0, 0, 64, 17, 0, 0] ++ bytesBE 4 ip.toNat ++ zeros 4 ++ zeros 2 ++ bytesBE 2 (s.f ZRT_CFG_UDP_PORT) ++ zeros 4 else []) ++ ([0x10, BitVec.ofNat 8 (k + 8 * fl.toNat)] ++ bytesBE 2 ep.toNat ++ bytesBE 2 sq.toNat ++ bytesBE 2 np.toNat ++ bytesBE 2 ln.toNat ++ [0, 0] ++ body) }) :: l ∧ s.boot.phase ≠ .recovery ∧ (if udp then s.on ZRT_CFG_UDP_EN else s.on ZRT_CFG_RAW_EN) = true ∧ s.on (ZRT_SES_CFG_EN k) = true ∧ s.on (ZRT_SES_CFG_UDP k) = udp ∧ (s.ses k).cur = none ∧ ep.toNat = s.f ZRT_EPOCH_EPOCH ∧ s.on (ZRT_SES_STAT_OPEN k) = true ∧ (sq.toNat + 1) % 0x10000 = s.f (ZRT_SES_STAT_NEXT_SEQ k) ∧ (s.ses k).cache = some (sq.toNat, c) ∧ s.clocked 10 = true) ∧
    (∃ (k : Fin 8) (p : Fin 2) (udp : Bool) (ip : Word) (f : EthFrame) (l : List (Nat × EthFrame)) (fl : BitVec 5) (ep : BitVec 16) (sq : BitVec 16) (np : BitVec 16) (ln : BitVec 16) (body : List Byte) (s : State), s.eth.inq = (p.val, { f with etype := if udp then 0x0800 else 0x88B5, data := (if udp then [0x45, 0, 0, 0, 0, 0, 0, 0, 64, 17, 0, 0] ++ bytesBE 4 ip.toNat ++ zeros 4 ++ zeros 2 ++ bytesBE 2 (s.f ZRT_CFG_UDP_PORT) ++ zeros 4 else []) ++ ([0x10, BitVec.ofNat 8 (k + 8 * fl.toNat)] ++ bytesBE 2 ep.toNat ++ bytesBE 2 sq.toNat ++ bytesBE 2 np.toNat ++ bytesBE 2 ln.toNat ++ [0, 0] ++ body) }) :: l ∧ s.boot.phase ≠ .recovery ∧ (if udp then s.on ZRT_CFG_UDP_EN else s.on ZRT_CFG_RAW_EN) = true ∧ s.on (ZRT_SES_CFG_EN k) = true ∧ s.on (ZRT_SES_CFG_UDP k) = udp ∧ (s.ses k).cur = none ∧ ep.toNat = s.f ZRT_EPOCH_EPOCH ∧ (s.on (ZRT_SES_STAT_OPEN k) = false ∨ (sq.toNat + 1) % 0x10000 ≠ s.f (ZRT_SES_STAT_NEXT_SEQ k)) ∧ (fl.toNat % 2 = 0 ∧ (s.on (ZRT_SES_STAT_OPEN k) = false ∨ sq.toNat ≠ s.f (ZRT_SES_STAT_NEXT_SEQ k))) ∧ s.clocked 10 = true) ∧
    (∃ (k : Fin 8) (p : Fin 2) (udp : Bool) (ip : Word) (f : EthFrame) (l : List (Nat × EthFrame)) (fl : BitVec 5) (ep : BitVec 16) (sq : BitVec 16) (op : Byte) (len : BitVec 16) (a : Word) (g : Word) (s : State), s.eth.inq = (p.val, { f with etype := if udp then 0x0800 else 0x88B5, data := (if udp then [0x45, 0, 0, 0, 0, 0, 0, 0, 64, 17, 0, 0] ++ bytesBE 4 ip.toNat ++ zeros 4 ++ zeros 2 ++ bytesBE 2 (s.f ZRT_CFG_UDP_PORT) ++ zeros 4 else []) ++ ([0x10, BitVec.ofNat 8 (k + 8 * fl.toNat)] ++ bytesBE 2 ep.toNat ++ bytesBE 2 sq.toNat ++ bytesBE 2 1 ++ bytesBE 2 24 ++ [0, 0]  ++ (bytesBE 1 op.toNat ++ [0] ++ bytesBE 2 len.toNat ++ bytesBE 4 a.toNat ++ bytesBE 4 g.toNat)) }) :: l ∧ s.boot.phase ≠ .recovery ∧ (if udp then s.on ZRT_CFG_UDP_EN else s.on ZRT_CFG_RAW_EN) = true ∧ s.on (ZRT_SES_CFG_EN k) = true ∧ s.on (ZRT_SES_CFG_UDP k) = udp ∧ (s.ses k).cur = none ∧ ep.toNat = s.f ZRT_EPOCH_EPOCH ∧ (s.on (ZRT_SES_STAT_OPEN k) = false ∨ (sq.toNat + 1) % 0x10000 ≠ s.f (ZRT_SES_STAT_NEXT_SEQ k)) ∧ (fl.toNat % 2 = 1 ∨ (s.on (ZRT_SES_STAT_OPEN k) = true ∧ sq.toNat = s.f (ZRT_SES_STAT_NEXT_SEQ k))) ∧ (op = 1 ∨ op = 4 ∨ op = 5) ∧ bitOf (s.f (ZRT_SES_CFG_OP_GRANT k)) (op.toNat - 1) = true ∧ (if op = 1 then 0 < len.toNat ∧ len.toNat ≤ 1024 else if op = 4 then 0 < len.toNat ∧ a.toNat % 64 + len.toNat ≤ 64 else len.toNat = 0) ∧ s.clocked 10 = true) ∧
    (∃ (k : Fin 8) (p : Fin 2) (udp : Bool) (ip : Word) (f : EthFrame) (l : List (Nat × EthFrame)) (fl : BitVec 5) (ep : BitVec 16) (sq : BitVec 16) (op : Byte) (len : BitVec 16) (a : Word) (g : Word) (s : State), s.eth.inq = (p.val, { f with etype := if udp then 0x0800 else 0x88B5, data := (if udp then [0x45, 0, 0, 0, 0, 0, 0, 0, 64, 17, 0, 0] ++ bytesBE 4 ip.toNat ++ zeros 4 ++ zeros 2 ++ bytesBE 2 (s.f ZRT_CFG_UDP_PORT) ++ zeros 4 else []) ++ ([0x10, BitVec.ofNat 8 (k + 8 * fl.toNat)] ++ bytesBE 2 ep.toNat ++ bytesBE 2 sq.toNat ++ bytesBE 2 1 ++ bytesBE 2 24 ++ [0, 0]  ++ (bytesBE 1 op.toNat ++ [0] ++ bytesBE 2 len.toNat ++ bytesBE 4 a.toNat ++ bytesBE 4 g.toNat)) }) :: l ∧ s.boot.phase ≠ .recovery ∧ (if udp then s.on ZRT_CFG_UDP_EN else s.on ZRT_CFG_RAW_EN) = true ∧ s.on (ZRT_SES_CFG_EN k) = true ∧ s.on (ZRT_SES_CFG_UDP k) = udp ∧ (s.ses k).cur = none ∧ ep.toNat = s.f ZRT_EPOCH_EPOCH ∧ (s.on (ZRT_SES_STAT_OPEN k) = false ∨ (sq.toNat + 1) % 0x10000 ≠ s.f (ZRT_SES_STAT_NEXT_SEQ k)) ∧ (fl.toNat % 2 = 1 ∨ (s.on (ZRT_SES_STAT_OPEN k) = true ∧ sq.toNat = s.f (ZRT_SES_STAT_NEXT_SEQ k))) ∧ (op = 0 ∨ 8 < op.toNat) ∧ s.clocked 10 = true) ∧
    (∃ (k : Fin 8) (p : Fin 2) (udp : Bool) (ip : Word) (f : EthFrame) (l : List (Nat × EthFrame)) (fl : BitVec 5) (ep : BitVec 16) (sq : BitVec 16) (op : Byte) (len : BitVec 16) (a : Word) (g : Word) (s : State), s.eth.inq = (p.val, { f with etype := if udp then 0x0800 else 0x88B5, data := (if udp then [0x45, 0, 0, 0, 0, 0, 0, 0, 64, 17, 0, 0] ++ bytesBE 4 ip.toNat ++ zeros 4 ++ zeros 2 ++ bytesBE 2 (s.f ZRT_CFG_UDP_PORT) ++ zeros 4 else []) ++ ([0x10, BitVec.ofNat 8 (k + 8 * fl.toNat)] ++ bytesBE 2 ep.toNat ++ bytesBE 2 sq.toNat ++ bytesBE 2 1 ++ bytesBE 2 24 ++ [0, 0]  ++ (bytesBE 1 op.toNat ++ [0] ++ bytesBE 2 len.toNat ++ bytesBE 4 a.toNat ++ bytesBE 4 g.toNat)) }) :: l ∧ s.boot.phase ≠ .recovery ∧ (if udp then s.on ZRT_CFG_UDP_EN else s.on ZRT_CFG_RAW_EN) = true ∧ s.on (ZRT_SES_CFG_EN k) = true ∧ s.on (ZRT_SES_CFG_UDP k) = udp ∧ (s.ses k).cur = none ∧ ep.toNat = s.f ZRT_EPOCH_EPOCH ∧ (s.on (ZRT_SES_STAT_OPEN k) = false ∨ (sq.toNat + 1) % 0x10000 ≠ s.f (ZRT_SES_STAT_NEXT_SEQ k)) ∧ (fl.toNat % 2 = 1 ∨ (s.on (ZRT_SES_STAT_OPEN k) = true ∧ sq.toNat = s.f (ZRT_SES_STAT_NEXT_SEQ k))) ∧ (op = 1 ∨ op = 4 ∨ op = 5) ∧ bitOf (s.f (ZRT_SES_CFG_OP_GRANT k)) (op.toNat - 1) = false ∧ len.toNat ≤ 1024 ∧ s.clocked 10 = true) ∧
    (∃ (k : Fin 8) (p : Fin 2) (udp : Bool) (ip : Word) (f : EthFrame) (l : List (Nat × EthFrame)) (fl : BitVec 5) (ep : BitVec 16) (sq : BitVec 16) (np : BitVec 16) (ln : BitVec 16) (body : List Byte) (s : State), s.eth.inq = (p.val, { f with etype := if udp then 0x0800 else 0x88B5, data := (if udp then [0x45, 0, 0, 0, 0, 0, 0, 0, 64, 17, 0, 0] ++ bytesBE 4 ip.toNat ++ zeros 4 ++ zeros 2 ++ bytesBE 2 (s.f ZRT_CFG_UDP_PORT) ++ zeros 4 else []) ++ ([0x10, BitVec.ofNat 8 (k + 8 * fl.toNat)] ++ bytesBE 2 ep.toNat ++ bytesBE 2 sq.toNat ++ bytesBE 2 np.toNat ++ bytesBE 2 ln.toNat ++ [0, 0] ++ body) }) :: l ∧ s.boot.phase ≠ .recovery ∧ (if udp then s.on ZRT_CFG_UDP_EN else s.on ZRT_CFG_RAW_EN) = true ∧ s.on (ZRT_SES_CFG_EN k) = true ∧ s.on (ZRT_SES_CFG_UDP k) = udp ∧ (s.ses k).cur = none ∧ ep.toNat = s.f ZRT_EPOCH_EPOCH ∧ (s.on (ZRT_SES_STAT_OPEN k) = false ∨ (sq.toNat + 1) % 0x10000 ≠ s.f (ZRT_SES_STAT_NEXT_SEQ k)) ∧ (fl.toNat % 2 = 1 ∨ (s.on (ZRT_SES_STAT_OPEN k) = true ∧ sq.toNat = s.f (ZRT_SES_STAT_NEXT_SEQ k))) ∧ (ln.toNat < 12 ∨ 1472 < ln.toNat ∨ body.length + 12 < ln.toNat ∨ np.toNat = 0 ∨ 64 < np.toNat) ∧ s.clocked 10 = true) ∧
    (∃ (k : Fin 8) (p : Fin 2) (udp : Bool) (ip : Word) (f : EthFrame) (l : List (Nat × EthFrame)) (fl : BitVec 5) (ep : BitVec 16) (sq : BitVec 16) (s : State), s.eth.inq = (p.val, { f with etype := if udp then 0x0800 else 0x88B5, data := (if udp then [0x45, 0, 0, 0, 0, 0, 0, 0, 64, 17, 0, 0] ++ bytesBE 4 ip.toNat ++ zeros 4 ++ zeros 2 ++ bytesBE 2 (s.f ZRT_CFG_UDP_PORT) ++ zeros 4 else []) ++ ([0x10, BitVec.ofNat 8 (k + 8 * fl.toNat)] ++ bytesBE 2 ep.toNat ++ bytesBE 2 sq.toNat ++ bytesBE 2 2 ++ bytesBE 2 36 ++ [0, 0]  ++ (bytesBE 4 0x01000400 ++ zeros 8 ++ bytesBE 4 0x010001C0 ++ zeros 8)) }) :: l ∧ s.boot.phase ≠ .recovery ∧ (if udp then s.on ZRT_CFG_UDP_EN else s.on ZRT_CFG_RAW_EN) = true ∧ s.on (ZRT_SES_CFG_EN k) = true ∧ s.on (ZRT_SES_CFG_UDP k) = udp ∧ (s.ses k).cur = none ∧ ep.toNat = s.f ZRT_EPOCH_EPOCH ∧ (s.on (ZRT_SES_STAT_OPEN k) = false ∨ (sq.toNat + 1) % 0x10000 ≠ s.f (ZRT_SES_STAT_NEXT_SEQ k)) ∧ (fl.toNat % 2 = 1 ∨ (s.on (ZRT_SES_STAT_OPEN k) = true ∧ sq.toNat = s.f (ZRT_SES_STAT_NEXT_SEQ k))) ∧ s.clocked 10 = true) ∧
    (∃ (k : Fin 8) (q : Nat) (st : Bool) (dn : List ZrtOp) (a : Word) (g : Word) (d : List Byte) (s : State), (s.ses k).cur = some { seq := q, stop := st, todo := { op := 7, len := 8, addr := a.toNat, arg := g.toNat, data := d } :: [], done := dn } ∧ (s.ses k).parts = [] ∧ s.boot.phase ≠ .recovery ∧ ((s.key (25 + k)).kind ≠ 1 ∨ d ≠ ((cmac (s.key (25 + k)).bytes (bytesBE 2 (s.f ZRT_EPOCH_EPOCH) ++ bytesBE 2 q ++ bytesBE 1 k ++ ([7, 0, 0, 8] ++ bytesBE 4 a.toNat ++ bytesBE 4 g.toNat))).take 8)) ∧ s.zrtTurn = some k.val ∧ s.clocked 10 = true) :=
  ⟨⟨{ State.reset with eth := { State.reset.eth with inq := [] } }, by decide +kernel⟩,
    ⟨(1 : Fin 8), (0 : Fin 2), (false : Bool), (7 : Word), ({ } : EthFrame), ([] : List (Nat × EthFrame)), (0 : BitVec 5), (0 : BitVec 16), (0 : BitVec 16), (1 : BitVec 16), (24 : BitVec 16), ([] : List Byte), (0x20 : Byte), (fun z : State => (let s2 := ((((let s0 := z; { s0 with zrt := (s0.setSes (1 : Fin 8) { s0.ses (1 : Fin 8) with cur := none, cache := (s0.ses (1 : Fin 8)).cache }).zrt, boot := { s0.boot with phase := .run } }).setReg ZRT_CFG 0x3F123).setF (ZRT_SES_CFG_EN (1 : Fin 8)) 1).setF (ZRT_SES_CFG_UDP (1 : Fin 8)) (b2n (false : Bool))); { s2 with eth := { s2.eth with inq := ((0 : Fin 2).val, { ({ } : EthFrame) with etype := if (false : Bool) then 0x0800 else 0x88B5, data := (if (false : Bool) then [0x45, 0, 0, 0, 0, 0, 0, 0, 64, 17, 0, 0] ++ bytesBE 4 (7 : Word).toNat ++ zeros 4 ++ zeros 2 ++ bytesBE 2 (s2.f ZRT_CFG_UDP_PORT) ++ zeros 4 else []) ++ ([(0x20 : Byte), BitVec.ofNat 8 ((1 : Fin 8) + 8 * (0 : BitVec 5).toNat)] ++ bytesBE 2 (0 : BitVec 16).toNat ++ bytesBE 2 (0 : BitVec 16).toNat ++ bytesBE 2 (1 : BitVec 16).toNat ++ bytesBE 2 (24 : BitVec 16).toNat ++ [0, 0] ++ ([] : List Byte)) }) :: ([] : List (Nat × EthFrame)) } })) State.reset.wClocks, by decide +kernel⟩,
    ⟨(1 : Fin 8), (0 : Fin 2), (false : Bool), (7 : Word), ({ } : EthFrame), ([] : List (Nat × EthFrame)), (0 : BitVec 5), (0 : BitVec 16), (0 : BitVec 16), (1 : BitVec 16), (24 : BitVec 16), ([] : List Byte), (fun z : State => (let s2 := ((((let s0 := z; { s0 with zrt := (s0.setSes (1 : Fin 8) { s0.ses (1 : Fin 8) with cur := some {}, cache := (s0.ses (1 : Fin 8)).cache }).zrt, boot := { s0.boot with phase := .run } }).setReg ZRT_CFG 0x3F123).setF (ZRT_SES_CFG_EN (1 : Fin 8)) 1).setF (ZRT_SES_CFG_UDP (1 : Fin 8)) (b2n (false : Bool))); { s2 with eth := { s2.eth with inq := ((0 : Fin 2).val, { ({ } : EthFrame) with etype := if (false : Bool) then 0x0800 else 0x88B5, data := (if (false : Bool) then [0x45, 0, 0, 0, 0, 0, 0, 0, 64, 17, 0, 0] ++ bytesBE 4 (7 : Word).toNat ++ zeros 4 ++ zeros 2 ++ bytesBE 2 (s2.f ZRT_CFG_UDP_PORT) ++ zeros 4 else []) ++ ([0x10, BitVec.ofNat 8 ((1 : Fin 8) + 8 * (0 : BitVec 5).toNat)] ++ bytesBE 2 (0 : BitVec 16).toNat ++ bytesBE 2 (0 : BitVec 16).toNat ++ bytesBE 2 (1 : BitVec 16).toNat ++ bytesBE 2 (24 : BitVec 16).toNat ++ [0, 0] ++ ([] : List Byte)) }) :: ([] : List (Nat × EthFrame)) } })) State.reset.wClocks, by decide +kernel⟩,
    ⟨(1 : Fin 8), (0 : Fin 2), (false : Bool), (7 : Word), ({ } : EthFrame), ([] : List (Nat × EthFrame)), (0 : BitVec 5), (3 : BitVec 16), (0 : BitVec 16), (1 : BitVec 16), (24 : BitVec 16), ([] : List Byte), (fun z : State => (let s2 := ((((let s0 := z; { s0 with zrt := (s0.setSes (1 : Fin 8) { s0.ses (1 : Fin 8) with cur := none, cache := (s0.ses (1 : Fin 8)).cache }).zrt, boot := { s0.boot with phase := .run } }).setReg ZRT_CFG 0x3F123).setF (ZRT_SES_CFG_EN (1 : Fin 8)) 1).setF (ZRT_SES_CFG_UDP (1 : Fin 8)) (b2n (false : Bool))); { s2 with eth := { s2.eth with inq := ((0 : Fin 2).val, { ({ } : EthFrame) with etype := if (false : Bool) then 0x0800 else 0x88B5, data := (if (false : Bool) then [0x45, 0, 0, 0, 0, 0, 0, 0, 64, 17, 0, 0] ++ bytesBE 4 (7 : Word).toNat ++ zeros 4 ++ zeros 2 ++ bytesBE 2 (s2.f ZRT_CFG_UDP_PORT) ++ zeros 4 else []) ++ ([0x10, BitVec.ofNat 8 ((1 : Fin 8) + 8 * (0 : BitVec 5).toNat)] ++ bytesBE 2 (3 : BitVec 16).toNat ++ bytesBE 2 (0 : BitVec 16).toNat ++ bytesBE 2 (1 : BitVec 16).toNat ++ bytesBE 2 (24 : BitVec 16).toNat ++ [0, 0] ++ ([] : List Byte)) }) :: ([] : List (Nat × EthFrame)) } })) State.reset.wClocks, by decide +kernel⟩,
    ⟨(1 : Fin 8), (0 : Fin 2), (false : Bool), (7 : Word), ({ } : EthFrame), ([] : List (Nat × EthFrame)), (0 : BitVec 5), (0 : BitVec 16), (0 : BitVec 16), (1 : BitVec 16), (24 : BitVec 16), ([] : List Byte), ((0, []) : Nat × List ZrtOp), (fun z : State => (let s2 := ((((let s0 := (((z.setF ZRT_EPOCH_EPOCH (0 : BitVec 16).toNat).setF (ZRT_SES_STAT_OPEN (1 : Fin 8)) 1).setF (ZRT_SES_STAT_NEXT_SEQ (1 : Fin 8)) (((0 : BitVec 16).toNat + 1) % 0x10000)); { s0 with zrt := (s0.setSes (1 : Fin 8) { s0.ses (1 : Fin 8) with cur := none, cache := some ((0 : BitVec 16).toNat, ((0, []) : Nat × List ZrtOp)) }).zrt, boot := { s0.boot with phase := .run } }).setReg ZRT_CFG 0x3F123).setF (ZRT_SES_CFG_EN (1 : Fin 8)) 1).setF (ZRT_SES_CFG_UDP (1 : Fin 8)) (b2n (false : Bool))); { s2 with eth := { s2.eth with inq := ((0 : Fin 2).val, { ({ } : EthFrame) with etype := if (false : Bool) then 0x0800 else 0x88B5, data := (if (false : Bool) then [0x45, 0, 0, 0, 0, 0, 0, 0, 64, 17, 0, 0] ++ bytesBE 4 (7 : Word).toNat ++ zeros 4 ++ zeros 2 ++ bytesBE 2 (s2.f ZRT_CFG_UDP_PORT) ++ zeros 4 else []) ++ ([0x10, BitVec.ofNat 8 ((1 : Fin 8) + 8 * (0 : BitVec 5).toNat)] ++ bytesBE 2 (0 : BitVec 16).toNat ++ bytesBE 2 (0 : BitVec 16).toNat ++ bytesBE 2 (1 : BitVec 16).toNat ++ bytesBE 2 (24 : BitVec 16).toNat ++ [0, 0] ++ ([] : List Byte)) }) :: ([] : List (Nat × EthFrame)) } })) State.reset.wClocks, by decide +kernel⟩,
    ⟨(1 : Fin 8), (0 : Fin 2), (false : Bool), (7 : Word), ({ } : EthFrame), ([] : List (Nat × EthFrame)), (0 : BitVec 5), (0 : BitVec 16), (0 : BitVec 16), (1 : BitVec 16), (24 : BitVec 16), ([] : List Byte), (fun z : State => (let s2 := ((((let s0 := (z.setF ZRT_EPOCH_EPOCH (0 : BitVec 16).toNat); { s0 with zrt := (s0.setSes (1 : Fin 8) { s0.ses (1 : Fin 8) with cur := none, cache := (s0.ses (1 : Fin 8)).cache }).zrt, boot := { s0.boot with phase := .run } }).setReg ZRT_CFG 0x3F123).setF (ZRT_SES_CFG_EN (1 : Fin 8)) 1).setF (ZRT_SES_CFG_UDP (1 : Fin 8)) (b2n (false : Bool))); { s2 with eth := { s2.eth with inq := ((0 : Fin 2).val, { ({ } : EthFrame) with etype := if (false : Bool) then 0x0800 else 0x88B5, data := (if (false : Bool) then [0x45, 0, 0, 0, 0, 0, 0, 0, 64, 17, 0, 0] ++ bytesBE 4 (7 : Word).toNat ++ zeros 4 ++ zeros 2 ++ bytesBE 2 (s2.f ZRT_CFG_UDP_PORT) ++ zeros 4 else []) ++ ([0x10, BitVec.ofNat 8 ((1 : Fin 8) + 8 * (0 : BitVec 5).toNat)] ++ bytesBE 2 (0 : BitVec 16).toNat ++ bytesBE 2 (0 : BitVec 16).toNat ++ bytesBE 2 (1 : BitVec 16).toNat ++ bytesBE 2 (24 : BitVec 16).toNat ++ [0, 0] ++ ([] : List Byte)) }) :: ([] : List (Nat × EthFrame)) } })) State.reset.wClocks, by decide +kernel⟩,
    ⟨(1 : Fin 8), (0 : Fin 2), (false : Bool), (7 : Word), ({ } : EthFrame), ([] : List (Nat × EthFrame)), (1 : BitVec 5), (0 : BitVec 16), (0 : BitVec 16), (1 : Byte), (8 : BitVec 16), (0x01000040 : Word), (0 : Word), (fun z : State => (let s2 := ((((let s0 := ((((z.setF ZRT_EPOCH_EPOCH (0 : BitVec 16).toNat).setF (ZRT_SES_STAT_OPEN (1 : Fin 8)) (z.free % 2)).setF (ZRT_SES_STAT_NEXT_SEQ (1 : Fin 8)) (0 : BitVec 16).toNat).setF (ZRT_SES_CFG_OP_GRANT (1 : Fin 8)) 0xFF); { s0 with zrt := (s0.setSes (1 : Fin 8) { s0.ses (1 : Fin 8) with cur := none, cache := (s0.ses (1 : Fin 8)).cache }).zrt, boot := { s0.boot with phase := .run } }).setReg ZRT_CFG 0x3F123).setF (ZRT_SES_CFG_EN (1 : Fin 8)) 1).setF (ZRT_SES_CFG_UDP (1 : Fin 8)) (b2n (false : Bool))); { s2 with eth := { s2.eth with inq := ((0 : Fin 2).val, { ({ } : EthFrame) with etype := if (false : Bool) then 0x0800 else 0x88B5, data := (if (false : Bool) then [0x45, 0, 0, 0, 0, 0, 0, 0, 64, 17, 0, 0] ++ bytesBE 4 (7 : Word).toNat ++ zeros 4 ++ zeros 2 ++ bytesBE 2 (s2.f ZRT_CFG_UDP_PORT) ++ zeros 4 else []) ++ ([0x10, BitVec.ofNat 8 ((1 : Fin 8) + 8 * (1 : BitVec 5).toNat)] ++ bytesBE 2 (0 : BitVec 16).toNat ++ bytesBE 2 (0 : BitVec 16).toNat ++ bytesBE 2 1 ++ bytesBE 2 24 ++ [0, 0]  ++ (bytesBE 1 (1 : Byte).toNat ++ [0] ++ bytesBE 2 (8 : BitVec 16).toNat ++ bytesBE 4 (0x01000040 : Word).toNat ++ bytesBE 4 (0 : Word).toNat)) }) :: ([] : List (Nat × EthFrame)) } })) State.reset.wClocks, by decide +kernel⟩,
    ⟨(1 : Fin 8), (0 : Fin 2), (false : Bool), (7 : Word), ({ } : EthFrame), ([] : List (Nat × EthFrame)), (1 : BitVec 5), (0 : BitVec 16), (0 : BitVec 16), (9 : Byte), (0 : BitVec 16), (0x01000040 : Word), (0 : Word), (fun z : State => (let s2 := ((((let s0 := (((z.setF ZRT_EPOCH_EPOCH (0 : BitVec 16).toNat).setF (ZRT_SES_STAT_OPEN (1 : Fin 8)) (z.free % 2)).setF (ZRT_SES_STAT_NEXT_SEQ (1 : Fin 8)) (0 : BitVec 16).toNat); { s0 with zrt := (s0.setSes (1 : Fin 8) { s0.ses (1 : Fin 8) with cur := none, cache := (s0.ses (1 : Fin 8)).cache }).zrt, boot := { s0.boot with phase := .run } }).setReg ZRT_CFG 0x3F123).setF (ZRT_SES_CFG_EN (1 : Fin 8)) 1).setF (ZRT_SES_CFG_UDP (1 : Fin 8)) (b2n (false : Bool))); { s2 with eth := { s2.eth with inq := ((0 : Fin 2).val, { ({ } : EthFrame) with etype := if (false : Bool) then 0x0800 else 0x88B5, data := (if (false : Bool) then [0x45, 0, 0, 0, 0, 0, 0, 0, 64, 17, 0, 0] ++ bytesBE 4 (7 : Word).toNat ++ zeros 4 ++ zeros 2 ++ bytesBE 2 (s2.f ZRT_CFG_UDP_PORT) ++ zeros 4 else []) ++ ([0x10, BitVec.ofNat 8 ((1 : Fin 8) + 8 * (1 : BitVec 5).toNat)] ++ bytesBE 2 (0 : BitVec 16).toNat ++ bytesBE 2 (0 : BitVec 16).toNat ++ bytesBE 2 1 ++ bytesBE 2 24 ++ [0, 0]  ++ (bytesBE 1 (9 : Byte).toNat ++ [0] ++ bytesBE 2 (0 : BitVec 16).toNat ++ bytesBE 4 (0x01000040 : Word).toNat ++ bytesBE 4 (0 : Word).toNat)) }) :: ([] : List (Nat × EthFrame)) } })) State.reset.wClocks, by decide +kernel⟩,
    ⟨(1 : Fin 8), (0 : Fin 2), (false : Bool), (7 : Word), ({ } : EthFrame), ([] : List (Nat × EthFrame)), (1 : BitVec 5), (0 : BitVec 16), (0 : BitVec 16), (1 : Byte), (8 : BitVec 16), (0x01000040 : Word), (0 : Word), (fun z : State => (let s2 := ((((let s0 := ((((z.setF ZRT_EPOCH_EPOCH (0 : BitVec 16).toNat).setF (ZRT_SES_STAT_OPEN (1 : Fin 8)) (z.free % 2)).setF (ZRT_SES_STAT_NEXT_SEQ (1 : Fin 8)) (0 : BitVec 16).toNat).setF (ZRT_SES_CFG_OP_GRANT (1 : Fin 8)) 0); { s0 with zrt := (s0.setSes (1 : Fin 8) { s0.ses (1 : Fin 8) with cur := none, cache := (s0.ses (1 : Fin 8)).cache }).zrt, boot := { s0.boot with phase := .run } }).setReg ZRT_CFG 0x3F123).setF (ZRT_SES_CFG_EN (1 : Fin 8)) 1).setF (ZRT_SES_CFG_UDP (1 : Fin 8)) (b2n (false : Bool))); { s2 with eth := { s2.eth with inq := ((0 : Fin 2).val, { ({ } : EthFrame) with etype := if (false : Bool) then 0x0800 else 0x88B5, data := (if (false : Bool) then [0x45, 0, 0, 0, 0, 0, 0, 0, 64, 17, 0, 0] ++ bytesBE 4 (7 : Word).toNat ++ zeros 4 ++ zeros 2 ++ bytesBE 2 (s2.f ZRT_CFG_UDP_PORT) ++ zeros 4 else []) ++ ([0x10, BitVec.ofNat 8 ((1 : Fin 8) + 8 * (1 : BitVec 5).toNat)] ++ bytesBE 2 (0 : BitVec 16).toNat ++ bytesBE 2 (0 : BitVec 16).toNat ++ bytesBE 2 1 ++ bytesBE 2 24 ++ [0, 0]  ++ (bytesBE 1 (1 : Byte).toNat ++ [0] ++ bytesBE 2 (8 : BitVec 16).toNat ++ bytesBE 4 (0x01000040 : Word).toNat ++ bytesBE 4 (0 : Word).toNat)) }) :: ([] : List (Nat × EthFrame)) } })) State.reset.wClocks, by decide +kernel⟩,
    ⟨(1 : Fin 8), (0 : Fin 2), (false : Bool), (7 : Word), ({ } : EthFrame), ([] : List (Nat × EthFrame)), (1 : BitVec 5), (0 : BitVec 16), (0 : BitVec 16), (1 : BitVec 16), (24 : BitVec 16), ([] : List Byte), (fun z : State => (let s2 := ((((let s0 := (((z.setF ZRT_EPOCH_EPOCH (0 : BitVec 16).toNat).setF (ZRT_SES_STAT_OPEN (1 : Fin 8)) (z.free % 2)).setF (ZRT_SES_STAT_NEXT_SEQ (1 : Fin 8)) (0 : BitVec 16).toNat); { s0 with zrt := (s0.setSes (1 : Fin 8) { s0.ses (1 : Fin 8) with cur := none, cache := (s0.ses (1 : Fin 8)).cache }).zrt, boot := { s0.boot with phase := .run } }).setReg ZRT_CFG 0x3F123).setF (ZRT_SES_CFG_EN (1 : Fin 8)) 1).setF (ZRT_SES_CFG_UDP (1 : Fin 8)) (b2n (false : Bool))); { s2 with eth := { s2.eth with inq := ((0 : Fin 2).val, { ({ } : EthFrame) with etype := if (false : Bool) then 0x0800 else 0x88B5, data := (if (false : Bool) then [0x45, 0, 0, 0, 0, 0, 0, 0, 64, 17, 0, 0] ++ bytesBE 4 (7 : Word).toNat ++ zeros 4 ++ zeros 2 ++ bytesBE 2 (s2.f ZRT_CFG_UDP_PORT) ++ zeros 4 else []) ++ ([0x10, BitVec.ofNat 8 ((1 : Fin 8) + 8 * (1 : BitVec 5).toNat)] ++ bytesBE 2 (0 : BitVec 16).toNat ++ bytesBE 2 (0 : BitVec 16).toNat ++ bytesBE 2 (1 : BitVec 16).toNat ++ bytesBE 2 (24 : BitVec 16).toNat ++ [0, 0] ++ ([] : List Byte)) }) :: ([] : List (Nat × EthFrame)) } })) State.reset.wClocks, by decide +kernel⟩,
    ⟨(1 : Fin 8), (0 : Fin 2), (false : Bool), (7 : Word), ({ } : EthFrame), ([] : List (Nat × EthFrame)), (1 : BitVec 5), (0 : BitVec 16), (0 : BitVec 16), (fun z : State => (let s2 := ((((let s0 := (((z.setF ZRT_EPOCH_EPOCH (0 : BitVec 16).toNat).setF (ZRT_SES_STAT_OPEN (1 : Fin 8)) (z.free % 2)).setF (ZRT_SES_STAT_NEXT_SEQ (1 : Fin 8)) (0 : BitVec 16).toNat); { s0 with zrt := (s0.setSes (1 : Fin 8) { s0.ses (1 : Fin 8) with cur := none, cache := (s0.ses (1 : Fin 8)).cache }).zrt, boot := { s0.boot with phase := .run } }).setReg ZRT_CFG 0x3F123).setF (ZRT_SES_CFG_EN (1 : Fin 8)) 1).setF (ZRT_SES_CFG_UDP (1 : Fin 8)) (b2n (false : Bool))); { s2 with eth := { s2.eth with inq := ((0 : Fin 2).val, { ({ } : EthFrame) with etype := if (false : Bool) then 0x0800 else 0x88B5, data := (if (false : Bool) then [0x45, 0, 0, 0, 0, 0, 0, 0, 64, 17, 0, 0] ++ bytesBE 4 (7 : Word).toNat ++ zeros 4 ++ zeros 2 ++ bytesBE 2 (s2.f ZRT_CFG_UDP_PORT) ++ zeros 4 else []) ++ ([0x10, BitVec.ofNat 8 ((1 : Fin 8) + 8 * (1 : BitVec 5).toNat)] ++ bytesBE 2 (0 : BitVec 16).toNat ++ bytesBE 2 (0 : BitVec 16).toNat ++ bytesBE 2 2 ++ bytesBE 2 36 ++ [0, 0]  ++ (bytesBE 4 0x01000400 ++ zeros 8 ++ bytesBE 4 0x010001C0 ++ zeros 8)) }) :: ([] : List (Nat × EthFrame)) } })) State.reset.wClocks, by decide +kernel⟩,
    ⟨(1 : Fin 8), (5 : Nat), (false : Bool), ([] : List ZrtOp), (0 : Word), (0 : Word), ([] : List Byte), (fun z : State => (let s0 := z; { s0 with zrt := (s0.setSes (1 : Fin 8) { s0.ses (1 : Fin 8) with parts := [], cur := some { seq := (5 : Nat), stop := (false : Bool), todo := { op := 7, len := 8, addr := (0 : Word).toNat, arg := (0 : Word).toNat, data := ([] : List Byte) } :: [], done := ([] : List ZrtOp) } }).zrt, waiting := s0.waiting.filter (fun tx => tx.init ≠ 0x40 + (1 : Fin 8).val), boot := { s0.boot with phase := .run } })) { State.reset.wClocks with rr := tset (fun _ => 0) State.reset.rr 0x100 (1 : Fin 8).val }, by decide +kernel⟩⟩

/-- Hypotheses of Obligations.ZrtRequests are met. -/
theorem test_hyps_zrtRequests_2 :
    (∃ (k : Fin 8) (q : Nat) (st : Bool) (dn : List ZrtOp) (a : Word) (g : Word) (d : List Byte) (s : State), (s.ses k).cur = some { seq := q, stop := st, todo := { op := 8, len := 8, addr := a.toNat, arg := g.toNat, data := d } :: [], done := dn } ∧ (s.ses k).parts = [] ∧ s.boot.phase ≠ .recovery ∧ ((s.key (25 + k)).kind ≠ 1 ∨ d ≠ ((cmac (s.key (25 + k)).bytes (bytesBE 2 (s.f ZRT_EPOCH_EPOCH) ++ bytesBE 2 q ++ bytesBE 1 k ++ ([8, 0, 0, 8] ++ bytesBE 4 a.toNat ++ bytesBE 4 g.toNat))).take 8)) ∧ s.zrtTurn = some k.val ∧ s.clocked 10 = true) ∧
    (∃ (k : Fin 8) (q : Nat) (st : Bool) (dn : List ZrtOp) (a : Word) (s : State), (s.ses k).cur = some { seq := q, stop := st, todo := { op := 7, len := 8, addr := a.toNat, arg := 0, data := ((cmac (s.key (25 + k)).bytes (bytesBE 2 (s.f ZRT_EPOCH_EPOCH) ++ bytesBE 2 q ++ bytesBE 1 k ++ ([7, 0, 0, 8] ++ bytesBE 4 a.toNat ++ bytesBE 4 0))).take 8) } :: [], done := dn } ∧ (s.ses k).parts = [] ∧ s.boot.phase ≠ .recovery ∧ (s.key (25 + k)).kind = 1 ∧ s.zrtTurn = some k.val ∧ s.clocked 10 = true) ∧
    (∃ (k : Fin 8) (q : Nat) (st : Bool) (dn : List ZrtOp) (a : Word) (s : State), (s.ses k).cur = some { seq := q, stop := st, todo := { op := 7, len := 8, addr := a.toNat, arg := 1, data := ((cmac (s.key (25 + k)).bytes (bytesBE 2 (s.f ZRT_EPOCH_EPOCH) ++ bytesBE 2 q ++ bytesBE 1 k ++ ([7, 0, 0, 8] ++ bytesBE 4 a.toNat ++ bytesBE 4 1))).take 8) } :: [], done := dn } ∧ (s.ses k).parts = [] ∧ s.boot.phase ≠ .recovery ∧ (s.key (25 + k)).kind = 1 ∧ s.zrtTurn = some k.val ∧ s.clocked 10 = true) ∧
    (∃ (k : Fin 8) (q : Nat) (st : Bool) (dn : List ZrtOp) (a : Word) (s : State), (s.ses k).cur = some { seq := q, stop := st, todo := { op := 8, len := 8, addr := a.toNat, arg := 0, data := ((cmac (s.key (25 + k)).bytes (bytesBE 2 (s.f ZRT_EPOCH_EPOCH) ++ bytesBE 2 q ++ bytesBE 1 k ++ ([8, 0, 0, 8] ++ bytesBE 4 a.toNat ++ bytesBE 4 0))).take 8) } :: [], done := dn } ∧ (s.ses k).parts = [] ∧ s.boot.phase ≠ .recovery ∧ (s.key (25 + k)).kind = 1 ∧ s.f UPD_STAT_STATE = 3 ∧ s.on TRK_CFG_ROLE = false ∧ s.zrtTurn = some k.val ∧ s.clocked 10 = true) ∧
    (∃ (k : Fin 8) (q : Nat) (st : Bool) (dn : List ZrtOp) (a : Word) (s : State), (s.ses k).cur = some { seq := q, stop := st, todo := { op := 8, len := 8, addr := a.toNat, arg := 1, data := ((cmac (s.key (25 + k)).bytes (bytesBE 2 (s.f ZRT_EPOCH_EPOCH) ++ bytesBE 2 q ++ bytesBE 1 k ++ ([8, 0, 0, 8] ++ bytesBE 4 a.toNat ++ bytesBE 4 1))).take 8) } :: [], done := dn } ∧ (s.ses k).parts = [] ∧ s.boot.phase ≠ .recovery ∧ (s.key (25 + k)).kind = 1 ∧ s.f UPD_STAT_STATE = 3 ∧ s.on TRK_CFG_ROLE = false ∧ s.zrtTurn = some k.val ∧ s.clocked 10 = true) ∧
    (∃ (k : Fin 8) (q : Nat) (st : Bool) (dn : List ZrtOp) (a : Word) (g : Word) (s : State), (s.ses k).cur = some { seq := q, stop := st, todo := { op := 8, len := 8, addr := a.toNat, arg := g.toNat, data := ((cmac (s.key (25 + k)).bytes (bytesBE 2 (s.f ZRT_EPOCH_EPOCH) ++ bytesBE 2 q ++ bytesBE 1 k ++ ([8, 0, 0, 8] ++ bytesBE 4 a.toNat ++ bytesBE 4 g.toNat))).take 8) } :: [], done := dn } ∧ (s.ses k).parts = [] ∧ s.boot.phase ≠ .recovery ∧ (s.key (25 + k)).kind = 1 ∧ s.f UPD_STAT_STATE ≠ 3 ∧ s.zrtTurn = some k.val ∧ s.clocked 10 = true) ∧
    (∃ (k : Fin 8) (p : Fin 2) (udp : Bool) (ip : Word) (f : EthFrame) (l : List (Nat × EthFrame)) (fl : BitVec 5) (ep : BitVec 16) (sq : BitVec 16) (np : BitVec 16) (ln : BitVec 16) (body : List Byte) (s : State), s.eth.inq = (p.val, { f with etype := if udp then 0x0800 else 0x88B5, data := (if udp then [0x45, 0, 0, 0, 0, 0, 0, 0, 64, 17, 0, 0] ++ bytesBE 4 ip.toNat ++ zeros 4 ++ zeros 2 ++ bytesBE 2 (s.f ZRT_CFG_UDP_PORT) ++ zeros 4 else []) ++ ([0x13, BitVec.ofNat 8 (k + 8 * fl.toNat)] ++ bytesBE 2 ep.toNat ++ bytesBE 2 sq.toNat ++ bytesBE 2 np.toNat ++ bytesBE 2 ln.toNat ++ [0, 0] ++ body) }) :: l ∧ s.boot.phase ≠ .recovery ∧ (if udp then s.on ZRT_CFG_UDP_EN else s.on ZRT_CFG_RAW_EN) = true ∧ s.on (ZRT_SES_CFG_EN k) = true ∧ s.on (ZRT_SES_CFG_UDP k) = udp ∧ ((s.ses k).note = [] ∧ 0 < s.f ZRT_NOTIFY_CFG_BATCH_N) ∧ ((s.ses k).unacked.any (fun e => e.1 = sq.toNat) = true) ∧ s.clocked 10 = true) ∧
    (∃ (k : Fin 8) (p : Fin 2) (udp : Bool) (ip : Word) (f : EthFrame) (l : List (Nat × EthFrame)) (fl : BitVec 5) (ep : BitVec 16) (sq : BitVec 16) (np : BitVec 16) (ln : BitVec 16) (body : List Byte) (s : State), s.eth.inq = (p.val, { f with etype := if udp then 0x0800 else 0x88B5, data := (if udp then [0x45, 0, 0, 0, 0, 0, 0, 0, 64, 17, 0, 0] ++ bytesBE 4 ip.toNat ++ zeros 4 ++ zeros 2 ++ bytesBE 2 (s.f ZRT_CFG_UDP_PORT) ++ zeros 4 else []) ++ ([0x13, BitVec.ofNat 8 (k + 8 * fl.toNat)] ++ bytesBE 2 ep.toNat ++ bytesBE 2 sq.toNat ++ bytesBE 2 np.toNat ++ bytesBE 2 ln.toNat ++ [0, 0] ++ body) }) :: l ∧ s.boot.phase ≠ .recovery ∧ (if udp then s.on ZRT_CFG_UDP_EN else s.on ZRT_CFG_RAW_EN) = true ∧ s.on (ZRT_SES_CFG_EN k) = true ∧ s.on (ZRT_SES_CFG_UDP k) = udp) ∧
    (∃ (k : Fin 8) (p : Fin 2) (udp : Bool) (ip : Word) (f : EthFrame) (l : List (Nat × EthFrame)) (fl : BitVec 5) (ep : BitVec 16) (sq : BitVec 16) (np : BitVec 16) (ln : BitVec 16) (body : List Byte) (s : State), s.eth.inq = (p.val, { f with etype := if udp then 0x0800 else 0x88B5, data := (if udp then [0x45, 0, 0, 0, 0, 0, 0, 0, 64, 17, 0, 0] ++ bytesBE 4 ip.toNat ++ zeros 4 ++ zeros 2 ++ bytesBE 2 (s.f ZRT_CFG_UDP_PORT) ++ zeros 4 else []) ++ ([0x10, BitVec.ofNat 8 (k + 8 * fl.toNat)] ++ bytesBE 2 ep.toNat ++ bytesBE 2 sq.toNat ++ bytesBE 2 np.toNat ++ bytesBE 2 ln.toNat ++ [0, 0] ++ body) }) :: l ∧ s.boot.phase ≠ .recovery ∧ (if udp then s.on ZRT_CFG_UDP_EN else s.on ZRT_CFG_RAW_EN) = true) :=
  ⟨⟨(1 : Fin 8), (5 : Nat), (false : Bool), ([] : List ZrtOp), (0 : Word), (0 : Word), ([] : List Byte), (fun z : State => (let s0 := z; { s0 with zrt := (s0.setSes (1 : Fin 8) { s0.ses (1 : Fin 8) with parts := [], cur := some { seq := (5 : Nat), stop := (false : Bool), todo := { op := 8, len := 8, addr := (0 : Word).toNat, arg := (0 : Word).toNat, data := ([] : List Byte) } :: [], done := ([] : List ZrtOp) } }).zrt, waiting := s0.waiting.filter (fun tx => tx.init ≠ 0x40 + (1 : Fin 8).val), boot := { s0.boot with phase := .run } })) { State.reset.wClocks with rr := tset (fun _ => 0) State.reset.rr 0x100 (1 : Fin 8).val }, by decide +kernel⟩,
    ⟨(1 : Fin 8), (5 : Nat), (false : Bool), ([] : List ZrtOp), (0 : Word), (fun z : State => (let s2 := ({ z with keys := tset (fun _ => {}) z.keys (25 + (1 : Fin 8)) { kind := 1, bytes := zeros 16 } }); (let s0 := s2; { s0 with zrt := (s0.setSes (1 : Fin 8) { s0.ses (1 : Fin 8) with parts := [], cur := some { seq := (5 : Nat), stop := (false : Bool), todo := { op := 7, len := 8, addr := (0 : Word).toNat, arg := 0, data := ((cmac (s2.key (25 + (1 : Fin 8))).bytes (bytesBE 2 (s2.f ZRT_EPOCH_EPOCH) ++ bytesBE 2 (5 : Nat) ++ bytesBE 1 (1 : Fin 8) ++ ([7, 0, 0, 8] ++ bytesBE 4 (0 : Word).toNat ++ bytesBE 4 0))).take 8) } :: [], done := ([] : List ZrtOp) } }).zrt, waiting := s0.waiting.filter (fun tx => tx.init ≠ 0x40 + (1 : Fin 8).val), boot := { s0.boot with phase := .run } }))) { State.reset.wClocks with rr := tset (fun _ => 0) State.reset.rr 0x100 (1 : Fin 8).val }, by decide +kernel⟩,
    ⟨(1 : Fin 8), (5 : Nat), (false : Bool), ([] : List ZrtOp), (0 : Word), (fun z : State => (let s2 := ({ z with keys := tset (fun _ => {}) z.keys (25 + (1 : Fin 8)) { kind := 1, bytes := zeros 16 } }); (let s0 := s2; { s0 with zrt := (s0.setSes (1 : Fin 8) { s0.ses (1 : Fin 8) with parts := [], cur := some { seq := (5 : Nat), stop := (false : Bool), todo := { op := 7, len := 8, addr := (0 : Word).toNat, arg := 1, data := ((cmac (s2.key (25 + (1 : Fin 8))).bytes (bytesBE 2 (s2.f ZRT_EPOCH_EPOCH) ++ bytesBE 2 (5 : Nat) ++ bytesBE 1 (1 : Fin 8) ++ ([7, 0, 0, 8] ++ bytesBE 4 (0 : Word).toNat ++ bytesBE 4 1))).take 8) } :: [], done := ([] : List ZrtOp) } }).zrt, waiting := s0.waiting.filter (fun tx => tx.init ≠ 0x40 + (1 : Fin 8).val), boot := { s0.boot with phase := .run } }))) { State.reset.wClocks with rr := tset (fun _ => 0) State.reset.rr 0x100 (1 : Fin 8).val }, by decide +kernel⟩,
    ⟨(1 : Fin 8), (5 : Nat), (false : Bool), ([] : List ZrtOp), (0 : Word), (fun z : State => (let s2 := ((({ z with keys := tset (fun _ => {}) z.keys (25 + (1 : Fin 8)) { kind := 1, bytes := zeros 16 } }).setF UPD_STAT_STATE 3).setF TRK_CFG_ROLE 0); (let s0 := s2; { s0 with zrt := (s0.setSes (1 : Fin 8) { s0.ses (1 : Fin 8) with parts := [], cur := some { seq := (5 : Nat), stop := (false : Bool), todo := { op := 8, len := 8, addr := (0 : Word).toNat, arg := 0, data := ((cmac (s2.key (25 + (1 : Fin 8))).bytes (bytesBE 2 (s2.f ZRT_EPOCH_EPOCH) ++ bytesBE 2 (5 : Nat) ++ bytesBE 1 (1 : Fin 8) ++ ([8, 0, 0, 8] ++ bytesBE 4 (0 : Word).toNat ++ bytesBE 4 0))).take 8) } :: [], done := ([] : List ZrtOp) } }).zrt, waiting := s0.waiting.filter (fun tx => tx.init ≠ 0x40 + (1 : Fin 8).val), boot := { s0.boot with phase := .run } }))) { State.reset.wClocks with rr := tset (fun _ => 0) State.reset.rr 0x100 (1 : Fin 8).val }, by decide +kernel⟩,
    ⟨(1 : Fin 8), (5 : Nat), (false : Bool), ([] : List ZrtOp), (0 : Word), (fun z : State => (let s2 := ((({ z with keys := tset (fun _ => {}) z.keys (25 + (1 : Fin 8)) { kind := 1, bytes := zeros 16 } }).setF UPD_STAT_STATE 3).setF TRK_CFG_ROLE 0); (let s0 := s2; { s0 with zrt := (s0.setSes (1 : Fin 8) { s0.ses (1 : Fin 8) with parts := [], cur := some { seq := (5 : Nat), stop := (false : Bool), todo := { op := 8, len := 8, addr := (0 : Word).toNat, arg := 1, data := ((cmac (s2.key (25 + (1 : Fin 8))).bytes (bytesBE 2 (s2.f ZRT_EPOCH_EPOCH) ++ bytesBE 2 (5 : Nat) ++ bytesBE 1 (1 : Fin 8) ++ ([8, 0, 0, 8] ++ bytesBE 4 (0 : Word).toNat ++ bytesBE 4 1))).take 8) } :: [], done := ([] : List ZrtOp) } }).zrt, waiting := s0.waiting.filter (fun tx => tx.init ≠ 0x40 + (1 : Fin 8).val), boot := { s0.boot with phase := .run } }))) { State.reset.wClocks with rr := tset (fun _ => 0) State.reset.rr 0x100 (1 : Fin 8).val }, by decide +kernel⟩,
    ⟨(1 : Fin 8), (5 : Nat), (false : Bool), ([] : List ZrtOp), (0 : Word), (0 : Word), (fun z : State => (let s2 := (({ z with keys := tset (fun _ => {}) z.keys (25 + (1 : Fin 8)) { kind := 1, bytes := zeros 16 } }).setF UPD_STAT_STATE 0); (let s0 := s2; { s0 with zrt := (s0.setSes (1 : Fin 8) { s0.ses (1 : Fin 8) with parts := [], cur := some { seq := (5 : Nat), stop := (false : Bool), todo := { op := 8, len := 8, addr := (0 : Word).toNat, arg := (0 : Word).toNat, data := ((cmac (s2.key (25 + (1 : Fin 8))).bytes (bytesBE 2 (s2.f ZRT_EPOCH_EPOCH) ++ bytesBE 2 (5 : Nat) ++ bytesBE 1 (1 : Fin 8) ++ ([8, 0, 0, 8] ++ bytesBE 4 (0 : Word).toNat ++ bytesBE 4 (0 : Word).toNat))).take 8) } :: [], done := ([] : List ZrtOp) } }).zrt, waiting := s0.waiting.filter (fun tx => tx.init ≠ 0x40 + (1 : Fin 8).val), boot := { s0.boot with phase := .run } }))) { State.reset.wClocks with rr := tset (fun _ => 0) State.reset.rr 0x100 (1 : Fin 8).val }, by decide +kernel⟩,
    ⟨(1 : Fin 8), (0 : Fin 2), (false : Bool), (7 : Word), ({ } : EthFrame), ([] : List (Nat × EthFrame)), (0 : BitVec 5), (0 : BitVec 16), (0 : BitVec 16), (1 : BitVec 16), (24 : BitVec 16), ([] : List Byte), (fun z : State => (let s3 := (let s2 := ((((let s0 := z; { s0 with zrt := (s0.setSes (1 : Fin 8) { s0.ses (1 : Fin 8) with cur := none, cache := (s0.ses (1 : Fin 8)).cache }).zrt, boot := { s0.boot with phase := .run } }).setReg ZRT_CFG 0x3F123).setF (ZRT_SES_CFG_EN (1 : Fin 8)) 1).setF (ZRT_SES_CFG_UDP (1 : Fin 8)) (b2n (false : Bool))); { s2 with eth := { s2.eth with inq := ((0 : Fin 2).val, { ({ } : EthFrame) with etype := if (false : Bool) then 0x0800 else 0x88B5, data := (if (false : Bool) then [0x45, 0, 0, 0, 0, 0, 0, 0, 64, 17, 0, 0] ++ bytesBE 4 (7 : Word).toNat ++ zeros 4 ++ zeros 2 ++ bytesBE 2 (s2.f ZRT_CFG_UDP_PORT) ++ zeros 4 else []) ++ ([0x13, BitVec.ofNat 8 ((1 : Fin 8) + 8 * (0 : BitVec 5).toNat)] ++ bytesBE 2 (0 : BitVec 16).toNat ++ bytesBE 2 (0 : BitVec 16).toNat ++ bytesBE 2 (1 : BitVec 16).toNat ++ bytesBE 2 (24 : BitVec 16).toNat ++ [0, 0] ++ ([] : List Byte)) }) :: ([] : List (Nat × EthFrame)) } }); { s3 with zrt := (s3.setSes (1 : Fin 8) { s3.ses (1 : Fin 8) with note := [], unacked := (s3.ses (1 : Fin 8)).unacked ++ [((0 : BitVec 16).toNat, []), (9, [])] }).zrt }.setF ZRT_NOTIFY_CFG_BATCH_N 90)) State.reset.wClocks, by decide +kernel⟩,
    ⟨(1 : Fin 8), (0 : Fin 2), (false : Bool), (7 : Word), ({ } : EthFrame), ([] : List (Nat × EthFrame)), (0 : BitVec 5), (0 : BitVec 16), (0 : BitVec 16), (1 : BitVec 16), (24 : BitVec 16), ([] : List Byte), (let s2 := ((((let s0 := State.reset; { s0 with zrt := (s0.setSes (1 : Fin 8) { s0.ses (1 : Fin 8) with cur := none, cache := (s0.ses (1 : Fin 8)).cache }).zrt, boot := { s0.boot with phase := .run } }).setReg ZRT_CFG 0x3F123).setF (ZRT_SES_CFG_EN (1 : Fin 8)) 1).setF (ZRT_SES_CFG_UDP (1 : Fin 8)) (b2n (false : Bool))); { s2 with eth := { s2.eth with inq := ((0 : Fin 2).val, { ({ } : EthFrame) with etype := if (false : Bool) then 0x0800 else 0x88B5, data := (if (false : Bool) then [0x45, 0, 0, 0, 0, 0, 0, 0, 64, 17, 0, 0] ++ bytesBE 4 (7 : Word).toNat ++ zeros 4 ++ zeros 2 ++ bytesBE 2 (s2.f ZRT_CFG_UDP_PORT) ++ zeros 4 else []) ++ ([0x13, BitVec.ofNat 8 ((1 : Fin 8) + 8 * (0 : BitVec 5).toNat)] ++ bytesBE 2 (0 : BitVec 16).toNat ++ bytesBE 2 (0 : BitVec 16).toNat ++ bytesBE 2 (1 : BitVec 16).toNat ++ bytesBE 2 (24 : BitVec 16).toNat ++ [0, 0] ++ ([] : List Byte)) }) :: ([] : List (Nat × EthFrame)) } }), by decide +kernel⟩,
    ⟨(1 : Fin 8), (0 : Fin 2), (false : Bool), (7 : Word), ({ } : EthFrame), ([] : List (Nat × EthFrame)), (0 : BitVec 5), (0 : BitVec 16), (0 : BitVec 16), (1 : BitVec 16), (24 : BitVec 16), ([] : List Byte), (let s2 := ((((let s0 := State.reset; { s0 with zrt := (s0.setSes (1 : Fin 8) { s0.ses (1 : Fin 8) with cur := none, cache := (s0.ses (1 : Fin 8)).cache }).zrt, boot := { s0.boot with phase := .run } }).setReg ZRT_CFG 0x3F123).setF (ZRT_SES_CFG_EN (1 : Fin 8)) 1).setF (ZRT_SES_CFG_UDP (1 : Fin 8)) (b2n (false : Bool))); { s2 with eth := { s2.eth with inq := ((0 : Fin 2).val, { ({ } : EthFrame) with etype := if (false : Bool) then 0x0800 else 0x88B5, data := (if (false : Bool) then [0x45, 0, 0, 0, 0, 0, 0, 0, 64, 17, 0, 0] ++ bytesBE 4 (7 : Word).toNat ++ zeros 4 ++ zeros 2 ++ bytesBE 2 (s2.f ZRT_CFG_UDP_PORT) ++ zeros 4 else []) ++ ([0x10, BitVec.ofNat 8 ((1 : Fin 8) + 8 * (0 : BitVec 5).toNat)] ++ bytesBE 2 (0 : BitVec 16).toNat ++ bytesBE 2 (0 : BitVec 16).toNat ++ bytesBE 2 (1 : BitVec 16).toNat ++ bytesBE 2 (24 : BitVec 16).toNat ++ [0, 0] ++ ([] : List Byte)) }) :: ([] : List (Nat × EthFrame)) } }), by decide +kernel⟩⟩

/-- Hypotheses of Obligations.TrunkTrainingLossAndFrames are met. -/
theorem test_hyps_trunkTrainingLossAndFrames_1 :
    (∃ (s : State), s.on TRK_CFG_ROLE = false ∧ s.f TRK_STAT_LINK ≠ 2 ∧ s.boot.xtalBad = false ∧ s.clocked 15 = true ∧ s.boot.phase ≠ .reset) ∧
    (∃ (s : State), (s.on TRK_CFG_ROLE = true ∨ s.f TRK_STAT_LINK = 2 ∨ s.boot.xtalBad = true)) ∧
    (∃ (l : List (Fin 4)) (s : State), s.on TRK_CFG_ROLE = false ∧ s.boot.xtalBad = false ∧ s.trk.attempt = true ∧ l.length ≤ 3 ∧ ([1, 2, 3].all (fun n => l.count n ≤ 1) = true) ∧ s.clocked 15 = true) ∧
    (∃ (l : List (Fin 4)) (s : State), s.on TRK_CFG_ROLE = false ∧ s.boot.xtalBad = false ∧ s.trk.attempt = true ∧ l.length ≤ 3 ∧ ([1, 2, 3].any (fun n => 2 ≤ l.count n) = true) ∧ s.clocked 15 = true) ∧
    (∃ (l : List (Fin 4)) (s : State), s.on TRK_CFG_ROLE = true ∧ s.boot.xtalBad = false ∧ l.length < 3 ∧ s.clocked 15 = true) ∧
    (∃ (k : Fin 8) (n : Nat) (c : Cue) (s : State), s.on TRK_CFG_ROLE = true ∧ s.boot.xtalBad = false ∧ s.zrt = [(k.val, { note := [(n, c)] })] ∧ s.trk.outs = [] ∧ s.clocked 15 = true) ∧
    (∃ (l : List (Fin 4)) (crc : Bool) (s : State), (crc = false ∨ 3 < l.length ∨ s.boot.xtalBad = true ∨ (s.on TRK_CFG_ROLE = true ∧ l.length = 3) ∨ (s.on TRK_CFG_ROLE = false ∧ s.trk.attempt = false))) ∧
    (∃ (s : State), s.trk.attempt = true) ∧
    (∃ (s : State), s.trk.attempt = false) ∧
    (∃ (q : Byte) (s : State), s.clocked 15 = true) ∧
    (∃ (f : TrkFrame) (q : Byte) (l : List TrkFrame) (r : Nat) (s : State), s.trk.kept = { f with seq := q.toNat, resent := r } :: l ∧ (s.on TRK_CFG_ROLE = true ∨ r < 4) ∧ (l.all (fun x => x.seq ≠ q.toNat) = true) ∧ s.clocked 15 = true) ∧
    (∃ (f : TrkFrame) (q : Byte) (l : List TrkFrame) (r : Nat) (s : State), s.trk.kept = { f with seq := q.toNat, resent := r } :: l ∧ s.on TRK_CFG_ROLE = false ∧ 4 ≤ r ∧ s.clocked 15 = true) :=
  ⟨⟨(fun z : State => { (z.setF TRK_CFG_ROLE 0).setF TRK_STAT_LINK (z.free % 2) with boot := { z.boot with xtalBad := false } }) State.reset.wRun, by decide +kernel⟩,
    ⟨State.reset.setF TRK_STAT_LINK 2, by decide +kernel⟩,
    ⟨([3, 1] : List (Fin 4)), (fun z : State => { ({ (z.setF TRK_CFG_ROLE 0) with boot := { z.boot with xtalBad := false } }) with trk := { z.trk with attempt := true } }) State.reset.wClocks, by decide +kernel⟩,
    ⟨([2, 1, 2] : List (Fin 4)), (fun z : State => { ({ (z.setF TRK_CFG_ROLE 0) with boot := { z.boot with xtalBad := false } }) with trk := { z.trk with attempt := true } }) State.reset.wClocks, by decide +kernel⟩,
    ⟨([2] : List (Fin 4)), (fun z : State => { (z.setF TRK_CFG_ROLE 1) with boot := { z.boot with xtalBad := false } }) State.reset.wClocks, by decide +kernel⟩,
    ⟨(2 : Fin 8), (0 : Nat), ({ } : Cue), (fun z : State => { ({ (z.setF TRK_CFG_ROLE 1) with boot := { z.boot with xtalBad := false } }) with zrt := [((2 : Fin 8).val, { note := [((0 : Nat), ({ } : Cue))] })], trk := { z.trk with outs := [] } }) State.reset.wClocks, by decide +kernel⟩,
    ⟨([] : List (Fin 4)), (false : Bool), State.reset, by decide +kernel⟩,
    ⟨{ State.reset with trk := { State.reset.trk with attempt := true } }, by decide +kernel⟩,
    ⟨{ State.reset with trk := { State.reset.trk with attempt := false } }, by decide +kernel⟩,
    ⟨(3 : Byte), State.reset.wClocks, by decide +kernel⟩,
    ⟨({ } : TrkFrame), (3 : Byte), ([] : List TrkFrame), (2 : Nat), (fun z : State => { ((z.setF TRK_CFG_ROLE 0)) with trk := { z.trk with outs := [], kept := { ({ } : TrkFrame) with seq := (3 : Byte).toNat, resent := (2 : Nat) } :: ([] : List TrkFrame) } }) State.reset.wClocks, by decide +kernel⟩,
    ⟨({ } : TrkFrame), (3 : Byte), ([] : List TrkFrame), (4 : Nat), (fun z : State => { ((z.setF TRK_CFG_ROLE 0)) with trk := { z.trk with outs := [], kept := { ({ } : TrkFrame) with seq := (3 : Byte).toNat, resent := (4 : Nat) } :: ([] : List TrkFrame) } }) State.reset.wClocks, by decide +kernel⟩⟩

/-- Hypotheses of Obligations.TrunkTrainingLossAndFrames are met. -/
theorem test_hyps_trunkTrainingLossAndFrames_2 :
    (∃ (q : Byte) (s : State), (s.trk.kept.any (fun f => f.seq = q.toNat) = false)) ∧
    (∃ (f : TrkFrame) (q : Byte) (l : List TrkFrame) (r : Nat) (s : State), s.trk.kept = { f with seq := q.toNat, resent := r } :: l ∧ (s.on TRK_CFG_ROLE = true ∨ r < 4) ∧ (l.all (fun x => x.seq ≠ q.toNat) = true) ∧ s.clocked 15 = true) ∧
    (∃ (f : TrkFrame) (q : Byte) (l : List TrkFrame) (r : Nat) (s : State), s.trk.kept = { f with seq := q.toNat, resent := r } :: l ∧ s.on TRK_CFG_ROLE = false ∧ 4 ≤ r ∧ s.clocked 15 = true) ∧
    (∃ (q : Byte) (s : State), (s.trk.kept.any (fun f => f.seq = q.toNat) = false)) ∧
    (∃ (s : State), s.on TRK_CFG_ROLE = false ∧ s.f TRK_STAT_LINK = 2 ∧ s.f PWR_STATE_PHASE < 2 ∧ s.trk.outs = [] ∧ s.clocked 15 = true) ∧
    (∃ (g : Fin 48) (tg : Nat) (a : Word) (n : Nat) (s : State), n < 0x10000 ∧ s.on TRK_CFG_ROLE = false ∧ s.f TRK_STAT_LINK = 2 ∧ s.f PWR_STATE_PHASE < 2 ∧ s.trk.outs = [(tg, { orig := 0x10 + g.val, op := 0, addr := a.toNat, len := n, what := 0 })] ∧ (s.eng g).load.isSome = true ∧ s.clocked 15 = true) ∧
    (∃ (k : Fin 8) (q : Nat) (tg : Nat) (a : Word) (n : Nat) (s : State), n ≤ 64 ∧ s.on TRK_CFG_ROLE = false ∧ s.f TRK_STAT_LINK = 2 ∧ s.f PWR_STATE_PHASE < 2 ∧ s.trk.outs = [(tg, { orig := 0x40 + k.val, op := 0, spec := true, addr := a.toNat, len := n, what := 1, zrt := true })] ∧ (s.ses k).cur = some { seq := q, todo := [{ op := 1, len := n, addr := a.toNat }] } ∧ (s.ses k).parts = [{ addr := a.toNat, len := n }] ∧ s.clocked 15 = true) ∧
    (∃ (s : State), s.on TRK_CFG_ROLE = true ∧ s.f TRK_STAT_LINK = 2 ∧ s.clocked 15 = true) ∧
    (∃ (s : State), (s.f TRK_STAT_LINK ≠ 2 ∨ (s.on TRK_CFG_ROLE = false ∧ 2 ≤ s.f PWR_STATE_PHASE ∧ 3 ≤ s.f PWR_STATE_TARGET))) ∧
    (∃ (tg : Byte) (r : TrkReq) (s : State), s.on TRK_CFG_ROLE = false ∧ s.trk.outs = [(tg.toNat, r)] ∧ r.what ≠ 3 ∧ s.clocked 15 = true) ∧
    (∃ (tg : Byte) (s : State), (s.on TRK_CFG_ROLE = true ∨ s.trk.outs.any (fun o => o.1 = tg.toNat && o.2.what ≠ 3) = false)) :=
  ⟨⟨(3 : Byte), State.reset, by decide +kernel⟩,
    ⟨({ } : TrkFrame), (3 : Byte), ([] : List TrkFrame), (2 : Nat), (fun z : State => { ((z.setF TRK_CFG_ROLE 0)) with trk := { z.trk with outs := [], kept := { ({ } : TrkFrame) with seq := (3 : Byte).toNat, resent := (2 : Nat) } :: ([] : List TrkFrame) } }) State.reset.wClocks, by decide +kernel⟩,
    ⟨({ } : TrkFrame), (3 : Byte), ([] : List TrkFrame), (4 : Nat), (fun z : State => { ((z.setF TRK_CFG_ROLE 0)) with trk := { z.trk with outs := [], kept := { ({ } : TrkFrame) with seq := (3 : Byte).toNat, resent := (4 : Nat) } :: ([] : List TrkFrame) } }) State.reset.wClocks, by decide +kernel⟩,
    ⟨(3 : Byte), State.reset, by decide +kernel⟩,
    ⟨(fun z : State => { ((((z.setF TRK_CFG_ROLE 0).setF TRK_STAT_LINK 2).setF PWR_STATE_PHASE (z.free % 2))) with trk := { z.trk with outs := [] } }) State.reset.wClocks, by decide +kernel⟩,
    ⟨(3 : Fin 48), (5 : Nat), (0x21000000 : Word), (2 : Nat), (fun z : State => { ((let x := (((z.setF TRK_CFG_ROLE 0).setF TRK_STAT_LINK 2).setF PWR_STATE_PHASE (z.free % 2)); x.setEng (3 : Fin 48) { x.eng (3 : Fin 48) with load := some { } })) with trk := { z.trk with outs := [((5 : Nat), { orig := 0x10 + (3 : Fin 48).val, op := 0, addr := (0x21000000 : Word).toNat, len := (2 : Nat), what := 0 })] } }) State.reset.wClocks, by decide +kernel⟩,
    ⟨(1 : Fin 8), (5 : Nat), (5 : Nat), (0x21000000 : Word), (8 : Nat), (fun z : State => { ((let x := ((((z.setF TRK_CFG_ROLE 0).setF TRK_STAT_LINK 2).setF PWR_STATE_PHASE (z.free % 2))); { x with zrt := (x.setSes (1 : Fin 8) { x.ses (1 : Fin 8) with cur := some { seq := (5 : Nat), todo := [{ op := 1, len := (8 : Nat), addr := (0x21000000 : Word).toNat }] }, parts := [{ addr := (0x21000000 : Word).toNat, len := (8 : Nat) }] }).zrt })) with trk := { z.trk with outs := [((5 : Nat), { orig := 0x40 + (1 : Fin 8).val, op := 0, spec := true, addr := (0x21000000 : Word).toNat, len := (8 : Nat), what := 1, zrt := true })] } }) State.reset.wClocks, by decide +kernel⟩,
    ⟨(fun z : State => (z.setF TRK_CFG_ROLE 1).setF TRK_STAT_LINK 2) State.reset.wClocks, by decide +kernel⟩,
    ⟨State.reset, by decide +kernel⟩,
    ⟨(5 : Byte), ({ what := 0, orig := 0x10 } : TrkReq), (fun z : State => { ((z.setF TRK_CFG_ROLE 0)) with trk := { z.trk with outs := [((5 : Byte).toNat, ({ what := 0, orig := 0x10 } : TrkReq))] } }) State.reset.wClocks, by decide +kernel⟩,
    ⟨(5 : Byte), State.reset, by decide +kernel⟩⟩

/-- Hypotheses of Obligations.TrunkTransactionsAndTime are met. -/
theorem test_hyps_trunkTransactionsAndTime_1 :
    (∃ (src : Fin 4) (sq : Byte) (tg : Byte) (crc : Bool) (r : TrunkReq) (s : State), (crc = false ∨ s.f TRK_STAT_LINK ≠ 2 ∨ (tget (fun _ => []) s.trk.seen src).contains sq.toNat = true)) ∧
    (∃ (src : Fin 4) (sq : Byte) (tg : Byte) (orig : Byte) (spec : Bool) (a : Word) (n : BitVec 16) (s : State), s.on TRK_CFG_ROLE = true ∧ s.f TRK_STAT_LINK = 2 ∧ ((tget (fun _ => []) s.trk.seen src).contains sq.toNat = false) ∧ s.boot.phase ≠ .recovery ∧ s.trk.reqs = [] ∧ (0x01000000 ≤ a.toNat ∧ a.toNat + n.toNat ≤ 0x01200000) ∧ (0 < n.toNat ∧ n.toNat ≤ 64) ∧ s.clocked 15 = true ∧ s.portHeld a.toNat = false ∧ s.trkWaits { orig := orig.toNat, op := 0, spec := spec, addr := a.toNat, len := n.toNat } = false) ∧
    (∃ (src : Fin 4) (sq : Byte) (tg : Byte) (orig : Byte) (o : Fin 2) (a : Word) (d : List Byte) (s : State), s.on TRK_CFG_ROLE = true ∧ s.f TRK_STAT_LINK = 2 ∧ ((tget (fun _ => []) s.trk.seen src).contains sq.toNat = false) ∧ s.boot.phase ≠ .recovery ∧ s.trk.reqs = [] ∧ (0x01000000 ≤ a.toNat ∧ a.toNat + d.length ≤ 0x01200000) ∧ (0 < d.length ∧ d.length ≤ 64) ∧ s.clocked 15 = true ∧ s.portHeld a.toNat = false ∧ s.trkWaits { orig := orig.toNat, op := 1 + o.val, addr := a.toNat, len := d.length, data := d } = false) ∧
    (∃ (src : Fin 4) (sq : Byte) (tg : Byte) (orig : Byte) (spec : Bool) (a : Word) (n : BitVec 16) (s : State), s.on TRK_CFG_ROLE = true ∧ s.f TRK_STAT_LINK = 2 ∧ ((tget (fun _ => []) s.trk.seen src).contains sq.toNat = false) ∧ s.trk.reqs = [] ∧ (0x09000000 ≤ a.toNat ∧ a.toNat < 0x10000000) ∧ n = 4 ∧ a.toNat % 4 = 0 ∧ s.clocked 15 = true ∧ s.portHeld a.toNat = false) ∧
    (∃ (src : Fin 4) (sq : Byte) (tg : Byte) (orig : Byte) (o : Fin 2) (a : Word) (d : List Byte) (s : State), s.on TRK_CFG_ROLE = false ∧ s.f TRK_STAT_LINK = 2 ∧ ((tget (fun _ => []) s.trk.seen src).contains sq.toNat = false) ∧ d.length = 16 ∧ (s.ses (Config.openValue 5 a.toNat % 8)).note = [] ∧ 1 < s.f ZRT_NOTIFY_CFG_BATCH_N ∧ (sliceLE d 0 1 % 32 ≠ 1 ∧ sliceLE d 0 1 / 16 % 2 = 0) ∧ s.clocked 15 = true) ∧
    (∃ (src : Fin 4) (sq : Byte) (tg : Byte) (st : Byte) (crc : Bool) (d : List Byte) (s : State), (crc = false ∨ (tget (fun _ => []) s.trk.seen src).contains sq.toNat = true)) ∧
    (∃ (src : Fin 4) (sq : Byte) (tg : Byte) (st : Byte) (d : List Byte) (s : State), ((tget (fun _ => []) s.trk.seen src).contains sq.toNat = false) ∧ (s.trk.outs.any (fun o => o.1 = tg.toNat) = false) ∧ s.clocked 15 = true) ∧
    (∃ (src : Fin 4) (sq : Byte) (tg : Byte) (g : Fin 48) (a : Word) (n : Nat) (d : List Byte) (s : State), ((tget (fun _ => []) s.trk.seen src).contains sq.toNat = false) ∧ s.trk.outs = [(tg.toNat, { orig := 0x10 + g.val, addr := a.toNat, len := n })] ∧ (tget (fun _ => []) s.trk.got tg.toNat = []) ∧ n = d.length ∧ (s.eng g).load.isSome = true ∧ s.clocked 15 = true) ∧
    (∃ (src : Fin 4) (sq : Byte) (tg : Byte) (g : Fin 48) (a : Word) (n : Nat) (d : List Byte) (s : State), ((tget (fun _ => []) s.trk.seen src).contains sq.toNat = false) ∧ s.trk.outs = [(tg.toNat, { orig := 0x10 + g.val, addr := a.toNat, len := n })] ∧ (tget (fun _ => []) s.trk.got tg.toNat = []) ∧ d.length < n ∧ s.clocked 15 = true) ∧
    (∃ (src : Fin 4) (sq : Byte) (tg : Byte) (k : Fin 8) (q : Nat) (a : Word) (n : Nat) (d : List Byte) (s : State), ((tget (fun _ => []) s.trk.seen src).contains sq.toNat = false) ∧ s.trk.outs = [(tg.toNat, { orig := 0x40 + k.val, spec := true, addr := a.toNat, len := n, what := 1, zrt := true })] ∧ (tget (fun _ => []) s.trk.got tg.toNat = []) ∧ (s.ses k).cur = some { seq := q, todo := [{ op := 1, len := n, addr := a.toNat }] } ∧ (s.ses k).parts = [{ addr := a.toNat, len := n }] ∧ n = d.length ∧ s.clocked 15 = true) ∧
    (∃ (src : Fin 4) (sq : Byte) (tg : Byte) (k : Fin 8) (q : Nat) (a : Word) (n : Nat) (st : Byte) (s : State), ((tget (fun _ => []) s.trk.seen src).contains sq.toNat = false) ∧ s.trk.outs = [(tg.toNat, { orig := 0x40 + k.val, spec := true, addr := a.toNat, len := n, what := 1, zrt := true })] ∧ (tget (fun _ => []) s.trk.got tg.toNat = []) ∧ st ≠ 0 ∧ (s.ses k).cur = some { seq := q, todo := [{ op := 1, len := n, addr := a.toNat }] } ∧ (s.ses k).parts = [{ addr := a.toNat, len := n }] ∧ s.clocked 15 = true) ∧
    (∃ (src : Fin 4) (sq : Byte) (tg : Byte) (r : TrkReq) (a : BitVec 24) (st : Byte) (s : State), ((tget (fun _ => []) s.trk.seen src).contains sq.toNat = false) ∧ s.trk.outs = [(tg.toNat, { r with what := 3, op := 2 })] ∧ s.brg.posted = [{ r with what := 3, op := 2, tag := tg.toNat, fail := 0, addr := 0x21000000 + a.toNat }] ∧ s.clocked 15 = true) :=
  ⟨⟨(0 : Fin 4), (3 : Byte), (9 : Byte), (false : Bool), ({ orig := 0x10, op := 0, spec := false, addr := 0, len := 4, data := [] } : TrunkReq), State.reset, by decide +kernel⟩,
    ⟨(0 : Fin 4), (3 : Byte), (9 : Byte), (0x13 : Byte), (false : Bool), (0x01000030 : Word), (32 : BitVec 16), (fun z : State => { (let x := (z.setF TRK_CFG_ROLE 1).setF TRK_STAT_LINK 2; { x with trk := { x.trk with seen := [], reqs := [] } }) with boot := { z.boot with phase := .run } }) { State.reset.wClocks with waiting := [] }, by decide +kernel⟩,
    ⟨(0 : Fin 4), (3 : Byte), (9 : Byte), (0x13 : Byte), (0 : Fin 2), (0x01000030 : Word), ([1, 2] : List Byte), (fun z : State => { (let x := (z.setF TRK_CFG_ROLE 1).setF TRK_STAT_LINK 2; { x with trk := { x.trk with seen := [], reqs := [] } }) with boot := { z.boot with phase := .run } }) { State.reset.wClocks with waiting := [] }, by decide +kernel⟩,
    ⟨(0 : Fin 4), (3 : Byte), (9 : Byte), (0x13 : Byte), (false : Bool), (0x09000000 : Word), (4 : BitVec 16), (fun z : State => { (let x := (z.setF TRK_CFG_ROLE 1).setF TRK_STAT_LINK 2; { x with trk := { x.trk with seen := [], reqs := [] } }) with boot := { z.boot with phase := .run } }) { State.reset.wClocks with waiting := [] }, by decide +kernel⟩,
    ⟨(0 : Fin 4), (3 : Byte), (9 : Byte), (0x41 : Byte), (0 : Fin 2), (0 : Word), (List.replicate 16 2 : List Byte), (fun z : State => ((let x := (z.setF TRK_CFG_ROLE 0).setF TRK_STAT_LINK 2; { x with trk := { x.trk with seen := [] } })).setF ZRT_NOTIFY_CFG_BATCH_N 90 |> fun x => { x with zrt := [] }) State.reset.wClocks, by decide +kernel⟩,
    ⟨(1 : Fin 4), (3 : Byte), (9 : Byte), (0 : Byte), (false : Bool), ([] : List Byte), State.reset, by decide +kernel⟩,
    ⟨(1 : Fin 4), (3 : Byte), (9 : Byte), (0 : Byte), ([] : List Byte), (fun z : State => (let x := z; { x with trk := { x.trk with seen := [], outs := [] } })) State.reset.wClocks, by decide +kernel⟩,
    ⟨(1 : Fin 4), (3 : Byte), (9 : Byte), (3 : Fin 48), (0x21000000 : Word), (2 : Nat), ([7, 8] : List Byte), (fun z : State => (let y := (let x := z; { x with trk := { x.trk with seen := [], outs := [((9 : Byte).toNat, { orig := 0x10 + (3 : Fin 48).val, addr := (0x21000000 : Word).toNat, len := (2 : Nat) })], got := [] } }); y.setEng (3 : Fin 48) { y.eng (3 : Fin 48) with load := some { } })) State.reset.wClocks, by decide +kernel⟩,
    ⟨(1 : Fin 4), (3 : Byte), (9 : Byte), (3 : Fin 48), (0x21000000 : Word), (20 : Nat), ([7, 8] : List Byte), (fun z : State => (let y := (let x := z; { x with trk := { x.trk with seen := [], outs := [((9 : Byte).toNat, { orig := 0x10 + (3 : Fin 48).val, addr := (0x21000000 : Word).toNat, len := (20 : Nat) })], got := [] } }); y.setEng (3 : Fin 48) { y.eng (3 : Fin 48) with load := some { } })) State.reset.wClocks, by decide +kernel⟩,
    ⟨(1 : Fin 4), (3 : Byte), (9 : Byte), (1 : Fin 8), (5 : Nat), (0x21000000 : Word), (2 : Nat), ([7, 8] : List Byte), (fun z : State => (let x := z; (let x := (let x := z; { x with zrt := (x.setSes (1 : Fin 8) { x.ses (1 : Fin 8) with cur := some { seq := (5 : Nat), todo := [{ op := 1, len := (2 : Nat), addr := (0x21000000 : Word).toNat }] }, parts := [{ addr := (0x21000000 : Word).toNat, len := (2 : Nat) }] }).zrt }); { x with trk := { x.trk with seen := [], outs := [((9 : Byte).toNat, { orig := 0x40 + (1 : Fin 8).val, spec := true, addr := (0x21000000 : Word).toNat, len := (2 : Nat), what := 1, zrt := true })], got := [] } }))) State.reset.wClocks, by decide +kernel⟩,
    ⟨(1 : Fin 4), (3 : Byte), (9 : Byte), (1 : Fin 8), (5 : Nat), (0x21000000 : Word), (2 : Nat), (3 : Byte), (fun z : State => (let x := z; (let x := (let x := z; { x with zrt := (x.setSes (1 : Fin 8) { x.ses (1 : Fin 8) with cur := some { seq := (5 : Nat), todo := [{ op := 1, len := (2 : Nat), addr := (0x21000000 : Word).toNat }] }, parts := [{ addr := (0x21000000 : Word).toNat, len := (2 : Nat) }] }).zrt }); { x with trk := { x.trk with seen := [], outs := [((9 : Byte).toNat, { orig := 0x40 + (1 : Fin 8).val, spec := true, addr := (0x21000000 : Word).toNat, len := (2 : Nat), what := 1, zrt := true })], got := [] } }))) State.reset.wClocks, by decide +kernel⟩,
    ⟨(1 : Fin 4), (3 : Byte), (9 : Byte), ({ } : TrkReq), (0 : BitVec 24), (2 : Byte), (fun z : State => (let y := (let x := z; { x with trk := { x.trk with seen := [], outs := [((9 : Byte).toNat, { ({ } : TrkReq) with what := 3, op := 2 })], got := [] } }); { y with brg := { y.brg with posted := [{ ({ } : TrkReq) with what := 3, op := 2, tag := (9 : Byte).toNat, fail := 0, addr := 0x21000000 + (0 : BitVec 24).toNat }] } })) State.reset.wClocks, by decide +kernel⟩⟩

/-- Hypotheses of Obligations.TrunkTransactionsAndTime are met. -/
theorem test_hyps_trunkTransactionsAndTime_2 :
    (∃ (src : Fin 4) (sq : Byte) (g : TrunkGw) (s : State), s.f TRK_STAT_LINK = 2 ∧ g.long = true ∧ s.clocked 15 = true) ∧
    (∃ (src : Fin 4) (sq : Byte) (g : TrunkGw) (s : State), s.f TRK_STAT_LINK = 2 ∧ g.long = false ∧ ((tget (fun _ => []) s.trk.seen src).contains sq.toNat = false) ∧ s.clocked 15 = true) ∧
    (∃ (src : Fin 4) (sq : Byte) (g : TrunkGw) (crc : Bool) (s : State), (crc = false ∨ s.f TRK_STAT_LINK ≠ 2 ∨ (g.long = false ∧ (tget (fun _ => []) s.trk.seen src).contains sq.toNat = true))) ∧
    (∃ (k : Fin 8) (q : Nat) (a : Word) (d : List Byte) (s : State), s.brg.wait = [{ orig := 0x40 + k.val, op := 2, addr := a.toNat, len := d.length, data := d, what := 3, zrt := true }] ∧ (s.brg.posted.all (fun p => !p.zrt) = true) ∧ (s.ses k).cur = some { seq := q, todo := [{ op := 2, len := d.length, addr := a.toNat, data := d }] } ∧ (s.ses k).parts = [{ addr := a.toNat, len := d.length }] ∧ (0x10000000 ≤ a.toNat ∧ a.toNat < 0x40000000 ∧ a.toNat % 64 + d.length ≤ 64) ∧ s.trkUsable (a.toNat / 0x10000000) = true) ∧
    (∃ (s : State), (s.brg.wait = [] ∨ (16 ≤ (s.brg.posted.filter (fun p => p.zrt)).length ∧ 16 ≤ (s.brg.posted.filter (fun p => !p.zrt)).length))) ∧
    (∃ (v : BitVec 64) (s : State), s.on TRK_CFG_ROLE = true ∧ s.clocked 15 = true) ∧
    (∃ (v : BitVec 64) (crc : Bool) (s : State), (crc = false ∨ s.on TRK_CFG_ROLE = false)) ∧
    (∃ (v : BitVec 64) (s : State), s.on TRK_CFG_ROLE = true ∧ s.trk.syncVal = some v.toNat ∧ s.clocked 15 = true) ∧
    (∃ (s : State), (s.on TRK_CFG_ROLE = false ∨ s.trk.syncVal = none)) ∧
    (∃ (s : State), s.on TRK_CFG_ROLE = true ∧ s.clocked 15 = true) ∧
    (∃ (s : State), s.on TRK_CFG_ROLE = false) ∧
    (∃ (sq : Byte) (b : BitVec 64) (s : State), s.on TRK_CFG_ROLE = true ∧ ((tget (fun _ => []) s.trk.seen 0).contains sq.toNat = false) ∧ 0 < s.framePeriod ∧ (s.frm.prev + s.framePeriod ≤ b.toNat + s.framePeriod / 8 ∧ b.toNat ≤ s.frm.prev + s.framePeriod + s.framePeriod / 8) ∧ s.clocked 15 = true) :=
  ⟨⟨(0 : Fin 4), (3 : Byte), ({ long := true, key := 0x123400E1, idw := 0x20000000, data := [1] } : TrunkGw), (fun z : State => z.setF TRK_STAT_LINK 2) State.reset.wClocks, by decide +kernel⟩,
    ⟨(0 : Fin 4), (3 : Byte), ({ long := false, key := 0x123400E1, idw := 0x20000000, data := [1] } : TrunkGw), (fun z : State => (let x := z.setF TRK_STAT_LINK 2; { x with trk := { x.trk with seen := [] } })) State.reset.wClocks, by decide +kernel⟩,
    ⟨(0 : Fin 4), (3 : Byte), ({ long := true, key := 0x123400E1, idw := 0x20000000, data := [1] } : TrunkGw), (false : Bool), State.reset, by decide +kernel⟩,
    ⟨(1 : Fin 8), (5 : Nat), (0x21004000 : Word), ([1, 2] : List Byte), (let x := (let x := (((State.reset.setF TRK_CFG_ROLE 0).setF TRK_STAT_LINK 2).setF TRK_STAT_TRAINED 7); { x with boot := { x.boot with xtalBad := false } }); { x with zrt := (x.setSes (1 : Fin 8) { x.ses (1 : Fin 8) with cur := some { seq := (5 : Nat), todo := [{ op := 2, len := ([1, 2] : List Byte).length, addr := (0x21004000 : Word).toNat, data := ([1, 2] : List Byte) }] }, parts := [{ addr := (0x21004000 : Word).toNat, len := ([1, 2] : List Byte).length }] }).zrt, brg := { x.brg with posted := x.brg.posted.filter (fun p => !p.zrt), wait := [{ orig := 0x40 + (1 : Fin 8).val, op := 2, addr := (0x21004000 : Word).toNat, len := ([1, 2] : List Byte).length, data := ([1, 2] : List Byte), what := 3, zrt := true }] } }), by decide +kernel⟩,
    ⟨{ State.reset with brg := { State.reset.brg with wait := [] } }, by decide +kernel⟩,
    ⟨(1024 : BitVec 64), (fun z : State => (z.setF TRK_CFG_ROLE 1)) State.reset.wClocks, by decide +kernel⟩,
    ⟨(1024 : BitVec 64), (false : Bool), State.reset, by decide +kernel⟩,
    ⟨(1024 : BitVec 64), (fun z : State => { ((z.setF TRK_CFG_ROLE 1)) with trk := { z.trk with syncVal := some (1024 : BitVec 64).toNat } }) State.reset.wClocks, by decide +kernel⟩,
    ⟨(State.reset.setF TRK_CFG_ROLE 0), by decide +kernel⟩,
    ⟨(fun z : State => (z.setF TRK_CFG_ROLE 1)) State.reset.wClocks, by decide +kernel⟩,
    ⟨(State.reset.setF TRK_CFG_ROLE 0), by decide +kernel⟩,
    ⟨(3 : Byte), (1000000 : BitVec 64), (fun z : State => (let x := ((z.setF FRM_CFG_PERIOD_US 1000).setF TRK_CFG_ROLE 1); { x with trk := { x.trk with seen := [] }, frm := { x.frm with prev := ((1000000 : BitVec 64).toNat + z.free % 3 * 100) - x.framePeriod.toNat } })) State.reset.wClocks, by decide +kernel⟩⟩

/-- Hypotheses of Obligations.TrunkTransactionsAndTime are met. -/
theorem test_hyps_trunkTransactionsAndTime_3 :
    (∃ (sq : Byte) (b : BitVec 64) (crc : Bool) (s : State), (crc = false ∨ s.on TRK_CFG_ROLE = false ∨ (tget (fun _ => []) s.trk.seen 0).contains sq.toNat = true)) ∧
    (∃ (s : State), (s.f PWR_STATE_STATE = 2 ∨ s.f PWR_STATE_STATE = 3)) ∧
    (∃ (s : State), (s.f PWR_STATE_STATE ≠ 2 ∧ s.f PWR_STATE_STATE ≠ 3)) :=
  ⟨⟨(3 : Byte), (5 : BitVec 64), (false : Bool), State.reset, by decide +kernel⟩,
    ⟨State.reset.setF PWR_STATE_STATE (2 + State.reset.free % 2), by decide +kernel⟩,
    ⟨State.reset.setF PWR_STATE_STATE (State.reset.free % 2), by decide +kernel⟩⟩

/-- Hypotheses of Obligations.RegisterAccesses are met. -/
theorem test_hyps_registerAccesses_1 :
    (∃ (init : Byte) (a : Nat) (m : Word) (w : Word) (s : State), issued init.toNat = true ∧ s.boot.phase ≠ .recovery ∧ (a, m) ∈ [(UPD_XFER_SRC, 0xFFFFFFFF#32), (UPD_XFER_DST, 0x007FFFFF#32), (UPD_XFER_LEN, 0x0001FFFF#32), (PWR_WAKE_EN, 0x00FFFFFF#32), (PWR_WAKE_TIMER, 0x0000FFFF#32)] ∧ s.behind init.toNat a 4 true = false) ∧
    (∃ (init : Byte) (a : Nat) (m : Word) (k : Fin 4) (b : Byte) (s : State), issued init.toNat = true ∧ s.boot.phase ≠ .recovery ∧ (a, m) ∈ [(UPD_XFER_SRC, 0xFFFFFFFF#32), (UPD_XFER_DST, 0x007FFFFF#32), (UPD_XFER_LEN, 0x0001FFFF#32), (PWR_WAKE_EN, 0x00FFFFFF#32), (PWR_WAKE_TIMER, 0x0000FFFF#32)] ∧ s.behind init.toNat (a + k) 1 true = false) ∧
    (∃ (init : Byte) (a : Nat) (w : Word) (s : State), issued init.toNat = true ∧ s.boot.phase ≠ .recovery ∧ a ∈ [UPD_STAT, UPD_SLOTS, PWR_STATE, PWR_ABORT_LAST, SYS_ABSENT_WR_CNT, SYS_DECODE_ERR_CNT] ∧ s.behind init.toNat a 4 true = false) ∧
    (∃ (init : Byte) (a : Word) (d : List Byte) (s : State), issued init.toNat = true ∧ s.boot.phase ≠ .recovery ∧ (0 < d.length ∧ d.length ≤ 64) ∧ (a.toNat + d.length ≤ 0x20000 ∨ (0x04000000 ≤ a.toNat ∧ a.toNat + d.length ≤ 0x04080000)) ∧ s.behind init.toNat a.toNat d.length true = false) ∧
    (∃ (init : Byte) (a : Word) (d : List Byte) (s : State), issued init.toNat = true ∧ s.boot.phase ≠ .recovery ∧ (0 < d.length ∧ d.length ≤ 64) ∧ (0x01000000 ≤ a.toNat ∧ a.toNat + d.length ≤ 0x01200000) ∧ s.behind init.toNat a.toNat d.length true = false) ∧
    (∃ (init : Byte) (a : BitVec 16) (d : List Byte) (s : State), issued init.toNat = true ∧ s.boot.phase ≠ .recovery ∧ (0 < d.length ∧ d.length ≤ 64 ∧ a.toNat + d.length ≤ 0x10000) ∧ ((List.range d.length).any (fun j => swByte (0x06000000 + a.toNat + j)) = false) ∧ s.behind init.toNat (0x06000000 + a.toNat) d.length true = false) ∧
    (∃ (init : Byte) (a : Word) (d : List Byte) (s : State), issued init.toNat = true ∧ s.queuedFor init.toNat = true ∧ (0 < d.length ∧ d.length ≤ 64) ∧ isFar a.toNat = false) ∧
    (∃ (init : Byte) (a : Nat) (m : Word) (w : Word) (same : Word) (s : State), issued init.toNat = true ∧ s.boot.phase ≠ .recovery ∧ (a, m) ∈ [(UPD_FLAG, 0x1F#32), (PWR_WAKE_SRC, 0x00FFFFFF#32), (PWR_FEED_FLAG, 0x3F#32)] ∧ s.behind init.toNat a 4 true = false) ∧
    (∃ (init : Byte) (a : BitVec 16) (d : List Byte) (k : Fin 64) (s : State), issued init.toNat = true ∧ isStr init.toNat = false ∧ s.boot.phase ≠ .recovery ∧ (0 < d.length ∧ d.length ≤ 64 ∧ a.toNat + d.length ≤ 0x10000) ∧ ((List.range d.length).find? (fun j => swByte (0x06000000 + a.toNat + j)) = some k.val) ∧ s.behind init.toNat (0x06000000 + a.toNat) d.length true = false) ∧
    (∃ (init : Byte) (d : List Byte) (s : State), issued init.toNat = true ∧ s.boot.phase ≠ .recovery ∧ isStr init.toNat = false ∧ s.fullPart = true ∧ d.length = 12 ∧ s.behind init.toNat ISO_FLAG 12 true = false) ∧
    (∃ (init : Byte) (a : Word) (d : List Byte) (s : State), issued init.toNat = true ∧ (0 < d.length ∧ d.length ≤ 64) ∧ (isStr init.toNat = true ∨ (List.range d.length).any (fun j => swByte (a.toNat + j)) = false)) ∧
    (∃ (init : Byte) (i : Fin 8) (n : Fin 8) (s : State), issued init.toNat = true ∧ s.boot.phase ≠ .recovery ∧ s.behind init.toNat (0x052D1180 + 8 * i.val) (1 + n.val) false = false) :=
  ⟨⟨(0x11 : Byte), (UPD_XFER_DST : Nat), (0x007FFFFF : Word), (0xFF001234 : Word), { State.reset.wRun with waiting := [], trk := { State.reset.trk with reqs := [] }, brg := { State.reset.brg with wait := [] } }, by decide +kernel⟩,
    ⟨(0x11 : Byte), (PWR_WAKE_EN : Nat), (0x00FFFFFF : Word), (2 : Fin 4), (0x5A : Byte), { State.reset.wRun with waiting := [], trk := { State.reset.trk with reqs := [] }, brg := { State.reset.brg with wait := [] } }, by decide +kernel⟩,
    ⟨(0x11 : Byte), (UPD_STAT : Nat), (5 : Word), { State.reset.wRun with waiting := [], trk := { State.reset.trk with reqs := [] }, brg := { State.reset.brg with wait := [] } }, by decide +kernel⟩,
    ⟨(0x11 : Byte), (0x100 : Word), ([1, 2] : List Byte), { State.reset.wRun with waiting := [], trk := { State.reset.trk with reqs := [] }, brg := { State.reset.brg with wait := [] } }, by decide +kernel⟩,
    ⟨(0x11 : Byte), (0x01000010 : Word), ([1, 2] : List Byte), { State.reset.wRun with waiting := [], trk := { State.reset.trk with reqs := [] }, brg := { State.reset.brg with wait := [] } }, by decide +kernel⟩,
    ⟨(0x11 : Byte), (0x70 : BitVec 16), ([1, 2, 3] : List Byte), { State.reset.wRun with waiting := [], trk := { State.reset.trk with reqs := [] }, brg := { State.reset.brg with wait := [] } }, by decide +kernel⟩,
    ⟨(0x11 : Byte), (0x01000010 : Word), ([1, 2] : List Byte), { State.reset with waiting := [{ init := (0x11 : Byte).toNat }] }, by decide +kernel⟩,
    ⟨(0x11 : Byte), (UPD_FLAG : Nat), (0x1F : Word), (7 : Word), (2 : Word), { State.reset.wRun with waiting := [], trk := { State.reset.trk with reqs := [] }, brg := { State.reset.brg with wait := [] } }, by decide +kernel⟩,
    ⟨(0x11 : Byte), (0xE : BitVec 16), ([1, 2, 3] : List Byte), (2 : Fin 64), { State.reset.wRun with waiting := [], trk := { State.reset.trk with reqs := [] }, brg := { State.reset.brg with wait := [] } }, by decide +kernel⟩,
    ⟨(0x11 : Byte), (List.replicate 12 1 : List Byte), { State.reset.wRun with waiting := [], trk := { State.reset.trk with reqs := [] }, brg := { State.reset.brg with wait := [] }, variant := .pz7480 }, by decide +kernel⟩,
    ⟨(9 : Byte), (0x06000010 : Word), ([1] : List Byte), State.reset, by decide +kernel⟩,
    ⟨(0x41 : Byte), (3 : Fin 8), (7 : Fin 8), { State.reset.wRun with waiting := [], trk := { State.reset.trk with reqs := [] }, brg := { State.reset.brg with wait := [] } }, by decide +kernel⟩⟩

/-- Hypotheses of Obligations.RegisterAccesses are met. -/
theorem test_hyps_registerAccesses_2 :
    (∃ (init : Byte) (i : Fin 8) (s : State), issued init.toNat = true) ∧
    (∃ (init : Byte) (wr : Bool) (a : Word) (n : BitVec 7) (s : State), issued init.toNat = true ∧ (1 ≤ n.toNat ∧ n.toNat ≤ 64) ∧ (0x09000000 ≤ a.toNat ∧ a.toNat + n.toNat < 0x10000000 ∨ (0x05020000 ≤ a.toNat ∧ a.toNat < 0x05030000 ∧ 0x05030000 < a.toNat + n.toNat) ∨ (0x01000000 ≤ a.toNat ∧ a.toNat < 0x01200000 ∧ 0x01200000 < a.toNat + n.toNat)) ∧ s.behind init.toNat a.toNat n.toNat wr = false) ∧
    (∃ (init : Byte) (wr : Bool) (a : Word) (n : BitVec 7) (s : State), issued init.toNat = true ∧ (1 ≤ n.toNat ∧ n.toNat ≤ 64) ∧ (0x01000000 ≤ a.toNat ∧ a.toNat + n.toNat ≤ 0x01200000)) :=
  ⟨⟨(0x41 : Byte), (3 : Fin 8), State.reset, by decide +kernel⟩,
    ⟨(0x11 : Byte), (false : Bool), (0x0502FFFC : Word), (8 : BitVec 7), { State.reset.wRun with waiting := [], trk := { State.reset.trk with reqs := [] }, brg := { State.reset.brg with wait := [] } }, by decide +kernel⟩,
    ⟨(0x11 : Byte), (false : Bool), (0x01000000 : Word), (8 : BitVec 7), State.reset, by decide +kernel⟩⟩

/-- Hypotheses of Obligations.SpineGrantsAndExternalPorts are met. -/
theorem test_hyps_spineGrantsAndExternalPorts_1 :
    (∃ (u : Byte) (v : Byte) (a : Word) (b : Word) (d : List Byte) (e : List Byte) (s : State), s.boot.phase ≠ .recovery ∧ s.waiting = [{ init := u.toNat, op := 1, addr := a.toNat, len := d.length, data := d }, { init := v.toNat, op := 1, addr := b.toNat, len := e.length, data := e }] ∧ (0x01000000 ≤ b.toNat ∧ b.toNat + e.length ≤ 0x01200000 ∧ 0 < e.length) ∧ (0x01000000 ≤ a.toNat ∧ a.toNat + d.length ≤ 0x01200000 ∧ 0 < d.length) ∧ (u ≠ v ∧ (0x10 ≤ u.toNat → 0x3F < u.toNat) ∧ (0x10 ≤ v.toNat → 0x3F < v.toNat)) ∧ ((s.partsOf u.toNat) = [] ∧ (s.partsOf v.toNat) = []) ∧ (v.toNat = 0x60 ∨ (u.toNat ≠ 0x60 ∧ (isStr v.toNat || v.toNat = 0x60 || v.toNat = 0x61 || v.toNat = 0x64) = true ∧ (isStr u.toNat || u.toNat = 0x60 || u.toNat = 0x61 || u.toNat = 0x64) = false)) ∧ (s.trk.reqs = [] ∧ s.brg.wait = []) ∧ (s.mustWait a.toNat d.length true = false ∧ s.mustWait b.toNat e.length true = false)) ∧
    (∃ (u : Byte) (v : Byte) (a : Word) (b : Word) (d : List Byte) (e : List Byte) (s : State), s.boot.phase ≠ .recovery ∧ s.waiting = [{ init := u.toNat, op := 1, addr := a.toNat, len := d.length, data := d }, { init := v.toNat, op := 1, addr := b.toNat, len := e.length, data := e }] ∧ (0x01000000 ≤ b.toNat ∧ b.toNat + e.length ≤ 0x01200000 ∧ 0 < e.length) ∧ (0x01000000 ≤ a.toNat ∧ a.toNat + d.length ≤ 0x01200000 ∧ 0 < d.length) ∧ (u ≠ v ∧ (0x10 ≤ u.toNat → 0x3F < u.toNat) ∧ (0x10 ≤ v.toNat → 0x3F < v.toNat)) ∧ ((s.partsOf u.toNat) = [] ∧ (s.partsOf v.toNat) = []) ∧ (u.toNat ≠ 0x60 ∧ v.toNat ≠ 0x60 ∧ (isStr u.toNat || u.toNat = 0x60 || u.toNat = 0x61 || u.toNat = 0x64) = (isStr v.toNat || v.toNat = 0x60 || v.toNat = 0x61 || v.toNat = 0x64)) ∧ (tget (fun _ => 0) s.rr (if (isStr u.toNat || u.toNat = 0x60 || u.toNat = 0x61 || u.toNat = 0x64) then 60 else 61) = u.toNat) ∧ (s.trk.reqs = [] ∧ s.brg.wait = []) ∧ (s.mustWait a.toNat d.length true = false ∧ s.mustWait b.toNat e.length true = false)) ∧
    (∃ (g : Fin 48) (a : Word) (n : Nat) (s : State), s.boot.phase ≠ .recovery ∧ s.waiting = [{ init := 0x10 + g.val, op := 0, addr := a.toNat, len := n }] ∧ (0x01000000 ≤ a.toNat ∧ a.toNat + n ≤ 0x01200000 ∧ 0 < n) ∧ (s.eng g).load.isSome = true ∧ (s.trk.reqs = [] ∧ s.brg.wait = []) ∧ s.mustWait a.toNat n false = false) ∧
    (∃ (p : Fin 31) (s : State), s.waiting = [] ∧ s.trk.reqs = []) ∧
    (∃ (init : Byte) (s : State), s.boot.phase ≠ .recovery ∧ s.waiting = [{ init := init.toNat, op := 1, addr := NM_INS_CLR, len := 4, data := bytesLE 4 1 }] ∧ (0x3F < init.toNat ∨ init.toNat < 0x10) ∧ s.partsOf init.toNat = [] ∧ s.lazyBlock NM_INS_CLR = false ∧ s.mustWait NM_INS_CLR 4 true = false ∧ (s.trk.reqs = [] ∧ s.brg.wait = [])) ∧
    (∃ (init : Byte) (s : State), s.waiting = [{ init := init.toNat, op := 1, addr := NM_INS_CLR, len := 4, data := bytesLE 4 1 }] ∧ s.trk.reqs = [] ∧ s.boot.phase ≠ .recovery ∧ s.on ⟨PWR_ISLAND_STAT, 11, 1⟩ = false) ∧
    (∃ (a : Word) (d : List Byte) (s : State), s.boot.phase ≠ .recovery ∧ s.partsOf 0x49 = [] ∧ s.behind 0x49 a.toNat d.length true = false ∧ s.mntServed = true ∧ (0x01000000 ≤ a.toNat ∧ a.toNat + d.length ≤ 0x01200000) ∧ d.length ≤ 256) ∧
    (∃ (a : Word) (n : BitVec 9) (s : State), s.boot.phase ≠ .recovery ∧ s.partsOf 0x49 = [] ∧ s.behind 0x49 a.toNat n.toNat false = false ∧ s.mntServed = true ∧ (0x01000000 ≤ a.toNat ∧ a.toNat + n.toNat ≤ 0x01200000) ∧ n.toNat ≤ 256) ∧
    (∃ (a : Word) (d : List Byte) (s : State), d.length ≤ 256 ∧ s.partsOf 0x49 ≠ []) ∧
    (∃ (a : Word) (n : BitVec 9) (s : State), n.toNat ≤ 256 ∧ s.partsOf 0x49 ≠ []) ∧
    (∃ (a : Word) (d : List Byte) (s : State), s.boot.phase ≠ .recovery ∧ s.partsOf 0x48 = [] ∧ s.behind 0x48 a.toNat d.length true = false ∧ (s.boot.phase ≠ .reset ∧ s.f PWR_STATE_STATE < 3) ∧ (0x01000000 ≤ a.toNat ∧ a.toNat + d.length ≤ 0x01200000) ∧ d.length ≤ 256) ∧
    (∃ (a : Word) (n : BitVec 16) (s : State), s.boot.phase ≠ .recovery ∧ s.partsOf 0x48 = [] ∧ s.behind 0x48 a.toNat n.toNat false = false ∧ (s.boot.phase ≠ .reset ∧ s.f PWR_STATE_STATE < 3) ∧ (0x01000000 ≤ a.toNat ∧ a.toNat + n.toNat ≤ 0x01200000) ∧ n.toNat ≤ 256) :=
  ⟨⟨(0x49 : Byte), (9 : Byte), (0x01000010 : Word), (0x01000020 : Word), ([1] : List Byte), ([2] : List Byte), { State.reset.wClocks with trk := { State.reset.trk with reqs := [] }, brg := { State.reset.brg with wait := [] }, waiting := [{ init := (0x49 : Byte).toNat, op := 1, addr := (0x01000010 : Word).toNat, len := ([1] : List Byte).length, data := ([1] : List Byte) }, { init := (9 : Byte).toNat, op := 1, addr := (0x01000020 : Word).toNat, len := ([2] : List Byte).length, data := ([2] : List Byte) }], boot := { State.reset.wClocks.boot with phase := .run }, ports := State.reset.ports.filter (fun p => p.1 ≠ (0x49 : Byte).toNat ∧ p.1 ≠ (9 : Byte).toNat), zrt := [] }, by decide +kernel⟩,
    ⟨(0x49 : Byte), (0x41 : Byte), (0x01000010 : Word), (0x01000020 : Word), ([1] : List Byte), ([2] : List Byte), { { State.reset.wClocks with trk := { State.reset.trk with reqs := [] }, brg := { State.reset.brg with wait := [] }, waiting := [{ init := (0x49 : Byte).toNat, op := 1, addr := (0x01000010 : Word).toNat, len := ([1] : List Byte).length, data := ([1] : List Byte) }, { init := (0x41 : Byte).toNat, op := 1, addr := (0x01000020 : Word).toNat, len := ([2] : List Byte).length, data := ([2] : List Byte) }], boot := { State.reset.wClocks.boot with phase := .run }, ports := State.reset.ports.filter (fun p => p.1 ≠ (0x49 : Byte).toNat ∧ p.1 ≠ (0x41 : Byte).toNat), zrt := [] } with rr := tset (fun _ => 0) (tset (fun _ => 0) State.reset.rr 60 (0x49 : Byte).toNat) 61 (0x49 : Byte).toNat }, by decide +kernel⟩,
    ⟨(3 : Fin 48), (0x01000010 : Word), (2 : Nat), (let y := { State.reset.wClocks with trk := { State.reset.trk with reqs := [] }, brg := { State.reset.brg with wait := [] }, waiting := [{ init := 0x10 + (3 : Fin 48).val, op := 0, addr := (0x01000010 : Word).toNat, len := (2 : Nat) }], boot := { State.reset.wClocks.boot with phase := .run } }; y.setEng (3 : Fin 48) { y.eng (3 : Fin 48) with load := some { } }), by decide +kernel⟩,
    ⟨(30 : Fin 31), { State.reset with waiting := [], trk := { State.reset.trk with reqs := [] } }, by decide +kernel⟩,
    ⟨(0x49 : Byte), { State.reset.wClocks with waiting := [{ init := (0x49 : Byte).toNat, op := 1, addr := NM_INS_CLR, len := 4, data := bytesLE 4 1 }], boot := { State.reset.wClocks.boot with phase := .run }, ports := [], zrt := [], upd := { State.reset.upd with lazy := [] }, trk := { State.reset.trk with reqs := [] }, brg := { State.reset.brg with wait := [] } }, by decide +kernel⟩,
    ⟨(0x49 : Byte), { ({ State.reset with waiting := [{ init := (0x49 : Byte).toNat, op := 1, addr := NM_INS_CLR, len := 4, data := bytesLE 4 1 }], boot := { State.reset.boot with phase := .run }, ports := [], zrt := [], upd := { State.reset.upd with lazy := [] } }).setReg PWR_ISLAND_STAT 0 with trk := { State.reset.trk with reqs := [] } }, by decide +kernel⟩,
    ⟨(0x01000030 : Word), ([1, 2, 3] : List Byte), { State.reset.wRun with waiting := [], trk := { State.reset.trk with reqs := [] }, brg := { State.reset.brg with wait := [] }, boot := { State.reset.wRun.boot with phase := .run }, ports := State.reset.ports.filter (fun p => p.1 ≠ 0x49) }, by decide +kernel⟩,
    ⟨(0x01000030 : Word), (40 : BitVec 9), { State.reset.wRun with waiting := [], trk := { State.reset.trk with reqs := [] }, brg := { State.reset.brg with wait := [] }, boot := { State.reset.wRun.boot with phase := .run }, ports := State.reset.ports.filter (fun p => p.1 ≠ 0x49) }, by decide +kernel⟩,
    ⟨(0x01000030 : Word), ([1] : List Byte), { State.reset with ports := [(0x49, { parts := [{ addr := 5 }] })] }, by decide +kernel⟩,
    ⟨(0x01000030 : Word), (4 : BitVec 9), { State.reset with ports := [(0x49, { parts := [{ addr := 5 }] })] }, by decide +kernel⟩,
    ⟨(0x01000030 : Word), ([1, 2, 3] : List Byte), { State.reset.wRun with waiting := [], trk := { State.reset.trk with reqs := [] }, brg := { State.reset.brg with wait := [] }, boot := { State.reset.wRun.boot with phase := .run }, ports := State.reset.ports.filter (fun p => p.1 ≠ 0x48) }, by decide +kernel⟩,
    ⟨(0x01000030 : Word), (40 : BitVec 16), { State.reset.wRun with waiting := [], trk := { State.reset.trk with reqs := [] }, brg := { State.reset.brg with wait := [] }, boot := { State.reset.wRun.boot with phase := .run }, ports := State.reset.ports.filter (fun p => p.1 ≠ 0x48) }, by decide +kernel⟩⟩

/-- Hypotheses of Obligations.SpineGrantsAndExternalPorts are met. -/
theorem test_hyps_spineGrantsAndExternalPorts_2 :
    (∃ (a : Word) (d : List Byte) (s : State), d.length ≤ 256 ∧ s.partsOf 0x48 ≠ []) ∧
    (∃ (a : Word) (n : BitVec 16) (s : State), n.toNat ≤ 256 ∧ s.partsOf 0x48 ≠ []) ∧
    (∃ (a : Word) (d : List Byte) (s : State), s.on STR_LIFECYCLE_DEBUG_OPEN = true ∧ s.boot.phase ≠ .recovery ∧ s.partsOf 0x4A = [] ∧ s.behind 0x4A a.toNat d.length true = false ∧ (0x01000000 ≤ a.toNat ∧ a.toNat + d.length ≤ 0x01200000) ∧ (0 < d.length ∧ d.length ≤ 64)) ∧
    (∃ (a : Word) (n : BitVec 7) (s : State), s.on STR_LIFECYCLE_DEBUG_OPEN = true ∧ s.boot.phase ≠ .recovery ∧ s.partsOf 0x4A = [] ∧ s.behind 0x4A a.toNat n.toNat false = false ∧ (0x01000000 ≤ a.toNat ∧ a.toNat + n.toNat ≤ 0x01200000) ∧ (0 < n.toNat ∧ n.toNat ≤ 64)) ∧
    (∃ (a : Word) (d : List Byte) (s : State), (0 < d.length ∧ d.length ≤ 64) ∧ (s.on STR_LIFECYCLE_DEBUG_OPEN = false ∨ s.partsOf 0x4A ≠ [])) ∧
    (∃ (a : Word) (n : BitVec 7) (s : State), (0 < n.toNat ∧ n.toNat ≤ 64) ∧ (s.on STR_LIFECYCLE_DEBUG_OPEN = false ∨ s.partsOf 0x4A ≠ [])) :=
  ⟨⟨(0x01000030 : Word), ([1] : List Byte), { State.reset with ports := [(0x48, { parts := [{ addr := 5 }] })] }, by decide +kernel⟩,
    ⟨(0x01000030 : Word), (4 : BitVec 16), { State.reset with ports := [(0x48, { parts := [{ addr := 5 }] })] }, by decide +kernel⟩,
    ⟨(0x01000030 : Word), ([1, 2, 3] : List Byte), ({ State.reset.wRun with waiting := [], trk := { State.reset.trk with reqs := [] }, brg := { State.reset.brg with wait := [] }, boot := { State.reset.wRun.boot with phase := .run }, ports := State.reset.ports.filter (fun p => p.1 ≠ 0x4A) }).setF STR_LIFECYCLE_DEBUG_OPEN 1, by decide +kernel⟩,
    ⟨(0x01000030 : Word), (40 : BitVec 7), ({ State.reset.wRun with waiting := [], trk := { State.reset.trk with reqs := [] }, brg := { State.reset.brg with wait := [] }, boot := { State.reset.wRun.boot with phase := .run }, ports := State.reset.ports.filter (fun p => p.1 ≠ 0x4A) }).setF STR_LIFECYCLE_DEBUG_OPEN 1, by decide +kernel⟩,
    ⟨(0x01000030 : Word), ([1] : List Byte), { State.reset with ports := [(0x4A, { parts := [{ addr := 5 }] })] }, by decide +kernel⟩,
    ⟨(0x01000030 : Word), (4 : BitVec 7), { State.reset with ports := [(0x4A, { parts := [{ addr := 5 }] })] }, by decide +kernel⟩⟩

/-- Hypotheses of Obligations.AbsentBlocksByR6 are met. -/
theorem test_hyps_absentBlocksByR6 :
    (∃ (init : Byte) (a : Word) (d : List Byte) (spec : Bool) (s : State), (s.absentAt a.toNat).isSome = true ∧ inOneRange a.toNat d.length = true ∧ (0 < d.length ∧ d.length ≤ 64) ∧ issued init.toNat = true ∧ s.behind init.toNat a.toNat d.length true = false) ∧
    (∃ (init : Byte) (a : Word) (d : List Byte) (s : State), (s.absentAt a.toNat).isSome = false ∧ (0 < d.length ∧ d.length ≤ 64) ∧ issued init.toNat = true) :=
  ⟨⟨(0x11 : Byte), (0x05140010 : Word), ([1, 2] : List Byte), (true : Bool), { { State.reset with trk := { State.reset.trk with reqs := [] }, brg := { State.reset.brg with wait := [] }, boot := { State.reset.boot with phase := .run }, waiting := [] } with variant := .pz7456 }, by decide +kernel⟩,
    ⟨(0x11 : Byte), (0x05140010 : Word), ([1, 2] : List Byte), { State.reset with variant := .pz7480 }, by decide +kernel⟩⟩

/-- Hypotheses of Obligations.VotesByR88 are met. -/
theorem test_hyps_votesByR88 :
    (∃ (init : Byte) (y : Bool) (r : Byte) (s : State), s.f PWR_STATE_PHASE = 1 ∧ s.scr.voters.contains init.toNat = true ∧ (s.pwr.answers.any (fun a => a.1 = init.toNat) = false)) ∧
    (∃ (init : Byte) (y : Bool) (r : Byte) (s : State), (s.pwr.answers.any (fun a => a.1 = init.toNat) = true)) ∧
    (∃ (init : Byte) (y : Bool) (r : Byte) (s : State), s.scr.voters.contains init.toNat = false) :=
  ⟨⟨(0x22 : Byte), (false : Bool), (0x91 : Byte), { State.reset.setF PWR_STATE_PHASE 1 with scr := { State.reset.scr with voters := [(0x22 : Byte).toNat] }, pwr := { State.reset.pwr with answers := [] } }, by decide +kernel⟩,
    ⟨(0x22 : Byte), (false : Bool), (0x91 : Byte), { State.reset with pwr := { State.reset.pwr with answers := [((0x22 : Byte).toNat, 0x100)] } }, by decide +kernel⟩,
    ⟨(0x22 : Byte), (false : Bool), (0x91 : Byte), State.reset, by decide +kernel⟩⟩

/-- Hypotheses of Obligations.CueMergeByR258 are met. -/
theorem test_hyps_cueMergeByR258 :
    ∃ (g : Fin 48) (c : Cue) (q : Cue) (l : List Offer) (p : List Cue) (r : List Cue) (s : State), s.offers = { target := 0x10 + g.val, cue := c, merge := true } :: l ∧ s.crewPresent (g / 8) = true ∧ (s.eng g).queue = p ++ q :: r ∧ (p.any (fun (x : Cue) => x.cls = c.cls && x.code = c.code && x.kind = c.kind && x.index = c.index) = false) ∧ (q.cls = c.cls ∧ q.code = c.code ∧ q.kind = c.kind ∧ q.index = c.index) ∧ ((s.eng g).st ≠ .unused ∧ (s.eng g).st ≠ .faulted) ∧ q.arg + c.arg ≤ 0xFFFF :=
  ⟨(3 : Fin 48), ({ cls := 3, arg := 2 } : Cue), ({ cls := 3, arg := 5 } : Cue), ([] : List Offer), ([{ cls := 7 }] : List Cue), ([] : List Cue), { State.reset with offers := { target := 0x10 + (3 : Fin 48).val, cue := ({ cls := 3, arg := 2 } : Cue), merge := true } :: ([] : List Offer), engs := (State.reset.setEng (3 : Fin 48) { State.reset.eng (3 : Fin 48) with st := .waiting, queue := ([{ cls := 7 }] : List Cue) ++ ({ cls := 3, arg := 5 } : Cue) :: ([] : List Cue) }).engs }, by decide +kernel⟩

/-- Hypotheses of Obligations.DailiesRingByR281 are met. -/
theorem test_hyps_dailiesRingByR281 :
    ∃ (isl : Fin 30) (r : DailyRec) (l : List DailyRec) (s : State), (s.island isl).recs = r :: l ∧ s.clocked 2 = true :=
  ⟨(29 : Fin 30), ({ index := 3, event := 5 } : DailyRec), ([] : List DailyRec), (State.reset.wClocks.setF DLY_WR_INDEX (if State.reset.free % 2 = 0 then 8191 else State.reset.free)).setIsland (29 : Fin 30) { State.reset.island (29 : Fin 30) with recs := ({ index := 3, event := 5 } : DailyRec) :: ([] : List DailyRec) }, by decide +kernel⟩

end
end

section
/-! O56 fails: a transaction may begin in an absent block and run on into a present one. The areas of message RAM lie in one range of the
map (R295, R516), and on the PZ7456 the last area, of the absent LIN7, is followed by the gateway's part, which is present. -/

namespace Sys2Proof.Machine

/-- A PZ7456 in Run, the CAN/LIN island clocked, with 0xA5 in the first byte of the gateway's part of message RAM. -/
def gatewayByteSet : State :=
  { (State.reset.setF ⟨PWR_ISLAND_STAT, 11, 1⟩ 1).wr8 0x04710000 0xA5#8 with
    variant := .pz7456, boot := { State.reset.boot with phase := .run } }

/-- The last byte of LIN7's area is absent there, the byte after it is present, and both lie in one range. -/
theorem lin7Area_ends_at_present_byte :
    (gatewayByteSet.absentAt 0x0470FFFF).isSome = true ∧ gatewayByteSet.absentAt 0x04710000 = none ∧
    inOneRange 0x0470FFFF 2 = true := by decide

/-- Nothing stands before a write of these two bytes by the debug port (0x4A), whose accesses R516 does not split. -/
theorem lin7Edge_write_not_behind : gatewayByteSet.behind 0x4A 0x0470FFFF 2 true = false := by decide +kernel

/-- The read of the two bytes gives 0 for the absent one and the gateway's byte for the present one. -/
theorem lin7Edge_read_data : (gatewayByteSet.spineRead 0x4A 0x0470FFFF 2 false).data = [0, 0xA5#8] := by decide +kernel

/-- Refutes O56: its hypotheses ask only that the first byte of the access be absent. The two bytes from the last one of the absent LIN7's
area read as [0, 0xA5] and not as zeros. -/
theorem not_absentBlocksByR6 : ¬ Obligations.AbsentBlocksByR6 := by
  unfold Obligations.AbsentBlocksByR6
  rintro ⟨hignored, -⟩
  obtain ⟨habsent, -, hrange⟩ := lin7Area_ends_at_present_byte
  obtain ⟨t, -, -, hzeros, -⟩ := hignored 0x4A#8 0x0470FFFF#32 [0, 0] false gatewayByteSet habsent hrange (by decide) (by decide)
    lin7Edge_write_not_behind
  have hdata : [0, 0xA5#8] = zeros 2 := lin7Edge_read_data.symm.trans hzeros
  exact absurd hdata (by decide)

end Sys2Proof.Machine
end

section
/-! O57 (R88): what a write of PWR_VOTE does, by whether its initiator is named as voting and has answered before. That a vote that counts
only records the answer, and leaves the round for T_CONSENT to decide (R86), is the model's choice (log entry 43). -/

namespace Sys2Proof.Machine

/-- A state that `Keeps` relates to another under fields `F` differs from it in nothing but `F`. -/
theorem Keeps.sameBut {F : List Fld} {s t : State} (h : Keeps F s t) : s.sameBut F t := ⟨h.variant, h.pending, h.same⟩

theorem exec_pwrVote (init : Byte) (consent : Bool) (reason : Byte) (s : State) :
    exec (.pwrVote init consent reason) s = .next (s.pwrVote init.toNat consent reason.toNat) := rfl

/-- The model's test that no answer recorded is of an initiator, as the negation of the statements' test that one is. -/
theorem all_ne_eq_not_any_eq (answers : List (Nat × Nat)) (init : Nat) :
    answers.all (fun a => a.1 ≠ init) = !answers.any (fun a => a.1 = init) := by
  simp only [List.not_any_eq_all_not, ne_eq, decide_not]

/-- The first answer of a voter in phase PREPARE is recorded under its initiator ID. -/
theorem State.pwrVote_of_first {s : State} {init : Nat} (hphase : s.f PWR_STATE_PHASE = 1)
    (hvoter : s.scr.voters.contains init = true) (hnew : s.pwr.answers.any (fun a => a.1 = init) = false)
    (consent : Bool) (reason : Nat) :
    s.pwrVote init consent reason =
      { s with pwr := { s.pwr with answers := s.pwr.answers ++ [(init, if consent then 0x100 else reason)] } } :=
  if_pos ⟨hphase, hvoter, by rw [all_ne_eq_not_any_eq, hnew]; rfl⟩

/-- Only the first answer counts. -/
theorem State.pwrVote_of_answered {s : State} {init : Nat} (hanswered : s.pwr.answers.any (fun a => a.1 = init) = true)
    (consent : Bool) (reason : Nat) : s.pwrVote init consent reason = s :=
  if_neg fun ⟨_, _, hall⟩ => by
    rw [all_ne_eq_not_any_eq, hanswered] at hall
    exact Bool.noConfusion hall

/-- The write of an initiator that the Script does not name as voting is ignored. -/
theorem State.pwrVote_of_not_voter {s : State} {init : Nat} (hvoter : s.scr.voters.contains init = false)
    (consent : Bool) (reason : Nat) : s.pwrVote init consent reason = s :=
  if_neg fun ⟨_, hnamed, _⟩ => by
    rw [hvoter] at hnamed
    exact Bool.noConfusion hnamed

/-- Settles O57: the three clauses are the three cases of a write of PWR_VOTE above; the frame is that of its `Keeps` law. -/
theorem votesByR88 : Obligations.VotesByR88 := by
  unfold Obligations.VotesByR88
  refine ⟨?first, ?answered, ?notVoter⟩
  case first =>
    intro init consent reason s hphase hvoter hnew
    have hrecorded := State.pwrVote_of_first hphase hvoter hnew consent reason.toNat
    have hkeeps : Keeps [.pwr] s (s.pwrVote init.toNat consent reason.toNat) :=
      State.pwrVote_keeps (List.mem_singleton.mpr rfl) (Keeps.refl s) _ _ _
    exact ⟨_, exec_pwrVote init consent reason s, by rw [hrecorded], hkeeps.sameBut⟩
  case answered =>
    intro init consent reason s hanswered
    exact ⟨_, exec_pwrVote init consent reason s, State.pwrVote_of_answered hanswered consent reason.toNat⟩
  case notVoter =>
    intro init consent reason s hvoter
    exact ⟨_, exec_pwrVote init consent reason s, State.pwrVote_of_not_voter hvoter consent reason.toNat⟩

end Sys2Proof.Machine
end

section
/-! O59 (R281): what DLY's write of one record does to the ring, and to INDEX and WRAPS of DLY_WR. -/

namespace Sys2Proof.Machine

/-! Runs of bytes -/

@[simp] theorem bytesLE_length (n v : Nat) : (bytesLE n v).length = n := by
  induction n generalizing v with
  | zero => rfl
  | succ n ih => rw [bytesLE, List.length_cons, ih]

/-- A record is 32 bytes (R279). -/
@[simp] theorem DailyRec.bytes_length (r : DailyRec) : r.bytes.length = 32 := by
  simp only [DailyRec.bytes, List.length_append, bytesLE_length]

theorem State.rdBytes_succ (s : State) (a n : Nat) : s.rdBytes a (n + 1) = s.rd8 a :: s.rdBytes (a + 1) n := by
  simp only [State.rdBytes, List.range_succ_eq_map, List.map_cons, List.map_map, Function.comp_def, Nat.succ_eq_add_one,
    Nat.add_zero, Nat.add_assoc, Nat.add_comm 1]

/-- A run of bytes reads as it was written. -/
theorem State.rdBytes_wrBytes (s : State) (a : Nat) (l : List Byte) : (s.wrBytes a l).rdBytes a l.length = l := by
  induction l generalizing s a with
  | nil => rfl
  | cons b l ih =>
    rw [State.wrBytes, List.length_cons, State.rdBytes_succ, ih, State.rd8_wrBytes _ _ _ _ (Or.inl a.lt_succ_self),
      State.rd8_wr8_same]

/-- A run of bytes that is written leaves every other byte alone. -/
theorem State.memBut_wrBytes (s : State) (a : Nat) (l : List Byte) :
    memBut ((List.range l.length).map (a + ·)) s (s.wrBytes a l) := by
  intro b hb
  refine State.rd8_wrBytes s a b l (Decidable.byContradiction fun hin => ?_)
  exact hb (List.mem_map.mpr ⟨b - a, List.mem_range.mpr (by omega), by omega⟩)

@[simp] theorem State.wrBytes_regs (s : State) (a : Nat) (l : List Byte) : (s.wrBytes a l).regs = s.regs :=
  (State.wrBytes_keeps (F := [.mem]) (List.mem_singleton.mpr rfl) (Keeps.refl s) a l).same .regs (by decide)

/-- Bytes read the same where the memory is the same. -/
theorem State.rd8_of_mem {s t : State} (h : t.mem = s.mem) (a : Nat) : t.rd8 a = s.rd8 a := by
  simp only [State.rd8, h]

theorem State.rdBytes_of_mem {s t : State} (h : t.mem = s.mem) (a n : Nat) : t.rdBytes a n = s.rdBytes a n := by
  simp only [State.rdBytes, State.rd8_of_mem h]

/-! The two halves of a record's write (R281) -/

/-- The oldest record that waits for the archive is about to be overwritten: it is an overrun. -/
def State.countOverrun (s : State) : State :=
  if s.dly.pend.length < 8192 then s
  else
    ({ s with dly := { s.dly with pend := s.dly.pend.tail, cover := s.dly.cover - 1 } }.incSat DLY_OVERRUN_COUNT).raise
      DLY_FLAG_UNARCHIVED DLY_FLAG_CNT_COUNT

/-- The record's bytes at slot `k`, which joins the slots that wait for the archive: the half that leaves DLY_WR alone. -/
def State.placeRecord (s : State) (k : Nat) (r : DailyRec) : State :=
  let s := (s.wrBytes (dlyRing + 32 * k) r.bytes).countOverrun
  { s with dly := { s.dly with pend := s.dly.pend ++ [k], top := max s.dly.top r.slate.toNat } }

/-- DLY_WR steps on from slot `k`. -/
def State.advanceWr (s : State) (k : Nat) : State :=
  let s := s.setF DLY_WR_INDEX ((k + 1) % 8192)
  if k + 1 = 8192 then s.incMod DLY_WR_WRAPS else s

theorem State.ringWrite_eq (s : State) (r : DailyRec) :
    s.ringWrite r = ((s.placeRecord (s.f DLY_WR_INDEX) r).advanceWr (s.f DLY_WR_INDEX)).showPending := rfl

theorem State.showPending_mem (s : State) : s.showPending.mem = s.mem := rfl

theorem State.countOverrun_mem (s : State) : s.countOverrun.mem = s.mem := by
  unfold State.countOverrun
  split <;> rfl

theorem State.reg_countOverrun (s : State) : s.countOverrun.reg DLY_WR = s.reg DLY_WR := by
  unfold State.countOverrun
  split
  · rfl
  · rw [State.reg_raise_ne _ _ _ _ (by decide) (by decide), State.reg_incSat_ne _ _ _ (by decide)]
    rfl

theorem State.placeRecord_mem (s : State) (k : Nat) (r : DailyRec) :
    (s.placeRecord k r).mem = (s.wrBytes (dlyRing + 32 * k) r.bytes).mem :=
  State.countOverrun_mem _

theorem State.placeRecord_regs (s : State) (k : Nat) (r : DailyRec) :
    (s.placeRecord k r).regs = (s.wrBytes (dlyRing + 32 * k) r.bytes).countOverrun.regs := rfl

theorem State.reg_placeRecord (s : State) (k : Nat) (r : DailyRec) : (s.placeRecord k r).reg DLY_WR = s.reg DLY_WR := by
  rw [State.reg_of_regs DLY_WR (s.placeRecord_regs k r), State.reg_countOverrun]
  exact State.reg_of_regs DLY_WR (State.wrBytes_regs ..)

theorem State.advanceWr_mem (s : State) (k : Nat) : (s.advanceWr k).mem = s.mem := by
  unfold State.advanceWr
  simp only
  split <;> rfl

theorem State.advanceWr_index (s : State) (k : Nat) : (s.advanceWr k).f DLY_WR_INDEX = (k + 1) % 8192 := by
  have hset : (s.setF DLY_WR_INDEX ((k + 1) % 8192)).f DLY_WR_INDEX = (k + 1) % 8192 :=
    State.f_setF_fits _ _ _ (by decide) (Nat.mod_lt _ (by decide))
  unfold State.advanceWr
  simp only
  split
  · exact (State.f_setF_apart _ _ _ _ (by decide) (by decide)).trans hset
  · exact hset

/-- WRAPS counts exactly the step that brings INDEX back to 0. -/
theorem State.advanceWr_wraps (s : State) (k : Nat) :
    (s.advanceWr k).f DLY_WR_WRAPS = (s.f DLY_WR_WRAPS + (if k = 8191 then 1 else 0)) % 2 ^ 19 := by
  have hindex : (s.setF DLY_WR_INDEX ((k + 1) % 8192)).f DLY_WR_WRAPS = s.f DLY_WR_WRAPS :=
    State.f_setF_apart _ _ _ _ (by decide) (by decide)
  unfold State.advanceWr
  by_cases hk : k = 8191
  · simp only [hk, ↓reduceIte, State.incMod] at hindex ⊢
    rw [State.f_setF_same _ _ _ (by decide), hindex, Nat.mod_mod]
    rfl
  · simp only [hk, ↓reduceIte, show ¬ k + 1 = 8192 by omega, Nat.add_zero]
    exact hindex.trans (Nat.mod_eq_of_lt (State.f_lt s DLY_WR_WRAPS)).symm

/-! A record's write as a whole -/

theorem State.ringWrite_mem (s : State) (r : DailyRec) :
    (s.ringWrite r).mem = (s.wrBytes (dlyRing + 32 * s.f DLY_WR_INDEX) r.bytes).mem := by
  rw [State.ringWrite_eq, State.showPending_mem, State.advanceWr_mem, State.placeRecord_mem]

theorem State.island_ringWrite (s : State) (r : DailyRec) (i : Nat) : (s.ringWrite r).island i = s.island i := by
  have hislands : (s.ringWrite r).islands = s.islands :=
    (State.ringWrite_keeps (F := [.regs, .mem, .dly]) (by decide) (by decide) (by decide) (Keeps.refl s) r).same .islands
      (by decide)
  simp only [State.island, hislands]

theorem State.island_setIsland_same (s : State) (i : Nat) (x : Island) : (s.setIsland i x).island i = x :=
  tget_tset_same ..

theorem State.f_showPending_of_wr (s : State) (q : RF) (hq : q.addr = DLY_WR) : s.showPending.f q = s.f q :=
  State.f_setF_ne _ _ _ _ (by rw [hq]; decide)

theorem State.ringWrite_index (s : State) (r : DailyRec) :
    (s.ringWrite r).f DLY_WR_INDEX = (s.f DLY_WR_INDEX + 1) % 8192 := by
  rw [State.ringWrite_eq, State.f_showPending_of_wr _ _ rfl, State.advanceWr_index]

theorem State.ringWrite_wraps (s : State) (r : DailyRec) :
    (s.ringWrite r).f DLY_WR_WRAPS =
      (s.f DLY_WR_WRAPS + (if s.f DLY_WR_INDEX = 8191 then 1 else 0)) % 2 ^ 19 := by
  rw [State.ringWrite_eq, State.f_showPending_of_wr _ _ rfl, State.advanceWr_wraps,
    State.f_of_reg DLY_WR_WRAPS (State.reg_placeRecord s _ r)]

/-- The record's bytes stand at slot DLY_WR.INDEX afterwards. -/
theorem State.rdBytes_ringWrite (s : State) (r : DailyRec) :
    (s.ringWrite r).rdBytes (dlyRing + 32 * s.f DLY_WR_INDEX) 32 = r.bytes := by
  rw [State.rdBytes_of_mem (s.ringWrite_mem r), ← r.bytes_length, State.rdBytes_wrBytes]

theorem State.memBut_ringWrite (s : State) (r : DailyRec) :
    memBut ((List.range 32).map (dlyRing + 32 * s.f DLY_WR_INDEX + ·)) s (s.ringWrite r) := by
  intro a ha
  rw [State.rd8_of_mem (s.ringWrite_mem r)]
  exact State.memBut_wrBytes s _ r.bytes a (by rwa [r.bytes_length])

/-- DLY takes the oldest record of an island's stamp FIFO into the ring while its own island runs. -/
theorem exec_dailiesRecordWrite_of_waiting {isl : Fin 30} {r : DailyRec} {l : List DailyRec} {s : State}
    (hrecs : (s.island isl).recs = r :: l) (hclock : s.clocked 2 = true) :
    exec (.dailiesRecordWrite isl) s = .next ((s.setIsland isl { s.island isl with recs := l }).ringWrite r) := by
  change execDailiesRecordWrite isl s = _
  simp only [execDailiesRecordWrite, go, hclock, hrecs, Bool.not_true, Bool.false_eq_true, ↓reduceIte]

/-- Settles O59: taking the record off its island's FIFO touches neither memory nor DLY_WR, and the write to the ring is that of the lemmas
above. -/
theorem dailiesRingByR281 : Obligations.DailiesRingByR281 := by
  unfold Obligations.DailiesRingByR281
  intro isl r l s hrecs hclock
  let taken := s.setIsland isl { s.island isl with recs := l }
  refine ⟨_, exec_dailiesRecordWrite_of_waiting hrecs hclock, taken.rdBytes_ringWrite r, taken.memBut_ringWrite r,
    ⟨taken.ringWrite_index r, taken.ringWrite_wraps r⟩, ?_⟩
  rw [State.island_ringWrite, State.island_setIsland_same]

end Sys2Proof.Machine
end
